-- ==== Sys2Proof/Word.lean ====
section
/-! DEFINITION. The plain words of the model: bytes, the fixed-width numbers of the manual, and the
serial-number comparison of 00_scope.md R15. -/
namespace Sys2Proof

/-- One byte. -/
abbrev Byte := BitVec 8
abbrev U8 := BitVec 8
abbrev U16 := BitVec 16
abbrev U32 := BitVec 32
abbrev U64 := BitVec 64

/-- A byte string, first byte at the lowest address (00_scope.md R13). -/
abbrev Bytes := List Byte

/-- The four dictionary principals (00_scope.md R8). -/
inductive Principal where
  | operator | kernel | tenant | auditor
  deriving DecidableEq, Repr

/-- A shell slot, 0 to 31 (02_shells_and_rigging.md R51). -/
abbrev Slot := Fin 32
/-- A PCIe function: 0 is PF0, n is VF n (10_host_objects.md R334). -/
abbrev Fn := Fin 32
/-- A physical seat by island number, 144 × die + seat in die (13_parameter_dictionary.md R459). -/
abbrev SeatId := Fin 2304
/-- A physical GDDR7 channel (08_gddr7_and_cxl_tiers.md R264). -/
abbrev ChanId := Fin 96
/-- A Ghengo port, a CXL port, a link of R218, an island of R459. -/
abbrev GhPortId := Fin 16
abbrev CxlPortId := Fin 8
abbrev LinkId := Fin 49
abbrev IslandId := Fin 2353

end Sys2Proof
end

