-- ==== Sys2Proof/Syntax.lean ====
section
/-! DEFINITION. The commands of the block: one constructor per row of spec/opcode_table.json, in the table's order,
and the plain types their operands use. -/
namespace Sys2Proof

/-- The error that the SECDED code of a check word finds in a block (08 R268). -/
inductive EccError where
  | none | single | double
  deriving DecidableEq, Repr

/-- What a channel access meets: how many times its data CRC failed, up to the fourth, the ADDR_TAG read where it is not the block's own, and the
error that the SECDED code finds (08 R267, R268, R273). -/
structure ChanCheck where
  crcs : Fin 5 := 0
  tag : Option (Fin 16) := .none
  error : EccError := .none
  deriving DecidableEq, Repr

/-- What a read of MD on its own account comes back with: data from outside the module, or UR, CA or no completion in time; of a channel, what
the access meets there (08 R267, R268, 09 R310, 10 R342). -/
inductive ReadResult where
  | data (b : Bytes)
  | failed
  | memory (check : ChanCheck)
  deriving DecidableEq, Repr

/-- What comes back from outside the module for one command: the data read there in order, the status of a read once the
data has run out (0 stands for TIMEOUT), and the status of writes (0 is OK) (06 Table Net-3); and what its first read of a channel meets. -/
structure Outside where
  data : Bytes := []
  rstatus : Fin 8 := 0
  wstatus : Fin 8 := 0
  check : ChanCheck := {}
  deriving DecidableEq, Repr

/-- Where a register write goes: BAR0, BAR4, or the ATS control or the Device Control 2 register of the function's configuration space (07 R245,
09 R317, 10 R338). -/
inductive RegSpace where
  | bar0 | bar4 | atsControl | deviceControl2
  deriving DecidableEq, Repr

/-- The completion of a Deferrable Memory Write (10 R355). -/
inductive DmwrResult where
  | success | ur | ca | retry
  deriving DecidableEq, Repr

/-- A clock or voltage monitor (17 Table Safety-3): of a seat island, of a die's crossbar or rails, of a memory, link or CXL block
(0 to 7, 8 to 15, 16 to 23), of a GDDR7 rail set, of a ring block or the ring rail, of MD. -/
inductive Monitor where
  | seatClock (seat : SeatId)
  | dieClock (die : Fin 16)
  | dieRail (die : Fin 16)
  | blockClock (block : Fin 24)
  | gddrRail (ringDie : Fin 8)
  | ringClock (stop : Fin 8)
  | ringRail
  | md
  deriving DecidableEq, Repr

/-- Where patrol scrub reads (08 R272, 17 Table Safety-1): a channel, by its block; a word of a seat's scratchpad, accumulator file or register file; a
line of a seat's I cache or D cache, by its address; a die slice, by its word of 8 bytes; or MD SRAM that serves a shell. -/
inductive PatrolUnit where
  | chan (chan : ChanId)
  | seat (seat : SeatId)
  | icache (seat : SeatId)
  | dcache (seat : SeatId)
  | slice (die : Fin 16) (slice : Fin 48)
  | md (slot : Slot)
  deriving DecidableEq, Repr

/-- What the checks of an op report (04 R147 to R152, 17 R555): nothing, a residue mismatch, a guard mismatch, an
uncorrectable error in an operand read, a mismatch of the dual conversion, or a parity error on the seat's own path (17 Table Safety-1). -/
inductive OpCheck where
  | ok | residue | guard | operand | conversion | parity
  deriving DecidableEq, Repr

/-- Integer operations of two operands: RV64IM, Zba and Zbb (05 R159). -/
inductive AluOp where
  | add | sub | sll | slt | sltu | xor | srl | sra | or | and
  | addw | subw | sllw | srlw | sraw
  | mul | mulh | mulhsu | mulhu | div | divu | rem | remu
  | mulw | divw | divuw | remw | remuw
  | andn | orn | xnor | max | maxu | min | minu | rol | ror | rolw | rorw
  | sh1add | sh2add | sh3add | adduw | sh1adduw | sh2adduw | sh3adduw | slliuw
  deriving DecidableEq, Repr

/-- Integer operations of one operand: Zbb (05 R159). -/
inductive UnOp where
  | clz | ctz | cpop | clzw | ctzw | cpopw | sextb | sexth | zexth | orcb | rev8
  deriving DecidableEq, Repr

/-- Branch conditions. -/
inductive BrOp where
  | eq | ne | lt | ge | ltu | geu
  deriving DecidableEq, Repr

/-- Floating operations (05 R161). -/
inductive FOp where
  | add | sub | mul | div | sqrt | min | max | sgnj | sgnjn | sgnjx | madd | msub | nmsub | nmadd
  deriving DecidableEq, Repr

/-- Floating comparisons. -/
inductive FCmp where
  | eq | lt | le
  deriving DecidableEq, Repr

/-- The second operand of an integer operation. -/
inductive Src where
  | reg (r : Fin 32)
  | imm (v : U64)
  deriving DecidableEq, Repr

/-- The instructions of CORE_COMPUTE: RV64IMFD with Zba and Zbb, without memory accesses and CSRs (05 R159, R160); and bits
that are no instruction of R159 (05 Table Tender-8). -/
inductive Compute where
  | illegal
  | alu (op : AluOp) (rd rs1 : Fin 32) (src : Src)
  | unary (op : UnOp) (rd rs1 : Fin 32)
  | lui (rd : Fin 32) (imm : BitVec 20)
  | auipc (rd : Fin 32) (imm : BitVec 20)
  | jal (rd : Fin 32) (off : BitVec 21)
  | jalr (rd rs1 : Fin 32) (off : BitVec 12)
  | branch (op : BrOp) (rs1 rs2 : Fin 32) (off : BitVec 13)
  | farith (op : FOp) (dbl : Bool) (rd rs1 rs2 rs3 : Fin 32) (rm : Fin 8)
  | fcmp (op : FCmp) (dbl : Bool) (rd rs1 rs2 : Fin 32)
  | fclass (dbl : Bool) (rd rs1 : Fin 32)
  | fmvToX (dbl : Bool) (rd rs1 : Fin 32)
  | fmvFromX (dbl : Bool) (rd rs1 : Fin 32)
  | fcvtToInt (dbl uns long : Bool) (rd rs1 : Fin 32) (rm : Fin 8)
  | fcvtFromInt (dbl uns long : Bool) (rd rs1 : Fin 32) (rm : Fin 8)
  | fcvtFF (toDbl : Bool) (rd rs1 : Fin 32) (rm : Fin 8)
  deriving DecidableEq, Repr

/-- Atomic operations of RV64A (07 R245). -/
inductive AmoOp where
  | swap | add | xor | and | or | min | max | minu | maxu
  deriving DecidableEq, Repr

/-- The forms of a CSR instruction (05 R190). -/
inductive CsrOp where
  | rw | rs | rc
  deriving DecidableEq, Repr

/-- A request packet: a read of some bytes, a write that may await an acknowledgement, an atomic of 4 or 8 bytes (06 R212, R214). -/
inductive Req where
  | read (n : Fin 257)
  | write (ack : Bool) (data : Bytes)
  | atomic (op : AmoOp) (dbl : Bool) (v : U64)
  deriving DecidableEq, Repr

/-- What an MGT packet carries: firmware bytes for the seat ports of its mask, or an access to a physical seat window (05 R165, 06 R202, 07
R233). -/
inductive MgtOp where
  | firmware (off : U16) (data : Bytes)
  | access (req : Req) (ga : U64)
  deriving DecidableEq, Repr

/-- The requester of a request that has had no response: a seat's core, its oldest store, a unison-add contribution, a fence advance of MD by its tag
(06 R213, 14 R470). -/
inductive NetReq where
  | core
  | store
  | transfer (ticket : U32)
  | advance (tag : U32)
  deriving DecidableEq, Repr

/-- Who awaits a CXL.mem response: a seat's core, its oldest store, or a transfer of a seat (08 R282, R289). -/
inductive CxlWaiter where
  | core (seat : SeatId)
  | store (seat : SeatId)
  | transfer (seat : SeatId) (ticket : U32)
  deriving DecidableEq, Repr

/-- The trained link of a CXL port: whether at 64 GT/s or 32 GT/s, x8 or x4, a switch, and its devices as (index, CXL type, units of 256 MiB)
(08 R282). -/
structure CxlLink where
  fast : Bool
  wide : Bool
  switch : Bool
  devs : List (Fin 8 × Fin 4 × U16)
  deriving DecidableEq, Repr

/-- A derating input that changes: the host port's generation and width, or the capacities that a slower ring clock leaves to an attachment and
to a ring segment, none when it is back (08 Table Tiers-8). -/
inductive CapInput where
  | host (gen : Fin 7) (width : Fin 17)
  | ring (c : Option (U16 × U16))
  deriving DecidableEq, Repr

/-- Service of a backlogged shell in a class over a 100 µs window: the bytes it received (08 R299). -/
structure RegSample where
  slot : Slot
  cls : Fin 12
  bytes : Nat
  deriving DecidableEq, Repr

/-- Where a dictionary request comes from: an MCTP endpoint with its message tag, or the mailbox of a function (13 R441). -/
inductive PapFrom where
  | mctp (binding : Fin 2) (eid : Fin 256) (tag : Fin 8)
  | mailbox (fn : Fn)
  deriving DecidableEq, Repr

/-- A dictionary session: by its identifier, or session 0 of a function's mailbox (13 R443, R445). -/
inductive SessionRef where
  | id (n : U16)
  | kernel (fn : Fn)
  deriving DecidableEq, Repr

/-- The messages of Ademen, channels and the Boathouse. The spec gives their names and not their MSG numbers, so a message is
named here and carries no number (14 R478, log 27). -/
inductive AdmMsg where
  | leaseRequest | leaseRenew | leaseReturn | leaseRevoke | epochQuery
  | chOpen | chClose
  | bhAlloc | bhFree | bhRenew | bhMove | bhQuery
  deriving DecidableEq, Repr

/-- The header of a received message: the port it came by (16 stands for the module's own way to itself), and the fields of 14 Table
Ghengo-8 that vary. -/
structure GhHead where
  port : Fin 17
  src : U16
  txn : U32
  epoch : U32 := 0
  key : U64 := 0
  arg : U64 := 0
  deriving DecidableEq, Repr

/-- A seat action that a borrower sends on GV4 to the lender of a leased seat (14 R483): the start of a job with its slot, seat count,
logical seat, entry and argument; prefill; scrub; stop; leaving a catch point; save; restore, of a seat that had ended or not. -/
inductive SeatAction where
  | start (slot : Slot) (count lseat : U16) (entry arg : U64)
  | prefill (offset : U32) (data : Bytes)
  | scrub | stop | proceed | save
  | restore (ended : Bool) (image : Bytes)
  deriving DecidableEq, Repr

/-- A lender's report on GV4 (14 R483): a prefill, scrub, stop or restore is done; the seat stands drained at a CATCH; its section is
saved; it goes inside PEG.WAIT or PEG.WAITANY or leaves it, after a last CATCH with PREEMPT_OK (11 R394); it has ended; it has trapped, with what its
vzseatid showed (05 R193); a transfer of it has ended with the context lost. The last three carry its ARRAY_SUMMARY (04 R151). -/
inductive SeatReport where
  | done
  | caught (number desc : U64)
  | saved (image : Bytes)
  | ended (hint : Bool) (summary : U64)
  | waits (inside : Bool)
  | trapped (cause mtval pc ident summary : U64)
  | lost (reason : U8) (summary : U64)
  deriving DecidableEq, Repr

/-- The binding that a Ghengo packet names (14 Table Ghengo-3). -/
inductive GhBind where
  | lease (id : U32)
  | channel (n : U8)
  | boathouse (aperture : Fin 128) (window : Fin 1024)
  deriving DecidableEq, Repr

/-- Who sent a Ghengo packet: its module, and the agent and tag that its response goes back to (14 Table Ghengo-3). -/
structure GhSender where
  module : U16
  agent : U16
  tag : U32
  deriving DecidableEq, Repr

/-- Who sent a peg write: its island, and how many of that island's requests to the seat go before it (06 R201). -/
structure PegSender where
  island : IslandId
  after : U32
  deriving DecidableEq, Repr

/-- What a CXL.mem response says besides its data: its poison, and whether its DevLoad report is severe (08 R282, R298). -/
structure CxlReport where
  poison : Bool
  severe : Bool
  deriving DecidableEq, Repr

/-- What a Ghengo packet asks: a request, a peg word, a unison-add contribution, or the response to a request of this module
with its status (14 Table Ghengo-3, 06 R226). -/
inductive GhOp where
  | req (r : Req)
  | peg (set : Bool)
  | red (group lseat first : U16) (fret : Bool) (base flags weight : U16) (words : List (BitVec 128))
  | response (st : Fin 8)
  deriving DecidableEq, Repr

/-- Whether each copy of the identity record passed the steps of 18 R570 beside the limits. -/
structure IdChecks where
  first : Bool
  second : Bool
  deriving DecidableEq, Repr

/-- The commands of the block (spec/opcode_table.json). -/
inductive Instr where
  /-- R526: The 54 V input reaches input-good after being absent, which begins a cold start of cause 0. -/
  | inputGoodRise
  /-- R618: The sequencer finishes bringing up the MD, die, ring and GDDR7 rails and raises MOD_PWRGOOD. -/
  | modPwrgoodRise
  /-- R614: Input-good falls, MOD_PWRGOOD goes low and every output reaches its unpowered state. -/
  | inputGoodFall
  /-- R620: PERST# is asserted for at least 1 µs while 54 V is present, which interrupts any start in progress. -/
  | perstAssert
  /-- R526: The release of PERST# begins a warm start of cause 1, or starts the stage 0 limit counting. -/
  | perstRelease
  /-- R526: A PCIe Hot Reset or DL_Down on the host port begins a warm start of cause 2. -/
  | hotReset
  /-- R526: DEVICE_RESET := 1 begins a warm start of cause 3. -/
  | deviceResetWarm
  /-- R526: DEVICE_RESET := 2 begins a start with cold steps, of cause 4. -/
  | deviceResetCold
  /-- R528: The 100 µs drain of reset entry ends, waiting host writes are discarded, and the chain heads are retained and the islands reset. -/
  | resetEntryDrainEnd
  /-- R544: The Cox hardware watchdog fires, which forces PL7, takes a dump with trigger 3 and begins a warm start of cause 5. -/
  | coxWatchdogExpiry
  /-- R530: Stage 0 ends with the host port answering, the BARs present, the dictionary answering and the power loop running. -/
  | minimalSafeFunction (identityOk : IdChecks) (slotId : Fin 16) (gen : Fin 7) (width : Fin 17)
  /-- R529: Stage 1 ends when the islands are up and every link has passed its CRC test. -/
  | stage1End (failed : List IslandId) (badLink : Option LinkId)
  /-- R529: Stage 2 ends when every channel is TRAINED or FAILED and every CXL port has enumerated or failed. -/
  | stage2End (failed : List ChanId)
  /-- R529: Stage 3 ends when every enabled Ghengo port has left TRAINING and SECURING once. -/
  | stage3End
  /-- R531: Stage 4 ends, START_STAGE becomes 5 and FN_INFO shows the interface level. -/
  | fullFunction
  /-- R532: A stage passes its limit, START_STAGE := 7 and a dump is taken with trigger 5. -/
  | stageLimitExpiry
  /-- R533: A seat reports the digest of its firmware store, and a wrong digest is answered with a unicast resend or marks the seat failed. -/
  | fwDigestReport (seat : SeatId) (digest : List Byte)
  /-- R534: A seat's array self-test and march test end, and a failing seat is marked failed. -/
  | seatSelftestDone (seat : SeatId) (pass : Bool)
  /-- R616: LINK_REFCLK is absent at stage 1, which is a start fault, or is lost in service, which is an MD clock event. -/
  | linkRefclkLoss
  /-- R616: A loss of PCIE_REFCLK in service takes the host link down, and a warm start of cause 2 follows. -/
  | pcieRefclkLoss
  /-- R37: A closing bridge finishes draining and enters the closed state. -/
  | bridgeDrainDone (n : IslandId)
  /-- R38: A packet reaches a closed bridge and is answered ISLAND_CLOSED if non-posted or acknowledged, or else discarded and counted. -/
  | closedBridgePacket (n : IslandId) (requester : IslandId) (nonPosted acked : Bool)
  /-- R53: RIG_COMMIT := 1 takes the staged fields of a slot and starts the consistency check. -/
  | rigCommit (slot : Slot) (byKernel : Bool)
  /-- R60: RIG_COMMIT := 2 cancels a latched commit with 0x011C and rolls back its migrations and reservations. -/
  | rigCancel (slot : Slot)
  /-- R58: The consistency and admission checks of a commit end, and the commit is refused, applied at once, or latched for a catch point. -/
  | rigCheckDone (slot : Slot)
  /-- R63: A tender core executes CATCH, reaching its next catch number and stopping there if a latch applies. -/
  | catch_ (seat : SeatId) (funct7 : BitVec 7) (rd rs1 rs2 : Fin 32)
  /-- R186: A seat stopped at a catch point finishes draining its ops, transfers, store buffer and D cache. -/
  | seatCatchDrained (seat : SeatId)
  /-- R67: The copy of moving seats ends, the windows point at the destinations, held traffic is delivered and the seats leave the catch point. -/
  | seatCopyDone (slot : Slot)
  /-- R71: An uncorrectable error during a seat copy stops the shell or retires the destination seat, and the rigging ends with 0x011D. -/
  | seatCopyFault (slot : Slot) (seat : SeatId) (source : Bool)
  /-- R60: CATCH_DEADLINE_MS expires on a latched commit, which is rolled back with 0x0113 or 0x0118. -/
  | catchDeadlineExpiry (slot : Slot)
  /-- R72: One 64 KiB granule of a channel migration finishes copying, and accesses to it now go to the destination. -/
  | migrationGranuleCopied (slot : Slot) (lch : Fin 96)
  /-- R77: FREEZE_CTL := 1 freezes an IDLE shell at once or latches a freeze for the next catch point. -/
  | freezeCtlFreeze (slot : Slot)
  /-- R77: FREEZE_CTL := 2 on a FROZEN shell checks IMAGE_TARGET and begins writing the save image. -/
  | freezeCtlSave (slot : Slot)
  /-- R77: FREEZE_CTL := 3 releases a FROZEN shell, or begins restoring the image of a SAVED shell. -/
  | freezeCtlThaw (slot : Slot)
  /-- R77: FREEZE_CTL := 4 on an IDLE shell reads and checks the image at IMAGE_TARGET and binds the shell to it. -/
  | freezeCtlLoadImage (slot : Slot)
  /-- R77: The save image is written, the windows target IMAGE and the shell becomes SAVED. -/
  | freezeSaveDone (slot : Slot)
  /-- R77: The image is restored into the shell, the windows target LOCAL and the shell runs or idles. -/
  | freezeRestoreDone (slot : Slot)
  /-- R78: The image header read for a load completes, and the span, tag, format, seal and shape are checked. -/
  | imageHeaderReadDone (slot : Slot) (header seats channels rest : Bytes)
  /-- R50: A seat scrub ends, and the seat returns to the pool or is ready for its next use. -/
  | seatScrubDone (seat : SeatId)
  /-- R50: A channel scrub ends, and the channel returns to the pool. -/
  | channelScrubDone (chan : ChanId)
  /-- R85: Each millisecond adds each shell's seat, channel and port counts to its meters. -/
  | meterTick
  /-- R118: An MMA descriptor at the head of the array-op queue starts, optionally clearing first and converting after. -/
  | opMma (seat : SeatId) (check : OpCheck)
  /-- R104: A CONV op converts a tile into its output format at OFF_C. -/
  | opConv (seat : SeatId) (check : OpCheck)
  /-- R135: A LOADW op adds stored words into a tile, or replaces the tile with them. -/
  | opLoadw (seat : SeatId) (check : OpCheck)
  /-- R144: A REQ op requantises a tile into an MX format with block scales. -/
  | opReq (seat : SeatId) (check : OpCheck)
  /-- R123: An ORIGIN op loads the seat's output-origin register. -/
  | opOrigin (seat : SeatId)
  /-- R154: A CMP_LOADT op loads a tree-table bank from the scratchpad. -/
  | opCmpLoadt (seat : SeatId) (check : OpCheck)
  /-- R157: A CMP op evaluates oblivious trees against feature rows into a tile. -/
  | opCmp (seat : SeatId) (check : OpCheck)
  /-- R129: A conversion held until the shared conversion unit is free begins. -/
  | conversionUnitStart (seat : SeatId)
  /-- R140: An array op retires, posts its result word and sets its peg if PEG_EN is set. -/
  | arrOpRetire (seat : SeatId)
  /-- R130: The pause counter of a long MMA reaches a multiple of 16,384, and the guard check and residue collection run. -/
  | mmaPause (seat : SeatId) (check : OpCheck)
  /-- R149: A tile that has received merged words is guard-checked within 16,384 sc of the first such word. -/
  | guardCheckMerged (seat : SeatId) (tile : Fin 12) (bad : Bool)
  /-- R172: ARR.ISSUE writes a descriptor into the array-op queue and latches the stochastic-rounding seed. -/
  | arrIssue (seat : SeatId) (rd rs1 rs2 : Fin 32)
  /-- R172: An ARR.ISSUE that waits on a full queue retires when an op retires. -/
  | arrIssueUnblock (seat : SeatId)
  /-- R151: ARR.RESULT returns the latest op result word. -/
  | arrResult (seat : SeatId) (rd rs1 rs2 : Fin 32)
  /-- R175: ARR.WAIT waits until at most n issued ops have not retired. -/
  | arrWait (seat : SeatId) (rd rs1 : Fin 32) (imm : BitVec 12)
  /-- R175: A waiting ARR.WAIT retires 1 sc after its condition holds. -/
  | arrWaitDone (seat : SeatId)
  /-- R174: ARR.FENCE orders earlier scratchpad stores before later issued ops. -/
  | arrFence (seat : SeatId) (rd rs1 : Fin 32) (imm : BitVec 12)
  /-- R168: VZ.FENCE begins an acquire, release or acq_rel at a scope, with its cache actions. -/
  | vzFence (seat : SeatId) (rd rs1 : Fin 32) (imm : BitVec 12)
  /-- R242: A release completes when every earlier access meets the condition of its scope, and later accesses may proceed. -/
  | vzFenceComplete (seat : SeatId)
  /-- R188: SIG.UPD updates the control-flow signature with its immediate. -/
  | sigUpd (seat : SeatId) (rd rs1 : Fin 32) (imm : BitVec 12)
  /-- R188: SIG.CHK compares the signature, restarting the watchdog on a match and raising the signature exception otherwise. -/
  | sigChk (seat : SeatId) (funct7 : BitVec 7) (rd rs1 rs2 : Fin 32)
  /-- R187: SEAT.END begins the drain and system-scope release that ends the seat's part of the job. -/
  | seatEnd (seat : SeatId) (funct7 : BitVec 7) (rd rs1 rs2 : Fin 32)
  /-- R187: A seat's SEAT.END drain and release end, and the seat reports its end and returns to firmware idle. -/
  | seatEndDrained (seat : SeatId)
  /-- R177: PEG.SET sets or clears a local peg, relaxed or as a release. -/
  | pegSet (seat : SeatId) (rd rs1 : Fin 32) (imm : BitVec 12)
  /-- R170: PEG.TEST returns a peg's value with no ordering. -/
  | pegTest (seat : SeatId) (rd rs1 : Fin 32) (imm : BitVec 12)
  /-- R178: PEG.WAIT waits for a local peg to reach its sense, relaxed or acquire. -/
  | pegWait (seat : SeatId) (rd rs1 : Fin 32) (imm : BitVec 12)
  /-- R178: PEG.WAITANY waits until any peg of a mask is set and returns the lowest. -/
  | pegWaitany (seat : SeatId) (funct7 : BitVec 7) (rd rs1 rs2 : Fin 32)
  /-- R178: A waiting PEG.WAIT or PEG.WAITANY observes its peg, clears it if asked, and retires after its scope's acquire. -/
  | pegWaitWake (seat : SeatId)
  /-- R247: PEG.RSET sends a posted write to the peg word of a logical seat of the shell. -/
  | pegRset (seat : SeatId) (funct7 : BitVec 7) (rd rs1 rs2 : Fin 32)
  /-- R182: XFER.SUBMIT enqueues a transfer descriptor and returns a ticket. -/
  | xferSubmit (seat : SeatId) (funct7 : BitVec 7) (rd rs1 rs2 : Fin 32)
  /-- R182: An XFER.SUBMIT that waits on a full transfer queue retires when room appears. -/
  | xferSubmitUnblock (seat : SeatId)
  /-- R183: XFER.POLL returns the state of a ticket. -/
  | xferPoll (seat : SeatId) (funct7 : BitVec 7) (rd rs1 rs2 : Fin 32)
  /-- R184: WIN.SET sets the base, length and rights of a scratchpad window region. -/
  | winSet (seat : SeatId) (funct7 : BitVec 7) (rd rs1 rs2 : Fin 32)
  /-- R162: A tender-core load is translated or served from the seat-local space. -/
  | coreLoad (seat : SeatId) (compressed : Bool) (rd rs1 : Fin 32) (off : BitVec 12) (width : Fin 4) (signed fp : Bool)
  /-- R214: A tender-core store enters the store buffer toward its destination. -/
  | coreStore (seat : SeatId) (compressed : Bool) (rs1 rs2 : Fin 32) (off : BitVec 12) (width : Fin 4) (fp : Bool)
  /-- R245: An atomic memory operation is performed at the arbiter, at its destination or as a PCIe AtomicOp. -/
  | coreAmo (seat : SeatId) (op : AmoOp) (dbl : Bool) (rd rs1 rs2 : Fin 32)
  /-- R246: LR reserves 8 bytes of the own scratchpad. -/
  | coreLr (seat : SeatId) (dbl : Bool) (rd rs1 : Fin 32)
  /-- R246: SC stores conditionally on its reservation. -/
  | coreSc (seat : SeatId) (dbl : Bool) (rd rs1 rs2 : Fin 32)
  /-- R244: The base FENCE orders the core's accesses at seat scope. -/
  | coreFence (seat : SeatId)
  /-- R169: FENCE.I writes back the D cache and invalidates the I cache. -/
  | fenceI (seat : SeatId)
  /-- R190: A CSR instruction reads or writes a tender-core CSR. -/
  | csrAccess (seat : SeatId) (op : CsrOp) (imm : Bool) (csr : BitVec 12) (rd src : Fin 32)
  /-- R160: An integer, multiply, divide, branch or floating instruction executes with its stated latency. -/
  | coreCompute (seat : SeatId) (compressed : Bool) (insn : Compute) (bits : U32)
  /-- R192: ECALL from user mode traps, and the context is lost. -/
  | ecall (seat : SeatId)
  /-- R192: EBREAK stops the seat for an open debug session, or else faults the context. -/
  | ebreak (seat : SeatId) (compressed : Bool)
  /-- R214: The response to a core load or atomic arrives, and a status other than OK faults or stops the seat. -/
  | coreLoadResponse (seat : SeatId) (o : Outside)
  /-- R214: The acknowledgement of a core store arrives, and a status other than OK raises an imprecise access fault. -/
  | storeAck (seat : SeatId) (status : Fin 8)
  /-- R189: The tender-core watchdog count reaches its period and raises the watchdog interrupt. -/
  | tenderWatchdogExpiry (seat : SeatId)
  /-- R238: A REQ packet reaches its destination island and is performed in the agent's order, or answered with a status. -/
  | reqPacketArrival (src : IslandId) (slot : Option Slot) (req : Req) (ga : U64) (o : Outside)
  /-- R248: A peg write reaches its seat's peg unit and sets or clears the peg, or is held. -/
  | pegWriteArrival (src : PegSender) (slot : Slot) (lseat : U16) (peg : Fin 48) (value : Bool)
  /-- R212: A response arrives at its requester with its status. -/
  | rspPacketArrival (late : Bool)
  /-- R202: An MGT packet reaches its crossbar and is replicated to the seat ports of its mask if multicast. -/
  | mgtPacketArrival (die : Fin 16) (mask : BitVec 144) (op : MgtOp)
  /-- R221: A unison-add packet reaches a combining node and combines with a matching held packet or is held. -/
  | redNodeArrival (k node : Nat)
  /-- R221: A packet held 16 sc at a combining node without a partner moves on. -/
  | combineHoldExpiry (k : Nat)
  /-- R222: A unison-add packet reaches its destination and is merged into its armed group, or refused. -/
  | redPacketArrival (k : Nat) (st : Fin 8)
  /-- R213: A non-posted request inside the module has had no response for 100 µs and is answered TIMEOUT. -/
  | netRequestTimeout (seat : SeatId) (what : NetReq)
  /-- R213: A host-window request has had no completion for 10 ms and is answered TIMEOUT. -/
  | hostRequestTimeout (seat : SeatId) (ticket : Option U32)
  /-- R216: A receiver finds a CRC error or sequence gap and asks for replay. -/
  | linkFlitError (link : LinkId) (nth : Fin 4)
  /-- R254: A CompareAndSwap completion of a host-window FENCE_ADV loop arrives, and the loop repeats or ends. -/
  | fenceCasCompletion (seat : SeatId) (ticket : U32) (r : Option U64)
  /-- R262: During a start, self-test or recovery, a wait of 50 µs lets the Cox lower the seat's clock and lend its power. -/
  | waitLend (seat : SeatId)
  /-- R268: A channel read is checked against its check word and delivered, corrected or answered POISONED. -/
  | channelRead (chan : ChanId) (block : BitVec 25) (check : ChanCheck)
  /-- R269: A channel write stores a new check word, or merges a partial block. -/
  | channelWrite (chan : ChanId) (offset : BitVec 31) (data : Bytes) (check : ChanCheck)
  /-- R272: Patrol scrub reads a block, corrects it or marks it poisoned. -/
  | patrolScrubRead (unit : PatrolUnit) (block : U64) (check : ChanCheck)
  /-- R281: Every 50 ms a channel repeats its WCK and read-timing tracking. -/
  | channelTracking (chan : ChanId)
  /-- R277: CHANNEL_MAINT retire moves a free TRAINED channel to RETIRED. -/
  | channelMaintRetire (chan : U8)
  /-- R277: CHANNEL_MAINT retrain clears the flash record of a FAILED or RETIRED channel and trains it fully. -/
  | channelMaintRetrain (chan : U8)
  /-- R278: Full training or restore of a channel passes or fails. -/
  | channelTrainingDone (chan : ChanId) (pass retry : Bool)
  /-- R285: CXL_COMMIT := 1 starts the check of all staged range records. -/
  | cxlCommit
  /-- R285: The range check ends and either refuses the commit or begins bringing up the changed ranges. -/
  | cxlCheckDone
  /-- R285: The decoders of a range are programmed and committed, or one refuses and the commit is undone. -/
  | cxlDecoderCommitDone (range : Fin 16) (ok : Bool)
  /-- R287: The scrub of a CXL range ends and the range becomes READY. -/
  | cxlRangeScrubDone (range : Fin 16)
  /-- R282: CXL_RESCAN bit p enumerates port p again, or is refused with 0x020C while a range targets it. -/
  | cxlRescan (mask : U8)
  /-- R282: Enumeration of a CXL port ends and its status record is filled. -/
  | cxlPortEnumerated (port : CxlPortId) (link : Option CxlLink)
  /-- R288: A CXL port's link goes down, its ranges become OFFLINE and accesses in flight are answered TIMEOUT. -/
  | cxlPortDown (port : CxlPortId)
  /-- R617: A high-to-low edge of CXL_PRSNT#[p] after enumeration is a surprise removal. -/
  | cxlPrsntRemoval (port : CxlPortId)
  /-- R282: A CXL.mem response arrives, with poison answered POISONED and DevLoad noted. -/
  | cxlMemResponse (port : CxlPortId) (dev : Fin 8) (r : CxlReport) (who : Option CxlWaiter)
  /-- R289: A CXL.mem request unanswered for 4 ms is answered TIMEOUT and counted. -/
  | cxlMemTimeout (port : CxlPortId) (who : CxlWaiter)
  /-- R298: A 10 ms window with Severe Overload in most responses derates the port. -/
  | devloadWindow (port : CxlPortId) (delivered : U16)
  /-- R295: A derating input changes, REG_CAPACITY follows and the minima are scaled. -/
  | capacityChange (input : CapInput)
  /-- R296: After capacity has held for 100 ms, SCALE_PERMILLE rises back toward 1,000. -/
  | scaleRiseHoldExpiry (cls : Fin 12)
  /-- R299: A 100 µs service window closes and a miss is counted for each backlogged shell served below its minimum. -/
  | regulationWindow (samples : List RegSample)
  /-- R300: With pacing enabled, each 1 µs slot caps each shell's service at its paced share. -/
  | pacingSlot
  /-- R309: An RT_UPDATE install queues a fetch and installation of a range entry. -/
  | rtUpdateInstall (fn : Fn) (gen : U32) (ctx : U16) (index : Fin 4096)
  /-- R309: An RT_UPDATE revoke removes a range entry and drains it. -/
  | rtUpdateRevoke (fn : Fn) (gen : U32) (ctx : U16) (index : Fin 4096)
  /-- R310: The mirror read of an install completes and the entry is checked and put in force or refused. -/
  | rtMirrorFetchDone (ctx : U16) (index : Fin 4096) (r : ReadResult)
  /-- R315: Every access through an entry's old content has been answered, and the revoke or replace is answered. -/
  | entryDrainDone (ctx : U16) (index : Fin 4096)
  /-- R312: The driver advances TR_RESP_HEAD, which frees response-ring room. -/
  | trRespHeadWrite (fn : Fn) (v : U32)
  /-- R312: The driver advances FLT_RING_HEAD, which lets waiting batches be delivered. -/
  | fltRingHeadWrite (fn : Fn) (v : U32)
  /-- R332: A resume verdict restarts the stopped transfers of the outstanding batch from their cursors. -/
  | fltResolveResume (fn : Fn) (batch : U32) (ctx : U16)
  /-- R332: An abort verdict aborts the stopped and held transfers and marks the context lost. -/
  | fltResolveAbort (fn : Fn) (batch : U32) (ctx : U16)
  /-- R332: FAULT_WINDOW_US expires on a collecting batch, which is delivered. -/
  | faultWindowExpiry (ctx : U16)
  /-- R332: FAULT_TIMEOUT_MS expires on a delivered batch, the transfers abort and the context is lost. -/
  | faultTimeoutExpiry (ctx : U16)
  /-- R320: A COPY transfer starts and walks its elements in walk order. -/
  | xferCopy (seat : SeatId) (ticket : U32) (o : Outside)
  /-- R319: A FILL transfer starts and writes its pattern over its walk. -/
  | xferFill (seat : SeatId) (ticket : U32) (o : Outside)
  /-- R326: A KV_GATHER starts, reading its sequence slot and walking tokens through the page list. -/
  | xferKvGather (seat : SeatId) (ticket : U32) (o : Outside)
  /-- R219: A RED_ARM transfer arms a unison-add group at its seat. -/
  | xferRedArm (seat : SeatId) (ticket : U32)
  /-- R220: A RED_SEND transfer sends a tile snapshot as unison-add packets. -/
  | xferRedSend (seat : SeatId) (ticket : U32)
  /-- R323: A FENCE_ADV waits for earlier tickets and performs the unsigned maximum at a fence word. -/
  | xferFenceAdv (seat : SeatId) (ticket : U32) (o : Outside)
  /-- R317: An ATS Translation Completion arrives and is cached or raises ATS_DENIED. -/
  | atsTranslationCompletion (fn : Fn) (page : BitVec 44) (grant : Option (BitVec 44 × Bool))
  /-- R317: An ATS Invalidation Request is completed once accesses using the translations are issued. -/
  | atsInvalidationRequest (fn : Fn) (page : BitVec 44) (pages : U32)
  /-- R305: A die slice that no valid entry targets finishes zeroing and becomes available. -/
  | sliceZeroDone (die : Fin 16) (slice : Fin 48)
  /-- R342: CTX_CMD CREATE reads a context descriptor to create a context. -/
  | ctxCmdCreate (fn : Fn) (w : U64)
  /-- R359: CTX_CMD DESTROY begins the destroy procedure of a context. -/
  | ctxCmdDestroy (fn : Fn) (w : U64)
  /-- R350: CTX_CMD FENCE_BIND reads an address and binds a fence index. -/
  | ctxCmdFenceBind (fn : Fn) (w : U64)
  /-- R351: CTX_CMD FENCE_UNBIND ends a binding when KEPT equals PROMISED. -/
  | ctxCmdFenceUnbind (fn : Fn) (w : U64)
  /-- R342: The descriptor or binding read completes and the command is decided. -/
  | ctxDescReadDone (fn : Fn) (r : ReadResult) (word : ReadResult)
  /-- R359: Every object of a destroyed context has ended, CTX_RESULT reports it and the identifier is freed. -/
  | destroyEnd (ctx : U16)
  /-- R337: An FLR destroys every context of the function and resets its BAR0 registers. -/
  | functionLevelReset (fn : Fn)
  /-- R337: Clearing VF Enable destroys every context of the VFs as an FLR does. -/
  | vfEnableClear
  /-- R357: Writing 1 to INT_STATUS bits clears them, and a recurring cause sends a new message. -/
  | intStatusWrite (fn : Fn) (w : U64)
  /-- R361: The driver consumes undelivered-completion store records by advancing UC_HEAD. -/
  | ucHeadWrite (fn : Fn) (w : U32)
  /-- R352: The driver advances a context's completion-ring head, which frees slots for waiting jobs. -/
  | crHeadWrite (fn : Fn) (w : U64)
  /-- R338: A write to a BAR register with no row of its own is stored, or ignored and counted when not permitted. -/
  | registerWrite (fn : Fn) (space : RegSpace) (offset : U16) (size : Fin 9) (v : U64)
  /-- R552: The 2 µs hold after the last SEAT.END ends and the completion record and advances leave. -/
  | releaseHoldExpiry (slot : Slot)
  /-- R355: A Deferrable Memory Write completion arrives and decides delivery. -/
  | dmwrCompletion (id : Nat) (r : DmwrResult)
  /-- R355: 10 µs after a retry request a Deferrable Memory Write is sent again. -/
  | dmwrRetryTimer (id : Nat)
  /-- R355: A Deferrable Memory Write with no completion in 10 ms fails. -/
  | dmwrTimeout (id : Nat)
  /-- R352: 1 µs after the last of a group of records, their shared completion message is sent. -/
  | completionMessageCoalesce (ctx : U16)
  /-- R369: An HQ_TAIL write accepts a new tail for a context, or is ignored and counted. -/
  | hqTailWrite (fn : Fn) (w : U64)
  /-- R346: The swap-in refetches every valid entry and the context becomes resident, or is lost. -/
  | contextSwapInDone (ctx : U16) (entries : List ReadResult)
  /-- R370: A read of queue slots or buffer entries completes and the commands are validated. -/
  | queueFetchDone (ctx : U16) (buffer : Bool) (r : ReadResult)
  /-- R370: Merged HEAD write-backs within 1 µs are written to HEAD_WB. -/
  | headWbMerge (ctx : U16)
  /-- R371: 2 µs after a QUEUE_SEQ mismatch the slot is read again. -/
  | slotSeqRetry (ctx : U16) (r : ReadResult)
  /-- R377: The launch block and pin list are read and checked at validation. -/
  | launchBlockReadDone (ctx : U16) (block pins : ReadResult)
  /-- R380: NOP retires when it starts. -/
  | cmdNop (ctx : U16)
  /-- R376: LAUNCH validates a job for one shell of its mask. -/
  | cmdLaunch (ctx : U16)
  /-- R379: CALL runs the entries of a command buffer in order. -/
  | cmdCall (ctx : U16)
  /-- R325: SEQ_SLOT writes or releases a sequence slot. -/
  | cmdSeqSlot (ctx : U16)
  /-- R325: The host read of a sequence-slot record completes and the slot is written. -/
  | seqSlotRecordReadDone (ctx : U16) (seq : U32) (r : ReadResult)
  /-- R404: ACCOUNT writes a context's accounting record. -/
  | cmdAccount (ctx : U16)
  /-- R409: SPRINT_BIND binds a sprint slot to a seat of a shell. -/
  | cmdSprintBind (ctx : U16)
  /-- R409: SPRINT_UNBIND begins the forced abort of a sprint slot. -/
  | cmdSprintUnbind (ctx : U16)
  /-- R588: WKEY_LOAD reads a weight-key blob into a key slot. -/
  | cmdWkeyLoad (ctx : U16)
  /-- R588: The blob read completes, the checks run, and the key is installed or refused. -/
  | wkeyBlobReadDone (ctx : U16) (seq : U32) (r : ReadResult)
  /-- R588: WKEY_CLEAR erases one or all weight-key slots. -/
  | cmdWkeyClear (ctx : U16)
  /-- R487: GHENGO_OPEN sends CH_OPEN and waits for the peer's matching open. -/
  | cmdGhengoOpen (ctx : U16)
  /-- R488: GHENGO_CLOSE begins the forced abort of a channel. -/
  | cmdGhengoClose (ctx : U16)
  /-- R491: BH_LEASE creates a Boathouse key or moves it to another member. -/
  | cmdBhLease (ctx : U16)
  /-- R491: BH_RELEASE frees a Boathouse key and unbinds its window. -/
  | cmdBhRelease (ctx : U16)
  /-- R381: A read of an awaited fence word completes, and the wait is met, poisoned or still unmet. -/
  | waitReadDone (ctx : U16) (r : ReadResult)
  /-- R381: Each FENCE_POLL_US an awaited word outside GDDR7 and die slices is read again. -/
  | fenceWaitPoll (ctx : U16)
  /-- R380: A validated command whose start conditions all hold is started. -/
  | commandStart (ctx : U16)
  /-- R387: A seat's prefill of the next job ends. -/
  | prefillDone (slot : Slot) (lseat : U16) (r : ReadResult)
  /-- R391: A job reaches PREEMPT_QUANTUM_MS on its seats while higher priority work waits. -/
  | preemptQuantumExpiry (slot : Slot)
  /-- R392: PREEMPT_CTL := 1 latches a pre-emption and holds the shell. -/
  | preemptCtlPreempt (slot : Slot)
  /-- R392: PREEMPT_CTL := 2 lifts the hold on the shell. -/
  | preemptCtlLift (slot : Slot)
  /-- R397: The pre-emption save ends and the bindings steer to the image. -/
  | preemptSaveDone (slot : Slot)
  /-- R398: The restore ends, bindings steer back and every seat resumes. -/
  | preemptRestoreDone (slot : Slot)
  /-- R402: A command's timeout expires, it retires TIMEOUT and its context is lost. -/
  | cmdTimeoutExpiry (ctx : U16) (onShell : Option Slot)
  /-- R406: A BAR2 Memory Write reaches a sprint window, is staged, or is discarded. -/
  | sprintWindowWrite (fn : Fn) (offset : BitVec 22) (data : Bytes)
  /-- R414: The egress reads the result area, clears EGRESS_PEG and answers the oldest outstanding record. -/
  | egressReadDone (slot : Fin 1024)
  /-- R553: With RELEASE_GATE, the 2,000 ns hold of an answer ends and it leaves OK or SUSPECT. -/
  | sprintGateHoldExpiry (slot : Fin 1024)
  /-- R420: The forced abort of a slot ends and the slot becomes UNBOUND. -/
  | sprintAbortEnd (slot : Fin 1024)
  /-- R445: OPEN creates a session, with a challenge for O and A. -/
  | papOpen (src : PapFrom)
  /-- R583: AUTH checks the proof over the challenge and opens the session or frees it. -/
  | papAuth (src : PapFrom)
  /-- R445: CLOSE frees a session. -/
  | papClose (src : PapFrom)
  /-- R450: READ returns a value or a segment of a snapshot. -/
  | papRead (src : PapFrom)
  /-- R448: WRITE stages a segment or decides the whole value of a parameter with no row of its own. -/
  | papWrite (src : PapFrom) (discarded : U32)
  /-- R440: DESCRIBE returns a parameter's type, class, persistence, rights and length. -/
  | papDescribe (src : PapFrom)
  /-- R445: KEEPALIVE restarts the session's idle timer. -/
  | papKeepalive (src : PapFrom)
  /-- R445: A CHALLENGED session without AUTH for 10 s is freed. -/
  | challengeTimeout (session : U16)
  /-- R445: A session idle for SESSION_IDLE_S is freed. -/
  | sessionIdleTimeout (session : U16)
  /-- R445: A segmented transfer idle for SEGMENT_TIMEOUT_MS is dropped. -/
  | segmentTimeout (session : SessionRef)
  /-- R445: Loss of a session's transport frees it without a response. -/
  | transportLoss (binding : Fin 2)
  /-- R444: An endpoint's AUTH lockout ends after AUTH_LOCKOUT_S. -/
  | authLockoutExpiry (binding : Fin 2) (eid : Fin 256)
  /-- R437: An MCTP packet is received and assembled into a message. -/
  | mctpPacketReceive (binding : Fin 2) (eid : Fin 256) (tag : Fin 8) (som eom ic : Bool) (seq : Fin 4) (payload : List Byte)
  /-- R437: A message not complete 100 ms after its first packet is dropped. -/
  | mctpAssemblyTimeout (binding : Fin 2) (eid : Fin 256)
  /-- R455: A packet not accepted within 10 ms is dropped with the rest of its message. -/
  | mctpTxAcceptTimeout
  /-- R437: Set Endpoint ID assigns the binding's EID. -/
  | setEndpointId (binding : Fin 2) (eid : Fin 256) (tag : Fin 8) (newEid : Fin 256)
  /-- R437: Get Endpoint ID returns the EID. -/
  | getEndpointId (binding : Fin 2) (eid : Fin 256) (tag : Fin 8)
  /-- R437: Get Endpoint UUID returns the UUID. -/
  | getEndpointUuid (binding : Fin 2) (eid : Fin 256) (tag : Fin 8)
  /-- R437: Get MCTP Version Support returns the supported versions. -/
  | getMctpVersionSupport (binding : Fin 2) (eid : Fin 256) (tag : Fin 8)
  /-- R437: Get Message Type Support returns the message types. -/
  | getMessageTypeSupport (binding : Fin 2) (eid : Fin 256) (tag : Fin 8)
  /-- R437: Get Vendor Defined Message Support returns the vendor support. -/
  | getVendorMsgSupport (binding : Fin 2) (eid : Fin 256) (tag : Fin 8)
  /-- R437: Any other control command is answered ERROR_UNSUPPORTED_CMD. -/
  | mctpUnsupportedCmd (binding : Fin 2) (eid : Fin 256) (tag : Fin 8) (cmd : Fin 256)
  /-- R452: A doorbell submits a mailbox request, or is discarded while BUSY. -/
  | mbxDoorbell (fn : Fn) (w : U64)
  /-- R451: MBX_ACK clears DONE. -/
  | mbxAck (fn : Fn) (w : U64)
  /-- R472: Setting a port's enable bit begins its training. -/
  | ghPortEnableSet (port : GhPortId)
  /-- R472: Clearing a port's enable bit closes it and disables it. -/
  | ghPortEnableClear (port : GhPortId) (discarded : U32)
  /-- R472: Lanes train, FEC locks and the round trip fits, so the port sends HELLO. -/
  | ghTrainingDone (port : GhPortId)
  /-- R472: Training not done in 2 s moves the port to RECOVERING. -/
  | ghTrainingTimeout (port : GhPortId)
  /-- R473: A HELLO is checked and the port opens its channels or recovers. -/
  | helloReceive (port : GhPortId) (id : U16) (farPort fec : U8) (credits : List U16) (nonce : BitVec 256) (confirm : BitVec 128)
  /-- R472: No HELLO within 100 ms moves the port to RECOVERING. -/
  | helloTimeout (port : GhPortId)
  /-- R472: 100 ms in RECOVERING retrains the port, or fails it on a fourth entry in an hour. -/
  | ghRecoveryTimer (port : GhPortId)
  /-- R472: GH_PORT_MAINT retrain retrains a FAILED port. -/
  | ghPortMaintRetrain (port : GhPortId)
  /-- R468: A Ghengo receiver finds a CRC error or gap and sends NAK for replay. -/
  | ghFlitError (port : GhPortId) (discarded : U32)
  /-- R471: Loss of FEC lock takes the port out of UP. -/
  | ghFecLockLoss (port : GhPortId) (discarded : U32)
  /-- R471: A virtual channel with zero credit for GH_CREDIT_STALL_MS takes the port out of UP. -/
  | ghCreditStall (port : GhPortId) (gv : Fin 6) (discarded : U32)
  /-- R577: A group's tag flit arrives and its packets are delivered, or a failed tag is a protocol error. -/
  | ghTagFlitReceive (port : GhPortId) (ok : Bool) (discarded : U32)
  /-- R475: A received packet is admitted to its binding or denied and counted. -/
  | ghPacketReceive (port : GhPortId) (sender : GhSender) (bind : GhBind) (offset : BitVec 48) (op : GhOp) (check : ChanCheck) (excess : Option U32)
  /-- R470: A Ghengo request unanswered for GH_REQ_TIMEOUT_US is answered TIMEOUT. -/
  | ghRequestTimeout (seat : SeatId) (what : NetReq)
  /-- R480: ADM_LEASE_CMD request sends LEASE_REQUEST for the staged lease. -/
  | admLeaseCmdRequest (lender : U16)
  /-- R480: ADM_LEASE_CMD return sends LEASE_RETURN for a held lease. -/
  | admLeaseCmdReturn (lender : U16) (id : U32)
  /-- R485: ADM_LENT_REVOKE sends LEASE_REVOKE and ends a granted lease. -/
  | admLentRevoke (id : U32)
  /-- R480: A lender receives LEASE_REQUEST and grants or refuses it. -/
  | leaseRequest (h : GhHead) (record : BitVec 256)
  /-- R480: A lender receives LEASE_RENEW and restarts its expiry timer. -/
  | leaseRenew (h : GhHead)
  /-- R480: A lender receives LEASE_RETURN, stops, scrubs and logs the lease. -/
  | leaseReturn (h : GhHead)
  /-- R480: A borrower receives LEASE_REVOKE and loses the lease. -/
  | leaseRevoke (h : GhHead)
  /-- R481: A lender answers an epoch query for a lease. -/
  | epochQuery (h : GhHead)
  /-- R479: A response to an Ademen, channel or Boathouse request arrives and advances its conversation. -/
  | admResponse (h : GhHead) (msg : AdmMsg) (code : U16) (record : BitVec 256)
  /-- R479: An unanswered request is sent again after ADM_RETRY_US, or the partner is unreachable. -/
  | admRetryTimer (txn : U32)
  /-- R480: Every TERM_MS / 4 the borrower sends LEASE_RENEW. -/
  | leaseRenewTimer (lender : U16) (id : U32)
  /-- R480: No renewal answered within 3/4 of a term, so the borrower loses the lease. -/
  | leaseLossTimer (lender : U16) (id : U32)
  /-- R480: A lender's expiry timer reaches TERM_MS and ends the lease. -/
  | leaseExpiryTimer (id : U32)
  /-- R483: A lender performs a seat action for a leased seat. -/
  | gv4SeatAction (port : GhPortId) (src : U16) (lease : U32) (j : U16) (a : SeatAction)
  /-- R483: A borrower receives the lender's report that a seat action is complete. -/
  | gv4ActionReport (port : GhPortId) (src : U16) (lease : U32) (j : U16) (r : SeatReport)
  /-- R563: A borrower receives a lender's safety event for a leased resource and raises it on the shell. -/
  | leaseFaultReport (port : GhPortId) (src : U16) (lease : U32) (mech : Fin 16) (kind : U8) (tbDetect : U64) (from_ : Option U64)
  /-- R487: A CH_OPEN message matches a local open channel or waits for one. -/
  | chOpen (h : GhHead) (nonce : BitVec 256)
  /-- R488: A CH_CLOSE message moves a channel to PEER_GONE. -/
  | chClose (h : GhHead)
  /-- R487: No match within GH_CHANNEL_WAIT_MS refuses the open with 0x050C. -/
  | chMatchTimeout (chan : U8) (waiting : Option (U16 × U32))
  /-- R488: A channel whose peer's ports stay out of UP for ADM_LEASE_MS enters PEER_GONE. -/
  | peerGoneTimer (chan : U8)
  /-- R488: The forced abort of a Ghengo channel ends. -/
  | channelAbortEnd (chan : U8)
  /-- R492: A member allocates and zeroes space for a key at an epoch, or answers 0x050E. -/
  | bhAlloc (h : GhHead)
  /-- R492: A member scrubs a key at its epoch. -/
  | bhFree (h : GhHead)
  /-- R492: A member restarts a key's expiry, or reports its epoch. -/
  | bhRenew (h : GhHead)
  /-- R493: An owner member starts copying a key to its new member. -/
  | bhMove (h : GhHead)
  /-- R492: A member answers whether it holds a key at an epoch. -/
  | bhQuery (h : GhHead)
  /-- R493: A granule of a Boathouse move is copied and acknowledged, and the last one sends the final answer. -/
  | bhMoveGranuleCopied (key : U64) (acked : Bool)
  /-- R492: A member without renewal for ADM_LEASE_MS scrubs the key. -/
  | bhMemberExpiry (key : U64)
  /-- R492: Every ADM_LEASE_MS / 4 the home renews a live key. -/
  | bhHomeRenewTimer (key : U64)
  /-- R492: No member holds the key at the home's epoch within ADM_LEASE_MS. -/
  | bhResolveTimeout (key : U64)
  /-- R505: A BUDGET_GRANT write is accepted, renewed or refused. -/
  | budgetGrantWrite (grant : BitVec 128)
  /-- R505: The grant's lease runs out and the fallback budget applies. -/
  | budgetLeaseExpiry
  /-- R509: Every 1 ms each shell's level is set from its measured power and allocation. -/
  | powerControlStep (inputMv inputW platformW : Nat) (draws : List (Nat × Nat))
  /-- R514: An alert source forces every seat to PL7 in hardware and is recorded. -/
  | alertAssert (source : Fin 4)
  /-- R515: The last alert source is deasserted and the hold begins. -/
  | alertDeassert (source : Fin 4)
  /-- R515: ALERT_HOLD_MS ends and the shells begin rising. -/
  | alertHoldExpiry
  /-- R515: Every 100 µs each shell rises one level toward its target. -/
  | alertRiseStep
  /-- R516: A hot die lowers seats one level per 1 ms, or releases one level per 10 ms. -/
  | thermalThrottleStep (die : Fin 25) (temp : BitVec 16)
  /-- R519: Every 10 µs rail energy is attributed to seats, channels, ports and platform. -/
  | energyTick (seatRail : List Nat) (activity : List (SeatId × Nat)) (ringRail : List Nat) (chans : List (ChanId × Nat)) (ports : List (GhPortId × Nat)) (other : Nat)
  /-- R523: GetPDRRepositoryInfo returns the PDR repository information. -/
  | getPdrRepositoryInfo (binding : Fin 2) (eid : Fin 256) (tag : Fin 8)
  /-- R523: GetPDR returns a PDR. -/
  | getPdr (binding : Fin 2) (eid : Fin 256) (tag : Fin 8) (handle : BitVec 32)
  /-- R523: GetSensorReading returns a numeric sensor. -/
  | getSensorReading (binding : Fin 2) (eid : Fin 256) (tag : Fin 8) (sensor : BitVec 16)
  /-- R523: GetStateSensorReadings returns the alert-source state sensor. -/
  | getStateSensorReadings (binding : Fin 2) (eid : Fin 256) (tag : Fin 8) (sensor : BitVec 16)
  /-- R523: Any other PLDM command is answered ERROR_UNSUPPORTED_PLDM_CMD. -/
  | pldmUnsupportedCmd (binding : Fin 2) (eid : Fin 256) (tag : Fin 8) (type5 : Bool) (cmd : Fin 256)
  /-- R539: SHELL_RESET := s begins a shell reset. -/
  | shellResetWrite (slot : Slot)
  /-- R538: The transfers of a resetting shell have drained and its seats are closed and scrubbed. -/
  | shellResetDrainDone (slot : Slot) (bad : List SeatId)
  /-- R539: The shell's channels and ports finish retraining and zeroing begins. -/
  | shellRetrainDone (slot : Slot) (bad : List ChanId)
  /-- R539: The reset completes, SHELL_STATE := IDLE and an error record is filed. -/
  | shellResetComplete (slot : Slot)
  /-- R543: Every 10 ms the Cox polls each island, and two timeouts are an island hang. -/
  | healthPoll (silent : List (IslandId × Nat))
  /-- R543: A bridge not closed 10 µs after its close began is handled as an island hang. -/
  | bridgeCloseTimeout (n : IslandId) (packets : Nat)
  /-- R543: An island silent 1 ms after its reset is retired, or escalates to a warm start or hold. -/
  | islandResetAnswerTimeout (n : IslandId)
  /-- R545: DUMP_CTL := 1 takes a dump. -/
  | dumpCtlTake
  /-- R548: A dump access exceeds 50 µs, and two in a row mark the island UNREACHABLE. -/
  | dumpAccessTimeout (n : IslandId)
  /-- R545: A dump ends and its summary is written to flash. -/
  | dumpEnd
  /-- R550: DUMP_CLEAR := 1 clears the retained dump. -/
  | dumpClear
  /-- R559: A clock or voltage monitor raises an event on the shells it reaches. -/
  | monitorEvent (m : Monitor)
  /-- R560: A lockstep mismatch or MD monitor event forces PL7, stops every release and halts the Cox. -/
  | lockstepMismatch
  /-- R581: QueryDeviceIdentifiers returns the device identifiers. -/
  | queryDeviceIdentifiers (binding : Fin 2) (eid : Fin 256) (tag : Fin 8)
  /-- R581: GetFirmwareParameters returns the firmware parameters. -/
  | getFirmwareParameters (binding : Fin 2) (eid : Fin 256) (tag : Fin 8)
  /-- R581: RequestUpdate enters update mode. -/
  | requestUpdate (binding : Fin 2) (eid : Fin 256) (tag : Fin 8)
  /-- R581: PassComponentTable names the firmware component. -/
  | passComponentTable (binding : Fin 2) (eid : Fin 256) (tag : Fin 8) (components : List U16)
  /-- R581: UpdateComponent erases the slot not running and begins download. -/
  | updateComponent (binding : Fin 2) (eid : Fin 256) (tag : Fin 8) (size : U32)
  /-- R581: FirmwareDataPush writes image bytes at the expected offset. -/
  | firmwareDataPush (binding : Fin 2) (eid : Fin 256) (tag : Fin 8) (offset : U32) (data : List Byte)
  /-- R581: Verification of the downloaded image passes or erases the slot. -/
  | fwVerifyDone
  /-- R581: ActivateFirmware marks the verified slot preferred for the next start. -/
  | activateFirmware (binding : Fin 2) (eid : Fin 256) (tag : Fin 8)
  /-- R581: GetStatus reports the update state, progress and FW_RESULT. -/
  | getStatus (binding : Fin 2) (eid : Fin 256) (tag : Fin 8)
  /-- R581: CancelUpdateComponent cancels the component update. -/
  | cancelUpdateComponent (binding : Fin 2) (eid : Fin 256) (tag : Fin 8)
  /-- R581: CancelUpdate erases a partial slot and leaves update mode. -/
  | cancelUpdate (binding : Fin 2) (eid : Fin 256) (tag : Fin 8)
  /-- R581: 120 s without an update command erases a partial slot. -/
  | fwUpdateTimeout
  /-- R580: A write of FW_RAISE_FLOOR raises ROLLBACK_FLOOR or is refused. -/
  | fwRaiseFloor (v : U32)
  /-- R582: A credential record with OP 1 installs a credential into a slot. -/
  | credInstall (fromVf : Bool) (record : List Byte)
  /-- R582: A credential record with OP 2 revokes a slot's credential. -/
  | credRevoke (fromVf : Bool) (record : List Byte)
  /-- R584: EVIDENCE_REQ requests signed evidence for a nonce and shell mask. -/
  | evidenceReq (session : SessionRef) (data : List Byte)
  /-- R584: The evidence is signed and EVIDENCE_RESULT reads 0x0000. -/
  | evidenceSigned (session : SessionRef)
  /-- R590: DEBUG_CTL := 1 opens a debug session, sets DEBUG_SEEN and erases weight keys. -/
  | debugCtlOpen (slot : Slot)
  /-- R590: DEBUG_CTL := 2 halts every seat of the shell. -/
  | debugCtlHalt (slot : Slot)
  /-- R590: DEBUG_CTL := 3 resumes the halted seats. -/
  | debugCtlResume (slot : Slot)
  /-- R590: DEBUG_CTL := 4 closes the debug session. -/
  | debugCtlClose (slot : Slot)
  /-- R591: A read of DBG_DATA returns up to 4,096 bytes at DBG_ADDR. -/
  | dbgDataRead (session : U16) (slot : Slot)
  /-- R591: A write of DBG_DATA stores up to 4,096 bytes at DBG_ADDR. -/
  | dbgDataWrite (slot : Slot) (data : List Byte)
  /-- R593: A Wake engine folds a pending record into its shell's chain. -/
  | wakeFold (slot : Slot)
  /-- R598: 1,000 ms after its last seal, a slot is sealed. -/
  | sealTimer (slot : Slot)
  /-- R598: A seal is signed and written to the seal ring. -/
  | sealSigned (slot : Slot)
  /-- R492: At the home, a LIVE Boathouse key whose renewals have gone unanswered for 3/4 × ADM_LEASE_MS sends BH_QUERY and enters RESOLVING. -/
  | bhKeyRenewalTimeout (key : U64)
  /-- R334: The PF0 driver sets VF Enable, and VF1 to VFn appear as functions that can own shells, contexts and sessions. -/
  | vfEnableSet (n : Fin 32)
  /-- R614: The rails finish discharging after input-good fell, so a rise of input-good is no longer ignored and a cold start can begin. -/
  | railDischargeDone
  /-- R617: CXL_PRSNT#[p] changes level in the direction not named as a surprise removal, which changes whether CXL_REFCLK[p] runs. -/
  | cxlPrsntLowToHigh (port : CxlPortId)
  /-- R282: A CXL device posts an event record, which the Cox reads over CXL.io and files as an error record of kind CXL_EVENT. -/
  | cxlEvent (port : CxlPortId) (detail0 detail1 : U64)
  /-- R276: A GDDR7 device crosses 85 °C, refresh doubles or returns to normal, and CHANNEL_DERATE_PERMILLE of its channels changes. -/
  | gddr7RefreshDoubling (device : Fin 48) (hot : Bool) (permille : Fin 1001)
  /-- R468: A flit from the peer, idle flits included, delivers ACK_SEQ, NAK and returned credit, which frees the replay buffer, starts a replay or releases waiting packets. -/
  | ghFlitHeaderReceive (port : GhPortId) (header : U64) (discarded : U32)
  /-- R620: The I3C bus controller assigns the module a dynamic address with SETDASA or ENTDAA. -/
  | i3cDynamicAddress (addr : Fin 128)
  deriving DecidableEq, Repr

end Sys2Proof
end

