-- ==== Sys2Proof/Decode.lean ====
section
/-! DEFINITION. The command that a word spells by the table's bits. No row of spec/opcode_table.json gives bits: the commands of
the block are events, register writes and messages, so no word spells one. -/
namespace Sys2Proof

/-- The command that the low `nbits` bits of `w` spell: none, since the table gives no row a word. -/
def decodeTableWord (nbits w : Nat) : Option Instr :=
  match nbits, w with
  | _, _ => none

end Sys2Proof
end

