-- ==== Sys2Proof/Config.lean ====
section
/-! DEFINITION. What the spec leaves open: free values (constants without a body, applied to a counter or to the
operands they depend on) and the cryptographic functions, which stay uninterpreted. -/
namespace Sys2Proof.Config

/-- A free 64-bit word for a value the spec does not state, one per count (log 1). -/
opaque freeWord : Nat → U64

/-- The kind, less one, of a word with WRAP 0x8000 and a VALUE that Table Frets-4 does not list (03 R94, log 94). -/
opaque strayKind : BitVec 128 → BitVec 2

/-- A free byte (log 1). -/
opaque freeByte : Nat → Byte

/-- Which way of a full data-cache set gives up its line: no eviction order is given (05 R166, log 20). -/
opaque freeWay : Nat → Fin 8

/-- Whether a posted host write that may carry Relaxed Ordering does (07 R236, log 79). -/
opaque relaxedOrdering : Nat → Bool

/-- Which of the two edge ports of a side a packet uses, by its source and destination islands: a fixed function that the spec does not
give (06 R203, log 64). -/
opaque edgePort : Nat → Nat → Fin 2

/-- SHAKE256 of a byte string, to a length in bytes (18 R571). -/
opaque shake256 : Bytes → Nat → Bytes

/-- KMAC256 of a message under a key, to a length in bytes, with a customisation string (18 R571, R572). -/
opaque kmac256 : Bytes → Bytes → Nat → Bytes → Bytes

/-- The device root secret, which no command reads (18 R572). -/
opaque deviceRoot : Bytes

/-- Whether a signature over a message verifies under a public key (18 R571). -/
opaque sigOk : Bytes → Bytes → Bytes → Bool

/-- The device's signature over a message under one of its keys, named by number (18 R571). -/
opaque sign : Nat → Bytes → Bytes

/-- The secret that a ciphertext encapsulates to the device's key-release key (18 R571, R588). -/
opaque decap : Bytes → Bytes

/-- The fleet's secret F, which every module of a fleet holds (18 R571, R600). -/
opaque fleetKey : Bytes

/-- A fresh encapsulation to a public key: ciphertext and secret (18 R600). -/
opaque encap : Bytes → Nat → Bytes × Bytes

/-- A byte string under AES-256 in CTR mode with a key and a first counter; it is its own inverse (18 R571, R600). -/
opaque aesCtr : Bytes → Nat → Bytes → Bytes

/-- The UUID that the device gives over MCTP, and the PCI vendor ID that its host port reports: the spec states neither (13 R437, log 29). -/
opaque deviceUuid : Nat
opaque pciVendorId : Nat

/-- The firmware of a slot that a start runs, by its image: the digests that its seats compute (16 R533, 18 R578). -/
opaque fwDigest : Bytes → Bytes

/-- The SHAKE256 digest of the Cox part of a firmware image (18 R578). -/
opaque coxDigest : Bytes → Bytes

/-- What verification finds of a firmware image: its SVN when its signature is good (18 R578, R581). -/
opaque fwCheck : Bytes → Option U32

/-- What QueryDeviceIdentifiers answers, and GetFirmwareParameters by the images of slots A and B: the manual gives no contents (18 R581). -/
opaque fwDeviceIds : Nat
opaque fwParameters : Bytes → Bytes → Nat

/-- The device's ML-KEM-1024 encapsulation key, derived from its root secret (18 R572). -/
opaque krEk : Bytes

/-- AES-KW unwrap (RFC 3394) of a wrapped key under a key; none when its integrity check fails (18 R588). -/
opaque aesUnwrap : Bytes → Bytes → Option Bytes

/-- What a byte of zero ciphertext decrypts to, by the memory key (BOOT_COUNTER × 64 + shell slot, 32 for the store key), by the channel or
256 + CXL range of the tweak, and by the offset: R575 says only on what it depends (18 R574, R575, log 39). -/
opaque xtsZero : Nat → Nat → Nat → Byte

/-- The ciphertext of a block of plain bytes, by the same key, tweak and offset (18 R574). -/
opaque xtsCipher : Nat → Nat → Nat → Bytes → Bytes

/-- The Hamming code with overall parity of 64 bytes: R267 does not place its bits (08 R267, log 80). -/
opaque secded : Bytes → BitVec 11

end Sys2Proof.Config
end

