-- ==== Sys2Proof/Machine/Table.lean ====
section
/-! DEFINITION. Sparse tables: a list of key and value pairs in one canonical form (keys strictly
rising, no entry equal to what an unlisted key reads as), and the plain-number helpers of the manual. -/
namespace Sys2Proof.Machine

/-- A sparse table from numbers to values. -/
abbrev Tbl (α : Type) := List (Nat × α)

/-- The entry a table lists for key `k`, if any. -/
def tfind {α : Type} : Tbl α → Nat → Option α
  | [], _ => none
  | (k', v) :: t, k => if k' = k then some v else tfind t k

/-- What a table reads at key `k`, where an unlisted key reads as `d k`. -/
def tget {α : Type} (d : Nat → α) (t : Tbl α) (k : Nat) : α :=
  (tfind t k).getD (d k)

/-- A table without any entry for key `k`. -/
def tdel {α : Type} (t : Tbl α) (k : Nat) : Tbl α :=
  t.filter (fun e => e.1 != k)

/-- A table with one more entry, put before the first larger key. -/
def tins {α : Type} : Tbl α → Nat → α → Tbl α
  | [], k, v => [(k, v)]
  | (k', v') :: t, k, v => if k < k' then (k, v) :: (k', v') :: t else (k', v') :: tins t k v

/-- A table that reads `v` at key `k` and what it read before elsewhere, kept canonical. -/
def tset {α : Type} [DecidableEq α] (d : Nat → α) (t : Tbl α) (k : Nat) (v : α) : Tbl α :=
  if v = d k then tdel t k else tins (tdel t k) k v

/-- The keys of a table rise strictly. -/
def tsorted {α : Type} : Tbl α → Bool
  | [] => true
  | [_] => true
  | (k, _) :: (k', v') :: t => decide (k < k') && tsorted ((k', v') :: t)

/-- The canonical form: keys strictly rising, no entry equal to what an unlisted key reads as. -/
def twf {α : Type} [DecidableEq α] (d : Nat → α) (t : Tbl α) : Bool :=
  tsorted t && t.all (fun e => decide (e.2 ≠ d e.1))

/-- A set of numbers as a rising list: membership, adding, removing. -/
def sAdd : List Nat → Nat → List Nat
  | [], k => [k]
  | k' :: t, k => if k < k' then k :: k' :: t else if k = k' then k' :: t else k' :: sAdd t k

def sDel (l : List Nat) (k : Nat) : List Nat := l.filter (· != k)

/-- One more in an unsigned counter of 32 bits that saturates (13_parameter_dictionary.md R460). -/
def satInc32 (n : Nat) : Nat := if n < 0xFFFFFFFF then n + 1 else n

/-- `n` more in an unsigned counter of 32 bits that saturates. -/
def satAdd32 (n k : Nat) : Nat := min 0xFFFFFFFF (n + k)

/-- The serial distance (b − a) mod 2³² of 00_scope.md R15. -/
def serialDist (a b : Nat) : Nat := (b + 0x100000000 - a % 0x100000000) % 0x100000000

/-- The three answers of a serial comparison, and the distance of exactly 2³¹ (00_scope.md R15). -/
inductive Serial where
  | equal | newer | older | outside
  deriving DecidableEq, Repr

/-- How new value `b` stands to reference `a` (00_scope.md R15). -/
def serialCmp (a b : Nat) : Serial :=
  let d := serialDist a b
  if d = 0 then .equal else if d < 0x80000000 then .newer else if d = 0x80000000 then .outside else .older

/-- Bit `i` of a number. -/
def bitOf (n i : Nat) : Bool := n.testBit i

/-- Bits [hi:lo] of a number. -/
def bitsOf (n hi lo : Nat) : Nat := (n >>> lo) % 2 ^ (hi + 1 - lo)

/-- A number with bit `i` set or cleared. -/
def setBitOf (n i : Nat) (b : Bool) : Nat :=
  if bitOf n i then (if b then n else n - 2 ^ i) else (if b then n + 2 ^ i else n)

/-- Little-endian bytes of a number, `len` of them (00_scope.md R13). -/
def leBytes : Nat → Nat → Bytes
  | 0, _ => []
  | len + 1, n => BitVec.ofNat 8 n :: leBytes len (n / 256)

/-- The number that little-endian bytes spell (00_scope.md R13). -/
def leNat : Bytes → Nat
  | [] => 0
  | b :: t => b.toNat + 256 * leNat t

/-- `n` bytes of a byte string from offset `o`, short where the string ends. -/
def slice (b : Bytes) (o n : Nat) : Bytes := (b.drop o).take n

/-- The little-endian number of `n` bytes at offset `o`; missing bytes count as zero. -/
def field (b : Bytes) (o n : Nat) : Nat := leNat (slice b o n)

/-- The 16-bit elements of a byte string. -/
def leWords (w : Nat) : Nat → Bytes → List Nat
  | 0, _ => []
  | n + 1, b => leNat (b.take w) :: leWords w n (b.drop w)

/-- Whether a list of numbers repeats one. -/
def hasDup : List Nat → Bool
  | [] => false
  | a :: t => t.contains a || hasDup t

/-- Whether `d` has passed since a time. -/
def tbPast (now since d : Nat) : Bool := decide (since + d ≤ now)

/-- Ceiling division. -/
def cdiv (a b : Nat) : Nat := (a + b - 1) / b

end Sys2Proof.Machine
end

