-- ==== Sys2Proof/Machine/Fp.lean ====
section
/-! DEFINITION. Exact binary floating point: values as a sign, an integer significand and an exponent, and their rounding
into a format by one rounding (03 R90, R105, R108; 05 R161). -/
namespace Sys2Proof.Machine

/-- A decoded value: a NaN (signalling or quiet), an infinity, or (−1)^neg × m × 2^e (03 R90). -/
inductive FV where
  | nan (signalling : Bool)
  | inf (neg : Bool)
  | num (neg : Bool) (m : Nat) (e : Int)
  deriving DecidableEq, Repr

/-- Rounding modes: the five of IEEE 754 as RISC-V numbers them, and stochastic rounding with its draw (03 R108). -/
inductive RMode where
  | rne | rtz | rdn | rup | rmm
  | stoch (r : Nat)
  deriving DecidableEq, Repr

/-- Whether the magnitude `q + r / d` of a value of sign `neg` is rounded up to `q + 1`. -/
def roundUp (rm : RMode) (neg : Bool) (q r d : Nat) : Bool :=
  match rm with
  | .rne => decide (2 * r > d) || (decide (2 * r = d) && decide (q % 2 = 1))
  | .rtz => false
  | .rdn => neg && decide (r > 0)
  | .rup => !neg && decide (r > 0)
  | .rmm => decide (2 * r ≥ d)
  | .stoch w =>
    if r = 0 then false
    else if neg then !decide (w < (d - r) * 2 ^ 32 / d)
    else decide (w < r * 2 ^ 32 / d)

/-- The magnitude `m × 2^e` in units of `2^u`, rounded once: the units, and whether it was inexact. -/
def roundUnits (rm : RMode) (neg : Bool) (m : Nat) (e u : Int) : Nat × Bool :=
  if e ≥ u then (m * 2 ^ (e - u).toNat, false)
  else
    let d := 2 ^ (u - e).toNat
    let q := m / d
    let r := m % d
    (if roundUp rm neg q r d then q + 1 else q, r != 0)

/-- The bit length of a number. -/
def bitLen (m : Nat) : Nat := if m = 0 then 0 else Nat.log2 m + 1

/-- The bias of an exponent field of `ew` bits (03 Table Frets-2). -/
def fpBias (ew : Nat) : Int := 2 ^ (ew - 1) - 1

/-- The encoding, without its sign and without a bound above, of `m × 2^e` rounded into `ew` exponent bits and `mw`
mantissa bits, subnormals kept; and whether it was inexact (03 R105). -/
def fpEnc (ew mw : Nat) (rm : RMode) (neg : Bool) (m : Nat) (e : Int) : Nat × Bool :=
  if m = 0 then (0, false)
  else
    let lo : Int := 1 - fpBias ew - mw
    let u : Int := max (e + bitLen m - 1 - mw) lo
    let (q, ix) := roundUnits rm neg m e u
    ((u - lo).toNat * 2 ^ mw + q, ix)

/-- Decode an element with IEEE 754 infinities and NaNs (03 R90, Table Frets-2). -/
def fpDec (ew mw : Nat) (b : Nat) : FV :=
  let neg := bitOf b (ew + mw)
  let ex := bitsOf b (ew + mw - 1) mw
  let m := b % 2 ^ mw
  if ex = 2 ^ ew - 1 then (if m = 0 then .inf neg else .nan (!bitOf m (mw - 1)))
  else if ex = 0 then .num neg m (1 - fpBias ew - mw)
  else .num neg (2 ^ mw + m) (ex - fpBias ew - mw)

/-- The canonical quiet NaN of a format (03 R105, 05 R161). -/
def fpNan (ew mw : Nat) : Nat := (2 ^ ew - 1) * 2 ^ mw + 2 ^ (mw - 1)

/-- The infinity and the largest finite value of a format. -/
def fpInf (ew mw : Nat) (neg : Bool) : Nat := (2 ^ ew - 1) * 2 ^ mw + (if neg then 2 ^ (ew + mw) else 0)
def fpMax (ew mw : Nat) (neg : Bool) : Nat := (2 ^ ew - 1) * 2 ^ mw - 1 + (if neg then 2 ^ (ew + mw) else 0)

/-- The encoding of a zero. -/
def fpZero (ew mw : Nat) (neg : Bool) : Nat := if neg then 2 ^ (ew + mw) else 0

/-- Whether a value is tiny after rounding: below the smallest normal when rounded with an unbounded exponent. -/
def fpTiny (ew mw : Nat) (rm : RMode) (neg : Bool) (m : Nat) (e : Int) : Bool :=
  let u : Int := e + bitLen m - 1 - mw
  let q := (roundUnits rm neg m e u).1
  decide ((bitLen q : Int) - 1 + u < 1 - fpBias ew)

/-- A finite nonzero magnitude rounded into a format with overflow by IEEE 754: the encoding and the exception flags of
RISC-V's fcsr (16 invalid, 8 divide by zero, 4 overflow, 2 underflow, 1 inexact). -/
def fpRound (ew mw : Nat) (rm : RMode) (neg : Bool) (m : Nat) (e : Int) : Nat × Nat :=
  let (enc, ix) := fpEnc ew mw rm neg m e
  if enc ≥ (2 ^ ew - 1) * 2 ^ mw then
    let toMax := match rm with
      | .rtz => true
      | .rdn => !neg
      | .rup => neg
      | _ => false
    (if toMax then fpMax ew mw neg else fpInf ew mw neg, 5)
  else (enc + (if neg then 2 ^ (ew + mw) else 0), if ix then (if fpTiny ew mw rm neg m e then 3 else 1) else 0)

/-- A signed dyadic number `v × 2^e` rounded into a format; an exact zero takes the sign `z`. -/
def fpOfInt (ew mw : Nat) (rm : RMode) (v e : Int) (z : Bool) : Nat × Nat :=
  if v = 0 then (fpZero ew mw z, 0) else fpRound ew mw rm (decide (v < 0)) v.natAbs e

/-- The signed significand of a number. -/
def signed (neg : Bool) (m : Nat) : Int := if neg then -(m : Int) else m

/-- The sum of two decoded numbers as one signed dyadic number. -/
def dyAdd (v1 e1 v2 e2 : Int) : Int × Int :=
  let e := min e1 e2
  (v1 * 2 ^ (e1 - e).toNat + v2 * 2 ^ (e2 - e).toNat, e)

/-- The sign of an exact zero sum: that of both when they agree, else + (− when rounding down) (03 R110). -/
def zeroSign (rm : RMode) (n1 n2 : Bool) : Bool := if n1 = n2 then n1 else rm = .rdn

/-- The invalid flag of a signalling NaN among the operands. -/
def sigFlag (l : List FV) : Nat := if l.any (fun v => v == .nan true) then 16 else 0

/-- Addition with one rounding. -/
def fpAdd (ew mw : Nat) (rm : RMode) (a b : FV) : Nat × Nat :=
  match a, b with
  | .num n1 m1 e1, .num n2 m2 e2 =>
    let (v, e) := dyAdd (signed n1 m1) e1 (signed n2 m2) e2
    fpOfInt ew mw rm v e (zeroSign rm n1 n2)
  | .inf n1, .inf n2 => if n1 = n2 then (fpInf ew mw n1, 0) else (fpNan ew mw, 16)
  | .inf n, .num _ _ _ => (fpInf ew mw n, 0)
  | .num _ _ _, .inf n => (fpInf ew mw n, 0)
  | _, _ => (fpNan ew mw, sigFlag [a, b])

/-- A value with its sign turned. -/
def FV.neg : FV → FV
  | .nan q => .nan q
  | .inf n => .inf (!n)
  | .num n m e => .num (!n) m e

/-- The exact product of two values; None for a product that is invalid. -/
def fpProd (a b : FV) : Option FV :=
  match a, b with
  | .num n1 m1 e1, .num n2 m2 e2 => some (.num (n1 != n2) (m1 * m2) (e1 + e2))
  | .inf n1, .inf n2 => some (.inf (n1 != n2))
  | .inf n1, .num n2 m _ => if m = 0 then none else some (.inf (n1 != n2))
  | .num n1 m _, .inf n2 => if m = 0 then none else some (.inf (n1 != n2))
  | _, _ => some (.nan false)

/-- A value put into a format. -/
def fpPut (ew mw : Nat) (rm : RMode) (v : FV) : Nat × Nat :=
  match v with
  | .nan _ => (fpNan ew mw, 0)
  | .inf n => (fpInf ew mw n, 0)
  | .num n m e => fpOfInt ew mw rm (signed n m) e n

/-- Multiplication with one rounding. -/
def fpMul (ew mw : Nat) (rm : RMode) (a b : FV) : Nat × Nat :=
  match fpProd a b with
  | none => (fpNan ew mw, 16)
  | some v => let (r, f) := fpPut ew mw rm v; (r, f ||| sigFlag [a, b])

/-- Fused multiply and add with one rounding (05 R161). -/
def fpFma (ew mw : Nat) (rm : RMode) (a b c : FV) : Nat × Nat :=
  match fpProd a b with
  | none => (fpNan ew mw, 16)
  | some p => let (r, f) := fpAdd ew mw rm p c; (r, f ||| sigFlag [a, b, c])

/-- Division with one rounding: the quotient to more bits than the format has, with a sticky last bit. -/
def fpDiv (ew mw : Nat) (rm : RMode) (a b : FV) : Nat × Nat :=
  match a, b with
  | .num n1 m1 e1, .num n2 m2 e2 =>
    if m2 = 0 then (if m1 = 0 then (fpNan ew mw, 16) else (fpInf ew mw (n1 != n2), 8))
    else
      let k := mw + 3 + bitLen m2
      let q := m1 * 2 ^ k / m2
      let r := m1 * 2 ^ k % m2
      fpOfInt ew mw rm (signed (n1 != n2) (2 * q + (if r = 0 then 0 else 1))) (e1 - e2 - k - 1) (n1 != n2)
  | .inf n1, .num n2 _ _ => (fpInf ew mw (n1 != n2), 0)
  | .num n1 _ _, .inf n2 => (fpZero ew mw (n1 != n2), 0)
  | .inf _, .inf _ => (fpNan ew mw, 16)
  | _, _ => (fpNan ew mw, sigFlag [a, b])

/-- The integer square root. -/
def isqrtAux : Nat → Nat → Nat → Nat
  | 0, _, r => r
  | k + 1, n, r =>
    let t := r + 2 ^ k
    if t * t ≤ n then isqrtAux k n t else isqrtAux k n r

def isqrt (n : Nat) : Nat := isqrtAux (bitLen n / 2 + 1) n 0

/-- Square root with one rounding. -/
def fpSqrt (ew mw : Nat) (rm : RMode) (a : FV) : Nat × Nat :=
  match a with
  | .num n m e =>
    if m = 0 then (fpZero ew mw n, 0)
    else if n then (fpNan ew mw, 16)
    else
      let k := 2 * (mw + 3)
      let odd := (e % 2).toNat
      let w := m * 2 ^ (k + odd)
      let q := isqrt w
      fpOfInt ew mw rm (signed false (2 * q + (if q * q = w then 0 else 1))) ((e - odd) / 2 - (mw + 3) - 1) false
  | .inf n => if n then (fpNan ew mw, 16) else (fpInf ew mw false, 0)
  | .nan sg => (fpNan ew mw, if sg then 16 else 0)

/-- How two numbers compare; none with a NaN. -/
def fpCmp (a b : FV) : Option Ordering :=
  match a, b with
  | .nan _, _ => none
  | _, .nan _ => none
  | .inf n1, .inf n2 => some (if n1 = n2 then .eq else if n1 then .lt else .gt)
  | .inf n, .num _ _ _ => some (if n then .lt else .gt)
  | .num _ _ _, .inf n => some (if n then .gt else .lt)
  | .num n1 m1 e1, .num n2 m2 e2 =>
    let d := (dyAdd (signed n1 m1) e1 (signed (!n2) m2) e2).1
    some (if d < 0 then .lt else if d = 0 then .eq else .gt)

/-- A value rounded to an integer. -/
def fpToInt (rm : RMode) (n : Bool) (m : Nat) (e : Int) : Int × Bool :=
  let (q, ix) := roundUnits rm n m e 0
  (signed n q, ix)

end Sys2Proof.Machine
end

