-- ==== Sys2Proof/Machine/Frets.lean ====
section
/-! DEFINITION. Number formats of the array, fretted and fretless accumulation, conversion to the output formats and
stochastic rounding (03). -/
namespace Sys2Proof.Machine

/-! ### Input formats (03 R87-R92) -/

/-- Element bits of an input format code (03 Table Frets-1). -/
def inBits (f : Nat) : Nat :=
  match f with
  | 0 => 8 | 1 => 4 | 2 => 8 | 3 => 8 | 4 => 8 | 5 => 6 | 6 => 6 | 7 => 4 | 8 => 16 | 9 => 16 | 10 => 32
  | _ => 0

/-- Pairing group: 0 INT, 1 MX, 2 HALF, 3 FP32, 4 none (03 Table Frets-1). -/
def inGroup (f : Nat) : Nat :=
  if f ≤ 1 then 0 else if f ≤ 7 then 1 else if f ≤ 9 then 2 else if f = 10 then 3 else 4

/-- Whether a format carries E8M0 block scales. -/
def inScaled (f : Nat) : Bool := decide (inGroup f = 1)

/-- A two's-complement element with the weight of its last bit. -/
def decInt (bits : Nat) (e : Int) (b : Nat) : FV :=
  if bitOf b (bits - 1) then .num true (2 ^ bits - b) e else .num false b e

/-- Decode an element of a format (03 R90, Table Frets-2). -/
def decElem (f b : Nat) : FV :=
  match f with
  | 0 => decInt 8 0 b
  | 1 => decInt 4 0 b
  | 2 => decInt 8 (-6) b
  | 3 => if b % 128 = 0x7F then .nan false else
      let neg := bitOf b 7
      let ex := bitsOf b 6 3
      if ex = 0 then .num neg (b % 8) (-9) else .num neg (8 + b % 8) (ex - 10)
  | 4 => match fpDec 5 2 b with
      | .nan _ => .nan false
      | v => v
  | 5 => let ex := bitsOf b 4 2
         if ex = 0 then .num (bitOf b 5) (b % 4) (-4) else .num (bitOf b 5) (4 + b % 4) (ex - 5)
  | 6 => let ex := bitsOf b 4 3
         if ex = 0 then .num (bitOf b 5) (b % 8) (-3) else .num (bitOf b 5) (8 + b % 8) (ex - 4)
  | 7 => let ex := bitsOf b 2 1
         if ex = 0 then .num (bitOf b 3) (b % 2) (-1) else .num (bitOf b 3) (2 + b % 2) (ex - 2)
  | 8 => fpDec 8 7 b
  | 9 => fpDec 5 10 b
  | 10 => fpDec 8 23 b
  | _ => .nan false

/-- An element under its E8M0 scale code; 0xFF makes it NaN (03 R91). -/
def decScaled (f b : Nat) (scale : Option Nat) : FV :=
  match scale with
  | none => decElem f b
  | some sc => if sc = 0xFF then .nan false else
      match decElem f b with
      | .num n m e => .num n m (e + (sc : Int) - 127)
      | v => v

/-! ### Fret words (03 R93-R98) -/

/-- The special words (03 Table Frets-4). -/
def specialWord (k : Nat) : Nat := 0x8000 * 2 ^ 112 + k
def wInfP : Nat := specialWord 1
def wInfN : Nat := specialWord 2
def wNan : Nat := specialWord 3
def wRange : Nat := specialWord 4

/-- Whether a word is special (03 R94). -/
def wSpecial (w : Nat) : Bool := decide (w / 2 ^ 112 = 0x8000)

/-- The kind of a special word, 0 for a finite one. The spec gives no meaning to one with another VALUE, which can only come in from Ghengo: it is one of
the four, which is free (log 94). -/
def wKind (w : Nat) : Nat :=
  if wSpecial w then
    let v := w % 2 ^ 112
    if 1 ≤ v ∧ v ≤ 4 then v else 1 + (Config.strayKind (BitVec.ofNat 128 w)).toNat
  else 0

/-- The 128-bit two's-complement number of a word (03 R94). -/
def wInt (w : Nat) : Int := if bitOf w 127 then (w : Int) - 2 ^ 128 else w

/-- The net wrap count of a finite word (03 R94). -/
def wWrap (w : Nat) : Int :=
  let v : Int := if bitOf w 111 then (w % 2 ^ 112 : Nat) - (2 : Int) ^ 112 else (w % 2 ^ 112 : Nat)
  (wInt w - v) / 2 ^ 112

/-- A term to be added: an integer number of units, or a special word's kind. -/
inductive Term where
  | units (q : Int)
  | special (k : Nat)
  deriving DecidableEq, Repr

/-- Joining kinds: 0 finite, 1 +INF, 2 −INF, 3 NaN, 4 RANGE (03 R97, Table Frets-5). -/
def joinKind (a b : Nat) : Nat :=
  if a = 3 ∨ b = 3 then 3
  else if (a = 1 ∧ b = 2) ∨ (a = 2 ∧ b = 1) then 3
  else if a = 1 ∨ b = 1 then 1
  else if a = 2 ∨ b = 2 then 2
  else if a = 4 ∨ b = 4 then 4
  else 0

/-- The term that a word stands for (03 R96). -/
def termOf (w : Nat) : Term := if wSpecial w then .special (wKind w) else .units (wInt w)

/-- Add a term to a word (03 R96). -/
def fretAdd (w : Nat) (t : Term) : Nat :=
  match t with
  | .special k => specialWord (joinKind (wKind w) k)
  | .units q =>
    if wSpecial w then w
    else
      let n := ((wInt w + q) % 2 ^ 128).toNat
      if n / 2 ^ 112 = 0x8000 then wRange else n

/-- A rounded product: its term, FRET_LOW and FRET_HIGH (03 R95). -/
def fretProduct (a b : FV) (f : Int) : Term × Bool × Bool :=
  match a, b with
  | .num n1 m1 e1, .num n2 m2 e2 =>
    if m1 * m2 = 0 then (.units 0, false, false)
    else
      let (q, _) := roundUnits .rne false (m1 * m2) (e1 + e2) f
      (.units (signed (n1 != n2) q), q == 0, decide (q ≥ 2 ^ 111))
  | .inf n1, .num n2 m _ => (.special (if m = 0 then 3 else if n1 = n2 then 1 else 2), false, false)
  | .num n1 m _, .inf n2 => (.special (if m = 0 then 3 else if n1 = n2 then 1 else 2), false, false)
  | .inf n1, .inf n2 => (.special (if n1 = n2 then 1 else 2), false, false)
  | _, _ => (.special 3, false, false)

/-! ### FP32 by split (03 R102, 04 R145) -/

/-- The three pieces of an FP32 value, high, middle and low (03 R102). -/
def pieces (v : FV) : List FV :=
  match v with
  | .num n m e => [.num n (m / 2 ^ 16) (e + 16), .num n (m / 2 ^ 8 % 2 ^ 8) (e + 8), .num n (m % 2 ^ 8) e]
  | _ => []

/-- The nine piece pairs in the order of 04 R145; for a special value the pair itself, once (03 R102). -/
def piecePairs (a b : FV) : List (FV × FV) :=
  match pieces a, pieces b with
  | [ah, am, al], [bh, bm, bl] =>
    [(ah, bh), (ah, bm), (am, bh), (ah, bl), (am, bm), (al, bh), (am, bl), (al, bm), (al, bl)]
  | _, _ => [(a, b)]

/-! ### Fretless words (03 R110) -/

/-- The FP32 value of a fretless word. -/
def fpWord (w : Nat) : FV := fpDec 8 23 (w % 2 ^ 32)

/-- Add one value to an FP32 word with one rounding to nearest (03 R110). -/
def fp32Add (w : Nat) (v : FV) : Nat := (fpAdd 8 23 .rne (fpWord w) v).1

/-- Add an exact product to an FP32 word with one rounding; an invalid product is NaN (03 R110). -/
def fp32AddProd (w : Nat) (a b : FV) : Nat :=
  match fpProd a b with
  | none => fpNan 8 23
  | some p => fp32Add w p

/-! ### Stochastic rounding (03 R108, R109) -/

/-- The draw of an element (03 R109). -/
def srDraw (seed tag row col : Nat) : Nat :=
  let m := 2 ^ 64
  let ctr := tag * 2 ^ 48 + row * 2 ^ 24 + col
  let x := (seed + ctr * 0x9E3779B97F4A7C15) % m
  let y := ((x ^^^ (x / 2 ^ 30)) * 0xBF58476D1CE4E5B9) % m
  let z := ((y ^^^ (y / 2 ^ 27)) * 0x94D049BB133111EB) % m
  (z ^^^ (z / 2 ^ 31)) / 2 ^ 32

/-! ### Conversion (03 R104, R105, R625; Table Frets-11) -/

/-- Tile status bits. -/
def tsLow : Nat := 1
def tsHigh : Nat := 2
def tsNan : Nat := 4
def tsInf : Nat := 8
def tsRange : Nat := 16
def tsSat : Nat := 32

/-- Bytes of an output element (04 R134). -/
def outBytes (f : Nat) : Nat :=
  match f with
  | 0 => 4 | 1 => 2 | 2 => 2 | 3 => 1 | 4 => 1 | 5 => 4 | 6 => 16
  | _ => 0

/-- Convert an exact value into FP32, BF16, FP16 or E5M2: the encoding (03 Table Frets-11). -/
def convIeee (ew mw : Nat) (rm : RMode) (v : FV) : Nat :=
  match v with
  | .nan _ => if mw = 2 then 0x7E else fpNan ew mw
  | .inf n => fpInf ew mw n
  | .num n m e => if m = 0 then fpZero ew mw n else (fpRound ew mw rm n m e).1

/-- Convert into E4M3: the encoding, and CONV_SAT (03 Table Frets-11). -/
def convE4m3 (rm : RMode) (v : FV) : Nat × Nat :=
  match v with
  | .nan _ => (0x7F, 0)
  | .inf _ => (0x7F, tsSat)
  | .num n m e =>
    let sgn := if n then 0x80 else 0
    let enc := (fpEnc 4 3 rm n m e).1
    if enc > 0x7E then (0x7E + sgn, tsSat) else (enc + sgn, 0)

/-- Saturate an integer into INT32 (03 Table Frets-11). -/
def satInt32 (i : Int) : Nat × Nat :=
  if i > 0x7FFFFFFF then (0x7FFFFFFF, tsSat)
  else if i < -0x80000000 then (0x80000000, tsSat)
  else ((i % 2 ^ 32).toNat, 0)

/-- Convert one value into an output format below INT32: the encoding and the status bits it sets. -/
def convFloat (fmt : Nat) (rm : RMode) (v : FV) : Nat × Nat :=
  match fmt with
  | 0 => (convIeee 8 23 rm v, 0)
  | 1 => (convIeee 8 7 rm v, 0)
  | 2 => (convIeee 5 10 rm v, 0)
  | 3 => convE4m3 rm v
  | _ => (convIeee 5 2 rm v, 0)

/-- The value a special word converts as. -/
def kindValue (k : Nat) : FV := if k = 1 then .inf false else if k = 2 then .inf true else .nan false

/-- The status bits of a converted fret word beside saturation: FRET_RANGE, FRET_INF, FRET_NAN, FRET_HIGH (03 R99, R103). -/
def wordFlags (w : Nat) : Nat :=
  match wKind w with
  | 0 => if wWrap w = 0 then 0 else tsHigh
  | 1 => tsInf
  | 2 => tsInf
  | 3 => tsNan
  | _ => tsRange

/-- Convert a fret word on base `f` (03 R105): the encoding and the status bits. -/
def convFret (fmt : Nat) (rm : RMode) (f : Int) (w : Nat) : Nat × Nat :=
  let fl := wordFlags w
  if fmt = 6 then (w, fl)
  else if fmt = 5 then
    match wKind w with
    | 0 => let (v, st) := satInt32 (wInt w); (v, fl ||| st)
    | 1 => (0x7FFFFFFF, fl ||| tsSat)
    | 2 => (0x80000000, fl ||| tsSat)
    | _ => (0, fl ||| tsSat)
  else
    let v : FV := if wKind w = 0 then .num (decide (wInt w < 0)) (wInt w).natAbs f else kindValue (wKind w)
    let (e, st) := convFloat fmt rm v
    (e, fl ||| st)

/-- Whether an encoding of a float output format is an infinity. -/
def isInfEnc (fmt e : Nat) : Bool :=
  match fmt with
  | 0 => e % 2 ^ 31 == 0x7F800000
  | 1 => e % 2 ^ 15 == 0x7F80
  | 2 => e % 2 ^ 15 == 0x7C00
  | 4 => e % 2 ^ 7 == 0x7C
  | _ => false

/-- Convert a fretless word (03 R110, R112, R625). -/
def convFp (fmt : Nat) (rm : RMode) (w : Nat) : Nat × Nat :=
  let v := fpWord w
  if fmt = 5 then
    match v with
    | .nan _ => (0, tsNan ||| tsSat)
    | .inf n => (if n then 0x80000000 else 0x7FFFFFFF, tsInf ||| tsSat)
    | .num n m e => satInt32 (fpToInt rm n m e).1
  else
    let (e, st) := convFloat fmt rm v
    let fl := match v with
      | .nan _ => tsNan
      | .inf _ => tsInf
      | .num _ _ _ => if isInfEnc fmt e then tsInf else 0
    (e, fl ||| st)

/-! ### Requantising (04 R144) -/

/-- Exponent bits, mantissa bits, largest exponent and largest encoding of an MX element format with a sign. -/
def mxShape (fmt : Nat) : Nat × Nat × Int × Nat :=
  match fmt with
  | 3 => (4, 3, 8, 0x7E)
  | 4 => (5, 2, 15, 0x7B)
  | 5 => (3, 2, 4, 0x1F)
  | 6 => (2, 3, 2, 0x1F)
  | _ => (2, 1, 2, 7)

/-- One element of an MX block: the exact value divided by 2^x and rounded once, saturated with CONV_SAT (04 R144). -/
def mxElem (fmt : Nat) (rm : RMode) (x : Int) (n : Bool) (m : Nat) (e : Int) : Nat × Nat :=
  if fmt = 2 then
    let (q, _) := roundUnits rm n m (e - x) (-6)
    let (q1, st) := if q > 127 then (127, tsSat) else (q, 0)
    (((signed n q1) % 256).toNat, st)
  else
    let (ew, mw, _, mx) := mxShape fmt
    let enc := (fpEnc ew mw rm n m (e - x)).1
    let (enc1, st) := if enc > mx then (mx, tsSat) else (enc, 0)
    (enc1 + (if n then 2 ^ (ew + mw) else 0), st)

/-- The block scale exponent of the largest magnitude `m × 2^e`: floor(log2) − e_max, clamped (04 R144). -/
def mxScale (fmt : Nat) (m : Nat) (e : Int) : Int :=
  let emax : Int := if fmt = 2 then 0 else (mxShape fmt).2.2.1
  max (-127) (min 127 ((bitLen m : Int) - 1 + e - emax))

end Sys2Proof.Machine
end

