-- ==== Sys2Proof/Machine/GhState.lean ====
section
/-! DEFINITION. The state of Ghengo ports, Ademen leases, Ghengo channels and the Boathouse (14). -/
namespace Sys2Proof.Machine

/-- A Ghengo port (14 R462-R473). `st` is the state of Table Ghengo-5: 0 DISABLED, 1 TRAINING, 2 SECURING, 3 UP,
4 RECOVERING, 5 FAILED. -/
structure GhPort where
  st : Nat := 0
  tbEntered : Nat := 0
  /-- The port has left TRAINING and SECURING since the start (16 Table Start-3). -/
  left : Bool := false
  /-- The cause recorded on the way out of TRAINING, SECURING or UP (14 Table Ghengo-5, R471). -/
  cause : Nat := 0
  /-- Times of the entries to RECOVERING of the last hour, newest first. -/
  entries : List Nat := []
  /-- The FEC mode taken at the last training, and this side's nonce of the HELLO exchange (14 R464, R473). -/
  fec : Nat := 0
  nonce : Bytes := []
  peer : Nat := 0
  /-- The peer module of the last time the port was up (14 R473). -/
  lastPeer : Option Nat := none
  farPort : Nat := 0
  /-- Keys of the link, and its expected next authentication tag number (18 R590, R591). -/
  key : Bytes := []
  /-- Transmit credit by virtual channel, in 64-byte units (14 R466). -/
  credit : List Nat := [512, 512, 256, 64, 256, 64]
  /-- When the credit of each virtual channel last came to zero (14 R471). -/
  tbZero : List Nat := [0, 0, 0, 0, 0, 0]
  /-- Sequence numbers: last received in order, last acknowledged (14 R465, R468). -/
  rxSeq : Nat := 0
  ackSeq : Nat := 0
  /-- Replays asked of the peer for the flit after `rxSeq`, and made of the flit after `ackSeq`, each in a row, and the times of the
  replays of the last millisecond. -/
  rxReplays : Nat := 0
  txReplays : Nat := 0
  replays : List Nat := []
  /-- Groups authenticated since the port came UP (18 R577). -/
  group : Nat := 0
  /-- When the port last left UP. -/
  tbDown : Nat := 0
  deriving DecidableEq, Repr

/-- The fields of a message header that the receiver reads, beside its kind (14 Table Ghengo-8). -/
structure AdmHead where
  src : Nat
  dst : Nat
  txn : Nat
  epoch : Nat := 0
  code : Nat := 0
  key : Nat := 0
  arg : Nat := 0
  deriving DecidableEq, Repr

/-- A request message without a response (14 R478, R479). -/
structure GhMsg where
  head : AdmHead
  msg : AdmMsg
  body : List Nat := []
  /-- How often it has been sent, and when first. -/
  sends : Nat := 1
  /-- It is sent once only, whatever the answer (14 Table Ghengo-16). -/
  once : Bool := false
  tb : Nat := 0
  tbLast : Nat := 0
  deriving DecidableEq, Repr

/-- The response a receiver keeps of a request (14 R479): its sender and transaction, whether the request is still being
carried out, and the response's epoch, code, argument and body. -/
structure GhKept where
  head : AdmHead
  msg : AdmMsg
  busy : Bool := false
  body : List Nat := []
  /-- When the request came. -/
  tb : Nat := 0
  deriving DecidableEq, Repr

/-- A fence advance of MD on another module whose answer has not come: the tag of its request, the port by which it left, context, fence index, value
and when it left (07 R253, 14 R470). -/
structure AdvFar where
  tag : Nat
  port : Nat
  ctx : Nat
  fence : Nat
  value : Nat
  tb : Nat
  deriving DecidableEq, Repr

/-- A lease on the borrower (14 Table Ghengo-9). `st`: 0 NONE, 1 REQUESTED, 2 HELD, 3 RIGGED, 4 RETURNING, 5 LOST. -/
structure LeaseIn where
  record : Nat := 0
  st : Nat := 0
  /-- The slot whose LEASE_LIST names it. -/
  slot : Option Nat := none
  /-- When the last answered renewal, or the request, was sent. -/
  tbAnswered : Nat := 0
  /-- An EPOCH_QUERY of the present check has been answered 0x0000 (14 R481). -/
  queried : Bool := false
  deriving DecidableEq, Repr

/-- A lease on the lender (14 Table Ghengo-11, Table Ghengo-12). -/
structure LeaseOut where
  id : Nat
  borrower : Nat
  epoch : Nat
  kind : Nat
  ports : List Nat := []
  res : List Nat := []
  termMs : Nat := 0
  /-- The power level the lender sets for lent seats (15 R502). -/
  level : Nat := 0
  tbGrant : Nat := 0
  tbRenew : Nat := 0
  /-- What vzseatid shows of the borrower's shell on a lent seat that runs, by its number in the lease (14 R483). -/
  idents : Tbl Nat := []
  /-- The LEASE_RETURN that the end of the scrub answers. -/
  returned : Option AdmHead := none
  deriving DecidableEq, Repr

/-- States of a Ghengo channel (14 R488), encoded as GH_CHANNEL_STATE reads. -/
inductive ChState where
  | closed | opening | opened | peerGone | aborting
  deriving DecidableEq, Repr

/-- A Ghengo channel (14 R486-R488). -/
structure GhChan where
  st : ChState := .closed
  ctx : Nat := 0
  peer : Nat := 0
  peerChan : Nat := 0
  shell : Nat := 0
  aperture : Nat := 0
  first : Nat := 0
  count : Nat := 0
  /-- The outbound extent, learned at acceptance. -/
  extent : Nat := 0
  tbOpen : Nat := 0
  /-- The fresh nonce of the open. -/
  nonce : Bytes := []
  /-- The queue sequence numbers of the GHENGO_OPEN and of the GHENGO_CLOSE whose result words wait. -/
  cmdSeq : Option Nat := none
  closeSeq : Option Nat := none
  deriving DecidableEq, Repr

/-- A Boathouse key at its home (14 Table Ghengo-16). `st`: 0 FREE, 1 ALLOCATING, 2 LIVE, 3 PREPARING, 4 COPYING,
5 RESOLVING, 6 LOST. -/
structure BhHome where
  key : Nat
  st : Nat := 1
  ctx : Nat := 0
  aperture : Nat := 0
  window : Nat := 0
  units : Nat := 0
  member : Nat := 0
  epoch : Nat := 0
  target : Nat := 0
  epoch2 : Nat := 0
  /-- Members still to try for MEMBER 0xFFFF. -/
  others : List Nat := []
  /-- Members that held or were allocated the key: (member, time). -/
  seen : List (Nat × Nat) := []
  /-- Members that answered a query at another epoch: (member, epoch). -/
  stale : List (Nat × Nat) := []
  tbAnswered : Nat := 0
  tbState : Nat := 0
  /-- The outcome of state 6: 0x510 OWNER_LOST, 0x511 for ORPHANED. -/
  orphaned : Bool := false
  /-- The BH_LEASE whose result word waits. -/
  cmdSeq : Option Nat := none
  deriving DecidableEq, Repr

/-- A Boathouse key at a member (14 Table Ghengo-17). `st`: 1 HELD, 2 MOVING, 3 MOVED. -/
structure BhHeld where
  key : Nat
  epoch : Nat
  home : Nat
  /-- The window at the home that its packets name: aperture × 1,024 + window. -/
  bind : Nat := 0
  st : Nat := 1
  /-- The 2 MiB units allocated, by number, and the size in units. -/
  units : List Nat := []
  target : Nat := 0
  epoch2 : Nat := 0
  /-- Granules of 64 KiB copied to the target (14 R493). -/
  copied : Nat := 0
  tbRenew : Nat := 0
  /-- The BH_MOVE that the copy answers. -/
  moveHead : Option AdmHead := none
  deriving DecidableEq, Repr

end Sys2Proof.Machine
end

