-- ==== Sys2Proof/Machine/SeatState.lean ====
section
/-! DEFINITION. The parts of the machine's state that belong to seats and shells: tender core, array, transfer
queue, unison-add groups, rigging, migration, windows and images (02 to 07, 09). -/
namespace Sys2Proof.Machine

/-- A scratchpad window region (05 R184): base and length in 32-byte units, and rights (bit 0 read, bit 1 write). -/
structure Win where
  base : Nat := 0
  len : Nat := 0
  rights : Nat := 0
  deriving DecidableEq, Repr

/-- What a tender core waits for (05 R172-R183, R214, 07 R242). -/
inductive CoreWait where
  /-- Executing: the next instruction may run. -/
  | none
  /-- A load's response (06 R214): register, width in bytes, sign extension, float register, address. -/
  | load (rd width : Nat) (signed fp : Bool) (va ga : Nat)
  /-- The fill of a line that a store or a load missed (05 R166): the store's data, if it is a store. -/
  | fill (va ga : Nat) (data : List Nat)
  /-- An atomic's response (07 R245). -/
  | amo (op rd width : Nat) (src : Nat) (va ga : Nat)
  /-- A full array-op queue (05 R172). -/
  | issue (desc : Nat)
  /-- Unretired ops above n (05 R175). -/
  | arrWait (n : Nat)
  /-- The response to an instruction fetch that misses the I cache (05 R164): address, global address. -/
  | fetch (va ga : Nat)
  /-- A peg (05 R178): rd, peg, sense, clear on wake, acquire, scope, and the cycle count when it began. -/
  | peg (rd peg : Nat) (sense clear acquire : Bool) (scope cyc : Nat)
  /-- Any peg of a mask (05 R178). -/
  | pegAny (rd mask : Nat) (acquire : Bool) (scope : Nat)
  /-- A full transfer queue (05 R182). -/
  | submit (rd off : Nat)
  /-- A fence: order 1 the write-backs of an acquire, 2 a release, 3 both (05 R168, 07 R242), and the peg write that follows a release: kind 0
  none, 1 a local peg, 2 a peg address. -/
  | fence (order scope : Nat) (kind arg : Nat) (clear : Bool)
  /-- Draining at a catch point, or held there (05 R186). -/
  | catchDrain
  | catchHeld
  /-- Draining at SEAT.END, with its hint (05 R187). -/
  | endDrain (hint : Nat)
  deriving DecidableEq, Repr

/-- A D-cache line (05 R166): the global address it caches, the address last used for it, its 64 bytes, and whether it is dirty. -/
structure DLine where
  ga : Nat
  va : Nat := 0
  data : Bytes
  dirty : Bool := false
  deriving DecidableEq, Repr

/-- A store whose acknowledgement is awaited (06 R214): address, and the status its destination gave it. -/
structure PendStore where
  va : Nat
  ga : Nat
  status : Nat := 0
  /-- Its destination lies outside the module: its acknowledgement comes from there. -/
  outside : Bool := false
  /-- When it left, and the number by which its held packet names it; while that packet waits there is no acknowledgement (02 R69, 06 R211,
  R213). -/
  tb : Nat := 0
  tag : Nat := 0
  /-- Of a store over Ghengo: its port, its destination module and its virtual channel (14 R469). -/
  gh : Option (Nat × Nat × Nat) := none
  waits : Bool := false
  deriving DecidableEq, Repr

/-- A tender core (05 R159-R197). -/
structure Core where
  /-- x1 to x31 and f0 to f31. -/
  x : Tbl Nat := []
  f : Tbl Nat := []
  pc : Nat := 0
  /-- True in user mode; false in machine mode, the firmware (05 R159, R196). -/
  user : Bool := false
  fcsr : Nat := 0
  srSeed : Nat := 0
  /-- CATCH instructions retired, and reached (02 R63). -/
  catchCount : Nat := 0
  reached : Nat := 0
  catchDesc : Nat := 0
  sig : Nat := 0
  /-- Watchdog period and the time of the last matching SIG.CHK (05 R189). -/
  wdog : Nat := 500000
  tbCheck : Nat := 0
  wdHeld : Nat := 0
  /-- The watchdog count that a control record brought, or a load or a move carried over (02 R68). -/
  wdCarry : Nat := 0
  /-- When the present wait began. -/
  tbWait : Nat := 0
  instret : Nat := 0
  /-- The firmware's own pc, an offset in the firmware store (05 R165, R196). -/
  mpc : Nat := 0
  /-- The wait that the core is in is the firmware's: the instruction that waits stands at the firmware's own pc. -/
  fw : Bool := false
  /-- When a debug halt stopped the seat, which holds the watchdog (05 R189). -/
  tbHalt : Option Nat := none
  /-- A release at system scope has come since the last write to the host window (07 R236). -/
  released : Bool := false
  /-- Lines of the I cache (05 R166), and the uncached global addresses whose fetch has been answered for the instruction that comes next. -/
  icache : List DLine := []
  fetched : List Nat := []
  win0 : Win := { base := 0, len := 49152, rights := 3 }
  win1 : Win := {}
  win2 : Win := {}
  win3 : Win := {}
  wait : CoreWait := .none
  /-- Bytes of the instruction being executed: 2 when it is compressed. -/
  isz : Nat := 4
  /-- The LR reservation: a scratchpad offset (07 R246). -/
  reserve : Option Nat := none
  dcache : List DLine := []
  stores : List PendStore := []
  /-- mcause, mtval and mepc of the last trap (05 R192). -/
  mcause : Nat := 0
  mtval : Nat := 0
  mepc : Nat := 0
  deriving DecidableEq, Repr

/-- A descriptor in the array-op queue with its latched seed and its number (05 R173, 04 R151). -/
structure ArrOp where
  desc : Nat
  seed : Nat := 0
  seq : Nat := 0
  deriving DecidableEq, Repr

/-- A started op that has not retired (04 R120, R129). -/
structure Flight where
  op : ArrOp
  status : Nat := 0
  /-- It still waits for the conversion unit; it has had its turn on it. -/
  wantsConv : Bool := false
  inConv : Bool := false
  /-- The output-origin register when it started (04 R123). -/
  origin : Nat := 0
  guardSkipped : Bool := false
  inexact : Bool := false
  /-- Which check failed: 1 residue, 2 guard, 3 dual conversion, 4 operand read (17 Table Safety-1). -/
  failed : Nat := 0
  wroteOutput : Bool := false
  deriving DecidableEq, Repr

/-- The guard sum of a tile row (04 R148): the exact sum modulo 2^128 with its special word, and in fretless mode
the FP32 sum and the FP32 sum of magnitudes. -/
structure Guard where
  sum : Nat := 0
  special : Nat := 0
  fsum : Nat := 0
  fabs : Nat := 0
  deriving DecidableEq, Repr

/-- A tree-table bank (04 R142, R154): source offset, level count, and its entries, level × 64 + column. -/
structure Bank where
  offset : Nat := 0
  levels : Nat := 0
  entries : List Nat := []
  deriving DecidableEq, Repr

/-- The matrix array of a seat (04). -/
structure Arr where
  queue : List ArrOp := []
  flight : List Flight := []
  /-- Ops accepted since job start. -/
  accepted : Nat := 0
  /-- The queue takes no ops after a format error or a failed check (05 R176). -/
  stopped : Bool := false
  /-- Words by tile × 1024 + index. -/
  words : Tbl Nat := []
  /-- Tile status words; a tile that nothing cleared reads MODE 1 (03 R99). -/
  status : Tbl Nat := []
  guards : Tbl Guard := []
  /-- Tiles with merged words that no guard check has covered (04 R149). -/
  merged : List Nat := []
  /-- Tiles that carry a refused mark (06 R224). -/
  refused : List Nat := []
  origin : Nat := 0
  banks : Tbl Bank := []
  result : Nat := 0
  summary : Nat := 0
  deriving DecidableEq, Repr

/-- How a transfer stands (05 R183, 09 R322). -/
inductive XferSt where
  | queued | active | stopped | done | aborted
  deriving DecidableEq, Repr

/-- A transfer in a seat's queue (05 R182, 09 R318). -/
structure Xfer where
  ticket : Nat
  desc : Nat
  st : XferSt := .queued
  cursor : Nat := 0
  /-- The sequence-slot record a gather read when it started (09 R325). -/
  seqRec : Nat := 0
  /-- The fault being repeated beyond 64 held records (09 R332): no record was taken. -/
  unrecorded : Bool := false
  /-- A FENCE_ADV loop on a host word: the value read last (07 R254). -/
  casValue : Option Nat := none
  /-- RED_SEND packets without an acknowledgement (06 R225). -/
  unacked : Nat := 0
  /-- When its requests without a response left (06 R213), and, where it waits at its cursor for the response of one access, which: access,
  address, global address. -/
  tbSent : Nat := 0
  waits : Option (Nat × Nat × Nat) := none
  /-- The weight key latched at the start: key, nonce and base address (18 R589). -/
  wkey : Option (Bytes × Nat × Nat) := none
  /-- The Boathouse key for which it is held at its cursor (14 R494). -/
  bhKey : Option Nat := none
  deriving DecidableEq, Repr

/-- An armed unison-add group (06 R219, R222). -/
structure RedGroup where
  shell : Nat
  group : Nat
  tile : Nat
  first : Nat
  count : Nat
  expected : Nat
  got : Nat := 0
  peg : Nat
  fretBase : Nat
  fret : Bool
  refused : Bool := false
  ticket : Nat
  deriving DecidableEq, Repr

/-- Who awaits the acknowledgement of a unison-add packet: a transfer of a seat, or a leased seat of another module behind a port, by its
lease, agent and tag (06 R225, R226). -/
inductive RedSrc where
  | xfer (seat ticket : Nat)
  | remote (port id agent tag : Nat)
  deriving DecidableEq, Repr

/-- A unison-add packet on its way (06 R220, R221): group name, words from `first` on, fret base and mode, the source tiles' flags,
weight, the contributions it serves, the islands they came from with the number of each packet, the combining nodes still before it, and the node
that holds it. -/
structure RedPkt where
  slot : Nat
  group : Nat
  lseat : Nat
  first : Nat
  fret : Bool
  base : Nat
  flags : Nat := 0
  weight : Nat := 1
  words : List Nat := []
  src : List RedSrc := []
  origins : List (Nat × Nat) := []
  route : List Nat := []
  node : Option Nat := none
  /-- The seat where it ends, when it came to its lender (06 R226). -/
  dest : Option Nat := none
  /-- It lies in the hold buffer of its destination's crossbar (06 R211). -/
  held : Bool := false
  deriving DecidableEq, Repr

/-- The acknowledgement of a unison-add packet to one contribution (06 R225). -/
structure RedAck where
  src : RedSrc
  status : Nat
  deriving DecidableEq, Repr


/-- Who is answered: nobody, a requester whose packet named an address, a store of a seat's core, a requester behind a Ghengo port. -/
inductive NetBack where
  | none
  | packet (ga : Nat)
  | store (seat tag : Nat)
  | ghengo (port kind id agent tag : Nat)
  /-- A fence advance of MD: context, fence index and value (07 R253). -/
  | advance (cid i v : Nat)
  deriving DecidableEq, Repr

/-- A write to a key that moves, forwarded to the member that it moves to and not acknowledged there yet: the tag of the forwarded write, the port by which
it left, and who is answered then (14 Table Ghengo-17). -/
structure BhFwd where
  tag : Nat
  port : Nat
  back : NetBack
  deriving DecidableEq, Repr

/-- A peg write in a peg hold buffer: its source island, the number of that source's REQ writes that go before it, peg and value, and who is
answered when it is applied (06 R201). -/
structure HeldPeg where
  src : Nat
  after : Nat
  peg : Nat
  value : Bool
  back : NetBack := .none
  deriving DecidableEq, Repr

/-- Who a seat runs (05 R192-R197, 16): firmware idle, a job's code, ended, stopped by a trap or a safety stop, or halted by
debug. Before the firmware broadcast of a start no job can reach a seat. -/
inductive SeatMode where
  | idle | run | ended | stopped | halted
  deriving DecidableEq, Repr

/-- A seat (05 R159, 04 R118). Its scratchpad is in the memory, at its physical window. -/
structure Seat where
  mode : SeatMode := .idle
  core : Core := {}
  arr : Arr := {}
  pegs : Nat := 0
  xfers : List Xfer := []
  /-- The next ticket, and whether the 32-bit counter has gone round since job start (05 R182, R183). -/
  nextTicket : Nat := 0
  ticketsRound : Bool := false
  groups : List RedGroup := []
  /-- Remote writes discarded by the windows (05 R185). -/
  denied : Nat := 0
  /-- Peg writes held for their data, oldest first, and the REQ writes that the seat has applied, by source island (06 R201). -/
  pegHold : List HeldPeg := []
  reqSeen : Tbl Nat := []
  /-- Clock lent during a wait: the clock before (07 R262). -/
  lentFrom : Option Nat := none
  clockMhz : Nat := 1700
  /-- Cycles of the seat clock so far, in thousandths (MHz × ns), as they stood at a time (05 R190, 00 R19). -/
  cyc : Nat := 0
  tbCyc : Nat := 0
  /-- The 32 KiB firmware store, which the firmware broadcast fills (05 R165). -/
  store : Tbl Byte := []
  /-- Thermal steps and the power level in force (15). -/
  level : Nat := 0
  deriving DecidableEq, Repr

/-- A seat section of an image (02 R79, 05 R194): nonzero scratchpad bytes by offset, nonzero accumulator words by
tile × 1024 + index, and the control record. -/
structure SeatSection where
  scratch : List (Nat × Byte) := []
  acc : List (Nat × Nat) := []
  record : Bytes := []
  deriving DecidableEq, Repr

/-- An image that the device holds of a shell: a save image or a pre-emption image (02 R79, 11 R393). -/
structure Image where
  header : Nat := 0
  seats : List SeatSection := []
  /-- The job section (11 Table Cmd-9). -/
  job : Bytes := []
  /-- Of a save image: where it was written, the key it is sealed for, what the encapsulation to it gave, and when it was sealed (18 R600). -/
  target : Option Nat := none
  ek : Bytes := []
  ct : Bytes := []
  ss : Bytes := []
  tbSeal : Nat := 0
  /-- Contents of the logical channels, when included: nonzero bytes by offset. -/
  channels : List (List (Nat × Byte)) := []
  deriving DecidableEq, Repr

/-- A leased seat as its borrower knows it (14 R483): whether it runs or has ended, whether an action is out, the highest catch number it
has reached, its descriptor while it stands there, and its saved section. -/
structure RemoteSeat where
  mode : SeatMode := .idle
  pending : Bool := false
  reached : Nat := 0
  caught : Option Nat := none
  /-- It is inside PEG.WAIT or PEG.WAITANY after a last CATCH with PREEMPT_OK (11 R394). -/
  waits : Bool := false
  saved : Option SeatSection := none
  deriving DecidableEq, Repr

/-- Shell slot states (02 Table Shells-2). -/
inductive ShellSt where
  | free | idle | running | frozen | saved | resetting | releasing
  deriving DecidableEq, Repr

/-- The list-valued fields of a shell's rigging (02 Table Shells-3, 08 Table Tiers-10): seats by island number in
logical order, channels, Ghengo ports, LEASE records of 32 bytes, and the CXL minima and weights. -/
structure Rig where
  seats : List Nat := []
  channels : List Nat := []
  ports : List Nat := []
  leases : List Nat := []
  cxlMin : List Nat := List.replicate 8 0
  cxlWeight : List Nat := List.replicate 8 16
  deriving DecidableEq, Repr

/-- A commit that is being decided or applied (02 R53-R61): the staged scalars and lists as they stood, who wrote it,
the seat list the Cox has formed, and the scalars by key. -/
structure Commit where
  byKernel : Bool := false
  rig : Rig := {}
  scalars : Tbl Nat := []
  seatCount : Nat := 0
  rigSeq : Nat := 0
  /-- The catch number at which it applies (02 R63), and when it latched. -/
  atCatch : Option Nat := none
  tbLatch : Nat := 0
  /-- A catch point has refused it since the latch (02 Table Shells-5). -/
  catchRefused : Bool := false
  /-- REG_CAPACITY of every class when its check began (08 R292, R297). -/
  caps : List Nat := []
  deriving DecidableEq, Repr

/-- A channel migration (02 R72-R75): granules copied so far, and the one being copied. -/
structure Migration where
  lch : Nat
  src : Nat
  dst : Nat
  copied : Nat := 0
  done : Bool := false
  deriving DecidableEq, Repr

/-- Where a shell's logical seat windows go, seat by seat LOCAL or LEASED, or all of them to an image (07 R235). A seat whose window is in
HOLD is listed on its own. -/
inductive WinMap where
  | here | image (key : Nat)
  deriving DecidableEq, Repr

/-- Who writes toward a logical seat: an agent by REQ; the sprint ingress, which no window restricts; or a debug session, by MGT (05 R185, 06
Table Net-1). -/
inductive WriteKind where
  | agent | ingress | debug
  deriving DecidableEq, Repr

/-- What a packet toward a logical seat does there (06 Table Net-1). -/
inductive NetOp where
  | read (n : Nat)
  | write (data : Bytes) (kind : WriteKind)
  | atomic (op : AmoOp) (w v : Nat)
  | peg (after : Nat) (value : Bool)
  deriving DecidableEq, Repr

/-- A packet toward a logical seat that waits in a hold buffer, or upstream of one that is full (06 R201, R210, R211): shell slot, logical
seat, offset in the window, what it does, source island, and who is answered. -/
structure NetPkt where
  slot : Nat
  lseat : Nat
  off : Nat
  op : NetOp
  src : Nat
  back : NetBack := .none
  /-- The context of an inbound binding by which it came (11 R396). -/
  own : Option Nat := none
  deriving DecidableEq, Repr

/-- Phases of a shell reset (16 Table Start-6). -/
inductive ResetPhase where
  | none | waiting | draining | retraining | zeroing
  deriving DecidableEq, Repr

end Sys2Proof.Machine
end

