-- ==== Sys2Proof/Machine/HostState.lean ====
section
/-! DEFINITION. The parts of the machine's state that belong to contexts, queues, jobs, sprint slots, functions,
islands, pins, the start, the dictionary's sessions, the Wake and the flash, and to memory channels and CXL (01, 08 to
13, 16 to 19). -/
namespace Sys2Proof.Machine

/-- Completion codes of PLDM and MCTP control responses that the manual names; it gives no numbers (13 Table Dict-8, 15 R523, 18 R581). -/
inductive PldmCode where
  | success | unsupported | invalidData | notInUpdateMode
  /-- A completion code that the manual does not state (log 29). -/
  | unstated
  deriving DecidableEq, Repr

/-- What leaves the device toward the host, a management bus or a peer module, in the order it leaves. -/
inductive Sent where
  /-- A posted Memory Write to host memory without Relaxed Ordering, and one that carries it (07 R236). -/
  | hostWrite (addr : Nat) (data : Bytes)
  | hostRelaxed (addr : Nat) (data : Bytes)
  /-- A Deferrable Memory Write to host memory (10 R355). -/
  | hostDeferrable (addr : Nat) (data : Bytes)
  /-- A CompareAndSwap request to host memory, from a FENCE_ADV loop (07 R254). -/
  | hostCas (addr old new : Nat)
  /-- An AtomicOp of an agent's AMO: FetchAdd, or Swap, of `w` bytes (07 R245). -/
  | hostAtomic (addr w : Nat) (swap : Bool) (v : Nat)
  /-- A read request to host memory. -/
  | hostRead (addr len : Nat)
  /-- An ATS Translation Request of a function for a page (09 R317). -/
  | atsRequest (fn page : Nat)
  /-- The completion of an ATS Invalidation Request of a function for pages (09 R317). -/
  | atsInvalidated (fn page pages : Nat)
  /-- An MSI-X message of a function on a vector (10 R357). -/
  | msix (fn vector : Nat)
  /-- An MCTP message offered on a binding: 0 I3C, 1 PCIe VDM (13 R437). -/
  | mctp (binding eid tag : Nat) (data : Bytes)
  /-- A PLDM response (type 2 or 5) or an MCTP control response (type 0): binding, endpoint, tag, type, command, code, and its values. -/
  | pldm (binding eid tag type cmd : Nat) (code : PldmCode) (vals : List Nat)
  /-- A message of Ademen, a channel or the Boathouse, on a port that faces its receiver (14 R478). -/
  | adm (port : Nat) (head : AdmHead) (msg : AdmMsg) (response : Bool) (body : List Nat)
  /-- A control flit on a Ghengo port: its kind and fields (14 R468, R473). -/
  | ghengo (port : Nat) (kind : Nat) (data : List Nat)
  /-- A network packet on a Ghengo port (14 Table Ghengo-3): destination module, virtual channel, binding kind and identifier, sending agent,
  offset, operation (0 read, 1 write, 2 atomic, 3 peg, 4 unison add, 5 response), tag, status, and the fields of its kind. -/
  | ghPacket (port dst gv kind id agent off op tag status : Nat) (data : List Nat)
  /-- A seat action, and a report of one, on GV4: the other module, the lease, the seat's number in it (14 R483). -/
  | seatAction (lender lease j : Nat) (a : SeatAction)
  | seatReport (borrower lease j : Nat) (r : SeatReport)
  /-- A packet or message to a partner module. -/
  | module (peer : Nat) (kind : Nat) (data : List Nat)
  /-- A packet injected into the crossbar, mesh and ring toward another agent (06). -/
  | packet (dest : Nat) (kind : Nat) (data : Bytes)
  deriving DecidableEq, Repr

/-- A packet or message that waits in the link block of a port for transmit credit of its virtual channel (14 R466, R471), or for what its agent
sent before it (14 R469). -/
structure GhWait where
  port : Nat
  gv : Nat
  /-- The credit that it takes, in 64-byte units. -/
  units : Nat
  agent : Nat
  /-- The numbers of the stores of its agent that are answered before it goes. -/
  after : List Nat := []
  /-- The number of the store that it carries, where it is one. -/
  own : Option Nat := none
  tb : Nat
  out : Sent
  deriving DecidableEq, Repr

/-- An error record (17 R564, Table Safety-4). -/
structure ErrRec where
  seq : Nat := 0
  kind : Nat := 0
  mechanism : Nat := 0
  scope : Nat := 0
  exposure : Option Nat := none
  shell : Nat := 0
  fn : Nat := 0xFF
  ctx : Option Nat := none
  island : Nat := 0xFFFF
  qseq : Nat := 0
  tbDetect : Nat := 0
  detail0 : Nat := 0
  detail1 : Nat := 0
  code : Nat := 0
  /-- vzseatid of a trap, which the shell's error log keeps beside the record's fields (05 R193). -/
  seatId : Option Nat := none
  /-- The logical seats found in waits, of a hung job; the record's 64 bytes have no place for them (11 R402, log 11). -/
  waits : List Nat := []
  deriving DecidableEq, Repr

/-- A fence binding of a context (10 R350): the address bound, the global address it translated to at the
binding, PROMISED, KEPT, and W, the last value the device wrote in the host window. -/
structure FenceBind where
  va : Nat
  ga : Nat
  promised : Nat
  kept : Nat
  w : Nat
  deriving DecidableEq, Repr

/-- Context states (10 R343, Table Host-6). -/
inductive CtxState where
  | free | live | lost | destroying
  deriving DecidableEq, Repr

/-- The fields of a context descriptor (10 R342 Table Host-5, 11 R365 Table Cmd-1). -/
structure CtxDesc where
  mirrorBase : Nat := 0
  crBase : Nat := 0
  crLog2 : Nat := 0
  crVector : Nat := 0
  crInt : Bool := false
  priority : Nat := 0
  queueBase : Nat := 0
  queueLocal : Bool := false
  queueLog2 : Nat := 0
  headWb : Nat := 0
  level : Nat := 2
  deriving DecidableEq, Repr

/-- A validated launch (11 R376, R377): the launch block's fields, the accepted pins and the shell mask. -/
structure Launch where
  entry : Nat := 0
  arg : Nat := 0
  pinList : Nat := 0
  prefillSrc : Nat := 0
  prefillStride : Nat := 0
  prefillBytes : Nat := 0
  prefillOffset : Nat := 0
  pinCount : Nat := 0
  pins : List (Nat × Nat) := []
  mask : Nat := 0
  raw : Bytes := []
  deriving DecidableEq, Repr

/-- How far a command at the front end has come (11 R380). -/
inductive CmdPhase where
  /-- Fetched and checked for format; a LAUNCH still wants its launch block. -/
  | fetched
  /-- The read of a launch block is out (11 R377). -/
  | blockRead
  /-- Every check of Table Cmd-10 has passed. -/
  | validated
  deriving DecidableEq, Repr

/-- A command of a context's queue, or an entry of its running command buffer (11 R372). -/
structure QCmd where
  /-- Queue sequence number of the ring command. -/
  seq : Nat
  /-- The entry index, for an entry of a command buffer. -/
  entry : Option Nat := none
  opcode : Nat
  waitEn : Bool := false
  advEn : Bool := false
  afterPrev : Bool := false
  ignorePoison : Bool := false
  advIndex : Nat := 0
  waitAddr : Nat := 0
  waitThreshold : Nat := 0
  advValue : Nat := 0
  /-- Bits [511:256] of the slot, and whether a reserved or unused field of the slot is nonzero (11 R403). -/
  payload : Nat := 0
  reserved : Bool := false
  phase : CmdPhase := .fetched
  launch : Launch := {}
  /-- The wait has been met under 11 R381. -/
  waitMet : Bool := false
  /-- CMD_TIMEOUT_MS or TIMEOUT_MS, AFFINITY_HOLD_US and PREEMPT_QUANTUM_MS, fixed at validation (11 R402, R405). -/
  timeoutMs : Nat := 0
  holdUs : Nat := 0
  quantumMs : Nat := 0
  /-- The ring slot reserved for its record. -/
  crSlot : Nat := 0
  /-- When it became the head of the start order, when its wait was met, and when it became startable (11 R404). -/
  tbHead : Option Nat := none
  tbMet : Option Nat := none
  tbStartable : Option Nat := none
  /-- When the awaited word was read last, none while a read is due; and whether a read is out (11 R381). -/
  tbPoll : Option Nat := none
  polling : Bool := false
  deriving DecidableEq, Repr

/-- A CALL that runs (11 R379). -/
structure CallRun where
  seq : Nat
  crSlot : Nat
  advEn : Bool := false
  advIndex : Nat := 0
  advValue : Nat := 0
  bufferVa : Nat := 0
  count : Nat := 0
  /-- The next entry to read. -/
  next : Nat := 0
  /-- Entries read and not retired. -/
  openEntries : Nat := 0
  /-- (entry, status, detail) of each entry that retired other than OK. -/
  failed : List (Nat × Nat × Nat) := []
  summary : Nat := 0
  energy : Nat := 0
  tbDone : Nat := 0
  deriving DecidableEq, Repr

/-- A privileged command whose outside part has not ended (11 R375). -/
structure PrivRun where
  cmd : QCmd
  crSlot : Nat
  deriving DecidableEq, Repr

/-- A context's accounting (11 R404, Table Cmd-12). -/
structure Account where
  queueWaitNs : Nat := 0
  depWaitNs : Nat := 0
  runNs : Nat := 0
  offSeatNs : Nat := 0
  preemptions : Nat := 0
  retired : Nat := 0
  timeouts : Nat := 0
  energyMj : Nat := 0
  deriving DecidableEq, Repr

/-- States of a range-entry slot (09 R306, Table Ranges-6). -/
inductive SlotState where
  | empty | fetching | valid | draining
  deriving DecidableEq, Repr

/-- One of the 4,096 range-entry slots of a context (09 R302, R306). -/
structure RangeSlot where
  st : SlotState := .empty
  /-- The entry in force, 256 bits (Table Ranges-1); 0 with none. -/
  entry : Nat := 0
  lastInstalled : Option Nat := none
  lastRevoked : Option Nat := none
  /-- Generation of the update being fetched or drained, and whether it is an install. -/
  pendingGen : Nat := 0
  pendingInstall : Bool := false
  /-- Contents that were revoked or replaced, by which the accesses of a job that pinned one are known (09 R308). -/
  gone : List Nat := []
  deriving DecidableEq, Repr

/-- States of a context's fault conversation (09 R332, Table Ranges-15). -/
inductive FaultState where
  | clear | collecting | delivered | lost
  deriving DecidableEq, Repr

/-- One fault record of a batch (09 R330). -/
structure FaultRec where
  shell : Nat
  lseat : Nat
  ticket : Nat
  va : Nat
  cursor : Nat
  access : Nat
  reason : Nat
  /-- The sequence slot of a gather. -/
  slot : Option Nat := none
  tb : Nat
  deriving DecidableEq, Repr

/-- The fault conversation of a context (09 R330-R332). -/
structure FaultConv where
  st : FaultState := .clear
  lastBatch : Nat := 0
  tbOpen : Nat := 0
  records : List FaultRec := []
  /-- Stopped transfers not in the present batch, held for the next. -/
  held : List FaultRec := []
  /-- The batch waits for room in the fault ring. -/
  waiting : Bool := false
  /-- When the batch opened, and the window then in force; when it was delivered, and the timeout then in force (09 R333). -/
  tbWindow : Nat := 0
  windowUs : Nat := 0
  tbDelivered : Nat := 0
  timeoutMs : Nat := 0
  /-- The unresolvable fault that ends the context (09 Table Ranges-15). -/
  last : Option FaultRec := none
  deriving DecidableEq, Repr

/-- States of a weight-key slot (18 R588, Table Sec-7). -/
inductive WkeyState where
  | empty | loading | loaded
  deriving DecidableEq, Repr

/-- A weight-key slot of a context (18 R588). -/
structure WkeySlot where
  st : WkeyState := .empty
  shell : Nat := 0
  baseVa : Nat := 0
  nonce : Nat := 0
  model : Bytes := []
  key : Bytes := []
  /-- The command that loads it: blob address. -/
  blob : Nat := 0
  deriving DecidableEq, Repr

/-- A context (10 R339-R359). -/
structure Ctx where
  st : CtxState := .free
  fn : Nat := 0
  desc : CtxDesc := {}
  fences : Tbl (Option FenceBind) := []
  entries : Tbl RangeSlot := []
  fault : FaultConv := {}
  wkeys : Tbl WkeySlot := []
  resident : Bool := false
  tbLastStart : Nat := 0
  /-- Completion records reserved and written, and the driver's CR_HEAD (10 R352). -/
  crReserved : Nat := 0
  crWritten : Nat := 0
  crHead : Nat := 0
  /-- A record of the context could not be delivered: nothing further is written to its ring (10 R361). -/
  crStopped : Bool := false
  /-- Records of commands that never started, which wait for ring space: queue sequence number, status, and the advance that follows the record,
as binding and value (10 R352, R354, R358). -/
  crWaiting : List (Nat × Nat × Option (Nat × Nat)) := []
  /-- HEAD and the last accepted tail (11 R369). -/
  head : Nat := 0
  tail : Nat := 0
  /-- A slot that mismatched its QUEUE_SEQ is to be read once more (11 R371). -/
  retrying : Bool := false
  tbRetry : Nat := 0
  /-- HEAD has moved since its last write-back, and when (11 R370). -/
  headWbDue : Bool := false
  tbWb : Nat := 0
  cmds : List QCmd := []
  /-- Started ring commands and entries that have not retired: (seq, entry). -/
  started : List (Nat × Option Nat) := []
  /-- The CALL whose buffer is being read, and those whose entries have all been read and have not all retired (11 R379). -/
  call : Option CallRun := none
  callsOpen : List CallRun := []
  priv : List PrivRun := []
  /-- Last format refusal: (queue sequence number, code) (11 R368). -/
  feRefusal : Option (Nat × Nat) := none
  acct : Account := {}
  /-- When the last group record was written, for the shared message (10 R352). -/
  msgDue : Bool := false
  tbMsg : Nat := 0
  /-- The destroy was asked by CTX_CMD with this CMD_SEQ (10 R359). -/
  destroySeq : Option Nat := none
  deriving DecidableEq, Repr

/-- A Deferrable Memory Write without a completion (10 R355). -/
structure Dmwr where
  id : Nat
  ctx : Nat
  fn : Nat
  addr : Nat
  data : Bytes
  /-- None for a completion record; the fence index, and the value attempted, for an advance. -/
  fence : Option (Nat × Nat) := none
  /-- The advance is one that the context promised, so that KEPT rises with its delivery (10 R351). -/
  own : Bool := true
  retries : Nat := 0
  /-- A retry was asked and its 10 µs run. -/
  waiting : Bool := false
  /-- When it was sent last, or a retry asked. -/
  tb : Nat := 0
  deriving DecidableEq, Repr

/-- A CTX_CMD being decided (10 R340). -/
structure CtxCmdRun where
  seq : Nat
  ctx : Nat
  arg : Nat
  op : Nat
  addr : Nat
  deriving DecidableEq, Repr

/-- The host-object state of one function beside its registers (10). -/
structure FnSt where
  enabled : Bool := false
  lastCmdSeq : Option Nat := none
  cmd : Option CtxCmdRun := none
  /-- CTX_RESULT of the last decided command, kept for a repeat (10 R341). -/
  lastResult : Nat := 0
  /-- A function-level reset is in progress (10 R337). -/
  flr : Bool := false
  /-- ATS Enable of the function (09 R317), and its AtomicOp Requester Enable (07 R245). -/
  ats : Bool := false
  atomics : Bool := false
  /-- RT_UPDATE writes that wait, oldest first: (operation, context, index, generation) (09 R311). -/
  updates : List (Nat × Nat × Nat × Nat) := []
  /-- Translation response records that wait for ring room, and records written (09 R312). -/
  respWaiting : List Bytes := []
  respWritten : Nat := 0
  /-- Records the driver has consumed, in all. -/
  respRead : Nat := 0
  /-- Fault batches written and consumed, and those that wait for ring room (09 R330): context, number, lost, TB_OPEN, records. -/
  fltWritten : Nat := 0
  fltRead : Nat := 0
  fltWaiting : List (Nat × Nat × Bool × Nat × List FaultRec) := []
  /-- Error log of the function, newest last (17 R566). -/
  errLog : List ErrRec := []
  deriving DecidableEq, Repr

/-- How far a job on a shell has come (11 R384-R398). -/
inductive JobPhase where
  /-- Chosen; seats wait for scrub or prefill. -/
  | loading
  | running
  /-- Every seat has ended; the release hold of 17 R552 runs. -/
  | holding
  /-- A pre-emption save, a pre-empted image, a restore (11 R395, R398). -/
  | saving | preempted | restoring
  deriving DecidableEq, Repr

/-- A job (11 R384). -/
structure Job where
  ctx : Nat
  fn : Nat
  seq : Nat
  entryIdx : Option Nat := none
  crSlot : Nat := 0
  priority : Nat := 0
  advEn : Bool := false
  advIndex : Nat := 0
  advValue : Nat := 0
  launch : Launch := {}
  timeoutMs : Nat := 0
  holdUs : Nat := 0
  quantumMs : Nat := 0
  phase : JobPhase := .loading
  tbStart : Nat := 0
  /-- Time on seats and off them so far, and when the present span began. -/
  runNs : Nat := 0
  offNs : Nat := 0
  tbSpan : Nat := 0
  /-- Logical seats whose prefill has ended, and seats that have executed SEAT.END. -/
  prefilled : List Nat := []
  ended : List Nat := []
  abandon : Bool := false
  /-- The status and detail of the first stop that met it (16 R542). -/
  stop : Option (Nat × Nat) := none
  tbEnd : Nat := 0
  energyUj : Nat := 0
  summary : Nat := 0
  /-- Image slot and seat count of a pre-empted job. -/
  imageSlot : Nat := 0
  imageSeats : Nat := 0
  /-- When it became startable or restorable. -/
  tbReady : Nat := 0
  /-- Off-seat time that counts toward its timeout so far, and since when the shell's SEAT_COUNT has kept it from being restored (11 R399). -/
  heldNs : Nat := 0
  tbHeld : Option Nat := none
  deriving DecidableEq, Repr

/-- States of a sprint slot (12 R411, Table Sprint-4). -/
inductive SprintState where
  | unbound | bound | aborting
  deriving DecidableEq, Repr

/-- An answer read by the egress and held under RELEASE_GATE (17 R553). -/
structure HeldAnswer where
  seq : Nat
  body : Bytes
  /-- The record it answers and the claim, as they stood at the read (18 R596). -/
  recBytes : Bytes := []
  claim : Bytes := []
  suspect : Bool
  tb : Nat
  deriving DecidableEq, Repr

/-- A sprint slot (12 R406-R420). -/
structure Sprint where
  st : SprintState := .unbound
  ctx : Nat := 0
  fn : Nat := 0
  ringBase : Nat := 0
  ringLog2 : Nat := 0
  resultBytes : Nat := 0
  shell : Nat := 0
  lseat : Nat := 0
  areaOffset : Nat := 0
  depth : Nat := 0
  recordBytes : Nat := 0
  arrivalPeg : Nat := 0
  egressPeg : Nat := 0
  resultOffset : Nat := 0
  wake : Bool := false
  /-- The staging record, 512 bytes (12 R408). -/
  staging : Tbl Byte := []
  recordSeq : Nat := 0
  delivered : Nat := 0
  /-- The results sent since the bind (12 R411). -/
  results : Nat := 0
  /-- RECORD_SEQ of each outstanding record, oldest first. -/
  outstanding : List Nat := []
  /-- The egress reads the result area of a trigger (12 R414). -/
  reading : Bool := false
  held : List HeldAnswer := []
  /-- The SPRINT_UNBIND whose result word waits for the abort: (context, queue sequence number, result address). -/
  unbindCmd : Option QCmd := none
  deriving DecidableEq, Repr


/-- State of a bridge toward an island (01 R37). -/
inductive BridgeState where
  | opened | draining | closed
  deriving DecidableEq, Repr

/-- How an island stands (01 R36, 16 Table Start-9): with its clock and supply on, its clock stopped, its supply gated, in reset, or retired. -/
inductive IslandState where
  | running | stopped | gated | inReset | retired
  deriving DecidableEq, Repr

/-- A clock island (01 R32). -/
structure Island where
  st : IslandState := .running
  bridge : BridgeState := .opened
  /-- Health polls that timed out in a row (16 R543). -/
  timeouts : Nat := 0
  tbAnswer : Nat := 0
  tbReset : Option Nat := none
  lastError : Nat := 0
  /-- Packets discarded at the closed bridge (01 R38). -/
  discards : Nat := 0
  /-- Force-closed by an island recovery. -/
  forced : Bool := false
  /-- When its bridge began to close. -/
  tbDrain : Nat := 0
  deriving DecidableEq, Repr

/-- The pins and supplies (19 R606, R611-R621). True for an input means its signal is at its asserted level. -/
structure Pins where
  /-- 54 V is at input-good. -/
  inputGood : Bool := false
  railsDischarging : Bool := false
  modPwrgood : Bool := false
  perst : Bool := true
  /-- The next release of PERST# begins a warm start of cause 1. -/
  perstWarm : Bool := false
  alertOut : Bool := false
  slotId : Nat := 0
  i3cStatic : Nat := 0
  i3cDynamic : Option Nat := none
  hostPortUp : Bool := false
  /-- CXL_PRSNT#[p] low, CXL_PERST#[p] driven low, CXL_REFCLK[p] running: one bit per port. -/
  cxlPrsnt : Nat := 0
  cxlPerst : Nat := 0xFF
  cxlRefclk : Nat := 0
  deriving DecidableEq, Repr

/-- A dump that runs or is retained (16 R545-R549). -/
structure Dump where
  seq : Nat := 0
  trigger : Nat := 0
  stage : Nat := 0
  island : Nat := 0xFFFF
  tbTrigger : Nat := 0
  tbEnd : Nat := 0
  debugMask : Nat := 0
  /-- Shells whose seats have sections. -/
  shellMask : Nat := 0
  unreachable : List Nat := []
  /-- The island of the last access that timed out. -/
  lastFailed : Option Nat := none
  /-- Accesses that timed out, by island. -/
  accessTimeouts : Tbl Nat := []
  /-- The dump's bytes after its header, formed when it ends. -/
  body : Bytes := []
  deriving DecidableEq, Repr

/-- The Wake chain of a shell slot (18 R593). -/
structure WakeChain where
  head : Bytes := []
  lastIndex : Nat := 0
  deriving DecidableEq, Repr

/-- The retained region of MD SRAM, which only the loss of 54 V clears (16 R527). -/
structure Retained where
  chains : Tbl WakeChain := []
  /-- Ghengo ports with retained equalisation coefficients. -/
  ghTrained : List Nat := []
  dump : Option Dump := none
  dumpSeq : Nat := 0
  /-- A successful identity reconstruction has left its digest. -/
  identityDigest : Bool := false
  deriving DecidableEq, Repr

/-- The start (16 R526-R536) beside its parameters. -/
structure StartSt where
  /-- Reset entry runs (16 R528). -/
  entry : Bool := false
  /-- The entry's start runs cold steps. -/
  cold : Bool := false
  /-- The start was cut off and waits for its release (16 R536). -/
  halted : Bool := false
  /-- Minimal safe function has been reached (16 R530). -/
  msf : Bool := false
  /-- The islands run (end of stage 1). -/
  islandsUp : Bool := false
  /-- The identity record in use is the second copy (18 R570). -/
  idB : Bool := false
  /-- A stage 0 identity or signature failure holds the device (16 R532). -/
  sigFault : Bool := false
  /-- The device holds at START_STAGE 6 (16 R543). -/
  hold : Bool := false
  tbStage : Nat := 0
  /-- For how long the limit timer of the stage has been paused (16 R529). -/
  pausedNs : Nat := 0
  /-- The last health poll (16 R543). -/
  tbPoll : Nat := 0
  /-- Cox halted and releases stopped by a lockstep mismatch (17 R560). -/
  releasesStopped : Bool := false
  /-- The channel of the context store, once it has left the pool (10 R345). -/
  storeChannel : Option Nat := none
  /-- Seats not failing their self-test so far are taken as passed at the end of stage 4; the failed ones. -/
  failedSeats : List Nat := []
  /-- The firmware slot that runs: false A, true B (18 R579). -/
  fwB : Bool := false
  /-- Wrong firmware digests reported, by seat (16 R533). -/
  digestTries : Tbl Nat := []
  /-- The dump in progress. -/
  dumping : Option Dump := none
  deriving DecidableEq, Repr


/-- Who sends a dictionary request: an MCTP endpoint on a binding, or a function's mailbox (13 R441). -/
inductive PapSrc where
  | endpoint (binding eid : Nat)
  | mailbox (fn : Nat)
  deriving DecidableEq, Repr

/-- A protocol message: the header of Table Dict-9 as a number of 192 bits, and the payload (13 R438, R439). -/
structure PapMsg where
  header : Nat
  payload : Bytes
  deriving DecidableEq, Repr

/-- States of a session (13 R445, Table Dict-13). -/
inductive SessState where
  | closed | challenged | opened | writing | reading
  deriving DecidableEq, Repr

/-- A dictionary session (13 R443-R450). -/
structure Session where
  st : SessState := .closed
  src : PapSrc := .mailbox 0
  who : Principal := .kernel
  mask : Nat := 0
  challenge : Bytes := []
  tbOpen : Nat := 0
  /-- When its last request came, and the idle and segment times then in force (13 R445, R460). -/
  tbLast : Nat := 0
  idleS : Nat := 0
  segMs : Nat := 0
  /-- Last decided request and its response (13 R446). -/
  last : Option (PapMsg × PapMsg) := none
  /-- A segmented write: index, sub-index, total and staged bytes. -/
  wKey : Nat := 0
  wTotal : Nat := 0
  wBytes : Bytes := []
  /-- A read snapshot. -/
  rKey : Nat := 0
  snap : Bytes := []
  /-- The session's evidence, and whether its signature runs (18 R584). -/
  evidence : Bytes := []
  signing : Bool := false
  evNonce : Bytes := []
  evMask : Nat := 0
  evResult : Nat := 0
  deriving DecidableEq, Repr

/-- The BAR4 mailbox of a function (13 R451, R452). -/
structure Mbx where
  busy : Bool := false
  done : Bool := false
  /-- LENGTH of the request that the mailbox holds. -/
  reqLen : Nat := 0
  rspLen : Nat := 0
  accepted : Nat := 0
  ctl : Nat := 0
  req : Tbl Byte := []
  rsp : Bytes := []
  deriving DecidableEq, Repr

/-- Message assembly of an MCTP sender (13 R437). -/
structure Assembly where
  busy : Bool := false
  tag : Nat := 0
  nextSeq : Nat := 0
  data : Bytes := []
  /-- When its first packet came. -/
  tb : Nat := 0
  deriving DecidableEq, Repr

/-- An MCTP endpoint the device answers (13 R444). -/
structure Endpoint where
  /-- Times of its failed AUTH requests, newest first. -/
  fails : List Nat := []
  /-- Locked out until a time (13 R444). -/
  lockedUntil : Option Nat := none
  /-- The last decided request of SESSION 0, which is an OPEN, and its response (13 R446). -/
  last : Option (PapMsg × PapMsg) := none
  asm : Assembly := {}
  deriving DecidableEq, Repr


/-- A record of a Wake chain before its fold (18 R593, R595): its kind, time base and sequence number, by which records
are ordered, and its 2,048 bits with RECORD_INDEX zero. -/
structure WakeRec where
  kind : Nat
  tb : Nat
  seq : Nat := 0
  word : Nat := 0
  deriving DecidableEq, Repr

/-- The Wake engine of a shell slot (18 R593-R599), beside its chain in the retained region. -/
structure WakeSt where
  pending : List WakeRec := []
  /-- A seal is being signed, over the chain and the count of unexported records as they stood at its trigger. -/
  sealing : Bool := false
  sealAt : WakeChain := {}
  sealCount : Nat := 0
  /-- WAKE_UNEXPORTED as the previous seal found it. -/
  seenCount : Nat := 0
  sealPrev : Nat := 0
  tbSeal : Nat := 0
  deriving DecidableEq, Repr

/-- A credential slot (18 R582). -/
structure Cred where
  used : Bool := false
  who : Nat := 0
  seq : Nat := 0
  key : Bytes := []
  deriving DecidableEq, Repr

/-- An alert's course (15 R514, R515): none, a source asserted, the hold after the last one, the rise. -/
inductive AlertPhase where
  | none | asserted | holding | rising
  deriving DecidableEq, Repr

/-- Power state beside its parameters (15). -/
structure PowerSt where
  phase : AlertPhase := .none
  /-- The level that each shell keeps as its target while an alert lasts, by slot (15 R515). -/
  targets : Tbl Nat := []
  /-- Thermal steps in force, by die in the order of Table Power-6 (15 R516). -/
  steps : Tbl Nat := []
  /-- When each die last took or released a thermal step (15 R516). -/
  tbSteps : Tbl Nat := []
  /-- Meters at 1 µJ: the module's, the platform's (15 R519). -/
  moduleUj : Nat := 0
  platformUj : Nat := 0
  /-- When the budget's lease was started last, when the first alert source was asserted, and when the hold, the
  rise or its last step began (15 R515). -/
  tbGrant : Nat := 0
  tbAlert : Nat := 0
  tbHold : Nat := 0
  deriving DecidableEq, Repr

/-- A firmware update in progress (18 R581, Table Sec-3). Its state is FW_STATE. -/
structure FwUpdate where
  size : Nat := 0
  /-- Bytes written so far; their number is the expected offset. -/
  image : Bytes := []
  tbLast : Nat := 0
  deriving DecidableEq, Repr

/-- A firmware slot of the flash (18 R578). -/
structure FwSlot where
  valid : Bool := false
  svn : Nat := 0
  image : Bytes := []
  deriving DecidableEq, Repr

/-- The flash beside its parameters (13 R431, 08 R277, 16 R545, 18 R569-R599). -/
structure Flash where
  identity : Bytes := []
  /-- The second copy of the identity record (18 R569). -/
  identity2 : Bytes := []
  /-- The write sequence number of the counter block (18 R571). Its two counters are parameters. -/
  counterSeq : Nat := 0
  fwA : FwSlot := { valid := true }
  fwB : FwSlot := {}
  /-- The slot preferred for the next start (false A, true B). -/
  preferB : Bool := false
  creds : Tbl Cred := []
  credSeq : Option Nat := none
  /-- The stored seal of each slot's chain: head, last index, time base, bytes. -/
  seals : Tbl (WakeChain × Nat × Bytes) := []
  /-- Channels retired, channels with a training record (08 R277, R279). -/
  retired : List Nat := []
  trained : Tbl Bytes := []
  trained2 : Tbl Bytes := []
  /-- Times of the flash writes of the last hour, newest first (13 R433). -/
  writes : List Nat := []
  deriving DecidableEq, Repr


/-- A shell slot (02 R49, 11 R384-R400, 16 R539, 17 R561). Its scalar parameters are in the dictionary's tables. -/
structure Shell where
  st : ShellSt := .free
  rig : Rig := {}
  staging : Rig := {}
  commit : Option Commit := none
  migs : List Migration := []
  lastRigSeq : Option Nat := none
  /-- The rigging log: time and code (02 R64, R65). -/
  rigLog : List (Nat × Nat) := []
  compStart : Nat := 0
  /-- A freeze is latched, and the catch number at which it applies (02 R77). -/
  freezeLatch : Bool := false
  freezeAt : Option Nat := none
  /-- The time base at the freeze (02 Table Shells-10). -/
  tbFreeze : Nat := 0
  /-- A pre-emption is latched at a catch number (11 R391). -/
  preemptAt : Option Nat := none
  /-- PREEMPT_CTL holds the shell (11 Table Cmd-8). -/
  preemptHold : Bool := false
  windows : WinMap := .here
  /-- Logical seats whose windows are in HOLD, and the packets held for them, oldest first (02 R69, 06 R211, 07 R235). -/
  holds : List Nat := []
  held : List NetPkt := []
  /-- The seal of the image that the shell is bound to opens (18 R600). -/
  sealOk : Bool := true
  /-- A save or a restore of the freeze conversation runs; the header read of a load is out. -/
  saving : Bool := false
  restoring : Bool := false
  loading : Bool := false
  /-- A seat change is being copied (02 R67). -/
  applying : Bool := false
  /-- Seats of the shell that are being scrubbed before its next job. -/
  scrubbing : List Nat := []
  /-- Seats and channels that a commit took from the shell and that are still being scrubbed: they count until then (02 R85). -/
  leavingSeats : List Nat := []
  leavingChans : List Nat := []
  job : Option Job := none
  preempted : List Job := []
  lastCtx : Option Nat := none
  /-- The last job was stopped outside a catch point, so its seats want a scrub (11 R401). -/
  dirty : Bool := false
  latch : Bool := false
  /-- When the last record with status OK left (17 R563). -/
  tbLastOk : Option Nat := none
  errLog : List ErrRec := []
  resetPhase : ResetPhase := .none
  debugOpen : Bool := false
  /-- Leases (as LEASE records) whose seats have joined the logical seats (14 R482). -/
  joined : List Nat := []
  /-- Leases of the LEASE_LIST that were lost (14 R484). -/
  lostLeases : List Nat := []
  /-- Logical channels before the latest accepted commit applied: those from here on are the ones it added (09 Table Ranges-3). -/
  oldChans : Nat := 0
  /-- Leased seats, by (lender and LEASE_ID) × 4,096 + their number in the lease (14 R483). -/
  remote : Tbl RemoteSeat := []
  /-- The shell's energy at 1 µJ (15 R519, R520). -/
  energyUj : Nat := 0
  /-- The time base at which the slot last left FREE (18 R585). -/
  epoch : Nat := 0
  /-- Time of the last regulation interrupt for a miss (08 R299). -/
  tbMiss : Option Nat := none
  deriving DecidableEq, Repr

/-- Channel states of 08 Table Tiers-4, encoded as CHANNEL_STATE reads. -/
inductive ChanSt where
  | untrained | trained | failed | retired | retirePending
  deriving DecidableEq, Repr

/-- A GDDR7 channel (08 R264-R281). Its data is in the memory. -/
structure Chan where
  st : ChanSt := .untrained
  /-- Blocks, by offset / 64, whose check word has POISON set (08 R267), and blocks with an uncorrectable error that no check word
  marks (08 R268). -/
  poison : List Nat := []
  bad : List Nat := []
  /-- Lines of the check-line cache, each of 2 KiB of data (08 R271). -/
  lines : List Nat := []
  /-- The patterns in the training and verification area, by the number of the free value that they are (08 R266, R278). -/
  pattern : Option Nat := none
  /-- When the corrected errors of the last 24 h were counted (08 Table Tiers-4). -/
  corrected24 : List Nat := []
  tbTrack : Nat := 0
  deriving DecidableEq, Repr

/-- A CXL device behind a port: its index, CXL type and capacity in units of 256 MiB (08 R282). -/
structure CxlDev where
  index : Nat
  type : Nat
  units : Nat
  deriving DecidableEq, Repr

/-- A CXL port (08 R282, R288, R298). -/
structure CxlPort where
  enumerated : Bool := false
  up : Bool := false
  /-- Link rate, 64 or 32 GT/s, and width. -/
  rate : Nat := 0
  width : Nat := 0
  switch : Bool := false
  devs : List CxlDev := []
  /-- A rescan is under way. -/
  scanning : Bool := false
  /-- Derated by device overload to a capacity in 0.1 GB/s (08 R298). -/
  overload : Option Nat := none
  /-- Responses and Severe Overload responses of the present 10 ms window, by device. -/
  responses : Tbl Nat := []
  severe : Tbl Nat := []
  deriving DecidableEq, Repr

/-- A CXL commit that runs (08 R285): checking, then ranges whose decoders are still to be committed, then ranges being scrubbed. -/
structure CxlRun where
  checking : Bool := true
  staged : List Nat := []
  changed : List Nat := []
  todo : List Nat := []
  scrub : List Nat := []
  deriving DecidableEq, Repr

end Sys2Proof.Machine
end

