-- ==== Sys2Proof/Machine/Params.lean ====
section
/-! DEFINITION. The parameter dictionary's rows (13_parameter_dictionary.md R424-R434 and the parameter tables of
every chapter): type, length, rights, class, persistence, scope, default and range of each parameter, the names of
the parameters, and what a parameter that nothing has written reads as. -/
namespace Sys2Proof.Machine

/-- Parameter types (13 R425). -/
inductive PType where
  | bool | u8 | u16 | u32 | u64 | i16 | octets | vstring | record | array
  deriving DecidableEq, Repr

/-- Parameter classes (13 R430). -/
inductive PClass where
  | fixed | shadowed | live
  deriving DecidableEq, Repr

/-- Where a parameter's value is kept (13 R431). -/
inductive PPersist where
  | volatile | flash | identity
  deriving DecidableEq, Repr

/-- What a parameter belongs to (13 R428). -/
inductive PScope where
  | device | slot | func
  deriving DecidableEq, Repr

/-- A row of a parameter table: `count` indexes from `base`, sub-indexes `lo` to `hi`, the length bounds and the
multiple a length keeps, the rights byte, and the ranges of a scalar's value. -/
structure ParamRow where
  base : Nat
  count : Nat
  lo : Nat
  hi : Nat
  type : PType
  minLen : Nat
  maxLen : Nat
  multiple : Nat
  rights : Nat
  cls : PClass
  persist : PPersist
  scope : PScope
  default : Nat
  ranges : List (Nat × Nat)
  deriving DecidableEq, Repr

/-- A parameter's key: index and sub-index (13 R424). -/
def pkey (idx sub : Nat) : Nat := idx * 256 + sub

/-- Rows of the parameter tables, part 0, in index order but for 0x1410 and 0x1411. -/
def paramRows0 : List ParamRow := [
  .mk 0x1000 1 0x00 0x00 .vstring 0 255 1 0x55 .fixed .volatile .device 0 [] /- DEVICE_NAME -/,
  .mk 0x1001 1 0x00 0x00 .u16 2 2 2 0x55 .fixed .volatile .device 2 [(0, 65535)] /- DICT_LAYOUT -/,
  .mk 0x1002 1 0x00 0x00 .u8 1 1 1 0x55 .fixed .identity .device 3 [(0, 255)] /- VARIANT_COUNT -/,
  .mk 0x1002 1 0x01 0x01 .vstring 0 255 1 0x55 .fixed .identity .device 0 [] /- PART_CODE -/,
  .mk 0x1002 1 0x02 0x02 .u16 2 2 2 0x55 .fixed .identity .device 1700 [(0, 65535)] /- SEAT_CLOCK_LIMIT_MHZ -/,
  .mk 0x1002 1 0x03 0x03 .u16 2 2 2 0x55 .fixed .identity .device 5000 [(0, 65535)] /- POWER_LIMIT_W -/,
  .mk 0x1003 1 0x00 0x00 .octets 0 22368 1 0x55 .fixed .identity .device 0 [] /- IDENTITY_RECORD -/,
  .mk 0x1004 1 0x00 0x00 .u8 1 1 1 0x55 .fixed .volatile .device 3 [(0, 255)] /- ENTRY_COUNT -/,
  .mk 0x1004 1 0x01 0x01 .u64 8 8 8 0x55 .live .flash .device 0 [(0, 18446744073709551615)] /- BOOT_COUNTER -/,
  .mk 0x1004 1 0x02 0x02 .u32 4 4 4 0x55 .live .flash .device 0 [(0, 4294967295)] /- ROLLBACK_FLOOR -/,
  .mk 0x1004 1 0x03 0x03 .u32 4 4 4 0x55 .live .flash .device 0 [(0, 4294967295)] /- RUNNING_SVN -/,
  .mk 0x1005 1 0x00 0x00 .octets 1568 1568 1 0x55 .fixed .volatile .device 0 [] /- KR_EK -/,
  .mk 0x1008 1 0x00 0x00 .u8 1 1 1 0x55 .fixed .volatile .device 2 [(0, 255)] /- ENTRY_COUNT -/,
  .mk 0x1008 1 0x01 0x01 .u8 1 1 1 0x55 .fixed .volatile .device 4 [(0, 255)] /- LEVELS_SUPPORTED -/,
  .mk 0x1008 1 0x02 0x02 .u8 1 1 1 0x34 .fixed .volatile .device 2 [(0, 255)] /- LEVEL_OWN -/,
  .mk 0x1009 1 0x00 0x00 .u8 1 1 1 0x55 .fixed .volatile .func 32 [(0, 255)] /- ENTRY_COUNT -/,
  .mk 0x1009 1 0x01 0x20 .u8 1 1 1 0xF5 .fixed .volatile .func 0 [(0, 255)] /- LEVEL -/,
  .mk 0x1010 1 0x00 0x00 .u8 1 1 1 0x55 .fixed .volatile .device 4 [(0, 255)] /- ENTRY_COUNT -/,
  .mk 0x1010 1 0x01 0x01 .u16 2 2 2 0xD1 .live .flash .device 30 [(5, 3600)] /- SESSION_IDLE_S -/,
  .mk 0x1010 1 0x02 0x02 .u16 2 2 2 0xD1 .live .flash .device 2000 [(100, 60000)] /- SEGMENT_TIMEOUT_MS -/,
  .mk 0x1010 1 0x03 0x03 .u16 2 2 2 0xD1 .live .flash .device 60 [(10, 3600)] /- AUTH_LOCKOUT_S -/,
  .mk 0x1010 1 0x04 0x04 .u8 1 1 1 0x51 .live .volatile .device 0 [(0, 255)] /- SESSIONS_OPEN -/,
  .mk 0x1011 1 0x00 0x00 .octets 17952 17952 1 0xA0 .live .flash .device 0 [] /- CRED_INSTALL -/,
  .mk 0x1012 1 0x00 0x00 .array 0 128 8 0x41 .live .flash .device 0 [] /- CRED_TABLE -/,
  .mk 0x1013 1 0x00 0x00 .u16 2 2 2 0x51 .live .volatile .device 0 [(0, 65535)] /- CRED_RESULT -/,
  .mk 0x1410 1 0x00 0x00 .u8 1 1 1 0xD1 .shadowed .flash .device 255 [(0, 95), (255, 255)] /- CONTEXT_STORE_CHANNEL -/,
  .mk 0x1411 1 0x00 0x00 .u32 4 4 4 0x55 .live .volatile .device 64 [(0, 4294967295)] /- CONTEXTS_MAX -/,
  .mk 0x1400 32 0x00 0x00 .u8 1 1 1 0x55 .fixed .flash .func 5 [(0, 255)] /- ENTRY_COUNT -/,
  .mk 0x1400 32 0x01 0x01 .u32 4 4 4 0xD1 .live .flash .func 0 [(0, 4294967295)] /- CTX_QUOTA -/,
  .mk 0x1400 32 0x02 0x02 .u8 1 1 1 0xD1 .live .flash .func 0 [(0, 255)] /- RESIDENT_MIN -/,
  .mk 0x1400 32 0x03 0x03 .u16 2 2 2 0xD1 .live .flash .func 0 [(0, 65535)] /- SEQ_SLOT_QUOTA -/,
  .mk 0x1400 32 0x04 0x04 .u16 2 2 2 0xD1 .live .flash .func 0 [(0, 65535)] /- SPRINT_SLOT_QUOTA -/,
  .mk 0x1400 32 0x05 0x05 .u32 4 4 4 0x51 .live .volatile .func 0 [(0, 4294967295)] /- CTX_LIVE -/]

/-- Rows of the parameter tables, part 1, in index order. The spec states no largest length for S1_TABLE: the row allows 32 records, one for each
slot (DESIGN CHOICE, log 77). -/
def paramRows1 : List ParamRow := [
  .mk 0x2000 1 0x00 0x00 .u8 1 1 1 0x55 .fixed .volatile .device 8 [(0, 255)] /- ENTRY_COUNT -/,
  .mk 0x2000 1 0x01 0x08 .u16 2 2 2 0x55 .fixed .volatile .device 0 [(0, 65535)] /- PL_CLOCK_MHZ -/,
  .mk 0x2001 1 0x00 0x00 .u8 1 1 1 0x55 .fixed .volatile .device 8 [(0, 255)] /- ENTRY_COUNT -/,
  .mk 0x2001 1 0x01 0x08 .u16 2 2 2 0x55 .fixed .volatile .device 0 [(0, 65535)] /- PL_SEAT_MW -/,
  .mk 0x2010 1 0x00 0x00 .record 16 16 16 0xC1 .live .volatile .device 0 [] /- BUDGET_GRANT -/,
  .mk 0x2011 1 0x00 0x00 .u8 1 1 1 0x41 .live .volatile .device 0 [(0, 255)] /- BUDGET_STATE -/,
  .mk 0x2012 1 0x00 0x00 .u16 2 2 2 0x41 .live .volatile .device 0 [(0, 65535)] /- BUDGET_RESULT -/,
  .mk 0x2013 1 0x00 0x00 .u16 2 2 2 0x41 .live .volatile .device 2500 [(0, 65535)] /- BUDGET_EFFECTIVE_W -/,
  .mk 0x2014 1 0x00 0x00 .u16 2 2 2 0xC1 .live .flash .device 2500 [(0, 65535)] /- FALLBACK_BUDGET_W -/,
  .mk 0x2015 1 0x00 0x00 .u16 2 2 2 0x41 .live .volatile .device 400 [(0, 65535)] /- PLATFORM_RESERVE_W -/,
  .mk 0x2016 1 0x00 0x00 .u16 2 2 2 0xD1 .live .flash .device 1700 [(0, 65535)] /- DEVICE_CLOCK_CAP_MHZ -/,
  .mk 0x2017 1 0x00 0x00 .u8 1 1 1 0x41 .live .volatile .device 0 [(0, 255)] /- ALERT_STATUS -/,
  .mk 0x2018 1 0x00 0x00 .u16 2 2 2 0xC1 .live .flash .device 10 [(0, 65535)] /- ALERT_HOLD_MS -/,
  .mk 0x2019 1 0x00 0x00 .u8 1 1 1 0xC1 .live .flash .device 95 [(0, 255)] /- THERMAL_THROTTLE_C -/,
  .mk 0x2100 32 0x00 0x00 .u8 1 1 1 0x55 .fixed .volatile .slot 7 [(0, 255)] /- ENTRY_COUNT -/,
  .mk 0x2100 32 0x01 0x01 .u16 2 2 2 0xC1 .shadowed .volatile .slot 0 [(0, 65535)] /- POWER_MIN_W -/,
  .mk 0x2100 32 0x02 0x02 .u8 1 1 1 0xC1 .shadowed .volatile .slot 16 [(0, 255)] /- POWER_WEIGHT -/,
  .mk 0x2100 32 0x03 0x03 .u8 1 1 1 0xC1 .live .volatile .slot 0 [(0, 255)] /- PL_CAP -/,
  .mk 0x2100 32 0x04 0x04 .u16 2 2 2 0x41 .live .volatile .slot 0 [(0, 65535)] /- ALLOC_W -/,
  .mk 0x2100 32 0x05 0x05 .u8 1 1 1 0x41 .live .volatile .slot 0 [(0, 255)] /- POWER_LEVEL -/,
  .mk 0x2100 32 0x06 0x06 .u64 8 8 8 0x41 .live .volatile .slot 0 [(0, 18446744073709551615)] /- SHELL_ENERGY_MJ -/,
  .mk 0x2100 32 0x07 0x07 .bool 1 1 1 0x41 .live .volatile .slot 0 [(0, 1)] /- POWER_SCALED -/,
  .mk 0x3000 1 0x00 0x00 .u8 1 1 1 0x55 .live .volatile .device 2 [(0, 255)] /- COMPOSITION_MODE -/,
  .mk 0x3001 1 0x00 0x00 .u8 1 1 1 0xD5 .shadowed .flash .device 2 [(1, 2)] /- COMPOSITION_MODE_NEXT -/,
  .mk 0x3002 1 0x00 0x00 .array 0 3840 120 0xD5 .shadowed .flash .device 0 [] /- S1_TABLE -/,
  .mk 0x3003 1 0x00 0x00 .u16 2 2 2 0x55 .live .volatile .device 0 [(0, 65535)] /- S1_TABLE_RESULT -/,
  .mk 0x3004 1 0x00 0x00 .u32 4 4 4 0xD5 .live .flash .device 50 [(1, 60000)] /- DEFAULT_CATCH_DEADLINE_MS -/,
  .mk 0x3005 1 0x00 0x00 .u16 2 2 2 0x55 .live .volatile .device 0 [(0, 65535)] /- FREE_SEATS -/,
  .mk 0x3006 1 0x00 0x00 .u8 1 1 1 0x55 .live .volatile .device 0 [(0, 255)] /- FREE_CHANNELS -/,
  .mk 0x3007 1 0x00 0x00 .u8 1 1 1 0x55 .live .volatile .device 0 [(0, 255)] /- SHELLS_LIVE -/,
  .mk 0x3100 32 0x00 0x00 .u8 1 1 1 0x55 .fixed .volatile .slot 24 [(0, 255)] /- ENTRY_COUNT -/]

/-- Rows of the parameter tables, part 2, in index order. -/
def paramRows2 : List ParamRow := [
  .mk 0x3100 32 0x01 0x01 .u8 1 1 1 0x55 .live .volatile .slot 0 [(0, 255)] /- SHELL_STATE -/,
  .mk 0x3100 32 0x02 0x02 .u8 1 1 1 0xD5 .shadowed .volatile .slot 255 [(0, 31), (255, 255)] /- OWNER_FUNCTION -/,
  .mk 0x3100 32 0x03 0x03 .u16 2 2 2 0xD5 .shadowed .volatile .slot 0 [(0, 65535)] /- SEAT_QUOTA -/,
  .mk 0x3100 32 0x04 0x04 .u16 2 2 2 0xF5 .shadowed .volatile .slot 0 [(0, 65535)] /- SEAT_COUNT -/,
  .mk 0x3100 32 0x05 0x05 .u8 1 1 1 0xD5 .shadowed .volatile .slot 1 [(0, 1)] /- SEAT_PLACEMENT -/,
  .mk 0x3100 32 0x06 0x06 .array 0 4608 2 0xD5 .shadowed .volatile .slot 0 [] /- SEAT_LIST -/,
  .mk 0x3100 32 0x07 0x07 .array 0 96 1 0xD5 .shadowed .volatile .slot 0 [] /- CHANNEL_LIST -/,
  .mk 0x3100 32 0x08 0x08 .array 0 16 1 0xD5 .shadowed .volatile .slot 0 [] /- GHENGO_PORT_LIST -/,
  .mk 0x3100 32 0x09 0x09 .u8 1 1 1 0xD5 .shadowed .volatile .slot 0 [(0, 255)] /- CXL_PORT_MASK -/,
  .mk 0x3100 32 0x0A 0x0A .array 0 2048 32 0xD5 .shadowed .volatile .slot 0 [] /- LEASE_LIST -/,
  .mk 0x3100 32 0x0B 0x0B .u32 4 4 4 0xF5 .shadowed .volatile .slot 0 [(0, 4294967295)] /- RIG_SEQ -/,
  .mk 0x3100 32 0x0C 0x0C .u8 1 1 1 0xA0 .live .volatile .slot 0 [(1, 2)] /- RIG_COMMIT -/,
  .mk 0x3100 32 0x0D 0x0D .u16 2 2 2 0x55 .live .volatile .slot 0 [(0, 65535)] /- RIG_RESULT -/,
  .mk 0x3100 32 0x0E 0x0E .u8 1 1 1 0x55 .live .volatile .slot 0 [(0, 255)] /- RIG_STATUS -/,
  .mk 0x3100 32 0x0F 0x0F .u32 4 4 4 0xF5 .live .volatile .slot 0 [(1, 60000)] /- CATCH_DEADLINE_MS -/,
  .mk 0x3100 32 0x10 0x10 .u8 1 1 1 0xD0 .live .volatile .slot 0 [(1, 4)] /- FREEZE_CTL -/,
  .mk 0x3100 32 0x11 0x11 .u64 8 8 8 0xD0 .shadowed .volatile .slot 0 [(0, 18446744073709551615)] /- IMAGE_TARGET -/,
  .mk 0x3100 32 0x12 0x12 .u8 1 1 1 0xD0 .shadowed .volatile .slot 0 [(0, 255)] /- IMAGE_FLAGS -/,
  .mk 0x3100 32 0x13 0x13 .u16 2 2 2 0x55 .live .volatile .slot 0 [(0, 65535)] /- FREEZE_RESULT -/,
  .mk 0x3100 32 0x14 0x14 .u64 8 8 8 0x55 .live .volatile .slot 0 [(0, 18446744073709551615)] /- METER_SEAT_MS -/,
  .mk 0x3100 32 0x15 0x15 .u64 8 8 8 0x55 .live .volatile .slot 0 [(0, 18446744073709551615)] /- METER_CHANNEL_MS -/,
  .mk 0x3100 32 0x16 0x16 .u64 8 8 8 0x55 .live .volatile .slot 0 [(0, 18446744073709551615)] /- METER_PORT_MS -/,
  .mk 0x3100 32 0x17 0x17 .u32 4 4 4 0x55 .live .volatile .slot 0 [(0, 4294967295)] /- COMPOSITION_COUNT -/,
  .mk 0x3100 32 0x18 0x18 .u32 4 4 4 0x55 .live .volatile .slot 0 [(0, 4294967295)] /- MIGRATION_REMAINING_MIB -/,
  .mk 0x3200 32 0x00 0x00 .u8 1 1 1 0x55 .fixed .volatile .slot 7 [(0, 255)] /- ENTRY_COUNT -/,
  .mk 0x3200 32 0x01 0x01 .u8 1 1 1 0xD1 .shadowed .volatile .slot 0 [(0, 255)] /- PREEMPT_FIRST_LCH -/,
  .mk 0x3200 32 0x02 0x02 .u8 1 1 1 0xD1 .shadowed .volatile .slot 0 [(0, 255)] /- PREEMPT_LCH_COUNT -/,
  .mk 0x3200 32 0x03 0x03 .u16 2 2 2 0xD1 .shadowed .volatile .slot 0 [(0, 65535)] /- PREEMPT_CH_OFFSET_MIB -/,
  .mk 0x3200 32 0x04 0x04 .u16 2 2 2 0xD1 .shadowed .volatile .slot 0 [(0, 65535)] /- PREEMPT_SLOT_MIB -/,
  .mk 0x3200 32 0x05 0x05 .u8 1 1 1 0xD1 .shadowed .volatile .slot 0 [(0, 4)] /- PREEMPT_SLOTS -/,
  .mk 0x3200 32 0x06 0x06 .u8 1 1 1 0xD0 .live .volatile .slot 0 [(1, 2)] /- PREEMPT_CTL -/,
  .mk 0x3200 32 0x07 0x07 .u8 1 1 1 0x55 .live .volatile .slot 0 [(0, 255)] /- PREEMPT_HELD -/]

/-- Rows of the parameter tables, part 3, in index order. -/
def paramRows3 : List ParamRow := [
  .mk 0x4000 1 0x00 0x00 .u8 1 1 1 0x55 .fixed .volatile .device 96 [(0, 255)] /- ENTRY_COUNT -/,
  .mk 0x4000 1 0x01 0x60 .u8 1 1 1 0x55 .live .volatile .device 0 [(0, 255)] /- CHANNEL_STATE -/,
  .mk 0x4001 1 0x00 0x00 .u16 2 2 2 0x80 .live .volatile .device 0 [(0, 65535)] /- CHANNEL_MAINT -/,
  .mk 0x4002 1 0x00 0x00 .u16 2 2 2 0x41 .live .volatile .device 0 [(0, 65535)] /- CHANNEL_MAINT_RESULT -/,
  .mk 0x4003 1 0x00 0x00 .u8 1 1 1 0xD1 .shadowed .flash .device 0 [(0, 255)] /- TRAINING_POLICY -/,
  .mk 0x4004 1 0x00 0x00 .u8 1 1 1 0x55 .fixed .volatile .device 96 [(0, 255)] /- ENTRY_COUNT -/,
  .mk 0x4004 1 0x01 0x60 .u8 1 1 1 0x51 .live .volatile .device 0 [(0, 255)] /- TRAINING_OUTCOME -/,
  .mk 0x4005 1 0x00 0x00 .u8 1 1 1 0x55 .fixed .volatile .device 96 [(0, 255)] /- ENTRY_COUNT -/,
  .mk 0x4005 1 0x01 0x60 .u16 2 2 2 0x55 .live .volatile .device 1000 [(0, 65535)] /- CHANNEL_DERATE_PERMILLE -/,
  .mk 0x4010 1 0x00 0x00 .u8 1 1 1 0x55 .fixed .volatile .device 8 [(0, 255)] /- ENTRY_COUNT -/,
  .mk 0x4010 1 0x01 0x08 .record 16 16 16 0x55 .live .volatile .device 0 [] /- CXL_PORT_STATUS -/,
  .mk 0x4011 1 0x00 0x00 .u8 1 1 1 0x55 .fixed .volatile .device 16 [(0, 255)] /- ENTRY_COUNT -/,
  .mk 0x4011 1 0x01 0x10 .octets 32 32 1 0xD1 .shadowed .flash .device 0 [] /- CXL_RANGE -/,
  .mk 0x4012 1 0x00 0x00 .u8 1 1 1 0x80 .live .volatile .device 0 [(1, 1)] /- CXL_COMMIT -/,
  .mk 0x4013 1 0x00 0x00 .u16 2 2 2 0x51 .live .volatile .device 0 [(0, 65535)] /- CXL_RESULT -/,
  .mk 0x4014 1 0x00 0x00 .u8 1 1 1 0x55 .fixed .volatile .device 16 [(0, 255)] /- ENTRY_COUNT -/,
  .mk 0x4014 1 0x01 0x10 .u8 1 1 1 0x55 .live .volatile .device 0 [(0, 255)] /- CXL_RANGE_STATE -/,
  .mk 0x4015 1 0x00 0x00 .u8 1 1 1 0x80 .live .volatile .device 0 [(0, 255)] /- CXL_RESCAN -/,
  .mk 0x4020 1 0x00 0x00 .u16 2 2 2 0xD1 .live .volatile .device 20 [(1, 1000)] /- FAULT_WINDOW_US -/,
  .mk 0x4021 1 0x00 0x00 .u32 4 4 4 0xD1 .live .volatile .device 100 [(1, 10000)] /- FAULT_TIMEOUT_MS -/,
  .mk 0x4080 1 0x00 0x00 .u8 1 1 1 0x55 .fixed .volatile .device 12 [(0, 255)] /- ENTRY_COUNT -/,
  .mk 0x4080 1 0x01 0x0C .u16 2 2 2 0x55 .live .volatile .device 0 [(0, 65535)] /- REG_CAPACITY -/,
  .mk 0x4081 1 0x00 0x00 .bool 1 1 1 0xD5 .fixed .flash .device 0 [(0, 1)] /- PACING_ENABLE -/,
  .mk 0x4100 32 0x00 0x00 .u8 1 1 1 0x55 .fixed .volatile .slot 9 [(0, 255)] /- ENTRY_COUNT -/,
  .mk 0x4100 32 0x01 0x01 .u16 2 2 2 0xD5 .shadowed .volatile .slot 0 [(0, 65535)] /- MIN_MESH -/,
  .mk 0x4100 32 0x02 0x02 .u16 2 2 2 0xD5 .shadowed .volatile .slot 0 [(0, 65535)] /- MIN_ATTACH -/,
  .mk 0x4100 32 0x03 0x03 .u16 2 2 2 0xD5 .shadowed .volatile .slot 0 [(0, 65535)] /- MIN_RING -/,
  .mk 0x4100 32 0x04 0x04 .u16 2 2 2 0xD5 .shadowed .volatile .slot 0 [(0, 65535)] /- MIN_HOST -/,
  .mk 0x4100 32 0x05 0x05 .u8 1 1 1 0xD5 .shadowed .volatile .slot 16 [(0, 255)] /- WEIGHT -/,
  .mk 0x4100 32 0x06 0x06 .array 16 16 2 0xD5 .shadowed .volatile .slot 0 [] /- CXL_MIN -/,
  .mk 0x4100 32 0x07 0x07 .array 8 8 1 0xD5 .shadowed .volatile .slot 0 [] /- CXL_WEIGHT -/,
  .mk 0x4100 32 0x08 0x08 .array 24 24 2 0x55 .live .volatile .slot 0 [] /- SCALE_PERMILLE -/]

/-- Rows of the parameter tables, part 4, in index order. -/
def paramRows4 : List ParamRow := [
  .mk 0x4100 32 0x09 0x09 .array 48 48 4 0xD5 .live .volatile .slot 0 [] /- MISSED -/,
  .mk 0x5000 1 0x00 0x00 .u16 2 2 2 0xD1 .shadowed .flash .device 0 [(0, 65535)] /- GH_MODULE_ID -/,
  .mk 0x5001 1 0x00 0x00 .u16 2 2 2 0xD1 .live .flash .device 65535 [(0, 65535)] /- GH_PORT_ENABLE -/,
  .mk 0x5002 1 0x00 0x00 .u8 1 1 1 0xD1 .shadowed .flash .device 0 [(0, 255)] /- GH_FEC_MODE -/,
  .mk 0x5003 1 0x00 0x00 .u8 1 1 1 0x55 .fixed .volatile .device 16 [(0, 255)] /- ENTRY_COUNT -/,
  .mk 0x5003 1 0x01 0x10 .u8 1 1 1 0x55 .live .volatile .device 0 [(0, 255)] /- GH_PORT_STATE -/,
  .mk 0x5004 1 0x00 0x00 .u8 1 1 1 0x55 .fixed .volatile .device 16 [(0, 255)] /- ENTRY_COUNT -/,
  .mk 0x5004 1 0x01 0x10 .u16 2 2 2 0x55 .live .volatile .device 0 [(0, 65535)] /- GH_PEER -/,
  .mk 0x5005 1 0x00 0x00 .u16 2 2 2 0x80 .live .volatile .device 0 [(0, 65535)] /- GH_PORT_MAINT -/,
  .mk 0x5006 1 0x00 0x00 .u16 2 2 2 0x41 .live .volatile .device 0 [(0, 65535)] /- GH_PORT_MAINT_RESULT -/,
  .mk 0x5007 1 0x00 0x00 .u32 4 4 4 0xD1 .live .flash .device 1000 [(100, 100000)] /- GH_REQ_TIMEOUT_US -/,
  .mk 0x5008 1 0x00 0x00 .u16 2 2 2 0xD1 .live .flash .device 10 [(1, 1000)] /- GH_CREDIT_STALL_MS -/,
  .mk 0x5009 1 0x00 0x00 .u16 2 2 2 0xD1 .live .flash .device 1000 [(10, 60000)] /- GH_CHANNEL_WAIT_MS -/,
  .mk 0x500A 1 0x00 0x00 .array 256 256 1 0x51 .live .volatile .device 0 [] /- GH_CHANNEL_STATE -/,
  .mk 0x5010 1 0x00 0x00 .bool 1 1 1 0xD1 .live .flash .device 0 [(0, 1)] /- ADM_LEND_ENABLE -/,
  .mk 0x5011 1 0x00 0x00 .u32 4 4 4 0xD1 .live .flash .device 200 [(50, 10000)] /- ADM_LEASE_MS -/,
  .mk 0x5012 1 0x00 0x00 .u32 4 4 4 0xD1 .live .flash .device 1000 [(100, 100000)] /- ADM_RETRY_US -/,
  .mk 0x5013 1 0x00 0x00 .record 32 32 32 0xC1 .live .volatile .device 0 [] /- ADM_LEASE_REQ -/,
  .mk 0x5014 1 0x00 0x00 .u64 8 8 8 0x80 .live .volatile .device 0 [(0, 18446744073709551615)] /- ADM_LEASE_CMD -/,
  .mk 0x5015 1 0x00 0x00 .u16 2 2 2 0x41 .live .volatile .device 0 [(0, 65535)] /- ADM_LEASE_RESULT -/,
  .mk 0x5016 1 0x00 0x00 .array 0 8192 32 0x51 .live .volatile .device 0 [] /- ADM_LEASES -/,
  .mk 0x5017 1 0x00 0x00 .array 0 12288 48 0x41 .live .volatile .device 0 [] /- ADM_LENT -/,
  .mk 0x5018 1 0x00 0x00 .u32 4 4 4 0x80 .live .volatile .device 0 [(0, 4294967295)] /- ADM_LENT_REVOKE -/,
  .mk 0x5019 1 0x00 0x00 .array 0 12288 48 0x41 .live .volatile .device 0 [] /- ADM_LEND_LOG -/,
  .mk 0x5030 1 0x00 0x00 .octets 12 12 1 0xD1 .shadowed .flash .device 0 [] /- BH_MEMBER_CHANNEL_MASK -/,
  .mk 0x5031 1 0x00 0x00 .u16 2 2 2 0xD1 .shadowed .flash .device 0 [(0, 65535)] /- BH_MEMBER_CXL_MASK -/,
  .mk 0x5032 1 0x00 0x00 .u32 4 4 4 0x51 .live .volatile .device 0 [(0, 4294967295)] /- BH_MEMBER_FREE_MIB -/,
  .mk 0x5033 1 0x00 0x00 .array 0 512 2 0xD1 .live .flash .device 0 [] /- BH_MEMBERS -/,
  .mk 0x5034 1 0x00 0x00 .u32 4 4 4 0x51 .live .volatile .device 0 [(0, 4294967295)] /- BH_CLIENT_LEASES -/,
  .mk 0x6010 1 0x00 0x00 .u32 4 4 4 0xD1 .live .flash .device 2000 [(1, 600000)] /- CMD_TIMEOUT_MS -/,
  .mk 0x6011 1 0x00 0x00 .u16 2 2 2 0xD1 .live .flash .device 5 [(1, 1000)] /- FENCE_POLL_US -/,
  .mk 0x6012 1 0x00 0x00 .u16 2 2 2 0xD1 .live .flash .device 10 [(0, 10000)] /- PREEMPT_QUANTUM_MS -/]

/-- Rows of the parameter tables, part 5, in index order. -/
def paramRows5 : List ParamRow := [
  .mk 0x6013 1 0x00 0x00 .u32 4 4 4 0xD1 .live .flash .device 1000 [(0, 1000000)] /- AFFINITY_HOLD_US -/,
  .mk 0x6040 32 0x00 0x00 .bool 1 1 1 0xC1 .live .volatile .slot 0 [(0, 1)] /- RELEASE_GATE -/,
  .mk 0x6100 32 0x00 0x00 .u8 1 1 1 0x51 .fixed .volatile .func 3 [(0, 255)] /- ENTRY_COUNT -/,
  .mk 0x6100 32 0x01 0x01 .u16 2 2 2 0x51 .live .volatile .func 0 [(0, 65535)] /- UC_PENDING -/,
  .mk 0x6100 32 0x02 0x02 .u32 4 4 4 0xD1 .live .volatile .func 0 [(0, 0)] /- UC_DROPPED -/,
  .mk 0x6100 32 0x03 0x03 .array 0 16384 64 0x51 .live .volatile .func 0 [] /- UC_RECORDS -/,
  .mk 0x6200 1 0x00 0x00 .array 0 262144 64 0x41 .live .volatile .device 0 [] /- ERR_LOG -/,
  .mk 0x6201 1 0x00 0x00 .array 0 16384 64 0x14 .live .volatile .device 0 [] /- ERR_LOG_OWN -/,
  .mk 0x6800 1 0x00 0x00 .u8 1 1 1 0x55 .live .volatile .device 0 [(0, 255)] /- START_STAGE -/,
  .mk 0x6801 1 0x00 0x00 .u8 1 1 1 0x55 .live .volatile .device 0 [(0, 255)] /- START_KIND -/,
  .mk 0x6802 1 0x00 0x00 .u8 1 1 1 0x51 .live .volatile .device 0 [(0, 255)] /- START_CAUSE -/,
  .mk 0x6803 1 0x00 0x00 .u16 2 2 2 0x51 .live .volatile .device 0 [(0, 65535)] /- START_FAULT -/,
  .mk 0x6804 1 0x00 0x00 .u8 1 1 1 0x55 .fixed .volatile .device 5 [(0, 255)] /- ENTRY_COUNT -/,
  .mk 0x6804 1 0x01 0x05 .u32 4 4 4 0x55 .live .volatile .device 0 [(0, 4294967295)] /- STAGE_TIME_MS -/,
  .mk 0x6805 1 0x00 0x00 .u8 1 1 1 0x80 .live .flash .device 0 [(1, 2)] /- DEVICE_RESET -/,
  .mk 0x6806 1 0x00 0x00 .bool 1 1 1 0xC1 .live .flash .device 1 [(0, 1)] /- AUTO_WARM_START -/,
  .mk 0x6807 1 0x00 0x00 .array 0 4608 2 0x51 .live .volatile .device 0 [] /- SELFTEST_FAILED_SEATS -/,
  .mk 0x6810 1 0x00 0x00 .u8 1 1 1 0x80 .live .volatile .device 0 [(0, 31)] /- SHELL_RESET -/,
  .mk 0x6820 1 0x00 0x00 .u8 1 1 1 0x80 .live .volatile .device 0 [(1, 1)] /- DUMP_CTL -/,
  .mk 0x6821 1 0x00 0x00 .bool 1 1 1 0xC1 .live .flash .device 0 [(0, 1)] /- DUMP_HOLD -/,
  .mk 0x6822 1 0x00 0x00 .octets 64 64 1 0x41 .live .volatile .device 0 [] /- DUMP_HEADER -/,
  .mk 0x6823 1 0x00 0x00 .u8 1 1 1 0x55 .fixed .volatile .device 192 [(0, 255)] /- ENTRY_COUNT -/,
  .mk 0x6823 1 0x01 0xC0 .octets 65536 65536 1 0x40 .live .volatile .device 0 [] /- DUMP_CHUNK -/,
  .mk 0x6824 1 0x00 0x00 .octets 0 65536 1 0x41 .live .flash .device 0 [] /- DUMP_SUMMARY -/,
  .mk 0x6825 1 0x00 0x00 .u8 1 1 1 0x80 .live .volatile .device 0 [(1, 1)] /- DUMP_CLEAR -/,
  .mk 0x7000 1 0x00 0x00 .octets 40 40 1 0xAA .live .volatile .device 0 [] /- EVIDENCE_REQ -/,
  .mk 0x7001 1 0x00 0x00 .octets 0 65536 1 0x55 .live .volatile .device 0 [] /- EVIDENCE -/,
  .mk 0x7002 1 0x00 0x00 .u16 2 2 2 0x55 .live .volatile .device 0 [(0, 65535)] /- EVIDENCE_RESULT -/,
  .mk 0x7010 1 0x00 0x00 .u8 1 1 1 0x51 .live .volatile .device 0 [(0, 255)] /- FW_STATE -/,
  .mk 0x7011 1 0x00 0x00 .bool 1 1 1 0xD1 .live .flash .device 1 [(0, 1)] /- FW_FLOOR_AUTO -/,
  .mk 0x7012 1 0x00 0x00 .u32 4 4 4 0x80 .live .volatile .device 0 [(0, 4294967295)] /- FW_RAISE_FLOOR -/,
  .mk 0x7013 1 0x00 0x00 .u16 2 2 2 0x51 .live .volatile .device 0 [(0, 65535)] /- FW_RESULT -/]

/-- Rows of the parameter tables, part 6, in index order. -/
def paramRows6 : List ParamRow := [
  .mk 0x7020 1 0x00 0x00 .u8 1 1 1 0x55 .fixed .volatile .device 4 [(0, 255)] /- ENTRY_COUNT -/,
  .mk 0x7020 1 0x01 0x01 .u64 8 8 8 0xC3 .live .volatile .device 0 [(0, 18446744073709551615)] /- WAKE_RING_BASE -/,
  .mk 0x7020 1 0x02 0x02 .u8 1 1 1 0xC3 .live .volatile .device 0 [(0, 255)] /- WAKE_RING_LOG2 -/,
  .mk 0x7020 1 0x03 0x03 .u32 4 4 4 0xC3 .live .volatile .device 0 [(0, 4294967295)] /- WAKE_RING_HEAD -/,
  .mk 0x7020 1 0x04 0x04 .u32 4 4 4 0x41 .live .volatile .device 0 [(0, 4294967295)] /- WAKE_RING_TAIL -/,
  .mk 0x7021 1 0x00 0x00 .u8 1 1 1 0x55 .fixed .volatile .device 4 [(0, 255)] /- ENTRY_COUNT -/,
  .mk 0x7021 1 0x01 0x01 .u64 8 8 8 0xC3 .live .volatile .device 0 [(0, 18446744073709551615)] /- SEAL_RING_BASE -/,
  .mk 0x7021 1 0x02 0x02 .u8 1 1 1 0xC3 .live .volatile .device 0 [(0, 255)] /- SEAL_RING_LOG2 -/,
  .mk 0x7021 1 0x03 0x03 .u32 4 4 4 0xC3 .live .volatile .device 0 [(0, 4294967295)] /- SEAL_RING_HEAD -/,
  .mk 0x7021 1 0x04 0x04 .u32 4 4 4 0x41 .live .volatile .device 0 [(0, 4294967295)] /- SEAL_RING_TAIL -/,
  .mk 0x7100 32 0x00 0x00 .u8 1 1 1 0x55 .fixed .volatile .slot 9 [(0, 255)] /- ENTRY_COUNT -/,
  .mk 0x7100 32 0x01 0x01 .u8 1 1 1 0x80 .live .volatile .slot 0 [(0, 255)] /- DEBUG_CTL -/,
  .mk 0x7100 32 0x02 0x02 .u8 1 1 1 0x55 .live .volatile .slot 0 [(0, 255)] /- DEBUG_STATE -/,
  .mk 0x7100 32 0x03 0x03 .bool 1 1 1 0x55 .live .volatile .slot 0 [(0, 1)] /- DEBUG_SEEN -/,
  .mk 0x7100 32 0x04 0x04 .u64 8 8 8 0xC0 .live .volatile .slot 0 [(0, 18446744073709551615)] /- DBG_ADDR -/,
  .mk 0x7100 32 0x05 0x05 .octets 1 4096 1 0xC0 .live .volatile .slot 0 [] /- DBG_DATA -/,
  .mk 0x7100 32 0x06 0x06 .octets 64 64 1 0x55 .live .volatile .slot 0 [] /- WAKE_HEAD -/,
  .mk 0x7100 32 0x07 0x07 .u64 8 8 8 0x55 .live .volatile .slot 0 [(0, 18446744073709551615)] /- WAKE_LAST_INDEX -/,
  .mk 0x7100 32 0x08 0x08 .octets 0 1568 1 0xC1 .live .volatile .slot 0 [] /- IMAGE_SEAL_EK -/,
  .mk 0x7100 32 0x09 0x09 .u32 4 4 4 0x51 .live .volatile .slot 0 [(0, 4294967295)] /- WAKE_UNEXPORTED -/,
  .mk 0x8000 1 0x00 0x00 .u8 1 1 1 0x55 .fixed .volatile .device 5 [(0, 255)] /- ENTRY_COUNT -/,
  .mk 0x8000 1 0x01 0x01 .u32 4 4 4 0x41 .live .volatile .device 0 [(0, 4294967295)] /- INPUT_MV -/,
  .mk 0x8000 1 0x02 0x02 .u16 2 2 2 0x41 .live .volatile .device 0 [(0, 65535)] /- INPUT_POWER_W -/,
  .mk 0x8000 1 0x03 0x03 .u64 8 8 8 0x41 .live .volatile .device 0 [(0, 18446744073709551615)] /- MODULE_ENERGY_MJ -/,
  .mk 0x8000 1 0x04 0x04 .u64 8 8 8 0x41 .live .volatile .device 0 [(0, 18446744073709551615)] /- PLATFORM_ENERGY_MJ -/,
  .mk 0x8000 1 0x05 0x05 .u32 4 4 4 0xC1 .live .volatile .device 0 [(0, 0)] /- BUDGET_OVERRUNS -/,
  .mk 0x8001 1 0x00 0x00 .u8 1 1 1 0x55 .fixed .volatile .device 25 [(0, 255)] /- ENTRY_COUNT -/,
  .mk 0x8001 1 0x01 0x19 .i16 2 2 2 0x41 .live .volatile .device 0 [(0, 65535)] /- DIE_TEMP_C -/,
  .mk 0x8002 1 0x00 0x00 .u8 1 1 1 0x55 .fixed .volatile .device 6 [(0, 255)] /- ENTRY_COUNT -/,
  .mk 0x8002 1 0x01 0x01 .u32 4 4 4 0xC1 .live .volatile .device 0 [(0, 0)] /- REG_ALERTS -/,
  .mk 0x8002 1 0x02 0x02 .u32 4 4 4 0xC1 .live .volatile .device 0 [(0, 0)] /- RACK_ALERTS -/,
  .mk 0x8002 1 0x03 0x03 .u32 4 4 4 0xC1 .live .volatile .device 0 [(0, 0)] /- PWRBRK_ALERTS -/]

/-- Rows of the parameter tables, part 7, in index order. -/
def paramRows7 : List ParamRow := [
  .mk 0x8002 1 0x04 0x04 .u32 4 4 4 0xC1 .live .volatile .device 0 [(0, 0)] /- THERMAL_ALERTS -/,
  .mk 0x8002 1 0x05 0x05 .u32 4 4 4 0xC1 .live .volatile .device 0 [(0, 0)] /- THERMAL_THROTTLES -/,
  .mk 0x8002 1 0x06 0x06 .u32 4 4 4 0xC1 .live .volatile .device 0 [(0, 0)] /- LEND_EVENTS -/,
  .mk 0x8200 1 0x00 0x00 .u8 1 1 1 0x41 .fixed .volatile .device 49 [(0, 255)] /- LINK_COUNT -/,
  .mk 0x8200 1 0x01 0x31 .u32 4 4 4 0xC1 .live .volatile .device 0 [(0, 0)] /- LINK_REPLAYS -/,
  .mk 0x8201 1 0x00 0x00 .u64 8 8 8 0x51 .live .volatile .device 0 [(0, 18446744073709551615)] /- LINK_FAILED_MASK -/,
  .mk 0x8202 1 0x00 0x00 .u32 4 4 4 0x51 .live .volatile .device 0 [(0, 4294967295)] /- NET_TIMEOUTS -/,
  .mk 0x8202 1 0x01 0x01 .u32 4 4 4 0x51 .live .volatile .device 0 [(0, 4294967295)] /- NET_LATE_RESPONSES -/,
  .mk 0x8203 1 0x00 0x00 .u32 4 4 4 0x51 .live .volatile .device 0 [(0, 4294967295)] /- RED_REFUSALS -/,
  .mk 0x8204 1 0x00 0x00 .u8 1 1 1 0x41 .fixed .volatile .device 3 [(0, 255)] /- MM_COUNT -/,
  .mk 0x8204 1 0x01 0x01 .u32 4 4 4 0xD1 .live .volatile .device 0 [(0, 0)] /- PEG_WRITES_MALFORMED -/,
  .mk 0x8204 1 0x02 0x02 .u32 4 4 4 0xD1 .live .volatile .device 0 [(0, 0)] /- IMAGE_REDIRECTS -/,
  .mk 0x8204 1 0x03 0x03 .u32 4 4 4 0xD1 .live .volatile .device 0 [(0, 0)] /- PEG_HOLD_FULL -/,
  .mk 0x8210 1 0x00 0x00 .u8 1 1 1 0x55 .fixed .volatile .device 96 [(0, 255)] /- ENTRY_COUNT -/,
  .mk 0x8210 1 0x01 0x60 .u32 4 4 4 0xD1 .live .volatile .device 0 [(0, 0)] /- CH_CORRECTED -/,
  .mk 0x8211 1 0x00 0x00 .u8 1 1 1 0x55 .fixed .volatile .device 96 [(0, 255)] /- ENTRY_COUNT -/,
  .mk 0x8211 1 0x01 0x60 .u32 4 4 4 0xD1 .live .volatile .device 0 [(0, 0)] /- CH_UNCORRECTABLE -/,
  .mk 0x8212 1 0x00 0x00 .u8 1 1 1 0x55 .fixed .volatile .device 96 [(0, 255)] /- ENTRY_COUNT -/,
  .mk 0x8212 1 0x01 0x60 .u32 4 4 4 0xD1 .live .volatile .device 0 [(0, 0)] /- CH_CRC_RETRIES -/,
  .mk 0x8213 1 0x00 0x00 .u8 1 1 1 0x55 .fixed .volatile .device 8 [(0, 255)] /- ENTRY_COUNT -/,
  .mk 0x8213 1 0x01 0x08 .u32 4 4 4 0xD1 .live .volatile .device 0 [(0, 0)] /- CXL_TIMEOUTS -/,
  .mk 0x8214 1 0x00 0x00 .u8 1 1 1 0x55 .fixed .volatile .device 8 [(0, 255)] /- ENTRY_COUNT -/,
  .mk 0x8214 1 0x01 0x08 .u32 4 4 4 0xD1 .live .volatile .device 0 [(0, 0)] /- CXL_POISON -/,
  .mk 0x8220 1 0x00 0x00 .u8 1 1 1 0x51 .fixed .volatile .device 5 [(0, 255)] /- TR_COUNT -/,
  .mk 0x8220 1 0x01 0x01 .u32 4 4 4 0xD1 .live .volatile .device 0 [(0, 0)] /- RT_UPDATES_DROPPED -/,
  .mk 0x8220 1 0x02 0x02 .u32 4 4 4 0xD1 .live .volatile .device 0 [(0, 0)] /- TR_CONFIG_IGNORED -/,
  .mk 0x8220 1 0x03 0x03 .u32 4 4 4 0xD1 .live .volatile .device 0 [(0, 0)] /- FAULT_BATCHES -/,
  .mk 0x8220 1 0x04 0x04 .u32 4 4 4 0xD1 .live .volatile .device 0 [(0, 0)] /- FAULT_TIMEOUTS -/,
  .mk 0x8220 1 0x05 0x05 .u32 4 4 4 0xD1 .live .volatile .device 0 [(0, 0)] /- RANGE_CACHE_MISSES -/,
  .mk 0x8230 1 0x00 0x00 .u8 1 1 1 0x51 .fixed .volatile .device 5 [(0, 255)] /- HOST_COUNT -/,
  .mk 0x8230 1 0x01 0x01 .u32 4 4 4 0xD1 .live .volatile .device 0 [(0, 0)] /- CTX_CMD_DROPPED -/,
  .mk 0x8230 1 0x02 0x02 .u32 4 4 4 0xD1 .live .volatile .device 0 [(0, 0)] /- FN_CONFIG_IGNORED -/]

/-- Rows of the parameter tables, part 8, in index order. -/
def paramRows8 : List ParamRow := [
  .mk 0x8230 1 0x03 0x03 .u32 4 4 4 0xD1 .live .volatile .device 0 [(0, 0)] /- UC_SUPPRESSED -/,
  .mk 0x8230 1 0x04 0x04 .u32 4 4 4 0xD1 .live .volatile .device 0 [(0, 0)] /- POISON_ADVANCES -/,
  .mk 0x8230 1 0x05 0x05 .u32 4 4 4 0xD1 .live .volatile .device 0 [(0, 0)] /- CONTEXT_SWAPS -/,
  .mk 0x8231 1 0x00 0x00 .u8 1 1 1 0x51 .fixed .volatile .device 6 [(0, 255)] /- FE_COUNT -/,
  .mk 0x8231 1 0x01 0x01 .u32 4 4 4 0xD1 .live .volatile .device 0 [(0, 0)] /- HQ_TAIL_IGNORED -/,
  .mk 0x8231 1 0x02 0x02 .u32 4 4 4 0xD1 .live .volatile .device 0 [(0, 0)] /- FETCH_RETRIES -/,
  .mk 0x8231 1 0x03 0x03 .u32 4 4 4 0xD1 .live .volatile .device 0 [(0, 0)] /- PREEMPTIONS -/,
  .mk 0x8231 1 0x04 0x04 .u32 4 4 4 0xD1 .live .volatile .device 0 [(0, 0)] /- PREEMPT_NO_AREA -/,
  .mk 0x8231 1 0x05 0x05 .u32 4 4 4 0xD1 .live .volatile .device 0 [(0, 0)] /- CMD_TIMEOUTS -/,
  .mk 0x8231 1 0x06 0x06 .u32 4 4 4 0xD1 .live .volatile .device 0 [(0, 0)] /- CONTEXT_SCRUBS -/,
  .mk 0x8240 1 0x00 0x00 .u8 1 1 1 0x51 .fixed .volatile .device 4 [(0, 255)] /- SPR_COUNT -/,
  .mk 0x8240 1 0x01 0x01 .u32 4 4 4 0xD1 .live .volatile .device 0 [(0, 0)] /- SPR_WRITES_DISCARDED -/,
  .mk 0x8240 1 0x02 0x02 .u32 4 4 4 0xD1 .live .volatile .device 0 [(0, 0)] /- SPR_OVERRUNS -/,
  .mk 0x8240 1 0x03 0x03 .u32 4 4 4 0xD1 .live .volatile .device 0 [(0, 0)] /- SPR_EGRESS_IGNORED -/,
  .mk 0x8240 1 0x04 0x04 .u32 4 4 4 0xD1 .live .volatile .device 0 [(0, 0)] /- SPR_RESULTS_FAILED -/,
  .mk 0x8250 1 0x00 0x00 .u8 1 1 1 0x51 .fixed .volatile .device 6 [(0, 255)] /- DICT_COUNT -/,
  .mk 0x8250 1 0x01 0x01 .u32 4 4 4 0xD1 .live .volatile .device 0 [(0, 0)] /- PAP_PROTOCOL_ERRORS -/,
  .mk 0x8250 1 0x02 0x02 .u32 4 4 4 0xC1 .live .volatile .device 0 [(0, 0)] /- AUTH_FAILURES -/,
  .mk 0x8250 1 0x03 0x03 .u32 4 4 4 0xD1 .live .volatile .device 0 [(0, 0)] /- SEGMENTS_ABANDONED -/,
  .mk 0x8250 1 0x04 0x04 .u32 4 4 4 0xC1 .live .volatile .device 0 [(0, 0)] /- MCTP_RX_DROPPED -/,
  .mk 0x8250 1 0x05 0x05 .u32 4 4 4 0xC1 .live .volatile .device 0 [(0, 0)] /- MCTP_TX_DROPPED -/,
  .mk 0x8250 1 0x06 0x06 .u32 4 4 4 0xD1 .live .volatile .device 0 [(0, 0)] /- MBX_DOORBELL_DROPPED -/,
  .mk 0x8251 1 0x00 0x00 .array 9412 9412 4 0x41 .live .volatile .device 0 [] /- ISLAND_CLOSED_DISCARDS -/,
  .mk 0x8260 1 0x00 0x00 .u8 1 1 1 0x55 .fixed .volatile .device 16 [(0, 255)] /- ENTRY_COUNT -/,
  .mk 0x8260 1 0x01 0x10 .u32 4 4 4 0xD1 .live .volatile .device 0 [(0, 0)] /- GH_REPLAYS -/,
  .mk 0x8261 1 0x00 0x00 .u8 1 1 1 0x55 .fixed .volatile .device 16 [(0, 255)] /- ENTRY_COUNT -/,
  .mk 0x8261 1 0x01 0x10 .u32 4 4 4 0xD1 .live .volatile .device 0 [(0, 0)] /- GH_PORT_FAILURES -/,
  .mk 0x8262 1 0x00 0x00 .u8 1 1 1 0x55 .fixed .volatile .device 9 [(0, 255)] /- ENTRY_COUNT -/,
  .mk 0x8262 1 0x01 0x01 .u32 4 4 4 0xD1 .live .volatile .device 0 [(0, 0)] /- GH_RX_DENIED -/,
  .mk 0x8262 1 0x02 0x02 .u32 4 4 4 0xD1 .live .volatile .device 0 [(0, 0)] /- GH_TIMEOUTS -/,
  .mk 0x8262 1 0x03 0x03 .u32 4 4 4 0xD1 .live .volatile .device 0 [(0, 0)] /- GH_LATE_RESPONSES -/,
  .mk 0x8262 1 0x04 0x04 .u32 4 4 4 0xD1 .live .volatile .device 0 [(0, 0)] /- ADM_PROTOCOL_ERRORS -/]

/-- Rows of the parameter tables, part 9, in index order. -/
def paramRows9 : List ParamRow := [
  .mk 0x8262 1 0x05 0x05 .u32 4 4 4 0xD1 .live .volatile .device 0 [(0, 0)] /- BH_HELD_TRANSFERS -/,
  .mk 0x8262 1 0x06 0x06 .u32 4 4 4 0xD1 .live .volatile .device 0 [(0, 0)] /- BH_ORPHANED -/,
  .mk 0x8262 1 0x07 0x07 .u32 4 4 4 0xD1 .live .volatile .device 0 [(0, 0)] /- BH_OWNER_LOST -/,
  .mk 0x8262 1 0x08 0x08 .u32 4 4 4 0xD1 .live .volatile .device 0 [(0, 0)] /- BH_EXPIRED -/,
  .mk 0x8262 1 0x09 0x09 .u32 4 4 4 0xD1 .live .volatile .device 0 [(0, 0)] /- GH_CREDIT_STALLS -/,
  .mk 0x8280 1 0x00 0x00 .u8 1 1 1 0x51 .fixed .volatile .device 9 [(0, 255)] /- SAFETY_COUNT -/,
  .mk 0x8280 1 0x01 0x01 .u32 4 4 4 0xD1 .live .volatile .device 0 [(0, 0)] /- RESIDUE_FAILS -/,
  .mk 0x8280 1 0x02 0x02 .u32 4 4 4 0xD1 .live .volatile .device 0 [(0, 0)] /- GUARD_FAILS -/,
  .mk 0x8280 1 0x03 0x03 .u32 4 4 4 0xD1 .live .volatile .device 0 [(0, 0)] /- SRAM_CORRECTED -/,
  .mk 0x8280 1 0x04 0x04 .u32 4 4 4 0xD1 .live .volatile .device 0 [(0, 0)] /- SRAM_UNCORRECTABLE -/,
  .mk 0x8280 1 0x05 0x05 .u32 4 4 4 0xD1 .live .volatile .device 0 [(0, 0)] /- PARITY_ERRORS -/,
  .mk 0x8280 1 0x06 0x06 .u32 4 4 4 0xD1 .live .volatile .device 0 [(0, 0)] /- MONITOR_EVENTS -/,
  .mk 0x8280 1 0x07 0x07 .u32 4 4 4 0xD1 .live .volatile .device 0 [(0, 0)] /- SIGNATURE_FAILS -/,
  .mk 0x8280 1 0x08 0x08 .u32 4 4 4 0xD1 .live .volatile .device 0 [(0, 0)] /- TENDER_WATCHDOGS -/,
  .mk 0x8280 1 0x09 0x09 .u32 4 4 4 0xD1 .live .volatile .device 0 [(0, 0)] /- EXPOSURE_RECORDS -/,
  .mk 0x82A0 1 0x00 0x00 .u8 1 1 1 0x55 .fixed .volatile .device 8 [(0, 255)] /- ENTRY_COUNT -/,
  .mk 0x82A0 1 0x01 0x01 .u32 4 4 4 0xD1 .live .flash .device 0 [(0, 0)] /- COLD_STARTS -/,
  .mk 0x82A0 1 0x02 0x02 .u32 4 4 4 0xD1 .live .flash .device 0 [(0, 0)] /- WARM_STARTS -/,
  .mk 0x82A0 1 0x03 0x03 .u32 4 4 4 0xD1 .live .volatile .device 0 [(0, 0)] /- SHELL_RESETS -/,
  .mk 0x82A0 1 0x04 0x04 .u32 4 4 4 0xD1 .live .volatile .device 0 [(0, 0)] /- ISLAND_HANGS -/,
  .mk 0x82A0 1 0x05 0x05 .u32 4 4 4 0xD1 .live .volatile .device 0 [(0, 0)] /- COX_WATCHDOGS -/,
  .mk 0x82A0 1 0x06 0x06 .u32 4 4 4 0xD1 .live .volatile .device 0 [(0, 0)] /- DUMPS_TAKEN -/,
  .mk 0x82A0 1 0x07 0x07 .u32 4 4 4 0xD1 .live .volatile .device 0 [(0, 0)] /- DUMPS_SKIPPED -/,
  .mk 0x82A0 1 0x08 0x08 .u32 4 4 4 0xD1 .live .volatile .device 0 [(0, 0)] /- FORCED_CLOSE_DISCARDS -/,
  .mk 0x82C0 1 0x00 0x00 .u8 1 1 1 0x55 .fixed .volatile .device 7 [(0, 255)] /- ENTRY_COUNT -/,
  .mk 0x82C0 1 0x01 0x01 .u32 4 4 4 0xD1 .live .volatile .device 0 [(0, 0)] /- WKEY_LOADS -/,
  .mk 0x82C0 1 0x02 0x02 .u32 4 4 4 0xD1 .live .volatile .device 0 [(0, 0)] /- WKEY_FAILURES -/,
  .mk 0x82C0 1 0x03 0x03 .u32 4 4 4 0xD1 .live .volatile .device 0 [(0, 0)] /- EVIDENCE_SIGNED -/,
  .mk 0x82C0 1 0x04 0x04 .u32 4 4 4 0xD1 .live .volatile .device 0 [(0, 0)] /- SEALS_SIGNED -/,
  .mk 0x82C0 1 0x05 0x05 .u32 4 4 4 0xD1 .live .volatile .device 0 [(0, 0)] /- DEBUG_OPENS -/,
  .mk 0x82C0 1 0x06 0x06 .u32 4 4 4 0xD1 .live .volatile .device 0 [(0, 0)] /- LINK_AUTH_FAILURES -/,
  .mk 0x82C0 1 0x07 0x07 .u32 4 4 4 0xD1 .live .volatile .device 0 [(0, 0)] /- CRED_FAILURES -/]

/-- Every parameter of the dictionary: the union of the parameter tables of all chapters (13 R461). -/
def paramRows : List ParamRow :=
  paramRows0 ++ paramRows1 ++ paramRows2 ++ paramRows3 ++ paramRows4 ++ paramRows5 ++ paramRows6 ++ paramRows7 ++ paramRows8 ++ paramRows9
/-- DEVICE_NAME: index 0x1000, sub-index 0x00. -/
def P.deviceName : Nat := pkey 0x1000 0x00

/-- DICT_LAYOUT: index 0x1001, sub-index 0x00. -/
def P.dictLayout : Nat := pkey 0x1001 0x00

/-- PART_CODE: index 0x1002, sub-index 0x01. -/
def P.partCode : Nat := pkey 0x1002 0x01

/-- SEAT_CLOCK_LIMIT_MHZ: index 0x1002, sub-index 0x02. -/
def P.seatClockLimitMhz : Nat := pkey 0x1002 0x02

/-- POWER_LIMIT_W: index 0x1002, sub-index 0x03. -/
def P.powerLimitW : Nat := pkey 0x1002 0x03

/-- IDENTITY_RECORD: index 0x1003, sub-index 0x00. -/
def P.identityRecord : Nat := pkey 0x1003 0x00

/-- BOOT_COUNTER: index 0x1004, sub-index 0x01. -/
def P.bootCounter : Nat := pkey 0x1004 0x01

/-- ROLLBACK_FLOOR: index 0x1004, sub-index 0x02. -/
def P.rollbackFloor : Nat := pkey 0x1004 0x02

/-- RUNNING_SVN: index 0x1004, sub-index 0x03. -/
def P.runningSvn : Nat := pkey 0x1004 0x03

/-- KR_EK: index 0x1005, sub-index 0x00. -/
def P.krEk : Nat := pkey 0x1005 0x00

/-- LEVELS_SUPPORTED: index 0x1008, sub-index 0x01. -/
def P.levelsSupported : Nat := pkey 0x1008 0x01

/-- LEVEL_OWN: index 0x1008, sub-index 0x02. -/
def P.levelOwn : Nat := pkey 0x1008 0x02

/-- LEVEL: index 0x1009, sub-index 0x01 to 0x20, element i counted from 0. -/
def P.level (i : Nat) : Nat := pkey 0x1009 (1 + i)

/-- SESSION_IDLE_S: index 0x1010, sub-index 0x01. -/
def P.sessionIdleS : Nat := pkey 0x1010 0x01

/-- SEGMENT_TIMEOUT_MS: index 0x1010, sub-index 0x02. -/
def P.segmentTimeoutMs : Nat := pkey 0x1010 0x02

/-- AUTH_LOCKOUT_S: index 0x1010, sub-index 0x03. -/
def P.authLockoutS : Nat := pkey 0x1010 0x03

/-- SESSIONS_OPEN: index 0x1010, sub-index 0x04. -/
def P.sessionsOpen : Nat := pkey 0x1010 0x04

/-- CRED_INSTALL: index 0x1011, sub-index 0x00. -/
def P.credInstall : Nat := pkey 0x1011 0x00

/-- CRED_TABLE: index 0x1012, sub-index 0x00. -/
def P.credTable : Nat := pkey 0x1012 0x00

/-- CRED_RESULT: index 0x1013, sub-index 0x00. -/
def P.credResult : Nat := pkey 0x1013 0x00

/-- CTX_QUOTA: index 0x1400 + f, sub-index 0x01. -/
def P.ctxQuota (f : Nat) : Nat := pkey (0x1400 + f) 0x01

/-- RESIDENT_MIN: index 0x1400 + f, sub-index 0x02. -/
def P.residentMin (f : Nat) : Nat := pkey (0x1400 + f) 0x02

/-- SEQ_SLOT_QUOTA: index 0x1400 + f, sub-index 0x03. -/
def P.seqSlotQuota (f : Nat) : Nat := pkey (0x1400 + f) 0x03

/-- SPRINT_SLOT_QUOTA: index 0x1400 + f, sub-index 0x04. -/
def P.sprintSlotQuota (f : Nat) : Nat := pkey (0x1400 + f) 0x04

/-- CTX_LIVE: index 0x1400 + f, sub-index 0x05. -/
def P.ctxLive (f : Nat) : Nat := pkey (0x1400 + f) 0x05

/-- CONTEXT_STORE_CHANNEL: index 0x1410, sub-index 0x00. -/
def P.contextStoreChannel : Nat := pkey 0x1410 0x00

/-- CONTEXTS_MAX: index 0x1411, sub-index 0x00. -/
def P.contextsMax : Nat := pkey 0x1411 0x00

/-- PL_CLOCK_MHZ: index 0x2000, sub-index 0x01 to 0x08, element i counted from 0. -/
def P.plClockMhz (i : Nat) : Nat := pkey 0x2000 (1 + i)

/-- PL_SEAT_MW: index 0x2001, sub-index 0x01 to 0x08, element i counted from 0. -/
def P.plSeatMw (i : Nat) : Nat := pkey 0x2001 (1 + i)

/-- BUDGET_GRANT: index 0x2010, sub-index 0x00. -/
def P.budgetGrant : Nat := pkey 0x2010 0x00

/-- BUDGET_STATE: index 0x2011, sub-index 0x00. -/
def P.budgetState : Nat := pkey 0x2011 0x00

/-- BUDGET_RESULT: index 0x2012, sub-index 0x00. -/
def P.budgetResult : Nat := pkey 0x2012 0x00

/-- BUDGET_EFFECTIVE_W: index 0x2013, sub-index 0x00. -/
def P.budgetEffectiveW : Nat := pkey 0x2013 0x00

/-- FALLBACK_BUDGET_W: index 0x2014, sub-index 0x00. -/
def P.fallbackBudgetW : Nat := pkey 0x2014 0x00

/-- PLATFORM_RESERVE_W: index 0x2015, sub-index 0x00. -/
def P.platformReserveW : Nat := pkey 0x2015 0x00

/-- DEVICE_CLOCK_CAP_MHZ: index 0x2016, sub-index 0x00. -/
def P.deviceClockCapMhz : Nat := pkey 0x2016 0x00

/-- ALERT_STATUS: index 0x2017, sub-index 0x00. -/
def P.alertStatus : Nat := pkey 0x2017 0x00

/-- ALERT_HOLD_MS: index 0x2018, sub-index 0x00. -/
def P.alertHoldMs : Nat := pkey 0x2018 0x00

/-- THERMAL_THROTTLE_C: index 0x2019, sub-index 0x00. -/
def P.thermalThrottleC : Nat := pkey 0x2019 0x00

/-- POWER_MIN_W: index 0x2100 + s, sub-index 0x01. -/
def P.powerMinW (s : Nat) : Nat := pkey (0x2100 + s) 0x01

/-- POWER_WEIGHT: index 0x2100 + s, sub-index 0x02. -/
def P.powerWeight (s : Nat) : Nat := pkey (0x2100 + s) 0x02

/-- PL_CAP: index 0x2100 + s, sub-index 0x03. -/
def P.plCap (s : Nat) : Nat := pkey (0x2100 + s) 0x03

/-- ALLOC_W: index 0x2100 + s, sub-index 0x04. -/
def P.allocW (s : Nat) : Nat := pkey (0x2100 + s) 0x04

/-- POWER_LEVEL: index 0x2100 + s, sub-index 0x05. -/
def P.powerLevel (s : Nat) : Nat := pkey (0x2100 + s) 0x05

/-- SHELL_ENERGY_MJ: index 0x2100 + s, sub-index 0x06. -/
def P.shellEnergyMj (s : Nat) : Nat := pkey (0x2100 + s) 0x06

/-- POWER_SCALED: index 0x2100 + s, sub-index 0x07. -/
def P.powerScaled (s : Nat) : Nat := pkey (0x2100 + s) 0x07

/-- COMPOSITION_MODE: index 0x3000, sub-index 0x00. -/
def P.compositionMode : Nat := pkey 0x3000 0x00

/-- COMPOSITION_MODE_NEXT: index 0x3001, sub-index 0x00. -/
def P.compositionModeNext : Nat := pkey 0x3001 0x00

/-- S1_TABLE: index 0x3002, sub-index 0x00. -/
def P.s1Table : Nat := pkey 0x3002 0x00

/-- S1_TABLE_RESULT: index 0x3003, sub-index 0x00. -/
def P.s1TableResult : Nat := pkey 0x3003 0x00

/-- DEFAULT_CATCH_DEADLINE_MS: index 0x3004, sub-index 0x00. -/
def P.defaultCatchDeadlineMs : Nat := pkey 0x3004 0x00

/-- FREE_SEATS: index 0x3005, sub-index 0x00. -/
def P.freeSeats : Nat := pkey 0x3005 0x00

/-- FREE_CHANNELS: index 0x3006, sub-index 0x00. -/
def P.freeChannels : Nat := pkey 0x3006 0x00

/-- SHELLS_LIVE: index 0x3007, sub-index 0x00. -/
def P.shellsLive : Nat := pkey 0x3007 0x00

/-- SHELL_STATE: index 0x3100 + s, sub-index 0x01. -/
def P.shellState (s : Nat) : Nat := pkey (0x3100 + s) 0x01

/-- OWNER_FUNCTION: index 0x3100 + s, sub-index 0x02. -/
def P.ownerFunction (s : Nat) : Nat := pkey (0x3100 + s) 0x02

/-- SEAT_QUOTA: index 0x3100 + s, sub-index 0x03. -/
def P.seatQuota (s : Nat) : Nat := pkey (0x3100 + s) 0x03

/-- SEAT_COUNT: index 0x3100 + s, sub-index 0x04. -/
def P.seatCount (s : Nat) : Nat := pkey (0x3100 + s) 0x04

/-- SEAT_PLACEMENT: index 0x3100 + s, sub-index 0x05. -/
def P.seatPlacement (s : Nat) : Nat := pkey (0x3100 + s) 0x05

/-- SEAT_LIST: index 0x3100 + s, sub-index 0x06. -/
def P.seatList (s : Nat) : Nat := pkey (0x3100 + s) 0x06

/-- CHANNEL_LIST: index 0x3100 + s, sub-index 0x07. -/
def P.channelList (s : Nat) : Nat := pkey (0x3100 + s) 0x07

/-- GHENGO_PORT_LIST: index 0x3100 + s, sub-index 0x08. -/
def P.ghengoPortList (s : Nat) : Nat := pkey (0x3100 + s) 0x08

/-- CXL_PORT_MASK: index 0x3100 + s, sub-index 0x09. -/
def P.cxlPortMask (s : Nat) : Nat := pkey (0x3100 + s) 0x09

/-- LEASE_LIST: index 0x3100 + s, sub-index 0x0A. -/
def P.leaseList (s : Nat) : Nat := pkey (0x3100 + s) 0x0A

/-- RIG_SEQ: index 0x3100 + s, sub-index 0x0B. -/
def P.rigSeq (s : Nat) : Nat := pkey (0x3100 + s) 0x0B

/-- RIG_COMMIT: index 0x3100 + s, sub-index 0x0C. -/
def P.rigCommit (s : Nat) : Nat := pkey (0x3100 + s) 0x0C

/-- RIG_RESULT: index 0x3100 + s, sub-index 0x0D. -/
def P.rigResult (s : Nat) : Nat := pkey (0x3100 + s) 0x0D

/-- RIG_STATUS: index 0x3100 + s, sub-index 0x0E. -/
def P.rigStatus (s : Nat) : Nat := pkey (0x3100 + s) 0x0E

/-- CATCH_DEADLINE_MS: index 0x3100 + s, sub-index 0x0F. A 0 stands for DEFAULT_CATCH_DEADLINE_MS (02 Table Shells-3). -/
def P.catchDeadlineMs (s : Nat) : Nat := pkey (0x3100 + s) 0x0F

/-- FREEZE_CTL: index 0x3100 + s, sub-index 0x10. -/
def P.freezeCtl (s : Nat) : Nat := pkey (0x3100 + s) 0x10

/-- IMAGE_TARGET: index 0x3100 + s, sub-index 0x11. -/
def P.imageTarget (s : Nat) : Nat := pkey (0x3100 + s) 0x11

/-- IMAGE_FLAGS: index 0x3100 + s, sub-index 0x12. -/
def P.imageFlags (s : Nat) : Nat := pkey (0x3100 + s) 0x12

/-- FREEZE_RESULT: index 0x3100 + s, sub-index 0x13. -/
def P.freezeResult (s : Nat) : Nat := pkey (0x3100 + s) 0x13

/-- METER_SEAT_MS: index 0x3100 + s, sub-index 0x14. -/
def P.meterSeatMs (s : Nat) : Nat := pkey (0x3100 + s) 0x14

/-- METER_CHANNEL_MS: index 0x3100 + s, sub-index 0x15. -/
def P.meterChannelMs (s : Nat) : Nat := pkey (0x3100 + s) 0x15

/-- METER_PORT_MS: index 0x3100 + s, sub-index 0x16. -/
def P.meterPortMs (s : Nat) : Nat := pkey (0x3100 + s) 0x16

/-- COMPOSITION_COUNT: index 0x3100 + s, sub-index 0x17. -/
def P.compositionCount (s : Nat) : Nat := pkey (0x3100 + s) 0x17

/-- MIGRATION_REMAINING_MIB: index 0x3100 + s, sub-index 0x18. -/
def P.migrationRemainingMib (s : Nat) : Nat := pkey (0x3100 + s) 0x18

/-- PREEMPT_FIRST_LCH: index 0x3200 + s, sub-index 0x01. -/
def P.preemptFirstLch (s : Nat) : Nat := pkey (0x3200 + s) 0x01

/-- PREEMPT_LCH_COUNT: index 0x3200 + s, sub-index 0x02. -/
def P.preemptLchCount (s : Nat) : Nat := pkey (0x3200 + s) 0x02

/-- PREEMPT_CH_OFFSET_MIB: index 0x3200 + s, sub-index 0x03. -/
def P.preemptChOffsetMib (s : Nat) : Nat := pkey (0x3200 + s) 0x03

/-- PREEMPT_SLOT_MIB: index 0x3200 + s, sub-index 0x04. -/
def P.preemptSlotMib (s : Nat) : Nat := pkey (0x3200 + s) 0x04

/-- PREEMPT_SLOTS: index 0x3200 + s, sub-index 0x05. -/
def P.preemptSlots (s : Nat) : Nat := pkey (0x3200 + s) 0x05

/-- PREEMPT_CTL: index 0x3200 + s, sub-index 0x06. -/
def P.preemptCtl (s : Nat) : Nat := pkey (0x3200 + s) 0x06

/-- PREEMPT_HELD: index 0x3200 + s, sub-index 0x07. -/
def P.preemptHeld (s : Nat) : Nat := pkey (0x3200 + s) 0x07

/-- CHANNEL_STATE: index 0x4000, sub-index 0x01 to 0x60, element i counted from 0. -/
def P.channelState (i : Nat) : Nat := pkey 0x4000 (1 + i)

/-- CHANNEL_MAINT: index 0x4001, sub-index 0x00. -/
def P.channelMaint : Nat := pkey 0x4001 0x00

/-- CHANNEL_MAINT_RESULT: index 0x4002, sub-index 0x00. -/
def P.channelMaintResult : Nat := pkey 0x4002 0x00

/-- TRAINING_POLICY: index 0x4003, sub-index 0x00. -/
def P.trainingPolicy : Nat := pkey 0x4003 0x00

/-- TRAINING_OUTCOME: index 0x4004, sub-index 0x01 to 0x60, element i counted from 0. -/
def P.trainingOutcome (i : Nat) : Nat := pkey 0x4004 (1 + i)

/-- CHANNEL_DERATE_PERMILLE: index 0x4005, sub-index 0x01 to 0x60, element i counted from 0. -/
def P.channelDeratePermille (i : Nat) : Nat := pkey 0x4005 (1 + i)

/-- CXL_PORT_STATUS: index 0x4010, sub-index 0x01 to 0x08, element i counted from 0. -/
def P.cxlPortStatus (i : Nat) : Nat := pkey 0x4010 (1 + i)

/-- CXL_RANGE: index 0x4011, sub-index 0x01 to 0x10, element i counted from 0. -/
def P.cxlRange (i : Nat) : Nat := pkey 0x4011 (1 + i)

/-- CXL_COMMIT: index 0x4012, sub-index 0x00. -/
def P.cxlCommit : Nat := pkey 0x4012 0x00

/-- CXL_RESULT: index 0x4013, sub-index 0x00. -/
def P.cxlResult : Nat := pkey 0x4013 0x00

/-- CXL_RANGE_STATE: index 0x4014, sub-index 0x01 to 0x10, element i counted from 0. -/
def P.cxlRangeState (i : Nat) : Nat := pkey 0x4014 (1 + i)

/-- CXL_RESCAN: index 0x4015, sub-index 0x00. -/
def P.cxlRescan : Nat := pkey 0x4015 0x00

/-- FAULT_WINDOW_US: index 0x4020, sub-index 0x00. -/
def P.faultWindowUs : Nat := pkey 0x4020 0x00

/-- FAULT_TIMEOUT_MS: index 0x4021, sub-index 0x00. -/
def P.faultTimeoutMs : Nat := pkey 0x4021 0x00

/-- REG_CAPACITY: index 0x4080, sub-index 0x01 to 0x0C, element i counted from 0. -/
def P.regCapacity (i : Nat) : Nat := pkey 0x4080 (1 + i)

/-- PACING_ENABLE: index 0x4081, sub-index 0x00. -/
def P.pacingEnable : Nat := pkey 0x4081 0x00

/-- MIN_MESH: index 0x4100 + s, sub-index 0x01. -/
def P.minMesh (s : Nat) : Nat := pkey (0x4100 + s) 0x01

/-- MIN_ATTACH: index 0x4100 + s, sub-index 0x02. -/
def P.minAttach (s : Nat) : Nat := pkey (0x4100 + s) 0x02

/-- MIN_RING: index 0x4100 + s, sub-index 0x03. -/
def P.minRing (s : Nat) : Nat := pkey (0x4100 + s) 0x03

/-- MIN_HOST: index 0x4100 + s, sub-index 0x04. -/
def P.minHost (s : Nat) : Nat := pkey (0x4100 + s) 0x04

/-- WEIGHT: index 0x4100 + s, sub-index 0x05. -/
def P.weight (s : Nat) : Nat := pkey (0x4100 + s) 0x05

/-- CXL_MIN: index 0x4100 + s, sub-index 0x06. -/
def P.cxlMin (s : Nat) : Nat := pkey (0x4100 + s) 0x06

/-- CXL_WEIGHT: index 0x4100 + s, sub-index 0x07. -/
def P.cxlWeight (s : Nat) : Nat := pkey (0x4100 + s) 0x07

/-- SCALE_PERMILLE: index 0x4100 + s, sub-index 0x08. -/
def P.scalePermille (s : Nat) : Nat := pkey (0x4100 + s) 0x08

/-- MISSED: index 0x4100 + s, sub-index 0x09. -/
def P.missed (s : Nat) : Nat := pkey (0x4100 + s) 0x09

/-- GH_MODULE_ID: index 0x5000, sub-index 0x00. -/
def P.ghModuleId : Nat := pkey 0x5000 0x00

/-- GH_PORT_ENABLE: index 0x5001, sub-index 0x00. -/
def P.ghPortEnable : Nat := pkey 0x5001 0x00

/-- GH_FEC_MODE: index 0x5002, sub-index 0x00. -/
def P.ghFecMode : Nat := pkey 0x5002 0x00

/-- GH_PORT_STATE: index 0x5003, sub-index 0x01 to 0x10, element i counted from 0. -/
def P.ghPortState (i : Nat) : Nat := pkey 0x5003 (1 + i)

/-- GH_PEER: index 0x5004, sub-index 0x01 to 0x10, element i counted from 0. -/
def P.ghPeer (i : Nat) : Nat := pkey 0x5004 (1 + i)

/-- GH_PORT_MAINT: index 0x5005, sub-index 0x00. -/
def P.ghPortMaint : Nat := pkey 0x5005 0x00

/-- GH_PORT_MAINT_RESULT: index 0x5006, sub-index 0x00. -/
def P.ghPortMaintResult : Nat := pkey 0x5006 0x00

/-- GH_REQ_TIMEOUT_US: index 0x5007, sub-index 0x00. -/
def P.ghReqTimeoutUs : Nat := pkey 0x5007 0x00

/-- GH_CREDIT_STALL_MS: index 0x5008, sub-index 0x00. -/
def P.ghCreditStallMs : Nat := pkey 0x5008 0x00

/-- GH_CHANNEL_WAIT_MS: index 0x5009, sub-index 0x00. -/
def P.ghChannelWaitMs : Nat := pkey 0x5009 0x00

/-- GH_CHANNEL_STATE: index 0x500A, sub-index 0x00. -/
def P.ghChannelState : Nat := pkey 0x500A 0x00

/-- ADM_LEND_ENABLE: index 0x5010, sub-index 0x00. -/
def P.admLendEnable : Nat := pkey 0x5010 0x00

/-- ADM_LEASE_MS: index 0x5011, sub-index 0x00. -/
def P.admLeaseMs : Nat := pkey 0x5011 0x00

/-- ADM_RETRY_US: index 0x5012, sub-index 0x00. -/
def P.admRetryUs : Nat := pkey 0x5012 0x00

/-- ADM_LEASE_REQ: index 0x5013, sub-index 0x00. -/
def P.admLeaseReq : Nat := pkey 0x5013 0x00

/-- ADM_LEASE_CMD: index 0x5014, sub-index 0x00. -/
def P.admLeaseCmd : Nat := pkey 0x5014 0x00

/-- ADM_LEASE_RESULT: index 0x5015, sub-index 0x00. -/
def P.admLeaseResult : Nat := pkey 0x5015 0x00

/-- ADM_LEASES: index 0x5016, sub-index 0x00. -/
def P.admLeases : Nat := pkey 0x5016 0x00

/-- ADM_LENT: index 0x5017, sub-index 0x00. -/
def P.admLent : Nat := pkey 0x5017 0x00

/-- ADM_LENT_REVOKE: index 0x5018, sub-index 0x00. -/
def P.admLentRevoke : Nat := pkey 0x5018 0x00

/-- ADM_LEND_LOG: index 0x5019, sub-index 0x00. -/
def P.admLendLog : Nat := pkey 0x5019 0x00

/-- BH_MEMBER_CHANNEL_MASK: index 0x5030, sub-index 0x00. -/
def P.bhMemberChannelMask : Nat := pkey 0x5030 0x00

/-- BH_MEMBER_CXL_MASK: index 0x5031, sub-index 0x00. -/
def P.bhMemberCxlMask : Nat := pkey 0x5031 0x00

/-- BH_MEMBER_FREE_MIB: index 0x5032, sub-index 0x00. -/
def P.bhMemberFreeMib : Nat := pkey 0x5032 0x00

/-- BH_MEMBERS: index 0x5033, sub-index 0x00. -/
def P.bhMembers : Nat := pkey 0x5033 0x00

/-- BH_CLIENT_LEASES: index 0x5034, sub-index 0x00. -/
def P.bhClientLeases : Nat := pkey 0x5034 0x00

/-- CMD_TIMEOUT_MS: index 0x6010, sub-index 0x00. -/
def P.cmdTimeoutMs : Nat := pkey 0x6010 0x00

/-- FENCE_POLL_US: index 0x6011, sub-index 0x00. -/
def P.fencePollUs : Nat := pkey 0x6011 0x00

/-- PREEMPT_QUANTUM_MS: index 0x6012, sub-index 0x00. -/
def P.preemptQuantumMs : Nat := pkey 0x6012 0x00

/-- AFFINITY_HOLD_US: index 0x6013, sub-index 0x00. -/
def P.affinityHoldUs : Nat := pkey 0x6013 0x00

/-- RELEASE_GATE: index 0x6040 + s, sub-index 0x00. -/
def P.releaseGate (s : Nat) : Nat := pkey (0x6040 + s) 0x00

/-- UC_PENDING: index 0x6100 + f, sub-index 0x01. -/
def P.ucPending (f : Nat) : Nat := pkey (0x6100 + f) 0x01

/-- UC_DROPPED: index 0x6100 + f, sub-index 0x02. -/
def P.ucDropped (f : Nat) : Nat := pkey (0x6100 + f) 0x02

/-- UC_RECORDS: index 0x6100 + f, sub-index 0x03. -/
def P.ucRecords (f : Nat) : Nat := pkey (0x6100 + f) 0x03

/-- ERR_LOG: index 0x6200, sub-index 0x00. -/
def P.errLog : Nat := pkey 0x6200 0x00

/-- ERR_LOG_OWN: index 0x6201, sub-index 0x00. -/
def P.errLogOwn : Nat := pkey 0x6201 0x00

/-- START_STAGE: index 0x6800, sub-index 0x00. -/
def P.startStage : Nat := pkey 0x6800 0x00

/-- START_KIND: index 0x6801, sub-index 0x00. -/
def P.startKind : Nat := pkey 0x6801 0x00

/-- START_CAUSE: index 0x6802, sub-index 0x00. -/
def P.startCause : Nat := pkey 0x6802 0x00

/-- START_FAULT: index 0x6803, sub-index 0x00. -/
def P.startFault : Nat := pkey 0x6803 0x00

/-- STAGE_TIME_MS: index 0x6804, sub-index 0x01 to 0x05, element i counted from 0. -/
def P.stageTimeMs (i : Nat) : Nat := pkey 0x6804 (1 + i)

/-- DEVICE_RESET: index 0x6805, sub-index 0x00. -/
def P.deviceReset : Nat := pkey 0x6805 0x00

/-- AUTO_WARM_START: index 0x6806, sub-index 0x00. -/
def P.autoWarmStart : Nat := pkey 0x6806 0x00

/-- SELFTEST_FAILED_SEATS: index 0x6807, sub-index 0x00. -/
def P.selftestFailedSeats : Nat := pkey 0x6807 0x00

/-- SHELL_RESET: index 0x6810, sub-index 0x00. -/
def P.shellReset : Nat := pkey 0x6810 0x00

/-- DUMP_CTL: index 0x6820, sub-index 0x00. -/
def P.dumpCtl : Nat := pkey 0x6820 0x00

/-- DUMP_HOLD: index 0x6821, sub-index 0x00. -/
def P.dumpHold : Nat := pkey 0x6821 0x00

/-- DUMP_HEADER: index 0x6822, sub-index 0x00. -/
def P.dumpHeader : Nat := pkey 0x6822 0x00

/-- DUMP_CHUNK: index 0x6823, sub-index 0x01 to 0xC0, element i counted from 0. -/
def P.dumpChunk (i : Nat) : Nat := pkey 0x6823 (1 + i)

/-- DUMP_SUMMARY: index 0x6824, sub-index 0x00. -/
def P.dumpSummary : Nat := pkey 0x6824 0x00

/-- DUMP_CLEAR: index 0x6825, sub-index 0x00. -/
def P.dumpClear : Nat := pkey 0x6825 0x00

/-- EVIDENCE_REQ: index 0x7000, sub-index 0x00. -/
def P.evidenceReq : Nat := pkey 0x7000 0x00

/-- EVIDENCE: index 0x7001, sub-index 0x00. -/
def P.evidence : Nat := pkey 0x7001 0x00

/-- EVIDENCE_RESULT: index 0x7002, sub-index 0x00. -/
def P.evidenceResult : Nat := pkey 0x7002 0x00

/-- FW_STATE: index 0x7010, sub-index 0x00. -/
def P.fwState : Nat := pkey 0x7010 0x00

/-- FW_FLOOR_AUTO: index 0x7011, sub-index 0x00. -/
def P.fwFloorAuto : Nat := pkey 0x7011 0x00

/-- FW_RAISE_FLOOR: index 0x7012, sub-index 0x00. -/
def P.fwRaiseFloor : Nat := pkey 0x7012 0x00

/-- FW_RESULT: index 0x7013, sub-index 0x00. -/
def P.fwResult : Nat := pkey 0x7013 0x00

/-- WAKE_RING_BASE: index 0x7020, sub-index 0x01. -/
def P.wakeRingBase : Nat := pkey 0x7020 0x01

/-- WAKE_RING_LOG2: index 0x7020, sub-index 0x02. -/
def P.wakeRingLog2 : Nat := pkey 0x7020 0x02

/-- WAKE_RING_HEAD: index 0x7020, sub-index 0x03. -/
def P.wakeRingHead : Nat := pkey 0x7020 0x03

/-- WAKE_RING_TAIL: index 0x7020, sub-index 0x04. -/
def P.wakeRingTail : Nat := pkey 0x7020 0x04

/-- SEAL_RING_BASE: index 0x7021, sub-index 0x01. -/
def P.sealRingBase : Nat := pkey 0x7021 0x01

/-- SEAL_RING_LOG2: index 0x7021, sub-index 0x02. -/
def P.sealRingLog2 : Nat := pkey 0x7021 0x02

/-- SEAL_RING_HEAD: index 0x7021, sub-index 0x03. -/
def P.sealRingHead : Nat := pkey 0x7021 0x03

/-- SEAL_RING_TAIL: index 0x7021, sub-index 0x04. -/
def P.sealRingTail : Nat := pkey 0x7021 0x04

/-- DEBUG_CTL: index 0x7100 + s, sub-index 0x01. -/
def P.debugCtl (s : Nat) : Nat := pkey (0x7100 + s) 0x01

/-- DEBUG_STATE: index 0x7100 + s, sub-index 0x02. -/
def P.debugState (s : Nat) : Nat := pkey (0x7100 + s) 0x02

/-- DEBUG_SEEN: index 0x7100 + s, sub-index 0x03. -/
def P.debugSeen (s : Nat) : Nat := pkey (0x7100 + s) 0x03

/-- DBG_ADDR: index 0x7100 + s, sub-index 0x04. -/
def P.dbgAddr (s : Nat) : Nat := pkey (0x7100 + s) 0x04

/-- DBG_DATA: index 0x7100 + s, sub-index 0x05. -/
def P.dbgData (s : Nat) : Nat := pkey (0x7100 + s) 0x05

/-- WAKE_HEAD: index 0x7100 + s, sub-index 0x06. -/
def P.wakeHead (s : Nat) : Nat := pkey (0x7100 + s) 0x06

/-- WAKE_LAST_INDEX: index 0x7100 + s, sub-index 0x07. -/
def P.wakeLastIndex (s : Nat) : Nat := pkey (0x7100 + s) 0x07

/-- IMAGE_SEAL_EK: index 0x7100 + s, sub-index 0x08. -/
def P.imageSealEk (s : Nat) : Nat := pkey (0x7100 + s) 0x08

/-- WAKE_UNEXPORTED: index 0x7100 + s, sub-index 0x09. -/
def P.wakeUnexported (s : Nat) : Nat := pkey (0x7100 + s) 0x09

/-- INPUT_MV: index 0x8000, sub-index 0x01. -/
def P.inputMv : Nat := pkey 0x8000 0x01

/-- INPUT_POWER_W: index 0x8000, sub-index 0x02. -/
def P.inputPowerW : Nat := pkey 0x8000 0x02

/-- MODULE_ENERGY_MJ: index 0x8000, sub-index 0x03. -/
def P.moduleEnergyMj : Nat := pkey 0x8000 0x03

/-- PLATFORM_ENERGY_MJ: index 0x8000, sub-index 0x04. -/
def P.platformEnergyMj : Nat := pkey 0x8000 0x04

/-- BUDGET_OVERRUNS: index 0x8000, sub-index 0x05. -/
def P.budgetOverruns : Nat := pkey 0x8000 0x05

/-- DIE_TEMP_C: index 0x8001, sub-index 0x01 to 0x19, element i counted from 0. -/
def P.dieTempC (i : Nat) : Nat := pkey 0x8001 (1 + i)

/-- REG_ALERTS: index 0x8002, sub-index 0x01. -/
def P.regAlerts : Nat := pkey 0x8002 0x01

/-- RACK_ALERTS: index 0x8002, sub-index 0x02. -/
def P.rackAlerts : Nat := pkey 0x8002 0x02

/-- PWRBRK_ALERTS: index 0x8002, sub-index 0x03. -/
def P.pwrbrkAlerts : Nat := pkey 0x8002 0x03

/-- THERMAL_ALERTS: index 0x8002, sub-index 0x04. -/
def P.thermalAlerts : Nat := pkey 0x8002 0x04

/-- THERMAL_THROTTLES: index 0x8002, sub-index 0x05. -/
def P.thermalThrottles : Nat := pkey 0x8002 0x05

/-- LEND_EVENTS: index 0x8002, sub-index 0x06. -/
def P.lendEvents : Nat := pkey 0x8002 0x06

/-- LINK_REPLAYS: index 0x8200, sub-index 0x01 to 0x31, element i counted from 0. -/
def P.linkReplays (i : Nat) : Nat := pkey 0x8200 (1 + i)

/-- LINK_FAILED_MASK: index 0x8201, sub-index 0x00. -/
def P.linkFailedMask : Nat := pkey 0x8201 0x00

/-- NET_TIMEOUTS: index 0x8202, sub-index 0x00. -/
def P.netTimeouts : Nat := pkey 0x8202 0x00

/-- NET_LATE_RESPONSES: index 0x8202, sub-index 0x01. -/
def P.netLateResponses : Nat := pkey 0x8202 0x01

/-- RED_REFUSALS: index 0x8203, sub-index 0x00. -/
def P.redRefusals : Nat := pkey 0x8203 0x00

/-- PEG_WRITES_MALFORMED: index 0x8204, sub-index 0x01. -/
def P.pegWritesMalformed : Nat := pkey 0x8204 0x01

/-- IMAGE_REDIRECTS: index 0x8204, sub-index 0x02. -/
def P.imageRedirects : Nat := pkey 0x8204 0x02

/-- PEG_HOLD_FULL: index 0x8204, sub-index 0x03. -/
def P.pegHoldFull : Nat := pkey 0x8204 0x03

/-- CH_CORRECTED: index 0x8210, sub-index 0x01 to 0x60, element i counted from 0. -/
def P.chCorrected (i : Nat) : Nat := pkey 0x8210 (1 + i)

/-- CH_UNCORRECTABLE: index 0x8211, sub-index 0x01 to 0x60, element i counted from 0. -/
def P.chUncorrectable (i : Nat) : Nat := pkey 0x8211 (1 + i)

/-- CH_CRC_RETRIES: index 0x8212, sub-index 0x01 to 0x60, element i counted from 0. -/
def P.chCrcRetries (i : Nat) : Nat := pkey 0x8212 (1 + i)

/-- CXL_TIMEOUTS: index 0x8213, sub-index 0x01 to 0x08, element i counted from 0. -/
def P.cxlTimeouts (i : Nat) : Nat := pkey 0x8213 (1 + i)

/-- CXL_POISON: index 0x8214, sub-index 0x01 to 0x08, element i counted from 0. -/
def P.cxlPoison (i : Nat) : Nat := pkey 0x8214 (1 + i)

/-- RT_UPDATES_DROPPED: index 0x8220, sub-index 0x01. -/
def P.rtUpdatesDropped : Nat := pkey 0x8220 0x01

/-- TR_CONFIG_IGNORED: index 0x8220, sub-index 0x02. -/
def P.trConfigIgnored : Nat := pkey 0x8220 0x02

/-- FAULT_BATCHES: index 0x8220, sub-index 0x03. -/
def P.faultBatches : Nat := pkey 0x8220 0x03

/-- FAULT_TIMEOUTS: index 0x8220, sub-index 0x04. -/
def P.faultTimeouts : Nat := pkey 0x8220 0x04

/-- RANGE_CACHE_MISSES: index 0x8220, sub-index 0x05. -/
def P.rangeCacheMisses : Nat := pkey 0x8220 0x05

/-- CTX_CMD_DROPPED: index 0x8230, sub-index 0x01. -/
def P.ctxCmdDropped : Nat := pkey 0x8230 0x01

/-- FN_CONFIG_IGNORED: index 0x8230, sub-index 0x02. -/
def P.fnConfigIgnored : Nat := pkey 0x8230 0x02

/-- UC_SUPPRESSED: index 0x8230, sub-index 0x03. -/
def P.ucSuppressed : Nat := pkey 0x8230 0x03

/-- POISON_ADVANCES: index 0x8230, sub-index 0x04. -/
def P.poisonAdvances : Nat := pkey 0x8230 0x04

/-- CONTEXT_SWAPS: index 0x8230, sub-index 0x05. -/
def P.contextSwaps : Nat := pkey 0x8230 0x05

/-- HQ_TAIL_IGNORED: index 0x8231, sub-index 0x01. -/
def P.hqTailIgnored : Nat := pkey 0x8231 0x01

/-- FETCH_RETRIES: index 0x8231, sub-index 0x02. -/
def P.fetchRetries : Nat := pkey 0x8231 0x02

/-- PREEMPTIONS: index 0x8231, sub-index 0x03. -/
def P.preemptions : Nat := pkey 0x8231 0x03

/-- PREEMPT_NO_AREA: index 0x8231, sub-index 0x04. -/
def P.preemptNoArea : Nat := pkey 0x8231 0x04

/-- CMD_TIMEOUTS: index 0x8231, sub-index 0x05. -/
def P.cmdTimeouts : Nat := pkey 0x8231 0x05

/-- CONTEXT_SCRUBS: index 0x8231, sub-index 0x06. -/
def P.contextScrubs : Nat := pkey 0x8231 0x06

/-- SPR_WRITES_DISCARDED: index 0x8240, sub-index 0x01. -/
def P.sprWritesDiscarded : Nat := pkey 0x8240 0x01

/-- SPR_OVERRUNS: index 0x8240, sub-index 0x02. -/
def P.sprOverruns : Nat := pkey 0x8240 0x02

/-- SPR_EGRESS_IGNORED: index 0x8240, sub-index 0x03. -/
def P.sprEgressIgnored : Nat := pkey 0x8240 0x03

/-- SPR_RESULTS_FAILED: index 0x8240, sub-index 0x04. -/
def P.sprResultsFailed : Nat := pkey 0x8240 0x04

/-- PAP_PROTOCOL_ERRORS: index 0x8250, sub-index 0x01. -/
def P.papProtocolErrors : Nat := pkey 0x8250 0x01

/-- AUTH_FAILURES: index 0x8250, sub-index 0x02. -/
def P.authFailures : Nat := pkey 0x8250 0x02

/-- SEGMENTS_ABANDONED: index 0x8250, sub-index 0x03. -/
def P.segmentsAbandoned : Nat := pkey 0x8250 0x03

/-- MCTP_RX_DROPPED: index 0x8250, sub-index 0x04. -/
def P.mctpRxDropped : Nat := pkey 0x8250 0x04

/-- MCTP_TX_DROPPED: index 0x8250, sub-index 0x05. -/
def P.mctpTxDropped : Nat := pkey 0x8250 0x05

/-- MBX_DOORBELL_DROPPED: index 0x8250, sub-index 0x06. -/
def P.mbxDoorbellDropped : Nat := pkey 0x8250 0x06

/-- ISLAND_CLOSED_DISCARDS: index 0x8251, sub-index 0x00. -/
def P.islandClosedDiscards : Nat := pkey 0x8251 0x00

/-- GH_REPLAYS: index 0x8260, sub-index 0x01 to 0x10, element i counted from 0. -/
def P.ghReplays (i : Nat) : Nat := pkey 0x8260 (1 + i)

/-- GH_PORT_FAILURES: index 0x8261, sub-index 0x01 to 0x10, element i counted from 0. -/
def P.ghPortFailures (i : Nat) : Nat := pkey 0x8261 (1 + i)

/-- GH_RX_DENIED: index 0x8262, sub-index 0x01. -/
def P.ghRxDenied : Nat := pkey 0x8262 0x01

/-- GH_TIMEOUTS: index 0x8262, sub-index 0x02. -/
def P.ghTimeouts : Nat := pkey 0x8262 0x02

/-- GH_LATE_RESPONSES: index 0x8262, sub-index 0x03. -/
def P.ghLateResponses : Nat := pkey 0x8262 0x03

/-- ADM_PROTOCOL_ERRORS: index 0x8262, sub-index 0x04. -/
def P.admProtocolErrors : Nat := pkey 0x8262 0x04

/-- BH_HELD_TRANSFERS: index 0x8262, sub-index 0x05. -/
def P.bhHeldTransfers : Nat := pkey 0x8262 0x05

/-- BH_ORPHANED: index 0x8262, sub-index 0x06. -/
def P.bhOrphaned : Nat := pkey 0x8262 0x06

/-- BH_OWNER_LOST: index 0x8262, sub-index 0x07. -/
def P.bhOwnerLost : Nat := pkey 0x8262 0x07

/-- BH_EXPIRED: index 0x8262, sub-index 0x08. -/
def P.bhExpired : Nat := pkey 0x8262 0x08

/-- GH_CREDIT_STALLS: index 0x8262, sub-index 0x09. -/
def P.ghCreditStalls : Nat := pkey 0x8262 0x09

/-- RESIDUE_FAILS: index 0x8280, sub-index 0x01. -/
def P.residueFails : Nat := pkey 0x8280 0x01

/-- GUARD_FAILS: index 0x8280, sub-index 0x02. -/
def P.guardFails : Nat := pkey 0x8280 0x02

/-- SRAM_CORRECTED: index 0x8280, sub-index 0x03. -/
def P.sramCorrected : Nat := pkey 0x8280 0x03

/-- SRAM_UNCORRECTABLE: index 0x8280, sub-index 0x04. -/
def P.sramUncorrectable : Nat := pkey 0x8280 0x04

/-- PARITY_ERRORS: index 0x8280, sub-index 0x05. -/
def P.parityErrors : Nat := pkey 0x8280 0x05

/-- MONITOR_EVENTS: index 0x8280, sub-index 0x06. -/
def P.monitorEvents : Nat := pkey 0x8280 0x06

/-- SIGNATURE_FAILS: index 0x8280, sub-index 0x07. -/
def P.signatureFails : Nat := pkey 0x8280 0x07

/-- TENDER_WATCHDOGS: index 0x8280, sub-index 0x08. -/
def P.tenderWatchdogs : Nat := pkey 0x8280 0x08

/-- EXPOSURE_RECORDS: index 0x8280, sub-index 0x09. -/
def P.exposureRecords : Nat := pkey 0x8280 0x09

/-- COLD_STARTS: index 0x82A0, sub-index 0x01. -/
def P.coldStarts : Nat := pkey 0x82A0 0x01

/-- WARM_STARTS: index 0x82A0, sub-index 0x02. -/
def P.warmStarts : Nat := pkey 0x82A0 0x02

/-- SHELL_RESETS: index 0x82A0, sub-index 0x03. -/
def P.shellResets : Nat := pkey 0x82A0 0x03

/-- ISLAND_HANGS: index 0x82A0, sub-index 0x04. -/
def P.islandHangs : Nat := pkey 0x82A0 0x04

/-- COX_WATCHDOGS: index 0x82A0, sub-index 0x05. -/
def P.coxWatchdogs : Nat := pkey 0x82A0 0x05

/-- DUMPS_TAKEN: index 0x82A0, sub-index 0x06. -/
def P.dumpsTaken : Nat := pkey 0x82A0 0x06

/-- DUMPS_SKIPPED: index 0x82A0, sub-index 0x07. -/
def P.dumpsSkipped : Nat := pkey 0x82A0 0x07

/-- FORCED_CLOSE_DISCARDS: index 0x82A0, sub-index 0x08. -/
def P.forcedCloseDiscards : Nat := pkey 0x82A0 0x08

/-- WKEY_LOADS: index 0x82C0, sub-index 0x01. -/
def P.wkeyLoads : Nat := pkey 0x82C0 0x01

/-- WKEY_FAILURES: index 0x82C0, sub-index 0x02. -/
def P.wkeyFailures : Nat := pkey 0x82C0 0x02

/-- EVIDENCE_SIGNED: index 0x82C0, sub-index 0x03. -/
def P.evidenceSigned : Nat := pkey 0x82C0 0x03

/-- SEALS_SIGNED: index 0x82C0, sub-index 0x04. -/
def P.sealsSigned : Nat := pkey 0x82C0 0x04

/-- DEBUG_OPENS: index 0x82C0, sub-index 0x05. -/
def P.debugOpens : Nat := pkey 0x82C0 0x05

/-- LINK_AUTH_FAILURES: index 0x82C0, sub-index 0x06. -/
def P.linkAuthFailures : Nat := pkey 0x82C0 0x06

/-- CRED_FAILURES: index 0x82C0, sub-index 0x07. -/
def P.credFailures : Nat := pkey 0x82C0 0x07

/-- The row of a parameter's key, if the dictionary has it (13 R461). CONTEXT_STORE_CHANNEL and CONTEXTS_MAX stand at indices that 0x1400 + f reaches too,
and come first (DESIGN CHOICE, log 92). -/
def paramRow (k : Nat) : Option ParamRow :=
  paramRows.find? (fun r => decide (r.base ≤ k / 256) && decide (k / 256 < r.base + r.count)
    && decide (r.lo ≤ k % 256) && decide (k % 256 ≤ r.hi))

/-- What a parameter that nothing has written reads as: its default (13 R429, R434). Three defaults depend on the
entry: REG_CAPACITY's entries (08 R301), and PF0's quotas (10 R336, log 6). A LEVEL of 0 stands for the default of the composition mode
(13 R456). -/
def paramDefault (k : Nat) : Nat :=
  if k = P.regCapacity 0 then 24000
  else if k = P.regCapacity 1 then 8000
  else if k = P.regCapacity 2 then 5000
  else if k = P.regCapacity 3 then 1080
  else if P.regCapacity 4 ≤ k ∧ k ≤ P.regCapacity 11 then 540
  else if k = P.ctxQuota 0 then 65536
  else if k = P.seqSlotQuota 0 then 4096
  else if k = P.sprintSlotQuota 0 then 1024
  else match paramRow k with
    | some r => r.default
    | none => 0

/-- Whether a parameter's value is kept in flash (13 R431). -/
def isFlash (k : Nat) : Bool :=
  match paramRow k with
  | some r => decide (r.persist = .flash) || decide (r.persist = .identity)
  | none => false

end Sys2Proof.Machine
end

