-- ==== Sys2Proof/Machine/State.lean ====
section
/-! DEFINITION. The state of the block, as plain data, and the state right after reset. -/
namespace Sys2Proof.Machine

/-- Reasons the machine stops. There are none: every error the spec describes is a change of the block's state, an
answer or a counter, so no step of the model faults. -/
inductive Fault where
  deriving DecidableEq, Repr

/-- Reasons a command has no meaning in the model. -/
inductive Refusal where
  /-- Raised by an arm of exec whose command has no meaning yet. Safe: nothing is claimed of the command. -/
  | notModelled (mnemonic : String)
  deriving DecidableEq, Repr

/-- The state of the block: everything the spec gives it, and the queue of waiting commands. -/
structure State where
  /-- Commands that wait, first in first out. -/
  pending : List Instr := []
  /-- The time base in ns (00 R17). -/
  tb : Nat := 0
  /-- What has left the device, in order. -/
  sent : List Sent := []
  /-- Dictionary parameters by key, the staged values of shadowed ones, and byte-string parameters (13 R424-R434). -/
  regs : Tbl Nat := []
  staged : Tbl Nat := []
  octs : Tbl Bytes := []
  stagedOcts : Tbl Bytes := []
  pins : Pins := {}
  start : StartSt := {}
  retained : Retained := {}
  flash : Flash := {}
  islands : Tbl Island := []
  /-- All memory of the module by global physical address (07 Table Model-1). -/
  mem : Tbl Byte := []
  shells : Tbl Shell := []
  seats : Tbl Seat := []
  /-- Seats and channels being scrubbed outside a shell, and retired or failed seats (02 R50, 16 R534). -/
  scrubSeats : List Nat := []
  scrubChans : List Nat := []
  retiredSeats : List Nat := []
  /-- Images by shell slot × 16 + image: 0 to 3 pre-emption images, 8 the save image (02 R79, 11 R393). -/
  images : Tbl Image := []
  chans : Tbl Chan := []
  cxlPorts : Tbl CxlPort := []
  /-- Active CXL range records (08 R283). -/
  cxlRanges : Tbl Nat := []
  cxlRun : Option CxlRun := none
  cxlScrub : List Nat := []
  /-- The host port's trained PCIe generation and width (08 R290); 0 while nothing is trained. -/
  hostGen : Nat := 0
  hostWidth : Nat := 0
  /-- The capacity of a ring attachment and of a ring segment while the ring clock is derated (08 Table Tiers-8). -/
  ringDerate : Option (Nat × Nat) := none
  /-- When the capacity of each class last changed, and the classes whose scale waits to rise (08 R296). -/
  tbCapacity : Tbl Nat := []
  scaleHold : List Nat := []
  /-- Bytes that a shell may have in the present 1 µs slot of a class, by slot × 16 + class (08 R300). -/
  pace : Tbl Nat := []
  /-- Who holds each die slice: by die × 48 + slice, a shell slot, 32 for a context's queue, 33 while zeroed, 34 for a retired
  slice (09 R305, 17 R557). -/
  slices : Tbl Nat := []
  /-- Addresses of the 8-byte words of die slices whose SECDED error cannot be corrected (17 R557; log 72). -/
  sliceBad : List Nat := []
  seqSlots : Tbl Nat := []
  /-- Pages with a cached translation: fn × 2^44 + page, and the translated page with its write grant (09 R317). -/
  atc : Tbl (Nat × Bool) := []
  /-- The range cache of each die: entries by context × 4,096 + index, the one longest held first (09 R316). -/
  rangeCaches : Tbl (List Nat) := []
  /-- Unison-add packets on their way, oldest first, and acknowledgements not yet back (06 R220 to R225). -/
  red : List RedPkt := []
  redAcks : List RedAck := []
  /-- Packets toward seats that wait in bridges or at their sources for credit, oldest first (06 R210), and posted writes refused with a
  status that no parameter counts (06 R214). -/
  upstream : List NetPkt := []
  refused : Nat := 0
  /-- Requests that have been answered TIMEOUT and whose response is still to come (06 R213). -/
  late : Nat := 0
  /-- When a hold of a seat window last ended (08 R299). -/
  tbHold : Option Nat := none
  /-- When each link made its replays of the last millisecond (06 R217). -/
  linkRate : Tbl (List Nat) := []
  fns : Tbl FnSt := []
  fnRegs : Tbl Nat := []
  numVfs : Nat := 0
  ctxs : Tbl Ctx := []
  /-- Context identifiers: the next one never used (65,536 stands for 0), and those freed, oldest first (10 R339). -/
  nextCtxId : Nat := 1
  freeIds : List Nat := []
  swapping : List Nat := []
  ucRecs : Tbl Bytes := []
  dmwr : List Dmwr := []
  /-- Fence advances that wait for an ATS translation of their word: context, fence index and value (07 R253, 09 R317). -/
  advWaits : List (Nat × Nat × Nat) := []
  /-- Fence advances of MD over Ghengo that are not answered yet (07 R253, 14 R470). -/
  advFar : List AdvFar := []
  /-- Writes to keys that move, forwarded and not acknowledged yet (14 R493). -/
  bhFwd : List BhFwd := []
  sprints : Tbl Sprint := []
  /-- The next number of a posted object that the device names (deferrable writes, requests). -/
  nextId : Nat := 0
  errSeq : Nat := 0
  errLog : List ErrRec := []
  sessions : Tbl Session := []
  endpoints : Tbl Endpoint := []
  /-- Session identifiers: the next one never used (65,536 stands for none), and those freed, oldest first (13 R443). -/
  nextSession : Nat := 1
  freeSessions : List Nat := []
  mbxs : Tbl Mbx := []
  /-- Endpoint identifiers by binding, 0 I3C and 1 PCIe VDM (13 R437), and assembled messages: binding, sender, tag, bytes. -/
  eids : Tbl Nat := []
  mctpIn : List (Nat × Nat × Nat × Bytes) := []
  /-- Dictionary requests in the order in which their messages were complete, and whether one of their session stood undecided then (13 R434, R447). -/
  papQueue : List (PapFrom × Bool) := []
  /-- When the last MCTP message was offered, and its place among what was sent (13 R455). -/
  mctpOffer : Option (Nat × Nat) := none
  /-- Request messages over MCTP of the present 100 ms, and when it began (13 R455). -/
  mctpCount : Nat := 0
  tbMctp : Nat := 0
  wake : Tbl WakeSt := []
  /-- Ghengo ports, Ademen messages and leases, channels and the Boathouse (14). -/
  ghPorts : Tbl GhPort := []
  ghTxn : Nat := 0
  /-- The next TAG of a packet over Ghengo (14 Table Ghengo-3). -/
  ghTag : Nat := 0
  /-- Packets and messages in the link blocks that wait, oldest first (14 R466, R469, R471). -/
  ghWaiting : List GhWait := []
  ghMsgs : List GhMsg := []
  ghKept : List GhKept := []
  /-- Ghengo requests that have been answered TIMEOUT and whose response is still to come (14 R470). -/
  ghLate : Nat := 0
  shardEpoch : Nat := 0
  nextLease : Nat := 1
  borrowed : List LeaseIn := []
  lent : List LeaseOut := []
  /-- LEND records of ended leases, newest last (14 R485). -/
  lendLog : List Nat := []
  /-- Leases ended whose resources are still being scrubbed. -/
  lentEnding : List (LeaseOut × Nat) := []
  gchans : Tbl GhChan := []
  bhHomes : List BhHome := []
  bhHeld : List BhHeld := []
  /-- The owning context of each Boathouse aperture (14 Table Ghengo-6). -/
  bhApertures : Tbl Nat := []
  /-- Channels that left the pool for the Boathouse, and its CXL ranges (14 R490). -/
  bhChannels : List Nat := []
  bhRanges : List Nat := []
  power : PowerSt := {}
  fw : FwUpdate := {}
  /-- The model's own field: how many free values have been used (log 1). -/
  freeCtr : Nat := 0
  deriving DecidableEq, Repr

/-- The outcome of a command. -/
abbrev Ans := Host.Outcome State Fault Refusal

/-- The state right after reset: 54 V absent, everything volatile empty, and the flash as the module leaves the
factory (00 R1, 16 R526, 19 R614). -/
def State.reset : State := {}

end Sys2Proof.Machine
end

