-- ==== Sys2Proof/Machine/Ops.lean ====
section
/-! DEFINITION. The named operations over the state: parameters, tables of structures, what leaves the device,
memory bytes, seat windows and pegs. -/
namespace Sys2Proof.Machine

/-! ### Parameters (13 R424-R434) -/

/-- The value of a scalar parameter. -/
def pget (s : State) (k : Nat) : Nat := tget paramDefault s.regs k

/-- The state with a scalar parameter set. -/
def pset (s : State) (k v : Nat) : State := { s with regs := tset paramDefault s.regs k v }

/-- The state with a saturating 32-bit counter one higher (13 R460). -/
def pinc (s : State) (k : Nat) : State := pset s k (satInc32 (pget s k))

/-- A byte-string parameter. -/
def octGet (s : State) (k : Nat) : Bytes := tget (fun _ => []) s.octs k
def octPut (s : State) (k : Nat) (b : Bytes) : State := { s with octs := tset (fun _ => []) s.octs k b }

/-- The staged value of a shadowed scalar: the active one while nothing is staged (13 R430). -/
def stagedGet (s : State) (k : Nat) : Nat := (tfind s.staged k).getD (pget s k)

/-! ### Structures by number -/

def ctxOf (s : State) (k : Nat) : Ctx := tget (fun _ => {}) s.ctxs k
def ctxPut (s : State) (k : Nat) (v : Ctx) : State := { s with ctxs := tset (fun _ => {}) s.ctxs k v }
def shellOf (s : State) (k : Nat) : Shell := tget (fun _ => {}) s.shells k
def shellPut (s : State) (k : Nat) (v : Shell) : State := { s with shells := tset (fun _ => {}) s.shells k v }
def seatOf (s : State) (k : Nat) : Seat := tget (fun _ => {}) s.seats k
def seatPut (s : State) (k : Nat) (v : Seat) : State := { s with seats := tset (fun _ => {}) s.seats k v }
def chanOf (s : State) (k : Nat) : Chan := tget (fun _ => {}) s.chans k
def chanPut (s : State) (k : Nat) (v : Chan) : State := { s with chans := tset (fun _ => {}) s.chans k v }
def cxlPortOf (s : State) (k : Nat) : CxlPort := tget (fun _ => {}) s.cxlPorts k
def cxlPortPut (s : State) (k : Nat) (v : CxlPort) : State := { s with cxlPorts := tset (fun _ => {}) s.cxlPorts k v }
def islandOf (s : State) (k : Nat) : Island := tget (fun _ => {}) s.islands k
def islandPut (s : State) (k : Nat) (v : Island) : State := { s with islands := tset (fun _ => {}) s.islands k v }
def fnOf (s : State) (k : Nat) : FnSt := tget (fun _ => {}) s.fns k
def fnStPut (s : State) (k : Nat) (v : FnSt) : State := { s with fns := tset (fun _ => {}) s.fns k v }
def sprintOf (s : State) (k : Nat) : Sprint := tget (fun _ => {}) s.sprints k
def sprintPut (s : State) (k : Nat) (v : Sprint) : State := { s with sprints := tset (fun _ => {}) s.sprints k v }
def wakeOf (s : State) (k : Nat) : WakeSt := tget (fun _ => {}) s.wake k
def wakePut (s : State) (k : Nat) (v : WakeSt) : State := { s with wake := tset (fun _ => {}) s.wake k v }
def imageOf (s : State) (k : Nat) : Image := tget (fun _ => {}) s.images k
def imagePut (s : State) (k : Nat) (v : Image) : State := { s with images := tset (fun _ => {}) s.images k v }
def portOf (s : State) (k : Nat) : GhPort := tget (fun _ => {}) s.ghPorts k
def portPut (s : State) (k : Nat) (v : GhPort) : State := { s with ghPorts := tset (fun _ => {}) s.ghPorts k v }
def gchanOf (s : State) (k : Nat) : GhChan := tget (fun _ => {}) s.gchans k
def gchanPut (s : State) (k : Nat) (v : GhChan) : State := { s with gchans := tset (fun _ => {}) s.gchans k v }
def sliceOwner (s : State) (k : Nat) : Option Nat := tfind s.slices k

/-- Whether a span meets a word of a die slice that cannot be corrected, and such words gone where a span is written whole (17 R557). -/
def sliceMeetsBad (s : State) (a n : Nat) : Bool := s.sliceBad.any (fun w => decide (w < a + n) && decide (a < w + 8))
def sliceHeal (s : State) (a n : Nat) : State := { s with sliceBad := s.sliceBad.filter (fun w => !(decide (a ≤ w) && decide (w + 8 ≤ a + n))) }

/-- What a function's register reads as while nothing has written it: INT_MASK is all ones (10 Table Host-2) and the
MSI-X vectors are masked (log 12). -/
def fnRegDefault (k : Nat) : Nat :=
  let off := k % 0x10000
  if off = 0x88 then 0xFFFFFFFFFFFFFFFF
  else if 0x1000 ≤ off ∧ off < 0x1200 ∧ off % 16 = 12 then 1
  else 0

/-- A register of a function, by its offset in BAR0 (10 R338). -/
def fnGet (s : State) (fn off : Nat) : Nat := tget fnRegDefault s.fnRegs (fn * 0x10000 + off)
def fnPut (s : State) (fn off v : Nat) : State := { s with fnRegs := tset fnRegDefault s.fnRegs (fn * 0x10000 + off) v }

/-- The interface level of a function: its default follows COMPOSITION_MODE (13 R456). -/
def levelOf (s : State) (fn : Nat) : Nat :=
  if pget s (P.level fn) ≠ 0 then pget s (P.level fn) else if pget s P.compositionMode = 1 then 1 else 2

/-- Whether the Cox runs the device: from minimal safe function on, until a lockstep stop halts it (16 R530, 17 R560). -/
def coxRuns (s : State) : Bool := s.start.msf && !s.start.releasesStopped

/-- Whether the dictionary answers at all: while the Cox runs, and not after a failed identity or signature (16 R530). -/
def dictUp (s : State) : Bool := coxRuns s && !s.start.sigFault && !s.start.entry

/-- Whether the dictionary takes writes of live parameters in 0x3000 to 0x5FFF: from full function on (13 R435). -/
def fullUp (s : State) : Bool := dictUp s && (pget s P.startStage == 5 || pget s P.startStage == 6)

/-- Something leaves the device. -/
def emit (s : State) (x : Sent) : State := { s with sent := s.sent ++ [x] }

/-! ### The transmitting side of Ghengo ports (14 R466 to R471) -/

/-- The port by which an agent's packets to a module travel: of the holder's ports that face it and are UP, the one at position SRC_AGENT mod k
(14 R469). -/
def agentPort (s : State) (src dst : Nat) (ports : List Nat) : Option Nat :=
  let l := (List.range 16).filter (fun p => ports.contains p && (portOf s p).st == 3 && (portOf s p).peer == dst)
  l[src % l.length]?

/-- Whether a packet still waits for the answers to stores of its agent (14 R469). -/
def ghHeldBack (s : State) (w : GhWait) : Bool := (seatOf s w.agent).core.stores.any (fun x => w.after.contains x.tag)

/-- The module to which a packet goes. -/
def ghDst (w : GhWait) : Option Nat := match w.out with | .ghPacket _ dst _ _ _ _ _ _ _ _ _ => some dst | _ => none

/-- Whether a packet can leave: what it waits for is answered, nothing of its virtual channel goes before it, no write of its agent to the same module waits
before a peg write, and there is credit (07 R251, 14 R466, R469). -/
def ghGoes (s : State) (w : GhWait) : Bool :=
  !ghHeldBack s w && !(w.gv == 3 && s.ghWaiting.any (fun x => x.gv == 0 && x.agent == w.agent && ghDst x == ghDst w)) && !s.ghWaiting.any (fun x => x.port == w.port && x.gv == w.gv && (x.agent == w.agent || !ghHeldBack s x))
    && decide (w.units ≤ (portOf s w.port).credit.getD w.gv 0)

/-- A packet or message comes to the link block of a port: it leaves and takes its credit, or waits; at a port that is not UP it is discarded
(14 R466, R471). -/
def ghOut (s : State) (w : GhWait) : State :=
  let g := portOf s w.port
  if 16 ≤ w.port ∨ g.st ≠ 3 then s
  else if ghGoes s w then
    let c := g.credit.getD w.gv 0 - w.units
    emit (portPut s w.port { g with credit := g.credit.set w.gv c, tbZero := if c = 0 then g.tbZero.set w.gv s.tb else g.tbZero }) w.out
  else { s with ghWaiting := s.ghWaiting ++ [w] }

/-- What waits in the link blocks goes on as far as it can, in order, messages before packets: GV5 goes before every other channel (14 R467). -/
def ghFlush (s : State) : State :=
  (s.ghWaiting.filter (fun w => w.gv == 5) ++ s.ghWaiting.filter (fun w => w.gv != 5)).foldl ghOut { s with ghWaiting := [] }

/-- The ports of a lease record, by its PORT_MASK (14 Table Ghengo-7). -/
def recPorts (r : Nat) : List Nat := (List.range 16).filter (fun p => bitOf (bitsOf r 143 128) p)

/-- The newest `n` of a list. -/
def keepNewest {α : Type} (n : Nat) (l : List α) : List α := l.drop (l.length - n)

/-- A free value is taken: the counter moves on (log 1). -/
def freeNext (s : State) : State := { s with freeCtr := s.freeCtr + 1 }

/-- A number put together from (low bit, value) fields. -/
def pack (fs : List (Nat × Nat)) : Nat := fs.foldl (fun a f => a + f.2 * 2 ^ f.1) 0

/-! ### Memory bytes (07 R230) -/

/-- What an unlisted byte of memory holds: zero, since a start initialises channels, ranges, slices and scratchpads to zero (08 R280,
R287, 09 R305, 02 R50). Of a channel or a CXL range that is zero ciphertext, which reads as `cellPad` says (18 R575). -/
def memDefault (_ : Nat) : Byte := 0

def memGet (s : State) (a : Nat) : Byte := tget memDefault s.mem a

/-- `n` bytes of memory from address `a`. -/
def memRead (s : State) (a n : Nat) : Bytes := (List.range n).map (fun i => memGet s (a + i))

/-- Bytes put into a table from address `a` on. -/
def memSet (t : Tbl Byte) : Nat → Bytes → Tbl Byte
  | _, [] => t
  | a, b :: r => memSet (tset memDefault t a b) (a + 1) r

/-- The state with bytes stored from address `a` on. -/
def memWrite (s : State) (a : Nat) (b : Bytes) : State := { s with mem := memSet s.mem a b }

/-- The canonical form of the memory. -/
def Memory.wf (s : State) : Bool := twf memDefault s.mem

/-- Memory with every byte from `a` to `a + n` zero: listed bytes of the span are taken out. -/
def memZero (s : State) (a n : Nat) : State := { s with mem := s.mem.filter (fun e => !(decide (a ≤ e.1) && decide (e.1 < a + n))) }

/-- The nonzero bytes of a span, by offset. -/
def memSparse (s : State) (a n : Nat) : List (Nat × Byte) :=
  (s.mem.filter (fun e => decide (a ≤ e.1) && decide (e.1 < a + n))).map (fun e => (e.1 - a, e.2))

/-- Store listed bytes at offsets from `a`. -/
def memLoad (s : State) (a : Nat) (l : List (Nat × Byte)) : State :=
  { s with mem := l.foldl (fun t e => tset memDefault t (a + e.1) e.2) s.mem }

/-- Copy a span of memory (02 R72): the destination holds what the source holds. -/
def memCopy (s : State) (src dst n : Nat) : State := memLoad (memZero s dst n) dst (memSparse s src n)

/-- The unsigned maximum of a 64-bit word in memory with a value (07 R253). -/
def memMaxWord (s : State) (a v : Nat) : State := memWrite s a (leBytes 8 (max v (leNat (memRead s a 8))))

/-! ### Places (07 R230-R235, 01 R30) -/

/-- The physical seat identifier of a seat: die in bits [11:8], seat in the die in bits [7:0] (01 R30). -/
def seatIdent (i : Nat) : Nat := (i / 144) * 256 + i % 144

/-- The seat of an identifier, if it names one (01 R30). -/
def seatOfIdent (id : Nat) : Option Nat :=
  if id / 256 < 16 ∧ id % 256 < 144 then some ((id / 256) * 144 + id % 256) else none

/-- Where a seat's scratchpad lies in the memory: its physical window (07 R230). -/
def scratchBase (seat : Nat) : Nat := 0x210000000000 + seatIdent seat * 0x200000

/-- Bytes of a scratchpad (05 R162). -/
def scratchBytes : Nat := 1572864

/-- Bytes of data of a channel, and where a channel lies (07 R231). -/
def chanBytes : Nat := 0x7C000000
def chanBase (c : Nat) : Nat := c * 0x80000000

/-- Where a die slice lies, by die × 48 + slice (07 R230). -/
def sliceBase (k : Nat) : Nat := 0x200000000000 + (k / 48) * 0x10000000 + (k % 48) * 0x400000

/-- The host window (07 R230). -/
def inHostWindow (ga : Nat) : Bool := decide (0x100000000000000 ≤ ga) && decide (ga < 0x200000000000000)
def hostAddr (ga : Nat) : Nat := ga - 0x100000000000000

/-- The number of seats of a lease record when it lends seats; a lease of another kind adds none (02 R47, 14 Table Ghengo-7). -/
def leaseSeats (r : Nat) : Nat := if bitsOf r 175 168 = 1 then bitsOf r 159 144 else 0

/-- Slices that stop being held are zeroed first, by no shell's account: 33 stands for that (09 R305). -/
def slicesDrop (s : State) (f : Nat → Nat → Bool) : State :=
  { s with slices := s.slices.map (fun e => if f e.1 e.2 then (e.1, 33) else e) }

/-- The slices a range entry targets (09 R305, Table Ranges-2). -/
def entrySlices (e : Nat) : List Nat :=
  if bitsOf e 207 204 = 3 then
    let first := bitsOf e 15 0 / 1024
    (List.range ((bitsOf e 15 0 + bitsOf e 150 106 - 1) / 1024 + 1 - first)).map (fun i => bitsOf e 100 97 * 48 + first + i)
  else []

/-- Slices of shells that no valid entry targets any more (09 R305). -/
def slicesSettle (s : State) : State :=
  let live := s.ctxs.flatMap (fun c => c.2.entries.flatMap (fun x => entrySlices x.2.entry))
  slicesDrop s (fun k o => decide (o < 32) && !live.contains k)

/-- The seats of a shell, leased seats included (05 Table Tender-7): a lease changed while a job runs or is pre-empted joins or
leaves later (14 R482). -/
def shellSeats (sh : Shell) : Nat := sh.rig.seats.length + (sh.joined.map leaseSeats).sum

/-! ### Leased seats at the borrower (14 R482, R483) -/

/-- The leased seats of a shell in logical order, which follow its own seats: each with its LEASE record and its number in the lease. -/
def leasedSeats (sh : Shell) : List (Nat × Nat) := sh.joined.flatMap (fun r => (List.range (leaseSeats r)).map (fun j => (r, j)))

def remoteKey (x : Nat × Nat) : Nat := x.1 / 2 ^ 208 * 4096 + x.2
def remoteOf (sh : Shell) (x : Nat × Nat) : RemoteSeat := tget (fun _ => {}) sh.remote (remoteKey x)
def remotePut (s : State) (slot : Nat) (x : Nat × Nat) (v : RemoteSeat) : State :=
  let sh := shellOf s slot
  shellPut s slot { sh with remote := tset (fun _ => {}) sh.remote (remoteKey x) v }

/-- The host port presents a function: PF0, and a VF that SR-IOV has enabled (10 R334). -/
def fnUp (s : State) (fn : Nat) : Bool := s.start.msf && (fn == 0 || (fnOf s fn).enabled)

/-- Whether a leased seat's lease is LOST: its actions are answered NO_TARGET (14 R484). -/
def remoteLost (sh : Shell) (x : Nat × Nat) : Bool := sh.lostLeases.any (fun r => r / 2 ^ 208 == x.1 / 2 ^ 208)

/-- The leased seats that take part in what the shell does. -/
def remoteLive (sh : Shell) : List (Nat × Nat) := (leasedSeats sh).filter (fun x => !remoteLost sh x)

/-- Whether some action is out at a lender. -/
def remoteBusy (sh : Shell) : Bool := (remoteLive sh).any (fun x => (remoteOf sh x).pending)

/-- A packet of GV4 toward a module over the ports of a lease; with none UP it does not leave (14 R466, R469, R483). A copy of a seat's data takes the
credit of one packet of maximum size (log 49). -/
def ghSeatSend (s : State) (dst : Nat) (ports : List Nat) (bulk : Bool) (x : Sent) : State :=
  match agentPort s 0xFFFF dst ports with
  | some p => ghOut s { port := p, gv := 4, units := if bulk then 5 else 1, agent := 0xFFFF, tb := s.tb, out := x }
  | none => s

/-- Send a seat action to the lender, and note what the borrower knows from then on. -/
def remoteSend (s : State) (slot : Nat) (x : Nat × Nat) (a : SeatAction) (v : RemoteSeat) : State :=
  let bulk := match a with | .prefill _ _ => true | .restore _ _ => true | _ => false
  ghSeatSend (remotePut s slot x v) (bitsOf x.1 255 240) (recPorts x.1) bulk (.seatAction (bitsOf x.1 255 240) (bitsOf x.1 239 208) x.2 a)

/-- The shell slot that holds a seat, if any. -/
def seatShell (s : State) (seat : Nat) : Option Nat := (s.shells.find? (fun e => e.2.st != .free && e.2.rig.seats.contains seat)).map (·.1)

/-- The lease under which a seat is lent, and its number in it (14 R480). -/
def lentOf (s : State) (seat : Nat) : Option (LeaseOut × Nat) :=
  (s.lent.find? (fun l => l.kind == 1 && l.res.contains seat)).map (fun l => (l, l.res.idxOf seat))

/-- A report to the borrower of lease `l` on its seat `j` (14 R483). -/
def reportSend (s : State) (l : LeaseOut) (j : Nat) (r : SeatReport) : State :=
  ghSeatSend s l.borrower l.ports (match r with | .saved _ => true | _ => false) (.seatReport l.borrower l.id j r)

/-- A report of a lent seat goes to its borrower (14 R483). -/
def lentReport (s : State) (seat : Nat) (r : SeatReport) : State :=
  match lentOf s seat with
  | some (l, j) => reportSend s l j r
  | none => s

/-- The logical number of a seat in its shell (02 R47). -/
def lseatOf (sh : Shell) (seat : Nat) : Nat := sh.rig.seats.idxOf seat

/-! ### Scratchpads and pegs -/

/-- Bytes of a seat's scratchpad. -/
def scratchRead (s : State) (seat off n : Nat) : Bytes := memRead s (scratchBase seat + off) n

/-- Store into a seat's scratchpad; a reservation over a written word is lost (07 R246). -/
def scratchWrite (s : State) (seat off : Nat) (b : Bytes) : State :=
  let s1 := memWrite s (scratchBase seat + off) b
  let t := seatOf s1 seat
  match t.core.reserve with
  | none => s1
  | some r => if off < r + 8 ∧ r < off + b.length then seatPut s1 seat { t with core := { t.core with reserve := none } } else s1

/-- The slots a predicate holds of, in rising order. -/
def sprintSlots (s : State) (f : Sprint → Bool) : List Nat := (s.sprints.filter (fun e => f e.2)).map (·.1)

/-- Set or clear a peg of a seat, with nothing triggered. -/
def pegPut (s : State) (seat p : Nat) (v : Bool) : State :=
  let t := seatOf s seat
  seatPut s seat { t with pegs := setBitOf t.pegs p v }

/-- A set of EGRESS_PEG on a bound seat triggers the egress, or is counted as ignored (12 R414). -/
def egressTrigger (s : State) (slot lseat seat peg : Nat) : State :=
  (sprintSlots s (fun p => p.st == .bound && p.shell == slot && p.lseat == lseat && p.egressPeg == peg)).foldl
    (fun s n =>
      let p := sprintOf s n
      if p.reading then pinc s P.sprEgressIgnored
      else if p.outstanding = [] then pinc (pegPut s seat peg false) P.sprEgressIgnored
      else sprintPut s n { p with reading := true }) s

/-- Write a peg of a seat; a set may trigger the sprint egress (05 R179, 12 R414). -/
def pegWrite (s : State) (seat p : Nat) (v : Bool) : State :=
  let s1 := pegPut s seat p v
  if v then match seatShell s1 seat with
    | some sl => egressTrigger s1 sl (lseatOf (shellOf s1 sl) seat) seat p
    | none => s1
  else s1

/-- The key of image `k` of a slot. -/
def imageKey (slot k : Nat) : Nat := slot * 16 + k

/-- Where the windows of a shell go for a context's inbound bindings: to the image while its job is pre-empted (11 R396). -/
def ctxWindows (s : State) (slot cid : Nat) : WinMap :=
  let sh := shellOf s slot
  match sh.preempted.find? (fun j => j.ctx == cid) with
  | some j => .image (imageKey slot j.imageSlot)
  | none => sh.windows

end Sys2Proof.Machine
end

