-- ==== Sys2Proof/Machine/Array.lean ====
section
/-! DEFINITION. The matrix array: descriptors and their checks, operand layouts, accumulation, the guard column,
conversion, requantising and compare mode, over one seat's scratchpad and tiles (04). -/
namespace Sys2Proof.Machine

/-! ### Descriptor fields (04 Table Matrix-1) -/

def dOp (d : Nat) : Nat := bitsOf d 127 122
def dFmtA (d : Nat) : Nat := bitsOf d 121 118
def dFmtB (d : Nat) : Nat := bitsOf d 117 114
def dFmtOut (d : Nat) : Nat := bitsOf d 113 110
def dBaseRaw (d : Nat) : Nat := bitsOf d 109 94
def dTile (d : Nat) : Nat := bitsOf d 93 90
def dOffA (d : Nat) : Nat := bitsOf d 89 74
def dOffB (d : Nat) : Nat := bitsOf d 73 58
def dOffC (d : Nat) : Nat := bitsOf d 57 42
def dK (d : Nat) : Nat := bitsOf d 41 31
def dClear (d : Nat) : Bool := bitOf d 30
def dFret (d : Nat) : Bool := bitOf d 29
def dConvert (d : Nat) : Bool := bitOf d 28
def dSr (d : Nat) : Bool := bitOf d 27
def dPegEn (d : Nat) : Bool := bitOf d 26
def dPeg (d : Nat) : Nat := bitsOf d 25 20
/-- Active rows and columns. -/
def dM (d : Nat) : Nat := bitsOf d 19 16 + 1
def dN (d : Nat) : Nat := bitsOf d 15 10 + 1

/-- A 16-bit two's-complement number. -/
def s16 (n : Nat) : Int := if n ≥ 2 ^ 15 then (n : Int) - 2 ^ 16 else n

/-! ### Tiles -/

def arrWord (a : Arr) (t i : Nat) : Nat := tget (fun _ => 0) a.words (t * 1024 + i)
def arrWordPut (a : Arr) (t i w : Nat) : Arr := { a with words := tset (fun _ => 0) a.words (t * 1024 + i) w }
/-- The tile status word; a tile nothing has cleared reads fret mode on base 0 (03 R99). -/
def tileStatus (a : Arr) (t : Nat) : Nat := tget (fun _ => 0x80) a.status t
def tileStatusPut (a : Arr) (t v : Nat) : Arr := { a with status := tset (fun _ => 0x80) a.status t v }
def tileBaseRaw (a : Arr) (t : Nat) : Nat := tileStatus a t / 2 ^ 16
def tileFret (a : Arr) (t : Nat) : Bool := bitOf (tileStatus a t) 7
def guardOf (a : Arr) (t i : Nat) : Guard := tget (fun _ => {}) a.guards (t * 16 + i)
def guardPut (a : Arr) (t i : Nat) (g : Guard) : Arr := { a with guards := tset (fun _ => {}) a.guards (t * 16 + i) g }
/-- OR bits into a tile status word. -/
def tileFlag (a : Arr) (t bits : Nat) : Arr := tileStatusPut a t (tileStatus a t ||| bits)

/-- CLEAR: the whole tile is zero, its guard sums too, its mark goes, and its base and mode come from the descriptor
(03 R100, 04 R125, R148, 06 R224). -/
def tileClear (a : Arr) (d : Nat) : Arr :=
  let t := dTile d
  { a with
    words := a.words.filter (fun e => e.1 / 1024 != t)
    guards := a.guards.filter (fun e => e.1 / 16 != t)
    status := tset (fun _ => 0x80) a.status t (dBaseRaw d * 2 ^ 16 + (if dFret d then 0x80 else 0))
    merged := a.merged.filter (· != t)
    refused := a.refused.filter (· != t) }

/-! ### Operand and output spans (04 R131-R136) -/

/-- The next multiple of 32. -/
def align32 (n : Nat) : Nat := (n + 31) / 32 * 32

/-- Bytes of `rows` runs of K blocks of a format, and with the scales that follow. -/
def elemsLen (fmt rows k : Nat) : Nat := k * rows * 4 * inBits fmt
def operandLen (fmt rows k : Nat) : Nat :=
  if inScaled fmt then align32 (elemsLen fmt rows k) + k * rows else elemsLen fmt rows k

/-- Bytes of a REQ row's elements, rounded to its 32-byte boundary (04 R136). -/
def reqRow (d : Nat) : Nat := align32 (dN d * inBits (dFmtOut d) / 8)

/-- Bytes a conversion of a descriptor writes (04 R134, R136, R158). -/
def convLen (d : Nat) : Nat :=
  if dOp d = 4 then dM d * reqRow d + dM d * (dN d / 32)
  else if dOp d = 9 then dM d * dN d * (if dFmtOut d = 0 then 2 else 1)
  else if dFmtOut d = 6 then align32 (dM d * dN d * 16) + 32
  else dM d * dN d * outBytes (dFmtOut d)

/-- Whether a descriptor's op converts. -/
def dConverts (d : Nat) : Bool := dOp d == 2 || dOp d == 4 || ((dOp d == 1 || dOp d == 9) && dConvert d)

/-- Whether an op needs the conversion unit (04 R129). -/
def dUsesUnit (d : Nat) : Bool := dConverts d || dOp d == 3

/-- Bytes of a LOADW source. -/
def loadwLen (d : Nat) : Nat := if dFret d then align32 (dM d * dN d * 16) + 32 else dM d * dN d * 4

/-- The spans an op reads, (start, length). -/
def opReads (d : Nat) : List (Nat × Nat) :=
  match dOp d with
  | 1 => [(32 * dOffA d, operandLen (dFmtA d) (dM d) (dK d)), (32 * dOffB d, operandLen (dFmtB d) (dN d) (dK d))]
  | 3 => [(32 * dOffC d, loadwLen d)]
  | 8 => [(32 * dOffB d, 128 * dK d)]
  | 9 => [(32 * dOffA d, 256 * dM d)]
  | _ => []

/-- The span an op writes. -/
def opWrites (d : Nat) : List (Nat × Nat) := if dConverts d then [(32 * dOffC d, convLen d)] else []

/-- Whether two spans share a byte. -/
def spansMeet (a b : Nat × Nat) : Bool := decide (a.1 < b.1 + b.2) && decide (b.1 < a.1 + a.2)

/-! ### Format checks (04 R121-R127, R153) -/

def originTag (o : Nat) : Nat := o / 2 ^ 48
def originRow (o : Nat) : Nat := o / 2 ^ 24 % 2 ^ 24
def originCol (o : Nat) : Nat := o % 2 ^ 24

/-- Whether an op code is one of 04 Table Matrix-2. -/
def opKnown (op : Nat) : Bool := [1, 2, 3, 4, 5, 8, 9].contains op

/-- Whether the base and mode agree with the tile, or the op clears it (03 R100). -/
def baseFits (a : Arr) (d : Nat) : Bool :=
  dClear d || (dBaseRaw d == tileBaseRaw a (dTile d) && dFret d == tileFret a (dTile d))

/-- Whether an MMA accumulates nothing, clears nothing and converts nothing: it only retires (04 Table Matrix-2). -/
def mmaOnlyRetires (d : Nat) : Bool := dK d == 0 && !dClear d && !dConvert d

/-- The rules of 04 Table Matrix-1 and Matrix-3 for each op. FRET128 output is not available in fretless mode (03 Table Frets-12): the spec does not
say what an op that names it there does, and the model takes it as a format error (DESIGN CHOICE, log 81). -/
def opFieldsOk (a : Arr) (d : Nat) : Bool :=
  let common := d % 2 ^ 10 == 0 && (!dPegEn d || decide (dPeg d < 48)) && (dFret d || dBaseRaw d == 0)
  match dOp d with
  | 1 => common && decide (dTile d < 12) && decide (dFmtA d ≤ 10) && inGroup (dFmtA d) == inGroup (dFmtB d)
      && (baseFits a d || mmaOnlyRetires d)
      && (if dConvert d then decide (dFmtOut d ≤ 6) && (dFret d || dFmtOut d != 6) && !a.refused.contains (dTile d)
          else dFmtOut d == 0 && dOffC d == 0)
  | 2 => common && decide (dTile d < 12) && dFmtA d == 0 && dFmtB d == 0 && decide (dFmtOut d ≤ 6) && (dFret d || dFmtOut d != 6)
      && !dClear d && baseFits a d && dOffA d == 0 && dOffB d == 0 && dK d == 0 && !dConvert d && !a.refused.contains (dTile d)
  | 3 => common && decide (dTile d < 12) && dFmtA d == 0 && dFmtB d == 0 && dFmtOut d == (if dFret d then 6 else 0)
      && baseFits a d && dOffA d == 0 && dOffB d == 0 && dK d == 0 && !dConvert d && !dSr d
  | 4 => common && decide (dTile d < 12) && dFmtA d == 0 && dFmtB d == 0 && decide (2 ≤ dFmtOut d) && decide (dFmtOut d ≤ 7)
      && !dClear d && baseFits a d && dOffA d == 0 && dOffB d == 0 && dK d == 0 && !dConvert d
      && (dN d == 32 || dN d == 64) && !a.refused.contains (dTile d)
  | 5 => d % 2 ^ 58 == 0
  | 8 => d % 2 ^ 10 == 0 && (!dPegEn d || decide (dPeg d < 48)) && dFmtA d == 0 && dFmtB d == 0 && dFmtOut d == 0 && dBaseRaw d == 0 && !dFret d
      && dOffA d == 0 && dOffC d == 0 && decide (1 ≤ dK d) && decide (dK d ≤ 16) && !dClear d && !dConvert d && !dSr d
      && bitsOf d 19 10 == 0 && decide (dTile d < 4)
  | 9 => common && decide (dTile d < 12) && dFmtA d == 0 && dFmtB d == 0 && dBaseRaw d == 0 && dFret d && baseFits a d && !dSr d
      && (if dConvert d then decide (dFmtOut d ≤ 1) && !a.refused.contains (dTile d) else dFmtOut d == 0 && dOffC d == 0)
      && decide (1 ≤ dK d) && decide (dK d ≤ 16) && decide (dOffB d < 64)
      && decide (dOffB d / 4 + dK d ≤ (tget (fun _ => {}) a.banks (dOffB d % 4)).levels)
  | _ => false

/-- The restrictions of interface level 1 (04 R153). -/
def opLevel1Ok (d : Nat) : Bool :=
  match dOp d with
  | 1 => [0, 1, 8, 9, 10].contains (dFmtA d) && [0, 1, 8, 9, 10].contains (dFmtB d) && (!dConvert d || decide (dFmtOut d ≤ 2)) && !dFret d && dBaseRaw d == 0
  | 2 => decide (dFmtOut d ≤ 2) && !dFret d && dBaseRaw d == 0
  | 3 => !dFret d && dBaseRaw d == 0
  | 5 => true
  | _ => false

/-- Whether every byte an op names lies in the scratchpad (04 R121). -/
def opInside (d : Nat) : Bool := (opReads d ++ opWrites d).all (fun p => decide (p.1 + p.2 ≤ scratchBytes))
  && [dOffA d, dOffC d].all (fun o => decide (o < 0xC000) || dOp d == 5) && (dOp d == 5 || dOp d == 9 || decide (dOffB d < 0xC000))

/-- A stochastic op's output, where it writes one, stays below row and column 2^24 (04 R124). -/
def opSrOk (o d : Nat) : Bool :=
  !dSr d || !dConverts d || (decide (originRow o + dM d - 1 < 2 ^ 24) && decide (originCol o + dN d - 1 < 2 ^ 24))

/-- A LOADW source: no special word that the device never produces, and a trailer with the op's fret base (04 R135). -/
def loadwOk (src : Bytes) (d : Nat) : Bool :=
  if dOp d != 3 || !dFret d then true
  else
    let ws := leWords 16 (dM d * dN d) src
    let tr := field src (align32 (dM d * dN d * 16)) 4
    tr / 2 ^ 16 == dBaseRaw d && ws.all (fun w => !wSpecial w || (decide (1 ≤ wKind w) && decide (wKind w ≤ 4)))

/-- Every check of 04 R121 for the descriptor at the head of a seat's queue. -/
def opFormatOk (s : State) (seat : Nat) (level1 : Bool) (d : Nat) : Bool :=
  let a := (seatOf s seat).arr
  opKnown (dOp d) && opFieldsOk a d && opInside d && opSrOk a.origin d && (!level1 || opLevel1Ok d)
    && loadwOk (scratchRead s seat (32 * dOffC d) (if dOp d = 3 then loadwLen d else 0)) d

/-! ### Operands (04 R131, R132) -/

/-- The elements of one row or column over all K blocks, decoded with their scales. -/
def operandRow (s : State) (seat off fmt rows k i : Nat) : List FV :=
  let w := inBits fmt
  let scales := 32 * off + align32 (elemsLen fmt rows k)
  (List.range k).flatMap (fun b =>
    let run := leNat (scratchRead s seat (32 * off + (b * rows + i) * 4 * w) (4 * w))
    let sc := if inScaled fmt then some (leNat (scratchRead s seat (scales + b * rows + i) 1)) else none
    (List.range 32).map (fun j => decScaled fmt (run / 2 ^ (w * j) % 2 ^ w) sc))

/-! ### Accumulation (04 R118, R145, R148) -/

/-- An accumulator cell in the course of an op: its word, its row's guard sum, FRET_LOW and FRET_HIGH. -/
structure CellAcc where
  w : Nat
  g : Guard
  low : Bool := false
  high : Bool := false
  deriving DecidableEq, Repr

/-- Add a term to a guard sum (04 R148, R150). -/
def guardAdd (g : Guard) (t : Term) : Guard :=
  match t with
  | .units q => { g with sum := ((g.sum + q) % 2 ^ 128).toNat }
  | .special k => { g with special := joinKind g.special k }

/-- Add an FP32-summed value and its magnitude to a guard sum (04 R148). -/
def guardAddFp (g : Guard) (v : FV) : Guard :=
  let av : FV := match v with | .num _ m e => .num false m e | .inf _ => .inf false | x => x
  { g with fsum := fp32Add g.fsum v, fabs := fp32Add g.fabs av }

/-- Add one product in fret mode (03 R95, R96). -/
def cellFret (f : Int) (c : CellAcc) (p : FV × FV) : CellAcc :=
  let (t, lo, hi) := fretProduct p.1 p.2 f
  { w := fretAdd c.w t, g := guardAdd c.g t, low := c.low || lo, high := c.high || hi }

/-- Add one product in fretless mode (03 R110). -/
def cellFp (c : CellAcc) (p : FV × FV) : CellAcc :=
  { c with w := fp32AddProd c.w p.1 p.2, g := guardAddFp c.g ((fpProd p.1 p.2).getD (.nan false)) }

/-- The products of a cell in ascending k; FP32 inputs by their pieces (03 R102, 04 R145). -/
def cellPairs (fmt : Nat) (a b : List FV) : List (FV × FV) :=
  if fmt = 10 then (a.zip b).flatMap (fun p => piecePairs p.1 p.2) else a.zip b

/-- One cell of an MMA. -/
def mmaCell (d t i : Nat) (rowA : List FV) (a : Arr) (j : Nat) (colB : List FV) : Arr :=
  let c0 : CellAcc := { w := arrWord a t (64 * i + j), g := guardOf a t i }
  let ps := cellPairs (dFmtA d) rowA colB
  let c := if dFret d then ps.foldl (cellFret (s16 (dBaseRaw d))) c0 else ps.foldl cellFp c0
  let a1 := guardPut (arrWordPut a t (64 * i + j) c.w) t i c.g
  if c.low || c.high then tileFlag a1 t ((if c.low then tsLow else 0) ||| (if c.high then tsHigh else 0)) else a1

/-- The accumulation of an MMA over its active cells, row by row in ascending column, which is the order in which products enter the rounded guard sums
(04 R118, R125; DESIGN CHOICE, log 89). -/
def mmaRun (s : State) (seat : Nat) (a : Arr) (d : Nat) : Arr :=
  let t := dTile d
  let cols := (List.range (dN d)).map (operandRow s seat (dOffB d) (dFmtB d) (dN d) (dK d))
  (List.range (dM d)).foldl (fun a i =>
    let row := operandRow s seat (dOffA d) (dFmtA d) (dM d) (dK d) i
    (List.range (dN d)).foldl (fun a j => mmaCell d t i row a j (cols.getD j [])) a) a

/-- Add one word to a tile: a LOADW word or a merged word (03 R96, 04 R135, R141). -/
def wordMerge (a : Arr) (t k : Nat) (fret : Bool) (w : Nat) : Arr :=
  let i := k / 64
  if fret then
    guardPut (arrWordPut a t k (fretAdd (arrWord a t k) (termOf w))) t i (guardAdd (guardOf a t i) (termOf w))
  else
    guardPut (arrWordPut a t k (fp32Add (arrWord a t k) (fpWord w))) t i (guardAddFp (guardOf a t i) (fpWord w))

/-- A LOADW word takes the place of a cleared one, an FP32 −0 as itself, and counts in the row's guard sum (03 R110, 04 R126, R148). -/
def wordLoad (a : Arr) (t k : Nat) (fret : Bool) (w : Nat) : Arr := arrWordPut (wordMerge a t k fret w) t k w

/-- LOADW: the stored words replace the tile, which it clears first, or are added to it, and the trailer's FRET_LOW and FRET_HIGH are ORed in (04
R126, R135). -/
def loadwRun (src : Bytes) (a0 : Arr) (d : Nat) : Arr :=
  let ws := leWords (if dFret d then 16 else 4) (dM d * dN d) src
  let f := if dClear d then wordLoad else wordMerge
  let a1 := (List.range (dM d)).foldl (fun a i =>
    (List.range (dN d)).foldl (fun a j => f a (dTile d) (64 * i + j) (dFret d) (ws.getD (i * dN d + j) 0)) a) (if dClear d then tileClear a0 d else a0)
  if dFret d then tileFlag a1 (dTile d) (field src (align32 (dM d * dN d * 16)) 4 % 4) else a1

/-! ### Compare mode (04 R154-R158) -/

/-- A signed byte. -/
def s8 (n : Nat) : Int := if n ≥ 128 then (n : Int) - 256 else n

/-- A bank with its levels read from the scratchpad (04 R154). -/
def bankLoad (s : State) (seat off levels : Nat) : Bank :=
  { offset := off, levels := levels, entries := leWords 2 (64 * levels) (scratchRead s seat (32 * off) (128 * levels)) }

/-- One level of one cell: the word doubled plus the answer (04 R157), by additions as R96 of 03 has them: a special word stays special, and a sum
that enters the reserved band is RANGE, so that no other pattern of the band arises (03 Table Frets-4). R157 gives the bits alone (DESIGN CHOICE, log
81). -/
def cmpStep (row : Bytes) (e : Nat) (c : Nat × Nat) : Nat × Nat :=
  let v := s8 (row.getD (e % 256) 0).toNat
  let bit : Nat := if v > s8 (e / 256) then 1 else 0
  (fretAdd c.1 (.units (wInt c.1 + bit)), c.2 + bit)

/-- CMP: evaluate the levels over the active cells; the guard sum counts the 1 bits (04 R148, R157). -/
def cmpRun (s : State) (seat : Nat) (a : Arr) (d : Nat) : Arr :=
  let t := dTile d
  let bank := tget (fun _ => {}) a.banks (dOffB d % 4)
  let f := dOffB d / 4
  (List.range (dM d)).foldl (fun a i =>
    let row := scratchRead s seat (32 * dOffA d + 256 * i) 256
    (List.range (dN d)).foldl (fun a j =>
      let (w, n) := (List.range (dK d)).foldl (fun c l => cmpStep row (bank.entries.getD (64 * (f + l) + j) 0) c) (arrWord a t (64 * i + j), 0)
      let g := guardOf a t i
      guardPut (arrWordPut a t (64 * i + j) w) t i { g with sum := (g.sum + n) % 2 ^ 128 }) a) a

/-! ### The guard check (04 R148-R150) -/

/-- The number of 1 bits of a 128-bit word. -/
def popcount (bits w : Nat) : Nat := ((List.range bits).filter (fun i => bitOf w i)).length

/-- Kinds that the guard sum can hold: RANGE arises in a word's own adder and is no added term (04 R150, log 22). -/
def guardKind (k : Nat) : Nat := if k = 4 then 0 else k

/-- Check one row of a tile: whether it agrees, and whether it was skipped for a special word (04 R148, R150). A fretless row whose sum or guard sum is
infinite or NaN passes (DESIGN CHOICE, log 89). -/
def guardRow (a : Arr) (t i : Nat) (cmp : Bool) : Bool × Bool :=
  let ws := (List.range 64).map (fun j => arrWord a t (64 * i + j))
  let g := guardOf a t i
  if cmp && !ws.any wSpecial then (decide ((ws.map (popcount 128)).sum % 2 ^ 128 = g.sum), false)
  else if tileFret a t then
    if ws.any wSpecial then
      (guardKind (ws.foldl (fun k w => joinKind k (guardKind (wKind w))) 0) == guardKind g.special, true)
    else (decide ((((ws.map wInt).sum % 2 ^ 128).toNat) = g.sum) && g.special == 0, false)
  else
    let sum := ws.foldl (fun x w => fp32Add x (fpWord w)) 0
    match fpWord sum, fpWord g.fsum, fpWord g.fabs with
    | .num n1 m1 e1, .num n2 m2 e2, .num _ m3 e3 =>
      let (v, e) := dyAdd (signed n1 m1) e1 (signed (!n2) m2) e2
      (decide ((dyAdd (v.natAbs : Int) e (-(m3 : Int)) (e3 - 9)).1 ≤ 0), false)
    | _, _, _ => (true, false)

/-- The guard check of a descriptor's active rows: agreement, and GUARD_SKIPPED. -/
def guardCheck (a : Arr) (d : Nat) : Bool × Bool :=
  (List.range (dM d)).foldl (fun r i =>
    let (ok, sk) := guardRow a (dTile d) i (dOp d == 9)
    (r.1 && ok, r.2 || sk)) (true, false)

/-- The guard sums of every tile set to the tile's row sums, as a resuming array does (04 R143). The sum of a fretless guard's magnitudes becomes that of
the words' magnitudes, and a row sum is numeric whatever op filled the tile (DESIGN CHOICE, log 88). -/
def guardsRebuild (a : Arr) : Arr :=
  (List.range 12).foldl (fun a t =>
    (List.range 16).foldl (fun a i =>
      let ws := (List.range 64).map (fun j => arrWord a t (64 * i + j))
      let g : Guard := if tileFret a t then ws.foldl (fun g w => guardAdd g (termOf w)) {}
        else ws.foldl (fun g w => guardAddFp g (fpWord w)) {}
      guardPut a t i g) a) { a with guards := [] }

/-! ### Conversion and requantising (04 R134, R136, R144, R158) -/

/-- The rounding mode of an op's element: nearest, or stochastic with the draw of its logical position (03 R109, 04 R123). -/
def elemMode (sr : Bool) (seed o i j : Nat) : RMode :=
  if sr then .stoch (srDraw seed (originTag o) (originRow o + i) (originCol o + j)) else .rne

/-- Convert one word of a tile into an op's output format. -/
def convWord (a : Arr) (f : Flight) (i j : Nat) : Nat × Nat :=
  let d := f.op.desc
  let t := dTile d
  let w := arrWord a t (64 * i + j)
  if dOp d = 9 then
    let mx : Nat := if dFmtOut d = 0 then 0xFFFF else 0xFF
    if wSpecial w ∨ wInt w < 0 ∨ wInt w > mx then (mx, tsSat ||| wordFlags w) else (w, 0)
  else
    let rm := elemMode (dSr d) f.op.seed f.origin i j
    if tileFret a t then convFret (dFmtOut d) rm (s16 (tileBaseRaw a t)) w else convFp (dFmtOut d) rm w

/-- The output bytes of a conversion and the status bits it sets (04 R134). -/
def convRun (a : Arr) (f : Flight) : Bytes × Nat :=
  let d := f.op.desc
  let n := if dOp d = 9 then (if dFmtOut d = 0 then 2 else 1) else outBytes (dFmtOut d)
  let cells := (List.range (dM d)).flatMap (fun i => (List.range (dN d)).map (fun j => convWord a f i j))
  (cells.flatMap (fun c => leBytes n c.1), cells.foldl (fun x c => x ||| c.2) 0)

/-- A FRET128 output's trailer: the tile status word (04 R134). The spec gives no contents to the bytes between the last element and the trailer:
the model writes zeros (DESIGN CHOICE, log 81). -/
def convTrailer (a : Arr) (d : Nat) (body : Bytes) : Bytes :=
  if dOp d ≠ 9 ∧ dFmtOut d = 6 then
    body ++ List.replicate (align32 body.length - body.length) 0 ++ leBytes 32 (tileStatus a (dTile d))
  else body

/-- The exact value of a word, for requantising: none for a special word or an FP32 NaN or infinity. -/
def wordValue (a : Arr) (t w : Nat) : Option (Bool × Nat × Int) :=
  if tileFret a t then
    (if wSpecial w then none else some (decide (wInt w < 0), (wInt w).natAbs, s16 (tileBaseRaw a t)))
  else match fpWord w with
    | .num n m e => some (n, m, e)
    | _ => none

/-- Status bits of a word that REQ reads (04 R144). -/
def reqFlags (a : Arr) (t w : Nat) : Nat :=
  if tileFret a t then wordFlags w
  else match fpWord w with
    | .nan _ => tsNan
    | .inf _ => tsInf
    | _ => 0

/-- The larger of two magnitudes `m × 2^e`. -/
def magMax (a b : Nat × Int) : Nat × Int := if (dyAdd a.1 a.2 (-(b.1 : Int)) b.2).1 < 0 then b else a

/-- One block of 32 elements of REQ: its scale code, its element codes and the status bits (04 R144). -/
def reqBlock (a : Arr) (f : Flight) (i b : Nat) : Nat × List Nat × Nat :=
  let d := f.op.desc
  let t := dTile d
  let ws := (List.range 32).map (fun j => arrWord a t (64 * i + 32 * b + j))
  let fl := ws.foldl (fun x w => x ||| reqFlags a t w) 0
  let vs := ws.map (wordValue a t)
  if vs.any Option.isNone then (0xFF, List.replicate 32 0, fl)
  else
    let top := vs.foldl (fun m v => match v with | some (_, x, e) => magMax m (x, e) | none => m) ((0, 0) : Nat × Int)
    if top.1 = 0 then (0, List.replicate 32 0, fl)
    else
      let x := mxScale (dFmtOut d) top.1 top.2
      let es := (List.range 32).map (fun j => match vs.getD j none with
        | some (n, m, e) => mxElem (dFmtOut d) (elemMode (dSr d) f.op.seed f.origin i (32 * b + j)) x n m e
        | none => (0, 0))
      ((x + 127).toNat, es.map (·.1), es.foldl (fun z e => z ||| e.2) fl)

/-- The output bytes of REQ and the status bits it sets (04 R136). The spec gives no contents to the bytes that fill a row up to its 32-byte
boundary: the model writes zeros (DESIGN CHOICE, log 81). -/
def reqRun (a : Arr) (f : Flight) : Bytes × Nat :=
  let d := f.op.desc
  let w := inBits (dFmtOut d)
  let blocks := (List.range (dM d)).map (fun i => (List.range (dN d / 32)).map (reqBlock a f i))
  let rows := blocks.flatMap (fun r =>
    let codes := r.flatMap (fun x => x.2.1)
    let num := (codes.foldr (fun c acc => c + acc * 2 ^ w) 0)
    leBytes (reqRow d) num)
  let scales := blocks.flatMap (fun r => r.map (fun x => BitVec.ofNat 8 x.1))
  (rows ++ scales, (blocks.flatMap id).foldl (fun z x => z ||| x.2.2) 0)

/-! ### Result words (04 R151) -/

/-- The op result word of an op of 04 Table Matrix-6. -/
def opResult (a : Arr) (f : Flight) (status : Nat) : Nat :=
  let d := f.op.desc
  let ts := if dOp d = 5 ∨ dOp d = 8 ∨ dTile d ≥ 12 then 0 else tileStatus a (dTile d)
  pack [(32, ts), (16, f.op.seq % 2 ^ 16), (11, if f.guardSkipped then 1 else 0), (10, if f.failed = 2 ∨ f.failed = 3 then 1 else 0),
    (9, if f.failed = 1 then 1 else 0), (8, if f.inexact then 1 else 0), (0, status)]

/-- An op posts its result word, and the summary takes its bits (04 R151). -/
def arrPost (a : Arr) (f : Flight) (status : Nat) : Arr :=
  let r := opResult a f status
  let ts := if f.wroteOutput then r / 2 ^ 32 % 64 else 0
  { a with result := r, summary := a.summary ||| ts ||| (bitsOf r 11 8 * 2 ^ 8) }

/-- Every op that has not retired is squashed with op status 0x04, with what its result word already held of its work, in queue order, and the queue takes no more ops
(04 R121, R152, 05 R176). -/
def arrSquash (a : Arr) : Arr :=
  let open_ := a.flight.map (fun f => { f with failed := if f.status = 0 then 0 else f.failed }) ++ a.queue.map (fun o => { op := o })
  open_.foldl (fun a f => arrPost a f 4) { a with queue := [], flight := [], stopped := true }

end Sys2Proof.Machine
end

