-- ==== Sys2Proof/Machine/Images.lean ====
section
/-! DEFINITION. Images as bytes: seat sections, the whole image, its seal for a target and the opening of it (02 R79, 11 R393, 18 R600). -/
namespace Sys2Proof.Machine

/-- A label of the manual as bytes. -/
def ascii (t : String) : Bytes := t.toList.map (fun c => BitVec.ofNat 8 c.toNat)

/-- A byte string filled up with zeros to a length, and the bytes of sparse contents of a length. -/
def padTo (n : Nat) (b : Bytes) : Bytes := b.take n ++ List.replicate (n - b.length) 0
def denseBytes (l : List (Nat × Byte)) (n : Nat) : Bytes := (List.range n).map (fun i => tget memDefault l i)

/-- The nonzero bytes of a byte string, by offset. -/
def sparseBytes (b : Bytes) : List (Nat × Byte) := (List.range b.length).filterMap (fun i => let v := b.getD i 0; if v = 0 then none else some (i, v))

/-- A seat section as bytes, and back (02 R79): scratchpad, accumulator file, control record. -/
def sectionBytes (x : SeatSection) : Bytes :=
  denseBytes x.scratch scratchBytes ++ (List.range 12288).flatMap (fun i => leBytes 16 (tget (fun _ => 0) x.acc i)) ++ padTo 4096 x.record

def sectionOf (b : Bytes) : SeatSection :=
  { scratch := sparseBytes (b.take scratchBytes)
    acc := (List.range 12288).filterMap (fun i =>
      let w := field b (scratchBytes + 16 * i) 16
      if w = 0 then none else some (i, w))
    record := (b.drop (scratchBytes + 196608)).take 4096 }

/-- Bytes of a seat section, of the job section and of the seal trailer. -/
def seatSectionBytes : Nat := 1773568
def jobSectionBytes : Nat := 65536
def sealTrailerBytes : Nat := 1728

/-- What follows the header of an image: seat sections, job section, channels (02 R79). -/
def Image.body (im : Image) : Bytes :=
  im.seats.flatMap sectionBytes ++ padTo jobSectionBytes im.job ++ im.channels.flatMap (fun c => denseBytes c chanBytes)

/-- The key material of an image from a shared secret and the digest of the target's key (18 R600). -/
def sealKeys (ss digest : Bytes) : Bytes := Config.kmac256 Config.fleetKey (ss ++ digest) 64 (ascii "VZS2-IMAGE")
def sealMac (k signed : Bytes) : Bytes := Config.kmac256 (k.drop 32) signed 64 (ascii "VZS2-IMAGE-MAC")

/-- The bytes of a save image, sealed for its target (18 R600). The counter of the first block after the header is its offset over 16. -/
def Image.sealed (im : Image) : Bytes :=
  let hdr := leBytes 64 im.header
  let digest := Config.shake256 im.ek 64
  let k := sealKeys im.ss digest
  let enc := Config.aesCtr (k.take 32) 4 im.body
  hdr ++ enc ++ leBytes 4 0x5345414C ++ leBytes 4 2 ++ leBytes 8 im.tbSeal ++ padTo 64 digest ++ padTo 1568 im.ct ++ padTo 64 (sealMac k (hdr ++ enc)) ++ List.replicate 16 0

/-- Open the bytes of an image on this device: the image, and whether its seal holds (18 R600). -/
def imageOpen (b : Bytes) : Image × Bool :=
  let h := leNat (b.take 64)
  let tr := b.drop (b.length - sealTrailerBytes)
  let enc := (b.take (b.length - sealTrailerBytes)).drop 64
  let digest := Config.shake256 Config.krEk 64
  let ct := (tr.drop 0x50).take 0x620
  let ss := Config.decap ct
  let k := sealKeys ss digest
  let body := Config.aesCtr (k.take 32) 4 enc
  let n := bitsOf h 463 448
  let cut := fun (o len : Nat) => (body.drop o).take len
  let chans := if bitOf h 416 then (List.range (bitsOf h 447 440)).map (fun i => sparseBytes (cut (n * seatSectionBytes + jobSectionBytes + i * chanBytes) chanBytes)) else []
  ({ header := h, seats := (List.range n).map (fun i => sectionOf (cut (i * seatSectionBytes) seatSectionBytes))
     job := cut (n * seatSectionBytes) jobSectionBytes, channels := chans, ek := Config.krEk, ct := ct, ss := ss, tbSeal := field tr 8 8 },
   decide (64 + sealTrailerBytes ≤ b.length) && field tr 0 4 == 0x5345414C && (tr.drop 0x10).take 64 == padTo 64 digest
     && (tr.drop 0x670).take 64 == padTo 64 (sealMac k (b.take 64 ++ enc)))

/-- The image in bytes at a target, and whether its seal holds: bytes that are as the device sealed an image for its own key are that image. -/
def imageAt (own : Image) (b : Bytes) : Image × Bool := if own.ek = Config.krEk ∧ b = own.sealed then (own, true) else imageOpen b

end Sys2Proof.Machine
end

