-- ==== Sys2Proof/Machine/Topo.lean ====
section
/-! DEFINITION. The topology of the package and its fixed routes: dies, edge ports, attachments, the ring, and which islands and links a
packet crosses (01 R23 to R27, R32, R33, 06 R203 to R206, R218). Islands are named by their numbers (13 R459). -/
namespace Sys2Proof.Machine

/-- A place where packets are switched: a die crossbar, the ring stop of a ring die, or that of MD. -/
inductive Stop where
  | die (d : Nat)
  | ring (k : Nat)
  | md
  deriving DecidableEq, Repr

/-- The sides of a compute die. -/
inductive Side where
  | north | east | south | west
  deriving DecidableEq, Repr

/-- The stop at which an island's traffic enters and leaves: a seat's at its crossbar, a block's at its ring block (01 Table Levels-6). -/
def stopOf (n : Nat) : Stop :=
  if n < 2304 then .die (n / 144) else if n < 2320 then .die (n - 2304) else if n < 2352 then .ring ((n - 2320) % 8) else .md

/-- The island of a stop. -/
def Stop.island : Stop → Nat
  | .die d => 2304 + d
  | .ring k => 2320 + k
  | .md => 2352

/-- Whether an island hangs on its stop by a bridge of its own: a seat, or a memory, link or CXL block. -/
def isLeaf (n : Nat) : Bool := decide (n < 2304) || (decide (2328 ≤ n) && decide (n < 2352))

/-- The attachments of the ring dies: compute die and side, first and second (01 Table Levels-2). -/
def attachSides (k : Nat) : (Nat × Side) × (Nat × Side) :=
  [((0, Side.south), (1, Side.south)), ((2, .south), (3, .south)), ((3, .east), (7, .east)), ((11, .east), (15, .east)),
   ((15, .north), (14, .north)), ((13, .north), (12, .north)), ((12, .west), (8, .west)), ((4, .west), (0, .west))].getD k ((0, .south), (1, .south))

/-- The attachment dies of a ring die. -/
def attachDies (k : Nat) : Nat × Nat := ((attachSides k).1.1, (attachSides k).2.1)

/-- Mesh hops between two compute dies. -/
def meshHops (a b : Nat) : Nat := (max (a % 4) (b % 4) - min (a % 4) (b % 4)) + (max (a / 4) (b / 4) - min (a / 4) (b / 4))

/-- Numbers after `a` up to `b`, up or down. -/
def stepsTo (a b : Nat) : List Nat :=
  if a ≤ b then (List.range (b - a)).map (fun i => a + 1 + i) else (List.range (a - b)).map (fun i => a - 1 - i)

/-- The dies entered on the way from one die to another: along x to the column, then along y to the row (06 R203). -/
def meshPath (a b : Nat) : List Nat :=
  (stepsTo (a % 4) (b % 4)).map (fun x => 4 * (a / 4) + x) ++ (stepsTo (a / 4) (b / 4)).map (fun y => 4 * y + b % 4)

/-- The attachment die by which a compute die reaches a ring die: the one fewer mesh hops away, the first when they are equally far (06 R204). -/
def nearAttach (d k : Nat) : Nat :=
  let (a, b) := attachDies k
  if meshHops d b < meshHops d a then b else a

/-- The attachment die and the ring die by which a compute die and MD reach each other (06 Table Net-2). -/
def mdRoute (d : Nat) : Nat × Nat :=
  [(0, 0), (1, 0), (2, 1), (3, 1), (4, 7), (1, 0), (2, 1), (7, 2), (8, 6), (8, 6), (11, 3), (11, 3), (12, 6), (13, 5), (14, 4), (15, 3)].getD d (0, 0)

/-- The ring dies entered on the way from MD to a ring die: the shorter way round (06 R205). -/
def mdToRing (k : Nat) : List Nat := if k + 1 < 8 - k then List.range (k + 1) else (List.range (8 - k)).map (fun i => 7 - i)

/-- The stops entered on the way from one stop to another (06 R203 to R206). -/
def hops : Stop → Stop → List Stop
  | .die a, .die b => (meshPath a b).map .die
  | .die d, .ring k => (meshPath d (nearAttach d k)).map .die ++ [.ring k]
  | .ring k, .die d => .die (nearAttach d k) :: (meshPath (nearAttach d k) d).map .die
  | .die d, .md =>
    let (a, k) := mdRoute d
    (meshPath d a).map .die ++ (mdToRing k).reverse.map .ring ++ [.md]
  | .md, .die d =>
    let (a, k) := mdRoute d
    (mdToRing k).map .ring ++ [.die a] ++ (meshPath a d).map .die
  | .ring j, .ring k => (stepsTo j k).map .ring
  | .ring k, .md => (mdToRing k).reverse.tail.map .ring ++ [.md]
  | .md, .ring k => (mdToRing k).map .ring
  | .md, .md => []

/-- The number of the link between two neighbouring stops (06 R218); none where they are not neighbours. -/
def linkOf : Stop → Stop → Option Nat
  | .die a, .die b =>
    let lo := min a b
    if max a b = lo + 1 ∧ a / 4 = b / 4 then some (3 * (lo / 4) + lo % 4) else if max a b = lo + 4 then some (12 + 3 * (lo % 4) + lo / 4) else none
  | .die d, .ring k => if (attachDies k).1 = d then some (24 + 2 * k) else if (attachDies k).2 = d then some (24 + 2 * k + 1) else none
  | .ring k, .die d => if (attachDies k).1 = d then some (24 + 2 * k) else if (attachDies k).2 = d then some (24 + 2 * k + 1) else none
  | .ring j, .ring k => if max j k = min j k + 1 then some (41 + min j k) else none
  | .md, .ring k => if k = 0 then some 40 else if k = 7 then some 48 else none
  | .ring k, .md => if k = 0 then some 40 else if k = 7 then some 48 else none
  | _, _ => none

/-- The islands that a packet enters from a source island to its destination, each with the link it comes over, if any (01 R33). -/
def routeOf (src dst : Nat) : List (Nat × Option Nat) :=
  let a := stopOf src
  let b := stopOf dst
  let path := hops a b
  (if isLeaf src then [(a.island, none)] else [])
    ++ ((a :: path).zip path).map (fun p => (p.2.island, linkOf p.1 p.2))
    ++ (if isLeaf dst then [(dst, none)] else [])

/-! ### Edge ports (01 R24, 06 R203) -/

/-- The side of a die that faces a neighbouring die. -/
def sideToward (a b : Nat) : Side := if a / 4 < b / 4 then .north else if b / 4 < a / 4 then .south else if a % 4 < b % 4 then .east else .west

/-- What the two edge ports on a side of a compute die face: the neighbouring compute die, or a ring attachment; the model finds the
attachment in Table Levels-2. -/
def sideFaces (d : Nat) (side : Side) : Option Stop :=
  match side with
  | .north => if d / 4 < 3 then some (.die (d + 4)) else ((List.range 8).find? (fun k => [(attachSides k).1, (attachSides k).2].contains (d, Side.north))).map .ring
  | .east => if d % 4 < 3 then some (.die (d + 1)) else ((List.range 8).find? (fun k => [(attachSides k).1, (attachSides k).2].contains (d, Side.east))).map .ring
  | .south => if 0 < d / 4 then some (.die (d - 4)) else ((List.range 8).find? (fun k => [(attachSides k).1, (attachSides k).2].contains (d, Side.south))).map .ring
  | .west => if 0 < d % 4 then some (.die (d - 1)) else ((List.range 8).find? (fun k => [(attachSides k).1, (attachSides k).2].contains (d, Side.west))).map .ring

/-- The number of a side. -/
def Side.num : Side → Nat
  | .north => 0 | .east => 1 | .south => 2 | .west => 3

/-- The edge port, 0 to 7, by which a packet of a source and a destination leaves a die toward its next stop: which of the two ports of the
side is a fixed function of source and destination that the spec does not give (06 R203, log 64). -/
def edgePort (src dst : Nat) (d : Nat) (next : Stop) : Nat :=
  match next with
  | .die e => 2 * (sideToward d e).num + (Config.edgePort src dst).val
  | .ring k =>
    let side := if (attachSides k).1.1 = d then (attachSides k).1.2 else (attachSides k).2.2
    2 * side.num + (Config.edgePort src dst).val
  | .md => 0

/-- The combining nodes on the way of a unison-add packet, in order: at every die the crossbar's output, toward a seat (seat in the die) or
toward an edge port (144 + port), and then the edge port's own output (152 + port); 512 numbers stand for a die (06 R221). -/
def redNodes (src dst : Nat) : List Nat :=
  let a := stopOf src
  let path := hops a (stopOf dst)
  ((a :: path).zip path).flatMap (fun p => match p.1 with
    | .die d => let e := edgePort src dst d p.2; [512 * d + 144 + e, 512 * d + 152 + e]
    | _ => [])
    ++ (if dst < 2304 then [512 * (dst / 144) + dst % 144] else [])

end Sys2Proof.Machine
end

