-- ==== Sys2Proof/Machine/Ranges.lean ====
section
/-! DEFINITION. Addresses: the destinations of the global map, accesses to them with their network status, and
translation through a context's range entries (06 R212, R629, 07 R230-R248, 08 R284, 09 R302-R317). -/
namespace Sys2Proof.Machine

/-! ### Destinations (07 R230-R237) -/

/-- Where an access of `n` bytes lands. -/
inductive Place where
  /-- Memory at an address: of a channel, a CXL range or a die slice; a second copy is kept during a migration. -/
  | cell (a : Nat) (chan : Option Nat) (copy : Option Nat)
  | scratch (seat off : Nat)
  | peg (seat p : Nat)
  /-- A write of another shape to a peg word of the seat or the crossbar of an island. -/
  | pegBad (island : Nat)
  | held (slot l off : Nat)
  | image (key l off : Nat)
  /-- Over Ghengo: the port it leaves by, the module it goes to, kind and identifier of the binding, the offset within it, the sending
  agent, and whether the binding is of seat windows (14 R469, R474). -/
  | far (port dst kind id off agent : Nat) (seats : Bool)
  | host (addr : Nat)
  /-- Answered with a status at its source and performed nowhere. -/
  | no (status : Nat)
  /-- Answered with a status by an island on its way (06 R629). -/
  | noAt (island status : Nat)
  /-- Answered ISLAND_CLOSED by the closed bridge of an island, or before a failed link toward it; a write discarded there is counted
  (01 R38, 06 R217). -/
  | closed (island : Nat)
  deriving DecidableEq, Repr

/-- Network status codes (06 Table Net-3). -/
def stOk : Nat := 0
def stPoisoned : Nat := 1
def stClosed : Nat := 2
def stDenied : Nat := 3
def stNoTarget : Nat := 4
def stTimeout : Nat := 7

/-! ### Routes that are open (01 R33, R37, R38, 06 R217) -/

/-- Whether a seat's supply is gated: it is in no shell, not being scrubbed and serves no stage work; a lent seat is in a shell of its borrower
(01 R36, 15 R500). -/
def seatGated (s : State) (n : Nat) : Bool :=
  decide (n < 2304) && pget s P.startStage == 5 && (seatShell s n).isNone && !s.scrubSeats.contains n
    && !(((s.lent ++ s.lentEnding.map (·.1)).filter (fun l => l.kind == 1)).flatMap (·.res)).contains n

/-- An island as it stands now: until the islands run all but MD are in reset, and a gated seat has its bridge closed (01 R36, R37, 16 R528). -/
def islandNow (s : State) (n : Nat) : Island :=
  let i := islandOf s n
  if !s.start.islandsUp ∧ n ≠ 2352 then { i with st := .inReset, bridge := .closed }
  else if i.st = .running ∧ seatGated s n then { i with st := .gated, bridge := .closed } else i

/-- Whether an island's bridge lets packets in (01 R37, R38). A bridge that drains no longer accepts traffic; R37 does not say what it answers,
and the model lets it answer as a closed one (DESIGN CHOICE, log 73). -/
def islandOpen (s : State) (n : Nat) : Bool := decide ((islandNow s n).bridge = .opened) && decide ((islandNow s n).st = .running)

/-- The first island on the way of a packet that it cannot enter: its bridge is closed, or the link to it has failed. -/
def blockedAt (s : State) (src dst : Nat) : Option Nat :=
  let failed := pget s P.linkFailedMask
  ((routeOf src dst).find? (fun h => (match h.2 with | some l => bitOf failed l | none => false) || !islandOpen s h.1)).map (·.1)

/-- Where a request of a source island to an island lands: `p` once it gets there. What the island itself would refuse meets a closed bridge before it
(DEDUCED, log 73). -/
def reach (s : State) (src dst : Nat) (p : Place) : Place :=
  match blockedAt s src dst with
  | some n => .closed n
  | none => match p with
    | .no st => .noAt dst st
    | p => p

/-- Whether the response of an island reaches the requester: one that meets a closed bridge or a failed link is lost there, and the requester
times out (06 R213, R217; log 64). -/
def answers (s : State) (src dst : Nat) : Bool := (blockedAt s dst src).isNone

/-! ### Channels -/

/-- Whether a shell may reach a channel: it lists it, or a migration of it copies to or from it (02 R73, R628). -/
def shellHasChannel (sh : Shell) (c : Nat) : Bool :=
  sh.rig.channels.contains c || sh.migs.any (fun m => m.src == c || m.dst == c)

/-- The migration of a shell that has copied an offset of a channel over: what the channel held there before is gone from it (02 R73). -/
def migOver (sh : Shell) (c off : Nat) : Option Migration := sh.migs.find? (fun m => m.dst == c && decide (off / 65536 < m.copied))

/-- The other copy that is kept current of a granule a migration has copied: the source, so that a rollback finds every
granule in it (02 R73, "When a commit latches", log 15). None where another migration of the shell has copied over it. -/
def migrationTwin (sh : Shell) (c off : Nat) : Option Nat :=
  match migOver sh c off with
  | some m => if (migOver sh m.src off).isSome then none else some (chanBase m.src + off)
  | none => none

/-- Where an address in a migration's source stands once its granule is copied: in the destination (02 R73). One that another migration of the
shell has copied over belongs to that one. -/
def migMoved (s : State) (shell : Option Nat) (ga : Nat) : Nat :=
  match shell with
  | none => ga
  | some sl =>
    let sh := shellOf s sl
    let off := ga % 0x80000000
    match sh.migs.find? (fun m => m.src == ga / 0x80000000 && decide (off / 65536 < m.copied)) with
    | some m => if (migOver sh m.src off).isSome then ga else chanBase m.dst + off
    | none => ga

/-- An access to a channel of a shell: the source finds holes, and the memory block what is not rigged to the shell (06 R629, 07 R231). -/
def placeChannel (s : State) (src : Nat) (shell : Option Nat) (ga0 n : Nat) : Place :=
  let ga := migMoved s shell ga0
  let c := ga / 0x80000000
  let off := ga % 0x80000000
  let ch := chanOf s c
  let mine := match shell with | some sl => shellHasChannel (shellOf s sl) c | none => true
  let cell := Place.cell ga (some c) (match shell with | some sl => migrationTwin (shellOf s sl) c off | none => none)
  if off + n > chanBytes then .no stNoTarget
  else reach s src (2328 + c / 12) (
    if !mine then .no stNoTarget
    else match ch.st with
    | .failed => .no stPoisoned
    | .trained => cell
    | .retirePending => cell
    | _ => .no stNoTarget)

/-- Fields of a CXL range record (08 Table Tiers-6). -/
def rngEnable (r : Nat) : Bool := bitOf r 255
def rngOwner (r : Nat) : Nat := bitsOf r 247 242
def rngGran (r : Nat) : Nat := bitsOf r 241 239
def rngWays (r : Nat) : Nat := 2 ^ bitsOf r 238 237
def rngBase (r : Nat) : Nat := bitsOf r 236 222
def rngSize (r : Nat) : Nat := bitsOf r 221 206
def rngTarget (r w : Nat) : Nat := bitsOf r (22 * w + 21) (22 * w)
def rngPort (r w : Nat) : Nat := rngTarget r w / 2 ^ 19
def rngDev (r w : Nat) : Nat := rngTarget r w / 2 ^ 16 % 8
def rngStart (r w : Nat) : Nat := rngTarget r w % 2 ^ 16

def cxlWindow : Nat := 0x100000000000
def rngOf (s : State) (i : Nat) : Nat := tget (fun _ => 0) s.cxlRanges i

/-- The active range of an address in the CXL window (08 R284). -/
def rangeAt (s : State) (ga : Nat) : Option Nat :=
  (List.range 16).find? (fun i =>
    let r := rngOf s i
    rngEnable r && decide (cxlWindow + rngBase r * 2 ^ 28 ≤ ga) && decide (ga < cxlWindow + (rngBase r + rngSize r) * 2 ^ 28))

/-- The device address an access in a range reaches: port, device index and address on the device (08 R284). -/
def cxlDecode (r ga : Nat) : Nat × Nat × Nat :=
  let off := ga - cxlWindow - rngBase r * 2 ^ 28
  let g := 256 * 2 ^ rngGran r
  let n := rngWays r
  let way := (off / g) % n
  (rngPort r way, rngDev r way, rngStart r way * 2 ^ 28 + (off / (g * n)) * g + off % g)

/-- The disabled range record that covers an address, if there is one. -/
def rangeOff (s : State) (ga : Nat) : Option Nat :=
  (List.range 16).find? (fun i =>
    let r := rngOf s i
    !rngEnable r && decide (cxlWindow + rngBase r * 2 ^ 28 ≤ ga) && decide (ga < cxlWindow + (rngBase r + rngSize r) * 2 ^ 28))

/-- An access to the CXL window: an address in no range has no target, and the CXL block decides of a range that is disabled, not READY, or not
the agent's shell's (06 R629, 08 R284, R286). -/
def placeCxl (s : State) (src : Nat) (shell : Option Nat) (ga n : Nat) : Place :=
  match rangeAt s ga with
  | none => match rangeOff s ga with
    | some i => reach s src (2344 + (cxlDecode (rngOf s i) ga).1) (.no stNoTarget)
    | none => .no stNoTarget
  | some i =>
    let r := rngOf s i
    reach s src (2344 + (cxlDecode r ga).1) (
      if rangeAt s (ga + n - 1) ≠ some i ∨ pget s (P.cxlRangeState i) ≠ 2 ∨ some (rngOwner r) ≠ shell then .no stNoTarget
      else .cell ga none none)

/-- An access to a die slice: the shell must hold the slice (06 R629, 07 R231, 09 R305). -/
def placeSlice (s : State) (src : Nat) (shell : Option Nat) (ga n : Nat) : Place :=
  let d := (ga - 0x200000000000) / 0x10000000
  let off := (ga - 0x200000000000) % 0x10000000
  let k := d * 48 + off / 0x400000
  if off + n > 0xC000000 then .no stNoTarget
  else reach s src (2304 + d) (
    if sliceOwner s k ≠ shell ∨ shell = none ∨ off / 0x400000 ≠ (off + n - 1) / 0x400000 then .no stNoTarget
    else .cell ga none none)

/-! ### Seat windows -/

/-- What `n` bytes at an offset of any seat window meet where the window leads (07 R232, R248). -/
def windowRefuses (island off n : Nat) : Option Place :=
  let inScratch := decide (off + n ≤ scratchBytes)
  let inPegs := decide (0x1C0000 ≤ off) && decide (off + n ≤ 0x1C0180)
  if !inScratch && !inPegs then some (.no stNoTarget)
  else if inPegs && (n != 8 || off % 8 != 0) then some (.pegBad island)
  else none

/-- An access to the window of a seat of this module at an offset: the seat island decides of its holes and its peg words, so a closed bridge
comes before them (06 R629, 07 R232, R248). -/
def placeSeat (s : State) (src seat off n : Nat) : Place :=
  reach s src seat (match windowRefuses seat off n with
    | some p => p
    | none => if 0x1C0000 ≤ off then .peg seat ((off - 0x1C0000) / 8) else .scratch seat off)

/-- The ports that granted leases hold, and those that no shell and no lease holds (14 R469, R480). -/
def lentPorts (s : State) : List Nat := s.lent.flatMap (·.ports)
def freePorts (s : State) : List Nat :=
  (List.range 16).filter (fun p => !(s.shells.flatMap (fun e => if e.2.st = .free then [] else e.2.rig.ports) ++ lentPorts s).contains p)

/-- An access over Ghengo. With no port UP the request cannot leave, and its link block answers TIMEOUT (14 R469, R471). -/
def placeFar (s : State) (src dst : Nat) (ports : List Nat) (kind id off : Nat) (seats : Bool) : Place :=
  match agentPort s src dst ports with
  | some p => reach s src (2336 + p / 2) (.far p dst kind id off src seats)
  | none => .no stTimeout

/-- The seat whose crossbar holds what is sent to a logical seat in HOLD: where it moves to, while a seat change is copied (02 Table Shells-8). -/
def holdSeat (sh : Shell) (l : Nat) : Option Nat :=
  match sh.applying, sh.commit with
  | true, some m => m.rig.seats[l]?
  | _, _ => sh.rig.seats[l]?

/-- An access to the window of a leased seat, over its lease. -/
def placeLeased (s : State) (src : Nat) (sh : Shell) (l off _n : Nat) : Place :=
  match (leasedSeats sh)[l - sh.rig.seats.length]? with
  | some x => if remoteLost sh x then .no stNoTarget
    else placeFar s src (bitsOf x.1 255 240) (recPorts x.1) 1 (bitsOf x.1 239 208) (x.2 * 0x200000 + off) true
  | none => .no stNoTarget

/-- An access to a logical seat's window at an offset in it, where windows `w` go. A leased seat is reached over its lease, a seat in HOLD at the
crossbar of its die (07 Table Model-3). -/
def placeVia (s : State) (src slot : Nat) (w : WinMap) (l off n : Nat) : Place :=
  let sh := shellOf s slot
  match w with
  | .image k => match sh.rig.seats[l]? with
    | some seat => reach s src (2304 + seat / 144) ((windowRefuses (2304 + seat / 144) off n).getD (.image k l off))
    | none =>
      -- a save image holds the local seats only: leased seats stay where they are (02 R79)
      if k % 16 = 8 then placeLeased s src sh l off n else (windowRefuses 2352 off n).getD (.image k l off)
  | .here =>
    if sh.holds.contains l then
      match holdSeat sh l with
      | some seat => reach s src (2304 + seat / 144) (.held slot l off)
      | none => .held slot l off
    else match sh.rig.seats[l]? with
    | some seat => placeSeat s src seat off n
    | none => placeLeased s src sh l off n

/-- An access to a logical seat's window (07 R235). -/
def placeWindow (s : State) (src slot l off n : Nat) : Place := placeVia s src slot (shellOf s slot).windows l off n

/-- An access to the logical seat windows (07 R234): inside the agent's own shell only. -/
def placeSeats (s : State) (src : Nat) (shell : Option Nat) (ga n : Nat) : Place :=
  let o := ga - 0x300000000000
  let slot := o / 0x2000000000
  let l := o % 0x2000000000 / 0x200000
  if shell ≠ some slot ∨ l ≥ shellSeats (shellOf s slot) then .no stNoTarget
  else placeWindow s src slot l (o % 0x200000) n

/-- An access of an agent on MD that R233 permits to a physical seat window, on MGT; one that names no seat has no target (06 R629, 07 R231). -/
def placePhysical (s : State) (src ga n : Nat) : Place :=
  let o := ga - 0x210000000000
  match seatOfIdent (o / 0x200000) with
  | some seat => placeSeat s src seat (o % 0x200000) n
  | none => .no stNoTarget

/-! ### The Ghengo peer window -/

/-- The context whose job runs on a shell. -/
def shellCtx (s : State) (sl : Nat) : Option Nat := (shellOf s sl).job.map (·.ctx)

/-- The Ghengo peer window (14 R474). -/
def inPeerWindow (ga : Nat) : Bool := decide (0x800000000000 ≤ ga) && decide (ga < 0x1000000000000)

/-- Whether an offset in the peer window lies in a Boathouse aperture (14 R494). -/
def inBoathouse (s : State) (off : Nat) : Bool := (tfind s.bhApertures (off / 2 ^ 40)).isSome

/-- The Boathouse key behind an offset of the peer window, if a window is bound there (14 Table Ghengo-6). -/
def bhAt (s : State) (off n : Nat) : Option BhHome :=
  s.bhHomes.find? (fun h => h.st != 0 && h.aperture == off / 2 ^ 40 && h.window == off % 2 ^ 40 / 2 ^ 30
    && decide (off % 2 ^ 30 + n ≤ h.units * 2 ^ 21))

/-- The 2 MiB units of Boathouse capacity that the module serves, by address: of its channels, then of its READY ranges that no shell owns
(14 R490). -/
def bhUnits (s : State) : List Nat :=
  s.bhChannels.flatMap (fun c => (List.range 992).map (fun k => chanBase c + k * 0x200000))
    ++ (s.bhRanges.filter (fun i => rngEnable (rngOf s i) && pget s (P.cxlRangeState i) == 2 && rngOwner (rngOf s i) == 0x3F)).flatMap (fun i =>
      (List.range (rngSize (rngOf s i) * 128)).map (fun k => cxlWindow + rngBase (rngOf s i) * 2 ^ 28 + k * 0x200000))

/-- Where an offset in a key that the module holds lies; in a CXL range, its CXL block decides of a range that is not READY (08 R286). -/
def bhPlace (s : State) (src : Nat) (h : BhHeld) (off n : Nat) : Place :=
  match h.units[off / 0x200000]? with
  | none => .no stNoTarget
  | some a0 =>
    let a := a0 + off % 0x200000
    if off / 0x200000 ≠ (off + n - 1) / 0x200000 then .no stNoTarget
    else if a < 0x3000000000 then placeChannel s src none a n
    else match rangeAt s a with
      | some i => reach s src (2344 + (cxlDecode (rngOf s i) a).1) (if pget s (P.cxlRangeState i) = 2 then .cell a none none else .no stNoTarget)
      | none => .no stNoTarget

/-- The module and the ports behind an aperture that some binding holds. -/
def apertureTo (s : State) (a : Nat) : Option (Nat × List Nat) :=
  match s.borrowed.find? (fun l => l.st == 3 && bitsOf l.record 167 160 == a), s.gchans.find? (fun c => c.2.st == .opened && c.2.aperture == a),
    s.bhHomes.find? (fun h => h.st != 0 && h.aperture == a) with
  | some l, _, _ => some (bitsOf l.record 255 240, recPorts l.record)
  | none, some c, _ => some (c.2.peer, (shellOf s c.2.shell).rig.ports)
  | none, none, some h => some (h.member, freePorts s)
  | none, none, none => none

/-- An access to the Ghengo peer window: its aperture must be bound for the agent's shell or its running context, and the
offset lie within the binding's extent (14 R474, R487). A channel in PEER_GONE and a key that is not held answer NO_TARGET
(14 R488, R492). `own` names the context of an access that the device makes on its own account. -/
def placePeer (s : State) (src : Nat) (shell own : Option Nat) (off n : Nat) : Place :=
  let a := off / 2 ^ 40
  let o := off % 2 ^ 40
  let ctx := match own with
    | some c => some c
    | none => shell.bind (shellCtx s)
  match shell, own with
  | none, none => .no stNoTarget
  | _, _ =>
    let lease := s.borrowed.find? (fun l =>
      let r := l.record
      let unit := if bitsOf r 175 168 = 1 then 0x200000 else 0x80000000
      let room := if bitsOf r 175 168 = 1 then 0x200000 else chanBytes
      l.st == 3 && (own.isSome || l.slot == shell) && bitsOf r 167 160 == a && decide (o / unit < bitsOf r 159 144) && decide (o % unit + n ≤ room))
    let chan := s.gchans.find? (fun c => c.2.st == .opened && c.2.aperture == a && some c.2.ctx == ctx && decide (o + n ≤ c.2.extent * 0x200000))
    match lease, chan, bhAt s off n with
    | some l, _, _ => placeFar s src (bitsOf l.record 255 240) (recPorts l.record) 1 (bitsOf l.record 239 208) o (bitsOf l.record 175 168 == 1)
    | none, some c, _ => placeFar s src c.2.peer (shellOf s c.2.shell).rig.ports 2 c.2.peerChan o true
    | none, none, some h =>
      if !(h.st == 2 || h.st == 3 || h.st == 4) || tfind s.bhApertures a != ctx then .no stNoTarget
      else if h.member ≠ pget s P.ghModuleId then placeFar s src h.member (freePorts s) 3 (a * 1024 + h.window) (o % 2 ^ 30) false
      -- a module may be its own member (14 "The Boathouse")
      else match s.bhHeld.find? (fun k => k.key == h.key && k.epoch == h.epoch) with
        | some k => bhPlace s src k (o % 2 ^ 30) n
        | none => .no stNoTarget
    | none, none, none => match apertureTo s a with
      -- the sending link block decides of a foreign aperture (06 R629); a free one has no port, and is refused at its source (log 73)
      | some (dst, ports) => (match agentPort s src dst ports with | some p => reach s src (2336 + p / 2) (.no stNoTarget) | none => .no stNoTarget)
      | none => .no stNoTarget

/-- Where the model lays the addresses of a lent seat that only its borrower can translate: they lie in no window of the map, and what is
sent to them goes to the borrower (14 R483, log 52). -/
def lentWindow : Nat := 2 ^ 60

/-- Where it lays, beyond those, the windows of the borrower's logical seats, for a lent seat's PEG.RSET (07 R247, log 52). -/
def lentPegs : Nat := lentWindow + 2 ^ 59

/-- Where an access of a source island for a shell lands (07 Table Model-1, R233: physical windows and MD registers are not for it). An access of
the device on its own account is for a context. -/
def place (s : State) (src : Nat) (shell : Option Nat) (ga n : Nat) (own : Option Nat := none) : Place :=
  if ga < 0x3000000000 then placeChannel s src shell ga n
  else if cxlWindow ≤ ga ∧ ga < 0x180000000000 then placeCxl s src shell ga n
  else if 0x200000000000 ≤ ga ∧ ga < 0x200100000000 then placeSlice s src shell ga n
  else if 0x300000000000 ≤ ga ∧ ga < 0x340000000000 then placeSeats s src shell ga n
  else if 0x800000000000 ≤ ga ∧ ga < 0x1000000000000 then placePeer s src shell own (ga - 0x800000000000) n
  else if inHostWindow ga then reach s src 2352 (.host (hostAddr ga))
  else if lentWindow ≤ ga then
    match lentOf s src with
    | some (l, _) => if lentPegs ≤ ga then placeFar s src l.borrower l.ports 1 l.id (ga - lentPegs) true
        else placeFar s src l.borrower l.ports 1 l.id (ga - lentWindow) false
    | none => .no stNoTarget
  else .no stNoTarget

/-- The island where an access lands. -/
def placeIsland (s : State) (p : Place) : Nat :=
  match p with
  | .cell a (some c) _ => let _ := a; 2328 + c / 12
  | .cell a none _ => match rangeAt s a with
    | some i => 2344 + (cxlDecode (rngOf s i) a).1
    | none => 2304 + (a - 0x200000000000) / 0x10000000
  | .scratch seat _ => seat
  | .peg seat _ => seat
  | .far port _ _ _ _ _ _ => 2336 + port / 2
  | .held slot l _ => 2304 + (holdSeat (shellOf s slot) l).getD 0 / 144
  | .noAt island _ => island
  | .closed island => island
  | .pegBad island => island
  -- the crossbar of the die that the seat last occupied (07 R252)
  | .image k l _ => match (shellOf s (k / 16)).rig.seats[l]? with
    | some seat => 2304 + seat / 144
    | none => 2352
  | .host _ => 2352
  | .no _ => 2352

/-- Whether a tender core caches accesses to an address (05 R167, 07 Table Model-1). -/
def cacheable (ga : Nat) : Bool :=
  decide (ga < 0x3000000000) || (decide (cxlWindow ≤ ga) && decide (ga < 0x180000000000))
    || (decide (0x200000000000 ≤ ga) && decide (ga < 0x200100000000)) || inHostWindow ga

/-! ### Channel data and poison (08 R268-R270) -/

/-- Whether a read of a span of a channel meets a block that is marked or uncorrectable, or a FAILED channel (08 R268, R273). -/
def chanPoisoned (s : State) (c a n : Nat) : Bool :=
  let off := a % 0x80000000
  (chanOf s c).st == .failed || ((chanOf s c).poison ++ (chanOf s c).bad).any (fun b => decide (b * 64 < off + n) && decide (off < b * 64 + 64))

/-- The memory keeps data of channels and CXL ranges as its difference from what zero ciphertext decrypts to, so a scrub leaves nothing
listed (18 R574, R575). Who holds an offset of a channel, and its logical number: a shell, or none for the device's own use under the store key.
During a migration a channel holds what has been copied over it, and else what it held (02 R73). -/
def chanHolder (s : State) (c off : Nat) : Nat × Nat :=
  match s.shells.find? (fun e => e.2.st != .free && shellHasChannel e.2 c) with
  | some (slot, sh) => (slot, match migOver sh c off, sh.migs.find? (fun m => m.src == c) with
    | some m, _ => m.lch
    | none, some m => m.lch
    | none, none => if sh.rig.channels.contains c then sh.rig.channels.idxOf c else ((sh.migs.find? (fun m => m.dst == c)).map (·.lch)).getD (sh.rig.channels.idxOf c))
  | none => (32, c)

/-- What a byte of zero ciphertext at an address decrypts to; zero outside channels and CXL ranges, which alone are encrypted. -/
def cellPad (s : State) (a : Nat) : Byte :=
  let key := fun (slot : Nat) => pget s P.bootCounter * 64 + slot
  if a < 0x3000000000 then
    let h := chanHolder s (a / 0x80000000) (a % 0x80000000)
    Config.xtsZero (key h.1) h.2 (a % 0x80000000)
  else if cxlWindow ≤ a ∧ a < 0x180000000000 then
    match rangeAt s a with
    | some i => Config.xtsZero (key (min 32 (rngOwner (rngOf s i)))) (256 + i) (a - cxlWindow - rngBase (rngOf s i) * 2 ^ 28)
    | none => 0
  else 0

/-- Bytes with the pads of their addresses applied: from stored to plain and back. -/
def cellMask (s : State) (a : Nat) (b : Bytes) : Bytes := (List.range b.length).map (fun i => b.getD i 0 ^^^ cellPad s (a + i))

/-- Read memory cells. -/
def cellRead (s : State) (a n : Nat) : Bytes := cellMask s a (memRead s a n)

/-- ADDR_TAG of a block: the XOR of the seven 4-bit groups of its number (08 Table Tiers-2). -/
def addrTag (b : Nat) : Nat := (List.range 7).foldl (fun x i => x ^^^ b / 16 ^ i % 16) 0

/-- The check word of a block, at offset 0x7C00_0000 + a div 32 of its channel: POISON, ADDR_TAG, and the code of its ciphertext. It is a function of
what the memory and the marks hold, except for a block in `bad`, whose word does not fit its data (08 R266, R267). -/
def checkWord (s : State) (c b : Nat) : Nat :=
  let a := chanBase c + 64 * b
  let h := chanHolder s c (64 * b)
  pack [(0, (Config.secded (Config.xtsCipher (pget s P.bootCounter * 64 + h.1) h.2 (64 * b) (cellRead s a 64))).toNat), (11, addrTag b),
    (15, if (chanOf s c).poison.contains b then 1 else 0)]

/-- The controller of a channel needs the check lines of a span, each of 2 KiB: one that misses is read, and in a cache of 512 lines takes the place of
one that the spec does not name (08 R271, log 20). -/
def chanTouch (s : State) (c off n : Nat) : State :=
  (List.range ((off + n - 1) / 2048 - off / 2048 + 1)).foldl (fun s i =>
    let d := chanOf s c
    let l := off / 2048 + i
    if d.lines.contains l then s
    else if d.lines.length < 512 then chanPut s c { d with lines := d.lines ++ [l] }
    else chanPut (freeNext s) c { d with lines := d.lines.eraseIdx ((Config.freeWord s.freeCtr).toNat % 512) ++ [l] }) s

/-- Store into memory cells: on a channel, a block written whole loses its mark, and a partial write of a marked or uncorrectable block
leaves it marked and is counted (08 R269). -/
def cellWrite (s : State) (a : Nat) (chan : Option Nat) (b : Bytes) : State :=
  let s1 := memWrite s a (cellMask s a b)
  match chan with
  | none => sliceHeal s1 a b.length
  | some c =>
    let off := a % 0x80000000
    let s1 := chanTouch s1 c off b.length
    let ch := chanOf s1 c
    let whole := fun (k : Nat) => decide (off ≤ k * 64) && decide (k * 64 + 64 ≤ off + b.length)
    let touched := fun (k : Nat) => decide (k * 64 < off + b.length) && decide (off < k * 64 + 64)
    let partials := (ch.poison ++ ch.bad).filter (fun k => touched k && !whole k)
    let s2 := chanPut s1 c { ch with poison := partials.foldl sAdd (ch.poison.filter (fun k => !whole k)), bad := ch.bad.filter (fun k => !touched k) }
    pset s2 (P.chUncorrectable c) (satAdd32 (pget s2 (P.chUncorrectable c)) partials.length)

/-- The physical address of an offset in a logical channel: during a migration each granule stands where it is copied to
(02 R48, R73). None when the shell has no such channel. -/
def lchAddr (sh : Shell) (lch off : Nat) : Option Nat :=
  match sh.rig.channels[lch]? with
  | none => none
  | some c => match sh.migs.find? (fun m => m.lch == lch) with
    | some m => some (chanBase (if off / 65536 < m.copied then m.dst else m.src) + off)
    | none => some (chanBase c + off)

/-! ### The image engine (02 R77 to R79, 07 R252) -/

/-- The image engine stores bytes at a physical address on its own account: in the host window or in a CXL range (02 R78). A write that meets a
closed bridge is discarded and counted there. -/
def engineWrite (s : State) (ga : Nat) (b : Bytes) : State :=
  if inHostWindow ga then emit s (.hostWrite (hostAddr ga) b)
  else match rangeAt s ga with
    | none => s
    | some i => match reach s 2352 (2344 + (cxlDecode (rngOf s i) ga).1) (.cell ga none none) with
      | .closed n => islandPut s n { islandOf s n with discards := satInc32 (islandOf s n).discards }
      -- the CXL block of a range that is not READY refuses it (08 R286)
      | _ => if pget s (P.cxlRangeState i) = 2 then cellWrite s ga none b else { s with refused := s.refused + 1 }

/-- Where byte `p` of image slot `k` lies in the pre-emption area of a shell: its channel and address (11 R392). -/
def areaAddr (s : State) (slot k p : Nat) : Nat × Nat :=
  let n := max 1 (pget s (P.preemptLchCount slot))
  let off := (pget s (P.preemptChOffsetMib slot) + k * pget s (P.preemptSlotMib slot)) * 2 ^ 20 + p / 65536 / n * 65536 + p % 65536
  let a := (lchAddr (shellOf s slot) (pget s (P.preemptFirstLch slot) + p / 65536 % n) off).getD 0
  (a / 0x80000000, a)

/-- Bytes of an image slot, from offset `p` on, stored in the pre-emption area, granule by granule (11 R392). -/
def areaWrite (s : State) (slot k p : Nat) (b : Bytes) : State :=
  (List.range ((p % 65536 + b.length + 65535) / 65536)).foldl (fun s g =>
    let from_ := if g = 0 then p else (p / 65536 + g) * 65536
    let x := areaAddr s slot k from_
    cellWrite s x.2 (some x.1) ((b.drop (from_ - p)).take (65536 - from_ % 65536))) s

/-- An image changed to the plain bytes `new` from an offset on: what changed in it is written to its target, and the trailer with its code; of a pre-emption image to its slot of the
area (07 R252, 11 R392, 18 R600). -/
def imageChange (s : State) (key : Nat) (im : Image) (off : Nat) (new : Bytes) : State :=
  let s1 := pinc (imagePut s key im) P.imageRedirects
  match im.target with
  | none => if key % 16 < 4 then areaWrite s1 (key / 16) (key % 16) (off - 64) new else s1
  | some ga =>
    let b := im.sealed
    engineWrite (engineWrite s1 (ga + off) ((b.drop off).take new.length)) (ga + b.length - sealTrailerBytes) (b.drop (b.length - sealTrailerBytes))

/-- A write toward a seat section of an image (07 R252). -/
def imageWrite (s : State) (key l off : Nat) (b : Bytes) : State :=
  let im := imageOf s key
  let sec := im.seats.getD l {}
  let sec1 := { sec with scratch := (List.range b.length).foldl (fun t i => tset memDefault t (off + i) (b.getD i 0)) sec.scratch }
  imageChange s key { im with seats := im.seats.set l sec1 } (64 + l * seatSectionBytes + off) b

/-- Offset of the peg word in a control record, and the record of an image section with a peg written (05 Table Tender-9, 07 R252). -/
def recordPeg (r : Bytes) (p : Nat) (v : Bool) : Bytes :=
  r.take 0x300 ++ leBytes 8 (setBitOf (field r 0x300 8) p v) ++ r.drop 0x308

def imagePegWrite (s : State) (key l p : Nat) (v : Bool) : State :=
  let im := imageOf s key
  let sec := im.seats.getD l {}
  let rec1 := recordPeg sec.record p v
  imageChange s key { im with seats := im.seats.set l { sec with record := rec1 } }
    (64 + l * seatSectionBytes + scratchBytes + 196608 + 0x300) ((rec1.drop 0x300).take 8)

/-! ### Accesses with their status (06 R212) -/

/-- Whether a seat's window regions let a remote access of a kind in: every byte lies in a region with the right
(05 R184, R185). `right` is 0 for a read and 1 for a write. -/
def winAllows (c : Core) (off n right : Nat) : Bool :=
  let ws := [c.win0, c.win1, c.win2, c.win3].filter (fun w => bitOf w.rights right && w.len != 0)
  ws.any (fun w => decide (32 * w.base ≤ off) && decide (off + n ≤ 32 * (w.base + w.len)))
    || (List.range n).all (fun i => ws.any (fun w => decide (32 * w.base ≤ off + i) && decide (off + i < 32 * (w.base + w.len))))

/-- Take `n` bytes of what comes back from outside; too few bytes is its read status, or TIMEOUT. -/
def outsideTake (o : Outside) (n : Nat) : Nat × Bytes × Outside :=
  if n ≤ o.data.length then (stOk, o.data.take n, { o with data := o.data.drop n })
  else (if o.rstatus.val = 0 then stTimeout else o.rstatus.val, [], { o with data := [] })

/-- Read at a place: status, bytes, and what is left of what comes from outside. A place in HOLD is read once its window has moved. -/
def placeRead (s : State) (p : Place) (n : Nat) (o : Outside) : Nat × Bytes × Outside :=
  match p with
  | .cell a chan _ =>
    match chan with
    | some c => if chanPoisoned s c a n then (stPoisoned, [], o) else (stOk, cellRead s a n, o)
    | none => if sliceMeetsBad s a n then (stPoisoned, [], o) else (stOk, cellRead s a n, o)
  | .scratch seat off =>
    if winAllows (seatOf s seat).core off n 0 then (stOk, scratchRead s seat off n, o) else (stDenied, [], o)
  | .peg seat p => (stOk, leBytes 8 (if bitOf (seatOf s seat).pegs p then 1 else 0), o)
  | .pegBad _ => (stNoTarget, [], o)
  | .held _ _ _ => (stTimeout, [], o)
  | .image k l off =>
    let sec := (imageOf s k).seats.getD l {}
    (stOk, if off ≥ 0x1C0000 then leBytes 8 (if bitOf (field sec.record 0x300 8) ((off - 0x1C0000) / 8) then 1 else 0)
           else (List.range n).map (fun i => tget memDefault sec.scratch (off + i)), o)
  | .far _ _ _ _ _ _ _ => outsideTake o n
  -- a completion with UR or CA is answered NO_TARGET (06 R213)
  | .host _ => if n ≤ o.data.length then outsideTake o n else (stNoTarget, [], { o with data := [] })
  | .no st => (st, [], o)
  | .noAt _ st => (st, [], o)
  | .closed _ => (stClosed, [], o)

/-- One more denied write in a seat's window-denied counter (05 R185). -/
def countDenied (s : State) (seat : Nat) : State :=
  let t := seatOf s seat
  seatPut s seat { t with denied := satInc32 t.denied }

/-- The credit that a packet takes: one unit for its headers, and one for each data flit (14 Table Ghengo-3, log 49). -/
def ghUnits (op : Nat) (data : List Nat) : Nat :=
  if op = 0 then 1
  else if op = 1 ∨ op = 5 then 1 + (data.getD 1 0 + 63) / 64
  else if op = 4 then 1 + (data.length - 7 + 3) / 4
  else 2

/-- The stores of an agent that must be answered before a packet of it leaves: a peg write goes behind every GV0 write to the same module, and any
packet behind those that went by another port (14 R469). -/
def ghAfter (s : State) (agent port dst gv : Nat) : List Nat :=
  ((seatOf s agent).core.stores.filter (fun x => match x.gh with
    | some (p, d, g) => d == dst && ((gv == 3 && g == 0) || (g == gv && p != port))
    | none => false)).map (·.tag)

/-- A packet of this module toward a port of Ghengo; it takes the next tag (14 Table Ghengo-3). A store that it carries has the next number. -/
def farSend (s : State) (port dst gv kind id off agent op : Nat) (data : List Nat) : State :=
  ghOut { s with ghTag := (s.ghTag + 1) % 2 ^ 32 }
    { port := port, gv := gv, units := ghUnits op data, agent := agent, after := ghAfter s agent port dst gv, own := some s.nextId, tb := s.tb
      out := .ghPacket port dst gv kind id agent off op (s.ghTag % 2 ^ 32) 0 data }

/-- Whether a request of a seat is still in a link block, so that no response can come: the store of a number, or its core's read or atomic. -/
def ghUnsent (s : State) (seat tag : Nat) : Bool := s.ghWaiting.any (fun w => w.agent == seat && w.own == some tag)
def ghUnasked (s : State) (seat : Nat) : Bool :=
  s.ghWaiting.any (fun w => w.agent == seat && (match w.out with | .ghPacket _ _ _ _ _ _ _ op _ _ _ => op == 0 || op == 2 | _ => false))

/-- A write whose bridge is closed is discarded and counted at the island (01 R38). -/
def countClosed (s : State) (n : Nat) : State := islandPut s n { islandOf s n with discards := satInc32 (islandOf s n).discards }

/-- A posted write to host memory of an agent that may let it carry Relaxed Ordering: whether it does is the device's (07 R236, log 79). -/
def hostPost (s : State) (a : Nat) (b : Bytes) : State :=
  if Config.relaxedOrdering s.freeCtr then emit (freeNext s) (.hostRelaxed a b) else emit (freeNext s) (.hostWrite a b)

/-- The virtual channel of a write over Ghengo: GV3 for a peg word of a seat, else GV0 (14 Table Ghengo-4). -/
def farGv (seats : Bool) (off n : Nat) : Nat := if seats ∧ off % 0x200000 ≥ 0x1C0000 ∧ n = 8 then 3 else 0

/-- Write at a place: the state and the status the write is acknowledged with. A write toward a peer or a leased seat leaves
the module; a host write is posted (06 R214, 09 R322). -/
def placeWrite (s : State) (p : Place) (b : Bytes) (o : Outside) : State × Nat :=
  match p with
  | .cell a chan copy =>
    let s1 := cellWrite s a chan b
    (match copy with | some a2 => cellWrite s1 a2 (some (a2 / 0x80000000)) b | none => s1, stOk)
  | .scratch seat off =>
    if winAllows (seatOf s seat).core off b.length 1 then (scratchWrite s seat off b, stOk) else (countDenied s seat, stDenied)
  | .peg seat p => (pegWrite s seat p (bitOf (leNat b) 0), stOk)
  | .pegBad _ => (pinc s P.pegWritesMalformed, stOk)
  | .held _ _ _ => (s, stOk)
  | .image k l off =>
    (if off ≥ 0x1C0000 then imagePegWrite s k l ((off - 0x1C0000) / 8) (bitOf (leNat b) 0) else imageWrite s k l off b, stOk)
  | .far port dst kind id off agent seats =>
    -- a peg write travels on GV3 (06 Table Net-1, 14 Table Ghengo-4)
    (if farGv seats off b.length = 3 then farSend s port dst 3 kind id off agent 3 [leNat b]
     else farSend s port dst 0 kind id off agent 1 [leNat b, b.length], o.wstatus.val)
  | .host a => (hostPost s a b, stOk)
  | .no st => (s, st)
  | .noAt _ st => (s, st)
  | .closed n => (countClosed s n, stClosed)

/-! ### Translation (09 R302-R317) -/

/-- What an access needs. -/
inductive Acc where
  | read | write | atomic
  deriving DecidableEq, Repr

/-- The answer of a translation: a global address, a fault reason of 09 Table Ranges-9, or an ATS translation that has to
be asked for first. -/
inductive Tr where
  | ok (ga : Nat)
  | fault (reason : Nat)
  | ats (fn page : Nat)
  deriving DecidableEq, Repr

/-- Fields of a range entry (09 Table Ranges-1). -/
def entKind (e : Nat) : Nat := bitsOf e 207 204
def entStart (e : Nat) : Nat := bitsOf e 195 151
def entLen (e : Nat) : Nat := bitsOf e 150 106
def entGen (e : Nat) : Nat := bitsOf e 255 224
def entRight (e : Nat) (a : Acc) : Bool :=
  match a with
  | .read => bitOf e 203
  | .write => bitOf e 202
  | .atomic => bitOf e 201

/-- Whether a content of an entry covers an address. -/
def entCovers (e va : Nat) : Bool := decide (entStart e ≤ va / 4096) && decide (va / 4096 < entStart e + entLen e)

/-- The valid entry that covers an address: its index and content (09 R302). -/
def entryAt (c : Ctx) (va : Nat) : Option (Nat × Nat) :=
  (c.entries.find? (fun e => entKind e.2.entry != 0 && entCovers e.2.entry va)).map (fun e => (e.1, e.2.entry))

/-- The global address of a covered address (09 R304); none when a logical channel is not there any more. -/
def entryTarget (s : State) (e va : Nat) : Option Nat :=
  let off := va - entStart e * 4096
  match entKind e with
  | 1 =>
    let g := 4096 * 2 ^ bitsOf e 86 83
    let n := bitsOf e 93 87 + 1
    let lch := bitsOf e 100 94 + (off / g) % n
    lchAddr (shellOf s (bitsOf e 105 101)) lch (bitsOf e 18 0 * 4096 + (off / (g * n)) * g + off % g)
  | 2 => some (cxlWindow + rngBase (rngOf s (bitsOf e 105 102)) * 2 ^ 28 + bitsOf e 30 0 * 4096 + off)
  | 3 => some (0x200000000000 + bitsOf e 100 97 * 0x10000000 + bitsOf e 15 0 * 4096 + off)
  | 4 => some (0x100000000000000 + bitsOf e 43 0 * 4096 + off)
  | 5 => some (0x300000000000 + bitsOf e 105 101 * 0x2000000000 + bitsOf e 15 0 * 0x200000 + off)
  | 6 => some (0x800000000000 + bitsOf e 34 0 * 4096 + off)
  | _ => none

/-- The key of a cached ATS translation. -/
def atcKey (fn page : Nat) : Nat := fn * 2 ^ 44 + page

/-- Whether an address lies in the span of an entry that a job pinned and that was revoked or replaced since (09 R308). -/
def pinnedGone (c : Ctx) (pins : List (Nat × Nat)) (va : Nat) : Bool :=
  pins.any (fun p => (tget (fun _ => ({} : RangeSlot)) c.entries p.2).gone.any (fun e => entGen e == p.1 && entCovers e va))

/-- Translate one address of a context with the pinned generations of a job (09 R304, R307, R308, R317). -/
def translatePins (s : State) (cid : Nat) (pins : List (Nat × Nat)) (va : Nat) (a : Acc) : Tr :=
  let c := ctxOf s cid
  match entryAt c va with
  | none => .fault (if pinnedGone c pins va then 0x10 else 0x01)
  | some (i, e) =>
    if pins.any (fun p => p.2 == i && p.1 != entGen e) then .fault 0x10
    else if !entRight e a then .fault 0x02
    else match entryTarget s e va with
      | none => .ok 0x7FFFFFFF000
      | some ga =>
        if bitOf e 200 ∧ inHostWindow ga then
          let page := hostAddr ga / 4096
          match tfind s.atc (atcKey c.fn page) with
          | none => .ats c.fn page
          | some (p, w) => if p = 2 ^ 52 ∨ (a ≠ .read ∧ !w) then .fault 0x04 else .ok (0x100000000000000 + p * 4096 + ga % 4096)
        else .ok ga

/-! ### Range caches (09 R316) -/

/-- An entry comes into the range cache of a die; a full one gives up the entry it has held longest, which the spec leaves open (log 35). -/
def rangeIn (s : State) (die cid idx : Nat) : State :=
  let l := tget (fun _ => []) s.rangeCaches die
  let k := cid * 4096 + idx
  if l.contains k then s
  else { s with rangeCaches := tset (fun _ => []) s.rangeCaches die ((if l.length < 512 then l else l.tail) ++ [k]) }

/-- An access on a die translates through an entry: a miss brings it in, and is counted. -/
def rangeTouch (s : State) (die cid va : Nat) : State :=
  match entryAt (ctxOf s cid) va with
  | none => s
  | some (i, _) =>
    if (tget (fun _ => []) s.rangeCaches die).contains (cid * 4096 + i) then s else rangeIn (pinc s P.rangeCacheMisses) die cid i

/-- Entries leave every range cache. -/
def rangeDrop (s : State) (f : Nat → Bool) : State :=
  { s with rangeCaches := (s.rangeCaches.map (fun e => (e.1, e.2.filter (fun k => !f k)))).filter (fun e => e.2 != []) }

/-- A denied ATS translation raises its fault once: the page is asked for again by the next access to it (09 R317, log 35). -/
def atsForget (s : State) (cid va : Nat) : State :=
  let c := ctxOf s cid
  match entryAt c va with
  | none => s
  | some (_, e) =>
    match entryTarget s e va with
    | none => s
    | some ga => if bitOf e 200 ∧ inHostWindow ga then { s with atc := tdel s.atc (atcKey c.fn (hostAddr ga / 4096)) } else s

/-- Translate for the device's own accesses of a context, which pin nothing. -/
def translate (s : State) (cid va : Nat) (a : Acc) : Option Nat :=
  match translatePins s cid [] va a with
  | .ok ga => some ga
  | _ => none

/-- The first page of a span at which an access of the device itself waits for an ATS translation (09 R317). -/
def atsWanted (s : State) (cid : Nat) (a : Acc) : Nat → Nat → Nat → Option (Nat × Nat)
  | 0, _, _ => none
  | fuel + 1, va, n =>
    if n = 0 then none
    else match translatePins s cid [] va a with
    | .ats f p => some (f, p)
    | _ =>
      let k := min n (4096 - va % 4096)
      atsWanted s cid a fuel (va + k) (n - k)

/-- An access of the device itself to `n` bytes of a context: where a page has no ATS translation yet, that is asked for and the access is made
after it (09 R317). -/
def withAts (s : State) (cid : Nat) (a : Acc) (va n : Nat) (go : Ans) : Ans :=
  match atsWanted s cid a (n / 4096 + 2) va n with
  | some (f, p) => .next (emit s (.atsRequest f p))
  | none => go

/-- The shell that an entry names, for whose agents its target is reached (09 Table Ranges-2). -/
def entryShell (s : State) (e : Nat) : Option Nat :=
  match entKind e with
  | 1 => some (bitsOf e 105 101)
  | 2 => some (rngOwner (rngOf s (bitsOf e 105 102)))
  | 3 => some (bitsOf e 105 101)
  | 5 => some (bitsOf e 105 101)
  | _ => none

/-- The shell for which the device reaches an address of a context on its own account. -/
def vaShell (s : State) (cid va : Nat) : Option Nat :=
  match entryAt (ctxOf s cid) va with
  | some (_, e) => entryShell s e
  | none => none

/-- The new value of an atomic of `w` bytes (07 R245). -/
def amoValue (op : AmoOp) (w a b : Nat) : Nat :=
  let m := 2 ^ (8 * w)
  let sg : Nat → Int := fun x => if x ≥ m / 2 then (x : Int) - m else x
  let x := a % m
  let y := b % m
  match op with
  | .swap => y
  | .add => (x + y) % m
  | .xor => x ^^^ y
  | .and => x &&& y
  | .or => x ||| y
  | .min => if sg y < sg x then y else x
  | .max => if sg x < sg y then y else x
  | .minu => min x y
  | .maxu => max x y

def amoCode : AmoOp → Nat
  | .swap => 0 | .add => 1 | .xor => 2 | .and => 3 | .or => 4 | .min => 5 | .max => 6 | .minu => 7 | .maxu => 8

def amoOf (n : Nat) : AmoOp := [AmoOp.swap, .add, .xor, .and, .or, .min, .max, .minu, .maxu].getD n .swap

/-- The request of an atomic leaves the device, where its place lies outside: on the host FetchAdd or Swap (07 R245). -/
def askAtomic (s : State) (p : Place) (w : Nat) (op : AmoOp) (v : Nat) : State :=
  match p with
  | .far port dst kind id off agent _ => farSend s port dst 0 kind id off agent 2 [amoCode op, w, v]
  | .host a => emit s (.hostAtomic a w (op == .swap) v)
  | _ => s

/-- The request of a read of `n` bytes leaves the device, where its place lies outside. -/
def askRead (s : State) (p : Place) (n : Nat) : State :=
  match p with
  | .far port dst kind id off agent _ => farSend s port dst 0 kind id off agent 0 [n]
  | .host a => emit s (.hostRead a n)
  | _ => s

/-- Whether a response of a place reaches its requester (06 R33, R213). -/
def placeAnswers (s : State) (src : Nat) (p : Place) : Bool :=
  match p with
  | .no _ => true
  | .closed _ => true
  | p => answers s (placeIsland s p) src

/-- The logical seat that an address in the logical seat windows names, and the offset in its window (07 R234). -/
def windowOf (ga : Nat) : Option (Nat × Nat × Nat) :=
  if 0x300000000000 ≤ ga ∧ ga < 0x340000000000 then
    let o := ga - 0x300000000000
    some (o / 0x2000000000, o % 0x2000000000 / 0x200000, o % 0x200000)
  else none

/-! ### Hold buffers, and credit of bridges (01 R34, 06 R210, R211) -/

/-- Units of 64 bytes that a packet takes in a hold buffer: its data flits, and one where it has none (DESIGN CHOICE, log 74). -/
def pktUnits : NetOp → Nat
  | .write d _ => max 1 ((d.length + 63) / 64)
  | _ => 1

/-- The bytes in the hold buffer of a die's crossbar, and whether a packet of some units finds room in its 256 KiB. -/
def holdBytes (s : State) (die : Nat) : Nat :=
  64 * ((s.shells.map (fun e => ((e.2.held.filter (fun k => (holdSeat e.2 k.lseat).getD 0 / 144 == die)).map (fun k => pktUnits k.op)).sum)).sum
    + (s.red.filter (fun p => p.held && (holdSeat (shellOf s p.slot) p.lseat).getD 0 / 144 == die)).length)
def holdRoom (s : State) (die units : Nat) : Bool := decide (holdBytes s die + 64 * units ≤ 0x40000)

/-- The virtual channel of a packet toward a seat (06 Table Net-1). -/
def opVc : NetOp → Nat
  | .peg _ _ => 3
  | .write _ .debug => 4
  | _ => 0

/-- The crossings, each from an island to the next, of a packet on its way. -/
def crossings (src dst : Nat) : List (Nat × Nat) :=
  let path := (routeOf src dst).map (·.1)
  (src :: path).zip path

/-- A packet that waits: its source, the virtual channel, and the crossings before the crossbar that withholds credit. -/
structure Waiter where
  src : Nat
  vc : Nat
  path : List (Nat × Nat)
  deriving DecidableEq, Repr

/-- The crossbar before a logical seat. -/
def seatBar (s : State) (slot l : Nat) : Nat := 2304 + (holdSeat (shellOf s slot) l).getD 0 / 144

/-- The packets that wait for credit: those toward seats, and unison-add packets before a hold buffer that is full (06 R211). -/
def waiters (s : State) : List Waiter :=
  s.upstream.map (fun k => { src := k.src, vc := opVc k.op, path := crossings k.src (seatBar s k.slot k.lseat) })
    ++ (s.red.filter (fun p => !p.held && p.route.isEmpty && p.node.isNone && p.dest.isNone && (shellOf s p.slot).holds.contains p.lseat
        && !holdRoom s ((holdSeat (shellOf s p.slot) p.lseat).getD 0 / 144) 1)).flatMap (fun p =>
          (p.origins.take 1).map (fun a => { src := a.1, vc := 2, path := crossings a.1 (seatBar s p.slot p.lseat) }))

/-- Where each waiting packet stands: the crossing in whose bridge it lies, the last one before a bridge whose shared space of two packets is
full, or none while it stands at its source; with its virtual channel and source. The escape buffer of a bridge takes only a packet that ends in
the receiving island, and such a packet is taken at once. -/
def bridgeSpots (s : State) : List (Option (Nat × Nat) × Nat × Nat) :=
  (waiters s).foldl (fun l w =>
    l ++ [((w.path.takeWhile (fun c => decide (l.countP (fun x => x.1 == some c && x.2.1 == w.vc) < 2))).getLast?, w.vc, w.src)]) []

/-- The credit that the sending side of a crossing has on a virtual channel, in packets of maximum size. -/
def bridgeCredit (s : State) (src dst vc : Nat) : Nat := 2 - (bridgeSpots s).countP (fun x => x.1 == some (src, dst) && x.2.1 == vc)

/-- Whether a packet of a source to an island stands behind one of its virtual channel: at its source, or in a bridge on its way that keeps order
and does not end its way (01 R34, 06 R210). -/
def stuck (s : State) (src dst vc : Nat) : Bool :=
  (!s.upstream.isEmpty || !s.red.isEmpty) && (bridgeSpots s).any (fun x => x.2.1 == vc && match x.1 with
    | none => x.2.2 == src
    | some c => (crossings src dst).contains c && c.2 != dst)

/-- Whether a request of a source toward a place stands behind others of REQ. -/
def placeStuck (s : State) (src : Nat) (p : Place) : Bool :=
  match p with
  | .no _ => false
  | .held slot l _ => stuck s src ((holdSeat (shellOf s slot) l).getD 2352) 0
  | p => stuck s src (placeIsland s p) 0

/-- Whether packets of a source toward the logical seat at an address still wait, so that a later read or atomic of it waits behind them (07 R238). -/
def behind (s : State) (src ga : Nat) : Bool :=
  match windowOf ga with
  | none => false
  | some (slot, l, _) =>
    let mine := fun (k : NetPkt) => k.src == src && k.slot == slot && k.lseat == l
    s.upstream.any mine || (shellOf s slot).held.any mine

/-- Perform an atomic of `w` bytes with operand `v` at a place; one outside was asked for before. Answers the state, the status and the old value
(07 R245, R248). -/
def placeAtomic (s : State) (p : Place) (w : Nat) (op : AmoOp) (v : Nat) (o : Outside) : State × Nat × Nat :=
  let f := fun (x : Nat) => amoValue op w x v
  match p with
  | .cell a chan copy =>
    let (st, b, _) := placeRead s p w o
    if st = stOk then
      let s1 := cellWrite s a chan (leBytes w (f (leNat b)))
      (match copy with | some a2 => cellWrite s1 a2 (some (a2 / 0x80000000)) (leBytes w (f (leNat b))) | none => s1, stOk, leNat b)
    else (s, st, 0)
  | .scratch seat off =>
    let old := leNat (scratchRead s seat off w)
    if winAllows (seatOf s seat).core off w 0 && winAllows (seatOf s seat).core off w 1 then
      (scratchWrite s seat off (leBytes w (f old)), stOk, old)
    else (countDenied s seat, stDenied, 0)
  | .image k l off =>
    if off ≥ 0x1C0000 then (s, stNoTarget, 0)
    else
      let old := leNat ((placeRead s p w o).2.1)
      (imageWrite s k l off (leBytes w (f old)), stOk, old)
  | .held _ _ _ => (s, stTimeout, 0)
  | .peg _ _ => (s, stNoTarget, 0)
  | .pegBad _ => (s, stNoTarget, 0)
  | .far port dst kind id off agent _ =>
    let _ := (port, dst, kind, id, off, agent)
    let (st, b, _) := outsideTake o w
    (s, st, leNat b)
  | .host _ =>
    if w ≤ o.data.length then let (st, b, _) := outsideTake o w; (s, st, leNat b) else (s, stNoTarget, 0)
  | .no st => (s, st, 0)
  | .noAt _ st => (s, st, 0)
  | .closed _ => (s, stClosed, 0)

/-- Why a posted write of a function to a host page fails for want of a write grant under ATS (10 R355). -/
def atsDeniesWrite (s : State) (fn addr : Nat) : Bool :=
  match tfind s.atc (atcKey fn (addr / 4096)) with
  | some (p, w) => p == 2 ^ 52 || !w
  | none => false

end Sys2Proof.Machine
end

