-- ==== Sys2Proof/Machine/Windows.lean ====
section
/-! DEFINITION. Packets toward logical seats: performed, held while a window is in HOLD, or waiting upstream for credit; peg writes held for
their data; and the window map's changes (02 R67 to R69, 06 R199 to R201, R210, R211, 07 R235, R239, R252). -/
namespace Sys2Proof.Machine

/-! ### Answers -/

/-- The response of this module to a request over a port: it names the request's binding, agent and tag (14 Table Ghengo-3). -/
def farRespond (s : State) (port kind id agent tag st : Nat) (b : Bytes) : State :=
  ghOut s { port := port, gv := 1, units := ghUnits 5 [leNat b, b.length], agent := agent, tb := s.tb
            out := .ghPacket port (portOf s port).peer 1 kind id agent 0 5 tag st [leNat b, b.length] }

/-- A posted write that is refused with a status that no parameter counts is discarded and counted (06 R214). -/
def countRefused (s : State) (st : Nat) : State := if st = stNoTarget ∨ st = stPoisoned ∨ st = stTimeout then { s with refused := s.refused + 1 } else s

/-- An advance of a binding that its context promised is performed: KEPT rises with a value without poison (10 R351). -/
def keptRaise (s : State) (cid i v : Nat) : State :=
  let c := ctxOf s cid
  match tget (fun _ => none) c.fences i with
  | none => s
  | some b => if v < 2 ^ 63 then ctxPut s cid { c with fences := tset (fun _ => none) c.fences i (some { b with kept := max b.kept v }) } else s

/-- The word at a global address has been advanced by the device: the heads of start orders that await it read it again (11 R381). -/
def waitsDue (s : State) (ga : Nat) : State :=
  let due := fun (e : Nat × Ctx) => match e.2.cmds with
    | q :: _ => q.waitEn && !q.waitMet && q.tbPoll.isSome && translate s e.1 q.waitAddr .read == some ga
    | [] => false
  if s.ctxs.any due then
    { s with ctxs := s.ctxs.map (fun e => if due e then (e.1, { e.2 with cmds := (e.2.cmds.take 1).map (fun q => { q with tbPoll := none }) ++ e.2.cmds.drop 1 }) else e) }
  else s

/-- An advance of a binding of its own context is performed: KEPT rises, and what awaits the word looks at it (10 R351, 11 R381). -/
def advanced (s : State) (cid i v : Nat) : State :=
  match tget (fun _ => none) (ctxOf s cid).fences i with
  | none => s
  | some b => waitsDue (keptRaise s cid i v) ((translate s cid b.va .atomic).getD b.ga)

/-- A packet is answered (06 R212, R214). The acknowledgement of a core's store waits at the core for its STORE_ACK. -/
def netAnswer (s : State) (back : NetBack) (st : Nat) (b : Bytes) : State :=
  match back with
  | .none => countRefused s st
  | .packet ga => emit s (.packet ga st b)
  | .store seat tag =>
    let t := seatOf s seat
    seatPut s seat { t with core := { t.core with stores := t.core.stores.map (fun x => if x.tag = tag ∧ x.waits then { x with status := st, waits := false } else x) } }
  | .ghengo port kind id agent tag => farRespond s port kind id agent tag st b
  | .advance cid i v => advanced s cid i v

/-- The answer of a place goes back where `whole` says that its way is open. An answer that is lost on the way becomes the TIMEOUT of the requester's
own port; a core's store waits for its own timeout (06 R213, R217, R229). -/
def netReply (s : State) (whole : Bool) (back : NetBack) (st : Nat) (b : Bytes) : State :=
  if whole then netAnswer s back st b
  else match back with
  | .none => countRefused s st
  | .store _ _ => s
  | .advance _ _ _ => s
  | _ => netAnswer (pinc s P.netTimeouts) back stTimeout []

/-! ### Peg writes and the data before them (06 R201, 07 R239) -/

/-- Peg writes held for the writes of their sources are applied as far as those writes have been, in order of arrival, and answered. -/
def pegRelease (s : State) (seat : Nat) : State :=
  (seatOf s seat).pegHold.foldl (fun s h =>
    let t := seatOf s seat
    if tget (fun _ => 0) t.reqSeen h.src < h.after ∨ (t.pegHold.takeWhile (· != h)).any (fun x => x.src == h.src) then s
    else netReply (pegWrite (seatPut s seat { t with pegHold := t.pegHold.erase h }) seat h.peg h.value) (answers s seat h.src) h.back stOk []) s

/-- A seat has applied one more REQ write of a source island, or discarded it. -/
def reqApplied (s : State) (seat src : Nat) : State :=
  let t := seatOf s seat
  pegRelease (seatPut s seat { t with reqSeen := tset (fun _ => 0) t.reqSeen src (tget (fun _ => 0) t.reqSeen src + 1) }) seat

/-! ### A packet lands (06 R199, R201, R211, R214, 07 R238, R248) -/

/-- A write of a kind at a place: the sprint ingress alone is free of the window regions (05 R185). -/
def writeAt (s : State) (kind : WriteKind) (p : Place) (b : Bytes) (o : Outside) : State × Nat :=
  match kind, p with
  | .ingress, .scratch seat off => (scratchWrite s seat off b, stOk)
  | _, p => placeWrite s p b o

/-- How many bytes of its window a packet touches. -/
def opBytes : NetOp → Nat
  | .read n => n
  | .write d _ => d.length
  | .atomic _ w _ => w
  | .peg _ _ => 8

/-- The seat of this module to which a packet goes, where windows go by `w`: none toward an image or a leased seat. -/
def landSeat (s : State) (w : WinMap) (k : NetPkt) : Option Nat :=
  match w with
  | .here => (shellOf s k.slot).rig.seats[k.lseat]?
  | .image _ => none

/-- A packet toward a logical seat whose windows go by `w` lands and is answered, or is held; none when it finds no room and waits. A write on REQ
counts among those of its source that come before later peg writes, whatever becomes of it (06 R201). -/
def netLand (s : State) (w : WinMap) (k : NetPkt) (o : Outside) : Option State :=
  let p := placeVia s k.src k.slot w k.lseat k.off (opBytes k.op)
  let whole := placeAnswers s k.src p
  match p, k.op with
  | .held _ l _, op =>
    let sh := shellOf s k.slot
    -- MGT is never withheld (06 R211)
    if opVc op = 4 ∨ holdRoom s ((holdSeat sh l).getD 0 / 144) (pktUnits op) then some (shellPut s k.slot { sh with held := sh.held ++ [k] }) else none
  | .peg seat q, .peg after v =>
    let t := seatOf s seat
    if tget (fun _ => 0) t.reqSeen k.src < after ∨ t.pegHold.any (fun x => x.src == k.src) then
      (if t.pegHold.length < 32 then some (seatPut s seat { t with pegHold := t.pegHold ++ [{ src := k.src, after := after, peg := q, value := v, back := k.back }] }) else none)
    else some (netReply (pegWrite s seat q v) whole k.back stOk [])
  | p, .peg _ v =>
    let (s1, st) := placeWrite s p (leBytes 8 (if v then 1 else 0)) o
    some (netReply s1 whole k.back st [])
  | p, .read n =>
    let (st, b, _) := placeRead s p n o
    some (netReply (askRead s p n) whole k.back st b)
  | p, .write d kind =>
    let (s1, st) := writeAt s kind p d o
    let s2 := netReply s1 whole k.back st []
    match landSeat s w k with
    | some seat => some (if kind = .debug then s2 else reqApplied s2 seat k.src)
    | none => some s2
  | p, .atomic op w v =>
    let (s1, st, old) := placeAtomic (askAtomic s p w op v) p w op v o
    some (netReply s1 whole k.back st (if st = stOk then leBytes w old else []))

/-- Where the windows go for a packet: for an inbound binding of a context, where that context's windows go (11 R396). -/
def netWindows (s : State) (k : NetPkt) : WinMap :=
  match k.own with
  | some c => ctxWindows s k.slot c
  | none => (shellOf s k.slot).windows

/-- A packet goes to its seat, behind those of its virtual channel that wait before it: of its source and seat, or in a bridge on its way (06 R200, 01
R34). One that finds no room waits upstream, where credit is withheld (06 R201, R210, R211); `first` counts a peg hold buffer that is full. -/
def netSend (first : Bool) (s : State) (k : NetPkt) (o : Outside) : State :=
  let w := netWindows s k
  let wait := { s with upstream := s.upstream ++ [k] }
  let dst := match placeVia s k.src k.slot w k.lseat k.off (opBytes k.op) with
    | .held slot l _ => (holdSeat (shellOf s slot) l).getD 2352
    | p => placeIsland s p
  if s.upstream.any (fun x => x.src == k.src && x.slot == k.slot && x.lseat == k.lseat && opVc x.op == opVc k.op) ∨ stuck s k.src dst (opVc k.op) then wait
  else match netLand s w k o with
  | some s1 => s1
  | none => if first && opVc k.op == 3 && !(shellOf s k.slot).holds.contains k.lseat then pinc wait P.pegHoldFull else wait

/-- What waits upstream goes on as far as there is room, in order. -/
def netSettle (s : State) : State :=
  s.upstream.foldl (fun s k => netSend false s k {}) { s with upstream := [] }

/-! ### Accesses of MD to logical seats (05 R185, 07 R235, R252) -/

/-- A posted write of MD into the scratchpad of a logical seat, in packets of at most 256 bytes (06 R198): the sprint ingress for its binding's context, the
front end, debug. -/
def lseatWrite (s : State) (slot : Nat) (own : Option Nat) (kind : WriteKind) (l off : Nat) (b : Bytes) : State :=
  (List.range ((b.length + 255) / 256)).foldl (fun s i =>
    netSend true s { slot := slot, lseat := l, off := off + 256 * i, op := .write ((b.drop (256 * i)).take 256) kind, src := 2352, own := own } {}) s

/-- What a write of MD of `n` bytes into the scratchpad of a logical seat would be answered: OK, or why it is refused. A seat in HOLD is asked where it
stands: its windows do not change before the copy (02 R67, 05 R185). -/
def lseatStatus (s : State) (slot : Nat) (w : WinMap) (l off n : Nat) : Nat :=
  match placeVia s 2352 slot w l off n with
  | .scratch seat o => if winAllows (seatOf s seat).core o n 1 then stOk else stDenied
  | .held _ _ _ => match (shellOf s slot).rig.seats[l]? with
    | some seat => if !(off + n ≤ scratchBytes) then stNoTarget else if winAllows (seatOf s seat).core off n 1 then stOk else stDenied
    | none => stOk
  | .no st => st
  | .noAt _ st => st
  | .closed _ => stClosed
  | .peg _ _ => stNoTarget
  | .pegBad _ => stNoTarget
  | _ => stOk

/-- MD reads the scratchpad of a logical seat: the status and the bytes; none while the window is in HOLD (02 R69). One whose response is lost on the
way is answered TIMEOUT (06 R213). -/
def lseatRead (s : State) (slot : Nat) (w : WinMap) (l off n : Nat) : Option (Nat × Bytes) :=
  match placeVia s 2352 slot w l off n with
  | .held _ _ _ => none
  | p => let (st, b, _) := placeRead s p n {}; some (if placeAnswers s 2352 p then (st, b) else (stTimeout, []))

/-- What a read of MD from a logical seat brings for a Wake record or an answer: while the seat is in HOLD, its source's bytes under the writes
held for it, which is what its destination answers after the copy (02 R69); zeros where the read is refused (log 73). -/
def lseatBytes (s : State) (slot : Nat) (w : WinMap) (l off n : Nat) : Bytes :=
  match lseatRead s slot w l off n with
  | some (st, b) => if st = stOk then b else List.replicate n 0
  | none =>
    let sh := shellOf s slot
    match sh.rig.seats[l]? with
    | none => List.replicate n 0
    | some seat =>
      if !winAllows (seatOf s seat).core off n 0 then List.replicate n 0
      else sh.held.foldl (fun b k => match k.op with
        | .write d _ => if k.lseat = l then (List.range n).map (fun i => if k.off ≤ off + i ∧ off + i < k.off + d.length then d.getD (off + i - k.off) 0 else b.getD i 0) else b
        | _ => b) (scratchRead s seat off n)

/-- How an advance of a fence word by MD stands: answered with a status, or out, and answered later. -/
inductive AdvAnswer where
  | done (st : Nat)
  | later
  deriving DecidableEq, Repr

/-- An advance of a fence word outside the host window by MD (07 R253), of binding `i` of a context: a word in a seat window in HOLD is advanced after
the copy, and one on another module when its request arrives there, whose answer then decides (10 R351, R356). -/
def fenceMax (s : State) (p : Place) (cid i v : Nat) : State × AdvAnswer :=
  match p with
  | .held slot l off =>
    -- a peg word answers NO_TARGET, and a window that lets nothing in WINDOW_DENIED, before the copy as after it (07 R248, 05 R185)
    if off ≥ 0x1C0000 then (s, .done stNoTarget)
    else match (shellOf s slot).rig.seats[l]? with
      | some seat =>
        if winAllows (seatOf s seat).core off 8 0 && winAllows (seatOf s seat).core off 8 1 then
          (netSend true s { slot := slot, lseat := l, off := off, op := .atomic .maxu 8 v, src := 2352, back := .advance cid i v } {}, .later)
        else (s, .done stDenied)
      | none => (s, .done stNoTarget)
  | .far port _ _ _ _ _ _ =>
    (askAtomic { s with advFar := s.advFar ++ [{ tag := s.ghTag % 2 ^ 32, port := port, ctx := cid, fence := i, value := v, tb := s.tb }] } p 8 .maxu v, .later)
  | .cell a (some c) _ =>
    -- a block that is uncorrectable is counted (08 R268)
    let n := (chanOf s c).bad.countP (fun b => decide (b * 64 < a % 0x80000000 + 8) && decide (a % 0x80000000 < b * 64 + 64))
    let (s1, st, _) := placeAtomic (pset s (P.chUncorrectable c) (satAdd32 (pget s (P.chUncorrectable c)) n)) p 8 .maxu v {}
    (s1, .done (if placeAnswers s 2352 p then st else stTimeout))
  | p =>
    let (s1, st, _) := placeAtomic s p 8 .maxu v {}
    (s1, .done (if placeAnswers s 2352 p then st else stTimeout))

/-- MD clears a peg of a logical seat with nothing triggered (12 R414). -/
def lseatPegPut (s : State) (slot : Nat) (w : WinMap) (l p : Nat) (v : Bool) : State :=
  match placeVia s 2352 slot w l (0x1C0000 + 8 * p) 8 with
  | .peg seat q => pegPut s seat q v
  | .image k l _ => imagePegWrite s k l p v
  | _ => s

/-- How many REQ writes a source island has sent to a logical seat: those the seat has applied, those held for it and those that wait upstream
(06 R201). -/
def reqSent (s : State) (src slot l : Nat) : Nat :=
  let sh := shellOf s slot
  let mine := fun (k : NetPkt) => k.src == src && k.slot == slot && k.lseat == l && (match k.op with | .write _ kind => kind != .debug | _ => false)
  (match sh.rig.seats[l]? with | some seat => tget (fun _ => 0) (seatOf s seat).reqSeen src | none => 0)
    + (sh.held.filter mine).length + (s.upstream.filter mine).length

/-- A write of a source toward an offset in a logical seat's window: a whole peg word is a peg write (06 R199, 07 R248). -/
def writeOp (s : State) (src slot l off : Nat) (b : Bytes) : NetOp :=
  if 0x1C0000 ≤ off ∧ off % 8 = 0 ∧ b.length = 8 then .peg (reqSent s src slot l) (bitOf (leNat b) 0) else .write b .agent

/-- MD writes a peg of a logical seat, after every write it has sent there (06 R201, 07 R248, R252). -/
def lseatPegSet (s : State) (slot : Nat) (own : Option Nat) (l p : Nat) (v : Bool) : State :=
  netSend true s { slot := slot, lseat := l, off := 0x1C0000 + 8 * p, op := .peg (reqSent s 2352 slot l) v, src := 2352, own := own } {}

/-! ### Changes of the window map (02 R67, R77, 11 R395, R398) -/

/-- What was held for a shell is delivered in order, to where its windows go now, ahead of what waited upstream of it (02 R69, 06 R200, R211). -/
def heldDeliver (s : State) (slot : Nat) : State :=
  let sh := shellOf s slot
  netSettle { shellPut s slot { sh with held := [] } with
    red := s.red.map (fun p => if p.slot = slot then { p with held := false } else p)
    upstream := sh.held ++ s.upstream }

/-- What is held for a shell whose seats are reset is answered ISLAND_CLOSED, and a posted write discarded and counted (01 R38, 06 R229). -/
def heldClose (s : State) (slot : Nat) : State :=
  let sh := shellOf s slot
  sh.held.foldl (fun s k =>
    let island := seatBar s slot k.lseat
    let s1 := match k.op with
      | .write _ _ => countClosed s island
      | .peg _ _ => countClosed s island
      | _ => s
    match k.back with
    | .none => s1
    | back => netReply s1 (answers s island k.src) back stClosed []) (shellPut s slot { sh with held := [] })

/-- A hold of seat windows ends, if one stands: when is noted (08 R299). -/
def holdEnds (s : State) (slot : Nat) : State := if (shellOf s slot).holds = [] then s else { s with tbHold := some s.tb }

/-- Put a shell's windows back on its seats, and deliver what was held (02 R77, 11 R398). -/
def windowsLocal (s : State) (slot : Nat) : State :=
  heldDeliver (shellPut (holdEnds s slot) slot { shellOf s slot with windows := .here, holds := [] }) slot

/-- Hold what is sent to the windows of some logical seats during their copy. -/
def windowsHold (s : State) (slot : Nat) (ls : List Nat) : State := shellPut s slot { shellOf s slot with windows := .here, holds := ls }

/-- The logical seats of a shell. -/
def allSeats (sh : Shell) : List Nat := List.range (shellSeats sh)

/-- Steer a shell's windows to an image, and apply what was held to it (02 R77, 11 R395). -/
def windowsImage (s : State) (slot key : Nat) : State :=
  heldDeliver (shellPut (holdEnds s slot) slot { shellOf s slot with windows := .image key, holds := [] }) slot

end Sys2Proof.Machine
end

