-- ==== Sys2Proof/Machine/SeatOps.lean ====
section
/-! DEFINITION. What happens to a seat as a whole: scrub, job start, halt, the control record, images and their
restore (02 R50, R77-R80, 05 R194-R197, 11 R393-R398). -/
namespace Sys2Proof.Machine

/-! ### Registers -/

def xGet (c : Core) (r : Nat) : Nat := if r = 0 then 0 else tget (fun _ => 0) c.x r
def xPut (c : Core) (r v : Nat) : Core := if r = 0 then c else { c with x := tset (fun _ => 0) c.x r (v % 2 ^ 64) }
def fGet (c : Core) (r : Nat) : Nat := tget (fun _ => 0) c.f r
def fPut (c : Core) (r v : Nat) : Core := { c with f := tset (fun _ => 0) c.f r (v % 2 ^ 64) }

/-- A seat's core changed. -/
def corePut (s : State) (seat : Nat) (c : Core) : State := seatPut s seat { seatOf s seat with core := c }
def arrPut (s : State) (seat : Nat) (a : Arr) : State := seatPut s seat { seatOf s seat with arr := a }

/-- The clock of a seat in MHz: never above the seat-clock limit of the identity record (00 R4, 01 R36). -/
def seatMhz (s : State) (t : Seat) : Nat := min t.clockMhz (pget s P.seatClockLimitMhz)

/-- The cycle count of a seat: cycles of its clock so far (05 R190, 00 R19). -/
def seatCycles (s : State) (t : Seat) : Nat := (t.cyc + (s.tb - t.tbCyc) * seatMhz s t) / 1000 % 2 ^ 64

/-- A seat with another clock: the cycles so far are counted at the old one. A seat scrub or a start counts on. -/
def seatClock (s : State) (t : Seat) (mhz : Nat) : Seat := { t with cyc := t.cyc + (s.tb - t.tbCyc) * seatMhz s t, tbCyc := s.tb, clockMhz := mhz }

/-- A seat whose clock was lent returns to its former clock (07 R262). -/
def seatUnlend (s : State) (t : Seat) : Seat :=
  match t.lentFrom with
  | some f => { seatClock s t f with lentFrom := none }
  | none => t

/-- The state of a seat after the firmware broadcast, a scrub or an addition (05 R196). Its clock, its level and its firmware store stay. -/
def seatFresh (s : State) (t0 : Seat) : Seat :=
  let t := seatUnlend s t0
  { mode := .idle, clockMhz := t.clockMhz, level := t.level, store := t.store, tbCyc := s.tb }

/-- A seat scrub: scratchpad, accumulators, pegs and core are zero (02 R50). -/
def seatScrub (s : State) (seat : Nat) : State :=
  seatPut (memZero s (scratchBase seat) scratchBytes) seat (seatFresh s (seatOf s seat))

/-- vzseatid (05 Table Tender-7); a lent seat that runs shows the borrower's shell (14 R483). -/
def vzseatid (s : State) (seat : Nat) : Nat :=
  match seatShell s seat with
  | none => (match lentOf s seat with | some (l, j) => tget (fun _ => 0) l.idents j | none => 0) + seatIdent seat
  | some sl =>
    let sh := shellOf s sl
    pack [(48, sl), (32, shellSeats sh), (16, lseatOf sh seat), (0, seatIdent seat)]

/-- Job start on a seat as logical seat `l` of `n` (05 R197): the counts are cleared, a0 to a2 loaded, and user code entered. -/
def seatBegin (s : State) (seat l n entry arg : Nat) : State :=
  let t := seatOf s seat
  let c := xPut (xPut (xPut t.core 10 l) 11 n) 12 arg
  seatPut s seat { t with
    mode := .run
    core := { c with pc := entry, user := true, catchCount := 0, reached := 0, catchDesc := 0, sig := 0, wait := .none, tbCheck := s.tb, wdHeld := 0, wdCarry := 0, stores := [], fetched := [], tbHalt := none, fw := false }
    arr := { t.arr with queue := [], flight := [], accepted := 0, stopped := false, summary := 0, origin := 0 }
    xfers := []
    nextTicket := 0
    ticketsRound := false
    groups := [] }

/-- Job start on a logical seat of a shell, a leased one by its lender (05 R197, 14 R483). -/
def seatStart (s : State) (slot l entry arg : Nat) : State :=
  let sh := shellOf s slot
  match sh.rig.seats[l]? with
  | some seat => seatBegin s seat l (shellSeats sh) entry arg
  | none => match (leasedSeats sh)[l - sh.rig.seats.length]? with
    | some x => remoteSend s slot x (.start (Fin.ofNat 32 slot) (BitVec.ofNat 16 (shellSeats sh)) (BitVec.ofNat 16 l) (BitVec.ofNat 64 entry) (BitVec.ofNat 64 arg)) { mode := .run }
    | none => s

/-- Halt one seat: its queues are squashed and nothing of them goes on (05 R193, 11 R401). -/
def seatHalt (s : State) (seat : Nat) : State :=
  let t := seatOf s seat
  seatPut s seat { t with
    mode := .stopped
    core := { t.core with wait := .none, stores := [], reserve := none, dcache := [], icache := [], fetched := [] }
    arr := arrSquash t.arr
    xfers := []
    groups := [] }

/-- Halt every seat of a shell, leased ones by their lenders (14 R483). -/
def haltSeats (s : State) (slot : Nat) : State :=
  let sh := shellOf s slot
  (remoteLive sh).foldl (fun s x => if (remoteOf sh x).mode = .idle then s else remoteSend s slot x .stop { mode := .stopped }) (sh.rig.seats.foldl seatHalt s)

/-- The highest catch number that the seats of an image had reached (02 R63). -/
def imageCatch (im : Image) : Nat := (im.seats.map (fun x => field x.record 0x840 8)).foldl max 0

/-- The highest catch number any seat of a shell has reached since its job started: none while the job is being loaded (02 R63). -/
def maxCatch (s : State) (slot : Nat) : Nat :=
  let sh := shellOf s slot
  match sh.job with
  | none => 0
  | some j =>
  if j.phase = .loading then 0
  else if j.phase = .restoring then imageCatch (imageOf s (imageKey slot j.imageSlot))
  else
  (sh.rig.seats.map (fun i => (seatOf s i).core.reached) ++ (remoteLive sh).map (fun x => (remoteOf sh x).reached)).foldl max 0

/-- The latches of a shell stand at the catch number after `c`: a job that starts counts from 0, and one that is restored goes on from the number
it had (02 R63, log 26). -/
def latchesRebase (s : State) (slot c : Nat) : State :=
  let sh := shellOf s slot
  let at1 := fun (o : Option Nat) => o.map (fun _ => c + 1)
  shellPut s slot { sh with freezeAt := at1 sh.freezeAt, preemptAt := at1 sh.preemptAt, commit := sh.commit.map (fun m => { m with atCatch := at1 m.atCatch }) }

/-! ### Draining a seat (05 R186, 11 R395) -/

/-- Transfers of a seat that are not done (05 Table Tender-6). -/
def xferOpen (t : Seat) : Nat := t.xfers.countP (fun x => x.st != .done && x.st != .aborted)

/-- Whether a seat has drained: no array op queued or in flight, no transfer and no store outstanding. -/
def seatDrained (t : Seat) : Bool :=
  t.arr.queue.isEmpty && t.arr.flight.isEmpty && decide (xferOpen t = 0) && t.core.stores.isEmpty

/-- A host write of a seat's core: posted, and the first after a release at system scope carries no Relaxed Ordering (07 R236). -/
def coreHostWrite (s : State) (seat a : Nat) (b : Bytes) : State :=
  let c := (seatOf s seat).core
  if c.released then emit (corePut s seat { c with released := false }) (.hostWrite a b) else hostPost s a b

/-- A drained seat writes its dirty lines back (05 R186). A write that is refused then is discarded and counted (06 R214). -/
def seatFlush (s : State) (seat : Nat) : State :=
  let shell := seatShell s seat
  let lines := (seatOf s seat).core.dcache.filter (fun l => l.dirty)
  let s1 := lines.foldl (fun s l => match place s seat shell l.ga 64 with
    | .host a => coreHostWrite s seat a l.data
    | p => let (s1, st) := placeWrite s p l.data {}; countRefused s1 st) s
  let t := seatOf s1 seat
  seatPut s1 seat { t with core := { t.core with dcache := t.core.dcache.map (fun l => { l with dirty := false }) } }

/-! ### The control record (05 R194) -/

def winBits (w : Win) : Nat := pack [(0, w.base), (16, w.len), (32, w.rights)]
def winOfBits (n : Nat) : Win := { base := n % 2 ^ 16, len := bitsOf n 31 16, rights := bitsOf n 33 32 }

/-- vzxfer (05 Table Tender-6). -/
def vzxfer (t : Seat) : Nat := t.nextTicket % 2 ^ 32 + xferOpen t % 2 ^ 32 * 2 ^ 32

/-- The waits that hold the watchdog: PEG.WAIT, PEG.WAITANY, ARR.WAIT, a full queue, and a stopped seat (05 R189). -/
def wdHolds : CoreWait → Bool
  | .issue _ => true
  | .arrWait _ => true
  | .peg _ _ _ _ _ _ _ => true
  | .pegAny _ _ _ _ => true
  | .submit _ _ => true
  | .catchHeld => true
  -- the acquire that ends a PEG.WAIT is part of it
  | .fence 1 _ 3 _ _ => true
  | _ => false

/-- A core begins and ends a wait. -/
def coreWait (s : State) (c : Core) (w : CoreWait) : Core := { c with wait := w, tbWait := s.tb }
def coreWake (s : State) (c : Core) : Core :=
  -- a core that debug has halted in its wait is held until it goes on
  { c with wait := .none, tbHalt := if wdHolds c.wait ∧ c.tbHalt.isSome then some s.tb else c.tbHalt
           wdHeld := c.wdHeld + (if wdHolds c.wait then s.tb - c.tbWait else 0) }

/-- The watchdog count: tb ticks since the last matching SIG.CHK, without the time held (05 R189). -/
def wdCount (s : State) (c : Core) : Nat :=
  c.wdCarry + s.tb - c.tbCheck - c.wdHeld - (if wdHolds c.wait then s.tb - c.tbWait else match c.tbHalt with | some h => s.tb - h | none => 0)

/-- A debug halt of a core, which ends its reservation and holds its watchdog, and its end, after which it runs user code (05 R189, R192, 07 R246). -/
def coreHalt (s : State) (c : Core) : Core := { c with tbHalt := some s.tb, reserve := none }
def coreResume (s : State) (c : Core) : Core :=
  match c.tbHalt with
  | some h => { c with tbHalt := none, user := true, wdHeld := c.wdHeld + (if wdHolds c.wait then 0 else s.tb - h) }
  | none => { c with user := true }

/-- A set of numbers below 16 as a mask, and back. -/
def maskOf (l : List Nat) : Nat := (List.range 16).foldl (fun m i => if l.contains i then m + 2 ^ i else m) 0
def ofMask (m : Nat) : List Nat := (List.range 16).filter (fun i => bitOf m i)

/-- The firmware-private bytes of a control record (05 Table Tender-9), which hold what the table's other rows do not and R68 carries: marks and
merged tiles, how the seat stands, its catch descriptor and number reached, the watchdog period, the number of ops accepted, and the last trap
(log 24). -/
def privateBytes (t : Seat) : Bytes :=
  let c := t.core
  [maskOf t.arr.refused + maskOf t.arr.merged * 2 ^ 16, c.catchDesc,
    (if t.ticketsRound then 1 else 0) + (if t.arr.stopped then 2 else 0) + (if t.mode = .run then 4 else 0) + (if t.mode = .ended then 8 else 0),
    c.wdog, t.arr.accepted, c.mcause, c.mtval, c.mepc, c.reached, t.denied].flatMap (leBytes 8)

/-- The seat control record (05 Table Tender-9). CSRs at 0x208 stand in table order, 8 bytes each (log 24). -/
def seatRecord (s : State) (seat : Nat) : Bytes :=
  let t := seatOf s seat
  let c := t.core
  let a := t.arr
  (List.range 32).flatMap (fun r => leBytes 8 (xGet c r))
    ++ (List.range 32).flatMap (fun r => leBytes 8 (fGet c r))
    ++ [c.pc, c.fcsr, c.srSeed, c.catchCount, vzxfer t, winBits c.win0, winBits c.win1, winBits c.win2, winBits c.win3, c.sig,
        wdCount s c, seatCycles s t, c.instret].flatMap (leBytes 8)
    ++ List.replicate (0x300 - 0x268) 0
    ++ leBytes 8 t.pegs
    ++ (List.range 12).flatMap (fun i => leBytes 4 (tileStatus a i))
    ++ leBytes 8 a.origin
    ++ (List.range 4).flatMap (fun b => let k := tget (fun _ => {}) a.banks b; leBytes 8 (k.offset + k.levels * 2 ^ 16))
    ++ leBytes 8 a.summary ++ leBytes 8 a.result
    ++ List.replicate (0x800 - 0x370) 0
    ++ privateBytes t
    ++ List.replicate (0x1000 - 0x850) 0

/-- A seat built from a control record and an accumulator file: caches invalid, banks reloaded from the scratchpad and guard sums at the row sums
(02 R68, 04 R143, 05 R194, R195). -/
def seatOfRecord (s : State) (seat : Nat) (sec : SeatSection) : Seat :=
  let t := seatOf s seat
  let r := sec.record
  let num := fun (o n : Nat) => field r o n
  let xs := (List.range 32).foldl (fun x i => if i = 0 then x else tset (fun _ => 0) x i (num (8 * i) 8)) []
  let fs := (List.range 32).foldl (fun x i => tset (fun _ => 0) x i (num (0x100 + 8 * i) 8)) []
  let flags := num 0x810 8
  let mode : SeatMode := if bitOf flags 2 then .run else if bitOf flags 3 then .ended else .idle
  let c : Core := {
    x := xs, f := fs, pc := num 0x200 8, user := mode == .run, fcsr := num 0x208 8, srSeed := num 0x210 8, catchCount := num 0x218 8
    reached := num 0x840 8, catchDesc := num 0x808 8, sig := num 0x248 8, wdog := num 0x818 8, tbCheck := s.tb, wdHeld := 0
    instret := num 0x260 8, win0 := winOfBits (num 0x228 8), win1 := winOfBits (num 0x230 8), win2 := winOfBits (num 0x238 8)
    -- whether a release at system scope had come since its last host write is not kept: its next one carries no Relaxed Ordering (07 R236)
    released := true
    win3 := winOfBits (num 0x240 8), mcause := num 0x828 8, mtval := num 0x830 8, mepc := num 0x838 8, mpc := t.core.mpc }
  let banks := (List.range 4).foldl (fun b i =>
    let k := num (0x340 + 8 * i) 8
    tset (fun _ => {}) b i (if k / 2 ^ 16 % 32 = 0 then {} else bankLoad s seat (k % 2 ^ 16) (k / 2 ^ 16 % 32))) []
  let a : Arr := {
    words := sec.acc.foldl (fun w e => tset (fun _ => 0) w e.1 e.2) []
    status := (List.range 12).foldl (fun w i => tset (fun _ => 0x80) w i (num (0x308 + 4 * i) 4)) []
    accepted := num 0x820 8, stopped := bitOf flags 1, refused := ofMask (num 0x800 2), merged := ofMask (num 0x802 2)
    origin := num 0x338 8, banks := banks, summary := num 0x360 8, result := num 0x368 8 }
  -- the watchdog goes on from the count it had, and cycle from the cycles it had
  { t with mode := mode, core := { c with wdCarry := num 0x250 8 }, arr := guardsRebuild a, pegs := num 0x300 8 % 2 ^ 48, xfers := []
           nextTicket := num 0x220 4, ticketsRound := bitOf flags 0, groups := [], denied := num 0x848 8, cyc := num 0x258 8 * 1000, tbCyc := s.tb }

/-- An array that resumes where it stood: every loaded bank is read again from its source offset, and the guard sums are the tiles' row sums (04
R143). -/
def arrResume (s : State) (seat : Nat) (a : Arr) : Arr := guardsRebuild { a with banks := a.banks.map (fun b => (b.1, bankLoad s seat b.2.offset b.2.levels)) }

/-- The section of a seat in an image. A CATCH at which the seat is held counts as retired: it resumes after it (02 R68). -/
def seatSectionOf (s0 : State) (seat : Nat) : SeatSection :=
  let t0 := seatOf s0 seat
  let t := if t0.core.wait = .catchHeld then { t0 with core := { t0.core with catchCount := t0.core.reached } } else t0
  let s := seatPut s0 seat t
  { scratch := memSparse s (scratchBase seat) scratchBytes, acc := t.arr.words, record := seatRecord s seat }

/-- Put a section into a seat. -/
def seatLoad (s : State) (seat : Nat) (sec : SeatSection) : State :=
  let s1 := memLoad (memZero s (scratchBase seat) scratchBytes) (scratchBase seat) sec.scratch
  seatPut s1 seat (seatOfRecord s1 seat sec)

/-! ### Images (02 R79, 11 R393) -/

/-- The key of a slot's save image. -/
def saveKey (slot : Nat) : Nat := imageKey slot 8

/-- Save every seat of a shell and its job section into image `k`, which is written to its slot of the area, and steer the windows to it (11 R392,
R395, R397). Its sections stand in the order of a save image (log 28). -/
def imageSave (s : State) (slot k : Nat) (job : Bytes) : State :=
  let sh := shellOf s slot
  let im : Image := { header := 0, job := job, seats := sh.rig.seats.map (seatSectionOf s) ++ (leasedSeats sh).map (fun x => (remoteOf sh x).saved.getD {}) }
  let s1 := areaWrite (imagePut (freeNext s) (imageKey slot k) im) slot k 0 im.body
  let s2 := sh.rig.seats.foldl (fun s i => seatPut s i { seatOf s i with mode := .idle }) s1
  let s3 := (leasedSeats sh).foldl (fun s x => remotePut s slot x {}) s2
  windowsImage s3 slot (imageKey slot k)

/-- Ask the lenders of a shell's leased seats to save them, and to restore them from an image (11 R395, R398, 14 R483). `ended` are the
logical seats that had ended. -/
def remoteSave (s : State) (slot : Nat) : State :=
  let sh := shellOf s slot
  (remoteLive sh).foldl (fun s x => remoteSend s slot x .save { remoteOf sh x with pending := true }) s

def remoteRestore (s : State) (slot k : Nat) (ended : List Nat) : State :=
  let sh := shellOf s slot
  let n := sh.rig.seats.length
  let im := imageOf s (imageKey slot k)
  ((leasedSeats sh).zipIdx).foldl (fun s p =>
    let e := ended.contains (n + p.2)
    remoteSend s slot p.1 (.restore e (sectionBytes (im.seats.getD (n + p.2) {}))) { mode := if e then .ended else .run, pending := true }) s

/-- Restore every seat of a shell from an image; one that had ended stays so. The image is gone (11 R398). -/
def imageRestore (s : State) (slot k : Nat) (ended : List Nat) : State :=
  let sh := shellOf s slot
  let im := imageOf s (imageKey slot k)
  let s1 := (sh.rig.seats.zip im.seats).foldl (fun s p => seatLoad s p.1 p.2) s
  let s2 := (sh.rig.seats.zipIdx).foldl (fun s p => if ended.contains p.2 then seatPut s p.1 { seatOf s p.1 with mode := .ended } else s) s1
  imagePut s2 (imageKey slot k) {}

end Sys2Proof.Machine
end

