-- ==== Sys2Proof/Machine/WakeOps.lean ====
section
/-! DEFINITION. Forming Wake records and adding them to a chain's pending records (18 R593-R596, 02 R86). -/
namespace Sys2Proof.Machine

/-- A record joins the pending records of a slot's chain. -/
def wakeAppend (s : State) (slot : Nat) (r : WakeRec) : State :=
  let w := wakeOf s slot
  wakePut s slot { w with pending := w.pending ++ [r] }

/-- The 2,048 bits of a record without its index (18 Table Sec-9). -/
def wakeWord (s : State) (slot kind status tb ctx seq : Nat) (claim inD outD model : Bytes) (detail : Nat) : Nat :=
  pack [(2040, kind), (2032, status), (2027, slot), (1888, tb % 2 ^ 64), (1872, ctx % 2 ^ 16), (1864, pget s (P.ownerFunction slot) % 256), (1824, seq % 2 ^ 32),
    (1808, field claim 0 2), (1800, field claim 2 1 % 2 + (pget s (P.debugSeen slot) % 2) * 2), (1728, field claim 8 8),
    (1216, leNat model), (704, leNat inD), (192, leNat outD), (0, detail)]

/-- The claims of a shell: the 128 bytes at 0x17_FF80 of logical seat 0 (18 R596). -/
def claimIn (s : State) (slot : Nat) : Bytes := lseatBytes s slot (shellOf s slot).windows 0 0x17FF80 64
def claimOut (s : State) (slot : Nat) : Bytes := lseatBytes s slot (shellOf s slot).windows 0 0x17FFC0 64

/-- MODEL of a context's weight-key slot 0 (18 R595). -/
def ctxModel (s : State) (cid : Nat) : Bytes := (tget (fun _ => ({} : WkeySlot)) (ctxOf s cid).wkeys 0).model

/-- The record of a released job (18 R596). -/
def jobWake (s : State) (slot : Nat) (j : Job) (status : Nat) : WakeRec :=
  let pins := j.launch.pins.flatMap (fun p => leBytes 8 (p.2 + p.1 * 2 ^ 32))
  { kind := 1, tb := s.tb, seq := j.seq
    word := wakeWord s slot 1 status s.tb j.ctx j.seq (claimIn s slot)
      (Config.shake256 (j.launch.raw ++ pins ++ claimIn s slot) 64) (Config.shake256 (claimOut s slot) 64) (ctxModel s j.ctx) 0 }

/-- The record of a sprint answer: the record bytes as delivered, the result body, and the claim as it stood when the egress read the result
area (18 R596). -/
def sprintWake (s : State) (p : Sprint) (seq status : Nat) (claim recBytes body : Bytes) : WakeRec :=
  { kind := 2, tb := s.tb, seq := seq
    word := wakeWord s p.shell 2 status s.tb p.ctx seq claim (Config.shake256 recBytes 64) (Config.shake256 body 64) (ctxModel s p.ctx) 0 }

/-- The 64 bytes of an error record (17 Table Safety-4). -/
def errBytes (e : ErrRec) : Bytes :=
  leBytes 64 (pack [(480, e.seq % 2 ^ 32), (472, e.kind % 2 ^ 8), (464, e.mechanism % 2 ^ 8), (462, e.scope % 4), (461, if e.exposure.isSome then 1 else 0),
    (456, if e.scope ≥ 2 then e.shell % 32 else 0), (448, e.fn % 2 ^ 8), (432, (e.ctx.getD 0) % 2 ^ 16), (416, e.island % 2 ^ 16), (384, e.qseq % 2 ^ 32),
    (320, e.tbDetect % 2 ^ 64), (256, (e.exposure.getD 0) % 2 ^ 64), (192, e.detail0 % 2 ^ 64), (128, e.detail1 % 2 ^ 64), (96, e.code % 2 ^ 32),
    (95, if e.ctx.isSome then 1 else 0)])

/-- The record of a safety event's error record (18 R596). -/
def errWake (s : State) (e : ErrRec) : WakeRec :=
  { kind := 4, tb := e.tbDetect, seq := e.qseq, word := wakeWord s e.shell 4 0 e.tbDetect 0 e.qseq [] (errBytes e) [] [] 0 }

/-- The metering record of a composition that ends (02 R86, 18 R596). -/
def meterWake (s : State) (slot : Nat) : WakeRec :=
  let inD := leBytes 8 (pget s (P.compositionCount slot)) ++ leBytes 8 (shellOf s slot).compStart ++ leBytes 8 s.tb
  { kind := 3, tb := s.tb
    word := wakeWord s slot 3 0 s.tb 0 0 [] inD [] []
      (pack [(0, pget s (P.meterSeatMs slot)), (64, pget s (P.meterChannelMs slot)), (128, pget s (P.meterPortMs slot))]) }

/-- A write of one counter of the counter block (18 R571). -/
def counterPut (s : State) (p v : Nat) : State := pset { s with flash := { s.flash with counterSeq := s.flash.counterSeq + 1 } } p v

/-- The counter block as the flash holds it: its two counters, its write sequence number and its tag under the counter key (18 R571, R572). Its
layout is the model's (log 83). -/
def counterBlock (s : State) : Bytes :=
  let body := leBytes 8 (pget s P.bootCounter) ++ leBytes 4 (pget s P.rollbackFloor) ++ leBytes 4 s.flash.counterSeq
  body ++ Config.kmac256 (Config.kmac256 Config.deviceRoot [] 32 (ascii "CTR")) body 32 []

/-- The identity record in use: the copy that stage 0 took (18 R570). -/
def idRecord (s : State) : Bytes := if s.start.idB then s.flash.identity2 else s.flash.identity

/-- IDENTITY_DIGEST: SHAKE256 of the signed part of the identity record (18 R569, R585). -/
def identityDigest (s : State) : Bytes := Config.shake256 ((idRecord s).take 0x1800) 64

/-- The chain of a slot: from manufacture it starts at a head that names the device and the slot (18 R593). -/
def chainOf (s : State) (slot : Nat) : WakeChain :=
  (tfind s.retained.chains slot).getD
    { head := Config.shake256 (ascii "VZS2-WAKE" ++ identityDigest s ++ leBytes 1 slot) 64 }

/-- Whether a record folds before another: by time, then kind, then sequence number (18 R593). -/
def wakeBefore (a b : WakeRec) : Bool :=
  decide (a.tb < b.tb) || (a.tb == b.tb && (decide (a.kind < b.kind) || (a.kind == b.kind && decide (a.seq < b.seq))))

/-- Take the record that folds next out of a list. -/
def wakeFirst : List WakeRec → Option WakeRec
  | [] => none
  | r :: t => match wakeFirst t with
    | none => some r
    | some x => if wakeBefore x r then some x else some r

/-- Fold one record into a chain: it takes the next index (18 R593). -/
def chainFold (c : WakeChain) (w : Nat) : WakeChain :=
  let i := c.lastIndex + 1
  { head := Config.shake256 (c.head ++ leBytes 256 (w + i * 2 ^ 1952)) 64, lastIndex := i }

/-- Fold the next pending record of a slot's chain; the head is kept in the retained region (16 R527, 18 R593). -/
def wakeFoldOne (s : State) (slot : Nat) : State :=
  let w := wakeOf s slot
  match wakeFirst w.pending with
  | none => s
  | some r =>
    let c := chainFold (chainOf s slot) r.word
    let s1 := wakePut s slot { w with pending := w.pending.erase r }
    { s1 with retained := { s1.retained with chains := tins (tdel s1.retained.chains slot) slot c } }

/-- Fold every pending record of a slot's chain (16 R528 step 4). -/
def wakeFoldAll (s : State) (slot : Nat) : State := (wakeOf s slot).pending.foldl (fun s _ => wakeFoldOne s slot) s

/-- A Wake engine holds 65,536 pending records of the slots it folds; a release waits for room (18 R593, R594). -/
def wakeRoom (s : State) (slot : Nat) : Bool :=
  decide ((wakeOf s (slot % 16)).pending.length + (wakeOf s (slot % 16 + 16)).pending.length < 65536)

end Sys2Proof.Machine
end

