-- ==== Sys2Proof/Machine/HostOps.lean ====
section
/-! DEFINITION. Shared operations of the host side: interrupts, completion records, fence advances, retirement, sprint
answers, jobs leaving a shell, the loss of a context and error records (07 R253 to R256, 10, 11 R385 to R403, 12 R415,
17 R564). -/
namespace Sys2Proof.Machine

/-! ### Dictionary sessions that end (13 R443, R445) -/

/-- SESSIONS_OPEN follows the MCTP sessions (13 R460). -/
def sessionsCount (s : State) : State :=
  pset s P.sessionsOpen ((s.sessions.filter (fun e => match e.2.src with | .endpoint _ _ => true | .mailbox _ => false)).length)

/-- A session is freed: its identifier is the longest free one only after those freed before it (13 R443). -/
def sessionFree (s : State) (n : Nat) : State :=
  sessionsCount { s with sessions := tdel s.sessions n, freeSessions := s.freeSessions ++ [n] }

/-- The sessions of which a predicate holds are freed, in ascending order. -/
def sessionsFree (s : State) (f : Session → Bool) : State := ((s.sessions.filter (fun e => f e.2)).map (·.1)).foldl sessionFree s

/-- A slot becomes FREE: every T session whose mask names it is closed (13 R442). -/
def tenantsFree (s : State) (slot : Nat) : State := sessionsFree s (fun x => x.who == .tenant && bitOf x.mask slot)

/-! ### Interrupts and messages (10 R357) -/

/-- Send an MSI-X message of a function on a vector: held in the PBA while the vector is masked or the
releases are stopped (10 R357; PCIe's vector control, log 12). -/
def msixSend (s : State) (fn vec : Nat) : State :=
  if s.start.releasesStopped then s
  else if bitOf (fnGet s fn (0x1000 + 16 * vec + 12)) 0 then
    fnPut s fn 0x1800 (setBitOf (fnGet s fn 0x1800) vec true)
  else emit s (.msix fn vec)

/-- Raise interrupt cause `c` of a function: its status bit is set, and a message goes out when the bit was
clear and the cause is not masked (10 R357). Cause 0 has no message of its own (10 Table Host-7). -/
def raiseCause (s : State) (fn c : Nat) : State :=
  let st := fnGet s fn 0x80
  if bitOf st c then s
  else
    let s1 := fnPut s fn 0x80 (setBitOf st c true)
    if c = 0 ∨ bitOf (fnGet s fn 0x88) c then s1
    else msixSend s1 fn (bitsOf (fnGet s fn 0x90) (8 * c + 7) (8 * c) % 32)

/-! ### Undelivered-completion store (10 R361) -/

/-- Store an undelivered record of a function, or drop and count it when 256 are unconsumed (10 R361). -/
def ucStore (s : State) (fn : Nat) (rec : Bytes) : State :=
  let tail := fnGet s fn 0xC4
  let used := serialDist (fnGet s fn 0xC0) tail
  let s1 :=
    if used ≥ 256 then pinc s (P.ucDropped fn)
    else
      let s2 := fnPut s fn 0xC4 ((tail + 1) % 2 ^ 32)
      { s2 with ucRecs := tset (fun _ => []) s2.ucRecs (fn * 256 + tail % 256) rec }
  raiseCause s1 fn 4

/-- A store record of Table Host-13. -/
def ucRecord (payload target tb kind cause : Nat) : Bytes :=
  leBytes 64 (pack [(116, cause), (120, kind), (128, tb), (192, target), (256, payload)])

/-- Why a posted write of a function to host memory fails: 6 host port down, 5 ATS grants no write (10 R355). -/
def hostWriteFails (s : State) (fn addr : Nat) : Option Nat :=
  if !s.pins.hostPortUp then some 6
  else if (fnOf s fn).ats && atsDeniesWrite s fn addr then some 5
  else none

/-! ### Completion records (10 R352-R355) -/

/-- What a completion record says beside its context and ring slot (10 Table Host-10a). -/
structure RecInfo where
  seq : Nat
  status : Nat
  detail : Nat := 0
  shell : Nat := 0
  summary : Nat := 0
  energyMj : Nat := 0
  tbDone : Nat := 0
  deriving DecidableEq, Repr

/-- The record of ring slot `n`: PHASE is 1 on the first pass and inverted on each later pass (10 R352, R343). -/
def recordNat (c : Ctx) (cid n : Nat) (r : RecInfo) : Nat :=
  pack [(0, (n / 2 ^ c.desc.crLog2 + 1) % 2), (40, c.fn), (51, r.shell), (56, r.status), (64, r.detail),
    (96, min r.energyMj 0xFFFFFFFF), (128, r.summary % 2 ^ 12), (144, cid), (160, r.seq % 2 ^ 32), (192, r.tbDone % 2 ^ 64)]

/-- The host address of ring slot `n` (10 R352). -/
def recordAddr (c : Ctx) (n : Nat) : Nat := c.desc.crBase + 32 * (n % 2 ^ c.desc.crLog2)

/-- Write a completion record into reserved ring slot `n` of a context (10 R354, R355, R361): posted or
deferrable; after a failed delivery it is stored instead and the answer is false. -/
def writeRecord (s : State) (cid n : Nat) (r : RecInfo) : State × Bool :=
  let c := ctxOf s cid
  if s.start.entry || s.start.releasesStopped then (s, true)          -- 16 R528, 17 R560: nothing leaves
  else if c.crStopped then
    (if r.status = 0x05 then pinc s P.ucSuppressed else s, true)
  else
    let data := leBytes 32 (recordNat c cid n r)
    let addr := recordAddr c n
    match hostWriteFails s c.fn addr with
    | some cause =>
      let s1 := ucStore s c.fn (ucRecord (recordNat c cid n r) addr s.tb 0 cause)
      (ctxPut s1 cid { c with crStopped := true }, false)
    | none =>
      let c1 := { c with crWritten := c.crWritten + 1, msgDue := c.msgDue || c.desc.crInt, tbMsg := s.tb }
      if bitOf (fnGet s c.fn 8) 0 then
        let s1 := emit (ctxPut s cid c1) (.hostDeferrable addr data)
        (raiseCause { s1 with
            dmwr := s1.dmwr ++ [{ id := s1.nextId, ctx := cid, fn := c.fn, addr := addr, data := data, tb := s.tb }]
            nextId := s1.nextId + 1 } c.fn 0, true)
      else (raiseCause (emit (ctxPut s cid c1) (.hostWrite addr data)) c.fn 0, true)

/-! ### Fence advances (07 R253, R254; 10 R351) -/

/-- The write of an advance in the host window: max(W, value), and W takes it. KEPT of the own context rises with a posted write now and with a
deferrable one when it is delivered (07 R254, 10 R351, R355). -/
def fenceHostWrite (s : State) (cid i : Nat) (b : FenceBind) (ga v : Nat) (own : Bool) : State :=
  let c := ctxOf s cid
  let nv := max v b.w
  let s1 := ctxPut s cid { c with fences := tset (fun _ => none) c.fences i (some { b with w := nv }) }
  if bitOf (fnGet s c.fn 8) 0 then
    let s2 := emit s1 (.hostDeferrable (hostAddr ga) (leBytes 8 nv))
    { s2 with
      dmwr := s2.dmwr ++ [{ id := s2.nextId, ctx := cid, fn := c.fn, addr := hostAddr ga, data := leBytes 8 nv, fence := some (i, v), own := own, tb := s.tb }]
      nextId := s2.nextId + 1 }
  else
    let s2 := waitsDue (emit s1 (.hostWrite (hostAddr ga) (leBytes 8 nv))) ga
    if own then keptRaise s2 cid i v else s2

/-- Advance fence binding `i` of a context to `v` by the unsigned maximum (07 R253). In the host window the
device writes the larger of `v` and W (07 R254). KEPT rises with a value without poison (10 R351). A word whose page has no ATS translation yet is
advanced once that is there (09 R317). False when the advance could not be made (10 R361). -/
def advanceBinding (s : State) (cid i v : Nat) : State × Bool :=
  let c := ctxOf s cid
  match tget (fun _ => none) c.fences i with
  | none => (s, true)
  | some b =>
    if s.start.entry || s.start.releasesStopped then (s, true)
    else match translatePins s cid [] b.va .atomic with
    | .fault r => (ucStore s c.fn (ucRecord (pack [(104, i), (112, cid), (128, v), (192, b.va)]) 0 s.tb 1 (if r = 0x04 then 5 else 7)), false)
    | .ats f p => (emit { s with advWaits := s.advWaits ++ [(cid, i, v)] } (.atsRequest f p), true)
    | .ok ga =>
      if inHostWindow ga then
        match hostWriteFails s c.fn (hostAddr ga) with
        | some cause => (ucStore s c.fn (ucRecord (pack [(104, i), (112, cid), (128, v), (192, b.va)]) (hostAddr ga) s.tb 1 cause), false)
        | none => (fenceHostWrite s cid i b ga v true, true)
      else
        match fenceMax s (place s 2352 (vaShell s cid b.va) ga 8 (some cid)) cid i v with
        | (s1, .done st) => if st = stOk then (advanced s1 cid i v, true) else (s1, false)
        | (s1, .later) => (s1, true)

/-- PROMISED of a binding rises to `v` (10 R351). -/
def promise (s : State) (cid i v : Nat) : State :=
  let c := ctxOf s cid
  match tget (fun _ => none) c.fences i with
  | none => s
  | some b => ctxPut s cid { c with fences := tset (fun _ => none) c.fences i (some { b with promised := max b.promised v }) }

/-- Poison every binding whose PROMISED exceeds KEPT (10 R358 step 5). -/
def poisonBindings (s : State) (cid : Nat) : State :=
  (ctxOf s cid).fences.foldl (fun s e =>
    match e.2 with
    | none => s
    | some b =>
      if b.promised > b.kept then (advanceBinding (pinc s P.poisonAdvances) cid e.1 (b.promised + 2 ^ 63)).1 else s) s

/-! ### Retirement (10 R354, 11 R375, R379, R383) -/

/-- Whether an opcode writes a completion record in a ring slot (11 R373 Table Cmd-4). -/
def hasRecord (op : Nat) (entry : Option Nat) : Bool := entry.isNone && op != 0

/-- Whether a context's ring has a free slot (10 R352). -/
def ringRoom (c : Ctx) : Bool := c.crStopped || decide (c.crReserved - c.crHead < 2 ^ c.desc.crLog2)

/-- The advance a retiring command makes: ADV_VALUE, or with poison for a status other than OK (11 R383). -/
def retireAdvance (s : State) (cid : Nat) (advEn : Bool) (i v status : Nat) : State × Bool :=
  if advEn then advanceBinding s cid i (if status = 0 then v else v + 2 ^ 63) else (s, true)

/-- The ring end of a command: its record in the reserved slot, its advance, its accounting (10 R354). The
answer is false when a delivery failed and the context is to be lost (10 R361). -/
def retireRing (s : State) (cid n : Nat) (r : RecInfo) (record advEn : Bool) (i v : Nat) : State × Bool :=
  let (s1, ok1) := if record then writeRecord s cid n r else (s, true)
  let (s2, ok2) := retireAdvance s1 cid advEn i v r.status
  let c := ctxOf s2 cid
  (ctxPut s2 cid { c with
      started := c.started.filter (fun e => e != (r.seq, none))
      acct := { c.acct with
        retired := c.acct.retired + 1
        energyMj := c.acct.energyMj + r.energyMj } }, ok1 && ok2)

/-- The first failure of a CALL in entry order, as (status, detail); OK when there is none (11 R379). -/
def firstFailure : List (Nat × Nat × Nat) → Nat × Nat
  | [] => (0, 0)
  | f :: t =>
    let best := t.foldl (fun a b => if b.1 < a.1 then b else a) f
    best.2

/-- The times of a command in the account of its context: at the head with its wait unmet, and startable (11 R404). A command that has not been the
head has neither. -/
def headTimes (s : State) (a : Account) (q : QCmd) : Account :=
  { a with
    queueWaitNs := a.queueWaitNs + (s.tb - q.tbStartable.getD s.tb)
    depWaitNs := a.depWaitNs + (if q.waitEn then q.tbMet.getD s.tb - q.tbHead.getD s.tb else 0) }

/-- The CALL of a context with a queue sequence number, that context with it changed, and without it (11 R379). -/
def callOf (c : Ctx) (seq : Nat) : Option CallRun := (c.call.toList ++ c.callsOpen).find? (fun k => k.seq == seq)
def callPut (c : Ctx) (k : CallRun) : Ctx :=
  let f := fun (x : CallRun) => if x.seq = k.seq then k else x
  { c with call := c.call.map f, callsOpen := c.callsOpen.map f }
def callDel (c : Ctx) (seq : Nat) : Ctx :=
  { c with call := c.call.filter (fun k => k.seq != seq), callsOpen := c.callsOpen.filter (fun k => k.seq != seq) }

/-- A CALL whose entries have all retired, or that stops at a failure, retires (11 R379). -/
def callSettle (s : State) (cid seq : Nat) : State × Bool :=
  let c := ctxOf s cid
  match callOf c seq with
  | none => (s, true)
  | some r =>
    if r.openEntries = 0 ∧ (r.next ≥ r.count ∨ r.failed ≠ []) then
      let (st, det) := firstFailure r.failed
      -- entries that a failure kept from being read retire with the rest (11 R379, R404)
      let c1 := { callDel c seq with acct := { c.acct with retired := c.acct.retired + (r.count - r.next) } }
      retireRing (ctxPut s cid c1) cid r.crSlot
        { seq := r.seq, status := st, detail := det, summary := r.summary, energyMj := r.energy, tbDone := r.tbDone }
        true r.advEn r.advIndex r.advValue
    else (s, true)

/-- An entry of a command buffer retires: no record of its own. Behind one that fails, the entries already accepted are not started and retire ABORTED,
each with its own advance (11 R373 Table Cmd-4, R379, R383). -/
def retireEntry (s : State) (cid e : Nat) (r : RecInfo) (advEn : Bool) (i v : Nat) : State × Bool :=
  let (s1, ok1) := retireAdvance s cid advEn i v r.status
  let c := ctxOf s1 cid
  match callOf c r.seq with
  | none => (s1, ok1)
  | some k =>
    let k1 := { k with
      openEntries := k.openEntries - 1
      failed := if r.status = 0 then k.failed else k.failed ++ [(e, r.status, r.detail)]
      summary := k.summary ||| r.summary
      energy := k.energy + r.energyMj
      tbDone := r.tbDone }
    let mine := fun (q : QCmd) => q.entry.isSome && q.seq == r.seq
    let drop := if r.status = 0 then [] else c.cmds.filter mine
    let k2 := { k1 with openEntries := k1.openEntries - drop.length
                        failed := k1.failed ++ drop.map (fun q => (q.entry.getD 0, 4, 0)) }
    let a := drop.foldl (headTimes s1) c.acct
    let c1 := { callPut c k2 with
      cmds := if r.status = 0 then c.cmds else c.cmds.filter (fun q => !mine q)
      started := c.started.filter (fun x => x != (r.seq, some e))
      acct := { a with retired := a.retired + 1 + drop.length } }
    let (s2, ok2) := drop.foldl (fun (a : State × Bool) q =>
      let (s', ok) := retireAdvance a.1 cid q.advEn q.advIndex q.advValue 4
      (s', a.2 && ok)) (ctxPut s1 cid c1, ok1)
    let (s3, ok3) := callSettle s2 cid r.seq
    (s3, ok2 && ok3)

/-- Retire a started command or a job: in its ring slot, or as an entry of the running buffer. -/
def retireAny (s : State) (cid : Nat) (entry : Option Nat) (n : Nat) (r : RecInfo) (record advEn : Bool) (i v : Nat) :
    State × Bool :=
  match entry with
  | none => retireRing s cid n r record advEn i v
  | some e => retireEntry s cid e r advEn i v

/-- A command that never started retires: its record is written and then its advance made, or both wait for ring space (10 R352, R354, R358, 11 R383,
R403). -/
def retireUnstarted (s : State) (cid : Nat) (q : QCmd) (status : Nat) : State × Bool :=
  let c := ctxOf s cid
  let s1 := ctxPut s cid { c with cmds := c.cmds.filter (fun x => !(x.seq == q.seq && x.entry == q.entry)), acct := headTimes s c.acct q }
  let c1 := ctxOf s1 cid
  let info : RecInfo := { seq := q.seq, status := status, tbDone := s.tb }
  match q.entry with
  | some e => retireEntry s1 cid e info q.advEn q.advIndex q.advValue
  | none =>
    if hasRecord q.opcode q.entry && !ringRoom c1 then
      let adv := if q.advEn then some (q.advIndex, if status = 0 then q.advValue else q.advValue + 2 ^ 63) else none
      (ctxPut s1 cid { c1 with crWaiting := c1.crWaiting ++ [(q.seq, status, adv)], acct := { c1.acct with retired := c1.acct.retired + 1 } }, true)
    else
      let rec_ := hasRecord q.opcode q.entry
      retireRing (ctxPut s1 cid { c1 with crReserved := if rec_ then c1.crReserved + 1 else c1.crReserved }) cid c1.crReserved info rec_ q.advEn q.advIndex q.advValue

/-! ### Answers (12 R415) -/

/-- The bytes of an outstanding record as they stand in its entry of the area (12 R412, 18 R596). -/
def sprintBytes (s : State) (p : Sprint) (seq : Nat) : Bytes :=
  let k := p.outstanding.idxOf seq
  let n := p.delivered - p.outstanding.length + k
  if p.outstanding.contains seq then lseatBytes s p.shell (ctxWindows s p.shell p.ctx) p.lseat (32 * p.areaOffset + (n % p.depth) * (64 + p.recordBytes) + 64) p.recordBytes
  else (List.range p.recordBytes).map (fun i => tget (fun _ => 0) p.staging i)

/-- A result released with status OK leaves now: a later safety event may expose it (17 R562, Table Safety-7). -/
def okLeaves (s : State) (slot : Nat) : State :=
  shellPut s slot { shellOf s slot with tbLastOk := some s.tb }

/-- Send an answer of a sprint slot: the body as one posted write, then the 8-byte tail; a WAKE binding makes it a
Wake record with the same status and time (12 R415). A write whose delivery fails is dropped and counted (12 R420). -/
def sprintAnswer (s : State) (n seq status : Nat) (body recBytes claim : Bytes) : State :=
  let p := sprintOf s n
  if s.start.entry || s.start.releasesStopped then s
  else
    let s := sprintPut s n { p with results := p.results + 1 }
    let addr := p.ringBase + (seq % 2 ^ p.ringLog2) * p.resultBytes
    let tail := pack [(0, (seq / 2 ^ p.ringLog2 + 1) % 2), (14, n), (24, status), (32, seq % 2 ^ 32)]
    let s1 := match hostWriteFails s p.fn addr with
      | some _ => pinc s P.sprResultsFailed
      | none => emit (emit s (.hostWrite addr body)) (.hostWrite (addr + p.resultBytes - 8) (leBytes 8 tail))
    let s2 := if status = 0 then okLeaves s1 p.shell else s1
    if p.wake then wakeAppend s2 p.shell (sprintWake s2 p seq status claim recBytes body) else s2

/-- An answer with a zero body (12 R415). -/
def sprintAnswerZero (s : State) (n seq status : Nat) : State :=
  let p := sprintOf s n
  sprintAnswer s n seq status (List.replicate (p.resultBytes - 8) 0) (sprintBytes s p seq) (claimIn s p.shell)

/-- Answer every outstanding record of a slot with a zero body, oldest first. -/
def sprintAnswerAll (s : State) (n status : Nat) : State :=
  let p := sprintOf s n
  let s1 := p.outstanding.foldl (fun s q => sprintAnswerZero s n q status) s
  sprintPut s1 n { sprintOf s1 n with outstanding := [] }

/-- When a job of a context ends on a shell, its outstanding records are answered UNANSWERED (12 R413). -/
def sprintJobEnded (s : State) (slot cid : Nat) : State :=
  (sprintSlots s (fun p => p.st != .unbound && p.shell == slot && p.ctx == cid)).foldl
    (fun s n => sprintPut (sprintAnswerAll s n 0x82) n { sprintOf (sprintAnswerAll s n 0x82) n with reading := false }) s

/-- Begin the forced abort of a bound slot: the window closes and a staged partial record is dropped (12 R420). -/
def sprintAbort (s : State) (n : Nat) : State :=
  let p := sprintOf s n
  if p.st = .bound then sprintPut s n { p with st := .aborting, staging := [], reading := false } else s

/-! ### Jobs leaving a shell (11 R385, R401) -/

/-- The completion status of an ended job: the first row of Table Cmd-7 that applies (11 R385). -/
def jobStatus (j : Job) : Nat × Nat :=
  match j.stop with
  | some (st, det) => (st, det)
  | none => if j.abandon then (4, 0) else (0, 0)

/-- Retire a job with its status; under 17 R552 the status becomes SUSPECT when a safety event of the shell has
been raised by the time the record leaves. Its JOB Wake record carries the same status and time (01 R42, R43). -/
def jobRetire (s : State) (slot : Nat) (j : Job) : State × Bool :=
  let (st0, det0) := jobStatus j
  let sus := (shellOf s slot).latch
  let st := if sus then 1 else st0
  let det := if st = 2 then det0 else 0
  let r : RecInfo := { seq := j.seq, status := st, detail := det, shell := slot, summary := j.summary, energyMj := j.energyUj / 1000, tbDone := s.tb }
  let s1 := wakeAppend s slot (jobWake s slot j st)
  let (s2a, ok) := retireAny s1 j.ctx j.entryIdx j.crSlot r true j.advEn j.advIndex j.advValue
  let s2 := if st = 0 then okLeaves s2a slot else s2a
  let c := ctxOf s2 j.ctx
  (ctxPut s2 j.ctx { c with acct := { c.acct with runNs := c.acct.runNs + j.runNs, offSeatNs := c.acct.offSeatNs + j.offNs } }, ok)

/-- Whether a pre-empted job may be restored now (11 R398). -/
def restorable (sh : Shell) (j : Job) : Bool := j.imageSeats == shellSeats sh

/-- The off-seat time of a pre-empted job counts toward its timeout while the shell's SEAT_COUNT keeps it from being restored (11 R399). -/
def heldMark (s : State) (sh : Shell) (j : Job) : Job :=
  match j.tbHeld with
  | none => if restorable sh j then j else { j with tbHeld := some s.tb }
  | some t => if restorable sh j then { j with heldNs := j.heldNs + (s.tb - t), tbHeld := none } else j

/-- The seats of a shell have changed, and with them which of its pre-empted jobs can be restored. -/
def heldClock (s : State) (slot : Nat) : State :=
  let sh := shellOf s slot
  if sh.preempted = [] then s else shellPut s slot { sh with preempted := sh.preempted.map (heldMark s sh) }

/-- Leases that join or leave with no job on the shell and none pre-empted (14 R482). -/
def leasesJoin (s : State) (slot : Nat) : State :=
  let sh := shellOf s slot
  if sh.job = none ∧ sh.preempted = [] then shellPut s slot { sh with joined := sh.rig.leases } else s

/-- A freeze takes hold: the shell is FROZEN, and a pre-emption latched beside it lapses (02 R77, 11 R391). -/
def freezeEnter (s : State) (slot : Nat) : State :=
  shellPut s slot { shellOf s slot with st := .frozen, freezeLatch := false, freezeAt := none, preemptAt := none, tbFreeze := s.tb }

/-- A job has left its shell: the shell is IDLE with none left, or freezes at once under a latched freeze, and leases changed
meanwhile join or leave (02 R49, R77, 14 R482). A freeze waits for the migrations of the shell (02 R76). -/
def jobLeave (s : State) (slot : Nat) : State :=
  let s1 := leasesJoin s slot
  let sh := shellOf s1 slot
  if sh.st ≠ .running then s1
  else if sh.freezeLatch ∧ sh.migs.all (·.done) then freezeEnter s1 slot
  else if sh.preempted = [] ∧ !sh.freezeLatch then shellPut s1 slot { sh with st := .idle }
  else s1

/-- What a job that ends has gathered: the OR of its seats' summary words, or of its image's, and its time on and off its seats
(04 R151, 11 R404). -/
def jobClose (s : State) (slot : Nat) (j : Job) : Job :=
  let own := ((shellOf s slot).rig.seats.map (fun i => (seatOf s i).arr.summary)).foldl (· ||| ·) j.summary
  let kept := ((imageOf s (imageKey slot j.imageSlot)).seats.map (fun x => field x.record 0x360 8)).foldl (· ||| ·) j.summary
  match j.phase with
  | .running => { j with summary := own, runNs := j.runNs + (s.tb - j.tbSpan), tbSpan := s.tb }
  | .saving => { j with summary := own, offNs := j.offNs + (s.tb - j.tbSpan), tbSpan := s.tb }
  | .preempted => { j with summary := kept, offNs := j.offNs + (s.tb - j.tbSpan), tbSpan := s.tb }
  | .restoring => { j with summary := kept, offNs := j.offNs + (s.tb - j.tbSpan), tbSpan := s.tb }
  | _ => j

/-- Take the running job off its shell outside a catch point (11 R401): its seats halt with their queues squashed,
outstanding sprint records are answered UNANSWERED, and the seats are scrubbed before the next job. -/
def jobHalt (s : State) (slot : Nat) : State :=
  let sh := shellOf s slot
  match sh.job with
  | none => s
  | some j =>
    let s1 := haltSeats s slot
    let s2 := sprintJobEnded s1 slot j.ctx
    jobLeave (shellPut s2 slot { shellOf s2 slot with job := none, lastCtx := some j.ctx, dirty := true, preemptAt := none, scrubbing := [] }) slot

/-- Retire a job that is stopped with its context: the causing job with its own status, the others ABORTED
(10 R358 step 2). In a destroy no record is written, only the Wake record (10 R359). -/
def lossRetire (s : State) (slot : Nat) (j : Job) (cause : Option (Nat × Nat × Nat)) (silent : Bool) : State :=
  let st : Nat × Nat := match cause with
    | some (sl, a, b) => if sl = slot then (a, b) else (4, 0)
    | none => (4, 0)
  let j1 := { j with stop := some (j.stop.getD st) }
  if silent then
    let c := ctxOf s j.ctx
    wakeAppend (ctxPut s j.ctx { c with started := c.started.filter (fun e => e != (j.seq, j.entryIdx)) }) slot
      (jobWake s slot j1 (jobStatus j1).1)
  else (jobRetire s slot j1).1

/-- A pre-empted job ends without being restored: its outstanding sprint records are answered, its image slot is free and nothing is
steered to it any more (11 R400, 12 R413). -/
def preemptedEnd (s : State) (slot : Nat) (j : Job) : State :=
  let s1 := imagePut (sprintJobEnded s slot j.ctx) (imageKey slot j.imageSlot) {}
  let sh := shellOf s1 slot
  let s2 := shellPut s1 slot { sh with preempted := sh.preempted.filter (fun x => x.imageSlot != j.imageSlot) }
  if sh.windows = .image (imageKey slot j.imageSlot) then windowsLocal s2 slot else s2

/-- Stop every job of a context on one shell, running or pre-empted; a pre-empted job's image slot is freed
(10 R358 step 2, 11 R400). -/
def lossOnShell (cid : Nat) (cause : Option (Nat × Nat × Nat)) (silent : Bool) (s : State) (slot : Nat) : State :=
  let sh := shellOf s slot
  let s1 := match sh.job with
    | some j => if j.ctx = cid then lossRetire (jobHalt s slot) slot (jobClose (jobHalt s slot) slot j) cause silent else s
    | none => s
  let gone := sh.preempted.filter (fun j => j.ctx = cid)
  let s2 := gone.foldl (fun s j => lossRetire (preemptedEnd s slot j) slot (jobClose s slot j) none silent) s1
  if (shellOf s2 slot).job = none ∧ gone ≠ [] then jobLeave s2 slot else s2

/-! ### Fault batches (09 R330, R332) -/

/-- A fault record (09 Table Ranges-13). -/
def faultBytes (r : FaultRec) (stopped : Bool) : Bytes :=
  leBytes 32 (pack [(192, r.va), (128, r.cursor), (96, r.ticket), (80, r.lseat), (75, r.shell), (73, r.access), (72, if stopped then 1 else 0),
    (64, r.reason), (52, r.slot.getD 0), (51, if r.slot.isSome then 1 else 0), (0, r.tb % 2 ^ 48)])

/-- Write the fault batches of a function that have room in its fault ring, with the translation interrupt (09 R330, R312). -/
def faultFlush (s : State) (fn : Nat) : Nat → State
  | 0 => s
  | k + 1 =>
    let f := fnOf s fn
    match f.fltWaiting with
    | [] => s
    | (cid, seq, lost, tbOpen, recs) :: t =>
      if f.fltWritten - f.fltRead < 16 then
        let hdr := leBytes 32 (pack [(224, seq % 2 ^ 32), (208, cid), (200, recs.length), (199, if lost then 1 else 0),
          (192, if f.fltWritten / 16 % 2 = 0 then 1 else 0), (128, tbOpen % 2 ^ 64), (64, s.tb % 2 ^ 64)])
        let s1 := fnStPut s fn { f with fltWaiting := t, fltWritten := f.fltWritten + 1 }
        let c := ctxOf s1 cid
        let s2 := if lost ∨ seq ≠ c.fault.lastBatch then s1
          else ctxPut s1 cid { c with fault := { c.fault with waiting := false, tbDelivered := s.tb, timeoutMs := pget s P.faultTimeoutMs } }
        let s3 := emit s2 (.hostWrite (fnGet s fn 0x60 + 4096 * (f.fltWritten % 16)) (hdr ++ recs.flatMap (fun r => faultBytes r (!lost))))
        faultFlush (raiseCause (pinc s3 P.faultBatches) fn 1) fn k
      else s

/-- Deliver a batch of a context; it waits while the ring is full (09 R330). -/
def faultDeliver (s : State) (cid seq : Nat) (lost : Bool) (tbOpen : Nat) (recs : List FaultRec) : State :=
  let fn := (ctxOf s cid).fn
  let f := fnOf s fn
  faultFlush (fnStPut s fn { f with fltWaiting := f.fltWaiting ++ [(cid, seq, lost, tbOpen, recs)] }) fn (f.fltWaiting.length + 1)

/-- The fault conversation of a context that is lost: one batch with CONTEXT_LOST reports the unresolvable fault, the records of a batch
that still collects, and the held ones, up to 64 (09 R324, Table Ranges-15). -/
def faultLose (s : State) (cid : Nat) : State :=
  let c := ctxOf s cid
  let f := c.fault
  let collecting := f.st = .collecting
  let recs := (f.last.toList ++ (if collecting then f.records else []) ++ f.held).take 64
  let seq := if collecting then f.lastBatch else f.lastBatch + 1
  let s1 := ctxPut s cid { c with fault := { f with st := .lost, records := [], held := [], last := none, lastBatch := if recs = [] then f.lastBatch else seq } }
  -- TB_OPEN is the time of the batch's first fault (09 Table Ranges-12)
  if recs = [] then s1 else faultDeliver s1 cid seq true (if collecting then f.tbOpen else ((recs.map (·.tb)).min?).getD s.tb) recs

/-- A destroy discards the batches and held records of a context (09 Table Ranges-15). -/
def faultDiscard (s : State) (cid : Nat) : State :=
  let c := ctxOf s cid
  let f := fnOf s c.fn
  fnStPut (ctxPut s cid { c with fault := { c.fault with st := .lost, records := [], held := [], last := none, waiting := false } }) c.fn
    { f with fltWaiting := f.fltWaiting.filter (fun b => b.1 != cid) }

/-- Write the waiting records that have ring room, each followed by its advance (10 R352, R354, R358 step 4). The answer is false when a delivery
failed. -/
def flushLost (s : State) (cid : Nat) : Nat → State × Bool
  | 0 => (s, true)
  | n + 1 =>
    let c := ctxOf s cid
    match c.crWaiting with
    | [] => (s, true)
    | (q, st, adv) :: t =>
      if ringRoom c then
        let s1 := ctxPut s cid { c with crWaiting := t, crReserved := c.crReserved + 1 }
        let (s2, ok2) := writeRecord s1 cid c.crReserved { seq := q, status := st, tbDone := s.tb }
        let (s3, ok3) := match adv with | some (i, v) => advanceBinding s2 cid i v | none => (s2, true)
        let (s4, ok4) := flushLost s3 cid n
        (s4, ok2 && ok3 && ok4)
      else (s, true)

/-- The sequence numbers from `a`, `n` of them, modulo 2³². -/
def seqRange (a : Nat) : Nat → List Nat
  | 0 => []
  | n + 1 => a % 2 ^ 32 :: seqRange (a + 1) n

/-- The loss procedure of a context (10 R358); `silent` is its use in a destroy, without records and without
cause 3 (10 R359). -/
def ctxLoss (s : State) (cid : Nat) (cause : Option (Nat × Nat × Nat)) (silent : Bool) : State :=
  let c := ctxOf s cid
  if c.st = .live then
    -- steps 1 to 3: no fetch, jobs stopped, transfers squashed or drained
    let s0 := ctxPut s cid { c with st := .lost }
    let s1 := if silent then faultDiscard s0 cid else faultLose s0 cid
    let s2 := (List.range 32).foldl (lossOnShell cid cause silent) s1
    -- step 4: started privileged commands and the running CALL end, queued commands retire CONTEXT_LOST
    let c2 := ctxOf s2 cid
    let lostEntries := c2.cmds.filterMap (fun q => q.entry.map (fun e => (e, 5, 0)))
    let call := c2.call.map (fun k => { k with
      openEntries := k.openEntries - lostEntries.length
      failed := k.failed ++ lostEntries ++ (if k.next < k.count then [(k.next, 5, 0)] else []) })
    let queued := (c2.cmds.filter (fun q => hasRecord q.opcode q.entry)).map (·.seq)
    let unread := seqRange c2.head (serialDist c2.head c2.tail)
    let waiting := c2.crWaiting ++ (queued ++ unread).map (fun q => (q, 0x05, none))
    let privs := c2.priv
    let a := c2.cmds.foldl (headTimes s2) c2.acct
    let s3 := ctxPut s2 cid { c2 with cmds := [], priv := [], call := call, head := c2.tail, crWaiting := if silent then [] else waiting
                                      acct := { a with retired := a.retired + c2.cmds.length + unread.length } }
    let s4 := if silent then ctxPut s3 cid { ctxOf s3 cid with call := none, callsOpen := [], started := [] }
      else
        let s4 := privs.foldl (fun s p => (retireRing s cid p.crSlot { seq := p.cmd.seq, status := 4, tbDone := s.tb } true p.cmd.advEn p.cmd.advIndex p.cmd.advValue).1) s3
        (flushLost ((call.map (·.seq)).toList.foldl (fun s q => (callSettle s cid q).1) s4) cid waiting.length).1
    -- step 5
    let s5 := poisonBindings s4 cid
    if silent then s5 else raiseCause s5 c.fn 3
  else s

/-- A job's end is delivered, and its context lost when the delivery fails (10 R354, R361). -/
def jobDeliver (s : State) (slot : Nat) (j : Job) : State :=
  let (s1, ok) := jobRetire s slot j
  if ok then s1 else ctxLoss s1 j.ctx none false

/-- Stop the job of a shell with a status; its context is kept (11 R401, 16 R542). When an earlier stop met the job, its status stands. -/
def jobStop (s : State) (slot st det : Nat) : State :=
  match (shellOf s slot).job with
  | none => s
  | some j => jobDeliver (jobHalt s slot) slot { jobClose (jobHalt s slot) slot j with stop := some (j.stop.getD (st, det)) }

/-- A fault of a job: it ends with the status and its context is lost (10 Table Host-8). -/
def jobFault (s : State) (slot st det : Nat) : State :=
  match (shellOf s slot).job with
  | none => s
  | some j => ctxLoss s j.ctx (some (slot, st, det)) false

/-- End every pre-empted job of a shell ABORTED and free its image slots (16 Table Start-6). -/
def preemptedAbort (s : State) (slot : Nat) : State :=
  let sh := shellOf s slot
  let closed := sh.preempted.map (fun (j : Job) => { jobClose s slot j with stop := some (4, 0) })
  let s0 := sh.preempted.foldl (fun s j => preemptedEnd s slot j) s
  let s1 := if sh.job = none ∧ sh.preempted ≠ [] then jobLeave s0 slot else s0
  closed.foldl (fun s j => jobDeliver s slot j) s1

/-! ### Error records (17 R564-R566) -/

/-- File an error record: it takes the next SEQ, enters the device log (newest 4,096), the owning function's log
(newest 256) with cause 6 unless it is scoped to the device, and for a safety event the shell's log and Wake chain. Its code is the last
error code of the island it names (16 Table Start-9; DEDUCED, log 57). -/
def fileError (s : State) (safety : Bool) (e : ErrRec) : State :=
  let e1 := { e with seq := s.errSeq, tbDetect := if e.tbDetect = 0 then s.tb else e.tbDetect }
  let s1 := { s with errSeq := s.errSeq + 1, errLog := keepNewest 4096 (s.errLog ++ [e1]) }
  let s1 := if e1.island < 2353 ∧ e1.code ≠ 0 then islandPut s1 e1.island { islandOf s1 e1.island with lastError := e1.code } else s1
  let s2 :=
    if e1.scope = 0 ∨ e1.fn ≥ 32 then s1
    else
      let f := fnOf s1 e1.fn
      raiseCause (fnStPut s1 e1.fn { f with errLog := keepNewest 256 (f.errLog ++ [e1]) }) e1.fn 6
  if safety then
    let sh := shellOf s2 e1.shell
    wakeAppend (shellPut s2 e1.shell { sh with errLog := sh.errLog ++ [e1] }) e1.shell (errWake s2 e1)
  else s2

end Sys2Proof.Machine
end

