-- ==== Sys2Proof/Machine/PowerOps.lean ====
section
/-! DEFINITION. Power levels, the seat power estimate, and the allocations of the budget among shells (15 R501 to R511).
Powers are in units of 10 mW. -/
namespace Sys2Proof.Machine

/-- The seat clocks of the eight levels before any limit, in MHz (15 Table Power-2). -/
def plTable (l : Nat) : Nat :=
  match l with
  | 0 => 1700 | 1 => 1600 | 2 => 1500 | 3 => 1350 | 4 => 1200 | 5 => 1000 | 6 => 750
  | _ => 500

/-- The seat clock of a level on this module: the least of the table, the variant's limit and DEVICE_CLOCK_CAP_MHZ (15 R501). -/
def plClock (s : State) (l : Nat) : Nat := min (plTable l) (min (pget s P.seatClockLimitMhz) (pget s P.deviceClockCapMhz))

/-- The seat power estimate at a clock, 0.16 W + 0.906 W per GHz rounded to 10 mW (15 R501). -/
def seatPower (mhz : Nat) : Nat := (165000 + 906 * mhz) / 10000

/-- The estimate at a level. -/
def plPower (s : State) (l : Nat) : Nat := seatPower (plClock s l)

/-- One shell's figures in the sharing of power (15 R507). -/
structure PowerShare where
  slot : Nat
  floor : Nat
  base : Nat
  cap : Nat
  weight : Nat
  deriving DecidableEq, Repr

/-- The figures of a shell with `n` seats, a minimum in W and a weight. -/
def shareOf (s : State) (slot n minW weight : Nat) : PowerShare :=
  let fl := n * plPower s 7
  let b := max (100 * minW) fl
  { slot := slot, floor := fl, base := b, cap := max b (n * plPower s (pget s (P.plCap slot))), weight := weight }

/-- The slot number that stands for lease `id` among the shares: each lease of seats counts as one further shell of the
lender (15 R502). -/
def lentSlot (id : Nat) : Nat := 1000 + id

/-- The figures of every shell that is not FREE, and of every lease of lent seats with minimum 0 and weight 16 (15 R502, R507). -/
def shares (s : State) : List PowerShare :=
  ((List.range 32).filter (fun i => (shellOf s i).st != .free)).map (fun i =>
    shareOf s i (shellOf s i).rig.seats.length (pget s (P.powerMinW i)) (pget s (P.powerWeight i)))
    ++ (s.lent.filter (fun l => l.kind == 1)).map (fun l =>
      let n := l.res.length
      { slot := lentSlot l.id, floor := n * plPower s 7, base := n * plPower s 7, cap := n * plPower s 0, weight := 16 })

/-- One round of the sharing: shells that reach their cap are closed and the rest goes round again (15 R507). -/
def shareLoop (fuel : Nat) (a : Nat) (closed opened : List (PowerShare × Nat)) : List (Nat × Nat) :=
  let done := fun (l : List (PowerShare × Nat)) => l.map (fun p => (p.1.slot, p.2 / 100))
  match fuel with
  | 0 => done (closed ++ opened)
  | n + 1 =>
    let r := a - ((closed ++ opened).map (·.2)).sum
    if r = 0 ∨ opened = [] then done (closed ++ opened)
    else
      let w := (opened.map (fun p => p.1.weight)).sum
      let hits := fun (p : PowerShare × Nat) => decide (p.2 * w + r * p.1.weight ≥ p.1.cap * w)
      if opened.all (fun p => !hits p) then
        done closed ++ opened.map (fun p => (p.1.slot, (p.2 * w + r * p.1.weight) / (w * 100)))
      else shareLoop n a (closed ++ (opened.filter hits).map (fun p => (p.1, p.1.cap))) (opened.filter (fun p => !hits p))

/-- The power available to the seats, A (15 R507). -/
def powerAvail (s : State) : Nat := 100 * (pget s P.budgetEffectiveW - pget s P.platformReserveW)

/-- The allocations in W by shell slot, and whether the budget is unmet (15 R507, R511). -/
def allocations (s : State) : List (Nat × Nat) × Bool :=
  let l := shares s
  let a := powerAvail s
  let sb := (l.map (·.base)).sum
  let sf := (l.map (·.floor)).sum
  if sb ≤ a then (shareLoop (l.length + 1) a [] (l.map (fun p => (p, p.base))), false)
  else if a ≥ sf then (l.map (fun p => (p.slot, (p.floor * (sb - sf) + (p.base - p.floor) * (a - sf)) / ((sb - sf) * 100))), false)
  else (l.map (fun p => (p.slot, p.floor / 100)), true)

/-- The level a seat of die `d` runs at under a level `l`: thermal steps of its die and of the ring dies and MD lower it further, and
no seat rises above PL7's clock while an alert source is asserted or held (15 R513, R515, R516). -/
def seatLevelOf (s : State) (seat l : Nat) : Nat :=
  if s.power.phase = .asserted ∨ s.power.phase = .holding then 7
  else min 7 (l + tget (fun _ => 0) s.power.steps (seat / 144) + ((s.power.steps.filter (fun e => e.1 ≥ 16)).map (·.2)).sum)

/-- Put seats at a level: their clocks follow (15 R502). -/
def seatsLevel (s : State) (seats : List Nat) (l : Nat) : State :=
  seats.foldl (fun s i =>
    let e := seatLevelOf s i l
    let t := seatOf s i
    -- a seat whose clock is lent takes the level's clock back with its wait (07 R262)
    if t.lentFrom.isSome then seatPut s i { t with level := e, lentFrom := some (plClock s e) }
    else seatPut s i { seatClock s t (plClock s e) with level := e }) s

/-- Put every seat of a shell at a level (15 R502). -/
def shellLevel (s : State) (slot l : Nat) : State := seatsLevel (pset s (P.powerLevel slot) l) (shellOf s slot).rig.seats l

/-- Put the seats lent under a lease at a level (15 R502). -/
def lentLevel (s : State) (id l : Nat) : State :=
  let s1 := { s with lent := s.lent.map (fun x => if x.id = id then { x with level := l } else x) }
  seatsLevel s1 ((s1.lent.filter (fun x => x.id == id && x.kind == 1)).flatMap (·.res)) l

/-- The slots of the shells in use, and the leases of lent seats. -/
def liveSlots (s : State) : List Nat := (List.range 32).filter (fun i => (shellOf s i).st != .free)
def lentIds (s : State) : List Nat := (s.lent.filter (fun l => l.kind == 1)).map (·.id)

/-- Put every seat at the level it has again, after a clock limit or a thermal step has changed. -/
def relevel (s : State) : State :=
  let s1 := (liveSlots s).foldl (fun s i => shellLevel s i (pget s (P.powerLevel i))) s
  (lentIds s1).foldl (fun s i => lentLevel s i (((s.lent.find? (fun l => l.id == i)).map (·.level)).getD 0)) s1

/-- Force PL7 at every seat, in hardware (15 R514, 16 R544, 17 R560). -/
def powerForcePl7 (s : State) : State :=
  let s1 := (liveSlots s).foldl (fun s i => shellLevel s i 7) s
  (lentIds s1).foldl (fun s i => lentLevel s i 7) s1

/-- Whether a shell's allocation is below its base: the bases do not fit, and its own is above its floor (15 R511). -/
def scaledBelow (s : State) (slot : Nat) : Bool :=
  let l := shares s
  decide ((l.map (·.base)).sum > powerAvail s) && l.any (fun p => p.slot == slot && decide (p.floor < p.base))

/-- One shell's allocation takes effect: ALLOC_W, POWER_SCALED, and one record of kind POWER_SCALED when the scaling begins and at each change
while it lasts (15 R511). -/
def allocPut (unmet scaled : Bool) (slot w : Nat) (s : State) : State :=
  if slot ≥ 32 then (if unmet then lentLevel s (slot - 1000) 7 else s)
  else
    let changed := pget s (P.allocW slot) != w || pget s (P.powerScaled slot) == 0
    let s1 := pset (pset s (P.allocW slot) w) (P.powerScaled slot) (if scaled then 1 else 0)
    let s2 := if unmet then shellLevel s1 slot 7 else s1
    if scaled && changed then fileError s2 false { kind := 0x11, scope := 1, shell := slot, fn := pget s2 (P.ownerFunction slot), detail0 := w } else s2

/-- Recompute every allocation (15 R506, R511): a shell whose budget is unmet runs at PL7, and BUDGET_UNMET is set. -/
def powerAllocate (s : State) : State :=
  let r := allocations s
  let s1 := r.1.foldl (fun (t : State) (p : Nat × Nat) => allocPut r.2 (scaledBelow s p.1) p.1 p.2 t) s
  pset s1 P.alertStatus (setBitOf (pget s1 P.alertStatus) 4 r.2)

/-- The two power tests of a commit of a slot (15 R510): 0x0607, 0x0601, or 0. `seats`, `minW` are staged; `other` gives the
base of every other slot, the larger of its latched and active one. -/
def powerAdmit (s : State) (slot seats minW : Nat) (other : List (Nat × Nat)) : Nat :=
  let mine := shareOf s slot seats minW 16
  let old := if (shellOf s slot).st = .free then 0
    else (shareOf s slot (shellOf s slot).rig.seats.length (pget s (P.powerMinW slot)) 16).base
  let rest := (other.map (·.2)).sum
  if 100 * minW > seats * seatPower (pget s P.seatClockLimitMhz) then 0x0607
  else if mine.base > old ∧ mine.base + rest + 100 * pget s P.platformReserveW > 100 * pget s P.budgetEffectiveW then 0x0601
  else 0

end Sys2Proof.Machine
end

