-- ==== Sys2Proof/Machine/Rigging.lean ====
section
/-! DEFINITION. Rigging: staging, the pool, the checks of a commit, its application and roll-back, catch points, migrations,
scrubs and metering (02, 08 R292, 11 R393, 15 R510). -/
namespace Sys2Proof.Machine

/-! ### Staging (02 R53, R54) -/

/-- The scalar shadowed parameters of a slot, applied at its RIG_COMMIT (02 Table Shells-3, 08 Table Tiers-10, 11 Table
Cmd-8, 15 Table Power-8). -/
def slotKeys (slot : Nat) : List Nat :=
  [P.ownerFunction slot, P.seatQuota slot, P.seatCount slot, P.seatPlacement slot, P.cxlPortMask slot, P.rigSeq slot, P.imageTarget slot,
   P.imageFlags slot, P.powerMinW slot, P.powerWeight slot, P.preemptFirstLch slot, P.preemptLchCount slot, P.preemptChOffsetMib slot,
   P.preemptSlotMib slot, P.preemptSlots slot, P.minMesh slot, P.minAttach slot, P.minRing slot, P.minHost slot, P.weight slot]

/-- The area fields of 11 Table Cmd-8. -/
def areaKeys (slot : Nat) : List Nat :=
  [P.preemptFirstLch slot, P.preemptLchCount slot, P.preemptChOffsetMib slot, P.preemptSlotMib slot, P.preemptSlots slot]

/-- The lists of the active rigging as the dictionary shows them: seats by identifier. -/
def rigShown (r : Rig) : Rig := { r with seats := r.seats.map seatIdent }

/-- Reload every shadowed field of a slot from the active rigging (02 R54). -/
def stagingReload (s : State) (slot : Nat) : State :=
  let sh := shellOf s slot
  shellPut { s with staged := s.staged.filter (fun e => !(slotKeys slot).contains e.1) } slot { sh with staging := rigShown sh.rig }

/-- A staged scalar of a commit. -/
def Commit.sc (m : Commit) (k : Nat) : Nat := tget (fun _ => 0) m.scalars k

/-- The staged fields as they stand (02 R53). -/
def stagedCommit (s : State) (slot : Nat) (byKernel : Bool) : Commit :=
  { byKernel := byKernel, rig := (shellOf s slot).staging
    scalars := (slotKeys slot).foldl (fun t k => tset (fun _ => 0) t k (stagedGet s k)) []
    seatCount := stagedGet s (P.seatCount slot), rigSeq := stagedGet s (P.rigSeq slot)
    caps := (List.range 12).map (fun k => pget s (P.regCapacity k)) }

/-! ### The pool (02 R44, R50, R52) -/

/-- The shells of a state, FREE ones left out. -/
def liveShells (s : State) : List (Nat × Shell) := s.shells.filter (fun e => e.2.st != .free)

/-- What a shell's latched commit reserves beside its active rigging (02 R628). -/
def reservedSeats (sh : Shell) : List Nat := match sh.commit with | some m => m.rig.seats | none => []
def reservedChannels (sh : Shell) : List Nat := match sh.commit with | some m => m.rig.channels | none => []
def reservedPorts (sh : Shell) : List Nat := match sh.commit with | some m => m.rig.ports | none => []

/-- Whether a slot's commit is latched or applying, so that it reserves (02 Table Shells-5). -/
def reserving (s : State) (slot : Nat) : Bool := pget s (P.rigStatus slot) ≥ 2

/-- Seats, channels and ports held or reserved by every slot but one. -/
def heldSeats (s : State) (but : Nat) : List Nat :=
  (s.shells.filter (fun e => e.1 != but && (e.2.st != .free || reserving s e.1))).flatMap (fun e =>
    e.2.rig.seats ++ (if reserving s e.1 then reservedSeats e.2 else []))
def heldChannels (s : State) (but : Nat) : List Nat :=
  (s.shells.filter (fun e => e.1 != but && (e.2.st != .free || reserving s e.1))).flatMap (fun e =>
    e.2.rig.channels ++ e.2.migs.flatMap (fun m => [m.src, m.dst]) ++ (if reserving s e.1 then reservedChannels e.2 else []))
def heldPorts (s : State) (but : Nat) : List Nat :=
  (s.shells.filter (fun e => e.1 != but && (e.2.st != .free || reserving s e.1))).flatMap (fun e =>
    e.2.rig.ports ++ (if reserving s e.1 then reservedPorts e.2 else []))

/-- Seats and channels lent to other modules until their scrub ends (14 R480, R485). -/
def lentSeats (s : State) : List Nat := ((s.lent ++ s.lentEnding.map (·.1)).filter (fun l => l.kind == 1)).flatMap (·.res)
def lentChannels (s : State) : List Nat := ((s.lent ++ s.lentEnding.map (·.1)).filter (fun l => l.kind == 2)).flatMap (·.res)

/-- Seats that are taken for slot `but`: held by another, lent, or being scrubbed. -/
def takenSeats (s : State) (but : Nat) : List Nat := heldSeats s but ++ lentSeats s ++ s.scrubSeats

/-- Channels that are taken for slot `but`; the context store and the Boathouse's channels never return (10 R345, 14 R490). -/
def takenChannels (s : State) (but : Nat) : List Nat :=
  heldChannels s but ++ lentChannels s ++ s.scrubChans ++ s.bhChannels ++ s.start.storeChannel.toList

/-- Whether a seat failed its self-test or has been retired (02 Table Shells-6). -/
def seatUnavailable (s : State) (i : Nat) : Bool := s.retiredSeats.contains i || s.start.failedSeats.contains i

/-- The seats of the pool for slot `but`, its own active seats left out, in ascending order. -/
def poolSeats (s : State) (but : Nat) : List Nat :=
  let t := takenSeats s but ++ (shellOf s but).rig.seats
  (List.range 2304).filter (fun i => !t.contains i && !seatUnavailable s i)

/-- Whether a channel is in use as trained. -/
def chanUsable (s : State) (c : Nat) : Bool := (chanOf s c).st == .trained || (chanOf s c).st == .retirePending

/-- The channels of the pool for slot `but`. -/
def poolChannels (s : State) (but : Nat) : List Nat :=
  let t := takenChannels s but ++ (shellOf s but).rig.channels
  (List.range 96).filter (fun c => !t.contains c && (chanOf s c).st == .trained)

/-! ### The checks of a commit (02 R55 to R59) -/

/-- The listed seats that count: a list longer than SEAT_COUNT is cut under placement 1 (02 R56). -/
def listedSeats (slot : Nat) (m : Commit) : List Nat :=
  if m.byKernel ∨ m.sc (P.seatPlacement slot) = 1 then m.rig.seats.take m.seatCount else m.rig.seats

/-- The active seats that keep their places beyond the list (02 R56). -/
def keptSeats (sh : Shell) (slot : Nat) (m : Commit) : List Nat := (sh.rig.seats.take m.seatCount).drop (listedSeats slot m).length

/-- How many seats the Cox must place (02 R55, R56). -/
def placedCount (sh : Shell) (slot : Nat) (m : Commit) : Nat :=
  if m.byKernel ∨ m.sc (P.seatPlacement slot) = 1 then m.seatCount - max (listedSeats slot m).length sh.rig.seats.length else 0

/-- The seat list a commit leads to, by island number; entries that name no seat are left out (02 R56, R83). -/
def resolvedSeats (s : State) (slot : Nat) (m : Commit) : List Nat :=
  let sh := shellOf s slot
  let named := (listedSeats slot m).filterMap seatOfIdent ++ keptSeats sh slot m
  named ++ ((poolSeats s slot).filter (fun i => !named.contains i)).take (placedCount sh slot m)

/-- Whether a range entry of a context of a function targets a logical channel of a slot (02 Table Shells-6, 0x010E). -/
def lchTargeted (s : State) (fn slot lch : Nat) : Bool :=
  s.ctxs.any (fun c => c.2.st != CtxState.free && c.2.fn == fn && c.2.entries.any (fun e =>
    let x := e.2.entry
    entKind x == 1 && bitsOf x 105 101 == slot && decide (bitsOf x 100 94 ≤ lch) && decide (lch ≤ bitsOf x 100 94 + bitsOf x 93 87)))

/-- Whether a function exists: PF0, or an enabled VF (10 R334). -/
def fnEnabled (s : State) (fn : Nat) : Bool := fn == 0 || (decide (fn < 32) && (fnOf s fn).enabled)

/-- Whether a commit by K changes anything but SEAT_COUNT and RIG_SEQ, or exceeds its quota (02 R55). -/
def kernelFails (s : State) (slot : Nat) (m : Commit) : Bool :=
  decide (m.rig ≠ rigShown (shellOf s slot).rig)
    || (slotKeys slot).any (fun k => k != P.seatCount slot && k != P.rigSeq slot && m.sc k != pget s k)
    || decide (m.seatCount > pget s (P.seatQuota slot))

/-- Whether a lease of a staged LEASE_LIST passes: RIGGED in this slot, or HELD with its query answered (14 R481). -/
def leaseOk (s : State) (slot r : Nat) : Bool :=
  s.borrowed.any (fun l => l.record / 2 ^ 176 == r / 2 ^ 176 && ((l.st == 3 && l.slot == some slot) || (l.st == 2 && l.queried)))

/-- The checks of Table Shells-6 in table order, the sequence and image checks aside where `formed` says that the record comes
from the S1 table (02 R58, R83, R627). One lease that stands twice in a LEASE_LIST is refused with 0x0117: R481 lets a lease stand in one list,
and the spec does not say what a list that names it twice meets (DESIGN CHOICE, log 76). -/
def rigCode (s : State) (slot : Nat) (m : Commit) (formed : Bool) : Nat :=
  let sh := shellOf s slot
  let n := m.seatCount
  let fn := m.sc (P.ownerFunction slot)
  let listed := listedSeats slot m
  let ids := listed.filterMap seatOfIdent
  let others := takenSeats s slot
  let outside := ids.filter (fun i => !sh.rig.seats.contains i)
  let oc := takenChannels s slot
  let cmp := match sh.lastRigSeq with | some l => if sh.st = ShellSt.free then Serial.newer else serialCmp l m.rigSeq | none => Serial.newer
  if !formed ∧ pget s P.compositionMode = 1 then 0x0115
  else if sh.st = .free ∧ n = 0 then 0x0101
  else if sh.st = .frozen ∨ sh.st = .resetting ∨ sh.st = .releasing ∨ (n ≥ 1 ∧ sh.st = .saved) ∨ (n = 0 ∧ sh.st = .running) then 0x0102
  else if cmp = .older then 0x0103
  else if cmp = .outside then 0x0104
  else if m.byKernel ∧ kernelFails s slot m then 0x0111
  else if n = 0 then
    (if (List.range sh.rig.channels.length).any (fun k => lchTargeted s (pget s (P.ownerFunction slot)) slot k) then 0x010E else 0)
  else if !fnEnabled s fn then 0x0116
  else if n > 2304 ∨ outside.length + placedCount sh slot m > (poolSeats s slot).length then 0x010A
  else if !m.byKernel ∧ m.sc (P.seatPlacement slot) = 0 ∧ listed.length ≠ n then 0x0109
  else if listed.any (fun i => (seatOfIdent i).isNone) then 0x0105
  else if hasDup (ids ++ keptSeats sh slot m) then 0x0108
  else if ids.any (fun i => others.contains i) then 0x0106
  else if ids.any (fun i => seatUnavailable s i) then 0x0107
  else if m.rig.channels.any (fun c => c > 95) ∨ hasDup m.rig.channels then 0x010B
  else if m.rig.channels.any (fun c => oc.contains c) then 0x010C
  else if m.rig.channels.any (fun c => !chanUsable s c) then 0x010D
  else if (List.range sh.rig.channels.length).any (fun k => k ≥ m.rig.channels.length && lchTargeted s (pget s (P.ownerFunction slot)) slot k) then 0x010E
  else if m.rig.ports.any (fun p => p > 15) ∨ hasDup m.rig.ports
      ∨ (List.range 8).any (fun p => bitOf (m.sc (P.cxlPortMask slot)) p && !(cxlPortOf s p).enumerated) then 0x010F
  else if m.rig.ports.any (fun p => (heldPorts s slot ++ lentPorts s).contains p) then 0x0112
  else if m.rig.leases.any (fun r => !leaseOk s slot r) ∨ hasDup (m.rig.leases.map (fun r => r / 2 ^ 208)) then 0x0117
  else 0

/-! ### Admission, area and power (08 R292, R293; 11 R393; 15 R510) -/

/-- Base capacity of one point of a regulated class, in 0.1 GB/s (08 Table Tiers-8). -/
def classBase (k : Nat) : Nat := match k with | 0 => 24000 | 1 => 8000 | 2 => 5000 | 3 => 1080 | _ => 540

/-- A minimum in class `k` from the values `v` of the scalar parameters and the CXL minima. -/
def classMin (slot : Nat) (v : Nat → Nat) (cxl : List Nat) (k : Nat) : Nat :=
  match k with
  | 0 => v (P.minMesh slot)
  | 1 => v (P.minAttach slot)
  | 2 => v (P.minRing slot)
  | 3 => v (P.minHost slot)
  | _ => if bitOf (v (P.cxlPortMask slot)) (k - 4) then cxl.getD (k - 4) 0 else 0

/-- The minimum of a slot in a class that is in force. -/
def activeMin (s : State) (slot k : Nat) : Nat := classMin slot (pget s) (shellOf s slot).rig.cxlMin k

/-- Whether a slot's commit has passed its check and has not taken effect: it is latched, or its seats are being copied (02 R628). -/
def commitStands (s : State) (slot : Nat) : Bool := pget s (P.rigStatus slot) == 2 || (pget s (P.rigStatus slot) == 3 && (shellOf s slot).applying)

/-- The minimum of a slot in a class as the admission test counts it: of a commit that stands the larger of its latched and active one (08 R292). -/
def slotMin (s : State) (slot k : Nat) : Nat :=
  match (shellOf s slot).commit with
  | some m => if commitStands s slot then max (activeMin s slot k) (classMin slot m.sc m.rig.cxlMin k) else activeMin s slot k
  | none => activeMin s slot k

/-! ### Derating and scaling (08 R295, R296) -/

/-- The derated capacity of a point of a class: the host port by its generation and width, a CXL port by its rate, width and overload, the
attachments and the ring by the ring clock (08 Table Tiers-8). An untrained port keeps its base capacity (log 37). -/
def classCapacity (s : State) (k : Nat) : Nat :=
  match k with
  | 0 => classBase 0
  | 1 => match s.ringDerate with | some d => d.1 | none => classBase 1
  | 2 => match s.ringDerate with | some d => d.2 | none => classBase 2
  | 3 => if s.hostGen = 0 then classBase 3 else [0, 34, 68, 137, 275, 550, 1080].getD s.hostGen 1080 * s.hostWidth / 16
  | _ =>
    let p := cxlPortOf s (k - 4)
    let c := if !p.up then 540 else (if p.rate < 64 then 270 else 540) / (if p.width < 8 then 2 else 1)
    match p.overload with | some o => min c o | none => c

/-- The scale of a class from its capacity and the minima of every shell (08 R295). -/
def scaleWanted (s : State) (k : Nat) : Nat :=
  let sum := ((liveShells s).map (fun e => activeMin s e.1 k)).sum
  let c := pget s (P.regCapacity k)
  if sum * 10 > 9 * c then 900 * c / sum else 1000

/-- SCALE_PERMILLE of a slot in a class, and the state with it set, which raises the regulation interrupt of the owner (08 R296). -/
def scaleOf (s : State) (slot k : Nat) : Nat := let b := octGet s (P.scalePermille slot); if b = [] then 1000 else field b (2 * k) 2
def scalePut (s : State) (slot k v : Nat) : State :=
  if scaleOf s slot k = v then s
  else raiseCause (octPut s (P.scalePermille slot) ((List.range 12).flatMap (fun i => leBytes 2 (if i = k then v else scaleOf s slot i)))) (pget s (P.ownerFunction slot)) 2

/-- Bring the scale of a class to what is wanted: each shell's fall at once, its rise once the capacity has held for 100 ms (08 R295, R296). -/
def scaleSettle (s : State) (k : Nat) : State :=
  let v := scaleWanted s k
  let held := !tbPast s.tb (tget (fun _ => 0) s.tbCapacity k) 100000000
  let rises := (liveShells s).any (fun e => decide (scaleOf s e.1 k < v))
  (liveShells s).foldl (fun s e => if held ∧ scaleOf s e.1 k < v then s else scalePut s e.1 k v)
    { s with scaleHold := if rises && held then sAdd s.scaleHold k else sDel s.scaleHold k }

/-- The scales of every class after a change of the shells' minima. -/
def scalesSettle (s : State) : State := (List.range 12).foldl scaleSettle s

/-- REG_CAPACITY follows its inputs, and the scales follow it (08 R295); while a commit is being checked it waits for the decision (08 R297). -/
def capacitySettle (s : State) : State :=
  if (List.range 32).any (fun i => pget s (P.rigStatus i) == 1) then s
  else (List.range 12).foldl (fun s k =>
    let c := classCapacity s k
    if c = pget s (P.regCapacity k) then scaleSettle s k
    else scaleSettle { pset s (P.regCapacity k) c with tbCapacity := tset (fun _ => 0) s.tbCapacity k s.tb } k) s

/-- The test of R292 for a class, against the capacity in force when the check began (08 R297). -/
def admits (s : State) (slot : Nat) (m : Commit) (k : Nat) : Bool :=
  let rest := ((liveShells s).filter (fun e => e.1 != slot)).map (fun e => slotMin s e.1 k)
  let new := classMin slot m.sc m.rig.cxlMin k
  let old := if (shellOf s slot).st = .free then 0 else slotMin s slot k
  decide (new ≤ old) || decide ((rest.sum + new) * 10 ≤ 9 * m.caps.getD k 0)

/-- The checks of Table Tiers-9 in table order (08 R293). -/
def admitCode (s : State) (slot : Nat) (m : Commit) : Nat :=
  let mask := m.sc (P.cxlPortMask slot)
  if m.sc (P.weight slot) = 0 ∨ m.rig.cxlWeight.contains 0 then 0x0407
  else if (List.range 8).any (fun p => m.rig.cxlMin.getD p 0 != 0 && !bitOf mask p) then 0x0406
  else if (List.range 12).any (fun k => decide (classMin slot m.sc m.rig.cxlMin k * 10 > 9 * classBase k)) then 0x0409
  else if !admits s slot m 0 then 0x0401
  else if !admits s slot m 1 then 0x0402
  else if !admits s slot m 2 then 0x0403
  else if !admits s slot m 3 then 0x0404
  else if (List.range 8).any (fun p => !admits s slot m (4 + p)) then 0x0405
  else 0

/-- Image slots that hold a pre-empted job, PREEMPT_HELD: one that is being written or restored is held (11 R393, R398). -/
def imagesHeld (sh : Shell) : Nat := sh.preempted.length + (match sh.job with | some j => if j.phase = .saving ∨ j.phase = .restoring then 1 else 0 | none => 0)

/-- Bytes of a pre-emption image of `n` seats (11 R393). -/
def imageBytes (n : Nat) : Nat := 65536 + n * 1773568

/-- Whether an image of a shell fits its pre-emption area, without which no pre-emption is latched (11 R393). -/
def imageFits (s : State) (slot : Nat) : Bool :=
  decide (imageBytes (shellSeats (shellOf s slot)) ≤ pget s (P.preemptLchCount slot) * pget s (P.preemptSlotMib slot) * 2 ^ 20)

/-- The first free image slot of a shell whose area holds an image of its seats (11 R391, R393). -/
def freeImageSlot (s : State) (slot : Nat) : Option Nat :=
  let sh := shellOf s slot
  let used := sh.preempted.map (·.imageSlot) ++ (match sh.job with | some j => if j.phase = .saving ∨ j.phase = .restoring then [j.imageSlot] else [] | none => [])
  if imageFits s slot then (List.range (pget s (P.preemptSlots slot))).find? (fun k => !used.contains k) else none

/-- The area checks (11 R393). -/
def areaCode (s : State) (slot : Nat) (m : Commit) : Nat :=
  let sh := shellOf s slot
  let first := m.sc (P.preemptFirstLch slot)
  let n := m.sc (P.preemptLchCount slot)
  let slots := m.sc (P.preemptSlots slot)
  if (slots ≠ 0 ∧ n = 0) ∨ first + n > m.rig.channels.length ∨ m.sc (P.preemptChOffsetMib slot) + slots * m.sc (P.preemptSlotMib slot) > 1984 then 0x0A30
  else if imagesHeld sh ≠ 0 ∧ ((areaKeys slot).any (fun k => m.sc k != pget s k)
      ∨ m.rig.channels.length < pget s (P.preemptFirstLch slot) + pget s (P.preemptLchCount slot)) then 0x0A31
  else 0

/-- The bases of every other slot in the power tests, the larger of latched and active (15 R510). -/
def otherBases (s : State) (slot : Nat) : List (Nat × Nat) :=
  ((shares s).filter (fun x => x.slot != slot)).map (fun x =>
    let mw := if x.slot < 32 then match (shellOf s x.slot).commit with
        | some m => if commitStands s x.slot then m.sc (P.powerMinW x.slot) else 0
        | none => 0
      else 0
    (x.slot, max x.base (100 * mw)))

/-- Every check of a commit in order, with the seat list it leads to (02 R58, R627). -/
def commitCheck (s : State) (slot : Nat) (m : Commit) (formed : Bool) : Nat :=
  let c := rigCode s slot m formed
  if c ≠ 0 ∨ m.seatCount = 0 then c
  else
    let a := admitCode s slot m
    if a ≠ 0 then a
    else
      let b := areaCode s slot m
      if b ≠ 0 then b else powerAdmit s slot m.seatCount (m.sc (P.powerMinW slot)) (otherBases s slot)

/-! ### Compositions and meters (02 R61, R85, R86) -/

/-- A composition ends and the next begins: the metering record joins the chain and the meters restart (02 R86). -/
def compositionNext (s : State) (slot : Nat) : State :=
  let s1 := wakeAppend s slot (meterWake s slot)
  let s2 := pset (pset (pset s1 (P.meterSeatMs slot) 0) (P.meterChannelMs slot) 0) (P.meterPortMs slot) 0
  shellPut s2 slot { shellOf s2 slot with compStart := s.tb }

/-- An entry of the shell's rigging log (02 R64, R65). -/
def rigLogAdd (s : State) (slot code : Nat) : State :=
  let sh := shellOf s slot
  shellPut s slot { sh with rigLog := sh.rigLog ++ [(s.tb, code)] }

/-! ### Scrubs, releases and the FREE slot (02 R49, R50) -/

/-- Seats leave a shell: their bridges close, and they are scrubbed before any shell can take them (02 R50, Table Shells-8). -/
def seatsToScrub (s : State) (l : List Nat) : State :=
  let s1 := l.foldl (fun s i => islandPut s i { islandOf s i with bridge := .draining, tbDrain := s.tb }) s
  { s1 with scrubSeats := l.foldl sAdd s1.scrubSeats }

/-- A flash parameter write, if fewer than 1,000 have been made in the last hour (13 R433). -/
def flashSpend (s : State) : Option State :=
  let recent := s.flash.writes.filter (fun t => decide (s.tb < t + 3600000000000))
  if recent.length < 1000 then some { s with flash := { s.flash with writes := s.tb :: recent } } else none

/-- A channel is retired, and its retirement recorded in flash while the hour's flash writes allow (08 Table Tiers-4, 13 R433). -/
def chanRetire (s : State) (c : Nat) : State :=
  let s1 := chanPut s c { chanOf s c with st := .retired }
  match flashSpend s1 with
  | some s2 => { s2 with flash := { s2.flash with retired := sAdd s2.flash.retired c } }
  | none => s1

/-- A channel that no shell holds is retired, with its record (08 Table Tiers-4, 17 Table Safety-5). -/
def chanRetireFree (s : State) (c : Nat) : State := fileError (chanRetire s c) false { kind := 0x0D, scope := 0, island := 2328 + c / 12, detail0 := c }

/-- Channels leave a shell (02 R50). -/
def chansToScrub (s : State) (l : List Nat) : State := { s with scrubChans := l.foldl sAdd s.scrubChans }

/-- A slot's leases are no longer in its LEASE_LIST: HELD again, or dropped when LOST (14 Table Ghengo-9). -/
def leasesDrop (s : State) (slot : Nat) (keep : List Nat) : State :=
  let gone := fun (l : LeaseIn) => l.slot == some slot && !keep.any (fun r => l.record / 2 ^ 208 == r / 2 ^ 208)
  { s with borrowed := (s.borrowed.filter (fun l => !(gone l && l.st == 5))).map (fun l => if gone l then { l with st := if l.st = 3 then 2 else l.st, slot := none } else l) }

/-- The leases of a LEASE_LIST are RIGGED in the slot (14 Table Ghengo-9). -/
def leasesTake (s : State) (slot : Nat) (l : List Nat) : State :=
  { s with borrowed := s.borrowed.map (fun x => if l.any (fun r => x.record / 2 ^ 208 == r / 2 ^ 208) ∧ x.st = 2 then { x with st := 3, slot := some slot } else x) }

/-- At a job start leases that were added join too (14 R482). -/
def leasesJoinStart (s : State) (slot : Nat) : State :=
  let sh := shellOf s slot
  if sh.preempted = [] then shellPut s slot { sh with joined := sh.rig.leases, remote := [] }
  else heldClock (shellPut s slot { sh with joined := sh.joined ++ sh.rig.leases.filter (fun r => !sh.joined.contains r) }) slot

/-- The device aborts the sprint slots that a shell can no longer serve (12 Table Sprint-4). -/
def sprintsCut (s : State) (slot seats : Nat) : State :=
  (sprintSlots s (fun p => p.st == .bound && p.shell == slot && decide (p.lseat ≥ seats))).foldl sprintAbort s

/-- The active record of a CXL range, which CXL_RANGE reads as (08 Table Tiers-10). -/
def rangePut (s : State) (i r : Nat) : State :=
  { octPut s (P.cxlRange i) (if r = 0 then [] else leBytes 32 r) with cxlRanges := tset (fun _ => 0) s.cxlRanges i r }

/-- The CXL ranges of a released shell have no owner and are scrubbed; one that is OFFLINE stays so (08 R287, R288). -/
def rangesRelease (s : State) (slot : Nat) : State :=
  (List.range 16).foldl (fun s i =>
    let r := rngOf s i
    if !rngEnable r ∨ rngOwner r ≠ slot then s
    else
      let s1 := rangePut s i (r - slot * 2 ^ 242 + 0x3F * 2 ^ 242)
      if pget s1 (P.cxlRangeState i) = 2 then { pset s1 (P.cxlRangeState i) 1 with cxlScrub := sAdd s1.cxlScrub i } else s1) s

/-- Every weight-key slot that names a shell is erased; one that is loading keeps only its load (18 R590, Table Sec-7). -/
def wkeysErase (s : State) (slot : Nat) : State :=
  { s with ctxs := s.ctxs.map (fun e => (e.1, { e.2 with wkeys := e.2.wkeys.filterMap (fun w =>
      if w.2.shell ≠ slot ∨ w.2.key = [] then some w else if w.2.st = .loading then some (w.1, { st := .loading, blob := w.2.blob }) else none) })) }

/-- Whether a channel has been retired. -/
def chanGone (s : State) (c : Nat) : Bool := (chanOf s c).st == .retired

/-- Release a shell (02 R627): its ports and leases leave, and the scrubs of its seats and channels run, a retired one's aside (02 R49). -/
def releaseBegin (s0 : State) (slot : Nat) : State :=
  let s := rangesRelease (wkeysErase s0 slot) slot
  let sh := shellOf s slot
  let s1 := chansToScrub (seatsToScrub (sprintsCut s slot 0) (sh.rig.seats.filter (fun i => !seatUnavailable s i)))
    ((sh.rig.channels ++ sh.migs.flatMap (fun m => [m.src, m.dst])).filter (fun c => !chanGone s c))
  slicesDrop (leasesDrop (shellPut s1 slot { shellOf s1 slot with st := .releasing, migs := [], commit := none, rig := { sh.rig with ports := [], leases := [] }, joined := [] }) slot []) (fun _ o => o == slot)

/-- The keys of a slot's parameters, all of which return to their defaults when it becomes FREE but for its results (02 R57,
08 Table Tiers-10, 11 R392, 15 R525). -/
def freeKeys (slot : Nat) : List Nat :=
  slotKeys slot ++ [P.debugState slot, P.wakeUnexported slot, P.plCap slot, P.allocW slot, P.powerLevel slot, P.shellEnergyMj slot, P.powerScaled slot, P.preemptCtl slot, P.catchDeadlineMs slot,
    P.freezeCtl slot, P.meterSeatMs slot, P.meterChannelMs slot, P.meterPortMs slot, P.compositionCount slot, P.debugCtl slot, P.debugSeen slot,
    P.dbgAddr slot, P.releaseGate slot]

/-- A slot becomes FREE; the last metering record is written before (02 R86). -/
def slotFree (s : State) (slot : Nat) : State :=
  let s1 := tenantsFree (compositionNext (wkeysErase s slot) slot) slot
  let s2 := shellPut s1 slot {}
  scalesSettle <| powerAllocate { s2 with
    regs := s2.regs.filter (fun e => !(freeKeys slot).contains e.1)
    octs := s2.octs.filter (fun e => e.1 != P.missed slot && e.1 != P.scalePermille slot && e.1 != P.imageSealEk slot)
    staged := s2.staged.filter (fun e => !(slotKeys slot).contains e.1)
    images := s2.images.filter (fun e => e.1 / 16 != slot) }

/-- A releasing shell whose scrubs are complete becomes FREE. -/
def releaseSettle (s : State) (slot : Nat) : State :=
  let sh := shellOf s slot
  if sh.st = .releasing ∧ sh.rig.seats.all (fun i => !s.scrubSeats.contains i) ∧ sh.rig.channels.all (fun c => !s.scrubChans.contains c) then slotFree s slot
  else s

/-! ### Applying a commit (02 R60, R628, R67 to R69) -/

/-- Move seats with every byte of their state: what every source held is taken before any destination is written (02 R67,
R68). -/
def seatMoves (s : State) (l : List (Nat × Nat)) : State :=
  let secs := l.map (fun p => (p.2, seatSectionOf s p.1, seatOf s p.1))
  secs.foldl (fun s e =>
    let s1 := seatLoad s e.1 e.2.1
    let t := e.2.2
    let d := seatOf s1 e.1
    -- the watchdog, the waits and the peg writes held for their data go on as they stood; the caches are not carried (02 R68)
    seatPut s1 e.1 { d with
      mode := t.mode, xfers := t.xfers, nextTicket := t.nextTicket, ticketsRound := t.ticketsRound, groups := t.groups, denied := t.denied
      core := { t.core with dcache := [], icache := [], fetched := [], reserve := none, mpc := d.core.mpc }
      pegHold := t.pegHold, reqSeen := t.reqSeen, cyc := t.cyc + (s.tb - t.tbCyc) * seatMhz s t, tbCyc := s.tb }) s

/-- The migrations that a new channel list asks for: a logical channel whose physical channel changes (02 R72). -/
def newMigrations (old new : List Nat) : List Migration :=
  (List.range (min old.length new.length)).filterMap (fun k =>
    if old.getD k 0 = new.getD k 0 then none else some { lch := k, src := old.getD k 0, dst := new.getD k 0 })

/-- The transaction ends accepted: RIG_RESULT 0, COMPOSITION_COUNT one more, QUIET (02 Table Shells-5). -/
def rigQuiet (s : State) (slot : Nat) : State :=
  let s1 := pset (pset s (P.rigResult slot) 0) (P.rigStatus slot) 0
  stagingReload (shellPut (pinc s1 (P.compositionCount slot)) slot { shellOf s1 slot with commit := none }) slot

/-- The channels of some that a shell needs no more: it lists none of them, and none serves a migration of it (02 R73, R75). -/
def chansFree (sh : Shell) (l : List Nat) : List Nat := l.filter (fun c => !shellHasChannel sh c)

/-- A migration that has copied its last granule ends: the source leaves the shell and is scrubbed (02 R75). -/
def migFinish (s : State) (slot : Nat) : State :=
  let sh := shellOf s slot
  let fin := sh.migs.filter (fun m => m.done)
  let sh1 := { sh with migs := sh.migs.filter (fun m => !m.done) }
  chansToScrub (shellPut s slot sh1) (chansFree sh1 (fin.map (·.src)))

/-- The shell enters RESETTING: draining begins (16 Table Start-6). -/
def resetEnter (s : State) (slot : Nat) : State :=
  shellPut s slot { shellOf s slot with st := .resetting, resetPhase := .draining }

/-- What waits for the migrations of a shell goes on once they have ended: the transaction, a shell reset, a freeze of an idle
shell (02 R60, R76). -/
def migSettle (s : State) (slot : Nat) : State :=
  let s1 := if pget s (P.rigStatus slot) ≥ 3 ∧ !(shellOf s slot).applying then migFinish s slot else s
  let sh := shellOf s1 slot
  let s2 := if sh.migs = [] ∧ pget s1 (P.rigStatus slot) = 4 then rigQuiet s1 slot else s1
  let sh2 := shellOf s2 slot
  if !sh2.migs.all (·.done) then s2
  else if sh2.resetPhase = .waiting then resetEnter s2 slot
  else if sh2.freezeLatch ∧ sh2.job = none ∧ (sh2.st = .idle ∨ sh2.st = .running) then freezeEnter s2 slot
  else s2

/-- A commit takes effect: seats move, join and leave, channels, ports, shares, leases and every scalar change, migrations
start, and the composition that ran ends (02 R60, R61, R628). -/
def rigTake (s : State) (slot : Nat) (m : Commit) : State :=
  let sh := shellOf s slot
  let old := sh.rig.seats
  let new := m.rig.seats
  let fresh := decide (sh.st = .free)
  let pairs := ((List.range (min old.length new.length)).map (fun k => (old.getD k 0, new.getD k 0))).filter (fun p => p.1 != p.2)
  let s1 := seatMoves s pairs
  let s2 := (new.drop old.length).foldl seatScrub s1
  let left := old.filter (fun i => !new.contains i)
  let s3 := seatsToScrub (sprintsCut s2 slot new.length) left
  let migs := if sh.migs = [] then newMigrations sh.rig.channels m.rig.channels else sh.migs
  -- one that the new list or a migration of the shell still uses stays (02 R73)
  let gone := chansFree { sh with rig := m.rig, migs := migs } (sh.rig.channels.drop m.rig.channels.length)
  let s4 := chansToScrub s3 gone
  let s5 := (slotKeys slot).foldl (fun s k => pset s k (m.sc k)) s4
  let s6 := leasesTake (leasesDrop s5 slot m.rig.leases) slot m.rig.leases
  let sh6 := shellOf s6 slot
  let s7 := shellPut s6 slot { sh6 with
    rig := m.rig, migs := migs, applying := false, commit := some m, oldChans := sh.rig.channels.length, lastRigSeq := some m.rigSeq
    st := if fresh then .idle else sh6.st, compStart := if fresh then s.tb else sh6.compStart, epoch := if fresh then s.tb else sh6.epoch
    lostLeases := sh6.lostLeases.filter (fun r => m.rig.leases.contains r)
    leavingSeats := left.foldl sAdd sh6.leavingSeats, leavingChans := gone.foldl sAdd sh6.leavingChans }
  let s8 := if fresh then pset s7 (P.catchDeadlineMs slot) (pget s7 P.defaultCatchDeadlineMs) else compositionNext s7 slot
  let s9 := shellLevel (pset s8 (P.seatCount slot) new.length) slot (pget s8 (P.powerLevel slot))
  let s10 := scalesSettle (powerAllocate (windowsLocal (heldClock (leasesJoin s9 slot) slot) slot))
  if migs.all (fun g => g.done) then rigQuiet (migFinish s10 slot) slot
  else migSettle (pset s10 (P.rigStatus slot) 4) slot

/-- Begin to apply a commit: with seats to move the copies run first, with the windows of the moving seats in HOLD (02 Table Shells-8). -/
def rigApply (s : State) (slot : Nat) (m : Commit) : State :=
  let sh := shellOf s slot
  let s1 := pset s (P.rigStatus slot) 3
  let moving := (List.range (min sh.rig.seats.length m.rig.seats.length)).filter (fun k => sh.rig.seats.getD k 0 != m.rig.seats.getD k 0)
  if moving ≠ [] then windowsHold (shellPut s1 slot { sh with applying := true, commit := some m }) slot moving else rigTake s1 slot m

/-- A commit ends refused after its check: RIG_RESULT takes the code and the staging is reloaded (02 Table Shells-5). -/
def rigRefuse (s : State) (slot code : Nat) : State :=
  let s1 := pset (pset s (P.rigResult slot) code) (P.rigStatus slot) 0
  stagingReload (shellPut s1 slot { shellOf s1 slot with commit := none, applying := false }) slot

/-- A wait of a core at other global addresses. -/
def waitMoved (f : Nat → Nat) (w : CoreWait) : CoreWait :=
  match w with
  | .load rd width signed fp va ga => .load rd width signed fp va (f ga)
  | .fill va ga data => .fill va (f ga) data
  | .amo op rd width src va ga => .amo op rd width src va (f ga)
  | .fetch va ga => .fetch va (f ga)
  | w => w

/-- What a shell's seats hold of spans (from, to, bytes) follows them to where they stand now: cache lines, and accesses that wait for their responses (02 R73). -/
def linesMoves (s : State) (slot : Nat) (spans : List (Nat × Nat × Nat)) : State :=
  let f := fun (ga : Nat) => match spans.find? (fun x => decide (x.1 ≤ ga) && decide (ga < x.1 + x.2.2)) with
    | some x => x.2.1 + (ga - x.1)
    | none => ga
  (shellOf s slot).rig.seats.foldl (fun s i =>
    let t := seatOf s i
    let c := t.core
    if c.dcache = [] ∧ c.icache = [] ∧ c.fetched = [] ∧ c.stores = [] ∧ c.wait = waitMoved f c.wait ∧ t.xfers = [] then s
    else seatPut s i { t with
      core := { c with
        dcache := c.dcache.map (fun l => { l with ga := f l.ga }), icache := c.icache.map (fun l => { l with ga := f l.ga })
        fetched := c.fetched.map f, stores := c.stores.map (fun x => { x with ga := f x.ga }), wait := waitMoved f c.wait }
      xfers := t.xfers.map (fun x => { x with waits := x.waits.map (fun w => (w.1, w.2.1, f w.2.2)) }) }) s

/-- A migration that is rolled back leaves its granules in its source, where the write-through kept them; where another migration of the shell has
copied over the source, they are copied back, each from where it stood (02 R73, R75, log 15). -/
def migBack (s : State) (slot : Nat) : State :=
  let sh := shellOf s slot
  (sh.migs.filter (fun m => sh.migs.any (fun x => x.dst == m.src && x.copied != 0))).foldl (fun t m =>
    memLoad (memZero t (chanBase m.src) (m.copied * 65536)) (chanBase m.src) (memSparse s (chanBase m.dst) (m.copied * 65536))) s

/-- Undo a commit that has not taken effect: its reservations are released, and its migrations are mapped wholly back to their
sources with the destinations scrubbed (02 R71, R75, R628, Table Shells-5). -/
def rigUndo (s : State) (slot code : Nat) : State :=
  let sh := shellOf s slot
  let s1 := linesMoves (migBack s slot) slot (sh.migs.map (fun m => (chanBase m.dst, chanBase m.src, m.copied * 65536)))
  let sh1 := { shellOf s1 slot with migs := [] }
  -- a freeze of a shell without a job waited for the migrations that end here (02 R76)
  migSettle (rigRefuse (chansToScrub (shellPut s1 slot sh1) (chansFree sh1 (sh.migs.map (·.dst)))) slot code) slot

/-- Roll a latched commit back with a code (02 Table Shells-5). -/
def rigRollback (s : State) (slot code : Nat) : State := if pget s (P.rigStatus slot) = 2 then rigUndo s slot code else s

/-! ### Catch points (02 R62 to R66, 11 R394) -/

/-- Fields of a catch descriptor (02 Table Shells-7). -/
def catchPreemptOk (d : Nat) : Bool := bitOf d 59
def catchFormatOk (d : Nat) : Bool := bitsOf d 63 60 == 0 && !bitOf d 56

/-- Whether a descriptor permits a seat change from one list to another (02 R64). -/
def catchPermits (d : Nat) (old new : List Nat) : Bool :=
  let moved := (List.range (min old.length new.length)).any (fun k => old.getD k 0 != new.getD k 0)
  let n := new.length
  (!moved || bitOf d 58)
    && (n == old.length || (bitOf d 57 && decide (bitsOf d 15 0 ≤ n) && decide (n ≤ bitsOf d 31 16)
      && (decide (bitsOf d 47 32 ≤ 1) || n % bitsOf d 47 32 == 0)))

/-- The seats of a shell that run its job's code; one that debug or an EBREAK has halted is in the midst of it. -/
def runningSeats (s : State) (slot : Nat) : List Nat := (shellOf s slot).rig.seats.filter (fun i => (seatOf s i).mode == .run || (seatOf s i).mode == .halted)

/-- Whether every seat of a shell stands at a catch instruction, drained; a seat that was added and has started nothing does
not count, and a seat that has ended can reach none (02 R63, log 26). -/
def allCaught (s : State) (slot : Nat) : Bool :=
  let l := runningSeats s slot
  let sh := shellOf s slot
  let r := (remoteLive sh).map (remoteOf sh)
  (l != [] || r.any (fun x => x.mode == .run)) && l.all (fun i => (seatOf s i).core.wait == .catchHeld) && sh.rig.seats.all (fun i => (seatOf s i).mode != .ended)
    && r.all (fun x => x.mode != .ended && (x.mode != .run || x.caught.isSome))

/-- The descriptors of the seats of a shell at a catch point, leased seats included. -/
def caughtDescs (s : State) (slot : Nat) : List Nat :=
  let sh := shellOf s slot
  (runningSeats s slot).map (fun i => (seatOf s i).core.catchDesc) ++ (remoteLive sh).filterMap (fun x => (remoteOf sh x).caught)

/-- Whether the seats of a shell stand at one catch number with descriptors that differ (02 R65). -/
def catchMismatch (s : State) (slot : Nat) : Bool :=
  match caughtDescs s slot with
  | [] => false
  | d :: t => t.any (· != d)

/-- Whether a seat is eligible for a pre-emption latched at catch number `n` (11 R394). -/
def seatEligible (s : State) (i n : Nat) : Bool :=
  let t := seatOf s i
  match t.mode with
  | .ended => true
  | .idle => true
  | .run => match t.core.wait with
    | .catchHeld => decide (n ≤ t.core.reached) && catchPreemptOk t.core.catchDesc
    | .peg _ _ _ _ _ _ _ => catchPreemptOk t.core.catchDesc
    | .pegAny _ _ _ _ => catchPreemptOk t.core.catchDesc
    | _ => false
  | _ => false

/-- Whether a leased seat is eligible: it has ended, runs nothing, stands at a CATCH, or its lender has reported it inside PEG.WAIT (11 R394, log
51). -/
def remoteEligible (x : RemoteSeat) (n : Nat) : Bool :=
  match x.mode, x.caught with
  | .ended, _ => true
  | .idle, _ => true
  | .run, some d => decide (n ≤ x.reached) && catchPreemptOk d
  | .run, none => x.waits
  | _, _ => false

/-- A seat held at a catch instruction goes on: its CATCH retires, and its array resumes (02 R63, 04 R143, 05 R186). -/
def seatGo (s : State) (i : Nat) : State :=
  let t := seatOf s i
  if t.core.wait = .catchHeld then seatPut s i { t with core := { coreWake s t.core with catchCount := t.core.reached }, arr := arrResume s i t.arr } else s

/-- Every seat of a shell that is held at a catch instruction goes on, leased seats by their lenders. -/
def catchGo (s : State) (slot : Nat) : State :=
  let sh := shellOf s slot
  (remoteLive sh).foldl (fun s x =>
    let r := remoteOf sh x
    if r.caught.isSome then remoteSend s slot x .proceed { r with caught := none } else s) ((runningSeats s slot).foldl seatGo s)

/-- The catch numbers that the latches of a shell stand at, if they stand. -/
def catchAt (sh : Shell) (status : Nat) : List Nat :=
  (match sh.commit with | some m => if status = 2 then m.atCatch.toList else [] | none => []) ++ sh.freezeAt.toList ++ sh.preemptAt.toList

/-- The rigging part of a catch point (02 R64, R65): the commit is refused, applied, or passes to the next number. -/
def catchRig (s : State) (slot n : Nat) : State :=
  let sh := shellOf s slot
  match sh.commit with
  | some m =>
    if pget s (P.rigStatus slot) = 2 ∧ m.atCatch = some n then
      if catchMismatch s slot then rigRollback s slot 0x0119
      else if catchPermits ((caughtDescs s slot).headD 0) sh.rig.seats m.rig.seats then rigApply s slot m
      else rigLogAdd (shellPut s slot { sh with commit := some { m with atCatch := some (n + 1), catchRefused := true } }) slot 0x0118
    else s
  | none => s

/-- The freeze part (02 R65, R76, R77). A freeze waits for the migrations of the shell. -/
def catchFreeze (s : State) (slot n : Nat) : State :=
  let sh := shellOf s slot
  if sh.freezeAt = some n then
    if catchMismatch s slot then rigLogAdd (shellPut s slot { sh with freezeAt := some (n + 1) }) slot 0x0119
    else if catchPreemptOk ((caughtDescs s slot).headD 0) then (if sh.migs.all (·.done) then freezeEnter s slot else s)
    else shellPut s slot { sh with freezeAt := some (n + 1) }
  else s

/-- Begin the save of a pre-emption: the seats drain with their windows LOCAL, and hold while they are copied (11 R395). -/
def preemptBegin (s : State) (slot : Nat) : State :=
  let sh := shellOf s slot
  match sh.job with
  | some j =>
    let s1 := shellPut s slot { sh with
      preemptAt := none
      job := some { j with phase := .saving, runNs := j.runNs + (s.tb - j.tbSpan), tbSpan := s.tb, imageSlot := (freeImageSlot s slot).getD 0 } }
    remoteSave (if sh.rig.seats.all (fun i => seatDrained (seatOf s i)) then windowsHold s1 slot (allSeats sh) else s1) slot
  | none => s

/-- The latch of a pre-emption passes to the next catch number (11 R394). -/
def preemptPass (s : State) (slot n : Nat) : State := shellPut s slot { shellOf s slot with preemptAt := some (n + 1) }

/-- The pre-emption part of a catch point (11 R394, 02 R65). One of PREEMPT_CTL that finds no free image slot passes on too (DESIGN CHOICE, log 28). -/
def catchPreempt (s : State) (slot n : Nat) : State :=
  if (shellOf s slot).preemptAt = some n then
    if catchMismatch s slot then rigLogAdd (preemptPass s slot n) slot 0x0119
    else if catchPreemptOk ((caughtDescs s slot).headD 0) ∧ (freeImageSlot s slot).isSome then preemptBegin s slot
    else preemptPass s slot n
  else s

/-- Whether a shell's seats are held where they stand: frozen, in an image, saving, or a seat change being copied. -/
def heldByDevice (s : State) (slot : Nat) : Bool :=
  let sh := shellOf s slot
  sh.applying || sh.st == .frozen || sh.st == .saved || (match sh.job with | some j => j.phase == .saving | none => false)

/-- What happens when every seat of a shell stands at a catch point: rigging, then freeze, then pre-emption, and otherwise
the seats go on (02 R64 to R66). -/
def catchPoint (s : State) (slot : Nat) : State :=
  let n := maxCatch s slot
  let s1 := catchRig s slot n
  if heldByDevice s1 slot then s1
  else
    let s2 := catchFreeze s1 slot n
    -- a freeze that waits for a migration takes precedence of a pre-emption (02 R76, 11 R391)
    if heldByDevice s2 slot ∨ (shellOf s2 slot).freezeAt = some n then s2
    else
      let s3 := catchPreempt s2 slot n
      if heldByDevice s3 slot then s3
      else if (catchAt (shellOf s3 slot) (pget s3 (P.rigStatus slot))).contains n then s3
      else catchGo s3 slot

/-- Seats that are held at a catch number at which nothing stands any more go on (02 R63). -/
def catchRelease (s : State) (slot : Nat) : State :=
  let sh := shellOf s slot
  let at1 := catchAt sh (pget s (P.rigStatus slot))
  let s2 := ((runningSeats s slot).filter (fun i => !at1.contains (seatOf s i).core.reached)).foldl seatGo s
  (remoteLive sh).foldl (fun s x =>
    let r := remoteOf sh x
    if r.caught.isSome ∧ !at1.contains r.reached then remoteSend s slot x .proceed { r with caught := none } else s) s2

/-- Whether a seat stands at a catch number whose descriptor lacks PREEMPT_OK, where some seat has ended, so that no catch point of all seats comes
(11 R394). -/
def catchDenies (s : State) (slot n : Nat) : Bool :=
  let sh := shellOf s slot
  (sh.rig.seats.any (fun i => (seatOf s i).mode == .ended) || (remoteLive sh).any (fun x => (remoteOf sh x).mode == .ended))
    && ((runningSeats s slot).any (fun i => let c := (seatOf s i).core; c.wait == .catchHeld && c.reached == n && !catchPreemptOk c.catchDesc)
      || (remoteLive sh).any (fun x => let r := remoteOf sh x; r.mode == .run && r.reached == n && (match r.caught with | some d => !catchPreemptOk d | none => false)))

/-- Look whether the latches of a shell can take hold now: at a catch point that every seat has reached, or for a pre-emption
when every seat is eligible at once (02 R63, 11 R394). -/
def preemptTry (s : State) (slot : Nat) : State :=
  if heldByDevice s slot then s
  else if allCaught s slot then catchPoint s slot
  else
    let sh := shellOf s slot
    match sh.preemptAt with
    | some n =>
      if sh.rig.seats.all (fun i => seatEligible s i n) ∧ (remoteLive sh).all (fun x => remoteEligible (remoteOf sh x) n) ∧ sh.job.isSome then
        (if (freeImageSlot s slot).isSome then preemptBegin s slot else catchRelease (preemptPass s slot n) slot)
      else if catchDenies s slot n then catchRelease (preemptPass s slot n) slot
      else s
    | none => s

/-- A latch of a shell has gone: a catch point that every seat has reached is looked at again, and seats that are held at a number at which
nothing stands any more go on (02 R63, Table Shells-5). -/
def latchSettle (s : State) (slot : Nat) : State :=
  let s1 := preemptTry s slot
  if heldByDevice s1 slot then s1 else catchRelease s1 slot

/-- The catch count and CATCH_TAG that a hung record carries: the highest catch number a seat has reached in bits [63:8] and that seat's tag
in [7:0] (11 R402, 17 Table Safety-4; the packing is log 11). -/
def hungCatch (s : State) (slot : Nat) : Nat :=
  let n := maxCatch s slot
  let tag := match (shellOf s slot).rig.seats.find? (fun i => (seatOf s i).core.reached == n) with
    | some i => bitsOf (seatOf s i).core.catchDesc 55 48
    | none => 0
  n % 2 ^ 56 * 256 + tag

/-- The same of a pre-empted job, from the seat sections of its image. -/
def hungCatchImage (s : State) (slot : Nat) (j : Job) : Nat :=
  let secs := (imageOf s (imageKey slot j.imageSlot)).seats
  let n := (secs.map (fun x => field x.record 0x840 8)).foldl max 0
  let tag := match secs.find? (fun x => field x.record 0x840 8 == n) with
    | some x => bitsOf (field x.record 0x808 8) 55 48
    | none => 0
  n % 2 ^ 56 * 256 + tag

/-! ### The job section of an image (11 Table Cmd-9) -/

/-- How a seat was eligible when its job was saved: 1 at a catch instruction, 2 in PEG.WAIT or PEG.WAITANY, 3 ended, 0 in another way (11 R394). -/
def eligibleCase (t : Seat) : Nat :=
  match t.mode, t.core.wait with
  | .ended, _ => 3
  | _, .catchHeld => 1
  | _, .peg _ _ _ _ _ _ _ => 2
  | _, .pegAny _ _ _ _ => 2
  | _, _ => 0

/-- A job's time toward its timeout: on its seats, and the off-seat time in which it could not be restored (11 R399, R402). -/
def jobTimed (s : State) (j : Job) : Nat :=
  j.runNs + j.heldNs + (if j.phase = .running then s.tb - j.tbSpan else 0) + (match j.tbHeld with | some t => s.tb - t | none => 0)

/-- The job section of a shell's job (11 Table Cmd-9). Fields that share a span stand in the order of the table, and the leased-seat list names
each lease by lender, identifier and seats (log 24). -/
def jobSection (s : State) (slot : Nat) : Bytes :=
  let sh := shellOf s slot
  match sh.job with
  | none => List.replicate jobSectionBytes 0
  | some j =>
    let left := j.timeoutMs * 1000000 - jobTimed s j
    let run := j.runNs + (if j.phase = .running then s.tb - j.tbSpan else 0)
    let d := (caughtDescs s slot).headD 0
    let cases := sh.rig.seats.map (fun i => eligibleCase (seatOf s i)) ++ (leasedSeats sh).map (fun x => let r := remoteOf sh x; if r.mode = .ended then 3 else if r.caught.isNone ∧ r.waits then 2 else 1)
    padTo 0x1000 (leBytes 8 (j.ctx + j.fn * 2 ^ 16) ++ leBytes 4 j.seq ++ leBytes 4 (j.entryIdx.getD 0) ++ leBytes 8 j.tbStart ++ leBytes 8 run
      ++ leBytes 8 left ++ leBytes 8 0 ++ leBytes 4 (maxCatch s slot) ++ leBytes 4 (bitsOf d 55 48) ++ padTo 64 j.launch.raw
      ++ leBytes 2 (shellSeats sh) ++ leBytes 2 sh.joined.length
      ++ sh.joined.flatMap (fun r => leBytes 2 (bitsOf r 255 240) ++ leBytes 4 (bitsOf r 239 208) ++ leBytes 2 (leaseSeats r))
      ++ (List.range ((cases.length + 3) / 4)).map (fun i => BitVec.ofNat 8 (pack ((List.range 4).map (fun k => (2 * k, cases.getD (4 * i + k) 0))))))
      ++ padTo 0xF000 (j.launch.pins.flatMap (fun p => leBytes 8 (p.2 + p.1 * 2 ^ 32)))

/-! ### RIG_COMMIT (02 R53, R57, R60) -/

/-- RIG_COMMIT written to a slot, and the code its write is answered with. A repeated RIG_SEQ has no effect (02 R57), but in S1 mode every
commit is refused (02 R82). While a commit of the slot is being checked Table Shells-5 answers any write with 0x0114, in S1 mode too, where R82 names
0x0115 (DESIGN CHOICE, log 7). Leases
that are not RIGGED here are asked for at their lenders (14 R481); `ask` sends one query. -/
def rigCommitWrite (ask : State → Nat → State) (s : State) (slot v : Nat) (byKernel : Bool) : State × Nat :=
  let st := pget s (P.rigStatus slot)
  let sh := shellOf s slot
  if v = 1 then
    if st ≠ 0 ∨ sh.migs ≠ [] then (s, 0x0114)
    else if pget s P.compositionMode ≠ 1 ∧ sh.st ≠ .free ∧ sh.lastRigSeq = some (stagedGet s (P.rigSeq slot)) then (s, 0)
    else
      let m := stagedCommit s slot byKernel
      let s1 := pset (shellPut s slot { sh with commit := some m }) (P.rigStatus slot) 1
      ((m.rig.leases.filter (fun r => !s.borrowed.any (fun l => l.record / 2 ^ 208 == r / 2 ^ 208 && l.st == 3 && l.slot == some slot))).foldl ask s1, 0)
  else if v = 2 then
    if st = 1 then (s, 0x0114) else if pget s P.compositionMode = 1 then (s, 0x0115) else if st = 0 then (s, 0) else if st = 2 then (latchSettle (rigRollback s slot 0x011C) slot, 0) else (s, 0x0114)
  else (s, 0x090B)

/-- The check of a commit is decided (02 R58, R60): refused, applied at once, or latched. -/
def rigDecide (s : State) (slot : Nat) : State :=
  let sh := shellOf s slot
  match sh.commit with
  | none => s
  | some m =>
    let code := commitCheck s slot m false
    capacitySettle <|
    if code ≠ 0 then rigRefuse s slot code
    else if m.seatCount = 0 then
      releaseBegin (rigQuiet (shellPut s slot { sh with lastRigSeq := some m.rigSeq }) slot) slot
    else
      let m1 := { m with rig := { m.rig with seats := resolvedSeats s slot m } }
      if sh.st = .running ∧ m1.rig.seats ≠ sh.rig.seats then
        let m2 := { m1 with atCatch := some (maxCatch s slot + 1), tbLatch := s.tb }
        preemptTry (pset (shellPut s slot { sh with
          commit := some m2, lastRigSeq := some m.rigSeq, migs := newMigrations sh.rig.channels m.rig.channels }) (P.rigStatus slot) 2) slot
      else rigApply (pset s (P.rigResult slot) 0) slot m1

/-- Form one shell from an accepted commit in S1 composition mode, with the checks of Table Shells-6 alone (02 R82, R83): the code, and the
state. The spec counts accepted commits in COMPOSITION_COUNT and does not say whether forming is one: the model counts it, so it reads 1 (DESIGN
CHOICE, log 77). -/
def rigForm (s : State) (slot : Nat) (m : Commit) : State × Nat :=
  let code := rigCode s slot m true
  if code ≠ 0 then (s, code)
  else (rigTake s slot { m with rig := { m.rig with seats := resolvedSeats s slot m } }, 0)

end Sys2Proof.Machine
end

