-- ==== Sys2Proof/Machine/GhOps.lean ====
section
/-! DEFINITION. Ghengo messages and links: which port a message takes, sending, answering, and what a peer's loss or a destroy
ends (14 R469, R478, R479, R488). -/
namespace Sys2Proof.Machine

/-! ### Ports (14 R469, R472) -/

/-- The device's own module ID in force: the active value, applied at a start (14 Table Ghengo-19). -/
def ownModule (s : State) : Nat := pget s P.ghModuleId

/-- The ports that are UP and face a module, in ascending order. -/
def upPorts (s : State) (peer : Nat) : List Nat := (List.range 16).filter (fun p => (portOf s p).st == 3 && (portOf s p).peer == peer)

/-- The port by which the Cox's messages to a module travel: of those that no shell and no lease holds, and with none of these UP, of all that
face it (14 R467, R469). Port 16 is the way round inside, of a module that is its own member (14 "The Boathouse"); 17 is no port. -/
def portToward (s : State) (peer : Nat) : Nat :=
  if peer = ownModule s then 16
  else match agentPort s 0xFFFF peer (freePorts s) with
  | some p => p
  | none => (agentPort s 0xFFFF peer (List.range 16)).getD 17

/-- Training begins; GH_FEC_MODE takes effect (14 R464, Table Ghengo-19). -/
def ghTrain (s : State) (p : Nat) : State :=
  let v := stagedGet s P.ghFecMode
  portPut (pset s P.ghFecMode v) p { portOf s p with st := 1, tbEntered := s.tb, fec := v }

/-- Whether a message can leave toward a module. -/
def reaches (s : State) (peer : Nat) : Bool := peer == ownModule s || upPorts s peer != []

/-- A message leaves by a port of GV5; it takes one unit for its headers and one for a body (14 R466, R478, log 49). -/
def admOut (s : State) (p : Nat) (h : AdmHead) (m : AdmMsg) (response : Bool) (body : List Nat) : State :=
  if p = 16 then emit s (.adm p h m response body)
  else ghOut s { port := p, gv := 5, units := if body = [] then 1 else 2, agent := 0xFFFF, tb := s.tb, out := .adm p h m response body }

/-- The port of a request: the messages of a channel travel over a port of its shell (14 R487). -/
def admPort (s : State) (dst : Nat) (m : AdmMsg) (key : Nat) : Nat :=
  if m = .chOpen ∨ m = .chClose then (agentPort s 0xFFFF dst (shellOf s (gchanOf s (key / 256 % 256)).shell).rig.ports).getD 17 else portToward s dst

/-! ### Requests and responses (14 R478, R479) -/

/-- Send a request message: it takes the next TXN_ID and stands unanswered (14 R479). -/
def admSend (s : State) (dst : Nat) (m : AdmMsg) (epoch key arg : Nat) (body : List Nat) : State :=
  let h : AdmHead := { src := ownModule s, dst := dst, txn := s.ghTxn, epoch := epoch, key := key, arg := arg }
  let s1 := { s with ghTxn := (s.ghTxn + 1) % 2 ^ 32, ghMsgs := s.ghMsgs ++ [{ head := h, msg := m, body := body, tb := s.tb, tbLast := s.tb }] }
  admOut s1 (admPort s dst m key) h m false body

/-- Send a message once with no answer awaited (14 R488, Table Ghengo-16). -/
def admOnce (s : State) (dst : Nat) (m : AdmMsg) (epoch key arg : Nat) (body : List Nat) : State :=
  let h : AdmHead := { src := ownModule s, dst := dst, txn := s.ghTxn, epoch := epoch, key := key, arg := arg }
  let s1 := { s with ghTxn := (s.ghTxn + 1) % 2 ^ 32 }
  admOut s1 (admPort s dst m key) h m false body

/-- Send BH_FREE of a key at an epoch once; its answer changes nothing (14 Table Ghengo-16). -/
def bhFreeSend (s : State) (dst epoch key : Nat) : State :=
  let s1 := admSend s dst .bhFree epoch key 0 []
  { s1 with ghMsgs := s1.ghMsgs.map (fun m => if m.head.txn = s.ghTxn then { m with once := true } else m) }

/-- The response kept for a request, if it is one of the last 256 of its sender (14 R479). -/
def keptFor (s : State) (src txn : Nat) : Option GhKept := s.ghKept.find? (fun k => k.head.src == src && k.head.txn == txn)

/-- Keep a response, newest last, at most 256 of one sender (14 R479). -/
def keep (s : State) (k : GhKept) : State :=
  let mine := s.ghKept.filter (fun x => x.head.src == k.head.src && x.head.txn != k.head.txn)
  let rest := s.ghKept.filter (fun x => x.head.src != k.head.src)
  { s with ghKept := rest ++ keepNewest 256 (mine ++ [k]) }

/-- Answer a request: the response has the same message, is kept, and goes out (14 R478, R479). An interim answer has ARG bit
0 set. -/
def admAnswer (s : State) (q : AdmHead) (m : AdmMsg) (busy : Bool) (epoch code arg : Nat) (body : List Nat) : State :=
  let h : AdmHead := { src := ownModule s, dst := q.src, txn := q.txn, epoch := epoch, code := code, key := q.key, arg := if busy then 1 else arg }
  let s1 := keep s { head := { q with epoch := epoch, code := code, arg := h.arg }, msg := m, busy := busy, body := body, tb := s.tb }
  admOut s1 (portToward s q.src) h m true body

/-- A request whose answer comes later: until then a repeat receives an interim response (14 R479). -/
def admHold (s : State) (q : AdmHead) (m : AdmMsg) (body : List Nat) : State :=
  keep s { head := { q with arg := 1, code := 0 }, msg := m, busy := true, body := body, tb := s.tb }

/-- Perform a received request once: a repeated TXN_ID receives the stored response, interim while the request is still being
carried out (14 R479). -/
def admOnceOnly (s : State) (q : AdmHead) (m : AdmMsg) (f : State → State) : State :=
  match keptFor s q.src q.txn with
  | some k =>
    admOut s (portToward s q.src)
      { src := ownModule s, dst := q.src, txn := q.txn, epoch := k.head.epoch, code := k.head.code, key := q.key, arg := k.head.arg } m true k.body
  | none => f s

/-! ### Lease records (14 Table Ghengo-7) -/

def leaseLender (r : Nat) : Nat := bitsOf r 255 240
def leaseId (r : Nat) : Nat := bitsOf r 239 208
def leaseEpoch (r : Nat) : Nat := bitsOf r 207 176
def leaseKind (r : Nat) : Nat := bitsOf r 175 168
def leaseAperture (r : Nat) : Nat := bitsOf r 167 160
def leaseCount (r : Nat) : Nat := bitsOf r 159 144
def leasePorts (r : Nat) : List Nat := (List.range 16).filter (fun p => bitOf (bitsOf r 143 128) p)
/-- The term of a lease in ms: 0 stands for ADM_LEASE_MS. -/
def leaseTerm (s : State) (r : Nat) : Nat := if bitsOf r 127 96 = 0 then pget s P.admLeaseMs else bitsOf r 127 96

/-- Ask a lease's lender whether its epoch is live (14 R481). -/
def leaseAsk (s : State) (r : Nat) : State :=
  admSend { s with borrowed := s.borrowed.map (fun l => if l.record / 2 ^ 208 = r / 2 ^ 208 then { l with queried := false } else l) }
    (leaseLender r) .epochQuery (leaseEpoch r) (leaseId r) 0 []

/-! ### Leases at the lender (14 R485, Table Ghengo-11) -/

/-- The LEND record of a lease at a time: `cause` 0 while it is live (14 Table Ghengo-12). -/
def lendRecord (l : LeaseOut) (cause tbEnd now : Nat) : Nat :=
  let ms := (now - l.tbGrant) / 1000000
  pack [(368, l.borrower), (336, l.id), (304, l.epoch), (296, l.kind), (288, cause), (272, l.res.length), (256, (l.ports.map (2 ^ ·)).sum),
    (192, l.tbGrant % 2 ^ 64), (128, tbEnd % 2 ^ 64), (64, l.res.length * ms % 2 ^ 64), (0, l.ports.length * ms % 2 ^ 64)]

/-- Whether every resource of an ended lease has been scrubbed. -/
def lentScrubbed (s : State) (l : LeaseOut) : Bool :=
  l.res.all (fun r => if l.kind = 1 then !s.scrubSeats.contains r else !s.scrubChans.contains r)

/-- Ended leases whose scrub is complete: each is logged, and a return answered (14 R485, Table Ghengo-11). -/
def lentSettle (s : State) : State :=
  let done := s.lentEnding.filter (fun e => lentScrubbed s e.1)
  done.foldl (fun s e =>
    let s1 := { s with lendLog := keepNewest 256 (s.lendLog ++ [lendRecord e.1 e.2 s.tb s.tb]) }
    match e.1.returned with
    | some q => admAnswer s1 q .leaseReturn false e.1.epoch 0 0 []
    | none => s1) { s with lentEnding := s.lentEnding.filter (fun e => !lentScrubbed s e.1) }

/-- The shard's epoch advances (14 R476). -/
def epochNext (s : State) : State := { s with shardEpoch := (s.shardEpoch + 1) % 2 ^ 32 }

/-- A granted lease ends, with END_CAUSE `cause`: its seats are stopped, its ports close, its resources are scrubbed and the epoch advances
(14 Table Ghengo-11). -/
def leaseEnd (s : State) (id cause : Nat) (returned : Option AdmHead) : State :=
  match s.lent.find? (fun l => l.id == id) with
  | none => s
  | some l =>
    let s1 := { epochNext s with lent := s.lent.filter (fun x => x.id != id), lentEnding := s.lentEnding ++ [({ l with returned := returned }, cause)] }
    let s2 := if l.kind = 1 then seatsToScrub (l.res.foldl seatHalt s1) l.res else chansToScrub s1 l.res
    powerAllocate s2

/-! ### Apertures (14 R474) -/

/-- Whether an aperture is bound to something other than a Boathouse binding of context `cid`, where `bh` asks for that kind. -/
def apertureTaken (s : State) (a cid : Nat) (bh : Bool) : Bool :=
  s.borrowed.any (fun l => l.st ≥ 2 && l.st ≤ 4 && leaseAperture l.record == a)
    || s.ghMsgs.any (fun m => m.msg == .leaseRequest && leaseAperture (m.body.headD 0) == a)
    || s.gchans.any (fun c => c.2.st != .closed && c.2.aperture == a)
    || (match tfind s.bhApertures a with | some c => !bh || c != cid | none => false)

/-! ### Channels (14 R488) -/

/-- Begin the forced abort of a channel: CH_CLOSE goes out once, and the aperture is unbound at the end (14 R488). -/
def channelAbort (s : State) (n : Nat) : State :=
  let c := gchanOf s n
  if c.st = .closed ∨ c.st = .aborting then s
  else
    let s1 := if c.st = .peerGone then s else admOnce s c.peer .chClose 0 (n * 256 + c.peerChan) 0 []
    gchanPut s1 n { c with st := .aborting }

/-- The channels of a context begin their forced aborts (10 R359, 14 R488). -/
def ghengoAbortOf (s : State) (cid : Nat) : State :=
  ((s.gchans.filter (fun c => c.2.st != .closed && c.2.ctx == cid)).map (·.1)).foldl channelAbort s

/-! ### Boathouse keys at the home (14 R492) -/

/-- A key is freed at its home: BH_FREE goes once to the owner, the window is unbound, and the aperture with its last window
(14 Table Ghengo-16, Table Ghengo-6). -/
def bhDrop (s : State) (key : Nat) : State :=
  match s.bhHomes.find? (fun h => h.key == key) with
  | none => s
  | some h =>
    let s1 := { s with bhHomes := s.bhHomes.filter (fun x => x.key != key) }
    if s1.bhHomes.any (fun x => x.aperture == h.aperture) then s1 else { s1 with bhApertures := tdel s1.bhApertures h.aperture }

/-- A LIVE key begins to be resolved: BH_QUERY goes to the owner and to every member that held or was allocated the key within ADM_LEASE_MS
(14 Table Ghengo-16). -/
def bhResolve (s : State) (key : Nat) : State :=
  match s.bhHomes.find? (fun h => h.key == key && h.st == 2) with
  | none => s
  | some h =>
    let lease := pget s P.admLeaseMs * 1000000
    let others := ((h.seen.filter (fun x => decide (s.tb ≤ x.2 + lease) && x.1 != h.member)).map (·.1)).foldl sAdd []
    let h1 := { h with st := 5, tbState := s.tb, stale := [] }
    (h.member :: others).foldl (fun s m => admSend s m .bhQuery h.epoch key 0 [])
      { s with bhHomes := s.bhHomes.map (fun x => if x.key = key then h1 else x) }

/-- The keys of a context are released by its destroy, whatever their state (10 R359): what was allocated for them is freed. -/
def boathouseAbortOf (s : State) (cid : Nat) : State :=
  (s.bhHomes.filter (fun h => h.ctx == cid)).foldl (fun s h =>
    let s1 := bhFreeSend s h.member h.epoch h.key
    let s2 := if h.st = 3 ∨ h.st = 4 then bhFreeSend s1 h.target h.epoch2 h.key else s1
    bhDrop s2 h.key) s

/-- Whether a channel or a key of a context has not ended. -/
def ctxHasLinks (s : State) (cid : Nat) : Bool :=
  s.gchans.any (fun c => c.2.st != .closed && c.2.ctx == cid) || s.bhHomes.any (fun h => h.ctx == cid)

/-! ### A lease lost (14 R484) -/

/-- A lease is LOST: every job of its shell that runs or is pre-empted ends FAULTED with 0x24 and its context is lost, and the
shell takes no job until a commit removes the lease (14 R484). -/
def leaseLose (s : State) (r : Nat) : State :=
  match s.borrowed.find? (fun l => l.record / 2 ^ 208 == r / 2 ^ 208 && (l.st == 2 || l.st == 3)) with
  | none => s
  | some l =>
    match l.slot with
    | none => { s with borrowed := s.borrowed.filter (fun x => x.record != l.record) }
    | some slot =>
      let s1 := { s with borrowed := s.borrowed.map (fun x => if x.record = l.record then { x with st := 5 } else x) }
      let sh := shellOf s1 slot
      let s2 := shellPut s1 slot { sh with lostLeases := sh.lostLeases ++ [l.record] }
      let s3 := jobFault s2 slot 2 (0x24 * 2 ^ 24)
      sh.preempted.foldl (fun s j =>
        let sh1 := shellOf s slot
        ctxLoss (shellPut s slot { sh1 with preempted := sh1.preempted.map (fun x => if x.ctx = j.ctx then { x with stop := some (x.stop.getD (2, 0x24 * 2 ^ 24)) } else x) })
          j.ctx none false) s3

end Sys2Proof.Machine
end

