-- ==== Sys2Proof/Machine/Queue.lean ====
section
/-! DEFINITION. The command front end: residency, fetch, format checks, start, end and refusal of commands (10 R344, 11 R364 to R383, R390, R403). -/
namespace Sys2Proof.Machine

/-- Bits [hi:lo] of a slot's payload, numbered as in the 512-bit slot (11 R372). -/
def QCmd.pl (q : QCmd) (hi lo : Nat) : Nat := bitsOf q.payload (hi - 256) (lo - 256)

/-! ### Start conditions (11 R379, R380) -/

/-- Whether the command before a command of a context, or the entry before an entry, has retired: of those started, it is none that has not. Before the
first entry of a buffer stands none (11 R380, log 11). -/
def prevRetired (c : Ctx) (q : QCmd) : Bool :=
  match q.entry with
  | none => !c.started.contains ((q.seq + 0xFFFFFFFF) % 2 ^ 32, none)
  | some 0 => true
  | some (e + 1) => !c.started.contains (q.seq, some e)

/-- Whether a ring command stands behind a running CALL that has entries still to read (11 R379, R380). -/
def bufferOpen (c : Ctx) (q : QCmd) : Bool :=
  q.entry.isNone && match c.call with | some k => decide (k.next < k.count) && k.failed.isEmpty | none => false

/-- The front end runs: it stops at a reset entry and when the hardware stops every release (16 R528, 17 R560). -/
def frontUp (s : State) : Bool := !s.start.entry && !s.start.releasesStopped

/-- The start conditions 1 to 4 of 11 R380 for the head of the start order. -/
def headReady (c : Ctx) (q : QCmd) : Bool :=
  c.st == .live && q.phase == .validated && !bufferOpen c q && (!q.afterPrev || prevRetired c q)
    && (!q.waitEn || q.waitMet) && (!hasRecord q.opcode q.entry || ringRoom c)

/-- Whether a context waits for residency: its accepted tail stands beyond its head, its running CALL has entries to read, or the LAUNCH at its head
wants only a resident slot (11 R370, R380, R390). -/
def wantsSlot (c : Ctx) : Bool :=
  c.st == .live && !c.resident && (c.head != c.tail || (match c.call with | some k => decide (k.next < k.count) && k.failed.isEmpty | none => false)
    || match c.cmds with | q :: _ => q.opcode == 1 && headReady c q | [] => false)

/-! ### Residency (10 R344, 11 R390) -/

/-- The number of resident contexts, of all functions or of one. -/
def residents (s : State) : Nat := s.ctxs.countP (fun e => e.2.resident)
def residentsOf (s : State) (fn : Nat) : Nat := s.ctxs.countP (fun e => e.2.resident && e.2.fn == fn)

/-- Whether a context has a job on a shell or a pre-empted job. -/
def ctxOnShell (s : State) (cid : Nat) : Bool :=
  s.shells.any (fun e => (match e.2.job with | some j => j.ctx == cid | none => false) || e.2.preempted.any (fun j => j.ctx == cid))

/-- The resident context whose slot 11 R390 gives up: the least recently started without a job, of a function that stays
at or above its RESIDENT_MIN. -/
def evictable (s : State) (fn : Nat) : Option Nat :=
  let l := s.ctxs.filter (fun e => e.2.resident && !ctxOnShell s e.1
    && (e.2.fn == fn || residentsOf s e.2.fn > pget s (P.residentMin e.2.fn)))
  match (l.map (fun e => e.2.tbLastStart)).min? with
  | none => none
  | some m => (l.find? (fun e => e.2.tbLastStart == m)).map (·.1)

/-- The slots that a function holds or is about to hold, and how many it still lacks of RESIDENT_MIN for contexts of it with work (10 R344). -/
def slotsOf (s : State) (fn : Nat) : Nat := residentsOf s fn + s.swapping.countP (fun c => (ctxOf s c).fn == fn)
def slotsOwed (s : State) (fn : Nat) : Nat :=
  min (pget s (P.residentMin fn) - slotsOf s fn) (s.ctxs.countP (fun e => e.2.fn == fn && wantsSlot e.2 && !s.swapping.contains e.1))

/-- The slots that a function leaves to others, which lack them of their RESIDENT_MIN: none while it lacks its own; and whether a slot is free for a context
of it (10 R344, log 58). -/
def slotsLeft (s : State) (fn : Nat) : Nat :=
  if slotsOf s fn < pget s (P.residentMin fn) then 0 else (((List.range 32).filter (fun f => f != fn)).map (slotsOwed s)).sum
def residentFree (s : State) (fn : Nat) : Bool := decide (residents s + s.swapping.length + slotsLeft s fn < 64)

/-- A swap-in begins: every valid entry is asked for again from the mirror (10 R346). -/
def swapInBegin (s : State) (cid : Nat) : State :=
  let c := ctxOf s cid
  (c.entries.filter (fun e => entKind e.2.entry != 0)).foldl (fun s e => emit s (.hostRead (c.desc.mirrorBase + 32 * e.1) 32))
    { s with swapping := s.swapping ++ [cid] }

/-- A context with work that is not resident begins its swap-in when a slot is free or can be freed (11 R390). A function that has its RESIDENT_MIN
leaves the slots that others lack of theirs (10 R344, log 58). -/
def swapInTry (s : State) (cid : Nat) : State :=
  let c := ctxOf s cid
  if c.resident ∨ c.st ≠ .live ∨ s.swapping.contains cid then s
  else if residentFree s c.fn then swapInBegin s cid
  else if slotsLeft s c.fn ≠ 0 ∨ residents s + s.swapping.length < 64 then s
  else match evictable s c.fn with
  | none => s
  | some v => swapInBegin (ctxPut s v { ctxOf s v with resident := false }) cid

/-! ### Start, end and refusal of commands (11 R375, R380, R403) -/

/-- The contexts that wait for residency begin their swap-in while a slot can be had, in ascending order (11 R390, log 58). -/
def swapWaiting (s : State) : State := ((s.ctxs.filter (fun e => wantsSlot e.2)).map (·.1)).foldl swapInTry s

/-- Take the head command out of the start order: it is started, and its ring slot reserved. -/
def takeHead (s : State) (cid : Nat) (q : QCmd) : State × QCmd :=
  let c := ctxOf s cid
  let rec_ := hasRecord q.opcode q.entry
  let q1 := { q with crSlot := c.crReserved }
  (ctxPut s cid { c with
    cmds := c.cmds.drop 1
    started := c.started ++ [(q.seq, q.entry)]
    crReserved := if rec_ then c.crReserved + 1 else c.crReserved
    acct := headTimes s c.acct q }, q1)

/-- Mark when the head of the start order became the head, and when it became startable (11 R402, R404). -/
def stampHead (s : State) (cid : Nat) : State :=
  let c := ctxOf s cid
  match c.cmds with
  | [] => s
  | q :: t =>
    let q1 := if bufferOpen c q then q else { q with tbHead := some (q.tbHead.getD s.tb) }
    let q2 := if headReady c q1 then { q1 with tbStartable := some (q1.tbStartable.getD s.tb) } else q1
    ctxPut s cid { c with cmds := q2 :: t }

/-- A command retires without a job: its record, its advance, and the loss of the context when a delivery fails. -/
def cmdRetire (s : State) (cid : Nat) (q : QCmd) (status : Nat) : State :=
  let (s1, ok) := retireAny s cid q.entry q.crSlot { seq := q.seq, status := status, tbDone := s.tb }
    (hasRecord q.opcode q.entry) q.advEn q.advIndex q.advValue
  if ok then stampHead s1 cid else ctxLoss s1 cid none false

/-- A privileged command ends: its result word, then its record, OK for code 0 and ABORTED otherwise (11 R375). -/
def privEnd (s : State) (cid : Nat) (q : QCmd) (code : Nat) : State :=
  let c := ctxOf s cid
  let s1 := if s.start.entry || s.start.releasesStopped then s
    else emit s (.hostWrite (bitsOf q.payload 63 0) (leBytes 8 (code + q.seq * 2 ^ 32)))
  let c1 := { c with priv := c.priv.filter (fun p => p.cmd.seq != q.seq) }
  cmdRetire (ctxPut s1 cid c1) cid q (if code = 0 then 0 else 4)

/-- A privileged command has started and waits for its end (11 R375). -/
def privBegin (s : State) (cid : Nat) (q : QCmd) : State :=
  let c := ctxOf s cid
  ctxPut s cid { c with priv := c.priv ++ [{ cmd := q, crSlot := q.crSlot }] }

/-- The waiting privileged command of an opcode with a queue sequence number. -/
def privFind (s : State) (cid op seq : Nat) : Option QCmd :=
  ((ctxOf s cid).priv.find? (fun p => p.cmd.opcode == op && p.cmd.seq == seq)).map (·.cmd)

/-- Start the head command of a context when its opcode is `op` and it may start, and perform its action. -/
def withHead (s : State) (cid op : Nat) (f : State → QCmd → State) : Ans :=
  let c := ctxOf s cid
  match c.cmds with
  | [] => .next s
  | q :: _ =>
    if q.opcode = op ∧ headReady c q ∧ frontUp s then
      let (s1, q1) := takeHead s cid q
      .next (stampHead (f s1 q1) cid)
    else .next s

/-- A format refusal: the command retires ABORTED, FE_REFUSAL records the code and the context is lost (11 R403). -/
def cmdRefuse (s : State) (cid : Nat) (q : QCmd) (code : Nat) : State :=
  ctxLoss (retireUnstarted (ctxPut s cid { ctxOf s cid with feRefusal := some (q.seq, code) }) cid q 4).1 cid none false

/-! ### Fetch and validation (11 R370-R378) -/

/-- Whether an opcode is listed in Table Cmd-4 (11 R373). -/
def opListed (op : Nat) : Bool := op ≤ 2 || (0x10 ≤ op && op ≤ 0x19)

/-- Whether a slot's reserved or unused fields are nonzero (11 R372, R373). -/
def slotReserved (w : Nat) (q : QCmd) : Bool :=
  bitsOf w 51 48 != 0 || bitsOf w 39 32 != 0
    || (!q.waitEn && (q.waitAddr != 0 || q.waitThreshold != 0 || q.ignorePoison))
    || (!q.advEn && (q.advValue != 0 || q.advIndex != 0))
    || (q.opcode == 0 && q.payload != 0)
    || (q.opcode == 1 && (q.pl 460 320 != 0 || q.pl 267 256 != 0))
    || (q.opcode == 2 && q.pl 447 256 != 0)
    || (q.opcode == 0x10 && (q.pl 431 320 != 0 || (q.pl 435 432 != 1 && q.pl 435 432 != 2)
          || (q.pl 435 432 == 2 && q.pl 511 448 != 0) || q.pl 511 448 % 32 != 0 || q.pl 319 256 % 8 != 0))
    || (q.opcode == 0x11 && (q.pl 431 320 != 0 || q.pl 511 448 % 64 != 0 || q.pl 319 256 % 8 != 0))

/-- The fields of a command slot (11 R372, Table Cmd-3). -/
def parseSlot (b : Bytes) (seq : Nat) (entry : Option Nat) : QCmd :=
  let w := leNat (b.take 64)
  let q : QCmd := {
    seq := seq, entry := entry, opcode := bitsOf w 63 56, waitEn := bitOf w 55, advEn := bitOf w 54
    afterPrev := bitOf w 53, ignorePoison := bitOf w 52, advIndex := bitsOf w 47 40, waitAddr := bitsOf w 127 64
    waitThreshold := bitsOf w 191 128, advValue := bitsOf w 255 192, payload := bitsOf w 511 256 }
  { q with reserved := slotReserved w q }

/-- The format checks of a command in table order (11 R403), after its reads and its sequence number; 0 when all pass. Those of a LAUNCH take its
launch block `l` with them. -/
def slotCode (c : Ctx) (q : QCmd) (l : Launch) : Nat :=
  if !opListed q.opcode || q.reserved || bitsOf (leNat l.raw) 174 0 != 0 then 0x0A20
  else if c.desc.level = 1 ∧ (q.opcode > 2 ∨ q.ignorePoison ∨ (q.opcode = 1 ∧ (List.range 32).countP (fun i => bitOf (q.pl 319 288) i) > 1)
    ∨ l.prefillBytes ≠ 0) then 0x0A2B
  else if q.entry.isSome ∧ q.opcode ≥ 0x10 then 0x0A22
  else if q.entry.isSome ∧ q.opcode = 2 then 0x0A23
  else if q.waitThreshold ≥ 2 ^ 63 ∨ q.advValue ≥ 2 ^ 63 then 0x0A27
  else if q.waitEn ∧ q.waitAddr % 8 ≠ 0 then 0x0A26
  else if q.advEn ∧ tget (fun _ => none) c.fences q.advIndex = none then 0x0A2A
  else 0

/-- A slot that passed its checks joins the start order; a LAUNCH waits for its block, any other command is
validated: PROMISED rises and its timeout is fixed (11 R351, R383, R402). -/
def slotAccept (s : State) (cid : Nat) (q : QCmd) : State :=
  let c := ctxOf s cid
  let q1 := if q.opcode = 1 then q else { q with phase := .validated, timeoutMs := pget s P.cmdTimeoutMs, holdUs := pget s P.affinityHoldUs, quantumMs := pget s P.preemptQuantumMs }
  let cmds := if q.entry.isSome then
      (c.cmds.filter (fun x => x.entry.isSome)) ++ [q1] ++ (c.cmds.filter (fun x => x.entry.isNone))
    else c.cmds ++ [q1]
  let s1 := ctxPut s cid { c with cmds := cmds }
  let s2 := if q.opcode ≠ 1 ∧ q.advEn then promise s1 cid q.advIndex q.advValue else s1
  stampHead s2 cid

/-- Check and accept the ring slots of one read, in queue-sequence order; stops at the first refusal or mismatch
(11 R370, R371). `again` marks the second read of a mismatched slot. -/
def fetchSlots (cid : Nat) (again : Bool) : Nat → Bytes → State → State
  | 0, _, s => s
  | n + 1, b, s =>
    let c := ctxOf s cid
    let w := leNat (b.take 64)
    if c.st ≠ .live ∨ c.head = c.tail then s
    else if bitsOf w 31 0 ≠ c.head then
      if again then
        let q := parseSlot b c.head none
        cmdRefuse (ctxPut s cid { c with retrying := false, head := (c.head + 1) % 2 ^ 32 }) cid q 0x0A21
      else pinc (ctxPut s cid { c with retrying := true, tbRetry := s.tb }) P.fetchRetries
    else
      let q := parseSlot b c.head none
      let s1 := ctxPut s cid { c with head := (c.head + 1) % 2 ^ 32, retrying := false, headWbDue := true, tbWb := s.tb }
      -- a LAUNCH is checked once its launch block and pin list have been read, whose failure comes first (11 R403)
      let code := if q.opcode = 1 then 0 else slotCode c q {}
      if code = 0 then fetchSlots cid false n (b.drop 64) (slotAccept s1 cid q) else cmdRefuse s1 cid q code

/-- The outcome of a read that the host answers: data, or UR, CA or no completion within 10 ms. -/
def readBytes (r : ReadResult) : Option Bytes := match r with | .data b => some b | .failed => none | .memory _ => none

/-- HQ_TAIL_WRITE: a new tail is accepted, has no effect, or is ignored and counted (11 R369). -/
def execHqTailWrite (fn : Fn) (w : U64) (s : State) : Ans :=
  let cid := bitsOf w.toNat 31 16
  let tail := bitsOf w.toNat 63 32
  let c := ctxOf s cid
  if !fnUp s fn.val then .next s
  else if c.st ≠ .live ∨ c.fn ≠ fn.val ∨ pget s P.startStage ≠ 5 then .next (pinc s P.hqTailIgnored)
  else if tail = c.tail then .next s
  else if serialCmp c.tail tail ≠ .newer ∨ serialDist c.head tail > 2 ^ c.desc.queueLog2 then .next (pinc s P.hqTailIgnored)
  else .next (swapInTry (ctxPut s cid { c with tail := tail }) cid)

/-- HEAD_WB_MERGE: the merged write-back of HEAD, 1 µs after the last move of HEAD (11 R370). -/
def execHeadWbMerge (ctx : U16) (s : State) : Ans :=
  let c := ctxOf s ctx.toNat
  if c.headWbDue ∧ c.st = .live ∧ frontUp s ∧ tbPast s.tb c.tbWb 1000 then
    .next (emit (ctxPut s ctx.toNat { c with headWbDue := false }) (.hostWrite c.desc.headWb (leBytes 8 c.head)))
  else .next s

/-- CMD_NOP: a NOP at the head of the start order starts and retires, without a record (11 R380). -/
def execCmdNop (ctx : U16) (s : State) : Ans :=
  withHead s ctx.toNat 0x00 (fun s q => cmdRetire s ctx.toNat q 0)

/-- CMD_CALL: a CALL starts; its entries are then read in order (11 R379). -/
def callStart (s : State) (cid : Nat) (q : QCmd) : State :=
  let c := ctxOf s cid
  -- one whose entries have all been read may still run (11 R379, R380)
  ctxPut s cid { c with
    callsOpen := c.callsOpen ++ c.call.toList
    call := some { seq := q.seq, crSlot := q.crSlot, advEn := q.advEn, advIndex := q.advIndex, advValue := q.advValue
                   bufferVa := q.pl 511 461 * 64, count := q.pl 460 448 + 1 } }

def execCmdCall (ctx : U16) (s : State) : Ans :=
  withHead s ctx.toNat 0x02 (fun s q => callStart s ctx.toNat q)

/-- A job of a context that has not ended: its times so far belong to the account (11 R404). -/
def acctJob (s : State) (a : Account) (j : Job) : Account :=
  let span := s.tb - j.tbSpan
  match j.phase with
  | .running => { a with runNs := a.runNs + j.runNs + span, offSeatNs := a.offSeatNs + j.offNs }
  | .holding => { a with runNs := a.runNs + j.runNs, offSeatNs := a.offSeatNs + j.offNs }
  | .saving => { a with runNs := a.runNs + j.runNs, offSeatNs := a.offSeatNs + j.offNs + span }
  | .preempted => { a with runNs := a.runNs + j.runNs, offSeatNs := a.offSeatNs + j.offNs + span }
  | .restoring => { a with runNs := a.runNs + j.runNs, offSeatNs := a.offSeatNs + j.offNs + span }
  | .loading => a

/-- The times of a context up to now: what its retired commands have gathered, its jobs on shells or pre-empted, and the head of its start order
(11 R404). -/
def acctNow (s : State) (cid : Nat) : Account :=
  let c := ctxOf s cid
  let jobs := s.shells.flatMap (fun e => (e.2.job.toList ++ e.2.preempted).filter (fun j => j.ctx == cid))
  let a := jobs.foldl (acctJob s) c.acct
  match c.cmds with
  | [] => a
  | q :: _ => headTimes s a q

/-- The accounting record of a context (11 R404, Table Cmd-12); every field saturates. -/
def accountBytes (s : State) (cid : Nat) : Bytes :=
  let a := acctNow s cid
  let m64 := 2 ^ 64 - 1
  let m32 := 2 ^ 32 - 1
  leBytes 64 (pack [(48, cid), (64, min a.energyMj m32), (96, min a.timeouts m32), (128, min a.retired m32),
    (160, min a.preemptions m32), (192, min a.offSeatNs m64), (256, min a.runNs m64), (320, min a.depWaitNs m64),
    (384, min a.queueWaitNs m64), (448, s.tb % 2 ^ 64)])

/-- CMD_ACCOUNT: writes the accounting record of the named context, or refuses with 0x0A2F (11 R404, R403). -/
def execCmdAccount (ctx : U16) (s : State) : Ans :=
  withHead s ctx.toNat 0x11 (fun s q =>
    let t := q.pl 447 432
    if (ctxOf s t).st = .free ∨ (ctxOf s t).fn ≠ (ctxOf s ctx.toNat).fn then privEnd s ctx.toNat q 0x0A2F
    else privEnd (emit s (.hostWrite (q.pl 511 448) (accountBytes s t))) ctx.toNat q 0)

/-- CMD_LAUNCH: the oldest LAUNCH not yet validated asks for its launch block (11 R376, R377). -/
def execCmdLaunch (ctx : U16) (s : State) : Ans :=
  let cid := ctx.toNat
  let c := ctxOf s cid
  match c.cmds.find? (fun q => q.opcode == 1 && q.phase == .fetched) with
  | some q =>
    if c.st = .live ∧ frontUp s then withAts s cid .read (q.pl 511 461 * 64) 64 <|
      let s1 := ctxPut s cid { c with cmds := c.cmds.map (fun x => if x.seq = q.seq ∧ x.entry = q.entry then { x with phase := .blockRead } else x) }
      match translate s cid (q.pl 511 461 * 64) .read with
      | some ga => .next (askRead s1 (place s 2352 (vaShell s cid (q.pl 511 461 * 64)) ga 64 (some cid)) 64)
      | none => .next (cmdRefuse s cid q 0x0A24)
    else .next s
  | none => .next s

/-- The fields of a launch block (11 R377, Table Cmd-6). -/
def parseLaunch (b : Bytes) (mask : Nat) : Launch :=
  let w := leNat (b.take 64)
  { entry := bitsOf w 511 448, arg := bitsOf w 447 384, pinList := bitsOf w 383 320, prefillSrc := bitsOf w 319 256
    prefillStride := bitsOf w 255 224, prefillBytes := bitsOf w 223 203, prefillOffset := bitsOf w 202 187
    pinCount := bitsOf w 186 175, mask := mask, raw := b.take 64 }

/-- The checks of a LAUNCH at validation, in table order, after its reads (11 R377, R378, R389, R403). -/
def launchCode (s : State) (c : Ctx) (q : QCmd) (l : Launch) : Nat :=
  let code := slotCode c q l
  if code ≠ 0 then code
  else if l.mask = 0 ∨ (List.range 32).any (fun i => bitOf l.mask i && ((shellOf s i).st == .free || pget s (P.ownerFunction i) != c.fn)) then 0x0A25
  else if q.pl 287 268 > 600000 ∨ l.entry % 4 ≠ 0 ∨ l.pinCount > 4095 ∨ l.pinList % 8 ≠ 0
      ∨ (l.prefillBytes ≠ 0 ∧ (l.prefillSrc % 32 ≠ 0 ∨ l.prefillStride % 32 ≠ 0 ∨ l.prefillBytes % 32 ≠ 0
          ∨ 32 * l.prefillOffset + l.prefillBytes > 1572864)) then 0x0A28
  else if l.pins.any (fun p => p.1 ≥ 2 ^ 32 || entKind (tget (fun _ => ({} : RangeSlot)) c.entries p.2).entry == 0
      || entGen (tget (fun _ => ({} : RangeSlot)) c.entries p.2).entry != p.1) then 0x0A29
  else 0

/-- Whether the head command of a context awaits a word that has not met its wait. -/
def awaits (c : Ctx) (q : QCmd) : Bool := c.st == .live && q.waitEn && !q.waitMet && q.phase == .validated && !bufferOpen c q

/-- Whether a word outside GDDR7 and die slices, which is read again every FENCE_POLL_US (11 R381). -/
def polledWord (ga : Nat) : Bool := !(decide (ga < 0x3000000000) || (decide (0x200000000000 ≤ ga) && decide (ga < 0x200100000000)))

/-- FENCE_WAIT_POLL: the word that the head command awaits is to be read: it has come to the head, its word has been advanced, or FENCE_POLL_US has
passed for a word outside GDDR7 and die slices (11 R381). The request of a read outside the module leaves; the value comes with WAIT_READ_DONE. -/
def execFenceWaitPoll (ctx : U16) (s : State) : Ans :=
  let cid := ctx.toNat
  let c := ctxOf s cid
  match c.cmds with
  | [] => .next s
  | q :: t =>
    if !awaits c q ∨ q.polling ∨ !frontUp s then .next s
    else withAts s cid .read q.waitAddr 8 <| match translate s cid q.waitAddr .read with
    | none => .next (cmdRefuse s cid q 0x0A26)
    | some ga =>
      let due := match q.tbPoll with
        | none => true
        | some t => polledWord ga && tbPast s.tb t (pget s P.fencePollUs * 1000)
      if due then
        .next (askRead (ctxPut s cid { c with cmds := { q with tbPoll := some s.tb, polling := true } :: t })
          (place s 2352 (vaShell s cid q.waitAddr) ga 8 (some cid)) 8)
      else .next s

end Sys2Proof.Machine
end

