-- ==== Sys2Proof/Machine/Sched.lean ====
section
/-! DEFINITION. Scheduling: candidates, job start, pre-emption, timeouts and the release of a job (11 R384 to R402, 17 R552). -/
namespace Sys2Proof.Machine

/-! ### Choosing work for a shell (11 R388, R389, R398, R399) -/

/-- A candidate for a shell: a startable LAUNCH at the head of its context's start order, or a pre-empted job. -/
structure Cand where
  prio : Nat
  preempted : Bool
  ctx : Nat
  ready : Nat
  /-- AFFINITY_HOLD_US as it stood when its command was validated (11 R405). -/
  hold : Nat := 0
  deriving DecidableEq, Repr

/-- Whether a shell can take a job: no job on it, no operator hold, no freeze latched or safety latch, and no lease
of it lost (11 R384, R392; 02 R77; 14 R484). -/
def shellCanTake (sh : Shell) : Bool :=
  (sh.st == .idle || sh.st == .running) && sh.job.isNone && !sh.preemptHold && !sh.freezeLatch && !sh.latch && sh.lostLeases.isEmpty
    && !sh.applying

/-- The startable LAUNCH of a context, if its head is one (11 R380). -/
def startableLaunch (c : Ctx) : Option QCmd :=
  match c.cmds with
  | [] => none
  | q :: _ => if q.opcode = 1 ∧ headReady c q ∧ c.resident then some q else none

/-- The candidates of a shell (11 R388). That its function owns the shell has been tested at the validation of the LAUNCH, and is not tested again: a
commit that changed OWNER_FUNCTION since lets it start (DESIGN CHOICE, log 11). -/
def shellCands (s : State) (slot : Nat) : List Cand :=
  let sh := shellOf s slot
  s.ctxs.filterMap (fun e => (startableLaunch e.2).bind (fun q =>
      if bitOf q.launch.mask slot then some { prio := e.2.desc.priority, preempted := false, ctx := e.1, ready := q.tbStartable.getD s.tb, hold := q.holdUs } else none))
    ++ (sh.preempted.filter (fun j => restorable sh j)).map (fun j => { prio := j.priority, preempted := true, ctx := j.ctx, ready := j.tbReady, hold := j.holdUs })

/-- Keep the candidates for which `f` is smallest. -/
def keepMin (f : Cand → Nat) (l : List Cand) : List Cand :=
  match (l.map f).min? with
  | none => []
  | some m => l.filter (fun c => f c == m)

/-- The choice of 11 R388, by its five rules in order. -/
def pickCand (s : State) (slot : Nat) : Option Cand :=
  let sh := shellOf s slot
  let l1 := keepMin (fun c => 7 - c.prio) (shellCands s slot)
  let l2 := keepMin (fun c => if c.preempted then 0 else 1) l1
  let waited := l2.any (fun c => some c.ctx != sh.lastCtx && s.tb - c.ready > c.hold * 1000)
  let l3 := if waited then l2 else keepMin (fun c => if some c.ctx = sh.lastCtx then 0 else 1) l2
  (keepMin (fun c => c.ctx) (keepMin (fun c => c.ready) l3)).head?

/-- How many of the die slices that a launch's pinned SLICE entries target a shell holds (11 R389). -/
def pinnedSlices (s : State) (cid : Nat) (l : Launch) (slot : Nat) : Nat :=
  let c := ctxOf s cid
  let ents := l.pins.map (fun p => (tget (fun _ => ({} : RangeSlot)) c.entries p.2).entry)
  let spans := ents.flatMap entrySlices
  ((spans.foldl sAdd []).filter (fun k => sliceOwner s k == some slot)).length

/-- The IDLE shell of a mask that 11 R389 chooses for a launch of context `cid`; with none IDLE, a shell that holds pre-empted jobs only (11 R399). -/
def pickShell (s : State) (cid : Nat) (l : Launch) : Option Nat :=
  let can := (List.range 32).filter (fun i => bitOf l.mask i && shellCanTake (shellOf s i))
  let idle := can.filter (fun i => (shellOf s i).st == .idle)
  let open_ := if idle = [] then can else idle
  let a := open_.filter (fun i => (shellOf s i).lastCtx == some cid)
  let b := if a = [] then
      let best := (open_.map (fun i => pinnedSlices s cid l i)).foldl max 0
      open_.filter (fun i => pinnedSlices s cid l i == best)
    else a
  b.head?

/-! ### Starting a job (11 R384, R386, R387; 05 R197) -/

/-- The loaded job of a shell starts on every seat once no seat is being scrubbed and every prefill has ended. -/
def jobTryStart (s : State) (slot : Nat) : State :=
  let sh := shellOf s slot
  match sh.job with
  | none => s
  | some j =>
    let n := shellSeats sh
    if j.phase = .loading ∧ sh.scrubbing = [] ∧ !remoteBusy sh ∧ (j.launch.prefillBytes = 0 ∨ (List.range n).all (fun i => j.prefilled.contains i)) then
      let s1 := shellPut s slot { sh with job := some { j with phase := .running, tbStart := s.tb, tbSpan := s.tb } }
      let s1 := latchesRebase s1 slot 0
      (List.range n).foldl (fun s l => seatStart s slot l j.launch.entry j.launch.arg) s1
    else s

/-- The range caches of the dies that hold a shell's seats are warmed with the pinned entries of a launch (09 R316, 11 R387). -/
def warmPins (s : State) (slot cid : Nat) (l : Launch) : State :=
  let dies := ((shellOf s slot).rig.seats.map (· / 144)).foldl sAdd []
  l.pins.foldl (fun s p => dies.foldl (fun s d => rangeIn s d cid p.2) s) s

/-- Put a LAUNCH on a shell: scrub the seats when the last job was of another context or was stopped, then prefill,
then start (11 R386, R387). -/
def launchOn (s : State) (cid : Nat) (q : QCmd) (slot : Nat) : State :=
  let (s1, q1) := takeHead s cid q
  let c := ctxOf s1 cid
  let sh := shellOf s1 slot
  let other := match sh.lastCtx with | some x => x != cid | none => false
  let j : Job := { ctx := cid, fn := c.fn, seq := q.seq, entryIdx := q.entry, crSlot := q1.crSlot, priority := c.desc.priority
                   advEn := q.advEn, advIndex := q.advIndex, advValue := q.advValue, launch := q.launch, timeoutMs := q.timeoutMs
                   holdUs := q.holdUs, quantumMs := q.quantumMs
                   tbStart := s.tb, tbSpan := s.tb, tbReady := q.tbStartable.getD s.tb }
  let s2 := if other then pinc s1 P.contextScrubs else s1
  let s3 := shellPut s2 slot { sh with st := .running, job := some j, dirty := false
                                       scrubbing := if other || sh.dirty then sh.rig.seats else [] }
  let s4 := warmPins (ctxPut s3 cid { c with tbLastStart := s.tb }) slot cid j.launch
  let s5 := windowsLocal (leasesJoinStart (stampHead s4 cid) slot) slot
  -- leased seats are scrubbed by their lenders (14 R483)
  let s6 := if other || sh.dirty then (remoteLive (shellOf s5 slot)).foldl (fun s x => remoteSend s slot x .scrub { pending := true }) s5 else s5
  jobTryStart s6 slot

/-- A shell that can take a job takes the one 11 R388 chooses: a LAUNCH is started, a pre-empted job begins its
restore. -/
def shellSelect (s : State) (slot : Nat) : State :=
  let sh := shellOf s slot
  if s.start.hold || !frontUp s || !shellCanTake sh then s
  else match pickCand s slot with
  | none => s
  | some k =>
    if k.preempted then
      match sh.preempted.find? (fun j => j.ctx == k.ctx && restorable sh j) with
      | none => s
      | some j =>
        let other := match sh.lastCtx with | some x => x != j.ctx | none => false
        remoteRestore (windowsHold (shellPut (if other then pinc s P.contextScrubs else s) slot { sh with
          st := .running, job := some { j with phase := .restoring, tbSpan := j.tbSpan }
          -- the restore leaves nothing of what a stopped job left in the seats (11 R386)
          dirty := false
          preempted := sh.preempted.filter (fun x => x.imageSlot != j.imageSlot) }) slot (allSeats sh)) slot j.imageSlot j.ended
    else
      let c := ctxOf s k.ctx
      match startableLaunch c with
      | some q => if pickShell s k.ctx q.launch = some slot then launchOn s k.ctx q slot else s
      | none => s

/-- The shells of a set each take the job that they can take (11 R388, R399). -/
def selectAll (s : State) (slots : List Nat) : State := slots.foldl shellSelect s

/-- The shells that hold a pre-empted job: they may take it up again (11 R399). -/
def shellsHolding (s : State) : List Nat := (s.shells.filter (fun e => e.2.preempted != [])).map (·.1)

/-- The job that is to follow the one on a shell has been chosen: the range caches are warmed for it while the present one runs (11 R387). Its scrubs
and prefills come once that has left, since the claims of the present job are read before them (18 R596, log 11). -/
def nextWarm (s : State) (slot : Nat) : State :=
  if (shellOf s slot).job.isNone then s
  else match pickCand s slot with
  | none => s
  | some k =>
    if k.preempted then s
    else match startableLaunch (ctxOf s k.ctx) with
    | some q => warmPins s slot k.ctx q.launch
    | none => s

/-- COMMAND_START: the head of a context's start order starts when every start condition holds; a LAUNCH goes to the
shell 11 R389 chooses, when 11 R388 prefers it there to every other candidate. Contexts that wait for residency, and shells that hold pre-empted
jobs, try again first (11 R390, R399). -/
def execCommandStart (ctx : U16) (s : State) : Ans :=
  let cid := ctx.toNat
  let s0 := let s1 := swapWaiting s; stampHead (selectAll s1 (shellsHolding s1)) cid
  let c := ctxOf s0 cid
  match c.cmds with
  | [] => .next s0
  | q :: _ =>
    if !frontUp s0 then .next s0
    else if q.opcode = 1 then
      match startableLaunch c with
      | none => .next s0
      | some l => match pickShell s0 cid l.launch with
        | none => .next (((List.range 32).filter (fun i => bitOf l.launch.mask i)).foldl nextWarm s0)
        | some slot => .next (shellSelect s0 slot)
    else if q.opcode = 0 then withHead s0 cid 0 (fun s q => cmdRetire s cid q 0)
    else if q.opcode = 2 then withHead s0 cid 2 (fun s q => callStart s cid q)
    else .next s0

/-! ### Pre-emption (11 R391-R400) -/

/-- Latch a pre-emption at the catch number after the highest any seat has reached (11 R391, R394). -/
def preemptLatch (s : State) (slot : Nat) : State :=
  let sh := shellOf s slot
  shellPut s slot { sh with preemptAt := some (maxCatch s slot + 1) }

/-- PREEMPT_QUANTUM_EXPIRY: a job has run its quantum while a LAUNCH of higher priority is startable for its shell; it
is latched when a free image slot exists, and counted otherwise (11 R391). -/
def execPreemptQuantumExpiry (slot : Slot) (s : State) : Ans :=
  let sh := shellOf s slot.val
  match sh.job with
  | none => .next s
  | some j =>
    let higher := (shellCands s slot.val).any (fun k => !k.preempted && k.prio > j.priority)
    if j.phase = .running ∧ tbPast (j.runNs + (s.tb - j.tbSpan)) 0 (j.quantumMs * 1000000) ∧ higher ∧ sh.preemptAt = none ∧ !sh.freezeLatch then
      match freeImageSlot s slot.val with
      | some _ => .next (preemptTry (preemptLatch s slot.val) slot.val)
      | none => .next (pinc s P.preemptNoArea)
    else .next s

/-- A write of PREEMPT_CTL and its code (11 Table Cmd-8): 1 holds the shell and latches the running job for pre-emption where its image fits the area, a free image slot or
none (11 R391, R393); 2 lifts the
hold, and the shell may take a job. A write to a FREE, RESETTING or RELEASING slot, or to one whose commit is being checked, is refused and changes
nothing. -/
def preemptCtlWrite (s : State) (slot v : Nat) : State × Nat :=
  let sh := shellOf s slot
  if pget s (P.rigStatus slot) = 1 then (s, 0x0114)
  else if sh.st = .free then (s, 0x0101)
  else if sh.st = .resetting ∨ sh.st = .releasing then (s, 0x0102)
  else if v = 1 then
    let s1 := pset (shellPut s slot { sh with preemptHold := true }) (P.preemptCtl slot) 1
    match sh.job with
    | some j =>
      if j.phase = .running ∧ sh.preemptAt = none ∧ imageFits s slot ∧ !sh.freezeLatch then (preemptTry (preemptLatch s1 slot) slot, 0)
      else (s1, 0)
    | none => (s1, 0)
  else (shellSelect (pset (shellPut s slot { sh with preemptHold := false }) (P.preemptCtl slot) 2) slot, 0)

/-- PREEMPT_CTL := 1. -/
def execPreemptCtlPreempt (slot : Slot) (s : State) : Ans := if fullUp s then .next (preemptCtlWrite s slot.val 1).1 else .next s

/-- PREEMPT_CTL := 2. -/
def execPreemptCtlLift (slot : Slot) (s : State) : Ans := if fullUp s then .next (preemptCtlWrite s slot.val 2).1 else .next s

/-- PREEMPT_SAVE_DONE: every seat has drained and written its caches back, and the save ends: seat sections and the job section are in the image, the bindings steer to it
and the shell is ready for its next job (11 R395-R397). -/
def execPreemptSaveDone (slot : Slot) (s : State) : Ans :=
  let sh := shellOf s slot.val
  match sh.job with
  | none => .next s
  | some j =>
    if j.phase ≠ .saving ∨ remoteBusy sh ∨ !sh.rig.seats.all (fun i => seatDrained (seatOf s i)) then .next s
    else
      let k := j.imageSlot
      let s0 := sh.rig.seats.foldl seatFlush s
      let s1 := imageSave s0 slot.val k (jobSection s0 slot.val)
      let c := ctxOf s1 j.ctx
      let s2 := pinc (ctxPut s1 j.ctx { c with acct := { c.acct with preemptions := c.acct.preemptions + 1 } }) P.preemptions
      let j1 := { j with phase := .preempted, imageSeats := shellSeats sh, tbReady := s.tb, heldNs := j.heldNs, tbHeld := none }
      let sh2 := shellOf s2 slot.val
      -- a freeze that was latched meanwhile finds no job held, and applies at once (02 R77)
      let s3 := jobLeave (shellPut s2 slot.val { sh2 with job := none, preempted := sh2.preempted ++ [j1], lastCtx := some j.ctx, preemptAt := none }) slot.val
      .next (shellSelect s3 slot.val)

/-- PREEMPT_RESTORE_DONE: the restore ends, bindings steer back, and every seat resumes at its saved pc; the image slot
is free (11 R398). -/
def execPreemptRestoreDone (slot : Slot) (s : State) : Ans :=
  let sh := shellOf s slot.val
  match sh.job with
  | none => .next s
  | some j =>
    if j.phase ≠ .restoring ∨ remoteBusy sh then .next s
    else
      let s0 := latchesRebase s slot.val (maxCatch s slot.val)
      let s1 := windowsLocal (imageRestore s0 slot.val j.imageSlot j.ended) slot.val
      .next (shellPut s1 slot.val { shellOf s1 slot.val with
        job := some { j with phase := .running, offNs := j.offNs + (s.tb - j.tbSpan), tbSpan := s.tb } })

/-! ### Command timeout (11 R402) -/

/-- An expiry counts in CMD_TIMEOUTS and in the context's account (11 R402, R404). -/
def timeoutCount (s : State) (cid : Nat) : State :=
  let c := ctxOf s cid
  pinc (ctxPut s cid { c with acct := { c.acct with timeouts := c.acct.timeouts + 1 } }) P.cmdTimeouts

/-- The logical seats of a shell that are found in waits: in PEG.WAIT or PEG.WAITANY (11 R402). -/
def waitingSeats (s : State) (slot : Nat) : List Nat :=
  let sh := shellOf s slot
  (List.range (shellSeats sh)).filter (fun l => match sh.rig.seats[l]? with
    | some i => (match (seatOf s i).core.wait with | .peg _ _ _ _ _ _ _ => true | .pegAny _ _ _ _ => true | _ => false)
    | none => match (leasedSeats sh)[l - sh.rig.seats.length]? with | some x => (remoteOf sh x).waits | none => false)

/-- CMD_TIMEOUT_EXPIRY: the timeout of the job on a shell, or of the context's head command with an unmet wait,
expires: it retires TIMEOUT, its context is lost, a hung record is filed and the expiry counted. A job has no wait address, and Table Safety-4 names
nothing else that DETAIL0 would hold: there it is a free value; the seats found in waits stand beside the record (log 11). -/
def execCmdTimeoutExpiry (ctx : U16) (onShell : Option Slot) (s : State) : Ans :=
  let cid := ctx.toNat
  let c := ctxOf s cid
  if c.st ≠ .live ∨ !frontUp s then .next s
  else match onShell with
  | some slot =>
    let sh := shellOf s slot.val
    let mine := match sh.job with | some j => j.ctx == cid | none => false
    let j? := if mine then sh.job else sh.preempted.find? (fun j => j.ctx == cid && !restorable sh j)
    match j? with
    | none => .next s
    | some j =>
      if !tbPast (jobTimed s j) 0 (j.timeoutMs * 1000000) then .next s
      else
      let e : ErrRec := { kind := 0x0A, mechanism := 13, scope := 3, shell := slot.val, fn := c.fn, ctx := some cid, qseq := j.seq
                          detail0 := (Config.freeWord s.freeCtr).toNat
                          detail1 := if mine then hungCatch s slot.val else hungCatchImage s slot.val j, code := 3
                          waits := if mine then waitingSeats s slot.val else [] }
      let s1 := fileError (timeoutCount (freeNext s) cid) false e
      let s2 := if mine then s1 else
        shellPut s1 slot.val { shellOf s1 slot.val with
          preempted := (shellOf s1 slot.val).preempted.map (fun x => if x.imageSlot = j.imageSlot then { x with stop := some (x.stop.getD (3, 0)) } else x) }
      let s3 := ctxLoss s2 cid (if mine then some (slot.val, 3, 0) else none) false
      .next (selectAll s3 (shellsHolding s3))
  | none =>
    match c.cmds with
    | [] => .next s
    | q :: _ =>
      if q.waitEn ∧ !q.waitMet ∧ q.phase = .validated ∧ !bufferOpen c q ∧ tbPast s.tb (q.tbHead.getD s.tb) (q.timeoutMs * 1000000) then
        let e : ErrRec := { kind := 0x0A, mechanism := 13, scope := 3, fn := c.fn, ctx := some cid, qseq := q.seq
                            detail0 := q.waitAddr, detail1 := q.waitThreshold, code := 3 }
        let s1 := fileError (timeoutCount s cid) false e
        .next (ctxLoss (retireUnstarted s1 cid q 3).1 cid none false)
      else .next s

/-! ### Job end (11 R385, 17 R552) -/

/-- RELEASE_HOLD_EXPIRY: 2 µs after the last SEAT.END the record, the advances and then the message leave, with the
status decided now; the shell is then free for its next job (17 R552, 10 R354, 11 R387). -/
def execReleaseHoldExpiry (slot : Slot) (s : State) : Ans :=
  let sh := shellOf s slot.val
  match sh.job with
  | none => .next s
  | some j =>
    if j.phase ≠ .holding ∨ !tbPast s.tb j.tbEnd 2000 ∨ !wakeRoom s slot.val ∨ !frontUp s then .next s
    else
      let s0 := jobLeave (shellPut s slot.val { sh with job := none, lastCtx := some j.ctx, preemptAt := none }) slot.val
      let s1 := stampHead (jobDeliver s0 slot.val j) j.ctx
      .next (swapWaiting (shellSelect s1 slot.val))

end Sys2Proof.Machine
end

