-- ==== Sys2Proof/Machine/Sprint.lean ====
section
/-! DEFINITION. The sprint path (12). -/
namespace Sys2Proof.Machine

/-! ### Delivery (12 R412, R413) -/

/-- Whether a job of context `cid` runs on the shell, or stands pre-empted with its image taking writes (12 R412, R413). -/
def sprintRunning (s : State) (slot cid : Nat) : Bool :=
  let sh := shellOf s slot
  (match sh.job with
    | some j => j.ctx == cid && (j.phase == .running || j.phase == .saving || j.phase == .restoring)
    | none => false) || sh.preempted.any (fun j => j.ctx == cid)

/-- The entry header of Table Sprint-5 as bytes. -/
def sprintHeader (s : State) (n : Nat) (p : Sprint) (seq : Nat) : Bytes :=
  leBytes 64 (pack [(403, p.recordBytes / 64 - 1), (406, n), (416, seq % 2 ^ 32), (448, s.tb % 2 ^ 64)])

/-- A committed record takes the present RECORD_SEQ and is delivered, or discarded and answered (12 R412, R413). -/
def sprintCommit (s : State) (n : Nat) : State :=
  let p := sprintOf s n
  let seq := p.recordSeq
  let s1 := sprintPut s n { p with recordSeq := (seq + 1) % 2 ^ 32 }
  if !sprintRunning s p.shell p.ctx then sprintAnswerZero s1 n seq 0x81
  else if p.outstanding.length ≥ p.depth then sprintAnswerZero (pinc s1 P.sprOverruns) n seq 0x80
  else
    let off := 32 * p.areaOffset + (p.delivered % p.depth) * (64 + p.recordBytes)
    let body := (List.range p.recordBytes).map (fun i => tget (fun _ => 0) p.staging i)
    let s2 := lseatWrite s1 p.shell (some p.ctx) .ingress p.lseat off (sprintHeader s n p seq ++ body)
    let s3 := lseatPegSet s2 p.shell (some p.ctx) p.lseat p.arrivalPeg true
    let p3 := sprintOf s3 n
    sprintPut s3 n { p3 with delivered := p.delivered + 1, outstanding := p3.outstanding ++ [seq] }

/-! ### The commands -/

/-- SPRINT_WINDOW_WRITE: one Memory Write TLP through a function's BAR2 (12 R406-R408). -/
def execSprintWindowWrite (fn : Fn) (offset : BitVec 22) (data : Bytes) (s : State) : Ans :=
  let n := offset.toNat / 0x1000
  let o := offset.toNat % 0x1000
  let p := sprintOf s n
  if n < 1024 ∧ p.st = .bound ∧ p.fn = fn.val ∧ fnUp s fn.val then
    let st := ((List.range data.length).filter (fun i => o + i < p.recordBytes)).foldl
      (fun t i => tset (fun _ => 0) t (o + i) (data.getD i 0)) p.staging
    let s1 := sprintPut s n { p with staging := st }
    let s2 := if o + data.length > p.recordBytes then pinc s1 P.sprWritesDiscarded else s1
    if o ≤ p.recordBytes - 1 ∧ p.recordBytes - 1 < o + data.length then .next (sprintCommit s2 n) else .next s2
  else if fnUp s fn.val then .next (pinc s P.sprWritesDiscarded)
  else .next s

/-- EGRESS_READ_DONE: the snapshot of the result area ends, EGRESS_PEG is cleared and the oldest outstanding record
is answered, or held under RELEASE_GATE (12 R414, 17 R553). A read toward a seat in HOLD is answered after the copy (02 R69). One that is refused
is no answer (01 R39): the record stays outstanding until its job ends or its slot is aborted (log 73). The egress stops with every release (17 R560). -/
def execEgressReadDone (slot : Fin 1024) (s : State) : Ans :=
  let n := slot.val
  let p := sprintOf s n
  if p.st = .bound ∧ p.reading ∧ (!p.wake ∨ wakeRoom s p.shell) ∧ frontUp s then
    match p.outstanding with
    | [] => .next (sprintPut s n { p with reading := false })
    | q :: t =>
      let w := ctxWindows s p.shell p.ctx
      match lseatRead s p.shell w p.lseat (32 * p.resultOffset) (p.resultBytes - 8) with
      | none => .next s
      | some (st, body) =>
      if st ≠ stOk then .next (sprintPut s n { p with reading := false })
      else
      let s1 := lseatPegPut s p.shell w p.lseat p.egressPeg false
      let sus := (shellOf s p.shell).latch
      let p1 := { sprintOf s1 n with reading := false, outstanding := t }
      if pget s (P.releaseGate p.shell) = 1 then
        .next (sprintPut s1 n { p1 with held := p1.held ++ [{ seq := q, body := body, recBytes := sprintBytes s p q, claim := claimIn s p.shell, suspect := sus, tb := s.tb }] })
      else .next (sprintAnswer (sprintPut s1 n p1) n q (if sus then 1 else 0) body (sprintBytes s p q) (claimIn s p.shell))
  else .next s

/-- SPRINT_GATE_HOLD_EXPIRY: the 2,000 ns hold of the oldest held answer ends and it leaves (17 R553). -/
def execSprintGateHoldExpiry (slot : Fin 1024) (s : State) : Ans :=
  let p := sprintOf s slot.val
  match p.held with
  | [] => .next s
  | h :: t =>
    if !tbPast s.tb h.tb 2000 ∨ (p.wake ∧ !wakeRoom s p.shell) ∨ !frontUp s then .next s
    else .next (sprintAnswer (sprintPut s slot.val { p with held := t }) slot.val h.seq
      (if h.suspect || (shellOf s p.shell).latch then 1 else 0) h.body h.recBytes h.claim)

/-- A forced abort has ended: what was outstanding is answered ABORTED and the slot is UNBOUND (12 R411, R420). -/
def sprintEnded (s : State) (n : Nat) : State :=
  let s1 := sprintAnswerAll s n 0x04
  sprintPut s1 n { (sprintOf s1 n) with st := .unbound, unbindCmd := none }

/-- SPRINT_ABORT_END: once no answer is held for the release gate, every record still outstanding is answered ABORTED, the unbind's
result word is written if its command still waits, and the slot is UNBOUND (12 R411, R420). -/
def execSprintAbortEnd (slot : Fin 1024) (s : State) : Ans :=
  let n := slot.val
  let p := sprintOf s n
  if p.st = .aborting ∧ p.held = [] then
    let s2 := sprintEnded s n
    match p.unbindCmd with
    | some q => .next (if privFind s2 p.ctx 0x13 q.seq = some q then privEnd s2 p.ctx q 0 else s2)
    | none => .next s2
  else .next s
/-- The checks of SPRINT_BIND in table order (12 R410, Table Sprint-3); 0 when all pass. -/
def sprintBindCode (s : State) (cid : Nat) (q : QCmd) : Nat :=
  let c := ctxOf s cid
  let n := q.pl 461 452
  let sh := shellOf s (q.pl 451 447)
  let rb := 64 * (q.pl 410 408 + 1)
  let depth := q.pl 414 411 + 1
  let a0 := 32 * q.pl 430 415
  let a1 := a0 + depth * (64 + rb)
  let r0 := 32 * q.pl 395 380
  let r1 := r0 + 32 * 2 ^ q.pl 463 462
  let ring := q.pl 511 468 * 4096
  let ringBytes := 2 ^ (q.pl 467 464 + 4) * (32 * 2 ^ q.pl 463 462)
  if q.pl 378 320 ≠ 0 ∨ q.pl 467 464 > 12 ∨ q.pl 319 256 % 8 ≠ 0 then 0x0801
  else if (sprintOf s n).st = .aborting then 0x0809
  else if (sprintOf s n).st = .bound then 0x0803
  else if (sprintSlots s (fun p => p.st != .unbound && p.fn == c.fn)).length ≥ pget s (P.sprintSlotQuota c.fn) then 0x0802
  else if sh.st = .free ∨ pget s (P.ownerFunction (q.pl 451 447)) ≠ c.fn ∨ q.pl 446 431 ≥ sh.rig.seats.length then 0x0804
  else if q.pl 407 402 ≥ 48 ∨ q.pl 401 396 ≥ 48 ∨ q.pl 407 402 = q.pl 401 396 then 0x0805
  else if a1 > 1572864 ∨ r1 > 1572864 ∨ (a0 < r1 ∧ r0 < a1) then 0x0806
  else if ring % (max ringBytes 4096) ≠ 0 ∨ ring + ringBytes > 2 ^ 56 then 0x0807
  else 0

/-- Install a SPRINT_BIND: the staging record, the counts and RECORD_SEQ start at zero (12 R411). -/
def sprintInstall (s : State) (cid : Nat) (q : QCmd) : State :=
  sprintPut s (q.pl 461 452) {
    st := .bound, ctx := cid, fn := (ctxOf s cid).fn, ringBase := q.pl 511 468 * 4096
    ringLog2 := q.pl 467 464 + 4, resultBytes := 32 * 2 ^ q.pl 463 462, shell := q.pl 451 447, lseat := q.pl 446 431
    areaOffset := q.pl 430 415, depth := q.pl 414 411 + 1, recordBytes := 64 * (q.pl 410 408 + 1)
    arrivalPeg := q.pl 407 402, egressPeg := q.pl 401 396, resultOffset := q.pl 395 380, wake := q.pl 379 379 = 1 }

/-- The checks of SPRINT_UNBIND in table order (12 R410). -/
def sprintUnbindCode (s : State) (cid : Nat) (q : QCmd) : Nat :=
  let p := sprintOf s (q.pl 461 452)
  if q.payload ≠ pack [(452 - 256, q.pl 461 452), (0, q.pl 319 256)] ∨ q.pl 319 256 % 8 ≠ 0 then 0x0801
  else if p.st = .unbound ∨ p.ctx ≠ cid then 0x0808
  else if p.st = .aborting then 0x0809
  else 0

/-- CMD_SPRINT_BIND: the head command of the context, a SPRINT_BIND whose start conditions hold, binds its slot and
retires (12 R409-R411). -/
def execCmdSprintBind (ctx : U16) (s : State) : Ans :=
  withHead s ctx.toNat 0x12 (fun s q =>
    let code := sprintBindCode s ctx.toNat q
    privEnd (if code = 0 then sprintInstall s ctx.toNat q else s) ctx.toNat q code)

/-- CMD_SPRINT_UNBIND: begins the forced abort; the result word and record follow the abort's end (12 R411, R420). -/
def execCmdSprintUnbind (ctx : U16) (s : State) : Ans :=
  withHead s ctx.toNat 0x13 (fun s q =>
    let code := sprintUnbindCode s ctx.toNat q
    if code = 0 then
      let n := q.pl 461 452
      let s1 := sprintAbort (privBegin s ctx.toNat q) n
      sprintPut s1 n { sprintOf s1 n with unbindCmd := some q }
    else privEnd s ctx.toNat q code)

end Sys2Proof.Machine
end

