-- ==== Sys2Proof/Machine/HostObj.lean ====
section
/-! DEFINITION. Host objects: CTX_CMD, destroy, function resets, BAR registers and deliveries (10, 13 R451). -/
namespace Sys2Proof.Machine

/-! ### What a destroy releases (10 R359, 09 R305, 11 R366) -/

/-- The slice that holds an address of the die-slice region, if it is in one. -/
def sliceAt (a : Nat) : Option Nat :=
  if 0x200000000000 ≤ a ∧ a < 0x200100000000 ∧ (a - 0x200000000000) % 0x10000000 < 0xC000000 then
    some ((a - 0x200000000000) / 0x10000000 * 48 + (a - 0x200000000000) % 0x10000000 / 0x400000)
  else none

/-- Whether a span lies wholly inside one slice that nothing holds (11 R366). -/
def sliceSpanFree (s : State) (a n : Nat) : Bool :=
  match sliceAt a with
  | some k => sliceAt (a + n - 1) == some k && (sliceOwner s k).isNone
  | none => false

/-- A slice holds a context's queue, for no shell (11 R367). -/
def sliceHoldQueue (s : State) (a : Nat) : State :=
  match sliceAt a with
  | some k => { s with slices := tins (tdel s.slices k) k 32 }
  | none => s

/-- At the end of a destroy the queue's slice is zeroed (11 R367). -/
def sliceRelease (s : State) (a : Nat) : State :=
  match sliceAt a with
  | some k => slicesDrop s (fun x _ => x == k)
  | none => s

/-- The owner of a sequence slot's record (09 Table Ranges-10). -/
def seqOwner (r : Nat) : Nat := bitsOf r 255 240

/-- The sequence slots of a context are released (10 R359, 09 R326). -/
def seqSlotsFree (s : State) (cid : Nat) : State := { s with seqSlots := s.seqSlots.filter (fun e => seqOwner e.2 != cid) }

/-- The range entries of a context are gone, and slices only they targeted are zeroed (10 R359, 09 R305). -/
def entriesFree (s : State) (cid : Nat) : State :=
  slicesSettle (ctxPut (rangeDrop s (fun k => k / 4096 == cid)) cid { ctxOf s cid with entries := [] })

/-- The T sessions of a function's mailbox close without a response, and its BAR4 registers return to reset (13 R453). -/
def mailboxReset (s : State) (fn : Nat) : State :=
  let gone := s.sessions.filter (fun e => e.2.src == .mailbox fn && e.2.st != .closed)
  { s with
    sessions := s.sessions.filter (fun e => !(e.2.src == .mailbox fn))
    freeSessions := s.freeSessions ++ (gone.map (·.1)).filter (fun k => decide (k < 65536))
    mbxs := tdel s.mbxs fn }

/-! ### CTX_CMD (10 R340-R343) -/

/-- The CTX_RESULT word of Table Host-4. -/
def ctxResult (seq ctx code : Nat) : Nat := code + ctx * 2 ^ 16 + seq * 2 ^ 32

/-- A CTX_CMD is decided: CTX_RESULT and CTX_BUSY are written, cause 5 is raised, and the last decided value becomes
its CMD_SEQ unless the refusal is 0x0A01, 0x0A03 or 0x0A04 (10 R341). -/
def ctxDecide (s : State) (fn seq ctx code : Nat) : State :=
  let r := ctxResult seq ctx code
  let f := fnOf s fn
  let keep := code = 0x0A01 ∨ code = 0x0A03 ∨ code = 0x0A04
  let f1 := if keep then { f with cmd := none } else { f with cmd := none, lastCmdSeq := some seq, lastResult := r }
  raiseCause (fnPut (fnPut (fnStPut s fn f1) fn 0x20 r) fn 0x28 0) fn 5

/-- The identifier checks of a CTX_CMD that names a context: 0x0A05 when it names none of the function, 0x0A06 when
Table Host-6 does not permit the command in its state. DESTROY is permitted to a LIVE or LOST context, a binding
command to a LIVE one. -/
def ctxNameCode (s : State) (fn cid op : Nat) : Nat :=
  let c := ctxOf s cid
  if c.st = .free ∨ c.fn ≠ fn then 0x0A05
  else match c.st, op with
    | .live, _ => 0
    | .lost, 2 => 0
    | _, _ => 0x0A06

/-- The number of contexts a function holds in any state but FREE, and the device holds (10 R336). -/
def ctxLive (s : State) (fn : Nat) : Nat := s.ctxs.countP (fun e => e.2.st != .free && e.2.fn == fn)
def ctxTotal (s : State) : Nat := s.ctxs.countP (fun e => e.2.st != .free)

/-- The quota and limit checks of a CREATE (10 R362). -/
def ctxCreateCode (s : State) (fn : Nat) : Nat :=
  if ctxLive s fn ≥ pget s (P.ctxQuota fn) then 0x0A07 else if ctxTotal s ≥ pget s P.contextsMax then 0x0A08 else 0

/-- A CTX_CMD write. While CTX_BUSY is 1, which it is until full function, the write is discarded and counted (10 R340,
16 R530). A repeat of the last decided CMD_SEQ reports its outcome again and decides nothing (10 R341). Otherwise the field, sequence
and state checks run in table order, and `go` performs an accepted command. -/
def ctxCmd (s : State) (fn : Nat) (w : Nat) (op : Nat) (go : State → Nat → Nat → Nat → State) : Ans :=
  let seq := bitsOf w 63 32
  let cid := bitsOf w 31 16
  let arg := bitsOf w 15 8
  let f := fnOf s fn
  if !fnUp s fn then .next s
  else if fnGet s fn 0x28 = 1 ∨ f.cmd.isSome ∨ pget s P.startStage ≠ 5 then .next (pinc s P.ctxCmdDropped)
  else if op = 0 ∨ op > 4 ∨ bitsOf w 7 4 ≠ 0 ∨ (op = 1 ∧ cid ≠ 0) ∨ ((op = 1 ∨ op = 2) ∧ arg ≠ 0) then .next (ctxDecide s fn seq cid 0x0A01)
  else
    let cmp := match f.lastCmdSeq with | none => Serial.newer | some l => serialCmp l seq
    match cmp with
    | .equal => .next (fnPut s fn 0x20 f.lastResult)
    | .older => .next (ctxDecide s fn seq cid 0x0A03)
    | .outside => .next (ctxDecide s fn seq cid 0x0A04)
    | .newer =>
      let code := if op = 1 then ctxCreateCode s fn else ctxNameCode s fn cid op
      if code ≠ 0 then .next (ctxDecide s fn seq cid code) else .next (go s seq cid arg)

/-- Begin the host read a CTX_CMD needs: CTX_BUSY is 1 until it is decided (10 R340, R342). -/
def ctxRead (s : State) (fn seq cid arg op len : Nat) : State :=
  let addr := fnGet s fn 0x10
  let f := fnOf s fn
  emit (fnPut (fnStPut s fn { f with cmd := some { seq := seq, ctx := cid, arg := arg, op := op, addr := addr } }) fn 0x28 1) (.hostRead addr len)

/-- CTX_CMD CREATE: reads the 64-byte context descriptor (10 R342). -/
def execCtxCmdCreate (fn : Fn) (w : U64) (s : State) : Ans :=
  ctxCmd s fn.val w.toNat 1 (fun s seq cid arg => ctxRead s fn.val seq cid arg 1 64)

/-- CTX_CMD FENCE_BIND: reads the 8-byte binding address (10 R342, R350). -/
def execCtxCmdFenceBind (fn : Fn) (w : U64) (s : State) : Ans :=
  ctxCmd s fn.val w.toNat 3 (fun s seq cid arg => ctxRead s fn.val seq cid arg 3 8)

/-- CTX_CMD FENCE_UNBIND: ends a binding whose KEPT equals PROMISED (10 R351, R362). -/
def execCtxCmdFenceUnbind (fn : Fn) (w : U64) (s : State) : Ans :=
  ctxCmd s fn.val w.toNat 4 (fun s seq cid arg =>
    let c := ctxOf s cid
    match tget (fun _ => none) c.fences arg with
    | none => ctxDecide s fn.val seq cid 0x0A0B
    | some b =>
      if b.promised > b.kept then ctxDecide s fn.val seq cid 0x0A0D
      else ctxDecide (ctxPut s cid { c with fences := tset (fun _ => none) c.fences arg none }) fn.val seq cid 0)

/-! ### Destroy (10 R359) -/

/-- The contexts of a function in any state but FREE. -/
def ctxsOf (s : State) (fn : Nat) : List Nat := (s.ctxs.filter (fun e => e.2.st != .free && e.2.fn == fn)).map (·.1)

/-- When the last context of a function under reset has ended, every BAR0 and BAR4 register of the function returns to its
reset value; the undelivered-completion store is kept (10 R337, 13 R453). -/
def flrSettle (s : State) (fn : Nat) : State :=
  let f := fnOf s fn
  if f.flr ∧ ctxsOf s fn = [] then
    let keep := s.fnRegs.filter (fun e => e.1 / 0x10000 != fn || e.1 == fn * 0x10000 + 0xC0 || e.1 == fn * 0x10000 + 0xC4)
    fnStPut { s with fnRegs := keep } fn { f with flr := false, lastCmdSeq := none, cmd := none, lastResult := 0, updates := []
                                                  respWaiting := [], respWritten := 0, respRead := 0, fltWritten := 0, fltRead := 0, fltWaiting := [] }
  else s

/-- Begin the destroy procedure of a context: the loss procedure without records and without cause 3, then forced aborts
of its sprint slots, Ghengo channels and Boathouse leases, the release of its sequence slots, and the draining of its
range entries (10 R359). -/
def destroyBegin (s : State) (cid : Nat) (seq : Option Nat) : State :=
  let s1 := ctxLoss s cid none true
  let s2 := (sprintSlots s1 (fun p => p.st == .bound && p.ctx == cid)).foldl sprintAbort s1
  let s3 := ghengoAbortOf (boathouseAbortOf s2 cid) cid
  let s4 := faultDiscard (seqSlotsFree s3 cid) cid
  let c := ctxOf s4 cid
  let c1 := { c with st := .destroying, destroySeq := seq, cmds := [], priv := [], call := none, callsOpen := [], resident := false, crWaiting := [] }
  { ctxPut s4 cid c1 with swapping := s4.swapping.filter (· != cid) }

/-- CTX_CMD DESTROY: begins the destroy procedure; CTX_BUSY stays 1 until it ends (10 R359, R340). -/
def execCtxCmdDestroy (fn : Fn) (w : U64) (s : State) : Ans :=
  ctxCmd s fn.val w.toNat 2 (fun s seq cid arg =>
    let f := fnOf s fn.val
    destroyBegin (fnPut (fnStPut s fn.val { f with cmd := some { seq := seq, ctx := cid, arg := arg, op := 2, addr := 0 } }) fn.val 0x28 1) cid (some seq))

/-- DESTROY_END: once no sprint slot, channel, key or drain of a destroyed context is left, and no deferrable write and no advance of it is out, its
identifier is freed and its queue slice is zeroed and released; CTX_RESULT reports it (10 R343, R355, R359, 11 R367). -/
def execDestroyEnd (ctx : U16) (s : State) : Ans :=
  let cid := ctx.toNat
  let c := ctxOf s cid
  if c.st = .destroying ∧ sprintSlots s (fun p => p.st != .unbound && p.ctx == cid) = [] ∧ !ctxHasLinks s cid
      ∧ s.advWaits.all (fun w => w.1 != cid) ∧ s.dmwr.all (fun d => d.ctx != cid) ∧ s.advFar.all (fun a => a.ctx != cid) then
    let s1 := if c.desc.queueLocal then sliceRelease s c.desc.queueBase else s
    let s2 := entriesFree s1 cid
    let s3 := { ctxPut s2 cid {} with freeIds := s2.freeIds ++ [cid] }
    match c.destroySeq with
    | some q => .next (swapWaiting (ctxDecide s3 c.fn q cid 0))
    | none => .next (swapWaiting (flrSettle s3 c.fn))
  else .next s

/-- A free context identifier: one never used, or else the one freed longest ago (10 R339). -/
def takeCtxId (s : State) : Option (Nat × State) :=
  if s.nextCtxId ≤ 65536 then some (s.nextCtxId % 65536, { s with nextCtxId := s.nextCtxId + 1 })
  else match s.freeIds with
    | [] => none
    | i :: t => some (i, { s with freeIds := t })

/-! ### Function reset and virtual functions (10 R334, R337) -/

/-- Reset a function: every context of it is destroyed by the destroy procedure, its T sessions close and its mailbox
returns to reset (10 R337, 13 R453). -/
def functionReset (s : State) (fn : Nat) : State :=
  let s1 := (ctxsOf s fn).foldl (fun s cid => if (ctxOf s cid).st = .destroying then ctxPut s cid { ctxOf s cid with destroySeq := none }
    else destroyBegin s cid none) s
  let s2 := mailboxReset s1 fn
  flrSettle (fnStPut s2 fn { fnOf s2 fn with flr := true, cmd := none }) fn

def execFunctionLevelReset (fn : Fn) (s : State) : Ans :=
  if fnUp s fn.val then .next (functionReset s fn.val) else .next s

/-- VF_ENABLE_SET: VF1 to VFn appear as functions (10 R334). -/
def execVfEnableSet (n : Fin 32) (s : State) : Ans :=
  if s.start.msf ∧ n.val ≥ 1 ∧ s.numVfs = 0 then
    .next { (List.range n.val).foldl (fun s i => fnStPut s (i + 1) { fnOf s (i + 1) with enabled := true }) s with numVfs := n.val }
  else .next s

/-- VF_ENABLE_CLEAR: every VF is reset as by a function-level reset and disappears; its level returns to the default
(10 R337, 13 R456). -/
def execVfEnableClear (s : State) : Ans :=
  if s.start.msf ∧ s.numVfs ≥ 1 then
    .next { (List.range s.numVfs).foldl (fun s i =>
      let s1 := functionReset s (i + 1)
      fnStPut (pset s1 (P.level (i + 1)) (paramDefault (P.level (i + 1)))) (i + 1) { fnOf s1 (i + 1) with enabled := false }) s with numVfs := 0 }
  else .next s

/-! ### BAR0 registers (10 R338, R352, R357, R361) -/

/-- INT_STATUS_WRITE: writing 1 clears a cause bit (10 R357). -/
def execIntStatusWrite (fn : Fn) (w : U64) (s : State) : Ans :=
  if fnUp s fn.val then
    let v := fnGet s fn.val 0x80
    .next (fnPut s fn.val 0x80 (v &&& (2 ^ 64 - 1 - w.toNat)))
  else .next s

/-- UC_HEAD_WRITE: consumes store records, or is ignored and counted when it would move backward or past UC_TAIL (10 R361). -/
def execUcHeadWrite (fn : Fn) (w : U32) (s : State) : Ans :=
  let h := fnGet s fn.val 0xC0
  let t := fnGet s fn.val 0xC4
  if !fnUp s fn.val then .next s
  else if serialDist h w.toNat ≤ serialDist h t then .next (fnPut s fn.val 0xC0 w.toNat)
  else .next (pinc s P.fnConfigIgnored)

/-- CR_HEAD_WRITE: frees completion-ring slots of a context of the function, and the records that wait for room are written (10 R352); where one is not
delivered, the context is lost (10 R361). -/
def execCrHeadWrite (fn : Fn) (w : U64) (s : State) : Ans :=
  let cid := bitsOf w.toNat 31 16
  let v := bitsOf w.toNat 63 32
  let c := ctxOf s cid
  if !fnUp s fn.val then .next s
  else if c.st = .free ∨ c.fn ≠ fn.val then .next (pinc s P.fnConfigIgnored)
  else
    let nh := c.crHead + serialDist (c.crHead % 2 ^ 32) v
    if nh ≤ c.crWritten then
      let (s1, ok) := flushLost (ctxPut s cid { c with crHead := nh }) cid c.crWaiting.length
      .next (if ok then stampHead s1 cid else ctxLoss s1 cid none false)
    else .next (pinc s P.fnConfigIgnored)

/-! ### Deliveries and messages (10 R352, R355) -/

/-- A deferrable delivery fails: it is stored, and its context is lost (10 R361). -/
def dmwrFail (s : State) (d : Dmwr) (cause : Nat) : State :=
  let rec_ := match d.fence with
    | none => ucRecord (leNat d.data) d.addr s.tb 0 cause
    | some (i, v) =>
      let va := match tget (fun _ => none) (ctxOf s d.ctx).fences i with | some b => b.va | none => 0
      ucRecord (pack [(104, i), (112, d.ctx), (128, v), (192, va)]) d.addr s.tb 1 cause
  let s1 := ucStore s d.fn rec_
  let c := ctxOf s1 d.ctx
  let s2 := if d.fence = none then ctxPut s1 d.ctx { c with crStopped := true } else s1
  ctxLoss s2 d.ctx none false

/-- DMWR_COMPLETION: Successful Completion delivers, and KEPT rises with a promised advance (10 R351); UR or CA fails, a retry request waits 10 µs, and the sixteenth
fails (10 R355). -/
def execDmwrCompletion (id : Nat) (r : DmwrResult) (s : State) : Ans :=
  match s.dmwr.find? (fun d => d.id == id && !d.waiting) with
  | none => .next s
  | some d =>
    let rest := { s with dmwr := s.dmwr.filter (fun x => x.id != id) }
    match r with
    | .success => .next (match d.fence with | some (i, v) => if d.own then advanced rest d.ctx i v else waitsDue rest (0x100000000000000 + d.addr) | none => rest)
    | .ur => .next (dmwrFail rest d 1)
    | .ca => .next (dmwrFail rest d 2)
    | .retry =>
      if d.retries ≥ 15 then .next (dmwrFail rest d 4)
      else .next { s with dmwr := s.dmwr.map (fun x => if x.id = id then { x with retries := x.retries + 1, waiting := true, tb := s.tb } else x) }

/-- DMWR_RETRY_TIMER: 10 µs after a retry request the write is sent again (10 R355). -/
def execDmwrRetryTimer (id : Nat) (s : State) : Ans :=
  match s.dmwr.find? (fun d => d.id == id && d.waiting) with
  | none => .next s
  | some d =>
    if !tbPast s.tb d.tb 10000 then .next s
    else .next (emit { s with dmwr := s.dmwr.map (fun x => if x.id = id then { x with waiting := false, tb := s.tb } else x) } (.hostDeferrable d.addr d.data))

/-- DMWR_TIMEOUT: a write with no completion in 10 ms fails (10 R355). -/
def execDmwrTimeout (id : Nat) (s : State) : Ans :=
  match s.dmwr.find? (fun d => d.id == id && !d.waiting) with
  | none => .next s
  | some d => .next (if tbPast s.tb d.tb 10000000 then dmwrFail { s with dmwr := s.dmwr.filter (fun x => x.id != id) } d 3 else s)

/-- COMPLETION_MESSAGE_COALESCE: 1 µs after the last of a group of records their shared message goes out on CR_VECTOR (10 R352). -/
def execCompletionMessageCoalesce (ctx : U16) (s : State) : Ans :=
  let c := ctxOf s ctx.toNat
  if c.msgDue ∧ tbPast s.tb c.tbMsg 1000 then .next (msixSend (ctxPut s ctx.toNat { c with msgDue := false }) c.fn c.desc.crVector) else .next s

end Sys2Proof.Machine
end

