-- ==== Sys2Proof/Machine/RangeCmds.lean ====
section
/-! DEFINITION. Range updates, fault resolves and the translation rings, ATS and slice zeroing, and the writes to registers
that have no row of their own (09 R302 to R317, R330 to R332, 10 R338). -/
namespace Sys2Proof.Machine

/-! ### Responses (09 R312) -/

/-- A translation response record with PHASE zero (09 Table Ranges-5). -/
def respBytes (gen cid op idx code : Nat) (dup : Bool) : Bytes :=
  leBytes 16 (pack [(96, gen), (80, cid), (76, op), (64, idx), (48, code), (1, if dup then 1 else 0)])

/-- Whether the translation response ring has room. -/
def respRoom (f : FnSt) : Bool := decide (f.respWritten - f.respRead < 1024)

/-- Write the response records that have room, with the translation interrupt (09 R312). -/
def respFlush (s : State) (fn : Nat) : Nat → State
  | 0 => s
  | k + 1 =>
    let f := fnOf s fn
    match f.respWaiting with
    | [] => s
    | r :: t =>
      if respRoom f then
        let b := leBytes 16 (leNat r + if f.respWritten / 1024 % 2 = 0 then 1 else 0)
        let s1 := fnStPut s fn { f with respWaiting := t, respWritten := f.respWritten + 1 }
        respFlush (raiseCause (emit s1 (.hostWrite (fnGet s fn 0x50 + 16 * (f.respWritten % 1024)) b)) fn 1) fn k
      else s

/-- A processed update or resolve receives its record; while the ring is full the record waits (09 R312). -/
def respond (s : State) (fn gen cid op idx code : Nat) (dup : Bool) : State :=
  let f := fnOf s fn
  respFlush (fnStPut s fn { f with respWaiting := f.respWaiting ++ [respBytes gen cid op idx code dup] }) fn (f.respWaiting.length + 1)

/-! ### Range updates (09 R306 to R315) -/

/-- A range slot of a context. -/
def slotOf (c : Ctx) (idx : Nat) : RangeSlot := tget (fun _ => {}) c.entries idx
def slotPut (s : State) (cid idx : Nat) (x : RangeSlot) : State :=
  let c := ctxOf s cid
  ctxPut s cid { c with entries := tset (fun _ => {}) c.entries idx x }

/-- Whether a shell slot is owned by a function. -/
def shellOwned (s : State) (fn slot : Nat) : Bool := decide (slot < 32) && (shellOf s slot).st != .free && pget s (P.ownerFunction slot) == fn

/-- The highest offset in a channel that a channel entry reaches (09 R304). -/
def chanReach (e : Nat) : Nat :=
  let g := 4096 * 2 ^ bitsOf e 86 83
  let n := bitsOf e 93 87 + 1
  let last := entLen e * 4096 - 1
  bitsOf e 18 0 * 4096 + last / (g * n) * g + min (last % (g * n)) (g - 1)

/-- Reserved bits of an entry by its kind (09 Tables Ranges-1, Ranges-2). -/
def entReserved (e : Nat) : Bool :=
  bitsOf e 199 196 != 0 || match entKind e with
    | 1 => bitsOf e 82 19 != 0
    | 2 => bitsOf e 101 31 != 0
    | 3 => bitsOf e 96 16 != 0
    | 4 => bitsOf e 105 44 != 0
    | 5 => bitsOf e 100 16 != 0
    | 6 => bitsOf e 105 35 != 0
    | _ => true

/-- 0x0308 RT_FIELD. -/
def entFieldBad (cid gen e : Nat) : Bool :=
  entReserved e || entGen e != gen || bitsOf e 223 208 != cid || entLen e == 0 || decide (entStart e + entLen e > 2 ^ 45)
    || (bitOf e 201 && !(bitOf e 203 && bitOf e 202)) || (bitOf e 200 && entKind e != 4)

/-- 0x0309 RT_OVERLAP: another valid entry of the context covers part of the span. -/
def entOverlaps (c : Ctx) (idx e : Nat) : Bool :=
  c.entries.any (fun x => x.1 != idx && entKind x.2.entry != 0 && decide (entStart e < entStart x.2.entry + entLen x.2.entry)
    && decide (entStart x.2.entry < entStart e + entLen e))

/-- 0x030A RT_TARGET: the target is out of reach of the function. -/
def entTargetBad (s : State) (fn e : Nat) : Bool :=
  let len := entLen e * 4096
  let slot := bitsOf e 105 101
  match entKind e with
  | 1 => !shellOwned s fn slot || decide (bitsOf e 86 83 > 9) || decide (bitsOf e 100 94 + bitsOf e 93 87 ≥ (shellOf s slot).rig.channels.length)
      || decide (chanReach e ≥ chanBytes)
  | 2 =>
    let r := rngOf s (bitsOf e 105 102)
    pget s (P.cxlRangeState (bitsOf e 105 102)) != 2 || !shellOwned s fn (rngOwner r) || decide (bitsOf e 30 0 * 4096 + len > rngSize r * 2 ^ 28)
  | 3 => !shellOwned s fn slot || decide (bitsOf e 15 0 * 4096 + len > 0xC000000)
  | 4 => decide (bitsOf e 43 0 + entLen e > 2 ^ 44)
  | 5 => !shellOwned s fn slot || decide (bitsOf e 15 0 * 0x200000 + len > shellSeats (shellOf s slot) * 0x200000)
  | _ => decide (bitsOf e 34 0 * 4096 + len > 2 ^ 47)

/-- 0x030B RT_CHANNEL_PENDING: the entry names a logical channel that the latest accepted commit added, while RIG_STATUS is not QUIET. -/
def entChanPending (s : State) (e : Nat) : Bool :=
  let slot := bitsOf e 105 101
  entKind e == 1 && pget s (P.rigStatus slot) != 0 && decide (bitsOf e 100 94 + bitsOf e 93 87 ≥ (shellOf s slot).oldChans)

/-- The refusal of a fetched entry, tested in the order of Table Ranges-3 from 0x0308 on. -/
def entryCode (s : State) (cid idx gen e : Nat) : Nat :=
  let c := ctxOf s cid
  if entFieldBad cid gen e then 0x0308
  else if entOverlaps c idx e then 0x0309
  else if entTargetBad s c.fn e then 0x030A
  else if entChanPending s e then 0x030B
  else if (entrySlices e).any (fun k => match sliceOwner s k with | some o => o != bitsOf e 105 101 | none => false) then 0x030C
  else if bitOf e 200 && !(fnOf s c.fn).ats then 0x030D
  else 0

/-- Put an entry in force: its shell holds the slices it targets, and slices that nothing targets any more go (09 R305). -/
def entryForce (s : State) (cid idx e : Nat) (x : RangeSlot) : State :=
  let s1 := slotPut s cid idx { x with entry := e, lastInstalled := some (entGen e), gone := if entKind x.entry = 0 then x.gone else sAdd x.gone x.entry }
  slicesSettle { rangeDrop s1 (· == cid * 4096 + idx) with slices := (entrySlices e).foldl (fun t k => tins (tdel t k) k (bitsOf e 105 101)) s1.slices }

/-- An update is decided, and an install that is taken fetches its mirror entry (09 R313, Table Ranges-6). -/
def updateDecide (s : State) (fn op cid idx gen : Nat) : State :=
  let c := ctxOf s cid
  let answer := fun (code : Nat) (dup : Bool) => respond s fn gen cid op idx code dup
  if op = 0 ∨ op = 3 then answer 0x0301 false
  else if !(c.st = .live ∨ c.st = .lost) ∨ c.fn ≠ fn then answer 0x0302 false
  else
    let x := slotOf c idx
    if x.st = .fetching ∨ x.st = .draining then answer 0x0303 false
    else if op = 1 then
      let fetch := emit (slotPut s cid idx { x with st := .fetching, pendingGen := gen, pendingInstall := true }) (.hostRead (c.desc.mirrorBase + 32 * idx) 32)
      match x.lastInstalled with
      | none => fetch
      | some g => match serialCmp g gen with
        | .equal => answer 0 true
        | .older => answer 0x0304 false
        | .outside => answer 0x0305 false
        | .newer => fetch
    else if x.st = .valid ∧ entGen x.entry = gen then
      slicesSettle (slotPut (rangeDrop s (· == cid * 4096 + idx)) cid idx { x with st := .draining, entry := 0, pendingGen := gen, pendingInstall := false, lastRevoked := some gen, gone := sAdd x.gone x.entry })
    else if x.st = .empty ∧ x.lastRevoked = some gen then answer 0 true
    else answer 0x0306 false

/-! ### Fault conversations (09 R330 to R332) -/

/-- Deliver the batch that collects (09 Table Ranges-15). -/
def batchDeliver (s : State) (cid : Nat) : State :=
  let c := ctxOf s cid
  let f := c.fault
  faultDeliver (ctxPut s cid { c with fault := { f with st := .delivered, waiting := true } }) cid f.lastBatch false f.tbOpen f.records

/-- Open the next batch with records, of which a 64th delivers it (09 Table Ranges-15). -/
def batchOpen (s : State) (cid : Nat) (recs : List FaultRec) : State :=
  match recs with
  | [] => s
  | r :: _ =>
    let c := ctxOf s cid
    let s1 := ctxPut s cid { c with fault := { c.fault with
      st := .collecting, lastBatch := c.fault.lastBatch + 1, tbOpen := r.tb, records := recs, held := [], tbWindow := s.tb, windowUs := pget s P.faultWindowUs } }
    if recs.length ≥ 64 then batchDeliver s1 cid else s1

/-- A resolvable fault of a context: whether it was recorded (09 Table Ranges-15). -/
def faultRecord (s : State) (cid : Nat) (r : FaultRec) : State × Bool :=
  let c := ctxOf s cid
  let f := c.fault
  match f.st with
  | .clear => (batchOpen s cid [r], true)
  | .collecting =>
    let s1 := ctxPut s cid { c with fault := { f with records := f.records ++ [r] } }
    (if f.records.length + 1 ≥ 64 then batchDeliver s1 cid else s1, true)
  | .delivered => if f.held.length < 64 then (ctxPut s cid { c with fault := { f with held := f.held ++ [r] } }, true) else (s, false)
  | .lost => (s, false)

/-- A stopped transfer goes on from its cursor (09 R328). -/
def xferResume (s : State) (seat : Nat) (f : Xfer → Bool) : State :=
  let t := seatOf s seat
  seatPut s seat { t with xfers := t.xfers.map (fun x => if x.st = .stopped ∧ f x then { x with st := .active, unrecorded := false } else x) }

/-- The stopped transfers of a batch resume, and those that stopped without a record (09 Table Ranges-15). -/
def batchResume (s : State) (cid : Nat) : State :=
  let f := (ctxOf s cid).fault
  let s1 := f.records.foldl (fun s r => match (shellOf s r.shell).rig.seats[r.lseat]? with
    | some seat => xferResume s seat (fun x => x.ticket == r.ticket)
    | none => s) s
  let shells := (s1.shells.filter (fun e => shellCtx s1 e.1 == some cid)).flatMap (fun e => e.2.rig.seats)
  shells.foldl (fun s seat => xferResume s seat (fun x => x.unrecorded)) s1

/-- The loss of a context to its fault conversation: the job of the first record of the batch is the one that caused it (09 Table
Ranges-15, 10 Table Host-8). -/
def batchLoss (s : State) (cid : Nat) : State :=
  let cause := match (ctxOf s cid).fault.records with | r :: _ => some (r.shell, 2, r.reason * 2 ^ 24) | [] => none
  ctxLoss s cid cause false

/-- FLT_RESOLVE is decided (09 R331, Table Ranges-15). -/
def resolveDecide (s : State) (fn verdict cid batch : Nat) : State :=
  let c := ctxOf s cid
  let f := c.fault
  let answer := fun (s : State) (code : Nat) (dup : Bool) => respond s fn batch cid 3 0 code dup
  let d := serialDist batch (f.lastBatch % 2 ^ 32)
  if verdict = 0 ∨ verdict = 3 then answer s 0x0301 false
  else if !(c.st = .live ∨ c.st = .lost) ∨ c.fn ≠ fn then answer s 0x0302 false
  else if c.st = .lost then answer s 0x030F false
  else if f.st = .delivered ∧ d = 0 then
    (if verdict = 1 then
      let s1 := answer (batchResume s cid) 0 false
      let c1 := ctxOf s1 cid
      batchOpen (ctxPut s1 cid { c1 with fault := { c1.fault with st := .clear, records := [], held := [], waiting := false } }) cid f.held
    else answer (batchLoss s cid) 0 false)
  else if d < 2 ^ 31 ∧ d < f.lastBatch ∧ (0 < d ∨ f.st = .clear) then answer s 0 true
  else answer s 0x030E false

/-! ### The update queue (09 R311, R312) -/

/-- Process the updates and resolves of a function that wait, in the order they arrived, while the response ring has room. An
operation of 4 or more is a resolve with that verdict plus 4. -/
def updatesRun (s : State) (fn : Nat) : Nat → State
  | 0 => s
  | k + 1 =>
    let f := fnOf s fn
    match f.updates with
    | [] => s
    | (op, cid, idx, gen) :: t =>
      if f.respWaiting = [] ∧ respRoom f then
        let s1 := fnStPut s fn { f with updates := t }
        updatesRun (if op < 4 then updateDecide s1 fn op cid idx gen else resolveDecide s1 fn (op - 4) cid gen) fn k
      else s

/-- A write to RT_UPDATE: it joins the function's queue of 64, or is dropped and counted (09 R311). -/
def updatePush (s : State) (fn op cid idx gen : Nat) : State :=
  let f := fnOf s fn
  if f.updates.countP (fun u => decide (u.1 < 4)) ≥ 64 then pinc s P.rtUpdatesDropped
  else updatesRun (fnStPut s fn { f with updates := f.updates ++ [(op, cid, idx, gen)] }) fn (f.updates.length + 1)

/-- A write to FLT_RESOLVE: it is processed behind the updates that wait (09 R312). -/
def resolvePush (s : State) (fn verdict cid batch : Nat) : State :=
  let f := fnOf s fn
  updatesRun (fnStPut s fn { f with updates := f.updates ++ [(verdict + 4, cid, 0, batch)] }) fn (f.updates.length + 1)

/-- RT_UPDATE with OP install (09 R309). -/
def execRtUpdateInstall (fn : Fn) (gen : U32) (ctx : U16) (index : Fin 4096) (s : State) : Ans :=
  if fnUp s fn.val then .next (updatePush s fn.val 1 ctx.toNat index.val gen.toNat) else .next s

/-- RT_UPDATE with OP revoke (09 R309). -/
def execRtUpdateRevoke (fn : Fn) (gen : U32) (ctx : U16) (index : Fin 4096) (s : State) : Ans :=
  if fnUp s fn.val then .next (updatePush s fn.val 2 ctx.toNat index.val gen.toNat) else .next s

/-- RT_MIRROR_FETCH_DONE: the entry read is checked, and put in force or refused (09 R310, Table Ranges-6). -/
def execRtMirrorFetchDone (ctx : U16) (index : Fin 4096) (r : ReadResult) (s : State) : Ans :=
  let cid := ctx.toNat
  let c := ctxOf s cid
  let x := slotOf c index.val
  if x.st ≠ .fetching then .next s
  else
    let was := if entKind x.entry = 0 then SlotState.empty else .valid
    let refuse := fun (code : Nat) => respond (slotPut s cid index.val { x with st := was }) c.fn x.pendingGen cid 1 index.val code false
    match r with
    | .failed => .next (refuse 0x0307)
    | .memory _ => .next (refuse 0x0307)
    | .data b =>
      let e := leNat (b.take 32)
      let code := entryCode s cid index.val x.pendingGen e
      if code ≠ 0 then .next (refuse code)
      else if was = .empty then .next (respond (entryForce s cid index.val e { x with st := .valid }) c.fn x.pendingGen cid 1 index.val 0 false)
      else .next (entryForce s cid index.val e { x with st := .draining })

/-- Whether one of the contents a slot has lost leads from an address to a global one. -/
def goneReaches (s : State) (gone : List Nat) (va ga : Nat) : Bool :=
  gone.any (fun e => entCovers e va && (bitOf e 200 || entryTarget s e va == some ga))

/-- The address that a core waits for, its global address and the cause of its access fault. -/
def waitAddr : CoreWait → Option (Nat × Nat × Nat)
  | .fetch va ga => some (va, ga, 1)
  | .load _ _ _ _ va ga => some (va, ga, 5)
  | .fill va ga _ => some (va, ga, 7)
  | .amo _ _ _ _ va ga => some (va, ga, 7)
  | _ => none

/-- Whether a seat waits for the answer to an access through a content that a slot has lost: its core, a store that is not acknowledged, or a
transfer. A host write has been issued when it is posted (09 R315). -/
def seatAwaits (s : State) (gone : List Nat) (t : Seat) : Bool :=
  (match waitAddr t.core.wait with | some (va, ga, _) => goneReaches s gone va ga | none => false)
    || t.core.stores.any (fun x => !inHostWindow x.ga && goneReaches s gone x.va x.ga)
    || t.xfers.any (fun x => x.st == .active && (match x.waits with | some (_, va, ga) => goneReaches s gone va ga | none => false))
    || t.xfers.any (fun x => x.st == .active && x.casValue.isSome && gone.any (fun e => entCovers e (bitsOf x.desc 127 64)))

/-- Whether a read or an advance that MD has out for a context goes through a lost content of a slot: of a launch block, of an awaited word, of a bound
word of another module (09 R315). -/
def mdAwaits (s : State) (cid : Nat) (gone : List Nat) : Bool :=
  let c := ctxOf s cid
  let old := fun (va : Nat) => gone.any (fun e => entCovers e va)
  c.cmds.any (fun q => (q.opcode == 1 && q.phase == .blockRead && old (q.pl 511 461 * 64)) || (q.polling && old q.waitAddr))
    || s.advFar.any (fun a => a.ctx == cid && (match tget (fun _ => none) c.fences a.fence with | some b => old b.va | none => false))

/-- Whether an access of a context's jobs, or of MD for it, through a lost content of a slot has not been answered (09 R315). -/
def drainOpen (s : State) (cid : Nat) (gone : List Nat) : Bool :=
  mdAwaits s cid gone || (s.shells.filter (fun e => shellCtx s e.1 == some cid)).any (fun e => e.2.rig.seats.any (fun i => seatAwaits s gone (seatOf s i)))

/-- ENTRY_DRAIN_DONE: once every access through the old content has been answered or issued, the revoke or replace is answered
(09 R315). -/
def execEntryDrainDone (ctx : U16) (index : Fin 4096) (s : State) : Ans :=
  let cid := ctx.toNat
  let c := ctxOf s cid
  let x := slotOf c index.val
  if x.st ≠ .draining ∨ drainOpen s cid x.gone then .next s
  else .next (respond (slotPut s cid index.val { x with st := if x.pendingInstall then .valid else .empty }) c.fn x.pendingGen cid
    (if x.pendingInstall then 1 else 2) index.val 0 false)

/-- TR_RESP_HEAD: the driver has consumed response records (09 R312). -/
def execTrRespHeadWrite (fn : Fn) (v : U32) (s : State) : Ans :=
  let f := fnOf s fn.val
  let d := (v.toNat + 1024 - f.respRead % 1024) % 1024
  if !fnUp s fn.val then .next s
  else if v.toNat ≥ 1024 ∨ d > f.respWritten - f.respRead then .next (pinc s P.trConfigIgnored)
  else
    let s1 := fnPut (fnStPut s fn.val { f with respRead := f.respRead + d }) fn.val 0x58 v.toNat
    .next (updatesRun (respFlush s1 fn.val f.respWaiting.length) fn.val f.updates.length)

/-- FLT_RING_HEAD: the driver has consumed fault batches (09 R312, R330). -/
def execFltRingHeadWrite (fn : Fn) (v : U32) (s : State) : Ans :=
  let f := fnOf s fn.val
  let d := (v.toNat + 16 - f.fltRead % 16) % 16
  if !fnUp s fn.val then .next s
  else if v.toNat ≥ 16 ∨ d > f.fltWritten - f.fltRead then .next (pinc s P.trConfigIgnored)
  else .next (faultFlush (fnPut (fnStPut s fn.val { f with fltRead := f.fltRead + d }) fn.val 0x68 v.toNat) fn.val f.fltWaiting.length)

/-- FLT_RESOLVE with verdict resume (09 R331). -/
def execFltResolveResume (fn : Fn) (batch : U32) (ctx : U16) (s : State) : Ans :=
  if fnUp s fn.val then .next (resolvePush s fn.val 1 ctx.toNat batch.toNat) else .next s

/-- FLT_RESOLVE with verdict abort (09 R331). -/
def execFltResolveAbort (fn : Fn) (batch : U32) (ctx : U16) (s : State) : Ans :=
  if fnUp s fn.val then .next (resolvePush s fn.val 2 ctx.toNat batch.toNat) else .next s

/-- FAULT_WINDOW_EXPIRY: the window that was in force when the batch opened ends (09 Table Ranges-15, R333). -/
def execFaultWindowExpiry (ctx : U16) (s : State) : Ans :=
  let c := ctxOf s ctx.toNat
  if c.st = .live ∧ c.fault.st = .collecting ∧ tbPast s.tb c.fault.tbWindow (c.fault.windowUs * 1000) then .next (batchDeliver s ctx.toNat) else .next s

/-- FAULT_TIMEOUT_EXPIRY: no resolve came in time; the context is lost (09 Table Ranges-15). -/
def execFaultTimeoutExpiry (ctx : U16) (s : State) : Ans :=
  let c := ctxOf s ctx.toNat
  if c.st = .live ∧ c.fault.st = .delivered ∧ !c.fault.waiting ∧ tbPast s.tb c.fault.tbDelivered (c.fault.timeoutMs * 1000000) then
    .next (batchLoss (pinc s P.faultTimeouts) ctx.toNat)
  else .next s

/-! ### ATS and die slices (09 R305, R317) -/

/-- A fence advance that waited for an ATS translation is made, if its page is there now; a failure loses its context (07 R253, 10 R361). -/
def advRetry (s : State) (w : Nat × Nat × Nat) : State :=
  match tget (fun _ => none) (ctxOf s w.1).fences w.2.1 with
  | none => s
  | some b => match translatePins s w.1 [] b.va .atomic with
    | .ats _ _ => { s with advWaits := s.advWaits ++ [w] }
    | _ =>
      let (s1, ok) := advanceBinding s w.1 w.2.1 w.2.2
      if ok then s1 else ctxLoss s1 w.1 none false

/-- The advances that wait are tried again, oldest first. -/
def advRetryAll (s : State) : State := s.advWaits.foldl advRetry { s with advWaits := [] }

/-- ATS_TRANSLATION_COMPLETION: a page's translation and its write grant, or none where no access is granted, or UR. The cache
of 8,192 pages gives up its first listed page when it is full; a page asked for again comes back (log 35). -/
def execAtsTranslationCompletion (fn : Fn) (page : BitVec 44) (grant : Option (BitVec 44 × Bool)) (s : State) : Ans :=
  let k := atcKey fn.val page.toNat
  let room := if s.atc.length ≥ 8192 then s.atc.tail else s.atc
  if !fnUp s fn.val then .next s
  else .next (advRetryAll { s with atc := tins (tdel room k) k (match grant with | some (p, w) => (p.toNat, w) | none => (2 ^ 52, false)) })

/-- ATS_INVALIDATION_REQUEST: the translations of a span of pages go, and the request is completed: the model has issued every
access that used them (09 R317). -/
def execAtsInvalidationRequest (fn : Fn) (page : BitVec 44) (pages : U32) (s : State) : Ans :=
  let lo := atcKey fn.val page.toNat
  if !fnUp s fn.val then .next s else .next (emit { s with atc := s.atc.filter (fun e => !(decide (lo ≤ e.1) && decide (e.1 < lo + pages.toNat))) } (.atsInvalidated fn.val page.toNat pages.toNat))

/-- SLICE_ZERO_DONE: a slice that nothing holds has been zeroed and can be taken again (09 R305). -/
def execSliceZeroDone (die : Fin 16) (slice : Fin 48) (s : State) : Ans :=
  let k := die.val * 48 + slice.val
  if sliceOwner s k = some 33 then .next (sliceHeal (memZero { s with slices := tdel s.slices k } (sliceBase k) 0x400000) (sliceBase k) 0x400000) else .next s

/-! ### Register writes without a row (10 R338) -/

/-- The bits that an 8-byte write to a plain BAR0 register keeps; its reserved bits are ignored (00 R16, 10 Table Host-2). -/
def regMask (off : Nat) : Option Nat :=
  if off = 0x08 then some 1
  else if off = 0x10 then some (2 ^ 64 - 1)
  else if off = 0x50 then some (2 ^ 64 - 1)
  else if off = 0x60 then some (2 ^ 64 - 1)
  else if off = 0x88 then some (2 ^ 64 - 1)
  else if off = 0x90 then some (2 ^ 64 - 1)
  else if off = 0x408 then some 0xFFFF0000
  else none

/-- A write to a BAR4 register or to the request buffer of a function's mailbox (13 R451). -/
def mbxWrite (s : State) (fn off n v : Nat) : State :=
  let m := tget (fun _ => ({} : Mbx)) s.mbxs fn
  let put := fun (m : Mbx) => { s with mbxs := tset (fun _ => {}) s.mbxs fn m }
  if off = 0x10 ∧ n = 8 then put { m with ctl := v % 64 }
  else if 0x1000 ≤ off ∧ off + n ≤ 0x2000 then put { m with req := memSet m.req (off - 0x1000) (leBytes n v) }
  else s

/-- The ATS Enable bit of a function's ATS control register, bit 15 as PCIe numbers it: clearing it drops the function's translations
(PRESUMED, log 84). -/
def atsEnable (s : State) (fn : Nat) (on : Bool) : State :=
  let s1 := fnStPut s fn { fnOf s fn with ats := on }
  if on then s1 else { s1 with atc := s1.atc.filter (fun e => e.1 / 2 ^ 44 != fn) }

/-- A write to one dword of the MSI-X table: clearing a vector's mask bit sends a message that is pending (10 R338, R357; PCIe, log 12). -/
def msixWrite (s : State) (fn off v : Nat) : State :=
  let s1 := fnPut s fn off (if off % 16 = 12 then v % 2 else v % 2 ^ 32)
  let vec := (off - 0x1000) / 16
  if off % 16 = 12 ∧ v % 2 = 0 ∧ bitOf (fnGet s fn 0x1800) vec then
    msixSend (fnPut s1 fn 0x1800 (setBitOf (fnGet s fn 0x1800) vec false)) fn vec
  else s1

/-- The AtomicOp Requester Enable bit of a function, bit 6 of its Device Control 2 register as PCIe numbers it (07 R245, R254; PRESUMED, log 84). -/
def atomicsEnable (s : State) (fn : Nat) (on : Bool) : State := fnStPut s fn { fnOf s fn with atomics := on }

/-- REGISTER_WRITE: a write to a BAR4 register, or to a BAR0 register with no row of its own, of `size` bytes (10 R338, 09 R312). A 64-bit register takes only an
8-byte access. RT_UPDATE, FLT_RESOLVE and CTX_CMD with the OP or VERDICT values that have no row of their own reach this one. FN_CTL, TR_RESP_BASE, FLT_RING_BASE and INT_VECTOR are written only while the function holds no context. The MSI-X table
takes 4-byte and 8-byte writes. -/
def execRegisterWrite (fn : Fn) (space : RegSpace) (offset : U16) (size : Fin 9) (v : U64) (s : State) : Ans :=
  let off := offset.toNat
  let w := v.toNat
  if !fnUp s fn.val then .next s
  else if space = .bar4 then .next (mbxWrite s fn.val off size.val w)
  else if space = .atsControl then .next (atsEnable s fn.val (bitOf w 15))
  else if space = .deviceControl2 then .next (atomicsEnable s fn.val (bitOf w 6))
  else if off = 0x40 ∧ size.val = 8 then .next (updatePush s fn.val (bitsOf w 15 14) (bitsOf w 31 16) (bitsOf w 11 0) (bitsOf w 63 32))
  else if off = 0x48 ∧ size.val = 8 then .next (resolvePush s fn.val (bitsOf w 15 14) (bitsOf w 31 16) (bitsOf w 63 32))
  else if off = 0x18 ∧ size.val = 8 ∧ (w % 16 = 0 ∨ w % 16 > 4) then ctxCmd s fn.val w (w % 16) (fun s _ _ _ => s)
  else if 0x1000 ≤ off ∧ off + size.val ≤ 0x1200 ∧ off % size.val = 0 ∧ (size.val = 4 ∨ size.val = 8) then
    .next (if size.val = 4 then msixWrite s fn.val off w else msixWrite (msixWrite s fn.val off (w % 2 ^ 32)) fn.val (off + 4) (w / 2 ^ 32))
  else match regMask off with
  | none => .next s
  | some m =>
    if size.val ≠ 8 then .next s
    else
      let held := ctxLive s fn.val ≠ 0
      if held ∧ (off = 0x50 ∨ off = 0x60) then .next (pinc s P.trConfigIgnored)
      else if held ∧ (off = 0x08 ∨ off = 0x90) then .next (pinc s P.fnConfigIgnored)
      else if off = 0x50 ∧ w % 0x4000 ≠ 0 ∨ off = 0x60 ∧ w % 0x10000 ≠ 0 then .next (pinc s P.trConfigIgnored)
      else .next (fnPut s fn.val off (w &&& m))

end Sys2Proof.Machine
end

