-- ==== Sys2Proof/Machine/RigCmds.lean ====
section
/-! DEFINITION. The commands of shells and rigging (02). -/
namespace Sys2Proof.Machine

/-- RIG_COMMIT := 1 by the operator or the kernel driver of the owning function (02 R53, R57). -/
def execRigCommit (slot : Slot) (byKernel : Bool) (s : State) : Ans :=
  if fullUp s then .next (rigCommitWrite leaseAsk s slot.val 1 byKernel).1 else .next s

/-- RIG_COMMIT := 2: a latched commit is cancelled (02 Table Shells-5). -/
def execRigCancel (slot : Slot) (s : State) : Ans :=
  if fullUp s then .next (rigCommitWrite leaseAsk s slot.val 2 false).1 else .next s

/-- RIG_CHECK_DONE: the check ends, and the commit is refused, applied at once or latched (02 R58, R60). -/
def execRigCheckDone (slot : Slot) (s : State) : Ans :=
  if pget s (P.rigStatus slot.val) = 1 then .next (shellSelect (rigDecide s slot.val) slot.val) else .next s

/-- SEAT_CATCH_DRAINED: a seat stopped at its CATCH has drained and written its caches back (05 R186); when it is the last, the
latches of its shell take hold or its seats go on (02 R63 to R66). -/
def execSeatCatchDrained (seat : SeatId) (s : State) : Ans :=
  let t := seatOf s seat.val
  if t.mode = .run ∧ t.core.wait = .catchDrain ∧ seatDrained t then
    let s1 := seatFlush s seat.val
    let t1 := seatOf s1 seat.val
    let s2 := corePut s1 seat.val (coreWait s1 t1.core .catchHeld)
    match seatShell s2 seat.val with
    | some sl => .next (preemptTry s2 sl)
    | none => .next (lentReport s2 seat.val (.caught (BitVec.ofNat 64 t1.core.reached) (BitVec.ofNat 64 t1.core.catchDesc)))
  else .next s

/-- SEAT_COPY_DONE: the copies of a seat change are done; the windows point at the destinations, what was held is delivered, and
the commit takes effect; a freeze or pre-emption at the same catch point follows, and otherwise the seats go on (02 R66, R67). -/
def execSeatCopyDone (slot : Slot) (s : State) : Ans :=
  let sh := shellOf s slot.val
  match sh.commit with
  | some m =>
    if sh.applying ∧ pget s (P.rigStatus slot.val) = 3 then
      let s1 := rigTake s slot.val m
      -- a pre-empted job may fit the shell now (11 R399)
      .next (shellSelect (if allCaught s1 slot.val then catchPoint s1 slot.val else s1) slot.val)
    else .next s
  | none => .next s

/-- CATCH_DEADLINE_MS of a slot. -/
def catchDeadline (s : State) (slot : Nat) : Nat :=
  if pget s (P.catchDeadlineMs slot) = 0 then pget s P.defaultCatchDeadlineMs else pget s (P.catchDeadlineMs slot)

/-- CATCH_DEADLINE_EXPIRY: a commit that has stood latched for CATCH_DEADLINE_MS is rolled back with 0x0118 when a catch point has refused it, and with 0x0113
otherwise (02 Table Shells-5). Seats that were waiting for the others at its catch number go on, unless a freeze or a pre-emption stands there too. -/
def execCatchDeadlineExpiry (slot : Slot) (s : State) : Ans :=
  match (shellOf s slot.val).commit with
  | some m =>
    if pget s (P.rigStatus slot.val) = 2 ∧ tbPast s.tb m.tbLatch (catchDeadline s slot.val * 1000000) then .next (latchSettle (rigRollback s slot.val (if m.catchRefused then 0x0118 else 0x0113)) slot.val)
    else .next s
  | none => .next s

/-- Copy one granule of a migration as the channels stood in `s0`, marks of poison with it (02 R72 to R74). -/
def migCopy (s0 s : State) (m : Migration) : State :=
  let s1 := memLoad (memZero s (chanBase m.dst + m.copied * 65536) 65536) (chanBase m.dst + m.copied * 65536) (memSparse s0 (chanBase m.src + m.copied * 65536) 65536)
  let bad := ((chanOf s0 m.src).poison ++ (chanOf s0 m.src).bad).filter (fun b => b / 1024 == m.copied)
  let d := chanOf s1 m.dst
  chanPut s1 m.dst { d with poison := bad.foldl sAdd (d.poison.filter (fun b => b / 1024 != m.copied)), bad := d.bad.filter (fun b => b / 1024 != m.copied) }

/-- The migrations whose next granule is copied together with that of `m`: each copies over a granule that the one after it still has to copy, which
the spec does not forbid and R73 leaves no result of the job to (DESIGN CHOICE, log 15). -/
def migGroup (migs : List Migration) : Nat → Migration → List Migration
  | 0, m => [m]
  | n + 1, m => match (migs.filter (fun x => x.lch != m.lch)).find? (fun x => x.src == m.dst && x.copied == m.copied && !x.done) with
    | some x => m :: migGroup (migs.filter (fun y => y.lch != m.lch)) n x
    | none => [m]

/-- Whether a migration may copy over its destination: not while the active rigging still lists that channel and no migration takes it away. -/
def migMay (s : State) (slot : Nat) (m : Migration) : Bool :=
  let sh := shellOf s slot
  pget s (P.rigStatus slot) != 2 || !sh.rig.channels.contains m.dst || sh.migs.any (fun x => x.src == m.dst)

/-- MIGRATION_GRANULE_COPIED: the next 64 KiB granule of a logical channel's migration is at its destination; after the last one
the migration ends (02 R72 to R75). -/
def execMigrationGranuleCopied (slot : Slot) (lch : Fin 96) (s : State) : Ans :=
  let sh := shellOf s slot.val
  match sh.migs.find? (fun m => m.lch == lch.val && !m.done) with
  | none => .next s
  | some m =>
    let g := migGroup sh.migs 96 m
    if !g.all (migMay s slot.val) then .next s
    else
      let s1 := g.foldl (migCopy s) s
      let s2 := linesMoves s1 slot.val (g.map (fun x => (chanBase x.src + x.copied * 65536, chanBase x.dst + x.copied * 65536, 65536)))
      let sh2 := shellOf s2 slot.val
      let on := fun (x : Migration) => if g.any (fun y => y.lch == x.lch) then { x with copied := x.copied + 1, done := decide (x.copied + 1 ≥ chanBytes / 65536) } else x
      -- a freeze that reached its catch point waited for the migrations to end (02 R76)
      .next (preemptTry (migSettle (shellPut s2 slot.val { sh2 with migs := sh2.migs.map on }) slot.val) slot.val)

/-! ### Freeze, save and restore (02 R77 to R81) -/

/-- FREEZE_RESULT takes a code. -/
def freezeCode (s : State) (slot code : Nat) : State := pset s (P.freezeResult slot) code

/-- What every FREEZE_CTL write meets first: a commit that is being checked, S1 mode, and the states for which Table Shells-2 lists no row (02 R49,
R53, R82). -/
def freezeCtl (s : State) (slot v : Nat) (f : State → State) : State :=
  let sh := shellOf s slot
  if pget s (P.rigStatus slot) = 1 then s
  else if pget s P.compositionMode = 1 then freezeCode s slot 0x0115
  else if sh.st = .free then freezeCode s slot 0x0101
  else f (pset s (P.freezeCtl slot) v)

/-- FREEZE_CTL := 1: an idle shell freezes at once, a running one latches a freeze for its next catch point (02 R63, R77). A RUNNING shell without a job,
which holds pre-empted jobs only, has no catch point to come to; the spec does not say what it does, and the model freezes it at once as one whose job
has ended (DESIGN CHOICE, log 7). -/
def freezeStart (s : State) (slot : Nat) : State :=
  freezeCtl s slot 1 (fun s =>
    let sh := shellOf s slot
    let s1 := freezeCode s slot 0
    if sh.st = .idle then
      (if sh.migs.all (·.done) then freezeEnter s1 slot else shellPut s1 slot { sh with freezeLatch := true })
    else if sh.st = .running then
      (if sh.freezeLatch then s1
       else if sh.job = none then (if sh.migs.all (·.done) then freezeEnter s1 slot else shellPut s1 slot { sh with freezeLatch := true })
       else shellPut s1 slot { sh with freezeLatch := true, freezeAt := some (maxCatch s slot + 1) })
    else freezeCode s slot 0x0102)

/-- Whether a span lies wholly in the host window, or wholly in one READY CXL range that no shell owns (02 R78). -/
def imageSpanOk (s : State) (ga n : Nat) : Bool :=
  ga % 4096 == 0 && ((inHostWindow ga && inHostWindow (ga + n - 1)) || match rangeAt s ga with
    | some i => rangeAt s (ga + n - 1) == some i && pget s (P.cxlRangeState i) == 2 && rngOwner (rngOf s i) == 0x3F
    | none => false)

/-- Bytes of the save image of a shell (02 R79). -/
def saveBytes (s : State) (slot : Nat) : Nat :=
  let sh := shellOf s slot
  64 + sh.rig.seats.length * seatSectionBytes + jobSectionBytes
    + (if bitOf (pget s (P.imageFlags slot)) 0 then sh.rig.channels.length * chanBytes else 0) + sealTrailerBytes

/-- The header of a save image (02 Table Shells-10). -/
def saveHeader (s : State) (slot : Nat) : Nat :=
  let sh := shellOf s slot
  let d := (caughtDescs s slot).headD 0
  pack [(480, 0x53484C32), (464, 2), (448, sh.rig.seats.length), (440, sh.rig.channels.length), (432, sh.rig.ports.length),
    (424, levelOf s (pget s (P.ownerFunction slot))), (417, pget s (P.debugSeen slot) % 2), (416, pget s (P.imageFlags slot) % 2),
    (384, (sh.lastRigSeq.getD 0) % 2 ^ 32), (320, sh.tbFreeze % 2 ^ 64), (256, maxCatch s slot % 2 ^ 64), (192, saveBytes s slot), (184, bitsOf d 55 48)]

/-- FREEZE_CTL := 2: a frozen shell writes its save image to IMAGE_TARGET, with the windows of its own seats in HOLD (02 R77, R78). -/
def freezeSave (s : State) (slot : Nat) : State :=
  freezeCtl s slot 2 (fun s =>
    let sh := shellOf s slot
    if sh.st ≠ .frozen ∨ sh.saving then freezeCode s slot 0x0102
    else if !imageSpanOk s (pget s (P.imageTarget slot)) (saveBytes s slot) then freezeCode s slot 0x011E
    else windowsHold (shellPut s slot { sh with saving := true }) slot (List.range sh.rig.seats.length))

/-- The plain contents of a channel, its nonzero bytes by offset, and their way back (02 R79, R81). -/
def chanImage (s : State) (c : Nat) : List (Nat × Byte) :=
  ((List.range chanBytes).map (fun i => (i, memGet s (chanBase c + i) ^^^ cellPad s (chanBase c + i)))).filter (fun e => e.2 != 0)

def chanUnimage (s : State) (c : Nat) (l : List (Nat × Byte)) : State :=
  memLoad (memZero s (chanBase c) chanBytes) (chanBase c)
    ((List.range chanBytes).map (fun i => (i, tget memDefault l i ^^^ cellPad s (chanBase c + i))))

/-- The save image of a frozen shell (02 R79): its header, the seat sections, the job section and, when included, its channels, sealed for
IMAGE_SEAL_EK or for the device's own key (18 R600). -/
def saveImage (s : State) (slot : Nat) : Image :=
  let sh := shellOf s slot
  let ek := if octGet s (P.imageSealEk slot) = [] then Config.krEk else octGet s (P.imageSealEk slot)
  let (ct, ss) := Config.encap ek s.freeCtr
  { header := saveHeader s slot, seats := sh.rig.seats.map (seatSectionOf s), job := jobSection s slot
    channels := if bitOf (pget s (P.imageFlags slot)) 0 then sh.rig.channels.map (chanImage s) else []
    target := some (pget s (P.imageTarget slot)), ek := ek, ct := ct, ss := ss, tbSeal := s.tb }

/-- FREEZE_SAVE_DONE: the image is written to IMAGE_TARGET, the writes held meanwhile are applied to it, the shell is SAVED and its windows target
the image (02 R77). -/
def execFreezeSaveDone (slot : Slot) (s : State) : Ans :=
  let sh := shellOf s slot.val
  if sh.st = .frozen ∧ sh.saving then
    let im := saveImage s slot.val
    let s1 := imagePut (freeNext (engineWrite s (pget s (P.imageTarget slot.val)) im.sealed)) (saveKey slot.val) im
    let s2 := windowsImage (shellPut s1 slot.val { shellOf s1 slot.val with saving := false, st := .saved }) slot.val (saveKey slot.val)
    .next (freezeCode s2 slot.val 0)
  else .next s

/-- Whether a header's fixed fields and reserved bits are right (02 R80); the seal is checked with it. -/
def headerOk (h : Nat) : Bool := bitsOf h 511 480 == 0x53484C32 && bitsOf h 479 464 == 2 && bitsOf h 423 418 == 0 && bitsOf h 183 0 == 0

/-- Whether an image fits a shell's rigging (02 R80). -/
def headerFits (s : State) (slot h : Nat) : Bool :=
  let sh := shellOf s slot
  bitsOf h 463 448 == sh.rig.seats.length && bitsOf h 447 440 == sh.rig.channels.length && bitsOf h 439 432 == sh.rig.ports.length
    && bitsOf h 431 424 == levelOf s (pget s (P.ownerFunction slot))

/-- The refusal of an image: 0x011A for a header or seal that fails, 0x011B for one that does not fit (02 R80). -/
def imageCode (s : State) (slot h : Nat) (sealOk : Bool) : Nat :=
  if !headerOk h || !sealOk then 0x011A else if !headerFits s slot h then 0x011B else 0

/-- The bytes that stand at IMAGE_TARGET: in a CXL range the module's own memory, in the host window what the host's memory answers (02 R78). Of a
range that is not READY, or behind a closed bridge or a failed link, there are none, and the image fails its check (01 R38, 08 R286). -/
def targetBytes (s : State) (slot n : Nat) (host : Bytes) : Bytes :=
  let ga := pget s (P.imageTarget slot)
  if inHostWindow ga then host.take n
  else match rangeAt s ga with
    | none => []
    | some i =>
      let p := reach s 2352 (2344 + (cxlDecode (rngOf s i) ga).1) (if pget s (P.cxlRangeState i) = 2 then .cell ga none none else .no stNoTarget)
      let (st, b, _) := placeRead s p n {}
      if st = stOk ∧ placeAnswers s 2352 p then b else []

/-- The header at IMAGE_TARGET. -/
def targetHeader (s : State) (slot : Nat) (host : Bytes) : Nat := leNat (targetBytes s slot 64 host)

/-- The image at IMAGE_TARGET as its header gives its length, and whether its seal holds. -/
def targetImage (s : State) (slot : Nat) (host : Bytes) : Image × Bool :=
  let (im, ok) := imageAt (imageOf s (saveKey slot)) (targetBytes s slot (bitsOf (targetHeader s slot host) 255 192) host)
  ({ im with target := some (pget s (P.imageTarget slot)) }, ok)

/-- The job that an image's job section holds, for the context it names, when that context is live on the function that owns the shell; its record
takes the context's next completion slot (11 Table Cmd-9, log 24). -/
def jobOfSection (s : State) (slot : Nat) (im : Image) : Option Job :=
  let b := im.job
  let cid := field b 0 2
  let c := ctxOf s cid
  let raw := (b.drop 0x38).take 64
  let l := parseLaunch raw (2 ^ slot)
  let run := field b 0x18 8
  if cid = 0 ∨ c.st ≠ .live ∨ c.fn ≠ field b 2 1 ∨ c.fn ≠ pget s (P.ownerFunction slot) then none
  else some {
    ctx := cid, fn := c.fn, seq := field b 8 4, crSlot := c.crReserved, priority := c.desc.priority
    launch := { l with pins := (List.range l.pinCount).map (fun i => (field b (0x1000 + 8 * i + 4) 4, field b (0x1000 + 8 * i) 4)) }
    timeoutMs := cdiv (field b 0x20 8 + run) 1000000, phase := .running, tbStart := field b 0x10 8, runNs := run, tbSpan := s.tb
    ended := (List.range im.seats.length).filter (fun i => bitOf (field (im.seats.getD i {}).record 0x810 8) 3) }

/-- A loaded image's job runs on the shell from its restore on: its record's slot is reserved, and it counts among its context's started
commands. -/
def jobAdopt (s : State) (slot : Nat) (im : Image) : State :=
  let sh := shellOf s slot
  if sh.job.isSome ∨ sh.preempted ≠ [] then s
  else match jobOfSection s slot im with
  | none => s
  | some j =>
    let c := ctxOf s j.ctx
    shellPut (ctxPut s j.ctx { c with crReserved := c.crReserved + 1, started := c.started ++ [(j.seq, none)] }) slot { sh with job := some j, lastCtx := some j.ctx }

/-- A thawed or restored shell goes on: RUNNING with a job, IDLE without (02 Table Shells-2). -/
def thawed (s : State) (slot : Nat) : State :=
  let sh := shellOf s slot
  catchGo (shellPut s slot { sh with st := if sh.job.isSome ∨ sh.preempted ≠ [] then .running else .idle }) slot

/-- The image at IMAGE_TARGET is checked for a restore: it is refused, or the restore runs from it with the windows in HOLD (02 R77, R80). -/
def restoreBegin (s : State) (slot : Nat) (host : Bytes) : State :=
  let (im, ok) := targetImage s slot host
  let c := imageCode s slot (targetHeader s slot host) ok
  if c ≠ 0 then freezeCode s slot c
  else
    let s1 := imagePut s (saveKey slot) im
    let sh := shellOf s1 slot
    windowsHold (shellPut s1 slot { sh with restoring := true, sealOk := ok }) slot (List.range sh.rig.seats.length)

/-- FREEZE_CTL := 3: a frozen shell is released from its catch point; a saved one restores the image at IMAGE_TARGET, which the device reads first
where it lies in the host's memory (02 R77, R80). -/
def freezeThaw (s : State) (slot : Nat) : State :=
  freezeCtl s slot 3 (fun s =>
    let sh := shellOf s slot
    let ga := pget s (P.imageTarget slot)
    -- a pre-empted job may fit the shell now (11 R399)
    if sh.st = .frozen ∧ !sh.saving then shellSelect (thawed (freezeCode s slot 0) slot) slot
    else if sh.st = .saved ∧ !sh.restoring ∧ !sh.loading then
      if inHostWindow ga then emit (shellPut s slot { sh with loading := true }) (.hostRead (hostAddr ga) (saveBytes s slot))
      else restoreBegin s slot []
    else freezeCode s slot 0x0102)

/-- Put an image's channels back (02 R79, R81). -/
def channelsLoad (s : State) (slot : Nat) (l : List (List (Nat × Byte))) : State :=
  ((shellOf s slot).rig.channels.zip l).foldl (fun s p => chanUnimage s p.1 p.2) s

/-- A seat of a shell without a job runs nothing. -/
def seatIdleOf (s : State) (i : Nat) : State :=
  let t := seatOf s i
  seatPut s i { t with mode := .idle, core := { t.core with user := false } }

/-- FREEZE_RESTORE_DONE: the image is back in the shell's own resources, its job goes on, and its seats go on after the catch instruction (02 R77).
DEBUG_SEEN travels with the image (02 "When the image is taken to another module"). -/
def execFreezeRestoreDone (slot : Slot) (s : State) : Ans :=
  let sh := shellOf s slot.val
  if sh.st = .saved ∧ sh.restoring then
    let im := imageOf s (saveKey slot.val)
    let s0 := jobAdopt s slot.val im
    let s1 := channelsLoad ((sh.rig.seats.zip im.seats).foldl (fun s p => seatLoad s p.1 p.2) s0) slot.val im.channels
    let s2 := imagePut (if (shellOf s1 slot.val).job.isNone then sh.rig.seats.foldl seatIdleOf s1 else s1) (saveKey slot.val) {}
    let s3 := windowsLocal (shellPut s2 slot.val { shellOf s2 slot.val with restoring := false }) slot.val
    let s4 := if bitOf im.header 417 then pset s3 (P.debugSeen slot.val) 1 else s3
    .next (shellSelect (freezeCode (thawed s4 slot.val) slot.val 0) slot.val)
  else .next s

/-- Whether a LAUNCH that may run on a shell waits in a queue: its SHELL_MASK names the slot (11 Table Cmd-5). -/
def launchQueued (s : State) (slot : Nat) : Bool := s.ctxs.any (fun c => c.2.cmds.any (fun q => q.opcode == 1 && bitOf (q.pl 319 288) slot))

/-- FREEZE_CTL := 4: an idle shell without work asks for the header of the image at IMAGE_TARGET (02 R77, R78). -/
def freezeLoad (s : State) (slot : Nat) : State :=
  freezeCtl s slot 4 (fun s =>
    let sh := shellOf s slot
    let ga := pget s (P.imageTarget slot)
    if sh.st ≠ .idle ∨ sh.job.isSome ∨ sh.preempted ≠ [] ∨ launchQueued s slot ∨ sh.loading then freezeCode s slot 0x0102
    else if !imageSpanOk s ga 64 then freezeCode s slot 0x011E
    else
      let s1 := shellPut s slot { sh with loading := true }
      if inHostWindow ga then emit s1 (.hostRead (hostAddr ga) 64) else s1)

/-- IMAGE_HEADER_READ_DONE: the header at IMAGE_TARGET has been read, and the image is checked with the span the header gives and its seal. An idle
shell is bound to it; a saved one restores it (02 R77, R78, R80). The operands are what the host's memory holds from IMAGE_TARGET on, where
the image lies there: the header comes first, and the seat, channel and job sections are read once its span has passed (log 24). -/
def execImageHeaderReadDone (slot : Slot) (header seats channels rest : Bytes) (s : State) : Ans :=
  let host := header ++ seats ++ channels ++ rest
  let sh := shellOf s slot.val
  let ga := pget s (P.imageTarget slot.val)
  if !sh.loading then .next s
  else
    let s0 := shellPut s slot.val { sh with loading := false }
    if sh.st = .saved then .next (restoreBegin s0 slot.val host)
    -- a job that has started meanwhile forbids the load (02 R49, R77)
    else if sh.st ≠ .idle ∨ sh.job.isSome then .next (freezeCode s0 slot.val 0x0102)
    else
      let h := targetHeader s slot.val host
      if !imageSpanOk s ga (bitsOf h 255 192) then .next (freezeCode s0 slot.val 0x011E)
      else
        let s1 := if inHostWindow ga then emit s0 (.hostRead (hostAddr ga + 64) (bitsOf h 255 192 - 64)) else s0
        let (im, ok) := targetImage s slot.val host
        let c := imageCode s slot.val h ok
        if c ≠ 0 then .next (freezeCode s1 slot.val c)
        else
          let s2 := imagePut s1 (saveKey slot.val) im
          .next (freezeCode (windowsImage (shellPut s2 slot.val { shellOf s2 slot.val with st := .saved, sealOk := ok }) slot.val (saveKey slot.val)) slot.val 0)

def execFreezeCtlFreeze (slot : Slot) (s : State) : Ans := if fullUp s then .next (freezeStart s slot.val) else .next s
def execFreezeCtlSave (slot : Slot) (s : State) : Ans := if fullUp s then .next (freezeSave s slot.val) else .next s
def execFreezeCtlThaw (slot : Slot) (s : State) : Ans := if fullUp s then .next (freezeThaw s slot.val) else .next s
def execFreezeCtlLoadImage (slot : Slot) (s : State) : Ans := if fullUp s then .next (freezeLoad s slot.val) else .next s

/-! ### Scrubs and metering (02 R50, R85) -/

/-- A seat and a channel that a shell gave up have been scrubbed: they no longer count for it (02 R85). -/
def leaveDone (s : State) (seat chan : Nat) : State :=
  { s with shells := (s.shells.map (fun e => (e.1, { e.2 with leavingSeats := sDel e.2.leavingSeats seat, leavingChans := sDel e.2.leavingChans chan }))) }

/-- A job that loads on a shell is one seat nearer its start. -/
def scrubbedFor (s : State) (slot seat : Nat) : State :=
  let sh := shellOf s slot
  jobTryStart (shellPut s slot { sh with scrubbing := sDel sh.scrubbing seat }) slot

/-- SEAT_SCRUB_DONE: a seat's scrub ends: it is zero and in the state after broadcast. A seat of the pool can be taken again, a
releasing shell may be complete, and a job that waited for it may start (02 R49, R50, 11 R386). -/
def execSeatScrubDone (seat : SeatId) (s : State) : Ans :=
  let i := seat.val
  if s.scrubSeats.contains i then
    let s1 := seatScrub { s with scrubSeats := sDel s.scrubSeats i } i
    let e := islandOf s1 i
    -- the bridge is reopened once the island is out of reset (01 R37); what a shell gave up no longer counts for it (02 R85)
    let s2 := leaveDone (islandPut s1 i { e with bridge := if e.st = .running then .opened else .closed }) i 2304
    match seatShell s2 i with
    | some sl => .next (lentSettle (releaseSettle s2 sl))
    | none => .next (lentSettle s2)
  else match seatShell s i with
  | some sl =>
    if (shellOf s sl).scrubbing.contains i then .next (scrubbedFor (seatScrub s i) sl i) else .next s
  | none => .next s

/-- CHANNEL_SCRUB_DONE: a channel's scrub ends: it holds zeros and no mark (02 R50, 08 R269). -/
def execChannelScrubDone (chan : ChanId) (s : State) : Ans :=
  let c := chan.val
  if s.scrubChans.contains c then
    let s1 := memZero (leaveDone { s with scrubChans := sDel s.scrubChans c } 2304 c) (chanBase c) chanBytes
    -- a channel that waited for its retirement is retired now (08 Table Tiers-4)
    let d := chanOf s1 c
    let s2 := chanPut s1 c { d with poison := [], bad := [] }
    let s2 := if d.st = .retirePending then chanRetireFree s2 c else s2
    .next (lentSettle ((List.range 32).foldl (fun s sl => if (shellOf s sl).rig.channels.contains c then releaseSettle s sl else s) s2))
  else .next s

/-- Add to a 64-bit meter. -/
def meterAdd (s : State) (k n : Nat) : State := pset s k (min (2 ^ 64 - 1) (pget s k + n))

/-- The seats, channels and ports that count for a shell: what it holds, and what it gave up and is still being scrubbed; of a shell that is being
released what is not scrubbed yet (02 R85). A logical channel counts once, whichever physical channels serve it (02 R628). -/
def meterUnits (s : State) (sh : Shell) : Nat × Nat × Nat :=
  if sh.st = .releasing then
    (sh.rig.seats.countP (fun i => s.scrubSeats.contains i) + sh.leavingSeats.length, sh.rig.channels.countP (fun c => s.scrubChans.contains c) + sh.leavingChans.length, 0)
  else (sh.rig.seats.length + sh.leavingSeats.length, sh.rig.channels.length + sh.leavingChans.length, sh.rig.ports.length)

/-- METER_TICK: one millisecond adds to the meters of every shell that is not FREE (02 R85). -/
def execMeterTick (s : State) : Ans :=
  if s.start.msf then
    .next ((List.range 32).foldl (fun s sl =>
      let sh := shellOf s sl
      if sh.st = .free then s
      else
        let n := meterUnits s sh
        meterAdd (meterAdd (meterAdd s (P.meterSeatMs sl) n.1) (P.meterChannelMs sl) n.2.1) (P.meterPortMs sl) n.2.2) s)
  else .next s

end Sys2Proof.Machine
end

