-- ==== Sys2Proof/Machine/Safety.lean ====
section
/-! DEFINITION. Safety events, dumps, shell resets, and which shells an island or a monitor reaches (16 R537 to R549, 17). -/
namespace Sys2Proof.Machine

/-! ### What stands behind an island (13 R459, 17 Table Safety-3) -/

/-- Whether a shell has a channel, a Ghengo port or a CXL range behind ring die `k`. -/
def behindRing (s : State) (slot k : Nat) : Bool :=
  let sh := shellOf s slot
  sh.rig.channels.any (fun c => c / 12 == k) || sh.rig.ports.any (fun p => p / 2 == k)
    || (List.range 16).any (fun i => let r := rngOf s i; rngEnable r && rngOwner r == slot && (List.range (rngWays r)).any (fun w => rngPort r w == k))

/-- Whether a shell has a resource behind an island. -/
def behindIsland (s : State) (slot n : Nat) : Bool :=
  let sh := shellOf s slot
  if n < 2304 then sh.rig.seats.contains n
  else if n < 2320 then sh.rig.seats.any (fun i => i / 144 == n - 2304)
  else if n < 2328 then true
  else if n < 2336 then sh.rig.channels.any (fun c => c / 12 == n - 2328)
  else if n < 2344 then sh.rig.ports.any (fun p => p / 2 == n - 2336)
  else if n < 2352 then (List.range 16).any (fun i => let r := rngOf s i; rngEnable r && rngOwner r == slot && (List.range (rngWays r)).any (fun w => rngPort r w == n - 2344))
  else true

/-- The shells that are not FREE with a resource behind an island, in slot order. -/
def shellsBehind (s : State) (n : Nat) : List Nat := (List.range 32).filter (fun i => (shellOf s i).st != .free && behindIsland s i n)

/-- The first of them (16 Table Start-9). -/
def islandShell (s : State) (n : Nat) : Option Nat := (shellsBehind s n).head?

/-- The island a monitor event names (13 R459). -/
def monitorIsland (m : Monitor) : Nat :=
  match m with
  | .seatClock i => i.val
  | .dieClock d => 2304 + d.val
  | .dieRail d => 2304 + d.val
  | .blockClock i => 2328 + i.val
  | .gddrRail k => 2328 + k.val
  | .ringClock k => 2320 + k.val
  | .ringRail => 0xFFFF
  | .md => 2352

/-- When an island last answered the Cox: at the last poll, unless it has been silent since (16 R543). -/
def islandAnswer (s : State) (n : Nat) : Nat := let i := islandOf s n; if i.timeouts > 0 ∨ i.st = .inReset ∨ i.st = .retired then i.tbAnswer else s.start.tbPoll

/-! ### Dumps (16 R545-R549) -/

/-- Begin a dump, unless DUMP_HOLD keeps the retained one, which is counted (16 R545). DUMP_SEQ counts the dumps before it (DESIGN CHOICE, log 97). A dump that begins while another
runs takes its place. -/
def dumpBegin (s : State) (trigger island shellMask : Nat) : State :=
  if pget s P.dumpHold = 1 ∧ s.retained.dump.isSome then pinc s P.dumpsSkipped
  else
    let dbg := (List.range 32).foldl (fun a i => if (shellOf s i).debugOpen then a + 2 ^ i else a) 0
    let d : Dump := { seq := s.retained.dumpSeq, trigger := trigger, stage := pget s P.startStage, island := island, tbTrigger := s.tb
                      debugMask := dbg, shellMask := shellMask }
    { pinc s P.dumpsTaken with
      start := { s.start with dumping := some d }
      retained := { s.retained with dumpSeq := s.retained.dumpSeq + 1 } }

/-- The 64-byte header of a dump (16 Table Start-8). -/
def dumpHeader (d : Dump) (sections logOff total : Nat) : Bytes :=
  leBytes 64 (pack [(64, d.debugMask), (96, sections), (128, logOff), (160, 64 + 2353 * 32), (192, 64), (224, total),
    (256, d.tbEnd), (320, d.tbTrigger), (384, d.unreachable.length), (400, d.island), (416, d.stage), (424, d.trigger),
    (432, d.seq % 2 ^ 32), (464, 2), (480, 0x44554D50)])

/-- Whether an island is power-gated (15 R500). -/
def islandGated (s : State) (n : Nat) : Bool := (islandNow s n).st == .gated

/-- STATUS of an island (16 Table Start-9). A stopped clock leaves the island behind its closed bridge. -/
def islandStatus (s : State) (d : Dump) (n : Nat) : Nat :=
  let i := islandNow s n
  if d.unreachable.contains n then 1
  else match i.st with
    | .retired => 5
    | .inReset => 4
    | .gated => 3
    | .stopped => 2
    | .running => if i.bridge = .closed then 2 else 0

/-- The clock of an island: a seat's own, the seat-clock limit for a crossbar, rc for a ring block, as far as it is derated, and of MD's clocks
that of the Cox and the time base (00 Table Scope-4); the spec states no number for the others (01 Table Levels-5, log 1). -/
def islandClock (s : State) (n : Nat) : Nat :=
  if n < 2304 then seatMhz s (seatOf s n)
  else if n < 2320 then pget s P.seatClockLimitMhz
  else if n < 2328 then (match s.ringDerate with | some d => 1250 * d.1 / classBase 1 | none => 1250)
  else if n = 2352 then 1000
  else (Config.freeWord (s.freeCtr + n)).toNat

/-- BRIDGE_STATE of an island: of the bridge by which traffic of MD enters it, for every virtual channel how full its shared space is, whether it
drains, and whether a packet waits before it for credit (06 R210, 16 Table Start-9, log 74). -/
def bridgeState (s : State) (n : Nat) : Nat :=
  match (crossings 2352 n).getLast? with
  | none => 0
  | some c => pack ((List.range 5).map (fun v =>
      let fill := 2 - bridgeCredit s c.1 c.2 v
      (4 * v, [0, 2, 3].getD fill 3 + (if (islandNow s n).bridge = .draining then 4 else 0) + (if fill = 2 then 8 else 0))))

/-- The island record of Table Start-9. -/
def islandRecord (s : State) (d : Dump) (n : Nat) : Bytes :=
  let i := islandOf s n
  let sh := islandShell s n
  leBytes 32 (pack [(16, islandClock s n % 2 ^ 16), (32, sh.getD 0), (37, if sh.isSome then 1 else 0), (64, i.lastError % 2 ^ 32),
    (96, bridgeState s n), (128, islandAnswer s n % 2 ^ 64), (224, tget (fun _ => 0) d.accessTimeouts n % 256),
    (232, islandStatus s d n), (240, n)])

/-- The seats with a section: those of each shell the trigger stopped (16 R549). -/
def dumpSeats (s : State) (d : Dump) : List Nat :=
  (List.range 32).flatMap (fun i => if bitOf d.shellMask i then (shellOf s i).rig.seats else [])

/-- A seat section with the tenant's registers zeroed unless the shell's debug bit is set (16 R549). -/
def seatSection (s : State) (d : Dump) (seat : Nat) : Bytes :=
  let r := seatRecord s seat
  let open_ := match seatShell s seat with | some sl => bitOf d.debugMask sl | none => false
  if open_ then r else List.replicate 0x200 0 ++ slice r 0x200 0x600 ++ List.replicate 0x800 0

/-- The island records of a summary: those whose STATUS is not OK, up to 2,046 (16 R545). -/
def dumpSummary (s : State) (d : Dump) (hdr : Bytes) : Bytes :=
  hdr ++ (((List.range 2353).filter (fun n => islandStatus s d n != 0)).take 2046).flatMap (islandRecord s d)

/-- A dump ends: it becomes the retained dump, and its summary goes to flash while the hour's flash writes allow (16 R545, 13 R433). -/
def dumpEnd (s : State) (d0 : Dump) : State :=
  let d := { d0 with tbEnd := s.tb }
  let secs := dumpSeats s d
  let tbl := (List.range 2353).flatMap (islandRecord s d)
  let sect := secs.flatMap (seatSection s d)
  let log := ((List.range 32).flatMap (fun i => if bitOf d.shellMask i then (shellOf s i).errLog.flatMap errBytes else [])).take 524288
  let logOff := 64 + 2353 * 32 + 4096 * secs.length
  let hdr := dumpHeader d secs.length logOff (logOff + log.length)
  let s1 := { s with start := { s.start with dumping := none }
                     retained := { s.retained with dump := some { d with body := hdr ++ tbl ++ sect ++ log } }
                     freeCtr := s.freeCtr + 2353 }
  match flashSpend s1 with
  | some s2 => octPut s2 P.dumpSummary (dumpSummary s d hdr)
  | none => s1

/-! ### Shell reset (16 R539, Table Start-6) -/

/-- Begin a shell reset: running jobs end with `st`, pre-empted jobs ABORTED, a latched commit is rolled back with
0x0102, and a freeze is discarded (16 R539, R542). -/
def shellResetBegin (s : State) (slot st : Nat) : State :=
  let sh := shellOf s slot
  if sh.st = .free ∨ sh.st = .resetting ∨ sh.st = .releasing ∨ sh.resetPhase ≠ .none then s
  else
    let s1 := rigRollback s slot 0x0102
    let s2 := preemptedAbort (jobStop s1 slot st 0) slot
    let sh2 := shellOf s2 slot
    let s3 := windowsLocal (shellPut s2 slot { sh2 with
      resetPhase := .waiting, freezeLatch := false, freezeAt := none, preemptAt := none, saving := false, restoring := false, loading := false
      st := if sh2.st = .frozen ∨ sh2.st = .saved then .running else sh2.st, latch := sh2.latch }) slot
    pinc (if (shellOf s3 slot).migs.all (·.done) then resetEnter s3 slot else s3) P.shellResets

/-! ### Safety events (17 R561-R563) -/

/-- The detection interval of a mechanism of Table Safety-1 in ns, where the table gives a number (17 R554). -/
def mechInterval : Nat → Option Nat
  | 1 => some 40000 | 2 => some 40000 | 5 => some 86400000000000 | 7 => some 1000 | 8 => some 1000 | 9 => some 2000
  | _ => none

/-- Count the error by its mechanism (17 R568): rows 1 and 3 count in GUARD_FAILS together with row 2, and row 1 in RESIDUE_FAILS too
(log 30). -/
def mechCount (s : State) (mech : Nat) : State :=
  if mech = 1 then pinc (pinc s P.residueFails) P.guardFails
  else if mech = 2 ∨ mech = 3 then pinc s P.guardFails
  else if mech = 4 ∨ mech = 5 then pinc s P.sramUncorrectable
  else if mech = 8 then pinc s P.parityErrors
  else if mech = 9 then pinc s P.monitorEvents
  else if mech = 11 then pinc s P.signatureFails
  else if mech = 12 then pinc s P.tenderWatchdogs
  else s

/-- Whether a safety event would stop a shell: it is in use and no earlier event has latched (17 R561). -/
def safetyStops (s : State) (slot : Nat) : Bool :=
  let sh := shellOf s slot
  sh.st != .free && sh.st != .releasing && !sh.latch

/-- A safety event of a shell but for its dump (17 R561): the latch, the stop of the job as SUSPECT, the error record with its
exposure, and the reset of the shell. A later event of a latched shell files its own record and widens nothing. -/
def safetyStop (s : State) (slot mech kind : Nat) (exposedFrom : Option Nat) (e : ErrRec) : State :=
  let sh := shellOf s slot
  if sh.st = .free ∨ sh.st = .releasing then s
  else
    let tbx := match exposedFrom with | some t => some t | none => (mechInterval mech).map (fun i => s.tb - i)
    let job := sh.job
    let owner := pget s (P.ownerFunction slot)
    let exposes := match sh.tbLastOk, tbx with | some t, some x => decide (t ≥ x) | _, _ => false
    let rec1 : ErrRec := { e with kind := kind, mechanism := mech, scope := 2, shell := slot, fn := owner, exposure := tbx
                                  ctx := job.map (·.ctx), qseq := match job with | some j => j.seq | none => 0 }
    let s0 := if exposes then pinc s P.exposureRecords else s
    if sh.latch then fileError s0 true rec1
    else
      -- step 1: the latch; answers held by the egress leave SUSPECT (17 R553)
      let s1 := shellPut s0 slot { sh with latch := true }
      let s2 := (sprintSlots s1 (fun p => p.shell == slot && !p.held.isEmpty)).foldl (fun s n =>
        let p := sprintOf s n
        sprintPut s n { p with held := p.held.map (fun h => { h with suspect := true }) }) s1
      -- steps 2 to 4
      shellResetBegin (fileError (jobStop s2 slot 1 0) true rec1) slot 1

/-- A safety event on each shell of a list, in slot order, with one dump for the shells it stops (16 R549, 17 R561). A record names the
island only when a resource of its shell lies behind it (17 R565). -/
def safetyEventsBy (trigger : Nat) (s : State) (slots : List Nat) (mech kind : Nat) (exposedFrom : Option Nat) (e : ErrRec) : State :=
  let hit := slots.filter (safetyStops s)
  let s1 := slots.foldl (fun s sl => safetyStop s sl mech kind exposedFrom { e with island := if behindIsland s sl e.island then e.island else 0xFFFF }) s
  if hit = [] then s1 else dumpBegin s1 trigger e.island (hit.foldl (fun a i => a + 2 ^ i) 0)

def safetyEvents (s : State) (slots : List Nat) (mech kind : Nat) (e : ErrRec) : State := safetyEventsBy 4 s slots mech kind none e

def safetyEvent (s : State) (slot mech kind : Nat) (exposedFrom : Option Nat) (e : ErrRec) : State := safetyEventsBy 4 s [slot] mech kind exposedFrom e

/-- A safety event in a lent resource, number `j` of its lease: the lender files a record that names the lease, in DETAIL1, and no shell, and
sends the event to the borrower on GV4: lease, resource, mechanism, kind, TB_DETECT, the previous matching signature check, details (17 R563). -/
def lentFault (s : State) (l : LeaseOut) (j mech kind : Nat) (exposedFrom : Option Nat) (e : ErrRec) : State :=
  let s1 := fileError s false { e with kind := 0x0E, mechanism := mech, scope := 0, detail1 := l.id }
  emit s1 (.module l.borrower 8 [l.id, j, mech, kind, s.tb, exposedFrom.getD 0, e.detail0, e.detail1])

/-- A safety event that a seat raises on the shell that holds it, here or at its borrower. -/
def seatSafety (s : State) (seat mech kind : Nat) (exposedFrom : Option Nat) (e : ErrRec) : State :=
  match seatShell s seat with
  | some sl => safetyEvent (mechCount s mech) sl mech kind exposedFrom { e with island := seat }
  | none => match lentOf s seat with
    | some (l, j) => lentFault (mechCount s mech) l j mech kind exposedFrom { e with island := seat }
    | none => mechCount s mech

/-- A safety event in a channel, on the shell that holds it, here or at its borrower. -/
def chanSafety (s : State) (c mech kind : Nat) (e : ErrRec) : State :=
  match s.shells.find? (fun x => x.2.st != .free && shellHasChannel x.2 c) with
  | some (sl, _) => safetyEvent s sl mech kind none e
  | none => match s.lent.find? (fun l => l.kind == 2 && l.res.contains c) with
    | some l => lentFault s l (l.res.idxOf c) mech kind none e
    | none => s

/-! ### Errors of channels (08 R268 to R273) -/

/-- Error record RESOURCE_RETIRED of a shell (17 Table Safety-5): the resource is named in DETAIL0. -/
def retiredRecord (s : State) (slot island res : Nat) : State :=
  fileError s false { kind := 0x0D, scope := 2, shell := slot, fn := pget s (P.ownerFunction slot), island := island, detail0 := res }

/-- The shell that holds a channel, or copies to or from it. -/
def chanShell (s : State) (c : Nat) : Option Nat := ((liveShells s).find? (fun e => shellHasChannel e.2 c)).map (·.1)

/-- The granted lease of a channel. -/
def chanLease (s : State) (c : Nat) : Option LeaseOut := s.lent.find? (fun l => l.kind == 2 && l.res.contains c)

/-- Whether no shell, lease or other holder has a channel. -/
def chanFree (s : State) (c : Nat) : Bool :=
  !(takenChannels s 32).contains c && s.start.storeChannel != some c && !s.bhChannels.contains c && (chanLease s c).isNone && !s.scrubChans.contains c

/-- One more corrected error. A thousand within 24 h retire a free channel, and leave one that a shell holds, here or at its borrower, to be retired
when it leaves (08 R268, Table Tiers-4). -/
def chanCorrected (s : State) (c : Nat) : State :=
  let d := chanOf s c
  let d1 : Chan := { d with corrected24 := d.corrected24.filter (fun t => decide (s.tb ≤ t + 86400000000000)) ++ [s.tb] }
  let s1 := pinc (chanPut s c d1) (P.chCorrected c)
  if d1.corrected24.length < 1000 ∨ d.st ≠ .trained then s1
  else if chanFree s1 c then chanRetireFree s1 c
  else match chanShell s1 c with
  | some sl => retiredRecord (chanPut s1 c { d1 with st := .retirePending }) sl (2328 + c / 12) c
  | none => if (chanLease s1 c).isSome then
      fileError (chanPut s1 c { d1 with st := .retirePending }) false { kind := 0x0D, scope := 0, island := 2328 + c / 12, detail0 := c }
    else s1

/-- A fourth CRC failure of one access: the channel is FAILED and its shell is stopped in the safe state (08 R273, Table Tiers-4). -/
def chanFail (s : State) (c : Nat) : State :=
  let s1 := chanPut s c { chanOf s c with st := .failed }
  chanSafety s1 c 6 0x03 { island := 2328 + c / 12, detail0 := chanBase c, code := stPoisoned }

/-- Whether the read of a block finds it uncorrectable: it is so already, its ADDR_TAG is another block's, or two bits are wrong (08 R268). -/
def chanWrong (s : State) (c b : Nat) (k : ChanCheck) : Bool :=
  (chanOf s c).bad.contains b || k.error == .double || (match k.tag with | some t => t.val != addrTag b | none => false)

/-- What the read of a block does to its channel: each CRC failure repeats it and the fourth fails the channel; an uncorrectable block is counted and
noted, a corrected one counted and rewritten as it was (08 R268, R273). -/
def chanErrors (s : State) (c b : Nat) (k : ChanCheck) : State :=
  let s1 := pset s (P.chCrcRetries c) (satAdd32 (pget s (P.chCrcRetries c)) (min k.crcs.val 3))
  if k.crcs.val = 4 then chanFail s1 c
  else if (chanOf s c).poison.contains b then s1
  else if chanWrong s c b k then pinc (chanPut s1 c { chanOf s1 c with bad := sAdd (chanOf s1 c).bad b }) (P.chUncorrectable c)
  else if k.error = .single then chanCorrected s1 c
  else s1

/-- What the read of `n` bytes of memory at a place meets: on a channel the check line, and the errors that `k` names in its first block; another block
that is uncorrectable is counted as well. -/
def chanMeet (s : State) (p : Place) (n : Nat) (k : ChanCheck) : State :=
  match p with
  | .cell a (some c) _ =>
    let off := a % 0x80000000
    let rest := (chanOf s c).bad.countP (fun b => b != off / 64 && decide (b * 64 < off + n) && decide (off < b * 64 + 64))
    let s1 := chanErrors (chanTouch s c off n) c (off / 64) k
    pset s1 (P.chUncorrectable c) (satAdd32 (pget s1 (P.chUncorrectable c)) rest)
  | _ => s

/-- The first block of a span of `n` bytes that a write covers only in part (08 R269). -/
def partBlock (off n : Nat) : Option Nat :=
  if off % 64 ≠ 0 ∨ n < 64 then some (off / 64) else if (off + n) % 64 ≠ 0 then some ((off + n) / 64) else none

/-- What the merging read of a write of `n` bytes at an offset of a channel meets: an uncorrectable block is counted when the merged block is stored
(08 R269, R273). -/
def chanMerge (s : State) (c off n : Nat) (k : ChanCheck) : State :=
  match partBlock off n with
  | none => s
  | some b =>
    if k.crcs.val ≠ 4 ∧ chanWrong s c b k ∧ !(chanOf s c).poison.contains b then
      chanPut (pset s (P.chCrcRetries c) (satAdd32 (pget s (P.chCrcRetries c)) k.crcs.val)) c { chanOf s c with bad := sAdd (chanOf s c).bad b }
    else chanErrors s c b k

/-- The same of a write of `n` bytes to a place. -/
def placeMerge (s : State) (p : Place) (n : Nat) (k : ChanCheck) : State :=
  match p with
  | .cell a (some c) _ => chanMerge s c (a % 0x80000000) n k
  | _ => s

/-! ### The commands -/

/-- The shells a monitor event reaches (17 Table Safety-3). -/
def monitorShells (s : State) (m : Monitor) : List Nat :=
  let live := (List.range 32).filter (fun i => (shellOf s i).st != .free)
  match m with
  | .seatClock i => live.filter (fun sl => (shellOf s sl).rig.seats.contains i.val)
  | .dieClock d => live.filter (fun sl => (shellOf s sl).rig.seats.any (fun x => x / 144 == d.val))
  | .dieRail d => live.filter (fun sl => (shellOf s sl).rig.seats.any (fun x => x / 144 == d.val))
  | .blockClock i => live.filter (fun sl => behindRing s sl (i.val % 8))
  | .gddrRail i => live.filter (fun sl => behindRing s sl i.val)
  | .ringClock _ => live
  | .ringRail => live
  | .md => []

/-- The lent seats and channels that a monitor event reaches, by lease and number in it (17 R559, R563). -/
def monitorLent (s : State) (m : Monitor) : List (LeaseOut × Nat) :=
  let hit := fun (l : LeaseOut) (x : Nat) => match m with
    | .seatClock i => l.kind == 1 && x == i.val
    | .dieClock d => l.kind == 1 && x / 144 == d.val
    | .dieRail d => l.kind == 1 && x / 144 == d.val
    | .blockClock i => l.kind == 2 && x / 12 == i.val % 8
    | .gddrRail k => l.kind == 2 && x / 12 == k.val
    | .ringClock _ => true
    | .ringRail => true
    | .md => false
  s.lent.flatMap (fun l => (l.res.zipIdx.filter (fun p => hit l p.1)).map (fun p => (l, p.2)))

/-- A lockstep mismatch or an MD monitor event: PL7, every release stopped, the Cox halted (17 R560). -/
def lockstepStop (s : State) : State :=
  let s1 := fileError s false { kind := 0x07, mechanism := 10, scope := 0, island := 2352 }
  powerForcePl7 { s1 with start := { s1.start with releasesStopped := true } }

/-- MONITOR_EVENT: each shell the monitor reaches receives a safety event; an MD event is handled as a lockstep mismatch (17 R559, R560). -/
def execMonitorEvent (m : Monitor) (s : State) : Ans :=
  if !s.pins.inputGood then .next s
  else match m with
  | .md => .next (lockstepStop (pinc s P.monitorEvents))
  | _ =>
    let s1 := safetyEvents (pinc s P.monitorEvents) (monitorShells s m) 9 0x06 { island := monitorIsland m }
    .next ((monitorLent s m).foldl (fun s x => lentFault s x.1 x.2 9 0x06 none { island := monitorIsland m }) s1)

/-- LOCKSTEP_MISMATCH (17 R560). -/
def execLockstepMismatch (s : State) : Ans :=
  if s.pins.inputGood then .next (lockstepStop s) else .next s

end Sys2Proof.Machine
end

