-- ==== Sys2Proof/Machine/QueueReads.lean ====
section
/-! DEFINITION. What MD reads for contexts, and what comes of it: context descriptors and binding addresses, command slots and buffer entries, launch
blocks, pin lists and awaited words (08 R268, 10 R342, R350, 11 R370 to R381). -/
namespace Sys2Proof.Machine

/-! ### Reads of MD through the entries of a context -/

/-- How such a read ends: with its bytes, at a page that does not translate, refused with a status, or not yet, behind other requests or a window in HOLD. -/
inductive VaRead where
  | ok (b : Bytes)
  | fault
  | refused (st : Nat)
  | waits
  deriving DecidableEq, Repr

/-- What a read result brings from outside the module, and what a channel access of it meets. -/
def readOutside (r : ReadResult) : Outside :=
  match r with
  | .data b => { data := b }
  | .failed => {}
  | .memory k => { check := k }

/-- A place of a channel, and a place in HOLD. -/
def isChannel : Place → Bool
  | .cell _ (some _) _ => true
  | _ => false
def isHeld : Place → Bool
  | .held _ _ _ => true
  | _ => false

/-- MD reads `n` bytes at one place: what its channel meets is counted (08 R268), and an answer that is lost on the way is MD's own TIMEOUT (06 R213, R217).
`ask` sends the request of a read outside the module, which an earlier command has not sent. -/
def mdRead (s : State) (ask : Bool) (p : Place) (n : Nat) (o : Outside) : State × VaRead × Outside :=
  if placeStuck s 2352 p || isHeld p then (s, .waits, o)
  else
    let s1 := chanMeet (if ask then askRead s p n else s) p n o.check
    if !placeAnswers s 2352 p then (pinc s1 P.netTimeouts, .refused stTimeout, o)
    else
      let (st, b, o1) := placeRead s1 p n o
      (s1, if st = stOk then .ok b else .refused st, if isChannel p then { o1 with check := {} } else o1)

/-- MD reads `n` bytes at a shell virtual address of a context, page by page; a page in the host window or outside the module takes its bytes from `o`. -/
def vaReadAux (ask : Bool) (cid : Nat) : Nat → Nat → Nat → Outside → State → State × VaRead
  | 0, _, _, _, s => (s, .ok [])
  | fuel + 1, va, n, o, s =>
    if n = 0 then (s, .ok [])
    else
      let k := min n (4096 - va % 4096)
      match translate s cid va .read with
      | none => (s, .fault)
      | some ga =>
        match mdRead s ask (place s 2352 (vaShell s cid va) ga k (some cid)) k o with
        | (s1, .ok b, o1) => match vaReadAux ask cid fuel (va + k) (n - k) o1 s1 with
          | (s2, .ok b2) => (s2, .ok (b ++ b2))
          | x => x
        | (s1, x, _) => (s1, x)

/-- The whole read: none of it is made while a part of it has to wait. -/
def vaRead (s : State) (ask : Bool) (cid va n : Nat) (r : ReadResult) : State × VaRead :=
  match vaReadAux ask cid (n / 4096 + 2) va n (readOutside r) s with
  | (_, .waits) => (s, .waits)
  | x => x

/-- A read of the front end for a context, which is refused with 0x0A24 where it fails (11 R403). Errors it met may have stopped the context. -/
def frontRead (s : State) (ask : Bool) (cid va n : Nat) (r : ReadResult) (refuse : State → State) (go : State → Bytes → State) : Ans :=
  match vaRead s ask cid va n r with
  | (s1, .ok b) => .next (if (ctxOf s1 cid).st = .live then go s1 b else s1)
  | (_, .waits) => .next s
  | (s1, _) => .next (if (ctxOf s1 cid).st = .live then refuse s1 else s1)

/-! ### Context descriptors and fence bindings (10 R342, R350, 11 R366) -/

/-- A context is created from its descriptor (10 R342, R362, 11 R366). It is resident at once where a slot is free for its function (10 R344, log 58). -/
def ctxCreate (s : State) (fn seq : Nat) (b : Bytes) : State :=
  let w := leNat (b.take 64)
  let crLog2 := bitsOf w 255 251
  let crBase := bitsOf w 447 384
  let mirror := bitsOf w 511 448
  let q := bitsOf w 383 256
  let qlog := bitsOf q 82 78
  let loc := bitOf q 83
  let qbase := bitsOf q 127 84 * 4096
  let headWb := bitsOf q 71 19 * 8
  if bitsOf w 244 243 ≠ 0 ∨ bitsOf w 239 0 ≠ 0 ∨ crLog2 < 6 ∨ crLog2 > 16 ∨ mirror % 4096 ≠ 0 ∨ mirror ≥ 2 ^ 56
      ∨ crBase % (max (32 * 2 ^ crLog2) 4096) ≠ 0 ∨ crBase ≥ 2 ^ 56 then
    ctxDecide s fn seq 0 0x0A0A
  else if bitsOf q 77 72 ≠ 0 ∨ bitsOf q 18 0 ≠ 0 ∨ qlog < 6 ∨ qlog > 16 ∨ qbase % (64 * 2 ^ qlog) ≠ 0
      ∨ (loc ∧ !sliceSpanFree s qbase (64 * 2 ^ qlog)) ∨ headWb = 0 then
    ctxDecide s fn seq 0 0x0A10
  else match takeCtxId s with
    | none => ctxDecide s fn seq 0 0x0A08
    | some (cid, s0) =>
      let d : CtxDesc := {
        mirrorBase := mirror, crBase := crBase, crLog2 := crLog2, crVector := bitsOf w 250 246, crInt := bitOf w 245
        priority := bitsOf w 242 240, queueBase := qbase, queueLocal := loc, queueLog2 := qlog, headWb := headWb
        level := levelOf s fn }
      let s1 := if loc then sliceHoldQueue s0 qbase else s0
      let c : Ctx := { st := .live, fn := fn, desc := d, resident := residentFree s fn }
      ctxDecide (ctxPut s1 cid c) fn seq cid 0

/-- A fence is bound to the word at an address of its context, once that word has been read (10 R350). -/
def ctxBind (s : State) (fn : Nat) (k : CtxCmdRun) (va : Nat) (word : ReadResult) : Ans :=
  let c := ctxOf s k.ctx
  if tget (fun _ => none) c.fences k.arg ≠ none then .next (ctxDecide s fn k.seq k.ctx 0x0A0B)
  else if va ≥ 2 ^ 57 ∨ va % 8 ≠ 0 ∨ c.fences.any (fun e => match e.2 with | some x => x.va == va | none => false) then
    .next (ctxDecide s fn k.seq k.ctx 0x0A0C)
  else withAts s k.ctx .atomic va 8 <| match translate s k.ctx va .atomic with
    | none => .next (ctxDecide s fn k.seq k.ctx 0x0A0C)
    | some ga =>
      if inHostWindow ga ∧ s.ctxs.any (fun x => x.2.fences.any (fun e => match e.2 with | some y => y.ga == ga | none => false)) then
        .next (ctxDecide s fn k.seq k.ctx 0x0A0C)
      else match vaRead s true k.ctx va 8 word with
        | (_, .waits) => .next s
        | (s1, .ok wb) =>
          let v := leNat (wb.take 8)
          let nb : FenceBind := { va := va, ga := ga, promised := v, kept := v, w := v }
          let c1 := ctxOf s1 k.ctx
          .next (ctxDecide (ctxPut s1 k.ctx { c1 with fences := tset (fun _ => none) c1.fences k.arg (some nb) }) fn k.seq k.ctx 0)
        | (s1, _) => .next (ctxDecide s1 fn k.seq k.ctx 0x0A09)

/-- CTX_DESC_READ_DONE: the descriptor of a CREATE or the address of a FENCE_BIND has been read, and the command is
decided, with its checks as they stand now (10 R342, R345, R350, R362, 11 R366). For a FENCE_BIND `word` is what the read of the bound word brings; where
the word's page has no ATS translation yet, that is asked for first (09 R317). -/
def execCtxDescReadDone (fn : Fn) (r : ReadResult) (word : ReadResult) (s : State) : Ans :=
  match (fnOf s fn.val).cmd with
  | none => .next s
  | some k =>
    if k.op = 2 then .next s
    else
      let code := if k.op = 1 then ctxCreateCode s fn.val else ctxNameCode s fn.val k.ctx 3
      if code ≠ 0 then .next (ctxDecide s fn.val k.seq k.ctx code)
      else match r with
      | .data b => if k.op = 1 then .next (ctxCreate s fn.val k.seq b) else ctxBind s fn.val k (leNat (b.take 8)) word
      | _ => .next (ctxDecide s fn.val k.seq k.ctx 0x0A09)

/-! ### Command slots and buffer entries (11 R370, R371, R379) -/

/-- MD asks the host for `n` slots of a ring from its head on, in one read or, over the end of the ring, two (11 R370). -/
def ringAsk (s : State) (c : Ctx) (n : Nat) : State :=
  let size := 2 ^ c.desc.queueLog2
  let h := c.head % size
  let k := min n (size - h)
  let s1 := emit s (.hostRead (c.desc.queueBase + 64 * h) (64 * k))
  if n = k then s1 else emit s1 (.hostRead c.desc.queueBase (64 * (n - k)))

/-- MD reads `n` slots of a context's ring from its head on: in a die slice over the ring, or from the host (11 R366, R370, 01 R33). -/
def ringRead (s : State) (c : Ctx) (n : Nat) (r : ReadResult) : State × VaRead :=
  if c.desc.queueLocal then
    let p := reach s 2352 (2304 + (c.desc.queueBase - 0x200000000000) / 0x10000000) (.cell c.desc.queueBase none none)
    match mdRead s false p 0 {} with
    | (s1, .ok _, _) => (s1, .ok ((List.range n).flatMap (fun i => memRead s (c.desc.queueBase + 64 * ((c.head + i) % 2 ^ c.desc.queueLog2)) 64)))
    | (s1, x, _) => (s1, x)
  else match r with
    | .data b => (ringAsk s c n, .ok (b.take (64 * n)))
    | _ => (ringAsk s c n, .refused stTimeout)

/-- The next entry of a running command buffer is read and checked (11 R372, R379, R403). -/
def entryFetch (s : State) (cid : Nat) (k : CallRun) (r : ReadResult) : Ans :=
  let next := fun (s : State) => ctxPut s cid { ctxOf s cid with call := some { k with next := k.next + 1, openEntries := k.openEntries + 1 } }
  frontRead s true cid (k.bufferVa + 64 * k.next) 64 r (fun s => cmdRefuse (next s) cid { seq := k.seq, entry := some k.next, opcode := 0 } 0x0A24) fun s b =>
    let q := parseSlot b k.seq (some k.next)
    let code := if bitsOf (leNat (b.take 64)) 31 0 ≠ k.next then 0x0A21 else if q.opcode = 1 then 0 else slotCode (ctxOf s cid) q {}
    if code = 0 then slotAccept (next s) cid q
    else cmdRefuse (next s) cid { q with opcode := if opListed q.opcode then q.opcode else 0 } code

/-- QUEUE_FETCH_DONE: a read of ring slots, or of the next entry of the running command buffer, completes
(11 R370, R372, R379). A context that is not resident fetches nothing. -/
def execQueueFetchDone (ctx : U16) (buffer : Bool) (r : ReadResult) (s : State) : Ans :=
  let cid := ctx.toNat
  let c := ctxOf s cid
  if c.st ≠ .live ∨ !frontUp s ∨ !c.resident then .next s
  else if buffer then
    match c.call with
    | none => .next s
    | some k =>
      if k.next < k.count ∧ k.failed = [] ∧ c.cmds.all (fun q => q.entry.isNone) then
        withAts s cid .read (k.bufferVa + 64 * k.next) 64 (entryFetch s cid k r)
      else .next s
  else if c.retrying ∨ c.head = c.tail then .next s
  else
    match ringRead s c (min 16 (serialDist c.head c.tail)) r with
    | (s1, .ok b) => .next (fetchSlots cid false (min 16 (b.length / 64)) b s1)
    | (_, .waits) => .next s
    | (s1, _) => .next (cmdRefuse (ctxPut s1 cid { c with head := (c.head + 1) % 2 ^ 32 }) cid { seq := c.head, opcode := 1 } 0x0A24)

/-- SLOT_SEQ_RETRY: the mismatched slot is read once more after 2 µs (11 R371). -/
def execSlotSeqRetry (ctx : U16) (r : ReadResult) (s : State) : Ans :=
  let cid := ctx.toNat
  let c := ctxOf s cid
  if c.st = .live ∧ c.resident ∧ c.retrying ∧ frontUp s ∧ tbPast s.tb c.tbRetry 2000 then
    match ringRead s c 1 r with
    | (s1, .ok b) => .next (fetchSlots cid true 1 b s1)
    | (_, .waits) => .next s
    | (s1, _) => .next (cmdRefuse (ctxPut s1 cid { c with retrying := false, head := (c.head + 1) % 2 ^ 32 }) cid { seq := c.head, opcode := 1 } 0x0A24)
  else .next s

/-! ### Launch blocks and awaited words (11 R377, R378, R381) -/

/-- A LAUNCH whose reads are done is checked: it is validated, with its pins taken, its parameters fixed and PROMISED raised, or refused (11 R351, R377,
R378, R402, R403, R405). -/
def launchDecide (s : State) (cid : Nat) (q : QCmd) (l : Launch) : State :=
  let c := ctxOf s cid
  let code := launchCode s c q l
  if code ≠ 0 then cmdRefuse s cid q code
  else
    let tms := if q.pl 287 268 = 0 then pget s P.cmdTimeoutMs else q.pl 287 268
    let q1 := { q with
      phase := .validated, launch := l, timeoutMs := tms, holdUs := pget s P.affinityHoldUs, quantumMs := pget s P.preemptQuantumMs }
    let s1 := ctxPut s cid { c with cmds := c.cmds.map (fun x => if x.seq = q.seq ∧ x.entry = q.entry then q1 else x) }
    stampHead (if q.advEn then promise s1 cid q.advIndex q.advValue else s1) cid

/-- LAUNCH_BLOCK_READ_DONE: the launch block and pin list are read once and checked (11 R377, R378). -/
def execLaunchBlockReadDone (ctx : U16) (block pins : ReadResult) (s : State) : Ans :=
  let cid := ctx.toNat
  let c := ctxOf s cid
  match c.cmds.find? (fun q => q.opcode == 1 && q.phase == .blockRead) with
  | none => .next s
  | some q =>
    let refuse := fun (s : State) => cmdRefuse s cid q 0x0A24
    if c.st ≠ .live ∨ !frontUp s then .next s
    else withAts s cid .read (q.pl 511 461 * 64) 64 <| match vaRead s false cid (q.pl 511 461 * 64) 64 block with
    | (_, .waits) => .next s
    | (s1, .ok b) =>
      let l := parseLaunch b (q.pl 319 288)
      -- a pin list that is not aligned is not read (11 R403)
      let n := if l.pinList % 8 ≠ 0 then 0 else l.pinCount
      if (ctxOf s1 cid).st ≠ .live then .next s1
      else withAts s cid .read l.pinList (8 * n) <|
        -- the pins: generation in [63:32], index in [11:0]; a nonzero [31:12] makes the generation out of range
        match vaRead s1 true cid l.pinList (8 * n) pins with
        | (_, .waits) => .next s
        | (s2, .ok pb) => .next (if (ctxOf s2 cid).st ≠ .live then s2 else launchDecide s2 cid q { l with
            pins := (leWords 8 n pb).map (fun w => (bitsOf w 63 32 + (if bitsOf w 31 12 = 0 then 0 else 2 ^ 32), bitsOf w 11 0)) })
        | (s2, _) => .next (if (ctxOf s2 cid).st ≠ .live then s2 else refuse s2)
    | (s1, _) => .next (if (ctxOf s1 cid).st ≠ .live then s1 else refuse s1)

/-- What an awaited word says: the wait is met when its value stands at or above the threshold (11 R381, 07 R255); a poisoned met wait retires the
command DEP_POISONED (11 R382). -/
def waitLook (s : State) (cid : Nat) (v : Nat) : State :=
  let c := ctxOf s cid
  match c.cmds with
  | [] => s
  | q :: t =>
    if v < q.waitThreshold then s
    else if v ≥ 2 ^ 63 ∧ !q.ignorePoison then
      if hasRecord q.opcode q.entry && !ringRoom c then s
      else
        let (s1, q1) := takeHead (ctxPut s cid { c with cmds := { q with tbMet := some s.tb } :: t }) cid { q with tbMet := some s.tb }
        cmdRetire s1 cid q1 0x06
    else stampHead (ctxPut s cid { c with cmds := { q with waitMet := true, tbMet := some s.tb } :: t }) cid

/-- WAIT_READ_DONE: the awaited word that the front end asked for comes back. A read that is refused or times out leaves the wait unmet; one that does not
translate any more refuses the command (11 R381, R403, log 11). -/
def execWaitReadDone (ctx : U16) (r : ReadResult) (s : State) : Ans :=
  let cid := ctx.toNat
  let c := ctxOf s cid
  match c.cmds with
  | [] => .next s
  | q :: _ =>
    if !awaits c q ∨ !q.polling ∨ !frontUp s then .next s
    else
      let looked := fun (s : State) => ctxPut s cid { ctxOf s cid with
        cmds := ((ctxOf s cid).cmds.take 1).map (fun x => { x with polling := false }) ++ (ctxOf s cid).cmds.drop 1 }
      withAts s cid .read q.waitAddr 8 <| match vaRead s false cid q.waitAddr 8 r with
      | (_, .waits) => .next s
      | (s1, x) =>
        if (ctxOf s1 cid).st ≠ .live then .next s1
        else match x with
        | .ok b => .next (waitLook (looked s1) cid (leNat b))
        | .fault => .next (cmdRefuse s1 cid q 0x0A26)
        | _ => .next (looked s1)

end Sys2Proof.Machine
end

