-- ==== Sys2Proof/Machine/Traps.lean ====
section
/-! DEFINITION. Traps of a tender core, and a seat that drains at a catch point (05 R186, R192, R193). -/
namespace Sys2Proof.Machine

/-- A trap whose outcome is FAULTED: the firmware halts the seat, records cause, mtval and pc in the shell's error log, and the job
ends with its context lost (05 R193, 10 Table Host-8). -/
def seatTrap (s : State) (seat : Nat) (irq : Bool) (cause mtval : Nat) : State :=
  let t := seatOf s seat
  -- a trap in the firmware's own code leaves it to the firmware, whose code the spec does not give (05 R192, log 78)
  if t.mode = .idle ∨ t.mode = .ended then
    let c := t.core
    seatPut s seat { t with core := { c with
      mcause := cause + (if irq then 2 ^ 63 else 0), mtval := mtval, mepc := if c.fw then c.mpc else c.pc, wait := .none, fw := false } }
  else
  let c := { t.core with mcause := cause + (if irq then 2 ^ 63 else 0), mtval := mtval, mepc := t.core.pc, user := false }
  let s1 := seatPut s seat { t with core := c }
  match seatShell s seat with
  | none => lentReport (seatHalt s1 seat) seat (.trapped (BitVec.ofNat 64 c.mcause) (BitVec.ofNat 64 mtval) (BitVec.ofNat 64 t.core.pc)
      (BitVec.ofNat 64 (vzseatid s seat)) (BitVec.ofNat 64 (seatOf (seatHalt s1 seat) seat).arr.summary))
  | some slot =>
    let sh := shellOf s1 slot
    let e : ErrRec := {
      kind := 0x15, scope := 3, shell := slot, fn := match sh.job with | some j => j.fn | none => pget s (P.ownerFunction slot)
      ctx := sh.job.map (·.ctx), qseq := match sh.job with | some j => j.seq | none => 0
      island := seat, detail0 := mtval, detail1 := t.core.pc, code := cause, tbDetect := s.tb, seatId := some (vzseatid s seat) }
    let s2 := fileError s1 false e
    let sh2 := shellOf s2 slot
    jobFault (shellPut s2 slot { sh2 with errLog := sh2.errLog ++ [{ e with seq := s1.errSeq }] }) slot 2 (cause * 2 ^ 24)

/-- A lent seat's wait that counts as eligible for a pre-emption: inside PEG.WAIT, after a catch with PREEMPT_OK (11 R394). -/
def waitCounts (c : Core) : Bool :=
  (match c.wait with
    | .peg _ _ _ _ _ _ _ => true
    | .pegAny _ _ _ _ => true
    | _ => false) && catchPreemptOk c.catchDesc

/-- A wait can let a latched pre-emption take hold (11 R394). -/
def waitSettle (s : State) (seat : Nat) : State :=
  match seatShell s seat with
  | some sl => preemptTry s sl
  | none =>
    -- a lent seat that stands at a CATCH, or in a wait that counts, reports it (14 R483)
    let c := (seatOf s seat).core
    if c.wait = .catchHeld then lentReport s seat (.caught (BitVec.ofNat 64 c.reached) (BitVec.ofNat 64 c.catchDesc))
    else if waitCounts c then lentReport s seat (.waits true) else s

/-- A seat that drains at a catch point stands there once it has drained (05 R186, 02 R63). -/
def catchSettle (s : State) (seat : Nat) : State :=
  let t := seatOf s seat
  if t.core.wait = .catchDrain ∧ seatDrained t then
    waitSettle (corePut s seat { coreWait s t.core .catchHeld with reserve := none }) seat
  else s

end Sys2Proof.Machine
end

