-- ==== Sys2Proof/Machine/ArrayCmds.lean ====
section
/-! DEFINITION. The array-op queue: starting, converting, checking and retiring ops (04 R120 to R158). -/
namespace Sys2Proof.Machine

/-- Whether the job on a seat runs for a context at interface level 1 (04 R153). -/
def seatLevel1 (s : State) (seat : Nat) : Bool :=
  match seatShell s seat with
  | none => false
  | some sl => match (shellOf s sl).job with
    | some j => (ctxOf s j.ctx).desc.level == 1
    | none => false

/-- The bank a compare-mode op names (04 R120, R155). -/
def opBank (d : Nat) : Option Nat := if dOp d = 8 then some (dTile d) else if dOp d = 9 then some (dOffB d % 4) else none

/-- Whether an op waits for an earlier op that has not retired: the same tile or bank, or an operand in the earlier op's output
(04 R120, R139, R155). -/
def opWaits (d e : Nat) : Bool :=
  let tile := fun x => dOp x != 5 && dOp x != 8
  (tile d && tile e && dTile d == dTile e) || (opBank d != none && opBank d == opBank e)
    || (opReads d).any (fun r => (opWrites e).any (spansMeet r))

/-- Whether an op reads operands from the scratchpad, and whether it adds to a tile (04 R149, R152). -/
def opReadsData (d : Nat) : Bool := (dOp d == 1 && dK d != 0) || dOp d == 3 || dOp d == 8 || dOp d == 9
def opAdds (d : Nat) : Bool := (dOp d == 1 && dK d != 0) || dOp d == 3 || dOp d == 9

/-- Mark a check failure on an op (04 R152). -/
def flightFail (f : Flight) (why : Nat) : Flight := { f with failed := why, status := if why = 4 then 3 else 2, wantsConv := false }

/-- The guard check at the end of an op that adds (04 R149 to R151), and what the hardware reports of it. -/
def flightGuard (a : Arr) (f : Flight) (check : OpCheck) : Flight :=
  let d := f.op.desc
  if !opAdds d then f
  else
    let (ok, skipped) := guardCheck a d
    let f1 := { f with guardSkipped := skipped, inexact := dOp d != 9 && !dFret d }
    if check = .residue ∧ dOp d = 1 then flightFail f1 1
    else if !ok ∨ check = .guard then flightFail f1 2 else f1

/-- The part of an op on the conversion unit: LOADW's additions, a conversion or a requantising (04 R129, R134 to R136). A conversion
whose two paths differ writes nothing (17 R555). -/
def convPart (s : State) (seat : Nat) (f : Flight) : State × Flight :=
  let a := (seatOf s seat).arr
  let d := f.op.desc
  let f1 := { f with wantsConv := false, inConv := true }
  if dOp d = 3 then
    let src := scratchRead s seat (32 * dOffC d) (loadwLen d)
    -- what it loads is checked as it is read (04 R135)
    if !loadwOk src d then (s, { f1 with status := 1 })
    else
      let a1 := loadwRun src a d
      (arrPut s seat a1, flightGuard a1 f1 (if f.failed = 2 then .guard else .ok))
  else if f.failed = 3 then (s, flightFail f1 3)
  else
    let (out, flags) := if dOp d = 4 then reqRun a f else convRun a f
    let a1 := tileFlag a (dTile d) flags
    (scratchWrite (arrPut s seat a1) seat (32 * dOffC d) (if dOp d = 4 then out else convTrailer a1 d out), { f1 with wroteOutput := true })

/-- Replace a flight, found by its number. -/
def flightPut (s : State) (seat : Nat) (f : Flight) : State :=
  let a := (seatOf s seat).arr
  arrPut s seat { a with flight := a.flight.map (fun g => if g.op.seq = f.op.seq then f else g) }

/-- Give the conversion unit to the first op that waits for it, in queue order, unless an op holds it or an earlier one has failed
(04 R129). -/
def convNext (s : State) (seat : Nat) : State :=
  let fl := (seatOf s seat).arr.flight
  if fl.any (fun f => f.inConv) then s
  else match fl.find? (fun f => f.wantsConv || f.status != 0) with
    | none => s
    | some f =>
      if f.status ≠ 0 then s
      else let (s1, f1) := convPart s seat f; flightPut s1 seat f1

/-- The accumulation of an op at its start, before any conversion (04 R118, R123, R125, R126, R154, R157). All its additions come together: a contribution
merges before or after them (04 R141; DESIGN CHOICE, log 91). -/
def opAccumulate (s : State) (seat : Nat) (a : Arr) (d : Nat) : Arr :=
  -- a LOADW clears as it loads (04 R126)
  let a0 := if dClear d && dOp d != 5 && dOp d != 3 then tileClear a d else a
  match dOp d with
  | 1 => mmaRun s seat a0 d
  | 5 => { a with origin := bitsOf d 121 58 }
  | 8 => { a with banks := tset (fun _ => ({} : Bank)) a.banks (dTile d) (bankLoad s seat (dOffB d) (dK d)) }
  | 9 => cmpRun s seat a0 d
  | _ => a0

/-- Start the descriptor at the head of a seat's queue, if its op is the row's and no unretired op holds it back. A descriptor that
breaks a rule does nothing and will retire with op status 0x01; no op starts behind a failed one (04 R120, R121, R139). The op reads its operands here: a
write that races with it is not seen (04 R138; DESIGN CHOICE, log 90). -/
def opStart (op : Nat) (seat : Nat) (check : OpCheck) (s : State) : State :=
  let a := (seatOf s seat).arr
  match a.queue with
  | [] => s
  | o :: rest =>
    let d := o.desc
    if dOp d ≠ op ∧ opKnown (dOp d) then s
    else if a.flight.any (fun f => f.status != 0 || opWaits d f.op.desc) then s
    else
      let f0 : Flight := { op := o, origin := a.origin }
      -- a parity error of the array-op queue or of the scratchpad's arbiter (17 Table Safety-1, row 8)
      if check = .parity then seatSafety s seat 8 0x05 none {}
      else if !opFormatOk s seat (seatLevel1 s seat) d then
        arrPut s seat { a with queue := rest, flight := a.flight ++ [{ f0 with status := 1 }] }
      else if check = .operand ∧ opReadsData d then
        arrPut s seat { a with queue := rest, flight := a.flight ++ [flightFail f0 4] }
      else
        let a1 := opAccumulate s seat a d
        let f1 : Flight := { f0 with wantsConv := dUsesUnit d, failed := if check = .conversion ∧ dConverts d then 3 else if check = .guard ∧ dOp d = 3 then 2 else 0 }
        let f2 := if dOp d = 3 then f1 else flightGuard a1 f1 check
        let s1 := arrPut s seat { a1 with queue := rest, flight := a.flight ++ [f2] }
        -- CONV, REQ and LOADW are on the unit at once when it is free
        if dOp d = 1 ∨ dOp d = 9 then s1 else convNext s1 seat

def execOpMma (seat : SeatId) (check : OpCheck) (s : State) : Ans := .next (opStart 1 seat.val check s)
def execOpConv (seat : SeatId) (check : OpCheck) (s : State) : Ans := .next (opStart 2 seat.val check s)
def execOpLoadw (seat : SeatId) (check : OpCheck) (s : State) : Ans := .next (opStart 3 seat.val check s)
def execOpReq (seat : SeatId) (check : OpCheck) (s : State) : Ans := .next (opStart 4 seat.val check s)
def execOpOrigin (seat : SeatId) (s : State) : Ans := .next (opStart 5 seat.val .ok s)
def execOpCmpLoadt (seat : SeatId) (check : OpCheck) (s : State) : Ans := .next (opStart 8 seat.val check s)
def execOpCmp (seat : SeatId) (check : OpCheck) (s : State) : Ans := .next (opStart 9 seat.val check s)

/-- CONVERSION_UNIT_START: a held conversion begins when the unit is free (04 R129). -/
def execConversionUnitStart (seat : SeatId) (s : State) : Ans := .next (convNext s seat.val)

/-- The safety event of a failed check or operand read (04 R152, 17 Table Safety-5). -/
def checkEvent (s : State) (seat mech status : Nat) : State :=
  seatSafety s seat mech (if mech = 4 then 2 else 1) none { code := status }

/-- ARR_OP_RETIRE: the oldest started op retires, after its conversion if that is still to come. A format error squashes the queue and
raises the array-op format trap; a failed check squashes it and raises a safety event (04 R121, R140, R151, R152). -/
def execArrOpRetire (seat : SeatId) (s : State) : Ans :=
  let i := seat.val
  let s1 := match (seatOf s i).arr.flight with | f :: _ => if f.wantsConv then convNext s i else s | [] => s
  let a := (seatOf s1 i).arr
  match a.flight with
  | [] => .next s
  | f :: rest =>
    let a1 := arrPost { a with flight := rest } f f.status
    if f.status = 0 then
      let s2 := arrPut s1 i a1
      .next (catchSettle (if dPegEn f.op.desc && dOp f.op.desc != 5 then pegWrite s2 i (dPeg f.op.desc) true else s2) i)
    else
      let s2 := arrPut s1 i (arrSquash a1)
      .next (if f.status = 1 then seatTrap s2 i true 16 (f.op.seq % 2 ^ 16) else checkEvent s2 i f.failed f.status)

/-- MMA_PAUSE: the guard check and the residue collection of a long MMA's pause; a failure ends the op (04 R130, R147, R152). -/
def execMmaPause (seat : SeatId) (check : OpCheck) (s : State) : Ans :=
  let a := (seatOf s seat.val).arr
  match a.flight.find? (fun f => dOp f.op.desc == 1 && f.status == 0 && !f.inConv && dK f.op.desc != 0) with
  | none => .next s
  | some f =>
    if check = .residue then .next (flightPut s seat.val (flightFail f 1))
    else
      -- a row that is special now is skipped, and the op reports it (04 R150)
      let (ok, skipped) := guardCheck a f.op.desc
      let f1 := { f with guardSkipped := f.guardSkipped || skipped }
      .next (flightPut s seat.val (if check = .guard ∨ !ok then flightFail f1 2 else f1))

/-- GUARD_CHECK_MERGED: every row of a tile that has received merged words is checked; a failure is a safety event (04 R149, R152). -/
def execGuardCheckMerged (seat : SeatId) (tile : Fin 12) (bad : Bool) (s : State) : Ans :=
  let a := (seatOf s seat.val).arr
  if !a.merged.contains tile.val then .next s
  else
    let ok := (List.range 16).all (fun i => (guardRow a tile.val i false).1)
    let s1 := arrPut s seat.val { a with merged := a.merged.filter (· != tile.val) }
    if ok && !bad then .next s1
    else .next (checkEvent (arrPut s1 seat.val (arrSquash (seatOf s1 seat.val).arr)) seat.val 2 2)

end Sys2Proof.Machine
end

