-- ==== Sys2Proof/Machine/Rv64.lean ====
section
/-! DEFINITION. The instructions of CORE_COMPUTE over the registers of a core: RV64IM, Zba and Zbb, and F and D with one rounding
(05 R159 to R161; the effect of each instruction is the RISC-V one, log 33). -/
namespace Sys2Proof.Machine

/-! ### Integers -/

/-- A 64-bit register value as a signed integer, and back. -/
def s64 (n : Nat) : Int := if n ≥ 2 ^ 63 then (n : Int) - 2 ^ 64 else n
def u64 (i : Int) : Nat := Int.toNat (i % (2 ^ 64 : Int))
/-- The low 32 bits of a value, sign-extended to 64. -/
def sext32 (n : Nat) : Nat := let w := n % 2 ^ 32; if w ≥ 2 ^ 31 then w + (2 ^ 64 - 2 ^ 32) else w
def s32 (n : Nat) : Int := let w : Nat := n % 2 ^ 32; if w ≥ 2 ^ 31 then (w : Int) - 2 ^ 32 else w
/-- A value of `w` bits, sign-extended to 64. -/
def sextW (w n : Nat) : Nat := let v := n % 2 ^ w; if bitOf v (w - 1) then v + (2 ^ 64 - 2 ^ w) else v

/-- Rotation to the left in a word of `w` bits. -/
def rotL (w n k : Nat) : Nat := let v := n % 2 ^ w; (v * 2 ^ k % 2 ^ w) + v / 2 ^ (w - k)

/-- Signed division and remainder with the RISC-V results for a zero divisor; −2^(w−1) by −1 wraps. -/
def divS (a b : Int) : Int := if b = 0 then -1 else Int.tdiv a b
def remS (a b : Int) : Int := if b = 0 then a else Int.tmod a b
def divU (top a b : Nat) : Nat := if b = 0 then top else a / b
def remU (a b : Nat) : Nat := if b = 0 then a else a % b

/-- An integer operation of two operands. -/
def alu (op : AluOp) (a b : Nat) : Nat :=
  match op with
  | .add => (a + b) % 2 ^ 64
  | .sub => (a + 2 ^ 64 - b) % 2 ^ 64
  | .sll => a * 2 ^ (b % 64) % 2 ^ 64
  | .slt => if s64 a < s64 b then 1 else 0
  | .sltu => if a < b then 1 else 0
  | .xor => a ^^^ b
  | .srl => a / 2 ^ (b % 64)
  | .sra => u64 (s64 a / 2 ^ (b % 64))
  | .or => a ||| b
  | .and => a &&& b
  | .addw => sext32 (a + b)
  | .subw => sext32 (a + 2 ^ 64 - b)
  | .sllw => sext32 (a * 2 ^ (b % 32))
  | .srlw => sext32 (a % 2 ^ 32 / 2 ^ (b % 32))
  | .sraw => u64 (s32 a / 2 ^ (b % 32))
  | .mul => a * b % 2 ^ 64
  | .mulh => u64 (s64 a * s64 b / 2 ^ 64)
  | .mulhsu => u64 (s64 a * b / 2 ^ 64)
  | .mulhu => a * b / 2 ^ 64
  | .div => u64 (divS (s64 a) (s64 b))
  | .divu => divU (2 ^ 64 - 1) a b
  | .rem => u64 (remS (s64 a) (s64 b))
  | .remu => remU a b
  | .mulw => sext32 (a * b)
  | .divw => sext32 (u64 (divS (s32 a) (s32 b)))
  | .divuw => sext32 (divU (2 ^ 32 - 1) (a % 2 ^ 32) (b % 2 ^ 32))
  | .remw => sext32 (u64 (remS (s32 a) (s32 b)))
  | .remuw => sext32 (remU (a % 2 ^ 32) (b % 2 ^ 32))
  | .andn => a &&& (2 ^ 64 - 1 - b)
  | .orn => a ||| (2 ^ 64 - 1 - b)
  | .xnor => 2 ^ 64 - 1 - (a ^^^ b)
  | .max => if s64 a < s64 b then b else a
  | .maxu => max a b
  | .min => if s64 b < s64 a then b else a
  | .minu => min a b
  | .rol => rotL 64 a (b % 64)
  | .ror => rotL 64 a ((64 - b % 64) % 64)
  | .rolw => sext32 (rotL 32 a (b % 32))
  | .rorw => sext32 (rotL 32 a ((32 - b % 32) % 32))
  | .sh1add => (2 * a + b) % 2 ^ 64
  | .sh2add => (4 * a + b) % 2 ^ 64
  | .sh3add => (8 * a + b) % 2 ^ 64
  | .adduw => (a % 2 ^ 32 + b) % 2 ^ 64
  | .sh1adduw => (2 * (a % 2 ^ 32) + b) % 2 ^ 64
  | .sh2adduw => (4 * (a % 2 ^ 32) + b) % 2 ^ 64
  | .sh3adduw => (8 * (a % 2 ^ 32) + b) % 2 ^ 64
  | .slliuw => a % 2 ^ 32 * 2 ^ (b % 64) % 2 ^ 64

/-- The number of 1 bits below bit `n`, and of trailing zeros. -/
def cpopN (n v : Nat) : Nat := ((List.range n).filter (fun i => bitOf v i)).length
def ctzN (n v : Nat) : Nat := ((List.range n).takeWhile (fun i => !bitOf v i)).length
def clzN (n v : Nat) : Nat := ((List.range n).takeWhile (fun i => !bitOf v (n - 1 - i))).length

/-- An integer operation of one operand. -/
def unary (op : UnOp) (a : Nat) : Nat :=
  match op with
  | .clz => clzN 64 a
  | .ctz => ctzN 64 a
  | .cpop => cpopN 64 a
  | .clzw => clzN 32 a
  | .ctzw => ctzN 32 a
  | .cpopw => cpopN 32 a
  | .sextb => sextW 8 a
  | .sexth => sextW 16 a
  | .zexth => a % 2 ^ 16
  | .orcb => leNat ((leBytes 8 a).map (fun b => if b = 0 then 0 else 0xFF))
  | .rev8 => leNat (leBytes 8 a).reverse

def branchTaken (op : BrOp) (a b : Nat) : Bool :=
  match op with
  | .eq => a == b
  | .ne => a != b
  | .lt => decide (s64 a < s64 b)
  | .ge => decide (s64 b ≤ s64 a)
  | .ltu => decide (a < b)
  | .geu => decide (b ≤ a)

/-! ### Floating point (05 R161) -/

/-- A register of F or D as the bits of its format: a single that is not NaN-boxed reads as the canonical NaN. -/
def fBits (c : Core) (dbl : Bool) (r : Nat) : Nat :=
  let v := fGet c r
  if dbl then v else if v / 2 ^ 32 = 2 ^ 32 - 1 then v % 2 ^ 32 else fpNan 8 23

/-- Write a register of F or D; a single is NaN-boxed. -/
def fPutBits (c : Core) (dbl : Bool) (r v : Nat) : Core := fPut c r (if dbl then v else v + (2 ^ 64 - 2 ^ 32))

def expBits (dbl : Bool) : Nat := if dbl then 11 else 8
def manBits (dbl : Bool) : Nat := if dbl then 52 else 23
def fVal (c : Core) (dbl : Bool) (r : Nat) : FV := fpDec (expBits dbl) (manBits dbl) (fBits c dbl r)

/-- The rounding mode of an rm field: 7 takes frm; 5, 6 and a reserved frm are none. -/
def rmOf (c : Core) (rm : Nat) : Option RMode :=
  match if rm = 7 then bitsOf c.fcsr 7 5 else rm with
  | 0 => some .rne
  | 1 => some .rtz
  | 2 => some .rdn
  | 3 => some .rup
  | 4 => some .rmm
  | _ => none

/-- OR exception flags into fcsr. -/
def fFlags (c : Core) (f : Nat) : Core := { c with fcsr := c.fcsr ||| f }

/-- Turn the sign bit of an encoding. -/
def signPut (dbl : Bool) (v s : Nat) : Nat := let w := expBits dbl + manBits dbl; v % 2 ^ w + s * 2 ^ w
def signOf (dbl : Bool) (v : Nat) : Nat := v / 2 ^ (expBits dbl + manBits dbl) % 2

/-- Minimum and maximum: a NaN yields to a number, −0 is below +0, and a signalling NaN is invalid. -/
def fMinMax (dbl isMax : Bool) (a b : Nat) : Nat × Nat :=
  let va := fpDec (expBits dbl) (manBits dbl) a
  let vb := fpDec (expBits dbl) (manBits dbl) b
  let fl := sigFlag [va, vb]
  match va, vb with
  | .nan _, .nan _ => (fpNan (expBits dbl) (manBits dbl), fl)
  | .nan _, _ => (b, fl)
  | _, .nan _ => (a, fl)
  | _, _ =>
    let aFirst := match fpCmp va vb with
      | some .lt => true
      | some .eq => signOf dbl a == 1
      | _ => false
    (if aFirst != isMax then a else b, fl)

/-- The arithmetic operations: result bits and flags; none when the rounding mode is reserved. -/
def fArith (c : Core) (op : FOp) (dbl : Bool) (r1 r2 r3 rm : Nat) : Option (Nat × Nat) :=
  let ew := expBits dbl
  let mw := manBits dbl
  let a := fVal c dbl r1
  let b := fVal c dbl r2
  let d := fVal c dbl r3
  match op with
  | .add => (rmOf c rm).map (fun m => fpAdd ew mw m a b)
  | .sub => (rmOf c rm).map (fun m => fpAdd ew mw m a b.neg)
  | .mul => (rmOf c rm).map (fun m => fpMul ew mw m a b)
  | .div => (rmOf c rm).map (fun m => fpDiv ew mw m a b)
  | .sqrt => (rmOf c rm).map (fun m => fpSqrt ew mw m a)
  | .madd => (rmOf c rm).map (fun m => fpFma ew mw m a b d)
  | .msub => (rmOf c rm).map (fun m => fpFma ew mw m a b d.neg)
  | .nmsub => (rmOf c rm).map (fun m => fpFma ew mw m a.neg b d)
  | .nmadd => (rmOf c rm).map (fun m => fpFma ew mw m a.neg b d.neg)
  | .min => some (fMinMax dbl false (fBits c dbl r1) (fBits c dbl r2))
  | .max => some (fMinMax dbl true (fBits c dbl r1) (fBits c dbl r2))
  | .sgnj => some (signPut dbl (fBits c dbl r1) (signOf dbl (fBits c dbl r2)), 0)
  | .sgnjn => some (signPut dbl (fBits c dbl r1) (1 - signOf dbl (fBits c dbl r2)), 0)
  | .sgnjx => some (signPut dbl (fBits c dbl r1) ((signOf dbl (fBits c dbl r1) + signOf dbl (fBits c dbl r2)) % 2), 0)

/-- FEQ is quiet; FLT and FLE signal invalid for any NaN. -/
def fCompare (op : FCmp) (a b : FV) : Nat × Nat :=
  match fpCmp a b with
  | none => (0, match op with | .eq => sigFlag [a, b] | _ => 16)
  | some o => (match op, o with | .eq, .eq => 1 | .lt, .lt => 1 | .le, .lt => 1 | .le, .eq => 1 | _, _ => 0, 0)

/-- FCLASS. -/
def fClass (dbl : Bool) (v : Nat) : Nat :=
  let neg := signOf dbl v = 1
  match fpDec (expBits dbl) (manBits dbl) v with
  | .nan sg => if sg then 0x100 else 0x200
  | .inf n => if n then 1 else 0x80
  | .num _ m _ =>
    if m = 0 then (if neg then 8 else 16)
    else if m < 2 ^ manBits dbl then (if neg then 4 else 32)
    else (if neg then 2 else 64)

/-- A conversion to an integer: out of range or NaN saturates and is invalid. -/
def fToInt (rm : RMode) (uns long : Bool) (v : FV) : Nat × Nat :=
  let w := if long then 64 else 32
  let lo : Int := if uns then 0 else -(2 ^ (w - 1))
  let hi : Int := if uns then 2 ^ w - 1 else 2 ^ (w - 1) - 1
  let put := fun (i : Int) => if long then u64 i else sext32 (u64 i)
  match v with
  | .nan _ => (put hi, 16)
  | .inf n => (put (if n then lo else hi), 16)
  | .num n m e =>
    let (i, ix) := fpToInt rm n m e
    if i < lo then (put lo, 16) else if i > hi then (put hi, 16) else (put i, if ix then 1 else 0)

/-- The integer that a conversion from a register reads. -/
def intOf (uns long : Bool) (v : Nat) : Int :=
  if long then (if uns then (v : Int) else s64 v) else if uns then ((v % 2 ^ 32 : Nat) : Int) else s32 v

/-- The core after an instruction at its pc, of `size` bytes, has executed; none when it is illegal. -/
def computeRun (c : Core) (size : Nat) (i : Compute) : Option Core :=
  let nxt := (c.pc + size) % 2 ^ 64
  let go := fun (c1 : Core) => some { c1 with pc := nxt }
  match i with
  | .illegal => none
  | .alu op rd r1 src =>
    let b := match src with | .reg r => xGet c r.val | .imm v => v.toNat
    go (xPut c rd.val (alu op (xGet c r1.val) b))
  | .unary op rd r1 => go (xPut c rd.val (unary op (xGet c r1.val)))
  | .lui rd imm => go (xPut c rd.val (sext32 (imm.toNat * 4096)))
  | .auipc rd imm => go (xPut c rd.val (c.pc + sext32 (imm.toNat * 4096)))
  | .jal rd off => some { xPut c rd.val nxt with pc := (c.pc + sextW 21 (off.toNat / 2 * 2)) % 2 ^ 64 }
  | .jalr rd r1 off => some { xPut c rd.val nxt with pc := (xGet c r1.val + sextW 12 off.toNat) % 2 ^ 64 / 2 * 2 }
  | .branch op r1 r2 off =>
    if branchTaken op (xGet c r1.val) (xGet c r2.val) then some { c with pc := (c.pc + sextW 13 (off.toNat / 2 * 2)) % 2 ^ 64 } else go c
  | .farith op dbl rd r1 r2 r3 rm =>
    match fArith c op dbl r1.val r2.val r3.val rm.val with
    | some (v, f) => go (fFlags (fPutBits c dbl rd.val v) f)
    | none => none
  | .fcmp op dbl rd r1 r2 =>
    let (v, f) := fCompare op (fVal c dbl r1.val) (fVal c dbl r2.val)
    go (fFlags (xPut c rd.val v) f)
  | .fclass dbl rd r1 => go (xPut c rd.val (fClass dbl (fBits c dbl r1.val)))
  | .fmvToX dbl rd r1 => go (xPut c rd.val (if dbl then fGet c r1.val else sext32 (fGet c r1.val)))
  | .fmvFromX dbl rd r1 => go (fPutBits c dbl rd.val (if dbl then xGet c r1.val else xGet c r1.val % 2 ^ 32))
  | .fcvtToInt dbl uns long rd r1 rm =>
    match rmOf c rm.val with
    | some m => let (v, f) := fToInt m uns long (fVal c dbl r1.val); go (fFlags (xPut c rd.val v) f)
    | none => none
  | .fcvtFromInt dbl uns long rd r1 rm =>
    match rmOf c rm.val with
    | some m =>
      let (v, f) := fpOfInt (expBits dbl) (manBits dbl) m (intOf uns long (xGet c r1.val)) 0 false
      go (fFlags (fPutBits c dbl rd.val v) f)
    | none => none
  | .fcvtFF toDbl rd r1 rm =>
    match rmOf c rm.val with
    | some m =>
      let v := fVal c (!toDbl) r1.val
      let (b, f) := fpPut (expBits toDbl) (manBits toDbl) m v
      go (fFlags (fPutBits c toDbl rd.val b) (f ||| sigFlag [v]))
    | none => none

end Sys2Proof.Machine
end

