-- ==== Sys2Proof/Machine/Tender.lean ====
section
/-! DEFINITION. The tender core: fetching and retiring an instruction, its addresses and caches, memory accesses, fences, machine mode
and CSRs (05 R159 to R169, R190, 06 R214, 07 R242 to R248). -/
namespace Sys2Proof.Machine

/-! ### Addresses (05 R162, R164) -/

/-- The shell and the job that a seat runs for. -/
def coreJob (s : State) (seat : Nat) : Option (Nat × Job) :=
  match seatShell s seat with
  | none => none
  | some sl => (shellOf s sl).job.map (fun j => (sl, j))

/-- What a user-mode address names. -/
inductive CoreAddr where
  | own (off : Nat)
  | at (ga : Nat)
  | ats (fn page : Nat)
  | fault
  deriving DecidableEq, Repr

/-- Read a user-mode address for an access of `n` bytes (05 R162). A Boathouse aperture is reached by transfers only (14 R494). -/
def coreAddr (s : State) (seat va n : Nat) (a : Acc) : CoreAddr :=
  if va / 2 ^ 57 = 0x40 then (if va % 2 ^ 57 + n ≤ scratchBytes then .own (va % 2 ^ 57) else .fault)
  else if va / 2 ^ 57 ≠ 0 then .fault
  else match coreJob s seat with
  | none => if (lentOf s seat).isSome then .at (lentWindow + va) else .fault
  | some (_, j) => match translatePins s j.ctx j.launch.pins va a with
    | .ok ga => if inPeerWindow ga ∧ inBoathouse s (ga - 0x800000000000) then .fault else .at ga
    | .fault _ => .fault
    | .ats f p => .ats f p

/-- Where an access of a seat's core to a global address lands. -/
def corePlace (s : State) (seat ga n : Nat) : Place := place s seat (seatShell s seat) ga n

/-- Places whose answer comes from outside the module. -/
def placeOutside : Place → Bool
  | .far _ _ _ _ _ _ _ => true
  | .host _ => true
  | _ => false

/-- Whether a place is a held window, whose accesses are answered after its copy. -/
def placeHeld : Place → Bool
  | .held _ _ _ => true
  | _ => false

/-- Whether an access of a core to a place, or to the seat at an address, is not answered yet: the window is in HOLD, earlier packets to that
seat wait, its own packet waits in a link block or behind others, or the response has met a closed bridge (01 R34, 02 R69, 06 R213, 07 R238). -/
def coreUnanswered (s : State) (seat ga : Nat) (p : Place) : Bool :=
  placeHeld p || behind s seat ga || placeStuck s seat p || !placeAnswers s seat p || (placeOutside p && ghUnasked s seat)

/-! ### Executing an instruction -/

/-- A POISONED status that reaches a seat is a safety event, by the mechanism of where the data lay (06 R214, 17 Table Safety-5). -/
def seatPoison (s : State) (seat va ga : Nat) : State :=
  seatSafety s seat (if ga < 0x3000000000 then 6 else if 0x200000000000 ≤ ga ∧ ga < 0x200100000000 then 4 else 0) 3 none
    { code := stPoisoned, detail0 := va, detail1 := (seatOf s seat).core.pc }

/-- A status other than OK for a core's access: POISONED is a safety event, every other an access fault with cause 1 for a fetch, 5 for a load
and 7 for a store or an atomic (05 R164, 06 R214). -/
def coreStatus (s : State) (seat st va ga cause : Nat) : State :=
  if st = stPoisoned then seatPoison s seat va ga else seatTrap s seat false cause va

/-- The access fault of an address that does not translate; a denied ATS translation is asked for again by the next access (05 R162, 09 R317). -/
def accessTrap (s : State) (seat cause va : Nat) : State :=
  match coreJob s seat with
  | some (_, j) => seatTrap (atsForget s j.ctx va) seat false cause va
  | none => seatTrap s seat false cause va

/-- A core's access through a range entry passes its die's range cache (09 R316). -/
def coreTouch (s : State) (seat va : Nat) : State :=
  match coreJob s seat with
  | some (_, j) => rangeTouch s (seat / 144) j.ctx va
  | none => s

/-- Put a line into the 4-way I cache: a full set gives up a line that the spec does not name (05 R166, log 20). -/
def icacheIn (s : State) (seat : Nat) (l : DLine) : State :=
  let c := (seatOf s seat).core
  let set := c.icache.filter (fun x => x.ga / 64 % 128 == l.ga / 64 % 128)
  let out := if set.length < 4 then none else set[(Config.freeWay s.freeCtr).val % 4]?
  corePut (if out.isSome then freeNext s else s) seat { c with icache := c.icache.filter (fun x => some x != out) ++ [l] }

/-- How a fetch stands. -/
inductive Fetch where
  | done (s : State)
  /-- It has trapped, stopped the seat, or waits for its response or its translation. -/
  | stops (s : State)
  deriving DecidableEq, Repr

/-- The fetch of the two bytes at an address (05 R164, R166): from the own scratchpad, from the I cache, from a line that is brought in, or from
an address that is not cached. What comes from outside the module, or from a seat that is being moved, is waited for. -/
def fetchAt (s : State) (seat va : Nat) : Fetch :=
  match coreAddr s seat va 2 .read with
  | .own _ => .done s
  | .ats f p => .stops (emit s (.atsRequest f p))
  | .fault => .stops (accessTrap s seat 1 va)
  | .at ga =>
    let s := coreTouch s seat va
    let c := (seatOf s seat).core
    let (a, n) := if cacheable ga then (ga / 64 * 64, 64) else (ga, 2)
    if (cacheable ga && c.icache.any (fun l => l.ga == a)) || c.fetched.contains ga then .done s
    else
      let p := corePlace s seat a n
      if placeOutside p ∨ coreUnanswered s seat ga p then .stops (askRead (corePut s seat (coreWait s c (.fetch va ga))) p n)
      else
        let s := chanMeet s p n {}
        let (st, b, _) := placeRead s p n {}
        if st ≠ stOk then .stops (coreStatus s seat st va ga 1)
        else if cacheable ga then .done (icacheIn s seat { ga := a, va := va, data := b }) else .done s

/-- The response to a fetch arrives (05 R164). -/
def fetchAnswer (s : State) (seat va ga : Nat) (o : Outside) : State :=
  let (a, n) := if cacheable ga then (ga / 64 * 64, 64) else (ga, 2)
  let p := corePlace s seat a n
  if coreUnanswered s seat ga p then s
  else
    let s := chanMeet s p n o.check
    let (st, b, _) := placeRead s p n o
    if st ≠ stOk then coreStatus s seat st va ga 1
    else
      let s1 := corePut s seat (coreWake s (seatOf s seat).core)
      if cacheable ga then icacheIn s1 seat { ga := a, va := va, data := b }
      else corePut s1 seat { (seatOf s1 seat).core with fetched := (seatOf s1 seat).core.fetched ++ [ga] }

/-- The fetch of an instruction of `size` bytes at the pc, two bytes at a time (05 R164). -/
def coreFetch (s : State) (seat size : Nat) : Fetch :=
  match fetchAt s seat (seatOf s seat).core.pc with
  | .done s1 => if size = 4 then fetchAt s1 seat (((seatOf s seat).core.pc + 2) % 2 ^ 64) else .done s1
  | r => r

/-- Execute one instruction of `size` bytes on a seat's core, if the core runs user code and waits for nothing: its bytes are fetched,
and `f` gives its effect (05 R160, R164). -/
def coreStep (seat size : Nat) (s : State) (f : State → Core → State) : Ans :=
  let t := seatOf s seat
  if t.mode ≠ .run ∨ t.core.wait ≠ .none ∨ !t.core.user then .next s
  else match coreFetch s seat size with
  | .stops s1 => .next s1
  | .done s1 =>
    let c := { (seatOf s1 seat).core with isz := size }
    .next (f (corePut s1 seat c) c)

/-- Execute one instruction that user code and the firmware may execute. The firmware runs in machine mode on a seat that is idle or has ended, from
its own store, at its own pc; its code is not in the spec, and the model lets it execute every instruction but the two that belong to a job's part, CATCH
and SEAT.END. A wait of it ends at its own pc (05 R159, R165, R192, log 78). -/
def coreStepM (seat size : Nat) (s : State) (f : State → Core → State) : Ans :=
  let t := seatOf s seat
  if t.core.user ∨ (t.mode ≠ .idle ∧ t.mode ≠ .ended) then coreStep seat size s f
  else if t.core.wait ≠ .none ∨ (islandNow s seat).st ≠ .running then .next s
  else
    let c := { t.core with isz := size, pc := t.core.mpc, fw := false }
    let s1 := f (corePut s seat c) c
    let c1 := (seatOf s1 seat).core
    .next (corePut s1 seat { c1 with mpc := c1.pc % 32768, pc := t.core.pc, fw := c1.wait != .none })

/-- Bytes of an instruction that may be compressed. -/
def insnSize (compressed : Bool) : Nat := if compressed then 2 else 4

/-- The instruction retires: the pc of the mode it ran in moves past it. -/
def coreRetire (s : State) (seat : Nat) (c : Core) : State :=
  let c1 := { coreWake s c with instret := (c.instret + 1) % 2 ^ 64, fetched := [], fw := false }
  corePut s seat (if c.fw && !c.user then { c1 with mpc := (c.mpc + c.isz) % 32768 } else { c1 with pc := (c.pc + c.isz) % 2 ^ 64 })

/-- The illegal-instruction exception, with the instruction's bits. -/
def coreIllegal (s : State) (seat bits : Nat) : State := seatTrap s seat false 2 bits

/-! ### Stores and the data cache (05 R166 to R168) -/

/-- A store is out, with a number of its own. -/
def storeOut (s : State) (seat va ga st : Nat) (outside waits : Bool) (gh : Option (Nat × Nat × Nat) := none) : State :=
  let c := (seatOf s seat).core
  corePut { s with nextId := s.nextId + 1 } seat
    { c with stores := c.stores ++ [{ va := va, ga := ga, status := st, outside := outside, tb := s.tb, tag := s.nextId, waits := waits, gh := gh }] }

/-- Store toward a place and await its acknowledgement (06 R214). A host write is posted; the first after a release at system scope carries no
Relaxed Ordering (07 R236). A store to a logical seat's window goes behind those of its source that wait, and to a peg word it is a peg write
(06 R199 to R201). -/
def coreWrite (s : State) (seat va ga : Nat) (b : Bytes) : State :=
  let p := corePlace s seat ga b.length
  match p, windowOf ga with
  | .host a, _ =>
    coreHostWrite s seat a b
  | .far port dst _ _ off _ seats, _ =>
    let (s1, st) := placeWrite s p b {}
    storeOut s1 seat va ga st true false (some (port, dst, farGv seats off b.length))
  | .no st, _ => storeOut s seat va ga st false false
  | .closed n, _ => storeOut (countClosed s n) seat va ga stClosed false false
  | _, some (slot, l, off) =>
    netSend true (storeOut s seat va ga stOk false true)
      { slot := slot, lseat := l, off := off, op := writeOp s seat slot l off b, src := seat, back := .store seat s.nextId } {}
  | _, none =>
    let (s1, st) := placeWrite s p b {}
    storeOut s1 seat va ga st false false

/-- The line that caches an address. -/
def lineAt (c : Core) (ga : Nat) : Option DLine := c.dcache.find? (fun l => l.ga == ga / 64 * 64)

/-- Write a dirty line back. -/
def lineOut (s : State) (seat : Nat) (l : DLine) : State := if l.dirty then coreWrite s seat l.va l.ga l.data else s

/-- Write back every dirty line, then keep the lines clean or invalidate them (05 Table Tender-2). -/
def cacheFlush (s : State) (seat : Nat) (invalidate : Bool) : State :=
  let s1 := (seatOf s seat).core.dcache.foldl (fun s l => lineOut s seat l) s
  let c := (seatOf s1 seat).core
  corePut s1 seat { c with dcache := if invalidate then [] else c.dcache.map (fun l => { l with dirty := false }) }

/-- Write back and invalidate the line that holds an address (07 R245). -/
def lineDrop (s : State) (seat ga : Nat) : State :=
  match lineAt (seatOf s seat).core ga with
  | none => s
  | some l =>
    let s1 := lineOut s seat l
    let c := (seatOf s1 seat).core
    corePut s1 seat { c with dcache := c.dcache.filter (fun x => x.ga != l.ga) }

/-- Put a line into the 8-way cache: a full set gives up a line that the spec does not name (05 R166, log 20). -/
def lineIn (s : State) (seat : Nat) (l : DLine) : State :=
  let set := (seatOf s seat).core.dcache.filter (fun x => x.ga / 64 % 64 == l.ga / 64 % 64)
  let s1 := if set.length < 8 then s
    else match set[(Config.freeWay s.freeCtr).val]? with
      | some v => freeNext (lineDrop s seat v.ga)
      | none => s
  let c := (seatOf s1 seat).core
  corePut s1 seat { c with dcache := c.dcache ++ [l] }

/-- Change a cached line. -/
def linePut (s : State) (seat : Nat) (l : DLine) : State :=
  let c := (seatOf s seat).core
  corePut s seat { c with dcache := c.dcache.map (fun x => if x.ga = l.ga then l else x) }

/-- A line with bytes stored at an address in it. -/
def lineStore (l : DLine) (va ga : Nat) (b : Bytes) : DLine :=
  let o := ga % 64
  { l with data := l.data.take o ++ b ++ l.data.drop (o + b.length), dirty := true, va := va }

/-! ### Loads and stores -/

/-- Write a loaded value to its register: sign or zero extended, or into a float register. -/
def loadReg (c : Core) (rd w : Nat) (signed fp : Bool) (b : Bytes) : Core :=
  let v := leNat b
  if fp then fPutBits c (w == 8) rd v else xPut c rd (if signed then sextW (8 * w) v else v)

/-- CORE_LOAD: a load of 2^`width` bytes (05 R162 to R167, 06 R214). -/
def execCoreLoad (seat : SeatId) (compressed : Bool) (rd rs1 : Fin 32) (off : BitVec 12) (width : Fin 4) (signed fp : Bool) (s : State) : Ans :=
  coreStepM seat.val (insnSize compressed) s (fun s c =>
    let i := seat.val
    let w := 2 ^ width.val
    let va := (xGet c rs1.val + sextW 12 off.toNat) % 2 ^ 64
    match coreAddr s i va w .read with
    | .own o => coreRetire s i (loadReg c rd.val w signed fp (scratchRead s i o w))
    | a =>
      if va % w ≠ 0 then seatTrap s i false 4 va
      else match a with
      | .at ga =>
        let s := coreTouch s i va
        match (if cacheable ga then lineAt c ga else none) with
        | some l => coreRetire s i (loadReg c rd.val w signed fp (slice l.data (ga % 64) w))
        | none =>
          let (a, n) := if cacheable ga then (ga / 64 * 64, 64) else (ga, w)
          askRead (corePut s i (coreWait s c (.load rd.val w signed fp va ga))) (corePlace s i a n) n
      | .ats f p => emit s (.atsRequest f p)
      | _ => accessTrap s i 5 va)

/-- CORE_STORE: a store of 2^`width` bytes from an integer or a float register (05 R162 to R168, 06 R214). -/
def execCoreStore (seat : SeatId) (compressed : Bool) (rs1 rs2 : Fin 32) (off : BitVec 12) (width : Fin 4) (fp : Bool) (s : State) : Ans :=
  coreStepM seat.val (insnSize compressed) s (fun s c =>
    let i := seat.val
    let w := 2 ^ width.val
    let va := (xGet c rs1.val + sextW 12 off.toNat) % 2 ^ 64
    let b := leBytes w (if fp then fGet c rs2.val else xGet c rs2.val)
    let retire := fun (s : State) => coreRetire s i (seatOf s i).core
    match coreAddr s i va w .write with
    | .own o => retire (scratchWrite s i o b)
    | a =>
      if va % w ≠ 0 then seatTrap s i false 6 va
      else match a with
      | .at ga =>
        let s := coreTouch s i va
        if !cacheable ga then retire (coreWrite s i va ga b)
        else match lineAt c ga with
        | some l => retire (linePut s i (lineStore l va ga b))
        | none => askRead (corePut s i (coreWait s c (.fill va ga (b.map (·.toNat))))) (corePlace s i (ga / 64 * 64) 64) 64
      | .ats f p => emit s (.atsRequest f p)
      | _ => accessTrap s i 7 va)

/-- Whether the driver has enabled AtomicOp requests on the function of a seat's job (07 R245). -/
def coreAtomics (s : State) (seat : Nat) : Bool :=
  match coreJob s seat with
  | some (_, j) => (fnOf s j.fn).atomics
  | none => false

/-- CORE_AMO: an atomic of a word or a doubleword, at the own scratchpad's arbiter, at its destination, or on the host, where the function may
send AtomicOps (07 R245). -/
def execCoreAmo (seat : SeatId) (op : AmoOp) (dbl : Bool) (rd rs1 rs2 : Fin 32) (s : State) : Ans :=
  coreStepM seat.val 4 s (fun s c =>
    let i := seat.val
    let w := if dbl then 8 else 4
    let va := xGet c rs1.val
    let src := xGet c rs2.val
    match coreAddr s i va w .atomic with
    | .own o =>
      let old := leNat (scratchRead s i o w)
      let s1 := scratchWrite s i o (leBytes w (amoValue op w old src))
      coreRetire s1 i (xPut (seatOf s1 i).core rd.val (sextW (8 * w) old))
    | a =>
      if va % w ≠ 0 then seatTrap s i false 6 va
      else match a with
      | .at ga =>
        let s := coreTouch s i va
        if inHostWindow ga ∧ ((op ≠ .add ∧ op ≠ .swap) ∨ !coreAtomics s i) then seatTrap s i false 7 va
        else
          let s1 := lineDrop s i ga
          askAtomic (corePut s1 i (coreWait s1 (seatOf s1 i).core (.amo (amoCode op) rd.val w src va ga))) (corePlace s1 i ga w) w op src
      | .ats f p => emit s (.atsRequest f p)
      | _ => accessTrap s i 7 va)

/-- CORE_LOAD_RESPONSE: the response to a fetch, a load, a line fill or an atomic arrives; a status other than OK faults or stops the seat
(06 R214). What lies in the module is read now; what lies outside comes with the response. An access toward a seat in HOLD has no response before
the copy (02 R69), and one whose response meets a closed bridge has none at all (06 R213). -/
def execCoreLoadResponse (seat : SeatId) (o : Outside) (s : State) : Ans :=
  let i := seat.val
  let c := (seatOf s i).core
  match c.wait with
  | .fetch va ga => .next (fetchAnswer s i va ga o)
  | .load rd w signed fp va ga =>
    if cacheable ga then
      let p := corePlace s i (ga / 64 * 64) 64
      let s := if coreUnanswered s i ga p then s else chanMeet s p 64 o.check
      let (st, b, _) := placeRead s p 64 o
      if coreUnanswered s i ga p then .next s
      else if st ≠ stOk then .next (coreStatus s i st va ga 5)
      else
        let s1 := lineIn s i { ga := ga / 64 * 64, va := va, data := b }
        .next (coreRetire s1 i (loadReg (seatOf s1 i).core rd w signed fp (slice b (ga % 64) w)))
    else
      let p := corePlace s i ga w
      let (st, b, _) := placeRead s p w o
      .next (if coreUnanswered s i ga p then s else if st = stOk then coreRetire s i (loadReg c rd w signed fp b) else coreStatus s i st va ga 5)
  | .fill va ga data =>
    let p := corePlace s i (ga / 64 * 64) 64
    let s := if coreUnanswered s i ga p then s else chanMeet s p 64 o.check
    let (st, b, _) := placeRead s p 64 o
    if coreUnanswered s i ga p then .next s
    else if st ≠ stOk then .next (coreStatus s i st va ga 7)
    else
      let s1 := lineIn s i (lineStore { ga := ga / 64 * 64, va := va, data := b } va ga (data.map (BitVec.ofNat 8)))
      .next (coreRetire s1 i (seatOf s1 i).core)
  | .amo op rd w src va ga =>
    let p := corePlace s i ga w
    let s := if coreUnanswered s i ga p then s else chanMeet s p w o.check
    let (s1, st, old) := placeAtomic s p w (amoOf op) src o
    .next (if coreUnanswered s i ga p then s else if st = stOk then coreRetire s1 i (xPut (seatOf s1 i).core rd (sextW (8 * w) old)) else coreStatus s1 i st va ga 7)
  | _ => .next s

/-- CORE_LR: reserve 8 bytes of the own scratchpad (07 R246). -/
def execCoreLr (seat : SeatId) (dbl : Bool) (rd rs1 : Fin 32) (s : State) : Ans :=
  coreStepM seat.val 4 s (fun s c =>
    let i := seat.val
    let w := if dbl then 8 else 4
    let va := xGet c rs1.val
    match coreAddr s i va w .atomic with
    | .own o => coreRetire s i { xPut c rd.val (sextW (8 * w) (leNat (scratchRead s i o w))) with reserve := some (o / 8 * 8) }
    | _ => accessTrap s i 5 va)

/-- CORE_SC: store if the reservation of the 8 bytes still stands; the reservation is used up (07 R246). -/
def execCoreSc (seat : SeatId) (dbl : Bool) (rd rs1 rs2 : Fin 32) (s : State) : Ans :=
  coreStepM seat.val 4 s (fun s c =>
    let i := seat.val
    let w := if dbl then 8 else 4
    let va := xGet c rs1.val
    match coreAddr s i va w .atomic with
    | .own o =>
      if c.reserve = some (o / 8 * 8) then
        let s1 := scratchWrite s i o (leBytes w (xGet c rs2.val))
        coreRetire s1 i { xPut (seatOf s1 i).core rd.val 0 with reserve := none }
      else coreRetire s i { xPut c rd.val 1 with reserve := none }
    | _ => accessTrap s i 7 va)

/-- CORE_FENCE: order at seat scope, without a cache action: the model performs a core's accesses in program order (07 R244). -/
def execCoreFence (seat : SeatId) (s : State) : Ans := coreStepM seat.val 4 s (fun s c => coreRetire s seat.val c)

/-- FENCE_I: the D cache is written back and the I cache invalidated (05 R169). -/
def execFenceI (seat : SeatId) (s : State) : Ans :=
  coreStepM seat.val 4 s (fun s _ =>
    let s1 := cacheFlush s seat.val false
    coreRetire s1 seat.val { (seatOf s1 seat.val).core with icache := [] })

/-- CORE_COMPUTE (05 R159 to R161); `bits` are the instruction's, for an illegal-instruction trap. -/
def execCoreCompute (seat : SeatId) (compressed : Bool) (insn : Compute) (bits : U32) (s : State) : Ans :=
  coreStepM seat.val (insnSize compressed) s (fun s c =>
    match computeRun c c.isz insn with
    | some c1 => corePut s seat.val { c1 with instret := (c.instret + 1) % 2 ^ 64, fetched := [] }
    | none => coreIllegal s seat.val bits.toNat)

/-- ECALL from user mode: the context is lost (05 Table Tender-8). In machine mode it traps with the cause that RISC-V gives it (PRESUMED, log 78). -/
def execEcall (seat : SeatId) (s : State) : Ans := coreStepM seat.val 4 s (fun s c => seatTrap s seat.val false (if c.user then 8 else 11) 0)

/-- EBREAK: the seat stops for an open debug session; otherwise the context is lost (05 Table Tender-8, 18 R591). -/
def execEbreak (seat : SeatId) (compressed : Bool) (s : State) : Ans :=
  coreStepM seat.val (insnSize compressed) s (fun s c =>
    match seatShell s seat.val with
    | some sl =>
      if (shellOf s sl).debugOpen ∧ c.user then
        seatPut s seat.val { seatOf s seat.val with mode := .halted, core := coreHalt s { c with mcause := 3, mtval := c.pc, mepc := c.pc, user := false } }
      else seatTrap s seat.val false 3 c.pc
    | none => seatTrap s seat.val false 3 c.pc)

/-! ### CSRs (05 R190) -/

/-- Whether a CSR number names a machine-mode CSR. -/
def csrMachine (csr : Nat) : Bool := bitsOf csr 9 8 == 3

/-- The value of a CSR; none where its access is illegal. User mode reads the CSRs of Table Tender-6 and their standard user ones; machine mode
reads those too, and machine-mode CSRs that are not listed as zero (05 R190). -/
def csrRead (s : State) (seat csr : Nat) (machine : Bool) : Option Nat :=
  let t := seatOf s seat
  let c := t.core
  match csr with
  | 0x001 => some (c.fcsr % 32)
  | 0x002 => some (bitsOf c.fcsr 7 5)
  | 0x003 => some (c.fcsr % 256)
  | 0x800 => some c.srSeed
  | 0xC00 => some (seatCycles s t)
  | 0xC01 => some (s.tb % 2 ^ 64)
  | 0xC02 => some c.instret
  | 0xCC0 => some (vzseatid s seat)
  | 0xCC1 => some t.arr.summary
  | 0xCC2 => some c.catchCount
  | 0xCC3 => some (vzxfer t)
  | 0xCC4 => some (winBits c.win0)
  | 0xCC5 => some (winBits c.win1)
  | 0xCC6 => some (winBits c.win2)
  | 0xCC7 => some (winBits c.win3)
  | 0xCC8 => some c.sig
  | 0xCC9 => some t.pegs
  | n =>
    if !machine ∨ !csrMachine n then none
    else if n = 0x7C0 then some c.wdog
    else if n = 0xF14 then some (seatIdent seat)
    else if n = 0xB00 then some (seatCycles s t)
    else if n = 0xB02 then some c.instret
    else some 0

/-- A CSR written; none where that is illegal. A watchdog period outside 1,000 to 1,000,000 has no stated effect: the period is then a free value
within it (05 R189, log 78). -/
def csrWrite (s : State) (seat csr v0 : Nat) (machine : Bool) : Option State :=
  let t := seatOf s seat
  let c := t.core
  let v := v0 % 2 ^ 64
  match csr with
  | 0x001 => some (corePut s seat { c with fcsr := c.fcsr / 32 * 32 + v % 32 })
  | 0x002 => some (corePut s seat { c with fcsr := c.fcsr % 32 + v % 8 * 32 })
  | 0x003 => some (corePut s seat { c with fcsr := v % 256 })
  | 0x800 => some (corePut s seat { c with srSeed := v })
  | n =>
    if !machine ∨ !csrMachine n ∨ n = 0xF14 then none
    else if n = 0x7C0 then
      (if 1000 ≤ v ∧ v ≤ 1000000 then some (corePut s seat { c with wdog := v })
       else some (corePut (freeNext s) seat { c with wdog := 1000 + (Config.freeWord s.freeCtr).toNat % 999001 }))
    else if n = 0xB00 then some (seatPut s seat { t with cyc := v * 1000, tbCyc := s.tb })
    else if n = 0xB02 then some (corePut s seat { c with instret := v })
    else some s

/-- The word of a CSR instruction. -/
def csrBits (op : CsrOp) (imm : Bool) (csr : BitVec 12) (rd src : Fin 32) : Nat :=
  csr.toNat * 2 ^ 20 + src.val * 2 ^ 15 + ((match op with | .rw => 1 | .rs => 2 | .rc => 3) + (if imm then 4 else 0)) * 2 ^ 12 + rd.val * 2 ^ 7 + 0x73

/-- CSR_ACCESS: CSRRW, CSRRS or CSRRC with a register or an immediate source (05 R190). -/
def execCsrAccess (seat : SeatId) (op : CsrOp) (imm : Bool) (csr : BitVec 12) (rd src : Fin 32) (s : State) : Ans :=
  coreStepM seat.val 4 s (fun s c =>
    let i := seat.val
    let bits := csrBits op imm csr rd src
    let v := if imm then src.val else xGet c src.val
    match csrRead s i csr.toNat (!c.user) with
    | none => coreIllegal s i bits
    | some old =>
      let wanted := match op with | .rw => some v | .rs => if src.val = 0 then none else some (old ||| v) | .rc => if src.val = 0 then none else some (old &&& (2 ^ 64 - 1 - v))
      match (match wanted with | none => some s | some n => csrWrite s i csr.toNat n (!c.user)) with
      | none => coreIllegal s i bits
      | some s1 =>
        let s2 := coreRetire s1 i (xPut (seatOf s1 i).core rd.val old)
        -- what is written to minstret stands, and the instruction that writes it does not count on it
        if csr.toNat = 0xB02 ∧ wanted.isSome then corePut s2 i { (seatOf s2 i).core with instret := (seatOf s1 i).core.instret } else s2)

/-! ### Acknowledgements and the watchdog (05 R189, 06 R214) -/

/-- STORE_ACK: the oldest store's acknowledgement arrives; a status other than OK raises an imprecise access fault. `status` is that of
a destination outside the module (06 R214). A store whose packet waits has none yet, and one whose acknowledgement meets a closed bridge never
(02 R69, 06 R213). -/
def execStoreAck (seat : SeatId) (status : Fin 8) (s : State) : Ans :=
  let i := seat.val
  let t := seatOf s i
  match t.core.stores with
  | [] => .next s
  | p :: rest =>
    if p.waits ∨ ghUnsent s i p.tag ∨ (p.status = stOk ∧ !placeAnswers s i (corePlace s i p.ga (if p.ga % 8 = 0 then 8 else 1))) then .next s
    else
    let s1 := ghFlush (corePut s i { t.core with stores := rest })
    let st := if p.outside then status.val else p.status
    if st = stOk ∨ t.mode ≠ .run then .next (catchSettle s1 i) else .next (coreStatus s1 i st p.va p.ga 7)

/-- TENDER_WATCHDOG_EXPIRY: the watchdog count reaches its period: a safety event (05 R189, Table Tender-8, 17 Table Safety-1). -/
def execTenderWatchdogExpiry (seat : SeatId) (s : State) : Ans :=
  let t := seatOf s seat.val
  let n := wdCount s t.core
  if t.mode ≠ .run ∨ wdHolds t.core.wait ∨ n < t.core.wdog then .next s
  else .next (seatSafety (corePut s seat.val { t.core with mcause := 17 + 2 ^ 63, mtval := n, mepc := t.core.pc, user := false }) seat.val 12 9
    (some (s.tb - t.core.wdog)) { detail0 := n, detail1 := t.core.pc, code := 17, seatId := some (vzseatid s seat.val) })

end Sys2Proof.Machine
end

