-- ==== Sys2Proof/Machine/Xvzseat.lean ====
section
/-! DEFINITION. The Xvzseat instructions of the tender core (05 R170 to R189). Their operands are the fields of the instruction,
so that the fields R170 forbids reach the illegal-instruction exception. -/
namespace Sys2Proof.Machine

/-! ### Encodings (05 R170, Table Tender-3) -/

/-- The bits of an I-type and of an R-type instruction. -/
def insnI (op imm rs1 f3 rd : Nat) : Nat := imm * 2 ^ 20 + rs1 * 2 ^ 15 + f3 * 2 ^ 12 + rd * 2 ^ 7 + op
def insnR (op f7 rs2 rs1 f3 rd : Nat) : Nat := f7 * 2 ^ 25 + rs2 * 2 ^ 20 + rs1 * 2 ^ 15 + f3 * 2 ^ 12 + rd * 2 ^ 7 + op
def custom0 : Nat := 0x0B
def custom1 : Nat := 0x2B

/-- Execute an Xvzseat instruction, unless its fields break R170; CATCH and SEAT.END only as a part of a job. -/
def vzStep (seat bits : Nat) (legal : Bool) (s : State) (f : State → Core → State) : Ans :=
  coreStepM seat 4 s (fun s c => if legal then f s c else coreIllegal s seat bits)
def vzJobStep (seat bits : Nat) (legal : Bool) (s : State) (f : State → Core → State) : Ans :=
  coreStep seat 4 s (fun s c => if legal then f s c else coreIllegal s seat bits)

/-- The Xvzseat operand exception, with the operand's value (05 R171). -/
def vzOperand (s : State) (seat v : Nat) : State := seatTrap s seat false 24 v

/-- The core as it stands. -/
def coreOf (s : State) (seat : Nat) : Core := (seatOf s seat).core

/-! ### Array ops (05 R172 to R176) -/

/-- Ops issued that have not retired. -/
def arrOpen (a : Arr) : Nat := a.queue.length + a.flight.length

/-- Put a descriptor into the queue with the seed latched; a stopped queue takes none (05 R173, R176). -/
def arrPush (s : State) (seat desc : Nat) : State :=
  let t := seatOf s seat
  let a := t.arr
  if a.stopped then s
  else arrPut s seat { a with queue := a.queue ++ [{ desc := desc, seed := t.core.srSeed, seq := a.accepted + 1 }], accepted := a.accepted + 1 }

/-- ARR.ISSUE: write a descriptor into the queue, or wait while it holds 16 (05 R172). -/
def execArrIssue (seat : SeatId) (rd rs1 rs2 : Fin 32) (s : State) : Ans :=
  let i := seat.val
  vzStep i (insnR custom0 0 rs2.val rs1.val 0 rd.val) (rd == 0) s (fun s c =>
    let d := xGet c rs1.val + xGet c rs2.val * 2 ^ 64
    let a := (seatOf s i).arr
    if a.stopped ∨ arrOpen a < 16 then let s1 := arrPush s i d; coreRetire s1 i (coreOf s1 i)
    else corePut s i (coreWait s c (.issue d)))

/-- ARR_ISSUE_UNBLOCK: a waiting ARR.ISSUE retires once there is room (05 R172). -/
def execArrIssueUnblock (seat : SeatId) (s : State) : Ans :=
  let i := seat.val
  let t := seatOf s i
  match t.core.wait with
  | .issue d => if t.arr.stopped ∨ arrOpen t.arr < 16 then let s1 := arrPush s i d; .next (coreRetire s1 i (coreOf s1 i)) else .next s
  | _ => .next s

/-- ARR.RESULT (04 R151). -/
def execArrResult (seat : SeatId) (rd rs1 rs2 : Fin 32) (s : State) : Ans :=
  let i := seat.val
  vzStep i (insnR custom0 1 rs2.val rs1.val 0 rd.val) (rs1 == 0 && rs2 == 0) s (fun s c => coreRetire s i (xPut c rd.val (seatOf s i).arr.result))

/-- A seat whose clock was lent returns to its former clock when its wait ends (07 R262). -/
def lendEnd (s : State) (seat : Nat) : State := seatPut s seat (seatUnlend s (seatOf s seat))

/-- ARR.WAIT: wait until at most n issued ops have not retired (05 R175). -/
def execArrWait (seat : SeatId) (rd rs1 : Fin 32) (imm : BitVec 12) (s : State) : Ans :=
  let i := seat.val
  vzStep i (insnI custom0 imm.toNat rs1.val 1 rd.val) (rd == 0 && rs1 == 0 && decide (imm.toNat < 16)) s (fun s c =>
    if arrOpen (seatOf s i).arr ≤ imm.toNat then coreRetire s i c else corePut s i (coreWait s c (.arrWait imm.toNat)))

/-- ARR_WAIT_DONE: a waiting ARR.WAIT retires once its condition holds (05 R175). -/
def execArrWaitDone (seat : SeatId) (s : State) : Ans :=
  let t := seatOf s seat.val
  match t.core.wait with
  | .arrWait n => .next (if arrOpen t.arr ≤ n then lendEnd (coreRetire s seat.val t.core) seat.val else s)
  | _ => .next s

/-- ARR.FENCE: every earlier store has reached the scratchpad, since the model performs it there at once (05 R174). -/
def execArrFence (seat : SeatId) (rd rs1 : Fin 32) (imm : BitVec 12) (s : State) : Ans :=
  vzStep seat.val (insnI custom0 imm.toNat rs1.val 2 rd.val) (rd == 0 && rs1 == 0 && imm == 0) s (fun s c => coreRetire s seat.val c)

/-! ### Fences and pegs (05 R168, R177 to R181, 07 R242, R243) -/

/-- The acquire's cache action at a scope: 0 seat, 1 die, 2 shell, 3 system (05 Table Tender-2). -/
def acquireAt (s : State) (seat scope : Nat) : State := if scope = 0 then s else cacheFlush s seat true

/-- Begin a release: its write-backs leave, and the core waits for their acknowledgements (05 Table Tender-2). `order` is 2 or 3;
`kind` 1 sets or clears a local peg after it, 2 the peg word of a logical seat; 3 is the acquire that ends a PEG.WAIT. -/
def vzRelease (s : State) (seat order scope kind arg : Nat) (clear : Bool) : State :=
  let s1 := if scope = 0 then s else cacheFlush s seat false
  corePut s1 seat (coreWait s1 (coreOf s1 seat) (.fence order scope kind arg clear))

/-- Whether an address lies on the die of a seat: in its slices, or in the window of a seat of it (07 Table Model-4). -/
def onDie (s : State) (seat ga : Nat) : Bool :=
  if 0x200000000000 ≤ ga ∧ ga < 0x200100000000 then (ga - 0x200000000000) / 0x10000000 == seat / 144
  else match windowOf ga with
    | some (slot, l, _) => (match holdSeat (shellOf s slot) l with | some i => i / 144 == seat / 144 | none => false)
    | none => false

/-- Whether a release at a scope may complete: at seat scope every write has entered the seat's bridge; at die scope every write to the die is acknowledged and every other has left it, and from shell
scope on every write is acknowledged; host writes have left when they were made (07 Table Model-5). -/
def releaseMet (s : State) (seat scope : Nat) : Bool :=
  let st := (coreOf s seat).stores
  match scope with
  | 0 => !(bridgeSpots s).any (fun x => x.1 == none && x.2.2 == seat)
  | 1 => !st.any (fun p => onDie s seat p.ga) && !s.upstream.any (fun k => k.src == seat)
  | _ => st.isEmpty

/-- Write a peg word of a logical seat of the core's shell, posted; of a lent seat's job it stands at the borrower (07 R247, R248, 14 R483). -/
def pegRemote (s : State) (seat lseat peg : Nat) (v : Bool) : State :=
  let o := lseat * 0x200000 + 0x1C0000 + 8 * peg
  let ga := match seatShell s seat with
    | some sl => 0x300000000000 + sl * 0x2000000000 + o
    | none => lentPegs + o
  coreWrite s seat ga ga (leBytes 8 (if v then 1 else 0))

/-- Acquire, and retire: once the lines that the acquire writes back are acknowledged (05 R168, Table Tender-2). -/
def acquireRetire (s : State) (seat scope kind : Nat) : State :=
  let s1 := acquireAt s seat scope
  let c := coreOf s1 seat
  if c.stores.length = (coreOf s seat).stores.length ∨ releaseMet s1 seat scope then coreRetire s1 seat c
  else corePut s1 seat (coreWait s1 c (.fence 1 scope kind 0 false))

/-- The peg write of PEG.SET or PEG.RSET. -/
def pegAct (s : State) (seat kind arg : Nat) (clear : Bool) : State :=
  match kind with
  | 1 => pegWrite s seat arg (!clear)
  | 2 => pegRemote s seat (arg / 64) (arg % 64) (!clear)
  | _ => s

/-- VZ.FENCE (05 R168, R171). -/
def execVzFence (seat : SeatId) (rd rs1 : Fin 32) (imm : BitVec 12) (s : State) : Ans :=
  let i := seat.val
  let order := bitsOf imm.toNat 3 2
  let scope := bitsOf imm.toNat 1 0
  vzStep i (insnI custom0 imm.toNat rs1.val 3 rd.val) (rd == 0 && rs1 == 0 && decide (imm.toNat < 16) && order != 0) s (fun s _ =>
    if order = 1 then acquireRetire s i scope 0
    else vzRelease s i order scope 0 0 false)

/-- VZ_FENCE_COMPLETE: a release completes when its scope's condition holds; an acq_rel acquires then, and a peg write follows. An acquire
completes when its write-backs are acknowledged (07 R242, 05 R168, R177). After a release at system scope the next host write carries no Relaxed
Ordering (07 R236). -/
def execVzFenceComplete (seat : SeatId) (s : State) : Ans :=
  let i := seat.val
  match (coreOf s i).wait with
  | .fence order scope kind arg clear =>
    if releaseMet s i scope then
      let s1 := if order = 3 then acquireAt s i scope else s
      let s2 := pegAct s1 i kind arg clear
      let c := coreOf s2 i
      .next (coreRetire s2 i { c with released := c.released || (order != 1 && scope == 3) })
    else .next s
  | _ => .next s

/-- PEG.SET (05 R177, Table Tender-5). -/
def execPegSet (seat : SeatId) (rd rs1 : Fin 32) (imm : BitVec 12) (s : State) : Ans :=
  let i := seat.val
  let n := imm.toNat
  vzStep i (insnI custom1 n rs1.val 0 rd.val) (rd == 0 && rs1 == 0 && decide (n < 1024) && decide (n % 64 < 48)) s (fun s _ =>
    if bitOf n 7 then vzRelease s i 2 (bitsOf n 9 8) 1 (n % 64) (bitOf n 6)
    else let s1 := pegAct s i 1 (n % 64) (bitOf n 6); coreRetire s1 i (coreOf s1 i))

/-- PEG.TEST (05 R170). -/
def execPegTest (seat : SeatId) (rd rs1 : Fin 32) (imm : BitVec 12) (s : State) : Ans :=
  let i := seat.val
  vzStep i (insnI custom1 imm.toNat rs1.val 1 rd.val) (rs1 == 0 && decide (imm.toNat < 48)) s (fun s c =>
    coreRetire s i (xPut c rd.val (if bitOf (seatOf s i).pegs imm.toNat then 1 else 0)))

/-- The lowest peg of a mask that is set. -/
def lowestPeg (pegs mask : Nat) : Option Nat := (List.range 48).find? (fun p => bitOf mask p && bitOf pegs p)

/-- A wait that observes its peg: it clears it if asked, acquires, and retires; PEG.WAIT gives the seat clocks it waited (05 R178). -/
def pegObserve (s : State) (seat : Nat) : State :=
  let t := seatOf s seat
  match t.core.wait with
  | .peg rd p sense clear acquire scope cyc =>
    if bitOf t.pegs p = sense then
      let s1 := if clear then pegPut s seat p false else s
      let waited := min ((seatCycles s t + 2 ^ 64 - cyc) % 2 ^ 64) (2 ^ 32 - 1)
      lendEnd (acquireRetire (corePut s1 seat (coreWake s1 (xPut (coreOf s1 seat) rd waited))) seat (if acquire then scope else 0) 3) seat
    else s
  | .pegAny rd mask acquire scope =>
    match lowestPeg t.pegs mask with
    | some p =>
      lendEnd (acquireRetire (corePut s seat (coreWake s (xPut (coreOf s seat) rd p))) seat (if acquire then scope else 0) 3) seat
    | none => s
  | _ => s

/-- Begin a peg wait, which may be over at once; a wait that goes on can let a pre-emption take hold (11 R394). -/
def pegWaitBegin (s : State) (seat : Nat) (w : CoreWait) : State :=
  let s1 := pegObserve (corePut s seat (coreWait s (coreOf s seat) w)) seat
  if (coreOf s1 seat).wait = w then waitSettle s1 seat else s1

/-- PEG.WAIT (05 R178, Table Tender-4). -/
def execPegWait (seat : SeatId) (rd rs1 : Fin 32) (imm : BitVec 12) (s : State) : Ans :=
  let i := seat.val
  let n := imm.toNat
  vzStep i (insnI custom1 n rs1.val 2 rd.val) (rs1 == 0 && decide (n < 2048) && decide (n % 64 < 48) && (!bitOf n 7 || bitOf n 6)) s (fun s _ =>
    pegWaitBegin s i (.peg rd.val (n % 64) (bitOf n 6) (bitOf n 7) (bitOf n 8) (bitsOf n 10 9) (seatCycles s (seatOf s i))))

/-- PEG.WAITANY (05 R178). -/
def execPegWaitany (seat : SeatId) (funct7 : BitVec 7) (rd rs1 rs2 : Fin 32) (s : State) : Ans :=
  let i := seat.val
  let n := funct7.toNat
  vzStep i (insnR custom1 n rs2.val rs1.val 3 rd.val) (rs2 == 0 && decide (n < 8)) s (fun s c =>
    let mask := xGet c rs1.val
    if mask ≥ 2 ^ 48 then vzOperand s i mask else pegWaitBegin s i (.pegAny rd.val mask (bitOf n 0) (bitsOf n 2 1)))

/-- PEG_WAIT_WAKE: a waiting core looks at its peg (05 R178). A seat that its shell holds where it stands, to save or to move it, stays in its wait (05 R181, 11
R395); a lent one that leaves a wait that counts says so to its borrower (11 R394, 14 R483). -/
def execPegWaitWake (seat : SeatId) (s : State) : Ans :=
  let i := seat.val
  let t := seatOf s i
  let held := match seatShell s i with | some sl => heldByDevice s sl | none => false
  if (t.mode = .run ∨ t.core.fw) ∧ !held then
    let s1 := pegObserve s i
    .next (if waitCounts t.core ∧ !waitCounts (coreOf s1 i) then lentReport s1 i (.waits false) else s1)
  else .next s

/-- PEG.RSET (05 R177, 07 R247). -/
def execPegRset (seat : SeatId) (funct7 : BitVec 7) (rd rs1 rs2 : Fin 32) (s : State) : Ans :=
  let i := seat.val
  let n := funct7.toNat
  vzStep i (insnR custom1 n rs2.val rs1.val 4 rd.val) (rd == 0 && rs2 == 0 && decide (n < 16)) s (fun s c =>
    let v := xGet c rs1.val
    if v ≥ 2 ^ 22 ∨ v % 64 ≥ 48 ∨ v / 64 ≥ bitsOf (vzseatid s i) 47 32 then vzOperand s i v
    else if bitOf n 1 then vzRelease s i 2 (bitsOf n 3 2) 2 v (bitOf n 0)
    else let s1 := pegAct s i 2 v (bitOf n 0); coreRetire s1 i (coreOf s1 i))

/-! ### Transfers and windows (05 R182 to R185) -/

/-- What an entry says of the address it maps, before any ATS translation. -/
def plainTarget (s : State) (cid va : Nat) : Option Nat := (entryAt (ctxOf s cid) va).bind (fun e => entryTarget s e.2 va)

/-- The fence bindings of a context whose word an address translates to (10 R350): where the word's page has no ATS translation yet, those that
its entry maps alike (10 R351). -/
def bindingsAt (s : State) (cid va : Nat) : List Nat :=
  let ga := translate s cid va .atomic
  let plain := plainTarget s cid va
  (ctxOf s cid).fences.filterMap (fun e => match e.2 with
    | some b => if ga = some b.ga ∨ (plain.isSome ∧ plainTarget s cid b.va = plain) then some e.1 else none
    | none => none)

/-- An accepted FENCE_ADV promises its value to the bindings of the job's context at its word (10 R351). -/
def xferPromise (s : State) (seat desc : Nat) : State :=
  match coreJob s seat with
  | some (_, j) =>
    if bitsOf desc 63 60 = 6 ∧ !bitOf desc 191 then (bindingsAt s j.ctx (bitsOf desc 127 64)).foldl (fun s i => promise s j.ctx i (bitsOf desc 191 128)) s else s
  | none => s

/-- Put the descriptor at a scratchpad offset into the transfer queue and give its ticket (05 R182). -/
def xferPush (s : State) (seat rd off : Nat) : State :=
  let t := seatOf s seat
  let x : Xfer := { ticket := t.nextTicket, desc := leNat (scratchRead s seat off 64) }
  let s1 := xferPromise (seatPut s seat { t with xfers := t.xfers ++ [x], nextTicket := (t.nextTicket + 1) % 2 ^ 32, ticketsRound := t.ticketsRound || t.nextTicket == 2 ^ 32 - 1 }) seat x.desc
  coreRetire s1 seat (xPut (coreOf s1 seat) rd t.nextTicket)

/-- XFER.SUBMIT (05 R182). -/
def execXferSubmit (seat : SeatId) (funct7 : BitVec 7) (rd rs1 rs2 : Fin 32) (s : State) : Ans :=
  let i := seat.val
  vzStep i (insnR custom1 funct7.toNat rs2.val rs1.val 5 rd.val) (rs2 == 0 && funct7 == 0) s (fun s c =>
    let off := xGet c rs1.val
    if off % 64 ≠ 0 ∨ off + 64 > scratchBytes then vzOperand s i off
    else if xferOpen (seatOf s i) < 32 then xferPush s i rd.val off
    else corePut s i (coreWait s c (.submit rd.val off)))

/-- XFER_SUBMIT_UNBLOCK: a waiting XFER.SUBMIT retires when there is room (05 R182). -/
def execXferSubmitUnblock (seat : SeatId) (s : State) : Ans :=
  let t := seatOf s seat.val
  match t.core.wait with
  | .submit rd off => .next (if xferOpen t < 32 then xferPush s seat.val rd off else s)
  | _ => .next s

/-- The state of a ticket; one that is not held any more, or more than 2³¹ older than the latest, is done. A ticket not yet given has no stated state: a
free value (05 R183, log 1). -/
def xferState (s : State) (t : Seat) (ticket : Nat) : Nat :=
  let latest := (t.nextTicket + 0xFFFFFFFF) % 2 ^ 32
  if (t.ticketsRound ∨ t.nextTicket ≠ 0) ∧ (latest + 2 ^ 32 - ticket) % 2 ^ 32 > 2 ^ 31 then 1
  else match t.xfers.find? (fun x => x.ticket == ticket) with
  | some x => (match x.st with | .queued => 0 | .active => 0 | .done => 1 | .stopped => 2 | .aborted => 3)
  | none => if t.ticketsRound ∨ ticket < t.nextTicket then 1 else (Config.freeWord s.freeCtr).toNat % 4

/-- XFER.POLL (05 R183). -/
def execXferPoll (seat : SeatId) (funct7 : BitVec 7) (rd rs1 rs2 : Fin 32) (s : State) : Ans :=
  let i := seat.val
  vzStep i (insnR custom1 funct7.toNat rs2.val rs1.val 6 rd.val) (rs2 == 0 && funct7 == 0) s (fun s c =>
    let v := xferState s (seatOf s i) (xGet c rs1.val % 2 ^ 32)
    coreRetire (freeNext s) i (xPut c rd.val v))

/-- Set a window region of a core. -/
def winPut (c : Core) (k : Nat) (w : Win) : Core :=
  match k with
  | 0 => { c with win0 := w }
  | 1 => { c with win1 := w }
  | 2 => { c with win2 := w }
  | _ => { c with win3 := w }

/-- WIN.SET (05 R184). -/
def execWinSet (seat : SeatId) (funct7 : BitVec 7) (rd rs1 rs2 : Fin 32) (s : State) : Ans :=
  let i := seat.val
  vzStep i (insnR custom1 funct7.toNat rs2.val rs1.val 7 rd.val) (rd == 0 && decide (funct7.toNat < 4)) s (fun s c =>
    let a := xGet c rs1.val
    let r := xGet c rs2.val
    let w : Win := { base := a % 2 ^ 16, len := bitsOf a 31 16, rights := r % 4 }
    if a ≥ 2 ^ 32 ∨ 32 * (w.base + w.len) > scratchBytes then vzOperand s i a
    else if r ≥ 4 then vzOperand s i r
    else coreRetire s i (winPut c funct7.toNat w))

/-! ### Signatures (05 R188) -/

/-- SIG.UPD. -/
def execSigUpd (seat : SeatId) (rd rs1 : Fin 32) (imm : BitVec 12) (s : State) : Ans :=
  vzStep seat.val (insnI custom0 imm.toNat rs1.val 5 rd.val) (rd == 0 && rs1 == 0) s (fun s c =>
    coreRetire s seat.val { c with sig := ((c.sig * 32) % 2 ^ 32 + c.sig / 2 ^ 27) ^^^ imm.toNat })

/-- SIG.CHK: a match restarts the watchdog; a mismatch is a safety event, exposed since the previous match (05 R188, 17 R562). -/
def execSigChk (seat : SeatId) (funct7 : BitVec 7) (rd rs1 rs2 : Fin 32) (s : State) : Ans :=
  let i := seat.val
  vzStep i (insnR custom0 funct7.toNat rs2.val rs1.val 6 rd.val) (rd == 0 && rs2 == 0 && funct7 == 0) s (fun s c =>
    if c.sig = xGet c rs1.val % 2 ^ 32 then coreRetire s i { c with tbCheck := s.tb, wdHeld := 0, wdCarry := 0 }
    else seatSafety (corePut s i { c with mcause := 26, mtval := c.sig, mepc := c.pc, user := false }) i 11 8 (some c.tbCheck)
      { detail0 := c.sig, detail1 := c.pc, code := 26, seatId := some (vzseatid s i) })

/-! ### Catch points and the end of the seat's part (05 R186, R187, 02 R63) -/

/-- Whether a latch of the seat's shell stands at a catch number; a lent seat stops at every one and asks its borrower (14 R483, log 51). -/
def latchedAt (s : State) (seat n : Nat) : Bool :=
  match seatShell s seat with
  | some sl => (catchAt (shellOf s sl) (pget s (P.rigStatus sl))).contains n
  | none => (lentOf s seat).isSome

/-- CATCH: the seat reaches the next catch number; with a latch there it drains and stops, and otherwise it goes on (05 R186, 02 R63). -/
def execCatch (seat : SeatId) (funct7 : BitVec 7) (rd rs1 rs2 : Fin 32) (s : State) : Ans :=
  let i := seat.val
  vzJobStep i (insnR custom0 funct7.toNat rs2.val rs1.val 4 rd.val) (rd == 0 && rs2 == 0 && funct7 == 0) s (fun s c =>
    let d := xGet c rs1.val
    if !catchFormatOk d then seatTrap s i false 25 d
    else
      let n := c.catchCount + 1
      let s1 := coreRetire s i { c with reached := n, catchDesc := d }
      if latchedAt s i n then
        let s2 := cacheFlush s1 i false
        catchSettle (corePut s2 i (coreWait s2 (coreOf s2 i) .catchDrain)) i
      else corePut s1 i { coreOf s1 i with catchCount := n })

/-- SEAT.END: the seat drains and releases at system scope (05 R187); hint bits [7:1] must be zero (11 R385). -/
def execSeatEnd (seat : SeatId) (funct7 : BitVec 7) (rd rs1 rs2 : Fin 32) (s : State) : Ans :=
  let i := seat.val
  vzJobStep i (insnR custom0 funct7.toNat rs2.val rs1.val 7 rd.val) (rd == 0 && rs2 == 0 && funct7 == 0) s (fun s c =>
    let h := xGet c rs1.val
    if h % 256 ≥ 2 then vzOperand s i h
    else
      let s1 := cacheFlush s i false
      corePut s1 i (coreWait s1 (coreOf s1 i) (.endDrain (h % 2))))

/-- A logical seat of a shell's job has ended, here or on a lender: when every seat has, outstanding sprint records are
answered UNANSWERED and the release hold begins (11 R385, 12 R413, 17 R552). -/
def seatEnded (s : State) (slot l hint summary : Nat) : State :=
  let sh := shellOf s slot
  match sh.job with
  | none => s
  | some j =>
    let j1 := { j with ended := sAdd j.ended l, abandon := j.abandon || hint == 1, summary := j.summary ||| summary }
    let all := (List.range (shellSeats sh)).all (fun k => j1.ended.contains k)
    let j2 := if all then { j1 with phase := .holding, tbEnd := s.tb, runNs := j1.runNs + (s.tb - j1.tbSpan), tbSpan := s.tb } else j1
    -- a pre-emption that is latched lapses with the job's end (11 R391)
    let s1 := shellPut s slot { sh with job := some j2, preemptAt := if all then none else sh.preemptAt }
    if all then sprintJobEnded s1 slot j.ctx else preemptTry s1 slot

/-- SEAT_END_DRAINED: the drain and the release end: the seat reports its end and returns to firmware idle (05 R187). -/
def execSeatEndDrained (seat : SeatId) (s : State) : Ans :=
  let i := seat.val
  let t := seatOf s i
  match t.core.wait with
  | .endDrain hint =>
    if !seatDrained t then .next s
    else
      let c := coreWake s t.core
      let s1 := seatPut s i { t with mode := .ended, core := { c with pc := (c.pc + 4) % 2 ^ 64, instret := (c.instret + 1) % 2 ^ 64, user := false, reserve := none, dcache := [], icache := [], released := true } }
      match seatShell s i with
      | some sl => .next (seatEnded s1 sl (lseatOf (shellOf s sl) i) hint t.arr.summary)
      | none => .next (lentReport s1 i (.ended (hint == 1) (BitVec.ofNat 64 t.arr.summary)))
  | _ => .next s

end Sys2Proof.Machine
end

