-- ==== Sys2Proof/Machine/Xfer.lean ====
section
/-! DEFINITION. The transfer engines: descriptors, the walk, faults in the middle of it, gathers, unison-add arms and sends, and
fence advances (09 R318 to R329, 06 R219, R220, 07 R253, R254, 18 R589). -/
namespace Sys2Proof.Machine

/-! ### Descriptors (09 R318 to R321) -/

def xfKind (d : Nat) : Nat := bitsOf d 63 60
def xfElem (d : Nat) : Nat := 2 ^ bitsOf d 59 56
def xfDims (d : Nat) : Nat := bitsOf d 55 53
def xfSrc (d : Nat) : Nat := bitsOf d 127 64
def xfDst (d : Nat) : Nat := bitsOf d 191 128

/-- The count and stride fields of dimension `k`, 1 to 4. -/
def xfCountField (d k : Nat) : Nat := if k = 0 then bitsOf d 18 0 else bitsOf d (207 + 16 * (k - 1)) (192 + 16 * (k - 1))
def xfSrcField (d k : Nat) : Nat := bitsOf d (287 + 32 * (k - 1)) (256 + 32 * (k - 1))
def xfDstField (d k : Nat) : Nat := bitsOf d (415 + 32 * (k - 1)) (384 + 32 * (k - 1))
def s32n (n : Nat) : Int := if n ≥ 2 ^ 31 then (n : Int) - 2 ^ 32 else n

/-- Whether dimension `k` is used; a gather's dimension 4 is its tokens (09 Table Ranges-8). -/
def xfUsed (d k : Nat) : Bool := decide (k < xfDims d) || (k == 4 && xfKind d == 3)

/-- The counts of the five dimensions: an unused one counts 1 (09 R320). -/
def xfCount (d k : Nat) : Nat := if xfUsed d k then xfCountField d k else 1

/-- Elements of the walk, and of one token of a gather. -/
def xfPerToken (d : Nat) : Nat := xfCount d 0 * xfCount d 1 * xfCount d 2 * xfCount d 3
def xfTotal (d : Nat) : Nat := xfPerToken d * xfCount d 4

/-- The indices of walk index `k`, dimension 0 first (09 R320). -/
def xfIndex (d k dim : Nat) : Nat := (k / ((List.range dim).map (xfCount d)).foldl (· * ·) 1) % xfCount d dim

/-- Offset of an element at the source or the destination: the strides of dimensions 1 to `top`. -/
def xfOffset (d : Nat) (field : Nat → Nat → Nat) (top k : Nat) : Int :=
  ((List.range top).map (fun (i : Nat) => (xfIndex d k (i + 1) : Int) * s32n (field d (i + 1)))).foldl (· + ·) ((xfIndex d k 0 : Int) * (xfElem d : Int))

/-- The lowest and highest offset of the walk over dimensions 0 to `top`. -/
def xfReach (d : Nat) (field : Nat → Nat → Nat) (top : Nat) : Int × Int :=
  (List.range top).foldl (fun (r : Int × Int) (i : Nat) =>
    let x : Int := s32n (field d (i + 1)) * ((xfCount d (i + 1) : Int) - 1)
    (r.1 + min x 0, r.2 + max x 0)) (0, ((xfCount d 0 : Int) - 1) * (xfElem d : Int))

/-- Whether every address of a walk from a base lies in the shell virtual addresses, or in the own scratchpad (09 R321). -/
def xfSpan (d base : Nat) (field : Nat → Nat → Nat) (top : Nat) : Bool :=
  let (lo, hi) := xfReach d field top
  let a : Int := (base : Int) + lo
  let b : Int := (base : Int) + hi
  (decide (0 ≤ a) && decide (b < 2 ^ 57)) || (decide (2 ^ 63 ≤ a) && decide (b + (xfElem d : Int) ≤ 2 ^ 63 + (scratchBytes : Int)))

/-- The checks of a walking kind (09 R319 to R321). -/
def xfWalkOk (d : Nat) : Bool :=
  let k := xfKind d
  let al := min (xfElem d) 64
  let dims := [1, 2, 3, 4]
  decide (bitsOf d 59 56 ≤ 12) && decide (1 ≤ xfDims d) && decide (xfDims d ≤ 5) && decide (xfCountField d 0 ≠ 0)
    && dims.all (fun i => if xfUsed d i then xfCountField d i != 0 else xfCountField d i == 0 && xfSrcField d i == 0 && xfDstField d i == 0)
    && dims.all (fun i => xfSrcField d i % al == 0 && xfDstField d i % al == 0)
    && (k != 2 || dims.all (fun i => xfSrcField d i == 0))
    && xfDst d % al == 0 && (k != 1 || xfSrc d % al == 0)
    && (k != 3 || bitsOf d 115 96 == 0)
    && xfSpan d (xfDst d) xfDstField 4 && (k != 1 || xfSpan d (xfSrc d) xfSrcField 4)
    && (if bitOf d 25 then k == 1 && decide (bitsOf d 59 56 ≥ 4) && xfDst d / 2 ^ 57 == 0x40 else k == 1 || bitsOf d 24 19 == 0)

/-- The fields that a kind without a walk leaves zero: counts, strides, ELEM, DIMS, WDEC and WKEY. -/
def xfNoWalk (d : Nat) : Bool := bitsOf d 511 192 == 0 && bitsOf d 59 53 == 0 && bitsOf d 25 0 == 0

/-- Fields of a unison-add kind word (09 Table Ranges-8). -/
def redGroupOf (d : Nat) : Nat := bitsOf d 127 120
def redTile (d : Nat) : Nat := bitsOf d 119 116
def redFirst (d : Nat) : Nat := bitsOf d 115 106
def redCount (d : Nat) : Nat := bitsOf d 105 95
def redWeight (d : Nat) : Nat := bitsOf d 94 79

/-- What RED_ARM and RED_SEND share: the tile, the words, and their number for a mode (06 R219, R220). -/
def redWordsOk (d : Nat) (fret : Bool) : Bool :=
  decide (redTile d < 12) && redCount d != 0 && redCount d % (if fret then 4 else 16) == 0 && decide (redFirst d + redCount d ≤ 1024) && bitsOf d 78 64 == 0

/-- FORMAT: a descriptor in full (09 R321). `fret` is the mode of the tile that a RED_SEND reads. -/
def xfFormatOk (d : Nat) (fret : Bool) : Bool :=
  !bitOf d 48 && (!bitOf d 52 || decide (bitsOf d 47 42 < 48)) && match xfKind d with
    | 1 => xfWalkOk d
    | 2 => xfWalkOk d
    | 3 => xfWalkOk d
    | 4 => xfNoWalk d && redWordsOk d (bitOf d 144) && redWeight d != 0 && bitsOf d 191 145 == 0 && bitOf d 52 && !bitOf d 51 && bitsOf d 50 49 == 2 && bitsOf d 41 26 == 0
    | 5 => xfNoWalk d && redWordsOk d fret && redWeight d == 0 && bitsOf d 191 144 == 0
    | 6 => xfNoWalk d && xfSrc d % 8 == 0 && decide (xfSrc d < 2 ^ 57) && !bitOf d 191
    | _ => false

/-! ### For whom a transfer runs -/

/-- The shell and the context of a transfer, and the generations that its job pinned. A lent seat's transfer has no shell here: its addresses are
translated at its borrower (14 R483, log 52). -/
structure XEnv where
  shell : Option Nat
  ctx : Nat := 0
  pins : List (Nat × Nat) := []
  deriving DecidableEq, Repr

/-- For whom the transfers of a seat run. -/
def xEnv (s : State) (seat : Nat) : Option XEnv :=
  match coreJob s seat with
  | some (slot, j) => some { shell := some slot, ctx := j.ctx, pins := j.launch.pins }
  | none => if (lentOf s seat).isSome then some { shell := none } else none

/-! ### Accesses of an engine -/

/-- Why a transfer goes no further: a fault reason of Table Ranges-9, a translation that is asked for first, a network status, or an access
whose response has not come. -/
inductive XStop where
  | fault (reason access va : Nat)
  | ats (fn page va : Nat)
  | status (st access va ga : Nat)
  | waits (access va ga : Nat)
  deriving DecidableEq, Repr

/-- Where a piece of an element lies: the own scratchpad, or a global address. -/
inductive XAddr where
  | own (off : Nat)
  | at (ga : Nat)
  deriving DecidableEq, Repr

/-- The code of an access in a fault record (09 Table Ranges-13). -/
def accCode : Acc → Nat
  | .read => 0 | .write => 1 | .atomic => 2

/-- Translate one piece. -/
def xAddr (s : State) (e : XEnv) (va : Nat) (a : Acc) : Except XStop XAddr :=
  if va ≥ 2 ^ 63 then .ok (.own (va - 2 ^ 63))
  else if e.shell.isNone then .ok (.at (lentWindow + va))
  else match translatePins s e.ctx e.pins va a with
  | .ok ga => .ok (.at ga)
  | .fault r => .error (.fault r (accCode a) va)
  | .ats f p => .error (.ats f p va)

/-- An engine's access through a range entry passes its die's range cache (09 R316). -/
def xTouch (s : State) (seat : Nat) (e : XEnv) (va : Nat) : State :=
  if va ≥ 2 ^ 63 ∨ e.shell.isNone then s else rangeTouch s (seat / 144) e.ctx va

/-- The pieces of an element of `n` bytes: at most 64 bytes each, so that none crosses a page (09 R321 aligns them). -/
def xPieces (va n : Nat) : List (Nat × Nat) := (List.range ((n + 63) / 64)).map (fun i => (va + 64 * i, min 64 (n - 64 * i)))

/-- Translate the pieces of an element. -/
def xTranslate (s : State) (e : XEnv) (a : Acc) : List (Nat × Nat) → Except XStop (List (Nat × Nat × XAddr))
  | [] => .ok []
  | (va, n) :: t => match xAddr s e va a with
    | .error x => .error x
    | .ok p => match xTranslate s e a t with
      | .error x => .error x
      | .ok l => .ok ((va, n, p) :: l)

/-- Read translated pieces in order; `acc` is the access a failure is recorded with. -/
def xRead (seat acc : Nat) : List (Nat × Nat × XAddr) → Outside → State → State × Except XStop (Bytes × Outside)
  | [], o, s => (s, .ok ([], o))
  | (va, n, p) :: t, o, s =>
    let one : State × Except XStop (Bytes × Outside) := match p with
      | .own off => (s, .ok (scratchRead s seat off n, o))
      | .at ga =>
        let q := corePlace s seat ga n
        if coreUnanswered s seat ga q then (s, .error (.waits acc va ga))
        else
          let s1 := chanMeet s q n o.check
          let (st, b, o1) := placeRead s1 q n o
          (askRead s1 q n, if st = stOk then .ok (b, { o1 with check := {} }) else .error (.status st acc va ga))
    match one with
    | (s1, .error x) => (s1, .error x)
    | (s1, .ok (b, o1)) => match xRead seat acc t o1 s1 with
      | (s2, .error x) => (s2, .error x)
      | (s2, .ok (b2, o2)) => (s2, .ok (b ++ b2, o2))

/-- Bytes in units of 8 (07 R240). -/
def units8 (b : Bytes) : List Bytes := (List.range ((b.length + 7) / 8)).map (fun i => (b.drop (8 * i)).take 8)

/-- Write units that follow one another from a global address on, until one is answered with a status other than OK. A write into a seat counts
among those of its source (06 R201). -/
def xUnits (seat : Nat) (o : Outside) : Nat → Nat → List Bytes → State → State × Option XStop
  | _, _, [], s => (s, none)
  | va, ga, b :: t, s =>
    let q := corePlace s seat ga b.length
    if coreUnanswered s seat ga q then (s, some (.waits 1 va ga))
    else
      let (s1, st) := placeWrite (placeMerge s q b.length o.check) q b o
      let s2 := match q with
        | .scratch i _ => reqApplied s1 i seat
        | .far _ _ _ _ _ _ _ => { s1 with nextId := s1.nextId + 1 }
        | _ => s1
      if st = stOk then xUnits seat o (va + b.length) (ga + b.length) t s2 else (s2, some (.status st 1 va ga))

/-- Whether an address lies in windows of seats, here or behind Ghengo, that a transfer writes unit by unit. -/
def inSeatWindows (ga : Nat) : Bool := (windowOf ga).isSome || inPeerWindow ga || decide (lentWindow ≤ ga)

/-- Write bytes to translated pieces in order, until a write is answered with a status other than OK. -/
def xWrite (seat : Nat) (o : Outside) : List (Nat × Nat × XAddr) → Bytes → State → State × Option XStop
  | [], _, s => (s, none)
  | (va, n, p) :: t, b, s =>
    match p with
    | .own off => xWrite seat o t (b.drop n) (scratchWrite s seat off (b.take n))
    | .at ga => match xUnits seat o va ga (if inSeatWindows ga then units8 (b.take n) else [b.take n]) s with
      | (s1, none) => xWrite seat o t (b.drop n) s1
      | r => r

/-- Bytes of a weight blob, decrypted: each 16 bytes have their own counter block (18 R589). -/
def wkeyBytes (key : Bytes) (nonce off : Nat) (b : Bytes) : Bytes :=
  (Config.aesCtr key (nonce * 2 ^ 64 + off / 16) (List.replicate (off % 16) 0 ++ b)).drop (off % 16)

/-- How many elements from walk index `k` on, with the first at destination `tva`, lie in one naturally aligned unit of 8 bytes: they are written
together (07 R240). -/
def xGroup (d k tva : Nat) : Nat := if xfElem d < 8 then max 1 (min (xfCount d 0 - xfIndex d k 0) ((8 - tva % 8) / xfElem d)) else 1

/-- Read `m` elements of `n` bytes that follow one another: the bytes of those read, and what stopped the next. -/
def xReadRun (seat : Nat) (env : XEnv) (n : Nat) : Nat → Nat → Outside → State → State × Bytes × Outside × Option XStop
  | 0, _, o, s => (s, [], o, none)
  | m + 1, sva, o, s =>
    match xTranslate s env .read (xPieces sva n) with
    | .error e => (s, [], o, some e)
    | .ok src => match xRead seat 0 src o (xTouch s seat env sva) with
      | (s1, .error e) => (s1, [], { o with data := [] }, some e)
      | (s1, .ok (b, o1)) =>
        let (s2, b2, o2, r) := xReadRun seat env n m (sva + n) o1 s1
        (s2, b ++ b2, o2, r)

/-- How far a group of elements came: how many are delivered, and what stopped it. -/
abbrev XStep := State × Outside × Nat × Option XStop

/-- Copy `m` elements of one unit: both sides are translated, then the bytes are read and written. Where a later element of it stops, those before it are
delivered (09 R320, R327). -/
def xElement (s : State) (seat : Nat) (env : XEnv) (x : Xfer) (m sva tva : Nat) (o : Outside) : XStep :=
  let n := xfElem x.desc
  match xTranslate s env .read (xPieces sva n) with
  | .error e => (s, o, 0, some e)
  | .ok _ => match xTranslate s env .write (xPieces tva (n * m)) with
    | .error e => (s, o, 0, some e)
    | .ok dst =>
      let (s1, b, o1, r) := xReadRun seat env n m sva o (xTouch s seat env tva)
      let dst1 := if m = 1 then dst else dst.map (fun p => (p.1, b.length, p.2.2))
      let put := fun (b : Bytes) =>
        let (s2, w) := xWrite seat o1 dst1 b s1
        if w.isSome then (s2, { o1 with check := {} }, 0, w) else (s2, { o1 with check := {} }, b.length / n, r)
      if b.isEmpty then (s1, o1, 0, r)
      else match x.wkey with
        | none => put b
        | some (key, nonce, base) => if sva < base then (s1, o1, 0, some (.fault 0x13 0 sva)) else put (wkeyBytes key nonce (sva - base) b)

/-- Write `m` elements of a FILL that lie in one unit: the pattern, repeated through each element. -/
def xFillElement (s : State) (seat : Nat) (env : XEnv) (x : Xfer) (m tva : Nat) (o : Outside) : XStep :=
  let n := xfElem x.desc
  let pat := leBytes 8 (xfSrc x.desc)
  match xTranslate s env .write (xPieces tva (n * m)) with
  | .error e => (s, o, 0, some e)
  | .ok dst =>
    let (s1, r) := xWrite seat o dst ((List.range (n * m)).map (fun i => pat.getD (i % n % 8) 0)) (xTouch s seat env tva)
    (s1, { o with check := {} }, if r.isSome then 0 else m, r)

/-! ### Gathers (09 R325, R326) -/

/-- Read the list entry of page `p` of a sequence slot: the page's base (09 R326). -/
def pageBase (s : State) (seat : Nat) (env : XEnv) (rec_ p : Nat) (o : Outside) : State × Except XStop (Nat × Outside) :=
  let va := bitsOf rec_ 120 64 + 8 * p
  if p ≥ bitsOf rec_ 191 160 then (s, .error (.fault 0x12 3 va))
  else match xAddr s env va .read with
  | .error (.fault r _ v) => (s, .error (.fault r 3 v))
  | .error e => (s, .error e)
  | .ok a => match xRead seat 3 [(va, 8, a)] o (xTouch s seat env va) with
    | (s1, .error e) => (s1, .error e)
    | (s1, .ok (b, o1)) =>
      let le := leNat b
      (s1, if bitOf le 63 then .ok (le % 2 ^ 57, o1) else .error (.fault 0x03 3 va))

/-- The elements of one unit of a gather; `pg` is the page that the walk has read. -/
def xGatherElement (s : State) (seat : Nat) (env : XEnv) (x : Xfer) (m k tva : Nat) (pg : Option (Nat × Nat)) (o : Outside) :
    XStep × Option (Nat × Nat) :=
  let d := x.desc
  let tok := xfSrc d % 2 ^ 32 + xfIndex d k 4
  let pl := bitsOf x.seqRec 228 224
  let p := tok / 2 ^ pl
  let page : State × Except XStop (Nat × Outside) := match pg with
    | some (q, b) => if q = p then (s, .ok (b, o)) else pageBase s seat env x.seqRec p o
    | none => pageBase s seat env x.seqRec p o
  match page with
  | (s0, .error e) => ((s0, { o with data := [] }, 0, some e), none)
  | (s0, .ok (b, o1)) =>
    let base : Int := ((b + tok % 2 ^ pl * bitsOf x.seqRec 223 192 : Nat) : Int)
    let sva := ((base + s32n (xfSrcField d 4) + xfOffset d xfSrcField 3 k) % 2 ^ 64).toNat
    -- an address past the shell virtual addresses has no range entry
    if sva ≥ 2 ^ 57 then ((s0, o1, 0, some (.fault 0x01 0 sva)), some (p, b))
    else (xElement s0 seat env x m sva tva o1, some (p, b))

/-! ### The walk (09 R320, R327) -/

/-- The walk of a transfer from a cursor: the state, and where and why it stopped. -/
def xWalk (seat : Nat) (env : XEnv) (x : Xfer) : Nat → Nat → Option (Nat × Nat) → Outside → State → State × Option (Nat × XStop)
  | 0, _, _, _, s => (s, none)
  | fuel + 1, k, pg, o, s =>
    let d := x.desc
    if k ≥ xfTotal d then (s, none)
    else
      let tva := (((xfDst d : Nat) : Int) + xfOffset d xfDstField 4 k).toNat
      let m := xGroup d k tva
      let (step, pg1) : XStep × Option (Nat × Nat) :=
        if xfKind d = 3 then xGatherElement s seat env x m k tva pg o
        else if xfKind d = 2 then (xFillElement s seat env x m tva o, none)
        else (xElement s seat env x m (((xfSrc d : Nat) : Int) + xfOffset d xfSrcField 4 k).toNat tva o, none)
      match step with
      | (s1, _, n, some e) => (s1, some (k + n, e))
      | (s1, o1, _, none) => xWalk seat env x fuel (k + m) pg1 o1 s1

/-! ### The transfer's state (05 R183, 09 R323, R324) -/

/-- A transfer of a seat changed. -/
def xferPut (s : State) (seat : Nat) (x : Xfer) : State :=
  let t := seatOf s seat
  seatPut s seat { t with xfers := t.xfers.map (fun y => if y.ticket = x.ticket then x else y) }

def xferFind (s : State) (seat ticket : Nat) : Option Xfer := (seatOf s seat).xfers.find? (fun x => x.ticket == ticket)

/-- State 1: the transfer leaves the queue, its peg is set, and a draining catch point or end may be over (09 R323, 05 R186). -/
def xferDone (s : State) (seat : Nat) (x : Xfer) : State :=
  let t := seatOf s seat
  let s1 := seatPut s seat { t with xfers := t.xfers.filter (fun y => y.ticket != x.ticket) }
  let peg := bitsOf x.desc 47 42
  let l := bitsOf x.desc 41 26
  let s2 :=
    if !bitOf x.desc 52 then s1
    else if !bitOf x.desc 51 then pegWrite s1 seat peg true
    else if l < bitsOf (vzseatid s1 seat) 47 32 then pegRemote s1 seat l peg true else s1
  catchSettle s2 seat

/-- State 3 without an outcome of its own. -/
def xferEnd (s : State) (seat : Nat) (x : Xfer) : State := catchSettle (xferPut s seat { x with st := .aborted }) seat

/-- A fault record of a transfer (09 Table Ranges-13). -/
def xferRecord (s : State) (seat : Nat) (x : Xfer) (cursor access va reason : Nat) : FaultRec :=
  let slot := (seatShell s seat).getD 0
  { shell := slot, lseat := lseatOf (shellOf s slot) seat, ticket := x.ticket, va := va, cursor := cursor, access := access, reason := reason
    slot := if xfKind x.desc = 3 then some (bitsOf x.desc 127 116) else none, tb := s.tb }

/-- State 3 with the context lost, reported in a batch with CONTEXT_LOST; a lent seat reports it to its borrower (09 Table Ranges-9, Table
Ranges-15, 14 R483). -/
def xferAbort (s : State) (seat : Nat) (env : XEnv) (x : Xfer) (r : FaultRec) : State :=
  let s1 := xferPut s seat { x with st := .aborted }
  match env.shell with
  | none => lentReport (seatHalt s1 seat) seat (.lost (BitVec.ofNat 8 r.reason) (BitVec.ofNat 64 (seatOf (seatHalt s1 seat) seat).arr.summary))
  | some slot =>
    let c := ctxOf s1 env.ctx
    if c.st = .live then ctxLoss (ctxPut s1 env.ctx { c with fault := { c.fault with last := some r } }) env.ctx (some (slot, 2, r.reason * 2 ^ 24)) false
    else s1

/-- A failure that concerns no address: the record's address and access are values the spec does not state (log 1). -/
def xferFail (s : State) (seat : Nat) (env : XEnv) (x : Xfer) (reason : Nat) : State :=
  xferAbort (freeNext s) seat env x
    (xferRecord s seat x x.cursor ((Config.freeByte s.freeCtr).toNat % 4) (Config.freeWord s.freeCtr).toNat reason)

/-- The Boathouse key behind an address of the peer window, whatever its state (14 R494). -/
def bhKeyAt (s : State) (ga : Nat) : Option BhHome :=
  let off := ga - 0x800000000000
  if inPeerWindow ga ∧ inBoathouse s off then s.bhHomes.find? (fun h => h.aperture == off / 2 ^ 40 && h.window == off % 2 ^ 40 / 2 ^ 30) else none

/-- The status of a job whose key is LOST (11 Table Cmd-7, 14 R495). -/
def bhStatus (h : BhHome) : Nat := if h.orphaned then 7 else 8

/-- A Boathouse transfer answered TIMEOUT, ISLAND_CLOSED or NO_TARGET is held at its cursor, and the key resolved; a LOST key ends the
transfer and its job (14 R494, R495, Table Ghengo-16). -/
def bhHold (s : State) (seat : Nat) (x : Xfer) (k : Nat) (h : BhHome) : State :=
  if h.st = 6 then
    let s1 := xferPut s seat { x with st := .aborted }
    match seatShell s seat with
    | some slot => jobStop s1 slot (bhStatus h) 0
    | none => s1
  else bhResolve (pinc (xferPut s seat { x with st := .active, cursor := k, bhKey := some h.key }) P.bhHeldTransfers) h.key

/-- A transfer that stops at a cursor (09 R324, R327). One that waits for a response goes on from there, or times out (06 R213). -/
def xferStop (s : State) (seat : Nat) (env : XEnv) (x0 : Xfer) (k : Nat) (e : XStop) : State :=
  let x := { x0 with waits := none }
  match e with
  | .ats f p _ => emit (xferPut s seat { x with st := .active, cursor := k }) (.atsRequest f p)
  | .waits acc va ga =>
    xferPut s seat { x0 with st := .active, cursor := k, waits := some (acc, va, ga), tbSent := if x0.cursor = k ∧ x0.waits = some (acc, va, ga) then x0.tbSent else s.tb }
  | .status st acc va ga =>
    if st = stPoisoned then seatPoison (xferPut s seat { x with st := .aborted }) seat va ga
    else if (st = stTimeout ∨ st = stClosed ∨ st = stNoTarget) ∧ (bhKeyAt s ga).isSome then
      (match bhKeyAt s ga with | some h => bhHold s seat x k h | none => s)
    else
      let s1 := if st = stTimeout ∧ inHostWindow ga then { pinc s P.netTimeouts with late := s.late + 1 } else s
      xferAbort s1 seat env x (xferRecord s seat x k acc va (0x20 + st))
  | .fault r acc va =>
    if r ≤ 4 then
      let s1 := if r = 4 then atsForget s env.ctx va else s
      let (s2, ok) := faultRecord s1 env.ctx (xferRecord s seat x k acc va r)
      if (ctxOf s env.ctx).fault.st = .lost then xferEnd s seat x
      else xferPut s2 seat { x with st := .stopped, cursor := k, unrecorded := !ok }
    else xferAbort s seat env x (xferRecord s seat x k acc va r)

/-- Whether the transfers before a ticket in the queue have all been started (09 R321, R322). -/
def earlierStarted (s : State) (seat ticket : Nat) : Bool :=
  ((seatOf s seat).xfers.takeWhile (fun x => x.ticket != ticket)).all (fun x => x.st != .queued)

/-- The transfers of a seat that walk elements, in ticket order: a stopped one, an arm or a fence advance does not. Of those at most 4 go on at
once: one that is resumed beside 4 others waits for its turn (09 R322). -/
def walkers (s : State) (seat : Nat) : List Nat :=
  ((seatOf s seat).xfers.filter (fun x => x.st == .active && decide (xfKind x.desc ≤ 3))).map (·.ticket)

/-- Run `f` on a transfer of a seat whose job runs: one that starts in its turn, or one that goes on (09 R322). `first` says which.
The descriptor's kind is `kind`; one of a reserved kind is met by any row. -/
def xferGo (kind : Nat) (seat ticket : Nat) (s : State) (f : State → XEnv → Xfer → Bool → State) : Ans :=
  match xferFind s seat ticket with
  | none => .next s
  | some x =>
    let k := xfKind x.desc
    match xEnv s seat with
    | none => .next s
    | some env =>
      if (seatOf s seat).mode ≠ .run ∨ (k ≠ kind ∧ 1 ≤ k ∧ k ≤ 6) then .next s
      else if x.st = .queued ∧ earlierStarted s seat ticket ∧ (walkers s seat).length < 4 then
        (if xfFormatOk x.desc (tileFret (seatOf s seat).arr (redTile x.desc)) then .next (f s env { x with st := .active } true)
         else .next (xferFail s seat env x 0x11))
      else if x.st = .active ∧ x.bhKey = none ∧ (k > 3 ∨ ((walkers s seat).take 4).contains ticket) then .next (f s env x false)
      else .next s

/-- Whether writes of a seat's transfers over Ghengo have not left their link block yet (14 R469). -/
def xferUnsent (s : State) (seat : Nat) : Bool :=
  s.ghWaiting.any (fun w => w.agent == seat && (match w.out with | .ghPacket _ _ _ _ _ _ _ op _ _ _ => op == 1 || op == 3 | _ => false)
    && !(seatOf s seat).core.stores.any (fun p => w.own == some p.tag))

/-- Walk a transfer from its cursor to its end, or to where it stops. It is done, and its peg follows, once all its writes have left (09 R323, 07 R242,
R251). -/
def xferWalk (seat : Nat) (o : Outside) (s : State) (env : XEnv) (x : Xfer) : State :=
  let (s1, r) := xWalk seat env x (xfTotal x.desc - x.cursor) x.cursor none o (xferPut s seat x)
  match r with
  | none => if xferUnsent s1 seat then xferPut s1 seat { x with cursor := xfTotal x.desc, waits := none } else xferDone s1 seat x
  | some (k, e) => xferStop s1 seat env x k e

/-- The weight key that a COPY with WDEC latches: none when its slot is EMPTY or names another shell (18 R589). A lent seat's lies at its borrower
and is a free value here (log 52). -/
def wkeyLatch (s : State) (env : XEnv) (d : Nat) : Option (Bytes × Nat × Nat) :=
  match env.shell with
  | none => some (leBytes 32 (Config.freeWord s.freeCtr).toNat, (Config.freeWord (s.freeCtr + 1)).toNat, 0)
  | some slot =>
    let w := tget (fun _ => ({} : WkeySlot)) (ctxOf s env.ctx).wkeys (bitsOf d 24 19)
    if w.key ≠ [] ∧ w.shell = slot then some (w.key, w.nonce, w.baseVa) else none

/-- XFER_COPY (09 R320, 18 R589). -/
def execXferCopy (seat : SeatId) (ticket : U32) (o : Outside) (s : State) : Ans :=
  xferGo 1 seat.val ticket.toNat s (fun s env x first =>
    if first ∧ bitOf x.desc 25 then
      match wkeyLatch s env x.desc with
      | none => xferFail s seat.val env x 0x13
      | some w => xferWalk seat.val o (freeNext s) env { x with wkey := some w }
    else xferWalk seat.val o s env x)

/-- XFER_FILL (09 R319). -/
def execXferFill (seat : SeatId) (ticket : U32) (o : Outside) (s : State) : Ans :=
  xferGo 2 seat.val ticket.toNat s (fun s env x _ => xferWalk seat.val o s env x)

/-- XFER_KV_GATHER: it reads its sequence-slot record once, when it starts (09 R325, R326). A lent seat's lies at its borrower and is a free
value here (log 52). -/
def execXferKvGather (seat : SeatId) (ticket : U32) (o : Outside) (s : State) : Ans :=
  xferGo 3 seat.val ticket.toNat s (fun s env x first =>
    if !first then xferWalk seat.val o s env x
    else if env.shell.isNone then
      let f := fun (i : Nat) => (Config.freeWord (s.freeCtr + i)).toNat
      xferWalk seat.val o (freeNext s) env { x with seqRec := f 0 + f 1 * 2 ^ 64 + f 2 * 2 ^ 128 + f 3 * 2 ^ 192 }
    else
      let r := tget (fun _ => 0) s.seqSlots (bitsOf x.desc 127 116)
      if !bitOf r 239 ∨ bitsOf r 255 240 ≠ env.ctx then xferFail s seat.val env x 0x12
      else xferWalk seat.val o s env { x with seqRec := r })

/-! ### Unison add at its ends (06 R219, R220) -/

/-- The slot under which groups and packets of a seat's shell are named here: for a lent seat, one of its lease (14 R483). -/
def redSlot (s : State) (seat : Nat) : Nat :=
  match seatShell s seat with
  | some sl => sl
  | none => match lentOf s seat with | some (l, _) => lentSlot l.id | none => 0

/-- XFER_RED_ARM: arm a group at the seat; it is done when the group disarms. A ninth group waits for room. A refused group of the name gives way:
later packets meet the new arm (06 R219, R224, R228, logs 36, 69). -/
def execXferRedArm (seat : SeatId) (ticket : U32) (s : State) : Ans :=
  xferGo 4 seat.val ticket.toNat s (fun s _ x _ =>
    let s1 := xferPut s seat.val x
    let t := seatOf s1 seat.val
    if t.groups.countP (fun g => !g.refused) ≥ 8 ∨ t.groups.any (fun g => g.ticket == x.ticket) then s1
    else
      let d := x.desc
      let g : RedGroup := { shell := redSlot s seat.val, group := redGroupOf d, tile := redTile d, first := redFirst d, count := redCount d, expected := redWeight d
                            peg := bitsOf d 47 42, fretBase := bitsOf d 143 128, fret := bitOf d 144, ticket := x.ticket }
      seatPut s1 seat.val { t with groups := t.groups.filter (fun y => !(y.refused && y.shell == g.shell && y.group == g.group)) ++ [g] })

/-- The island where a unison-add packet of a slot for a logical seat ends on this module: the seat, or the link block of the port by which it
leaves toward a leased seat or a borrower; `src` is its source island (06 R226, 14 R469). -/
def redDest (s : State) (slot lseat src : Nat) : Option Nat :=
  match s.lent.find? (fun l => lentSlot l.id == slot) with
  | some l => (agentPort s src l.borrower l.ports).map (fun p => 2336 + p / 2)
  | none =>
    let sh := shellOf s slot
    match (if sh.holds.contains lseat then holdSeat sh lseat else sh.rig.seats[lseat]?) with
    | some seat => some seat
    | none => match (leasedSeats sh)[lseat - sh.rig.seats.length]? with
      | some x => (agentPort s src (bitsOf x.1 255 240) (recPorts x.1)).map (fun p => 2336 + p / 2)
      | none => none

/-- The packets of a contribution, a snapshot of the tile's words (06 R220). -/
def redPackets (s : State) (slot seat : Nat) (x : Xfer) : List RedPkt :=
  let d := x.desc
  let a := (seatOf s seat).arr
  let t := redTile d
  let fret := tileFret a t
  let n := if fret then 4 else 16
  let route := match redDest s slot (bitsOf d 143 128) seat with | some i => redNodes seat i | none => []
  (List.range (redCount d / n)).map (fun i =>
    { slot := slot, group := redGroupOf d, lseat := bitsOf d 143 128, first := redFirst d + n * i, fret := fret, base := tileBaseRaw a t
      flags := tileStatus a t % 4, words := (List.range n).map (fun k => arrWord a t (redFirst d + n * i + k)), src := [.xfer seat x.ticket]
      origins := [(seat, s.nextId + i)], route := route })

/-- XFER_RED_SEND: the contribution's packets go out; it is done when each has been acknowledged (06 R220, R225). -/
def execXferRedSend (seat : SeatId) (ticket : U32) (s : State) : Ans :=
  xferGo 5 seat.val ticket.toNat s (fun s _ x first =>
    if first then
      let ps := redPackets s (redSlot s seat.val) seat.val x
      { xferPut s seat.val { x with unacked := ps.length, tbSent := s.tb } with red := s.red ++ ps, nextId := s.nextId + ps.length }
    else s)

/-! ### Fence advances (07 R253, R254, 09 R323) -/

/-- The fence bindings, of any context, of a global address (07 R254). -/
def boundAt (s : State) (ga : Nat) : List (Nat × Nat × FenceBind) :=
  s.ctxs.flatMap (fun c => c.2.fences.filterMap (fun e => match e.2 with | some b => if b.ga = ga then some (c.1, e.1, b) else none | none => none))

/-- A FENCE_ADV is performed: KEPT of the context's own bindings of the word rises, and it is done (10 R351). -/
def fenceKept (s : State) (seat cid : Nat) (x : Xfer) (ga : Nat) : State :=
  let v := xfDst x.desc
  let s1 := ((boundAt s ga).filter (fun b => b.1 == cid)).foldl (fun s b =>
    let c := ctxOf s cid
    match tget (fun _ => none) c.fences b.2.1 with
    | some k => ctxPut s cid { c with fences := tset (fun _ => none) c.fences b.2.1 (some { k with kept := max k.kept v }) }
    | none => s) s
  xferDone (waitsDue s1 ga) seat x

/-- A FENCE_ADV to a bound host word whose posted write is not delivered: it is stored, and the context of the job lost (10 R355, R356, R361). -/
def fenceUndelivered (s : State) (seat cid : Nat) (x : Xfer) (i : Nat) (ga cause : Nat) : State :=
  let s1 := ucStore (xferPut s seat { x with st := .aborted }) (ctxOf s cid).fn
    (ucRecord (pack [(104, i), (112, cid), (128, xfDst x.desc), (192, xfSrc x.desc)]) (hostAddr ga) s.tb 1 cause)
  ctxLoss s1 cid none false

/-- The loop at an unbound word of the host window, with the value read: it ends when that reaches the new value (07 R254). -/
def fenceLoop (s : State) (seat cid : Nat) (x : Xfer) (ga r : Nat) : State :=
  let v := xfDst x.desc
  if r ≥ v then fenceKept s seat cid x ga
  else emit (xferPut s seat { x with casValue := some r, tbSent := s.tb }) (.hostCas (hostAddr ga) r v)

/-- XFER_FENCE_ADV: once every earlier ticket has reached state 1 (09 R323); `o` brings the word of an unbound host word, or the status of
its read. Without AtomicOp requests on the function, an advance of such a word fails (07 R254). -/
def execXferFenceAdv (seat : SeatId) (ticket : U32) (o : Outside) (s : State) : Ans :=
  xferGo 6 seat.val ticket.toNat s (fun s env x _ =>
    let i := seat.val
    let earlier := (seatOf s i).xfers.takeWhile (fun y => y.ticket != x.ticket)
    let va := xfSrc x.desc
    let v := xfDst x.desc
    let s1 := xferPut s i x
    if earlier.any (fun y => y.st == .aborted) then xferEnd s1 i x
    else if earlier ≠ [] ∨ x.casValue.isSome then s1
    else match xAddr s1 env va .atomic with
    | .error e => xferStop s1 i env x 0 e
    | .ok (.own _) => s1
    | .ok (.at ga) =>
      if inHostWindow ga then
        match boundAt s1 ga with
        | b :: _ => match hostWriteFails s1 (ctxOf s1 env.ctx).fn (hostAddr ga) with
          | some cause => fenceUndelivered s1 i env.ctx x b.2.1 ga cause
          | none => xferDone (fenceHostWrite s1 b.1 b.2.1 b.2.2 ga v (b.1 == env.ctx)) i x
        | [] =>
          if !(fnOf s1 (ctxOf s1 env.ctx).fn).atomics then xferStop s1 i env x 0 (.status stNoTarget 2 va ga)
          else
            let (st, w, _) := outsideTake o 8
            if st = stOk then fenceLoop (emit s1 (.hostRead (hostAddr ga) 8)) i env.ctx x ga (leNat w)
            else xferStop (emit s1 (.hostRead (hostAddr ga) 8)) i env x 0 (.status st 2 va ga)
      else
        let p := corePlace s1 i ga 8
        if coreUnanswered s1 i ga p then xferStop s1 i env x 0 (.waits 2 va ga)
        else
          let (s2, st, _) := placeAtomic (askAtomic (chanMeet s1 p 8 o.check) p 8 .maxu v) p 8 .maxu v o
          if st = stOk then fenceKept s2 i env.ctx x ga else xferStop s2 i env x 0 (.status st 2 va ga))

/-- FENCE_CAS_COMPLETION: the CompareAndSwap of a loop returns the word's value, or was completed with UR or CA (07 R254). -/
def execFenceCasCompletion (seat : SeatId) (ticket : U32) (r : Option U64) (s : State) : Ans :=
  let i := seat.val
  match xferFind s i ticket.toNat, xEnv s i with
  | some x, some env =>
    if x.st ≠ .active ∨ x.casValue = none then .next s
    else
      let va := xfSrc x.desc
      match xAddr s env va .atomic, r with
      | .ok (.at ga), some v => .next (fenceLoop s i env.ctx x ga v.toNat)
      | .ok (.at ga), none => .next (xferStop s i env x 0 (.status stNoTarget 2 va ga))
      | .error e, _ => .next (xferStop s i env x 0 e)
      | .ok (.own _), _ => .next s
  | _, _ => .next s

/-! ### Prefills (11 R387) -/

/-- What stops a read of a job's context over a span, page by page, if anything does: a fault or an ATS translation that is asked for. -/
def spanStop (s : State) (cid : Nat) (pins : List (Nat × Nat)) : Nat → Nat → Nat → Option XStop
  | 0, _, _ => none
  | fuel + 1, va, n =>
    if n = 0 then none
    else match translatePins s cid pins va .read with
    | .ok _ => let k := min n (4096 - va % 4096); spanStop s cid pins fuel (va + k) (n - k)
    | .fault r => some (.fault r 0 va)
    | .ats f p => some (.ats f p va)

/-- A prefill's resolvable fault joins its context's batch, once; the spec gives a prefill neither ticket nor walk index, and these fields of its record
are free (log 1). -/
def prefillFault (s : State) (slot l cid va reason : Nat) : State :=
  let f := (ctxOf s cid).fault
  if (f.records ++ f.held).any (fun r => r.shell == slot && r.lseat == l && r.va == va && r.reason == reason) then s
  else
    let w := (Config.freeWord s.freeCtr).toNat
    (faultRecord (freeNext s) cid
      { shell := slot, lseat := l, ticket := w % 2 ^ 32, va := va, cursor := w / 2 ^ 32, access := 0, reason := reason, slot := none, tb := s.tb }).1

/-- PREFILL_DONE: the prefill of one logical seat of a loading job ends (11 R387). A source outside the module arrives with the command, and any
other is read from device memory. A resolvable fault stops it, and the job's start waits until it is resolved; any other makes the job FAULTED: a
read that is refused, or a window of the seat that does not let it in (05 R185). -/
def execPrefillDone (slot : Slot) (lseat : U16) (r : ReadResult) (s : State) : Ans :=
  let sh := shellOf s slot.val
  match sh.job with
  | none => .next s
  | some j =>
    let l := lseat.toNat
    let src := j.launch.prefillSrc + l * j.launch.prefillStride
    let far := (leasedSeats sh)[l - sh.rig.seats.length]?
    if j.phase ≠ .loading ∨ l ≥ shellSeats sh ∨ remoteBusy sh ∨ j.prefilled.contains l ∨ sh.scrubbing.contains (sh.rig.seats.getD l 0) ∨ j.launch.prefillBytes = 0 then .next s
    else match spanStop s j.ctx j.launch.pins (j.launch.prefillBytes / 4096 + 2) src j.launch.prefillBytes with
    | some (.ats f p _) => .next (emit s (.atsRequest f p))
    | some (.fault reason _ va) =>
      if reason ≤ 4 then .next (prefillFault (if reason = 4 then atsForget s j.ctx va else s) slot.val l j.ctx va reason)
      else .next (jobFault s slot.val 2 (reason * 2 ^ 24))
    | _ => match vaRead s true j.ctx src j.launch.prefillBytes r with
      | (_, .waits) => .next s
      | (s1, .fault) => .next (jobFault s1 slot.val 2 (0x01 * 2 ^ 24))
      | (s1, .refused st) => .next (jobFault s1 slot.val 2 ((0x20 + st) * 2 ^ 24))
      | (s0, .ok b) =>
        let s := s0
        let st := if l < sh.rig.seats.length then lseatStatus s slot.val sh.windows l (32 * j.launch.prefillOffset) b.length else stOk
        if (shellOf s slot.val).job ≠ some j then .next s
        else if st ≠ stOk then .next (jobFault s slot.val 2 ((0x20 + st) * 2 ^ 24))
        else
        let s1 := if l < sh.rig.seats.length then lseatWrite s slot.val none .agent l (32 * j.launch.prefillOffset) b
          else match far with
          | some x => remoteSend s slot.val x (.prefill (BitVec.ofNat 32 (32 * j.launch.prefillOffset)) b) { remoteOf sh x with pending := true }
          | none => s
        .next (jobTryStart (shellPut s1 slot.val { shellOf s1 slot.val with job := some { j with prefilled := sAdd j.prefilled l } }) slot.val)

end Sys2Proof.Machine
end

