-- ==== Sys2Proof/Machine/Net.lean ====
section
/-! DEFINITION. The commands of the crossbar, mesh and ring: packets that arrive, unison add on its way and at its destination,
timeouts, link errors, and the clock lent during a wait (06 R200 to R226, 07 R248, R262). -/
namespace Sys2Proof.Machine

/-! ### Packets (06 R198 to R202, R212) -/

/-- The data bytes of a request or of its response; a packet carries at most four flits of 64 (06 R198). -/
def reqLen : Req → Nat
  | .read n => n.val
  | .write _ d => d.length
  | .atomic _ dbl _ => if dbl then 8 else 4

/-- Whether a request wants a response. -/
def reqAsks : Req → Bool
  | .write ack _ => ack
  | _ => true

/-- What a request of a source does at a logical seat. -/
def reqOp (s : State) (src slot l off : Nat) : Req → NetOp
  | .read n => .read n.val
  | .write _ d => writeOp s src slot l off d
  | .atomic op dbl v => .atomic op (if dbl then 8 else 4) v.toNat

/-- A request is performed at a place that is no logical seat's, and answered; one whose response is lost on the way becomes the TIMEOUT of the source's own
port (06 R212 to R214). -/
def reqServe (s : State) (src : Nat) (p : Place) (back : NetBack) (req : Req) (o : Outside) : State :=
  let answer := fun (s1 : State) (st : Nat) (b : Bytes) => netReply s1 (placeAnswers s src p) back st b
  let s := match req with | .write _ _ => s | _ => chanMeet s p (reqLen req) o.check
  match req with
  | .read n =>
    let (st, b, _) := placeRead s p n.val o
    answer (askRead s p n.val) st b
  | .write _ d =>
    let (s1, st) := placeWrite (placeMerge s p d.length o.check) p d o
    answer s1 st []
  | .atomic op dbl v =>
    let w := if dbl then 8 else 4
    let (s1, st, old) := placeAtomic (askAtomic s p w op v.toNat) p w op v.toNat o
    answer s1 st (if st = stOk then leBytes w old else [])

/-- REQ_PACKET_ARRIVAL: a request of an agent on a source island, of a shell or of none, is performed where its address lands, and answered with its
status. Toward a logical seat of its shell it goes behind those of its source that wait, a peg write on PEG (06 R199 to R201, R212, R214). Elsewhere it has not
arrived while others of its source stand before it (01 R34). -/
def execReqPacketArrival (src : IslandId) (slot : Option Slot) (req : Req) (ga : U64) (o : Outside) (s : State) : Ans :=
  let n := reqLen req
  let back : NetBack := if reqAsks req then .packet ga.toNat else .none
  let serve := fun (p : Place) => if placeStuck s src.val p then s else reqServe s src.val p back req o
  if n > 256 ∨ !s.pins.inputGood then .next s
  else match windowOf ga.toNat, slot with
  | some (w, l, off), some sl =>
    if w = sl.val ∧ l < shellSeats (shellOf s w) then
      .next (netSettle (netSend true s { slot := w, lseat := l, off := off, op := reqOp s src.val w l off req, src := src.val, back := back } o))
    else .next (serve (place s src.val (some sl.val) ga.toNat n))
  | _, sl => .next (serve (place s src.val (sl.map (·.val)) ga.toNat n))

/-- PEG_WRITE_ARRIVAL: a peg write of a source island, behind the `after` REQ writes it sent to that seat, reaches the seat's peg unit. One that
arrives before them is held; when the 32 entries of the port are full, PEG credit is withheld and the packet waits upstream (06 R201, 07 R248). -/
def execPegWriteArrival (src : PegSender) (slot : Slot) (lseat : U16) (peg : Fin 48) (value : Bool) (s : State) : Ans :=
  if s.pins.inputGood then
    .next (netSettle (netSend true s
      { slot := slot.val, lseat := lseat.toNat, off := 0x1C0000 + 8 * peg.val, op := .peg src.after.toNat value, src := src.island.val } {}))
  else .next s

/-- RSP_PACKET_ARRIVAL: a response to a request that has been answered TIMEOUT is discarded and counted (06 R213); otherwise the oldest
unison-add acknowledgement reaches its contribution (06 R225). Responses to loads, stores and atomics have rows of their own. -/
def execRspPacketArrival (late : Bool) (s : State) : Ans :=
  if late then (if s.late > 0 then .next (pinc { s with late := s.late - 1 } P.netLateResponses) else .next s)
  else match s.redAcks with
  | [] => .next s
  | a :: rest =>
    let s1 := { s with redAcks := rest }
    match a.src with
    | .remote port id agent tag => .next (farRespond s1 port 1 id agent tag a.status [])
    | .xfer seat ticket =>
      match xferFind s1 seat ticket, xEnv s1 seat with
      | some x, some env =>
        if x.st ≠ .active ∨ x.unacked = 0 then .next s1
        else if a.status ≠ stOk then .next (xferFail s1 seat env x (0x20 + a.status))
        else if x.unacked = 1 then .next (xferDone s1 seat x)
        else .next (xferPut s1 seat { x with unacked := x.unacked - 1 })
      | _, _ => .next s1

/-- Firmware bytes reach a seat: they fill its firmware store, and the seat is as the broadcast leaves it (05 R165, R196). -/
def firmwareFill (s : State) (seat off : Nat) (b : Bytes) : State :=
  let t := seatOf s seat
  let store := (List.range b.length).foldl (fun m i => if off + i < 32768 then tset memDefault m (off + i) (b.getD i 0) else m) t.store
  seatPut s seat { seatFresh s t with store := store }

/-- A firmware packet goes to a seat; one that meets a closed bridge or a failed link is discarded and counted there (01 R38, 06 R217). -/
def firmwareSend (s : State) (seat off : Nat) (b : Bytes) : State :=
  match blockedAt s 2352 seat with
  | some n => countClosed s n
  | none => firmwareFill s seat off b

/-- MGT_PACKET_ARRIVAL: a packet of the Cox or a front end reaches a die crossbar. A multicast packet goes to every seat port of its mask: in stage 4
of the start it carries the firmware (06 R202, 05 R196). A unicast packet carries an access to a physical seat window (07 R233). -/
def execMgtPacketArrival (die : Fin 16) (mask : BitVec 144) (op : MgtOp) (s : State) : Ans :=
  match op with
  | .firmware off data =>
    if pget s P.startStage = 4 ∧ data.length ≤ 256 then
      .next ((List.range 144).foldl (fun s i => if bitOf mask.toNat i then firmwareSend s (144 * die.val + i) off.toNat data else s) s)
    else .next s
  | .access req ga =>
    let n := reqLen req
    if n > 256 ∨ !s.pins.inputGood then .next s
    else
      .next (reqServe s 2352 (placePhysical s 2352 ga.toNat n) (if reqAsks req then .packet ga.toNat else .none) req {})

/-! ### Unison add (06 R221 to R226) -/

/-- Whether two packets combine: group name, word index, fret base and mode agree (06 R221). -/
def redMatch (p q : RedPkt) : Bool :=
  p.slot == q.slot && p.group == q.group && p.lseat == q.lseat && p.dest == q.dest && p.first == q.first && p.base == q.base && p.fret == q.fret

/-- One addition of unison add: of FRET128 words, or of FP32 words (06 R221). -/
def redAdd (fret : Bool) (a b : Nat) : Nat := if fret then fretAdd a (termOf b) else fp32Add a (fpWord b)

/-- Two packets combined (06 R221). -/
def redCombine (p q : RedPkt) : RedPkt :=
  { p with words := List.zipWith (redAdd p.fret) p.words q.words, flags := p.flags ||| q.flags, weight := p.weight + q.weight
           src := p.src ++ q.src, origins := p.origins ++ q.origins }

/-- Whether a packet goes before another: one of its sources has sent it to the same destination earlier (06 R200). -/
def redBefore (q p : RedPkt) : Bool :=
  q.slot == p.slot && q.lseat == p.lseat && q.dest == p.dest && q.origins.any (fun a => p.origins.any (fun b => a.1 == b.1 && decide (a.2 < b.2)))

/-- RED_NODE_ARRIVAL: packet `k` reaches node `node`, the next combining node on its route, unless one that goes before it has not: it combines with a held match,
or is held, or moves on when the node's 32 entries are full; it never passes one that goes before it (06 R200, R221). -/
def execRedNodeArrival (k node : Nat) (s : State) : Ans :=
  match s.red[k]? with
  | none => .next s
  | some p =>
    match p.node, p.route with
    | none, n :: rest =>
      let ahead := s.red.filter (fun q => redBefore q p)
      let queue := ahead.any (fun q => q.node == some n)
      if node ≠ n ∨ ahead.any (fun q => decide (q.route.length > rest.length)) then .next s
      else match (if queue then none else s.red.findIdx? (fun q => q.node == some n && redMatch q p)) with
      | some i => match s.red[i]? with
        | some q =>
          let c := redCombine q p
          let stays := (s.red.eraseIdx i).any (fun x => x.node == some n && redBefore x c)
          .next { s with red := (s.red.set i { c with node := if stays then some n else none }).eraseIdx k }
        | none => .next s
      | none =>
        if s.red.countP (fun q => q.node == some n) < 32 then .next { s with red := s.red.set k { p with node := some n, route := rest } }
        else if queue then .next s
        else .next { s with red := s.red.set k { p with route := rest } }
    | _, _ => .next s

/-- COMBINE_HOLD_EXPIRY: after 16 sc without a partner a held packet moves on, after those that go before it (06 R200, R221). -/
def execCombineHoldExpiry (k : Nat) (s : State) : Ans :=
  match s.red[k]? with
  | none => .next s
  | some p =>
    if p.node.isSome ∧ s.red.any (fun q => q.node == p.node && redBefore q p) then .next s
    else .next { s with red := s.red.set k { p with node := none } }

/-- The answer of a seat to a unison-add packet, with the seat's state after it: the words merged, or the refusal of R223 and R224. A packet is
compared with its group alone, as R222 and R223 have it: where the arm named another base or mode than the tile has now, the words are added by the
packet's mode all the same (DESIGN CHOICE, log 69). The flags that a packet carries are ORed into the tile's status in either mode: 03 R101 gives the OR, and
R112 keeps the bits zero in fretless mode, so that only a packet from another module can bring them (DESIGN CHOICE, log 86). -/
def redMerge (s : State) (seat : Nat) (p : RedPkt) : State × Nat :=
  let t := seatOf s seat
  match t.groups.find? (fun g => g.shell == p.slot && g.group == p.group) with
  | none => (s, 6)
  | some g =>
    let put := fun (g1 : RedGroup) (a : Arr) => seatPut s seat { t with groups := t.groups.map (fun y => if y = g then g1 else y), arr := a }
    if g.refused then (s, 5)
    else if g.fret ≠ p.fret ∨ g.fretBase ≠ p.base ∨ p.first < g.first ∨ p.first + p.words.length > g.first + g.count ∨ g.got + p.weight > g.expected then
      let s1 := put { g with refused := true } { t.arr with refused := sAdd t.arr.refused g.tile }
      (match xferFind s1 seat g.ticket with | some x => xferEnd s1 seat x | none => s1, 5)
    else
      let a1 := (p.words.zipIdx).foldl (fun a w => wordMerge a g.tile (p.first + w.2) p.fret w.1) t.arr
      let a2 := tileFlag a1 g.tile (p.flags % 4)
      let a3 := { a2 with merged := sAdd a2.merged g.tile }
      if g.got + p.weight = g.expected then
        let s1 := seatPut s seat { t with groups := t.groups.filter (fun y => y != g), arr := a3 }
        (match xferFind s1 seat g.ticket with | some x => xferDone s1 seat x | none => s1, 0)
      else (put { g with got := g.got + p.weight } a3, 0)

/-- Where a unison-add packet that has passed its nodes ends. -/
inductive RedTo where
  | seat (i : Nat)
  /-- The window is in HOLD: the hold buffer of a die. -/
  | hold (die : Nat)
  /-- Over Ghengo: port, module, lease and offset (06 R226, 14 R469). -/
  | far (port dst id off : Nat)
  | no (st : Nat)
  deriving DecidableEq, Repr

/-- Where a packet ends, by its destination: a seat that it names, a lent seat's borrower, a logical seat of the shell, a leased seat. -/
def redTo (s : State) (p : RedPkt) : RedTo :=
  let src := match p.origins with | (i, _) :: _ => i | [] => 0
  let byPort := fun (dst : Nat) (ports : List Nat) (id off : Nat) => match agentPort s src dst ports with | some q => RedTo.far q dst id off | none => .no stTimeout
  match p.dest, s.lent.find? (fun l => lentSlot l.id == p.slot) with
  | some i, _ => .seat i
  | none, some l => byPort l.borrower l.ports l.id (p.lseat * 0x200000)
  | none, none =>
    let sh := shellOf s p.slot
    if sh.holds.contains p.lseat then .hold ((holdSeat sh p.lseat).getD 0 / 144)
    else match sh.rig.seats[p.lseat]? with
    | some seat => .seat seat
    | none => match (leasedSeats sh)[p.lseat - sh.rig.seats.length]? with
      | some x => if remoteLost sh x then .no stNoTarget else byPort (bitsOf x.1 255 240) (recPorts x.1) (bitsOf x.1 239 208) (x.2 * 0x200000)
      | none => .no stNoTarget

/-- Every contribution in a packet is acknowledged with its status, where the response reaches it; to one of another module whose response is lost on the
way TIMEOUT is answered, and one of this module has its own timeout (06 R213, R225). -/
def redAck (s : State) (k : Nat) (p : RedPkt) (island st : Nat) : State :=
  let s1 := if st = 5 ∨ st = 6 then pinc s P.redRefusals else s
  let back := p.src.filterMap (fun c => match c with
    | .xfer seat _ => if answers s island seat then some { src := c, status := st } else none
    | .remote port _ _ _ => some { src := c, status := if answers s island (2336 + port / 2) then st else stTimeout })
  { s1 with red := s1.red.eraseIdx k, redAcks := s1.redAcks ++ back }

/-- RED_PACKET_ARRIVAL: packet `k`, behind those that go before it, reaches its destination, and every contribution in it is acknowledged with its
status (06 R222 to R225). While its window is in HOLD it waits in the hold buffer, or where its credit is withheld (06 R211). A closed bridge or a
failed link on its way discards it and answers ISLAND_CLOSED (01 R38, 06 R217), and counts it there as R38 counts posted writes (DESIGN CHOICE, log 85). It has
not arrived while others stand before it in a bridge (01 R34). `st` is the answer of a destination on another module. -/
def execRedPacketArrival (k : Nat) (st : Fin 8) (s : State) : Ans :=
  match s.red[k]? with
  | none => .next s
  | some p =>
    if p.node.isSome ∨ p.route ≠ [] ∨ s.red.any (fun q => redBefore q p) then .next s
    else
      let ends := redTo s p
      let island := match ends with | .seat i => i | .far q _ _ _ => 2336 + q / 2 | .hold d => 2304 + d | .no _ => 2352
      if p.origins.any (fun a => stuck { s with red := s.red.take k } a.1 island 2) then .next s
      else match (p.origins.filterMap (fun a => match ends with | .no _ => none | _ => blockedAt s a.1 island)).head?, ends with
      | some n, _ => .next (redAck (countClosed s n) k p island stClosed)
      | none, .hold die => .next (if p.held ∨ !holdRoom s die 1 then s else { s with red := s.red.set k { p with held := true } })
      | none, .seat seat => let (s1, r) := redMerge s seat p; .next (redAck s1 k p island r)
      | none, .far port dst id off =>
        let data := [p.group, p.lseat, p.first, if p.fret then 1 else 0, p.base, p.flags, p.weight] ++ p.words
        .next (redAck (farSend s port dst 2 1 id off (match p.origins with | (i, _) :: _ => i | [] => 0) 4 data) k p island st.val)
      | none, .no r => .next (redAck s k p island r)

/-! ### Timeouts (06 R213, R229) -/

/-- A TIMEOUT is given, and the request's response is still to come. -/
def netTimeout (s : State) : State := { pinc s P.netTimeouts with late := s.late + 1 }

/-- Whether requests for an address leave over Ghengo: the peer window, a leased seat's window, and what a lent seat sends to its borrower (14
R470). -/
def overGhengo (s : State) (ga : Nat) : Bool :=
  inPeerWindow ga || decide (lentWindow ≤ ga)
    || (match windowOf ga with | some (slot, l, _) => decide ((shellOf s slot).rig.seats.length ≤ l) && (shellOf s slot).windows == .here | none => false)

/-- Whether an address lies inside the module for R213: seats, die slices, channels and MD registers. -/
def timedInside (s : State) (ga : Nat) : Bool :=
  !overGhengo s ga && !inHostWindow ga && !(decide (cxlWindow ≤ ga) && decide (ga < 0x180000000000)) && !inPeerWindow ga && decide (ga < lentWindow)

/-- Whether a request of a seat for an address waits for a copy: the seat there is in HOLD, or the request stands behind others whose seat is (06 R229). -/
def inHold (s : State) (seat ga : Nat) : Bool :=
  (match windowOf ga with
    | some (slot, l, _) => (shellOf s slot).holds.contains l
    | none => false) || placeStuck s seat (corePlace s seat ga 1)

/-- The wait of a core for a response times out when its address is of the kind and the time has passed. -/
def coreTimeout (s : State) (seat after : Nat) (inside : Nat → Bool) : State :=
  let c := (seatOf s seat).core
  let go := fun (va ga cause : Nat) =>
    if inside ga ∧ tbPast s.tb c.tbWait after ∧ !inHold s seat ga then coreStatus (netTimeout s) seat stTimeout va ga cause else s
  match c.wait with
  | .fetch va ga => go va ga 1
  | .load _ _ _ _ va ga => go va ga 5
  | .fill va ga _ => go va ga 7
  | .amo _ _ _ _ va ga => go va ga 7
  | _ => s

/-- The packets of a contribution are not answered any more. -/
def redForget (s : State) (seat ticket : Nat) : State :=
  { s with red := s.red.map (fun p => { p with src := p.src.filter (fun c => c != .xfer seat ticket) }), redAcks := s.redAcks.filter (fun a => a.src != .xfer seat ticket) }

/-- NET_REQUEST_TIMEOUT: a request of a seat inside the module has had no response for 100 µs, a hold of its window apart: its core's fetch, load,
line fill or atomic, or its oldest store, or a contribution or an access of a transfer (06 R213, R214, R225, R229). -/
def execNetRequestTimeout (seat : SeatId) (what : NetReq) (s : State) : Ans :=
  let i := seat.val
  let t := seatOf s i
  match what with
  | .core => .next (coreTimeout s i 100000 (timedInside s))
  | .store => match t.core.stores with
    | p :: rest =>
      if timedInside s p.ga ∧ tbPast s.tb p.tb 100000 ∧ !inHold s i p.ga then
        let s1 := ghFlush (corePut (netTimeout s) i { t.core with stores := rest })
        (if t.mode = .run then .next (coreStatus s1 i stTimeout p.va p.ga 7) else .next (catchSettle s1 i))
      else .next s
    | [] => .next s
  | .transfer ticket => match xferFind s i ticket.toNat, xEnv s i with
    | some x, some env =>
      if x.st ≠ .active ∨ !tbPast s.tb x.tbSent 100000 then .next s
      else if x.unacked > 0 then
        (if s.red.any (fun p => p.src.contains (.xfer i x.ticket) && (match redTo s p with | .hold _ => true | _ => false)) then .next s
         else .next (xferFail (netTimeout (redForget s i x.ticket)) i env x (0x20 + stTimeout)))
      else match x.waits with
      | some (acc, va, ga) =>
        if timedInside s ga ∧ !inHold s i ga then .next (xferStop (netTimeout s) i env x x.cursor (.status stTimeout acc va ga)) else .next s
      | none => .next s
    | _, _ => .next s
  -- an advance of MD toward another module is timed by its port
  | .advance _ => .next s

/-- HOST_REQUEST_TIMEOUT: a request to the host window has had no completion for 10 ms: of a core, or of a FENCE_ADV loop (06 R213). -/
def execHostRequestTimeout (seat : SeatId) (ticket : Option U32) (s : State) : Ans :=
  let i := seat.val
  match ticket with
  | none => .next (coreTimeout s i 10000000 inHostWindow)
  | some tk => match xferFind s i tk.toNat, xEnv s i with
    | some x, some env =>
      if x.st = .active ∧ x.casValue.isSome ∧ tbPast s.tb x.tbSent 10000000 then
        .next (xferStop (netTimeout s) i env x 0 (.status stTimeout 2 (xfSrc x.desc) 0))
      else .next s
    | _, _ => .next s

/-! ### Links (06 R216, R217) -/

/-- A link fails: it stays closed until the next start, and every shell is stopped (06 R217, 17 Table Safety-4). -/
def linkFail (s : State) (link : Nat) : State :=
  let s1 := pset s P.linkFailedMask (setBitOf (pget s P.linkFailedMask) link true)
  let s2 := fileError s1 false { kind := 0x04, mechanism := 7, scope := 0, detail0 := link }
  safetyEvents s2 ((List.range 32).filter (fun i => (shellOf s2 i).st != .free)) 7 0x04 { detail0 := link }

/-- LINK_FLIT_ERROR: a receiver asks for replay number `nth` + 1 of a flit. A fourth replay, or more than 1,000 replays within 1 ms, fails the
link (06 R216, R217). -/
def execLinkFlitError (link : LinkId) (nth : Fin 4) (s : State) : Ans :=
  let l := link.val
  if !s.pins.inputGood ∨ bitOf (pget s P.linkFailedMask) l then .next s
  else if nth.val = 3 then .next (linkFail s l)
  else
    -- the times of its replays within the last millisecond
    let times := (tget (fun _ => []) s.linkRate l).filter (fun t => decide (s.tb ≤ t + 1000000)) ++ [s.tb]
    let s1 := pinc { s with linkRate := tset (fun _ => []) s.linkRate l times } (P.linkReplays l)
    if times.length > 1000 then .next (linkFail s1 l) else .next s1

/-! ### A lent clock (07 R262, 15 R518) -/

/-- Whether the device is in a stage of the start, a self-test or a recovery. -/
def recovering (s : State) : Bool :=
  decide (pget s P.startStage ≠ 5) || s.shells.any (fun e => e.2.resetPhase != .none) || s.islands.any (fun e => e.2.st == .inReset)

/-- WAIT_LEND: a wait for a peg or for ops that has lasted 50 µs lets the Cox lower the seat's clock to 500 MHz (07 R261, R262). -/
def execWaitLend (seat : SeatId) (s : State) : Ans :=
  let t := seatOf s seat.val
  let waits : Bool := match t.core.wait with | .peg _ _ _ _ _ _ _ => true | .pegAny _ _ _ _ => true | .arrWait _ => true | _ => false
  if recovering s ∧ waits ∧ tbPast s.tb t.core.tbWait 50000 ∧ t.lentFrom = none then
    .next (pinc (seatPut s seat.val { seatClock s t 500 with lentFrom := some t.clockMhz }) P.lendEvents)
  else .next s

end Sys2Proof.Machine
end

