-- ==== Sys2Proof/Machine/Start.lean ====
section
/-! DEFINITION. Power-up and the kinds of start, reset entry, the stages of a start, and bridges that close (01 R37 to R38, 16 R526
to R536, 19 R614 to R620). -/
namespace Sys2Proof.Machine

/-! ### Beginning a start (16 R526, R528, R536) -/

/-- CXL range records as staged in flash, which apply at a start (08 Table Tiers-10). -/
def rangeStaged (s : State) (i : Nat) : Nat := leNat ((tfind s.stagedOcts (P.cxlRange i)).getD (octGet s (P.cxlRange i)))

/-- The state after every volatile thing of the device is cleared: flash, the retained region, the time base and the
pins stay, parameters in flash keep their values, and every other parameter returns to its default (13 R431, 16 R527). -/
def volatileReset (s : State) : State :=
  let staged := s.staged.filter (fun e => isFlash e.1)
  let stagedOcts := s.stagedOcts.filter (fun e => isFlash e.1)
  { State.reset with
    pending := s.pending, sent := s.sent, tb := s.tb, freeCtr := s.freeCtr, nextId := s.nextId
    flash := s.flash, retained := s.retained, pins := s.pins
    -- staged flash parameters are applied at the start (13 R430)
    regs := staged.foldl (fun t e => tset paramDefault t e.1 e.2) (s.regs.filter (fun e => isFlash e.1))
    staged := staged
    octs := stagedOcts.foldl (fun t e => tset (fun _ => []) t e.1 e.2) (s.octs.filter (fun e => isFlash e.1))
    stagedOcts := stagedOcts
    chans := s.flash.retired.map (fun c => (c, { st := .retired }))
    wake := s.wake.map (fun e => (e.1, { e.2 with pending := [], sealing := false, sealCount := 0, seenCount := 0 }))
    start := { dumping := s.start.dumping } }

/-- Report a start's kind and cause and put it at stage 0; the budget falls back and the composition mode staged for the next start
applies (02 R82, 15 Table Power-4, 16 R526, R550). -/
def startReport (s : State) (cold : Bool) (cause : Nat) : State :=
  let s0 := pset (pset s P.budgetEffectiveW (min (pget s P.fallbackBudgetW) (pget s P.powerLimitW))) P.compositionMode (pget s P.compositionModeNext)
  let s1 := pset (pset (pset (pset s0 P.startKind (if cold then 0 else 1)) P.startCause cause) P.startStage 0) P.startFault 0
  { s1 with start := { s1.start with cold := cold, tbStage := s.tb, pausedNs := 0 } }

/-- Reset entry begins: every job is stopped, unstarted transfers are squashed, and nothing leaves from now on (16 R528).
The Wake records of the stopped work carry ABORTED, or SUSPECT after a lockstep stop (17 R560). -/
def resetEntry (s : State) (cold : Bool) (cause : Nat) : State :=
  let st := if s.start.releasesStopped then 1 else 4
  let s1 := { s with start := { s.start with entry := true, cold := cold, halted := false, hold := false } }
  let s2 := (List.range 32).foldl (fun s i => preemptedAbort (jobStop s i st 0) i) s1
  let s3 := pinc s2 (if cold then P.coldStarts else P.warmStarts)
  let s4 := { s3 with pins := { s3.pins with cxlPerst := 0xFF } }
  startReport s4 cold cause

/-- INPUT_GOOD_RISE: a cold start of cause 0 begins; it is ignored while the rails discharge (16 R526, 19 R614). -/
def execInputGoodRise (s : State) : Ans :=
  if s.pins.inputGood ∨ s.pins.railsDischarging then .next s
  else
    let s1 := volatileReset { s with
      tb := 0
      -- the times of flash writes are of the power-up that ended (DESIGN CHOICE, log 93)
      flash := { s.flash with writes := [] }
      retained := { chains := s.flash.seals.map (fun e => (e.1, e.2.1)) }
      wake := s.flash.seals.map (fun e => (e.1, { sealPrev := e.2.1.lastIndex, tbSeal := 0 }))
      pins := { s.pins with inputGood := true, modPwrgood := false, perstWarm := false, cxlPerst := 0, cxlRefclk := 0, i3cDynamic := none } }
    .next (startReport (pinc s1 P.coldStarts) true 0)

/-- MOD_PWRGOOD_RISE: MOD_PWRGOOD goes high, CXL_PERST# is driven low, and an earlier release of PERST# takes effect (19 R617-R619). -/
def execModPwrgoodRise (s : State) : Ans :=
  if s.pins.inputGood ∧ !s.pins.modPwrgood then
    .next { s with pins := { s.pins with modPwrgood := true, cxlPerst := 0xFF }, start := { s.start with tbStage := s.tb, pausedNs := 0 } }
  else .next s

/-- INPUT_GOOD_FALL: everything but the flash is lost, and the rails discharge (00 R1, 19 R614). -/
def execInputGoodFall (s : State) : Ans :=
  if s.pins.inputGood then
    let s1 := volatileReset { s with retained := {}, tb := 0, wake := [], start := {} }
    .next { s1 with
      start := {}
      pins := { s.pins with inputGood := false, railsDischarging := true, modPwrgood := false, perstWarm := false, alertOut := false
                            cxlPerst := 0, cxlRefclk := 0, i3cDynamic := none, i3cStatic := 0, hostPortUp := false } }
  else .next s

/-- RAIL_DISCHARGE_DONE: a rise of input-good begins a start again (19 R614). -/
def execRailDischargeDone (s : State) : Ans :=
  .next { s with pins := { s.pins with railsDischarging := false } }

/-- PERST_ASSERT, for at least 1 µs with 54 V present: a start in progress stops where it stands, and the release begins a warm
start (19 R620, 16 R536). Before MOD_PWRGOOD the pin has had no effect yet and only its level changes. -/
def execPerstAssert (s : State) : Ans :=
  if s.pins.inputGood ∧ !s.pins.perst then
    .next { s with
      pins := { s.pins with perst := true, perstWarm := s.pins.modPwrgood, hostPortUp := false }
      start := { s.start with halted := s.pins.modPwrgood } }
  else .next { s with pins := { s.pins with perst := true } }

/-- PERST_RELEASE: begins a warm start of cause 1, or lets stage 0 run (16 R526, 19 R619). -/
def execPerstRelease (s : State) : Ans :=
  if !s.pins.perst then .next s
  else
    let s1 := { s with pins := { s.pins with perst := false, perstWarm := false } }
    if s.pins.inputGood ∧ s.pins.perstWarm then .next (resetEntry s1 false 1)
    else .next { s1 with start := { s1.start with tbStage := s.tb, pausedNs := 0 } }

/-- A warm or cold start that a cause begins while the device is powered and out of its initial reset. -/
def causeStart (s : State) (cold : Bool) (cause : Nat) : Ans :=
  if s.pins.inputGood ∧ s.pins.modPwrgood ∧ !s.pins.perst then .next (resetEntry s cold cause) else .next s

/-- HOT_RESET: PCIe Hot Reset or DL_Down on the host port, once the port has been trained (16 R526 cause 2). -/
def execHotReset (s : State) : Ans :=
  if s.pins.hostPortUp then causeStart { s with pins := { s.pins with hostPortUp := false } } false 2 else .next s

/-- DEVICE_RESET := 1, a warm start of cause 3; the dictionary answers only from minimal safe function on (16 R526, 13 R435). -/
def execDeviceResetWarm (s : State) : Ans :=
  if coxRuns s ∧ !s.start.sigFault then causeStart (pset s P.deviceReset 1) false 3 else .next s

/-- DEVICE_RESET := 2, a start with cold steps of cause 4. -/
def execDeviceResetCold (s : State) : Ans :=
  if coxRuns s ∧ !s.start.sigFault then causeStart (pset s P.deviceReset 2) true 4 else .next s

/-- RESET_ENTRY_DRAIN_END: waiting host writes are discarded, every pending Wake record is folded and the heads are
retained, every island is closed and reset, the host port among them, which stage 0 trains again, and stage 0 begins (16 R526, R528). -/
def execResetEntryDrainEnd (s : State) : Ans :=
  if s.start.entry then
    -- every composition ends with the device start (02 R84, R86; log 31)
    let s0 := (List.range 32).foldl (fun s i => if (shellOf s i).st = .free then s else wakeAppend s i (meterWake s i)) s
    let s1 := (List.range 32).foldl wakeFoldAll s0
    let kind := pget s P.startKind
    let cause := pget s P.startCause
    let s2 := volatileReset s1
    .next (startReport { s2 with pins := { s2.pins with hostPortUp := false } } (kind = 0) cause)
  else .next s

/-- COX_WATCHDOG_EXPIRY: PL7 is forced, the hardware takes a dump with trigger 3, and reset entry of a warm start of
cause 5 begins (16 R544). -/
def execCoxWatchdogExpiry (s : State) : Ans :=
  if s.pins.inputGood ∧ s.pins.modPwrgood ∧ !s.pins.perst then
    let s1 := dumpBegin (powerForcePl7 (pinc s P.coxWatchdogs)) 3 2352 (2 ^ 32 - 1)
    let s2 := match s1.start.dumping with | some d => dumpEnd s1 d | none => s1
    .next (resetEntry s2 false 5)
  else .next s

/-! ### Stages (16 R529-R534) -/

/-- Whether stage `n` of a start is in progress. -/
def inStage (s : State) (n : Nat) : Bool :=
  s.pins.inputGood && s.pins.modPwrgood && !s.pins.perst && !s.start.entry && !s.start.halted && pget s P.startStage == n
    && (n == 0 && !s.start.msf || n != 0)

/-- A stage ends and the next begins; its duration is recorded (16 R529). -/
def stageNext (s : State) (n : Nat) : State :=
  let s1 := pset s (P.stageTimeMs n) ((s.tb - s.start.tbStage) / 1000000)
  { pset s1 P.startStage (n + 1) with start := { s1.start with tbStage := s.tb, pausedNs := 0 } }

/-- A start fault: START_STAGE becomes 7, START_FAULT records the stage and the failure, and a dump is taken except for a
failed signature (16 R532, Table Start-4). -/
def startFault (s : State) (stage code island : Nat) (dump : Bool) : State :=
  let s1 := pset (pset s P.startStage 7) P.startFault (stage * 256 + code)
  if dump then dumpBegin s1 5 island (2 ^ 32 - 1) else s1

/-- The limits of the stages, in ns (16 Table Start-3). -/
def stageLimit (n : Nat) : Nat := [100000000, 1000000000, 12000000000, 2900000000, 8000000000].getD n 0

/-- STAGE_LIMIT_EXPIRY: the stage in progress passes its limit; stage 4's timer is paused while an alert lasts (16 R529, R532). -/
def execStageLimitExpiry (s : State) : Ans :=
  let n := pget s P.startStage
  let paused := if n = 4 then s.start.pausedNs else 0
  if inStage s n ∧ n < 5 ∧ !(n = 4 ∧ pget s P.alertStatus % 16 ≠ 0) ∧ tbPast s.tb (s.start.tbStage + paused) (stageLimit n) then .next (startFault s n 4 0xFFFF true) else .next s

/-! ### The end of each stage (16 R529 to R534) -/

/-- The firmware slot that a start runs: of the verifying images whose SVN is at least ROLLBACK_FLOOR, the one with the higher SVN,
and of equal ones the preferred (18 R579). -/
def fwPick (s : State) : Option Bool :=
  let f := s.flash
  let ok := fun (x : FwSlot) => x.valid && decide (x.svn ≥ pget s P.rollbackFloor)
  if ok f.fwA ∧ ok f.fwB then some (if f.fwA.svn = f.fwB.svn then f.preferB else decide (f.fwB.svn > f.fwA.svn))
  else if ok f.fwA then some false
  else if ok f.fwB then some true
  else none

/-- The image that runs. -/
def fwRunning (s : State) : FwSlot := if s.start.fwB then s.flash.fwB else s.flash.fwA

/-- The start record of a slot's chain (16 R528, 18 R596): the head it follows, START_KIND and START_CAUSE. -/
def startWake (s : State) (slot : Nat) : WakeRec :=
  { kind := 6, tb := s.tb
    word := wakeWord s slot 6 0 s.tb 0 0 [] (chainOf s slot).head [] [] (pget s P.startKind + 256 * pget s P.startCause) }

/-- The variant's limits as the identity record gives them (00 R3, 18 Table Sec-1). A module without a record in its flash keeps those of a
VZS2-50 (log 53). -/
def identityLimits (s : State) : State :=
  if idRecord s = [] then s
  else pset (pset s P.seatClockLimitMhz (field (idRecord s) 0x20 2)) P.powerLimitW (field (idRecord s) 0x22 2)

/-- The part that an identity record names, without its padding (18 Table Sec-1). -/
def recordPart (r : Bytes) : Bytes := (slice r 0x10 16).filter (· != 0)

/-- The limits of a part in the boot ROM: seat clock in MHz and power in W (00 Table Scope-1, 18 R569). -/
def partLimits (part : Bytes) : Option (Nat × Nat) :=
  ([("VZS2-50", 1700, 5000), ("VZS2-44", 1600, 4400), ("VZS2-38", 1500, 3800)].find? (fun x => ascii x.1 == part)).map (·.2)

/-- Whether an identity record claims no limit above the row of its part (00 R7, 18 R570 step 3). A module without a record in its flash has
nothing to check (log 53). -/
def recordFits (r : Bytes) : Bool :=
  r == [] || match partLimits (recordPart r) with
    | some (clock, watts) => decide (field r 0x20 2 ≤ clock) && decide (field r 0x22 2 ≤ watts)
    | none => false

/-- The copy of the identity record that stage 0 takes: the first that passes every step of R570 (false the first copy, true the second).
A module without a second copy in its flash has none to take. `ok` is the outcome of the steps beside the limits. -/
def idPick (ok : IdChecks) (f : Flash) : Option Bool :=
  if ok.first && recordFits f.identity then some false
  else if ok.second && f.identity2 != [] && recordFits f.identity2 then some true
  else none

/-- MINIMAL_SAFE_FUNCTION: stage 0 ends. The host port has trained, the slot pins are sampled, and a copy of the identity record and an
image have verified; or one of them has not, which holds the device at START_STAGE 7 (16 R529, R530, R532; 19 R620). BOOT_COUNTER rises by
one with an identity that verifies (18 R571). `identityOk` is the outcome of the other steps of R570 for each copy. -/
def execMinimalSafeFunction (identityOk : IdChecks) (slotId : Fin 16) (gen : Fin 7) (width : Fin 17) (s : State) : Ans :=
  if !inStage s 0 then .next s
  else
    let s1 := capacitySettle { s with
      start := { s.start with msf := true }, hostGen := max 1 gen.val, hostWidth := max 1 width.val
      pins := { s.pins with hostPortUp := true, slotId := slotId.val, i3cStatic := 0x30 + slotId.val } }
    let stop := fun (s : State) => startFault { s with start := { s.start with sigFault := true } } 0 1 0xFFFF false
    match idPick identityOk s.flash with
    | none => .next (stop s1)
    | some c =>
      let s2 := identityLimits { s1 with start := { s1.start with idB := c } }
      let s3 := counterPut { s2 with retained := { s2.retained with identityDigest := true } } P.bootCounter ((pget s P.bootCounter + 1) % 2 ^ 64)
      match fwPick s with
      | none => .next (stop s3)
      | some b =>
        let s4 := pset { s3 with start := { s3.start with fwB := b } } P.runningSvn (if b then s.flash.fwB.svn else s.flash.fwA.svn)
        .next (stageNext ((List.range 32).foldl (fun s i => wakeAppend s i (startWake s i)) s4) 0)

/-- STAGE1_END: the islands have started but those listed, and the links have passed but one named. A crossbar, ring block or MD
that failed and a link that failed are start faults; a seat is marked failed; a memory, link or CXL block takes its channels and ports
with it (16 R532). CXL_REFCLK runs for the ports whose CXL_PRSNT# is low (19 R617). -/
def execStage1End (failed : List IslandId) (badLink : Option LinkId) (s : State) : Ans :=
  if !inStage s 1 then .next s
  else
    let f := failed.map (·.val)
    match f.find? (fun n => decide (2304 ≤ n ∧ n < 2328) || n == 2352) with
    | some n => .next (startFault s 1 2 n true)
    | none =>
      if badLink.isSome then .next (startFault s 1 3 0xFFFF true)
      else
        let s1 := f.foldl (fun s n => islandPut s n { islandOf s n with st := .inReset, bridge := .closed }) s
        let chans := (f.filter (fun n => decide (2328 ≤ n ∧ n < 2336))).flatMap (fun n => (List.range 12).map (fun i => (n - 2328) * 12 + i))
        let ports := (f.filter (fun n => decide (2336 ≤ n ∧ n < 2344))).flatMap (fun n => [(n - 2336) * 2, (n - 2336) * 2 + 1])
        let s2 := chans.foldl (fun s c => if (chanOf s c).st = .retired then s else chanPut s c { chanOf s c with st := .failed }) s1
        let s3 := ports.foldl (fun s p => portPut s p { portOf s p with st := 5, left := true }) s2
        .next (stageNext { s3 with
          pins := { s3.pins with cxlRefclk := s3.pins.cxlPrsnt }
          start := { s3.start with islandsUp := true, failedSeats := (f.filter (· < 2304)).foldl sAdd s3.start.failedSeats } } 1)

/-- Whether every target of a range record is an enumerated Type 3 device (08 Table Tiers-7). -/
def rngTargetsUp (s : State) (r : Nat) : Bool :=
  (List.range (rngWays r)).all (fun w =>
    let p := cxlPortOf s (rngPort r w)
    p.enumerated && p.up && p.devs.any (fun d => d.index == rngDev r w && d.type == 3))

/-- Bring up the CXL ranges of a start: those whose targets have enumerated are scrubbed, the others are OFFLINE (16 R531, 08 R287). -/
def rangesStart (s : State) : State :=
  (List.range 16).foldl (fun s i =>
    let r := rangeStaged s i
    if !rngEnable r then s
    else
      let s1 := rangePut s i r
      if rngTargetsUp s r then { pset s1 (P.cxlRangeState i) 1 with cxlScrub := sAdd s1.cxlScrub i }
      else pset s1 (P.cxlRangeState i) 3) s

/-- Whether a channel's stored training record is restored in this start (08 R278, R279). -/
def chanRestores (s : State) (c : Nat) : Bool :=
  ((tfind s.flash.trained c).isSome || (tfind s.flash.trained2 c).isSome) && match pget s P.trainingPolicy with
    | 0 => !s.start.cold
    | 1 => false
    | _ => true

/-- The training of a channel passes or fails: a channel that passes holds zeros. Restoring writes and reads the pattern area; full training leaves its
record of 256 bytes in both flash copies, of free values, while the hour's flash writes allow; `retry` says that a restore failed first (08 R278, R280,
Table Tiers-4, 13 R433). -/
def chanTrained (s : State) (c : Nat) (pass retry : Bool) : State :=
  let d := chanOf s c
  if !pass then pset (chanPut s c { d with st := .failed }) (P.trainingOutcome c) 3
  else
    let s1 := memZero (chanPut s c { d with st := .trained, poison := [], bad := [], lines := [] }) (chanBase c) chanBytes
    if pget s P.startStage = 2 ∧ chanRestores s c ∧ !retry then
      pset (chanPut (freeNext s1) c { chanOf s1 c with pattern := some s1.freeCtr }) (P.trainingOutcome c) 1
    else
      let r := (List.range 256).map (fun i => Config.freeByte (s1.freeCtr + i))
      let s2 := { pset s1 (P.trainingOutcome c) 2 with freeCtr := s1.freeCtr + 256 }
      match flashSpend s2 with
      | some s3 => { s3 with flash := { s3.flash with trained := tset (fun _ => []) s3.flash.trained c r, trained2 := tset (fun _ => []) s3.flash.trained2 c r } }
      | none => s2

/-- STAGE2_END: the channels that no report has named have passed their training but those listed, and are initialised to zero, which
they read as since the start cleared them (08 R280). The context store's and the Boathouse's channels leave the pool (10 R345, 14 R490),
CXL ranges come up, and the enabled Ghengo ports begin their training. CXL_PERST# of a port with its clock is released (19 R617). -/
def execStage2End (failed : List ChanId) (s : State) : Ans :=
  if !inStage s 2 then .next s
  else
    let s1 := (List.range 96).foldl (fun s c =>
      if (chanOf s c).st != .untrained then s else chanTrained s c (!failed.any (fun x => x.val == c)) false) s
    let store := pget s1 P.contextStoreChannel
    let hasStore := decide (store < 96) && (chanOf s1 store).st == .trained
    let bh := (List.range 96).filter (fun c => bitOf (leNat (octGet s1 P.bhMemberChannelMask)) c && (chanOf s1 c).st == .trained && !(hasStore && c == store))
    let s2 := rangesStart { pset s1 P.contextsMax (if hasStore then 65536 else 64) with
      start := { s1.start with storeChannel := if hasStore then some store else none }
      bhChannels := bh
      bhRanges := (List.range 16).filter (fun i => bitOf (pget s1 P.bhMemberCxlMask) i)
      pins := { s1.pins with cxlPerst := 0xFF - s1.pins.cxlRefclk } }
    let s3 := (List.range 16).foldl (fun s p =>
      if bitOf (pget s P.ghPortEnable) p ∧ (portOf s p).st = 0 then ghTrain s p else s) s2
    .next (stageNext s3 2)

/-- STAGE3_END: every enabled port has left TRAINING and SECURING once (16 Table Start-3). -/
def execStage3End (s : State) : Ans :=
  if inStage s 3 ∧ (List.range 16).all (fun p => !bitOf (pget s P.ghPortEnable) p || (portOf s p).left) then .next (stageNext s 3) else .next s

/-- The commit that a record of S1_TABLE stands for (02 R83, 13 Table Dict-3): every field it does not give has its default. -/
def s1Commit (s : State) (slot : Nat) (r : Bytes) : Commit :=
  let n := leNat r
  let scalars := (slotKeys slot).foldl (fun t k => tset (fun _ => 0) t k (paramDefault k)) []
  let put := fun (t : Tbl Nat) (k v : Nat) => tset (fun _ => 0) t k v
  { rig := { channels := (List.range (bitsOf n 39 32)).map (fun k => bitsOf n (71 + 8 * k) (64 + 8 * k))
             ports := (List.range (bitsOf n 47 40)).map (fun k => bitsOf n (839 + 8 * k) (832 + 8 * k)) }
    scalars := put (put (put scalars (P.ownerFunction slot) (bitsOf n 7 0)) (P.cxlPortMask slot) (bitsOf n 15 8)) (P.seatCount slot) (bitsOf n 31 16)
    seatCount := bitsOf n 31 16 }

/-- Form the shells of S1_TABLE until one fails (02 R82, R83). Record k takes slot k (DESIGN CHOICE, log 87). -/
def s1Form (s : State) : Nat → Bytes → Nat → State
  | 0, _, _ => s
  | n + 1, t, slot =>
    if t.length < 120 then s
    else
      let (s1, code) := rigForm s slot (s1Commit s slot (t.take 120))
      if code ≠ 0 then pset s P.s1TableResult code else s1Form s1 n (t.drop 120) (slot + 1)

/-- ROLLBACK_FLOOR rises to the running SVN at an image's full function when FW_FLOOR_AUTO is true (18 R580). -/
def floorAuto (s : State) : State :=
  if pget s P.fwFloorAuto = 1 ∧ pget s P.runningSvn > pget s P.rollbackFloor then counterPut s P.rollbackFloor (pget s P.runningSvn) else s

/-- FULL_FUNCTION: stage 4 ends; seats that no report has failed have passed, the shells of the S1 table are formed, and START_STAGE
becomes 5 (16 R531, R534). -/
def execFullFunction (s : State) : Ans :=
  if !inStage s 4 then .next s
  else
    let s1 := floorAuto s
    .next (stageNext (if pget s P.compositionMode = 1 then s1Form s1 32 (octGet s1 P.s1Table) 0 else s1) 4)

/-- FW_DIGEST_REPORT: a seat reports the digest of its firmware store; after three wrong resends it is marked failed (16 R533). -/
def execFwDigestReport (seat : SeatId) (digest : List Byte) (s : State) : Ans :=
  if !inStage s 4 ∨ digest = Config.fwDigest (fwRunning s).image then .next s
  else
    let n := tget (fun _ => 0) s.start.digestTries seat.val
    if n < 3 then
      .next (emit { s with start := { s.start with digestTries := tset (fun _ => 0) s.start.digestTries seat.val (n + 1) } } (.packet seat.val 4 (fwRunning s).image))
    else .next { s with start := { s.start with failedSeats := sAdd s.start.failedSeats seat.val } }

/-- SEAT_SELFTEST_DONE: a seat that fails any part is marked failed (16 R534). -/
def execSeatSelftestDone (seat : SeatId) (pass : Bool) (s : State) : Ans :=
  if inStage s 4 ∧ !pass then .next { s with start := { s.start with failedSeats := sAdd s.start.failedSeats seat.val } } else .next s

/-- LINK_REFCLK_LOSS: absent at stage 1 it ends the stage in a start fault that names MD; lost in service it is an MD clock event
(17 R560, 19 R616). Before stage 1 MD runs from its own oscillator. -/
def execLinkRefclkLoss (s : State) : Ans :=
  if inStage s 1 then .next (startFault s 1 2 2352 true)
  else if s.pins.inputGood ∧ s.start.islandsUp then .next (lockstepStop (pinc s P.monitorEvents))
  else .next s

/-- PCIE_REFCLK_LOSS in service: the host link goes down and a warm start of cause 2 follows (19 R616). -/
def execPcieRefclkLoss (s : State) : Ans :=
  if s.pins.hostPortUp then causeStart { s with pins := { s.pins with hostPortUp := false } } false 2 else .next s

/-- I3C_DYNAMIC_ADDRESS: SETDASA or ENTDAA (19 R620). -/
def execI3cDynamicAddress (addr : Fin 128) (s : State) : Ans :=
  if s.pins.inputGood then .next { s with pins := { s.pins with i3cDynamic := some addr.val } } else .next s

/-! ### Closing bridges (01 R37, R38) -/

/-- BRIDGE_DRAIN_DONE: a closing bridge has drained and is closed. -/
def execBridgeDrainDone (n : IslandId) (s : State) : Ans :=
  let i := islandOf s n.val
  if i.bridge = .draining then .next (islandPut s n.val { i with bridge := .closed }) else .next s

/-- CLOSED_BRIDGE_PACKET: a non-posted request is answered ISLAND_CLOSED; a posted write is discarded and counted, and acknowledged
ISLAND_CLOSED where its source awaits an acknowledgement (01 R38). -/
def execClosedBridgePacket (n : IslandId) (requester : IslandId) (nonPosted acked : Bool) (s : State) : Ans :=
  let i := islandOf s n.val
  if i.bridge ≠ .closed ∧ !islandGated s n.val then .next s
  else
    let s1 := if nonPosted then s else islandPut s n.val { i with discards := satInc32 i.discards }
    .next (if nonPosted ∨ acked then emit s1 (.packet requester.val 1 [BitVec.ofNat 8 stClosed]) else s1)

end Sys2Proof.Machine
end

