-- ==== Sys2Proof/Machine/Recovery.lean ====
section
/-! DEFINITION. Shell resets, island recovery, dumps on command, and a seat copy that fails (02 R71, 16 R539 to R549). -/
namespace Sys2Proof.Machine

/-! ### Retired resources (16 R541) -/

/-- A bridge that begins to close: it drains what it holds (01 R37). -/
def bridgeClosing (b : BridgeState) : BridgeState := match b with | .closed => .closed | _ => .draining

/-- Close the bridges of seats that have drained, and open them again where the island runs (01 R37). -/
def seatsClose (s : State) (l : List Nat) : State := l.foldl (fun s i => islandPut s i { islandOf s i with bridge := .closed }) s
def seatsOpen (s : State) (l : List Nat) : State :=
  l.foldl (fun s i => if (islandOf s i).st = .running then islandPut s i { islandOf s i with bridge := .opened } else s) s

/-- Retire a seat. A shell that holds it takes the lowest free seat at the same logical number, or is released when the pool has none
(16 R541, 02 R83). -/
def seatRetire (s : State) (i : Nat) : State :=
  let owner := seatShell s i
  let s1 := islandPut { s with retiredSeats := sAdd s.retiredSeats i } i { islandOf s i with st := .retired, bridge := bridgeClosing (islandOf s i).bridge }
  match owner with
  | none => fileError s1 false { kind := 0x0D, scope := 0, island := i, detail0 := seatIdent i }
  | some slot =>
    let sh := shellOf s1 slot
    let s2 := retiredRecord s1 slot i (seatIdent i)
    match (poolSeats s1 slot).find? (fun x => !sh.rig.seats.contains x) with
    | some r =>
      let s3 := seatScrub (shellPut s2 slot { shellOf s2 slot with
        rig := { sh.rig with seats := sh.rig.seats.map (fun x => if x = i then r else x) }
        staging := { sh.staging with seats := sh.staging.seats.map (fun x => if x = seatIdent i then seatIdent r else x) } }) r
      seatsLevel s3 [r] (pget s3 (P.powerLevel slot))
    | none => releaseSettle (releaseBegin (shellPut s2 slot { shellOf s2 slot with resetPhase := .none }) slot) slot

/-- Retire a channel of a shell that fails its retraining: the lowest-numbered free channel takes its logical number (16 R541). -/
def chanReplace (slot : Nat) (s : State) (c : Nat) : State :=
  let sh := shellOf s slot
  if !sh.rig.channels.contains c then s
  else
    let s1 := retiredRecord (chanRetire s c) slot (2328 + c / 12) c
    match (poolChannels s1 slot).find? (fun x => !sh.rig.channels.contains x) with
    | some r => shellPut s1 slot { shellOf s1 slot with
        rig := { sh.rig with channels := sh.rig.channels.map (fun x => if x = c then r else x) }
        staging := { sh.staging with channels := sh.staging.channels.map (fun x => if x = c then r else x) } }
    | none => releaseSettle (releaseBegin (shellPut s1 slot { shellOf s1 slot with resetPhase := .none }) slot) slot

/-! ### Shell reset (16 R539, Table Start-6) -/

/-- SHELL_RESET written with a slot, and its refusal (16 R539). -/
def shellResetWrite (s : State) (slot : Nat) : State × Nat :=
  let sh := shellOf s slot
  if sh.st = .free ∨ sh.st = .resetting ∨ sh.st = .releasing ∨ sh.resetPhase ≠ .none then (s, 0x090B) else (shellResetBegin s slot 4, 0)

def execShellResetWrite (slot : Slot) (s : State) : Ans := if dictUp s then .next (shellResetWrite s slot.val).1 else .next s

/-- SHELL_RESET_DRAIN_DONE: the transfers have drained and the seats are closed and scrubbed; seats that failed their scrub or
their island reset are retired and replaced (16 R538, R541). What was held for the shell's windows meets the closed bridges (01 R38, 06 R229). -/
def execShellResetDrainDone (slot : Slot) (bad : List SeatId) (s : State) : Ans :=
  let sh := shellOf s slot.val
  if sh.st = .resetting ∧ sh.resetPhase = .draining then
    let sc := netSettle (heldClose s slot.val)
    let s0 := seatsClose (sh.rig.seats.foldl seatScrub (shellPut sc slot.val { shellOf sc slot.val with st := .resetting, resetPhase := .retraining, dirty := false, scrubbing := [] })) sh.rig.seats
    let s1 := (remoteLive sh).foldl (fun s x => remoteSend s slot.val x .scrub { pending := true }) s0
    .next ((bad.filter (fun i => sh.rig.seats.contains i.val)).foldl (fun s i => seatRetire s i.val) s1)
  else .next s

/-- SHELL_RETRAIN_DONE: channels and ports have been retrained; a channel that failed is retired and replaced; zeroing begins. -/
def execShellRetrainDone (slot : Slot) (bad : List ChanId) (s : State) : Ans :=
  let sh := shellOf s slot.val
  if sh.st = .resetting ∧ sh.resetPhase = .retraining then
    .next (bad.foldl (fun s c => chanReplace slot.val s c.val) (shellPut s slot.val { sh with resetPhase := .zeroing }))
  else .next s

/-- SHELL_RESET_COMPLETE: channels and held die slices are zero, the seats' bridges are open again, the shell is IDLE with its latch cleared, the record of kind
SHELL_RESET_DONE is filed, and queued launches may start (16 Table Start-6, 17 R561). -/
def execShellResetComplete (slot : Slot) (s : State) : Ans :=
  let sh := shellOf s slot.val
  if sh.st = .resetting ∧ sh.resetPhase = .zeroing then
    let s1 := sh.rig.channels.foldl (fun s c => let s1 := memZero s (chanBase c) chanBytes; chanPut s1 c { chanOf s1 c with poison := [], bad := [] }) s
    let s2 := (s1.slices.filter (fun e => e.2 == slot.val)).foldl (fun s e => sliceHeal (memZero s (sliceBase e.1) 0x400000) (sliceBase e.1) 0x400000) s1
    let s3 := shellPut (seatsOpen s2 sh.rig.seats) slot.val { shellOf s2 slot.val with st := .idle, resetPhase := .none, latch := false, dirty := false, lastCtx := none }
    let s4 := fileError s3 false { kind := 0x0C, scope := 2, shell := slot.val, fn := pget s3 (P.ownerFunction slot.val) }
    .next (shellSelect s4 slot.val)
  else .next s

/-! ### A seat copy that fails (02 R71) -/

/-- SEAT_COPY_FAULT: an error in a source seat stops the shell in its safe state; one in a destination retires that seat and the shell
goes on with its source seats. The rigging ends with 0x011D in both. Table Shells-5 retires "the destination seats" of such a copy; R71 retires the
seat with the error, and the model follows R71 (DESIGN CHOICE, log 76). -/
def execSeatCopyFault (slot : Slot) (seat : SeatId) (source : Bool) (s : State) : Ans :=
  let sh := shellOf s slot.val
  if !sh.applying then .next s
  else
    let s1 := windowsLocal (rigUndo s slot.val 0x011D) slot.val
    if source then .next (safetyEvent (mechCount s1 4) slot.val 4 0x02 none { island := seat.val })
    else
      let s2 := fileError (islandPut { s1 with retiredSeats := sAdd s1.retiredSeats seat.val } seat.val { islandOf s1 seat.val with st := .retired, bridge := bridgeClosing (islandOf s1 seat.val).bridge })
        false { kind := 0x0D, scope := 0, island := seat.val, detail0 := seatIdent seat.val }
      .next (latchSettle s2 slot.val)

/-! ### Island recovery (16 R543) -/

/-- What follows an island that stays silent after its reset, or hangs again within 1 s: a seat is retired; for any other island a
warm start of cause 6 begins, or the device holds with every shell stopped and START_STAGE at 6 (16 R543). -/
def islandEscalate (s : State) (n : Nat) : State :=
  if n < 2304 then seatRetire s n
  else if pget s P.autoWarmStart = 1 then resetEntry s false 6
  else
    let s1 := (List.range 32).foldl (fun s i => preemptedAbort (jobStop s i 4 0) i) s
    pset { s1 with start := { s1.start with hold := true } } P.startStage 6

/-- An island hang (16 R543): its bridges are force-closed with what they hold, the shells behind it stop in their safe state, a dump
is taken with trigger 2, and the island is reset. -/
def islandHang (s : State) (n packets : Nat) : State :=
  let i := islandOf s n
  let again := match i.tbReset with | some t => decide (s.tb < t + 1000000000) | none => false
  let s1 := pinc s P.islandHangs
  let s2 := pset s1 P.forcedCloseDiscards (satAdd32 (pget s1 P.forcedCloseDiscards) packets)
  let s3 := islandPut s2 n { i with bridge := .closed, forced := true, timeouts := 0, st := .inReset, tbReset := some s.tb }
  let s4 := fileError s3 false { kind := 0x0B, scope := 0, island := n }
  let hit := shellsBehind s4 n
  let s5 := safetyEventsBy 2 s4 hit 0 0x0B none { island := n }
  let s6 := if hit.any (safetyStops s4) then s5 else dumpBegin s5 2 n 0
  if again then islandEscalate s6 n else s6

/-- HEALTH_POLL: the Cox polls every island that is not gated. `silent` names the islands whose poll timed out, each with the packets
inside its bridges. A second timeout in a row is a hang; an island that answers after its reset is opened again, but not one that a start found failed (16 R543, 01
R37).
Polls act from full function on, until a lockstep stop halts the Cox: recovery does not apply during a start (16 R532, 17 R560). -/
def execHealthPoll (silent : List (IslandId × Nat)) (s : State) : Ans :=
  if pget s P.startStage < 5 ∨ pget s P.startStage = 7 ∨ s.start.releasesStopped then .next s
  else
    let quiet := silent.filter (fun p => !islandGated s p.1.val && (islandOf s p.1.val).st == .running)
    let named := fun (n : Nat) => silent.any (fun p => p.1.val == n)
    let s1 := { s with islands := (s.islands.map (fun e =>
        if named e.1 then e
        else (e.1, { e.2 with timeouts := 0, st := if e.2.st = .inReset ∧ e.2.forced then .running else e.2.st
                              bridge := if e.2.st = .inReset ∧ e.2.forced then .opened else e.2.bridge
                              forced := if e.2.st = .inReset then false else e.2.forced }))).filter (fun e => e.2 != {}) }
    let s2 := quiet.foldl (fun s p =>
      let n := p.1.val
      let i := islandOf s n
      if i.timeouts ≥ 1 then islandHang s n p.2
      else islandPut s n { i with timeouts := i.timeouts + 1, tbAnswer := s.start.tbPoll }) s1
    .next { s2 with start := { s2.start with tbPoll := s.tb } }

/-- BRIDGE_CLOSE_TIMEOUT: a bridge that has not closed in 10 µs is an island hang. -/
def execBridgeCloseTimeout (n : IslandId) (packets : Nat) (s : State) : Ans :=
  if (islandOf s n.val).bridge = .draining ∧ tbPast s.tb (islandOf s n.val).tbDrain 10000 ∧ (pget s P.startStage = 5 ∨ pget s P.startStage = 6) then .next (islandHang s n.val packets) else .next s

/-- ISLAND_RESET_ANSWER_TIMEOUT: an island is silent 1 ms after its reset. -/
def execIslandResetAnswerTimeout (n : IslandId) (s : State) : Ans :=
  if (islandOf s n.val).st = .inReset ∧ (islandOf s n.val).forced ∧ tbPast s.tb ((islandOf s n.val).tbReset.getD 0) 1000000 then .next (islandEscalate s n.val) else .next s

/-! ### Dumps (16 R545, R548) -/

def dumpCtlTake (s : State) : State := dumpBegin s 1 0xFFFF (2 ^ 32 - 1)
def dumpClear (s : State) : State := { s with retained := { s.retained with dump := none } }

def execDumpCtlTake (s : State) : Ans := if dictUp s then .next (dumpCtlTake s) else .next s
def execDumpClear (s : State) : Ans := if dictUp s then .next (dumpClear s) else .next s

/-- DUMP_ACCESS_TIMEOUT: an island that fails two accesses in a row is UNREACHABLE, and is not accessed again (16 R548). -/
def execDumpAccessTimeout (n : IslandId) (s : State) : Ans :=
  match s.start.dumping with
  | none => .next s
  | some d =>
    if d.unreachable.contains n.val then .next s
    else
      let d1 := { d with accessTimeouts := tset (fun _ => 0) d.accessTimeouts n.val (tget (fun _ => 0) d.accessTimeouts n.val + 1)
                         lastFailed := some n.val
                         unreachable := if d.lastFailed = some n.val then sAdd d.unreachable n.val else d.unreachable }
      .next { s with start := { s.start with dumping := some d1 } }

/-- DUMP_END: the dump ends, is retained, and its summary goes to flash (16 R545). -/
def execDumpEnd (s : State) : Ans :=
  match s.start.dumping with
  | none => .next s
  | some d => .next (dumpEnd s d)

end Sys2Proof.Machine
end

