-- ==== Sys2Proof/Machine/Mem.lean ====
section
/-! DEFINITION. The commands of the memory tiers and of the regulation of the shared paths (08). -/
namespace Sys2Proof.Machine

/-! ### Channels (08 R264 to R281) -/

/-- Whether a channel is in service. -/
def chanServes (s : State) (c : Nat) : Bool := chanUsable s c

/-- CHANNEL_READ: the controller reads a 64-byte block and answers it, corrected or POISONED (08 R268, R273). -/
def execChannelRead (chan : ChanId) (block : BitVec 25) (check : ChanCheck) (s : State) : Ans :=
  let c := chan.val
  let b := block.toNat
  let a := chanBase c + 64 * b
  if 64 * b ≥ chanBytes ∨ !s.start.islandsUp then .next s
  else if !chanServes s c then .next (emit s (.packet a (if (chanOf s c).st = .failed then stPoisoned else stNoTarget) []))
  else
    let s1 := chanErrors (chanTouch s c (64 * b) 64) c b check
    .next (if chanPoisoned s1 c a 64 then emit s1 (.packet a stPoisoned []) else emit s1 (.packet a stOk (cellRead s1 a 64)))

/-- CHANNEL_WRITE: a write of bytes from an offset: a whole block takes a new check word, a part is merged into what is read. `check` is what the read of
the first block that is covered in part meets, or the write itself where none is (08 R269, R273). -/
def execChannelWrite (chan : ChanId) (offset : BitVec 31) (data : Bytes) (check : ChanCheck) (s : State) : Ans :=
  let c := chan.val
  let off := offset.toNat
  let b := off / 64
  if off + data.length > chanBytes ∨ !chanServes s c ∨ data = [] then .next s
  else
    let s0 := chanTouch s c off data.length
    if check.crcs.val = 4 then .next (emit (chanErrors s0 c b check) (.packet (chanBase c + off) stPoisoned []))
    else
      let s1 := if (partBlock off data.length).isSome then chanMerge s0 c off data.length check
        else pset s0 (P.chCrcRetries c) (satAdd32 (pget s0 (P.chCrcRetries c)) check.crcs.val)
      .next (cellWrite s1 (chanBase c + off) (some c) data)

/-- Patrol scrub reads a block of a channel in service: it corrects it, or marks an uncorrectable one (08 R270, R272). -/
def patrolBlock (s : State) (c b : Nat) (check : ChanCheck) : State :=
  if 64 * b ≥ chanBytes ∨ !chanServes s c then s
  else
    let s1 := chanErrors (chanTouch s c (64 * b) 64) c b check
    let d := chanOf s1 c
    if d.bad.contains b ∧ d.st ≠ .failed then chanPut s1 c { d with poison := sAdd d.poison b, bad := sDel d.bad b } else s1

/-- The record of an uncorrectable SRAM error in a resource that nobody holds (17 Table Safety-5). -/
def sramFreeRecord (s : State) (island at_ : Nat) : State :=
  fileError (mechCount s 5) false { kind := 0x02, mechanism := 5, scope := 0, island := island, detail0 := at_ }

/-- Patrol scrub finds a word of a seat that it cannot correct: a safety event of the shell that holds the seat, here or at its borrower; a free seat is
retired (17 R557). -/
def patrolSeat (s : State) (i : Nat) : State :=
  if (seatShell s i).isSome ∨ (lentOf s i).isSome then seatSafety s i 5 0x02 none {}
  else if seatUnavailable s i then s
  else seatRetire (sramFreeRecord s i (seatIdent i)) i

/-- Patrol scrub finds an error in a line of a cache: a line of the I cache, or a clean one of the D cache, is under parity and goes, to be fetched again;
a dirty one is under SECDED (17 R557). -/
def patrolLine (s : State) (i : Nat) (instr : Bool) (ga : Nat) (bad : Bool) : State :=
  let c := (seatOf s i).core
  let mine := fun (l : DLine) => l.ga == ga / 64 * 64
  if instr then (if c.icache.any mine then pinc (corePut s i { c with icache := c.icache.filter (fun l => !mine l) }) P.sramCorrected else s)
  else match c.dcache.find? mine with
    | none => s
    | some l =>
      if !l.dirty then pinc (corePut s i { c with dcache := c.dcache.filter (fun l => !mine l) }) P.sramCorrected
      else if bad then patrolSeat s i
      else pinc s P.sramCorrected

/-- Patrol scrub finds a word of a die slice that it cannot correct: a slice that nothing holds is retired; in a held one the word is answered POISONED
from then on (17 R557). -/
def patrolSlice (s : State) (k w : Nat) : State :=
  match sliceOwner s k with
  | some 34 => s
  | none => { sramFreeRecord s (2304 + k / 48) (sliceBase k + 8 * w) with slices := tins (tdel s.slices k) k 34 }
  | some 33 => { sramFreeRecord s (2304 + k / 48) (sliceBase k + 8 * w) with slices := tins (tdel s.slices k) k 34 }
  | some _ => { mechCount s 5 with sliceBad := sAdd s.sliceBad (sliceBase k + 8 * w) }

/-- Patrol scrub finds an error in MD SRAM that serves a shell, which it cannot correct (17 R557). -/
def patrolMd (s : State) (slot : Nat) : State :=
  if (shellOf s slot).st = .free then sramFreeRecord s 2352 0 else safetyEvent (mechCount s 5) slot 5 0x02 none { island := 2352 }

/-- Patrol scrub reads an SRAM word that one error has reached: it is corrected and counted, or the rule of an uncorrectable one follows (17 R557, R568). -/
def patrolWord (s : State) (error : EccError) (bad : State) : State :=
  match error with
  | .none => s
  | .single => pinc s P.sramCorrected
  | .double => bad

/-- PATROL_SCRUB_READ: patrol scrub reads GDDR7, or the module's SRAM; `block` is the block, the address of the line, or the word (08 R272, 17 R557;
DESIGN CHOICE, log 72). -/
def execPatrolScrubRead (unit : PatrolUnit) (block : U64) (check : ChanCheck) (s : State) : Ans :=
  let b := block.toNat
  if !s.start.islandsUp then .next s
  else match unit with
  | .chan c => .next (patrolBlock s c.val b check)
  | .seat i => .next (patrolWord s check.error (patrolSeat s i.val))
  | .icache i => .next (if check.error = .none then s else patrolLine s i.val true b false)
  | .dcache i => .next (if check.error = .none then s else patrolLine s i.val false b (check.error == .double))
  | .slice die slice => if b < 0x80000 then .next (patrolWord s check.error (patrolSlice s (die.val * 48 + slice.val) b)) else .next s
  | .md slot => .next (patrolWord s check.error (patrolMd s slot.val))

/-- CHANNEL_TRACKING: WCK and read-timing tracking is repeated every 50 ms (08 R281). -/
def execChannelTracking (chan : ChanId) (s : State) : Ans :=
  let d := chanOf s chan.val
  if chanServes s chan.val ∧ tbPast s.tb d.tbTrack 50000000 then .next (chanPut s chan.val { d with tbTrack := s.tb }) else .next s

/-- CHANNEL_MAINT, and its result (08 Table Tiers-4, Table Tiers-10). -/
def chanMaint (s : State) (op c : Nat) : State :=
  let d := chanOf s c
  let done := fun (s : State) (code : Nat) => pset s P.channelMaintResult code
  if c ≥ 96 then done s 0x0206
  else if op = 1 ∧ d.st = .trained ∧ chanFree s c then done (chanRetireFree s c) 0
  else if op = 2 ∧ (d.st = .failed ∨ d.st = .retired) then
    done { chanPut s c { d with st := .untrained } with flash := { s.flash with retired := sDel s.flash.retired c, trained := tdel s.flash.trained c, trained2 := tdel s.flash.trained2 c } } 0
  else done s 0x0206

/-- CHANNEL_MAINT retire. -/
def execChannelMaintRetire (chan : U8) (s : State) : Ans := if fullUp s then .next (chanMaint s 1 chan.toNat) else .next s

/-- CHANNEL_MAINT retrain. -/
def execChannelMaintRetrain (chan : U8) (s : State) : Ans := if fullUp s then .next (chanMaint s 2 chan.toNat) else .next s

/-- CHANNEL_TRAINING_DONE: the training of an UNTRAINED channel passes or fails; `retry` says that a restore failed before (08 R278). -/
def execChannelTrainingDone (chan : ChanId) (pass retry : Bool) (s : State) : Ans :=
  let st := pget s P.startStage
  if (chanOf s chan.val).st = .untrained ∧ (st = 2 ∨ st = 5) then .next (chanTrained s chan.val pass retry) else .next s

/-- GDDR7_REFRESH_DOUBLING: a module device passes 85 °C or is below it again; its two channels' derating follows, at most 4 % (08 R264, R275,
R276). -/
def execGddr7RefreshDoubling (device : Fin 48) (hot : Bool) (permille : Fin 1001) (s : State) : Ans :=
  let c := 4 * (device.val / 2) + 2 * (device.val % 2)
  let v := if hot then max 960 permille.val else 1000
  if s.start.islandsUp then .next (pset (pset s (P.channelDeratePermille c) v) (P.channelDeratePermille (c + 1)) v) else .next s

/-! ### CXL ranges (08 R282 to R289) -/

/-- Whether an enabled record targets a port. -/
def rngOnPort (r p : Nat) : Bool := rngEnable r && (List.range (rngWays r)).any (fun w => rngPort r w == p)

/-- 0x0201: reserved fields, OWNER, GRAN and unused targets of a record. -/
def rngFieldBad (r : Nat) : Bool :=
  bitsOf r 254 248 != 0 || bitsOf r 205 176 != 0 || (decide (32 ≤ rngOwner r) && rngOwner r != 0x3F) || rngGran r == 7
    || (List.range 8).any (fun w => decide (rngWays r ≤ w) && rngTarget r w != 0)

/-- A record's shares on devices: port, device, start and length in units of 256 MiB. -/
def rngShares (r : Nat) : List (Nat × Nat × Nat × Nat) :=
  if rngEnable r then (List.range (rngWays r)).map (fun w => (rngPort r w, rngDev r w, rngStart r w, rngSize r / rngWays r)) else []

/-- 0x0205: a target that is not there. -/
def rngTargetBad (s : State) (r : Nat) : Bool :=
  let ports := (List.range (rngWays r)).map (rngPort r)
  hasDup ports || (List.range (rngWays r)).any (fun w =>
    let p := cxlPortOf s (rngPort r w)
    !p.enumerated || !p.devs.any (fun d => d.index == rngDev r w && d.type == 3))

/-- 0x0207: a share past its device's end, or over another range's share. -/
def sharesBad (s : State) (l : List Nat) : Bool :=
  let shares := (l.zipIdx).flatMap (fun e => (rngShares e.1).map (fun x => (e.2, x)))
  shares.any (fun e =>
    let (i, p, d, a, n) := e
    let cap := match (cxlPortOf s p).devs.find? (fun x => x.index == d) with | some x => x.units | none => 0
    decide (a + n > cap) || shares.any (fun f => f.1 != i && f.2.1 == p && f.2.2.1 == d && decide (a < f.2.2.2.1 + f.2.2.2.2) && decide (f.2.2.2.1 < a + n)))

/-- Whether a range entry of any context targets a range. -/
def rngInUse (s : State) (i : Nat) : Bool :=
  s.ctxs.any (fun c => c.2.entries.any (fun e => entKind e.2.entry == 2 && bitsOf e.2.entry 105 102 == i))

/-- Ranges whose staged record differs from the active one. -/
def rngChanged (s : State) (l : List Nat) : List Nat := (List.range 16).filter (fun i => l.getD i 0 != rngOf s i)

/-- The check of a commit in the order of Table Tiers-7; 0x020B is answered before, 0x0208 after. -/
def cxlCode (s : State) (l : List Nat) : Nat :=
  let on := l.filter rngEnable
  if l.any rngFieldBad then 0x0201
  else if on.any (fun r => rngSize r == 0 || rngBase r % rngWays r != 0 || rngSize r % rngWays r != 0) then 0x0202
  else if on.any (fun r => decide (rngBase r + rngSize r > 32768)) then 0x0203
  else if (List.range 16).any (fun i => (List.range i).any (fun j =>
      let a := l.getD i 0
      let b := l.getD j 0
      rngEnable a && rngEnable b && decide (rngBase a < rngBase b + rngSize b) && decide (rngBase b < rngBase a + rngSize a))) then 0x0204
  else if on.any (rngTargetBad s) then 0x0205
  else if sharesBad s l then 0x0207
  else if (rngChanged s l).any (rngInUse s) then 0x0209
  else if on.any (fun r => decide (rngOwner r < 32) && (shellOf s (rngOwner r)).st == .free) then 0x020A
  else 0

/-- A commit that is refused: the active records are reloaded into the staging (08 R285). -/
def cxlRefuse (s : State) (code : Nat) : State :=
  { pset s P.cxlResult code with
    cxlRun := none, stagedOcts := s.stagedOcts.filter (fun e => !((List.range 16).any (fun i => e.1 == P.cxlRange i))) }

/-- The record of a range as an accepted commit takes it: that of a shell which has been released meanwhile has no owner (08 R287). -/
def rngTaken (s : State) (r : Nat) : Nat :=
  if rngEnable r ∧ rngOwner r < 32 ∧ ((shellOf s (rngOwner r)).st = .free ∨ (shellOf s (rngOwner r)).st = .releasing) then
    r - rngOwner r * 2 ^ 242 + 0x3F * 2 ^ 242
  else r

/-- The records `ch` of an accepted commit that its check found changed take effect: a range taken away is OFF, a changed or new one is scrubbed; the
others are not touched, and what is staged stays (08 R285 to R287). -/
def cxlTake (s : State) (l ch : List Nat) : State :=
  let s1 := ch.foldl (fun s i =>
    let r := rngTaken s (l.getD i 0)
    let s1 := rangePut s i r
    if rngEnable r then { pset s1 (P.cxlRangeState i) 1 with cxlScrub := sAdd s1.cxlScrub i }
    else { pset s1 (P.cxlRangeState i) 0 with cxlScrub := sDel s1.cxlScrub i }) s
  let left := ch.filter (fun i => rngEnable (l.getD i 0))
  { pset s1 P.cxlResult 0 with cxlRun := if left = [] then none else some { checking := false, scrub := left } }

/-- CXL_COMMIT: check the staged records, unless an earlier commit's ranges are still being brought up (08 R285). -/
def cxlCommitWrite (s : State) : State :=
  if s.cxlRun.isSome then { pset s P.cxlResult 0x020B with stagedOcts := s.stagedOcts.filter (fun e => !((List.range 16).any (fun i => e.1 == P.cxlRange i))) }
  else { s with cxlRun := some { staged := (List.range 16).map (rangeStaged s) } }

def execCxlCommit (s : State) : Ans := if fullUp s then .next (cxlCommitWrite s) else .next s

/-- CXL_CHECK_DONE: the commit is refused, or its changed ranges' decoders are programmed (08 R285). -/
def execCxlCheckDone (s : State) : Ans :=
  match s.cxlRun with
  | some r =>
    if !r.checking then .next s
    else
      let code := cxlCode s r.staged
      let ch := rngChanged s r.staged
      let todo := ch.filter (fun i => rngEnable (r.staged.getD i 0))
      if code ≠ 0 then .next (cxlRefuse s code)
      else if todo = [] then .next (cxlTake s r.staged ch)
      else .next { s with cxlRun := some { r with checking := false, changed := ch, todo := todo } }
  | none => .next s

/-- CXL_DECODER_COMMIT_DONE: a range's decoders are committed; when the last are, the commit takes effect. A refusal takes the programmed
ranges down again: nothing has changed (08 Table Tiers-7). -/
def execCxlDecoderCommitDone (range : Fin 16) (ok : Bool) (s : State) : Ans :=
  match s.cxlRun with
  | some r =>
    if !r.todo.contains range.val then .next s
    else if !ok then .next (cxlRefuse s 0x0208)
    else
      let todo := r.todo.filter (· != range.val)
      if todo = [] then .next (cxlTake s r.staged r.changed) else .next { s with cxlRun := some { r with todo := todo } }
  | none => .next s

/-- A range leaves the scrubs of the commit that brought it up. -/
def cxlRunScrubbed (s : State) (i : Nat) : State :=
  match s.cxlRun with
  | some r =>
    if r.checking ∨ r.todo ≠ [] then s
    else
      let left := r.scrub.filter (· != i)
      { s with cxlRun := if left = [] then none else some { r with scrub := left } }
  | none => s

/-- CXL_RANGE_SCRUB_DONE: the range holds zeros and becomes READY (08 R286, R287). -/
def execCxlRangeScrubDone (range : Fin 16) (s : State) : Ans :=
  let i := range.val
  if s.cxlScrub.contains i ∧ pget s (P.cxlRangeState i) = 1 then
    let r := rngOf s i
    let s1 := memZero { s with cxlScrub := sDel s.cxlScrub i } (cxlWindow + rngBase r * 2 ^ 28) (rngSize r * 2 ^ 28)
    .next (cxlRunScrubbed (pset s1 (P.cxlRangeState i) 2) i)
  else .next s

/-- CXL_RESCAN: the ports of the mask are enumerated again with CXL_PERST# driven low for 10 ms; a port that a range targets refuses the write
(08 R282, 19 R617). -/
def cxlRescanWrite (s : State) (mask : Nat) : State :=
  if (List.range 8).any (fun p => bitOf mask p && (List.range 16).any (fun i => rngOnPort (rngOf s i) p)) then pset s P.cxlResult 0x020C
  else (List.range 8).foldl (fun s p =>
    if bitOf mask p then
      let s1 := cxlPortPut s p { cxlPortOf s p with scanning := true, enumerated := false, up := false, devs := [] }
      { s1 with pins := { s1.pins with cxlPerst := setBitOf s1.pins.cxlPerst p true } }
    else s) (pset s P.cxlResult 0)

def execCxlRescan (mask : U8) (s : State) : Ans := if fullUp s then .next (cxlRescanWrite s mask.toNat) else .next s

/-- CXL_PORT_ENUMERATED: a port's link has trained and its devices are listed, or nothing answers. Type 1 and Type 2 devices stay disabled and
are listed with their type (08 R282). A port whose block did not start is disabled (16 Table Start-4). -/
def execCxlPortEnumerated (port : CxlPortId) (link : Option CxlLink) (s : State) : Ans :=
  let p := port.val
  let q := cxlPortOf s p
  if !(inStage s 2 || q.scanning) || (islandOf s (2344 + p)).st == .inReset then .next s
  else
    let s1 := { s with pins := { s.pins with cxlPerst := setBitOf s.pins.cxlPerst p false } }
    match link with
    | none => .next (capacitySettle (cxlPortPut s1 p {}))
    | some l => .next (capacitySettle (cxlPortPut s1 p {
        enumerated := true, up := true, rate := if l.fast then 64 else 32, width := if l.wide then 8 else 4, switch := l.switch
        devs := l.devs.map (fun d => { index := d.1.val, type := d.2.1.val, units := d.2.2.toNat }) }))

/-- A core that waits for a response from a span of ports' ranges is answered a status (08 R288). -/
def coreCxlStatus (s : State) (seat st : Nat) (inside : Nat → Bool) : State :=
  match waitAddr (seatOf s seat).core.wait with
  | some (va, ga, cause) => if inside ga then coreStatus s seat st va ga cause else s
  | none => s

/-- The transfers of a seat that wait for a response from a span are answered a status. -/
def xferCxlStatus (s : State) (seat st : Nat) (inside : Nat → Bool) : State :=
  (seatOf s seat).xfers.foldl (fun s x => match x.waits, xEnv s seat with
    | some (acc, va, ga), some env => if x.st = .active ∧ inside ga then xferStop s seat env x x.cursor (.status st acc va ga) else s
    | _, _ => s) s

/-- The stores of a core into a span that are not acknowledged yet are, with a status. -/
def storesStatus (s : State) (seat st : Nat) (inside : Nat → Bool) : State :=
  let c := (seatOf s seat).core
  corePut s seat { c with stores := c.stores.map (fun x => if inside x.ga then { x with status := st, outside := false, waits := false } else x) }

/-- What the seats of `seats` wait for at the places `inside` is answered TIMEOUT: stores, transfers and the cores' own accesses (08 R288). -/
def seatsTimeout (s : State) (seats : List Nat) (inside : Nat → Bool) : State :=
  seats.foldl (fun s i => coreCxlStatus (xferCxlStatus (storesStatus s i stTimeout inside) i stTimeout inside) i stTimeout inside) s

/-- A port's link goes down: its ranges are OFFLINE, and accesses in flight to them are answered TIMEOUT (08 R288). -/
def portDown (s : State) (p : Nat) : State :=
  let hit := (List.range 16).filter (fun i => rngOnPort (rngOf s i) p)
  let s1 := hit.foldl (fun s i => cxlRunScrubbed { pset s (P.cxlRangeState i) 3 with cxlScrub := sDel s.cxlScrub i } i) s
  let s2 := capacitySettle (cxlPortPut s1 p { cxlPortOf s1 p with up := false, enumerated := false, scanning := false })
  seatsTimeout s2 (s.seats.map (·.1)) (fun ga => match rangeAt s ga with | some i => hit.contains i | none => false)

/-- CXL_PORT_DOWN (08 R288). -/
def execCxlPortDown (port : CxlPortId) (s : State) : Ans := if (cxlPortOf s port.val).up then .next (portDown s port.val) else .next s

/-- CXL_REFCLK runs from the end of stage 1 while CXL_PRSNT# is low (19 R617). -/
def refclkSettle (s : State) : State :=
  if s.start.islandsUp then { s with pins := { s.pins with cxlRefclk := s.pins.cxlPrsnt } } else s

/-- CXL_PRSNT_REMOVAL: a high-to-low edge of CXL_PRSNT#; after enumeration it is a surprise removal (19 R617, log 38). -/
def execCxlPrsntRemoval (port : CxlPortId) (s : State) : Ans :=
  let p := port.val
  if bitOf s.pins.cxlPrsnt p then .next s
  else
    let s1 := refclkSettle { s with pins := { s.pins with cxlPrsnt := setBitOf s.pins.cxlPrsnt p true } }
    if (cxlPortOf s p).enumerated then .next (portDown s1 p) else .next s1

/-- CXL_PRSNT_LOW_TO_HIGH: the reference clock of the port stops (19 R617). -/
def execCxlPrsntLowToHigh (port : CxlPortId) (s : State) : Ans :=
  .next (refclkSettle { s with pins := { s.pins with cxlPrsnt := setBitOf s.pins.cxlPrsnt port.val false } })

/-- Whether an address lies in a range on a port. -/
def onPort (s : State) (p ga : Nat) : Bool := match rangeAt s ga with | some i => rngOnPort (rngOf s i) p | none => false

/-- Whether a requester waits for a response from a CXL port, and has for so long (08 R289). -/
def cxlWaits (s : State) (p after : Nat) (who : CxlWaiter) : Bool :=
  match who with
  | .core seat => (match waitAddr (seatOf s seat.val).core.wait with | some (_, ga, _) => onPort s p ga && tbPast s.tb (seatOf s seat.val).core.tbWait after | none => false)
  | .store seat => (match (seatOf s seat.val).core.stores with | x :: _ => onPort s p x.ga && tbPast s.tb x.tb after | [] => false)
  | .transfer seat tk => (match xferFind s seat.val tk.toNat with
    | some x => x.st == .active && tbPast s.tb x.tbSent after && (match x.waits with | some (_, _, ga) => onPort s p ga | none => false)
    | none => false)

/-- A status other than OK for a requester at a CXL port. The store's reaches the core by its STORE_ACK (06 R214). -/
def cxlAnswer (s : State) (p st : Nat) (who : CxlWaiter) : State :=
  match who with
  | .core seat => coreCxlStatus s seat.val st (onPort s p)
  | .store seat =>
    let c := (seatOf s seat.val).core
    match c.stores with
    | x :: rest => corePut s seat.val { c with stores := { x with status := st, outside := false, waits := false } :: rest }
    | [] => s
  | .transfer seat _ => xferCxlStatus s seat.val st (onPort s p)

/-- CXL_MEM_RESPONSE: the response of a device is noted with its DevLoad; a poisoned one is counted and answered POISONED (08 R282, R298). -/
def execCxlMemResponse (port : CxlPortId) (dev : Fin 8) (r : CxlReport) (who : Option CxlWaiter) (s : State) : Ans :=
  let p := port.val
  let q := cxlPortOf s p
  let more := fun (t : Tbl Nat) => tset (fun _ => 0) t dev.val (tget (fun _ => 0) t dev.val + 1)
  if !q.up then .next s
  else
    let s1 := cxlPortPut s p { q with responses := more q.responses, severe := if r.severe then more q.severe else q.severe }
    if r.poison then
      let s2 := pinc s1 (P.cxlPoison p)
      match who with
      | some w => .next (if cxlWaits s2 p 0 w then cxlAnswer s2 p stPoisoned w else s2)
      | none => .next s2
    else .next s1

/-- CXL_MEM_TIMEOUT: a request unanswered for 4 ms is answered TIMEOUT and counted (08 R289). -/
def execCxlMemTimeout (port : CxlPortId) (who : CxlWaiter) (s : State) : Ans :=
  .next (if cxlWaits s port.val 4000000 who then cxlAnswer (pinc s (P.cxlTimeouts port.val)) port.val stTimeout who else s)

/-- CXL_EVENT: a device's event record is filed (08 R282, 17 Table Safety-5). -/
def execCxlEvent (port : CxlPortId) (detail0 detail1 : U64) (s : State) : Ans :=
  if (cxlPortOf s port.val).enumerated then
    .next (fileError s false { kind := 0x14, scope := 0, island := 2344 + port.val, detail0 := detail0.toNat, detail1 := detail1.toNat })
  else .next s

/-! ### Regulation (08 R290 to R300) -/

/-- DEVLOAD_WINDOW: 10 ms end. A device with more than half of its responses at Severe Overload derates the port to what it delivered, never below
10 % of its base; otherwise the derating lifts (08 R298). -/
def execDevloadWindow (port : CxlPortId) (delivered : U16) (s : State) : Ans :=
  let q := cxlPortOf s port.val
  let over1 := q.severe.any (fun e => decide (e.2 * 2 > tget (fun _ => 0) q.responses e.1))
  let q1 := { q with responses := [], severe := [], overload := if over1 then some (max 54 delivered.toNat) else none }
  if s.start.islandsUp then .next (capacitySettle (cxlPortPut s port.val q1)) else .next s

/-- CAPACITY_CHANGE: an input of a derating changes (08 R295). -/
def execCapacityChange (input : CapInput) (s : State) : Ans :=
  if !s.start.islandsUp then .next s
  else match input with
  | .host gen width => .next (capacitySettle { s with hostGen := max 1 gen.val, hostWidth := max 1 width.val })
  | .ring c => .next (capacitySettle { s with ringDerate := c.map (fun p => (min p.1.toNat (classBase 1), min p.2.toNat (classBase 2))) })

/-- SCALE_RISE_HOLD_EXPIRY: the capacity of a class has held for 100 ms (08 R296). -/
def execScaleRiseHoldExpiry (cls : Fin 12) (s : State) : Ans :=
  if s.scaleHold.contains cls.val ∧ tbPast s.tb (tget (fun _ => 0) s.tbCapacity cls.val) 100000000 then .next (scaleSettle s cls.val) else .next s

/-- The effective minimum of a shell, by the minimum in force, over 1 µs times 1,000, in units of 0.1 bytes: 0.1 GB/s is 100 bytes in 1 µs. -/
def effMin (s : State) (slot k : Nat) : Nat := activeMin s slot k * scaleOf s slot k

/-- MISSED of a slot in a class, one more (08 R299, R301). -/
def missedPut (s : State) (slot k : Nat) : State :=
  let old := octGet s (P.missed slot)
  octPut s (P.missed slot) ((List.range 12).flatMap (fun i => leBytes 4 (if i = k then satInc32 (field old (4 * i) 4) else field old (4 * i) 4)))

/-- Whether a window of 100 µs that closes now overlaps a hold (06 R209, 08 R299). -/
def windowHeld (s : State) : Bool :=
  s.shells.any (fun e => !e.2.holds.isEmpty) || (match s.tbHold with | some t => !tbPast s.tb t 100000 | none => false)

/-- The bytes that a shell can have received in a window: with pacing, what its slots of 1 µs let through (08 R300). -/
def paced (s : State) (slot k bytes : Nat) : Nat :=
  if pget s P.pacingEnable = 1 then (match tfind s.pace (slot * 16 + k) with | some p => min bytes (100 * p) | none => bytes) else bytes

/-- REGULATION_WINDOW: a 100 µs window closes. A backlogged shell that received less than its effective minimum, outside a hold, has missed:
it is counted, and interrupts its owner at most once per millisecond (08 R299). -/
def execRegulationWindow (samples : List RegSample) (s : State) : Ans :=
  .next (samples.foldl (fun s x =>
    let sl := x.slot.val
    let sh := shellOf s sl
    -- 0.1 GB/s over 100 µs is 10,000 bytes
    if sh.st = .free ∨ windowHeld s ∨ paced s sl x.cls.val x.bytes ≥ effMin s sl x.cls.val * 10 then s
    else
      let s1 := missedPut s sl x.cls.val
      match sh.tbMiss with
      | some t => if tbPast s.tb t 1000000 then raiseCause (shellPut s1 sl { sh with tbMiss := some s.tb }) (pget s1 (P.ownerFunction sl)) 2 else s1
      | none => raiseCause (shellPut s1 sl { sh with tbMiss := some s.tb }) (pget s1 (P.ownerFunction sl)) 2) s)

/-- The weight of a shell in a class (08 Table Tiers-10, R291). -/
def classWeight (s : State) (slot k : Nat) : Nat :=
  if k < 4 then pget s (P.weight slot)
  else if bitOf (pget s (P.cxlPortMask slot)) (k - 4) then (shellOf s slot).rig.cxlWeight.getD (k - 4) 16 else 1

/-- PACING_SLOT: with pacing enabled each shell may have, in the next 1 µs, its effective minimum and its weight share of the capacity above all
minima; the traffic of no shell counts with 5 % and weight 1 (08 R291, R300). -/
def execPacingSlot (s : State) : Ans :=
  if pget s P.pacingEnable = 0 then .next { s with pace := [] }
  else
    let live := (liveShells s).map (·.1)
    let share := fun (k : Nat) =>
      let c := pget s (P.regCapacity k)
      let mins := (live.map (fun sl => effMin s sl k / 10)).sum + c * 5
      let left := c * 100 - mins
      let w := (live.map (fun sl => classWeight s sl k)).sum + 1
      live.map (fun sl => (sl * 16 + k, effMin s sl k / 10 + left * classWeight s sl k / w))
    .next { s with pace := ((List.range 12).flatMap share).foldl (fun t e => tset (fun _ => 0) t e.1 e.2) [] }

end Sys2Proof.Machine
end

