-- ==== Sys2Proof/Machine/Keys.lean ====
section
/-! DEFINITION. Swap-in of a context, sequence slots, weight keys and a shell's binding (09 R325, 10 R346, 18 R586 to R588). -/
namespace Sys2Proof.Machine

/-! ### Swap-in (10 R346, 11 R390) -/

/-- One valid entry fetched again: put in force, or the code with which its context is lost (10 R346). -/
def swapEntry (s : State) (cid idx : Nat) (r : ReadResult) : State × Nat :=
  let x := slotOf (ctxOf s cid) idx
  match r with
  | .failed | .memory _ => (s, 0x0307)
  | .data b =>
    let e := leNat (b.take 32)
    let g := x.lastInstalled.getD 0
    match serialCmp g (entGen e) with
    | .older => (s, 0x0304)
    | .outside => (s, 0x0305)
    | _ =>
      let code := entryCode s cid idx (entGen e) e
      if code = 0 then (entryForce s cid idx e x, 0) else (s, code)

/-- The valid entries of a context in index order, each with what its fetch came back with; a fetch that is missing has failed. -/
def swapEntries (cid : Nat) : List Nat → List ReadResult → State → State × Nat
  | [], _, s => (s, 0)
  | i :: t, rs, s =>
    let (s1, code) := swapEntry s cid i (rs.headD .failed)
    if code = 0 then swapEntries cid t (rs.drop 1) s1 else (s1, code)

/-- CONTEXT_SWAP_IN_DONE: the context becomes resident, or is lost with the cause recorded (10 R346, log 40). -/
def execContextSwapInDone (ctx : U16) (entries : List ReadResult) (s : State) : Ans :=
  let cid := ctx.toNat
  if !s.swapping.contains cid then .next s
  else
    let s0 := { s with swapping := sDel s.swapping cid }
    let c := ctxOf s0 cid
    if c.st ≠ .live then .next s0
    else
      let idx := (c.entries.filter (fun e => entKind e.2.entry != 0)).map (·.1)
      let (s1, code) := swapEntries cid idx entries s0
      if code = 0 then .next (swapWaiting (pinc (ctxPut s1 cid { ctxOf s1 cid with resident := true }) P.contextSwaps))
      else .next (ctxLoss (ctxPut s1 cid { ctxOf s1 cid with feRefusal := some (c.head, code) }) cid none false)

/-! ### Sequence slots (09 R325, 11 R403) -/

/-- Whether a record breaks 0x0A2E SEQ_SLOT_FIELD for a context. -/
def seqFieldBad (cid r : Nat) : Bool :=
  seqOwner r != cid || !bitOf r 239 || bitsOf r 238 229 != 0 || bitsOf r 159 121 != 0 || bitsOf r 63 0 != 0
    || decide (bitsOf r 228 224 > 16) || bitsOf r 223 192 % 64 != 0 || bitsOf r 120 64 % 8 != 0

/-- How many sequence slots the contexts of a function hold. -/
def seqHeld (s : State) (fn : Nat) : Nat := s.seqSlots.countP (fun e => (ctxOf s (seqOwner e.2)).fn == fn)

/-- Quota and holder of a write to a slot: 0x0A2C, 0x0A2D, or 0. -/
def seqWriteCode (s : State) (cid k : Nat) : Nat :=
  let fn := (ctxOf s cid).fn
  match tfind s.seqSlots k with
  | none => if seqHeld s fn ≥ pget s (P.seqSlotQuota fn) then 0x0A2C else 0
  | some r =>
    if seqOwner r = cid then 0
    else if (ctxOf s (seqOwner r)).fn ≠ fn ∧ seqHeld s fn ≥ pget s (P.seqSlotQuota fn) then 0x0A2C else 0x0A2D

/-- CMD_SEQ_SLOT: a release takes effect at once; a write reads its record from the host (09 R325). -/
def execCmdSeqSlot (ctx : U16) (s : State) : Ans :=
  let cid := ctx.toNat
  withHead s cid 0x10 (fun s q =>
    let k := q.pl 447 436
    if q.pl 435 432 = 2 then
      match tfind s.seqSlots k with
      | some r => if seqOwner r = cid then privEnd { s with seqSlots := tdel s.seqSlots k } cid q 0 else privEnd s cid q 0x0A2D
      | none => privEnd s cid q 0x0A2D
    else
      let code := seqWriteCode s cid k
      if code ≠ 0 then privEnd s cid q code
      else emit (privBegin s cid q) (.hostRead (q.pl 511 448) 32))

/-- SEQ_SLOT_RECORD_READ_DONE: the record is checked and the slot written. The manual names no code for a read that fails: the code is a free
nonzero value (log 41). -/
def execSeqSlotRecordReadDone (ctx : U16) (seq : U32) (r : ReadResult) (s : State) : Ans :=
  let cid := ctx.toNat
  match privFind s cid 0x10 seq.toNat with
  | none => .next s
  | some q =>
    let k := q.pl 447 436
    let code := seqWriteCode s cid k
    if code ≠ 0 then .next (privEnd s cid q code)
    else match r with
      | .failed | .memory _ => .next (privEnd (freeNext s) cid q (1 + (Config.freeWord s.freeCtr).toNat % 0xFFFF))
      | .data b =>
        let rec_ := leNat (b.take 32)
        if b.length < 32 ∨ seqFieldBad cid rec_ then .next (privEnd s cid q 0x0A2E)
        else .next (privEnd { s with seqSlots := tins (tdel s.seqSlots k) k rec_ } cid q 0)

/-! ### The binding of a shell (18 R586) -/

/-- COX_FW and TENDER_FW of the image that runs (18 R578). -/
def coxFw (s : State) : Bytes := Config.coxDigest (fwRunning s).image
def tenderFw (s : State) : Bytes := Config.fwDigest (fwRunning s).image

/-- BINDING of a shell. -/
def shellBinding (s : State) (slot : Nat) : Bytes :=
  Config.shake256 (ascii "VZS2-BIND" ++ identityDigest s ++ coxFw s ++ tenderFw s ++ leBytes 8 (pget s P.bootCounter) ++ leBytes 1 slot
    ++ leBytes 1 (pget s (P.ownerFunction slot)) ++ leBytes 8 (shellOf s slot).epoch ++ leBytes 1 (pget s (P.debugSeen slot))) 64

/-! ### Weight keys (18 R588, Tables Sec-6, Sec-7) -/

def wkeyOf (s : State) (cid k : Nat) : WkeySlot := tget (fun _ => {}) (ctxOf s cid).wkeys k
def wkeyPut (s : State) (cid k : Nat) (w : WkeySlot) : State :=
  let c := ctxOf s cid
  ctxPut s cid { c with wkeys := tset (fun _ => {}) c.wkeys k w }

/-- A load fails: the result word, the count, and the slot as it was before (18 Table Sec-7). -/
def wkeyFail (s : State) (cid : Nat) (q : QCmd) (code : Nat) : State := privEnd (pinc s P.wkeyFailures) cid q code

/-- CMD_WKEY_LOAD: the slot is LOADING while the blob is read. -/
def execCmdWkeyLoad (ctx : U16) (s : State) : Ans :=
  let cid := ctx.toNat
  withHead s cid 0x14 (fun s q =>
    let k := q.pl 447 442
    let w := wkeyOf s cid k
    if q.pl 441 320 ≠ 0 ∨ q.pl 511 448 % 64 ≠ 0 ∨ q.pl 319 256 % 8 ≠ 0 then wkeyFail s cid q 0x0701
    else if w.st = .loading then wkeyFail s cid q 0x0702
    else emit (privBegin (wkeyPut s cid k { w with st := .loading, blob := q.pl 511 448 }) cid q) (.hostRead (q.pl 511 448) 1792))

/-- Whether the fields of a blob are as Table Sec-6 has them. -/
def blobOk (b : Bytes) : Bool :=
  b.length == 1792 && field b 0 4 == 0x574B4559 && field b 4 2 == 2 && decide (field b 6 1 < 32) && field b 7 1 == 0
    && field b 8 8 % 16 == 0 && decide (field b 8 8 < 2 ^ 57) && field b 0x18 8 == 0 && field b 0x6E8 24 == 0

/-- The key of a blob, or the code that refuses it, in the order of Table Sec-12. -/
def blobKey (s : State) (fn : Nat) (b : Bytes) : Bytes ⊕ Nat :=
  let slot := field b 6 1
  if !blobOk b then .inr 0x0701
  else if !shellOwned s fn slot then .inr 0x0704
  else if slice b 0x60 64 ≠ shellBinding s slot then .inr 0x0705
  else
    let kek := Config.kmac256 (Config.decap (slice b 0xA0 1568)) (slice b 0x60 64 ++ slice b 0x20 64 ++ slice b 0x10 8) 32 (ascii "VZS2-WKEY")
    match Config.aesUnwrap kek (slice b 0x6C0 40) with
    | none => .inr 0x0706
    | some key => .inl key

/-- The KEY_LOAD record of a load (18 R596). -/
def keyWake (s : State) (slot cid seq k : Nat) (model : Bytes) : WakeRec :=
  { kind := 7, tb := s.tb, seq := seq, word := wakeWord s slot 7 0 s.tb cid seq [] [] [] model k }

/-- WKEY_BLOB_READ_DONE: the checks run; the key is installed, or the previous content stays. -/
def execWkeyBlobReadDone (ctx : U16) (seq : U32) (r : ReadResult) (s : State) : Ans :=
  let cid := ctx.toNat
  match privFind s cid 0x14 seq.toNat with
  | none => .next s
  | some q =>
    let k := q.pl 447 442
    let w := wkeyOf s cid k
    let back := wkeyPut s cid k { w with st := if w.key = [] then .empty else .loaded, blob := 0 }
    match r with
    | .failed | .memory _ => .next (wkeyFail back cid q 0x0703)
    | .data b =>
      match blobKey s (ctxOf s cid).fn b with
      | .inr code => .next (wkeyFail back cid q code)
      | .inl key =>
        let slot := field b 6 1
        let s1 := wkeyPut s cid k { st := .loaded, shell := slot, baseVa := field b 8 8, nonce := field b 0x10 8, model := slice b 0x20 64, key := padTo 32 key }
        let s2 := wakeAppend s1 slot (keyWake s1 slot cid q.seq k (slice b 0x20 64))
        .next (privEnd (pinc s2 P.wkeyLoads) cid q 0)

/-- CMD_WKEY_CLEAR: one slot, or all of them; a slot that is loading refuses the whole command (log 42). -/
def execCmdWkeyClear (ctx : U16) (s : State) : Ans :=
  let cid := ctx.toNat
  withHead s cid 0x15 (fun s q =>
    let all := q.pl 441 441 = 1
    let k := q.pl 447 442
    let c := ctxOf s cid
    if q.pl 511 448 ≠ 0 ∨ q.pl 440 320 ≠ 0 ∨ q.pl 319 256 % 8 ≠ 0 then privEnd s cid q 0x0701
    else if c.wkeys.any (fun w => (all || w.1 == k) && w.2.st == .loading) then privEnd s cid q 0x0702
    else privEnd (ctxPut s cid { c with wkeys := if all then [] else tdel c.wkeys k }) cid q 0)

end Sys2Proof.Machine
end

