-- ==== Sys2Proof/Machine/PowerCmds.lean ====
section
/-! DEFINITION. Budget grants, the control step, alerts, thermal steps and the energy meters (15 R504 to R522). -/
namespace Sys2Proof.Machine

/-! ### The module budget (15 R504 to R506) -/

def grantWatts (v : Nat) : Nat := bitsOf v 15 0
def grantLease (v : Nat) : Nat := bitsOf v 95 64
def grantSeq (v : Nat) : Nat := bitsOf v 127 96

/-- BUDGET_EFFECTIVE_W changes: every allocation is recomputed (15 R506). -/
def budgetSet (s : State) (w : Nat) : State := powerAllocate (pset s P.budgetEffectiveW w)

/-- The code of a grant, in the order of Table Power-7 (15 R505, R524). -/
def grantCode (s : State) (v : Nat) : Nat :=
  let last := leNat (octGet s P.budgetGrant)
  let l := grantLease v
  if grantWatts v < 1000 ∨ (1 ≤ l ∧ l ≤ 99) ∨ l > 60000 then 0x0603
  else if grantWatts v > pget s P.powerLimitW then 0x0602
  else if pget s P.budgetState = 0 then 0
  else match serialCmp (grantSeq last) (grantSeq v) with
    | .older => 0x0605
    | .outside => 0x0606
    | .equal => if v = last then 0 else 0x0604
    | .newer => 0

/-- BUDGET_GRANT written: the code, and the grant in force (15 Table Power-4). -/
def budgetGrantWrite (s : State) (v : Nat) : State × Nat :=
  let c := grantCode s v
  let s1 := pset s P.budgetResult c
  if c ≠ 0 then (s1, c)
  else (budgetSet { octPut (pset s1 P.budgetState 1) P.budgetGrant (leBytes 16 v) with power := { s.power with tbGrant := s.tb } } (grantWatts v), 0)

def execBudgetGrantWrite (grant : BitVec 128) (s : State) : Ans := if dictUp s then .next (budgetGrantWrite s grant.toNat).1 else .next s

/-- BUDGET_LEASE_EXPIRY: the fallback budget is in force, as far as the power limit admits it (00 R4), and an error record of kind BUDGET_EXPIRED is filed (15 Table Power-4). A lease
of 0 never runs out. -/
def execBudgetLeaseExpiry (s : State) : Ans :=
  let l := grantLease (leNat (octGet s P.budgetGrant))
  if pget s P.budgetState = 1 ∧ l ≠ 0 ∧ tbPast s.tb s.power.tbGrant (l * 1000000) then
    .next (fileError (budgetSet (pset s P.budgetState 2) (min (pget s P.fallbackBudgetW) (pget s P.powerLimitW))) false { kind := 0x12, scope := 0 })
  else .next s

/-! ### The control step (15 R506, R509, R522) -/

/-- The level that follows level `c` under allocation `w` with a measured seat power `p` in units of 10 mW (15 R509). -/
def levelNext (s : State) (p w c cap : Nat) : Nat :=
  if p > 100 * w then
    (((List.range 8).filter (fun l => decide (l > c) && decide (p * plPower s l ≤ 100 * w * plPower s c))).head?).getD 7
  else if c > cap ∧ p * plPower s (c - 1) * 100 ≤ 95 * 100 * w * plPower s c then c - 1
  else c

/-- One slot's decision. A level that PL_CAP no longer permits becomes PL_CAP (Table Power-8). -/
def levelDecide (s : State) (slot p : Nat) : State :=
  if slot < 32 then
    if (shellOf s slot).st = .free then s
    else shellLevel s slot (max (pget s (P.plCap slot)) (levelNext s p (pget s (P.allocW slot)) (pget s (P.powerLevel slot)) (pget s (P.plCap slot))))
  else
    match s.lent.find? (fun l => lentSlot l.id == slot && l.kind == 1) with
    | none => s
    | some l => lentLevel s l.id (levelNext s p (((allocations s).1.find? (fun x => x.1 == slot)).map (·.2) |>.getD 0) l.level 0)

/-- POWER_CONTROL_STEP: the measurements of the last 1 ms are taken over, and every level is decided. `draws` holds a shell's slot, or
1000 and the identifier of a lease of lent seats, with its seat power in units of 10 mW; `platformW` is the highest draw of the other rails
over the last 10 s. During an alert no level is decided (15 R506, R509, R515, R522). -/
def execPowerControlStep (inputMv inputW platformW : Nat) (draws : List (Nat × Nat)) (s : State) : Ans :=
  if !coxRuns s then .next s
  else
    let s1 := pset (pset s P.inputMv inputMv) P.inputPowerW inputW
    let s2 := if inputW > pget s P.budgetEffectiveW then pinc s1 P.budgetOverruns else s1
    let res := max 400 (cdiv platformW 10 * 10)
    -- a changed PL_CAP or clock cap applies here too (15 R501, Table Power-8)
    let s3 := powerAllocate (pset s2 P.platformReserveW res)
    if s3.power.phase ≠ .none then .next s3
    else if bitOf (pget s3 P.alertStatus) 4 then .next (powerForcePl7 s3)
    else .next (draws.foldl (fun s d => levelDecide s d.1 d.2) (relevel s3))

/-! ### Alerts (15 R513 to R515, 19 R621) -/

/-- The counter of an alert source: regulator, RACK_ALERT#, PWRBRK#, thermal critical. -/
def alertCounter (i : Nat) : Nat :=
  match i with
  | 0 => P.regAlerts | 1 => P.rackAlerts | 2 => P.pwrbrkAlerts
  | _ => P.thermalAlerts

/-- ALERT_OUT# follows the module's own sources (19 R621). -/
def alertOut (s : State) : State :=
  let a := pget s P.alertStatus
  { s with pins := { s.pins with alertOut := bitOf a 0 || bitOf a 3 } }

/-- ALERT_ASSERT: every seat goes to PL7, the source's bit is set and counted, and a record of kind POWER_ALERT is filed. The first source
fixes the levels that the shells return to; one that comes during the hold or the rise starts the alert again (15 R514, R515). -/
def execAlertAssert (source : Fin 4) (s : State) : Ans :=
  if !s.pins.inputGood ∨ bitOf (pget s P.alertStatus) source.val then .next s
  else
    let t := if s.power.phase = .none then (liveSlots s).map (fun i => (i, pget s (P.powerLevel i))) else s.power.targets
    let first := pget s P.alertStatus % 16 = 0
    let s1 := powerForcePl7 { s with power := { s.power with phase := .asserted, targets := t, tbAlert := if first then s.tb else s.power.tbAlert } }
    let s2 := pinc (pset s1 P.alertStatus (setBitOf (pget s1 P.alertStatus) source.val true)) (alertCounter source.val)
    .next (alertOut (fileError s2 false { kind := 0x10, scope := 0, detail0 := source.val }))

/-- ALERT_DEASSERT: the source's bit clears, and with the last one the hold begins (15 R515, Table Power-8). -/
def execAlertDeassert (source : Fin 4) (s : State) : Ans :=
  if !bitOf (pget s P.alertStatus) source.val then .next s
  else
    let s0 := alertOut (pset s P.alertStatus (setBitOf (pget s P.alertStatus) source.val false))
    let clear := pget s0 P.alertStatus % 16 = 0
    let s1 := if clear then { s0 with start := { s0.start with pausedNs := s0.start.pausedNs + (s.tb - max s.power.tbAlert s.start.tbStage) } } else s0
    .next (if clear ∧ s1.power.phase = .asserted then { s1 with power := { s1.power with phase := .holding, tbHold := s.tb } } else s1)

/-- ALERT_HOLD_EXPIRY: after ALERT_HOLD_MS the rise begins. -/
def execAlertHoldExpiry (s : State) : Ans :=
  if s.power.phase = .holding ∧ tbPast s.tb s.power.tbHold (pget s P.alertHoldMs * 1000000) then
    .next { s with power := { s.power with phase := .rising, tbHold := s.tb } } else .next s

/-- ALERT_RISE_STEP: every 100 µs each shell rises by one level until it has reached its target; then the rise ends (15 R515). Lent seats rise with them
to the lowest-numbered level, and the next control step sets theirs. -/
def execAlertRiseStep (s : State) : Ans :=
  if s.power.phase ≠ .rising ∨ !tbPast s.tb s.power.tbHold 100000 then .next s
  else
    let s1 := (liveSlots s).foldl (fun s i =>
      let l := pget s (P.powerLevel i)
      shellLevel s i (if l > tget (fun _ => 0) s.power.targets i then l - 1 else l)) s
    let s2 := (lentIds s1).foldl (fun s i => lentLevel s i ((((s.lent.find? (fun l => l.id == i)).map (·.level)).getD 0) - 1)) s1
    .next (if (liveSlots s2).all (fun i => decide (pget s2 (P.powerLevel i) ≤ tget (fun _ => 0) s2.power.targets i)) ∧ s2.lent.all (fun l => l.level == 0 || l.kind != 1) then
      { s2 with power := { s2.power with phase := .none, targets := [] } } else { s2 with power := { s2.power with tbHold := s.tb } })

/-! ### Thermal steps (15 R516) -/

/-- Whether a die's last thermal step, of either direction, is an interval ago (15 R516). -/
def thermalDue (s : State) (die after : Nat) : Bool :=
  match tfind s.power.tbSteps die with
  | some t => tbPast s.tb t after
  | none => true

/-- THERMAL_THROTTLE_STEP: a die's temperature is read. At or above THERMAL_THROTTLE_C it lowers the seats it governs by one further
level, up to seven, in each 1 ms, which is counted and recorded for every shell affected; 3 °C below, one level is released every 10 ms. Dies are numbered as in Table Power-6:
0 to 15 compute dies, 16 to 23 ring dies, 24 MD. -/
def execThermalThrottleStep (die : Fin 25) (temp : BitVec 16) (s : State) : Ans :=
  if !coxRuns s then .next s
  else
    let s1 := pset s (P.dieTempC die.val) temp.toNat
    let n := tget (fun _ => 0) s.power.steps die.val
    let put := fun (s : State) (k : Nat) => relevel { s with power := { s.power with
      steps := tset (fun _ => 0) s.power.steps die.val k, tbSteps := tset (fun _ => 0) s.power.tbSteps die.val s.tb } }
    if temp.toInt ≥ pget s P.thermalThrottleC then
      if n ≥ 7 ∨ !thermalDue s die.val 1000000 then .next s1
      else
      let s2 := pinc (put s1 (n + 1)) P.thermalThrottles
      let hit := (liveSlots s2).filter (fun i => decide (die.val ≥ 16) || (shellOf s2 i).rig.seats.any (fun x => x / 144 == die.val))
      .next (hit.foldl (fun s i => fileError s false { kind := 0x13, scope := 2, shell := i, fn := pget s (P.ownerFunction i), detail0 := die.val }) s2)
    else if temp.toInt ≤ (pget s P.thermalThrottleC : Int) - 3 ∧ n > 0 ∧ thermalDue s die.val 10000000 then .next (put s1 (n - 1))
    else .next s1

/-! ### Energy (15 R519 to R521) -/

/-- Divide `e` among weights so that the parts sum exactly to `e`: part k is the difference of rounded-down prefix shares (log 32). -/
def energyParts (e total : Nat) : Nat → List Nat → List Nat
  | _, [] => []
  | acc, w :: t => (e * (acc + w) / total - e * acc / total) :: energyParts e total (acc + w) t

/-- The energy of each of a list of resources with weights; with no activity at all the whole is nobody's. -/
def energySplit (e : Nat) (l : List (Nat × Nat)) : List (Nat × Nat) :=
  let total := (l.map (·.2)).sum
  if total = 0 then [] else (l.map (·.1)).zip (energyParts e total 0 (l.map (·.2)))

/-- Energy of a shell, and of the job it runs (15 R520, R521). -/
def shellEnergy (s : State) (slot uj : Nat) : State :=
  let sh := shellOf s slot
  let e := sh.energyUj + uj
  pset (shellPut s slot { sh with energyUj := e, job := sh.job.map (fun j => { j with energyUj := j.energyUj + uj }) }) (P.shellEnergyMj slot) (e / 1000 % 2 ^ 64)

/-- ENERGY_TICK: the energy of 10 µs in µJ is attributed (15 R519): each seat rail's among the seats of its die by activity, each ring die's
among its channels and ports by their counts, and everything else, with what falls to resources outside every shell, to the platform.
Energy of seats lent to another module is the platform's (15 R520). -/
def execEnergyTick (seatRail : List Nat) (activity : List (SeatId × Nat)) (ringRail : List Nat) (chans : List (ChanId × Nat))
    (ports : List (GhPortId × Nat)) (other : Nat) (s : State) : Ans :=
  if !s.pins.inputGood then .next s
  else
    let live := liveSlots s
    let seats := (seatRail.zipIdx).flatMap (fun p => energySplit p.1 ((activity.filter (fun a => a.1.val / 144 == p.2)).map (fun a => (a.1.val, a.2))))
    -- channels by number, ports by 96 and their number
    let rings := (ringRail.zipIdx).flatMap (fun p => energySplit p.1
      ((chans.filter (fun a => a.1.val / 12 == p.2)).map (fun a => (a.1.val, a.2)) ++ (ports.filter (fun a => a.1.val / 2 == p.2)).map (fun a => (96 + a.1.val, a.2))))
    let mine := fun (slot : Nat) =>
      let r := (shellOf s slot).rig
      ((seats.filter (fun e => r.seats.contains e.1)).map (·.2)).sum
        + ((rings.filter (fun e => if e.1 < 96 then r.channels.contains e.1 else r.ports.contains (e.1 - 96))).map (·.2)).sum
    let shares := live.map (fun i => (i, mine i))
    let all := seatRail.sum + ringRail.sum + other
    let s1 := shares.foldl (fun s p => shellEnergy s p.1 p.2) s
    let m := s1.power.moduleUj + all
    let pl := s1.power.platformUj + (all - (shares.map (·.2)).sum)
    .next (pset (pset { s1 with power := { s1.power with moduleUj := m, platformUj := pl } } P.moduleEnergyMj (m / 1000 % 2 ^ 64)) P.platformEnergyMj (pl / 1000 % 2 ^ 64))

end Sys2Proof.Machine
end

