-- ==== Sys2Proof/Machine/Mctp.lean ====
section
/-! DEFINITION. MCTP: packets, control commands, the message budget, PLDM monitoring, and the loss of a transport (13 R437, R445, R455,
15 R523). -/
namespace Sys2Proof.Machine

/-- The key of an MCTP endpoint. -/
def epKey (binding eid : Nat) : Nat := binding * 256 + eid

def endpointOf (s : State) (binding eid : Nat) : Endpoint := tget (fun _ => {}) s.endpoints (epKey binding eid)
def endpointPut (s : State) (binding eid : Nat) (e : Endpoint) : State := { s with endpoints := tset (fun _ => {}) s.endpoints (epKey binding eid) e }

/-- The block answers management messages from minimal safe function on (16 R530). -/
def mctpUp (s : State) : Bool := coxRuns s && !s.start.entry

/-- An assembled message of a sender and tag is consumed. -/
def mctpConsume (s : State) (binding eid tag : Nat) : State :=
  match s.mctpIn.find? (fun m => m.1 == binding && m.2.1 == eid && m.2.2.1 == tag) with
  | some m => { s with mctpIn := s.mctpIn.erase m }
  | none => s

/-- The span of 100 ms over which request messages are counted begins anew. -/
def mctpWindow (s : State) : State := if tbPast s.tb s.tbMctp 100000000 then { s with tbMctp := s.tb, mctpCount := 0 } else s

/-- The budget of 200 request messages in 100 ms is spent; with nothing left the message is dropped and counted (13 R455). -/
def mctpSpend (s : State) : State × Bool :=
  if s.mctpCount ≥ 200 then (pinc s P.mctpRxDropped, false) else ({ s with mctpCount := s.mctpCount + 1 }, true)

/-- A complete request message is taken (13 R455, log 29). -/
def mctpTake (s : State) (binding eid tag : Nat) : State × Bool := mctpSpend (mctpWindow (mctpConsume s binding eid tag))

/-- A message is offered to the fabric (13 R455). -/
def mctpOffered (s : State) (x : Sent) : State := emit { s with mctpOffer := some (s.tb, s.sent.length) } x

/-- Answer a PLDM or control request of an endpoint: PLDM only once an EID is assigned to the binding (13 Table Dict-8). -/
def mctpAnswer (s : State) (binding eid tag type cmd : Nat) (f : State → State × PldmCode × List Nat) : State :=
  if !mctpUp s ∨ (type ≠ 0 ∧ (tfind s.eids binding).isNone) then s
  else
    let (s1, ok) := mctpTake s binding eid tag
    if !ok then s1
    else
      let (s2, c, v) := f s1
      mctpOffered s2 (.pldm binding eid tag type cmd c v)

/-! ### Sessions that end (13 R445) -/

/-- Whether a session came over a binding. -/
def sessionOn (b : Nat) (x : Session) : Bool := match x.src with | .endpoint b' _ => b' == b | .mailbox _ => false

/-- TRANSPORT_LOSS of an MCTP binding: an I3C bus reset, or the host port down for PCIe VDM: its sessions are freed without a response. -/
def execTransportLoss (binding : Fin 2) (s : State) : Ans := .next (sessionsFree s (sessionOn binding.val))

/-! ### Packets (13 Table Dict-8) -/

/-- Whether an assembled message is one of the supported types, and the endpoint ID lets it in. -/
def mctpTypeOk (s : State) (binding : Nat) (d : Bytes) : Bool :=
  match d with
  | [] => false
  | b :: _ => b.toNat == 0 || ((b.toNat == 1 || b.toNat == 0x7E) && (tfind s.eids binding).isSome)

/-- The header of a dictionary request in an assembled message (13 R437, R438). -/
def papHead (d : Bytes) : Nat := leNat ((d.drop 3).take 24)

/-- The dictionary requests of an endpoint's session that still wait, as a further one of it arrives (13 R447). -/
def papBefore (s : State) (binding eid : Nat) (d : Bytes) : List Bytes :=
  let sid := fun (d : Bytes) => bitsOf (papHead d) 167 152
  ((s.mctpIn.filter (fun m => m.1 == binding && m.2.1 == eid && m.2.2.2.head? == some 0x7E && sid m.2.2.2 == sid d && sid d != 0)).map (·.2.2.2))

/-- A complete message waits for its decision, a dictionary request in its order. A repeat of a request of its session that still waits is dropped
(13 R434, R447, log 17). -/
def mctpArrive (s : State) (binding : Fin 2) (eid : Fin 256) (tag : Fin 8) (d : Bytes) : State :=
  let s1 := { s with mctpIn := s.mctpIn ++ [(binding.val, eid.val, tag.val, d)] }
  if d.head? ≠ some 0x7E then s1
  else
    let l := papBefore s binding.val eid.val d
    if l.contains d then s else { s1 with papQueue := s.papQueue ++ [(.mctp binding eid tag, !l.isEmpty)] }

/-- MCTP_PACKET_RECEIVE: packets of one message carry one tag and sequence numbers that rise modulo 4; a message over 1,024 bytes, with IC
set, or of another type is dropped. A complete message waits for its decision. -/
def execMctpPacketReceive (binding : Fin 2) (eid : Fin 256) (tag : Fin 8) (som eom ic : Bool) (seq : Fin 4) (payload : List Byte) (s : State) : Ans :=
  if !mctpUp s ∨ payload.length > 64 then .next s
  else
    let e := endpointOf s binding.val eid.val
    let a := e.asm
    let put := fun (x : Assembly) => endpointPut s binding.val eid.val { e with asm := x }
    if !som ∧ (!a.busy ∨ a.tag ≠ tag.val ∨ a.nextSeq ≠ seq.val) then .next (put {})
    else
      let d := if som then payload else a.data ++ payload
      if ic ∨ d.length > 1024 then .next (put {})
      else if eom then
        let s1 := put {}
        .next (if mctpTypeOk s binding.val d then mctpArrive s1 binding eid tag d else s1)
      else .next (put { busy := true, tag := tag.val, nextSeq := (seq.val + 1) % 4, data := d, tb := if som then s.tb else a.tb })

/-- MCTP_ASSEMBLY_TIMEOUT: a message not complete 100 ms after its first packet is dropped. -/
def execMctpAssemblyTimeout (binding : Fin 2) (eid : Fin 256) (s : State) : Ans :=
  let e := endpointOf s binding.val eid.val
  .next (if e.asm.busy ∧ tbPast s.tb e.asm.tb 100000000 then endpointPut s binding.val eid.val { e with asm := {} } else s)

/-- What was sent without the message at a place, but for the packets of 64 bytes of it that were accepted; how many is free (log 16). -/
def mctpCut (s : State) (i : Nat) : List Sent :=
  match s.sent[i]? with
  | some (.mctp b e t d) =>
    let k := (Config.freeWord s.freeCtr).toNat % max 1 ((d.length + 63) / 64)
    if k = 0 then s.sent.eraseIdx i else s.sent.set i (.mctp b e t (d.take (64 * k)))
  | some (.pldm _ _ _ _ _ _ _) => s.sent.eraseIdx i
  | _ => s.sent

/-- MCTP_TX_ACCEPT_TIMEOUT: of the message last offered a packet is not accepted 10 ms after its offer: it is dropped with the rest of the message, and
counted (13 R455). -/
def execMctpTxAcceptTimeout (s : State) : Ans :=
  match s.mctpOffer with
  | some (t, i) =>
    if mctpUp s ∧ tbPast s.tb t 10000000 then .next (pinc (freeNext { s with mctpOffer := none, sent := mctpCut s i }) P.mctpTxDropped) else .next s
  | none => .next s

/-! ### Control commands (13 Table Dict-8) -/

/-- SET_ENDPOINT_ID: the binding has the EID. A new one ends the sessions of the binding (13 Table Dict-13). The null and broadcast IDs are
answered as invalid (PRESUMED from DSP0236, log 29). -/
def execSetEndpointId (binding : Fin 2) (eid : Fin 256) (tag : Fin 8) (newEid : Fin 256) (s : State) : Ans :=
  .next (mctpAnswer s binding.val eid.val tag.val 0 1 (fun s =>
    if newEid.val = 0 ∨ newEid.val = 255 then (s, .invalidData, [])
    else
      let s1 := if tfind s.eids binding.val = some newEid.val then s else sessionsFree s (sessionOn binding.val)
      ({ s1 with eids := tins (tdel s1.eids binding.val) binding.val newEid.val }, .success, [newEid.val])))

/-- GET_ENDPOINT_ID: 0 while none is assigned. -/
def execGetEndpointId (binding : Fin 2) (eid : Fin 256) (tag : Fin 8) (s : State) : Ans :=
  .next (mctpAnswer s binding.val eid.val tag.val 0 2 (fun s => (s, .success, [(tfind s.eids binding.val).getD 0])))

def execGetEndpointUuid (binding : Fin 2) (eid : Fin 256) (tag : Fin 8) (s : State) : Ans :=
  .next (mctpAnswer s binding.val eid.val tag.val 0 3 (fun s => (s, .success, [Config.deviceUuid])))

/-- GET_MCTP_VERSION_SUPPORT: DSP0236 version 1.3. -/
def execGetMctpVersionSupport (binding : Fin 2) (eid : Fin 256) (tag : Fin 8) (s : State) : Ans :=
  .next (mctpAnswer s binding.val eid.val tag.val 0 4 (fun s => (s, .success, [1, 3])))

/-- GET_MESSAGE_TYPE_SUPPORT: control, PLDM, vendor defined with PCI vendor ID. -/
def execGetMessageTypeSupport (binding : Fin 2) (eid : Fin 256) (tag : Fin 8) (s : State) : Ans :=
  .next (mctpAnswer s binding.val eid.val tag.val 0 5 (fun s => (s, .success, [0x00, 0x01, 0x7E])))

def execGetVendorMsgSupport (binding : Fin 2) (eid : Fin 256) (tag : Fin 8) (s : State) : Ans :=
  .next (mctpAnswer s binding.val eid.val tag.val 0 6 (fun s => (s, .success, [Config.pciVendorId])))

def execMctpUnsupportedCmd (binding : Fin 2) (eid : Fin 256) (tag : Fin 8) (cmd : Fin 256) (s : State) : Ans :=
  .next (mctpAnswer s binding.val eid.val tag.val 0 cmd.val (fun s => (s, .unsupported, [])))

/-! ### PLDM monitoring (15 R523). Responses are named by command; the manual gives no command numbers for type 2 and the model uses
those of its own order, 1 to 4 (log 29). -/

/-- The reading of a numeric sensor (15 Table Power-6). -/
def sensorValue (s : State) (n : Nat) : Nat :=
  if n = 1 then pget s P.inputMv
  else if n = 2 then pget s P.inputPowerW
  else if n = 3 then pget s P.moduleEnergyMj / 1000 % 2 ^ 32
  else pget s (P.dieTempC (n - 4))

/-- GET_PDR_REPOSITORY_INFO: one record for each of the 29 sensors. -/
def execGetPdrRepositoryInfo (binding : Fin 2) (eid : Fin 256) (tag : Fin 8) (s : State) : Ans :=
  .next (mctpAnswer s binding.val eid.val tag.val 2 1 (fun s => (s, .success, [29])))

/-- GET_PDR: the record of a sensor, by its ID: the ID and whether it is numeric (0) or a state sensor (1). -/
def execGetPdr (binding : Fin 2) (eid : Fin 256) (tag : Fin 8) (handle : BitVec 32) (s : State) : Ans :=
  .next (mctpAnswer s binding.val eid.val tag.val 2 2 (fun s =>
    let n := handle.toNat
    if 1 ≤ n ∧ n ≤ 29 then (s, .success, [n, if n = 29 then 1 else 0]) else (s, .invalidData, [])))

/-- GET_SENSOR_READING: numeric sensors 1 to 28. -/
def execGetSensorReading (binding : Fin 2) (eid : Fin 256) (tag : Fin 8) (sensor : BitVec 16) (s : State) : Ans :=
  .next (mctpAnswer s binding.val eid.val tag.val 2 3 (fun s =>
    let n := sensor.toNat
    if 1 ≤ n ∧ n ≤ 28 then (s, .success, [sensorValue s n]) else (s, .invalidData, [])))

/-- GET_STATE_SENSOR_READINGS: sensor 29 reads the bits of ALERT_STATUS. -/
def execGetStateSensorReadings (binding : Fin 2) (eid : Fin 256) (tag : Fin 8) (sensor : BitVec 16) (s : State) : Ans :=
  .next (mctpAnswer s binding.val eid.val tag.val 2 4 (fun s =>
    if sensor.toNat = 29 then (s, .success, [pget s P.alertStatus]) else (s, .invalidData, [])))

/-- PLDM_UNSUPPORTED_CMD: every other command of type 2 or 5 is answered ERROR_UNSUPPORTED_PLDM_CMD. -/
def execPldmUnsupportedCmd (binding : Fin 2) (eid : Fin 256) (tag : Fin 8) (type5 : Bool) (cmd : Fin 256) (s : State) : Ans :=
  .next (mctpAnswer s binding.val eid.val tag.val (if type5 then 5 else 2) cmd.val (fun s => (s, .unsupported, [])))

end Sys2Proof.Machine
end

