-- ==== Sys2Proof/Machine/Security.lean ====
section
/-! DEFINITION. Firmware update, credentials, evidence, operator debug and the Wake's seals (18 R578 to R599). -/
namespace Sys2Proof.Machine

/-! ### Firmware update (18 R580, R581, Table Sec-3): states 0 IDLE, 1 LEARN, 2 READY, 3 DOWNLOAD, 4 VERIFY, 5 VERIFIED -/

def fwState (s : State) : Nat := pget s P.fwState

/-- The flash slot that does not run is given an image or erased. -/
def fwSlotPut (s : State) (x : FwSlot) : State :=
  { s with flash := if s.start.fwB then { s.flash with fwA := x } else { s.flash with fwB := x } }

/-- The update goes to a state at a command. -/
def fwGo (s : State) (st : Nat) : State := pset { s with fw := { s.fw with tbLast := s.tb } } P.fwState st

/-- An update is left: a slot that is not verified is erased (log 43). -/
def fwLeave (s : State) (st : Nat) : State :=
  let s1 := if fwState s = 3 ∨ fwState s = 4 then fwSlotPut s {} else s
  fwGo { s1 with fw := {} } st

/-- A PLDM type 5 command of an endpoint; `f` answers it in the states in which Table Sec-3 lists it. In IDLE any other update command is
answered NOT_IN_UPDATE_MODE; elsewhere the manual states no completion code (log 29). -/
def fwCommand (s : State) (binding eid tag cmd : Nat) (states : List Nat) (f : State → State × PldmCode × List Nat) : State :=
  mctpAnswer s binding eid tag 5 cmd (fun s =>
    if states.contains (fwState s) then f s
    else if fwState s = 0 then (s, .notInUpdateMode, [])
    else ({ s with fw := { s.fw with tbLast := s.tb } }, .unstated, []))

/-- QUERY_DEVICE_IDENTIFIERS. -/
def execQueryDeviceIdentifiers (binding : Fin 2) (eid : Fin 256) (tag : Fin 8) (s : State) : Ans :=
  .next (mctpAnswer s binding.val eid.val tag.val 5 0x01 (fun s => (s, .success, [Config.fwDeviceIds])))

/-- GET_FIRMWARE_PARAMETERS. -/
def execGetFirmwareParameters (binding : Fin 2) (eid : Fin 256) (tag : Fin 8) (s : State) : Ans :=
  .next (mctpAnswer s binding.val eid.val tag.val 5 0x02 (fun s => (s, .success, [Config.fwParameters s.flash.fwA.image s.flash.fwB.image])))

/-- REQUEST_UPDATE: IDLE to LEARN. -/
def execRequestUpdate (binding : Fin 2) (eid : Fin 256) (tag : Fin 8) (s : State) : Ans :=
  .next (fwCommand s binding.val eid.val tag.val 0x10 [0] (fun s => (fwGo s 1, .success, [])))

/-- PASS_COMPONENT_TABLE: one firmware component, identifier 0x0001; any other table is invalid data (log 29). -/
def execPassComponentTable (binding : Fin 2) (eid : Fin 256) (tag : Fin 8) (components : List U16) (s : State) : Ans :=
  .next (fwCommand s binding.val eid.val tag.val 0x13 [1] (fun s =>
    if components = [1] then (fwGo s 2, .success, []) else (fwGo s 1, .invalidData, [])))

/-- UPDATE_COMPONENT: the slot not running is erased and the download begins. -/
def execUpdateComponent (binding : Fin 2) (eid : Fin 256) (tag : Fin 8) (size : U32) (s : State) : Ans :=
  .next (fwCommand s binding.val eid.val tag.val 0x14 [2] (fun s =>
    if size.toNat ≤ 0x1000000 then (fwGo (fwSlotPut { s with fw := { size := size.toNat } } {}) 3, .success, [])
    else (fwGo s 2, .invalidData, [])))

/-- FIRMWARE_DATA_PUSH: at the expected offset the data is written, and the image's end begins verification. The whole image lies in the slot
from then on. -/
def execFirmwareDataPush (binding : Fin 2) (eid : Fin 256) (tag : Fin 8) (offset : U32) (data : List Byte) (s : State) : Ans :=
  .next (fwCommand s binding.val eid.val tag.val 0xF0 [3] (fun s =>
    let o := offset.toNat
    let have_ := s.fw.image.length
    if data.length ≤ 1014 ∧ o = have_ ∧ o + data.length ≤ s.fw.size then
      let img := s.fw.image ++ data
      let s1 := { s with fw := { s.fw with image := img } }
      if img.length = s.fw.size then
        (fwGo (fwSlotPut s1 { valid := (Config.fwCheck img).isSome, svn := ((Config.fwCheck img).getD 0).toNat, image := img }) 4, .success, [])
      else (fwGo s1 3, .success, [])
    else if data.length ≤ 1014 ∧ o + data.length ≤ have_ ∧ slice s.fw.image o data.length = data then (fwGo s 3, .success, [])
    else (fwGo s 3, .invalidData, [])))

/-- FW_VERIFY_DONE: the signature and the SVN pass, or the slot is erased (18 R578, R581). -/
def execFwVerifyDone (s : State) : Ans :=
  if fwState s ≠ 4 then .next s
  else
    let fail := fun (code : Nat) => pset (pset (fwSlotPut { s with fw := { s.fw with size := 0, image := [] } } {}) P.fwState 2) P.fwResult code
    match Config.fwCheck s.fw.image with
    | none => .next (fail 0x070D)
    | some v =>
      if v.toNat < pget s P.rollbackFloor then .next (fail 0x070E)
      else .next (pset (pset s P.fwState 5) P.fwResult 0)

/-- ACTIVATE_FIRMWARE: the slot is preferred, for the next start (18 R579). -/
def execActivateFirmware (binding : Fin 2) (eid : Fin 256) (tag : Fin 8) (s : State) : Ans :=
  .next (fwCommand s binding.val eid.val tag.val 0x1A [5] (fun s =>
    (fwGo { s with flash := { s.flash with preferB := !s.start.fwB }, fw := {} } 0, .success, [])))

/-- GET_STATUS: the state, the bytes written, and FW_RESULT. -/
def execGetStatus (binding : Fin 2) (eid : Fin 256) (tag : Fin 8) (s : State) : Ans :=
  .next (mctpAnswer s binding.val eid.val tag.val 5 0x1B (fun s =>
    (if fwState s = 0 then s else { s with fw := { s.fw with tbLast := s.tb } }, .success, [fwState s, s.fw.image.length, pget s P.fwResult])))

/-- CANCEL_UPDATE_COMPONENT: the component's download ends and its slot is erased; the update is READY again (PRESUMED from DSP0267, log 43). -/
def execCancelUpdateComponent (binding : Fin 2) (eid : Fin 256) (tag : Fin 8) (s : State) : Ans :=
  .next (fwCommand s binding.val eid.val tag.val 0x1C [3, 4, 5] (fun s => (fwLeave s 2, .success, [])))

/-- CANCEL_UPDATE: a partial slot is erased and the update is left. -/
def execCancelUpdate (binding : Fin 2) (eid : Fin 256) (tag : Fin 8) (s : State) : Ans :=
  .next (fwCommand s binding.val eid.val tag.val 0x1D [1, 2, 3, 4, 5] (fun s => (fwLeave s 0, .success, [])))

/-- FW_UPDATE_TIMEOUT: 120 s without a command. -/
def execFwUpdateTimeout (s : State) : Ans :=
  if fwState s ≠ 0 ∧ tbPast s.tb s.fw.tbLast 120000000000 then .next (fwLeave s 0) else .next s

/-- A write of FW_RAISE_FLOOR and its code (18 R580). -/
def floorWrite (s : State) (v : Nat) : State × Nat :=
  if v < pget s P.rollbackFloor ∨ v > pget s P.runningSvn then (s, 0x070F) else (counterPut s P.rollbackFloor v, 0)

/-- FW_RAISE_FLOOR, by the operator. -/
def execFwRaiseFloor (v : U32) (s : State) : Ans := if dictUp s then .next (floorWrite s v.toNat).1 else .next s

/-! ### Credentials (18 R582, Table Sec-4) -/

/-- Whether the fields of a credential record are as Table Sec-4 has them. -/
def credOk (r : Bytes) : Bool :=
  r.length == 17952 && field r 0 4 == 0x43524544 && decide (field r 4 1 < 16) && (field r 5 1 == 0 || field r 5 1 == 3)
    && (field r 6 1 == 1 || field r 6 1 == 2) && field r 7 1 == 0 && field r 0xC 4 == 0 && field r 0x698 40 == 0
    && (field r 6 1 != 2 || (slice r 0x50 0x648).all (· == 0))

/-- A credential record is decided: the flash budget comes first (13 Table Dict-14); CRED_RESULT takes the code, and a refusal is counted. A record whose wrapped key does not unwrap has no code of
its own: the code is a free nonzero value (log 41). -/
def credWrite (s : State) (fromVf : Bool) (r : Bytes) : State × Nat :=
  let refuse := fun (s : State) (c : Nat) => (pset (pinc s P.credFailures) P.credResult c, c)
  let seq := field r 8 4
  if (flashSpend s).isNone then (s, 0x0910)
  else if !credOk r then refuse s 0x0701
  else if fromVf then refuse s 0x0707
  else if !Config.sigOk (slice (idRecord s) 0xE0 48) (r.take 0x6C0) (slice r 0x6C0 0x3F60) then refuse s 0x0708
  else if slice r 0x10 64 ≠ identityDigest s then refuse s 0x0709
  else if (match s.flash.credSeq with | some a => decide (serialCmp a seq ≠ .newer) | none => false) = true then refuse s 0x070A
  else match flashSpend s with
    | none => (s, 0x0910)
    | some s1 =>
      let put := fun (c : Cred) => pset { s1 with flash := { s1.flash with
        creds := tset (fun _ => {}) s1.flash.creds (field r 4 1) c, credSeq := some seq } } P.credResult 0
      if field r 6 1 = 2 then (put {}, 0)
      else match Config.aesUnwrap (Config.kmac256 (Config.decap (slice r 0x50 1568)) (slice r 0x10 64) 32 (ascii "VZS2-CRED")) (slice r 0x670 40) with
        | none => refuse (freeNext s) (1 + (Config.freeWord s.freeCtr).toNat % 0xFFFF)
        | some key => (put { used := true, who := field r 5 1, seq := seq, key := key }, 0)

/-- CRED_INSTALL: a record with OP 1, or with no OP of the table. -/
def execCredInstall (fromVf : Bool) (record : List Byte) (s : State) : Ans :=
  if dictUp s ∧ field record 6 1 ≠ 2 then .next (credWrite s fromVf record).1 else .next s

/-- CRED_REVOKE: a record with OP 2. -/
def execCredRevoke (fromVf : Bool) (record : List Byte) (s : State) : Ans :=
  if dictUp s ∧ field record 6 1 = 2 then .next (credWrite s fromVf record).1 else .next s

/-! ### Evidence (18 R584, R585) -/

/-- The key under which the state keeps a session: session 0 of function f's mailbox at 65,536 + f. -/
def sessKey (r : SessionRef) : Nat := match r with | .id n => n.toNat | .kernel f => 65536 + f.val

/-- A session; session 0 of each mailbox is always open, for the kernel driver (13 R445). -/
def sessOf (s : State) (k : Nat) : Session :=
  (tfind s.sessions k).getD (if k ≥ 65536 then { st := .opened, src := .mailbox (k - 65536), who := .kernel } else {})
def sessPut (s : State) (k : Nat) (x : Session) : State := { s with sessions := tins (tdel s.sessions k) k x }

/-- The slots in a session's scope (13 R429). -/
def sessScope (s : State) (x : Session) (slot : Nat) : Bool :=
  match x.who, x.src with
  | .operator, _ => true
  | .auditor, _ => true
  | .kernel, .mailbox f => shellOwned s f slot
  | .tenant, .mailbox f => bitOf x.mask slot && shellOwned s f slot
  | _, _ => false

/-- A write of EVIDENCE_REQ in a session, and its code. -/
def evidenceWrite (s : State) (k : Nat) (b : Bytes) : State × Nat :=
  let x := sessOf s k
  let mask := field b 32 4
  if b.length ≠ 40 then (s, 0x090A)
  else if (List.range 32).any (fun i => bitOf mask i && !sessScope s x i) then (s, 0x0909)
  else if field b 36 4 ≠ 0 then (s, 0x090C)
  else if x.signing ∨ x.evidence ≠ [] ∨ s.sessions.countP (fun e => e.2.signing || e.2.evidence != []) ≥ 16 then (s, 0x070B)
  else (sessPut s k { x with signing := true, evNonce := b.take 32, evMask := mask, evResult := 0x070B }, 0)

/-- EVIDENCE_REQ, in a session that is open. -/
def execEvidenceReq (session : SessionRef) (data : List Byte) (s : State) : Ans :=
  let st := (sessOf s (sessKey session)).st
  if dictUp s ∧ st ≠ .closed ∧ st ≠ .challenged then .next (evidenceWrite s (sessKey session) data).1 else .next s

/-- RIG_DIGEST over the lists of a shell (18 Table Sec-5). -/
def rigDigest (sh : Shell) : Bytes :=
  Config.shake256 (sh.rig.seats.flatMap (fun i => leBytes 2 (seatIdent i)) ++ sh.rig.channels.flatMap (leBytes 1)
    ++ sh.rig.ports.flatMap (leBytes 1) ++ sh.rig.leases.flatMap (leBytes 32)) 64

/-- A shell section of evidence. -/
def shellSection (s : State) (slot : Nat) : Bytes :=
  let sh := shellOf s slot
  let c := chainOf s slot
  leBytes 1 slot ++ leBytes 1 (pget s (P.ownerFunction slot)) ++ leBytes 1 (levelOf s (pget s (P.ownerFunction slot)))
    ++ leBytes 1 (pget s (P.debugSeen slot) % 2 + (if sh.debugOpen then 2 else 0)) ++ leBytes 2 sh.rig.seats.length ++ leBytes 1 sh.rig.channels.length
    ++ leBytes 1 sh.rig.leases.length ++ leBytes 4 (sh.lastRigSeq.getD 0) ++ leBytes 4 (pget s (P.compositionCount slot)) ++ leBytes 8 sh.epoch
    ++ leBytes 8 c.lastIndex ++ rigDigest sh ++ padTo 64 c.head ++ padTo 64 (shellBinding s slot) ++ List.replicate 32 0

/-- The body of a session's evidence (18 Table Sec-5). -/
def evidenceBody (s : State) (x : Session) : Bytes :=
  let slots := (List.range 32).filter (bitOf x.evMask)
  leBytes 4 0x45564432 ++ leBytes 2 2 ++ leBytes 2 slots.length ++ leBytes 4 (0x750 + 256 * slots.length) ++ leBytes 4 0 ++ padTo 32 x.evNonce
    ++ leBytes 8 s.tb ++ leBytes 8 (pget s P.bootCounter) ++ padTo 64 (identityDigest s) ++ padTo 64 (coxFw s) ++ padTo 64 (tenderFw s)
    ++ leBytes 4 (pget s P.runningSvn) ++ leBytes 4 (pget s P.rollbackFloor) ++ leBytes 1 (pget s P.startKind) ++ leBytes 1 (pget s P.startCause)
    ++ leBytes 1 (pget s P.compositionMode) ++ leBytes 5 0 ++ List.replicate 32 0 ++ padTo 1568 Config.krEk ++ slots.flatMap (shellSection s)

/-- EVIDENCE_SIGNED: the body, taken at signing, and its signature under the identity key (key 0). -/
def execEvidenceSigned (session : SessionRef) (s : State) : Ans :=
  let k := sessKey session
  let x := sessOf s k
  if x.signing then
    let body := evidenceBody s x
    .next (pinc (sessPut s k { x with signing := false, evResult := 0, evidence := body ++ padTo 16224 (Config.sign 0 body) }) P.evidenceSigned)
  else .next s

/-! ### Operator debug (18 R590 to R592, Table Sec-8) -/

/-- The DEBUG record of a session that opens or closes; the manual lists no digests for it, and they are zero (18 R596, log 44). -/
def debugWake (s : State) (slot : Nat) : WakeRec := { kind := 5, tb := s.tb, word := wakeWord s slot 5 0 s.tb 0 0 [] [] [] [] 0 }

/-- The seats of a shell halt after their instruction: a halt ends a reservation and holds the watchdog (05 R189, 07 R246). -/
def seatsHalt (s : State) (slot : Nat) : State :=
  (shellOf s slot).rig.seats.foldl (fun s i =>
    let t := seatOf s i
    if t.mode = .run then seatPut s i { t with mode := .halted, core := coreHalt s t.core } else s) s

/-- They run on. -/
def seatsResume (s : State) (slot : Nat) : State :=
  (shellOf s slot).rig.seats.foldl (fun s i =>
    let t := seatOf s i
    if t.mode = .halted then seatPut s i { t with mode := .run, core := coreResume s t.core } else s) s

/-- A write of DEBUG_CTL and its code (18 Table Sec-8). DEBUG_STATE: 0 CLOSED, 1 OPEN, 2 HALTED. -/
def debugWrite (s : State) (slot v : Nat) : State × Nat :=
  let sh := shellOf s slot
  let st := pget s (P.debugState slot)
  if sh.st = .free then (s, 0x070C)
  else if v = 1 ∧ st = 0 then
    let s1 := wkeysErase (pset (pset (shellPut s slot { sh with debugOpen := true }) (P.debugSeen slot) 1) (P.debugState slot) 1) slot
    (pinc (wakeAppend s1 slot (debugWake s1 slot)) P.debugOpens, 0)
  else if v = 2 ∧ st = 1 then (pset (seatsHalt s slot) (P.debugState slot) 2, 0)
  else if v = 3 ∧ st = 2 then (pset (seatsResume s slot) (P.debugState slot) 1, 0)
  else if v = 4 ∧ (st = 1 ∨ st = 2) then
    let s1 := seatsResume (pset (shellPut s slot { sh with debugOpen := false }) (P.debugState slot) 0) slot
    (wakeAppend s1 slot (debugWake s1 slot), 0)
  else (s, 0x070C)

/-- DEBUG_CTL := 1. -/
def execDebugCtlOpen (slot : Slot) (s : State) : Ans := if dictUp s then .next (debugWrite s slot.val 1).1 else .next s
/-- DEBUG_CTL := 2. -/
def execDebugCtlHalt (slot : Slot) (s : State) : Ans := if dictUp s then .next (debugWrite s slot.val 2).1 else .next s
/-- DEBUG_CTL := 3. -/
def execDebugCtlResume (slot : Slot) (s : State) : Ans := if dictUp s then .next (debugWrite s slot.val 3).1 else .next s
/-- DEBUG_CTL := 4. -/
def execDebugCtlClose (slot : Slot) (s : State) : Ans := if dictUp s then .next (debugWrite s slot.val 4).1 else .next s

/-- What DBG_ADDR names: a span of a logical seat's scratchpad, of its pegs, or of a channel that the shell holds; how far the span reaches. -/
inductive DbgTarget where
  | scratch (l off room : Nat)
  | pegs (l first room : Nat)
  | chan (a room : Nat)
  | none
  deriving DecidableEq, Repr

/-- The target of an address for the debug session of a slot (18 R591). -/
def dbgTarget (s : State) (slot a : Nat) : DbgTarget :=
  let sh := shellOf s slot
  let o := a - (0x300000000000 + slot * 0x2000000000)
  let l := o / 0x200000
  let off := o % 0x200000
  if a < 0x3000000000 then
    if sh.rig.channels.contains (a / 0x80000000) ∧ a % 0x80000000 < chanBytes then .chan a (chanBytes - a % 0x80000000) else .none
  else if a < 0x300000000000 + slot * 0x2000000000 ∨ l ≥ shellSeats sh then .none
  else if off < scratchBytes then .scratch l off (scratchBytes - off)
  else if 0x1C0000 ≤ off ∧ off < 0x1C0180 ∧ off % 8 = 0 then .pegs l ((off - 0x1C0000) / 8) (0x1C0180 - off)
  else .none

/-- A peg of a logical seat as MD reads it: while the seat is in HOLD, its source's peg under the peg writes held for it (02 R69); none where the
read is refused. -/
def lseatPeg (s : State) (slot l p : Nat) : Option Bool :=
  let sh := shellOf s slot
  match placeWindow s 2352 slot l (0x1C0000 + 8 * p) 8 with
  | .held _ _ _ =>
    let now := match sh.rig.seats[l]? with | some seat => bitOf (seatOf s seat).pegs p | none => false
    some (sh.held.foldl (fun v k => match k.op with
      | .peg _ x => if k.lseat = l ∧ k.off = 0x1C0000 + 8 * p then x else v
      | _ => v) now)
  | q =>
    let (st, b, _) := placeRead s q 8 {}
    if st = stOk ∧ placeAnswers s 2352 q then some (bitOf (leNat b) 0) else none

/-- A debug read that an island refuses is never data: it ends as an address out of range (01 R39; DESIGN CHOICE, log 45). -/
def dbgAnswer (r : Option Bytes) : Bytes × Nat := match r with | some b => (b, 0) | none => ([], 0x0701)

/-- A read of DBG_DATA: up to 4,096 bytes, as far as the target reaches; an address that names nothing is out of range (log 45). -/
def dbgRead (s : State) (slot : Nat) : Bytes × Nat :=
  if pget s (P.debugState slot) = 0 then ([], 0x070C)
  else match dbgTarget s slot (pget s (P.dbgAddr slot)) with
    | .scratch l off room =>
      let w := (shellOf s slot).windows
      -- the bytes of a leased seat come from its lender: they are free (log 45)
      if (shellOf s slot).rig.seats.length ≤ l then ((List.range (min 4096 room)).map (fun i => Config.freeByte (s.freeCtr * 4096 + i)), 0)
      else dbgAnswer (match lseatRead s slot w l off (min 4096 room) with
        | some (st, b) => if st = stOk then some b else none
        | none => some (lseatBytes s slot w l off (min 4096 room)))
    | .pegs l first room =>
      dbgAnswer ((List.range (room / 8)).foldr (fun i acc => match lseatPeg s slot l (first + i), acc with
        | some v, some b => some (leBytes 8 (if v then 1 else 0) ++ b)
        | _, _ => none) (some []))
    | .chan a room =>
      let p := placeChannel s 2352 (some slot) a (min 4096 room)
      let (st, b, _) := placeRead s p (min 4096 room) {}
      dbgAnswer (if st = stOk ∧ placeAnswers s 2352 p then some b else none)
    | .none => ([], 0x0701)

/-- A write of DBG_DATA and its code; it is posted: one that is refused where it arrives is discarded and counted there (06 R214). -/
def dbgWrite (s : State) (slot : Nat) (b : Bytes) : State × Nat :=
  if pget s (P.debugState slot) = 0 then (s, 0x070C)
  else match dbgTarget s slot (pget s (P.dbgAddr slot)) with
    | .scratch l off room => if b.length ≤ room then (lseatWrite s slot none .debug l off b, 0) else (s, 0x0701)
    | .pegs l first room =>
      if b.length ≤ room ∧ b.length % 8 = 0 then
        ((List.range (b.length / 8)).foldl (fun s i => lseatPegSet s slot none l (first + i) (bitOf (field b (8 * i) 8) 0)) s, 0)
      else (s, 0x0701)
    | .chan a room =>
      if b.length ≤ room then
        let (s1, st) := placeWrite s (placeChannel s 2352 (some slot) a b.length) b {}
        (countRefused s1 st, 0)
      else (s, 0x0701)
    | .none => (s, 0x0701)

/-- What a debug read of a channel meets there (08 R268, log 45). -/
def dbgMeet (s : State) (slot : Nat) : State :=
  match dbgTarget s slot (pget s (P.dbgAddr slot)) with
  | .chan a room => chanMeet s (placeChannel s 2352 (some slot) a (min 4096 room)) (min 4096 room) {}
  | _ => s

/-- DBG_DATA_READ: the operator's session takes a snapshot of the value (13 R450). -/
def execDbgDataRead (session : U16) (slot : Slot) (s : State) : Ans :=
  let x := sessOf s session.toNat
  let (b, code) := dbgRead s slot.val
  if dictUp s ∧ (x.st = .opened ∨ x.st = .writing ∨ x.st = .reading) ∧ x.who = .operator ∧ pget s (P.debugState slot.val) ≠ 0 then
    let s1 := dbgMeet s slot.val
    if code = 0 then
      .next (sessPut (freeNext s1) session.toNat { x with
        st := if b.length > 992 then .reading else .opened, rKey := P.dbgData slot.val, snap := b, tbLast := s.tb, wBytes := [] })
    else .next s1
  else .next s

/-- DBG_DATA_WRITE of 1 to 4,096 bytes. -/
def execDbgDataWrite (slot : Slot) (data : List Byte) (s : State) : Ans :=
  if dictUp s ∧ 1 ≤ data.length ∧ data.length ≤ 4096 then .next (dbgWrite s slot.val data).1 else .next s

/-! ### The Wake: folds, exports and seals (18 R593 to R599) -/

/-- An entry goes to a ring of the host, as a request of PF0; none when the ring is full or absent, or nothing leaves (18 R597). -/
def ringExport (s : State) (base log2 head tail bytes : Nat) (data : Bytes) : Option State :=
  let b := pget s base
  let t := pget s tail
  let addr := b + bytes * (t % 2 ^ pget s log2)
  if b = 0 ∨ serialDist (pget s head) t ≥ 2 ^ pget s log2 ∨ s.start.entry ∨ s.start.releasesStopped ∨ (hostWriteFails s 0 addr).isSome then none
  else some (pset (emit s (.hostWrite addr data)) tail ((t + 1) % 2 ^ 32))

/-- A record or seal is exported, or counted in its shell's WAKE_UNEXPORTED. -/
def wakeExport (s : State) (slot : Nat) (sealing : Bool) (data : Bytes) : State :=
  let r := if sealing then ringExport s P.sealRingBase P.sealRingLog2 P.sealRingHead P.sealRingTail 17408 (padTo 17408 data)
    else ringExport s P.wakeRingBase P.wakeRingLog2 P.wakeRingHead P.wakeRingTail 256 data
  r.getD (pinc s (P.wakeUnexported slot))

/-- Whether a slot's seal is due: 65,536 records or, at the timer, 1,000 ms since the previous one; a FREE slot once after its last record
(18 R598). -/
def sealDue (s : State) (slot : Nat) (timer : Bool) : Bool :=
  let w := wakeOf s slot
  let n := (chainOf s slot).lastIndex - w.sealPrev
  !w.sealing && (if (shellOf s slot).st = .free then w.pending == [] && decide (n > 0)
    else decide (n ≥ 65536) || (timer && tbPast s.tb w.tbSeal 1000000000))

/-- A seal is triggered: it covers the chain as it stands. -/
def sealTrigger (s : State) (slot : Nat) (timer : Bool) : State :=
  if sealDue s slot timer then
    let w := wakeOf s slot
    wakePut s slot { w with sealing := true, sealAt := chainOf s slot, sealCount := pget s (P.wakeUnexported slot), tbSeal := s.tb }
  else s

/-- WAKE_FOLD: the next pending record of a slot is folded into its chain and written to the record ring. -/
def execWakeFold (slot : Slot) (s : State) : Ans :=
  match wakeFirst (wakeOf s slot.val).pending with
  | none => .next s
  | some r =>
    let i := (chainOf s slot.val).lastIndex + 1
    let s1 := wakeFoldOne s slot.val
    .next (sealTrigger (wakeExport s1 slot.val false (leBytes 256 (r.word + i * 2 ^ 1952))) slot.val false)

/-- SEAL_TIMER: 1,000 ms after its previous seal, a slot that is not FREE is sealed. -/
def execSealTimer (slot : Slot) (s : State) : Ans := if s.start.msf then .next (sealTrigger s slot.val true) else .next s

/-- The body of a seal (18 Table Sec-10): the records and seals unexported since the previous one are what the count gained. -/
def sealBody (s : State) (slot : Nat) : Bytes :=
  let w := wakeOf s slot
  let un := if w.sealCount < w.seenCount then w.sealCount else w.sealCount - w.seenCount
  leBytes 256 (pack [(2016, 0x57414B45), (2000, 2), (1995, slot), (1920, w.sealAt.lastIndex), (1856, w.sealPrev), (1792, w.tbSeal % 2 ^ 64),
    (1728, pget s P.bootCounter), (1696, un), (1152, leNat (padTo 64 w.sealAt.head)), (640, leNat (padTo 64 (identityDigest s))),
    (128, leNat (padTo 64 (Config.shake256 (coxFw s ++ tenderFw s) 64)))])

/-- The newest seal of a slot goes to flash when it is 300 s newer than the stored one, within the flash budget (18 R599). A stored seal of an
earlier power-up is older whatever its time (log 46). -/
def sealStore (s : State) (slot : Nat) (c : WakeChain) (tbS : Nat) (b : Bytes) : State :=
  let due := match tfind s.flash.seals slot with
    | none => true
    | some (_, t, _) => tbPast tbS t 300000000000 || decide (tbS < t)
  if due then match flashSpend s with
    | none => s
    | some s1 => { s1 with flash := { s1.flash with seals := tins (tdel s1.flash.seals slot) slot (c, tbS, b) } }
  else s

/-- SEAL_SIGNED: the seal is signed under the Wake key (key 1), exported, and kept. -/
def execSealSigned (slot : Slot) (s : State) : Ans :=
  let w := wakeOf s slot.val
  if w.sealing then
    let body := sealBody s slot.val
    let b := body ++ padTo 17088 (Config.sign 1 body)
    let s1 := pinc (sealStore (wakeExport s slot.val true b) slot.val w.sealAt w.tbSeal b) P.sealsSigned
    let s2 := wakePut s1 slot.val { w with sealing := false, sealPrev := w.sealAt.lastIndex, seenCount := w.sealCount }
    .next (sealTrigger s2 slot.val false)
  else .next s

end Sys2Proof.Machine
end

