-- ==== Sys2Proof/Machine/Links.lean ====
section
/-! DEFINITION. Ghengo ports: training, HELLO, replay, credits, and what leaving UP does to the requests over a port (14 R462 to R473,
18 R576, R577). -/
namespace Sys2Proof.Machine

/-! ### Bindings of a port (14 R473) -/

/-- A channel whose peer has gone (14 R488). -/
def channelGone (s : State) (n : Nat) : State :=
  let c := gchanOf s n
  if c.st = .opened then gchanPut s n { c with st := .peerGone } else s

/-- Every binding that used a port ends as though its old peer had left: leases on both sides, channels, and keys of which the peer is the
owner are resolved (14 R473). -/
def bindingsEnd (s : State) (p old : Nat) : State :=
  let lost := (s.borrowed.filter (fun l => leaseLender l.record == old && (leasePorts l.record).contains p)).map (·.record)
  let s1 := lost.foldl leaseLose s
  let lent := (s1.lent.filter (fun l => l.borrower == old && l.ports.contains p)).map (·.id)
  let s2 := lent.foldl (fun s i => leaseEnd s i 2 none) s1
  let chans := (s2.gchans.filter (fun c => c.2.peer == old && (shellOf s2 c.2.shell).rig.ports.contains p)).map (·.1)
  let s3 := chans.foldl channelGone s2
  ((s3.bhHomes.filter (fun h => h.member == old)).map (·.key)).foldl bhResolve s3

/-! ### Requests over a port (14 R469 to R471) -/

/-- The port an access of a seat over Ghengo travels by (14 R469). -/
def ghPortFor (s : State) (seat ga : Nat) : Option Nat :=
  match place s seat (seatShell s seat) ga 1 with
  | .far port _ _ _ _ _ _ => some port
  | _ => none

/-- The core of a seat is answered TIMEOUT, and its response is still to come (14 R470). -/
def ghAnswer (s : State) (seat : Nat) : State :=
  match waitAddr (seatOf s seat).core.wait with
  | some (va, ga, cause) => coreStatus { s with ghLate := s.ghLate + 1 } seat stTimeout va ga cause
  | none => s

/-- The stores of a seat that wait for their acknowledgement over Ghengo, of those that `f` names, are answered TIMEOUT by the link
block; each answer reaches the core by its own STORE_ACK, in order (14 R471, R488, 06 R214). -/
def storesTimeout (s : State) (seat : Nat) (f : PendStore → Bool) : State :=
  let c := (seatOf s seat).core
  corePut { s with ghLate := s.ghLate + c.stores.countP (fun x => x.outside && f x) } seat
    { c with stores := c.stores.map (fun x => if f x then { x with status := stTimeout, outside := false, waits := false } else x) }

/-- Whether a store left over a port (14 R469). -/
def sentBy (p : Nat) (x : PendStore) : Bool := match x.gh with | some (q, _, _) => q == p | none => false

/-- So are its transfers. -/
def xfersTimeout (s : State) (seat : Nat) (f : Nat → Bool) : State :=
  let n := (seatOf s seat).xfers.countP (fun x => x.st == .active && (match x.waits with | some (_, _, ga) => f ga | none => false))
  xferCxlStatus { s with ghLate := s.ghLate + n } seat stTimeout f

/-- Whether a packet in a link block is a posted write. -/
def ghPosted (w : GhWait) : Bool := match w.out with | .ghPacket _ _ _ _ _ _ _ op _ _ _ => op == 1 || op == 3 | _ => false

/-- An advance of MD over a port is answered TIMEOUT: its context is lost (10 R356, 14 R470). -/
def advTimeout (s : State) (a : AdvFar) : State :=
  ctxLoss { s with advFar := s.advFar.erase a, ghLate := s.ghLate + 1 } a.ctx none false

/-- A forwarded write whose acknowledgement is lost with its port is answered TIMEOUT, unless its sender is behind the same port (14 R471, R493). -/
def fwdTimeout (s : State) (f : BhFwd) : State :=
  let s1 := { s with bhFwd := s.bhFwd.erase f }
  match f.back with
  | .ghengo q _ _ _ _ => if q = f.port then s1 else netAnswer s1 f.back stTimeout []
  | _ => s1

/-- The link block answers TIMEOUT to every request in flight over a port or waiting for it, and discards and counts the posted writes: those
that wait, and `discarded` in flight (14 R471). -/
def ghClose (s : State) (p discarded : Nat) : State :=
  if (portOf s p).st ≠ 3 then s
  else
    let mine := fun (i ga : Nat) => ghPortFor s i ga == some p
    let waits := (s.seats.filter (fun e => match waitAddr e.2.core.wait with | some (_, ga, _) => mine e.1 ga | none => false)).map (·.1)
    let n := discarded + s.ghWaiting.countP (fun w => w.port == p && ghPosted w)
    let s1 := { portPut s p { portOf s p with tbDown := s.tb } with ghWaiting := s.ghWaiting.filter (fun w => w.port != p) }
    let s2 := (s.seats.map (·.1)).foldl (fun a i => xfersTimeout (storesTimeout a i (sentBy p)) i (mine i)) s1
    let s3 := waits.foldl ghAnswer (pset s2 P.ghTimeouts (satAdd32 (pget s2 P.ghTimeouts) n))
    let s4 := (s3.advFar.filter (fun a => a.port == p)).foldl advTimeout s3
    (s4.bhFwd.filter (fun f => f.port == p)).foldl fwdTimeout s4

/-! ### States (14 R472) -/

/-- Causes recorded on the way to RECOVERING: the spec names the cases of R471 to R473 and gives them no numbers (log 27). -/
def ghCauseTraining : Nat := 1
def ghCauseHello : Nat := 2
def ghCauseReplay : Nat := 3
def ghCauseProtocol : Nat := 4
def ghCauseFec : Nat := 5
def ghCauseCredit : Nat := 6

/-- A port enters RECOVERING: one that leaves UP is closed, and the failure filed (14 R471, Table Ghengo-5, 17 Table Safety-5). -/
def ghRecover (s : State) (p cause discarded : Nat) : State :=
  let s1 := ghClose s p discarded
  let s2 := if (portOf s p).st = 3 then fileError s1 false { kind := 0x04, mechanism := 7, scope := 0, island := 2336 + p / 2, detail0 := p } else s1
  let g := portOf s2 p
  portPut s2 p { g with st := 4, tbEntered := s.tb, left := true, cause := cause, peer := 0
                        entries := s.tb :: g.entries.filter (fun t => !tbPast s.tb t 3600000000000) }

/-- Whether the ports have come to their stage of the start. -/
def ghRuns (s : State) : Bool := s.start.islandsUp && decide (3 ≤ pget s P.startStage)

/-- A port's enable bit is written, and what that begins or ends (14 Table Ghengo-5). -/
def ghEnable (s : State) (p : Nat) (v : Bool) (discarded : Nat) : State :=
  let s1 := pset s P.ghPortEnable (setBitOf (pget s P.ghPortEnable) p v)
  let g := portOf s1 p
  if v then (if g.st = 0 ∧ ghRuns s1 then ghTrain s1 p else s1)
  else if g.st = 0 then s1
  else
    let s2 := ghClose s1 p discarded
    portPut s2 p { portOf s2 p with st := 0, peer := 0, left := true }

def execGhPortEnableSet (port : GhPortId) (s : State) : Ans := if fullUp s then .next (ghEnable s port.val true 0) else .next s
def execGhPortEnableClear (port : GhPortId) (discarded : U32) (s : State) : Ans :=
  if fullUp s then .next (ghEnable s port.val false discarded.toNat) else .next s

/-- GH_PORT_MAINT written: retraining of a FAILED port; the code goes to GH_PORT_MAINT_RESULT (14 R472, Table Ghengo-19). -/
def ghMaint (s : State) (v : Nat) : State :=
  if bitsOf v 15 8 ≠ 1 ∨ v % 256 > 15 then pset s P.ghPortMaintResult 0x0501
  else if (portOf s (v % 256)).st ≠ 5 then pset s P.ghPortMaintResult 0x0513
  else ghTrain (portPut (pset s P.ghPortMaintResult 0) (v % 256) { portOf s (v % 256) with entries := [] }) (v % 256)

def execGhPortMaintRetrain (port : GhPortId) (s : State) : Ans := if fullUp s then .next (ghMaint s (256 + port.val)) else .next s

/-! ### HELLO (14 R473, 18 R576) -/

/-- A fresh 32-byte nonce: random bytes are free values (log 1). -/
def freshNonce (s : State) : Bytes × State :=
  ((List.range 4).flatMap (fun i => leBytes 8 (Config.freeWord (s.freeCtr + i)).toNat), { s with freeCtr := s.freeCtr + 4 })

/-- S of a port and a peer's HELLO: keys toward the higher module ID, toward the lower, and the confirmation key (18 R576). -/
def helloSecret (s : State) (p peer : Nat) (nonce : Bytes) : Bytes :=
  let own := ownModule s
  let mine := (portOf s p).nonce
  let msg := if own < peer then leBytes 2 own ++ leBytes 2 peer ++ mine ++ nonce else leBytes 2 peer ++ leBytes 2 own ++ nonce ++ mine
  Config.kmac256 Config.fleetKey msg 96 (ascii "VZS2-GHENGO")

/-- The key confirmation of a side under S (18 R576). -/
def helloConfirm (secret : Bytes) (id port : Nat) (nonce : Bytes) : Bytes :=
  Config.kmac256 (secret.drop 64) (leBytes 2 id ++ leBytes 1 port ++ nonce) 16 (ascii "VZS2-HELLO")

/-- The receive buffers of Table Ghengo-4 in units of 64 bytes, which a HELLO advertises (14 R466). -/
def ghBuffers : List Nat := [512, 512, 256, 64, 256, 64]

/-- GH_TRAINING_DONE: lanes trained, FEC locked, the round trip within its limit: HELLO goes out (14 R468, Table Ghengo-5). The
port's coefficients are retained (16 R527). Its key confirmation needs the peer's nonce and follows the peer's HELLO (log 47). -/
def execGhTrainingDone (port : GhPortId) (s : State) : Ans :=
  let p := port.val
  let g := portOf s p
  if g.st ≠ 1 then .next s
  else
    let (n, s1) := freshNonce s
    let s2 := portPut { s1 with retained := { s1.retained with ghTrained := sAdd s1.retained.ghTrained p } } p
      { g with st := 2, tbEntered := s.tb, nonce := n }
    .next (emit s2 (.ghengo p 1 ([ownModule s, p, g.fec] ++ ghBuffers ++ n.map (·.toNat))))

/-- GH_TRAINING_TIMEOUT: not trained within 2 s (14 Table Ghengo-5). -/
def execGhTrainingTimeout (port : GhPortId) (s : State) : Ans :=
  let g := portOf s port.val
  if g.st = 1 ∧ tbPast s.tb g.tbEntered 2000000000 then .next (ghRecover s port.val ghCauseTraining 0) else .next s

/-- HELLO_TIMEOUT: no HELLO within 100 ms (14 Table Ghengo-5). -/
def execHelloTimeout (port : GhPortId) (s : State) : Ans :=
  let g := portOf s port.val
  if g.st = 2 ∧ tbPast s.tb g.tbEntered 100000000 then .next (ghRecover s port.val ghCauseHello 0) else .next s

/-- Whether a HELLO passes R473. -/
def helloPasses (s : State) (p id farPort : Nat) (fec : Nat) (nonce confirm : Bytes) : Bool :=
  let own := ownModule s
  own != 0 && own != 0xFFFF && id != 0 && id != 0xFFFF && id != own && fec == (portOf s p).fec
    && helloConfirm (helloSecret s p id nonce) id farPort nonce == confirm

/-- HELLO_RECEIVE: the peer's HELLO, with its key confirmation, is checked: the port is UP with its keys and the advertised credits, or
recovers. A peer other than before ends the bindings of the old one (14 R466, R473, 18 R576). -/
def execHelloReceive (port : GhPortId) (id : U16) (farPort fec : U8) (credits : List U16) (nonce : BitVec 256) (confirm : BitVec 128) (s : State) : Ans :=
  let p := port.val
  let g := portOf s p
  let n := leBytes 32 nonce.toNat
  if g.st ≠ 2 then .next s
  else if !helloPasses s p id.toNat farPort.toNat fec.toNat n (leBytes 16 confirm.toNat) then .next (ghRecover s p ghCauseHello 0)
  else
    let secret := helloSecret s p id.toNat n
    let s1 := match g.lastPeer with
      | some o => if o = id.toNat then s else bindingsEnd s p o
      | none => s
    let s2 := portPut s1 p { portOf s1 p with
      st := 3, tbEntered := s.tb, left := true, peer := id.toNat, lastPeer := some id.toNat, farPort := farPort.toNat, key := secret.take 64
      credit := (List.range 6).map (fun i => (credits.getD i 0).toNat), tbZero := List.replicate 6 s.tb, rxSeq := 0, ackSeq := 0, rxReplays := 0, txReplays := 0, replays := [], group := 0 }
    .next (emit s2 (.ghengo p 2 ((helloConfirm secret (ownModule s) p g.nonce).map (·.toNat))))

/-- GH_RECOVERY_TIMER: in RECOVERING, the fourth entry within an hour fails the port; otherwise 100 ms retrain it (14 Table Ghengo-5). -/
def execGhRecoveryTimer (port : GhPortId) (s : State) : Ans :=
  let p := port.val
  let g := portOf s p
  if g.st ≠ 4 then .next s
  else if 4 ≤ (g.entries.filter (fun t => !tbPast s.tb t 3600000000000)).length then
    .next (pinc (portPut s p { g with st := 5, tbEntered := s.tb }) (P.ghPortFailures p))
  else if tbPast s.tb g.tbEntered 100000000 then .next (ghTrain s p)
  else .next s

/-! ### Replay and credits (14 R466, R468, R471) -/

/-- A replay on a port is counted, `nth` being the replays in a row of one flit; a fourth, or more than 1,000 within 1 ms, takes the port out
of UP (14 R468, R471). Both ends of a replay count it (log 48). -/
def ghReplay (s : State) (p nth discarded : Nat) : State :=
  let g := portOf s p
  let l := s.tb :: g.replays.filter (fun t => !tbPast s.tb t 1000000)
  let s1 := pinc (portPut s p { g with replays := l }) (P.ghReplays p)
  if 4 ≤ nth ∨ 1000 < l.length then ghRecover s1 p ghCauseReplay discarded else s1

/-- The receiver asks for a replay from the flit after the last one in order. -/
def ghNak (s : State) (p discarded : Nat) : State :=
  let g := portOf s p
  let s1 := emit (portPut s p { g with rxReplays := g.rxReplays + 1 }) (.ghengo p 3 [g.rxSeq])
  ghReplay s1 p (g.rxReplays + 1) discarded

/-- GH_FLIT_ERROR: a CRC error or a gap in SEQ (14 R468). -/
def execGhFlitError (port : GhPortId) (discarded : U32) (s : State) : Ans :=
  if (portOf s port.val).st = 3 then .next (ghNak s port.val discarded.toNat) else .next s

/-- GH_FEC_LOCK_LOSS (14 R471). -/
def execGhFecLockLoss (port : GhPortId) (discarded : U32) (s : State) : Ans :=
  if (portOf s port.val).st = 3 then .next (ghRecover s port.val ghCauseFec discarded.toNat) else .next s

/-- Whether a virtual channel of a port has had no transmit credit for GH_CREDIT_STALL_MS while packets wait for it (14 R471). -/
def ghStalled (s : State) (p gv : Nat) : Bool :=
  let after := pget s P.ghCreditStallMs * 1000000
  (portOf s p).credit.getD gv 0 == 0 && tbPast s.tb ((portOf s p).tbZero.getD gv 0) after
    && s.ghWaiting.any (fun w => w.port == p && w.gv == gv && tbPast s.tb w.tb after)

/-- GH_CREDIT_STALL (14 R471). -/
def execGhCreditStall (port : GhPortId) (gv : Fin 6) (discarded : U32) (s : State) : Ans :=
  if (portOf s port.val).st = 3 ∧ ghStalled s port.val gv.val then .next (ghRecover (pinc s P.ghCreditStalls) port.val (ghCauseCredit + 16 * gv.val) discarded.toNat) else .next s

/-- The part of a flit header that speaks of the other direction: ACK_SEQ frees the replay buffer up to it, NAK starts a replay from the flit
after it, and credit is returned, by which waiting packets leave (14 Table Ghengo-2, R466, R468). -/
def flitBack (s : State) (p h discarded : Nat) : State :=
  let g := portOf s p
  let vc := bitsOf h 38 36
  let g1 := { g with
    credit := if vc < 6 then g.credit.set vc (g.credit.getD vc 0 + bitsOf h 35 28) else g.credit
    ackSeq := bitsOf h 51 40, txReplays := if bitsOf h 51 40 = g.ackSeq then g.txReplays else 0 }
  if bitOf h 39 then
    let s1 := emit (ghFlush (portPut s p { g1 with txReplays := g1.txReplays + 1 })) (.ghengo p 4 [(bitsOf h 51 40 + 1) % 4096])
    ghReplay s1 p (g1.txReplays + 1) discarded
  else ghFlush (portPut s p g1)

/-- GH_FLIT_HEADER_RECEIVE: the header of an intact flit: a data or control flit is the next in order, or leaves a gap that asks for a replay;
an idle flit repeats the last SEQ. A reserved kind, and reserved bits, are not acted on (14 Table Ghengo-2, R468). -/
def execGhFlitHeaderReceive (port : GhPortId) (header : U64) (discarded : U32) (s : State) : Ans :=
  let p := port.val
  let h := header.toNat
  let g := portOf s p
  if g.st ≠ 3 ∨ bitsOf h 27 26 = 3 ∨ bitsOf h 25 0 ≠ 0 then .next s
  else
    let seq := bitsOf h 63 52
    let idle := bitsOf h 27 26 = 1
    if (idle ∧ seq = g.rxSeq) ∨ (!idle ∧ seq = (g.rxSeq + 1) % 4096) then
      .next (flitBack (portPut s p { g with rxSeq := seq, rxReplays := if idle then g.rxReplays else 0 }) p h discarded.toNat)
    else
      let s1 := flitBack s p h discarded.toNat
      .next (if (portOf s1 p).st = 3 then ghNak s1 p discarded.toNat else s1)

/-- GH_TAG_FLIT_RECEIVE: the tag of a group verifies and its packets are delivered, each by a command of its own; a failed tag is a protocol
error, and nothing of the group is delivered (18 R577). -/
def execGhTagFlitReceive (port : GhPortId) (ok : Bool) (discarded : U32) (s : State) : Ans :=
  let p := port.val
  let g := portOf s p
  if g.st ≠ 3 then .next s
  else if ok then .next (portPut s p { g with group := g.group + 1 })
  else .next (ghRecover (pinc s P.linkAuthFailures) p ghCauseProtocol discarded.toNat)

/-! ### Timeouts (14 R470) -/

/-- A request over Ghengo is answered TIMEOUT by the link block, and its response is still to come. -/
def ghTimeout (s : State) : State := { pinc s P.ghTimeouts with ghLate := s.ghLate + 1 }

/-- GH_REQUEST_TIMEOUT: a request of a seat over Ghengo has had no response for GH_REQ_TIMEOUT_US: its core's, its oldest store, or a contribution
or an access of a transfer; or an advance of MD, which no seat names (14 R470). -/
def execGhRequestTimeout (seat : SeatId) (what : NetReq) (s : State) : Ans :=
  let i := seat.val
  let t := seatOf s i
  let after := pget s P.ghReqTimeoutUs * 1000
  match what with
  | .core => match waitAddr t.core.wait with
    | some (_, ga, _) => if overGhengo s ga ∧ tbPast s.tb t.core.tbWait after then .next (ghAnswer (pinc s P.ghTimeouts) i) else .next s
    | none => .next s
  | .store => match t.core.stores with
    | x :: rest =>
      if overGhengo s x.ga ∧ tbPast s.tb x.tb after then
        let s1 := ghFlush (corePut (ghTimeout s) i { t.core with stores := rest })
        .next (if t.mode = .run then coreStatus s1 i stTimeout x.va x.ga 7 else catchSettle s1 i)
      else .next s
    | [] => .next s
  | .transfer ticket => match xferFind s i ticket.toNat, xEnv s i with
    | some x, some env =>
      if x.st ≠ .active ∨ !tbPast s.tb x.tbSent after then .next s
      else if x.unacked > 0 then .next (xferFail (ghTimeout (redForget s i x.ticket)) i env x (0x20 + stTimeout))
      else match x.waits with
      | some (acc, va, ga) => if overGhengo s ga then .next (xferStop (ghTimeout s) i env x x.cursor (.status stTimeout acc va ga)) else .next s
      | none => .next s
    | _, _ => .next s
  | .advance tag => match s.advFar.find? (fun a => a.tag == tag.toNat) with
    | some a => .next (if tbPast s.tb a.tb after then advTimeout (pinc s P.ghTimeouts) a else s)
    | none => .next s

end Sys2Proof.Machine
end

