-- ==== Sys2Proof/Machine/Ademen.lean ====
section
/-! DEFINITION. Ademen: leases on both sides, and the seat actions of a leased seat (14 R476 to R485, 17 R563). -/
namespace Sys2Proof.Machine

/-! ### Receiving a message (14 R475, R478) -/

/-- A received message is taken up when it comes from the peer of a port that is UP, or from the module itself; otherwise it is discarded and
counted (14 R475). -/
def admIn (s : State) (h : GhHead) (f : AdmHead → State → State) : Ans :=
  let src := h.src.toNat
  let ok := if h.port.val = 16 then s.start.islandsUp && src == ownModule s else (portOf s h.port.val).st == 3 && (portOf s h.port.val).peer == src
  if ok then
    .next (f { src := src, dst := ownModule s, txn := h.txn.toNat, epoch := h.epoch.toNat, key := h.key.toNat, arg := h.arg.toNat } s)
  else .next (if s.start.islandsUp then pinc s P.ghRxDenied else s)

/-! ### The lender (14 R480, Table Ghengo-11) -/

/-- Whether the fields of a LEASE record that a borrower requests are in order (14 R480, Table Ghengo-7). -/
def leaseFieldsOk (r : Nat) : Bool :=
  leaseId r == 0 && leaseEpoch r == 0 && (leaseKind r == 1 || leaseKind r == 2) && decide (leaseAperture r < 128)
    && decide (1 ≤ leaseCount r) && decide (leaseCount r ≤ (if leaseKind r = 1 then 2304 else 96))
    && (bitsOf r 127 96 == 0 || (decide (50 ≤ bitsOf r 127 96) && decide (bitsOf r 127 96 ≤ 10000))) && bitsOf r 87 0 == 0

/-- The lender's own ports at the far ends of a lease's ports, of those that are up, face the borrower and are held by nobody (14 R480). -/
def farEnds (s : State) (borrower : Nat) (ports : List Nat) : List Nat :=
  (List.range 16).filter (fun p => (portOf s p).st == 3 && (portOf s p).peer == borrower && ports.contains (portOf s p).farPort
    && !(heldPorts s 32 ++ lentPorts s).contains p)

/-- The resources that a grant takes: seats by the rule of R83, channels in ascending order (14 R480). -/
def lendable (s : State) (kind n : Nat) : List Nat := (if kind = 1 then poolSeats s 32 else poolChannels s 32).take n

/-- The answer to a LEASE_REQUEST in check order (14 R480, Table Ghengo-13); 0 grants. -/
def lendCode (s : State) (borrower r : Nat) : Nat :=
  if !leaseFieldsOk r ∨ leaseLender r ≠ ownModule s then 0x0501
  else if pget s P.admLendEnable = 0 then 0x0507
  else if s.lent.length ≥ 256 then 0x0509
  else if (lendable s (leaseKind r) (leaseCount r)).length < leaseCount r ∨ (farEnds s borrower (leasePorts r)).length < (leasePorts r).length then 0x0508
  else 0

/-- A grant: the resources leave the pool, the epoch advances, and the record goes back with its identifier and epoch (14 R476, R480). -/
def leaseGrant (s : State) (q : AdmHead) (r : Nat) : State :=
  let s1 := epochNext s
  let l : LeaseOut := {
    id := s.nextLease, borrower := q.src, epoch := s1.shardEpoch, kind := leaseKind r, ports := farEnds s q.src (leasePorts r)
    res := lendable s (leaseKind r) (leaseCount r), termMs := leaseTerm s r, tbGrant := s.tb, tbRenew := s.tb }
  let back := r + s.nextLease * 2 ^ 208 + s1.shardEpoch * 2 ^ 176
  let s2 := powerAllocate { s1 with nextLease := (s.nextLease + 1) % 2 ^ 32, lent := s.lent ++ [l] }
  -- its seats run at the clock of its level (00 R4, 15 R502)
  let s3 := lentLevel s2 s.nextLease ((s2.lent.find? (fun x => x.id == s.nextLease)).map (·.level) |>.getD l.level)
  admAnswer s3 q .leaseRequest false s1.shardEpoch 0 0 [back]

/-- LEASE_REQUEST (14 R480, Table Ghengo-11). -/
def execLeaseRequest (h : GhHead) (record : BitVec 256) (s : State) : Ans :=
  admIn s h (fun q s => admOnceOnly s q .leaseRequest (fun s =>
    let r := record.toNat
    let code := lendCode s q.src r
    if code = 0 then leaseGrant s q r else admAnswer s q .leaseRequest false s.shardEpoch code 0 []))

/-- The granted lease that a message names, at its epoch (14 R476). -/
def lentNamed (s : State) (q : AdmHead) : Option LeaseOut :=
  s.lent.find? (fun l => l.id == q.key % 2 ^ 32 && l.borrower == q.src && l.epoch == q.epoch)

/-- A lease message: `f` for a live lease at the granted epoch, and otherwise 0x0506 (14 Table Ghengo-11). -/
def leaseMsg (h : GhHead) (m : AdmMsg) (s : State) (f : AdmHead → LeaseOut → State → State) : Ans :=
  admIn s h (fun q s => admOnceOnly s q m (fun s =>
    match lentNamed s q with
    | some l => f q l s
    | none => admAnswer s q m false s.shardEpoch 0x0506 0 []))

/-- LEASE_RENEW: the expiry timer restarts (14 Table Ghengo-11). -/
def execLeaseRenew (h : GhHead) (s : State) : Ans :=
  leaseMsg h .leaseRenew s (fun q l s =>
    admAnswer { s with lent := s.lent.map (fun x => if x.id = l.id then { x with tbRenew := s.tb } else x) } q .leaseRenew false l.epoch 0 0 [])

/-- EPOCH_QUERY (14 R481, Table Ghengo-11). -/
def execEpochQuery (h : GhHead) (s : State) : Ans :=
  leaseMsg h .epochQuery s (fun q l s => admAnswer s q .epochQuery false l.epoch 0 0 [])

/-- LEASE_RETURN: the lease ends, and the answer follows its scrub (14 Table Ghengo-11). -/
def execLeaseReturn (h : GhHead) (s : State) : Ans :=
  leaseMsg h .leaseReturn s (fun q l s => lentSettle (leaseEnd (admHold s q .leaseReturn []) l.id 1 (some q)))

/-- LEASE_EXPIRY_TIMER: a full term since the last renewal received (14 Table Ghengo-11). -/
def execLeaseExpiryTimer (id : U32) (s : State) : Ans :=
  match s.lent.find? (fun l => l.id == id.toNat) with
  | some l => .next (if tbPast s.tb l.tbRenew (l.termMs * 1000000) then leaseEnd s l.id 2 none else s)
  | none => .next s

/-- ADM_LENT_REVOKE: LEASE_REVOKE goes out once, and the lease ends; an identifier that names no granted lease does not fit (14 Table
Ghengo-11, R496). -/
def lentRevoke (s : State) (id : Nat) : State × Nat :=
  match s.lent.find? (fun l => l.id == id) with
  | some l => (leaseEnd (admOnce s l.borrower .leaseRevoke l.epoch id 0 []) id 3 none, 0)
  | none => (s, 0x050A)

def execAdmLentRevoke (id : U32) (s : State) : Ans := if fullUp s then .next (lentRevoke s id.toNat).1 else .next s

/-! ### The borrower (14 R480, Table Ghengo-9) -/

/-- Whether no port to a module is UP, or its identifier is none (14 Table Ghengo-13, GH_PEER). -/
def peerBad (s : State) (m : Nat) : Bool := m == 0 || m == 0xFFFF || m == ownModule s || upPorts s m == []

/-- The local checks of a lease request in check order (14 R480, Table Ghengo-13). -/
def leaseRequestCode (s : State) (v r : Nat) : Nat :=
  if bitsOf v 63 32 ≠ 0 ∨ (bitsOf v 31 16 ≠ 0 ∧ bitsOf v 31 16 ≠ leaseLender r) ∨ bitsOf v 15 8 ≠ 0 ∨ !leaseFieldsOk r then 0x0501
  else if peerBad s (leaseLender r) then 0x0502
  else if apertureTaken s (leaseAperture r) 0 false then 0x0504
  else if s.borrowed.length + s.ghMsgs.countP (fun m => m.msg == .leaseRequest) ≥ 256 then 0x0509
  else 0

/-- ADM_LEASE_CMD written (14 R480, Table Ghengo-9, Table Ghengo-19): the state, and the code that ADM_LEASE_RESULT takes at once. -/
def leaseCmd (s : State) (v : Nat) : State :=
  if v % 256 = 1 then
    let r := leNat (octGet s P.admLeaseReq)
    -- STATE is ignored when written (14 Table Ghengo-7)
    let r1 := r - bitsOf r 95 88 * 2 ^ 88
    let code := leaseRequestCode s v r1
    if code ≠ 0 then pset s P.admLeaseResult code else admSend s (leaseLender r1) .leaseRequest 0 0 0 [r1]
  else if v % 256 = 2 then
    if bitsOf v 15 8 ≠ 0 then pset s P.admLeaseResult 0x0501
    else match s.borrowed.find? (fun l => leaseId l.record == bitsOf v 63 32 && leaseLender l.record == bitsOf v 31 16 && l.st == 2) with
    | none => pset s P.admLeaseResult 0x050A
    | some l =>
      admSend { s with borrowed := s.borrowed.map (fun x => if x.record = l.record then { x with st := 4 } else x) }
        (leaseLender l.record) .leaseReturn (leaseEpoch l.record) (leaseId l.record) 0 []
  else pset s P.admLeaseResult 0x0501

def execAdmLeaseCmdRequest (lender : U16) (s : State) : Ans :=
  if fullUp s then .next (leaseCmd s (pack [(16, lender.toNat), (0, 1)])) else .next s
def execAdmLeaseCmdReturn (lender : U16) (id : U32) (s : State) : Ans :=
  if fullUp s then .next (leaseCmd s (pack [(32, id.toNat), (16, lender.toNat), (0, 2)])) else .next s

/-- LEASE_REVOKE: the borrower loses the HELD or RIGGED lease that it names; one that meets no row of Table Ghengo-9 (another epoch, no such
lease, one that is being returned or lost) is discarded and counted (00 R21, 14 R476). -/
def execLeaseRevoke (h : GhHead) (s : State) : Ans :=
  admIn s h (fun q s =>
    match s.borrowed.find? (fun l => leaseLender l.record == q.src && leaseId l.record == q.key % 2 ^ 32 && leaseEpoch l.record == q.epoch && (l.st == 2 || l.st == 3)) with
    | some l => leaseLose s l.record
    | none => pinc s P.admProtocolErrors)

/-- LEASE_RENEW_TIMER: every TERM_MS / 4 a HELD or RIGGED lease is renewed (14 Table Ghengo-9). -/
def execLeaseRenewTimer (lender : U16) (id : U32) (s : State) : Ans :=
  match s.borrowed.find? (fun l => leaseLender l.record == lender.toNat && leaseId l.record == id.toNat && (l.st == 2 || l.st == 3)) with
  | some l => .next (admSend s lender.toNat .leaseRenew (leaseEpoch l.record) id.toNat 0 [])
  | none => .next s

/-- LEASE_LOSS_TIMER: no renewal answered within 3/4 × TERM_MS of the send of the last answered one (14 Table Ghengo-9). -/
def execLeaseLossTimer (lender : U16) (id : U32) (s : State) : Ans :=
  match s.borrowed.find? (fun l => leaseLender l.record == lender.toNat && leaseId l.record == id.toNat && (l.st == 2 || l.st == 3)) with
  | some l => .next (if tbPast s.tb l.tbAnswered (leaseTerm s l.record * 750000) then leaseLose s l.record else s)
  | none => .next s

/-- The outcome of a lease request at the borrower: a grant is stored and binds its aperture; any other code is the result (14 Table
Ghengo-9). -/
def leaseRequestEnd (s : State) (m : GhMsg) (code : Nat) (record : Nat) : State :=
  let s1 := pset s P.admLeaseResult code
  if code = 0 then { s1 with borrowed := s1.borrowed ++ [{ record := record, st := 2, tbAnswered := m.tb }] } else s1

/-- The outcome of a renewal: an answered one counts from its send, a refused one loses the lease; an unanswered one leaves it to the loss
timer (14 Table Ghengo-9). A refusal for a lease that is being returned or lost meets no row of the table (00 R21). -/
def leaseRenewEnd (s : State) (m : GhMsg) (code : Nat) : State :=
  let mine := fun (l : LeaseIn) => leaseLender l.record == m.head.dst && leaseId l.record == m.head.key && leaseEpoch l.record == m.head.epoch
  if code = 0 then { s with borrowed := s.borrowed.map (fun l => if mine l then { l with tbAnswered := m.tb } else l) }
  else if code = 0x0503 then s
  else match s.borrowed.find? (fun l => mine l && (l.st == 2 || l.st == 3)) with
    | some l => leaseLose s l.record
    | none => pinc s P.admProtocolErrors

/-- The outcome of a return: the aperture is unbound and the record gone (14 Table Ghengo-9). -/
def leaseReturnEnd (s : State) (m : GhMsg) (code : Nat) : State :=
  { pset s P.admLeaseResult code with
    borrowed := s.borrowed.filter (fun l => !(leaseLender l.record == m.head.dst && leaseId l.record == m.head.key && l.st == 4)) }

/-- The outcome of an EPOCH_QUERY: an answer of 0x0000 within 400 µs lets the lease pass the check (14 R481). -/
def epochQueryEnd (s : State) (m : GhMsg) (code : Nat) : State :=
  if code = 0 ∧ !tbPast s.tb m.tb 400001 then
    { s with borrowed := s.borrowed.map (fun l =>
        if leaseLender l.record = m.head.dst ∧ leaseId l.record = m.head.key ∧ leaseEpoch l.record = m.head.epoch then { l with queried := true } else l) }
  else s

/-! ### Seat actions on leased seats (14 R483) -/

/-- The lease a GV4 packet of a borrower concerns: it comes from the port's peer, over one of the lease's ports (14 R475). -/
def lentVia (s : State) (port src lease : Nat) : Option LeaseOut :=
  s.lent.find? (fun l => l.id == lease && l.borrower == src && l.ports.contains port && (portOf s port).st == 3 && (portOf s port).peer == src)

/-- A seat action of a lease on its seat `j`, which is seat `i` of the lender (14 R483). -/
def seatAct (s : State) (l : LeaseOut) (j i : Nat) (a : SeatAction) : State :=
  match a with
  | .start slot count lseat entry arg =>
    let ident := pack [(48, slot.val), (32, count.toNat), (16, lseat.toNat)]
    let s1 := { s with lent := s.lent.map (fun x => if x.id = l.id then { x with idents := tset (fun _ => 0) x.idents j ident } else x) }
    seatBegin s1 i lseat.toNat count.toNat entry.toNat arg.toNat
  | .prefill off data => reportSend (scratchWrite s i off.toNat data) l j .done
  | .scrub => reportSend (seatScrub s i) l j .done
  | .stop => reportSend (seatHalt s i) l j .done
  | .proceed => seatGo s i
  | .save =>
    let sec := sectionBytes (seatSectionOf s i)
    reportSend (seatPut (freeNext s) i { seatOf s i with mode := .idle }) l j (.saved sec)
  | .restore ended image =>
    let s1 := seatLoad s i (sectionOf image)
    reportSend (if ended then seatPut s1 i { seatOf s1 i with mode := .ended } else s1) l j .done

/-- GV4_SEAT_ACTION: a lender performs a seat action of a lease it has granted; any other is denied and answered NO_TARGET (14 R475, R483,
R484). -/
def execGv4SeatAction (port : GhPortId) (src : U16) (lease : U32) (j : U16) (a : SeatAction) (s : State) : Ans :=
  if !s.start.islandsUp then .next s
  else match lentVia s port.val src.toNat lease.toNat with
  | some l => match (if l.kind = 1 then l.res[j.toNat]? else none) with
    | some i => .next (seatAct s l j.toNat i a)
    | none => .next (emit (pinc s P.ghRxDenied) (.module src.toNat 9 [lease.toNat, j.toNat, stNoTarget]))
  | none => .next (emit (pinc s P.ghRxDenied) (.module src.toNat 9 [lease.toNat, j.toNat, stNoTarget]))

/-- The shell on which a lease is RIGGED, and its record, for a packet of its lender over one of the lease's ports (14 R475). -/
def leaseSlot (s : State) (port lender id : Nat) : Option (Nat × Nat) :=
  if (portOf s port).st ≠ 3 ∨ (portOf s port).peer ≠ lender then none
  else (s.borrowed.find? (fun l => leaseLender l.record == lender && leaseId l.record == id && l.st == 3 && (recPorts l.record).contains port)).bind
    (fun l => l.slot.map (fun sl => (sl, l.record)))

/-- The job of a shell gathers the summary word of a leased seat (04 R151). -/
def summaryAdd (s : State) (slot summary : Nat) : State :=
  let sh := shellOf s slot
  shellPut s slot { sh with job := sh.job.map (fun j => { j with summary := j.summary ||| summary }) }

/-- A report on leased seat `x`, logical seat `l` of a shell (14 R483). -/
def reportTake (s : State) (slot : Nat) (x : Nat × Nat) (l : Nat) (r : SeatReport) : State :=
  let v := remoteOf (shellOf s slot) x
  match r with
  | .done => jobTryStart (remotePut s slot x { v with pending := false }) slot
  | .caught n d =>
    let s1 := remotePut s slot x { v with reached := n.toNat, caught := some d.toNat }
    if (catchAt (shellOf s1 slot) (pget s1 (P.rigStatus slot))).contains n.toNat then preemptTry s1 slot
    else remoteSend s1 slot x .proceed { v with reached := n.toNat, caught := none }
  | .saved image => remotePut s slot x { v with pending := false, saved := some (sectionOf image) }
  | .ended hint summary => seatEnded (remotePut s slot x { v with mode := .ended }) slot l (if hint then 1 else 0) summary.toNat
  -- a seat that has entered a wait that counts can complete a pre-emption; one that has left it counts no more (11 R394)
  | .waits inside =>
    let s1 := remotePut s slot x { v with waits := inside }
    if inside then preemptTry s1 slot else s1
  | .lost reason summary => jobFault (summaryAdd (remotePut s slot x { v with mode := .stopped }) slot summary.toNat) slot 2 (reason.toNat * 2 ^ 24)
  | .trapped cause mtval pc ident summary =>
    let sh := shellOf s slot
    let s1 := summaryAdd (remotePut s slot x { v with mode := .stopped }) slot summary.toNat
    let e : ErrRec := {
      kind := 0x15, scope := 3, shell := slot, fn := match sh.job with | some j => j.fn | none => pget s (P.ownerFunction slot)
      ctx := sh.job.map (·.ctx), qseq := match sh.job with | some j => j.seq | none => 0
      detail0 := mtval.toNat, detail1 := pc.toNat, code := cause.toNat % 2 ^ 63, seatId := some ident.toNat }
    jobFault (fileError s1 false e) slot 2 (cause.toNat % 256 * 2 ^ 24)

/-- GV4_ACTION_REPORT: the lender's report on seat `j` of a lease that is RIGGED here; any other is denied (14 R475, R483). -/
def execGv4ActionReport (port : GhPortId) (src : U16) (lease : U32) (j : U16) (r : SeatReport) (s : State) : Ans :=
  match leaseSlot s port.val src.toNat lease.toNat with
  | none => .next (if s.start.islandsUp then pinc s P.ghRxDenied else s)
  | some (slot, rec_) =>
    let sh := shellOf s slot
    match (leasedSeats sh).idxOf? (rec_, j.toNat) with
    | some k => .next (reportTake s slot (rec_, j.toNat) (sh.rig.seats.length + k) r)
    | none => .next s

/-- LEASE_FAULT_REPORT: the lender's safety event is raised on the shell that holds the lease; TB_EXPOSED is counted from the lender's
TB_DETECT and widened by 10 µs; `from_` is the time from which it counts where the mechanism has no fixed interval (17 R562, R563). -/
def execLeaseFaultReport (port : GhPortId) (src : U16) (lease : U32) (mech : Fin 16) (kind : U8) (tbDetect : U64) (from_ : Option U64) (s : State) : Ans :=
  match leaseSlot s port.val src.toNat lease.toNat with
  | none => .next (if s.start.islandsUp then pinc s P.ghRxDenied else s)
  | some (slot, _) =>
    let base : Option Nat := match mechInterval mech.val with | some i => some (tbDetect.toNat - i) | none => from_.map (·.toNat)
    .next (safetyEvent s slot mech.val kind.toNat (base.map (· - 10000)) { tbDetect := tbDetect.toNat })

end Sys2Proof.Machine
end

