-- ==== Sys2Proof/Machine/Channels.lean ====
section
/-! DEFINITION. Ghengo channels: opening, matching, closing and the loss of a peer (14 R486 to R488). -/
namespace Sys2Proof.Machine

/-- The ports of a shell that face a module: those UP with it, and those that faced it when they were last UP (14 Table Ghengo-13, GH_SHELL). -/
def facing (s : State) (slot peer : Nat) : List Nat :=
  (shellOf s slot).rig.ports.filter (fun p => (portOf s p).lastPeer == some peer)

/-- The checks of GHENGO_OPEN in check order (14 Table Ghengo-13, Table Ghengo-14); 0 when all pass. -/
def ghengoOpenCode (s : State) (cid : Nat) (q : QCmd) : Nat :=
  let fn := (ctxOf s cid).fn
  let slot := q.pl 479 475
  let sh := shellOf s slot
  let peer := q.pl 503 488
  if q.pl 435 320 ≠ 0 ∨ q.pl 319 256 % 8 ≠ 0 ∨ q.pl 467 452 + q.pl 451 436 > shellSeats sh then 0x0501
  else if sh.st = .free ∨ pget s (P.ownerFunction slot) ≠ fn ∨ facing s slot peer = [] then 0x0505
  else if peer = 0 ∨ peer = 0xFFFF ∨ peer = ownModule s ∨ (facing s slot peer).all (fun p => (portOf s p).st != 3) then 0x0502
  else if apertureTaken s (q.pl 474 468) cid false then 0x0504
  else if (gchanOf s (q.pl 511 504)).st ≠ .closed then 0x050B
  else 0

/-- The command of a channel whose result word waits ends with a code. -/
def channelCmdEnd (s : State) (c : GhChan) (op : Nat) (seq : Option Nat) (code : Nat) : State :=
  match seq.bind (fun n => privFind s c.ctx op n) with
  | some q => privEnd s c.ctx q code
  | none => s

/-- A channel is open: the match is complete, the peer admits `extent` logical seats, and the open's result word is written (14 R487). -/
def channelOpened (s : State) (n extent : Nat) : State :=
  let c := gchanOf s n
  if c.st ≠ .opening then s
  else
    let s1 := gchanPut s n { c with st := .opened, extent := extent, cmdSeq := none }
    let s2 := { s1 with ghMsgs := s1.ghMsgs.filter (fun m => !(m.msg == .chOpen && m.head.key / 256 % 256 == n)) }
    channelCmdEnd s2 c 0x16 c.cmdSeq 0

/-- An open that finds no match, or no peer, leaves its channel CLOSED (14 R487). -/
def channelOpenFail (s : State) (n code : Nat) : State :=
  let c := gchanOf s n
  if c.st ≠ .opening then s
  else
    let s1 := gchanPut s n {}
    let s2 := { s1 with ghMsgs := s1.ghMsgs.filter (fun m => !(m.msg == .chOpen && m.head.key / 256 % 256 == n)) }
    channelCmdEnd s2 c 0x16 c.cmdSeq code

/-- Whether a CH_OPEN that waits here names a channel from its side and has not waited too long. -/
def chWaitFor (s : State) (c : GhChan) (n : Nat) (k : GhKept) : Bool :=
  k.msg == .chOpen && k.busy && k.head.src == c.peer && k.head.key % 256 == n && k.head.key / 256 % 256 == c.peerChan
    && !tbPast s.tb k.tb (pget s P.ghChannelWaitMs * 1000000)

/-- CMD_GHENGO_OPEN: CH_OPEN goes out over a port of the shell with a fresh nonce; a waiting open of the peer matches at once (14 R486, R487).
KEY names the channels and ARG carries LSEAT_COUNT in bits [16:1] (log 27). -/
def execCmdGhengoOpen (ctx : U16) (s : State) : Ans :=
  let cid := ctx.toNat
  withHead s cid 0x16 (fun s q =>
    let code := ghengoOpenCode s cid q
    if code ≠ 0 then privEnd s cid q code
    else
      let n := q.pl 511 504
      let (nonce, s1) := freshNonce (privBegin s cid q)
      let c : GhChan := {
        st := .opening, ctx := cid, peer := q.pl 503 488, peerChan := q.pl 487 480, shell := q.pl 479 475, aperture := q.pl 474 468
        first := q.pl 467 452, count := q.pl 451 436, tbOpen := s.tb, nonce := nonce, cmdSeq := some q.seq }
      let s2 := admSend (gchanPut s1 n c) c.peer .chOpen 0 (n * 256 + c.peerChan) (2 * c.count) (nonce.map (·.toNat))
      match s2.ghKept.find? (chWaitFor s2 c n) with
      | some k => channelOpened (admAnswer s2 k.head .chOpen false 0 0 (2 * c.count) []) n (k.body.headD 0 / 2)
      | none => s2)

/-- CH_OPEN: it matches the local channel that names the sender's, which is then open, or waits for one (14 R487). -/
def execChOpen (h : GhHead) (nonce : BitVec 256) (s : State) : Ans :=
  admIn s h (fun q s => admOnceOnly s q .chOpen (fun s =>
    let n := q.key % 256
    let c := gchanOf s n
    if (c.st = .opening ∨ c.st = .opened) ∧ c.peer = q.src ∧ c.peerChan = q.key / 256 % 256 then
      channelOpened (admAnswer s q .chOpen false 0 0 (2 * c.count) []) n (q.arg / 2)
    else admHold s q .chOpen [q.arg, nonce.toNat]))

/-- CH_MATCH_TIMEOUT: no match within GH_CHANNEL_WAIT_MS: of a channel of this module, or of a CH_OPEN that waits here (14 R487). -/
def execChMatchTimeout (chan : U8) (waiting : Option (U16 × U32)) (s : State) : Ans :=
  let after := pget s P.ghChannelWaitMs * 1000000
  match waiting with
  | none =>
    let c := gchanOf s chan.toNat
    .next (if c.st = .opening ∧ tbPast s.tb c.tbOpen after then channelOpenFail s chan.toNat 0x050C else s)
  | some (src, txn) => match keptFor s src.toNat txn.toNat with
    | some k => .next (if k.busy ∧ k.msg = .chOpen ∧ tbPast s.tb k.tb after then admAnswer s k.head .chOpen false 0 0x050C 0 [] else s)
    | none => .next s

/-- CMD_GHENGO_CLOSE: the forced abort begins; the result word follows its end. An open that still waits ends with 0x050C (14 R486, R488). -/
def execCmdGhengoClose (ctx : U16) (s : State) : Ans :=
  let cid := ctx.toNat
  withHead s cid 0x17 (fun s q =>
    let n := q.pl 511 504
    let c := gchanOf s n
    if q.pl 503 320 ≠ 0 ∨ q.pl 319 256 % 8 ≠ 0 then privEnd s cid q 0x0501
    else if c.st = .closed ∨ c.st = .aborting ∨ c.ctx ≠ cid then privEnd s cid q 0x050B
    else
      let s1 := channelAbort (privBegin s cid q) n
      let s2 := if c.st = .opening then
          channelCmdEnd { s1 with ghMsgs := s1.ghMsgs.filter (fun m => !(m.msg == .chOpen && m.head.key / 256 % 256 == n)) } c 0x16 c.cmdSeq 0x050C
        else s1
      gchanPut s2 n { gchanOf s2 n with cmdSeq := none, closeSeq := some q.seq })

/-- CH_CLOSE: the channel's peer has closed it (14 R488). -/
def execChClose (h : GhHead) (s : State) : Ans :=
  admIn s h (fun q s =>
    let n := q.key % 256
    let c := gchanOf s n
    if c.peer = q.src ∧ c.peerChan = q.key / 256 % 256 then channelGone s n else s)

/-- PEER_GONE_TIMER: every port of a channel's peer has been out of UP for ADM_LEASE_MS (14 R488). -/
def execPeerGoneTimer (chan : U8) (s : State) : Ans :=
  let n := chan.toNat
  let c := gchanOf s n
  let ports := (List.range 16).filter (fun p => (portOf s p).lastPeer == some c.peer)
  .next (if c.st = .opened ∧ ports.all (fun p => (portOf s p).st != 3 && tbPast s.tb (portOf s p).tbDown (pget s P.admLeaseMs * 1000000)) then channelGone s n else s)

/-- CHANNEL_ABORT_END: outbound requests in flight are answered TIMEOUT, the aperture is unbound, and the close's result word is written
(14 R488). -/
def execChannelAbortEnd (chan : U8) (s : State) : Ans :=
  let n := chan.toNat
  let c := gchanOf s n
  if c.st ≠ .aborting then .next s
  else
    let inside := fun (ga : Nat) => inPeerWindow ga && (ga - 0x800000000000) / 2 ^ 40 == c.aperture
    let seats := s.seats.filter (fun e => seatShell s e.1 == some c.shell)
    let waits := (seats.filter (fun e => match waitAddr e.2.core.wait with | some (_, ga, _) => inside ga | none => false)).map (·.1)
    let s1 := waits.foldl ghAnswer ((seats.map (·.1)).foldl (fun a i => xfersTimeout (storesTimeout a i (fun x => inside x.ga)) i inside) (gchanPut s n {}))
    .next (channelCmdEnd s1 c 0x17 c.closeSeq 0)

end Sys2Proof.Machine
end

