-- ==== Sys2Proof/Machine/Boathouse.lean ====
section
/-! DEFINITION. The Boathouse: keys at their home and at their members (14 R489 to R495). -/
namespace Sys2Proof.Machine

/-! ### The member side (14 R490, R493, Table Ghengo-17) -/

/-- Whether the module serves as member (14 R490). -/
def bhServes (s : State) : Bool := s.bhChannels != [] || s.bhRanges != []

/-- The units of member capacity that no key holds. -/
def bhFree (s : State) : List Nat := let used := s.bhHeld.flatMap (·.units); (bhUnits s).filter (fun a => !used.contains a)

def heldKey (s : State) (key : Nat) : Option BhHeld := s.bhHeld.find? (fun k => k.key == key)
def heldPut (s : State) (k : BhHeld) : State := { s with bhHeld := s.bhHeld.map (fun x => if x.key = k.key then k else x) }

/-- Zero a unit: it reads as zeros through its memory key (14 Table Ghengo-17, 18 R574). -/
def unitZero (s : State) (a : Nat) : State :=
  cellWrite s a (if a < 0x3000000000 then some (a / 0x80000000) else none) (List.replicate 0x200000 0)

/-- A key leaves a member: its units are scrubbed and free (14 Table Ghengo-17). -/
def heldDrop (s : State) (key : Nat) : State :=
  match heldKey s key with
  | none => s
  | some k => (k.units.foldl (fun s a => memZero s a 0x200000) { s with bhHeld := s.bhHeld.filter (fun x => x.key != key) })

/-- BH_ALLOC: the size in units stands in ARG bits [9:0], and the window at the home in [33:16] (14 R490, Table Ghengo-17, log 27). One for a key that
is held meets no row of the table: it is discarded and counted (00 R21). -/
def execBhAlloc (h : GhHead) (s : State) : Ans :=
  admIn s h (fun q s => admOnceOnly s q .bhAlloc (fun s =>
    let n := bitsOf q.arg 9 0
    if (heldKey s q.key).isSome then pinc s P.admProtocolErrors
    else if n = 0 ∨ n > 512 then admAnswer s q .bhAlloc false 0 0x0501 0 []
    else if !bhServes s then admAnswer s q .bhAlloc false 0 0x0511 0 []
    else if (bhFree s).length < n then admAnswer s q .bhAlloc false 0 0x050E 0 []
    else
      let us := (bhFree s).take n
      let s1 := us.foldl unitZero { s with
        bhHeld := s.bhHeld ++ [{ key := q.key, epoch := q.epoch, home := q.src, bind := bitsOf q.arg 33 16, units := us, tbRenew := s.tb }] }
      admAnswer s1 q .bhAlloc false q.epoch 0 0 []))

/-- BH_FREE: the key at its epoch is scrubbed; at another epoch, or of no key held, it has no effect (14 Table Ghengo-17). -/
def execBhFree (h : GhHead) (s : State) : Ans :=
  admIn s h (fun q s => admOnceOnly s q .bhFree (fun s =>
    let held := match heldKey s q.key with | some k => k.epoch == q.epoch | none => false
    admAnswer (if held then heldDrop s q.key else s) q .bhFree false q.epoch 0 0 []))

/-- A renewal or a query at a member (14 Table Ghengo-17). -/
def bhCheck (q : AdmHead) (m : AdmMsg) (s : State) : State :=
  match heldKey s q.key with
  | none => admAnswer s q m false 0 0x0506 0 []
  | some k =>
    if k.epoch = q.epoch then admAnswer (heldPut s { k with tbRenew := s.tb }) q m false k.epoch 0 0 []
    else admAnswer s q m false k.epoch 0x0506 0 []

def execBhRenew (h : GhHead) (s : State) : Ans := admIn s h (fun q s => admOnceOnly s q .bhRenew (bhCheck q .bhRenew))
def execBhQuery (h : GhHead) (s : State) : Ans := admIn s h (fun q s => admOnceOnly s q .bhQuery (bhCheck q .bhQuery))

/-- BH_MOVE: the owner begins to copy to the member and for the epoch that ARG names, in bits [47:32] and [31:0], and gives interim answers
(14 R493, Table Ghengo-17, log 27). One for a key that moves or has moved meets no row of the table: it is discarded and counted (00 R21). -/
def execBhMove (h : GhHead) (s : State) : Ans :=
  admIn s h (fun q s => admOnceOnly s q .bhMove (fun s =>
    match heldKey s q.key with
    | none => admAnswer s q .bhMove false 0 0x0506 0 []
    | some k =>
      if k.epoch ≠ q.epoch then admAnswer s q .bhMove false k.epoch 0x0506 0 []
      else if k.st ≠ 1 then pinc s P.admProtocolErrors
      else
        admAnswer (heldPut s { k with st := 2, target := bitsOf q.arg 47 32, epoch2 := bitsOf q.arg 31 0, copied := 0, moveHead := some q })
          q .bhMove true k.epoch 0 0 []))

/-- Where granule `g` of a held key lies. -/
def granuleAt (k : BhHeld) (g : Nat) : Nat := k.units.getD (g / 32) 0 + g % 32 * 65536

/-- BH_MOVE_GRANULE_COPIED: the next granule is copied and acknowledged by the target, or `acked` is false because the target cannot be
reached. The last one, and a failed one, send the final answer (14 R493, Table Ghengo-17). -/
def execBhMoveGranuleCopied (key : U64) (acked : Bool) (s : State) : Ans :=
  match heldKey s key.toNat with
  | none => .next s
  | some k => match (if k.st = 2 then k.moveHead else none) with
    | none => .next s
    | some q =>
      if !acked then .next (admAnswer (heldPut s { k with st := 1, moveHead := none }) q .bhMove false k.epoch 0x050F 0 [])
      else
        let a := granuleAt k k.copied
        let s1 := emit s (.ghengo (portToward s k.target) 5 [k.key, k.epoch2, k.copied * 65536, leNat (cellRead s a 65536)])
        if k.copied + 1 < k.units.length * 32 then .next (heldPut s1 { k with copied := k.copied + 1 })
        else .next (admAnswer (heldPut s1 { k with copied := k.copied + 1, st := 3, moveHead := none }) q .bhMove false k.epoch 0 0 [])

/-- BH_MEMBER_EXPIRY: no renewal for ADM_LEASE_MS (14 Table Ghengo-17). -/
def execBhMemberExpiry (key : U64) (s : State) : Ans :=
  match heldKey s key.toNat with
  | some k => .next (if tbPast s.tb k.tbRenew (pget s P.admLeaseMs * 1000000) then pinc (heldDrop s k.key) P.bhExpired else s)
  | none => .next s

/-! ### The home side (14 R489, R491, R492, R495, Table Ghengo-16) -/

def homeKey (s : State) (key : Nat) : Option BhHome := s.bhHomes.find? (fun h => h.key == key)
def homePut (s : State) (h : BhHome) : State := { s with bhHomes := s.bhHomes.map (fun x => if x.key = h.key then h else x) }

/-- The command of a key whose result word waits ends with a code. -/
def bhCmdEnd (s : State) (h : BhHome) (code : Nat) : State :=
  match h.cmdSeq.bind (fun n => privFind s h.ctx 0x18 n) with
  | some q => privEnd s h.ctx q code
  | none => s

/-- Held transfers of a key go on from their cursors (14 R494). -/
def bhResume (s : State) (key : Nat) : State :=
  { s with seats := s.seats.map (fun e => (e.1, { e.2 with xfers := e.2.xfers.map (fun x => if x.bhKey = some key then { x with bhKey := none } else x) })) }

/-- A key becomes LOST: its held transfers end in state 3, each job that owns one is stopped with the key's status, the owning function is
interrupted and the event counted (14 R495). -/
def bhLose (s : State) (key : Nat) (orphaned : Bool) : State :=
  match homeKey s key with
  | none => s
  | some h =>
    let h1 := { h with st := 6, tbState := s.tb, orphaned := orphaned }
    let seats := (s.seats.filter (fun e => e.2.xfers.any (fun x => x.bhKey == some key))).map (·.1)
    let slots := (seats.filterMap (seatShell s)).foldl sAdd []
    let s1 := { homePut s h1 with seats := s.seats.map (fun e => (e.1, { e.2 with
      xfers := e.2.xfers.map (fun x => if x.bhKey = some key then { x with bhKey := none, st := .aborted } else x) })) }
    let s2 := slots.foldl (fun s sl => jobStop s sl (bhStatus h1) 0) s1
    pinc (raiseCause s2 (ctxOf s h.ctx).fn 6) (if orphaned then P.bhOrphaned else P.bhOwnerLost)

/-- The ARG of a BH_ALLOC of a key (log 27). -/
def allocArg (h : BhHome) : Nat := h.units + (h.aperture * 1024 + h.window) * 2 ^ 16

/-- The member to which a create with MEMBER 0xFFFF goes first, with those that stay to be tried: BH_MEMBERS in order (14 Table Ghengo-15). -/
def bhMembers (s : State) : List Nat :=
  let b := octGet s P.bhMembers
  (List.range (b.length / 2)).map (fun i => field b (2 * i) 2)

/-- The checks of BH_LEASE in check order (14 Table Ghengo-13, Table Ghengo-15); 0 when all pass. -/
def bhLeaseCode (s : State) (cid : Nat) (q : QCmd) : Nat :=
  let key := q.pl 511 448
  let m := q.pl 447 432
  let op := q.pl 414 413
  let n := q.pl 412 400
  let a := q.pl 431 425
  let w := q.pl 424 415
  let known := s.bhHomes.find? (fun h => h.key == key && h.ctx == cid)
  let elsewhere : Bool := match known with | some h => h.aperture != a || h.window != w | none => false
  let unfit : Bool := match known with | some h => h.st != 2 | none => false
  if q.pl 399 320 ≠ 0 ∨ q.pl 319 256 % 8 ≠ 0 ∨ (op ≠ 1 ∧ op ≠ 2) ∨ (op = 1 ∧ (n = 0 ∨ n > 512)) ∨ (op = 2 ∧ n ≠ 0) then 0x0501
  else if m = 0 ∨ (m ≠ 0xFFFF ∧ m ≠ ownModule s ∧ upPorts s m = []) then 0x0502
  else if apertureTaken s a cid true ∨ (op = 1 ∧ s.bhHomes.any (fun h => h.aperture == a && h.window == w))
      ∨ (op = 2 ∧ elsewhere) then 0x0504
  else if op = 1 ∧ (key / 2 ^ 48 ≠ ownModule s ∨ s.bhHomes.any (fun h => h.key == key)) then 0x050D
  else if op = 2 ∧ known = none then 0x050D
  else if op = 1 ∧ s.bhHomes.length ≥ 16384 then 0x0512
  else if op = 2 ∧ unfit then 0x050A
  else 0

/-- Send BH_ALLOC of a key's present attempt to a member, which from then on has been allocated the key. -/
def bhAllocSend (s : State) (h : BhHome) (m epoch : Nat) : State :=
  admSend (homePut s { h with seen := (h.seen.filter (fun x => x.1 != m)) ++ [(m, s.tb)] }) m .bhAlloc epoch h.key (allocArg h) []

/-- A key is LIVE again, and its held transfers go on (14 R494). -/
def homeLive (s : State) (h : BhHome) : State := bhResume (homePut s { h with st := 2, cmdSeq := none }) h.key

/-- A create at a member list: the first is asked, with none left the command ends with a code (14 Table Ghengo-15, Table Ghengo-16). -/
def bhTry (s : State) (h : BhHome) (members : List Nat) (code : Nat) : State :=
  match members with
  | m :: rest => bhAllocSend s { h with member := m, others := rest } m h.epoch
  | [] => bhCmdEnd (bhDrop s h.key) h code

/-- A move: the target is asked to allocate at the next epoch. -/
def bhPrepare (s : State) (h : BhHome) (members : List Nat) (code : Nat) : State :=
  match members with
  | m :: rest => bhAllocSend s { h with st := 3, target := m, others := rest } m h.epoch2
  | [] => bhCmdEnd (homeLive s h) h code

/-- CMD_BH_LEASE (14 R491, R492, Table Ghengo-16). -/
def execCmdBhLease (ctx : U16) (s : State) : Ans :=
  let cid := ctx.toNat
  withHead s cid 0x18 (fun s q =>
    let code := bhLeaseCode s cid q
    if code ≠ 0 then privEnd s cid q code
    else
      let m := q.pl 447 432
      let list := if m = 0xFFFF then bhMembers s else [m]
      let s1 := epochNext (privBegin s cid q)
      if q.pl 414 413 = 1 then
        let h : BhHome := { key := q.pl 511 448, ctx := cid, aperture := q.pl 431 425, window := q.pl 424 415, units := q.pl 412 400
                            epoch := s1.shardEpoch, tbAnswered := s.tb, tbState := s.tb, cmdSeq := some q.seq }
        bhTry { s1 with bhHomes := s1.bhHomes ++ [h], bhApertures := tins (tdel s1.bhApertures h.aperture) h.aperture cid } h list 0x050E
      else match homeKey s1 (q.pl 511 448) with
        | some h => bhPrepare s1 { h with epoch2 := s1.shardEpoch, cmdSeq := some q.seq, tbState := s.tb } list 0x050E
        | none => s1)

/-- CMD_BH_RELEASE (14 R491, Table Ghengo-16). Its payload beside REQ_KEY and RESULT_ADDR is zero. The result word does not wait for a drain (DESIGN CHOICE,
log 96). -/
def execCmdBhRelease (ctx : U16) (s : State) : Ans :=
  let cid := ctx.toNat
  withHead s cid 0x19 (fun s q =>
    if q.pl 447 320 ≠ 0 ∨ q.pl 319 256 % 8 ≠ 0 then privEnd s cid q 0x0501
    else match s.bhHomes.find? (fun h => h.key == q.pl 511 448 && h.ctx == cid) with
    | none => privEnd s cid q 0x050D
    | some h =>
      if h.st = 1 ∨ h.st = 3 ∨ h.st = 4 then privEnd s cid q 0x050A
      else privEnd (bhResume (bhDrop (bhFreeSend s h.member h.epoch h.key) h.key) h.key) cid q 0)

/-- The answer to BH_ALLOC, or its failure: a create becomes LIVE, or goes on to the next member, or ends; a move begins its copy, or leaves the
key where it was (14 Table Ghengo-16). -/
def bhAllocEnd (s : State) (m : GhMsg) (code : Nat) : State :=
  match homeKey s m.head.key with
  | none => s
  | some h =>
    if h.st = 1 ∧ m.head.epoch = h.epoch ∧ m.head.dst = h.member then
      if code = 0 then bhCmdEnd (homePut s { h with st := 2, tbAnswered := m.tb, tbState := s.tb, cmdSeq := none }) h 0
      else bhTry (bhFreeSend s h.member h.epoch h.key) h h.others (if code = 0x0503 ∨ code = 0x0511 then code else 0x050E)
    else if h.st = 3 ∧ m.head.epoch = h.epoch2 ∧ m.head.dst = h.target then
      if code = 0 then
        admSend (homePut s { h with st := 4, tbState := s.tb }) h.member .bhMove h.epoch h.key (h.target * 2 ^ 32 + h.epoch2) []
      else bhPrepare (bhFreeSend s h.target h.epoch2 h.key) h h.others (if code = 0x0503 ∨ code = 0x0511 then code else 0x050E)
    else s

/-- The final answer to BH_MOVE, or its failure: 0x0000 is the commit point; an owner that cannot be reached is lost; any other answer leaves the
key with its owner (14 Table Ghengo-16). -/
def bhMoveEnd (s : State) (m : GhMsg) (code : Nat) : State :=
  match homeKey s m.head.key with
  | none => s
  | some h =>
    if h.st ≠ 4 ∨ m.head.epoch ≠ h.epoch then s
    else if code = 0 then
      let s1 := homeLive s { h with member := h.target, epoch := h.epoch2, tbAnswered := s.tb, tbState := s.tb }
      bhCmdEnd (bhFreeSend s1 h.member h.epoch h.key) h 0
    else if code = 0x0503 then
      bhCmdEnd (bhLose (bhFreeSend (homePut s { h with cmdSeq := none }) h.target h.epoch2 h.key) h.key false) h 0x0510
    else bhCmdEnd (bhFreeSend (homeLive s h) h.target h.epoch2 h.key) h 0x050F

/-- The answer to a renewal: one at the key's epoch counts from its send; a refused one of a LIVE key begins its resolution (14 Table
Ghengo-16). -/
def bhRenewEnd (s : State) (m : GhMsg) (code : Nat) : State :=
  match homeKey s m.head.key with
  | none => s
  | some h =>
    if m.head.epoch ≠ h.epoch ∨ m.head.dst ≠ h.member then s
    else if code = 0 then homePut s { h with tbAnswered := max h.tbAnswered m.tb }
    else if code ≠ 0x0503 ∧ h.st = 2 then bhResolve s h.key
    else s

/-- The answer to BH_QUERY while a key is resolved (14 Table Ghengo-16). -/
def bhQueryEnd (s : State) (m : GhMsg) (code epoch : Nat) : State :=
  match homeKey s m.head.key with
  | none => s
  | some h =>
    if h.st ≠ 5 ∨ m.head.epoch ≠ h.epoch then s
    else if code = 0 ∧ m.head.dst = h.member then bhResume (homePut s { h with st := 2, tbAnswered := m.tb, tbState := s.tb }) h.key
    else if code = 0x0503 ∧ m.head.dst = h.member then bhLose s h.key false
    else if code = 0x0506 ∧ epoch ≠ 0 then homePut s { h with stale := h.stale ++ [(m.head.dst, epoch)] }
    else s

/-- BH_HOME_RENEW_TIMER: every ADM_LEASE_MS / 4 a LIVE key is renewed, and while a move runs both epochs (14 R492). -/
def execBhHomeRenewTimer (key : U64) (s : State) : Ans :=
  match homeKey s key.toNat with
  | none => .next s
  | some h =>
    if h.st = 2 then .next (admSend s h.member .bhRenew h.epoch h.key 0 [])
    else if h.st = 3 ∨ h.st = 4 then .next (admSend (admSend s h.member .bhRenew h.epoch h.key 0 []) h.target .bhRenew h.epoch2 h.key 0 [])
    else .next s

/-- BH_KEY_RENEWAL_TIMEOUT: no renewal of a LIVE key answered for 3/4 × ADM_LEASE_MS (14 Table Ghengo-16). -/
def execBhKeyRenewalTimeout (key : U64) (s : State) : Ans :=
  match homeKey s key.toNat with
  | some h => .next (if h.st = 2 ∧ tbPast s.tb h.tbAnswered (pget s P.admLeaseMs * 750000) then bhResolve s h.key else s)
  | none => .next s

/-- BH_RESOLVE_TIMEOUT: no member holds the key at the home's epoch within ADM_LEASE_MS: BH_FREE goes to every member that answered at another
epoch, and the key is ORPHANED (14 Table Ghengo-16). -/
def execBhResolveTimeout (key : U64) (s : State) : Ans :=
  match homeKey s key.toNat with
  | some h =>
    if h.st = 5 ∧ tbPast s.tb h.tbState (pget s P.admLeaseMs * 1000000) then
      .next (bhLose (h.stale.foldl (fun s x => bhFreeSend s x.1 x.2 h.key) s) h.key true)
    else .next s
  | none => .next s

/-- A member's answer that names an epoch which the home does not record for the key, of a member that holds it, frees it there (14 Table
Ghengo-16, last row). -/
def bhStray (s : State) (m : GhMsg) (code epoch : Nat) : State :=
  let known : Bool := match homeKey s m.head.key with
    | some h => epoch == h.epoch || ((h.st == 3 || h.st == 4) && epoch == h.epoch2)
    | none => false
  if (code = 0 ∨ code = 0x0506) ∧ epoch ≠ 0 ∧ !known then bhFreeSend s m.head.dst epoch m.head.key else s

/-! ### Responses and retries (14 R479) -/

/-- What a request comes to: a code and the fields of its response, or 0x0503 of a partner that cannot be reached. -/
def admOutcome (s : State) (m : GhMsg) (code epoch arg record : Nat) : State :=
  match m.msg with
  | .leaseRequest => leaseRequestEnd s m code record
  | .leaseRenew => leaseRenewEnd s m code
  | .leaseReturn => leaseReturnEnd s m code
  | .epochQuery => epochQueryEnd s m code
  | .chOpen => if code = 0 then channelOpened s (m.head.key / 256 % 256) (arg / 2) else channelOpenFail s (m.head.key / 256 % 256) code
  | .bhAlloc => bhAllocEnd (bhStray s m code epoch) m code
  | .bhRenew => bhRenewEnd (bhStray s m code epoch) m code
  | .bhMove => bhMoveEnd (bhStray s m code epoch) m code
  | .bhQuery => bhQueryEnd (bhStray s m code epoch) m code epoch
  | .leaseRevoke => s
  | .chClose => s
  | .bhFree => s

/-- ADM_RESPONSE: a response to an outstanding request ends it; an interim one shows that the partner is there, so the sends until then
have been answered. One that matches no request
is discarded and counted (14 R478, R479). -/
def execAdmResponse (h : GhHead) (msg : AdmMsg) (code : U16) (record : BitVec 256) (s : State) : Ans :=
  admIn s h (fun q s =>
    match s.ghMsgs.find? (fun m => m.head.txn == q.txn && m.head.dst == q.src && m.msg == msg) with
    | none => pinc s P.admProtocolErrors
    | some m =>
      if bitOf q.arg 0 then
        { s with ghMsgs := s.ghMsgs.map (fun x => if x.head.txn = q.txn then { x with sends := 0, tbLast := s.tb } else x) }
      else admOutcome { s with ghMsgs := s.ghMsgs.filter (fun x => x.head.txn != q.txn) } m code.toNat q.epoch q.arg record.toNat)

/-- ADM_RETRY_TIMER: a request unanswered for ADM_RETRY_US is sent again with its TXN_ID; after four unanswered sends its partner counts as
unreachable, with 0x0503 (14 R479). -/
def execAdmRetryTimer (txn : U32) (s : State) : Ans :=
  match s.ghMsgs.find? (fun m => m.head.txn == txn.toNat) with
  | none => .next s
  | some m =>
    if !tbPast s.tb m.tbLast (pget s P.admRetryUs * 1000) then .next s
    else if m.once then .next { s with ghMsgs := s.ghMsgs.filter (fun x => x.head.txn != m.head.txn) }
    else if m.sends < 4 then
      let s1 := { s with ghMsgs := s.ghMsgs.map (fun x => if x.head.txn = m.head.txn then { x with sends := m.sends + 1, tbLast := s.tb } else x) }
      .next (admOut s1 (admPort s m.head.dst m.msg m.head.key) m.head m.msg false m.body)
    else .next (admOutcome { s with ghMsgs := s.ghMsgs.filter (fun x => x.head.txn != m.head.txn) } m 0x0503 0 0 0)

end Sys2Proof.Machine
end

