-- ==== Sys2Proof/Machine/Wire.lean ====
section
/-! DEFINITION. Ghengo on the wire: the headers of flits and packets, and how packets are packed into flits (14 R465). The link blocks of the
model exchange whole packets and the fields of flit headers; these are their bytes. -/

namespace Sys2Proof.Machine

/-- The fields of a flit header (14 Table Ghengo-2). -/
structure FlitHead where
  seq : Nat := 0
  ackSeq : Nat := 0
  nak : Bool := false
  /-- The virtual channel whose credit is returned; 6 and 7 mean none. -/
  creditVc : Nat := 7
  creditCount : Nat := 0
  /-- 0 data, 1 idle, 2 control. -/
  kind : Nat := 1
  deriving DecidableEq, Repr

/-- A flit header of 64 bits. -/
def flitHeader (f : FlitHead) : Nat :=
  pack [(52, f.seq % 2 ^ 12), (40, f.ackSeq % 2 ^ 12), (39, if f.nak then 1 else 0), (36, f.creditVc % 8), (28, f.creditCount % 256), (26, f.kind % 4)]

/-- The fields of a flit header that was received. -/
def flitHeadOf (h : Nat) : FlitHead :=
  { seq := bitsOf h 63 52, ackSeq := bitsOf h 51 40, nak := bitOf h 39, creditVc := bitsOf h 38 36, creditCount := bitsOf h 35 28, kind := bitsOf h 27 26 }

/-- One bit of a CRC-64 with the polynomial of ECMA-182. -/
def crcStep (c : BitVec 64) (b : Bool) : BitVec 64 := if c.msb != b then (c <<< 1) ^^^ 0x42F0E1EBA9EA3693 else c <<< 1

/-- The CRC-64 of bytes: most significant bit first, from zero (14 R465; PRESUMED from ECMA-182, log 95). -/
def crc64 (b : Bytes) : BitVec 64 := b.foldl (fun c x => (List.range 8).foldl (fun c i => crcStep c (x.getLsbD (7 - i))) c) 0

/-- A flit of 256 bytes: the header, 240 bytes of payload, and the CRC over both (14 R465). -/
def flitBytes (f : FlitHead) (payload : Bytes) : Bytes :=
  let b := leBytes 8 (flitHeader f) ++ payload.take 240 ++ List.replicate (240 - payload.length) 0
  b ++ leBytes 8 (crc64 b).toNat

/-- The header of a network packet of module `src` on Ghengo, 32 bytes (14 Table Ghengo-3): LENGTH counts its data flits of 64 bytes. -/
def ghHeader (src dst gv kind id agent off op tag status units : Nat) : Bytes :=
  leBytes 32 (pack [(240, src % 2 ^ 16), (224, dst % 2 ^ 16), (221, gv % 8), (208, kind % 256), (176, id % 2 ^ 32), (160, agent % 2 ^ 16), (128, tag % 2 ^ 32),
    (80, off % 2 ^ 48), (72, op % 256), (64, status % 256), (56, (units - 1) % 256)])

/-- A packet of the link block as bytes: its header, then the fields of its kind, each as a word of 8 bytes and data as its bytes, to a boundary of 16. -/
def ghPacketBytes (src : Nat) : Sent → Bytes
  | .ghPacket _ dst gv kind id agent off op tag status data =>
    let fields := if op = 1 then leBytes (data.getD 1 0) (data.getD 0 0) else data.flatMap (leBytes 8)
    let b := ghHeader src dst gv kind id agent off op tag status (ghUnits op data) ++ fields
    b ++ List.replicate ((16 - b.length % 16) % 16) 0
  | _ => []

/-- The payloads of the flits that carry packets one after another, each from a boundary of 16 bytes (14 R465). -/
def flitPayloads (src : Nat) (l : List Sent) : List Bytes :=
  let b := l.flatMap (ghPacketBytes src)
  (List.range ((b.length + 239) / 240)).map (fun i => (b.drop (240 * i)).take 240)

end Sys2Proof.Machine
end

