-- ==== Sys2Proof/Machine/GhPackets.lean ====
section
/-! DEFINITION. Packets that arrive over Ghengo: their admission to a binding, and what they do there (14 R469, R475, 06 R226, 07 R251). -/
namespace Sys2Proof.Machine

/-- The granules of a held key that its target holds too, while and after they are copied (14 R493, Table Ghengo-17). -/
def forwardsTo (k : BhHeld) (off : Nat) : Option Nat :=
  if k.st = 3 ∨ (k.st = 2 ∧ off / 65536 < k.copied) then some k.target else none

/-- The island of the link block by which a port's packets enter. -/
def ghIsland (port : Nat) : Nat := 2336 + port / 2

/-- Kind and identifier of a binding in a packet (14 Table Ghengo-3). -/
def bindIds : GhBind → Nat × Nat
  | .lease id => (1, id.toNat)
  | .channel n => (2, n.toNat)
  | .boathouse a w => (3, a.val * 1024 + w.val)

/-- Where a packet of a module lands under its binding: at a logical seat of a shell here, through its windows or those of a context's binding, or at
another place. -/
inductive GhTo where
  | window (own : Option Nat) (slot lseat off : Nat)
  | place (p : Place)
  deriving DecidableEq, Repr

/-- The key that this module holds as member for a window that a module's packets name: of that home, or else, of the module that moves it here, of
any home (14 R475, R493). -/
def heldBind (s : State) (src bind : Nat) : Option BhHeld :=
  match s.bhHeld.find? (fun k => k.home == src && k.bind == bind) with
  | some k => some k
  | none => s.bhHeld.find? (fun k => k.bind == bind)

/-- Where a packet of a module lands under its binding: none when the binding does not admit it (14 R475, Table Ghengo-6). A lease is a
binding of the lender's resources; packets of a leased seat reach the logical seat windows of the shell that rigs it (07 R251, log 52). -/
def bindTo (s : State) (port src : Nat) (b : GhBind) (off n : Nat) : Option GhTo :=
  let g := portOf s port
  let isl := ghIsland port
  if g.st ≠ 3 ∨ g.peer ≠ src then none
  else match b with
  | .lease id => match lentVia s port src id.toNat with
    | some l =>
      if l.kind = 1 then (l.res[off / 0x200000]?).map (fun i => .place (placeSeat s isl i (off % 0x200000) n))
      else (l.res[off / 0x80000000]?).map (fun c => .place (placeChannel s isl none (chanBase c + off % 0x80000000) n))
    | none => match leaseSlot s port src id.toNat with
      | some (sl, _) =>
        if off / 0x200000 < shellSeats (shellOf s sl) then some (.window none sl (off / 0x200000) (off % 0x200000)) else none
      | none => none
  | .channel n0 =>
    let c := gchanOf s n0.toNat
    if c.st = .opened ∧ c.peer = src ∧ off / 0x200000 < c.count then
      some (.window (some c.ctx) c.shell (c.first + off / 0x200000) (off % 0x200000))
    else none
  -- a member serves only on ports that nobody holds (14 R490)
  | .boathouse a w => if !(freePorts s).contains port then none else (heldBind s src (a.val * 1024 + w.val)).map (fun k => .place (bhPlace s isl k off n))

/-- The key that a packet changes at an address, and the member to which what it leaves there is forwarded (14 R493). -/
def bhTarget (s : State) (src : Nat) (b : GhBind) (p : Place) (off : Nat) : Option (Nat × BhHeld × Nat) :=
  match b, p with
  | .boathouse a w, .cell ga _ _ => (heldBind s src (a.val * 1024 + w.val)).bind (fun k => (forwardsTo k off).map (fun y => (ga, k, y)))
  | _, _ => none

/-- What a packet left in the window of a key that moves is forwarded to the member that it moves to, as a write of its own; the sender of a write is answered
when that member has acknowledged it (14 R493, Table Ghengo-17). -/
def bhForward (s : State) (x : Nat × BhHeld × Nat) (off n : Nat) (back : NetBack) : State :=
  let q := portToward s x.2.2
  let s1 := farSend s q x.2.2 0 3 x.2.1.bind off 0xFFFF 1 [leNat (cellRead s x.1 n), n]
  if back = .none ∨ 16 ≤ q then s1 else { s1 with bhFwd := s1.bhFwd ++ [{ tag := s.ghTag % 2 ^ 32, port := q, back := back }] }

/-- A request of a packet: a peg word is written without an answer. -/
def ghReq : GhOp → Option Req
  | .req r => some r
  | .peg set => some (.write false (leBytes 8 (if set then 1 else 0)))
  | _ => none

/-- Whether an admitted request has not arrived at its place, since others stand before it (01 R34). Toward a logical seat it waits where they wait. -/
def ghHeldOff (s : State) (port : Nat) (t : GhTo) : Bool :=
  match t with
  | .window _ _ _ _ => false
  | .place p => placeStuck s (ghIsland port) p

/-- An admitted request is served: toward a logical seat it goes behind those of its source that wait (06 R200, 07 R251). -/
def ghServe (s : State) (port src : Nat) (b : GhBind) (off : Nat) (t : GhTo) (back : NetBack) (req : Req) (o : Outside) : State :=
  match t with
  | .window own slot l woff =>
    netSettle (netSend true s { slot := slot, lseat := l, off := woff, op := reqOp s (ghIsland port) slot l woff req, src := ghIsland port, back := back, own := own } o)
  | .place p =>
    match req, bhTarget s src b p off with
    | .write ack d, some x => bhForward (reqServe s (ghIsland port) p .none req o) x off d.length (if ack then back else .none)
    | .atomic _ _ _, some x => bhForward (reqServe s (ghIsland port) p back req o) x off (reqLen req) .none
    | _, _ => reqServe s (ghIsland port) p back req o

/-- A response arrives: that of an advance of MD decides it, that of a forwarded write answers the write's sender, that of another waiting request is delivered
by the command of its requester, and one that matches none is discarded and counted (10 R351, R356, 14 R470, R493). -/
def ghResponse (s : State) (p tag st : Nat) : State :=
  match s.advFar.find? (fun a => a.tag == tag && a.port == p) with
  | some a =>
    let s1 := { s with advFar := s.advFar.erase a }
    if st = stOk then advanced s1 a.ctx a.fence a.value else ctxLoss s1 a.ctx none false
  | none => match s.bhFwd.find? (fun f => f.tag == tag && f.port == p) with
  | some f => netAnswer { s with bhFwd := s.bhFwd.erase f } f.back st []
  | none => if s.ghLate = 0 then s else pinc { s with ghLate := s.ghLate - 1 } P.ghLateResponses

/-- The slot under which a contribution over a lease is named here, and the seat where it ends when that is a lent one (06 R226). -/
def ghRedSlot (s : State) (port src id off : Nat) : Option (Nat × Option Nat) :=
  match lentVia s port src id with
  | some l => if l.kind = 1 then (l.res[off / 0x200000]?).map (fun i => (lentSlot l.id, some i)) else none
  | none => (leaseSlot s port src id).map (fun x => (x.1, none))

/-- The virtual channel of a received packet, and the credit that it took (14 Table Ghengo-4, log 49). -/
def ghOpGv : GhOp → Nat
  | .req _ => 0
  | .response _ => 1
  | .red _ _ _ _ _ _ _ _ => 2
  | .peg _ => 3
def ghOpUnits : GhOp → Nat
  | .req (.read _) => 1
  | .req (.write _ d) => 1 + (d.length + 63) / 64
  | .red _ _ _ _ _ _ _ words => 1 + (words.length + 3) / 4
  | .response _ => 1
  | _ => 2

/-- The link block returns credit of a virtual channel in the header of a flit, here an idle one: CREDIT_VC and CREDIT_COUNT, beside the last flit
received (14 Table Ghengo-2, R466). -/
def creditBack (s : State) (p gv units : Nat) : State :=
  emit s (.ghengo p 6 [flitHeader { ackSeq := (portOf s p).rxSeq, creditVc := gv, creditCount := units }])

/-- GH_PACKET_RECEIVE: a delivered packet of an agent is served under its binding and answered with its tag, or denied and counted, a non-posted
one being answered NO_TARGET (14 R475). One beyond the credit its sender held is a protocol error (14 R466, R471). The credit of any other goes back in a
flit header: the link block takes the packet out of its buffer at once (14 R466). A contribution over
a lease enters RED at the ring die of the port (06 R226); only its FRET_LOW and FRET_HIGH flags count (03 R101, 06 R220). -/
def execGhPacketReceive (port : GhPortId) (sender : GhSender) (bind : GhBind) (offset : BitVec 48) (op : GhOp) (check : ChanCheck)
    (excess : Option U32) (s : State) : Ans :=
  let p := port.val
  let off := offset.toNat
  let src := sender.module.toNat
  let agent := sender.agent.toNat
  let tag := sender.tag.toNat
  let (kind, id) := bindIds bind
  if (portOf s p).st ≠ 3 then .next s
  else match excess with
  | some discarded => .next (ghRecover s p ghCauseProtocol discarded.toNat)
  | none =>
  let s1 := creditBack s p (ghOpGv op) (ghOpUnits op)
  match op with
  | .response st => .next (ghResponse s1 p tag st.val)
  | .red group lseat first fret base flags weight words =>
    match (if kind = 1 ∧ (words.length = 4 ∨ words.length = 16) then ghRedSlot s1 p src id off else none) with
    | some (sl, dest) =>
      let route := match (match dest with | some i => some i | none => redDest s1 sl lseat.toNat (ghIsland p)) with
        | some d => redNodes (ghIsland p) d
        | none => []
      let pkt : RedPkt := {
        slot := sl, group := group.toNat, lseat := lseat.toNat, first := first.toNat, fret := fret, base := base.toNat
        flags := flags.toNat % 4, weight := weight.toNat, words := words.map (·.toNat), dest := dest, route := route
        src := [.remote p id agent tag], origins := [(ghIsland p, s1.nextId)] }
      .next { s1 with red := s1.red ++ [pkt], nextId := s1.nextId + 1 }
    | none => .next (farRespond (pinc s1 P.ghRxDenied) p kind id agent tag stNoTarget [])
  | op => match ghReq op with
    | none => .next s1
    | some req =>
      let back : NetBack := if reqAsks req then .ghengo p kind id agent tag else .none
      if reqLen req > 256 then .next s1
      else match bindTo s1 p src bind off (reqLen req) with
      | some t => .next (if ghHeldOff s p t then s else ghServe s1 p src bind off t back req { check := check })
      | none => .next (if reqAsks req then netAnswer (pinc s1 P.ghRxDenied) back stNoTarget [] else pinc s1 P.ghRxDenied)

end Sys2Proof.Machine
end

