-- ==== Sys2Proof/Machine/PapRead.lean ====
section
/-! DEFINITION. What the dictionary's parameters read as, and what it says of them: types, record types, rights, scope (13 R422 to R431,
R440, and the parameter tables of every chapter). -/
namespace Sys2Proof.Machine

/-! ### Types and record types (13 R423, R425) -/

/-- The type codes of Table Dict-1 with their lengths; 0 for a variable length. -/
def typeLengths : List (Nat × Nat) :=
  [(0x01, 1), (0x10, 1), (0x11, 2), (0x12, 4), (0x13, 8), (0x18, 1), (0x19, 2), (0x1A, 4), (0x1B, 8), (0x20, 4), (0x30, 0), (0x31, 0), (0x40, 0), (0x41, 0)]

/-- A field of a record type as its parameter describes it: length, element type, type (13 R425). -/
def recField (len elem type : Nat) : Nat := len * 65536 + elem * 256 + type

/-- The record types in ascending byte order: S1_SHELL, CXL_PORT_STATUS, LEASE, LEND, BUDGET_GRANT (13 R426, R427, 14 Table Ghengo-7, Table
Ghengo-12, 15 Table Power-3). Runs of one-byte entries are arrays of U8 (DEDUCED, log 54). -/
def recordTypes : List (Nat × List Nat) :=
  [(0x0101, [recField 1 0 0x10, recField 1 0 0x10, recField 2 0 0x11, recField 1 0 0x10, recField 1 0 0x10, recField 2 0 0x30, recField 96 0x10 0x41, recField 16 0x10 0x41]),
   (0x0102, [recField 1 0 0x10, recField 1 0 0x10, recField 1 0 0x10, recField 1 0 0x10, recField 1 0 0x10, recField 3 0 0x30, recField 8 0x10 0x41]),
   (0x0103, [recField 11 0 0x30, recField 1 0 0x10, recField 4 0 0x12, recField 2 0 0x11, recField 2 0 0x11, recField 1 0 0x10, recField 1 0 0x10, recField 4 0 0x12,
      recField 4 0 0x12, recField 2 0 0x11]),
   (0x0104, [recField 8 0 0x13, recField 8 0 0x13, recField 8 0 0x13, recField 8 0 0x13, recField 2 0 0x11, recField 2 0 0x11, recField 1 0 0x10, recField 1 0 0x10,
      recField 4 0 0x12, recField 4 0 0x12, recField 2 0 0x11]),
   (0x0105, [recField 2 0 0x11, recField 6 0 0x30, recField 4 0 0x12, recField 4 0 0x12])]

/-- A fixed scalar that every principal reads. -/
def fixedRow (idx sub : Nat) (type : PType) (len v : Nat) : ParamRow :=
  { base := idx, count := 1, lo := sub, hi := sub, type := type, minLen := len, maxLen := len, multiple := len, rights := 0x55, cls := .fixed, persist := .volatile
    scope := .device, default := v, ranges := [] }

/-- The row of a parameter, those of 0x0001 to 0x0FFF among them; none where index and sub-index name no parameter (13 R422, R425, R461). -/
def paramInfo (idx sub : Nat) : Option ParamRow :=
  if idx < 0x100 then (if sub = 0 then (tfind typeLengths idx).map (fixedRow idx 0 .u16 2) else none)
  else if idx < 0x1000 then (tfind recordTypes idx).bind (fun l => if sub = 0 then some (fixedRow idx 0 .u8 1 l.length) else (l[sub - 1]?).map (fixedRow idx sub .u32 4))
  else paramRow (pkey idx sub)

/-- The type code of a row (13 Table Dict-1). -/
def typeCode (t : PType) : Nat :=
  match t with
  | .bool => 0x01 | .u8 => 0x10 | .u16 => 0x11 | .u32 => 0x12 | .u64 => 0x13 | .i16 => 0x19 | .octets => 0x30 | .vstring => 0x31 | .record => 0x40 | .array => 0x41

/-- ELEMENT of a parameter: the element type or record type of an array, or the record type of a record (13 Table Dict-11). -/
def paramElement (base sub : Nat) : Nat :=
  match base, sub with
  | 0x1012, _ => 0x13 | 0x2010, _ => 0x0105 | 0x3002, _ => 0x0101
  | 0x3100, 0x06 => 0x11 | 0x3100, 0x07 => 0x10 | 0x3100, 0x08 => 0x10 | 0x3100, 0x0A => 0x0103
  | 0x4010, 0 => 0 | 0x4010, _ => 0x0102
  | 0x4100, 0x06 => 0x11 | 0x4100, 0x07 => 0x10 | 0x4100, 0x08 => 0x11 | 0x4100, 0x09 => 0x12
  | 0x500A, _ => 0x10 | 0x5013, _ => 0x0103 | 0x5016, _ => 0x0103 | 0x5017, _ => 0x0104 | 0x5019, _ => 0x0104 | 0x5033, _ => 0x11
  | 0x6100, 0x03 => 0x30 | 0x6200, _ => 0x30 | 0x6201, _ => 0x30 | 0x6807, _ => 0x11 | 0x8251, _ => 0x12
  | _, _ => 0

/-- The DESCRIBE response of a row (13 Table Dict-11). -/
def paramDescribe (r : ParamRow) (sub : Nat) : Bytes :=
  leBytes 16 (pack [(96, r.maxLen), (80, paramElement r.base sub), (40, match r.persist with | .volatile => 0 | .flash => 1 | .identity => 2),
    (32, match r.cls with | .fixed => 0 | .shadowed => 1 | .live => 2), (24, r.rights), (0, typeCode r.type)])

/-! ### Rights and scope (13 R428, R429) -/

/-- The two rights bits of a principal: 1 r, 2 w. -/
def rightsOf (r : ParamRow) (who : Principal) : Nat :=
  match who with
  | .operator => bitsOf r.rights 7 6 | .kernel => bitsOf r.rights 5 4 | .tenant => bitsOf r.rights 3 2 | .auditor => bitsOf r.rights 1 0

/-- The function of a session that came through a mailbox. -/
def sessFn (x : Session) : Nat := match x.src with | .mailbox f => f | .endpoint _ _ => 0

/-- Whether a session reaches a parameter (13 Table Dict-5). Sub-index 0 of LEVEL is no function's entry. -/
def paramScope (s : State) (x : Session) (r : ParamRow) (idx sub : Nat) : Bool :=
  match r.scope, x.who with
  | .device, _ => true
  | _, .operator => true
  | _, .auditor => true
  | .func, _ => if r.base = 0x1009 then sub == 0 || sub == sessFn x + 1 else idx - r.base == sessFn x
  | .slot, _ => sessScope s x (idx - r.base)

/-! ### Values (13 R430, and the Effect columns) -/

/-- Where a shell stands, as SHELL_STATE reads (02 Table Shells-2). -/
def shellStCode (t : ShellSt) : Nat :=
  match t with
  | .free => 0 | .idle => 1 | .running => 2 | .frozen => 3 | .saved => 4 | .resetting => 5 | .releasing => 6

/-- CHANNEL_STATE (08 Table Tiers-4). -/
def chanStCode (t : ChanSt) : Nat :=
  match t with
  | .untrained => 0 | .trained => 1 | .failed => 2 | .retired => 3 | .retirePending => 4

/-- GH_CHANNEL_STATE (14 R488). -/
def ghChanCode (t : ChState) : Nat :=
  match t with
  | .closed => 0 | .opening => 1 | .opened => 2 | .peerGone => 3 | .aborting => 4

/-- MIGRATION_REMAINING_MIB: what is still to copy, in MiB (02 Table Shells-3). The spec does not say how a part of a MiB
counts: the sum is rounded up, so that it reads 0 only when nothing is left (DESIGN CHOICE, log 77). -/
def migRemaining (sh : Shell) : Nat :=
  cdiv ((sh.migs.filter (fun m => !m.done)).map (fun m => chanBytes - 65536 * m.copied)).sum (2 ^ 20)

/-- The value of a scalar parameter. -/
def scalarRead (s : State) (x : Session) (r : ParamRow) (idx sub : Nat) : Nat :=
  let k := pkey idx sub
  let i := idx - r.base
  let stored := if r.cls = .shadowed then stagedGet s k else pget s k
  if idx < 0x1000 then r.default
  else match r.base with
  | 0x1008 => if sub = 1 then (if pget s P.compositionMode = 1 then 6 else 4) else if sub = 2 then levelOf s (sessFn x) else stored
  | 0x1009 => if sub = 0 then stored else levelOf s (sub - 1)
  | 0x1400 => if sub = 5 then ctxLive s i else stored
  | 0x2000 => if sub = 0 then stored else plClock s (sub - 1)
  | 0x2001 => if sub = 0 then stored else 10 * plPower s (sub - 1)
  | 0x2016 => min stored (pget s P.seatClockLimitMhz)
  | 0x3005 => (poolSeats s 32).length
  | 0x3006 => (poolChannels s 32).length
  | 0x3007 => (liveShells s).length
  | 0x3100 => if sub = 1 then shellStCode (shellOf s i).st else if sub = 0x0F then catchDeadline s i else if sub = 0x18 then migRemaining (shellOf s i) else stored
  | 0x3200 => if sub = 7 then imagesHeld (shellOf s i) else stored
  | 0x4000 => if sub = 0 then stored else chanStCode (chanOf s (sub - 1)).st
  | 0x5003 => if sub = 0 then stored else (portOf s (sub - 1)).st
  | 0x5004 => if sub = 0 then stored else (portOf s (sub - 1)).peer
  | 0x5032 => 2 * (bhFree s).length
  | 0x5034 => s.bhHomes.length
  | 0x6100 => if sub = 1 then serialDist (fnGet s i 0xC0) (fnGet s i 0xC4) else stored
  | 0x7002 => x.evResult
  | 0x7100 => if sub = 7 then (chainOf s i).lastIndex else stored
  | _ => stored

/-- A CXL_PORT_STATUS record (13 Table Dict-4). A port that found no module present when the islands started has no clock, and is disabled (19 R617; DESIGN
CHOICE, log 54); one whose link is not up has no rate, no width and no devices. A device of type 0xFF is not enumerated. -/
def cxlStatus (s : State) (p : Nat) : Nat :=
  let c := cxlPortOf s p
  if c.up then
    pack ([(32, c.devs.countP (fun d => d.type != 0xFF)), (24, if c.switch then 1 else 0), (16, c.width), (8, c.rate), (0, 2)]
      ++ (c.devs.filter (fun d => decide (d.index < 8))).map (fun d => (64 + 8 * d.index, d.type)))
  else if (islandOf s (2344 + p)).st = .inReset then 3
  else if c.scanning then 1
  else if s.start.islandsUp ∧ !bitOf s.pins.cxlRefclk p then 3
  else 0

/-- A LEASE record with its STATE (14 Table Ghengo-7). -/
def leaseShown (s : State) (r : Nat) : Nat :=
  r - bitsOf r 95 88 * 2 ^ 88 + (((s.borrowed.find? (fun l => l.record / 2 ^ 208 == r / 2 ^ 208)).map (·.st)).getD 0) * 2 ^ 88

/-- A byte-string parameter as staged or in force, `d` while nothing has written it. -/
def octRead (s : State) (r : ParamRow) (k : Nat) (d : Bytes) : Bytes :=
  let b := if r.cls = .shadowed then (tfind s.stagedOcts k).getD (octGet s k) else octGet s k
  if b = [] then d else b

/-- The unconsumed records of a function's undelivered-completion store, oldest first (10 Table Host-14). -/
def ucUnread (s : State) (f : Nat) : Bytes :=
  (List.range (min 256 (serialDist (fnGet s f 0xC0) (fnGet s f 0xC4)))).flatMap (fun i => padTo 64 (tget (fun _ => []) s.ucRecs (f * 256 + (fnGet s f 0xC0 + i) % 256)))

/-- The function log as a session sees it: a T session sees the records of its shells (17 R568). -/
def ownLog (s : State) (x : Session) : List ErrRec :=
  let l := (fnOf s (sessFn x)).errLog
  if x.who = .tenant then l.filter (fun e => decide (2 ≤ e.scope) && bitOf x.mask e.shell) else l

/-- The retained dump's bytes; none while there is none. -/
def dumpBody (s : State) : Bytes := match s.retained.dump with | some d => d.body | none => []

/-- PART_CODE: the identity record's, without its padding (00 Table Scope-2, log 53). -/
def partCode (s : State) : Bytes :=
  if idRecord s = [] then ascii "VZS2-50" else recordPart (idRecord s)

/-- The bytes of a byte-string, record or array parameter, and the code that a read of it is refused with. -/
def bytesRead (s : State) (x : Session) (r : ParamRow) (idx sub : Nat) : Bytes × Nat :=
  let k := pkey idx sub
  let i := idx - r.base
  let sh := shellOf s i
  let ok := fun (b : Bytes) => (b, 0)
  match r.base, sub with
  | 0x1000, _ => ok (ascii "Scehapor S2")
  | 0x1002, _ => ok (partCode s)
  | 0x1003, _ => ok (idRecord s)
  | 0x1005, _ => ok (padTo 1568 Config.krEk)
  | 0x1012, _ => ok ((s.flash.creds.filter (fun e => e.2.used)).flatMap (fun e => leBytes 8 (pack [(0, e.1), (8, e.2.who), (32, e.2.seq)])))
  | 0x2010, _ => ok (padTo 16 (octGet s k))
  | 0x3100, 0x06 => ok ((sh.rig.seats.map seatIdent).flatMap (leBytes 2))   -- the active list (02 Table Shells-3)
  | 0x3100, 0x07 => ok (sh.rig.channels.flatMap (leBytes 1))
  | 0x3100, 0x08 => ok (sh.staging.ports.flatMap (leBytes 1))
  | 0x3100, 0x0A => ok (sh.staging.leases.flatMap (fun l => leBytes 32 (leaseShown s l)))
  | 0x4010, _ => ok (leBytes 16 (cxlStatus s (sub - 1)))
  | 0x4011, _ => ok (padTo 32 (octRead s r k []))
  | 0x4100, 0x06 => ok (sh.staging.cxlMin.flatMap (leBytes 2))
  | 0x4100, 0x07 => ok (sh.staging.cxlWeight.flatMap (leBytes 1))
  | 0x4100, 0x08 => ok ((List.range 12).flatMap (fun c => leBytes 2 (scaleOf s i c)))
  | 0x4100, 0x09 => ok (padTo 48 (octGet s k))
  | 0x500A, _ => ok ((List.range 256).flatMap (fun c => leBytes 1 (ghChanCode (gchanOf s c).st)))
  | 0x5013, _ => ok (padTo 32 (octGet s k))
  | 0x5016, _ => ok (s.borrowed.flatMap (fun l => leBytes 32 (leaseShown s l.record)))
  | 0x5017, _ => ok ((s.lent.map (fun l => (l, 0)) ++ s.lentEnding).flatMap (fun (e : LeaseOut × Nat) => leBytes 48 (lendRecord e.1 e.2 0 s.tb)))
  | 0x5019, _ => ok (s.lendLog.flatMap (leBytes 48))
  | 0x5030, _ => ok (padTo 12 (octRead s r k []))
  | 0x6100, _ => ok (ucUnread s i)
  | 0x6200, _ => ok (s.errLog.flatMap errBytes)
  | 0x6201, _ => ok ((ownLog s x).flatMap errBytes)
  | 0x6807, _ => ok (s.start.failedSeats.flatMap (fun n => leBytes 2 (seatIdent n)))
  | 0x6822, _ => ok (padTo 64 ((dumpBody s).take 64))
  | 0x6823, _ => ok (padTo 65536 (slice (dumpBody s) (65536 * (sub - 1)) 65536))
  | 0x7001, _ => ok x.evidence
  | 0x7100, 0x05 => dbgRead s i
  | 0x7100, 0x06 => ok (padTo 64 (chainOf s i).head)
  | 0x8251, _ => ok ((List.range 2353).flatMap (fun n => leBytes 4 (islandOf s n).discards))
  | _, _ => ok (octRead s r k [])

/-- The value of a parameter in a session, and the code that a read of it is refused with. -/
def paramValue (s : State) (x : Session) (r : ParamRow) (idx sub : Nat) : Bytes × Nat :=
  match r.type with
  | .octets | .vstring | .record | .array => bytesRead s x r idx sub
  | _ => (leBytes r.maxLen (scalarRead s x r idx sub), 0)

end Sys2Proof.Machine
end

