-- ==== Sys2Proof/Machine/PapWrite.lean ====
section
/-! DEFINITION. What a dictionary write of a whole value does: the checks from TYPE_LENGTH on, and each parameter's effect with its chapter's
own checks (13 R424, R430 to R433, R454, R458, R626). -/
namespace Sys2Proof.Machine

/-! ### Checks of the value (13 Table Dict-14) -/

/-- TYPE_LENGTH: whether a length lies in the type's range; IMAGE_SEAL_EK is empty or 1,568 bytes (13 R424, R449, 18 Table Sec-13). -/
def lengthOk (r : ParamRow) (sub n : Nat) : Bool :=
  if r.base = 0x7100 ∧ sub = 8 then n == 0 || n == 1568
  else decide (n ≤ 65536) && decide (r.minLen ≤ n) && decide (n ≤ r.maxLen) && n % r.multiple == 0

/-- Whether an S1_SHELL record has a nonzero reserved field, bytes beyond its counts among them (13 R426). -/
def s1Reserved (b : Bytes) : Bool :=
  field b 6 2 != 0 || ((slice b 8 96).drop (field b 4 1)).any (· != 0) || ((slice b 104 16).drop (field b 5 1)).any (· != 0)

/-- The records of an array of `w`-byte elements. -/
def records (w : Nat) (b : Bytes) : List Bytes := (List.range (b.length / w)).map (fun i => slice b (w * i) w)

/-- RESERVED_NONZERO: a reserved field of the value is nonzero (13 R424). -/
def reservedBad (r : ParamRow) (sub : Nat) (b : Bytes) : Bool :=
  match r.base, sub with
  | 0x2010, _ => bitsOf (leNat b) 63 16 != 0
  | 0x3002, _ => (records 120 b).any s1Reserved
  | 0x3100, 0x06 => (records 2 b).any (fun x => bitsOf (leNat x) 15 12 != 0)
  | 0x3100, 0x0A => (records 32 b).any (fun x => bitsOf (leNat x) 87 0 != 0)
  | 0x3100, 0x12 => decide (leNat b ≥ 2)
  | 0x4011, _ => bitsOf (leNat b) 254 248 != 0 || bitsOf (leNat b) 205 176 != 0
  | 0x5013, _ => bitsOf (leNat b) 87 0 != 0
  | 0x5014, _ => bitsOf (leNat b) 15 8 != 0
  | _, _ => false

/-- Whether a move of a ring's head goes backward or past its tail (18 R602). -/
def headBad (s : State) (head tail v : Nat) : Bool := decide (serialDist (pget s head) v > serialDist (pget s head) (pget s tail))

/-- RANGE: the value lies outside the type or the limits stated for the parameter; a counter takes only 0 (13 R424, R458, R626, 18 R602). -/
def rangeBad (s : State) (r : ParamRow) (sub : Nat) (b : Bytes) : Bool :=
  let v := leNat b
  match r.base, sub with
  | 0x1008, 2 => decide (v = 0 ∨ v ≥ 4)
  | 0x1009, _ => decide (v = 0 ∨ v ≥ 4)
  | 0x4003, _ => decide (v > 2)
  | 0x4100, 0x09 => b.any (· != 0)
  | 0x5002, _ => decide (v > 1)
  | 0x7020, 3 => headBad s P.wakeRingHead P.wakeRingTail v
  | 0x7021, 3 => headBad s P.sealRingHead P.sealRingTail v
  | _, _ => match r.type with
    | .octets | .vstring | .record | .array => false
    | .bool => decide (v > 1)
    | _ => r.ranges != [] && !r.ranges.any (fun p => decide (p.1 ≤ v) && decide (v ≤ p.2))

/-- Whether any shell is RUNNING. -/
def anyRunning (s : State) : Bool := s.shells.any (fun e => e.2.st == .running)

/-- STATIC_RUNNING: the rings' places while a shell is RUNNING (18 R602). -/
def staticBad (s : State) (r : ParamRow) (sub : Nat) : Bool := (r.base == 0x7020 || r.base == 0x7021) && (sub == 1 || sub == 2) && anyRunning s

/-- Level writes: LEVEL_BUSY while the function holds a context, LEVEL_UNSUPPORTED (13 R458). -/
def levelCode (s : State) (x : Session) (r : ParamRow) (sub v : Nat) : Nat :=
  if r.base = 0x1008 ∨ r.base = 0x1009 then
    let fn := if r.base = 0x1008 then sessFn x else sub - 1
    if ctxLive s fn ≠ 0 then 0x0912 else if bitOf (if pget s P.compositionMode = 1 then 6 else 4) v then 0 else 0x0911
  else 0

/-- The first failing check of a whole value from TYPE_LENGTH to LEVEL_UNSUPPORTED; 0 when all pass (13 R454). -/
def valueCode (s : State) (x : Session) (r : ParamRow) (sub : Nat) (b : Bytes) : Nat :=
  if !lengthOk r sub b.length then 0x090A
  else if reservedBad r sub b then 0x090C
  else if rangeBad s r sub b then 0x090B
  else if staticBad s r sub then 0x090D
  else levelCode s x r sub (leNat b)

/-! ### Effects with their chapters' checks -/

/-- An encapsulation key passes the check of FIPS 203: each of its 1,024 coefficients of 12 bits is below 3,329 (18 R600, Table Sec-12; PRESUMED,
log 55). -/
def ekOk (b : Bytes) : Bool :=
  (List.range 512).all (fun i => let v := field b (3 * i) 3; decide (v % 4096 < 3329) && decide (v / 4096 < 3329))

/-- Whether a write of a slot's parameter is refused with 0x0114: any write of 0x3100 + s while a commit is being checked, and a write of a
shadowed field until it is decided (02 R53, Table Shells-5). -/
def rigBusy (s : State) (r : ParamRow) (slot : Nat) : Bool :=
  r.scope == .slot && (match r.base, r.cls with
    | 0x2100, .shadowed | 0x3100, .shadowed | 0x3200, .shadowed | 0x4100, .shadowed => pget s (P.rigStatus slot) != 0
    | 0x3100, _ => pget s (P.rigStatus slot) == 1
    | _, _ => false)

/-- A list of a slot's staging is written (02 R53). -/
def stageList (s : State) (slot base sub : Nat) (b : Bytes) : State :=
  let sh := shellOf s slot
  let g := sh.staging
  let g1 : Rig := match base, sub with
    | 0x3100, 0x06 => { g with seats := leWords 2 (b.length / 2) b }
    | 0x3100, 0x07 => { g with channels := leWords 1 b.length b }
    | 0x3100, 0x08 => { g with ports := leWords 1 b.length b }
    -- STATE is ignored when written (14 Table Ghengo-7)
    | 0x3100, _ => { g with leases := (records 32 b).map (fun x => leNat x - bitsOf (leNat x) 95 88 * 2 ^ 88) }
    | _, 0x06 => { g with cxlMin := leWords 2 8 b }
    | _, _ => { g with cxlWeight := leWords 1 8 b }
  shellPut s slot { sh with staging := g1 }

/-- A scalar of the staging, or a scalar in force, is written. -/
def scalarPut (s : State) (r : ParamRow) (k v : Nat) : State :=
  if r.cls = .shadowed then { s with staged := tins (tdel s.staged k) k v } else pset s k v

/-- A byte string of the staging, or one in force, is written. -/
def bytesPut (s : State) (r : ParamRow) (k : Nat) (b : Bytes) : State :=
  if r.cls = .shadowed then { s with stagedOcts := tins (tdel s.stagedOcts k) k b } else octPut s k b

/-- GH_PORT_ENABLE written: each bit that changes acts on its port; `discarded` posted writes were in flight or waiting on the ports that close
(14 Table Ghengo-5, R471). -/
def ghEnableMask (s : State) (v discarded : Nat) : State :=
  ((List.range 16).foldl (fun (a : State × Nat) p =>
    if bitOf (pget a.1 P.ghPortEnable) p = bitOf v p then a
    else (ghEnable a.1 p (bitOf v p) a.2, if (portOf a.1 p).st = 3 then 0 else a.2)) (s, discarded)).1

/-- FALLBACK_BUDGET_W written: it is in force while no grant is live (15 Table Power-7, Table Power-8). -/
def fallbackWrite (s : State) (v : Nat) : State × Nat :=
  if v < 1000 then (s, 0x0603)
  else if v > pget s P.powerLimitW then (s, 0x0602)
  else
    let s1 := pset s P.fallbackBudgetW v
    (if pget s P.budgetState = 1 then s1 else budgetSet s1 v, 0)

/-- FREEZE_CTL written; its code goes to FREEZE_RESULT (02 R77, Table Shells-2). -/
def freezeWrite (s : State) (slot v : Nat) : State :=
  match v with
  | 1 => freezeStart s slot
  | 2 => freezeSave s slot
  | 3 => freezeThaw s slot
  | _ => freezeLoad s slot

/-- The effect of a write whose value has passed the dictionary's checks, and its chapter's code: 0 when it is accepted. `k` names the session. -/
def paramEffect (s : State) (k : Nat) (x : Session) (r : ParamRow) (idx sub : Nat) (b : Bytes) (discarded : Nat) : State × Nat :=
  let v := leNat b
  let key := pkey idx sub
  let i := idx - r.base
  let done := fun (s : State) => (s, 0)
  let plain : State × Nat := match r.type with
    | .octets | .vstring | .record | .array => done (bytesPut s r key b)
    | _ => done (scalarPut s r key v)
  match r.base, sub with
  | 0x1008, _ => done (pset s (P.level (sessFn x)) v)
  | 0x1011, _ => credWrite s (x.who == .kernel && sessFn x != 0) b
  | 0x1400, 2 =>
    if ((List.range 32).filter (· != i)).foldl (fun a f => a + pget s (P.residentMin f)) v > 64 then (s, 0x0A0E) else plain
  | 0x2010, _ => budgetGrantWrite s v
  | 0x2014, _ => fallbackWrite s v
  | 0x2016, _ => if v < 500 ∨ v % 25 ≠ 0 then (s, 0x0608) else if v > pget s P.seatClockLimitMhz then (s, 0x0602) else plain
  | 0x2018, _ => if v < 1 ∨ v > 1000 then (s, 0x0609) else plain
  | 0x2019, _ => if v < 80 ∨ v > 105 then (s, 0x0609) else plain
  | 0x2100, 2 => if v = 0 then (s, 0x0609) else if rigBusy s r i then (s, 0x0114) else plain
  | 0x2100, 3 => if v > 7 then (s, 0x0609) else plain
  | 0x3100, 0x0C => rigCommitWrite leaseAsk s i v (x.who == .kernel)
  | 0x3100, 0x06 | 0x3100, 0x07 | 0x3100, 0x08 | 0x3100, 0x0A | 0x4100, 0x06 | 0x4100, 0x07 =>
    if rigBusy s r i then (s, 0x0114) else done (stageList s i r.base sub b)
  | 0x3100, 0x10 => if rigBusy s r i then (s, 0x0114) else done (freezeWrite s i v)
  | 0x3200, 6 => preemptCtlWrite s i v
  | 0x4001, _ => done (chanMaint s (v / 256) (v % 256))
  | 0x4012, _ => done (cxlCommitWrite s)
  | 0x4015, _ => done (cxlRescanWrite s v)
  | 0x4081, _ => if anyRunning s then (s, 0x0408) else plain
  | 0x5001, _ => done (ghEnableMask s v discarded)
  | 0x5005, _ => done (ghMaint s v)
  | 0x5013, _ => done (octPut s P.admLeaseReq (leBytes 32 (v - bitsOf v 95 88 * 2 ^ 88)))
  | 0x5014, _ => done (leaseCmd s v)
  | 0x5018, _ => lentRevoke s v
  | 0x6805, _ => plain
  | 0x6810, _ => shellResetWrite s v
  | 0x6820, _ => done (dumpCtlTake s)
  | 0x6825, _ => done (dumpClear s)
  | 0x7000, _ => evidenceWrite s k b
  | 0x7012, _ => floorWrite s v
  | 0x7100, 1 => debugWrite s i v
  | 0x7100, 5 => dbgWrite s i b
  | 0x7100, 8 => if b = [] ∨ ekOk b then plain else (s, 0x0710)
  | _, _ => if rigBusy s r i then (s, 0x0114) else plain

/-- Whether a write changes a value in flash, so that it counts as a flash write; CRED_INSTALL counts its own (13 R431, R433). -/
def flashWrites (s : State) (x : Session) (r : ParamRow) (idx sub : Nat) (b : Bytes) : Bool :=
  r.persist == .flash && idx != 0x1011 && (paramValue s x r idx sub).1 != b

/-- Decide the whole value of a write: the checks in the order of Table Dict-14, the flash budget, and the effect (13 R433, R434, R454). -/
def paramWrite (s : State) (k : Nat) (x : Session) (r : ParamRow) (idx sub : Nat) (b : Bytes) (discarded : Nat) : State × Nat :=
  let c := valueCode s x r sub b
  if c ≠ 0 then (s, c)
  else if flashWrites s x r idx sub b then
    match flashSpend s with
    | none => (s, 0x0910)
    | some s1 => let (s2, c2) := paramEffect s1 k x r idx sub b discarded; if c2 = 0 then (s2, 0) else (s, c2)
  else paramEffect s k x r idx sub b discarded

end Sys2Proof.Machine
end

