-- ==== Sys2Proof/Machine/Pap.lean ====
section
/-! DEFINITION. The Parameter Access Protocol: requests, sessions, segments, and the mailbox (13 R434 to R455, 18 R583). -/
namespace Sys2Proof.Machine

/-! ### The header (13 Table Dict-9) -/

def hVersion (h : Nat) : Nat := bitsOf h 191 184
def hOp (h : Nat) : Nat := bitsOf h 183 176
def hLast (h : Nat) : Bool := bitOf h 169
def hSession (h : Nat) : Nat := bitsOf h 167 152
def hTag (h : Nat) : Nat := bitsOf h 151 136
def hIndex (h : Nat) : Nat := bitsOf h 135 120
def hSub (h : Nat) : Nat := bitsOf h 119 112
def hOffset (h : Nat) : Nat := bitsOf h 95 64
def hTotal (h : Nat) : Nat := bitsOf h 63 32

/-- A number with bits [hi:lo] replaced. -/
def putBits (h hi lo v : Nat) : Nat := h - bitsOf h hi lo * 2 ^ lo + v % 2 ^ (hi + 1 - lo) * 2 ^ lo

/-- The response header of a request: its copy, with RESPONSE and CODE (13 R439). -/
def respHeader (h code : Nat) : Nat := putBits (putBits h 168 168 1) 111 96 code

/-- The largest payload of a transport (13 R438). -/
def papLimit (src : PapSrc) : Nat := match src with | .endpoint _ _ => 992 | .mailbox _ => 4064

/-- PAP_FORMAT, but for R446: a reserved header field, CODE or RESPONSE nonzero, an unlisted OP, an unused field nonzero, SESSION nonzero in OPEN,
or a payload whose length or zero fields are wrong for OP (13 R438, R440, Table Dict-10, 18 R583). -/
def papFormatBad (src : PapSrc) (m : PapMsg) : Bool :=
  let h := m.header
  let op := hOp h
  let n := m.payload.length
  decide (n > papLimit src) || bitsOf h 175 170 != 0 || bitOf h 168 || bitsOf h 111 96 != 0 || bitsOf h 31 0 != 0 || op == 0 || decide (op > 7)
    || (op != 5 && (hLast h || hTotal h != 0)) || (!(op == 4 || op == 5) && hOffset h != 0)
    || (!(op == 4 || op == 5 || op == 6) && (hIndex h != 0 || hSub h != 0))
    || (op == 1 && (hSession h != 0 || n != 8 || field m.payload 1 3 != 0 || (field m.payload 0 1 != 2 && field m.payload 4 4 != 0)))
    || (op == 2 && (n != 40 || field m.payload 1 7 != 0)) || ((op == 3 || op == 4 || op == 6 || op == 7) && n != 0)

/-! ### Sessions (13 R441 to R445) -/

/-- The key of the session that a request of a source names, if it is open to it (13 R443). Session 0 of a mailbox is the kernel driver's. -/
def papSession (s : State) (src : PapSrc) (sid : Nat) : Option Nat :=
  match src with
  | .mailbox f => if sid = 0 then some (65536 + f) else (tfind s.sessions sid).bind (fun x => if x.src = src then some sid else none)
  | .endpoint _ _ => (tfind s.sessions sid).bind (fun x => if x.src = src then some sid else none)

/-- The last decided request of a conversation and its response; the OPENs of an endpoint are one conversation (13 R446, log 56). -/
def papLast (s : State) (src : PapSrc) (sid : Nat) : Option (PapMsg × PapMsg) :=
  match src, sid with
  | .endpoint b e, 0 => (endpointOf s b e).last
  | _, _ => (papSession s src sid).bind (fun k => (sessOf s k).last)

def papLastPut (s : State) (src : PapSrc) (sid : Nat) (q r : PapMsg) : State :=
  match src, sid with
  | .endpoint b e, 0 => endpointPut s b e { endpointOf s b e with last := some (q, r) }
  | _, _ => match papSession s src sid with
    | some k => sessPut s k { sessOf s k with last := some (q, r) }
    | none => s

/-- A request restarts a session's timers, with the times then in force (13 R445, R460). -/
def papTouch (s : State) (k : Nat) : State :=
  sessPut s k { sessOf s k with tbLast := s.tb, idleS := pget s P.sessionIdleS, segMs := pget s P.segmentTimeoutMs }

/-- The identifier that has been free longest (13 R443). -/
def papTakeId (s : State) : Option (Nat × State) :=
  if s.nextSession < 65536 then some (s.nextSession, { s with nextSession := s.nextSession + 1 })
  else match s.freeSessions with
    | n :: t => some (n, { s with freeSessions := t })
    | [] => none

/-- The principal that OPEN names; none for a code that is none. -/
def principalOf (n : Nat) : Option Principal :=
  match n with | 0 => some .operator | 1 => some .kernel | 2 => some .tenant | 3 => some .auditor | _ => none

def principalCode (w : Principal) : Nat := match w with | .operator => 0 | .kernel => 1 | .tenant => 2 | .auditor => 3

/-- PRINCIPAL_TRANSPORT, SESSION_LIMIT and the lockout of an OPEN; 0 when all pass (13 Table Dict-12, R442 to R444). -/
def openCode (s : State) (src : PapSrc) (p mask : Nat) : Nat :=
  match src with
  | .endpoint b e =>
    if p ≠ 0 ∧ p ≠ 3 then 0x0906
    else if 16 ≤ s.sessions.countP (fun x => match x.2.src with | .endpoint _ _ => true | .mailbox _ => false) then 0x0904
    else if (endpointOf s b e).lockedUntil.isSome then 0x0905
    else 0
  | .mailbox f =>
    if p ≠ 2 ∨ mask = 0 ∨ (List.range 32).any (fun i => bitOf mask i && !shellOwned s f i) then 0x0906
    else if 8 ≤ s.sessions.countP (fun x => decide (x.1 < 65536) && x.2.src == .mailbox f) then 0x0904
    else 0

/-- What a decided request leaves: the state, the response's header and payload, and a device start that follows it (DEVICE_RESET). -/
structure PapOut where
  st : State
  header : Nat
  payload : Bytes := []
  reset : Nat := 0

/-- A response that carries a code and nothing else. -/
def papCode (s : State) (h code : Nat) : PapOut := { st := s, header := respHeader h code }

/-- OPEN (13 R441 to R445): a session, with a challenge of free bytes for O and A (log 1). -/
def papOpen (s : State) (src : PapSrc) (m : PapMsg) : PapOut :=
  let p := field m.payload 0 1
  let mask := field m.payload 4 4
  let c := openCode s src p mask
  if c ≠ 0 then papCode s m.header c
  else match papTakeId s, principalOf p with
    | some (n, s1), some who =>
      let (ch, s2) := if who = .tenant then ([], s1) else freshNonce s1
      let x : Session := { st := if who = .tenant then .opened else .challenged, src := src, who := who, mask := mask, challenge := ch, tbOpen := s.tb }
      { st := sessionsCount (papTouch (sessPut s2 n x) n), header := putBits (respHeader m.header 0) 167 152 n, payload := ch }
    | _, _ => papCode s m.header 0x0904

/-- The proof that an AUTH must carry (18 R583). -/
def authProof (s : State) (n : Nat) (x : Session) (slot : Nat) : Bytes :=
  let (b, e) := match x.src with | .endpoint b e => (b, e) | .mailbox _ => (0, 0)
  let c : Cred := tget (fun _ => {}) s.flash.creds slot
  Config.kmac256 c.key
    (x.challenge ++ leBytes 2 n ++ leBytes 1 (principalCode x.who) ++ leBytes 1 b ++ leBytes 1 e) 32 (ascii "VZS2-AUTH")

/-- Whether an AUTH passes: the slot holds a credential of the session's principal, and the proof matches (18 R583). -/
def authOk (s : State) (n : Nat) (x : Session) (pl : Bytes) : Bool :=
  let c : Cred := tget (fun _ => {}) s.flash.creds (field pl 0 1)
  c.used && c.who == principalCode x.who && authProof s n x (field pl 0 1) == pl.drop 8

/-- A failed AUTH is counted; the third of its endpoint within AUTH_LOCKOUT_S locks it out (13 R444). -/
def authFail (s : State) (src : PapSrc) : State :=
  let s1 := pinc s P.authFailures
  match src with
  | .mailbox _ => s1
  | .endpoint b e =>
    let w := pget s P.authLockoutS * 1000000000
    let ep := endpointOf s1 b e
    let l := s.tb :: ep.fails.filter (fun t => decide (s.tb < t + w))
    endpointPut s1 b e (if l.length ≥ 3 then { ep with fails := [], lockedUntil := some (s.tb + w) } else { ep with fails := l })

/-- AUTH over a challenge (13 Table Dict-13). -/
def papAuth (s : State) (src : PapSrc) (k : Nat) (m : PapMsg) : PapOut :=
  let x := sessOf s k
  if authOk s k x m.payload then papCode (sessPut s k { x with st := .opened, challenge := [] }) m.header 0
  else papCode (sessionFree (authFail s src) k) m.header 0x0905

/-- A session leaves WRITING or READING; an abandoned write is counted (13 Table Dict-13). -/
def papLeave (s : State) (k : Nat) : State := sessPut s k { sessOf s k with st := .opened, wBytes := [], snap := [] }
def papAbandon (s : State) (k : Nat) : State := pinc (papLeave s k) P.segmentsAbandoned

/-! ### Reads and writes -/

/-- The checks from LOCKED to STAGE: the code, and the parameter's row (13 R428, R429, R435, R461). -/
def papCheck (s : State) (x : Session) (h : Nat) : Nat × ParamRow :=
  let idx := hIndex h
  let sub := hSub h
  let none_ := fixedRow idx sub .u8 1 0
  if idx ≥ 0xF000 then (0x0914, none_)
  else match paramInfo idx sub with
    | none => (0x0908, none_)
    | some r =>
      let need : Nat := if hOp h = 4 then 0 else 1
      if (hOp h ≠ 6 ∧ !bitOf (rightsOf r x.who) need) ∨ !paramScope s x r idx sub then (0x0909, r)
      else if s.start.sigFault then
        (if hOp h ≠ 5 ∧ ((0x1000 ≤ idx ∧ idx < 0x2000) ∨ (0x6800 ≤ idx ∧ idx < 0x6900)) then 0 else 0x0915, r)
      else if hOp h = 5 ∧ r.cls = .live ∧ 0x3000 ≤ idx ∧ idx < 0x6000 ∧ !(pget s P.startStage == 5 || pget s P.startStage == 6) then (0x0915, r)
      else (0, r)

/-- The response to a read of a value from an offset: up to one payload, with OFFSET, TOTAL and LAST (13 R450). Evidence that has been read to its
end is no longer held (18 R584). -/
def papSegment (s : State) (src : PapSrc) (k h : Nat) (v : Bytes) : PapOut :=
  let d := slice v (hOffset h) (papLimit src)
  let last := decide (hOffset h + d.length ≥ v.length)
  let s1 := if last ∧ pkey (hIndex h) (hSub h) = P.evidence then sessPut s k { sessOf s k with evidence := [], evResult := 0 } else s
  { st := s1, header := putBits (putBits (respHeader h 0) 169 169 (if last then 1 else 0)) 63 32 v.length, payload := d }

/-- READ in an open session (13 R450, Table Dict-13). -/
def papReadOpen (s : State) (src : PapSrc) (k h : Nat) : PapOut :=
  let x := sessOf s k
  let (c, r) := papCheck s x h
  if c ≠ 0 then papCode s h c
  else if hOffset h ≠ 0 then papCode s h 0x090E
  else
    let (v, c2) := paramValue s x r (hIndex h) (hSub h)
    if c2 ≠ 0 then papCode s h c2
    else if v.length > papLimit src then
      papSegment (sessPut s k { x with st := .reading, rKey := pkey (hIndex h) (hSub h), snap := v }) src k h v
    else papSegment s src k h v

/-- Decide a whole value: its checks come first again (13 R448). A write of DEVICE_RESET is answered before its start begins. -/
def papDecide (s : State) (k h : Nat) (v : Bytes) (discarded : Nat) : PapOut :=
  let x := sessOf s k
  let (c, r) := papCheck s x h
  if c ≠ 0 then papCode s h c
  else
    let (s1, c1) := paramWrite s k x r (hIndex h) (hSub h) v discarded
    { st := s1, header := respHeader h c1, reset := if c1 = 0 ∧ pkey (hIndex h) (hSub h) = P.deviceReset then leNat v else 0 }

/-- What refuses a write whatever its value, beside the checks before: a level while its function holds a context, the flash budget and a VF for
CRED_INSTALL, PACING_ENABLE while a shell runs, a request for evidence while one runs, debug data without a session, and a slot's staging while a commit is
being checked (13 R433, R449, R458, 02 R53, 08 R300, 18 R582, R584, R591). -/
def segmentCode (s : State) (x : Session) (r : ParamRow) (idx sub : Nat) : Nat :=
  match r.base, sub with
  | 0x1008, _ | 0x1009, _ => if ctxLive s (if r.base = 0x1008 then sessFn x else sub - 1) ≠ 0 then 0x0912 else 0
  | 0x1011, _ => if (flashSpend s).isNone then 0x0910 else if x.who = .kernel ∧ sessFn x ≠ 0 then 0x0707 else 0
  | 0x4081, _ => if anyRunning s then 0x0408 else 0
  | 0x7000, _ => if x.signing ∨ x.evidence ≠ [] ∨ s.sessions.countP (fun e => e.2.signing || e.2.evidence != []) ≥ 16 then 0x070B else 0
  | 0x7100, 5 => if pget s (P.debugState (idx - r.base)) = 0 then 0x070C else 0
  | 0x3100, 0x0C => 0
  | _, _ => if rigBusy s r (idx - r.base) then 0x0114 else 0

/-- WRITE in an open session: a whole value, or a first segment, which is checked for everything but the value (13 R448, R449). -/
def papWriteOpen (s : State) (k : Nat) (m : PapMsg) (discarded : Nat) : PapOut :=
  let h := m.header
  let x := sessOf s k
  let (c, r) := papCheck s x h
  let n := m.payload.length
  if c ≠ 0 then papCode s h c
  else if hOffset h ≠ 0 ∨ n > hTotal h ∨ (hLast h ∧ n ≠ hTotal h) then papCode s h 0x090E
  else if hLast h then papDecide s k h m.payload discarded
  else if hTotal h > 65536 ∨ !lengthOk r (hSub h) (hTotal h) then papCode s h 0x090A
  else if staticBad s r (hSub h) then papCode s h 0x090D
  else if segmentCode s x r (hIndex h) (hSub h) ≠ 0 then papCode s h (segmentCode s x r (hIndex h) (hSub h))
  else papCode (sessPut s k { x with st := .writing, wKey := pkey (hIndex h) (hSub h), wTotal := hTotal h, wBytes := m.payload }) h 0

/-- WRITE in WRITING: a segment in order, or one that drops the staged bytes (13 R448, Table Dict-13). -/
def papWriteNext (s : State) (k : Nat) (m : PapMsg) (discarded : Nat) : PapOut :=
  let h := m.header
  let x := sessOf s k
  let b := x.wBytes ++ m.payload
  if pkey (hIndex h) (hSub h) ≠ x.wKey ∨ hTotal h ≠ x.wTotal ∨ hOffset h ≠ x.wBytes.length ∨ b.length > x.wTotal ∨ (hLast h ∧ b.length ≠ x.wTotal) then
    papCode (papLeave s k) h 0x090E
  else if hLast h then papDecide (papLeave s k) k h b discarded
  else papCode (sessPut s k { x with wBytes := b }) h 0

/-- READ, WRITE, DESCRIBE or KEEPALIVE in state OPEN (13 Table Dict-13). -/
def papInOpen (s : State) (src : PapSrc) (k : Nat) (m : PapMsg) (discarded : Nat) : PapOut :=
  let h := m.header
  match hOp h with
  | 4 => papReadOpen s src k h
  | 5 => papWriteOpen s k m discarded
  | 6 =>
    let (c, r) := papCheck s (sessOf s k) h
    if c ≠ 0 then papCode s h c else { st := s, header := respHeader h 0, payload := paramDescribe r (hSub h) }
  | _ => papCode s h 0

/-- A request of an open session in its state; the checks from LOCKED to STAGE come before (13 R445, Table Dict-13). -/
def papInState (s : State) (src : PapSrc) (k : Nat) (m : PapMsg) (discarded : Nat) : PapOut :=
  let x := sessOf s k
  let h := m.header
  let c := if 4 ≤ hOp h ∧ hOp h ≤ 6 then (papCheck s x h).1 else 0
  if c ≠ 0 then papCode s h c
  else match x.st with
  | .writing => if hOp h = 5 then papWriteNext s k m discarded else papInOpen (papAbandon s k) src k m discarded
  | .reading =>
    if hOp h = 4 ∧ pkey (hIndex h) (hSub h) = x.rKey ∧ 0 < hOffset h ∧ hOffset h < x.snap.length then papSegment s src k h x.snap
    else papInOpen (papLeave s k) src k m discarded
  | _ => papInOpen s src k m discarded

/-- CLOSE: the session is freed; session 0 of a mailbox stays (13 R445). -/
def papClose (s : State) (k : Nat) (h : Nat) : PapOut :=
  if k ≥ 65536 then papCode s h 0
  else papCode (sessionFree (if (sessOf s k).st = .writing then papAbandon s k else s) k) h 0

/-- A request that is no repeat, in the check order of Table Dict-14 (13 R445, R454); `busy`: it arrived while one of its session was undecided (R447). -/
def papRequest (s : State) (src : PapSrc) (m : PapMsg) (busy : Bool) (discarded : Nat) : PapOut :=
  let h := m.header
  if hVersion h ≠ 1 then papCode s h 0x0901
  else if papFormatBad src m then papCode s h 0x0902
  else if hOp h = 1 then papOpen s src m
  else match papSession s src (hSession h) with
    | none => papCode s h 0x0903
    | some k =>
      let x := sessOf s k
      if (x.st = .challenged ∧ hOp h ≠ 2 ∧ hOp h ≠ 3) ∨ (hOp h = 2 ∧ x.st ≠ .challenged) then papCode (papTouch s k) h 0x0903
      else if busy then papCode (papTouch s k) h 0x0907
      else
        let s1 := papTouch s k
        if hOp h = 3 then papClose s1 k h else if hOp h = 2 then papAuth s1 src k m else papInState s1 src k m discarded

/-- Requests answered with 0x0901 to 0x0907 or 0x090E are counted (13 R454). -/
def papCount (s : State) (code : Nat) : State := if (0x0901 ≤ code ∧ code ≤ 0x0907) ∨ code = 0x090E then pinc s P.papProtocolErrors else s

/-- A request is decided: a repeat of the conversation's last request has the stored response again, and one that reuses its TAG with any difference is
refused (13 R446). Any of them restarts the idle timer of its session (13 R445). One refused as BUSY is not decided, and no response of it is stored. -/
def papAnswer (s : State) (src : PapSrc) (m : PapMsg) (busy : Bool) (discarded : Nat) : PapOut :=
  let h := m.header
  let s0 := match papSession s src (hSession h) with | some k => papTouch s k | none => s
  let fresh : PapOut :=
    let o := papRequest s0 src m busy discarded
    let c := bitsOf o.header 111 96
    { o with st := if c = 0x0907 then papCount o.st c else papLastPut (papCount o.st c) src (hSession h) m { header := o.header, payload := o.payload } }
  match papLast s src (hSession h) with
  | some (q, r) =>
    if hTag q.header ≠ hTag h then fresh
    else if q = m then { st := s0, header := r.header, payload := r.payload }
    else
      let c := if hVersion h ≠ 1 then 0x0901 else 0x0902
      papCode (papCount s0 c) h c
  | none => fresh

/-! ### Transports (13 R438, R452) -/

/-- A device start that a write of DEVICE_RESET asked for (16 R526). -/
def papReset (s : State) (v : Nat) : State :=
  match v with
  | 1 => (match causeStart s false 3 with | .next t => t | _ => s)
  | 2 => (match causeStart s true 4 with | .next t => t | _ => s)
  | _ => s

/-- A response goes into the mailbox, DONE is set and BUSY clear, and the message follows when asked for (13 R452). -/
def mbxRespond (s : State) (f : Nat) (header : Nat) (payload : Bytes) : State :=
  let m := tget (fun _ => ({} : Mbx)) s.mbxs f
  let rsp := leBytes 24 header ++ payload
  let s1 := { s with mbxs := tset (fun _ => {}) s.mbxs f { m with busy := false, done := true, rspLen := rsp.length, rsp := rsp } }
  if bitOf m.ctl 0 then msixSend s1 f (bitsOf m.ctl 5 1) else s1

/-- The header of a response to a message without a header: RESPONSE and CODE 0x0902 only (13 R452). -/
def shortHeader : Nat := 2 ^ 168 + 0x0902 * 2 ^ 96

/-- The request that waits in a function's mailbox: its header and payload (13 R438). -/
def mbxRequest (m : Mbx) : PapMsg :=
  let b := (List.range m.reqLen).map (fun i => tget (fun _ => 0) m.req i)
  { header := leNat (b.take 24), payload := b.drop 24 }

/-- A row of an OP handles a message with that OP, or with an OP that is unlisted. -/
def papMine (op : Nat) (h : Nat) : Bool := hOp h == op || hOp h == 0 || decide (hOp h > 7)

/-- Whether a dictionary request stands at a source. -/
def papStands (s : State) (src : PapFrom) : Bool :=
  match src with
  | .mailbox fn => (tget (fun _ => ({} : Mbx)) s.mbxs fn.val).busy
  | .mctp b e t => s.mctpIn.any (fun m => m.1 == b.val && m.2.1 == e.val && m.2.2.1 == t.val && m.2.2.2.head? == some 0x7E)

/-- Whether the request at a source is the one whose message was complete first, and whether one of its session stood undecided then (13 R434, R447). -/
def papTurn (s : State) (src : PapFrom) : Option Bool :=
  match s.papQueue.find? (fun q => papStands s q.1) with
  | some q => if q.1 = src then some q.2 else none
  | none => some false

/-- It leaves the order of the requests. -/
def papGone (s : State) (src : PapFrom) : State := { s with papQueue := s.papQueue.eraseP (fun q => q.1 == src) }

/-- The request that waits at a source is decided and answered, when it is its turn (13 R434). A vendor-defined message of another vendor is no message of this protocol and
is dropped (log 56). -/
def papRun (op : Nat) (src : PapFrom) (discarded : Nat) (s0 : State) : State :=
  match papTurn s0 src with
  | none => s0
  | some busy =>
  let s := papGone s0 src
  match src with
  | .mailbox fn =>
    let m := tget (fun _ => ({} : Mbx)) s.mbxs fn.val
    if !coxRuns s || s.start.entry || !m.busy || !papMine op (mbxRequest m).header then s0
    else
      let o := papAnswer s (.mailbox fn.val) (mbxRequest m) busy discarded
      papReset (mbxRespond o.st fn.val o.header o.payload) o.reset
  | .mctp b e t =>
    match s.mctpIn.find? (fun m => m.1 == b.val && m.2.1 == e.val && m.2.2.1 == t.val) with
    | none => s0
    | some (_, _, _, d) =>
      let head := d.take 3
      let body := d.drop 3
      let own := BitVec.ofNat 8 0x7E :: [BitVec.ofNat 8 (Config.pciVendorId / 256), BitVec.ofNat 8 Config.pciVendorId]
      let send := fun (s : State) (header : Nat) (payload : Bytes) => mctpOffered s (.mctp b.val e.val t.val (own ++ leBytes 24 header ++ payload))
      if !mctpUp s || (d.headD 0).toNat != 0x7E || (decide (24 ≤ body.length) && !papMine op (leNat (body.take 24))) then s0
      else
        let (s1, ok) := mctpTake s b.val e.val t.val
        if !ok || head != own then s1
        else if body.length < 24 then send (papCount s1 0x0902) shortHeader []
        else
          let o := papAnswer s1 (.endpoint b.val e.val) { header := leNat (body.take 24), payload := body.drop 24 } busy discarded
          papReset (send o.st o.header o.payload) o.reset

/-- PAP_OPEN. -/
def execPapOpen (src : PapFrom) (s : State) : Ans := .next (papRun 1 src 0 s)
/-- PAP_AUTH. -/
def execPapAuth (src : PapFrom) (s : State) : Ans := .next (papRun 2 src 0 s)
/-- PAP_CLOSE. -/
def execPapClose (src : PapFrom) (s : State) : Ans := .next (papRun 3 src 0 s)
/-- PAP_READ. -/
def execPapRead (src : PapFrom) (s : State) : Ans := .next (papRun 4 src 0 s)
/-- PAP_WRITE. `discarded` is how many posted writes a Ghengo port that the write closes had in flight or waiting (14 R471). -/
def execPapWrite (src : PapFrom) (discarded : U32) (s : State) : Ans := .next (papRun 5 src discarded.toNat s)
/-- PAP_DESCRIBE. -/
def execPapDescribe (src : PapFrom) (s : State) : Ans := .next (papRun 6 src 0 s)
/-- PAP_KEEPALIVE. -/
def execPapKeepalive (src : PapFrom) (s : State) : Ans := .next (papRun 7 src 0 s)

/-! ### Timers (13 R444, R445) -/

/-- CHALLENGE_TIMEOUT: 10 s without AUTH. -/
def execChallengeTimeout (session : U16) (s : State) : Ans :=
  let x := sessOf s session.toNat
  .next (if x.st = .challenged ∧ tbPast s.tb x.tbOpen 10000000000 then sessionFree s session.toNat else s)

/-- SESSION_IDLE_TIMEOUT: SESSION_IDLE_S without a request. Session 0 of a mailbox has no idle timer. -/
def execSessionIdleTimeout (session : U16) (s : State) : Ans :=
  let x := sessOf s session.toNat
  .next (if (x.st = .opened ∨ x.st = .writing ∨ x.st = .reading) ∧ tbPast s.tb x.tbLast (x.idleS * 1000000000) then sessionFree s session.toNat else s)

/-- SEGMENT_TIMEOUT: SEGMENT_TIMEOUT_MS without a request drops the staged bytes or the snapshot, and counts. -/
def execSegmentTimeout (session : SessionRef) (s : State) : Ans :=
  let x := sessOf s (sessKey session)
  .next (if (x.st = .writing ∨ x.st = .reading) ∧ tbPast s.tb x.tbLast (x.segMs * 1000000) then papAbandon s (sessKey session) else s)

/-- AUTH_LOCKOUT_EXPIRY: an endpoint's lockout ends. -/
def execAuthLockoutExpiry (binding : Fin 2) (eid : Fin 256) (s : State) : Ans :=
  let e := endpointOf s binding.val eid.val
  .next (match e.lockedUntil with
    | some t => if t ≤ s.tb then endpointPut s binding.val eid.val { e with lockedUntil := none } else s
    | none => s)

/-! ### The mailbox (13 R451, R452) -/

/-- MBX_DOORBELL of `length` bytes: a request is taken, and decided by the row of its OP; one outside 24 to 4,096 bytes is answered at once; a doorbell
while BUSY is discarded and counted. -/
def execMbxDoorbell (fn : Fn) (w : U64) (s : State) : Ans :=
  let m := tget (fun _ => ({} : Mbx)) s.mbxs fn.val
  let n := w.toNat % 65536
  if !fnUp s fn.val then .next s
  else if m.busy then .next (pinc s P.mbxDoorbellDropped)
  else
    let m1 := { m with done := false, busy := true, accepted := (m.accepted + 1) % 2 ^ 32, reqLen := n }
    let s1 := { s with mbxs := tset (fun _ => {}) s.mbxs fn.val m1, papQueue := s.papQueue.filter (fun q => q.1 != .mailbox fn) ++ [(.mailbox fn, false)] }
    .next (if n < 24 ∨ n > 4096 then mbxRespond (papCount s1 0x0902) fn.val shortHeader [] else s1)

/-- MBX_ACK: bit 0 clears DONE. -/
def execMbxAck (fn : Fn) (w : U64) (s : State) : Ans :=
  let m := tget (fun _ => ({} : Mbx)) s.mbxs fn.val
  .next (if fnUp s fn.val ∧ bitOf w.toNat 0 then { s with mbxs := tset (fun _ => {}) s.mbxs fn.val { m with done := false } } else s)

end Sys2Proof.Machine
end

