-- ==== Sys2Proof/Machine/Dispatch.lean ====
section
/-! DEFINITION. One arm per command: a direct call of its meaning. -/
namespace Sys2Proof.Machine

def exec (i : Instr) (s : State) : Host.Outcome State Fault Refusal :=
  match i with
  | .inputGoodRise => Sys2Proof.Machine.execInputGoodRise s
  | .modPwrgoodRise => Sys2Proof.Machine.execModPwrgoodRise s
  | .inputGoodFall => Sys2Proof.Machine.execInputGoodFall s
  | .perstAssert => Sys2Proof.Machine.execPerstAssert s
  | .perstRelease => Sys2Proof.Machine.execPerstRelease s
  | .hotReset => Sys2Proof.Machine.execHotReset s
  | .deviceResetWarm => Sys2Proof.Machine.execDeviceResetWarm s
  | .deviceResetCold => Sys2Proof.Machine.execDeviceResetCold s
  | .resetEntryDrainEnd => Sys2Proof.Machine.execResetEntryDrainEnd s
  | .coxWatchdogExpiry => Sys2Proof.Machine.execCoxWatchdogExpiry s
  | .minimalSafeFunction identityOk slotId gen width => Sys2Proof.Machine.execMinimalSafeFunction identityOk slotId gen width s
  | .stage1End failed badLink => Sys2Proof.Machine.execStage1End failed badLink s
  | .stage2End failed => Sys2Proof.Machine.execStage2End failed s
  | .stage3End => Sys2Proof.Machine.execStage3End s
  | .fullFunction => Sys2Proof.Machine.execFullFunction s
  | .stageLimitExpiry => Sys2Proof.Machine.execStageLimitExpiry s
  | .fwDigestReport seat digest => Sys2Proof.Machine.execFwDigestReport seat digest s
  | .seatSelftestDone seat pass => Sys2Proof.Machine.execSeatSelftestDone seat pass s
  | .linkRefclkLoss => Sys2Proof.Machine.execLinkRefclkLoss s
  | .pcieRefclkLoss => Sys2Proof.Machine.execPcieRefclkLoss s
  | .bridgeDrainDone n => Sys2Proof.Machine.execBridgeDrainDone n s
  | .closedBridgePacket n requester nonPosted acked => Sys2Proof.Machine.execClosedBridgePacket n requester nonPosted acked s
  | .rigCommit slot byKernel => Sys2Proof.Machine.execRigCommit slot byKernel s
  | .rigCancel slot => Sys2Proof.Machine.execRigCancel slot s
  | .rigCheckDone slot => Sys2Proof.Machine.execRigCheckDone slot s
  | .catch_ seat funct7 rd rs1 rs2 => Sys2Proof.Machine.execCatch seat funct7 rd rs1 rs2 s
  | .seatCatchDrained seat => Sys2Proof.Machine.execSeatCatchDrained seat s
  | .seatCopyDone slot => Sys2Proof.Machine.execSeatCopyDone slot s
  | .seatCopyFault slot seat source => Sys2Proof.Machine.execSeatCopyFault slot seat source s
  | .catchDeadlineExpiry slot => Sys2Proof.Machine.execCatchDeadlineExpiry slot s
  | .migrationGranuleCopied slot lch => Sys2Proof.Machine.execMigrationGranuleCopied slot lch s
  | .freezeCtlFreeze slot => Sys2Proof.Machine.execFreezeCtlFreeze slot s
  | .freezeCtlSave slot => Sys2Proof.Machine.execFreezeCtlSave slot s
  | .freezeCtlThaw slot => Sys2Proof.Machine.execFreezeCtlThaw slot s
  | .freezeCtlLoadImage slot => Sys2Proof.Machine.execFreezeCtlLoadImage slot s
  | .freezeSaveDone slot => Sys2Proof.Machine.execFreezeSaveDone slot s
  | .freezeRestoreDone slot => Sys2Proof.Machine.execFreezeRestoreDone slot s
  | .imageHeaderReadDone slot header seats channels rest => Sys2Proof.Machine.execImageHeaderReadDone slot header seats channels rest s
  | .seatScrubDone seat => Sys2Proof.Machine.execSeatScrubDone seat s
  | .channelScrubDone chan => Sys2Proof.Machine.execChannelScrubDone chan s
  | .meterTick => Sys2Proof.Machine.execMeterTick s
  | .opMma seat check => Sys2Proof.Machine.execOpMma seat check s
  | .opConv seat check => Sys2Proof.Machine.execOpConv seat check s
  | .opLoadw seat check => Sys2Proof.Machine.execOpLoadw seat check s
  | .opReq seat check => Sys2Proof.Machine.execOpReq seat check s
  | .opOrigin seat => Sys2Proof.Machine.execOpOrigin seat s
  | .opCmpLoadt seat check => Sys2Proof.Machine.execOpCmpLoadt seat check s
  | .opCmp seat check => Sys2Proof.Machine.execOpCmp seat check s
  | .conversionUnitStart seat => Sys2Proof.Machine.execConversionUnitStart seat s
  | .arrOpRetire seat => Sys2Proof.Machine.execArrOpRetire seat s
  | .mmaPause seat check => Sys2Proof.Machine.execMmaPause seat check s
  | .guardCheckMerged seat tile bad => Sys2Proof.Machine.execGuardCheckMerged seat tile bad s
  | .arrIssue seat rd rs1 rs2 => Sys2Proof.Machine.execArrIssue seat rd rs1 rs2 s
  | .arrIssueUnblock seat => Sys2Proof.Machine.execArrIssueUnblock seat s
  | .arrResult seat rd rs1 rs2 => Sys2Proof.Machine.execArrResult seat rd rs1 rs2 s
  | .arrWait seat rd rs1 imm => Sys2Proof.Machine.execArrWait seat rd rs1 imm s
  | .arrWaitDone seat => Sys2Proof.Machine.execArrWaitDone seat s
  | .arrFence seat rd rs1 imm => Sys2Proof.Machine.execArrFence seat rd rs1 imm s
  | .vzFence seat rd rs1 imm => Sys2Proof.Machine.execVzFence seat rd rs1 imm s
  | .vzFenceComplete seat => Sys2Proof.Machine.execVzFenceComplete seat s
  | .sigUpd seat rd rs1 imm => Sys2Proof.Machine.execSigUpd seat rd rs1 imm s
  | .sigChk seat funct7 rd rs1 rs2 => Sys2Proof.Machine.execSigChk seat funct7 rd rs1 rs2 s
  | .seatEnd seat funct7 rd rs1 rs2 => Sys2Proof.Machine.execSeatEnd seat funct7 rd rs1 rs2 s
  | .seatEndDrained seat => Sys2Proof.Machine.execSeatEndDrained seat s
  | .pegSet seat rd rs1 imm => Sys2Proof.Machine.execPegSet seat rd rs1 imm s
  | .pegTest seat rd rs1 imm => Sys2Proof.Machine.execPegTest seat rd rs1 imm s
  | .pegWait seat rd rs1 imm => Sys2Proof.Machine.execPegWait seat rd rs1 imm s
  | .pegWaitany seat funct7 rd rs1 rs2 => Sys2Proof.Machine.execPegWaitany seat funct7 rd rs1 rs2 s
  | .pegWaitWake seat => Sys2Proof.Machine.execPegWaitWake seat s
  | .pegRset seat funct7 rd rs1 rs2 => Sys2Proof.Machine.execPegRset seat funct7 rd rs1 rs2 s
  | .xferSubmit seat funct7 rd rs1 rs2 => Sys2Proof.Machine.execXferSubmit seat funct7 rd rs1 rs2 s
  | .xferSubmitUnblock seat => Sys2Proof.Machine.execXferSubmitUnblock seat s
  | .xferPoll seat funct7 rd rs1 rs2 => Sys2Proof.Machine.execXferPoll seat funct7 rd rs1 rs2 s
  | .winSet seat funct7 rd rs1 rs2 => Sys2Proof.Machine.execWinSet seat funct7 rd rs1 rs2 s
  | .coreLoad seat compressed rd rs1 off width signed fp => Sys2Proof.Machine.execCoreLoad seat compressed rd rs1 off width signed fp s
  | .coreStore seat compressed rs1 rs2 off width fp => Sys2Proof.Machine.execCoreStore seat compressed rs1 rs2 off width fp s
  | .coreAmo seat op dbl rd rs1 rs2 => Sys2Proof.Machine.execCoreAmo seat op dbl rd rs1 rs2 s
  | .coreLr seat dbl rd rs1 => Sys2Proof.Machine.execCoreLr seat dbl rd rs1 s
  | .coreSc seat dbl rd rs1 rs2 => Sys2Proof.Machine.execCoreSc seat dbl rd rs1 rs2 s
  | .coreFence seat => Sys2Proof.Machine.execCoreFence seat s
  | .fenceI seat => Sys2Proof.Machine.execFenceI seat s
  | .csrAccess seat op imm csr rd src => Sys2Proof.Machine.execCsrAccess seat op imm csr rd src s
  | .coreCompute seat compressed insn bits => Sys2Proof.Machine.execCoreCompute seat compressed insn bits s
  | .ecall seat => Sys2Proof.Machine.execEcall seat s
  | .ebreak seat compressed => Sys2Proof.Machine.execEbreak seat compressed s
  | .coreLoadResponse seat o => Sys2Proof.Machine.execCoreLoadResponse seat o s
  | .storeAck seat status => Sys2Proof.Machine.execStoreAck seat status s
  | .tenderWatchdogExpiry seat => Sys2Proof.Machine.execTenderWatchdogExpiry seat s
  | .reqPacketArrival src slot req ga o => Sys2Proof.Machine.execReqPacketArrival src slot req ga o s
  | .pegWriteArrival src slot lseat peg value => Sys2Proof.Machine.execPegWriteArrival src slot lseat peg value s
  | .rspPacketArrival late => Sys2Proof.Machine.execRspPacketArrival late s
  | .mgtPacketArrival die mask op => Sys2Proof.Machine.execMgtPacketArrival die mask op s
  | .redNodeArrival k node => Sys2Proof.Machine.execRedNodeArrival k node s
  | .combineHoldExpiry k => Sys2Proof.Machine.execCombineHoldExpiry k s
  | .redPacketArrival k st => Sys2Proof.Machine.execRedPacketArrival k st s
  | .netRequestTimeout seat what => Sys2Proof.Machine.execNetRequestTimeout seat what s
  | .hostRequestTimeout seat ticket => Sys2Proof.Machine.execHostRequestTimeout seat ticket s
  | .linkFlitError link nth => Sys2Proof.Machine.execLinkFlitError link nth s
  | .fenceCasCompletion seat ticket r => Sys2Proof.Machine.execFenceCasCompletion seat ticket r s
  | .waitLend seat => Sys2Proof.Machine.execWaitLend seat s
  | .channelRead chan block check => Sys2Proof.Machine.execChannelRead chan block check s
  | .channelWrite chan offset data check => Sys2Proof.Machine.execChannelWrite chan offset data check s
  | .patrolScrubRead unit block check => Sys2Proof.Machine.execPatrolScrubRead unit block check s
  | .channelTracking chan => Sys2Proof.Machine.execChannelTracking chan s
  | .channelMaintRetire chan => Sys2Proof.Machine.execChannelMaintRetire chan s
  | .channelMaintRetrain chan => Sys2Proof.Machine.execChannelMaintRetrain chan s
  | .channelTrainingDone chan pass retry => Sys2Proof.Machine.execChannelTrainingDone chan pass retry s
  | .cxlCommit => Sys2Proof.Machine.execCxlCommit s
  | .cxlCheckDone => Sys2Proof.Machine.execCxlCheckDone s
  | .cxlDecoderCommitDone range ok => Sys2Proof.Machine.execCxlDecoderCommitDone range ok s
  | .cxlRangeScrubDone range => Sys2Proof.Machine.execCxlRangeScrubDone range s
  | .cxlRescan mask => Sys2Proof.Machine.execCxlRescan mask s
  | .cxlPortEnumerated port link => Sys2Proof.Machine.execCxlPortEnumerated port link s
  | .cxlPortDown port => Sys2Proof.Machine.execCxlPortDown port s
  | .cxlPrsntRemoval port => Sys2Proof.Machine.execCxlPrsntRemoval port s
  | .cxlMemResponse port dev r who => Sys2Proof.Machine.execCxlMemResponse port dev r who s
  | .cxlMemTimeout port who => Sys2Proof.Machine.execCxlMemTimeout port who s
  | .devloadWindow port delivered => Sys2Proof.Machine.execDevloadWindow port delivered s
  | .capacityChange input => Sys2Proof.Machine.execCapacityChange input s
  | .scaleRiseHoldExpiry cls => Sys2Proof.Machine.execScaleRiseHoldExpiry cls s
  | .regulationWindow samples => Sys2Proof.Machine.execRegulationWindow samples s
  | .pacingSlot => Sys2Proof.Machine.execPacingSlot s
  | .rtUpdateInstall fn gen ctx index => Sys2Proof.Machine.execRtUpdateInstall fn gen ctx index s
  | .rtUpdateRevoke fn gen ctx index => Sys2Proof.Machine.execRtUpdateRevoke fn gen ctx index s
  | .rtMirrorFetchDone ctx index r => Sys2Proof.Machine.execRtMirrorFetchDone ctx index r s
  | .entryDrainDone ctx index => Sys2Proof.Machine.execEntryDrainDone ctx index s
  | .trRespHeadWrite fn v => Sys2Proof.Machine.execTrRespHeadWrite fn v s
  | .fltRingHeadWrite fn v => Sys2Proof.Machine.execFltRingHeadWrite fn v s
  | .fltResolveResume fn batch ctx => Sys2Proof.Machine.execFltResolveResume fn batch ctx s
  | .fltResolveAbort fn batch ctx => Sys2Proof.Machine.execFltResolveAbort fn batch ctx s
  | .faultWindowExpiry ctx => Sys2Proof.Machine.execFaultWindowExpiry ctx s
  | .faultTimeoutExpiry ctx => Sys2Proof.Machine.execFaultTimeoutExpiry ctx s
  | .xferCopy seat ticket o => Sys2Proof.Machine.execXferCopy seat ticket o s
  | .xferFill seat ticket o => Sys2Proof.Machine.execXferFill seat ticket o s
  | .xferKvGather seat ticket o => Sys2Proof.Machine.execXferKvGather seat ticket o s
  | .xferRedArm seat ticket => Sys2Proof.Machine.execXferRedArm seat ticket s
  | .xferRedSend seat ticket => Sys2Proof.Machine.execXferRedSend seat ticket s
  | .xferFenceAdv seat ticket o => Sys2Proof.Machine.execXferFenceAdv seat ticket o s
  | .atsTranslationCompletion fn page grant => Sys2Proof.Machine.execAtsTranslationCompletion fn page grant s
  | .atsInvalidationRequest fn page pages => Sys2Proof.Machine.execAtsInvalidationRequest fn page pages s
  | .sliceZeroDone die slice => Sys2Proof.Machine.execSliceZeroDone die slice s
  | .ctxCmdCreate fn w => Sys2Proof.Machine.execCtxCmdCreate fn w s
  | .ctxCmdDestroy fn w => Sys2Proof.Machine.execCtxCmdDestroy fn w s
  | .ctxCmdFenceBind fn w => Sys2Proof.Machine.execCtxCmdFenceBind fn w s
  | .ctxCmdFenceUnbind fn w => Sys2Proof.Machine.execCtxCmdFenceUnbind fn w s
  | .ctxDescReadDone fn r word => Sys2Proof.Machine.execCtxDescReadDone fn r word s
  | .destroyEnd ctx => Sys2Proof.Machine.execDestroyEnd ctx s
  | .functionLevelReset fn => Sys2Proof.Machine.execFunctionLevelReset fn s
  | .vfEnableClear => Sys2Proof.Machine.execVfEnableClear s
  | .intStatusWrite fn w => Sys2Proof.Machine.execIntStatusWrite fn w s
  | .ucHeadWrite fn w => Sys2Proof.Machine.execUcHeadWrite fn w s
  | .crHeadWrite fn w => Sys2Proof.Machine.execCrHeadWrite fn w s
  | .registerWrite fn space offset size v => Sys2Proof.Machine.execRegisterWrite fn space offset size v s
  | .releaseHoldExpiry slot => Sys2Proof.Machine.execReleaseHoldExpiry slot s
  | .dmwrCompletion id r => Sys2Proof.Machine.execDmwrCompletion id r s
  | .dmwrRetryTimer id => Sys2Proof.Machine.execDmwrRetryTimer id s
  | .dmwrTimeout id => Sys2Proof.Machine.execDmwrTimeout id s
  | .completionMessageCoalesce ctx => Sys2Proof.Machine.execCompletionMessageCoalesce ctx s
  | .hqTailWrite fn w => Sys2Proof.Machine.execHqTailWrite fn w s
  | .contextSwapInDone ctx entries => Sys2Proof.Machine.execContextSwapInDone ctx entries s
  | .queueFetchDone ctx buffer r => Sys2Proof.Machine.execQueueFetchDone ctx buffer r s
  | .headWbMerge ctx => Sys2Proof.Machine.execHeadWbMerge ctx s
  | .slotSeqRetry ctx r => Sys2Proof.Machine.execSlotSeqRetry ctx r s
  | .launchBlockReadDone ctx block pins => Sys2Proof.Machine.execLaunchBlockReadDone ctx block pins s
  | .cmdNop ctx => Sys2Proof.Machine.execCmdNop ctx s
  | .cmdLaunch ctx => Sys2Proof.Machine.execCmdLaunch ctx s
  | .cmdCall ctx => Sys2Proof.Machine.execCmdCall ctx s
  | .cmdSeqSlot ctx => Sys2Proof.Machine.execCmdSeqSlot ctx s
  | .seqSlotRecordReadDone ctx seq r => Sys2Proof.Machine.execSeqSlotRecordReadDone ctx seq r s
  | .cmdAccount ctx => Sys2Proof.Machine.execCmdAccount ctx s
  | .cmdSprintBind ctx => Sys2Proof.Machine.execCmdSprintBind ctx s
  | .cmdSprintUnbind ctx => Sys2Proof.Machine.execCmdSprintUnbind ctx s
  | .cmdWkeyLoad ctx => Sys2Proof.Machine.execCmdWkeyLoad ctx s
  | .wkeyBlobReadDone ctx seq r => Sys2Proof.Machine.execWkeyBlobReadDone ctx seq r s
  | .cmdWkeyClear ctx => Sys2Proof.Machine.execCmdWkeyClear ctx s
  | .cmdGhengoOpen ctx => Sys2Proof.Machine.execCmdGhengoOpen ctx s
  | .cmdGhengoClose ctx => Sys2Proof.Machine.execCmdGhengoClose ctx s
  | .cmdBhLease ctx => Sys2Proof.Machine.execCmdBhLease ctx s
  | .cmdBhRelease ctx => Sys2Proof.Machine.execCmdBhRelease ctx s
  | .waitReadDone ctx r => Sys2Proof.Machine.execWaitReadDone ctx r s
  | .fenceWaitPoll ctx => Sys2Proof.Machine.execFenceWaitPoll ctx s
  | .commandStart ctx => Sys2Proof.Machine.execCommandStart ctx s
  | .prefillDone slot lseat r => Sys2Proof.Machine.execPrefillDone slot lseat r s
  | .preemptQuantumExpiry slot => Sys2Proof.Machine.execPreemptQuantumExpiry slot s
  | .preemptCtlPreempt slot => Sys2Proof.Machine.execPreemptCtlPreempt slot s
  | .preemptCtlLift slot => Sys2Proof.Machine.execPreemptCtlLift slot s
  | .preemptSaveDone slot => Sys2Proof.Machine.execPreemptSaveDone slot s
  | .preemptRestoreDone slot => Sys2Proof.Machine.execPreemptRestoreDone slot s
  | .cmdTimeoutExpiry ctx onShell => Sys2Proof.Machine.execCmdTimeoutExpiry ctx onShell s
  | .sprintWindowWrite fn offset data => Sys2Proof.Machine.execSprintWindowWrite fn offset data s
  | .egressReadDone slot => Sys2Proof.Machine.execEgressReadDone slot s
  | .sprintGateHoldExpiry slot => Sys2Proof.Machine.execSprintGateHoldExpiry slot s
  | .sprintAbortEnd slot => Sys2Proof.Machine.execSprintAbortEnd slot s
  | .papOpen src => Sys2Proof.Machine.execPapOpen src s
  | .papAuth src => Sys2Proof.Machine.execPapAuth src s
  | .papClose src => Sys2Proof.Machine.execPapClose src s
  | .papRead src => Sys2Proof.Machine.execPapRead src s
  | .papWrite src discarded => Sys2Proof.Machine.execPapWrite src discarded s
  | .papDescribe src => Sys2Proof.Machine.execPapDescribe src s
  | .papKeepalive src => Sys2Proof.Machine.execPapKeepalive src s
  | .challengeTimeout session => Sys2Proof.Machine.execChallengeTimeout session s
  | .sessionIdleTimeout session => Sys2Proof.Machine.execSessionIdleTimeout session s
  | .segmentTimeout session => Sys2Proof.Machine.execSegmentTimeout session s
  | .transportLoss binding => Sys2Proof.Machine.execTransportLoss binding s
  | .authLockoutExpiry binding eid => Sys2Proof.Machine.execAuthLockoutExpiry binding eid s
  | .mctpPacketReceive binding eid tag som eom ic seq payload => Sys2Proof.Machine.execMctpPacketReceive binding eid tag som eom ic seq payload s
  | .mctpAssemblyTimeout binding eid => Sys2Proof.Machine.execMctpAssemblyTimeout binding eid s
  | .mctpTxAcceptTimeout => Sys2Proof.Machine.execMctpTxAcceptTimeout s
  | .setEndpointId binding eid tag newEid => Sys2Proof.Machine.execSetEndpointId binding eid tag newEid s
  | .getEndpointId binding eid tag => Sys2Proof.Machine.execGetEndpointId binding eid tag s
  | .getEndpointUuid binding eid tag => Sys2Proof.Machine.execGetEndpointUuid binding eid tag s
  | .getMctpVersionSupport binding eid tag => Sys2Proof.Machine.execGetMctpVersionSupport binding eid tag s
  | .getMessageTypeSupport binding eid tag => Sys2Proof.Machine.execGetMessageTypeSupport binding eid tag s
  | .getVendorMsgSupport binding eid tag => Sys2Proof.Machine.execGetVendorMsgSupport binding eid tag s
  | .mctpUnsupportedCmd binding eid tag cmd => Sys2Proof.Machine.execMctpUnsupportedCmd binding eid tag cmd s
  | .mbxDoorbell fn w => Sys2Proof.Machine.execMbxDoorbell fn w s
  | .mbxAck fn w => Sys2Proof.Machine.execMbxAck fn w s
  | .ghPortEnableSet port => Sys2Proof.Machine.execGhPortEnableSet port s
  | .ghPortEnableClear port discarded => Sys2Proof.Machine.execGhPortEnableClear port discarded s
  | .ghTrainingDone port => Sys2Proof.Machine.execGhTrainingDone port s
  | .ghTrainingTimeout port => Sys2Proof.Machine.execGhTrainingTimeout port s
  | .helloReceive port id farPort fec credits nonce confirm => Sys2Proof.Machine.execHelloReceive port id farPort fec credits nonce confirm s
  | .helloTimeout port => Sys2Proof.Machine.execHelloTimeout port s
  | .ghRecoveryTimer port => Sys2Proof.Machine.execGhRecoveryTimer port s
  | .ghPortMaintRetrain port => Sys2Proof.Machine.execGhPortMaintRetrain port s
  | .ghFlitError port discarded => Sys2Proof.Machine.execGhFlitError port discarded s
  | .ghFecLockLoss port discarded => Sys2Proof.Machine.execGhFecLockLoss port discarded s
  | .ghCreditStall port gv discarded => Sys2Proof.Machine.execGhCreditStall port gv discarded s
  | .ghTagFlitReceive port ok discarded => Sys2Proof.Machine.execGhTagFlitReceive port ok discarded s
  | .ghPacketReceive port sender bind offset op check excess => Sys2Proof.Machine.execGhPacketReceive port sender bind offset op check excess s
  | .ghRequestTimeout seat what => Sys2Proof.Machine.execGhRequestTimeout seat what s
  | .admLeaseCmdRequest lender => Sys2Proof.Machine.execAdmLeaseCmdRequest lender s
  | .admLeaseCmdReturn lender id => Sys2Proof.Machine.execAdmLeaseCmdReturn lender id s
  | .admLentRevoke id => Sys2Proof.Machine.execAdmLentRevoke id s
  | .leaseRequest h record => Sys2Proof.Machine.execLeaseRequest h record s
  | .leaseRenew h => Sys2Proof.Machine.execLeaseRenew h s
  | .leaseReturn h => Sys2Proof.Machine.execLeaseReturn h s
  | .leaseRevoke h => Sys2Proof.Machine.execLeaseRevoke h s
  | .epochQuery h => Sys2Proof.Machine.execEpochQuery h s
  | .admResponse h msg code record => Sys2Proof.Machine.execAdmResponse h msg code record s
  | .admRetryTimer txn => Sys2Proof.Machine.execAdmRetryTimer txn s
  | .leaseRenewTimer lender id => Sys2Proof.Machine.execLeaseRenewTimer lender id s
  | .leaseLossTimer lender id => Sys2Proof.Machine.execLeaseLossTimer lender id s
  | .leaseExpiryTimer id => Sys2Proof.Machine.execLeaseExpiryTimer id s
  | .gv4SeatAction port src lease j a => Sys2Proof.Machine.execGv4SeatAction port src lease j a s
  | .gv4ActionReport port src lease j r => Sys2Proof.Machine.execGv4ActionReport port src lease j r s
  | .leaseFaultReport port src lease mech kind tbDetect from_ => Sys2Proof.Machine.execLeaseFaultReport port src lease mech kind tbDetect from_ s
  | .chOpen h nonce => Sys2Proof.Machine.execChOpen h nonce s
  | .chClose h => Sys2Proof.Machine.execChClose h s
  | .chMatchTimeout chan waiting => Sys2Proof.Machine.execChMatchTimeout chan waiting s
  | .peerGoneTimer chan => Sys2Proof.Machine.execPeerGoneTimer chan s
  | .channelAbortEnd chan => Sys2Proof.Machine.execChannelAbortEnd chan s
  | .bhAlloc h => Sys2Proof.Machine.execBhAlloc h s
  | .bhFree h => Sys2Proof.Machine.execBhFree h s
  | .bhRenew h => Sys2Proof.Machine.execBhRenew h s
  | .bhMove h => Sys2Proof.Machine.execBhMove h s
  | .bhQuery h => Sys2Proof.Machine.execBhQuery h s
  | .bhMoveGranuleCopied key acked => Sys2Proof.Machine.execBhMoveGranuleCopied key acked s
  | .bhMemberExpiry key => Sys2Proof.Machine.execBhMemberExpiry key s
  | .bhHomeRenewTimer key => Sys2Proof.Machine.execBhHomeRenewTimer key s
  | .bhResolveTimeout key => Sys2Proof.Machine.execBhResolveTimeout key s
  | .budgetGrantWrite grant => Sys2Proof.Machine.execBudgetGrantWrite grant s
  | .budgetLeaseExpiry => Sys2Proof.Machine.execBudgetLeaseExpiry s
  | .powerControlStep inputMv inputW platformW draws => Sys2Proof.Machine.execPowerControlStep inputMv inputW platformW draws s
  | .alertAssert source => Sys2Proof.Machine.execAlertAssert source s
  | .alertDeassert source => Sys2Proof.Machine.execAlertDeassert source s
  | .alertHoldExpiry => Sys2Proof.Machine.execAlertHoldExpiry s
  | .alertRiseStep => Sys2Proof.Machine.execAlertRiseStep s
  | .thermalThrottleStep die temp => Sys2Proof.Machine.execThermalThrottleStep die temp s
  | .energyTick seatRail activity ringRail chans ports other => Sys2Proof.Machine.execEnergyTick seatRail activity ringRail chans ports other s
  | .getPdrRepositoryInfo binding eid tag => Sys2Proof.Machine.execGetPdrRepositoryInfo binding eid tag s
  | .getPdr binding eid tag handle => Sys2Proof.Machine.execGetPdr binding eid tag handle s
  | .getSensorReading binding eid tag sensor => Sys2Proof.Machine.execGetSensorReading binding eid tag sensor s
  | .getStateSensorReadings binding eid tag sensor => Sys2Proof.Machine.execGetStateSensorReadings binding eid tag sensor s
  | .pldmUnsupportedCmd binding eid tag type5 cmd => Sys2Proof.Machine.execPldmUnsupportedCmd binding eid tag type5 cmd s
  | .shellResetWrite slot => Sys2Proof.Machine.execShellResetWrite slot s
  | .shellResetDrainDone slot bad => Sys2Proof.Machine.execShellResetDrainDone slot bad s
  | .shellRetrainDone slot bad => Sys2Proof.Machine.execShellRetrainDone slot bad s
  | .shellResetComplete slot => Sys2Proof.Machine.execShellResetComplete slot s
  | .healthPoll silent => Sys2Proof.Machine.execHealthPoll silent s
  | .bridgeCloseTimeout n packets => Sys2Proof.Machine.execBridgeCloseTimeout n packets s
  | .islandResetAnswerTimeout n => Sys2Proof.Machine.execIslandResetAnswerTimeout n s
  | .dumpCtlTake => Sys2Proof.Machine.execDumpCtlTake s
  | .dumpAccessTimeout n => Sys2Proof.Machine.execDumpAccessTimeout n s
  | .dumpEnd => Sys2Proof.Machine.execDumpEnd s
  | .dumpClear => Sys2Proof.Machine.execDumpClear s
  | .monitorEvent m => Sys2Proof.Machine.execMonitorEvent m s
  | .lockstepMismatch => Sys2Proof.Machine.execLockstepMismatch s
  | .queryDeviceIdentifiers binding eid tag => Sys2Proof.Machine.execQueryDeviceIdentifiers binding eid tag s
  | .getFirmwareParameters binding eid tag => Sys2Proof.Machine.execGetFirmwareParameters binding eid tag s
  | .requestUpdate binding eid tag => Sys2Proof.Machine.execRequestUpdate binding eid tag s
  | .passComponentTable binding eid tag components => Sys2Proof.Machine.execPassComponentTable binding eid tag components s
  | .updateComponent binding eid tag size => Sys2Proof.Machine.execUpdateComponent binding eid tag size s
  | .firmwareDataPush binding eid tag offset data => Sys2Proof.Machine.execFirmwareDataPush binding eid tag offset data s
  | .fwVerifyDone => Sys2Proof.Machine.execFwVerifyDone s
  | .activateFirmware binding eid tag => Sys2Proof.Machine.execActivateFirmware binding eid tag s
  | .getStatus binding eid tag => Sys2Proof.Machine.execGetStatus binding eid tag s
  | .cancelUpdateComponent binding eid tag => Sys2Proof.Machine.execCancelUpdateComponent binding eid tag s
  | .cancelUpdate binding eid tag => Sys2Proof.Machine.execCancelUpdate binding eid tag s
  | .fwUpdateTimeout => Sys2Proof.Machine.execFwUpdateTimeout s
  | .fwRaiseFloor v => Sys2Proof.Machine.execFwRaiseFloor v s
  | .credInstall fromVf record => Sys2Proof.Machine.execCredInstall fromVf record s
  | .credRevoke fromVf record => Sys2Proof.Machine.execCredRevoke fromVf record s
  | .evidenceReq session data => Sys2Proof.Machine.execEvidenceReq session data s
  | .evidenceSigned session => Sys2Proof.Machine.execEvidenceSigned session s
  | .debugCtlOpen slot => Sys2Proof.Machine.execDebugCtlOpen slot s
  | .debugCtlHalt slot => Sys2Proof.Machine.execDebugCtlHalt slot s
  | .debugCtlResume slot => Sys2Proof.Machine.execDebugCtlResume slot s
  | .debugCtlClose slot => Sys2Proof.Machine.execDebugCtlClose slot s
  | .dbgDataRead session slot => Sys2Proof.Machine.execDbgDataRead session slot s
  | .dbgDataWrite slot data => Sys2Proof.Machine.execDbgDataWrite slot data s
  | .wakeFold slot => Sys2Proof.Machine.execWakeFold slot s
  | .sealTimer slot => Sys2Proof.Machine.execSealTimer slot s
  | .sealSigned slot => Sys2Proof.Machine.execSealSigned slot s
  | .bhKeyRenewalTimeout key => Sys2Proof.Machine.execBhKeyRenewalTimeout key s
  | .vfEnableSet n => Sys2Proof.Machine.execVfEnableSet n s
  | .railDischargeDone => Sys2Proof.Machine.execRailDischargeDone s
  | .cxlPrsntLowToHigh port => Sys2Proof.Machine.execCxlPrsntLowToHigh port s
  | .cxlEvent port detail0 detail1 => Sys2Proof.Machine.execCxlEvent port detail0 detail1 s
  | .gddr7RefreshDoubling device hot permille => Sys2Proof.Machine.execGddr7RefreshDoubling device hot permille s
  | .ghFlitHeaderReceive port header discarded => Sys2Proof.Machine.execGhFlitHeaderReceive port header discarded s
  | .i3cDynamicAddress addr => Sys2Proof.Machine.execI3cDynamicAddress addr s

end Sys2Proof.Machine
end

