-- ==== Sys2Proof/Machine/Step.lean ====
section
/-! DEFINITION. One step of the block: the command at the front of the queue is carried out on the state with the queue's rest. -/
namespace Sys2Proof.Machine

/-- What the block does with an empty queue: the time base counts one tick while 54 V is present, and otherwise nothing happens (00 R17,
16 R527). DESIGN CHOICE (log 2): the table has no row for a tick of the time base. -/
def idle (s : State) : State := if s.pins.inputGood then { s with tb := s.tb + 1 } else s

/-- One step: the front command, or the idle tick. -/
def step (s : State) : Host.Outcome State Fault Refusal :=
  match s.pending with
  | [] => .next (idle s)
  | c :: rest => exec c { s with pending := rest }

/-- The state with the command that a word spells at the front of its queue; unchanged where the word spells none, as every word does. -/
def State.withFetchWord (s : State) (nbits w : Nat) : State :=
  match decodeTableWord nbits w with
  | some c => { s with pending := c :: s.pending }
  | none => s

end Sys2Proof.Machine
end

