-- ==== Sys2Proof/Safety.lean ====
section
/-! DEFINITION. What the claims call a sound state, and the terms in which they speak of a tender core that can run. -/
namespace Sys2Proof
open Sys2Proof.Machine

/-- Memory stands in its canonical form: addresses strictly rising, no byte listed that an unlisted address reads as. -/
def MemoryCanonical (s : State) : Prop := Memory.wf s = true

/-- A seat's core runs user code, waits for nothing, and the fetch of its next instruction of `size` bytes succeeds and leaves the state `f`
(05 R160, R164, R166). -/
def CoreReady (s : State) (seat size : Nat) (f : State) : Prop :=
  (seatOf s seat).mode = .run ∧ (seatOf s seat).core.wait = .none ∧ (seatOf s seat).core.user = true ∧ coreFetch s seat size = .done f

/-- A core whose instruction of `size` bytes has retired: its pc is past it and instret has counted it (05 R190). -/
def coreAfter (c : Core) (size : Nat) : Core :=
  { c with isz := size, pc := (c.pc + size) % 2 ^ 64, instret := (c.instret + 1) % 2 ^ 64, fetched := [], fw := false }

end Sys2Proof
end

