-- ==== Sys2Proof/WellFormed.lean ====
section
/-! DEFINITION. Which commands are well formed. The operands' types bound registers, slots, ports and fields; what is left is the limits that a
type does not carry: lists without repeats, lengths and alignments of what a partner sends. exec has a meaning for every command, well formed
or not. -/
namespace Sys2Proof

/-- A list names nothing twice. -/
def distinct {α : Type} [BEq α] : List α → Bool
  | [] => true
  | a :: t => !t.contains a && distinct t

/-- A register access has 1, 2, 4 or 8 bytes (10 R338). -/
def accessSizeOk (size : Fin 9) : Bool := [1, 2, 4, 8].contains size.val

/-- A trained CXL link names each of its devices once (08 R282). -/
def cxlLinkOk (l : CxlLink) : Bool := distinct (l.devs.map (·.1))

/-- The limits of a command's operands that their types do not carry. -/
def WellFormed : Instr → Bool
  | .stage1End failed _ => distinct failed
  | .stage2End failed => distinct failed
  | .channelWrite _ offset data _ => data.length != 0 && decide (offset.toNat % 64 + data.length ≤ 64)
  | .cxlPortEnumerated _ (some l) => cxlLinkOk l
  | .registerWrite _ _ offset size _ => accessSizeOk size && offset.toNat % size.val == 0
  | .sprintWindowWrite _ _ data => data.length != 0 && decide (data.length ≤ 4096)
  | .regulationWindow samples => distinct (samples.map (fun x => (x.slot, x.cls)))
  | .shellResetDrainDone _ bad => distinct bad
  | .shellRetrainDone _ bad => distinct bad
  | .helloReceive _ _ _ _ credits _ _ => credits.length == 6
  | .mctpPacketReceive _ _ _ _ _ _ _ payload => decide (payload.length ≤ 64)
  | .dbgDataWrite _ data => data.length != 0 && decide (data.length ≤ 4096)
  | .healthPoll silent => distinct (silent.map (·.1))
  | .powerControlStep _ _ _ draws => distinct (draws.map (·.1))
  | _ => true

end Sys2Proof
end

