-- ==== Sys2Proof/Certificates/Slice0/Obligations.lean ====
section
/-! DEFINITION. The statements for the provers: what each family of commands does, what it leaves alone, and what every step keeps. -/
open Sys2Proof Sys2Proof.Machine

/-- For every command c and state s, step of s with c at the front of its queue is exec of c on s with the queue's rest. -/
def Obligations.StepRunsFrontCommand : Prop :=
  ∀ (c : Instr) (rest : List Instr) (s : State), s.pending = c :: rest → step s = exec c { s with pending := rest }

/-- With an empty queue a step answers a next state: one tick more on the time base while 54 V is present, and the same state while it is absent. That the idle block ticks is the model's choice (log 2). Every command, in every state and with every operand, answers a next state: none ends in a fault or a refusal, and a step with a command at the front of the queue answers one too. -/
def Obligations.IdleTick : Prop :=
  (∀ s : State, s.pending = [] → s.pins.inputGood = true → step s = .next { s with tb := s.tb + 1 }) ∧
  (∀ s : State, s.pending = [] → s.pins.inputGood = false → step s = .next s) ∧
  (∀ (c : Instr) (s : State), ∃ t, Sys2Proof.Machine.exec c s = .next t) ∧
  (∀ (c : Instr) (rest : List Instr) (s : State), s.pending = c :: rest → ∃ t, step s = .next t)

/-- A rise of input-good with the rails discharged begins a cold start of cause 0 at stage 0, with the time base at zero, nothing in memory and the flash as it was; its count of the last hour's writes begins anew, which is the model's choice (log 93). A fall of input-good clears the time base, memory, seats, shells, contexts, the retained region and the Wake, leaves the flash, and lets the rails discharge. The end of the discharge, the rise of MOD_PWRGOOD, the assertion of PERST# and the I3C dynamic address change the pins and the start's state that they name and nothing else. -/
def Obligations.PowerPins : Prop :=
  (∀ s : State, s.pins.inputGood = false → s.pins.railsDischarging = false →
    ∃ t, exec .inputGoodRise s = .next t ∧ t.pins.inputGood = true ∧ t.pins.modPwrgood = false ∧ t.tb = 0 ∧ t.mem = [] ∧ t.seats = [] ∧ t.shells = [] ∧
      t.ctxs = [] ∧ t.flash = { s.flash with writes := [] } ∧ pget t P.startStage = 0 ∧ pget t P.startKind = 0 ∧ pget t P.startCause = 0 ∧ t.pending = s.pending) ∧
  (∀ s : State, s.pins.inputGood = true →
    ∃ t, exec .inputGoodFall s = .next t ∧ t.pins.inputGood = false ∧ t.pins.railsDischarging = true ∧ t.pins.modPwrgood = false ∧ t.tb = 0 ∧ t.mem = [] ∧
      t.seats = [] ∧ t.shells = [] ∧ t.ctxs = [] ∧ t.retained = {} ∧ t.wake = [] ∧ t.flash = s.flash ∧ t.pending = s.pending) ∧
  (∀ s : State, exec .railDischargeDone s = .next { s with pins := { s.pins with railsDischarging := false } }) ∧
  (∀ s : State, s.pins.inputGood = true → s.pins.modPwrgood = false →
    exec .modPwrgoodRise s = .next { s with pins := { s.pins with modPwrgood := true, cxlPerst := 0xFF }, start := { s.start with tbStage := s.tb, pausedNs := 0 } }) ∧
  (∀ s : State, s.pins.inputGood = true → s.pins.perst = false →
    exec .perstAssert s = .next { s with pins := { s.pins with perst := true, perstWarm := s.pins.modPwrgood, hostPortUp := false }
                                         start := { s.start with halted := s.pins.modPwrgood } }) ∧
  (∀ (s : State) (a : Fin 128), s.pins.inputGood = true →
    exec (.i3cDynamicAddress a) s = .next { s with pins := { s.pins with i3cDynamic := some a.val } })

/-- With 54 V present, MOD_PWRGOOD high and PERST# released, each cause of Table Start-1 completes and begins reset entry: Hot Reset or DL_Down and a loss of PCIE_REFCLK with cause 2, DEVICE_RESET 1 with 3, DEVICE_RESET 2 with 4 and cold steps, the Cox watchdog with 5; so does a release of PERST# that was asserted for a warm start, with cause 1, and any other release lets stage 0 run. Reset entry reports START_STAGE 0 with its cause and kind and no fault, falls back to the budget of R550 within the power limit, and drives CXL_PERST# low. The end of reset entry clears memory, seats, shells, contexts, sessions and leases, keeps the cause and kind, takes the host port down, and leaves stage 0 to run. -/
def Obligations.StartCauses : Prop :=
  (∀ s : State, s.pins.perst = true → let u := { s with pins := { s.pins with perst := false, perstWarm := false } }
    (s.pins.inputGood = true → s.pins.perstWarm = true → exec .perstRelease s = .next (resetEntry u false 1)) ∧
    ((s.pins.inputGood = false ∨ s.pins.perstWarm = false) → exec .perstRelease s = .next { u with start := { u.start with tbStage := s.tb, pausedNs := 0 } })) ∧
  (∀ s : State, s.pins.inputGood = true → s.pins.modPwrgood = true → s.pins.perst = false →
    (s.pins.hostPortUp = true → exec .hotReset s = .next (resetEntry { s with pins := { s.pins with hostPortUp := false } } false 2) ∧
      exec .pcieRefclkLoss s = .next (resetEntry { s with pins := { s.pins with hostPortUp := false } } false 2)) ∧
    (coxRuns s = true → s.start.sigFault = false →
      exec .deviceResetWarm s = .next (resetEntry (pset s P.deviceReset 1) false 3) ∧ exec .deviceResetCold s = .next (resetEntry (pset s P.deviceReset 2) true 4)) ∧
    (∃ u, exec .coxWatchdogExpiry s = .next (resetEntry u false 5))) ∧
  (∀ (s : State) (cold : Bool) (cause : Nat), let t := resetEntry s cold cause
    pget t P.startStage = 0 ∧ pget t P.startCause = cause ∧ pget t P.startKind = (if cold then 0 else 1) ∧ pget t P.startFault = 0 ∧ t.start.entry = true ∧ t.start.cold = cold ∧ t.start.tbStage = t.tb ∧
      pget t P.budgetEffectiveW = min (pget t P.fallbackBudgetW) (pget t P.powerLimitW) ∧ t.pins.cxlPerst = 0xFF ∧ t.pins.modPwrgood = s.pins.modPwrgood ∧ t.pins.perst = s.pins.perst) ∧
  (∀ s : State, s.start.entry = true →
    ∃ t, exec .resetEntryDrainEnd s = .next t ∧ t.start.entry = false ∧ t.start.msf = false ∧ t.pins.hostPortUp = false ∧ pget t P.startStage = 0 ∧ pget t P.startCause = pget s P.startCause ∧ pget t P.startKind = (if pget s P.startKind = 0 then 0 else 1) ∧ t.mem = [] ∧ t.seats = [] ∧ t.shells = [] ∧ t.ctxs = [] ∧ t.sessions = [] ∧ t.lent = [] ∧ t.borrowed = [])

/-- In its stage each event of Table Start-3 that ends the stage moves START_STAGE to the next one, and full function makes it 5. A failed identity, a record above its part's row (00 R7) or the lack of a verifying image at stage 0 makes START_STAGE 7 with START_FAULT 0x0001; a crossbar, ring block or MD that fails at stage 1 makes it 7 with 0x0102, a failed link 7 with 0x0103, the loss of LINK_REFCLK in stage 1 7 with 0x0102, and a stage past its limit 7 with the stage and 4, except stage 4 while an alert source is asserted, whose time does not count towards the limit. -/
def Obligations.StageEnds : Prop :=
  (∀ (s : State) (id : Fin 16) (g : Fin 7) (w : Fin 17), inStage s 0 = true →
    (∀ ok, idPick ok s.flash ≠ none → fwPick s ≠ none → ∃ t, exec (.minimalSafeFunction ok id g w) s = .next t ∧ pget t P.startStage = 1) ∧
        (∀ ok, (fwPick s = none ∨ idPick ok s.flash = none) → ∃ t, exec (.minimalSafeFunction ok id g w) s = .next t ∧ pget t P.startStage = 7 ∧ pget t P.startFault = 0x0001)) ∧
  (∀ (s : State) (failed : List IslandId), inStage s 1 = true →
    ((∀ n ∈ failed, n.val < 2304 ∨ (2328 ≤ n.val ∧ n.val < 2352)) → ∃ t, exec (.stage1End failed none) s = .next t ∧ pget t P.startStage = 2) ∧
    ((∀ n ∈ failed, n.val < 2304 ∨ (2328 ≤ n.val ∧ n.val < 2352)) → ∀ l : LinkId,
      ∃ t, exec (.stage1End failed (some l)) s = .next t ∧ pget t P.startStage = 7 ∧ pget t P.startFault = 0x0103) ∧
    ((∃ n ∈ failed, (2304 ≤ n.val ∧ n.val < 2328) ∨ n.val = 2352) → ∀ l : Option LinkId,
      ∃ t, exec (.stage1End failed l) s = .next t ∧ pget t P.startStage = 7 ∧ pget t P.startFault = 0x0102) ∧
    (∃ t, exec .linkRefclkLoss s = .next t ∧ pget t P.startStage = 7 ∧ pget t P.startFault = 0x0102)) ∧
  (∀ (s : State) (failed : List ChanId), inStage s 2 = true → ∃ t, exec (.stage2End failed) s = .next t ∧ pget t P.startStage = 3) ∧
  (∀ s : State, inStage s 3 = true → (∀ p < 16, bitOf (pget s P.ghPortEnable) p = true → (portOf s p).left = true) →
    ∃ t, exec .stage3End s = .next t ∧ pget t P.startStage = 4) ∧
  (∀ s : State, inStage s 4 = true → ∃ t, exec .fullFunction s = .next t ∧ pget t P.startStage = 5) ∧
  (∀ (s : State) (n : Nat), inStage s n = true → n < 5 → (n = 4 → pget s P.alertStatus % 16 = 0) → tbPast s.tb (s.start.tbStage + (if n = 4 then s.start.pausedNs else 0)) (stageLimit n) = true →
    ∃ t, exec .stageLimitExpiry s = .next t ∧ pget t P.startStage = 7 ∧ pget t P.startFault = 256 * n + 4)

/-- In stage 4 a seat whose firmware digest is right changes nothing; a wrong digest is answered with the image again, up to three times, and the fourth marks the seat failed. A seat that fails its self-test is marked failed and one that passes changes nothing. -/
def Obligations.FirmwareAndSelfTest : Prop :=
  (∀ (s : State) (seat : SeatId) (d : List Byte), inStage s 4 = true →
    (d = Config.fwDigest (fwRunning s).image → exec (.fwDigestReport seat d) s = .next s) ∧
    (d ≠ Config.fwDigest (fwRunning s).image → tget (fun _ => 0) s.start.digestTries seat.val < 3 →
      ∃ t, exec (.fwDigestReport seat d) s = .next t ∧ t.sent = s.sent ++ [.packet seat.val 4 (fwRunning s).image] ∧
        tget (fun _ => 0) t.start.digestTries seat.val = tget (fun _ => 0) s.start.digestTries seat.val + 1 ∧ t.start.failedSeats = s.start.failedSeats) ∧
    (d ≠ Config.fwDigest (fwRunning s).image → 3 ≤ tget (fun _ => 0) s.start.digestTries seat.val →
      exec (.fwDigestReport seat d) s = .next { s with start := { s.start with failedSeats := sAdd s.start.failedSeats seat.val } })) ∧
  (∀ (s : State) (seat : SeatId), inStage s 4 = true →
    exec (.seatSelftestDone seat false) s = .next { s with start := { s.start with failedSeats := sAdd s.start.failedSeats seat.val } } ∧
    exec (.seatSelftestDone seat true) s = .next s)

/-- A bridge that is draining becomes closed, and nothing else of the state changes. A closed bridge answers a non-posted request ISLAND_CLOSED and counts nothing; it discards a posted write and counts it in the island's saturating counter, and acknowledges it ISLAND_CLOSED exactly when its source awaits an acknowledgement. -/
def Obligations.ClosedBridges : Prop :=
  (∀ (s : State) (n : IslandId), (islandOf s n.val).bridge = .draining →
    exec (.bridgeDrainDone n) s = .next (islandPut s n.val { islandOf s n.val with bridge := .closed })) ∧
  (∀ (s : State) (n r : IslandId) (acked : Bool), (islandOf s n.val).bridge = .closed →
    exec (.closedBridgePacket n r true acked) s = .next { s with sent := s.sent ++ [.packet r.val 1 [BitVec.ofNat 8 stClosed]] } ∧
    (∃ t, exec (.closedBridgePacket n r false acked) s = .next t ∧ (islandOf t n.val).discards = satInc32 (islandOf s n.val).discards ∧
      t.sent = (if acked then s.sent ++ [.packet r.val 1 [BitVec.ofNat 8 stClosed]] else s.sent) ∧
      t = { s with islands := t.islands, sent := t.sent } ∧ ∀ m, m ≠ n.val → islandOf t m = islandOf s m))

/-- SHELL_RESET of a slot that is FREE, RESETTING or RELEASING changes nothing; of any other slot without a reset under way the reset begins as for a shell stopped with ABORTED, and the shell is RESETTING and draining at once unless a channel migration still runs. When the drain ends its seats are scrubbed and retraining begins; when retraining ends without a failure zeroing begins; and the reset completes with every channel's memory zero, the shell IDLE and its safety latch clear, before the next job is selected. -/
def Obligations.ShellResetSteps : Prop :=
  (∀ (s : State) (n : Slot), dictUp s = true →
    ((shellOf s n.val).st = .free ∨ (shellOf s n.val).st = .resetting ∨ (shellOf s n.val).st = .releasing → exec (.shellResetWrite n) s = .next s) ∧
    ((shellOf s n.val).st ≠ .free → (shellOf s n.val).st ≠ .resetting → (shellOf s n.val).st ≠ .releasing → (shellOf s n.val).resetPhase = .none →
      ∃ t, exec (.shellResetWrite n) s = .next t ∧
        ((shellOf t n.val).migs.all (·.done) = false ∨ ((shellOf t n.val).st = .resetting ∧ (shellOf t n.val).resetPhase = .draining)))) ∧
  (∀ (s : State) (n : Slot), (shellOf s n.val).st = .resetting →
    ((shellOf s n.val).resetPhase = .draining →
      ∃ t, exec (.shellResetDrainDone n []) s = .next t ∧ (shellOf t n.val).resetPhase = .retraining ∧ (shellOf t n.val).st = .resetting ∧
        ∀ i ∈ (shellOf s n.val).rig.seats, (seatOf t i).mode = .idle ∧ (seatOf t i).pegs = 0) ∧
    ((shellOf s n.val).resetPhase = .retraining →
      exec (.shellRetrainDone n []) s = .next (shellPut s n.val { shellOf s n.val with resetPhase := .zeroing })) ∧
    ((shellOf s n.val).resetPhase = .zeroing →
      ∃ u, exec (.shellResetComplete n) s =
          .next (shellSelect (fileError u false { kind := 0x0C, scope := 2, shell := n.val, fn := pget u (P.ownerFunction n.val) }) n.val) ∧
        (shellOf u n.val).st = .idle ∧ (shellOf u n.val).latch = false ∧ (shellOf u n.val).resetPhase = .none ∧
        ∀ c ∈ (shellOf s n.val).rig.channels, ∀ a, chanBase c ≤ a → a < chanBase c + chanBytes → memGet u a = 0))

/-- A health poll that every island answers leaves no island with a timeout and notes the time of the poll. Two silent polls in a row, or a bridge that has not closed 10 µs after its close began, are an island hang. An island silent 1 ms after its forced reset is retired when it is a seat; any other island begins a warm start of cause 6 when AUTO_WARM_START is true, and else the device holds at START_STAGE 6. No recovery runs before full function. -/
def Obligations.IslandRecovery : Prop :=
  (∀ (s : State) (silent : List (IslandId × Nat)), pget s P.startStage < 5 ∨ pget s P.startStage = 7 ∨ s.start.releasesStopped = true → exec (.healthPoll silent) s = .next s) ∧
  (∀ s : State, pget s P.startStage = 5 ∨ pget s P.startStage = 6 → s.start.releasesStopped = false →
    ∃ t, exec (.healthPoll []) s = .next t ∧ t.start.tbPoll = s.tb ∧ ∀ n, (islandOf t n).timeouts = 0) ∧
  (∀ (s : State) (n : IslandId) (k : Nat), pget s P.startStage = 5 → s.start.releasesStopped = false → tsorted s.islands = true → islandGated s n.val = false →
    (islandOf s n.val).st = .running → (islandOf s n.val).timeouts = 0 →
      ∃ t, exec (.healthPoll [(n, k)]) s = .next t ∧ (islandOf t n.val).timeouts = 1 ∧ (islandOf t n.val).st = .running) ∧
  (∀ (s : State) (n : IslandId) (k : Nat), pget s P.startStage = 5 → (islandOf s n.val).bridge = .draining → tbPast s.tb (islandOf s n.val).tbDrain 10000 = true →
    exec (.bridgeCloseTimeout n k) s = .next (islandHang s n.val k)) ∧
  (∀ (s : State) (n : IslandId), (islandOf s n.val).st = .inReset → (islandOf s n.val).forced = true → tbPast s.tb ((islandOf s n.val).tbReset.getD 0) 1000000 = true →
    (n.val < 2304 → exec (.islandResetAnswerTimeout n) s = .next (seatRetire s n.val)) ∧
    (2304 ≤ n.val → pget s P.autoWarmStart = 1 →
      ∃ t, exec (.islandResetAnswerTimeout n) s = .next t ∧ pget t P.startStage = 0 ∧ pget t P.startCause = 6 ∧ pget t P.startKind = 1) ∧
    (2304 ≤ n.val → pget s P.autoWarmStart ≠ 1 → ∃ t, exec (.islandResetAnswerTimeout n) s = .next t ∧ pget t P.startStage = 6))

/-- DUMP_CTL takes a dump with trigger 1 unless DUMP_HOLD keeps a retained one, which is counted in DUMPS_SKIPPED. Two failed accesses in a row mark an island UNREACHABLE, and an UNREACHABLE island is not counted again. The end of a dump puts it in the retained region, its summary goes to flash while the hour's flash writes allow, and DUMP_CLEAR takes it away and changes nothing else. -/
def Obligations.Dumps : Prop :=
  (∀ s : State, dictUp s = true →
    (pget s P.dumpHold = 1 → s.retained.dump ≠ none → exec .dumpCtlTake s = .next (pinc s P.dumpsSkipped)) ∧
    (pget s P.dumpHold ≠ 1 ∨ s.retained.dump = none → ∃ t d, exec .dumpCtlTake s = .next t ∧ t.start.dumping = some d ∧ d.trigger = 1 ∧ d.tbTrigger = s.tb ∧
      d.stage = pget s P.startStage ∧ t.retained.dumpSeq = s.retained.dumpSeq + 1 ∧ pget t P.dumpsTaken = satInc32 (pget s P.dumpsTaken)) ∧
    exec .dumpClear s = .next { s with retained := { s.retained with dump := none } }) ∧
  (∀ (s : State) (n : IslandId) (d : Dump), s.start.dumping = some d → d.unreachable.contains n.val = false →
    ∃ t e, exec (.dumpAccessTimeout n) s = .next t ∧ t.start.dumping = some e ∧ e.lastFailed = some n.val ∧
      e.unreachable = (if d.lastFailed = some n.val then sAdd d.unreachable n.val else d.unreachable) ∧ t = { s with start := t.start }) ∧
  (∀ (s : State) (n : IslandId) (d : Dump), s.start.dumping = some d → d.unreachable.contains n.val = true → exec (.dumpAccessTimeout n) s = .next s) ∧
  (∀ (s : State) (d : Dump), s.start.dumping = some d →
    ∃ t u e, exec .dumpEnd s = .next t ∧ u.start.dumping = none ∧ u.retained.dump = some e ∧ e.tbEnd = s.tb ∧ e.trigger = d.trigger ∧ t.start.dumping = none ∧ t.retained.dump = some e ∧
      (flashSpend u = none → t = u) ∧ (∀ v, flashSpend u = some v → ∃ b, t = octPut v P.dumpSummary b))

/-- A clock or voltage monitor event is counted and is a safety event of mechanism 9 and kind 0x06 on every shell of Table Safety-3, and is sent to the borrower of each lent seat and channel it reaches. A lockstep mismatch, or an MD monitor event, stops every release. An event of the ring rail reaches every shell that is not FREE, one of a seat's clock the shells that hold the seat, and an MD event none as a safety event. Of the module's SRAM, patrol scrub counts a word it corrects, and a parity error of an I-cache line or of a clean D-cache line, whose line goes. A word it cannot correct is counted, and is a safety event of the shell that holds the seat; a seat that nobody holds is retired. In a die slice that is held the word is answered POISONED from then on; one that nothing holds is retired. An 8-byte word is the unit of the code in a slice (the model's choice, log 72). -/
def Obligations.SafetyEvents : Prop :=
  (∀ (s : State) (m : Monitor), s.pins.inputGood = true → m ≠ .md →
    exec (.monitorEvent m) s = .next ((monitorLent s m).foldl (fun t x => lentFault t x.1 x.2 9 0x06 none { island := monitorIsland m })
      (safetyEvents (pinc s P.monitorEvents) (monitorShells s m) 9 0x06 { island := monitorIsland m }))) ∧
  (∀ s : State, s.pins.inputGood = true → (∃ t, exec (.monitorEvent .md) s = .next t ∧ t.start.releasesStopped = true) ∧
    (∃ t, exec .lockstepMismatch s = .next t ∧ t.start.releasesStopped = true)) ∧
  (∀ (s : State) (n : Nat), n ∈ monitorShells s .ringRail ↔ n < 32 ∧ (shellOf s n).st ≠ .free) ∧
  (∀ (s : State) (n : Nat) (i : SeatId), n ∈ monitorShells s (.seatClock i) ↔ n < 32 ∧ (shellOf s n).st ≠ .free ∧ i.val ∈ (shellOf s n).rig.seats) ∧
  (∀ s : State, monitorShells s .md = []) ∧
  (∀ (s : State) (u : PatrolUnit) (b : U64) (k : ChanCheck), s.start.islandsUp = true → (∀ c, u ≠ .chan c) →
    (k.error = .none → exec (.patrolScrubRead u b k) s = .next s) ∧
    (k.error = .single → (∀ i, u ≠ .icache i ∧ u ≠ .dcache i) → (∀ d l, u = .slice d l → b.toNat < 0x80000) → exec (.patrolScrubRead u b k) s = .next (pinc s P.sramCorrected))) ∧
  (∀ (s : State) (i : SeatId) (b : U64) (k : ChanCheck) (n : Nat), s.start.islandsUp = true → k.error = .double → seatShell s i.val = some n →
    exec (.patrolScrubRead (.seat i) b k) s = .next (safetyEvent (pinc s P.sramUncorrectable) n 5 0x02 none { island := i.val })) ∧
  (∀ (s : State) (i : SeatId) (b : U64) (k : ChanCheck), s.start.islandsUp = true → k.error = .double → seatShell s i.val = none → lentOf s i.val = none → seatUnavailable s i.val = false →
    ∃ t, exec (.patrolScrubRead (.seat i) b k) s = .next t ∧ i.val ∈ t.retiredSeats ∧ (islandOf t i.val).st = .retired ∧ t.shells = s.shells ∧ t.seats = s.seats ∧ t.mem = s.mem ∧
      pget t P.sramUncorrectable = satInc32 (pget s P.sramUncorrectable)) ∧
  (∀ (s : State) (i : SeatId) (b : U64) (k : ChanCheck) (l : DLine), s.start.islandsUp = true → k.error ≠ .none → l.ga = b.toNat / 64 * 64 →
    (l ∈ (seatOf s i.val).core.icache → ∃ t, exec (.patrolScrubRead (.icache i) b k) s = .next t ∧ (∀ x ∈ (seatOf t i.val).core.icache, x.ga ≠ l.ga) ∧
      pget t P.sramCorrected = satInc32 (pget s P.sramCorrected) ∧ t.mem = s.mem) ∧
    ((seatOf s i.val).core.dcache.find? (fun x => x.ga == l.ga) = some l → l.dirty = false → ∃ t, exec (.patrolScrubRead (.dcache i) b k) s = .next t ∧
      (∀ x ∈ (seatOf t i.val).core.dcache, x.ga ≠ l.ga) ∧ pget t P.sramCorrected = satInc32 (pget s P.sramCorrected) ∧ t.mem = s.mem)) ∧
  (∀ (s : State) (d : Fin 16) (l : Fin 48) (w : U64) (k : ChanCheck), s.start.islandsUp = true → k.error = .double → w.toNat < 0x80000 →
    (sliceOwner s (d.val * 48 + l.val) = none → ∃ t, exec (.patrolScrubRead (.slice d l) w k) s = .next t ∧ sliceOwner t (d.val * 48 + l.val) = some 34 ∧
      pget t P.sramUncorrectable = satInc32 (pget s P.sramUncorrectable) ∧ t.mem = s.mem) ∧
    (∀ o, sliceOwner s (d.val * 48 + l.val) = some o → o < 33 → ∃ t, exec (.patrolScrubRead (.slice d l) w k) s = .next t ∧
      t = { s with regs := t.regs, sliceBad := t.sliceBad } ∧ pget t P.sramUncorrectable = satInc32 (pget s P.sramUncorrectable) ∧
      ∀ (a n : Nat) (x : Outside), a < sliceBase (d.val * 48 + l.val) + 8 * w.toNat + 8 → sliceBase (d.val * 48 + l.val) + 8 * w.toNat < a + n →
        (placeRead t (.cell a none none) n x).1 = stPoisoned))

/-- RIG_COMMIT := 1 on a slot whose transaction is QUIET and that migrates nothing takes the staged fields as they stand, makes RIG_STATUS CHECKING and asks the lender of each staged lease that is not RIGGED here; in elastic mode a RIG_SEQ equal to the last accepted one changes nothing, and so does a commit while another is checked, latched, applied or migrates. RIG_COMMIT := 2 changes nothing while QUIET and rolls a latched commit back with 0x011C. A check that fails puts its code into RIG_RESULT, returns RIG_STATUS to QUIET and reloads the staging from the active rigging; a release that passes makes the shell RELEASING; any other commit that passes is applied at once, with RIG_RESULT 0, unless the shell is RUNNING and its seats change, when it is latched at the next catch number. A capacity that changed meanwhile takes effect after the decision, and then the shell's next job is selected. The deadline of a latched commit, CATCH_DEADLINE_MS after the latch, rolls it back with 0x0118 if a catch point has refused it and with 0x0113 otherwise; after it and after a cancel the catch point is looked at again and seats at which nothing stands go on. -/
def Obligations.RigTransaction : Prop :=
  (∀ (s : State) (n : Slot) (k : Bool), fullUp s = true →
    (pget s (P.rigStatus n.val) = 0 → (shellOf s n.val).migs = [] →
      (pget s P.compositionMode = 1 ∨ (shellOf s n.val).st = .free ∨ (shellOf s n.val).lastRigSeq ≠ some (stagedGet s (P.rigSeq n.val)) →
        exec (.rigCommit n k) s = .next
          (((stagedCommit s n.val k).rig.leases.filter (fun r => !s.borrowed.any (fun l => l.record / 2 ^ 208 == r / 2 ^ 208 && l.st == 3 && l.slot == some n.val))).foldl leaseAsk
            (pset (shellPut s n.val { shellOf s n.val with commit := some (stagedCommit s n.val k) }) (P.rigStatus n.val) 1))) ∧
      (pget s P.compositionMode ≠ 1 → (shellOf s n.val).st ≠ .free → (shellOf s n.val).lastRigSeq = some (stagedGet s (P.rigSeq n.val)) →
        exec (.rigCommit n k) s = .next s)) ∧
    (pget s (P.rigStatus n.val) ≠ 0 ∨ (shellOf s n.val).migs ≠ [] → exec (.rigCommit n k) s = .next s)) ∧
  (∀ (s : State) (n : Slot), fullUp s = true → pget s P.compositionMode ≠ 1 →
    (pget s (P.rigStatus n.val) = 0 → exec (.rigCancel n) s = .next s) ∧
    (pget s (P.rigStatus n.val) = 2 → ∃ t, exec (.rigCancel n) s = .next (latchSettle t n.val) ∧ pget t (P.rigResult n.val) = 0x011C ∧ pget t (P.rigStatus n.val) = 0 ∧
      (shellOf t n.val).commit = none ∧ (shellOf t n.val).staging = rigShown (shellOf t n.val).rig)) ∧
  (∀ (s : State) (n : Slot) (m : Commit), pget s (P.rigStatus n.val) = 1 → (shellOf s n.val).commit = some m →
    (commitCheck s n.val m false ≠ 0 → ∃ t, exec (.rigCheckDone n) s = .next (shellSelect (capacitySettle t) n.val) ∧ pget t (P.rigResult n.val) = commitCheck s n.val m false ∧
      pget t (P.rigStatus n.val) = 0 ∧ (shellOf t n.val).commit = none ∧ (shellOf t n.val).staging = rigShown (shellOf s n.val).rig ∧
      (shellOf t n.val).rig = (shellOf s n.val).rig ∧ (shellOf t n.val).st = (shellOf s n.val).st) ∧
    (commitCheck s n.val m false = 0 → m.seatCount = 0 → ∃ t, exec (.rigCheckDone n) s = .next (shellSelect (capacitySettle t) n.val) ∧ (shellOf t n.val).st = .releasing ∧ (shellOf t n.val).migs = []) ∧
    (commitCheck s n.val m false = 0 → m.seatCount ≠ 0 →
      ((shellOf s n.val).st = .running → resolvedSeats s n.val m ≠ (shellOf s n.val).rig.seats →
        ∃ u, exec (.rigCheckDone n) s = .next (shellSelect (capacitySettle (preemptTry u n.val)) n.val) ∧ pget u (P.rigStatus n.val) = 2 ∧ (shellOf u n.val).rig = (shellOf s n.val).rig ∧
          ∃ m2, (shellOf u n.val).commit = some m2 ∧ m2.atCatch = some (maxCatch s n.val + 1) ∧ m2.tbLatch = s.tb ∧ m2.rig.seats = resolvedSeats s n.val m) ∧
      ((shellOf s n.val).st ≠ .running ∨ resolvedSeats s n.val m = (shellOf s n.val).rig.seats →
        exec (.rigCheckDone n) s = .next (shellSelect (capacitySettle (rigApply (pset s (P.rigResult n.val) 0) n.val { m with rig := { m.rig with seats := resolvedSeats s n.val m } })) n.val)))) ∧
  (∀ (s : State) (n : Slot) (m : Commit), pget s (P.rigStatus n.val) = 2 → (shellOf s n.val).commit = some m → tbPast s.tb m.tbLatch (catchDeadline s n.val * 1000000) = true →
    ∃ u, exec (.catchDeadlineExpiry n) s = .next (latchSettle u n.val) ∧ pget u (P.rigResult n.val) = (if m.catchRefused then 0x0118 else 0x0113) ∧
      pget u (P.rigStatus n.val) = 0 ∧ (shellOf u n.val).commit = none)

/-- A seat stopped at its CATCH whose ops, transfers and stores have drained writes its dirty lines back and stands held at the catch point; a seat of a shell then lets the shell's latches take hold, and a lent seat reports its catch number and descriptor to its borrower. When the copies of a seat change end the commit takes effect, followed by the freeze or pre-emption of the same catch point if every seat stands there, and the shell's next job is selected. A copy that fails ends the rigging with RIG_RESULT 0x011D and RIG_STATUS QUIET and puts the shell's windows on its seats again: an error at the source is then a safety event of the shell; one at the destination retires that seat, closes its bridge to new traffic and files a record, and the seats held at the catch point go on unless another latch stands there. -/
def Obligations.SeatChange : Prop :=
  (∀ (s : State) (i : SeatId), (seatOf s i.val).mode = .run → (seatOf s i.val).core.wait = .catchDrain → (seatOf s i.val).arr.queue = [] →
    (seatOf s i.val).arr.flight = [] → xferOpen (seatOf s i.val) = 0 → (seatOf s i.val).core.stores = [] →
    let f := seatFlush s i.val
    let u := corePut f i.val (coreWait f (seatOf f i.val).core .catchHeld)
    (∀ sl, seatShell u i.val = some sl → exec (.seatCatchDrained i) s = .next (preemptTry u sl)) ∧
    (seatShell u i.val = none → exec (.seatCatchDrained i) s = .next (lentReport u i.val
        (.caught (BitVec.ofNat 64 (seatOf f i.val).core.reached) (BitVec.ofNat 64 (seatOf f i.val).core.catchDesc)))) ∧
      (seatOf u i.val).core.wait = .catchHeld ∧ ∀ l ∈ (seatOf u i.val).core.dcache, l.dirty = false) ∧
  (∀ (s : State) (n : Slot) (m : Commit), (shellOf s n.val).commit = some m → (shellOf s n.val).applying = true → pget s (P.rigStatus n.val) = 3 →
    (allCaught (rigTake s n.val m) n.val = true → exec (.seatCopyDone n) s = .next (shellSelect (catchPoint (rigTake s n.val m) n.val) n.val)) ∧
    (allCaught (rigTake s n.val m) n.val = false → exec (.seatCopyDone n) s = .next (shellSelect (rigTake s n.val m) n.val))) ∧
  (∀ (s : State) (n : Slot), pget (rigUndo s n.val 0x011D) (P.rigResult n.val) = 0x011D ∧ pget (rigUndo s n.val 0x011D) (P.rigStatus n.val) = 0) ∧
  (∀ (s : State) (n : Slot) (i : SeatId), (shellOf s n.val).applying = true →
    let w := windowsLocal (rigUndo s n.val 0x011D) n.val
    exec (.seatCopyFault n i true) s = .next (safetyEvent (mechCount w 4) n.val 4 0x02 none { island := i.val }) ∧
    ∃ u, exec (.seatCopyFault n i false) s = .next (latchSettle (fileError u false { kind := 0x0D, scope := 0, island := i.val, detail0 := seatIdent i.val }) n.val) ∧
      u = { w with retiredSeats := sAdd w.retiredSeats i.val, islands := u.islands } ∧ (islandOf u i.val).st = .retired ∧ (islandOf u i.val).bridge ≠ .opened)

/-- Of a migration that has not ended and whose destination is the source of no migration of its shell, the copy of its next granule (once it may be made: the destination is no channel in service under a commit still waiting) leaves the 65,536 bytes of the destination's granule equal to the source's and every other byte of memory as it was, source included; the migration is one granule further and has ended after its last granule, every other migration of the shell is as it was, and a freeze or a change of job that waited for it may take hold. A copy whose group may not be made yet changes nothing. -/
def Obligations.MigrationCopies : Prop :=
  ∀ (s : State) (n : Slot) (k : Fin 96) (m : Migration), Memory.wf s = true →
    (shellOf s n.val).migs.find? (fun x => x.lch == k.val && !x.done) = some m →
    ((migGroup (shellOf s n.val).migs 96 m).all (migMay s n.val) = false → exec (.migrationGranuleCopied n k) s = .next s) ∧
    ((∀ x ∈ (shellOf s n.val).migs, x.src ≠ m.dst) → migMay s n.val m = true →
      ∃ u, exec (.migrationGranuleCopied n k) s = .next (preemptTry (migSettle u n.val) n.val) ∧
        (∀ a, chanBase m.dst + m.copied * 65536 ≤ a → a < chanBase m.dst + m.copied * 65536 + 65536 →
          memGet u a = memGet s (chanBase m.src + m.copied * 65536 + (a - (chanBase m.dst + m.copied * 65536)))) ∧
        (∀ a, a < chanBase m.dst + m.copied * 65536 ∨ chanBase m.dst + m.copied * 65536 + 65536 ≤ a → memGet u a = memGet s a) ∧
        (shellOf u n.val).migs = (shellOf s n.val).migs.map (fun x => if x.lch = k.val then
          { x with copied := x.copied + 1, done := decide (x.copied + 1 ≥ chanBytes / 65536) } else x))

/-- While a commit is being checked FREEZE_CTL 1 to 4 change nothing. Otherwise, from full function on, each of them puts 0x0115 into FREEZE_RESULT in S1 mode and 0x0101 on a FREE slot, and changes nothing else. In elastic mode a freeze of an IDLE shell that migrates nothing makes it FROZEN, and one of a RUNNING shell with a job latches for the next catch number; a save of a FROZEN shell begins with the windows of its own seats in HOLD when IMAGE_TARGET passes R78 and is refused with 0x011E otherwise; a thaw of a FROZEN shell lets it run when it has a job or a pre-empted one and idle otherwise, and its next job is selected; a thaw of a SAVED shell asks the host for the image where IMAGE_TARGET lies in the host window, and elsewhere begins the restore from the image that stands there or is refused with that image's code; a load on an IDLE shell without work whose header's span passes R78 begins. The save ends SAVED with FREEZE_RESULT 0 and the windows on the image; the restore ends with the image gone, the windows on the seats, FREEZE_RESULT 0 and the shell going on. What stands at IMAGE_TARGET for a load is refused with 0x011E, 0x011A or 0x011B, or makes the shell SAVED with its windows on the image; a shell that is not IDLE any more, or has a job, refuses it with 0x0102; for a restore it is refused or the restore runs with the windows of the seats in HOLD. -/
def Obligations.Freeze : Prop :=
  (∀ (s : State) (n : Slot), pget s (P.rigStatus n.val) = 1 → exec (.freezeCtlFreeze n) s = .next s ∧ exec (.freezeCtlSave n) s = .next s ∧
    exec (.freezeCtlThaw n) s = .next s ∧ exec (.freezeCtlLoadImage n) s = .next s) ∧
  (∀ (s : State) (n : Slot), fullUp s = true → pget s (P.rigStatus n.val) ≠ 1 → pget s P.compositionMode = 1 →
    exec (.freezeCtlFreeze n) s = .next (pset s (P.freezeResult n.val) 0x0115) ∧ exec (.freezeCtlSave n) s = .next (pset s (P.freezeResult n.val) 0x0115) ∧
    exec (.freezeCtlThaw n) s = .next (pset s (P.freezeResult n.val) 0x0115) ∧ exec (.freezeCtlLoadImage n) s = .next (pset s (P.freezeResult n.val) 0x0115)) ∧
  (∀ (s : State) (n : Slot), fullUp s = true → pget s (P.rigStatus n.val) ≠ 1 → pget s P.compositionMode ≠ 1 →
    ((shellOf s n.val).st = .free → exec (.freezeCtlFreeze n) s = .next (pset s (P.freezeResult n.val) 0x0101) ∧ exec (.freezeCtlSave n) s = .next (pset s (P.freezeResult n.val) 0x0101) ∧
      exec (.freezeCtlThaw n) s = .next (pset s (P.freezeResult n.val) 0x0101) ∧ exec (.freezeCtlLoadImage n) s = .next (pset s (P.freezeResult n.val) 0x0101)) ∧
    ((shellOf s n.val).st = .idle → (shellOf s n.val).migs = [] →
      ∃ t, exec (.freezeCtlFreeze n) s = .next t ∧ (shellOf t n.val).st = .frozen ∧ pget t (P.freezeResult n.val) = 0 ∧ pget t (P.freezeCtl n.val) = 1 ∧
        t = { s with regs := t.regs, shells := t.shells }) ∧
    ((shellOf s n.val).st = .running → (shellOf s n.val).freezeLatch = false → (shellOf s n.val).job ≠ none →
      ∃ t, exec (.freezeCtlFreeze n) s = .next t ∧ (shellOf t n.val).st = .running ∧ (shellOf t n.val).freezeLatch = true ∧
        (shellOf t n.val).freezeAt = some (maxCatch s n.val + 1) ∧ pget t (P.freezeResult n.val) = 0) ∧
    ((shellOf s n.val).st = .frozen → (shellOf s n.val).saving = false →
      (imageSpanOk s (pget s (P.imageTarget n.val)) (saveBytes s n.val) = true →
        ∃ t, exec (.freezeCtlSave n) s = .next t ∧ (shellOf t n.val).saving = true ∧ (shellOf t n.val).holds = List.range (shellOf s n.val).rig.seats.length ∧ (shellOf t n.val).st = .frozen) ∧
      (imageSpanOk s (pget s (P.imageTarget n.val)) (saveBytes s n.val) = false →
        ∃ t, exec (.freezeCtlSave n) s = .next t ∧ pget t (P.freezeResult n.val) = 0x011E ∧ (shellOf t n.val).st = .frozen) ∧
      exec (.freezeCtlThaw n) s = .next (shellSelect (thawed (pset (pset s (P.freezeCtl n.val) 3) (P.freezeResult n.val) 0) n.val) n.val)) ∧
    ((shellOf s n.val).st = .saved → (shellOf s n.val).restoring = false → (shellOf s n.val).loading = false →
      (inHostWindow (pget s (P.imageTarget n.val)) = true →
        ∃ t, exec (.freezeCtlThaw n) s = .next t ∧ (shellOf t n.val).loading = true ∧ (shellOf t n.val).st = .saved ∧
          t.sent = s.sent ++ [.hostRead (hostAddr (pget s (P.imageTarget n.val))) (saveBytes (pset s (P.freezeCtl n.val) 3) n.val)]) ∧
      (inHostWindow (pget s (P.imageTarget n.val)) = false →
        exec (.freezeCtlThaw n) s = .next (restoreBegin (pset s (P.freezeCtl n.val) 3) n.val []))) ∧
    ((shellOf s n.val).st = .idle → (shellOf s n.val).job = none → (shellOf s n.val).preempted = [] → (shellOf s n.val).loading = false →
      launchQueued s n.val = false →
      imageSpanOk s (pget s (P.imageTarget n.val)) 64 = true →
        ∃ t, exec (.freezeCtlLoadImage n) s = .next t ∧ (shellOf t n.val).loading = true ∧ (shellOf t n.val).st = .idle)) ∧
  (∀ (s : State) (n : Nat), (shellOf (thawed s n) n).st = if (shellOf s n).job.isSome ∨ (shellOf s n).preempted ≠ [] then .running else .idle) ∧
  (∀ (s : State) (n : Slot), (shellOf s n.val).st = .frozen → (shellOf s n.val).saving = true →
    ∃ u, exec (.freezeSaveDone n) s = .next (pset (windowsImage u n.val (saveKey n.val)) (P.freezeResult n.val) 0) ∧ (shellOf u n.val).st = .saved ∧ (shellOf u n.val).saving = false ∧
      imageOf u (saveKey n.val) = saveImage s n.val) ∧
  (∀ (s : State) (n : Slot), (shellOf s n.val).st = .saved → (shellOf s n.val).restoring = true →
    ∃ u, exec (.freezeRestoreDone n) s = .next (shellSelect (pset (thawed (let v := windowsLocal u n.val; if bitOf (imageOf s (saveKey n.val)).header 417 then pset v (P.debugSeen n.val) 1 else v) n.val)
        (P.freezeResult n.val) 0) n.val) ∧
      (shellOf u n.val).restoring = false ∧ imageOf u (saveKey n.val) = {}) ∧
  (∀ (s : State) (n : Nat) (h : Nat) (ok : Bool), imageCode s n h ok = 0 ∨ imageCode s n h ok = 0x011A ∨ imageCode s n h ok = 0x011B) ∧
  (∀ (s : State) (n : Slot) (host hd se ch re : List Byte), host = hd ++ se ++ ch ++ re → (shellOf s n.val).loading = true →
    ((shellOf s n.val).st = .idle → (shellOf s n.val).job = none →
      (imageSpanOk s (pget s (P.imageTarget n.val)) (bitsOf (targetHeader s n.val host) 255 192) = false →
        ∃ t, exec (.imageHeaderReadDone n hd se ch re) s = .next t ∧ pget t (P.freezeResult n.val) = 0x011E ∧ (shellOf t n.val).st = .idle) ∧
      (imageSpanOk s (pget s (P.imageTarget n.val)) (bitsOf (targetHeader s n.val host) 255 192) = true →
        (imageCode s n.val (targetHeader s n.val host) (targetImage s n.val host).2 ≠ 0 →
          ∃ t, exec (.imageHeaderReadDone n hd se ch re) s = .next t ∧
            pget t (P.freezeResult n.val) = imageCode s n.val (targetHeader s n.val host) (targetImage s n.val host).2 ∧ (shellOf t n.val).st = .idle) ∧
        (imageCode s n.val (targetHeader s n.val host) (targetImage s n.val host).2 = 0 →
          ∃ u, exec (.imageHeaderReadDone n hd se ch re) s = .next (pset (windowsImage u n.val (saveKey n.val)) (P.freezeResult n.val) 0) ∧ (shellOf u n.val).st = .saved ∧
            imageOf u (saveKey n.val) = (targetImage s n.val host).1))) ∧
    ((shellOf s n.val).st ≠ .saved → (shellOf s n.val).st ≠ .idle ∨ (shellOf s n.val).job ≠ none →
      exec (.imageHeaderReadDone n hd se ch re) s = .next (pset (shellPut s n.val { shellOf s n.val with loading := false }) (P.freezeResult n.val) 0x0102)) ∧
    ((shellOf s n.val).st = .saved →
      exec (.imageHeaderReadDone n hd se ch re) s = .next (restoreBegin (shellPut s n.val { shellOf s n.val with loading := false }) n.val host))) ∧
  (∀ (s : State) (n : Slot) (host : List Byte),
    (imageCode s n.val (targetHeader s n.val host) (targetImage s n.val host).2 ≠ 0 →
      pget (restoreBegin s n.val host) (P.freezeResult n.val) = imageCode s n.val (targetHeader s n.val host) (targetImage s n.val host).2 ∧
      (shellOf (restoreBegin s n.val host) n.val).restoring = (shellOf s n.val).restoring) ∧
    (imageCode s n.val (targetHeader s n.val host) (targetImage s n.val host).2 = 0 →
      (shellOf (restoreBegin s n.val host) n.val).restoring = true ∧
      (shellOf (restoreBegin s n.val host) n.val).holds = List.range (shellOf s n.val).rig.seats.length))

/-- When the scrub of a seat outside every shell ends, the seat is no longer being scrubbed, stands in the state after broadcast with its pegs clear and, once its island is out of reset, its bridge open, and its scratchpad reads zero. When the scrub of a channel that awaits no retirement ends, its bytes read zero, its poison marks are gone and it can be taken again. Each millisecond adds a shell's seat, channel and port counts to its three meters, up to the largest 64-bit number, where a seat or channel that a commit took counts until it is scrubbed, a releasing shell's those still being scrubbed, and its ports no more; it leaves memory, seats and shells alone. -/
def Obligations.ScrubsAndMeters : Prop :=
  (∀ (s : State) (i : SeatId), s.scrubSeats.contains i.val = true → seatShell s i.val = none →
    ∃ u, exec (.seatScrubDone i) s = .next (lentSettle u) ∧ u.scrubSeats.contains i.val = false ∧ (seatOf u i.val).mode = .idle ∧ (seatOf u i.val).pegs = 0 ∧
      (islandOf u i.val).bridge = (if (islandOf s i.val).st = .running then .opened else .closed) ∧ (∀ n, (shellOf u n).leavingSeats = sDel (shellOf s n).leavingSeats i.val) ∧ ∀ a, scratchBase i.val ≤ a → a < scratchBase i.val + scratchBytes → memGet u a = 0) ∧
  (∀ (s : State) (c : ChanId), s.scrubChans.contains c.val = true → (chanOf s c.val).st ≠ .retirePending → (∀ n < 32, (shellOf s n).rig.channels.contains c.val = false) →
    ∃ u, exec (.channelScrubDone c) s = .next (lentSettle u) ∧ u.scrubChans.contains c.val = false ∧ (chanOf u c.val).poison = [] ∧ (chanOf u c.val).bad = [] ∧ (∀ n, (shellOf u n).leavingChans = sDel (shellOf s n).leavingChans c.val) ∧
      ∀ a, chanBase c.val ≤ a → a < chanBase c.val + chanBytes → memGet u a = 0) ∧
  (∀ s : State, s.start.msf = true → ∃ t, exec .meterTick s = .next t ∧ t = { s with regs := t.regs } ∧
    ∀ n < 32, ((shellOf s n).st = .free → pget t (P.meterSeatMs n) = pget s (P.meterSeatMs n)) ∧
      ((shellOf s n).st ≠ .free →
        pget t (P.meterSeatMs n) = min (2 ^ 64 - 1) (pget s (P.meterSeatMs n) + (meterUnits s (shellOf s n)).1) ∧
        pget t (P.meterChannelMs n) = min (2 ^ 64 - 1) (pget s (P.meterChannelMs n) + (meterUnits s (shellOf s n)).2.1) ∧
        pget t (P.meterPortMs n) = min (2 ^ 64 - 1) (pget s (P.meterPortMs n) + (meterUnits s (shellOf s n)).2.2))) ∧
  (∀ (s : State) (sh : Shell), (sh.st ≠ .releasing → meterUnits s sh = (sh.rig.seats.length + sh.leavingSeats.length, sh.rig.channels.length + sh.leavingChans.length, sh.rig.ports.length)) ∧
    (sh.st = .releasing → meterUnits s sh = (sh.rig.seats.countP (fun i => s.scrubSeats.contains i) + sh.leavingSeats.length, sh.rig.channels.countP (fun c => s.scrubChans.contains c) + sh.leavingChans.length, 0)))

/-- For the products q behind one accumulator, grouped in any way into words that are merged in, let S be the sum of |q|. If S is below 2^127 - 2^112, then in whatever order the products are added to a cleared word no intermediate word is special and the final word, read as a 128-bit two's-complement number, is the sum of the q values; and merging the words of the groups in any order gives that same word. -/
def Obligations.FretSumsAreExact : Prop :=
  ∀ gs : List (List Int), ((gs.flatten.map Int.natAbs).sum : Nat) < 2 ^ 127 - 2 ^ 112 →
    (∀ qs : List Int, qs.Perm gs.flatten →
      (∀ pre, pre <+: qs → wSpecial (pre.foldl (fun w q => fretAdd w (.units q)) 0) = false) ∧
      wInt (qs.foldl (fun w q => fretAdd w (.units q)) 0) = gs.flatten.sum) ∧
    (∀ hs : List (List Int), hs.Perm gs →
      (∀ pre, pre <+: hs → wSpecial (pre.foldl (fun w g => fretAdd w (termOf (g.foldl (fun w q => fretAdd w (.units q)) 0))) 0) = false) ∧
      wInt (hs.foldl (fun w g => fretAdd w (termOf (g.foldl (fun w q => fretAdd w (.units q)) 0))) 0) = gs.flatten.sum)

/-- Whatever terms an accumulator receives, finite ones and the special words of Table Frets-4, as long as its finite terms meet the bound of R98, every order of them reaches the same word. Joining kinds is commutative and associative with the finite kind as its unit, and gives what Table Frets-5 says. -/
def Obligations.FretOrderIsFree : Prop :=
  (∀ ts us : List Term, ts.Perm us → (∀ t ∈ ts, ∀ k, t = .special k → 1 ≤ k ∧ k ≤ 4) →
    ((ts.map (fun t => match t with | .units q => q.natAbs | .special _ => 0)).sum : Nat) < 2 ^ 127 - 2 ^ 112 →
    ts.foldl fretAdd 0 = us.foldl fretAdd 0) ∧
  (∀ a b c : Fin 5, joinKind a.val b.val = joinKind b.val a.val ∧ joinKind (joinKind a.val b.val) c.val = joinKind a.val (joinKind b.val c.val) ∧ joinKind a.val 0 = a.val) ∧
  joinKind 4 4 = 4 ∧ joinKind 4 1 = 1 ∧ joinKind 4 2 = 2 ∧ joinKind 4 3 = 3 ∧ joinKind 1 1 = 1 ∧ joinKind 1 2 = 3 ∧ joinKind 1 3 = 3 ∧
  joinKind 2 2 = 2 ∧ joinKind 2 3 = 3 ∧ joinKind 3 3 = 3

/-- The descriptor at the head of a seat's array-op queue, when it passes its checks, no failed op is ahead of it and no unretired op holds it back, leaves the queue and is in flight. ORIGIN loads the output-origin register; CMP_LOADT loads its bank with the table and its source; MMA and CMP do their work on the array as it stands, cleared first if CLEAR is set, and meet the guard check; CONV, REQ and LOADW go to the conversion unit at once if it is free. The result of the guard check goes with the op in flight. No other seat and nothing outside the array changes, but for what the conversion unit does. -/
def Obligations.ArrayOpsStart : Prop :=
  ∀ (s : State) (i : SeatId) (o : ArrOp) (rest : List ArrOp),
    (seatOf s i.val).arr.queue = o :: rest → (seatOf s i.val).arr.flight.any (fun f => f.status != 0 || opWaits o.desc f.op.desc) = false →
    opFormatOk s i.val (seatLevel1 s i.val) o.desc = true →
    (dOp o.desc = 5 → exec (.opOrigin i) s = .next (convNext (arrPut s i.val { (seatOf s i.val).arr with
        origin := bitsOf o.desc 121 58, queue := rest,
        flight := (seatOf s i.val).arr.flight ++ [{ op := o, origin := (seatOf s i.val).arr.origin }] }) i.val)) ∧
    (dOp o.desc = 8 → exec (.opCmpLoadt i .ok) s = .next (convNext (arrPut s i.val { (seatOf s i.val).arr with
        banks := tset (fun _ => {}) (seatOf s i.val).arr.banks (dTile o.desc) (bankLoad s i.val (dOffB o.desc) (dK o.desc)), queue := rest,
        flight := (seatOf s i.val).arr.flight ++ [{ op := o, origin := (seatOf s i.val).arr.origin }] }) i.val)) ∧
    (dOp o.desc = 1 → let a := mmaRun s i.val (if dClear o.desc then tileClear (seatOf s i.val).arr o.desc else (seatOf s i.val).arr) o.desc
      exec (.opMma i .ok) s = .next (arrPut s i.val { a with
        queue := rest, flight := (seatOf s i.val).arr.flight ++ [flightGuard a { op := o, origin := (seatOf s i.val).arr.origin, wantsConv := dConvert o.desc } .ok] })) ∧
    (dOp o.desc = 9 → let a := cmpRun s i.val (if dClear o.desc then tileClear (seatOf s i.val).arr o.desc else (seatOf s i.val).arr) o.desc
      exec (.opCmp i .ok) s = .next (arrPut s i.val { a with
        queue := rest, flight := (seatOf s i.val).arr.flight ++ [flightGuard a { op := o, origin := (seatOf s i.val).arr.origin, wantsConv := dConvert o.desc } .ok] })) ∧
    (dOp o.desc = 2 → exec (.opConv i .ok) s = .next (convNext (arrPut s i.val { (seatOf s i.val).arr with
        queue := rest, flight := (seatOf s i.val).arr.flight ++ [{ op := o, origin := (seatOf s i.val).arr.origin, wantsConv := true }] }) i.val)) ∧
    (dOp o.desc = 4 → exec (.opReq i .ok) s = .next (convNext (arrPut s i.val { (seatOf s i.val).arr with
        queue := rest, flight := (seatOf s i.val).arr.flight ++ [{ op := o, origin := (seatOf s i.val).arr.origin, wantsConv := true }] }) i.val)) ∧
    (dOp o.desc = 3 → exec (.opLoadw i .ok) s = .next (convNext (arrPut s i.val { (seatOf s i.val).arr with
        queue := rest, flight := (seatOf s i.val).arr.flight ++ [{ op := o, origin := (seatOf s i.val).arr.origin, wantsConv := true }] }) i.val))

/-- In fret mode an MMA adds, to the word of each active cell (zero first if CLEAR is set), the rounded products of its row of A and its column of B, in ascending k; a CMP doubles the word of each active cell and adds the answer, level by level, where a special word stays and a sum that enters the reserved band is RANGE (log 81). Inactive cells keep their words unless CLEAR is set, when they are zero; no other tile changes, nor does any byte of memory. -/
def Obligations.MmaCells : Prop :=
  ∀ (s : State) (n : SeatId) (a : Arr) (d : Nat), dTile d < 12 →
    (dFret d = true → ∀ i j, i < 16 → j < 64 → arrWord (mmaRun s n.val a d) (dTile d) (64 * i + j) =
      (if i < dM d ∧ j < dN d then
        (cellPairs (dFmtA d) (operandRow s n.val (dOffA d) (dFmtA d) (dM d) (dK d) i) (operandRow s n.val (dOffB d) (dFmtB d) (dN d) (dK d) j)).foldl
          (fun w p => fretAdd w (fretProduct p.1 p.2 (s16 (dBaseRaw d))).1) (arrWord a (dTile d) (64 * i + j))
       else arrWord a (dTile d) (64 * i + j))) ∧
    (∀ i j, i < 16 → j < 64 → arrWord (cmpRun s n.val a d) (dTile d) (64 * i + j) =
      (if i < dM d ∧ j < dN d then
        (List.range (dK d)).foldl (fun w l =>
          let e := (tget (fun _ => {}) a.banks (dOffB d % 4)).entries.getD (64 * (dOffB d / 4 + l) + j) 0
          let v := s8 ((scratchRead s n.val (32 * dOffA d + 256 * i) 256).getD (e % 256) 0).toNat
          fretAdd w (.units (wInt w + (if v > s8 (e / 256) then 1 else 0)))) (arrWord a (dTile d) (64 * i + j))
       else arrWord a (dTile d) (64 * i + j))) ∧
    (∀ w b : Nat, w < 2 ^ 128 → b ≤ 1 → (wSpecial w = false → (2 * wInt w + b).natAbs < 2 ^ 127 - 2 ^ 112 → fretAdd w (.units (wInt w + b)) = (2 * w + b) % 2 ^ 128) ∧
      (wSpecial w = true → 1 ≤ wKind w → wKind w ≤ 4 → fretAdd w (.units (wInt w + b)) = w)) ∧
    (∀ t k, t ≠ dTile d → k < 1024 → arrWord (mmaRun s n.val a d) t k = arrWord a t k ∧ arrWord (cmpRun s n.val a d) t k = arrWord a t k ∧
      arrWord (tileClear a d) t k = arrWord a t k ∧ tileStatus (mmaRun s n.val a d) t = tileStatus a t ∧ tileStatus (cmpRun s n.val a d) t = tileStatus a t ∧
      tileStatus (tileClear a d) t = tileStatus a t) ∧
    (∀ k, k < 1024 → arrWord (tileClear a d) (dTile d) k = 0) ∧
    tileStatus (tileClear a d) (dTile d) = dBaseRaw d * 2 ^ 16 + (if dFret d then 0x80 else 0)

/-- A parity error of the seat's own path at the start of an op raises a safety event of mechanism 8. A descriptor at the head that breaks a rule does nothing: it is in flight with op status 0x01 and the accumulators, tile status words and memory stand. When the oldest op retires done, its result word is posted with its sequence number, and its peg is set if PEG_EN asks for one; when it retires with a format error or a failed check, its result word is posted with its status, every op behind it is squashed and the queue takes no more ops, no peg is set, and the array-op format trap or the safety event of the failed check follows. -/
def Obligations.ArrayRetire : Prop :=
  (∀ (s : State) (i : SeatId) (o : ArrOp) (rest : List ArrOp) (c : OpCheck), (seatOf s i.val).arr.queue = o :: rest →
    (seatOf s i.val).arr.flight.any (fun f => f.status != 0 || opWaits o.desc f.op.desc) = false → opFormatOk s i.val (seatLevel1 s i.val) o.desc = false → c ≠ .parity →
    ∀ op ∈ [(1, Instr.opMma i c), (2, .opConv i c), (3, .opLoadw i c), (4, .opReq i c), (5, .opOrigin i), (8, .opCmpLoadt i c), (9, .opCmp i c)], dOp o.desc = op.1 ∨ opKnown (dOp o.desc) = false →
      exec op.2 s = .next (arrPut s i.val { (seatOf s i.val).arr with
        queue := rest,
        flight := (seatOf s i.val).arr.flight ++ [{ op := o, origin := (seatOf s i.val).arr.origin, status := 1 }] })) ∧
  (∀ (s : State) (i : SeatId) (o : ArrOp) (rest : List ArrOp), (seatOf s i.val).arr.queue = o :: rest →
    (seatOf s i.val).arr.flight.any (fun f => f.status != 0 || opWaits o.desc f.op.desc) = false →
    ∀ op ∈ [(1, Instr.opMma i .parity), (2, .opConv i .parity), (3, .opLoadw i .parity), (4, .opReq i .parity), (8, .opCmpLoadt i .parity), (9, .opCmp i .parity)], dOp o.desc = op.1 →
      exec op.2 s = .next (seatSafety s i.val 8 0x05 none {})) ∧
  (∀ (s : State) (i : SeatId) (f : Flight) (rest : List Flight), (seatOf s i.val).arr.flight = f :: rest → f.wantsConv = false →
    (f.status = 0 → (dPegEn f.op.desc = false ∨ dOp f.op.desc = 5) → exec (.arrOpRetire i) s = .next (catchSettle (arrPut s i.val (arrPost { (seatOf s i.val).arr with flight := rest } f 0)) i.val)) ∧
    (f.status = 0 → dPegEn f.op.desc = true → dOp f.op.desc ≠ 5 →
      exec (.arrOpRetire i) s = .next (catchSettle (pegWrite (arrPut s i.val (arrPost { (seatOf s i.val).arr with flight := rest } f 0)) i.val (dPeg f.op.desc) true) i.val)) ∧
    (f.status = 1 → exec (.arrOpRetire i) s = .next (seatTrap (arrPut s i.val (arrSquash (arrPost { (seatOf s i.val).arr with flight := rest } f 1))) i.val true 16 (f.op.seq % 2 ^ 16))) ∧
    (2 ≤ f.status → exec (.arrOpRetire i) s = .next (checkEvent (arrPut s i.val (arrSquash (arrPost { (seatOf s i.val).arr with flight := rest } f f.status))) i.val f.failed f.status))) ∧
  (∀ (a : Arr) (f : Flight) (st : Nat), st < 256 → (arrPost a f st).result % 256 = st ∧ bitsOf (arrPost a f st).result 31 16 = f.op.seq % 2 ^ 16 ∧
    (arrPost a f st).result / 2 ^ 32 = (if dOp f.op.desc = 5 ∨ dOp f.op.desc = 8 ∨ dTile f.op.desc ≥ 12 then 0 else tileStatus a (dTile f.op.desc))) ∧
  (∀ a : Arr, (arrSquash a).queue = [] ∧ (arrSquash a).flight = [] ∧ (arrSquash a).stopped = true)

/-- A held conversion begins when no op is on the conversion unit and no op ahead of it has failed: an op that converts writes the converted tile at OFF_C and sets the status flags of what it converted. A pause of a long MMA leaves the op as it is when its checks agree, but for GUARD_SKIPPED, set where a row was skipped, and ends it with op status 0x02 when the residue check or the guard check fails. A tile that received merged words is checked once; its mark goes, and a failure squashes the queue and raises the safety event of mechanism 2 with status 2. -/
def Obligations.ArrayChecks : Prop :=
  (∀ (s : State) (i : SeatId) (f : Flight) (rest : List Flight), (seatOf s i.val).arr.flight = f :: rest → (∀ g ∈ f :: rest, g.inConv = false) →
    f.wantsConv = true → f.status = 0 → f.failed = 0 →
    (dOp f.op.desc = 1 ∨ dOp f.op.desc = 2 ∨ dOp f.op.desc = 9 → (∀ g ∈ rest, g.op.seq ≠ f.op.seq) → (seatOf s i.val).core.reserve = none →
      exec (.conversionUnitStart i) s = .next (arrPut (memWrite s (scratchBase i.val + 32 * dOffC f.op.desc)
          (convTrailer (tileFlag (seatOf s i.val).arr (dTile f.op.desc) (convRun (seatOf s i.val).arr f).2) f.op.desc (convRun (seatOf s i.val).arr f).1)) i.val
        { tileFlag (seatOf s i.val).arr (dTile f.op.desc) (convRun (seatOf s i.val).arr f).2 with
          flight := { f with wantsConv := false, inConv := true, wroteOutput := true } :: rest }))) ∧
  (∀ (s : State) (i : SeatId) (f : Flight) (rest : List Flight), (seatOf s i.val).arr.flight = f :: rest → dOp f.op.desc = 1 → f.status = 0 → f.inConv = false → dK f.op.desc ≠ 0 →
    ((guardCheck (seatOf s i.val).arr f.op.desc).1 = true → exec (.mmaPause i .ok) s =
      .next (flightPut s i.val { f with guardSkipped := f.guardSkipped || (guardCheck (seatOf s i.val).arr f.op.desc).2 })) ∧
    (∃ t, exec (.mmaPause i .residue) s = .next t ∧ ∃ g r, (seatOf t i.val).arr.flight = g :: r ∧ g.status = 2 ∧ g.failed = 1 ∧ g.wantsConv = false ∧ (seatOf t i.val).arr.words = (seatOf s i.val).arr.words ∧ t.mem = s.mem) ∧
    (∃ t, exec (.mmaPause i .guard) s = .next t ∧ ∃ g r, (seatOf t i.val).arr.flight = g :: r ∧ g.status = 2 ∧ g.failed = 2 ∧ g.wantsConv = false ∧ (seatOf t i.val).arr.words = (seatOf s i.val).arr.words ∧ t.mem = s.mem)) ∧
  (∀ (s : State) (i : SeatId) (k : Fin 12), k.val ∈ (seatOf s i.val).arr.merged →
    ((∀ r < 16, (guardRow (seatOf s i.val).arr k.val r false).1 = true) →
      exec (.guardCheckMerged i k false) s = .next (arrPut s i.val { (seatOf s i.val).arr with merged := (seatOf s i.val).arr.merged.filter (· != k.val) })) ∧
    (exec (.guardCheckMerged i k true) s = .next (checkEvent
      (arrPut s i.val (arrSquash { (seatOf s i.val).arr with merged := (seatOf s i.val).arr.merged.filter (· != k.val) })) i.val 2 2)))

/-- Of a core that is ready, an access whose address has bits [63:57] 0b100_0000 and whose bytes lie in the scratchpad is performed there, at any alignment, and the instruction retires. A load takes its bytes, extended, into its register and changes no memory; a store writes them; an atomic writes its new value and returns the old one, sign-extended; LR returns the bytes and reserves their 8 bytes; SC stores and returns 0 when its 8 bytes are reserved and otherwise stores nothing and returns 1, and the reservation is gone. A reservation with a byte in a store is lost, but for one of SC itself, which takes it. Every other seat, register and byte of memory stands. All this is said of the state that the fetch leaves, which differs from the one before in the I cache of the seat and in counts and caches of the memory path alone. -/
def Obligations.CoreOwnScratchpad : Prop :=
  ∀ (s0 s : State) (i : SeatId) (c : Core), (seatOf s i.val).core = c →
    (∀ (cmp : Bool) (rd rs1 : Fin 32) (off : BitVec 12) (w : Fin 4) (sg fp : Bool) (va : Nat), CoreReady s0 i.val (insnSize cmp) s →
      va = (xGet c rs1.val + sextW 12 off.toNat) % 2 ^ 64 → va / 2 ^ 57 = 0x40 → va % 2 ^ 57 + 2 ^ w.val ≤ scratchBytes →
      exec (.coreLoad i cmp rd rs1 off w sg fp) s0 = .next (corePut s i.val
        (coreAfter (loadReg c rd.val (2 ^ w.val) sg fp (scratchRead s i.val (va % 2 ^ 57) (2 ^ w.val))) (insnSize cmp)))) ∧
    (∀ (cmp : Bool) (rs1 rs2 : Fin 32) (off : BitVec 12) (w : Fin 4) (fp : Bool) (va : Nat), CoreReady s0 i.val (insnSize cmp) s →
      va = (xGet c rs1.val + sextW 12 off.toNat) % 2 ^ 64 → va / 2 ^ 57 = 0x40 → va % 2 ^ 57 + 2 ^ w.val ≤ scratchBytes →
      exec (.coreStore i cmp rs1 rs2 off w fp) s0 = .next (corePut
        (memWrite s (scratchBase i.val + va % 2 ^ 57) (leBytes (2 ^ w.val) (if fp then fGet c rs2.val else xGet c rs2.val))) i.val
        { coreAfter c (insnSize cmp) with reserve := (match c.reserve with
            | some r => if va % 2 ^ 57 < r + 8 ∧ r < va % 2 ^ 57 + 2 ^ w.val then none else some r
            | none => none) })) ∧
    (∀ (op : AmoOp) (dbl : Bool) (rd rs1 rs2 : Fin 32) (va w : Nat), CoreReady s0 i.val 4 s → va = xGet c rs1.val → w = (if dbl then 8 else 4) →
      va / 2 ^ 57 = 0x40 → va % 2 ^ 57 + w ≤ scratchBytes →
      exec (.coreAmo i op dbl rd rs1 rs2) s0 = .next (corePut
        (memWrite s (scratchBase i.val + va % 2 ^ 57) (leBytes w (amoValue op w (leNat (scratchRead s i.val (va % 2 ^ 57) w)) (xGet c rs2.val)))) i.val
        { coreAfter (xPut c rd.val (sextW (8 * w) (leNat (scratchRead s i.val (va % 2 ^ 57) w)))) 4 with reserve := (match c.reserve with
            | some r => if va % 2 ^ 57 < r + 8 ∧ r < va % 2 ^ 57 + w then none else some r
            | none => none) })) ∧
    (∀ (dbl : Bool) (rd rs1 : Fin 32) (va w : Nat), CoreReady s0 i.val 4 s → va = xGet c rs1.val → w = (if dbl then 8 else 4) →
      va / 2 ^ 57 = 0x40 → va % 2 ^ 57 + w ≤ scratchBytes →
      exec (.coreLr i dbl rd rs1) s0 = .next (corePut s i.val
        { coreAfter (xPut c rd.val (sextW (8 * w) (leNat (scratchRead s i.val (va % 2 ^ 57) w)))) 4 with reserve := some (va % 2 ^ 57 / 8 * 8) })) ∧
    (∀ (dbl : Bool) (rd rs1 rs2 : Fin 32) (va w : Nat), CoreReady s0 i.val 4 s → va = xGet c rs1.val → w = (if dbl then 8 else 4) →
      va / 2 ^ 57 = 0x40 → va % 2 ^ 57 + w ≤ scratchBytes →
      exec (.coreSc i dbl rd rs1 rs2) s0 = .next (if c.reserve = some (va % 2 ^ 57 / 8 * 8) then
          corePut (memWrite s (scratchBase i.val + va % 2 ^ 57) (leBytes w (xGet c rs2.val))) i.val { coreAfter (xPut c rd.val 0) 4 with reserve := none }
        else corePut s i.val { coreAfter (xPut c rd.val 1) 4 with reserve := none })) ∧
    (∀ n : Nat, coreFetch s0 i.val n = .done s →
      s = { s0 with seats := s.seats, chans := s.chans, regs := s.regs, rangeCaches := s.rangeCaches, freeCtr := s.freeCtr } ∧
      (∀ j, j ≠ i.val → seatOf s j = seatOf s0 j) ∧
      seatOf s i.val = { seatOf s0 i.val with core := { (seatOf s0 i.val).core with icache := c.icache } })

/-- Of a core that is ready, a load or store elsewhere whose address is misaligned takes the misaligned trap of its kind, 4 or 6; one whose address does not translate takes the access fault, 5 or 7; a load or store of a line that the D cache holds is performed there and retires; another load asks its place and waits for its response, a store to memory that is cached asks for its line and waits, and a store to memory that is not cached leaves and retires. An atomic elsewhere drops the line of its address, asks its place and waits; one whose address does not translate, or of the host that is no AMOADD or AMOSWAP or whose function may send none, is an access fault. When the response to a load of memory that is not cached comes with OK, the instruction retires with its bytes; with another status it is an access fault, or a safety event for POISONED; no response comes while the window is in HOLD or the way back is closed. The acknowledgement of the oldest store, once there is one, takes it from the store buffer, and a status other than OK is an imprecise access fault. -/
def Obligations.CoreElsewhere : Prop :=
  (∀ (s0 s t u : State) (i : SeatId) (c : Core) (cmp : Bool) (rd rs1 : Fin 32) (off : BitVec 12) (w : Fin 4) (sg fp : Bool) (va : Nat),
    (seatOf s i.val).core = c → CoreReady s0 i.val (insnSize cmp) s → va = (xGet c rs1.val + sextW 12 off.toNat) % 2 ^ 64 → va / 2 ^ 57 ≠ 0x40 →
    t = corePut s i.val { c with isz := insnSize cmp } → u = coreTouch t i.val va →
    (va % 2 ^ w.val ≠ 0 → exec (.coreLoad i cmp rd rs1 off w sg fp) s0 = .next (seatTrap t i.val false 4 va) ∧
      ∀ rs2, exec (.coreStore i cmp rs1 rs2 off w fp) s0 = .next (seatTrap t i.val false 6 va)) ∧
    (va % 2 ^ w.val = 0 →
      (coreAddr t i.val va (2 ^ w.val) .read = .fault → exec (.coreLoad i cmp rd rs1 off w sg fp) s0 = .next (accessTrap t i.val 5 va)) ∧
      (coreAddr t i.val va (2 ^ w.val) .write = .fault → ∀ rs2, exec (.coreStore i cmp rs1 rs2 off w fp) s0 = .next (accessTrap t i.val 7 va)) ∧
      (∀ ga, coreAddr t i.val va (2 ^ w.val) .read = .at ga →
        (cacheable ga = false → exec (.coreLoad i cmp rd rs1 off w sg fp) s0 = .next (askRead (corePut u i.val
          { c with isz := insnSize cmp, wait := .load rd.val (2 ^ w.val) sg fp va ga, tbWait := u.tb }) (corePlace u i.val ga (2 ^ w.val)) (2 ^ w.val))) ∧
        (cacheable ga = true → lineAt c ga = none → exec (.coreLoad i cmp rd rs1 off w sg fp) s0 = .next (askRead (corePut u i.val
          { c with isz := insnSize cmp, wait := .load rd.val (2 ^ w.val) sg fp va ga, tbWait := u.tb }) (corePlace u i.val (ga / 64 * 64) 64) 64)) ∧
        (∀ l, cacheable ga = true → lineAt c ga = some l → exec (.coreLoad i cmp rd rs1 off w sg fp) s0 = .next (corePut u i.val
          (coreAfter (loadReg c rd.val (2 ^ w.val) sg fp (slice l.data (ga % 64) (2 ^ w.val))) (insnSize cmp))))) ∧
      (∀ ga rs2 b, coreAddr t i.val va (2 ^ w.val) .write = .at ga → b = leBytes (2 ^ w.val) (if fp then fGet c rs2.val else xGet c rs2.val) →
        (cacheable ga = false → exec (.coreStore i cmp rs1 rs2 off w fp) s0 = .next (coreRetire (coreWrite u i.val va ga b) i.val (seatOf (coreWrite u i.val va ga b) i.val).core)) ∧
        (cacheable ga = true → lineAt c ga = none → exec (.coreStore i cmp rs1 rs2 off w fp) s0 = .next (askRead (corePut u i.val
          { c with isz := insnSize cmp, wait := .fill va ga (b.map (·.toNat)), tbWait := u.tb }) (corePlace u i.val (ga / 64 * 64) 64) 64)) ∧
        (∀ l, cacheable ga = true → lineAt c ga = some l → exec (.coreStore i cmp rs1 rs2 off w fp) s0 = .next
          (coreRetire (linePut u i.val (lineStore l va ga b)) i.val (seatOf (linePut u i.val (lineStore l va ga b)) i.val).core))))) ∧
  (∀ (s0 s t u : State) (i : SeatId) (c : Core) (op : AmoOp) (dbl : Bool) (rd rs1 rs2 : Fin 32) (va w : Nat), (seatOf s i.val).core = c → CoreReady s0 i.val 4 s →
    va = xGet c rs1.val → w = (if dbl then 8 else 4) → va / 2 ^ 57 ≠ 0x40 → t = corePut s i.val { c with isz := 4 } → u = coreTouch t i.val va →
    (va % w ≠ 0 → exec (.coreAmo i op dbl rd rs1 rs2) s0 = .next (seatTrap t i.val false 6 va)) ∧
    (va % w = 0 → coreAddr t i.val va w .atomic = .fault → exec (.coreAmo i op dbl rd rs1 rs2) s0 = .next (accessTrap t i.val 7 va)) ∧
    (va % w = 0 → ∀ ga, coreAddr t i.val va w .atomic = .at ga →
      (inHostWindow ga = true → (op ≠ .add ∧ op ≠ .swap ∨ coreAtomics u i.val = false) → exec (.coreAmo i op dbl rd rs1 rs2) s0 = .next (seatTrap u i.val false 7 va)) ∧
      (inHostWindow ga = false ∨ (op = .add ∨ op = .swap) ∧ coreAtomics u i.val = true →
        ∃ v, exec (.coreAmo i op dbl rd rs1 rs2) s0 = .next (askAtomic v (corePlace (lineDrop u i.val ga) i.val ga w) w op (xGet c rs2.val)) ∧
          v = corePut (lineDrop u i.val ga) i.val { (seatOf (lineDrop u i.val ga) i.val).core with
            wait := .amo (amoCode op) rd.val w (xGet c rs2.val) va ga, tbWait := (lineDrop u i.val ga).tb }))) ∧
  (∀ (s : State) (i : SeatId) (c : Core) (rd w va ga : Nat) (sg fp : Bool) (o : Outside), (seatOf s i.val).core = c → c.user = true → c.wait = .load rd w sg fp va ga → cacheable ga = false →
    (coreUnanswered s i.val ga (corePlace s i.val ga w) = true → exec (.coreLoadResponse i o) s = .next s) ∧
    (coreUnanswered s i.val ga (corePlace s i.val ga w) = false → (placeRead s (corePlace s i.val ga w) w o).1 = stOk →
      ∃ t, exec (.coreLoadResponse i o) s = .next t ∧ (seatOf t i.val).core.wait = .none ∧ (seatOf t i.val).core.pc = (c.pc + c.isz) % 2 ^ 64 ∧
        (fp = false → rd ≠ 0 → xGet (seatOf t i.val).core rd = (if sg then sextW (8 * w) (leNat (placeRead s (corePlace s i.val ga w) w o).2.1) else leNat (placeRead s (corePlace s i.val ga w) w o).2.1) % 2 ^ 64) ∧
        t = seatPut s i.val (seatOf t i.val)) ∧
    (coreUnanswered s i.val ga (corePlace s i.val ga w) = false → (placeRead s (corePlace s i.val ga w) w o).1 ≠ stOk →
      exec (.coreLoadResponse i o) s = .next (coreStatus s i.val (placeRead s (corePlace s i.val ga w) w o).1 va ga 5))) ∧
  (∀ (s : State) (i : SeatId) (p : PendStore) (rest : List PendStore) (st : Fin 8), (seatOf s i.val).core.stores = p :: rest → (seatOf s i.val).mode = .run →
    ((p.waits = true ∨ ghUnsent s i.val p.tag = true) → exec (.storeAck i st) s = .next s) ∧
    (p.waits = false → ghUnsent s i.val p.tag = false → (p.status = stOk → placeAnswers s i.val (corePlace s i.val p.ga (if p.ga % 8 = 0 then 8 else 1)) = true) →
      ((if p.outside then st.val else p.status) = stOk → exec (.storeAck i st) s = .next (catchSettle (ghFlush (corePut s i.val { (seatOf s i.val).core with stores := rest })) i.val)) ∧
      ((if p.outside then st.val else p.status) ≠ stOk → exec (.storeAck i st) s = .next
        (coreStatus (ghFlush (corePut s i.val { (seatOf s i.val).core with stores := rest })) i.val (if p.outside then st.val else p.status) p.va p.ga 7))))

/-- Of a core that is ready: an instruction of the profile has the effect its computation gives on registers, fcsr and pc, is counted in instret, and changes nothing else; bits that are none take the illegal-instruction trap with the bits. FENCE only retires; FENCE.I writes every dirty line back, empties the I cache and retires. A CSR read returns the register's value and a write changes it alone: CSRRW writes, CSRRS sets and CSRRC clears the source's bits, and the latter two write nothing for source 0; a CSR that user mode has not, or a write of one it may only read, is an illegal instruction. The firmware of an idle seat, in machine mode, can write vzwdog within its range. ECALL traps with cause 8. EBREAK halts the seat when an operator debug session is open on its shell and traps with cause 3 otherwise. A core whose watchdog count reaches its period, while nothing holds the count, meets a safety event of mechanism 12. -/
def Obligations.CoreInstructions : Prop :=
  (∀ (s0 s : State) (i : SeatId) (c : Core) (cmp : Bool) (k : Compute) (bits : U32), (seatOf s i.val).core = c → CoreReady s0 i.val (insnSize cmp) s →
    (∀ c1, computeRun { c with isz := insnSize cmp } (insnSize cmp) k = some c1 →
      exec (.coreCompute i cmp k bits) s0 = .next (corePut s i.val { c1 with instret := (c.instret + 1) % 2 ^ 64, fetched := [] }) ∧
      c1 = { c with isz := insnSize cmp, x := c1.x, f := c1.f, pc := c1.pc, fcsr := c1.fcsr }) ∧
    (computeRun { c with isz := insnSize cmp } (insnSize cmp) k = none →
      exec (.coreCompute i cmp k bits) s0 = .next (seatTrap (corePut s i.val { c with isz := insnSize cmp }) i.val false 2 bits.toNat))) ∧
  (∀ (s0 s : State) (i : SeatId) (c : Core), (seatOf s i.val).core = c → CoreReady s0 i.val 4 s →
    exec (.coreFence i) s0 = .next (corePut s i.val (coreAfter c 4)) ∧
    ((∀ l ∈ c.dcache, l.dirty = false) → exec (.fenceI i) s0 = .next (corePut s i.val (coreAfter { c with icache := [] } 4))) ∧
    (∃ t, exec (.fenceI i) s0 = .next t ∧ (seatOf t i.val).core.icache = [] ∧ ∀ l ∈ (seatOf t i.val).core.dcache, l.dirty = false) ∧
    exec (.ecall i) s0 = .next (seatTrap (corePut s i.val { c with isz := 4 }) i.val false 8 0)) ∧
  (∀ (s0 s : State) (i : SeatId) (c : Core) (csr : BitVec 12) (rd src : Fin 32) (v : Nat), (seatOf s i.val).core = c → CoreReady s0 i.val 4 s →
    csrRead (corePut s i.val { c with isz := 4 }) i.val csr.toNat false = some v →
    exec (.csrAccess i .rs false csr rd 0) s0 = .next (corePut s i.val (coreAfter (xPut c rd.val v) 4)) ∧
    (∀ imm, ∃ a, a = (if imm then src.val else xGet c src.val) ∧
      (∀ u, csrWrite (corePut s i.val { c with isz := 4 }) i.val csr.toNat a false = some u →
        exec (.csrAccess i .rw imm csr rd src) s0 = .next (coreRetire u i.val (xPut (seatOf u i.val).core rd.val v))) ∧
      (src ≠ 0 → ∀ u, csrWrite (corePut s i.val { c with isz := 4 }) i.val csr.toNat (v ||| a) false = some u →
        exec (.csrAccess i .rs imm csr rd src) s0 = .next (coreRetire u i.val (xPut (seatOf u i.val).core rd.val v))) ∧
      (src ≠ 0 → ∀ u, csrWrite (corePut s i.val { c with isz := 4 }) i.val csr.toNat (v &&& (2 ^ 64 - 1 - a)) false = some u →
        exec (.csrAccess i .rc imm csr rd src) s0 = .next (coreRetire u i.val (xPut (seatOf u i.val).core rd.val v))) ∧
      (csrWrite (corePut s i.val { c with isz := 4 }) i.val csr.toNat a false = none →
        exec (.csrAccess i .rw imm csr rd src) s0 = .next (seatTrap (corePut s i.val { c with isz := 4 }) i.val false 2 (csrBits .rw imm csr rd src))))) ∧
  (∀ (s : State) (i : SeatId) (c : Core) (v : Nat), (seatOf s i.val).core = c → (seatOf s i.val).mode = .run → c.user = true →
    csrWrite s i.val 0x800 v false = some (corePut s i.val { c with srSeed := v % 2 ^ 64 }) ∧
    csrWrite s i.val 0x003 v false = some (corePut s i.val { c with fcsr := v % 256 }) ∧
    (∀ k, 0xC00 ≤ k → csrWrite s i.val k v false = none)) ∧
  (∀ (s : State) (i : SeatId) (c : Core) (src : Fin 32), (seatOf s i.val).core = c → (seatOf s i.val).mode = .idle → c.user = false → c.wait = .none →
    (islandNow s i.val).st = .running → 1000 ≤ xGet c src.val → xGet c src.val ≤ 1000000 →
    exec (.csrAccess i .rw false 0x7C0 0 src) s = .next (corePut s i.val
      { coreAfter c 4 with wdog := xGet c src.val, pc := c.pc, mpc := (c.mpc + 4) % 2 ^ 64 % 32768 })) ∧
  (∀ (s0 s : State) (i : SeatId) (c : Core) (op : CsrOp) (imm : Bool) (csr : BitVec 12) (rd src : Fin 32), (seatOf s i.val).core = c → CoreReady s0 i.val 4 s →
    csrRead (corePut s i.val { c with isz := 4 }) i.val csr.toNat false = none →
    exec (.csrAccess i op imm csr rd src) s0 = .next (seatTrap (corePut s i.val { c with isz := 4 }) i.val false 2 (csrBits op imm csr rd src))) ∧
  (∀ (s0 s : State) (i : SeatId) (c : Core) (cmp : Bool), (seatOf s i.val).core = c → CoreReady s0 i.val (insnSize cmp) s →
    (∀ sl, seatShell s i.val = some sl → (shellOf s sl).debugOpen = true → exec (.ebreak i cmp) s0 = .next (seatPut s i.val { seatOf s i.val with
      mode := .halted, core := coreHalt (corePut s i.val { c with isz := insnSize cmp }) { c with isz := insnSize cmp, mcause := 3, mtval := c.pc, mepc := c.pc, user := false } })) ∧
    ((∀ sl, seatShell s i.val = some sl → (shellOf s sl).debugOpen = false) →
      exec (.ebreak i cmp) s0 = .next (seatTrap (corePut s i.val { c with isz := insnSize cmp }) i.val false 3 c.pc))) ∧
  (∀ (s : State) (i : SeatId), (seatOf s i.val).mode = .run → wdHolds (seatOf s i.val).core.wait = false → (seatOf s i.val).core.wdog ≤ wdCount s (seatOf s i.val).core →
    exec (.tenderWatchdogExpiry i) s = .next (seatSafety
      (corePut s i.val { (seatOf s i.val).core with mcause := 17 + 2 ^ 63, mtval := wdCount s (seatOf s i.val).core, mepc := (seatOf s i.val).core.pc, user := false }) i.val 12 9
      (some (s.tb - (seatOf s i.val).core.wdog))
      { detail0 := wdCount s (seatOf s i.val).core, detail1 := (seatOf s i.val).core.pc, code := 17, seatId := some (vzseatid s i.val) }))

/-- Of a core that is ready and an instruction whose fields R170 allows: ARR.ISSUE puts the descriptor at the end of the queue with the seed of vzsrseed and retires while fewer than 16 issued ops have not retired, waits while 16 have not, and retires without effect once the queue accepts no ops; a wait ends when an op has retired. ARR.RESULT returns the latest result word. ARR.WAIT retires when at most n issued ops have not retired and waits otherwise, and ends its wait then; ARR.FENCE retires. With a field R170 forbids, each is an illegal instruction instead. -/
def Obligations.ArrayInstructions : Prop :=
  (∀ (s0 s : State) (i : SeatId) (c : Core) (a : Arr), (seatOf s i.val).core = c → (seatOf s i.val).arr = a → CoreReady s0 i.val 4 s →
    (∀ rs1 rs2 : Fin 32,
      (a.stopped = false → arrOpen a < 16 → exec (.arrIssue i 0 rs1 rs2) s0 = .next (seatPut s i.val { seatOf s i.val with
        core := coreAfter c 4
        arr := { a with queue := a.queue ++ [{ desc := xGet c rs1.val + xGet c rs2.val * 2 ^ 64, seed := c.srSeed, seq := a.accepted + 1 }], accepted := a.accepted + 1 } })) ∧
      (a.stopped = false → 16 ≤ arrOpen a → exec (.arrIssue i 0 rs1 rs2) s0 = .next (corePut s i.val
        { c with isz := 4, wait := .issue (xGet c rs1.val + xGet c rs2.val * 2 ^ 64), tbWait := s.tb })) ∧
      (a.stopped = true → exec (.arrIssue i 0 rs1 rs2) s0 = .next (corePut s i.val (coreAfter c 4))) ∧
      (∀ rd, rd ≠ 0 → exec (.arrIssue i rd rs1 rs2) s0 = .next (coreIllegal (corePut s i.val { c with isz := 4 }) i.val (insnR custom0 0 rs2.val rs1.val 0 rd.val)))) ∧
    (∀ rd rs1 rs2 : Fin 32, exec (.arrResult i rd 0 0) s0 = .next (corePut s i.val (coreAfter (xPut c rd.val a.result) 4)) ∧
      (rs1 ≠ 0 ∨ rs2 ≠ 0 → exec (.arrResult i rd rs1 rs2) s0 = .next (coreIllegal (corePut s i.val { c with isz := 4 }) i.val (insnR custom0 1 rs2.val rs1.val 0 rd.val)))) ∧
    (∀ (rd rs1 : Fin 32) (n : BitVec 12),
      (n.toNat < 16 → arrOpen a ≤ n.toNat → exec (.arrWait i 0 0 n) s0 = .next (corePut s i.val (coreAfter c 4))) ∧
      (n.toNat < 16 → n.toNat < arrOpen a → exec (.arrWait i 0 0 n) s0 = .next (corePut s i.val { c with isz := 4, wait := .arrWait n.toNat, tbWait := s.tb })) ∧
      (16 ≤ n.toNat ∨ rd ≠ 0 ∨ rs1 ≠ 0 → exec (.arrWait i rd rs1 n) s0 = .next (coreIllegal (corePut s i.val { c with isz := 4 }) i.val (insnI custom0 n.toNat rs1.val 1 rd.val))) ∧
      exec (.arrFence i 0 0 0) s0 = .next (corePut s i.val (coreAfter c 4)) ∧
      (n ≠ 0 ∨ rd ≠ 0 ∨ rs1 ≠ 0 → exec (.arrFence i rd rs1 n) s0 = .next (coreIllegal (corePut s i.val { c with isz := 4 }) i.val (insnI custom0 n.toNat rs1.val 2 rd.val))))) ∧
  (∀ (s : State) (i : SeatId) (d n : Nat), (seatOf s i.val).core.user = true →
    ((seatOf s i.val).core.wait = .issue d → (seatOf s i.val).arr.stopped = false → arrOpen (seatOf s i.val).arr < 16 →
      ∃ t, exec (.arrIssueUnblock i) s = .next t ∧ (seatOf t i.val).core.wait = .none ∧ (seatOf t i.val).core.pc = ((seatOf s i.val).core.pc + (seatOf s i.val).core.isz) % 2 ^ 64 ∧
        (seatOf t i.val).arr.queue = (seatOf s i.val).arr.queue ++ [{ desc := d, seed := (seatOf s i.val).core.srSeed, seq := (seatOf s i.val).arr.accepted + 1 }] ∧ t = seatPut s i.val (seatOf t i.val)) ∧
    ((seatOf s i.val).core.wait = .issue d → (seatOf s i.val).arr.stopped = false → 16 ≤ arrOpen (seatOf s i.val).arr → exec (.arrIssueUnblock i) s = .next s) ∧
    ((seatOf s i.val).core.wait = .arrWait n → arrOpen (seatOf s i.val).arr ≤ n →
      ∃ t, exec (.arrWaitDone i) s = .next t ∧ (seatOf t i.val).core.wait = .none ∧ (seatOf t i.val).core.pc = ((seatOf s i.val).core.pc + (seatOf s i.val).core.isz) % 2 ^ 64 ∧
        (seatOf t i.val).arr = (seatOf s i.val).arr ∧ t = seatPut s i.val (seatOf t i.val)) ∧
    ((seatOf s i.val).core.wait = .arrWait n → n < arrOpen (seatOf s i.val).arr → exec (.arrWaitDone i) s = .next s))

/-- Of a core that is ready: PEG.SET without its release bit writes its peg and retires; PEG.TEST returns the peg; PEG.WAIT with a peg that has its value observes it, clears it if asked and, without an acquire, retires with the seat clocks it waited, here 0; with another value it waits; PEG.WAITANY without an acquire and with a set peg of its mask returns the lowest one, with mask bits above 47 is the operand exception, and otherwise waits; PEG.RSET with a peg address of the shell and no release bit sends its peg write and retires, and with an address outside the shell is the operand exception; with the release bit the peg writes wait for the release. VZ.FENCE acquire at seat scope retires, and a release begins; a release completes, with its peg write, once no store that its scope counts is outstanding: every store from shell scope on, those to the die at die scope, where the others need only have left; at seat scope, once none of its packets stands before its first bridge. A core of a shell that is not being stopped, waiting without acquire or clear, whose peg has come wakes, and one whose peg has not stays. -/
def Obligations.PegAndFenceInstructions : Prop :=
  (∀ (s0 s : State) (i : SeatId) (c : Core), (seatOf s i.val).core = c → CoreReady s0 i.val 4 s →
    (∀ n : BitVec 12, n.toNat % 64 < 48 → n.toNat < 1024 → bitOf n.toNat 7 = false → ∃ t, exec (.pegSet i 0 0 n) s0 = .next t ∧ (seatOf t i.val).core = coreAfter c 4 ∧
      ∃ u, t = coreRetire (pegWrite u i.val (n.toNat % 64) (!bitOf n.toNat 6)) i.val (coreOf (pegWrite u i.val (n.toNat % 64) (!bitOf n.toNat 6)) i.val) ∧ u = corePut s i.val { c with isz := 4 }) ∧
    (∀ n : BitVec 12, n.toNat % 64 < 48 → n.toNat < 1024 → bitOf n.toNat 7 = true → ∃ t, exec (.pegSet i 0 0 n) s0 = .next t ∧
      (seatOf t i.val).core.wait = .fence 2 (bitsOf n.toNat 9 8) 1 (n.toNat % 64) (bitOf n.toNat 6) ∧ (seatOf t i.val).core.pc = c.pc) ∧
    (∀ (n : BitVec 12) (rd : Fin 32), n.toNat < 48 → exec (.pegTest i rd 0 n) s0 = .next (corePut s i.val (coreAfter (xPut c rd.val (if bitOf (seatOf s i.val).pegs n.toNat then 1 else 0)) 4))) ∧
    (∀ (n : BitVec 12) (rd : Fin 32), n.toNat % 64 < 48 → n.toNat < 2048 → (bitOf n.toNat 7 = true → bitOf n.toNat 6 = true) →
      ∃ u, exec (.pegWait i rd 0 n) s0 = .next (if (coreOf (pegObserve u i.val) i.val).wait = (coreOf u i.val).wait then waitSettle (pegObserve u i.val) i.val else pegObserve u i.val) ∧
        u = corePut s i.val { c with isz := 4, wait := .peg rd.val (n.toNat % 64) (bitOf n.toNat 6) (bitOf n.toNat 7) (bitOf n.toNat 8) (bitsOf n.toNat 10 9) (seatCycles s (seatOf s i.val)), tbWait := s.tb } ∧
        (bitOf (seatOf s i.val).pegs (n.toNat % 64) ≠ bitOf n.toNat 6 → pegObserve u i.val = u) ∧
        (bitOf (seatOf s i.val).pegs (n.toNat % 64) = bitOf n.toNat 6 → bitOf n.toNat 8 = false → (seatOf s i.val).lentFrom = none →
          (seatOf (pegObserve u i.val) i.val).core.wait = .none ∧ (seatOf (pegObserve u i.val) i.val).core.pc = (c.pc + 4) % 2 ^ 64 ∧
          (rd ≠ 0 → xGet (seatOf (pegObserve u i.val) i.val).core rd.val = 0) ∧
          (seatOf (pegObserve u i.val) i.val).pegs = (if bitOf n.toNat 7 then setBitOf (seatOf s i.val).pegs (n.toNat % 64) false else (seatOf s i.val).pegs))) ∧
    (∀ (n : BitVec 7) (rd rs1 : Fin 32), n.toNat < 8 →
      (2 ^ 48 ≤ xGet c rs1.val → exec (.pegWaitany i n rd rs1 0) s0 = .next (seatTrap (corePut s i.val { c with isz := 4 }) i.val false 24 (xGet c rs1.val))) ∧
      (xGet c rs1.val < 2 ^ 48 → ∀ p, lowestPeg (seatOf s i.val).pegs (xGet c rs1.val) = some p → bitOf n.toNat 0 = false → (seatOf s i.val).lentFrom = none →
        ∃ t, exec (.pegWaitany i n rd rs1 0) s0 = .next t ∧ (seatOf t i.val).core.wait = .none ∧ (seatOf t i.val).core.pc = (c.pc + 4) % 2 ^ 64 ∧ (rd ≠ 0 → xGet (seatOf t i.val).core rd.val = p) ∧
          (seatOf t i.val).pegs = (seatOf s i.val).pegs ∧ t = seatPut s i.val (seatOf t i.val)) ∧
      (xGet c rs1.val < 2 ^ 48 → lowestPeg (seatOf s i.val).pegs (xGet c rs1.val) = none → exec (.pegWaitany i n rd rs1 0) s0 = .next (waitSettle (corePut s i.val
        { c with isz := 4, wait := .pegAny rd.val (xGet c rs1.val) (bitOf n.toNat 0) (bitsOf n.toNat 2 1), tbWait := s.tb }) i.val))) ∧
    (∀ (n : BitVec 7) (rs1 : Fin 32), n.toNat < 16 →
      (2 ^ 22 ≤ xGet c rs1.val ∨ 48 ≤ xGet c rs1.val % 64 ∨ bitsOf (vzseatid (corePut s i.val { c with isz := 4 }) i.val) 47 32 ≤ xGet c rs1.val / 64 →
        exec (.pegRset i n 0 rs1 0) s0 = .next (seatTrap (corePut s i.val { c with isz := 4 }) i.val false 24 (xGet c rs1.val))) ∧
      (xGet c rs1.val < 2 ^ 22 → xGet c rs1.val % 64 < 48 → xGet c rs1.val / 64 < bitsOf (vzseatid (corePut s i.val { c with isz := 4 }) i.val) 47 32 → bitOf n.toNat 1 = false →
        ∃ u, exec (.pegRset i n 0 rs1 0) s0 = .next (coreRetire u i.val (coreOf u i.val)) ∧
          u = pegRemote (corePut s i.val { c with isz := 4 }) i.val (xGet c rs1.val / 64) (xGet c rs1.val % 64) (!bitOf n.toNat 0)) ∧
      (xGet c rs1.val < 2 ^ 22 → xGet c rs1.val % 64 < 48 → xGet c rs1.val / 64 < bitsOf (vzseatid (corePut s i.val { c with isz := 4 }) i.val) 47 32 → bitOf n.toNat 1 = true →
        ∃ t, exec (.pegRset i n 0 rs1 0) s0 = .next t ∧ (seatOf t i.val).core.wait = .fence 2 (bitsOf n.toNat 3 2) 2 (xGet c rs1.val) (bitOf n.toNat 0) ∧ (seatOf t i.val).core.pc = c.pc)) ∧
    (exec (.vzFence i 0 0 4) s0 = .next (corePut s i.val (coreAfter c 4))) ∧
    (∀ n : BitVec 12, n.toNat < 16 → 2 ≤ bitsOf n.toNat 3 2 → ∃ t, exec (.vzFence i 0 0 n) s0 = .next t ∧
      (seatOf t i.val).core.wait = .fence (bitsOf n.toNat 3 2) (bitsOf n.toNat 1 0) 0 0 false ∧ (seatOf t i.val).core.pc = c.pc) ∧
    exec (.vzFence i 0 0 0) s0 = .next (coreIllegal (corePut s i.val { c with isz := 4 }) i.val (insnI custom0 0 0 3 0))) ∧
  (∀ (s : State) (i : SeatId) (order scope kind arg : Nat) (clear : Bool), (seatOf s i.val).core.wait = .fence order scope kind arg clear →
    (scope = 0 ∧ (∀ x ∈ bridgeSpots s, x.1 = none → x.2.2 ≠ i.val) ∨ 2 ≤ scope ∧ (seatOf s i.val).core.stores = [] ∨ scope = 1 ∧ (∀ p ∈ (seatOf s i.val).core.stores, onDie s i.val p.ga = false) ∧ (∀ k ∈ s.upstream, k.src ≠ i.val) →
      ∃ u, exec (.vzFenceComplete i) s = .next (coreRetire u i.val { coreOf u i.val with released := (coreOf u i.val).released || (order != 1 && scope == 3) }) ∧
        u = pegAct (if order = 3 then acquireAt s i.val scope else s) i.val kind arg clear) ∧
    (scope = 0 → (∃ x ∈ bridgeSpots s, x.1 = none ∧ x.2.2 = i.val) → exec (.vzFenceComplete i) s = .next s) ∧
    (2 ≤ scope → (seatOf s i.val).core.stores ≠ [] → exec (.vzFenceComplete i) s = .next s) ∧
    (scope = 1 → (∃ p ∈ (seatOf s i.val).core.stores, onDie s i.val p.ga = true) → exec (.vzFenceComplete i) s = .next s)) ∧
  (∀ (s : State) (i : SeatId) (rd p scope tb : Nat) (sense clear acquire : Bool), (seatOf s i.val).mode = .run → (seatOf s i.val).core.user = true → (∀ sl, seatShell s i.val = some sl → heldByDevice s sl = false) → (seatOf s i.val).core.wait = .peg rd p sense clear acquire scope tb →
    (bitOf (seatOf s i.val).pegs p ≠ sense → exec (.pegWaitWake i) s = .next s) ∧
    (bitOf (seatOf s i.val).pegs p = sense → acquire = false → clear = false → (seatOf s i.val).lentFrom = none →
      ∃ t, exec (.pegWaitWake i) s = .next t ∧ (seatOf t i.val).core.wait = .none ∧
      (seatOf t i.val).core.pc = ((seatOf s i.val).core.pc + (seatOf s i.val).core.isz) % 2 ^ 64 ∧ (seatOf t i.val).pegs = (seatOf s i.val).pegs ∧ t.mem = s.mem))

/-- Of a core that is ready: XFER.SUBMIT with an aligned offset of a descriptor in the scratchpad puts the 64 bytes there at the end of the transfer queue, gives it the next ticket, which goes to rd, and retires while fewer than 32 transfers are open; it waits while 32 are, until one is done; an offset that is misaligned or past the scratchpad is the operand exception. XFER.POLL returns 0 for a ticket pending, 1 done, 2 stopped, 3 aborted, and 1 for one more than 2^31 tickets older than the latest. WIN.SET sets the base, length and rights of its region and nothing else of the core, and a region past the scratchpad or a reserved bit is the operand exception. SIG.UPD rotates the signature by 5 and xors its immediate; SIG.CHK with a match restarts the watchdog, and a mismatch is a safety event of mechanism 11. -/
def Obligations.TransferWindowSignature : Prop :=
  (∀ (s0 s : State) (i : SeatId) (c : Core), (seatOf s i.val).core = c → CoreReady s0 i.val 4 s →
    (∀ rd rs1 : Fin 32,
      (xGet c rs1.val % 64 ≠ 0 ∨ scratchBytes < xGet c rs1.val + 64 → exec (.xferSubmit i 0 rd rs1 0) s0 = .next (seatTrap (corePut s i.val { c with isz := 4 }) i.val false 24 (xGet c rs1.val))) ∧
      (xGet c rs1.val % 64 = 0 → xGet c rs1.val + 64 ≤ scratchBytes →
        (32 ≤ xferOpen (seatOf s i.val) → exec (.xferSubmit i 0 rd rs1 0) s0 = .next (corePut s i.val { c with isz := 4, wait := .submit rd.val (xGet c rs1.val), tbWait := s.tb })) ∧
        (xferOpen (seatOf s i.val) < 32 → ∃ t, exec (.xferSubmit i 0 rd rs1 0) s0 = .next t ∧
          (seatOf t i.val).xfers = (seatOf s i.val).xfers ++ [{ ticket := (seatOf s i.val).nextTicket, desc := leNat (scratchRead s i.val (xGet c rs1.val) 64) }] ∧
          (seatOf t i.val).nextTicket = ((seatOf s i.val).nextTicket + 1) % 2 ^ 32 ∧ (seatOf t i.val).core = coreAfter (xPut c rd.val (seatOf s i.val).nextTicket) 4 ∧ t.mem = s.mem))) ∧
    (∀ (rd rs1 : Fin 32) (x : Xfer), (seatOf s i.val).xfers.find? (fun y => y.ticket == xGet c rs1.val % 2 ^ 32) = some x →
      (((seatOf s i.val).nextTicket + 2 ^ 33 - 1 - xGet c rs1.val % 2 ^ 32) % 2 ^ 32 ≤ 2 ^ 31 → ∃ t, exec (.xferPoll i 0 rd rs1 0) s0 = .next t ∧
        (seatOf t i.val).core = coreAfter (xPut c rd.val (match x.st with | .queued => 0 | .active => 0 | .done => 1 | .stopped => 2 | .aborted => 3)) 4 ∧ t = { s with seats := t.seats, freeCtr := t.freeCtr }) ∧
      (2 ^ 31 < ((seatOf s i.val).nextTicket + 2 ^ 33 - 1 - xGet c rs1.val % 2 ^ 32) % 2 ^ 32 → (seatOf s i.val).nextTicket ≠ 0 → ∃ t, exec (.xferPoll i 0 rd rs1 0) s0 = .next t ∧
        (seatOf t i.val).core = coreAfter (xPut c rd.val 1) 4 ∧ t = { s with seats := t.seats, freeCtr := t.freeCtr })) ∧
    (∀ (k : BitVec 7) (rs1 rs2 : Fin 32), k.toNat < 4 →
      (xGet c rs1.val < 2 ^ 32 → 32 * (xGet c rs1.val % 2 ^ 16 + bitsOf (xGet c rs1.val) 31 16) ≤ scratchBytes → xGet c rs2.val < 4 →
        exec (.winSet i k 0 rs1 rs2) s0 = .next (corePut s i.val (coreAfter (winPut c k.toNat { base := xGet c rs1.val % 2 ^ 16, len := bitsOf (xGet c rs1.val) 31 16, rights := xGet c rs2.val }) 4))) ∧
      (2 ^ 32 ≤ xGet c rs1.val ∨ scratchBytes < 32 * (xGet c rs1.val % 2 ^ 16 + bitsOf (xGet c rs1.val) 31 16) →
        exec (.winSet i k 0 rs1 rs2) s0 = .next (seatTrap (corePut s i.val { c with isz := 4 }) i.val false 24 (xGet c rs1.val))) ∧
      (xGet c rs1.val < 2 ^ 32 → 32 * (xGet c rs1.val % 2 ^ 16 + bitsOf (xGet c rs1.val) 31 16) ≤ scratchBytes → 4 ≤ xGet c rs2.val →
        exec (.winSet i k 0 rs1 rs2) s0 = .next (seatTrap (corePut s i.val { c with isz := 4 }) i.val false 24 (xGet c rs2.val)))) ∧
    (∀ k : BitVec 12, exec (.sigUpd i 0 0 k) s0 = .next (corePut s i.val (coreAfter { c with sig := ((c.sig * 2 ^ 5) % 2 ^ 32 + c.sig / 2 ^ 27) ^^^ k.toNat } 4))) ∧
    (∀ rs1 : Fin 32,
      (c.sig = xGet c rs1.val % 2 ^ 32 → exec (.sigChk i 0 0 rs1 0) s0 = .next (corePut s i.val (coreAfter { c with tbCheck := s.tb, wdHeld := 0, wdCarry := 0 } 4))) ∧
      (c.sig ≠ xGet c rs1.val % 2 ^ 32 → exec (.sigChk i 0 0 rs1 0) s0 = .next (seatSafety
        (corePut s i.val { c with isz := 4, mcause := 26, mtval := c.sig, mepc := c.pc, user := false }) i.val 11 8 (some c.tbCheck)
        { detail0 := c.sig, detail1 := c.pc, code := 26, seatId := some (vzseatid s i.val) })))) ∧
  (∀ (s : State) (i : SeatId) (rd off : Nat), (seatOf s i.val).core.wait = .submit rd off →
    (32 ≤ xferOpen (seatOf s i.val) → exec (.xferSubmitUnblock i) s = .next s) ∧
    (xferOpen (seatOf s i.val) < 32 → ∃ t, exec (.xferSubmitUnblock i) s = .next t ∧ (seatOf t i.val).core.wait = .none ∧
      (seatOf t i.val).xfers = (seatOf s i.val).xfers ++ [{ ticket := (seatOf s i.val).nextTicket, desc := leNat (scratchRead s i.val off 64) }] ∧ t.mem = s.mem))

/-- Of a core that is ready: CATCH with a well-formed descriptor and no latch at the next catch number retires with catch count, highest number and descriptor moved on; with a latch there, the number and descriptor are noted, the dirty lines go out and the seat drains or, when it has drained, stands at the catch point; a descriptor with a reserved field set is the catch-format exception and counts as no catch. SEAT.END with a hint of 0 or 1 writes the dirty lines back and drains. Once its ops, transfers and stores have drained the seat has ended, past its instruction, out of user mode, its caches empty; a seat of a shell is counted in its job, which holds its release when its last seat has ended, and a lent one reports to its borrower. -/
def Obligations.CatchAndEnd : Prop :=
  (∀ (s0 s : State) (i : SeatId) (c : Core) (rs1 : Fin 32), (seatOf s i.val).core = c → CoreReady s0 i.val 4 s →
    (catchFormatOk (xGet c rs1.val) = false → exec (.catch_ i 0 0 rs1 0) s0 = .next (seatTrap (corePut s i.val { c with isz := 4 }) i.val false 25 (xGet c rs1.val))) ∧
    (catchFormatOk (xGet c rs1.val) = true → latchedAt s i.val (c.catchCount + 1) = false →
      exec (.catch_ i 0 0 rs1 0) s0 = .next (corePut s i.val { coreAfter c 4 with catchCount := c.catchCount + 1, reached := c.catchCount + 1, catchDesc := xGet c rs1.val })) ∧
    (catchFormatOk (xGet c rs1.val) = true → latchedAt s i.val (c.catchCount + 1) = true →
      ∃ u, exec (.catch_ i 0 0 rs1 0) s0 = .next (catchSettle u i.val) ∧ (seatOf u i.val).core.wait = .catchDrain ∧ (seatOf u i.val).core.reached = c.catchCount + 1 ∧ (seatOf u i.val).core.catchDesc = xGet c rs1.val ∧
        (seatOf u i.val).core.catchCount = c.catchCount ∧ (seatOf u i.val).core.pc = (c.pc + 4) % 2 ^ 64 ∧ ∀ l ∈ (seatOf u i.val).core.dcache, l.dirty = false) ∧
    (xGet c rs1.val % 256 < 2 → ∃ t, exec (.seatEnd i 0 0 rs1 0) s0 = .next t ∧ (seatOf t i.val).core.wait = .endDrain (xGet c rs1.val % 2) ∧ (seatOf t i.val).core.pc = c.pc ∧
      ∀ l ∈ (seatOf t i.val).core.dcache, l.dirty = false)) ∧
  (∀ (s : State) (i : SeatId) (hint : Nat), (seatOf s i.val).core.wait = .endDrain hint →
    (seatDrained (seatOf s i.val) = false → exec (.seatEndDrained i) s = .next s) ∧
    (seatDrained (seatOf s i.val) = true → ∃ u, u.shells = s.shells ∧ (seatOf u i.val).mode = .ended ∧ (seatOf u i.val).core.user = false ∧ (seatOf u i.val).core.dcache = [] ∧ (seatOf u i.val).core.icache = [] ∧
      (seatOf u i.val).core.pc = ((seatOf s i.val).core.pc + 4) % 2 ^ 64 ∧ (seatOf u i.val).core.x = (seatOf s i.val).core.x ∧ u = seatPut s i.val (seatOf u i.val) ∧
      (∀ sl, seatShell s i.val = some sl → exec (.seatEndDrained i) s = .next (seatEnded u sl (lseatOf (shellOf s sl) i.val) hint (seatOf s i.val).arr.summary)) ∧
      (seatShell s i.val = none → exec (.seatEndDrained i) s = .next (lentReport u i.val (.ended (hint == 1) (BitVec.ofNat 64 (seatOf s i.val).arr.summary)))))) ∧
  (∀ (s : State) (n l hint sm : Nat) (j : Job), (shellOf s n).job = some j → (∀ k < shellSeats (shellOf s n), k ∈ sAdd j.ended l) →
    ∃ j2, (shellOf (seatEnded s n l hint sm) n).job = some j2 ∧ j2.phase = .holding ∧ j2.ended = sAdd j.ended l ∧ j2.tbEnd = s.tb ∧ (hint = 1 → j2.abandon = true))

/-- While 54 V is present: a read request to memory is answered with the bytes there, once what its read meets has been counted; a write to it stores exactly its bytes and is answered OK when it asks for an acknowledgement; one that its destination refuses stores nothing and, posted, returns nothing to its source; NO_TARGET is then counted. A request whose response would cross a closed bridge or a failed link is carried out and answered TIMEOUT, and one that a full bridge holds back changes nothing yet. An atomic toward a logical seat of its shell returns the old value and stores the new one. A peg write toward a logical seat of its shell that has applied the writes sent before it sets or clears the peg; one that comes before them is held, and released when the last of them is applied; when the 32 entries of the seat are full it waits upstream and is counted. A late response is discarded and counted; a unison-add acknowledgement other than OK fails its contribution, the last OK one completes it, and one of another module is sent there. In stage 4 a multicast packet of firmware fills the stores of the seats of its mask that no closed bridge parts from MD, and leaves every other seat; a unicast one accesses a physical seat window. -/
def Obligations.Packets : Prop :=
  (∀ (s u : State) (i : IslandId) (sl : Option Slot) (ga : U64) (o : Outside) (n a : Nat) (c r : Option Nat), s.pins.inputGood = true → n ≤ 256 → windowOf ga.toNat = none →
    place s i.val (sl.map (·.val)) ga.toNat n = .cell a c r → u = chanMeet s (.cell a c r) n o.check →
    let back := fun (t : State) (st : Nat) (b : Bytes) => if placeAnswers s i.val (.cell a c r) then emit t (.packet ga.toNat st b) else emit (pinc t P.netTimeouts) (.packet ga.toNat stTimeout [])
    (placeStuck s i.val (.cell a c r) = false →
      (∀ k : Fin 257, k.val = n → exec (.reqPacketArrival i sl (.read k) ga o) s = .next (back u (placeRead u (.cell a c r) n o).1 (placeRead u (.cell a c r) n o).2.1)) ∧
      (∀ (ack : Bool) (d : Bytes) (v : State), d.length = n → v = (placeWrite (placeMerge s (.cell a c r) n o.check) (.cell a c r) d o).1 →
        exec (.reqPacketArrival i sl (.write ack d) ga o) s = .next (if ack then back v stOk [] else v))) ∧
    (placeStuck s i.val (.cell a c r) = true →
      (∀ k : Fin 257, k.val = n → exec (.reqPacketArrival i sl (.read k) ga o) s = .next s) ∧
      ∀ (ack : Bool) (d : Bytes), d.length = n → exec (.reqPacketArrival i sl (.write ack d) ga o) s = .next s)) ∧
  (∀ (s : State) (i : IslandId) (sl : Option Slot) (ga : U64) (o : Outside) (d : Bytes) (st : Nat), s.pins.inputGood = true → d.length ≤ 256 → windowOf ga.toNat = none →
    place s i.val (sl.map (·.val)) ga.toNat d.length = .no st →
    ∃ t, exec (.reqPacketArrival i sl (.write false d) ga o) s = .next t ∧ t = { s with refused := t.refused } ∧ (st = stNoTarget → t.refused = s.refused + 1)) ∧
  (∀ (s : State) (i : IslandId) (n : Slot) (ga : U64) (o : Outside) (op : AmoOp) (dbl : Bool) (v : U64) (l off seat off2 w : Nat), s.pins.inputGood = true → s.upstream = [] →
    w = (if dbl then 8 else 4) → windowOf ga.toNat = some (n.val, l, off) → l < shellSeats (shellOf s n.val) →
    placeVia s i.val n.val (shellOf s n.val).windows l off w = .scratch seat off2 → placeAnswers s i.val (.scratch seat off2) = true → stuck s i.val seat 0 = false →
    (placeAtomic s (.scratch seat off2) w op v.toNat o).2.1 = stOk →
    ∃ t, exec (.reqPacketArrival i (some n) (.atomic op dbl v) ga o) s = .next t ∧
      t = netSettle (emit (placeAtomic s (.scratch seat off2) w op v.toNat o).1 (.packet ga.toNat stOk (leBytes w (placeAtomic s (.scratch seat off2) w op v.toNat o).2.2)))) ∧
  (∀ (s : State) (i : IslandId) (n : Slot) (l : U16) (p : Fin 48) (v : Bool) (after : U32) (seat q : Nat), s.pins.inputGood = true → s.upstream = [] →
    placeVia s i.val n.val (shellOf s n.val).windows l.toNat (0x1C0000 + 8 * p.val) 8 = .peg seat q → stuck s i.val seat 3 = false →
    (after.toNat ≤ tget (fun _ => 0) (seatOf s seat).reqSeen i.val → (∀ h ∈ (seatOf s seat).pegHold, h.src ≠ i.val) →
      exec (.pegWriteArrival ⟨i, after⟩ n l p v) s = .next (netSettle (pegWrite s seat q v))) ∧
    (tget (fun _ => 0) (seatOf s seat).reqSeen i.val < after.toNat → (seatOf s seat).pegHold.length < 32 →
      exec (.pegWriteArrival ⟨i, after⟩ n l p v) s = .next (netSettle (seatPut s seat { seatOf s seat with
        pegHold := (seatOf s seat).pegHold ++ [{ src := i.val, after := after.toNat, peg := q, value := v }] }))) ∧
    (tget (fun _ => 0) (seatOf s seat).reqSeen i.val < after.toNat → 32 ≤ (seatOf s seat).pegHold.length → (shellOf s n.val).holds = [] →
      ∃ k, exec (.pegWriteArrival ⟨i, after⟩ n l p v) s = .next (netSettle (pinc { s with upstream := [k] } P.pegHoldFull)) ∧
        k = { slot := n.val, lseat := l.toNat, off := 0x1C0000 + 8 * p.val, op := .peg after.toNat v, src := i.val })) ∧
  (∀ (s : State) (seat src : Nat) (h : HeldPeg), (seatOf s seat).pegHold = [h] → h.src = src → h.back = .none → h.after ≤ tget (fun _ => 0) (seatOf s seat).reqSeen src + 1 →
    reqApplied s seat src = pegWrite (seatPut s seat { seatOf s seat with pegHold := []
                                                                          reqSeen := tset (fun _ => 0) (seatOf s seat).reqSeen src (tget (fun _ => 0) (seatOf s seat).reqSeen src + 1) }) seat h.peg h.value) ∧
  (∀ (s : State) (i : IslandId) (n : Slot) (ga : U64) (o : Outside) (d : Bytes) (l off seat off2 : Nat), s.pins.inputGood = true → s.upstream = [] → d.length ≤ 256 → off < 0x1C0000 →
    windowOf ga.toNat = some (n.val, l, off) → l < shellSeats (shellOf s n.val) → placeVia s i.val n.val (shellOf s n.val).windows l off d.length = .scratch seat off2 →
    winAllows (seatOf s seat).core off2 d.length 1 = true → stuck s i.val seat 0 = false →
    exec (.reqPacketArrival i (some n) (.write false d) ga o) s = .next (netSettle (reqApplied (scratchWrite s seat off2 d) seat i.val))) ∧
  (∀ s : State, 0 < s.late → exec (.rspPacketArrival true) s = .next (pinc { s with late := s.late - 1 } P.netLateResponses)) ∧
  (∀ (s : State) (a : RedAck) (rest : List RedAck), s.redAcks = a :: rest →
    (∀ port id agent tag, a.src = .remote port id agent tag → exec (.rspPacketArrival false) s = .next (farRespond { s with redAcks := rest } port 1 id agent tag a.status [])) ∧
    (∀ seat ticket x env, a.src = .xfer seat ticket → xferFind s seat ticket = some x → xEnv s seat = some env → x.st = .active → 0 < x.unacked →
      (a.status ≠ stOk → exec (.rspPacketArrival false) s = .next (xferFail { s with redAcks := rest } seat env x (0x20 + a.status))) ∧
      (a.status = stOk → x.unacked = 1 → exec (.rspPacketArrival false) s = .next (xferDone { s with redAcks := rest } seat x)) ∧
      (a.status = stOk → 1 < x.unacked → exec (.rspPacketArrival false) s = .next (xferPut { s with redAcks := rest } seat { x with unacked := x.unacked - 1 })))) ∧
  (∀ (s : State) (d : Fin 16) (m : BitVec 144) (off : U16) (b : Bytes), pget s P.startStage = 4 → b.length ≤ 256 →
    ∃ t, exec (.mgtPacketArrival d m (.firmware off b)) s = .next t ∧ t = { s with seats := t.seats, islands := t.islands } ∧
    (∀ k, 144 * d.val ≤ k → k < 144 * d.val + 144 → bitOf m.toNat (k - 144 * d.val) = true → blockedAt s 2352 k = none → seatOf t k = seatOf (firmwareFill s k off.toNat b) k) ∧
    (∀ k, k < 144 * d.val ∨ 144 * d.val + 144 ≤ k ∨ bitOf m.toNat (k - 144 * d.val) = false ∨ blockedAt s 2352 k ≠ none → seatOf t k = seatOf s k)) ∧
  (∀ (s : State) (d : Fin 16) (m : BitVec 144) (ack : Bool) (b : Bytes) (ga : U64) (seat off : Nat), s.pins.inputGood = true → b.length ≤ 256 →
    placePhysical s 2352 ga.toNat b.length = .scratch seat off → winAllows (seatOf s seat).core off b.length 1 = true →
    exec (.mgtPacketArrival d m (.access (.write ack b) ga)) s = .next (if ack = true ∧ placeAnswers s 2352 (.scratch seat off) = true then
      emit (scratchWrite s seat off b) (.packet ga.toNat stOk [])
      else if ack = true then emit (pinc (scratchWrite s seat off b) P.netTimeouts) (.packet ga.toNat stTimeout []) else scratchWrite s seat off b))

/-- A packet reaches the next combining node of its route only behind those that one of its sources sent before it to the same destination, and no other node. There it combines with the held packet whose group, word index, fret base and mode agree: one packet goes on, with word-wise sums, the ORed flags, the summed weight and both contributions; without a partner it is held if the node holds fewer than 32, and otherwise moves on; a held packet moves on at the end of its hold. A packet that a full bridge holds back stays where it is. Past its nodes, at its destination, a packet that fits an armed group merges: each of its words is added to the tile's, its two fret flags are ORed in, its weight counted, and at the expected weight the group is disarmed and its arm's transfer done; a packet that names no armed group is answered RED_NOT_ARMED and changes no tile; one whose base, mode, range or weight does not fit is answered RED_REFUSED, changes no word, and marks group and tile refused; a refused group refuses every later packet. Every contribution in the packet whose response is not lost on the way is acknowledged with the answer. While the window is in HOLD it waits in the hold buffer; a closed bridge on its way answers ISLAND_CLOSED and counts it; a leased seat's packet leaves over Ghengo with its words. -/
def Obligations.UnisonAdd : Prop :=
  (∀ (s : State) (k n i : Nat) (rest : List Nat) (p q : RedPkt), s.red[k]? = some p → p.node = none → p.route = n :: rest → (∀ x ∈ s.red, redBefore x p = false) →
    s.red.findIdx? (fun q => q.node == some n && redMatch q p) = some i → s.red[i]? = some q → (∀ x ∈ s.red, redBefore x (redCombine q p) = false) →
    exec (.redNodeArrival k n) s = .next { s with red := (s.red.set i { redCombine q p with node := none }).eraseIdx k } ∧
    (redCombine q p).weight = q.weight + p.weight ∧ (redCombine q p).flags = (q.flags ||| p.flags) ∧ (redCombine q p).src = q.src ++ p.src ∧
    (redCombine q p).words = List.zipWith (fun a b => if q.fret then fretAdd a (termOf b) else fp32Add a (fpWord b)) q.words p.words) ∧
  (∀ (s : State) (k n : Nat) (rest : List Nat) (p : RedPkt), s.red[k]? = some p → p.node = none → p.route = n :: rest → (∀ x ∈ s.red, redBefore x p = false) →
    s.red.findIdx? (fun q => q.node == some n && redMatch q p) = none →
    (s.red.countP (fun q => q.node == some n) < 32 → exec (.redNodeArrival k n) s = .next { s with red := s.red.set k { p with node := some n, route := rest } }) ∧
    (32 ≤ s.red.countP (fun q => q.node == some n) → exec (.redNodeArrival k n) s = .next { s with red := s.red.set k { p with route := rest } })) ∧
  (∀ (s : State) (k n : Nat) (rest : List Nat) (p : RedPkt), s.red[k]? = some p → p.node = none → p.route = n :: rest →
    ((∃ x ∈ s.red, redBefore x p = true ∧ rest.length < x.route.length) → exec (.redNodeArrival k n) s = .next s) ∧ ∀ m, m ≠ n → exec (.redNodeArrival k m) s = .next s) ∧
  (∀ (s : State) (k : Nat) (p : RedPkt), s.red[k]? = some p → (∀ x ∈ s.red, redBefore x p = false) →
    exec (.combineHoldExpiry k) s = .next { s with red := s.red.set k { p with node := none } }) ∧
  (∀ (s : State) (k : Nat) (p : RedPkt) (st : Fin 8), s.red[k]? = some p → p.node = none → p.route = [] → (∀ x ∈ s.red, redBefore x p = false) →
    let room := fun (d : Nat) => ∀ a ∈ p.origins, stuck { s with red := s.red.take k } a.1 d 2 = false
    (∀ seat, redTo s p = .seat seat → ¬ room seat → exec (.redPacketArrival k st) s = .next s) ∧
    (∀ seat, redTo s p = .seat seat → room seat → (∀ a ∈ p.origins, blockedAt s a.1 seat = none) →
      exec (.redPacketArrival k st) s = .next (redAck (redMerge s seat p).1 k p seat (redMerge s seat p).2)) ∧
    (∀ seat a b n, redTo s p = .seat seat → room seat → p.origins = a :: b → blockedAt s a.1 seat = some n → exec (.redPacketArrival k st) s = .next (redAck (countClosed s n) k p seat stClosed)) ∧
    (∀ die, redTo s p = .hold die → p.held = false → holdRoom s die 1 = true → room (2304 + die) → (∀ a ∈ p.origins, blockedAt s a.1 (2304 + die) = none) →
      exec (.redPacketArrival k st) s = .next { s with red := s.red.set k { p with held := true } }) ∧
    (∀ port dst id off, redTo s p = .far port dst id off → room (2336 + port / 2) → (∀ a ∈ p.origins, blockedAt s a.1 (2336 + port / 2) = none) →
      ∃ head agent, exec (.redPacketArrival k st) s = .next (redAck (farSend s port dst 2 1 id off agent 4 (head ++ p.words)) k p (2336 + port / 2) st.val)) ∧
    (∀ r, redTo s p = .no r → room 2352 → exec (.redPacketArrival k st) s = .next (redAck s k p 2352 r))) ∧
  (∀ (s : State) (k island st : Nat) (p : RedPkt), (redAck s k p island st).red = s.red.eraseIdx k ∧ (redAck s k p island st).seats = s.seats ∧
    ((∀ seat ticket, RedSrc.xfer seat ticket ∈ p.src → answers s island seat = true) → (∀ port id agent tag, RedSrc.remote port id agent tag ∈ p.src → answers s island (2336 + port / 2) = true) →
      (redAck s k p island st).redAcks = s.redAcks ++ p.src.map (fun c => { src := c, status := st })) ∧
    pget (redAck s k p island st) P.redRefusals = (if st = 5 ∨ st = 6 then satInc32 (pget s P.redRefusals) else pget s P.redRefusals)) ∧
  (∀ (s : State) (seat : Nat) (p : RedPkt),
    ((seatOf s seat).groups.find? (fun g => g.shell == p.slot && g.group == p.group) = none → redMerge s seat p = (s, 6)) ∧
    (∀ g, (seatOf s seat).groups.find? (fun g => g.shell == p.slot && g.group == p.group) = some g →
      (g.refused = true → redMerge s seat p = (s, 5)) ∧
      (g.refused = false → g.fret ≠ p.fret ∨ g.fretBase ≠ p.base ∨ p.first < g.first ∨ g.first + g.count < p.first + p.words.length ∨ g.expected < g.got + p.weight →
        (redMerge s seat p).2 = 5 ∧ (xferFind s seat g.ticket = none → (seatOf (redMerge s seat p).1 seat).arr.words = (seatOf s seat).arr.words ∧ g.tile ∈ (seatOf (redMerge s seat p).1 seat).arr.refused ∧
          ∀ h ∈ (seatOf (redMerge s seat p).1 seat).groups, h.shell = p.slot → h.group = p.group → h ∈ (seatOf s seat).groups → h ≠ g)) ∧
      (g.refused = false → g.fret = p.fret → g.fretBase = p.base → g.first ≤ p.first → p.first + p.words.length ≤ g.first + g.count → g.got + p.weight < g.expected →
        (redMerge s seat p).2 = 0 ∧ g.tile ∈ (seatOf (redMerge s seat p).1 seat).arr.merged ∧
        (g.fret = true → ∀ n w, p.words[n]? = some w → p.first + p.words.length ≤ 1024 → arrWord (seatOf (redMerge s seat p).1 seat).arr g.tile (p.first + n) = fretAdd (arrWord (seatOf s seat).arr g.tile (p.first + n)) (termOf w)) ∧
        tileStatus (seatOf (redMerge s seat p).1 seat).arr g.tile = (tileStatus (seatOf s seat).arr g.tile ||| p.flags % 4) ∧ (redMerge s seat p).1 = seatPut s seat (seatOf (redMerge s seat p).1 seat)) ∧
      (g.refused = false → g.fret = p.fret → g.fretBase = p.base → g.first ≤ p.first → p.first + p.words.length ≤ g.first + g.count → g.got + p.weight = g.expected →
        (redMerge s seat p).2 = 0 ∧ ∃ u, u = seatPut s seat (seatOf u seat) ∧ (∀ h ∈ (seatOf u seat).groups, h ≠ g) ∧ g.tile ∈ (seatOf u seat).arr.merged ∧ (∀ t n, t ≠ g.tile → n < 1024 → arrWord (seatOf u seat).arr t n = arrWord (seatOf s seat).arr t n) ∧
          (g.fret = true → ∀ n w, p.words[n]? = some w → p.first + p.words.length ≤ 1024 → arrWord (seatOf u seat).arr g.tile (p.first + n) = fretAdd (arrWord (seatOf s seat).arr g.tile (p.first + n)) (termOf w)) ∧
          (xferFind u seat g.ticket = none → (redMerge s seat p).1 = u) ∧ (∀ x, xferFind u seat g.ticket = some x → (redMerge s seat p).1 = xferDone u seat x))))

/-- A core that has waited 100 µs for a load inside the module whose window is not in HOLD, or 10 ms for one of the host window, meets an access fault of cause 5 for status TIMEOUT, and the timeout is counted and its response still to come; before that nothing changes. The oldest store inside the module, or a contribution with packets unacknowledged, is given TIMEOUT in the same way after 100 µs. While 54 V is present a replay is counted for its link, and with no more than 1,000 within a millisecond nothing else happens; a fourth replay of one flit fails the link, which is closed in the mask, and every shell is stopped. In recovery, a wait for a peg or for ops of 50 µs lends the seat's clock: it runs at 500 MHz, its cycles so far are counted, and its clock is kept. -/
def Obligations.TimeoutsAndLinks : Prop :=
  (∀ (s : State) (i : SeatId) (rd w va ga : Nat) (sg fp : Bool), (seatOf s i.val).core.wait = .load rd w sg fp va ga →
    (timedInside s ga = true → inHold s i.val ga = false → tbPast s.tb (seatOf s i.val).core.tbWait 100000 = true →
      exec (.netRequestTimeout i .core) s = .next (coreStatus { pinc s P.netTimeouts with late := s.late + 1 } i.val stTimeout va ga 5)) ∧
    (timedInside s ga = false ∨ inHold s i.val ga = true ∨ tbPast s.tb (seatOf s i.val).core.tbWait 100000 = false → exec (.netRequestTimeout i .core) s = .next s) ∧
    (inHostWindow ga = true → tbPast s.tb (seatOf s i.val).core.tbWait 10000000 = true → inHold s i.val ga = false →
      exec (.hostRequestTimeout i none) s = .next (coreStatus { pinc s P.netTimeouts with late := s.late + 1 } i.val stTimeout va ga 5)) ∧
    (inHostWindow ga = false → exec (.hostRequestTimeout i none) s = .next s)) ∧
  (∀ (s : State) (i : SeatId) (p : PendStore) (rest : List PendStore), (seatOf s i.val).core.stores = p :: rest → (seatOf s i.val).mode = .run →
    (timedInside s p.ga = true → inHold s i.val p.ga = false → tbPast s.tb p.tb 100000 = true →
      exec (.netRequestTimeout i .store) s = .next (coreStatus (ghFlush (corePut { pinc s P.netTimeouts with late := s.late + 1 } i.val { (seatOf s i.val).core with stores := rest })) i.val stTimeout p.va p.ga 7)) ∧
    (tbPast s.tb p.tb 100000 = false → exec (.netRequestTimeout i .store) s = .next s)) ∧
  (∀ (s : State) (i : SeatId) (tk : U32) (x : Xfer) (env : XEnv), xferFind s i.val tk.toNat = some x → xEnv s i.val = some env → x.st = .active →
    (tbPast s.tb x.tbSent 100000 = true → 0 < x.unacked → (∀ p ∈ s.red, RedSrc.xfer i.val x.ticket ∉ p.src) →
      exec (.netRequestTimeout i (.transfer tk)) s = .next (xferFail (netTimeout (redForget s i.val x.ticket)) i.val env x (0x20 + stTimeout))) ∧
    (tbPast s.tb x.tbSent 100000 = false → exec (.netRequestTimeout i (.transfer tk)) s = .next s) ∧
    (x.casValue.isSome = true → tbPast s.tb x.tbSent 10000000 = true →
      exec (.hostRequestTimeout i (some tk)) s = .next (xferStop (netTimeout s) i.val env x 0 (.status stTimeout 2 (xfSrc x.desc) 0)))) ∧
  (∀ (s : State) (i ticket : Nat), (redForget s i ticket).late = s.late ∧ ∀ p ∈ (redForget s i ticket).red, RedSrc.xfer i ticket ∉ p.src) ∧
  (∀ (s : State) (l : LinkId) (n : Fin 4), s.pins.inputGood = true → bitOf (pget s P.linkFailedMask) l.val = false →
    (n.val < 3 → ((tget (fun _ => []) s.linkRate l.val).filter (fun t => decide (s.tb ≤ t + 1000000))).length < 1000 →
      ∃ t, exec (.linkFlitError l n) s = .next t ∧ pget t (P.linkReplays l.val) = satInc32 (pget s (P.linkReplays l.val)) ∧ t = { s with regs := t.regs, linkRate := t.linkRate }) ∧
    (n.val = 3 → exec (.linkFlitError l n) s = .next (linkFail s l.val))) ∧
  (∀ (s : State) (l : LinkId) (n : Fin 4), bitOf (pget s P.linkFailedMask) l.val = true ∨ s.pins.inputGood = false → exec (.linkFlitError l n) s = .next s) ∧
  (∀ (s : State) (i : SeatId), recovering s = true → (∃ rd p scope cyc sense clear acquire, (seatOf s i.val).core.wait = .peg rd p sense clear acquire scope cyc) ∨
      (∃ rd mask acquire scope, (seatOf s i.val).core.wait = .pegAny rd mask acquire scope) ∨ (∃ n, (seatOf s i.val).core.wait = .arrWait n) →
    (seatOf s i.val).lentFrom = none → tbPast s.tb (seatOf s i.val).core.tbWait 50000 = true →
    exec (.waitLend i) s = .next (pinc (seatPut s i.val { seatOf s i.val with
      lentFrom := some (seatOf s i.val).clockMhz, clockMhz := 500, tbCyc := s.tb
      cyc := (seatOf s i.val).cyc + (s.tb - (seatOf s i.val).tbCyc) * seatMhz s (seatOf s i.val) }) P.lendEvents)) ∧
  (∀ (s : State) (i : SeatId), recovering s = false → exec (.waitLend i) s = .next s)

/-- Of a TRAINED or RETIRE_PENDING channel: a read of a clean block is answered OK with its bytes; a read of a block whose POISON is set is answered POISONED and counted nowhere; an uncorrectable one, by two wrong bits, another block's ADDR_TAG or as found before, is answered POISONED and counted once; a corrected one is delivered and counted. Up to three CRC failures of a read are counted as they are repeated; a fourth fails the channel as the safe state of its shell asks (chanFail, whose safety event carries POISONED), counts three repeats, and the answer is POISONED wherever the failed channel then reads so. A write stores exactly its bytes, which a read finds; where it lies in one block, that block loses its POISON if it is written whole, and keeps it if written in part, an uncorrectable one being marked then, and no other block's mark moves. Patrol scrub marks an uncorrectable block and counts it, and leaves the marks as they are where it finds no error. Tracking is repeated after 50 ms, and before that does nothing. A write, a patrol finding and a read of a marked block change no other channel. -/
def Obligations.ChannelAccess : Prop :=
  ∀ (s : State) (c : ChanId), chanUsable s c.val = true →
    (∀ (b : BitVec 25) (k : ChanCheck) (a : Nat), 64 * b.toNat < chanBytes → a = chanBase c.val + 64 * b.toNat → s.start.islandsUp = true →
      (k.crcs.val < 4 → (chanOf s c.val).poison.contains b.toNat = false → chanWrong s c.val b.toNat k = false → k.error = .none →
        ∃ t, exec (.channelRead c b k) s = .next t ∧ t.sent = s.sent ++ [.packet a stOk (cellRead s a 64)] ∧ t.mem = s.mem ∧
          pget t (P.chCrcRetries c.val) = satAdd32 (pget s (P.chCrcRetries c.val)) k.crcs.val ∧ pget t (P.chUncorrectable c.val) = pget s (P.chUncorrectable c.val)) ∧
      (k.crcs.val < 4 → (chanOf s c.val).poison.contains b.toNat = false → chanWrong s c.val b.toNat k = false → k.error = .single →
        ∃ u w, exec (.channelRead c b k) s = .next (if chanPoisoned u c.val a 64 then emit u (.packet a stPoisoned []) else emit u (.packet a stOk (cellRead u a 64))) ∧ u = chanCorrected w c.val ∧ w.mem = s.mem ∧
          pget u (P.chCorrected c.val) = satInc32 (pget s (P.chCorrected c.val))) ∧
      (k.crcs.val < 4 → (chanOf s c.val).poison.contains b.toNat = false → chanWrong s c.val b.toNat k = true →
        ∃ t, exec (.channelRead c b k) s = .next t ∧ t.sent = s.sent ++ [.packet a stPoisoned []] ∧ b.toNat ∈ (chanOf t c.val).bad ∧
          pget t (P.chUncorrectable c.val) = satInc32 (pget s (P.chUncorrectable c.val)) ∧ t.mem = s.mem) ∧
      (k.crcs.val < 4 → (chanOf s c.val).poison.contains b.toNat = true →
        ∃ t, exec (.channelRead c b k) s = .next t ∧ t.sent = s.sent ++ [.packet a stPoisoned []] ∧
          pget t (P.chUncorrectable c.val) = pget s (P.chUncorrectable c.val) ∧ t.mem = s.mem ∧ (∀ j, j ≠ c.val → chanOf t j = chanOf s j)) ∧
      (k.crcs.val = 4 → ∃ u, exec (.channelRead c b k) s = .next (if chanPoisoned (chanFail u c.val) c.val a 64 then emit (chanFail u c.val) (.packet a stPoisoned [])
          else emit (chanFail u c.val) (.packet a stOk (cellRead (chanFail u c.val) a 64))) ∧
        pget u (P.chCrcRetries c.val) = satAdd32 (pget s (P.chCrcRetries c.val)) 3 ∧ u = { s with regs := u.regs, chans := u.chans, freeCtr := u.freeCtr })) ∧
    (∀ (b : U64) (k : ChanCheck), s.start.islandsUp = true → 64 * b.toNat < chanBytes → k.crcs.val < 4 → (chanOf s c.val).poison.contains b.toNat = false →
      (chanWrong s c.val b.toNat k = true → ∃ t, exec (.patrolScrubRead (.chan c) b k) s = .next t ∧ b.toNat ∈ (chanOf t c.val).poison ∧ b.toNat ∉ (chanOf t c.val).bad ∧
        pget t (P.chUncorrectable c.val) = satInc32 (pget s (P.chUncorrectable c.val)) ∧ t = { s with regs := t.regs, chans := t.chans, freeCtr := t.freeCtr } ∧ ∀ j, j ≠ c.val → chanOf t j = chanOf s j) ∧
      (chanWrong s c.val b.toNat k = false → k.error = .none → ∃ t, exec (.patrolScrubRead (.chan c) b k) s = .next t ∧ (chanOf t c.val).poison = (chanOf s c.val).poison ∧ (chanOf t c.val).bad = (chanOf s c.val).bad ∧
        t = { s with regs := t.regs, chans := t.chans, freeCtr := t.freeCtr })) ∧
    (∀ (o : BitVec 31) (d : Bytes), d ≠ [] → o.toNat + d.length ≤ chanBytes → ∃ t, exec (.channelWrite c o d {}) s = .next t ∧
      (∀ a, a < chanBase c.val + o.toNat ∨ chanBase c.val + o.toNat + d.length ≤ a → memGet t a = memGet s a) ∧ cellRead t (chanBase c.val + o.toNat) d.length = d ∧
      (o.toNat / 64 = (o.toNat + d.length - 1) / 64 → ∀ b, b ∈ (chanOf t c.val).poison ↔ (b ∈ (chanOf s c.val).poison ∧ ¬(o.toNat ≤ b * 64 ∧ b * 64 + 64 ≤ o.toNat + d.length)) ∨
        (b ∈ (chanOf s c.val).bad ∧ b * 64 < o.toNat + d.length ∧ o.toNat < b * 64 + 64 ∧ ¬(o.toNat ≤ b * 64 ∧ b * 64 + 64 ≤ o.toNat + d.length))) ∧
      t = { s with mem := t.mem, chans := t.chans, regs := t.regs, freeCtr := t.freeCtr } ∧ ∀ j, j ≠ c.val → chanOf t j = chanOf s j) ∧
    (tbPast s.tb (chanOf s c.val).tbTrack 50000000 = true → exec (.channelTracking c) s = .next (chanPut s c.val { chanOf s c.val with tbTrack := s.tb })) ∧
    (tbPast s.tb (chanOf s c.val).tbTrack 50000000 = false → exec (.channelTracking c) s = .next s)

/-- At full function, CHANNEL_MAINT retire on a TRAINED channel that nothing holds makes it RETIRED, records it in the flash while the hour has a write left, and answers 0; retrain on a FAILED or RETIRED channel clears its record in both flash copies, makes it UNTRAINED and answers 0; any other maintenance answers 0x0206 and changes no channel. Training of an UNTRAINED channel at stage 2 or in service that passes makes it TRAINED with every byte of it zero and no block marked, and one that fails makes it FAILED with outcome 3. Once the islands are up, a module device that passes 85 °C derates its two channels by at most 4 %, and below it they are at 1,000. -/
def Obligations.ChannelStates : Prop :=
  (∀ (s : State) (c : U8), fullUp s = true →
    (c.toNat < 96 → (chanOf s c.toNat).st = .trained → chanFree s c.toNat = true → ∃ t, exec (.channelMaintRetire c) s = .next t ∧ (chanOf t c.toNat).st = .retired ∧
      ((s.flash.writes.filter (fun w => decide (s.tb < w + 3600000000000))).length < 1000 → c.toNat ∈ t.flash.retired ∧ s.tb ∈ t.flash.writes) ∧ pget t P.channelMaintResult = 0 ∧ ∀ k, k ≠ c.toNat → chanOf t k = chanOf s k) ∧
    (96 ≤ c.toNat ∨ (chanOf s c.toNat).st ≠ .trained ∨ chanFree s c.toNat = false → exec (.channelMaintRetire c) s = .next (pset s P.channelMaintResult 0x0206)) ∧
    (c.toNat < 96 → ((chanOf s c.toNat).st = .failed ∨ (chanOf s c.toNat).st = .retired) → ∃ t, exec (.channelMaintRetrain c) s = .next t ∧ (chanOf t c.toNat).st = .untrained ∧
      c.toNat ∉ t.flash.retired ∧ tfind t.flash.trained c.toNat = none ∧ tfind t.flash.trained2 c.toNat = none ∧ pget t P.channelMaintResult = 0 ∧ ∀ k, k ≠ c.toNat → chanOf t k = chanOf s k) ∧
    (96 ≤ c.toNat ∨ ((chanOf s c.toNat).st ≠ .failed ∧ (chanOf s c.toNat).st ≠ .retired) → exec (.channelMaintRetrain c) s = .next (pset s P.channelMaintResult 0x0206))) ∧
  (∀ (s : State) (c : ChanId) (retry : Bool), (chanOf s c.val).st = .untrained → (pget s P.startStage = 2 ∨ pget s P.startStage = 5) →
    (∃ t, exec (.channelTrainingDone c true retry) s = .next t ∧ (chanOf t c.val).st = .trained ∧ (chanOf t c.val).poison = [] ∧ (chanOf t c.val).bad = [] ∧
      (∀ a, chanBase c.val ≤ a → a < chanBase c.val + chanBytes → memGet t a = 0) ∧ (∀ a, a < chanBase c.val ∨ chanBase c.val + chanBytes ≤ a → memGet t a = memGet s a) ∧
      (pget t (P.trainingOutcome c.val) = 1 ∨ pget t (P.trainingOutcome c.val) = 2) ∧ ∀ k, k ≠ c.val → chanOf t k = chanOf s k) ∧
    (∃ t, exec (.channelTrainingDone c false retry) s = .next t ∧ (chanOf t c.val).st = .failed ∧ pget t (P.trainingOutcome c.val) = 3 ∧ t = { s with chans := t.chans, regs := t.regs })) ∧
  (∀ (s : State) (c : ChanId) (p r : Bool), (chanOf s c.val).st ≠ .untrained → exec (.channelTrainingDone c p r) s = .next s) ∧
  (∀ (s : State) (d : Fin 48) (v : Fin 1001), s.start.islandsUp = true → ∃ t u, exec (.gddr7RefreshDoubling d true v) s = .next t ∧ exec (.gddr7RefreshDoubling d false v) s = .next u ∧
    ∀ c, c = 4 * (d.val / 2) + 2 * (d.val % 2) ∨ c = 4 * (d.val / 2) + 2 * (d.val % 2) + 1 →
      960 ≤ pget t (P.channelDeratePermille c) ∧ pget t (P.channelDeratePermille c) ≤ 1000 ∧ pget u (P.channelDeratePermille c) = 1000)

/-- CXL_COMMIT takes the 16 staged records to be checked, and is refused with 0x020B while an earlier commit's ranges are brought up. The check that fails puts the first code of Table Tiers-7 into CXL_RESULT and changes no active record; one that passes programs the decoders of the changed enabled ranges, and with none of those takes effect. The last decoder committed lets the commit take effect, and one refused ends it with 0x0208 and changes nothing. A range whose scrub ends holds zeros and is READY. A rescan enumerates its ports again unless a range targets one (0x020C). A changed range takes the staged record, with no owner where its owner has been freed since, and is scrubbed if it is enabled; the staging stays. A port that goes down puts every range that targets it OFFLINE and answers TIMEOUT to what waits for one. An edge of CXL_PRSNT# to low on an enumerated port is a port down, one to high stops the port's clock. A response is noted for its device, and a poisoned one is counted and answered POISONED to the one who waits for it; a request unanswered for 4 ms is counted and answered TIMEOUT, and one that has not waited so long is not; a device's event record is filed. -/
def Obligations.CxlRangesAndPorts : Prop :=
  (∀ s : State, fullUp s = true →
    (s.cxlRun = none → exec .cxlCommit s = .next { s with cxlRun := some { staged := (List.range 16).map (rangeStaged s) } }) ∧
    (s.cxlRun ≠ none → ∃ t, exec .cxlCommit s = .next t ∧ pget t P.cxlResult = 0x020B ∧ t.cxlRun = s.cxlRun ∧ ∀ i < 16, tfind t.stagedOcts (P.cxlRange i) = none ∧ rngOf t i = rngOf s i)) ∧
  (∀ (s : State) (r : CxlRun), s.cxlRun = some r → r.checking = true →
    (cxlCode s r.staged ≠ 0 → ∃ t, exec .cxlCheckDone s = .next t ∧ pget t P.cxlResult = cxlCode s r.staged ∧ t.cxlRun = none ∧ ∀ i < 16, rngOf t i = rngOf s i ∧ tfind t.stagedOcts (P.cxlRange i) = none) ∧
    (cxlCode s r.staged = 0 → (rngChanged s r.staged).filter (fun i => rngEnable (r.staged.getD i 0)) ≠ [] →
      exec .cxlCheckDone s = .next { s with cxlRun := some { r with checking := false, changed := rngChanged s r.staged, todo := (rngChanged s r.staged).filter (fun i => rngEnable (r.staged.getD i 0)) } }) ∧
    (cxlCode s r.staged = 0 → (rngChanged s r.staged).filter (fun i => rngEnable (r.staged.getD i 0)) = [] → exec .cxlCheckDone s = .next (cxlTake s r.staged (rngChanged s r.staged)))) ∧
  (∀ (s : State) (r : CxlRun) (i : Fin 16), s.cxlRun = some r → i.val ∈ r.todo →
    (∃ t, exec (.cxlDecoderCommitDone i false) s = .next t ∧ pget t P.cxlResult = 0x0208 ∧ t.cxlRun = none ∧ ∀ k < 16, rngOf t k = rngOf s k) ∧
    (r.todo.filter (· != i.val) = [] → exec (.cxlDecoderCommitDone i true) s = .next (cxlTake s r.staged r.changed)) ∧
    (r.todo.filter (· != i.val) ≠ [] → exec (.cxlDecoderCommitDone i true) s = .next { s with cxlRun := some { r with todo := r.todo.filter (· != i.val) } })) ∧
  (∀ (s : State) (l ch : List Nat), (∀ i ∈ ch, i < 16) → pget (cxlTake s l ch) P.cxlResult = 0 ∧ (cxlTake s l ch).stagedOcts = s.stagedOcts ∧
    (∀ i ∈ ch, rngOf (cxlTake s l ch) i = rngTaken s (l.getD i 0) ∧ pget (cxlTake s l ch) (P.cxlRangeState i) = (if rngEnable (l.getD i 0) then 1 else 0) ∧
      (i ∈ (cxlTake s l ch).cxlScrub ↔ rngEnable (l.getD i 0) = true)) ∧
    (∀ i < 16, i ∉ ch → rngOf (cxlTake s l ch) i = rngOf s i ∧ pget (cxlTake s l ch) (P.cxlRangeState i) = pget s (P.cxlRangeState i)) ∧
    (∀ r, (rngOwner r ≥ 32 ∨ ((shellOf s (rngOwner r)).st ≠ .free ∧ (shellOf s (rngOwner r)).st ≠ .releasing)) → rngTaken s r = r)) ∧
  (∀ (s : State) (i : Fin 16), i.val ∈ s.cxlScrub → pget s (P.cxlRangeState i.val) = 1 → ∃ t, exec (.cxlRangeScrubDone i) s = .next t ∧ pget t (P.cxlRangeState i.val) = 2 ∧
    (∀ a, cxlWindow + rngBase (rngOf s i.val) * 2 ^ 28 ≤ a → a < cxlWindow + rngBase (rngOf s i.val) * 2 ^ 28 + rngSize (rngOf s i.val) * 2 ^ 28 → memGet t a = 0) ∧
    (∀ a, a < cxlWindow + rngBase (rngOf s i.val) * 2 ^ 28 ∨ cxlWindow + rngBase (rngOf s i.val) * 2 ^ 28 + rngSize (rngOf s i.val) * 2 ^ 28 ≤ a → memGet t a = memGet s a)) ∧
  (∀ (s : State) (m : U8), fullUp s = true →
    ((∃ p < 8, bitOf m.toNat p = true ∧ ∃ i < 16, rngOnPort (rngOf s i) p = true) → exec (.cxlRescan m) s = .next (pset s P.cxlResult 0x020C)) ∧
    ((∀ p < 8, bitOf m.toNat p = true → ∀ i < 16, rngOnPort (rngOf s i) p = false) → ∃ t, exec (.cxlRescan m) s = .next t ∧ pget t P.cxlResult = 0 ∧
      ∀ p < 8, (bitOf m.toNat p = true → (cxlPortOf t p).scanning = true ∧ (cxlPortOf t p).up = false) ∧ (bitOf m.toNat p = false → cxlPortOf t p = cxlPortOf s p))) ∧
  (∀ (s : State) (p : CxlPortId) (l : CxlLink), (cxlPortOf s p.val).scanning = true → (islandOf s (2344 + p.val)).st ≠ .inReset → ∃ t, exec (.cxlPortEnumerated p (some l)) s = .next t ∧ (cxlPortOf t p.val).up = true ∧
    (cxlPortOf t p.val).rate = (if l.fast then 64 else 32) ∧ (cxlPortOf t p.val).width = (if l.wide then 8 else 4) ∧ (cxlPortOf t p.val).switch = l.switch) ∧
  (∀ (s : State) (p : CxlPortId), ((cxlPortOf s p.val).up = true → ∃ t f, exec (.cxlPortDown p) s = .next (seatsTimeout t (s.seats.map (·.1)) f) ∧
      (cxlPortOf t p.val).up = false ∧ (∀ i < 16, rngOnPort (rngOf s i) p.val = true → pget t (P.cxlRangeState i) = 3) ∧ ∀ ga i, rangeAt s ga = some i → f ga = rngOnPort (rngOf s i) p.val) ∧
    (bitOf s.pins.cxlPrsnt p.val = false → (cxlPortOf s p.val).enumerated = true → ∃ t f, exec (.cxlPrsntRemoval p) s = .next (seatsTimeout t (s.seats.map (·.1)) f) ∧
      (cxlPortOf t p.val).up = false ∧ (∀ i < 16, rngOnPort (rngOf s i) p.val = true → pget t (P.cxlRangeState i) = 3) ∧ ∀ ga i, rangeAt s ga = some i → f ga = rngOnPort (rngOf s i) p.val)) ∧
  (∀ (s : State) (p : CxlPortId), ∃ t, exec (.cxlPrsntLowToHigh p) s = .next t ∧ bitOf t.pins.cxlPrsnt p.val = false ∧ (s.start.islandsUp = true → bitOf t.pins.cxlRefclk p.val = false) ∧ t = { s with pins := t.pins }) ∧
  (∀ (s : State) (p : CxlPortId) (d : Fin 8) (sev : Bool) (q : CxlPort), (cxlPortOf s p.val).up = true →
    q = { cxlPortOf s p.val with responses := tset (fun _ => 0) (cxlPortOf s p.val).responses d.val (tget (fun _ => 0) (cxlPortOf s p.val).responses d.val + 1)
                                 severe := if sev then tset (fun _ => 0) (cxlPortOf s p.val).severe d.val (tget (fun _ => 0) (cxlPortOf s p.val).severe d.val + 1) else (cxlPortOf s p.val).severe } →
    exec (.cxlMemResponse p d ⟨false, sev⟩ none) s = .next (cxlPortPut s p.val q) ∧
    ∀ w, (cxlWaits (pinc (cxlPortPut s p.val q) (P.cxlPoison p.val)) p.val 0 w = true →
        exec (.cxlMemResponse p d ⟨true, sev⟩ (some w)) s = .next (cxlAnswer (pinc (cxlPortPut s p.val q) (P.cxlPoison p.val)) p.val stPoisoned w)) ∧
      (cxlWaits (pinc (cxlPortPut s p.val q) (P.cxlPoison p.val)) p.val 0 w = false → exec (.cxlMemResponse p d ⟨true, sev⟩ (some w)) s = .next (pinc (cxlPortPut s p.val q) (P.cxlPoison p.val)))) ∧
  (∀ (s : State) (p : CxlPortId) (w : CxlWaiter),
    (cxlWaits s p.val 4000000 w = true → exec (.cxlMemTimeout p w) s = .next (cxlAnswer (pinc s (P.cxlTimeouts p.val)) p.val stTimeout w)) ∧
    (cxlWaits s p.val 4000000 w = false → exec (.cxlMemTimeout p w) s = .next s)) ∧
  (∀ (s : State) (p : CxlPortId) (a b : U64), (cxlPortOf s p.val).enumerated = true → exec (.cxlEvent p a b) s = .next (fileError s false { kind := 0x14, scope := 0, island := 2344 + p.val, detail0 := a.toNat, detail1 := b.toNat }))

/-- Once the islands are up, ten milliseconds in which more than half of the responses of one device of a port report Severe Overload derate the port to what it delivered, never below 10 % of its base, and any other such interval lifts that derating; a change of the host port, or the end of a ring derating, is noted; in each case capacities and scales follow. The hold of a scale's rise ends when its class's capacity has held for 100 ms, and not before. The scale that a class wants is 1,000 while the minima fit nine tenths of its capacity and floor(900 C / sum) otherwise. A 100 µs window in which a backlogged shell outside a hold of seat windows received, of what its pacing slots let through, less than its effective minimum adds one to its MISSED of the class; with at least that minimum, or in a hold, it changes nothing. With pacing off no shell is capped; with it on, the next slot sets each shell's cap of each class at its effective minimum or above, and changes nothing but the caps. -/
def Obligations.Regulation : Prop :=
  (∀ (s : State) (p : CxlPortId) (d : U16), s.start.islandsUp = true → ∃ q, exec (.devloadWindow p d) s = .next (capacitySettle (cxlPortPut s p.val q)) ∧
    q.overload = (if ∃ e ∈ (cxlPortOf s p.val).severe, tget (fun _ => 0) (cxlPortOf s p.val).responses e.1 < e.2 * 2 then some (max 54 d.toNat) else none) ∧
    q = { cxlPortOf s p.val with responses := [], severe := [], overload := q.overload }) ∧
  (∀ (s : State) (g : Fin 7) (w : Fin 17), s.start.islandsUp = true → 1 ≤ g.val → 1 ≤ w.val → exec (.capacityChange (.host g w)) s = .next (capacitySettle { s with hostGen := g.val, hostWidth := w.val })) ∧
  (∀ s : State, s.start.islandsUp = true → exec (.capacityChange (.ring none)) s = .next (capacitySettle { s with ringDerate := none })) ∧
  (∀ (s : State) (k : Fin 12),
    (k.val ∈ s.scaleHold → tbPast s.tb (tget (fun _ => 0) s.tbCapacity k.val) 100000000 = true → ∃ t, exec (.scaleRiseHoldExpiry k) s = .next t ∧ k.val ∉ t.scaleHold) ∧
    (k.val ∉ s.scaleHold ∨ tbPast s.tb (tget (fun _ => 0) s.tbCapacity k.val) 100000000 = false → exec (.scaleRiseHoldExpiry k) s = .next s)) ∧
  (∀ (s : State) (k : Nat), scaleWanted s k = (if 9 * pget s (P.regCapacity k) < ((liveShells s).map (fun e => activeMin s e.1 k)).sum * 10 then 900 * pget s (P.regCapacity k) / ((liveShells s).map (fun e => activeMin s e.1 k)).sum else 1000)) ∧
  (∀ (s : State) (x : RegSample), (shellOf s x.slot.val).st ≠ .free →
    (windowHeld s = true ∨ effMin s x.slot.val x.cls.val * 10 ≤ paced s x.slot.val x.cls.val x.bytes → exec (.regulationWindow [x]) s = .next s) ∧
    (windowHeld s = false → paced s x.slot.val x.cls.val x.bytes < effMin s x.slot.val x.cls.val * 10 → ∃ t, exec (.regulationWindow [x]) s = .next t ∧
      field (octGet t (P.missed x.slot.val)) (4 * x.cls.val) 4 = satInc32 (field (octGet s (P.missed x.slot.val)) (4 * x.cls.val) 4) ∧
      (∀ k < 12, k ≠ x.cls.val → field (octGet t (P.missed x.slot.val)) (4 * k) 4 = field (octGet s (P.missed x.slot.val)) (4 * k) 4) ∧ t.mem = s.mem)) ∧
  (∀ s : State, pget s P.pacingEnable = 0 → exec .pacingSlot s = .next { s with pace := [] }) ∧
  (∀ s : State, pget s P.pacingEnable ≠ 0 → ∃ t, exec .pacingSlot s = .next t ∧ t = { s with pace := t.pace } ∧
    ∀ e ∈ liveShells s, ∀ k < 12, effMin s e.1 k / 10 ≤ tget (fun _ => 0) t.pace (e.1 * 16 + k))

/-- On a function whose queue is empty and whose response ring has room, a first install or one of a newer generation of a LIVE or LOST context makes an idle slot FETCHING and reads the 32 bytes of its mirror entry; a revoke that names the generation a VALID slot holds makes it DRAINING with no entry in force; an update of a busy slot, an older generation, one 2^31 or more away, a revoke of another generation, and an update of a context that is not LIVE or LOST of the function are answered 0x0303, 0x0304, 0x0305, 0x0306 and 0x0302. With 64 updates waiting one more is dropped and counted. A mirror read that fails is answered 0x0307, one whose entry fails a check with that check's code, and an entry that passes all is in force at once with the answer 0 in an empty slot, or behind the drain of the old content in a valid one, and it leaves every range cache. A slot whose old content an access still uses stays DRAINING; a drained one is VALID after a replace and EMPTY after a revoke, with the answer 0. -/
def Obligations.RangeUpdates : Prop :=
  (∀ (s : State) (fn : Fn) (gen : U32) (ctx : U16) (idx : Fin 4096), fnUp s fn.val = true → (fnOf s fn.val).updates = [] → (fnOf s fn.val).respWaiting = [] → respRoom (fnOf s fn.val) = true →
    let live := ((ctxOf s ctx.toNat).st = .live ∨ (ctxOf s ctx.toNat).st = .lost) ∧ (ctxOf s ctx.toNat).fn = fn.val
    let x := slotOf (ctxOf s ctx.toNat) idx.val
    let s0 := fnStPut s fn.val (fnOf s fn.val)
    (live → (x.st = .empty ∨ x.st = .valid) → (∀ g, x.lastInstalled = some g → serialCmp g gen.toNat = .newer) →
      ∃ t, exec (.rtUpdateInstall fn gen ctx idx) s = .next t ∧ t.sent = s.sent ++ [.hostRead ((ctxOf s ctx.toNat).desc.mirrorBase + 32 * idx.val) 32] ∧
        slotOf (ctxOf t ctx.toNat) idx.val = { x with st := .fetching, pendingGen := gen.toNat, pendingInstall := true } ∧
        (∀ k, k ≠ idx.val → slotOf (ctxOf t ctx.toNat) k = slotOf (ctxOf s ctx.toNat) k) ∧ (∀ k, k ≠ ctx.toNat → ctxOf t k = ctxOf s k) ∧
        (∀ k, fnOf t k = fnOf s k) ∧ t = { s with ctxs := t.ctxs, fns := t.fns, sent := t.sent }) ∧
    (live → x.st = .valid → entGen x.entry = gen.toNat →
      ∃ t, exec (.rtUpdateRevoke fn gen ctx idx) s = .next t ∧ (slotOf (ctxOf t ctx.toNat) idx.val).st = .draining ∧ (slotOf (ctxOf t ctx.toNat) idx.val).entry = 0 ∧
        (∀ k, k ≠ idx.val → slotOf (ctxOf t ctx.toNat) k = slotOf (ctxOf s ctx.toNat) k) ∧ (∀ k, k ≠ ctx.toNat → ctxOf t k = ctxOf s k) ∧
        t = { s with ctxs := t.ctxs, fns := t.fns, slices := t.slices, rangeCaches := t.rangeCaches }) ∧
    (¬ live → exec (.rtUpdateInstall fn gen ctx idx) s = .next (respond s0 fn.val gen.toNat ctx.toNat 1 idx.val 0x0302 false) ∧
      exec (.rtUpdateRevoke fn gen ctx idx) s = .next (respond s0 fn.val gen.toNat ctx.toNat 2 idx.val 0x0302 false)) ∧
    (live → (x.st = .fetching ∨ x.st = .draining) → exec (.rtUpdateInstall fn gen ctx idx) s = .next (respond s0 fn.val gen.toNat ctx.toNat 1 idx.val 0x0303 false) ∧
      exec (.rtUpdateRevoke fn gen ctx idx) s = .next (respond s0 fn.val gen.toNat ctx.toNat 2 idx.val 0x0303 false)) ∧
    (live → (x.st = .empty ∨ x.st = .valid) → ∀ g, x.lastInstalled = some g →
      (serialCmp g gen.toNat = .older → exec (.rtUpdateInstall fn gen ctx idx) s = .next (respond s0 fn.val gen.toNat ctx.toNat 1 idx.val 0x0304 false)) ∧
      (serialCmp g gen.toNat = .outside → exec (.rtUpdateInstall fn gen ctx idx) s = .next (respond s0 fn.val gen.toNat ctx.toNat 1 idx.val 0x0305 false)) ∧
      (serialCmp g gen.toNat = .equal → exec (.rtUpdateInstall fn gen ctx idx) s = .next (respond s0 fn.val gen.toNat ctx.toNat 1 idx.val 0 true))) ∧
    (live → x.st = .valid → entGen x.entry ≠ gen.toNat → exec (.rtUpdateRevoke fn gen ctx idx) s = .next (respond s0 fn.val gen.toNat ctx.toNat 2 idx.val 0x0306 false))) ∧
  (∀ (s : State) (fn : Fn) (gen : U32) (ctx : U16) (idx : Fin 4096), fnUp s fn.val = true → 64 ≤ (fnOf s fn.val).updates.countP (fun u => decide (u.1 < 4)) →
    exec (.rtUpdateInstall fn gen ctx idx) s = .next (pinc s P.rtUpdatesDropped) ∧ exec (.rtUpdateRevoke fn gen ctx idx) s = .next (pinc s P.rtUpdatesDropped)) ∧
  (∀ (s : State) (ctx : U16) (idx : Fin 4096) (b : Bytes), (slotOf (ctxOf s ctx.toNat) idx.val).st = .fetching →
    let c := ctxOf s ctx.toNat
    let x := slotOf c idx.val
    let e := leNat (b.take 32)
    let code := entryCode s ctx.toNat idx.val x.pendingGen e
    let back := fun (v : SlotState) (k : Nat) => respond (slotPut s ctx.toNat idx.val { x with st := v }) c.fn x.pendingGen ctx.toNat 1 idx.val k false
    (entKind x.entry = 0 → exec (.rtMirrorFetchDone ctx idx .failed) s = .next (back .empty 0x0307) ∧ (code ≠ 0 → exec (.rtMirrorFetchDone ctx idx (.data b)) s = .next (back .empty code)) ∧
      (code = 0 → exec (.rtMirrorFetchDone ctx idx (.data b)) s = .next (respond (entryForce s ctx.toNat idx.val e { x with st := .valid }) c.fn x.pendingGen ctx.toNat 1 idx.val 0 false))) ∧
    (entKind x.entry ≠ 0 → exec (.rtMirrorFetchDone ctx idx .failed) s = .next (back .valid 0x0307) ∧ (code ≠ 0 → exec (.rtMirrorFetchDone ctx idx (.data b)) s = .next (back .valid code)) ∧
      (code = 0 → exec (.rtMirrorFetchDone ctx idx (.data b)) s = .next (entryForce s ctx.toNat idx.val e { x with st := .draining })))) ∧
  (∀ (s : State) (cid idx e : Nat) (x : RangeSlot), slotOf (ctxOf (entryForce s cid idx e x) cid) idx = { x with entry := e, lastInstalled := some (entGen e), gone := if entKind x.entry = 0 then x.gone else sAdd x.gone x.entry } ∧
    (∀ k, k ≠ idx → slotOf (ctxOf (entryForce s cid idx e x) cid) k = slotOf (ctxOf s cid) k) ∧
    entryForce s cid idx e x = { s with ctxs := (entryForce s cid idx e x).ctxs, slices := (entryForce s cid idx e x).slices, rangeCaches := (entryForce s cid idx e x).rangeCaches } ∧
    (entryForce s cid idx e x).rangeCaches = (rangeDrop s (fun k => k == cid * 4096 + idx)).rangeCaches) ∧
  (∀ (s : State) (ctx : U16) (idx : Fin 4096), (slotOf (ctxOf s ctx.toNat) idx.val).st = .draining →
    let c := ctxOf s ctx.toNat
    let x := slotOf c idx.val
    (drainOpen s ctx.toNat x.gone = true → exec (.entryDrainDone ctx idx) s = .next s) ∧
    (drainOpen s ctx.toNat x.gone = false → x.pendingInstall = true → exec (.entryDrainDone ctx idx) s = .next (respond (slotPut s ctx.toNat idx.val { x with st := .valid }) c.fn x.pendingGen ctx.toNat 1 idx.val 0 false)) ∧
    (drainOpen s ctx.toNat x.gone = false → x.pendingInstall = false → exec (.entryDrainDone ctx idx) s = .next (respond (slotPut s ctx.toNat idx.val { x with st := .empty }) c.fn x.pendingGen ctx.toNat 2 idx.val 0 false)))

/-- On a function whose queue is empty and whose response ring has room, a resume of the outstanding batch resumes its stopped transfers, is answered 0 and leaves the conversation CLEAR, or COLLECTING the next batch from the held records; an abort of it loses the context and is answered 0; a resolve of an earlier batch is answered 0 as a duplicate, of any other 0x030E, of a lost context 0x030F, and of a context that is not the function's 0x0302. A batch that collects is delivered when the window in force at its opening ends and not before; with room in the fault ring it is written, the interrupt cause 1 is raised, and the timeout runs. A delivered batch with no resolve in its time loses the context and counts a timeout. A head pointer written backward, past what was written or out of range is ignored and counted; otherwise it moves, and only it, when nothing waits. -/
def Obligations.FaultConversation : Prop :=
  (∀ (s : State) (fn : Fn) (batch : U32) (ctx : U16), fnUp s fn.val = true → (fnOf s fn.val).updates = [] → (fnOf s fn.val).respWaiting = [] → respRoom (fnOf s fn.val) = true →
    let c := ctxOf s ctx.toNat
    let s0 := fnStPut s fn.val (fnOf s fn.val)
    let d := serialDist batch.toNat (c.fault.lastBatch % 2 ^ 32)
    let ans := fun (s : State) (code : Nat) (dup : Bool) => respond s fn.val batch.toNat ctx.toNat 3 0 code dup
    (c.st = .live → c.fn = fn.val → c.fault.st = .delivered → d = 0 →
      (c.fault.held = [] → ∃ t, exec (.fltResolveResume fn batch ctx) s = .next t ∧
        (ctxOf t ctx.toNat).fault = { c.fault with st := .clear, records := [], held := [], waiting := false } ∧ t.seats = (batchResume s0 ctx.toNat).seats ∧
        t.sent = (ans (batchResume s0 ctx.toNat) 0 false).sent ∧ t.mem = s.mem ∧ ∀ k, k ≠ ctx.toNat → ctxOf t k = ctxOf s k) ∧
      (c.fault.held ≠ [] → c.fault.held.length < 64 → ∃ t, exec (.fltResolveResume fn batch ctx) s = .next t ∧
        (ctxOf t ctx.toNat).fault.st = .collecting ∧ (ctxOf t ctx.toNat).fault.lastBatch = c.fault.lastBatch + 1 ∧ (ctxOf t ctx.toNat).fault.records = c.fault.held ∧
        (ctxOf t ctx.toNat).fault.held = [] ∧ t.seats = (batchResume s0 ctx.toNat).seats) ∧
      exec (.fltResolveAbort fn batch ctx) s = .next (ans (batchLoss s0 ctx.toNat) 0 false)) ∧
    (c.st = .live → c.fn = fn.val → d < 2 ^ 31 → d < c.fault.lastBatch → (0 < d ∨ c.fault.st = .clear) →
      exec (.fltResolveResume fn batch ctx) s = .next (ans s0 0 true) ∧ exec (.fltResolveAbort fn batch ctx) s = .next (ans s0 0 true)) ∧
    (c.st = .live → c.fn = fn.val → (2 ^ 31 ≤ d ∨ c.fault.lastBatch ≤ d ∨ c.fault.st = .collecting) → (c.fault.st = .delivered → d ≠ 0) → (c.fault.st = .collecting → d = 0) →
      exec (.fltResolveResume fn batch ctx) s = .next (ans s0 0x030E false) ∧ exec (.fltResolveAbort fn batch ctx) s = .next (ans s0 0x030E false)) ∧
    (c.st = .lost → c.fn = fn.val → exec (.fltResolveResume fn batch ctx) s = .next (ans s0 0x030F false) ∧ exec (.fltResolveAbort fn batch ctx) s = .next (ans s0 0x030F false)) ∧
    (((c.st ≠ .live ∧ c.st ≠ .lost) ∨ c.fn ≠ fn.val) → exec (.fltResolveResume fn batch ctx) s = .next (ans s0 0x0302 false) ∧ exec (.fltResolveAbort fn batch ctx) s = .next (ans s0 0x0302 false))) ∧
  (∀ (s : State) (ctx : U16), (ctxOf s ctx.toNat).st = .live → (ctxOf s ctx.toNat).fault.st = .collecting →
    let f := (ctxOf s ctx.toNat).fault
    let fn := fnOf s (ctxOf s ctx.toNat).fn
    (tbPast s.tb f.tbWindow (f.windowUs * 1000) = false → exec (.faultWindowExpiry ctx) s = .next s) ∧
    (tbPast s.tb f.tbWindow (f.windowUs * 1000) = true → ∃ t, exec (.faultWindowExpiry ctx) s = .next t ∧ (ctxOf t ctx.toNat).fault.st = .delivered ∧
      (ctxOf t ctx.toNat).fault.records = f.records ∧ t = { s with ctxs := t.ctxs, fns := t.fns, sent := t.sent, fnRegs := t.fnRegs, regs := t.regs } ∧
      (fn.fltWaiting = [] → fn.fltWritten - fn.fltRead < 16 → (ctxOf t ctx.toNat).fault.waiting = false ∧ (ctxOf t ctx.toNat).fault.tbDelivered = s.tb ∧
        bitOf (fnGet t (ctxOf s ctx.toNat).fn 0x80) 1 = true ∧ pget t P.faultBatches = satInc32 (pget s P.faultBatches)) ∧
      (16 ≤ fn.fltWritten - fn.fltRead → (ctxOf t ctx.toNat).fault.waiting = true ∧ t.sent = s.sent))) ∧
  (∀ (s : State) (ctx : U16), (ctxOf s ctx.toNat).st = .live → (ctxOf s ctx.toNat).fault.st = .delivered → (ctxOf s ctx.toNat).fault.waiting = false →
    let f := (ctxOf s ctx.toNat).fault
    (tbPast s.tb f.tbDelivered (f.timeoutMs * 1000000) = false → exec (.faultTimeoutExpiry ctx) s = .next s) ∧
    (tbPast s.tb f.tbDelivered (f.timeoutMs * 1000000) = true → exec (.faultTimeoutExpiry ctx) s = .next (batchLoss (pinc s P.faultTimeouts) ctx.toNat))) ∧
  (∀ (s : State) (fn : Fn) (v : U32), fnUp s fn.val = true →
    let f := fnOf s fn.val
    let d := (v.toNat + 1024 - f.respRead % 1024) % 1024
    let g := (v.toNat + 16 - f.fltRead % 16) % 16
    ((1024 ≤ v.toNat ∨ f.respWritten - f.respRead < d) → exec (.trRespHeadWrite fn v) s = .next (pinc s P.trConfigIgnored)) ∧
    (v.toNat < 1024 → d ≤ f.respWritten - f.respRead → f.respWaiting = [] → f.updates = [] → ∃ t, exec (.trRespHeadWrite fn v) s = .next t ∧ fnGet t fn.val 0x58 = v.toNat ∧
      fnOf t fn.val = { f with respRead := f.respRead + d } ∧ (∀ k, k ≠ fn.val → fnOf t k = fnOf s k) ∧ t = { s with fns := t.fns, fnRegs := t.fnRegs }) ∧
    ((16 ≤ v.toNat ∨ f.fltWritten - f.fltRead < g) → exec (.fltRingHeadWrite fn v) s = .next (pinc s P.trConfigIgnored)) ∧
    (v.toNat < 16 → g ≤ f.fltWritten - f.fltRead → f.fltWaiting = [] → ∃ t, exec (.fltRingHeadWrite fn v) s = .next t ∧ fnGet t fn.val 0x68 = v.toNat ∧
      fnOf t fn.val = { f with fltRead := f.fltRead + g } ∧ (∀ k, k ≠ fn.val → fnOf t k = fnOf s k) ∧ t = { s with fns := t.fns, fnRegs := t.fnRegs }))

/-- Once the registers of a function can be reached, a write of its own size to a plain register keeps the register's bits and leaves every other register, and a write of another size, or to an offset that is reserved or has a row of its own, does nothing; an 8-byte write of RT_UPDATE or FLT_RESOLVE joins the function's queue with its fields, whatever its OP or VERDICT. While the function holds a context an 8-byte write of TR_RESP_BASE or FLT_RING_BASE is ignored and counted in TR_CONFIG_IGNORED, and one of FN_CTL or INT_VECTOR in FN_CONFIG_IGNORED. A 4-byte write of the MSI-X table keeps its value. A CTX_CMD with an OP that names no command is refused 0x0A01. Clearing the mask of a vector with a pending message sends it. A write of Device Control 2 sets whether the function may send AtomicOp requests. Setting ATS Enable sets it, and clearing it drops the function's translations and no other's. A fence advance at a page without a translation asks for it and waits; a Translation Completion caches the page's translation, and the advance that waited for it is made; an Invalidation Request drops those of its span, only those, and is completed. A slice that is being zeroed is zero and held by nothing when its zeroing ends, and none of its words is bad any more. -/
def Obligations.RegisterWrites : Prop :=
  (∀ (s : State) (fn : Fn) (off : U16) (size : Fin 9) (v : U64), fnUp s fn.val = true → off.toNat < 0x1000 → off.toNat ≠ 0x18 → off.toNat ≠ 0x40 → off.toNat ≠ 0x48 →
    (regMask off.toNat = none ∨ size.val ≠ 8 → exec (.registerWrite fn .bar0 off size v) s = .next s) ∧
    (∀ m, regMask off.toNat = some m → size.val = 8 →
      (ctxLive s fn.val ≠ 0 → (off.toNat = 0x50 ∨ off.toNat = 0x60) → exec (.registerWrite fn .bar0 off size v) s = .next (pinc s P.trConfigIgnored)) ∧
      (ctxLive s fn.val ≠ 0 → (off.toNat = 0x08 ∨ off.toNat = 0x90) → exec (.registerWrite fn .bar0 off size v) s = .next (pinc s P.fnConfigIgnored)) ∧
      ((ctxLive s fn.val = 0 ∨ off.toNat = 0x10 ∨ off.toNat = 0x88 ∨ off.toNat = 0x408) → (off.toNat = 0x50 → v.toNat % 0x4000 = 0) → (off.toNat = 0x60 → v.toNat % 0x10000 = 0) →
        ∃ t, exec (.registerWrite fn .bar0 off size v) s = .next t ∧ fnGet t fn.val off.toNat = v.toNat &&& m ∧
          (∀ g o, (g ≠ fn.val ∨ o ≠ off.toNat) → o < 0x10000 → fnGet t g o = fnGet s g o) ∧ t = { s with fnRegs := t.fnRegs }))) ∧
  (∀ (s : State) (fn : Fn) (off : U16) (size : Fin 9) (v : U64), fnUp s fn.val = true → 0x1000 ≤ off.toNat → off.toNat < 0x1200 → off.toNat % 4 = 0 → size.val = 4 → v.toNat < 2 ^ 32 →
    (off.toNat % 16 ≠ 12 → ∃ t, exec (.registerWrite fn .bar0 off size v) s = .next t ∧ fnGet t fn.val off.toNat = v.toNat ∧
      (∀ g o, (g ≠ fn.val ∨ o ≠ off.toNat) → o < 0x10000 → fnGet t g o = fnGet s g o) ∧ t = { s with fnRegs := t.fnRegs }) ∧
    (off.toNat % 16 = 12 → v.toNat % 2 = 0 → s.start.releasesStopped = false → bitOf (fnGet s fn.val 0x1800) ((off.toNat - 0x1000) / 16) = true →
      ∃ t, exec (.registerWrite fn .bar0 off size v) s = .next t ∧ t.sent = s.sent ++ [.msix fn.val ((off.toNat - 0x1000) / 16)] ∧
        bitOf (fnGet t fn.val 0x1800) ((off.toNat - 0x1000) / 16) = false ∧ fnGet t fn.val off.toNat = 0 ∧ t = { s with fnRegs := t.fnRegs, sent := t.sent })) ∧
  (∀ (s : State) (fn : Fn) (v : U64), fnUp s fn.val = true → fnGet s fn.val 0x28 = 0 → (fnOf s fn.val).cmd = none → pget s P.startStage = 5 → (v.toNat % 16 = 0 ∨ 4 < v.toNat % 16) →
    exec (.registerWrite fn .bar0 0x18#16 8 v) s = .next (ctxDecide s fn.val (bitsOf v.toNat 63 32) (bitsOf v.toNat 31 16) 0x0A01)) ∧
  (∀ (s : State) (fn : Fn) (size : Fin 9) (v : U64), fnUp s fn.val = true →
    (size.val = 8 → exec (.registerWrite fn .bar0 0x40#16 size v) s = .next (updatePush s fn.val (bitsOf v.toNat 15 14) (bitsOf v.toNat 31 16) (bitsOf v.toNat 11 0) (bitsOf v.toNat 63 32)) ∧
      exec (.registerWrite fn .bar0 0x48#16 size v) s = .next (resolvePush s fn.val (bitsOf v.toNat 15 14) (bitsOf v.toNat 31 16) (bitsOf v.toNat 63 32))) ∧
    (size.val ≠ 8 → exec (.registerWrite fn .bar0 0x40#16 size v) s = .next s ∧ exec (.registerWrite fn .bar0 0x48#16 size v) s = .next s)) ∧
  (∀ (s : State) (fn : Fn) (off : U16) (size : Fin 9) (v : U64), fnUp s fn.val = true →
    exec (.registerWrite fn .deviceControl2 off size v) s = .next (fnStPut s fn.val { fnOf s fn.val with atomics := bitOf v.toNat 6 }) ∧
    ∃ t, exec (.registerWrite fn .atsControl off size v) s = .next t ∧ (fnOf t fn.val).ats = bitOf v.toNat 15 ∧ t = { s with fns := t.fns, atc := t.atc } ∧
      (bitOf v.toNat 15 = true → t.atc = s.atc) ∧ (bitOf v.toNat 15 = false → t.atc = s.atc.filter (fun e => e.1 / 2 ^ 44 != fn.val))) ∧
  (∀ (s : State) (fn : Fn) (page p : BitVec 44) (w : Bool), fnUp s fn.val = true → s.advWaits = [] →
    (∃ t, exec (.atsTranslationCompletion fn page (some (p, w))) s = .next t ∧ tfind t.atc (atcKey fn.val page.toNat) = some (p.toNat, w) ∧ t = { s with atc := t.atc } ∧
      (s.atc.length < 8192 → ∀ k, k ≠ atcKey fn.val page.toNat → tfind t.atc k = tfind s.atc k)) ∧
    (∃ t, exec (.atsTranslationCompletion fn page none) s = .next t ∧ tfind t.atc (atcKey fn.val page.toNat) = some (2 ^ 52, false) ∧ t = { s with atc := t.atc })) ∧
  (∀ (s : State) (cid i v f p : Nat) (b : FenceBind), tget (fun _ => none) (ctxOf s cid).fences i = some b → frontUp s = true → translatePins s cid [] b.va .atomic = .ats f p →
    advanceBinding s cid i v = (emit { s with advWaits := s.advWaits ++ [(cid, i, v)] } (.atsRequest f p), true)) ∧
  (∀ (s : State) (fn : Fn) (page p : BitVec 44) (w : Bool) (cid i v : Nat) (b : FenceBind), fnUp s fn.val = true → s.advWaits = [(cid, i, v)] → s.atc.length < 8192 →
    tget (fun _ => none) (ctxOf s cid).fences i = some b →
    let u : State := { s with atc := tins (tdel s.atc (atcKey fn.val page.toNat)) (atcKey fn.val page.toNat) (p.toNat, w), advWaits := [] }
    (∀ f q, translatePins u cid [] b.va .atomic ≠ .ats f q) → (advanceBinding u cid i v).2 = true →
    exec (.atsTranslationCompletion fn page (some (p, w))) s = .next (advanceBinding u cid i v).1) ∧
  (∀ (s : State) (fn : Fn) (page : BitVec 44) (n : U32), fnUp s fn.val = true → ∃ t, exec (.atsInvalidationRequest fn page n) s = .next t ∧ t.sent = s.sent ++ [.atsInvalidated fn.val page.toNat n.toNat] ∧
    t = { s with atc := t.atc, sent := t.sent } ∧ ∀ k, tfind t.atc k = if atcKey fn.val page.toNat ≤ k ∧ k < atcKey fn.val page.toNat + n.toNat then none else tfind s.atc k) ∧
  (∀ (s : State) (die : Fin 16) (slice : Fin 48), sliceOwner s (die.val * 48 + slice.val) = some 33 →
    ∃ t, exec (.sliceZeroDone die slice) s = .next t ∧ sliceOwner t (die.val * 48 + slice.val) = none ∧ (∀ k, k ≠ die.val * 48 + slice.val → sliceOwner t k = sliceOwner s k) ∧
      (∀ a, memGet t a = if sliceBase (die.val * 48 + slice.val) ≤ a ∧ a < sliceBase (die.val * 48 + slice.val) + 0x400000 then 0 else memGet s a) ∧ t = { s with slices := t.slices, mem := t.mem, sliceBad := t.sliceBad } ∧
      ∀ w ∈ t.sliceBad, w ∈ s.sliceBad ∧ (w < sliceBase (die.val * 48 + slice.val) ∨ sliceBase (die.val * 48 + slice.val) + 0x400000 < w + 8)) ∧
  (∀ (s : State) (die : Fin 16) (slice : Fin 48), sliceOwner s (die.val * 48 + slice.val) ≠ some 33 → exec (.sliceZeroDone die slice) s = .next s)

/-- A queued transfer of a running seat, lent seats included, whose descriptor has the right format, whose earlier tickets have started, and beside which fewer than four walk, goes on to its walk: a COPY or FILL walks its elements from the cursor and ends at their end (xferDone), once no write of it toward another module still waits for credit, or stops at the cursor it reached (xferStop); one that starts with WDEC and no key for its shell fails 0x13, and a gather whose sequence slot is invalid or not the context's fails 0x12. A descriptor of a wrong format fails 0x11. RED_SEND puts its packets on their way, one for 16 words or 4 frets, and waits for as many acknowledgements. RED_ARM arms its group while fewer than 8 are armed, and a refused group of the name gives way. FENCE_ADV waits for earlier tickets; at a word of free memory it then stores the unsigned maximum and is done, or stops at the status that met it, and it ends (xferEnd), reading and writing nothing, when an earlier ticket is in state 3. An active walk goes on while it is among the first four of its seat. A transfer that is stopped or aborted, or a seat that does not run, is left as it is. -/
def Obligations.Transfers : Prop :=
  (∀ (s : State) (i : SeatId) (tk : U32) (o : Outside) (x : Xfer) (env : XEnv), xferFind s i.val tk.toNat = some x → xEnv s i.val = some env → (seatOf s i.val).mode = .run →
    let go := fun (x : Xfer) => xferWalk i.val o s env x
    (x.st = .queued → earlierStarted s i.val tk.toNat = true → (walkers s i.val).length < 4 → xfFormatOk x.desc (tileFret (seatOf s i.val).arr (redTile x.desc)) = true →
      (xfKind x.desc = 2 → exec (.xferFill i tk o) s = .next (go { x with st := .active })) ∧
      (xfKind x.desc = 1 → bitOf x.desc 25 = false → exec (.xferCopy i tk o) s = .next (go { x with st := .active })) ∧
      (xfKind x.desc = 1 → bitOf x.desc 25 = true → wkeyLatch s env x.desc = none → exec (.xferCopy i tk o) s = .next (xferFail s i.val env { x with st := .active } 0x13)) ∧
      (∀ w, xfKind x.desc = 1 → bitOf x.desc 25 = true → wkeyLatch s env x.desc = some w →
        exec (.xferCopy i tk o) s = .next (xferWalk i.val o (freeNext s) env { x with st := .active, wkey := some w })) ∧
      (xfKind x.desc = 3 → env.shell ≠ none → let r := tget (fun _ => 0) s.seqSlots (bitsOf x.desc 127 116)
        ((bitOf r 239 = false ∨ bitsOf r 255 240 ≠ env.ctx) → exec (.xferKvGather i tk o) s = .next (xferFail s i.val env { x with st := .active } 0x12)) ∧
        (bitOf r 239 = true → bitsOf r 255 240 = env.ctx → exec (.xferKvGather i tk o) s = .next (go { x with st := .active, seqRec := r }))) ∧
      (xfKind x.desc = 3 → env.shell = none → ∃ r, exec (.xferKvGather i tk o) s = .next (xferWalk i.val o (freeNext s) env { x with st := .active, seqRec := r })) ∧
      (xfKind x.desc = 5 → let ps := redPackets s (redSlot s i.val) i.val { x with st := .active }
        exec (.xferRedSend i tk) s = .next { xferPut s i.val { x with st := .active, unacked := ps.length, tbSent := s.tb } with red := s.red ++ ps, nextId := s.nextId + ps.length }) ∧
      (xfKind x.desc = 4 → (seatOf s i.val).groups.countP (fun g => !g.refused) < 8 → (∀ g ∈ (seatOf s i.val).groups, g.ticket ≠ x.ticket) → ∃ t, exec (.xferRedArm i tk) s = .next t ∧ t = { s with seats := t.seats } ∧
        (∀ k, k ≠ i.val → seatOf t k = seatOf s k) ∧ (seatOf t i.val).arr = (seatOf s i.val).arr ∧ (seatOf t i.val).core = (seatOf s i.val).core ∧
        ∃ g, (seatOf t i.val).groups = (seatOf s i.val).groups.filter (fun y => !(y.refused && y.shell == g.shell && y.group == g.group)) ++ [g] ∧
          g = { shell := redSlot s i.val, group := redGroupOf x.desc, tile := redTile x.desc, first := redFirst x.desc, count := redCount x.desc, expected := redWeight x.desc
                peg := bitsOf x.desc 47 42, fretBase := bitsOf x.desc 143 128, fret := bitOf x.desc 144, ticket := x.ticket }) ∧
      (xfKind x.desc = 6 → (seatOf s i.val).xfers.takeWhile (fun y => y.ticket != x.ticket) = [] → x.casValue = none → ∀ ga a c r,
        let s1 := xferPut s i.val { x with st := .active }
        xAddr s1 env (xfSrc x.desc) .atomic = .ok (.at ga) → inHostWindow ga = false →
        corePlace s1 i.val ga 8 = .cell a c r → coreUnanswered s1 i.val ga (.cell a c r) = false →
        let m := placeAtomic (chanMeet s1 (.cell a c r) 8 o.check) (.cell a c r) 8 .maxu (xfDst x.desc) o
        exec (.xferFenceAdv i tk o) s = .next (if m.2.1 = stOk then fenceKept m.1 i.val env.ctx { x with st := .active } ga
          else xferStop m.1 i.val env { x with st := .active } 0 (.status m.2.1 2 (xfSrc x.desc) ga))) ∧
      (xfKind x.desc = 6 → ((seatOf s i.val).xfers.takeWhile (fun y => y.ticket != x.ticket)).any (fun y => y.st == .aborted) = true →
        exec (.xferFenceAdv i tk o) s = .next (xferEnd (xferPut s i.val { x with st := .active }) i.val { x with st := .active }))) ∧
    (x.st = .queued → earlierStarted s i.val tk.toNat = true → (walkers s i.val).length < 4 → xfFormatOk x.desc (tileFret (seatOf s i.val).arr (redTile x.desc)) = false →
      ∀ op ∈ [(1, Instr.xferCopy i tk o), (2, .xferFill i tk o), (3, .xferKvGather i tk o), (4, .xferRedArm i tk), (5, .xferRedSend i tk), (6, .xferFenceAdv i tk o)],
        (xfKind x.desc = op.1 ∨ xfKind x.desc = 0 ∨ 7 ≤ xfKind x.desc) → exec op.2 s = .next (xferFail s i.val env x 0x11)) ∧
    (x.st = .active → x.bhKey = none → ((walkers s i.val).take 4).contains tk.toNat = true → (xfKind x.desc = 1 → exec (.xferCopy i tk o) s = .next (go x)) ∧ (xfKind x.desc = 2 → exec (.xferFill i tk o) s = .next (go x)) ∧
      (xfKind x.desc = 3 → exec (.xferKvGather i tk o) s = .next (go x))) ∧
    ((x.st = .stopped ∨ x.st = .aborted) → ∀ op ∈ [Instr.xferCopy i tk o, .xferFill i tk o, .xferKvGather i tk o, .xferRedArm i tk, .xferRedSend i tk, .xferFenceAdv i tk o], exec op s = .next s)) ∧
  (∀ (s : State) (i : SeatId) (tk : U32) (o : Outside), (seatOf s i.val).mode ≠ .run →
    ∀ op ∈ [Instr.xferCopy i tk o, .xferFill i tk o, .xferKvGather i tk o, .xferRedArm i tk, .xferRedSend i tk, .xferFenceAdv i tk o], exec op s = .next s) ∧
  (∀ (s : State) (seat : Nat) (env : XEnv) (x : Xfer) (o : Outside),
    let r := xWalk seat env x (xfTotal x.desc - x.cursor) x.cursor none o (xferPut s seat x)
    (r.2 = none → xferUnsent r.1 seat = false → xferWalk seat o s env x = xferDone r.1 seat x) ∧
    (r.2 = none → xferUnsent r.1 seat = true → xferWalk seat o s env x = xferPut r.1 seat { x with cursor := xfTotal x.desc, waits := none }) ∧
    (∀ k e, r.2 = some (k, e) → xferWalk seat o s env x = xferStop r.1 seat env x k e ∧ x.cursor ≤ k ∧ k ≤ x.cursor + (xfTotal x.desc - x.cursor))) ∧
  (∀ (s : State) (sl seat : Nat) (x : Xfer), (redPackets s sl seat x).length = redCount x.desc / (if tileFret (seatOf s seat).arr (redTile x.desc) then 4 else 16)) ∧
  (∀ (s : State) (i : SeatId) (tk : U32) (x : Xfer) (env : XEnv) (w ga : Nat) (v : U64), xferFind s i.val tk.toNat = some x → xEnv s i.val = some env → x.st = .active → x.casValue = some w →
    xAddr s env (xfSrc x.desc) .atomic = .ok (.at ga) →
    (xfDst x.desc ≤ v.toNat → exec (.fenceCasCompletion i tk (some v)) s = .next (fenceKept s i.val env.ctx x ga)) ∧
    (v.toNat < xfDst x.desc → exec (.fenceCasCompletion i tk (some v)) s =
      .next (emit (xferPut s i.val { x with casValue := some v.toNat, tbSent := s.tb }) (.hostCas (hostAddr ga) v.toNat (xfDst x.desc)))) ∧
    exec (.fenceCasCompletion i tk none) s = .next (xferStop s i.val env x 0 (.status stNoTarget 2 (xfSrc x.desc) ga)))

/-- While CTX_BUSY is 1 a CTX_CMD is dropped and counted. Otherwise a command with a reserved field set is refused 0x0A01; a repeat of the last decided CMD_SEQ reports its outcome again and does nothing else; an older one is refused 0x0A03 and one 2^31 or more away 0x0A04. A new CREATE is refused 0x0A07 at the function's quota and 0x0A08 at the device's limit, and otherwise reads 64 bytes at CTX_DESC_ADDR with CTX_BUSY 1. A command that names no context of the function is refused 0x0A05, and one its state does not permit 0x0A06. FENCE_BIND reads 8 bytes; FENCE_UNBIND frees a binding whose KEPT equals PROMISED, and refuses a free index 0x0A0B and a pending one 0x0A0D. DESTROY leaves the context DESTROYING with CTX_BUSY 1. A failed read is refused 0x0A09, and one that comes when its command is no longer allowed with that refusal; a descriptor that passes its checks makes a LIVE context of the longest free identifier with the descriptor's fields and nothing else in it; a binding that passes holds PROMISED, KEPT and W at the word's value, wherever the word lies. When nothing of a destroyed context is left its identifier is freed last in the order, CTX_RESULT reports 0, and contexts that wait for residency try again, which reads their mirrors and changes nothing of them but their residency. A decision sets CTX_RESULT, clears CTX_BUSY and raises cause 5. -/
def Obligations.ContextCommands : Prop :=
  (∀ (s : State) (fn : Fn) (w : U64), fnUp s fn.val = true → (fnGet s fn.val 0x28 = 1 ∨ (fnOf s fn.val).cmd ≠ none ∨ pget s P.startStage ≠ 5) →
    ∀ c ∈ [Instr.ctxCmdCreate fn w, .ctxCmdDestroy fn w, .ctxCmdFenceBind fn w, .ctxCmdFenceUnbind fn w], exec c s = .next (pinc s P.ctxCmdDropped)) ∧
  (∀ (s : State) (fn : Fn) (w : U64), fnUp s fn.val = true → fnGet s fn.val 0x28 = 0 → (fnOf s fn.val).cmd = none → pget s P.startStage = 5 →
    let seq := bitsOf w.toNat 63 32
    let cid := bitsOf w.toNat 31 16
    let arg := bitsOf w.toNat 15 8
    let f := fnOf s fn.val
    let c := ctxOf s cid
    let fresh := ∀ l, f.lastCmdSeq = some l → serialCmp l seq = .newer
    let busy := fun (t : State) (op addr : Nat) => (fnOf t fn.val).cmd = some { seq := seq, ctx := cid, arg := arg, op := op, addr := addr } ∧ fnGet t fn.val 0x28 = 1
    (bitsOf w.toNat 7 4 ≠ 0 → ∀ i ∈ [Instr.ctxCmdCreate fn w, .ctxCmdDestroy fn w, .ctxCmdFenceBind fn w, .ctxCmdFenceUnbind fn w], exec i s = .next (ctxDecide s fn.val seq cid 0x0A01)) ∧
    (cid ≠ 0 ∨ arg ≠ 0 → exec (.ctxCmdCreate fn w) s = .next (ctxDecide s fn.val seq cid 0x0A01)) ∧
    (arg ≠ 0 → exec (.ctxCmdDestroy fn w) s = .next (ctxDecide s fn.val seq cid 0x0A01)) ∧
    (bitsOf w.toNat 7 4 = 0 → ∀ i ∈ [(1, Instr.ctxCmdCreate fn w), (2, .ctxCmdDestroy fn w), (3, .ctxCmdFenceBind fn w), (4, .ctxCmdFenceUnbind fn w)], (i.1 = 1 → cid = 0) → (i.1 ≤ 2 → arg = 0) →
      (∀ l, f.lastCmdSeq = some l →
        (serialCmp l seq = .equal → exec i.2 s = .next (fnPut s fn.val 0x20 f.lastResult)) ∧ (serialCmp l seq = .older → exec i.2 s = .next (ctxDecide s fn.val seq cid 0x0A03)) ∧
        (serialCmp l seq = .outside → exec i.2 s = .next (ctxDecide s fn.val seq cid 0x0A04))) ∧
      (fresh → i.1 ≠ 1 → (c.st = .free ∨ c.fn ≠ fn.val) → exec i.2 s = .next (ctxDecide s fn.val seq cid 0x0A05)) ∧
      (fresh → i.1 ≠ 1 → c.fn = fn.val → (c.st = .destroying ∨ (c.st = .lost ∧ i.1 ≠ 2)) → exec i.2 s = .next (ctxDecide s fn.val seq cid 0x0A06))) ∧
    (bitsOf w.toNat 7 4 = 0 → cid = 0 → arg = 0 → fresh →
      (pget s (P.ctxQuota fn.val) ≤ ctxLive s fn.val → exec (.ctxCmdCreate fn w) s = .next (ctxDecide s fn.val seq cid 0x0A07)) ∧
      (ctxLive s fn.val < pget s (P.ctxQuota fn.val) → pget s P.contextsMax ≤ ctxTotal s → exec (.ctxCmdCreate fn w) s = .next (ctxDecide s fn.val seq cid 0x0A08)) ∧
      (ctxLive s fn.val < pget s (P.ctxQuota fn.val) → ctxTotal s < pget s P.contextsMax → ∃ t, exec (.ctxCmdCreate fn w) s = .next t ∧ busy t 1 (fnGet s fn.val 0x10) ∧
        t.sent = s.sent ++ [.hostRead (fnGet s fn.val 0x10) 64] ∧ t = { s with fns := t.fns, fnRegs := t.fnRegs, sent := t.sent })) ∧
    (bitsOf w.toNat 7 4 = 0 → fresh → c.st = .live → c.fn = fn.val →
      (∃ t, exec (.ctxCmdFenceBind fn w) s = .next t ∧ busy t 3 (fnGet s fn.val 0x10) ∧ t.sent = s.sent ++ [.hostRead (fnGet s fn.val 0x10) 8] ∧
        t = { s with fns := t.fns, fnRegs := t.fnRegs, sent := t.sent }) ∧
      (tget (fun _ => none) c.fences arg = none → exec (.ctxCmdFenceUnbind fn w) s = .next (ctxDecide s fn.val seq cid 0x0A0B)) ∧
      (∀ b, tget (fun _ => none) c.fences arg = some b → b.kept < b.promised → exec (.ctxCmdFenceUnbind fn w) s = .next (ctxDecide s fn.val seq cid 0x0A0D)) ∧
      (∀ b, tget (fun _ => none) c.fences arg = some b → b.promised ≤ b.kept →
        exec (.ctxCmdFenceUnbind fn w) s = .next (ctxDecide (ctxPut s cid { c with fences := tset (fun _ => none) c.fences arg none }) fn.val seq cid 0))) ∧
    (bitsOf w.toNat 7 4 = 0 → arg = 0 → fresh → (c.st = .live ∨ c.st = .lost) → c.fn = fn.val → ∃ t, exec (.ctxCmdDestroy fn w) s = .next t ∧
      (ctxOf t cid).st = .destroying ∧ (ctxOf t cid).destroySeq = some seq ∧ (ctxOf t cid).cmds = [] ∧ (ctxOf t cid).resident = false)) ∧
  (∀ (s : State) (fn : Fn) (k : CtxCmdRun) (word : ReadResult), (fnOf s fn.val).cmd = some k → k.op ≠ 2 →
    let code := if k.op = 1 then ctxCreateCode s fn.val else ctxNameCode s fn.val k.ctx 3
    (code = 0 → exec (.ctxDescReadDone fn .failed word) s = .next (ctxDecide s fn.val k.seq k.ctx 0x0A09)) ∧
    (code ≠ 0 → ∀ r, exec (.ctxDescReadDone fn r word) s = .next (ctxDecide s fn.val k.seq k.ctx code))) ∧
  (∀ (s : State) (fn : Fn) (k : CtxCmdRun) (b : Bytes) (word : ReadResult), (fnOf s fn.val).cmd = some k → k.op = 1 → ctxCreateCode s fn.val = 0 → s.nextCtxId ≤ 65536 →
    let w := leNat (b.take 64)
    let q := bitsOf w 383 256
    let ring := 32 * 2 ^ bitsOf w 255 251
    bitsOf w 244 243 = 0 → bitsOf w 239 0 = 0 → 6 ≤ bitsOf w 255 251 → bitsOf w 255 251 ≤ 16 → bitsOf w 511 448 % 4096 = 0 → bitsOf w 511 448 < 2 ^ 56 →
    bitsOf w 447 384 % (max ring 4096) = 0 → bitsOf w 447 384 < 2 ^ 56 →
    bitsOf q 77 72 = 0 → bitsOf q 18 0 = 0 → 6 ≤ bitsOf q 82 78 → bitsOf q 82 78 ≤ 16 → bitsOf q 127 84 * 4096 % (64 * 2 ^ bitsOf q 82 78) = 0 → bitOf q 83 = false → bitsOf q 71 19 * 8 ≠ 0 →
    let cid := s.nextCtxId % 65536
    ∃ t, exec (.ctxDescReadDone fn (.data b) word) s = .next t ∧ (ctxOf t cid).st = .live ∧ (ctxOf t cid).fn = fn.val ∧ (ctxOf t cid).desc.mirrorBase = bitsOf w 511 448 ∧
      (ctxOf t cid).desc.crBase = bitsOf w 447 384 ∧ (ctxOf t cid).desc.crLog2 = bitsOf w 255 251 ∧ (ctxOf t cid).desc.queueBase = bitsOf q 127 84 * 4096 ∧
      (ctxOf t cid).entries = [] ∧ (ctxOf t cid).fences = [] ∧ (ctxOf t cid).fault = {} ∧ (ctxOf t cid).crWritten = 0 ∧ (ctxOf t cid).head = 0 ∧ t.nextCtxId = s.nextCtxId + 1 ∧
      (∀ i, i ≠ cid → ctxOf t i = ctxOf s i) ∧ fnGet t fn.val 0x20 = ctxResult k.seq cid 0 ∧ t.mem = s.mem) ∧
  (∀ (s u : State) (fn : Fn) (k : CtxCmdRun) (b : Bytes) (word : ReadResult) (v : VaRead) (va ga : Nat), (fnOf s fn.val).cmd = some k → k.op = 3 → (ctxOf s k.ctx).st = .live → (ctxOf s k.ctx).fn = fn.val →
    tget (fun _ => none) (ctxOf s k.ctx).fences k.arg = none → va = leNat (b.take 8) → va < 2 ^ 57 → va % 8 = 0 →
    (∀ e ∈ (ctxOf s k.ctx).fences, ∀ x, e.2 = some x → x.va ≠ va) → translate s k.ctx va .atomic = some ga →
    (inHostWindow ga = true → ∀ e ∈ s.ctxs, ∀ y ∈ e.2.fences, ∀ x, y.2 = some x → x.ga ≠ ga) → vaRead s true k.ctx va 8 word = (u, v) →
    (∀ wb, v = .ok wb → exec (.ctxDescReadDone fn (.data b) word) s = .next (ctxDecide (ctxPut u k.ctx { ctxOf u k.ctx with fences := tset (fun _ => none) (ctxOf u k.ctx).fences k.arg (some { va := va, ga := ga, promised := leNat (wb.take 8), kept := leNat (wb.take 8), w := leNat (wb.take 8) }) }) fn.val k.seq k.ctx 0)) ∧
    ((v = .fault ∨ ∃ st, v = .refused st) → exec (.ctxDescReadDone fn (.data b) word) s = .next (ctxDecide u fn.val k.seq k.ctx 0x0A09)) ∧
    (v = .waits → exec (.ctxDescReadDone fn (.data b) word) s = .next s)) ∧
  (∀ (s : State) (ctx : U16), (ctxOf s ctx.toNat).st = .destroying → sprintSlots s (fun p => p.st != .unbound && p.ctx == ctx.toNat) = [] → ctxHasLinks s ctx.toNat = false → (ctxOf s ctx.toNat).destroySeq ≠ none →
    (∀ w ∈ s.advWaits, w.1 ≠ ctx.toNat) → (∀ d ∈ s.dmwr, d.ctx ≠ ctx.toNat) → (∀ a ∈ s.advFar, a.ctx ≠ ctx.toNat) →
    ∃ u, exec (.destroyEnd ctx) s = .next (swapWaiting u) ∧ (ctxOf u ctx.toNat).st = .free ∧ u.freeIds = s.freeIds ++ [ctx.toNat] ∧
      (∀ q, (ctxOf s ctx.toNat).destroySeq = some q → fnGet u (ctxOf s ctx.toNat).fn 0x20 = ctxResult q ctx.toNat 0) ∧ u.mem = s.mem ∧ ∀ i, i ≠ ctx.toNat → ctxOf u i = ctxOf s i) ∧
  (∀ s : State, swapWaiting s = { s with ctxs := (swapWaiting s).ctxs, swapping := (swapWaiting s).swapping, sent := (swapWaiting s).sent } ∧
    ∀ i, ctxOf (swapWaiting s) i = { ctxOf s i with resident := (ctxOf (swapWaiting s) i).resident }) ∧
  (∀ (s : State) (ctx : U16), (ctxOf s ctx.toNat).st ≠ .destroying → exec (.destroyEnd ctx) s = .next s) ∧
  (∀ (s : State) (fn seq cid code : Nat), fn < 32 → let t := ctxDecide s fn seq cid code
    fnGet t fn 0x20 = ctxResult seq cid code ∧ fnGet t fn 0x28 = 0 ∧ (fnOf t fn).cmd = none ∧ bitOf (fnGet t fn 0x80) 5 = true ∧ t = { s with fns := t.fns, fnRegs := t.fnRegs, sent := t.sent } ∧
    (code ≠ 0x0A01 → code ≠ 0x0A03 → code ≠ 0x0A04 → (fnOf t fn).lastCmdSeq = some seq ∧ (fnOf t fn).lastResult = ctxResult seq cid code) ∧
    (code = 0x0A01 ∨ code = 0x0A03 ∨ code = 0x0A04 → (fnOf t fn).lastCmdSeq = (fnOf s fn).lastCmdSeq))

/-- VF Enable makes VF1 to VFn appear while none is, and clearing it makes the functions disappear where they hold no context. A function-level reset of a function that can be reached and has no context returns its registers to their reset values, forgets its last CMD_SEQ and keeps its undelivered-completion store; one of a function that is absent, or before the minimal safe function, does nothing. Writing 1 to a bit of INT_STATUS clears that bit and no other. UC_HEAD and CR_HEAD move forward as far as what was written, and a write that would move them backward, past it, or names no context of the function is ignored and counted. A deferrable write that succeeds is delivered, and raises KEPT where it is an advance without poison that its context promised, and the waits on its word are due; one answered UR, CA, or a sixteenth retry, or not in 10 ms, fails and loses its context; an earlier retry waits 10 µs and is then sent again, and neither timer acts before its time. The shared message of a context's records goes out once on its vector, 1 µs after the last of them. -/
def Obligations.FunctionsAndDeliveries : Prop :=
  (∀ (s : State) (n : Fin 32), s.start.msf = true → 1 ≤ n.val → s.numVfs = 0 → ∃ t, exec (.vfEnableSet n) s = .next t ∧ t.numVfs = n.val ∧
    (∀ k, 1 ≤ k → k ≤ n.val → fnOf t k = { fnOf s k with enabled := true }) ∧ (∀ k, (k = 0 ∨ n.val < k) → fnOf t k = fnOf s k) ∧ t = { s with fns := t.fns, numVfs := t.numVfs }) ∧
  (∀ (s : State) (n : Fin 32), s.start.msf = true → (n.val = 0 ∨ s.numVfs ≠ 0) → exec (.vfEnableSet n) s = .next s) ∧
  (∀ s : State, s.start.msf = true → 1 ≤ s.numVfs → ∃ t, exec .vfEnableClear s = .next t ∧ t.numVfs = 0 ∧ ((∀ k, ctxsOf s k = []) → ∀ k, 1 ≤ k → k ≤ s.numVfs → (fnOf t k).enabled = false)) ∧
  (∀ s : State, s.start.msf = true → s.numVfs = 0 → exec .vfEnableClear s = .next s) ∧
  (∀ (s : State) (fn : Fn), fnUp s fn.val = true → ctxsOf s fn.val = [] → ∃ t, exec (.functionLevelReset fn) s = .next t ∧
    (fnOf t fn.val).lastCmdSeq = none ∧ (fnOf t fn.val).cmd = none ∧ (fnOf t fn.val).flr = false ∧ (fnOf t fn.val).updates = [] ∧
    (∀ o, o < 0x10000 → o ≠ 0xC0 → o ≠ 0xC4 → fnGet t fn.val o = fnRegDefault o) ∧ fnGet t fn.val 0xC0 = fnGet s fn.val 0xC0 ∧ fnGet t fn.val 0xC4 = fnGet s fn.val 0xC4 ∧
    (∀ g o, g ≠ fn.val → o < 0x10000 → fnGet t g o = fnGet s g o) ∧ t.ucRecs = s.ucRecs ∧ t.shells = s.shells ∧ t.mem = s.mem) ∧
  (∀ (s : State) (fn : Fn), fnUp s fn.val = false → exec (.functionLevelReset fn) s = .next s) ∧
  (∀ (s : State) (fn : Fn) (w : U64), fnUp s fn.val = true → ∃ t, exec (.intStatusWrite fn w) s = .next t ∧ t = { s with fnRegs := t.fnRegs } ∧
    (∀ c, c < 64 → bitOf (fnGet t fn.val 0x80) c = (bitOf (fnGet s fn.val 0x80) c && !bitOf w.toNat c)) ∧
    (∀ g o, (g ≠ fn.val ∨ o ≠ 0x80) → o < 0x10000 → fnGet t g o = fnGet s g o)) ∧
  (∀ (s : State) (fn : Fn) (w : U32), fnUp s fn.val = true →
    (serialDist (fnGet s fn.val 0xC0) w.toNat ≤ serialDist (fnGet s fn.val 0xC0) (fnGet s fn.val 0xC4) → ∃ t, exec (.ucHeadWrite fn w) s = .next t ∧ fnGet t fn.val 0xC0 = w.toNat ∧
      t = { s with fnRegs := t.fnRegs } ∧ ∀ g o, (g ≠ fn.val ∨ o ≠ 0xC0) → o < 0x10000 → fnGet t g o = fnGet s g o) ∧
    (serialDist (fnGet s fn.val 0xC0) (fnGet s fn.val 0xC4) < serialDist (fnGet s fn.val 0xC0) w.toNat → exec (.ucHeadWrite fn w) s = .next (pinc s P.fnConfigIgnored))) ∧
  (∀ (s : State) (fn : Fn) (w : U64), fnUp s fn.val = true →
    let cid := bitsOf w.toNat 31 16
    let c := ctxOf s cid
    let nh := c.crHead + serialDist (c.crHead % 2 ^ 32) (bitsOf w.toNat 63 32)
    ((c.st = .free ∨ c.fn ≠ fn.val ∨ c.crWritten < nh) → exec (.crHeadWrite fn w) s = .next (pinc s P.fnConfigIgnored)) ∧
    (c.st ≠ .free → c.fn = fn.val → nh ≤ c.crWritten → c.crWaiting = [] → c.cmds = [] → ∃ t, exec (.crHeadWrite fn w) s = .next t ∧ ctxOf t cid = { c with crHead := nh } ∧
      (∀ k, k ≠ cid → ctxOf t k = ctxOf s k) ∧ t = { s with ctxs := t.ctxs })) ∧
  (∀ (s : State) (id : Nat) (d : Dmwr), s.dmwr.find? (fun d => d.id == id && !d.waiting) = some d →
    let rest := { s with dmwr := s.dmwr.filter (fun x => x.id != id) }
    (d.fence = none → exec (.dmwrCompletion id .success) s = .next rest) ∧
    (d.fence ≠ none → d.own = false → exec (.dmwrCompletion id .success) s = .next (waitsDue rest (0x100000000000000 + d.addr))) ∧
    (∀ i v b, d.fence = some (i, v) → d.own = true → tget (fun _ => none) (ctxOf s d.ctx).fences i = some b → exec (.dmwrCompletion id .success) s =
      .next (waitsDue (keptRaise rest d.ctx i v) ((translate rest d.ctx b.va .atomic).getD b.ga))) ∧
    exec (.dmwrCompletion id .ur) s = .next (dmwrFail rest d 1) ∧ exec (.dmwrCompletion id .ca) s = .next (dmwrFail rest d 2) ∧
    (15 ≤ d.retries → exec (.dmwrCompletion id .retry) s = .next (dmwrFail rest d 4)) ∧
    (d.retries < 15 → ∃ t, exec (.dmwrCompletion id .retry) s = .next t ∧ t = { s with dmwr := t.dmwr } ∧
      t.dmwr = s.dmwr.map (fun x => if x.id = id then { x with retries := x.retries + 1, waiting := true, tb := s.tb } else x)) ∧
    (tbPast s.tb d.tb 10000000 = true → exec (.dmwrTimeout id) s = .next (dmwrFail rest d 3)) ∧ (tbPast s.tb d.tb 10000000 = false → exec (.dmwrTimeout id) s = .next s)) ∧
  (∀ (s : State) (id : Nat) (d : Dmwr), s.dmwr.find? (fun d => d.id == id && d.waiting) = some d → (tbPast s.tb d.tb 10000 = false → exec (.dmwrRetryTimer id) s = .next s) ∧ (tbPast s.tb d.tb 10000 = true → ∃ t, exec (.dmwrRetryTimer id) s = .next t ∧ t.sent = s.sent ++ [.hostDeferrable d.addr d.data] ∧
    t = { s with dmwr := t.dmwr, sent := t.sent } ∧ t.dmwr = s.dmwr.map (fun x => if x.id = id then { x with waiting := false, tb := s.tb } else x))) ∧
  (∀ (s : State) (cid i v : Nat) (b : FenceBind), tget (fun _ => none) (ctxOf s cid).fences i = some b → (v < 2 ^ 63 → (ctxOf (keptRaise s cid i v) cid) = { ctxOf s cid with fences := tset (fun _ => none) (ctxOf s cid).fences i (some { b with kept := max b.kept v }) } ∧
    keptRaise s cid i v = { s with ctxs := (keptRaise s cid i v).ctxs }) ∧ (2 ^ 63 ≤ v → keptRaise s cid i v = s)) ∧
  (∀ (s : State) (id : Nat), (∀ d ∈ s.dmwr, d.id ≠ id) → (∀ r, exec (.dmwrCompletion id r) s = .next s) ∧ exec (.dmwrRetryTimer id) s = .next s ∧ exec (.dmwrTimeout id) s = .next s) ∧
  (∀ (s : State) (ctx : U16), let c := ctxOf s ctx.toNat
    ((c.msgDue = false ∨ tbPast s.tb c.tbMsg 1000 = false) → exec (.completionMessageCoalesce ctx) s = .next s) ∧
    (c.msgDue = true → tbPast s.tb c.tbMsg 1000 = true → s.start.releasesStopped = false → bitOf (fnGet s c.fn (0x1000 + 16 * c.desc.crVector + 12)) 0 = false → ∃ t, exec (.completionMessageCoalesce ctx) s = .next t ∧
      t.sent = s.sent ++ [.msix c.fn c.desc.crVector] ∧ ctxOf t ctx.toNat = { c with msgDue := false } ∧ t = { s with ctxs := t.ctxs, sent := t.sent }))

/-- A tail that names no live context of the function, lies behind the last one, or would pass the ring is ignored and counted; an equal one has no effect; any other is the new tail, and moves nothing else of a resident context. A fetch of a ring in host memory asks for its slots. A fetched slot whose QUEUE_SEQ differs is read once more and counted, and a second mismatch is refused 0x0A21; a failed read is refused 0x0A24; a slot that fails a format check is refused with its code, and one that passes, or is a LAUNCH, joins the start order with HEAD one on. The merged write-back writes HEAD to HEAD_WB. A poll of an awaited word asks for it, once, and again after FENCE_POLL_US where no advance of this device tells of it; a page without an ATS translation is asked for first. When the word comes, one below the threshold leaves the command waiting, one at or above it meets the wait, a poisoned one retires the command DEP_POISONED unless it ignores poison, one that does not translate is refused 0x0A26, and a read that fails leaves the wait unmet. The second read of a slot comes 2 µs after the first, the write-back 1 µs after HEAD's last move, and neither the fetch nor they do anything once the front end has stopped. -/
def Obligations.QueueFront : Prop :=
  (∀ (s : State) (fn : Fn) (w : U64), fnUp s fn.val = true →
    let cid := bitsOf w.toNat 31 16
    let tail := bitsOf w.toNat 63 32
    let c := ctxOf s cid
    ((c.st ≠ .live ∨ c.fn ≠ fn.val ∨ pget s P.startStage ≠ 5) → exec (.hqTailWrite fn w) s = .next (pinc s P.hqTailIgnored)) ∧
    (c.st = .live → c.fn = fn.val → pget s P.startStage = 5 →
      (tail = c.tail → exec (.hqTailWrite fn w) s = .next s) ∧
      (tail ≠ c.tail → (serialCmp c.tail tail ≠ .newer ∨ 2 ^ c.desc.queueLog2 < serialDist c.head tail) → exec (.hqTailWrite fn w) s = .next (pinc s P.hqTailIgnored)) ∧
      (serialCmp c.tail tail = .newer → serialDist c.head tail ≤ 2 ^ c.desc.queueLog2 → ∃ t, exec (.hqTailWrite fn w) s = .next t ∧ (ctxOf t cid).tail = tail ∧
        t = { s with ctxs := t.ctxs, swapping := t.swapping, sent := t.sent } ∧ (c.resident = true → ctxOf t cid = { c with tail := tail } ∧ ∀ i, i ≠ cid → ctxOf t i = ctxOf s i)))) ∧
  (∀ (s : State) (ctx : U16) (b : Bytes),
    let cid := ctx.toNat
    let c := ctxOf s cid
    let on := { c with head := (c.head + 1) % 2 ^ 32, retrying := false }
    let q := parseSlot b c.head none
    let code := if q.opcode = 1 then 0 else slotCode c q {}
    let rs := ringAsk s c (min 16 (serialDist c.head c.tail))
    (c.st = .live → frontUp s = true → c.resident = true → c.retrying = false → c.head ≠ c.tail → serialDist c.head c.tail ≠ 0 → c.desc.queueLocal = false →
      exec (.queueFetchDone ctx false .failed) s = .next (cmdRefuse (ctxPut rs cid { c with head := (c.head + 1) % 2 ^ 32 }) cid { seq := c.head, opcode := 1 } 0x0A24) ∧
      (64 ≤ b.length → bitsOf (leNat (b.take 64)) 31 0 ≠ c.head → exec (.queueFetchDone ctx false (.data b)) s = .next (pinc (ctxPut rs cid { c with retrying := true, tbRetry := s.tb }) P.fetchRetries)) ∧
      (64 ≤ b.length → b.length < 128 → bitsOf (leNat (b.take 64)) 31 0 = c.head →
        (code ≠ 0 → exec (.queueFetchDone ctx false (.data b)) s = .next (cmdRefuse (ctxPut rs cid { on with headWbDue := true, tbWb := s.tb }) cid q code)) ∧
        (code = 0 → exec (.queueFetchDone ctx false (.data b)) s = .next (slotAccept (ctxPut rs cid { on with headWbDue := true, tbWb := s.tb }) cid q)))) ∧
    (c.retrying = true → exec (.queueFetchDone ctx false (.data b)) s = .next s) ∧
    (c.retrying = true → tbPast s.tb c.tbRetry 2000 = false → ∀ r, exec (.slotSeqRetry ctx r) s = .next s) ∧
    (c.st = .live → frontUp s = true → c.resident = true → c.retrying = true → tbPast s.tb c.tbRetry 2000 = true → c.desc.queueLocal = false →
      (c.head ≠ c.tail → bitsOf (leNat (b.take 64)) 31 0 ≠ c.head → exec (.slotSeqRetry ctx (.data b)) s = .next (cmdRefuse (ctxPut (ringAsk s c 1) cid on) cid q 0x0A21)) ∧
      (c.head ≠ c.tail → bitsOf (leNat (b.take 64)) 31 0 = c.head → code = 0 →
        exec (.slotSeqRetry ctx (.data b)) s = .next (slotAccept (ctxPut (ringAsk s c 1) cid { on with headWbDue := true, tbWb := s.tb }) cid q)) ∧
      exec (.slotSeqRetry ctx .failed) s = .next (cmdRefuse (ctxPut (ringAsk s c 1) cid on) cid { seq := c.head, opcode := 1 } 0x0A24)) ∧
    ((c.st ≠ .live ∨ c.retrying = false) → ∀ r, exec (.slotSeqRetry ctx r) s = .next s) ∧
    (c.st = .live → frontUp s = true → c.headWbDue = true → tbPast s.tb c.tbWb 1000 = true → ∃ t, exec (.headWbMerge ctx) s = .next t ∧ t.sent = s.sent ++ [.hostWrite c.desc.headWb (leBytes 8 c.head)] ∧
      ctxOf t cid = { c with headWbDue := false } ∧ t = { s with ctxs := t.ctxs, sent := t.sent }) ∧
    ((c.headWbDue = false ∨ tbPast s.tb c.tbWb 1000 = false) → exec (.headWbMerge ctx) s = .next s) ∧
    (frontUp s = false → (∀ b r, exec (.queueFetchDone ctx b r) s = .next s ∧ exec (.slotSeqRetry ctx r) s = .next s) ∧ exec (.headWbMerge ctx) s = .next s)) ∧
  (∀ (s : State) (c : Ctx) (n : Nat), ringAsk s c n = { s with sent := (ringAsk s c n).sent } ∧ (c.desc.queueLocal = false → 0 < n → ∃ l, (ringAsk s c n).sent = s.sent ++ l ∧ l ≠ [])) ∧
  (∀ (s : State) (ctx : U16) (q : QCmd) (rest : List QCmd) (r : ReadResult),
    let cid := ctx.toNat
    let c := ctxOf s cid
    let looked := fun (s : State) => ctxPut s cid { ctxOf s cid with cmds := ((ctxOf s cid).cmds.take 1).map (fun x => { x with polling := false }) ++ (ctxOf s cid).cmds.drop 1 }
    c.st = .live → c.cmds = q :: rest → q.waitEn = true → q.waitMet = false → q.phase = .validated → bufferOpen c q = false → frontUp s = true →
    (∀ f p, atsWanted s cid .read 2 q.waitAddr 8 = some (f, p) → (q.polling = true → exec (.waitReadDone ctx r) s = .next (emit s (.atsRequest f p))) ∧
      (q.polling = false → exec (.fenceWaitPoll ctx) s = .next (emit s (.atsRequest f p)))) ∧
    (q.polling = false → exec (.waitReadDone ctx r) s = .next s) ∧ (q.polling = true → exec (.fenceWaitPoll ctx) s = .next s) ∧
    (atsWanted s cid .read 2 q.waitAddr 8 = none → q.polling = true → ∀ u v, vaRead s false cid q.waitAddr 8 r = (u, v) →
      (v = .waits → exec (.waitReadDone ctx r) s = .next s) ∧
      ((ctxOf u cid).st = .live →
        (∀ b, v = .ok b → exec (.waitReadDone ctx r) s = .next (waitLook (looked u) cid (leNat b))) ∧
        (v = .fault → exec (.waitReadDone ctx r) s = .next (cmdRefuse u cid q 0x0A26)) ∧
        (∀ st, v = .refused st → exec (.waitReadDone ctx r) s = .next (looked u)))) ∧
    (atsWanted s cid .read 2 q.waitAddr 8 = none → q.polling = false →
      (translate s cid q.waitAddr .read = none → exec (.fenceWaitPoll ctx) s = .next (cmdRefuse s cid q 0x0A26)) ∧
      (∀ ga, translate s cid q.waitAddr .read = some ga →
        (q.tbPoll = none ∨ (∃ t, q.tbPoll = some t ∧ polledWord ga = true ∧ tbPast s.tb t (pget s P.fencePollUs * 1000) = true) → exec (.fenceWaitPoll ctx) s =
          .next (askRead (ctxPut s cid { c with cmds := { q with tbPoll := some s.tb, polling := true } :: rest }) (place s 2352 (vaShell s cid q.waitAddr) ga 8 (some cid)) 8)) ∧
        (∀ t, q.tbPoll = some t → polledWord ga = false ∨ tbPast s.tb t (pget s P.fencePollUs * 1000) = false → exec (.fenceWaitPoll ctx) s = .next s)))) ∧
  (∀ (s : State) (cid v : Nat) (q : QCmd) (rest : List QCmd), (ctxOf s cid).cmds = q :: rest →
    (v < q.waitThreshold → waitLook s cid v = s) ∧
    (q.waitThreshold ≤ v → (v < 2 ^ 63 ∨ q.ignorePoison = true) → waitLook s cid v = stampHead (ctxPut s cid { ctxOf s cid with cmds := { q with waitMet := true, tbMet := some s.tb } :: rest }) cid) ∧
    (q.waitThreshold ≤ v → 2 ^ 63 ≤ v → q.ignorePoison = false → (hasRecord q.opcode q.entry = true → ringRoom (ctxOf s cid) = true) →
      ∃ u x, takeHead (ctxPut s cid { ctxOf s cid with cmds := { q with tbMet := some s.tb } :: rest }) cid { q with tbMet := some s.tb } = (u, x) ∧ waitLook s cid v = cmdRetire u cid x 0x06)) ∧
  (∀ (s : State) (ctx : U16) (r : ReadResult), (ctxOf s ctx.toNat).cmds = [] → exec (.waitReadDone ctx r) s = .next s ∧ exec (.fenceWaitPoll ctx) s = .next s) ∧
  (∀ (s : State) (cid : Nat) (q : QCmd), q.opcode ≠ 1 → q.entry = none → (ctxOf s cid).cmds = [] → q.advEn = false →
    ∃ x, (ctxOf (slotAccept s cid q) cid).cmds = [x] ∧ x.seq = q.seq ∧ x.opcode = q.opcode ∧ x.phase = .validated ∧ x.timeoutMs = pget s P.cmdTimeoutMs ∧
      x.holdUs = pget s P.affinityHoldUs ∧ x.quantumMs = pget s P.preemptQuantumMs ∧ slotAccept s cid q = { s with ctxs := (slotAccept s cid q).ctxs })

/-- The head command of a context whose start conditions hold is taken out of the start order with its ring slot reserved: a NOP retires OK without a record; a CALL opens its buffer at entry 0 with its count; an ACCOUNT of a context of the function writes the 64-byte record and its result word 0, and of any other the code 0x0A2F. A LAUNCH asks once for its launch block, after the ATS translation of its page where that is wanted, which is refused 0x0A24 when it does not translate; when block and pins are read, a failed read again being 0x0A24, and pass their checks, it is validated with its timeout, hold and quantum, and otherwise refused with the first failing code. A startable LAUNCH goes to the shell that the masks and shells choose, and while none can take it nothing starts, but the range entries it pins may be read ahead. A head whose conditions do not hold stays: among them that the command before it has retired where AFTER_PREV asks that, and that a running CALL has no entries left to read. -/
def Obligations.CommandsStart : Prop :=
  (∀ (s : State) (ctx : U16) (q : QCmd) (rest : List QCmd),
    let cid := ctx.toNat
    let c := ctxOf s cid
    c.cmds = q :: rest → headReady c q = true → frontUp s = true →
    let u := (takeHead s cid q).1
    let k := (takeHead s cid q).2
    (q.opcode = 0 → exec (.cmdNop ctx) s = .next (stampHead (cmdRetire u cid k 0) cid)) ∧
    (q.opcode = 2 → ∃ t, exec (.cmdCall ctx) s = .next t ∧ t = { s with ctxs := t.ctxs } ∧ (ctxOf t cid).call = some { seq := q.seq, crSlot := c.crReserved, advEn := q.advEn, advIndex := q.advIndex, advValue := q.advValue, bufferVa := q.pl 511 461 * 64, count := q.pl 460 448 + 1 } ∧ (q.entry = none → (ctxOf t cid).crReserved = c.crReserved + 1) ∧ (ctxOf t cid).cmds.length = rest.length) ∧
    (q.opcode = 0x11 → ((ctxOf u (q.pl 447 432)).st = .free ∨ (ctxOf u (q.pl 447 432)).fn ≠ c.fn → exec (.cmdAccount ctx) s = .next (stampHead (privEnd u cid k 0x0A2F) cid)) ∧
      ((ctxOf u (q.pl 447 432)).st ≠ .free → (ctxOf u (q.pl 447 432)).fn = c.fn →
        exec (.cmdAccount ctx) s = .next (stampHead (privEnd (emit u (.hostWrite (q.pl 511 448) (accountBytes u (q.pl 447 432)))) cid k 0) cid)))) ∧
  (∀ (s : State) (ctx : U16) (q : QCmd) (rest : List QCmd), (ctxOf s ctx.toNat).cmds = q :: rest → (headReady (ctxOf s ctx.toNat) q = false ∨ frontUp s = false) →
    exec (.cmdNop ctx) s = .next s ∧ exec (.cmdCall ctx) s = .next s ∧ exec (.cmdAccount ctx) s = .next s) ∧
  (∀ (s : State) (cid : Nat) (q : QCmd) (rest : List QCmd), (ctxOf s cid).cmds = q :: rest →
    (ctxOf (takeHead s cid q).1 cid).cmds = rest ∧ (takeHead s cid q).2 = { q with crSlot := (ctxOf s cid).crReserved } ∧
    (ctxOf (takeHead s cid q).1 cid).crReserved = (ctxOf s cid).crReserved + (if hasRecord q.opcode q.entry then 1 else 0) ∧
    (ctxOf (takeHead s cid q).1 cid).started = (ctxOf s cid).started ++ [(q.seq, q.entry)] ∧ (takeHead s cid q).1 = { s with ctxs := (takeHead s cid q).1.ctxs } ∧ ∀ i, i ≠ cid → ctxOf (takeHead s cid q).1 i = ctxOf s i) ∧
  (∀ (c : Ctx) (q : QCmd), headReady c q = true → c.st = .live ∧ q.phase = .validated ∧ (q.waitEn = true → q.waitMet = true) ∧ (hasRecord q.opcode q.entry = true → ringRoom c = true) ∧
    (q.afterPrev = true → q.entry = none → ((q.seq + 0xFFFFFFFF) % 2 ^ 32, none) ∉ c.started) ∧ (∀ e, q.afterPrev = true → q.entry = some (e + 1) → (q.seq, some e) ∉ c.started) ∧
    (∀ k, q.entry = none → c.call = some k → k.next < k.count → k.failed ≠ [])) ∧
  (∀ (s : State) (cid : Nat) (q : QCmd) (code : Nat), code < 2 ^ 16 → s.start.entry = false → s.start.releasesStopped = false →
    privEnd s cid q code = cmdRetire (ctxPut (emit s (.hostWrite (bitsOf q.payload 63 0) (leBytes 8 (code + q.seq * 2 ^ 32)))) cid
      { ctxOf s cid with priv := (ctxOf s cid).priv.filter (fun p => p.cmd.seq != q.seq) }) cid q (if code = 0 then 0 else 4)) ∧
  (∀ (s : State) (ctx : U16) (q : QCmd), let cid := ctx.toNat
    let c := ctxOf s cid
    c.st = .live → frontUp s = true → c.cmds.find? (fun q => q.opcode == 1 && q.phase == .fetched) = some q →
    (∀ f p, atsWanted s cid .read 2 (q.pl 511 461 * 64) 64 = some (f, p) → exec (.cmdLaunch ctx) s = .next (emit s (.atsRequest f p))) ∧
    (atsWanted s cid .read 2 (q.pl 511 461 * 64) 64 = none →
    (translate s cid (q.pl 511 461 * 64) .read = none → exec (.cmdLaunch ctx) s = .next (cmdRefuse s cid q 0x0A24)) ∧
    (∀ ga, translate s cid (q.pl 511 461 * 64) .read = some ga → exec (.cmdLaunch ctx) s = .next (askRead (ctxPut s cid { c with
      cmds := c.cmds.map (fun x => if x.seq = q.seq ∧ x.entry = q.entry then { x with phase := .blockRead } else x) }) (place s 2352 (vaShell s cid (q.pl 511 461 * 64)) ga 64 (some cid)) 64)))) ∧
  (∀ (s : State) (ctx : U16), (ctxOf s ctx.toNat).cmds.find? (fun q => q.opcode == 1 && q.phase == .fetched) = none → exec (.cmdLaunch ctx) s = .next s) ∧
  (∀ (s : State) (ctx : U16) (q : QCmd) (block pins : ReadResult), let cid := ctx.toNat
    let c := ctxOf s cid
    c.st = .live → frontUp s = true → c.cmds.find? (fun q => q.opcode == 1 && q.phase == .blockRead) = some q → atsWanted s cid .read 2 (q.pl 511 461 * 64) 64 = none →
    ∀ u v, vaRead s false cid (q.pl 511 461 * 64) 64 block = (u, v) →
    (v = .waits → exec (.launchBlockReadDone ctx block pins) s = .next s) ∧
    ((v = .fault ∨ ∃ st, v = .refused st) → exec (.launchBlockReadDone ctx block pins) s = .next (if (ctxOf u cid).st = .live then cmdRefuse u cid q 0x0A24 else u)) ∧
    (∀ b, v = .ok b → ((ctxOf u cid).st ≠ .live → exec (.launchBlockReadDone ctx block pins) s = .next u) ∧
      ((ctxOf u cid).st = .live → let l := parseLaunch b (q.pl 319 288)
        let n := if l.pinList % 8 ≠ 0 then 0 else l.pinCount
        (n = 0 → exec (.launchBlockReadDone ctx block pins) s = .next (launchDecide u cid q { l with pins := [] })) ∧
        (∀ w x, atsWanted s cid .read (8 * n / 4096 + 2) l.pinList (8 * n) = none → vaRead u true cid l.pinList (8 * n) pins = (w, x) → (ctxOf w cid).st = .live →
          ((x = .fault ∨ ∃ st, x = .refused st) → exec (.launchBlockReadDone ctx block pins) s = .next (cmdRefuse w cid q 0x0A24)) ∧
          (∀ pb, x = .ok pb → exec (.launchBlockReadDone ctx block pins) s = .next (launchDecide w cid q { l with
            pins := (leWords 8 n pb).map (fun y => (bitsOf y 63 32 + (if bitsOf y 31 12 = 0 then 0 else 2 ^ 32), bitsOf y 11 0)) })))))) ∧
  (∀ (s : State) (cid : Nat) (q : QCmd) (l : Launch), let c := ctxOf s cid
    (launchCode s c q l ≠ 0 → launchDecide s cid q l = cmdRefuse s cid q (launchCode s c q l)) ∧
    (launchCode s c q l = 0 → q.advEn = false → launchDecide s cid q l = stampHead (ctxPut s cid { c with
      cmds := c.cmds.map (fun x => if x.seq = q.seq ∧ x.entry = q.entry then { q with
        phase := .validated, launch := l, timeoutMs := if q.pl 287 268 = 0 then pget s P.cmdTimeoutMs else q.pl 287 268
        holdUs := pget s P.affinityHoldUs, quantumMs := pget s P.preemptQuantumMs } else x) }) cid)) ∧
  (∀ (s : State) (ctx : U16), (ctxOf s ctx.toNat).cmds.find? (fun q => q.opcode == 1 && q.phase == .blockRead) = none → ∀ b p, exec (.launchBlockReadDone ctx b p) s = .next s) ∧
  (∀ (s : State) (ctx : U16) (q l : QCmd) (rest : List QCmd), let u := stampHead (selectAll (swapWaiting s) (shellsHolding (swapWaiting s))) ctx.toNat
    (ctxOf u ctx.toNat).cmds = q :: rest → q.opcode = 1 → frontUp u = true →
    (startableLaunch (ctxOf u ctx.toNat) = none → exec (.commandStart ctx) s = .next u) ∧
    (startableLaunch (ctxOf u ctx.toNat) = some l → (pickShell u ctx.toNat l.launch = none → exec (.commandStart ctx) s =
        .next (((List.range 32).filter (fun i => bitOf l.launch.mask i)).foldl nextWarm u)) ∧
      ∀ sl, pickShell u ctx.toNat l.launch = some sl → exec (.commandStart ctx) s = .next (shellSelect u sl))) ∧
  (∀ (s : State) (sl : Nat), nextWarm s sl = { s with rangeCaches := (nextWarm s sl).rangeCaches }) ∧
  (∀ (s : State) (cid : Nat) (q : QCmd) (sl : Nat), s.start.hold = false → frontUp s = true → shellCanTake (shellOf s sl) = true → startableLaunch (ctxOf s cid) = some q → pickShell s cid q.launch = some sl →
    (∃ k, pickCand s sl = some k ∧ k.ctx = cid ∧ k.preempted = false) → shellSelect s sl = launchOn s cid q sl)

/-- The prefill of a seat of a loading job whose source translates writes its bytes at PREFILL_OFFSET of the seat; one that meets a resolvable fault records it for its context, and one that meets any other, or whose read or write is refused, makes the job FAULTED. While a LAUNCH of higher priority is startable, a running job that has run its quantum latches a pre-emption at the catch number after the highest reached when an image slot fits, and is counted when none does. PREEMPT_CTL acts at full function alone: := 1 is refused 0x0114 while a commit is checked, 0x0101 on a FREE slot and 0x0102 on one RESETTING or RELEASING; otherwise it holds the shell and latches its running job when the image area fits one, and PREEMPT_CTL := 2 lifts the hold. At the end of a save, once every seat has drained, the job is pre-empted in the image slot taken when the save began, counted, a latched freeze is entered, and the shell takes its next job; at the end of a restore it runs again with its time off its seats added. A timeout of the job on a shell, or of a head command with an unmet wait, acts only once its time has passed, of which a pre-empted job's off-seat time counts only while it cannot be restored: it is counted, in its context's account too, files a hung record with the seats found waiting and loses the context; a pre-empted job is then stopped with status TIMEOUT. At the end of the release hold, 2 µs after the last end, the shell is free of the job and its record is delivered with the status decided then, SUSPECT when the latch is raised. -/
def Obligations.JobsOnShells : Prop :=
  (∀ (s : State) (n : Slot) (l : U16) (r : ReadResult) (j : Job), (shellOf s n.val).job = some j → j.phase = .loading → l.toNat < (shellOf s n.val).rig.seats.length →
    remoteBusy (shellOf s n.val) = false → j.prefilled.contains l.toNat = false → (shellOf s n.val).scrubbing.contains ((shellOf s n.val).rig.seats.getD l.toNat 0) = false → j.launch.prefillBytes ≠ 0 →
    let stop := spanStop s j.ctx j.launch.pins (j.launch.prefillBytes / 4096 + 2) (j.launch.prefillSrc + l.toNat * j.launch.prefillStride) j.launch.prefillBytes
    (∀ reason a va, stop = some (.fault reason a va) → (4 < reason → exec (.prefillDone n l r) s = .next (jobFault s n.val 2 (reason * 2 ^ 24))) ∧
      (reason ≤ 4 → exec (.prefillDone n l r) s = .next (prefillFault (if reason = 4 then atsForget s j.ctx va else s) n.val l.toNat j.ctx va reason))) ∧
    (∀ f p va, stop = some (.ats f p va) → exec (.prefillDone n l r) s = .next (emit s (.atsRequest f p))) ∧
    (stop = none → ∀ s0 x, vaRead s true j.ctx (j.launch.prefillSrc + l.toNat * j.launch.prefillStride) j.launch.prefillBytes r = (s0, x) →
      (x = .waits → exec (.prefillDone n l r) s = .next s) ∧
      (x = .fault → exec (.prefillDone n l r) s = .next (jobFault s0 n.val 2 (0x01 * 2 ^ 24))) ∧
      (∀ st, x = .refused st → exec (.prefillDone n l r) s = .next (jobFault s0 n.val 2 ((0x20 + st) * 2 ^ 24))) ∧
      (∀ b, x = .ok b → (shellOf s0 n.val).job = some j →
        let st := lseatStatus s0 n.val (shellOf s n.val).windows l.toNat (32 * j.launch.prefillOffset) b.length
        let t := lseatWrite s0 n.val none .agent l.toNat (32 * j.launch.prefillOffset) b
        (st ≠ stOk → exec (.prefillDone n l r) s = .next (jobFault s0 n.val 2 ((0x20 + st) * 2 ^ 24))) ∧
        (st = stOk → exec (.prefillDone n l r) s = .next (jobTryStart (shellPut t n.val
          { shellOf t n.val with job := some { j with prefilled := sAdd j.prefilled l.toNat } }) n.val))))) ∧
  (∀ (s : State) (n : Slot) (l : U16) (r : ReadResult), (∀ j, (shellOf s n.val).job = some j → j.phase ≠ .loading) → exec (.prefillDone n l r) s = .next s) ∧
  (∀ (s : State) (n : Slot) (j : Job), (shellOf s n.val).job = some j → j.phase = .running → (shellOf s n.val).preemptAt = none → (shellOf s n.val).freezeLatch = false →
    let quantum := tbPast (j.runNs + (s.tb - j.tbSpan)) 0 (j.quantumMs * 1000000)
    (quantum = true → (shellCands s n.val).any (fun k => !k.preempted && k.prio > j.priority) = true →
      (freeImageSlot s n.val = none → exec (.preemptQuantumExpiry n) s = .next (pinc s P.preemptNoArea)) ∧
      (freeImageSlot s n.val ≠ none → exec (.preemptQuantumExpiry n) s = .next (preemptTry (preemptLatch s n.val) n.val))) ∧
    ((quantum = false ∨ (shellCands s n.val).any (fun k => !k.preempted && k.prio > j.priority) = false) → exec (.preemptQuantumExpiry n) s = .next s)) ∧
  (∀ (s : State) (n : Nat), (shellOf (preemptLatch s n) n).preemptAt = some (maxCatch s n + 1) ∧ preemptLatch s n = { s with shells := (preemptLatch s n).shells }) ∧
  (∀ (s : State) (n : Slot),
    (pget s (P.rigStatus n.val) = 1 → preemptCtlWrite s n.val 1 = (s, 0x0114) ∧ preemptCtlWrite s n.val 2 = (s, 0x0114)) ∧
    (pget s (P.rigStatus n.val) ≠ 1 → (shellOf s n.val).st = .free → preemptCtlWrite s n.val 1 = (s, 0x0101) ∧ preemptCtlWrite s n.val 2 = (s, 0x0101)) ∧
    (pget s (P.rigStatus n.val) ≠ 1 → ((shellOf s n.val).st = .resetting ∨ (shellOf s n.val).st = .releasing) → preemptCtlWrite s n.val 1 = (s, 0x0102) ∧ preemptCtlWrite s n.val 2 = (s, 0x0102)) ∧
    (fullUp s = true → exec (.preemptCtlPreempt n) s = .next (preemptCtlWrite s n.val 1).1 ∧ exec (.preemptCtlLift n) s = .next (preemptCtlWrite s n.val 2).1) ∧
    (fullUp s = false → exec (.preemptCtlPreempt n) s = .next s ∧ exec (.preemptCtlLift n) s = .next s) ∧
    (fullUp s = true → pget s (P.rigStatus n.val) ≠ 1 → (shellOf s n.val).st ≠ .free → (shellOf s n.val).st ≠ .resetting → (shellOf s n.val).st ≠ .releasing →
      let held := shellPut s n.val { shellOf s n.val with preemptHold := true }
      ((shellOf s n.val).job = none → exec (.preemptCtlPreempt n) s = .next (pset held (P.preemptCtl n.val) 1)) ∧
      (∀ j, (shellOf s n.val).job = some j → j.phase = .running → (shellOf s n.val).preemptAt = none → imageFits s n.val = true → (shellOf s n.val).freezeLatch = false →
        exec (.preemptCtlPreempt n) s = .next (preemptTry (preemptLatch (pset held (P.preemptCtl n.val) 1) n.val) n.val)) ∧
      exec (.preemptCtlLift n) s = .next (shellSelect (pset (shellPut s n.val { shellOf s n.val with preemptHold := false }) (P.preemptCtl n.val) 2) n.val))) ∧
  (∀ (s : State) (n : Slot) (j : Job) (k : Nat), (shellOf s n.val).job = some j → j.phase = .saving → remoteBusy (shellOf s n.val) = false → j.imageSlot = k →
    let s0 := (shellOf s n.val).rig.seats.foldl seatFlush s
    let v := imageSave s0 n.val k (jobSection s0 n.val)
    ((shellOf s n.val).rig.seats.all (fun i => seatDrained (seatOf s i)) = false → exec (.preemptSaveDone n) s = .next s) ∧
    ((shellOf s n.val).rig.seats.all (fun i => seatDrained (seatOf s i)) = true → ∃ u, exec (.preemptSaveDone n) s = .next (shellSelect (jobLeave u n.val) n.val) ∧ (shellOf u n.val).job = none ∧ (shellOf u n.val).lastCtx = some j.ctx ∧ (shellOf u n.val).preemptAt = none ∧
      (∃ p, (shellOf u n.val).preempted = (shellOf v n.val).preempted ++ [p] ∧ p.ctx = j.ctx ∧ p.seq = j.seq ∧ p.phase = .preempted ∧ p.imageSlot = k ∧ p.imageSeats = shellSeats (shellOf s n.val)) ∧
      pget u P.preemptions = satInc32 (pget v P.preemptions) ∧ imageOf u (imageKey n.val k) = imageOf v (imageKey n.val k))) ∧
  (∀ (s : State) (n : Slot) (j : Job), (shellOf s n.val).job = some j → j.phase = .restoring → remoteBusy (shellOf s n.val) = false →
    let u := windowsLocal (imageRestore (latchesRebase s n.val (maxCatch s n.val)) n.val j.imageSlot j.ended) n.val
    exec (.preemptRestoreDone n) s = .next (shellPut u n.val { shellOf u n.val with job := some { j with phase := .running, offNs := j.offNs + (s.tb - j.tbSpan), tbSpan := s.tb } })) ∧
  (∀ (s : State) (n : Slot) (j : Job), (shellOf s n.val).job = some j → (j.phase ≠ .saving → exec (.preemptSaveDone n) s = .next s) ∧ (j.phase ≠ .restoring → exec (.preemptRestoreDone n) s = .next s) ∧
    (j.phase ≠ .holding → exec (.releaseHoldExpiry n) s = .next s)) ∧
  (∀ (s : State) (ctx : U16), ((ctxOf s ctx.toNat).st ≠ .live ∨ frontUp s = false) → ∀ o, exec (.cmdTimeoutExpiry ctx o) s = .next s) ∧
  (∀ (s : State) (ctx : U16) (n : Slot) (j : Job), (ctxOf s ctx.toNat).st = .live → frontUp s = true → (shellOf s n.val).job = some j → j.ctx = ctx.toNat →
    let e : ErrRec := { kind := 0x0A, mechanism := 13, scope := 3, shell := n.val, fn := (ctxOf s ctx.toNat).fn, ctx := some ctx.toNat, qseq := j.seq, detail0 := (Config.freeWord s.freeCtr).toNat, detail1 := hungCatch s n.val, code := 3, waits := waitingSeats s n.val }
    let t := ctxLoss (fileError (timeoutCount (freeNext s) ctx.toNat) false e) ctx.toNat (some (n.val, 3, 0)) false
    (tbPast (jobTimed s j) 0 (j.timeoutMs * 1000000) = false → exec (.cmdTimeoutExpiry ctx (some n)) s = .next s) ∧
    (tbPast (jobTimed s j) 0 (j.timeoutMs * 1000000) = true → exec (.cmdTimeoutExpiry ctx (some n)) s = .next (selectAll t (shellsHolding t)))) ∧
  (∀ (s : State) (ctx : U16) (n : Slot) (j : Job), (ctxOf s ctx.toNat).st = .live → frontUp s = true → (∀ x, (shellOf s n.val).job = some x → x.ctx ≠ ctx.toNat) →
    (shellOf s n.val).preempted.find? (fun x => x.ctx == ctx.toNat && !restorable (shellOf s n.val) x) = some j →
    (tbPast (jobTimed s j) 0 (j.timeoutMs * 1000000) = false → exec (.cmdTimeoutExpiry ctx (some n)) s = .next s) ∧
    (tbPast (jobTimed s j) 0 (j.timeoutMs * 1000000) = true → ∃ u t, exec (.cmdTimeoutExpiry ctx (some n)) s = .next (selectAll t (shellsHolding t)) ∧ t = ctxLoss u ctx.toNat none false ∧
      ∀ x ∈ (shellOf u n.val).preempted, x.imageSlot = j.imageSlot → x.stop ≠ none)) ∧
  (∀ (s : State) (ctx : U16) (q : QCmd) (rest : List QCmd), (ctxOf s ctx.toNat).st = .live → frontUp s = true → (ctxOf s ctx.toNat).cmds = q :: rest →
    let cid := ctx.toNat
    let e : ErrRec := { kind := 0x0A, mechanism := 13, scope := 3, fn := (ctxOf s cid).fn, ctx := some cid, qseq := q.seq, detail0 := q.waitAddr, detail1 := q.waitThreshold, code := 3 }
    let late := tbPast s.tb (q.tbHead.getD s.tb) (q.timeoutMs * 1000000)
    ((q.waitEn = false ∨ q.waitMet = true ∨ q.phase ≠ .validated ∨ bufferOpen (ctxOf s cid) q = true ∨ late = false) → exec (.cmdTimeoutExpiry ctx none) s = .next s) ∧
    (q.waitEn = true → q.waitMet = false → q.phase = .validated → bufferOpen (ctxOf s cid) q = false → late = true →
      exec (.cmdTimeoutExpiry ctx none) s = .next (ctxLoss (retireUnstarted (fileError (timeoutCount s cid) false e) cid q 3).1 cid none false))) ∧
  (∀ (s : State) (cid : Nat), pget (timeoutCount s cid) P.cmdTimeouts = satInc32 (pget s P.cmdTimeouts) ∧ (ctxOf (timeoutCount s cid) cid).acct.timeouts = (ctxOf s cid).acct.timeouts + 1) ∧
  (∀ (s : State) (j : Job), j.phase = .preempted → jobTimed s j = j.runNs + j.heldNs + (match j.tbHeld with | some t => s.tb - t | none => 0)) ∧
  (∀ (s : State) (n : Slot) (j : Job), (shellOf s n.val).job = some j → j.phase = .holding → wakeRoom s n.val = true → frontUp s = true →
    (tbPast s.tb j.tbEnd 2000 = false → exec (.releaseHoldExpiry n) s = .next s) ∧
    (tbPast s.tb j.tbEnd 2000 = true → exec (.releaseHoldExpiry n) s = .next (swapWaiting (shellSelect (stampHead (jobDeliver (jobLeave (shellPut s n.val { shellOf s n.val with job := none, lastCtx := some j.ctx, preemptAt := none }) n.val) n.val j) j.ctx) n.val)))) ∧
  (∀ (s : State) (n : Nat) (j : Job), (shellOf s n).latch = true →
    let i : RecInfo := { seq := j.seq, status := 1, detail := 0, shell := n, summary := j.summary, energyMj := j.energyUj / 1000, tbDone := s.tb }
    let r := retireAny (wakeAppend s n (jobWake s n j 1)) j.ctx j.entryIdx j.crSlot i true j.advEn j.advIndex j.advValue
    (jobRetire s n j).2 = r.2 ∧ (jobRetire s n j).1.sent = r.1.sent)

/-- A context whose fetched entries all pass becomes resident and is counted; one with an entry that fails is lost with the cause recorded. SEQ_SLOT with operation 2 releases a slot the context holds and refuses any other 0x0A2D; a write within the quota, to a slot no other context holds, reads its 32-byte record, and a record that passes its checks is the slot's with the result word 0, one that does not is refused 0x0A2E; a read of it that fails is refused with a code that is a free nonzero value (log 41). WKEY_LOAD makes its slot LOADING and reads 1,792 bytes; reserved fields are refused 0x0701 and a LOADING slot 0x0702. A read that fails ends it with 0x0703, a blob that fails a check with that check's code, and each failure leaves the content as before; a blob that passes is LOADED with its fields and filed in the Wake. WKEY_CLEAR empties the named slot, or all, unless one of them is loading. -/
def Obligations.SlotsAndKeys : Prop :=
  (∀ (s : State) (ctx : U16) (l : List ReadResult),
    let cid := ctx.toNat
    let s0 := { s with swapping := sDel s.swapping cid }
    let c := ctxOf s cid
    let r := swapEntries cid ((c.entries.filter (fun e => entKind e.2.entry != 0)).map (·.1)) l s0
    (s.swapping.contains cid = false → exec (.contextSwapInDone ctx l) s = .next s) ∧
    (s.swapping.contains cid = true → c.st ≠ .live → exec (.contextSwapInDone ctx l) s = .next s0) ∧
    (s.swapping.contains cid = true → c.st = .live →
      (r.2 = 0 → exec (.contextSwapInDone ctx l) s = .next (swapWaiting (pinc (ctxPut r.1 cid { ctxOf r.1 cid with resident := true }) P.contextSwaps))) ∧
      (r.2 ≠ 0 → exec (.contextSwapInDone ctx l) s = .next (ctxLoss (ctxPut r.1 cid { ctxOf r.1 cid with feRefusal := some (c.head, r.2) }) cid none false)))) ∧
  (∀ (s : State) (cid idx e : Nat) (b : Bytes), e = leNat (b.take 32) →
    let x := slotOf (ctxOf s cid) idx
    let g := x.lastInstalled.getD 0
    swapEntry s cid idx .failed = (s, 0x0307) ∧ (serialCmp g (entGen e) = .older → swapEntry s cid idx (.data b) = (s, 0x0304)) ∧ (serialCmp g (entGen e) = .outside → swapEntry s cid idx (.data b) = (s, 0x0305)) ∧
    ((serialCmp g (entGen e) = .equal ∨ serialCmp g (entGen e) = .newer) → swapEntry s cid idx (.data b) =
      if entryCode s cid idx (entGen e) e = 0 then (entryForce s cid idx e x, 0) else (s, entryCode s cid idx (entGen e) e))) ∧
  (∀ (s : State) (ctx : U16), (frontUp s = false ∨ (ctxOf s ctx.toNat).cmds = []) → exec (.cmdSeqSlot ctx) s = .next s ∧ exec (.cmdWkeyClear ctx) s = .next s ∧ exec (.cmdWkeyLoad ctx) s = .next s) ∧
  (∀ (s : State) (ctx : U16) (q : QCmd) (rest : List QCmd), (ctxOf s ctx.toNat).cmds = q :: rest → headReady (ctxOf s ctx.toNat) q = true → frontUp s = true →
    let cid := ctx.toNat
    let u := (takeHead s cid q).1
    let h := (takeHead s cid q).2
    (q.opcode = 0x10 → let k := q.pl 447 436
      (q.pl 435 432 = 2 → (∀ r, tfind s.seqSlots k = some r → seqOwner r = cid → exec (.cmdSeqSlot ctx) s = .next (stampHead (privEnd { u with seqSlots := tdel s.seqSlots k } cid h 0) cid)) ∧
        ((∀ r, tfind s.seqSlots k = some r → seqOwner r ≠ cid) → exec (.cmdSeqSlot ctx) s = .next (stampHead (privEnd u cid h 0x0A2D) cid))) ∧
      (q.pl 435 432 ≠ 2 → (seqWriteCode u cid k ≠ 0 → exec (.cmdSeqSlot ctx) s = .next (stampHead (privEnd u cid h (seqWriteCode u cid k)) cid)) ∧
        (seqWriteCode u cid k = 0 → exec (.cmdSeqSlot ctx) s = .next (stampHead (emit (privBegin u cid h) (.hostRead (q.pl 511 448) 32)) cid)))) ∧
    (q.opcode = 0x14 → let k := q.pl 447 442
      ((q.pl 441 320 ≠ 0 ∨ q.pl 511 448 % 64 ≠ 0 ∨ q.pl 319 256 % 8 ≠ 0) → exec (.cmdWkeyLoad ctx) s = .next (stampHead (wkeyFail u cid h 0x0701) cid)) ∧
      (q.pl 441 320 = 0 → q.pl 511 448 % 64 = 0 → q.pl 319 256 % 8 = 0 →
        ((wkeyOf s cid k).st = .loading → exec (.cmdWkeyLoad ctx) s = .next (stampHead (wkeyFail u cid h 0x0702) cid)) ∧
        ((wkeyOf s cid k).st ≠ .loading → exec (.cmdWkeyLoad ctx) s = .next (stampHead (emit (privBegin (wkeyPut u cid k { wkeyOf u cid k with st := .loading, blob := q.pl 511 448 }) cid h)
          (.hostRead (q.pl 511 448) 1792)) cid)))) ∧
    (q.opcode = 0x15 → (q.pl 511 448 ≠ 0 ∨ q.pl 440 320 ≠ 0 ∨ q.pl 319 256 % 8 ≠ 0) → exec (.cmdWkeyClear ctx) s = .next (stampHead (privEnd u cid h 0x0701) cid)) ∧
    (q.opcode = 0x15 → q.pl 511 448 = 0 → q.pl 440 320 = 0 → q.pl 319 256 % 8 = 0 → let k := q.pl 447 442
      let all := q.pl 441 441 = 1
      ((∃ w ∈ (ctxOf s cid).wkeys, (all ∨ w.1 = k) ∧ w.2.st = .loading) → exec (.cmdWkeyClear ctx) s = .next (stampHead (privEnd u cid h 0x0702) cid)) ∧
      ((∀ w ∈ (ctxOf s cid).wkeys, (all ∨ w.1 = k) → w.2.st ≠ .loading) → ∃ v, exec (.cmdWkeyClear ctx) s = .next (stampHead (privEnd v cid h 0) cid) ∧
        (∀ i, (all ∨ i = k) → wkeyOf v cid i = {}) ∧ (∀ i, ¬ all → i ≠ k → wkeyOf v cid i = wkeyOf s cid i) ∧ v = { s with ctxs := v.ctxs }))) ∧
  (∀ (s : State) (ctx : U16) (seq : U32) (r : ReadResult), (privFind s ctx.toNat 0x10 seq.toNat = none → exec (.seqSlotRecordReadDone ctx seq r) s = .next s) ∧
    (privFind s ctx.toNat 0x14 seq.toNat = none → exec (.wkeyBlobReadDone ctx seq r) s = .next s)) ∧
  (∀ (s : State) (ctx : U16) (seq : U32) (q : QCmd) (b : Bytes), let cid := ctx.toNat
    let k := q.pl 447 436
    privFind s cid 0x10 seq.toNat = some q → 32 ≤ b.length →
    (seqWriteCode s cid k = 0 → exec (.seqSlotRecordReadDone ctx seq .failed) s = .next (privEnd (freeNext s) cid q (1 + (Config.freeWord s.freeCtr).toNat % 0xFFFF))) ∧
    (seqWriteCode s cid k ≠ 0 → exec (.seqSlotRecordReadDone ctx seq (.data b)) s = .next (privEnd s cid q (seqWriteCode s cid k))) ∧
    (seqWriteCode s cid k = 0 → seqFieldBad cid (leNat (b.take 32)) = true → exec (.seqSlotRecordReadDone ctx seq (.data b)) s = .next (privEnd s cid q 0x0A2E)) ∧
    (seqWriteCode s cid k = 0 → seqFieldBad cid (leNat (b.take 32)) = false →
      exec (.seqSlotRecordReadDone ctx seq (.data b)) s = .next (privEnd { s with seqSlots := tins (tdel s.seqSlots k) k (leNat (b.take 32)) } cid q 0))) ∧
  (∀ (s : State) (ctx : U16) (seq : U32) (q : QCmd) (b : Bytes), let cid := ctx.toNat
    let k := q.pl 447 442
    let w := wkeyOf s cid k
    let back := wkeyPut s cid k { w with st := if w.key = [] then .empty else .loaded, blob := 0 }
    privFind s cid 0x14 seq.toNat = some q →
    exec (.wkeyBlobReadDone ctx seq .failed) s = .next (wkeyFail back cid q 0x0703) ∧
    (∀ code, blobKey s (ctxOf s cid).fn b = .inr code → exec (.wkeyBlobReadDone ctx seq (.data b)) s = .next (wkeyFail back cid q code)) ∧
    (∀ key, blobKey s (ctxOf s cid).fn b = .inl key →
      ∃ v, exec (.wkeyBlobReadDone ctx seq (.data b)) s = .next (privEnd v cid q 0) ∧ (wkeyOf v cid k).st = .loaded ∧ (wkeyOf v cid k).shell = field b 6 1 ∧ (wkeyOf v cid k).baseVa = field b 8 8 ∧
        (wkeyOf v cid k).key = padTo 32 key ∧ pget v P.wkeyLoads = satInc32 (pget s P.wkeyLoads) ∧ (wakeOf v (field b 6 1)).pending.length = (wakeOf s (field b 6 1)).pending.length + 1))

/-- A write through BAR2 of a function that is not presented does nothing; one that reaches no bound slot of the function is discarded and counted. One that reaches a slot keeps its record bytes in the staging record and counts what lies past the record; a write of the record's last byte commits it with the present RECORD_SEQ, which rises by one: with no job of the context it is answered NOT_RUNNING, with the area full it is answered OVERRUN and counted, and otherwise it is outstanding and delivered. When the egress has read the area the oldest outstanding record is answered OK, or SUSPECT while the shell's latch is raised, at once or at the end of the gate's hold of 2,000 ns; a read that is refused is no answer and leaves it outstanding (the model's choice, log 73). A bind that passes its checks makes the slot BOUND with its fields, a zero staging record and RECORD_SEQ 0, and one that fails leaves it as it was and answers the code; an unbind begins the forced abort, whose end answers what is outstanding ABORTED, leaves the slot UNBOUND and answers the unbind. -/
def Obligations.Sprint : Prop :=
  (∀ (s : State) (fn : Fn) (o : BitVec 22) (d : Bytes), fnUp s fn.val = false → exec (.sprintWindowWrite fn o d) s = .next s) ∧
  (∀ (s : State) (fn : Fn) (o : BitVec 22) (d : Bytes), fnUp s fn.val = true →
    let n := o.toNat / 0x1000
    let k := o.toNat % 0x1000
    let p := sprintOf s n
    ((1024 ≤ n ∨ p.st ≠ .bound ∨ p.fn ≠ fn.val) → exec (.sprintWindowWrite fn o d) s = .next (pinc s P.sprWritesDiscarded)) ∧
    (n < 1024 → p.st = .bound → p.fn = fn.val → 0 < p.recordBytes → ∃ u, ((∀ i, tget (fun _ => 0) (sprintOf u n).staging i =
        if k ≤ i ∧ i < k + d.length ∧ i < p.recordBytes then d.getD (i - k) 0 else tget (fun _ => 0) p.staging i) ∧
      sprintOf u n = { p with staging := (sprintOf u n).staging } ∧ (∀ j, j ≠ n → sprintOf u j = sprintOf s j) ∧ u = { s with sprints := u.sprints, regs := u.regs } ∧
      (k + d.length ≤ p.recordBytes → u.regs = s.regs) ∧ (p.recordBytes < k + d.length → pget u P.sprWritesDiscarded = satInc32 (pget s P.sprWritesDiscarded))) ∧
      exec (.sprintWindowWrite fn o d) s = .next (if k ≤ p.recordBytes - 1 ∧ p.recordBytes - 1 < k + d.length then sprintCommit u n else u))) ∧
  (∀ (s : State) (n : Nat), let p := sprintOf s n
    let u := sprintPut s n { p with recordSeq := (p.recordSeq + 1) % 2 ^ 32 }
    (sprintRunning s p.shell p.ctx = false → sprintCommit s n = sprintAnswerZero u n p.recordSeq 0x81) ∧
    (sprintRunning s p.shell p.ctx = true → p.depth ≤ p.outstanding.length → sprintCommit s n = sprintAnswerZero (pinc u P.sprOverruns) n p.recordSeq 0x80) ∧
    (∀ seat, sprintRunning s p.shell p.ctx = true → p.outstanding.length < p.depth → ctxWindows s p.shell p.ctx = .here → (shellOf s p.shell).holds.contains p.lseat = false → (shellOf s p.shell).held = [] → s.upstream = [] → s.red = [] →
      blockedAt s 2352 seat = none → (seatOf s seat).pegHold = [] → p.arrivalPeg < 48 → 32 * p.areaOffset + (p.delivered % p.depth) * (64 + p.recordBytes) + 64 + p.recordBytes ≤ scratchBytes →
      (shellOf s p.shell).rig.seats[p.lseat]? = some seat → seatShell s seat = some p.shell →
      lseatOf (shellOf s p.shell) seat = p.lseat → sprintSlots s (fun x => x.st == .bound && x.shell == p.shell && x.lseat == p.lseat && x.egressPeg == p.arrivalPeg) = [] →
      let t := sprintCommit s n
      let off := 32 * p.areaOffset + (p.delivered % p.depth) * (64 + p.recordBytes)
      (sprintOf t n).outstanding = p.outstanding ++ [p.recordSeq] ∧ (sprintOf t n).delivered = p.delivered + 1 ∧ (sprintOf t n).recordSeq = (p.recordSeq + 1) % 2 ^ 32 ∧ t.sent = s.sent ∧
      t.mem = (memWrite s (scratchBase seat + off) (sprintHeader s n p p.recordSeq ++ (List.range p.recordBytes).map (fun i => tget (fun _ => 0) p.staging i))).mem ∧
      bitOf (seatOf t seat).pegs p.arrivalPeg = true ∧ ∀ j, j ≠ n → sprintOf t j = sprintOf s j)) ∧
  (∀ (s : State) (n : Fin 1024) (q : Nat) (rest : List Nat), let p := sprintOf s n.val
    p.st = .bound → p.reading = true → (p.wake = true → wakeRoom s p.shell = true) → p.outstanding = q :: rest → frontUp s = true →
    let got := lseatRead s p.shell (ctxWindows s p.shell p.ctx) p.lseat (32 * p.resultOffset) (p.resultBytes - 8)
    (got = none → exec (.egressReadDone n) s = .next s) ∧ (∀ st b, got = some (st, b) → st ≠ stOk → exec (.egressReadDone n) s = .next (sprintPut s n.val { p with reading := false })) ∧
    (∀ body, got = some (stOk, body) → ∃ u, (pget s (P.releaseGate p.shell) ≠ 1 → exec (.egressReadDone n) s = .next (sprintAnswer u n.val q (if (shellOf s p.shell).latch then 1 else 0) body (sprintBytes s p q) (claimIn s p.shell))) ∧
      (sprintOf u n.val).outstanding = rest ∧ (sprintOf u n.val).reading = false ∧ u.sent = s.sent ∧
      (pget s (P.releaseGate p.shell) = 1 → ∃ t h, exec (.egressReadDone n) s = .next t ∧ (sprintOf t n.val).held = (sprintOf u n.val).held ++ [h] ∧ h.seq = q ∧ h.body = body ∧
        h.suspect = (shellOf s p.shell).latch ∧ h.tb = s.tb ∧ t.sent = s.sent))) ∧
  (∀ (s : State) (n : Fin 1024), ((sprintOf s n.val).reading = false ∨ (sprintOf s n.val).st ≠ .bound ∨ frontUp s = false → exec (.egressReadDone n) s = .next s) ∧
    ((sprintOf s n.val).held = [] → exec (.sprintGateHoldExpiry n) s = .next s) ∧ ((sprintOf s n.val).st ≠ .aborting → exec (.sprintAbortEnd n) s = .next s)) ∧
  (∀ (s : State) (n : Fin 1024) (h : HeldAnswer) (rest : List HeldAnswer), let p := sprintOf s n.val
    p.held = h :: rest → (p.wake = true → wakeRoom s p.shell = true) → frontUp s = true →
    (tbPast s.tb h.tb 2000 = false → exec (.sprintGateHoldExpiry n) s = .next s) ∧
    (tbPast s.tb h.tb 2000 = true → exec (.sprintGateHoldExpiry n) s = .next (sprintAnswer (sprintPut s n.val { p with held := rest }) n.val h.seq (if h.suspect || (shellOf s p.shell).latch then 1 else 0) h.body h.recBytes h.claim))) ∧
  (∀ (s : State) (n seq st : Nat) (body r c : Bytes), let p := sprintOf s n
    s.start.entry = false → s.start.releasesStopped = false → hostWriteFails s p.fn (p.ringBase + (seq % 2 ^ p.ringLog2) * p.resultBytes) = none →
    (sprintAnswer s n seq st body r c).sent = s.sent ++ [.hostWrite (p.ringBase + (seq % 2 ^ p.ringLog2) * p.resultBytes) body] ++
      [.hostWrite (p.ringBase + (seq % 2 ^ p.ringLog2) * p.resultBytes + p.resultBytes - 8) (leBytes 8 (pack [(0, (seq / 2 ^ p.ringLog2 + 1) % 2), (14, n), (24, st), (32, seq % 2 ^ 32)]))]) ∧
  (∀ (s : State) (n : Fin 1024), (sprintOf s n.val).st = .aborting → (sprintOf s n.val).held = [] → (sprintOf s n.val).unbindCmd = none →
    exec (.sprintAbortEnd n) s = .next (sprintEnded s n.val)) ∧
  (∀ (s : State) (n : Fin 1024) (q : QCmd), (sprintOf s n.val).st = .aborting → (sprintOf s n.val).held = [] → (sprintOf s n.val).unbindCmd = some q →
    let t := sprintEnded s n.val
    exec (.sprintAbortEnd n) s = .next (if privFind t (sprintOf s n.val).ctx 0x13 q.seq = some q then privEnd t (sprintOf s n.val).ctx q 0 else t)) ∧
  (∀ (s : State) (n : Nat), (sprintOf (sprintEnded s n) n).st = .unbound ∧ (sprintOf (sprintEnded s n) n).outstanding = [] ∧ (sprintEnded s n).sent = (sprintAnswerAll s n 4).sent ∧ (sprintEnded s n).mem = s.mem) ∧
  (∀ (s : State) (ctx : U16), (frontUp s = false ∨ (ctxOf s ctx.toNat).cmds = []) → exec (.cmdSprintBind ctx) s = .next s ∧ exec (.cmdSprintUnbind ctx) s = .next s) ∧
  (∀ (s : State) (ctx : U16) (q : QCmd) (rest : List QCmd), (ctxOf s ctx.toNat).cmds = q :: rest → headReady (ctxOf s ctx.toNat) q = true → frontUp s = true →
    let cid := ctx.toNat
    let u := (takeHead s cid q).1
    let h := (takeHead s cid q).2
    (q.opcode = 0x12 → (sprintBindCode u cid h ≠ 0 → exec (.cmdSprintBind ctx) s = .next (stampHead (privEnd u cid h (sprintBindCode u cid h)) cid)) ∧
      (sprintBindCode u cid h = 0 → exec (.cmdSprintBind ctx) s = .next (stampHead (privEnd (sprintInstall u cid h) cid h 0) cid))) ∧
    (q.opcode = 0x13 → (sprintUnbindCode u cid h ≠ 0 → exec (.cmdSprintUnbind ctx) s = .next (stampHead (privEnd u cid h (sprintUnbindCode u cid h)) cid)) ∧
      (sprintUnbindCode u cid h = 0 → ∃ t, exec (.cmdSprintUnbind ctx) s = .next t ∧ (sprintOf t (q.pl 461 452)).st = .aborting ∧ (sprintOf t (q.pl 461 452)).unbindCmd = some h ∧
        (sprintOf t (q.pl 461 452)).staging = [] ∧ t = { s with ctxs := t.ctxs, sprints := t.sprints }))) ∧
  (∀ (s : State) (cid : Nat) (q : QCmd), let p := sprintOf (sprintInstall s cid q) (q.pl 461 452)
    p.st = .bound ∧ p.ctx = cid ∧ p.fn = (ctxOf s cid).fn ∧ p.staging = [] ∧ p.recordSeq = 0 ∧ p.results = 0 ∧ p.delivered = 0 ∧ p.outstanding = [] ∧ p.depth = q.pl 414 411 + 1 ∧ p.recordBytes = 64 * (q.pl 410 408 + 1) ∧
    p.arrivalPeg = q.pl 407 402 ∧ p.egressPeg = q.pl 401 396 ∧ p.shell = q.pl 451 447 ∧ p.lseat = q.pl 446 431 ∧ sprintInstall s cid q = { s with sprints := (sprintInstall s cid q).sprints } ∧
    ∀ i, i ≠ q.pl 461 452 → sprintOf (sprintInstall s cid q) i = sprintOf s i)

/-- A packet longer than 64 bytes changes nothing; a first packet begins a message, a packet that continues it joins it, one that does not drops what was assembled, and one with IC set or past 1,024 bytes drops it too; a complete message of a supported type waits for its decision, an access-port request in the order of arrival of all transports with the mark of one that found an earlier request of its session waiting, and an exact repeat of such a waiting request is dropped. A request is taken while the budget of 200 in 100 ms is not spent and is otherwise dropped and counted; what is answered is SET_ENDPOINT_ID (the null and broadcast IDs invalid, a new ID ending the binding's sessions), GET_ENDPOINT_ID, the UUID, the version, the message types, the vendor support, and the PLDM repository of 29 records, the numeric sensors 1 to 28 and the state sensor 29; anything else is answered unsupported. PLDM is answered only once the binding has an endpoint ID. A packet offered last that is not accepted in 10 ms is dropped with the rest of its message and counted, the packets accepted before it staying (how many is a free value, log 16), what is not complete 100 ms after its first packet is dropped then, and a loss of the transport frees the sessions of its binding only. The PLDM command numbers and null-ID answers are the model's choice (log 29). -/
def Obligations.MctpMessages : Prop :=
  (∀ (s : State) (b : Fin 2) (e : Fin 256) (tag : Fin 8) (som eom ic : Bool) (seq : Fin 4) (p : List Byte),
    let ep := endpointOf s b.val e.val
    let a := ep.asm
    let put := fun (x : Assembly) => endpointPut s b.val e.val { ep with asm := x }
    let d := if som then p else a.data ++ p
    let joins := som = true ∨ (a.busy = true ∧ a.tag = tag.val ∧ a.nextSeq = seq.val)
    (mctpUp s = false ∨ 64 < p.length → exec (.mctpPacketReceive b e tag som eom ic seq p) s = .next s) ∧
    (mctpUp s = true → p.length ≤ 64 →
      (¬ joins → exec (.mctpPacketReceive b e tag som eom ic seq p) s = .next (put {})) ∧
      (joins → (ic = true ∨ 1024 < d.length) → exec (.mctpPacketReceive b e tag som eom ic seq p) s = .next (put {})) ∧
      (joins → ic = false → d.length ≤ 1024 →
        (eom = false → exec (.mctpPacketReceive b e tag som eom ic seq p) s = .next (put { busy := true, tag := tag.val, nextSeq := (seq.val + 1) % 4, data := d, tb := if som then s.tb else a.tb })) ∧
        (eom = true → ∃ t, exec (.mctpPacketReceive b e tag som eom ic seq p) s = .next t ∧ (endpointOf t b.val e.val).asm = {} ∧
          t = { s with endpoints := t.endpoints, mctpIn := t.mctpIn, papQueue := t.papQueue } ∧
          ((∃ x, d.head? = some x ∧ (x.toNat = 0 ∨ (x.toNat = 1 ∧ (tfind s.eids b.val).isSome = true))) → t.mctpIn = s.mctpIn ++ [(b.val, e.val, tag.val, d)] ∧ t.papQueue = s.papQueue) ∧
          (d.head? = some 0x7E → (tfind s.eids b.val).isSome = true →
            ((papBefore s b.val e.val d).contains d = true → t.mctpIn = s.mctpIn ∧ t.papQueue = s.papQueue) ∧
            ((papBefore s b.val e.val d).contains d = false → t.mctpIn = s.mctpIn ++ [(b.val, e.val, tag.val, d)] ∧ t.papQueue = s.papQueue ++ [(.mctp b e tag, !(papBefore s b.val e.val d).isEmpty)])) ∧
          ((∃ x, d.head? = some x ∧ x.toNat ≠ 0) → (tfind s.eids b.val).isSome = false → t.mctpIn = s.mctpIn) ∧
          ((∀ x, d.head? = some x → x.toNat ≠ 0 ∧ x.toNat ≠ 1 ∧ x.toNat ≠ 0x7E) → t.mctpIn = s.mctpIn)))) ∧
    (a.busy = true → tbPast s.tb a.tb 100000000 = true → exec (.mctpAssemblyTimeout b e) s = .next (put {})) ∧
    ((a.busy = false ∨ tbPast s.tb a.tb 100000000 = false) → exec (.mctpAssemblyTimeout b e) s = .next s) ∧
    (∀ t i, s.mctpOffer = some (t, i) → mctpUp s = true → tbPast s.tb t 10000000 = true →
      exec .mctpTxAcceptTimeout s = .next (pinc (freeNext { s with mctpOffer := none, sent := mctpCut s i }) P.mctpTxDropped)) ∧
    ((s.mctpOffer = none ∨ mctpUp s = false ∨ ∀ t i, s.mctpOffer = some (t, i) → tbPast s.tb t 10000000 = false) → exec .mctpTxAcceptTimeout s = .next s) ∧
    (∀ i m, s.sent[i]? = some m → (mctpCut s i)[i]? ≠ some m → (∀ j, j < i → (mctpCut s i)[j]? = s.sent[j]?) ∧
      (∀ b' e' t' x, m = .mctp b' e' t' x → mctpCut s i = s.sent.eraseIdx i ∨ ∃ k, 0 < k ∧ mctpCut s i = s.sent.set i (.mctp b' e' t' (x.take (64 * k)))))) ∧
  (∀ (s : State) (b : Fin 2) (e newEid : Fin 256) (tag : Fin 8) (cmd : Fin 256), mctpUp s = true →
    let s1 := (mctpTake s b.val e.val tag.val).1
    let ok := (mctpTake s b.val e.val tag.val).2
    let answered := fun (c : Nat) (x : PldmCode) (v : List Nat) => if ok then mctpOffered s1 (.pldm b.val e.val tag.val 0 c x v) else s1
    (newEid.val ≠ 0 → newEid.val ≠ 255 → ok = true → ∃ t, exec (.setEndpointId b e tag newEid) s = .next t ∧ tfind t.eids b.val = some newEid.val ∧
      t.sent = s1.sent ++ [.pldm b.val e.val tag.val 0 1 .success [newEid.val]] ∧ t.mctpOffer = some (s1.tb, s1.sent.length) ∧ (∀ b', b' ≠ b.val → tfind t.eids b' = tfind s1.eids b') ∧ t.mctpCount = s1.mctpCount) ∧
    (newEid.val = 0 ∨ newEid.val = 255 → exec (.setEndpointId b e tag newEid) s = .next (answered 1 .invalidData [])) ∧
    exec (.getEndpointId b e tag) s = .next (answered 2 .success [(tfind s1.eids b.val).getD 0]) ∧
    exec (.getEndpointUuid b e tag) s = .next (answered 3 .success [Config.deviceUuid]) ∧
    exec (.getMctpVersionSupport b e tag) s = .next (answered 4 .success [1, 3]) ∧
    exec (.getMessageTypeSupport b e tag) s = .next (answered 5 .success [0, 1, 0x7E]) ∧
    exec (.getVendorMsgSupport b e tag) s = .next (answered 6 .success [Config.pciVendorId]) ∧
    exec (.mctpUnsupportedCmd b e tag cmd) s = .next (answered cmd.val .unsupported [])) ∧
  (∀ (s : State) (b : Fin 2) (e : Fin 256) (tag : Fin 8) (h : BitVec 32) (n : BitVec 16) (t5 : Bool) (cmd : Fin 256), mctpUp s = true →
    let s1 := (mctpTake s b.val e.val tag.val).1
    let ok := (mctpTake s b.val e.val tag.val).2
    let answered := fun (ty c : Nat) (x : PldmCode) (v : List Nat) => if ok then mctpOffered s1 (.pldm b.val e.val tag.val ty c x v) else s1
    ((tfind s.eids b.val).isNone = true → exec (.getPdrRepositoryInfo b e tag) s = .next s ∧ exec (.getPdr b e tag h) s = .next s ∧ exec (.getSensorReading b e tag n) s = .next s ∧
      exec (.getStateSensorReadings b e tag n) s = .next s ∧ exec (.pldmUnsupportedCmd b e tag t5 cmd) s = .next s) ∧
    ((tfind s.eids b.val).isSome = true →
      exec (.getPdrRepositoryInfo b e tag) s = .next (answered 2 1 .success [29]) ∧
      (h.toNat = 0 ∨ 29 < h.toNat → exec (.getPdr b e tag h) s = .next (answered 2 2 .invalidData [])) ∧
      (1 ≤ h.toNat → h.toNat ≤ 28 → exec (.getPdr b e tag h) s = .next (answered 2 2 .success [h.toNat, 0])) ∧ (h.toNat = 29 → exec (.getPdr b e tag h) s = .next (answered 2 2 .success [29, 1])) ∧
      (n.toNat = 1 → exec (.getSensorReading b e tag n) s = .next (answered 2 3 .success [pget s1 P.inputMv])) ∧
      (n.toNat = 2 → exec (.getSensorReading b e tag n) s = .next (answered 2 3 .success [pget s1 P.inputPowerW])) ∧
      (n.toNat = 3 → exec (.getSensorReading b e tag n) s = .next (answered 2 3 .success [pget s1 P.moduleEnergyMj / 1000 % 2 ^ 32])) ∧
      (4 ≤ n.toNat → n.toNat ≤ 28 → exec (.getSensorReading b e tag n) s = .next (answered 2 3 .success [pget s1 (P.dieTempC (n.toNat - 4))])) ∧
      (n.toNat = 0 ∨ 28 < n.toNat → exec (.getSensorReading b e tag n) s = .next (answered 2 3 .invalidData [])) ∧
      (n.toNat = 29 → exec (.getStateSensorReadings b e tag n) s = .next (answered 2 4 .success [pget s1 P.alertStatus])) ∧ (n.toNat ≠ 29 → exec (.getStateSensorReadings b e tag n) s = .next (answered 2 4 .invalidData [])) ∧
      exec (.pldmUnsupportedCmd b e tag t5 cmd) s = .next (answered (if t5 then 5 else 2) cmd.val .unsupported []))) ∧
  (∀ (s : State) (b e tag : Nat), let s0 := mctpWindow (mctpConsume s b e tag)
    (s0.mctpCount < 200 → mctpTake s b e tag = ({ s0 with mctpCount := s0.mctpCount + 1 }, true)) ∧ (200 ≤ s0.mctpCount → mctpTake s b e tag = (pinc s0 P.mctpRxDropped, false)) ∧
    (s.mctpIn = [] → s.tb < s.tbMctp + 100000000 → s0 = s) ∧ (s.mctpIn = [] → tbPast s.tb s.tbMctp 100000000 = true → s0 = { s with tbMctp := s.tb, mctpCount := 0 })) ∧
  (∀ (s : State) (b : Fin 2), ∃ t, exec (.transportLoss b) s = .next t ∧ (∀ k ∈ t.sessions, ∀ e, k.2.src ≠ .endpoint b.val e) ∧
    (∀ k ∈ s.sessions, (∀ k' ∈ s.sessions, k'.1 = k.1 → sessionOn b.val k'.2 = false) → k ∈ t.sessions) ∧ t.sent = s.sent ∧ t.eids = s.eids)

/-- Each of the seven requests that waits in a busy mailbox, or as a complete MCTP message, is decided in the order in which the messages of all transports were complete and its response sent back the way it came; one whose turn has not come, and a source with nothing waiting, do nothing. A request equal to the last one of its conversation has the stored response again, one that reuses its TAG is refused 0x0901 or 0x0902, and a new one is checked for version, format and session in that order, one that found a request of its session undecided is answered BUSY 0x0907 and not kept, and any other's response is kept. An OPEN of a driver's tenants opens a session at once under the next identifier; an AUTH with the right proof opens its session, and one with another frees it and is counted; CLOSE frees it; KEEPALIVE and DESCRIBE change nothing but the session's timer. A READ of a scalar in an open session is its little-endian value; a whole WRITE is decided by the value's checks, then by the parameter's effect, and a first segment is staged until the last one joins it. A challenge times out after 10 s, a session after its idle time, a segmented transfer after its segment time, and a lockout at its end; none of them before. A doorbell takes the request when the mailbox is free, is counted when it is not, and is answered 0x0902 when the length is outside 24 to 4,096; MBX_ACK clears DONE; the request buffer holds what is written to it and MBX_CTL its bits, and other offsets of BAR4 ignore writes. -/
def Obligations.AccessPortConversation : Prop :=
  (∀ (s : State) (src : PapFrom) (w : U32), papTurn s src = none → exec (.papOpen src) s = .next s ∧ exec (.papAuth src) s = .next s ∧ exec (.papClose src) s = .next s ∧
    exec (.papRead src) s = .next s ∧ exec (.papWrite src w) s = .next s ∧ exec (.papDescribe src) s = .next s ∧ exec (.papKeepalive src) s = .next s) ∧
  (∀ (s : State) (src : PapFrom), (∀ q, s.papQueue.find? (fun q => papStands s q.1) = some q → (q.1 = src → papTurn s src = some q.2) ∧ (q.1 ≠ src → papTurn s src = none)) ∧
    (s.papQueue.find? (fun q => papStands s q.1) = none → papTurn s src = some false)) ∧
  (∀ (s : State) (fn : Fn) (w : U32) (busy : Bool), papTurn s (.mailbox fn) = some busy →
    let m := tget (fun _ => ({} : Mbx)) s.mbxs fn.val
    let q := mbxRequest m
    let o := fun (d : Nat) => papAnswer (papGone s (.mailbox fn)) (.mailbox fn.val) q busy d
    let ran := fun (d : Nat) => papReset (mbxRespond (o d).st fn.val (o d).header (o d).payload) (o d).reset
    (s.start.msf = true → s.start.entry = false → m.busy = true →
      (hOp q.header = 1 → exec (.papOpen (.mailbox fn)) s = .next (ran 0)) ∧ (hOp q.header = 2 → exec (.papAuth (.mailbox fn)) s = .next (ran 0)) ∧
      (hOp q.header = 3 → exec (.papClose (.mailbox fn)) s = .next (ran 0)) ∧ (hOp q.header = 4 → exec (.papRead (.mailbox fn)) s = .next (ran 0)) ∧
      (hOp q.header = 5 → exec (.papWrite (.mailbox fn) w) s = .next (ran w.toNat)) ∧ (hOp q.header = 6 → exec (.papDescribe (.mailbox fn)) s = .next (ran 0)) ∧
      (hOp q.header = 7 → exec (.papKeepalive (.mailbox fn)) s = .next (ran 0)) ∧
      (1 ≤ hOp q.header → hOp q.header ≤ 7 → ∀ i ∈ [(1, Instr.papOpen (.mailbox fn)), (2, .papAuth (.mailbox fn)), (3, .papClose (.mailbox fn)), (4, .papRead (.mailbox fn)), (5, .papWrite (.mailbox fn) w),
        (6, .papDescribe (.mailbox fn)), (7, .papKeepalive (.mailbox fn))], i.1 ≠ hOp q.header → exec i.2 s = .next s)) ∧
    ((s.start.msf = false ∨ s.start.entry = true ∨ m.busy = false) → exec (.papOpen (.mailbox fn)) s = .next s ∧ exec (.papAuth (.mailbox fn)) s = .next s ∧ exec (.papClose (.mailbox fn)) s = .next s ∧
      exec (.papRead (.mailbox fn)) s = .next s ∧ exec (.papWrite (.mailbox fn) w) s = .next s ∧ exec (.papDescribe (.mailbox fn)) s = .next s ∧ exec (.papKeepalive (.mailbox fn)) s = .next s)) ∧
  (∀ (s : State) (b : Fin 2) (e : Fin 256) (t : Fin 8) (d : Bytes) (w : U32) (busy : Bool), papTurn s (.mctp b e t) = some busy →
    s.mctpIn.find? (fun m => m.1 == b.val && m.2.1 == e.val && m.2.2.1 == t.val) = some (b.val, e.val, t.val, d) → mctpUp s = true → 27 ≤ d.length →
    d.take 3 = BitVec.ofNat 8 0x7E :: [BitVec.ofNat 8 (Config.pciVendorId / 256), BitVec.ofNat 8 Config.pciVendorId] → (mctpTake (papGone s (.mctp b e t)) b.val e.val t.val).2 = true →
    let s1 := (mctpTake (papGone s (.mctp b e t)) b.val e.val t.val).1
    let q : PapMsg := { header := leNat ((d.drop 3).take 24), payload := (d.drop 3).drop 24 }
    let o := fun (n : Nat) => papAnswer s1 (.endpoint b.val e.val) q busy n
    let ran := fun (n : Nat) => papReset (mctpOffered (o n).st (.mctp b.val e.val t.val ((BitVec.ofNat 8 0x7E :: [BitVec.ofNat 8 (Config.pciVendorId / 256), BitVec.ofNat 8 Config.pciVendorId]) ++ leBytes 24 (o n).header ++ (o n).payload))) (o n).reset
    (hOp q.header = 1 → exec (.papOpen (.mctp b e t)) s = .next (ran 0)) ∧ (hOp q.header = 2 → exec (.papAuth (.mctp b e t)) s = .next (ran 0)) ∧
    (hOp q.header = 3 → exec (.papClose (.mctp b e t)) s = .next (ran 0)) ∧ (hOp q.header = 4 → exec (.papRead (.mctp b e t)) s = .next (ran 0)) ∧
    (hOp q.header = 5 → exec (.papWrite (.mctp b e t) w) s = .next (ran w.toNat)) ∧ (hOp q.header = 6 → exec (.papDescribe (.mctp b e t)) s = .next (ran 0)) ∧
    (hOp q.header = 7 → exec (.papKeepalive (.mctp b e t)) s = .next (ran 0))) ∧
  (∀ (s : State) (src : PapSrc) (m q r : PapMsg) (busy : Bool) (d : Nat), papLast s src (hSession m.header) = some (q, r) →
    let a := papAnswer s src m busy d
    (q = m → a.header = r.header ∧ a.payload = r.payload ∧ a.reset = 0 ∧
      a.st = (match papSession s src (hSession m.header) with | some k => papTouch s k | none => s)) ∧
    (q ≠ m → hTag q.header = hTag m.header → a.header = respHeader m.header (if hVersion m.header = 1 then 0x0902 else 0x0901) ∧ a.payload = [] ∧ a.reset = 0)) ∧
  (∀ (s : State) (src : PapSrc) (m : PapMsg) (busy : Bool) (d : Nat), (∀ q r, papLast s src (hSession m.header) = some (q, r) → hTag q.header ≠ hTag m.header) →
    let s0 := match papSession s src (hSession m.header) with | some k => papTouch s k | none => s
    let a := papAnswer s src m busy d
    let o := papRequest s0 src m busy d
    a.header = o.header ∧ a.payload = o.payload ∧ a.reset = o.reset ∧
    (bitsOf o.header 111 96 = 0x0907 → papLast a.st src (hSession m.header) = papLast o.st src (hSession m.header))) ∧
  (∀ (s : State) (src : PapSrc) (m : PapMsg) (busy : Bool) (d : Nat),
    (hVersion m.header ≠ 1 → papRequest s src m busy d = papCode s m.header 0x0901) ∧
    (hVersion m.header = 1 → papFormatBad src m = true → papRequest s src m busy d = papCode s m.header 0x0902) ∧
    (hVersion m.header = 1 → papFormatBad src m = false → hOp m.header ≠ 1 → papSession s src (hSession m.header) = none → papRequest s src m busy d = papCode s m.header 0x0903)) ∧
  (∀ (s : State) (f : Nat) (m : PapMsg) (busy : Bool) (d : Nat), hVersion m.header = 1 → papFormatBad (.mailbox f) m = false → hOp m.header = 1 →
    let n := s.nextSession
    let o := papRequest s (.mailbox f) m busy d
    (field m.payload 0 1 ≠ 2 → o = papCode s m.header 0x0906) ∧
    (openCode s (.mailbox f) 2 (field m.payload 4 4) = 0 → field m.payload 0 1 = 2 → n < 65536 →
      o.payload = [] ∧ o.header = putBits (respHeader m.header 0) 167 152 n ∧ (sessOf o.st n).st = .opened ∧ (sessOf o.st n).who = .tenant ∧ (sessOf o.st n).src = .mailbox f ∧
      (sessOf o.st n).mask = field m.payload 4 4 ∧ (sessOf o.st n).tbLast = s.tb ∧ o.st.nextSession = n + 1 ∧ (∀ k, k ≠ n → sessOf o.st k = sessOf s k))) ∧
  (∀ (s : State) (src : PapSrc) (k : Nat) (m : PapMsg) (d : Nat), hVersion m.header = 1 → papFormatBad src m = false → papSession s src (hSession m.header) = some k →
    let s1 := papTouch s k
    let x := sessOf s1 k
    let h := m.header
    let o := papRequest s src m false d
    (hOp h ≠ 1 → (x.st = .challenged → hOp h = 2 ∨ hOp h = 3) → (hOp h = 2 → x.st = .challenged) → papRequest s src m true d = papCode s1 h 0x0907) ∧
    (x = { sessOf s k with tbLast := s.tb, idleS := pget s P.sessionIdleS, segMs := pget s P.segmentTimeoutMs } ∧ (∀ j, j ≠ k → sessOf s1 j = sessOf s j) ∧ s1 = { s with sessions := s1.sessions }) ∧
    (x.st = .challenged → hOp h ≠ 1 → hOp h ≠ 2 → hOp h ≠ 3 → o = papCode s1 h 0x0903) ∧ (x.st ≠ .challenged → hOp h = 2 → o = papCode s1 h 0x0903) ∧
    (x.st = .challenged → hOp h = 2 → authOk s1 k x m.payload = true → o.header = respHeader h 0 ∧ sessOf o.st k = { x with st := .opened, challenge := [] } ∧ pget o.st P.authFailures = pget s P.authFailures) ∧
    (x.st = .challenged → hOp h = 2 → authOk s1 k x m.payload = false → o.header = respHeader h 0x0905 ∧ tfind o.st.sessions k = none ∧ pget o.st P.authFailures = satInc32 (pget s P.authFailures)) ∧
    (hOp h = 3 → k < 65536 → o.header = respHeader h 0 ∧ tfind o.st.sessions k = none ∧ (∀ j, j ≠ k → tfind o.st.sessions j = tfind s.sessions j)) ∧
    (hOp h = 3 → 65536 ≤ k → o = papCode s1 h 0) ∧
    (x.st = .opened → hOp h = 7 → o = papCode s1 h 0) ∧
    (x.st = .opened → ∀ r, papCheck s1 x h = (0, r) →
      (hOp h = 6 → o = { st := s1, header := respHeader h 0, payload := paramDescribe r (hSub h) }) ∧
      (hOp h = 4 → hOffset h = 0 → r.type = .u32 → r.maxLen = 4 → o = { st := s1, header := putBits (putBits (respHeader h 0) 169 169 1) 63 32 4, payload := leBytes 4 (scalarRead s1 x r (hIndex h) (hSub h)) } ∨
        pkey (hIndex h) (hSub h) = P.evidence) ∧
      (hOp h = 5 → hOffset h = 0 → hLast h = true → m.payload.length = hTotal h →
        let e := paramEffect s1 k x r (hIndex h) (hSub h) m.payload d
        (valueCode s1 x r (hSub h) m.payload ≠ 0 → o = papCode s1 h (valueCode s1 x r (hSub h) m.payload)) ∧
        (valueCode s1 x r (hSub h) m.payload = 0 → flashWrites s1 x r (hIndex h) (hSub h) m.payload = false → o.st = e.1 ∧ o.header = respHeader h e.2 ∧ o.payload = [])) ∧
      (hOp h = 5 → hOffset h = 0 → hLast h = false → m.payload.length ≤ hTotal h → hTotal h ≤ 65536 → lengthOk r (hSub h) (hTotal h) = true → staticBad s1 r (hSub h) = false →
        segmentCode s1 x r (hIndex h) (hSub h) = 0 → o = papCode (sessPut s1 k { x with st := .writing, wKey := pkey (hIndex h) (hSub h), wTotal := hTotal h, wBytes := m.payload }) h 0)) ∧
    (x.st = .writing → hOp h = 5 → (papCheck s1 x h).1 = 0 → pkey (hIndex h) (hSub h) = x.wKey → hTotal h = x.wTotal → hOffset h = x.wBytes.length → (x.wBytes ++ m.payload).length ≤ x.wTotal → hLast h = false →
      o = papCode (sessPut s1 k { x with wBytes := x.wBytes ++ m.payload }) h 0)) ∧
  (∀ (s : State) (n : U16) (r : SessionRef) (b : Fin 2) (e : Fin 256),
    let x := sessOf s n.toNat
    let y := sessOf s (sessKey r)
    (x.st = .challenged → tbPast s.tb x.tbOpen 10000000000 = true → exec (.challengeTimeout n) s = .next (sessionFree s n.toNat)) ∧
    ((x.st ≠ .challenged ∨ tbPast s.tb x.tbOpen 10000000000 = false) → exec (.challengeTimeout n) s = .next s) ∧
    (x.st = .opened → tbPast s.tb x.tbLast (x.idleS * 1000000000) = true → exec (.sessionIdleTimeout n) s = .next (sessionFree s n.toNat)) ∧
    (tbPast s.tb x.tbLast (x.idleS * 1000000000) = false → exec (.sessionIdleTimeout n) s = .next s) ∧
    ((y.st = .writing ∨ y.st = .reading) → tbPast s.tb y.tbLast (y.segMs * 1000000) = true → ∃ t, exec (.segmentTimeout r) s = .next t ∧
      sessOf t (sessKey r) = { y with st := .opened, wBytes := [], snap := [] } ∧ pget t P.segmentsAbandoned = satInc32 (pget s P.segmentsAbandoned) ∧ t = { s with sessions := t.sessions, regs := t.regs }) ∧
    (tbPast s.tb y.tbLast (y.segMs * 1000000) = false → exec (.segmentTimeout r) s = .next s) ∧
    (∀ u, (endpointOf s b.val e.val).lockedUntil = some u → (s.tb < u → exec (.authLockoutExpiry b e) s = .next s) ∧
      (u ≤ s.tb → ∃ t, exec (.authLockoutExpiry b e) s = .next t ∧ (endpointOf t b.val e.val).lockedUntil = none ∧ t = { s with endpoints := t.endpoints })) ∧
    ((endpointOf s b.val e.val).lockedUntil = none → exec (.authLockoutExpiry b e) s = .next s)) ∧
  (∀ (s : State) (fn : Fn) (w : U64), fnUp s fn.val = false → exec (.mbxDoorbell fn w) s = .next s ∧ exec (.mbxAck fn w) s = .next s) ∧
  (∀ (s : State) (fn : Fn) (w : U64), fnUp s fn.val = true →
    let m := tget (fun _ => ({} : Mbx)) s.mbxs fn.val
    let n := w.toNat % 65536
    ((m.busy = true → exec (.mbxDoorbell fn w) s = .next (pinc s P.mbxDoorbellDropped)) ∧
      (m.busy = false → 24 ≤ n → n ≤ 4096 → ∃ t, exec (.mbxDoorbell fn w) s = .next t ∧ t = { s with mbxs := t.mbxs, papQueue := t.papQueue } ∧ t.papQueue = s.papQueue.filter (fun q => q.1 != .mailbox fn) ++ [(.mailbox fn, false)] ∧
        tget (fun _ => ({} : Mbx)) t.mbxs fn.val = { m with done := false, busy := true, accepted := (m.accepted + 1) % 2 ^ 32, reqLen := n } ∧
        ∀ g, g ≠ fn.val → tget (fun _ => ({} : Mbx)) t.mbxs g = tget (fun _ => ({} : Mbx)) s.mbxs g) ∧
      (m.busy = false → (n < 24 ∨ 4096 < n) → ∃ t, exec (.mbxDoorbell fn w) s = .next t ∧ (tget (fun _ => ({} : Mbx)) t.mbxs fn.val).busy = false ∧
        (tget (fun _ => ({} : Mbx)) t.mbxs fn.val).done = true ∧ (tget (fun _ => ({} : Mbx)) t.mbxs fn.val).rsp = leBytes 24 (2 ^ 168 + 0x0902 * 2 ^ 96) ∧
        pget t P.papProtocolErrors = satInc32 (pget s P.papProtocolErrors))) ∧
    (∃ t, exec (.mbxAck fn w) s = .next t ∧ t = { s with mbxs := t.mbxs } ∧ (bitOf w.toNat 0 = true → tget (fun _ => ({} : Mbx)) t.mbxs fn.val = { m with done := false }) ∧ (bitOf w.toNat 0 = false → t = s))) ∧
  (∀ (s : State) (fn : Fn) (off : U16) (size : Fin 9) (v : U64), fnUp s fn.val = true →
    let m := tget (fun _ => ({} : Mbx)) s.mbxs fn.val
    (off.toNat = 0x10 → size.val = 8 → ∃ t, exec (.registerWrite fn .bar4 off size v) s = .next t ∧ t = { s with mbxs := t.mbxs } ∧ tget (fun _ => ({} : Mbx)) t.mbxs fn.val = { m with ctl := v.toNat % 64 }) ∧
    (0x1000 ≤ off.toNat → off.toNat + size.val ≤ 0x2000 → ∃ t, exec (.registerWrite fn .bar4 off size v) s = .next t ∧ t = { s with mbxs := t.mbxs } ∧
      (∀ i, tget (fun _ => 0) (tget (fun _ => ({} : Mbx)) t.mbxs fn.val).req i =
        if off.toNat - 0x1000 ≤ i ∧ i < off.toNat - 0x1000 + size.val then (leBytes size.val v.toNat).getD (i - (off.toNat - 0x1000)) 0 else tget (fun _ => 0) m.req i)) ∧
    ((off.toNat < 0x1000 ∨ 0x2000 < off.toNat + size.val) → (off.toNat ≠ 0x10 ∨ size.val ≠ 8) → exec (.registerWrite fn .bar4 off size v) s = .next s))

/-- Enabling a disabled port begins its training in the FEC mode then staged, clearing the bit disables it; a retrain of a FAILED port clears its hour and trains it, and of any other gives 0x0513. Training done sends HELLO with a fresh nonce; a HELLO that passes brings the port UP with the peer's credits and fresh sequence numbers and sends the confirmation, one that fails, a training of 2 s or a wait for HELLO of 100 ms records its cause and enters RECOVERING. A port in RECOVERING retrains after 100 ms, and fails at the fourth entry within an hour, which is counted. Leaving UP files an error and counts the discarded posted writes. A flit error asks for a replay, which is counted; the fourth of one flit, and the 1,001st within 1 ms, take the port out of UP, as do loss of FEC lock, a credit stall of GH_CREDIT_STALL_MS, which is counted, a packet past its credit and a failed tag, which is counted. A header in order gives the port its sequence number, the acknowledged one and the credit its fields return, by which waiting packets leave; one of type 3 or with a reserved field set changes nothing. A packet that a port takes gives its credit back in a flit header. A packet of the port's peer is served under the binding that admits it; any other is discarded and counted, and answered NO_TARGET where it asks for an answer; a contribution over a lease enters RED with only its two low flags. A packet takes its credit as it leaves, and waits where there is none, where its agent's earlier packet waits, or where a store before it is not answered: a peg write waits for the earlier GV0 writes to its module, sent or still waiting, and any packet for those that went by another port. A request unanswered for GH_REQ_TIMEOUT_US, and not before, is answered TIMEOUT and counted; the response to an advance of MD decides it, one that is not OK or does not come loses its context; a late response is counted. Port commands act at full function alone. -/
def Obligations.GhengoPorts : Prop :=
  (∀ (s : State) (p : GhPortId) (d : U32), fullUp s = true →
    let g := portOf s p.val
    let b := setBitOf (pget s P.ghPortEnable) p.val
    (g.st = 0 → ghRuns s = true → ∃ t, exec (.ghPortEnableSet p) s = .next t ∧ pget t P.ghPortEnable = b true ∧ pget t P.ghFecMode = stagedGet s P.ghFecMode ∧
      portOf t p.val = { g with st := 1, tbEntered := s.tb, fec := stagedGet s P.ghFecMode } ∧ t = { s with regs := t.regs, ghPorts := t.ghPorts } ∧ ∀ q, q ≠ p.val → portOf t q = portOf s q) ∧
    ((g.st ≠ 0 ∨ ghRuns s = false) → exec (.ghPortEnableSet p) s = .next (pset s P.ghPortEnable (b true))) ∧
    (g.st = 0 → exec (.ghPortEnableClear p d) s = .next (pset s P.ghPortEnable (b false))) ∧
    (g.st ≠ 0 → g.st ≠ 3 → ∃ t, exec (.ghPortEnableClear p d) s = .next t ∧ pget t P.ghPortEnable = b false ∧ portOf t p.val = { g with st := 0, peer := 0, left := true } ∧
      t = { s with regs := t.regs, ghPorts := t.ghPorts }) ∧
    (g.st = 3 → let t := ghClose (pset s P.ghPortEnable (b false)) p.val d.toNat
      exec (.ghPortEnableClear p d) s = .next (portPut t p.val { portOf t p.val with st := 0, peer := 0, left := true })) ∧
    (g.st = 5 → ∃ t, exec (.ghPortMaintRetrain p) s = .next t ∧ pget t P.ghPortMaintResult = 0 ∧ (portOf t p.val).st = 1 ∧ (portOf t p.val).entries = [] ∧ (portOf t p.val).tbEntered = s.tb) ∧
    (g.st ≠ 5 → exec (.ghPortMaintRetrain p) s = .next (pset s P.ghPortMaintResult 0x0513))) ∧
  (∀ (s : State) (p d : Nat), ((portOf s p).st ≠ 3 → ghClose s p d = s) ∧
    ((portOf s p).st = 3 → s.seats = [] → (∀ a ∈ s.advFar, a.port ≠ p) → portOf (ghClose s p d) p = { portOf s p with tbDown := s.tb } ∧ (ghClose s p d).ghWaiting = s.ghWaiting.filter (fun w => w.port != p) ∧
      pget (ghClose s p d) P.ghTimeouts = satAdd32 (pget s P.ghTimeouts) (d + s.ghWaiting.countP (fun w => w.port == p && ghPosted w)) ∧ (ghClose s p d).sent = s.sent ∧ (ghClose s p d).mem = s.mem)) ∧
  (∀ (s : State) (p : GhPortId) (d : U32), fullUp s = false → exec (.ghPortEnableSet p) s = .next s ∧ exec (.ghPortEnableClear p d) s = .next s ∧ exec (.ghPortMaintRetrain p) s = .next s) ∧
  (∀ (s : State) (p : GhPortId) (id : U16) (far fec : U8) (cr : List U16) (nonce : BitVec 256) (cf : BitVec 128),
    let g := portOf s p.val
    let n := leBytes 32 nonce.toNat
    let passes := helloPasses s p.val id.toNat far.toNat fec.toNat n (leBytes 16 cf.toNat)
    (g.st = 1 → ∃ t, exec (.ghTrainingDone p) s = .next t ∧ portOf t p.val = { g with st := 2, tbEntered := s.tb, nonce := (freshNonce s).1 } ∧ t.freeCtr = s.freeCtr + 4 ∧
      t.sent = s.sent ++ [.ghengo p.val 1 ([pget s P.ghModuleId, p.val, g.fec, 512, 512, 256, 64, 256, 64] ++ (freshNonce s).1.map (·.toNat))]) ∧
    (g.st ≠ 1 → exec (.ghTrainingDone p) s = .next s ∧ exec (.ghTrainingTimeout p) s = .next s) ∧ (g.st ≠ 2 → exec (.helloTimeout p) s = .next s ∧ exec (.helloReceive p id far fec cr nonce cf) s = .next s) ∧
    (tbPast s.tb g.tbEntered 2000000000 = false → exec (.ghTrainingTimeout p) s = .next s) ∧ (tbPast s.tb g.tbEntered 100000000 = false → exec (.helloTimeout p) s = .next s) ∧
    (g.st = 1 → tbPast s.tb g.tbEntered 2000000000 = true → exec (.ghTrainingTimeout p) s = .next (ghRecover s p.val 1 0)) ∧
    (g.st = 2 → tbPast s.tb g.tbEntered 100000000 = true → exec (.helloTimeout p) s = .next (ghRecover s p.val 2 0)) ∧
    (g.st = 2 → passes = false → exec (.helloReceive p id far fec cr nonce cf) s = .next (ghRecover s p.val 2 0)) ∧
    ((pget s P.ghModuleId = 0 ∨ pget s P.ghModuleId = 0xFFFF ∨ id.toNat = 0 ∨ id.toNat = 0xFFFF ∨ id.toNat = pget s P.ghModuleId ∨ fec.toNat ≠ g.fec) → passes = false) ∧
    (g.st = 2 → passes = true → let u := (match g.lastPeer with | some o => if o = id.toNat then s else bindingsEnd s p.val o | none => s)
      ∃ t, exec (.helloReceive p id far fec cr nonce cf) s = .next t ∧
      (portOf t p.val).st = 3 ∧ (portOf t p.val).peer = id.toNat ∧ (portOf t p.val).lastPeer = some id.toNat ∧ (portOf t p.val).farPort = far.toNat ∧
      (portOf t p.val).key = (helloSecret s p.val id.toNat n).take 64 ∧ (portOf t p.val).credit = (List.range 6).map (fun i => (cr.getD i 0).toNat) ∧ (portOf t p.val).rxSeq = 0 ∧ (portOf t p.val).ackSeq = 0 ∧
      (portOf t p.val).tbEntered = s.tb ∧ t.sent = u.sent ++ [.ghengo p.val 2 ((helloConfirm (helloSecret s p.val id.toNat n) (pget s P.ghModuleId) p.val g.nonce).map (·.toNat))] ∧
      t = { u with ghPorts := t.ghPorts, sent := t.sent } ∧ ∀ q, q ≠ p.val → portOf t q = portOf u q)) ∧
  (∀ (s : State) (p : GhPortId),
    let g := portOf s p.val
    let recent := g.entries.filter (fun t => !tbPast s.tb t 3600000000000)
    (g.st ≠ 4 → exec (.ghRecoveryTimer p) s = .next s) ∧
    (g.st = 4 → 4 ≤ recent.length → ∃ t, exec (.ghRecoveryTimer p) s = .next t ∧ portOf t p.val = { g with st := 5, tbEntered := s.tb } ∧
      pget t (P.ghPortFailures p.val) = satInc32 (pget s (P.ghPortFailures p.val)) ∧ t = { s with regs := t.regs, ghPorts := t.ghPorts }) ∧
    (g.st = 4 → recent.length < 4 → tbPast s.tb g.tbEntered 100000000 = true → ∃ t, exec (.ghRecoveryTimer p) s = .next t ∧
      portOf t p.val = { g with st := 1, tbEntered := s.tb, fec := stagedGet s P.ghFecMode } ∧ t = { s with regs := t.regs, ghPorts := t.ghPorts }) ∧
    (g.st = 4 → recent.length < 4 → tbPast s.tb g.tbEntered 100000000 = false → exec (.ghRecoveryTimer p) s = .next s)) ∧
  (∀ (s : State) (p c d : Nat),
    let g := portOf s p
    ((portOf (ghRecover s p c d) p).st = 4 ∧ (portOf (ghRecover s p c d) p).cause = c ∧ (portOf (ghRecover s p c d) p).peer = 0 ∧ (portOf (ghRecover s p c d) p).tbEntered = s.tb ∧ (portOf (ghRecover s p c d) p).left = true) ∧
    ((g.st ≠ 3 ∨ (s.seats = [] ∧ ∀ a ∈ s.advFar, a.port ≠ p)) → let t := ghRecover s p c d
      (portOf t p).entries = s.tb :: g.entries.filter (fun x => !tbPast s.tb x 3600000000000) ∧ (∀ q, q ≠ p → portOf t q = portOf s q) ∧ t.sent = s.sent ∧ t.mem = s.mem) ∧
    (g.st ≠ 3 → ghRecover s p c d = { s with ghPorts := (ghRecover s p c d).ghPorts }) ∧
    (g.st = 3 → let u := ghClose s p d
      ∃ e, (ghRecover s p c d).errLog = keepNewest 4096 (u.errLog ++ [e]) ∧ e.kind = 0x04 ∧ e.mechanism = 7 ∧ e.island = 2336 + p / 2 ∧ e.detail0 = p)) ∧
  (∀ (s : State) (p : GhPortId) (gv : Fin 6) (d : U32) (h : U64),
    let g := portOf s p.val
    let w := h.toNat
    (g.st ≠ 3 → exec (.ghFlitError p d) s = .next s ∧ exec (.ghFecLockLoss p d) s = .next s ∧ exec (.ghCreditStall p gv d) s = .next s ∧ exec (.ghFlitHeaderReceive p h d) s = .next s ∧
      exec (.ghTagFlitReceive p true d) s = .next s ∧ exec (.ghTagFlitReceive p false d) s = .next s) ∧
    (g.st = 3 →
      exec (.ghFecLockLoss p d) s = .next (ghRecover s p.val 5 d.toNat) ∧ (ghStalled s p.val gv.val = true → exec (.ghCreditStall p gv d) s = .next (ghRecover (pinc s P.ghCreditStalls) p.val (6 + 16 * gv.val) d.toNat)) ∧
      (ghStalled s p.val gv.val = false → exec (.ghCreditStall p gv d) s = .next s) ∧
      exec (.ghTagFlitReceive p false d) s = .next (ghRecover (pinc s P.linkAuthFailures) p.val 4 d.toNat) ∧
      exec (.ghTagFlitReceive p true d) s = .next (portPut s p.val { g with group := g.group + 1 }) ∧
      (g.rxReplays < 3 → (g.replays.filter (fun t => !tbPast s.tb t 1000000)).length < 1000 → ∃ t, exec (.ghFlitError p d) s = .next t ∧
        portOf t p.val = { g with rxReplays := g.rxReplays + 1, replays := s.tb :: g.replays.filter (fun t => !tbPast s.tb t 1000000) } ∧
        pget t (P.ghReplays p.val) = satInc32 (pget s (P.ghReplays p.val)) ∧ t.sent = s.sent ++ [.ghengo p.val 3 [g.rxSeq]] ∧ t = { s with regs := t.regs, ghPorts := t.ghPorts, sent := t.sent }) ∧
      ((3 ≤ g.rxReplays ∨ 1000 ≤ (g.replays.filter (fun t => !tbPast s.tb t 1000000)).length) → ∃ t, exec (.ghFlitError p d) s = .next t ∧ (portOf t p.val).st = 4 ∧ (portOf t p.val).cause = 3) ∧
      ((bitsOf w 27 26 = 3 ∨ bitsOf w 25 0 ≠ 0) → exec (.ghFlitHeaderReceive p h d) s = .next s) ∧
      (bitsOf w 25 0 = 0 → bitOf w 39 = false → ((bitsOf w 27 26 = 1 ∧ bitsOf w 63 52 = g.rxSeq) ∨ ((bitsOf w 27 26 = 0 ∨ bitsOf w 27 26 = 2) ∧ bitsOf w 63 52 = (g.rxSeq + 1) % 4096)) →
        ∃ t, exec (.ghFlitHeaderReceive p h d) s = .next (ghFlush t) ∧ t = { s with ghPorts := t.ghPorts } ∧ (portOf t p.val).rxSeq = bitsOf w 63 52 ∧ (portOf t p.val).ackSeq = bitsOf w 51 40 ∧ (portOf t p.val).st = 3 ∧
          (bitsOf w 38 36 < 6 → (portOf t p.val).credit = g.credit.set (bitsOf w 38 36) (g.credit.getD (bitsOf w 38 36) 0 + bitsOf w 35 28)) ∧ (6 ≤ bitsOf w 38 36 → (portOf t p.val).credit = g.credit)))) ∧
  (∀ (s : State) (p : GhPortId) (src agent : U16) (b : GhBind) (off : BitVec 48) (tag : U32) (ck : ChanCheck) (op : GhOp) (d : U32),
    let credited := fun (x : GhOp) => emit s (.ghengo p.val 6 [flitHeader { ackSeq := (portOf s p.val).rxSeq, creditVc := ghOpGv x, creditCount := ghOpUnits x }])
    let back := fun (r : Req) => if reqAsks r then NetBack.ghengo p.val (bindIds b).1 (bindIds b).2 agent.toNat tag.toNat else .none
    ((portOf s p.val).st ≠ 3 → exec (.ghPacketReceive p ⟨src, agent, tag⟩ b off op ck (some d)) s = .next s ∧ exec (.ghPacketReceive p ⟨src, agent, tag⟩ b off op ck none) s = .next s) ∧
    ((portOf s p.val).st = 3 →
      exec (.ghPacketReceive p ⟨src, agent, tag⟩ b off op ck (some d)) s = .next (ghRecover s p.val 4 d.toNat) ∧
      (∀ st, exec (.ghPacketReceive p ⟨src, agent, tag⟩ b off (.response st) ck none) s = .next (ghResponse (credited (.response st)) p.val tag.toNat st.val)) ∧
      (∀ r : Req, reqLen r ≤ 256 → (∀ x, bindTo (credited (.req r)) p.val src.toNat b off.toNat (reqLen r) = some x →
          exec (.ghPacketReceive p ⟨src, agent, tag⟩ b off (.req r) ck none) s = .next (if ghHeldOff s p.val x then s else ghServe (credited (.req r)) p.val src.toNat b off.toNat x (back r) r { check := ck })) ∧
        (bindTo (credited (.req r)) p.val src.toNat b off.toNat (reqLen r) = none → exec (.ghPacketReceive p ⟨src, agent, tag⟩ b off (.req r) ck none) s =
          .next (if reqAsks r then farRespond (pinc (credited (.req r)) P.ghRxDenied) p.val (bindIds b).1 (bindIds b).2 agent.toNat tag.toNat 4 [] else pinc (credited (.req r)) P.ghRxDenied))) ∧
      (∀ r : Req, 256 < reqLen r → exec (.ghPacketReceive p ⟨src, agent, tag⟩ b off (.req r) ck none) s = .next (credited (.req r))) ∧
      (∀ v : Bool, (bindTo (credited (.peg v)) p.val src.toNat b off.toNat 8 = none → exec (.ghPacketReceive p ⟨src, agent, tag⟩ b off (.peg v) ck none) s = .next (pinc (credited (.peg v)) P.ghRxDenied)) ∧
        ∀ x, bindTo (credited (.peg v)) p.val src.toNat b off.toNat 8 = some x → exec (.ghPacketReceive p ⟨src, agent, tag⟩ b off (.peg v) ck none) s =
          .next (if ghHeldOff s p.val x then s else ghServe (credited (.peg v)) p.val src.toNat b off.toNat x .none (.write false (leBytes 8 (if v then 1 else 0))) { check := ck })) ∧
      (∀ g l f fr ba fl we ws, let s1 := credited (.red g l f fr ba fl we ws)
        let denied := farRespond (pinc s1 P.ghRxDenied) p.val (bindIds b).1 (bindIds b).2 agent.toNat tag.toNat 4 []
        (((bindIds b).1 ≠ 1 ∨ (ws.length ≠ 4 ∧ ws.length ≠ 16) ∨ ghRedSlot s1 p.val src.toNat (bindIds b).2 off.toNat = none) →
          exec (.ghPacketReceive p ⟨src, agent, tag⟩ b off (.red g l f fr ba fl we ws) ck none) s = .next denied) ∧
        (∀ sl dest, (bindIds b).1 = 1 → (ws.length = 4 ∨ ws.length = 16) → ghRedSlot s1 p.val src.toNat (bindIds b).2 off.toNat = some (sl, dest) →
          ∃ k, exec (.ghPacketReceive p ⟨src, agent, tag⟩ b off (.red g l f fr ba fl we ws) ck none) s = .next { s1 with red := s.red ++ [k], nextId := s.nextId + 1 } ∧
            k.slot = sl ∧ k.dest = dest ∧ k.group = g.toNat ∧ k.lseat = l.toNat ∧ k.first = f.toNat ∧ k.fret = fr ∧ k.base = ba.toNat ∧ k.flags = fl.toNat % 4 ∧ k.weight = we.toNat ∧
            k.words = ws.map (·.toNat) ∧ k.src = [.remote p.val (bindIds b).2 agent.toNat tag.toNat])) ∧
      ((portOf s p.val).peer ≠ src.toNat → (∀ n, bindTo s p.val src.toNat b off.toNat n = none) ∧ ghRedSlot s p.val src.toNat (bindIds b).2 off.toNat = none))) ∧
  (∀ (s : State) (seat : SeatId),
    let after := pget s P.ghReqTimeoutUs * 1000
    let gone := { pinc s P.ghTimeouts with ghLate := s.ghLate + 1 }
    ((seatOf s seat.val).core.wait = .none → exec (.ghRequestTimeout seat .core) s = .next s) ∧ ((seatOf s seat.val).core.stores = [] → exec (.ghRequestTimeout seat .store) s = .next s) ∧
    (∀ va ga c, waitAddr (seatOf s seat.val).core.wait = some (va, ga, c) →
      (overGhengo s ga = true → tbPast s.tb (seatOf s seat.val).core.tbWait after = true → exec (.ghRequestTimeout seat .core) s = .next (ghAnswer (pinc s P.ghTimeouts) seat.val)) ∧
      ((overGhengo s ga = false ∨ tbPast s.tb (seatOf s seat.val).core.tbWait after = false) → exec (.ghRequestTimeout seat .core) s = .next s)) ∧
    (∀ x rest, (seatOf s seat.val).core.stores = x :: rest →
      ((overGhengo s x.ga = false ∨ tbPast s.tb x.tb after = false) → exec (.ghRequestTimeout seat .store) s = .next s) ∧
      (overGhengo s x.ga = true → tbPast s.tb x.tb after = true →
        let s1 := ghFlush (corePut gone seat.val { (seatOf s seat.val).core with stores := rest })
        exec (.ghRequestTimeout seat .store) s = .next (if (seatOf s seat.val).mode = .run then coreStatus s1 seat.val stTimeout x.va x.ga 7 else catchSettle s1 seat.val))) ∧
    (∀ w : U32, (xferFind s seat.val w.toNat = none → exec (.ghRequestTimeout seat (.transfer w)) s = .next s) ∧
      (∀ x env, xferFind s seat.val w.toNat = some x → xEnv s seat.val = some env →
        ((x.st ≠ .active ∨ tbPast s.tb x.tbSent after = false ∨ (x.unacked = 0 ∧ x.waits = none)) → exec (.ghRequestTimeout seat (.transfer w)) s = .next s) ∧
        (x.st = .active → tbPast s.tb x.tbSent after = true → 0 < x.unacked → exec (.ghRequestTimeout seat (.transfer w)) s =
          .next (xferFail (ghTimeout (redForget s seat.val x.ticket)) seat.val env x 0x27)) ∧
        (∀ acc va ga, x.st = .active → tbPast s.tb x.tbSent after = true → x.unacked = 0 → x.waits = some (acc, va, ga) → exec (.ghRequestTimeout seat (.transfer w)) s =
          .next (if overGhengo s ga then xferStop gone seat.val env x x.cursor (.status stTimeout acc va ga) else s))))) ∧
  (∀ (s : State) (seat : SeatId) (tag : U32) (x : AdvFar), (s.advFar.find? (fun a => a.tag == tag.toNat) = none → exec (.ghRequestTimeout seat (.advance tag)) s = .next s) ∧
    (s.advFar.find? (fun a => a.tag == tag.toNat) = some x →
      exec (.ghRequestTimeout seat (.advance tag)) s = .next (if tbPast s.tb x.tb (pget s P.ghReqTimeoutUs * 1000) then ctxLoss { pinc s P.ghTimeouts with advFar := s.advFar.erase x, ghLate := s.ghLate + 1 } x.ctx none false else s))) ∧
  (∀ (s : State) (p tag st : Nat), (s.advFar.find? (fun a => a.tag == tag && a.port == p) = none → ghResponse s p tag st = if s.ghLate = 0 then s else pinc { s with ghLate := s.ghLate - 1 } P.ghLateResponses) ∧
    (∀ a, s.advFar.find? (fun a => a.tag == tag && a.port == p) = some a → let u := { s with advFar := s.advFar.erase a }
      ghResponse s p tag st = if st = stOk then advanced u a.ctx a.fence a.value else ctxLoss u a.ctx none false)) ∧
  (∀ (s : State) (w : GhWait),
    let g := portOf s w.port
    let c := g.credit.getD w.gv 0
    ((16 ≤ w.port ∨ g.st ≠ 3) → ghOut s w = s) ∧
    (w.port < 16 → g.st = 3 → (c < w.units ∨ (∃ x ∈ (seatOf s w.agent).core.stores, x.tag ∈ w.after) ∨ (∃ x ∈ s.ghWaiting, x.port = w.port ∧ x.gv = w.gv ∧ x.agent = w.agent) ∨
        (w.gv = 3 ∧ ∃ x ∈ s.ghWaiting, x.gv = 0 ∧ x.agent = w.agent ∧ ghDst x = ghDst w)) →
      ghOut s w = { s with ghWaiting := s.ghWaiting ++ [w] }) ∧
    (w.port < 16 → g.st = 3 → w.units ≤ c → (∀ x ∈ (seatOf s w.agent).core.stores, x.tag ∉ w.after) → (∀ x ∈ s.ghWaiting, x.port ≠ w.port ∨ x.gv ≠ w.gv) → (w.gv = 3 → ∀ x ∈ s.ghWaiting, x.gv ≠ 0 ∨ x.agent ≠ w.agent ∨ ghDst x ≠ ghDst w) →
      (ghOut s w).sent = s.sent ++ [w.out] ∧ (portOf (ghOut s w) w.port).credit = g.credit.set w.gv (c - w.units) ∧
      ghOut s w = { s with ghPorts := (ghOut s w).ghPorts, sent := (ghOut s w).sent })) ∧
  (∀ (s : State) (agent port dst gv : Nat) (x : PendStore), x ∈ (seatOf s agent).core.stores →
    (∀ p, x.gh = some (p, dst, 0) → gv = 3 → x.tag ∈ ghAfter s agent port dst gv) ∧ (∀ p, x.gh = some (p, dst, gv) → p ≠ port → x.tag ∈ ghAfter s agent port dst gv) ∧
    (∀ p d g, x.gh = some (p, d, g) → x.tag ∉ ghAfter s agent port dst gv → d ≠ dst ∨ (g ≠ gv ∧ ¬ (gv = 3 ∧ g = 0)) ∨ (g = gv ∧ p = port)))

/-- Once the islands run a message is taken up only when it comes from the peer of a port that is UP, or from the module itself, and is otherwise discarded and counted; a repeated TXN_ID receives the stored response and does nothing else. A lender answers LEASE_REQUEST with the first failing code, or grants: the epoch and the next identifier advance, the resources and far-end ports are held, and the record goes back with both. A renewal at the granted epoch restarts the term, a query is answered 0x0000, and a message of another epoch or ended lease is refused 0x0506. A return, a full term without renewal, and ADM_LENT_REVOKE end the lease with causes 1, 2 and 3 and advance the epoch; before the term is up nothing ends, and revoking an unknown lease does nothing. The lease commands act at full function alone. The borrower sends LEASE_REQUEST when its local checks pass and otherwise sets the code, returns only a HELD lease, renews a HELD or RIGGED one, and loses a HELD or RIGGED lease revoked at its epoch, or unanswered for three quarters of a term; a revoke that names none is counted. A request unanswered for ADM_RETRY_US is sent again, at most four times, and a response that matches no request is counted. A lender performs a seat action only under a live lease over one of its ports, otherwise answers NO_TARGET; a report or a fault report is taken only of a lease that is RIGGED, over one of its ports. -/
def Obligations.Leases : Prop :=
  (∀ (s : State) (h : GhHead) (r : BitVec 256) (m : AdmMsg) (c : U16),
    let d : Bool := if h.port.val = 16 then s.start.islandsUp && h.src.toNat == ownModule s else (portOf s h.port.val).st == 3 && (portOf s h.port.val).peer == h.src.toNat
    let q : AdmHead := { src := h.src.toNat, dst := ownModule s, txn := h.txn.toNat, epoch := h.epoch.toNat, key := h.key.toNat, arg := h.arg.toNat }
    let again := fun (k : GhKept) (x : AdmMsg) => Host.Outcome.next (admOut s (portToward s q.src) { src := q.dst, dst := q.src, txn := q.txn, epoch := k.head.epoch, code := k.head.code, key := q.key, arg := k.head.arg } x true k.body)
    (d = false → (∀ i ∈ [Instr.leaseRequest h r, .leaseRenew h, .leaseReturn h, .leaseRevoke h, .epochQuery h, .admResponse h m c r], exec i s = .next (if s.start.islandsUp then pinc s P.ghRxDenied else s))) ∧
    (d = true → ∀ k, keptFor s q.src q.txn = some k → exec (.leaseRequest h r) s = again k .leaseRequest ∧ exec (.leaseRenew h) s = again k .leaseRenew ∧
      exec (.leaseReturn h) s = again k .leaseReturn ∧ exec (.epochQuery h) s = again k .epochQuery) ∧
    (d = true → keptFor s q.src q.txn = none →
      (∀ code, lendCode s q.src r.toNat = code → code ≠ 0 → exec (.leaseRequest h r) s = .next (admAnswer s q .leaseRequest false s.shardEpoch code 0 [])) ∧
      (lendCode s q.src r.toNat = 0 → ∃ t, exec (.leaseRequest h r) s = .next t ∧ t.shardEpoch = (s.shardEpoch + 1) % 2 ^ 32 ∧ t.nextLease = (s.nextLease + 1) % 2 ^ 32 ∧
        (∃ l ∈ t.lent, l.id = s.nextLease ∧ l.borrower = q.src ∧ l.epoch = t.shardEpoch ∧ l.kind = leaseKind r.toNat ∧ l.res = lendable s (leaseKind r.toNat) (leaseCount r.toNat) ∧
          l.ports = farEnds s q.src (leasePorts r.toNat) ∧ l.tbGrant = s.tb ∧ l.tbRenew = s.tb) ∧
        (s.ghWaiting = [] → (∀ p, (portOf s p).st = 3 → 2 ≤ (portOf s p).credit.getD 5 0) → ∃ p a, t.sent.getLast? = some (.adm p a .leaseRequest true [r.toNat + s.nextLease * 2 ^ 208 + t.shardEpoch * 2 ^ 176]) ∧ a.code = 0 ∧ a.txn = q.txn)) ∧
      (lentNamed s q = none → exec (.leaseRenew h) s = .next (admAnswer s q .leaseRenew false s.shardEpoch 0x0506 0 []) ∧ exec (.epochQuery h) s = .next (admAnswer s q .epochQuery false s.shardEpoch 0x0506 0 []) ∧
        exec (.leaseReturn h) s = .next (admAnswer s q .leaseReturn false s.shardEpoch 0x0506 0 [])) ∧
      (∀ l, lentNamed s q = some l → exec (.epochQuery h) s = .next (admAnswer s q .epochQuery false l.epoch 0 0 []) ∧
        exec (.leaseRenew h) s = .next (admAnswer { s with lent := s.lent.map (fun x => if x.id = l.id then { x with tbRenew := s.tb } else x) } q .leaseRenew false l.epoch 0 0 []) ∧
        exec (.leaseReturn h) s = .next (lentSettle (leaseEnd (admHold s q .leaseReturn []) l.id 1 (some q))))) ∧
    (d = true →
      (∀ l, s.borrowed.find? (fun l => leaseLender l.record == q.src && leaseId l.record == q.key % 2 ^ 32 && leaseEpoch l.record == q.epoch && (l.st == 2 || l.st == 3)) = some l → exec (.leaseRevoke h) s = .next (leaseLose s l.record)) ∧
      (s.borrowed.find? (fun l => leaseLender l.record == q.src && leaseId l.record == q.key % 2 ^ 32 && leaseEpoch l.record == q.epoch && (l.st == 2 || l.st == 3)) = none → exec (.leaseRevoke h) s = .next (pinc s P.admProtocolErrors)) ∧
      (s.ghMsgs.find? (fun x => x.head.txn == q.txn && x.head.dst == q.src && x.msg == m) = none → exec (.admResponse h m c r) s = .next (pinc s P.admProtocolErrors)) ∧
      (∀ x, s.ghMsgs.find? (fun x => x.head.txn == q.txn && x.head.dst == q.src && x.msg == m) = some x →
        (bitOf q.arg 0 = true → exec (.admResponse h m c r) s = .next { s with ghMsgs := s.ghMsgs.map (fun y => if y.head.txn = q.txn then { y with sends := 0, tbLast := s.tb } else y) }) ∧
        (bitOf q.arg 0 = false → exec (.admResponse h m c r) s = .next (admOutcome { s with ghMsgs := s.ghMsgs.filter (fun y => y.head.txn != q.txn) } x c.toNat q.epoch q.arg r.toNat))))) ∧
  (∀ (s : State) (q : AdmHead) (m : AdmMsg) (e c a : Nat) (b : List Nat), let t := admAnswer s q m false e c a b
    t = { s with ghKept := t.ghKept, ghPorts := t.ghPorts, ghWaiting := t.ghWaiting, sent := t.sent } ∧
    (reaches s q.src = true → s.ghWaiting = [] → (∀ p, (portOf s p).st = 3 → 2 ≤ (portOf s p).credit.getD 5 0) →
      t.sent = s.sent ++ [.adm (portToward s q.src) { src := ownModule s, dst := q.src, txn := q.txn, epoch := e, code := c, key := q.key, arg := a } m true b]) ∧
    (reaches s q.src = false → t.sent = s.sent) ∧
    ∃ k, keptFor t q.src q.txn = some k ∧ k.head.code = c ∧ k.head.epoch = e ∧ k.head.arg = a ∧ k.body = b ∧ k.busy = false) ∧
  (∀ (s : State) (id cause : Nat) (q : Option AdmHead) (l : LeaseOut), s.lent.find? (fun x => x.id == id) = some l → let t := leaseEnd s id cause q
    t.shardEpoch = (s.shardEpoch + 1) % 2 ^ 32 ∧ (∀ x ∈ t.lent, x.id ≠ id) ∧ ({ l with returned := q }, cause) ∈ t.lentEnding ∧
    (l.kind = 1 → ∀ r ∈ l.res, t.scrubSeats.contains r = true) ∧ (l.kind ≠ 1 → ∀ r ∈ l.res, t.scrubChans.contains r = true)) ∧
  (∀ (s : State) (m : U16) (id : U32), fullUp s = false → exec (.admLentRevoke id) s = .next s ∧ exec (.admLeaseCmdRequest m) s = .next s ∧ exec (.admLeaseCmdReturn m id) s = .next s) ∧
  (∀ (s : State) (id : U32),
    (s.lent.find? (fun x => x.id == id.toNat) = none → exec (.admLentRevoke id) s = .next s ∧ exec (.leaseExpiryTimer id) s = .next s) ∧
    (∀ l, s.lent.find? (fun x => x.id == id.toNat) = some l → (fullUp s = true → exec (.admLentRevoke id) s = .next (leaseEnd (admOnce s l.borrower .leaseRevoke l.epoch id.toNat 0 []) id.toNat 3 none)) ∧
      (tbPast s.tb l.tbRenew (l.termMs * 1000000) = true → exec (.leaseExpiryTimer id) s = .next (leaseEnd s l.id 2 none)) ∧
      (tbPast s.tb l.tbRenew (l.termMs * 1000000) = false → exec (.leaseExpiryTimer id) s = .next s))) ∧
  (∀ (s : State) (m : U16) (id : U32), fullUp s = true →
    let r := leNat (octGet s P.admLeaseReq)
    let r1 := r - bitsOf r 95 88 * 2 ^ 88
    let held := s.borrowed.find? (fun l => leaseId l.record == id.toNat && leaseLender l.record == m.toNat && l.st == 2)
    (∀ c, leaseRequestCode s (pack [(16, m.toNat), (0, 1)]) r1 = c → (c ≠ 0 → exec (.admLeaseCmdRequest m) s = .next (pset s P.admLeaseResult c)) ∧
      (c = 0 → exec (.admLeaseCmdRequest m) s = .next (admSend s (leaseLender r1) .leaseRequest 0 0 0 [r1]))) ∧
    (held = none → exec (.admLeaseCmdReturn m id) s = .next (pset s P.admLeaseResult 0x050A)) ∧
    (∀ l, held = some l → exec (.admLeaseCmdReturn m id) s = .next (admSend { s with borrowed := s.borrowed.map (fun x => if x.record = l.record then { x with st := 4 } else x) }
      (leaseLender l.record) .leaseReturn (leaseEpoch l.record) (leaseId l.record) 0 []))) ∧
  (∀ (s : State) (m : U16) (id : U32), let held := s.borrowed.find? (fun l => leaseLender l.record == m.toNat && leaseId l.record == id.toNat && (l.st == 2 || l.st == 3))
    (held = none → exec (.leaseRenewTimer m id) s = .next s ∧ exec (.leaseLossTimer m id) s = .next s) ∧
    (∀ l, held = some l → exec (.leaseRenewTimer m id) s = .next (admSend s m.toNat .leaseRenew (leaseEpoch l.record) id.toNat 0 []) ∧
      (tbPast s.tb l.tbAnswered (leaseTerm s l.record * 750000) = true → exec (.leaseLossTimer m id) s = .next (leaseLose s l.record)) ∧
      (tbPast s.tb l.tbAnswered (leaseTerm s l.record * 750000) = false → exec (.leaseLossTimer m id) s = .next s))) ∧
  (∀ (s : State) (dst e k a : Nat) (m : AdmMsg) (b : List Nat), let t := admSend s dst m e k a b
    let h : AdmHead := { src := ownModule s, dst := dst, txn := s.ghTxn, epoch := e, key := k, arg := a }
    t = { s with ghTxn := (s.ghTxn + 1) % 2 ^ 32, ghMsgs := s.ghMsgs ++ [{ head := h, msg := m, body := b, tb := s.tb, tbLast := s.tb }], ghPorts := t.ghPorts, ghWaiting := t.ghWaiting, sent := t.sent } ∧
    (admPort s dst m k ≠ 17 → s.ghWaiting = [] → (∀ p, (portOf s p).st = 3 → 2 ≤ (portOf s p).credit.getD 5 0) → t.sent = s.sent ++ [.adm (admPort s dst m k) h m false b]) ∧
    (admPort s dst m k = 17 → t.sent = s.sent) ∧ (m ≠ .chOpen → m ≠ .chClose → admPort s dst m k = portToward s dst) ∧ (reaches s dst = true → portToward s dst ≠ 17)) ∧
  (∀ (s : State) (n : U32), (s.ghMsgs.find? (fun m => m.head.txn == n.toNat) = none → exec (.admRetryTimer n) s = .next s) ∧
    (∀ m, s.ghMsgs.find? (fun m => m.head.txn == n.toNat) = some m →
      (tbPast s.tb m.tbLast (pget s P.admRetryUs * 1000) = false → exec (.admRetryTimer n) s = .next s) ∧
      (tbPast s.tb m.tbLast (pget s P.admRetryUs * 1000) = true → m.once = false → m.sends < 4 → ∃ t, exec (.admRetryTimer n) s = .next t ∧
        t = { s with ghMsgs := s.ghMsgs.map (fun x => if x.head.txn = m.head.txn then { x with sends := m.sends + 1, tbLast := s.tb } else x), ghPorts := t.ghPorts, ghWaiting := t.ghWaiting, sent := t.sent } ∧
        (admPort s m.head.dst m.msg m.head.key ≠ 17 → s.ghWaiting = [] → (∀ p, (portOf s p).st = 3 → 2 ≤ (portOf s p).credit.getD 5 0) → t.sent = s.sent ++ [.adm (admPort s m.head.dst m.msg m.head.key) m.head m.msg false m.body])) ∧
      (tbPast s.tb m.tbLast (pget s P.admRetryUs * 1000) = true → m.once = false → 4 ≤ m.sends →
        exec (.admRetryTimer n) s = .next (admOutcome { s with ghMsgs := s.ghMsgs.filter (fun x => x.head.txn != m.head.txn) } m 0x0503 0 0 0)))) ∧
  (∀ (s : State) (p : GhPortId) (src : U16) (lease : U32) (j : U16) (a : SeatAction),
    let no := Host.Outcome.next (emit (pinc s P.ghRxDenied) (.module src.toNat 9 [lease.toNat, j.toNat, 4]))
    (s.start.islandsUp = false → exec (.gv4SeatAction p src lease j a) s = .next s) ∧
    (s.start.islandsUp = true → lentVia s p.val src.toNat lease.toNat = none → exec (.gv4SeatAction p src lease j a) s = no) ∧
    (s.start.islandsUp = true → ∀ l, lentVia s p.val src.toNat lease.toNat = some l → ((l.kind ≠ 1 ∨ l.res[j.toNat]? = none) → exec (.gv4SeatAction p src lease j a) s = no) ∧
      (∀ i, l.kind = 1 → l.res[j.toNat]? = some i →
        exec (.gv4SeatAction p src lease j a) s = .next (seatAct s l j.toNat i a) ∧
        seatAct s l j.toNat i .scrub = reportSend (seatScrub s i) l j.toNat .done ∧ seatOf (seatAct s l j.toNat i .scrub) i = seatFresh s (seatOf s i) ∧
        (seatOf (seatAct s l j.toNat i .stop) i).mode = .stopped ∧ (seatOf (seatAct s l j.toNat i .save) i).mode = .idle ∧
        (∀ sl n k e g, (seatOf (seatAct s l j.toNat i (.start sl n k e g)) i).mode = .run ∧ (seatOf (seatAct s l j.toNat i (.start sl n k e g)) i).core.pc = e.toNat)))) ∧
  (∀ (s : State) (p : GhPortId) (src : U16) (lease : U32) (j : U16) (r : SeatReport) (mech : Fin 16) (kind : U8) (tbd : U64) (f : Option U64),
    let from_ := (portOf s p.val).st = 3 ∧ (portOf s p.val).peer = src.toNat
    (¬ from_ → leaseSlot s p.val src.toNat lease.toNat = none) ∧
    (leaseSlot s p.val src.toNat lease.toNat = none → exec (.gv4ActionReport p src lease j r) s = .next (if s.start.islandsUp then pinc s P.ghRxDenied else s) ∧
      exec (.leaseFaultReport p src lease mech kind tbd f) s = .next (if s.start.islandsUp then pinc s P.ghRxDenied else s)) ∧
    (∀ slot rec_, leaseSlot s p.val src.toNat lease.toNat = some (slot, rec_) → from_ ∧ bitOf (bitsOf rec_ 143 128) p.val = true ∧
      (∀ k, (leasedSeats (shellOf s slot)).idxOf? (rec_, j.toNat) = some k → exec (.gv4ActionReport p src lease j r) s = .next (reportTake s slot (rec_, j.toNat) ((shellOf s slot).rig.seats.length + k) r)) ∧
      (∀ i, mechInterval mech.val = some i → exec (.leaseFaultReport p src lease mech kind tbd f) s = .next (safetyEvent s slot mech.val kind.toNat (some (tbd.toNat - i - 10000)) { tbDetect := tbd.toNat })) ∧
      (mechInterval mech.val = none → exec (.leaseFaultReport p src lease mech kind tbd f) s = .next (safetyEvent s slot mech.val kind.toNat (f.map (fun x => x.toNat - 10000)) { tbDetect := tbd.toNat }))))

/-- GHENGO_OPEN reports the first failing code; one that passes makes its channel OPENING for the issuing context with a fresh nonce and sends CH_OPEN over Ghengo; a CH_OPEN of the peer that waits here is answered and opens it at once. A received CH_OPEN that matches a local channel is answered with its LSEAT_COUNT and opens an OPENING channel with the sender's count as extent; one that matches none waits, and is refused 0x050C after GH_CHANNEL_WAIT_MS, as is the local open. GHENGO_CLOSE of a channel that is closed, aborting or of another context is refused 0x050B and otherwise begins the forced abort, which sends CH_CLOSE once; at its end the channel is CLOSED, what the shell's seats still had in its aperture is answered TIMEOUT, and the result word is 0. CH_CLOSE of the channel's own peer, and every port of the peer out of UP for ADM_LEASE_MS, make an OPEN channel PEER_GONE; a message of another channel, and a time not yet over, change nothing. The places of channel numbers and counts in a message are the model's choice (log 27). -/
def Obligations.Channels : Prop :=
  (∀ (s : State) (ctx : U16), (frontUp s = false ∨ (ctxOf s ctx.toNat).cmds = []) → exec (.cmdGhengoClose ctx) s = .next s ∧ exec (.cmdGhengoOpen ctx) s = .next s) ∧
  (∀ (s : State) (ctx : U16) (q : QCmd) (rest : List QCmd), (ctxOf s ctx.toNat).cmds = q :: rest → headReady (ctxOf s ctx.toNat) q = true → frontUp s = true →
    let cid := ctx.toNat
    let u := (takeHead s cid q).1
    let h := (takeHead s cid q).2
    let n := h.pl 511 504
    (q.opcode ≠ 0x16 → exec (.cmdGhengoOpen ctx) s = .next s) ∧ (q.opcode ≠ 0x17 → exec (.cmdGhengoClose ctx) s = .next s) ∧
    (q.opcode = 0x16 → (ghengoOpenCode u cid h ≠ 0 → exec (.cmdGhengoOpen ctx) s = .next (stampHead (privEnd u cid h (ghengoOpenCode u cid h)) cid)) ∧
      (ghengoOpenCode u cid h = 0 → ∃ t, exec (.cmdGhengoOpen ctx) s = .next (stampHead (match t.ghKept.find? (chWaitFor t (gchanOf t n) n) with
          | some k => channelOpened (admAnswer t k.head .chOpen false 0 0 (2 * h.pl 451 436) []) n (k.body.headD 0 / 2)
          | none => t) cid) ∧ (gchanOf t n).st = .opening ∧ (gchanOf t n).ctx = cid ∧ (gchanOf t n).peer = h.pl 503 488 ∧
        (gchanOf t n).peerChan = h.pl 487 480 ∧ (gchanOf t n).shell = h.pl 479 475 ∧ (gchanOf t n).aperture = h.pl 474 468 ∧ (gchanOf t n).first = h.pl 467 452 ∧ (gchanOf t n).count = h.pl 451 436 ∧
        (gchanOf t n).tbOpen = u.tb ∧ (gchanOf t n).nonce = (freshNonce u).1 ∧ (gchanOf t n).cmdSeq = some h.seq ∧ (∀ k, k ≠ n → gchanOf t k = gchanOf u k) ∧
        (∃ m ∈ t.ghMsgs, m.msg = .chOpen ∧ m.head.dst = h.pl 503 488 ∧ m.head.key = n * 256 + h.pl 487 480 ∧ m.head.arg = 2 * h.pl 451 436 ∧ m.body = (freshNonce u).1.map (·.toNat)))) ∧
    (q.opcode = 0x17 →
      ((h.pl 503 320 ≠ 0 ∨ h.pl 319 256 % 8 ≠ 0) → exec (.cmdGhengoClose ctx) s = .next (stampHead (privEnd u cid h 0x0501) cid)) ∧
      (h.pl 503 320 = 0 → h.pl 319 256 % 8 = 0 →
        (((gchanOf u n).st = .closed ∨ (gchanOf u n).st = .aborting ∨ (gchanOf u n).ctx ≠ cid) → exec (.cmdGhengoClose ctx) s = .next (stampHead (privEnd u cid h 0x050B) cid)) ∧
        (((gchanOf u n).st = .opened ∨ (gchanOf u n).st = .peerGone) → (gchanOf u n).ctx = cid → ∃ t, exec (.cmdGhengoClose ctx) s = .next (stampHead t cid) ∧
          (gchanOf t n).st = .aborting ∧ (gchanOf t n).closeSeq = some h.seq ∧ (gchanOf t n).aperture = (gchanOf u n).aperture ∧ (∀ k, k ≠ n → gchanOf t k = gchanOf u k) ∧
          ((gchanOf u n).st = .peerGone → t.sent = u.sent) ∧
          ((gchanOf u n).st = .opened → u.ghWaiting = [] → (∀ p, (portOf u p).st = 3 → 2 ≤ (portOf u p).credit.getD 5 0) →
            (agentPort u 0xFFFF (gchanOf u n).peer (shellOf u (gchanOf u n).shell).rig.ports).isSome = true → ∃ p a, t.sent = u.sent ++ [.adm p a .chClose false []] ∧ a.dst = (gchanOf u n).peer ∧ a.key = n * 256 + (gchanOf u n).peerChan))))) ∧
  (∀ (s : State) (h : GhHead) (nonce : BitVec 256),
    let d : Bool := if h.port.val = 16 then s.start.islandsUp && h.src.toNat == ownModule s else (portOf s h.port.val).st == 3 && (portOf s h.port.val).peer == h.src.toNat
    let q : AdmHead := { src := h.src.toNat, dst := ownModule s, txn := h.txn.toNat, epoch := h.epoch.toNat, key := h.key.toNat, arg := h.arg.toNat }
    let n := q.key % 256
    let c := gchanOf s n
    let mine := c.peer = q.src ∧ c.peerChan = q.key / 256 % 256
    (d = false → exec (.chOpen h nonce) s = .next (if s.start.islandsUp then pinc s P.ghRxDenied else s) ∧ exec (.chClose h) s = .next (if s.start.islandsUp then pinc s P.ghRxDenied else s)) ∧
    (d = true → keptFor s q.src q.txn = none →
      ((¬ mine ∨ (c.st ≠ .opening ∧ c.st ≠ .opened)) → ∃ t, exec (.chOpen h nonce) s = .next t ∧ t = { s with ghKept := t.ghKept } ∧
        ∃ k, keptFor t q.src q.txn = some k ∧ k.busy = true ∧ k.msg = .chOpen ∧ k.body = [q.arg, nonce.toNat] ∧ k.tb = s.tb) ∧
      (mine → c.st = .opened → exec (.chOpen h nonce) s = .next (admAnswer s q .chOpen false 0 0 (2 * c.count) [])) ∧
      (mine → c.st = .opening → ∃ t, exec (.chOpen h nonce) s = .next (channelCmdEnd t c 0x16 c.cmdSeq 0) ∧ (gchanOf t n).st = .opened ∧ (gchanOf t n).extent = q.arg / 2 ∧ (gchanOf t n).cmdSeq = none ∧ (∀ k, k ≠ n → gchanOf t k = gchanOf s k) ∧
        (∀ m ∈ t.ghMsgs, m.msg = .chOpen → m.head.key / 256 % 256 ≠ n))) ∧
    (d = true → (mine → c.st = .opened → exec (.chClose h) s = .next (gchanPut s n { c with st := .peerGone })) ∧ ((¬ mine ∨ c.st ≠ .opened) → exec (.chClose h) s = .next s))) ∧
  (∀ (s : State) (ch : U8) (src : U16) (txn : U32),
    let n := ch.toNat
    let c := gchanOf s n
    let due := fun (t : Nat) => tbPast s.tb t (pget s P.ghChannelWaitMs * 1000000)
    let ports := (List.range 16).filter (fun p => (portOf s p).lastPeer == some c.peer)
    (c.st = .opening → due c.tbOpen = true → ∃ t, exec (.chMatchTimeout ch none) s = .next (channelCmdEnd t c 0x16 c.cmdSeq 0x050C) ∧ gchanOf t n = {} ∧ (∀ k, k ≠ n → gchanOf t k = gchanOf s k)) ∧
    ((c.st ≠ .opening ∨ due c.tbOpen = false) → exec (.chMatchTimeout ch none) s = .next s) ∧
    (∀ k, keptFor s src.toNat txn.toNat = some k →
      (k.busy = true → k.msg = .chOpen → due k.tb = true → exec (.chMatchTimeout ch (some (src, txn))) s = .next (admAnswer s k.head .chOpen false 0 0x050C 0 [])) ∧
      ((k.busy = false ∨ k.msg ≠ .chOpen ∨ due k.tb = false) → exec (.chMatchTimeout ch (some (src, txn))) s = .next s)) ∧
    (keptFor s src.toNat txn.toNat = none → exec (.chMatchTimeout ch (some (src, txn))) s = .next s) ∧
    (c.st = .opened → (∀ p ∈ ports, (portOf s p).st ≠ 3 ∧ tbPast s.tb (portOf s p).tbDown (pget s P.admLeaseMs * 1000000) = true) → exec (.peerGoneTimer ch) s = .next (gchanPut s n { c with st := .peerGone })) ∧
    ((c.st ≠ .opened ∨ ∃ p ∈ ports, (portOf s p).st = 3) → exec (.peerGoneTimer ch) s = .next s) ∧
    (c.st ≠ .aborting → exec (.channelAbortEnd ch) s = .next s) ∧
    (c.st = .aborting →
      let inside := fun (ga : Nat) => inPeerWindow ga && (ga - 0x800000000000) / 2 ^ 40 == c.aperture
      let seats := s.seats.filter (fun e => seatShell s e.1 == some c.shell)
      let waits := (seats.filter (fun e => match waitAddr e.2.core.wait with | some (_, ga, _) => inside ga | none => false)).map (·.1)
      exec (.channelAbortEnd ch) s = .next (channelCmdEnd (waits.foldl ghAnswer ((seats.map (·.1)).foldl (fun a i => xfersTimeout (storesTimeout a i (fun x => inside x.ga)) i inside) (gchanPut s n {}))) c 0x17 c.closeSeq 0))) ∧
  (∀ (s : State) (c : GhChan) (op code : Nat), channelCmdEnd s c op none code = s ∧ (∀ k, privFind s c.ctx op k = none → channelCmdEnd s c op (some k) code = s) ∧
    ∀ k q, privFind s c.ctx op k = some q → channelCmdEnd s c op (some k) code = privEnd s c.ctx q code) ∧
  (∀ (s : State) (n : Nat), gchanOf (gchanPut s n {}) n = {} ∧ ({} : GhChan).st = .closed)

/-- A member answers BH_ALLOC of a key it does not hold with the first failing code, or holds the key at its epoch on zeroed units of 2 MiB; BH_FREE at the key's epoch scrubs it and at another does nothing, with 0x0000 either way; a BH_ALLOC of a held key and a BH_MOVE of one that is moving or moved match no row of its table and are counted as protocol errors; a renewal or query at the epoch restarts expiry, at another, or of an unknown key, is answered 0x0506 with the epoch held or 0; BH_MOVE at the epoch begins the copy with an interim answer, each copied granule goes to the target, the last one answers 0x0000 and makes the key MOVED, and a target that fails answers 0x050F and leaves it HELD. A key without renewal for ADM_LEASE_MS is scrubbed and counted, and not before. At the home BH_LEASE reports the first failing code, or takes the next epoch and asks the member to allocate; BH_RELEASE frees a LIVE, RESOLVING or LOST key, and is refused 0x050A in the other states and 0x050D for an unknown one. An answered allocation makes the key LIVE; the final answer of a move is the commit point, after which owner and epoch are the target's; an owner that cannot be reached loses the key with 0x0510, and the answer 0x050F leaves it with its owner. LIVE keys are renewed, and resolved when no renewal is answered for three quarters of a term; a resolution of ADM_LEASE_MS makes the key ORPHANED. A member's answer at an epoch the home does not record is freed there. -/
def Obligations.Boathouse : Prop :=
  (∀ (s : State) (h : GhHead),
    let d : Bool := if h.port.val = 16 then s.start.islandsUp && h.src.toNat == ownModule s else (portOf s h.port.val).st == 3 && (portOf s h.port.val).peer == h.src.toNat
    let q : AdmHead := { src := h.src.toNat, dst := ownModule s, txn := h.txn.toNat, epoch := h.epoch.toNat, key := h.key.toNat, arg := h.arg.toNat }
    let n := bitsOf q.arg 9 0
    let no := fun (i : Instr) (m : AdmMsg) (e c : Nat) => exec i s = .next (admAnswer s q m false e c 0 [])
    (d = false → ∀ i ∈ [Instr.bhAlloc h, .bhFree h, .bhRenew h, .bhMove h, .bhQuery h], exec i s = .next (if s.start.islandsUp then pinc s P.ghRxDenied else s)) ∧
    (d = true → keptFor s q.src q.txn = none →
      (∀ k, heldKey s q.key = some k → exec (.bhAlloc h) s = .next (pinc s P.admProtocolErrors)) ∧
      (heldKey s q.key = none → (n = 0 ∨ 512 < n) → no (.bhAlloc h) .bhAlloc 0 0x0501) ∧
      (heldKey s q.key = none → 1 ≤ n → n ≤ 512 →
        (bhServes s = false → no (.bhAlloc h) .bhAlloc 0 0x0511) ∧ (bhServes s = true → (bhFree s).length < n → no (.bhAlloc h) .bhAlloc 0 0x050E) ∧
        (bhServes s = true → n ≤ (bhFree s).length → (∃ t k, exec (.bhAlloc h) s = .next (admAnswer t q .bhAlloc false q.epoch 0 0 []) ∧ heldKey t q.key = some k ∧ k.epoch = q.epoch ∧ k.home = q.src ∧ k.st = 1 ∧
            k.units = (bhFree s).take n ∧ k.tbRenew = s.tb ∧ k.bind = bitsOf q.arg 33 16 ∧ (∀ x, x ≠ q.key → heldKey t x = heldKey s x)))) ∧
      (heldKey s q.key = none → no (.bhFree h) .bhFree q.epoch 0 ∧ no (.bhRenew h) .bhRenew 0 0x0506 ∧ no (.bhQuery h) .bhQuery 0 0x0506 ∧ no (.bhMove h) .bhMove 0 0x0506) ∧
      (∀ k, heldKey s q.key = some k →
        (k.epoch ≠ q.epoch → no (.bhFree h) .bhFree q.epoch 0 ∧ no (.bhRenew h) .bhRenew k.epoch 0x0506 ∧ no (.bhQuery h) .bhQuery k.epoch 0x0506 ∧ no (.bhMove h) .bhMove k.epoch 0x0506) ∧
        (k.epoch = q.epoch →
          exec (.bhFree h) s = .next (admAnswer (heldDrop s q.key) q .bhFree false q.epoch 0 0 []) ∧
          exec (.bhRenew h) s = .next (admAnswer (heldPut s { k with tbRenew := s.tb }) q .bhRenew false k.epoch 0 0 []) ∧
          exec (.bhQuery h) s = .next (admAnswer (heldPut s { k with tbRenew := s.tb }) q .bhQuery false k.epoch 0 0 []) ∧
          (k.st ≠ 1 → exec (.bhMove h) s = .next (pinc s P.admProtocolErrors)) ∧
          (k.st = 1 → exec (.bhMove h) s = .next (admAnswer (heldPut s { k with st := 2, target := bitsOf q.arg 47 32, epoch2 := bitsOf q.arg 31 0, copied := 0, moveHead := some q }) q .bhMove true k.epoch 0 0 [])))))) ∧
  (∀ (s : State) (key : Nat) (k : BhHeld), heldKey s key = some k → let t := heldDrop s key
    heldKey t key = none ∧ (∀ x, x ≠ key → heldKey t x = heldKey s x) ∧ (∀ u ∈ k.units, ∀ a, u ≤ a → a < u + 0x200000 → memGet t a = 0) ∧
    (∀ a, (∀ u ∈ k.units, a < u ∨ u + 0x200000 ≤ a) → memGet t a = memGet s a)) ∧
  (∀ (s : State) (key : U64), (heldKey s key.toNat = none → (∀ b, exec (.bhMoveGranuleCopied key b) s = .next s) ∧ exec (.bhMemberExpiry key) s = .next s) ∧
    (∀ k, heldKey s key.toNat = some k →
      (tbPast s.tb k.tbRenew (pget s P.admLeaseMs * 1000000) = false → exec (.bhMemberExpiry key) s = .next s) ∧
      (tbPast s.tb k.tbRenew (pget s P.admLeaseMs * 1000000) = true → exec (.bhMemberExpiry key) s = .next (pinc (heldDrop s k.key) P.bhExpired)) ∧
      ((k.st ≠ 2 ∨ k.moveHead = none) → ∀ b, exec (.bhMoveGranuleCopied key b) s = .next s) ∧
      (∀ q, k.st = 2 → k.moveHead = some q →
        let out := emit s (.ghengo (portToward s k.target) 5 [k.key, k.epoch2, k.copied * 65536, leNat (cellRead s (granuleAt k k.copied) 65536)])
        exec (.bhMoveGranuleCopied key false) s = .next (admAnswer (heldPut s { k with st := 1, moveHead := none }) q .bhMove false k.epoch 0x050F 0 []) ∧
        (k.copied + 1 < k.units.length * 32 → exec (.bhMoveGranuleCopied key true) s = .next (heldPut out { k with copied := k.copied + 1 })) ∧
        (k.units.length * 32 ≤ k.copied + 1 → exec (.bhMoveGranuleCopied key true) s = .next (admAnswer (heldPut out { k with copied := k.copied + 1, st := 3, moveHead := none }) q .bhMove false k.epoch 0 0 []))))) ∧
  (∀ (s : State) (ctx : U16), (frontUp s = false ∨ (ctxOf s ctx.toNat).cmds = []) → exec (.cmdBhLease ctx) s = .next s ∧ exec (.cmdBhRelease ctx) s = .next s) ∧
  (∀ (s : State) (ctx : U16) (q : QCmd) (rest : List QCmd), (ctxOf s ctx.toNat).cmds = q :: rest → headReady (ctxOf s ctx.toNat) q = true → frontUp s = true →
    let cid := ctx.toNat
    let u := (takeHead s cid q).1
    let h := (takeHead s cid q).2
    let key := h.pl 511 448
    let m := h.pl 447 432
    let e := (u.shardEpoch + 1) % 2 ^ 32
    (q.opcode ≠ 0x18 → exec (.cmdBhLease ctx) s = .next s) ∧ (q.opcode ≠ 0x19 → exec (.cmdBhRelease ctx) s = .next s) ∧
    (q.opcode = 0x18 → (bhLeaseCode u cid h ≠ 0 → exec (.cmdBhLease ctx) s = .next (stampHead (privEnd u cid h (bhLeaseCode u cid h)) cid)) ∧
      (bhLeaseCode u cid h = 0 → m ≠ 0xFFFF → h.pl 414 413 = 1 → ∃ t k x, exec (.cmdBhLease ctx) s = .next (stampHead t cid) ∧ homeKey t key = some k ∧ k.st = 1 ∧ k.ctx = cid ∧ k.member = m ∧ k.epoch = e ∧
        k.aperture = h.pl 431 425 ∧ k.window = h.pl 424 415 ∧ k.units = h.pl 412 400 ∧ t.shardEpoch = e ∧ tfind t.bhApertures (h.pl 431 425) = some cid ∧
        x ∈ t.ghMsgs ∧ x.msg = .bhAlloc ∧ x.head.dst = m ∧ x.head.epoch = e ∧ x.head.key = key ∧ x.head.arg = allocArg k) ∧
      (bhLeaseCode u cid h = 0 → m ≠ 0xFFFF → h.pl 414 413 = 2 → ∃ t k x, exec (.cmdBhLease ctx) s = .next (stampHead t cid) ∧ homeKey t key = some k ∧ k.st = 3 ∧ k.target = m ∧ k.epoch2 = e ∧ t.shardEpoch = e ∧
        (∀ k0, homeKey u key = some k0 → k.member = k0.member ∧ k.epoch = k0.epoch) ∧ x ∈ t.ghMsgs ∧ x.msg = .bhAlloc ∧ x.head.dst = m ∧ x.head.epoch = e ∧ x.head.key = key)) ∧
    (q.opcode = 0x19 → let held := u.bhHomes.find? (fun k => k.key == key && k.ctx == cid)
      ((h.pl 447 320 ≠ 0 ∨ h.pl 319 256 % 8 ≠ 0) → exec (.cmdBhRelease ctx) s = .next (stampHead (privEnd u cid h 0x0501) cid)) ∧
      (h.pl 447 320 = 0 → h.pl 319 256 % 8 = 0 → (held = none → exec (.cmdBhRelease ctx) s = .next (stampHead (privEnd u cid h 0x050D) cid)) ∧
        (∀ k, held = some k → ((k.st = 1 ∨ k.st = 3 ∨ k.st = 4) → exec (.cmdBhRelease ctx) s = .next (stampHead (privEnd u cid h 0x050A) cid)) ∧
          (k.st ≠ 1 → k.st ≠ 3 → k.st ≠ 4 → ∃ t, exec (.cmdBhRelease ctx) s = .next (stampHead (privEnd t cid h 0) cid) ∧ homeKey t key = none ∧ (∀ x, x ≠ key → homeKey t x = homeKey u x) ∧
            ∃ y ∈ t.ghMsgs, y.msg = .bhFree ∧ y.head.dst = k.member ∧ y.head.epoch = k.epoch ∧ y.head.key = k.key))))) ∧
  (∀ (s : State) (m : GhMsg) (h : BhHome), homeKey s m.head.key = some h →
    (h.st = 1 → m.head.epoch = h.epoch → m.head.dst = h.member → ∃ t k, bhAllocEnd s m 0 = bhCmdEnd t h 0 ∧ homeKey t h.key = some k ∧ k.st = 2 ∧ k.member = h.member ∧ k.epoch = h.epoch ∧ t = { s with bhHomes := t.bhHomes }) ∧
    (h.st = 3 → m.head.epoch = h.epoch2 → m.head.dst = h.target → ∃ k x, homeKey (bhAllocEnd s m 0) h.key = some k ∧ k.st = 4 ∧ k.member = h.member ∧ k.epoch = h.epoch ∧
      x ∈ (bhAllocEnd s m 0).ghMsgs ∧ x.msg = .bhMove ∧ x.head.dst = h.member ∧ x.head.epoch = h.epoch ∧ x.head.arg = h.target * 2 ^ 32 + h.epoch2) ∧
    (h.st = 4 → m.head.epoch = h.epoch →
      (∃ t k, bhMoveEnd s m 0 = bhCmdEnd t h 0 ∧ homeKey t h.key = some k ∧ k.st = 2 ∧ k.member = h.target ∧ k.epoch = h.epoch2 ∧ (∃ x ∈ t.ghMsgs, x.msg = .bhFree ∧ x.head.dst = h.member ∧ x.head.epoch = h.epoch)) ∧
      (∃ t k, bhMoveEnd s m 0x050F = bhCmdEnd t h 0x050F ∧ homeKey t h.key = some k ∧ k.st = 2 ∧ k.member = h.member ∧ k.epoch = h.epoch ∧ (∃ x ∈ t.ghMsgs, x.msg = .bhFree ∧ x.head.dst = h.target ∧ x.head.epoch = h.epoch2)) ∧
      (∃ t, bhMoveEnd s m 0x0503 = bhCmdEnd (bhLose t h.key false) h 0x0510 ∧ (∃ x ∈ t.ghMsgs, x.msg = .bhFree ∧ x.head.dst = h.target ∧ x.head.epoch = h.epoch2))) ∧
    ((h.st ≠ 4 ∨ m.head.epoch ≠ h.epoch) → ∀ c, bhMoveEnd s m c = s)) ∧
  (∀ (s : State) (m : GhMsg) (c e : Nat), (homeKey s m.head.key = none → e ≠ 0 → (c = 0 ∨ c = 0x0506) → bhStray s m c e = bhFreeSend s m.head.dst e m.head.key) ∧
    (∀ h, homeKey s m.head.key = some h → e = h.epoch → bhStray s m c e = s) ∧
    (∀ h, homeKey s m.head.key = some h → h.st = 2 → e ≠ h.epoch → e ≠ 0 → (c = 0 ∨ c = 0x0506) → bhStray s m c e = bhFreeSend s m.head.dst e m.head.key)) ∧
  (∀ (s : State) (key : U64), (homeKey s key.toNat = none → exec (.bhHomeRenewTimer key) s = .next s ∧ exec (.bhKeyRenewalTimeout key) s = .next s ∧ exec (.bhResolveTimeout key) s = .next s) ∧
    (∀ h, homeKey s key.toNat = some h →
      (h.st = 2 → exec (.bhHomeRenewTimer key) s = .next (admSend s h.member .bhRenew h.epoch h.key 0 [])) ∧
      ((h.st = 3 ∨ h.st = 4) → exec (.bhHomeRenewTimer key) s = .next (admSend (admSend s h.member .bhRenew h.epoch h.key 0 []) h.target .bhRenew h.epoch2 h.key 0 [])) ∧
      ((h.st = 1 ∨ h.st = 5 ∨ h.st = 6) → exec (.bhHomeRenewTimer key) s = .next s) ∧
      (h.st = 2 → tbPast s.tb h.tbAnswered (pget s P.admLeaseMs * 750000) = true → exec (.bhKeyRenewalTimeout key) s = .next (bhResolve s h.key)) ∧
      ((h.st ≠ 2 ∨ tbPast s.tb h.tbAnswered (pget s P.admLeaseMs * 750000) = false) → exec (.bhKeyRenewalTimeout key) s = .next s) ∧
      (h.st = 5 → tbPast s.tb h.tbState (pget s P.admLeaseMs * 1000000) = true →
        exec (.bhResolveTimeout key) s = .next (bhLose (h.stale.foldl (fun s x => bhFreeSend s x.1 x.2 h.key) s) h.key true)) ∧
      ((h.st ≠ 5 ∨ tbPast s.tb h.tbState (pget s P.admLeaseMs * 1000000) = false) → exec (.bhResolveTimeout key) s = .next s)))

/-- A grant out of range is refused 0x0603, above the limit 0x0602, and while a grant is remembered one older, outside the window or conflicting 0x0605, 0x0606 or 0x0604; one that passes is in force with its watts, and every grant's code is in BUDGET_RESULT. A lease that runs out (its milliseconds past since the grant) puts the fallback budget, or the limit where that is lower, in force and files a record; one of lease 0 never does. The control step takes over the measurements, counts an overrun, holds PLATFORM_RESERVE_W at 400 W or more in tens, decides no level during an alert, and otherwise lowers a shell over its allocation to the first level that fits, raises it by one where 95 % of the allocation allows, and never above PL_CAP. When every base fits, every allocation lies between its base and its cap and they add up to no more than what is available. An alert source sets its bit, is counted and recorded and holds every shell at PL7; the hold begins with the last source's end and the rise with the hold's, ALERT_HOLD_MS later, one level every 100 µs to the target that R509 last gave; a source already asserted, or not asserted, changes nothing. A die at its threshold lowers its seats a level in each 1 ms, up to seven, and counts it; 3 degrees below, a level is released every 10 ms and not counted. The parts of a split energy add up to the whole, and the module's meter grows by all of it. -/
def Obligations.Power : Prop :=
  (∀ (s : State) (g : BitVec 128), dictUp s = true →
    let v := g.toNat
    let last := leNat (octGet s P.budgetGrant)
    let bad := grantWatts v < 1000 ∨ (1 ≤ grantLease v ∧ grantLease v ≤ 99) ∨ 60000 < grantLease v
    let c := grantCode s v
    (bad → c = 0x0603) ∧ (¬ bad → pget s P.powerLimitW < grantWatts v → c = 0x0602) ∧
    (¬ bad → grantWatts v ≤ pget s P.powerLimitW →
      (pget s P.budgetState = 0 → c = 0) ∧
      (pget s P.budgetState ≠ 0 → (serialCmp (grantSeq last) (grantSeq v) = .older → c = 0x0605) ∧ (serialCmp (grantSeq last) (grantSeq v) = .outside → c = 0x0606) ∧
        (serialCmp (grantSeq last) (grantSeq v) = .newer → c = 0) ∧ (serialCmp (grantSeq last) (grantSeq v) = .equal → c = if v = last then 0 else 0x0604))) ∧
    (c ≠ 0 → exec (.budgetGrantWrite g) s = .next (pset s P.budgetResult c)) ∧
    (c = 0 → ∃ t, exec (.budgetGrantWrite g) s = .next t ∧ pget t P.budgetState = 1 ∧ pget t P.budgetResult = 0 ∧ pget t P.budgetEffectiveW = grantWatts v ∧ octGet t P.budgetGrant = leBytes 16 v ∧ t.power.tbGrant = s.tb)) ∧
  (∀ (s : State),
    (pget s P.budgetState = 1 → grantLease (leNat (octGet s P.budgetGrant)) ≠ 0 → tbPast s.tb s.power.tbGrant (grantLease (leNat (octGet s P.budgetGrant)) * 1000000) = true → ∃ t, exec .budgetLeaseExpiry s = .next t ∧ pget t P.budgetState = 2 ∧ pget t P.budgetEffectiveW = min (pget s P.fallbackBudgetW) (pget s P.powerLimitW) ∧
      octGet t P.budgetGrant = octGet s P.budgetGrant ∧ ∃ e, t.errLog.getLast? = some e ∧ e.kind = 0x12) ∧
    ((pget s P.budgetState ≠ 1 ∨ grantLease (leNat (octGet s P.budgetGrant)) = 0 ∨ tbPast s.tb s.power.tbGrant (grantLease (leNat (octGet s P.budgetGrant)) * 1000000) = false) → exec .budgetLeaseExpiry s = .next s)) ∧
  (∀ (s : State) (mv w pl : Nat) (d : List (Nat × Nat)), (coxRuns s = false → exec (.powerControlStep mv w pl d) s = .next s) ∧
    (coxRuns s = true → s.power.phase ≠ .none → ∃ t, exec (.powerControlStep mv w pl d) s = .next t ∧ pget t P.inputMv = mv ∧ pget t P.inputPowerW = w ∧
      pget t P.platformReserveW = max 400 (cdiv pl 10 * 10) ∧ pget t P.budgetOverruns = (if pget s P.budgetEffectiveW < w then satInc32 (pget s P.budgetOverruns) else pget s P.budgetOverruns) ∧ t.power = s.power) ∧
    (coxRuns s = true → s.power.phase = .none → ∃ u, exec (.powerControlStep mv w pl d) s = .next (if bitOf (pget u P.alertStatus) 4 then powerForcePl7 u else d.foldl (fun a x => levelDecide a x.1 x.2) (relevel u)) ∧
      pget u P.inputMv = mv ∧ pget u P.inputPowerW = w ∧ pget u P.platformReserveW = max 400 (cdiv pl 10 * 10))) ∧
  (∀ (s : State) (p w c cap : Nat), c ≤ 7 →
    (100 * w < p → c < levelNext s p w c cap ∨ levelNext s p w c cap = 7) ∧ (100 * w < p → levelNext s p w c cap ≤ 7 ∧
      (∀ l, c < l → l < levelNext s p w c cap → ¬ (p * plPower s l ≤ 100 * w * plPower s c)) ∧
      (levelNext s p w c cap < 7 → p * plPower s (levelNext s p w c cap) ≤ 100 * w * plPower s c)) ∧
    (p ≤ 100 * w → (cap < c ∧ p * plPower s (c - 1) * 100 ≤ 95 * (100 * w) * plPower s c → levelNext s p w c cap = c - 1) ∧
      (¬ (cap < c ∧ p * plPower s (c - 1) * 100 ≤ 95 * (100 * w) * plPower s c) → levelNext s p w c cap = c))) ∧
  (∀ (s : State) (slot p : Nat), slot < 32 → (shellOf s slot).st ≠ .free →
    pget (levelDecide s slot p) (P.powerLevel slot) = max (pget s (P.plCap slot)) (levelNext s p (pget s (P.allocW slot)) (pget s (P.powerLevel slot)) (pget s (P.plCap slot)))) ∧
  (∀ (a : Nat) (l : List PowerShare), (∀ p ∈ l, p.base ≤ p.cap ∧ 0 < p.weight) → (l.map (·.base)).sum ≤ a → (l.map (·.slot)).Nodup →
    let r := shareLoop (l.length + 1) a [] (l.map (fun p => (p, p.base)))
    (r.map (·.1)).Perm (l.map (·.slot)) ∧ (∀ x ∈ r, ∀ p ∈ l, p.slot = x.1 → p.base / 100 ≤ x.2 ∧ x.2 ≤ p.cap / 100) ∧ (r.map (·.2)).sum * 100 ≤ a) ∧
  (∀ (s : State) (i : Fin 4), let a := pget s P.alertStatus
    ((s.pins.inputGood = false ∨ bitOf a i.val = true) → exec (.alertAssert i) s = .next s) ∧ (bitOf a i.val = false → exec (.alertDeassert i) s = .next s) ∧
    (s.pins.inputGood = true → bitOf a i.val = false → ∃ t, exec (.alertAssert i) s = .next t ∧ t.power.phase = .asserted ∧ pget t P.alertStatus = setBitOf a i.val true ∧
      pget t (alertCounter i.val) = satInc32 (pget s (alertCounter i.val)) ∧ (∀ n, n < 32 → (shellOf s n).st ≠ .free → pget t (P.powerLevel n) = 7) ∧ (∃ e, t.errLog.getLast? = some e ∧ e.kind = 0x10 ∧ e.detail0 = i.val) ∧
      (s.power.phase = .none → t.power.targets = (liveSlots s).map (fun n => (n, pget s (P.powerLevel n)))) ∧ (s.power.phase ≠ .none → t.power.targets = s.power.targets)) ∧
    (bitOf a i.val = true → ∃ t, exec (.alertDeassert i) s = .next t ∧ pget t P.alertStatus = setBitOf a i.val false ∧ t.power.targets = s.power.targets ∧
      (setBitOf a i.val false % 16 = 0 → s.power.phase = .asserted → t.power.phase = .holding ∧ t.power.tbHold = s.tb) ∧ (setBitOf a i.val false % 16 ≠ 0 → t.power.phase = s.power.phase)) ∧
    (s.power.phase = .holding → tbPast s.tb s.power.tbHold (pget s P.alertHoldMs * 1000000) = true → exec .alertHoldExpiry s = .next { s with power := { s.power with phase := .rising, tbHold := s.tb } }) ∧ (s.power.phase ≠ .holding ∨ tbPast s.tb s.power.tbHold (pget s P.alertHoldMs * 1000000) = false → exec .alertHoldExpiry s = .next s) ∧
    ((s.power.phase ≠ .rising ∨ tbPast s.tb s.power.tbHold 100000 = false) → exec .alertRiseStep s = .next s) ∧
    (s.power.phase = .rising → tbPast s.tb s.power.tbHold 100000 = true → ∃ t, exec .alertRiseStep s = .next t ∧ (t.power.phase = .rising ∨ t.power.phase = .none) ∧ ∀ n, n < 32 → (shellOf s n).st ≠ .free →
      pget t (P.powerLevel n) = if tget (fun _ => 0) s.power.targets n < pget s (P.powerLevel n) then pget s (P.powerLevel n) - 1 else pget s (P.powerLevel n))) ∧
  (∀ (s : State) (d : Fin 25) (temp : BitVec 16), let n := tget (fun _ => 0) s.power.steps d.val
    let thr : Int := pget s P.thermalThrottleC
    (coxRuns s = false → exec (.thermalThrottleStep d temp) s = .next s) ∧
    (coxRuns s = true →
      (thr ≤ temp.toInt → n < 7 → thermalDue s d.val 1000000 = true → ∃ t, exec (.thermalThrottleStep d temp) s = .next t ∧ tget (fun _ => 0) t.power.steps d.val = n + 1 ∧ pget t P.thermalThrottles = satInc32 (pget s P.thermalThrottles) ∧ pget t (P.dieTempC d.val) = temp.toNat) ∧
      (thr ≤ temp.toInt → (7 ≤ n ∨ thermalDue s d.val 1000000 = false) → exec (.thermalThrottleStep d temp) s = .next (pset s (P.dieTempC d.val) temp.toNat)) ∧
      (temp.toInt < thr → (thr - 3 < temp.toInt ∨ n = 0 ∨ thermalDue s d.val 10000000 = false) → exec (.thermalThrottleStep d temp) s = .next (pset s (P.dieTempC d.val) temp.toNat)) ∧
      (temp.toInt ≤ thr - 3 → 0 < n → thermalDue s d.val 10000000 = true → ∃ t, exec (.thermalThrottleStep d temp) s = .next t ∧ tget (fun _ => 0) t.power.steps d.val = n - 1 ∧ pget t P.thermalThrottles = pget s P.thermalThrottles))) ∧
  (∀ (e : Nat) (l : List (Nat × Nat)), (l.map (·.2)).sum ≠ 0 → ((energySplit e l).map (·.2)).sum = e ∧ (energySplit e l).map (·.1) = l.map (·.1)) ∧
  (∀ (s : State) (a b : List Nat) (x : List (SeatId × Nat)) (y : List (ChanId × Nat)) (z : List (GhPortId × Nat)) (o : Nat),
    (s.pins.inputGood = false → exec (.energyTick a x b y z o) s = .next s) ∧
    (s.pins.inputGood = true → ∃ t, exec (.energyTick a x b y z o) s = .next t ∧ t.power.moduleUj = s.power.moduleUj + (a.sum + b.sum + o) ∧ pget t P.moduleEnergyMj = t.power.moduleUj / 1000 % 2 ^ 64 ∧
      pget t P.platformEnergyMj = t.power.platformUj / 1000 % 2 ^ 64 ∧ s.power.platformUj ≤ t.power.platformUj ∧ (∀ n, (shellOf s n).st = .free → (shellOf t n).energyUj = (shellOf s n).energyUj) ∧
      ∀ n, n < 32 → (shellOf s n).st ≠ .free → (shellOf s n).energyUj ≤ (shellOf t n).energyUj ∧ pget t (P.shellEnergyMj n) = (shellOf t n).energyUj / 1000 % 2 ^ 64))

/-- A firmware command that may be answered and is within the message budget moves the update as Table Sec-3 says and answers SUCCESS: RequestUpdate in IDLE, a table of the one component in LEARN, a component of at most 16 MiB in READY, which erases the slot not running, a push at the expected offset, which ends at the image's end, or of bytes already written, activation in VERIFIED, which prefers the slot and leaves the running one, cancelling from LEARN to VERIFIED, which erases a partial slot, and the queries in every state. In IDLE any other update command is answered NOT_IN_UPDATE_MODE, and one that Table Sec-3 does not list in another state changes nothing but the update's timer. A verified image passes to VERIFIED, one that fails its signature or lies below the floor erases its slot with 0x070D or 0x070E. 120 s without a command leaves the update, less does not. FW_RAISE_FLOOR sets the floor within its range and is refused 0x070F outside. A credential record is refused by the first failing check, 0x0701, 0x0707, 0x0708, 0x0709, 0x070A, and counted; one that passes is in its slot, or revokes it, and its sequence number is the last. With the flash budget spent nothing is installed. -/
def Obligations.Firmware : Prop :=
  (∀ (s : State) (b : Fin 2) (e : Fin 256) (tag : Fin 8) (cs : List U16) (sz off : U32) (data : List Byte), mctpUp s = true → (tfind s.eids b.val).isSome = true →
    let u := (mctpTake s b.val e.val tag.val).1
    let ok := (mctpTake s b.val e.val tag.val).2
    let st := fwState u
    let given := fun (c : Nat) (t : State) (x : PldmCode) (v : List Nat) => if ok then mctpOffered t (.pldm b.val e.val tag.val 5 c x v) else u
    let other := fun (i : Instr) (c : Nat) (l : List Nat) => (st = 0 → ¬ 0 ∈ l → exec i s = .next (given c u .notInUpdateMode [])) ∧
      (st ≠ 0 → ¬ st ∈ l → exec i s = .next (given c { u with fw := { u.fw with tbLast := u.tb } } .unstated []))
    exec (.queryDeviceIdentifiers b e tag) s = .next (given 0x01 u .success [Config.fwDeviceIds]) ∧
    exec (.getFirmwareParameters b e tag) s = .next (given 0x02 u .success [Config.fwParameters u.flash.fwA.image u.flash.fwB.image]) ∧
    (st = 0 → exec (.getStatus b e tag) s = .next (given 0x1B u .success [0, u.fw.image.length, pget u P.fwResult])) ∧
    (st ≠ 0 → exec (.getStatus b e tag) s = .next (given 0x1B { u with fw := { u.fw with tbLast := u.tb } } .success [st, u.fw.image.length, pget u P.fwResult])) ∧
    (st = 0 → exec (.requestUpdate b e tag) s = .next (given 0x10 (fwGo u 1) .success [])) ∧
    (st = 1 → (cs = [1] → exec (.passComponentTable b e tag cs) s = .next (given 0x13 (fwGo u 2) .success [])) ∧ (cs ≠ [1] → exec (.passComponentTable b e tag cs) s = .next (given 0x13 (fwGo u 1) .invalidData []))) ∧
    (st = 2 → (sz.toNat ≤ 2 ^ 24 → exec (.updateComponent b e tag sz) s = .next (given 0x14 (fwGo (fwSlotPut { u with fw := { size := sz.toNat } } {}) 3) .success [])) ∧
      (2 ^ 24 < sz.toNat → exec (.updateComponent b e tag sz) s = .next (given 0x14 (fwGo u 2) .invalidData []))) ∧
    (st = 3 → data.length ≤ 1014 →
      (off.toNat = u.fw.image.length → off.toNat + data.length < u.fw.size → exec (.firmwareDataPush b e tag off data) s = .next (given 0xF0 (fwGo { u with fw := { u.fw with image := u.fw.image ++ data } } 3) .success [])) ∧
      (off.toNat = u.fw.image.length → off.toNat + data.length = u.fw.size → ∃ t, exec (.firmwareDataPush b e tag off data) s = .next (given 0xF0 t .success []) ∧ fwState t = 4 ∧ t.fw.image = u.fw.image ++ data ∧
        (if u.start.fwB then t.flash.fwA.image = u.fw.image ++ data ∧ t.flash.fwB = u.flash.fwB else t.flash.fwB.image = u.fw.image ++ data ∧ t.flash.fwA = u.flash.fwA)) ∧
      (off.toNat + data.length ≤ u.fw.image.length → data ≠ [] → slice u.fw.image off.toNat data.length = data → exec (.firmwareDataPush b e tag off data) s = .next (given 0xF0 (fwGo u 3) .success [])) ∧
      (off.toNat ≠ u.fw.image.length → (u.fw.image.length < off.toNat + data.length ∨ slice u.fw.image off.toNat data.length ≠ data) → exec (.firmwareDataPush b e tag off data) s = .next (given 0xF0 (fwGo u 3) .invalidData []))) ∧
    (st = 5 → exec (.activateFirmware b e tag) s = .next (given 0x1A (fwGo { u with flash := { u.flash with preferB := !u.start.fwB }, fw := {} } 0) .success [])) ∧
    ((st = 3 ∨ st = 4 ∨ st = 5) → exec (.cancelUpdateComponent b e tag) s = .next (given 0x1C (fwLeave u 2) .success [])) ∧
    ((1 ≤ st ∧ st ≤ 5) → exec (.cancelUpdate b e tag) s = .next (given 0x1D (fwLeave u 0) .success [])) ∧
    other (.requestUpdate b e tag) 0x10 [0] ∧ other (.passComponentTable b e tag cs) 0x13 [1] ∧ other (.updateComponent b e tag sz) 0x14 [2] ∧ other (.firmwareDataPush b e tag off data) 0xF0 [3] ∧
    other (.activateFirmware b e tag) 0x1A [5] ∧ other (.cancelUpdateComponent b e tag) 0x1C [3, 4, 5] ∧ other (.cancelUpdate b e tag) 0x1D [1, 2, 3, 4, 5]) ∧
  (∀ (s : State) (n : Nat), fwState (fwGo s n) = n ∧ (fwGo s n).fw.tbLast = s.tb ∧ fwState (fwLeave s n) = n ∧
    ((fwState s = 3 ∨ fwState s = 4) → (if s.start.fwB then (fwLeave s n).flash.fwA = {} ∧ (fwLeave s n).flash.fwB = s.flash.fwB else (fwLeave s n).flash.fwB = {} ∧ (fwLeave s n).flash.fwA = s.flash.fwA)) ∧
    (fwState s ≠ 3 → fwState s ≠ 4 → (fwLeave s n).flash = s.flash)) ∧
  (∀ (s : State), (fwState s ≠ 4 → exec .fwVerifyDone s = .next s) ∧
    (fwState s = 4 →
      (Config.fwCheck s.fw.image = none → ∃ t, exec .fwVerifyDone s = .next t ∧ fwState t = 2 ∧ pget t P.fwResult = 0x070D ∧ (if s.start.fwB then t.flash.fwA = {} else t.flash.fwB = {})) ∧
      (∀ v, Config.fwCheck s.fw.image = some v → (v.toNat < pget s P.rollbackFloor → ∃ t, exec .fwVerifyDone s = .next t ∧ fwState t = 2 ∧ pget t P.fwResult = 0x070E ∧ (if s.start.fwB then t.flash.fwA = {} else t.flash.fwB = {})) ∧
        (pget s P.rollbackFloor ≤ v.toNat → exec .fwVerifyDone s = .next (pset (pset s P.fwState 5) P.fwResult 0)))) ∧
    (fwState s ≠ 0 → tbPast s.tb s.fw.tbLast 120000000000 = true → exec .fwUpdateTimeout s = .next (fwLeave s 0)) ∧
    ((fwState s = 0 ∨ tbPast s.tb s.fw.tbLast 120000000000 = false) → exec .fwUpdateTimeout s = .next s)) ∧
  (∀ (s : State) (v : U32), dictUp s = true →
    (pget s P.rollbackFloor ≤ v.toNat → v.toNat ≤ pget s P.runningSvn → exec (.fwRaiseFloor v) s = .next (counterPut s P.rollbackFloor v.toNat) ∧ floorWrite s v.toNat = (counterPut s P.rollbackFloor v.toNat, 0)) ∧
    ((v.toNat < pget s P.rollbackFloor ∨ pget s P.runningSvn < v.toNat) → exec (.fwRaiseFloor v) s = .next s ∧ floorWrite s v.toNat = (s, 0x070F))) ∧
  (∀ (s : State) (vf : Bool) (r : List Byte), dictUp s = true →
    let runs := fun (t : State) => (field r 6 1 = 2 → exec (.credRevoke vf r) s = .next t) ∧ (field r 6 1 ≠ 2 → exec (.credInstall vf r) s = .next t)
    let no := fun (c : Nat) => runs (pset (pinc s P.credFailures) P.credResult c)
    let sig := Config.sigOk (slice (idRecord s) 0xE0 48) (r.take 0x6C0) (slice r 0x6C0 0x3F60)
    let fresh : Bool := match s.flash.credSeq with | some a => serialCmp a (field r 8 4) == .newer | none => true
    let key := Config.aesUnwrap (Config.kmac256 (Config.decap (slice r 0x50 1568)) (slice r 0x10 64) 32 (ascii "VZS2-CRED")) (slice r 0x670 40)
    (field r 6 1 = 2 → exec (.credInstall vf r) s = .next s) ∧ (field r 6 1 ≠ 2 → exec (.credRevoke vf r) s = .next s) ∧
    (flashSpend s = none → runs s) ∧
    (∀ s1, flashSpend s = some s1 →
      (credOk r = false → no 0x0701) ∧ (credOk r = true → vf = true → no 0x0707) ∧
      (credOk r = true → vf = false → sig = false → no 0x0708) ∧ (credOk r = true → vf = false → sig = true → slice r 0x10 64 ≠ identityDigest s → no 0x0709) ∧
      (credOk r = true → vf = false → sig = true → slice r 0x10 64 = identityDigest s → fresh = false → no 0x070A) ∧
      (credOk r = true → vf = false → sig = true → slice r 0x10 64 = identityDigest s → fresh = true →
        (field r 6 1 = 2 → ∃ t, exec (.credRevoke vf r) s = .next t ∧ tget (fun _ => ({} : Cred)) t.flash.creds (field r 4 1) = {} ∧ t.flash.credSeq = some (field r 8 4) ∧ pget t P.credResult = 0) ∧
        (field r 6 1 = 1 → ∀ k, key = some k → ∃ t, exec (.credInstall vf r) s = .next t ∧ tget (fun _ => ({} : Cred)) t.flash.creds (field r 4 1) = { used := true, who := field r 5 1, seq := field r 8 4, key := k } ∧
          t.flash.credSeq = some (field r 8 4) ∧ pget t P.credResult = 0 ∧ (∀ n, n ≠ field r 4 1 → tget (fun _ => ({} : Cred)) t.flash.creds n = tget (fun _ => ({} : Cred)) s1.flash.creds n)) ∧
        (field r 6 1 = 1 → key = none → ∃ t c, exec (.credInstall vf r) s = .next t ∧ c ≠ 0 ∧ pget t P.credResult = c ∧ pget t P.credFailures = satInc32 (pget s P.credFailures) ∧ t.flash = s.flash))))

/-- A request for evidence in an open session is refused outside the session's scope 0x0909, with a nonzero reserved field 0x090C, and while the session or sixteen sessions hold one 0x070B, and otherwise signs; the end of the signing holds the body and its signature for the session and is counted. A debug session opens from CLOSED, halts, resumes and closes as Table Sec-8 has it, and refuses anything else, and a FREE slot, with 0x070C and no effect: opening sets DEBUG_SEEN, erases the keys that name the shell, counts, and adds a DEBUG record; halting stops exactly the shell's running seats, whose reservations end, resuming and closing set them going again. DBG_DATA reads up to 4,096 bytes at DBG_ADDR into a snapshot of the operator's session, counting the errors that a channel's blocks hold, and writes them, a refused write being counted, and is refused while the session is CLOSED; an address that names nothing, or that an island refuses, is refused 0x0701, and a leased seat's bytes come from its lender (log 45). A fold takes the earliest pending record, hashes it into its own chain and gives it the next index, and the record goes to its ring or is counted. A shell in use is sealed 1,000 ms after its last seal or after 65,536 records, and not before; a seal that is signed carries the chain's head and index from its trigger and is exported or counted. -/
def Obligations.EvidenceDebugWake : Prop :=
  (∀ (s : State) (r : SessionRef) (b : List Byte), dictUp s = true →
    let k := sessKey r
    let x := sessOf s k
    let opened := x.st ≠ .closed ∧ x.st ≠ .challenged
    let reach := ∀ i, i < 32 → bitOf (field b 32 4) i = true → sessScope s x i = true
    let held := x.signing = true ∨ x.evidence ≠ [] ∨ 16 ≤ s.sessions.countP (fun e => e.2.signing || e.2.evidence != [])
    (¬ opened → exec (.evidenceReq r b) s = .next s) ∧
    (opened → b.length = 40 →
      (¬ reach → evidenceWrite s k b = (s, 0x0909) ∧ exec (.evidenceReq r b) s = .next s) ∧ (reach → field b 36 4 ≠ 0 → evidenceWrite s k b = (s, 0x090C) ∧ exec (.evidenceReq r b) s = .next s) ∧
      (reach → field b 36 4 = 0 → held → evidenceWrite s k b = (s, 0x070B) ∧ exec (.evidenceReq r b) s = .next s) ∧
      (reach → field b 36 4 = 0 → ¬ held → ∃ t, exec (.evidenceReq r b) s = .next t ∧ evidenceWrite s k b = (t, 0) ∧
        sessOf t k = { x with signing := true, evNonce := b.take 32, evMask := field b 32 4, evResult := 0x070B } ∧ (∀ j, j ≠ k → sessOf t j = sessOf s j) ∧ t = { s with sessions := t.sessions }))) ∧
  (∀ (s : State) (r : SessionRef), let k := sessKey r
    let x := sessOf s k
    (x.signing = false → exec (.evidenceSigned r) s = .next s) ∧
    (x.signing = true → ∃ t, exec (.evidenceSigned r) s = .next t ∧ sessOf t k = { x with signing := false, evResult := 0, evidence := evidenceBody s x ++ padTo 16224 (Config.sign 0 (evidenceBody s x)) } ∧
      pget t P.evidenceSigned = satInc32 (pget s P.evidenceSigned) ∧ t = { s with sessions := t.sessions, regs := t.regs })) ∧
  (∀ (s : State) (slot : Slot), dictUp s = true →
    let n := slot.val
    let st := pget s (P.debugState n)
    let no := fun (i : Instr) (v : Nat) => exec i s = .next s ∧ debugWrite s n v = (s, 0x070C)
    (((shellOf s n).st = .free ∨ st ≠ 0) → no (.debugCtlOpen slot) 1) ∧ (((shellOf s n).st = .free ∨ st ≠ 1) → no (.debugCtlHalt slot) 2) ∧
    (((shellOf s n).st = .free ∨ st ≠ 2) → no (.debugCtlResume slot) 3) ∧ (((shellOf s n).st = .free ∨ (st ≠ 1 ∧ st ≠ 2)) → no (.debugCtlClose slot) 4) ∧
    ((shellOf s n).st ≠ .free →
      (st = 0 → ∃ t, exec (.debugCtlOpen slot) s = .next t ∧ pget t (P.debugState n) = 1 ∧ pget t (P.debugSeen n) = 1 ∧ pget t P.debugOpens = satInc32 (pget s P.debugOpens) ∧ (shellOf t n).debugOpen = true ∧
        (∃ w, (wakeOf t n).pending = (wakeOf s n).pending ++ [w] ∧ w.kind = 5 ∧ w.tb = s.tb) ∧ t.seats = s.seats ∧ t.ctxs = (wkeysErase s n).ctxs) ∧
      (st = 1 → ∃ t, exec (.debugCtlHalt slot) s = .next t ∧ pget t (P.debugState n) = 2 ∧ t.shells = s.shells ∧
        ∀ i, seatOf t i = if i ∈ (shellOf s n).rig.seats ∧ (seatOf s i).mode = .run then { seatOf s i with mode := .halted, core := coreHalt s (seatOf s i).core } else seatOf s i) ∧
      (st = 2 → ∃ t, exec (.debugCtlResume slot) s = .next t ∧ pget t (P.debugState n) = 1 ∧ t.shells = s.shells ∧
        ∀ i, seatOf t i = if i ∈ (shellOf s n).rig.seats ∧ (seatOf s i).mode = .halted then { seatOf s i with mode := .run, core := coreResume s (seatOf s i).core } else seatOf s i) ∧
      ((st = 1 ∨ st = 2) → ∃ t, exec (.debugCtlClose slot) s = .next t ∧ pget t (P.debugState n) = 0 ∧ pget t (P.debugSeen n) = pget s (P.debugSeen n) ∧ (shellOf t n).debugOpen = false ∧
        (∃ w, (wakeOf t n).pending = (wakeOf s n).pending ++ [w] ∧ w.kind = 5) ∧
        ∀ i, seatOf t i = if i ∈ (shellOf s n).rig.seats ∧ (seatOf s i).mode = .halted then { seatOf s i with mode := .run, core := coreResume s (seatOf s i).core } else seatOf s i))) ∧
  (∀ (s : State) (slot n : Nat) (cid : Nat), let t := wkeysErase s slot
    (∀ w, tget (fun _ => ({} : WkeySlot)) (ctxOf s cid).wkeys n = w → w.shell ≠ slot → tget (fun _ => ({} : WkeySlot)) (ctxOf t cid).wkeys n = w) ∧ (∀ e ∈ (ctxOf t cid).wkeys, e.2.shell = slot → e.2.key = []) ∧ t = { s with ctxs := t.ctxs }) ∧
  (∀ (s : State) (ss : U16) (slot : Slot) (d : List Byte), dictUp s = true →
    let n := slot.val
    let x := sessOf s ss.toNat
    let a := pget s (P.dbgAddr n)
    let mine := (x.st = .opened ∨ x.st = .writing ∨ x.st = .reading) ∧ x.who = .operator
    (pget s (P.debugState n) = 0 → exec (.dbgDataRead ss slot) s = .next s ∧ exec (.dbgDataWrite slot d) s = .next s ∧ dbgRead s n = ([], 0x070C) ∧ dbgWrite s n d = (s, 0x070C)) ∧
    (¬ mine → exec (.dbgDataRead ss slot) s = .next s) ∧
    (pget s (P.debugState n) ≠ 0 → dbgTarget s n a = .none → dbgRead s n = ([], 0x0701) ∧ dbgWrite s n d = (s, 0x0701) ∧ exec (.dbgDataRead ss slot) s = .next s) ∧
    (pget s (P.debugState n) ≠ 0 → mine → ∀ l off room, dbgTarget s n a = .scratch l off room →
      (∀ b, l < (shellOf s n).rig.seats.length → lseatRead s n (shellOf s n).windows l off (min 4096 room) = some (stOk, b) → ∃ t, exec (.dbgDataRead ss slot) s = .next t ∧
        t = { freeNext s with sessions := t.sessions } ∧ (sessOf t ss.toNat).snap = b ∧ (sessOf t ss.toNat).rKey = P.dbgData n) ∧
      (∀ st b, l < (shellOf s n).rig.seats.length → lseatRead s n (shellOf s n).windows l off (min 4096 room) = some (st, b) → st ≠ stOk → dbgRead s n = ([], 0x0701) ∧ exec (.dbgDataRead ss slot) s = .next s) ∧
      ((shellOf s n).rig.seats.length ≤ l → ∃ t, exec (.dbgDataRead ss slot) s = .next t ∧ (sessOf t ss.toNat).snap.length = min 4096 room)) ∧
    (pget s (P.debugState n) ≠ 0 → mine → ∀ c room, dbgTarget s n a = .chan c room →
      let p := placeChannel s 2352 (some n) c (min 4096 room)
      let met := chanMeet s p (min 4096 room) {}
      (∀ b o, placeRead s p (min 4096 room) {} = (stOk, b, o) → placeAnswers s 2352 p = true → ∃ t, exec (.dbgDataRead ss slot) s = .next t ∧
        t = { freeNext met with sessions := t.sessions } ∧ (sessOf t ss.toNat).snap = b ∧ (sessOf t ss.toNat).rKey = P.dbgData n) ∧
      (∀ st b o, placeRead s p (min 4096 room) {} = (st, b, o) → st ≠ stOk → exec (.dbgDataRead ss slot) s = .next met)) ∧
    (pget s (P.debugState n) ≠ 0 → 1 ≤ d.length → d.length ≤ 4096 →
      (∀ l off room, dbgTarget s n a = .scratch l off room → d.length ≤ room → exec (.dbgDataWrite slot d) s = .next (lseatWrite s n none .debug l off d)) ∧
      (∀ c room, dbgTarget s n a = .chan c room → d.length ≤ room → let w := placeWrite s (placeChannel s 2352 (some n) c d.length) d {}
        exec (.dbgDataWrite slot d) s = .next (countRefused w.1 w.2))) ∧
    ((d = [] ∨ 4096 < d.length) → exec (.dbgDataWrite slot d) s = .next s)) ∧
  (∀ (s : State) (slot : Slot), let n := slot.val
    let c := chainOf s n
    (wakeFirst (wakeOf s n).pending = none → exec (.wakeFold slot) s = .next s) ∧
    (∀ r, wakeFirst (wakeOf s n).pending = some r → r ∈ (wakeOf s n).pending ∧ (∀ x ∈ (wakeOf s n).pending, wakeBefore x r = false) ∧ ∃ t, exec (.wakeFold slot) s = .next t ∧
      (wakeOf t n).pending = (wakeOf s n).pending.erase r ∧ (chainOf t n).lastIndex = c.lastIndex + 1 ∧ (chainOf t n).head = Config.shake256 (c.head ++ leBytes 256 (r.word + (c.lastIndex + 1) * 2 ^ 1952)) 64 ∧
      (∀ m, m ≠ n → chainOf t m = chainOf s m ∧ wakeOf t m = wakeOf s m) ∧
      (pget s P.wakeRingBase = 0 → t.sent = s.sent ∧ pget t (P.wakeUnexported n) = satInc32 (pget s (P.wakeUnexported n))))) ∧
  (∀ (s : State) (base log2 head tail bytes : Nat) (d : Bytes),
    let a := pget s base + bytes * (pget s tail % 2 ^ pget s log2)
    ((pget s base = 0 ∨ 2 ^ pget s log2 ≤ serialDist (pget s head) (pget s tail)) → ringExport s base log2 head tail bytes d = none) ∧
    (pget s base ≠ 0 → serialDist (pget s head) (pget s tail) < 2 ^ pget s log2 → s.start.entry = false → s.start.releasesStopped = false → hostWriteFails s 0 a = none →
      ringExport s base log2 head tail bytes d = some (pset (emit s (.hostWrite a d)) tail ((pget s tail + 1) % 2 ^ 32)))) ∧
  (∀ (s : State) (slot : Slot), let n := slot.val
    let w := wakeOf s n
    let c := chainOf s n
    (s.start.msf = false → exec (.sealTimer slot) s = .next s) ∧
    (s.start.msf = true → (shellOf s n).st ≠ .free →
      ((w.sealing = true ∨ (c.lastIndex - w.sealPrev < 65536 ∧ tbPast s.tb w.tbSeal 1000000000 = false)) → exec (.sealTimer slot) s = .next s) ∧
      (w.sealing = false → (65536 ≤ c.lastIndex - w.sealPrev ∨ tbPast s.tb w.tbSeal 1000000000 = true) → ∃ t, exec (.sealTimer slot) s = .next t ∧
        wakeOf t n = { w with sealing := true, sealAt := c, sealCount := pget s (P.wakeUnexported n), tbSeal := s.tb } ∧ t = { s with wake := t.wake })) ∧
    (s.start.msf = true → (shellOf s n).st = .free → w.sealing = false → w.pending = [] → w.sealPrev < c.lastIndex → ∃ t, exec (.sealTimer slot) s = .next t ∧ (wakeOf t n).sealing = true ∧ (wakeOf t n).sealAt = c) ∧
    (w.sealing = false → exec (.sealSigned slot) s = .next s) ∧
    (w.sealing = true → ∃ t, exec (.sealSigned slot) s = .next t ∧ (wakeOf t n).sealPrev = w.sealAt.lastIndex ∧ (wakeOf t n).seenCount = w.sealCount ∧ pget t P.sealsSigned = satInc32 (pget s P.sealsSigned) ∧
      (pget s P.sealRingBase = 0 → t.sent = s.sent ∧ pget t (P.wakeUnexported n) = satInc32 (pget s (P.wakeUnexported n)))))

/-- In every state whose memory has its canonical form (addresses strictly rising, no entry equal to what an unlisted address reads as), whatever command stands at the front of the queue, or none, the state that a step answers has that form again. The form is the model's own (log 3). -/
def Obligations.MemoryStaysCanonical : Prop :=
  ∀ s t : State, Memory.wf s = true → step s = .next t → Memory.wf t = true

/-- After reset no command waits, the input is not good, the memory lists nothing and has its canonical form, every shell is FREE, every seat idle, every channel UNTRAINED, every Ghengo port DISABLED and every Ghengo channel CLOSED, no context is live, no sprint slot bound, no session open; parameters read the defaults of their tables: START_STAGE 0, COMPOSITION_MODE 2, BUDGET_STATE 0, FALLBACK_BUDGET_W 2,500, ALERT_HOLD_MS 10, THERMAL_THROTTLE_C 95, POWER_WEIGHT 16, GH_PORT_ENABLE 0xFFFF, GH_REQ_TIMEOUT_US 1,000, ADM_LEASE_MS 200, FW_FLOOR_AUTO true. Values the spec does not give are the model's (log 61). -/
def Obligations.ResetState : Prop :=
  State.reset.pending = [] ∧ State.reset.pins.inputGood = false ∧ State.reset.start.msf = false ∧ State.reset.mem = [] ∧ Memory.wf State.reset = true ∧ State.reset.sent = [] ∧
  (∀ a, memGet State.reset a = 0) ∧
  (∀ n, (shellOf State.reset n).st = .free ∧ (seatOf State.reset n).mode = .idle ∧ (chanOf State.reset n).st = .untrained ∧ (portOf State.reset n).st = 0 ∧ (gchanOf State.reset n).st = .closed ∧
    (ctxOf State.reset n).st = .free ∧ (sprintOf State.reset n).st = .unbound) ∧
  State.reset.sessions = [] ∧ State.reset.borrowed = [] ∧ State.reset.lent = [] ∧ State.reset.bhHomes = [] ∧ State.reset.bhHeld = [] ∧ State.reset.errLog = [] ∧ State.reset.nextCtxId = 1 ∧
  pget State.reset P.startStage = 0 ∧ pget State.reset P.compositionMode = 2 ∧ pget State.reset P.budgetState = 0 ∧ pget State.reset P.fallbackBudgetW = 2500 ∧ pget State.reset P.alertHoldMs = 10 ∧
  pget State.reset P.thermalThrottleC = 95 ∧ (∀ i : Fin 32, pget State.reset (P.powerWeight i.val) = 16 ∧ pget State.reset (P.powerMinW i.val) = 0) ∧ pget State.reset P.ghPortEnable = 0xFFFF ∧
  pget State.reset P.ghReqTimeoutUs = 1000 ∧ pget State.reset P.admLeaseMs = 200 ∧ pget State.reset P.fwFloorAuto = 1

/-- A finite word joined with a finite word is their sum by R96: the sum of the two 128-bit two's-complement numbers modulo 2^128, or RANGE where that sum lies in the band. A finite word joined with a special one is that special word, either way round. RANGE joined with RANGE is RANGE and with an infinity or NaN is that; an infinity joined with itself is itself and with the other one, or NaN, is NaN; NaN joined with anything is NaN. Joining special words is commutative and associative; and any two lists of words in which the same specials arrive, at least one, with any finite words between them in any order that keeps out of the band, join to the same special word. -/
def Obligations.SpecialWordsJoin : Prop :=
  (∀ w q : Nat, wSpecial w = false → wSpecial q = false →
    fretAdd w (termOf q) = (let n := ((wInt w + wInt q) % 2 ^ 128).toNat; if n / 2 ^ 112 = 0x8000 then wRange else n)) ∧
  (∀ (w : Nat) (k : Fin 5), wSpecial w = false → k.val ≠ 0 → fretAdd w (termOf (specialWord k.val)) = specialWord k.val ∧ fretAdd (specialWord k.val) (termOf w) = specialWord k.val) ∧
  (let R := specialWord 4
   let P := specialWord 1
   let N := specialWord 2
   let X := specialWord 3
   let join := fun (a b : Nat) => fretAdd a (termOf b)
   join R R = R ∧ join R P = P ∧ join R N = N ∧ join R X = X ∧ join P R = P ∧ join P P = P ∧ join P N = X ∧ join P X = X ∧
   join N R = N ∧ join N P = X ∧ join N N = N ∧ join N X = X ∧ join X R = X ∧ join X P = X ∧ join X N = X ∧ join X X = X) ∧
  (∀ j k l : Fin 5, j.val ≠ 0 → k.val ≠ 0 → l.val ≠ 0 → let join := fun (a b : Nat) => fretAdd a (termOf b)
    join (specialWord j.val) (specialWord k.val) = join (specialWord k.val) (specialWord j.val) ∧
    join (join (specialWord j.val) (specialWord k.val)) (specialWord l.val) = join (specialWord j.val) (join (specialWord k.val) (specialWord l.val))) ∧
  (∀ (ts us : List Term), (∀ k, Term.special k ∈ ts ↔ Term.special k ∈ us) → (∃ k, Term.special k ∈ ts) → (∀ k, Term.special k ∈ ts → 1 ≤ k ∧ k ≤ 4) →
    ((ts.map (fun t => match t with | .units q => q.natAbs | .special _ => 0)).sum : Nat) < 2 ^ 127 - 2 ^ 112 →
    ((us.map (fun t => match t with | .units q => q.natAbs | .special _ => 0)).sum : Nat) < 2 ^ 127 - 2 ^ 112 →
    ts.foldl fretAdd 0 = us.foldl fretAdd 0 ∧ wSpecial (ts.foldl fretAdd 0) = true)

/-- Of a core that is ready (its instruction fetched): SIG.UPD sets vzsig to ((vzsig times 2^5) mod 2^32 + vzsig div 2^27) xor its 12-bit immediate, and changes nothing else but the pc and the count of retired instructions; SIG.CHK compares vzsig with bits 31 to 0 of rs1, and on a match restarts the watchdog and changes nothing else but the pc and that count; on a mismatch it raises the signature exception, code 26 of Table Tender-8, as a safety event of the seat with vzsig as its detail. -/
def Obligations.Signature : Prop :=
  ∀ (s0 s : State) (i : SeatId) (c : Core), (seatOf s i.val).core = c → CoreReady s0 i.val 4 s →
    (∀ k : BitVec 12, ∃ t, exec (.sigUpd i 0 0 k) s0 = .next t ∧
      (seatOf t i.val).core = { c with sig := ((c.sig * 2 ^ 5) % 2 ^ 32 + c.sig / 2 ^ 27) ^^^ k.toNat, isz := 4, pc := (c.pc + 4) % 2 ^ 64, instret := (c.instret + 1) % 2 ^ 64, fetched := [], fw := false } ∧
      (∀ j, j ≠ i.val → seatOf t j = seatOf s j) ∧ t = { s with seats := t.seats }) ∧
    (∀ rs1 : Fin 32,
      (c.sig = xGet c rs1.val % 2 ^ 32 → ∃ t, exec (.sigChk i 0 0 rs1 0) s0 = .next t ∧
        (seatOf t i.val).core = { c with tbCheck := s.tb, wdHeld := 0, wdCarry := 0, isz := 4, pc := (c.pc + 4) % 2 ^ 64, instret := (c.instret + 1) % 2 ^ 64, fetched := [], fw := false } ∧
        (∀ j, j ≠ i.val → seatOf t j = seatOf s j) ∧ t = { s with seats := t.seats }) ∧
      (c.sig ≠ xGet c rs1.val % 2 ^ 32 → ∃ u e, exec (.sigChk i 0 0 rs1 0) s0 = .next (seatSafety u i.val 11 8 (some c.tbCheck) e) ∧ e.detail0 = c.sig ∧ e.code = 26))
end

