-- ==== Sys2Proof/Laws/Table.lean ====
section
/-! SUPPORT. Sparse tables: what a table reads after a write, and that a write keeps the canonical form. -/
namespace Sys2Proof.Machine

variable {α : Type}

theorem tfind_tdel_self (t : Tbl α) (k : Nat) : tfind (tdel t k) k = none := by
  induction t with
  | nil => rfl
  | cons e t ih =>
    obtain ⟨k', v⟩ := e
    by_cases h : k' = k
    · simpa [tdel, h] using ih
    · simpa [tdel, tfind, h] using ih

theorem tfind_tdel_ne (t : Tbl α) (k j : Nat) (h : j ≠ k) : tfind (tdel t k) j = tfind t j := by
  induction t with
  | nil => rfl
  | cons e t ih =>
    obtain ⟨k', v⟩ := e
    by_cases hk : k' = k
    · have : k' ≠ j := fun hj => h (hj ▸ hk)
      simpa [tdel, tfind, hk, h.symm] using ih
    · by_cases hj : k' = j
      · simp [tdel, tfind, hj, h]
      · simpa [tdel, tfind, hk, hj] using ih

theorem tfind_tins_self (t : Tbl α) (k : Nat) (v : α) (h : tfind t k = none) : tfind (tins t k v) k = some v := by
  induction t with
  | nil => simp [tins, tfind]
  | cons e t ih =>
    obtain ⟨k', w⟩ := e
    have hk : k' ≠ k := by rintro rfl; simp [tfind] at h
    have h' : tfind t k = none := by simpa [tfind, hk] using h
    by_cases hl : k < k'
    · simp [tins, tfind, hl]
    · simpa [tins, tfind, hl, hk] using ih h'

theorem tfind_tins_ne (t : Tbl α) (k j : Nat) (v : α) (h : j ≠ k) : tfind (tins t k v) j = tfind t j := by
  induction t with
  | nil => simp [tins, tfind, h.symm]
  | cons e t ih =>
    obtain ⟨k', w⟩ := e
    by_cases hl : k < k'
    · simp [tins, tfind, hl, h.symm]
    · by_cases hj : k' = j
      · subst hj; simp [tins, tfind, hl]
      · simpa [tins, tfind, hl, hj] using ih

/-- A table reads what was written. -/
@[simp] theorem tget_tset_self [DecidableEq α] (d : Nat → α) (t : Tbl α) (k : Nat) (v : α) : tget d (tset d t k v) k = v := by
  unfold tget tset
  split
  · next h => simp [tfind_tdel_self, h]
  · simp [tfind_tins_self _ _ _ (tfind_tdel_self t k)]

/-- A write leaves every other key alone. -/
theorem tget_tset_ne [DecidableEq α] (d : Nat → α) (t : Tbl α) (k j : Nat) (v : α) (h : j ≠ k) : tget d (tset d t k v) j = tget d t j := by
  unfold tget tset
  split
  · rw [tfind_tdel_ne _ _ _ h]
  · rw [tfind_tins_ne _ _ _ _ h, tfind_tdel_ne _ _ _ h]

/-- What a table reads after a write, at any key. -/
theorem tget_tset [DecidableEq α] (d : Nat → α) (t : Tbl α) (k j : Nat) (v : α) : tget d (tset d t k v) j = if j = k then v else tget d t j := by
  split
  · next h => subst h; simp
  · next h => exact tget_tset_ne d t k j v h

/-- A table whose keys rise strictly: the first key lies below every other. -/
def keysRise : Tbl α → Prop
  | [] => True
  | (k, _) :: t => (∀ e ∈ t, k < e.1) ∧ keysRise t

theorem tsorted_iff (t : Tbl α) : tsorted t = true ↔ keysRise t := by
  induction t with
  | nil => simp [tsorted, keysRise]
  | cons e t ih =>
    obtain ⟨k, v⟩ := e
    cases t with
    | nil => simp [tsorted, keysRise]
    | cons e' t =>
      obtain ⟨k', v'⟩ := e'
      simp only [tsorted, Bool.and_eq_true, decide_eq_true_eq, ih, keysRise, List.mem_cons, forall_eq_or_imp]
      exact ⟨fun ⟨h, h1, h2⟩ => ⟨⟨h, fun e he => lt_trans h (h1 e he)⟩, h1, h2⟩, fun ⟨⟨h, _⟩, h1, h2⟩ => ⟨h, h1, h2⟩⟩

theorem keysRise_filter (p : Nat × α → Bool) (t : Tbl α) (h : keysRise t) : keysRise (t.filter p) := by
  induction t with
  | nil => trivial
  | cons e t ih =>
    obtain ⟨k, v⟩ := e
    by_cases hp : p (k, v)
    · simpa [hp, keysRise] using ⟨fun a b hab _ => h.1 (a, b) hab, ih h.2⟩
    · simpa [hp] using ih h.2

theorem mem_tins (t : Tbl α) (k : Nat) (v : α) (e : Nat × α) (h : e ∈ tins t k v) : e = (k, v) ∨ e ∈ t := by
  induction t with
  | nil => simpa [tins] using h
  | cons e' t ih =>
    obtain ⟨k', w⟩ := e'
    by_cases hl : k < k'
    · simpa [tins, hl] using h
    · simp only [tins, hl, if_false, List.mem_cons] at h
      rcases h with h | h
      · exact .inr (by simp [h])
      · rcases ih h with h | h
        · exact .inl h
        · exact .inr (List.mem_cons_of_mem _ h)

theorem keysRise_tins (t : Tbl α) (k : Nat) (v : α) (h : keysRise t) (hk : ∀ e ∈ t, e.1 ≠ k) : keysRise (tins t k v) := by
  induction t with
  | nil => simp [tins, keysRise]
  | cons e t ih =>
    obtain ⟨k', w⟩ := e
    by_cases hl : k < k'
    · rw [tins, if_pos hl]
      refine ⟨fun e he => ?_, h⟩
      rcases List.mem_cons.1 he with he | he
      · subst he; exact hl
      · exact lt_trans hl (h.1 e he)
    · have hne : k' ≠ k := hk (k', w) (by simp)
      simp only [tins, hl, if_false, keysRise]
      refine ⟨fun e he => ?_, ih h.2 (fun e he => hk e (List.mem_cons_of_mem _ he))⟩
      rcases mem_tins t k v e he with he | he
      · subst he; exact lt_of_le_of_ne (Nat.le_of_not_lt hl) hne
      · exact h.1 e he

theorem twf_iff [DecidableEq α] (d : Nat → α) (t : Tbl α) : twf d t = true ↔ keysRise t ∧ ∀ e ∈ t, e.2 ≠ d e.1 := by
  simp [twf, tsorted_iff, List.all_eq_true]

/-- Leaving entries out keeps the canonical form. -/
theorem twf_filter [DecidableEq α] (d : Nat → α) (t : Tbl α) (p : Nat × α → Bool) (h : twf d t = true) : twf d (t.filter p) = true := by
  rw [twf_iff] at h ⊢
  exact ⟨keysRise_filter p t h.1, fun e he => h.2 e (List.mem_filter.1 he).1⟩

/-- Every write keeps the canonical form. -/
theorem twf_tset [DecidableEq α] (d : Nat → α) (t : Tbl α) (k : Nat) (v : α) (h : twf d t = true) : twf d (tset d t k v) = true := by
  have hd : twf d (tdel t k) = true := twf_filter d t _ h
  unfold tset
  split
  · exact hd
  · next hv =>
    rw [twf_iff] at hd ⊢
    refine ⟨keysRise_tins _ _ _ hd.1 (fun e he => ?_), fun e he => ?_⟩
    · simpa using (List.mem_filter.1 he).2
    · rcases mem_tins _ _ _ _ he with he | he
      · subst he; exact hv
      · exact hd.2 e he

/-- Folding writes keeps the canonical form. -/
theorem twf_foldl_tset [DecidableEq α] {β : Type} (d : Nat → α) (l : List β) (f : β → Nat) (g : β → α) (t : Tbl α) (h : twf d t = true) :
    twf d (l.foldl (fun t x => tset d t (f x) (g x)) t) = true := by
  induction l generalizing t with
  | nil => exact h
  | cons x l ih => exact ih _ (twf_tset d t _ _ h)

end Sys2Proof.Machine
end

