-- ==== Sys2Proof/Laws/State.lean ====
section
/-! SUPPORT. The state updates: each leaves every field but its own as it was, and what is read after it. -/
namespace Sys2Proof.Machine

variable (s : State)

/-! ### pset: it changes regs alone -/

@[simp] theorem pset_pending (k v : Nat) : (pset s k v).pending = s.pending := rfl
@[simp] theorem pset_tb (k v : Nat) : (pset s k v).tb = s.tb := rfl
@[simp] theorem pset_sent (k v : Nat) : (pset s k v).sent = s.sent := rfl
@[simp] theorem pset_staged (k v : Nat) : (pset s k v).staged = s.staged := rfl
@[simp] theorem pset_octs (k v : Nat) : (pset s k v).octs = s.octs := rfl
@[simp] theorem pset_stagedOcts (k v : Nat) : (pset s k v).stagedOcts = s.stagedOcts := rfl
@[simp] theorem pset_pins (k v : Nat) : (pset s k v).pins = s.pins := rfl
@[simp] theorem pset_start (k v : Nat) : (pset s k v).start = s.start := rfl
@[simp] theorem pset_retained (k v : Nat) : (pset s k v).retained = s.retained := rfl
@[simp] theorem pset_flash (k v : Nat) : (pset s k v).flash = s.flash := rfl
@[simp] theorem pset_islands (k v : Nat) : (pset s k v).islands = s.islands := rfl
@[simp] theorem pset_mem (k v : Nat) : (pset s k v).mem = s.mem := rfl
@[simp] theorem pset_shells (k v : Nat) : (pset s k v).shells = s.shells := rfl
@[simp] theorem pset_seats (k v : Nat) : (pset s k v).seats = s.seats := rfl
@[simp] theorem pset_scrubSeats (k v : Nat) : (pset s k v).scrubSeats = s.scrubSeats := rfl
@[simp] theorem pset_scrubChans (k v : Nat) : (pset s k v).scrubChans = s.scrubChans := rfl
@[simp] theorem pset_retiredSeats (k v : Nat) : (pset s k v).retiredSeats = s.retiredSeats := rfl
@[simp] theorem pset_images (k v : Nat) : (pset s k v).images = s.images := rfl
@[simp] theorem pset_chans (k v : Nat) : (pset s k v).chans = s.chans := rfl
@[simp] theorem pset_cxlPorts (k v : Nat) : (pset s k v).cxlPorts = s.cxlPorts := rfl
@[simp] theorem pset_cxlRanges (k v : Nat) : (pset s k v).cxlRanges = s.cxlRanges := rfl
@[simp] theorem pset_cxlRun (k v : Nat) : (pset s k v).cxlRun = s.cxlRun := rfl
@[simp] theorem pset_cxlScrub (k v : Nat) : (pset s k v).cxlScrub = s.cxlScrub := rfl
@[simp] theorem pset_hostGen (k v : Nat) : (pset s k v).hostGen = s.hostGen := rfl
@[simp] theorem pset_hostWidth (k v : Nat) : (pset s k v).hostWidth = s.hostWidth := rfl
@[simp] theorem pset_ringDerate (k v : Nat) : (pset s k v).ringDerate = s.ringDerate := rfl
@[simp] theorem pset_tbCapacity (k v : Nat) : (pset s k v).tbCapacity = s.tbCapacity := rfl
@[simp] theorem pset_scaleHold (k v : Nat) : (pset s k v).scaleHold = s.scaleHold := rfl
@[simp] theorem pset_pace (k v : Nat) : (pset s k v).pace = s.pace := rfl
@[simp] theorem pset_slices (k v : Nat) : (pset s k v).slices = s.slices := rfl
@[simp] theorem pset_sliceBad (k v : Nat) : (pset s k v).sliceBad = s.sliceBad := rfl
@[simp] theorem pset_seqSlots (k v : Nat) : (pset s k v).seqSlots = s.seqSlots := rfl
@[simp] theorem pset_atc (k v : Nat) : (pset s k v).atc = s.atc := rfl
@[simp] theorem pset_rangeCaches (k v : Nat) : (pset s k v).rangeCaches = s.rangeCaches := rfl
@[simp] theorem pset_red (k v : Nat) : (pset s k v).red = s.red := rfl
@[simp] theorem pset_redAcks (k v : Nat) : (pset s k v).redAcks = s.redAcks := rfl
@[simp] theorem pset_upstream (k v : Nat) : (pset s k v).upstream = s.upstream := rfl
@[simp] theorem pset_refused (k v : Nat) : (pset s k v).refused = s.refused := rfl
@[simp] theorem pset_late (k v : Nat) : (pset s k v).late = s.late := rfl
@[simp] theorem pset_tbHold (k v : Nat) : (pset s k v).tbHold = s.tbHold := rfl
@[simp] theorem pset_linkRate (k v : Nat) : (pset s k v).linkRate = s.linkRate := rfl
@[simp] theorem pset_fns (k v : Nat) : (pset s k v).fns = s.fns := rfl
@[simp] theorem pset_fnRegs (k v : Nat) : (pset s k v).fnRegs = s.fnRegs := rfl
@[simp] theorem pset_numVfs (k v : Nat) : (pset s k v).numVfs = s.numVfs := rfl
@[simp] theorem pset_ctxs (k v : Nat) : (pset s k v).ctxs = s.ctxs := rfl
@[simp] theorem pset_nextCtxId (k v : Nat) : (pset s k v).nextCtxId = s.nextCtxId := rfl
@[simp] theorem pset_freeIds (k v : Nat) : (pset s k v).freeIds = s.freeIds := rfl
@[simp] theorem pset_swapping (k v : Nat) : (pset s k v).swapping = s.swapping := rfl
@[simp] theorem pset_ucRecs (k v : Nat) : (pset s k v).ucRecs = s.ucRecs := rfl
@[simp] theorem pset_dmwr (k v : Nat) : (pset s k v).dmwr = s.dmwr := rfl
@[simp] theorem pset_advWaits (k v : Nat) : (pset s k v).advWaits = s.advWaits := rfl
@[simp] theorem pset_advFar (k v : Nat) : (pset s k v).advFar = s.advFar := rfl
@[simp] theorem pset_bhFwd (k v : Nat) : (pset s k v).bhFwd = s.bhFwd := rfl
@[simp] theorem pset_sprints (k v : Nat) : (pset s k v).sprints = s.sprints := rfl
@[simp] theorem pset_nextId (k v : Nat) : (pset s k v).nextId = s.nextId := rfl
@[simp] theorem pset_errSeq (k v : Nat) : (pset s k v).errSeq = s.errSeq := rfl
@[simp] theorem pset_errLog (k v : Nat) : (pset s k v).errLog = s.errLog := rfl
@[simp] theorem pset_sessions (k v : Nat) : (pset s k v).sessions = s.sessions := rfl
@[simp] theorem pset_endpoints (k v : Nat) : (pset s k v).endpoints = s.endpoints := rfl
@[simp] theorem pset_nextSession (k v : Nat) : (pset s k v).nextSession = s.nextSession := rfl
@[simp] theorem pset_freeSessions (k v : Nat) : (pset s k v).freeSessions = s.freeSessions := rfl
@[simp] theorem pset_mbxs (k v : Nat) : (pset s k v).mbxs = s.mbxs := rfl
@[simp] theorem pset_eids (k v : Nat) : (pset s k v).eids = s.eids := rfl
@[simp] theorem pset_mctpIn (k v : Nat) : (pset s k v).mctpIn = s.mctpIn := rfl
@[simp] theorem pset_papQueue (k v : Nat) : (pset s k v).papQueue = s.papQueue := rfl
@[simp] theorem pset_mctpOffer (k v : Nat) : (pset s k v).mctpOffer = s.mctpOffer := rfl
@[simp] theorem pset_mctpCount (k v : Nat) : (pset s k v).mctpCount = s.mctpCount := rfl
@[simp] theorem pset_tbMctp (k v : Nat) : (pset s k v).tbMctp = s.tbMctp := rfl
@[simp] theorem pset_wake (k v : Nat) : (pset s k v).wake = s.wake := rfl
@[simp] theorem pset_ghPorts (k v : Nat) : (pset s k v).ghPorts = s.ghPorts := rfl
@[simp] theorem pset_ghTxn (k v : Nat) : (pset s k v).ghTxn = s.ghTxn := rfl
@[simp] theorem pset_ghTag (k v : Nat) : (pset s k v).ghTag = s.ghTag := rfl
@[simp] theorem pset_ghWaiting (k v : Nat) : (pset s k v).ghWaiting = s.ghWaiting := rfl
@[simp] theorem pset_ghMsgs (k v : Nat) : (pset s k v).ghMsgs = s.ghMsgs := rfl
@[simp] theorem pset_ghKept (k v : Nat) : (pset s k v).ghKept = s.ghKept := rfl
@[simp] theorem pset_ghLate (k v : Nat) : (pset s k v).ghLate = s.ghLate := rfl
@[simp] theorem pset_shardEpoch (k v : Nat) : (pset s k v).shardEpoch = s.shardEpoch := rfl
@[simp] theorem pset_nextLease (k v : Nat) : (pset s k v).nextLease = s.nextLease := rfl
@[simp] theorem pset_borrowed (k v : Nat) : (pset s k v).borrowed = s.borrowed := rfl
@[simp] theorem pset_lent (k v : Nat) : (pset s k v).lent = s.lent := rfl
@[simp] theorem pset_lendLog (k v : Nat) : (pset s k v).lendLog = s.lendLog := rfl
@[simp] theorem pset_lentEnding (k v : Nat) : (pset s k v).lentEnding = s.lentEnding := rfl
@[simp] theorem pset_gchans (k v : Nat) : (pset s k v).gchans = s.gchans := rfl
@[simp] theorem pset_bhHomes (k v : Nat) : (pset s k v).bhHomes = s.bhHomes := rfl
@[simp] theorem pset_bhHeld (k v : Nat) : (pset s k v).bhHeld = s.bhHeld := rfl
@[simp] theorem pset_bhApertures (k v : Nat) : (pset s k v).bhApertures = s.bhApertures := rfl
@[simp] theorem pset_bhChannels (k v : Nat) : (pset s k v).bhChannels = s.bhChannels := rfl
@[simp] theorem pset_bhRanges (k v : Nat) : (pset s k v).bhRanges = s.bhRanges := rfl
@[simp] theorem pset_power (k v : Nat) : (pset s k v).power = s.power := rfl
@[simp] theorem pset_fw (k v : Nat) : (pset s k v).fw = s.fw := rfl
@[simp] theorem pset_freeCtr (k v : Nat) : (pset s k v).freeCtr = s.freeCtr := rfl

/-! ### pinc: it changes regs alone -/

@[simp] theorem pinc_pending (k : Nat) : (pinc s k).pending = s.pending := rfl
@[simp] theorem pinc_tb (k : Nat) : (pinc s k).tb = s.tb := rfl
@[simp] theorem pinc_sent (k : Nat) : (pinc s k).sent = s.sent := rfl
@[simp] theorem pinc_staged (k : Nat) : (pinc s k).staged = s.staged := rfl
@[simp] theorem pinc_octs (k : Nat) : (pinc s k).octs = s.octs := rfl
@[simp] theorem pinc_stagedOcts (k : Nat) : (pinc s k).stagedOcts = s.stagedOcts := rfl
@[simp] theorem pinc_pins (k : Nat) : (pinc s k).pins = s.pins := rfl
@[simp] theorem pinc_start (k : Nat) : (pinc s k).start = s.start := rfl
@[simp] theorem pinc_retained (k : Nat) : (pinc s k).retained = s.retained := rfl
@[simp] theorem pinc_flash (k : Nat) : (pinc s k).flash = s.flash := rfl
@[simp] theorem pinc_islands (k : Nat) : (pinc s k).islands = s.islands := rfl
@[simp] theorem pinc_mem (k : Nat) : (pinc s k).mem = s.mem := rfl
@[simp] theorem pinc_shells (k : Nat) : (pinc s k).shells = s.shells := rfl
@[simp] theorem pinc_seats (k : Nat) : (pinc s k).seats = s.seats := rfl
@[simp] theorem pinc_scrubSeats (k : Nat) : (pinc s k).scrubSeats = s.scrubSeats := rfl
@[simp] theorem pinc_scrubChans (k : Nat) : (pinc s k).scrubChans = s.scrubChans := rfl
@[simp] theorem pinc_retiredSeats (k : Nat) : (pinc s k).retiredSeats = s.retiredSeats := rfl
@[simp] theorem pinc_images (k : Nat) : (pinc s k).images = s.images := rfl
@[simp] theorem pinc_chans (k : Nat) : (pinc s k).chans = s.chans := rfl
@[simp] theorem pinc_cxlPorts (k : Nat) : (pinc s k).cxlPorts = s.cxlPorts := rfl
@[simp] theorem pinc_cxlRanges (k : Nat) : (pinc s k).cxlRanges = s.cxlRanges := rfl
@[simp] theorem pinc_cxlRun (k : Nat) : (pinc s k).cxlRun = s.cxlRun := rfl
@[simp] theorem pinc_cxlScrub (k : Nat) : (pinc s k).cxlScrub = s.cxlScrub := rfl
@[simp] theorem pinc_hostGen (k : Nat) : (pinc s k).hostGen = s.hostGen := rfl
@[simp] theorem pinc_hostWidth (k : Nat) : (pinc s k).hostWidth = s.hostWidth := rfl
@[simp] theorem pinc_ringDerate (k : Nat) : (pinc s k).ringDerate = s.ringDerate := rfl
@[simp] theorem pinc_tbCapacity (k : Nat) : (pinc s k).tbCapacity = s.tbCapacity := rfl
@[simp] theorem pinc_scaleHold (k : Nat) : (pinc s k).scaleHold = s.scaleHold := rfl
@[simp] theorem pinc_pace (k : Nat) : (pinc s k).pace = s.pace := rfl
@[simp] theorem pinc_slices (k : Nat) : (pinc s k).slices = s.slices := rfl
@[simp] theorem pinc_sliceBad (k : Nat) : (pinc s k).sliceBad = s.sliceBad := rfl
@[simp] theorem pinc_seqSlots (k : Nat) : (pinc s k).seqSlots = s.seqSlots := rfl
@[simp] theorem pinc_atc (k : Nat) : (pinc s k).atc = s.atc := rfl
@[simp] theorem pinc_rangeCaches (k : Nat) : (pinc s k).rangeCaches = s.rangeCaches := rfl
@[simp] theorem pinc_red (k : Nat) : (pinc s k).red = s.red := rfl
@[simp] theorem pinc_redAcks (k : Nat) : (pinc s k).redAcks = s.redAcks := rfl
@[simp] theorem pinc_upstream (k : Nat) : (pinc s k).upstream = s.upstream := rfl
@[simp] theorem pinc_refused (k : Nat) : (pinc s k).refused = s.refused := rfl
@[simp] theorem pinc_late (k : Nat) : (pinc s k).late = s.late := rfl
@[simp] theorem pinc_tbHold (k : Nat) : (pinc s k).tbHold = s.tbHold := rfl
@[simp] theorem pinc_linkRate (k : Nat) : (pinc s k).linkRate = s.linkRate := rfl
@[simp] theorem pinc_fns (k : Nat) : (pinc s k).fns = s.fns := rfl
@[simp] theorem pinc_fnRegs (k : Nat) : (pinc s k).fnRegs = s.fnRegs := rfl
@[simp] theorem pinc_numVfs (k : Nat) : (pinc s k).numVfs = s.numVfs := rfl
@[simp] theorem pinc_ctxs (k : Nat) : (pinc s k).ctxs = s.ctxs := rfl
@[simp] theorem pinc_nextCtxId (k : Nat) : (pinc s k).nextCtxId = s.nextCtxId := rfl
@[simp] theorem pinc_freeIds (k : Nat) : (pinc s k).freeIds = s.freeIds := rfl
@[simp] theorem pinc_swapping (k : Nat) : (pinc s k).swapping = s.swapping := rfl
@[simp] theorem pinc_ucRecs (k : Nat) : (pinc s k).ucRecs = s.ucRecs := rfl
@[simp] theorem pinc_dmwr (k : Nat) : (pinc s k).dmwr = s.dmwr := rfl
@[simp] theorem pinc_advWaits (k : Nat) : (pinc s k).advWaits = s.advWaits := rfl
@[simp] theorem pinc_advFar (k : Nat) : (pinc s k).advFar = s.advFar := rfl
@[simp] theorem pinc_bhFwd (k : Nat) : (pinc s k).bhFwd = s.bhFwd := rfl
@[simp] theorem pinc_sprints (k : Nat) : (pinc s k).sprints = s.sprints := rfl
@[simp] theorem pinc_nextId (k : Nat) : (pinc s k).nextId = s.nextId := rfl
@[simp] theorem pinc_errSeq (k : Nat) : (pinc s k).errSeq = s.errSeq := rfl
@[simp] theorem pinc_errLog (k : Nat) : (pinc s k).errLog = s.errLog := rfl
@[simp] theorem pinc_sessions (k : Nat) : (pinc s k).sessions = s.sessions := rfl
@[simp] theorem pinc_endpoints (k : Nat) : (pinc s k).endpoints = s.endpoints := rfl
@[simp] theorem pinc_nextSession (k : Nat) : (pinc s k).nextSession = s.nextSession := rfl
@[simp] theorem pinc_freeSessions (k : Nat) : (pinc s k).freeSessions = s.freeSessions := rfl
@[simp] theorem pinc_mbxs (k : Nat) : (pinc s k).mbxs = s.mbxs := rfl
@[simp] theorem pinc_eids (k : Nat) : (pinc s k).eids = s.eids := rfl
@[simp] theorem pinc_mctpIn (k : Nat) : (pinc s k).mctpIn = s.mctpIn := rfl
@[simp] theorem pinc_papQueue (k : Nat) : (pinc s k).papQueue = s.papQueue := rfl
@[simp] theorem pinc_mctpOffer (k : Nat) : (pinc s k).mctpOffer = s.mctpOffer := rfl
@[simp] theorem pinc_mctpCount (k : Nat) : (pinc s k).mctpCount = s.mctpCount := rfl
@[simp] theorem pinc_tbMctp (k : Nat) : (pinc s k).tbMctp = s.tbMctp := rfl
@[simp] theorem pinc_wake (k : Nat) : (pinc s k).wake = s.wake := rfl
@[simp] theorem pinc_ghPorts (k : Nat) : (pinc s k).ghPorts = s.ghPorts := rfl
@[simp] theorem pinc_ghTxn (k : Nat) : (pinc s k).ghTxn = s.ghTxn := rfl
@[simp] theorem pinc_ghTag (k : Nat) : (pinc s k).ghTag = s.ghTag := rfl
@[simp] theorem pinc_ghWaiting (k : Nat) : (pinc s k).ghWaiting = s.ghWaiting := rfl
@[simp] theorem pinc_ghMsgs (k : Nat) : (pinc s k).ghMsgs = s.ghMsgs := rfl
@[simp] theorem pinc_ghKept (k : Nat) : (pinc s k).ghKept = s.ghKept := rfl
@[simp] theorem pinc_ghLate (k : Nat) : (pinc s k).ghLate = s.ghLate := rfl
@[simp] theorem pinc_shardEpoch (k : Nat) : (pinc s k).shardEpoch = s.shardEpoch := rfl
@[simp] theorem pinc_nextLease (k : Nat) : (pinc s k).nextLease = s.nextLease := rfl
@[simp] theorem pinc_borrowed (k : Nat) : (pinc s k).borrowed = s.borrowed := rfl
@[simp] theorem pinc_lent (k : Nat) : (pinc s k).lent = s.lent := rfl
@[simp] theorem pinc_lendLog (k : Nat) : (pinc s k).lendLog = s.lendLog := rfl
@[simp] theorem pinc_lentEnding (k : Nat) : (pinc s k).lentEnding = s.lentEnding := rfl
@[simp] theorem pinc_gchans (k : Nat) : (pinc s k).gchans = s.gchans := rfl
@[simp] theorem pinc_bhHomes (k : Nat) : (pinc s k).bhHomes = s.bhHomes := rfl
@[simp] theorem pinc_bhHeld (k : Nat) : (pinc s k).bhHeld = s.bhHeld := rfl
@[simp] theorem pinc_bhApertures (k : Nat) : (pinc s k).bhApertures = s.bhApertures := rfl
@[simp] theorem pinc_bhChannels (k : Nat) : (pinc s k).bhChannels = s.bhChannels := rfl
@[simp] theorem pinc_bhRanges (k : Nat) : (pinc s k).bhRanges = s.bhRanges := rfl
@[simp] theorem pinc_power (k : Nat) : (pinc s k).power = s.power := rfl
@[simp] theorem pinc_fw (k : Nat) : (pinc s k).fw = s.fw := rfl
@[simp] theorem pinc_freeCtr (k : Nat) : (pinc s k).freeCtr = s.freeCtr := rfl

/-! ### octPut: it changes octs alone -/

@[simp] theorem octPut_pending (k : Nat) (v : Bytes) : (octPut s k v).pending = s.pending := rfl
@[simp] theorem octPut_tb (k : Nat) (v : Bytes) : (octPut s k v).tb = s.tb := rfl
@[simp] theorem octPut_sent (k : Nat) (v : Bytes) : (octPut s k v).sent = s.sent := rfl
@[simp] theorem octPut_regs (k : Nat) (v : Bytes) : (octPut s k v).regs = s.regs := rfl
@[simp] theorem octPut_staged (k : Nat) (v : Bytes) : (octPut s k v).staged = s.staged := rfl
@[simp] theorem octPut_stagedOcts (k : Nat) (v : Bytes) : (octPut s k v).stagedOcts = s.stagedOcts := rfl
@[simp] theorem octPut_pins (k : Nat) (v : Bytes) : (octPut s k v).pins = s.pins := rfl
@[simp] theorem octPut_start (k : Nat) (v : Bytes) : (octPut s k v).start = s.start := rfl
@[simp] theorem octPut_retained (k : Nat) (v : Bytes) : (octPut s k v).retained = s.retained := rfl
@[simp] theorem octPut_flash (k : Nat) (v : Bytes) : (octPut s k v).flash = s.flash := rfl
@[simp] theorem octPut_islands (k : Nat) (v : Bytes) : (octPut s k v).islands = s.islands := rfl
@[simp] theorem octPut_mem (k : Nat) (v : Bytes) : (octPut s k v).mem = s.mem := rfl
@[simp] theorem octPut_shells (k : Nat) (v : Bytes) : (octPut s k v).shells = s.shells := rfl
@[simp] theorem octPut_seats (k : Nat) (v : Bytes) : (octPut s k v).seats = s.seats := rfl
@[simp] theorem octPut_scrubSeats (k : Nat) (v : Bytes) : (octPut s k v).scrubSeats = s.scrubSeats := rfl
@[simp] theorem octPut_scrubChans (k : Nat) (v : Bytes) : (octPut s k v).scrubChans = s.scrubChans := rfl
@[simp] theorem octPut_retiredSeats (k : Nat) (v : Bytes) : (octPut s k v).retiredSeats = s.retiredSeats := rfl
@[simp] theorem octPut_images (k : Nat) (v : Bytes) : (octPut s k v).images = s.images := rfl
@[simp] theorem octPut_chans (k : Nat) (v : Bytes) : (octPut s k v).chans = s.chans := rfl
@[simp] theorem octPut_cxlPorts (k : Nat) (v : Bytes) : (octPut s k v).cxlPorts = s.cxlPorts := rfl
@[simp] theorem octPut_cxlRanges (k : Nat) (v : Bytes) : (octPut s k v).cxlRanges = s.cxlRanges := rfl
@[simp] theorem octPut_cxlRun (k : Nat) (v : Bytes) : (octPut s k v).cxlRun = s.cxlRun := rfl
@[simp] theorem octPut_cxlScrub (k : Nat) (v : Bytes) : (octPut s k v).cxlScrub = s.cxlScrub := rfl
@[simp] theorem octPut_hostGen (k : Nat) (v : Bytes) : (octPut s k v).hostGen = s.hostGen := rfl
@[simp] theorem octPut_hostWidth (k : Nat) (v : Bytes) : (octPut s k v).hostWidth = s.hostWidth := rfl
@[simp] theorem octPut_ringDerate (k : Nat) (v : Bytes) : (octPut s k v).ringDerate = s.ringDerate := rfl
@[simp] theorem octPut_tbCapacity (k : Nat) (v : Bytes) : (octPut s k v).tbCapacity = s.tbCapacity := rfl
@[simp] theorem octPut_scaleHold (k : Nat) (v : Bytes) : (octPut s k v).scaleHold = s.scaleHold := rfl
@[simp] theorem octPut_pace (k : Nat) (v : Bytes) : (octPut s k v).pace = s.pace := rfl
@[simp] theorem octPut_slices (k : Nat) (v : Bytes) : (octPut s k v).slices = s.slices := rfl
@[simp] theorem octPut_sliceBad (k : Nat) (v : Bytes) : (octPut s k v).sliceBad = s.sliceBad := rfl
@[simp] theorem octPut_seqSlots (k : Nat) (v : Bytes) : (octPut s k v).seqSlots = s.seqSlots := rfl
@[simp] theorem octPut_atc (k : Nat) (v : Bytes) : (octPut s k v).atc = s.atc := rfl
@[simp] theorem octPut_rangeCaches (k : Nat) (v : Bytes) : (octPut s k v).rangeCaches = s.rangeCaches := rfl
@[simp] theorem octPut_red (k : Nat) (v : Bytes) : (octPut s k v).red = s.red := rfl
@[simp] theorem octPut_redAcks (k : Nat) (v : Bytes) : (octPut s k v).redAcks = s.redAcks := rfl
@[simp] theorem octPut_upstream (k : Nat) (v : Bytes) : (octPut s k v).upstream = s.upstream := rfl
@[simp] theorem octPut_refused (k : Nat) (v : Bytes) : (octPut s k v).refused = s.refused := rfl
@[simp] theorem octPut_late (k : Nat) (v : Bytes) : (octPut s k v).late = s.late := rfl
@[simp] theorem octPut_tbHold (k : Nat) (v : Bytes) : (octPut s k v).tbHold = s.tbHold := rfl
@[simp] theorem octPut_linkRate (k : Nat) (v : Bytes) : (octPut s k v).linkRate = s.linkRate := rfl
@[simp] theorem octPut_fns (k : Nat) (v : Bytes) : (octPut s k v).fns = s.fns := rfl
@[simp] theorem octPut_fnRegs (k : Nat) (v : Bytes) : (octPut s k v).fnRegs = s.fnRegs := rfl
@[simp] theorem octPut_numVfs (k : Nat) (v : Bytes) : (octPut s k v).numVfs = s.numVfs := rfl
@[simp] theorem octPut_ctxs (k : Nat) (v : Bytes) : (octPut s k v).ctxs = s.ctxs := rfl
@[simp] theorem octPut_nextCtxId (k : Nat) (v : Bytes) : (octPut s k v).nextCtxId = s.nextCtxId := rfl
@[simp] theorem octPut_freeIds (k : Nat) (v : Bytes) : (octPut s k v).freeIds = s.freeIds := rfl
@[simp] theorem octPut_swapping (k : Nat) (v : Bytes) : (octPut s k v).swapping = s.swapping := rfl
@[simp] theorem octPut_ucRecs (k : Nat) (v : Bytes) : (octPut s k v).ucRecs = s.ucRecs := rfl
@[simp] theorem octPut_dmwr (k : Nat) (v : Bytes) : (octPut s k v).dmwr = s.dmwr := rfl
@[simp] theorem octPut_advWaits (k : Nat) (v : Bytes) : (octPut s k v).advWaits = s.advWaits := rfl
@[simp] theorem octPut_advFar (k : Nat) (v : Bytes) : (octPut s k v).advFar = s.advFar := rfl
@[simp] theorem octPut_bhFwd (k : Nat) (v : Bytes) : (octPut s k v).bhFwd = s.bhFwd := rfl
@[simp] theorem octPut_sprints (k : Nat) (v : Bytes) : (octPut s k v).sprints = s.sprints := rfl
@[simp] theorem octPut_nextId (k : Nat) (v : Bytes) : (octPut s k v).nextId = s.nextId := rfl
@[simp] theorem octPut_errSeq (k : Nat) (v : Bytes) : (octPut s k v).errSeq = s.errSeq := rfl
@[simp] theorem octPut_errLog (k : Nat) (v : Bytes) : (octPut s k v).errLog = s.errLog := rfl
@[simp] theorem octPut_sessions (k : Nat) (v : Bytes) : (octPut s k v).sessions = s.sessions := rfl
@[simp] theorem octPut_endpoints (k : Nat) (v : Bytes) : (octPut s k v).endpoints = s.endpoints := rfl
@[simp] theorem octPut_nextSession (k : Nat) (v : Bytes) : (octPut s k v).nextSession = s.nextSession := rfl
@[simp] theorem octPut_freeSessions (k : Nat) (v : Bytes) : (octPut s k v).freeSessions = s.freeSessions := rfl
@[simp] theorem octPut_mbxs (k : Nat) (v : Bytes) : (octPut s k v).mbxs = s.mbxs := rfl
@[simp] theorem octPut_eids (k : Nat) (v : Bytes) : (octPut s k v).eids = s.eids := rfl
@[simp] theorem octPut_mctpIn (k : Nat) (v : Bytes) : (octPut s k v).mctpIn = s.mctpIn := rfl
@[simp] theorem octPut_papQueue (k : Nat) (v : Bytes) : (octPut s k v).papQueue = s.papQueue := rfl
@[simp] theorem octPut_mctpOffer (k : Nat) (v : Bytes) : (octPut s k v).mctpOffer = s.mctpOffer := rfl
@[simp] theorem octPut_mctpCount (k : Nat) (v : Bytes) : (octPut s k v).mctpCount = s.mctpCount := rfl
@[simp] theorem octPut_tbMctp (k : Nat) (v : Bytes) : (octPut s k v).tbMctp = s.tbMctp := rfl
@[simp] theorem octPut_wake (k : Nat) (v : Bytes) : (octPut s k v).wake = s.wake := rfl
@[simp] theorem octPut_ghPorts (k : Nat) (v : Bytes) : (octPut s k v).ghPorts = s.ghPorts := rfl
@[simp] theorem octPut_ghTxn (k : Nat) (v : Bytes) : (octPut s k v).ghTxn = s.ghTxn := rfl
@[simp] theorem octPut_ghTag (k : Nat) (v : Bytes) : (octPut s k v).ghTag = s.ghTag := rfl
@[simp] theorem octPut_ghWaiting (k : Nat) (v : Bytes) : (octPut s k v).ghWaiting = s.ghWaiting := rfl
@[simp] theorem octPut_ghMsgs (k : Nat) (v : Bytes) : (octPut s k v).ghMsgs = s.ghMsgs := rfl
@[simp] theorem octPut_ghKept (k : Nat) (v : Bytes) : (octPut s k v).ghKept = s.ghKept := rfl
@[simp] theorem octPut_ghLate (k : Nat) (v : Bytes) : (octPut s k v).ghLate = s.ghLate := rfl
@[simp] theorem octPut_shardEpoch (k : Nat) (v : Bytes) : (octPut s k v).shardEpoch = s.shardEpoch := rfl
@[simp] theorem octPut_nextLease (k : Nat) (v : Bytes) : (octPut s k v).nextLease = s.nextLease := rfl
@[simp] theorem octPut_borrowed (k : Nat) (v : Bytes) : (octPut s k v).borrowed = s.borrowed := rfl
@[simp] theorem octPut_lent (k : Nat) (v : Bytes) : (octPut s k v).lent = s.lent := rfl
@[simp] theorem octPut_lendLog (k : Nat) (v : Bytes) : (octPut s k v).lendLog = s.lendLog := rfl
@[simp] theorem octPut_lentEnding (k : Nat) (v : Bytes) : (octPut s k v).lentEnding = s.lentEnding := rfl
@[simp] theorem octPut_gchans (k : Nat) (v : Bytes) : (octPut s k v).gchans = s.gchans := rfl
@[simp] theorem octPut_bhHomes (k : Nat) (v : Bytes) : (octPut s k v).bhHomes = s.bhHomes := rfl
@[simp] theorem octPut_bhHeld (k : Nat) (v : Bytes) : (octPut s k v).bhHeld = s.bhHeld := rfl
@[simp] theorem octPut_bhApertures (k : Nat) (v : Bytes) : (octPut s k v).bhApertures = s.bhApertures := rfl
@[simp] theorem octPut_bhChannels (k : Nat) (v : Bytes) : (octPut s k v).bhChannels = s.bhChannels := rfl
@[simp] theorem octPut_bhRanges (k : Nat) (v : Bytes) : (octPut s k v).bhRanges = s.bhRanges := rfl
@[simp] theorem octPut_power (k : Nat) (v : Bytes) : (octPut s k v).power = s.power := rfl
@[simp] theorem octPut_fw (k : Nat) (v : Bytes) : (octPut s k v).fw = s.fw := rfl
@[simp] theorem octPut_freeCtr (k : Nat) (v : Bytes) : (octPut s k v).freeCtr = s.freeCtr := rfl

/-! ### ctxPut: it changes ctxs alone -/

@[simp] theorem ctxPut_pending (k : Nat) (v : Ctx) : (ctxPut s k v).pending = s.pending := rfl
@[simp] theorem ctxPut_tb (k : Nat) (v : Ctx) : (ctxPut s k v).tb = s.tb := rfl
@[simp] theorem ctxPut_sent (k : Nat) (v : Ctx) : (ctxPut s k v).sent = s.sent := rfl
@[simp] theorem ctxPut_regs (k : Nat) (v : Ctx) : (ctxPut s k v).regs = s.regs := rfl
@[simp] theorem ctxPut_staged (k : Nat) (v : Ctx) : (ctxPut s k v).staged = s.staged := rfl
@[simp] theorem ctxPut_octs (k : Nat) (v : Ctx) : (ctxPut s k v).octs = s.octs := rfl
@[simp] theorem ctxPut_stagedOcts (k : Nat) (v : Ctx) : (ctxPut s k v).stagedOcts = s.stagedOcts := rfl
@[simp] theorem ctxPut_pins (k : Nat) (v : Ctx) : (ctxPut s k v).pins = s.pins := rfl
@[simp] theorem ctxPut_start (k : Nat) (v : Ctx) : (ctxPut s k v).start = s.start := rfl
@[simp] theorem ctxPut_retained (k : Nat) (v : Ctx) : (ctxPut s k v).retained = s.retained := rfl
@[simp] theorem ctxPut_flash (k : Nat) (v : Ctx) : (ctxPut s k v).flash = s.flash := rfl
@[simp] theorem ctxPut_islands (k : Nat) (v : Ctx) : (ctxPut s k v).islands = s.islands := rfl
@[simp] theorem ctxPut_mem (k : Nat) (v : Ctx) : (ctxPut s k v).mem = s.mem := rfl
@[simp] theorem ctxPut_shells (k : Nat) (v : Ctx) : (ctxPut s k v).shells = s.shells := rfl
@[simp] theorem ctxPut_seats (k : Nat) (v : Ctx) : (ctxPut s k v).seats = s.seats := rfl
@[simp] theorem ctxPut_scrubSeats (k : Nat) (v : Ctx) : (ctxPut s k v).scrubSeats = s.scrubSeats := rfl
@[simp] theorem ctxPut_scrubChans (k : Nat) (v : Ctx) : (ctxPut s k v).scrubChans = s.scrubChans := rfl
@[simp] theorem ctxPut_retiredSeats (k : Nat) (v : Ctx) : (ctxPut s k v).retiredSeats = s.retiredSeats := rfl
@[simp] theorem ctxPut_images (k : Nat) (v : Ctx) : (ctxPut s k v).images = s.images := rfl
@[simp] theorem ctxPut_chans (k : Nat) (v : Ctx) : (ctxPut s k v).chans = s.chans := rfl
@[simp] theorem ctxPut_cxlPorts (k : Nat) (v : Ctx) : (ctxPut s k v).cxlPorts = s.cxlPorts := rfl
@[simp] theorem ctxPut_cxlRanges (k : Nat) (v : Ctx) : (ctxPut s k v).cxlRanges = s.cxlRanges := rfl
@[simp] theorem ctxPut_cxlRun (k : Nat) (v : Ctx) : (ctxPut s k v).cxlRun = s.cxlRun := rfl
@[simp] theorem ctxPut_cxlScrub (k : Nat) (v : Ctx) : (ctxPut s k v).cxlScrub = s.cxlScrub := rfl
@[simp] theorem ctxPut_hostGen (k : Nat) (v : Ctx) : (ctxPut s k v).hostGen = s.hostGen := rfl
@[simp] theorem ctxPut_hostWidth (k : Nat) (v : Ctx) : (ctxPut s k v).hostWidth = s.hostWidth := rfl
@[simp] theorem ctxPut_ringDerate (k : Nat) (v : Ctx) : (ctxPut s k v).ringDerate = s.ringDerate := rfl
@[simp] theorem ctxPut_tbCapacity (k : Nat) (v : Ctx) : (ctxPut s k v).tbCapacity = s.tbCapacity := rfl
@[simp] theorem ctxPut_scaleHold (k : Nat) (v : Ctx) : (ctxPut s k v).scaleHold = s.scaleHold := rfl
@[simp] theorem ctxPut_pace (k : Nat) (v : Ctx) : (ctxPut s k v).pace = s.pace := rfl
@[simp] theorem ctxPut_slices (k : Nat) (v : Ctx) : (ctxPut s k v).slices = s.slices := rfl
@[simp] theorem ctxPut_sliceBad (k : Nat) (v : Ctx) : (ctxPut s k v).sliceBad = s.sliceBad := rfl
@[simp] theorem ctxPut_seqSlots (k : Nat) (v : Ctx) : (ctxPut s k v).seqSlots = s.seqSlots := rfl
@[simp] theorem ctxPut_atc (k : Nat) (v : Ctx) : (ctxPut s k v).atc = s.atc := rfl
@[simp] theorem ctxPut_rangeCaches (k : Nat) (v : Ctx) : (ctxPut s k v).rangeCaches = s.rangeCaches := rfl
@[simp] theorem ctxPut_red (k : Nat) (v : Ctx) : (ctxPut s k v).red = s.red := rfl
@[simp] theorem ctxPut_redAcks (k : Nat) (v : Ctx) : (ctxPut s k v).redAcks = s.redAcks := rfl
@[simp] theorem ctxPut_upstream (k : Nat) (v : Ctx) : (ctxPut s k v).upstream = s.upstream := rfl
@[simp] theorem ctxPut_refused (k : Nat) (v : Ctx) : (ctxPut s k v).refused = s.refused := rfl
@[simp] theorem ctxPut_late (k : Nat) (v : Ctx) : (ctxPut s k v).late = s.late := rfl
@[simp] theorem ctxPut_tbHold (k : Nat) (v : Ctx) : (ctxPut s k v).tbHold = s.tbHold := rfl
@[simp] theorem ctxPut_linkRate (k : Nat) (v : Ctx) : (ctxPut s k v).linkRate = s.linkRate := rfl
@[simp] theorem ctxPut_fns (k : Nat) (v : Ctx) : (ctxPut s k v).fns = s.fns := rfl
@[simp] theorem ctxPut_fnRegs (k : Nat) (v : Ctx) : (ctxPut s k v).fnRegs = s.fnRegs := rfl
@[simp] theorem ctxPut_numVfs (k : Nat) (v : Ctx) : (ctxPut s k v).numVfs = s.numVfs := rfl
@[simp] theorem ctxPut_nextCtxId (k : Nat) (v : Ctx) : (ctxPut s k v).nextCtxId = s.nextCtxId := rfl
@[simp] theorem ctxPut_freeIds (k : Nat) (v : Ctx) : (ctxPut s k v).freeIds = s.freeIds := rfl
@[simp] theorem ctxPut_swapping (k : Nat) (v : Ctx) : (ctxPut s k v).swapping = s.swapping := rfl
@[simp] theorem ctxPut_ucRecs (k : Nat) (v : Ctx) : (ctxPut s k v).ucRecs = s.ucRecs := rfl
@[simp] theorem ctxPut_dmwr (k : Nat) (v : Ctx) : (ctxPut s k v).dmwr = s.dmwr := rfl
@[simp] theorem ctxPut_advWaits (k : Nat) (v : Ctx) : (ctxPut s k v).advWaits = s.advWaits := rfl
@[simp] theorem ctxPut_advFar (k : Nat) (v : Ctx) : (ctxPut s k v).advFar = s.advFar := rfl
@[simp] theorem ctxPut_bhFwd (k : Nat) (v : Ctx) : (ctxPut s k v).bhFwd = s.bhFwd := rfl
@[simp] theorem ctxPut_sprints (k : Nat) (v : Ctx) : (ctxPut s k v).sprints = s.sprints := rfl
@[simp] theorem ctxPut_nextId (k : Nat) (v : Ctx) : (ctxPut s k v).nextId = s.nextId := rfl
@[simp] theorem ctxPut_errSeq (k : Nat) (v : Ctx) : (ctxPut s k v).errSeq = s.errSeq := rfl
@[simp] theorem ctxPut_errLog (k : Nat) (v : Ctx) : (ctxPut s k v).errLog = s.errLog := rfl
@[simp] theorem ctxPut_sessions (k : Nat) (v : Ctx) : (ctxPut s k v).sessions = s.sessions := rfl
@[simp] theorem ctxPut_endpoints (k : Nat) (v : Ctx) : (ctxPut s k v).endpoints = s.endpoints := rfl
@[simp] theorem ctxPut_nextSession (k : Nat) (v : Ctx) : (ctxPut s k v).nextSession = s.nextSession := rfl
@[simp] theorem ctxPut_freeSessions (k : Nat) (v : Ctx) : (ctxPut s k v).freeSessions = s.freeSessions := rfl
@[simp] theorem ctxPut_mbxs (k : Nat) (v : Ctx) : (ctxPut s k v).mbxs = s.mbxs := rfl
@[simp] theorem ctxPut_eids (k : Nat) (v : Ctx) : (ctxPut s k v).eids = s.eids := rfl
@[simp] theorem ctxPut_mctpIn (k : Nat) (v : Ctx) : (ctxPut s k v).mctpIn = s.mctpIn := rfl
@[simp] theorem ctxPut_papQueue (k : Nat) (v : Ctx) : (ctxPut s k v).papQueue = s.papQueue := rfl
@[simp] theorem ctxPut_mctpOffer (k : Nat) (v : Ctx) : (ctxPut s k v).mctpOffer = s.mctpOffer := rfl
@[simp] theorem ctxPut_mctpCount (k : Nat) (v : Ctx) : (ctxPut s k v).mctpCount = s.mctpCount := rfl
@[simp] theorem ctxPut_tbMctp (k : Nat) (v : Ctx) : (ctxPut s k v).tbMctp = s.tbMctp := rfl
@[simp] theorem ctxPut_wake (k : Nat) (v : Ctx) : (ctxPut s k v).wake = s.wake := rfl
@[simp] theorem ctxPut_ghPorts (k : Nat) (v : Ctx) : (ctxPut s k v).ghPorts = s.ghPorts := rfl
@[simp] theorem ctxPut_ghTxn (k : Nat) (v : Ctx) : (ctxPut s k v).ghTxn = s.ghTxn := rfl
@[simp] theorem ctxPut_ghTag (k : Nat) (v : Ctx) : (ctxPut s k v).ghTag = s.ghTag := rfl
@[simp] theorem ctxPut_ghWaiting (k : Nat) (v : Ctx) : (ctxPut s k v).ghWaiting = s.ghWaiting := rfl
@[simp] theorem ctxPut_ghMsgs (k : Nat) (v : Ctx) : (ctxPut s k v).ghMsgs = s.ghMsgs := rfl
@[simp] theorem ctxPut_ghKept (k : Nat) (v : Ctx) : (ctxPut s k v).ghKept = s.ghKept := rfl
@[simp] theorem ctxPut_ghLate (k : Nat) (v : Ctx) : (ctxPut s k v).ghLate = s.ghLate := rfl
@[simp] theorem ctxPut_shardEpoch (k : Nat) (v : Ctx) : (ctxPut s k v).shardEpoch = s.shardEpoch := rfl
@[simp] theorem ctxPut_nextLease (k : Nat) (v : Ctx) : (ctxPut s k v).nextLease = s.nextLease := rfl
@[simp] theorem ctxPut_borrowed (k : Nat) (v : Ctx) : (ctxPut s k v).borrowed = s.borrowed := rfl
@[simp] theorem ctxPut_lent (k : Nat) (v : Ctx) : (ctxPut s k v).lent = s.lent := rfl
@[simp] theorem ctxPut_lendLog (k : Nat) (v : Ctx) : (ctxPut s k v).lendLog = s.lendLog := rfl
@[simp] theorem ctxPut_lentEnding (k : Nat) (v : Ctx) : (ctxPut s k v).lentEnding = s.lentEnding := rfl
@[simp] theorem ctxPut_gchans (k : Nat) (v : Ctx) : (ctxPut s k v).gchans = s.gchans := rfl
@[simp] theorem ctxPut_bhHomes (k : Nat) (v : Ctx) : (ctxPut s k v).bhHomes = s.bhHomes := rfl
@[simp] theorem ctxPut_bhHeld (k : Nat) (v : Ctx) : (ctxPut s k v).bhHeld = s.bhHeld := rfl
@[simp] theorem ctxPut_bhApertures (k : Nat) (v : Ctx) : (ctxPut s k v).bhApertures = s.bhApertures := rfl
@[simp] theorem ctxPut_bhChannels (k : Nat) (v : Ctx) : (ctxPut s k v).bhChannels = s.bhChannels := rfl
@[simp] theorem ctxPut_bhRanges (k : Nat) (v : Ctx) : (ctxPut s k v).bhRanges = s.bhRanges := rfl
@[simp] theorem ctxPut_power (k : Nat) (v : Ctx) : (ctxPut s k v).power = s.power := rfl
@[simp] theorem ctxPut_fw (k : Nat) (v : Ctx) : (ctxPut s k v).fw = s.fw := rfl
@[simp] theorem ctxPut_freeCtr (k : Nat) (v : Ctx) : (ctxPut s k v).freeCtr = s.freeCtr := rfl

/-! ### shellPut: it changes shells alone -/

@[simp] theorem shellPut_pending (k : Nat) (v : Shell) : (shellPut s k v).pending = s.pending := rfl
@[simp] theorem shellPut_tb (k : Nat) (v : Shell) : (shellPut s k v).tb = s.tb := rfl
@[simp] theorem shellPut_sent (k : Nat) (v : Shell) : (shellPut s k v).sent = s.sent := rfl
@[simp] theorem shellPut_regs (k : Nat) (v : Shell) : (shellPut s k v).regs = s.regs := rfl
@[simp] theorem shellPut_staged (k : Nat) (v : Shell) : (shellPut s k v).staged = s.staged := rfl
@[simp] theorem shellPut_octs (k : Nat) (v : Shell) : (shellPut s k v).octs = s.octs := rfl
@[simp] theorem shellPut_stagedOcts (k : Nat) (v : Shell) : (shellPut s k v).stagedOcts = s.stagedOcts := rfl
@[simp] theorem shellPut_pins (k : Nat) (v : Shell) : (shellPut s k v).pins = s.pins := rfl
@[simp] theorem shellPut_start (k : Nat) (v : Shell) : (shellPut s k v).start = s.start := rfl
@[simp] theorem shellPut_retained (k : Nat) (v : Shell) : (shellPut s k v).retained = s.retained := rfl
@[simp] theorem shellPut_flash (k : Nat) (v : Shell) : (shellPut s k v).flash = s.flash := rfl
@[simp] theorem shellPut_islands (k : Nat) (v : Shell) : (shellPut s k v).islands = s.islands := rfl
@[simp] theorem shellPut_mem (k : Nat) (v : Shell) : (shellPut s k v).mem = s.mem := rfl
@[simp] theorem shellPut_seats (k : Nat) (v : Shell) : (shellPut s k v).seats = s.seats := rfl
@[simp] theorem shellPut_scrubSeats (k : Nat) (v : Shell) : (shellPut s k v).scrubSeats = s.scrubSeats := rfl
@[simp] theorem shellPut_scrubChans (k : Nat) (v : Shell) : (shellPut s k v).scrubChans = s.scrubChans := rfl
@[simp] theorem shellPut_retiredSeats (k : Nat) (v : Shell) : (shellPut s k v).retiredSeats = s.retiredSeats := rfl
@[simp] theorem shellPut_images (k : Nat) (v : Shell) : (shellPut s k v).images = s.images := rfl
@[simp] theorem shellPut_chans (k : Nat) (v : Shell) : (shellPut s k v).chans = s.chans := rfl
@[simp] theorem shellPut_cxlPorts (k : Nat) (v : Shell) : (shellPut s k v).cxlPorts = s.cxlPorts := rfl
@[simp] theorem shellPut_cxlRanges (k : Nat) (v : Shell) : (shellPut s k v).cxlRanges = s.cxlRanges := rfl
@[simp] theorem shellPut_cxlRun (k : Nat) (v : Shell) : (shellPut s k v).cxlRun = s.cxlRun := rfl
@[simp] theorem shellPut_cxlScrub (k : Nat) (v : Shell) : (shellPut s k v).cxlScrub = s.cxlScrub := rfl
@[simp] theorem shellPut_hostGen (k : Nat) (v : Shell) : (shellPut s k v).hostGen = s.hostGen := rfl
@[simp] theorem shellPut_hostWidth (k : Nat) (v : Shell) : (shellPut s k v).hostWidth = s.hostWidth := rfl
@[simp] theorem shellPut_ringDerate (k : Nat) (v : Shell) : (shellPut s k v).ringDerate = s.ringDerate := rfl
@[simp] theorem shellPut_tbCapacity (k : Nat) (v : Shell) : (shellPut s k v).tbCapacity = s.tbCapacity := rfl
@[simp] theorem shellPut_scaleHold (k : Nat) (v : Shell) : (shellPut s k v).scaleHold = s.scaleHold := rfl
@[simp] theorem shellPut_pace (k : Nat) (v : Shell) : (shellPut s k v).pace = s.pace := rfl
@[simp] theorem shellPut_slices (k : Nat) (v : Shell) : (shellPut s k v).slices = s.slices := rfl
@[simp] theorem shellPut_sliceBad (k : Nat) (v : Shell) : (shellPut s k v).sliceBad = s.sliceBad := rfl
@[simp] theorem shellPut_seqSlots (k : Nat) (v : Shell) : (shellPut s k v).seqSlots = s.seqSlots := rfl
@[simp] theorem shellPut_atc (k : Nat) (v : Shell) : (shellPut s k v).atc = s.atc := rfl
@[simp] theorem shellPut_rangeCaches (k : Nat) (v : Shell) : (shellPut s k v).rangeCaches = s.rangeCaches := rfl
@[simp] theorem shellPut_red (k : Nat) (v : Shell) : (shellPut s k v).red = s.red := rfl
@[simp] theorem shellPut_redAcks (k : Nat) (v : Shell) : (shellPut s k v).redAcks = s.redAcks := rfl
@[simp] theorem shellPut_upstream (k : Nat) (v : Shell) : (shellPut s k v).upstream = s.upstream := rfl
@[simp] theorem shellPut_refused (k : Nat) (v : Shell) : (shellPut s k v).refused = s.refused := rfl
@[simp] theorem shellPut_late (k : Nat) (v : Shell) : (shellPut s k v).late = s.late := rfl
@[simp] theorem shellPut_tbHold (k : Nat) (v : Shell) : (shellPut s k v).tbHold = s.tbHold := rfl
@[simp] theorem shellPut_linkRate (k : Nat) (v : Shell) : (shellPut s k v).linkRate = s.linkRate := rfl
@[simp] theorem shellPut_fns (k : Nat) (v : Shell) : (shellPut s k v).fns = s.fns := rfl
@[simp] theorem shellPut_fnRegs (k : Nat) (v : Shell) : (shellPut s k v).fnRegs = s.fnRegs := rfl
@[simp] theorem shellPut_numVfs (k : Nat) (v : Shell) : (shellPut s k v).numVfs = s.numVfs := rfl
@[simp] theorem shellPut_ctxs (k : Nat) (v : Shell) : (shellPut s k v).ctxs = s.ctxs := rfl
@[simp] theorem shellPut_nextCtxId (k : Nat) (v : Shell) : (shellPut s k v).nextCtxId = s.nextCtxId := rfl
@[simp] theorem shellPut_freeIds (k : Nat) (v : Shell) : (shellPut s k v).freeIds = s.freeIds := rfl
@[simp] theorem shellPut_swapping (k : Nat) (v : Shell) : (shellPut s k v).swapping = s.swapping := rfl
@[simp] theorem shellPut_ucRecs (k : Nat) (v : Shell) : (shellPut s k v).ucRecs = s.ucRecs := rfl
@[simp] theorem shellPut_dmwr (k : Nat) (v : Shell) : (shellPut s k v).dmwr = s.dmwr := rfl
@[simp] theorem shellPut_advWaits (k : Nat) (v : Shell) : (shellPut s k v).advWaits = s.advWaits := rfl
@[simp] theorem shellPut_advFar (k : Nat) (v : Shell) : (shellPut s k v).advFar = s.advFar := rfl
@[simp] theorem shellPut_bhFwd (k : Nat) (v : Shell) : (shellPut s k v).bhFwd = s.bhFwd := rfl
@[simp] theorem shellPut_sprints (k : Nat) (v : Shell) : (shellPut s k v).sprints = s.sprints := rfl
@[simp] theorem shellPut_nextId (k : Nat) (v : Shell) : (shellPut s k v).nextId = s.nextId := rfl
@[simp] theorem shellPut_errSeq (k : Nat) (v : Shell) : (shellPut s k v).errSeq = s.errSeq := rfl
@[simp] theorem shellPut_errLog (k : Nat) (v : Shell) : (shellPut s k v).errLog = s.errLog := rfl
@[simp] theorem shellPut_sessions (k : Nat) (v : Shell) : (shellPut s k v).sessions = s.sessions := rfl
@[simp] theorem shellPut_endpoints (k : Nat) (v : Shell) : (shellPut s k v).endpoints = s.endpoints := rfl
@[simp] theorem shellPut_nextSession (k : Nat) (v : Shell) : (shellPut s k v).nextSession = s.nextSession := rfl
@[simp] theorem shellPut_freeSessions (k : Nat) (v : Shell) : (shellPut s k v).freeSessions = s.freeSessions := rfl
@[simp] theorem shellPut_mbxs (k : Nat) (v : Shell) : (shellPut s k v).mbxs = s.mbxs := rfl
@[simp] theorem shellPut_eids (k : Nat) (v : Shell) : (shellPut s k v).eids = s.eids := rfl
@[simp] theorem shellPut_mctpIn (k : Nat) (v : Shell) : (shellPut s k v).mctpIn = s.mctpIn := rfl
@[simp] theorem shellPut_papQueue (k : Nat) (v : Shell) : (shellPut s k v).papQueue = s.papQueue := rfl
@[simp] theorem shellPut_mctpOffer (k : Nat) (v : Shell) : (shellPut s k v).mctpOffer = s.mctpOffer := rfl
@[simp] theorem shellPut_mctpCount (k : Nat) (v : Shell) : (shellPut s k v).mctpCount = s.mctpCount := rfl
@[simp] theorem shellPut_tbMctp (k : Nat) (v : Shell) : (shellPut s k v).tbMctp = s.tbMctp := rfl
@[simp] theorem shellPut_wake (k : Nat) (v : Shell) : (shellPut s k v).wake = s.wake := rfl
@[simp] theorem shellPut_ghPorts (k : Nat) (v : Shell) : (shellPut s k v).ghPorts = s.ghPorts := rfl
@[simp] theorem shellPut_ghTxn (k : Nat) (v : Shell) : (shellPut s k v).ghTxn = s.ghTxn := rfl
@[simp] theorem shellPut_ghTag (k : Nat) (v : Shell) : (shellPut s k v).ghTag = s.ghTag := rfl
@[simp] theorem shellPut_ghWaiting (k : Nat) (v : Shell) : (shellPut s k v).ghWaiting = s.ghWaiting := rfl
@[simp] theorem shellPut_ghMsgs (k : Nat) (v : Shell) : (shellPut s k v).ghMsgs = s.ghMsgs := rfl
@[simp] theorem shellPut_ghKept (k : Nat) (v : Shell) : (shellPut s k v).ghKept = s.ghKept := rfl
@[simp] theorem shellPut_ghLate (k : Nat) (v : Shell) : (shellPut s k v).ghLate = s.ghLate := rfl
@[simp] theorem shellPut_shardEpoch (k : Nat) (v : Shell) : (shellPut s k v).shardEpoch = s.shardEpoch := rfl
@[simp] theorem shellPut_nextLease (k : Nat) (v : Shell) : (shellPut s k v).nextLease = s.nextLease := rfl
@[simp] theorem shellPut_borrowed (k : Nat) (v : Shell) : (shellPut s k v).borrowed = s.borrowed := rfl
@[simp] theorem shellPut_lent (k : Nat) (v : Shell) : (shellPut s k v).lent = s.lent := rfl
@[simp] theorem shellPut_lendLog (k : Nat) (v : Shell) : (shellPut s k v).lendLog = s.lendLog := rfl
@[simp] theorem shellPut_lentEnding (k : Nat) (v : Shell) : (shellPut s k v).lentEnding = s.lentEnding := rfl
@[simp] theorem shellPut_gchans (k : Nat) (v : Shell) : (shellPut s k v).gchans = s.gchans := rfl
@[simp] theorem shellPut_bhHomes (k : Nat) (v : Shell) : (shellPut s k v).bhHomes = s.bhHomes := rfl
@[simp] theorem shellPut_bhHeld (k : Nat) (v : Shell) : (shellPut s k v).bhHeld = s.bhHeld := rfl
@[simp] theorem shellPut_bhApertures (k : Nat) (v : Shell) : (shellPut s k v).bhApertures = s.bhApertures := rfl
@[simp] theorem shellPut_bhChannels (k : Nat) (v : Shell) : (shellPut s k v).bhChannels = s.bhChannels := rfl
@[simp] theorem shellPut_bhRanges (k : Nat) (v : Shell) : (shellPut s k v).bhRanges = s.bhRanges := rfl
@[simp] theorem shellPut_power (k : Nat) (v : Shell) : (shellPut s k v).power = s.power := rfl
@[simp] theorem shellPut_fw (k : Nat) (v : Shell) : (shellPut s k v).fw = s.fw := rfl
@[simp] theorem shellPut_freeCtr (k : Nat) (v : Shell) : (shellPut s k v).freeCtr = s.freeCtr := rfl

/-! ### seatPut: it changes seats alone -/

@[simp] theorem seatPut_pending (k : Nat) (v : Seat) : (seatPut s k v).pending = s.pending := rfl
@[simp] theorem seatPut_tb (k : Nat) (v : Seat) : (seatPut s k v).tb = s.tb := rfl
@[simp] theorem seatPut_sent (k : Nat) (v : Seat) : (seatPut s k v).sent = s.sent := rfl
@[simp] theorem seatPut_regs (k : Nat) (v : Seat) : (seatPut s k v).regs = s.regs := rfl
@[simp] theorem seatPut_staged (k : Nat) (v : Seat) : (seatPut s k v).staged = s.staged := rfl
@[simp] theorem seatPut_octs (k : Nat) (v : Seat) : (seatPut s k v).octs = s.octs := rfl
@[simp] theorem seatPut_stagedOcts (k : Nat) (v : Seat) : (seatPut s k v).stagedOcts = s.stagedOcts := rfl
@[simp] theorem seatPut_pins (k : Nat) (v : Seat) : (seatPut s k v).pins = s.pins := rfl
@[simp] theorem seatPut_start (k : Nat) (v : Seat) : (seatPut s k v).start = s.start := rfl
@[simp] theorem seatPut_retained (k : Nat) (v : Seat) : (seatPut s k v).retained = s.retained := rfl
@[simp] theorem seatPut_flash (k : Nat) (v : Seat) : (seatPut s k v).flash = s.flash := rfl
@[simp] theorem seatPut_islands (k : Nat) (v : Seat) : (seatPut s k v).islands = s.islands := rfl
@[simp] theorem seatPut_mem (k : Nat) (v : Seat) : (seatPut s k v).mem = s.mem := rfl
@[simp] theorem seatPut_shells (k : Nat) (v : Seat) : (seatPut s k v).shells = s.shells := rfl
@[simp] theorem seatPut_scrubSeats (k : Nat) (v : Seat) : (seatPut s k v).scrubSeats = s.scrubSeats := rfl
@[simp] theorem seatPut_scrubChans (k : Nat) (v : Seat) : (seatPut s k v).scrubChans = s.scrubChans := rfl
@[simp] theorem seatPut_retiredSeats (k : Nat) (v : Seat) : (seatPut s k v).retiredSeats = s.retiredSeats := rfl
@[simp] theorem seatPut_images (k : Nat) (v : Seat) : (seatPut s k v).images = s.images := rfl
@[simp] theorem seatPut_chans (k : Nat) (v : Seat) : (seatPut s k v).chans = s.chans := rfl
@[simp] theorem seatPut_cxlPorts (k : Nat) (v : Seat) : (seatPut s k v).cxlPorts = s.cxlPorts := rfl
@[simp] theorem seatPut_cxlRanges (k : Nat) (v : Seat) : (seatPut s k v).cxlRanges = s.cxlRanges := rfl
@[simp] theorem seatPut_cxlRun (k : Nat) (v : Seat) : (seatPut s k v).cxlRun = s.cxlRun := rfl
@[simp] theorem seatPut_cxlScrub (k : Nat) (v : Seat) : (seatPut s k v).cxlScrub = s.cxlScrub := rfl
@[simp] theorem seatPut_hostGen (k : Nat) (v : Seat) : (seatPut s k v).hostGen = s.hostGen := rfl
@[simp] theorem seatPut_hostWidth (k : Nat) (v : Seat) : (seatPut s k v).hostWidth = s.hostWidth := rfl
@[simp] theorem seatPut_ringDerate (k : Nat) (v : Seat) : (seatPut s k v).ringDerate = s.ringDerate := rfl
@[simp] theorem seatPut_tbCapacity (k : Nat) (v : Seat) : (seatPut s k v).tbCapacity = s.tbCapacity := rfl
@[simp] theorem seatPut_scaleHold (k : Nat) (v : Seat) : (seatPut s k v).scaleHold = s.scaleHold := rfl
@[simp] theorem seatPut_pace (k : Nat) (v : Seat) : (seatPut s k v).pace = s.pace := rfl
@[simp] theorem seatPut_slices (k : Nat) (v : Seat) : (seatPut s k v).slices = s.slices := rfl
@[simp] theorem seatPut_sliceBad (k : Nat) (v : Seat) : (seatPut s k v).sliceBad = s.sliceBad := rfl
@[simp] theorem seatPut_seqSlots (k : Nat) (v : Seat) : (seatPut s k v).seqSlots = s.seqSlots := rfl
@[simp] theorem seatPut_atc (k : Nat) (v : Seat) : (seatPut s k v).atc = s.atc := rfl
@[simp] theorem seatPut_rangeCaches (k : Nat) (v : Seat) : (seatPut s k v).rangeCaches = s.rangeCaches := rfl
@[simp] theorem seatPut_red (k : Nat) (v : Seat) : (seatPut s k v).red = s.red := rfl
@[simp] theorem seatPut_redAcks (k : Nat) (v : Seat) : (seatPut s k v).redAcks = s.redAcks := rfl
@[simp] theorem seatPut_upstream (k : Nat) (v : Seat) : (seatPut s k v).upstream = s.upstream := rfl
@[simp] theorem seatPut_refused (k : Nat) (v : Seat) : (seatPut s k v).refused = s.refused := rfl
@[simp] theorem seatPut_late (k : Nat) (v : Seat) : (seatPut s k v).late = s.late := rfl
@[simp] theorem seatPut_tbHold (k : Nat) (v : Seat) : (seatPut s k v).tbHold = s.tbHold := rfl
@[simp] theorem seatPut_linkRate (k : Nat) (v : Seat) : (seatPut s k v).linkRate = s.linkRate := rfl
@[simp] theorem seatPut_fns (k : Nat) (v : Seat) : (seatPut s k v).fns = s.fns := rfl
@[simp] theorem seatPut_fnRegs (k : Nat) (v : Seat) : (seatPut s k v).fnRegs = s.fnRegs := rfl
@[simp] theorem seatPut_numVfs (k : Nat) (v : Seat) : (seatPut s k v).numVfs = s.numVfs := rfl
@[simp] theorem seatPut_ctxs (k : Nat) (v : Seat) : (seatPut s k v).ctxs = s.ctxs := rfl
@[simp] theorem seatPut_nextCtxId (k : Nat) (v : Seat) : (seatPut s k v).nextCtxId = s.nextCtxId := rfl
@[simp] theorem seatPut_freeIds (k : Nat) (v : Seat) : (seatPut s k v).freeIds = s.freeIds := rfl
@[simp] theorem seatPut_swapping (k : Nat) (v : Seat) : (seatPut s k v).swapping = s.swapping := rfl
@[simp] theorem seatPut_ucRecs (k : Nat) (v : Seat) : (seatPut s k v).ucRecs = s.ucRecs := rfl
@[simp] theorem seatPut_dmwr (k : Nat) (v : Seat) : (seatPut s k v).dmwr = s.dmwr := rfl
@[simp] theorem seatPut_advWaits (k : Nat) (v : Seat) : (seatPut s k v).advWaits = s.advWaits := rfl
@[simp] theorem seatPut_advFar (k : Nat) (v : Seat) : (seatPut s k v).advFar = s.advFar := rfl
@[simp] theorem seatPut_bhFwd (k : Nat) (v : Seat) : (seatPut s k v).bhFwd = s.bhFwd := rfl
@[simp] theorem seatPut_sprints (k : Nat) (v : Seat) : (seatPut s k v).sprints = s.sprints := rfl
@[simp] theorem seatPut_nextId (k : Nat) (v : Seat) : (seatPut s k v).nextId = s.nextId := rfl
@[simp] theorem seatPut_errSeq (k : Nat) (v : Seat) : (seatPut s k v).errSeq = s.errSeq := rfl
@[simp] theorem seatPut_errLog (k : Nat) (v : Seat) : (seatPut s k v).errLog = s.errLog := rfl
@[simp] theorem seatPut_sessions (k : Nat) (v : Seat) : (seatPut s k v).sessions = s.sessions := rfl
@[simp] theorem seatPut_endpoints (k : Nat) (v : Seat) : (seatPut s k v).endpoints = s.endpoints := rfl
@[simp] theorem seatPut_nextSession (k : Nat) (v : Seat) : (seatPut s k v).nextSession = s.nextSession := rfl
@[simp] theorem seatPut_freeSessions (k : Nat) (v : Seat) : (seatPut s k v).freeSessions = s.freeSessions := rfl
@[simp] theorem seatPut_mbxs (k : Nat) (v : Seat) : (seatPut s k v).mbxs = s.mbxs := rfl
@[simp] theorem seatPut_eids (k : Nat) (v : Seat) : (seatPut s k v).eids = s.eids := rfl
@[simp] theorem seatPut_mctpIn (k : Nat) (v : Seat) : (seatPut s k v).mctpIn = s.mctpIn := rfl
@[simp] theorem seatPut_papQueue (k : Nat) (v : Seat) : (seatPut s k v).papQueue = s.papQueue := rfl
@[simp] theorem seatPut_mctpOffer (k : Nat) (v : Seat) : (seatPut s k v).mctpOffer = s.mctpOffer := rfl
@[simp] theorem seatPut_mctpCount (k : Nat) (v : Seat) : (seatPut s k v).mctpCount = s.mctpCount := rfl
@[simp] theorem seatPut_tbMctp (k : Nat) (v : Seat) : (seatPut s k v).tbMctp = s.tbMctp := rfl
@[simp] theorem seatPut_wake (k : Nat) (v : Seat) : (seatPut s k v).wake = s.wake := rfl
@[simp] theorem seatPut_ghPorts (k : Nat) (v : Seat) : (seatPut s k v).ghPorts = s.ghPorts := rfl
@[simp] theorem seatPut_ghTxn (k : Nat) (v : Seat) : (seatPut s k v).ghTxn = s.ghTxn := rfl
@[simp] theorem seatPut_ghTag (k : Nat) (v : Seat) : (seatPut s k v).ghTag = s.ghTag := rfl
@[simp] theorem seatPut_ghWaiting (k : Nat) (v : Seat) : (seatPut s k v).ghWaiting = s.ghWaiting := rfl
@[simp] theorem seatPut_ghMsgs (k : Nat) (v : Seat) : (seatPut s k v).ghMsgs = s.ghMsgs := rfl
@[simp] theorem seatPut_ghKept (k : Nat) (v : Seat) : (seatPut s k v).ghKept = s.ghKept := rfl
@[simp] theorem seatPut_ghLate (k : Nat) (v : Seat) : (seatPut s k v).ghLate = s.ghLate := rfl
@[simp] theorem seatPut_shardEpoch (k : Nat) (v : Seat) : (seatPut s k v).shardEpoch = s.shardEpoch := rfl
@[simp] theorem seatPut_nextLease (k : Nat) (v : Seat) : (seatPut s k v).nextLease = s.nextLease := rfl
@[simp] theorem seatPut_borrowed (k : Nat) (v : Seat) : (seatPut s k v).borrowed = s.borrowed := rfl
@[simp] theorem seatPut_lent (k : Nat) (v : Seat) : (seatPut s k v).lent = s.lent := rfl
@[simp] theorem seatPut_lendLog (k : Nat) (v : Seat) : (seatPut s k v).lendLog = s.lendLog := rfl
@[simp] theorem seatPut_lentEnding (k : Nat) (v : Seat) : (seatPut s k v).lentEnding = s.lentEnding := rfl
@[simp] theorem seatPut_gchans (k : Nat) (v : Seat) : (seatPut s k v).gchans = s.gchans := rfl
@[simp] theorem seatPut_bhHomes (k : Nat) (v : Seat) : (seatPut s k v).bhHomes = s.bhHomes := rfl
@[simp] theorem seatPut_bhHeld (k : Nat) (v : Seat) : (seatPut s k v).bhHeld = s.bhHeld := rfl
@[simp] theorem seatPut_bhApertures (k : Nat) (v : Seat) : (seatPut s k v).bhApertures = s.bhApertures := rfl
@[simp] theorem seatPut_bhChannels (k : Nat) (v : Seat) : (seatPut s k v).bhChannels = s.bhChannels := rfl
@[simp] theorem seatPut_bhRanges (k : Nat) (v : Seat) : (seatPut s k v).bhRanges = s.bhRanges := rfl
@[simp] theorem seatPut_power (k : Nat) (v : Seat) : (seatPut s k v).power = s.power := rfl
@[simp] theorem seatPut_fw (k : Nat) (v : Seat) : (seatPut s k v).fw = s.fw := rfl
@[simp] theorem seatPut_freeCtr (k : Nat) (v : Seat) : (seatPut s k v).freeCtr = s.freeCtr := rfl

/-! ### chanPut: it changes chans alone -/

@[simp] theorem chanPut_pending (k : Nat) (v : Chan) : (chanPut s k v).pending = s.pending := rfl
@[simp] theorem chanPut_tb (k : Nat) (v : Chan) : (chanPut s k v).tb = s.tb := rfl
@[simp] theorem chanPut_sent (k : Nat) (v : Chan) : (chanPut s k v).sent = s.sent := rfl
@[simp] theorem chanPut_regs (k : Nat) (v : Chan) : (chanPut s k v).regs = s.regs := rfl
@[simp] theorem chanPut_staged (k : Nat) (v : Chan) : (chanPut s k v).staged = s.staged := rfl
@[simp] theorem chanPut_octs (k : Nat) (v : Chan) : (chanPut s k v).octs = s.octs := rfl
@[simp] theorem chanPut_stagedOcts (k : Nat) (v : Chan) : (chanPut s k v).stagedOcts = s.stagedOcts := rfl
@[simp] theorem chanPut_pins (k : Nat) (v : Chan) : (chanPut s k v).pins = s.pins := rfl
@[simp] theorem chanPut_start (k : Nat) (v : Chan) : (chanPut s k v).start = s.start := rfl
@[simp] theorem chanPut_retained (k : Nat) (v : Chan) : (chanPut s k v).retained = s.retained := rfl
@[simp] theorem chanPut_flash (k : Nat) (v : Chan) : (chanPut s k v).flash = s.flash := rfl
@[simp] theorem chanPut_islands (k : Nat) (v : Chan) : (chanPut s k v).islands = s.islands := rfl
@[simp] theorem chanPut_mem (k : Nat) (v : Chan) : (chanPut s k v).mem = s.mem := rfl
@[simp] theorem chanPut_shells (k : Nat) (v : Chan) : (chanPut s k v).shells = s.shells := rfl
@[simp] theorem chanPut_seats (k : Nat) (v : Chan) : (chanPut s k v).seats = s.seats := rfl
@[simp] theorem chanPut_scrubSeats (k : Nat) (v : Chan) : (chanPut s k v).scrubSeats = s.scrubSeats := rfl
@[simp] theorem chanPut_scrubChans (k : Nat) (v : Chan) : (chanPut s k v).scrubChans = s.scrubChans := rfl
@[simp] theorem chanPut_retiredSeats (k : Nat) (v : Chan) : (chanPut s k v).retiredSeats = s.retiredSeats := rfl
@[simp] theorem chanPut_images (k : Nat) (v : Chan) : (chanPut s k v).images = s.images := rfl
@[simp] theorem chanPut_cxlPorts (k : Nat) (v : Chan) : (chanPut s k v).cxlPorts = s.cxlPorts := rfl
@[simp] theorem chanPut_cxlRanges (k : Nat) (v : Chan) : (chanPut s k v).cxlRanges = s.cxlRanges := rfl
@[simp] theorem chanPut_cxlRun (k : Nat) (v : Chan) : (chanPut s k v).cxlRun = s.cxlRun := rfl
@[simp] theorem chanPut_cxlScrub (k : Nat) (v : Chan) : (chanPut s k v).cxlScrub = s.cxlScrub := rfl
@[simp] theorem chanPut_hostGen (k : Nat) (v : Chan) : (chanPut s k v).hostGen = s.hostGen := rfl
@[simp] theorem chanPut_hostWidth (k : Nat) (v : Chan) : (chanPut s k v).hostWidth = s.hostWidth := rfl
@[simp] theorem chanPut_ringDerate (k : Nat) (v : Chan) : (chanPut s k v).ringDerate = s.ringDerate := rfl
@[simp] theorem chanPut_tbCapacity (k : Nat) (v : Chan) : (chanPut s k v).tbCapacity = s.tbCapacity := rfl
@[simp] theorem chanPut_scaleHold (k : Nat) (v : Chan) : (chanPut s k v).scaleHold = s.scaleHold := rfl
@[simp] theorem chanPut_pace (k : Nat) (v : Chan) : (chanPut s k v).pace = s.pace := rfl
@[simp] theorem chanPut_slices (k : Nat) (v : Chan) : (chanPut s k v).slices = s.slices := rfl
@[simp] theorem chanPut_sliceBad (k : Nat) (v : Chan) : (chanPut s k v).sliceBad = s.sliceBad := rfl
@[simp] theorem chanPut_seqSlots (k : Nat) (v : Chan) : (chanPut s k v).seqSlots = s.seqSlots := rfl
@[simp] theorem chanPut_atc (k : Nat) (v : Chan) : (chanPut s k v).atc = s.atc := rfl
@[simp] theorem chanPut_rangeCaches (k : Nat) (v : Chan) : (chanPut s k v).rangeCaches = s.rangeCaches := rfl
@[simp] theorem chanPut_red (k : Nat) (v : Chan) : (chanPut s k v).red = s.red := rfl
@[simp] theorem chanPut_redAcks (k : Nat) (v : Chan) : (chanPut s k v).redAcks = s.redAcks := rfl
@[simp] theorem chanPut_upstream (k : Nat) (v : Chan) : (chanPut s k v).upstream = s.upstream := rfl
@[simp] theorem chanPut_refused (k : Nat) (v : Chan) : (chanPut s k v).refused = s.refused := rfl
@[simp] theorem chanPut_late (k : Nat) (v : Chan) : (chanPut s k v).late = s.late := rfl
@[simp] theorem chanPut_tbHold (k : Nat) (v : Chan) : (chanPut s k v).tbHold = s.tbHold := rfl
@[simp] theorem chanPut_linkRate (k : Nat) (v : Chan) : (chanPut s k v).linkRate = s.linkRate := rfl
@[simp] theorem chanPut_fns (k : Nat) (v : Chan) : (chanPut s k v).fns = s.fns := rfl
@[simp] theorem chanPut_fnRegs (k : Nat) (v : Chan) : (chanPut s k v).fnRegs = s.fnRegs := rfl
@[simp] theorem chanPut_numVfs (k : Nat) (v : Chan) : (chanPut s k v).numVfs = s.numVfs := rfl
@[simp] theorem chanPut_ctxs (k : Nat) (v : Chan) : (chanPut s k v).ctxs = s.ctxs := rfl
@[simp] theorem chanPut_nextCtxId (k : Nat) (v : Chan) : (chanPut s k v).nextCtxId = s.nextCtxId := rfl
@[simp] theorem chanPut_freeIds (k : Nat) (v : Chan) : (chanPut s k v).freeIds = s.freeIds := rfl
@[simp] theorem chanPut_swapping (k : Nat) (v : Chan) : (chanPut s k v).swapping = s.swapping := rfl
@[simp] theorem chanPut_ucRecs (k : Nat) (v : Chan) : (chanPut s k v).ucRecs = s.ucRecs := rfl
@[simp] theorem chanPut_dmwr (k : Nat) (v : Chan) : (chanPut s k v).dmwr = s.dmwr := rfl
@[simp] theorem chanPut_advWaits (k : Nat) (v : Chan) : (chanPut s k v).advWaits = s.advWaits := rfl
@[simp] theorem chanPut_advFar (k : Nat) (v : Chan) : (chanPut s k v).advFar = s.advFar := rfl
@[simp] theorem chanPut_bhFwd (k : Nat) (v : Chan) : (chanPut s k v).bhFwd = s.bhFwd := rfl
@[simp] theorem chanPut_sprints (k : Nat) (v : Chan) : (chanPut s k v).sprints = s.sprints := rfl
@[simp] theorem chanPut_nextId (k : Nat) (v : Chan) : (chanPut s k v).nextId = s.nextId := rfl
@[simp] theorem chanPut_errSeq (k : Nat) (v : Chan) : (chanPut s k v).errSeq = s.errSeq := rfl
@[simp] theorem chanPut_errLog (k : Nat) (v : Chan) : (chanPut s k v).errLog = s.errLog := rfl
@[simp] theorem chanPut_sessions (k : Nat) (v : Chan) : (chanPut s k v).sessions = s.sessions := rfl
@[simp] theorem chanPut_endpoints (k : Nat) (v : Chan) : (chanPut s k v).endpoints = s.endpoints := rfl
@[simp] theorem chanPut_nextSession (k : Nat) (v : Chan) : (chanPut s k v).nextSession = s.nextSession := rfl
@[simp] theorem chanPut_freeSessions (k : Nat) (v : Chan) : (chanPut s k v).freeSessions = s.freeSessions := rfl
@[simp] theorem chanPut_mbxs (k : Nat) (v : Chan) : (chanPut s k v).mbxs = s.mbxs := rfl
@[simp] theorem chanPut_eids (k : Nat) (v : Chan) : (chanPut s k v).eids = s.eids := rfl
@[simp] theorem chanPut_mctpIn (k : Nat) (v : Chan) : (chanPut s k v).mctpIn = s.mctpIn := rfl
@[simp] theorem chanPut_papQueue (k : Nat) (v : Chan) : (chanPut s k v).papQueue = s.papQueue := rfl
@[simp] theorem chanPut_mctpOffer (k : Nat) (v : Chan) : (chanPut s k v).mctpOffer = s.mctpOffer := rfl
@[simp] theorem chanPut_mctpCount (k : Nat) (v : Chan) : (chanPut s k v).mctpCount = s.mctpCount := rfl
@[simp] theorem chanPut_tbMctp (k : Nat) (v : Chan) : (chanPut s k v).tbMctp = s.tbMctp := rfl
@[simp] theorem chanPut_wake (k : Nat) (v : Chan) : (chanPut s k v).wake = s.wake := rfl
@[simp] theorem chanPut_ghPorts (k : Nat) (v : Chan) : (chanPut s k v).ghPorts = s.ghPorts := rfl
@[simp] theorem chanPut_ghTxn (k : Nat) (v : Chan) : (chanPut s k v).ghTxn = s.ghTxn := rfl
@[simp] theorem chanPut_ghTag (k : Nat) (v : Chan) : (chanPut s k v).ghTag = s.ghTag := rfl
@[simp] theorem chanPut_ghWaiting (k : Nat) (v : Chan) : (chanPut s k v).ghWaiting = s.ghWaiting := rfl
@[simp] theorem chanPut_ghMsgs (k : Nat) (v : Chan) : (chanPut s k v).ghMsgs = s.ghMsgs := rfl
@[simp] theorem chanPut_ghKept (k : Nat) (v : Chan) : (chanPut s k v).ghKept = s.ghKept := rfl
@[simp] theorem chanPut_ghLate (k : Nat) (v : Chan) : (chanPut s k v).ghLate = s.ghLate := rfl
@[simp] theorem chanPut_shardEpoch (k : Nat) (v : Chan) : (chanPut s k v).shardEpoch = s.shardEpoch := rfl
@[simp] theorem chanPut_nextLease (k : Nat) (v : Chan) : (chanPut s k v).nextLease = s.nextLease := rfl
@[simp] theorem chanPut_borrowed (k : Nat) (v : Chan) : (chanPut s k v).borrowed = s.borrowed := rfl
@[simp] theorem chanPut_lent (k : Nat) (v : Chan) : (chanPut s k v).lent = s.lent := rfl
@[simp] theorem chanPut_lendLog (k : Nat) (v : Chan) : (chanPut s k v).lendLog = s.lendLog := rfl
@[simp] theorem chanPut_lentEnding (k : Nat) (v : Chan) : (chanPut s k v).lentEnding = s.lentEnding := rfl
@[simp] theorem chanPut_gchans (k : Nat) (v : Chan) : (chanPut s k v).gchans = s.gchans := rfl
@[simp] theorem chanPut_bhHomes (k : Nat) (v : Chan) : (chanPut s k v).bhHomes = s.bhHomes := rfl
@[simp] theorem chanPut_bhHeld (k : Nat) (v : Chan) : (chanPut s k v).bhHeld = s.bhHeld := rfl
@[simp] theorem chanPut_bhApertures (k : Nat) (v : Chan) : (chanPut s k v).bhApertures = s.bhApertures := rfl
@[simp] theorem chanPut_bhChannels (k : Nat) (v : Chan) : (chanPut s k v).bhChannels = s.bhChannels := rfl
@[simp] theorem chanPut_bhRanges (k : Nat) (v : Chan) : (chanPut s k v).bhRanges = s.bhRanges := rfl
@[simp] theorem chanPut_power (k : Nat) (v : Chan) : (chanPut s k v).power = s.power := rfl
@[simp] theorem chanPut_fw (k : Nat) (v : Chan) : (chanPut s k v).fw = s.fw := rfl
@[simp] theorem chanPut_freeCtr (k : Nat) (v : Chan) : (chanPut s k v).freeCtr = s.freeCtr := rfl

/-! ### cxlPortPut: it changes cxlPorts alone -/

@[simp] theorem cxlPortPut_pending (k : Nat) (v : CxlPort) : (cxlPortPut s k v).pending = s.pending := rfl
@[simp] theorem cxlPortPut_tb (k : Nat) (v : CxlPort) : (cxlPortPut s k v).tb = s.tb := rfl
@[simp] theorem cxlPortPut_sent (k : Nat) (v : CxlPort) : (cxlPortPut s k v).sent = s.sent := rfl
@[simp] theorem cxlPortPut_regs (k : Nat) (v : CxlPort) : (cxlPortPut s k v).regs = s.regs := rfl
@[simp] theorem cxlPortPut_staged (k : Nat) (v : CxlPort) : (cxlPortPut s k v).staged = s.staged := rfl
@[simp] theorem cxlPortPut_octs (k : Nat) (v : CxlPort) : (cxlPortPut s k v).octs = s.octs := rfl
@[simp] theorem cxlPortPut_stagedOcts (k : Nat) (v : CxlPort) : (cxlPortPut s k v).stagedOcts = s.stagedOcts := rfl
@[simp] theorem cxlPortPut_pins (k : Nat) (v : CxlPort) : (cxlPortPut s k v).pins = s.pins := rfl
@[simp] theorem cxlPortPut_start (k : Nat) (v : CxlPort) : (cxlPortPut s k v).start = s.start := rfl
@[simp] theorem cxlPortPut_retained (k : Nat) (v : CxlPort) : (cxlPortPut s k v).retained = s.retained := rfl
@[simp] theorem cxlPortPut_flash (k : Nat) (v : CxlPort) : (cxlPortPut s k v).flash = s.flash := rfl
@[simp] theorem cxlPortPut_islands (k : Nat) (v : CxlPort) : (cxlPortPut s k v).islands = s.islands := rfl
@[simp] theorem cxlPortPut_mem (k : Nat) (v : CxlPort) : (cxlPortPut s k v).mem = s.mem := rfl
@[simp] theorem cxlPortPut_shells (k : Nat) (v : CxlPort) : (cxlPortPut s k v).shells = s.shells := rfl
@[simp] theorem cxlPortPut_seats (k : Nat) (v : CxlPort) : (cxlPortPut s k v).seats = s.seats := rfl
@[simp] theorem cxlPortPut_scrubSeats (k : Nat) (v : CxlPort) : (cxlPortPut s k v).scrubSeats = s.scrubSeats := rfl
@[simp] theorem cxlPortPut_scrubChans (k : Nat) (v : CxlPort) : (cxlPortPut s k v).scrubChans = s.scrubChans := rfl
@[simp] theorem cxlPortPut_retiredSeats (k : Nat) (v : CxlPort) : (cxlPortPut s k v).retiredSeats = s.retiredSeats := rfl
@[simp] theorem cxlPortPut_images (k : Nat) (v : CxlPort) : (cxlPortPut s k v).images = s.images := rfl
@[simp] theorem cxlPortPut_chans (k : Nat) (v : CxlPort) : (cxlPortPut s k v).chans = s.chans := rfl
@[simp] theorem cxlPortPut_cxlRanges (k : Nat) (v : CxlPort) : (cxlPortPut s k v).cxlRanges = s.cxlRanges := rfl
@[simp] theorem cxlPortPut_cxlRun (k : Nat) (v : CxlPort) : (cxlPortPut s k v).cxlRun = s.cxlRun := rfl
@[simp] theorem cxlPortPut_cxlScrub (k : Nat) (v : CxlPort) : (cxlPortPut s k v).cxlScrub = s.cxlScrub := rfl
@[simp] theorem cxlPortPut_hostGen (k : Nat) (v : CxlPort) : (cxlPortPut s k v).hostGen = s.hostGen := rfl
@[simp] theorem cxlPortPut_hostWidth (k : Nat) (v : CxlPort) : (cxlPortPut s k v).hostWidth = s.hostWidth := rfl
@[simp] theorem cxlPortPut_ringDerate (k : Nat) (v : CxlPort) : (cxlPortPut s k v).ringDerate = s.ringDerate := rfl
@[simp] theorem cxlPortPut_tbCapacity (k : Nat) (v : CxlPort) : (cxlPortPut s k v).tbCapacity = s.tbCapacity := rfl
@[simp] theorem cxlPortPut_scaleHold (k : Nat) (v : CxlPort) : (cxlPortPut s k v).scaleHold = s.scaleHold := rfl
@[simp] theorem cxlPortPut_pace (k : Nat) (v : CxlPort) : (cxlPortPut s k v).pace = s.pace := rfl
@[simp] theorem cxlPortPut_slices (k : Nat) (v : CxlPort) : (cxlPortPut s k v).slices = s.slices := rfl
@[simp] theorem cxlPortPut_sliceBad (k : Nat) (v : CxlPort) : (cxlPortPut s k v).sliceBad = s.sliceBad := rfl
@[simp] theorem cxlPortPut_seqSlots (k : Nat) (v : CxlPort) : (cxlPortPut s k v).seqSlots = s.seqSlots := rfl
@[simp] theorem cxlPortPut_atc (k : Nat) (v : CxlPort) : (cxlPortPut s k v).atc = s.atc := rfl
@[simp] theorem cxlPortPut_rangeCaches (k : Nat) (v : CxlPort) : (cxlPortPut s k v).rangeCaches = s.rangeCaches := rfl
@[simp] theorem cxlPortPut_red (k : Nat) (v : CxlPort) : (cxlPortPut s k v).red = s.red := rfl
@[simp] theorem cxlPortPut_redAcks (k : Nat) (v : CxlPort) : (cxlPortPut s k v).redAcks = s.redAcks := rfl
@[simp] theorem cxlPortPut_upstream (k : Nat) (v : CxlPort) : (cxlPortPut s k v).upstream = s.upstream := rfl
@[simp] theorem cxlPortPut_refused (k : Nat) (v : CxlPort) : (cxlPortPut s k v).refused = s.refused := rfl
@[simp] theorem cxlPortPut_late (k : Nat) (v : CxlPort) : (cxlPortPut s k v).late = s.late := rfl
@[simp] theorem cxlPortPut_tbHold (k : Nat) (v : CxlPort) : (cxlPortPut s k v).tbHold = s.tbHold := rfl
@[simp] theorem cxlPortPut_linkRate (k : Nat) (v : CxlPort) : (cxlPortPut s k v).linkRate = s.linkRate := rfl
@[simp] theorem cxlPortPut_fns (k : Nat) (v : CxlPort) : (cxlPortPut s k v).fns = s.fns := rfl
@[simp] theorem cxlPortPut_fnRegs (k : Nat) (v : CxlPort) : (cxlPortPut s k v).fnRegs = s.fnRegs := rfl
@[simp] theorem cxlPortPut_numVfs (k : Nat) (v : CxlPort) : (cxlPortPut s k v).numVfs = s.numVfs := rfl
@[simp] theorem cxlPortPut_ctxs (k : Nat) (v : CxlPort) : (cxlPortPut s k v).ctxs = s.ctxs := rfl
@[simp] theorem cxlPortPut_nextCtxId (k : Nat) (v : CxlPort) : (cxlPortPut s k v).nextCtxId = s.nextCtxId := rfl
@[simp] theorem cxlPortPut_freeIds (k : Nat) (v : CxlPort) : (cxlPortPut s k v).freeIds = s.freeIds := rfl
@[simp] theorem cxlPortPut_swapping (k : Nat) (v : CxlPort) : (cxlPortPut s k v).swapping = s.swapping := rfl
@[simp] theorem cxlPortPut_ucRecs (k : Nat) (v : CxlPort) : (cxlPortPut s k v).ucRecs = s.ucRecs := rfl
@[simp] theorem cxlPortPut_dmwr (k : Nat) (v : CxlPort) : (cxlPortPut s k v).dmwr = s.dmwr := rfl
@[simp] theorem cxlPortPut_advWaits (k : Nat) (v : CxlPort) : (cxlPortPut s k v).advWaits = s.advWaits := rfl
@[simp] theorem cxlPortPut_advFar (k : Nat) (v : CxlPort) : (cxlPortPut s k v).advFar = s.advFar := rfl
@[simp] theorem cxlPortPut_bhFwd (k : Nat) (v : CxlPort) : (cxlPortPut s k v).bhFwd = s.bhFwd := rfl
@[simp] theorem cxlPortPut_sprints (k : Nat) (v : CxlPort) : (cxlPortPut s k v).sprints = s.sprints := rfl
@[simp] theorem cxlPortPut_nextId (k : Nat) (v : CxlPort) : (cxlPortPut s k v).nextId = s.nextId := rfl
@[simp] theorem cxlPortPut_errSeq (k : Nat) (v : CxlPort) : (cxlPortPut s k v).errSeq = s.errSeq := rfl
@[simp] theorem cxlPortPut_errLog (k : Nat) (v : CxlPort) : (cxlPortPut s k v).errLog = s.errLog := rfl
@[simp] theorem cxlPortPut_sessions (k : Nat) (v : CxlPort) : (cxlPortPut s k v).sessions = s.sessions := rfl
@[simp] theorem cxlPortPut_endpoints (k : Nat) (v : CxlPort) : (cxlPortPut s k v).endpoints = s.endpoints := rfl
@[simp] theorem cxlPortPut_nextSession (k : Nat) (v : CxlPort) : (cxlPortPut s k v).nextSession = s.nextSession := rfl
@[simp] theorem cxlPortPut_freeSessions (k : Nat) (v : CxlPort) : (cxlPortPut s k v).freeSessions = s.freeSessions := rfl
@[simp] theorem cxlPortPut_mbxs (k : Nat) (v : CxlPort) : (cxlPortPut s k v).mbxs = s.mbxs := rfl
@[simp] theorem cxlPortPut_eids (k : Nat) (v : CxlPort) : (cxlPortPut s k v).eids = s.eids := rfl
@[simp] theorem cxlPortPut_mctpIn (k : Nat) (v : CxlPort) : (cxlPortPut s k v).mctpIn = s.mctpIn := rfl
@[simp] theorem cxlPortPut_papQueue (k : Nat) (v : CxlPort) : (cxlPortPut s k v).papQueue = s.papQueue := rfl
@[simp] theorem cxlPortPut_mctpOffer (k : Nat) (v : CxlPort) : (cxlPortPut s k v).mctpOffer = s.mctpOffer := rfl
@[simp] theorem cxlPortPut_mctpCount (k : Nat) (v : CxlPort) : (cxlPortPut s k v).mctpCount = s.mctpCount := rfl
@[simp] theorem cxlPortPut_tbMctp (k : Nat) (v : CxlPort) : (cxlPortPut s k v).tbMctp = s.tbMctp := rfl
@[simp] theorem cxlPortPut_wake (k : Nat) (v : CxlPort) : (cxlPortPut s k v).wake = s.wake := rfl
@[simp] theorem cxlPortPut_ghPorts (k : Nat) (v : CxlPort) : (cxlPortPut s k v).ghPorts = s.ghPorts := rfl
@[simp] theorem cxlPortPut_ghTxn (k : Nat) (v : CxlPort) : (cxlPortPut s k v).ghTxn = s.ghTxn := rfl
@[simp] theorem cxlPortPut_ghTag (k : Nat) (v : CxlPort) : (cxlPortPut s k v).ghTag = s.ghTag := rfl
@[simp] theorem cxlPortPut_ghWaiting (k : Nat) (v : CxlPort) : (cxlPortPut s k v).ghWaiting = s.ghWaiting := rfl
@[simp] theorem cxlPortPut_ghMsgs (k : Nat) (v : CxlPort) : (cxlPortPut s k v).ghMsgs = s.ghMsgs := rfl
@[simp] theorem cxlPortPut_ghKept (k : Nat) (v : CxlPort) : (cxlPortPut s k v).ghKept = s.ghKept := rfl
@[simp] theorem cxlPortPut_ghLate (k : Nat) (v : CxlPort) : (cxlPortPut s k v).ghLate = s.ghLate := rfl
@[simp] theorem cxlPortPut_shardEpoch (k : Nat) (v : CxlPort) : (cxlPortPut s k v).shardEpoch = s.shardEpoch := rfl
@[simp] theorem cxlPortPut_nextLease (k : Nat) (v : CxlPort) : (cxlPortPut s k v).nextLease = s.nextLease := rfl
@[simp] theorem cxlPortPut_borrowed (k : Nat) (v : CxlPort) : (cxlPortPut s k v).borrowed = s.borrowed := rfl
@[simp] theorem cxlPortPut_lent (k : Nat) (v : CxlPort) : (cxlPortPut s k v).lent = s.lent := rfl
@[simp] theorem cxlPortPut_lendLog (k : Nat) (v : CxlPort) : (cxlPortPut s k v).lendLog = s.lendLog := rfl
@[simp] theorem cxlPortPut_lentEnding (k : Nat) (v : CxlPort) : (cxlPortPut s k v).lentEnding = s.lentEnding := rfl
@[simp] theorem cxlPortPut_gchans (k : Nat) (v : CxlPort) : (cxlPortPut s k v).gchans = s.gchans := rfl
@[simp] theorem cxlPortPut_bhHomes (k : Nat) (v : CxlPort) : (cxlPortPut s k v).bhHomes = s.bhHomes := rfl
@[simp] theorem cxlPortPut_bhHeld (k : Nat) (v : CxlPort) : (cxlPortPut s k v).bhHeld = s.bhHeld := rfl
@[simp] theorem cxlPortPut_bhApertures (k : Nat) (v : CxlPort) : (cxlPortPut s k v).bhApertures = s.bhApertures := rfl
@[simp] theorem cxlPortPut_bhChannels (k : Nat) (v : CxlPort) : (cxlPortPut s k v).bhChannels = s.bhChannels := rfl
@[simp] theorem cxlPortPut_bhRanges (k : Nat) (v : CxlPort) : (cxlPortPut s k v).bhRanges = s.bhRanges := rfl
@[simp] theorem cxlPortPut_power (k : Nat) (v : CxlPort) : (cxlPortPut s k v).power = s.power := rfl
@[simp] theorem cxlPortPut_fw (k : Nat) (v : CxlPort) : (cxlPortPut s k v).fw = s.fw := rfl
@[simp] theorem cxlPortPut_freeCtr (k : Nat) (v : CxlPort) : (cxlPortPut s k v).freeCtr = s.freeCtr := rfl

/-! ### islandPut: it changes islands alone -/

@[simp] theorem islandPut_pending (k : Nat) (v : Island) : (islandPut s k v).pending = s.pending := rfl
@[simp] theorem islandPut_tb (k : Nat) (v : Island) : (islandPut s k v).tb = s.tb := rfl
@[simp] theorem islandPut_sent (k : Nat) (v : Island) : (islandPut s k v).sent = s.sent := rfl
@[simp] theorem islandPut_regs (k : Nat) (v : Island) : (islandPut s k v).regs = s.regs := rfl
@[simp] theorem islandPut_staged (k : Nat) (v : Island) : (islandPut s k v).staged = s.staged := rfl
@[simp] theorem islandPut_octs (k : Nat) (v : Island) : (islandPut s k v).octs = s.octs := rfl
@[simp] theorem islandPut_stagedOcts (k : Nat) (v : Island) : (islandPut s k v).stagedOcts = s.stagedOcts := rfl
@[simp] theorem islandPut_pins (k : Nat) (v : Island) : (islandPut s k v).pins = s.pins := rfl
@[simp] theorem islandPut_start (k : Nat) (v : Island) : (islandPut s k v).start = s.start := rfl
@[simp] theorem islandPut_retained (k : Nat) (v : Island) : (islandPut s k v).retained = s.retained := rfl
@[simp] theorem islandPut_flash (k : Nat) (v : Island) : (islandPut s k v).flash = s.flash := rfl
@[simp] theorem islandPut_mem (k : Nat) (v : Island) : (islandPut s k v).mem = s.mem := rfl
@[simp] theorem islandPut_shells (k : Nat) (v : Island) : (islandPut s k v).shells = s.shells := rfl
@[simp] theorem islandPut_seats (k : Nat) (v : Island) : (islandPut s k v).seats = s.seats := rfl
@[simp] theorem islandPut_scrubSeats (k : Nat) (v : Island) : (islandPut s k v).scrubSeats = s.scrubSeats := rfl
@[simp] theorem islandPut_scrubChans (k : Nat) (v : Island) : (islandPut s k v).scrubChans = s.scrubChans := rfl
@[simp] theorem islandPut_retiredSeats (k : Nat) (v : Island) : (islandPut s k v).retiredSeats = s.retiredSeats := rfl
@[simp] theorem islandPut_images (k : Nat) (v : Island) : (islandPut s k v).images = s.images := rfl
@[simp] theorem islandPut_chans (k : Nat) (v : Island) : (islandPut s k v).chans = s.chans := rfl
@[simp] theorem islandPut_cxlPorts (k : Nat) (v : Island) : (islandPut s k v).cxlPorts = s.cxlPorts := rfl
@[simp] theorem islandPut_cxlRanges (k : Nat) (v : Island) : (islandPut s k v).cxlRanges = s.cxlRanges := rfl
@[simp] theorem islandPut_cxlRun (k : Nat) (v : Island) : (islandPut s k v).cxlRun = s.cxlRun := rfl
@[simp] theorem islandPut_cxlScrub (k : Nat) (v : Island) : (islandPut s k v).cxlScrub = s.cxlScrub := rfl
@[simp] theorem islandPut_hostGen (k : Nat) (v : Island) : (islandPut s k v).hostGen = s.hostGen := rfl
@[simp] theorem islandPut_hostWidth (k : Nat) (v : Island) : (islandPut s k v).hostWidth = s.hostWidth := rfl
@[simp] theorem islandPut_ringDerate (k : Nat) (v : Island) : (islandPut s k v).ringDerate = s.ringDerate := rfl
@[simp] theorem islandPut_tbCapacity (k : Nat) (v : Island) : (islandPut s k v).tbCapacity = s.tbCapacity := rfl
@[simp] theorem islandPut_scaleHold (k : Nat) (v : Island) : (islandPut s k v).scaleHold = s.scaleHold := rfl
@[simp] theorem islandPut_pace (k : Nat) (v : Island) : (islandPut s k v).pace = s.pace := rfl
@[simp] theorem islandPut_slices (k : Nat) (v : Island) : (islandPut s k v).slices = s.slices := rfl
@[simp] theorem islandPut_sliceBad (k : Nat) (v : Island) : (islandPut s k v).sliceBad = s.sliceBad := rfl
@[simp] theorem islandPut_seqSlots (k : Nat) (v : Island) : (islandPut s k v).seqSlots = s.seqSlots := rfl
@[simp] theorem islandPut_atc (k : Nat) (v : Island) : (islandPut s k v).atc = s.atc := rfl
@[simp] theorem islandPut_rangeCaches (k : Nat) (v : Island) : (islandPut s k v).rangeCaches = s.rangeCaches := rfl
@[simp] theorem islandPut_red (k : Nat) (v : Island) : (islandPut s k v).red = s.red := rfl
@[simp] theorem islandPut_redAcks (k : Nat) (v : Island) : (islandPut s k v).redAcks = s.redAcks := rfl
@[simp] theorem islandPut_upstream (k : Nat) (v : Island) : (islandPut s k v).upstream = s.upstream := rfl
@[simp] theorem islandPut_refused (k : Nat) (v : Island) : (islandPut s k v).refused = s.refused := rfl
@[simp] theorem islandPut_late (k : Nat) (v : Island) : (islandPut s k v).late = s.late := rfl
@[simp] theorem islandPut_tbHold (k : Nat) (v : Island) : (islandPut s k v).tbHold = s.tbHold := rfl
@[simp] theorem islandPut_linkRate (k : Nat) (v : Island) : (islandPut s k v).linkRate = s.linkRate := rfl
@[simp] theorem islandPut_fns (k : Nat) (v : Island) : (islandPut s k v).fns = s.fns := rfl
@[simp] theorem islandPut_fnRegs (k : Nat) (v : Island) : (islandPut s k v).fnRegs = s.fnRegs := rfl
@[simp] theorem islandPut_numVfs (k : Nat) (v : Island) : (islandPut s k v).numVfs = s.numVfs := rfl
@[simp] theorem islandPut_ctxs (k : Nat) (v : Island) : (islandPut s k v).ctxs = s.ctxs := rfl
@[simp] theorem islandPut_nextCtxId (k : Nat) (v : Island) : (islandPut s k v).nextCtxId = s.nextCtxId := rfl
@[simp] theorem islandPut_freeIds (k : Nat) (v : Island) : (islandPut s k v).freeIds = s.freeIds := rfl
@[simp] theorem islandPut_swapping (k : Nat) (v : Island) : (islandPut s k v).swapping = s.swapping := rfl
@[simp] theorem islandPut_ucRecs (k : Nat) (v : Island) : (islandPut s k v).ucRecs = s.ucRecs := rfl
@[simp] theorem islandPut_dmwr (k : Nat) (v : Island) : (islandPut s k v).dmwr = s.dmwr := rfl
@[simp] theorem islandPut_advWaits (k : Nat) (v : Island) : (islandPut s k v).advWaits = s.advWaits := rfl
@[simp] theorem islandPut_advFar (k : Nat) (v : Island) : (islandPut s k v).advFar = s.advFar := rfl
@[simp] theorem islandPut_bhFwd (k : Nat) (v : Island) : (islandPut s k v).bhFwd = s.bhFwd := rfl
@[simp] theorem islandPut_sprints (k : Nat) (v : Island) : (islandPut s k v).sprints = s.sprints := rfl
@[simp] theorem islandPut_nextId (k : Nat) (v : Island) : (islandPut s k v).nextId = s.nextId := rfl
@[simp] theorem islandPut_errSeq (k : Nat) (v : Island) : (islandPut s k v).errSeq = s.errSeq := rfl
@[simp] theorem islandPut_errLog (k : Nat) (v : Island) : (islandPut s k v).errLog = s.errLog := rfl
@[simp] theorem islandPut_sessions (k : Nat) (v : Island) : (islandPut s k v).sessions = s.sessions := rfl
@[simp] theorem islandPut_endpoints (k : Nat) (v : Island) : (islandPut s k v).endpoints = s.endpoints := rfl
@[simp] theorem islandPut_nextSession (k : Nat) (v : Island) : (islandPut s k v).nextSession = s.nextSession := rfl
@[simp] theorem islandPut_freeSessions (k : Nat) (v : Island) : (islandPut s k v).freeSessions = s.freeSessions := rfl
@[simp] theorem islandPut_mbxs (k : Nat) (v : Island) : (islandPut s k v).mbxs = s.mbxs := rfl
@[simp] theorem islandPut_eids (k : Nat) (v : Island) : (islandPut s k v).eids = s.eids := rfl
@[simp] theorem islandPut_mctpIn (k : Nat) (v : Island) : (islandPut s k v).mctpIn = s.mctpIn := rfl
@[simp] theorem islandPut_papQueue (k : Nat) (v : Island) : (islandPut s k v).papQueue = s.papQueue := rfl
@[simp] theorem islandPut_mctpOffer (k : Nat) (v : Island) : (islandPut s k v).mctpOffer = s.mctpOffer := rfl
@[simp] theorem islandPut_mctpCount (k : Nat) (v : Island) : (islandPut s k v).mctpCount = s.mctpCount := rfl
@[simp] theorem islandPut_tbMctp (k : Nat) (v : Island) : (islandPut s k v).tbMctp = s.tbMctp := rfl
@[simp] theorem islandPut_wake (k : Nat) (v : Island) : (islandPut s k v).wake = s.wake := rfl
@[simp] theorem islandPut_ghPorts (k : Nat) (v : Island) : (islandPut s k v).ghPorts = s.ghPorts := rfl
@[simp] theorem islandPut_ghTxn (k : Nat) (v : Island) : (islandPut s k v).ghTxn = s.ghTxn := rfl
@[simp] theorem islandPut_ghTag (k : Nat) (v : Island) : (islandPut s k v).ghTag = s.ghTag := rfl
@[simp] theorem islandPut_ghWaiting (k : Nat) (v : Island) : (islandPut s k v).ghWaiting = s.ghWaiting := rfl
@[simp] theorem islandPut_ghMsgs (k : Nat) (v : Island) : (islandPut s k v).ghMsgs = s.ghMsgs := rfl
@[simp] theorem islandPut_ghKept (k : Nat) (v : Island) : (islandPut s k v).ghKept = s.ghKept := rfl
@[simp] theorem islandPut_ghLate (k : Nat) (v : Island) : (islandPut s k v).ghLate = s.ghLate := rfl
@[simp] theorem islandPut_shardEpoch (k : Nat) (v : Island) : (islandPut s k v).shardEpoch = s.shardEpoch := rfl
@[simp] theorem islandPut_nextLease (k : Nat) (v : Island) : (islandPut s k v).nextLease = s.nextLease := rfl
@[simp] theorem islandPut_borrowed (k : Nat) (v : Island) : (islandPut s k v).borrowed = s.borrowed := rfl
@[simp] theorem islandPut_lent (k : Nat) (v : Island) : (islandPut s k v).lent = s.lent := rfl
@[simp] theorem islandPut_lendLog (k : Nat) (v : Island) : (islandPut s k v).lendLog = s.lendLog := rfl
@[simp] theorem islandPut_lentEnding (k : Nat) (v : Island) : (islandPut s k v).lentEnding = s.lentEnding := rfl
@[simp] theorem islandPut_gchans (k : Nat) (v : Island) : (islandPut s k v).gchans = s.gchans := rfl
@[simp] theorem islandPut_bhHomes (k : Nat) (v : Island) : (islandPut s k v).bhHomes = s.bhHomes := rfl
@[simp] theorem islandPut_bhHeld (k : Nat) (v : Island) : (islandPut s k v).bhHeld = s.bhHeld := rfl
@[simp] theorem islandPut_bhApertures (k : Nat) (v : Island) : (islandPut s k v).bhApertures = s.bhApertures := rfl
@[simp] theorem islandPut_bhChannels (k : Nat) (v : Island) : (islandPut s k v).bhChannels = s.bhChannels := rfl
@[simp] theorem islandPut_bhRanges (k : Nat) (v : Island) : (islandPut s k v).bhRanges = s.bhRanges := rfl
@[simp] theorem islandPut_power (k : Nat) (v : Island) : (islandPut s k v).power = s.power := rfl
@[simp] theorem islandPut_fw (k : Nat) (v : Island) : (islandPut s k v).fw = s.fw := rfl
@[simp] theorem islandPut_freeCtr (k : Nat) (v : Island) : (islandPut s k v).freeCtr = s.freeCtr := rfl

/-! ### fnStPut: it changes fns alone -/

@[simp] theorem fnStPut_pending (k : Nat) (v : FnSt) : (fnStPut s k v).pending = s.pending := rfl
@[simp] theorem fnStPut_tb (k : Nat) (v : FnSt) : (fnStPut s k v).tb = s.tb := rfl
@[simp] theorem fnStPut_sent (k : Nat) (v : FnSt) : (fnStPut s k v).sent = s.sent := rfl
@[simp] theorem fnStPut_regs (k : Nat) (v : FnSt) : (fnStPut s k v).regs = s.regs := rfl
@[simp] theorem fnStPut_staged (k : Nat) (v : FnSt) : (fnStPut s k v).staged = s.staged := rfl
@[simp] theorem fnStPut_octs (k : Nat) (v : FnSt) : (fnStPut s k v).octs = s.octs := rfl
@[simp] theorem fnStPut_stagedOcts (k : Nat) (v : FnSt) : (fnStPut s k v).stagedOcts = s.stagedOcts := rfl
@[simp] theorem fnStPut_pins (k : Nat) (v : FnSt) : (fnStPut s k v).pins = s.pins := rfl
@[simp] theorem fnStPut_start (k : Nat) (v : FnSt) : (fnStPut s k v).start = s.start := rfl
@[simp] theorem fnStPut_retained (k : Nat) (v : FnSt) : (fnStPut s k v).retained = s.retained := rfl
@[simp] theorem fnStPut_flash (k : Nat) (v : FnSt) : (fnStPut s k v).flash = s.flash := rfl
@[simp] theorem fnStPut_islands (k : Nat) (v : FnSt) : (fnStPut s k v).islands = s.islands := rfl
@[simp] theorem fnStPut_mem (k : Nat) (v : FnSt) : (fnStPut s k v).mem = s.mem := rfl
@[simp] theorem fnStPut_shells (k : Nat) (v : FnSt) : (fnStPut s k v).shells = s.shells := rfl
@[simp] theorem fnStPut_seats (k : Nat) (v : FnSt) : (fnStPut s k v).seats = s.seats := rfl
@[simp] theorem fnStPut_scrubSeats (k : Nat) (v : FnSt) : (fnStPut s k v).scrubSeats = s.scrubSeats := rfl
@[simp] theorem fnStPut_scrubChans (k : Nat) (v : FnSt) : (fnStPut s k v).scrubChans = s.scrubChans := rfl
@[simp] theorem fnStPut_retiredSeats (k : Nat) (v : FnSt) : (fnStPut s k v).retiredSeats = s.retiredSeats := rfl
@[simp] theorem fnStPut_images (k : Nat) (v : FnSt) : (fnStPut s k v).images = s.images := rfl
@[simp] theorem fnStPut_chans (k : Nat) (v : FnSt) : (fnStPut s k v).chans = s.chans := rfl
@[simp] theorem fnStPut_cxlPorts (k : Nat) (v : FnSt) : (fnStPut s k v).cxlPorts = s.cxlPorts := rfl
@[simp] theorem fnStPut_cxlRanges (k : Nat) (v : FnSt) : (fnStPut s k v).cxlRanges = s.cxlRanges := rfl
@[simp] theorem fnStPut_cxlRun (k : Nat) (v : FnSt) : (fnStPut s k v).cxlRun = s.cxlRun := rfl
@[simp] theorem fnStPut_cxlScrub (k : Nat) (v : FnSt) : (fnStPut s k v).cxlScrub = s.cxlScrub := rfl
@[simp] theorem fnStPut_hostGen (k : Nat) (v : FnSt) : (fnStPut s k v).hostGen = s.hostGen := rfl
@[simp] theorem fnStPut_hostWidth (k : Nat) (v : FnSt) : (fnStPut s k v).hostWidth = s.hostWidth := rfl
@[simp] theorem fnStPut_ringDerate (k : Nat) (v : FnSt) : (fnStPut s k v).ringDerate = s.ringDerate := rfl
@[simp] theorem fnStPut_tbCapacity (k : Nat) (v : FnSt) : (fnStPut s k v).tbCapacity = s.tbCapacity := rfl
@[simp] theorem fnStPut_scaleHold (k : Nat) (v : FnSt) : (fnStPut s k v).scaleHold = s.scaleHold := rfl
@[simp] theorem fnStPut_pace (k : Nat) (v : FnSt) : (fnStPut s k v).pace = s.pace := rfl
@[simp] theorem fnStPut_slices (k : Nat) (v : FnSt) : (fnStPut s k v).slices = s.slices := rfl
@[simp] theorem fnStPut_sliceBad (k : Nat) (v : FnSt) : (fnStPut s k v).sliceBad = s.sliceBad := rfl
@[simp] theorem fnStPut_seqSlots (k : Nat) (v : FnSt) : (fnStPut s k v).seqSlots = s.seqSlots := rfl
@[simp] theorem fnStPut_atc (k : Nat) (v : FnSt) : (fnStPut s k v).atc = s.atc := rfl
@[simp] theorem fnStPut_rangeCaches (k : Nat) (v : FnSt) : (fnStPut s k v).rangeCaches = s.rangeCaches := rfl
@[simp] theorem fnStPut_red (k : Nat) (v : FnSt) : (fnStPut s k v).red = s.red := rfl
@[simp] theorem fnStPut_redAcks (k : Nat) (v : FnSt) : (fnStPut s k v).redAcks = s.redAcks := rfl
@[simp] theorem fnStPut_upstream (k : Nat) (v : FnSt) : (fnStPut s k v).upstream = s.upstream := rfl
@[simp] theorem fnStPut_refused (k : Nat) (v : FnSt) : (fnStPut s k v).refused = s.refused := rfl
@[simp] theorem fnStPut_late (k : Nat) (v : FnSt) : (fnStPut s k v).late = s.late := rfl
@[simp] theorem fnStPut_tbHold (k : Nat) (v : FnSt) : (fnStPut s k v).tbHold = s.tbHold := rfl
@[simp] theorem fnStPut_linkRate (k : Nat) (v : FnSt) : (fnStPut s k v).linkRate = s.linkRate := rfl
@[simp] theorem fnStPut_fnRegs (k : Nat) (v : FnSt) : (fnStPut s k v).fnRegs = s.fnRegs := rfl
@[simp] theorem fnStPut_numVfs (k : Nat) (v : FnSt) : (fnStPut s k v).numVfs = s.numVfs := rfl
@[simp] theorem fnStPut_ctxs (k : Nat) (v : FnSt) : (fnStPut s k v).ctxs = s.ctxs := rfl
@[simp] theorem fnStPut_nextCtxId (k : Nat) (v : FnSt) : (fnStPut s k v).nextCtxId = s.nextCtxId := rfl
@[simp] theorem fnStPut_freeIds (k : Nat) (v : FnSt) : (fnStPut s k v).freeIds = s.freeIds := rfl
@[simp] theorem fnStPut_swapping (k : Nat) (v : FnSt) : (fnStPut s k v).swapping = s.swapping := rfl
@[simp] theorem fnStPut_ucRecs (k : Nat) (v : FnSt) : (fnStPut s k v).ucRecs = s.ucRecs := rfl
@[simp] theorem fnStPut_dmwr (k : Nat) (v : FnSt) : (fnStPut s k v).dmwr = s.dmwr := rfl
@[simp] theorem fnStPut_advWaits (k : Nat) (v : FnSt) : (fnStPut s k v).advWaits = s.advWaits := rfl
@[simp] theorem fnStPut_advFar (k : Nat) (v : FnSt) : (fnStPut s k v).advFar = s.advFar := rfl
@[simp] theorem fnStPut_bhFwd (k : Nat) (v : FnSt) : (fnStPut s k v).bhFwd = s.bhFwd := rfl
@[simp] theorem fnStPut_sprints (k : Nat) (v : FnSt) : (fnStPut s k v).sprints = s.sprints := rfl
@[simp] theorem fnStPut_nextId (k : Nat) (v : FnSt) : (fnStPut s k v).nextId = s.nextId := rfl
@[simp] theorem fnStPut_errSeq (k : Nat) (v : FnSt) : (fnStPut s k v).errSeq = s.errSeq := rfl
@[simp] theorem fnStPut_errLog (k : Nat) (v : FnSt) : (fnStPut s k v).errLog = s.errLog := rfl
@[simp] theorem fnStPut_sessions (k : Nat) (v : FnSt) : (fnStPut s k v).sessions = s.sessions := rfl
@[simp] theorem fnStPut_endpoints (k : Nat) (v : FnSt) : (fnStPut s k v).endpoints = s.endpoints := rfl
@[simp] theorem fnStPut_nextSession (k : Nat) (v : FnSt) : (fnStPut s k v).nextSession = s.nextSession := rfl
@[simp] theorem fnStPut_freeSessions (k : Nat) (v : FnSt) : (fnStPut s k v).freeSessions = s.freeSessions := rfl
@[simp] theorem fnStPut_mbxs (k : Nat) (v : FnSt) : (fnStPut s k v).mbxs = s.mbxs := rfl
@[simp] theorem fnStPut_eids (k : Nat) (v : FnSt) : (fnStPut s k v).eids = s.eids := rfl
@[simp] theorem fnStPut_mctpIn (k : Nat) (v : FnSt) : (fnStPut s k v).mctpIn = s.mctpIn := rfl
@[simp] theorem fnStPut_papQueue (k : Nat) (v : FnSt) : (fnStPut s k v).papQueue = s.papQueue := rfl
@[simp] theorem fnStPut_mctpOffer (k : Nat) (v : FnSt) : (fnStPut s k v).mctpOffer = s.mctpOffer := rfl
@[simp] theorem fnStPut_mctpCount (k : Nat) (v : FnSt) : (fnStPut s k v).mctpCount = s.mctpCount := rfl
@[simp] theorem fnStPut_tbMctp (k : Nat) (v : FnSt) : (fnStPut s k v).tbMctp = s.tbMctp := rfl
@[simp] theorem fnStPut_wake (k : Nat) (v : FnSt) : (fnStPut s k v).wake = s.wake := rfl
@[simp] theorem fnStPut_ghPorts (k : Nat) (v : FnSt) : (fnStPut s k v).ghPorts = s.ghPorts := rfl
@[simp] theorem fnStPut_ghTxn (k : Nat) (v : FnSt) : (fnStPut s k v).ghTxn = s.ghTxn := rfl
@[simp] theorem fnStPut_ghTag (k : Nat) (v : FnSt) : (fnStPut s k v).ghTag = s.ghTag := rfl
@[simp] theorem fnStPut_ghWaiting (k : Nat) (v : FnSt) : (fnStPut s k v).ghWaiting = s.ghWaiting := rfl
@[simp] theorem fnStPut_ghMsgs (k : Nat) (v : FnSt) : (fnStPut s k v).ghMsgs = s.ghMsgs := rfl
@[simp] theorem fnStPut_ghKept (k : Nat) (v : FnSt) : (fnStPut s k v).ghKept = s.ghKept := rfl
@[simp] theorem fnStPut_ghLate (k : Nat) (v : FnSt) : (fnStPut s k v).ghLate = s.ghLate := rfl
@[simp] theorem fnStPut_shardEpoch (k : Nat) (v : FnSt) : (fnStPut s k v).shardEpoch = s.shardEpoch := rfl
@[simp] theorem fnStPut_nextLease (k : Nat) (v : FnSt) : (fnStPut s k v).nextLease = s.nextLease := rfl
@[simp] theorem fnStPut_borrowed (k : Nat) (v : FnSt) : (fnStPut s k v).borrowed = s.borrowed := rfl
@[simp] theorem fnStPut_lent (k : Nat) (v : FnSt) : (fnStPut s k v).lent = s.lent := rfl
@[simp] theorem fnStPut_lendLog (k : Nat) (v : FnSt) : (fnStPut s k v).lendLog = s.lendLog := rfl
@[simp] theorem fnStPut_lentEnding (k : Nat) (v : FnSt) : (fnStPut s k v).lentEnding = s.lentEnding := rfl
@[simp] theorem fnStPut_gchans (k : Nat) (v : FnSt) : (fnStPut s k v).gchans = s.gchans := rfl
@[simp] theorem fnStPut_bhHomes (k : Nat) (v : FnSt) : (fnStPut s k v).bhHomes = s.bhHomes := rfl
@[simp] theorem fnStPut_bhHeld (k : Nat) (v : FnSt) : (fnStPut s k v).bhHeld = s.bhHeld := rfl
@[simp] theorem fnStPut_bhApertures (k : Nat) (v : FnSt) : (fnStPut s k v).bhApertures = s.bhApertures := rfl
@[simp] theorem fnStPut_bhChannels (k : Nat) (v : FnSt) : (fnStPut s k v).bhChannels = s.bhChannels := rfl
@[simp] theorem fnStPut_bhRanges (k : Nat) (v : FnSt) : (fnStPut s k v).bhRanges = s.bhRanges := rfl
@[simp] theorem fnStPut_power (k : Nat) (v : FnSt) : (fnStPut s k v).power = s.power := rfl
@[simp] theorem fnStPut_fw (k : Nat) (v : FnSt) : (fnStPut s k v).fw = s.fw := rfl
@[simp] theorem fnStPut_freeCtr (k : Nat) (v : FnSt) : (fnStPut s k v).freeCtr = s.freeCtr := rfl

/-! ### sprintPut: it changes sprints alone -/

@[simp] theorem sprintPut_pending (k : Nat) (v : Sprint) : (sprintPut s k v).pending = s.pending := rfl
@[simp] theorem sprintPut_tb (k : Nat) (v : Sprint) : (sprintPut s k v).tb = s.tb := rfl
@[simp] theorem sprintPut_sent (k : Nat) (v : Sprint) : (sprintPut s k v).sent = s.sent := rfl
@[simp] theorem sprintPut_regs (k : Nat) (v : Sprint) : (sprintPut s k v).regs = s.regs := rfl
@[simp] theorem sprintPut_staged (k : Nat) (v : Sprint) : (sprintPut s k v).staged = s.staged := rfl
@[simp] theorem sprintPut_octs (k : Nat) (v : Sprint) : (sprintPut s k v).octs = s.octs := rfl
@[simp] theorem sprintPut_stagedOcts (k : Nat) (v : Sprint) : (sprintPut s k v).stagedOcts = s.stagedOcts := rfl
@[simp] theorem sprintPut_pins (k : Nat) (v : Sprint) : (sprintPut s k v).pins = s.pins := rfl
@[simp] theorem sprintPut_start (k : Nat) (v : Sprint) : (sprintPut s k v).start = s.start := rfl
@[simp] theorem sprintPut_retained (k : Nat) (v : Sprint) : (sprintPut s k v).retained = s.retained := rfl
@[simp] theorem sprintPut_flash (k : Nat) (v : Sprint) : (sprintPut s k v).flash = s.flash := rfl
@[simp] theorem sprintPut_islands (k : Nat) (v : Sprint) : (sprintPut s k v).islands = s.islands := rfl
@[simp] theorem sprintPut_mem (k : Nat) (v : Sprint) : (sprintPut s k v).mem = s.mem := rfl
@[simp] theorem sprintPut_shells (k : Nat) (v : Sprint) : (sprintPut s k v).shells = s.shells := rfl
@[simp] theorem sprintPut_seats (k : Nat) (v : Sprint) : (sprintPut s k v).seats = s.seats := rfl
@[simp] theorem sprintPut_scrubSeats (k : Nat) (v : Sprint) : (sprintPut s k v).scrubSeats = s.scrubSeats := rfl
@[simp] theorem sprintPut_scrubChans (k : Nat) (v : Sprint) : (sprintPut s k v).scrubChans = s.scrubChans := rfl
@[simp] theorem sprintPut_retiredSeats (k : Nat) (v : Sprint) : (sprintPut s k v).retiredSeats = s.retiredSeats := rfl
@[simp] theorem sprintPut_images (k : Nat) (v : Sprint) : (sprintPut s k v).images = s.images := rfl
@[simp] theorem sprintPut_chans (k : Nat) (v : Sprint) : (sprintPut s k v).chans = s.chans := rfl
@[simp] theorem sprintPut_cxlPorts (k : Nat) (v : Sprint) : (sprintPut s k v).cxlPorts = s.cxlPorts := rfl
@[simp] theorem sprintPut_cxlRanges (k : Nat) (v : Sprint) : (sprintPut s k v).cxlRanges = s.cxlRanges := rfl
@[simp] theorem sprintPut_cxlRun (k : Nat) (v : Sprint) : (sprintPut s k v).cxlRun = s.cxlRun := rfl
@[simp] theorem sprintPut_cxlScrub (k : Nat) (v : Sprint) : (sprintPut s k v).cxlScrub = s.cxlScrub := rfl
@[simp] theorem sprintPut_hostGen (k : Nat) (v : Sprint) : (sprintPut s k v).hostGen = s.hostGen := rfl
@[simp] theorem sprintPut_hostWidth (k : Nat) (v : Sprint) : (sprintPut s k v).hostWidth = s.hostWidth := rfl
@[simp] theorem sprintPut_ringDerate (k : Nat) (v : Sprint) : (sprintPut s k v).ringDerate = s.ringDerate := rfl
@[simp] theorem sprintPut_tbCapacity (k : Nat) (v : Sprint) : (sprintPut s k v).tbCapacity = s.tbCapacity := rfl
@[simp] theorem sprintPut_scaleHold (k : Nat) (v : Sprint) : (sprintPut s k v).scaleHold = s.scaleHold := rfl
@[simp] theorem sprintPut_pace (k : Nat) (v : Sprint) : (sprintPut s k v).pace = s.pace := rfl
@[simp] theorem sprintPut_slices (k : Nat) (v : Sprint) : (sprintPut s k v).slices = s.slices := rfl
@[simp] theorem sprintPut_sliceBad (k : Nat) (v : Sprint) : (sprintPut s k v).sliceBad = s.sliceBad := rfl
@[simp] theorem sprintPut_seqSlots (k : Nat) (v : Sprint) : (sprintPut s k v).seqSlots = s.seqSlots := rfl
@[simp] theorem sprintPut_atc (k : Nat) (v : Sprint) : (sprintPut s k v).atc = s.atc := rfl
@[simp] theorem sprintPut_rangeCaches (k : Nat) (v : Sprint) : (sprintPut s k v).rangeCaches = s.rangeCaches := rfl
@[simp] theorem sprintPut_red (k : Nat) (v : Sprint) : (sprintPut s k v).red = s.red := rfl
@[simp] theorem sprintPut_redAcks (k : Nat) (v : Sprint) : (sprintPut s k v).redAcks = s.redAcks := rfl
@[simp] theorem sprintPut_upstream (k : Nat) (v : Sprint) : (sprintPut s k v).upstream = s.upstream := rfl
@[simp] theorem sprintPut_refused (k : Nat) (v : Sprint) : (sprintPut s k v).refused = s.refused := rfl
@[simp] theorem sprintPut_late (k : Nat) (v : Sprint) : (sprintPut s k v).late = s.late := rfl
@[simp] theorem sprintPut_tbHold (k : Nat) (v : Sprint) : (sprintPut s k v).tbHold = s.tbHold := rfl
@[simp] theorem sprintPut_linkRate (k : Nat) (v : Sprint) : (sprintPut s k v).linkRate = s.linkRate := rfl
@[simp] theorem sprintPut_fns (k : Nat) (v : Sprint) : (sprintPut s k v).fns = s.fns := rfl
@[simp] theorem sprintPut_fnRegs (k : Nat) (v : Sprint) : (sprintPut s k v).fnRegs = s.fnRegs := rfl
@[simp] theorem sprintPut_numVfs (k : Nat) (v : Sprint) : (sprintPut s k v).numVfs = s.numVfs := rfl
@[simp] theorem sprintPut_ctxs (k : Nat) (v : Sprint) : (sprintPut s k v).ctxs = s.ctxs := rfl
@[simp] theorem sprintPut_nextCtxId (k : Nat) (v : Sprint) : (sprintPut s k v).nextCtxId = s.nextCtxId := rfl
@[simp] theorem sprintPut_freeIds (k : Nat) (v : Sprint) : (sprintPut s k v).freeIds = s.freeIds := rfl
@[simp] theorem sprintPut_swapping (k : Nat) (v : Sprint) : (sprintPut s k v).swapping = s.swapping := rfl
@[simp] theorem sprintPut_ucRecs (k : Nat) (v : Sprint) : (sprintPut s k v).ucRecs = s.ucRecs := rfl
@[simp] theorem sprintPut_dmwr (k : Nat) (v : Sprint) : (sprintPut s k v).dmwr = s.dmwr := rfl
@[simp] theorem sprintPut_advWaits (k : Nat) (v : Sprint) : (sprintPut s k v).advWaits = s.advWaits := rfl
@[simp] theorem sprintPut_advFar (k : Nat) (v : Sprint) : (sprintPut s k v).advFar = s.advFar := rfl
@[simp] theorem sprintPut_bhFwd (k : Nat) (v : Sprint) : (sprintPut s k v).bhFwd = s.bhFwd := rfl
@[simp] theorem sprintPut_nextId (k : Nat) (v : Sprint) : (sprintPut s k v).nextId = s.nextId := rfl
@[simp] theorem sprintPut_errSeq (k : Nat) (v : Sprint) : (sprintPut s k v).errSeq = s.errSeq := rfl
@[simp] theorem sprintPut_errLog (k : Nat) (v : Sprint) : (sprintPut s k v).errLog = s.errLog := rfl
@[simp] theorem sprintPut_sessions (k : Nat) (v : Sprint) : (sprintPut s k v).sessions = s.sessions := rfl
@[simp] theorem sprintPut_endpoints (k : Nat) (v : Sprint) : (sprintPut s k v).endpoints = s.endpoints := rfl
@[simp] theorem sprintPut_nextSession (k : Nat) (v : Sprint) : (sprintPut s k v).nextSession = s.nextSession := rfl
@[simp] theorem sprintPut_freeSessions (k : Nat) (v : Sprint) : (sprintPut s k v).freeSessions = s.freeSessions := rfl
@[simp] theorem sprintPut_mbxs (k : Nat) (v : Sprint) : (sprintPut s k v).mbxs = s.mbxs := rfl
@[simp] theorem sprintPut_eids (k : Nat) (v : Sprint) : (sprintPut s k v).eids = s.eids := rfl
@[simp] theorem sprintPut_mctpIn (k : Nat) (v : Sprint) : (sprintPut s k v).mctpIn = s.mctpIn := rfl
@[simp] theorem sprintPut_papQueue (k : Nat) (v : Sprint) : (sprintPut s k v).papQueue = s.papQueue := rfl
@[simp] theorem sprintPut_mctpOffer (k : Nat) (v : Sprint) : (sprintPut s k v).mctpOffer = s.mctpOffer := rfl
@[simp] theorem sprintPut_mctpCount (k : Nat) (v : Sprint) : (sprintPut s k v).mctpCount = s.mctpCount := rfl
@[simp] theorem sprintPut_tbMctp (k : Nat) (v : Sprint) : (sprintPut s k v).tbMctp = s.tbMctp := rfl
@[simp] theorem sprintPut_wake (k : Nat) (v : Sprint) : (sprintPut s k v).wake = s.wake := rfl
@[simp] theorem sprintPut_ghPorts (k : Nat) (v : Sprint) : (sprintPut s k v).ghPorts = s.ghPorts := rfl
@[simp] theorem sprintPut_ghTxn (k : Nat) (v : Sprint) : (sprintPut s k v).ghTxn = s.ghTxn := rfl
@[simp] theorem sprintPut_ghTag (k : Nat) (v : Sprint) : (sprintPut s k v).ghTag = s.ghTag := rfl
@[simp] theorem sprintPut_ghWaiting (k : Nat) (v : Sprint) : (sprintPut s k v).ghWaiting = s.ghWaiting := rfl
@[simp] theorem sprintPut_ghMsgs (k : Nat) (v : Sprint) : (sprintPut s k v).ghMsgs = s.ghMsgs := rfl
@[simp] theorem sprintPut_ghKept (k : Nat) (v : Sprint) : (sprintPut s k v).ghKept = s.ghKept := rfl
@[simp] theorem sprintPut_ghLate (k : Nat) (v : Sprint) : (sprintPut s k v).ghLate = s.ghLate := rfl
@[simp] theorem sprintPut_shardEpoch (k : Nat) (v : Sprint) : (sprintPut s k v).shardEpoch = s.shardEpoch := rfl
@[simp] theorem sprintPut_nextLease (k : Nat) (v : Sprint) : (sprintPut s k v).nextLease = s.nextLease := rfl
@[simp] theorem sprintPut_borrowed (k : Nat) (v : Sprint) : (sprintPut s k v).borrowed = s.borrowed := rfl
@[simp] theorem sprintPut_lent (k : Nat) (v : Sprint) : (sprintPut s k v).lent = s.lent := rfl
@[simp] theorem sprintPut_lendLog (k : Nat) (v : Sprint) : (sprintPut s k v).lendLog = s.lendLog := rfl
@[simp] theorem sprintPut_lentEnding (k : Nat) (v : Sprint) : (sprintPut s k v).lentEnding = s.lentEnding := rfl
@[simp] theorem sprintPut_gchans (k : Nat) (v : Sprint) : (sprintPut s k v).gchans = s.gchans := rfl
@[simp] theorem sprintPut_bhHomes (k : Nat) (v : Sprint) : (sprintPut s k v).bhHomes = s.bhHomes := rfl
@[simp] theorem sprintPut_bhHeld (k : Nat) (v : Sprint) : (sprintPut s k v).bhHeld = s.bhHeld := rfl
@[simp] theorem sprintPut_bhApertures (k : Nat) (v : Sprint) : (sprintPut s k v).bhApertures = s.bhApertures := rfl
@[simp] theorem sprintPut_bhChannels (k : Nat) (v : Sprint) : (sprintPut s k v).bhChannels = s.bhChannels := rfl
@[simp] theorem sprintPut_bhRanges (k : Nat) (v : Sprint) : (sprintPut s k v).bhRanges = s.bhRanges := rfl
@[simp] theorem sprintPut_power (k : Nat) (v : Sprint) : (sprintPut s k v).power = s.power := rfl
@[simp] theorem sprintPut_fw (k : Nat) (v : Sprint) : (sprintPut s k v).fw = s.fw := rfl
@[simp] theorem sprintPut_freeCtr (k : Nat) (v : Sprint) : (sprintPut s k v).freeCtr = s.freeCtr := rfl

/-! ### wakePut: it changes wake alone -/

@[simp] theorem wakePut_pending (k : Nat) (v : WakeSt) : (wakePut s k v).pending = s.pending := rfl
@[simp] theorem wakePut_tb (k : Nat) (v : WakeSt) : (wakePut s k v).tb = s.tb := rfl
@[simp] theorem wakePut_sent (k : Nat) (v : WakeSt) : (wakePut s k v).sent = s.sent := rfl
@[simp] theorem wakePut_regs (k : Nat) (v : WakeSt) : (wakePut s k v).regs = s.regs := rfl
@[simp] theorem wakePut_staged (k : Nat) (v : WakeSt) : (wakePut s k v).staged = s.staged := rfl
@[simp] theorem wakePut_octs (k : Nat) (v : WakeSt) : (wakePut s k v).octs = s.octs := rfl
@[simp] theorem wakePut_stagedOcts (k : Nat) (v : WakeSt) : (wakePut s k v).stagedOcts = s.stagedOcts := rfl
@[simp] theorem wakePut_pins (k : Nat) (v : WakeSt) : (wakePut s k v).pins = s.pins := rfl
@[simp] theorem wakePut_start (k : Nat) (v : WakeSt) : (wakePut s k v).start = s.start := rfl
@[simp] theorem wakePut_retained (k : Nat) (v : WakeSt) : (wakePut s k v).retained = s.retained := rfl
@[simp] theorem wakePut_flash (k : Nat) (v : WakeSt) : (wakePut s k v).flash = s.flash := rfl
@[simp] theorem wakePut_islands (k : Nat) (v : WakeSt) : (wakePut s k v).islands = s.islands := rfl
@[simp] theorem wakePut_mem (k : Nat) (v : WakeSt) : (wakePut s k v).mem = s.mem := rfl
@[simp] theorem wakePut_shells (k : Nat) (v : WakeSt) : (wakePut s k v).shells = s.shells := rfl
@[simp] theorem wakePut_seats (k : Nat) (v : WakeSt) : (wakePut s k v).seats = s.seats := rfl
@[simp] theorem wakePut_scrubSeats (k : Nat) (v : WakeSt) : (wakePut s k v).scrubSeats = s.scrubSeats := rfl
@[simp] theorem wakePut_scrubChans (k : Nat) (v : WakeSt) : (wakePut s k v).scrubChans = s.scrubChans := rfl
@[simp] theorem wakePut_retiredSeats (k : Nat) (v : WakeSt) : (wakePut s k v).retiredSeats = s.retiredSeats := rfl
@[simp] theorem wakePut_images (k : Nat) (v : WakeSt) : (wakePut s k v).images = s.images := rfl
@[simp] theorem wakePut_chans (k : Nat) (v : WakeSt) : (wakePut s k v).chans = s.chans := rfl
@[simp] theorem wakePut_cxlPorts (k : Nat) (v : WakeSt) : (wakePut s k v).cxlPorts = s.cxlPorts := rfl
@[simp] theorem wakePut_cxlRanges (k : Nat) (v : WakeSt) : (wakePut s k v).cxlRanges = s.cxlRanges := rfl
@[simp] theorem wakePut_cxlRun (k : Nat) (v : WakeSt) : (wakePut s k v).cxlRun = s.cxlRun := rfl
@[simp] theorem wakePut_cxlScrub (k : Nat) (v : WakeSt) : (wakePut s k v).cxlScrub = s.cxlScrub := rfl
@[simp] theorem wakePut_hostGen (k : Nat) (v : WakeSt) : (wakePut s k v).hostGen = s.hostGen := rfl
@[simp] theorem wakePut_hostWidth (k : Nat) (v : WakeSt) : (wakePut s k v).hostWidth = s.hostWidth := rfl
@[simp] theorem wakePut_ringDerate (k : Nat) (v : WakeSt) : (wakePut s k v).ringDerate = s.ringDerate := rfl
@[simp] theorem wakePut_tbCapacity (k : Nat) (v : WakeSt) : (wakePut s k v).tbCapacity = s.tbCapacity := rfl
@[simp] theorem wakePut_scaleHold (k : Nat) (v : WakeSt) : (wakePut s k v).scaleHold = s.scaleHold := rfl
@[simp] theorem wakePut_pace (k : Nat) (v : WakeSt) : (wakePut s k v).pace = s.pace := rfl
@[simp] theorem wakePut_slices (k : Nat) (v : WakeSt) : (wakePut s k v).slices = s.slices := rfl
@[simp] theorem wakePut_sliceBad (k : Nat) (v : WakeSt) : (wakePut s k v).sliceBad = s.sliceBad := rfl
@[simp] theorem wakePut_seqSlots (k : Nat) (v : WakeSt) : (wakePut s k v).seqSlots = s.seqSlots := rfl
@[simp] theorem wakePut_atc (k : Nat) (v : WakeSt) : (wakePut s k v).atc = s.atc := rfl
@[simp] theorem wakePut_rangeCaches (k : Nat) (v : WakeSt) : (wakePut s k v).rangeCaches = s.rangeCaches := rfl
@[simp] theorem wakePut_red (k : Nat) (v : WakeSt) : (wakePut s k v).red = s.red := rfl
@[simp] theorem wakePut_redAcks (k : Nat) (v : WakeSt) : (wakePut s k v).redAcks = s.redAcks := rfl
@[simp] theorem wakePut_upstream (k : Nat) (v : WakeSt) : (wakePut s k v).upstream = s.upstream := rfl
@[simp] theorem wakePut_refused (k : Nat) (v : WakeSt) : (wakePut s k v).refused = s.refused := rfl
@[simp] theorem wakePut_late (k : Nat) (v : WakeSt) : (wakePut s k v).late = s.late := rfl
@[simp] theorem wakePut_tbHold (k : Nat) (v : WakeSt) : (wakePut s k v).tbHold = s.tbHold := rfl
@[simp] theorem wakePut_linkRate (k : Nat) (v : WakeSt) : (wakePut s k v).linkRate = s.linkRate := rfl
@[simp] theorem wakePut_fns (k : Nat) (v : WakeSt) : (wakePut s k v).fns = s.fns := rfl
@[simp] theorem wakePut_fnRegs (k : Nat) (v : WakeSt) : (wakePut s k v).fnRegs = s.fnRegs := rfl
@[simp] theorem wakePut_numVfs (k : Nat) (v : WakeSt) : (wakePut s k v).numVfs = s.numVfs := rfl
@[simp] theorem wakePut_ctxs (k : Nat) (v : WakeSt) : (wakePut s k v).ctxs = s.ctxs := rfl
@[simp] theorem wakePut_nextCtxId (k : Nat) (v : WakeSt) : (wakePut s k v).nextCtxId = s.nextCtxId := rfl
@[simp] theorem wakePut_freeIds (k : Nat) (v : WakeSt) : (wakePut s k v).freeIds = s.freeIds := rfl
@[simp] theorem wakePut_swapping (k : Nat) (v : WakeSt) : (wakePut s k v).swapping = s.swapping := rfl
@[simp] theorem wakePut_ucRecs (k : Nat) (v : WakeSt) : (wakePut s k v).ucRecs = s.ucRecs := rfl
@[simp] theorem wakePut_dmwr (k : Nat) (v : WakeSt) : (wakePut s k v).dmwr = s.dmwr := rfl
@[simp] theorem wakePut_advWaits (k : Nat) (v : WakeSt) : (wakePut s k v).advWaits = s.advWaits := rfl
@[simp] theorem wakePut_advFar (k : Nat) (v : WakeSt) : (wakePut s k v).advFar = s.advFar := rfl
@[simp] theorem wakePut_bhFwd (k : Nat) (v : WakeSt) : (wakePut s k v).bhFwd = s.bhFwd := rfl
@[simp] theorem wakePut_sprints (k : Nat) (v : WakeSt) : (wakePut s k v).sprints = s.sprints := rfl
@[simp] theorem wakePut_nextId (k : Nat) (v : WakeSt) : (wakePut s k v).nextId = s.nextId := rfl
@[simp] theorem wakePut_errSeq (k : Nat) (v : WakeSt) : (wakePut s k v).errSeq = s.errSeq := rfl
@[simp] theorem wakePut_errLog (k : Nat) (v : WakeSt) : (wakePut s k v).errLog = s.errLog := rfl
@[simp] theorem wakePut_sessions (k : Nat) (v : WakeSt) : (wakePut s k v).sessions = s.sessions := rfl
@[simp] theorem wakePut_endpoints (k : Nat) (v : WakeSt) : (wakePut s k v).endpoints = s.endpoints := rfl
@[simp] theorem wakePut_nextSession (k : Nat) (v : WakeSt) : (wakePut s k v).nextSession = s.nextSession := rfl
@[simp] theorem wakePut_freeSessions (k : Nat) (v : WakeSt) : (wakePut s k v).freeSessions = s.freeSessions := rfl
@[simp] theorem wakePut_mbxs (k : Nat) (v : WakeSt) : (wakePut s k v).mbxs = s.mbxs := rfl
@[simp] theorem wakePut_eids (k : Nat) (v : WakeSt) : (wakePut s k v).eids = s.eids := rfl
@[simp] theorem wakePut_mctpIn (k : Nat) (v : WakeSt) : (wakePut s k v).mctpIn = s.mctpIn := rfl
@[simp] theorem wakePut_papQueue (k : Nat) (v : WakeSt) : (wakePut s k v).papQueue = s.papQueue := rfl
@[simp] theorem wakePut_mctpOffer (k : Nat) (v : WakeSt) : (wakePut s k v).mctpOffer = s.mctpOffer := rfl
@[simp] theorem wakePut_mctpCount (k : Nat) (v : WakeSt) : (wakePut s k v).mctpCount = s.mctpCount := rfl
@[simp] theorem wakePut_tbMctp (k : Nat) (v : WakeSt) : (wakePut s k v).tbMctp = s.tbMctp := rfl
@[simp] theorem wakePut_ghPorts (k : Nat) (v : WakeSt) : (wakePut s k v).ghPorts = s.ghPorts := rfl
@[simp] theorem wakePut_ghTxn (k : Nat) (v : WakeSt) : (wakePut s k v).ghTxn = s.ghTxn := rfl
@[simp] theorem wakePut_ghTag (k : Nat) (v : WakeSt) : (wakePut s k v).ghTag = s.ghTag := rfl
@[simp] theorem wakePut_ghWaiting (k : Nat) (v : WakeSt) : (wakePut s k v).ghWaiting = s.ghWaiting := rfl
@[simp] theorem wakePut_ghMsgs (k : Nat) (v : WakeSt) : (wakePut s k v).ghMsgs = s.ghMsgs := rfl
@[simp] theorem wakePut_ghKept (k : Nat) (v : WakeSt) : (wakePut s k v).ghKept = s.ghKept := rfl
@[simp] theorem wakePut_ghLate (k : Nat) (v : WakeSt) : (wakePut s k v).ghLate = s.ghLate := rfl
@[simp] theorem wakePut_shardEpoch (k : Nat) (v : WakeSt) : (wakePut s k v).shardEpoch = s.shardEpoch := rfl
@[simp] theorem wakePut_nextLease (k : Nat) (v : WakeSt) : (wakePut s k v).nextLease = s.nextLease := rfl
@[simp] theorem wakePut_borrowed (k : Nat) (v : WakeSt) : (wakePut s k v).borrowed = s.borrowed := rfl
@[simp] theorem wakePut_lent (k : Nat) (v : WakeSt) : (wakePut s k v).lent = s.lent := rfl
@[simp] theorem wakePut_lendLog (k : Nat) (v : WakeSt) : (wakePut s k v).lendLog = s.lendLog := rfl
@[simp] theorem wakePut_lentEnding (k : Nat) (v : WakeSt) : (wakePut s k v).lentEnding = s.lentEnding := rfl
@[simp] theorem wakePut_gchans (k : Nat) (v : WakeSt) : (wakePut s k v).gchans = s.gchans := rfl
@[simp] theorem wakePut_bhHomes (k : Nat) (v : WakeSt) : (wakePut s k v).bhHomes = s.bhHomes := rfl
@[simp] theorem wakePut_bhHeld (k : Nat) (v : WakeSt) : (wakePut s k v).bhHeld = s.bhHeld := rfl
@[simp] theorem wakePut_bhApertures (k : Nat) (v : WakeSt) : (wakePut s k v).bhApertures = s.bhApertures := rfl
@[simp] theorem wakePut_bhChannels (k : Nat) (v : WakeSt) : (wakePut s k v).bhChannels = s.bhChannels := rfl
@[simp] theorem wakePut_bhRanges (k : Nat) (v : WakeSt) : (wakePut s k v).bhRanges = s.bhRanges := rfl
@[simp] theorem wakePut_power (k : Nat) (v : WakeSt) : (wakePut s k v).power = s.power := rfl
@[simp] theorem wakePut_fw (k : Nat) (v : WakeSt) : (wakePut s k v).fw = s.fw := rfl
@[simp] theorem wakePut_freeCtr (k : Nat) (v : WakeSt) : (wakePut s k v).freeCtr = s.freeCtr := rfl

/-! ### imagePut: it changes images alone -/

@[simp] theorem imagePut_pending (k : Nat) (v : Image) : (imagePut s k v).pending = s.pending := rfl
@[simp] theorem imagePut_tb (k : Nat) (v : Image) : (imagePut s k v).tb = s.tb := rfl
@[simp] theorem imagePut_sent (k : Nat) (v : Image) : (imagePut s k v).sent = s.sent := rfl
@[simp] theorem imagePut_regs (k : Nat) (v : Image) : (imagePut s k v).regs = s.regs := rfl
@[simp] theorem imagePut_staged (k : Nat) (v : Image) : (imagePut s k v).staged = s.staged := rfl
@[simp] theorem imagePut_octs (k : Nat) (v : Image) : (imagePut s k v).octs = s.octs := rfl
@[simp] theorem imagePut_stagedOcts (k : Nat) (v : Image) : (imagePut s k v).stagedOcts = s.stagedOcts := rfl
@[simp] theorem imagePut_pins (k : Nat) (v : Image) : (imagePut s k v).pins = s.pins := rfl
@[simp] theorem imagePut_start (k : Nat) (v : Image) : (imagePut s k v).start = s.start := rfl
@[simp] theorem imagePut_retained (k : Nat) (v : Image) : (imagePut s k v).retained = s.retained := rfl
@[simp] theorem imagePut_flash (k : Nat) (v : Image) : (imagePut s k v).flash = s.flash := rfl
@[simp] theorem imagePut_islands (k : Nat) (v : Image) : (imagePut s k v).islands = s.islands := rfl
@[simp] theorem imagePut_mem (k : Nat) (v : Image) : (imagePut s k v).mem = s.mem := rfl
@[simp] theorem imagePut_shells (k : Nat) (v : Image) : (imagePut s k v).shells = s.shells := rfl
@[simp] theorem imagePut_seats (k : Nat) (v : Image) : (imagePut s k v).seats = s.seats := rfl
@[simp] theorem imagePut_scrubSeats (k : Nat) (v : Image) : (imagePut s k v).scrubSeats = s.scrubSeats := rfl
@[simp] theorem imagePut_scrubChans (k : Nat) (v : Image) : (imagePut s k v).scrubChans = s.scrubChans := rfl
@[simp] theorem imagePut_retiredSeats (k : Nat) (v : Image) : (imagePut s k v).retiredSeats = s.retiredSeats := rfl
@[simp] theorem imagePut_chans (k : Nat) (v : Image) : (imagePut s k v).chans = s.chans := rfl
@[simp] theorem imagePut_cxlPorts (k : Nat) (v : Image) : (imagePut s k v).cxlPorts = s.cxlPorts := rfl
@[simp] theorem imagePut_cxlRanges (k : Nat) (v : Image) : (imagePut s k v).cxlRanges = s.cxlRanges := rfl
@[simp] theorem imagePut_cxlRun (k : Nat) (v : Image) : (imagePut s k v).cxlRun = s.cxlRun := rfl
@[simp] theorem imagePut_cxlScrub (k : Nat) (v : Image) : (imagePut s k v).cxlScrub = s.cxlScrub := rfl
@[simp] theorem imagePut_hostGen (k : Nat) (v : Image) : (imagePut s k v).hostGen = s.hostGen := rfl
@[simp] theorem imagePut_hostWidth (k : Nat) (v : Image) : (imagePut s k v).hostWidth = s.hostWidth := rfl
@[simp] theorem imagePut_ringDerate (k : Nat) (v : Image) : (imagePut s k v).ringDerate = s.ringDerate := rfl
@[simp] theorem imagePut_tbCapacity (k : Nat) (v : Image) : (imagePut s k v).tbCapacity = s.tbCapacity := rfl
@[simp] theorem imagePut_scaleHold (k : Nat) (v : Image) : (imagePut s k v).scaleHold = s.scaleHold := rfl
@[simp] theorem imagePut_pace (k : Nat) (v : Image) : (imagePut s k v).pace = s.pace := rfl
@[simp] theorem imagePut_slices (k : Nat) (v : Image) : (imagePut s k v).slices = s.slices := rfl
@[simp] theorem imagePut_sliceBad (k : Nat) (v : Image) : (imagePut s k v).sliceBad = s.sliceBad := rfl
@[simp] theorem imagePut_seqSlots (k : Nat) (v : Image) : (imagePut s k v).seqSlots = s.seqSlots := rfl
@[simp] theorem imagePut_atc (k : Nat) (v : Image) : (imagePut s k v).atc = s.atc := rfl
@[simp] theorem imagePut_rangeCaches (k : Nat) (v : Image) : (imagePut s k v).rangeCaches = s.rangeCaches := rfl
@[simp] theorem imagePut_red (k : Nat) (v : Image) : (imagePut s k v).red = s.red := rfl
@[simp] theorem imagePut_redAcks (k : Nat) (v : Image) : (imagePut s k v).redAcks = s.redAcks := rfl
@[simp] theorem imagePut_upstream (k : Nat) (v : Image) : (imagePut s k v).upstream = s.upstream := rfl
@[simp] theorem imagePut_refused (k : Nat) (v : Image) : (imagePut s k v).refused = s.refused := rfl
@[simp] theorem imagePut_late (k : Nat) (v : Image) : (imagePut s k v).late = s.late := rfl
@[simp] theorem imagePut_tbHold (k : Nat) (v : Image) : (imagePut s k v).tbHold = s.tbHold := rfl
@[simp] theorem imagePut_linkRate (k : Nat) (v : Image) : (imagePut s k v).linkRate = s.linkRate := rfl
@[simp] theorem imagePut_fns (k : Nat) (v : Image) : (imagePut s k v).fns = s.fns := rfl
@[simp] theorem imagePut_fnRegs (k : Nat) (v : Image) : (imagePut s k v).fnRegs = s.fnRegs := rfl
@[simp] theorem imagePut_numVfs (k : Nat) (v : Image) : (imagePut s k v).numVfs = s.numVfs := rfl
@[simp] theorem imagePut_ctxs (k : Nat) (v : Image) : (imagePut s k v).ctxs = s.ctxs := rfl
@[simp] theorem imagePut_nextCtxId (k : Nat) (v : Image) : (imagePut s k v).nextCtxId = s.nextCtxId := rfl
@[simp] theorem imagePut_freeIds (k : Nat) (v : Image) : (imagePut s k v).freeIds = s.freeIds := rfl
@[simp] theorem imagePut_swapping (k : Nat) (v : Image) : (imagePut s k v).swapping = s.swapping := rfl
@[simp] theorem imagePut_ucRecs (k : Nat) (v : Image) : (imagePut s k v).ucRecs = s.ucRecs := rfl
@[simp] theorem imagePut_dmwr (k : Nat) (v : Image) : (imagePut s k v).dmwr = s.dmwr := rfl
@[simp] theorem imagePut_advWaits (k : Nat) (v : Image) : (imagePut s k v).advWaits = s.advWaits := rfl
@[simp] theorem imagePut_advFar (k : Nat) (v : Image) : (imagePut s k v).advFar = s.advFar := rfl
@[simp] theorem imagePut_bhFwd (k : Nat) (v : Image) : (imagePut s k v).bhFwd = s.bhFwd := rfl
@[simp] theorem imagePut_sprints (k : Nat) (v : Image) : (imagePut s k v).sprints = s.sprints := rfl
@[simp] theorem imagePut_nextId (k : Nat) (v : Image) : (imagePut s k v).nextId = s.nextId := rfl
@[simp] theorem imagePut_errSeq (k : Nat) (v : Image) : (imagePut s k v).errSeq = s.errSeq := rfl
@[simp] theorem imagePut_errLog (k : Nat) (v : Image) : (imagePut s k v).errLog = s.errLog := rfl
@[simp] theorem imagePut_sessions (k : Nat) (v : Image) : (imagePut s k v).sessions = s.sessions := rfl
@[simp] theorem imagePut_endpoints (k : Nat) (v : Image) : (imagePut s k v).endpoints = s.endpoints := rfl
@[simp] theorem imagePut_nextSession (k : Nat) (v : Image) : (imagePut s k v).nextSession = s.nextSession := rfl
@[simp] theorem imagePut_freeSessions (k : Nat) (v : Image) : (imagePut s k v).freeSessions = s.freeSessions := rfl
@[simp] theorem imagePut_mbxs (k : Nat) (v : Image) : (imagePut s k v).mbxs = s.mbxs := rfl
@[simp] theorem imagePut_eids (k : Nat) (v : Image) : (imagePut s k v).eids = s.eids := rfl
@[simp] theorem imagePut_mctpIn (k : Nat) (v : Image) : (imagePut s k v).mctpIn = s.mctpIn := rfl
@[simp] theorem imagePut_papQueue (k : Nat) (v : Image) : (imagePut s k v).papQueue = s.papQueue := rfl
@[simp] theorem imagePut_mctpOffer (k : Nat) (v : Image) : (imagePut s k v).mctpOffer = s.mctpOffer := rfl
@[simp] theorem imagePut_mctpCount (k : Nat) (v : Image) : (imagePut s k v).mctpCount = s.mctpCount := rfl
@[simp] theorem imagePut_tbMctp (k : Nat) (v : Image) : (imagePut s k v).tbMctp = s.tbMctp := rfl
@[simp] theorem imagePut_wake (k : Nat) (v : Image) : (imagePut s k v).wake = s.wake := rfl
@[simp] theorem imagePut_ghPorts (k : Nat) (v : Image) : (imagePut s k v).ghPorts = s.ghPorts := rfl
@[simp] theorem imagePut_ghTxn (k : Nat) (v : Image) : (imagePut s k v).ghTxn = s.ghTxn := rfl
@[simp] theorem imagePut_ghTag (k : Nat) (v : Image) : (imagePut s k v).ghTag = s.ghTag := rfl
@[simp] theorem imagePut_ghWaiting (k : Nat) (v : Image) : (imagePut s k v).ghWaiting = s.ghWaiting := rfl
@[simp] theorem imagePut_ghMsgs (k : Nat) (v : Image) : (imagePut s k v).ghMsgs = s.ghMsgs := rfl
@[simp] theorem imagePut_ghKept (k : Nat) (v : Image) : (imagePut s k v).ghKept = s.ghKept := rfl
@[simp] theorem imagePut_ghLate (k : Nat) (v : Image) : (imagePut s k v).ghLate = s.ghLate := rfl
@[simp] theorem imagePut_shardEpoch (k : Nat) (v : Image) : (imagePut s k v).shardEpoch = s.shardEpoch := rfl
@[simp] theorem imagePut_nextLease (k : Nat) (v : Image) : (imagePut s k v).nextLease = s.nextLease := rfl
@[simp] theorem imagePut_borrowed (k : Nat) (v : Image) : (imagePut s k v).borrowed = s.borrowed := rfl
@[simp] theorem imagePut_lent (k : Nat) (v : Image) : (imagePut s k v).lent = s.lent := rfl
@[simp] theorem imagePut_lendLog (k : Nat) (v : Image) : (imagePut s k v).lendLog = s.lendLog := rfl
@[simp] theorem imagePut_lentEnding (k : Nat) (v : Image) : (imagePut s k v).lentEnding = s.lentEnding := rfl
@[simp] theorem imagePut_gchans (k : Nat) (v : Image) : (imagePut s k v).gchans = s.gchans := rfl
@[simp] theorem imagePut_bhHomes (k : Nat) (v : Image) : (imagePut s k v).bhHomes = s.bhHomes := rfl
@[simp] theorem imagePut_bhHeld (k : Nat) (v : Image) : (imagePut s k v).bhHeld = s.bhHeld := rfl
@[simp] theorem imagePut_bhApertures (k : Nat) (v : Image) : (imagePut s k v).bhApertures = s.bhApertures := rfl
@[simp] theorem imagePut_bhChannels (k : Nat) (v : Image) : (imagePut s k v).bhChannels = s.bhChannels := rfl
@[simp] theorem imagePut_bhRanges (k : Nat) (v : Image) : (imagePut s k v).bhRanges = s.bhRanges := rfl
@[simp] theorem imagePut_power (k : Nat) (v : Image) : (imagePut s k v).power = s.power := rfl
@[simp] theorem imagePut_fw (k : Nat) (v : Image) : (imagePut s k v).fw = s.fw := rfl
@[simp] theorem imagePut_freeCtr (k : Nat) (v : Image) : (imagePut s k v).freeCtr = s.freeCtr := rfl

/-! ### portPut: it changes ghPorts alone -/

@[simp] theorem portPut_pending (k : Nat) (v : GhPort) : (portPut s k v).pending = s.pending := rfl
@[simp] theorem portPut_tb (k : Nat) (v : GhPort) : (portPut s k v).tb = s.tb := rfl
@[simp] theorem portPut_sent (k : Nat) (v : GhPort) : (portPut s k v).sent = s.sent := rfl
@[simp] theorem portPut_regs (k : Nat) (v : GhPort) : (portPut s k v).regs = s.regs := rfl
@[simp] theorem portPut_staged (k : Nat) (v : GhPort) : (portPut s k v).staged = s.staged := rfl
@[simp] theorem portPut_octs (k : Nat) (v : GhPort) : (portPut s k v).octs = s.octs := rfl
@[simp] theorem portPut_stagedOcts (k : Nat) (v : GhPort) : (portPut s k v).stagedOcts = s.stagedOcts := rfl
@[simp] theorem portPut_pins (k : Nat) (v : GhPort) : (portPut s k v).pins = s.pins := rfl
@[simp] theorem portPut_start (k : Nat) (v : GhPort) : (portPut s k v).start = s.start := rfl
@[simp] theorem portPut_retained (k : Nat) (v : GhPort) : (portPut s k v).retained = s.retained := rfl
@[simp] theorem portPut_flash (k : Nat) (v : GhPort) : (portPut s k v).flash = s.flash := rfl
@[simp] theorem portPut_islands (k : Nat) (v : GhPort) : (portPut s k v).islands = s.islands := rfl
@[simp] theorem portPut_mem (k : Nat) (v : GhPort) : (portPut s k v).mem = s.mem := rfl
@[simp] theorem portPut_shells (k : Nat) (v : GhPort) : (portPut s k v).shells = s.shells := rfl
@[simp] theorem portPut_seats (k : Nat) (v : GhPort) : (portPut s k v).seats = s.seats := rfl
@[simp] theorem portPut_scrubSeats (k : Nat) (v : GhPort) : (portPut s k v).scrubSeats = s.scrubSeats := rfl
@[simp] theorem portPut_scrubChans (k : Nat) (v : GhPort) : (portPut s k v).scrubChans = s.scrubChans := rfl
@[simp] theorem portPut_retiredSeats (k : Nat) (v : GhPort) : (portPut s k v).retiredSeats = s.retiredSeats := rfl
@[simp] theorem portPut_images (k : Nat) (v : GhPort) : (portPut s k v).images = s.images := rfl
@[simp] theorem portPut_chans (k : Nat) (v : GhPort) : (portPut s k v).chans = s.chans := rfl
@[simp] theorem portPut_cxlPorts (k : Nat) (v : GhPort) : (portPut s k v).cxlPorts = s.cxlPorts := rfl
@[simp] theorem portPut_cxlRanges (k : Nat) (v : GhPort) : (portPut s k v).cxlRanges = s.cxlRanges := rfl
@[simp] theorem portPut_cxlRun (k : Nat) (v : GhPort) : (portPut s k v).cxlRun = s.cxlRun := rfl
@[simp] theorem portPut_cxlScrub (k : Nat) (v : GhPort) : (portPut s k v).cxlScrub = s.cxlScrub := rfl
@[simp] theorem portPut_hostGen (k : Nat) (v : GhPort) : (portPut s k v).hostGen = s.hostGen := rfl
@[simp] theorem portPut_hostWidth (k : Nat) (v : GhPort) : (portPut s k v).hostWidth = s.hostWidth := rfl
@[simp] theorem portPut_ringDerate (k : Nat) (v : GhPort) : (portPut s k v).ringDerate = s.ringDerate := rfl
@[simp] theorem portPut_tbCapacity (k : Nat) (v : GhPort) : (portPut s k v).tbCapacity = s.tbCapacity := rfl
@[simp] theorem portPut_scaleHold (k : Nat) (v : GhPort) : (portPut s k v).scaleHold = s.scaleHold := rfl
@[simp] theorem portPut_pace (k : Nat) (v : GhPort) : (portPut s k v).pace = s.pace := rfl
@[simp] theorem portPut_slices (k : Nat) (v : GhPort) : (portPut s k v).slices = s.slices := rfl
@[simp] theorem portPut_sliceBad (k : Nat) (v : GhPort) : (portPut s k v).sliceBad = s.sliceBad := rfl
@[simp] theorem portPut_seqSlots (k : Nat) (v : GhPort) : (portPut s k v).seqSlots = s.seqSlots := rfl
@[simp] theorem portPut_atc (k : Nat) (v : GhPort) : (portPut s k v).atc = s.atc := rfl
@[simp] theorem portPut_rangeCaches (k : Nat) (v : GhPort) : (portPut s k v).rangeCaches = s.rangeCaches := rfl
@[simp] theorem portPut_red (k : Nat) (v : GhPort) : (portPut s k v).red = s.red := rfl
@[simp] theorem portPut_redAcks (k : Nat) (v : GhPort) : (portPut s k v).redAcks = s.redAcks := rfl
@[simp] theorem portPut_upstream (k : Nat) (v : GhPort) : (portPut s k v).upstream = s.upstream := rfl
@[simp] theorem portPut_refused (k : Nat) (v : GhPort) : (portPut s k v).refused = s.refused := rfl
@[simp] theorem portPut_late (k : Nat) (v : GhPort) : (portPut s k v).late = s.late := rfl
@[simp] theorem portPut_tbHold (k : Nat) (v : GhPort) : (portPut s k v).tbHold = s.tbHold := rfl
@[simp] theorem portPut_linkRate (k : Nat) (v : GhPort) : (portPut s k v).linkRate = s.linkRate := rfl
@[simp] theorem portPut_fns (k : Nat) (v : GhPort) : (portPut s k v).fns = s.fns := rfl
@[simp] theorem portPut_fnRegs (k : Nat) (v : GhPort) : (portPut s k v).fnRegs = s.fnRegs := rfl
@[simp] theorem portPut_numVfs (k : Nat) (v : GhPort) : (portPut s k v).numVfs = s.numVfs := rfl
@[simp] theorem portPut_ctxs (k : Nat) (v : GhPort) : (portPut s k v).ctxs = s.ctxs := rfl
@[simp] theorem portPut_nextCtxId (k : Nat) (v : GhPort) : (portPut s k v).nextCtxId = s.nextCtxId := rfl
@[simp] theorem portPut_freeIds (k : Nat) (v : GhPort) : (portPut s k v).freeIds = s.freeIds := rfl
@[simp] theorem portPut_swapping (k : Nat) (v : GhPort) : (portPut s k v).swapping = s.swapping := rfl
@[simp] theorem portPut_ucRecs (k : Nat) (v : GhPort) : (portPut s k v).ucRecs = s.ucRecs := rfl
@[simp] theorem portPut_dmwr (k : Nat) (v : GhPort) : (portPut s k v).dmwr = s.dmwr := rfl
@[simp] theorem portPut_advWaits (k : Nat) (v : GhPort) : (portPut s k v).advWaits = s.advWaits := rfl
@[simp] theorem portPut_advFar (k : Nat) (v : GhPort) : (portPut s k v).advFar = s.advFar := rfl
@[simp] theorem portPut_bhFwd (k : Nat) (v : GhPort) : (portPut s k v).bhFwd = s.bhFwd := rfl
@[simp] theorem portPut_sprints (k : Nat) (v : GhPort) : (portPut s k v).sprints = s.sprints := rfl
@[simp] theorem portPut_nextId (k : Nat) (v : GhPort) : (portPut s k v).nextId = s.nextId := rfl
@[simp] theorem portPut_errSeq (k : Nat) (v : GhPort) : (portPut s k v).errSeq = s.errSeq := rfl
@[simp] theorem portPut_errLog (k : Nat) (v : GhPort) : (portPut s k v).errLog = s.errLog := rfl
@[simp] theorem portPut_sessions (k : Nat) (v : GhPort) : (portPut s k v).sessions = s.sessions := rfl
@[simp] theorem portPut_endpoints (k : Nat) (v : GhPort) : (portPut s k v).endpoints = s.endpoints := rfl
@[simp] theorem portPut_nextSession (k : Nat) (v : GhPort) : (portPut s k v).nextSession = s.nextSession := rfl
@[simp] theorem portPut_freeSessions (k : Nat) (v : GhPort) : (portPut s k v).freeSessions = s.freeSessions := rfl
@[simp] theorem portPut_mbxs (k : Nat) (v : GhPort) : (portPut s k v).mbxs = s.mbxs := rfl
@[simp] theorem portPut_eids (k : Nat) (v : GhPort) : (portPut s k v).eids = s.eids := rfl
@[simp] theorem portPut_mctpIn (k : Nat) (v : GhPort) : (portPut s k v).mctpIn = s.mctpIn := rfl
@[simp] theorem portPut_papQueue (k : Nat) (v : GhPort) : (portPut s k v).papQueue = s.papQueue := rfl
@[simp] theorem portPut_mctpOffer (k : Nat) (v : GhPort) : (portPut s k v).mctpOffer = s.mctpOffer := rfl
@[simp] theorem portPut_mctpCount (k : Nat) (v : GhPort) : (portPut s k v).mctpCount = s.mctpCount := rfl
@[simp] theorem portPut_tbMctp (k : Nat) (v : GhPort) : (portPut s k v).tbMctp = s.tbMctp := rfl
@[simp] theorem portPut_wake (k : Nat) (v : GhPort) : (portPut s k v).wake = s.wake := rfl
@[simp] theorem portPut_ghTxn (k : Nat) (v : GhPort) : (portPut s k v).ghTxn = s.ghTxn := rfl
@[simp] theorem portPut_ghTag (k : Nat) (v : GhPort) : (portPut s k v).ghTag = s.ghTag := rfl
@[simp] theorem portPut_ghWaiting (k : Nat) (v : GhPort) : (portPut s k v).ghWaiting = s.ghWaiting := rfl
@[simp] theorem portPut_ghMsgs (k : Nat) (v : GhPort) : (portPut s k v).ghMsgs = s.ghMsgs := rfl
@[simp] theorem portPut_ghKept (k : Nat) (v : GhPort) : (portPut s k v).ghKept = s.ghKept := rfl
@[simp] theorem portPut_ghLate (k : Nat) (v : GhPort) : (portPut s k v).ghLate = s.ghLate := rfl
@[simp] theorem portPut_shardEpoch (k : Nat) (v : GhPort) : (portPut s k v).shardEpoch = s.shardEpoch := rfl
@[simp] theorem portPut_nextLease (k : Nat) (v : GhPort) : (portPut s k v).nextLease = s.nextLease := rfl
@[simp] theorem portPut_borrowed (k : Nat) (v : GhPort) : (portPut s k v).borrowed = s.borrowed := rfl
@[simp] theorem portPut_lent (k : Nat) (v : GhPort) : (portPut s k v).lent = s.lent := rfl
@[simp] theorem portPut_lendLog (k : Nat) (v : GhPort) : (portPut s k v).lendLog = s.lendLog := rfl
@[simp] theorem portPut_lentEnding (k : Nat) (v : GhPort) : (portPut s k v).lentEnding = s.lentEnding := rfl
@[simp] theorem portPut_gchans (k : Nat) (v : GhPort) : (portPut s k v).gchans = s.gchans := rfl
@[simp] theorem portPut_bhHomes (k : Nat) (v : GhPort) : (portPut s k v).bhHomes = s.bhHomes := rfl
@[simp] theorem portPut_bhHeld (k : Nat) (v : GhPort) : (portPut s k v).bhHeld = s.bhHeld := rfl
@[simp] theorem portPut_bhApertures (k : Nat) (v : GhPort) : (portPut s k v).bhApertures = s.bhApertures := rfl
@[simp] theorem portPut_bhChannels (k : Nat) (v : GhPort) : (portPut s k v).bhChannels = s.bhChannels := rfl
@[simp] theorem portPut_bhRanges (k : Nat) (v : GhPort) : (portPut s k v).bhRanges = s.bhRanges := rfl
@[simp] theorem portPut_power (k : Nat) (v : GhPort) : (portPut s k v).power = s.power := rfl
@[simp] theorem portPut_fw (k : Nat) (v : GhPort) : (portPut s k v).fw = s.fw := rfl
@[simp] theorem portPut_freeCtr (k : Nat) (v : GhPort) : (portPut s k v).freeCtr = s.freeCtr := rfl

/-! ### gchanPut: it changes gchans alone -/

@[simp] theorem gchanPut_pending (k : Nat) (v : GhChan) : (gchanPut s k v).pending = s.pending := rfl
@[simp] theorem gchanPut_tb (k : Nat) (v : GhChan) : (gchanPut s k v).tb = s.tb := rfl
@[simp] theorem gchanPut_sent (k : Nat) (v : GhChan) : (gchanPut s k v).sent = s.sent := rfl
@[simp] theorem gchanPut_regs (k : Nat) (v : GhChan) : (gchanPut s k v).regs = s.regs := rfl
@[simp] theorem gchanPut_staged (k : Nat) (v : GhChan) : (gchanPut s k v).staged = s.staged := rfl
@[simp] theorem gchanPut_octs (k : Nat) (v : GhChan) : (gchanPut s k v).octs = s.octs := rfl
@[simp] theorem gchanPut_stagedOcts (k : Nat) (v : GhChan) : (gchanPut s k v).stagedOcts = s.stagedOcts := rfl
@[simp] theorem gchanPut_pins (k : Nat) (v : GhChan) : (gchanPut s k v).pins = s.pins := rfl
@[simp] theorem gchanPut_start (k : Nat) (v : GhChan) : (gchanPut s k v).start = s.start := rfl
@[simp] theorem gchanPut_retained (k : Nat) (v : GhChan) : (gchanPut s k v).retained = s.retained := rfl
@[simp] theorem gchanPut_flash (k : Nat) (v : GhChan) : (gchanPut s k v).flash = s.flash := rfl
@[simp] theorem gchanPut_islands (k : Nat) (v : GhChan) : (gchanPut s k v).islands = s.islands := rfl
@[simp] theorem gchanPut_mem (k : Nat) (v : GhChan) : (gchanPut s k v).mem = s.mem := rfl
@[simp] theorem gchanPut_shells (k : Nat) (v : GhChan) : (gchanPut s k v).shells = s.shells := rfl
@[simp] theorem gchanPut_seats (k : Nat) (v : GhChan) : (gchanPut s k v).seats = s.seats := rfl
@[simp] theorem gchanPut_scrubSeats (k : Nat) (v : GhChan) : (gchanPut s k v).scrubSeats = s.scrubSeats := rfl
@[simp] theorem gchanPut_scrubChans (k : Nat) (v : GhChan) : (gchanPut s k v).scrubChans = s.scrubChans := rfl
@[simp] theorem gchanPut_retiredSeats (k : Nat) (v : GhChan) : (gchanPut s k v).retiredSeats = s.retiredSeats := rfl
@[simp] theorem gchanPut_images (k : Nat) (v : GhChan) : (gchanPut s k v).images = s.images := rfl
@[simp] theorem gchanPut_chans (k : Nat) (v : GhChan) : (gchanPut s k v).chans = s.chans := rfl
@[simp] theorem gchanPut_cxlPorts (k : Nat) (v : GhChan) : (gchanPut s k v).cxlPorts = s.cxlPorts := rfl
@[simp] theorem gchanPut_cxlRanges (k : Nat) (v : GhChan) : (gchanPut s k v).cxlRanges = s.cxlRanges := rfl
@[simp] theorem gchanPut_cxlRun (k : Nat) (v : GhChan) : (gchanPut s k v).cxlRun = s.cxlRun := rfl
@[simp] theorem gchanPut_cxlScrub (k : Nat) (v : GhChan) : (gchanPut s k v).cxlScrub = s.cxlScrub := rfl
@[simp] theorem gchanPut_hostGen (k : Nat) (v : GhChan) : (gchanPut s k v).hostGen = s.hostGen := rfl
@[simp] theorem gchanPut_hostWidth (k : Nat) (v : GhChan) : (gchanPut s k v).hostWidth = s.hostWidth := rfl
@[simp] theorem gchanPut_ringDerate (k : Nat) (v : GhChan) : (gchanPut s k v).ringDerate = s.ringDerate := rfl
@[simp] theorem gchanPut_tbCapacity (k : Nat) (v : GhChan) : (gchanPut s k v).tbCapacity = s.tbCapacity := rfl
@[simp] theorem gchanPut_scaleHold (k : Nat) (v : GhChan) : (gchanPut s k v).scaleHold = s.scaleHold := rfl
@[simp] theorem gchanPut_pace (k : Nat) (v : GhChan) : (gchanPut s k v).pace = s.pace := rfl
@[simp] theorem gchanPut_slices (k : Nat) (v : GhChan) : (gchanPut s k v).slices = s.slices := rfl
@[simp] theorem gchanPut_sliceBad (k : Nat) (v : GhChan) : (gchanPut s k v).sliceBad = s.sliceBad := rfl
@[simp] theorem gchanPut_seqSlots (k : Nat) (v : GhChan) : (gchanPut s k v).seqSlots = s.seqSlots := rfl
@[simp] theorem gchanPut_atc (k : Nat) (v : GhChan) : (gchanPut s k v).atc = s.atc := rfl
@[simp] theorem gchanPut_rangeCaches (k : Nat) (v : GhChan) : (gchanPut s k v).rangeCaches = s.rangeCaches := rfl
@[simp] theorem gchanPut_red (k : Nat) (v : GhChan) : (gchanPut s k v).red = s.red := rfl
@[simp] theorem gchanPut_redAcks (k : Nat) (v : GhChan) : (gchanPut s k v).redAcks = s.redAcks := rfl
@[simp] theorem gchanPut_upstream (k : Nat) (v : GhChan) : (gchanPut s k v).upstream = s.upstream := rfl
@[simp] theorem gchanPut_refused (k : Nat) (v : GhChan) : (gchanPut s k v).refused = s.refused := rfl
@[simp] theorem gchanPut_late (k : Nat) (v : GhChan) : (gchanPut s k v).late = s.late := rfl
@[simp] theorem gchanPut_tbHold (k : Nat) (v : GhChan) : (gchanPut s k v).tbHold = s.tbHold := rfl
@[simp] theorem gchanPut_linkRate (k : Nat) (v : GhChan) : (gchanPut s k v).linkRate = s.linkRate := rfl
@[simp] theorem gchanPut_fns (k : Nat) (v : GhChan) : (gchanPut s k v).fns = s.fns := rfl
@[simp] theorem gchanPut_fnRegs (k : Nat) (v : GhChan) : (gchanPut s k v).fnRegs = s.fnRegs := rfl
@[simp] theorem gchanPut_numVfs (k : Nat) (v : GhChan) : (gchanPut s k v).numVfs = s.numVfs := rfl
@[simp] theorem gchanPut_ctxs (k : Nat) (v : GhChan) : (gchanPut s k v).ctxs = s.ctxs := rfl
@[simp] theorem gchanPut_nextCtxId (k : Nat) (v : GhChan) : (gchanPut s k v).nextCtxId = s.nextCtxId := rfl
@[simp] theorem gchanPut_freeIds (k : Nat) (v : GhChan) : (gchanPut s k v).freeIds = s.freeIds := rfl
@[simp] theorem gchanPut_swapping (k : Nat) (v : GhChan) : (gchanPut s k v).swapping = s.swapping := rfl
@[simp] theorem gchanPut_ucRecs (k : Nat) (v : GhChan) : (gchanPut s k v).ucRecs = s.ucRecs := rfl
@[simp] theorem gchanPut_dmwr (k : Nat) (v : GhChan) : (gchanPut s k v).dmwr = s.dmwr := rfl
@[simp] theorem gchanPut_advWaits (k : Nat) (v : GhChan) : (gchanPut s k v).advWaits = s.advWaits := rfl
@[simp] theorem gchanPut_advFar (k : Nat) (v : GhChan) : (gchanPut s k v).advFar = s.advFar := rfl
@[simp] theorem gchanPut_bhFwd (k : Nat) (v : GhChan) : (gchanPut s k v).bhFwd = s.bhFwd := rfl
@[simp] theorem gchanPut_sprints (k : Nat) (v : GhChan) : (gchanPut s k v).sprints = s.sprints := rfl
@[simp] theorem gchanPut_nextId (k : Nat) (v : GhChan) : (gchanPut s k v).nextId = s.nextId := rfl
@[simp] theorem gchanPut_errSeq (k : Nat) (v : GhChan) : (gchanPut s k v).errSeq = s.errSeq := rfl
@[simp] theorem gchanPut_errLog (k : Nat) (v : GhChan) : (gchanPut s k v).errLog = s.errLog := rfl
@[simp] theorem gchanPut_sessions (k : Nat) (v : GhChan) : (gchanPut s k v).sessions = s.sessions := rfl
@[simp] theorem gchanPut_endpoints (k : Nat) (v : GhChan) : (gchanPut s k v).endpoints = s.endpoints := rfl
@[simp] theorem gchanPut_nextSession (k : Nat) (v : GhChan) : (gchanPut s k v).nextSession = s.nextSession := rfl
@[simp] theorem gchanPut_freeSessions (k : Nat) (v : GhChan) : (gchanPut s k v).freeSessions = s.freeSessions := rfl
@[simp] theorem gchanPut_mbxs (k : Nat) (v : GhChan) : (gchanPut s k v).mbxs = s.mbxs := rfl
@[simp] theorem gchanPut_eids (k : Nat) (v : GhChan) : (gchanPut s k v).eids = s.eids := rfl
@[simp] theorem gchanPut_mctpIn (k : Nat) (v : GhChan) : (gchanPut s k v).mctpIn = s.mctpIn := rfl
@[simp] theorem gchanPut_papQueue (k : Nat) (v : GhChan) : (gchanPut s k v).papQueue = s.papQueue := rfl
@[simp] theorem gchanPut_mctpOffer (k : Nat) (v : GhChan) : (gchanPut s k v).mctpOffer = s.mctpOffer := rfl
@[simp] theorem gchanPut_mctpCount (k : Nat) (v : GhChan) : (gchanPut s k v).mctpCount = s.mctpCount := rfl
@[simp] theorem gchanPut_tbMctp (k : Nat) (v : GhChan) : (gchanPut s k v).tbMctp = s.tbMctp := rfl
@[simp] theorem gchanPut_wake (k : Nat) (v : GhChan) : (gchanPut s k v).wake = s.wake := rfl
@[simp] theorem gchanPut_ghPorts (k : Nat) (v : GhChan) : (gchanPut s k v).ghPorts = s.ghPorts := rfl
@[simp] theorem gchanPut_ghTxn (k : Nat) (v : GhChan) : (gchanPut s k v).ghTxn = s.ghTxn := rfl
@[simp] theorem gchanPut_ghTag (k : Nat) (v : GhChan) : (gchanPut s k v).ghTag = s.ghTag := rfl
@[simp] theorem gchanPut_ghWaiting (k : Nat) (v : GhChan) : (gchanPut s k v).ghWaiting = s.ghWaiting := rfl
@[simp] theorem gchanPut_ghMsgs (k : Nat) (v : GhChan) : (gchanPut s k v).ghMsgs = s.ghMsgs := rfl
@[simp] theorem gchanPut_ghKept (k : Nat) (v : GhChan) : (gchanPut s k v).ghKept = s.ghKept := rfl
@[simp] theorem gchanPut_ghLate (k : Nat) (v : GhChan) : (gchanPut s k v).ghLate = s.ghLate := rfl
@[simp] theorem gchanPut_shardEpoch (k : Nat) (v : GhChan) : (gchanPut s k v).shardEpoch = s.shardEpoch := rfl
@[simp] theorem gchanPut_nextLease (k : Nat) (v : GhChan) : (gchanPut s k v).nextLease = s.nextLease := rfl
@[simp] theorem gchanPut_borrowed (k : Nat) (v : GhChan) : (gchanPut s k v).borrowed = s.borrowed := rfl
@[simp] theorem gchanPut_lent (k : Nat) (v : GhChan) : (gchanPut s k v).lent = s.lent := rfl
@[simp] theorem gchanPut_lendLog (k : Nat) (v : GhChan) : (gchanPut s k v).lendLog = s.lendLog := rfl
@[simp] theorem gchanPut_lentEnding (k : Nat) (v : GhChan) : (gchanPut s k v).lentEnding = s.lentEnding := rfl
@[simp] theorem gchanPut_bhHomes (k : Nat) (v : GhChan) : (gchanPut s k v).bhHomes = s.bhHomes := rfl
@[simp] theorem gchanPut_bhHeld (k : Nat) (v : GhChan) : (gchanPut s k v).bhHeld = s.bhHeld := rfl
@[simp] theorem gchanPut_bhApertures (k : Nat) (v : GhChan) : (gchanPut s k v).bhApertures = s.bhApertures := rfl
@[simp] theorem gchanPut_bhChannels (k : Nat) (v : GhChan) : (gchanPut s k v).bhChannels = s.bhChannels := rfl
@[simp] theorem gchanPut_bhRanges (k : Nat) (v : GhChan) : (gchanPut s k v).bhRanges = s.bhRanges := rfl
@[simp] theorem gchanPut_power (k : Nat) (v : GhChan) : (gchanPut s k v).power = s.power := rfl
@[simp] theorem gchanPut_fw (k : Nat) (v : GhChan) : (gchanPut s k v).fw = s.fw := rfl
@[simp] theorem gchanPut_freeCtr (k : Nat) (v : GhChan) : (gchanPut s k v).freeCtr = s.freeCtr := rfl

/-! ### fnPut: it changes fnRegs alone -/

@[simp] theorem fnPut_pending (k o v : Nat) : (fnPut s k o v).pending = s.pending := rfl
@[simp] theorem fnPut_tb (k o v : Nat) : (fnPut s k o v).tb = s.tb := rfl
@[simp] theorem fnPut_sent (k o v : Nat) : (fnPut s k o v).sent = s.sent := rfl
@[simp] theorem fnPut_regs (k o v : Nat) : (fnPut s k o v).regs = s.regs := rfl
@[simp] theorem fnPut_staged (k o v : Nat) : (fnPut s k o v).staged = s.staged := rfl
@[simp] theorem fnPut_octs (k o v : Nat) : (fnPut s k o v).octs = s.octs := rfl
@[simp] theorem fnPut_stagedOcts (k o v : Nat) : (fnPut s k o v).stagedOcts = s.stagedOcts := rfl
@[simp] theorem fnPut_pins (k o v : Nat) : (fnPut s k o v).pins = s.pins := rfl
@[simp] theorem fnPut_start (k o v : Nat) : (fnPut s k o v).start = s.start := rfl
@[simp] theorem fnPut_retained (k o v : Nat) : (fnPut s k o v).retained = s.retained := rfl
@[simp] theorem fnPut_flash (k o v : Nat) : (fnPut s k o v).flash = s.flash := rfl
@[simp] theorem fnPut_islands (k o v : Nat) : (fnPut s k o v).islands = s.islands := rfl
@[simp] theorem fnPut_mem (k o v : Nat) : (fnPut s k o v).mem = s.mem := rfl
@[simp] theorem fnPut_shells (k o v : Nat) : (fnPut s k o v).shells = s.shells := rfl
@[simp] theorem fnPut_seats (k o v : Nat) : (fnPut s k o v).seats = s.seats := rfl
@[simp] theorem fnPut_scrubSeats (k o v : Nat) : (fnPut s k o v).scrubSeats = s.scrubSeats := rfl
@[simp] theorem fnPut_scrubChans (k o v : Nat) : (fnPut s k o v).scrubChans = s.scrubChans := rfl
@[simp] theorem fnPut_retiredSeats (k o v : Nat) : (fnPut s k o v).retiredSeats = s.retiredSeats := rfl
@[simp] theorem fnPut_images (k o v : Nat) : (fnPut s k o v).images = s.images := rfl
@[simp] theorem fnPut_chans (k o v : Nat) : (fnPut s k o v).chans = s.chans := rfl
@[simp] theorem fnPut_cxlPorts (k o v : Nat) : (fnPut s k o v).cxlPorts = s.cxlPorts := rfl
@[simp] theorem fnPut_cxlRanges (k o v : Nat) : (fnPut s k o v).cxlRanges = s.cxlRanges := rfl
@[simp] theorem fnPut_cxlRun (k o v : Nat) : (fnPut s k o v).cxlRun = s.cxlRun := rfl
@[simp] theorem fnPut_cxlScrub (k o v : Nat) : (fnPut s k o v).cxlScrub = s.cxlScrub := rfl
@[simp] theorem fnPut_hostGen (k o v : Nat) : (fnPut s k o v).hostGen = s.hostGen := rfl
@[simp] theorem fnPut_hostWidth (k o v : Nat) : (fnPut s k o v).hostWidth = s.hostWidth := rfl
@[simp] theorem fnPut_ringDerate (k o v : Nat) : (fnPut s k o v).ringDerate = s.ringDerate := rfl
@[simp] theorem fnPut_tbCapacity (k o v : Nat) : (fnPut s k o v).tbCapacity = s.tbCapacity := rfl
@[simp] theorem fnPut_scaleHold (k o v : Nat) : (fnPut s k o v).scaleHold = s.scaleHold := rfl
@[simp] theorem fnPut_pace (k o v : Nat) : (fnPut s k o v).pace = s.pace := rfl
@[simp] theorem fnPut_slices (k o v : Nat) : (fnPut s k o v).slices = s.slices := rfl
@[simp] theorem fnPut_sliceBad (k o v : Nat) : (fnPut s k o v).sliceBad = s.sliceBad := rfl
@[simp] theorem fnPut_seqSlots (k o v : Nat) : (fnPut s k o v).seqSlots = s.seqSlots := rfl
@[simp] theorem fnPut_atc (k o v : Nat) : (fnPut s k o v).atc = s.atc := rfl
@[simp] theorem fnPut_rangeCaches (k o v : Nat) : (fnPut s k o v).rangeCaches = s.rangeCaches := rfl
@[simp] theorem fnPut_red (k o v : Nat) : (fnPut s k o v).red = s.red := rfl
@[simp] theorem fnPut_redAcks (k o v : Nat) : (fnPut s k o v).redAcks = s.redAcks := rfl
@[simp] theorem fnPut_upstream (k o v : Nat) : (fnPut s k o v).upstream = s.upstream := rfl
@[simp] theorem fnPut_refused (k o v : Nat) : (fnPut s k o v).refused = s.refused := rfl
@[simp] theorem fnPut_late (k o v : Nat) : (fnPut s k o v).late = s.late := rfl
@[simp] theorem fnPut_tbHold (k o v : Nat) : (fnPut s k o v).tbHold = s.tbHold := rfl
@[simp] theorem fnPut_linkRate (k o v : Nat) : (fnPut s k o v).linkRate = s.linkRate := rfl
@[simp] theorem fnPut_fns (k o v : Nat) : (fnPut s k o v).fns = s.fns := rfl
@[simp] theorem fnPut_numVfs (k o v : Nat) : (fnPut s k o v).numVfs = s.numVfs := rfl
@[simp] theorem fnPut_ctxs (k o v : Nat) : (fnPut s k o v).ctxs = s.ctxs := rfl
@[simp] theorem fnPut_nextCtxId (k o v : Nat) : (fnPut s k o v).nextCtxId = s.nextCtxId := rfl
@[simp] theorem fnPut_freeIds (k o v : Nat) : (fnPut s k o v).freeIds = s.freeIds := rfl
@[simp] theorem fnPut_swapping (k o v : Nat) : (fnPut s k o v).swapping = s.swapping := rfl
@[simp] theorem fnPut_ucRecs (k o v : Nat) : (fnPut s k o v).ucRecs = s.ucRecs := rfl
@[simp] theorem fnPut_dmwr (k o v : Nat) : (fnPut s k o v).dmwr = s.dmwr := rfl
@[simp] theorem fnPut_advWaits (k o v : Nat) : (fnPut s k o v).advWaits = s.advWaits := rfl
@[simp] theorem fnPut_advFar (k o v : Nat) : (fnPut s k o v).advFar = s.advFar := rfl
@[simp] theorem fnPut_bhFwd (k o v : Nat) : (fnPut s k o v).bhFwd = s.bhFwd := rfl
@[simp] theorem fnPut_sprints (k o v : Nat) : (fnPut s k o v).sprints = s.sprints := rfl
@[simp] theorem fnPut_nextId (k o v : Nat) : (fnPut s k o v).nextId = s.nextId := rfl
@[simp] theorem fnPut_errSeq (k o v : Nat) : (fnPut s k o v).errSeq = s.errSeq := rfl
@[simp] theorem fnPut_errLog (k o v : Nat) : (fnPut s k o v).errLog = s.errLog := rfl
@[simp] theorem fnPut_sessions (k o v : Nat) : (fnPut s k o v).sessions = s.sessions := rfl
@[simp] theorem fnPut_endpoints (k o v : Nat) : (fnPut s k o v).endpoints = s.endpoints := rfl
@[simp] theorem fnPut_nextSession (k o v : Nat) : (fnPut s k o v).nextSession = s.nextSession := rfl
@[simp] theorem fnPut_freeSessions (k o v : Nat) : (fnPut s k o v).freeSessions = s.freeSessions := rfl
@[simp] theorem fnPut_mbxs (k o v : Nat) : (fnPut s k o v).mbxs = s.mbxs := rfl
@[simp] theorem fnPut_eids (k o v : Nat) : (fnPut s k o v).eids = s.eids := rfl
@[simp] theorem fnPut_mctpIn (k o v : Nat) : (fnPut s k o v).mctpIn = s.mctpIn := rfl
@[simp] theorem fnPut_papQueue (k o v : Nat) : (fnPut s k o v).papQueue = s.papQueue := rfl
@[simp] theorem fnPut_mctpOffer (k o v : Nat) : (fnPut s k o v).mctpOffer = s.mctpOffer := rfl
@[simp] theorem fnPut_mctpCount (k o v : Nat) : (fnPut s k o v).mctpCount = s.mctpCount := rfl
@[simp] theorem fnPut_tbMctp (k o v : Nat) : (fnPut s k o v).tbMctp = s.tbMctp := rfl
@[simp] theorem fnPut_wake (k o v : Nat) : (fnPut s k o v).wake = s.wake := rfl
@[simp] theorem fnPut_ghPorts (k o v : Nat) : (fnPut s k o v).ghPorts = s.ghPorts := rfl
@[simp] theorem fnPut_ghTxn (k o v : Nat) : (fnPut s k o v).ghTxn = s.ghTxn := rfl
@[simp] theorem fnPut_ghTag (k o v : Nat) : (fnPut s k o v).ghTag = s.ghTag := rfl
@[simp] theorem fnPut_ghWaiting (k o v : Nat) : (fnPut s k o v).ghWaiting = s.ghWaiting := rfl
@[simp] theorem fnPut_ghMsgs (k o v : Nat) : (fnPut s k o v).ghMsgs = s.ghMsgs := rfl
@[simp] theorem fnPut_ghKept (k o v : Nat) : (fnPut s k o v).ghKept = s.ghKept := rfl
@[simp] theorem fnPut_ghLate (k o v : Nat) : (fnPut s k o v).ghLate = s.ghLate := rfl
@[simp] theorem fnPut_shardEpoch (k o v : Nat) : (fnPut s k o v).shardEpoch = s.shardEpoch := rfl
@[simp] theorem fnPut_nextLease (k o v : Nat) : (fnPut s k o v).nextLease = s.nextLease := rfl
@[simp] theorem fnPut_borrowed (k o v : Nat) : (fnPut s k o v).borrowed = s.borrowed := rfl
@[simp] theorem fnPut_lent (k o v : Nat) : (fnPut s k o v).lent = s.lent := rfl
@[simp] theorem fnPut_lendLog (k o v : Nat) : (fnPut s k o v).lendLog = s.lendLog := rfl
@[simp] theorem fnPut_lentEnding (k o v : Nat) : (fnPut s k o v).lentEnding = s.lentEnding := rfl
@[simp] theorem fnPut_gchans (k o v : Nat) : (fnPut s k o v).gchans = s.gchans := rfl
@[simp] theorem fnPut_bhHomes (k o v : Nat) : (fnPut s k o v).bhHomes = s.bhHomes := rfl
@[simp] theorem fnPut_bhHeld (k o v : Nat) : (fnPut s k o v).bhHeld = s.bhHeld := rfl
@[simp] theorem fnPut_bhApertures (k o v : Nat) : (fnPut s k o v).bhApertures = s.bhApertures := rfl
@[simp] theorem fnPut_bhChannels (k o v : Nat) : (fnPut s k o v).bhChannels = s.bhChannels := rfl
@[simp] theorem fnPut_bhRanges (k o v : Nat) : (fnPut s k o v).bhRanges = s.bhRanges := rfl
@[simp] theorem fnPut_power (k o v : Nat) : (fnPut s k o v).power = s.power := rfl
@[simp] theorem fnPut_fw (k o v : Nat) : (fnPut s k o v).fw = s.fw := rfl
@[simp] theorem fnPut_freeCtr (k o v : Nat) : (fnPut s k o v).freeCtr = s.freeCtr := rfl

/-! ### emit: it changes sent alone -/

@[simp] theorem emit_pending (x : Sent) : (emit s x).pending = s.pending := rfl
@[simp] theorem emit_tb (x : Sent) : (emit s x).tb = s.tb := rfl
@[simp] theorem emit_regs (x : Sent) : (emit s x).regs = s.regs := rfl
@[simp] theorem emit_staged (x : Sent) : (emit s x).staged = s.staged := rfl
@[simp] theorem emit_octs (x : Sent) : (emit s x).octs = s.octs := rfl
@[simp] theorem emit_stagedOcts (x : Sent) : (emit s x).stagedOcts = s.stagedOcts := rfl
@[simp] theorem emit_pins (x : Sent) : (emit s x).pins = s.pins := rfl
@[simp] theorem emit_start (x : Sent) : (emit s x).start = s.start := rfl
@[simp] theorem emit_retained (x : Sent) : (emit s x).retained = s.retained := rfl
@[simp] theorem emit_flash (x : Sent) : (emit s x).flash = s.flash := rfl
@[simp] theorem emit_islands (x : Sent) : (emit s x).islands = s.islands := rfl
@[simp] theorem emit_mem (x : Sent) : (emit s x).mem = s.mem := rfl
@[simp] theorem emit_shells (x : Sent) : (emit s x).shells = s.shells := rfl
@[simp] theorem emit_seats (x : Sent) : (emit s x).seats = s.seats := rfl
@[simp] theorem emit_scrubSeats (x : Sent) : (emit s x).scrubSeats = s.scrubSeats := rfl
@[simp] theorem emit_scrubChans (x : Sent) : (emit s x).scrubChans = s.scrubChans := rfl
@[simp] theorem emit_retiredSeats (x : Sent) : (emit s x).retiredSeats = s.retiredSeats := rfl
@[simp] theorem emit_images (x : Sent) : (emit s x).images = s.images := rfl
@[simp] theorem emit_chans (x : Sent) : (emit s x).chans = s.chans := rfl
@[simp] theorem emit_cxlPorts (x : Sent) : (emit s x).cxlPorts = s.cxlPorts := rfl
@[simp] theorem emit_cxlRanges (x : Sent) : (emit s x).cxlRanges = s.cxlRanges := rfl
@[simp] theorem emit_cxlRun (x : Sent) : (emit s x).cxlRun = s.cxlRun := rfl
@[simp] theorem emit_cxlScrub (x : Sent) : (emit s x).cxlScrub = s.cxlScrub := rfl
@[simp] theorem emit_hostGen (x : Sent) : (emit s x).hostGen = s.hostGen := rfl
@[simp] theorem emit_hostWidth (x : Sent) : (emit s x).hostWidth = s.hostWidth := rfl
@[simp] theorem emit_ringDerate (x : Sent) : (emit s x).ringDerate = s.ringDerate := rfl
@[simp] theorem emit_tbCapacity (x : Sent) : (emit s x).tbCapacity = s.tbCapacity := rfl
@[simp] theorem emit_scaleHold (x : Sent) : (emit s x).scaleHold = s.scaleHold := rfl
@[simp] theorem emit_pace (x : Sent) : (emit s x).pace = s.pace := rfl
@[simp] theorem emit_slices (x : Sent) : (emit s x).slices = s.slices := rfl
@[simp] theorem emit_sliceBad (x : Sent) : (emit s x).sliceBad = s.sliceBad := rfl
@[simp] theorem emit_seqSlots (x : Sent) : (emit s x).seqSlots = s.seqSlots := rfl
@[simp] theorem emit_atc (x : Sent) : (emit s x).atc = s.atc := rfl
@[simp] theorem emit_rangeCaches (x : Sent) : (emit s x).rangeCaches = s.rangeCaches := rfl
@[simp] theorem emit_red (x : Sent) : (emit s x).red = s.red := rfl
@[simp] theorem emit_redAcks (x : Sent) : (emit s x).redAcks = s.redAcks := rfl
@[simp] theorem emit_upstream (x : Sent) : (emit s x).upstream = s.upstream := rfl
@[simp] theorem emit_refused (x : Sent) : (emit s x).refused = s.refused := rfl
@[simp] theorem emit_late (x : Sent) : (emit s x).late = s.late := rfl
@[simp] theorem emit_tbHold (x : Sent) : (emit s x).tbHold = s.tbHold := rfl
@[simp] theorem emit_linkRate (x : Sent) : (emit s x).linkRate = s.linkRate := rfl
@[simp] theorem emit_fns (x : Sent) : (emit s x).fns = s.fns := rfl
@[simp] theorem emit_fnRegs (x : Sent) : (emit s x).fnRegs = s.fnRegs := rfl
@[simp] theorem emit_numVfs (x : Sent) : (emit s x).numVfs = s.numVfs := rfl
@[simp] theorem emit_ctxs (x : Sent) : (emit s x).ctxs = s.ctxs := rfl
@[simp] theorem emit_nextCtxId (x : Sent) : (emit s x).nextCtxId = s.nextCtxId := rfl
@[simp] theorem emit_freeIds (x : Sent) : (emit s x).freeIds = s.freeIds := rfl
@[simp] theorem emit_swapping (x : Sent) : (emit s x).swapping = s.swapping := rfl
@[simp] theorem emit_ucRecs (x : Sent) : (emit s x).ucRecs = s.ucRecs := rfl
@[simp] theorem emit_dmwr (x : Sent) : (emit s x).dmwr = s.dmwr := rfl
@[simp] theorem emit_advWaits (x : Sent) : (emit s x).advWaits = s.advWaits := rfl
@[simp] theorem emit_advFar (x : Sent) : (emit s x).advFar = s.advFar := rfl
@[simp] theorem emit_bhFwd (x : Sent) : (emit s x).bhFwd = s.bhFwd := rfl
@[simp] theorem emit_sprints (x : Sent) : (emit s x).sprints = s.sprints := rfl
@[simp] theorem emit_nextId (x : Sent) : (emit s x).nextId = s.nextId := rfl
@[simp] theorem emit_errSeq (x : Sent) : (emit s x).errSeq = s.errSeq := rfl
@[simp] theorem emit_errLog (x : Sent) : (emit s x).errLog = s.errLog := rfl
@[simp] theorem emit_sessions (x : Sent) : (emit s x).sessions = s.sessions := rfl
@[simp] theorem emit_endpoints (x : Sent) : (emit s x).endpoints = s.endpoints := rfl
@[simp] theorem emit_nextSession (x : Sent) : (emit s x).nextSession = s.nextSession := rfl
@[simp] theorem emit_freeSessions (x : Sent) : (emit s x).freeSessions = s.freeSessions := rfl
@[simp] theorem emit_mbxs (x : Sent) : (emit s x).mbxs = s.mbxs := rfl
@[simp] theorem emit_eids (x : Sent) : (emit s x).eids = s.eids := rfl
@[simp] theorem emit_mctpIn (x : Sent) : (emit s x).mctpIn = s.mctpIn := rfl
@[simp] theorem emit_papQueue (x : Sent) : (emit s x).papQueue = s.papQueue := rfl
@[simp] theorem emit_mctpOffer (x : Sent) : (emit s x).mctpOffer = s.mctpOffer := rfl
@[simp] theorem emit_mctpCount (x : Sent) : (emit s x).mctpCount = s.mctpCount := rfl
@[simp] theorem emit_tbMctp (x : Sent) : (emit s x).tbMctp = s.tbMctp := rfl
@[simp] theorem emit_wake (x : Sent) : (emit s x).wake = s.wake := rfl
@[simp] theorem emit_ghPorts (x : Sent) : (emit s x).ghPorts = s.ghPorts := rfl
@[simp] theorem emit_ghTxn (x : Sent) : (emit s x).ghTxn = s.ghTxn := rfl
@[simp] theorem emit_ghTag (x : Sent) : (emit s x).ghTag = s.ghTag := rfl
@[simp] theorem emit_ghWaiting (x : Sent) : (emit s x).ghWaiting = s.ghWaiting := rfl
@[simp] theorem emit_ghMsgs (x : Sent) : (emit s x).ghMsgs = s.ghMsgs := rfl
@[simp] theorem emit_ghKept (x : Sent) : (emit s x).ghKept = s.ghKept := rfl
@[simp] theorem emit_ghLate (x : Sent) : (emit s x).ghLate = s.ghLate := rfl
@[simp] theorem emit_shardEpoch (x : Sent) : (emit s x).shardEpoch = s.shardEpoch := rfl
@[simp] theorem emit_nextLease (x : Sent) : (emit s x).nextLease = s.nextLease := rfl
@[simp] theorem emit_borrowed (x : Sent) : (emit s x).borrowed = s.borrowed := rfl
@[simp] theorem emit_lent (x : Sent) : (emit s x).lent = s.lent := rfl
@[simp] theorem emit_lendLog (x : Sent) : (emit s x).lendLog = s.lendLog := rfl
@[simp] theorem emit_lentEnding (x : Sent) : (emit s x).lentEnding = s.lentEnding := rfl
@[simp] theorem emit_gchans (x : Sent) : (emit s x).gchans = s.gchans := rfl
@[simp] theorem emit_bhHomes (x : Sent) : (emit s x).bhHomes = s.bhHomes := rfl
@[simp] theorem emit_bhHeld (x : Sent) : (emit s x).bhHeld = s.bhHeld := rfl
@[simp] theorem emit_bhApertures (x : Sent) : (emit s x).bhApertures = s.bhApertures := rfl
@[simp] theorem emit_bhChannels (x : Sent) : (emit s x).bhChannels = s.bhChannels := rfl
@[simp] theorem emit_bhRanges (x : Sent) : (emit s x).bhRanges = s.bhRanges := rfl
@[simp] theorem emit_power (x : Sent) : (emit s x).power = s.power := rfl
@[simp] theorem emit_fw (x : Sent) : (emit s x).fw = s.fw := rfl
@[simp] theorem emit_freeCtr (x : Sent) : (emit s x).freeCtr = s.freeCtr := rfl

/-! ### freeNext: it changes freeCtr alone -/

@[simp] theorem freeNext_pending : (freeNext s).pending = s.pending := rfl
@[simp] theorem freeNext_tb : (freeNext s).tb = s.tb := rfl
@[simp] theorem freeNext_sent : (freeNext s).sent = s.sent := rfl
@[simp] theorem freeNext_regs : (freeNext s).regs = s.regs := rfl
@[simp] theorem freeNext_staged : (freeNext s).staged = s.staged := rfl
@[simp] theorem freeNext_octs : (freeNext s).octs = s.octs := rfl
@[simp] theorem freeNext_stagedOcts : (freeNext s).stagedOcts = s.stagedOcts := rfl
@[simp] theorem freeNext_pins : (freeNext s).pins = s.pins := rfl
@[simp] theorem freeNext_start : (freeNext s).start = s.start := rfl
@[simp] theorem freeNext_retained : (freeNext s).retained = s.retained := rfl
@[simp] theorem freeNext_flash : (freeNext s).flash = s.flash := rfl
@[simp] theorem freeNext_islands : (freeNext s).islands = s.islands := rfl
@[simp] theorem freeNext_mem : (freeNext s).mem = s.mem := rfl
@[simp] theorem freeNext_shells : (freeNext s).shells = s.shells := rfl
@[simp] theorem freeNext_seats : (freeNext s).seats = s.seats := rfl
@[simp] theorem freeNext_scrubSeats : (freeNext s).scrubSeats = s.scrubSeats := rfl
@[simp] theorem freeNext_scrubChans : (freeNext s).scrubChans = s.scrubChans := rfl
@[simp] theorem freeNext_retiredSeats : (freeNext s).retiredSeats = s.retiredSeats := rfl
@[simp] theorem freeNext_images : (freeNext s).images = s.images := rfl
@[simp] theorem freeNext_chans : (freeNext s).chans = s.chans := rfl
@[simp] theorem freeNext_cxlPorts : (freeNext s).cxlPorts = s.cxlPorts := rfl
@[simp] theorem freeNext_cxlRanges : (freeNext s).cxlRanges = s.cxlRanges := rfl
@[simp] theorem freeNext_cxlRun : (freeNext s).cxlRun = s.cxlRun := rfl
@[simp] theorem freeNext_cxlScrub : (freeNext s).cxlScrub = s.cxlScrub := rfl
@[simp] theorem freeNext_hostGen : (freeNext s).hostGen = s.hostGen := rfl
@[simp] theorem freeNext_hostWidth : (freeNext s).hostWidth = s.hostWidth := rfl
@[simp] theorem freeNext_ringDerate : (freeNext s).ringDerate = s.ringDerate := rfl
@[simp] theorem freeNext_tbCapacity : (freeNext s).tbCapacity = s.tbCapacity := rfl
@[simp] theorem freeNext_scaleHold : (freeNext s).scaleHold = s.scaleHold := rfl
@[simp] theorem freeNext_pace : (freeNext s).pace = s.pace := rfl
@[simp] theorem freeNext_slices : (freeNext s).slices = s.slices := rfl
@[simp] theorem freeNext_sliceBad : (freeNext s).sliceBad = s.sliceBad := rfl
@[simp] theorem freeNext_seqSlots : (freeNext s).seqSlots = s.seqSlots := rfl
@[simp] theorem freeNext_atc : (freeNext s).atc = s.atc := rfl
@[simp] theorem freeNext_rangeCaches : (freeNext s).rangeCaches = s.rangeCaches := rfl
@[simp] theorem freeNext_red : (freeNext s).red = s.red := rfl
@[simp] theorem freeNext_redAcks : (freeNext s).redAcks = s.redAcks := rfl
@[simp] theorem freeNext_upstream : (freeNext s).upstream = s.upstream := rfl
@[simp] theorem freeNext_refused : (freeNext s).refused = s.refused := rfl
@[simp] theorem freeNext_late : (freeNext s).late = s.late := rfl
@[simp] theorem freeNext_tbHold : (freeNext s).tbHold = s.tbHold := rfl
@[simp] theorem freeNext_linkRate : (freeNext s).linkRate = s.linkRate := rfl
@[simp] theorem freeNext_fns : (freeNext s).fns = s.fns := rfl
@[simp] theorem freeNext_fnRegs : (freeNext s).fnRegs = s.fnRegs := rfl
@[simp] theorem freeNext_numVfs : (freeNext s).numVfs = s.numVfs := rfl
@[simp] theorem freeNext_ctxs : (freeNext s).ctxs = s.ctxs := rfl
@[simp] theorem freeNext_nextCtxId : (freeNext s).nextCtxId = s.nextCtxId := rfl
@[simp] theorem freeNext_freeIds : (freeNext s).freeIds = s.freeIds := rfl
@[simp] theorem freeNext_swapping : (freeNext s).swapping = s.swapping := rfl
@[simp] theorem freeNext_ucRecs : (freeNext s).ucRecs = s.ucRecs := rfl
@[simp] theorem freeNext_dmwr : (freeNext s).dmwr = s.dmwr := rfl
@[simp] theorem freeNext_advWaits : (freeNext s).advWaits = s.advWaits := rfl
@[simp] theorem freeNext_advFar : (freeNext s).advFar = s.advFar := rfl
@[simp] theorem freeNext_bhFwd : (freeNext s).bhFwd = s.bhFwd := rfl
@[simp] theorem freeNext_sprints : (freeNext s).sprints = s.sprints := rfl
@[simp] theorem freeNext_nextId : (freeNext s).nextId = s.nextId := rfl
@[simp] theorem freeNext_errSeq : (freeNext s).errSeq = s.errSeq := rfl
@[simp] theorem freeNext_errLog : (freeNext s).errLog = s.errLog := rfl
@[simp] theorem freeNext_sessions : (freeNext s).sessions = s.sessions := rfl
@[simp] theorem freeNext_endpoints : (freeNext s).endpoints = s.endpoints := rfl
@[simp] theorem freeNext_nextSession : (freeNext s).nextSession = s.nextSession := rfl
@[simp] theorem freeNext_freeSessions : (freeNext s).freeSessions = s.freeSessions := rfl
@[simp] theorem freeNext_mbxs : (freeNext s).mbxs = s.mbxs := rfl
@[simp] theorem freeNext_eids : (freeNext s).eids = s.eids := rfl
@[simp] theorem freeNext_mctpIn : (freeNext s).mctpIn = s.mctpIn := rfl
@[simp] theorem freeNext_papQueue : (freeNext s).papQueue = s.papQueue := rfl
@[simp] theorem freeNext_mctpOffer : (freeNext s).mctpOffer = s.mctpOffer := rfl
@[simp] theorem freeNext_mctpCount : (freeNext s).mctpCount = s.mctpCount := rfl
@[simp] theorem freeNext_tbMctp : (freeNext s).tbMctp = s.tbMctp := rfl
@[simp] theorem freeNext_wake : (freeNext s).wake = s.wake := rfl
@[simp] theorem freeNext_ghPorts : (freeNext s).ghPorts = s.ghPorts := rfl
@[simp] theorem freeNext_ghTxn : (freeNext s).ghTxn = s.ghTxn := rfl
@[simp] theorem freeNext_ghTag : (freeNext s).ghTag = s.ghTag := rfl
@[simp] theorem freeNext_ghWaiting : (freeNext s).ghWaiting = s.ghWaiting := rfl
@[simp] theorem freeNext_ghMsgs : (freeNext s).ghMsgs = s.ghMsgs := rfl
@[simp] theorem freeNext_ghKept : (freeNext s).ghKept = s.ghKept := rfl
@[simp] theorem freeNext_ghLate : (freeNext s).ghLate = s.ghLate := rfl
@[simp] theorem freeNext_shardEpoch : (freeNext s).shardEpoch = s.shardEpoch := rfl
@[simp] theorem freeNext_nextLease : (freeNext s).nextLease = s.nextLease := rfl
@[simp] theorem freeNext_borrowed : (freeNext s).borrowed = s.borrowed := rfl
@[simp] theorem freeNext_lent : (freeNext s).lent = s.lent := rfl
@[simp] theorem freeNext_lendLog : (freeNext s).lendLog = s.lendLog := rfl
@[simp] theorem freeNext_lentEnding : (freeNext s).lentEnding = s.lentEnding := rfl
@[simp] theorem freeNext_gchans : (freeNext s).gchans = s.gchans := rfl
@[simp] theorem freeNext_bhHomes : (freeNext s).bhHomes = s.bhHomes := rfl
@[simp] theorem freeNext_bhHeld : (freeNext s).bhHeld = s.bhHeld := rfl
@[simp] theorem freeNext_bhApertures : (freeNext s).bhApertures = s.bhApertures := rfl
@[simp] theorem freeNext_bhChannels : (freeNext s).bhChannels = s.bhChannels := rfl
@[simp] theorem freeNext_bhRanges : (freeNext s).bhRanges = s.bhRanges := rfl
@[simp] theorem freeNext_power : (freeNext s).power = s.power := rfl
@[simp] theorem freeNext_fw : (freeNext s).fw = s.fw := rfl

/-! ### memWrite: it changes mem alone -/

@[simp] theorem memWrite_pending (a : Nat) (b : Bytes) : (memWrite s a b).pending = s.pending := rfl
@[simp] theorem memWrite_tb (a : Nat) (b : Bytes) : (memWrite s a b).tb = s.tb := rfl
@[simp] theorem memWrite_sent (a : Nat) (b : Bytes) : (memWrite s a b).sent = s.sent := rfl
@[simp] theorem memWrite_regs (a : Nat) (b : Bytes) : (memWrite s a b).regs = s.regs := rfl
@[simp] theorem memWrite_staged (a : Nat) (b : Bytes) : (memWrite s a b).staged = s.staged := rfl
@[simp] theorem memWrite_octs (a : Nat) (b : Bytes) : (memWrite s a b).octs = s.octs := rfl
@[simp] theorem memWrite_stagedOcts (a : Nat) (b : Bytes) : (memWrite s a b).stagedOcts = s.stagedOcts := rfl
@[simp] theorem memWrite_pins (a : Nat) (b : Bytes) : (memWrite s a b).pins = s.pins := rfl
@[simp] theorem memWrite_start (a : Nat) (b : Bytes) : (memWrite s a b).start = s.start := rfl
@[simp] theorem memWrite_retained (a : Nat) (b : Bytes) : (memWrite s a b).retained = s.retained := rfl
@[simp] theorem memWrite_flash (a : Nat) (b : Bytes) : (memWrite s a b).flash = s.flash := rfl
@[simp] theorem memWrite_islands (a : Nat) (b : Bytes) : (memWrite s a b).islands = s.islands := rfl
@[simp] theorem memWrite_shells (a : Nat) (b : Bytes) : (memWrite s a b).shells = s.shells := rfl
@[simp] theorem memWrite_seats (a : Nat) (b : Bytes) : (memWrite s a b).seats = s.seats := rfl
@[simp] theorem memWrite_scrubSeats (a : Nat) (b : Bytes) : (memWrite s a b).scrubSeats = s.scrubSeats := rfl
@[simp] theorem memWrite_scrubChans (a : Nat) (b : Bytes) : (memWrite s a b).scrubChans = s.scrubChans := rfl
@[simp] theorem memWrite_retiredSeats (a : Nat) (b : Bytes) : (memWrite s a b).retiredSeats = s.retiredSeats := rfl
@[simp] theorem memWrite_images (a : Nat) (b : Bytes) : (memWrite s a b).images = s.images := rfl
@[simp] theorem memWrite_chans (a : Nat) (b : Bytes) : (memWrite s a b).chans = s.chans := rfl
@[simp] theorem memWrite_cxlPorts (a : Nat) (b : Bytes) : (memWrite s a b).cxlPorts = s.cxlPorts := rfl
@[simp] theorem memWrite_cxlRanges (a : Nat) (b : Bytes) : (memWrite s a b).cxlRanges = s.cxlRanges := rfl
@[simp] theorem memWrite_cxlRun (a : Nat) (b : Bytes) : (memWrite s a b).cxlRun = s.cxlRun := rfl
@[simp] theorem memWrite_cxlScrub (a : Nat) (b : Bytes) : (memWrite s a b).cxlScrub = s.cxlScrub := rfl
@[simp] theorem memWrite_hostGen (a : Nat) (b : Bytes) : (memWrite s a b).hostGen = s.hostGen := rfl
@[simp] theorem memWrite_hostWidth (a : Nat) (b : Bytes) : (memWrite s a b).hostWidth = s.hostWidth := rfl
@[simp] theorem memWrite_ringDerate (a : Nat) (b : Bytes) : (memWrite s a b).ringDerate = s.ringDerate := rfl
@[simp] theorem memWrite_tbCapacity (a : Nat) (b : Bytes) : (memWrite s a b).tbCapacity = s.tbCapacity := rfl
@[simp] theorem memWrite_scaleHold (a : Nat) (b : Bytes) : (memWrite s a b).scaleHold = s.scaleHold := rfl
@[simp] theorem memWrite_pace (a : Nat) (b : Bytes) : (memWrite s a b).pace = s.pace := rfl
@[simp] theorem memWrite_slices (a : Nat) (b : Bytes) : (memWrite s a b).slices = s.slices := rfl
@[simp] theorem memWrite_sliceBad (a : Nat) (b : Bytes) : (memWrite s a b).sliceBad = s.sliceBad := rfl
@[simp] theorem memWrite_seqSlots (a : Nat) (b : Bytes) : (memWrite s a b).seqSlots = s.seqSlots := rfl
@[simp] theorem memWrite_atc (a : Nat) (b : Bytes) : (memWrite s a b).atc = s.atc := rfl
@[simp] theorem memWrite_rangeCaches (a : Nat) (b : Bytes) : (memWrite s a b).rangeCaches = s.rangeCaches := rfl
@[simp] theorem memWrite_red (a : Nat) (b : Bytes) : (memWrite s a b).red = s.red := rfl
@[simp] theorem memWrite_redAcks (a : Nat) (b : Bytes) : (memWrite s a b).redAcks = s.redAcks := rfl
@[simp] theorem memWrite_upstream (a : Nat) (b : Bytes) : (memWrite s a b).upstream = s.upstream := rfl
@[simp] theorem memWrite_refused (a : Nat) (b : Bytes) : (memWrite s a b).refused = s.refused := rfl
@[simp] theorem memWrite_late (a : Nat) (b : Bytes) : (memWrite s a b).late = s.late := rfl
@[simp] theorem memWrite_tbHold (a : Nat) (b : Bytes) : (memWrite s a b).tbHold = s.tbHold := rfl
@[simp] theorem memWrite_linkRate (a : Nat) (b : Bytes) : (memWrite s a b).linkRate = s.linkRate := rfl
@[simp] theorem memWrite_fns (a : Nat) (b : Bytes) : (memWrite s a b).fns = s.fns := rfl
@[simp] theorem memWrite_fnRegs (a : Nat) (b : Bytes) : (memWrite s a b).fnRegs = s.fnRegs := rfl
@[simp] theorem memWrite_numVfs (a : Nat) (b : Bytes) : (memWrite s a b).numVfs = s.numVfs := rfl
@[simp] theorem memWrite_ctxs (a : Nat) (b : Bytes) : (memWrite s a b).ctxs = s.ctxs := rfl
@[simp] theorem memWrite_nextCtxId (a : Nat) (b : Bytes) : (memWrite s a b).nextCtxId = s.nextCtxId := rfl
@[simp] theorem memWrite_freeIds (a : Nat) (b : Bytes) : (memWrite s a b).freeIds = s.freeIds := rfl
@[simp] theorem memWrite_swapping (a : Nat) (b : Bytes) : (memWrite s a b).swapping = s.swapping := rfl
@[simp] theorem memWrite_ucRecs (a : Nat) (b : Bytes) : (memWrite s a b).ucRecs = s.ucRecs := rfl
@[simp] theorem memWrite_dmwr (a : Nat) (b : Bytes) : (memWrite s a b).dmwr = s.dmwr := rfl
@[simp] theorem memWrite_advWaits (a : Nat) (b : Bytes) : (memWrite s a b).advWaits = s.advWaits := rfl
@[simp] theorem memWrite_advFar (a : Nat) (b : Bytes) : (memWrite s a b).advFar = s.advFar := rfl
@[simp] theorem memWrite_bhFwd (a : Nat) (b : Bytes) : (memWrite s a b).bhFwd = s.bhFwd := rfl
@[simp] theorem memWrite_sprints (a : Nat) (b : Bytes) : (memWrite s a b).sprints = s.sprints := rfl
@[simp] theorem memWrite_nextId (a : Nat) (b : Bytes) : (memWrite s a b).nextId = s.nextId := rfl
@[simp] theorem memWrite_errSeq (a : Nat) (b : Bytes) : (memWrite s a b).errSeq = s.errSeq := rfl
@[simp] theorem memWrite_errLog (a : Nat) (b : Bytes) : (memWrite s a b).errLog = s.errLog := rfl
@[simp] theorem memWrite_sessions (a : Nat) (b : Bytes) : (memWrite s a b).sessions = s.sessions := rfl
@[simp] theorem memWrite_endpoints (a : Nat) (b : Bytes) : (memWrite s a b).endpoints = s.endpoints := rfl
@[simp] theorem memWrite_nextSession (a : Nat) (b : Bytes) : (memWrite s a b).nextSession = s.nextSession := rfl
@[simp] theorem memWrite_freeSessions (a : Nat) (b : Bytes) : (memWrite s a b).freeSessions = s.freeSessions := rfl
@[simp] theorem memWrite_mbxs (a : Nat) (b : Bytes) : (memWrite s a b).mbxs = s.mbxs := rfl
@[simp] theorem memWrite_eids (a : Nat) (b : Bytes) : (memWrite s a b).eids = s.eids := rfl
@[simp] theorem memWrite_mctpIn (a : Nat) (b : Bytes) : (memWrite s a b).mctpIn = s.mctpIn := rfl
@[simp] theorem memWrite_papQueue (a : Nat) (b : Bytes) : (memWrite s a b).papQueue = s.papQueue := rfl
@[simp] theorem memWrite_mctpOffer (a : Nat) (b : Bytes) : (memWrite s a b).mctpOffer = s.mctpOffer := rfl
@[simp] theorem memWrite_mctpCount (a : Nat) (b : Bytes) : (memWrite s a b).mctpCount = s.mctpCount := rfl
@[simp] theorem memWrite_tbMctp (a : Nat) (b : Bytes) : (memWrite s a b).tbMctp = s.tbMctp := rfl
@[simp] theorem memWrite_wake (a : Nat) (b : Bytes) : (memWrite s a b).wake = s.wake := rfl
@[simp] theorem memWrite_ghPorts (a : Nat) (b : Bytes) : (memWrite s a b).ghPorts = s.ghPorts := rfl
@[simp] theorem memWrite_ghTxn (a : Nat) (b : Bytes) : (memWrite s a b).ghTxn = s.ghTxn := rfl
@[simp] theorem memWrite_ghTag (a : Nat) (b : Bytes) : (memWrite s a b).ghTag = s.ghTag := rfl
@[simp] theorem memWrite_ghWaiting (a : Nat) (b : Bytes) : (memWrite s a b).ghWaiting = s.ghWaiting := rfl
@[simp] theorem memWrite_ghMsgs (a : Nat) (b : Bytes) : (memWrite s a b).ghMsgs = s.ghMsgs := rfl
@[simp] theorem memWrite_ghKept (a : Nat) (b : Bytes) : (memWrite s a b).ghKept = s.ghKept := rfl
@[simp] theorem memWrite_ghLate (a : Nat) (b : Bytes) : (memWrite s a b).ghLate = s.ghLate := rfl
@[simp] theorem memWrite_shardEpoch (a : Nat) (b : Bytes) : (memWrite s a b).shardEpoch = s.shardEpoch := rfl
@[simp] theorem memWrite_nextLease (a : Nat) (b : Bytes) : (memWrite s a b).nextLease = s.nextLease := rfl
@[simp] theorem memWrite_borrowed (a : Nat) (b : Bytes) : (memWrite s a b).borrowed = s.borrowed := rfl
@[simp] theorem memWrite_lent (a : Nat) (b : Bytes) : (memWrite s a b).lent = s.lent := rfl
@[simp] theorem memWrite_lendLog (a : Nat) (b : Bytes) : (memWrite s a b).lendLog = s.lendLog := rfl
@[simp] theorem memWrite_lentEnding (a : Nat) (b : Bytes) : (memWrite s a b).lentEnding = s.lentEnding := rfl
@[simp] theorem memWrite_gchans (a : Nat) (b : Bytes) : (memWrite s a b).gchans = s.gchans := rfl
@[simp] theorem memWrite_bhHomes (a : Nat) (b : Bytes) : (memWrite s a b).bhHomes = s.bhHomes := rfl
@[simp] theorem memWrite_bhHeld (a : Nat) (b : Bytes) : (memWrite s a b).bhHeld = s.bhHeld := rfl
@[simp] theorem memWrite_bhApertures (a : Nat) (b : Bytes) : (memWrite s a b).bhApertures = s.bhApertures := rfl
@[simp] theorem memWrite_bhChannels (a : Nat) (b : Bytes) : (memWrite s a b).bhChannels = s.bhChannels := rfl
@[simp] theorem memWrite_bhRanges (a : Nat) (b : Bytes) : (memWrite s a b).bhRanges = s.bhRanges := rfl
@[simp] theorem memWrite_power (a : Nat) (b : Bytes) : (memWrite s a b).power = s.power := rfl
@[simp] theorem memWrite_fw (a : Nat) (b : Bytes) : (memWrite s a b).fw = s.fw := rfl
@[simp] theorem memWrite_freeCtr (a : Nat) (b : Bytes) : (memWrite s a b).freeCtr = s.freeCtr := rfl

/-! ### memZero: it changes mem alone -/

@[simp] theorem memZero_pending (a n : Nat) : (memZero s a n).pending = s.pending := rfl
@[simp] theorem memZero_tb (a n : Nat) : (memZero s a n).tb = s.tb := rfl
@[simp] theorem memZero_sent (a n : Nat) : (memZero s a n).sent = s.sent := rfl
@[simp] theorem memZero_regs (a n : Nat) : (memZero s a n).regs = s.regs := rfl
@[simp] theorem memZero_staged (a n : Nat) : (memZero s a n).staged = s.staged := rfl
@[simp] theorem memZero_octs (a n : Nat) : (memZero s a n).octs = s.octs := rfl
@[simp] theorem memZero_stagedOcts (a n : Nat) : (memZero s a n).stagedOcts = s.stagedOcts := rfl
@[simp] theorem memZero_pins (a n : Nat) : (memZero s a n).pins = s.pins := rfl
@[simp] theorem memZero_start (a n : Nat) : (memZero s a n).start = s.start := rfl
@[simp] theorem memZero_retained (a n : Nat) : (memZero s a n).retained = s.retained := rfl
@[simp] theorem memZero_flash (a n : Nat) : (memZero s a n).flash = s.flash := rfl
@[simp] theorem memZero_islands (a n : Nat) : (memZero s a n).islands = s.islands := rfl
@[simp] theorem memZero_shells (a n : Nat) : (memZero s a n).shells = s.shells := rfl
@[simp] theorem memZero_seats (a n : Nat) : (memZero s a n).seats = s.seats := rfl
@[simp] theorem memZero_scrubSeats (a n : Nat) : (memZero s a n).scrubSeats = s.scrubSeats := rfl
@[simp] theorem memZero_scrubChans (a n : Nat) : (memZero s a n).scrubChans = s.scrubChans := rfl
@[simp] theorem memZero_retiredSeats (a n : Nat) : (memZero s a n).retiredSeats = s.retiredSeats := rfl
@[simp] theorem memZero_images (a n : Nat) : (memZero s a n).images = s.images := rfl
@[simp] theorem memZero_chans (a n : Nat) : (memZero s a n).chans = s.chans := rfl
@[simp] theorem memZero_cxlPorts (a n : Nat) : (memZero s a n).cxlPorts = s.cxlPorts := rfl
@[simp] theorem memZero_cxlRanges (a n : Nat) : (memZero s a n).cxlRanges = s.cxlRanges := rfl
@[simp] theorem memZero_cxlRun (a n : Nat) : (memZero s a n).cxlRun = s.cxlRun := rfl
@[simp] theorem memZero_cxlScrub (a n : Nat) : (memZero s a n).cxlScrub = s.cxlScrub := rfl
@[simp] theorem memZero_hostGen (a n : Nat) : (memZero s a n).hostGen = s.hostGen := rfl
@[simp] theorem memZero_hostWidth (a n : Nat) : (memZero s a n).hostWidth = s.hostWidth := rfl
@[simp] theorem memZero_ringDerate (a n : Nat) : (memZero s a n).ringDerate = s.ringDerate := rfl
@[simp] theorem memZero_tbCapacity (a n : Nat) : (memZero s a n).tbCapacity = s.tbCapacity := rfl
@[simp] theorem memZero_scaleHold (a n : Nat) : (memZero s a n).scaleHold = s.scaleHold := rfl
@[simp] theorem memZero_pace (a n : Nat) : (memZero s a n).pace = s.pace := rfl
@[simp] theorem memZero_slices (a n : Nat) : (memZero s a n).slices = s.slices := rfl
@[simp] theorem memZero_sliceBad (a n : Nat) : (memZero s a n).sliceBad = s.sliceBad := rfl
@[simp] theorem memZero_seqSlots (a n : Nat) : (memZero s a n).seqSlots = s.seqSlots := rfl
@[simp] theorem memZero_atc (a n : Nat) : (memZero s a n).atc = s.atc := rfl
@[simp] theorem memZero_rangeCaches (a n : Nat) : (memZero s a n).rangeCaches = s.rangeCaches := rfl
@[simp] theorem memZero_red (a n : Nat) : (memZero s a n).red = s.red := rfl
@[simp] theorem memZero_redAcks (a n : Nat) : (memZero s a n).redAcks = s.redAcks := rfl
@[simp] theorem memZero_upstream (a n : Nat) : (memZero s a n).upstream = s.upstream := rfl
@[simp] theorem memZero_refused (a n : Nat) : (memZero s a n).refused = s.refused := rfl
@[simp] theorem memZero_late (a n : Nat) : (memZero s a n).late = s.late := rfl
@[simp] theorem memZero_tbHold (a n : Nat) : (memZero s a n).tbHold = s.tbHold := rfl
@[simp] theorem memZero_linkRate (a n : Nat) : (memZero s a n).linkRate = s.linkRate := rfl
@[simp] theorem memZero_fns (a n : Nat) : (memZero s a n).fns = s.fns := rfl
@[simp] theorem memZero_fnRegs (a n : Nat) : (memZero s a n).fnRegs = s.fnRegs := rfl
@[simp] theorem memZero_numVfs (a n : Nat) : (memZero s a n).numVfs = s.numVfs := rfl
@[simp] theorem memZero_ctxs (a n : Nat) : (memZero s a n).ctxs = s.ctxs := rfl
@[simp] theorem memZero_nextCtxId (a n : Nat) : (memZero s a n).nextCtxId = s.nextCtxId := rfl
@[simp] theorem memZero_freeIds (a n : Nat) : (memZero s a n).freeIds = s.freeIds := rfl
@[simp] theorem memZero_swapping (a n : Nat) : (memZero s a n).swapping = s.swapping := rfl
@[simp] theorem memZero_ucRecs (a n : Nat) : (memZero s a n).ucRecs = s.ucRecs := rfl
@[simp] theorem memZero_dmwr (a n : Nat) : (memZero s a n).dmwr = s.dmwr := rfl
@[simp] theorem memZero_advWaits (a n : Nat) : (memZero s a n).advWaits = s.advWaits := rfl
@[simp] theorem memZero_advFar (a n : Nat) : (memZero s a n).advFar = s.advFar := rfl
@[simp] theorem memZero_bhFwd (a n : Nat) : (memZero s a n).bhFwd = s.bhFwd := rfl
@[simp] theorem memZero_sprints (a n : Nat) : (memZero s a n).sprints = s.sprints := rfl
@[simp] theorem memZero_nextId (a n : Nat) : (memZero s a n).nextId = s.nextId := rfl
@[simp] theorem memZero_errSeq (a n : Nat) : (memZero s a n).errSeq = s.errSeq := rfl
@[simp] theorem memZero_errLog (a n : Nat) : (memZero s a n).errLog = s.errLog := rfl
@[simp] theorem memZero_sessions (a n : Nat) : (memZero s a n).sessions = s.sessions := rfl
@[simp] theorem memZero_endpoints (a n : Nat) : (memZero s a n).endpoints = s.endpoints := rfl
@[simp] theorem memZero_nextSession (a n : Nat) : (memZero s a n).nextSession = s.nextSession := rfl
@[simp] theorem memZero_freeSessions (a n : Nat) : (memZero s a n).freeSessions = s.freeSessions := rfl
@[simp] theorem memZero_mbxs (a n : Nat) : (memZero s a n).mbxs = s.mbxs := rfl
@[simp] theorem memZero_eids (a n : Nat) : (memZero s a n).eids = s.eids := rfl
@[simp] theorem memZero_mctpIn (a n : Nat) : (memZero s a n).mctpIn = s.mctpIn := rfl
@[simp] theorem memZero_papQueue (a n : Nat) : (memZero s a n).papQueue = s.papQueue := rfl
@[simp] theorem memZero_mctpOffer (a n : Nat) : (memZero s a n).mctpOffer = s.mctpOffer := rfl
@[simp] theorem memZero_mctpCount (a n : Nat) : (memZero s a n).mctpCount = s.mctpCount := rfl
@[simp] theorem memZero_tbMctp (a n : Nat) : (memZero s a n).tbMctp = s.tbMctp := rfl
@[simp] theorem memZero_wake (a n : Nat) : (memZero s a n).wake = s.wake := rfl
@[simp] theorem memZero_ghPorts (a n : Nat) : (memZero s a n).ghPorts = s.ghPorts := rfl
@[simp] theorem memZero_ghTxn (a n : Nat) : (memZero s a n).ghTxn = s.ghTxn := rfl
@[simp] theorem memZero_ghTag (a n : Nat) : (memZero s a n).ghTag = s.ghTag := rfl
@[simp] theorem memZero_ghWaiting (a n : Nat) : (memZero s a n).ghWaiting = s.ghWaiting := rfl
@[simp] theorem memZero_ghMsgs (a n : Nat) : (memZero s a n).ghMsgs = s.ghMsgs := rfl
@[simp] theorem memZero_ghKept (a n : Nat) : (memZero s a n).ghKept = s.ghKept := rfl
@[simp] theorem memZero_ghLate (a n : Nat) : (memZero s a n).ghLate = s.ghLate := rfl
@[simp] theorem memZero_shardEpoch (a n : Nat) : (memZero s a n).shardEpoch = s.shardEpoch := rfl
@[simp] theorem memZero_nextLease (a n : Nat) : (memZero s a n).nextLease = s.nextLease := rfl
@[simp] theorem memZero_borrowed (a n : Nat) : (memZero s a n).borrowed = s.borrowed := rfl
@[simp] theorem memZero_lent (a n : Nat) : (memZero s a n).lent = s.lent := rfl
@[simp] theorem memZero_lendLog (a n : Nat) : (memZero s a n).lendLog = s.lendLog := rfl
@[simp] theorem memZero_lentEnding (a n : Nat) : (memZero s a n).lentEnding = s.lentEnding := rfl
@[simp] theorem memZero_gchans (a n : Nat) : (memZero s a n).gchans = s.gchans := rfl
@[simp] theorem memZero_bhHomes (a n : Nat) : (memZero s a n).bhHomes = s.bhHomes := rfl
@[simp] theorem memZero_bhHeld (a n : Nat) : (memZero s a n).bhHeld = s.bhHeld := rfl
@[simp] theorem memZero_bhApertures (a n : Nat) : (memZero s a n).bhApertures = s.bhApertures := rfl
@[simp] theorem memZero_bhChannels (a n : Nat) : (memZero s a n).bhChannels = s.bhChannels := rfl
@[simp] theorem memZero_bhRanges (a n : Nat) : (memZero s a n).bhRanges = s.bhRanges := rfl
@[simp] theorem memZero_power (a n : Nat) : (memZero s a n).power = s.power := rfl
@[simp] theorem memZero_fw (a n : Nat) : (memZero s a n).fw = s.fw := rfl
@[simp] theorem memZero_freeCtr (a n : Nat) : (memZero s a n).freeCtr = s.freeCtr := rfl

/-! ### memLoad: it changes mem alone -/

@[simp] theorem memLoad_pending (a : Nat) (l : List (Nat × Byte)) : (memLoad s a l).pending = s.pending := rfl
@[simp] theorem memLoad_tb (a : Nat) (l : List (Nat × Byte)) : (memLoad s a l).tb = s.tb := rfl
@[simp] theorem memLoad_sent (a : Nat) (l : List (Nat × Byte)) : (memLoad s a l).sent = s.sent := rfl
@[simp] theorem memLoad_regs (a : Nat) (l : List (Nat × Byte)) : (memLoad s a l).regs = s.regs := rfl
@[simp] theorem memLoad_staged (a : Nat) (l : List (Nat × Byte)) : (memLoad s a l).staged = s.staged := rfl
@[simp] theorem memLoad_octs (a : Nat) (l : List (Nat × Byte)) : (memLoad s a l).octs = s.octs := rfl
@[simp] theorem memLoad_stagedOcts (a : Nat) (l : List (Nat × Byte)) : (memLoad s a l).stagedOcts = s.stagedOcts := rfl
@[simp] theorem memLoad_pins (a : Nat) (l : List (Nat × Byte)) : (memLoad s a l).pins = s.pins := rfl
@[simp] theorem memLoad_start (a : Nat) (l : List (Nat × Byte)) : (memLoad s a l).start = s.start := rfl
@[simp] theorem memLoad_retained (a : Nat) (l : List (Nat × Byte)) : (memLoad s a l).retained = s.retained := rfl
@[simp] theorem memLoad_flash (a : Nat) (l : List (Nat × Byte)) : (memLoad s a l).flash = s.flash := rfl
@[simp] theorem memLoad_islands (a : Nat) (l : List (Nat × Byte)) : (memLoad s a l).islands = s.islands := rfl
@[simp] theorem memLoad_shells (a : Nat) (l : List (Nat × Byte)) : (memLoad s a l).shells = s.shells := rfl
@[simp] theorem memLoad_seats (a : Nat) (l : List (Nat × Byte)) : (memLoad s a l).seats = s.seats := rfl
@[simp] theorem memLoad_scrubSeats (a : Nat) (l : List (Nat × Byte)) : (memLoad s a l).scrubSeats = s.scrubSeats := rfl
@[simp] theorem memLoad_scrubChans (a : Nat) (l : List (Nat × Byte)) : (memLoad s a l).scrubChans = s.scrubChans := rfl
@[simp] theorem memLoad_retiredSeats (a : Nat) (l : List (Nat × Byte)) : (memLoad s a l).retiredSeats = s.retiredSeats := rfl
@[simp] theorem memLoad_images (a : Nat) (l : List (Nat × Byte)) : (memLoad s a l).images = s.images := rfl
@[simp] theorem memLoad_chans (a : Nat) (l : List (Nat × Byte)) : (memLoad s a l).chans = s.chans := rfl
@[simp] theorem memLoad_cxlPorts (a : Nat) (l : List (Nat × Byte)) : (memLoad s a l).cxlPorts = s.cxlPorts := rfl
@[simp] theorem memLoad_cxlRanges (a : Nat) (l : List (Nat × Byte)) : (memLoad s a l).cxlRanges = s.cxlRanges := rfl
@[simp] theorem memLoad_cxlRun (a : Nat) (l : List (Nat × Byte)) : (memLoad s a l).cxlRun = s.cxlRun := rfl
@[simp] theorem memLoad_cxlScrub (a : Nat) (l : List (Nat × Byte)) : (memLoad s a l).cxlScrub = s.cxlScrub := rfl
@[simp] theorem memLoad_hostGen (a : Nat) (l : List (Nat × Byte)) : (memLoad s a l).hostGen = s.hostGen := rfl
@[simp] theorem memLoad_hostWidth (a : Nat) (l : List (Nat × Byte)) : (memLoad s a l).hostWidth = s.hostWidth := rfl
@[simp] theorem memLoad_ringDerate (a : Nat) (l : List (Nat × Byte)) : (memLoad s a l).ringDerate = s.ringDerate := rfl
@[simp] theorem memLoad_tbCapacity (a : Nat) (l : List (Nat × Byte)) : (memLoad s a l).tbCapacity = s.tbCapacity := rfl
@[simp] theorem memLoad_scaleHold (a : Nat) (l : List (Nat × Byte)) : (memLoad s a l).scaleHold = s.scaleHold := rfl
@[simp] theorem memLoad_pace (a : Nat) (l : List (Nat × Byte)) : (memLoad s a l).pace = s.pace := rfl
@[simp] theorem memLoad_slices (a : Nat) (l : List (Nat × Byte)) : (memLoad s a l).slices = s.slices := rfl
@[simp] theorem memLoad_sliceBad (a : Nat) (l : List (Nat × Byte)) : (memLoad s a l).sliceBad = s.sliceBad := rfl
@[simp] theorem memLoad_seqSlots (a : Nat) (l : List (Nat × Byte)) : (memLoad s a l).seqSlots = s.seqSlots := rfl
@[simp] theorem memLoad_atc (a : Nat) (l : List (Nat × Byte)) : (memLoad s a l).atc = s.atc := rfl
@[simp] theorem memLoad_rangeCaches (a : Nat) (l : List (Nat × Byte)) : (memLoad s a l).rangeCaches = s.rangeCaches := rfl
@[simp] theorem memLoad_red (a : Nat) (l : List (Nat × Byte)) : (memLoad s a l).red = s.red := rfl
@[simp] theorem memLoad_redAcks (a : Nat) (l : List (Nat × Byte)) : (memLoad s a l).redAcks = s.redAcks := rfl
@[simp] theorem memLoad_upstream (a : Nat) (l : List (Nat × Byte)) : (memLoad s a l).upstream = s.upstream := rfl
@[simp] theorem memLoad_refused (a : Nat) (l : List (Nat × Byte)) : (memLoad s a l).refused = s.refused := rfl
@[simp] theorem memLoad_late (a : Nat) (l : List (Nat × Byte)) : (memLoad s a l).late = s.late := rfl
@[simp] theorem memLoad_tbHold (a : Nat) (l : List (Nat × Byte)) : (memLoad s a l).tbHold = s.tbHold := rfl
@[simp] theorem memLoad_linkRate (a : Nat) (l : List (Nat × Byte)) : (memLoad s a l).linkRate = s.linkRate := rfl
@[simp] theorem memLoad_fns (a : Nat) (l : List (Nat × Byte)) : (memLoad s a l).fns = s.fns := rfl
@[simp] theorem memLoad_fnRegs (a : Nat) (l : List (Nat × Byte)) : (memLoad s a l).fnRegs = s.fnRegs := rfl
@[simp] theorem memLoad_numVfs (a : Nat) (l : List (Nat × Byte)) : (memLoad s a l).numVfs = s.numVfs := rfl
@[simp] theorem memLoad_ctxs (a : Nat) (l : List (Nat × Byte)) : (memLoad s a l).ctxs = s.ctxs := rfl
@[simp] theorem memLoad_nextCtxId (a : Nat) (l : List (Nat × Byte)) : (memLoad s a l).nextCtxId = s.nextCtxId := rfl
@[simp] theorem memLoad_freeIds (a : Nat) (l : List (Nat × Byte)) : (memLoad s a l).freeIds = s.freeIds := rfl
@[simp] theorem memLoad_swapping (a : Nat) (l : List (Nat × Byte)) : (memLoad s a l).swapping = s.swapping := rfl
@[simp] theorem memLoad_ucRecs (a : Nat) (l : List (Nat × Byte)) : (memLoad s a l).ucRecs = s.ucRecs := rfl
@[simp] theorem memLoad_dmwr (a : Nat) (l : List (Nat × Byte)) : (memLoad s a l).dmwr = s.dmwr := rfl
@[simp] theorem memLoad_advWaits (a : Nat) (l : List (Nat × Byte)) : (memLoad s a l).advWaits = s.advWaits := rfl
@[simp] theorem memLoad_advFar (a : Nat) (l : List (Nat × Byte)) : (memLoad s a l).advFar = s.advFar := rfl
@[simp] theorem memLoad_bhFwd (a : Nat) (l : List (Nat × Byte)) : (memLoad s a l).bhFwd = s.bhFwd := rfl
@[simp] theorem memLoad_sprints (a : Nat) (l : List (Nat × Byte)) : (memLoad s a l).sprints = s.sprints := rfl
@[simp] theorem memLoad_nextId (a : Nat) (l : List (Nat × Byte)) : (memLoad s a l).nextId = s.nextId := rfl
@[simp] theorem memLoad_errSeq (a : Nat) (l : List (Nat × Byte)) : (memLoad s a l).errSeq = s.errSeq := rfl
@[simp] theorem memLoad_errLog (a : Nat) (l : List (Nat × Byte)) : (memLoad s a l).errLog = s.errLog := rfl
@[simp] theorem memLoad_sessions (a : Nat) (l : List (Nat × Byte)) : (memLoad s a l).sessions = s.sessions := rfl
@[simp] theorem memLoad_endpoints (a : Nat) (l : List (Nat × Byte)) : (memLoad s a l).endpoints = s.endpoints := rfl
@[simp] theorem memLoad_nextSession (a : Nat) (l : List (Nat × Byte)) : (memLoad s a l).nextSession = s.nextSession := rfl
@[simp] theorem memLoad_freeSessions (a : Nat) (l : List (Nat × Byte)) : (memLoad s a l).freeSessions = s.freeSessions := rfl
@[simp] theorem memLoad_mbxs (a : Nat) (l : List (Nat × Byte)) : (memLoad s a l).mbxs = s.mbxs := rfl
@[simp] theorem memLoad_eids (a : Nat) (l : List (Nat × Byte)) : (memLoad s a l).eids = s.eids := rfl
@[simp] theorem memLoad_mctpIn (a : Nat) (l : List (Nat × Byte)) : (memLoad s a l).mctpIn = s.mctpIn := rfl
@[simp] theorem memLoad_papQueue (a : Nat) (l : List (Nat × Byte)) : (memLoad s a l).papQueue = s.papQueue := rfl
@[simp] theorem memLoad_mctpOffer (a : Nat) (l : List (Nat × Byte)) : (memLoad s a l).mctpOffer = s.mctpOffer := rfl
@[simp] theorem memLoad_mctpCount (a : Nat) (l : List (Nat × Byte)) : (memLoad s a l).mctpCount = s.mctpCount := rfl
@[simp] theorem memLoad_tbMctp (a : Nat) (l : List (Nat × Byte)) : (memLoad s a l).tbMctp = s.tbMctp := rfl
@[simp] theorem memLoad_wake (a : Nat) (l : List (Nat × Byte)) : (memLoad s a l).wake = s.wake := rfl
@[simp] theorem memLoad_ghPorts (a : Nat) (l : List (Nat × Byte)) : (memLoad s a l).ghPorts = s.ghPorts := rfl
@[simp] theorem memLoad_ghTxn (a : Nat) (l : List (Nat × Byte)) : (memLoad s a l).ghTxn = s.ghTxn := rfl
@[simp] theorem memLoad_ghTag (a : Nat) (l : List (Nat × Byte)) : (memLoad s a l).ghTag = s.ghTag := rfl
@[simp] theorem memLoad_ghWaiting (a : Nat) (l : List (Nat × Byte)) : (memLoad s a l).ghWaiting = s.ghWaiting := rfl
@[simp] theorem memLoad_ghMsgs (a : Nat) (l : List (Nat × Byte)) : (memLoad s a l).ghMsgs = s.ghMsgs := rfl
@[simp] theorem memLoad_ghKept (a : Nat) (l : List (Nat × Byte)) : (memLoad s a l).ghKept = s.ghKept := rfl
@[simp] theorem memLoad_ghLate (a : Nat) (l : List (Nat × Byte)) : (memLoad s a l).ghLate = s.ghLate := rfl
@[simp] theorem memLoad_shardEpoch (a : Nat) (l : List (Nat × Byte)) : (memLoad s a l).shardEpoch = s.shardEpoch := rfl
@[simp] theorem memLoad_nextLease (a : Nat) (l : List (Nat × Byte)) : (memLoad s a l).nextLease = s.nextLease := rfl
@[simp] theorem memLoad_borrowed (a : Nat) (l : List (Nat × Byte)) : (memLoad s a l).borrowed = s.borrowed := rfl
@[simp] theorem memLoad_lent (a : Nat) (l : List (Nat × Byte)) : (memLoad s a l).lent = s.lent := rfl
@[simp] theorem memLoad_lendLog (a : Nat) (l : List (Nat × Byte)) : (memLoad s a l).lendLog = s.lendLog := rfl
@[simp] theorem memLoad_lentEnding (a : Nat) (l : List (Nat × Byte)) : (memLoad s a l).lentEnding = s.lentEnding := rfl
@[simp] theorem memLoad_gchans (a : Nat) (l : List (Nat × Byte)) : (memLoad s a l).gchans = s.gchans := rfl
@[simp] theorem memLoad_bhHomes (a : Nat) (l : List (Nat × Byte)) : (memLoad s a l).bhHomes = s.bhHomes := rfl
@[simp] theorem memLoad_bhHeld (a : Nat) (l : List (Nat × Byte)) : (memLoad s a l).bhHeld = s.bhHeld := rfl
@[simp] theorem memLoad_bhApertures (a : Nat) (l : List (Nat × Byte)) : (memLoad s a l).bhApertures = s.bhApertures := rfl
@[simp] theorem memLoad_bhChannels (a : Nat) (l : List (Nat × Byte)) : (memLoad s a l).bhChannels = s.bhChannels := rfl
@[simp] theorem memLoad_bhRanges (a : Nat) (l : List (Nat × Byte)) : (memLoad s a l).bhRanges = s.bhRanges := rfl
@[simp] theorem memLoad_power (a : Nat) (l : List (Nat × Byte)) : (memLoad s a l).power = s.power := rfl
@[simp] theorem memLoad_fw (a : Nat) (l : List (Nat × Byte)) : (memLoad s a l).fw = s.fw := rfl
@[simp] theorem memLoad_freeCtr (a : Nat) (l : List (Nat × Byte)) : (memLoad s a l).freeCtr = s.freeCtr := rfl

/-! ### memCopy: it changes mem alone -/

@[simp] theorem memCopy_pending (a b n : Nat) : (memCopy s a b n).pending = s.pending := rfl
@[simp] theorem memCopy_tb (a b n : Nat) : (memCopy s a b n).tb = s.tb := rfl
@[simp] theorem memCopy_sent (a b n : Nat) : (memCopy s a b n).sent = s.sent := rfl
@[simp] theorem memCopy_regs (a b n : Nat) : (memCopy s a b n).regs = s.regs := rfl
@[simp] theorem memCopy_staged (a b n : Nat) : (memCopy s a b n).staged = s.staged := rfl
@[simp] theorem memCopy_octs (a b n : Nat) : (memCopy s a b n).octs = s.octs := rfl
@[simp] theorem memCopy_stagedOcts (a b n : Nat) : (memCopy s a b n).stagedOcts = s.stagedOcts := rfl
@[simp] theorem memCopy_pins (a b n : Nat) : (memCopy s a b n).pins = s.pins := rfl
@[simp] theorem memCopy_start (a b n : Nat) : (memCopy s a b n).start = s.start := rfl
@[simp] theorem memCopy_retained (a b n : Nat) : (memCopy s a b n).retained = s.retained := rfl
@[simp] theorem memCopy_flash (a b n : Nat) : (memCopy s a b n).flash = s.flash := rfl
@[simp] theorem memCopy_islands (a b n : Nat) : (memCopy s a b n).islands = s.islands := rfl
@[simp] theorem memCopy_shells (a b n : Nat) : (memCopy s a b n).shells = s.shells := rfl
@[simp] theorem memCopy_seats (a b n : Nat) : (memCopy s a b n).seats = s.seats := rfl
@[simp] theorem memCopy_scrubSeats (a b n : Nat) : (memCopy s a b n).scrubSeats = s.scrubSeats := rfl
@[simp] theorem memCopy_scrubChans (a b n : Nat) : (memCopy s a b n).scrubChans = s.scrubChans := rfl
@[simp] theorem memCopy_retiredSeats (a b n : Nat) : (memCopy s a b n).retiredSeats = s.retiredSeats := rfl
@[simp] theorem memCopy_images (a b n : Nat) : (memCopy s a b n).images = s.images := rfl
@[simp] theorem memCopy_chans (a b n : Nat) : (memCopy s a b n).chans = s.chans := rfl
@[simp] theorem memCopy_cxlPorts (a b n : Nat) : (memCopy s a b n).cxlPorts = s.cxlPorts := rfl
@[simp] theorem memCopy_cxlRanges (a b n : Nat) : (memCopy s a b n).cxlRanges = s.cxlRanges := rfl
@[simp] theorem memCopy_cxlRun (a b n : Nat) : (memCopy s a b n).cxlRun = s.cxlRun := rfl
@[simp] theorem memCopy_cxlScrub (a b n : Nat) : (memCopy s a b n).cxlScrub = s.cxlScrub := rfl
@[simp] theorem memCopy_hostGen (a b n : Nat) : (memCopy s a b n).hostGen = s.hostGen := rfl
@[simp] theorem memCopy_hostWidth (a b n : Nat) : (memCopy s a b n).hostWidth = s.hostWidth := rfl
@[simp] theorem memCopy_ringDerate (a b n : Nat) : (memCopy s a b n).ringDerate = s.ringDerate := rfl
@[simp] theorem memCopy_tbCapacity (a b n : Nat) : (memCopy s a b n).tbCapacity = s.tbCapacity := rfl
@[simp] theorem memCopy_scaleHold (a b n : Nat) : (memCopy s a b n).scaleHold = s.scaleHold := rfl
@[simp] theorem memCopy_pace (a b n : Nat) : (memCopy s a b n).pace = s.pace := rfl
@[simp] theorem memCopy_slices (a b n : Nat) : (memCopy s a b n).slices = s.slices := rfl
@[simp] theorem memCopy_sliceBad (a b n : Nat) : (memCopy s a b n).sliceBad = s.sliceBad := rfl
@[simp] theorem memCopy_seqSlots (a b n : Nat) : (memCopy s a b n).seqSlots = s.seqSlots := rfl
@[simp] theorem memCopy_atc (a b n : Nat) : (memCopy s a b n).atc = s.atc := rfl
@[simp] theorem memCopy_rangeCaches (a b n : Nat) : (memCopy s a b n).rangeCaches = s.rangeCaches := rfl
@[simp] theorem memCopy_red (a b n : Nat) : (memCopy s a b n).red = s.red := rfl
@[simp] theorem memCopy_redAcks (a b n : Nat) : (memCopy s a b n).redAcks = s.redAcks := rfl
@[simp] theorem memCopy_upstream (a b n : Nat) : (memCopy s a b n).upstream = s.upstream := rfl
@[simp] theorem memCopy_refused (a b n : Nat) : (memCopy s a b n).refused = s.refused := rfl
@[simp] theorem memCopy_late (a b n : Nat) : (memCopy s a b n).late = s.late := rfl
@[simp] theorem memCopy_tbHold (a b n : Nat) : (memCopy s a b n).tbHold = s.tbHold := rfl
@[simp] theorem memCopy_linkRate (a b n : Nat) : (memCopy s a b n).linkRate = s.linkRate := rfl
@[simp] theorem memCopy_fns (a b n : Nat) : (memCopy s a b n).fns = s.fns := rfl
@[simp] theorem memCopy_fnRegs (a b n : Nat) : (memCopy s a b n).fnRegs = s.fnRegs := rfl
@[simp] theorem memCopy_numVfs (a b n : Nat) : (memCopy s a b n).numVfs = s.numVfs := rfl
@[simp] theorem memCopy_ctxs (a b n : Nat) : (memCopy s a b n).ctxs = s.ctxs := rfl
@[simp] theorem memCopy_nextCtxId (a b n : Nat) : (memCopy s a b n).nextCtxId = s.nextCtxId := rfl
@[simp] theorem memCopy_freeIds (a b n : Nat) : (memCopy s a b n).freeIds = s.freeIds := rfl
@[simp] theorem memCopy_swapping (a b n : Nat) : (memCopy s a b n).swapping = s.swapping := rfl
@[simp] theorem memCopy_ucRecs (a b n : Nat) : (memCopy s a b n).ucRecs = s.ucRecs := rfl
@[simp] theorem memCopy_dmwr (a b n : Nat) : (memCopy s a b n).dmwr = s.dmwr := rfl
@[simp] theorem memCopy_advWaits (a b n : Nat) : (memCopy s a b n).advWaits = s.advWaits := rfl
@[simp] theorem memCopy_advFar (a b n : Nat) : (memCopy s a b n).advFar = s.advFar := rfl
@[simp] theorem memCopy_bhFwd (a b n : Nat) : (memCopy s a b n).bhFwd = s.bhFwd := rfl
@[simp] theorem memCopy_sprints (a b n : Nat) : (memCopy s a b n).sprints = s.sprints := rfl
@[simp] theorem memCopy_nextId (a b n : Nat) : (memCopy s a b n).nextId = s.nextId := rfl
@[simp] theorem memCopy_errSeq (a b n : Nat) : (memCopy s a b n).errSeq = s.errSeq := rfl
@[simp] theorem memCopy_errLog (a b n : Nat) : (memCopy s a b n).errLog = s.errLog := rfl
@[simp] theorem memCopy_sessions (a b n : Nat) : (memCopy s a b n).sessions = s.sessions := rfl
@[simp] theorem memCopy_endpoints (a b n : Nat) : (memCopy s a b n).endpoints = s.endpoints := rfl
@[simp] theorem memCopy_nextSession (a b n : Nat) : (memCopy s a b n).nextSession = s.nextSession := rfl
@[simp] theorem memCopy_freeSessions (a b n : Nat) : (memCopy s a b n).freeSessions = s.freeSessions := rfl
@[simp] theorem memCopy_mbxs (a b n : Nat) : (memCopy s a b n).mbxs = s.mbxs := rfl
@[simp] theorem memCopy_eids (a b n : Nat) : (memCopy s a b n).eids = s.eids := rfl
@[simp] theorem memCopy_mctpIn (a b n : Nat) : (memCopy s a b n).mctpIn = s.mctpIn := rfl
@[simp] theorem memCopy_papQueue (a b n : Nat) : (memCopy s a b n).papQueue = s.papQueue := rfl
@[simp] theorem memCopy_mctpOffer (a b n : Nat) : (memCopy s a b n).mctpOffer = s.mctpOffer := rfl
@[simp] theorem memCopy_mctpCount (a b n : Nat) : (memCopy s a b n).mctpCount = s.mctpCount := rfl
@[simp] theorem memCopy_tbMctp (a b n : Nat) : (memCopy s a b n).tbMctp = s.tbMctp := rfl
@[simp] theorem memCopy_wake (a b n : Nat) : (memCopy s a b n).wake = s.wake := rfl
@[simp] theorem memCopy_ghPorts (a b n : Nat) : (memCopy s a b n).ghPorts = s.ghPorts := rfl
@[simp] theorem memCopy_ghTxn (a b n : Nat) : (memCopy s a b n).ghTxn = s.ghTxn := rfl
@[simp] theorem memCopy_ghTag (a b n : Nat) : (memCopy s a b n).ghTag = s.ghTag := rfl
@[simp] theorem memCopy_ghWaiting (a b n : Nat) : (memCopy s a b n).ghWaiting = s.ghWaiting := rfl
@[simp] theorem memCopy_ghMsgs (a b n : Nat) : (memCopy s a b n).ghMsgs = s.ghMsgs := rfl
@[simp] theorem memCopy_ghKept (a b n : Nat) : (memCopy s a b n).ghKept = s.ghKept := rfl
@[simp] theorem memCopy_ghLate (a b n : Nat) : (memCopy s a b n).ghLate = s.ghLate := rfl
@[simp] theorem memCopy_shardEpoch (a b n : Nat) : (memCopy s a b n).shardEpoch = s.shardEpoch := rfl
@[simp] theorem memCopy_nextLease (a b n : Nat) : (memCopy s a b n).nextLease = s.nextLease := rfl
@[simp] theorem memCopy_borrowed (a b n : Nat) : (memCopy s a b n).borrowed = s.borrowed := rfl
@[simp] theorem memCopy_lent (a b n : Nat) : (memCopy s a b n).lent = s.lent := rfl
@[simp] theorem memCopy_lendLog (a b n : Nat) : (memCopy s a b n).lendLog = s.lendLog := rfl
@[simp] theorem memCopy_lentEnding (a b n : Nat) : (memCopy s a b n).lentEnding = s.lentEnding := rfl
@[simp] theorem memCopy_gchans (a b n : Nat) : (memCopy s a b n).gchans = s.gchans := rfl
@[simp] theorem memCopy_bhHomes (a b n : Nat) : (memCopy s a b n).bhHomes = s.bhHomes := rfl
@[simp] theorem memCopy_bhHeld (a b n : Nat) : (memCopy s a b n).bhHeld = s.bhHeld := rfl
@[simp] theorem memCopy_bhApertures (a b n : Nat) : (memCopy s a b n).bhApertures = s.bhApertures := rfl
@[simp] theorem memCopy_bhChannels (a b n : Nat) : (memCopy s a b n).bhChannels = s.bhChannels := rfl
@[simp] theorem memCopy_bhRanges (a b n : Nat) : (memCopy s a b n).bhRanges = s.bhRanges := rfl
@[simp] theorem memCopy_power (a b n : Nat) : (memCopy s a b n).power = s.power := rfl
@[simp] theorem memCopy_fw (a b n : Nat) : (memCopy s a b n).fw = s.fw := rfl
@[simp] theorem memCopy_freeCtr (a b n : Nat) : (memCopy s a b n).freeCtr = s.freeCtr := rfl

/-! ### What is read after a write -/

@[simp] theorem ctxOf_ctxPut_self (k : Nat) (v : Ctx) : ctxOf (ctxPut s k v) k = v := tget_tset_self _ _ _ _
theorem ctxOf_ctxPut (k j : Nat) (v : Ctx) : ctxOf (ctxPut s k v) j = if j = k then v else ctxOf s j := tget_tset _ _ _ _ _
theorem ctxOf_ctxPut_ne (k j : Nat) (v : Ctx) (h : j ≠ k) : ctxOf (ctxPut s k v) j = ctxOf s j := tget_tset_ne _ _ _ _ _ h
@[simp] theorem shellOf_shellPut_self (k : Nat) (v : Shell) : shellOf (shellPut s k v) k = v := tget_tset_self _ _ _ _
theorem shellOf_shellPut (k j : Nat) (v : Shell) : shellOf (shellPut s k v) j = if j = k then v else shellOf s j := tget_tset _ _ _ _ _
theorem shellOf_shellPut_ne (k j : Nat) (v : Shell) (h : j ≠ k) : shellOf (shellPut s k v) j = shellOf s j := tget_tset_ne _ _ _ _ _ h
@[simp] theorem seatOf_seatPut_self (k : Nat) (v : Seat) : seatOf (seatPut s k v) k = v := tget_tset_self _ _ _ _
theorem seatOf_seatPut (k j : Nat) (v : Seat) : seatOf (seatPut s k v) j = if j = k then v else seatOf s j := tget_tset _ _ _ _ _
theorem seatOf_seatPut_ne (k j : Nat) (v : Seat) (h : j ≠ k) : seatOf (seatPut s k v) j = seatOf s j := tget_tset_ne _ _ _ _ _ h
@[simp] theorem chanOf_chanPut_self (k : Nat) (v : Chan) : chanOf (chanPut s k v) k = v := tget_tset_self _ _ _ _
theorem chanOf_chanPut (k j : Nat) (v : Chan) : chanOf (chanPut s k v) j = if j = k then v else chanOf s j := tget_tset _ _ _ _ _
theorem chanOf_chanPut_ne (k j : Nat) (v : Chan) (h : j ≠ k) : chanOf (chanPut s k v) j = chanOf s j := tget_tset_ne _ _ _ _ _ h
@[simp] theorem cxlPortOf_cxlPortPut_self (k : Nat) (v : CxlPort) : cxlPortOf (cxlPortPut s k v) k = v := tget_tset_self _ _ _ _
theorem cxlPortOf_cxlPortPut (k j : Nat) (v : CxlPort) : cxlPortOf (cxlPortPut s k v) j = if j = k then v else cxlPortOf s j := tget_tset _ _ _ _ _
theorem cxlPortOf_cxlPortPut_ne (k j : Nat) (v : CxlPort) (h : j ≠ k) : cxlPortOf (cxlPortPut s k v) j = cxlPortOf s j := tget_tset_ne _ _ _ _ _ h
@[simp] theorem islandOf_islandPut_self (k : Nat) (v : Island) : islandOf (islandPut s k v) k = v := tget_tset_self _ _ _ _
theorem islandOf_islandPut (k j : Nat) (v : Island) : islandOf (islandPut s k v) j = if j = k then v else islandOf s j := tget_tset _ _ _ _ _
theorem islandOf_islandPut_ne (k j : Nat) (v : Island) (h : j ≠ k) : islandOf (islandPut s k v) j = islandOf s j := tget_tset_ne _ _ _ _ _ h
@[simp] theorem fnOf_fnStPut_self (k : Nat) (v : FnSt) : fnOf (fnStPut s k v) k = v := tget_tset_self _ _ _ _
theorem fnOf_fnStPut (k j : Nat) (v : FnSt) : fnOf (fnStPut s k v) j = if j = k then v else fnOf s j := tget_tset _ _ _ _ _
theorem fnOf_fnStPut_ne (k j : Nat) (v : FnSt) (h : j ≠ k) : fnOf (fnStPut s k v) j = fnOf s j := tget_tset_ne _ _ _ _ _ h
@[simp] theorem sprintOf_sprintPut_self (k : Nat) (v : Sprint) : sprintOf (sprintPut s k v) k = v := tget_tset_self _ _ _ _
theorem sprintOf_sprintPut (k j : Nat) (v : Sprint) : sprintOf (sprintPut s k v) j = if j = k then v else sprintOf s j := tget_tset _ _ _ _ _
theorem sprintOf_sprintPut_ne (k j : Nat) (v : Sprint) (h : j ≠ k) : sprintOf (sprintPut s k v) j = sprintOf s j := tget_tset_ne _ _ _ _ _ h
@[simp] theorem wakeOf_wakePut_self (k : Nat) (v : WakeSt) : wakeOf (wakePut s k v) k = v := tget_tset_self _ _ _ _
theorem wakeOf_wakePut (k j : Nat) (v : WakeSt) : wakeOf (wakePut s k v) j = if j = k then v else wakeOf s j := tget_tset _ _ _ _ _
theorem wakeOf_wakePut_ne (k j : Nat) (v : WakeSt) (h : j ≠ k) : wakeOf (wakePut s k v) j = wakeOf s j := tget_tset_ne _ _ _ _ _ h
@[simp] theorem imageOf_imagePut_self (k : Nat) (v : Image) : imageOf (imagePut s k v) k = v := tget_tset_self _ _ _ _
theorem imageOf_imagePut (k j : Nat) (v : Image) : imageOf (imagePut s k v) j = if j = k then v else imageOf s j := tget_tset _ _ _ _ _
theorem imageOf_imagePut_ne (k j : Nat) (v : Image) (h : j ≠ k) : imageOf (imagePut s k v) j = imageOf s j := tget_tset_ne _ _ _ _ _ h
@[simp] theorem portOf_portPut_self (k : Nat) (v : GhPort) : portOf (portPut s k v) k = v := tget_tset_self _ _ _ _
theorem portOf_portPut (k j : Nat) (v : GhPort) : portOf (portPut s k v) j = if j = k then v else portOf s j := tget_tset _ _ _ _ _
theorem portOf_portPut_ne (k j : Nat) (v : GhPort) (h : j ≠ k) : portOf (portPut s k v) j = portOf s j := tget_tset_ne _ _ _ _ _ h
@[simp] theorem gchanOf_gchanPut_self (k : Nat) (v : GhChan) : gchanOf (gchanPut s k v) k = v := tget_tset_self _ _ _ _
theorem gchanOf_gchanPut (k j : Nat) (v : GhChan) : gchanOf (gchanPut s k v) j = if j = k then v else gchanOf s j := tget_tset _ _ _ _ _
theorem gchanOf_gchanPut_ne (k j : Nat) (v : GhChan) (h : j ≠ k) : gchanOf (gchanPut s k v) j = gchanOf s j := tget_tset_ne _ _ _ _ _ h
@[simp] theorem pget_pset_self (k : Nat) (v : Nat) : pget (pset s k v) k = v := tget_tset_self _ _ _ _
theorem pget_pset (k j : Nat) (v : Nat) : pget (pset s k v) j = if j = k then v else pget s j := tget_tset _ _ _ _ _
theorem pget_pset_ne (k j : Nat) (v : Nat) (h : j ≠ k) : pget (pset s k v) j = pget s j := tget_tset_ne _ _ _ _ _ h
@[simp] theorem octGet_octPut_self (k : Nat) (v : Bytes) : octGet (octPut s k v) k = v := tget_tset_self _ _ _ _
theorem octGet_octPut (k j : Nat) (v : Bytes) : octGet (octPut s k v) j = if j = k then v else octGet s j := tget_tset _ _ _ _ _
theorem octGet_octPut_ne (k j : Nat) (v : Bytes) (h : j ≠ k) : octGet (octPut s k v) j = octGet s j := tget_tset_ne _ _ _ _ _ h

@[simp] theorem fnGet_fnPut_self (fn off v : Nat) : fnGet (fnPut s fn off v) fn off = v := tget_tset_self _ _ _ _
theorem fnGet_fnPut_ne (fn off fn' off' v : Nat) (h : fn' * 0x10000 + off' ≠ fn * 0x10000 + off) : fnGet (fnPut s fn off v) fn' off' = fnGet s fn' off' :=
  tget_tset_ne _ _ _ _ _ h
@[simp] theorem emit_sent (x : Sent) : (emit s x).sent = s.sent ++ [x] := rfl
@[simp] theorem pget_pinc_self (k : Nat) : pget (pinc s k) k = satInc32 (pget s k) := tget_tset_self _ _ _ _
theorem pget_pinc_ne (k j : Nat) (h : j ≠ k) : pget (pinc s k) j = pget s j := tget_tset_ne _ _ _ _ _ h

/-! ### A read that an update of another field does not touch -/

@[simp] theorem octGet_of_pset (k v : Nat) (j : Nat) : octGet (pset s k v) j = octGet s j := rfl
@[simp] theorem ctxOf_of_pset (k v : Nat) (j : Nat) : ctxOf (pset s k v) j = ctxOf s j := rfl
@[simp] theorem shellOf_of_pset (k v : Nat) (j : Nat) : shellOf (pset s k v) j = shellOf s j := rfl
@[simp] theorem seatOf_of_pset (k v : Nat) (j : Nat) : seatOf (pset s k v) j = seatOf s j := rfl
@[simp] theorem chanOf_of_pset (k v : Nat) (j : Nat) : chanOf (pset s k v) j = chanOf s j := rfl
@[simp] theorem cxlPortOf_of_pset (k v : Nat) (j : Nat) : cxlPortOf (pset s k v) j = cxlPortOf s j := rfl
@[simp] theorem islandOf_of_pset (k v : Nat) (j : Nat) : islandOf (pset s k v) j = islandOf s j := rfl
@[simp] theorem fnOf_of_pset (k v : Nat) (j : Nat) : fnOf (pset s k v) j = fnOf s j := rfl
@[simp] theorem sprintOf_of_pset (k v : Nat) (j : Nat) : sprintOf (pset s k v) j = sprintOf s j := rfl
@[simp] theorem wakeOf_of_pset (k v : Nat) (j : Nat) : wakeOf (pset s k v) j = wakeOf s j := rfl
@[simp] theorem imageOf_of_pset (k v : Nat) (j : Nat) : imageOf (pset s k v) j = imageOf s j := rfl
@[simp] theorem portOf_of_pset (k v : Nat) (j : Nat) : portOf (pset s k v) j = portOf s j := rfl
@[simp] theorem gchanOf_of_pset (k v : Nat) (j : Nat) : gchanOf (pset s k v) j = gchanOf s j := rfl
@[simp] theorem fnGet_of_pset (k v : Nat) (j j' : Nat) : fnGet (pset s k v) j j' = fnGet s j j' := rfl
@[simp] theorem memGet_of_pset (k v : Nat) (j : Nat) : memGet (pset s k v) j = memGet s j := rfl
@[simp] theorem octGet_of_pinc (k : Nat) (j : Nat) : octGet (pinc s k) j = octGet s j := rfl
@[simp] theorem ctxOf_of_pinc (k : Nat) (j : Nat) : ctxOf (pinc s k) j = ctxOf s j := rfl
@[simp] theorem shellOf_of_pinc (k : Nat) (j : Nat) : shellOf (pinc s k) j = shellOf s j := rfl
@[simp] theorem seatOf_of_pinc (k : Nat) (j : Nat) : seatOf (pinc s k) j = seatOf s j := rfl
@[simp] theorem chanOf_of_pinc (k : Nat) (j : Nat) : chanOf (pinc s k) j = chanOf s j := rfl
@[simp] theorem cxlPortOf_of_pinc (k : Nat) (j : Nat) : cxlPortOf (pinc s k) j = cxlPortOf s j := rfl
@[simp] theorem islandOf_of_pinc (k : Nat) (j : Nat) : islandOf (pinc s k) j = islandOf s j := rfl
@[simp] theorem fnOf_of_pinc (k : Nat) (j : Nat) : fnOf (pinc s k) j = fnOf s j := rfl
@[simp] theorem sprintOf_of_pinc (k : Nat) (j : Nat) : sprintOf (pinc s k) j = sprintOf s j := rfl
@[simp] theorem wakeOf_of_pinc (k : Nat) (j : Nat) : wakeOf (pinc s k) j = wakeOf s j := rfl
@[simp] theorem imageOf_of_pinc (k : Nat) (j : Nat) : imageOf (pinc s k) j = imageOf s j := rfl
@[simp] theorem portOf_of_pinc (k : Nat) (j : Nat) : portOf (pinc s k) j = portOf s j := rfl
@[simp] theorem gchanOf_of_pinc (k : Nat) (j : Nat) : gchanOf (pinc s k) j = gchanOf s j := rfl
@[simp] theorem fnGet_of_pinc (k : Nat) (j j' : Nat) : fnGet (pinc s k) j j' = fnGet s j j' := rfl
@[simp] theorem memGet_of_pinc (k : Nat) (j : Nat) : memGet (pinc s k) j = memGet s j := rfl
@[simp] theorem pget_of_octPut (k : Nat) (v : Bytes) (j : Nat) : pget (octPut s k v) j = pget s j := rfl
@[simp] theorem ctxOf_of_octPut (k : Nat) (v : Bytes) (j : Nat) : ctxOf (octPut s k v) j = ctxOf s j := rfl
@[simp] theorem shellOf_of_octPut (k : Nat) (v : Bytes) (j : Nat) : shellOf (octPut s k v) j = shellOf s j := rfl
@[simp] theorem seatOf_of_octPut (k : Nat) (v : Bytes) (j : Nat) : seatOf (octPut s k v) j = seatOf s j := rfl
@[simp] theorem chanOf_of_octPut (k : Nat) (v : Bytes) (j : Nat) : chanOf (octPut s k v) j = chanOf s j := rfl
@[simp] theorem cxlPortOf_of_octPut (k : Nat) (v : Bytes) (j : Nat) : cxlPortOf (octPut s k v) j = cxlPortOf s j := rfl
@[simp] theorem islandOf_of_octPut (k : Nat) (v : Bytes) (j : Nat) : islandOf (octPut s k v) j = islandOf s j := rfl
@[simp] theorem fnOf_of_octPut (k : Nat) (v : Bytes) (j : Nat) : fnOf (octPut s k v) j = fnOf s j := rfl
@[simp] theorem sprintOf_of_octPut (k : Nat) (v : Bytes) (j : Nat) : sprintOf (octPut s k v) j = sprintOf s j := rfl
@[simp] theorem wakeOf_of_octPut (k : Nat) (v : Bytes) (j : Nat) : wakeOf (octPut s k v) j = wakeOf s j := rfl
@[simp] theorem imageOf_of_octPut (k : Nat) (v : Bytes) (j : Nat) : imageOf (octPut s k v) j = imageOf s j := rfl
@[simp] theorem portOf_of_octPut (k : Nat) (v : Bytes) (j : Nat) : portOf (octPut s k v) j = portOf s j := rfl
@[simp] theorem gchanOf_of_octPut (k : Nat) (v : Bytes) (j : Nat) : gchanOf (octPut s k v) j = gchanOf s j := rfl
@[simp] theorem fnGet_of_octPut (k : Nat) (v : Bytes) (j j' : Nat) : fnGet (octPut s k v) j j' = fnGet s j j' := rfl
@[simp] theorem memGet_of_octPut (k : Nat) (v : Bytes) (j : Nat) : memGet (octPut s k v) j = memGet s j := rfl
@[simp] theorem pget_of_ctxPut (k : Nat) (v : Ctx) (j : Nat) : pget (ctxPut s k v) j = pget s j := rfl
@[simp] theorem octGet_of_ctxPut (k : Nat) (v : Ctx) (j : Nat) : octGet (ctxPut s k v) j = octGet s j := rfl
@[simp] theorem shellOf_of_ctxPut (k : Nat) (v : Ctx) (j : Nat) : shellOf (ctxPut s k v) j = shellOf s j := rfl
@[simp] theorem seatOf_of_ctxPut (k : Nat) (v : Ctx) (j : Nat) : seatOf (ctxPut s k v) j = seatOf s j := rfl
@[simp] theorem chanOf_of_ctxPut (k : Nat) (v : Ctx) (j : Nat) : chanOf (ctxPut s k v) j = chanOf s j := rfl
@[simp] theorem cxlPortOf_of_ctxPut (k : Nat) (v : Ctx) (j : Nat) : cxlPortOf (ctxPut s k v) j = cxlPortOf s j := rfl
@[simp] theorem islandOf_of_ctxPut (k : Nat) (v : Ctx) (j : Nat) : islandOf (ctxPut s k v) j = islandOf s j := rfl
@[simp] theorem fnOf_of_ctxPut (k : Nat) (v : Ctx) (j : Nat) : fnOf (ctxPut s k v) j = fnOf s j := rfl
@[simp] theorem sprintOf_of_ctxPut (k : Nat) (v : Ctx) (j : Nat) : sprintOf (ctxPut s k v) j = sprintOf s j := rfl
@[simp] theorem wakeOf_of_ctxPut (k : Nat) (v : Ctx) (j : Nat) : wakeOf (ctxPut s k v) j = wakeOf s j := rfl
@[simp] theorem imageOf_of_ctxPut (k : Nat) (v : Ctx) (j : Nat) : imageOf (ctxPut s k v) j = imageOf s j := rfl
@[simp] theorem portOf_of_ctxPut (k : Nat) (v : Ctx) (j : Nat) : portOf (ctxPut s k v) j = portOf s j := rfl
@[simp] theorem gchanOf_of_ctxPut (k : Nat) (v : Ctx) (j : Nat) : gchanOf (ctxPut s k v) j = gchanOf s j := rfl
@[simp] theorem fnGet_of_ctxPut (k : Nat) (v : Ctx) (j j' : Nat) : fnGet (ctxPut s k v) j j' = fnGet s j j' := rfl
@[simp] theorem memGet_of_ctxPut (k : Nat) (v : Ctx) (j : Nat) : memGet (ctxPut s k v) j = memGet s j := rfl
@[simp] theorem pget_of_shellPut (k : Nat) (v : Shell) (j : Nat) : pget (shellPut s k v) j = pget s j := rfl
@[simp] theorem octGet_of_shellPut (k : Nat) (v : Shell) (j : Nat) : octGet (shellPut s k v) j = octGet s j := rfl
@[simp] theorem ctxOf_of_shellPut (k : Nat) (v : Shell) (j : Nat) : ctxOf (shellPut s k v) j = ctxOf s j := rfl
@[simp] theorem seatOf_of_shellPut (k : Nat) (v : Shell) (j : Nat) : seatOf (shellPut s k v) j = seatOf s j := rfl
@[simp] theorem chanOf_of_shellPut (k : Nat) (v : Shell) (j : Nat) : chanOf (shellPut s k v) j = chanOf s j := rfl
@[simp] theorem cxlPortOf_of_shellPut (k : Nat) (v : Shell) (j : Nat) : cxlPortOf (shellPut s k v) j = cxlPortOf s j := rfl
@[simp] theorem islandOf_of_shellPut (k : Nat) (v : Shell) (j : Nat) : islandOf (shellPut s k v) j = islandOf s j := rfl
@[simp] theorem fnOf_of_shellPut (k : Nat) (v : Shell) (j : Nat) : fnOf (shellPut s k v) j = fnOf s j := rfl
@[simp] theorem sprintOf_of_shellPut (k : Nat) (v : Shell) (j : Nat) : sprintOf (shellPut s k v) j = sprintOf s j := rfl
@[simp] theorem wakeOf_of_shellPut (k : Nat) (v : Shell) (j : Nat) : wakeOf (shellPut s k v) j = wakeOf s j := rfl
@[simp] theorem imageOf_of_shellPut (k : Nat) (v : Shell) (j : Nat) : imageOf (shellPut s k v) j = imageOf s j := rfl
@[simp] theorem portOf_of_shellPut (k : Nat) (v : Shell) (j : Nat) : portOf (shellPut s k v) j = portOf s j := rfl
@[simp] theorem gchanOf_of_shellPut (k : Nat) (v : Shell) (j : Nat) : gchanOf (shellPut s k v) j = gchanOf s j := rfl
@[simp] theorem fnGet_of_shellPut (k : Nat) (v : Shell) (j j' : Nat) : fnGet (shellPut s k v) j j' = fnGet s j j' := rfl
@[simp] theorem memGet_of_shellPut (k : Nat) (v : Shell) (j : Nat) : memGet (shellPut s k v) j = memGet s j := rfl
@[simp] theorem pget_of_seatPut (k : Nat) (v : Seat) (j : Nat) : pget (seatPut s k v) j = pget s j := rfl
@[simp] theorem octGet_of_seatPut (k : Nat) (v : Seat) (j : Nat) : octGet (seatPut s k v) j = octGet s j := rfl
@[simp] theorem ctxOf_of_seatPut (k : Nat) (v : Seat) (j : Nat) : ctxOf (seatPut s k v) j = ctxOf s j := rfl
@[simp] theorem shellOf_of_seatPut (k : Nat) (v : Seat) (j : Nat) : shellOf (seatPut s k v) j = shellOf s j := rfl
@[simp] theorem chanOf_of_seatPut (k : Nat) (v : Seat) (j : Nat) : chanOf (seatPut s k v) j = chanOf s j := rfl
@[simp] theorem cxlPortOf_of_seatPut (k : Nat) (v : Seat) (j : Nat) : cxlPortOf (seatPut s k v) j = cxlPortOf s j := rfl
@[simp] theorem islandOf_of_seatPut (k : Nat) (v : Seat) (j : Nat) : islandOf (seatPut s k v) j = islandOf s j := rfl
@[simp] theorem fnOf_of_seatPut (k : Nat) (v : Seat) (j : Nat) : fnOf (seatPut s k v) j = fnOf s j := rfl
@[simp] theorem sprintOf_of_seatPut (k : Nat) (v : Seat) (j : Nat) : sprintOf (seatPut s k v) j = sprintOf s j := rfl
@[simp] theorem wakeOf_of_seatPut (k : Nat) (v : Seat) (j : Nat) : wakeOf (seatPut s k v) j = wakeOf s j := rfl
@[simp] theorem imageOf_of_seatPut (k : Nat) (v : Seat) (j : Nat) : imageOf (seatPut s k v) j = imageOf s j := rfl
@[simp] theorem portOf_of_seatPut (k : Nat) (v : Seat) (j : Nat) : portOf (seatPut s k v) j = portOf s j := rfl
@[simp] theorem gchanOf_of_seatPut (k : Nat) (v : Seat) (j : Nat) : gchanOf (seatPut s k v) j = gchanOf s j := rfl
@[simp] theorem fnGet_of_seatPut (k : Nat) (v : Seat) (j j' : Nat) : fnGet (seatPut s k v) j j' = fnGet s j j' := rfl
@[simp] theorem memGet_of_seatPut (k : Nat) (v : Seat) (j : Nat) : memGet (seatPut s k v) j = memGet s j := rfl
@[simp] theorem pget_of_chanPut (k : Nat) (v : Chan) (j : Nat) : pget (chanPut s k v) j = pget s j := rfl
@[simp] theorem octGet_of_chanPut (k : Nat) (v : Chan) (j : Nat) : octGet (chanPut s k v) j = octGet s j := rfl
@[simp] theorem ctxOf_of_chanPut (k : Nat) (v : Chan) (j : Nat) : ctxOf (chanPut s k v) j = ctxOf s j := rfl
@[simp] theorem shellOf_of_chanPut (k : Nat) (v : Chan) (j : Nat) : shellOf (chanPut s k v) j = shellOf s j := rfl
@[simp] theorem seatOf_of_chanPut (k : Nat) (v : Chan) (j : Nat) : seatOf (chanPut s k v) j = seatOf s j := rfl
@[simp] theorem cxlPortOf_of_chanPut (k : Nat) (v : Chan) (j : Nat) : cxlPortOf (chanPut s k v) j = cxlPortOf s j := rfl
@[simp] theorem islandOf_of_chanPut (k : Nat) (v : Chan) (j : Nat) : islandOf (chanPut s k v) j = islandOf s j := rfl
@[simp] theorem fnOf_of_chanPut (k : Nat) (v : Chan) (j : Nat) : fnOf (chanPut s k v) j = fnOf s j := rfl
@[simp] theorem sprintOf_of_chanPut (k : Nat) (v : Chan) (j : Nat) : sprintOf (chanPut s k v) j = sprintOf s j := rfl
@[simp] theorem wakeOf_of_chanPut (k : Nat) (v : Chan) (j : Nat) : wakeOf (chanPut s k v) j = wakeOf s j := rfl
@[simp] theorem imageOf_of_chanPut (k : Nat) (v : Chan) (j : Nat) : imageOf (chanPut s k v) j = imageOf s j := rfl
@[simp] theorem portOf_of_chanPut (k : Nat) (v : Chan) (j : Nat) : portOf (chanPut s k v) j = portOf s j := rfl
@[simp] theorem gchanOf_of_chanPut (k : Nat) (v : Chan) (j : Nat) : gchanOf (chanPut s k v) j = gchanOf s j := rfl
@[simp] theorem fnGet_of_chanPut (k : Nat) (v : Chan) (j j' : Nat) : fnGet (chanPut s k v) j j' = fnGet s j j' := rfl
@[simp] theorem memGet_of_chanPut (k : Nat) (v : Chan) (j : Nat) : memGet (chanPut s k v) j = memGet s j := rfl
@[simp] theorem pget_of_cxlPortPut (k : Nat) (v : CxlPort) (j : Nat) : pget (cxlPortPut s k v) j = pget s j := rfl
@[simp] theorem octGet_of_cxlPortPut (k : Nat) (v : CxlPort) (j : Nat) : octGet (cxlPortPut s k v) j = octGet s j := rfl
@[simp] theorem ctxOf_of_cxlPortPut (k : Nat) (v : CxlPort) (j : Nat) : ctxOf (cxlPortPut s k v) j = ctxOf s j := rfl
@[simp] theorem shellOf_of_cxlPortPut (k : Nat) (v : CxlPort) (j : Nat) : shellOf (cxlPortPut s k v) j = shellOf s j := rfl
@[simp] theorem seatOf_of_cxlPortPut (k : Nat) (v : CxlPort) (j : Nat) : seatOf (cxlPortPut s k v) j = seatOf s j := rfl
@[simp] theorem chanOf_of_cxlPortPut (k : Nat) (v : CxlPort) (j : Nat) : chanOf (cxlPortPut s k v) j = chanOf s j := rfl
@[simp] theorem islandOf_of_cxlPortPut (k : Nat) (v : CxlPort) (j : Nat) : islandOf (cxlPortPut s k v) j = islandOf s j := rfl
@[simp] theorem fnOf_of_cxlPortPut (k : Nat) (v : CxlPort) (j : Nat) : fnOf (cxlPortPut s k v) j = fnOf s j := rfl
@[simp] theorem sprintOf_of_cxlPortPut (k : Nat) (v : CxlPort) (j : Nat) : sprintOf (cxlPortPut s k v) j = sprintOf s j := rfl
@[simp] theorem wakeOf_of_cxlPortPut (k : Nat) (v : CxlPort) (j : Nat) : wakeOf (cxlPortPut s k v) j = wakeOf s j := rfl
@[simp] theorem imageOf_of_cxlPortPut (k : Nat) (v : CxlPort) (j : Nat) : imageOf (cxlPortPut s k v) j = imageOf s j := rfl
@[simp] theorem portOf_of_cxlPortPut (k : Nat) (v : CxlPort) (j : Nat) : portOf (cxlPortPut s k v) j = portOf s j := rfl
@[simp] theorem gchanOf_of_cxlPortPut (k : Nat) (v : CxlPort) (j : Nat) : gchanOf (cxlPortPut s k v) j = gchanOf s j := rfl
@[simp] theorem fnGet_of_cxlPortPut (k : Nat) (v : CxlPort) (j j' : Nat) : fnGet (cxlPortPut s k v) j j' = fnGet s j j' := rfl
@[simp] theorem memGet_of_cxlPortPut (k : Nat) (v : CxlPort) (j : Nat) : memGet (cxlPortPut s k v) j = memGet s j := rfl
@[simp] theorem pget_of_islandPut (k : Nat) (v : Island) (j : Nat) : pget (islandPut s k v) j = pget s j := rfl
@[simp] theorem octGet_of_islandPut (k : Nat) (v : Island) (j : Nat) : octGet (islandPut s k v) j = octGet s j := rfl
@[simp] theorem ctxOf_of_islandPut (k : Nat) (v : Island) (j : Nat) : ctxOf (islandPut s k v) j = ctxOf s j := rfl
@[simp] theorem shellOf_of_islandPut (k : Nat) (v : Island) (j : Nat) : shellOf (islandPut s k v) j = shellOf s j := rfl
@[simp] theorem seatOf_of_islandPut (k : Nat) (v : Island) (j : Nat) : seatOf (islandPut s k v) j = seatOf s j := rfl
@[simp] theorem chanOf_of_islandPut (k : Nat) (v : Island) (j : Nat) : chanOf (islandPut s k v) j = chanOf s j := rfl
@[simp] theorem cxlPortOf_of_islandPut (k : Nat) (v : Island) (j : Nat) : cxlPortOf (islandPut s k v) j = cxlPortOf s j := rfl
@[simp] theorem fnOf_of_islandPut (k : Nat) (v : Island) (j : Nat) : fnOf (islandPut s k v) j = fnOf s j := rfl
@[simp] theorem sprintOf_of_islandPut (k : Nat) (v : Island) (j : Nat) : sprintOf (islandPut s k v) j = sprintOf s j := rfl
@[simp] theorem wakeOf_of_islandPut (k : Nat) (v : Island) (j : Nat) : wakeOf (islandPut s k v) j = wakeOf s j := rfl
@[simp] theorem imageOf_of_islandPut (k : Nat) (v : Island) (j : Nat) : imageOf (islandPut s k v) j = imageOf s j := rfl
@[simp] theorem portOf_of_islandPut (k : Nat) (v : Island) (j : Nat) : portOf (islandPut s k v) j = portOf s j := rfl
@[simp] theorem gchanOf_of_islandPut (k : Nat) (v : Island) (j : Nat) : gchanOf (islandPut s k v) j = gchanOf s j := rfl
@[simp] theorem fnGet_of_islandPut (k : Nat) (v : Island) (j j' : Nat) : fnGet (islandPut s k v) j j' = fnGet s j j' := rfl
@[simp] theorem memGet_of_islandPut (k : Nat) (v : Island) (j : Nat) : memGet (islandPut s k v) j = memGet s j := rfl
@[simp] theorem pget_of_fnStPut (k : Nat) (v : FnSt) (j : Nat) : pget (fnStPut s k v) j = pget s j := rfl
@[simp] theorem octGet_of_fnStPut (k : Nat) (v : FnSt) (j : Nat) : octGet (fnStPut s k v) j = octGet s j := rfl
@[simp] theorem ctxOf_of_fnStPut (k : Nat) (v : FnSt) (j : Nat) : ctxOf (fnStPut s k v) j = ctxOf s j := rfl
@[simp] theorem shellOf_of_fnStPut (k : Nat) (v : FnSt) (j : Nat) : shellOf (fnStPut s k v) j = shellOf s j := rfl
@[simp] theorem seatOf_of_fnStPut (k : Nat) (v : FnSt) (j : Nat) : seatOf (fnStPut s k v) j = seatOf s j := rfl
@[simp] theorem chanOf_of_fnStPut (k : Nat) (v : FnSt) (j : Nat) : chanOf (fnStPut s k v) j = chanOf s j := rfl
@[simp] theorem cxlPortOf_of_fnStPut (k : Nat) (v : FnSt) (j : Nat) : cxlPortOf (fnStPut s k v) j = cxlPortOf s j := rfl
@[simp] theorem islandOf_of_fnStPut (k : Nat) (v : FnSt) (j : Nat) : islandOf (fnStPut s k v) j = islandOf s j := rfl
@[simp] theorem sprintOf_of_fnStPut (k : Nat) (v : FnSt) (j : Nat) : sprintOf (fnStPut s k v) j = sprintOf s j := rfl
@[simp] theorem wakeOf_of_fnStPut (k : Nat) (v : FnSt) (j : Nat) : wakeOf (fnStPut s k v) j = wakeOf s j := rfl
@[simp] theorem imageOf_of_fnStPut (k : Nat) (v : FnSt) (j : Nat) : imageOf (fnStPut s k v) j = imageOf s j := rfl
@[simp] theorem portOf_of_fnStPut (k : Nat) (v : FnSt) (j : Nat) : portOf (fnStPut s k v) j = portOf s j := rfl
@[simp] theorem gchanOf_of_fnStPut (k : Nat) (v : FnSt) (j : Nat) : gchanOf (fnStPut s k v) j = gchanOf s j := rfl
@[simp] theorem fnGet_of_fnStPut (k : Nat) (v : FnSt) (j j' : Nat) : fnGet (fnStPut s k v) j j' = fnGet s j j' := rfl
@[simp] theorem memGet_of_fnStPut (k : Nat) (v : FnSt) (j : Nat) : memGet (fnStPut s k v) j = memGet s j := rfl
@[simp] theorem pget_of_sprintPut (k : Nat) (v : Sprint) (j : Nat) : pget (sprintPut s k v) j = pget s j := rfl
@[simp] theorem octGet_of_sprintPut (k : Nat) (v : Sprint) (j : Nat) : octGet (sprintPut s k v) j = octGet s j := rfl
@[simp] theorem ctxOf_of_sprintPut (k : Nat) (v : Sprint) (j : Nat) : ctxOf (sprintPut s k v) j = ctxOf s j := rfl
@[simp] theorem shellOf_of_sprintPut (k : Nat) (v : Sprint) (j : Nat) : shellOf (sprintPut s k v) j = shellOf s j := rfl
@[simp] theorem seatOf_of_sprintPut (k : Nat) (v : Sprint) (j : Nat) : seatOf (sprintPut s k v) j = seatOf s j := rfl
@[simp] theorem chanOf_of_sprintPut (k : Nat) (v : Sprint) (j : Nat) : chanOf (sprintPut s k v) j = chanOf s j := rfl
@[simp] theorem cxlPortOf_of_sprintPut (k : Nat) (v : Sprint) (j : Nat) : cxlPortOf (sprintPut s k v) j = cxlPortOf s j := rfl
@[simp] theorem islandOf_of_sprintPut (k : Nat) (v : Sprint) (j : Nat) : islandOf (sprintPut s k v) j = islandOf s j := rfl
@[simp] theorem fnOf_of_sprintPut (k : Nat) (v : Sprint) (j : Nat) : fnOf (sprintPut s k v) j = fnOf s j := rfl
@[simp] theorem wakeOf_of_sprintPut (k : Nat) (v : Sprint) (j : Nat) : wakeOf (sprintPut s k v) j = wakeOf s j := rfl
@[simp] theorem imageOf_of_sprintPut (k : Nat) (v : Sprint) (j : Nat) : imageOf (sprintPut s k v) j = imageOf s j := rfl
@[simp] theorem portOf_of_sprintPut (k : Nat) (v : Sprint) (j : Nat) : portOf (sprintPut s k v) j = portOf s j := rfl
@[simp] theorem gchanOf_of_sprintPut (k : Nat) (v : Sprint) (j : Nat) : gchanOf (sprintPut s k v) j = gchanOf s j := rfl
@[simp] theorem fnGet_of_sprintPut (k : Nat) (v : Sprint) (j j' : Nat) : fnGet (sprintPut s k v) j j' = fnGet s j j' := rfl
@[simp] theorem memGet_of_sprintPut (k : Nat) (v : Sprint) (j : Nat) : memGet (sprintPut s k v) j = memGet s j := rfl
@[simp] theorem pget_of_wakePut (k : Nat) (v : WakeSt) (j : Nat) : pget (wakePut s k v) j = pget s j := rfl
@[simp] theorem octGet_of_wakePut (k : Nat) (v : WakeSt) (j : Nat) : octGet (wakePut s k v) j = octGet s j := rfl
@[simp] theorem ctxOf_of_wakePut (k : Nat) (v : WakeSt) (j : Nat) : ctxOf (wakePut s k v) j = ctxOf s j := rfl
@[simp] theorem shellOf_of_wakePut (k : Nat) (v : WakeSt) (j : Nat) : shellOf (wakePut s k v) j = shellOf s j := rfl
@[simp] theorem seatOf_of_wakePut (k : Nat) (v : WakeSt) (j : Nat) : seatOf (wakePut s k v) j = seatOf s j := rfl
@[simp] theorem chanOf_of_wakePut (k : Nat) (v : WakeSt) (j : Nat) : chanOf (wakePut s k v) j = chanOf s j := rfl
@[simp] theorem cxlPortOf_of_wakePut (k : Nat) (v : WakeSt) (j : Nat) : cxlPortOf (wakePut s k v) j = cxlPortOf s j := rfl
@[simp] theorem islandOf_of_wakePut (k : Nat) (v : WakeSt) (j : Nat) : islandOf (wakePut s k v) j = islandOf s j := rfl
@[simp] theorem fnOf_of_wakePut (k : Nat) (v : WakeSt) (j : Nat) : fnOf (wakePut s k v) j = fnOf s j := rfl
@[simp] theorem sprintOf_of_wakePut (k : Nat) (v : WakeSt) (j : Nat) : sprintOf (wakePut s k v) j = sprintOf s j := rfl
@[simp] theorem imageOf_of_wakePut (k : Nat) (v : WakeSt) (j : Nat) : imageOf (wakePut s k v) j = imageOf s j := rfl
@[simp] theorem portOf_of_wakePut (k : Nat) (v : WakeSt) (j : Nat) : portOf (wakePut s k v) j = portOf s j := rfl
@[simp] theorem gchanOf_of_wakePut (k : Nat) (v : WakeSt) (j : Nat) : gchanOf (wakePut s k v) j = gchanOf s j := rfl
@[simp] theorem fnGet_of_wakePut (k : Nat) (v : WakeSt) (j j' : Nat) : fnGet (wakePut s k v) j j' = fnGet s j j' := rfl
@[simp] theorem memGet_of_wakePut (k : Nat) (v : WakeSt) (j : Nat) : memGet (wakePut s k v) j = memGet s j := rfl
@[simp] theorem pget_of_imagePut (k : Nat) (v : Image) (j : Nat) : pget (imagePut s k v) j = pget s j := rfl
@[simp] theorem octGet_of_imagePut (k : Nat) (v : Image) (j : Nat) : octGet (imagePut s k v) j = octGet s j := rfl
@[simp] theorem ctxOf_of_imagePut (k : Nat) (v : Image) (j : Nat) : ctxOf (imagePut s k v) j = ctxOf s j := rfl
@[simp] theorem shellOf_of_imagePut (k : Nat) (v : Image) (j : Nat) : shellOf (imagePut s k v) j = shellOf s j := rfl
@[simp] theorem seatOf_of_imagePut (k : Nat) (v : Image) (j : Nat) : seatOf (imagePut s k v) j = seatOf s j := rfl
@[simp] theorem chanOf_of_imagePut (k : Nat) (v : Image) (j : Nat) : chanOf (imagePut s k v) j = chanOf s j := rfl
@[simp] theorem cxlPortOf_of_imagePut (k : Nat) (v : Image) (j : Nat) : cxlPortOf (imagePut s k v) j = cxlPortOf s j := rfl
@[simp] theorem islandOf_of_imagePut (k : Nat) (v : Image) (j : Nat) : islandOf (imagePut s k v) j = islandOf s j := rfl
@[simp] theorem fnOf_of_imagePut (k : Nat) (v : Image) (j : Nat) : fnOf (imagePut s k v) j = fnOf s j := rfl
@[simp] theorem sprintOf_of_imagePut (k : Nat) (v : Image) (j : Nat) : sprintOf (imagePut s k v) j = sprintOf s j := rfl
@[simp] theorem wakeOf_of_imagePut (k : Nat) (v : Image) (j : Nat) : wakeOf (imagePut s k v) j = wakeOf s j := rfl
@[simp] theorem portOf_of_imagePut (k : Nat) (v : Image) (j : Nat) : portOf (imagePut s k v) j = portOf s j := rfl
@[simp] theorem gchanOf_of_imagePut (k : Nat) (v : Image) (j : Nat) : gchanOf (imagePut s k v) j = gchanOf s j := rfl
@[simp] theorem fnGet_of_imagePut (k : Nat) (v : Image) (j j' : Nat) : fnGet (imagePut s k v) j j' = fnGet s j j' := rfl
@[simp] theorem memGet_of_imagePut (k : Nat) (v : Image) (j : Nat) : memGet (imagePut s k v) j = memGet s j := rfl
@[simp] theorem pget_of_portPut (k : Nat) (v : GhPort) (j : Nat) : pget (portPut s k v) j = pget s j := rfl
@[simp] theorem octGet_of_portPut (k : Nat) (v : GhPort) (j : Nat) : octGet (portPut s k v) j = octGet s j := rfl
@[simp] theorem ctxOf_of_portPut (k : Nat) (v : GhPort) (j : Nat) : ctxOf (portPut s k v) j = ctxOf s j := rfl
@[simp] theorem shellOf_of_portPut (k : Nat) (v : GhPort) (j : Nat) : shellOf (portPut s k v) j = shellOf s j := rfl
@[simp] theorem seatOf_of_portPut (k : Nat) (v : GhPort) (j : Nat) : seatOf (portPut s k v) j = seatOf s j := rfl
@[simp] theorem chanOf_of_portPut (k : Nat) (v : GhPort) (j : Nat) : chanOf (portPut s k v) j = chanOf s j := rfl
@[simp] theorem cxlPortOf_of_portPut (k : Nat) (v : GhPort) (j : Nat) : cxlPortOf (portPut s k v) j = cxlPortOf s j := rfl
@[simp] theorem islandOf_of_portPut (k : Nat) (v : GhPort) (j : Nat) : islandOf (portPut s k v) j = islandOf s j := rfl
@[simp] theorem fnOf_of_portPut (k : Nat) (v : GhPort) (j : Nat) : fnOf (portPut s k v) j = fnOf s j := rfl
@[simp] theorem sprintOf_of_portPut (k : Nat) (v : GhPort) (j : Nat) : sprintOf (portPut s k v) j = sprintOf s j := rfl
@[simp] theorem wakeOf_of_portPut (k : Nat) (v : GhPort) (j : Nat) : wakeOf (portPut s k v) j = wakeOf s j := rfl
@[simp] theorem imageOf_of_portPut (k : Nat) (v : GhPort) (j : Nat) : imageOf (portPut s k v) j = imageOf s j := rfl
@[simp] theorem gchanOf_of_portPut (k : Nat) (v : GhPort) (j : Nat) : gchanOf (portPut s k v) j = gchanOf s j := rfl
@[simp] theorem fnGet_of_portPut (k : Nat) (v : GhPort) (j j' : Nat) : fnGet (portPut s k v) j j' = fnGet s j j' := rfl
@[simp] theorem memGet_of_portPut (k : Nat) (v : GhPort) (j : Nat) : memGet (portPut s k v) j = memGet s j := rfl
@[simp] theorem pget_of_gchanPut (k : Nat) (v : GhChan) (j : Nat) : pget (gchanPut s k v) j = pget s j := rfl
@[simp] theorem octGet_of_gchanPut (k : Nat) (v : GhChan) (j : Nat) : octGet (gchanPut s k v) j = octGet s j := rfl
@[simp] theorem ctxOf_of_gchanPut (k : Nat) (v : GhChan) (j : Nat) : ctxOf (gchanPut s k v) j = ctxOf s j := rfl
@[simp] theorem shellOf_of_gchanPut (k : Nat) (v : GhChan) (j : Nat) : shellOf (gchanPut s k v) j = shellOf s j := rfl
@[simp] theorem seatOf_of_gchanPut (k : Nat) (v : GhChan) (j : Nat) : seatOf (gchanPut s k v) j = seatOf s j := rfl
@[simp] theorem chanOf_of_gchanPut (k : Nat) (v : GhChan) (j : Nat) : chanOf (gchanPut s k v) j = chanOf s j := rfl
@[simp] theorem cxlPortOf_of_gchanPut (k : Nat) (v : GhChan) (j : Nat) : cxlPortOf (gchanPut s k v) j = cxlPortOf s j := rfl
@[simp] theorem islandOf_of_gchanPut (k : Nat) (v : GhChan) (j : Nat) : islandOf (gchanPut s k v) j = islandOf s j := rfl
@[simp] theorem fnOf_of_gchanPut (k : Nat) (v : GhChan) (j : Nat) : fnOf (gchanPut s k v) j = fnOf s j := rfl
@[simp] theorem sprintOf_of_gchanPut (k : Nat) (v : GhChan) (j : Nat) : sprintOf (gchanPut s k v) j = sprintOf s j := rfl
@[simp] theorem wakeOf_of_gchanPut (k : Nat) (v : GhChan) (j : Nat) : wakeOf (gchanPut s k v) j = wakeOf s j := rfl
@[simp] theorem imageOf_of_gchanPut (k : Nat) (v : GhChan) (j : Nat) : imageOf (gchanPut s k v) j = imageOf s j := rfl
@[simp] theorem portOf_of_gchanPut (k : Nat) (v : GhChan) (j : Nat) : portOf (gchanPut s k v) j = portOf s j := rfl
@[simp] theorem fnGet_of_gchanPut (k : Nat) (v : GhChan) (j j' : Nat) : fnGet (gchanPut s k v) j j' = fnGet s j j' := rfl
@[simp] theorem memGet_of_gchanPut (k : Nat) (v : GhChan) (j : Nat) : memGet (gchanPut s k v) j = memGet s j := rfl
@[simp] theorem pget_of_fnPut (k o v : Nat) (j : Nat) : pget (fnPut s k o v) j = pget s j := rfl
@[simp] theorem octGet_of_fnPut (k o v : Nat) (j : Nat) : octGet (fnPut s k o v) j = octGet s j := rfl
@[simp] theorem ctxOf_of_fnPut (k o v : Nat) (j : Nat) : ctxOf (fnPut s k o v) j = ctxOf s j := rfl
@[simp] theorem shellOf_of_fnPut (k o v : Nat) (j : Nat) : shellOf (fnPut s k o v) j = shellOf s j := rfl
@[simp] theorem seatOf_of_fnPut (k o v : Nat) (j : Nat) : seatOf (fnPut s k o v) j = seatOf s j := rfl
@[simp] theorem chanOf_of_fnPut (k o v : Nat) (j : Nat) : chanOf (fnPut s k o v) j = chanOf s j := rfl
@[simp] theorem cxlPortOf_of_fnPut (k o v : Nat) (j : Nat) : cxlPortOf (fnPut s k o v) j = cxlPortOf s j := rfl
@[simp] theorem islandOf_of_fnPut (k o v : Nat) (j : Nat) : islandOf (fnPut s k o v) j = islandOf s j := rfl
@[simp] theorem fnOf_of_fnPut (k o v : Nat) (j : Nat) : fnOf (fnPut s k o v) j = fnOf s j := rfl
@[simp] theorem sprintOf_of_fnPut (k o v : Nat) (j : Nat) : sprintOf (fnPut s k o v) j = sprintOf s j := rfl
@[simp] theorem wakeOf_of_fnPut (k o v : Nat) (j : Nat) : wakeOf (fnPut s k o v) j = wakeOf s j := rfl
@[simp] theorem imageOf_of_fnPut (k o v : Nat) (j : Nat) : imageOf (fnPut s k o v) j = imageOf s j := rfl
@[simp] theorem portOf_of_fnPut (k o v : Nat) (j : Nat) : portOf (fnPut s k o v) j = portOf s j := rfl
@[simp] theorem gchanOf_of_fnPut (k o v : Nat) (j : Nat) : gchanOf (fnPut s k o v) j = gchanOf s j := rfl
@[simp] theorem memGet_of_fnPut (k o v : Nat) (j : Nat) : memGet (fnPut s k o v) j = memGet s j := rfl
@[simp] theorem pget_of_emit (x : Sent) (j : Nat) : pget (emit s x) j = pget s j := rfl
@[simp] theorem octGet_of_emit (x : Sent) (j : Nat) : octGet (emit s x) j = octGet s j := rfl
@[simp] theorem ctxOf_of_emit (x : Sent) (j : Nat) : ctxOf (emit s x) j = ctxOf s j := rfl
@[simp] theorem shellOf_of_emit (x : Sent) (j : Nat) : shellOf (emit s x) j = shellOf s j := rfl
@[simp] theorem seatOf_of_emit (x : Sent) (j : Nat) : seatOf (emit s x) j = seatOf s j := rfl
@[simp] theorem chanOf_of_emit (x : Sent) (j : Nat) : chanOf (emit s x) j = chanOf s j := rfl
@[simp] theorem cxlPortOf_of_emit (x : Sent) (j : Nat) : cxlPortOf (emit s x) j = cxlPortOf s j := rfl
@[simp] theorem islandOf_of_emit (x : Sent) (j : Nat) : islandOf (emit s x) j = islandOf s j := rfl
@[simp] theorem fnOf_of_emit (x : Sent) (j : Nat) : fnOf (emit s x) j = fnOf s j := rfl
@[simp] theorem sprintOf_of_emit (x : Sent) (j : Nat) : sprintOf (emit s x) j = sprintOf s j := rfl
@[simp] theorem wakeOf_of_emit (x : Sent) (j : Nat) : wakeOf (emit s x) j = wakeOf s j := rfl
@[simp] theorem imageOf_of_emit (x : Sent) (j : Nat) : imageOf (emit s x) j = imageOf s j := rfl
@[simp] theorem portOf_of_emit (x : Sent) (j : Nat) : portOf (emit s x) j = portOf s j := rfl
@[simp] theorem gchanOf_of_emit (x : Sent) (j : Nat) : gchanOf (emit s x) j = gchanOf s j := rfl
@[simp] theorem fnGet_of_emit (x : Sent) (j j' : Nat) : fnGet (emit s x) j j' = fnGet s j j' := rfl
@[simp] theorem memGet_of_emit (x : Sent) (j : Nat) : memGet (emit s x) j = memGet s j := rfl
@[simp] theorem pget_of_freeNext (j : Nat) : pget (freeNext s) j = pget s j := rfl
@[simp] theorem octGet_of_freeNext (j : Nat) : octGet (freeNext s) j = octGet s j := rfl
@[simp] theorem ctxOf_of_freeNext (j : Nat) : ctxOf (freeNext s) j = ctxOf s j := rfl
@[simp] theorem shellOf_of_freeNext (j : Nat) : shellOf (freeNext s) j = shellOf s j := rfl
@[simp] theorem seatOf_of_freeNext (j : Nat) : seatOf (freeNext s) j = seatOf s j := rfl
@[simp] theorem chanOf_of_freeNext (j : Nat) : chanOf (freeNext s) j = chanOf s j := rfl
@[simp] theorem cxlPortOf_of_freeNext (j : Nat) : cxlPortOf (freeNext s) j = cxlPortOf s j := rfl
@[simp] theorem islandOf_of_freeNext (j : Nat) : islandOf (freeNext s) j = islandOf s j := rfl
@[simp] theorem fnOf_of_freeNext (j : Nat) : fnOf (freeNext s) j = fnOf s j := rfl
@[simp] theorem sprintOf_of_freeNext (j : Nat) : sprintOf (freeNext s) j = sprintOf s j := rfl
@[simp] theorem wakeOf_of_freeNext (j : Nat) : wakeOf (freeNext s) j = wakeOf s j := rfl
@[simp] theorem imageOf_of_freeNext (j : Nat) : imageOf (freeNext s) j = imageOf s j := rfl
@[simp] theorem portOf_of_freeNext (j : Nat) : portOf (freeNext s) j = portOf s j := rfl
@[simp] theorem gchanOf_of_freeNext (j : Nat) : gchanOf (freeNext s) j = gchanOf s j := rfl
@[simp] theorem fnGet_of_freeNext (j j' : Nat) : fnGet (freeNext s) j j' = fnGet s j j' := rfl
@[simp] theorem memGet_of_freeNext (j : Nat) : memGet (freeNext s) j = memGet s j := rfl
@[simp] theorem pget_of_memWrite (a : Nat) (b : Bytes) (j : Nat) : pget (memWrite s a b) j = pget s j := rfl
@[simp] theorem octGet_of_memWrite (a : Nat) (b : Bytes) (j : Nat) : octGet (memWrite s a b) j = octGet s j := rfl
@[simp] theorem ctxOf_of_memWrite (a : Nat) (b : Bytes) (j : Nat) : ctxOf (memWrite s a b) j = ctxOf s j := rfl
@[simp] theorem shellOf_of_memWrite (a : Nat) (b : Bytes) (j : Nat) : shellOf (memWrite s a b) j = shellOf s j := rfl
@[simp] theorem seatOf_of_memWrite (a : Nat) (b : Bytes) (j : Nat) : seatOf (memWrite s a b) j = seatOf s j := rfl
@[simp] theorem chanOf_of_memWrite (a : Nat) (b : Bytes) (j : Nat) : chanOf (memWrite s a b) j = chanOf s j := rfl
@[simp] theorem cxlPortOf_of_memWrite (a : Nat) (b : Bytes) (j : Nat) : cxlPortOf (memWrite s a b) j = cxlPortOf s j := rfl
@[simp] theorem islandOf_of_memWrite (a : Nat) (b : Bytes) (j : Nat) : islandOf (memWrite s a b) j = islandOf s j := rfl
@[simp] theorem fnOf_of_memWrite (a : Nat) (b : Bytes) (j : Nat) : fnOf (memWrite s a b) j = fnOf s j := rfl
@[simp] theorem sprintOf_of_memWrite (a : Nat) (b : Bytes) (j : Nat) : sprintOf (memWrite s a b) j = sprintOf s j := rfl
@[simp] theorem wakeOf_of_memWrite (a : Nat) (b : Bytes) (j : Nat) : wakeOf (memWrite s a b) j = wakeOf s j := rfl
@[simp] theorem imageOf_of_memWrite (a : Nat) (b : Bytes) (j : Nat) : imageOf (memWrite s a b) j = imageOf s j := rfl
@[simp] theorem portOf_of_memWrite (a : Nat) (b : Bytes) (j : Nat) : portOf (memWrite s a b) j = portOf s j := rfl
@[simp] theorem gchanOf_of_memWrite (a : Nat) (b : Bytes) (j : Nat) : gchanOf (memWrite s a b) j = gchanOf s j := rfl
@[simp] theorem fnGet_of_memWrite (a : Nat) (b : Bytes) (j j' : Nat) : fnGet (memWrite s a b) j j' = fnGet s j j' := rfl
@[simp] theorem pget_of_memZero (a n : Nat) (j : Nat) : pget (memZero s a n) j = pget s j := rfl
@[simp] theorem octGet_of_memZero (a n : Nat) (j : Nat) : octGet (memZero s a n) j = octGet s j := rfl
@[simp] theorem ctxOf_of_memZero (a n : Nat) (j : Nat) : ctxOf (memZero s a n) j = ctxOf s j := rfl
@[simp] theorem shellOf_of_memZero (a n : Nat) (j : Nat) : shellOf (memZero s a n) j = shellOf s j := rfl
@[simp] theorem seatOf_of_memZero (a n : Nat) (j : Nat) : seatOf (memZero s a n) j = seatOf s j := rfl
@[simp] theorem chanOf_of_memZero (a n : Nat) (j : Nat) : chanOf (memZero s a n) j = chanOf s j := rfl
@[simp] theorem cxlPortOf_of_memZero (a n : Nat) (j : Nat) : cxlPortOf (memZero s a n) j = cxlPortOf s j := rfl
@[simp] theorem islandOf_of_memZero (a n : Nat) (j : Nat) : islandOf (memZero s a n) j = islandOf s j := rfl
@[simp] theorem fnOf_of_memZero (a n : Nat) (j : Nat) : fnOf (memZero s a n) j = fnOf s j := rfl
@[simp] theorem sprintOf_of_memZero (a n : Nat) (j : Nat) : sprintOf (memZero s a n) j = sprintOf s j := rfl
@[simp] theorem wakeOf_of_memZero (a n : Nat) (j : Nat) : wakeOf (memZero s a n) j = wakeOf s j := rfl
@[simp] theorem imageOf_of_memZero (a n : Nat) (j : Nat) : imageOf (memZero s a n) j = imageOf s j := rfl
@[simp] theorem portOf_of_memZero (a n : Nat) (j : Nat) : portOf (memZero s a n) j = portOf s j := rfl
@[simp] theorem gchanOf_of_memZero (a n : Nat) (j : Nat) : gchanOf (memZero s a n) j = gchanOf s j := rfl
@[simp] theorem fnGet_of_memZero (a n : Nat) (j j' : Nat) : fnGet (memZero s a n) j j' = fnGet s j j' := rfl
@[simp] theorem pget_of_memLoad (a : Nat) (l : List (Nat × Byte)) (j : Nat) : pget (memLoad s a l) j = pget s j := rfl
@[simp] theorem octGet_of_memLoad (a : Nat) (l : List (Nat × Byte)) (j : Nat) : octGet (memLoad s a l) j = octGet s j := rfl
@[simp] theorem ctxOf_of_memLoad (a : Nat) (l : List (Nat × Byte)) (j : Nat) : ctxOf (memLoad s a l) j = ctxOf s j := rfl
@[simp] theorem shellOf_of_memLoad (a : Nat) (l : List (Nat × Byte)) (j : Nat) : shellOf (memLoad s a l) j = shellOf s j := rfl
@[simp] theorem seatOf_of_memLoad (a : Nat) (l : List (Nat × Byte)) (j : Nat) : seatOf (memLoad s a l) j = seatOf s j := rfl
@[simp] theorem chanOf_of_memLoad (a : Nat) (l : List (Nat × Byte)) (j : Nat) : chanOf (memLoad s a l) j = chanOf s j := rfl
@[simp] theorem cxlPortOf_of_memLoad (a : Nat) (l : List (Nat × Byte)) (j : Nat) : cxlPortOf (memLoad s a l) j = cxlPortOf s j := rfl
@[simp] theorem islandOf_of_memLoad (a : Nat) (l : List (Nat × Byte)) (j : Nat) : islandOf (memLoad s a l) j = islandOf s j := rfl
@[simp] theorem fnOf_of_memLoad (a : Nat) (l : List (Nat × Byte)) (j : Nat) : fnOf (memLoad s a l) j = fnOf s j := rfl
@[simp] theorem sprintOf_of_memLoad (a : Nat) (l : List (Nat × Byte)) (j : Nat) : sprintOf (memLoad s a l) j = sprintOf s j := rfl
@[simp] theorem wakeOf_of_memLoad (a : Nat) (l : List (Nat × Byte)) (j : Nat) : wakeOf (memLoad s a l) j = wakeOf s j := rfl
@[simp] theorem imageOf_of_memLoad (a : Nat) (l : List (Nat × Byte)) (j : Nat) : imageOf (memLoad s a l) j = imageOf s j := rfl
@[simp] theorem portOf_of_memLoad (a : Nat) (l : List (Nat × Byte)) (j : Nat) : portOf (memLoad s a l) j = portOf s j := rfl
@[simp] theorem gchanOf_of_memLoad (a : Nat) (l : List (Nat × Byte)) (j : Nat) : gchanOf (memLoad s a l) j = gchanOf s j := rfl
@[simp] theorem fnGet_of_memLoad (a : Nat) (l : List (Nat × Byte)) (j j' : Nat) : fnGet (memLoad s a l) j j' = fnGet s j j' := rfl
@[simp] theorem pget_of_memCopy (a b n : Nat) (j : Nat) : pget (memCopy s a b n) j = pget s j := rfl
@[simp] theorem octGet_of_memCopy (a b n : Nat) (j : Nat) : octGet (memCopy s a b n) j = octGet s j := rfl
@[simp] theorem ctxOf_of_memCopy (a b n : Nat) (j : Nat) : ctxOf (memCopy s a b n) j = ctxOf s j := rfl
@[simp] theorem shellOf_of_memCopy (a b n : Nat) (j : Nat) : shellOf (memCopy s a b n) j = shellOf s j := rfl
@[simp] theorem seatOf_of_memCopy (a b n : Nat) (j : Nat) : seatOf (memCopy s a b n) j = seatOf s j := rfl
@[simp] theorem chanOf_of_memCopy (a b n : Nat) (j : Nat) : chanOf (memCopy s a b n) j = chanOf s j := rfl
@[simp] theorem cxlPortOf_of_memCopy (a b n : Nat) (j : Nat) : cxlPortOf (memCopy s a b n) j = cxlPortOf s j := rfl
@[simp] theorem islandOf_of_memCopy (a b n : Nat) (j : Nat) : islandOf (memCopy s a b n) j = islandOf s j := rfl
@[simp] theorem fnOf_of_memCopy (a b n : Nat) (j : Nat) : fnOf (memCopy s a b n) j = fnOf s j := rfl
@[simp] theorem sprintOf_of_memCopy (a b n : Nat) (j : Nat) : sprintOf (memCopy s a b n) j = sprintOf s j := rfl
@[simp] theorem wakeOf_of_memCopy (a b n : Nat) (j : Nat) : wakeOf (memCopy s a b n) j = wakeOf s j := rfl
@[simp] theorem imageOf_of_memCopy (a b n : Nat) (j : Nat) : imageOf (memCopy s a b n) j = imageOf s j := rfl
@[simp] theorem portOf_of_memCopy (a b n : Nat) (j : Nat) : portOf (memCopy s a b n) j = portOf s j := rfl
@[simp] theorem gchanOf_of_memCopy (a b n : Nat) (j : Nat) : gchanOf (memCopy s a b n) j = gchanOf s j := rfl
@[simp] theorem fnGet_of_memCopy (a b n : Nat) (j j' : Nat) : fnGet (memCopy s a b n) j j' = fnGet s j j' := rfl

end Sys2Proof.Machine
end

