-- ==== Sys2Proof/Laws/Core.lean ====
section
/-! SUPPORT. Putting a seat twice, an instruction of a core that is ready, and an instruction that retires. -/
namespace Sys2Proof.Machine

variable (s : State)

theorem filter_tins (t : Tbl α) (k : Nat) (v : α) : tdel (tins t k v) k = tdel t k := by
  induction t with
  | nil => simp [tins, tdel]
  | cons e t ih =>
    obtain ⟨j, w⟩ := e
    unfold tins
    split
    · simp [tdel]
    · unfold tdel at ih ⊢
      simp only [List.filter_cons, ih]

/-- A table written twice at one key holds the later value. -/
theorem tset_tset [DecidableEq α] (d : Nat → α) (t : Tbl α) (k : Nat) (v w : α) : tset d (tset d t k v) k w = tset d t k w := by
  have h : tdel (tset d t k v) k = tdel t k := by
    unfold tset
    split
    · simp [tdel, List.filter_filter]
    · rw [filter_tins]; simp [tdel, List.filter_filter]
  unfold tset at h ⊢
  rw [h]

@[simp] theorem seatPut_seatPut (i : Nat) (a b : Seat) : seatPut (seatPut s i a) i b = seatPut s i b := by
  unfold seatPut; simp only [tset_tset]

@[simp] theorem corePut_corePut (i : Nat) (a b : Core) : corePut (corePut s i a) i b = corePut s i b := by
  simp [corePut]

@[simp] theorem core_corePut (i : Nat) (c : Core) : (seatOf (corePut s i c) i).core = c := by simp [corePut]
@[simp] theorem arr_corePut (i : Nat) (c : Core) : (seatOf (corePut s i c) i).arr = (seatOf s i).arr := by simp [corePut]
@[simp] theorem arrPut_arrPut (i : Nat) (a b : Arr) : arrPut (arrPut s i a) i b = arrPut s i b := by simp [arrPut]
@[simp] theorem arr_arrPut (i : Nat) (a : Arr) : (seatOf (arrPut s i a) i).arr = a := by simp [arrPut]
@[simp] theorem core_arrPut (i : Nat) (a : Arr) : (seatOf (arrPut s i a) i).core = (seatOf s i).core := by simp [arrPut]

/-- An instruction of a core that is ready has its effect on the state whose core notes the instruction's size. -/
theorem coreStep_ready (i n : Nat) (f : State → Core → State) (t : State) (h : CoreReady s i n t) :
    coreStep i n s f = .next (f (corePut t i { (seatOf t i).core with isz := n }) { (seatOf t i).core with isz := n }) := by
  obtain ⟨h1, h2, h3, h4⟩ := h
  unfold coreStep
  dsimp only
  rw [if_neg (by simp [h1, h2, h3]), h4]

/-- The same of an instruction that the firmware may execute too. -/
theorem coreStepM_ready (i n : Nat) (f : State → Core → State) (t : State) (h : CoreReady s i n t) :
    coreStepM i n s f = .next (f (corePut t i { (seatOf t i).core with isz := n }) { (seatOf t i).core with isz := n }) := by
  unfold coreStepM
  dsimp only
  rw [if_pos (.inl h.2.2.1)]
  exact coreStep_ready s i n f t h

/-- A core in user mode that waits for nothing retires: its pc and instret move on, and nothing else changes. -/
theorem coreRetire_ready (i : Nat) (c : Core) (h : c.wait = .none) (hu : c.user = true) :
    coreRetire s i c = corePut s i { c with pc := (c.pc + c.isz) % 2 ^ 64, instret := (c.instret + 1) % 2 ^ 64, fetched := [], fw := false } := by
  unfold coreRetire coreWake
  simp [h, hu, wdHolds]

theorem xPut_wait (c : Core) (r v : Nat) : (xPut c r v).wait = c.wait := by unfold xPut; split <;> rfl
theorem xPut_pc (c : Core) (r v : Nat) : (xPut c r v).pc = c.pc := by unfold xPut; split <;> rfl

end Sys2Proof.Machine
end

