-- ==== Sys2Proof/Laws/Memory.lean ====
section
/-! SUPPORT. Memory: what a byte reads as after each operation, and that every operation keeps the canonical form. -/
namespace Sys2Proof.Machine

variable (s : State)

theorem tfind_filter_key (t : Tbl Byte) (p : Nat → Bool) (b : Nat) : tfind (t.filter (fun e => p e.1)) b = if p b then tfind t b else none := by
  induction t with
  | nil => simp [tfind]
  | cons e t ih =>
    obtain ⟨k, v⟩ := e
    by_cases hk : p k
    · by_cases hb : k = b
      · subst hb; simp [tfind, hk]
      · simpa [tfind, hk, hb] using ih
    · by_cases hb : k = b
      · subst hb; simpa [tfind, hk] using ih
      · simpa [tfind, hk, hb] using ih

/-- A zeroed span reads as zero, and every other byte as before. -/
theorem memGet_memZero (a n b : Nat) : memGet (memZero s a n) b = if a ≤ b ∧ b < a + n then 0 else memGet s b := by
  unfold memGet memZero tget
  rw [tfind_filter_key s.mem (fun k => !(decide (a ≤ k) && decide (k < a + n))) b]
  by_cases h : a ≤ b ∧ b < a + n
  · simp [h, memDefault]
  · have : (!(decide (a ≤ b) && decide (b < a + n))) = true := by simp; omega
    simp [h, this]

theorem tget_memSet (t : Tbl Byte) (a : Nat) (l : Bytes) (b : Nat) :
    tget memDefault (memSet t a l) b = if a ≤ b ∧ b < a + l.length then l.getD (b - a) 0 else tget memDefault t b := by
  induction l generalizing t a with
  | nil => simp [memSet]
  | cons x l ih =>
    rw [memSet, ih, tget_tset]
    by_cases h : b = a
    · subst h; simp
    · by_cases h2 : a + 1 ≤ b ∧ b < a + 1 + l.length
      · have h3 : a ≤ b ∧ b < a + (x :: l).length := by simp; omega
        rw [if_pos h2, if_pos h3]
        obtain ⟨k, rfl⟩ : ∃ k, b = a + 1 + k := ⟨b - (a + 1), by omega⟩
        have : a + 1 + k - a = k + 1 := by omega
        rw [this, Nat.add_sub_cancel_left]; simp
      · have h3 : ¬(a ≤ b ∧ b < a + (x :: l).length) := by simp; omega
        rw [if_neg h2, if_neg h3, if_neg h]

/-- A stored span reads as the bytes stored, and every other byte as before. -/
theorem memGet_memWrite (a : Nat) (l : Bytes) (b : Nat) :
    memGet (memWrite s a l) b = if a ≤ b ∧ b < a + l.length then l.getD (b - a) 0 else memGet s b :=
  tget_memSet s.mem a l b

/-- A byte outside the stored span reads as before. -/
theorem memGet_memWrite_outside (a : Nat) (l : Bytes) (b : Nat) (h : b < a ∨ a + l.length ≤ b) : memGet (memWrite s a l) b = memGet s b := by
  rw [memGet_memWrite, if_neg (by omega)]

/-- Stored bytes are read back. -/
theorem memRead_memWrite (a : Nat) (l : Bytes) : memRead (memWrite s a l) a l.length = l := by
  apply List.ext_getElem
  · simp [memRead]
  · intro i h1 h2
    simp [memRead, memGet_memWrite, h2]

theorem wf_memSet (t : Tbl Byte) (a : Nat) (l : Bytes) (h : twf memDefault t = true) : twf memDefault (memSet t a l) = true := by
  induction l generalizing t a with
  | nil => exact h
  | cons x l ih => exact ih _ _ (twf_tset _ _ _ _ h)

theorem wf_memWrite (a : Nat) (l : Bytes) (h : Memory.wf s = true) : Memory.wf (memWrite s a l) = true := wf_memSet _ _ _ h
theorem wf_memZero (a n : Nat) (h : Memory.wf s = true) : Memory.wf (memZero s a n) = true := twf_filter _ _ _ h
theorem wf_memLoad (a : Nat) (l : List (Nat × Byte)) (h : Memory.wf s = true) : Memory.wf (memLoad s a l) = true :=
  twf_foldl_tset memDefault l (fun e => a + e.1) (fun e => e.2) s.mem h
theorem wf_memCopy (a b n : Nat) (h : Memory.wf s = true) : Memory.wf (memCopy s a b n) = true := wf_memLoad _ _ _ (wf_memZero _ _ _ h)
theorem wf_memMaxWord (a v : Nat) (h : Memory.wf s = true) : Memory.wf (memMaxWord s a v) = true := wf_memWrite _ _ _ h
theorem wf_of_mem (t : State) (e : t.mem = s.mem) (h : Memory.wf s = true) : Memory.wf t = true := by unfold Memory.wf at *; rw [e]; exact h

end Sys2Proof.Machine
end

