-- ==== Sys2Proof/Machine/Bars.lean ====
section
/-! DEFINITION. What the host reads from a function's BARs (10 R338, 11 R368, 12 R406, 13 R451, R457). The opcode table has no row for a read: it changes
nothing, and its answer is a function of the state. -/
namespace Sys2Proof.Machine

/-- FN_INFO: the interface level in force, 0 until full function, and the function number (10 R338, 13 R457). -/
def fnInfo (s : State) (fn : Nat) : Nat := fn + (if fullUp s then levelOf s fn else 0) * 0x100

/-- The context that HQ_SELECT names. -/
def hqSelected (s : State) (fn : Nat) : Nat := bitsOf (fnGet s fn 0x408) 31 16

/-- The number of a context's state (10 Table Host-6). -/
def ctxStateCode : CtxState → Nat
  | .free => 0
  | .live => 1
  | .lost => 2
  | .destroying => 3

/-- HQ_STATE: HEAD, the selected context and its state, or 0xFF where it names no context of the function (11 R368). -/
def hqState (s : State) (fn : Nat) : Nat :=
  let cid := hqSelected s fn
  let c := ctxOf s cid
  if c.st ≠ .free ∧ c.fn = fn then pack [(32, c.head), (16, cid), (0, ctxStateCode c.st)] else pack [(16, cid), (0, 0xFF)]

/-- FE_REFUSAL: the last format refusal of the selected context (11 R368). -/
def feRefusal (s : State) (fn : Nat) : Nat :=
  let cid := hqSelected s fn
  let c := ctxOf s cid
  match c.feRefusal with
  | some (seq, code) => if c.st ≠ .free ∧ c.fn = fn then pack [(32, seq % 2 ^ 32), (16, cid), (0, code)] else 0
  | none => 0

/-- MBX_STATUS: BUSY, DONE, the response length and the doorbells accepted (13 R451). -/
def mbxStatus (m : Mbx) : Nat := pack [(0, if m.busy then 1 else 0), (1, if m.done then 1 else 0), (16, m.rspLen % 2 ^ 16), (32, m.accepted % 2 ^ 32)]

/-- The 8 bytes of BAR0 at an aligned offset, as a little-endian word: a register that is only written, and an offset that is not listed, read as zero
(10 Table Host-2). -/
def bar0Word (s : State) (fn off : Nat) : Nat :=
  if off = 0x00 then fnInfo s fn
  else if off = 0x410 then hqState s fn
  else if off = 0x418 then feRefusal s fn
  else if [0x08, 0x10, 0x20, 0x28, 0x50, 0x60, 0x80, 0x88, 0x90, 0x408, 0x1800].contains off then fnGet s fn off
  else if off = 0x58 ∨ off = 0x68 then fnGet s fn off % 2 ^ 32
  else if off = 0xC0 then fnGet s fn 0xC0 % 2 ^ 32 + fnGet s fn 0xC4 % 2 ^ 32 * 2 ^ 32
  else if 0x1000 ≤ off ∧ off < 0x1200 then fnGet s fn off % 2 ^ 32 + fnGet s fn (off + 4) % 2 ^ 32 * 2 ^ 32
  else if 0x8000 ≤ off ∧ off < 0xC000 then field (tget (fun _ => []) s.ucRecs (fn * 256 + (off - 0x8000) / 64)) (off % 64) 8
  else 0

/-- The 8 bytes of BAR4 at an aligned offset (13 Table Dict-15). -/
def bar4Word (s : State) (fn off : Nat) : Nat :=
  let m := tget (fun _ => ({} : Mbx)) s.mbxs fn
  if off = 0x08 then mbxStatus m
  else if off = 0x10 then m.ctl
  else if 0x1000 ≤ off ∧ off < 0x2000 then leNat ((List.range 8).map (fun i => tget memDefault m.req (off - 0x1000 + i)))
  else if 0x2000 ≤ off ∧ off < 0x3000 then field m.rsp (off - 0x2000) 8
  else 0

/-- The 8 bytes of a BAR at an aligned offset: BAR2 reads as zero (12 R406). -/
def barWord (s : State) (fn bar off : Nat) : Nat :=
  if bar = 0 then bar0Word s fn off else if bar = 4 then bar4Word s fn off else 0

/-- What a read of `n` bytes from a function's BAR is answered: none where the host port presents no such function (10 R334). -/
def barRead (s : State) (fn bar off n : Nat) : Option Bytes :=
  if fnUp s fn then some ((List.range n).map (fun i => (leBytes 8 (barWord s fn bar ((off + i) / 8 * 8))).getD ((off + i) % 8) 0)) else none

end Sys2Proof.Machine
end

