-- ==== Sys2Proof/Machine/Connectors.lean ====
section
/-! DEFINITION. The module's connectors: what each pin carries (19 R603 to R609). No command names a pin; the events on the signals are commands
of their own. -/

namespace Sys2Proof.Machine

/-- The module's connectors (19 Table Module-1). -/
inductive Connector where
  | p1 | j1 | j2 | j3 | j4
  deriving DecidableEq, Repr

/-- A port whose lanes a connector carries. -/
inductive LanePort where
  | host
  | ghengo (port : Nat)
  | cxl (port : Nat)
  deriving DecidableEq, Repr

/-- What a pin carries. A differential pair's negative pin has `neg` true (19 Tables Module-2, Module-3). -/
inductive PinSignal where
  | power | powerReturn
  | lane (port : LanePort) (tx : Bool) (lane : Nat) (neg : Bool)
  | pcieRefclk (neg : Bool) | linkRefclk (neg : Bool)
  | perst | pwrbrk | rackAlert | alertOut | modPwrgood | modulePresent
  | i3cScl | i3cSda
  | slotId (bit : Nat)
  | cxlRefclk (port : Nat) (neg : Bool) | cxlPerst (port : Nat) | cxlPrsnt (port : Nat)
  | ground | reserved
  deriving DecidableEq, Repr

/-- A pin: its row counts from the top face as `pinRow` says, its column from 1 at the end nearest P1 (19 R604). -/
structure Pin where
  conn : Connector
  row : Nat
  col : Nat
  deriving DecidableEq, Repr

/-- The number of a row letter (19 R604). -/
def pinRow (c : Char) : Nat := "ABCDEFGHJKLMNPTUVW".toList.idxOf c

/-- Rows and columns of a connector (19 Table Module-1). P1's two blades are rows 0 and 1. -/
def connShape : Connector → Nat × Nat
  | .p1 => (2, 1)
  | .j1 => (18, 12)
  | _ => (18, 24)

/-- The pins of a lane column: rows B to V, two to a lane; A and W are ground (19 R605). -/
def laneColumn (port : LanePort) (tx : Bool) (first row : Nat) : PinSignal :=
  if 1 ≤ row ∧ row ≤ 16 then .lane port tx (first + (row - 1) / 2) ((row - 1) % 2 == 1) else .ground

/-- J1 outside its lane columns (19 Table Module-3). -/
def j1Side (row col : Nat) : PinSignal :=
  match col, row with
  | 8, 1 => .pcieRefclk false | 8, 2 => .pcieRefclk true
  | 8, 4 => .linkRefclk false | 8, 5 => .linkRefclk true
  | 10, 0 => .perst | 10, 1 => .pwrbrk | 10, 2 => .rackAlert | 10, 3 => .alertOut | 10, 4 => .modPwrgood | 10, 5 => .modulePresent
  | 10, 6 => .i3cScl | 10, 7 => .i3cSda
  | 10, r => if 8 ≤ r ∧ r ≤ 11 then .slotId (r - 8) else if 12 ≤ r then .reserved else .ground
  | _, _ => .ground

/-- A port's three columns: transmit, receive, and the third, which is `side` (19 R607, R608). -/
def portColumns (port : LanePort) (row col : Nat) (side : PinSignal) : PinSignal :=
  if col % 3 = 1 then laneColumn port true 0 row else if col % 3 = 2 then laneColumn port false 0 row else side

/-- The sideband column of a CXL port (19 R608). -/
def cxlSide (p row : Nat) : PinSignal :=
  match row with
  | 1 => .cxlRefclk p false
  | 2 => .cxlRefclk p true
  | 4 => .cxlPerst p
  | 5 => .cxlPrsnt p
  | _ => .ground

/-- What a pin carries; nothing where the connector has no such pin (19 R604 to R609). -/
def pinSignal (p : Pin) : Option PinSignal :=
  let (rows, cols) := connShape p.conn
  if rows ≤ p.row ∨ p.col = 0 ∨ cols < p.col then none
  else
    let q := (p.col - 1) / 3
    match p.conn with
    | .p1 => some (if p.row = 0 then .power else .powerReturn)
    | .j1 =>
      if p.col = 1 ∨ p.col = 2 then some (laneColumn .host (p.col = 1) 0 p.row)
      else if p.col = 4 ∨ p.col = 5 then some (laneColumn .host (p.col = 4) 8 p.row)
      else some (j1Side p.row p.col)
    | .j2 => some (portColumns (.ghengo q) p.row p.col .ground)
    | .j3 => some (portColumns (.ghengo (8 + q)) p.row p.col .ground)
    | .j4 => some (portColumns (.cxl q) p.row p.col (cxlSide q p.row))

end Sys2Proof.Machine
end

