-- ==== Sys2Proof/Tests/Slice0.lean ====
section
/-! SUPPORT. Tests: a command that each check of WellFormed refuses, one step of each family on a small state, and for each statement with
hypotheses a state and operands that meet them. -/
set_option Elab.async false
namespace Sys2Proof.Tests
open Sys2Proof Sys2Proof.Machine

theorem witness_StepRunsFrontCommand : (({ pending := [.inputGoodRise, .meterTick] } : State)).pending = .inputGoodRise :: [.meterTick] := by decide
theorem witness_IdleTick : (({ pins := { inputGood := true } } : State)).pending = [] ∧ (({ pins := { inputGood := true } } : State)).pins.inputGood = true ∧
    State.reset.pending = [] ∧ State.reset.pins.inputGood = false ∧ ({ pending := [.inputGoodRise] } : State).pending = .inputGoodRise :: [] := by decide
theorem witness_PowerPins : State.reset.pins.inputGood = false ∧ State.reset.pins.railsDischarging = false ∧
    (({ pins := { inputGood := true, perst := false } } : State)).pins.inputGood = true ∧ (({ pins := { inputGood := true, perst := false } } : State)).pins.modPwrgood = false ∧
    (({ pins := { inputGood := true, perst := false } } : State)).pins.perst = false := by decide
/-- A device that is powered and runs, for the witnesses. -/
def up : State := { pins := { inputGood := true, modPwrgood := true, perst := false, hostPortUp := true }, start := { msf := true, islandsUp := true } }
theorem witness_StartCauses : (({ pins := { inputGood := true, modPwrgood := true, perst := true, perstWarm := true } } : State)).pins.perst = true ∧
    up.pins.inputGood = true ∧ up.pins.modPwrgood = true ∧ up.pins.perst = false ∧ up.pins.hostPortUp = true ∧ coxRuns up = true ∧ up.start.sigFault = false ∧
    (({ start := { entry := true } } : State)).start.entry = true := by decide
/-- A start in stage `n`. -/
def inStageN (n : Nat) : State := { pins := { inputGood := true, modPwrgood := true, perst := false }, regs := tset paramDefault [] P.startStage n }
theorem witness_StageEnds_stages : inStage (inStageN 0) 0 = true ∧ inStage (inStageN 1) 1 = true ∧ inStage (inStageN 2) 2 = true ∧ inStage (inStageN 4) 4 = true := by decide
/-- Stage 0 of a module whose flash holds no verifying image. -/
def noImage : State := { inStageN 0 with flash := { fwA := { valid := false } } }
theorem witness_StageEnds_image : idPick ⟨true, false⟩ (inStageN 0).flash ≠ none ∧ fwPick (inStageN 0) ≠ none ∧ fwPick noImage = none ∧ inStage noImage 0 = true := by decide
theorem witness_StageEnds_ports : inStage { inStageN 3 with ghPorts := (List.range 16).map (fun p => (p, { left := true })) } 3 = true ∧
    (∀ p < 16, (portOf { inStageN 3 with ghPorts := (List.range 16).map (fun p => (p, { left := true })) } p).left = true) := by decide
theorem witness_StageEnds_limit : tbPast 8000000000 0 (stageLimit 4) = true ∧ inStage (inStageN 4) 4 = true ∧ pget (inStageN 4) P.alertStatus % 16 = 0 := by decide
theorem witness_FirmwareAndSelfTest : inStage (inStageN 4) 4 = true ∧ tget (fun _ => 0) (inStageN 4).start.digestTries 7 < 3 ∧
    inStage { inStageN 4 with start := { digestTries := [(7, 3)] } } 4 = true ∧ 3 ≤ tget (fun _ => 0) ({ digestTries := [(7, 3)] } : StartSt).digestTries 7 := by decide
/-- The digest that the running image has, and another one, in any state of stage 4. -/
theorem witness_FirmwareAndSelfTest_digest : ∃ d : List Byte, d ≠ Config.fwDigest (fwRunning (inStageN 4)).image :=
  ⟨0 :: Config.fwDigest (fwRunning (inStageN 4)).image, fun h => absurd (congrArg List.length h) (by simp)⟩
theorem witness_ClosedBridges : (islandOf { islands := [(5, { bridge := .draining })] } 5).bridge = .draining ∧ (islandOf { islands := [(5, { bridge := .closed })] } 5).bridge = .closed := by decide
/-- A device at full function whose slot 3 holds one shell. -/
def withShell (sh : Shell) : State := { inStageN 5 with start := { msf := true, islandsUp := true }, shells := [(3, sh)] }
theorem witness_ShellResetSteps : dictUp (withShell {}) = true ∧ (shellOf (withShell {}) 3).st = .free ∧
    dictUp (withShell { st := .idle }) = true ∧ (shellOf (withShell { st := .idle }) 3).st = .idle ∧ (shellOf (withShell { st := .idle }) 3).resetPhase = .none ∧
    (shellOf (withShell { st := .resetting, resetPhase := .draining }) 3).resetPhase = .draining ∧
    (shellOf (withShell { st := .resetting, resetPhase := .retraining }) 3).resetPhase = .retraining ∧
    (shellOf (withShell { st := .resetting, resetPhase := .zeroing }) 3).resetPhase = .zeroing ∧ (shellOf (withShell { st := .resetting, resetPhase := .zeroing }) 3).st = .resetting := by decide
theorem witness_IslandRecovery : pget (inStageN 3) P.startStage < 5 ∧ pget (inStageN 5) P.startStage = 5 ∧ tsorted (inStageN 5).islands = true ∧
    islandGated (inStageN 5) 2310 = false ∧ (islandOf (inStageN 5) 2310).st = .running ∧ (islandOf (inStageN 5) 2310).timeouts = 0 ∧
    (islandOf { inStageN 5 with islands := [(7, { bridge := .draining })] } 7).bridge = .draining := by decide
theorem witness_IslandRecovery_silent : (islandOf { inStageN 5 with islands := [(2304, { st := .inReset, forced := true })] } 2304).st = .inReset ∧
    (islandOf { inStageN 5 with islands := [(2304, { st := .inReset, forced := true })] } 2304).forced = true ∧ pget (inStageN 5) P.autoWarmStart = 1 ∧
    pget (pset (inStageN 5) P.autoWarmStart 0) P.autoWarmStart ≠ 1 := by decide
theorem witness_Dumps : dictUp (withShell {}) = true ∧ pget (withShell {}) P.dumpHold ≠ 1 ∧
    dictUp (pset { withShell {} with retained := { dump := some {} } } P.dumpHold 1) = true ∧ pget (pset { withShell {} with retained := { dump := some {} } } P.dumpHold 1) P.dumpHold = 1 ∧
    (pset { withShell {} with retained := { dump := some {} } } P.dumpHold 1).retained.dump ≠ none ∧
    ({ start := { dumping := some {} } } : State).start.dumping = some {} ∧ ({} : Dump).unreachable.contains 5 = false ∧ ({ unreachable := [5] } : Dump).unreachable.contains 5 = true := by decide
theorem witness_SafetyEvents : up.pins.inputGood = true ∧ Monitor.ringRail ≠ .md ∧ up.start.islandsUp = true ∧ seatShell up 7 = none ∧ lentOf up 7 = none ∧ seatUnavailable up 7 = false ∧
    sliceOwner up 49 = none ∧ sliceOwner { up with slices := [(49, 3)] } 49 = some 3 ∧ seatShell { up with shells := [(3, { st := .idle, rig := { seats := [7] } })] } 7 = some 3 ∧
    ({ ga := 128, data := [] } : DLine) ∈ (seatOf { up with seats := [(7, { core := { icache := [{ ga := 128, data := [] }] } })] } 7).core.icache ∧
    (seatOf { up with seats := [(7, { core := { dcache := [{ ga := 128, data := [] }] } })] } 7).core.dcache.find? (fun x => x.ga == 128) = some { ga := 128, data := [] } := by decide
/-- Slot 3 with a shell and RIG_STATUS `st`. -/
def rigging (sh : Shell) (st : Nat) : State := pset (withShell sh) (P.rigStatus 3) st
theorem witness_RigTransaction_commit : fullUp (rigging {} 0) = true ∧ pget (rigging {} 0) (P.rigStatus 3) = 0 ∧ (shellOf (rigging {} 0) 3).migs = [] ∧ (shellOf (rigging {} 0) 3).st = .free ∧
    pget (rigging {} 0) P.compositionMode ≠ 1 ∧ (shellOf (rigging { st := .idle, lastRigSeq := some 0 } 0) 3).lastRigSeq = some (stagedGet (rigging { st := .idle, lastRigSeq := some 0 } 0) (P.rigSeq 3)) ∧
    pget (rigging {} 2) (P.rigStatus 3) ≠ 0 := by decide
theorem witness_RigTransaction_check : pget (rigging { commit := some {} } 1) (P.rigStatus 3) = 1 ∧ (shellOf (rigging { commit := some {} } 1) 3).commit = some {} ∧
    commitCheck (rigging { commit := some {} } 1) 3 {} false ≠ 0 ∧ commitCheck (rigging { st := .idle, commit := some {} } 1) 3 {} false = 0 ∧ ({} : Commit).seatCount = 0 ∧
    pget (rigging { st := .running, commit := some {} } 2) (P.rigStatus 3) = 2 ∧ tbPast 50000000 0 (catchDeadline (rigging { st := .running, commit := some {} } 2) 3 * 1000000) = true := by decide
/-- A commit of one seat, number 5, for PF0. -/
def oneSeat : Commit := { seatCount := 1, rig := { seats := [5] }, scalars := [(P.seatPlacement 3, 1), (P.weight 3, 16), (P.powerWeight 3, 16)] }
theorem witness_RigTransaction_apply : commitCheck (rigging { st := .idle, commit := some oneSeat } 1) 3 oneSeat false = 0 ∧ oneSeat.seatCount ≠ 0 := by decide +kernel
theorem witness_RigTransaction_latch : commitCheck (rigging { st := .running, commit := some oneSeat } 1) 3 oneSeat false = 0 ∧ (shellOf (rigging { st := .running, commit := some oneSeat } 1) 3).st = .running ∧
    resolvedSeats (rigging { st := .running, commit := some oneSeat } 1) 3 oneSeat ≠ (shellOf (rigging { st := .running, commit := some oneSeat } 1) 3).rig.seats := by decide +kernel
theorem witness_SeatChange : (seatOf { seats := [(5, { mode := .run, core := { wait := .catchDrain } })] } 5).mode = .run ∧
    (seatOf { seats := [(5, { mode := .run, core := { wait := .catchDrain } })] } 5).core.wait = .catchDrain ∧
    (seatOf { seats := [(5, { mode := .run, core := { wait := .catchDrain } })] } 5).arr.queue = [] ∧ (seatOf { seats := [(5, { mode := .run, core := { wait := .catchDrain } })] } 5).arr.flight = [] ∧
    xferOpen (seatOf { seats := [(5, { mode := .run, core := { wait := .catchDrain } })] } 5) = 0 ∧ (seatOf { seats := [(5, { mode := .run, core := { wait := .catchDrain } })] } 5).core.stores = [] ∧
    (shellOf (rigging { st := .running, applying := true, commit := some oneSeat } 3) 3).commit = some oneSeat ∧ (shellOf (rigging { st := .running, applying := true, commit := some oneSeat } 3) 3).applying = true ∧
    pget (rigging { st := .running, applying := true, commit := some oneSeat } 3) (P.rigStatus 3) = 3 := by decide
theorem witness_MigrationCopies : Memory.wf (withShell { st := .idle, migs := [{ lch := 5, src := 11, dst := 40 }] }) = true ∧
    (shellOf (withShell { st := .idle, migs := [{ lch := 5, src := 11, dst := 40 }] }) 3).migs.find? (fun x => x.lch == 5 && !x.done) = some { lch := 5, src := 11, dst := 40 } ∧
    migMay (withShell { st := .idle, migs := [{ lch := 5, src := 11, dst := 40 }] }) 3 { lch := 5, src := 11, dst := 40 } = true := by decide
theorem witness_MigrationWaits : migMay (withShell { st := .idle, rig := { ({} : Rig) with channels := [40] }, migs := [{ lch := 5, src := 11, dst := 40 }] } |> (pset · (P.rigStatus 3) 2)) 3 { lch := 5, src := 11, dst := 40 } = false := by decide
theorem witness_Freeze : fullUp (pset (withShell {}) P.compositionMode 1) = true ∧ pget (pset (withShell {}) P.compositionMode 1) P.compositionMode = 1 ∧
    pget (withShell { st := .idle }) P.compositionMode ≠ 1 ∧ (shellOf (withShell { st := .running, job := some { ctx := 1, fn := 0, seq := 0 } }) 3).job ≠ none ∧
    imageSpanOk (pset (withShell { st := .frozen }) (P.imageTarget 3) 0x100000000000000) (pget (pset (withShell { st := .frozen }) (P.imageTarget 3) 0x100000000000000) (P.imageTarget 3))
      (saveBytes (pset (withShell { st := .frozen }) (P.imageTarget 3) 0x100000000000000) 3) = true ∧
    imageSpanOk (withShell { st := .frozen }) (pget (withShell { st := .frozen }) (P.imageTarget 3)) (saveBytes (withShell { st := .frozen }) 3) = false ∧
    (shellOf (withShell { st := .saved }) 3).restoring = false ∧ pget (withShell {}) (P.rigStatus 3) ≠ 1 ∧
    pget (pset (withShell {}) (P.rigStatus 3) 1) (P.rigStatus 3) = 1 ∧ inHostWindow (pget (pset (withShell { st := .saved }) (P.imageTarget 3) 0x100000000000000) (P.imageTarget 3)) = true ∧
    inHostWindow (pget (withShell { st := .saved }) (P.imageTarget 3)) = false ∧
    launchQueued (withShell { st := .idle }) 3 = false ∧ (shellOf (withShell { st := .idle, loading := true }) 3).loading = true ∧ (shellOf (withShell { st := .idle, loading := true }) 3).job = none ∧
    (shellOf (withShell { st := .running, loading := true }) 3).st ≠ .saved ∧ (shellOf (withShell { st := .running, loading := true }) 3).loading = true := by decide +kernel
/-- A saved shell whose IMAGE_TARGET lies in the host window. -/
def savedInHost : State := pset (withShell { st := .saved }) (P.imageTarget 3) 0x100000000000000
theorem witness_Freeze_code : imageCode savedInHost 3 (targetHeader savedInHost 3 []) (targetImage savedInHost 3 []).2 ≠ 0 := by
  have h : headerOk (targetHeader savedInHost 3 []) = false := by decide +kernel
  unfold imageCode; rw [h]; simp
theorem witness_ScrubsAndMeters : ({ scrubSeats := [5] } : State).scrubSeats.contains 5 = true ∧ seatShell { scrubSeats := [5] } 5 = none ∧
    ({ scrubChans := [40] } : State).scrubChans.contains 40 = true ∧ (chanOf { scrubChans := [40] } 40).st ≠ .retirePending ∧
    (∀ n < 32, (shellOf { scrubChans := [40] } n).rig.channels.contains 40 = false) ∧ up.start.msf = true ∧
    (shellOf (withShell { st := .idle }) 3).st ≠ .free ∧ (shellOf (withShell { st := .idle }) 4).st = .free := by decide
theorem witness_FretSumsAreExact : (([[3, -5], [7]] : List (List Int)).flatten.map Int.natAbs).sum < 2 ^ 127 - 2 ^ 112 := by decide
theorem witness_FretOrderIsFree : ([.units 3, .special 1, .units (-4)] : List Term).Perm [.special 1, .units (-4), .units 3] ∧
    (∀ t ∈ ([.units 3, .special 1, .units (-4)] : List Term), ∀ k, t = .special k → 1 ≤ k ∧ k ≤ 4) ∧
    (([.units 3, .special 1, .units (-4)] : List Term).map (fun t => match t with | .units q => q.natAbs | .special _ => 0)).sum < 2 ^ 127 - 2 ^ 112 := by
  refine ⟨by decide, ?_, by decide⟩
  intro t h k hk
  subst hk
  simp only [List.mem_cons, reduceCtorEq, Term.special.injEq, false_or, List.not_mem_nil, or_false] at h
  omega
/-- Seat 5 with one descriptor in its array-op queue. -/
def seatWithOp (d : Nat) : State := { seats := [(5, { mode := .run, arr := { queue := [{ desc := d }], banks := [(0, { levels := 16 })], accepted := 1 } })] }
/-- Descriptors of ORIGIN, CMP_LOADT, MMA, CMP, CONV, REQ and LOADW on fret base 0. -/
def opDesc (op : Nat) : Nat :=
  op * 2 ^ 122 + (match op with
    | 5 => 7 * 2 ^ 106
    | 8 => 8 * 2 ^ 31
    | 1 => 2 ^ 30 + 2 ^ 29 + 2 ^ 31
    | 9 => 2 ^ 30 + 2 ^ 29 + 2 ^ 31
    | 4 => 2 * 2 ^ 110 + 2 ^ 29 + 31 * 2 ^ 10
    | 3 => 6 * 2 ^ 110 + 2 ^ 30 + 2 ^ 29
    | _ => 2 ^ 29)
theorem witness_ArrayOpsStart : ([1, 2, 3, 4, 5, 8, 9].all (fun op => opFormatOk (seatWithOp (opDesc op)) 5 false (opDesc op) && dOp (opDesc op) == op
    && (seatOf (seatWithOp (opDesc op)) 5).arr.queue == [{ desc := opDesc op }] && !seatLevel1 (seatWithOp (opDesc op)) 5)) = true := by decide +kernel
theorem witness_MmaCells : dTile (opDesc 1) < 12 ∧ dFret (opDesc 1) = true := by decide
theorem witness_ArrayRetire : (seatOf (seatWithOp 0) 5).arr.queue = [{ desc := 0 }] ∧ opFormatOk (seatWithOp 0) 5 false 0 = false ∧ seatLevel1 (seatWithOp 0) 5 = false ∧ opKnown (dOp 0) = false ∧
    (seatOf { seats := [(5, { arr := { flight := [{ op := { desc := opDesc 1 } }] } })] } 5).arr.flight = [{ op := { desc := opDesc 1 } }] ∧
    dPegEn (opDesc 1) = false ∧ dPegEn (opDesc 1 + 2 ^ 26) = true ∧ dOp (opDesc 1 + 2 ^ 26) ≠ 5 := by decide
theorem witness_ArrayChecks : (seatOf { seats := [(5, { arr := { flight := [{ op := { desc := opDesc 2 }, wantsConv := true }], merged := [3] } })] } 5).arr.flight = [{ op := { desc := opDesc 2 }, wantsConv := true }] ∧
    dOp (opDesc 2) = 2 ∧ dOp (opDesc 1) = 1 ∧ dK (opDesc 1) ≠ 0 ∧ 3 ∈ (seatOf { seats := [(5, { arr := { merged := [3] } })] } 5).arr.merged ∧
    (∀ r < 16, (guardRow (seatOf { seats := [(5, { arr := { merged := [3] } })] } 5).arr 3 r false).1 = true) ∧
    (guardCheck (seatOf { seats := [(5, {})] } 5).arr (opDesc 1)).1 = true := by decide +kernel
/-- Seat 5 runs user code in its scratchpad with the given core. -/
def running (c : Core) : State := { seats := [(5, { mode := .run, core := { c with user := true, pc := 0x8000000000000000 } })] }
theorem witness_CoreOwnScratchpad : CoreReady (running { x := [(1, 0x8000000000000100)] }) 5 4 (running { x := [(1, 0x8000000000000100)] }) ∧ CoreReady (running {}) 5 2 (running {}) ∧
    (0x8000000000000100 : Nat) / 2 ^ 57 = 0x40 ∧ (0x8000000000000100 : Nat) % 2 ^ 57 + 8 ≤ scratchBytes ∧
    (xGet (seatOf (running { x := [(1, 0x8000000000000100)] }) 5).core 1 + sextW 12 0) % 2 ^ 64 = 0x8000000000000100 ∧
    (0x800000000017FFF8 : Nat) / 2 ^ 57 = 0x40 ∧ (0x800000000017FFF8 : Nat) % 2 ^ 57 + 8 ≤ scratchBytes := by
  refine ⟨⟨by decide, by decide, by decide, by decide⟩, ⟨by decide, by decide, by decide, by decide⟩, by decide, by decide, by decide, by decide, by decide⟩
theorem witness_CoreElsewhere : CoreReady (running { x := [(1, 0x1000)] }) 5 4 (running { x := [(1, 0x1000)] }) ∧ (0x1000 : Nat) / 2 ^ 57 ≠ 0x40 ∧ (0x1000 : Nat) % 8 = 0 ∧ (0x1001 : Nat) % 8 ≠ 0 ∧
    coreAddr (running { x := [(1, 0x1000)] }) 5 0x1000 8 .read = .fault ∧ coreAddr { borrowed := [] } 5 0x1000 8 .write = .fault ∧
    (seatOf (running { wait := .load 3 8 false false 0x1000 0x210000000000 }) 5).core.wait = .load 3 8 false false 0x1000 0x210000000000 ∧ cacheable 0x210000000000 = false ∧
    coreUnanswered (running { wait := .load 3 8 false false 0x1000 0x210000000000 }) 5 0x210000000000 (corePlace (running { wait := .load 3 8 false false 0x1000 0x210000000000 }) 5 0x210000000000 8) = false ∧
    placeAnswers (running {}) 5 (corePlace (running {}) 5 0 8) = true ∧
    (seatOf (running { stores := [{ va := 0, ga := 0 }] }) 5).core.stores = [{ va := 0, ga := 0 }] ∧ (seatOf (running {}) 5).mode = .run := by
  refine ⟨⟨by decide, by decide, by decide, by decide⟩, by decide, by decide, by decide, by decide, by decide, by decide, by decide, by decide, by decide⟩
theorem witness_CoreInstructions : CoreReady (running {}) 5 4 (running {}) ∧ CoreReady (running {}) 5 2 (running {}) ∧ (computeRun {} 4 (.lui 3 5)).isSome = true ∧ computeRun {} 4 .illegal = none ∧
    csrRead (running { sig := 7 }) 5 0xCC8 false = some 7 ∧ csrWrite {} 5 0xCC8 0 false = none ∧ (csrWrite {} 5 0x800 9 false).isSome = true ∧ csrRead (running {}) 5 0x300 false = none ∧
    (islandNow { up with seats := [(5, { core := { x := [(1, 5000)] } })] } 5).st = .running ∧ xGet (seatOf { up with seats := [(5, { core := { x := [(1, 5000)] } })] } 5).core 1 = 5000 ∧
    (∀ l ∈ (seatOf (running {}) 5).core.dcache, l.dirty = false) ∧ seatShell (running {}) 5 = none ∧
    (seatOf { running { } with tb := 500000 } 5).core.wdog ≤ wdCount { running {} with tb := 500000 } (seatOf { running { } with tb := 500000 } 5).core ∧ wdHolds CoreWait.none = false := by
  refine ⟨⟨by decide, by decide, by decide, by decide⟩, ⟨by decide, by decide, by decide, by decide⟩, by decide, by decide, by decide, by decide, by decide, by decide, by decide, by decide, by decide, by decide⟩
theorem witness_CoreInstructions_debug : seatShell { shells := [(3, { st := .running, debugOpen := true, rig := { seats := [5] } })] } 5 = some 3 ∧
    (shellOf { shells := [(3, { st := .running, debugOpen := true, rig := { seats := [5] } })] } 3).debugOpen = true := by decide
theorem witness_ArrayInstructions : CoreReady (running {}) 5 4 (running {}) ∧ arrOpen (seatOf (running {}) 5).arr < 16 ∧ (seatOf (running {}) 5).arr.stopped = false ∧
    16 ≤ arrOpen { queue := List.replicate 16 { desc := 0 } } ∧ arrOpen { flight := [{ op := { desc := 0 } }] } ≤ 1 ∧ 0 < arrOpen { flight := [{ op := { desc := 0 } }] } ∧
    (seatOf (running { wait := .issue 7 }) 5).core.wait = .issue 7 ∧ (seatOf (running { wait := .arrWait 1 }) 5).core.wait = .arrWait 1 := by
  refine ⟨⟨by decide, by decide, by decide, by decide⟩, by decide, by decide, by decide, by decide, by decide, by decide, by decide⟩
theorem witness_PegAndFenceInstructions : CoreReady (running { x := [(1, 5)] }) 5 4 (running { x := [(1, 5)] }) ∧ CoreReady (running { x := [(1, 2 ^ 50)] }) 5 4 (running { x := [(1, 2 ^ 50)] }) ∧
    lowestPeg 4 5 = some 2 ∧ lowestPeg 8 5 = none ∧ (seatOf (running {}) 5).lentFrom = none ∧
    (seatOf (running { wait := .peg 0 3 true false false 0 0 }) 5).core.wait = .peg 0 3 true false false 0 0 ∧
    (seatOf (running { wait := .fence 2 2 0 0 false }) 5).core.wait = .fence 2 2 0 0 false ∧ (seatOf (running {}) 5).core.stores = [] ∧
    bitsOf (vzseatid { shells := [(3, { st := .running, rig := { seats := [5] } })] } 5) 47 32 = 1 := by
  refine ⟨⟨by decide, by decide, by decide, by decide⟩, ⟨by decide, by decide, by decide, by decide⟩, by decide, by decide, by decide, by decide, by decide, by decide, by decide⟩
theorem witness_TransferWindowSignature : CoreReady (running { x := [(1, 0x140)] }) 5 4 (running { x := [(1, 0x140)] }) ∧ CoreReady (running { x := [(1, 2 ^ 50)] }) 5 4 (running { x := [(1, 2 ^ 50)] }) ∧ 0x140 % 64 = 0 ∧ 0x140 + 64 ≤ scratchBytes ∧
    xferOpen (seatOf (running {}) 5) < 32 ∧ 32 ≤ xferOpen { xfers := List.replicate 32 { ticket := 0, desc := 0 } } ∧ (seatOf (running { wait := .submit 3 64 }) 5).core.wait = .submit 3 64 ∧
    ([{ ticket := 0, desc := 0 }] : List Xfer).find? (fun y => y.ticket == 0 % 2 ^ 32) = some { ticket := 0, desc := 0 } ∧ 32 * (0xC000 : Nat) ≤ scratchBytes ∧ scratchBytes < 32 * (1 + 0xC000) := by
  refine ⟨⟨by decide, by decide, by decide, by decide⟩, ⟨by decide, by decide, by decide, by decide⟩, by decide, by decide, by decide, by decide, by decide, by decide, by decide, by decide⟩
theorem witness_CatchAndEnd : CoreReady (running { x := [(1, 0)] }) 5 4 (running { x := [(1, 0)] }) ∧ catchFormatOk 0 = true ∧ catchFormatOk (2 ^ 63) = false ∧ latchedAt (running {}) 5 1 = false ∧
    (seatOf (running { wait := .endDrain 1 }) 5).core.wait = .endDrain 1 ∧ seatDrained (seatOf (running {}) 5) = true ∧ seatDrained { xfers := [{ ticket := 0, desc := 0 }] } = false ∧ seatShell (running {}) 5 = none ∧
    latchedAt { shells := [(3, { st := .running, rig := { seats := [5] }, commit := some { oneSeat with atCatch := some 1 } })], regs := [(P.rigStatus 3, 2)] } 5 1 = true := by
  refine ⟨⟨by decide, by decide, by decide, by decide⟩, by decide, by decide, by decide, by decide, by decide, by decide, by decide, by decide⟩
/-- Slot 3 holds seat 5 and channel 7, powered. -/
def holding : State := { pins := { inputGood := true }, start := { islandsUp := true }, shells := [(3, { st := .running, rig := { seats := [5], channels := [7] } })], chans := [(7, { st := .trained })] }
theorem witness_Packets : place holding 5 (some 3) (7 * 0x80000000) 8 = .cell (7 * 0x80000000) (some 7) none ∧ placeAnswers holding 5 (.cell (7 * 0x80000000) (some 7) none) = true ∧
    windowOf (7 * 0x80000000) = none ∧ windowOf 0x700000000000 = none ∧ place holding 5 (some 3) 0x700000000000 8 = .no stNoTarget ∧
    windowOf (0x300000000000 + 3 * 0x2000000000) = some (3, 0, 0) ∧ 0 < shellSeats (shellOf holding 3) ∧
    placeVia holding 7 3 (shellOf holding 3).windows 0 0 8 = .scratch 5 0 ∧ placeAnswers holding 7 (.scratch 5 0) = true ∧
    (placeAtomic holding (.scratch 5 0) 8 .add 1 {}).2.1 = stOk ∧ winAllows (seatOf holding 5).core 0 8 1 = true ∧
    placeVia holding 7 3 (shellOf holding 3).windows 0 (0x1C0000 + 8 * 2) 8 = .peg 5 2 ∧
    placePhysical holding 2352 (0x210000000000 + 5 * 0x200000) 8 = .scratch 5 0 ∧ holding.upstream = [] ∧ stuck holding 7 5 0 = false ∧ stuck holding 7 5 3 = false ∧ placeStuck holding 5 (.cell (7 * 0x80000000) (some 7) none) = false ∧ blockedAt holding 2352 5 = none ∧
    pget { regs := [(P.startStage, 4)] } P.startStage = 4 := by decide +kernel
theorem witness_Packets_hold : tget (fun _ => 0) (seatOf { seats := [(5, { reqSeen := [(7, 1)] })] } 5).reqSeen 7 < 2 ∧ 1 ≤ tget (fun _ => 0) (seatOf { seats := [(5, { reqSeen := [(7, 1)] })] } 5).reqSeen 7 ∧
    (seatOf { seats := [(5, { pegHold := [{ src := 7, after := 1, peg := 3, value := true }] })] } 5).pegHold = [{ src := 7, after := 1, peg := 3, value := true }] ∧
    32 ≤ (List.replicate 32 ({ src := 7, after := 1, peg := 3, value := true } : HeldPeg)).length := by decide
/-- A packet of one contribution toward group 1 of slot 3, and the arm it meets. -/
def redPacket : RedPkt := { slot := 3, group := 1, lseat := 0, first := 0, fret := true, base := 0, words := [1, 2, 3, 4], src := [.xfer 9 0], origins := [(9, 0)] }
def redArm : RedGroup := { shell := 3, group := 1, tile := 2, first := 0, count := 4, expected := 2, peg := 7, fretBase := 0, fret := true, ticket := 0 }
def redState (p : RedPkt) (g : RedGroup) : State :=
  { start := { islandsUp := true }, red := [p], shells := [(3, { st := .running, rig := { seats := [5] } })], seats := [(5, { mode := .run, groups := [g] })] }
/-- The packet on its way to node 2304, and one of seat 10 that is held there. -/
def redPair : State := { red := [{ redPacket with route := [2304] }, { redPacket with node := some 2304, src := [.xfer 10 0], origins := [(10, 0)] }] }
theorem witness_UnisonAdd : redPair.red[0]? = some { redPacket with route := [2304] } ∧ (∀ x ∈ redPair.red, redBefore x { redPacket with route := [2304] } = false) ∧
    redPair.red.findIdx? (fun q => q.node == some 2304 && redMatch q redPacket) = some 1 ∧
    (∀ x ∈ redPair.red, redBefore x (redCombine { redPacket with node := some 2304, src := [.xfer 10 0], origins := [(10, 0)] } { redPacket with route := [2304] }) = false) ∧
    ([{ redPacket with route := [2304] }] : List RedPkt).findIdx? (fun q => q.node == some 2304 && redMatch q redPacket) = none ∧
    redBefore { redPacket with route := [2304, 2305] } { redPacket with route := [2304], origins := [(9, 1)] } = true ∧
    (redState redPacket redArm).red[0]? = some redPacket ∧ redPacket.node = none ∧ redPacket.route = [] ∧ (∀ x ∈ (redState redPacket redArm).red, redBefore x redPacket = false) ∧
    redTo (redState redPacket redArm) redPacket = .seat 5 ∧ (∀ a ∈ redPacket.origins, blockedAt (redState redPacket redArm) a.1 5 = none ∧ stuck { redState redPacket redArm with red := [] } a.1 5 2 = false) ∧
    blockedAt { redState redPacket redArm with islands := [(5, { bridge := .closed })] } 9 5 = some 5 := by decide +kernel
theorem witness_UnisonAdd_ends : redTo { shells := [(3, { st := .running, rig := { seats := [5] }, holds := [0] })] } redPacket = .hold 0 ∧ holdRoom {} 0 1 = true ∧
    redTo {} redPacket = .no stNoTarget ∧
    (redTo { ghPorts := [(2, { st := 3, peer := 9 })], lent := [{ id := 7, borrower := 9, epoch := 1, kind := 1, res := [9], ports := [2] }] } { redPacket with dest := none, slot := lentSlot 7 } = .far 2 9 7 0) ∧
    answers { start := { islandsUp := true } } 5 9 = true ∧
    (seatOf (redState redPacket redArm) 5).groups.find? (fun g => g.shell == redPacket.slot && g.group == redPacket.group) = some redArm ∧
    redArm.refused = false ∧ redArm.got + redPacket.weight < redArm.expected ∧ xferFind (redState redPacket redArm) 5 0 = none ∧ redArm.fretBase ≠ ({ redPacket with base := 1 } : RedPkt).base := by decide +kernel
theorem witness_TimeoutsAndLinks : (seatOf { tb := 20000000, seats := [(5, { core := { wait := .load 3 8 false false 0 0 } })] } 5).core.wait = .load 3 8 false false 0 0 ∧
    timedInside {} 0 = true ∧ timedInside {} 0x100000000000000 = false ∧ inHold {} 0 0 = false ∧ inHold { shells := [(3, { holds := [0] })] } 5 (0x300000000000 + 3 * 0x2000000000) = true ∧
    inHostWindow 0x100000000000000 = true ∧ inHostWindow 0 = false ∧ tbPast 20000000 0 100000 = true ∧ tbPast 20000000 0 10000000 = true ∧ tbPast 0 0 100000 = false ∧
    bitOf (pget {} P.linkFailedMask) 3 = false ∧ bitOf (pget { regs := [(P.linkFailedMask, 8)] } P.linkFailedMask) 3 = true ∧ recovering { regs := [(P.startStage, 2)] } = true ∧ recovering { regs := [(P.startStage, 5)] } = false ∧
    (seatOf (running { stores := [{ va := 0, ga := 0 }] }) 5).core.stores = [{ va := 0, ga := 0 }] := by decide +kernel
/-- Seat 5 of slot 3 runs a job with the given transfer. -/
def transferring (x : Xfer) (c : Core) : State :=
  { shells := [(3, { st := .running, rig := { seats := [5] }, job := some { ctx := 1, fn := 0, seq := 0 } })], seats := [(5, { mode := .run, core := { c with user := true }, xfers := [x] })], ctxs := [(1, {})] }
theorem witness_TimeoutsAndLinks_transfer : xferFind (transferring { ticket := 0, desc := 0, st := .active, unacked := 1 } {}) 5 0 = some { ticket := 0, desc := 0, st := .active, unacked := 1 } ∧
    (xEnv (transferring { ticket := 0, desc := 0, st := .active, unacked := 1 } {}) 5).isSome = true := by decide +kernel
theorem witness_ChannelAccess : chanUsable holding 7 = true ∧ holding.start.islandsUp = true ∧ 64 * (5 : Nat) < chanBytes ∧ (chanOf holding 7).poison.contains 5 = false ∧ chanWrong holding 7 5 {} = false ∧
    chanWrong holding 7 5 { error := .double } = true ∧ chanWrong holding 7 5 { tag := some 4 } = true ∧ chanWrong holding 7 5 { tag := some 5 } = false ∧
    (chanOf { chans := [(7, { st := .trained, poison := [5] })] } 7).poison.contains 5 = true ∧
    tbPast 50000000 (chanOf holding 7).tbTrack 50000000 = true ∧ tbPast 0 (chanOf holding 7).tbTrack 50000000 = false ∧ (0x7BFFFFC0 : Nat) + 64 ≤ chanBytes := by decide +kernel
theorem witness_ChannelStates_up : holding.start.islandsUp = true := by decide
theorem witness_ChannelStates : fullUp { start := { msf := true }, regs := [(P.startStage, 5)], chans := [(7, { st := .trained }), (8, { st := .failed })] } = true ∧ chanFree { start := { msf := true }, chans := [(7, { st := .trained })] } 7 = true ∧
    (chanOf {} 9).st = .untrained ∧ pget { regs := [(P.startStage, 2)] } P.startStage = 2 ∧ (chanOf { chans := [(7, { st := .trained })] } 7).st = .trained := by decide +kernel
theorem witness_CxlRangesAndPorts : fullUp (withShell {}) = true ∧ ({ start := { msf := true }, cxlRun := some {} } : State).cxlRun ≠ none ∧ cxlCode { cxlRun := some {} } [2 ^ 250] ≠ 0 ∧ cxlCode {} [] = 0 ∧
    (rngChanged {} []).filter (fun i => rngEnable (([] : List Nat).getD i 0)) = [] ∧ rngOnPort (2 ^ 255) 0 = true ∧ bitOf 1 0 = true ∧ (∀ p < 8, bitOf (1 : Nat) p = true → ∀ i < 16, rngOnPort (rngOf {} i) p = false) ∧
    (cxlPortOf { cxlPorts := [(2, { scanning := true, up := true, enumerated := true })] } 2).scanning = true ∧ (cxlPortOf { cxlPorts := [(2, { scanning := true, up := true, enumerated := true })] } 2).enumerated = true ∧ (islandOf { cxlPorts := [(2, { scanning := true, up := true, enumerated := true })] } 2346).st ≠ .inReset ∧
    (3 ∈ ({ cxlScrub := [3], regs := [(P.cxlRangeState 3, 1)] } : State).cxlScrub) ∧ pget { cxlScrub := [3], regs := [(P.cxlRangeState 3, 1)] } (P.cxlRangeState 3) = 1 := by decide +kernel
theorem witness_CxlRangesAndPorts_waits : cxlWaits { seats := [(5, { core := { wait := .load 3 8 false false 0 0x100000000000 } })], cxlPorts := [(0, { up := true })], cxlRanges := [(0, 2 ^ 255 + 2 ^ 206)] } 0 0 (.core 5) = true ∧
    cxlWaits { tb := 4000000, seats := [(5, { core := { wait := .load 3 8 false false 0 0x100000000000 } })], cxlRanges := [(0, 2 ^ 255 + 2 ^ 206)] } 0 4000000 (.core 5) = true ∧
    cxlWaits {} 0 4000000 (.core 5) = false := by decide +kernel
theorem witness_CxlRangesAndPorts_pass : cxlCode { cxlPorts := [(0, { enumerated := true, devs := [{ index := 0, type := 3, units := 8 }] })], shells := [(3, { st := .idle })] } [2 ^ 255 + 3 * 2 ^ 242 + 2 ^ 206] = 0 ∧
    (rngChanged { cxlPorts := [] } [2 ^ 255 + 3 * 2 ^ 242 + 2 ^ 206]).filter (fun i => rngEnable ([2 ^ 255 + 3 * 2 ^ 242 + 2 ^ 206].getD i 0)) = [0] := by decide +kernel
theorem witness_Regulation : (3 ∈ ({ tb := 100000000, scaleHold := [3] } : State).scaleHold) ∧ tbPast 100000000 (tget (fun _ => 0) ({ tb := 100000000, scaleHold := [3] } : State).tbCapacity 3) 100000000 = true ∧
    (shellOf holding 3).st ≠ .free ∧ effMin holding 3 3 * 10 ≤ 0 ∧ (0 : Nat) < effMin { holding with regs := [(P.minHost 3, 10)] } 3 3 * 10 ∧
    pget {} P.pacingEnable = 0 ∧ windowHeld holding = false ∧ windowHeld { tbHold := some 0 } = true ∧ paced holding 3 3 0 = 0 ∧ pget { regs := [(P.pacingEnable, 1)] } P.pacingEnable ≠ 0 ∧ liveShells holding ≠ [] := by decide +kernel
theorem witness_RangeUpdates : fnUp { start := { msf := true } } 0 = true ∧ drainOpen {} 1 [] = false ∧ respRoom (fnOf {} 0) = true ∧ (ctxOf { ctxs := [(1, { st := .live })] } 1).st = .live ∧
    (slotOf {} 3).st = .empty ∧ serialCmp 1 2 = .newer ∧ serialCmp 2 1 = .older ∧ serialCmp 0 (2 ^ 31) = .outside ∧ serialCmp 5 5 = .equal ∧
    (slotOf { entries := [(3, { st := .valid })] } 3).st = .valid ∧ entGen 0 = 0 ∧ (slotOf { entries := [(3, { st := .fetching })] } 3).st = .fetching ∧ (slotOf { entries := [(3, { st := .draining })] } 3).st = .draining ∧
    entryCode {} 1 3 0 0 = 0x0308 ∧ entKind 0 = 0 := by decide
theorem witness_FaultConversation : fnUp { start := { msf := true } } 0 = true ∧ respRoom (fnOf {} 0) = true ∧ serialDist 1 1 = 0 ∧ serialDist 1 2 = 1 ∧ serialDist 3 2 = 2 ^ 32 - 1 ∧
    (ctxOf { ctxs := [(1, { st := .live, fault := { st := .delivered, lastBatch := 1 } })] } 1).fault.st = .delivered ∧ (ctxOf { ctxs := [(1, { st := .live, fault := { st := .collecting } })] } 1).fault.st = .collecting ∧
    tbPast 20000 0 (20 * 1000) = true ∧ tbPast 19999 0 (20 * 1000) = false ∧ tbPast 100000000 0 (100 * 1000000) = true ∧ ((5 + 1024 - 0 % 1024) % 1024 : Nat) = 5 := by decide
/-- Context 1 has a fence word in the host window, through an ATS entry. -/
def atsFence : State := { ctxs := [(1, { st := .live, entries := [(0, { st := .valid, entry := 4 * 2 ^ 204 + 15 * 2 ^ 200 + 1 * 2 ^ 151 + 1 * 2 ^ 106 + 5 })], fences := [(0, some { va := 0x1000, ga := 0x100000000005000, promised := 0, kept := 0, w := 0 })] })] }
theorem witness_RegisterWrites : fnUp { start := { msf := true } } 0 = true ∧ regMask 0x58 = none ∧ regMask 0x50 = some (2 ^ 64 - 1) ∧ regMask 0x08 = some 1 ∧ ctxLive {} 0 = 0 ∧
    ctxLive { ctxs := [(1, { st := .live })] } 0 = 1 ∧ bitOf (fnGet { fnRegs := [(0x1800, 4)] } 0 0x1800) 2 = true ∧ ((0x102C - 0x1000) / 16 : Nat) = 2 ∧ sliceOwner { slices := [(49, 33)] } (1 * 48 + 1) = some 33 ∧ sliceOwner {} 49 ≠ some 33 ∧
    translatePins atsFence 1 [] 0x1000 .atomic = .ats 0 5 ∧ frontUp atsFence = true := by decide +kernel
/-- Seat 5 of slot 3 runs a job of context 1 with a fence advance waiting for its CompareAndSwap. -/
def casWaiting : State := transferring { ticket := 7, desc := 6 * 2 ^ 60, st := .active, casValue := some 0 } {}
theorem witness_Transfers : xferFind casWaiting 5 7 = some { ticket := 7, desc := 6 * 2 ^ 60, st := .active, casValue := some 0 } ∧ (xEnv casWaiting 5).isSome = true ∧ (walkers casWaiting 5).length < 4 ∧ (seatOf casWaiting 5).mode = .run ∧
    earlierStarted casWaiting 5 7 = true ∧ xfKind (6 * 2 ^ 60) = 6 ∧ xfFormatOk (2 * 2 ^ 60 + 3 * 2 ^ 56 + 2 ^ 53 + 1 + 2 ^ 63 * 2 ^ 128) false = true ∧ xfFormatOk 0 false = false ∧ wkeyLatch {} { shell := some 0 } (2 ^ 25) = none := by decide +kernel
/-- Full function, with nothing rigged. -/
def serving : State := { start := { msf := true }, regs := [(P.startStage, 5)] }
theorem witness_ContextCommands : fnUp serving 0 = true ∧ ctxCreateCode serving 0 = 0 ∧ fnGet serving 0 0x28 = 0 ∧ (fnOf serving 0).cmd = none ∧ pget serving P.startStage = 5 ∧ bitsOf 0x100000001 7 4 = 0 ∧
    bitsOf 0x100000001 31 16 = 0 ∧ bitsOf 0x100000001 15 8 = 0 ∧ ctxLive serving 0 < pget serving (P.ctxQuota 0) ∧ ctxTotal serving < pget serving P.contextsMax ∧ serialCmp 1 1 = .equal ∧
    fnGet { fnRegs := [(0x28, 1)] } 0 0x28 = 1 ∧ serving.nextCtxId ≤ 65536 := by decide +kernel
theorem witness_ContextCommands_states : (ctxOf { ctxs := [(1, { st := .live })] } 1).st = .live ∧ (ctxOf { ctxs := [(1, { st := .destroying, destroySeq := some 4 })] } 1).destroySeq = some 4 ∧
    ctxHasLinks {} 1 = false ∧ sprintSlots {} (fun p => p.st != .unbound && p.ctx == 1) = [] ∧ tget (fun _ => none) (ctxOf { ctxs := [(1, { fences := [(7, some { va := 8, ga := 8, promised := 2, kept := 2, w := 2 })] })] } 1).fences 7 =
      some { va := 8, ga := 8, promised := 2, kept := 2, w := 2 } := by decide +kernel
theorem witness_ContextCommands_descriptor : let w := 6 * 2 ^ 251 + (6 * 2 ^ 78 + 2 ^ 19) * 2 ^ 256
    leNat ((leBytes 64 w).take 64) = w ∧ bitsOf w 244 243 = 0 ∧ bitsOf w 239 0 = 0 ∧ bitsOf w 255 251 = 6 ∧ bitsOf (bitsOf w 383 256) 82 78 = 6 ∧ bitsOf (bitsOf w 383 256) 71 19 * 8 ≠ 0 ∧
      bitOf (bitsOf w 383 256) 83 = false ∧ bitsOf (bitsOf w 383 256) 127 84 * 4096 % (64 * 2 ^ 6) = 0 ∧ bitsOf (bitsOf w 383 256) 77 72 = 0 := by decide +kernel
theorem witness_FunctionsAndDeliveries : fnUp { start := { msf := true } } 0 = true ∧ fnUp {} 0 = false ∧ ({} : State).numVfs = 0 ∧ ctxsOf {} 0 = [] ∧ serialDist 0 0 ≤ serialDist 0 0 ∧ serialDist 0 0 < serialDist 0 1 ∧
    (ctxOf { ctxs := [(1, { st := .live, crWritten := 4 })] } 1).crWritten = 4 ∧ bitOf (fnGet { fnRegs := [(0x100C, 0)] } 0 (0x1000 + 16 * 0 + 12)) 0 = false ∧
    (([{ id := 3, ctx := 1, fn := 0, addr := 0, data := [] }] : List Dmwr).find? (fun d => d.id == 3 && !d.waiting)).isSome = true ∧
    (([{ id := 3, ctx := 1, fn := 0, addr := 0, data := [], waiting := true }] : List Dmwr).find? (fun d => d.id == 3 && d.waiting)).isSome = true ∧
    tbPast 10000 0 10000 = true ∧ tbPast 9999 0 10000 = false ∧ tbPast 10000000 0 10000000 = true ∧ tbPast 1000 0 1000 = true := by decide
theorem witness_QueueFront : pget serving P.startStage = 5 ∧ serialCmp 0 1 = .newer ∧ serialDist 0 1 ≤ 2 ^ 6 ∧ serialCmp 1 0 = .older ∧
    (ctxOf { ctxs := [(1, { st := .live, resident := true, tail := 1 })] } 1).head ≠ (ctxOf { ctxs := [(1, { st := .live, resident := true, tail := 1 })] } 1).tail ∧
    bitsOf (leNat ((leBytes 64 0).take 64)) 31 0 = 0 ∧ (leBytes 64 0).length = 64 ∧ slotCode {} (parseSlot (leBytes 64 0) 0 none) {} = 0 ∧ slotCode {} (parseSlot (leBytes 64 (3 * 2 ^ 56)) 0 none) {} = 0x0A20 ∧ serialDist 0 1 ≠ 0 ∧ fnUp serving 0 = true ∧
    vaRead {} false 1 0 8 .failed = ({}, .fault) ∧ translate {} 1 0 .read = none ∧ hasRecord 0 none = false := by decide +kernel
theorem witness_QueueFront_waits : (ctxOf { ctxs := [(1, { st := .live, cmds := [{ seq := 0, opcode := 0, waitEn := true, phase := .validated }] })] } 1).cmds =
    [{ seq := 0, opcode := 0, waitEn := true, phase := .validated }] ∧ (ctxOf { ctxs := [(1, { st := .live, headWbDue := true, retrying := true })] } 1).headWbDue = true := by decide +kernel
/-- Context 1 has a ready command of an opcode at its head. -/
def ready (op : Nat) : State := { ctxs := [(1, { st := .live, resident := true, cmds := [{ seq := 0, opcode := op, phase := .validated, payload := 2 ^ 176 }] })] }
theorem witness_CommandsStart : headReady (ctxOf (ready 0) 1) { seq := 0, opcode := 0, phase := .validated, payload := 2 ^ 176 } = true ∧
    headReady (ctxOf (ready 2) 1) { seq := 0, opcode := 2, phase := .validated } = true ∧ headReady (ctxOf (ready 0x11) 1) { seq := 0, opcode := 0x11, phase := .validated } = true ∧
    headReady {} { seq := 0, opcode := 0 } = false ∧ startableLaunch (ctxOf (ready 0) 1) = none ∧ (startableLaunch (ctxOf (ready 1) 1)).isSome = true ∧ translate {} 1 0 .read = none ∧
    QCmd.pl { seq := 0, opcode := 0x11, payload := 2 ^ 176 } 447 432 = 1 ∧
    launchCode {} {} { seq := 0, opcode := 1 } (parseLaunch [] 0) = 0x0A25 ∧ (parseLaunch [] 0).pinCount = 0 := by decide +kernel
theorem witness_CommandsStart_launch : let s : State := { ready 1 with shells := [(0, { st := .idle })], ctxs := [(1, { st := .live, resident := true, cmds := [{ seq := 0, opcode := 1, phase := .validated, launch := { mask := 1 } }] })] }
    shellCanTake (shellOf s 0) = true ∧ pickShell s 1 { mask := 1 } = some 0 ∧ (pickCand s 0).isSome = true := by decide +kernel
/-- Slot 3 with seat 5 and a job of context 1 in a phase. -/
def inPhase (p : JobPhase) : State := { shells := [(3, { st := .running, rig := { seats := [5], channels := [7] }, job := some { ctx := 1, fn := 0, seq := 0, phase := p, launch := { prefillBytes := 32 } } })], ctxs := [(1, { st := .live, resident := true })], regs := [(P.preemptLchCount 3, 1), (P.preemptSlotMib 3, 4), (P.preemptSlots 3, 1)] }
/-- The loading job's context maps its page 1. -/
def inPhaseMapped : State := { inPhase .loading with ctxs := [(1, { st := .live, resident := true, entries := [(0, { st := .valid, entry := 4 * 2 ^ 204 + 14 * 2 ^ 200 + 1 * 2 ^ 151 + 1 * 2 ^ 106 + 5 })] })] }
theorem witness_JobsOnShells : (shellOf (inPhase .loading) 3).job = some { ctx := 1, fn := 0, seq := 0, phase := .loading, launch := { prefillBytes := 32 } } ∧ 
    remoteBusy (shellOf (inPhase .loading) 3) = false ∧ spanStop (inPhase .loading) 1 [] 2 0 32 = some (.fault 1 0 0) ∧ seatDrained (seatOf (inPhase .saving) 5) = true ∧ tbPast 2000 0 2000 = true ∧
    pget (inPhase .saving) (P.rigStatus 3) = 0 ∧ pget { regs := [(P.rigStatus 3, 1)] } (P.rigStatus 3) = 1 ∧ tbPast 10000000 0 (10 * 1000000) = true ∧ spanStop inPhaseMapped 1 [] 2 0x1000 32 = none ∧ (vaRead inPhaseMapped true 1 0x1000 32 (.data (leBytes 32 0))).2 = .ok (leBytes 32 0) ∧ fullUp (inPhase .running) = false ∧ (shellCands (inPhase .running) 3).any (fun k => !k.preempted && k.prio > 0) = false ∧
    wakeRoom (inPhase .holding) 3 = true ∧ (shellOf {} 3).st = .free ∧ (shellOf { shells := [(3, { st := .resetting })] } 3).st = .resetting ∧ (shellOf { shells := [(3, { latch := true })] } 3).latch = true := by decide +kernel
theorem witness_SlotsAndKeys : ({ swapping := [1] } : State).swapping.contains 1 = true ∧ (ctxOf { ctxs := [(1, { st := .live })] } 1).st = .live ∧ seqFieldBad 1 (1 * 2 ^ 240 + 2 ^ 239) = false ∧ seqFieldBad 1 0 = true ∧
    seqWriteCode {} 1 3 = 0 ∧ privFind { ctxs := [(1, { priv := [{ cmd := { seq := 4, opcode := 0x10 }, crSlot := 0 }] })] } 1 0x10 4 = some { seq := 4, opcode := 0x10 } ∧
    privFind { ctxs := [(1, { priv := [{ cmd := { seq := 4, opcode := 0x14 }, crSlot := 0 }] })] } 1 0x14 4 = some { seq := 4, opcode := 0x14 } ∧ privFind {} 1 0x10 4 = none ∧
    (wkeyOf {} 1 0).st = .empty ∧ QCmd.pl { seq := 0, opcode := 0x10, payload := 2 * 2 ^ 176 } 435 432 = 2 := by decide +kernel
theorem witness_SlotsAndKeys_blob : blobKey {} 0 [] = .inr 0x0701 := by decide +kernel
/-- Slot 9 is bound to seat 5 of shell 3, and context 1 runs a job there. -/
def scoring : State := { pins := { inputGood := true, hostPortUp := true }, shells := [(3, { st := .running, rig := { seats := [5] }, job := some { ctx := 1, fn := 0, seq := 0, phase := .running } })], sprints := [(9, { st := .bound, ctx := 1, fn := 0, shell := 3, recordBytes := 64, resultBytes := 32, depth := 1, outstanding := [4], reading := true })] }
theorem witness_Sprint : (sprintOf scoring 9).st = .bound ∧ (0x9000 : Nat) / 0x1000 = 9 ∧ sprintRunning scoring 3 1 = true ∧ sprintRunning scoring 3 2 = false ∧ (sprintOf scoring 9).outstanding = [4] ∧
    ctxWindows scoring 3 1 = .here ∧ fnUp scoring 0 = false ∧ fnUp serving 0 = true ∧ hostWriteFails scoring 0 0 = none ∧ pget scoring (P.releaseGate 3) ≠ 1 ∧ (sprintOf { sprints := [(9, { st := .aborting })] } 9).held = [] := by decide +kernel
theorem witness_Sprint_codes : sprintBindCode {} 1 { seq := 0, opcode := 0x12 } = 0x0804 ∧ sprintUnbindCode {} 1 { seq := 0, opcode := 0x13 } = 0x0808 := by decide +kernel
theorem witness_MctpMessages : mctpUp serving = true ∧ mctpUp {} = false ∧ (mctpTake serving 0 8 1).2 = true ∧ (mctpTake { serving with mctpCount := 200 } 0 8 1).2 = false ∧
    (mctpWindow (mctpConsume { serving with mctpCount := 200 } 0 8 1)).mctpCount = 200 ∧ (tfind ({ serving with eids := [(0, 9)] } : State).eids 0).isSome = true ∧ (tfind serving.eids 0).isNone = true ∧
    tbPast 100000000 0 100000000 = true ∧ tbPast 10000000 0 10000000 = true ∧ ({ serving with mctpOffer := some (0, 0) } : State).mctpOffer = some (0, 0) ∧ papBefore serving 0 8 [] = [] ∧
    (mctpCut { sent := [.pldm 0 8 1 0 2 .success []] } 0)[0]? ≠ some (.pldm 0 8 1 0 2 .success []) ∧ serving.mctpIn = [] ∧ (endpointOf { serving with endpoints := [(8, { asm := { busy := true, tag := 1, nextSeq := 2 } })] } 0 8).asm.nextSeq = 2 ∧
    (endpointOf { serving with endpoints := [(8, { asm := { busy := true, tag := 1, nextSeq := 2 } })] } 0 8).asm.busy = true := by decide +kernel
/-- A session of function 0's mailbox in a state, and the header of an OP on it. -/
def inSession (x : SessState) : State := { serving with sessions := [(7, { st := x, src := .mailbox 0, who := .kernel })] }
def papHeader (op sid idx sub : Nat) : Nat := 2 ^ 184 + op * 2 ^ 176 + sid * 2 ^ 152 + idx * 2 ^ 120 + sub * 2 ^ 112
theorem witness_Pap_formats : (∀ op ∈ [3, 4, 6, 7], papFormatBad (.mailbox 0) { header := papHeader op 7 0 0, payload := [] } = (op == 9)) ∧ hOp (papHeader 5 7 0 0) = 5 ∧ hVersion (papHeader 5 7 0 0) = 1 ∧
    papFormatBad (.mailbox 0) { header := papHeader 9 7 0 0, payload := [] } = true ∧ hSession (papHeader 4 7 0 0) = 7 ∧
    papFormatBad (.mailbox 0) { header := 2 ^ 184 + 2 ^ 176, payload := leBytes 8 (2 + 2 ^ 32) } = false ∧ field (leBytes 8 (2 + 2 ^ 32)) 0 1 = 2 ∧
    papFormatBad (.endpoint 0 8) { header := papHeader 2 7 0 0, payload := leBytes 40 0 } = false ∧ openCode serving (.mailbox 0) 2 1 ≠ 0 := by decide +kernel
theorem witness_Pap_sessions : papSession (inSession .opened) (.mailbox 0) 7 = some 7 ∧ papSession (inSession .opened) (.mailbox 1) 7 = none ∧ (sessOf (inSession .challenged) 7).st = .challenged ∧
    papLast serving (.mailbox 0) 7 = none ∧ papTurn serving (.mailbox 0) = some false ∧ papTurn serving (.mctp 0 8 1) = some false ∧ fnUp serving 0 = true ∧ fnUp {} 0 = false ∧
    papTurn { serving with papQueue := [(.mctp 0 8 1, true)], mctpIn := [(0, 8, 1, [0x7E])] } (.mailbox 0) = none ∧ papTurn { serving with papQueue := [(.mctp 0 8 1, true)], mctpIn := [(0, 8, 1, [0x7E])] } (.mctp 0 8 1) = some true ∧ papLast { endpoints := [(8, { last := some ({ header := 1, payload := [] }, { header := 2, payload := [] }) })] } (.endpoint 0 8) 0 = some ({ header := 1, payload := [] }, { header := 2, payload := [] }) ∧
    authOk serving 7 {} [] = false ∧ (sessOf { sessions := [(7, { st := .writing, wKey := 3, wTotal := 8 })] } 7).wTotal = 8 ∧ sessKey (.id 7) = 7 ∧
    (endpointOf { endpoints := [(8, { lockedUntil := some 5 })] } 0 8).lockedUntil = some 5 ∧ tbPast 10000000000 0 10000000000 = true := by decide +kernel
theorem witness_Pap_values : (paramInfo 0x1010 1).isSome = true ∧ (papCheck (inSession .opened) { st := .opened, who := .kernel } (papHeader 4 7 0x1010 1)).1 = 0 ∧
    (papCheck (inSession .opened) { st := .opened, who := .operator } (papHeader 5 7 0x1010 1)).1 = 0 ∧ (papCheck (inSession .opened) {} (papHeader 4 7 0xFFF0 1)).1 = 0x0914 := by decide +kernel
/-- Port 0 in a state of Table Ghengo-5, of a module with an ID and the ports' stage reached. -/
def ghPort (g : GhPort) : State := { serving with regs := serving.regs ++ [(P.ghModuleId, 3)], ghPorts := [(0, g)] }
theorem witness_GhengoPorts : (portOf (ghPort { st := 5 }) 0).st = 5 ∧ fullUp serving = true ∧ fullUp {} = false ∧ (portOf (ghPort { st := 1 }) 0).st = 1 ∧ tbPast 2000000000 0 2000000000 = true ∧
    tbPast 0 0 100000000 = false ∧ (portOf (ghPort { st := 3, rxReplays := 3 }) 0).rxReplays = 3 ∧ bitsOf (2 ^ 26) 27 26 = 1 ∧ bitsOf (2 ^ 26) 63 52 = (ghPort { st := 3 } |> (portOf · 0)).rxSeq ∧ bitsOf (2 ^ 26) 25 0 = 0 ∧
    bitOf (2 ^ 26) 39 = false ∧ ghGoes (ghPort { st := 3 }) { port := 0, gv := 5, units := 2, agent := 0xFFFF, tb := 0, out := .atsRequest 0 0 } = true ∧
    ghStalled { ghPort { st := 3, credit := [0] } with tb := 10000000, ghWaiting := [{ port := 0, gv := 0, units := 2, agent := 4, tb := 0, out := .atsRequest 0 0 }] } 0 0 = true ∧ (portOf (ghPort { st := 4, entries := [0, 0, 0, 0] }) 0).entries.length = 4 ∧ bindTo (ghPort { st := 3, peer := 7 }) 0 7 (.lease 1) 0 8 = none ∧ overGhengo {} 0x800000000000 = true ∧ overGhengo {} 0 = false ∧ (ghPort { st := 3 }).seats = [] := by decide +kernel
/-- A module 3 whose port 0 is UP with module 7, and a lease of seat 4 granted to it. -/
def lending : State := { serving with regs := serving.regs ++ [(P.ghModuleId, 3)], ghPorts := [(0, { st := 3, peer := 7, lastPeer := some 7 })]
                                      lent := [{ id := 1, borrower := 7, epoch := 9, kind := 1, ports := [0], res := [4], termMs := 50 }] }
/-- A lease borrowed of module 7, RIGGED in slot 3. -/
def borrowing : State := { lending with borrowed := [{ record := 7 * 2 ^ 240 + 5 * 2 ^ 208 + 2 ^ 168 + 2 ^ 144 + 2 ^ 128, st := 3, slot := some 3 }] }
theorem witness_Leases : (portOf lending 0).st = 3 ∧ ({ lending with start := { lending.start with islandsUp := true } } : State).start.islandsUp = true ∧ lending.start.islandsUp = false ∧ (portOf lending 0).peer = 7 ∧ keptFor lending 7 1 = none ∧ (lentNamed lending { src := 7, dst := 3, txn := 1, epoch := 9, key := 1 }).isSome = true ∧
    lentNamed lending { src := 7, dst := 3, txn := 1, epoch := 8, key := 1 } = none ∧ (lentVia lending 0 7 1).isSome = true ∧ lentVia lending 0 7 2 = none ∧ fullUp lending = true ∧ fullUp {} = false ∧
    (leaseSlot borrowing 0 7 5).isSome = true ∧ tbPast 50000000 0 50000000 = true ∧ lendCode lending 7 0 = 0x0501 ∧ reaches lending 7 = true ∧ reaches lending 8 = false := by decide +kernel
theorem witness_Leases_grant : lendCode { lending with lent := [], regs := [(P.admLendEnable, 1), (P.ghModuleId, 3)], chans := [(5, { st := .trained })] } 7 (3 * 2 ^ 240 + 2 * 2 ^ 168 + 2 ^ 144) = 0 := by decide +kernel
/-- Channel 2 toward channel 4 of module 7. -/
def channelTo (x : ChState) : State := { lending with gchans := [(2, { st := x, ctx := 1, peer := 7, peerChan := 4, cmdSeq := some 0 })] }
theorem witness_Channels : headReady (ctxOf (ready 0x16) 1) { seq := 0, opcode := 0x16, phase := .validated, payload := 2 ^ 176 } = true ∧ (gchanOf (channelTo .opened) 2).st = .opened ∧
    (gchanOf (channelTo .opened) 2).peer = 7 ∧ (4 * 256 + 2 : Nat) % 256 = 2 ∧ (4 * 256 + 2 : Nat) / 256 % 256 = 4 ∧ keptFor (channelTo .opening) 7 1 = none ∧ agentPort { channelTo .opened with shells := [(0, { rig := { ports := [0] } })] } 0xFFFF 7 [0] = some 0 ∧
    tbPast 1000000000 0 (pget {} P.ghChannelWaitMs * 1000000) = true ∧ ghengoOpenCode (channelTo .closed) 1 { seq := 0, opcode := 0x16 } = 0x0505 ∧
    ghengoOpenCode { channelTo .closed with regs := lending.regs ++ [(P.ownerFunction 0, 0)], shells := [(0, { st := .idle, rig := { ports := [0] } })] } 1 { seq := 0, opcode := 0x16, payload := 7 * 2 ^ 232 } = 0 := by decide +kernel
/-- A member that holds key 7 of module 7 at epoch 9, and a home that keeps key 3 * 2 ^ 48 in a state. -/
def member (k : BhHeld) : State := { lending with bhChannels := [5], bhHeld := [k] }
def home (x : Nat) : State := { lending with bhHomes := [{ key := 3 * 2 ^ 48, st := x, ctx := 1, member := 7, epoch := 9, target := 8, epoch2 := 10 }] }
theorem witness_Boathouse : (heldKey (member { key := 7, epoch := 9, home := 7 }) 7).isSome = true ∧ heldKey lending 7 = none ∧ bhServes (member { key := 7, epoch := 9, home := 7 }) = true ∧ bhServes lending = false ∧
    (homeKey (home 4) (3 * 2 ^ 48)).isSome = true ∧ homeKey lending 7 = none ∧ keptFor (home 2) 7 1 = none ∧ headReady (ctxOf (ready 0x18) 1) { seq := 0, opcode := 0x18, phase := .validated, payload := 2 ^ 176 } = true ∧
    tbPast 200000000 0 (pget {} P.admLeaseMs * 1000000) = true ∧ bhLeaseCode lending 1 { seq := 0, opcode := 0x18 } = 0x0501 ∧
    bhLeaseCode lending 1 { seq := 0, opcode := 0x18, payload := 3 * 2 ^ 240 + 7 * 2 ^ 176 + 2 ^ 157 + 2 ^ 144 } = 0 ∧ bhLeaseCode (home 2) 1 { seq := 0, opcode := 0x18, payload := 3 * 2 ^ 240 + 7 * 2 ^ 176 + 2 ^ 158 } = 0 := by decide +kernel
theorem witness_Boathouse_move : (heldKey (member { key := 7, epoch := 9, home := 7, st := 2, units := [0], copied := 31, moveHead := some { src := 7, dst := 3, txn := 1 } }) 7).isSome = true ∧ (1 : Nat) * 32 ≤ 31 + 1 := by decide +kernel
theorem witness_Boathouse_room : ({ lending with bhChannels := [5] } : State).bhChannels ≠ [] ∧ (bhUnits { lending with bhChannels := [5] }).length = 992 := by decide +kernel
def granted : State := { serving with regs := [(P.budgetState, 1), (P.startStage, 5)], octs := [(P.budgetGrant, leBytes 16 (5 * 2 ^ 96 + 100 * 2 ^ 64 + 2000))], pins := { inputGood := true } }
theorem witness_Power : dictUp granted = true ∧ grantCode granted (6 * 2 ^ 96 + 2000) = 0 ∧ grantCode granted (5 * 2 ^ 96 + 2000) = 0x0604 ∧ grantCode granted (4 * 2 ^ 96 + 2000) = 0x0605 ∧
    grantCode granted ((5 + 2 ^ 31) * 2 ^ 96 + 2000) = 0x0606 ∧ grantCode granted 999 = 0x0603 ∧ grantCode granted 60000 = 0x0602 ∧ grantLease (leNat (octGet granted P.budgetGrant)) = 100 ∧
    granted.power.phase = .none ∧ thermalDue granted 3 1000000 = true ∧ tbPast 100000 0 100000 = true ∧ tbPast 99999 0 100000 = false ∧ bitOf (pget granted P.alertStatus) 2 = false ∧ levelNext granted 163000 1167 0 0 = 5 ∧ levelNext granted 102000 1167 5 0 = 5 ∧ granted.pins.inputGood = true ∧ coxRuns granted = true ∧
    shareLoop 4 225000 [] [(⟨0, 7808, 12000, 21760, 8⟩, 12000), (⟨3, 70272, 70272, 195840, 16⟩, 70272), (⟨5, 35136, 40000, 97920, 16⟩, 40000)] = [(0, 217), (3, 1167), (5, 864)] := by decide +kernel
theorem witness_Power_split : ((energySplit 100 [(0, 1), (1, 2)]).map (·.2)).sum = 100 ∧ ([(0, 1), (1, 2)].map (·.2)).sum = 3 := by decide
/-- An endpoint with an ID, in a state of a firmware update. -/
def updating (n : Nat) : State := { serving with regs := serving.regs ++ [(P.fwState, n)], eids := [(0, 9)] }
theorem witness_Firmware : mctpUp (updating 3) = true ∧ (tfind (updating 3).eids 0).isSome = true ∧ (mctpTake (updating 3) 0 8 1).2 = true ∧ fwState (mctpTake (updating 3) 0 8 1).1 = 3 ∧
    fwState (updating 0) = 0 ∧ fwState (updating 5) = 5 ∧ tbPast 120000000000 0 120000000000 = true ∧ dictUp (updating 0) = true ∧ (flashSpend (updating 0)).isSome = true ∧ credOk [] = false ∧
    pget (updating 0) P.rollbackFloor ≤ 0 ∧ field (leBytes 8 (2 * 2 ^ 48)) 6 1 = 2 := by decide +kernel
/-- Slot 3 in use with a debug session in a state. -/
def debugging (n : Nat) : State := { serving with regs := serving.regs ++ [(P.debugState 3, n), (P.ownerFunction 3, 0), (P.dbgAddr 3, 0x300000000000 + 3 * 0x2000000000)]
                                                  shells := [(3, { st := .idle, rig := { seats := [5], channels := [2] } })], seats := [(5, { mode := .run })] }
theorem witness_EvidenceDebugWake : dictUp (debugging 1) = true ∧ (shellOf (debugging 1) 3).st ≠ .free ∧ pget (debugging 2) (P.debugState 3) = 2 ∧ (seatOf (debugging 1) 5).mode = .run ∧
    (sessOf (inSession .opened) 7).st = .opened ∧ field (leBytes 40 0) 36 4 = 0 ∧ (leBytes 40 0).length = 40 ∧ dbgTarget (debugging 1) 3 (pget (debugging 1) (P.dbgAddr 3)) = .scratch 0 0 0x180000 ∧
    dbgTarget (debugging 1) 3 0x100000000 = .chan 0x100000000 0x7C000000 ∧ dbgTarget (debugging 1) 3 0 = .none ∧ tbPast 1000000000 0 1000000000 = true ∧ tbPast 5 0 1000000000 = false ∧
    wakeFirst [{ kind := 3, tb := 5, word := 1 }, { kind := 1, tb := 5, word := 2 }] = some { kind := 1, tb := 5, word := 2 } ∧ pget serving P.wakeRingBase = 0 ∧
    pget { regs := [(P.wakeRingBase, 4096), (P.wakeRingLog2, 4)] } P.wakeRingLog2 = 4 ∧ hostWriteFails { pins := { hostPortUp := true } } 0 4096 = none := by decide +kernel
theorem witness_MemoryStaysCanonical : Memory.wf { mem := [(3, 1#8), (9, 255#8)], pending := [.inputGoodRise] } = true ∧ Memory.wf { mem := [(9, 1#8), (3, 1#8)] } = false ∧ Memory.wf { mem := [(3, 0#8)] } = false ∧
    (match step { mem := [(3, 1#8)], pending := [.inputGoodFall] } with | .next _ => true | _ => false) = true := by decide +kernel
theorem witness_ResetState : pget State.reset P.fallbackBudgetW = 2500 ∧ pget State.reset (P.powerWeight 31) = 16 := by decide +kernel
theorem witness_SpecialWordsJoin : wSpecial 5 = false ∧ wSpecial (specialWord 4) = true ∧ (∀ k, Term.special k ∈ [Term.units 3, .special 1, .special 4] ↔ Term.special k ∈ [Term.special 4, .special 1, .special 1]) ∧
    (([.units 3, .special 1, .special 4] : List Term).map (fun t => match t with | .units q => q.natAbs | .special _ => 0)).sum < 2 ^ 127 - 2 ^ 112 := by
  refine ⟨by decide, by decide, fun k => ?_, by decide⟩
  simp only [List.mem_cons, reduceCtorEq, Term.special.injEq, false_or, List.not_mem_nil, or_false]
  omega
theorem witness_Signature : CoreReady (running { sig := 7, x := [(1, 7)] }) 5 4 (running { sig := 7, x := [(1, 7)] }) ∧ (seatOf (running { sig := 7, x := [(1, 7)] }) 5).core.sig = xGet { x := [(1, 7)] } 1 % 2 ^ 32 ∧
    (seatOf (running { sig := 6, x := [(1, 7)] }) 5).core.sig ≠ xGet { x := [(1, 7)] } 1 % 2 ^ 32 := by
  refine ⟨⟨by decide, by decide, by decide, by decide⟩, by decide, by decide⟩

/-! ### WellFormed: each check refuses an ill-formed command -/

theorem test_refuses_repeated_units : WellFormed (.stage1End [3, 3] none) = false ∧ WellFormed (.stage2End [0, 0]) = false ∧
    WellFormed (.shellResetDrainDone 0 [7, 7]) = false ∧ WellFormed (.shellRetrainDone 0 [7, 7]) = false ∧
    WellFormed (.healthPoll [(4, 1), (4, 2)]) = false ∧ WellFormed (.powerControlStep 0 0 0 [(1, 5), (1, 6)]) = false ∧
    WellFormed (.regulationWindow [⟨0, 0, 1⟩, ⟨0, 0, 2⟩]) = false := by decide
theorem test_refuses_repeated_devices : WellFormed (.cxlPortEnumerated 0 (some ⟨true, true, false, [(1, 3, 4#16), (1, 3, 8#16)]⟩)) = false := by decide
theorem test_refuses_sizes : WellFormed (.registerWrite 0 .bar0 0#16 3 0#64) = false ∧ WellFormed (.registerWrite 0 .bar0 2#16 4 0#64) = false ∧
    WellFormed (.channelWrite 0 63#31 [0#8, 0#8] {}) = false ∧ WellFormed (.channelWrite 0 0#31 [] {}) = false ∧
    WellFormed (.sprintWindowWrite 0 0#22 []) = false ∧ WellFormed (.dbgDataWrite 0 []) = false ∧
    WellFormed (.helloReceive 0 1#16 0#8 0#8 [1#16] 0#256 0#128) = false := by decide
theorem test_refuses_long_packet : WellFormed (.mctpPacketReceive 0 8 0 true true false 0 (List.replicate 65 0#8)) = false := by decide
theorem test_accepts : WellFormed (.registerWrite 0 .bar0 4#16 4 0#64) = true ∧ WellFormed (.channelWrite 0 62#31 [0#8, 0#8] {}) = true ∧
    WellFormed (.stage1End [3, 4] none) = true := by decide

/-! ### One step each, against the rules' own numbers -/

/-- No row of the table has bits (log 4). -/
theorem test_no_word : decodeTableWord 32 0 = none := by decide
/-- 16 R526, R550: the rise of input-good begins a cold start of cause 0. -/
theorem test_input_good : (match step { pending := [.inputGoodRise] } with
    | .next t => t.pins.inputGood && pget t P.coldStarts == 1 && pget t P.startKind == 0 && t.pending.isEmpty | _ => false) = true := by decide +kernel
/-- 05 R188 by hand: ((1 x 32) + 0) xor 5 is 37, and the pc moves on by 4. -/
theorem test_sig_upd : (match exec (.sigUpd 5 0 0 5) (running { sig := 1 }) with
    | .next t => (seatOf t 5).core.sig == 37 && (seatOf t 5).core.pc == 0x8000000000000004 | _ => false) = true := by decide +kernel
/-- 05 R177: PEG.SET with bit 6 clear sets peg 3 and no other. -/
theorem test_peg_set : (match exec (.pegSet 5 0 0 3) (running {}) with | .next t => (seatOf t 5).pegs == 8 | _ => false) = true := by decide +kernel
/-- 19 R607: TX lane 5 P of Ghengo port 11 is J3-M10; 19 Table Module-3: SLOT_ID3 is J1-M10. -/
theorem test_pins : pinSignal { conn := .j3, row := pinRow 'M', col := 10 } = some (.lane (.ghengo 11) true 5 false) ∧
    pinSignal { conn := .j1, row := pinRow 'M', col := 10 } = some (.slotId 3) := by decide
/-- 03 R97: a positive and a negative infinity join to NaN, RANGE and an infinity to the infinity. -/
theorem test_special_words : fretAdd wInfP (termOf wInfN) = wNan ∧ fretAdd wRange (termOf wInfN) = wInfN := by decide

end Sys2Proof.Tests
end

section
/-! O7: a bridge that drains closes, and what a packet meets at a closed one (01 R37, R38). -/
namespace Sys2Proof.Machine

section
variable (s : State)

/-! ### countClosed: one posted write discarded at the bridge of an island -/

theorem islandOf_countClosed_self_discards (n : Nat) :
    (islandOf (countClosed s n) n).discards = satInc32 (islandOf s n).discards := by
  simp [countClosed]

theorem islandOf_countClosed_ne (n m : Nat) (h : m ≠ n) : islandOf (countClosed s n) m = islandOf s m :=
  islandOf_islandPut_ne s n m _ h

theorem countClosed_sent (n : Nat) : (countClosed s n).sent = s.sent := islandPut_sent s n _

/-! ### The two commands -/

theorem exec_bridgeDrainDone_of_draining (n : IslandId) (h : (islandOf s n.val).bridge = .draining) :
    exec (.bridgeDrainDone n) s = .next (islandPut s n.val { islandOf s n.val with bridge := .closed }) := by
  change execBridgeDrainDone n s = _
  unfold execBridgeDrainDone
  exact if_pos h

/-- At a closed bridge a posted write alone is counted, and the ISLAND_CLOSED answer goes to a request that is non-posted or awaits an
acknowledgement; the test of a gated supply is not reached. -/
theorem exec_closedBridgePacket_of_closed (n r : IslandId) (nonPosted acked : Bool) (h : (islandOf s n.val).bridge = .closed) :
    exec (.closedBridgePacket n r nonPosted acked) s =
      .next (if nonPosted ∨ acked
        then emit (if nonPosted then s else countClosed s n.val) (.packet r.val 1 [BitVec.ofNat 8 stClosed])
        else if nonPosted then s else countClosed s n.val) := by
  change execClosedBridgePacket n r nonPosted acked s = _
  unfold execClosedBridgePacket
  exact if_neg fun hOpen => hOpen.1 h

theorem exec_closedBridgePacket_nonPosted (n r : IslandId) (acked : Bool) (h : (islandOf s n.val).bridge = .closed) :
    exec (.closedBridgePacket n r true acked) s = .next (emit s (.packet r.val 1 [BitVec.ofNat 8 stClosed])) := by
  simp [exec_closedBridgePacket_of_closed s n r true acked h]

theorem exec_closedBridgePacket_posted_acked (n r : IslandId) (h : (islandOf s n.val).bridge = .closed) :
    exec (.closedBridgePacket n r false true) s =
      .next (emit (countClosed s n.val) (.packet r.val 1 [BitVec.ofNat 8 stClosed])) := by
  simp [exec_closedBridgePacket_of_closed s n r false true h]

theorem exec_closedBridgePacket_posted_unacked (n r : IslandId) (h : (islandOf s n.val).bridge = .closed) :
    exec (.closedBridgePacket n r false false) s = .next (countClosed s n.val) := by
  simp [exec_closedBridgePacket_of_closed s n r false false h]

end

/-- Settles O7: a drained bridge by its command's own equation, a packet at a closed one by whether it is posted and, if it is,
whether its source awaits an acknowledgement. -/
theorem closedBridges : Obligations.ClosedBridges := by
  refine ⟨exec_bridgeDrainDone_of_draining, fun s n r acked hClosed =>
    ⟨exec_closedBridgePacket_nonPosted s n r acked hClosed, ?_⟩⟩
  have hDiscards := islandOf_countClosed_self_discards s n.val
  have hOthers := islandOf_countClosed_ne s n.val
  have hSent := countClosed_sent s n.val
  cases acked with
  | true =>
    exact ⟨_, exec_closedBridgePacket_posted_acked s n r hClosed, hDiscards, by simp [hSent], rfl, hOthers⟩
  | false =>
    exact ⟨_, exec_closedBridgePacket_posted_unacked s n r hClosed, hDiscards, hSent, rfl, hOthers⟩

end Sys2Proof.Machine
end

section
/-! O57: the memory keeps its canonical form (07 R230; log 3). Every operation on the state answers a state whose memory is
canonical when that of the state it starts from is: the memory changes by `memWrite`, `memZero` and `memLoad` and by a start's
clearing alone. The lemma of an operation `f` is `Canonical.f`, so that the proof of an operation reads as the chain of those it
is made of: `h.pset.emit`. The lemmas stand in the order of the model's files. -/
namespace Sys2Proof
open Sys2Proof.Machine

/-! ### Canonical answers, and the forms that an operation is built from -/

/-- A state whose memory is canonical: `MemoryCanonical` behind a constructor, so that two states are compared as they are
written and never by the bytes of their memories. -/
structure Canonical (s : State) : Prop where
  memory : MemoryCanonical s

/-- The answers of a command whose next state has a canonical memory. -/
inductive AnsCanonical : Ans → Prop
  | next {s : State} (h : Canonical s) : AnsCanonical (.next s)

/-- The answers of an operation that may answer no state, and whose state has a canonical memory. -/
inductive OptionCanonical : Option State → Prop
  | protected none : OptionCanonical none
  | protected some {s : State} (h : Canonical s) : OptionCanonical (some s)

/-- What a fetch answers has a canonical memory, whether it ends or stops. -/
inductive FetchCanonical : Fetch → Prop
  | done {s : State} (h : Canonical s) : FetchCanonical (.done s)
  | stops {s : State} (h : Canonical s) : FetchCanonical (.stops s)

protected theorem OptionCanonical.of_some {o : Option State} {s : State} (h : OptionCanonical o) (e : o = some s) :
    Canonical s := by
  rw [e] at h
  cases h
  assumption

protected theorem OptionCanonical.getD {o : Option State} {s : State} (h : OptionCanonical o) (hs : Canonical s) :
    Canonical (o.getD s) := by
  cases h with
  | none => exact hs
  | some h => exact h

protected theorem AnsCanonical.of_next {a : Ans} {s : State} (h : AnsCanonical a) (e : a = .next s) : Canonical s := by
  rw [e] at h
  cases h
  assumption

/-- Any update that takes the memory as it stands: every other field of the state may have any value. -/
protected theorem Canonical.update (h : Canonical s) :
    Canonical {
      pending, tb, sent, regs, staged, octs, stagedOcts, pins, start, retained, flash, islands, mem := s.mem, shells,
      seats, scrubSeats, scrubChans, retiredSeats, images, chans, cxlPorts, cxlRanges, cxlRun, cxlScrub, hostGen,
      hostWidth, ringDerate, tbCapacity, scaleHold, pace, slices, sliceBad, seqSlots, atc, rangeCaches, red, redAcks,
      upstream, refused, late, tbHold, linkRate, fns, fnRegs, numVfs, ctxs, nextCtxId, freeIds, swapping, ucRecs,
      dmwr, advWaits, advFar, bhFwd, sprints, nextId, errSeq, errLog, sessions, endpoints, nextSession, freeSessions,
      mbxs, eids, mctpIn, papQueue, mctpOffer, mctpCount, tbMctp, wake, ghPorts, ghTxn, ghTag, ghWaiting, ghMsgs,
      ghKept, ghLate, shardEpoch, nextLease, borrowed, lent, lendLog, lentEnding, gchans, bhHomes, bhHeld,
      bhApertures, bhChannels, bhRanges, power, fw, freeCtr } :=
  ⟨h.memory⟩

/-- The state of a pair, when the pair is known in its parts. -/
protected theorem Canonical.of_fst {β : Type} {p : State × β} {t : State} {b : β} (h : Canonical p.1) (e : p = (t, b)) :
    Canonical t := by
  rw [e] at h
  exact h

protected theorem Canonical.of_snd {β : Type} {p : β × State} {t : State} {b : β} (h : Canonical p.2) (e : p = (b, t)) :
    Canonical t := by
  rw [e] at h
  exact h

protected theorem Canonical.pair {β : Type} {s : State} {b : β} (h : Canonical s) : Canonical (s, b).1 := h

protected theorem Canonical.ite {c : Prop} [Decidable c] {s t : State} (hs : Canonical s) (ht : Canonical t) :
    Canonical (if c then s else t) := by
  split
  · exact hs
  · exact ht

protected theorem Canonical.ite_fst {β : Type} {c : Prop} [Decidable c] {p q : State × β} (hp : Canonical p.1)
    (hq : Canonical q.1) : Canonical (if c then p else q).1 := by
  split
  · exact hp
  · exact hq

protected theorem Canonical.foldl {α : Type} {l : List α} {f : State → α → State} {s : State} (h : Canonical s)
    (hf : ∀ s x, Canonical s → Canonical (f s x)) : Canonical (l.foldl f s) := by
  induction l generalizing s with
  | nil => exact h
  | cons x l ih => exact ih (hf s x h)

protected theorem Canonical.foldl_fst {α β : Type} {l : List α} {f : State × β → α → State × β} {p : State × β}
    (h : Canonical p.1) (hf : ∀ p x, Canonical p.1 → Canonical (f p x).1) : Canonical (l.foldl f p).1 := by
  induction l generalizing p with
  | nil => exact h
  | cons x l ih => exact ih (hf p x h)

protected theorem AnsCanonical.ite {c : Prop} [Decidable c] {a b : Ans} (ha : AnsCanonical a) (hb : AnsCanonical b) :
    AnsCanonical (if c then a else b) := by
  split
  · exact ha
  · exact hb

protected theorem OptionCanonical.ite {c : Prop} [Decidable c] {a b : Option State} (ha : OptionCanonical a)
    (hb : OptionCanonical b) : OptionCanonical (if c then a else b) := by
  split
  · exact ha
  · exact hb

protected theorem FetchCanonical.ite {c : Prop} [Decidable c] {a b : Fetch} (ha : FetchCanonical a) (hb : FetchCanonical b) :
    FetchCanonical (if c then a else b) := by
  split
  · exact ha
  · exact hb

/-! ### Machine/Ops.lean -/

protected theorem Canonical.pset (h : Canonical s) : Canonical (pset s k v) := h.update

protected theorem Canonical.pinc (h : Canonical s) : Canonical (pinc s k) := h.pset

protected theorem Canonical.octPut (h : Canonical s) : Canonical (octPut s k b) := h.update

protected theorem Canonical.ctxPut (h : Canonical s) : Canonical (ctxPut s k v) := h.update

protected theorem Canonical.shellPut (h : Canonical s) : Canonical (shellPut s k v) := h.update

protected theorem Canonical.seatPut (h : Canonical s) : Canonical (seatPut s k v) := h.update

protected theorem Canonical.chanPut (h : Canonical s) : Canonical (chanPut s k v) := h.update

protected theorem Canonical.cxlPortPut (h : Canonical s) : Canonical (cxlPortPut s k v) := h.update

protected theorem Canonical.islandPut (h : Canonical s) : Canonical (islandPut s k v) := h.update

protected theorem Canonical.fnStPut (h : Canonical s) : Canonical (fnStPut s k v) := h.update

protected theorem Canonical.sprintPut (h : Canonical s) : Canonical (sprintPut s k v) := h.update

protected theorem Canonical.wakePut (h : Canonical s) : Canonical (wakePut s k v) := h.update

protected theorem Canonical.imagePut (h : Canonical s) : Canonical (imagePut s k v) := h.update

protected theorem Canonical.portPut (h : Canonical s) : Canonical (portPut s k v) := h.update

protected theorem Canonical.gchanPut (h : Canonical s) : Canonical (gchanPut s k v) := h.update

protected theorem Canonical.sliceHeal (h : Canonical s) : Canonical (sliceHeal s a n) := h.update

protected theorem Canonical.fnPut (h : Canonical s) : Canonical (fnPut s fn off v) := h.update

protected theorem Canonical.emit (h : Canonical s) : Canonical (emit s x) := h.update

protected theorem Canonical.ghOut (h : Canonical s) : Canonical (ghOut s w) := .ite h (.ite h.portPut.emit h.update)

protected theorem Canonical.ghFlush (h : Canonical s) : Canonical (ghFlush s) := .foldl h.update (fun _ _ h => h.ghOut)

protected theorem Canonical.freeNext (h : Canonical s) : Canonical (freeNext s) := h.update

protected theorem Canonical.memWrite (h : Canonical s) : Canonical (memWrite s a b) := ⟨wf_memWrite s a b h.memory⟩

protected theorem Canonical.memZero (h : Canonical s) : Canonical (memZero s a n) := ⟨wf_memZero s a n h.memory⟩

protected theorem Canonical.memLoad (h : Canonical s) : Canonical (memLoad s a l) := ⟨wf_memLoad s a l h.memory⟩

protected theorem Canonical.slicesDrop (h : Canonical s) : Canonical (slicesDrop s f) := h.update

protected theorem Canonical.slicesSettle (h : Canonical s) : Canonical (slicesSettle s) := by
  unfold slicesSettle
  exact h.slicesDrop

protected theorem Canonical.remotePut (h : Canonical s) : Canonical (remotePut s slot x v) := h.shellPut

protected theorem Canonical.ghSeatSend (h : Canonical s) : Canonical (ghSeatSend s dst ports bulk x) := by
  unfold ghSeatSend
  split
  · exact h.ghOut
  · exact h

protected theorem Canonical.remoteSend (h : Canonical s) : Canonical (remoteSend s slot x a v) := h.remotePut.ghSeatSend

protected theorem Canonical.reportSend (h : Canonical s) : Canonical (reportSend s l j r) := h.ghSeatSend

protected theorem Canonical.lentReport (h : Canonical s) : Canonical (lentReport s seat r) := by
  unfold lentReport
  split
  · exact h.reportSend
  · exact h

protected theorem Canonical.scratchWrite (h : Canonical s) : Canonical (scratchWrite s seat off b) := by
  unfold scratchWrite
  dsimp only
  split
  · exact h.memWrite
  · exact .ite h.memWrite.seatPut h.memWrite

protected theorem Canonical.pegPut (h : Canonical s) : Canonical (pegPut s seat p v) := h.seatPut

protected theorem Canonical.egressTrigger (h : Canonical s) : Canonical (egressTrigger s slot lseat seat peg) :=
  h.foldl fun _ _ h => .ite h.pinc (.ite h.pegPut.pinc h.sprintPut)

protected theorem Canonical.pegWrite (h : Canonical s) : Canonical (pegWrite s seat p v) := by
  unfold pegWrite
  dsimp only
  refine .ite ?_ h.pegPut
  split
  · exact h.pegPut.egressTrigger
  · exact h.pegPut

/-! ### Machine/Ranges.lean -/

protected theorem Canonical.chanTouch (h : Canonical s) : Canonical (chanTouch s c off n) :=
  h.foldl fun _ _ h => .ite h (.ite h.chanPut h.freeNext.chanPut)

protected theorem Canonical.cellWrite (h : Canonical s) : Canonical (cellWrite s a chan b) := by
  unfold cellWrite
  dsimp only
  split
  · exact h.memWrite.sliceHeal
  · exact h.memWrite.chanTouch.chanPut.pset

protected theorem Canonical.engineWrite (h : Canonical s) : Canonical (engineWrite s ga b) := by
  unfold engineWrite
  refine .ite h.emit ?_
  -- the route by a name, so that no check of a case computes it
  obtain ⟨route, hroute⟩ := exists_eq' (a' := reach s 2352)
  rw [hroute]
  split
  · exact h
  · split
    · exact h.islandPut
    · exact .ite h.cellWrite h.update

protected theorem Canonical.areaWrite (h : Canonical s) : Canonical (areaWrite s slot k p b) := h.foldl fun _ _ h => h.cellWrite

protected theorem Canonical.imageChange (h : Canonical s) : Canonical (imageChange s key im off new) := by
  unfold imageChange
  dsimp only
  split
  · exact .ite h.imagePut.pinc.areaWrite h.imagePut.pinc
  · exact h.imagePut.pinc.engineWrite.engineWrite

protected theorem Canonical.imageWrite (h : Canonical s) : Canonical (imageWrite s key l off b) := h.imageChange

protected theorem Canonical.imagePegWrite (h : Canonical s) : Canonical (imagePegWrite s key l p v) := h.imageChange

protected theorem Canonical.countDenied (h : Canonical s) : Canonical (countDenied s seat) := h.seatPut

protected theorem Canonical.farSend (h : Canonical s) : Canonical (farSend s port dst gv kind id0 off agent op data) :=
  h.update.ghOut

protected theorem Canonical.countClosed (h : Canonical s) : Canonical (countClosed s n) := h.islandPut

protected theorem Canonical.hostPost (h : Canonical s) : Canonical (hostPost s a b) := .ite h.freeNext.emit h.freeNext.emit

protected theorem Canonical.placeWrite (h : Canonical s) : Canonical (placeWrite s p b o).1 := by
  unfold placeWrite
  split
  · dsimp only
    split
    · exact h.cellWrite.cellWrite
    · exact h.cellWrite
  · exact .ite_fst (.pair h.scratchWrite) (.pair h.countDenied)
  · exact .pair h.pegWrite
  · exact .pair h.pinc
  · exact h
  · exact .pair (.ite h.imagePegWrite h.imageWrite)
  · exact .pair (.ite h.farSend h.farSend)
  · exact .pair h.hostPost
  · exact h
  · exact h
  · exact .pair h.countClosed

protected theorem Canonical.rangeIn (h : Canonical s) : Canonical (rangeIn s die cid idx) := .ite h h.update

protected theorem Canonical.rangeTouch (h : Canonical s) : Canonical (rangeTouch s die cid va) := by
  unfold rangeTouch
  split
  · exact h
  · exact .ite h h.pinc.rangeIn

protected theorem Canonical.rangeDrop (h : Canonical s) : Canonical (rangeDrop s f) := h.update

protected theorem Canonical.atsForget (h : Canonical s) : Canonical (atsForget s cid va) := by
  unfold atsForget
  dsimp only
  split
  · exact h
  · split
    · exact h
    · exact .ite h.update h

protected theorem Canonical.withAts (h : Canonical s) (hf : AnsCanonical go) : AnsCanonical (withAts s cid a va n go) := by
  unfold withAts
  split
  · exact .next h.emit
  · exact hf

protected theorem Canonical.askAtomic (h : Canonical s) : Canonical (askAtomic s p w op v) := by
  unfold askAtomic
  split
  · exact h.farSend
  · exact h.emit
  · exact h

protected theorem Canonical.askRead (h : Canonical s) : Canonical (askRead s p n) := by
  unfold askRead
  split
  · exact h.farSend
  · exact h.emit
  · exact h

protected theorem Canonical.placeAtomic (h : Canonical s) : Canonical (placeAtomic s p w op v o).1 := by
  unfold placeAtomic
  dsimp only
  split
  · refine .ite_fst ?_ h
    refine .pair ?_
    split
    · exact h.cellWrite.cellWrite
    · exact h.cellWrite
  · exact .ite_fst (.pair h.scratchWrite) (.pair h.countDenied)
  · exact .ite_fst h (.pair h.imageWrite)
  · exact h
  · exact h
  · exact h
  · exact h
  · exact .ite_fst h h
  · exact h
  · exact h
  · exact h

/-! ### Machine/Windows.lean -/

protected theorem Canonical.farRespond (h : Canonical s) : Canonical (farRespond s port kind id0 agent tag st b) := h.ghOut

protected theorem Canonical.countRefused (h : Canonical s) : Canonical (countRefused s st) := .ite h.update h

protected theorem Canonical.keptRaise (h : Canonical s) : Canonical (keptRaise s cid i v) := by
  unfold keptRaise
  dsimp only
  split
  · exact h
  · exact .ite h.ctxPut h

protected theorem Canonical.waitsDue (h : Canonical s) : Canonical (waitsDue s ga) := .ite h.update h

protected theorem Canonical.advanced (h : Canonical s) : Canonical (advanced s cid i v) := by
  unfold advanced
  split
  · exact h
  · exact h.keptRaise.waitsDue

protected theorem Canonical.netAnswer (h : Canonical s) : Canonical (netAnswer s back st b) := by
  unfold netAnswer
  split
  · exact h.countRefused
  · exact h.emit
  · exact h.seatPut
  · exact h.farRespond
  · exact h.advanced

protected theorem Canonical.netReply (h : Canonical s) : Canonical (netReply s whole back st b) := by
  unfold netReply
  refine .ite h.netAnswer ?_
  split
  · exact h.countRefused
  · exact h
  · exact h
  · exact h.pinc.netAnswer

protected theorem Canonical.pegRelease (h : Canonical s) : Canonical (pegRelease s seat) :=
  h.foldl fun _ _ h => .ite h h.seatPut.pegWrite.netReply

protected theorem Canonical.reqApplied (h : Canonical s) : Canonical (reqApplied s seat src) := h.seatPut.pegRelease

protected theorem Canonical.writeAt (h : Canonical s) : Canonical (writeAt s kind p b o).1 := by
  unfold writeAt
  split
  · exact .pair h.scratchWrite
  · exact h.placeWrite

protected theorem Canonical.netLand (h : Canonical s) : OptionCanonical (netLand s w k o) := by
  unfold netLand
  dsimp only
  split
  · exact .ite (.some h.shellPut) .none
  · exact .ite (.ite (.some h.seatPut) .none) (.some h.pegWrite.netReply)
  · exact .some h.placeWrite.netReply
  · exact .some h.askRead.netReply
  · split
    · exact .some (.ite h.writeAt.netReply h.writeAt.netReply.reqApplied)
    · exact .some h.writeAt.netReply
  · exact .some h.askAtomic.placeAtomic.netReply

protected theorem Canonical.netSend (h : Canonical s) : Canonical (netSend first s k o) := by
  unfold netSend
  extract_lets _ wait _
  have hwait : Canonical wait := h.update
  refine .ite hwait ?_
  split
  · next heq => exact h.netLand.of_some heq
  · exact .ite hwait.pinc hwait

protected theorem Canonical.netSettle (h : Canonical s) : Canonical (netSettle s) := .foldl h.update (fun _ _ h => h.netSend)

protected theorem Canonical.lseatWrite (h : Canonical s) : Canonical (lseatWrite s slot own kind l off b) :=
  h.foldl fun _ _ h => h.netSend

protected theorem Canonical.fenceMax (h : Canonical s) : Canonical (fenceMax s p cid i v).1 := by
  unfold fenceMax
  split
  · refine .ite_fst h ?_
    split
    · exact .ite_fst (.pair h.netSend) h
    · exact h
  · exact .pair h.update.askAtomic
  · dsimp only
    exact h.pset.placeAtomic
  · dsimp only
    exact h.placeAtomic

protected theorem Canonical.lseatPegPut (h : Canonical s) : Canonical (lseatPegPut s slot w l p v) := by
  unfold lseatPegPut
  split
  · exact h.pegPut
  · exact h.imagePegWrite
  · exact h

protected theorem Canonical.lseatPegSet (h : Canonical s) : Canonical (lseatPegSet s slot own l p v) := h.netSend

protected theorem Canonical.heldDeliver (h : Canonical s) : Canonical (heldDeliver s slot) := h.shellPut.update.netSettle

protected theorem Canonical.heldClose (h : Canonical s) : Canonical (heldClose s slot) := by
  unfold heldClose
  dsimp only
  refine .foldl h.shellPut fun _ _ h => ?_
  split
  · split
    · exact h.countClosed
    · exact h.countClosed
    · exact h
  · refine .netReply ?_
    split
    · exact h.countClosed
    · exact h.countClosed
    · exact h

protected theorem Canonical.holdEnds (h : Canonical s) : Canonical (holdEnds s slot) := .ite h h.update

protected theorem Canonical.windowsLocal (h : Canonical s) : Canonical (windowsLocal s slot) := h.holdEnds.shellPut.heldDeliver

protected theorem Canonical.windowsHold (h : Canonical s) : Canonical (windowsHold s slot ls) := h.shellPut

protected theorem Canonical.windowsImage (h : Canonical s) : Canonical (windowsImage s slot key) :=
  h.holdEnds.shellPut.heldDeliver

/-! ### Machine/SeatOps.lean -/

protected theorem Canonical.corePut (h : Canonical s) : Canonical (corePut s seat c) := h.seatPut

protected theorem Canonical.arrPut (h : Canonical s) : Canonical (arrPut s seat a) := h.seatPut

protected theorem Canonical.seatScrub (h : Canonical s) : Canonical (seatScrub s seat) := h.memZero.seatPut

protected theorem Canonical.seatBegin (h : Canonical s) : Canonical (seatBegin s seat l n entry arg) := h.seatPut

protected theorem Canonical.seatStart (h : Canonical s) : Canonical (seatStart s slot l entry arg) := by
  unfold seatStart
  dsimp only
  split
  · exact h.seatBegin
  · split
    · exact h.remoteSend
    · exact h

protected theorem Canonical.seatHalt (h : Canonical s) : Canonical (seatHalt s seat) := h.seatPut

protected theorem Canonical.haltSeats (h : Canonical s) : Canonical (haltSeats s slot) :=
  .foldl (h.foldl (fun _ _ h => h.seatHalt)) (fun _ _ h => .ite h h.remoteSend)

protected theorem Canonical.latchesRebase (h : Canonical s) : Canonical (latchesRebase s slot c) := h.shellPut

protected theorem Canonical.coreHostWrite (h : Canonical s) : Canonical (coreHostWrite s seat a b) :=
  .ite h.corePut.emit h.hostPost

protected theorem Canonical.seatFlush (h : Canonical s) : Canonical (seatFlush s seat) := by
  unfold seatFlush
  dsimp only
  refine .seatPut ?_
  refine h.foldl fun _ _ h => ?_
  split
  · exact h.coreHostWrite
  · exact h.placeWrite.countRefused

protected theorem Canonical.seatLoad (h : Canonical s) : Canonical (seatLoad s seat sec) := h.memZero.memLoad.seatPut

protected theorem Canonical.imageSave (h : Canonical s) : Canonical (imageSave s slot k job) := by
  unfold imageSave
  refine .windowsImage (.foldl ?_ fun _ _ h => h.remotePut)
  exact h.freeNext.imagePut.areaWrite.foldl fun _ _ h => h.seatPut

protected theorem Canonical.remoteSave (h : Canonical s) : Canonical (remoteSave s slot) := h.foldl fun _ _ h => h.remoteSend

protected theorem Canonical.remoteRestore (h : Canonical s) : Canonical (remoteRestore s slot k ended) :=
  h.foldl fun _ _ h => h.remoteSend

protected theorem Canonical.imageRestore (h : Canonical s) : Canonical (imageRestore s slot k ended) :=
  .imagePut (.foldl (h.foldl (fun _ _ h => h.seatLoad)) (fun _ _ h => .ite h.seatPut h))

/-! ### Machine/WakeOps.lean -/

protected theorem Canonical.wakeAppend (h : Canonical s) : Canonical (wakeAppend s slot r) := h.wakePut

protected theorem Canonical.counterPut (h : Canonical s) : Canonical (counterPut s p v) := h.update.pset

protected theorem Canonical.wakeFoldOne (h : Canonical s) : Canonical (wakeFoldOne s slot) := by
  unfold wakeFoldOne
  dsimp only
  split
  · exact h
  · exact h.wakePut.update

protected theorem Canonical.wakeFoldAll (h : Canonical s) : Canonical (wakeFoldAll s slot) := h.foldl fun _ _ h => h.wakeFoldOne

/-! ### Machine/HostOps.lean -/

protected theorem Canonical.sessionsCount (h : Canonical s) : Canonical (sessionsCount s) := h.pset

protected theorem Canonical.sessionFree (h : Canonical s) : Canonical (sessionFree s n) := h.update.sessionsCount

protected theorem Canonical.sessionsFree (h : Canonical s) : Canonical (sessionsFree s f) := h.foldl fun _ _ h => h.sessionFree

protected theorem Canonical.tenantsFree (h : Canonical s) : Canonical (tenantsFree s slot) := h.sessionsFree

protected theorem Canonical.msixSend (h : Canonical s) : Canonical (msixSend s fn vec) := .ite h (.ite h.fnPut h.emit)

protected theorem Canonical.raiseCause (h : Canonical s) : Canonical (raiseCause s fn c) := .ite h (.ite h.fnPut h.fnPut.msixSend)

protected theorem Canonical.ucStore (h : Canonical s) : Canonical (ucStore s fn r) := .raiseCause (.ite h.pinc h.fnPut.update)

protected theorem Canonical.writeRecord (h : Canonical s) : Canonical (writeRecord s cid n r).1 := by
  unfold writeRecord
  dsimp only
  refine .ite_fst h ?_
  refine .ite_fst (.pair (.ite h.pinc h)) ?_
  split
  · exact .pair h.ucStore.ctxPut
  · refine .ite_fst (.pair h.ctxPut.emit.update.raiseCause) ?_
    exact .pair h.ctxPut.emit.raiseCause

protected theorem Canonical.fenceHostWrite (h : Canonical s) : Canonical (fenceHostWrite s cid i b ga v own) := by
  unfold fenceHostWrite
  extract_lets _ _ _ _ s2
  have h2 : Canonical s2 := h.ctxPut.emit.waitsDue
  exact .ite h.ctxPut.emit.update (.ite h2.keptRaise h2)

protected theorem Canonical.advanceBinding (h : Canonical s) : Canonical (advanceBinding s cid i v).1 := by
  unfold advanceBinding
  dsimp only
  split
  · exact h
  · refine .ite_fst h ?_
    split
    · exact .pair h.ucStore
    · exact .pair h.update.emit
    · refine .ite_fst ?_ ?_
      · split
        · exact .pair h.ucStore
        · exact .pair h.fenceHostWrite
      · split
        · next heq =>
            have h1 := h.fenceMax.of_fst heq
            exact .ite_fst (.pair h1.advanced) h1
        · next heq => exact .pair (h.fenceMax.of_fst heq)

protected theorem Canonical.promise (h : Canonical s) : Canonical (promise s cid i v) := by
  unfold promise
  dsimp only
  split
  · exact h
  · exact h.ctxPut

protected theorem Canonical.poisonBindings (h : Canonical s) : Canonical (poisonBindings s cid) := by
  unfold poisonBindings
  refine h.foldl fun _ _ h => ?_
  split
  · exact h
  · exact .ite h.pinc.advanceBinding h

protected theorem Canonical.retireAdvance (h : Canonical s) : Canonical (retireAdvance s cid advEn i v status).1 :=
  .ite_fst h.advanceBinding h

protected theorem Canonical.retireRing (h : Canonical s) : Canonical (retireRing s cid n r record advEn i v).1 := by
  unfold retireRing
  dsimp only
  exact .ctxPut (.retireAdvance (.ite_fst h.writeRecord h))

protected theorem Canonical.callSettle (h : Canonical s) : Canonical (callSettle s cid seq).1 := by
  unfold callSettle
  dsimp only
  split
  · exact h
  · exact .ite_fst h.ctxPut.retireRing h

protected theorem Canonical.retireEntry (h : Canonical s) : Canonical (retireEntry s cid e r advEn i v).1 := by
  unfold retireEntry
  dsimp only
  split
  · exact .pair h.retireAdvance
  · refine .pair ?_
    refine .callSettle ?_
    refine .foldl_fst (.pair h.retireAdvance.ctxPut) fun _ _ h => ?_
    exact .pair h.retireAdvance

protected theorem Canonical.retireAny (h : Canonical s) : Canonical (retireAny s cid entry n r record advEn i v).1 := by
  unfold retireAny
  split
  · exact h.retireRing
  · exact h.retireEntry

protected theorem Canonical.retireUnstarted (h : Canonical s) : Canonical (retireUnstarted s cid q status).1 := by
  unfold retireUnstarted
  dsimp only
  split
  · exact h.ctxPut.retireEntry
  · exact .ite_fst (.pair h.ctxPut.ctxPut) h.ctxPut.ctxPut.retireRing

protected theorem Canonical.okLeaves (h : Canonical s) : Canonical (okLeaves s slot) := h.shellPut

protected theorem Canonical.sprintAnswer (h : Canonical s) : Canonical (sprintAnswer s n seq status body recBytes claim) := by
  unfold sprintAnswer
  extract_lets _ _ _ _ s1 s2
  have h1 : Canonical s1 := by
    unfold s1
    split
    · exact h.sprintPut.pinc
    · exact h.sprintPut.emit.emit
  have h2 : Canonical s2 := .ite h1.okLeaves h1
  exact .ite h (.ite h2.wakeAppend h2)

protected theorem Canonical.sprintAnswerZero (h : Canonical s) : Canonical (sprintAnswerZero s n seq status) := h.sprintAnswer

protected theorem Canonical.sprintAnswerAll (h : Canonical s) : Canonical (sprintAnswerAll s n status) :=
  .sprintPut (h.foldl (fun _ _ h => h.sprintAnswerZero))

protected theorem Canonical.sprintJobEnded (h : Canonical s) : Canonical (sprintJobEnded s slot cid) :=
  h.foldl fun _ _ h => h.sprintAnswerAll.sprintPut

protected theorem Canonical.sprintAbort (h : Canonical s) : Canonical (sprintAbort s n) := .ite h.sprintPut h

protected theorem Canonical.jobRetire (h : Canonical s) : Canonical (jobRetire s slot j).1 := by
  unfold jobRetire
  dsimp only
  exact .ctxPut (.ite h.wakeAppend.retireAny.okLeaves h.wakeAppend.retireAny)

protected theorem Canonical.heldClock (h : Canonical s) : Canonical (heldClock s slot) := .ite h h.shellPut

protected theorem Canonical.leasesJoin (h : Canonical s) : Canonical (leasesJoin s slot) := .ite h.shellPut h

protected theorem Canonical.freezeEnter (h : Canonical s) : Canonical (freezeEnter s slot) := h.shellPut

protected theorem Canonical.jobLeave (h : Canonical s) : Canonical (jobLeave s slot) :=
  .ite h.leasesJoin (.ite h.leasesJoin.freezeEnter (.ite h.leasesJoin.shellPut h.leasesJoin))

protected theorem Canonical.jobHalt (h : Canonical s) : Canonical (jobHalt s slot) := by
  unfold jobHalt
  dsimp only
  split
  · exact h
  · exact h.haltSeats.sprintJobEnded.shellPut.jobLeave

protected theorem Canonical.lossRetire (h : Canonical s) : Canonical (lossRetire s slot j cause silent) :=
  .ite h.ctxPut.wakeAppend h.jobRetire

protected theorem Canonical.preemptedEnd (h : Canonical s) : Canonical (preemptedEnd s slot j) := by
  unfold preemptedEnd
  extract_lets s1
  have h1 : Canonical s1 := h.sprintJobEnded.imagePut
  exact .ite h1.shellPut.windowsLocal h1.shellPut

protected theorem Canonical.lossOnShell (h : Canonical s) : Canonical (lossOnShell cid cause silent s slot) := by
  unfold lossOnShell
  extract_lets _ s1 _ s2
  have h1 : Canonical s1 := by
    unfold s1
    split
    · exact .ite h.jobHalt.lossRetire h
    · exact h
  have h2 : Canonical s2 := .foldl h1 (fun _ _ h => h.preemptedEnd.lossRetire)
  exact .ite h2.jobLeave h2

protected theorem Canonical.faultFlush (h : Canonical s) : Canonical (faultFlush s fn k) := by
  induction k generalizing s with
  | zero => exact h
  | succ k ih =>
    unfold faultFlush
    extract_lets _
    split
    · exact h
    · exact .ite (ih (.raiseCause (.pinc (.emit (.ite h.fnStPut h.fnStPut.ctxPut))))) h

protected theorem Canonical.faultDeliver (h : Canonical s) : Canonical (faultDeliver s cid seq lost tbOpen recs) :=
  h.fnStPut.faultFlush

protected theorem Canonical.faultLose (h : Canonical s) : Canonical (faultLose s cid) := .ite h.ctxPut h.ctxPut.faultDeliver

protected theorem Canonical.faultDiscard (h : Canonical s) : Canonical (faultDiscard s cid) := h.ctxPut.fnStPut

protected theorem Canonical.flushLost (h : Canonical s) : Canonical (flushLost s cid n).1 := by
  induction n generalizing s with
  | zero => exact h
  | succ n ih =>
    unfold flushLost
    extract_lets _
    split
    · exact h
    · refine .ite_fst (.pair (ih ?_)) h
      split
      · exact h.ctxPut.writeRecord.advanceBinding
      · exact h.ctxPut.writeRecord

protected theorem Canonical.ctxLoss (h : Canonical s) : Canonical (ctxLoss s cid cause silent) := by
  unfold ctxLoss
  extract_lets _ _ s1 s2 _ _ _ _ _ _ _ _ s3 _ s4' s4 s5
  have h1 : Canonical s1 := .ite h.ctxPut.faultDiscard h.ctxPut.faultLose
  have h2 : Canonical s2 := h1.foldl fun _ _ h => h.lossOnShell
  have h3 : Canonical s3 := h2.ctxPut
  have h4' : Canonical s4' := h3.foldl fun _ _ h => h.retireRing
  have h4 : Canonical s4 := .ite h3.ctxPut (.flushLost (h4'.foldl fun _ _ h => h.callSettle))
  have h5 : Canonical s5 := h4.poisonBindings
  exact .ite (.ite h5 h5.raiseCause) h

protected theorem Canonical.jobDeliver (h : Canonical s) : Canonical (jobDeliver s slot j) := .ite h.jobRetire h.jobRetire.ctxLoss

protected theorem Canonical.jobStop (h : Canonical s) : Canonical (jobStop s slot st det) := by
  unfold jobStop
  split
  · exact h
  · exact h.jobHalt.jobDeliver

protected theorem Canonical.jobFault (h : Canonical s) : Canonical (jobFault s slot st det) := by
  unfold jobFault
  split
  · exact h
  · exact h.ctxLoss

protected theorem Canonical.preemptedAbort (h : Canonical s) : Canonical (preemptedAbort s slot) := by
  unfold preemptedAbort
  extract_lets _ _ s0
  have h0 : Canonical s0 := h.foldl (fun _ _ h => h.preemptedEnd)
  exact .foldl (.ite h0.jobLeave h0) (fun _ _ h => h.jobDeliver)

protected theorem Canonical.fileError (h : Canonical s) : Canonical (fileError s safety e) := by
  unfold fileError
  extract_lets _ s0 _ s1 _ s2
  have h0 : Canonical s0 := h.update
  have h1 : Canonical s1 := .ite h0.islandPut h0
  have h2 : Canonical s2 := .ite h1 (.raiseCause (.fnStPut h1))
  exact .ite (.wakeAppend (.shellPut h2)) h2

/-! ### Machine/PowerOps.lean -/

protected theorem Canonical.seatsLevel (h : Canonical s) : Canonical (seatsLevel s seats l) :=
  h.foldl fun _ _ h => .ite h.seatPut h.seatPut

protected theorem Canonical.shellLevel (h : Canonical s) : Canonical (shellLevel s slot l) := h.pset.seatsLevel

protected theorem Canonical.lentLevel (h : Canonical s) : Canonical (lentLevel s id0 l) := h.update.seatsLevel

protected theorem Canonical.relevel (h : Canonical s) : Canonical (relevel s) :=
  .foldl (h.foldl (fun _ _ h => h.shellLevel)) (fun _ _ h => h.lentLevel)

protected theorem Canonical.powerForcePl7 (h : Canonical s) : Canonical (powerForcePl7 s) :=
  .foldl (h.foldl (fun _ _ h => h.shellLevel)) (fun _ _ h => h.lentLevel)

protected theorem Canonical.allocPut (h : Canonical s) : Canonical (allocPut unmet scaled slot w s) := by
  unfold allocPut
  extract_lets _ _ s2
  have h2 : Canonical s2 := .ite h.pset.pset.shellLevel h.pset.pset
  exact .ite (.ite h.lentLevel h) (.ite h2.fileError h2)

protected theorem Canonical.powerAllocate (h : Canonical s) : Canonical (powerAllocate s) :=
  .pset (h.foldl (fun _ _ h => h.allocPut))

/-! ### Machine/Rigging.lean -/

protected theorem Canonical.stagingReload (h : Canonical s) : Canonical (stagingReload s slot) := h.update.shellPut

protected theorem Canonical.scalePut (h : Canonical s) : Canonical (scalePut s slot k v) := .ite h h.octPut.raiseCause

protected theorem Canonical.scaleSettle (h : Canonical s) : Canonical (scaleSettle s k) :=
  .foldl h.update (fun _ _ h => .ite h h.scalePut)

protected theorem Canonical.scalesSettle (h : Canonical s) : Canonical (scalesSettle s) := h.foldl fun _ _ h => h.scaleSettle

protected theorem Canonical.capacitySettle (h : Canonical s) : Canonical (capacitySettle s) :=
  .ite h (h.foldl (fun _ _ h => .ite h.scaleSettle h.pset.update.scaleSettle))

protected theorem Canonical.compositionNext (h : Canonical s) : Canonical (compositionNext s slot) :=
  h.wakeAppend.pset.pset.pset.shellPut

protected theorem Canonical.rigLogAdd (h : Canonical s) : Canonical (rigLogAdd s slot code) := h.shellPut

protected theorem Canonical.seatsToScrub (h : Canonical s) : Canonical (seatsToScrub s l) :=
  .update (h.foldl (fun _ _ h => h.islandPut))

protected theorem Canonical.flashSpend (h : Canonical s) : OptionCanonical (flashSpend s) := .ite (.some h.update) .none

protected theorem Canonical.chanRetire (h : Canonical s) : Canonical (chanRetire s c) := by
  unfold chanRetire
  dsimp only
  split
  · next heq => exact (h.chanPut.flashSpend.of_some heq).update
  · exact h.chanPut

protected theorem Canonical.chanRetireFree (h : Canonical s) : Canonical (chanRetireFree s c) := h.chanRetire.fileError

protected theorem Canonical.chansToScrub (h : Canonical s) : Canonical (chansToScrub s l) := h.update

protected theorem Canonical.leasesDrop (h : Canonical s) : Canonical (leasesDrop s slot keep0) := h.update

protected theorem Canonical.leasesTake (h : Canonical s) : Canonical (leasesTake s slot l) := h.update

protected theorem Canonical.leasesJoinStart (h : Canonical s) : Canonical (leasesJoinStart s slot) :=
  .ite h.shellPut h.shellPut.heldClock

protected theorem Canonical.sprintsCut (h : Canonical s) : Canonical (sprintsCut s slot seats) :=
  h.foldl fun _ _ h => h.sprintAbort

protected theorem Canonical.rangePut (h : Canonical s) : Canonical (rangePut s i r) := h.octPut.update

protected theorem Canonical.rangesRelease (h : Canonical s) : Canonical (rangesRelease s slot) := by
  unfold rangesRelease
  exact h.foldl (fun _ _ h => .ite h (.ite h.rangePut.pset.update h.rangePut))

protected theorem Canonical.wkeysErase (h : Canonical s) : Canonical (wkeysErase s slot) := h.update

protected theorem Canonical.releaseBegin (h : Canonical s0) : Canonical (releaseBegin s0 slot) := by
  unfold releaseBegin
  exact h.wkeysErase.rangesRelease.sprintsCut.seatsToScrub.chansToScrub.shellPut.leasesDrop.slicesDrop

protected theorem Canonical.slotFree (h : Canonical s) : Canonical (slotFree s slot) :=
  h.wkeysErase.compositionNext.tenantsFree.shellPut.update.powerAllocate.scalesSettle

protected theorem Canonical.releaseSettle (h : Canonical s) : Canonical (releaseSettle s slot) := .ite h.slotFree h

protected theorem Canonical.seatMoves (h : Canonical s) : Canonical (seatMoves s l) := h.foldl fun _ _ h => h.seatLoad.seatPut

protected theorem Canonical.rigQuiet (h : Canonical s) : Canonical (rigQuiet s slot) := h.pset.pset.pinc.shellPut.stagingReload

protected theorem Canonical.migFinish (h : Canonical s) : Canonical (migFinish s slot) := h.shellPut.chansToScrub

protected theorem Canonical.resetEnter (h : Canonical s) : Canonical (resetEnter s slot) := h.shellPut

protected theorem Canonical.migSettle (h : Canonical s) : Canonical (migSettle s slot) := by
  unfold migSettle
  extract_lets s1 _ s2
  have h1 : Canonical s1 := .ite h.migFinish h
  have h2 : Canonical s2 := .ite h1.rigQuiet h1
  exact .ite h2 (.ite h2.resetEnter (.ite h2.freezeEnter h2))

protected theorem Canonical.rigTake (h : Canonical s) : Canonical (rigTake s slot m) := by
  unfold rigTake
  extract_lets _ _ _ _ _ _ s2 _ s3 _ _ _ s5 s6 _ _ s8 s9 s10
  have h2 : Canonical s2 := .foldl h.seatMoves (fun _ _ h => h.seatScrub)
  have h3 : Canonical s3 := h2.sprintsCut.seatsToScrub
  have h5 : Canonical s5 := .foldl h3.chansToScrub (fun _ _ h => h.pset)
  have h6 : Canonical s6 := h5.leasesDrop.leasesTake
  have h8 : Canonical s8 := .ite h6.shellPut.pset h6.shellPut.compositionNext
  have h9 : Canonical s9 := h8.pset.shellLevel
  have h10 : Canonical s10 := h9.leasesJoin.heldClock.windowsLocal.powerAllocate.scalesSettle
  exact .ite h10.migFinish.rigQuiet h10.pset.migSettle

protected theorem Canonical.rigApply (h : Canonical s) : Canonical (rigApply s slot m) :=
  .ite h.pset.shellPut.windowsHold h.pset.rigTake

protected theorem Canonical.rigRefuse (h : Canonical s) : Canonical (rigRefuse s slot code) := h.pset.pset.shellPut.stagingReload

protected theorem Canonical.linesMoves (h : Canonical s) : Canonical (linesMoves s slot spans) :=
  h.foldl fun _ _ h => .ite h h.seatPut

protected theorem Canonical.migBack (h : Canonical s) : Canonical (migBack s slot) := h.foldl fun _ _ h => h.memZero.memLoad

protected theorem Canonical.rigUndo (h : Canonical s) : Canonical (rigUndo s slot code) :=
  h.migBack.linesMoves.shellPut.chansToScrub.rigRefuse.migSettle

protected theorem Canonical.rigRollback (h : Canonical s) : Canonical (rigRollback s slot code) := .ite h.rigUndo h

protected theorem Canonical.seatGo (h : Canonical s) : Canonical (seatGo s i) := .ite h.seatPut h

protected theorem Canonical.catchGo (h : Canonical s) : Canonical (catchGo s slot) :=
  .foldl (h.foldl (fun _ _ h => h.seatGo)) (fun _ _ h => .ite h.remoteSend h)

protected theorem Canonical.catchRig (h : Canonical s) : Canonical (catchRig s slot n) := by
  unfold catchRig
  dsimp only
  split
  · exact .ite (.ite h.rigRollback (.ite h.rigApply h.shellPut.rigLogAdd)) h
  · exact h

protected theorem Canonical.catchFreeze (h : Canonical s) : Canonical (catchFreeze s slot n) :=
  .ite (.ite h.shellPut.rigLogAdd (.ite (.ite h.freezeEnter h) h.shellPut)) h

protected theorem Canonical.preemptBegin (h : Canonical s) : Canonical (preemptBegin s slot) := by
  unfold preemptBegin
  dsimp only
  split
  · exact .remoteSave (.ite h.shellPut.windowsHold h.shellPut)
  · exact h

protected theorem Canonical.preemptPass (h : Canonical s) : Canonical (preemptPass s slot n) := h.shellPut

protected theorem Canonical.catchPreempt (h : Canonical s) : Canonical (catchPreempt s slot n) :=
  .ite (.ite h.preemptPass.rigLogAdd (.ite h.preemptBegin h.preemptPass)) h

protected theorem Canonical.catchPoint (h : Canonical s) : Canonical (catchPoint s slot) := by
  unfold catchPoint
  extract_lets _ _ s2
  have h2 : Canonical s2 := h.catchRig.catchFreeze
  exact .ite h.catchRig (.ite h2 (.ite h2.catchPreempt (.ite h2.catchPreempt h2.catchPreempt.catchGo)))

protected theorem Canonical.catchRelease (h : Canonical s) : Canonical (catchRelease s slot) :=
  .foldl (h.foldl (fun _ _ h => h.seatGo)) (fun _ _ h => .ite h.remoteSend h)

protected theorem Canonical.preemptTry (h : Canonical s) : Canonical (preemptTry s slot) := by
  unfold preemptTry
  refine .ite h ?_
  refine .ite h.catchPoint ?_
  dsimp only
  split
  · exact .ite (.ite h.preemptBegin h.preemptPass.catchRelease) (.ite h.preemptPass.catchRelease h)
  · exact h

protected theorem Canonical.latchSettle (h : Canonical s) : Canonical (latchSettle s slot) :=
  .ite h.preemptTry h.preemptTry.catchRelease

protected theorem Canonical.rigCommitWrite (h : Canonical s) (hf : ∀ s y, Canonical s → Canonical (ask s y)) :
    Canonical (rigCommitWrite ask s slot v byKernel).1 := by
  unfold rigCommitWrite
  refine .ite_fst (.ite_fst h (.ite_fst h (.pair (.foldl h.shellPut.pset (fun _ _ h => hf _ _ h))))) ?_
  exact .ite_fst (.ite_fst h (.ite_fst h (.ite_fst h (.ite_fst (.pair h.rigRollback.latchSettle) h)))) h

protected theorem Canonical.rigDecide (h : Canonical s) : Canonical (rigDecide s slot) := by
  unfold rigDecide
  dsimp only
  split
  · exact h
  · refine .capacitySettle (.ite h.rigRefuse (.ite h.shellPut.rigQuiet.releaseBegin ?_))
    exact .ite h.shellPut.pset.preemptTry h.pset.rigApply

protected theorem Canonical.rigForm (h : Canonical s) : Canonical (rigForm s slot m).1 := .ite_fst h (.pair h.rigTake)

/-! ### Machine/GhOps.lean -/

protected theorem Canonical.ghTrain (h : Canonical s) : Canonical (ghTrain s p) := h.pset.portPut

protected theorem Canonical.admOut (h : Canonical s) : Canonical (admOut s p h' m response body) := .ite h.emit h.ghOut

protected theorem Canonical.admSend (h : Canonical s) : Canonical (admSend s dst m epoch key arg body) := h.update.admOut

protected theorem Canonical.admOnce (h : Canonical s) : Canonical (admOnce s dst m epoch key arg body) := h.update.admOut

protected theorem Canonical.bhFreeSend (h : Canonical s) : Canonical (bhFreeSend s dst epoch key) := h.admSend.update

protected theorem Canonical.keep (h : Canonical s) : Canonical (keep s k) := h.update

protected theorem Canonical.admAnswer (h : Canonical s) : Canonical (admAnswer s q m busy epoch code arg body) := h.keep.admOut

protected theorem Canonical.admHold (h : Canonical s) : Canonical (admHold s q m body) := h.keep

protected theorem Canonical.admOnceOnly (h : Canonical s) (hf : ∀ s, Canonical s → Canonical (f s)) :
    Canonical (admOnceOnly s q m f) := by
  unfold admOnceOnly
  split
  · exact h.admOut
  · exact hf _ h

protected theorem Canonical.leaseAsk (h : Canonical s) : Canonical (leaseAsk s r) := h.update.admSend

protected theorem Canonical.lentSettle (h : Canonical s) : Canonical (lentSettle s) := by
  unfold lentSettle
  dsimp only
  refine .foldl h.update fun _ _ h => ?_
  split
  · exact h.update.admAnswer
  · exact h.update

protected theorem Canonical.epochNext (h : Canonical s) : Canonical (epochNext s) := h.update

protected theorem Canonical.leaseEnd (h : Canonical s) : Canonical (leaseEnd s id0 cause returned) := by
  unfold leaseEnd
  split
  · exact h
  · refine .powerAllocate (.ite ?_ h.epochNext.update.chansToScrub)
    exact (h.epochNext.update.foldl fun _ _ h => h.seatHalt).seatsToScrub

protected theorem Canonical.channelAbort (h : Canonical s) : Canonical (channelAbort s n) := .ite h (.gchanPut (.ite h h.admOnce))

protected theorem Canonical.ghengoAbortOf (h : Canonical s) : Canonical (ghengoAbortOf s cid) :=
  h.foldl fun _ _ h => h.channelAbort

protected theorem Canonical.bhDrop (h : Canonical s) : Canonical (bhDrop s key) := by
  unfold bhDrop
  split
  · exact h
  · exact .ite h.update h.update.update

protected theorem Canonical.bhResolve (h : Canonical s) : Canonical (bhResolve s key) := by
  unfold bhResolve
  split
  · exact h
  · exact .foldl h.update (fun _ _ h => h.admSend)

protected theorem Canonical.boathouseAbortOf (h : Canonical s) : Canonical (boathouseAbortOf s cid) :=
  h.foldl fun _ _ h => .bhDrop (.ite h.bhFreeSend.bhFreeSend h.bhFreeSend)

protected theorem Canonical.leaseLose (h : Canonical s) : Canonical (leaseLose s r) := by
  unfold leaseLose
  split
  · exact h
  · split
    · exact h.update
    · exact .foldl h.update.shellPut.jobFault (fun _ _ h => h.shellPut.ctxLoss)

/-! ### Machine/Queue.lean -/

protected theorem Canonical.swapInBegin (h : Canonical s) : Canonical (swapInBegin s cid) := .foldl h.update (fun _ _ h => h.emit)

protected theorem Canonical.swapInTry (h : Canonical s) : Canonical (swapInTry s cid) := by
  unfold swapInTry
  dsimp only
  refine .ite h ?_
  refine .ite h.swapInBegin ?_
  refine .ite h ?_
  split
  · exact h
  · exact h.ctxPut.swapInBegin

protected theorem Canonical.swapWaiting (h : Canonical s) : Canonical (swapWaiting s) := h.foldl fun _ _ h => h.swapInTry

protected theorem Canonical.takeHead (h : Canonical s) : Canonical (takeHead s cid q).1 := .pair h.ctxPut

protected theorem Canonical.stampHead (h : Canonical s) : Canonical (stampHead s cid) := by
  unfold stampHead
  dsimp only
  split
  · exact h
  · exact h.ctxPut

protected theorem Canonical.cmdRetire (h : Canonical s) : Canonical (cmdRetire s cid q status) :=
  .ite h.retireAny.stampHead h.retireAny.ctxLoss

protected theorem Canonical.privEnd (h : Canonical s) : Canonical (privEnd s cid q code) := .cmdRetire (.ctxPut (.ite h h.emit))

protected theorem Canonical.privBegin (h : Canonical s) : Canonical (privBegin s cid q) := h.ctxPut

protected theorem Canonical.withHead (h : Canonical s) (hf : ∀ s y, Canonical s → Canonical (f s y)) :
    AnsCanonical (withHead s cid op f) := by
  unfold withHead
  dsimp only
  split
  · exact .next h
  · exact .ite (.next (hf _ _ h.takeHead).stampHead) (.next h)

protected theorem Canonical.cmdRefuse (h : Canonical s) : Canonical (cmdRefuse s cid q code) := h.ctxPut.retireUnstarted.ctxLoss

protected theorem Canonical.slotAccept (h : Canonical s) : Canonical (slotAccept s cid q) :=
  .stampHead (.ite h.ctxPut.promise h.ctxPut)

protected theorem Canonical.fetchSlots (h : Canonical s) : Canonical (fetchSlots cid again n b s) := by
  induction n generalizing again b s with
  | zero => exact h
  | succ n ih =>
    unfold fetchSlots
    refine .ite h (.ite (.ite h.ctxPut.cmdRefuse h.ctxPut.pinc) ?_)
    exact .ite (ih h.ctxPut.slotAccept) h.ctxPut.cmdRefuse

protected theorem Canonical.execHqTailWrite (h : Canonical s) : AnsCanonical (execHqTailWrite fn w s) :=
  .ite (.next h) (.ite (.next h.pinc) (.ite (.next h) (.ite (.next h.pinc) (.next h.ctxPut.swapInTry))))

protected theorem Canonical.execHeadWbMerge (h : Canonical s) : AnsCanonical (execHeadWbMerge ctx s) :=
  .ite (.next h.ctxPut.emit) (.next h)

protected theorem Canonical.execCmdNop (h : Canonical s) : AnsCanonical (execCmdNop ctx s) := h.withHead fun _ _ h => h.cmdRetire

protected theorem Canonical.callStart (h : Canonical s) : Canonical (callStart s cid q) := h.ctxPut

protected theorem Canonical.execCmdCall (h : Canonical s) : AnsCanonical (execCmdCall ctx s) :=
  h.withHead fun _ _ h => h.callStart

protected theorem Canonical.execCmdAccount (h : Canonical s) : AnsCanonical (execCmdAccount ctx s) :=
  h.withHead fun _ _ h => .ite h.privEnd h.emit.privEnd

protected theorem Canonical.execCmdLaunch (h : Canonical s) : AnsCanonical (execCmdLaunch ctx s) := by
  unfold execCmdLaunch
  dsimp only
  split
  · refine .ite ?_ (.next h)
    refine h.withAts ?_
    split
    · exact .next h.ctxPut.askRead
    · exact .next h.cmdRefuse
  · exact .next h

protected theorem Canonical.execFenceWaitPoll (h : Canonical s) : AnsCanonical (execFenceWaitPoll ctx s) := by
  unfold execFenceWaitPoll
  dsimp only
  split
  · exact .next h
  · refine .ite (.next h) ?_
    refine h.withAts ?_
    split
    · exact .next h.cmdRefuse
    · exact .ite (.next h.ctxPut.askRead) (.next h)

/-! ### Machine/Sched.lean -/

protected theorem Canonical.jobTryStart (h : Canonical s) : Canonical (jobTryStart s slot) := by
  unfold jobTryStart
  dsimp only
  split
  · exact h
  · exact .ite (.foldl h.shellPut.latchesRebase (fun _ _ h => h.seatStart)) h

protected theorem Canonical.warmPins (h : Canonical s) : Canonical (warmPins s slot cid l) :=
  h.foldl (fun _ _ h => h.foldl (fun _ _ h => h.rangeIn))

protected theorem Canonical.launchOn (h : Canonical s) : Canonical (launchOn s cid q slot) := by
  unfold launchOn
  split
  next heq =>
  extract_lets _ _ _ _ s2 _ _ s5
  have h1 := h.takeHead.of_fst heq
  have h2 : Canonical s2 := .ite h1.pinc h1
  have h5 : Canonical s5 := h2.shellPut.ctxPut.warmPins.stampHead.leasesJoinStart.windowsLocal
  exact .jobTryStart (.ite (h5.foldl fun _ _ h => h.remoteSend) h5)

protected theorem Canonical.shellSelect (h : Canonical s) : Canonical (shellSelect s slot) := by
  unfold shellSelect
  dsimp only
  refine .ite h ?_
  split
  · exact h
  · refine .ite ?_ ?_
    · split
      · exact h
      · exact .remoteRestore (.windowsHold (.shellPut (.ite h.pinc h)))
    · split
      · exact .ite h.launchOn h
      · exact h

protected theorem Canonical.selectAll (h : Canonical s) : Canonical (selectAll s slots) := h.foldl fun _ _ h => h.shellSelect

protected theorem Canonical.nextWarm (h : Canonical s) : Canonical (nextWarm s slot) := by
  unfold nextWarm
  refine .ite h ?_
  split
  · exact h
  · refine .ite h ?_
    split
    · exact h.warmPins
    · exact h

protected theorem Canonical.execCommandStart (h : Canonical s) : AnsCanonical (execCommandStart ctx s) := by
  unfold execCommandStart
  extract_lets _ _ s0
  have h0 : Canonical s0 := h.swapWaiting.selectAll.stampHead
  split
  · exact .next h0
  · refine .ite (.next h0) ?_
    refine .ite ?_ (.ite (h0.withHead fun _ _ h => h.cmdRetire) ?_)
    rotate_left
    · exact .ite (h0.withHead fun _ _ h => h.callStart) (.next h0)
    split
    · exact .next h0
    · split
      · exact .next (.foldl h0 (fun _ _ h => h.nextWarm))
      · exact .next h0.shellSelect

protected theorem Canonical.preemptLatch (h : Canonical s) : Canonical (preemptLatch s slot) := h.shellPut

protected theorem Canonical.execPreemptQuantumExpiry (h : Canonical s) : AnsCanonical (execPreemptQuantumExpiry slot s) := by
  unfold execPreemptQuantumExpiry
  dsimp only
  split
  · exact .next h
  · refine .ite ?_ (.next h)
    split
    · exact .next h.preemptLatch.preemptTry
    · exact .next h.pinc

protected theorem Canonical.preemptCtlWrite (h : Canonical s) : Canonical (preemptCtlWrite s slot v).1 := by
  unfold preemptCtlWrite
  dsimp only
  refine .ite_fst h ?_
  refine .ite_fst h ?_
  refine .ite_fst h ?_
  refine .ite_fst ?_ (.pair h.shellPut.pset.shellSelect)
  split
  · exact .ite_fst (.pair h.shellPut.pset.preemptLatch.preemptTry) (.pair h.shellPut.pset)
  · exact .pair h.shellPut.pset

protected theorem Canonical.execPreemptCtlPreempt (h : Canonical s) : AnsCanonical (execPreemptCtlPreempt slot s) :=
  .ite (.next h.preemptCtlWrite) (.next h)

protected theorem Canonical.execPreemptCtlLift (h : Canonical s) : AnsCanonical (execPreemptCtlLift slot s) :=
  .ite (.next h.preemptCtlWrite) (.next h)

protected theorem Canonical.execPreemptSaveDone (h : Canonical s) : AnsCanonical (execPreemptSaveDone slot s) := by
  unfold execPreemptSaveDone
  dsimp only
  split
  · exact .next h
  · refine .ite (.next h) (.next ?_)
    exact (h.foldl fun _ _ h => h.seatFlush).imageSave.ctxPut.pinc.shellPut.jobLeave.shellSelect

protected theorem Canonical.execPreemptRestoreDone (h : Canonical s) : AnsCanonical (execPreemptRestoreDone slot s) := by
  unfold execPreemptRestoreDone
  dsimp only
  split
  · exact .next h
  · exact .ite (.next h) (.next h.latchesRebase.imageRestore.windowsLocal.shellPut)

protected theorem Canonical.timeoutCount (h : Canonical s) : Canonical (timeoutCount s cid) := h.ctxPut.pinc

protected theorem Canonical.execCmdTimeoutExpiry (h : Canonical s) : AnsCanonical (execCmdTimeoutExpiry ctx onShell s) := by
  unfold execCmdTimeoutExpiry
  dsimp only
  refine .ite (.next h) ?_
  split
  · split
    · exact .next h
    · refine .ite (.next h) (.next (.selectAll (.ctxLoss (.ite ?_ (.shellPut ?_)))))
      all_goals exact h.freeNext.timeoutCount.fileError
  · split
    · exact .next h
    · exact .ite (.next h.timeoutCount.fileError.retireUnstarted.ctxLoss) (.next h)

protected theorem Canonical.execReleaseHoldExpiry (h : Canonical s) : AnsCanonical (execReleaseHoldExpiry slot s) := by
  unfold execReleaseHoldExpiry
  dsimp only
  split
  · exact .next h
  · exact .ite (.next h) (.next h.shellPut.jobLeave.jobDeliver.stampHead.shellSelect.swapWaiting)

/-! ### Machine/Sprint.lean -/

protected theorem Canonical.sprintCommit (h : Canonical s) : Canonical (sprintCommit s n) :=
  .ite h.sprintPut.sprintAnswerZero (.ite h.sprintPut.pinc.sprintAnswerZero h.sprintPut.lseatWrite.lseatPegSet.sprintPut)

protected theorem Canonical.execSprintWindowWrite (h : Canonical s) : AnsCanonical (execSprintWindowWrite fn offset data s) := by
  unfold execSprintWindowWrite
  extract_lets _ _ _ _ _ s2
  have h2 : Canonical s2 := .ite h.sprintPut.pinc h.sprintPut
  exact .ite (.ite (.next h2.sprintCommit) (.next h2)) (.ite (.next h.pinc) (.next h))

protected theorem Canonical.execEgressReadDone (h : Canonical s) : AnsCanonical (execEgressReadDone slot s) := by
  unfold execEgressReadDone
  dsimp only
  refine .ite ?_ (.next h)
  split
  · exact .next h.sprintPut
  · split
    · exact .next h
    · exact .ite (.next h.sprintPut) (.ite (.next h.lseatPegPut.sprintPut) (.next h.lseatPegPut.sprintPut.sprintAnswer))

protected theorem Canonical.execSprintGateHoldExpiry (h : Canonical s) : AnsCanonical (execSprintGateHoldExpiry slot s) := by
  unfold execSprintGateHoldExpiry
  dsimp only
  split
  · exact .next h
  · exact .ite (.next h) (.next h.sprintPut.sprintAnswer)

protected theorem Canonical.sprintEnded (h : Canonical s) : Canonical (sprintEnded s n) := h.sprintAnswerAll.sprintPut

protected theorem Canonical.execSprintAbortEnd (h : Canonical s) : AnsCanonical (execSprintAbortEnd slot s) := by
  unfold execSprintAbortEnd
  dsimp only
  refine .ite ?_ (.next h)
  split
  · exact .next (.ite h.sprintEnded.privEnd h.sprintEnded)
  · exact .next h.sprintEnded

protected theorem Canonical.sprintInstall (h : Canonical s) : Canonical (sprintInstall s cid q) := h.sprintPut

protected theorem Canonical.execCmdSprintBind (h : Canonical s) : AnsCanonical (execCmdSprintBind ctx s) :=
  h.withHead fun _ _ h => .privEnd (.ite h.sprintInstall h)

protected theorem Canonical.execCmdSprintUnbind (h : Canonical s) : AnsCanonical (execCmdSprintUnbind ctx s) :=
  h.withHead fun _ _ h => .ite h.privBegin.sprintAbort.sprintPut h.privEnd

/-! ### Machine/HostObj.lean -/

protected theorem Canonical.sliceHoldQueue (h : Canonical s) : Canonical (sliceHoldQueue s a) := by
  unfold sliceHoldQueue
  split
  · exact h.update
  · exact h

protected theorem Canonical.sliceRelease (h : Canonical s) : Canonical (sliceRelease s a) := by
  unfold sliceRelease
  split
  · exact h.slicesDrop
  · exact h

protected theorem Canonical.seqSlotsFree (h : Canonical s) : Canonical (seqSlotsFree s cid) := h.update

protected theorem Canonical.entriesFree (h : Canonical s) : Canonical (entriesFree s cid) := h.rangeDrop.ctxPut.slicesSettle

protected theorem Canonical.mailboxReset (h : Canonical s) : Canonical (mailboxReset s fn) := h.update

protected theorem Canonical.ctxDecide (h : Canonical s) : Canonical (ctxDecide s fn seq ctx code) :=
  h.fnStPut.fnPut.fnPut.raiseCause

protected theorem Canonical.ctxCmd (h : Canonical s) (hf : ∀ s y z w, Canonical s → Canonical (go s y z w)) :
    AnsCanonical (ctxCmd s fn w op go) := by
  unfold ctxCmd
  dsimp only
  refine .ite (.next h) ?_
  refine .ite (.next h.pinc) ?_
  refine .ite (.next h.ctxDecide) ?_
  split
  · exact .next h.fnPut
  · exact .next h.ctxDecide
  · exact .next h.ctxDecide
  · exact .ite (.next h.ctxDecide) (.next (hf _ _ _ _ h))

protected theorem Canonical.ctxRead (h : Canonical s) : Canonical (ctxRead s fn seq cid arg op len) := h.fnStPut.fnPut.emit

protected theorem Canonical.execCtxCmdCreate (h : Canonical s) : AnsCanonical (execCtxCmdCreate fn w s) :=
  h.ctxCmd fun _ _ _ _ h => h.ctxRead

protected theorem Canonical.execCtxCmdFenceBind (h : Canonical s) : AnsCanonical (execCtxCmdFenceBind fn w s) :=
  h.ctxCmd fun _ _ _ _ h => h.ctxRead

protected theorem Canonical.execCtxCmdFenceUnbind (h : Canonical s) : AnsCanonical (execCtxCmdFenceUnbind fn w s) := by
  unfold execCtxCmdFenceUnbind
  refine h.ctxCmd fun _ _ _ _ h => ?_
  dsimp only
  split
  · exact h.ctxDecide
  · exact .ite h.ctxDecide h.ctxPut.ctxDecide

protected theorem Canonical.flrSettle (h : Canonical s) : Canonical (flrSettle s fn) := .ite h.update.fnStPut h

protected theorem Canonical.destroyBegin (h : Canonical s) : Canonical (destroyBegin s cid seq) :=
  (h.ctxLoss.foldl fun _ _ h => h.sprintAbort).boathouseAbortOf.ghengoAbortOf.seqSlotsFree.faultDiscard.ctxPut.update

protected theorem Canonical.execCtxCmdDestroy (h : Canonical s) : AnsCanonical (execCtxCmdDestroy fn w s) :=
  h.ctxCmd fun _ _ _ _ h => h.fnStPut.fnPut.destroyBegin

protected theorem Canonical.execDestroyEnd (h : Canonical s) : AnsCanonical (execDestroyEnd ctx s) := by
  unfold execDestroyEnd
  extract_lets _ _ s1 _ _ s3
  have h1 : Canonical s1 := .ite h.sliceRelease h
  have h3 : Canonical s3 := h1.entriesFree.ctxPut.update
  refine .ite ?_ (.next h)
  split
  · exact .next h3.ctxDecide.swapWaiting
  · exact .next h3.flrSettle.swapWaiting

/-- The state that is left when a context identifier has been taken. -/
protected theorem Canonical.takeCtxId (h : Canonical s) (e : takeCtxId s = some (cid, t)) : Canonical t := by
  unfold takeCtxId at e
  split at e
  · obtain ⟨-, rfl⟩ := Prod.mk.inj (Option.some.inj e)
    exact h.update
  · split at e
    · exact absurd e.symm (Option.some_ne_none _)
    · obtain ⟨-, rfl⟩ := Prod.mk.inj (Option.some.inj e)
      exact h.update

protected theorem Canonical.functionReset (h : Canonical s) : Canonical (functionReset s fn) :=
  .flrSettle (.fnStPut (.mailboxReset (h.foldl (fun _ _ h => .ite h.ctxPut h.destroyBegin))))

protected theorem Canonical.execFunctionLevelReset (h : Canonical s) : AnsCanonical (execFunctionLevelReset fn s) :=
  .ite (.next h.functionReset) (.next h)

protected theorem Canonical.execVfEnableSet (h : Canonical s) : AnsCanonical (execVfEnableSet n s) :=
  .ite (.next (.update (h.foldl (fun _ _ h => h.fnStPut)))) (.next h)

protected theorem Canonical.execVfEnableClear (h : Canonical s) : AnsCanonical (execVfEnableClear s) :=
  .ite (.next (.update (h.foldl (fun _ _ h => h.functionReset.pset.fnStPut)))) (.next h)

protected theorem Canonical.execIntStatusWrite (h : Canonical s) : AnsCanonical (execIntStatusWrite fn w s) :=
  .ite (.next h.fnPut) (.next h)

protected theorem Canonical.execUcHeadWrite (h : Canonical s) : AnsCanonical (execUcHeadWrite fn w s) :=
  .ite (.next h) (.ite (.next h.fnPut) (.next h.pinc))

protected theorem Canonical.execCrHeadWrite (h : Canonical s) : AnsCanonical (execCrHeadWrite fn w s) := by
  unfold execCrHeadWrite
  refine .ite (.next h) (.ite (.next h.pinc) (.ite (.next ?_) (.next h.pinc)))
  exact .ite h.ctxPut.flushLost.stampHead h.ctxPut.flushLost.ctxLoss

protected theorem Canonical.dmwrFail (h : Canonical s) : Canonical (dmwrFail s d cause) :=
  .ctxLoss (.ite h.ucStore.ctxPut h.ucStore)

protected theorem Canonical.execDmwrCompletion (h : Canonical s) : AnsCanonical (execDmwrCompletion id0 r s) := by
  unfold execDmwrCompletion
  split
  · exact .next h
  · dsimp only
    split
    · refine .next ?_
      split
      · exact .ite h.update.advanced h.update.waitsDue
      · exact h.update
    · exact .next h.update.dmwrFail
    · exact .next h.update.dmwrFail
    · exact .ite (.next h.update.dmwrFail) (.next h.update)

protected theorem Canonical.execDmwrRetryTimer (h : Canonical s) : AnsCanonical (execDmwrRetryTimer id0 s) := by
  unfold execDmwrRetryTimer
  split
  · exact .next h
  · exact .ite (.next h) (.next h.update.emit)

protected theorem Canonical.execDmwrTimeout (h : Canonical s) : AnsCanonical (execDmwrTimeout id0 s) := by
  unfold execDmwrTimeout
  split
  · exact .next h
  · exact .next (.ite h.update.dmwrFail h)

protected theorem Canonical.execCompletionMessageCoalesce (h : Canonical s) :
    AnsCanonical (execCompletionMessageCoalesce ctx s) :=
  .ite (.next h.ctxPut.msixSend) (.next h)

/-! ### Machine/RangeCmds.lean -/

protected theorem Canonical.respFlush (h : Canonical s) : Canonical (respFlush s fn k) := by
  induction k generalizing s with
  | zero => exact h
  | succ k ih =>
    unfold respFlush
    extract_lets _
    split
    · exact h
    · exact .ite (ih h.fnStPut.emit.raiseCause) h

protected theorem Canonical.respond (h : Canonical s) : Canonical (respond s fn gen cid op idx code dup) := h.fnStPut.respFlush

protected theorem Canonical.slotPut (h : Canonical s) : Canonical (slotPut s cid idx x) := h.ctxPut

protected theorem Canonical.entryForce (h : Canonical s) : Canonical (entryForce s cid idx e x) :=
  h.slotPut.rangeDrop.update.slicesSettle

protected theorem Canonical.updateDecide (h : Canonical s) : Canonical (updateDecide s fn op cid idx gen) := by
  unfold updateDecide
  -- the comparison by a name, so that no check of a case computes it
  obtain ⟨cmp, hcmp⟩ := exists_eq' (a' := serialCmp)
  rw [hcmp]
  dsimp only
  refine .ite h.respond (.ite h.respond (.ite h.respond (.ite ?_ ?_)))
  · split
    · exact h.slotPut.emit
    · split
      · exact h.respond
      · exact h.respond
      · exact h.respond
      · exact h.slotPut.emit
  · exact .ite h.rangeDrop.slotPut.slicesSettle (.ite h.respond h.respond)

protected theorem Canonical.batchDeliver (h : Canonical s) : Canonical (batchDeliver s cid) := h.ctxPut.faultDeliver

protected theorem Canonical.batchOpen (h : Canonical s) : Canonical (batchOpen s cid recs) := by
  unfold batchOpen
  split
  · exact h
  · exact .ite h.ctxPut.batchDeliver h.ctxPut

protected theorem Canonical.faultRecord (h : Canonical s) : Canonical (faultRecord s cid r).1 := by
  unfold faultRecord
  dsimp only
  split
  · exact .pair h.batchOpen
  · exact .pair (.ite h.ctxPut.batchDeliver h.ctxPut)
  · exact .ite_fst (.pair h.ctxPut) h
  · exact h

protected theorem Canonical.xferResume (h : Canonical s) : Canonical (xferResume s seat f) := h.seatPut

protected theorem Canonical.batchResume (h : Canonical s) : Canonical (batchResume s cid) :=
  .foldl (h.foldl (fun _ _ h => by split; exacts [h.xferResume, h])) (fun _ _ h => h.xferResume)

protected theorem Canonical.batchLoss (h : Canonical s) : Canonical (batchLoss s cid) := h.ctxLoss

protected theorem Canonical.resolveDecide (h : Canonical s) : Canonical (resolveDecide s fn verdict cid batch) := by
  unfold resolveDecide
  refine .ite h.respond (.ite h.respond (.ite h.respond (.ite ?_ (.ite h.respond h.respond))))
  exact .ite h.batchResume.respond.ctxPut.batchOpen h.batchLoss.respond

protected theorem Canonical.updatesRun (h : Canonical s) : Canonical (updatesRun s fn k) := by
  induction k generalizing s with
  | zero => exact h
  | succ k ih =>
    unfold updatesRun
    extract_lets _
    split
    · exact h
    · exact .ite (ih (.ite h.fnStPut.updateDecide h.fnStPut.resolveDecide)) h

protected theorem Canonical.updatePush (h : Canonical s) : Canonical (updatePush s fn op cid idx gen) :=
  .ite h.pinc h.fnStPut.updatesRun

protected theorem Canonical.resolvePush (h : Canonical s) : Canonical (resolvePush s fn verdict cid batch) := h.fnStPut.updatesRun

protected theorem Canonical.execRtUpdateInstall (h : Canonical s) : AnsCanonical (execRtUpdateInstall fn gen ctx index s) :=
  .ite (.next h.updatePush) (.next h)

protected theorem Canonical.execRtUpdateRevoke (h : Canonical s) : AnsCanonical (execRtUpdateRevoke fn gen ctx index s) :=
  .ite (.next h.updatePush) (.next h)

protected theorem Canonical.execRtMirrorFetchDone (h : Canonical s) : AnsCanonical (execRtMirrorFetchDone ctx index r s) := by
  unfold execRtMirrorFetchDone
  dsimp only
  refine .ite (.next h) ?_
  split
  · exact .next h.slotPut.respond
  · exact .next h.slotPut.respond
  · exact .ite (.next h.slotPut.respond) (.ite (.next h.entryForce.respond) (.next h.entryForce))

protected theorem Canonical.execEntryDrainDone (h : Canonical s) : AnsCanonical (execEntryDrainDone ctx index s) :=
  .ite (.next h) (.next h.slotPut.respond)

protected theorem Canonical.execTrRespHeadWrite (h : Canonical s) : AnsCanonical (execTrRespHeadWrite fn v s) :=
  .ite (.next h) (.ite (.next h.pinc) (.next h.fnStPut.fnPut.respFlush.updatesRun))

protected theorem Canonical.execFltRingHeadWrite (h : Canonical s) : AnsCanonical (execFltRingHeadWrite fn v s) :=
  .ite (.next h) (.ite (.next h.pinc) (.next h.fnStPut.fnPut.faultFlush))

protected theorem Canonical.execFltResolveResume (h : Canonical s) : AnsCanonical (execFltResolveResume fn batch ctx s) :=
  .ite (.next h.resolvePush) (.next h)

protected theorem Canonical.execFltResolveAbort (h : Canonical s) : AnsCanonical (execFltResolveAbort fn batch ctx s) :=
  .ite (.next h.resolvePush) (.next h)

protected theorem Canonical.execFaultWindowExpiry (h : Canonical s) : AnsCanonical (execFaultWindowExpiry ctx s) :=
  .ite (.next h.batchDeliver) (.next h)

protected theorem Canonical.execFaultTimeoutExpiry (h : Canonical s) : AnsCanonical (execFaultTimeoutExpiry ctx s) :=
  .ite (.next h.pinc.batchLoss) (.next h)

protected theorem Canonical.advRetry (h : Canonical s) : Canonical (advRetry s w) := by
  unfold advRetry
  split
  · exact h
  · split
    · exact h.update
    · exact .ite h.advanceBinding h.advanceBinding.ctxLoss

protected theorem Canonical.advRetryAll (h : Canonical s) : Canonical (advRetryAll s) := .foldl h.update (fun _ _ h => h.advRetry)

protected theorem Canonical.execAtsTranslationCompletion (h : Canonical s) :
    AnsCanonical (execAtsTranslationCompletion fn page grant s) :=
  .ite (.next h) (.next h.update.advRetryAll)

protected theorem Canonical.execAtsInvalidationRequest (h : Canonical s) :
    AnsCanonical (execAtsInvalidationRequest fn page pages s) :=
  .ite (.next h) (.next h.update.emit)

protected theorem Canonical.execSliceZeroDone (h : Canonical s) : AnsCanonical (execSliceZeroDone die slice0 s) :=
  .ite (.next h.update.memZero.sliceHeal) (.next h)

protected theorem Canonical.mbxWrite (h : Canonical s) : Canonical (mbxWrite s fn off n v) := .ite h.update (.ite h.update h)

protected theorem Canonical.atsEnable (h : Canonical s) : Canonical (atsEnable s fn on) := .ite h.fnStPut h.fnStPut.update

protected theorem Canonical.msixWrite (h : Canonical s) : Canonical (msixWrite s fn off v) := .ite h.fnPut.fnPut.msixSend h.fnPut

protected theorem Canonical.atomicsEnable (h : Canonical s) : Canonical (atomicsEnable s fn on) := h.fnStPut

protected theorem Canonical.execRegisterWrite (h : Canonical s) : AnsCanonical (execRegisterWrite fn space offset size v s) := by
  unfold execRegisterWrite
  dsimp only
  refine .ite (.next h) ?_
  refine .ite (.next h.mbxWrite) ?_
  refine .ite (.next h.atsEnable) ?_
  refine .ite (.next h.atomicsEnable) ?_
  refine .ite (.next h.updatePush) ?_
  refine .ite (.next h.resolvePush) ?_
  refine .ite (h.ctxCmd (fun _ _ _ _ h => h)) ?_
  refine .ite (.next (.ite h.msixWrite h.msixWrite.msixWrite)) ?_
  split
  · exact .next h
  · exact .ite (.next h) (.ite (.next h.pinc) (.ite (.next h.pinc) (.ite (.next h.pinc) (.next h.fnPut))))

/-! ### Machine/RigCmds.lean -/

protected theorem Canonical.execRigCommit (h : Canonical s) : AnsCanonical (execRigCommit slot byKernel s) :=
  .ite (.next (h.rigCommitWrite (fun _ _ h => h.leaseAsk))) (.next h)

protected theorem Canonical.execRigCancel (h : Canonical s) : AnsCanonical (execRigCancel slot s) :=
  .ite (.next (h.rigCommitWrite (fun _ _ h => h.leaseAsk))) (.next h)

protected theorem Canonical.execRigCheckDone (h : Canonical s) : AnsCanonical (execRigCheckDone slot s) :=
  .ite (.next h.rigDecide.shellSelect) (.next h)

protected theorem Canonical.execSeatCatchDrained (h : Canonical s) : AnsCanonical (execSeatCatchDrained seat s) := by
  unfold execSeatCatchDrained
  extract_lets _ _ _ s2
  have h2 : Canonical s2 := h.seatFlush.corePut
  refine .ite ?_ (.next h)
  split
  · exact .next h2.preemptTry
  · exact .next h2.lentReport

protected theorem Canonical.execSeatCopyDone (h : Canonical s) : AnsCanonical (execSeatCopyDone slot s) := by
  unfold execSeatCopyDone
  dsimp only
  split
  · exact .ite (.next (.shellSelect (.ite h.rigTake.catchPoint h.rigTake))) (.next h)
  · exact .next h

protected theorem Canonical.execCatchDeadlineExpiry (h : Canonical s) : AnsCanonical (execCatchDeadlineExpiry slot s) := by
  unfold execCatchDeadlineExpiry
  split
  · exact .ite (.next h.rigRollback.latchSettle) (.next h)
  · exact .next h

protected theorem Canonical.migCopy (h : Canonical s) : Canonical (migCopy s0 s m) := h.memZero.memLoad.chanPut

protected theorem Canonical.execMigrationGranuleCopied (h : Canonical s) :
    AnsCanonical (execMigrationGranuleCopied slot lch s) := by
  unfold execMigrationGranuleCopied
  dsimp only
  split
  · exact .next h
  · exact .ite (.next h) (.next (h.foldl fun _ _ h => h.migCopy).linesMoves.shellPut.migSettle.preemptTry)

protected theorem Canonical.freezeCode (h : Canonical s) : Canonical (freezeCode s slot code) := h.pset

protected theorem Canonical.freezeCtl (h : Canonical s) (hf : ∀ s, Canonical s → Canonical (f s)) :
    Canonical (freezeCtl s slot v f) :=
  .ite h (.ite h.freezeCode (.ite h.freezeCode (hf _ h.pset)))

protected theorem Canonical.freezeStart (h : Canonical s) : Canonical (freezeStart s slot) := by
  unfold freezeStart
  refine h.freezeCtl fun _ h => ?_
  refine .ite (.ite h.freezeCode.freezeEnter h.freezeCode.shellPut) ?_
  exact .ite (.ite h.freezeCode (.ite (.ite h.freezeCode.freezeEnter h.freezeCode.shellPut) h.freezeCode.shellPut)) h.freezeCode

protected theorem Canonical.freezeSave (h : Canonical s) : Canonical (freezeSave s slot) :=
  h.freezeCtl fun _ h => .ite h.freezeCode (.ite h.freezeCode h.shellPut.windowsHold)

protected theorem Canonical.chanUnimage (h : Canonical s) : Canonical (chanUnimage s c l) := h.memZero.memLoad

protected theorem Canonical.execFreezeSaveDone (h : Canonical s) : AnsCanonical (execFreezeSaveDone slot s) :=
  .ite (.next h.engineWrite.freeNext.imagePut.shellPut.windowsImage.freezeCode) (.next h)

protected theorem Canonical.jobAdopt (h : Canonical s) : Canonical (jobAdopt s slot im) := by
  unfold jobAdopt
  dsimp only
  refine .ite h ?_
  split
  · exact h
  · exact h.ctxPut.shellPut

protected theorem Canonical.thawed (h : Canonical s) : Canonical (thawed s slot) := h.shellPut.catchGo

protected theorem Canonical.restoreBegin (h : Canonical s) : Canonical (restoreBegin s slot host) :=
  .ite h.freezeCode h.imagePut.shellPut.windowsHold

protected theorem Canonical.freezeThaw (h : Canonical s) : Canonical (freezeThaw s slot) :=
  h.freezeCtl fun _ h => .ite h.freezeCode.thawed.shellSelect (.ite (.ite h.shellPut.emit h.restoreBegin) h.freezeCode)

protected theorem Canonical.channelsLoad (h : Canonical s) : Canonical (channelsLoad s slot l) :=
  h.foldl fun _ _ h => h.chanUnimage

protected theorem Canonical.seatIdleOf (h : Canonical s) : Canonical (seatIdleOf s i) := h.seatPut

protected theorem Canonical.execFreezeRestoreDone (h : Canonical s) : AnsCanonical (execFreezeRestoreDone slot s) := by
  unfold execFreezeRestoreDone
  extract_lets _ _ _ s1 s2 _ s3
  have h1 : Canonical s1 := .channelsLoad (.foldl h.jobAdopt (fun _ _ h => h.seatLoad))
  have h2 : Canonical s2 := .imagePut (.ite (.foldl h1 (fun _ _ h => h.seatIdleOf)) h1)
  have h3 : Canonical s3 := h2.shellPut.windowsLocal
  exact .ite (.next (.shellSelect (.freezeCode (.thawed (.ite h3.pset h3))))) (.next h)

protected theorem Canonical.freezeLoad (h : Canonical s) : Canonical (freezeLoad s slot) :=
  h.freezeCtl fun _ h => .ite h.freezeCode (.ite h.freezeCode (.ite h.shellPut.emit h.shellPut))

protected theorem Canonical.execImageHeaderReadDone (h : Canonical s) :
    AnsCanonical (execImageHeaderReadDone slot header seats channels rest s) := by
  unfold execImageHeaderReadDone
  extract_lets _ _ _ _ _ s1
  have h1 : Canonical s1 := .ite h.shellPut.emit h.shellPut
  refine .ite (.next h) ?_
  refine .ite (.next h.shellPut.restoreBegin) ?_
  refine .ite (.next h.shellPut.freezeCode) ?_
  exact .ite (.next h.shellPut.freezeCode) (.ite (.next h1.freezeCode) (.next h1.imagePut.shellPut.windowsImage.freezeCode))

protected theorem Canonical.execFreezeCtlFreeze (h : Canonical s) : AnsCanonical (execFreezeCtlFreeze slot s) :=
  .ite (.next h.freezeStart) (.next h)

protected theorem Canonical.execFreezeCtlSave (h : Canonical s) : AnsCanonical (execFreezeCtlSave slot s) :=
  .ite (.next h.freezeSave) (.next h)

protected theorem Canonical.execFreezeCtlThaw (h : Canonical s) : AnsCanonical (execFreezeCtlThaw slot s) :=
  .ite (.next h.freezeThaw) (.next h)

protected theorem Canonical.execFreezeCtlLoadImage (h : Canonical s) : AnsCanonical (execFreezeCtlLoadImage slot s) :=
  .ite (.next h.freezeLoad) (.next h)

protected theorem Canonical.leaveDone (h : Canonical s) : Canonical (leaveDone s seat chan) := h.update

protected theorem Canonical.scrubbedFor (h : Canonical s) : Canonical (scrubbedFor s slot seat) := h.shellPut.jobTryStart

protected theorem Canonical.execSeatScrubDone (h : Canonical s) : AnsCanonical (execSeatScrubDone seat s) := by
  unfold execSeatScrubDone
  extract_lets _ s1 _ s2
  have h1 : Canonical s1 := h.update.seatScrub
  have h2 : Canonical s2 := h1.islandPut.leaveDone
  refine .ite ?_ ?_
  · split
    · exact .next h2.releaseSettle.lentSettle
    · exact .next h2.lentSettle
  · split
    · exact .ite (.next h.seatScrub.scrubbedFor) (.next h)
    · exact .next h

protected theorem Canonical.execChannelScrubDone (h : Canonical s) : AnsCanonical (execChannelScrubDone chan s) := by
  unfold execChannelScrubDone
  extract_lets _ s1
  have h1 : Canonical s1 := h.update.leaveDone.memZero
  refine .ite (.next ?_) (.next h)
  exact ((Canonical.ite h1.chanPut.chanRetireFree h1.chanPut).foldl fun _ _ h => .ite h.releaseSettle h).lentSettle

protected theorem Canonical.meterAdd (h : Canonical s) : Canonical (meterAdd s k n) := h.pset

protected theorem Canonical.execMeterTick (h : Canonical s) : AnsCanonical (execMeterTick s) :=
  .ite (.next (h.foldl (fun _ _ h => .ite h h.meterAdd.meterAdd.meterAdd))) (.next h)

/-! ### Machine/Safety.lean -/

protected theorem Canonical.dumpBegin (h : Canonical s) : Canonical (dumpBegin s trigger island shellMask) :=
  .ite h.pinc h.pinc.update

protected theorem Canonical.dumpEnd (h : Canonical s) : Canonical (dumpEnd s d0) := by
  unfold dumpEnd
  dsimp only
  split
  · next heq => exact (h.update.flashSpend.of_some heq).octPut
  · exact h.update

protected theorem Canonical.shellResetBegin (h : Canonical s) : Canonical (shellResetBegin s slot st) := by
  unfold shellResetBegin
  extract_lets _ _ s2 _ s3
  have h2 : Canonical s2 := h.rigRollback.jobStop.preemptedAbort
  have h3 : Canonical s3 := h2.shellPut.windowsLocal
  exact .ite h (.pinc (.ite h3.resetEnter h3))

protected theorem Canonical.mechCount (h : Canonical s) : Canonical (mechCount s mech) :=
  .ite h.pinc.pinc (.ite h.pinc (.ite h.pinc (.ite h.pinc (.ite h.pinc (.ite h.pinc (.ite h.pinc h))))))

protected theorem Canonical.safetyStop (h : Canonical s) : Canonical (safetyStop s slot mech kind exposedFrom e) := by
  unfold safetyStop
  refine .ite h (.ite (.fileError (.ite h.pinc h)) ?_)
  refine .shellResetBegin (.fileError (.jobStop (.foldl ?_ fun _ _ h => h.sprintPut)))
  exact .shellPut (.ite h.pinc h)

protected theorem Canonical.safetyEventsBy (h : Canonical s) :
    Canonical (safetyEventsBy trigger s slots mech kind exposedFrom e) := by
  unfold safetyEventsBy
  extract_lets _ s1
  have h1 : Canonical s1 := h.foldl (fun _ _ h => h.safetyStop)
  exact .ite h1 h1.dumpBegin

protected theorem Canonical.safetyEvents (h : Canonical s) : Canonical (safetyEvents s slots mech kind e) := h.safetyEventsBy

protected theorem Canonical.safetyEvent (h : Canonical s) : Canonical (safetyEvent s slot mech kind exposedFrom e) :=
  h.safetyEventsBy

protected theorem Canonical.lentFault (h : Canonical s) : Canonical (lentFault s l j mech kind exposedFrom e) := h.fileError.emit

protected theorem Canonical.seatSafety (h : Canonical s) : Canonical (seatSafety s seat mech kind exposedFrom e) := by
  unfold seatSafety
  split
  · exact h.mechCount.safetyEvent
  · split
    · exact h.mechCount.lentFault
    · exact h.mechCount

protected theorem Canonical.chanSafety (h : Canonical s) : Canonical (chanSafety s c mech kind e) := by
  unfold chanSafety
  split
  · exact h.safetyEvent
  · split
    · exact h.lentFault
    · exact h

protected theorem Canonical.retiredRecord (h : Canonical s) : Canonical (retiredRecord s slot island res) := h.fileError

protected theorem Canonical.chanCorrected (h : Canonical s) : Canonical (chanCorrected s c) := by
  unfold chanCorrected
  dsimp only
  refine .ite h.chanPut.pinc ?_
  refine .ite h.chanPut.pinc.chanRetireFree ?_
  split
  · exact h.chanPut.pinc.chanPut.retiredRecord
  · exact .ite h.chanPut.pinc.chanPut.fileError h.chanPut.pinc

protected theorem Canonical.chanFail (h : Canonical s) : Canonical (chanFail s c) := h.chanPut.chanSafety

protected theorem Canonical.chanErrors (h : Canonical s) : Canonical (chanErrors s c b k) :=
  .ite h.pset.chanFail (.ite h.pset (.ite h.pset.chanPut.pinc (.ite h.pset.chanCorrected h.pset)))

protected theorem Canonical.chanMeet (h : Canonical s) : Canonical (chanMeet s p n k) := by
  unfold chanMeet
  split
  · exact h.chanTouch.chanErrors.pset
  · exact h

protected theorem Canonical.chanMerge (h : Canonical s) : Canonical (chanMerge s c off n k) := by
  unfold chanMerge
  split
  · exact h
  · exact .ite h.pset.chanPut h.chanErrors

protected theorem Canonical.placeMerge (h : Canonical s) : Canonical (placeMerge s p n k) := by
  unfold placeMerge
  split
  · exact h.chanMerge
  · exact h

protected theorem Canonical.lockstepStop (h : Canonical s) : Canonical (lockstepStop s) := h.fileError.update.powerForcePl7

protected theorem Canonical.execMonitorEvent (h : Canonical s) : AnsCanonical (execMonitorEvent m s) := by
  unfold execMonitorEvent
  refine .ite (.next h) ?_
  split
  · exact .next h.pinc.lockstepStop
  · exact .next (.foldl h.pinc.safetyEvents (fun _ _ h => h.lentFault))

protected theorem Canonical.execLockstepMismatch (h : Canonical s) : AnsCanonical (execLockstepMismatch s) :=
  .ite (.next h.lockstepStop) (.next h)

/-! ### Machine/QueueReads.lean -/

protected theorem Canonical.mdRead (h : Canonical s) : Canonical (mdRead s ask p n o).1 := by
  unfold mdRead
  extract_lets s1
  have h1 : Canonical s1 := .chanMeet (.ite h.askRead h)
  exact .ite_fst h (.ite_fst (.pair h1.pinc) h1)

protected theorem Canonical.vaReadAux (h : Canonical s) : Canonical (vaReadAux ask cid fuel va n o s).1 := by
  induction fuel generalizing va n o s with
  | zero => exact h
  | succ fuel ih =>
    unfold vaReadAux
    refine .ite_fst h ?_
    dsimp only
    split
    · exact h
    · split
      · next heq =>
        have h1 := h.mdRead.of_fst heq
        split
        · next heq => exact .pair ((ih h1).of_fst heq)
        · exact ih h1
      · next heq => exact .pair (h.mdRead.of_fst heq)

protected theorem Canonical.vaRead (h : Canonical s) : Canonical (vaRead s ask cid va n r).1 := by
  unfold vaRead
  split
  · exact h
  · exact h.vaReadAux

protected theorem Canonical.frontRead (h : Canonical s) (hrefuse : ∀ s, Canonical s → Canonical (refuse s))
    (hgo : ∀ s y, Canonical s → Canonical (go s y)) :
    AnsCanonical (frontRead s ask cid va n r refuse go) := by
  unfold frontRead
  split
  · next heq =>
      have h1 := h.vaRead.of_fst heq
      exact .next (.ite (hgo _ _ h1) h1)
  · exact .next h
  · next heq =>
      have h1 := h.vaRead.of_fst heq
      exact .next (.ite (hrefuse _ h1) h1)

protected theorem Canonical.ctxCreate (h : Canonical s) : Canonical (ctxCreate s fn seq b) := by
  unfold ctxCreate
  dsimp only
  refine .ite h.ctxDecide (.ite h.ctxDecide ?_)
  split
  · exact h.ctxDecide
  · next heq =>
    have h0 := h.takeCtxId heq
    exact .ctxDecide (.ctxPut (.ite h0.sliceHoldQueue h0))

protected theorem Canonical.ctxBind (h : Canonical s) : AnsCanonical (ctxBind s fn k va word) := by
  unfold ctxBind
  dsimp only
  refine .ite (.next h.ctxDecide) ?_
  refine .ite (.next h.ctxDecide) ?_
  refine h.withAts ?_
  split
  · exact .next h.ctxDecide
  · refine .ite (.next h.ctxDecide) ?_
    split
    · exact .next h
    · next heq => exact .next (h.vaRead.of_fst heq).ctxPut.ctxDecide
    · next heq => exact .next (h.vaRead.of_fst heq).ctxDecide

protected theorem Canonical.execCtxDescReadDone (h : Canonical s) : AnsCanonical (execCtxDescReadDone fn r word s) := by
  unfold execCtxDescReadDone
  split
  · exact .next h
  · refine .ite (.next h) ?_
    dsimp only
    refine .ite (.next h.ctxDecide) ?_
    split
    · exact .ite (.next h.ctxCreate) h.ctxBind
    · exact .next h.ctxDecide

protected theorem Canonical.ringAsk (h : Canonical s) : Canonical (ringAsk s c n) := .ite h.emit h.emit.emit

protected theorem Canonical.ringRead (h : Canonical s) : Canonical (ringRead s c n r).1 := by
  unfold ringRead
  -- the route by a name, so that no check of a case computes it
  obtain ⟨route, hroute⟩ := exists_eq' (a' := reach s 2352)
  rw [hroute]
  refine .ite_fst ?_ ?_
  · extract_lets _
    split
    · next heq => exact .pair (h.mdRead.of_fst heq)
    · next heq => exact .pair (h.mdRead.of_fst heq)
  · split
    · exact .pair h.ringAsk
    · exact .pair h.ringAsk

protected theorem Canonical.entryFetch (h : Canonical s) : AnsCanonical (entryFetch s cid k r) :=
  h.frontRead (fun _ h => h.ctxPut.cmdRefuse) (fun _ _ h => .ite h.ctxPut.slotAccept h.ctxPut.cmdRefuse)

protected theorem Canonical.execQueueFetchDone (h : Canonical s) : AnsCanonical (execQueueFetchDone ctx buffer r s) := by
  unfold execQueueFetchDone
  dsimp only
  refine .ite (.next h) ?_
  refine .ite ?_ ?_
  · split
    · exact .next h
    · exact .ite (h.withAts h.entryFetch) (.next h)
  · refine .ite (.next h) ?_
    split
    · next heq => exact .next (h.ringRead.of_fst heq).fetchSlots
    · exact .next h
    · next heq => exact .next (h.ringRead.of_fst heq).ctxPut.cmdRefuse

protected theorem Canonical.execSlotSeqRetry (h : Canonical s) : AnsCanonical (execSlotSeqRetry ctx r s) := by
  unfold execSlotSeqRetry
  dsimp only
  refine .ite ?_ (.next h)
  split
  · next heq => exact .next (h.ringRead.of_fst heq).fetchSlots
  · exact .next h
  · next heq => exact .next (h.ringRead.of_fst heq).ctxPut.cmdRefuse

protected theorem Canonical.launchDecide (h : Canonical s) : Canonical (launchDecide s cid q l) :=
  .ite h.cmdRefuse (.stampHead (.ite h.ctxPut.promise h.ctxPut))

protected theorem Canonical.execLaunchBlockReadDone (h : Canonical s) :
    AnsCanonical (execLaunchBlockReadDone ctx block pins s) := by
  unfold execLaunchBlockReadDone
  dsimp only
  split
  · exact .next h
  · refine .ite (.next h) ?_
    refine h.withAts ?_
    split
    · exact .next h
    · next heq =>
        have h1 := h.vaRead.of_fst heq
        refine .ite (.next h1) ?_
        refine h.withAts ?_
        split
        · next heq =>
            have h2 := h1.vaRead.of_fst heq
            exact .next h
        · next heq =>
            have h2 := h1.vaRead.of_fst heq
            exact .next (.ite h2 h2.launchDecide)
        · next heq =>
            have h2 := h1.vaRead.of_fst heq
            exact .next (.ite h2 h2.cmdRefuse)
    · next heq =>
        have h1 := h.vaRead.of_fst heq
        exact .next (.ite h1 h1.cmdRefuse)

protected theorem Canonical.waitLook (h : Canonical s) : Canonical (waitLook s cid v) := by
  unfold waitLook
  dsimp only
  split
  · exact h
  · exact .ite h (.ite (.ite h h.ctxPut.takeHead.cmdRetire) h.ctxPut.stampHead)

protected theorem Canonical.execWaitReadDone (h : Canonical s) : AnsCanonical (execWaitReadDone ctx r s) := by
  unfold execWaitReadDone
  dsimp only
  split
  · exact .next h
  · refine .ite (.next h) ?_
    refine h.withAts ?_
    split
    · exact .next h
    · next heq =>
        have h1 := h.vaRead.of_fst heq
        refine .ite (.next h1) ?_
        split
        · exact .next h1.ctxPut.waitLook
        · exact .next h1.cmdRefuse
        · exact .next h1.ctxPut

/-! ### Machine/Traps.lean -/

protected theorem Canonical.seatTrap (h : Canonical s) : Canonical (seatTrap s seat irq cause mtval) := by
  unfold seatTrap
  dsimp only
  refine .ite h.seatPut ?_
  split
  · exact h.seatPut.seatHalt.lentReport
  · exact h.seatPut.fileError.shellPut.jobFault

protected theorem Canonical.waitSettle (h : Canonical s) : Canonical (waitSettle s seat) := by
  unfold waitSettle
  split
  · exact h.preemptTry
  · exact .ite h.lentReport (.ite h.lentReport h)

protected theorem Canonical.catchSettle (h : Canonical s) : Canonical (catchSettle s seat) := .ite h.corePut.waitSettle h

/-! ### Machine/ArrayCmds.lean -/

protected theorem Canonical.convPart (h : Canonical s) : Canonical (convPart s seat f).1 := by
  unfold convPart
  dsimp only
  refine .ite_fst (.ite_fst h (.pair h.arrPut)) ?_
  refine .ite_fst h ?_
  exact .pair h.arrPut.scratchWrite

protected theorem Canonical.flightPut (h : Canonical s) : Canonical (flightPut s seat f) := h.arrPut

protected theorem Canonical.convNext (h : Canonical s) : Canonical (convNext s seat) := by
  unfold convNext
  dsimp only
  refine .ite h ?_
  split
  · exact h
  · exact .ite h h.convPart.flightPut

protected theorem Canonical.opStart (h : Canonical s) : Canonical (opStart op seat check s) := by
  unfold opStart
  dsimp only
  split
  · exact h
  · exact .ite h (.ite h (.ite h.seatSafety (.ite h.arrPut (.ite h.arrPut (.ite h.arrPut h.arrPut.convNext)))))

protected theorem Canonical.execOpMma (h : Canonical s) : AnsCanonical (execOpMma seat check s) := .next h.opStart

protected theorem Canonical.execOpConv (h : Canonical s) : AnsCanonical (execOpConv seat check s) := .next h.opStart

protected theorem Canonical.execOpLoadw (h : Canonical s) : AnsCanonical (execOpLoadw seat check s) := .next h.opStart

protected theorem Canonical.execOpReq (h : Canonical s) : AnsCanonical (execOpReq seat check s) := .next h.opStart

protected theorem Canonical.execOpOrigin (h : Canonical s) : AnsCanonical (execOpOrigin seat s) := .next h.opStart

protected theorem Canonical.execOpCmpLoadt (h : Canonical s) : AnsCanonical (execOpCmpLoadt seat check s) := .next h.opStart

protected theorem Canonical.execOpCmp (h : Canonical s) : AnsCanonical (execOpCmp seat check s) := .next h.opStart

protected theorem Canonical.execConversionUnitStart (h : Canonical s) : AnsCanonical (execConversionUnitStart seat s) :=
  .next h.convNext

protected theorem Canonical.checkEvent (h : Canonical s) : Canonical (checkEvent s seat mech status) := h.seatSafety

protected theorem Canonical.execArrOpRetire (h : Canonical s) : AnsCanonical (execArrOpRetire seat s) := by
  unfold execArrOpRetire
  extract_lets _ s1
  have h1 : Canonical s1 := by
    unfold s1
    split
    · exact .ite h.convNext h
    · exact h
  split
  · exact .next h
  · exact .ite (.next (.catchSettle (.ite h1.arrPut.pegWrite h1.arrPut))) (.next (.ite h1.arrPut.seatTrap h1.arrPut.checkEvent))

protected theorem Canonical.execMmaPause (h : Canonical s) : AnsCanonical (execMmaPause seat check s) := by
  unfold execMmaPause
  dsimp only
  split
  · exact .next h
  · exact .ite (.next h.flightPut) (.next h.flightPut)

protected theorem Canonical.execGuardCheckMerged (h : Canonical s) : AnsCanonical (execGuardCheckMerged seat tile bad s) :=
  .ite (.next h) (.ite (.next h.arrPut) (.next h.arrPut.arrPut.checkEvent))

/-! ### Machine/Tender.lean -/

protected theorem Canonical.seatPoison (h : Canonical s) : Canonical (seatPoison s seat va ga) := h.seatSafety

protected theorem Canonical.coreStatus (h : Canonical s) : Canonical (coreStatus s seat st va ga cause) :=
  .ite h.seatPoison h.seatTrap

protected theorem Canonical.accessTrap (h : Canonical s) : Canonical (accessTrap s seat cause va) := by
  unfold accessTrap
  split
  · exact h.atsForget.seatTrap
  · exact h.seatTrap

protected theorem Canonical.coreTouch (h : Canonical s) : Canonical (coreTouch s seat va) := by
  unfold coreTouch
  split
  · exact h.rangeTouch
  · exact h

protected theorem Canonical.icacheIn (h : Canonical s) : Canonical (icacheIn s seat l) := .corePut (.ite h.freeNext h)

protected theorem Canonical.fetchAnswer (h : Canonical s) : Canonical (fetchAnswer s seat va ga o) :=
  .ite h (.ite h.chanMeet.coreStatus (.ite h.chanMeet.corePut.icacheIn h.chanMeet.corePut.corePut))

protected theorem Canonical.fetchAt (h : Canonical s) : FetchCanonical (fetchAt s seat va) := by
  unfold fetchAt
  split
  · exact .done h
  · exact .stops h.emit
  · exact .stops h.accessTrap
  · dsimp only
    have h1 : Canonical (coreTouch s seat va) := h.coreTouch
    refine .ite (.done h1) (.ite (.stops h1.corePut.askRead) (.ite (.stops h1.chanMeet.coreStatus) ?_))
    exact .ite (.done h1.chanMeet.icacheIn) (.done h1.chanMeet)

protected theorem Canonical.coreFetch (h : Canonical s) : FetchCanonical (coreFetch s seat size) := by
  unfold coreFetch
  have hf := h.fetchAt (seat := seat) (va := (seatOf s seat).core.pc)
  split
  · next heq =>
    rw [heq] at hf
    obtain ⟨h1⟩ := hf
    split
    · exact h1.fetchAt
    · exact .done h1
  · exact hf

protected theorem Canonical.coreStep (h : Canonical s) (hf : ∀ s c, Canonical s → Canonical (f s c)) :
    AnsCanonical (coreStep seat size s f) := by
  unfold coreStep
  have hfetch := h.coreFetch (seat := seat) (size := size)
  refine .ite (.next h) ?_
  split
  · next heq =>
    rw [heq] at hfetch
    obtain _ | ⟨h1⟩ := hfetch
    exact .next h1
  · next heq =>
    rw [heq] at hfetch
    obtain ⟨h1⟩ := hfetch
    exact .next (hf _ _ h1.corePut)

protected theorem Canonical.coreStepM (h : Canonical s) (hf : ∀ s y, Canonical s → Canonical (f s y)) :
    AnsCanonical (coreStepM seat size s f) :=
  .ite (h.coreStep (fun _ _ h => hf _ _ h)) (.ite (.next h) (.next (hf _ _ h.corePut).corePut))

protected theorem Canonical.coreRetire (h : Canonical s) : Canonical (coreRetire s seat c) := h.corePut

protected theorem Canonical.coreIllegal (h : Canonical s) : Canonical (coreIllegal s seat bits) := h.seatTrap

protected theorem Canonical.storeOut (h : Canonical s) : Canonical (storeOut s seat va ga st outside waits gh) := h.update.corePut

protected theorem Canonical.coreWrite (h : Canonical s) : Canonical (coreWrite s seat va ga b) := by
  unfold coreWrite
  dsimp only
  split
  · exact h.coreHostWrite
  · exact h.placeWrite.storeOut
  · exact h.storeOut
  · exact h.countClosed.storeOut
  · exact h.storeOut.netSend
  · exact h.placeWrite.storeOut

protected theorem Canonical.lineOut (h : Canonical s) : Canonical (lineOut s seat l) := .ite h.coreWrite h

protected theorem Canonical.cacheFlush (h : Canonical s) : Canonical (cacheFlush s seat invalidate) :=
  .corePut (h.foldl (fun _ _ h => h.lineOut))

protected theorem Canonical.lineDrop (h : Canonical s) : Canonical (lineDrop s seat ga) := by
  unfold lineDrop
  split
  · exact h
  · exact h.lineOut.corePut

protected theorem Canonical.lineIn (h : Canonical s) : Canonical (lineIn s seat l) := by
  unfold lineIn
  dsimp only
  refine .corePut ?_
  refine .ite h ?_
  split
  · exact h.lineDrop.freeNext
  · exact h

protected theorem Canonical.linePut (h : Canonical s) : Canonical (linePut s seat l) := h.corePut

protected theorem Canonical.execCoreLoad (h : Canonical s) :
    AnsCanonical (execCoreLoad seat compressed rd rs1 off width signed0 fp s) := by
  unfold execCoreLoad
  refine h.coreStepM fun _ _ h => ?_
  dsimp only
  split
  · exact h.coreRetire
  · refine .ite h.seatTrap ?_
    split
    · split
      · exact h.coreTouch.coreRetire
      · exact h.coreTouch.corePut.askRead
    · exact h.emit
    · exact h.accessTrap

protected theorem Canonical.execCoreStore (h : Canonical s) :
    AnsCanonical (execCoreStore seat compressed rs1 rs2 off width fp s) := by
  unfold execCoreStore
  refine h.coreStepM fun _ _ h => ?_
  dsimp only
  split
  · exact h.scratchWrite.coreRetire
  · refine .ite h.seatTrap ?_
    split
    · refine .ite h.coreTouch.coreWrite.coreRetire ?_
      split
      · exact h.coreTouch.linePut.coreRetire
      · exact h.coreTouch.corePut.askRead
    · exact h.emit
    · exact h.accessTrap

protected theorem Canonical.execCoreAmo (h : Canonical s) : AnsCanonical (execCoreAmo seat op dbl rd rs1 rs2 s) := by
  unfold execCoreAmo
  refine h.coreStepM fun _ _ h => ?_
  dsimp only
  split
  · exact h.scratchWrite.coreRetire
  · refine .ite h.seatTrap ?_
    split
    · exact .ite h.coreTouch.seatTrap h.coreTouch.lineDrop.corePut.askAtomic
    · exact h.emit
    · exact h.accessTrap

protected theorem Canonical.execCoreLoadResponse (h : Canonical s) : AnsCanonical (execCoreLoadResponse seat o s) := by
  unfold execCoreLoadResponse
  dsimp only
  split
  · exact .next h.fetchAnswer
  · refine .ite ?_ (.next (.ite h (.ite h.coreRetire h.coreStatus)))
    refine .ite (.next (.ite h h.chanMeet)) (.ite (.next (Canonical.ite h h.chanMeet).coreStatus) (.next ?_))
    exact (Canonical.ite h h.chanMeet).lineIn.coreRetire
  · refine .ite (.next (.ite h h.chanMeet)) (.ite (.next (Canonical.ite h h.chanMeet).coreStatus) (.next ?_))
    exact (Canonical.ite h h.chanMeet).lineIn.coreRetire
  · refine .next (.ite (.ite h h.chanMeet) (.ite (Canonical.ite h h.chanMeet).placeAtomic.coreRetire ?_))
    exact (Canonical.ite h h.chanMeet).placeAtomic.coreStatus
  · exact .next h

protected theorem Canonical.execCoreLr (h : Canonical s) : AnsCanonical (execCoreLr seat dbl rd rs1 s) := by
  unfold execCoreLr
  refine h.coreStepM fun _ _ h => ?_
  dsimp only
  split
  · exact h.coreRetire
  · exact h.accessTrap

protected theorem Canonical.execCoreSc (h : Canonical s) : AnsCanonical (execCoreSc seat dbl rd rs1 rs2 s) := by
  unfold execCoreSc
  refine h.coreStepM fun _ _ h => ?_
  dsimp only
  split
  · exact .ite h.scratchWrite.coreRetire h.coreRetire
  · exact h.accessTrap

protected theorem Canonical.execCoreFence (h : Canonical s) : AnsCanonical (execCoreFence seat s) :=
  h.coreStepM fun _ _ h => h.coreRetire

protected theorem Canonical.execFenceI (h : Canonical s) : AnsCanonical (execFenceI seat s) :=
  h.coreStepM fun _ _ h => h.cacheFlush.coreRetire

protected theorem Canonical.execCoreCompute (h : Canonical s) : AnsCanonical (execCoreCompute seat compressed insn bits s) := by
  unfold execCoreCompute
  refine h.coreStepM fun _ _ h => ?_
  split
  · exact h.corePut
  · exact h.coreIllegal

protected theorem Canonical.execEcall (h : Canonical s) : AnsCanonical (execEcall seat s) := h.coreStepM fun _ _ h => h.seatTrap

protected theorem Canonical.execEbreak (h : Canonical s) : AnsCanonical (execEbreak seat compressed s) := by
  unfold execEbreak
  refine h.coreStepM fun _ _ h => ?_
  split
  · exact .ite h.seatPut h.seatTrap
  · exact h.seatTrap

protected theorem Canonical.csrWrite (h : Canonical s) : OptionCanonical (csrWrite s seat csr v0 machine) := by
  unfold csrWrite
  dsimp only
  split
  · exact .some h.corePut
  · exact .some h.corePut
  · exact .some h.corePut
  · exact .some h.corePut
  · refine .ite .none (.ite (.ite (.some h.corePut) (.some h.freeNext.corePut)) ?_)
    exact .ite (.some h.seatPut) (.ite (.some h.corePut) (.some h))

protected theorem Canonical.execCsrAccess (h : Canonical s) : AnsCanonical (execCsrAccess seat op imm csr rd src s) := by
  unfold execCsrAccess
  refine h.coreStepM fun _ _ h => ?_
  dsimp only
  split
  · exact h.coreIllegal
  · split
    · exact h.coreIllegal
    · next heq =>
        have h1 := OptionCanonical.of_some (by split; exacts [.some h, h.csrWrite]) heq
        exact .ite h1.coreRetire.corePut h1.coreRetire

protected theorem Canonical.execStoreAck (h : Canonical s) : AnsCanonical (execStoreAck seat status s) := by
  unfold execStoreAck
  dsimp only
  split
  · exact .next h
  · exact .ite (.next h) (.ite (.next h.corePut.ghFlush.catchSettle) (.next h.corePut.ghFlush.coreStatus))

protected theorem Canonical.execTenderWatchdogExpiry (h : Canonical s) : AnsCanonical (execTenderWatchdogExpiry seat s) :=
  .ite (.next h) (.next h.corePut.seatSafety)

/-! ### Machine/Xvzseat.lean -/

protected theorem Canonical.vzStep (h : Canonical s) (hf : ∀ s y, Canonical s → Canonical (f s y)) :
    AnsCanonical (vzStep seat bits legal s f) :=
  h.coreStepM fun _ _ h => .ite (hf _ _ h) h.coreIllegal

protected theorem Canonical.vzJobStep (h : Canonical s) (hf : ∀ s y, Canonical s → Canonical (f s y)) :
    AnsCanonical (vzJobStep seat bits legal s f) :=
  h.coreStep fun _ _ h => .ite (hf _ _ h) h.coreIllegal

protected theorem Canonical.vzOperand (h : Canonical s) : Canonical (vzOperand s seat v) := h.seatTrap

protected theorem Canonical.arrPush (h : Canonical s) : Canonical (arrPush s seat desc) := .ite h h.arrPut

protected theorem Canonical.execArrIssue (h : Canonical s) : AnsCanonical (execArrIssue seat rd rs1 rs2 s) :=
  h.vzStep fun _ _ h => .ite h.arrPush.coreRetire h.corePut

protected theorem Canonical.execArrIssueUnblock (h : Canonical s) : AnsCanonical (execArrIssueUnblock seat s) := by
  unfold execArrIssueUnblock
  dsimp only
  split
  · exact .ite (.next h.arrPush.coreRetire) (.next h)
  · exact .next h

protected theorem Canonical.execArrResult (h : Canonical s) : AnsCanonical (execArrResult seat rd rs1 rs2 s) :=
  h.vzStep fun _ _ h => h.coreRetire

protected theorem Canonical.lendEnd (h : Canonical s) : Canonical (lendEnd s seat) := h.seatPut

protected theorem Canonical.execArrWait (h : Canonical s) : AnsCanonical (execArrWait seat rd rs1 imm s) :=
  h.vzStep fun _ _ h => .ite h.coreRetire h.corePut

protected theorem Canonical.execArrWaitDone (h : Canonical s) : AnsCanonical (execArrWaitDone seat s) := by
  unfold execArrWaitDone
  dsimp only
  split
  · exact .next (.ite h.coreRetire.lendEnd h)
  · exact .next h

protected theorem Canonical.execArrFence (h : Canonical s) : AnsCanonical (execArrFence seat rd rs1 imm s) :=
  h.vzStep fun _ _ h => h.coreRetire

protected theorem Canonical.acquireAt (h : Canonical s) : Canonical (acquireAt s seat scope) := .ite h h.cacheFlush

protected theorem Canonical.vzRelease (h : Canonical s) : Canonical (vzRelease s seat order scope kind arg clear) :=
  .corePut (.ite h h.cacheFlush)

protected theorem Canonical.pegRemote (h : Canonical s) : Canonical (pegRemote s seat lseat peg v) := h.coreWrite

protected theorem Canonical.acquireRetire (h : Canonical s) : Canonical (acquireRetire s seat scope kind) :=
  .ite h.acquireAt.coreRetire h.acquireAt.corePut

protected theorem Canonical.pegAct (h : Canonical s) : Canonical (pegAct s seat kind arg clear) := by
  unfold pegAct
  split
  · exact h.pegWrite
  · exact h.pegRemote
  · exact h

protected theorem Canonical.execVzFence (h : Canonical s) : AnsCanonical (execVzFence seat rd rs1 imm s) :=
  h.vzStep fun _ _ h => .ite h.acquireRetire h.vzRelease

protected theorem Canonical.execVzFenceComplete (h : Canonical s) : AnsCanonical (execVzFenceComplete seat s) := by
  unfold execVzFenceComplete
  dsimp only
  split
  · exact .ite (.next (.coreRetire (.pegAct (.ite h.acquireAt h)))) (.next h)
  · exact .next h

protected theorem Canonical.execPegSet (h : Canonical s) : AnsCanonical (execPegSet seat rd rs1 imm s) :=
  h.vzStep fun _ _ h => .ite h.vzRelease h.pegAct.coreRetire

protected theorem Canonical.execPegTest (h : Canonical s) : AnsCanonical (execPegTest seat rd rs1 imm s) :=
  h.vzStep fun _ _ h => h.coreRetire

protected theorem Canonical.pegObserve (h : Canonical s) : Canonical (pegObserve s seat) := by
  unfold pegObserve
  dsimp only
  split
  · exact .ite (.lendEnd (.acquireRetire (.corePut (.ite h.pegPut h)))) h
  · split
    · exact h.corePut.acquireRetire.lendEnd
    · exact h
  · exact h

protected theorem Canonical.pegWaitBegin (h : Canonical s) : Canonical (pegWaitBegin s seat w) := by
  unfold pegWaitBegin
  extract_lets s1
  have h1 : Canonical s1 := h.corePut.pegObserve
  exact .ite h1.waitSettle h1

protected theorem Canonical.execPegWait (h : Canonical s) : AnsCanonical (execPegWait seat rd rs1 imm s) :=
  h.vzStep fun _ _ h => h.pegWaitBegin

protected theorem Canonical.execPegWaitany (h : Canonical s) : AnsCanonical (execPegWaitany seat funct7 rd rs1 rs2 s) :=
  h.vzStep fun _ _ h => .ite h.vzOperand h.pegWaitBegin

protected theorem Canonical.execPegWaitWake (h : Canonical s) : AnsCanonical (execPegWaitWake seat s) :=
  .ite (.next (.ite h.pegObserve.lentReport h.pegObserve)) (.next h)

protected theorem Canonical.execPegRset (h : Canonical s) : AnsCanonical (execPegRset seat funct7 rd rs1 rs2 s) :=
  h.vzStep fun _ _ h => .ite h.vzOperand (.ite h.vzRelease h.pegAct.coreRetire)

protected theorem Canonical.xferPromise (h : Canonical s) : Canonical (xferPromise s seat desc) := by
  unfold xferPromise
  split
  · exact .ite (h.foldl (fun _ _ h => h.promise)) h
  · exact h

protected theorem Canonical.xferPush (h : Canonical s) : Canonical (xferPush s seat rd off) := h.seatPut.xferPromise.coreRetire

protected theorem Canonical.execXferSubmit (h : Canonical s) : AnsCanonical (execXferSubmit seat funct7 rd rs1 rs2 s) :=
  h.vzStep fun _ _ h => .ite h.vzOperand (.ite h.xferPush h.corePut)

protected theorem Canonical.execXferSubmitUnblock (h : Canonical s) : AnsCanonical (execXferSubmitUnblock seat s) := by
  unfold execXferSubmitUnblock
  dsimp only
  split
  · exact .next (.ite h.xferPush h)
  · exact .next h

protected theorem Canonical.execXferPoll (h : Canonical s) : AnsCanonical (execXferPoll seat funct7 rd rs1 rs2 s) :=
  h.vzStep fun _ _ h => h.freeNext.coreRetire

protected theorem Canonical.execWinSet (h : Canonical s) : AnsCanonical (execWinSet seat funct7 rd rs1 rs2 s) :=
  h.vzStep fun _ _ h => .ite h.vzOperand (.ite h.vzOperand h.coreRetire)

protected theorem Canonical.execSigUpd (h : Canonical s) : AnsCanonical (execSigUpd seat rd rs1 imm s) :=
  h.vzStep fun _ _ h => h.coreRetire

protected theorem Canonical.execSigChk (h : Canonical s) : AnsCanonical (execSigChk seat funct7 rd rs1 rs2 s) :=
  h.vzStep fun _ _ h => .ite h.coreRetire h.corePut.seatSafety

protected theorem Canonical.execCatch (h : Canonical s) : AnsCanonical (execCatch seat funct7 rd rs1 rs2 s) :=
  h.vzJobStep fun _ _ h => .ite h.seatTrap (.ite h.coreRetire.cacheFlush.corePut.catchSettle h.coreRetire.corePut)

protected theorem Canonical.execSeatEnd (h : Canonical s) : AnsCanonical (execSeatEnd seat funct7 rd rs1 rs2 s) :=
  h.vzJobStep fun _ _ h => .ite h.vzOperand h.cacheFlush.corePut

protected theorem Canonical.seatEnded (h : Canonical s) : Canonical (seatEnded s slot l hint summary) := by
  unfold seatEnded
  dsimp only
  split
  · exact h
  · exact .ite h.shellPut.sprintJobEnded h.shellPut.preemptTry

protected theorem Canonical.execSeatEndDrained (h : Canonical s) : AnsCanonical (execSeatEndDrained seat s) := by
  unfold execSeatEndDrained
  dsimp only
  split
  · refine .ite (.next h) ?_
    split
    · exact .next h.seatPut.seatEnded
    · exact .next h.seatPut.lentReport
  · exact .next h

/-! ### Machine/Xfer.lean -/

protected theorem Canonical.xTouch (h : Canonical s) : Canonical (xTouch s seat e va) := .ite h h.rangeTouch

protected theorem Canonical.xRead (h : Canonical s) : Canonical (xRead seat acc l o s).1 := by
  induction l generalizing o s with
  | nil => exact h
  | cons e t ih =>
    obtain ⟨va, n, p⟩ := e
    unfold xRead
    extract_lets one
    have h1 : Canonical one.1 := by
      unfold one
      split
      · exact h
      · exact .ite_fst h h.chanMeet.askRead
    clear_value one
    obtain ⟨s1, _ | ⟨b1, o1⟩⟩ := one
    · exact h1
    · have h2 := ih (o := o1) h1
      dsimp only
      split
      · next heq => exact .pair (h2.of_fst heq)
      · next heq => exact .pair (h2.of_fst heq)

protected theorem Canonical.xUnits (h : Canonical s) : Canonical (xUnits seat o va ga l s).1 := by
  induction l generalizing va ga s with
  | nil => exact h
  | cons b t ih =>
    unfold xUnits
    dsimp only
    refine .ite_fst h (.ite_fst (ih ?_) (.pair ?_))
    all_goals
      split
      · exact h.placeMerge.placeWrite.reqApplied
      · exact h.placeMerge.placeWrite.update
      · exact h.placeMerge.placeWrite

protected theorem Canonical.xWrite (h : Canonical s) : Canonical (xWrite seat o l b s).1 := by
  induction l generalizing b s with
  | nil => exact h
  | cons e t ih =>
    obtain ⟨va, n, p⟩ := e
    unfold xWrite
    split
    · exact ih h.scratchWrite
    · split
      · next heq => exact ih (h.xUnits.of_fst heq)
      · exact h.xUnits

protected theorem Canonical.xReadRun (h : Canonical s) : Canonical (xReadRun seat env n m sva o s).1 := by
  induction m generalizing sva o s with
  | zero => exact h
  | succ m ih =>
    unfold xReadRun
    split
    · exact h
    · split
      · next heq => exact .pair (h.xTouch.xRead.of_fst heq)
      · next heq =>
        dsimp only
        exact ih (h.xTouch.xRead.of_fst heq)

protected theorem Canonical.xElement (h : Canonical s) : Canonical (xElement s seat env x m sva tva o).1 := by
  unfold xElement
  dsimp only
  split
  · exact h
  · split
    · exact h
    · have hread : Canonical (xReadRun seat env (xfElem x.desc) m sva o (xTouch s seat env tva)).1 := h.xTouch.xReadRun
      refine .ite_fst hread ?_
      split
      · exact .ite_fst hread.xWrite hread.xWrite
      · exact .ite_fst hread (.ite_fst hread.xWrite hread.xWrite)

protected theorem Canonical.xFillElement (h : Canonical s) : Canonical (xFillElement s seat env x m tva o).1 := by
  unfold xFillElement
  dsimp only
  split
  · exact h
  · exact .pair h.xTouch.xWrite

protected theorem Canonical.pageBase (h : Canonical s) : Canonical (pageBase s seat env r p o).1 := by
  unfold pageBase
  refine .ite_fst h ?_
  split
  · exact h
  · exact h
  · split
    · next heq => exact .pair (h.xTouch.xRead.of_fst heq)
    · next heq => exact .pair (h.xTouch.xRead.of_fst heq)

protected theorem Canonical.xGatherElement (h : Canonical s) : Canonical (xGatherElement s seat env x m k tva pg o).1.1 := by
  unfold xGatherElement
  extract_lets _ _ _ _ page
  have hpage : Canonical page.1 := by
    unfold page
    split
    · exact .ite_fst h h.pageBase
    · exact h.pageBase
  clear_value page
  obtain ⟨s1, _ | ⟨b1, o1⟩⟩ := page
  · exact hpage
  · dsimp only
    split
    · exact hpage
    · exact hpage.xElement

protected theorem Canonical.xWalk (h : Canonical s) : Canonical (xWalk seat env x fuel k pg o s).1 := by
  induction fuel generalizing k pg o s with
  | zero => exact h
  | succ fuel ih =>
    unfold xWalk
    extract_lets _ _ _
    refine .ite_fst h ?_
    split
    next step _ heq =>
    have hstep : Canonical step.1 := by
      have e := congrArg (·.1.1) heq
      dsimp only at e
      rw [← e]
      split
      · exact h.xGatherElement
      · split
        · exact h.xFillElement
        · exact h.xElement
    obtain ⟨s1, _, _, _ | _⟩ := step
    · exact ih hstep
    · exact hstep

protected theorem Canonical.xferPut (h : Canonical s) : Canonical (xferPut s seat x) := h.seatPut

protected theorem Canonical.xferDone (h : Canonical s) : Canonical (xferDone s seat x) :=
  .catchSettle (.ite h.seatPut (.ite h.seatPut.pegWrite (.ite h.seatPut.pegRemote h.seatPut)))

protected theorem Canonical.xferEnd (h : Canonical s) : Canonical (xferEnd s seat x) := h.xferPut.catchSettle

protected theorem Canonical.xferAbort (h : Canonical s) : Canonical (xferAbort s seat env x r) := by
  unfold xferAbort
  dsimp only
  split
  · exact h.xferPut.seatHalt.lentReport
  · exact .ite h.xferPut.ctxPut.ctxLoss h.xferPut

protected theorem Canonical.xferFail (h : Canonical s) : Canonical (xferFail s seat env x reason) := h.freeNext.xferAbort

protected theorem Canonical.bhHold (h : Canonical s) : Canonical (bhHold s seat x k h') := by
  unfold bhHold
  refine .ite ?_ h.xferPut.pinc.bhResolve
  dsimp only
  split
  · exact h.xferPut.jobStop
  · exact h.xferPut

protected theorem Canonical.xferStop (h : Canonical s) : Canonical (xferStop s seat env x0 k e) := by
  unfold xferStop
  dsimp only
  split
  · exact h.xferPut.emit
  · exact h.xferPut
  · refine .ite h.xferPut.seatPoison ?_
    refine .ite ?_ (.xferAbort (.ite h.pinc.update h))
    split
    · exact h.bhHold
    · exact h
  · exact .ite (.ite h.xferEnd (.xferPut (.faultRecord (.ite h.atsForget h)))) h.xferAbort

protected theorem Canonical.xferGo (h : Canonical s) (hf : ∀ s y z w, Canonical s → Canonical (f s y z w)) :
    AnsCanonical (xferGo kind seat ticket s f) := by
  unfold xferGo
  split
  · exact .next h
  · dsimp only
    split
    · exact .next h
    · exact .ite (.next h) (.ite (.ite (.next (hf _ _ _ _ h)) (.next h.xferFail)) (.ite (.next (hf _ _ _ _ h)) (.next h)))

protected theorem Canonical.xferWalk (h : Canonical s) : Canonical (xferWalk seat o s env x) := by
  unfold xferWalk
  dsimp only
  split
  · exact .ite h.xferPut.xWalk.xferPut h.xferPut.xWalk.xferDone
  · exact h.xferPut.xWalk.xferStop

protected theorem Canonical.execXferCopy (h : Canonical s) : AnsCanonical (execXferCopy seat ticket o s) := by
  unfold execXferCopy
  refine h.xferGo fun _ _ _ _ h => ?_
  refine .ite ?_ h.xferWalk
  split
  · exact h.xferFail
  · exact h.freeNext.xferWalk

protected theorem Canonical.execXferFill (h : Canonical s) : AnsCanonical (execXferFill seat ticket o s) :=
  h.xferGo fun _ _ _ _ h => h.xferWalk

protected theorem Canonical.execXferKvGather (h : Canonical s) : AnsCanonical (execXferKvGather seat ticket o s) :=
  h.xferGo fun _ _ _ _ h => .ite h.xferWalk (.ite h.freeNext.xferWalk (.ite h.xferFail h.xferWalk))

protected theorem Canonical.execXferRedArm (h : Canonical s) : AnsCanonical (execXferRedArm seat ticket s) :=
  h.xferGo fun _ _ _ _ h => .ite h.xferPut h.xferPut.seatPut

protected theorem Canonical.execXferRedSend (h : Canonical s) : AnsCanonical (execXferRedSend seat ticket s) :=
  h.xferGo fun _ _ _ _ h => .ite h.xferPut.update h

protected theorem Canonical.fenceKept (h : Canonical s) : Canonical (fenceKept s seat cid x ga) := by
  unfold fenceKept
  dsimp only
  refine .xferDone ?_
  refine .waitsDue ?_
  refine h.foldl fun _ _ h => ?_
  split
  · exact h.ctxPut
  · exact h

protected theorem Canonical.fenceUndelivered (h : Canonical s) : Canonical (fenceUndelivered s seat cid x i ga cause) :=
  h.xferPut.ucStore.ctxLoss

protected theorem Canonical.fenceLoop (h : Canonical s) : Canonical (fenceLoop s seat cid x ga r) :=
  .ite h.fenceKept h.xferPut.emit

protected theorem Canonical.execXferFenceAdv (h : Canonical s) : AnsCanonical (execXferFenceAdv seat ticket o s) := by
  unfold execXferFenceAdv
  refine h.xferGo fun _ _ _ _ h => ?_
  dsimp only
  refine .ite h.xferPut.xferEnd ?_
  refine .ite h.xferPut ?_
  split
  · exact h.xferPut.xferStop
  · exact h.xferPut
  · refine .ite ?_ ?_
    · split
      · split
        · exact h.xferPut.fenceUndelivered
        · exact h.xferPut.fenceHostWrite.xferDone
      · exact .ite h.xferPut.xferStop (.ite h.xferPut.emit.fenceLoop h.xferPut.emit.xferStop)
    · refine .ite h.xferPut.xferStop (.ite (.fenceKept ?_) (.xferStop ?_))
      all_goals exact h.xferPut.chanMeet.askAtomic.placeAtomic

protected theorem Canonical.execFenceCasCompletion (h : Canonical s) : AnsCanonical (execFenceCasCompletion seat ticket r s) := by
  unfold execFenceCasCompletion
  dsimp only
  split
  · refine .ite (.next h) ?_
    split
    · exact .next h.fenceLoop
    · exact .next h.xferStop
    · exact .next h.xferStop
    · exact .next h
  · exact .next h

protected theorem Canonical.prefillFault (h : Canonical s) : Canonical (prefillFault s slot l cid va reason) :=
  .ite h h.freeNext.faultRecord

protected theorem Canonical.execPrefillDone (h : Canonical s) : AnsCanonical (execPrefillDone slot lseat r s) := by
  unfold execPrefillDone
  dsimp only
  split
  · exact .next h
  · refine .ite (.next h) ?_
    split
    · exact .next h.emit
    · exact .ite (.next (.prefillFault (.ite h.atsForget h))) (.next h.jobFault)
    · split
      · exact .next h
      · next heq => exact .next (h.vaRead.of_fst heq).jobFault
      · next heq => exact .next (h.vaRead.of_fst heq).jobFault
      · next heq =>
          have h1 := h.vaRead.of_fst heq
          refine .ite (.next h1) ?_
          refine .ite (.next h1.jobFault) ?_
          refine .next ?_
          refine .jobTryStart ?_
          refine .shellPut ?_
          refine .ite h1.lseatWrite ?_
          split
          · exact h1.remoteSend
          · exact h1

/-! ### Machine/Net.lean -/

protected theorem Canonical.reqServe (h : Canonical s) : Canonical (reqServe s src p back req o) := by
  unfold reqServe
  extract_lets _ s
  have hs : Canonical s := by
    unfold s
    split
    · exact h
    · exact h.chanMeet
  split
  · exact hs.askRead.netReply
  · exact hs.placeMerge.placeWrite.netReply
  · exact hs.askAtomic.placeAtomic.netReply

protected theorem Canonical.execReqPacketArrival (h : Canonical s) : AnsCanonical (execReqPacketArrival src slot req ga o s) := by
  unfold execReqPacketArrival
  dsimp only
  refine .ite (.next h) ?_
  split
  · exact .ite (.next h.netSend.netSettle) (.next (.ite h h.reqServe))
  · exact .next (.ite h h.reqServe)

protected theorem Canonical.execPegWriteArrival (h : Canonical s) :
    AnsCanonical (execPegWriteArrival src slot lseat peg value s) :=
  .ite (.next h.netSend.netSettle) (.next h)

protected theorem Canonical.execRspPacketArrival (h : Canonical s) : AnsCanonical (execRspPacketArrival late s) := by
  unfold execRspPacketArrival
  refine .ite (.ite (.next h.update.pinc) (.next h)) ?_
  split
  · exact .next h
  · dsimp only
    split
    · exact .next h.update.farRespond
    · split
      · refine .ite (.next h.update) (.ite (.next h.update.xferFail) ?_)
        exact .ite (.next h.update.xferDone) (.next h.update.xferPut)
      · exact .next h.update

protected theorem Canonical.firmwareFill (h : Canonical s) : Canonical (firmwareFill s seat off b) := h.seatPut

protected theorem Canonical.firmwareSend (h : Canonical s) : Canonical (firmwareSend s seat off b) := by
  unfold firmwareSend
  split
  · exact h.countClosed
  · exact h.firmwareFill

protected theorem Canonical.execMgtPacketArrival (h : Canonical s) : AnsCanonical (execMgtPacketArrival die mask op s) := by
  unfold execMgtPacketArrival
  split
  · exact .ite (.next (h.foldl (fun _ _ h => .ite h.firmwareSend h))) (.next h)
  · exact .ite (.next h) (.next h.reqServe)

protected theorem Canonical.execRedNodeArrival (h : Canonical s) : AnsCanonical (execRedNodeArrival k node s) := by
  unfold execRedNodeArrival
  split
  · exact .next h
  · split
    · dsimp only
      refine .ite (.next h) ?_
      split
      · split
        · exact .next h.update
        · exact .next h
      · exact .ite (.next h.update) (.ite (.next h) (.next h.update))
    · exact .next h

protected theorem Canonical.execCombineHoldExpiry (h : Canonical s) : AnsCanonical (execCombineHoldExpiry k s) := by
  unfold execCombineHoldExpiry
  split
  · exact .next h
  · exact .ite (.next h) (.next h.update)

protected theorem Canonical.redMerge (h : Canonical s) : Canonical (redMerge s seat p).1 := by
  unfold redMerge
  dsimp only
  split
  · exact h
  · refine .ite_fst h ?_
    refine .ite_fst ?_ ?_
    · refine .pair ?_
      split
      · exact h.seatPut.xferEnd
      · exact h.seatPut
    · refine .ite_fst ?_ (.pair h.seatPut)
      refine .pair ?_
      split
      · exact h.seatPut.xferDone
      · exact h.seatPut

protected theorem Canonical.redAck (h : Canonical s) : Canonical (redAck s k p island st) := .update (.ite h.pinc h)

protected theorem Canonical.execRedPacketArrival (h : Canonical s) : AnsCanonical (execRedPacketArrival k st s) := by
  unfold execRedPacketArrival
  split
  · exact .next h
  · refine .ite (.next h) ?_
    dsimp only
    refine .ite (.next h) ?_
    split
    · exact .next h.countClosed.redAck
    · exact .next (.ite h h.update)
    · exact .next h.redMerge.redAck
    · exact .next h.farSend.redAck
    · exact .next h.redAck

protected theorem Canonical.netTimeout (h : Canonical s) : Canonical (netTimeout s) := h.pinc.update

protected theorem Canonical.coreTimeout (h : Canonical s) : Canonical (coreTimeout s seat after inside) := by
  unfold coreTimeout
  dsimp only
  split
  · exact .ite h.netTimeout.coreStatus h
  · exact .ite h.netTimeout.coreStatus h
  · exact .ite h.netTimeout.coreStatus h
  · exact .ite h.netTimeout.coreStatus h
  · exact h

protected theorem Canonical.redForget (h : Canonical s) : Canonical (redForget s seat ticket) := h.update

protected theorem Canonical.execNetRequestTimeout (h : Canonical s) : AnsCanonical (execNetRequestTimeout seat what s) := by
  unfold execNetRequestTimeout
  dsimp only
  split
  · exact .next h.coreTimeout
  · split
    · refine .ite (.ite (.next ?_) (.next ?_)) (.next h)
      · exact h.netTimeout.corePut.ghFlush.coreStatus
      · exact h.netTimeout.corePut.ghFlush.catchSettle
    · exact .next h
  · split
    · refine .ite (.next h) ?_
      refine .ite (.ite (.next h) (.next h.redForget.netTimeout.xferFail)) ?_
      split
      · exact .ite (.next h.netTimeout.xferStop) (.next h)
      · exact .next h
    · exact .next h
  · exact .next h

protected theorem Canonical.execHostRequestTimeout (h : Canonical s) : AnsCanonical (execHostRequestTimeout seat ticket s) := by
  unfold execHostRequestTimeout
  dsimp only
  split
  · exact .next h.coreTimeout
  · split
    · exact .ite (.next h.netTimeout.xferStop) (.next h)
    · exact .next h

protected theorem Canonical.linkFail (h : Canonical s) : Canonical (linkFail s link) := h.pset.fileError.safetyEvents

protected theorem Canonical.execLinkFlitError (h : Canonical s) : AnsCanonical (execLinkFlitError link nth s) :=
  .ite (.next h) (.ite (.next h.linkFail) (.ite (.next h.update.pinc.linkFail) (.next h.update.pinc)))

protected theorem Canonical.execWaitLend (h : Canonical s) : AnsCanonical (execWaitLend seat s) :=
  .ite (.next h.seatPut.pinc) (.next h)

/-! ### Machine/Start.lean -/

protected theorem Canonical.volatileReset (_ : Canonical s) : Canonical (volatileReset s) :=
  have h : Canonical State.reset := ⟨rfl⟩
  h.update

protected theorem Canonical.startReport (h : Canonical s) : Canonical (startReport s cold cause) :=
  h.pset.pset.pset.pset.pset.pset.update

protected theorem Canonical.resetEntry (h : Canonical s) : Canonical (resetEntry s cold cause) :=
  .startReport (.update (.pinc (.foldl h.update (fun _ _ h => h.jobStop.preemptedAbort))))

protected theorem Canonical.execInputGoodRise (h : Canonical s) : AnsCanonical (execInputGoodRise s) :=
  .ite (.next h) (.next h.update.volatileReset.pinc.startReport)

protected theorem Canonical.execModPwrgoodRise (h : Canonical s) : AnsCanonical (execModPwrgoodRise s) :=
  .ite (.next h.update) (.next h)

protected theorem Canonical.execInputGoodFall (h : Canonical s) : AnsCanonical (execInputGoodFall s) :=
  .ite (.next h.update.volatileReset.update) (.next h)

protected theorem Canonical.execRailDischargeDone (h : Canonical s) : AnsCanonical (execRailDischargeDone s) := .next h.update

protected theorem Canonical.execPerstAssert (h : Canonical s) : AnsCanonical (execPerstAssert s) :=
  .ite (.next h.update) (.next h.update)

protected theorem Canonical.execPerstRelease (h : Canonical s) : AnsCanonical (execPerstRelease s) :=
  .ite (.next h) (.ite (.next h.update.resetEntry) (.next h.update.update))

protected theorem Canonical.causeStart (h : Canonical s) : AnsCanonical (causeStart s cold cause) :=
  .ite (.next h.resetEntry) (.next h)

protected theorem Canonical.execHotReset (h : Canonical s) : AnsCanonical (execHotReset s) := .ite h.update.causeStart (.next h)

protected theorem Canonical.execDeviceResetWarm (h : Canonical s) : AnsCanonical (execDeviceResetWarm s) :=
  .ite h.pset.causeStart (.next h)

protected theorem Canonical.execDeviceResetCold (h : Canonical s) : AnsCanonical (execDeviceResetCold s) :=
  .ite h.pset.causeStart (.next h)

protected theorem Canonical.execResetEntryDrainEnd (h : Canonical s) : AnsCanonical (execResetEntryDrainEnd s) := by
  unfold execResetEntryDrainEnd
  refine .ite (.next (.startReport (.update (.volatileReset ?_)))) (.next h)
  refine .foldl ?_ fun _ _ h => h.wakeFoldAll
  exact h.foldl fun _ _ h => .ite h h.wakeAppend

protected theorem Canonical.execCoxWatchdogExpiry (h : Canonical s) : AnsCanonical (execCoxWatchdogExpiry s) := by
  unfold execCoxWatchdogExpiry
  extract_lets s1 s2
  have h1 : Canonical s1 := h.pinc.powerForcePl7.dumpBegin
  have h2 : Canonical s2 := by
    unfold s2
    split
    · exact h1.dumpEnd
    · exact h1
  exact .ite (.next h2.resetEntry) (.next h)

protected theorem Canonical.stageNext (h : Canonical s) : Canonical (stageNext s n) := h.pset.pset.update

protected theorem Canonical.startFault (h : Canonical s) : Canonical (startFault s stage code island dump) :=
  .ite h.pset.pset.dumpBegin h.pset.pset

protected theorem Canonical.execStageLimitExpiry (h : Canonical s) : AnsCanonical (execStageLimitExpiry s) :=
  .ite (.next h.startFault) (.next h)

protected theorem Canonical.identityLimits (h : Canonical s) : Canonical (identityLimits s) := .ite h h.pset.pset

protected theorem Canonical.execMinimalSafeFunction (h : Canonical s) :
    AnsCanonical (execMinimalSafeFunction identityOk slotId gen width s) := by
  unfold execMinimalSafeFunction
  extract_lets _ _ s1
  have h1 : Canonical s1 := h.update.capacitySettle
  refine .ite (.next h) ?_
  split
  · exact .next h1.update.startFault
  · dsimp only
    split
    · exact .next h1.update.identityLimits.update.counterPut.update.startFault
    · exact .next (h1.update.identityLimits.update.counterPut.update.pset.foldl fun _ _ h => h.wakeAppend).stageNext

protected theorem Canonical.execStage1End (h : Canonical s) : AnsCanonical (execStage1End failed badLink s) := by
  unfold execStage1End
  refine .ite (.next h) ?_
  dsimp only
  split
  · exact .next h.startFault
  · refine .ite (.next h.startFault) ?_
    refine .next (.stageNext (.update (.foldl ?_ fun _ _ h => h.portPut)))
    refine .foldl ?_ fun _ _ h => .ite h h.chanPut
    exact h.foldl fun _ _ h => h.islandPut

protected theorem Canonical.rangesStart (h : Canonical s) : Canonical (rangesStart s) :=
  h.foldl fun _ _ h => .ite h (.ite h.rangePut.pset.update h.rangePut.pset)

protected theorem Canonical.chanTrained (h : Canonical s) : Canonical (chanTrained s c passed retry) := by
  unfold chanTrained
  extract_lets _ s1
  have h1 : Canonical s1 := h.chanPut.memZero
  refine .ite h.chanPut.pset ?_
  refine .ite h1.freeNext.chanPut.pset ?_
  split
  · next heq => exact (h1.pset.update.flashSpend.of_some heq).update
  · exact h1.pset.update

protected theorem Canonical.execStage2End (h : Canonical s) : AnsCanonical (execStage2End failed s) := by
  unfold execStage2End
  refine .ite (.next h) ?_
  refine .next (.stageNext (.foldl ?_ fun _ _ h => .ite h.ghTrain h))
  exact (h.foldl fun _ _ h => .ite h h.chanTrained).pset.update.rangesStart

protected theorem Canonical.execStage3End (h : Canonical s) : AnsCanonical (execStage3End s) := .ite (.next h.stageNext) (.next h)

protected theorem Canonical.s1Form (h : Canonical s) : Canonical (s1Form s n t slot) := by
  induction n generalizing t slot s with
  | zero => exact h
  | succ n ih =>
    unfold s1Form
    dsimp only
    exact .ite h (.ite h.pset (ih h.rigForm))

protected theorem Canonical.floorAuto (h : Canonical s) : Canonical (floorAuto s) := .ite h.counterPut h

protected theorem Canonical.execFullFunction (h : Canonical s) : AnsCanonical (execFullFunction s) :=
  .ite (.next h) (.next (.stageNext (.ite h.floorAuto.s1Form h.floorAuto)))

protected theorem Canonical.execFwDigestReport (h : Canonical s) : AnsCanonical (execFwDigestReport seat digest s) :=
  .ite (.next h) (.ite (.next h.update.emit) (.next h.update))

protected theorem Canonical.execSeatSelftestDone (h : Canonical s) : AnsCanonical (execSeatSelftestDone seat passed s) :=
  .ite (.next h.update) (.next h)

protected theorem Canonical.execLinkRefclkLoss (h : Canonical s) : AnsCanonical (execLinkRefclkLoss s) :=
  .ite (.next h.startFault) (.ite (.next h.pinc.lockstepStop) (.next h))

protected theorem Canonical.execPcieRefclkLoss (h : Canonical s) : AnsCanonical (execPcieRefclkLoss s) :=
  .ite h.update.causeStart (.next h)

protected theorem Canonical.execI3cDynamicAddress (h : Canonical s) : AnsCanonical (execI3cDynamicAddress addr s) :=
  .ite (.next h.update) (.next h)

protected theorem Canonical.execBridgeDrainDone (h : Canonical s) : AnsCanonical (execBridgeDrainDone n s) :=
  .ite (.next h.islandPut) (.next h)

protected theorem Canonical.execClosedBridgePacket (h : Canonical s) :
    AnsCanonical (execClosedBridgePacket n requester nonPosted acked s) := by
  unfold execClosedBridgePacket
  extract_lets _ s1
  have h1 : Canonical s1 := .ite h h.islandPut
  exact .ite (.next h) (.next (.ite h1.emit h1))

/-! ### Machine/Recovery.lean -/

protected theorem Canonical.seatsClose (h : Canonical s) : Canonical (seatsClose s l) := h.foldl fun _ _ h => h.islandPut

protected theorem Canonical.seatsOpen (h : Canonical s) : Canonical (seatsOpen s l) := h.foldl fun _ _ h => .ite h.islandPut h

protected theorem Canonical.seatRetire (h : Canonical s) : Canonical (seatRetire s i) := by
  unfold seatRetire
  extract_lets owner _ s1
  have h1 : Canonical s1 := h.update.islandPut
  clear_value owner
  split
  · exact h1.fileError
  · dsimp only
    split
    · exact h1.retiredRecord.shellPut.seatScrub.seatsLevel
    · exact h1.retiredRecord.shellPut.releaseBegin.releaseSettle

protected theorem Canonical.chanReplace (h : Canonical s) : Canonical (chanReplace slot s c) := by
  unfold chanReplace
  extract_lets _ s1
  have h1 : Canonical s1 := h.chanRetire.retiredRecord
  refine .ite h ?_
  split
  · exact h1.shellPut
  · exact h1.shellPut.releaseBegin.releaseSettle

protected theorem Canonical.shellResetWrite (h : Canonical s) : Canonical (shellResetWrite s slot).1 :=
  .ite_fst h (.pair h.shellResetBegin)

protected theorem Canonical.execShellResetWrite (h : Canonical s) : AnsCanonical (execShellResetWrite slot s) :=
  .ite (.next h.shellResetWrite) (.next h)

protected theorem Canonical.execShellResetDrainDone (h : Canonical s) : AnsCanonical (execShellResetDrainDone slot bad s) := by
  unfold execShellResetDrainDone
  refine .ite (.next (.foldl ?_ fun _ _ h => ?_)) (.next h)
  · refine .foldl ?_ fun _ _ h => h.remoteSend
    exact (h.heldClose.netSettle.shellPut.foldl fun _ _ h => h.seatScrub).seatsClose
  exact h.seatRetire

protected theorem Canonical.execShellRetrainDone (h : Canonical s) : AnsCanonical (execShellRetrainDone slot bad s) :=
  .ite (.next (.foldl h.shellPut (fun _ _ h => h.chanReplace))) (.next h)

protected theorem Canonical.execShellResetComplete (h : Canonical s) : AnsCanonical (execShellResetComplete slot s) := by
  unfold execShellResetComplete
  refine .ite (.next (.shellSelect (.fileError (.shellPut (.seatsOpen ?_))))) (.next h)
  refine .foldl ?_ fun _ _ h => h.memZero.sliceHeal
  exact h.foldl fun _ _ h => h.memZero.chanPut

protected theorem Canonical.execSeatCopyFault (h : Canonical s) : AnsCanonical (execSeatCopyFault slot seat source s) := by
  unfold execSeatCopyFault
  extract_lets _ s1
  have h1 : Canonical s1 := h.rigUndo.windowsLocal
  exact .ite (.next h) (.ite (.next h1.mechCount.safetyEvent) (.next h1.update.islandPut.fileError.latchSettle))

protected theorem Canonical.islandEscalate (h : Canonical s) : Canonical (islandEscalate s n) :=
  .ite h.seatRetire (.ite h.resetEntry (.pset (.update (h.foldl (fun _ _ h => h.jobStop.preemptedAbort)))))

protected theorem Canonical.islandHang (h : Canonical s) : Canonical (islandHang s n packets) := by
  unfold islandHang
  extract_lets _ _ _ _ s3 _ _ s5 s6
  have h3 : Canonical s3 := h.pinc.pset.islandPut
  have h5 : Canonical s5 := h3.fileError.safetyEventsBy
  have h6 : Canonical s6 := .ite h5 h5.dumpBegin
  exact .ite h6.islandEscalate h6

protected theorem Canonical.execHealthPoll (h : Canonical s) : AnsCanonical (execHealthPoll silent s) :=
  .ite (.next h) (.next (.update (.foldl h.update (fun _ _ h => .ite h.islandHang h.islandPut))))

protected theorem Canonical.execBridgeCloseTimeout (h : Canonical s) : AnsCanonical (execBridgeCloseTimeout n packets s) :=
  .ite (.next h.islandHang) (.next h)

protected theorem Canonical.execIslandResetAnswerTimeout (h : Canonical s) : AnsCanonical (execIslandResetAnswerTimeout n s) :=
  .ite (.next h.islandEscalate) (.next h)

protected theorem Canonical.dumpCtlTake (h : Canonical s) : Canonical (dumpCtlTake s) := h.dumpBegin

protected theorem Canonical.dumpClear (h : Canonical s) : Canonical (dumpClear s) := h.update

protected theorem Canonical.execDumpCtlTake (h : Canonical s) : AnsCanonical (execDumpCtlTake s) :=
  .ite (.next h.dumpCtlTake) (.next h)

protected theorem Canonical.execDumpClear (h : Canonical s) : AnsCanonical (execDumpClear s) := .ite (.next h.dumpClear) (.next h)

protected theorem Canonical.execDumpAccessTimeout (h : Canonical s) : AnsCanonical (execDumpAccessTimeout n s) := by
  unfold execDumpAccessTimeout
  split
  · exact .next h
  · exact .ite (.next h) (.next h.update)

protected theorem Canonical.execDumpEnd (h : Canonical s) : AnsCanonical (execDumpEnd s) := by
  unfold execDumpEnd
  split
  · exact .next h
  · exact .next h.dumpEnd

/-! ### Machine/Mem.lean -/

protected theorem Canonical.execChannelRead (h : Canonical s) : AnsCanonical (execChannelRead chan block check s) := by
  unfold execChannelRead
  extract_lets _ _ _ s1
  have h1 : Canonical s1 := h.chanTouch.chanErrors
  exact .ite (.next h) (.ite (.next h.emit) (.next (.ite h1.emit h1.emit)))

protected theorem Canonical.execChannelWrite (h : Canonical s) : AnsCanonical (execChannelWrite chan offset data check s) :=
  .ite (.next h) (.ite (.next h.chanTouch.chanErrors.emit) (.next (.cellWrite (.ite h.chanTouch.chanMerge h.chanTouch.pset))))

protected theorem Canonical.patrolBlock (h : Canonical s) : Canonical (patrolBlock s c b check) := by
  unfold patrolBlock
  extract_lets s1
  have h1 : Canonical s1 := h.chanTouch.chanErrors
  exact .ite h (.ite h1.chanPut h1)

protected theorem Canonical.sramFreeRecord (h : Canonical s) : Canonical (sramFreeRecord s island at_) := h.mechCount.fileError

protected theorem Canonical.patrolSeat (h : Canonical s) : Canonical (patrolSeat s i) :=
  .ite h.seatSafety (.ite h h.sramFreeRecord.seatRetire)

protected theorem Canonical.patrolLine (h : Canonical s) : Canonical (patrolLine s i instr ga bad) := by
  unfold patrolLine
  dsimp only
  refine .ite (.ite h.corePut.pinc h) ?_
  split
  · exact h
  · exact .ite h.corePut.pinc (.ite h.patrolSeat h.pinc)

protected theorem Canonical.patrolSlice (h : Canonical s) : Canonical (patrolSlice s k w) := by
  unfold patrolSlice
  split
  · exact h
  · exact h.sramFreeRecord.update
  · exact h.sramFreeRecord.update
  · exact h.mechCount.update

protected theorem Canonical.patrolMd (h : Canonical s) : Canonical (patrolMd s slot) :=
  .ite h.sramFreeRecord h.mechCount.safetyEvent

protected theorem Canonical.patrolWord (h : Canonical s) (hbad : Canonical bad) : Canonical (patrolWord s e bad) := by
  cases e with
  | none => exact h
  | single => exact h.pinc
  | double => exact hbad

protected theorem Canonical.execPatrolScrubRead (h : Canonical s) : AnsCanonical (execPatrolScrubRead unit block check s) := by
  unfold execPatrolScrubRead
  refine .ite (.next h) ?_
  cases unit with
  | chan c => exact .next h.patrolBlock
  | seat i => exact .next (h.patrolWord h.patrolSeat)
  | icache i => exact .next (.ite h h.patrolLine)
  | dcache i => exact .next (.ite h h.patrolLine)
  | slice die slice => exact .ite (.next (h.patrolWord h.patrolSlice)) (.next h)
  | md slot => exact .next (h.patrolWord h.patrolMd)

protected theorem Canonical.execChannelTracking (h : Canonical s) : AnsCanonical (execChannelTracking chan s) :=
  .ite (.next h.chanPut) (.next h)

protected theorem Canonical.chanMaint (h : Canonical s) : Canonical (chanMaint s op c) :=
  .ite h.pset (.ite h.chanRetireFree.pset (.ite h.chanPut.update.pset h.pset))

protected theorem Canonical.execChannelMaintRetire (h : Canonical s) : AnsCanonical (execChannelMaintRetire chan s) :=
  .ite (.next h.chanMaint) (.next h)

protected theorem Canonical.execChannelMaintRetrain (h : Canonical s) : AnsCanonical (execChannelMaintRetrain chan s) :=
  .ite (.next h.chanMaint) (.next h)

protected theorem Canonical.execChannelTrainingDone (h : Canonical s) :
    AnsCanonical (execChannelTrainingDone chan passed retry s) :=
  .ite (.next h.chanTrained) (.next h)

protected theorem Canonical.execGddr7RefreshDoubling (h : Canonical s) :
    AnsCanonical (execGddr7RefreshDoubling device hot permille s) :=
  .ite (.next h.pset.pset) (.next h)

protected theorem Canonical.cxlRefuse (h : Canonical s) : Canonical (cxlRefuse s code) := h.pset.update

protected theorem Canonical.cxlTake (h : Canonical s) : Canonical (cxlTake s l ch) :=
  .update (.pset (h.foldl (fun _ _ h => .ite h.rangePut.pset.update h.rangePut.pset.update)))

protected theorem Canonical.cxlCommitWrite (h : Canonical s) : Canonical (cxlCommitWrite s) := .ite h.pset.update h.update

protected theorem Canonical.execCxlCommit (h : Canonical s) : AnsCanonical (execCxlCommit s) :=
  .ite (.next h.cxlCommitWrite) (.next h)

protected theorem Canonical.execCxlCheckDone (h : Canonical s) : AnsCanonical (execCxlCheckDone s) := by
  unfold execCxlCheckDone
  split
  · exact .ite (.next h) (.ite (.next h.cxlRefuse) (.ite (.next h.cxlTake) (.next h.update)))
  · exact .next h

protected theorem Canonical.execCxlDecoderCommitDone (h : Canonical s) : AnsCanonical (execCxlDecoderCommitDone range ok s) := by
  unfold execCxlDecoderCommitDone
  split
  · exact .ite (.next h) (.ite (.next h.cxlRefuse) (.ite (.next h.cxlTake) (.next h.update)))
  · exact .next h

protected theorem Canonical.cxlRunScrubbed (h : Canonical s) : Canonical (cxlRunScrubbed s i) := by
  unfold cxlRunScrubbed
  split
  · exact .ite h h.update
  · exact h

protected theorem Canonical.execCxlRangeScrubDone (h : Canonical s) : AnsCanonical (execCxlRangeScrubDone range s) :=
  .ite (.next h.update.memZero.pset.cxlRunScrubbed) (.next h)

protected theorem Canonical.cxlRescanWrite (h : Canonical s) : Canonical (cxlRescanWrite s mask) :=
  .ite h.pset (.foldl h.pset (fun _ _ h => .ite h.cxlPortPut.update h))

protected theorem Canonical.execCxlRescan (h : Canonical s) : AnsCanonical (execCxlRescan mask s) :=
  .ite (.next h.cxlRescanWrite) (.next h)

protected theorem Canonical.execCxlPortEnumerated (h : Canonical s) : AnsCanonical (execCxlPortEnumerated port link s) := by
  unfold execCxlPortEnumerated
  dsimp only
  refine .ite (.next h) ?_
  split
  · exact .next h.update.cxlPortPut.capacitySettle
  · exact .next h.update.cxlPortPut.capacitySettle

protected theorem Canonical.coreCxlStatus (h : Canonical s) : Canonical (coreCxlStatus s seat st inside) := by
  unfold coreCxlStatus
  split
  · exact .ite h.coreStatus h
  · exact h

protected theorem Canonical.xferCxlStatus (h : Canonical s) : Canonical (xferCxlStatus s seat st inside) := by
  unfold xferCxlStatus
  refine h.foldl fun _ _ h => ?_
  split
  · exact .ite h.xferStop h
  · exact h

protected theorem Canonical.storesStatus (h : Canonical s) : Canonical (storesStatus s seat st inside) := h.corePut

protected theorem Canonical.seatsTimeout (h : Canonical s) : Canonical (seatsTimeout s seats inside) :=
  h.foldl fun _ _ h => h.storesStatus.xferCxlStatus.coreCxlStatus

protected theorem Canonical.portDown (h : Canonical s) : Canonical (portDown s p) :=
  .seatsTimeout (.capacitySettle (.cxlPortPut (h.foldl (fun _ _ h => h.pset.update.cxlRunScrubbed))))

protected theorem Canonical.execCxlPortDown (h : Canonical s) : AnsCanonical (execCxlPortDown port s) :=
  .ite (.next h.portDown) (.next h)

protected theorem Canonical.refclkSettle (h : Canonical s) : Canonical (refclkSettle s) := .ite h.update h

protected theorem Canonical.execCxlPrsntRemoval (h : Canonical s) : AnsCanonical (execCxlPrsntRemoval port s) := by
  unfold execCxlPrsntRemoval
  extract_lets _ _ s1
  have h1 : Canonical s1 := h.update.refclkSettle
  exact .ite (.next h) (.ite (.next h1.portDown) (.next h1))

protected theorem Canonical.execCxlPrsntLowToHigh (h : Canonical s) : AnsCanonical (execCxlPrsntLowToHigh port s) :=
  .next h.update.refclkSettle

protected theorem Canonical.cxlAnswer (h : Canonical s) : Canonical (cxlAnswer s p st who) := by
  unfold cxlAnswer
  split
  · exact h.coreCxlStatus
  · dsimp only
    split
    · exact h.corePut
    · exact h
  · exact h.xferCxlStatus

protected theorem Canonical.execCxlMemResponse (h : Canonical s) : AnsCanonical (execCxlMemResponse port dev r who s) := by
  unfold execCxlMemResponse
  extract_lets _ _ _ _ s2
  have h2 : Canonical s2 := h.cxlPortPut.pinc
  refine .ite (.next h) ?_
  refine .ite ?_ (.next h.cxlPortPut)
  split
  · exact .next (.ite h2.cxlAnswer h2)
  · exact .next h2

protected theorem Canonical.execCxlMemTimeout (h : Canonical s) : AnsCanonical (execCxlMemTimeout port who s) :=
  .next (.ite h.pinc.cxlAnswer h)

protected theorem Canonical.execCxlEvent (h : Canonical s) : AnsCanonical (execCxlEvent port detail0 detail1 s) :=
  .ite (.next h.fileError) (.next h)

protected theorem Canonical.execDevloadWindow (h : Canonical s) : AnsCanonical (execDevloadWindow port delivered s) :=
  .ite (.next h.cxlPortPut.capacitySettle) (.next h)

protected theorem Canonical.execCapacityChange (h : Canonical s) : AnsCanonical (execCapacityChange input s) := by
  unfold execCapacityChange
  refine .ite (.next h) ?_
  split
  · exact .next h.update.capacitySettle
  · exact .next h.update.capacitySettle

protected theorem Canonical.execScaleRiseHoldExpiry (h : Canonical s) : AnsCanonical (execScaleRiseHoldExpiry cls s) :=
  .ite (.next h.scaleSettle) (.next h)

protected theorem Canonical.missedPut (h : Canonical s) : Canonical (missedPut s slot k) := h.octPut

protected theorem Canonical.execRegulationWindow (h : Canonical s) : AnsCanonical (execRegulationWindow samples s) := by
  unfold execRegulationWindow
  refine .next ?_
  refine h.foldl fun _ _ h => ?_
  dsimp only
  refine .ite h ?_
  split
  · exact .ite h.missedPut.shellPut.raiseCause h.missedPut
  · exact h.missedPut.shellPut.raiseCause

protected theorem Canonical.execPacingSlot (h : Canonical s) : AnsCanonical (execPacingSlot s) :=
  .ite (.next h.update) (.next h.update)

/-! ### Machine/Keys.lean -/

protected theorem Canonical.swapEntry (h : Canonical s) : Canonical (swapEntry s cid idx r).1 := by
  unfold swapEntry
  -- the comparison by a name, so that no check of a case computes it
  obtain ⟨cmp, hcmp⟩ := exists_eq' (a' := serialCmp)
  rw [hcmp]
  dsimp only
  split
  · exact h
  · exact h
  · split
    · exact h
    · exact h
    · exact .ite_fst h.entryForce h

protected theorem Canonical.swapEntries (h : Canonical s) : Canonical (swapEntries cid l rs s).1 := by
  induction l generalizing rs s with
  | nil => exact h
  | cons i t ih =>
    unfold swapEntries
    exact .ite_fst (ih h.swapEntry) h.swapEntry

protected theorem Canonical.execContextSwapInDone (h : Canonical s) : AnsCanonical (execContextSwapInDone ctx entries s) := by
  unfold execContextSwapInDone
  refine .ite (.next h) (.ite (.next h.update) (.ite (.next ?_) (.next ?_)))
  · exact h.update.swapEntries.ctxPut.pinc.swapWaiting
  · exact h.update.swapEntries.ctxPut.ctxLoss

protected theorem Canonical.execCmdSeqSlot (h : Canonical s) : AnsCanonical (execCmdSeqSlot ctx s) := by
  unfold execCmdSeqSlot
  dsimp only
  refine h.withHead fun _ _ h => ?_
  refine .ite ?_ (.ite h.privEnd h.privBegin.emit)
  split
  · exact .ite h.update.privEnd h.privEnd
  · exact h.privEnd

protected theorem Canonical.execSeqSlotRecordReadDone (h : Canonical s) :
    AnsCanonical (execSeqSlotRecordReadDone ctx seq r s) := by
  unfold execSeqSlotRecordReadDone
  dsimp only
  split
  · exact .next h
  · refine .ite (.next h.privEnd) ?_
    split
    · exact .next h.freeNext.privEnd
    · exact .next h.freeNext.privEnd
    · exact .ite (.next h.privEnd) (.next h.update.privEnd)

protected theorem Canonical.wkeyPut (h : Canonical s) : Canonical (wkeyPut s cid k w) := h.ctxPut

protected theorem Canonical.wkeyFail (h : Canonical s) : Canonical (wkeyFail s cid q code) := h.pinc.privEnd

protected theorem Canonical.execCmdWkeyLoad (h : Canonical s) : AnsCanonical (execCmdWkeyLoad ctx s) := by
  unfold execCmdWkeyLoad
  exact h.withHead fun _ _ h => .ite h.wkeyFail (.ite h.wkeyFail h.wkeyPut.privBegin.emit)

protected theorem Canonical.execWkeyBlobReadDone (h : Canonical s) : AnsCanonical (execWkeyBlobReadDone ctx seq r s) := by
  unfold execWkeyBlobReadDone
  dsimp only
  split
  · exact .next h
  · split
    · exact .next h.wkeyPut.wkeyFail
    · exact .next h.wkeyPut.wkeyFail
    · split
      · exact .next h.wkeyPut.wkeyFail
      · exact .next h.wkeyPut.wakeAppend.pinc.privEnd

protected theorem Canonical.execCmdWkeyClear (h : Canonical s) : AnsCanonical (execCmdWkeyClear ctx s) := by
  unfold execCmdWkeyClear
  exact h.withHead fun _ _ h => .ite h.privEnd (.ite h.privEnd h.ctxPut.privEnd)

/-! ### Machine/PowerCmds.lean -/

protected theorem Canonical.budgetSet (h : Canonical s) : Canonical (budgetSet s w) := h.pset.powerAllocate

protected theorem Canonical.budgetGrantWrite (h : Canonical s) : Canonical (budgetGrantWrite s v).1 := by
  unfold budgetGrantWrite
  dsimp only
  refine .ite_fst (.pair h.pset) ?_
  exact .pair h.pset.pset.octPut.update.budgetSet

protected theorem Canonical.execBudgetGrantWrite (h : Canonical s) : AnsCanonical (execBudgetGrantWrite grant s) :=
  .ite (.next h.budgetGrantWrite) (.next h)

protected theorem Canonical.execBudgetLeaseExpiry (h : Canonical s) : AnsCanonical (execBudgetLeaseExpiry s) :=
  .ite (.next h.pset.budgetSet.fileError) (.next h)

protected theorem Canonical.levelDecide (h : Canonical s) : Canonical (levelDecide s slot p) := by
  unfold levelDecide
  refine .ite (.ite h h.shellLevel) ?_
  split
  · exact h
  · exact h.lentLevel

protected theorem Canonical.execPowerControlStep (h : Canonical s) :
    AnsCanonical (execPowerControlStep inputMv inputW platformW draws s) := by
  unfold execPowerControlStep
  extract_lets _ s2 _ s3
  have h2 : Canonical s2 := .ite h.pset.pset.pinc h.pset.pset
  have h3 : Canonical s3 := h2.pset.powerAllocate
  refine .ite (.next h) (.ite (.next h3) (.ite (.next h3.powerForcePl7) (.next ?_)))
  exact h3.relevel.foldl fun _ _ h => h.levelDecide

protected theorem Canonical.alertOut (h : Canonical s) : Canonical (alertOut s) := h.update

protected theorem Canonical.execAlertAssert (h : Canonical s) : AnsCanonical (execAlertAssert source s) :=
  .ite (.next h) (.next h.update.powerForcePl7.pset.pinc.fileError.alertOut)

protected theorem Canonical.execAlertDeassert (h : Canonical s) : AnsCanonical (execAlertDeassert source s) := by
  unfold execAlertDeassert
  extract_lets _ _ _ s1
  have h1 : Canonical s1 := .ite h.pset.alertOut.update h.pset.alertOut
  exact .ite (.next h) (.next (.ite h1.update h1))

protected theorem Canonical.execAlertHoldExpiry (h : Canonical s) : AnsCanonical (execAlertHoldExpiry s) :=
  .ite (.next h.update) (.next h)

protected theorem Canonical.execAlertRiseStep (h : Canonical s) : AnsCanonical (execAlertRiseStep s) := by
  unfold execAlertRiseStep
  extract_lets s1 s2
  have h1 : Canonical s1 := h.foldl (fun _ _ h => h.shellLevel)
  have h2 : Canonical s2 := .foldl h1 (fun _ _ h => h.lentLevel)
  exact .ite (.next h) (.next (.ite h2.update h2.update))

protected theorem Canonical.execThermalThrottleStep (h : Canonical s) : AnsCanonical (execThermalThrottleStep die temp s) := by
  unfold execThermalThrottleStep
  refine .ite (.next h) ?_
  refine .ite (.ite (.next h.pset) (.next (.foldl h.pset.update.relevel.pinc (fun _ _ h => h.fileError)))) ?_
  exact .ite (.next h.pset.update.relevel) (.next h.pset)

protected theorem Canonical.shellEnergy (h : Canonical s) : Canonical (shellEnergy s slot uj) := h.shellPut.pset

protected theorem Canonical.execEnergyTick (h : Canonical s) :
    AnsCanonical (execEnergyTick seatRail activity ringRail chans ports other s) :=
  .ite (.next h) (.next (.pset (.pset (.update (h.foldl (fun _ _ h => h.shellEnergy))))))

/-! ### Machine/Mctp.lean -/

protected theorem Canonical.endpointPut (h : Canonical s) : Canonical (endpointPut s binding eid e) := h.update

protected theorem Canonical.mctpConsume (h : Canonical s) : Canonical (mctpConsume s binding eid tag) := by
  unfold mctpConsume
  split
  · exact h.update
  · exact h

protected theorem Canonical.mctpWindow (h : Canonical s) : Canonical (mctpWindow s) := .ite h.update h

protected theorem Canonical.mctpSpend (h : Canonical s) : Canonical (mctpSpend s).1 := by
  unfold mctpSpend
  refine .ite_fst (.pair h.pinc) ?_
  exact .pair h.update

protected theorem Canonical.mctpTake (h : Canonical s) : Canonical (mctpTake s binding eid tag).1 :=
  h.mctpConsume.mctpWindow.mctpSpend

protected theorem Canonical.mctpOffered (h : Canonical s) : Canonical (mctpOffered s x) := h.update.emit

protected theorem Canonical.mctpAnswer (h : Canonical s) (hf : ∀ s, Canonical s → Canonical (f s).1) :
    Canonical (mctpAnswer s binding eid tag type cmd f) := by
  unfold mctpAnswer
  refine .ite h ?_
  rcases heq : mctpTake s binding eid tag with ⟨s1, ok⟩
  have htake : Canonical s1 := h.mctpTake.of_fst heq
  exact .ite htake (hf s1 htake).mctpOffered

protected theorem Canonical.execTransportLoss (h : Canonical s) : AnsCanonical (execTransportLoss binding s) :=
  .next h.sessionsFree

protected theorem Canonical.mctpArrive (h : Canonical s) : Canonical (mctpArrive s binding eid tag d) :=
  .ite h.update (.ite h h.update.update)

protected theorem Canonical.execMctpPacketReceive (h : Canonical s) :
    AnsCanonical (execMctpPacketReceive binding eid tag som eom ic seq payload s) := by
  unfold execMctpPacketReceive
  refine .ite (.next h) ?_
  refine .ite (.next h.endpointPut) (.ite (.next h.endpointPut) (.ite (.next ?_) (.next h.endpointPut)))
  exact .ite h.endpointPut.mctpArrive h.endpointPut

protected theorem Canonical.execMctpAssemblyTimeout (h : Canonical s) : AnsCanonical (execMctpAssemblyTimeout binding eid s) :=
  .next (.ite h.endpointPut h)

protected theorem Canonical.execMctpTxAcceptTimeout (h : Canonical s) : AnsCanonical (execMctpTxAcceptTimeout s) := by
  unfold execMctpTxAcceptTimeout
  split
  · exact .ite (.next h.update.freeNext.pinc) (.next h)
  · exact .next h

protected theorem Canonical.execSetEndpointId (h : Canonical s) : AnsCanonical (execSetEndpointId binding eid tag newEid s) := by
  unfold execSetEndpointId
  refine .next ?_
  refine h.mctpAnswer fun _ h => ?_
  refine .ite_fst h ?_
  exact .pair (.update (.ite h h.sessionsFree))

protected theorem Canonical.execGetEndpointId (h : Canonical s) : AnsCanonical (execGetEndpointId binding eid tag s) :=
  .next (h.mctpAnswer (fun _ h => h))

protected theorem Canonical.execGetEndpointUuid (h : Canonical s) : AnsCanonical (execGetEndpointUuid binding eid tag s) :=
  .next (h.mctpAnswer (fun _ h => h))

protected theorem Canonical.execGetMctpVersionSupport (h : Canonical s) :
    AnsCanonical (execGetMctpVersionSupport binding eid tag s) :=
  .next (h.mctpAnswer (fun _ h => h))

protected theorem Canonical.execGetMessageTypeSupport (h : Canonical s) :
    AnsCanonical (execGetMessageTypeSupport binding eid tag s) :=
  .next (h.mctpAnswer (fun _ h => h))

protected theorem Canonical.execGetVendorMsgSupport (h : Canonical s) :
    AnsCanonical (execGetVendorMsgSupport binding eid tag s) :=
  .next (h.mctpAnswer (fun _ h => h))

protected theorem Canonical.execMctpUnsupportedCmd (h : Canonical s) :
    AnsCanonical (execMctpUnsupportedCmd binding eid tag cmd s) :=
  .next (h.mctpAnswer (fun _ h => h))

protected theorem Canonical.execGetPdrRepositoryInfo (h : Canonical s) :
    AnsCanonical (execGetPdrRepositoryInfo binding eid tag s) :=
  .next (h.mctpAnswer (fun _ h => h))

protected theorem Canonical.execGetPdr (h : Canonical s) : AnsCanonical (execGetPdr binding eid tag handle s) :=
  .next (h.mctpAnswer (fun _ h => .ite_fst h h))

protected theorem Canonical.execGetSensorReading (h : Canonical s) :
    AnsCanonical (execGetSensorReading binding eid tag sensor s) :=
  .next (h.mctpAnswer (fun _ h => .ite_fst h h))

protected theorem Canonical.execGetStateSensorReadings (h : Canonical s) :
    AnsCanonical (execGetStateSensorReadings binding eid tag sensor s) :=
  .next (h.mctpAnswer (fun _ h => .ite_fst h h))

protected theorem Canonical.execPldmUnsupportedCmd (h : Canonical s) :
    AnsCanonical (execPldmUnsupportedCmd binding eid tag type5 cmd s) :=
  .next (h.mctpAnswer (fun _ h => h))

/-! ### Machine/Security.lean -/

protected theorem Canonical.fwSlotPut (h : Canonical s) : Canonical (fwSlotPut s x) := h.update

protected theorem Canonical.fwGo (h : Canonical s) : Canonical (fwGo s st) := h.update.pset

protected theorem Canonical.fwLeave (h : Canonical s) : Canonical (fwLeave s st) := .fwGo (.update (.ite h.fwSlotPut h))

protected theorem Canonical.fwCommand (h : Canonical s) (hf : ∀ s, Canonical s → Canonical (f s).1) :
    Canonical (fwCommand s binding eid tag cmd states f) := by
  unfold fwCommand
  refine h.mctpAnswer fun _ h => ?_
  refine .ite_fst (hf _ h) ?_
  refine .ite_fst h ?_
  exact .pair h.update

protected theorem Canonical.execQueryDeviceIdentifiers (h : Canonical s) :
    AnsCanonical (execQueryDeviceIdentifiers binding eid tag s) :=
  .next (h.mctpAnswer (fun _ h => h))

protected theorem Canonical.execGetFirmwareParameters (h : Canonical s) :
    AnsCanonical (execGetFirmwareParameters binding eid tag s) :=
  .next (h.mctpAnswer (fun _ h => h))

protected theorem Canonical.execRequestUpdate (h : Canonical s) : AnsCanonical (execRequestUpdate binding eid tag s) :=
  .next (h.fwCommand (fun _ h => .pair h.fwGo))

protected theorem Canonical.execPassComponentTable (h : Canonical s) :
    AnsCanonical (execPassComponentTable binding eid tag components s) :=
  .next (h.fwCommand (fun _ h => .ite_fst (.pair h.fwGo) (.pair h.fwGo)))

protected theorem Canonical.execUpdateComponent (h : Canonical s) :
    AnsCanonical (execUpdateComponent binding eid tag size s) := by
  unfold execUpdateComponent
  refine .next ?_
  refine h.fwCommand fun _ h => ?_
  refine .ite_fst (.pair h.update.fwSlotPut.fwGo) ?_
  exact .pair h.fwGo

protected theorem Canonical.execFirmwareDataPush (h : Canonical s) :
    AnsCanonical (execFirmwareDataPush binding eid tag offset data s) := by
  unfold execFirmwareDataPush
  refine .next ?_
  refine h.fwCommand fun _ h => ?_
  dsimp only
  refine .ite_fst ?_ (.ite_fst (.pair h.fwGo) (.pair h.fwGo))
  refine .ite_fst (.pair h.update.fwSlotPut.fwGo) ?_
  exact .pair h.update.fwGo

protected theorem Canonical.execFwVerifyDone (h : Canonical s) : AnsCanonical (execFwVerifyDone s) := by
  unfold execFwVerifyDone
  refine .ite (.next h) ?_
  dsimp only
  split
  · exact .next h.update.fwSlotPut.pset.pset
  · exact .ite (.next h.update.fwSlotPut.pset.pset) (.next h.pset.pset)

protected theorem Canonical.execActivateFirmware (h : Canonical s) : AnsCanonical (execActivateFirmware binding eid tag s) :=
  .next (h.fwCommand (fun _ h => .pair h.update.fwGo))

protected theorem Canonical.execGetStatus (h : Canonical s) : AnsCanonical (execGetStatus binding eid tag s) :=
  .next (h.mctpAnswer (fun _ h => .pair (.ite h h.update)))

protected theorem Canonical.execCancelUpdateComponent (h : Canonical s) :
    AnsCanonical (execCancelUpdateComponent binding eid tag s) :=
  .next (h.fwCommand (fun _ h => .pair h.fwLeave))

protected theorem Canonical.execCancelUpdate (h : Canonical s) : AnsCanonical (execCancelUpdate binding eid tag s) :=
  .next (h.fwCommand (fun _ h => .pair h.fwLeave))

protected theorem Canonical.execFwUpdateTimeout (h : Canonical s) : AnsCanonical (execFwUpdateTimeout s) :=
  .ite (.next h.fwLeave) (.next h)

protected theorem Canonical.floorWrite (h : Canonical s) : Canonical (floorWrite s v).1 := .ite_fst h (.pair h.counterPut)

protected theorem Canonical.execFwRaiseFloor (h : Canonical s) : AnsCanonical (execFwRaiseFloor v s) :=
  .ite (.next h.floorWrite) (.next h)

protected theorem Canonical.credWrite (h : Canonical s) : Canonical (credWrite s fromVf r).1 := by
  unfold credWrite
  dsimp only
  refine .ite_fst h ?_
  refine .ite_fst (.pair h.pinc.pset) ?_
  refine .ite_fst (.pair h.pinc.pset) ?_
  refine .ite_fst (.pair h.pinc.pset) ?_
  refine .ite_fst (.pair h.pinc.pset) ?_
  refine .ite_fst (.pair h.pinc.pset) ?_
  split
  · exact h
  · next heq =>
      have h1 := h.flashSpend.of_some heq
      refine .ite_fst (.pair h1.update.pset) ?_
      split
      · exact .pair h.freeNext.pinc.pset
      · exact .pair h1.update.pset

protected theorem Canonical.execCredInstall (h : Canonical s) : AnsCanonical (execCredInstall fromVf record s) :=
  .ite (.next h.credWrite) (.next h)

protected theorem Canonical.execCredRevoke (h : Canonical s) : AnsCanonical (execCredRevoke fromVf record s) :=
  .ite (.next h.credWrite) (.next h)

protected theorem Canonical.sessPut (h : Canonical s) : Canonical (sessPut s k x) := h.update

protected theorem Canonical.evidenceWrite (h : Canonical s) : Canonical (evidenceWrite s k b).1 :=
  .ite_fst h (.ite_fst h (.ite_fst h (.ite_fst h (.pair h.sessPut))))

protected theorem Canonical.execEvidenceReq (h : Canonical s) : AnsCanonical (execEvidenceReq session data s) :=
  .ite (.next h.evidenceWrite) (.next h)

protected theorem Canonical.execEvidenceSigned (h : Canonical s) : AnsCanonical (execEvidenceSigned session s) :=
  .ite (.next h.sessPut.pinc) (.next h)

protected theorem Canonical.seatsHalt (h : Canonical s) : Canonical (seatsHalt s slot) := h.foldl fun _ _ h => .ite h.seatPut h

protected theorem Canonical.seatsResume (h : Canonical s) : Canonical (seatsResume s slot) :=
  h.foldl fun _ _ h => .ite h.seatPut h

protected theorem Canonical.debugWrite (h : Canonical s) : Canonical (debugWrite s slot v).1 := by
  unfold debugWrite
  refine .ite_fst h ?_
  refine .ite_fst (.pair h.shellPut.pset.pset.wkeysErase.wakeAppend.pinc) ?_
  refine .ite_fst (.pair h.seatsHalt.pset) (.ite_fst (.pair h.seatsResume.pset) (.ite_fst (.pair ?_) h))
  exact h.shellPut.pset.seatsResume.wakeAppend

protected theorem Canonical.execDebugCtlOpen (h : Canonical s) : AnsCanonical (execDebugCtlOpen slot s) :=
  .ite (.next h.debugWrite) (.next h)

protected theorem Canonical.execDebugCtlHalt (h : Canonical s) : AnsCanonical (execDebugCtlHalt slot s) :=
  .ite (.next h.debugWrite) (.next h)

protected theorem Canonical.execDebugCtlResume (h : Canonical s) : AnsCanonical (execDebugCtlResume slot s) :=
  .ite (.next h.debugWrite) (.next h)

protected theorem Canonical.execDebugCtlClose (h : Canonical s) : AnsCanonical (execDebugCtlClose slot s) :=
  .ite (.next h.debugWrite) (.next h)

protected theorem Canonical.dbgWrite (h : Canonical s) : Canonical (dbgWrite s slot b).1 := by
  unfold dbgWrite
  refine .ite_fst h ?_
  split
  · exact .ite_fst (.pair h.lseatWrite) h
  · exact .ite_fst (.pair (h.foldl (fun _ _ h => h.lseatPegSet))) h
  · refine .ite_fst ?_ h
    dsimp only
    exact h.placeWrite.countRefused
  · exact h

protected theorem Canonical.dbgMeet (h : Canonical s) : Canonical (dbgMeet s slot) := by
  unfold dbgMeet
  split
  · exact h.chanMeet
  · exact h

protected theorem Canonical.execDbgDataRead (h : Canonical s) : AnsCanonical (execDbgDataRead session slot s) :=
  .ite (.ite (.next h.dbgMeet.freeNext.sessPut) (.next h.dbgMeet)) (.next h)

protected theorem Canonical.execDbgDataWrite (h : Canonical s) : AnsCanonical (execDbgDataWrite slot data s) :=
  .ite (.next h.dbgWrite) (.next h)

protected theorem Canonical.ringExport (h : Canonical s) : OptionCanonical (ringExport s base log2 head tail bytes data) :=
  .ite .none (.some h.emit.pset)

protected theorem Canonical.wakeExport (h : Canonical s) : Canonical (wakeExport s slot sealing data) := by
  unfold wakeExport
  exact (OptionCanonical.ite h.ringExport h.ringExport).getD h.pinc

protected theorem Canonical.sealTrigger (h : Canonical s) : Canonical (sealTrigger s slot timer) := .ite h.wakePut h

protected theorem Canonical.execWakeFold (h : Canonical s) : AnsCanonical (execWakeFold slot s) := by
  unfold execWakeFold
  split
  · exact .next h
  · exact .next h.wakeFoldOne.wakeExport.sealTrigger

protected theorem Canonical.execSealTimer (h : Canonical s) : AnsCanonical (execSealTimer slot s) :=
  .ite (.next h.sealTrigger) (.next h)

protected theorem Canonical.sealStore (h : Canonical s) : Canonical (sealStore s slot c tbS b) := by
  unfold sealStore
  dsimp only
  refine .ite ?_ h
  split
  · exact h
  · next heq => exact (h.flashSpend.of_some heq).update

protected theorem Canonical.execSealSigned (h : Canonical s) : AnsCanonical (execSealSigned slot s) :=
  .ite (.next h.wakeExport.sealStore.pinc.wakePut.sealTrigger) (.next h)

/-! ### Machine/Links.lean -/

protected theorem Canonical.channelGone (h : Canonical s) : Canonical (channelGone s n) := .ite h.gchanPut h

protected theorem Canonical.bindingsEnd (h : Canonical s) : Canonical (bindingsEnd s p old) := by
  unfold bindingsEnd
  refine .foldl ?_ fun _ _ h => h.bhResolve
  refine .foldl ?_ fun _ _ h => h.channelGone
  refine .foldl ?_ fun _ _ h => h.leaseEnd
  exact h.foldl fun _ _ h => h.leaseLose

protected theorem Canonical.ghAnswer (h : Canonical s) : Canonical (ghAnswer s seat) := by
  unfold ghAnswer
  split
  · exact h.update.coreStatus
  · exact h

protected theorem Canonical.storesTimeout (h : Canonical s) : Canonical (storesTimeout s seat f) := h.update.corePut

protected theorem Canonical.xfersTimeout (h : Canonical s) : Canonical (xfersTimeout s seat f) := h.update.xferCxlStatus

protected theorem Canonical.advTimeout (h : Canonical s) : Canonical (advTimeout s a) := h.update.ctxLoss

protected theorem Canonical.fwdTimeout (h : Canonical s) : Canonical (fwdTimeout s f) := by
  unfold fwdTimeout
  dsimp only
  split
  · exact .ite h.update h.update.netAnswer
  · exact h.update

protected theorem Canonical.ghClose (h : Canonical s) : Canonical (ghClose s p discarded) := by
  unfold ghClose
  refine .ite h ?_
  refine .foldl ?_ fun _ _ h => ?_
  · refine .foldl ?_ fun _ _ h => h.advTimeout
    refine .foldl ?_ fun _ _ h => h.ghAnswer
    exact (h.portPut.update.foldl fun _ _ h => h.storesTimeout.xfersTimeout).pset
  exact h.fwdTimeout

protected theorem Canonical.ghRecover (h : Canonical s) : Canonical (ghRecover s p cause discarded) :=
  .portPut (.ite h.ghClose.fileError h.ghClose)

protected theorem Canonical.ghEnable (h : Canonical s) : Canonical (ghEnable s p v discarded) :=
  .ite (.ite h.pset.ghTrain h.pset) (.ite h.pset h.pset.ghClose.portPut)

protected theorem Canonical.execGhPortEnableSet (h : Canonical s) : AnsCanonical (execGhPortEnableSet port s) :=
  .ite (.next h.ghEnable) (.next h)

protected theorem Canonical.execGhPortEnableClear (h : Canonical s) : AnsCanonical (execGhPortEnableClear port discarded s) :=
  .ite (.next h.ghEnable) (.next h)

protected theorem Canonical.ghMaint (h : Canonical s) : Canonical (ghMaint s v) :=
  .ite h.pset (.ite h.pset h.pset.portPut.ghTrain)

protected theorem Canonical.execGhPortMaintRetrain (h : Canonical s) : AnsCanonical (execGhPortMaintRetrain port s) :=
  .ite (.next h.ghMaint) (.next h)

protected theorem Canonical.freshNonce (h : Canonical s) : Canonical (freshNonce s).2 := h.update

protected theorem Canonical.execGhTrainingDone (h : Canonical s) : AnsCanonical (execGhTrainingDone port s) := by
  unfold execGhTrainingDone
  exact .ite (.next h) (.next (.emit (.portPut h.freshNonce.update)))

protected theorem Canonical.execGhTrainingTimeout (h : Canonical s) : AnsCanonical (execGhTrainingTimeout port s) :=
  .ite (.next h.ghRecover) (.next h)

protected theorem Canonical.execHelloTimeout (h : Canonical s) : AnsCanonical (execHelloTimeout port s) :=
  .ite (.next h.ghRecover) (.next h)

protected theorem Canonical.execHelloReceive (h : Canonical s) :
    AnsCanonical (execHelloReceive port id0 farPort fec credits nonce confirm s) := by
  unfold execHelloReceive
  dsimp only
  refine .ite (.next h) ?_
  refine .ite (.next h.ghRecover) ?_
  refine .next ?_
  refine .emit ?_
  refine .portPut ?_
  split
  · exact .ite h h.bindingsEnd
  · exact h

protected theorem Canonical.execGhRecoveryTimer (h : Canonical s) : AnsCanonical (execGhRecoveryTimer port s) :=
  .ite (.next h) (.ite (.next h.portPut.pinc) (.ite (.next h.ghTrain) (.next h)))

protected theorem Canonical.ghReplay (h : Canonical s) : Canonical (ghReplay s p nth discarded) :=
  .ite h.portPut.pinc.ghRecover h.portPut.pinc

protected theorem Canonical.ghNak (h : Canonical s) : Canonical (ghNak s p discarded) := h.portPut.emit.ghReplay

protected theorem Canonical.execGhFlitError (h : Canonical s) : AnsCanonical (execGhFlitError port discarded s) :=
  .ite (.next h.ghNak) (.next h)

protected theorem Canonical.execGhFecLockLoss (h : Canonical s) : AnsCanonical (execGhFecLockLoss port discarded s) :=
  .ite (.next h.ghRecover) (.next h)

protected theorem Canonical.execGhCreditStall (h : Canonical s) : AnsCanonical (execGhCreditStall port gv discarded s) :=
  .ite (.next h.pinc.ghRecover) (.next h)

protected theorem Canonical.flitBack (h : Canonical s) : Canonical (flitBack s p h' discarded) :=
  .ite h.portPut.ghFlush.emit.ghReplay h.portPut.ghFlush

protected theorem Canonical.execGhFlitHeaderReceive (h : Canonical s) :
    AnsCanonical (execGhFlitHeaderReceive port header discarded s) :=
  .ite (.next h) (.ite (.next h.portPut.flitBack) (.next (.ite h.flitBack.ghNak h.flitBack)))

protected theorem Canonical.execGhTagFlitReceive (h : Canonical s) : AnsCanonical (execGhTagFlitReceive port ok discarded s) :=
  .ite (.next h) (.ite (.next h.portPut) (.next h.pinc.ghRecover))

protected theorem Canonical.ghTimeout (h : Canonical s) : Canonical (ghTimeout s) := h.pinc.update

protected theorem Canonical.execGhRequestTimeout (h : Canonical s) : AnsCanonical (execGhRequestTimeout seat what s) := by
  unfold execGhRequestTimeout
  dsimp only
  split
  · split
    · exact .ite (.next h.pinc.ghAnswer) (.next h)
    · exact .next h
  · split
    · exact .ite (.next (.ite h.ghTimeout.corePut.ghFlush.coreStatus h.ghTimeout.corePut.ghFlush.catchSettle)) (.next h)
    · exact .next h
  · split
    · refine .ite (.next h) ?_
      refine .ite (.next h.redForget.ghTimeout.xferFail) ?_
      split
      · exact .ite (.next h.ghTimeout.xferStop) (.next h)
      · exact .next h
    · exact .next h
  · split
    · exact .next (.ite h.pinc.advTimeout h)
    · exact .next h

/-! ### Machine/Ademen.lean -/

protected theorem Canonical.admIn (h : Canonical s) (hf : ∀ x s, Canonical s → Canonical (f x s)) : AnsCanonical (admIn s h' f) :=
  .ite (.next (hf _ _ h)) (.next (.ite h.pinc h))

protected theorem Canonical.leaseGrant (h : Canonical s) : Canonical (leaseGrant s q r) :=
  h.epochNext.update.powerAllocate.lentLevel.admAnswer

protected theorem Canonical.execLeaseRequest (h : Canonical s) : AnsCanonical (execLeaseRequest h' record s) :=
  h.admIn (fun _ _ h => h.admOnceOnly (fun _ h => .ite h.leaseGrant h.admAnswer))

protected theorem Canonical.leaseMsg (h : Canonical s) (hf : ∀ x y s, Canonical s → Canonical (f x y s)) :
    AnsCanonical (leaseMsg h' m s f) := by
  unfold leaseMsg
  refine h.admIn fun _ _ h => ?_
  refine h.admOnceOnly fun _ h => ?_
  split
  · exact hf _ _ _ h
  · exact h.admAnswer

protected theorem Canonical.execLeaseRenew (h : Canonical s) : AnsCanonical (execLeaseRenew h' s) :=
  h.leaseMsg fun _ _ _ h => h.update.admAnswer

protected theorem Canonical.execEpochQuery (h : Canonical s) : AnsCanonical (execEpochQuery h' s) :=
  h.leaseMsg fun _ _ _ h => h.admAnswer

protected theorem Canonical.execLeaseReturn (h : Canonical s) : AnsCanonical (execLeaseReturn h' s) :=
  h.leaseMsg fun _ _ _ h => h.admHold.leaseEnd.lentSettle

protected theorem Canonical.execLeaseExpiryTimer (h : Canonical s) : AnsCanonical (execLeaseExpiryTimer id0 s) := by
  unfold execLeaseExpiryTimer
  split
  · exact .next (.ite h.leaseEnd h)
  · exact .next h

protected theorem Canonical.lentRevoke (h : Canonical s) : Canonical (lentRevoke s id0).1 := by
  unfold lentRevoke
  split
  · exact .pair h.admOnce.leaseEnd
  · exact h

protected theorem Canonical.execAdmLentRevoke (h : Canonical s) : AnsCanonical (execAdmLentRevoke id0 s) :=
  .ite (.next h.lentRevoke) (.next h)

protected theorem Canonical.leaseCmd (h : Canonical s) : Canonical (leaseCmd s v) := by
  unfold leaseCmd
  refine .ite (.ite h.pset h.admSend) ?_
  refine .ite ?_ h.pset
  refine .ite h.pset ?_
  split
  · exact h.pset
  · exact h.update.admSend

protected theorem Canonical.execAdmLeaseCmdRequest (h : Canonical s) : AnsCanonical (execAdmLeaseCmdRequest lender s) :=
  .ite (.next h.leaseCmd) (.next h)

protected theorem Canonical.execAdmLeaseCmdReturn (h : Canonical s) : AnsCanonical (execAdmLeaseCmdReturn lender id0 s) :=
  .ite (.next h.leaseCmd) (.next h)

protected theorem Canonical.execLeaseRevoke (h : Canonical s) : AnsCanonical (execLeaseRevoke h' s) := by
  unfold execLeaseRevoke
  refine h.admIn fun _ _ h => ?_
  split
  · exact h.leaseLose
  · exact h.pinc

protected theorem Canonical.execLeaseRenewTimer (h : Canonical s) : AnsCanonical (execLeaseRenewTimer lender id0 s) := by
  unfold execLeaseRenewTimer
  split
  · exact .next h.admSend
  · exact .next h

protected theorem Canonical.execLeaseLossTimer (h : Canonical s) : AnsCanonical (execLeaseLossTimer lender id0 s) := by
  unfold execLeaseLossTimer
  split
  · exact .next (.ite h.leaseLose h)
  · exact .next h

protected theorem Canonical.leaseRequestEnd (h : Canonical s) : Canonical (leaseRequestEnd s m code record) :=
  .ite h.pset.update h.pset

protected theorem Canonical.leaseRenewEnd (h : Canonical s) : Canonical (leaseRenewEnd s m code) := by
  unfold leaseRenewEnd
  dsimp only
  refine .ite h.update ?_
  refine .ite h ?_
  split
  · exact h.leaseLose
  · exact h.pinc

protected theorem Canonical.leaseReturnEnd (h : Canonical s) : Canonical (leaseReturnEnd s m code) := h.pset.update

protected theorem Canonical.epochQueryEnd (h : Canonical s) : Canonical (epochQueryEnd s m code) := .ite h.update h

protected theorem Canonical.seatAct (h : Canonical s) : Canonical (seatAct s l j i a) := by
  unfold seatAct
  split
  · exact h.update.seatBegin
  · exact h.scratchWrite.reportSend
  · exact h.seatScrub.reportSend
  · exact h.seatHalt.reportSend
  · exact h.seatGo
  · exact h.freeNext.seatPut.reportSend
  · exact .reportSend (.ite h.seatLoad.seatPut h.seatLoad)

protected theorem Canonical.execGv4SeatAction (h : Canonical s) : AnsCanonical (execGv4SeatAction port src lease j a s) := by
  unfold execGv4SeatAction
  refine .ite (.next h) ?_
  split
  · split
    · exact .next h.seatAct
    · exact .next h.pinc.emit
  · exact .next h.pinc.emit

protected theorem Canonical.summaryAdd (h : Canonical s) : Canonical (summaryAdd s slot summary) := h.shellPut

protected theorem Canonical.reportTake (h : Canonical s) : Canonical (reportTake s slot x l r) := by
  unfold reportTake
  dsimp only
  split
  · exact h.remotePut.jobTryStart
  · exact .ite h.remotePut.preemptTry h.remotePut.remoteSend
  · exact h.remotePut
  · exact h.remotePut.seatEnded
  · exact .ite h.remotePut.preemptTry h.remotePut
  · exact h.remotePut.summaryAdd.jobFault
  · exact h.remotePut.summaryAdd.fileError.jobFault

protected theorem Canonical.execGv4ActionReport (h : Canonical s) : AnsCanonical (execGv4ActionReport port src lease j r s) := by
  unfold execGv4ActionReport
  split
  · exact .next (.ite h.pinc h)
  · dsimp only
    split
    · exact .next h.reportTake
    · exact .next h

protected theorem Canonical.execLeaseFaultReport (h : Canonical s) :
    AnsCanonical (execLeaseFaultReport port src lease mech kind tbDetect from_ s) := by
  unfold execLeaseFaultReport
  split
  · exact .next (.ite h.pinc h)
  · exact .next h.safetyEvent

/-! ### Machine/Channels.lean -/

protected theorem Canonical.channelCmdEnd (h : Canonical s) : Canonical (channelCmdEnd s c op seq code) := by
  unfold channelCmdEnd
  split
  · exact h.privEnd
  · exact h

protected theorem Canonical.channelOpened (h : Canonical s) : Canonical (channelOpened s n extent) :=
  .ite h h.gchanPut.update.channelCmdEnd

protected theorem Canonical.channelOpenFail (h : Canonical s) : Canonical (channelOpenFail s n code) :=
  .ite h h.gchanPut.update.channelCmdEnd

protected theorem Canonical.execCmdGhengoOpen (h : Canonical s) : AnsCanonical (execCmdGhengoOpen ctx s) := by
  unfold execCmdGhengoOpen
  refine h.withHead fun _ _ h => .ite h.privEnd ?_
  extract_lets _
  split
  next heq =>
  extract_lets _ s2
  have h2 : Canonical s2 := (h.privBegin.freshNonce.of_snd heq).gchanPut.admSend
  clear_value s2
  split
  · exact h2.admAnswer.channelOpened
  · exact h2

protected theorem Canonical.execChOpen (h : Canonical s) : AnsCanonical (execChOpen h' nonce s) :=
  h.admIn (fun _ _ h => h.admOnceOnly (fun _ h => .ite h.admAnswer.channelOpened h.admHold))

protected theorem Canonical.execChMatchTimeout (h : Canonical s) : AnsCanonical (execChMatchTimeout chan waiting s) := by
  unfold execChMatchTimeout
  dsimp only
  split
  · exact .next (.ite h.channelOpenFail h)
  · split
    · exact .next (.ite h.admAnswer h)
    · exact .next h

protected theorem Canonical.execCmdGhengoClose (h : Canonical s) : AnsCanonical (execCmdGhengoClose ctx s) := by
  unfold execCmdGhengoClose
  refine h.withHead fun _ _ h => .ite h.privEnd (.ite h.privEnd ?_)
  extract_lets s1
  have h1 : Canonical s1 := h.privBegin.channelAbort
  exact .gchanPut (.ite h1.update.channelCmdEnd h1)

protected theorem Canonical.execChClose (h : Canonical s) : AnsCanonical (execChClose h' s) :=
  h.admIn fun _ _ h => .ite h.channelGone h

protected theorem Canonical.execPeerGoneTimer (h : Canonical s) : AnsCanonical (execPeerGoneTimer chan s) :=
  .next (.ite h.channelGone h)

protected theorem Canonical.execChannelAbortEnd (h : Canonical s) : AnsCanonical (execChannelAbortEnd chan s) := by
  unfold execChannelAbortEnd
  refine .ite (.next h) (.next (.channelCmdEnd ?_))
  refine .foldl ?_ fun _ _ h => h.ghAnswer
  exact h.gchanPut.foldl fun _ _ h => h.storesTimeout.xfersTimeout

/-! ### Machine/Boathouse.lean -/

protected theorem Canonical.heldPut (h : Canonical s) : Canonical (heldPut s k) := h.update

protected theorem Canonical.unitZero (h : Canonical s) : Canonical (unitZero s a) := h.cellWrite

protected theorem Canonical.heldDrop (h : Canonical s) : Canonical (heldDrop s key) := by
  unfold heldDrop
  split
  · exact h
  · exact .foldl h.update (fun _ _ h => h.memZero)

protected theorem Canonical.execBhAlloc (h : Canonical s) : AnsCanonical (execBhAlloc h' s) := by
  unfold execBhAlloc
  refine h.admIn fun _ _ h => ?_
  refine h.admOnceOnly fun _ h => ?_
  refine .ite h.pinc (.ite h.admAnswer (.ite h.admAnswer (.ite h.admAnswer ?_)))
  exact (h.update.foldl fun _ _ h => h.unitZero).admAnswer

protected theorem Canonical.execBhFree (h : Canonical s) : AnsCanonical (execBhFree h' s) :=
  h.admIn (fun _ _ h => h.admOnceOnly (fun _ h => .admAnswer (.ite h.heldDrop h)))

protected theorem Canonical.bhCheck (h : Canonical s) : Canonical (bhCheck q m s) := by
  unfold bhCheck
  split
  · exact h.admAnswer
  · exact .ite h.heldPut.admAnswer h.admAnswer

protected theorem Canonical.execBhRenew (h : Canonical s) : AnsCanonical (execBhRenew h' s) :=
  h.admIn (fun _ _ h => h.admOnceOnly (fun _ h => h.bhCheck))

protected theorem Canonical.execBhQuery (h : Canonical s) : AnsCanonical (execBhQuery h' s) :=
  h.admIn (fun _ _ h => h.admOnceOnly (fun _ h => h.bhCheck))

protected theorem Canonical.execBhMove (h : Canonical s) : AnsCanonical (execBhMove h' s) := by
  unfold execBhMove
  refine h.admIn fun _ _ h => ?_
  refine h.admOnceOnly fun _ h => ?_
  split
  · exact h.admAnswer
  · exact .ite h.admAnswer (.ite h.pinc h.heldPut.admAnswer)

protected theorem Canonical.execBhMoveGranuleCopied (h : Canonical s) : AnsCanonical (execBhMoveGranuleCopied key acked s) := by
  unfold execBhMoveGranuleCopied
  split
  · exact .next h
  · split
    · exact .next h
    · exact .ite (.next h.heldPut.admAnswer) (.ite (.next h.emit.heldPut) (.next h.emit.heldPut.admAnswer))

protected theorem Canonical.execBhMemberExpiry (h : Canonical s) : AnsCanonical (execBhMemberExpiry key s) := by
  unfold execBhMemberExpiry
  split
  · exact .next (.ite h.heldDrop.pinc h)
  · exact .next h

protected theorem Canonical.homePut (h : Canonical s) : Canonical (homePut s h') := h.update

protected theorem Canonical.bhCmdEnd (h : Canonical s) : Canonical (bhCmdEnd s h' code) := by
  unfold bhCmdEnd
  split
  · exact h.privEnd
  · exact h

protected theorem Canonical.bhResume (h : Canonical s) : Canonical (bhResume s key) := h.update

protected theorem Canonical.bhLose (h : Canonical s) : Canonical (bhLose s key orphaned) := by
  unfold bhLose
  split
  · exact h
  · exact .pinc (.raiseCause (.foldl h.homePut.update (fun _ _ h => h.jobStop)))

protected theorem Canonical.bhAllocSend (h : Canonical s) : Canonical (bhAllocSend s h' m epoch) := h.homePut.admSend

protected theorem Canonical.homeLive (h : Canonical s) : Canonical (homeLive s h') := h.homePut.bhResume

protected theorem Canonical.bhTry (h : Canonical s) : Canonical (bhTry s h' members code) := by
  unfold bhTry
  split
  · exact h.bhAllocSend
  · exact h.bhDrop.bhCmdEnd

protected theorem Canonical.bhPrepare (h : Canonical s) : Canonical (bhPrepare s h' members code) := by
  unfold bhPrepare
  split
  · exact h.bhAllocSend
  · exact h.homeLive.bhCmdEnd

protected theorem Canonical.execCmdBhLease (h : Canonical s) : AnsCanonical (execCmdBhLease ctx s) := by
  unfold execCmdBhLease
  dsimp only
  refine h.withHead fun _ _ h => ?_
  refine .ite h.privEnd ?_
  refine .ite h.privBegin.epochNext.update.bhTry ?_
  split
  · exact h.privBegin.epochNext.bhPrepare
  · exact h.privBegin.epochNext

protected theorem Canonical.execCmdBhRelease (h : Canonical s) : AnsCanonical (execCmdBhRelease ctx s) := by
  unfold execCmdBhRelease
  dsimp only
  refine h.withHead fun _ _ h => ?_
  refine .ite h.privEnd ?_
  split
  · exact h.privEnd
  · exact .ite h.privEnd h.bhFreeSend.bhDrop.bhResume.privEnd

protected theorem Canonical.bhAllocEnd (h : Canonical s) : Canonical (bhAllocEnd s m code) := by
  unfold bhAllocEnd
  split
  · exact h
  · exact .ite (.ite h.homePut.bhCmdEnd h.bhFreeSend.bhTry) (.ite (.ite h.homePut.admSend h.bhFreeSend.bhPrepare) h)

protected theorem Canonical.bhMoveEnd (h : Canonical s) : Canonical (bhMoveEnd s m code) := by
  unfold bhMoveEnd
  split
  · exact h
  · exact .ite h (.ite h.homeLive.bhFreeSend.bhCmdEnd (.ite h.homePut.bhFreeSend.bhLose.bhCmdEnd h.homeLive.bhFreeSend.bhCmdEnd))

protected theorem Canonical.bhRenewEnd (h : Canonical s) : Canonical (bhRenewEnd s m code) := by
  unfold bhRenewEnd
  split
  · exact h
  · exact .ite h (.ite h.homePut (.ite h.bhResolve h))

protected theorem Canonical.bhQueryEnd (h : Canonical s) : Canonical (bhQueryEnd s m code epoch) := by
  unfold bhQueryEnd
  split
  · exact h
  · exact .ite h (.ite h.homePut.bhResume (.ite h.bhLose (.ite h.homePut h)))

protected theorem Canonical.execBhHomeRenewTimer (h : Canonical s) : AnsCanonical (execBhHomeRenewTimer key s) := by
  unfold execBhHomeRenewTimer
  split
  · exact .next h
  · exact .ite (.next h.admSend) (.ite (.next h.admSend.admSend) (.next h))

protected theorem Canonical.execBhKeyRenewalTimeout (h : Canonical s) : AnsCanonical (execBhKeyRenewalTimeout key s) := by
  unfold execBhKeyRenewalTimeout
  split
  · exact .next (.ite h.bhResolve h)
  · exact .next h

protected theorem Canonical.execBhResolveTimeout (h : Canonical s) : AnsCanonical (execBhResolveTimeout key s) := by
  unfold execBhResolveTimeout
  split
  · exact .ite (.next (.bhLose (h.foldl (fun _ _ h => h.bhFreeSend)))) (.next h)
  · exact .next h

protected theorem Canonical.bhStray (h : Canonical s) : Canonical (bhStray s m code epoch) := .ite h.bhFreeSend h

protected theorem Canonical.admOutcome (h : Canonical s) : Canonical (admOutcome s m code epoch arg record) := by
  unfold admOutcome
  split
  · exact h.leaseRequestEnd
  · exact h.leaseRenewEnd
  · exact h.leaseReturnEnd
  · exact h.epochQueryEnd
  · exact .ite h.channelOpened h.channelOpenFail
  · exact h.bhStray.bhAllocEnd
  · exact h.bhStray.bhRenewEnd
  · exact h.bhStray.bhMoveEnd
  · exact h.bhStray.bhQueryEnd
  · exact h
  · exact h
  · exact h

protected theorem Canonical.execAdmResponse (h : Canonical s) : AnsCanonical (execAdmResponse h' msg code record s) := by
  unfold execAdmResponse
  refine h.admIn fun _ _ h => ?_
  split
  · exact h.pinc
  · exact .ite h.update h.update.admOutcome

protected theorem Canonical.execAdmRetryTimer (h : Canonical s) : AnsCanonical (execAdmRetryTimer txn s) := by
  unfold execAdmRetryTimer
  split
  · exact .next h
  · exact .ite (.next h) (.ite (.next h.update) (.ite (.next h.update.admOut) (.next h.update.admOutcome)))

/-! ### Machine/GhPackets.lean -/

protected theorem Canonical.bhForward (h : Canonical s) : Canonical (bhForward s x off n back) := .ite h.farSend h.farSend.update

protected theorem Canonical.ghServe (h : Canonical s) : Canonical (ghServe s port src b off t back req o) := by
  unfold ghServe
  split
  · exact h.netSend.netSettle
  · split
    · exact h.reqServe.bhForward
    · exact h.reqServe.bhForward
    · exact h.reqServe

protected theorem Canonical.ghResponse (h : Canonical s) : Canonical (ghResponse s p tag st) := by
  unfold ghResponse
  split
  · exact .ite h.update.advanced h.update.ctxLoss
  · split
    · exact h.update.netAnswer
    · exact .ite h h.update.pinc

protected theorem Canonical.creditBack (h : Canonical s) : Canonical (creditBack s p gv units) := h.emit

protected theorem Canonical.execGhPacketReceive (h : Canonical s) :
    AnsCanonical (execGhPacketReceive port sender binding offset op check excess s) := by
  unfold execGhPacketReceive
  dsimp only
  refine .ite (.next h) ?_
  split
  · exact .next h.ghRecover
  · split
    · exact .next h.creditBack.ghResponse
    · split
      · exact .next h.creditBack.update
      · exact .next h.creditBack.pinc.farRespond
    · split
      · exact .next h.creditBack
      · refine .ite (.next h.creditBack) ?_
        split
        · exact .next (.ite h h.creditBack.ghServe)
        · exact .next (.ite h.creditBack.pinc.netAnswer h.creditBack.pinc)

/-! ### Machine/PapWrite.lean -/

protected theorem Canonical.stageList (h : Canonical s) : Canonical (stageList s slot base sub b) := h.shellPut

protected theorem Canonical.scalarPut (h : Canonical s) : Canonical (scalarPut s r k v) := .ite h.update h.pset

protected theorem Canonical.bytesPut (h : Canonical s) : Canonical (bytesPut s r k b) := .ite h.update h.octPut

protected theorem Canonical.ghEnableMask (h : Canonical s) : Canonical (ghEnableMask s v discarded) :=
  h.foldl_fst fun _ _ h => .ite_fst h (.pair h.ghEnable)

protected theorem Canonical.fallbackWrite (h : Canonical s) : Canonical (fallbackWrite s v).1 :=
  .ite_fst h (.ite_fst h (.pair (.ite h.pset h.pset.budgetSet)))

protected theorem Canonical.freezeWrite (h : Canonical s) : Canonical (freezeWrite s slot v) := by
  unfold freezeWrite
  split
  · exact h.freezeStart
  · exact h.freezeSave
  · exact h.freezeThaw
  · exact h.freezeLoad

protected theorem Canonical.paramEffect (h : Canonical s) : Canonical (paramEffect s k x r idx sub b discarded).1 := by
  unfold paramEffect
  dsimp only
  split
  · exact .pair h.pset
  · exact h.credWrite
  · refine .ite_fst h ?_
    split
    · exact .pair h.bytesPut
    · exact .pair h.bytesPut
    · exact .pair h.bytesPut
    · exact .pair h.bytesPut
    · exact .pair h.scalarPut
  · exact h.budgetGrantWrite
  · exact h.fallbackWrite
  · refine .ite_fst h ?_
    refine .ite_fst h ?_
    split
    · exact .pair h.bytesPut
    · exact .pair h.bytesPut
    · exact .pair h.bytesPut
    · exact .pair h.bytesPut
    · exact .pair h.scalarPut
  · refine .ite_fst h ?_
    split
    · exact .pair h.bytesPut
    · exact .pair h.bytesPut
    · exact .pair h.bytesPut
    · exact .pair h.bytesPut
    · exact .pair h.scalarPut
  · refine .ite_fst h ?_
    split
    · exact .pair h.bytesPut
    · exact .pair h.bytesPut
    · exact .pair h.bytesPut
    · exact .pair h.bytesPut
    · exact .pair h.scalarPut
  · refine .ite_fst h ?_
    refine .ite_fst h ?_
    split
    · exact .pair h.bytesPut
    · exact .pair h.bytesPut
    · exact .pair h.bytesPut
    · exact .pair h.bytesPut
    · exact .pair h.scalarPut
  · refine .ite_fst h ?_
    split
    · exact .pair h.bytesPut
    · exact .pair h.bytesPut
    · exact .pair h.bytesPut
    · exact .pair h.bytesPut
    · exact .pair h.scalarPut
  · exact h.rigCommitWrite (fun _ _ h => h.leaseAsk)
  · exact .ite_fst h (.pair h.stageList)
  · exact .ite_fst h (.pair h.stageList)
  · exact .ite_fst h (.pair h.stageList)
  · exact .ite_fst h (.pair h.stageList)
  · exact .ite_fst h (.pair h.stageList)
  · exact .ite_fst h (.pair h.stageList)
  · exact .ite_fst h (.pair h.freezeWrite)
  · exact h.preemptCtlWrite
  · exact .pair h.chanMaint
  · exact .pair h.cxlCommitWrite
  · exact .pair h.cxlRescanWrite
  · refine .ite_fst h ?_
    split
    · exact .pair h.bytesPut
    · exact .pair h.bytesPut
    · exact .pair h.bytesPut
    · exact .pair h.bytesPut
    · exact .pair h.scalarPut
  · exact .pair h.ghEnableMask
  · exact .pair h.ghMaint
  · exact .pair h.octPut
  · exact .pair h.leaseCmd
  · exact h.lentRevoke
  · split
    · exact .pair h.bytesPut
    · exact .pair h.bytesPut
    · exact .pair h.bytesPut
    · exact .pair h.bytesPut
    · exact .pair h.scalarPut
  · exact h.shellResetWrite
  · exact .pair h.dumpCtlTake
  · exact .pair h.dumpClear
  · exact h.evidenceWrite
  · exact h.floorWrite
  · exact h.debugWrite
  · exact h.dbgWrite
  · refine .ite_fst ?_ h
    split
    · exact .pair h.bytesPut
    · exact .pair h.bytesPut
    · exact .pair h.bytesPut
    · exact .pair h.bytesPut
    · exact .pair h.scalarPut
  · refine .ite_fst h ?_
    split
    · exact .pair h.bytesPut
    · exact .pair h.bytesPut
    · exact .pair h.bytesPut
    · exact .pair h.bytesPut
    · exact .pair h.scalarPut

protected theorem Canonical.paramWrite (h : Canonical s) : Canonical (paramWrite s k x r idx sub b discarded).1 := by
  unfold paramWrite
  dsimp only
  refine .ite_fst h ?_
  refine .ite_fst ?_ h.paramEffect
  split
  · exact h
  · next heq => exact .ite_fst (.pair (h.flashSpend.of_some heq).paramEffect) h

/-! ### Machine/Pap.lean -/

protected theorem Canonical.papLastPut (h : Canonical s) : Canonical (papLastPut s src sid q r) := by
  unfold papLastPut
  split
  · exact h.endpointPut
  · split
    · exact h.sessPut
    · exact h

protected theorem Canonical.papTouch (h : Canonical s) : Canonical (papTouch s k) := h.sessPut

/-- The state that is left when a session identifier has been taken. -/
protected theorem Canonical.papTakeId (h : Canonical s) (e : papTakeId s = some (n, t)) : Canonical t := by
  unfold papTakeId at e
  split at e
  · obtain ⟨-, rfl⟩ := Prod.mk.inj (Option.some.inj e)
    exact h.update
  · split at e
    · obtain ⟨-, rfl⟩ := Prod.mk.inj (Option.some.inj e)
      exact h.update
    · exact absurd e.symm (Option.some_ne_none _)

protected theorem Canonical.authFail (h : Canonical s) : Canonical (authFail s src) := by
  unfold authFail
  dsimp only
  split
  · exact h.pinc
  · exact h.pinc.endpointPut

protected theorem Canonical.papLeave (h : Canonical s) : Canonical (papLeave s k) := h.sessPut

protected theorem Canonical.papAbandon (h : Canonical s) : Canonical (papAbandon s k) := h.papLeave.pinc

protected theorem Canonical.papCount (h : Canonical s) : Canonical (papCount s code) := .ite h.pinc h

protected theorem Canonical.papReset (h : Canonical s) : Canonical (papReset s v) := by
  have hstart : ∀ full cause t, causeStart s full cause = .next t → Canonical t := fun _ _ _ e => h.causeStart.of_next e
  unfold papReset
  split
  · split
    · next heq => exact hstart _ _ _ heq
    · exact h
  · split
    · next heq => exact hstart _ _ _ heq
    · exact h
  · exact h

protected theorem Canonical.mbxRespond (h : Canonical s) : Canonical (mbxRespond s f header payload) :=
  .ite h.update.msixSend h.update

protected theorem Canonical.papGone (h : Canonical s) : Canonical (papGone s src) := h.update

/-- What a decided request leaves has a canonical memory. -/
protected theorem Canonical.ite_st {c : Prop} [Decidable c] {p q : PapOut} (hp : Canonical p.st) (hq : Canonical q.st) :
    Canonical (if c then p else q).st := by
  split
  · exact hp
  · exact hq

protected theorem Canonical.papCode (h : Canonical s) : Canonical (papCode s hd c).st := h

protected theorem Canonical.papOpen (h : Canonical s) : Canonical (papOpen s src m).st := by
  unfold papOpen
  refine .ite_st h.papCode ?_
  split
  · next heq _ =>
    have h1 := h.papTakeId heq
    refine .sessionsCount (.papTouch (.sessPut ?_))
    split
    · exact h1
    · exact h1.freshNonce
  · exact h.papCode

protected theorem Canonical.papAuth (h : Canonical s) : Canonical (papAuth s src k m).st := by
  unfold papAuth
  exact .ite_st h.sessPut.papCode h.authFail.sessionFree.papCode

protected theorem Canonical.papSegment (h : Canonical s) : Canonical (papSegment s src k hd v).st := by
  unfold papSegment
  exact .ite h.sessPut h

protected theorem Canonical.papReadOpen (h : Canonical s) : Canonical (papReadOpen s src k hd).st := by
  unfold papReadOpen
  refine .ite_st h.papCode (.ite_st h.papCode (.ite_st h.papCode ?_))
  exact .ite_st h.sessPut.papSegment h.papSegment

protected theorem Canonical.papDecide (h : Canonical s) : Canonical (papDecide s k hd v d).st := by
  unfold papDecide
  exact .ite_st h.papCode h.paramWrite

protected theorem Canonical.papWriteOpen (h : Canonical s) : Canonical (papWriteOpen s k m d).st := by
  unfold papWriteOpen
  refine .ite_st h.papCode (.ite_st h.papCode (.ite_st h.papDecide ?_))
  exact .ite_st h.papCode (.ite_st h.papCode (.ite_st h.papCode h.sessPut.papCode))

protected theorem Canonical.papWriteNext (h : Canonical s) : Canonical (papWriteNext s k m d).st := by
  unfold papWriteNext
  exact .ite_st h.papLeave.papCode (.ite_st h.papLeave.papDecide h.sessPut.papCode)

protected theorem Canonical.papInOpen (h : Canonical s) : Canonical (papInOpen s src k m d).st := by
  unfold papInOpen
  dsimp only
  split
  · exact h.papReadOpen
  · exact h.papWriteOpen
  · exact .ite_st h.papCode h
  · exact h.papCode

protected theorem Canonical.papInState (h : Canonical s) : Canonical (papInState s src k m d).st := by
  unfold papInState
  dsimp only
  refine .ite_st h.papCode ?_
  split
  · exact .ite_st h.papWriteNext h.papAbandon.papInOpen
  · exact .ite_st h.papSegment h.papLeave.papInOpen
  · exact h.papInOpen

protected theorem Canonical.papClose (h : Canonical s) : Canonical (papClose s k hd).st := by
  unfold papClose
  exact .ite_st h.papCode (Canonical.ite h.papAbandon h).sessionFree.papCode

protected theorem Canonical.papRequest (h : Canonical s) : Canonical (papRequest s src m busy d).st := by
  unfold papRequest
  refine .ite_st h.papCode (.ite_st h.papCode (.ite_st h.papOpen ?_))
  split
  · exact h.papCode
  · refine .ite_st h.papTouch.papCode (.ite_st h.papTouch.papCode ?_)
    exact .ite_st h.papTouch.papClose (.ite_st h.papTouch.papAuth h.papTouch.papInState)

protected theorem Canonical.papAnswer (h : Canonical s) : Canonical (papAnswer s src m busy d).st := by
  unfold papAnswer
  extract_lets _ s0 _ _ fresh
  have h0 : Canonical s0 := by
    unfold s0
    split
    · exact h.papTouch
    · exact h
  have hfresh : Canonical fresh.st := .ite h0.papRequest.papCount h0.papRequest.papCount.papLastPut
  split
  · exact .ite_st hfresh (.ite_st h0 h0.papCount.papCode)
  · exact hfresh

protected theorem Canonical.papRun (h : Canonical s) : Canonical (papRun op src d s) := by
  unfold papRun
  split
  · exact h
  · extract_lets s1
    have h1 : Canonical s1 := h.papGone
    clear_value s1
    split
    · exact .ite h h1.papAnswer.mbxRespond.papReset
    · split
      · exact h
      · refine .ite h ?_
        split
        next heq =>
        have h2 := h1.mctpTake.of_fst heq
        exact .ite h2 (.ite h2.papCount.mctpOffered h2.papAnswer.mctpOffered.papReset)

protected theorem Canonical.execPapOpen (h : Canonical s) : AnsCanonical (execPapOpen src s) := .next h.papRun

protected theorem Canonical.execPapAuth (h : Canonical s) : AnsCanonical (execPapAuth src s) := .next h.papRun

protected theorem Canonical.execPapClose (h : Canonical s) : AnsCanonical (execPapClose src s) := .next h.papRun

protected theorem Canonical.execPapRead (h : Canonical s) : AnsCanonical (execPapRead src s) := .next h.papRun

protected theorem Canonical.execPapWrite (h : Canonical s) : AnsCanonical (execPapWrite src discarded s) := .next h.papRun

protected theorem Canonical.execPapDescribe (h : Canonical s) : AnsCanonical (execPapDescribe src s) := .next h.papRun

protected theorem Canonical.execPapKeepalive (h : Canonical s) : AnsCanonical (execPapKeepalive src s) := .next h.papRun

protected theorem Canonical.execChallengeTimeout (h : Canonical s) : AnsCanonical (execChallengeTimeout session s) :=
  .next (.ite h.sessionFree h)

protected theorem Canonical.execSessionIdleTimeout (h : Canonical s) : AnsCanonical (execSessionIdleTimeout session s) :=
  .next (.ite h.sessionFree h)

protected theorem Canonical.execSegmentTimeout (h : Canonical s) : AnsCanonical (execSegmentTimeout session s) :=
  .next (.ite h.papAbandon h)

protected theorem Canonical.execAuthLockoutExpiry (h : Canonical s) : AnsCanonical (execAuthLockoutExpiry binding eid s) := by
  unfold execAuthLockoutExpiry
  dsimp only
  refine .next ?_
  split
  · exact .ite h.endpointPut h
  · exact h

protected theorem Canonical.execMbxDoorbell (h : Canonical s) : AnsCanonical (execMbxDoorbell fn w s) :=
  .ite (.next h) (.ite (.next h.pinc) (.next (.ite h.update.papCount.mbxRespond h.update)))

protected theorem Canonical.execMbxAck (h : Canonical s) : AnsCanonical (execMbxAck fn w s) := .next (.ite h.update h)

/-! ### Machine/Step.lean -/

protected theorem Canonical.idle (h : Canonical s) : Canonical (idle s) := .ite h.update h

/-! ### The commands and the step -/

protected theorem Canonical.exec (h : Canonical s) (i : Instr) : AnsCanonical (exec i s) :=
  match i with
  | .inputGoodRise => h.execInputGoodRise
  | .modPwrgoodRise => h.execModPwrgoodRise
  | .inputGoodFall => h.execInputGoodFall
  | .perstAssert => h.execPerstAssert
  | .perstRelease => h.execPerstRelease
  | .hotReset => h.execHotReset
  | .deviceResetWarm => h.execDeviceResetWarm
  | .deviceResetCold => h.execDeviceResetCold
  | .resetEntryDrainEnd => h.execResetEntryDrainEnd
  | .coxWatchdogExpiry => h.execCoxWatchdogExpiry
  | .minimalSafeFunction .. => h.execMinimalSafeFunction
  | .stage1End .. => h.execStage1End
  | .stage2End .. => h.execStage2End
  | .stage3End => h.execStage3End
  | .fullFunction => h.execFullFunction
  | .stageLimitExpiry => h.execStageLimitExpiry
  | .fwDigestReport .. => h.execFwDigestReport
  | .seatSelftestDone .. => h.execSeatSelftestDone
  | .linkRefclkLoss => h.execLinkRefclkLoss
  | .pcieRefclkLoss => h.execPcieRefclkLoss
  | .bridgeDrainDone .. => h.execBridgeDrainDone
  | .closedBridgePacket .. => h.execClosedBridgePacket
  | .rigCommit .. => h.execRigCommit
  | .rigCancel .. => h.execRigCancel
  | .rigCheckDone .. => h.execRigCheckDone
  | .catch_ .. => h.execCatch
  | .seatCatchDrained .. => h.execSeatCatchDrained
  | .seatCopyDone .. => h.execSeatCopyDone
  | .seatCopyFault .. => h.execSeatCopyFault
  | .catchDeadlineExpiry .. => h.execCatchDeadlineExpiry
  | .migrationGranuleCopied .. => h.execMigrationGranuleCopied
  | .freezeCtlFreeze .. => h.execFreezeCtlFreeze
  | .freezeCtlSave .. => h.execFreezeCtlSave
  | .freezeCtlThaw .. => h.execFreezeCtlThaw
  | .freezeCtlLoadImage .. => h.execFreezeCtlLoadImage
  | .freezeSaveDone .. => h.execFreezeSaveDone
  | .freezeRestoreDone .. => h.execFreezeRestoreDone
  | .imageHeaderReadDone .. => h.execImageHeaderReadDone
  | .seatScrubDone .. => h.execSeatScrubDone
  | .channelScrubDone .. => h.execChannelScrubDone
  | .meterTick => h.execMeterTick
  | .opMma .. => h.execOpMma
  | .opConv .. => h.execOpConv
  | .opLoadw .. => h.execOpLoadw
  | .opReq .. => h.execOpReq
  | .opOrigin .. => h.execOpOrigin
  | .opCmpLoadt .. => h.execOpCmpLoadt
  | .opCmp .. => h.execOpCmp
  | .conversionUnitStart .. => h.execConversionUnitStart
  | .arrOpRetire .. => h.execArrOpRetire
  | .mmaPause .. => h.execMmaPause
  | .guardCheckMerged .. => h.execGuardCheckMerged
  | .arrIssue .. => h.execArrIssue
  | .arrIssueUnblock .. => h.execArrIssueUnblock
  | .arrResult .. => h.execArrResult
  | .arrWait .. => h.execArrWait
  | .arrWaitDone .. => h.execArrWaitDone
  | .arrFence .. => h.execArrFence
  | .vzFence .. => h.execVzFence
  | .vzFenceComplete .. => h.execVzFenceComplete
  | .sigUpd .. => h.execSigUpd
  | .sigChk .. => h.execSigChk
  | .seatEnd .. => h.execSeatEnd
  | .seatEndDrained .. => h.execSeatEndDrained
  | .pegSet .. => h.execPegSet
  | .pegTest .. => h.execPegTest
  | .pegWait .. => h.execPegWait
  | .pegWaitany .. => h.execPegWaitany
  | .pegWaitWake .. => h.execPegWaitWake
  | .pegRset .. => h.execPegRset
  | .xferSubmit .. => h.execXferSubmit
  | .xferSubmitUnblock .. => h.execXferSubmitUnblock
  | .xferPoll .. => h.execXferPoll
  | .winSet .. => h.execWinSet
  | .coreLoad .. => h.execCoreLoad
  | .coreStore .. => h.execCoreStore
  | .coreAmo .. => h.execCoreAmo
  | .coreLr .. => h.execCoreLr
  | .coreSc .. => h.execCoreSc
  | .coreFence .. => h.execCoreFence
  | .fenceI .. => h.execFenceI
  | .csrAccess .. => h.execCsrAccess
  | .coreCompute .. => h.execCoreCompute
  | .ecall .. => h.execEcall
  | .ebreak .. => h.execEbreak
  | .coreLoadResponse .. => h.execCoreLoadResponse
  | .storeAck .. => h.execStoreAck
  | .tenderWatchdogExpiry .. => h.execTenderWatchdogExpiry
  | .reqPacketArrival .. => h.execReqPacketArrival
  | .pegWriteArrival .. => h.execPegWriteArrival
  | .rspPacketArrival .. => h.execRspPacketArrival
  | .mgtPacketArrival .. => h.execMgtPacketArrival
  | .redNodeArrival .. => h.execRedNodeArrival
  | .combineHoldExpiry .. => h.execCombineHoldExpiry
  | .redPacketArrival .. => h.execRedPacketArrival
  | .netRequestTimeout .. => h.execNetRequestTimeout
  | .hostRequestTimeout .. => h.execHostRequestTimeout
  | .linkFlitError .. => h.execLinkFlitError
  | .fenceCasCompletion .. => h.execFenceCasCompletion
  | .waitLend .. => h.execWaitLend
  | .channelRead .. => h.execChannelRead
  | .channelWrite .. => h.execChannelWrite
  | .patrolScrubRead .. => h.execPatrolScrubRead
  | .channelTracking .. => h.execChannelTracking
  | .channelMaintRetire .. => h.execChannelMaintRetire
  | .channelMaintRetrain .. => h.execChannelMaintRetrain
  | .channelTrainingDone .. => h.execChannelTrainingDone
  | .cxlCommit => h.execCxlCommit
  | .cxlCheckDone => h.execCxlCheckDone
  | .cxlDecoderCommitDone .. => h.execCxlDecoderCommitDone
  | .cxlRangeScrubDone .. => h.execCxlRangeScrubDone
  | .cxlRescan .. => h.execCxlRescan
  | .cxlPortEnumerated .. => h.execCxlPortEnumerated
  | .cxlPortDown .. => h.execCxlPortDown
  | .cxlPrsntRemoval .. => h.execCxlPrsntRemoval
  | .cxlMemResponse .. => h.execCxlMemResponse
  | .cxlMemTimeout .. => h.execCxlMemTimeout
  | .devloadWindow .. => h.execDevloadWindow
  | .capacityChange .. => h.execCapacityChange
  | .scaleRiseHoldExpiry .. => h.execScaleRiseHoldExpiry
  | .regulationWindow .. => h.execRegulationWindow
  | .pacingSlot => h.execPacingSlot
  | .rtUpdateInstall .. => h.execRtUpdateInstall
  | .rtUpdateRevoke .. => h.execRtUpdateRevoke
  | .rtMirrorFetchDone .. => h.execRtMirrorFetchDone
  | .entryDrainDone .. => h.execEntryDrainDone
  | .trRespHeadWrite .. => h.execTrRespHeadWrite
  | .fltRingHeadWrite .. => h.execFltRingHeadWrite
  | .fltResolveResume .. => h.execFltResolveResume
  | .fltResolveAbort .. => h.execFltResolveAbort
  | .faultWindowExpiry .. => h.execFaultWindowExpiry
  | .faultTimeoutExpiry .. => h.execFaultTimeoutExpiry
  | .xferCopy .. => h.execXferCopy
  | .xferFill .. => h.execXferFill
  | .xferKvGather .. => h.execXferKvGather
  | .xferRedArm .. => h.execXferRedArm
  | .xferRedSend .. => h.execXferRedSend
  | .xferFenceAdv .. => h.execXferFenceAdv
  | .atsTranslationCompletion .. => h.execAtsTranslationCompletion
  | .atsInvalidationRequest .. => h.execAtsInvalidationRequest
  | .sliceZeroDone .. => h.execSliceZeroDone
  | .ctxCmdCreate .. => h.execCtxCmdCreate
  | .ctxCmdDestroy .. => h.execCtxCmdDestroy
  | .ctxCmdFenceBind .. => h.execCtxCmdFenceBind
  | .ctxCmdFenceUnbind .. => h.execCtxCmdFenceUnbind
  | .ctxDescReadDone .. => h.execCtxDescReadDone
  | .destroyEnd .. => h.execDestroyEnd
  | .functionLevelReset .. => h.execFunctionLevelReset
  | .vfEnableClear => h.execVfEnableClear
  | .intStatusWrite .. => h.execIntStatusWrite
  | .ucHeadWrite .. => h.execUcHeadWrite
  | .crHeadWrite .. => h.execCrHeadWrite
  | .registerWrite .. => h.execRegisterWrite
  | .releaseHoldExpiry .. => h.execReleaseHoldExpiry
  | .dmwrCompletion .. => h.execDmwrCompletion
  | .dmwrRetryTimer .. => h.execDmwrRetryTimer
  | .dmwrTimeout .. => h.execDmwrTimeout
  | .completionMessageCoalesce .. => h.execCompletionMessageCoalesce
  | .hqTailWrite .. => h.execHqTailWrite
  | .contextSwapInDone .. => h.execContextSwapInDone
  | .queueFetchDone .. => h.execQueueFetchDone
  | .headWbMerge .. => h.execHeadWbMerge
  | .slotSeqRetry .. => h.execSlotSeqRetry
  | .launchBlockReadDone .. => h.execLaunchBlockReadDone
  | .cmdNop .. => h.execCmdNop
  | .cmdLaunch .. => h.execCmdLaunch
  | .cmdCall .. => h.execCmdCall
  | .cmdSeqSlot .. => h.execCmdSeqSlot
  | .seqSlotRecordReadDone .. => h.execSeqSlotRecordReadDone
  | .cmdAccount .. => h.execCmdAccount
  | .cmdSprintBind .. => h.execCmdSprintBind
  | .cmdSprintUnbind .. => h.execCmdSprintUnbind
  | .cmdWkeyLoad .. => h.execCmdWkeyLoad
  | .wkeyBlobReadDone .. => h.execWkeyBlobReadDone
  | .cmdWkeyClear .. => h.execCmdWkeyClear
  | .cmdGhengoOpen .. => h.execCmdGhengoOpen
  | .cmdGhengoClose .. => h.execCmdGhengoClose
  | .cmdBhLease .. => h.execCmdBhLease
  | .cmdBhRelease .. => h.execCmdBhRelease
  | .waitReadDone .. => h.execWaitReadDone
  | .fenceWaitPoll .. => h.execFenceWaitPoll
  | .commandStart .. => h.execCommandStart
  | .prefillDone .. => h.execPrefillDone
  | .preemptQuantumExpiry .. => h.execPreemptQuantumExpiry
  | .preemptCtlPreempt .. => h.execPreemptCtlPreempt
  | .preemptCtlLift .. => h.execPreemptCtlLift
  | .preemptSaveDone .. => h.execPreemptSaveDone
  | .preemptRestoreDone .. => h.execPreemptRestoreDone
  | .cmdTimeoutExpiry .. => h.execCmdTimeoutExpiry
  | .sprintWindowWrite .. => h.execSprintWindowWrite
  | .egressReadDone .. => h.execEgressReadDone
  | .sprintGateHoldExpiry .. => h.execSprintGateHoldExpiry
  | .sprintAbortEnd .. => h.execSprintAbortEnd
  | .papOpen .. => h.execPapOpen
  | .papAuth .. => h.execPapAuth
  | .papClose .. => h.execPapClose
  | .papRead .. => h.execPapRead
  | .papWrite .. => h.execPapWrite
  | .papDescribe .. => h.execPapDescribe
  | .papKeepalive .. => h.execPapKeepalive
  | .challengeTimeout .. => h.execChallengeTimeout
  | .sessionIdleTimeout .. => h.execSessionIdleTimeout
  | .segmentTimeout .. => h.execSegmentTimeout
  | .transportLoss .. => h.execTransportLoss
  | .authLockoutExpiry .. => h.execAuthLockoutExpiry
  | .mctpPacketReceive .. => h.execMctpPacketReceive
  | .mctpAssemblyTimeout .. => h.execMctpAssemblyTimeout
  | .mctpTxAcceptTimeout => h.execMctpTxAcceptTimeout
  | .setEndpointId .. => h.execSetEndpointId
  | .getEndpointId .. => h.execGetEndpointId
  | .getEndpointUuid .. => h.execGetEndpointUuid
  | .getMctpVersionSupport .. => h.execGetMctpVersionSupport
  | .getMessageTypeSupport .. => h.execGetMessageTypeSupport
  | .getVendorMsgSupport .. => h.execGetVendorMsgSupport
  | .mctpUnsupportedCmd .. => h.execMctpUnsupportedCmd
  | .mbxDoorbell .. => h.execMbxDoorbell
  | .mbxAck .. => h.execMbxAck
  | .ghPortEnableSet .. => h.execGhPortEnableSet
  | .ghPortEnableClear .. => h.execGhPortEnableClear
  | .ghTrainingDone .. => h.execGhTrainingDone
  | .ghTrainingTimeout .. => h.execGhTrainingTimeout
  | .helloReceive .. => h.execHelloReceive
  | .helloTimeout .. => h.execHelloTimeout
  | .ghRecoveryTimer .. => h.execGhRecoveryTimer
  | .ghPortMaintRetrain .. => h.execGhPortMaintRetrain
  | .ghFlitError .. => h.execGhFlitError
  | .ghFecLockLoss .. => h.execGhFecLockLoss
  | .ghCreditStall .. => h.execGhCreditStall
  | .ghTagFlitReceive .. => h.execGhTagFlitReceive
  | .ghPacketReceive .. => h.execGhPacketReceive
  | .ghRequestTimeout .. => h.execGhRequestTimeout
  | .admLeaseCmdRequest .. => h.execAdmLeaseCmdRequest
  | .admLeaseCmdReturn .. => h.execAdmLeaseCmdReturn
  | .admLentRevoke .. => h.execAdmLentRevoke
  | .leaseRequest .. => h.execLeaseRequest
  | .leaseRenew .. => h.execLeaseRenew
  | .leaseReturn .. => h.execLeaseReturn
  | .leaseRevoke .. => h.execLeaseRevoke
  | .epochQuery .. => h.execEpochQuery
  | .admResponse .. => h.execAdmResponse
  | .admRetryTimer .. => h.execAdmRetryTimer
  | .leaseRenewTimer .. => h.execLeaseRenewTimer
  | .leaseLossTimer .. => h.execLeaseLossTimer
  | .leaseExpiryTimer .. => h.execLeaseExpiryTimer
  | .gv4SeatAction .. => h.execGv4SeatAction
  | .gv4ActionReport .. => h.execGv4ActionReport
  | .leaseFaultReport .. => h.execLeaseFaultReport
  | .chOpen .. => h.execChOpen
  | .chClose .. => h.execChClose
  | .chMatchTimeout .. => h.execChMatchTimeout
  | .peerGoneTimer .. => h.execPeerGoneTimer
  | .channelAbortEnd .. => h.execChannelAbortEnd
  | .bhAlloc .. => h.execBhAlloc
  | .bhFree .. => h.execBhFree
  | .bhRenew .. => h.execBhRenew
  | .bhMove .. => h.execBhMove
  | .bhQuery .. => h.execBhQuery
  | .bhMoveGranuleCopied .. => h.execBhMoveGranuleCopied
  | .bhMemberExpiry .. => h.execBhMemberExpiry
  | .bhHomeRenewTimer .. => h.execBhHomeRenewTimer
  | .bhResolveTimeout .. => h.execBhResolveTimeout
  | .budgetGrantWrite .. => h.execBudgetGrantWrite
  | .budgetLeaseExpiry => h.execBudgetLeaseExpiry
  | .powerControlStep .. => h.execPowerControlStep
  | .alertAssert .. => h.execAlertAssert
  | .alertDeassert .. => h.execAlertDeassert
  | .alertHoldExpiry => h.execAlertHoldExpiry
  | .alertRiseStep => h.execAlertRiseStep
  | .thermalThrottleStep .. => h.execThermalThrottleStep
  | .energyTick .. => h.execEnergyTick
  | .getPdrRepositoryInfo .. => h.execGetPdrRepositoryInfo
  | .getPdr .. => h.execGetPdr
  | .getSensorReading .. => h.execGetSensorReading
  | .getStateSensorReadings .. => h.execGetStateSensorReadings
  | .pldmUnsupportedCmd .. => h.execPldmUnsupportedCmd
  | .shellResetWrite .. => h.execShellResetWrite
  | .shellResetDrainDone .. => h.execShellResetDrainDone
  | .shellRetrainDone .. => h.execShellRetrainDone
  | .shellResetComplete .. => h.execShellResetComplete
  | .healthPoll .. => h.execHealthPoll
  | .bridgeCloseTimeout .. => h.execBridgeCloseTimeout
  | .islandResetAnswerTimeout .. => h.execIslandResetAnswerTimeout
  | .dumpCtlTake => h.execDumpCtlTake
  | .dumpAccessTimeout .. => h.execDumpAccessTimeout
  | .dumpEnd => h.execDumpEnd
  | .dumpClear => h.execDumpClear
  | .monitorEvent .. => h.execMonitorEvent
  | .lockstepMismatch => h.execLockstepMismatch
  | .queryDeviceIdentifiers .. => h.execQueryDeviceIdentifiers
  | .getFirmwareParameters .. => h.execGetFirmwareParameters
  | .requestUpdate .. => h.execRequestUpdate
  | .passComponentTable .. => h.execPassComponentTable
  | .updateComponent .. => h.execUpdateComponent
  | .firmwareDataPush .. => h.execFirmwareDataPush
  | .fwVerifyDone => h.execFwVerifyDone
  | .activateFirmware .. => h.execActivateFirmware
  | .getStatus .. => h.execGetStatus
  | .cancelUpdateComponent .. => h.execCancelUpdateComponent
  | .cancelUpdate .. => h.execCancelUpdate
  | .fwUpdateTimeout => h.execFwUpdateTimeout
  | .fwRaiseFloor .. => h.execFwRaiseFloor
  | .credInstall .. => h.execCredInstall
  | .credRevoke .. => h.execCredRevoke
  | .evidenceReq .. => h.execEvidenceReq
  | .evidenceSigned .. => h.execEvidenceSigned
  | .debugCtlOpen .. => h.execDebugCtlOpen
  | .debugCtlHalt .. => h.execDebugCtlHalt
  | .debugCtlResume .. => h.execDebugCtlResume
  | .debugCtlClose .. => h.execDebugCtlClose
  | .dbgDataRead .. => h.execDbgDataRead
  | .dbgDataWrite .. => h.execDbgDataWrite
  | .wakeFold .. => h.execWakeFold
  | .sealTimer .. => h.execSealTimer
  | .sealSigned .. => h.execSealSigned
  | .bhKeyRenewalTimeout .. => h.execBhKeyRenewalTimeout
  | .vfEnableSet .. => h.execVfEnableSet
  | .railDischargeDone => h.execRailDischargeDone
  | .cxlPrsntLowToHigh .. => h.execCxlPrsntLowToHigh
  | .cxlEvent .. => h.execCxlEvent
  | .gddr7RefreshDoubling .. => h.execGddr7RefreshDoubling
  | .ghFlitHeaderReceive .. => h.execGhFlitHeaderReceive
  | .i3cDynamicAddress .. => h.execI3cDynamicAddress

protected theorem Canonical.step (h : Canonical s) : AnsCanonical (step s) := by
  unfold step
  split
  · exact .next h.idle
  · exact h.update.exec _

/-- Settles O57: every command is made of operations that keep the memory canonical. -/
theorem memoryStaysCanonical : Obligations.MemoryStaysCanonical := fun s _ hs hstep =>
  have h : Canonical s := ⟨hs⟩
  (h.step.of_next hstep).memory

end Sys2Proof
end

section
/-! O29: CATCH and the end of a seat's part (02 R63, 05 R186, R187). Writing a seat's dirty lines back and fetching an
instruction reach far into the state, but leave where the seats' cores stand: the lemma of such an operation `f` is
`HasControl.f`. -/
namespace Sys2Proof
open Sys2Proof.Machine

/-! ### Where a core stands -/

/-- Where a core stands in its instructions and at its catch points. -/
structure Control where
  pc : Nat
  wait : CoreWait
  user : Bool
  catchCount : Nat
  reached : Nat
  catchDesc : Nat

def controlOf (c : Core) : Control :=
  { pc := c.pc, wait := c.wait, user := c.user, catchCount := c.catchCount, reached := c.reached, catchDesc := c.catchDesc }

/-- The core of a seat stands at `v`. -/
structure HasControl (i : Nat) (v : Control) (s : State) : Prop where
  eq : controlOf (seatOf s i).core = v

/-- An operation that leaves the seats leaves where their cores stand. -/
protected theorem HasControl.of_seats (h : HasControl i v s) (e : t.seats = s.seats) : HasControl i v t := by
  have hseat : seatOf t i = seatOf s i := congrArg (tget _ · i) e
  exact ⟨hseat ▸ h.eq⟩

/-- A change of a seat that leaves where its core stands. -/
protected theorem HasControl.seatPut (h : HasControl i v s) (e : controlOf t.core = controlOf (seatOf s k).core) :
    HasControl i v (seatPut s k t) := by
  refine ⟨?_⟩
  rw [seatOf_seatPut]
  split
  · next hik => rw [e, ← hik, h.eq]
  · exact h.eq

protected theorem HasControl.corePut (h : HasControl i v s) (e : controlOf c = controlOf (seatOf s k).core) :
    HasControl i v (corePut s k c) := h.seatPut e

protected theorem HasControl.ite {c : Prop} [Decidable c] (hs : HasControl i v s) (ht : HasControl i v t) :
    HasControl i v (if c then s else t) := by
  split
  · exact hs
  · exact ht

protected theorem HasControl.foldl {α : Type} {l : List α} {f : State → α → State} (h : HasControl i v s)
    (hf : ∀ s x, HasControl i v s → HasControl i v (f s x)) : HasControl i v (l.foldl f s) := by
  induction l generalizing s with
  | nil => exact h
  | cons x l ih => exact ih (hf s x h)

/-! ### Memory, counters, ports and images leave the seats -/

protected theorem HasControl.pset (h : HasControl i v s) : HasControl i v (pset s k n) := h.of_seats rfl

protected theorem HasControl.pinc (h : HasControl i v s) : HasControl i v (pinc s k) := h.pset

protected theorem HasControl.emit (h : HasControl i v s) : HasControl i v (emit s x) := h.of_seats rfl

protected theorem HasControl.freeNext (h : HasControl i v s) : HasControl i v (freeNext s) := h.of_seats rfl

protected theorem HasControl.chanPut (h : HasControl i v s) : HasControl i v (chanPut s k c) := h.of_seats rfl

protected theorem HasControl.shellPut (h : HasControl i v s) : HasControl i v (shellPut s k sh) := h.of_seats rfl

protected theorem HasControl.memWrite (h : HasControl i v s) : HasControl i v (memWrite s a b) := h.of_seats rfl

protected theorem HasControl.sliceHeal (h : HasControl i v s) : HasControl i v (sliceHeal s a n) := h.of_seats rfl

protected theorem HasControl.countClosed (h : HasControl i v s) : HasControl i v (countClosed s n) := h.of_seats rfl

protected theorem HasControl.countRefused (h : HasControl i v s) : HasControl i v (countRefused s st) := .ite (h.of_seats rfl) h

protected theorem HasControl.hostPost (h : HasControl i v s) : HasControl i v (hostPost s a b) := .ite h.freeNext.emit h.freeNext.emit

protected theorem HasControl.chanTouch (h : HasControl i v s) : HasControl i v (chanTouch s c off n) :=
  h.foldl fun _ _ h => .ite h (.ite h.chanPut h.freeNext.chanPut)

protected theorem HasControl.cellWrite (h : HasControl i v s) : HasControl i v (cellWrite s a chan b) := by
  unfold cellWrite
  extract_lets s1
  have h1 : HasControl i v s1 := h.memWrite
  split
  · exact h1.sliceHeal
  · exact h1.chanTouch.chanPut.pset

protected theorem HasControl.engineWrite (h : HasControl i v s) : HasControl i v (engineWrite s ga b) := by
  unfold engineWrite
  refine .ite h.emit ?_
  -- the route by a name, so that no check of a case computes it
  obtain ⟨route, hroute⟩ := exists_eq' (a' := reach s 2352)
  rw [hroute]
  split
  · exact h
  · split
    · exact h.of_seats rfl
    · exact .ite h.cellWrite (h.of_seats rfl)

protected theorem HasControl.areaWrite (h : HasControl i v s) : HasControl i v (areaWrite s slot k p b) :=
  h.foldl fun _ _ h => h.cellWrite

protected theorem HasControl.imageChange (h : HasControl i v s) : HasControl i v (imageChange s key im off new) := by
  unfold imageChange
  extract_lets s1
  have h1 : HasControl i v s1 := .pinc (h.of_seats rfl)
  split
  · exact .ite h1.areaWrite h1
  · exact h1.engineWrite.engineWrite

protected theorem HasControl.imageWrite (h : HasControl i v s) : HasControl i v (imageWrite s key l off b) := h.imageChange

protected theorem HasControl.imagePegWrite (h : HasControl i v s) : HasControl i v (imagePegWrite s key l p b) := h.imageChange

protected theorem HasControl.ghOut (h : HasControl i v s) : HasControl i v (ghOut s w) :=
  .ite h (.ite (.emit (h.of_seats rfl)) (h.of_seats rfl))

protected theorem HasControl.farSend (h : HasControl i v s) : HasControl i v (farSend s port dst gv kind ident off agent op d) := by
  have h1 : HasControl i v { s with ghTag := (s.ghTag + 1) % 2 ^ 32 } := h.of_seats rfl
  exact h1.ghOut

protected theorem HasControl.farRespond (h : HasControl i v s) : HasControl i v (farRespond s port kind ident agent tag st b) := h.ghOut

protected theorem HasControl.keptRaise (h : HasControl i v s) : HasControl i v (keptRaise s cid k n) := by
  unfold keptRaise
  dsimp only
  split
  · exact h
  · exact .ite (h.of_seats rfl) h

protected theorem HasControl.waitsDue (h : HasControl i v s) : HasControl i v (waitsDue s ga) := .ite (h.of_seats rfl) h

protected theorem HasControl.advanced (h : HasControl i v s) : HasControl i v (advanced s cid k n) := by
  unfold advanced
  split
  · exact h
  · exact h.keptRaise.waitsDue

protected theorem HasControl.askRead (h : HasControl i v s) : HasControl i v (askRead s p n) := by
  unfold askRead
  split
  · exact h.farSend
  · exact h.emit
  · exact h

protected theorem HasControl.askAtomic (h : HasControl i v s) : HasControl i v (askAtomic s p w op n) := by
  unfold askAtomic
  split
  · exact h.farSend
  · exact h.emit
  · exact h

/-! ### A seat's pegs, scratchpad, counters and outstanding stores leave where its core stands -/

protected theorem HasControl.countDenied (h : HasControl i v s) : HasControl i v (countDenied s seat) := h.seatPut rfl

protected theorem HasControl.pegPut (h : HasControl i v s) : HasControl i v (pegPut s seat p b) := h.seatPut rfl

protected theorem HasControl.egressTrigger (h : HasControl i v s) : HasControl i v (egressTrigger s slot l seat p) :=
  h.foldl fun _ _ h => .ite h.pinc (.ite h.pegPut.pinc (h.of_seats rfl))

protected theorem HasControl.pegWrite (h : HasControl i v s) : HasControl i v (pegWrite s seat p b) := by
  unfold pegWrite
  refine .ite ?_ h.pegPut
  split
  · exact h.pegPut.egressTrigger
  · exact h.pegPut

protected theorem HasControl.scratchWrite (h : HasControl i v s) : HasControl i v (scratchWrite s seat off b) := by
  unfold scratchWrite
  dsimp only
  split
  · exact h.memWrite
  · exact .ite (h.memWrite.seatPut rfl) h.memWrite

protected theorem HasControl.netAnswer (h : HasControl i v s) : HasControl i v (netAnswer s back st b) := by
  cases back with
  | none => exact h.countRefused
  | packet ga => exact h.emit
  | store seat tag => exact h.seatPut rfl
  | ghengo port kind id agent tag => exact h.farRespond
  | advance cid i n => exact h.advanced

protected theorem HasControl.netReply (h : HasControl i v s) : HasControl i v (netReply s whole back st b) := by
  unfold netReply
  refine .ite h.netAnswer ?_
  split
  · exact h.countRefused
  · exact h
  · exact h
  · exact h.pinc.netAnswer

protected theorem HasControl.placeWrite (h : HasControl i v s) : HasControl i v (placeWrite s p b o).1 := by
  cases p with
  | cell a chan copy =>
    unfold placeWrite
    dsimp only
    split
    · exact h.cellWrite.cellWrite
    · exact h.cellWrite
  | scratch seat off =>
    unfold placeWrite
    dsimp only
    split
    · exact h.scratchWrite
    · exact h.countDenied
  | peg seat p => exact h.pegWrite
  | pegBad island => exact h.pinc
  | held slot l off => exact h
  | image key l off => exact .ite h.imagePegWrite h.imageWrite
  | far port dst kind id off agent seats => exact .ite h.farSend h.farSend
  | host a => exact h.hostPost
  | no st => exact h
  | noAt island st => exact h
  | closed n => exact h.countClosed

protected theorem HasControl.writeAt (h : HasControl i v s) : HasControl i v (writeAt s kind p b o).1 := by
  unfold writeAt
  split
  · exact h.scratchWrite
  · exact h.placeWrite

protected theorem HasControl.placeAtomic (h : HasControl i v s) : HasControl i v (placeAtomic s p w op n o).1 := by
  cases p with
  | cell a chan copy =>
    unfold placeAtomic
    dsimp only
    split
    · dsimp only
      split
      · exact h.cellWrite.cellWrite
      · exact h.cellWrite
    · exact h
  | scratch seat off =>
    unfold placeAtomic
    dsimp only
    split
    · exact h.scratchWrite
    · exact h.countDenied
  | image key l off =>
    unfold placeAtomic
    dsimp only
    split
    · exact h
    · exact h.imageWrite
  | host a =>
    unfold placeAtomic
    dsimp only
    split
    · exact h
    · exact h
  | _ => exact h

protected theorem HasControl.pegRelease (h : HasControl i v s) : HasControl i v (pegRelease s seat) :=
  h.foldl fun _ _ h => .ite h (HasControl.netReply (.pegWrite (h.seatPut rfl)))

protected theorem HasControl.reqApplied (h : HasControl i v s) : HasControl i v (reqApplied s seat src) := .pegRelease (h.seatPut rfl)

/-- A packet that lands, is answered or is held. -/
protected theorem HasControl.netLand (h : HasControl i v s) (e : netLand s w k o = some t) : HasControl i v t := by
  unfold netLand at e
  extract_lets p whole at e
  clear_value p whole
  split at e
  · split at e
    · cases e
      exact h.shellPut
    · cases e
  · dsimp only at e
    split at e
    · split at e
      · cases e
        exact h.seatPut rfl
      · cases e
    · cases e
      exact h.pegWrite.netReply
  · cases e
    exact h.placeWrite.netReply
  · cases e
    exact h.askRead.netReply
  · dsimp only at e
    split at e
    · cases e
      exact .ite h.writeAt.netReply h.writeAt.netReply.reqApplied
    · cases e
      exact h.writeAt.netReply
  · cases e
    exact h.askAtomic.placeAtomic.netReply

protected theorem HasControl.netSend (h : HasControl i v s) : HasControl i v (netSend first s k o) := by
  unfold netSend
  extract_lets w wait dst
  have hwait : HasControl i v wait := h.of_seats rfl
  refine .ite hwait ?_
  split
  · next heq => exact h.netLand heq
  · exact .ite hwait.pinc hwait

/-! ### Writing lines back -/

protected theorem HasControl.coreHostWrite (h : HasControl i v s) : HasControl i v (coreHostWrite s seat a b) := by
  unfold coreHostWrite
  exact .ite (.emit (h.corePut (by rfl))) h.hostPost

protected theorem HasControl.storeOut (h : HasControl i v s) : HasControl i v (storeOut s seat va ga st outside waits gh) := by
  have h1 : HasControl i v { s with nextId := s.nextId + 1 } := h.of_seats rfl
  exact h1.corePut rfl

protected theorem HasControl.coreWrite (h : HasControl i v s) : HasControl i v (coreWrite s seat va ga b) := by
  unfold coreWrite
  extract_lets p
  clear_value p
  split
  · exact h.coreHostWrite
  · dsimp only
    exact h.placeWrite.storeOut
  · exact h.storeOut
  · exact h.countClosed.storeOut
  · exact h.storeOut.netSend
  · dsimp only
    exact h.placeWrite.storeOut

protected theorem HasControl.lineOut (h : HasControl i v s) : HasControl i v (lineOut s seat l) := .ite h.coreWrite h

protected theorem HasControl.cacheFlush (h : HasControl i v s) : HasControl i v (cacheFlush s seat invalidate) :=
  (h.foldl fun _ _ h => h.lineOut).corePut rfl

/-- Once its lines are written back, a seat's data cache holds no dirty one. -/
theorem dirty_of_mem_cacheFlush (hl : l ∈ (seatOf (cacheFlush s i false) i).core.dcache) : l.dirty = false := by
  simp only [cacheFlush, core_corePut, Bool.false_eq_true, if_false, List.mem_map] at hl
  obtain ⟨_, _, rfl⟩ := hl
  rfl

/-! ### The fetch of an instruction -/

protected theorem HasControl.rangeIn (h : HasControl i v s) : HasControl i v (rangeIn s die cid idx) := .ite h (h.of_seats rfl)

protected theorem HasControl.rangeTouch (h : HasControl i v s) : HasControl i v (rangeTouch s die cid va) := by
  unfold rangeTouch
  split
  · exact h
  · exact .ite h h.pinc.rangeIn

protected theorem HasControl.coreTouch (h : HasControl i v s) : HasControl i v (coreTouch s seat va) := by
  unfold coreTouch
  split
  · exact h.rangeTouch
  · exact h

/-- A read that meets no error but those that are noted already. -/
protected theorem HasControl.chanErrors (h : HasControl i v s) : HasControl i v (chanErrors s c b {}) := by
  unfold chanErrors
  extract_lets s1
  have h1 : HasControl i v s1 := h.pset
  rw [if_neg (by decide), if_neg (c := ({} : ChanCheck).error = .single) (by decide)]
  exact .ite h1 (.ite h1.chanPut.pinc h1)

protected theorem HasControl.chanMeet (h : HasControl i v s) : HasControl i v (chanMeet s p n {}) := by
  unfold chanMeet
  split
  · exact h.chanTouch.chanErrors.pset
  · exact h

protected theorem HasControl.icacheIn (h : HasControl i v s) : HasControl i v (icacheIn s seat l) := by
  unfold icacheIn
  extract_lets _ _ out
  clear_value out
  split
  · exact h.freeNext.corePut (by rfl)
  · exact h.corePut (by rfl)

protected theorem HasControl.fetchAt (h : HasControl i v s) (e : fetchAt s seat va = .done t) : HasControl i v t := by
  unfold fetchAt at e
  split at e
  · cases e
    exact h
  · cases e
  · cases e
  · extract_lets s1 at e
    have h1 : HasControl i v s1 := h.coreTouch
    clear_value s1
    generalize (if cacheable _ then _ else _ : Nat × Nat) = span at e
    dsimp only at e
    split at e
    · cases e
      exact h1
    · split at e
      · cases e
      · split at e
        · cases e
        · split at e
          · cases e
            exact h1.chanMeet.icacheIn
          · cases e
            exact h1.chanMeet

protected theorem HasControl.coreFetch (h : HasControl i v s) (e : coreFetch s seat size = .done t) : HasControl i v t := by
  unfold coreFetch at e
  split at e
  · next heq =>
    have h1 := h.fetchAt heq
    split at e
    · exact h1.fetchAt e
    · cases e
      exact h1
  · next hstops => exact absurd e (hstops t)

/-- A core that is ready stands, once its instruction is fetched, where it stood. -/
theorem control_of_ready (h : CoreReady s i size t) : controlOf (seatOf t i).core = controlOf (seatOf s i).core := by
  obtain ⟨-, -, -, hfetch⟩ := h
  exact (HasControl.coreFetch ⟨rfl⟩ hfetch).eq

theorem wait_of_ready (h : CoreReady s i size t) : (seatOf t i).core.wait = .none :=
  (congrArg Control.wait (control_of_ready h)).trans h.2.1

theorem user_of_ready (h : CoreReady s i size t) : (seatOf t i).core.user = true :=
  (congrArg Control.user (control_of_ready h)).trans h.2.2.1

/-! ### CATCH and SEAT.END of a core that is ready -/

theorem vzJobStep_ready (h : CoreReady s i 4 t) (hlegal : legal = true) :
    vzJobStep i bits legal s f = .next (f (corePut t i { (seatOf t i).core with isz := 4 }) { (seatOf t i).core with isz := 4 }) := by
  subst hlegal
  exact coreStep_ready s i 4 _ t h

/-- A seat's dirty lines are written back, and its core begins a wait. -/
def flushThenWait (s : State) (i : Nat) (w : CoreWait) : State :=
  corePut (cacheFlush s i false) i (coreWait (cacheFlush s i false) (coreOf (cacheFlush s i false) i) w)

theorem controlOf_flushThenWait : controlOf (seatOf (flushThenWait s i w) i).core = { controlOf (seatOf s i).core with wait := w } := by
  have hflush : HasControl i (controlOf (seatOf s i).core) (cacheFlush s i false) := HasControl.cacheFlush ⟨rfl⟩
  rw [flushThenWait, core_corePut, ← hflush.eq]
  rfl

theorem dirty_of_mem_flushThenWait (hl : l ∈ (seatOf (flushThenWait s i w) i).core.dcache) : l.dirty = false := by
  rw [flushThenWait, core_corePut] at hl
  exact dirty_of_mem_cacheFlush hl

/-- The core that has a CATCH at the descriptor `d` behind it. -/
def coreCaught (c : Core) (d : Nat) : Core := { coreAfter c 4 with reached := c.catchCount + 1, catchDesc := d }

/-- CATCH by its descriptor and by whether a latch stands at the next catch number. -/
theorem exec_catch_ready (h : CoreReady s0 i.val 4 s) (hc : (seatOf s i.val).core = c) :
    exec (.catch_ i 0 0 rs1 0) s0 = .next (
      if catchFormatOk (xGet c rs1.val) = false then seatTrap (corePut s i.val { c with isz := 4 }) i.val false 25 (xGet c rs1.val)
      else if latchedAt s i.val (c.catchCount + 1) = false then
        corePut s i.val { coreCaught c (xGet c rs1.val) with catchCount := c.catchCount + 1 }
      else catchSettle (flushThenWait (corePut s i.val (coreCaught c (xGet c rs1.val))) i.val .catchDrain) i.val) := by
  have hwait : c.wait = .none := hc ▸ wait_of_ready h
  have huser : c.user = true := hc ▸ user_of_ready h
  change execCatch i 0 0 rs1 0 s0 = _
  unfold execCatch
  dsimp only
  rw [vzJobStep_ready h (by rfl), hc]
  refine congrArg _ ?_
  by_cases hbad : catchFormatOk (xGet c rs1.val) = false
  · rw [if_pos hbad]
    exact if_pos (congrArg not hbad)
  · rw [if_neg hbad]
    refine (if_neg fun e => hbad (Bool.not_eq_true' _ ▸ e)).trans ?_
    rw [coreRetire_ready _ _ _ (by exact hwait) (by exact huser), corePut_corePut]
    by_cases hlatch : latchedAt s i.val (c.catchCount + 1) = false
    · rw [if_pos hlatch]
      refine (if_neg (ne_true_of_eq_false hlatch)).trans ?_
      rw [corePut_corePut, coreOf, core_corePut]
      rfl
    · rw [if_neg hlatch]
      exact if_pos (eq_true_of_ne_false hlatch)

/-- At a latch the core has the CATCH behind it, its lines are clean, and it drains. -/
theorem exec_catch_of_latched (h : CoreReady s0 i.val 4 s) (hc : (seatOf s i.val).core = c)
    (hok : catchFormatOk (xGet c rs1.val) = true) (hlatch : latchedAt s i.val (c.catchCount + 1) = true) :
    ∃ u, exec (.catch_ i 0 0 rs1 0) s0 = .next (catchSettle u i.val) ∧
      controlOf (seatOf u i.val).core = { controlOf (coreCaught c (xGet c rs1.val)) with wait := .catchDrain } ∧
      ∀ l ∈ (seatOf u i.val).core.dcache, l.dirty = false := by
  have hexec := exec_catch_ready (rs1 := rs1) h hc
  rw [if_neg (ne_false_of_eq_true hok), if_neg (ne_false_of_eq_true hlatch)] at hexec
  refine ⟨_, hexec, ?_, fun l => dirty_of_mem_flushThenWait⟩
  rw [controlOf_flushThenWait, core_corePut]

/-- SEAT.END with a hint of 0 or 1: the core stands before it, its lines are clean, and it drains. -/
theorem exec_seatEnd_of_hint (h : CoreReady s0 i.val 4 s) (hc : (seatOf s i.val).core = c) (hhint : xGet c rs1.val % 256 < 2) :
    ∃ t, exec (.seatEnd i 0 0 rs1 0) s0 = .next t ∧
      controlOf (seatOf t i.val).core = { controlOf c with wait := .endDrain (xGet c rs1.val % 2) } ∧
      ∀ l ∈ (seatOf t i.val).core.dcache, l.dirty = false := by
  refine ⟨flushThenWait (corePut s i.val { c with isz := 4 }) i.val (.endDrain (xGet c rs1.val % 2)), ?_, ?_,
    fun l => dirty_of_mem_flushThenWait⟩
  · change execSeatEnd i 0 0 rs1 0 s0 = _
    unfold execSeatEnd
    dsimp only
    rw [vzJobStep_ready h (by rfl), hc]
    exact congrArg _ (if_neg (Nat.not_le.mpr hhint))
  · rw [controlOf_flushThenWait, core_corePut]
    rfl

/-! ### The end of a seat's part -/

/-- A seat whose part has ended: past SEAT.END, out of user mode, its caches empty. -/
def seatAtEnd (s : State) (t : Seat) : Seat :=
  { t with mode := .ended, core := { coreWake s t.core with
    pc := (t.core.pc + 4) % 2 ^ 64, instret := (t.core.instret + 1) % 2 ^ 64, user := false, reserve := none, dcache := [], icache := [],
    released := true } }

theorem exec_seatEndDrained_of_not_drained (hwait : (seatOf s i.val).core.wait = .endDrain hint)
    (hdrain : seatDrained (seatOf s i.val) = false) : exec (.seatEndDrained i) s = .next s := by
  change execSeatEndDrained i s = _
  unfold execSeatEndDrained
  dsimp only
  rw [hwait]
  exact if_pos (congrArg not hdrain)

section
variable {s : State} {i : SeatId} {hint : Nat} (hwait : (seatOf s i.val).core.wait = .endDrain hint)
  (hdrain : seatDrained (seatOf s i.val) = true)
include hwait hdrain

/-- A drained seat of a shell ends and is counted in the shell's job. -/
theorem exec_seatEndDrained_of_shell (hshell : seatShell s i.val = some sl) :
    exec (.seatEndDrained i) s = .next (seatEnded (seatPut s i.val (seatAtEnd s (seatOf s i.val))) sl
      (lseatOf (shellOf s sl) i.val) hint (seatOf s i.val).arr.summary) := by
  change execSeatEndDrained i s = _
  unfold execSeatEndDrained
  dsimp only
  rw [hwait, hshell]
  exact if_neg (ne_true_of_eq_false (congrArg not hdrain))

/-- A drained lent seat ends and reports to its borrower. -/
theorem exec_seatEndDrained_of_lent (hshell : seatShell s i.val = none) :
    exec (.seatEndDrained i) s = .next (lentReport (seatPut s i.val (seatAtEnd s (seatOf s i.val))) i.val
      (.ended (hint == 1) (BitVec.ofNat 64 (seatOf s i.val).arr.summary))) := by
  change execSeatEndDrained i s = _
  unfold execSeatEndDrained
  dsimp only
  rw [hwait, hshell]
  exact if_neg (ne_true_of_eq_false (congrArg not hdrain))

end

/-! ### The end of a job -/

/-- A job is left by what is done for each element of a list, when it is left by each of these. -/
theorem job_foldl {α : Type} {f : State → α → State} (hf : ∀ s x, (shellOf (f s x) n).job = (shellOf s n).job) (l : List α)
    (s : State) : (shellOf (l.foldl f s) n).job = (shellOf s n).job := by
  induction l generalizing s with
  | nil => rfl
  | cons x l ih => rw [List.foldl_cons, ih, hf]

@[simp] theorem job_okLeaves (s : State) (k n : Nat) : (shellOf (okLeaves s k) n).job = (shellOf s n).job := by
  rw [okLeaves, shellOf_shellPut]
  split
  · next hnk => rw [hnk]
  · rfl

@[simp] theorem job_wakeAppend (s : State) (k n : Nat) (r : WakeRec) : (shellOf (wakeAppend s k r) n).job = (shellOf s n).job := rfl

theorem job_sprintAnswer : (shellOf (sprintAnswer s k seq st body rec claim) n).job = (shellOf s n).job := by
  unfold sprintAnswer
  extract_lets _ _ _ _ s2 s3
  have h2 : (shellOf s2 n).job = (shellOf s n).job := by
    unfold s2
    split
    · rfl
    · rfl
  have h3 : (shellOf s3 n).job = (shellOf s n).job := by
    unfold s3
    split
    · rw [job_okLeaves, h2]
    · exact h2
  split
  · rfl
  · split
    · rw [job_wakeAppend, h3]
    · exact h3

theorem job_sprintAnswerAll (s : State) (k st n : Nat) : (shellOf (sprintAnswerAll s k st) n).job = (shellOf s n).job := by
  unfold sprintAnswerAll
  rw [shellOf_of_sprintPut]
  exact job_foldl (fun _ _ => job_sprintAnswer) _ s

theorem job_sprintJobEnded (s : State) (slot cid n : Nat) : (shellOf (sprintJobEnded s slot cid) n).job = (shellOf s n).job := by
  refine job_foldl (fun s k => ?_) _ s
  rw [shellOf_of_sprintPut, job_sprintAnswerAll]

/-- When every logical seat of a shell has ended, its job holds its release. -/
theorem job_seatEnded (hj : (shellOf s n).job = some j) (hall : ∀ k < shellSeats (shellOf s n), k ∈ sAdd j.ended l) :
    (shellOf (seatEnded s n l hint sm) n).job = some { j with
      ended := sAdd j.ended l, abandon := j.abandon || hint == 1, summary := j.summary ||| sm, phase := .holding, tbEnd := s.tb,
      runNs := j.runNs + (s.tb - j.tbSpan), tbSpan := s.tb } := by
  have hevery : ((List.range (shellSeats (shellOf s n))).all fun k => (sAdd j.ended l).contains k) = true := by
    simpa using hall
  unfold seatEnded
  dsimp only
  rw [hj]
  dsimp only
  rw [hevery]
  simp [job_sprintJobEnded]

/-- Settles O29: CATCH by its descriptor and the latch at the next catch number, a seat's end by whether it has drained, a job's
by its last seat. -/
theorem catchAndEnd : Obligations.CatchAndEnd := by
  refine ⟨fun s0 s i c rs1 hc h => ⟨fun hbad => ?_, fun hok hlatch => ?_, fun hok hlatch => ?_, fun hhint => ?_⟩,
    fun s i hint hwait => ?_, fun s n l hint sm j hj hall => ?_⟩
  · rw [exec_catch_ready h hc, if_pos hbad]
  · rw [exec_catch_ready h hc, if_neg (ne_false_of_eq_true hok), if_pos hlatch]
    rfl
  · obtain ⟨u, hexec, hcontrol, hclean⟩ := exec_catch_of_latched h hc hok hlatch
    exact ⟨u, hexec, congrArg Control.wait hcontrol, congrArg Control.reached hcontrol, congrArg Control.catchDesc hcontrol,
      congrArg Control.catchCount hcontrol, congrArg Control.pc hcontrol, hclean⟩
  · obtain ⟨t, hexec, hcontrol, hclean⟩ := exec_seatEnd_of_hint h hc hhint
    exact ⟨t, hexec, congrArg Control.wait hcontrol, congrArg Control.pc hcontrol, hclean⟩
  · refine ⟨exec_seatEndDrained_of_not_drained hwait, fun hdrain => ⟨seatPut s i.val (seatAtEnd s (seatOf s i.val)), rfl, ?_⟩⟩
    rw [seatOf_seatPut_self]
    exact ⟨rfl, rfl, rfl, rfl, rfl, rfl, rfl, fun _ => exec_seatEndDrained_of_shell hwait hdrain,
      exec_seatEndDrained_of_lent hwait hdrain⟩
  · refine ⟨_, job_seatEnded hj hall, rfl, rfl, rfl, fun hhint => ?_⟩
    simp [hhint]

end Sys2Proof
end

section
/-! O17, O18, O59: the word that an accumulator reaches (03 R96, R97, R98). Started from a cleared word, with finite terms that meet
the bound of R98, an accumulator holds at every point `accWord k n`: the special word of the joined kinds of its terms, or the
word of the sum of its units when they are all finite. Both are free of the order of the terms, and so is the word. -/
namespace Sys2Proof
open Sys2Proof.Machine

/-! ### Special words -/

theorem wSpecial_specialWord (hk : k ≤ 4) : wSpecial (specialWord k) = true := by
  unfold wSpecial specialWord
  rw [decide_eq_true_eq]
  omega

theorem wKind_specialWord (hk : 1 ≤ k ∧ k ≤ 4) : wKind (specialWord k) = k := by
  have hvalue : specialWord k % 2 ^ 112 = k := by
    unfold specialWord
    omega
  rw [wKind, if_pos (wSpecial_specialWord hk.2), hvalue]
  exact if_pos hk

theorem wKind_of_finite (hw : wSpecial w = false) : wKind w = 0 := by
  simp [wKind, hw]

theorem termOf_specialWord (hk : 1 ≤ k ∧ k ≤ 4) : termOf (specialWord k) = .special k := by
  simp [termOf, wSpecial_specialWord hk.2, wKind_specialWord hk]

theorem termOf_of_finite (hw : wSpecial w = false) : termOf w = .units (wInt w) := by
  simp [termOf, hw]

/-! ### The word of an integer (R94), and the integers that keep out of the band (R96) -/

/-- The 128-bit two's-complement word of an integer. -/
def fretWord (n : Int) : Nat := (n % 2 ^ 128).toNat

/-- An integer whose word is neither in the reserved band nor past the range of a word. -/
def ClearOfBand (n : Int) : Prop := n.natAbs < 2 ^ 127 - 2 ^ 112

theorem ClearOfBand.wSpecial_fretWord (h : ClearOfBand n) : wSpecial (fretWord n) = false := by
  unfold ClearOfBand at h
  unfold wSpecial fretWord
  rw [decide_eq_false_iff_not]
  omega

theorem ClearOfBand.wInt_fretWord (h : ClearOfBand n) : wInt (fretWord n) = n := by
  unfold ClearOfBand at h
  simp only [wInt, fretWord, bitOf, Nat.testBit_eq_decide_div_mod_eq, decide_eq_true_eq]
  split <;> omega

/-! ### Adding a term (R96, R97) -/

theorem fretAdd_units_of_finite (hw : wSpecial w = false) (q : Int) :
    fretAdd w (.units q) = if fretWord (wInt w + q) / 2 ^ 112 = 0x8000 then wRange else fretWord (wInt w + q) := by
  rw [fretAdd, if_neg (ne_true_of_eq_false hw)]
  rfl

theorem fretAdd_units_of_special (hw : wSpecial w = true) (q : Int) : fretAdd w (.units q) = w := by
  simp [fretAdd, hw]

theorem fretAdd_special_of_finite (hw : wSpecial w = false) (k : Nat) :
    fretAdd w (.special k) = specialWord (joinKind 0 k) := by
  simp [fretAdd, wKind_of_finite hw]

theorem fretAdd_special_specialWord (hj : 1 ≤ j ∧ j ≤ 4) (k : Nat) :
    fretAdd (specialWord j) (.special k) = specialWord (joinKind j k) := by
  simp [fretAdd, wKind_specialWord hj]

theorem fretAdd_units_fretWord (hn : ClearOfBand n) (hnq : ClearOfBand (n + q)) :
    fretAdd (fretWord n) (.units q) = fretWord (n + q) := by
  have hclear : ¬ fretWord (n + q) / 2 ^ 112 = 0x8000 := of_decide_eq_false hnq.wSpecial_fretWord
  rw [fretAdd_units_of_finite hn.wSpecial_fretWord, hn.wInt_fretWord, if_neg hclear]

/-! ### Joining kinds (Table Frets-5) -/

theorem joinKind_comm (a b : Nat) : joinKind a b = joinKind b a := by
  unfold joinKind
  grind

theorem joinKind_assoc : ∀ a b c : Fin 5, joinKind (joinKind a b) c = joinKind a (joinKind b c) := by
  decide

theorem joinKind_zero_left (hk : k ≤ 4) : joinKind 0 k = k := by
  unfold joinKind
  grind

theorem joinKind_le (a b : Nat) : joinKind a b ≤ 4 := by
  unfold joinKind
  grind

theorem one_le_joinKind (ha : 1 ≤ a ∧ a ≤ 4) (b : Nat) : 1 ≤ joinKind a b := by
  unfold joinKind
  grind

/-- The kind that special words join to, by which of +INF, −INF, NaN and RANGE are among them. -/
def kindOfArrived (infP infN nan range : Bool) : Nat :=
  if nan || (infP && infN) then 3
  else if infP then 1
  else if infN then 2
  else if range then 4
  else 0

/-- Joining kinds joins the special words behind them: the table is a union of what arrived. -/
theorem joinKind_kindOfArrived : ∀ infP infN nan range infP' infN' nan' range' : Bool,
    joinKind (kindOfArrived infP infN nan range) (kindOfArrived infP' infN' nan' range') =
      kindOfArrived (infP || infP') (infN || infN') (nan || nan') (range || range') := by
  decide

theorem kindOfArrived_le : ∀ infP infN nan range : Bool, kindOfArrived infP infN nan range ≤ 4 := by
  decide

theorem kindOfArrived_eq_zero : ∀ infP infN nan range : Bool, kindOfArrived infP infN nan range = 0 →
    infP = false ∧ infN = false ∧ nan = false ∧ range = false := by
  decide

/-- The kind that a list of terms joins to, by the special words that stand in it. -/
def joinedKind (ts : List Term) : Nat :=
  kindOfArrived (decide (.special 1 ∈ ts)) (decide (.special 2 ∈ ts)) (decide (.special 3 ∈ ts)) (decide (.special 4 ∈ ts))

/-- The kind of a term, 0 for a finite one. -/
def termKind : Term → Nat
  | .units _ => 0
  | .special k => k

theorem joinedKind_congr {ts us : List Term} (h : ∀ k, Term.special k ∈ ts ↔ Term.special k ∈ us) :
    joinedKind ts = joinedKind us := by
  simp only [joinedKind, h]

theorem joinedKind_singleton {t : Term} (ht : ∀ k, t = .special k → 1 ≤ k ∧ k ≤ 4) : joinedKind [t] = termKind t := by
  cases t with
  | units q => simp [joinedKind, kindOfArrived, termKind]
  | special k =>
    obtain rfl | rfl | rfl | rfl : k = 1 ∨ k = 2 ∨ k = 3 ∨ k = 4 := by
      have hk := ht k rfl
      omega
    all_goals rfl

theorem joinedKind_append (ts us : List Term) : joinedKind (ts ++ us) = joinKind (joinedKind ts) (joinedKind us) := by
  simp only [joinedKind, joinKind_kindOfArrived, List.mem_append, Bool.decide_or]

theorem joinedKind_le (ts : List Term) : joinedKind ts ≤ 4 := kindOfArrived_le _ _ _ _

theorem joinedKind_ne_zero {ts : List Term} (hmem : Term.special k ∈ ts) (hk : 1 ≤ k ∧ k ≤ 4) : joinedKind ts ≠ 0 := by
  intro hzero
  obtain ⟨hinfP, hinfN, hnan, hrange⟩ := kindOfArrived_eq_zero _ _ _ _ hzero
  obtain rfl | rfl | rfl | rfl : k = 1 ∨ k = 2 ∨ k = 3 ∨ k = 4 := by omega
  · exact of_decide_eq_false hinfP hmem
  · exact of_decide_eq_false hinfN hmem
  · exact of_decide_eq_false hnan hmem
  · exact of_decide_eq_false hrange hmem

theorem joinedKind_units (qs : List Int) : joinedKind (qs.map .units) = 0 := by
  simp [joinedKind, kindOfArrived]

/-! ### The bound of R98 -/

/-- The sum of |q| is below the bound of R98. -/
def MeetsBound (qs : List Int) : Prop := (qs.map Int.natAbs).sum < 2 ^ 127 - 2 ^ 112

theorem natAbs_sum_le (qs : List Int) : qs.sum.natAbs ≤ (qs.map Int.natAbs).sum :=
  qs.le_sum_of_subadditive Int.natAbs le_rfl Int.natAbs_add_le

theorem MeetsBound.clearOfBand_sum {qs : List Int} (h : MeetsBound qs) : ClearOfBand qs.sum :=
  (natAbs_sum_le qs).trans_lt h

theorem MeetsBound.sublist {ps qs : List Int} (h : MeetsBound qs) (hsub : ps.Sublist qs) : MeetsBound ps :=
  ((hsub.map Int.natAbs).sum_le_sum fun _ _ => Nat.zero_le _).trans_lt h

theorem MeetsBound.perm {ps qs : List Int} (h : MeetsBound qs) (hperm : ps.Perm qs) : MeetsBound ps :=
  (hperm.map Int.natAbs).sum_eq.trans_lt h

/-- The sums of groups meet the bound that the grouped terms meet. -/
theorem MeetsBound.sums {gs : List (List Int)} (h : MeetsBound gs.flatten) : MeetsBound (gs.map List.sum) := by
  refine lt_of_le_of_lt ?_ h
  rw [List.map_flatten, List.sum_flatten, List.map_map, List.map_map]
  exact List.sum_le_sum fun g _ => natAbs_sum_le g

/-! ### The word an accumulator reaches -/

/-- The word of an accumulator that has received terms of joined kind `k` and, among them, `n` units in sum. -/
def accWord (k : Nat) (n : Int) : Nat := if k = 0 then fretWord n else specialWord k

/-- The units of a term, 0 for a special one. -/
def termUnits : Term → Int
  | .units q => q
  | .special _ => 0

/-- The magnitude of a term's units, as the statements write it. -/
def termMagnitude : Term → Nat
  | .units q => q.natAbs
  | .special _ => 0

theorem natAbs_termUnits (t : Term) : (termUnits t).natAbs = termMagnitude t := by
  cases t <;> rfl

theorem meetsBound_of_magnitudes {ts : List Term} (h : (ts.map termMagnitude).sum < 2 ^ 127 - 2 ^ 112) :
    MeetsBound (ts.map termUnits) := by
  simpa only [MeetsBound, List.map_map, Function.comp_def, natAbs_termUnits] using h

/-- One more term: the kinds join and the units add. -/
theorem fretAdd_accWord {t : Term} (hk : k ≤ 4) (ht : ∀ j, t = .special j → 1 ≤ j ∧ j ≤ 4) (hn : ClearOfBand n)
    (hsum : ClearOfBand (n + termUnits t)) : fretAdd (accWord k n) t = accWord (joinKind k (termKind t)) (n + termUnits t) := by
  have hjoin0 : joinKind k 0 = k := by rw [joinKind_comm, joinKind_zero_left hk]
  obtain rfl | hpos : k = 0 ∨ 1 ≤ k := by omega
  · cases t with
    | units q => simpa [accWord, termKind, termUnits, hjoin0] using fretAdd_units_fretWord hn hsum
    | special j =>
      have hj := ht j rfl
      have hj0 : j ≠ 0 := by omega
      simp [accWord, termKind, joinKind_zero_left hj.2, hj0, fretAdd_special_of_finite hn.wSpecial_fretWord]
  · have hk0 : k ≠ 0 := by omega
    cases t with
    | units q => simp [accWord, termKind, hjoin0, hk0, fretAdd_units_of_special (wSpecial_specialWord hk)]
    | special j =>
      have hjoin : joinKind k j ≠ 0 := Nat.one_le_iff_ne_zero.mp (one_le_joinKind ⟨hpos, hk⟩ j)
      simp [accWord, termKind, hk0, hjoin, fretAdd_special_specialWord ⟨hpos, hk⟩]

/-- R97 and R98 in one: the word reached by the joined kind and the sum of the units. -/
theorem foldl_fretAdd_zero {ts : List Term} (hlisted : ∀ k, Term.special k ∈ ts → 1 ≤ k ∧ k ≤ 4)
    (hbound : MeetsBound (ts.map termUnits)) :
    ts.foldl fretAdd 0 = accWord (joinedKind ts) (ts.map termUnits).sum := by
  induction ts using List.reverseRecOn with
  | nil => rfl
  | append_singleton ts t ih =>
    have hbefore : MeetsBound (ts.map termUnits) := hbound.sublist ((List.sublist_append_left ts [t]).map _)
    have hsum : ((ts ++ [t]).map termUnits).sum = (ts.map termUnits).sum + termUnits t := by simp
    have hafter := hbound.clearOfBand_sum
    rw [hsum] at hafter
    rw [List.foldl_concat, ih (fun k hk => hlisted k (by simp [hk])) hbefore, hsum, joinedKind_append,
      joinedKind_singleton fun j hj => hlisted j (by simp [hj])]
    exact fretAdd_accWord (joinedKind_le ts) (fun j hj => hlisted j (by simp [hj])) hbefore.clearOfBand_sum hafter

/-! ### Sums of products, and of the words of groups (R98) -/

/-- The word that products reach from a cleared one. -/
def productsWord (qs : List Int) : Nat := qs.foldl (fun w q => fretAdd w (.units q)) 0

/-- The word that the words of groups of products reach when they are merged into a cleared one. -/
def groupsWord (gs : List (List Int)) : Nat := gs.foldl (fun w g => fretAdd w (termOf (productsWord g))) 0

theorem productsWord_eq {qs : List Int} (h : MeetsBound qs) : productsWord qs = fretWord qs.sum := by
  have hunits : (qs.map Term.units).map termUnits = qs := by
    rw [List.map_map]
    exact List.map_id qs
  have hfold := foldl_fretAdd_zero (ts := qs.map .units) (by simp) (by rwa [hunits])
  rw [hunits, joinedKind_units, List.foldl_map] at hfold
  exact hfold

theorem productsWord_exact {qs : List Int} (h : MeetsBound qs) :
    wSpecial (productsWord qs) = false ∧ wInt (productsWord qs) = qs.sum := by
  rw [productsWord_eq h]
  exact ⟨h.clearOfBand_sum.wSpecial_fretWord, h.clearOfBand_sum.wInt_fretWord⟩

/-- The word of a group stands for the group's sum. -/
theorem termOf_productsWord {qs : List Int} (h : MeetsBound qs) : termOf (productsWord qs) = .units qs.sum := by
  obtain ⟨hfinite, hsum⟩ := productsWord_exact h
  rw [termOf_of_finite hfinite, hsum]

/-- Merging the words of groups adds their sums as if each were one product. -/
theorem groupsWord_eq {gs : List (List Int)} (h : MeetsBound gs.flatten) : groupsWord gs = productsWord (gs.map List.sum) := by
  have hgroup : ∀ g ∈ gs, termOf (productsWord g) = .units g.sum := fun g hg =>
    termOf_productsWord (h.sublist (List.sublist_flatten_of_mem hg))
  rw [productsWord, List.foldl_map]
  exact List.foldl_ext _ _ _ fun w g hg => by rw [hgroup g hg]

theorem groupsWord_exact {gs : List (List Int)} (h : MeetsBound gs.flatten) :
    wSpecial (groupsWord gs) = false ∧ wInt (groupsWord gs) = gs.flatten.sum := by
  rw [groupsWord_eq h, List.sum_flatten]
  exact productsWord_exact h.sums

/-- Settles O17: products, and the words of their groups, reach the word of their sum, and so do the first of them at every point. -/
theorem fretSumsAreExact : Obligations.FretSumsAreExact := by
  intro gs hbound
  replace hbound : MeetsBound gs.flatten := hbound
  refine ⟨fun qs hperm => ?_, fun hs hperm => ?_⟩
  · have hqs : MeetsBound qs := hbound.perm hperm
    exact ⟨fun pre hpre => (productsWord_exact (hqs.sublist hpre.sublist)).1,
      (productsWord_exact hqs).2.trans hperm.sum_eq⟩
  · have hhs : MeetsBound hs.flatten := hbound.perm hperm.flatten
    exact ⟨fun pre hpre => (groupsWord_exact (hhs.sublist hpre.sublist.flatten)).1,
      (groupsWord_exact hhs).2.trans hperm.flatten.sum_eq⟩

/-- Settles O18: the joined kind and the sum of the units of a list of terms do not change when it is permuted. -/
theorem fretOrderIsFree : Obligations.FretOrderIsFree := by
  refine ⟨fun ts us hperm hlisted hbound => ?_, fun a b c =>
    ⟨joinKind_comm _ _, joinKind_assoc _ _ _, ?_⟩, rfl, rfl, rfl, rfl, rfl, rfl, rfl, rfl, rfl, rfl⟩
  · have hts : MeetsBound (ts.map termUnits) := meetsBound_of_magnitudes hbound
    have hunits := hperm.map termUnits
    rw [foldl_fretAdd_zero (fun k hk => hlisted _ hk k rfl) hts,
      foldl_fretAdd_zero (fun k hk => hlisted _ (hperm.mem_iff.mpr hk) k rfl) (hts.perm hunits.symm),
      joinedKind_congr fun k => hperm.mem_iff, hunits.sum_eq]
  · rw [joinKind_comm, joinKind_zero_left (Nat.le_of_lt_succ a.isLt)]

/-! ### Joining words (R97) -/

theorem fretAdd_specialWord_specialWord (hj : 1 ≤ j ∧ j ≤ 4) (hk : 1 ≤ k ∧ k ≤ 4) :
    fretAdd (specialWord j) (termOf (specialWord k)) = specialWord (joinKind j k) := by
  rw [termOf_specialWord hk, fretAdd_special_specialWord hj]

theorem fretAdd_finite_specialWord (hw : wSpecial w = false) (hk : 1 ≤ k ∧ k ≤ 4) :
    fretAdd w (termOf (specialWord k)) = specialWord k := by
  rw [termOf_specialWord hk, fretAdd_special_of_finite hw, joinKind_zero_left hk.2]

theorem fretAdd_specialWord_finite (hw : wSpecial w = false) (hk : k ≤ 4) :
    fretAdd (specialWord k) (termOf w) = specialWord k := by
  rw [termOf_of_finite hw, fretAdd_units_of_special (wSpecial_specialWord hk)]

/-- Once a special word has arrived, the finite terms no longer tell. -/
theorem foldl_fretAdd_of_special {ts : List Term} (hspecial : ∃ k, Term.special k ∈ ts)
    (hlisted : ∀ k, Term.special k ∈ ts → 1 ≤ k ∧ k ≤ 4) (hbound : MeetsBound (ts.map termUnits)) :
    ts.foldl fretAdd 0 = specialWord (joinedKind ts) := by
  obtain ⟨k, hk⟩ := hspecial
  rw [foldl_fretAdd_zero hlisted hbound, accWord, if_neg (joinedKind_ne_zero hk (hlisted k hk))]

theorem listed_of_ne_zero (k : Fin 5) (hk : k.val ≠ 0) : 1 ≤ k.val ∧ k.val ≤ 4 := by omega

/-- Settles O59: two words by which of them is special, special words by joining their kinds, and lists by their joined kind. -/
theorem specialWordsJoin : Obligations.SpecialWordsJoin := by
  refine ⟨fun w q hw hq => ?_, fun w k hw hk => ?_, ?_, fun j k l hj hk hl => ?_, fun ts us hsame hspecial hlisted hts hus => ?_⟩
  · rw [termOf_of_finite hq, fretAdd_units_of_finite hw]
    rfl
  · have hk := listed_of_ne_zero k hk
    exact ⟨fretAdd_finite_specialWord hw hk, fretAdd_specialWord_finite hw hk.2⟩
  · simp [fretAdd_specialWord_specialWord, joinKind]
  · have hj := listed_of_ne_zero j hj
    have hk := listed_of_ne_zero k hk
    have hl := listed_of_ne_zero l hl
    have hjk : 1 ≤ joinKind j k ∧ joinKind j k ≤ 4 := ⟨one_le_joinKind hj _, joinKind_le _ _⟩
    have hkl : 1 ≤ joinKind k l ∧ joinKind k l ≤ 4 := ⟨one_le_joinKind hk _, joinKind_le _ _⟩
    dsimp only
    rw [fretAdd_specialWord_specialWord hj hk, fretAdd_specialWord_specialWord hk hj, fretAdd_specialWord_specialWord hk hl,
      fretAdd_specialWord_specialWord hjk hl, fretAdd_specialWord_specialWord hj hkl]
    exact ⟨congrArg _ (joinKind_comm _ _), congrArg _ (joinKind_assoc _ _ _)⟩
  · have hword := foldl_fretAdd_of_special hspecial hlisted (meetsBound_of_magnitudes hts)
    have hword' := foldl_fretAdd_of_special (hspecial.imp fun k => (hsame k).mp)
      (fun k hk => hlisted k ((hsame k).mpr hk)) (meetsBound_of_magnitudes hus)
    rw [hword, hword', joinedKind_congr hsame]
    exact ⟨rfl, wSpecial_specialWord (joinedKind_le us)⟩

end Sys2Proof
end

section
/-! O20: what an MMA and a CMP leave in the accumulators (04 R118, R125, R157). Both go over the active cells of one tile, and a
step at a cell changes the word of that cell alone (`CellStep`), so that a cell's word is read off its own step. -/
namespace Sys2Proof
open Sys2Proof.Machine

/-! ### Reading words and tile status words -/

section
variable (a : Arr) (t u i k w v : Nat)

theorem arrWord_arrWordPut (hi : i < 1024) (hk : k < 1024) :
    arrWord (arrWordPut a t i w) u k = if u = t ∧ k = i then w else arrWord a u k := by
  have hkey : u * 1024 + k = t * 1024 + i ↔ u = t ∧ k = i := by omega
  exact (tget_tset _ _ _ _ _).trans (if_congr hkey rfl rfl)

@[simp] theorem arrWord_guardPut (g : Guard) : arrWord (guardPut a t i g) u k = arrWord a u k := rfl
@[simp] theorem arrWord_tileFlag : arrWord (tileFlag a t v) u k = arrWord a u k := rfl
@[simp] theorem tileStatus_guardPut (g : Guard) : tileStatus (guardPut a t i g) u = tileStatus a u := rfl
@[simp] theorem tileStatus_arrWordPut : tileStatus (arrWordPut a t i w) u = tileStatus a u := rfl

variable {t u}

theorem tileStatus_tileFlag_ne (h : u ≠ t) : tileStatus (tileFlag a t v) u = tileStatus a u := tget_tset_ne _ _ _ _ _ h

end

/-! ### CLEAR (03 R100, 04 R125) -/

theorem tfind_filter_of_key {α : Type} (l : Tbl α) (p : Nat → Bool) (k : Nat) :
    tfind (l.filter (fun e => p e.1)) k = if p k then tfind l k else none := by
  induction l with
  | nil => simp [tfind]
  | cons e l ih =>
    by_cases hk : e.1 = k
    · subst hk
      cases hp : p e.1 <;> simp [tfind, hp, ih]
    · cases hp : p e.1 <;> simp [tfind, hp, hk, ih]

section
variable (a : Arr) (d t k : Nat)

theorem arrWord_tileClear (hk : k < 1024) :
    arrWord (tileClear a d) t k = if t = dTile d then 0 else arrWord a t k := by
  have htile : (t * 1024 + k) / 1024 = t := by omega
  unfold arrWord tileClear tget
  dsimp only
  rw [tfind_filter_of_key _ (fun x => x / 1024 != dTile d), htile]
  by_cases ht : t = dTile d <;> simp [ht]

theorem tileStatus_tileClear_self :
    tileStatus (tileClear a d) (dTile d) = dBaseRaw d * 2 ^ 16 + (if dFret d then 0x80 else 0) := tget_tset_self _ _ _ _

variable {t}

theorem tileStatus_tileClear_ne (ht : t ≠ dTile d) : tileStatus (tileClear a d) t = tileStatus a t := tget_tset_ne _ _ _ _ _ ht

end

/-! ### Going over the active cells of a tile -/

/-- A step at each active cell of a tile, row by row in ascending column. -/
def eachCell (rows cols : Nat) (step : Arr → Nat → Nat → Arr) (a : Arr) : Arr :=
  (List.range rows).foldl (fun a i => (List.range cols).foldl (fun a j => step a i j) a) a

/-- A step at cell (i, j) of tile `t` that makes the word `w` of that cell `value i j w`, and leaves every other word and the status
words of the other tiles. -/
structure CellStep (t : Nat) (step : Arr → Nat → Nat → Arr) (value : Nat → Nat → Nat → Nat) : Prop where
  word : ∀ a i j u k, i < 16 → j < 64 → k < 1024 →
    arrWord (step a i j) u k = if u = t ∧ k = 64 * i + j then value i j (arrWord a u k) else arrWord a u k
  status : ∀ a i j u, u ≠ t → tileStatus (step a i j) u = tileStatus a u

/-- What every step at an active cell keeps, going over them keeps. -/
theorem eachCell_keeps {rows cols : Nat} {step : Arr → Nat → Nat → Arr} {P : Arr → Prop}
    (hstep : ∀ a i j, i < rows → j < cols → P a → P (step a i j)) {a : Arr} (ha : P a) : P (eachCell rows cols step a) :=
  List.foldlRecOn _ _ ha fun _ ha i hi =>
    List.foldlRecOn _ _ ha fun a ha j hj => hstep a i j (List.mem_range.mp hi) (List.mem_range.mp hj) ha

namespace CellStep
variable {t rows cols : Nat} {step : Arr → Nat → Nat → Arr} {value : Nat → Nat → Nat → Nat}

theorem word_ne (h : CellStep t step value) (hrows : rows ≤ 16) (hcols : cols ≤ 64) (a : Arr) {u k : Nat} (hu : u ≠ t) (hk : k < 1024) :
    arrWord (eachCell rows cols step a) u k = arrWord a u k :=
  eachCell_keeps (P := fun b => arrWord b u k = arrWord a u k)
    (fun b i j hi hj hb => by rw [h.word b i j u k (by omega) (by omega) hk, if_neg (fun e => hu e.1), hb]) rfl

theorem status_ne (h : CellStep t step value) (a : Arr) {u : Nat} (hu : u ≠ t) :
    tileStatus (eachCell rows cols step a) u = tileStatus a u :=
  eachCell_keeps (P := fun b => tileStatus b u = tileStatus a u) (fun b i j _ _ hb => (h.status b i j u hu).trans hb) rfl

/-- The words of a tile after the steps of row `i`. -/
theorem word_row (h : CellStep t step value) (hcols : cols ≤ 64) (a : Arr) {i i' j : Nat} (hi : i < 16) (hi' : i' < 16) (hj : j < 64) :
    arrWord ((List.range cols).foldl (fun a j => step a i j) a) t (64 * i' + j) =
      if i' = i ∧ j < cols then value i j (arrWord a t (64 * i' + j)) else arrWord a t (64 * i' + j) := by
  induction cols with
  | zero => simp
  | succ n ih =>
    have hcell : 64 * i' + j = 64 * i + n ↔ i' = i ∧ j = n := by omega
    rw [List.range_succ, List.foldl_append, List.foldl_cons, List.foldl_nil, h.word _ i n t _ hi (by omega) (by omega),
      ih (by omega)]
    by_cases hlast : i' = i ∧ j = n
    · obtain ⟨rfl, rfl⟩ := hlast
      simp
    · have hbefore : i' = i ∧ j < n + 1 ↔ i' = i ∧ j < n := by omega
      simp only [true_and, hcell, hlast, hbefore, if_false]

/-- The word of each cell after the steps of all the active ones: its own step's value of the word it held. -/
theorem word_eachCell (h : CellStep t step value) (hrows : rows ≤ 16) (hcols : cols ≤ 64) (a : Arr) {i j : Nat} (hi : i < 16) (hj : j < 64) :
    arrWord (eachCell rows cols step a) t (64 * i + j) =
      if i < rows ∧ j < cols then value i j (arrWord a t (64 * i + j)) else arrWord a t (64 * i + j) := by
  unfold eachCell
  induction rows with
  | zero => simp
  | succ m ih =>
    rw [List.range_succ, List.foldl_append, List.foldl_cons, List.foldl_nil, h.word_row hcols _ (by omega) hi hj, ih (by omega)]
    by_cases hlast : i = m
    · subst hlast
      simp
    · have hbefore : i < m + 1 ↔ i < m := by omega
      simp only [hlast, hbefore, false_and, if_false]

end CellStep

theorem dM_le (d : Nat) : dM d ≤ 16 := by unfold dM bitsOf; omega

theorem dN_le (d : Nat) : dN d ≤ 64 := by unfold dN bitsOf; omega

/-! ### MMA -/

/-- The word of a cell after its products, by the mode of the op (03 R96, R110). -/
def mmaWord (d : Nat) (w : Nat) (ps : List (FV × FV)) : Nat :=
  if dFret d then ps.foldl (fun w p => fretAdd w (fretProduct p.1 p.2 (s16 (dBaseRaw d))).1) w
  else ps.foldl (fun w p => fp32AddProd w p.1 p.2) w

theorem foldl_cellFret_w (f : Int) (ps : List (FV × FV)) (c : CellAcc) :
    (ps.foldl (cellFret f) c).w = ps.foldl (fun w p => fretAdd w (fretProduct p.1 p.2 f).1) c.w :=
  (List.foldl_hom CellAcc.w fun _ _ => rfl).symm

theorem foldl_cellFp_w (ps : List (FV × FV)) (c : CellAcc) :
    (ps.foldl cellFp c).w = ps.foldl (fun w p => fp32AddProd w p.1 p.2) c.w :=
  (List.foldl_hom CellAcc.w fun _ _ => rfl).symm

/-- The rows of A and the columns of B that an MMA multiplies. -/
def mmaRowA (s : State) (n d i : Nat) : List FV := operandRow s n (dOffA d) (dFmtA d) (dM d) (dK d) i
def mmaColB (s : State) (n d j : Nat) : List FV := operandRow s n (dOffB d) (dFmtB d) (dN d) (dK d) j

/-- The step of an MMA at a cell, the columns of B taken from their list. -/
def mmaStep (s : State) (n d : Nat) (a : Arr) (i j : Nat) : Arr :=
  mmaCell d (dTile d) i (mmaRowA s n d i) a j (((List.range (dN d)).map (mmaColB s n d)).getD j [])

theorem mmaRun_eq_eachCell (s : State) (n d : Nat) (a : Arr) : mmaRun s n a d = eachCell (dM d) (dN d) (mmaStep s n d) a := rfl

theorem arrWord_mmaCell (d t : Nat) (a : Arr) (row col : List FV) {i j u k : Nat} (hi : i < 16) (hj : j < 64) (hk : k < 1024) :
    arrWord (mmaCell d t i row a j col) u k =
      if u = t ∧ k = 64 * i + j then mmaWord d (arrWord a u k) (cellPairs (dFmtA d) row col) else arrWord a u k := by
  unfold mmaCell
  dsimp only
  rw [apply_ite (arrWord · u k), arrWord_tileFlag, ite_self, arrWord_guardPut, arrWord_arrWordPut _ _ _ _ _ _ (by omega) hk]
  refine ite_congr rfl (fun hcell => ?_) fun _ => rfl
  rw [apply_ite CellAcc.w, foldl_cellFret_w, foldl_cellFp_w, ← hcell.1, ← hcell.2]
  rfl

theorem tileStatus_mmaCell_ne (d t i j : Nat) (a : Arr) (row col : List FV) {u : Nat} (hu : u ≠ t) :
    tileStatus (mmaCell d t i row a j col) u = tileStatus a u := by
  unfold mmaCell
  dsimp only
  rw [apply_ite (tileStatus · u), tileStatus_tileFlag_ne _ _ hu, ite_self, tileStatus_guardPut, tileStatus_arrWordPut]

theorem cellStep_mma (s : State) (n d : Nat) : CellStep (dTile d) (mmaStep s n d) fun i j w =>
    mmaWord d w (cellPairs (dFmtA d) (mmaRowA s n d i) (((List.range (dN d)).map (mmaColB s n d)).getD j [])) where
  word a _ _ _ _ hi hj hk := arrWord_mmaCell d (dTile d) a _ _ hi hj hk
  status a i j _ hu := tileStatus_mmaCell_ne d (dTile d) i j a _ _ hu

/-- An MMA in either mode: the products of a cell's row of A and column of B join its word in ascending k. -/
theorem arrWord_mmaRun (s : State) (n d : Nat) (a : Arr) {i j : Nat} (hi : i < 16) (hj : j < 64) :
    arrWord (mmaRun s n a d) (dTile d) (64 * i + j) =
      if i < dM d ∧ j < dN d then mmaWord d (arrWord a (dTile d) (64 * i + j)) (cellPairs (dFmtA d) (mmaRowA s n d i) (mmaColB s n d j))
      else arrWord a (dTile d) (64 * i + j) := by
  rw [mmaRun_eq_eachCell, (cellStep_mma s n d).word_eachCell (dM_le d) (dN_le d) a hi hj]
  refine ite_congr rfl (fun hactive => ?_) fun _ => rfl
  rw [List.getD_eq_getElem _ _ (by simpa using hactive.2), List.getElem_map, List.getElem_range]

/-! ### CMP -/

/-- Level `l` of cell (i, j): the entry of the bank, and the row of A in which its element stands. -/
def cmpEntry (a : Arr) (d j l : Nat) : Nat := (tget (fun _ => {}) a.banks (dOffB d % 4)).entries.getD (64 * (dOffB d / 4 + l) + j) 0
def cmpRowA (s : State) (n d i : Nat) : Bytes := scratchRead s n (32 * dOffA d + 256 * i) 256

/-- The word of a cell after its levels (log 81). -/
def cmpWord (row : Bytes) (entry : Nat → Nat) (levels w : Nat) : Nat :=
  (List.range levels).foldl (fun w l =>
    fretAdd w (.units (wInt w + (if s8 (row.getD (entry l % 256) 0).toNat > s8 (entry l / 256) then 1 else 0)))) w

theorem foldl_cmpStep_fst (row : Bytes) (entry : Nat → Nat) (levels : Nat) (c : Nat × Nat) :
    ((List.range levels).foldl (fun c l => cmpStep row (entry l) c) c).1 = cmpWord row entry levels c.1 := by
  refine (List.foldl_hom Prod.fst fun c l => ?_).symm
  simp only [cmpStep]
  split <;> rfl

/-- The step of a CMP at a cell, the entries taken from the array `a0` that the op meets. -/
def cmpCellStep (s : State) (n d : Nat) (a0 a : Arr) (i j : Nat) : Arr :=
  let c := (List.range (dK d)).foldl (fun c l => cmpStep (cmpRowA s n d i) (cmpEntry a0 d j l) c) (arrWord a (dTile d) (64 * i + j), 0)
  let g := guardOf a (dTile d) i
  guardPut (arrWordPut a (dTile d) (64 * i + j) c.1) (dTile d) i { g with sum := (g.sum + c.2) % 2 ^ 128 }

theorem cmpRun_eq_eachCell (s : State) (n d : Nat) (a : Arr) : cmpRun s n a d = eachCell (dM d) (dN d) (cmpCellStep s n d a) a := rfl

theorem cellStep_cmp (s : State) (n d : Nat) (a0 : Arr) : CellStep (dTile d) (cmpCellStep s n d a0) fun i j =>
    cmpWord (cmpRowA s n d i) (cmpEntry a0 d j) (dK d) where
  word a i j u k hi hj hk := by
    unfold cmpCellStep
    dsimp only
    rw [arrWord_guardPut, arrWord_arrWordPut _ _ _ _ _ _ (by omega) hk, foldl_cmpStep_fst]
    refine ite_congr rfl (fun hcell => ?_) fun _ => rfl
    rw [← hcell.1, ← hcell.2]
  status _ _ _ _ _ := rfl

theorem arrWord_cmpRun (s : State) (n d : Nat) (a : Arr) {i j : Nat} (hi : i < 16) (hj : j < 64) :
    arrWord (cmpRun s n a d) (dTile d) (64 * i + j) =
      if i < dM d ∧ j < dN d then cmpWord (cmpRowA s n d i) (cmpEntry a d j) (dK d) (arrWord a (dTile d) (64 * i + j))
      else arrWord a (dTile d) (64 * i + j) := by
  rw [cmpRun_eq_eachCell]
  exact (cellStep_cmp s n d a).word_eachCell (dM_le d) (dN_le d) a hi hj

/-- The addition of one level doubles a finite word and takes in the answer, as long as it keeps out of the reserved band. -/
theorem fretAdd_double {w b : Nat} (hw : wSpecial w = false) (hclear : ClearOfBand (2 * wInt w + b)) :
    fretAdd w (.units (wInt w + b)) = (2 * w + b) % 2 ^ 128 := by
  have hsum : wInt w + (wInt w + b) = 2 * wInt w + b := by omega
  have hword : fretWord (2 * wInt w + b) = (2 * w + b) % 2 ^ 128 := by
    unfold fretWord wInt
    split <;> omega
  have hband : ¬ fretWord (2 * wInt w + b) / 2 ^ 112 = 0x8000 := of_decide_eq_false hclear.wSpecial_fretWord
  rw [fretAdd_units_of_finite hw, hsum, if_neg hband, hword]

/-- Settles O20: the active cells by the steps of MMA and CMP, a level of CMP by `fretAdd_double`, and the other tiles and CLEAR by
what each operation leaves. -/
theorem mmaCells : Obligations.MmaCells := by
  refine fun s n a d _ => ⟨fun hfret i j hi hj => ?_, fun i j hi hj => arrWord_cmpRun s n.val d a hi hj,
    fun w b _ _ => ⟨fun hw hclear => fretAdd_double hw hclear, fun hw _ _ => fretAdd_units_of_special hw _⟩, fun t k ht hk => ⟨?_, ?_, ?_, ?_, ?_, ?_⟩,
    fun k hk => (arrWord_tileClear a d _ k hk).trans (if_pos rfl), tileStatus_tileClear_self a d⟩
  · rw [arrWord_mmaRun s n.val d a hi hj, mmaWord, if_pos hfret]
    rfl
  · exact (cellStep_mma s n.val d).word_ne (dM_le d) (dN_le d) a ht hk
  · exact (cellStep_cmp s n.val d a).word_ne (dM_le d) (dN_le d) a ht hk
  · exact (arrWord_tileClear a d t k hk).trans (if_neg ht)
  · exact (cellStep_mma s n.val d).status_ne a ht
  · exact (cellStep_cmp s n.val d a).status_ne a ht
  · exact tileStatus_tileClear_ne a d ht

end Sys2Proof
end

section
/-! O21: array ops retire, post their result words and set their pegs (04 R140, R151, R152). -/
namespace Sys2Proof
open Sys2Proof.Machine

/-! ### The op at the head of a queue -/

/-- A descriptor of an op's own code, or of no known code, is not left to another op's row. -/
theorem startable_of_row {d op : Nat} (h : dOp d = op ∨ opKnown (dOp d) = false) : ¬(dOp d ≠ op ∧ opKnown (dOp d) = true) :=
  fun hother => h.elim hother.1 (ne_false_of_eq_true hother.2)

section
variable {s : State} {i : Nat} {o : ArrOp} {rest : List ArrOp} {op : Nat} {check : OpCheck}
  (hqueue : (seatOf s i).arr.queue = o :: rest)
  (hfree : (seatOf s i).arr.flight.any (fun f => f.status != 0 || opWaits o.desc f.op.desc) = false)
  (hop : dOp o.desc = op ∨ opKnown (dOp o.desc) = false)
include hqueue hfree hop

/-- A parity error is met at the start of an op, before its descriptor is checked (log 72). -/
theorem opStart_of_parity : opStart op i .parity s = seatSafety s i 8 0x05 none {} := by
  unfold opStart
  dsimp only
  rw [hqueue]
  dsimp only
  rw [if_neg (startable_of_row hop), if_neg (ne_true_of_eq_false hfree), if_pos rfl]

/-- A descriptor that breaks a rule goes in flight with the status of a format error, and does nothing (04 R121). -/
theorem opStart_of_format_error (hbad : opFormatOk s i (seatLevel1 s i) o.desc = false) (hcheck : check ≠ .parity) :
    opStart op i check s = arrPut s i { (seatOf s i).arr with
      queue := rest
      flight := (seatOf s i).arr.flight ++ [{ op := o, origin := (seatOf s i).arr.origin, status := 1 }] } := by
  unfold opStart
  dsimp only
  rw [hqueue]
  dsimp only
  rw [if_neg (startable_of_row hop), if_neg (ne_true_of_eq_false hfree), if_neg hcheck]
  exact if_pos (congrArg not hbad)

end

/-! ### Result words and squashed queues -/

section
variable (a : Arr) (f : Flight) (status : Nat)

/-- The tile status word that an op's result word carries: none for an op on no tile (04 R151). -/
def resultTile : Nat := if dOp f.op.desc = 5 ∨ dOp f.op.desc = 8 ∨ dTile f.op.desc ≥ 12 then 0 else tileStatus a (dTile f.op.desc)

/-- The flags of an op's result word, bits [11:8] (04 R151). -/
def resultFlags : Nat :=
  (if f.guardSkipped then 1 else 0) * 2 ^ 3 + (if f.failed = 2 ∨ f.failed = 3 then 1 else 0) * 2 ^ 2 + (if f.failed = 1 then 1 else 0) * 2
    + (if f.inexact then 1 else 0)

theorem resultFlags_lt : resultFlags f < 2 ^ 4 := by
  unfold resultFlags
  split <;> split <;> split <;> split <;> decide

theorem arrPost_result : (arrPost a f status).result =
    resultTile a f * 2 ^ 32 + f.op.seq % 2 ^ 16 * 2 ^ 16 + resultFlags f * 2 ^ 8 + status := by
  change opResult a f status = _
  unfold opResult pack resultFlags
  simp only [List.foldl_cons, List.foldl_nil]
  change 0 + resultTile a f * 2 ^ 32 + _ + _ + _ + _ + _ + _ = _
  ring

variable {status} (hstatus : status < 256)
include hstatus

theorem arrPost_result_status : (arrPost a f status).result % 256 = status := by
  rw [arrPost_result]
  omega

theorem arrPost_result_seq : bitsOf (arrPost a f status).result 31 16 = f.op.seq % 2 ^ 16 := by
  have hflags := resultFlags_lt f
  rw [arrPost_result, bitsOf, Nat.shiftRight_eq_div_pow]
  omega

theorem arrPost_result_tile : (arrPost a f status).result / 2 ^ 32 = resultTile a f := by
  have hflags := resultFlags_lt f
  rw [arrPost_result]
  omega

end

theorem arrSquash_empty (a : Arr) : (arrSquash a).queue = [] ∧ (arrSquash a).flight = [] ∧ (arrSquash a).stopped = true := by
  unfold arrSquash
  exact List.foldlRecOn (motive := fun b : Arr => b.queue = [] ∧ b.flight = [] ∧ b.stopped = true) _ _ ⟨rfl, rfl, rfl⟩
    fun _ hb _ _ => hb

/-! ### ARR_OP_RETIRE -/

section
variable {s : State} {i : SeatId} {f : Flight} {rest : List Flight}
  (hflight : (seatOf s i.val).arr.flight = f :: rest) (hconv : f.wantsConv = false)
include hflight hconv

/-- The oldest op retires with its result posted: done, with its peg, or not, with the ops behind it squashed. -/
theorem exec_arrOpRetire_of_head : exec (.arrOpRetire i) s =
    let a := arrPost { (seatOf s i.val).arr with flight := rest } f f.status
    if f.status = 0 then
      .next (catchSettle (if dPegEn f.op.desc && dOp f.op.desc != 5 then pegWrite (arrPut s i.val a) i.val (dPeg f.op.desc) true
        else arrPut s i.val a) i.val)
    else .next (if f.status = 1 then seatTrap (arrPut s i.val (arrSquash a)) i.val true 16 (f.op.seq % 2 ^ 16)
      else checkEvent (arrPut s i.val (arrSquash a)) i.val f.failed f.status) := by
  change execArrOpRetire i s = _
  unfold execArrOpRetire
  dsimp only
  rw [hflight]
  dsimp only
  rw [if_neg (ne_true_of_eq_false hconv), hflight]

theorem exec_arrOpRetire_of_done (hstatus : f.status = 0) : exec (.arrOpRetire i) s =
    .next (catchSettle (if dPegEn f.op.desc && dOp f.op.desc != 5
      then pegWrite (arrPut s i.val (arrPost { (seatOf s i.val).arr with flight := rest } f 0)) i.val (dPeg f.op.desc) true
      else arrPut s i.val (arrPost { (seatOf s i.val).arr with flight := rest } f 0)) i.val) := by
  rw [exec_arrOpRetire_of_head hflight hconv, hstatus]
  rfl

theorem exec_arrOpRetire_of_format_error (hstatus : f.status = 1) : exec (.arrOpRetire i) s =
    .next (seatTrap (arrPut s i.val (arrSquash (arrPost { (seatOf s i.val).arr with flight := rest } f 1))) i.val true 16 (f.op.seq % 2 ^ 16)) := by
  rw [exec_arrOpRetire_of_head hflight hconv, hstatus]
  rfl

theorem exec_arrOpRetire_of_check (hstatus : 2 ≤ f.status) : exec (.arrOpRetire i) s =
    .next (checkEvent (arrPut s i.val (arrSquash (arrPost { (seatOf s i.val).arr with flight := rest } f f.status))) i.val f.failed f.status) := by
  rw [exec_arrOpRetire_of_head hflight hconv]
  dsimp only
  rw [if_neg (by omega), if_neg (by omega)]

end

/-- Settles O21: the head of the queue by the two ends of `opStart` before an op runs, the oldest op by its status, and the result
word by its fields. -/
theorem arrayRetire : Obligations.ArrayRetire := by
  refine ⟨fun s i o rest c hqueue hfree hbad hc op hop hcode => ?_, fun s i o rest hqueue hfree op hop hcode => ?_,
    fun s i f rest hflight hconv => ⟨fun hdone hpeg => ?_, fun hdone hpeg horigin => ?_,
      exec_arrOpRetire_of_format_error hflight hconv, exec_arrOpRetire_of_check hflight hconv⟩,
    fun a f st hst => ⟨arrPost_result_status a f hst, arrPost_result_seq a f hst, arrPost_result_tile a f hst⟩, arrSquash_empty⟩
  · have hstart := fun (n : Nat) (check : OpCheck) (hn : dOp o.desc = n ∨ opKnown (dOp o.desc) = false) =>
      opStart_of_format_error (check := check) hqueue hfree hn hbad
    simp only [List.mem_cons, List.not_mem_nil, or_false] at hop
    rcases hop with rfl | rfl | rfl | rfl | rfl | rfl | rfl
    case inr.inr.inr.inr.inl => exact congrArg _ (hstart _ _ hcode (by decide))
    all_goals exact congrArg _ (hstart _ _ hcode hc)
  · have hstart := fun (n : Nat) (hn : dOp o.desc = n) => opStart_of_parity hqueue hfree (.inl hn)
    simp only [List.mem_cons, List.not_mem_nil, or_false] at hop
    rcases hop with rfl | rfl | rfl | rfl | rfl | rfl
    all_goals exact congrArg _ (hstart _ hcode)
  · rw [exec_arrOpRetire_of_done hflight hconv hdone, if_neg (by rcases hpeg with h | h <;> simp [h])]
  · rw [exec_arrOpRetire_of_done hflight hconv hdone, if_pos (by simp [hpeg, horigin])]

end Sys2Proof
end

section
/-! O22: the conversion unit, the pauses of a long MMA and the check of merged words (04 R129, R149, R152). -/
namespace Sys2Proof
open Sys2Proof.Machine

/-! ### The conversion unit -/

/-- A memory write and a seat's array do not meet. -/
theorem memWrite_arrPut (s : State) (i : Nat) (a : Arr) (x : Nat) (b : Bytes) :
    memWrite (arrPut s i a) x b = arrPut (memWrite s x b) i a := rfl

theorem scratchWrite_of_unreserved {s : State} {i : Nat} (h : (seatOf s i).core.reserve = none) (off : Nat) (b : Bytes) :
    scratchWrite s i off b = memWrite s (scratchBase i + off) b := by
  unfold scratchWrite
  dsimp only
  rw [seatOf_of_memWrite, h]

/-- An op on the conversion unit whose output is written. -/
def flightConverted (f : Flight) : Flight := { f with wantsConv := false, inConv := true, wroteOutput := true }

/-- An op that converts, and whose two paths agree, writes the converted tile and flags what it converted. -/
theorem convPart_of_convert {s : State} {i : Nat} {f : Flight} (hop : dOp f.op.desc = 1 ∨ dOp f.op.desc = 2 ∨ dOp f.op.desc = 9)
    (hfailed : f.failed = 0) (hreserve : (seatOf s i).core.reserve = none) :
    let a := tileFlag (seatOf s i).arr (dTile f.op.desc) (convRun (seatOf s i).arr f).2
    convPart s i f = (arrPut (memWrite s (scratchBase i + 32 * dOffC f.op.desc) (convTrailer a f.op.desc (convRun (seatOf s i).arr f).1)) i a,
      flightConverted f) := by
  have hloadw : dOp f.op.desc ≠ 3 := by omega
  have hreq : dOp f.op.desc ≠ 4 := by omega
  have hpaths : f.failed ≠ 3 := by omega
  unfold convPart
  dsimp only
  rw [if_neg hloadw, if_neg hpaths, if_neg hreq, if_neg hreq, scratchWrite_of_unreserved (by rwa [core_arrPut]), memWrite_arrPut]
  rfl

/-- A free unit takes the oldest op, if that waits for it and has not failed. -/
theorem convNext_of_head {s : State} {i : Nat} {f : Flight} {rest : List Flight} (hflight : (seatOf s i).arr.flight = f :: rest)
    (hfree : ∀ g ∈ f :: rest, g.inConv = false) (hwants : f.wantsConv = true) (hstatus : f.status = 0) :
    convNext s i = flightPut (convPart s i f).1 i (convPart s i f).2 := by
  have hnone : (f :: rest).any (fun g => g.inConv) = false := List.any_eq_false.mpr fun g hg => ne_true_of_eq_false (hfree g hg)
  have hfirst : (f :: rest).find? (fun g => g.wantsConv || g.status != 0) = some f := List.find?_cons_of_pos (by simp [hwants])
  unfold convNext
  dsimp only
  rw [hflight, if_neg (ne_true_of_eq_false hnone), hfirst]
  exact if_neg (not_not_intro hstatus)

/-! ### Replacing the oldest op -/

theorem flight_flightPut_head {s : State} {i : Nat} {f g : Flight} {rest : List Flight} (hflight : (seatOf s i).arr.flight = f :: rest)
    (hseq : g.op.seq = f.op.seq) : ∃ r, (seatOf (flightPut s i g) i).arr.flight = g :: r := by
  unfold flightPut
  dsimp only
  rw [arr_arrPut, hflight, List.map_cons, if_pos hseq.symm]
  exact ⟨_, rfl⟩

/-- When no op behind it has its number, the oldest op alone is replaced. -/
theorem flightPut_head {s : State} {i : Nat} {f g : Flight} {rest : List Flight} (hflight : (seatOf s i).arr.flight = f :: rest)
    (hseq : g.op.seq = f.op.seq) (hrest : ∀ x ∈ rest, x.op.seq ≠ f.op.seq) :
    flightPut s i g = arrPut s i { (seatOf s i).arr with flight := g :: rest } := by
  have hstay : rest.map (fun x => if x.op.seq = g.op.seq then g else x) = rest :=
    (List.map_congr_left fun x hx => if_neg (hseq ▸ hrest x hx)).trans (List.map_id _)
  unfold flightPut
  dsimp only
  rw [hflight, List.map_cons, if_pos hseq.symm, hstay]

@[simp] theorem words_flightPut (s : State) (i : Nat) (f : Flight) : (seatOf (flightPut s i f) i).arr.words = (seatOf s i).arr.words := by
  simp [flightPut]

@[simp] theorem mem_flightPut (s : State) (i : Nat) (f : Flight) : (flightPut s i f).mem = s.mem := rfl

theorem exec_conversionUnitStart_of_convert {s : State} {i : SeatId} {f : Flight} {rest : List Flight}
    (hflight : (seatOf s i.val).arr.flight = f :: rest) (hfree : ∀ g ∈ f :: rest, g.inConv = false) (hwants : f.wantsConv = true)
    (hstatus : f.status = 0) (hfailed : f.failed = 0) (hop : dOp f.op.desc = 1 ∨ dOp f.op.desc = 2 ∨ dOp f.op.desc = 9)
    (hseq : ∀ g ∈ rest, g.op.seq ≠ f.op.seq) (hreserve : (seatOf s i.val).core.reserve = none) :
    let a := tileFlag (seatOf s i.val).arr (dTile f.op.desc) (convRun (seatOf s i.val).arr f).2
    exec (.conversionUnitStart i) s = .next (arrPut
      (memWrite s (scratchBase i.val + 32 * dOffC f.op.desc) (convTrailer a f.op.desc (convRun (seatOf s i.val).arr f).1)) i.val
      { a with flight := flightConverted f :: rest }) := by
  change Host.Outcome.next (convNext s i.val) = _
  rw [convNext_of_head hflight hfree hwants hstatus, convPart_of_convert hop hfailed hreserve]
  dsimp only
  rw [flightPut_head (f := f) (g := flightConverted f) (rest := rest) (by rw [arr_arrPut]; exact hflight) rfl hseq, arr_arrPut, arrPut_arrPut]

/-! ### MMA_PAUSE -/

section
variable {s : State} {i : SeatId} {f : Flight} {rest : List Flight}

/-- A pause of the oldest op, a long MMA whose work goes on. -/
theorem exec_mmaPause_of_head (check : OpCheck) (hflight : (seatOf s i.val).arr.flight = f :: rest) (hop : dOp f.op.desc = 1)
    (hstatus : f.status = 0) (hconv : f.inConv = false) (hk : dK f.op.desc ≠ 0) :
    let c := guardCheck (seatOf s i.val).arr f.op.desc
    let g := { f with guardSkipped := f.guardSkipped || c.2 }
    exec (.mmaPause i check) s = .next (flightPut s i.val
      (if check = .residue then flightFail f 1 else if check = .guard ∨ !c.1 then flightFail g 2 else g)) := by
  have hfirst : (f :: rest).find? (fun f => dOp f.op.desc == 1 && f.status == 0 && !f.inConv && dK f.op.desc != 0) = some f :=
    List.find?_cons_of_pos (by simp [hop, hstatus, hconv, hk])
  change execMmaPause i check s = _
  unfold execMmaPause
  dsimp only
  rw [hflight, hfirst]
  dsimp only
  split <;> rfl

/-- What a failed check leaves of the op that it ends: the work done so far stands (04 R152). -/
theorem flightPut_failed (hflight : (seatOf s i.val).arr.flight = f :: rest) {g : Flight} (hseq : g.op.seq = f.op.seq) {why : Nat}
    (hwhy : why ≠ 4) : ∃ h r, (seatOf (flightPut s i.val (flightFail g why)) i.val).arr.flight = h :: r ∧ h.status = 2 ∧ h.failed = why ∧
      h.wantsConv = false ∧ (seatOf (flightPut s i.val (flightFail g why)) i.val).arr.words = (seatOf s i.val).arr.words ∧
      (flightPut s i.val (flightFail g why)).mem = s.mem := by
  obtain ⟨r, hr⟩ := flight_flightPut_head (g := flightFail g why) hflight hseq
  exact ⟨_, r, hr, if_neg hwhy, rfl, rfl, words_flightPut _ _ _, mem_flightPut _ _ _⟩

end

/-! ### GUARD_CHECK_MERGED -/

/-- The check of a tile with merged words: its mark goes, and a row that disagrees, or hardware that says so, ends the seat's ops. -/
theorem exec_guardCheckMerged_of_merged {s : State} {i : SeatId} {k : Fin 12} (bad : Bool) (hk : k.val ∈ (seatOf s i.val).arr.merged) :
    let a := { (seatOf s i.val).arr with merged := (seatOf s i.val).arr.merged.filter (· != k.val) }
    exec (.guardCheckMerged i k bad) s = .next
      (if (List.range 16).all (fun r => (guardRow (seatOf s i.val).arr k.val r false).1) && !bad then arrPut s i.val a
      else checkEvent (arrPut s i.val (arrSquash a)) i.val 2 2) := by
  have hmark : ¬(!(seatOf s i.val).arr.merged.contains k.val) = true := by simpa using hk
  change execGuardCheckMerged i k bad s = _
  unfold execGuardCheckMerged
  dsimp only
  rw [if_neg hmark, arr_arrPut, arrPut_arrPut]
  split <;> rfl

/-- Settles O22: the held conversion of the oldest op, a pause by what its checks say, and the check of a tile with merged words. -/
theorem arrayChecks : Obligations.ArrayChecks := by
  refine ⟨fun s i f rest hflight hfree hwants hstatus hfailed hop hseq hreserve =>
      exec_conversionUnitStart_of_convert hflight hfree hwants hstatus hfailed hop hseq hreserve,
    fun s i f rest hflight hop hstatus hconv hk => ?_, fun s i k hmerged => ⟨fun hrows => ?_, ?_⟩⟩
  · have hpause := fun check => exec_mmaPause_of_head check hflight hop hstatus hconv hk
    refine ⟨fun hagrees => ?_, ?_, ?_⟩
    · rw [hpause, if_neg (by decide), if_neg (by simp [hagrees])]
    · refine ⟨_, hpause .residue, ?_⟩
      rw [if_pos rfl]
      exact flightPut_failed (why := 1) hflight (by rfl) (by decide)
    · refine ⟨_, hpause .guard, ?_⟩
      rw [if_neg (by decide), if_pos (.inl rfl)]
      exact flightPut_failed (why := 2) hflight (by rfl) (by decide)
  · have hall : (List.range 16).all (fun r => (guardRow (seatOf s i.val).arr k.val r false).1) = true :=
      List.all_eq_true.mpr fun r hr => hrows r (List.mem_range.mp hr)
    rw [exec_guardCheckMerged_of_merged false hmerged, if_pos (by simp [hall])]
  · rw [exec_guardCheckMerged_of_merged true hmerged, if_neg (by simp)]

end Sys2Proof
end

section
/-! O30: requests, peg writes, responses and control packets that arrive (06 R199 to R202, R212 to R214, R225, 07 R233, R248; logs 64, 73, 74). -/
namespace Sys2Proof
open Sys2Proof.Machine

/-! ### Answers -/

/-- A refusal counts, and does nothing else. -/
theorem countRefused_eq (s : State) (st : Nat) : countRefused s st = { s with refused := (countRefused s st).refused } := by
  unfold countRefused
  split
  · rfl
  · rfl

theorem countRefused_stNoTarget (s : State) : countRefused s stNoTarget = { s with refused := s.refused + 1 } := if_pos (.inl rfl)

theorem countRefused_stOk (s : State) : countRefused s stOk = s := if_neg (by decide)

theorem netReply_none (s : State) (whole : Bool) (st : Nat) (b : Bytes) : netReply s whole .none st b = countRefused s st := by
  cases whole with
  | true => rfl
  | false => rfl

/-- A posted request that is carried out returns nothing. -/
theorem netReply_none_stOk (s : State) (whole : Bool) (b : Bytes) : netReply s whole .none stOk b = s := by
  rw [netReply_none, countRefused_stOk]

/-- What a requester that awaits a response is answered: the answer, or TIMEOUT when that is lost on its way. -/
def packetReply (s : State) (whole : Bool) (ga st : Nat) (b : Bytes) : State :=
  if whole then emit s (.packet ga st b) else emit (pinc s P.netTimeouts) (.packet ga stTimeout [])

theorem netReply_packet (s : State) (whole : Bool) (ga st : Nat) (b : Bytes) :
    netReply s whole (.packet ga) st b = packetReply s whole ga st b := by
  cases whole with
  | true => rfl
  | false => rfl

/-- What a write brings back, by whether its source asks for an acknowledgement. -/
theorem netReply_write (s : State) (whole ack : Bool) (ga : Nat) (b : Bytes) :
    netReply s whole (if reqAsks (.write ack b) then .packet ga else .none) stOk [] = if ack then packetReply s whole ga stOk [] else s := by
  cases ack with
  | true => exact netReply_packet s whole ga stOk []
  | false => exact netReply_none_stOk s whole []

/-! ### Requests to a place that is no logical seat's -/

section
variable (s : State) (src : Nat) (o : Outside) (b : Bytes)

theorem reqServe_read_cell {a : Nat} {c r : Option Nat} (ga : Nat) (k : Fin 257) :
    reqServe s src (.cell a c r) (.packet ga) (.read k) o =
      packetReply (chanMeet s (.cell a c r) k.val o.check) (placeAnswers s src (.cell a c r)) ga
        (placeRead (chanMeet s (.cell a c r) k.val o.check) (.cell a c r) k.val o).1
        (placeRead (chanMeet s (.cell a c r) k.val o.check) (.cell a c r) k.val o).2.1 :=
  netReply_packet _ _ _ _ _

theorem reqServe_write_cell {a : Nat} {c r : Option Nat} (ga : Nat) (ack : Bool) :
    reqServe s src (.cell a c r) (if reqAsks (.write ack b) then .packet ga else .none) (.write ack b) o =
      if ack then packetReply (placeWrite (placeMerge s (.cell a c r) b.length o.check) (.cell a c r) b o).1 (placeAnswers s src (.cell a c r)) ga stOk []
      else (placeWrite (placeMerge s (.cell a c r) b.length o.check) (.cell a c r) b o).1 :=
  netReply_write _ _ _ _ _

theorem placeWrite_scratch {seat off : Nat} (hwin : winAllows (seatOf s seat).core off b.length 1 = true) :
    placeWrite s (.scratch seat off) b o = (scratchWrite s seat off b, stOk) := if_pos hwin

theorem reqServe_write_scratch {seat off : Nat} (ga : Nat) (ack : Bool) (hwin : winAllows (seatOf s seat).core off b.length 1 = true) :
    reqServe s src (.scratch seat off) (if reqAsks (.write ack b) then .packet ga else .none) (.write ack b) o =
      if ack then packetReply (scratchWrite s seat off b) (placeAnswers s src (.scratch seat off)) ga stOk [] else scratchWrite s seat off b := by
  rw [← netReply_write]
  change netReply (placeWrite s (.scratch seat off) b o).1 _ _ (placeWrite s (.scratch seat off) b o).2 [] = _
  rw [placeWrite_scratch s o b hwin]

/-- A posted write that its destination refuses stores nothing. -/
theorem reqServe_posted_no {st : Nat} : reqServe s src (.no st) .none (.write false b) o = countRefused s st := netReply_none _ _ _ _

end

section
variable {s : State} {i : IslandId} {ga : U64} {req : Req} (o : Outside) (hpower : s.pins.inputGood = true) (hlen : reqLen req ≤ 256)
include hpower hlen

/-- A request to an address outside the logical seat windows. -/
theorem exec_reqPacketArrival_of_place (sl : Option Slot) (hwindow : windowOf ga.toNat = none) {p : Place}
    (hplace : place s i.val (sl.map (·.val)) ga.toNat (reqLen req) = p) :
    exec (.reqPacketArrival i sl req ga o) s = .next (if placeStuck s i.val p then s
      else reqServe s i.val p (if reqAsks req then .packet ga.toNat else .none) req o) := by
  change execReqPacketArrival i sl req ga o s = _
  unfold execReqPacketArrival
  dsimp only
  rw [if_neg (by simp [hpower, hlen]), hwindow]
  dsimp only
  rw [hplace]

/-- A request to a logical seat of its shell. -/
theorem exec_reqPacketArrival_of_window {n : Slot} {l off : Nat} (hwindow : windowOf ga.toNat = some (n.val, l, off))
    (hl : l < shellSeats (shellOf s n.val)) :
    exec (.reqPacketArrival i (some n) req ga o) s = .next (netSettle (netSend true s
      { slot := n.val, lseat := l, off := off, op := reqOp s i.val n.val l off req, src := i.val
        back := if reqAsks req then .packet ga.toNat else .none } o)) := by
  change execReqPacketArrival i (some n) req ga o s = _
  unfold execReqPacketArrival
  dsimp only
  rw [if_neg (by simp [hpower, hlen]), hwindow]
  exact if_pos ⟨rfl, hl⟩

end

/-! ### Packets toward a logical seat -/

section
variable {s : State} {k : NetPkt} (o : Outside) {p : Place}
  (hplace : placeVia s k.src k.slot (netWindows s k) k.lseat k.off (opBytes k.op) = p)
include hplace

section
variable (first : Bool) (hheld : ∀ slot l off, p ≠ .held slot l off) (hbehind : s.upstream = [])
  (hfree : stuck s k.src (placeIsland s p) (opVc k.op) = false)
include hheld hbehind hfree

/-- A packet that nothing stands before lands. -/
theorem netSend_of_land {t : State} (hland : netLand s (netWindows s k) k o = some t) : netSend first s k o = t := by
  unfold netSend
  dsimp only
  rw [hplace, hbehind, hland]
  split
  · next hp => exact absurd rfl (hheld _ _ _)
  · exact if_neg (by simp [hfree])

/-- One that finds no room waits upstream. -/
theorem netSend_of_no_room (hland : netLand s (netWindows s k) k o = none) : netSend first s k o =
    if first && opVc k.op == 3 && !(shellOf s k.slot).holds.contains k.lseat then pinc { s with upstream := [k] } P.pegHoldFull
    else { s with upstream := [k] } := by
  unfold netSend
  dsimp only
  rw [hplace, hbehind, hland]
  split
  · next hp => exact absurd rfl (hheld _ _ _)
  · exact if_neg (by simp [hfree])

end

end

/-! ### Where a packet lands -/

theorem reach_eq_scratch {s : State} {src dst seat off : Nat} {p : Place} (h : reach s src dst p = .scratch seat off) : p = .scratch seat off := by
  unfold reach at h
  split at h
  · cases h
  · split at h
    · cases h
    · exact h

theorem placeFar_ne_scratch (s : State) (src dst : Nat) (ports : List Nat) (kind ident off : Nat) (seats : Bool) (seat off' : Nat) :
    placeFar s src dst ports kind ident off seats ≠ .scratch seat off' := by
  unfold placeFar
  split
  · intro h
    cases reach_eq_scratch h
  · nofun

theorem placeLeased_ne_scratch (s : State) (src : Nat) (sh : Shell) (l off n seat off' : Nat) :
    placeLeased s src sh l off n ≠ .scratch seat off' := by
  unfold placeLeased
  split
  · split
    · nofun
    · exact placeFar_ne_scratch _ _ _ _ _ _ _ _ _ _
  · nofun

theorem windowRefuses_ne_scratch (island off n seat off' : Nat) : windowRefuses island off n ≠ some (.scratch seat off') := by
  unfold windowRefuses
  dsimp only
  split
  · nofun
  · split
    · nofun
    · nofun

theorem imageWindow_ne_scratch (island key l off n seat off' : Nat) :
    (windowRefuses island off n).getD (.image key l off) ≠ .scratch seat off' := by
  cases hrefuses : windowRefuses island off n with
  | none => nofun
  | some p => exact fun h => windowRefuses_ne_scratch _ _ _ _ _ (hrefuses.trans (congrArg some h))

/-- The window of a seat leads into no scratchpad but its own. -/
theorem eq_of_placeSeat_scratch {s : State} {src i off n seat off' : Nat} (h : placeSeat s src i off n = .scratch seat off') : i = seat := by
  have hp := reach_eq_scratch h
  split at hp
  · next hrefuses => exact absurd (hp ▸ hrefuses) (windowRefuses_ne_scratch _ _ _ _ _)
  · split at hp
    · cases hp
    · cases hp
      rfl

/-- A window leads into a scratchpad only where it stands on its shell's own seats, and there to the logical seat's. -/
theorem landSeat_of_scratch {s : State} {w : WinMap} {k : NetPkt} {src n seat off' : Nat}
    (h : placeVia s src k.slot w k.lseat k.off n = .scratch seat off') : landSeat s w k = some seat := by
  unfold placeVia at h
  dsimp only at h
  split at h
  · split at h
    · exact absurd (reach_eq_scratch h) (imageWindow_ne_scratch _ _ _ _ _ _ _)
    · split at h
      · exact absurd h (placeLeased_ne_scratch _ _ _ _ _ _ _ _)
      · exact absurd h (imageWindow_ne_scratch _ _ _ _ _ _ _)
  · split at h
    · split at h
      · cases reach_eq_scratch h
      · cases h
    · split at h
      · next hseat => rw [landSeat, hseat, eq_of_placeSeat_scratch h]
      · exact absurd h (placeLeased_ne_scratch _ _ _ _ _ _ _ _)

section
variable {s : State} {w : WinMap} {k : NetPkt} (o : Outside) {seat : Nat}

/-- An atomic at a scratchpad is performed and answered with the old value. -/
theorem netLand_atomic {op : AmoOp} {n v off : Nat} (hop : k.op = .atomic op n v)
    (hplace : placeVia s k.src k.slot w k.lseat k.off n = .scratch seat off) (hok : (placeAtomic s (.scratch seat off) n op v o).2.1 = stOk) :
    netLand s w k o = some (netReply (placeAtomic s (.scratch seat off) n op v o).1 (placeAnswers s k.src (.scratch seat off)) k.back stOk
      (leBytes n (placeAtomic s (.scratch seat off) n op v o).2.2)) := by
  unfold netLand
  dsimp only
  rw [hop]
  dsimp only [opBytes]
  rw [hplace]
  have hask : askAtomic s (.scratch seat off) n op v = s := rfl
  dsimp only
  rw [hask, if_pos hok, hok]

/-- A posted write that a scratchpad's window regions let in is stored, and counted among those of its source. -/
theorem netLand_write {d : Bytes} {off : Nat} (hop : k.op = .write d .agent) (hback : k.back = .none)
    (hplace : placeVia s k.src k.slot w k.lseat k.off d.length = .scratch seat off) (hwin : winAllows (seatOf s seat).core off d.length 1 = true) :
    netLand s w k o = some (reqApplied (scratchWrite s seat off d) seat k.src) := by
  unfold netLand
  dsimp only
  rw [hop]
  dsimp only [opBytes]
  rw [hplace]
  dsimp only [writeAt]
  rw [landSeat_of_scratch hplace, placeWrite_scratch s o d hwin, hback]
  dsimp only
  rw [netReply_none_stOk]
  rfl

variable {after q : Nat} {v : Bool} (hop : k.op = .peg after v) (hplace : placeVia s k.src k.slot w k.lseat k.off 8 = .peg seat q)
include hop hplace

/-- A peg write whose source's earlier writes have been applied sets or clears the peg. -/
theorem netLand_peg_of_applied (hback : k.back = .none) (hafter : after ≤ tget (fun _ => 0) (seatOf s seat).reqSeen k.src)
    (hnone : ∀ h ∈ (seatOf s seat).pegHold, h.src ≠ k.src) : netLand s w k o = some (pegWrite s seat q v) := by
  unfold netLand
  dsimp only
  rw [hop]
  dsimp only [opBytes]
  rw [hplace]
  dsimp only
  rw [if_neg (by simpa [hafter] using hnone), hback, netReply_none_stOk]

/-- One that comes before them is held while the seat's hold buffer has room. -/
theorem netLand_peg_of_early (hafter : tget (fun _ => 0) (seatOf s seat).reqSeen k.src < after) : netLand s w k o =
    if (seatOf s seat).pegHold.length < 32 then some (seatPut s seat { seatOf s seat with
      pegHold := (seatOf s seat).pegHold ++ [{ src := k.src, after := after, peg := q, value := v, back := k.back }] }) else none := by
  unfold netLand
  dsimp only
  rw [hop]
  dsimp only [opBytes]
  rw [hplace]
  exact if_pos (.inl hafter)

end

/-! ### Peg writes -/

theorem exec_pegWriteArrival {s : State} (i : IslandId) (after : U32) (n : Slot) (l : U16) (p : Fin 48) (v : Bool) (hpower : s.pins.inputGood = true) :
    exec (.pegWriteArrival ⟨i, after⟩ n l p v) s = .next (netSettle (netSend true s
      { slot := n.val, lseat := l.toNat, off := 0x1C0000 + 8 * p.val, op := .peg after.toNat v, src := i.val } {})) :=
  if_pos hpower

/-- The only held peg write of a seat is released once the writes that it waits for have been applied. -/
theorem pegRelease_of_single {s : State} {seat : Nat} {h : HeldPeg} (hhold : (seatOf s seat).pegHold = [h]) (hback : h.back = .none)
    (hafter : h.after ≤ tget (fun _ => 0) (seatOf s seat).reqSeen h.src) :
    pegRelease s seat = pegWrite (seatPut s seat { seatOf s seat with pegHold := [] }) seat h.peg h.value := by
  unfold pegRelease
  dsimp only
  rw [hhold, List.foldl_cons, List.foldl_nil, hhold, if_neg (by simpa using hafter), hback, netReply_none_stOk, List.erase_cons_head]

/-- The last of these writes releases it. -/
theorem reqApplied_of_held {s : State} {seat : Nat} {h : HeldPeg} (hhold : (seatOf s seat).pegHold = [h]) (hback : h.back = .none)
    (hafter : h.after ≤ tget (fun _ => 0) (seatOf s seat).reqSeen h.src + 1) :
    reqApplied s seat h.src = pegWrite (seatPut s seat { seatOf s seat with
      pegHold := [], reqSeen := tset (fun _ => 0) (seatOf s seat).reqSeen h.src (tget (fun _ => 0) (seatOf s seat).reqSeen h.src + 1) })
      seat h.peg h.value := by
  unfold reqApplied
  dsimp only
  rw [pegRelease_of_single (by rwa [seatOf_seatPut_self]) hback (by rwa [seatOf_seatPut_self, tget_tset_self]), seatOf_seatPut_self,
    seatPut_seatPut]

/-! ### Responses -/

theorem exec_rspPacketArrival_of_late {s : State} (hlate : 0 < s.late) :
    exec (.rspPacketArrival true) s = .next (pinc { s with late := s.late - 1 } P.netLateResponses) := by
  change execRspPacketArrival true s = _
  unfold execRspPacketArrival
  rw [if_pos rfl, if_pos hlate]

section
variable {s : State} {a : RedAck} {rest : List RedAck} (hacks : s.redAcks = a :: rest)
include hacks

/-- An acknowledgement to a contribution of another module is sent there. -/
theorem exec_rspPacketArrival_of_remote {port ident agent tag : Nat} (hsrc : a.src = .remote port ident agent tag) :
    exec (.rspPacketArrival false) s = .next (farRespond { s with redAcks := rest } port 1 ident agent tag a.status []) := by
  change execRspPacketArrival false s = _
  unfold execRspPacketArrival
  dsimp only
  rw [if_neg (by decide), hacks]
  dsimp only
  rw [hsrc]

/-- An acknowledgement to a contribution of a seat, by its status and by whether it is the last. -/
theorem exec_rspPacketArrival_of_xfer {seat ticket : Nat} {x : Xfer} {env : XEnv} (hsrc : a.src = .xfer seat ticket)
    (hfind : xferFind s seat ticket = some x) (henv : xEnv s seat = some env) (hactive : x.st = .active) (hunacked : 0 < x.unacked) :
    exec (.rspPacketArrival false) s = .next (if a.status ≠ stOk then xferFail { s with redAcks := rest } seat env x (0x20 + a.status)
      else if x.unacked = 1 then xferDone { s with redAcks := rest } seat x
      else xferPut { s with redAcks := rest } seat { x with unacked := x.unacked - 1 }) := by
  have hfind1 : xferFind { s with redAcks := rest } seat ticket = some x := hfind
  have henv1 : xEnv { s with redAcks := rest } seat = some env := henv
  change execRspPacketArrival false s = _
  unfold execRspPacketArrival
  dsimp only
  rw [if_neg (by decide), hacks]
  dsimp only
  rw [hsrc]
  dsimp only
  rw [hfind1, henv1]
  dsimp only
  rw [if_neg (by simp [hactive, Nat.pos_iff_ne_zero.mp hunacked]), apply_ite Host.Outcome.next, apply_ite Host.Outcome.next]

end

/-! ### Packets of MD: firmware and accesses to seat windows -/

/-- Whether islands are open, links whole and seats in use as they were: what the way of a packet depends on. -/
structure SameWays (s t : State) : Prop where
  rest : t = { s with seats := t.seats, islands := t.islands }
  islandOpen : ∀ n, islandOpen t n = islandOpen s n

theorem SameWays.refl (s : State) : SameWays s s := ⟨rfl, fun _ => rfl⟩

theorem SameWays.trans {s t u : State} (h : SameWays s t) (h' : SameWays t u) : SameWays s u := by
  refine ⟨?_, fun n => (h'.islandOpen n).trans (h.islandOpen n)⟩
  rw [h'.rest, h.rest]

theorem SameWays.blockedAt {s t : State} (h : SameWays s t) (src dst : Nat) : blockedAt t src dst = blockedAt s src dst := by
  have hlinks : pget t P.linkFailedMask = pget s P.linkFailedMask := by rw [h.rest]; rfl
  unfold Machine.blockedAt
  simp only [hlinks, h.islandOpen]

/-- A seat that changes stands in nobody's way. -/
theorem SameWays.seatPut (s : State) (k : Nat) (v : Seat) : SameWays s (seatPut s k v) := ⟨rfl, fun _ => rfl⟩

/-- A discard that is counted at an island changes nothing else of any. -/
theorem islandNow_countClosed (s : State) (k n : Nat) : ∃ d, islandNow (countClosed s k) n = { islandNow s n with discards := d } := by
  have hisland : ∃ d, islandOf (countClosed s k) n = { islandOf s n with discards := d } := by
    unfold countClosed
    rw [islandOf_islandPut]
    split
    · next hn => exact ⟨_, by rw [hn]⟩
    · exact ⟨_, rfl⟩
  obtain ⟨d, hd⟩ := hisland
  have hgated : seatGated (countClosed s k) n = seatGated s n := rfl
  have hstart : (countClosed s k).start = s.start := rfl
  refine ⟨d, ?_⟩
  unfold islandNow
  rw [hd, hgated, hstart]
  dsimp only
  by_cases hreset : (!s.start.islandsUp) = true ∧ n ≠ 2352
  · rw [if_pos hreset, if_pos hreset]
  · rw [if_neg hreset, if_neg hreset]
    by_cases hdark : (islandOf s n).st = .running ∧ seatGated s n = true
    · rw [if_pos hdark, if_pos hdark]
    · rw [if_neg hdark, if_neg hdark]

theorem SameWays.countClosed (s : State) (k : Nat) : SameWays s (countClosed s k) := by
  refine ⟨rfl, fun n => ?_⟩
  obtain ⟨d, hd⟩ := islandNow_countClosed s k n
  unfold Machine.islandOpen
  rw [hd]

/-- The firmware fills a seat by what that seat holds, whatever other seats and islands do. -/
theorem seatOf_firmwareFill_self {s t : State} (h : SameWays s t) {k : Nat} (hseat : seatOf t k = seatOf s k) (off : Nat) (b : Bytes) :
    seatOf (firmwareFill t k off b) k = seatOf (firmwareFill s k off b) k := by
  have hfresh : seatFresh t (seatOf s k) = seatFresh s (seatOf s k) := by
    rw [h.rest]
    rfl
  unfold firmwareFill
  dsimp only
  rw [seatOf_seatPut_self, seatOf_seatPut_self, hseat, hfresh]

/-- Firmware sent to a seat fills it where the way from MD is open. -/
theorem firmwareSend_of_open {s : State} {k : Nat} (hopen : blockedAt s 2352 k = none) (off : Nat) (b : Bytes) :
    firmwareSend s k off b = firmwareFill s k off b := by
  unfold firmwareSend
  rw [hopen]

theorem firmwareSend_of_blocked {s : State} {k n : Nat} (hblocked : blockedAt s 2352 k = some n) (off : Nat) (b : Bytes) :
    firmwareSend s k off b = countClosed s n := by
  unfold firmwareSend
  rw [hblocked]

/-- The seats under the first `n` bits of a mask, from the seat `base` on, to which the way from MD is open. -/
def FirmwareReaches (s : State) (base mask n k : Nat) : Prop :=
  base ≤ k ∧ k < base + n ∧ bitOf mask (k - base) = true ∧ blockedAt s 2352 k = none

/-- A state after firmware has been sent under the first `n` bits of a mask: the seats that it reaches are filled, every other is left. -/
structure FirmwareSent (s : State) (base mask off : Nat) (b : Bytes) (n : Nat) (t : State) : Prop where
  ways : SameWays s t
  filled : ∀ k, FirmwareReaches s base mask n k → seatOf t k = seatOf (firmwareFill s k off b) k
  left : ∀ k, ¬FirmwareReaches s base mask n k → seatOf t k = seatOf s k

section
variable {s t : State} {base mask off : Nat} {b : Bytes} {n : Nat}

theorem not_firmwareReaches_next : ¬FirmwareReaches s base mask n (base + n) := fun h => Nat.lt_irrefl _ h.2.1

theorem firmwareReaches_succ_iff (k : Nat) : FirmwareReaches s base mask (n + 1) k ↔
    FirmwareReaches s base mask n k ∨ k = base + n ∧ bitOf mask n = true ∧ blockedAt s 2352 (base + n) = none := by
  unfold FirmwareReaches
  constructor
  · rintro ⟨hbase, hlt, hbit, hopen⟩
    by_cases hk : k = base + n
    · subst hk
      exact .inr ⟨rfl, by rwa [Nat.add_sub_cancel_left] at hbit, hopen⟩
    · exact .inl ⟨hbase, by omega, hbit, hopen⟩
  · rintro (⟨hbase, hlt, hbit, hopen⟩ | ⟨rfl, hbit, hopen⟩)
    · exact ⟨hbase, by omega, hbit, hopen⟩
    · exact ⟨by omega, by omega, by rwa [Nat.add_sub_cancel_left], hopen⟩

/-- Where the next seat is not reached, the seats stay as they are. -/
theorem FirmwareSent.skip {u : State} (h : FirmwareSent s base mask off b n t) (hways : SameWays t u) (hseats : u.seats = t.seats)
    (hskip : ¬(bitOf mask n = true ∧ blockedAt s 2352 (base + n) = none)) : FirmwareSent s base mask off b (n + 1) u := by
  have hreach : ∀ k, FirmwareReaches s base mask (n + 1) k ↔ FirmwareReaches s base mask n k := fun k =>
    (firmwareReaches_succ_iff k).trans (or_iff_left fun hk => hskip hk.2)
  have hseat : ∀ k, seatOf u k = seatOf t k := fun k => congrArg (tget _ · k) hseats
  exact ⟨h.ways.trans hways, fun k hk => (hseat k).trans (h.filled k ((hreach k).mp hk)), fun k hk => (hseat k).trans (h.left k (mt (hreach k).mpr hk))⟩

/-- Where it is reached, it alone is filled. -/
theorem FirmwareSent.fill (h : FirmwareSent s base mask off b n t) (hbit : bitOf mask n = true) (hopen : blockedAt s 2352 (base + n) = none) :
    FirmwareSent s base mask off b (n + 1) (firmwareFill t (base + n) off b) := by
  have hself : seatOf (firmwareFill t (base + n) off b) (base + n) = seatOf (firmwareFill s (base + n) off b) (base + n) :=
    seatOf_firmwareFill_self h.ways (h.left _ not_firmwareReaches_next) off b
  have hother : ∀ k, k ≠ base + n → seatOf (firmwareFill t (base + n) off b) k = seatOf t k := fun k => seatOf_seatPut_ne _ _ _ _
  refine ⟨h.ways.trans (.seatPut _ _ _), fun k hk => ?_, fun k hk => ?_⟩
  · rcases (firmwareReaches_succ_iff k).mp hk with hk | ⟨rfl, -, -⟩
    · rw [hother k (by rintro rfl; exact not_firmwareReaches_next hk), h.filled k hk]
    · exact hself
  · rw [firmwareReaches_succ_iff, not_or] at hk
    rw [hother k fun hn => hk.2 ⟨hn, hbit, hopen⟩, h.left k hk.1]

/-- A packet of firmware goes to every seat of its mask. -/
theorem firmwareSent_foldl (s : State) (base mask off : Nat) (b : Bytes) (n : Nat) : FirmwareSent s base mask off b n
    ((List.range n).foldl (fun s i => if bitOf mask i then firmwareSend s (base + i) off b else s) s) := by
  induction n with
  | zero => exact ⟨.refl s, fun k ⟨hbase, hlt, _, _⟩ => absurd hlt (Nat.not_lt.mpr hbase), fun _ _ => rfl⟩
  | succ n ih =>
    rw [List.range_succ, List.foldl_append, List.foldl_cons, List.foldl_nil]
    split
    · next hbit =>
      have hway := ih.ways.blockedAt 2352 (base + n)
      cases hblocked : blockedAt s 2352 (base + n) with
      | none =>
        rw [firmwareSend_of_open (hway.trans hblocked)]
        exact ih.fill hbit hblocked
      | some m =>
        rw [firmwareSend_of_blocked (hway.trans hblocked)]
        exact ih.skip (.countClosed _ _) rfl fun h => by rw [hblocked] at h; exact nomatch h.2
    · next hbit => exact ih.skip (.refl _) rfl fun h => hbit h.1

end

theorem exec_mgtPacketArrival_firmware {s : State} (d : Fin 16) (m : BitVec 144) (off : U16) {b : Bytes} (hstage : pget s P.startStage = 4)
    (hlen : b.length ≤ 256) : exec (.mgtPacketArrival d m (.firmware off b)) s = .next ((List.range 144).foldl
      (fun s i => if bitOf m.toNat i then firmwareSend s (144 * d.val + i) off.toNat b else s) s) :=
  if_pos ⟨hstage, hlen⟩

theorem exec_mgtPacketArrival_access {s : State} (d : Fin 16) (m : BitVec 144) {req : Req} {ga : U64} (hpower : s.pins.inputGood = true)
    (hlen : reqLen req ≤ 256) : exec (.mgtPacketArrival d m (.access req ga)) s = .next (reqServe s 2352
      (placePhysical s 2352 ga.toNat (reqLen req)) (if reqAsks req then .packet ga.toNat else .none) req {}) :=
  if_neg (by simp [hpower, hlen])

/-- Settles O30: each packet by where it lands, a packet of firmware seat by seat. -/
theorem packets : Obligations.Packets := by
  refine ⟨fun s u i sl ga o n a c r hpower hlen hwindow hplace hu => ?_, fun s i sl ga o d st hpower hlen hwindow hplace => ?_,
    fun s i n ga o op dbl v l off seat off2 w hpower hup hw hwindow hl hplace hanswers hfree hok => ?_,
    fun s i n l p v after seat q hpower hup hplace hfree => ⟨fun hafter hnone => ?_, fun hafter hroom => ?_, fun hafter hfull hholds => ?_⟩,
    fun s seat src h hhold hsrc hback hafter => ?_,
    fun s i n ga o d l off seat off2 hpower hup hlen hoff hwindow hl hplace hwin hfree => ?_,
    fun s => exec_rspPacketArrival_of_late,
    fun s a rest hacks => ⟨fun port ident agent tag => exec_rspPacketArrival_of_remote hacks,
      fun seat ticket x env hsrc hfind henv hactive hunacked => ?_⟩,
    fun s d m off b hstage hlen => ?_, fun s d m ack b ga seat off hpower hlen hplace hwin => ?_⟩
  · subst hu
    have hserve : ∀ req, reqLen req = n → exec (.reqPacketArrival i sl req ga o) s = _ := fun req hreq =>
      exec_reqPacketArrival_of_place o hpower (hreq ▸ hlen) sl hwindow (hreq ▸ hplace)
    refine ⟨fun hfree => ⟨fun k hk => ?_, fun ack d v hd hv => ?_⟩, fun hstuck => ⟨fun k hk => ?_, fun ack d hd => ?_⟩⟩
    · subst hk
      rw [hserve _ rfl, if_neg (ne_true_of_eq_false hfree)]
      exact congrArg _ (reqServe_read_cell s i.val o ga.toNat k)
    · subst hd hv
      rw [hserve _ rfl, if_neg (ne_true_of_eq_false hfree), reqServe_write_cell]
      rfl
    · rw [hserve (.read k) hk, if_pos hstuck]
    · rw [hserve (.write ack d) hd, if_pos hstuck]
  · have hexec := exec_reqPacketArrival_of_place (req := .write false d) o hpower hlen sl hwindow hplace
    refine ⟨_, hexec.trans (congrArg _ ((if_neg Bool.false_ne_true).trans (reqServe_posted_no s i.val o d))), countRefused_eq s st, fun hst => ?_⟩
    rw [hst, countRefused_stNoTarget]
  · subst hw
    have hlen : (if dbl then 8 else 4) ≤ 256 := by split <;> decide
    rw [exec_reqPacketArrival_of_window (req := .atomic op dbl v) o hpower hlen hwindow hl,
      netSend_of_land o hplace true (by nofun) hup hfree (netLand_atomic o rfl hplace hok), hanswers]
    exact ⟨_, rfl, rfl⟩
  · rw [exec_pegWriteArrival _ _ _ _ _ _ hpower, netSend_of_land {} hplace true (by nofun) hup hfree
      (netLand_peg_of_applied {} rfl hplace rfl hafter hnone)]
  · rw [exec_pegWriteArrival _ _ _ _ _ _ hpower, netSend_of_land {} hplace true (by nofun) hup hfree
      ((netLand_peg_of_early {} rfl hplace hafter).trans (if_pos hroom))]
  · rw [exec_pegWriteArrival _ _ _ _ _ _ hpower, netSend_of_no_room {} hplace true (by nofun) hup hfree
      ((netLand_peg_of_early {} rfl hplace hafter).trans (if_neg (Nat.not_lt.mpr hfull))), if_pos (by simp [hholds, opVc])]
    exact ⟨_, rfl, rfl⟩
  · subst hsrc
    exact reqApplied_of_held hhold hback hafter
  · have hop : reqOp s i.val n.val l off (.write false d) = .write d .agent := if_neg fun h => Nat.not_lt.mpr h.1 hoff
    rw [exec_reqPacketArrival_of_window (req := .write false d) o hpower hlen hwindow hl, hop,
      netSend_of_land o hplace true (by nofun) hup hfree (netLand_write o rfl rfl hplace hwin)]
  · rw [exec_rspPacketArrival_of_xfer hacks hsrc hfind henv hactive hunacked]
    refine ⟨fun hbad => ?_, fun hok hlast => ?_, fun hok hmore => ?_⟩
    · rw [if_pos hbad]
    · rw [if_neg (not_not_intro hok), if_pos hlast]
    · rw [if_neg (not_not_intro hok), if_neg (by omega)]
  · have hsent := firmwareSent_foldl s (144 * d.val) m.toNat off.toNat b 144
    refine ⟨_, exec_mgtPacketArrival_firmware d m off hstage hlen, hsent.ways.rest,
      fun k hbase hlt hbit hopen => hsent.filled k ⟨hbase, hlt, hbit, hopen⟩, fun k hout => hsent.left k ?_⟩
    rintro ⟨hbase, hlt, hbit, hopen⟩
    rcases hout with h | h | h | h
    · omega
    · omega
    · exact ne_true_of_eq_false h hbit
    · exact h hopen
  · have hplace : placePhysical s 2352 ga.toNat (reqLen (.write ack b)) = .scratch seat off := hplace
    rw [exec_mgtPacketArrival_access d m (req := .write ack b) hpower hlen, hplace, reqServe_write_scratch s 2352 {} b ga.toNat ack hwin]
    cases ack with
    | false => simp
    | true => simp [packetReply]

end Sys2Proof
end

section
/-! O31: the merge of a unison-add packet (06 R222). The statement takes a group to end within its tile, which RED_ARM's format check
sees to (09 R321), and does not say so: the words of a group that is armed past the end of its tile lie in the next one. -/
namespace Sys2Proof
open Sys2Proof.Machine

/-! ### The end of a transfer of a seat that serves no shell and no borrower -/

section
variable {s : State} {seat : Nat} (hshells : s.shells = []) (hlent : s.lent = [])
include hshells

theorem seatShell_of_no_shells (seat : Nat) : seatShell s seat = none := by
  simp [seatShell, hshells]

theorem pegWrite_of_no_shells (p : Nat) (v : Bool) : pegWrite s seat p v = pegPut s seat p v := by
  unfold pegWrite
  dsimp only
  rw [seatShell_of_no_shells (s := pegPut s seat p v) hshells, ite_self]

include hlent

theorem vzseatid_of_no_shells (seat : Nat) : vzseatid s seat = seatIdent seat := by
  simp [vzseatid, seatShell_of_no_shells hshells, lentOf, hlent]

theorem arr_catchSettle_of_no_shells : (seatOf (catchSettle s seat) seat).arr = (seatOf s seat).arr := by
  have hreport : ∀ c r, lentReport (corePut s seat c) seat r = corePut s seat c := fun c r => by
    simp [lentReport, lentOf, corePut, hlent]
  unfold catchSettle waitSettle
  dsimp only
  split
  · rw [seatShell_of_no_shells (by exact hshells)]
    simp only [hreport, ite_self, arr_corePut]
  · rfl

/-- A transfer that is done leaves the array of its seat. -/
theorem arr_xferDone_of_no_shells (hident : bitsOf (seatIdent seat) 47 32 = 0) (x : Xfer) :
    (seatOf (xferDone s seat x) seat).arr = (seatOf s seat).arr := by
  unfold xferDone
  extract_lets t s1 peg l s2
  have h1 : (seatOf s1 seat).arr = (seatOf s seat).arr := by simp [s1, t]
  have hid : bitsOf (vzseatid s1 seat) 47 32 = 0 := by rw [vzseatid_of_no_shells (by exact hshells) (by exact hlent), hident]
  have h2 : (s2.shells = [] ∧ s2.lent = []) ∧ (seatOf s2 seat).arr = (seatOf s1 seat).arr := by
    unfold s2
    rw [hid, if_neg (Nat.not_lt_zero l)]
    split
    · exact ⟨⟨hshells, hlent⟩, rfl⟩
    · split
      · rw [pegWrite_of_no_shells (by exact hshells)]
        exact ⟨⟨hshells, hlent⟩, by simp [pegPut]⟩
      · exact ⟨⟨hshells, hlent⟩, rfl⟩
  obtain ⟨⟨hshells2, hlent2⟩, harr2⟩ := h2
  rw [arr_catchSettle_of_no_shells hshells2 hlent2, harr2, h1]

end

/-! ### A group past the end of its tile -/

/-- A group armed for one word behind the last of tile 0, and a packet that brings it. -/
def armPastTile : RedGroup :=
  { shell := 3, group := 1, tile := 0, first := 1024, count := 1, expected := 1, peg := 0, fretBase := 0, fret := true, ticket := 0 }
def packetPastTile : RedPkt := { slot := 3, group := 1, lseat := 0, first := 1024, fret := true, base := 0, words := [1] }
def statePastTile : State := { seats := [(5, { groups := [armPastTile] })] }

/-- The packet is added to the first word of tile 1. -/
theorem arrWord_redMerge_past_tile : arrWord (seatOf (redMerge statePastTile 5 packetPastTile).1 5).arr 1 0 = 1 := by decide

/-- Refutes O31: `packetPastTile` fits `armPastTile` and disarms it, yet changes a word of tile 1, where the statement has every word
of a tile other than the group's left. -/
theorem not_unisonAdd : ¬ Obligations.UnisonAdd := by
  rintro ⟨-, -, -, -, -, -, hmerge⟩
  obtain ⟨-, hgroup⟩ := hmerge statePastTile 5 packetPastTile
  obtain ⟨-, -, -, hlast⟩ := hgroup armPastTile (by decide)
  obtain ⟨-, u, hu, -, -, hothers, -, hnone, hdone⟩ := hlast rfl rfl rfl (by decide) (by decide) rfl
  have hshells : u.shells = [] := by rw [hu]; rfl
  have hlent : u.lent = [] := by rw [hu]; rfl
  have harr : (seatOf (redMerge statePastTile 5 packetPastTile).1 5).arr = (seatOf u 5).arr := by
    cases hfind : xferFind u 5 armPastTile.ticket with
    | none => rw [hnone hfind]
    | some x => rw [hdone x hfind, arr_xferDone_of_no_shells hshells hlent (by decide)]
  have hword := arrWord_redMerge_past_tile
  rw [harr, hothers 1 0 (by decide) (by decide)] at hword
  exact absurd hword (by decide)

end Sys2Proof
end

section
/-! O32: requests that time out, link replays, and the clock lent during a wait (06 R213, R216, R217, 07 R262). -/
namespace Sys2Proof
open Sys2Proof.Machine

/-! ### Requests without a response -/

/-- A core's load is answered TIMEOUT when its address is of the kind, its time has passed and its window is not in HOLD. -/
theorem coreTimeout_of_load {s : State} {seat rd w va ga : Nat} {sg fp : Bool} (hwait : (seatOf s seat).core.wait = .load rd w sg fp va ga)
    (after : Nat) (inside : Nat → Bool) :
    coreTimeout s seat after inside = if inside ga ∧ tbPast s.tb (seatOf s seat).core.tbWait after ∧ !inHold s seat ga then
      coreStatus (netTimeout s) seat stTimeout va ga 5 else s := by
  unfold coreTimeout
  dsimp only
  rw [hwait]

/-- The oldest store of a seat, by whether it has waited its time inside the module. -/
theorem exec_netRequestTimeout_of_store {s : State} {i : SeatId} {p : PendStore} {rest : List PendStore}
    (hstores : (seatOf s i.val).core.stores = p :: rest) (hmode : (seatOf s i.val).mode = .run) :
    exec (.netRequestTimeout i .store) s = .next (if timedInside s p.ga ∧ tbPast s.tb p.tb 100000 ∧ !inHold s i.val p.ga then
      coreStatus (ghFlush (corePut (netTimeout s) i.val { (seatOf s i.val).core with stores := rest })) i.val stTimeout p.va p.ga 7 else s) := by
  change execNetRequestTimeout i .store s = _
  unfold execNetRequestTimeout
  dsimp only
  rw [hstores]
  dsimp only
  rw [if_pos hmode, apply_ite Host.Outcome.next]

section
variable {s : State} {i : SeatId} {tk : U32} {x : Xfer} {env : XEnv} (hfind : xferFind s i.val tk.toNat = some x)
  (henv : xEnv s i.val = some env)
include hfind henv

theorem exec_netRequestTimeout_of_early_transfer (hearly : tbPast s.tb x.tbSent 100000 = false) :
    exec (.netRequestTimeout i (.transfer tk)) s = .next s := by
  change execNetRequestTimeout i (.transfer tk) s = _
  unfold execNetRequestTimeout
  dsimp only
  rw [hfind, henv]
  exact if_pos (.inr (congrArg not hearly))

/-- A contribution whose packets are unacknowledged, and of which none waits in a hold buffer, is given TIMEOUT. -/
theorem exec_netRequestTimeout_of_contribution (hactive : x.st = .active) (hpast : tbPast s.tb x.tbSent 100000 = true)
    (hunacked : 0 < x.unacked) (hgone : ∀ p ∈ s.red, RedSrc.xfer i.val x.ticket ∉ p.src) :
    exec (.netRequestTimeout i (.transfer tk)) s =
      .next (xferFail (netTimeout (redForget s i.val x.ticket)) i.val env x (0x20 + stTimeout)) := by
  have hheld : ¬s.red.any (fun p => p.src.contains (.xfer i.val x.ticket) && (match redTo s p with | .hold _ => true | _ => false)) = true := by
    rw [List.any_eq_true]
    rintro ⟨p, hp, hmine⟩
    exact hgone p hp (List.contains_iff_mem.mp (Bool.and_eq_true_iff.mp hmine).1)
  change execNetRequestTimeout i (.transfer tk) s = _
  unfold execNetRequestTimeout
  dsimp only
  rw [hfind, henv]
  dsimp only
  rw [if_neg (by simp [hactive, hpast]), if_pos hunacked]
  exact if_neg hheld

/-- The CompareAndSwap of a FENCE_ADV loop is given TIMEOUT after 10 ms. -/
theorem exec_hostRequestTimeout_of_loop (hactive : x.st = .active) (hcas : x.casValue.isSome = true)
    (hpast : tbPast s.tb x.tbSent 10000000 = true) : exec (.hostRequestTimeout i (some tk)) s =
      .next (xferStop (netTimeout s) i.val env x 0 (.status stTimeout 2 (xfSrc x.desc) 0)) := by
  change execHostRequestTimeout i (some tk) s = _
  unfold execHostRequestTimeout
  dsimp only
  rw [hfind, henv]
  exact if_pos ⟨hactive, hcas, hpast⟩

end

/-- No packet answers a contribution that has been forgotten. -/
theorem not_mem_src_of_mem_redForget {s : State} {seat ticket : Nat} {p : RedPkt} (hp : p ∈ (redForget s seat ticket).red) :
    RedSrc.xfer seat ticket ∉ p.src := by
  obtain ⟨q, -, rfl⟩ := List.mem_map.mp hp
  simp

/-! ### Replays of a link -/

/-- The times of a link's replays within the last millisecond. -/
def replayTimes (s : State) (link : Nat) : List Nat := (tget (fun _ => []) s.linkRate link).filter (fun t => decide (s.tb ≤ t + 1000000))

section
variable {s : State} {l : LinkId}

theorem exec_linkFlitError_of_idle (n : Fin 4) (hidle : bitOf (pget s P.linkFailedMask) l.val = true ∨ s.pins.inputGood = false) :
    exec (.linkFlitError l n) s = .next s := by
  change execLinkFlitError l n s = _
  unfold execLinkFlitError
  exact if_pos (hidle.symm.imp_left (congrArg not))

variable {n : Fin 4} (hpower : s.pins.inputGood = true) (hlink : bitOf (pget s P.linkFailedMask) l.val = false)
include hpower hlink

theorem exec_linkFlitError_of_fourth (hn : n.val = 3) : exec (.linkFlitError l n) s = .next (linkFail s l.val) := by
  change execLinkFlitError l n s = _
  unfold execLinkFlitError
  dsimp only
  rw [if_neg (by simp [hpower, hlink]), if_pos hn]

/-- A replay that is among a link's first 1,000 of a millisecond is noted and counted. -/
theorem exec_linkFlitError_of_replay (hn : n.val < 3)
    (hrate : (replayTimes s l.val).length < 1000) : exec (.linkFlitError l n) s =
      .next (pinc { s with linkRate := tset (fun _ => []) s.linkRate l.val (replayTimes s l.val ++ [s.tb]) } (P.linkReplays l.val)) := by
  change execLinkFlitError l n s = _
  unfold execLinkFlitError
  dsimp only
  rw [if_neg (by simp [hpower, hlink]), if_neg (by omega), if_neg (by rw [List.length_append]; exact Nat.not_lt.mpr hrate)]
  rfl

end

/-! ### A lent clock -/

/-- The waits during which the Cox may lower a seat's clock (07 R262). -/
def waitLends : CoreWait → Bool
  | .peg _ _ _ _ _ _ _ => true
  | .pegAny _ _ _ _ => true
  | .arrWait _ => true
  | _ => false

theorem exec_waitLend (s : State) (i : SeatId) : exec (.waitLend i) s = .next
    (if recovering s ∧ waitLends (seatOf s i.val).core.wait ∧ tbPast s.tb (seatOf s i.val).core.tbWait 50000 ∧ (seatOf s i.val).lentFrom = none then
      pinc (seatPut s i.val { seatClock s (seatOf s i.val) 500 with lentFrom := some (seatOf s i.val).clockMhz }) P.lendEvents else s) := by
  rw [apply_ite Host.Outcome.next]
  rfl

/-- Settles O32: each request by whether its time has passed, a replay by its number and its link's rate, a lent clock by whether the
device recovers. -/
theorem timeoutsAndLinks : Obligations.TimeoutsAndLinks := by
  refine ⟨fun s i rd w va ga sg fp hwait => ?_, fun s i p rest hstores hmode => ⟨fun hin hhold hpast => ?_, fun hearly => ?_⟩,
    fun s i tk x env hfind henv hactive =>
      ⟨fun hpast hunacked hgone => exec_netRequestTimeout_of_contribution hfind henv hactive hpast hunacked hgone,
        exec_netRequestTimeout_of_early_transfer hfind henv, exec_hostRequestTimeout_of_loop hfind henv hactive⟩,
    fun s i ticket => ⟨rfl, fun p => not_mem_src_of_mem_redForget⟩,
    fun s l n hpower hlink => ⟨fun hn hrate => ⟨_, exec_linkFlitError_of_replay hpower hlink hn hrate, pget_pinc_self _ _, rfl⟩,
      exec_linkFlitError_of_fourth hpower hlink⟩,
    fun s l n => exec_linkFlitError_of_idle n, fun s i hrec hwait hlent hpast => ?_, fun s i hrec => ?_⟩
  · have hcore : exec (.netRequestTimeout i .core) s = .next _ := congrArg Host.Outcome.next (coreTimeout_of_load hwait 100000 (timedInside s))
    have hhost : exec (.hostRequestTimeout i none) s = .next _ := congrArg Host.Outcome.next (coreTimeout_of_load hwait 10000000 inHostWindow)
    rw [hcore, hhost]
    refine ⟨fun hin hhold hpast => ?_, fun hno => ?_, fun hin hpast hhold => ?_, fun hno => ?_⟩
    · rw [if_pos ⟨hin, hpast, congrArg not hhold⟩]
      rfl
    · rw [if_neg]
      rintro ⟨hin, hpast, hhold⟩
      rcases hno with h | h | h
      · exact ne_true_of_eq_false h hin
      · exact ne_true_of_eq_false (congrArg not h) hhold
      · exact ne_true_of_eq_false h hpast
    · rw [if_pos ⟨hin, hpast, congrArg not hhold⟩]
      rfl
    · rw [if_neg fun h => ne_true_of_eq_false hno h.1]
  · rw [exec_netRequestTimeout_of_store hstores hmode, if_pos ⟨hin, hpast, congrArg not hhold⟩]
    rfl
  · rw [exec_netRequestTimeout_of_store hstores hmode, if_neg fun h => ne_true_of_eq_false hearly h.2.1]
  · have hlends : waitLends (seatOf s i.val).core.wait = true := by
      rcases hwait with ⟨_, _, _, _, _, _, _, h⟩ | ⟨_, _, _, _, h⟩ | ⟨_, h⟩ <;> rw [h] <;> rfl
    rw [exec_waitLend, if_pos ⟨hrec, hlends, hpast, hlent⟩]
    rfl
  · rw [exec_waitLend, if_neg fun h => ne_true_of_eq_false hrec h.1]

end Sys2Proof
end

section
/-! O33 to O36, facts they share: a fold that keeps a view of the state, sets of numbers, and what an interrupt cause and an error record
leave as it was (10 R353, 17 R561). -/
namespace Sys2Proof
open Sys2Proof.Machine

/-- A fold keeps what each of its steps keeps. -/
theorem foldl_keeps {α β : Type} (g : State → β) {f : State → α → State} (hf : ∀ s x, g (f s x) = g s) (l : List α) (s : State) :
    g (l.foldl f s) = g s := by
  induction l generalizing s with
  | nil => rfl
  | cons x l ih => exact (ih (f s x)).trans (hf s x)

/-! ### Sets of numbers -/

theorem mem_sAdd {l : List Nat} {k x : Nat} : x ∈ sAdd l k ↔ x ∈ l ∨ x = k := by
  induction l with
  | nil => simp [sAdd]
  | cons y l ih =>
    unfold sAdd
    split
    · simp only [List.mem_cons]; tauto
    · split
      · next hk => subst hk; simp only [List.mem_cons]; tauto
      · simp only [List.mem_cons, ih]; tauto

theorem mem_foldl_sAdd {l m : List Nat} {x : Nat} : x ∈ l.foldl sAdd m ↔ x ∈ m ∨ x ∈ l := by
  induction l generalizing m with
  | nil => simp
  | cons y l ih => rw [List.foldl_cons, ih, mem_sAdd, List.mem_cons]; tauto

theorem mem_sDel {l : List Nat} {k x : Nat} : x ∈ sDel l k ↔ x ∈ l ∧ x ≠ k := by
  simp [sDel]

/-! ### A cause raised and an error filed -/

/-- The state but for what raising a cause writes: the registers of a function and what is sent. -/
def outsideCauses (s : State) : State := { s with fnRegs := [], sent := [] }

theorem outsideCauses_msixSend (s : State) (fn vec : Nat) : outsideCauses (msixSend s fn vec) = outsideCauses s := by
  unfold msixSend
  split
  · rfl
  · split
    · rfl
    · rfl

theorem outsideCauses_raiseCause (s : State) (fn c : Nat) : outsideCauses (raiseCause s fn c) = outsideCauses s := by
  unfold raiseCause
  dsimp only
  split
  · rfl
  · split
    · rfl
    · exact outsideCauses_msixSend _ _ _

/-- The state but for what filing an error record writes: the log, its island's and its function's part, and the function's cause. -/
def outsideErrors (s : State) : State := { s with fnRegs := [], sent := [], errSeq := 0, errLog := [], islands := [], fns := [] }

theorem outsideErrors_fileError (s : State) (e : ErrRec) : outsideErrors (fileError s false e) = outsideErrors s := by
  unfold fileError
  dsimp only
  rw [if_neg Bool.false_ne_true]
  split
  · split
    · rfl
    · rfl
  · refine (congrArg outsideErrors (outsideCauses_raiseCause _ _ _) :).trans ?_
    split
    · rfl
    · rfl

section
variable (s : State) (fn c : Nat) (e : ErrRec)

@[simp] theorem raiseCause_octs : (raiseCause s fn c).octs = s.octs := (congrArg State.octs (outsideCauses_raiseCause s fn c) :)
@[simp] theorem raiseCause_mem : (raiseCause s fn c).mem = s.mem := (congrArg State.mem (outsideCauses_raiseCause s fn c) :)

@[simp] theorem octGet_raiseCause (k : Nat) : octGet (raiseCause s fn c) k = octGet s k := congrArg (tget _ · k) (raiseCause_octs s fn c)

@[simp] theorem fileError_regs : (fileError s false e).regs = s.regs := (congrArg State.regs (outsideErrors_fileError s e) :)
@[simp] theorem fileError_flash : (fileError s false e).flash = s.flash := (congrArg State.flash (outsideErrors_fileError s e) :)
@[simp] theorem fileError_chans : (fileError s false e).chans = s.chans := (congrArg State.chans (outsideErrors_fileError s e) :)

@[simp] theorem pget_fileError (k : Nat) : pget (fileError s false e) k = pget s k := congrArg (tget _ · k) (fileError_regs s e)
@[simp] theorem chanOf_fileError (k : Nat) : chanOf (fileError s false e) k = chanOf s k := congrArg (tget _ · k) (fileError_chans s e)

end

end Sys2Proof
end

section
/-! O33: reads, writes, patrol scrub and tracking of a channel (08 R268 to R273, R281; log 72). -/
namespace Sys2Proof
open Sys2Proof.Machine

/-! ### What an access leaves besides its channel -/

/-- The state without its channels and registers: what meeting a block leaves, but for the draw that names a check line given up. -/
def outsideChans (s : State) : State := { s with regs := [], chans := [], freeCtr := 0 }

theorem eq_of_outsideChans {s t : State} (h : outsideChans t = outsideChans s) :
    t = { s with regs := t.regs, chans := t.chans, freeCtr := t.freeCtr } :=
  congrArg (fun x => { x with regs := t.regs, chans := t.chans, freeCtr := t.freeCtr }) h

@[simp] theorem outsideChans_pset (s : State) (k v : Nat) : outsideChans (pset s k v) = outsideChans s := rfl
@[simp] theorem outsideChans_chanPut (s : State) (c : Nat) (d : Chan) : outsideChans (chanPut s c d) = outsideChans s := rfl

theorem sent_of_outsideChans {s t : State} (h : outsideChans t = outsideChans s) : t.sent = s.sent :=
  (congrArg State.sent h : (outsideChans t).sent = (outsideChans s).sent)

theorem mem_of_outsideChans {s t : State} (h : outsideChans t = outsideChans s) : t.mem = s.mem :=
  (congrArg State.mem h : (outsideChans t).mem = (outsideChans s).mem)

/-- Bytes read the same while the boot counter, under whose keys the cells stand, stays. -/
theorem cellPad_of_outsideChans {s t : State} (h : outsideChans t = outsideChans s) (hboot : pget t P.bootCounter = pget s P.bootCounter)
    (a : Nat) : cellPad t a = cellPad s a := by
  rw [eq_of_outsideChans h] at hboot ⊢
  unfold cellPad
  rw [hboot]
  rfl

theorem cellMask_of_outsideChans {s t : State} (h : outsideChans t = outsideChans s) (hboot : pget t P.bootCounter = pget s P.bootCounter)
    (a : Nat) (b : Bytes) : cellMask t a b = cellMask s a b := by
  simp only [cellMask, cellPad_of_outsideChans h hboot]

theorem cellRead_of_outsideChans {s t : State} (h : outsideChans t = outsideChans s) (hboot : pget t P.bootCounter = pget s P.bootCounter)
    (a n : Nat) : cellRead t a n = cellRead s a n := by
  have hmem : memRead t a n = memRead s a n := by simp only [memRead, memGet, mem_of_outsideChans h]
  unfold cellRead
  rw [hmem, cellMask_of_outsideChans h hboot]

/-! ### The check lines of a channel -/

section
variable (s : State) (c off n : Nat)

@[simp] theorem outsideChans_chanTouch : outsideChans (chanTouch s c off n) = outsideChans s := by
  refine foldl_keeps outsideChans (fun s i => ?_) _ s
  dsimp only
  split
  · rfl
  · split
    · rfl
    · rfl

@[simp] theorem pget_chanTouch (k : Nat) : pget (chanTouch s c off n) k = pget s k := by
  refine foldl_keeps (pget · k) (fun s i => ?_) _ s
  dsimp only
  split
  · rfl
  · split
    · rfl
    · rfl

/-- A channel but for the check lines that its controller keeps. -/
def linesAside (d : Chan) : Chan := { d with lines := [] }

theorem linesAside_chanTouch (j : Nat) : linesAside (chanOf (chanTouch s c off n) j) = linesAside (chanOf s j) := by
  refine foldl_keeps (fun s => linesAside (chanOf s j)) (fun s i => ?_) _ s
  dsimp only
  split
  · rfl
  · by_cases hj : j = c
    · subst hj
      split
      · simp [linesAside]
      · simp [linesAside]
    · split
      · rw [chanOf_chanPut_ne _ _ _ _ hj]
      · rw [chanOf_chanPut_ne _ _ _ _ hj]
        rfl

theorem chanOf_chanTouch_ne {j : Nat} (hj : j ≠ c) : chanOf (chanTouch s c off n) j = chanOf s j := by
  refine foldl_keeps (chanOf · j) (fun s i => ?_) _ s
  dsimp only
  split
  · rfl
  · split
    · exact chanOf_chanPut_ne _ _ _ _ hj
    · exact chanOf_chanPut_ne _ _ _ _ hj

@[simp] theorem st_chanTouch (j : Nat) : (chanOf (chanTouch s c off n) j).st = (chanOf s j).st :=
  (congrArg Chan.st (linesAside_chanTouch s c off n j) :)

@[simp] theorem poison_chanTouch (j : Nat) : (chanOf (chanTouch s c off n) j).poison = (chanOf s j).poison :=
  (congrArg Chan.poison (linesAside_chanTouch s c off n j) :)

@[simp] theorem bad_chanTouch (j : Nat) : (chanOf (chanTouch s c off n) j).bad = (chanOf s j).bad :=
  (congrArg Chan.bad (linesAside_chanTouch s c off n j) :)

@[simp] theorem chanWrong_chanTouch (j b : Nat) (k : ChanCheck) : chanWrong (chanTouch s c off n) j b k = chanWrong s j b k := by
  simp [chanWrong]

end

/-! ### What meeting a block does -/

/-- The CRC failures of an access, counted as it is repeated. -/
def crcCounted (s : State) (c n : Nat) : State := pset s (P.chCrcRetries c) (satAdd32 (pget s (P.chCrcRetries c)) n)

/-- A block found uncorrectable, noted and counted. -/
def wrongNoted (s : State) (c b : Nat) : State :=
  pinc (chanPut s c { chanOf s c with bad := sAdd (chanOf s c).bad b }) (P.chUncorrectable c)

section
variable (s : State) (c n : Nat)

@[simp] theorem outsideChans_crcCounted : outsideChans (crcCounted s c n) = outsideChans s := rfl
@[simp] theorem chanOf_crcCounted (j : Nat) : chanOf (crcCounted s c n) j = chanOf s j := rfl

@[simp] theorem crcRetries_crcCounted : pget (crcCounted s c n) (P.chCrcRetries c) = satAdd32 (pget s (P.chCrcRetries c)) n := pget_pset_self _ _ _

theorem pget_crcCounted_ne {k : Nat} (h : k ≠ P.chCrcRetries c) : pget (crcCounted s c n) k = pget s k := pget_pset_ne _ _ _ _ h

end

section
variable {s : State} {c b : Nat} {k : ChanCheck}

theorem chanErrors_of_fourth (hcrc : k.crcs.val = 4) : chanErrors s c b k = chanFail (crcCounted s c 3) c := by
  unfold chanErrors
  dsimp only
  rw [if_pos hcrc, hcrc]
  rfl

variable (hcrc : k.crcs.val < 4)
include hcrc

theorem chanErrors_of_repeated : chanErrors s c b k =
    if (chanOf s c).poison.contains b then crcCounted s c k.crcs.val
    else if chanWrong s c b k then wrongNoted (crcCounted s c k.crcs.val) c b
    else if k.error = .single then chanCorrected (crcCounted s c k.crcs.val) c
    else crcCounted s c k.crcs.val := by
  have hmin : min k.crcs.val 3 = k.crcs.val := by omega
  unfold chanErrors
  dsimp only
  rw [if_neg (by omega), hmin]
  rfl

theorem chanErrors_of_poisoned (hpoison : (chanOf s c).poison.contains b = true) : chanErrors s c b k = crcCounted s c k.crcs.val := by
  rw [chanErrors_of_repeated hcrc, if_pos hpoison]

variable (hpoison : (chanOf s c).poison.contains b = false)
include hpoison

theorem chanErrors_of_wrong (hwrong : chanWrong s c b k = true) : chanErrors s c b k = wrongNoted (crcCounted s c k.crcs.val) c b := by
  rw [chanErrors_of_repeated hcrc, if_neg (ne_true_of_eq_false hpoison), if_pos hwrong]

variable (hright : chanWrong s c b k = false)
include hright

theorem chanErrors_of_single (herror : k.error = .single) : chanErrors s c b k = chanCorrected (crcCounted s c k.crcs.val) c := by
  rw [chanErrors_of_repeated hcrc, if_neg (ne_true_of_eq_false hpoison), if_neg (ne_true_of_eq_false hright), if_pos herror]

theorem chanErrors_of_clean (herror : k.error = .none) : chanErrors s c b k = crcCounted s c k.crcs.val := by
  rw [chanErrors_of_repeated hcrc, if_neg (ne_true_of_eq_false hpoison), if_neg (ne_true_of_eq_false hright), if_neg (by rw [herror]; decide)]

end

/-- A corrected error counts once, whatever becomes of a channel that has met a thousand. -/
theorem corrected_chanCorrected (s : State) (c : Nat) : pget (chanCorrected s c) (P.chCorrected c) = satInc32 (pget s (P.chCorrected c)) := by
  have hretire : ∀ t : State, pget (chanRetireFree t c) (P.chCorrected c) = pget t (P.chCorrected c) := fun t => by
    unfold chanRetireFree chanRetire flashSpend
    rw [pget_fileError]
    dsimp only
    split
    · next h => split at h <;> cases h; rfl
    · rfl
  unfold chanCorrected retiredRecord
  dsimp only
  split
  · exact pget_pinc_self _ _
  · split
    · rw [hretire]; exact pget_pinc_self _ _
    · split
      · rw [pget_fileError]; exact pget_pinc_self _ _
      · split
        · rw [pget_fileError]; exact pget_pinc_self _ _
        · exact pget_pinc_self _ _

/-! ### CHANNEL_READ -/

/-- What a read of a block at an address answers. -/
def blockAnswered (s : State) (c a : Nat) : State :=
  if chanPoisoned s c a 64 then emit s (.packet a stPoisoned []) else emit s (.packet a stOk (cellRead s a 64))

theorem chanPoisoned_block {b : Nat} (hb : 64 * b < chanBytes) (s : State) (c : Nat) : chanPoisoned s c (chanBase c + 64 * b) 64 = true ↔
    (chanOf s c).st = .failed ∨ b ∈ (chanOf s c).poison ∨ b ∈ (chanOf s c).bad := by
  have hoff : (chanBase c + 64 * b) % 0x80000000 = 64 * b := by
    unfold chanBytes at hb
    unfold chanBase
    omega
  have hsame : ∀ k, (k * 64 < 64 * b + 64 ∧ 64 * b < k * 64 + 64) ↔ k = b := fun k => by omega
  unfold chanPoisoned
  rw [hoff]
  simp only [Bool.or_eq_true, beq_iff_eq, List.any_eq_true, List.mem_append, Bool.and_eq_true, decide_eq_true_eq, hsame,
    exists_eq_right]

/-- A block that a read finds right was not known to be uncorrectable. -/
theorem not_mem_bad_of_right {s : State} {c b : Nat} {k : ChanCheck} (hright : chanWrong s c b k = false) : b ∉ (chanOf s c).bad := fun h => by
  simp [chanWrong, h] at hright

/-- In service a channel reads and writes; a FAILED one does not. -/
theorem st_ne_failed_of_chanUsable {s : State} {c : Nat} (h : chanUsable s c = true) : (chanOf s c).st ≠ .failed := fun hfailed => by
  simp [chanUsable, hfailed] at h

theorem exec_channelRead_of_usable {s : State} {c : ChanId} {b : BitVec 25} (k : ChanCheck) (huse : chanUsable s c.val = true)
    (hb : 64 * b.toNat < chanBytes) (hup : s.start.islandsUp = true) : exec (.channelRead c b k) s =
      .next (blockAnswered (chanErrors (chanTouch s c.val (64 * b.toNat) 64) c.val b.toNat k) c.val (chanBase c.val + 64 * b.toNat)) := by
  change execChannelRead c b k s = _
  unfold execChannelRead chanServes
  dsimp only
  rw [if_neg (by simp [hup, hb]), if_neg (by simp [huse])]
  rfl

theorem blockAnswered_of_clean {s : State} {c b : Nat} (hb : 64 * b < chanBytes) (hst : (chanOf s c).st ≠ .failed) (hpoison : b ∉ (chanOf s c).poison)
    (hbad : b ∉ (chanOf s c).bad) : blockAnswered s c (chanBase c + 64 * b) =
      emit s (.packet (chanBase c + 64 * b) stOk (cellRead s (chanBase c + 64 * b) 64)) :=
  if_neg (by rw [chanPoisoned_block hb]; tauto)

theorem blockAnswered_of_marked {s : State} {c b : Nat} (hb : 64 * b < chanBytes) (hmark : b ∈ (chanOf s c).poison ∨ b ∈ (chanOf s c).bad) :
    blockAnswered s c (chanBase c + 64 * b) = emit s (.packet (chanBase c + 64 * b) stPoisoned []) :=
  if_pos ((chanPoisoned_block hb s c).mpr (.inr hmark))

theorem chUncorrectable_ne_chCrcRetries (c : Nat) : P.chUncorrectable c ≠ P.chCrcRetries c := by
  unfold P.chUncorrectable P.chCrcRetries pkey
  omega

theorem bootCounter_ne_chCrcRetries (c : Nat) : P.bootCounter ≠ P.chCrcRetries c := by
  unfold P.bootCounter P.chCrcRetries pkey
  omega

theorem bootCounter_ne_chUncorrectable (c : Nat) : P.bootCounter ≠ P.chUncorrectable c := by
  unfold P.bootCounter P.chUncorrectable pkey
  omega

theorem chCorrected_ne_chCrcRetries (c : Nat) : P.chCorrected c ≠ P.chCrcRetries c := by
  unfold P.chCorrected P.chCrcRetries pkey
  omega

section
variable (s : State) (c b n : Nat)

@[simp] theorem uncorrectable_crcCounted : pget (crcCounted s c n) (P.chUncorrectable c) = pget s (P.chUncorrectable c) :=
  pget_crcCounted_ne _ _ _ (chUncorrectable_ne_chCrcRetries c)

@[simp] theorem corrected_crcCounted : pget (crcCounted s c n) (P.chCorrected c) = pget s (P.chCorrected c) :=
  pget_crcCounted_ne _ _ _ (chCorrected_ne_chCrcRetries c)

@[simp] theorem bootCounter_crcCounted : pget (crcCounted s c n) P.bootCounter = pget s P.bootCounter :=
  pget_crcCounted_ne _ _ _ (bootCounter_ne_chCrcRetries c)

@[simp] theorem outsideChans_wrongNoted : outsideChans (wrongNoted s c b) = outsideChans s := rfl

@[simp] theorem uncorrectable_wrongNoted : pget (wrongNoted s c b) (P.chUncorrectable c) = satInc32 (pget s (P.chUncorrectable c)) := pget_pinc_self _ _

theorem chanOf_wrongNoted : chanOf (wrongNoted s c b) c = { chanOf s c with bad := sAdd (chanOf s c).bad b } := chanOf_chanPut_self _ _ _

theorem chanOf_wrongNoted_ne {j : Nat} (hj : j ≠ c) : chanOf (wrongNoted s c b) j = chanOf s j := chanOf_chanPut_ne _ _ _ _ hj

end

/-! ### Patrol scrub -/

/-- What patrol scrub makes of the block that it has met: an uncorrectable one is marked. -/
def patrolMarked (u : State) (c b : Nat) : State :=
  if (chanOf u c).bad.contains b ∧ (chanOf u c).st ≠ .failed
  then chanPut u c { chanOf u c with poison := sAdd (chanOf u c).poison b, bad := sDel (chanOf u c).bad b } else u

theorem exec_patrolScrubRead_of_usable {s : State} {c : ChanId} {b : U64} (k : ChanCheck) (huse : chanUsable s c.val = true)
    (hb : 64 * b.toNat < chanBytes) (hup : s.start.islandsUp = true) : exec (.patrolScrubRead (.chan c) b k) s =
      .next (patrolMarked (chanErrors (chanTouch s c.val (64 * b.toNat) 64) c.val b.toNat k) c.val b.toNat) := by
  change execPatrolScrubRead (.chan c) b k s = _
  unfold execPatrolScrubRead patrolBlock chanServes
  dsimp only
  rw [if_neg (by simp [hup]), if_neg (by simp [huse, hb])]
  rfl

/-! ### CHANNEL_TRACKING -/

theorem exec_channelTracking (s : State) (c : ChanId) : exec (.channelTracking c) s =
    .next (if chanUsable s c.val ∧ tbPast s.tb (chanOf s c.val).tbTrack 50000000 then chanPut s c.val { chanOf s c.val with tbTrack := s.tb } else s) := by
  rw [apply_ite Host.Outcome.next]
  rfl

/-! ### CHANNEL_WRITE -/

@[simp] theorem length_cellMask (s : State) (a : Nat) (b : Bytes) : (cellMask s a b).length = b.length := by simp [cellMask]

/-- The pads of its addresses, applied twice, leave a byte string as it was. -/
theorem cellMask_cellMask (s : State) (a : Nat) (b : Bytes) : cellMask s a (cellMask s a b) = b := by
  refine List.ext_getElem (by simp) fun i hi hb => ?_
  simp [cellMask, hb]

/-- A state with the memory, the channels and the counters of another. -/
def storedOn (s w : State) : State := { s with mem := w.mem, chans := w.chans, regs := w.regs, freeCtr := w.freeCtr }

section
variable (s : State) (a c : Nat) (b : Bytes)

theorem outsideChans_cellWrite : outsideChans (cellWrite s a (some c) b) = outsideChans (memWrite s a (cellMask s a b)) := by
  unfold cellWrite
  simp only [outsideChans_pset, outsideChans_chanPut, outsideChans_chanTouch]

theorem pget_cellWrite_ne {k : Nat} (hk : k ≠ P.chUncorrectable c) : pget (cellWrite s a (some c) b) k = pget s k := by
  unfold cellWrite
  dsimp only
  rw [pget_pset_ne _ _ _ _ hk]
  exact pget_chanTouch _ _ _ _ _

theorem chanOf_cellWrite_ne {j : Nat} (hj : j ≠ c) : chanOf (cellWrite s a (some c) b) j = chanOf s j := by
  unfold cellWrite
  dsimp only
  rw [chanOf_of_pset, chanOf_chanPut_ne _ _ _ _ hj, chanOf_chanTouch_ne _ _ _ _ hj]
  rfl

/-- A mark goes with a block that is written whole; one that is written in part keeps it, and takes it if it is uncorrectable. -/
theorem mem_poison_cellWrite (k : Nat) : k ∈ (chanOf (cellWrite s a (some c) b) c).poison ↔
    (k ∈ (chanOf s c).poison ∧ ¬(a % 0x80000000 ≤ k * 64 ∧ k * 64 + 64 ≤ a % 0x80000000 + b.length)) ∨
    (k ∈ (chanOf s c).bad ∧ k * 64 < a % 0x80000000 + b.length ∧ a % 0x80000000 < k * 64 + 64 ∧
      ¬(a % 0x80000000 ≤ k * 64 ∧ k * 64 + 64 ≤ a % 0x80000000 + b.length)) := by
  unfold cellWrite
  simp only [chanOf_of_pset, chanOf_chanPut_self, poison_chanTouch, bad_chanTouch, chanOf_of_memWrite, mem_foldl_sAdd, List.mem_filter,
    List.mem_append, Bool.and_eq_true, Bool.not_eq_true', ← Bool.not_eq_true, decide_eq_true_eq]
  tauto

/-- Beside its channel and the counters a write leaves all but the bytes stored. -/
theorem eq_of_cellWrite {s0 : State} (h : outsideChans s = outsideChans s0) : cellWrite s a (some c) b =
    { s0 with mem := (cellWrite s a (some c) b).mem, chans := (cellWrite s a (some c) b).chans, regs := (cellWrite s a (some c) b).regs
              freeCtr := (cellWrite s a (some c) b).freeCtr } := by
  generalize hw : cellWrite s a (some c) b = w
  have hview : outsideChans w = outsideChans (memWrite s a (cellMask s a b)) := hw ▸ outsideChans_cellWrite s a c b
  have hstored := congrArg (storedOn · w) hview
  have hkept := congrArg (storedOn · w) h
  exact hstored.trans hkept

theorem memGet_cellWrite_outside {x : Nat} (hx : x < a ∨ a + b.length ≤ x) : memGet (cellWrite s a (some c) b) x = memGet s x := by
  have hmem := mem_of_outsideChans (outsideChans_cellWrite s a c b)
  unfold memGet
  rw [hmem]
  exact memGet_memWrite_outside s a _ x (by rwa [length_cellMask])

theorem cellRead_cellWrite (hboot : P.bootCounter ≠ P.chUncorrectable c) : cellRead (cellWrite s a (some c) b) a b.length = b := by
  have hview := outsideChans_cellWrite s a c b
  rw [cellRead_of_outsideChans hview (pget_cellWrite_ne s a c b hboot)]
  have hread : memRead (memWrite s a (cellMask s a b)) a b.length = cellMask s a b := by
    simpa using memRead_memWrite s a (cellMask s a b)
  unfold cellRead
  rw [hread]
  exact cellMask_cellMask s a b

end

/-- A channel's marks stand as they did, and beside the channel and the counters nothing has changed. -/
structure MarksKept (c : Nat) (s t : State) : Prop where
  rest : outsideChans t = outsideChans s
  boot : pget t P.bootCounter = pget s P.bootCounter
  poison : (chanOf t c).poison = (chanOf s c).poison
  bad : ∀ b, b ∈ (chanOf t c).bad ↔ b ∈ (chanOf s c).bad
  others : ∀ j, j ≠ c → chanOf t j = chanOf s j

theorem MarksKept.trans {c : Nat} {s t u : State} (h : MarksKept c s t) (h' : MarksKept c t u) : MarksKept c s u where
  rest := h'.rest.trans h.rest
  boot := h'.boot.trans h.boot
  poison := h'.poison.trans h.poison
  bad := fun b => (h'.bad b).trans (h.bad b)
  others := fun j hj => (h'.others j hj).trans (h.others j hj)

theorem marksKept_chanTouch (s : State) (c off n : Nat) : MarksKept c s (chanTouch s c off n) where
  rest := outsideChans_chanTouch _ _ _ _
  boot := pget_chanTouch _ _ _ _ _
  poison := poison_chanTouch _ _ _ _ _
  bad := fun b => by rw [bad_chanTouch]
  others := fun j hj => chanOf_chanTouch_ne _ _ _ _ hj

theorem marksKept_crcCounted (s : State) (c n : Nat) : MarksKept c s (crcCounted s c n) where
  rest := rfl
  boot := bootCounter_crcCounted _ _ _
  poison := rfl
  bad := fun _ => .rfl
  others := fun _ _ => rfl

/-- The merging read of a write counts nothing but its repeats: an uncorrectable block that it meets is one already. -/
theorem marksKept_chanMerge (s : State) (c off n : Nat) : MarksKept c s (chanMerge s c off n {}) := by
  unfold chanMerge
  split
  · exact ⟨rfl, rfl, rfl, fun _ => .rfl, fun _ _ => rfl⟩
  · next b hpart =>
    split
    · next hmeets =>
      have hbad : b ∈ (chanOf s c).bad := by simpa [chanWrong] using hmeets.2.1
      have hput : chanOf (chanPut (crcCounted s c 0) c { chanOf s c with bad := sAdd (chanOf s c).bad b }) c =
        { chanOf s c with bad := sAdd (chanOf s c).bad b } := chanOf_chanPut_self _ _ _
      refine ⟨rfl, bootCounter_crcCounted s c 0, (congrArg Chan.poison hput :), fun x => ?_, fun j hj => chanOf_chanPut_ne _ _ _ _ hj⟩
      refine (iff_of_eq (congrArg (x ∈ Chan.bad ·) hput) :).trans (mem_sAdd.trans ⟨?_, .inl⟩)
      rintro (hx | rfl)
      · exact hx
      · exact hbad
    · next hmeets =>
      have hcount : chanErrors s c b {} = crcCounted s c 0 := by
        cases hpoison : (chanOf s c).poison.contains b with
        | true => exact chanErrors_of_poisoned (by decide) hpoison
        | false => exact chanErrors_of_clean (by decide) hpoison (Bool.eq_false_iff.mpr fun hwrong => hmeets ⟨by decide, hwrong, by rw [hpoison]; rfl⟩) rfl
      rw [hcount]
      exact marksKept_crcCounted s c 0

/-- What a write of `n` bytes at an offset meets before it stores: the merging read of a part of a block, and else nothing. -/
def writeMet (s : State) (c off n : Nat) : State := if (partBlock off n).isSome then chanMerge s c off n {} else crcCounted s c 0

theorem marksKept_writeMet (s : State) (c off n : Nat) : MarksKept c s (writeMet s c off n) := by
  unfold writeMet
  split
  · exact marksKept_chanMerge s c off n
  · exact marksKept_crcCounted s c 0

theorem exec_channelWrite_of_usable {s : State} {c : ChanId} {o : BitVec 31} {d : Bytes} (huse : chanUsable s c.val = true) (hd : d ≠ [])
    (hlen : o.toNat + d.length ≤ chanBytes) : exec (.channelWrite c o d {}) s =
      .next (cellWrite (writeMet (chanTouch s c.val o.toNat d.length) c.val o.toNat d.length) (chanBase c.val + o.toNat) (some c.val) d) := by
  change execChannelWrite c o d {} s = _
  unfold execChannelWrite chanServes
  dsimp only
  rw [if_neg (by simp [huse, hd, hlen]), if_neg (by decide)]
  rfl

/-- Settles O33: a read by what its block meets, patrol scrub by whether the block is right, a write by what its merging read and its
store leave, tracking by its time. -/
theorem channelAccess : Obligations.ChannelAccess := by
  intro s c huse
  have hst := st_ne_failed_of_chanUsable huse
  refine ⟨?_, fun b k hup hb hcrc hpoison => ⟨fun hwrong => ?_, fun hright herror => ?_⟩, fun o d hd hlen => ?_, fun hpast => ?_, fun hearly => ?_⟩
  · rintro b k a hb rfl hup
    have hexec := exec_channelRead_of_usable k huse hb hup
    have htouch := outsideChans_chanTouch s c.val (64 * b.toNat) 64
    have hsent := sent_of_outsideChans htouch
    have hmem := mem_of_outsideChans htouch
    refine ⟨fun hcrc hpoison hright herror => ?_, fun hcrc hpoison hright herror => ?_, fun hcrc hpoison hwrong => ?_,
      fun hcrc hpoison => ?_, fun hcrc => ?_⟩
    · have hbad := not_mem_bad_of_right hright
      rw [chanErrors_of_clean hcrc (by simpa using hpoison) (by simpa using hright) herror,
        blockAnswered_of_clean hb (by simpa using hst) (by simpa using hpoison) (by simpa using hbad),
        cellRead_of_outsideChans (s := s) (by simp) (by simp)] at hexec
      exact ⟨_, hexec, congrArg (· ++ _) hsent, hmem, by simp, by simp⟩
    · rw [chanErrors_of_single hcrc (by simpa using hpoison) (by simpa using hright) herror] at hexec
      exact ⟨_, _, hexec, rfl, hmem, by simp [corrected_chanCorrected]⟩
    · rw [chanErrors_of_wrong hcrc (by simpa using hpoison) (by simpa using hwrong),
        blockAnswered_of_marked hb (.inr (by simp [chanOf_wrongNoted, mem_sAdd]))] at hexec
      exact ⟨_, hexec, congrArg (· ++ _) hsent, by simp [chanOf_wrongNoted, mem_sAdd], by simp, hmem⟩
    · rw [chanErrors_of_poisoned hcrc (by simpa using hpoison), blockAnswered_of_marked hb (.inl (by simpa using hpoison))] at hexec
      exact ⟨_, hexec, congrArg (· ++ _) hsent, by simp, hmem, fun j hj => chanOf_chanTouch_ne _ _ _ _ hj⟩
    · rw [chanErrors_of_fourth hcrc] at hexec
      exact ⟨_, hexec, by simp, eq_of_outsideChans htouch⟩
  · have hexec := exec_patrolScrubRead_of_usable k huse hb hup
    rw [chanErrors_of_wrong hcrc (by simpa using hpoison) (by simpa using hwrong), patrolMarked,
      if_pos (by simpa [chanOf_wrongNoted, mem_sAdd] using hst)] at hexec
    refine ⟨_, hexec, by simp [mem_sAdd], by simp [mem_sDel], by simp,
      eq_of_outsideChans (by simp), fun j hj => ?_⟩
    rw [chanOf_chanPut_ne _ _ _ _ hj, chanOf_wrongNoted_ne _ _ _ hj]
    exact chanOf_chanTouch_ne _ _ _ _ hj
  · have hexec := exec_patrolScrubRead_of_usable k huse hb hup
    have hbad := not_mem_bad_of_right hright
    rw [chanErrors_of_clean hcrc (by simpa using hpoison) (by simpa using hright) herror, patrolMarked, if_neg (by simp [hbad])] at hexec
    exact ⟨_, hexec, by simp, by simp, eq_of_outsideChans (by simp)⟩
  · have hkept := (marksKept_chanTouch s c.val o.toNat d.length).trans (marksKept_writeMet _ c.val o.toNat d.length)
    have hoff : (chanBase c.val + o.toNat) % 0x80000000 = o.toNat := by
      have := List.length_pos_iff.mpr hd
      unfold chanBytes at hlen
      unfold chanBase
      omega
    refine ⟨_, exec_channelWrite_of_usable huse hd hlen, fun a ha => ?_, ?_, fun _ b => ?_, eq_of_cellWrite _ _ _ _ hkept.rest, fun j hj => ?_⟩
    · rw [memGet_cellWrite_outside _ _ _ _ ha]
      exact congrArg (tget memDefault · a) (mem_of_outsideChans hkept.rest)
    · exact cellRead_cellWrite _ _ _ _ (bootCounter_ne_chUncorrectable _)
    · rw [mem_poison_cellWrite, hoff, hkept.poison, hkept.bad]
    · rw [chanOf_cellWrite_ne _ _ _ _ hj, hkept.others j hj]
  · rw [exec_channelTracking, if_pos ⟨huse, hpast⟩]
  · rw [exec_channelTracking, if_neg fun h => ne_true_of_eq_false hearly h.2]

end Sys2Proof
end

section
/-! O34: maintenance, training and refresh of the channels (08 R264, R275 to R278, R280). -/
namespace Sys2Proof
open Sys2Proof.Machine

/-! ### The flash and a retired channel -/

/-- A write that the flash has room for in this hour is noted. -/
theorem flashSpend_of_room {s : State} (hroom : (s.flash.writes.filter (fun w => decide (s.tb < w + 3600000000000))).length < 1000) :
    flashSpend s = some { s with flash := { s.flash with writes := s.tb :: s.flash.writes.filter (fun w => decide (s.tb < w + 3600000000000)) } } :=
  if_pos hroom

theorem eq_of_flashSpend {s t : State} (h : flashSpend s = some t) : ∃ f, t = { s with flash := f } := by
  unfold flashSpend at h
  dsimp only at h
  split at h
  · exact ⟨_, (Option.some.inj h).symm⟩
  · cases h

section
variable (s : State) (c : Nat)

theorem chans_chanRetire : (chanRetire s c).chans = (chanPut s c { chanOf s c with st := .retired }).chans := by
  unfold chanRetire
  dsimp only
  split
  · next t ht =>
    obtain ⟨f, rfl⟩ := eq_of_flashSpend ht
    rfl
  · rfl

theorem chanOf_chanRetireFree (k : Nat) : chanOf (chanRetireFree s c) k = if k = c then { chanOf s c with st := .retired } else chanOf s k := by
  unfold chanRetireFree
  rw [chanOf_fileError]
  exact (congrArg (tget _ · k) (chans_chanRetire s c)).trans (chanOf_chanPut s c k _)

/-- The flash takes the number of a channel that is retired, and the time, while it has room. -/
theorem flash_chanRetireFree (hroom : (s.flash.writes.filter (fun w => decide (s.tb < w + 3600000000000))).length < 1000) :
    c ∈ (chanRetireFree s c).flash.retired ∧ s.tb ∈ (chanRetireFree s c).flash.writes := by
  have hspend := flashSpend_of_room (s := chanPut s c { chanOf s c with st := .retired }) hroom
  unfold chanRetireFree
  rw [fileError_flash]
  unfold chanRetire
  dsimp only
  rw [hspend]
  exact ⟨mem_sAdd.mpr (.inr rfl), List.mem_cons_self⟩

end

/-! ### CHANNEL_MAINT -/

/-- A retired or failed channel that is to be trained again: its record leaves both copies of the flash. -/
def chanForgotten (s : State) (c : Nat) : State :=
  { chanPut s c { chanOf s c with st := .untrained } with
    flash := { s.flash with retired := sDel s.flash.retired c, trained := tdel s.flash.trained c, trained2 := tdel s.flash.trained2 c } }

section
variable {s : State} {c : U8} (hup : fullUp s = true)
include hup

theorem exec_channelMaintRetire_of_fullUp : exec (.channelMaintRetire c) s = .next
    (if c.toNat < 96 ∧ (chanOf s c.toNat).st = .trained ∧ chanFree s c.toNat = true then pset (chanRetireFree s c.toNat) P.channelMaintResult 0
    else pset s P.channelMaintResult 0x0206) := by
  change execChannelMaintRetire c s = _
  unfold execChannelMaintRetire chanMaint
  dsimp only
  rw [if_pos hup]
  by_cases hc : c.toNat < 96
  · rw [if_neg (Nat.not_le.mpr hc), if_neg (c := 1 = 2 ∧ _) (by omega)]
    simp only [hc, true_and]
  · rw [if_pos (Nat.not_lt.mp hc), if_neg (fun h => hc h.1)]

theorem exec_channelMaintRetrain_of_fullUp : exec (.channelMaintRetrain c) s = .next
    (if c.toNat < 96 ∧ ((chanOf s c.toNat).st = .failed ∨ (chanOf s c.toNat).st = .retired) then pset (chanForgotten s c.toNat) P.channelMaintResult 0
    else pset s P.channelMaintResult 0x0206) := by
  change execChannelMaintRetrain c s = _
  unfold execChannelMaintRetrain chanMaint
  dsimp only
  rw [if_pos hup]
  by_cases hc : c.toNat < 96
  · rw [if_neg (Nat.not_le.mpr hc), if_neg (c := 2 = 1 ∧ _) (by omega)]
    simp only [hc, true_and]
    rfl
  · rw [if_pos (Nat.not_lt.mp hc), if_neg (fun h => hc h.1)]

end

/-! ### Training -/

/-- A channel whose training has passed holds zeros, and no block of it is marked. -/
def chanCleared (s : State) (c : Nat) : State :=
  memZero (chanPut s c { chanOf s c with st := .trained, poison := [], bad := [], lines := [] }) (chanBase c) chanBytes

structure TrainedOf (s : State) (c : Nat) (t : State) : Prop where
  st : (chanOf t c).st = .trained
  poison : (chanOf t c).poison = []
  bad : (chanOf t c).bad = []
  mem : t.mem = (chanCleared s c).mem
  outcome : pget t (P.trainingOutcome c) = 1 ∨ pget t (P.trainingOutcome c) = 2
  others : ∀ k, k ≠ c → chanOf t k = chanOf s k

theorem chanOf_chanCleared (s : State) (c : Nat) :
    chanOf (chanCleared s c) c = { chanOf s c with st := .trained, poison := [], bad := [], lines := [] } := by simp [chanCleared]

theorem chanOf_chanCleared_ne {s : State} {c k : Nat} (hk : k ≠ c) : chanOf (chanCleared s c) k = chanOf s k :=
  (chanOf_of_memZero _ _ _ _).trans (chanOf_chanPut_ne _ _ _ _ hk)

/-- A cleared channel whose patterns are restored, or made anew and noted in the flash, is trained. -/
theorem trainedOf_chanTrained (s : State) (c : Nat) (retry : Bool) : TrainedOf s c (chanTrained s c true retry) := by
  have hnew : ∀ t : State, t.chans = (chanCleared s c).chans → t.mem = (chanCleared s c).mem → pget t (P.trainingOutcome c) = 2 → TrainedOf s c t := by
    intro t hchans hmem hout
    have hchan : ∀ k, chanOf t k = chanOf (chanCleared s c) k := fun k => congrArg (tget _ · k) hchans
    exact ⟨by rw [hchan, chanOf_chanCleared], by rw [hchan, chanOf_chanCleared], by rw [hchan, chanOf_chanCleared], hmem, .inr hout,
      fun k hk => by rw [hchan, chanOf_chanCleared_ne hk]⟩
  unfold chanTrained
  dsimp only
  rw [if_neg (by decide)]
  split
  · refine ⟨by simp, by simp, by simp, rfl, .inl (pget_pset_self _ _ _), fun k hk => ?_⟩
    rw [chanOf_of_pset, chanOf_chanPut_ne _ _ _ _ hk, chanOf_of_freeNext, chanOf_of_memZero, chanOf_chanPut_ne _ _ _ _ hk]
  · split
    · next t ht =>
      obtain ⟨f, rfl⟩ := eq_of_flashSpend ht
      exact hnew _ rfl rfl (pget_pset_self _ _ _)
    · exact hnew _ rfl rfl (pget_pset_self _ _ _)

theorem exec_channelTrainingDone (s : State) (c : ChanId) (pass retry : Bool) : exec (.channelTrainingDone c pass retry) s =
    .next (if (chanOf s c.val).st = .untrained ∧ (pget s P.startStage = 2 ∨ pget s P.startStage = 5) then chanTrained s c.val pass retry else s) := by
  rw [apply_ite Host.Outcome.next]
  rfl

/-! ### Refresh -/

/-- The first of the two channels of a module device. -/
def deviceChan (d : Nat) : Nat := 4 * (d / 2) + 2 * (d % 2)

theorem exec_gddr7RefreshDoubling_of_up {s : State} (hup : s.start.islandsUp = true) (d : Fin 48) (hot : Bool) (v : Fin 1001) :
    exec (.gddr7RefreshDoubling d hot v) s =
      .next (pset (pset s (P.channelDeratePermille (deviceChan d.val)) (if hot then max 960 v.val else 1000))
        (P.channelDeratePermille (deviceChan d.val + 1)) (if hot then max 960 v.val else 1000)) := if_pos hup

theorem pget_derated (s : State) (x v c : Nat) (hc : c = x ∨ c = x + 1) :
    pget (pset (pset s (P.channelDeratePermille x) v) (P.channelDeratePermille (x + 1)) v) (P.channelDeratePermille c) = v := by
  rcases hc with rfl | rfl
  · rw [pget_pset]
    split
    · rfl
    · exact pget_pset_self _ _ _
  · exact pget_pset_self _ _ _

/-- Settles O34: maintenance by whether it is allowed, training by whether it passes, refresh by whether the device is hot. -/
theorem channelStates : Obligations.ChannelStates := by
  refine ⟨fun s c hup => ⟨fun hc hst hfree => ?_, fun hno => ?_, fun hc hst => ?_, fun hno => ?_⟩, fun s c retry hst hstage => ⟨?_, ?_⟩,
    fun s c pass retry hst => ?_, fun s d v hup => ?_⟩
  · refine ⟨_, (exec_channelMaintRetire_of_fullUp hup).trans (congrArg _ (if_pos ⟨hc, hst, hfree⟩)), ?_, flash_chanRetireFree s c.toNat,
      pget_pset_self _ _ _, fun k hk => ?_⟩
    · rw [chanOf_of_pset, chanOf_chanRetireFree, if_pos rfl]
    · rw [chanOf_of_pset, chanOf_chanRetireFree, if_neg hk]
  · rw [exec_channelMaintRetire_of_fullUp hup, if_neg]
    rintro ⟨hc, hst, hfree⟩
    rcases hno with h | h | h
    · exact Nat.not_le.mpr hc h
    · exact h hst
    · exact ne_true_of_eq_false h hfree
  · exact ⟨_, (exec_channelMaintRetrain_of_fullUp hup).trans (congrArg _ (if_pos ⟨hc, hst⟩)), (congrArg Chan.st (chanOf_chanPut_self _ _ _) :),
      fun hin => (mem_sDel.mp hin).2 rfl, tfind_tdel_self _ _, tfind_tdel_self _ _, pget_pset_self _ _ _, fun k hk => chanOf_chanPut_ne _ _ _ _ hk⟩
  · rw [exec_channelMaintRetrain_of_fullUp hup, if_neg]
    rintro ⟨hc, hst⟩
    rcases hno with h | h
    · exact Nat.not_le.mpr hc h
    · exact hst.elim h.1 h.2
  · have htrained := trainedOf_chanTrained s c.val retry
    have hmem : ∀ a, memGet (chanTrained s c.val true retry) a = if chanBase c.val ≤ a ∧ a < chanBase c.val + chanBytes then 0 else memGet s a :=
      fun a => (congrArg (tget memDefault · a) htrained.mem).trans (memGet_memZero _ _ _ _)
    exact ⟨_, (exec_channelTrainingDone s c true retry).trans (congrArg _ (if_pos ⟨hst, hstage⟩)), htrained.st, htrained.poison, htrained.bad,
      fun a hlo hhi => (hmem a).trans (if_pos ⟨hlo, hhi⟩), fun a hout => (hmem a).trans (if_neg (by omega)), htrained.outcome, htrained.others⟩
  · have hfailed : (chanOf (chanTrained s c.val false retry) c.val).st = .failed := by simp [chanTrained]
    exact ⟨_, (exec_channelTrainingDone s c false retry).trans (congrArg _ (if_pos ⟨hst, hstage⟩)), hfailed, pget_pset_self _ _ _, rfl⟩
  · rw [exec_channelTrainingDone, if_neg fun h => hst h.1]
  · refine ⟨_, _, exec_gddr7RefreshDoubling_of_up hup d true v, exec_gddr7RefreshDoubling_of_up hup d false v, fun c hc => ?_⟩
    have hread := fun (v : Nat) => pget_derated s (deviceChan d.val) v c hc
    rw [hread, hread, if_pos rfl, if_neg Bool.false_ne_true]
    exact ⟨le_max_left _ _, max_le (by decide) (Nat.lt_succ_iff.mp v.isLt), rfl⟩

end Sys2Proof
end

section
/-! O36: derating, scales, missed windows and pacing (08 R295 to R300; log 65). -/
namespace Sys2Proof
open Sys2Proof.Machine

/-! ### Derating -/

/-- The responses of a 10 ms interval, closed: more than half of one device's at Severe Overload derate the port to what it delivered. -/
def devloadClosed (q : CxlPort) (delivered : Nat) : CxlPort :=
  { q with responses := [], severe := []
           overload := if ∃ e ∈ q.severe, tget (fun _ => 0) q.responses e.1 < e.2 * 2 then some (max 54 delivered) else none }

theorem exec_devloadWindow_of_up {s : State} (hup : s.start.islandsUp = true) (p : CxlPortId) (d : U16) :
    exec (.devloadWindow p d) s = .next (capacitySettle (cxlPortPut s p.val (devloadClosed (cxlPortOf s p.val) d.toNat))) := by
  change execDevloadWindow p d s = _
  unfold execDevloadWindow
  dsimp only
  rw [if_pos hup]
  simp only [List.any_eq_true, decide_eq_true_eq]
  rfl

theorem exec_capacityChange_of_host {s : State} (hup : s.start.islandsUp = true) {g : Fin 7} {w : Fin 17} (hg : 1 ≤ g.val) (hw : 1 ≤ w.val) :
    exec (.capacityChange (.host g w)) s = .next (capacitySettle { s with hostGen := g.val, hostWidth := w.val }) := by
  change execCapacityChange (.host g w) s = _
  unfold execCapacityChange
  rw [if_neg (by simp [hup])]
  dsimp only
  rw [max_eq_right hg, max_eq_right hw]

theorem exec_capacityChange_of_ring_end {s : State} (hup : s.start.islandsUp = true) :
    exec (.capacityChange (.ring none)) s = .next (capacitySettle { s with ringDerate := none }) := by
  change execCapacityChange (.ring none) s = _
  unfold execCapacityChange
  rw [if_neg (by simp [hup])]
  rfl

/-! ### The hold of a scale's rise -/

/-- The state but for the scales in force, and what their change raises. -/
def outsideScales (s : State) : State := { s with octs := [], fnRegs := [], sent := [] }

theorem outsideScales_scalePut (s : State) (slot k v : Nat) : outsideScales (scalePut s slot k v) = outsideScales s := by
  unfold scalePut
  split
  · rfl
  · exact (congrArg outsideScales (outsideCauses_raiseCause _ _ _) :)

/-- Bringing the scales of a list of shells to a value, but for the rises that are held back. -/
theorem outsideScales_foldl_scalePut (held : Bool) (k v : Nat) (l : List (Nat × Shell)) (s : State) :
    outsideScales (l.foldl (fun s e => if held ∧ scaleOf s e.1 k < v then s else scalePut s e.1 k v) s) = outsideScales s := by
  refine foldl_keeps outsideScales (fun t e => ?_) l s
  split
  · rfl
  · exact outsideScales_scalePut _ _ _ _

/-- Once a class's capacity has held for 100 ms, settling its scale holds no rise back. -/
theorem scaleHold_scaleSettle_of_past {s : State} {k : Nat} (hpast : tbPast s.tb (tget (fun _ => 0) s.tbCapacity k) 100000000 = true) :
    (scaleSettle s k).scaleHold = sDel s.scaleHold k := by
  unfold scaleSettle
  extract_lets v held rises
  have hheld : (rises && held) = false := by simp [held, hpast]
  exact (congrArg State.scaleHold (outsideScales_foldl_scalePut held k v _ _) :).trans (if_neg (ne_true_of_eq_false hheld))

theorem exec_scaleRiseHoldExpiry (s : State) (k : Fin 12) : exec (.scaleRiseHoldExpiry k) s =
    .next (if s.scaleHold.contains k.val ∧ tbPast s.tb (tget (fun _ => 0) s.tbCapacity k.val) 100000000 then scaleSettle s k.val else s) := by
  rw [apply_ite Host.Outcome.next]
  rfl

/-! ### Numbers in byte strings -/

@[simp] theorem length_leBytes (w n : Nat) : (leBytes w n).length = w := by
  induction w generalizing n with
  | zero => rfl
  | succ w ih => simp [leBytes, ih]

theorem leNat_leBytes (w n : Nat) : leNat (leBytes w n) = n % 256 ^ w := by
  induction w generalizing n with
  | zero => simp [leBytes, leNat, Nat.mod_one]
  | succ w ih => rw [leBytes, leNat, ih, BitVec.toNat_ofNat, pow_succ' 256 w, Nat.mod_mul]

theorem leNat_lt (b : Bytes) : leNat b < 256 ^ b.length := by
  induction b with
  | nil => decide
  | cons x b ih =>
    have := x.isLt
    rw [leNat, List.length_cons, pow_succ']
    omega

theorem field_lt (b : Bytes) (o n : Nat) : field b o n < 256 ^ n :=
  (leNat_lt _).trans_le (Nat.pow_le_pow_right (by decide) (List.length_take_le _ _))

/-- The numbers of a list, written one behind the other, are read at their places. -/
theorem field_flatMap_leBytes {α : Type} (w : Nat) (f : α → Nat) (l : List α) (j : Nat) (hj : j < l.length) :
    field (l.flatMap (fun x => leBytes w (f x))) (w * j) w = f l[j] % 256 ^ w := by
  induction l generalizing j with
  | nil => exact absurd hj (Nat.not_lt_zero _)
  | cons x l ih =>
    unfold field slice
    rw [List.flatMap_cons]
    cases j with
    | zero => rw [Nat.mul_zero, List.drop_zero, List.take_left' (length_leBytes w _), leNat_leBytes, List.getElem_cons_zero]
    | succ j =>
      have hdrop : (leBytes w (f x) ++ l.flatMap (fun x => leBytes w (f x))).drop (w * (j + 1)) = (l.flatMap (fun x => leBytes w (f x))).drop (w * j) := by
        rw [Nat.mul_succ, Nat.add_comm, ← List.drop_drop, List.drop_left' (length_leBytes w _)]
      rw [hdrop, List.getElem_cons_succ]
      exact ih j (Nat.lt_of_succ_lt_succ hj)

/-! ### Missed windows -/

theorem satInc32_lt {n : Nat} (h : n < 2 ^ 32) : satInc32 n < 2 ^ 32 := by
  unfold satInc32
  split
  · omega
  · exact h

/-- MISSED of a class, after a window that the shell has missed in class `k`. -/
theorem field_missedPut (s : State) (slot k : Nat) {j : Nat} (hj : j < 12) : field (octGet (missedPut s slot k) (P.missed slot)) (4 * j) 4 =
    if j = k then satInc32 (field (octGet s (P.missed slot)) (4 * j) 4) else field (octGet s (P.missed slot)) (4 * j) 4 := by
  have hold : field (octGet s (P.missed slot)) (4 * j) 4 < 2 ^ 32 := field_lt _ _ _
  unfold missedPut
  dsimp only
  rw [octGet_octPut_self, field_flatMap_leBytes 4 _ _ j (by simpa using hj), List.getElem_range]
  refine Nat.mod_eq_of_lt ?_
  split
  · exact satInc32_lt hold
  · exact hold

section
variable {s : State} {x : RegSample} (hst : (shellOf s x.slot.val).st ≠ .free)

theorem exec_regulationWindow_of_served (hserved : windowHeld s = true ∨ effMin s x.slot.val x.cls.val * 10 ≤ paced s x.slot.val x.cls.val x.bytes) :
    exec (.regulationWindow [x]) s = .next s :=
  congrArg _ (if_pos (.inr hserved))

include hst

/-- A window that a shell has missed is counted, with or without the interrupt of its owner. -/
theorem exec_regulationWindow_of_missed (hopen : windowHeld s = false)
    (hless : paced s x.slot.val x.cls.val x.bytes < effMin s x.slot.val x.cls.val * 10) : ∃ t, exec (.regulationWindow [x]) s = .next t ∧
      octGet t (P.missed x.slot.val) = octGet (missedPut s x.slot.val x.cls.val) (P.missed x.slot.val) ∧ t.mem = s.mem := by
  have hmiss : ¬((shellOf s x.slot.val).st = .free ∨ windowHeld s = true ∨ paced s x.slot.val x.cls.val x.bytes ≥ effMin s x.slot.val x.cls.val * 10) := by
    rintro (h | h | h)
    · exact hst h
    · exact ne_true_of_eq_false hopen h
    · exact Nat.not_le.mpr hless h
  refine ⟨_, congrArg Host.Outcome.next (if_neg hmiss), ?_⟩
  split
  · split
    · exact ⟨octGet_raiseCause _ _ _ _, raiseCause_mem _ _ _⟩
    · exact ⟨rfl, rfl⟩
  · exact ⟨octGet_raiseCause _ _ _ _, raiseCause_mem _ _ _⟩

end

/-! ### Pacing -/

/-- After a list of entries has been written, a key that stands in the list reads as an entry of the list has it. -/
theorem tget_foldl_tset {α : Type} [DecidableEq α] {d : Nat → α} {p : α → Prop} {key : Nat} {l : List (Nat × α)} (hall : ∀ e ∈ l, e.1 = key → p e.2)
    {t : Tbl α} (hsome : (∃ e ∈ l, e.1 = key) ∨ p (tget d t key)) : p (tget d (l.foldl (fun t e => tset d t e.1 e.2) t) key) := by
  induction l generalizing t with
  | nil => simpa using hsome
  | cons e l ih =>
    refine ih (fun e he => hall e (List.mem_cons_of_mem _ he)) ?_
    rw [tget_tset]
    split
    · next hkey => exact .inr (hall e List.mem_cons_self hkey.symm)
    · next hkey =>
      refine hsome.imp_left ?_
      rintro ⟨e', he', hkey'⟩
      rcases List.mem_cons.mp he' with rfl | he'
      · exact absurd hkey'.symm hkey
      · exact ⟨e', he', hkey'⟩

/-- The caps that a slot of 1 µs sets give every shell its effective minimum at least. -/
theorem exec_pacingSlot_of_on {s : State} (hon : pget s P.pacingEnable ≠ 0) : ∃ t, exec .pacingSlot s = .next t ∧ t = { s with pace := t.pace } ∧
    ∀ e ∈ liveShells s, ∀ k < 12, effMin s e.1 k / 10 ≤ tget (fun _ => 0) t.pace (e.1 * 16 + k) := by
  refine ⟨_, if_neg hon, rfl, fun e he k hk => ?_⟩
  refine tget_foldl_tset (fun x hx hkey => ?_) (.inl ?_)
  · simp only [List.mem_flatMap, List.mem_map, List.mem_range] at hx
    obtain ⟨k', hk', sl, -, rfl⟩ := hx
    obtain ⟨rfl, rfl⟩ : sl = e.1 ∧ k' = k := by dsimp only at hkey; omega
    exact Nat.le_add_right _ _
  · exact ⟨_, List.mem_flatMap.mpr ⟨k, List.mem_range.mpr hk, List.mem_map.mpr ⟨e.1, List.mem_map.mpr ⟨e, he, rfl⟩, rfl⟩⟩, rfl⟩

/-- Settles O36: each input of a derating, the hold of a scale by its time, a window by what the shell received, and a slot by whether
pacing is on. -/
theorem regulation : Obligations.Regulation := by
  refine ⟨fun s p d hup => ⟨_, exec_devloadWindow_of_up hup p d, rfl, rfl⟩, fun s g w hup hg hw => exec_capacityChange_of_host hup hg hw,
    fun s hup => exec_capacityChange_of_ring_end hup, fun s k => ⟨fun hheld hpast => ?_, fun hno => ?_⟩, fun s k => rfl,
    fun s x hst => ⟨exec_regulationWindow_of_served, fun hopen hless => ?_⟩, fun s hoff => if_pos hoff, fun s => exec_pacingSlot_of_on⟩
  · refine ⟨_, (exec_scaleRiseHoldExpiry s k).trans (congrArg _ (if_pos ⟨List.contains_iff_mem.mpr hheld, hpast⟩)), ?_⟩
    rw [scaleHold_scaleSettle_of_past hpast, mem_sDel]
    exact fun h => h.2 rfl
  · rw [exec_scaleRiseHoldExpiry, if_neg]
    rintro ⟨hheld, hpast⟩
    rcases hno with h | h
    · exact h (List.contains_iff_mem.mp hheld)
    · exact ne_true_of_eq_false h hpast
  · obtain ⟨t, hexec, hoct, hmem⟩ := exec_regulationWindow_of_missed hst hopen hless
    refine ⟨t, hexec, ?_, fun k hk hne => ?_, hmem⟩
    · rw [hoct, field_missedPut _ _ _ x.cls.isLt, if_pos rfl]
    · rw [hoct, field_missedPut _ _ _ hk, if_neg hne]

end Sys2Proof
end

section
/-! O35: the commit of CXL ranges, their scrub, and the CXL ports (08 R282, R285 to R289, 19 R617). A commit refused with 0x0208 changes
nothing (log 70). -/
namespace Sys2Proof
open Sys2Proof.Machine

/-! ### Folds over numbers -/

section
variable {V : Type} {view : State → Nat → V} {f : State → Nat → State} {j : Nat} (hne : ∀ s i, j ≠ i → view (f s i) j = view s j)
include hne

/-- A fold whose steps each touch their own place leaves the places that are not in its list. -/
theorem foldl_at_not_mem {l : List Nat} (hj : j ∉ l) (s : State) : view (l.foldl f s) j = view s j := by
  induction l generalizing s with
  | nil => rfl
  | cons i l ih =>
    exact (ih (List.not_mem_of_not_mem_cons hj) (f s i)).trans (hne s i (List.ne_of_not_mem_cons hj))

/-- A place of its list stands, after such a fold, as its own step leaves it. -/
theorem foldl_at_mem {inv : State → Prop} {v : V} (hinv : ∀ s i, inv s → inv (f s i)) (hself : ∀ s, inv s → view (f s j) j = v) {l : List Nat}
    (hj : j ∈ l) {s : State} (hs : inv s) : view (l.foldl f s) j = v := by
  induction l generalizing s with
  | nil => cases hj
  | cons i l ih =>
    by_cases hl : j ∈ l
    · exact ih hl (hinv s i hs)
    · obtain rfl : j = i := (List.mem_cons.mp hj).resolve_right hl
      exact (foldl_at_not_mem hne hl _).trans (hself s hs)

end

/-! ### What settling the capacities leaves -/

/-- The state but for the capacities, and what follows them. -/
def outsideCapacity (s : State) : State := { s with regs := [], tbCapacity := [], scaleHold := [], octs := [], fnRegs := [], sent := [] }

theorem outsideCapacity_scaleSettle (s : State) (k : Nat) : outsideCapacity (scaleSettle s k) = outsideCapacity s := by
  unfold scaleSettle
  extract_lets v held rises
  exact (congrArg outsideCapacity (outsideScales_foldl_scalePut held k v _ _) :)

theorem pget_scaleSettle (s : State) (k j : Nat) : pget (scaleSettle s k) j = pget s j := by
  unfold scaleSettle
  extract_lets v held rises
  exact (congrArg (pget · j) (outsideScales_foldl_scalePut held k v _ _) :)

theorem outsideCapacity_capacitySettle (s : State) : outsideCapacity (capacitySettle s) = outsideCapacity s := by
  unfold capacitySettle
  split
  · rfl
  · refine foldl_keeps outsideCapacity (fun t k => ?_) _ s
    dsimp only
    split
    · exact outsideCapacity_scaleSettle t k
    · exact outsideCapacity_scaleSettle _ k

theorem pget_capacitySettle (s : State) {j : Nat} (hj : ∀ k, j ≠ P.regCapacity k) : pget (capacitySettle s) j = pget s j := by
  unfold capacitySettle
  split
  · rfl
  · refine foldl_keeps (pget · j) (fun t k => ?_) _ s
    dsimp only
    split
    · exact pget_scaleSettle t k j
    · exact (pget_scaleSettle _ k j).trans (pget_pset_ne t _ _ _ (hj k))

@[simp] theorem cxlPortOf_capacitySettle (s : State) (p : Nat) : cxlPortOf (capacitySettle s) p = cxlPortOf s p :=
  (congrArg (cxlPortOf · p) (outsideCapacity_capacitySettle s) :)

/-! ### Parameters -/

theorem cxlRangeState_injective {i j : Nat} (h : P.cxlRangeState i = P.cxlRangeState j) : i = j := by
  unfold P.cxlRangeState pkey at h
  omega

theorem cxlRangeState_ne_cxlResult (i : Nat) : P.cxlRangeState i ≠ P.cxlResult := by
  unfold P.cxlRangeState P.cxlResult pkey
  omega

theorem cxlRangeState_ne_regCapacity {i : Nat} (hi : i < 16) (k : Nat) : P.cxlRangeState i ≠ P.regCapacity k := by
  unfold P.cxlRangeState P.regCapacity pkey
  omega

/-! ### A commit: checked, refused, taken -/

theorem exec_cxlCommit_of_fullUp {s : State} (hup : fullUp s = true) : exec .cxlCommit s = .next (cxlCommitWrite s) := if_pos hup

theorem tfind_eq_none {α : Type} {t : Tbl α} {k : Nat} (h : ∀ e ∈ t, e.1 ≠ k) : tfind t k = none := by
  induction t with
  | nil => rfl
  | cons e t ih => exact (if_neg (h e List.mem_cons_self)).trans (ih fun e he => h e (List.mem_cons_of_mem _ he))

/-- What is staged, without the records of the ranges: they read as the active ones again. -/
def rangesUnstaged (t : Tbl Bytes) : Tbl Bytes := t.filter (fun e => !((List.range 16).any (fun i => e.1 == P.cxlRange i)))

theorem tfind_rangesUnstaged (t : Tbl Bytes) {i : Nat} (hi : i < 16) : tfind (rangesUnstaged t) (P.cxlRange i) = none := by
  refine tfind_eq_none fun e he hkey => ?_
  have hstays := (List.mem_filter.mp he).2
  have hrange : (List.range 16).any (fun i => e.1 == P.cxlRange i) = true :=
    List.any_eq_true.mpr ⟨i, List.mem_range.mpr hi, beq_iff_eq.mpr hkey⟩
  rw [hrange] at hstays
  exact Bool.false_ne_true hstays

theorem cxlResult_cxlRefuse (s : State) (code : Nat) : pget (cxlRefuse s code) P.cxlResult = code := (pget_pset_self s P.cxlResult code :)

theorem cxlCommitWrite_of_running {s : State} (hrun : s.cxlRun ≠ none) :
    cxlCommitWrite s = { pset s P.cxlResult 0x020B with stagedOcts := rangesUnstaged s.stagedOcts } :=
  if_pos (Option.isSome_iff_ne_none.mpr hrun)

theorem cxlCommitWrite_of_idle {s : State} (hrun : s.cxlRun = none) :
    cxlCommitWrite s = { s with cxlRun := some { staged := (List.range 16).map (rangeStaged s) } } := if_neg (by simp [hrun])

section
variable {s : State} {r : CxlRun} (hrun : s.cxlRun = some r)
include hrun

theorem exec_cxlCheckDone_of_checking (hcheck : r.checking = true) : exec .cxlCheckDone s = .next
    (if cxlCode s r.staged ≠ 0 then cxlRefuse s (cxlCode s r.staged)
    else if (rngChanged s r.staged).filter (fun i => rngEnable (r.staged.getD i 0)) = [] then cxlTake s r.staged (rngChanged s r.staged)
    else { s with cxlRun := some { r with checking := false, changed := rngChanged s r.staged
                                          todo := (rngChanged s r.staged).filter (fun i => rngEnable (r.staged.getD i 0)) } }) := by
  change execCxlCheckDone s = _
  unfold execCxlCheckDone
  rw [hrun]
  dsimp only
  rw [if_neg (by simp [hcheck])]
  split
  · rfl
  · split
    · rfl
    · rfl

variable {i : Fin 16} (hi : i.val ∈ r.todo)
include hi

theorem exec_cxlDecoderCommitDone_refused : exec (.cxlDecoderCommitDone i false) s = .next (cxlRefuse s 0x0208) := by
  change execCxlDecoderCommitDone i false s = _
  unfold execCxlDecoderCommitDone
  rw [hrun]
  dsimp only
  rw [if_neg (by simpa using hi), if_pos (by decide)]

theorem exec_cxlDecoderCommitDone_committed : exec (.cxlDecoderCommitDone i true) s = .next
    (if r.todo.filter (· != i.val) = [] then cxlTake s r.staged r.changed
    else { s with cxlRun := some { r with todo := r.todo.filter (· != i.val) } }) := by
  change execCxlDecoderCommitDone i true s = _
  unfold execCxlDecoderCommitDone
  rw [hrun]
  dsimp only
  rw [if_neg (by simpa using hi), if_neg (by decide)]
  split
  · rfl
  · rfl

end

/-- A range as a commit leaves it: its record, its state, and whether it is to be scrubbed. -/
def rangeStands (s : State) (i : Nat) : Nat × Nat × Bool := (rngOf s i, pget s (P.cxlRangeState i), s.cxlScrub.contains i)

/-- One changed range takes its staged record. -/
def rangeTake (l : List Nat) (s : State) (i : Nat) : State :=
  let r := rngTaken s (l.getD i 0)
  let s1 := rangePut s i r
  if rngEnable r then { pset s1 (P.cxlRangeState i) 1 with cxlScrub := sAdd s1.cxlScrub i }
  else { pset s1 (P.cxlRangeState i) 0 with cxlScrub := sDel s1.cxlScrub i }

/-- Taking the owner out of a record leaves whether it is enabled. -/
theorem rngEnable_rngTaken (s : State) (r : Nat) : rngEnable (rngTaken s r) = rngEnable r := by
  have hdiv : (r - rngOwner r * 2 ^ 242 + 0x3F * 2 ^ 242) / 2 ^ 248 = r / 2 ^ 248 := by
    unfold rngOwner bitsOf
    rw [Nat.shiftRight_eq_div_pow]
    omega
  unfold rngTaken
  split
  · have hbit := congrArg (Nat.testBit · 7) hdiv
    rwa [Nat.testBit_div_two_pow, Nat.testBit_div_two_pow] at hbit
  · rfl

theorem rngTaken_of_owned {s : State} {r : Nat}
    (h : rngOwner r ≥ 32 ∨ ((shellOf s (rngOwner r)).st ≠ .free ∧ (shellOf s (rngOwner r)).st ≠ .releasing)) : rngTaken s r = r := by
  refine if_neg ?_
  rintro ⟨-, howner, hgone⟩
  rcases h with h | ⟨hfree, hreleasing⟩
  · omega
  · exact hgone.elim hfree hreleasing

section
variable (l : List Nat) (s : State) (i : Nat)

theorem rangeTake_of_enabled (hon : rngEnable (l.getD i 0) = true) : rangeTake l s i =
    { pset (rangePut s i (rngTaken s (l.getD i 0))) (P.cxlRangeState i) 1 with cxlScrub := sAdd s.cxlScrub i } :=
  if_pos ((rngEnable_rngTaken _ _).trans hon)

theorem rangeTake_of_disabled (hoff : rngEnable (l.getD i 0) = false) : rangeTake l s i =
    { pset (rangePut s i (rngTaken s (l.getD i 0))) (P.cxlRangeState i) 0 with cxlScrub := sDel s.cxlScrub i } :=
  if_neg (ne_true_of_eq_false ((rngEnable_rngTaken _ _).trans hoff))

theorem rangeTake_shells : (rangeTake l s i).shells = s.shells := by
  cases hon : rngEnable (l.getD i 0) with
  | true => rw [rangeTake_of_enabled l s i hon]; rfl
  | false => rw [rangeTake_of_disabled l s i hon]; rfl

theorem rangeTake_stagedOcts : (rangeTake l s i).stagedOcts = s.stagedOcts := by
  cases hon : rngEnable (l.getD i 0) with
  | true => rw [rangeTake_of_enabled l s i hon]; rfl
  | false => rw [rangeTake_of_disabled l s i hon]; rfl

theorem rngOf_rangePut (r j : Nat) : rngOf (rangePut s i r) j = if j = i then r else rngOf s j := tget_tset _ _ _ _ _

theorem rangeStands_rangeTake_self : rangeStands (rangeTake l s i) i =
    (rngTaken s (l.getD i 0), if rngEnable (l.getD i 0) then 1 else 0, rngEnable (l.getD i 0)) := by
  have hput := (rngOf_rangePut s i (rngTaken s (l.getD i 0)) i).trans (if_pos rfl)
  have hset := fun (v : Nat) => pget_pset_self (rangePut s i (rngTaken s (l.getD i 0))) (P.cxlRangeState i) v
  cases hon : rngEnable (l.getD i 0) with
  | true =>
    rw [rangeTake_of_enabled l s i hon]
    exact Prod.ext hput (Prod.ext (hset 1) (List.contains_iff_mem.mpr (mem_sAdd.mpr (.inr rfl))))
  | false =>
    rw [rangeTake_of_disabled l s i hon]
    exact Prod.ext hput (Prod.ext (hset 0) (Bool.eq_false_iff.mpr fun h => (mem_sDel.mp (List.contains_iff_mem.mp h)).2 rfl))

theorem rangeStands_rangeTake_ne {j : Nat} (hj : j ≠ i) : rangeStands (rangeTake l s i) j = rangeStands s j := by
  have hput := (rngOf_rangePut s i (rngTaken s (l.getD i 0)) j).trans (if_neg hj)
  have hset := fun (v : Nat) => pget_pset_ne (rangePut s i (rngTaken s (l.getD i 0))) (P.cxlRangeState i) (P.cxlRangeState j) v
    (fun h => hj (cxlRangeState_injective h))
  cases hon : rngEnable (l.getD i 0) with
  | true =>
    rw [rangeTake_of_enabled l s i hon]
    have hscrub : (sAdd s.cxlScrub i).contains j = s.cxlScrub.contains j := Bool.eq_iff_iff.mpr (by simp [mem_sAdd, hj])
    exact Prod.ext hput (Prod.ext (hset 1) hscrub)
  | false =>
    rw [rangeTake_of_disabled l s i hon]
    have hscrub : (sDel s.cxlScrub i).contains j = s.cxlScrub.contains j := Bool.eq_iff_iff.mpr (by simp [mem_sDel, hj])
    exact Prod.ext hput (Prod.ext (hset 0) hscrub)

variable (ch : List Nat)

theorem rangeStands_cxlTake : rangeStands (cxlTake s l ch) i = rangeStands (ch.foldl (rangeTake l) s) i := by
  have hstate := pget_pset_ne (ch.foldl (rangeTake l) s) P.cxlResult _ 0 (cxlRangeState_ne_cxlResult i)
  exact Prod.ext rfl (Prod.ext hstate rfl)

theorem cxlResult_cxlTake : pget (cxlTake s l ch) P.cxlResult = 0 := (pget_pset_self (ch.foldl (rangeTake l) s) P.cxlResult 0 :)

theorem rangeStands_cxlTake_of_mem (hi : i ∈ ch) : rangeStands (cxlTake s l ch) i =
    (rngTaken s (l.getD i 0), if rngEnable (l.getD i 0) then 1 else 0, rngEnable (l.getD i 0)) := by
  rw [rangeStands_cxlTake]
  refine foldl_at_mem (inv := fun t => t.shells = s.shells) (fun t k hk => rangeStands_rangeTake_ne l t k hk)
    (fun t k ht => (rangeTake_shells l t k).trans ht) (fun t ht => ?_) hi rfl
  have htaken : rngTaken t (l.getD i 0) = rngTaken s (l.getD i 0) := by
    unfold rngTaken shellOf
    rw [ht]
  rw [rangeStands_rangeTake_self, htaken]

theorem rangeStands_cxlTake_of_not_mem (hi : i ∉ ch) : rangeStands (cxlTake s l ch) i = rangeStands s i := by
  rw [rangeStands_cxlTake]
  exact foldl_at_not_mem (fun t k hk => rangeStands_rangeTake_ne l t k hk) hi s

theorem cxlTake_stagedOcts : (cxlTake s l ch).stagedOcts = s.stagedOcts := foldl_keeps State.stagedOcts (rangeTake_stagedOcts l) ch s

end

/-! ### The scrub of a range -/

theorem eq_of_cxlRunScrubbed (s : State) (i : Nat) : ∃ r, cxlRunScrubbed s i = { s with cxlRun := r } := by
  unfold cxlRunScrubbed
  split
  · split
    · exact ⟨_, rfl⟩
    · exact ⟨_, rfl⟩
  · exact ⟨_, rfl⟩

theorem exec_cxlRangeScrubDone_of_scrubbing {s : State} {i : Fin 16} (hscrub : i.val ∈ s.cxlScrub) (hstate : pget s (P.cxlRangeState i.val) = 1) :
    exec (.cxlRangeScrubDone i) s = .next (cxlRunScrubbed (pset (memZero { s with cxlScrub := sDel s.cxlScrub i.val }
      (cxlWindow + rngBase (rngOf s i.val) * 2 ^ 28) (rngSize (rngOf s i.val) * 2 ^ 28)) (P.cxlRangeState i.val) 2) i.val) :=
  if_pos ⟨List.contains_iff_mem.mpr hscrub, hstate⟩

/-! ### Enumeration -/

theorem exec_cxlRescan_of_fullUp {s : State} (hup : fullUp s = true) (m : U8) : exec (.cxlRescan m) s = .next (cxlRescanWrite s m.toNat) := if_pos hup

/-- A port whose enumeration begins again, with its CXL_PERST# driven low. -/
def portRescan (mask : Nat) (s : State) (p : Nat) : State :=
  if bitOf mask p then
    let s1 := cxlPortPut s p { cxlPortOf s p with scanning := true, enumerated := false, up := false, devs := [] }
    { s1 with pins := { s1.pins with cxlPerst := setBitOf s1.pins.cxlPerst p true } }
  else s

theorem cxlRescanWrite_of_targeted {s : State} {mask : Nat} (h : ∃ p < 8, bitOf mask p = true ∧ ∃ i < 16, rngOnPort (rngOf s i) p = true) :
    cxlRescanWrite s mask = pset s P.cxlResult 0x020C := by
  obtain ⟨p, hp, hbit, i, hi, hon⟩ := h
  refine if_pos (List.any_eq_true.mpr ⟨p, List.mem_range.mpr hp, ?_⟩)
  rw [hbit, Bool.true_and]
  exact List.any_eq_true.mpr ⟨i, List.mem_range.mpr hi, hon⟩

theorem cxlRescanWrite_of_untargeted {s : State} {mask : Nat} (h : ∀ p < 8, bitOf mask p = true → ∀ i < 16, rngOnPort (rngOf s i) p = false) :
    cxlRescanWrite s mask = (List.range 8).foldl (portRescan mask) (pset s P.cxlResult 0) := by
  refine if_neg fun hany => ?_
  obtain ⟨p, hp, hport⟩ := List.any_eq_true.mp hany
  obtain ⟨hbit, hrange⟩ := Bool.and_eq_true_iff.mp hport
  obtain ⟨i, hi, hon⟩ := List.any_eq_true.mp hrange
  exact ne_true_of_eq_false (h p (List.mem_range.mp hp) hbit i (List.mem_range.mp hi)) hon

section
variable (mask : Nat) (s : State)

theorem portRescan_regs (p : Nat) : (portRescan mask s p).regs = s.regs := by
  unfold portRescan
  split
  · rfl
  · rfl

theorem cxlPortOf_portRescan_ne {p q : Nat} (hq : q ≠ p) : cxlPortOf (portRescan mask s p) q = cxlPortOf s q := by
  unfold portRescan
  split
  · exact cxlPortOf_cxlPortPut_ne s p q _ hq
  · rfl

variable {mask} {p : Nat}

theorem cxlPortOf_rescan_of_masked (hbit : bitOf mask p = true) (hp : p < 8) :
    (cxlPortOf ((List.range 8).foldl (portRescan mask) s) p).scanning = true ∧ (cxlPortOf ((List.range 8).foldl (portRescan mask) s) p).up = false := by
  have hview : (fun q : CxlPort => (q.scanning, q.up)) (cxlPortOf ((List.range 8).foldl (portRescan mask) s) p) = (true, false) := by
    refine foldl_at_mem (view := fun s p => (fun q : CxlPort => (q.scanning, q.up)) (cxlPortOf s p)) (inv := fun _ => True)
      (fun t k hk => by rw [cxlPortOf_portRescan_ne mask t hk]) (fun _ _ _ => trivial) (fun t _ => ?_) (List.mem_range.mpr hp) trivial
    unfold portRescan
    rw [if_pos hbit]
    exact congrArg (fun q : CxlPort => (q.scanning, q.up)) (cxlPortOf_cxlPortPut_self t p _)
  exact ⟨congrArg Prod.fst hview, congrArg Prod.snd hview⟩

theorem cxlPortOf_rescan_of_unmasked (hbit : bitOf mask p = false) :
    cxlPortOf ((List.range 8).foldl (portRescan mask) s) p = cxlPortOf s p := by
  refine foldl_keeps (cxlPortOf · p) (fun t k => ?_) _ s
  by_cases hk : p = k
  · subst hk
    unfold portRescan
    rw [if_neg (ne_true_of_eq_false hbit)]
  · exact cxlPortOf_portRescan_ne mask t hk

end

theorem exec_cxlPortEnumerated_of_scanning {s : State} {p : CxlPortId} (l : CxlLink) (hscan : (cxlPortOf s p.val).scanning = true)
    (hreset : (islandOf s (2344 + p.val)).st ≠ .inReset) : ∃ t devs, exec (.cxlPortEnumerated p (some l)) s = .next t ∧
      cxlPortOf t p.val = { enumerated := true, up := true, rate := if l.fast then 64 else 32, width := if l.wide then 8 else 4, switch := l.switch
                            devs := devs } := by
  refine ⟨_, l.devs.map (fun d => { index := d.1.val, type := d.2.1.val, units := d.2.2.toNat }), if_neg (by simp [hscan, hreset]), ?_⟩
  rw [cxlPortOf_capacitySettle]
  exact cxlPortOf_cxlPortPut_self _ _ _

/-! ### A port that goes down -/

theorem rangeAt_lt {s : State} {ga i : Nat} (h : rangeAt s ga = some i) : i < 16 := List.mem_range.mp (List.mem_of_find?_eq_some h)

/-- One range of a port that goes down. -/
def rangeOffline (s : State) (i : Nat) : State := cxlRunScrubbed { pset s (P.cxlRangeState i) 3 with cxlScrub := sDel s.cxlScrub i } i

theorem pget_rangeOffline (s : State) (i j : Nat) :
    pget (rangeOffline s i) (P.cxlRangeState j) = if j = i then 3 else pget s (P.cxlRangeState j) := by
  obtain ⟨r, hr⟩ := eq_of_cxlRunScrubbed { pset s (P.cxlRangeState i) 3 with cxlScrub := sDel s.cxlScrub i } i
  unfold rangeOffline
  rw [hr]
  refine (pget_pset s (P.cxlRangeState i) (P.cxlRangeState j) 3).trans (if_congr ?_ rfl rfl)
  exact ⟨cxlRangeState_injective, congrArg _⟩

/-- The ranges of a port that goes down are OFFLINE, and what waits for one is answered TIMEOUT. -/
theorem portDown_ends (s : State) (p : Nat) : ∃ t f, portDown s p = seatsTimeout t (s.seats.map (·.1)) f ∧ (cxlPortOf t p).up = false ∧
    (∀ i < 16, rngOnPort (rngOf s i) p = true → pget t (P.cxlRangeState i) = 3) ∧ ∀ ga i, rangeAt s ga = some i → f ga = rngOnPort (rngOf s i) p := by
  refine ⟨_, _, rfl, ?_, fun i hi hon => ?_, fun ga i hga => ?_⟩
  · rw [cxlPortOf_capacitySettle, cxlPortOf_cxlPortPut_self]
  · rw [pget_capacitySettle _ (cxlRangeState_ne_regCapacity hi), pget_of_cxlPortPut]
    refine foldl_at_mem (view := fun s i => pget s (P.cxlRangeState i)) (f := rangeOffline) (inv := fun _ => True)
      (fun t k hk => (pget_rangeOffline t k i).trans (if_neg hk)) (fun _ _ _ => trivial) (fun t _ => (pget_rangeOffline t i i).trans (if_pos rfl)) ?_ trivial
    exact List.mem_filter.mpr ⟨List.mem_range.mpr hi, hon⟩
  · rw [hga]
    refine Bool.eq_iff_iff.mpr ?_
    simp [rangeAt_lt hga]

theorem eq_of_refclkSettle (s : State) : ∃ q, refclkSettle s = { s with pins := q } := by
  unfold refclkSettle
  split
  · exact ⟨_, rfl⟩
  · exact ⟨_, rfl⟩

theorem exec_cxlPrsntRemoval_of_enumerated {s : State} {p : CxlPortId} (hpin : bitOf s.pins.cxlPrsnt p.val = false)
    (henum : (cxlPortOf s p.val).enumerated = true) : ∃ q, exec (.cxlPrsntRemoval p) s = .next (portDown { s with pins := q } p.val) := by
  obtain ⟨q, hq⟩ := eq_of_refclkSettle { s with pins := { s.pins with cxlPrsnt := setBitOf s.pins.cxlPrsnt p.val true } }
  refine ⟨q, ?_⟩
  change execCxlPrsntRemoval p s = _
  unfold execCxlPrsntRemoval
  dsimp only
  rw [if_neg (ne_true_of_eq_false hpin), if_pos henum, hq]

/-! ### Signals, responses and events -/

theorem bitOf_setBitOf_false (n i : Nat) : bitOf (setBitOf n i false) i = false := by
  unfold setBitOf
  split
  · next hbit =>
    unfold bitOf at hbit ⊢
    rw [Nat.testBit_eq_decide_div_mod_eq, decide_eq_true_eq] at hbit
    rw [Nat.testBit_eq_decide_div_mod_eq, decide_eq_false_iff_not, if_neg Bool.false_ne_true]
    have hsub : (n - 2 ^ i) / 2 ^ i = n / 2 ^ i - 1 := by simpa using Nat.sub_mul_div n (2 ^ i) 1
    rw [hsub]
    omega
  · next hbit => simpa using hbit

theorem exec_cxlPrsntLowToHigh (s : State) (p : CxlPortId) : ∃ t, exec (.cxlPrsntLowToHigh p) s = .next t ∧ bitOf t.pins.cxlPrsnt p.val = false ∧
    (s.start.islandsUp = true → bitOf t.pins.cxlRefclk p.val = false) ∧ t = { s with pins := t.pins } := by
  refine ⟨_, rfl, ?_⟩
  have hclear := bitOf_setBitOf_false s.pins.cxlPrsnt p.val
  unfold refclkSettle
  split
  · exact ⟨hclear, fun _ => hclear, rfl⟩
  · next hdown => exact ⟨hclear, fun hup => absurd hup hdown, rfl⟩

/-- A port that notes a response of a device, and whether it reports Severe Overload. -/
def responseNoted (q : CxlPort) (d : Nat) (severe : Bool) : CxlPort :=
  { q with responses := tset (fun _ => 0) q.responses d (tget (fun _ => 0) q.responses d + 1)
           severe := if severe then tset (fun _ => 0) q.severe d (tget (fun _ => 0) q.severe d + 1) else q.severe }

section
variable {s : State} {p : CxlPortId} (hup : (cxlPortOf s p.val).up = true) (d : Fin 8) (sev : Bool)
include hup

theorem exec_cxlMemResponse_of_clean :
    exec (.cxlMemResponse p d ⟨false, sev⟩ none) s = .next (cxlPortPut s p.val (responseNoted (cxlPortOf s p.val) d.val sev)) := if_neg (by simp [hup])

theorem exec_cxlMemResponse_of_poisoned (w : CxlWaiter) :
    let s2 := pinc (cxlPortPut s p.val (responseNoted (cxlPortOf s p.val) d.val sev)) (P.cxlPoison p.val)
    exec (.cxlMemResponse p d ⟨true, sev⟩ (some w)) s = .next (if cxlWaits s2 p.val 0 w then cxlAnswer s2 p.val stPoisoned w else s2) := if_neg (by simp [hup])

end

/-- Settles O35: a commit by its check and its decoders, a range by its place in the list of the changed ones, a port by its events. -/
theorem cxlRangesAndPorts : Obligations.CxlRangesAndPorts := by
  refine ⟨fun s hup => ⟨fun hrun => ?_, fun hrun => ?_⟩, fun s r hrun hcheck => ⟨fun hcode => ?_, fun hcode htodo => ?_, fun hcode htodo => ?_⟩,
    fun s r i hrun hi => ⟨?_, fun htodo => ?_, fun htodo => ?_⟩,
    fun s l ch hch => ⟨cxlResult_cxlTake l s ch, cxlTake_stagedOcts l s ch, fun i hi => ?_, fun i _ hi => ?_, fun r => rngTaken_of_owned⟩,
    fun s i hscrub hstate => ?_, fun s m hup => ⟨fun htarget => ?_, fun hfree => ?_⟩, fun s p l hscan hreset => ?_,
    fun s p => ⟨fun hup => ?_, fun hpin henum => ?_⟩, exec_cxlPrsntLowToHigh, fun s p d sev q hup hq => ?_,
    fun s p w => ⟨fun hwaits => congrArg _ (if_pos hwaits), fun hwaits => congrArg _ (if_neg (ne_true_of_eq_false hwaits))⟩,
    fun s p a b henum => if_pos henum⟩
  · rw [exec_cxlCommit_of_fullUp hup, cxlCommitWrite_of_idle hrun]
  · rw [exec_cxlCommit_of_fullUp hup, cxlCommitWrite_of_running hrun]
    exact ⟨_, rfl, (pget_pset_self s P.cxlResult 0x020B :), rfl, fun i hi => ⟨tfind_rangesUnstaged _ hi, rfl⟩⟩
  · rw [exec_cxlCheckDone_of_checking hrun hcheck, if_pos hcode]
    exact ⟨_, rfl, cxlResult_cxlRefuse s _, rfl, fun i hi => ⟨rfl, tfind_rangesUnstaged _ hi⟩⟩
  · rw [exec_cxlCheckDone_of_checking hrun hcheck, if_neg (not_not_intro hcode), if_neg htodo]
  · rw [exec_cxlCheckDone_of_checking hrun hcheck, if_neg (not_not_intro hcode), if_pos htodo]
  · rw [exec_cxlDecoderCommitDone_refused hrun hi]
    exact ⟨_, rfl, cxlResult_cxlRefuse s _, rfl, fun k _ => rfl⟩
  · rw [exec_cxlDecoderCommitDone_committed hrun hi, if_pos htodo]
  · rw [exec_cxlDecoderCommitDone_committed hrun hi, if_neg htodo]
  · have hstands := rangeStands_cxlTake_of_mem l s i ch hi
    have hscrub : (cxlTake s l ch).cxlScrub.contains i = rngEnable (l.getD i 0) := congrArg (·.2.2) hstands
    exact ⟨congrArg Prod.fst hstands, congrArg (·.2.1) hstands, by rw [← hscrub, List.contains_iff_mem]⟩
  · have hstands := rangeStands_cxlTake_of_not_mem l s i ch hi
    exact ⟨congrArg Prod.fst hstands, congrArg (·.2.1) hstands⟩
  · obtain ⟨r, hr⟩ := eq_of_cxlRunScrubbed (pset (memZero { s with cxlScrub := sDel s.cxlScrub i.val }
      (cxlWindow + rngBase (rngOf s i.val) * 2 ^ 28) (rngSize (rngOf s i.val) * 2 ^ 28)) (P.cxlRangeState i.val) 2) i.val
    have hmem := memGet_memZero s (cxlWindow + rngBase (rngOf s i.val) * 2 ^ 28) (rngSize (rngOf s i.val) * 2 ^ 28)
    refine ⟨_, (exec_cxlRangeScrubDone_of_scrubbing hscrub hstate).trans (congrArg _ hr), pget_pset_self _ _ _, fun a hlo hhi => ?_, fun a hout => ?_⟩
    · exact (hmem a).trans (if_pos ⟨hlo, hhi⟩)
    · exact (hmem a).trans (if_neg fun h => by omega)
  · rw [exec_cxlRescan_of_fullUp hup, cxlRescanWrite_of_targeted htarget]
  · rw [exec_cxlRescan_of_fullUp hup, cxlRescanWrite_of_untargeted hfree]
    refine ⟨_, rfl, ?_, fun p hp => ⟨fun hbit => cxlPortOf_rescan_of_masked _ hbit hp, fun hbit => cxlPortOf_rescan_of_unmasked _ hbit⟩⟩
    exact (congrArg (tget paramDefault · P.cxlResult) (foldl_keeps State.regs (portRescan_regs m.toNat) _ _)).trans (pget_pset_self _ _ _)
  · obtain ⟨t, devs, hexec, hport⟩ := exec_cxlPortEnumerated_of_scanning l hscan hreset
    exact ⟨t, hexec, by rw [hport], by rw [hport], by rw [hport], by rw [hport]⟩
  · obtain ⟨t, f, hdown, hends⟩ := portDown_ends s p.val
    exact ⟨t, f, (if_pos hup : exec (.cxlPortDown p) s = .next (portDown s p.val)).trans (congrArg _ hdown), hends⟩
  · obtain ⟨q, hexec⟩ := exec_cxlPrsntRemoval_of_enumerated hpin henum
    obtain ⟨t, f, hdown, hends⟩ := portDown_ends { s with pins := q } p.val
    exact ⟨t, f, hexec.trans (congrArg _ hdown), hends⟩
  · subst hq
    refine ⟨exec_cxlMemResponse_of_clean hup d sev, fun w => ⟨fun hwaits => ?_, fun hwaits => ?_⟩⟩
    · exact (exec_cxlMemResponse_of_poisoned hup d sev w).trans (congrArg _ (if_pos hwaits))
    · exact (exec_cxlMemResponse_of_poisoned hup d sev w).trans (congrArg _ (if_neg (ne_true_of_eq_false hwaits)))

end Sys2Proof
end

section
/-! O37 and O38, facts they share: a function's state, a context and a range slot put in their tables, and what an update or a resolve
meets on a function whose queue is empty (09 R311, R312). -/
namespace Sys2Proof
open Sys2Proof.Machine

/-! ### What is put twice, and a range slot that is put -/

theorem fnStPut_fnStPut (s : State) (k : Nat) (a b : FnSt) : fnStPut (fnStPut s k a) k b = fnStPut s k b := by
  unfold fnStPut
  simp only [tset_tset]

/-- A function's state put as it stands changes no function's state. -/
theorem fnOf_fnStPut_fnOf (s : State) (fn k : Nat) : fnOf (fnStPut s fn (fnOf s fn)) k = fnOf s k := by
  rw [fnOf_fnStPut]
  split
  · next hk => rw [hk]
  · rfl

section
variable (s : State) (cid idx : Nat) (x : RangeSlot)

theorem slotOf_slotPut_self : slotOf (ctxOf (slotPut s cid idx x) cid) idx = x := by
  unfold slotPut
  rw [ctxOf_ctxPut_self]
  exact tget_tset_self _ _ _ _

theorem slotOf_slotPut_ne {k : Nat} (hk : k ≠ idx) : slotOf (ctxOf (slotPut s cid idx x) cid) k = slotOf (ctxOf s cid) k := by
  unfold slotPut
  rw [ctxOf_ctxPut_self]
  exact tget_tset_ne _ _ _ _ _ hk

theorem ctxOf_slotPut_ne {k : Nat} (hk : k ≠ cid) : ctxOf (slotPut s cid idx x) k = ctxOf s k := ctxOf_ctxPut_ne _ _ _ _ hk

end

/-! ### A write to RT_UPDATE or FLT_RESOLVE that nothing goes before -/

/-- Nothing waits in a function's queue or for its response ring, which has room: an update or a resolve is decided as it comes. -/
structure AnswersAtOnce (f : FnSt) : Prop where
  queue : f.updates = []
  responses : f.respWaiting = []
  room : respRoom f = true

section
variable {s : State} {fn : Nat} (hidle : AnswersAtOnce (fnOf s fn))
include hidle

/-- The one operation in the queue is decided, and the queue is empty again. -/
theorem updatesRun_one (op cid idx gen : Nat) : updatesRun (fnStPut s fn { fnOf s fn with updates := [(op, cid, idx, gen)] }) fn 1 =
    if op < 4 then updateDecide (fnStPut s fn (fnOf s fn)) fn op cid idx gen else resolveDecide (fnStPut s fn (fnOf s fn)) fn (op - 4) cid gen := by
  have hempty : { fnOf s fn with updates := [] } = fnOf s fn := by rw [← hidle.queue]
  have hready : (fnOf s fn).respWaiting = [] ∧ respRoom { fnOf s fn with updates := [(op, cid, idx, gen)] } = true := ⟨hidle.responses, hidle.room⟩
  unfold updatesRun
  dsimp only
  rw [fnOf_fnStPut_self]
  dsimp only
  rw [if_pos hready, fnStPut_fnStPut, hempty]
  rfl

theorem updatePush_of_idle {op : Nat} (hop : op < 4) (cid idx gen : Nat) :
    updatePush s fn op cid idx gen = updateDecide (fnStPut s fn (fnOf s fn)) fn op cid idx gen := by
  unfold updatePush
  dsimp only
  rw [hidle.queue, if_neg (by decide)]
  exact (updatesRun_one hidle op cid idx gen).trans (if_pos hop)

theorem resolvePush_of_idle (verdict cid batch : Nat) :
    resolvePush s fn verdict cid batch = resolveDecide (fnStPut s fn (fnOf s fn)) fn verdict cid batch := by
  unfold resolvePush
  dsimp only
  rw [hidle.queue]
  exact (updatesRun_one hidle (verdict + 4) cid 0 batch).trans (if_neg (by omega))

end

/-- Whether a context is LIVE or LOST and the function's, so that the function's updates and resolves are heard for it. -/
def HeardFor (c : Ctx) (fn : Nat) : Prop := (c.st = .live ∨ c.st = .lost) ∧ c.fn = fn

/-- The model's test of a context that 0x0302 answers (09 Table Ranges-3). -/
theorem refused_iff_not_heardFor (c : Ctx) (fn : Nat) : ((!decide (c.st = .live ∨ c.st = .lost)) = true ∨ c.fn ≠ fn) ↔ ¬ HeardFor c fn := by
  unfold HeardFor
  rw [Bool.not_eq_true', decide_eq_false_iff_not]
  tauto

theorem not_refused_of_heardFor {c : Ctx} {fn : Nat} (hheard : HeardFor c fn) : ¬ ((!decide (c.st = .live ∨ c.st = .lost)) = true ∨ c.fn ≠ fn) :=
  fun h => (refused_iff_not_heardFor c fn).mp h hheard

end Sys2Proof
end

section
/-! O37: the updates of range entries, from the write to RT_UPDATE to the drain of what they replace (09 R306 to R315). -/
namespace Sys2Proof
open Sys2Proof.Machine

/-! ### An update is decided -/

/-- The answer to an install by how its generation stands to the last one installed; with none its mirror entry is fetched (09 Table Ranges-6). -/
def installAnswer : Serial → Option (Nat × Bool)
  | .newer => none
  | .equal => some (0, true)
  | .older => some (0x0304, false)
  | .outside => some (0x0305, false)

theorem not_busy_of_idle {x : RangeSlot} (hidle : x.st = .empty ∨ x.st = .valid) : ¬ (x.st = .fetching ∨ x.st = .draining) := by
  rcases hidle with h | h <;> simp [h]

section
variable {s : State} {fn cid : Nat} (idx gen : Nat)

theorem updateDecide_of_not_heardFor {op : Nat} (hop : ¬ (op = 0 ∨ op = 3)) (hheard : ¬ HeardFor (ctxOf s cid) fn) :
    updateDecide s fn op cid idx gen = respond s fn gen cid op idx 0x0302 false := by
  unfold updateDecide
  rw [if_neg hop, if_pos ((refused_iff_not_heardFor _ _).mpr hheard)]

variable (hheard : HeardFor (ctxOf s cid) fn)
include hheard

theorem updateDecide_of_busy {op : Nat} (hop : ¬ (op = 0 ∨ op = 3))
    (hbusy : (slotOf (ctxOf s cid) idx).st = .fetching ∨ (slotOf (ctxOf s cid) idx).st = .draining) :
    updateDecide s fn op cid idx gen = respond s fn gen cid op idx 0x0303 false := by
  unfold updateDecide
  rw [if_neg hop, if_neg (not_refused_of_heardFor hheard), if_pos hbusy]

variable {idx}

section
variable (hidle : (slotOf (ctxOf s cid) idx).st = .empty ∨ (slotOf (ctxOf s cid) idx).st = .valid)
include hidle

/-- An install that an idle slot takes makes the slot FETCHING and reads its mirror entry. The comparison of the generations stands here as some
function, so that no check of the proof unfolds its arithmetic modulo 2^32. -/
theorem updateDecide_install_of_newer (hnewer : ∀ g, (slotOf (ctxOf s cid) idx).lastInstalled = some g → serialCmp g gen = .newer) :
    updateDecide s fn 1 cid idx gen = emit (slotPut s cid idx { slotOf (ctxOf s cid) idx with st := .fetching, pendingGen := gen, pendingInstall := true })
      (.hostRead ((ctxOf s cid).desc.mirrorBase + 32 * idx) 32) := by
  unfold updateDecide
  rw [if_neg (by decide), if_neg (not_refused_of_heardFor hheard), if_neg (not_busy_of_idle hidle), if_pos rfl]
  obtain ⟨cmp, hcmp⟩ : ∃ cmp, cmp = serialCmp := ⟨_, rfl⟩
  rw [← hcmp] at hnewer ⊢
  split
  · rfl
  · next g hlast => rw [hnewer g hlast]

theorem updateDecide_install_of_answer {g code : Nat} {dup : Bool} (hlast : (slotOf (ctxOf s cid) idx).lastInstalled = some g)
    (hanswer : installAnswer (serialCmp g gen) = some (code, dup)) : updateDecide s fn 1 cid idx gen = respond s fn gen cid 1 idx code dup := by
  unfold updateDecide
  rw [if_neg (by decide), if_neg (not_refused_of_heardFor hheard), if_neg (not_busy_of_idle hidle), if_pos rfl]
  obtain ⟨cmp, hcmp⟩ : ∃ cmp, cmp = serialCmp := ⟨_, rfl⟩
  rw [← hcmp] at hanswer ⊢
  extract_lets fetch
  clear_value fetch
  rw [hlast]
  dsimp only
  revert hanswer
  cases cmp g gen with
  | newer => intro hanswer; cases hanswer
  | equal => intro hanswer; cases hanswer; rfl
  | older => intro hanswer; cases hanswer; rfl
  | outside => intro hanswer; cases hanswer; rfl

end

section
variable {gen} (hvalid : (slotOf (ctxOf s cid) idx).st = .valid)
include hvalid

/-- A revoke that names the generation in force takes the entry out of force and drains it. -/
theorem updateDecide_revoke_of_named (hgen : entGen (slotOf (ctxOf s cid) idx).entry = gen) : updateDecide s fn 2 cid idx gen =
    slicesSettle (slotPut (rangeDrop s (· == cid * 4096 + idx)) cid idx
      { slotOf (ctxOf s cid) idx with
        st := .draining, entry := 0, pendingGen := gen, pendingInstall := false, lastRevoked := some gen
        gone := sAdd (slotOf (ctxOf s cid) idx).gone (slotOf (ctxOf s cid) idx).entry }) := by
  unfold updateDecide
  rw [if_neg (by decide), if_neg (not_refused_of_heardFor hheard), if_neg (not_busy_of_idle (.inr hvalid)), if_neg (by decide),
    if_pos ⟨hvalid, hgen⟩]

theorem updateDecide_revoke_of_not_named (hgen : entGen (slotOf (ctxOf s cid) idx).entry ≠ gen) :
    updateDecide s fn 2 cid idx gen = respond s fn gen cid 2 idx 0x0306 false := by
  unfold updateDecide
  rw [if_neg (by decide), if_neg (not_refused_of_heardFor hheard), if_neg (not_busy_of_idle (.inr hvalid)), if_neg (by decide),
    if_neg (fun h => hgen h.2), if_neg (by simp [hvalid])]

end

end

/-! ### What an update that is taken leaves -/

section
variable (s : State) (fn cid idx : Nat) (f : FnSt) (x : RangeSlot)

theorem eq_of_slotPut_emit (y : Sent) :
    let t := emit (slotPut (fnStPut s fn f) cid idx x) y
    t = { s with ctxs := t.ctxs, fns := t.fns, sent := t.sent } := by
  unfold emit slotPut ctxPut fnStPut
  rfl

theorem eq_of_slotPut_slicesSettle (p : Nat → Bool) :
    let t := slicesSettle (slotPut (rangeDrop (fnStPut s fn f) p) cid idx x)
    t = { s with ctxs := t.ctxs, fns := t.fns, slices := t.slices, rangeCaches := t.rangeCaches } := by
  unfold slicesSettle slicesDrop slotPut ctxPut rangeDrop fnStPut
  rfl

end

/-! ### A write to RT_UPDATE -/

section
variable {s : State} {fn : Fn} (hup : fnUp s fn.val = true) (gen : U32) (ctx : U16) (idx : Fin 4096)
include hup

theorem exec_rtUpdateInstall_of_idle (hidle : AnswersAtOnce (fnOf s fn.val)) : exec (.rtUpdateInstall fn gen ctx idx) s =
    .next (updateDecide (fnStPut s fn.val (fnOf s fn.val)) fn.val 1 ctx.toNat idx.val gen.toNat) :=
  (if_pos hup : _ = Host.Outcome.next (updatePush s fn.val 1 ctx.toNat idx.val gen.toNat)).trans
    (congrArg _ (updatePush_of_idle hidle (by decide) ctx.toNat idx.val gen.toNat))

theorem exec_rtUpdateRevoke_of_idle (hidle : AnswersAtOnce (fnOf s fn.val)) : exec (.rtUpdateRevoke fn gen ctx idx) s =
    .next (updateDecide (fnStPut s fn.val (fnOf s fn.val)) fn.val 2 ctx.toNat idx.val gen.toNat) :=
  (if_pos hup : _ = Host.Outcome.next (updatePush s fn.val 2 ctx.toNat idx.val gen.toNat)).trans
    (congrArg _ (updatePush_of_idle hidle (by decide) ctx.toNat idx.val gen.toNat))

section
variable (hfull : 64 ≤ (fnOf s fn.val).updates.countP (fun u => decide (u.1 < 4)))
include hfull

theorem exec_rtUpdateInstall_of_full : exec (.rtUpdateInstall fn gen ctx idx) s = .next (pinc s P.rtUpdatesDropped) :=
  (if_pos hup : _ = Host.Outcome.next (updatePush s fn.val 1 ctx.toNat idx.val gen.toNat)).trans (congrArg _ (if_pos hfull))

theorem exec_rtUpdateRevoke_of_full : exec (.rtUpdateRevoke fn gen ctx idx) s = .next (pinc s P.rtUpdatesDropped) :=
  (if_pos hup : _ = Host.Outcome.next (updatePush s fn.val 2 ctx.toNat idx.val gen.toNat)).trans (congrArg _ (if_pos hfull))

end

end

/-! ### The mirror entry is read -/

/-- The state to which a slot with content `e` goes back when its install is refused. -/
def slotStBefore (e : Nat) : SlotState := if entKind e = 0 then .empty else .valid

/-- An install is refused with a code: its slot keeps the content it had. -/
def installRefused (s : State) (cid idx code : Nat) : State :=
  let x := slotOf (ctxOf s cid) idx
  respond (slotPut s cid idx { x with st := slotStBefore x.entry }) (ctxOf s cid).fn x.pendingGen cid 1 idx code false

section
variable {s : State} {ctx : U16} {idx : Fin 4096} (hfetch : (slotOf (ctxOf s ctx.toNat) idx.val).st = .fetching)
include hfetch

theorem exec_rtMirrorFetchDone_of_failed : exec (.rtMirrorFetchDone ctx idx .failed) s = .next (installRefused s ctx.toNat idx.val 0x0307) :=
  if_neg (not_not_intro hfetch)

variable (b : Bytes)

/-- What an entry that was read comes to: its check's code, in force in an empty slot, or in force behind the drain of the old content. -/
theorem exec_rtMirrorFetchDone_of_data : exec (.rtMirrorFetchDone ctx idx (.data b)) s = .next
    (let x := slotOf (ctxOf s ctx.toNat) idx.val
    let e := leNat (b.take 32)
    let code := entryCode s ctx.toNat idx.val x.pendingGen e
    if code ≠ 0 then installRefused s ctx.toNat idx.val code
    else if slotStBefore x.entry = .empty then
      respond (entryForce s ctx.toNat idx.val e { x with st := .valid }) (ctxOf s ctx.toNat).fn x.pendingGen ctx.toNat 1 idx.val 0 false
    else entryForce s ctx.toNat idx.val e { x with st := .draining }) := by
  refine (if_neg (not_not_intro hfetch)).trans ?_
  rw [apply_ite Host.Outcome.next, apply_ite Host.Outcome.next]
  rfl

end

/-! ### An entry comes into force -/

section
variable (s : State) (cid idx e : Nat) (x : RangeSlot)

/-- A slot as an entry that comes into force leaves it. -/
def slotForced (e : Nat) (x : RangeSlot) : RangeSlot :=
  { x with entry := e, lastInstalled := some (entGen e), gone := if entKind x.entry = 0 then x.gone else sAdd x.gone x.entry }

/-- An entry that comes into force changes its slot, the slices and the range caches, which it leaves. -/
theorem eq_of_entryForce : ∃ sl, entryForce s cid idx e x =
    { s with ctxs := (slotPut s cid idx (slotForced e x)).ctxs, slices := sl, rangeCaches := (rangeDrop s (· == cid * 4096 + idx)).rangeCaches } := by
  unfold entryForce slicesSettle slicesDrop rangeDrop slotPut ctxPut
  exact ⟨_, rfl⟩

end

/-! ### The drain of a slot -/

section
variable {s : State} {ctx : U16} {idx : Fin 4096}

theorem exec_entryDrainDone_of_open (hopen : drainOpen s ctx.toNat (slotOf (ctxOf s ctx.toNat) idx.val).gone = true) :
    exec (.entryDrainDone ctx idx) s = .next s := if_pos (.inr hopen)

theorem exec_entryDrainDone_of_drained (hst : (slotOf (ctxOf s ctx.toNat) idx.val).st = .draining)
    (hdrained : drainOpen s ctx.toNat (slotOf (ctxOf s ctx.toNat) idx.val).gone = false) : exec (.entryDrainDone ctx idx) s = .next
      (let x := slotOf (ctxOf s ctx.toNat) idx.val
      respond (slotPut s ctx.toNat idx.val { x with st := if x.pendingInstall then .valid else .empty }) (ctxOf s ctx.toNat).fn x.pendingGen ctx.toNat
        (if x.pendingInstall then 1 else 2) idx.val 0 false) :=
  if_neg (by simp [hst, hdrained])

end

/-- Settles O37: an update by what it meets in its slot, a mirror read by its entry's check and the slot's old content, a drain by whether
an access still uses that content. -/
theorem rangeUpdates : Obligations.RangeUpdates := by
  refine ⟨fun s fn gen ctx idx hup hqueue hwait hroom => ?_,
    fun s fn gen ctx idx hup hfull => ⟨exec_rtUpdateInstall_of_full hup gen ctx idx hfull, exec_rtUpdateRevoke_of_full hup gen ctx idx hfull⟩,
    fun s ctx idx b hfetch => ?_, fun s cid idx e x => ?_,
    fun s ctx idx hst => ⟨exec_entryDrainDone_of_open, fun hdrained hinstall => ?_, fun hdrained hrevoke => ?_⟩⟩
  · intro live x s0
    have hinstall := exec_rtUpdateInstall_of_idle hup gen ctx idx ⟨hqueue, hwait, hroom⟩
    have hrevoke := exec_rtUpdateRevoke_of_idle hup gen ctx idx ⟨hqueue, hwait, hroom⟩
    refine ⟨fun hheard hidle hnewer => ?_, fun hheard hvalid hgen => ?_, fun hheard => ⟨hinstall.trans ?_, hrevoke.trans ?_⟩,
      fun hheard hbusy => ⟨hinstall.trans ?_, hrevoke.trans ?_⟩, fun hheard hidle g hlast => ?_, fun hheard hvalid hgen => hrevoke.trans ?_⟩
    · rw [hinstall, updateDecide_install_of_newer (s := s0) gen.toNat hheard hidle hnewer]
      exact ⟨_, rfl, rfl, slotOf_slotPut_self _ _ _ _, fun k => slotOf_slotPut_ne _ _ _ _, fun k => ctxOf_slotPut_ne _ _ _ _,
        fnOf_fnStPut_fnOf s fn.val, eq_of_slotPut_emit s fn.val ctx.toNat idx.val (fnOf s fn.val) _ _⟩
    · rw [hrevoke, updateDecide_revoke_of_named (s := s0) hheard hvalid hgen]
      have hslot := fun {x} => slotOf_slotPut_self (rangeDrop s0 (· == ctx.toNat * 4096 + idx.val)) ctx.toNat idx.val x
      exact ⟨_, rfl, congrArg RangeSlot.st hslot, congrArg RangeSlot.entry hslot, fun k => slotOf_slotPut_ne _ _ _ _, fun k => ctxOf_slotPut_ne _ _ _ _,
        eq_of_slotPut_slicesSettle s fn.val ctx.toNat idx.val (fnOf s fn.val) _ _⟩
    · exact congrArg _ (updateDecide_of_not_heardFor (s := s0) _ _ (by decide) hheard)
    · exact congrArg _ (updateDecide_of_not_heardFor (s := s0) _ _ (by decide) hheard)
    · exact congrArg _ (updateDecide_of_busy (s := s0) _ _ hheard (by decide) hbusy)
    · exact congrArg _ (updateDecide_of_busy (s := s0) _ _ hheard (by decide) hbusy)
    · have hanswer := fun {code dup} h =>
        hinstall.trans (congrArg _ (updateDecide_install_of_answer (s := s0) (code := code) (dup := dup) gen.toNat hheard hidle hlast h))
      exact ⟨fun hcmp => hanswer (congrArg installAnswer hcmp), fun hcmp => hanswer (congrArg installAnswer hcmp),
        fun hcmp => hanswer (congrArg installAnswer hcmp)⟩
    · exact congrArg _ (updateDecide_revoke_of_not_named (s := s0) hheard hvalid hgen)
  · have hdata := exec_rtMirrorFetchDone_of_data hfetch b
    have hfailed := exec_rtMirrorFetchDone_of_failed hfetch
    unfold installRefused slotStBefore at hdata hfailed
    refine ⟨fun hempty => ?_, fun hvalid => ?_⟩
    · simp only [if_pos hempty] at hdata hfailed
      exact ⟨hfailed, fun hcode => hdata.trans (congrArg _ (if_pos hcode)), fun hcode => hdata.trans (congrArg _ (if_neg (not_not_intro hcode)))⟩
    · simp only [if_neg hvalid] at hdata hfailed
      exact ⟨hfailed, fun hcode => hdata.trans (congrArg _ (if_pos hcode)), fun hcode => hdata.trans (congrArg _ (if_neg (not_not_intro hcode)))⟩
  · obtain ⟨sl, heq⟩ := eq_of_entryForce s cid idx e x
    rw [heq]
    exact ⟨slotOf_slotPut_self s cid idx (slotForced e x), fun k => slotOf_slotPut_ne s cid idx (slotForced e x), rfl, rfl⟩
  · rw [exec_entryDrainDone_of_drained hst hdrained]
    simp only [hinstall, if_true]
  · rw [exec_entryDrainDone_of_drained hst hdrained]
    simp only [hrevoke, Bool.false_eq_true, if_false]

end Sys2Proof
end

section
/-! O38: the fault conversation of a context (09 R330 to R333). A batch that waits for room in the fault ring has taken its number and counts as
delivered (log 13). -/
namespace Sys2Proof
open Sys2Proof.Machine

/-! ### What writing response records and batches leaves -/

section
variable (s : State) (fn c : Nat)

@[simp] theorem raiseCause_ctxs : (raiseCause s fn c).ctxs = s.ctxs := (congrArg State.ctxs (outsideCauses_raiseCause s fn c) :)
@[simp] theorem raiseCause_fns : (raiseCause s fn c).fns = s.fns := (congrArg State.fns (outsideCauses_raiseCause s fn c) :)
@[simp] theorem raiseCause_regs : (raiseCause s fn c).regs = s.regs := (congrArg State.regs (outsideCauses_raiseCause s fn c) :)

@[simp] theorem ctxOf_raiseCause (k : Nat) : ctxOf (raiseCause s fn c) k = ctxOf s k := congrArg (tget _ · k) (raiseCause_ctxs s fn c)
@[simp] theorem fnOf_raiseCause (k : Nat) : fnOf (raiseCause s fn c) k = fnOf s k := congrArg (tget _ · k) (raiseCause_fns s fn c)
@[simp] theorem pget_raiseCause (k : Nat) : pget (raiseCause s fn c) k = pget s k := congrArg (tget _ · k) (raiseCause_regs s fn c)

end

/-- The state but for what writing response records writes: the functions, their registers and what is sent. -/
def outsideResponses (s : State) : State := { s with fns := [], fnRegs := [], sent := [] }

theorem outsideResponses_raiseCause (s : State) (fn c : Nat) : outsideResponses (raiseCause s fn c) = outsideResponses s :=
  (congrArg outsideResponses (outsideCauses_raiseCause s fn c) :)

theorem outsideResponses_respFlush (s : State) (fn k : Nat) : outsideResponses (respFlush s fn k) = outsideResponses s := by
  induction k generalizing s with
  | zero => rfl
  | succ k ih =>
    unfold respFlush
    dsimp only
    split
    · rfl
    · split
      · exact (ih _).trans (outsideResponses_raiseCause _ fn 1)
      · rfl

theorem outsideResponses_respond (s : State) (fn gen cid op idx code : Nat) (dup : Bool) :
    outsideResponses (respond s fn gen cid op idx code dup) = outsideResponses s := outsideResponses_respFlush _ _ _

/-- The state but for the seats. -/
def outsideSeats (s : State) : State := { s with seats := [] }

theorem outsideSeats_batchResume (s : State) (cid : Nat) : outsideSeats (batchResume s cid) = outsideSeats s := by
  unfold batchResume
  dsimp only
  refine (foldl_keeps outsideSeats (fun t seat => ?_) _ _).trans (foldl_keeps outsideSeats (fun t r => ?_) _ s)
  · rfl
  · split
    · rfl
    · rfl

section
variable (s : State) (fn gen cid op idx code : Nat) (dup : Bool)

theorem respond_ctxs : (respond s fn gen cid op idx code dup).ctxs = s.ctxs :=
  (congrArg State.ctxs (outsideResponses_respond s fn gen cid op idx code dup) :)
theorem respond_seats : (respond s fn gen cid op idx code dup).seats = s.seats :=
  (congrArg State.seats (outsideResponses_respond s fn gen cid op idx code dup) :)
theorem respond_mem : (respond s fn gen cid op idx code dup).mem = s.mem :=
  (congrArg State.mem (outsideResponses_respond s fn gen cid op idx code dup) :)

end

/-- The state but for what delivering batches writes. -/
def outsideBatches (s : State) : State := { s with ctxs := [], fns := [], sent := [], fnRegs := [], regs := [] }

theorem eq_of_outsideBatches {s t : State} (h : outsideBatches t = outsideBatches s) :
    t = { s with ctxs := t.ctxs, fns := t.fns, sent := t.sent, fnRegs := t.fnRegs, regs := t.regs } :=
  (congrArg (fun u => { u with ctxs := t.ctxs, fns := t.fns, sent := t.sent, fnRegs := t.fnRegs, regs := t.regs }) h :)

/-- What delivering batches leaves: the rest of the state, and the state and records of a context's conversation. -/
def besideDelivery (cid : Nat) (s : State) : State × FaultState × List FaultRec :=
  (outsideBatches s, (ctxOf s cid).fault.st, (ctxOf s cid).fault.records)

theorem besideDelivery_raiseCause (cid : Nat) (s : State) (fn c : Nat) : besideDelivery cid (raiseCause s fn c) = besideDelivery cid s := by
  have hrest : outsideBatches (raiseCause s fn c) = outsideBatches s := (congrArg outsideBatches (outsideCauses_raiseCause s fn c) :)
  unfold besideDelivery
  rw [hrest, ctxOf_raiseCause]

theorem besideDelivery_fnStPut (cid : Nat) (s : State) (fn : Nat) (f : FnSt) : besideDelivery cid (fnStPut s fn f) = besideDelivery cid s := by
  unfold besideDelivery outsideBatches fnStPut
  rfl

theorem besideDelivery_posted (cid : Nat) (s : State) (x : Sent) (k : Nat) : besideDelivery cid (pinc (emit s x) k) = besideDelivery cid s := by
  unfold besideDelivery outsideBatches pinc pset emit
  rfl

theorem outsideBatches_ctxPut (s : State) (k : Nat) (c : Ctx) : outsideBatches (ctxPut s k c) = outsideBatches s := by
  unfold outsideBatches ctxPut
  rfl

theorem besideDelivery_ctxPut (cid k : Nat) (s : State) (c : Ctx) (hst : c.fault.st = (ctxOf s k).fault.st)
    (hrecords : c.fault.records = (ctxOf s k).fault.records) : besideDelivery cid (ctxPut s k c) = besideDelivery cid s := by
  unfold besideDelivery
  rw [ctxOf_ctxPut, outsideBatches_ctxPut]
  split
  · next hk => rw [hst, hrecords, hk]
  · rfl

theorem besideDelivery_faultFlush (cid : Nat) (s : State) (fn k : Nat) : besideDelivery cid (faultFlush s fn k) = besideDelivery cid s := by
  induction k generalizing s with
  | zero => rfl
  | succ k ih =>
    unfold faultFlush
    extract_lets f
    split
    · rfl
    · next b seq lost tbOpen recs t hwaiting =>
      split
      · extract_lets hdr s1 c conv s2 s3
        have hs1 : besideDelivery cid s1 = besideDelivery cid s := besideDelivery_fnStPut cid s fn _
        have hs2 : besideDelivery cid s2 = besideDelivery cid s1 := by
          clear_value s1
          dsimp only [s2]
          split
          · rfl
          · exact besideDelivery_ctxPut cid b s1 _ rfl rfl
        exact (ih _).trans ((besideDelivery_raiseCause cid _ fn 1).trans ((besideDelivery_posted cid s2 _ _).trans (hs2.trans hs1)))
      · rfl

/-! ### The fault ring -/

theorem faultFlush_of_full {s : State} {fn : Nat} (hfull : 16 ≤ (fnOf s fn).fltWritten - (fnOf s fn).fltRead) (k : Nat) : faultFlush s fn k = s := by
  cases k with
  | zero => rfl
  | succ k =>
    unfold faultFlush
    dsimp only
    split
    · rfl
    · exact if_neg (Nat.not_lt.mpr hfull)

/-- A context whose batch has been written, with the time from which its timeout runs. -/
def ctxWritten (c : Ctx) (tb timeoutMs : Nat) : Ctx := { c with fault := { c.fault with waiting := false, tbDelivered := tb, timeoutMs := timeoutMs } }

/-- A batch written: its function, its context, what is sent, the count of batches and the interrupt cause. -/
def batchWritten (s : State) (fn cid : Nat) (f : FnSt) (x : Sent) : State :=
  raiseCause (pinc (emit (ctxPut (fnStPut s fn f) cid (ctxWritten (ctxOf s cid) s.tb (pget s P.faultTimeoutMs))) x) P.faultBatches) fn 1

section
variable (s : State) (fn cid : Nat) (f : FnSt) (x : Sent)

theorem ctxOf_batchWritten : ctxOf (batchWritten s fn cid f x) cid = ctxWritten (ctxOf s cid) s.tb (pget s P.faultTimeoutMs) := by
  unfold batchWritten
  rw [ctxOf_raiseCause, ctxOf_of_pinc, ctxOf_of_emit, ctxOf_ctxPut_self]

theorem faultBatches_batchWritten : pget (batchWritten s fn cid f x) P.faultBatches = satInc32 (pget s P.faultBatches) := by
  unfold batchWritten
  rw [pget_raiseCause, pget_pinc_self, pget_of_emit, pget_of_ctxPut, pget_of_fnStPut]

end

/-- The last batch of a context, the only one that waits, is written when the ring has room. -/
theorem faultFlush_one {s : State} {fn cid tbOpen : Nat} {recs : List FaultRec}
    (hwaiting : (fnOf s fn).fltWaiting = [(cid, (ctxOf s cid).fault.lastBatch, false, tbOpen, recs)])
    (hroom : (fnOf s fn).fltWritten - (fnOf s fn).fltRead < 16) : ∃ f x, faultFlush s fn 1 = batchWritten s fn cid f x := by
  unfold faultFlush
  dsimp only
  rw [hwaiting]
  dsimp only
  rw [if_pos hroom, if_neg (by simp)]
  exact ⟨_, _, rfl⟩

theorem bitOf_setBitOf_true (n i : Nat) : bitOf (setBitOf n i true) i = true := by
  unfold setBitOf bitOf
  split
  · next hbit => exact hbit
  · next hbit =>
    rw [if_pos rfl, Nat.add_comm, Nat.testBit_two_pow_add_eq]
    simpa using hbit

/-- A cause that is raised is set in its function's register. -/
theorem bitOf_raiseCause (s : State) (fn c : Nat) : bitOf (fnGet (raiseCause s fn c) fn 0x80) c = true := by
  have hput := (congrArg (bitOf · c) (fnGet_fnPut_self s fn 0x80 (setBitOf (fnGet s fn 0x80) c true))).trans (bitOf_setBitOf_true _ c)
  unfold raiseCause
  dsimp only
  split
  · assumption
  · split
    · exact hput
    · unfold msixSend
      split
      · exact hput
      · split
        · rw [fnGet_fnPut_ne _ _ _ _ _ _ (by omega)]
          exact hput
        · exact hput

/-! ### A batch is delivered -/

/-- A context whose batch counts as delivered, and waits for room in the fault ring (log 13). -/
def ctxDelivered (c : Ctx) : Ctx := { c with fault := { c.fault with st := .delivered, waiting := true } }

/-- A batch that has joined those that wait for room in its function's fault ring. -/
def batchQueued (s : State) (cid : Nat) : State :=
  let c := ctxOf s cid
  fnStPut (ctxPut s cid (ctxDelivered c)) c.fn
    { fnOf s c.fn with fltWaiting := (fnOf s c.fn).fltWaiting ++ [(cid, c.fault.lastBatch, false, c.fault.tbOpen, c.fault.records)] }

section
variable (s : State) (cid : Nat)

theorem batchDeliver_eq : batchDeliver s cid = faultFlush (batchQueued s cid) (ctxOf s cid).fn ((fnOf s (ctxOf s cid).fn).fltWaiting.length + 1) := by
  unfold batchDeliver faultDeliver
  dsimp only
  rw [ctxOf_ctxPut_self]
  rfl

theorem ctxOf_batchQueued : ctxOf (batchQueued s cid) cid = ctxDelivered (ctxOf s cid) := ctxOf_ctxPut_self s cid _

theorem besideDelivery_batchDeliver : besideDelivery cid (batchDeliver s cid) = (outsideBatches s, .delivered, (ctxOf s cid).fault.records) := by
  have hrest : outsideBatches (batchQueued s cid) = outsideBatches s :=
    (congrArg Prod.fst (besideDelivery_fnStPut cid _ _ _)).trans (outsideBatches_ctxPut s cid _)
  rw [batchDeliver_eq, besideDelivery_faultFlush]
  unfold besideDelivery
  rw [ctxOf_batchQueued, hrest]
  rfl

/-- What a batch that is delivered shows, written at once or waiting for room. -/
theorem batchDeliver_shows : (ctxOf (batchDeliver s cid) cid).fault.st = .delivered ∧
    (ctxOf (batchDeliver s cid) cid).fault.records = (ctxOf s cid).fault.records ∧ outsideBatches (batchDeliver s cid) = outsideBatches s := by
  have hbeside := besideDelivery_batchDeliver s cid
  exact ⟨congrArg (·.2.1) hbeside, congrArg (·.2.2) hbeside, congrArg Prod.fst hbeside⟩

theorem batchDeliver_of_room (hfirst : (fnOf s (ctxOf s cid).fn).fltWaiting = [])
    (hroom : (fnOf s (ctxOf s cid).fn).fltWritten - (fnOf s (ctxOf s cid).fn).fltRead < 16) :
    ∃ f x, batchDeliver s cid = batchWritten (batchQueued s cid) (ctxOf s cid).fn cid f x := by
  rw [batchDeliver_eq, hfirst]
  refine faultFlush_one (tbOpen := (ctxOf s cid).fault.tbOpen) (recs := (ctxOf s cid).fault.records) ?_ ?_
  · rw [ctxOf_batchQueued]
    unfold batchQueued
    rw [fnOf_fnStPut_self, hfirst]
    rfl
  · unfold batchQueued
    rwa [fnOf_fnStPut_self]

theorem batchDeliver_of_full (hfull : 16 ≤ (fnOf s (ctxOf s cid).fn).fltWritten - (fnOf s (ctxOf s cid).fn).fltRead) :
    batchDeliver s cid = batchQueued s cid := by
  rw [batchDeliver_eq]
  refine faultFlush_of_full ?_ _
  unfold batchQueued
  rwa [fnOf_fnStPut_self]

end

/-! ### A window ends, and a batch is not resolved in its time -/

section
variable {s : State} {ctx : U16} (hlive : (ctxOf s ctx.toNat).st = .live)
include hlive

theorem exec_faultWindowExpiry_of_collecting (hcollecting : (ctxOf s ctx.toNat).fault.st = .collecting) : exec (.faultWindowExpiry ctx) s =
    .next (if tbPast s.tb (ctxOf s ctx.toNat).fault.tbWindow ((ctxOf s ctx.toNat).fault.windowUs * 1000) then batchDeliver s ctx.toNat else s) := by
  change execFaultWindowExpiry ctx s = _
  unfold execFaultWindowExpiry
  simp only [hlive, hcollecting, true_and]
  split
  · rfl
  · rfl

theorem exec_faultTimeoutExpiry_of_delivered (hdelivered : (ctxOf s ctx.toNat).fault.st = .delivered)
    (hwritten : (ctxOf s ctx.toNat).fault.waiting = false) : exec (.faultTimeoutExpiry ctx) s = .next
      (if tbPast s.tb (ctxOf s ctx.toNat).fault.tbDelivered ((ctxOf s ctx.toNat).fault.timeoutMs * 1000000) then
        batchLoss (pinc s P.faultTimeouts) ctx.toNat else s) := by
  change execFaultTimeoutExpiry ctx s = _
  unfold execFaultTimeoutExpiry
  simp only [hlive, hdelivered, hwritten, Bool.not_false, true_and]
  split
  · rfl
  · rfl

end

/-! ### The next batch opens -/

/-- A context whose next batch collects, with the records it opens with. -/
def ctxCollecting (c : Ctx) (recs : List FaultRec) (tbOpen tbWindow windowUs : Nat) : Ctx :=
  { c with fault := { c.fault with
      st := .collecting, lastBatch := c.fault.lastBatch + 1, tbOpen := tbOpen, records := recs, held := [], tbWindow := tbWindow, windowUs := windowUs } }

theorem batchOpen_of_short (s : State) (cid : Nat) {recs : List FaultRec} (hsome : recs ≠ []) (hshort : recs.length < 64) :
    ∃ tbOpen, batchOpen s cid recs = ctxPut s cid (ctxCollecting (ctxOf s cid) recs tbOpen s.tb (pget s P.faultWindowUs)) := by
  cases recs with
  | nil => exact absurd rfl hsome
  | cons r l => exact ⟨r.tb, if_neg (Nat.not_le.mpr hshort)⟩

/-! ### A resolve is decided -/

/-- How far the batch that a resolve names lies behind the last one (00 R15). -/
def batchesBack (f : FaultConv) (batch : Nat) : Nat := serialDist batch (f.lastBatch % 2 ^ 32)

/-- The state in which the outstanding batch of a context has been resumed and the resolve answered. -/
def batchAnswered (s : State) (fn cid batch : Nat) : State := respond (batchResume s cid) fn batch cid 3 0 0 false

/-- The state in which the conversation of such a context is CLEAR. -/
def batchClosed (s : State) (fn cid batch : Nat) : State :=
  let c := ctxOf (batchAnswered s fn cid batch) cid
  ctxPut (batchAnswered s fn cid batch) cid { c with fault := { c.fault with st := .clear, records := [], held := [], waiting := false } }

section
variable {s : State} {fn cid verdict : Nat} (hverdict : ¬ (verdict = 0 ∨ verdict = 3)) (batch : Nat)

section
include hverdict

theorem resolveDecide_of_not_heardFor (hheard : ¬ HeardFor (ctxOf s cid) fn) :
    resolveDecide s fn verdict cid batch = respond s fn batch cid 3 0 0x0302 false := by
  unfold resolveDecide
  rw [if_neg hverdict, if_pos ((refused_iff_not_heardFor _ _).mpr hheard)]

theorem resolveDecide_of_lost (hlost : (ctxOf s cid).st = .lost) (hfn : (ctxOf s cid).fn = fn) :
    resolveDecide s fn verdict cid batch = respond s fn batch cid 3 0 0x030F false := by
  unfold resolveDecide
  rw [if_neg hverdict, if_neg (not_refused_of_heardFor ⟨.inr hlost, hfn⟩), if_pos hlost]

end

section
variable (hlive : (ctxOf s cid).st = .live) (hfn : (ctxOf s cid).fn = fn)
include hverdict hlive hfn

/-- The verdict on a batch of a live context: the outstanding one, an earlier one, or one that it does not know (09 Table Ranges-15). -/
theorem resolveDecide_of_live : resolveDecide s fn verdict cid batch =
    (let f := (ctxOf s cid).fault
    if f.st = .delivered ∧ batchesBack f batch = 0 then
      if verdict = 1 then batchOpen (batchClosed s fn cid batch) cid f.held else respond (batchLoss s cid) fn batch cid 3 0 0 false
    else if batchesBack f batch < 2 ^ 31 ∧ batchesBack f batch < f.lastBatch ∧ (0 < batchesBack f batch ∨ f.st = .clear) then
      respond s fn batch cid 3 0 0 true
    else respond s fn batch cid 3 0 0x030E false) := by
  unfold resolveDecide
  rw [if_neg hverdict, if_neg (not_refused_of_heardFor ⟨.inl hlive, hfn⟩), if_neg (by simp [hlive])]
  unfold batchClosed batchAnswered batchesBack
  beta_reduce
  rfl

theorem resolveDecide_of_outstanding (hdelivered : (ctxOf s cid).fault.st = .delivered) (hlast : batchesBack (ctxOf s cid).fault batch = 0) :
    resolveDecide s fn verdict cid batch =
      if verdict = 1 then batchOpen (batchClosed s fn cid batch) cid (ctxOf s cid).fault.held else respond (batchLoss s cid) fn batch cid 3 0 0 false :=
  (resolveDecide_of_live hverdict batch hlive hfn).trans (if_pos ⟨hdelivered, hlast⟩)

section
variable (hother : ¬ ((ctxOf s cid).fault.st = .delivered ∧ batchesBack (ctxOf s cid).fault batch = 0))
include hother

theorem resolveDecide_of_earlier (hearlier : batchesBack (ctxOf s cid).fault batch < 2 ^ 31 ∧
    batchesBack (ctxOf s cid).fault batch < (ctxOf s cid).fault.lastBatch ∧
    (0 < batchesBack (ctxOf s cid).fault batch ∨ (ctxOf s cid).fault.st = .clear)) :
    resolveDecide s fn verdict cid batch = respond s fn batch cid 3 0 0 true :=
  (resolveDecide_of_live hverdict batch hlive hfn).trans ((if_neg hother).trans (if_pos hearlier))

theorem resolveDecide_of_unknown (hunknown : ¬ (batchesBack (ctxOf s cid).fault batch < 2 ^ 31 ∧
    batchesBack (ctxOf s cid).fault batch < (ctxOf s cid).fault.lastBatch ∧
    (0 < batchesBack (ctxOf s cid).fault batch ∨ (ctxOf s cid).fault.st = .clear))) :
    resolveDecide s fn verdict cid batch = respond s fn batch cid 3 0 0x030E false :=
  (resolveDecide_of_live hverdict batch hlive hfn).trans ((if_neg hother).trans (if_neg hunknown))

end

end

end

section
variable {f : FaultConv} {d : Nat}

theorem not_outstanding_of_earlier (hbefore : 0 < d ∨ f.st = .clear) : ¬ (f.st = .delivered ∧ d = 0) := by
  rintro ⟨hdelivered, hlast⟩
  rcases hbefore with hd | hclear
  · exact hd.ne' hlast
  · rw [hdelivered] at hclear
    cases hclear

theorem not_earlier_of_unknown {far : Nat} (hunknown : far ≤ d ∨ f.lastBatch ≤ d ∨ f.st = .collecting) (hcollecting : f.st = .collecting → d = 0) :
    ¬ (d < far ∧ d < f.lastBatch ∧ (0 < d ∨ f.st = .clear)) := by
  rintro ⟨hnear, hpast, hbefore⟩
  rcases hunknown with hfar | hahead | hst
  · exact Nat.not_lt.mpr hfar hnear
  · exact Nat.not_lt.mpr hahead hpast
  · rcases hbefore with hd | hclear
    · exact hd.ne' (hcollecting hst)
    · rw [hst] at hclear
      cases hclear

end

/-! ### What a resume leaves -/

section
variable (s : State) (fn cid batch : Nat)

theorem ctxOf_batchAnswered (k : Nat) : ctxOf (batchAnswered s fn cid batch) k = ctxOf s k :=
  (congrArg (tget _ · k) (respond_ctxs (batchResume s cid) fn batch cid 3 0 0 false)).trans
    (congrArg (ctxOf · k) (outsideSeats_batchResume s cid) :)

theorem ctxOf_batchClosed : ctxOf (batchClosed s fn cid batch) cid =
    { ctxOf s cid with fault := { (ctxOf s cid).fault with st := .clear, records := [], held := [], waiting := false } } := by
  unfold batchClosed
  dsimp only
  rw [ctxOf_ctxPut_self, ctxOf_batchAnswered]

theorem ctxOf_batchClosed_ne {k : Nat} (hk : k ≠ cid) : ctxOf (batchClosed s fn cid batch) k = ctxOf s k :=
  (ctxOf_ctxPut_ne _ _ _ _ hk).trans (ctxOf_batchAnswered s fn cid batch k)

/-- The conversation itself is the one difference to the state in which the resolve was answered. -/
theorem eq_of_batchClosed : ∃ l, batchClosed s fn cid batch = { batchAnswered s fn cid batch with ctxs := l } := ⟨_, rfl⟩

theorem batchClosed_sent : (batchClosed s fn cid batch).sent = (respond (batchResume s cid) fn batch cid 3 0 0 false).sent := by
  obtain ⟨l, heq⟩ := eq_of_batchClosed s fn cid batch
  rw [heq]
  rfl

theorem batchClosed_seats : (batchClosed s fn cid batch).seats = (batchResume s cid).seats := by
  obtain ⟨l, heq⟩ := eq_of_batchClosed s fn cid batch
  rw [heq]
  exact respond_seats (batchResume s cid) fn batch cid 3 0 0 false

theorem batchClosed_mem : (batchClosed s fn cid batch).mem = s.mem := by
  obtain ⟨l, heq⟩ := eq_of_batchClosed s fn cid batch
  rw [heq]
  exact (respond_mem (batchResume s cid) fn batch cid 3 0 0 false).trans (congrArg State.mem (outsideSeats_batchResume s cid) :)

end

/-! ### A write to FLT_RESOLVE -/

section
variable {s : State} {fn : Fn} (hup : fnUp s fn.val = true) (hidle : AnswersAtOnce (fnOf s fn.val)) (batch : U32) (ctx : U16)
include hup hidle

theorem exec_fltResolveResume_of_idle : exec (.fltResolveResume fn batch ctx) s =
    .next (resolveDecide (fnStPut s fn.val (fnOf s fn.val)) fn.val 1 ctx.toNat batch.toNat) :=
  (if_pos hup : _ = Host.Outcome.next (resolvePush s fn.val 1 ctx.toNat batch.toNat)).trans (congrArg _ (resolvePush_of_idle hidle 1 ctx.toNat batch.toNat))

theorem exec_fltResolveAbort_of_idle : exec (.fltResolveAbort fn batch ctx) s =
    .next (resolveDecide (fnStPut s fn.val (fnOf s fn.val)) fn.val 2 ctx.toNat batch.toNat) :=
  (if_pos hup : _ = Host.Outcome.next (resolvePush s fn.val 2 ctx.toNat batch.toNat)).trans (congrArg _ (resolvePush_of_idle hidle 2 ctx.toNat batch.toNat))

/-- What is decided of either verdict alike is what a resume and an abort come to. -/
theorem exec_fltResolve_of_either {t : State} (h : ∀ verdict, ¬ (verdict = 0 ∨ verdict = 3) →
    resolveDecide (fnStPut s fn.val (fnOf s fn.val)) fn.val verdict ctx.toNat batch.toNat = t) :
    exec (.fltResolveResume fn batch ctx) s = .next t ∧ exec (.fltResolveAbort fn batch ctx) s = .next t :=
  ⟨(exec_fltResolveResume_of_idle hup hidle batch ctx).trans (congrArg _ (h 1 (by decide))),
    (exec_fltResolveAbort_of_idle hup hidle batch ctx).trans (congrArg _ (h 2 (by decide)))⟩

end

/-! ### A write to a head pointer -/

/-- Where no response record and no update waits, none follows a head pointer that moves. -/
theorem updatesRun_respFlush_nothing (s : State) (fn : Nat) {l : List Bytes} {u : List (Nat × Nat × Nat × Nat)} (hl : l = []) (hu : u = []) :
    updatesRun (respFlush s fn l.length) fn u.length = s := by
  subst hl hu
  rfl

theorem faultFlush_nothing (s : State) (fn : Nat) {l : List (Nat × Nat × Bool × Nat × List FaultRec)} (hl : l = []) : faultFlush s fn l.length = s := by
  subst hl
  rfl

/-- A head pointer that moves, with its function's state. -/
def headPut (s : State) (fn off v : Nat) (f : FnSt) : State := fnPut (fnStPut s fn f) fn off v

section
variable (s : State) (fn off v : Nat) (f : FnSt)

theorem fnOf_headPut_self : fnOf (headPut s fn off v f) fn = f := by
  unfold headPut
  rw [fnOf_of_fnPut, fnOf_fnStPut_self]

theorem fnOf_headPut_ne {k : Nat} (hk : k ≠ fn) : fnOf (headPut s fn off v f) k = fnOf s k := by
  unfold headPut
  rw [fnOf_of_fnPut, fnOf_fnStPut_ne s fn k f hk]

theorem eq_of_headPut : headPut s fn off v f = { s with fns := (headPut s fn off v f).fns, fnRegs := (headPut s fn off v f).fnRegs } := by
  unfold headPut fnPut fnStPut
  rfl

/-- A head pointer that moves, and only it. -/
theorem headPut_shows : fnGet (headPut s fn off v f) fn off = v ∧ fnOf (headPut s fn off v f) fn = f ∧
    (∀ k, k ≠ fn → fnOf (headPut s fn off v f) k = fnOf s k) ∧
    headPut s fn off v f = { s with fns := (headPut s fn off v f).fns, fnRegs := (headPut s fn off v f).fnRegs } :=
  ⟨fnGet_fnPut_self (fnStPut s fn f) fn off v, fnOf_headPut_self s fn off v f, fun _ => fnOf_headPut_ne s fn off v f, eq_of_headPut s fn off v f⟩

end

section
variable {s : State} {fn : Fn} (hup : fnUp s fn.val = true) (v : U32)
include hup

theorem exec_trRespHeadWrite_of_up : exec (.trRespHeadWrite fn v) s = .next
    (let f := fnOf s fn.val
    let d := (v.toNat + 1024 - f.respRead % 1024) % 1024
    if v.toNat ≥ 1024 ∨ d > f.respWritten - f.respRead then pinc s P.trConfigIgnored
    else updatesRun (respFlush (headPut s fn.val 0x58 v.toNat { f with respRead := f.respRead + d }) fn.val f.respWaiting.length) fn.val f.updates.length) := by
  change execTrRespHeadWrite fn v s = _
  unfold execTrRespHeadWrite
  rw [if_neg (by simp [hup]), apply_ite Host.Outcome.next]
  rfl

theorem exec_fltRingHeadWrite_of_up : exec (.fltRingHeadWrite fn v) s = .next
    (let f := fnOf s fn.val
    let g := (v.toNat + 16 - f.fltRead % 16) % 16
    if v.toNat ≥ 16 ∨ g > f.fltWritten - f.fltRead then pinc s P.trConfigIgnored
    else faultFlush (headPut s fn.val 0x68 v.toNat { f with fltRead := f.fltRead + g }) fn.val f.fltWaiting.length) := by
  change execFltRingHeadWrite fn v s = _
  unfold execFltRingHeadWrite
  rw [if_neg (by simp [hup]), apply_ite Host.Outcome.next]
  rfl

end

/-- Settles O38: a resolve by what its context and its batch are, a window and a timeout by the time, a head pointer by where it points. -/
theorem faultConversation : Obligations.FaultConversation := by
  refine ⟨fun s fn batch ctx hup hqueue hwait hroom => ?_, fun s ctx hlive hcollecting => ⟨fun hearly => ?_, fun hpast => ?_⟩,
    fun s ctx hlive hdelivered hwritten => ⟨fun hearly => ?_, fun hpast => ?_⟩,
    fun s fn v hup => ⟨fun hignored => ?_, fun hin hahead hresponses hupdates => ?_, fun hignored => ?_, fun hin hahead hwaiting => ?_⟩⟩
  · intro c s0 d ans
    have hidle : AnswersAtOnce (fnOf s fn.val) := ⟨hqueue, hwait, hroom⟩
    refine ⟨fun hlive hfn hdelivered hlast => ?_,
      fun hlive hfn hnear hpast hbefore => exec_fltResolve_of_either hup hidle batch ctx fun _ hverdict => ?_,
      fun hlive hfn hunknown hdelivered hcollecting => exec_fltResolve_of_either hup hidle batch ctx fun _ hverdict => ?_,
      fun hlost hfn => exec_fltResolve_of_either hup hidle batch ctx fun _ hverdict => ?_,
      fun hstrange => exec_fltResolve_of_either hup hidle batch ctx fun _ hverdict => ?_⟩
    · have hdecided := fun {verdict} hverdict =>
        resolveDecide_of_outstanding (s := s0) (verdict := verdict) hverdict batch.toNat hlive hfn hdelivered hlast
      have hresume := (exec_fltResolveResume_of_idle hup hidle batch ctx).trans (congrArg _ ((hdecided (by decide)).trans (if_pos rfl)))
      have habort := (exec_fltResolveAbort_of_idle hup hidle batch ctx).trans (congrArg _ ((hdecided (by decide)).trans (if_neg (by decide))))
      have hctx := ctxOf_batchClosed s0 fn.val ctx.toNat batch.toNat
      have hseats := batchClosed_seats s0 fn.val ctx.toNat batch.toNat
      refine ⟨fun hnone => ?_, fun hheld hshort => ?_, habort⟩
      · exact ⟨_, hresume.trans (congrArg _ (congrArg _ hnone)), congrArg Ctx.fault hctx, hseats, batchClosed_sent s0 fn.val ctx.toNat batch.toNat,
          batchClosed_mem s0 fn.val ctx.toNat batch.toNat, fun k => ctxOf_batchClosed_ne s0 fn.val ctx.toNat batch.toNat⟩
      · obtain ⟨tbOpen, hopen⟩ := batchOpen_of_short (batchClosed s0 fn.val ctx.toNat batch.toNat) ctx.toNat hheld hshort
        refine ⟨_, hresume.trans (congrArg _ hopen), ?_⟩
        rw [ctxOf_ctxPut_self, hctx, ctxPut_seats]
        exact ⟨rfl, rfl, rfl, rfl, hseats⟩
    · exact resolveDecide_of_earlier (s := s0) hverdict batch.toNat hlive hfn (not_outstanding_of_earlier hbefore) ⟨hnear, hpast, hbefore⟩
    · exact resolveDecide_of_unknown (s := s0) hverdict batch.toNat hlive hfn (fun h => hdelivered h.1 h.2) (not_earlier_of_unknown hunknown hcollecting)
    · exact resolveDecide_of_lost (s := s0) hverdict batch.toNat hlost hfn
    · have hheard : ¬ HeardFor c fn.val := fun h => hstrange.elim (fun hst => h.1.elim hst.1 hst.2) (fun hfn => hfn h.2)
      exact resolveDecide_of_not_heardFor (s := s0) hverdict batch.toNat hheard
  · rw [exec_faultWindowExpiry_of_collecting hlive hcollecting, if_neg (ne_true_of_eq_false hearly)]
  · rw [exec_faultWindowExpiry_of_collecting hlive hcollecting, if_pos hpast]
    obtain ⟨hst, hrecords, hrest⟩ := batchDeliver_shows s ctx.toNat
    refine ⟨_, rfl, hst, hrecords, eq_of_outsideBatches hrest, fun hfirst hroom => ?_, fun hfull => ?_⟩
    · obtain ⟨f, x, hwritten⟩ := batchDeliver_of_room s ctx.toNat hfirst hroom
      rw [hwritten, ctxOf_batchWritten, faultBatches_batchWritten]
      exact ⟨rfl, rfl, bitOf_raiseCause _ _ _, rfl⟩
    · rw [batchDeliver_of_full s ctx.toNat hfull, ctxOf_batchQueued]
      exact ⟨rfl, rfl⟩
  · rw [exec_faultTimeoutExpiry_of_delivered hlive hdelivered hwritten, if_neg (ne_true_of_eq_false hearly)]
  · rw [exec_faultTimeoutExpiry_of_delivered hlive hdelivered hwritten, if_pos hpast]
  · exact (exec_trRespHeadWrite_of_up hup v).trans (congrArg _ (if_pos hignored))
  · have hinside := not_or.mpr ⟨Nat.not_le.mpr hin, Nat.not_lt.mpr hahead⟩
    have hhead := (exec_trRespHeadWrite_of_up hup v).trans
      (congrArg _ ((if_neg hinside).trans (updatesRun_respFlush_nothing _ fn.val hresponses hupdates)))
    exact ⟨_, hhead, headPut_shows _ _ _ _ _⟩
  · exact (exec_fltRingHeadWrite_of_up hup v).trans (congrArg _ (if_pos hignored))
  · have hinside := not_or.mpr ⟨Nat.not_le.mpr hin, Nat.not_lt.mpr hahead⟩
    have hhead := (exec_fltRingHeadWrite_of_up hup v).trans (congrArg _ ((if_neg hinside).trans (faultFlush_nothing _ fn.val hwaiting)))
    exact ⟨_, hhead, headPut_shows _ _ _ _ _⟩

end Sys2Proof
end

section
/-! O39, O41 and O42, facts they share: a register of a function that is put, and what an interrupt leaves of the registers (10 R338, R357). -/
namespace Sys2Proof
open Sys2Proof.Machine

section
variable (s : State) (fn : Nat)

/-- A register that is put leaves every other register of every function. -/
theorem fnGet_fnPut_other {off : Nat} (hoff : off < 0x10000) (v : Nat) {g o : Nat} (h : g ≠ fn ∨ o ≠ off) (ho : o < 0x10000) :
    fnGet (fnPut s fn off v) g o = fnGet s g o := fnGet_fnPut_ne s _ _ _ _ _ (by omega)

theorem msixSend_of_open {vec : Nat} (hrel : s.start.releasesStopped = false) (hmask : bitOf (fnGet s fn (0x1000 + 16 * vec + 12)) 0 = false) :
    msixSend s fn vec = emit s (.msix fn vec) := by
  unfold msixSend
  rw [if_neg (ne_true_of_eq_false hrel), if_neg (ne_true_of_eq_false hmask)]

theorem fnGet_msixSend (vec : Nat) {off : Nat} (hoff : off < 0x10000) (hpba : off ≠ 0x1800) : fnGet (msixSend s fn vec) fn off = fnGet s fn off := by
  unfold msixSend
  split
  · rfl
  · split
    · exact fnGet_fnPut_other s fn (by decide) _ (.inr hpba) hoff
    · rfl

/-- A cause that is raised leaves every register but the status and the pending bits. -/
theorem fnGet_raiseCause (c : Nat) {off : Nat} (hoff : off < 0x10000) (hstatus : off ≠ 0x80) (hpba : off ≠ 0x1800) :
    fnGet (raiseCause s fn c) fn off = fnGet s fn off := by
  have hput := fnGet_fnPut_other s fn (by decide) (setBitOf (fnGet s fn 0x80) c true) (.inr hstatus : fn ≠ fn ∨ off ≠ 0x80) hoff
  unfold raiseCause
  dsimp only
  split
  · rfl
  · split
    · exact hput
    · exact (fnGet_msixSend _ fn _ hoff hpba).trans hput

end

/-! ### A CTX_CMD that is looked at -/

/-- The registers of a function can be reached, and a CTX_CMD of it is not dropped. -/
structure TakesCmd (s : State) (fn : Nat) : Prop where
  up : fnUp s fn = true
  idle : fnGet s fn 0x28 = 0
  none : (fnOf s fn).cmd = none
  full : pget s P.startStage = 5

/-- A field of a CTX_CMD that is reserved or not used by its operation is set. -/
def CmdFieldBad (w op : Nat) : Prop :=
  op = 0 ∨ op > 4 ∨ bitsOf w 7 4 ≠ 0 ∨ (op = 1 ∧ bitsOf w 31 16 ≠ 0) ∨ ((op = 1 ∨ op = 2) ∧ bitsOf w 15 8 ≠ 0)

theorem not_dropped_of_takesCmd {s : State} {fn : Nat} (h : TakesCmd s fn) :
    ¬ (fnGet s fn 0x28 = 1 ∨ (fnOf s fn).cmd.isSome = true ∨ pget s P.startStage ≠ 5) := by
  rw [h.idle, h.none, h.full]
  decide

theorem ctxCmd_of_fieldBad {s : State} {fn : Nat} (h : TakesCmd s fn) {w op : Nat} (hbad : CmdFieldBad w op) (go : State → Nat → Nat → Nat → State) :
    ctxCmd s fn w op go = .next (ctxDecide s fn (bitsOf w 63 32) (bitsOf w 31 16) 0x0A01) := by
  unfold ctxCmd
  dsimp only
  rw [if_neg (by simp [h.up]), if_neg (not_dropped_of_takesCmd h)]
  exact if_pos hbad

end Sys2Proof
end

section
/-! O39: register writes without a row, translations of pages and slices that are zeroed (09 R305, R312, R317, 10 R338, R357; logs 12, 35 and 84). -/
namespace Sys2Proof
open Sys2Proof.Machine

/-! ### Writes to BAR0 -/

/-- A write to an offset of BAR0 that is no command register and not of the MSI-X table. -/
def plainWrite (s : State) (fn off size w : Nat) : State :=
  match regMask off with
  | none => s
  | some m =>
    if size ≠ 8 then s
    else if ctxLive s fn ≠ 0 ∧ (off = 0x50 ∨ off = 0x60) then pinc s P.trConfigIgnored
    else if ctxLive s fn ≠ 0 ∧ (off = 0x08 ∨ off = 0x90) then pinc s P.fnConfigIgnored
    else if off = 0x50 ∧ w % 0x4000 ≠ 0 ∨ off = 0x60 ∧ w % 0x10000 ≠ 0 then pinc s P.trConfigIgnored
    else fnPut s fn off (w &&& m)

section
variable (s : State) (fn : Nat) {off size : Nat} (w : Nat)

theorem plainWrite_of_unmasked (h : regMask off = none ∨ size ≠ 8) : plainWrite s fn off size w = s := by
  unfold plainWrite
  split
  · rfl
  · next m hm => exact if_pos (h.resolve_left fun hnone => Option.some_ne_none m (hm.symm.trans hnone))

theorem plainWrite_of_masked {m : Nat} (hm : regMask off = some m) (hsize : size = 8) : plainWrite s fn off size w =
    if ctxLive s fn ≠ 0 ∧ (off = 0x50 ∨ off = 0x60) then pinc s P.trConfigIgnored
    else if ctxLive s fn ≠ 0 ∧ (off = 0x08 ∨ off = 0x90) then pinc s P.fnConfigIgnored
    else if off = 0x50 ∧ w % 0x4000 ≠ 0 ∨ off = 0x60 ∧ w % 0x10000 ≠ 0 then pinc s P.trConfigIgnored
    else fnPut s fn off (w &&& m) := by
  unfold plainWrite
  rw [hm]
  exact if_neg (not_not_intro hsize)

end

section
variable {s : State} {fn : Fn} (hup : fnUp s fn.val = true) (off : U16) (size : Fin 9) (v : U64)
include hup

/-- A write to BAR0, by its offset and size. -/
theorem exec_registerWrite_bar0 : exec (.registerWrite fn .bar0 off size v) s =
    if off.toNat = 0x40 ∧ size.val = 8 then
      .next (updatePush s fn.val (bitsOf v.toNat 15 14) (bitsOf v.toNat 31 16) (bitsOf v.toNat 11 0) (bitsOf v.toNat 63 32))
    else if off.toNat = 0x48 ∧ size.val = 8 then .next (resolvePush s fn.val (bitsOf v.toNat 15 14) (bitsOf v.toNat 31 16) (bitsOf v.toNat 63 32))
    else if off.toNat = 0x18 ∧ size.val = 8 ∧ (v.toNat % 16 = 0 ∨ v.toNat % 16 > 4) then ctxCmd s fn.val v.toNat (v.toNat % 16) (fun s _ _ _ => s)
    else if 0x1000 ≤ off.toNat ∧ off.toNat + size.val ≤ 0x1200 ∧ off.toNat % size.val = 0 ∧ (size.val = 4 ∨ size.val = 8) then
      .next (if size.val = 4 then msixWrite s fn.val off.toNat v.toNat
        else msixWrite (msixWrite s fn.val off.toNat (v.toNat % 2 ^ 32)) fn.val (off.toNat + 4) (v.toNat / 2 ^ 32))
    else .next (plainWrite s fn.val off.toNat size.val v.toNat) := by
  change execRegisterWrite fn .bar0 off size v s = _
  unfold execRegisterWrite plainWrite
  dsimp only
  rw [if_neg (by simp [hup]), if_neg (by decide), if_neg (by decide), if_neg (by decide)]
  cases regMask off.toNat with
  | none => rfl
  | some m => simp only [← apply_ite Host.Outcome.next]

theorem exec_registerWrite_deviceControl2 : exec (.registerWrite fn .deviceControl2 off size v) s =
    .next (fnStPut s fn.val { fnOf s fn.val with atomics := bitOf v.toNat 6 }) := by
  change execRegisterWrite fn .deviceControl2 off size v s = _
  unfold execRegisterWrite
  dsimp only
  rw [if_neg (by simp [hup]), if_neg (by decide), if_neg (by decide)]
  rfl

theorem exec_registerWrite_atsControl : exec (.registerWrite fn .atsControl off size v) s = .next (atsEnable s fn.val (bitOf v.toNat 15)) := by
  change execRegisterWrite fn .atsControl off size v s = _
  unfold execRegisterWrite
  dsimp only
  rw [if_neg (by simp [hup]), if_neg (by decide)]
  rfl

variable {off size}

theorem exec_registerWrite_of_plain (hbelow : off.toNat < 0x1000) (hctxCmd : off.toNat ≠ 0x18) (hcommand : size.val = 8 → off.toNat ≠ 0x40 ∧ off.toNat ≠ 0x48) :
    exec (.registerWrite fn .bar0 off size v) s = .next (plainWrite s fn.val off.toNat size.val v.toNat) := by
  rw [exec_registerWrite_bar0 hup, if_neg fun h => (hcommand h.2).1 h.1, if_neg fun h => (hcommand h.2).2 h.1, if_neg fun h => hctxCmd h.1,
    if_neg fun h => Nat.not_le.mpr hbelow h.1]

/-- RT_UPDATE and FLT_RESOLVE take their 8 bytes, whatever their operation. -/
theorem exec_registerWrite_of_command (hsize : size.val = 8) : exec (.registerWrite fn .bar0 0x40#16 size v) s =
      .next (updatePush s fn.val (bitsOf v.toNat 15 14) (bitsOf v.toNat 31 16) (bitsOf v.toNat 11 0) (bitsOf v.toNat 63 32)) ∧
    exec (.registerWrite fn .bar0 0x48#16 size v) s =
      .next (resolvePush s fn.val (bitsOf v.toNat 15 14) (bitsOf v.toNat 31 16) (bitsOf v.toNat 63 32)) := by
  rw [exec_registerWrite_bar0 hup, exec_registerWrite_bar0 hup, if_pos ⟨rfl, hsize⟩, if_neg fun h => absurd h.1 (by decide), if_pos ⟨rfl, hsize⟩]
  exact ⟨rfl, rfl⟩

/-- A CTX_CMD whose OP names no command comes to the checks of one. -/
theorem exec_registerWrite_ctxCmd (hop : v.toNat % 16 = 0 ∨ 4 < v.toNat % 16) :
    exec (.registerWrite fn .bar0 0x18#16 8 v) s = ctxCmd s fn.val v.toNat (v.toNat % 16) (fun s _ _ _ => s) := by
  rw [exec_registerWrite_bar0 hup, if_neg fun h => absurd h.1 (by decide), if_neg fun h => absurd h.1 (by decide), if_pos ⟨rfl, rfl, hop⟩]

theorem exec_registerWrite_msix (hlo : 0x1000 ≤ off.toNat) (hhi : off.toNat < 0x1200) (halign : off.toNat % 4 = 0) (hsize : size.val = 4) :
    exec (.registerWrite fn .bar0 off size v) s = .next (msixWrite s fn.val off.toNat v.toNat) := by
  rw [exec_registerWrite_bar0 hup, if_neg (by omega), if_neg (by omega), if_neg (by omega), hsize, if_pos ⟨hlo, by omega, halign, .inl rfl⟩, if_pos rfl]

end

/-! ### ATS Enable -/

/-- Setting ATS Enable keeps the translations, and clearing it drops those of the function. -/
theorem atsEnable_shows (s : State) (fn : Nat) (on : Bool) : (fnOf (atsEnable s fn on) fn).ats = on ∧
    atsEnable s fn on = { s with fns := (atsEnable s fn on).fns, atc := (atsEnable s fn on).atc } ∧
    (on = true → (atsEnable s fn on).atc = s.atc) ∧ (on = false → (atsEnable s fn on).atc = s.atc.filter (fun e => e.1 / 2 ^ 44 != fn)) := by
  have hats : (fnOf (fnStPut s fn { fnOf s fn with ats := on }) fn).ats = on := congrArg FnSt.ats (fnOf_fnStPut_self s fn _)
  cases on with
  | true => exact ⟨hats, rfl, fun _ => rfl, fun h => absurd h (by decide)⟩
  | false => exact ⟨hats, rfl, fun h => absurd h (by decide), fun _ => rfl⟩

/-! ### The MSI-X table -/

section
variable (s : State) (fn : Nat) {off v : Nat}

/-- A dword of the table that is no vector control. -/
theorem msixWrite_of_field (hoff : off % 16 ≠ 12) (hv : v < 2 ^ 32) : msixWrite s fn off v = fnPut s fn off v := by
  unfold msixWrite
  dsimp only
  rw [if_neg hoff, if_neg fun h => hoff h.1, Nat.mod_eq_of_lt hv]

/-- The mask of a vector with a pending message is cleared. -/
def msixUnmasked (off vec : Nat) : State :=
  emit (fnPut (fnPut s fn off 0) fn 0x1800 (setBitOf (fnGet s fn 0x1800) vec false)) (.msix fn vec)

theorem msixWrite_of_pending {vec : Nat} (hoff : off = 0x1000 + 16 * vec + 12) (hvec : vec < 32) (hv : v % 2 = 0) (hrel : s.start.releasesStopped = false)
    (hpending : bitOf (fnGet s fn 0x1800) vec = true) : msixWrite s fn off v = msixUnmasked s fn off vec := by
  have hmod : off % 16 = 12 := by omega
  have hdiv : (off - 0x1000) / 16 = vec := by omega
  have hclear : bitOf (fnGet (fnPut (fnPut s fn off 0) fn 0x1800 (setBitOf (fnGet s fn 0x1800) vec false)) fn (0x1000 + 16 * vec + 12)) 0 = false := by
    rw [← hoff, fnGet_fnPut_other _ fn (by decide) _ (.inr (by omega)) (by omega), fnGet_fnPut_self]
    rfl
  unfold msixWrite msixUnmasked
  dsimp only
  rw [hdiv, if_pos hmod, if_pos ⟨hmod, hv, hpending⟩, hv]
  exact msixSend_of_open (fnPut (fnPut s fn off 0) fn 0x1800 _) fn hrel hclear

theorem eq_of_msixUnmasked (off vec : Nat) :
    msixUnmasked s fn off vec = { s with fnRegs := (msixUnmasked s fn off vec).fnRegs, sent := (msixUnmasked s fn off vec).sent } := by
  unfold msixUnmasked fnPut emit
  rfl

theorem msixUnmasked_shows (hhi : off < 0x1200) (vec : Nat) : (msixUnmasked s fn off vec).sent = s.sent ++ [.msix fn vec] ∧
    bitOf (fnGet (msixUnmasked s fn off vec) fn 0x1800) vec = false ∧ fnGet (msixUnmasked s fn off vec) fn off = 0 ∧
    msixUnmasked s fn off vec = { s with fnRegs := (msixUnmasked s fn off vec).fnRegs, sent := (msixUnmasked s fn off vec).sent } := by
  refine ⟨rfl, ?_, ?_, eq_of_msixUnmasked s fn off vec⟩
  · exact (congrArg (bitOf · vec) (fnGet_fnPut_self (fnPut s fn off 0) fn 0x1800 _)).trans (bitOf_setBitOf_false _ vec)
  · exact (fnGet_fnPut_other (fnPut s fn off 0) fn (by decide) _ (.inr (by omega)) (by omega)).trans (fnGet_fnPut_self s fn off 0)

end

/-! ### Translations of pages -/

/-- The cache of translations with a page in it; a full one gives up its first. -/
def atcPut (s : State) (k : Nat) (x : Nat × Bool) : State :=
  { s with atc := tins (tdel (if s.atc.length ≥ 8192 then s.atc.tail else s.atc) k) k x }

section
variable (s : State) (k : Nat) (x : Nat × Bool)

theorem tfind_atcPut_self : tfind (atcPut s k x).atc k = some x := tfind_tins_self _ _ _ (tfind_tdel_self _ _)

theorem atc_atcPut_of_room (h : s.atc.length < 8192) : (atcPut s k x).atc = tins (tdel s.atc k) k x := by
  unfold atcPut
  rw [if_neg (Nat.not_le.mpr h)]

theorem tfind_atcPut_ne (h : s.atc.length < 8192) {j : Nat} (hj : j ≠ k) : tfind (atcPut s k x).atc j = tfind s.atc j := by
  rw [atc_atcPut_of_room s k x h, tfind_tins_ne _ _ _ _ hj, tfind_tdel_ne _ _ _ hj]

end

/-- The translations of the pages outside a span. -/
def atcOutside (t : Tbl (Nat × Bool)) (lo n : Nat) : Tbl (Nat × Bool) := t.filter (fun e => !(decide (lo ≤ e.1) && decide (e.1 < lo + n)))

theorem tfind_atcOutside (t : Tbl (Nat × Bool)) (lo n k : Nat) : tfind (atcOutside t lo n) k = if lo ≤ k ∧ k < lo + n then none else tfind t k := by
  refine (tfind_filter_of_key t (fun k => !(decide (lo ≤ k) && decide (k < lo + n))) k).trans ?_
  by_cases h : lo ≤ k ∧ k < lo + n
  · rw [if_pos h, if_neg (by simp [h.1, h.2])]
  · rw [if_neg h, if_pos (by rw [← Bool.decide_and, decide_eq_false h]; rfl)]

theorem advRetryAll_of_none {s : State} (h : s.advWaits = []) : advRetryAll s = s := by
  have hsame : { s with advWaits := [] } = s := by rw [← h]
  unfold advRetryAll
  rw [h]
  exact hsame

section
variable {s : State} {fn : Fn} (hup : fnUp s fn.val = true) (page : BitVec 44)
include hup

theorem exec_atsTranslationCompletion_granted (p : BitVec 44) (w : Bool) : exec (.atsTranslationCompletion fn page (some (p, w))) s =
    .next (advRetryAll (atcPut s (atcKey fn.val page.toNat) (p.toNat, w))) := by
  change execAtsTranslationCompletion fn page (some (p, w)) s = _
  unfold execAtsTranslationCompletion
  dsimp only
  rw [if_neg (by simp [hup])]
  rfl

theorem exec_atsTranslationCompletion_denied : exec (.atsTranslationCompletion fn page none) s =
    .next (advRetryAll (atcPut s (atcKey fn.val page.toNat) (2 ^ 52, false))) := by
  change execAtsTranslationCompletion fn page none s = _
  unfold execAtsTranslationCompletion
  dsimp only
  rw [if_neg (by simp [hup])]
  rfl

theorem exec_atsInvalidationRequest_of_up (n : U32) : exec (.atsInvalidationRequest fn page n) s =
    .next (emit { s with atc := atcOutside s.atc (atcKey fn.val page.toNat) n.toNat } (.atsInvalidated fn.val page.toNat n.toNat)) := by
  change execAtsInvalidationRequest fn page n s = _
  unfold execAtsInvalidationRequest
  exact if_neg (by simp [hup])

end

/-! ### Fence advances that wait for a page -/

section
variable {s : State} {cid i : Nat} {b : FenceBind} (hbound : tget (fun _ => none) (ctxOf s cid).fences i = some b)
include hbound

/-- An advance at a page without a translation asks for it and waits. -/
theorem advanceBinding_of_ats (hup : frontUp s = true) {f p : Nat} (hats : translatePins s cid [] b.va .atomic = .ats f p) (v : Nat) :
    advanceBinding s cid i v = (emit { s with advWaits := s.advWaits ++ [(cid, i, v)] } (.atsRequest f p), true) := by
  have hopen : (s.start.entry || s.start.releasesStopped) = false := by simpa [frontUp] using hup
  unfold advanceBinding
  dsimp only
  rw [hbound]
  dsimp only
  rw [if_neg (ne_true_of_eq_false hopen), hats]

/-- An advance that waited is made where its page is there now. -/
theorem advRetry_of_there {v : Nat} (hthere : ∀ f q, translatePins s cid [] b.va .atomic ≠ .ats f q) (hmade : (advanceBinding s cid i v).2 = true) :
    advRetry s (cid, i, v) = (advanceBinding s cid i v).1 := by
  unfold advRetry
  dsimp only
  rw [hbound]
  dsimp only
  split
  · next f q hats => exact absurd hats (hthere f q)
  · exact if_pos hmade

end

/-! ### A slice that has been zeroed -/

/-- A slice that has been zeroed, and is held by nothing. -/
def sliceZeroed (s : State) (k : Nat) : State :=
  sliceHeal (memZero { s with slices := tdel s.slices k } (sliceBase k) 0x400000) (sliceBase k) 0x400000

theorem exec_sliceZeroDone (s : State) (die : Fin 16) (slice : Fin 48) : exec (.sliceZeroDone die slice) s =
    .next (if sliceOwner s (die.val * 48 + slice.val) = some 33 then sliceZeroed s (die.val * 48 + slice.val) else s) := by
  change execSliceZeroDone die slice s = _
  unfold execSliceZeroDone
  rw [apply_ite Host.Outcome.next]
  rfl

theorem mem_sliceBad_sliceZeroed {s : State} {k w : Nat} (h : w ∈ (sliceZeroed s k).sliceBad) :
    w ∈ s.sliceBad ∧ (w < sliceBase k ∨ sliceBase k + 0x400000 < w + 8) := by
  obtain ⟨hin, hout⟩ := List.mem_filter.mp h
  rw [← Bool.decide_and, Bool.not_eq_true', decide_eq_false_iff_not] at hout
  exact ⟨hin, by omega⟩

/-- Settles O39: a register by its offset and size, a page by what its cache holds, a slice by its owner. -/
theorem registerWrites : Obligations.RegisterWrites := by
  refine ⟨fun s fn off size v hup hbelow hctxCmd hupdate hresolve => ?_, fun s fn off size v hup hlo hhi halign hsize hv => ⟨fun hoff => ?_, fun hoff hclear hrel hpending => ?_⟩,
    fun s fn v hup hidle hcmd hstage hop => ?_, fun s fn size v hup => ⟨fun hsize => ?_, fun hsize => ?_⟩, fun s fn off size v hup => ⟨?_, ?_⟩,
    fun s fn page p w hup hwaits => ⟨?_, ?_⟩, fun s cid i v f p b hbound hup hats => advanceBinding_of_ats hbound hup hats v,
    fun s fn page p w cid i v b hup hwaits hroom hbound => ?_, fun s fn page n hup => ?_, fun s die slice hown => ?_, fun s die slice hown => ?_⟩
  · have hwrite := exec_registerWrite_of_plain hup v hbelow hctxCmd (size := size) fun _ => ⟨hupdate, hresolve⟩
    refine ⟨fun hno => hwrite.trans (congrArg _ (plainWrite_of_unmasked s fn.val _ hno)), fun m hm hsize => ?_⟩
    rw [hwrite, plainWrite_of_masked s fn.val _ hm hsize]
    refine ⟨fun hheld hoff => ?_, fun hheld hoff => ?_, fun hfree h50 h60 => ?_⟩
    · rw [if_pos ⟨hheld, hoff⟩]
    · rw [if_neg (by omega), if_pos ⟨hheld, hoff⟩]
    · rw [if_neg (by omega), if_neg (by omega), if_neg (by omega)]
      exact ⟨_, rfl, fnGet_fnPut_self s _ _ _, fun g o h ho => fnGet_fnPut_other s fn.val (by omega) _ h ho, rfl⟩
  · have hwrite := exec_registerWrite_msix hup v hlo hhi halign hsize
    rw [msixWrite_of_field s fn.val hoff hv] at hwrite
    exact ⟨_, hwrite, fnGet_fnPut_self s _ _ _, fun g o h ho => fnGet_fnPut_other s fn.val (by omega) _ h ho, rfl⟩
  · have hwrite := exec_registerWrite_msix hup v hlo hhi halign hsize
    rw [msixWrite_of_pending s fn.val (by omega) (by omega) hclear hrel hpending] at hwrite
    exact ⟨_, hwrite, msixUnmasked_shows s fn.val hhi _⟩
  · have hbad : CmdFieldBad v.toNat (v.toNat % 16) := hop.elim .inl fun h => .inr (.inl h)
    rw [exec_registerWrite_ctxCmd hup v hop, ctxCmd_of_fieldBad ⟨hup, hidle, hcmd, hstage⟩ hbad]
  · exact exec_registerWrite_of_command hup v hsize
  · have hshort := fun (off : U16) hbelow hctxCmd => exec_registerWrite_of_plain hup v (off := off) hbelow hctxCmd fun h => absurd h hsize
    rw [hshort _ (by decide) (by decide), hshort _ (by decide) (by decide), plainWrite_of_unmasked s fn.val _ (.inl rfl),
      plainWrite_of_unmasked s fn.val _ (.inl rfl)]
    exact ⟨rfl, rfl⟩
  · exact exec_registerWrite_deviceControl2 hup off size v
  · exact ⟨_, exec_registerWrite_atsControl hup off size v, atsEnable_shows s fn.val _⟩
  · refine ⟨_, (exec_atsTranslationCompletion_granted hup page p w).trans (congrArg _ (advRetryAll_of_none hwaits)), tfind_atcPut_self s _ _, rfl,
      fun hroom k hk => tfind_atcPut_ne s _ _ hroom hk⟩
  · exact ⟨_, (exec_atsTranslationCompletion_denied hup page).trans (congrArg _ (advRetryAll_of_none hwaits)), tfind_atcPut_self s _ _, rfl⟩
  · intro u hthere hmade
    have hretry : advRetryAll (atcPut s (atcKey fn.val page.toNat) (p.toNat, w)) = advRetry u (cid, i, v) := by
      unfold advRetryAll atcPut
      rw [if_neg (Nat.not_le.mpr hroom)]
      dsimp only
      rw [hwaits]
      rfl
    rw [exec_atsTranslationCompletion_granted hup, hretry, advRetry_of_there (s := u) hbound hthere hmade]
  · exact ⟨_, exec_atsInvalidationRequest_of_up hup page n, rfl, rfl, tfind_atcOutside s.atc _ _⟩
  · refine ⟨_, (exec_sliceZeroDone s die slice).trans (congrArg _ (if_pos hown)), tfind_tdel_self _ _, fun k hk => tfind_tdel_ne _ _ _ hk,
      fun a => memGet_memZero _ _ _ a, rfl, fun w => mem_sliceBad_sliceZeroed⟩
  · rw [exec_sliceZeroDone, if_neg hown]

end Sys2Proof
end

section
/-! O41: contexts that are created, bound and destroyed through CTX_CMD (10 R339 to R343, R350, R351, R359, R362). -/
namespace Sys2Proof
open Sys2Proof.Machine

/-! ### A CTX_CMD is decided -/

section
variable (s : State) (fn seq cid code : Nat)

theorem eq_of_outsideResponses {s t : State} (h : outsideResponses t = outsideResponses s) : t = { s with fns := t.fns, fnRegs := t.fnRegs, sent := t.sent } :=
  (congrArg (fun u : State => { u with fns := t.fns, fnRegs := t.fnRegs, sent := t.sent }) h :)

theorem outsideResponses_ctxDecide : outsideResponses (ctxDecide s fn seq cid code) = outsideResponses s := by
  unfold ctxDecide
  exact (outsideResponses_raiseCause _ fn 5)

theorem ctxOf_ctxDecide (k : Nat) : ctxOf (ctxDecide s fn seq cid code) k = ctxOf s k :=
  congrArg (tget _ · k) (congrArg State.ctxs (outsideResponses_ctxDecide s fn seq cid code) :)

/-- The codes after which a command can be sent again under its CMD_SEQ. -/
def Resendable (code : Nat) : Prop := code = 0x0A01 ∨ code = 0x0A03 ∨ code = 0x0A04

theorem fnOf_ctxDecide_of_resendable (h : Resendable code) : fnOf (ctxDecide s fn seq cid code) fn = { fnOf s fn with cmd := none } := by
  unfold ctxDecide
  dsimp only
  rw [fnOf_raiseCause, fnOf_of_fnPut, fnOf_of_fnPut, fnOf_fnStPut_self]
  exact if_pos h

theorem fnOf_ctxDecide_of_decided (h : ¬ Resendable code) : fnOf (ctxDecide s fn seq cid code) fn =
    { fnOf s fn with cmd := none, lastCmdSeq := some seq, lastResult := ctxResult seq cid code } := by
  unfold ctxDecide
  dsimp only
  rw [fnOf_raiseCause, fnOf_of_fnPut, fnOf_of_fnPut, fnOf_fnStPut_self]
  exact if_neg h

theorem cmd_ctxDecide : (fnOf (ctxDecide s fn seq cid code) fn).cmd = none := by
  by_cases h : Resendable code
  · rw [fnOf_ctxDecide_of_resendable s fn seq cid code h]
  · rw [fnOf_ctxDecide_of_decided s fn seq cid code h]

theorem ctxBusy_ctxDecide : fnGet (ctxDecide s fn seq cid code) fn 0x28 = 0 := by
  unfold ctxDecide
  rw [fnGet_raiseCause _ fn 5 (by decide) (by decide) (by decide), fnGet_fnPut_self]

theorem ctxResult_ctxDecide : fnGet (ctxDecide s fn seq cid code) fn 0x20 = ctxResult seq cid code := by
  unfold ctxDecide
  rw [fnGet_raiseCause _ fn 5 (by decide) (by decide) (by decide), fnGet_fnPut_other _ fn (by decide) _ (.inr (by decide)) (by decide), fnGet_fnPut_self]

end

/-! ### The checks of a CTX_CMD -/

/-- A CTX_CMD of an operation goes through the checks of one, whatever it performs then. -/
def ChecksAs (s : State) (fn : Fn) (w : U64) (op : Nat) (i : Instr) : Prop := ∃ go, exec i s = ctxCmd s fn.val w.toNat op go

section
variable (s : State) (fn : Fn) (w : U64)

theorem checksAs_create : ChecksAs s fn w 1 (.ctxCmdCreate fn w) := ⟨_, (rfl : execCtxCmdCreate fn w s = _)⟩
theorem checksAs_destroy : ChecksAs s fn w 2 (.ctxCmdDestroy fn w) := ⟨_, (rfl : execCtxCmdDestroy fn w s = _)⟩
theorem checksAs_bind : ChecksAs s fn w 3 (.ctxCmdFenceBind fn w) := ⟨_, (rfl : execCtxCmdFenceBind fn w s = _)⟩
theorem checksAs_unbind : ChecksAs s fn w 4 (.ctxCmdFenceUnbind fn w) := ⟨_, (rfl : execCtxCmdFenceUnbind fn w s = _)⟩

theorem checksAs_of_mem_numbered {i : Nat × Instr} (hi : i ∈ [(1, Instr.ctxCmdCreate fn w), (2, .ctxCmdDestroy fn w), (3, .ctxCmdFenceBind fn w),
    (4, .ctxCmdFenceUnbind fn w)]) : ChecksAs s fn w i.1 i.2 ∧ 1 ≤ i.1 ∧ i.1 ≤ 4 := by
  simp only [List.mem_cons, List.not_mem_nil, or_false] at hi
  rcases hi with rfl | rfl | rfl | rfl
  · exact ⟨checksAs_create s fn w, by simp⟩
  · exact ⟨checksAs_destroy s fn w, by simp⟩
  · exact ⟨checksAs_bind s fn w, by simp⟩
  · exact ⟨checksAs_unbind s fn w, by simp⟩

theorem checksAs_of_mem {i : Instr} (hi : i ∈ [Instr.ctxCmdCreate fn w, .ctxCmdDestroy fn w, .ctxCmdFenceBind fn w, .ctxCmdFenceUnbind fn w]) :
    ∃ op, ChecksAs s fn w op i := by
  simp only [List.mem_cons, List.not_mem_nil, or_false] at hi
  rcases hi with rfl | rfl | rfl | rfl
  · exact ⟨1, checksAs_create s fn w⟩
  · exact ⟨2, checksAs_destroy s fn w⟩
  · exact ⟨3, checksAs_bind s fn w⟩
  · exact ⟨4, checksAs_unbind s fn w⟩

end

/-- No field of a CTX_CMD is set that its operation does not have. -/
theorem not_cmdFieldBad {w op : Nat} (hlo : 1 ≤ op) (hhi : op ≤ 4) (hreserved : bitsOf w 7 4 = 0) (hcid : op = 1 → bitsOf w 31 16 = 0)
    (harg : op ≤ 2 → bitsOf w 15 8 = 0) : ¬ CmdFieldBad w op := by
  unfold CmdFieldBad
  omega

/-- What refuses a command that is neither a repeat nor out of order. -/
def cmdCode (s : State) (fn cid op : Nat) : Nat := if op = 1 then ctxCreateCode s fn else ctxNameCode s fn cid op

/-- The CMD_SEQ of a command is newer than the last one decided. -/
def Fresh (f : FnSt) (seq : Nat) : Prop := ∀ l, f.lastCmdSeq = some l → serialCmp l seq = .newer

section
variable {s : State} {fn : Fn} {w : U64} {op : Nat} {i : Instr} (hi : ChecksAs s fn w op i)
include hi

theorem exec_ctxCmd_of_dropped (hup : fnUp s fn.val = true) (h : fnGet s fn.val 0x28 = 1 ∨ (fnOf s fn.val).cmd ≠ none ∨ pget s P.startStage ≠ 5) :
    exec i s = .next (pinc s P.ctxCmdDropped) := by
  obtain ⟨go, hgo⟩ := hi
  rw [hgo]
  unfold ctxCmd
  dsimp only
  rw [if_neg (by simp [hup])]
  exact if_pos (h.imp_right (.imp_left Option.isSome_iff_ne_none.mpr))

variable (htakes : TakesCmd s fn.val)
include htakes

theorem exec_ctxCmd_of_fieldBad (hbad : CmdFieldBad w.toNat op) :
    exec i s = .next (ctxDecide s fn.val (bitsOf w.toNat 63 32) (bitsOf w.toNat 31 16) 0x0A01) := by
  obtain ⟨go, hgo⟩ := hi
  exact hgo.trans (ctxCmd_of_fieldBad htakes hbad go)

variable (hfields : ¬ CmdFieldBad w.toNat op)
include hfields

/-- A command whose CMD_SEQ is not newer than the last one decided. The comparison stands here as some function, so that no check of the proof unfolds
its arithmetic modulo 2^32. -/
theorem exec_ctxCmd_of_decided {l : Nat} (hlast : (fnOf s fn.val).lastCmdSeq = some l) :
    (serialCmp l (bitsOf w.toNat 63 32) = .equal → exec i s = .next (fnPut s fn.val 0x20 (fnOf s fn.val).lastResult)) ∧
    (serialCmp l (bitsOf w.toNat 63 32) = .older → exec i s = .next (ctxDecide s fn.val (bitsOf w.toNat 63 32) (bitsOf w.toNat 31 16) 0x0A03)) ∧
    (serialCmp l (bitsOf w.toNat 63 32) = .outside → exec i s = .next (ctxDecide s fn.val (bitsOf w.toNat 63 32) (bitsOf w.toNat 31 16) 0x0A04)) := by
  obtain ⟨go, hgo⟩ := hi
  rw [hgo, ctxCmd.eq_def]
  obtain ⟨cmp, hcmp⟩ : ∃ cmp, cmp = serialCmp := ⟨_, rfl⟩
  rw [← hcmp]
  dsimp only
  rw [if_neg (by simp [htakes.up]), if_neg (not_dropped_of_takesCmd htakes), if_neg (c := op = 0 ∨ _) hfields, hlast]
  dsimp only
  cases cmp l (bitsOf w.toNat 63 32) <;> simp

end

/-- A fresh command is refused, or performed. -/
theorem ctxCmd_of_fresh {s : State} {fn : Nat} (htakes : TakesCmd s fn) {w op : Nat} (hfields : ¬ CmdFieldBad w op) (hfresh : Fresh (fnOf s fn) (bitsOf w 63 32))
    (go : State → Nat → Nat → Nat → State) : ctxCmd s fn w op go = .next (if cmdCode s fn (bitsOf w 31 16) op ≠ 0 then
      ctxDecide s fn (bitsOf w 63 32) (bitsOf w 31 16) (cmdCode s fn (bitsOf w 31 16) op) else go s (bitsOf w 63 32) (bitsOf w 31 16) (bitsOf w 15 8)) := by
  unfold Fresh at hfresh
  rw [ctxCmd.eq_def]
  obtain ⟨cmp, hcmp⟩ : ∃ cmp, cmp = serialCmp := ⟨_, rfl⟩
  rw [← hcmp] at hfresh ⊢
  dsimp only
  rw [if_neg (by simp [htakes.up]), if_neg (not_dropped_of_takesCmd htakes), if_neg (c := op = 0 ∨ _) hfields, apply_ite Host.Outcome.next]
  cases hlast : (fnOf s fn).lastCmdSeq with
  | none => rfl
  | some l =>
    dsimp only
    rw [hfresh l hlast]
    rfl

end Sys2Proof
end

section
/-! O41, the commands: what refuses a command that names a context, what an accepted one does, and what the reads and the end of a destroy bring
(10 R339, R342, R343, R350, R351, R359, 11 R366). -/
namespace Sys2Proof
open Sys2Proof.Machine

/-! ### Contexts that are named -/

section
variable {s : State} {fn cid op : Nat}

theorem ctxNameCode_of_strange (h : (ctxOf s cid).st = .free ∨ (ctxOf s cid).fn ≠ fn) : ctxNameCode s fn cid op = 0x0A05 := if_pos h

theorem ctxNameCode_of_live (hst : (ctxOf s cid).st = .live) (hfn : (ctxOf s cid).fn = fn) : ctxNameCode s fn cid op = 0 := by
  unfold ctxNameCode
  dsimp only
  rw [if_neg (by simp [hst, hfn]), hst]

theorem ctxNameCode_destroy_of_lost (hst : (ctxOf s cid).st = .lost) (hfn : (ctxOf s cid).fn = fn) : ctxNameCode s fn cid 2 = 0 := by
  unfold ctxNameCode
  dsimp only
  rw [if_neg (by simp [hst, hfn]), hst]
  rfl

/-- A DESTROYING context takes no command, and a LOST one only DESTROY. -/
theorem ctxNameCode_of_not_permitted (hfn : (ctxOf s cid).fn = fn) (h : (ctxOf s cid).st = .destroying ∨ ((ctxOf s cid).st = .lost ∧ op ≠ 2)) :
    ctxNameCode s fn cid op = 0x0A06 := by
  unfold ctxNameCode
  dsimp only
  rcases h with hst | ⟨hst, hop⟩
  · rw [if_neg (by simp [hst, hfn]), hst]
  · rw [if_neg (by simp [hst, hfn]), hst]
    split
    · next h => cases h
    · next h => exact absurd rfl hop
    · rfl

theorem cmdCode_of_named (hop : op ≠ 1) : cmdCode s fn cid op = ctxNameCode s fn cid op := if_neg hop

end

section
variable {s : State} {fn : Nat}

theorem ctxCreateCode_of_quota (h : pget s (P.ctxQuota fn) ≤ ctxLive s fn) : ctxCreateCode s fn = 0x0A07 := if_pos h

theorem ctxCreateCode_of_limit (hquota : ctxLive s fn < pget s (P.ctxQuota fn)) (h : pget s P.contextsMax ≤ ctxTotal s) : ctxCreateCode s fn = 0x0A08 :=
  (if_neg (Nat.not_le.mpr hquota)).trans (if_pos h)

theorem ctxCreateCode_of_room (hquota : ctxLive s fn < pget s (P.ctxQuota fn)) (h : ctxTotal s < pget s P.contextsMax) : ctxCreateCode s fn = 0 :=
  (if_neg (Nat.not_le.mpr hquota)).trans (if_neg (Nat.not_le.mpr h))

end

/-! ### Commands that are performed -/

/-- The host read of a command leaves it undecided, with CTX_BUSY 1. -/
theorem ctxRead_shows (s : State) (fn seq cid arg op len : Nat) :
    ((fnOf (ctxRead s fn seq cid arg op len) fn).cmd = some { seq := seq, ctx := cid, arg := arg, op := op, addr := fnGet s fn 0x10 } ∧
      fnGet (ctxRead s fn seq cid arg op len) fn 0x28 = 1) ∧
    (ctxRead s fn seq cid arg op len).sent = s.sent ++ [.hostRead (fnGet s fn 0x10) len] ∧ ctxRead s fn seq cid arg op len =
      { s with fns := (ctxRead s fn seq cid arg op len).fns, fnRegs := (ctxRead s fn seq cid arg op len).fnRegs, sent := (ctxRead s fn seq cid arg op len).sent } := by
  have hrest : outsideResponses (ctxRead s fn seq cid arg op len) = outsideResponses s := by
    unfold ctxRead outsideResponses emit fnPut fnStPut
    rfl
  refine ⟨⟨?_, fnGet_fnPut_self (fnStPut s fn _) fn 0x28 1⟩, rfl, eq_of_outsideResponses hrest⟩
  exact congrArg FnSt.cmd (fnOf_fnStPut_self s fn _)

/-- The state of a function whose command has begun: CTX_BUSY is 1 until it is decided. -/
def cmdBusy (s : State) (fn : Nat) (k : CtxCmdRun) : State := fnPut (fnStPut s fn { fnOf s fn with cmd := some k }) fn 0x28 1

section
variable {s : State} {fn : Fn} {w : U64} (htakes : TakesCmd s fn.val) (hreserved : bitsOf w.toNat 7 4 = 0)
  (hfresh : Fresh (fnOf s fn.val) (bitsOf w.toNat 63 32))
include htakes hreserved hfresh

theorem exec_ctxCmdCreate_of_fresh (hcid : bitsOf w.toNat 31 16 = 0) (harg : bitsOf w.toNat 15 8 = 0) : exec (.ctxCmdCreate fn w) s = .next
    (if ctxCreateCode s fn.val ≠ 0 then ctxDecide s fn.val (bitsOf w.toNat 63 32) (bitsOf w.toNat 31 16) (ctxCreateCode s fn.val)
    else ctxRead s fn.val (bitsOf w.toNat 63 32) (bitsOf w.toNat 31 16) (bitsOf w.toNat 15 8) 1 64) :=
  (rfl : _ = execCtxCmdCreate fn w s).trans
    (ctxCmd_of_fresh htakes (not_cmdFieldBad (by decide) (by decide) hreserved (fun _ => hcid) (fun _ => harg)) hfresh _)

theorem exec_ctxCmdDestroy_of_fresh (harg : bitsOf w.toNat 15 8 = 0) (hcode : ctxNameCode s fn.val (bitsOf w.toNat 31 16) 2 = 0) :
    exec (.ctxCmdDestroy fn w) s = .next (destroyBegin
      (cmdBusy s fn.val { seq := bitsOf w.toNat 63 32, ctx := bitsOf w.toNat 31 16, arg := bitsOf w.toNat 15 8, op := 2, addr := 0 })
      (bitsOf w.toNat 31 16) (some (bitsOf w.toNat 63 32))) := by
  change execCtxCmdDestroy fn w s = _
  unfold execCtxCmdDestroy
  rw [ctxCmd_of_fresh htakes (not_cmdFieldBad (by decide) (by decide) hreserved (fun h => absurd h (by decide)) (fun _ => harg)) hfresh,
    if_neg (not_not_intro ((cmdCode_of_named (by decide)).trans hcode))]
  rfl

variable (hst : (ctxOf s (bitsOf w.toNat 31 16)).st = .live) (hfn : (ctxOf s (bitsOf w.toNat 31 16)).fn = fn.val)
include hst hfn

theorem exec_ctxCmdFenceBind_of_live : exec (.ctxCmdFenceBind fn w) s = .next
    (ctxRead s fn.val (bitsOf w.toNat 63 32) (bitsOf w.toNat 31 16) (bitsOf w.toNat 15 8) 3 8) :=
  ((rfl : _ = execCtxCmdFenceBind fn w s).trans
    (ctxCmd_of_fresh htakes (not_cmdFieldBad (by decide) (by decide) hreserved (fun h => absurd h (by decide)) (fun h => absurd h (by decide))) hfresh _)).trans
    (congrArg _ (if_neg (not_not_intro (ctxNameCode_of_live hst hfn))))

theorem exec_ctxCmdFenceUnbind_of_live : exec (.ctxCmdFenceUnbind fn w) s = .next
    (match tget (fun _ => none) (ctxOf s (bitsOf w.toNat 31 16)).fences (bitsOf w.toNat 15 8) with
    | none => ctxDecide s fn.val (bitsOf w.toNat 63 32) (bitsOf w.toNat 31 16) 0x0A0B
    | some b =>
      if b.promised > b.kept then ctxDecide s fn.val (bitsOf w.toNat 63 32) (bitsOf w.toNat 31 16) 0x0A0D
      else ctxDecide (ctxPut s (bitsOf w.toNat 31 16) { ctxOf s (bitsOf w.toNat 31 16) with
        fences := tset (fun _ => none) (ctxOf s (bitsOf w.toNat 31 16)).fences (bitsOf w.toNat 15 8) none })
        fn.val (bitsOf w.toNat 63 32) (bitsOf w.toNat 31 16) 0) :=
  ((rfl : _ = execCtxCmdFenceUnbind fn w s).trans
    (ctxCmd_of_fresh htakes (not_cmdFieldBad (by decide) (by decide) hreserved (fun h => absurd h (by decide)) (fun h => absurd h (by decide))) hfresh _)).trans
    (congrArg _ (if_neg (not_not_intro (ctxNameCode_of_live hst hfn))))

end

/-- A destroy that begins leaves the context DESTROYING, without commands and not resident. -/
theorem ctxOf_destroyBegin (s : State) (cid : Nat) (seq : Option Nat) : ∃ c : Ctx, ctxOf (destroyBegin s cid seq) cid =
    { c with st := .destroying, destroySeq := seq, cmds := [], priv := [], call := none, callsOpen := [], resident := false, crWaiting := [] } := by
  unfold destroyBegin
  extract_lets s1 s2 s3 s4 c c1
  clear_value s4
  have hswap : ∀ (t : State) (l : List Nat), ctxOf { t with swapping := l } cid = ctxOf t cid := fun _ _ => rfl
  exact ⟨c, (hswap _ _).trans (ctxOf_ctxPut_self s4 cid c1)⟩

/-! ### Descriptors and binding addresses that come back -/

section
variable {s : State} {fn : Fn} {k : CtxCmdRun} (hcmd : (fnOf s fn.val).cmd = some k) (hop : k.op ≠ 2)
include hcmd hop

theorem exec_ctxDescReadDone_of_refused (hcode : (if k.op = 1 then ctxCreateCode s fn.val else ctxNameCode s fn.val k.ctx 3) ≠ 0) (r word : ReadResult) :
    exec (.ctxDescReadDone fn r word) s =
      .next (ctxDecide s fn.val k.seq k.ctx (if k.op = 1 then ctxCreateCode s fn.val else ctxNameCode s fn.val k.ctx 3)) := by
  change execCtxDescReadDone fn r word s = _
  unfold execCtxDescReadDone
  rw [hcmd]
  dsimp only
  rw [if_neg hop, if_pos hcode]

variable (hcode : (if k.op = 1 then ctxCreateCode s fn.val else ctxNameCode s fn.val k.ctx 3) = 0)
include hcode

theorem exec_ctxDescReadDone_failed (word : ReadResult) : exec (.ctxDescReadDone fn .failed word) s = .next (ctxDecide s fn.val k.seq k.ctx 0x0A09) := by
  change execCtxDescReadDone fn .failed word s = _
  unfold execCtxDescReadDone
  rw [hcmd]
  dsimp only
  rw [if_neg hop, if_neg (not_not_intro hcode)]

theorem exec_ctxDescReadDone_data (b : Bytes) (word : ReadResult) : exec (.ctxDescReadDone fn (.data b) word) s =
    if k.op = 1 then .next (ctxCreate s fn.val k.seq b) else ctxBind s fn.val k (leNat (b.take 8)) word := by
  change execCtxDescReadDone fn (.data b) word s = _
  unfold execCtxDescReadDone
  rw [hcmd]
  dsimp only
  rw [if_neg hop, if_neg (not_not_intro hcode)]

end

/-- The fields of a context descriptor that the device takes, `q` being those of its queue. -/
structure DescTaken (w q : Nat) : Prop where
  reserved : bitsOf w 244 243 = 0 ∧ bitsOf w 239 0 = 0
  ring : 6 ≤ bitsOf w 255 251 ∧ bitsOf w 255 251 ≤ 16
  mirror : bitsOf w 511 448 % 4096 = 0 ∧ bitsOf w 511 448 < 2 ^ 56
  base : bitsOf w 447 384 % (max (32 * 2 ^ bitsOf w 255 251) 4096) = 0 ∧ bitsOf w 447 384 < 2 ^ 56
  queueReserved : bitsOf q 77 72 = 0 ∧ bitsOf q 18 0 = 0
  queueRing : 6 ≤ bitsOf q 82 78 ∧ bitsOf q 82 78 ≤ 16
  queueBase : bitsOf q 127 84 * 4096 % (64 * 2 ^ bitsOf q 82 78) = 0
  queueHost : bitOf q 83 = false
  writeBack : bitsOf q 71 19 * 8 ≠ 0

/-- The context that a descriptor makes, with its queue in host memory. -/
def ctxMade (s : State) (fn w q : Nat) : Ctx :=
  { st := .live, fn := fn, resident := residentFree s fn
    desc := { mirrorBase := bitsOf w 511 448, crBase := bitsOf w 447 384, crLog2 := bitsOf w 255 251, crVector := bitsOf w 250 246, crInt := bitOf w 245
              priority := bitsOf w 242 240, queueBase := bitsOf q 127 84 * 4096, queueLocal := bitOf q 83, queueLog2 := bitsOf q 82 78
              headWb := bitsOf q 71 19 * 8, level := levelOf s fn } }

/-- The state with the context that a descriptor makes, under the next identifier never used. -/
def ctxCreated (s : State) (fn seq w q : Nat) : State :=
  ctxDecide (ctxPut { s with nextCtxId := s.nextCtxId + 1 } (s.nextCtxId % 65536) (ctxMade s fn w q)) fn seq (s.nextCtxId % 65536) 0

section
variable (s : State) (fn seq w q : Nat)

theorem ctxOf_ctxCreated (i : Nat) : ctxOf (ctxCreated s fn seq w q) i = if i = s.nextCtxId % 65536 then ctxMade s fn w q else ctxOf s i :=
  (ctxOf_ctxDecide _ _ _ _ _ i).trans (ctxOf_ctxPut _ _ i _)

theorem outsideResponses_ctxCreated : outsideResponses (ctxCreated s fn seq w q) =
    outsideResponses (ctxPut { s with nextCtxId := s.nextCtxId + 1 } (s.nextCtxId % 65536) (ctxMade s fn w q)) := outsideResponses_ctxDecide _ _ _ _ _

theorem nextCtxId_ctxCreated : (ctxCreated s fn seq w q).nextCtxId = s.nextCtxId + 1 :=
  (congrArg State.nextCtxId (outsideResponses_ctxCreated s fn seq w q) :)

theorem mem_ctxCreated : (ctxCreated s fn seq w q).mem = s.mem := (congrArg State.mem (outsideResponses_ctxCreated s fn seq w q) :)

end

/-- A descriptor that passes makes a context of the next identifier never used. -/
theorem ctxCreate_of_taken {s : State} {fn seq : Nat} {b : Bytes} {w q : Nat} (hw : leNat (b.take 64) = w) (hq : bitsOf w 383 256 = q) (h : DescTaken w q)
    (hnext : s.nextCtxId ≤ 65536) : ctxCreate s fn seq b = ctxCreated s fn seq w q := by
  obtain ⟨⟨hr1, hr2⟩, ⟨hlo, hhi⟩, ⟨hm1, hm2⟩, ⟨hb1, hb2⟩, ⟨hq1, hq2⟩, ⟨hqlo, hqhi⟩, hqb, hhost, hwb⟩ := h
  have htake : takeCtxId s = some (s.nextCtxId % 65536, { s with nextCtxId := s.nextCtxId + 1 }) := if_pos hnext
  unfold ctxCreate ctxCreated ctxMade
  dsimp only
  rw [hw, hq, if_neg (by simp only [hr1, hr2, hm1, hb1]; omega), if_neg (by simp only [hq1, hq2, hqb, hhost]; simp; omega), htake]
  dsimp only
  rw [if_neg (ne_true_of_eq_false hhost)]

/-! ### A fence that is bound -/

section
variable {s : State} {cid va ga : Nat} {a : Acc} (h : translate s cid va a = some ga)
include h

theorem translatePins_of_translate : translatePins s cid [] va a = .ok ga := by
  unfold Machine.translate at h
  split at h
  · next g hg => rw [hg, Option.some.inj h]
  · cases h

/-- An aligned word that translates wants no translation of a page. -/
theorem withAts_of_translated (halign : va % 8 = 0) (go : Ans) : withAts s cid a va 8 go = go := by
  have hword : min 8 (4096 - va % 4096) = 8 := by omega
  have hnone : atsWanted s cid a 2 va 8 = none := by
    rw [atsWanted.eq_def]
    dsimp only
    rw [if_neg (by decide), translatePins_of_translate h, hword]
    rfl
  unfold withAts
  rw [show 8 / 4096 + 2 = 2 from rfl, hnone]

end

/-- A binding at the value of a word that has been read. -/
def fenceBound (s : State) (cid i va ga v : Nat) : State :=
  ctxPut s cid { ctxOf s cid with fences := tset (fun _ => none) (ctxOf s cid).fences i (some { va := va, ga := ga, promised := v, kept := v, w := v }) }

/-- A binding whose index, address and word pass comes to what the read of the word brings. -/
theorem ctxBind_of_read {s u : State} {fn va ga : Nat} {k : CtxCmdRun} {word : ReadResult} {v : VaRead}
    (hfree : tget (fun _ => none) (ctxOf s k.ctx).fences k.arg = none) (hva : va < 2 ^ 57) (halign : va % 8 = 0)
    (hnew : ∀ e ∈ (ctxOf s k.ctx).fences, ∀ x, e.2 = some x → x.va ≠ va) (htranslate : translate s k.ctx va .atomic = some ga)
    (hhost : inHostWindow ga = true → ∀ e ∈ s.ctxs, ∀ y ∈ e.2.fences, ∀ x, y.2 = some x → x.ga ≠ ga) (hread : vaRead s true k.ctx va 8 word = (u, v)) :
    (∀ wb, v = .ok wb → ctxBind s fn k va word = .next (ctxDecide (fenceBound u k.ctx k.arg va ga (leNat (wb.take 8))) fn k.seq k.ctx 0)) ∧
    ((v = .fault ∨ ∃ st, v = .refused st) → ctxBind s fn k va word = .next (ctxDecide u fn k.seq k.ctx 0x0A09)) ∧
    (v = .waits → ctxBind s fn k va word = .next s) := by
  have hunused : ¬ (va ≥ 2 ^ 57 ∨ va % 8 ≠ 0 ∨
      (ctxOf s k.ctx).fences.any (fun e => match e.2 with | some x => x.va == va | none => false) = true) := by
    refine not_or.mpr ⟨Nat.not_le.mpr hva, not_or.mpr ⟨not_not_intro halign, fun hany => ?_⟩⟩
    obtain ⟨⟨j, o⟩, he, hx⟩ := List.any_eq_true.mp hany
    cases o with
    | none => cases hx
    | some x => exact hnew _ he x rfl (beq_iff_eq.mp hx)
  have hunshared : ¬ (inHostWindow ga = true ∧
      s.ctxs.any (fun x => x.2.fences.any (fun e => match e.2 with | some y => y.ga == ga | none => false)) = true) := by
    rintro ⟨hwindow, hany⟩
    obtain ⟨e, he, hfences⟩ := List.any_eq_true.mp hany
    obtain ⟨⟨j, o⟩, hy, hx⟩ := List.any_eq_true.mp hfences
    cases o with
    | none => cases hx
    | some x => exact hhost hwindow e he _ hy x rfl (beq_iff_eq.mp hx)
  unfold ctxBind fenceBound
  dsimp only
  rw [if_neg (not_not_intro hfree), withAts_of_translated htranslate halign, htranslate]
  dsimp only
  rw [hread]
  refine ⟨fun wb hv => ?_, fun hv => ?_, fun hv => ?_⟩
  · subst hv
    exact (if_neg hunused).trans (if_neg hunshared)
  · rcases hv with rfl | ⟨st, rfl⟩
    · exact (if_neg hunused).trans (if_neg hunshared)
    · exact (if_neg hunused).trans (if_neg hunshared)
  · subst hv
    exact (if_neg hunused).trans (if_neg hunshared)

/-! ### The end of a destroy -/

/-- A destroyed context of which nothing is left: its slices, entries and identifier are free. -/
def ctxFreed (s : State) (cid : Nat) : State :=
  let s2 := entriesFree (if (ctxOf s cid).desc.queueLocal then sliceRelease s (ctxOf s cid).desc.queueBase else s) cid
  { ctxPut s2 cid {} with freeIds := s2.freeIds ++ [cid] }

/-- The state but for what releasing the slices and entries of a context writes. -/
def outsideEntries (s : State) : State := { s with slices := [], rangeCaches := [], ctxs := [] }

theorem outsideEntries_sliceRelease (s : State) (a : Nat) : outsideEntries (sliceRelease s a) = outsideEntries s := by
  unfold sliceRelease
  split
  · rfl
  · rfl

theorem ctxs_sliceRelease (s : State) (a : Nat) : (sliceRelease s a).ctxs = s.ctxs := by
  unfold sliceRelease
  split
  · rfl
  · rfl

theorem outsideEntries_entriesFree (s : State) (cid : Nat) : outsideEntries (entriesFree s cid) = outsideEntries s := by
  unfold entriesFree slicesSettle slicesDrop ctxPut rangeDrop outsideEntries
  rfl

theorem ctxs_entriesFree (s : State) (cid : Nat) : (entriesFree s cid).ctxs = (ctxPut s cid { ctxOf s cid with entries := [] }).ctxs := by
  unfold entriesFree slicesSettle slicesDrop rangeDrop ctxPut
  rfl

/-- What the end of a destroy leaves of the rest of the state, and the order of the free identifiers. -/
theorem ctxFreed_shows (s : State) (cid : Nat) : ctxOf (ctxFreed s cid) cid = {} ∧ (ctxFreed s cid).freeIds = s.freeIds ++ [cid] ∧
    (ctxFreed s cid).mem = s.mem ∧ ∀ i, i ≠ cid → ctxOf (ctxFreed s cid) i = ctxOf s i := by
  unfold ctxFreed
  extract_lets s2
  have hs1 : ∀ (t : State), outsideEntries (if (ctxOf s cid).desc.queueLocal then sliceRelease t (ctxOf s cid).desc.queueBase else t) = outsideEntries t ∧
      (if (ctxOf s cid).desc.queueLocal then sliceRelease t (ctxOf s cid).desc.queueBase else t).ctxs = t.ctxs := by
    intro t
    split
    · exact ⟨outsideEntries_sliceRelease t _, ctxs_sliceRelease t _⟩
    · exact ⟨rfl, rfl⟩
  have houtside : outsideEntries s2 = outsideEntries s := (outsideEntries_entriesFree _ cid).trans (hs1 s).1
  have hctxs : ∀ i, i ≠ cid → ctxOf s2 i = ctxOf s i := fun i hi =>
    (congrArg (tget _ · i) (ctxs_entriesFree _ cid)).trans ((ctxOf_ctxPut_ne _ cid i _ hi).trans (congrArg (tget _ · i) (hs1 s).2))
  clear_value s2
  have hmem : s2.mem = s.mem := (congrArg State.mem houtside :)
  have hfree : s2.freeIds = s.freeIds := (congrArg State.freeIds houtside :)
  have hids : ∀ (t : State) (l i), ctxOf { t with freeIds := l } i = ctxOf t i := fun _ _ _ => rfl
  refine ⟨?_, ?_, hmem, fun i hi => ?_⟩
  · rw [hids, ctxOf_ctxPut_self]
  · exact congrArg (· ++ [cid]) hfree
  · rw [hids, ctxOf_ctxPut_ne _ _ _ _ hi, hctxs i hi]

/-- Nothing of a destroyed context is left. -/
structure DestroyEnded (s : State) (cid : Nat) : Prop where
  st : (ctxOf s cid).st = .destroying
  sprints : sprintSlots s (fun p => p.st != .unbound && p.ctx == cid) = []
  links : ctxHasLinks s cid = false
  waits : ∀ w ∈ s.advWaits, w.1 ≠ cid
  writes : ∀ d ∈ s.dmwr, d.ctx ≠ cid
  advances : ∀ a ∈ s.advFar, a.ctx ≠ cid

theorem exec_destroyEnd_of_ended {s : State} {ctx : U16} (h : DestroyEnded s ctx.toNat) {q : Nat} (hseq : (ctxOf s ctx.toNat).destroySeq = some q) :
    exec (.destroyEnd ctx) s = .next (swapWaiting (ctxDecide (ctxFreed s ctx.toNat) (ctxOf s ctx.toNat).fn q ctx.toNat 0)) := by
  obtain ⟨hst, hsprints, hlinks, hwaits, hwrites, hadvances⟩ := h
  have hgone : (!ctxHasLinks s ctx.toNat) = true ∧ s.advWaits.all (fun w => w.1 != ctx.toNat) = true ∧ s.dmwr.all (fun d => d.ctx != ctx.toNat) = true ∧
      s.advFar.all (fun a => a.ctx != ctx.toNat) = true :=
    ⟨by rw [hlinks]; rfl, List.all_eq_true.mpr fun w hw => bne_iff_ne.mpr (hwaits w hw), List.all_eq_true.mpr fun d hd => bne_iff_ne.mpr (hwrites d hd),
      List.all_eq_true.mpr fun a ha => bne_iff_ne.mpr (hadvances a ha)⟩
  change execDestroyEnd ctx s = _
  unfold execDestroyEnd
  dsimp only
  rw [if_pos ⟨hst, hsprints, hgone⟩, hseq]
  rfl

theorem exec_destroyEnd_of_other {s : State} {ctx : U16} (h : (ctxOf s ctx.toNat).st ≠ .destroying) : exec (.destroyEnd ctx) s = .next s := by
  change execDestroyEnd ctx s = _
  unfold execDestroyEnd
  dsimp only
  rw [if_neg fun hend => h hend.1]

/-! ### Contexts that wait for residency -/

/-- The state but for what a swap-in that begins writes, and a context but for its residency. -/
def outsideSwaps (s : State) : State := { s with ctxs := [], swapping := [], sent := [] }
def besideResidency (i : Nat) (s : State) : Ctx := { ctxOf s i with resident := false }

theorem outsideSwaps_swapInBegin (s : State) (cid : Nat) : outsideSwaps (swapInBegin s cid) = outsideSwaps s := by
  unfold swapInBegin
  refine (foldl_keeps outsideSwaps (fun _ _ => ?_) _ _).trans ?_
  · rfl
  · rfl

theorem ctxs_swapInBegin (s : State) (cid : Nat) : (swapInBegin s cid).ctxs = s.ctxs := by
  unfold swapInBegin
  refine foldl_keeps State.ctxs (fun _ _ => ?_) _ _
  rfl

theorem besideResidency_swapInBegin (i : Nat) (s : State) (cid : Nat) : besideResidency i (swapInBegin s cid) = besideResidency i s := by
  unfold besideResidency ctxOf
  rw [ctxs_swapInBegin]

/-- A context that gives up its slot is as it was but for its residency. -/
theorem besideResidency_evicted (i : Nat) (s : State) (v : Nat) : besideResidency i (ctxPut s v { ctxOf s v with resident := false }) = besideResidency i s := by
  unfold besideResidency
  rw [ctxOf_ctxPut]
  split
  · next hi => rw [hi]
  · rfl

theorem outsideSwaps_swapInTry (s : State) (cid : Nat) : outsideSwaps (swapInTry s cid) = outsideSwaps s := by
  unfold swapInTry
  dsimp only
  split
  · rfl
  · split
    · exact outsideSwaps_swapInBegin s cid
    · split
      · rfl
      · split
        · rfl
        · exact outsideSwaps_swapInBegin _ cid

theorem besideResidency_swapInTry (i : Nat) (s : State) (cid : Nat) : besideResidency i (swapInTry s cid) = besideResidency i s := by
  unfold swapInTry
  dsimp only
  split
  · rfl
  · split
    · exact besideResidency_swapInBegin i s cid
    · split
      · rfl
      · split
        · rfl
        · next v hv => exact (besideResidency_swapInBegin i _ cid).trans (besideResidency_evicted i s v)

theorem outsideSwaps_swapWaiting (s : State) : outsideSwaps (swapWaiting s) = outsideSwaps s := foldl_keeps outsideSwaps outsideSwaps_swapInTry _ _

theorem besideResidency_swapWaiting (i : Nat) (s : State) : besideResidency i (swapWaiting s) = besideResidency i s :=
  foldl_keeps (besideResidency i) (besideResidency_swapInTry i) _ _

/-- Settles O41: a command by its checks in their order, a read by what it brings, the end of a destroy by what is left of the context. -/
theorem contextCommands : Obligations.ContextCommands := by
  refine ⟨fun s fn w hup hbusy c hc => ?_, fun s fn w hup hidle hcmd hstage => ?_, fun s fn k word hcmd hop => ?_,
    fun s fn k b word hcmd hop hcode hnext => ?_, fun s u fn k b word v va ga hcmd hop hst hfn hfree hva hlt halign hnew htranslate hhost hread => ?_,
    fun s ctx hst hsprints hlinks hseq hwaits hwrites hadvances => ?_, fun s => ⟨?_, fun i => ?_⟩, fun s ctx => exec_destroyEnd_of_other,
    fun s fn seq cid code hfn => ?_⟩
  · obtain ⟨op, hchecks⟩ := checksAs_of_mem s fn w hc
    exact exec_ctxCmd_of_dropped hchecks hup hbusy
  · intro seq cid arg f c fresh busy
    have htakes : TakesCmd s fn.val := ⟨hup, hidle, hcmd, hstage⟩
    refine ⟨fun hreserved i hi => ?_, fun hbad => ?_, fun hbad => ?_, fun hreserved i hi hcid harg => ⟨fun l hlast => ?_, fun hfresh hop hstrange => ?_,
      fun hfresh hop hfn hst => ?_⟩, fun hreserved hcid harg hfresh => ⟨fun hquota => ?_, fun hquota hlimit => ?_, fun hquota hlimit => ?_⟩,
      fun hreserved hfresh hst hfn => ⟨?_, fun hnone => ?_, fun b hbound hpending => ?_, fun b hbound hkept => ?_⟩, fun hreserved harg hfresh hst hfn => ?_⟩
    · obtain ⟨op, hchecks⟩ := checksAs_of_mem s fn w hi
      exact exec_ctxCmd_of_fieldBad hchecks htakes (.inr (.inr (.inl hreserved)))
    · exact exec_ctxCmd_of_fieldBad (checksAs_create s fn w) htakes
        (.inr (.inr (.inr (hbad.elim (fun h => .inl ⟨rfl, h⟩) (fun h => .inr ⟨.inl rfl, h⟩)))))
    · exact exec_ctxCmd_of_fieldBad (checksAs_destroy s fn w) htakes (.inr (.inr (.inr (.inr ⟨.inr rfl, hbad⟩))))
    · obtain ⟨hchecks, hlo, hhi⟩ := checksAs_of_mem_numbered s fn w hi
      exact exec_ctxCmd_of_decided hchecks htakes (not_cmdFieldBad hlo hhi hreserved hcid harg) hlast
    · obtain ⟨⟨go, hgo⟩, hlo, hhi⟩ := checksAs_of_mem_numbered s fn w hi
      have hcode : cmdCode s fn.val cid i.1 = 0x0A05 := (cmdCode_of_named hop).trans (ctxNameCode_of_strange hstrange)
      rw [hgo, ctxCmd_of_fresh htakes (not_cmdFieldBad hlo hhi hreserved hcid harg) hfresh, hcode]
      rfl
    · obtain ⟨⟨go, hgo⟩, hlo, hhi⟩ := checksAs_of_mem_numbered s fn w hi
      have hcode : cmdCode s fn.val cid i.1 = 0x0A06 := (cmdCode_of_named hop).trans (ctxNameCode_of_not_permitted hfn hst)
      rw [hgo, ctxCmd_of_fresh htakes (not_cmdFieldBad hlo hhi hreserved hcid harg) hfresh, hcode]
      rfl
    · rw [exec_ctxCmdCreate_of_fresh htakes hreserved hfresh hcid harg, ctxCreateCode_of_quota hquota]
      rfl
    · rw [exec_ctxCmdCreate_of_fresh htakes hreserved hfresh hcid harg, ctxCreateCode_of_limit hquota hlimit]
      rfl
    · have hcreate := exec_ctxCmdCreate_of_fresh htakes hreserved hfresh hcid harg
      rw [if_neg (not_not_intro (ctxCreateCode_of_room hquota hlimit))] at hcreate
      exact ⟨_, hcreate, ctxRead_shows s fn.val seq cid arg 1 64⟩
    · exact ⟨_, exec_ctxCmdFenceBind_of_live htakes hreserved hfresh hst hfn, ctxRead_shows s fn.val seq cid arg 3 8⟩
    · rw [exec_ctxCmdFenceUnbind_of_live htakes hreserved hfresh hst hfn, hnone]
    · rw [exec_ctxCmdFenceUnbind_of_live htakes hreserved hfresh hst hfn, hbound]
      exact congrArg _ (if_pos hpending)
    · rw [exec_ctxCmdFenceUnbind_of_live htakes hreserved hfresh hst hfn, hbound]
      exact congrArg _ (if_neg (Nat.not_lt.mpr hkept))
    · have hcode : ctxNameCode s fn.val cid 2 = 0 := hst.elim (ctxNameCode_of_live · hfn) (ctxNameCode_destroy_of_lost · hfn)
      obtain ⟨d, hd⟩ := ctxOf_destroyBegin (cmdBusy s fn.val { seq := seq, ctx := cid, arg := arg, op := 2, addr := 0 }) cid (some seq)
      refine ⟨_, exec_ctxCmdDestroy_of_fresh htakes hreserved hfresh harg hcode, ?_⟩
      rw [hd]
      exact ⟨rfl, rfl, rfl, rfl⟩
  · intro code
    exact ⟨fun hcode => exec_ctxDescReadDone_failed hcmd hop hcode word, fun hcode r => exec_ctxDescReadDone_of_refused hcmd hop hcode r word⟩
  · intro w q ring hr1 hr2 hlo hhi hm1 hm2 hb1 hb2 hq1 hq2 hqlo hqhi hqb hhost hwb cid
    have htaken : DescTaken w q := ⟨⟨hr1, hr2⟩, ⟨hlo, hhi⟩, ⟨hm1, hm2⟩, ⟨hb1, hb2⟩, ⟨hq1, hq2⟩, ⟨hqlo, hqhi⟩, hqb, hhost, hwb⟩
    have hread := exec_ctxDescReadDone_data hcmd (by rw [hop]; decide) ((if_pos hop).trans hcode) b word
    rw [if_pos hop, ctxCreate_of_taken rfl rfl htaken hnext] at hread
    refine ⟨ctxCreated s fn.val k.seq w q, hread, ?_⟩
    rw [(ctxOf_ctxCreated s fn.val k.seq w q cid).trans (if_pos rfl)]
    exact ⟨rfl, rfl, rfl, rfl, rfl, rfl, rfl, rfl, rfl, rfl, rfl, nextCtxId_ctxCreated s fn.val k.seq w q,
      fun i hi => (ctxOf_ctxCreated s fn.val k.seq w q i).trans (if_neg hi), ctxResult_ctxDecide _ _ _ _ _, mem_ctxCreated s fn.val k.seq w q⟩
  · have hop1 : k.op ≠ 1 := by rw [hop]; decide
    rw [exec_ctxDescReadDone_data hcmd (by rw [hop]; decide) ((if_neg hop1).trans (ctxNameCode_of_live hst hfn)), if_neg hop1, ← hva]
    exact ctxBind_of_read hfree hlt halign hnew htranslate hhost hread
  · obtain ⟨q, hq⟩ := Option.ne_none_iff_exists'.mp hseq
    obtain ⟨hfreed, hids, hmem, hothers⟩ := ctxFreed_shows s ctx.toNat
    have hrest := outsideResponses_ctxDecide (ctxFreed s ctx.toNat) (ctxOf s ctx.toNat).fn q ctx.toNat 0
    refine ⟨_, exec_destroyEnd_of_ended ⟨hst, hsprints, hlinks, hwaits, hwrites, hadvances⟩ hq, ?_, (congrArg State.freeIds hrest :).trans hids, fun q' hq' => ?_,
      (congrArg State.mem hrest :).trans hmem, fun i hi => (ctxOf_ctxDecide _ _ _ _ _ i).trans (hothers i hi)⟩
    · rw [ctxOf_ctxDecide, hfreed]
    · obtain rfl : q = q' := Option.some.inj (hq.symm.trans hq')
      exact ctxResult_ctxDecide _ _ _ _ _
  · exact (congrArg (fun u : State => { u with ctxs := (swapWaiting s).ctxs, swapping := (swapWaiting s).swapping, sent := (swapWaiting s).sent })
      (outsideSwaps_swapWaiting s) :)
  · exact (congrArg (fun c : Ctx => { c with resident := (ctxOf (swapWaiting s) i).resident }) (besideResidency_swapWaiting i s) :)
  · intro t
    refine ⟨ctxResult_ctxDecide s fn seq cid code, ctxBusy_ctxDecide s fn seq cid code, cmd_ctxDecide s fn seq cid code, bitOf_raiseCause _ fn 5,
      eq_of_outsideResponses (outsideResponses_ctxDecide s fn seq cid code), fun h1 h2 h3 => ?_, fun h => ?_⟩
    · rw [fnOf_ctxDecide_of_decided s fn seq cid code (not_or.mpr ⟨h1, not_or.mpr ⟨h2, h3⟩⟩)]
      exact ⟨rfl, rfl⟩
    · rw [fnOf_ctxDecide_of_resendable s fn seq cid code h]

end Sys2Proof
end

section
/-! O42: functions that appear and are reset, heads that move, and deliveries that end (10 R334, R337, R351 to R361; log 14). -/
namespace Sys2Proof
open Sys2Proof.Machine

/-! ### A function-level reset -/

/-- The registers that a reset of a function leaves: its own are gone but for the two of its undelivered-completion store. -/
def fnRegsKept (t : Tbl Nat) (fn : Nat) : Tbl Nat := t.filter (fun e => e.1 / 0x10000 != fn || e.1 == fn * 0x10000 + 0xC0 || e.1 == fn * 0x10000 + 0xC4)

/-- The state of a function whose reset has ended. -/
def fnStReset (f : FnSt) : FnSt :=
  { f with flr := false, lastCmdSeq := none, cmd := none, lastResult := 0, updates := [], respWaiting := [], respWritten := 0, respRead := 0
           fltWritten := 0, fltRead := 0, fltWaiting := [] }

/-- A reset of a function without contexts ends at once. -/
theorem functionReset_of_no_ctxs {s : State} {fn : Nat} (h : ctxsOf s fn = []) :
    functionReset s fn = fnStPut { mailboxReset s fn with fnRegs := fnRegsKept s.fnRegs fn } fn (fnStReset (fnOf s fn)) := by
  unfold functionReset
  rw [h]
  dsimp only [List.foldl_nil]
  unfold flrSettle
  dsimp only
  rw [fnOf_fnStPut_self, if_pos ⟨rfl, h⟩]
  unfold fnStPut fnStReset
  dsimp only
  rw [tset_tset]
  rfl

theorem fnRegDefault_of_offset (fn o : Nat) : fnRegDefault (fn * 0x10000 + o) = fnRegDefault o := by
  unfold fnRegDefault
  rw [Nat.mul_add_mod']

/-- What a register reads as after the reset of a function. -/
theorem tget_fnRegsKept (s : State) (fn g : Nat) {o : Nat} (ho : o < 0x10000) : tget fnRegDefault (fnRegsKept s.fnRegs fn) (g * 0x10000 + o) =
    if g = fn ∧ o ≠ 0xC0 ∧ o ≠ 0xC4 then fnRegDefault o else fnGet s g o := by
  have hkept := tfind_filter_of_key s.fnRegs (fun k => k / 0x10000 != fn || k == fn * 0x10000 + 0xC0 || k == fn * 0x10000 + 0xC4) (g * 0x10000 + o)
  have hkeeps : ((g * 0x10000 + o) / 0x10000 != fn || g * 0x10000 + o == fn * 0x10000 + 0xC0 || g * 0x10000 + o == fn * 0x10000 + 0xC4) = true ↔
      ¬ (g = fn ∧ o ≠ 0xC0 ∧ o ≠ 0xC4) := by
    simp only [Bool.or_eq_true, bne_iff_ne, beq_iff_eq]
    omega
  unfold tget fnRegsKept
  rw [hkept]
  by_cases hgone : g = fn ∧ o ≠ 0xC0 ∧ o ≠ 0xC4
  · rw [if_pos hgone, if_neg fun h => hkeeps.mp h hgone]
    exact fnRegDefault_of_offset g o
  · rw [if_neg hgone, if_pos (hkeeps.mpr hgone)]
    rfl

theorem ctxs_functionReset_of_no_ctxs {s : State} {fn : Nat} (h : ctxsOf s fn = []) : (functionReset s fn).ctxs = s.ctxs := by
  rw [functionReset_of_no_ctxs h]
  rfl

theorem fnOf_functionReset_of_no_ctxs {s : State} {fn : Nat} (h : ctxsOf s fn = []) (k : Nat) :
    fnOf (functionReset s fn) k = if k = fn then fnStReset (fnOf s fn) else fnOf s k := by
  rw [functionReset_of_no_ctxs h, fnOf_fnStPut]
  rfl

/-- What a reset of a function without contexts leaves, and what it returns to its value at reset. -/
theorem exec_functionLevelReset_of_no_ctxs {s : State} {fn : Fn} (hup : fnUp s fn.val = true) (h : ctxsOf s fn.val = []) :
    exec (.functionLevelReset fn) s =
      .next (fnStPut { mailboxReset s fn.val with fnRegs := fnRegsKept s.fnRegs fn.val } fn.val (fnStReset (fnOf s fn.val))) := by
  change execFunctionLevelReset fn s = _
  unfold execFunctionLevelReset
  rw [if_pos hup, functionReset_of_no_ctxs h]

/-! ### Functions that appear and disappear -/

/-- The state with VF1 to VFn presented. -/
def vfsShown (s : State) (n : Nat) : State := (List.range n).foldl (fun s i => fnStPut s (i + 1) { fnOf s (i + 1) with enabled := true }) s

theorem vfsShown_succ (s : State) (n : Nat) :
    vfsShown s (n + 1) = fnStPut (vfsShown s n) (n + 1) { fnOf (vfsShown s n) (n + 1) with enabled := true } := by
  unfold vfsShown
  rw [List.range_succ, List.foldl_append]
  rfl

theorem fnOf_vfsShown (s : State) (n k : Nat) :
    fnOf (vfsShown s n) k = if 1 ≤ k ∧ k ≤ n then { fnOf s k with enabled := true } else fnOf s k := by
  induction n generalizing k with
  | zero => exact (if_neg (by omega)).symm
  | succ n ih =>
    rw [vfsShown_succ, fnOf_fnStPut, ih, ih]
    split
    · next hk =>
      subst hk
      rw [if_neg (by omega), if_pos (by omega)]
    · exact if_congr (by omega) rfl rfl

theorem eq_of_vfsShown (s : State) (n : Nat) : vfsShown s n = { s with fns := (vfsShown s n).fns } := by
  induction n with
  | zero => rfl
  | succ n ih =>
    rw [vfsShown_succ]
    exact congrArg (fun u : State => { u with fns := (fnStPut (vfsShown s n) (n + 1) { fnOf (vfsShown s n) (n + 1) with enabled := true }).fns }) ih

/-- A VF is reset, and disappears with its level at the default. -/
def vfHidden (s : State) (i : Nat) : State :=
  let s1 := functionReset s (i + 1)
  fnStPut (pset s1 (P.level (i + 1)) (paramDefault (P.level (i + 1)))) (i + 1) { fnOf s1 (i + 1) with enabled := false }

theorem ctxs_vfHidden {s : State} {i : Nat} (h : ctxsOf s (i + 1) = []) : (vfHidden s i).ctxs = s.ctxs := ctxs_functionReset_of_no_ctxs h

theorem enabled_vfHidden {s : State} {i : Nat} (h : ctxsOf s (i + 1) = []) (k : Nat) :
    (fnOf (vfHidden s i) k).enabled = if k = i + 1 then false else (fnOf s k).enabled := by
  unfold vfHidden
  dsimp only
  rw [fnOf_fnStPut]
  split
  · rfl
  · next hk => rw [fnOf_of_pset, fnOf_functionReset_of_no_ctxs h, if_neg hk]

/-- Where no function holds a context, the first `n` VFs disappear one after the other. -/
theorem enabled_vfsHidden {s : State} (h : ∀ k, ctxsOf s k = []) (n : Nat) : ((List.range n).foldl vfHidden s).ctxs = s.ctxs ∧
    ∀ k, 1 ≤ k → k ≤ n → (fnOf ((List.range n).foldl vfHidden s) k).enabled = false := by
  induction n with
  | zero => exact ⟨rfl, fun k h1 h2 => absurd h1 (by omega)⟩
  | succ n ih =>
    obtain ⟨hctxs, hhidden⟩ := ih
    have hnone : ctxsOf ((List.range n).foldl vfHidden s) (n + 1) = [] := by
      unfold ctxsOf
      rw [hctxs]
      exact h (n + 1)
    rw [List.range_succ, List.foldl_append, List.foldl_cons, List.foldl_nil]
    refine ⟨(ctxs_vfHidden hnone).trans hctxs, fun k h1 h2 => ?_⟩
    rw [enabled_vfHidden hnone]
    split
    · rfl
    · exact hhidden k h1 (by omega)

section
variable {s : State} (hmsf : s.start.msf = true)
include hmsf

theorem exec_vfEnableSet_of_msf (n : Fin 32) : exec (.vfEnableSet n) s =
    .next (if n.val ≥ 1 ∧ s.numVfs = 0 then { vfsShown s n.val with numVfs := n.val } else s) := by
  change execVfEnableSet n s = _
  unfold execVfEnableSet vfsShown
  rw [apply_ite Host.Outcome.next]
  exact if_congr (and_iff_right hmsf) rfl rfl

theorem exec_vfEnableClear_of_msf : exec .vfEnableClear s =
    .next (if s.numVfs ≥ 1 then { (List.range s.numVfs).foldl vfHidden s with numVfs := 0 } else s) := by
  change execVfEnableClear s = _
  unfold execVfEnableClear
  rw [apply_ite Host.Outcome.next]
  exact if_congr (and_iff_right hmsf) rfl rfl

end

/-! ### Registers written by the driver -/

section
variable {s : State} {fn : Fn} (hup : fnUp s fn.val = true)
include hup

theorem exec_intStatusWrite_of_up (w : U64) : exec (.intStatusWrite fn w) s = .next (fnPut s fn.val 0x80 (fnGet s fn.val 0x80 &&& (2 ^ 64 - 1 - w.toNat))) :=
  if_pos hup

theorem exec_ucHeadWrite_of_up (w : U32) : exec (.ucHeadWrite fn w) s =
    .next (if serialDist (fnGet s fn.val 0xC0) w.toNat ≤ serialDist (fnGet s fn.val 0xC0) (fnGet s fn.val 0xC4) then fnPut s fn.val 0xC0 w.toNat
      else pinc s P.fnConfigIgnored) := by
  change execUcHeadWrite fn w s = _
  unfold execUcHeadWrite
  dsimp only
  rw [if_neg (by simp [hup]), apply_ite Host.Outcome.next]

end

/-- A bit that is written as 1 is cleared, and no other. -/
theorem bitOf_and_not (v w : Nat) {c : Nat} (hw : w < 2 ^ 64) (hc : c < 64) : bitOf (v &&& (2 ^ 64 - 1 - w)) c = (bitOf v c && !bitOf w c) := by
  unfold bitOf
  rw [Nat.testBit_and, Nat.sub_sub, Nat.add_comm 1 w, Nat.testBit_two_pow_sub_succ hw, decide_eq_true hc, Bool.true_and]

section
variable {s : State} {fn : Fn} (hup : fnUp s fn.val = true) (w : U64)
include hup

/-- A move of CR_HEAD that is ignored: it names no context of the function, or goes past what was written. -/
theorem exec_crHeadWrite_of_ignored (h : (ctxOf s (bitsOf w.toNat 31 16)).st = .free ∨ (ctxOf s (bitsOf w.toNat 31 16)).fn ≠ fn.val ∨
      (ctxOf s (bitsOf w.toNat 31 16)).crWritten < (ctxOf s (bitsOf w.toNat 31 16)).crHead +
        serialDist ((ctxOf s (bitsOf w.toNat 31 16)).crHead % 2 ^ 32) (bitsOf w.toNat 63 32)) :
    exec (.crHeadWrite fn w) s = .next (pinc s P.fnConfigIgnored) := by
  change execCrHeadWrite fn w s = _
  unfold execCrHeadWrite
  dsimp only
  rw [if_neg (by simp [hup])]
  split
  · rfl
  · next hnamed => exact if_neg (Nat.not_le.mpr ((or_assoc.mpr h).resolve_left hnamed))

/-- A move of CR_HEAD as far as what was written, where no record waits for room and no command is queued. -/
theorem exec_crHeadWrite_of_moved {c : Ctx} (hctx : ctxOf s (bitsOf w.toNat 31 16) = c) (hst : c.st ≠ .free) (hfn : c.fn = fn.val)
    (hin : c.crHead + serialDist (c.crHead % 2 ^ 32) (bitsOf w.toNat 63 32) ≤ c.crWritten) (hwaiting : c.crWaiting = []) (hcmds : c.cmds = []) :
    exec (.crHeadWrite fn w) s =
      .next (ctxPut s (bitsOf w.toNat 31 16) { c with crHead := c.crHead + serialDist (c.crHead % 2 ^ 32) (bitsOf w.toNat 63 32) }) := by
  change execCrHeadWrite fn w s = _
  unfold execCrHeadWrite
  dsimp only
  rw [if_neg (by simp [hup]), hctx, if_neg (not_or.mpr ⟨hst, not_not_intro hfn⟩), if_pos hin, hwaiting]
  have hnone : ∀ u : State, flushLost u (bitsOf w.toNat 31 16) ([] : List (Nat × Nat × Option (Nat × Nat))).length = (u, true) := fun _ => rfl
  rw [hnone]
  dsimp only
  rw [if_pos rfl]
  unfold stampHead
  rw [ctxOf_ctxPut_self]
  dsimp only
  rw [hcmds]

end

/-! ### Deferrable writes -/

section
variable {s : State} {id : Nat} {d : Dmwr}

/-- The state without the deferrable writes of a number. -/
def dmwrRest (s : State) (id : Nat) : State := { s with dmwr := s.dmwr.filter (fun x => x.id != id) }

section
variable (h : s.dmwr.find? (fun d => d.id == id && !d.waiting) = some d)
include h

theorem exec_dmwrCompletion_success : exec (.dmwrCompletion id .success) s = .next (match d.fence with
    | some (i, v) => if d.own then advanced (dmwrRest s id) d.ctx i v else waitsDue (dmwrRest s id) (0x100000000000000 + d.addr)
    | none => dmwrRest s id) := by
  change execDmwrCompletion id .success s = _
  unfold execDmwrCompletion
  rw [h]
  rfl

theorem exec_dmwrCompletion_ur : exec (.dmwrCompletion id .ur) s = .next (dmwrFail (dmwrRest s id) d 1) := by
  change execDmwrCompletion id .ur s = _
  unfold execDmwrCompletion
  rw [h]
  rfl

theorem exec_dmwrCompletion_ca : exec (.dmwrCompletion id .ca) s = .next (dmwrFail (dmwrRest s id) d 2) := by
  change execDmwrCompletion id .ca s = _
  unfold execDmwrCompletion
  rw [h]
  rfl

theorem exec_dmwrCompletion_retry : exec (.dmwrCompletion id .retry) s = .next (if d.retries ≥ 15 then dmwrFail (dmwrRest s id) d 4
    else { s with dmwr := s.dmwr.map (fun x => if x.id = id then { x with retries := x.retries + 1, waiting := true, tb := s.tb } else x) }) := by
  change execDmwrCompletion id .retry s = _
  unfold execDmwrCompletion
  rw [h, apply_ite Host.Outcome.next]
  rfl

theorem exec_dmwrTimeout_of_sent : exec (.dmwrTimeout id) s = .next (if tbPast s.tb d.tb 10000000 then dmwrFail (dmwrRest s id) d 3 else s) := by
  change execDmwrTimeout id s = _
  unfold execDmwrTimeout
  rw [h]
  rfl

end

theorem exec_dmwrRetryTimer_of_waiting (h : s.dmwr.find? (fun d => d.id == id && d.waiting) = some d) : exec (.dmwrRetryTimer id) s = .next
    (if tbPast s.tb d.tb 10000 then
      emit { s with dmwr := s.dmwr.map (fun x => if x.id = id then { x with waiting := false, tb := s.tb } else x) } (.hostDeferrable d.addr d.data)
    else s) := by
  change execDmwrRetryTimer id s = _
  unfold execDmwrRetryTimer
  rw [h]
  dsimp only
  cases tbPast s.tb d.tb 10000 with
  | false => rfl
  | true => rfl

/-- Nothing is done about a deferrable write that is not out. -/
theorem exec_dmwr_of_none (h : ∀ d ∈ s.dmwr, d.id ≠ id) :
    (∀ r, exec (.dmwrCompletion id r) s = .next s) ∧ exec (.dmwrRetryTimer id) s = .next s ∧ exec (.dmwrTimeout id) s = .next s := by
  have hsent : s.dmwr.find? (fun d => d.id == id && !d.waiting) = none := List.find?_eq_none.mpr fun d hd => by simp [h d hd]
  have hwaiting : s.dmwr.find? (fun d => d.id == id && d.waiting) = none := List.find?_eq_none.mpr fun d hd => by simp [h d hd]
  change (∀ r, execDmwrCompletion id r s = _) ∧ execDmwrRetryTimer id s = _ ∧ execDmwrTimeout id s = _
  unfold execDmwrCompletion execDmwrRetryTimer execDmwrTimeout
  rw [hsent, hwaiting]
  exact ⟨fun _ => rfl, rfl, rfl⟩

end

section
variable {s : State} {cid i : Nat} {b : FenceBind} (hbound : tget (fun _ => none) (ctxOf s cid).fences i = some b)
include hbound

theorem advanced_of_bound (v : Nat) : advanced s cid i v = waitsDue (keptRaise s cid i v) ((translate s cid b.va .atomic).getD b.ga) := by
  unfold advanced
  rw [hbound]

theorem keptRaise_of_bound (v : Nat) : keptRaise s cid i v = if v < 2 ^ 63 then
    ctxPut s cid { ctxOf s cid with fences := tset (fun _ => none) (ctxOf s cid).fences i (some { b with kept := max b.kept v }) } else s := by
  unfold keptRaise
  dsimp only
  rw [hbound]

end

/-! ### The shared message -/

theorem exec_completionMessageCoalesce (s : State) (ctx : U16) : exec (.completionMessageCoalesce ctx) s = .next
    (let c := ctxOf s ctx.toNat
    if c.msgDue = true ∧ tbPast s.tb c.tbMsg 1000 = true then msixSend (ctxPut s ctx.toNat { c with msgDue := false }) c.fn c.desc.crVector else s) := by
  change execCompletionMessageCoalesce ctx s = _
  unfold execCompletionMessageCoalesce
  rw [apply_ite Host.Outcome.next]

/-- Settles O42: the VFs one after the other, a head by where it would move, a deferrable write by its answer, the message by the time. -/
theorem functionsAndDeliveries : Obligations.FunctionsAndDeliveries := by
  refine ⟨fun s n hmsf hn hnone => ?_, fun s n hmsf hno => ?_, fun s hmsf hsome => ?_, fun s hmsf hnone => ?_, fun s fn hup hctxs => ?_, fun s fn hdown => ?_,
    fun s fn w hup => ?_, fun s fn w hup => ⟨fun hin => ?_, fun hout => ?_⟩, fun s fn w hup => ?_, fun s id d hsent => ?_, fun s id d hwaiting => ?_,
    fun s cid i v b hbound => ⟨fun hclean => ?_, fun hpoison => ?_⟩, fun s id => exec_dmwr_of_none, fun s ctx => ?_⟩
  · refine ⟨_, (exec_vfEnableSet_of_msf hmsf n).trans (congrArg _ (if_pos ⟨hn, hnone⟩)), rfl, fun k h1 h2 => ?_, fun k hk => ?_,
      (congrArg (fun u : State => { u with numVfs := n.val }) (eq_of_vfsShown s n.val) :)⟩
    · exact (fnOf_vfsShown s n.val k).trans (if_pos ⟨h1, h2⟩)
    · exact (fnOf_vfsShown s n.val k).trans (if_neg (by omega))
  · rw [exec_vfEnableSet_of_msf hmsf, if_neg (by omega)]
  · exact ⟨_, (exec_vfEnableClear_of_msf hmsf).trans (congrArg _ (if_pos hsome)), rfl, fun hempty => (enabled_vfsHidden hempty s.numVfs).2⟩
  · rw [exec_vfEnableClear_of_msf hmsf, if_neg (by omega)]
  · have hreg : ∀ g o, o < 0x10000 → fnGet (fnStPut { mailboxReset s fn.val with fnRegs := fnRegsKept s.fnRegs fn.val } fn.val (fnStReset (fnOf s fn.val))) g o = _ :=
      fun g o ho => tget_fnRegsKept s fn.val g ho
    refine ⟨_, exec_functionLevelReset_of_no_ctxs hup hctxs, ?_, ?_, ?_, ?_, fun o ho h1 h2 => ?_, ?_, ?_, fun g o hg ho => ?_, rfl, rfl, rfl⟩
    · rw [fnOf_fnStPut_self]; rfl
    · rw [fnOf_fnStPut_self]; rfl
    · rw [fnOf_fnStPut_self]; rfl
    · rw [fnOf_fnStPut_self]; rfl
    · rw [hreg _ o ho, if_pos ⟨rfl, h1, h2⟩]
    · rw [hreg _ _ (by decide), if_neg fun h => h.2.1 rfl]
    · rw [hreg _ _ (by decide), if_neg fun h => h.2.2 rfl]
    · rw [hreg g o ho, if_neg fun h => hg h.1]
  · exact if_neg (ne_true_of_eq_false hdown)
  · refine ⟨_, exec_intStatusWrite_of_up hup w, rfl, fun c hc => ?_, fun g o h ho => fnGet_fnPut_other s fn.val (by decide) _ h ho⟩
    rw [fnGet_fnPut_self, bitOf_and_not _ _ w.isLt hc]
  · exact ⟨_, (exec_ucHeadWrite_of_up hup w).trans (congrArg _ (if_pos hin)), fnGet_fnPut_self s _ _ _, rfl,
      fun g o h ho => fnGet_fnPut_other s fn.val (by decide) _ h ho⟩
  · rw [exec_ucHeadWrite_of_up hup, if_neg (Nat.not_le.mpr hout)]
  · intro cid c nh
    refine ⟨exec_crHeadWrite_of_ignored hup w, fun hst hfn hin hnone hcmds => ?_⟩
    exact ⟨_, exec_crHeadWrite_of_moved hup w rfl hst hfn hin hnone hcmds, ctxOf_ctxPut_self s cid _, fun k hk => ctxOf_ctxPut_ne s cid k _ hk, rfl⟩
  · intro rest
    refine ⟨fun hrecord => ?_, fun hfence hown => ?_, fun i v b hfence hown hbound => ?_, exec_dmwrCompletion_ur hsent, exec_dmwrCompletion_ca hsent,
      fun hlast => ?_, fun hmore => ?_, fun hpast => ?_, fun hearly => ?_⟩
    · rw [exec_dmwrCompletion_success hsent, hrecord]
      rfl
    · obtain ⟨⟨i, v⟩, hfence⟩ := Option.ne_none_iff_exists'.mp hfence
      rw [exec_dmwrCompletion_success hsent, hfence]
      exact congrArg _ (if_neg (ne_true_of_eq_false hown))
    · rw [exec_dmwrCompletion_success hsent, hfence]
      exact congrArg _ ((if_pos hown).trans (advanced_of_bound (s := dmwrRest s id) hbound v))
    · rw [exec_dmwrCompletion_retry hsent, if_pos hlast]
      rfl
    · exact ⟨_, (exec_dmwrCompletion_retry hsent).trans (congrArg _ (if_neg (Nat.not_le.mpr hmore))), rfl, rfl⟩
    · rw [exec_dmwrTimeout_of_sent hsent, if_pos hpast]
      rfl
    · rw [exec_dmwrTimeout_of_sent hsent, if_neg (ne_true_of_eq_false hearly)]
  · refine ⟨fun hearly => ?_, fun hpast => ?_⟩
    · rw [exec_dmwrRetryTimer_of_waiting hwaiting, if_neg (ne_true_of_eq_false hearly)]
    · exact ⟨_, (exec_dmwrRetryTimer_of_waiting hwaiting).trans (congrArg _ (if_pos hpast)), rfl, rfl, rfl⟩
  · rw [keptRaise_of_bound hbound, if_pos hclean]
    exact ⟨ctxOf_ctxPut_self _ _ _, rfl⟩
  · rw [keptRaise_of_bound hbound, if_neg (Nat.not_lt.mpr hpoison)]
  · intro c
    rw [exec_completionMessageCoalesce]
    refine ⟨fun hno => ?_, fun hdue hpast hrel hmask => ?_⟩
    · refine congrArg _ (if_neg fun h => hno.elim (ne_true_of_eq_false · h.1) (ne_true_of_eq_false · h.2))
    · have hsend := msixSend_of_open (ctxPut s ctx.toNat { c with msgDue := false }) c.fn (vec := c.desc.crVector) hrel hmask
      exact ⟨_, congrArg _ ((if_pos ⟨hdue, hpast⟩).trans hsend), rfl, ctxOf_ctxPut_self _ _ _, rfl⟩

end Sys2Proof
end

section
/-! O46: swap-in, sequence slots and weight keys (09 R325, 10 R346, 11 R403, 18 R588; logs 40 to 42). -/
namespace Sys2Proof
open Sys2Proof.Machine

/-! ### Swap-in -/

section
variable {s : State} {ctx : U16} (l : List ReadResult)

theorem exec_contextSwapInDone_of_not_swapping (h : s.swapping.contains ctx.toNat = false) : exec (.contextSwapInDone ctx l) s = .next s :=
  if_pos (congrArg not h)

/-- The swap-in of a context that is asked for: its entries are taken while it is LIVE. -/
theorem exec_contextSwapInDone_of_swapping (h : s.swapping.contains ctx.toNat = true) : exec (.contextSwapInDone ctx l) s = .next
    (let cid := ctx.toNat
    let s0 := { s with swapping := sDel s.swapping cid }
    let c := ctxOf s cid
    let r := swapEntries cid ((c.entries.filter (fun e => entKind e.2.entry != 0)).map (·.1)) l s0
    if c.st ≠ .live then s0
    else if r.2 = 0 then swapWaiting (pinc (ctxPut r.1 cid { ctxOf r.1 cid with resident := true }) P.contextSwaps)
    else ctxLoss (ctxPut r.1 cid { ctxOf r.1 cid with feRefusal := some (c.head, r.2) }) cid none false) := by
  change execContextSwapInDone ctx l s = _
  unfold execContextSwapInDone
  rw [if_neg (show ¬ (!s.swapping.contains ctx.toNat) = true from by rw [h]; decide)]
  simp only [apply_ite Host.Outcome.next]
  rfl

end

section
variable (s : State) (cid idx : Nat) (b : Bytes)

/-- What an entry fetched again answers, by its generation beside the one last installed. The comparison stands here as some function, so that no
check of the proof unfolds its arithmetic modulo 2^32. -/
theorem swapEntry_data {x : RangeSlot} (hx : slotOf (ctxOf s cid) idx = x) {e : Nat} (he : leNat (b.take 32) = e) :
    (serialCmp (x.lastInstalled.getD 0) (entGen e) = .older → swapEntry s cid idx (.data b) = (s, 0x0304)) ∧
    (serialCmp (x.lastInstalled.getD 0) (entGen e) = .outside → swapEntry s cid idx (.data b) = (s, 0x0305)) ∧
    (serialCmp (x.lastInstalled.getD 0) (entGen e) = .equal ∨ serialCmp (x.lastInstalled.getD 0) (entGen e) = .newer →
      swapEntry s cid idx (.data b) = if entryCode s cid idx (entGen e) e = 0 then (entryForce s cid idx e x, 0) else (s, entryCode s cid idx (entGen e) e)) := by
  obtain ⟨cmp, hcmp⟩ : ∃ cmp, cmp = serialCmp := ⟨_, rfl⟩
  rw [swapEntry.eq_def, ← hcmp, hx]
  dsimp only
  rw [he]
  cases cmp (x.lastInstalled.getD 0) (entGen e) <;> simp

end

/-! ### The head of a start order -/

section
variable {s : State} {cid op : Nat} (f : State → QCmd → State)

/-- No command starts where none is queued or the front end has stopped. -/
theorem withHead_of_idle (h : frontUp s = false ∨ (ctxOf s cid).cmds = []) : withHead s cid op f = .next s := by
  unfold withHead
  dsimp only
  split
  · rfl
  · next q t hcmds =>
    rcases h with h | h
    · exact if_neg fun hgo => ne_true_of_eq_false h hgo.2.2
    · exact absurd (hcmds.symm.trans h) (List.cons_ne_nil q t)

/-- A head that may start is taken out of the order, and its action follows. -/
theorem withHead_of_ready {q : QCmd} {rest : List QCmd} (hcmds : (ctxOf s cid).cmds = q :: rest) (hop : q.opcode = op)
    (hready : headReady (ctxOf s cid) q = true) (hup : frontUp s = true) :
    withHead s cid op f = .next (stampHead (f (takeHead s cid q).1 (takeHead s cid q).2) cid) := by
  unfold withHead
  dsimp only
  rw [hcmds]
  exact if_pos ⟨hop, hready, hup⟩

end

section
variable (s : State) (cid : Nat) (q : QCmd)

theorem pl_takeHead (hi lo : Nat) : (takeHead s cid q).2.pl hi lo = q.pl hi lo := rfl

theorem seqSlots_takeHead : (takeHead s cid q).1.seqSlots = s.seqSlots := rfl

theorem wkeys_takeHead : (ctxOf (takeHead s cid q).1 cid).wkeys = (ctxOf s cid).wkeys := by
  unfold takeHead
  rw [ctxOf_ctxPut_self]

theorem wkeyOf_takeHead (i : Nat) : wkeyOf (takeHead s cid q).1 cid i = wkeyOf s cid i :=
  congrArg (tget _ · i) (wkeys_takeHead s cid q)

end

/-! ### Weight keys -/

section
variable (s : State) (cid k : Nat)

@[simp] theorem wkeyOf_wkeyPut_self (w : WkeySlot) : wkeyOf (wkeyPut s cid k w) cid k = w := by
  unfold wkeyOf wkeyPut
  rw [ctxOf_ctxPut_self, tget_tset_self]

/-- Whether some slot that a clear names is being loaded. -/
theorem any_loading_iff (all : Prop) [Decidable all] (t : Tbl WkeySlot) :
    t.any (fun w => (decide all || w.1 == k) && w.2.st == .loading) = true ↔ ∃ w ∈ t, (all ∨ w.1 = k) ∧ w.2.st = .loading := by
  simp

/-- A clear of one slot of a context, or of all. -/
def wkeysCleared (all : Prop) [Decidable all] : State :=
  ctxPut s cid { ctxOf s cid with wkeys := if all then [] else tdel (ctxOf s cid).wkeys k }

theorem wkeyOf_wkeysCleared (all : Prop) [Decidable all] (i : Nat) :
    wkeyOf (wkeysCleared s cid k all) cid i = if all ∨ i = k then {} else wkeyOf s cid i := by
  unfold wkeyOf wkeysCleared tget
  rw [ctxOf_ctxPut_self]
  by_cases hall : all
  · simp [hall, tfind]
  · by_cases hi : i = k
    · simp [hall, hi, tfind_tdel_self]
    · simp [hall, hi, tfind_tdel_ne]

/-- The slot of a load that fails is as it was before. -/
def wkeyBack : State :=
  wkeyPut s cid k { wkeyOf s cid k with st := if (wkeyOf s cid k).key = [] then .empty else .loaded, blob := 0 }

/-- A key that is taken: its slot, its record in the Wake of its shell, and the count. -/
def wkeyLoaded (seq : Nat) (b key : Bytes) : State :=
  let s1 := wkeyPut s cid k { st := .loaded, shell := field b 6 1, baseVa := field b 8 8, nonce := field b 0x10 8, model := slice b 0x20 64, key := padTo 32 key }
  pinc (wakeAppend s1 (field b 6 1) (keyWake s1 (field b 6 1) cid seq k (slice b 0x20 64))) P.wkeyLoads

theorem wkeyOf_wkeyLoaded (seq : Nat) (b key : Bytes) : wkeyOf (wkeyLoaded s cid k seq b key) cid k =
    { st := .loaded, shell := field b 6 1, baseVa := field b 8 8, nonce := field b 0x10 8, model := slice b 0x20 64, key := padTo 32 key } :=
  wkeyOf_wkeyPut_self s cid k _

theorem wkeyLoads_wkeyLoaded (seq : Nat) (b key : Bytes) : pget (wkeyLoaded s cid k seq b key) P.wkeyLoads = satInc32 (pget s P.wkeyLoads) :=
  pget_pinc_self _ _

theorem pending_wkeyLoaded (seq : Nat) (b key : Bytes) :
    (wakeOf (wkeyLoaded s cid k seq b key) (field b 6 1)).pending.length = (wakeOf s (field b 6 1)).pending.length + 1 := by
  simp only [wkeyLoaded, wakeAppend, wkeyPut, wakeOf_of_pinc, wakeOf_wakePut_self, wakeOf_of_ctxPut, List.length_append, List.length_singleton]

end

/-! ### The commands -/

theorem exec_keyCommands_of_idle {s : State} {ctx : U16} (h : frontUp s = false ∨ (ctxOf s ctx.toNat).cmds = []) :
    exec (.cmdSeqSlot ctx) s = .next s ∧ exec (.cmdWkeyClear ctx) s = .next s ∧ exec (.cmdWkeyLoad ctx) s = .next s := by
  change execCmdSeqSlot ctx s = _ ∧ execCmdWkeyClear ctx s = _ ∧ execCmdWkeyLoad ctx s = _
  unfold execCmdSeqSlot execCmdWkeyClear execCmdWkeyLoad
  exact ⟨withHead_of_idle _ h, withHead_of_idle _ h, withHead_of_idle _ h⟩

section
variable {s : State} {ctx : U16} {q : QCmd} {rest : List QCmd} (hcmds : (ctxOf s ctx.toNat).cmds = q :: rest)
  (hready : headReady (ctxOf s ctx.toNat) q = true) (hup : frontUp s = true)
include hcmds hready hup

theorem exec_cmdSeqSlot_of_ready (hop : q.opcode = 0x10) : exec (.cmdSeqSlot ctx) s = .next (stampHead
    (let u := (takeHead s ctx.toNat q).1
    let h := (takeHead s ctx.toNat q).2
    let k := q.pl 447 436
    if q.pl 435 432 = 2 then
      if (tfind s.seqSlots k).map seqOwner = some ctx.toNat then privEnd { u with seqSlots := tdel s.seqSlots k } ctx.toNat h 0 else privEnd u ctx.toNat h 0x0A2D
    else if seqWriteCode u ctx.toNat k ≠ 0 then privEnd u ctx.toNat h (seqWriteCode u ctx.toNat k)
    else emit (privBegin u ctx.toNat h) (.hostRead (q.pl 511 448) 32)) ctx.toNat) := by
  change execCmdSeqSlot ctx s = _
  unfold execCmdSeqSlot
  dsimp only
  rw [withHead_of_ready _ hcmds hop hready hup]
  simp only [pl_takeHead, seqSlots_takeHead]
  cases tfind s.seqSlots (q.pl 447 436) with
  | none =>
    simp only [Option.map_none, reduceCtorEq, if_false]
    rfl
  | some r =>
    simp only [Option.map_some, Option.some.injEq]
    rfl

theorem exec_cmdWkeyLoad_of_ready (hop : q.opcode = 0x14) : exec (.cmdWkeyLoad ctx) s = .next (stampHead
    (let u := (takeHead s ctx.toNat q).1
    let h := (takeHead s ctx.toNat q).2
    let w := wkeyOf s ctx.toNat (q.pl 447 442)
    if q.pl 441 320 ≠ 0 ∨ q.pl 511 448 % 64 ≠ 0 ∨ q.pl 319 256 % 8 ≠ 0 then wkeyFail u ctx.toNat h 0x0701
    else if w.st = .loading then wkeyFail u ctx.toNat h 0x0702
    else emit (privBegin (wkeyPut u ctx.toNat (q.pl 447 442) { wkeyOf u ctx.toNat (q.pl 447 442) with st := .loading, blob := q.pl 511 448 }) ctx.toNat h)
      (.hostRead (q.pl 511 448) 1792)) ctx.toNat) := by
  change execCmdWkeyLoad ctx s = _
  unfold execCmdWkeyLoad
  dsimp only
  rw [withHead_of_ready _ hcmds hop hready hup]
  simp only [pl_takeHead, wkeyOf_takeHead]

theorem exec_cmdWkeyClear_of_ready (hop : q.opcode = 0x15) : exec (.cmdWkeyClear ctx) s = .next (stampHead
    (let u := (takeHead s ctx.toNat q).1
    let h := (takeHead s ctx.toNat q).2
    if q.pl 511 448 ≠ 0 ∨ q.pl 440 320 ≠ 0 ∨ q.pl 319 256 % 8 ≠ 0 then privEnd u ctx.toNat h 0x0701
    else if (ctxOf s ctx.toNat).wkeys.any (fun w => (decide (q.pl 441 441 = 1) || w.1 == q.pl 447 442) && w.2.st == .loading) then
      privEnd u ctx.toNat h 0x0702
    else privEnd (wkeysCleared u ctx.toNat (q.pl 447 442) (q.pl 441 441 = 1)) ctx.toNat h 0) ctx.toNat) := by
  change execCmdWkeyClear ctx s = _
  unfold execCmdWkeyClear wkeysCleared
  dsimp only
  rw [withHead_of_ready _ hcmds hop hready hup]
  simp only [pl_takeHead, wkeys_takeHead]
  rfl

end

/-! ### The reads that come back -/

section
variable {s : State} {ctx : U16} {seq : U32}

theorem exec_seqSlotRecordReadDone_of_none (h : privFind s ctx.toNat 0x10 seq.toNat = none) (r : ReadResult) :
    exec (.seqSlotRecordReadDone ctx seq r) s = .next s := by
  change execSeqSlotRecordReadDone ctx seq r s = _
  unfold execSeqSlotRecordReadDone
  dsimp only
  rw [h]

theorem exec_wkeyBlobReadDone_of_none (h : privFind s ctx.toNat 0x14 seq.toNat = none) (r : ReadResult) :
    exec (.wkeyBlobReadDone ctx seq r) s = .next s := by
  change execWkeyBlobReadDone ctx seq r s = _
  unfold execWkeyBlobReadDone
  dsimp only
  rw [h]

variable {q : QCmd}

section
variable (h : privFind s ctx.toNat 0x10 seq.toNat = some q)
include h

theorem exec_seqSlotRecordReadDone_of_refused (hcode : seqWriteCode s ctx.toNat (q.pl 447 436) ≠ 0) (r : ReadResult) :
    exec (.seqSlotRecordReadDone ctx seq r) s = .next (privEnd s ctx.toNat q (seqWriteCode s ctx.toNat (q.pl 447 436))) := by
  change execSeqSlotRecordReadDone ctx seq r s = _
  unfold execSeqSlotRecordReadDone
  dsimp only
  rw [h]
  exact if_pos hcode

variable (hok : seqWriteCode s ctx.toNat (q.pl 447 436) = 0)
include hok

theorem exec_seqSlotRecordReadDone_failed : exec (.seqSlotRecordReadDone ctx seq .failed) s =
    .next (privEnd (freeNext s) ctx.toNat q (1 + (Config.freeWord s.freeCtr).toNat % 0xFFFF)) := by
  change execSeqSlotRecordReadDone ctx seq .failed s = _
  unfold execSeqSlotRecordReadDone
  dsimp only
  rw [h]
  exact if_neg (not_not_intro hok)

theorem exec_seqSlotRecordReadDone_data (b : Bytes) : exec (.seqSlotRecordReadDone ctx seq (.data b)) s =
    .next (if b.length < 32 ∨ seqFieldBad ctx.toNat (leNat (b.take 32)) then privEnd s ctx.toNat q 0x0A2E
      else privEnd { s with seqSlots := tins (tdel s.seqSlots (q.pl 447 436)) (q.pl 447 436) (leNat (b.take 32)) } ctx.toNat q 0) := by
  change execSeqSlotRecordReadDone ctx seq (.data b) s = _
  unfold execSeqSlotRecordReadDone
  dsimp only
  rw [h, apply_ite Host.Outcome.next]
  exact if_neg (not_not_intro hok)

end

section
variable (h : privFind s ctx.toNat 0x14 seq.toNat = some q)
include h

theorem exec_wkeyBlobReadDone_failed : exec (.wkeyBlobReadDone ctx seq .failed) s = .next (wkeyFail (wkeyBack s ctx.toNat (q.pl 447 442)) ctx.toNat q 0x0703) := by
  change execWkeyBlobReadDone ctx seq .failed s = _
  unfold execWkeyBlobReadDone
  dsimp only
  rw [h]
  rfl

variable {b : Bytes}

theorem exec_wkeyBlobReadDone_of_refused {code : Nat} (hcode : blobKey s (ctxOf s ctx.toNat).fn b = .inr code) :
    exec (.wkeyBlobReadDone ctx seq (.data b)) s = .next (wkeyFail (wkeyBack s ctx.toNat (q.pl 447 442)) ctx.toNat q code) := by
  change execWkeyBlobReadDone ctx seq (.data b) s = _
  unfold execWkeyBlobReadDone
  dsimp only
  rw [h]
  dsimp only
  rw [hcode]
  rfl

theorem exec_wkeyBlobReadDone_of_taken {key : Bytes} (hkey : blobKey s (ctxOf s ctx.toNat).fn b = .inl key) :
    exec (.wkeyBlobReadDone ctx seq (.data b)) s = .next (privEnd (wkeyLoaded s ctx.toNat (q.pl 447 442) q.seq b key) ctx.toNat q 0) := by
  change execWkeyBlobReadDone ctx seq (.data b) s = _
  unfold execWkeyBlobReadDone
  dsimp only
  rw [h]
  dsimp only
  rw [hkey]
  rfl

end

end

/-- Settles O46: a swap-in by what its entries answer, a command by its fields and the state of its slot, a read by what it brings. -/
theorem slotsAndKeys : Obligations.SlotsAndKeys := by
  refine ⟨fun s ctx l => ?_, fun s cid idx e b he => ?_, fun s ctx hidle => exec_keyCommands_of_idle hidle,
    fun s ctx q rest hcmds hready hup => ⟨fun hop => ?_, fun hop => ?_, fun hop hbad => ?_, fun hop h1 h2 h3 => ?_⟩, fun s ctx seq r => ⟨fun hnone => ?_, fun hnone => ?_⟩,
    fun s ctx seq q b => ?_, fun s ctx seq q b => ?_⟩
  · refine ⟨exec_contextSwapInDone_of_not_swapping l, fun hswap hst => ?_, fun hswap hst => ⟨fun hok => ?_, fun hcode => ?_⟩⟩ <;>
      rw [exec_contextSwapInDone_of_swapping l hswap]
    · exact congrArg _ (if_pos hst)
    · exact congrArg _ ((if_neg (not_not_intro hst)).trans (if_pos hok))
    · exact congrArg _ ((if_neg (not_not_intro hst)).trans (if_neg hcode))
  · exact ⟨rfl, swapEntry_data s cid idx b rfl he.symm⟩
  · intro k
    rw [exec_cmdSeqSlot_of_ready hcmds hready hup hop]
    refine ⟨fun hrel => ⟨fun r hr hown => ?_, fun hnot => ?_⟩, fun hwrite => ⟨fun hcode => ?_, fun hok => ?_⟩⟩
    · exact congrArg (Host.Outcome.next <| stampHead · _) ((if_pos hrel).trans (if_pos (by rw [hr]; exact congrArg some hown)))
    · refine congrArg (Host.Outcome.next <| stampHead · _) ((if_pos hrel).trans (if_neg fun h => ?_))
      obtain ⟨r, hr, hown⟩ := Option.map_eq_some_iff.mp h
      exact hnot r hr hown
    · exact congrArg (Host.Outcome.next <| stampHead · _) ((if_neg hwrite).trans (if_pos hcode))
    · exact congrArg (Host.Outcome.next <| stampHead · _) ((if_neg hwrite).trans (if_neg (not_not_intro hok)))
  · intro k
    rw [exec_cmdWkeyLoad_of_ready hcmds hready hup hop]
    refine ⟨fun hbad => ?_, fun h1 h2 h3 => ?_⟩
    · exact congrArg (Host.Outcome.next <| stampHead · _) (if_pos hbad)
    · have hfields : ¬ (q.pl 441 320 ≠ 0 ∨ q.pl 511 448 % 64 ≠ 0 ∨ q.pl 319 256 % 8 ≠ 0) := by simp [h1, h2, h3]
      exact ⟨fun hloading => congrArg (Host.Outcome.next <| stampHead · _) ((if_neg hfields).trans (if_pos hloading)),
        fun hfree => congrArg (Host.Outcome.next <| stampHead · _) ((if_neg hfields).trans (if_neg hfree))⟩
  · rw [exec_cmdWkeyClear_of_ready hcmds hready hup hop]
    exact congrArg (Host.Outcome.next <| stampHead · _) (if_pos hbad)
  · intro k all
    have hfields : ¬ (q.pl 511 448 ≠ 0 ∨ q.pl 440 320 ≠ 0 ∨ q.pl 319 256 % 8 ≠ 0) := by simp [h1, h2, h3]
    rw [exec_cmdWkeyClear_of_ready hcmds hready hup hop]
    refine ⟨fun hloading => ?_, fun hfree => ⟨wkeysCleared (takeHead s ctx.toNat q).1 ctx.toNat k all, ?_, fun i hi => ?_, fun i hall hi => ?_, rfl⟩⟩
    · exact congrArg (Host.Outcome.next <| stampHead · _) ((if_neg hfields).trans (if_pos ((any_loading_iff _ _ _).mpr hloading)))
    · refine congrArg (Host.Outcome.next <| stampHead · _) ((if_neg hfields).trans (if_neg fun h => ?_))
      obtain ⟨w, hw, hnamed, hst⟩ := (any_loading_iff _ _ _).mp h
      exact hfree w hw hnamed hst
    · rw [wkeyOf_wkeysCleared, if_pos hi]
    · rw [wkeyOf_wkeysCleared, if_neg (not_or.mpr ⟨hall, hi⟩), wkeyOf_takeHead]
  · exact exec_seqSlotRecordReadDone_of_none hnone r
  · exact exec_wkeyBlobReadDone_of_none hnone r
  · intro cid k hfound hlen
    refine ⟨exec_seqSlotRecordReadDone_failed hfound, fun hcode => exec_seqSlotRecordReadDone_of_refused hfound hcode _, fun hok hbad => ?_, fun hok hgood => ?_⟩ <;>
      rw [exec_seqSlotRecordReadDone_data hfound hok]
    · exact congrArg _ (if_pos (.inr hbad))
    · exact congrArg _ (if_neg (not_or.mpr ⟨Nat.not_lt.mpr hlen, ne_true_of_eq_false hgood⟩))
  · intro cid k w back hfound
    refine ⟨exec_wkeyBlobReadDone_failed hfound, fun code => exec_wkeyBlobReadDone_of_refused hfound, fun key hkey =>
      ⟨wkeyLoaded s cid k q.seq b key, exec_wkeyBlobReadDone_of_taken hfound hkey, ?_, ?_, ?_, ?_, wkeyLoads_wkeyLoaded s cid k q.seq b key,
        pending_wkeyLoaded s cid k q.seq b key⟩⟩ <;> rw [wkeyOf_wkeyLoaded]

end Sys2Proof
end

section
/-! O43: tails, slot fetches and awaited words (11 R369 to R371, R381, R382, R403, 07 R255; log 11). -/
namespace Sys2Proof
open Sys2Proof.Machine

/-! ### Tails -/

section
variable {s : State} {fn : Fn} (hup : fnUp s fn.val = true) (w : U64)
include hup

theorem exec_hqTailWrite_of_up : exec (.hqTailWrite fn w) s = .next
    (let cid := bitsOf w.toNat 31 16
    let tail := bitsOf w.toNat 63 32
    let c := ctxOf s cid
    if c.st ≠ .live ∨ c.fn ≠ fn.val ∨ pget s P.startStage ≠ 5 then pinc s P.hqTailIgnored
    else if tail = c.tail then s
    else if serialCmp c.tail tail ≠ .newer ∨ 2 ^ c.desc.queueLog2 < serialDist c.head tail then pinc s P.hqTailIgnored
    else swapInTry (ctxPut s cid { c with tail := tail }) cid) := by
  change execHqTailWrite fn w s = _
  unfold execHqTailWrite
  dsimp only
  rw [if_neg (by simp [hup])]
  simp only [apply_ite Host.Outcome.next]

/-- A tail of a live context of the function at full function is judged by its place alone. -/
theorem exec_hqTailWrite_of_live {cid tail : Nat} (hcid : bitsOf w.toNat 31 16 = cid) (htail : bitsOf w.toNat 63 32 = tail) (hst : (ctxOf s cid).st = .live)
    (hfn : (ctxOf s cid).fn = fn.val) (hstage : pget s P.startStage = 5) : exec (.hqTailWrite fn w) s = .next
    (if tail = (ctxOf s cid).tail then s
    else if serialCmp (ctxOf s cid).tail tail ≠ .newer ∨ 2 ^ (ctxOf s cid).desc.queueLog2 < serialDist (ctxOf s cid).head tail then pinc s P.hqTailIgnored
    else swapInTry (ctxPut s cid { ctxOf s cid with tail := tail }) cid) := by
  rw [exec_hqTailWrite_of_up hup w, hcid, htail]
  exact congrArg _ (if_neg fun h => h.elim (absurd hst) fun h => h.elim (absurd hfn) (absurd hstage))

end

theorem serialCmp_self (a : Nat) : serialCmp a a = .equal := by
  have hzero : serialDist a a = 0 := by unfold serialDist; omega
  unfold serialCmp
  rw [hzero]
  rfl

/-- A context keeps its tail while it is looked whether it can have a slot; one that is resident changes nothing. -/
theorem tail_swapInTry (s : State) (cid i : Nat) : (ctxOf (swapInTry s cid) i).tail = (ctxOf s i).tail :=
  (congrArg Ctx.tail (besideResidency_swapInTry i s cid) :)

theorem swapInTry_of_resident {s : State} {cid : Nat} (h : (ctxOf s cid).resident = true) : swapInTry s cid = s := if_pos (.inl h)

theorem eq_of_outsideSwaps {s t : State} (h : outsideSwaps t = outsideSwaps s) : t = { s with ctxs := t.ctxs, swapping := t.swapping, sent := t.sent } :=
  (congrArg (fun u : State => { u with ctxs := t.ctxs, swapping := t.swapping, sent := t.sent }) h :)

/-! ### The ring -/

section
variable (s : State) (c : Ctx) (n : Nat)

theorem eq_of_ringAsk : ringAsk s c n = { s with sent := (ringAsk s c n).sent } := by
  unfold ringAsk
  dsimp only
  split <;> rfl

theorem sent_ringAsk : ∃ l, (ringAsk s c n).sent = s.sent ++ l ∧ l ≠ [] := by
  unfold ringAsk
  dsimp only
  split
  · exact ⟨_, rfl, List.cons_ne_nil _ _⟩
  · exact ⟨_, List.append_assoc _ _ _, List.cons_ne_nil _ _⟩

@[simp] theorem ctxs_ringAsk : (ringAsk s c n).ctxs = s.ctxs := (congrArg State.ctxs (eq_of_ringAsk s c n) :)
@[simp] theorem tb_ringAsk : (ringAsk s c n).tb = s.tb := (congrArg State.tb (eq_of_ringAsk s c n) :)
@[simp] theorem ctxOf_ringAsk (i : Nat) : ctxOf (ringAsk s c n) i = ctxOf s i := congrArg (tget _ · i) (ctxs_ringAsk s c n)

variable {s c n} (hhost : c.desc.queueLocal = false)
include hhost

theorem ringRead_data (b : Bytes) : ringRead s c n (.data b) = (ringAsk s c n, .ok (b.take (64 * n))) := if_neg (ne_true_of_eq_false hhost)
theorem ringRead_failed : ringRead s c n .failed = (ringAsk s c n, .refused stTimeout) := if_neg (ne_true_of_eq_false hhost)

end

/-! ### Slots -/

section
variable {s : State} {cid : Nat} {c : Ctx} (hc : ctxOf s cid = c) (hst : c.st = .live) (hne : c.head ≠ c.tail) (b : Bytes) (n : Nat)
include hc hst hne

/-- A slot whose QUEUE_SEQ differs is read once more; at the second read it is refused. -/
theorem fetchSlots_of_mismatch (hseq : bitsOf (leNat (b.take 64)) 31 0 ≠ c.head) (again : Bool) : fetchSlots cid again (n + 1) b s =
    if again then cmdRefuse (ctxPut s cid { c with retrying := false, head := (c.head + 1) % 2 ^ 32 }) cid (parseSlot b c.head none) 0x0A21
    else pinc (ctxPut s cid { c with retrying := true, tbRetry := s.tb }) P.fetchRetries := by
  rw [fetchSlots, hc]
  exact (if_neg (not_or.mpr ⟨not_not_intro hst, hne⟩)).trans (if_pos hseq)

/-- A slot with its QUEUE_SEQ moves HEAD on and is checked. -/
theorem fetchSlots_of_match (hseq : bitsOf (leNat (b.take 64)) 31 0 = c.head) (again : Bool) : fetchSlots cid again (n + 1) b s =
    (let q := parseSlot b c.head none
    let s1 := ctxPut s cid { c with head := (c.head + 1) % 2 ^ 32, retrying := false, headWbDue := true, tbWb := s.tb }
    let code := if q.opcode = 1 then 0 else slotCode c q {}
    if code = 0 then fetchSlots cid false n (b.drop 64) (slotAccept s1 cid q) else cmdRefuse s1 cid q code) := by
  rw [fetchSlots, hc]
  exact (if_neg (not_or.mpr ⟨not_not_intro hst, hne⟩)).trans (if_neg (not_not_intro hseq))

end

/-- The bytes of a slot within those of a read of several. -/
theorem take_slot (b : Bytes) {n : Nat} (hn : n ≠ 0) : (b.take (64 * n)).take 64 = b.take 64 := by
  rw [List.take_take, Nat.min_eq_left (by omega)]

theorem parseSlot_take (b : Bytes) {n : Nat} (hn : n ≠ 0) (seq : Nat) (entry : Option Nat) : parseSlot (b.take (64 * n)) seq entry = parseSlot b seq entry := by
  unfold parseSlot
  rw [take_slot b hn]

section
variable {s : State} {ctx : U16} {c : Ctx} (hc : ctxOf s ctx.toNat = c)
include hc

theorem exec_queueFetchDone_of_retrying (h : c.retrying = true) (r : ReadResult) : exec (.queueFetchDone ctx false r) s = .next s := by
  change execQueueFetchDone ctx false r s = _
  unfold execQueueFetchDone
  dsimp only
  rw [hc]
  split
  · rfl
  · exact (if_neg Bool.false_ne_true).trans (if_pos (.inl h))

theorem exec_slotSeqRetry_of_idle (h : ¬ (c.st = .live ∧ c.retrying = true ∧ tbPast s.tb c.tbRetry 2000 = true)) (r : ReadResult) :
    exec (.slotSeqRetry ctx r) s = .next s := by
  change execSlotSeqRetry ctx r s = _
  unfold execSlotSeqRetry
  dsimp only
  rw [hc]
  exact if_neg fun ⟨hst, _, hretry, _, hpast⟩ => h ⟨hst, hretry, hpast⟩

theorem exec_headWbMerge : exec (.headWbMerge ctx) s = .next
    (if c.headWbDue = true ∧ c.st = .live ∧ frontUp s = true ∧ tbPast s.tb c.tbWb 1000 = true then
      emit (ctxPut s ctx.toNat { c with headWbDue := false }) (.hostWrite c.desc.headWb (leBytes 8 c.head))
    else s) := by
  change execHeadWbMerge ctx s = _
  unfold execHeadWbMerge
  dsimp only
  rw [hc, apply_ite Host.Outcome.next]

variable (hst : c.st = .live) (hup : frontUp s = true) (hres : c.resident = true) (hhost : c.desc.queueLocal = false)
include hst hup hres hhost

section
variable (hretry : c.retrying = false) (hne : c.head ≠ c.tail)
include hretry hne

theorem exec_queueFetchDone_data (b : Bytes) : exec (.queueFetchDone ctx false (.data b)) s = .next
    (let n := min 16 (serialDist c.head c.tail)
    fetchSlots ctx.toNat false (min 16 ((b.take (64 * n)).length / 64)) (b.take (64 * n)) (ringAsk s c n)) := by
  change execQueueFetchDone ctx false (.data b) s = _
  unfold execQueueFetchDone
  dsimp only
  rw [hc, ringRead_data hhost, if_neg (by simp [hst, hup, hres]), if_neg Bool.false_ne_true, if_neg (by simp [hretry, hne])]

theorem exec_queueFetchDone_failed : exec (.queueFetchDone ctx false .failed) s = .next
    (cmdRefuse (ctxPut (ringAsk s c (min 16 (serialDist c.head c.tail))) ctx.toNat { c with head := (c.head + 1) % 2 ^ 32 }) ctx.toNat
      { seq := c.head, opcode := 1 } 0x0A24) := by
  change execQueueFetchDone ctx false .failed s = _
  unfold execQueueFetchDone
  dsimp only
  rw [hc, ringRead_failed hhost, if_neg (by simp [hst, hup, hres]), if_neg Bool.false_ne_true, if_neg (by simp [hretry, hne])]

/-- A fetch that brings one slot or more begins with the slot at HEAD. -/
theorem exec_queueFetchDone_slots {b : Bytes} (hdist : serialDist c.head c.tail ≠ 0) (hlen : 64 ≤ b.length) :
    ∃ k, exec (.queueFetchDone ctx false (.data b)) s = .next (fetchSlots ctx.toNat false (k + 1) (b.take (64 * min 16 (serialDist c.head c.tail)))
      (ringAsk s c (min 16 (serialDist c.head c.tail)))) ∧ (b.length < 128 → k = 0) := by
  have hread := exec_queueFetchDone_data hc hst hup hres hhost hretry hne b
  dsimp only at hread
  obtain ⟨k, hk⟩ : ∃ k, min 16 ((b.take (64 * min 16 (serialDist c.head c.tail))).length / 64) = k + 1 := by
    refine Nat.exists_eq_succ_of_ne_zero ?_
    rw [List.length_take]
    omega
  refine ⟨k, hread.trans (by rw [hk]), fun hshort => ?_⟩
  rw [List.length_take] at hk
  omega

end

variable (hretry : c.retrying = true) (hpast : tbPast s.tb c.tbRetry 2000 = true)
include hretry hpast

theorem exec_slotSeqRetry_data (b : Bytes) : exec (.slotSeqRetry ctx (.data b)) s = .next (fetchSlots ctx.toNat true 1 (b.take (64 * 1)) (ringAsk s c 1)) := by
  change execSlotSeqRetry ctx (.data b) s = _
  unfold execSlotSeqRetry
  dsimp only
  rw [hc, ringRead_data hhost]
  exact if_pos ⟨hst, hres, hretry, hup, hpast⟩

theorem exec_slotSeqRetry_failed : exec (.slotSeqRetry ctx .failed) s = .next
    (cmdRefuse (ctxPut (ringAsk s c 1) ctx.toNat { c with retrying := false, head := (c.head + 1) % 2 ^ 32 }) ctx.toNat { seq := c.head, opcode := 1 } 0x0A24) := by
  change execSlotSeqRetry ctx .failed s = _
  unfold execSlotSeqRetry
  dsimp only
  rw [hc, ringRead_failed hhost]
  exact if_pos ⟨hst, hres, hretry, hup, hpast⟩

end

/-- A front end that has stopped neither fetches nor writes HEAD back. -/
theorem exec_front_of_stopped {s : State} (hdown : frontUp s = false) (ctx : U16) :
    (∀ b r, exec (.queueFetchDone ctx b r) s = .next s ∧ exec (.slotSeqRetry ctx r) s = .next s) ∧ exec (.headWbMerge ctx) s = .next s := by
  refine ⟨fun b r => ⟨?_, ?_⟩, ?_⟩
  · exact if_pos (.inr (.inl (by rw [hdown]; rfl)))
  · exact if_neg fun ⟨_, _, _, hup, _⟩ => ne_true_of_eq_false hdown hup
  · exact if_neg fun ⟨_, _, hup, _⟩ => ne_true_of_eq_false hdown hup

/-! ### Pages without a translation -/

section
variable {s : State} {cid va n : Nat} {a : Acc}

theorem withAts_of_wanted {f p : Nat} (h : atsWanted s cid a (n / 4096 + 2) va n = some (f, p)) (go : Ans) :
    withAts s cid a va n go = .next (emit s (.atsRequest f p)) := by
  unfold withAts
  rw [h]

theorem withAts_of_none (h : atsWanted s cid a (n / 4096 + 2) va n = none) (go : Ans) : withAts s cid a va n go = go := by
  unfold withAts
  rw [h]

end

/-! ### Awaited words -/

/-- The head of a context's start order, whose wait is unmet while the front end runs. -/
structure AwaitsAt (s : State) (cid : Nat) (q : QCmd) (rest : List QCmd) : Prop where
  live : (ctxOf s cid).st = .live
  head : (ctxOf s cid).cmds = q :: rest
  enabled : q.waitEn = true
  unmet : q.waitMet = false
  validated : q.phase = .validated
  turn : bufferOpen (ctxOf s cid) q = false
  up : frontUp s = true

theorem AwaitsAt.awaits {s : State} {cid : Nat} {q : QCmd} {rest : List QCmd} (h : AwaitsAt s cid q rest) : awaits (ctxOf s cid) q = true := by
  unfold Machine.awaits
  simp [h.live, h.enabled, h.unmet, h.validated, h.turn]

/-- The read of the awaited word has come back. -/
def pollEnded (s : State) (cid : Nat) : State :=
  ctxPut s cid { ctxOf s cid with cmds := ((ctxOf s cid).cmds.take 1).map (fun x => { x with polling := false }) ++ (ctxOf s cid).cmds.drop 1 }

/-- What becomes of a command whose awaited word has been read, and of one whose word is to be read where its address translates. -/
def waitRead (s : State) (cid : Nat) (q : QCmd) : State × VaRead → Ans
  | (_, .waits) => .next s
  | (u, x) => if (ctxOf u cid).st ≠ .live then .next u
    else match x with
    | .ok b => .next (waitLook (pollEnded u cid) cid (leNat b))
    | .fault => .next (cmdRefuse u cid q 0x0A26)
    | _ => .next (pollEnded u cid)

def wordPoll (s : State) (cid : Nat) (q : QCmd) (rest : List QCmd) : Option Nat → Ans
  | none => .next (cmdRefuse s cid q 0x0A26)
  | some ga =>
    let due := match q.tbPoll with
      | none => true
      | some t => polledWord ga && tbPast s.tb t (pget s P.fencePollUs * 1000)
    if due then .next (askRead (ctxPut s cid { ctxOf s cid with cmds := { q with tbPoll := some s.tb, polling := true } :: rest })
      (place s 2352 (vaShell s cid q.waitAddr) ga 8 (some cid)) 8)
    else .next s

theorem exec_waits_of_empty {s : State} {ctx : U16} (h : (ctxOf s ctx.toNat).cmds = []) (r : ReadResult) :
    exec (.waitReadDone ctx r) s = .next s ∧ exec (.fenceWaitPoll ctx) s = .next s := by
  constructor
  · change execWaitReadDone ctx r s = _
    unfold execWaitReadDone
    dsimp only
    rw [h]
  · change execFenceWaitPoll ctx s = _
    unfold execFenceWaitPoll
    dsimp only
    rw [h]

section
variable {s : State} {ctx : U16} {q : QCmd} {rest : List QCmd} (h : AwaitsAt s ctx.toNat q rest)
include h

theorem exec_waitReadDone_of_not_polling (r : ReadResult) (hpoll : q.polling = false) : exec (.waitReadDone ctx r) s = .next s := by
  change execWaitReadDone ctx r s = _
  unfold execWaitReadDone
  dsimp only
  rw [h.head]
  exact if_pos (.inr (.inl (by rw [hpoll]; rfl)))

theorem exec_waitReadDone_of_polling (r : ReadResult) (hpoll : q.polling = true) : exec (.waitReadDone ctx r) s =
    withAts s ctx.toNat .read q.waitAddr 8 (waitRead s ctx.toNat q (vaRead s false ctx.toNat q.waitAddr 8 r)) := by
  change execWaitReadDone ctx r s = _
  unfold execWaitReadDone
  dsimp only
  rw [h.head]
  exact if_neg (by simp [h.awaits, h.up, hpoll])

theorem exec_fenceWaitPoll_of_polling (hpoll : q.polling = true) : exec (.fenceWaitPoll ctx) s = .next s := by
  change execFenceWaitPoll ctx s = _
  unfold execFenceWaitPoll
  dsimp only
  rw [h.head]
  exact if_pos (.inr (.inl hpoll))

theorem exec_fenceWaitPoll_of_not_polling (hpoll : q.polling = false) : exec (.fenceWaitPoll ctx) s =
    withAts s ctx.toNat .read q.waitAddr 8 (wordPoll s ctx.toNat q rest (translate s ctx.toNat q.waitAddr .read)) := by
  change execFenceWaitPoll ctx s = _
  unfold execFenceWaitPoll
  dsimp only
  rw [h.head]
  exact if_neg (by simp [h.awaits, h.up, hpoll])

end

/-- What the read of an awaited word says to its command. -/
theorem waitRead_cases (s u : State) (cid : Nat) (q : QCmd) (v : VaRead) :
    (v = .waits → waitRead s cid q (u, v) = .next s) ∧
    ((ctxOf u cid).st = .live →
      (∀ b, v = .ok b → waitRead s cid q (u, v) = .next (waitLook (pollEnded u cid) cid (leNat b))) ∧
      (v = .fault → waitRead s cid q (u, v) = .next (cmdRefuse u cid q 0x0A26)) ∧
      (∀ st, v = .refused st → waitRead s cid q (u, v) = .next (pollEnded u cid))) := by
  refine ⟨fun hv => ?_, fun hst => ⟨fun b hv => ?_, fun hv => ?_, fun st hv => ?_⟩⟩ <;> subst hv
  · rfl
  · exact if_neg (not_not_intro hst)
  · exact if_neg (not_not_intro hst)
  · exact if_neg (not_not_intro hst)

/-- A word that is read for the first time, or again in its turn, is asked for. -/
theorem wordPoll_of_due (s : State) (cid : Nat) (q : QCmd) (rest : List QCmd) {ga : Nat}
    (hdue : q.tbPoll = none ∨ ∃ t, q.tbPoll = some t ∧ polledWord ga = true ∧ tbPast s.tb t (pget s P.fencePollUs * 1000) = true) :
    wordPoll s cid q rest (some ga) = .next (askRead (ctxPut s cid { ctxOf s cid with cmds := { q with tbPoll := some s.tb, polling := true } :: rest })
      (place s 2352 (vaShell s cid q.waitAddr) ga 8 (some cid)) 8) := by
  unfold wordPoll
  dsimp only
  rcases hdue with hfirst | ⟨t, ht, hpolled, hpast⟩
  · rw [hfirst]
    exact if_pos rfl
  · rw [ht]
    exact if_pos (Bool.and_eq_true_iff.mpr ⟨hpolled, hpast⟩)

theorem wordPoll_of_early (s : State) (cid : Nat) {q : QCmd} (rest : List QCmd) {ga t : Nat} (ht : q.tbPoll = some t)
    (hearly : polledWord ga = false ∨ tbPast s.tb t (pget s P.fencePollUs * 1000) = false) : wordPoll s cid q rest (some ga) = .next s := by
  unfold wordPoll
  dsimp only
  rw [ht]
  exact if_neg (ne_true_of_eq_false (Bool.and_eq_false_iff.mpr hearly))

/-! ### What an awaited word says -/

section
variable {s : State} {cid v : Nat} {q : QCmd} {rest : List QCmd} (hcmds : (ctxOf s cid).cmds = q :: rest)
include hcmds

theorem waitLook_of_below (hv : v < q.waitThreshold) : waitLook s cid v = s := by
  unfold waitLook
  dsimp only
  rw [hcmds]
  exact if_pos hv

variable (hv : q.waitThreshold ≤ v)
include hv

theorem waitLook_of_met (hclean : v < 2 ^ 63 ∨ q.ignorePoison = true) :
    waitLook s cid v = stampHead (ctxPut s cid { ctxOf s cid with cmds := { q with waitMet := true, tbMet := some s.tb } :: rest }) cid := by
  unfold waitLook
  dsimp only
  rw [hcmds]
  refine (if_neg (Nat.not_lt.mpr hv)).trans (if_neg fun ⟨hpoison, hheed⟩ => ?_)
  rcases hclean with hlt | hignore
  · exact Nat.not_le.mpr hlt hpoison
  · rw [hignore] at hheed
    cases hheed

/-- A poisoned value that meets the wait retires the command, which is started for it. -/
theorem waitLook_of_poisoned (hpoison : 2 ^ 63 ≤ v) (hheed : q.ignorePoison = false) (hroom : hasRecord q.opcode q.entry = true → ringRoom (ctxOf s cid) = true) :
    waitLook s cid v =
      (let started := takeHead (ctxPut s cid { ctxOf s cid with cmds := { q with tbMet := some s.tb } :: rest }) cid { q with tbMet := some s.tb }
      cmdRetire started.1 cid started.2 0x06) := by
  have hgo : ¬ (hasRecord q.opcode q.entry && !ringRoom (ctxOf s cid)) = true := by
    simpa using hroom
  unfold waitLook
  dsimp only
  rw [hcmds]
  exact (if_neg (Nat.not_lt.mpr hv)).trans ((if_pos ⟨hpoison, by rw [hheed]; rfl⟩).trans (if_neg hgo))

end

/-! ### The start order -/

/-- The head of a start order once its times are marked. -/
def stamped (s : State) (c : Ctx) (q : QCmd) : QCmd :=
  let q1 := if bufferOpen c q then q else { q with tbHead := some (q.tbHead.getD s.tb) }
  if headReady c q1 then { q1 with tbStartable := some (q1.tbStartable.getD s.tb) } else q1

theorem stampHead_of_cons {s : State} {cid : Nat} {q : QCmd} {rest : List QCmd} (hcmds : (ctxOf s cid).cmds = q :: rest) :
    stampHead s cid = ctxPut s cid { ctxOf s cid with cmds := stamped s (ctxOf s cid) q :: rest } := by
  unfold stampHead
  dsimp only
  rw [hcmds]
  rfl

theorem eq_of_stampHead (s : State) (cid : Nat) : stampHead s cid = { s with ctxs := (stampHead s cid).ctxs } := by
  unfold stampHead
  dsimp only
  split <;> rfl

/-- Marking the times of a command changes these alone. -/
theorem eq_of_stamped (s : State) (c : Ctx) (q : QCmd) : stamped s c q = { q with tbHead := (stamped s c q).tbHead, tbStartable := (stamped s c q).tbStartable } := by
  unfold stamped
  dsimp only
  split <;> split <;> rfl

/-- A command other than a LAUNCH as it joins the start order, with its parameters fixed. -/
def validated (s : State) (q : QCmd) : QCmd :=
  { q with phase := .validated, timeoutMs := pget s P.cmdTimeoutMs, holdUs := pget s P.affinityHoldUs, quantumMs := pget s P.preemptQuantumMs }

/-- A ring command without an advance that joins an empty start order becomes its head. -/
theorem slotAccept_of_empty {s : State} {cid : Nat} {q : QCmd} (hop : q.opcode ≠ 1) (hentry : q.entry = none) (hcmds : (ctxOf s cid).cmds = [])
    (hadv : q.advEn = false) : slotAccept s cid q = stampHead (ctxPut s cid { ctxOf s cid with cmds := [validated s q] }) cid := by
  unfold slotAccept
  dsimp only
  rw [if_neg (show ¬ q.entry.isSome = true from by simp [hentry]), if_neg hop, if_neg (fun h => ne_true_of_eq_false hadv h.2), hcmds]
  rfl

theorem cmds_slotAccept_of_empty {s : State} {cid : Nat} {q : QCmd} (hop : q.opcode ≠ 1) (hentry : q.entry = none) (hcmds : (ctxOf s cid).cmds = [])
    (hadv : q.advEn = false) : ∃ u c, (ctxOf (slotAccept s cid q) cid).cmds = [stamped u c (validated s q)] := by
  have hone : (ctxOf (ctxPut s cid { ctxOf s cid with cmds := [validated s q] }) cid).cmds = [validated s q] := by rw [ctxOf_ctxPut_self]
  refine ⟨ctxPut s cid { ctxOf s cid with cmds := [validated s q] }, ctxOf (ctxPut s cid { ctxOf s cid with cmds := [validated s q] }) cid, ?_⟩
  rw [slotAccept_of_empty hop hentry hcmds hadv, stampHead_of_cons hone, ctxOf_ctxPut_self]

/-- Settles O43: a tail by its place behind the last one, a fetch by the slot at HEAD, an awaited word by what its read brings. -/
theorem queueFront : Obligations.QueueFront := by
  refine ⟨fun s fn w hup => ?_, fun s ctx b => ?_, fun s c n => ⟨eq_of_ringAsk s c n, fun _ _ => sent_ringAsk s c n⟩,
    fun s ctx q rest r => ?_,
    fun s cid v q rest hcmds => ⟨waitLook_of_below hcmds, waitLook_of_met hcmds, fun hv hpoison hheed hroom => ?_⟩,
    fun s ctx r h => exec_waits_of_empty h r, fun s cid q hop hentry hcmds hadv => ?_⟩
  · intro cid tail c
    refine ⟨fun hno => ?_, fun hst hfn hstage => ?_⟩
    · rw [exec_hqTailWrite_of_up hup]
      exact congrArg _ (if_pos hno)
    · have hlive := exec_hqTailWrite_of_live hup w (cid := cid) (tail := tail) rfl rfl hst hfn hstage
      refine ⟨fun heq => hlive.trans (congrArg _ (if_pos heq)), fun hne hout => hlive.trans (congrArg _ ((if_neg hne).trans (if_pos hout))), fun hnewer hroom => ?_⟩
      have hne : tail ≠ c.tail := by
        rintro heq
        rw [heq, serialCmp_self] at hnewer
        cases hnewer
      have hin : ¬ (serialCmp c.tail tail ≠ .newer ∨ 2 ^ c.desc.queueLog2 < serialDist c.head tail) := not_or.mpr ⟨not_not_intro hnewer, Nat.not_lt.mpr hroom⟩
      refine ⟨_, hlive.trans (congrArg _ ((if_neg hne).trans (if_neg hin))), ?_, ?_, fun hres => ?_⟩
      · rw [tail_swapInTry, ctxOf_ctxPut_self]
      · exact (eq_of_outsideSwaps (outsideSwaps_swapInTry _ cid) :)
      · have hres' : (ctxOf (ctxPut s cid { c with tail := tail }) cid).resident = true := by rw [ctxOf_ctxPut_self]; exact hres
        rw [swapInTry_of_resident hres']
        exact ⟨ctxOf_ctxPut_self s cid _, fun i hi => ctxOf_ctxPut_ne s cid i _ hi⟩
  · intro cid c on q code rs
    refine ⟨fun hst hup hres hretry hne hdist hhost => ⟨exec_queueFetchDone_failed rfl hst hup hres hhost hretry hne, fun hlen hseq => ?_, fun hlen hshort hseq => ?_⟩,
      fun hretry => exec_queueFetchDone_of_retrying rfl hretry _, fun _ hearly => exec_slotSeqRetry_of_idle rfl fun ⟨_, _, hpast⟩ => ne_true_of_eq_false hearly hpast,
      fun hst hup hres hretry hpast hhost => ⟨fun hne hseq => ?_, fun hne hseq hcode => ?_, exec_slotSeqRetry_failed rfl hst hup hres hhost hretry hpast⟩,
      fun hidle => exec_slotSeqRetry_of_idle rfl fun ⟨hst, hretry, _⟩ => hidle.elim (absurd hst) (ne_true_of_eq_false · hretry),
      fun hst hup hdue hpast => ?_, fun hidle => ?_, fun hdown => exec_front_of_stopped hdown ctx⟩
    · obtain ⟨k, hread, -⟩ := exec_queueFetchDone_slots rfl hst hup hres hhost hretry hne hdist hlen
      have hn : min 16 (serialDist c.head c.tail) ≠ 0 := by omega
      rw [hread, fetchSlots_of_mismatch (ctxOf_ringAsk s c _ _) hst hne _ _ (by rw [take_slot b hn]; exact hseq), tb_ringAsk]
      rfl
    · obtain ⟨k, hread, hk⟩ := exec_queueFetchDone_slots rfl hst hup hres hhost hretry hne hdist hlen
      have hn : min 16 (serialDist c.head c.tail) ≠ 0 := by omega
      rw [hread, hk hshort, fetchSlots_of_match (ctxOf_ringAsk s c _ _) hst hne _ _ (by rw [take_slot b hn]; exact hseq), parseSlot_take b hn, tb_ringAsk]
      exact ⟨fun hcode => congrArg _ (if_neg hcode), fun hcode => congrArg _ (if_pos hcode)⟩
    · rw [exec_slotSeqRetry_data rfl hst hup hres hhost hretry hpast,
        fetchSlots_of_mismatch (ctxOf_ringAsk s c _ _) hst hne _ _ (by rw [take_slot b one_ne_zero]; exact hseq), parseSlot_take b one_ne_zero]
      rfl
    · rw [exec_slotSeqRetry_data rfl hst hup hres hhost hretry hpast,
        fetchSlots_of_match (ctxOf_ringAsk s c _ _) hst hne _ _ (by rw [take_slot b one_ne_zero]; exact hseq), parseSlot_take b one_ne_zero, tb_ringAsk]
      exact congrArg _ (if_pos hcode)
    · exact ⟨_, (exec_headWbMerge rfl).trans (congrArg _ (if_pos ⟨hdue, hst, hup, hpast⟩)), rfl, ctxOf_ctxPut_self s cid _, rfl⟩
    · rw [exec_headWbMerge rfl]
      exact congrArg _ (if_neg fun ⟨hdue, _, _, hpast⟩ => hidle.elim (ne_true_of_eq_false · hdue) (ne_true_of_eq_false · hpast))
  · intro cid c looked hst hcmds hen hunmet hphase hturn hup
    have hawaits : AwaitsAt s cid q rest := ⟨hst, hcmds, hen, hunmet, hphase, hturn, hup⟩
    have hread := exec_waitReadDone_of_polling hawaits r
    have hask := exec_fenceWaitPoll_of_not_polling hawaits
    refine ⟨fun f p hats => ⟨fun hpoll => (hread hpoll).trans (withAts_of_wanted hats _), fun hpoll => (hask hpoll).trans (withAts_of_wanted hats _)⟩,
      exec_waitReadDone_of_not_polling hawaits r, exec_fenceWaitPoll_of_polling hawaits, fun hats hpoll u v hva => ?_, fun hats hpoll => ?_⟩
    · rw [hread hpoll, withAts_of_none hats, hva]
      exact waitRead_cases s u cid q v
    · rw [hask hpoll, withAts_of_none hats]
      refine ⟨fun hva => ?_, fun ga hva => ?_⟩ <;> rw [hva]
      · rfl
      · exact ⟨wordPoll_of_due s cid q rest, fun t => wordPoll_of_early s cid rest⟩
  · exact ⟨_, _, rfl, waitLook_of_poisoned hcmds hv hpoison hheed hroom⟩
  · obtain ⟨u, c, hone⟩ := cmds_slotAccept_of_empty hop hentry hcmds hadv
    refine ⟨_, hone, ?_⟩
    rw [eq_of_stamped]
    refine ⟨rfl, rfl, rfl, rfl, rfl, rfl, ?_⟩
    rw [slotAccept_of_empty hop hentry hcmds hadv]
    exact (eq_of_stampHead _ cid :)

end Sys2Proof
end

section
/-! O44: commands that start, and launches up to the shell that takes them (11 R375 to R380, R383, R388, R389, R404; log 11). -/
namespace Sys2Proof
open Sys2Proof.Machine

/-! ### The head of a start order -/

theorem headReady_iff (c : Ctx) (q : QCmd) : headReady c q = true ↔ c.st = .live ∧ q.phase = .validated ∧ bufferOpen c q = false ∧
    (q.afterPrev = true → prevRetired c q = true) ∧ (q.waitEn = true → q.waitMet = true) ∧ (hasRecord q.opcode q.entry = true → ringRoom c = true) := by
  have himp : ∀ a b : Bool, (!a || b) = true ↔ (a = true → b = true) := by decide
  unfold headReady
  simp only [Bool.and_eq_true, himp, and_assoc, beq_iff_eq, Bool.not_eq_true']

theorem prevRetired_of_ring {c : Ctx} {q : QCmd} (h : q.entry = none) : prevRetired c q = true ↔ ((q.seq + 0xFFFFFFFF) % 2 ^ 32, none) ∉ c.started := by
  unfold prevRetired
  rw [h]
  simp

theorem prevRetired_of_entry {c : Ctx} {q : QCmd} {e : Nat} (h : q.entry = some (e + 1)) : prevRetired c q = true ↔ (q.seq, some e) ∉ c.started := by
  unfold prevRetired
  rw [h]
  simp

/-- Where no buffer is open before a ring command, a running CALL has no entries left to read, or has failed. -/
theorem failed_of_not_bufferOpen {c : Ctx} {q : QCmd} {k : CallRun} (h : bufferOpen c q = false) (hentry : q.entry = none) (hcall : c.call = some k)
    (hnext : k.next < k.count) : k.failed ≠ [] := by
  unfold bufferOpen at h
  rw [hentry, hcall] at h
  simpa [hnext] using h

/-- A head whose start conditions do not hold stays. -/
theorem withHead_of_held {s : State} {cid op : Nat} (f : State → QCmd → State) {q : QCmd} {rest : List QCmd} (hcmds : (ctxOf s cid).cmds = q :: rest)
    (h : headReady (ctxOf s cid) q = false ∨ frontUp s = false) : withHead s cid op f = .next s := by
  unfold withHead
  dsimp only
  rw [hcmds]
  exact if_neg fun ⟨_, hready, hup⟩ => h.elim (ne_true_of_eq_false · hready) (ne_true_of_eq_false · hup)

section
variable (s : State) (cid : Nat) (q : QCmd)

theorem ctxOf_takeHead : ctxOf (takeHead s cid q).1 cid = { ctxOf s cid with
    cmds := (ctxOf s cid).cmds.drop 1
    started := (ctxOf s cid).started ++ [(q.seq, q.entry)]
    crReserved := if hasRecord q.opcode q.entry then (ctxOf s cid).crReserved + 1 else (ctxOf s cid).crReserved
    acct := headTimes s (ctxOf s cid).acct q } := ctxOf_ctxPut_self s cid _

theorem fn_takeHead : (ctxOf (takeHead s cid q).1 cid).fn = (ctxOf s cid).fn := (congrArg Ctx.fn (ctxOf_takeHead s cid q) :)

theorem cmds_takeHead {rest : List QCmd} (hcmds : (ctxOf s cid).cmds = q :: rest) : (ctxOf (takeHead s cid q).1 cid).cmds = rest := by
  rw [ctxOf_takeHead, hcmds]
  rfl

theorem crReserved_takeHead : (ctxOf (takeHead s cid q).1 cid).crReserved = (ctxOf s cid).crReserved + (if hasRecord q.opcode q.entry then 1 else 0) := by
  rw [ctxOf_takeHead]
  dsimp only
  split <;> rfl

/-- Marking the times of a head changes its command alone. -/
theorem ctxOf_stampHead : ctxOf (stampHead s cid) cid = { ctxOf s cid with cmds := (ctxOf (stampHead s cid) cid).cmds } := by
  cases hcmds : (ctxOf s cid).cmds with
  | nil => rw [show stampHead s cid = s from by unfold stampHead; dsimp only; rw [hcmds]]
  | cons q rest => rw [stampHead_of_cons hcmds, ctxOf_ctxPut_self]

theorem length_cmds_stampHead : (ctxOf (stampHead s cid) cid).cmds.length = (ctxOf s cid).cmds.length := by
  cases hcmds : (ctxOf s cid).cmds with
  | nil => rw [show stampHead s cid = s from by unfold stampHead; dsimp only; rw [hcmds], hcmds]
  | cons q rest =>
    rw [stampHead_of_cons hcmds, ctxOf_ctxPut_self]
    rfl

end

/-! ### NOP, CALL and ACCOUNT -/

section
variable {s : State} {ctx : U16} {q : QCmd} {rest : List QCmd} (hcmds : (ctxOf s ctx.toNat).cmds = q :: rest)
include hcmds

theorem exec_startCommands_of_held (h : headReady (ctxOf s ctx.toNat) q = false ∨ frontUp s = false) :
    exec (.cmdNop ctx) s = .next s ∧ exec (.cmdCall ctx) s = .next s ∧ exec (.cmdAccount ctx) s = .next s := by
  change execCmdNop ctx s = _ ∧ execCmdCall ctx s = _ ∧ execCmdAccount ctx s = _
  unfold execCmdNop execCmdCall execCmdAccount
  exact ⟨withHead_of_held _ hcmds h, withHead_of_held _ hcmds h, withHead_of_held _ hcmds h⟩

variable (hready : headReady (ctxOf s ctx.toNat) q = true) (hup : frontUp s = true)
include hready hup

theorem exec_cmdNop_of_ready (hop : q.opcode = 0) :
    exec (.cmdNop ctx) s = .next (stampHead (cmdRetire (takeHead s ctx.toNat q).1 ctx.toNat (takeHead s ctx.toNat q).2 0) ctx.toNat) := by
  change execCmdNop ctx s = _
  unfold execCmdNop
  exact withHead_of_ready _ hcmds hop hready hup

theorem exec_cmdCall_of_ready (hop : q.opcode = 2) :
    exec (.cmdCall ctx) s = .next (stampHead (callStart (takeHead s ctx.toNat q).1 ctx.toNat (takeHead s ctx.toNat q).2) ctx.toNat) := by
  change execCmdCall ctx s = _
  unfold execCmdCall
  exact withHead_of_ready _ hcmds hop hready hup

theorem exec_cmdAccount_of_ready (hop : q.opcode = 0x11) : exec (.cmdAccount ctx) s = .next (stampHead
    (let u := (takeHead s ctx.toNat q).1
    let k := (takeHead s ctx.toNat q).2
    if (ctxOf u (q.pl 447 432)).st = .free ∨ (ctxOf u (q.pl 447 432)).fn ≠ (ctxOf s ctx.toNat).fn then privEnd u ctx.toNat k 0x0A2F
    else privEnd (emit u (.hostWrite (q.pl 511 448) (accountBytes u (q.pl 447 432)))) ctx.toNat k 0) ctx.toNat) := by
  change execCmdAccount ctx s = _
  unfold execCmdAccount
  rw [withHead_of_ready _ hcmds hop hready hup]
  dsimp only
  rw [fn_takeHead, pl_takeHead, pl_takeHead]

end

/-- The buffer that a CALL with a reserved ring slot opens, at entry 0. -/
def callOpened (q : QCmd) (n : Nat) : CallRun :=
  { seq := q.seq, crSlot := n, advEn := q.advEn, advIndex := q.advIndex, advValue := q.advValue
    bufferVa := q.pl 511 461 * 64, count := q.pl 460 448 + 1 }

section
variable (s : State) (cid : Nat) (q : QCmd)

/-- A CALL that starts opens its buffer; its ring slot and the start order stand. -/
theorem ctxOf_callStart : ctxOf (callStart s cid q) cid =
    { ctxOf s cid with callsOpen := (ctxOf s cid).callsOpen ++ (ctxOf s cid).call.toList, call := some (callOpened q q.crSlot) } := ctxOf_ctxPut_self s cid _

/-- The state once the CALL at the head of a start order has started. -/
def callStarted : State := stampHead (callStart (takeHead s cid q).1 cid (takeHead s cid q).2) cid

theorem eq_of_callStarted : callStarted s cid q = { s with ctxs := (callStarted s cid q).ctxs } := by
  have hstart : callStart (takeHead s cid q).1 cid (takeHead s cid q).2 = { s with ctxs := (callStart (takeHead s cid q).1 cid (takeHead s cid q).2).ctxs } := rfl
  exact (eq_of_stampHead _ cid).trans (congrArg (fun u : State => { u with ctxs := (callStarted s cid q).ctxs }) hstart)

theorem call_callStarted : (ctxOf (callStarted s cid q) cid).call = some (callOpened q (ctxOf s cid).crReserved) := by
  have hstart := congrArg Ctx.call (ctxOf_callStart (takeHead s cid q).1 cid (takeHead s cid q).2)
  exact (congrArg Ctx.call (ctxOf_stampHead (callStart (takeHead s cid q).1 cid (takeHead s cid q).2) cid) :).trans hstart

theorem crReserved_callStarted : (ctxOf (callStarted s cid q) cid).crReserved = (ctxOf s cid).crReserved + (if hasRecord q.opcode q.entry then 1 else 0) := by
  have hstart := congrArg Ctx.crReserved (ctxOf_callStart (takeHead s cid q).1 cid (takeHead s cid q).2)
  exact (congrArg Ctx.crReserved (ctxOf_stampHead (callStart (takeHead s cid q).1 cid (takeHead s cid q).2) cid) :).trans (hstart.trans (crReserved_takeHead s cid q))

theorem length_cmds_callStarted {rest : List QCmd} (hcmds : (ctxOf s cid).cmds = q :: rest) : (ctxOf (callStarted s cid q) cid).cmds.length = rest.length := by
  have hstart := congrArg Ctx.cmds (ctxOf_callStart (takeHead s cid q).1 cid (takeHead s cid q).2)
  unfold callStarted
  rw [length_cmds_stampHead, hstart]
  exact congrArg List.length (cmds_takeHead s cid q hcmds)

end

/-- A privileged command that ends while the front end runs writes its result word, and then its record. -/
theorem privEnd_of_up {s : State} (hentry : s.start.entry = false) (hrel : s.start.releasesStopped = false) (cid : Nat) (q : QCmd) (code : Nat) :
    privEnd s cid q code = cmdRetire (ctxPut (emit s (.hostWrite (bitsOf q.payload 63 0) (leBytes 8 (code + q.seq * 2 ^ 32)))) cid
      { ctxOf s cid with priv := (ctxOf s cid).priv.filter (fun p => p.cmd.seq != q.seq) }) cid q (if code = 0 then 0 else 4) := by
  have hopen : ¬ (s.start.entry || s.start.releasesStopped) = true := by simp [hentry, hrel]
  unfold privEnd
  rw [if_neg hopen]

/-! ### Launch blocks and pins -/

section
variable {s : State} {ctx : U16} {q : QCmd}

/-- A LAUNCH asks for its launch block where its address translates. -/
def blockAsk (s : State) (cid : Nat) (q : QCmd) : Option Nat → Ans
  | some ga => .next (askRead (ctxPut s cid { ctxOf s cid with
      cmds := (ctxOf s cid).cmds.map (fun x => if x.seq = q.seq ∧ x.entry = q.entry then { x with phase := .blockRead } else x) })
      (place s 2352 (vaShell s cid (q.pl 511 461 * 64)) ga 64 (some cid)) 64)
  | none => .next (cmdRefuse s cid q 0x0A24)

theorem exec_cmdLaunch_of_fetched (hfind : (ctxOf s ctx.toNat).cmds.find? (fun q => q.opcode == 1 && q.phase == .fetched) = some q)
    (hst : (ctxOf s ctx.toNat).st = .live) (hup : frontUp s = true) : exec (.cmdLaunch ctx) s =
    withAts s ctx.toNat .read (q.pl 511 461 * 64) 64 (blockAsk s ctx.toNat q (translate s ctx.toNat (q.pl 511 461 * 64) .read)) := by
  change execCmdLaunch ctx s = _
  unfold execCmdLaunch
  dsimp only
  rw [hfind]
  exact if_pos ⟨hst, hup⟩

theorem exec_cmdLaunch_of_none (hfind : (ctxOf s ctx.toNat).cmds.find? (fun q => q.opcode == 1 && q.phase == .fetched) = none) :
    exec (.cmdLaunch ctx) s = .next s := by
  change execCmdLaunch ctx s = _
  unfold execCmdLaunch
  dsimp only
  rw [hfind]

theorem exec_launchBlockReadDone_of_none (hfind : (ctxOf s ctx.toNat).cmds.find? (fun q => q.opcode == 1 && q.phase == .blockRead) = none)
    (block pins : ReadResult) : exec (.launchBlockReadDone ctx block pins) s = .next s := by
  change execLaunchBlockReadDone ctx block pins s = _
  unfold execLaunchBlockReadDone
  dsimp only
  rw [hfind]

/-- The pin list of a launch as it is read, and what becomes of the LAUNCH with it. -/
def pinsOf (n : Nat) (b : Bytes) : List (Nat × Nat) :=
  (leWords 8 n b).map (fun w => (bitsOf w 63 32 + (if bitsOf w 31 12 = 0 then 0 else 2 ^ 32), bitsOf w 11 0))

def pinsRead (s : State) (cid : Nat) (q : QCmd) (l : Launch) (n : Nat) : State × VaRead → Ans
  | (_, .waits) => .next s
  | (w, .ok b) => .next (if (ctxOf w cid).st ≠ .live then w else launchDecide w cid q { l with pins := pinsOf n b })
  | (w, _) => .next (if (ctxOf w cid).st ≠ .live then w else cmdRefuse w cid q 0x0A24)

/-- What the read of a launch block brings: its pin list is read where the context lives on. -/
theorem exec_launchBlockReadDone_of_read (hfind : (ctxOf s ctx.toNat).cmds.find? (fun q => q.opcode == 1 && q.phase == .blockRead) = some q)
    (hst : (ctxOf s ctx.toNat).st = .live) (hup : frontUp s = true) (hats : atsWanted s ctx.toNat .read 2 (q.pl 511 461 * 64) 64 = none)
    {block pins : ReadResult} {u : State} {v : VaRead} (hread : vaRead s false ctx.toNat (q.pl 511 461 * 64) 64 block = (u, v)) :
    (v = .waits → exec (.launchBlockReadDone ctx block pins) s = .next s) ∧
    ((v = .fault ∨ ∃ st, v = .refused st) → exec (.launchBlockReadDone ctx block pins) s =
      .next (if (ctxOf u ctx.toNat).st = .live then cmdRefuse u ctx.toNat q 0x0A24 else u)) ∧
    (∀ b, v = .ok b → ((ctxOf u ctx.toNat).st ≠ .live → exec (.launchBlockReadDone ctx block pins) s = .next u) ∧
      ((ctxOf u ctx.toNat).st = .live → ∀ l n, parseLaunch b (q.pl 319 288) = l → (if l.pinList % 8 ≠ 0 then 0 else l.pinCount) = n →
        exec (.launchBlockReadDone ctx block pins) s =
          withAts s ctx.toNat .read l.pinList (8 * n) (pinsRead s ctx.toNat q l n (vaRead u true ctx.toNat l.pinList (8 * n) pins)))) := by
  have hgo : exec (.launchBlockReadDone ctx block pins) s = execLaunchBlockReadDone ctx block pins s := rfl
  unfold execLaunchBlockReadDone at hgo
  dsimp only at hgo
  rw [hfind] at hgo
  dsimp only at hgo
  rw [if_neg (by simp [hst, hup]), withAts_of_none hats, hread] at hgo
  refine ⟨fun hv => ?_, fun hv => ?_, fun b hv => ⟨fun hlost => ?_, fun hlive l n hl hn => ?_⟩⟩
  · subst hv
    exact hgo
  · rw [← ite_not]
    rcases hv with rfl | ⟨st, rfl⟩ <;> exact hgo
  · subst hv
    exact hgo.trans (if_pos hlost)
  · subst hv
    dsimp only at hgo
    rw [if_neg (not_not_intro hlive), hl, hn] at hgo
    exact hgo

end

/-- Where no byte is read, no page is wanted and nothing can fail. -/
theorem atsWanted_zero (s : State) (cid : Nat) (a : Acc) (fuel va : Nat) : atsWanted s cid a fuel va 0 = none := by
  cases fuel <;> rfl

theorem vaRead_zero (s : State) (ask : Bool) (cid va : Nat) (r : ReadResult) : vaRead s ask cid va 0 r = (s, .ok []) := rfl

/-- What the read of the pins brings to a context that lives on. -/
theorem pinsRead_cases (s w : State) (cid : Nat) (q : QCmd) (l : Launch) (n : Nat) (x : VaRead) (hst : (ctxOf w cid).st = .live) :
    ((x = .fault ∨ ∃ st, x = .refused st) → pinsRead s cid q l n (w, x) = .next (cmdRefuse w cid q 0x0A24)) ∧
    (∀ b, x = .ok b → pinsRead s cid q l n (w, x) = .next (launchDecide w cid q { l with pins := pinsOf n b })) := by
  refine ⟨fun hx => ?_, fun b hx => ?_⟩
  · rcases hx with rfl | ⟨st, rfl⟩ <;> exact congrArg _ (if_neg (not_not_intro hst))
  · subst hx
    exact congrArg _ (if_neg (not_not_intro hst))

/-! ### The decision on a LAUNCH -/

section
variable {s : State} {cid : Nat} {q : QCmd} {l : Launch}

theorem launchDecide_of_refused (hcode : launchCode s (ctxOf s cid) q l ≠ 0) : launchDecide s cid q l = cmdRefuse s cid q (launchCode s (ctxOf s cid) q l) :=
  if_pos hcode

theorem launchDecide_of_taken (hcode : launchCode s (ctxOf s cid) q l = 0) (hadv : q.advEn = false) : launchDecide s cid q l =
    stampHead (ctxPut s cid { ctxOf s cid with
      cmds := (ctxOf s cid).cmds.map (fun x => if x.seq = q.seq ∧ x.entry = q.entry then { q with
        phase := .validated, launch := l, timeoutMs := if q.pl 287 268 = 0 then pget s P.cmdTimeoutMs else q.pl 287 268
        holdUs := pget s P.affinityHoldUs, quantumMs := pget s P.preemptQuantumMs } else x) }) cid := by
  unfold launchDecide
  dsimp only
  rw [if_neg (not_not_intro hcode), if_neg (ne_true_of_eq_false hadv)]

end

/-! ### The shell that takes a LAUNCH -/

/-- A LAUNCH at the head of a start order goes to the shell chosen for it, once waiting contexts and shells have tried again. -/
theorem exec_commandStart_of_launch {s u : State} {ctx : U16} {q : QCmd} {rest : List QCmd}
    (hu : stampHead (selectAll (swapWaiting s) (shellsHolding (swapWaiting s))) ctx.toNat = u) (hcmds : (ctxOf u ctx.toNat).cmds = q :: rest)
    (hop : q.opcode = 1) (hup : frontUp u = true) :
    (startableLaunch (ctxOf u ctx.toNat) = none → exec (.commandStart ctx) s = .next u) ∧
    (∀ l, startableLaunch (ctxOf u ctx.toNat) = some l →
      (pickShell u ctx.toNat l.launch = none →
        exec (.commandStart ctx) s = .next (((List.range 32).filter (fun i => bitOf l.launch.mask i)).foldl nextWarm u)) ∧
      ∀ sl, pickShell u ctx.toNat l.launch = some sl → exec (.commandStart ctx) s = .next (shellSelect u sl)) := by
  have hgo : exec (.commandStart ctx) s = execCommandStart ctx s := rfl
  unfold execCommandStart at hgo
  dsimp only at hgo
  rw [hu, hcmds] at hgo
  dsimp only at hgo
  rw [if_neg (by simp [hup]), if_pos hop] at hgo
  refine ⟨fun hnone => ?_, fun l hl => ⟨fun hpick => ?_, fun sl hpick => ?_⟩⟩
  · rw [hnone] at hgo
    exact hgo
  · rw [hl] at hgo
    dsimp only at hgo
    rw [hpick] at hgo
    exact hgo
  · rw [hl] at hgo
    dsimp only at hgo
    rw [hpick] at hgo
    exact hgo

/-- The state but for its range caches. -/
def outsideCaches (s : State) : State := { s with rangeCaches := [] }

theorem outsideCaches_rangeIn (s : State) (die cid idx : Nat) : outsideCaches (rangeIn s die cid idx) = outsideCaches s := by
  unfold rangeIn
  dsimp only
  split <;> rfl

theorem outsideCaches_warmPins (s : State) (slot cid : Nat) (l : Launch) : outsideCaches (warmPins s slot cid l) = outsideCaches s := by
  unfold warmPins
  exact foldl_keeps outsideCaches (fun s (p : Nat × Nat) => foldl_keeps outsideCaches (fun s d => outsideCaches_rangeIn s d cid p.2) _ s) _ s

theorem outsideCaches_nextWarm (s : State) (slot : Nat) : outsideCaches (nextWarm s slot) = outsideCaches s := by
  unfold nextWarm
  split
  · rfl
  · split
    · rfl
    · split
      · rfl
      · split
        · exact outsideCaches_warmPins _ _ _ _
        · rfl

/-- A shell that prefers a LAUNCH to every other candidate, and is chosen for it, takes it. -/
theorem shellSelect_of_launch {s : State} {cid sl : Nat} {q : QCmd} {k : Cand} (hhold : s.start.hold = false) (hup : frontUp s = true)
    (htake : shellCanTake (shellOf s sl) = true) (hstart : startableLaunch (ctxOf s cid) = some q) (hpick : pickShell s cid q.launch = some sl)
    (hcand : pickCand s sl = some k) (hctx : k.ctx = cid) (hfresh : k.preempted = false) : shellSelect s sl = launchOn s cid q sl := by
  unfold shellSelect
  dsimp only
  rw [if_neg (by simp [hhold, hup, htake]), hcand]
  dsimp only
  rw [if_neg (ne_true_of_eq_false hfresh), hctx, hstart]
  exact if_pos hpick

/-- Settles O44: a head by its start conditions, a LAUNCH by what its two reads bring and by the shell that can take it. -/
theorem commandsStart : Obligations.CommandsStart := by
  refine ⟨fun s ctx q rest => ?_, fun s ctx q rest hcmds => exec_startCommands_of_held hcmds, fun s cid q rest hcmds => ?_, fun c q hready => ?_,
    fun s cid q code _ hentry hrel => privEnd_of_up hentry hrel cid q code, fun s ctx q => ?_, fun s ctx => exec_cmdLaunch_of_none, fun s ctx q block pins => ?_,
    fun s cid q l => ⟨launchDecide_of_refused, launchDecide_of_taken⟩, fun s ctx hfind => exec_launchBlockReadDone_of_none hfind, fun s ctx q l rest => ?_,
    fun s sl => (congrArg (fun u : State => { u with rangeCaches := (nextWarm s sl).rangeCaches }) (outsideCaches_nextWarm s sl) :),
    fun s cid q sl hhold hup htake hstart hpick ⟨k, hcand, hctx, hfresh⟩ => shellSelect_of_launch hhold hup htake hstart hpick hcand hctx hfresh⟩
  · intro cid c hcmds hready hup u k
    refine ⟨exec_cmdNop_of_ready hcmds hready hup, fun hop => ?_, fun hop => ?_⟩
    · refine ⟨callStarted s cid q, exec_cmdCall_of_ready hcmds hready hup hop, eq_of_callStarted s cid q, call_callStarted s cid q, fun hentry => ?_,
        length_cmds_callStarted s cid q hcmds⟩
      have hrecord : hasRecord q.opcode q.entry = true := by rw [hop, hentry]; rfl
      rw [crReserved_callStarted, if_pos hrecord]
    · rw [exec_cmdAccount_of_ready hcmds hready hup hop]
      exact ⟨fun hstrange => congrArg (Host.Outcome.next <| stampHead · _) (if_pos hstrange),
        fun hst hfn => congrArg (Host.Outcome.next <| stampHead · _) (if_neg (not_or.mpr ⟨hst, not_not_intro hfn⟩))⟩
  · refine ⟨cmds_takeHead s cid q hcmds, rfl, crReserved_takeHead s cid q, ?_, rfl, fun i hi => ctxOf_ctxPut_ne s cid i _ hi⟩
    rw [ctxOf_takeHead]
  · obtain ⟨hst, hphase, hbuffer, hprev, hwait, hroom⟩ := (headReady_iff c q).mp hready
    exact ⟨hst, hphase, hwait, hroom, fun hafter hentry => (prevRetired_of_ring hentry).mp (hprev hafter),
      fun e hafter hentry => (prevRetired_of_entry hentry).mp (hprev hafter), fun k => failed_of_not_bufferOpen hbuffer⟩
  · intro cid c hst hup hfind
    rw [exec_cmdLaunch_of_fetched hfind hst hup]
    refine ⟨fun f p hats => withAts_of_wanted hats _, fun hats => ?_⟩
    rw [withAts_of_none hats]
    refine ⟨fun hva => ?_, fun ga hva => ?_⟩ <;> rw [hva] <;> rfl
  · intro cid c hst hup hfind hats u v hread
    obtain ⟨hwaits, hrefused, hblock⟩ := exec_launchBlockReadDone_of_read (pins := pins) hfind hst hup hats hread
    refine ⟨hwaits, hrefused, fun b hv => ⟨(hblock b hv).1, fun hlive => ?_⟩⟩
    intro l n
    rw [(hblock b hv).2 hlive l n rfl rfl]
    refine ⟨fun hn => ?_, fun w x hpats hpins hlive' => ?_⟩
    · rw [hn, withAts_of_none (atsWanted_zero s cid .read _ _), vaRead_zero]
      exact (pinsRead_cases s u cid q l 0 _ hlive).2 [] rfl
    · rw [withAts_of_none hpats, hpins]
      exact pinsRead_cases s w cid q l n x hlive'
  · intro u hcmds hop hup
    obtain ⟨hnone, hsome⟩ := exec_commandStart_of_launch rfl hcmds hop hup
    exact ⟨hnone, hsome l⟩

end Sys2Proof
end

section
/-! O45: prefills, pre-emption, timeouts and the release of jobs (11 R385, R387, R391, R392, R395, R398, R402, 17 R552; logs 11 and 28). -/
namespace Sys2Proof
open Sys2Proof.Machine

/-! ### Prefills -/

/-- The prefill of an own seat of a loading job is to be made: the seat is scrubbed, and nothing of the shell is under way at a lender. -/
structure PrefillDue (s : State) (n l : Nat) (j : Job) : Prop where
  job : (shellOf s n).job = some j
  loading : j.phase = .loading
  seat : l < (shellOf s n).rig.seats.length
  quiet : remoteBusy (shellOf s n) = false
  missing : j.prefilled.contains l = false
  clean : (shellOf s n).scrubbing.contains ((shellOf s n).rig.seats.getD l 0) = false
  bytes : j.launch.prefillBytes ≠ 0

theorem PrefillDue.not_idle {s : State} {n l : Nat} {j : Job} (h : PrefillDue s n l j) :
    ¬ (j.phase ≠ .loading ∨ l ≥ shellSeats (shellOf s n) ∨ remoteBusy (shellOf s n) = true ∨ j.prefilled.contains l = true ∨
      (shellOf s n).scrubbing.contains ((shellOf s n).rig.seats.getD l 0) = true ∨ j.launch.prefillBytes = 0) := by
  rintro (hphase | hseat | hbusy | hdone | hscrub | hnone)
  · exact hphase h.loading
  · exact Nat.not_le.mpr (Nat.lt_of_lt_of_le h.seat (Nat.le_add_right _ _)) hseat
  · exact ne_true_of_eq_false h.quiet hbusy
  · exact ne_true_of_eq_false h.missing hdone
  · exact ne_true_of_eq_false h.clean hscrub
  · exact h.bytes hnone

/-- What the read of the source of a prefill brings to its seat. -/
def prefillRead (s : State) (n l : Nat) (j : Job) : State × VaRead → Ans
  | (_, .waits) => .next s
  | (u, .fault) => .next (jobFault u n 2 (0x01 * 2 ^ 24))
  | (u, .refused st) => .next (jobFault u n 2 ((0x20 + st) * 2 ^ 24))
  | (u, .ok b) =>
    let st := lseatStatus u n (shellOf s n).windows l (32 * j.launch.prefillOffset) b.length
    let t := lseatWrite u n none .agent l (32 * j.launch.prefillOffset) b
    if (shellOf u n).job ≠ some j then .next u
    else if st ≠ stOk then .next (jobFault u n 2 ((0x20 + st) * 2 ^ 24))
    else .next (jobTryStart (shellPut t n { shellOf t n with job := some { j with prefilled := sAdd j.prefilled l } }) n)

section
variable {s : State} {n : Slot} {l : U16} {r : ReadResult}

theorem exec_prefillDone_of_idle (h : ∀ j, (shellOf s n.val).job = some j → j.phase ≠ .loading) : exec (.prefillDone n l r) s = .next s := by
  change execPrefillDone n l r s = _
  unfold execPrefillDone
  dsimp only
  split
  · rfl
  · next j hj => exact if_pos (.inl (h j hj))

variable {j : Job} (h : PrefillDue s n.val l.toNat j)
include h

/-- A prefill goes by what stops the walk over its source. -/
theorem exec_prefillDone_of_due {stop : Option XStop} (hstop : spanStop s j.ctx j.launch.pins (j.launch.prefillBytes / 4096 + 2)
      (j.launch.prefillSrc + l.toNat * j.launch.prefillStride) j.launch.prefillBytes = stop) :
    (∀ reason a va, stop = some (.fault reason a va) → exec (.prefillDone n l r) s =
      if reason ≤ 4 then .next (prefillFault (if reason = 4 then atsForget s j.ctx va else s) n.val l.toNat j.ctx va reason)
      else .next (jobFault s n.val 2 (reason * 2 ^ 24))) ∧
    (∀ f p va, stop = some (.ats f p va) → exec (.prefillDone n l r) s = .next (emit s (.atsRequest f p))) ∧
    (stop = none → exec (.prefillDone n l r) s = prefillRead s n.val l.toNat j
      (vaRead s true j.ctx (j.launch.prefillSrc + l.toNat * j.launch.prefillStride) j.launch.prefillBytes r)) := by
  have hgo : exec (.prefillDone n l r) s = execPrefillDone n l r s := rfl
  unfold execPrefillDone at hgo
  dsimp only at hgo
  rw [h.job] at hgo
  dsimp only at hgo
  rw [if_neg h.not_idle, hstop] at hgo
  refine ⟨fun reason a va hs => ?_, fun f p va hs => ?_, fun hs => ?_⟩ <;> rw [hs] at hgo <;> refine hgo.trans ?_
  · rfl
  · rfl
  · dsimp only
    simp only [if_pos h.seat]
    rfl

end

/-- A prefill whose bytes are read goes by the answer of its seat. -/
theorem prefillRead_ok {s u : State} {n l : Nat} {j : Job} {b : Bytes} (hjob : (shellOf u n).job = some j) :
    let st := lseatStatus u n (shellOf s n).windows l (32 * j.launch.prefillOffset) b.length
    let t := lseatWrite u n none .agent l (32 * j.launch.prefillOffset) b
    (st ≠ stOk → prefillRead s n l j (u, .ok b) = .next (jobFault u n 2 ((0x20 + st) * 2 ^ 24))) ∧
    (st = stOk → prefillRead s n l j (u, .ok b) =
      .next (jobTryStart (shellPut t n { shellOf t n with job := some { j with prefilled := sAdd j.prefilled l } }) n)) :=
  ⟨fun hst => (if_neg (not_not_intro hjob)).trans (if_pos hst), fun hst => (if_neg (not_not_intro hjob)).trans (if_neg (not_not_intro hst))⟩

/-! ### Pre-emption -/

section
variable {s : State} {n : Slot} {j : Job} (hjob : (shellOf s n.val).job = some j)
include hjob

theorem exec_preemptQuantumExpiry_of_early
    (h : tbPast (j.runNs + (s.tb - j.tbSpan)) 0 (j.quantumMs * 1000000) = false ∨ (shellCands s n.val).any (fun k => !k.preempted && k.prio > j.priority) = false) :
    exec (.preemptQuantumExpiry n) s = .next s := by
  change execPreemptQuantumExpiry n s = _
  unfold execPreemptQuantumExpiry
  dsimp only
  rw [hjob]
  exact if_neg fun ⟨_, hquantum, hhigher, _, _⟩ => h.elim (ne_true_of_eq_false · hquantum) (ne_true_of_eq_false · hhigher)

variable (hphase : j.phase = .running) (hat : (shellOf s n.val).preemptAt = none) (hlatch : (shellOf s n.val).freezeLatch = false)
include hphase hat hlatch

/-- A job that has run its quantum is latched where a free image slot exists, and counted otherwise. -/
theorem exec_preemptQuantumExpiry_of_due (hquantum : tbPast (j.runNs + (s.tb - j.tbSpan)) 0 (j.quantumMs * 1000000) = true)
    (hhigher : (shellCands s n.val).any (fun k => !k.preempted && k.prio > j.priority) = true) :
    (freeImageSlot s n.val = none → exec (.preemptQuantumExpiry n) s = .next (pinc s P.preemptNoArea)) ∧
    (freeImageSlot s n.val ≠ none → exec (.preemptQuantumExpiry n) s = .next (preemptTry (preemptLatch s n.val) n.val)) := by
  have hgo : exec (.preemptQuantumExpiry n) s = execPreemptQuantumExpiry n s := rfl
  unfold execPreemptQuantumExpiry at hgo
  dsimp only at hgo
  rw [hjob] at hgo
  dsimp only at hgo
  rw [if_pos ⟨hphase, hquantum, hhigher, hat, by rw [hlatch]; rfl⟩] at hgo
  refine ⟨fun hnone => ?_, fun hsome => ?_⟩
  · rw [hnone] at hgo
    exact hgo
  · obtain ⟨k, hk⟩ := Option.ne_none_iff_exists'.mp hsome
    rw [hk] at hgo
    exact hgo

end

/-! ### PREEMPT_CTL -/

section
variable {s : State} {n : Nat}

theorem preemptCtlWrite_of_checking (h : pget s (P.rigStatus n) = 1) (v : Nat) : preemptCtlWrite s n v = (s, 0x0114) := if_pos h

variable (hchecked : pget s (P.rigStatus n) ≠ 1)
include hchecked

theorem preemptCtlWrite_of_free (h : (shellOf s n).st = .free) (v : Nat) : preemptCtlWrite s n v = (s, 0x0101) := (if_neg hchecked).trans (if_pos h)

theorem preemptCtlWrite_of_resetting (h : (shellOf s n).st = .resetting ∨ (shellOf s n).st = .releasing) (v : Nat) : preemptCtlWrite s n v = (s, 0x0102) := by
  have hused : (shellOf s n).st ≠ .free := fun hfree => by
    rw [hfree] at h
    rcases h with h | h <;> cases h
  exact (if_neg hchecked).trans ((if_neg hused).trans (if_pos h))

variable (hfree : (shellOf s n).st ≠ .free) (hreset : (shellOf s n).st ≠ .resetting) (hrel : (shellOf s n).st ≠ .releasing)
include hfree hreset hrel

theorem preemptCtlWrite_lift :
    preemptCtlWrite s n 2 = (shellSelect (pset (shellPut s n { shellOf s n with preemptHold := false }) (P.preemptCtl n) 2) n, 0) :=
  (if_neg hchecked).trans ((if_neg hfree).trans ((if_neg (not_or.mpr ⟨hreset, hrel⟩)).trans (if_neg (by decide))))

/-- The shell under the hold of PREEMPT_CTL := 1. -/
theorem preemptCtlWrite_hold {held : State} (hheld : pset (shellPut s n { shellOf s n with preemptHold := true }) (P.preemptCtl n) 1 = held) :
    ((shellOf s n).job = none → preemptCtlWrite s n 1 = (held, 0)) ∧
    (∀ j, (shellOf s n).job = some j → j.phase = .running → (shellOf s n).preemptAt = none → imageFits s n = true → (shellOf s n).freezeLatch = false →
      preemptCtlWrite s n 1 = (preemptTry (preemptLatch held n) n, 0)) := by
  unfold preemptCtlWrite
  dsimp only
  rw [if_neg hchecked, if_neg hfree, if_neg (not_or.mpr ⟨hreset, hrel⟩), if_pos rfl, hheld]
  refine ⟨fun hnone => ?_, fun j hjob hphase hat hfits hlatch => ?_⟩
  · rw [hnone]
  · rw [hjob]
    exact if_pos ⟨hphase, hat, hfits, by rw [hlatch]; rfl⟩

end

/-! ### Saves and restores -/

section
variable {s : State} {n : Slot} {j : Job} (hjob : (shellOf s n.val).job = some j)
include hjob

/-- A save, a restore and a release hold end in the phase of the job that they belong to alone. -/
theorem exec_phaseEnds_of_other : (j.phase ≠ .saving → exec (.preemptSaveDone n) s = .next s) ∧
    (j.phase ≠ .restoring → exec (.preemptRestoreDone n) s = .next s) ∧ (j.phase ≠ .holding → exec (.releaseHoldExpiry n) s = .next s) := by
  change (_ → execPreemptSaveDone n s = _) ∧ (_ → execPreemptRestoreDone n s = _) ∧ (_ → execReleaseHoldExpiry n s = _)
  unfold execPreemptSaveDone execPreemptRestoreDone execReleaseHoldExpiry
  dsimp only
  rw [hjob]
  exact ⟨fun h => if_pos (.inl h), fun h => if_pos (.inl h), fun h => if_pos (.inl h)⟩

theorem exec_preemptSaveDone_of_undrained (h : (shellOf s n.val).rig.seats.all (fun i => seatDrained (seatOf s i)) = false) :
    exec (.preemptSaveDone n) s = .next s := by
  change execPreemptSaveDone n s = _
  unfold execPreemptSaveDone
  dsimp only
  rw [hjob]
  exact if_pos (.inr (.inr (by rw [h]; rfl)))

end

/-- The image of a job whose seats have drained. -/
def imageSaved (s : State) (n : Nat) (j : Job) : State :=
  let s0 := (shellOf s n).rig.seats.foldl seatFlush s
  imageSave s0 n j.imageSlot (jobSection s0 n)

/-- A save is counted, also in the account of the job's context. -/
def preemptCounted (s : State) (cid : Nat) : State :=
  pinc (ctxPut s cid { ctxOf s cid with acct := { (ctxOf s cid).acct with preemptions := (ctxOf s cid).acct.preemptions + 1 } }) P.preemptions

/-- A job as it stands beside its shell, with its image of so many seats. -/
def jobParked (tb seats : Nat) (j : Job) : Job := { j with phase := .preempted, imageSeats := seats, tbReady := tb, heldNs := j.heldNs, tbHeld := none }

/-- A shell whose job has been saved into its image slot. -/
def preemptSaved (s : State) (n : Nat) (j : Job) : State :=
  let v := preemptCounted (imageSaved s n j) j.ctx
  shellPut v n { shellOf v n with
    job := none, preempted := (shellOf v n).preempted ++ [jobParked s.tb (shellSeats (shellOf s n)) j], lastCtx := some j.ctx, preemptAt := none }

theorem exec_preemptSaveDone_of_drained {s : State} {n : Slot} {j : Job} (hjob : (shellOf s n.val).job = some j) (hphase : j.phase = .saving)
    (hlocal : remoteBusy (shellOf s n.val) = false) (h : (shellOf s n.val).rig.seats.all (fun i => seatDrained (seatOf s i)) = true) :
    exec (.preemptSaveDone n) s = .next (shellSelect (jobLeave (preemptSaved s n.val j) n.val) n.val) := by
  change execPreemptSaveDone n s = _
  unfold execPreemptSaveDone
  dsimp only
  rw [hjob]
  dsimp only
  rw [if_neg (by simp [hphase, hlocal, h])]
  simp only [preemptSaved, preemptCounted, imageSaved, jobParked]

/-- The shell after a save: free of the job, which stands among the pre-empted ones. -/
theorem shellOf_preemptSaved (s : State) (n : Nat) (j : Job) : shellOf (preemptSaved s n j) n = { shellOf (imageSaved s n j) n with
    job := none, preempted := (shellOf (imageSaved s n j) n).preempted ++ [jobParked s.tb (shellSeats (shellOf s n)) j], lastCtx := some j.ctx, preemptAt := none } := by
  unfold preemptSaved
  dsimp only
  rw [shellOf_shellPut_self]
  unfold preemptCounted
  rw [shellOf_of_pinc, shellOf_of_ctxPut]

theorem preemptions_preemptSaved (s : State) (n : Nat) (j : Job) : pget (preemptSaved s n j) P.preemptions = satInc32 (pget (imageSaved s n j) P.preemptions) := by
  unfold preemptSaved
  dsimp only
  rw [pget_of_shellPut]
  unfold preemptCounted
  rw [pget_pinc_self, pget_of_ctxPut]

theorem imageOf_preemptSaved (s : State) (n : Nat) (j : Job) (key : Nat) : imageOf (preemptSaved s n j) key = imageOf (imageSaved s n j) key := by
  unfold preemptSaved
  dsimp only
  rw [imageOf_of_shellPut]
  unfold preemptCounted
  rw [imageOf_of_pinc, imageOf_of_ctxPut]

theorem exec_preemptRestoreDone_of_restoring {s : State} {n : Slot} {j : Job} (hjob : (shellOf s n.val).job = some j) (hphase : j.phase = .restoring)
    (hlocal : remoteBusy (shellOf s n.val) = false) : exec (.preemptRestoreDone n) s = .next
    (let u := windowsLocal (imageRestore (latchesRebase s n.val (maxCatch s n.val)) n.val j.imageSlot j.ended) n.val
    shellPut u n.val { shellOf u n.val with job := some { j with phase := .running, offNs := j.offNs + (s.tb - j.tbSpan), tbSpan := s.tb } }) := by
  change execPreemptRestoreDone n s = _
  unfold execPreemptRestoreDone
  dsimp only
  rw [hjob]
  exact if_neg (by simp [hphase, hlocal])

/-! ### Timeouts -/

/-- A context is lost at a timeout, and the shells that hold pre-empted jobs try again. -/
def lossTried (s : State) (cid : Nat) (cause : Option (Nat × Nat × Nat)) : State :=
  let t := ctxLoss s cid cause false
  selectAll t (shellsHolding t)

/-- The hung record of the job on a shell. -/
def hungRecord (s : State) (cid n : Nat) (j : Job) : ErrRec :=
  { kind := 0x0A, mechanism := 13, scope := 3, shell := n, fn := (ctxOf s cid).fn, ctx := some cid, qseq := j.seq
    detail0 := (Config.freeWord s.freeCtr).toNat, detail1 := hungCatch s n, code := 3, waits := waitingSeats s n }

/-- The hung record of a pre-empted job. -/
def hungRecordImage (s : State) (cid n : Nat) (j : Job) : ErrRec :=
  { kind := 0x0A, mechanism := 13, scope := 3, shell := n, fn := (ctxOf s cid).fn, ctx := some cid, qseq := j.seq
    detail0 := (Config.freeWord s.freeCtr).toNat, detail1 := hungCatchImage s n j, code := 3 }

/-- The hung record of a command that has waited too long. -/
def waitRecord (s : State) (cid : Nat) (q : QCmd) : ErrRec :=
  { kind := 0x0A, mechanism := 13, scope := 3, fn := (ctxOf s cid).fn, ctx := some cid, qseq := q.seq, detail0 := q.waitAddr, detail1 := q.waitThreshold, code := 3 }

/-- The pre-empted jobs of an image slot are stopped with status TIMEOUT, where no earlier stop has met them. -/
def imageStopped (s : State) (n slot : Nat) : State :=
  shellPut s n { shellOf s n with
    preempted := (shellOf s n).preempted.map (fun x => if x.imageSlot = slot then { x with stop := some (x.stop.getD (3, 0)) } else x) }

theorem stop_of_imageStopped {s : State} {n slot : Nat} {x : Job} (hx : x ∈ (shellOf (imageStopped s n slot) n).preempted) (hslot : x.imageSlot = slot) :
    x.stop ≠ none := by
  unfold imageStopped at hx
  rw [shellOf_shellPut_self] at hx
  obtain ⟨y, -, rfl⟩ := List.mem_map.mp hx
  split at hslot
  · next hy =>
    rw [if_pos hy]
    exact Option.some_ne_none _
  · next hy => exact absurd hslot hy

section
variable {s : State} {ctx : U16}

theorem exec_cmdTimeoutExpiry_of_shut (h : (ctxOf s ctx.toNat).st ≠ .live ∨ frontUp s = false) (o : Option Slot) : exec (.cmdTimeoutExpiry ctx o) s = .next s :=
  if_pos (h.imp id fun hdown => by rw [hdown]; rfl)

variable (hst : (ctxOf s ctx.toNat).st = .live) (hup : frontUp s = true)
include hst hup

/-- The timeout of the job on a shell. -/
theorem exec_cmdTimeoutExpiry_of_job {n : Slot} {j : Job} (hjob : (shellOf s n.val).job = some j) (hctx : j.ctx = ctx.toNat) :
    exec (.cmdTimeoutExpiry ctx (some n)) s = .next (if tbPast (jobTimed s j) 0 (j.timeoutMs * 1000000) = true then
      lossTried (fileError (timeoutCount (freeNext s) ctx.toNat) false (hungRecord s ctx.toNat n.val j)) ctx.toNat (some (n.val, 3, 0)) else s) := by
  have hmine : (j.ctx == ctx.toNat) = true := beq_iff_eq.mpr hctx
  change execCmdTimeoutExpiry ctx (some n) s = _
  unfold execCmdTimeoutExpiry
  dsimp only
  rw [if_neg (by simp [hst, hup]), hjob]
  dsimp only
  simp only [hmine, if_true]
  cases tbPast (jobTimed s j) 0 (j.timeoutMs * 1000000) <;> rfl

/-- The timeout of a pre-empted job that cannot be restored. -/
theorem exec_cmdTimeoutExpiry_of_preempted {n : Slot} {j : Job} (hother : ∀ x, (shellOf s n.val).job = some x → x.ctx ≠ ctx.toNat)
    (hfind : (shellOf s n.val).preempted.find? (fun x => x.ctx == ctx.toNat && !restorable (shellOf s n.val) x) = some j) :
    exec (.cmdTimeoutExpiry ctx (some n)) s = .next (if tbPast (jobTimed s j) 0 (j.timeoutMs * 1000000) = true then
      lossTried (imageStopped (fileError (timeoutCount (freeNext s) ctx.toNat) false (hungRecordImage s ctx.toNat n.val j)) n.val j.imageSlot) ctx.toNat none
      else s) := by
  change execCmdTimeoutExpiry ctx (some n) s = _
  unfold execCmdTimeoutExpiry
  dsimp only
  rw [if_neg (by simp [hst, hup])]
  cases hjob : (shellOf s n.val).job with
  | none =>
    simp only [Bool.false_eq_true, if_false, hfind]
    cases tbPast (jobTimed s j) 0 (j.timeoutMs * 1000000) <;> rfl
  | some x =>
    have hmine : (x.ctx == ctx.toNat) = false := beq_eq_false_iff_ne.mpr (hother x hjob)
    simp only [hmine, Bool.false_eq_true, if_false, hfind]
    cases tbPast (jobTimed s j) 0 (j.timeoutMs * 1000000) <;> rfl

/-- The timeout of a head command whose wait is unmet. -/
theorem exec_cmdTimeoutExpiry_of_head {q : QCmd} {rest : List QCmd} (hcmds : (ctxOf s ctx.toNat).cmds = q :: rest) :
    exec (.cmdTimeoutExpiry ctx none) s = .next (if q.waitEn = true ∧ (!q.waitMet) = true ∧ q.phase = .validated ∧ (!bufferOpen (ctxOf s ctx.toNat) q) = true ∧
        tbPast s.tb (q.tbHead.getD s.tb) (q.timeoutMs * 1000000) = true then
      ctxLoss (retireUnstarted (fileError (timeoutCount s ctx.toNat) false (waitRecord s ctx.toNat q)) ctx.toNat q 3).1 ctx.toNat none false
    else s) := by
  change execCmdTimeoutExpiry ctx none s = _
  unfold execCmdTimeoutExpiry
  dsimp only
  rw [if_neg (by simp [hst, hup]), hcmds, apply_ite Host.Outcome.next]
  rfl

end

theorem timeoutCount_shows (s : State) (cid : Nat) : pget (timeoutCount s cid) P.cmdTimeouts = satInc32 (pget s P.cmdTimeouts) ∧
    (ctxOf (timeoutCount s cid) cid).acct.timeouts = (ctxOf s cid).acct.timeouts + 1 := by
  refine ⟨pget_pinc_self _ _, ?_⟩
  unfold timeoutCount
  rw [ctxOf_of_pinc, ctxOf_ctxPut_self]

theorem jobTimed_of_preempted (s : State) {j : Job} (h : j.phase = .preempted) :
    jobTimed s j = j.runNs + j.heldNs + (match j.tbHeld with | some t => s.tb - t | none => 0) := by
  unfold jobTimed
  rw [if_neg (by rw [h]; decide)]
  rfl

/-! ### The end of the release hold -/

/-- A job leaves its shell at the end of its release hold. -/
def jobReleased (s : State) (n : Nat) (j : Job) : State :=
  jobLeave (shellPut s n { shellOf s n with job := none, lastCtx := some j.ctx, preemptAt := none }) n

theorem exec_releaseHoldExpiry_of_holding {s : State} {n : Slot} {j : Job} (hjob : (shellOf s n.val).job = some j) (hphase : j.phase = .holding)
    (hroom : wakeRoom s n.val = true) (hup : frontUp s = true) : exec (.releaseHoldExpiry n) s = .next (if tbPast s.tb j.tbEnd 2000 = true then
      swapWaiting (shellSelect (stampHead (jobDeliver (jobReleased s n.val j) n.val j) j.ctx) n.val) else s) := by
  change execReleaseHoldExpiry n s = _
  unfold execReleaseHoldExpiry
  dsimp only
  rw [hjob]
  dsimp only
  cases hpast : tbPast s.tb j.tbEnd 2000
  · exact if_pos (.inr (.inl rfl))
  · exact if_neg (by simp [hphase, hroom, hup])

/-- A job under a raised latch retires SUSPECT, whatever status it had. -/
theorem jobRetire_of_suspect {s : State} {n : Nat} (j : Job) (h : (shellOf s n).latch = true) :
    let i : RecInfo := { seq := j.seq, status := 1, detail := 0, shell := n, summary := j.summary, energyMj := j.energyUj / 1000, tbDone := s.tb }
    let r := retireAny (wakeAppend s n (jobWake s n j 1)) j.ctx j.entryIdx j.crSlot i true j.advEn j.advIndex j.advValue
    (jobRetire s n j).2 = r.2 ∧ (jobRetire s n j).1.sent = r.1.sent := by
  unfold jobRetire
  dsimp only
  rw [h]
  exact ⟨rfl, rfl⟩

/-- Settles O45: a prefill by its source and its seat, a pre-emption by the phase of its job, a timeout by what it meets, a release by the time. -/
theorem jobsOnShells : Obligations.JobsOnShells := by
  refine ⟨fun s n l r j hjob hphase hseat hlocal hmissing hclean hbytes => ?_, fun s n l r => exec_prefillDone_of_idle, fun s n j hjob hphase hat hlatch => ?_,
    fun s n => ⟨?_, rfl⟩, fun s n => ⟨fun h => ⟨preemptCtlWrite_of_checking h 1, preemptCtlWrite_of_checking h 2⟩,
      fun hc h => ⟨preemptCtlWrite_of_free hc h 1, preemptCtlWrite_of_free hc h 2⟩,
      fun hc h => ⟨preemptCtlWrite_of_resetting hc h 1, preemptCtlWrite_of_resetting hc h 2⟩, fun hup => ⟨if_pos hup, if_pos hup⟩,
      fun hdown => ⟨if_neg (ne_true_of_eq_false hdown), if_neg (ne_true_of_eq_false hdown)⟩, fun hup hc hfree hreset hrel => ?_⟩,
    fun s n j k hjob hphase hlocal hk => ?_, fun s n j hjob hphase hlocal => exec_preemptRestoreDone_of_restoring hjob hphase hlocal,
    fun s n j => exec_phaseEnds_of_other,
    fun s ctx => exec_cmdTimeoutExpiry_of_shut, fun s ctx n j hst hup hjob hctx => ?_, fun s ctx n j hst hup hother hfind => ?_,
    fun s ctx q rest hst hup hcmds => ?_, timeoutCount_shows, fun s j => jobTimed_of_preempted s, fun s n j hjob hphase hroom hup => ?_,
    fun s n j => jobRetire_of_suspect j⟩
  · have hdue : PrefillDue s n.val l.toNat j := ⟨hjob, hphase, hseat, hlocal, hmissing, hclean, hbytes⟩
    intro stop
    obtain ⟨hfault, hats, hread⟩ := exec_prefillDone_of_due (r := r) hdue (stop := stop) rfl
    refine ⟨fun reason a va hs => ⟨fun hhigh => ?_, fun hlow => ?_⟩, hats, fun hs u x hx => ?_⟩
    · rw [hfault reason a va hs, if_neg (Nat.not_le.mpr hhigh)]
    · rw [hfault reason a va hs, if_pos hlow]
    · rw [hread hs, hx]
      refine ⟨fun h => ?_, fun h => ?_, fun st h => ?_, fun b h hjob' => ?_⟩ <;> subst h
      · rfl
      · rfl
      · rfl
      · exact prefillRead_ok hjob'
  · exact ⟨fun hquantum hhigher => exec_preemptQuantumExpiry_of_due hjob hphase hat hlatch hquantum hhigher, exec_preemptQuantumExpiry_of_early hjob⟩
  · unfold preemptLatch
    rw [shellOf_shellPut_self]
  · intro held
    obtain ⟨hfreeShell, hrunning⟩ := preemptCtlWrite_hold hc hfree hreset hrel rfl
    have hhold : exec (.preemptCtlPreempt n) s = .next (preemptCtlWrite s n.val 1).1 := if_pos hup
    refine ⟨fun hnone => ?_, fun j hjob hphase hat hfits hlatch => ?_, ?_⟩
    · rw [hhold, hfreeShell hnone]
    · rw [hhold, hrunning j hjob hphase hat hfits hlatch]
    · have hlift : exec (.preemptCtlLift n) s = .next (preemptCtlWrite s n.val 2).1 := if_pos hup
      rw [hlift, preemptCtlWrite_lift hc hfree hreset hrel]
  · subst hk
    intro s0 v
    refine ⟨exec_preemptSaveDone_of_undrained hjob, fun hdrained => ⟨preemptSaved s n.val j, exec_preemptSaveDone_of_drained hjob hphase hlocal hdrained, ?_⟩⟩
    have hv : imageSaved s n.val j = v := rfl
    rw [shellOf_preemptSaved, preemptions_preemptSaved, imageOf_preemptSaved, hv]
    exact ⟨rfl, rfl, rfl, ⟨_, rfl, rfl, rfl, rfl, rfl, rfl⟩, rfl, rfl⟩
  · intro e t
    rw [exec_cmdTimeoutExpiry_of_job hst hup hjob hctx]
    exact ⟨fun hearly => congrArg _ (if_neg (ne_true_of_eq_false hearly)), fun hpast => congrArg _ (if_pos hpast)⟩
  · rw [exec_cmdTimeoutExpiry_of_preempted hst hup hother hfind]
    exact ⟨fun hearly => congrArg _ (if_neg (ne_true_of_eq_false hearly)),
      fun hpast => ⟨_, _, congrArg _ (if_pos hpast), rfl, fun x hx => stop_of_imageStopped hx⟩⟩
  · intro cid e late
    rw [exec_cmdTimeoutExpiry_of_head hst hup hcmds]
    refine ⟨fun hno => congrArg _ (if_neg ?_), fun hen hunmet hphase hturn hlate =>
      congrArg _ (if_pos ⟨hen, by rw [hunmet]; rfl, hphase, by rw [hturn]; rfl, hlate⟩)⟩
    rintro ⟨hen, hunmet, hphase, hturn, hlate⟩
    rcases hno with h | h | h | h | h
    · exact ne_true_of_eq_false h hen
    · rw [h] at hunmet
      cases hunmet
    · exact h hphase
    · rw [h] at hturn
      cases hturn
    · exact ne_true_of_eq_false h hlate
  · rw [exec_releaseHoldExpiry_of_holding hjob hphase hroom hup]
    exact ⟨fun hearly => congrArg _ (if_neg (ne_true_of_eq_false hearly)), fun hpast => congrArg _ (if_pos hpast)⟩

end Sys2Proof
end

section
/-! O47: what a sprint egress sends while the windows of its shell go to a save image (02 R77 to R79, 07 R252, 12 R414, 17 R553). -/
namespace Sys2Proof
open Sys2Proof.Machine

/-! ### What a change of an image sends -/

theorem sent_engineWrite_of_host {ga : Nat} (hhost : inHostWindow ga = true) (s : State) (b : Bytes) :
    (engineWrite s ga b).sent = s.sent ++ [.hostWrite (hostAddr ga) b] := by
  unfold engineWrite
  rw [if_pos hhost, emit_sent]

/-- The image engine takes back nothing that has left. -/
theorem length_sent_le_engineWrite (s : State) (ga : Nat) (b : Bytes) : s.sent.length ≤ (engineWrite s ga b).sent.length := by
  unfold engineWrite
  split
  · rw [emit_sent, List.length_append]
    exact Nat.le_add_right _ _
  · -- the route by a name, so that no check of a case computes it
    obtain ⟨route, hroute⟩ := exists_eq' (a' := reach s 2352)
    rw [hroute]
    split
    · exact le_rfl
    · split
      · exact le_rfl
      · split
        · exact le_rfl
        · exact le_rfl

/-- An image that stands in host memory is changed there, so its change leaves the device. -/
theorem sent_imageChange_ne {im : Image} {ga off : Nat} (htarget : im.target = some ga) (hhost : inHostWindow (ga + off) = true) (s : State)
    (key : Nat) (new : Bytes) : (imageChange s key im off new).sent ≠ s.sent := by
  have hfirst := sent_engineWrite_of_host hhost (pinc (imagePut s key im) P.imageRedirects) ((im.sealed.drop off).take new.length)
  rw [pinc_sent, imagePut_sent] at hfirst
  unfold imageChange
  dsimp only
  rw [htarget]
  dsimp only
  intro hsame
  have hlen := (length_sent_le_engineWrite _ _ _).trans_eq (congrArg List.length hsame)
  rw [hfirst, List.length_append] at hlen
  exact Nat.not_succ_le_self _ hlen

/-- Where the peg word of logical seat `l` lies in an image (02 R79, 05 Table Tender-9). -/
def imagePegOffset (l : Nat) : Nat := 64 + l * seatSectionBytes + scratchBytes + 196608 + 0x300

theorem sent_imagePegWrite_ne {s : State} {key l ga : Nat} (htarget : (imageOf s key).target = some ga)
    (hhost : inHostWindow (ga + imagePegOffset l) = true) (p : Nat) (v : Bool) : (imagePegWrite s key l p v).sent ≠ s.sent := by
  unfold imagePegWrite
  refine sent_imageChange_ne ?_ hhost s key _
  exact htarget

theorem lseatPegPut_of_image {s : State} {slot l p key l' off : Nat} {w : WinMap}
    (hplace : placeVia s 2352 slot w l (0x1C0000 + 8 * p) 8 = .image key l' off) (v : Bool) :
    lseatPegPut s slot w l p v = imagePegWrite s key l' p v := by
  unfold lseatPegPut
  rw [hplace]

/-! ### The end of an egress read under the release gate -/

/-- An answer that the release gate holds sends nothing itself: what leaves is what the clearing of EGRESS_PEG sends. -/
theorem sent_egressReadDone_of_gated {s t : State} {n : Fin 1024} {p : Sprint} {q : Nat} {rest : List Nat} {body : Bytes}
    (hslot : sprintOf s n.val = p) (hst : p.st = .bound) (hreading : p.reading = true) (hwake : p.wake = false)
    (hout : p.outstanding = q :: rest) (hup : frontUp s = true)
    (hread : lseatRead s p.shell (ctxWindows s p.shell p.ctx) p.lseat (32 * p.resultOffset) (p.resultBytes - 8) = some (stOk, body))
    (hgate : pget s (P.releaseGate p.shell) = 1) (hexec : exec (.egressReadDone n) s = .next t) :
    t.sent = (lseatPegPut s p.shell (ctxWindows s p.shell p.ctx) p.lseat p.egressPeg false).sent := by
  have hgo : execEgressReadDone n s = .next t := hexec
  unfold execEgressReadDone at hgo
  dsimp only at hgo
  rw [hslot, if_pos ⟨hst, hreading, .inl (by rw [hwake]; rfl), hup⟩, hout] at hgo
  dsimp only at hgo
  rw [hread] at hgo
  dsimp only at hgo
  rw [if_neg (not_not_intro rfl), if_pos hgate] at hgo
  injection hgo with hgo
  rw [← hgo, sprintPut_sent]

/-! ### The counterexample -/

/-- Shell 3 with seat 5 is SAVED at a catch point of its job: its windows go to the save image, which stands in host memory. Slot 9 is bound to the seat,
and the egress of its record 4 began before the save and ends after it. The shell's release gate is on. -/
def savedScoring : State :=
  { start := { msf := true, islandsUp := true }
    regs := [(P.releaseGate 3, 1)]
    shells := [(3, { st := .saved, rig := { seats := [5] }, windows := .image (saveKey 3), job := some { ctx := 1, fn := 0, seq := 0, phase := .running } })]
    images := [(saveKey 3, { seats := [{}], target := some 0x100000000000000 })]
    sprints := [(9, { st := .bound, ctx := 1, fn := 0, shell := 3, recordBytes := 64, resultBytes := 32, depth := 1, outstanding := [4], reading := true })] }

/-- The egress reads the result area in the image. -/
theorem lseatRead_savedScoring : lseatRead savedScoring 3 (ctxWindows savedScoring 3 1) 0 0 24 = some (stOk, List.replicate 24 0) := by
  decide +kernel

/-- EGRESS_PEG lies in the image. -/
theorem placeVia_savedScoring : placeVia savedScoring 2352 3 (ctxWindows savedScoring 3 1) 0 0x1C0000 8 = .image (saveKey 3) 0 0x1C0000 := by
  decide +kernel

/-- Refutes O47: where the windows of the shell go to a save image in host memory, the clearing of EGRESS_PEG changes the image there (07 R252), so bytes
leave the device at the end of an egress read whose answer the release gate holds. The statement lets nothing leave then. -/
theorem not_sprint : ¬ Obligations.Sprint := by
  unfold Obligations.Sprint
  rintro ⟨-, -, -, hegress, -⟩
  obtain ⟨-, -, hread⟩ := hegress savedScoring 9 4 [] rfl rfl nofun rfl rfl
  obtain ⟨u, -, -, -, -, hheld⟩ := hread _ lseatRead_savedScoring
  obtain ⟨t, -, hexec, -, -, -, -, -, hsent⟩ := hheld rfl
  have hpeg : t.sent = (imagePegWrite savedScoring (saveKey 3) 0 0 false).sent :=
    (sent_egressReadDone_of_gated rfl rfl rfl rfl rfl rfl lseatRead_savedScoring rfl hexec).trans
      (congrArg State.sent (lseatPegPut_of_image placeVia_savedScoring false))
  exact sent_imagePegWrite_ne (ga := 0x100000000000000) rfl (by decide) 0 false (hpeg.symm.trans hsent)

end Sys2Proof
end

section
/-! O1, O58, O3, O5, O6: a step, the state after reset, the power pins, the stages of a start and the firmware of the seats. -/
namespace Sys2Proof
open Sys2Proof.Machine

/-- Settles O1: a step on a queue with a front command is `exec` of it by the definition of `step`. -/
theorem stepRunsFrontCommand : Obligations.StepRunsFrontCommand := by
  intro c rest s h
  rw [step, h]

/-- Settles O58: each table is empty after reset, so every field reads its default, and each parameter the default of its row. -/
theorem resetState : Obligations.ResetState := by
  refine ⟨rfl, rfl, rfl, rfl, rfl, rfl, fun _ => rfl, fun n => ⟨rfl, rfl, rfl, rfl, rfl, rfl, rfl⟩, rfl, rfl, rfl, rfl, rfl, rfl, rfl, ?_⟩
  decide +kernel

/-! ### Parameters of a state whose other fields have changed -/

/-- A parameter depends on the dictionary alone. -/
theorem pget_congr {s t : State} (h : t.regs = s.regs) (k : Nat) : pget t k = pget s k := by
  rw [pget, pget, h]

/-! ### The report of a start (16 R526, R550) -/

section
variable (s : State) (cold : Bool) (cause : Nat)

theorem regs_startReport : (startReport s cold cause).regs =
    (pset (pset (pset (pset (pset (pset s P.budgetEffectiveW (min (pget s P.fallbackBudgetW) (pget s P.powerLimitW))) P.compositionMode
      (pget s P.compositionModeNext)) P.startKind (if cold then 0 else 1)) P.startCause cause) P.startStage 0) P.startFault 0).regs := by
  rfl

/-- A parameter after a start's report, by the parameter that is read last. -/
theorem pget_startReport (k : Nat) : pget (startReport s cold cause) k =
    if k = P.startFault then 0 else if k = P.startStage then 0 else if k = P.startCause then cause else if k = P.startKind then (if cold then 0 else 1)
    else if k = P.compositionMode then pget s P.compositionModeNext
    else if k = P.budgetEffectiveW then min (pget s P.fallbackBudgetW) (pget s P.powerLimitW) else pget s k := by
  rw [pget_congr (regs_startReport s cold cause)]
  simp only [pget_pset]

theorem startStage_startReport : pget (startReport s cold cause) P.startStage = 0 := by
  rw [pget_startReport, if_neg (by decide), if_pos rfl]

theorem startCause_startReport : pget (startReport s cold cause) P.startCause = cause := by
  rw [pget_startReport, if_neg (by decide), if_neg (by decide), if_pos rfl]

theorem startKind_startReport : pget (startReport s cold cause) P.startKind = if cold then 0 else 1 := by
  rw [pget_startReport, if_neg (by decide), if_neg (by decide), if_neg (by decide), if_pos rfl]

theorem startFault_startReport : pget (startReport s cold cause) P.startFault = 0 := by
  rw [pget_startReport, if_pos rfl]

end

/-- Settles O3: each pin's command by its own branch; a rise of input-good ends in the report of a start of cause 0. -/
theorem powerPins : Obligations.PowerPins := by
  refine ⟨fun s hgood hrails => ?_, fun s hgood => ?_, fun s => rfl, fun s hgood hpwr => ?_, fun s hgood hperst => ?_, fun s a hgood => ?_⟩
  · exact ⟨_, if_neg (by simp [hgood, hrails]), rfl, rfl, rfl, rfl, rfl, rfl, rfl, rfl, startStage_startReport .., startKind_startReport ..,
      startCause_startReport .., rfl⟩
  · exact ⟨_, if_pos hgood, rfl, rfl, rfl, rfl, rfl, rfl, rfl, rfl, rfl, rfl, rfl, rfl⟩
  · exact if_pos (by simp [hgood, hpwr])
  · change execPerstAssert s = _
    rw [execPerstAssert, if_pos (by simp [hgood, hperst])]
  · exact if_pos hgood

/-! ### Firmware digests and the self-test (16 R533, R534) -/

section
variable {s : State} (seat : SeatId) {d : List Byte}

theorem exec_fwDigestReport_of_wrong (hstage : inStage s 4 = true) (hd : d ≠ Config.fwDigest (fwRunning s).image) :
    exec (.fwDigestReport seat d) s =
      if tget (fun _ => 0) s.start.digestTries seat.val < 3 then
        .next (emit { s with start := { s.start with
          digestTries := tset (fun _ => 0) s.start.digestTries seat.val (tget (fun _ => 0) s.start.digestTries seat.val + 1) } }
          (.packet seat.val 4 (fwRunning s).image))
      else .next { s with start := { s.start with failedSeats := sAdd s.start.failedSeats seat.val } } :=
  if_neg (by simp [hstage, hd])

end

/-- Settles O6: a digest by whether it is right and by the resends before it, a self-test by its result. -/
theorem firmwareAndSelfTest : Obligations.FirmwareAndSelfTest := by
  refine ⟨fun s seat d hstage => ⟨fun hd => if_pos (.inr hd), fun hd htries => ?_, fun hd htries => ?_⟩, fun s seat hstage => ⟨?_, ?_⟩⟩
  · exact ⟨_, (exec_fwDigestReport_of_wrong seat hstage hd).trans (if_pos htries), rfl,
      by simp only [emit, tget_tset_self], rfl⟩
  · exact (exec_fwDigestReport_of_wrong seat hstage hd).trans (if_neg (by omega))
  · exact if_pos (by simp [hstage])
  · exact if_neg (by simp)

/-! ### Start faults and the end of a stage (16 R529, R532) -/

section
variable (s : State)

theorem pget_dumpBegin {k : Nat} (htaken : k ≠ P.dumpsTaken) (hskipped : k ≠ P.dumpsSkipped) (trigger island mask : Nat) :
    pget (dumpBegin s trigger island mask) k = pget s k := by
  unfold dumpBegin
  split
  · exact pget_pinc_ne _ _ _ hskipped
  · exact pget_pinc_ne _ _ _ htaken

theorem startFault_reports (stage code island : Nat) (dump : Bool) :
    pget (startFault s stage code island dump) P.startStage = 7 ∧ pget (startFault s stage code island dump) P.startFault = stage * 256 + code := by
  have hset : pget (pset (pset s P.startStage 7) P.startFault (stage * 256 + code)) P.startStage = 7 := by
    rw [pget_pset_ne _ _ _ _ (by decide), pget_pset_self]
  unfold startFault
  cases dump with
  | false => exact ⟨hset, pget_pset_self _ _ _⟩
  | true =>
    dsimp only
    rw [if_pos rfl, pget_dumpBegin _ (by decide) (by decide), pget_dumpBegin _ (by decide) (by decide)]
    exact ⟨hset, pget_pset_self _ _ _⟩

theorem startStage_stageNext (n : Nat) : pget (stageNext s n) P.startStage = n + 1 :=
  (pget_congr rfl _).trans (pget_pset_self (pset s (P.stageTimeMs n) _) P.startStage (n + 1))

/-- A command's next state ends a stage in a start fault that names the stage and the code. -/
theorem faults_of_exec {i : Instr} {u : State} {stage code island : Nat} {dump : Bool} (h : exec i s = .next (startFault u stage code island dump)) :
    ∃ t, exec i s = .next t ∧ pget t P.startStage = 7 ∧ pget t P.startFault = 256 * stage + code := by
  obtain ⟨hstage, hfault⟩ := startFault_reports u stage code island dump
  exact ⟨_, h, hstage, by rw [hfault, Nat.mul_comm]⟩

end

/-! ### MINIMAL_SAFE_FUNCTION (16 R530) -/

section
variable {s : State} {ok : IdChecks} (id : Fin 16) (g : Fin 7) (w : Fin 17)

theorem exec_minimalSafeFunction_of_verified (hstage : inStage s 0 = true) {c b : Bool} (hid : idPick ok s.flash = some c) (hfw : fwPick s = some b) :
    ∃ u, exec (.minimalSafeFunction ok id g w) s = .next (stageNext u 0) := by
  change ∃ u, execMinimalSafeFunction ok id g w s = _
  rw [execMinimalSafeFunction, if_neg (by simp [hstage])]
  simp only [hid, hfw]
  exact ⟨_, rfl⟩

theorem exec_minimalSafeFunction_of_unverified (hstage : inStage s 0 = true) (hbad : fwPick s = none ∨ idPick ok s.flash = none) :
    ∃ u, exec (.minimalSafeFunction ok id g w) s = .next (startFault u 0 1 0xFFFF false) := by
  change ∃ u, execMinimalSafeFunction ok id g w s = _
  rw [execMinimalSafeFunction, if_neg (by simp [hstage])]
  cases hid : idPick ok s.flash with
  | none => exact ⟨_, rfl⟩
  | some c =>
    have hfw : fwPick s = none := by simpa [hid] using hbad
    simp only [hfw]
    exact ⟨_, rfl⟩

end

/-! ### STAGE1_END (16 R532) -/

/-- The islands without which stage 1 cannot end: the crossbars, the ring blocks and MD. -/
def stage1Vital (n : Nat) : Bool := decide (2304 ≤ n ∧ n < 2328) || n == 2352

theorem find_stage1Vital_of_others {failed : List IslandId} (h : ∀ n ∈ failed, n.val < 2304 ∨ (2328 ≤ n.val ∧ n.val < 2352)) :
    (failed.map (·.val)).find? stage1Vital = none := by
  simp only [List.find?_eq_none, List.mem_map, stage1Vital]
  rintro _ ⟨n, hn, rfl⟩
  have := h n hn
  simp
  omega

theorem find_stage1Vital_of_vital {failed : List IslandId} (h : ∃ n ∈ failed, (2304 ≤ n.val ∧ n.val < 2328) ∨ n.val = 2352) :
    ∃ n, (failed.map (·.val)).find? stage1Vital = some n := by
  obtain ⟨n, hn, hvital⟩ := h
  rw [← Option.isSome_iff_exists, List.find?_isSome]
  exact ⟨n.val, List.mem_map_of_mem hn, by simpa [stage1Vital] using hvital⟩

section
variable {s : State} {failed : List IslandId} (hstage : inStage s 1 = true)
include hstage

theorem exec_stage1End_of_vital {n : Nat} (hfind : (failed.map (·.val)).find? stage1Vital = some n) (l : Option LinkId) :
    exec (.stage1End failed l) s = .next (startFault s 1 2 n true) := by
  change execStage1End failed l s = _
  rw [execStage1End, if_neg (by simp [hstage])]
  change (match (failed.map (·.val)).find? stage1Vital with | some n => _ | none => _) = _
  rw [hfind]

theorem exec_stage1End_of_badLink (hfind : (failed.map (·.val)).find? stage1Vital = none) (l : LinkId) :
    exec (.stage1End failed (some l)) s = .next (startFault s 1 3 0xFFFF true) := by
  change execStage1End failed (some l) s = _
  rw [execStage1End, if_neg (by simp [hstage])]
  change (match (failed.map (·.val)).find? stage1Vital with | some n => _ | none => _) = _
  rw [hfind]
  rfl

theorem exec_stage1End_of_links (hfind : (failed.map (·.val)).find? stage1Vital = none) :
    ∃ u, exec (.stage1End failed none) s = .next (stageNext u 1) := by
  change ∃ u, execStage1End failed none s = _
  rw [execStage1End, if_neg (by simp [hstage])]
  dsimp only
  split
  next n h => cases h.symm.trans hfind
  next => exact ⟨_, if_neg Bool.false_ne_true⟩

end

/-- Settles O5: each stage's event ends in `stageNext` or in a start fault. -/
theorem stageEnds : Obligations.StageEnds := by
  refine ⟨fun s id g w hstage => ⟨fun ok hid hfw => ?_, fun ok hbad => ?_⟩, fun s failed hstage => ⟨fun hall => ?_, fun hall l => ?_, fun hvital l => ?_, ?_⟩,
    fun s failed hstage => ?_, fun s hstage hleft => ?_, fun s hstage => ?_, fun s n hstage hn halert hpast => ?_⟩
  · obtain ⟨c, hc⟩ := Option.ne_none_iff_exists'.1 hid
    obtain ⟨b, hb⟩ := Option.ne_none_iff_exists'.1 hfw
    obtain ⟨u, hu⟩ := exec_minimalSafeFunction_of_verified id g w hstage hc hb
    exact ⟨_, hu, startStage_stageNext u 0⟩
  · obtain ⟨u, hu⟩ := exec_minimalSafeFunction_of_unverified id g w hstage hbad
    exact faults_of_exec s hu
  · obtain ⟨u, hu⟩ := exec_stage1End_of_links hstage (find_stage1Vital_of_others hall)
    exact ⟨_, hu, startStage_stageNext u 1⟩
  · exact faults_of_exec s (exec_stage1End_of_badLink hstage (find_stage1Vital_of_others hall) l)
  · obtain ⟨n, hn⟩ := find_stage1Vital_of_vital hvital
    exact faults_of_exec s (exec_stage1End_of_vital hstage hn l)
  · exact faults_of_exec s (i := .linkRefclkLoss) (if_pos hstage)
  · exact ⟨_, if_neg (by simp [hstage]), startStage_stageNext _ 2⟩
  · refine ⟨_, if_pos ⟨hstage, List.all_eq_true.2 fun p hp => ?_⟩, startStage_stageNext _ 3⟩
    have := hleft p (List.mem_range.1 hp)
    cases hbit : bitOf (pget s P.ghPortEnable) p <;> simp_all
  · exact ⟨_, if_neg (by simp [hstage]), startStage_stageNext _ 4⟩
  · have hnow : pget s P.startStage = n := by
      simp only [inStage, Bool.and_eq_true, beq_iff_eq] at hstage
      exact hstage.1.2
    refine faults_of_exec s (island := 0xFFFF) (dump := true) (if_pos ?_ |>.trans (by rw [hnow]))
    subst hnow
    refine ⟨hstage, hn, ?_, hpast⟩
    simpa [imp_iff_not_or] using halert

end Sys2Proof
end

section
/-! O10, O8, O9: dumps, the steps of a shell reset, and the recovery of islands. -/
namespace Sys2Proof
open Sys2Proof.Machine

/-! ### Dumps (16 R545 to R548) -/

section
variable {s : State}

theorem exec_dumpCtlTake (hup : dictUp s = true) : exec .dumpCtlTake s = .next (dumpBegin s 1 0xFFFF (2 ^ 32 - 1)) := if_pos hup

theorem dumpBegin_of_held (hhold : pget s P.dumpHold = 1) (hdump : s.retained.dump ≠ none) (trigger island mask : Nat) :
    dumpBegin s trigger island mask = pinc s P.dumpsSkipped :=
  if_pos ⟨hhold, Option.isSome_iff_ne_none.2 hdump⟩

theorem dumpBegin_of_free (hfree : pget s P.dumpHold ≠ 1 ∨ s.retained.dump = none) (trigger island mask : Nat) :
    ∃ d, (dumpBegin s trigger island mask).start.dumping = some d ∧ d.trigger = trigger ∧ d.tbTrigger = s.tb ∧ d.stage = pget s P.startStage ∧
      (dumpBegin s trigger island mask).retained.dumpSeq = s.retained.dumpSeq + 1 ∧
      pget (dumpBegin s trigger island mask) P.dumpsTaken = satInc32 (pget s P.dumpsTaken) := by
  have hbegins : ¬ (pget s P.dumpHold = 1 ∧ s.retained.dump.isSome = true) := by
    rintro ⟨hhold, hsome⟩
    rcases hfree with hfree | hfree
    · exact hfree hhold
    · rw [hfree] at hsome
      exact Bool.false_ne_true hsome
  rw [dumpBegin, if_neg hbegins]
  exact ⟨_, rfl, rfl, rfl, rfl, rfl, pget_pinc_self s P.dumpsTaken⟩

theorem exec_dumpAccessTimeout {d : Dump} (hdump : s.start.dumping = some d) (n : IslandId) :
    exec (.dumpAccessTimeout n) s = if d.unreachable.contains n.val then .next s else .next { s with start := { s.start with dumping := some { d with
      accessTimeouts := tset (fun _ => 0) d.accessTimeouts n.val (tget (fun _ => 0) d.accessTimeouts n.val + 1)
      lastFailed := some n.val
      unreachable := if d.lastFailed = some n.val then sAdd d.unreachable n.val else d.unreachable } } } := by
  change execDumpAccessTimeout n s = _
  simp only [execDumpAccessTimeout, hdump]

theorem exec_dumpEnd {d : Dump} (hdump : s.start.dumping = some d) : exec .dumpEnd s = .next (dumpEnd s d) := by
  change execDumpEnd s = _
  simp only [execDumpEnd, hdump]

/-- The state in which a dump with the body `b` has ended, before its summary goes to flash. -/
def dumpKept (s : State) (d : Dump) (b : Bytes) : State :=
  { s with start := { s.start with dumping := none }
           retained := { s.retained with dump := some { d with tbEnd := s.tb, body := b } }
           freeCtr := s.freeCtr + 2353 }

theorem dumpEnd_eq (d : Dump) : ∃ b summary, dumpEnd s d = match flashSpend (dumpKept s d b) with
    | some v => octPut v P.dumpSummary summary
    | none => dumpKept s d b :=
  ⟨_, _, rfl⟩

end

/-- Settles O10: taking a dump by DUMP_HOLD, a failed access by the one before it, the end by what the flash still takes. -/
theorem dumps : Obligations.Dumps := by
  refine ⟨fun s hup => ⟨fun hhold hdump => ?_, fun hfree => ?_, if_pos hup⟩, fun s n d hdump hnew => ?_, fun s n d hdump hknown => ?_, fun s d hdump => ?_⟩
  · rw [exec_dumpCtlTake hup, dumpBegin_of_held hhold hdump]
  · obtain ⟨d, hd⟩ := dumpBegin_of_free hfree 1 0xFFFF (2 ^ 32 - 1)
    exact ⟨_, d, exec_dumpCtlTake hup, hd⟩
  · exact ⟨_, _, (exec_dumpAccessTimeout hdump n).trans (if_neg (by rw [hnew]; exact Bool.false_ne_true)), rfl, rfl, rfl, rfl⟩
  · exact (exec_dumpAccessTimeout hdump n).trans (if_pos hknown)
  · obtain ⟨b, summary, hend⟩ := dumpEnd_eq (s := s) d
    have hexec := (exec_dumpEnd hdump).trans (congrArg _ hend)
    cases hspend : flashSpend (dumpKept s d b) with
    | none =>
      rw [hspend] at hexec
      exact ⟨dumpKept s d b, dumpKept s d b, _, hexec, rfl, rfl, rfl, rfl, rfl, rfl, fun _ => rfl, by simp [hspend]⟩
    | some v =>
      rw [hspend] at hexec
      obtain ⟨f, rfl⟩ := eq_of_flashSpend hspend
      refine ⟨octPut _ P.dumpSummary summary, dumpKept s d b, _, hexec, rfl, rfl, rfl, rfl, rfl, rfl, by simp [hspend], fun w hw => ⟨summary, ?_⟩⟩
      cases hspend.symm.trans hw
      rfl

/-! ### SHELL_RESET and its steps (16 R539, Table Start-6) -/

section
variable {s : State}

theorem shellResetWrite_of_refused {n : Nat} (h : (shellOf s n).st = .free ∨ (shellOf s n).st = .resetting ∨ (shellOf s n).st = .releasing) :
    shellResetWrite s n = (s, 0x090B) :=
  if_pos (by tauto)

/-- A shell reset that begins puts the shell into RESETTING, draining, unless a migration of it still runs. -/
theorem shellResetBegin_enters {n st : Nat} (hfree : (shellOf s n).st ≠ .free) (hresetting : (shellOf s n).st ≠ .resetting)
    (hreleasing : (shellOf s n).st ≠ .releasing) (hphase : (shellOf s n).resetPhase = .none) :
    (shellOf (shellResetBegin s n st) n).migs.all (·.done) = false ∨
      ((shellOf (shellResetBegin s n st) n).st = .resetting ∧ (shellOf (shellResetBegin s n st) n).resetPhase = .draining) := by
  rw [shellResetBegin, if_neg (by simp [hfree, hresetting, hreleasing, hphase])]
  extract_lets _ _ _ s3
  cases hmigs : (shellOf s3 n).migs.all (·.done) with
  | false => exact .inl (by simpa using hmigs)
  | true => exact .inr (by simp [resetEnter])

end

/-! ### What a packet or an action to a lender leaves (14 R466, R483) -/

/-- The state but for what a packet that leaves by a Ghengo port writes. -/
def outsidePorts (s : State) : State := { s with sent := [], ghPorts := [], ghWaiting := [] }

theorem outsidePorts_ghOut (s : State) (w : GhWait) : outsidePorts (ghOut s w) = outsidePorts s := by
  unfold ghOut
  dsimp only
  split
  · rfl
  · split
    · rfl
    · rfl

theorem outsidePorts_ghSeatSend (s : State) (dst : Nat) (ports : List Nat) (bulk : Bool) (x : Sent) :
    outsidePorts (ghSeatSend s dst ports bulk x) = outsidePorts s := by
  unfold ghSeatSend
  split
  · exact outsidePorts_ghOut s _
  · rfl

section
variable (s : State) (slot : Nat) (x : Nat × Nat) (a : SeatAction) (v : RemoteSeat)

theorem outsidePorts_remoteSend : outsidePorts (remoteSend s slot x a v) = outsidePorts (remotePut s slot x v) := outsidePorts_ghSeatSend ..

@[simp] theorem seatOf_remoteSend (i : Nat) : seatOf (remoteSend s slot x a v) i = seatOf s i :=
  (congrArg (fun t => seatOf t i) (outsidePorts_remoteSend s slot x a v) :)

theorem shellOf_remoteSend (n : Nat) : shellOf (remoteSend s slot x a v) n = shellOf (remotePut s slot x v) n :=
  (congrArg (fun t => shellOf t n) (outsidePorts_remoteSend s slot x a v) :)

/-- What a shell is beside what its borrower knows of its leased seats. -/
def besideRemote (n : Nat) (s : State) : Shell := { shellOf s n with remote := [] }

theorem besideRemote_remoteSend (n : Nat) : besideRemote n (remoteSend s slot x a v) = besideRemote n s := by
  rw [besideRemote, shellOf_remoteSend, remotePut, shellOf_shellPut]
  split
  next h => rw [h]; rfl
  next => rfl

end

/-! ### Seats scrubbed and closed -/

section
variable (s : State)

theorem shells_foldl_seatScrub (l : List Nat) : (l.foldl seatScrub s).shells = s.shells := foldl_keeps State.shells (f := seatScrub) (fun _ _ => rfl) l s

theorem mode_seatScrub_self (i : Nat) : (seatOf (seatScrub s i) i).mode = .idle ∧ (seatOf (seatScrub s i) i).pegs = 0 := by
  simp [seatScrub, seatFresh]

theorem seatOf_seatScrub_ne {i j : Nat} (h : j ≠ i) : seatOf (seatScrub s i) j = seatOf s j := seatOf_seatPut_ne _ _ _ _ h

theorem foldl_seatScrub_idle {l : List Nat} {i : Nat} (hi : i ∈ l) : (seatOf (l.foldl seatScrub s) i).mode = .idle ∧ (seatOf (l.foldl seatScrub s) i).pegs = 0 := by
  have := foldl_at_mem (view := fun t k => ((seatOf t k).mode, (seatOf t k).pegs)) (f := seatScrub) (inv := fun _ => True) (v := (.idle, 0)) (j := i)
    (fun t k h => by simp only [seatOf_seatScrub_ne t h]) (fun _ _ _ => trivial) (fun t _ => by simp [mode_seatScrub_self t i]) hi (s := s) trivial
  simpa using this

theorem seats_seatsClose (l : List Nat) : (seatsClose s l).seats = s.seats := by
  refine foldl_keeps State.seats (fun t i => ?_) l s
  rfl

theorem shells_seatsClose (l : List Nat) : (seatsClose s l).shells = s.shells := by
  refine foldl_keeps State.shells (fun t i => ?_) l s
  rfl

theorem outsideIslands_seatsOpen (l : List Nat) : { seatsOpen s l with islands := [] } = { s with islands := [] } := by
  refine foldl_keeps (fun t : State => { t with islands := [] }) (fun t i => ?_) l s
  dsimp only
  split
  · rfl
  · rfl

end

/-! ### SHELL_RESET_DRAIN_DONE -/

section
variable {s : State} {n : Slot} (hresetting : (shellOf s n.val).st = .resetting)
include hresetting

theorem exec_shellResetDrainDone (hphase : (shellOf s n.val).resetPhase = .draining) :
    ∃ t, exec (.shellResetDrainDone n []) s = .next t ∧ (shellOf t n.val).resetPhase = .retraining ∧ (shellOf t n.val).st = .resetting ∧
      ∀ i ∈ (shellOf s n.val).rig.seats, (seatOf t i).mode = .idle ∧ (seatOf t i).pegs = 0 := by
  refine ⟨_, if_pos ⟨hresetting, hphase⟩, ?_⟩
  dsimp only
  rw [List.filter_nil, List.foldl_nil]
  generalize netSettle (heldClose s n.val) = sc
  generalize hsh : ({ shellOf sc n.val with st := ShellSt.resetting, resetPhase := ResetPhase.retraining, dirty := false, scrubbing := [] } : Shell) = sh
  generalize hs0 : seatsClose ((shellOf s n.val).rig.seats.foldl seatScrub (shellPut sc n.val sh)) (shellOf s n.val).rig.seats = s0
  have hshell : shellOf s0 n.val = sh := by
    rw [shellOf, ← hs0, shells_seatsClose, shells_foldl_seatScrub]
    exact shellOf_shellPut_self _ _ _
  have hremote : besideRemote n.val _ = besideRemote n.val s0 :=
    foldl_keeps (besideRemote n.val) (fun t x => besideRemote_remoteSend t n.val x .scrub { pending := true } n.val) (remoteLive (shellOf s n.val)) s0
  rw [besideRemote, besideRemote, hshell, ← hsh] at hremote
  refine ⟨congrArg Shell.resetPhase hremote, congrArg Shell.st hremote, fun i hi => ?_⟩
  rw [foldl_keeps (fun t => seatOf t i) (fun t x => seatOf_remoteSend t n.val x .scrub { pending := true } i), seatOf, ← hs0, seats_seatsClose]
  exact foldl_seatScrub_idle _ hi

end

/-! ### SHELL_RESET_COMPLETE -/

section
variable (s : State)

theorem memGet_memZero_of_zero {a n b : Nat} (h : memGet s b = 0) : memGet (memZero s a n) b = 0 := by
  rw [memGet_memZero]
  split
  · rfl
  · exact h

/-- What a fold's step makes true and every step keeps is true after the fold. -/
theorem foldl_reaches {α : Type} {P : State → Prop} {f : State → α → State} (hkeep : ∀ t x, P t → P (f t x)) {c : α} (hself : ∀ t, P (f t c))
    {l : List α} (hc : c ∈ l) : P (l.foldl f s) := by
  induction l generalizing s with
  | nil => cases hc
  | cons x l ih =>
    rcases List.mem_cons.1 hc with rfl | hl
    · exact List.foldlRecOn l f (hself s) fun t ht y _ => hkeep t y ht
    · exact ih _ hl

theorem memGet_foldl_of_zero {α : Type} {f : State → α → State} {a : Nat} (hkeep : ∀ t x, memGet t a = 0 → memGet (f t x) a = 0) (l : List α)
    (h : memGet s a = 0) : memGet (l.foldl f s) a = 0 :=
  List.foldlRecOn l f h fun t ht x _ => hkeep t x ht

theorem memGet_memZero_self {a n b : Nat} (hlo : a ≤ b) (hhi : b < a + n) : memGet (memZero s a n) b = 0 := by
  rw [memGet_memZero, if_pos ⟨hlo, hhi⟩]

theorem mem_seatsOpen (l : List Nat) : (seatsOpen s l).mem = s.mem := (congrArg State.mem (outsideIslands_seatsOpen s l) :)

end

/-- Settles O8: the reset by the state it finds, each of its steps by the phase it ends, and zeroing by the channels it passes. -/
theorem shellResetSteps : Obligations.ShellResetSteps := by
  refine ⟨fun s n hup => ⟨fun h => ?_, fun hfree hresetting hreleasing hphase => ?_⟩, fun s n hst => ⟨exec_shellResetDrainDone hst, fun hphase => ?_, fun hphase => ?_⟩⟩
  · exact (if_pos hup).trans (congrArg (fun x : State × Nat => Host.Outcome.next x.1) (shellResetWrite_of_refused h))
  · refine ⟨_, (if_pos hup).trans (congrArg (fun x : State × Nat => Host.Outcome.next x.1) (if_neg ?_)), shellResetBegin_enters hfree hresetting hreleasing hphase⟩
    simp [hfree, hresetting, hreleasing, hphase]
  · exact if_pos ⟨hst, hphase⟩
  · refine ⟨_, if_pos ⟨hst, hphase⟩, by rw [shellOf_shellPut_self], by rw [shellOf_shellPut_self], by rw [shellOf_shellPut_self], fun c hc a hlo hhi => ?_⟩
    rw [memGet_of_shellPut, memGet, mem_seatsOpen]
    refine memGet_foldl_of_zero _ (fun t e ht => ?_) _ (foldl_reaches s (P := fun t => memGet t a = 0) (fun t x ht => ?_) (fun t => ?_) hc)
    · exact memGet_memZero_of_zero t ht
    · exact memGet_memZero_of_zero t ht
    · exact memGet_memZero_self t hlo hhi

/-! ### Tables: entries that are found, mapped and left out -/

section
variable {α : Type}

theorem mem_of_tfind {t : Tbl α} {k : Nat} {v : α} (h : tfind t k = some v) : (k, v) ∈ t := by
  induction t with
  | nil => cases h
  | cons e t ih =>
    obtain ⟨j, w⟩ := e
    unfold tfind at h
    split at h
    next hk =>
      cases h
      exact hk ▸ List.mem_cons_self
    next => exact List.mem_cons_of_mem _ (ih h)

/-- A table whose values are changed by key reads at a key the changed value. -/
theorem tfind_map_by_key {β : Type} (g : Nat → α → β) (t : Tbl α) (k : Nat) : tfind (t.map (fun e => (e.1, g e.1 e.2))) k = (tfind t k).map (g k) := by
  induction t with
  | nil => rfl
  | cons e t ih =>
    obtain ⟨j, w⟩ := e
    by_cases hj : j = k
    · simp [tfind, hj]
    · simpa [tfind, hj] using ih

/-- Where the keys rise, leaving out what an unlisted key reads as changes no read. -/
theorem tget_filter_ne [DecidableEq α] (d : Nat → α) {t : Tbl α} (h : keysRise t) (k : Nat) : tget d (t.filter (fun e => e.2 != d e.1)) k = tget d t k := by
  induction t with
  | nil => rfl
  | cons e t ih =>
    obtain ⟨j, w⟩ := e
    obtain ⟨hlt, hrise⟩ := h
    have ih := ih hrise
    unfold tget at ih ⊢
    by_cases hw : w = d j
    · rw [List.filter_cons_of_neg (by simp [hw]), ih]
      by_cases hj : j = k
      · rw [tfind_eq_none fun e he => (hj ▸ hlt e he).ne', tfind, if_pos hj, hw, hj]
        rfl
      · rw [tfind, if_neg hj]
    · rw [List.filter_cons_of_pos (by simpa using hw)]
      by_cases hj : j = k
      · rw [tfind, tfind, if_pos hj, if_pos hj]
      · rw [tfind, tfind, if_neg hj, if_neg hj]
        exact ih

theorem keysRise_map_by_key {β : Type} (g : Nat → α → β) {t : Tbl α} (h : keysRise t) : keysRise (t.map (fun e => (e.1, g e.1 e.2))) := by
  induction t with
  | nil => trivial
  | cons e t ih =>
    obtain ⟨hlt, hrise⟩ := h
    refine ⟨fun x hx => ?_, ih hrise⟩
    obtain ⟨y, hy, rfl⟩ := List.mem_map.1 hx
    exact hlt y hy

end

/-! ### HEALTH_POLL (16 R543) -/

/-- An island that has answered a poll: no silent poll counts, and one that was forced into reset is open again. -/
def islandAnswered (i : Island) : Island :=
  { i with timeouts := 0, st := if i.st = .inReset ∧ i.forced then .running else i.st
           bridge := if i.st = .inReset ∧ i.forced then .opened else i.bridge
           forced := if i.st = .inReset then false else i.forced }

/-- The islands after a poll that names some as silent, before the silent ones are counted. -/
def islandsPolled (silent : List (IslandId × Nat)) (t : Tbl Island) : Tbl Island :=
  (t.map (fun e => if silent.any (fun p => p.1.val == e.1) then e else (e.1, islandAnswered e.2))).filter (fun e => e.2 != {})

/-- One silent poll of an island that should answer. -/
def pollSilent (t : State) (p : IslandId × Nat) : State :=
  if (islandOf t p.1.val).timeouts ≥ 1 then islandHang t p.1.val p.2
  else islandPut t p.1.val { islandOf t p.1.val with timeouts := (islandOf t p.1.val).timeouts + 1, tbAnswer := t.start.tbPoll }

/-- The state of a poll before its time is noted. -/
def polled (s : State) (silent : List (IslandId × Nat)) : State :=
  (silent.filter (fun p => !islandGated s p.1.val && (islandOf s p.1.val).st == .running)).foldl pollSilent
    { s with islands := islandsPolled silent s.islands }

section
variable {s : State}

theorem exec_healthPoll (hstage : pget s P.startStage = 5 ∨ pget s P.startStage = 6) (hruns : s.start.releasesStopped = false) (silent : List (IslandId × Nat)) :
    exec (.healthPoll silent) s = .next { polled s silent with start := { (polled s silent).start with tbPoll := s.tb } } := by
  change execHealthPoll silent s = _
  rw [execHealthPoll, if_neg (by rw [hruns]; simp; omega)]
  rfl

theorem timeouts_islandsPolled_nil (t : Tbl Island) (n : Nat) : (tget (fun _ => ({} : Island)) (islandsPolled [] t) n).timeouts = 0 := by
  unfold tget
  cases hfind : tfind (islandsPolled [] t) n with
  | none => rfl
  | some i =>
    obtain ⟨e, -, he⟩ := List.mem_map.1 (List.mem_of_mem_filter (mem_of_tfind hfind))
    exact (congrArg (fun x : Nat × Island => x.2.timeouts) he).symm

/-- A poll keeps what it knows of an island that is named as silent. -/
theorem islandOf_islandsPolled_named {n : IslandId} {k : Nat} {t : Tbl Island} (hsorted : tsorted t = true) :
    tget (fun _ => ({} : Island)) (islandsPolled [(n, k)] t) n.val = tget (fun _ => {}) t n.val := by
  have hmap : t.map (fun e => if [(n, k)].any (fun p => p.1.val == e.1) then e else (e.1, islandAnswered e.2)) =
      t.map (fun e => (e.1, if n.val = e.1 then e.2 else islandAnswered e.2)) := by
    refine List.map_congr_left fun e _ => ?_
    by_cases h : n.val = e.1 <;> simp [h]
  rw [islandsPolled, hmap, tget_filter_ne (fun _ => {}) (keysRise_map_by_key (fun j i => if n.val = j then i else islandAnswered i) ((tsorted_iff t).1 hsorted)),
    tget, tfind_map_by_key (fun j i => if n.val = j then i else islandAnswered i)]
  cases hfind : tfind t n.val <;> simp [tget, hfind]

theorem polled_first_silence {n : IslandId} (k : Nat) (hsorted : tsorted s.islands = true) (hgated : islandGated s n.val = false)
    (hst : (islandOf s n.val).st = .running) (htimeouts : (islandOf s n.val).timeouts = 0) :
    (islandOf (polled s [(n, k)]) n.val).timeouts = 1 ∧ (islandOf (polled s [(n, k)]) n.val).st = .running := by
  have hisland : islandOf { s with islands := islandsPolled [(n, k)] s.islands } n.val = islandOf s n.val := islandOf_islandsPolled_named hsorted
  rw [polled, List.filter_cons_of_pos (by simp [hgated, hst]), List.filter_nil, List.foldl_cons, List.foldl_nil, pollSilent, hisland,
    if_neg (by omega), islandOf_islandPut_self]
  exact ⟨by rw [htimeouts], hst⟩

end

/-! ### Islands that hang or stay silent -/

section
variable {s : State} {n : IslandId}

theorem exec_islandResetAnswerTimeout (hst : (islandOf s n.val).st = .inReset) (hforced : (islandOf s n.val).forced = true)
    (hpast : tbPast s.tb ((islandOf s n.val).tbReset.getD 0) 1000000 = true) :
    exec (.islandResetAnswerTimeout n) s = .next (islandEscalate s n.val) :=
  if_pos ⟨hst, hforced, hpast⟩

theorem islandEscalate_of_seat {i : Nat} (h : i < 2304) : islandEscalate s i = seatRetire s i := if_pos h

theorem islandEscalate_of_autoWarm {i : Nat} (h : 2304 ≤ i) (hauto : pget s P.autoWarmStart = 1) : islandEscalate s i = resetEntry s false 6 :=
  (if_neg (by omega)).trans (if_pos hauto)

theorem startStage_islandEscalate_of_hold {i : Nat} (h : 2304 ≤ i) (hauto : pget s P.autoWarmStart ≠ 1) : pget (islandEscalate s i) P.startStage = 6 := by
  rw [islandEscalate, if_neg (by omega), if_neg hauto]
  exact pget_pset_self _ _ _

end

/-- Settles O9: a poll by which islands are silent, a hang by its bridge, an island after its reset by what it is and by AUTO_WARM_START. -/
theorem islandRecovery : Obligations.IslandRecovery := by
  refine ⟨fun s silent h => if_pos h, fun s hstage hruns => ?_, fun s n k hstage hruns hsorted hgated hst htimeouts => ?_, fun s n k hstage hbridge hpast => ?_,
    fun s n hst hforced hpast => ⟨fun hseat => ?_, fun hn hauto => ?_, fun hn hauto => ?_⟩⟩
  · exact ⟨_, exec_healthPoll hstage hruns [], rfl, timeouts_islandsPolled_nil s.islands⟩
  · exact ⟨_, exec_healthPoll (.inl hstage) hruns [(n, k)], polled_first_silence k hsorted hgated hst htimeouts⟩
  · exact if_pos ⟨hbridge, hpast, .inl hstage⟩
  · rw [exec_islandResetAnswerTimeout hst hforced hpast, islandEscalate_of_seat hseat]
  · rw [exec_islandResetAnswerTimeout hst hforced hpast, islandEscalate_of_autoWarm hn hauto]
    exact ⟨_, rfl, startStage_startReport .., startCause_startReport .., startKind_startReport ..⟩
  · exact ⟨_, exec_islandResetAnswerTimeout hst hforced hpast, startStage_islandEscalate_of_hold hn hauto⟩

end Sys2Proof
end

section
/-! O16: the scrubs of seats and channels, and the meters of a shell. -/
namespace Sys2Proof
open Sys2Proof.Machine

/-! ### What a shell gave up and is scrubbed (02 R85) -/

/-- A shell for which a seat and a channel no longer count. -/
def shellLeft (seat chan : Nat) (sh : Shell) : Shell := { sh with leavingSeats := sDel sh.leavingSeats seat, leavingChans := sDel sh.leavingChans chan }

section
variable (s : State) (seat chan : Nat)

theorem shellOf_leaveDone (n : Nat) : shellOf (leaveDone s seat chan) n = shellLeft seat chan (shellOf s n) := by
  have hfind := tfind_map_by_key (fun _ => shellLeft seat chan) s.shells n
  change (tfind (s.shells.map fun e => (e.1, shellLeft seat chan e.2)) n).getD {} = shellLeft seat chan ((tfind s.shells n).getD {})
  rw [hfind]
  cases tfind s.shells n with
  | none => rfl
  | some sh => rfl

theorem seatShell_leaveDone (i : Nat) : seatShell (leaveDone s seat chan) i = seatShell s i := by
  unfold seatShell leaveDone
  rw [List.find?_map, Option.map_map]
  rfl

end

/-! ### SEAT_SCRUB_DONE -/

section
variable (s : State) (i : Nat)

/-- A seat outside every shell whose scrub has ended. -/
def seatScrubbed : State :=
  let s1 := seatScrub { s with scrubSeats := sDel s.scrubSeats i } i
  leaveDone (islandPut s1 i { islandOf s1 i with bridge := if (islandOf s1 i).st = .running then .opened else .closed }) i 2304

variable {s} in
theorem exec_seatScrubDone_of_pool {i : SeatId} (hscrub : s.scrubSeats.contains i.val = true) (hpool : seatShell s i.val = none) :
    exec (.seatScrubDone i) s = .next (lentSettle (seatScrubbed s i.val)) := by
  have hnone : seatShell (seatScrubbed s i.val) i.val = none := (seatShell_leaveDone ..).trans hpool
  refine (if_pos hscrub).trans ?_
  change (match seatShell (seatScrubbed s i.val) i.val with
    | some sl => Host.Outcome.next (lentSettle (releaseSettle (seatScrubbed s i.val) sl))
    | none => .next (lentSettle (seatScrubbed s i.val))) = _
  rw [hnone]

theorem not_contains_sDel {l : List Nat} : (sDel l i).contains i = false := by
  simp [sDel]

theorem seatScrubbed_spec : (seatScrubbed s i).scrubSeats.contains i = false ∧ (seatOf (seatScrubbed s i) i).mode = .idle ∧ (seatOf (seatScrubbed s i) i).pegs = 0 ∧
    (islandOf (seatScrubbed s i) i).bridge = (if (islandOf s i).st = .running then .opened else .closed) ∧
    (∀ n, (shellOf (seatScrubbed s i) n).leavingSeats = sDel (shellOf s n).leavingSeats i) ∧
    ∀ a, scratchBase i ≤ a → a < scratchBase i + scratchBytes → memGet (seatScrubbed s i) a = 0 := by
  obtain ⟨hmode, hpegs⟩ := mode_seatScrub_self { s with scrubSeats := sDel s.scrubSeats i } i
  refine ⟨not_contains_sDel i, hmode, hpegs, ?_, fun n => congrArg Shell.leavingSeats (shellOf_leaveDone _ i 2304 n), fun a hlo hhi => memGet_memZero_self _ hlo hhi⟩
  exact congrArg Island.bridge (islandOf_islandPut_self _ i _)

end

/-! ### CHANNEL_SCRUB_DONE -/

section
variable (s : State) (c : Nat)

/-- A channel that awaits no retirement and whose scrub has ended. -/
def chanScrubbed : State :=
  let s1 := memZero (leaveDone { s with scrubChans := sDel s.scrubChans c } 2304 c) (chanBase c) chanBytes
  chanPut s1 c { chanOf s1 c with poison := [], bad := [] }

theorem chanScrubbed_spec : (chanScrubbed s c).scrubChans.contains c = false ∧ (chanOf (chanScrubbed s c) c).poison = [] ∧ (chanOf (chanScrubbed s c) c).bad = [] ∧
    (∀ n, (shellOf (chanScrubbed s c) n).leavingChans = sDel (shellOf s n).leavingChans c) ∧
    ∀ a, chanBase c ≤ a → a < chanBase c + chanBytes → memGet (chanScrubbed s c) a = 0 :=
  ⟨not_contains_sDel c, congrArg Chan.poison (chanOf_chanPut_self _ _ _), congrArg Chan.bad (chanOf_chanPut_self _ _ _),
    fun n => (congrArg Shell.leavingChans (shellOf_leaveDone { s with scrubChans := sDel s.scrubChans c } 2304 c n) :), fun _ hlo hhi => memGet_memZero_self _ hlo hhi⟩

theorem rig_chanScrubbed (n : Nat) : (shellOf (chanScrubbed s c) n).rig = (shellOf s n).rig :=
  (congrArg Shell.rig (shellOf_leaveDone { s with scrubChans := sDel s.scrubChans c } 2304 c n) :)

/-- A fold over slots none of which has anything to do. -/
theorem foldl_eq_self {α : Type} {f : State → α → State} {l : List α} (h : ∀ x ∈ l, f s x = s) : l.foldl f s = s := by
  induction l with
  | nil => rfl
  | cons x l ih => rw [List.foldl_cons, h x List.mem_cons_self, ih fun y hy => h y (List.mem_cons_of_mem _ hy)]

variable {s} in
theorem exec_channelScrubDone_of_pool {c : ChanId} (hscrub : s.scrubChans.contains c.val = true) (hst : (chanOf s c.val).st ≠ .retirePending)
    (hpool : ∀ n < 32, (shellOf s n).rig.channels.contains c.val = false) :
    exec (.channelScrubDone c) s = .next (lentSettle (chanScrubbed s c.val)) := by
  refine (if_pos hscrub).trans ?_
  change Host.Outcome.next (lentSettle ((List.range 32).foldl _ (if (chanOf s c.val).st = .retirePending then _ else chanScrubbed s c.val))) = _
  rw [if_neg hst]
  refine congrArg (fun t => Host.Outcome.next (lentSettle t)) (foldl_eq_self (chanScrubbed s c.val) fun n hn => if_neg ?_)
  rw [rig_chanScrubbed, hpool n (List.mem_range.1 hn)]
  exact Bool.false_ne_true

end

/-! ### METER_TICK -/

section
variable {V : Type} {view : State → Nat → V} {f : State → Nat → State} {j : Nat} (hne : ∀ s i, j ≠ i → view (f s i) j = view s j)
include hne

/-- A fold that comes to a place once leaves it as that one step makes it. -/
theorem foldl_at_once {inv : State → Prop} {g : V → V} (hinv : ∀ s i, inv s → inv (f s i)) (hself : ∀ s, inv s → view (f s j) j = g (view s j)) {l : List Nat}
    (hl : l.Nodup) (hj : j ∈ l) {s : State} (hs : inv s) : view (l.foldl f s) j = g (view s j) := by
  induction l generalizing s with
  | nil => cases hj
  | cons i l ih =>
    obtain ⟨hi, hl⟩ := List.nodup_cons.1 hl
    rcases List.mem_cons.1 hj with rfl | hmem
    · exact (foldl_at_not_mem hne hi _).trans (hself s hs)
    · have hji : j ≠ i := fun h => hi (h ▸ hmem)
      exact (ih hl hmem (hinv s i hs)).trans (congrArg g (hne s i hji))

end

section
variable (s : State)

/-- One shell's meters a millisecond later. -/
def meterShell (s : State) (n : Nat) : State :=
  if (shellOf s n).st = .free then s
  else meterAdd (meterAdd (meterAdd s (P.meterSeatMs n) (meterUnits s (shellOf s n)).1) (P.meterChannelMs n) (meterUnits s (shellOf s n)).2.1)
    (P.meterPortMs n) (meterUnits s (shellOf s n)).2.2

/-- The three meters of a slot. -/
def meters (s : State) (n : Nat) : Nat × Nat × Nat := (pget s (P.meterSeatMs n), pget s (P.meterChannelMs n), pget s (P.meterPortMs n))

/-- The state beside its parameters. -/
def outsideRegs (s : State) : State := { s with regs := [] }

theorem outsideRegs_meterAdd (k n : Nat) : outsideRegs (meterAdd s k n) = outsideRegs s := rfl

theorem outsideRegs_meterShell (n : Nat) : outsideRegs (meterShell s n) = outsideRegs s := by
  unfold meterShell
  split
  · rfl
  · simp only [outsideRegs_meterAdd]

theorem pget_meterAdd (k n j : Nat) : pget (meterAdd s k n) j = if j = k then min (2 ^ 64 - 1) (pget s k + n) else pget s j := pget_pset ..

theorem meters_meterShell_ne {n j : Nat} (h : j ≠ n) : meters (meterShell s n) j = meters s j := by
  unfold meterShell
  split
  · rfl
  · simp only [meters, pget_meterAdd]
    rw [if_neg, if_neg, if_neg, if_neg, if_neg, if_neg, if_neg, if_neg, if_neg]
    all_goals
      simp only [P.meterSeatMs, P.meterChannelMs, P.meterPortMs, pkey]
      omega

/-- A shell's meters a millisecond later, by what counts for it. -/
def metersNext (s : State) (n : Nat) (m : Nat × Nat × Nat) : Nat × Nat × Nat :=
  if (shellOf s n).st = .free then m
  else
    let k := meterUnits s (shellOf s n)
    (min (2 ^ 64 - 1) (m.1 + k.1), min (2 ^ 64 - 1) (m.2.1 + k.2.1), min (2 ^ 64 - 1) (m.2.2 + k.2.2))

theorem meters_meterShell_self (n : Nat) : meters (meterShell s n) n = metersNext s n (meters s n) := by
  unfold meterShell metersNext
  split
  · rfl
  · have hkeys : P.meterSeatMs n ≠ P.meterChannelMs n ∧ P.meterSeatMs n ≠ P.meterPortMs n ∧ P.meterChannelMs n ≠ P.meterPortMs n := by
      simp [P.meterSeatMs, P.meterChannelMs, P.meterPortMs, pkey]
    obtain ⟨hsc, hsp, hcp⟩ := hkeys
    simp only [meters, pget_meterAdd, hsc, hsp, hcp, hsc.symm, hsp.symm, hcp.symm, if_true, if_false]

variable {s} in
theorem exec_meterTick (hmsf : s.start.msf = true) : exec .meterTick s = .next ((List.range 32).foldl meterShell s) := if_pos hmsf

theorem outsideRegs_meterTick : outsideRegs ((List.range 32).foldl meterShell s) = outsideRegs s := foldl_keeps outsideRegs outsideRegs_meterShell _ s

theorem eq_of_outsideRegs {s t : State} (h : outsideRegs t = outsideRegs s) : t = { s with regs := t.regs } :=
  (congrArg (fun u => { u with regs := t.regs }) h :)

theorem metersNext_of_outsideRegs {t : State} (h : outsideRegs t = outsideRegs s) (n : Nat) (m : Nat × Nat × Nat) : metersNext t n m = metersNext s n m :=
  (congrArg (fun u => metersNext u n m) h :)

theorem meters_meterTick {n : Nat} (hn : n < 32) : meters ((List.range 32).foldl meterShell s) n = metersNext s n (meters s n) := by
  exact foldl_at_once (view := meters) (f := meterShell) (inv := fun t => outsideRegs t = outsideRegs s) (fun t i => meters_meterShell_ne t)
    (fun t i ht => (outsideRegs_meterShell t i).trans ht) (fun t ht => (meters_meterShell_self t n).trans (metersNext_of_outsideRegs s ht n _))
    List.nodup_range (List.mem_range.2 hn) rfl

end

/-- Settles O16: a seat and a channel of the pool by the state their scrub leaves, the meters slot by slot. -/
theorem scrubsAndMeters : Obligations.ScrubsAndMeters := by
  refine ⟨fun s i hscrub hpool => ⟨_, exec_seatScrubDone_of_pool hscrub hpool, seatScrubbed_spec s i.val⟩,
    fun s c hscrub hst hpool => ⟨_, exec_channelScrubDone_of_pool hscrub hst hpool, chanScrubbed_spec s c.val⟩,
    fun s hmsf => ⟨_, exec_meterTick hmsf, eq_of_outsideRegs (outsideRegs_meterTick s), fun n hn => ?_⟩, fun s sh => ⟨fun h => if_neg h, fun h => if_pos h⟩⟩
  have hmeters := meters_meterTick s hn
  generalize (List.range 32).foldl meterShell s = t at hmeters
  simp only [meters, metersNext] at hmeters
  refine ⟨fun hfree => ?_, fun hused => ?_⟩
  · rw [if_pos hfree] at hmeters
    exact (Prod.mk.inj hmeters).1
  · rw [if_neg hused] at hmeters
    obtain ⟨hseat, hrest⟩ := Prod.mk.inj hmeters
    exact ⟨hseat, Prod.mk.inj hrest⟩

end Sys2Proof
end

section
/-! O14: the copy of a migrated granule (02 R72 to R75). -/
namespace Sys2Proof
open Sys2Proof.Machine

/-! ### Bytes that are taken from a span and stored elsewhere -/

/-- The entries of a span of a table, by offset. -/
def spanOf (t : Tbl Byte) (a n : Nat) : Tbl Byte := (t.filter (fun e => decide (a ≤ e.1) && decide (e.1 < a + n))).map (fun e => (e.1 - a, e.2))

theorem memSparse_eq_spanOf (s : State) (a n : Nat) : memSparse s a n = spanOf s.mem a n := rfl

theorem spanOf_cons (t : Tbl Byte) (a n j : Nat) (w : Byte) :
    spanOf ((j, w) :: t) a n = if a ≤ j ∧ j < a + n then (j - a, w) :: spanOf t a n else spanOf t a n := by
  unfold spanOf
  split
  next h => rw [List.filter_cons_of_pos (by simpa using h), List.map_cons]
  next h => rw [List.filter_cons_of_neg (by simpa using h)]

theorem tfind_spanOf (t : Tbl Byte) (a n i : Nat) : tfind (spanOf t a n) i = if i < n then tfind t (a + i) else none := by
  induction t with
  | nil => simp [spanOf, tfind]
  | cons e t ih =>
    obtain ⟨j, w⟩ := e
    rw [spanOf_cons]
    by_cases hj : a ≤ j ∧ j < a + n
    · rw [if_pos hj, tfind, tfind, ih]
      by_cases hi : j - a = i
      · rw [if_pos hi, if_pos (by omega), if_pos (by omega)]
      · rw [if_neg hi]
        split
        · rw [if_neg (by omega)]
        · rfl
    · rw [if_neg hj, ih, tfind]
      split
      · rw [if_neg (by omega)]
      · rfl

theorem keysRise_spanOf {t : Tbl Byte} (h : keysRise t) (a n : Nat) : keysRise (spanOf t a n) := by
  induction t with
  | nil => trivial
  | cons e t ih =>
    obtain ⟨j, w⟩ := e
    obtain ⟨hlt, hrise⟩ := h
    rw [spanOf_cons]
    split
    next hj =>
      refine ⟨fun x hx => ?_, ih hrise⟩
      simp only [spanOf, List.mem_map, List.mem_filter] at hx
      obtain ⟨y, ⟨hy, -⟩, rfl⟩ := hx
      have := hlt y hy
      simp only
      omega
    next => exact ih hrise

/-- A table that listed bytes are put into, at offsets from `b`. -/
theorem tget_foldl_tset_offset {l : Tbl Byte} (h : keysRise l) (t : Tbl Byte) (b a : Nat) :
    tget memDefault (l.foldl (fun t e => tset memDefault t (b + e.1) e.2) t) a = if b ≤ a then (tfind l (a - b)).getD (tget memDefault t a) else tget memDefault t a := by
  induction l generalizing t with
  | nil => simp [tfind]
  | cons e l ih =>
    obtain ⟨j, w⟩ := e
    obtain ⟨hlt, hrise⟩ := h
    rw [List.foldl_cons, ih hrise, tget_tset, tfind]
    by_cases hb : b ≤ a
    · rw [if_pos hb, if_pos hb]
      by_cases hj : j = a - b
      · rw [if_pos hj, if_pos (by omega), tfind_eq_none fun x hx => (hj ▸ hlt x hx).ne']
        rfl
      · rw [if_neg hj, if_neg (by omega)]
    · rw [if_neg hb, if_neg hb, if_neg (by omega)]

/-- A span that is zeroed and filled from another one reads as that one did, and every other byte as before. -/
theorem memGet_memLoad_memSparse {s : State} (h : Memory.wf s = true) (t : State) (src dst n a : Nat) :
    memGet (memLoad (memZero t dst n) dst (memSparse s src n)) a = if dst ≤ a ∧ a < dst + n then memGet s (src + (a - dst)) else memGet t a := by
  have hrise : keysRise (spanOf s.mem src n) := keysRise_spanOf ((twf_iff _ _).1 h).1 src n
  change tget memDefault ((spanOf s.mem src n).foldl _ (memZero t dst n).mem) a = _
  rw [tget_foldl_tset_offset hrise, tfind_spanOf]
  change (if dst ≤ a then Option.getD _ (memGet (memZero t dst n) a) else memGet (memZero t dst n) a) = _
  rw [memGet_memZero]
  by_cases hlo : dst ≤ a
  · by_cases hhi : a < dst + n
    · rw [if_pos hlo, if_pos (by omega), if_pos ⟨hlo, hhi⟩, if_pos ⟨hlo, hhi⟩]
      rfl
    · rw [if_pos hlo, if_neg (by omega), if_neg (by omega), if_neg (by omega)]
      rfl
  · rw [if_neg hlo, if_neg (by omega), if_neg (by omega)]

/-! ### MIGRATION_GRANULE_COPIED -/

section
variable {s : State} {n : Slot} {k : Fin 96} {m : Migration}

theorem migGroup_of_clear {migs : List Migration} (h : ∀ x ∈ migs, x.src ≠ m.dst) (i : Nat) : migGroup migs i m = [m] := by
  cases i with
  | zero => rfl
  | succ i =>
    have hnone : (migs.filter (fun x => x.lch != m.lch)).find? (fun x => x.src == m.dst && x.copied == m.copied && !x.done) = none := by
      refine List.find?_eq_none.2 fun x hx => ?_
      simp [h x (List.mem_of_mem_filter hx)]
    rw [migGroup, hnone]

theorem linesMoves_mem (s : State) (slot : Nat) (spans : List (Nat × Nat × Nat)) : { linesMoves s slot spans with seats := [] } = { s with seats := [] } := by
  unfold linesMoves
  refine foldl_keeps (fun t : State => { t with seats := [] }) (fun t i => ?_) _ s
  dsimp only
  split
  · rfl
  · rfl

/-- The migrations of a shell after the next granule of logical channel `k` has been copied. -/
def migsCopied (k : Nat) (migs : List Migration) : List Migration :=
  migs.map (fun x => if x.lch = k then { x with copied := x.copied + 1, done := decide (x.copied + 1 ≥ chanBytes / 65536) } else x)

/-- The state in which the next granule of migration `m` has been copied, before what waits for it goes on. -/
def granuleCopied (s : State) (n : Nat) (m : Migration) : State :=
  let s2 := linesMoves (migCopy s s m) n [(chanBase m.src + m.copied * 65536, chanBase m.dst + m.copied * 65536, 65536)]
  shellPut s2 n { shellOf s2 n with migs := migsCopied m.lch (shellOf s2 n).migs }

theorem exec_migrationGranuleCopied_of_waits (hfind : (shellOf s n.val).migs.find? (fun x => x.lch == k.val && !x.done) = some m)
    (hwaits : (migGroup (shellOf s n.val).migs 96 m).all (migMay s n.val) = false) : exec (.migrationGranuleCopied n k) s = .next s := by
  change execMigrationGranuleCopied n k s = _
  rw [execMigrationGranuleCopied]
  simp only [hfind]
  exact if_pos (by simp [hwaits])

theorem exec_migrationGranuleCopied_of_clear (hfind : (shellOf s n.val).migs.find? (fun x => x.lch == k.val && !x.done) = some m)
    (hclear : ∀ x ∈ (shellOf s n.val).migs, x.src ≠ m.dst) (hmay : migMay s n.val m = true) :
    exec (.migrationGranuleCopied n k) s = .next (preemptTry (migSettle (granuleCopied s n.val m) n.val) n.val) := by
  change execMigrationGranuleCopied n k s = _
  rw [execMigrationGranuleCopied]
  simp only [hfind, migGroup_of_clear hclear]
  rw [if_neg (by simp [hmay])]
  have hon (l : List Migration) : l.map (fun x => if [m].any (fun y => y.lch == x.lch) then
      { x with copied := x.copied + 1, done := decide (x.copied + 1 ≥ chanBytes / 65536) } else x) = migsCopied m.lch l := by
    refine List.map_congr_left fun x _ => ?_
    by_cases h : x.lch = m.lch
    · simp [h]
    · simp [h, Ne.symm h]
  rw [hon]
  rfl

theorem granuleCopied_spec (hwf : Memory.wf s = true) (n : Nat) (m : Migration) :
    (∀ a, memGet (granuleCopied s n m) a = if chanBase m.dst + m.copied * 65536 ≤ a ∧ a < chanBase m.dst + m.copied * 65536 + 65536
      then memGet s (chanBase m.src + m.copied * 65536 + (a - (chanBase m.dst + m.copied * 65536))) else memGet s a) ∧
    (shellOf (granuleCopied s n m) n).migs = migsCopied m.lch (shellOf s n).migs := by
  have hlines := linesMoves_mem (migCopy s s m) n [(chanBase m.src + m.copied * 65536, chanBase m.dst + m.copied * 65536, 65536)]
  refine ⟨fun a => ?_, ?_⟩
  · exact (congrArg (fun t => memGet t a) hlines :).trans (memGet_memLoad_memSparse hwf s _ _ _ _)
  · exact (congrArg Shell.migs (shellOf_shellPut_self _ _ _)).trans (congrArg (fun t : State => migsCopied m.lch (shellOf t n).migs) hlines :)

end

/-- Settles O14: a group that may not be made by its check, the granule of a migration that nothing follows by the span it fills. -/
theorem migrationCopies : Obligations.MigrationCopies := by
  refine fun s n k m hwf hfind => ⟨exec_migrationGranuleCopied_of_waits hfind, fun hclear hmay => ?_⟩
  obtain ⟨hmem, hmigs⟩ := granuleCopied_spec hwf n.val m
  have hlch : m.lch = k.val := by
    have := List.find?_some hfind
    simp only [Bool.and_eq_true, beq_iff_eq] at this
    exact this.1
  refine ⟨_, exec_migrationGranuleCopied_of_clear hfind hclear hmay, fun a hlo hhi => ?_, fun a hout => ?_, by rw [hmigs, hlch]; rfl⟩
  · rw [hmem, if_pos ⟨hlo, hhi⟩]
  · rw [hmem, if_neg (by omega)]

end Sys2Proof
end

section
/-! O12, O13: the rigging transaction, and the seats of a seat change. -/
namespace Sys2Proof
open Sys2Proof.Machine

/-! ### A transaction that ends refused (02 Table Shells-5) -/

section
variable (s : State) (n code : Nat)

theorem rigStatus_ne_rigResult (n : Nat) : P.rigResult n ≠ P.rigStatus n := by
  simp [P.rigResult, P.rigStatus, pkey]

/-- What a refused commit leaves: its code, a QUIET transaction, and a staging that shows the active rigging. -/
structure RigRefused (s t : State) (n code : Nat) : Prop where
  result : pget t (P.rigResult n) = code
  status : pget t (P.rigStatus n) = 0
  commit : (shellOf t n).commit = none
  staging : (shellOf t n).staging = rigShown (shellOf t n).rig
  rig : (shellOf t n).rig = (shellOf s n).rig

theorem shellOf_stagingReload : shellOf (stagingReload s n) n = { shellOf s n with staging := rigShown (shellOf s n).rig } :=
  shellOf_shellPut_self _ _ _

theorem shellOf_rigRefuse : shellOf (rigRefuse s n code) n =
    { shellOf s n with commit := none, applying := false, staging := rigShown (shellOf s n).rig } := by
  simp only [rigRefuse, shellOf_stagingReload, shellOf_shellPut_self, shellOf_of_pset]

theorem pget_rigRefuse (k : Nat) : pget (rigRefuse s n code) k = if k = P.rigStatus n then 0 else if k = P.rigResult n then code else pget s k := by
  change pget (pset (pset s _ _) _ _) k = _
  rw [pget_pset, pget_pset]

theorem rigRefuse_refused : RigRefused s (rigRefuse s n code) n code where
  result := by rw [pget_rigRefuse, if_neg (rigStatus_ne_rigResult n), if_pos rfl]
  status := by rw [pget_rigRefuse, if_pos rfl]
  commit := by rw [shellOf_rigRefuse]
  staging := by rw [shellOf_rigRefuse]
  rig := by rw [shellOf_rigRefuse]

/-- Of a QUIET transaction only a shell reset or a freeze can wait for the migrations of its shell. -/
theorem migSettle_of_quiet (hstatus : pget s (P.rigStatus n) = 0) : migSettle s n = s ∨ migSettle s n = resetEnter s n ∨ migSettle s n = freezeEnter s n := by
  unfold migSettle
  extract_lets s1 sh s2 sh2
  have h1 : s1 = s := if_neg fun h => by omega
  have h2 : s2 = s := (if_neg fun h => by rw [h1] at h; omega).trans h1
  rw [h2]
  split
  · exact .inl rfl
  · split
    · exact .inr (.inl rfl)
    · split
      · exact .inr (.inr rfl)
      · exact .inl rfl

variable {s n code} in
theorem RigRefused.migSettle {t : State} (h : RigRefused s t n code) : RigRefused s (migSettle t n) n code := by
  rcases migSettle_of_quiet t n h.status with ht | ht | ht
  · rwa [ht]
  · rw [ht, resetEnter]
    exact ⟨h.result, h.status, by simpa using h.commit, by simpa using h.staging, by simpa using h.rig⟩
  · rw [ht, freezeEnter]
    exact ⟨h.result, h.status, by simpa using h.commit, by simpa using h.staging, by simpa using h.rig⟩

theorem rigUndo_refused : ∃ u, RigRefused u (rigUndo s n code) n code := ⟨_, (rigRefuse_refused _ n code).migSettle⟩

end

/-! ### RIG_COMMIT and its check (02 R53 to R60) -/

section
variable {s : State} {n : Slot}

theorem exec_rigCommit (hup : fullUp s = true) (k : Bool) : exec (.rigCommit n k) s = .next (rigCommitWrite leaseAsk s n.val 1 k).1 := if_pos hup
theorem exec_rigCancel (hup : fullUp s = true) : exec (.rigCancel n) s = .next (rigCommitWrite leaseAsk s n.val 2 false).1 := if_pos hup

theorem rigCommitWrite_of_busy {ask : State → Nat → State} {slot : Nat} {k : Bool} (h : pget s (P.rigStatus slot) ≠ 0 ∨ (shellOf s slot).migs ≠ []) :
    rigCommitWrite ask s slot 1 k = (s, 0x0114) := by
  rw [rigCommitWrite, if_pos rfl, if_pos h]

theorem rigCommitWrite_of_repeated {ask : State → Nat → State} {slot : Nat} {k : Bool} (hst : pget s (P.rigStatus slot) = 0) (hmigs : (shellOf s slot).migs = [])
    (h : pget s P.compositionMode ≠ 1 ∧ (shellOf s slot).st ≠ .free ∧ (shellOf s slot).lastRigSeq = some (stagedGet s (P.rigSeq slot))) :
    rigCommitWrite ask s slot 1 k = (s, 0) := by
  rw [rigCommitWrite, if_pos rfl, if_neg (by simp [hst, hmigs]), if_pos h]

theorem rigCommitWrite_of_new {ask : State → Nat → State} {slot : Nat} {k : Bool} (hst : pget s (P.rigStatus slot) = 0) (hmigs : (shellOf s slot).migs = [])
    (h : ¬ (pget s P.compositionMode ≠ 1 ∧ (shellOf s slot).st ≠ .free ∧ (shellOf s slot).lastRigSeq = some (stagedGet s (P.rigSeq slot)))) :
    rigCommitWrite ask s slot 1 k =
      (((stagedCommit s slot k).rig.leases.filter (fun r => !s.borrowed.any (fun l => l.record / 2 ^ 208 == r / 2 ^ 208 && l.st == 3 && l.slot == some slot))).foldl ask
        (pset (shellPut s slot { shellOf s slot with commit := some (stagedCommit s slot k) }) (P.rigStatus slot) 1), 0) := by
  rw [rigCommitWrite, if_pos rfl, if_neg (by simp [hst, hmigs]), if_neg h]

theorem rigRollback_of_latched {slot code : Nat} (h : pget s (P.rigStatus slot) = 2) : rigRollback s slot code = rigUndo s slot code := if_pos h

theorem exec_rigCancel_of_quiet (hup : fullUp s = true) (hmode : pget s P.compositionMode ≠ 1) (hst : pget s (P.rigStatus n.val) = 0) :
    exec (.rigCancel n) s = .next s := by
  rw [exec_rigCancel hup, rigCommitWrite, if_neg (by decide), if_pos rfl, if_neg (by omega), if_neg hmode, if_pos hst]

theorem exec_rigCancel_of_latched (hup : fullUp s = true) (hmode : pget s P.compositionMode ≠ 1) (hst : pget s (P.rigStatus n.val) = 2) :
    exec (.rigCancel n) s = .next (latchSettle (rigUndo s n.val 0x011C) n.val) := by
  rw [exec_rigCancel hup, rigCommitWrite, if_neg (by decide), if_pos rfl, if_neg (by omega), if_neg hmode, if_neg (by omega), if_pos hst,
    rigRollback_of_latched hst]

theorem exec_rigCheckDone (hst : pget s (P.rigStatus n.val) = 1) : exec (.rigCheckDone n) s = .next (shellSelect (rigDecide s n.val) n.val) := if_pos hst

variable {m : Commit} {slot : Nat} (hcommit : (shellOf s slot).commit = some m)
include hcommit

theorem rigDecide_of_refused (hcode : commitCheck s slot m false ≠ 0) :
    rigDecide s slot = capacitySettle (rigRefuse s slot (commitCheck s slot m false)) := by
  simp only [rigDecide, hcommit]
  rw [if_pos hcode]

theorem rigDecide_of_release (hcode : commitCheck s slot m false = 0) (hcount : m.seatCount = 0) :
    rigDecide s slot = capacitySettle (releaseBegin (rigQuiet (shellPut s slot { shellOf s slot with lastRigSeq := some m.rigSeq }) slot) slot) := by
  simp only [rigDecide, hcommit]
  rw [if_neg (by simp [hcode]), if_pos hcount]

/-- The commit that a check latches at the next catch number. -/
def commitLatched (s : State) (slot : Nat) (m : Commit) : Commit :=
  { m with rig := { m.rig with seats := resolvedSeats s slot m }, atCatch := some (maxCatch s slot + 1), tbLatch := s.tb }

theorem rigDecide_of_latched (hcode : commitCheck s slot m false = 0) (hcount : m.seatCount ≠ 0) (hst : (shellOf s slot).st = .running)
    (hseats : resolvedSeats s slot m ≠ (shellOf s slot).rig.seats) :
    rigDecide s slot = capacitySettle (preemptTry (pset (shellPut s slot { shellOf s slot with
      commit := some (commitLatched s slot m), lastRigSeq := some m.rigSeq, migs := newMigrations (shellOf s slot).rig.channels m.rig.channels })
      (P.rigStatus slot) 2) slot) := by
  simp only [rigDecide, hcommit]
  rw [if_neg (by simp [hcode]), if_neg hcount, if_pos ⟨hst, hseats⟩]
  rfl

theorem rigDecide_of_applied (hcode : commitCheck s slot m false = 0) (hcount : m.seatCount ≠ 0)
    (h : (shellOf s slot).st ≠ .running ∨ resolvedSeats s slot m = (shellOf s slot).rig.seats) :
    rigDecide s slot = capacitySettle (rigApply (pset s (P.rigResult slot) 0) slot { m with rig := { m.rig with seats := resolvedSeats s slot m } }) := by
  simp only [rigDecide, hcommit]
  rw [if_neg (by simp [hcode]), if_neg hcount, if_neg (by tauto)]

end

theorem releaseBegin_releases (s : State) (n : Nat) : (shellOf (releaseBegin s n) n).st = .releasing ∧ (shellOf (releaseBegin s n) n).migs = [] := by
  unfold releaseBegin
  extract_lets _ sh s1
  generalize hsh : ({ shellOf s1 n with st := ShellSt.releasing, migs := [], commit := none, rig := { sh.rig with ports := [], leases := [] }, joined := [] } : Shell) = sh1
  have hshell : shellOf (slicesDrop (leasesDrop (shellPut s1 n sh1) n []) (fun _ o => o == n)) n = sh1 := shellOf_shellPut_self s1 n sh1
  rw [hshell, ← hsh]
  exact ⟨rfl, rfl⟩

/-- Settles O12: a commit and a cancel by the state of the transaction, a check by its code and by whether the seats change, a deadline by the roll-back. -/
theorem rigTransaction : Obligations.RigTransaction := by
  refine ⟨fun s n k hup => ⟨fun hst hmigs => ⟨fun hnew => ?_, fun hmode hfree hseq => ?_⟩, fun hbusy => ?_⟩,
    fun s n hup hmode => ⟨exec_rigCancel_of_quiet hup hmode, fun hst => ?_⟩,
    fun s n m hst hcommit => ⟨fun hcode => ?_, fun hcode hcount => ?_, fun hcode hcount => ⟨fun hrun hseats => ?_, fun happly => ?_⟩⟩, fun s n m hst hcommit hpast => ?_⟩
  · rw [exec_rigCommit hup, rigCommitWrite_of_new hst hmigs (by tauto)]
  · rw [exec_rigCommit hup, rigCommitWrite_of_repeated hst hmigs ⟨hmode, hfree, hseq⟩]
  · rw [exec_rigCommit hup, rigCommitWrite_of_busy hbusy]
  · obtain ⟨u, hundo⟩ := rigUndo_refused s n.val 0x011C
    exact ⟨_, exec_rigCancel_of_latched hup hmode hst, hundo.result, hundo.status, hundo.commit, hundo.staging⟩
  · have h := rigRefuse_refused s n.val (commitCheck s n.val m false)
    refine ⟨_, (exec_rigCheckDone hst).trans (by rw [rigDecide_of_refused hcommit hcode]), h.result, h.status, h.commit, ?_, h.rig, by rw [shellOf_rigRefuse]⟩
    rw [h.staging, h.rig]
  · exact ⟨_, (exec_rigCheckDone hst).trans (by rw [rigDecide_of_release hcommit hcode hcount]), releaseBegin_releases _ _⟩
  · refine ⟨_, (exec_rigCheckDone hst).trans (by rw [rigDecide_of_latched hcommit hcode hcount hrun hseats]), pget_pset_self _ _ _, ?_⟩
    rw [shellOf_of_pset, shellOf_shellPut_self]
    exact ⟨rfl, _, rfl, rfl, rfl, rfl⟩
  · rw [exec_rigCheckDone hst, rigDecide_of_applied hcommit hcode hcount happly]
  · obtain ⟨u, hundo⟩ := rigUndo_refused s n.val (if m.catchRefused then 0x0118 else 0x0113)
    refine ⟨rigUndo s n.val (if m.catchRefused then 0x0118 else 0x0113), ?_, hundo.result, hundo.status, hundo.commit⟩
    change execCatchDeadlineExpiry n s = _
    simp only [execCatchDeadlineExpiry, hcommit]
    rw [if_pos ⟨hst, hpast⟩, rigRollback_of_latched hst]

end Sys2Proof
end

section
/-! O13: the seats of a seat change. -/
namespace Sys2Proof
open Sys2Proof.Machine

/-! ### SEAT_CATCH_DRAINED (02 R63, 05 R186) -/

section
variable (s : State) (i : Nat)

theorem dirty_of_mem_seatFlush {l : DLine} (hl : l ∈ (seatOf (seatFlush s i) i).core.dcache) : l.dirty = false := by
  simp only [seatFlush, seatOf_seatPut_self, List.mem_map] at hl
  obtain ⟨_, -, rfl⟩ := hl
  rfl

/-- A seat that has drained at its CATCH and written its lines back. -/
def caughtAt : State :=
  corePut (seatFlush s i) i (coreWait (seatFlush s i) (seatOf (seatFlush s i) i).core .catchHeld)

theorem seatDrained_of_empty {t : Seat} (hqueue : t.arr.queue = []) (hflight : t.arr.flight = []) (hxfers : xferOpen t = 0) (hstores : t.core.stores = []) :
    seatDrained t = true := by
  simp [seatDrained, hqueue, hflight, hxfers, hstores]

variable {s} {i : SeatId}

theorem exec_seatCatchDrained (hmode : (seatOf s i.val).mode = .run) (hwait : (seatOf s i.val).core.wait = .catchDrain) (hdrained : seatDrained (seatOf s i.val) = true) :
    exec (.seatCatchDrained i) s = match seatShell (caughtAt s i.val) i.val with
      | some sl => .next (preemptTry (caughtAt s i.val) sl)
      | none => .next (lentReport (caughtAt s i.val) i.val
          (.caught (BitVec.ofNat 64 (seatOf (seatFlush s i.val) i.val).core.reached) (BitVec.ofNat 64 (seatOf (seatFlush s i.val) i.val).core.catchDesc))) :=
  if_pos ⟨hmode, hwait, hdrained⟩

end

/-! ### SEAT_COPY_DONE and SEAT_COPY_FAULT (02 R66, R67, R71) -/

section
variable {s : State} {n : Slot}

theorem exec_seatCopyDone {m : Commit} (hcommit : (shellOf s n.val).commit = some m) (happlying : (shellOf s n.val).applying = true)
    (hstatus : pget s (P.rigStatus n.val) = 3) : exec (.seatCopyDone n) s =
      .next (shellSelect (if allCaught (rigTake s n.val m) n.val then catchPoint (rigTake s n.val m) n.val else rigTake s n.val m) n.val) := by
  change execSeatCopyDone n s = _
  simp only [execSeatCopyDone, hcommit]
  rw [if_pos ⟨happlying, hstatus⟩]

/-- The state in which a seat that failed its copy is retired, before the record of its retirement. -/
def copyRetired (w : State) (i : Nat) : State :=
  islandPut { w with retiredSeats := sAdd w.retiredSeats i } i { islandOf w i with st := .retired, bridge := bridgeClosing (islandOf w i).bridge }

theorem bridgeClosing_ne_opened (b : BridgeState) : bridgeClosing b ≠ .opened := by
  cases b <;> exact nofun

theorem copyRetired_spec (w : State) (i : Nat) : copyRetired w i = { w with retiredSeats := sAdd w.retiredSeats i, islands := (copyRetired w i).islands } ∧
    (islandOf (copyRetired w i) i).st = .retired ∧ (islandOf (copyRetired w i) i).bridge ≠ .opened := by
  have hisland : islandOf (copyRetired w i) i = { islandOf w i with st := .retired, bridge := bridgeClosing (islandOf w i).bridge } := islandOf_islandPut_self _ _ _
  rw [hisland]
  exact ⟨rfl, rfl, bridgeClosing_ne_opened _⟩

theorem exec_seatCopyFault_of_source (happlying : (shellOf s n.val).applying = true) (i : SeatId) : exec (.seatCopyFault n i true) s =
    .next (safetyEvent (mechCount (windowsLocal (rigUndo s n.val 0x011D) n.val) 4) n.val 4 0x02 none { island := i.val }) := by
  change execSeatCopyFault n i true s = _
  rw [execSeatCopyFault, if_neg (by simp [happlying])]
  exact if_pos rfl

theorem exec_seatCopyFault_of_destination (happlying : (shellOf s n.val).applying = true) (i : SeatId) : exec (.seatCopyFault n i false) s =
    .next (latchSettle (fileError (copyRetired (windowsLocal (rigUndo s n.val 0x011D) n.val) i.val) false
      { kind := 0x0D, scope := 0, island := i.val, detail0 := seatIdent i.val }) n.val) := by
  change execSeatCopyFault n i false s = _
  rw [execSeatCopyFault, if_neg (by simp [happlying])]
  exact if_neg Bool.false_ne_true

end

/-- Settles O13: a drained seat by whose seat it is, the end of the copies by whether every seat stands at its CATCH, a failed copy by the side that failed. -/
theorem seatChange : Obligations.SeatChange := by
  refine ⟨fun s i hmode hwait hqueue hflight hxfers hstores => ?_, fun s n m hcommit happlying hstatus => ⟨fun hcaught => ?_, fun hcaught => ?_⟩, fun s n => ?_,
    fun s n i happlying => ⟨exec_seatCopyFault_of_source happlying i, ?_⟩⟩
  · have hexec := exec_seatCatchDrained hmode hwait (seatDrained_of_empty hqueue hflight hxfers hstores)
    refine ⟨fun sl hsl => ?_, fun hnone => ?_, ?_, fun l hl => ?_⟩
    · exact hexec.trans (by rw [caughtAt, hsl])
    · exact hexec.trans (by rw [caughtAt, hnone])
    · rw [core_corePut]
      rfl
    · rw [core_corePut] at hl
      exact dirty_of_mem_seatFlush s i.val hl
  · rw [exec_seatCopyDone hcommit happlying hstatus, if_pos hcaught]
  · rw [exec_seatCopyDone hcommit happlying hstatus, if_neg (by simp [hcaught])]
  · obtain ⟨u, hundo⟩ := rigUndo_refused s n.val 0x011D
    exact ⟨hundo.result, hundo.status⟩
  · exact ⟨_, exec_seatCopyFault_of_destination happlying i, copyRetired_spec _ i.val⟩

end Sys2Proof
end

section
/-! O15: freeze, save, thaw, load and restore. -/
namespace Sys2Proof
open Sys2Proof.Machine

/-! ### What every FREEZE_CTL write meets first (02 R49, R53, R82) -/

section
variable {s : State} {n : Slot}

theorem exec_freezeCtlFreeze_of_up (hup : fullUp s = true) : exec (.freezeCtlFreeze n) s = .next (freezeStart s n.val) := if_pos hup
theorem exec_freezeCtlSave_of_up (hup : fullUp s = true) : exec (.freezeCtlSave n) s = .next (freezeSave s n.val) := if_pos hup
theorem exec_freezeCtlThaw_of_up (hup : fullUp s = true) : exec (.freezeCtlThaw n) s = .next (freezeThaw s n.val) := if_pos hup
theorem exec_freezeCtlLoadImage_of_up (hup : fullUp s = true) : exec (.freezeCtlLoadImage n) s = .next (freezeLoad s n.val) := if_pos hup

theorem ite_next_self {c : Prop} [Decidable c] {t : State} (h : t = s) : (if c then (.next t : Ans) else .next s) = .next s := by
  rw [h, ite_self]

variable {slot v : Nat} {f : State → State}

theorem freezeCtl_of_checking (h : pget s (P.rigStatus slot) = 1) : freezeCtl s slot v f = s := if_pos h

theorem freezeCtl_of_s1 (h : pget s (P.rigStatus slot) ≠ 1) (hmode : pget s P.compositionMode = 1) :
    freezeCtl s slot v f = pset s (P.freezeResult slot) 0x0115 :=
  (if_neg h).trans (if_pos hmode)

theorem freezeCtl_of_free (h : pget s (P.rigStatus slot) ≠ 1) (hmode : pget s P.compositionMode ≠ 1) (hst : (shellOf s slot).st = .free) :
    freezeCtl s slot v f = pset s (P.freezeResult slot) 0x0101 :=
  (if_neg h).trans ((if_neg hmode).trans (if_pos hst))

theorem freezeCtl_of_used (h : pget s (P.rigStatus slot) ≠ 1) (hmode : pget s P.compositionMode ≠ 1) (hst : (shellOf s slot).st ≠ .free) :
    freezeCtl s slot v f = f (pset s (P.freezeCtl slot) v) :=
  (if_neg h).trans ((if_neg hmode).trans (if_neg hst))

/-- A write of FREEZE_CTL changes no parameter but itself. -/
theorem pget_freezeCtl_ne {k : Nat} (h : k ≠ P.freezeCtl slot) : pget (pset s (P.freezeCtl slot) v) k = pget s k := pget_pset_ne _ _ _ _ h

theorem imageTarget_ne_freezeCtl : P.imageTarget slot ≠ P.freezeCtl slot := by
  simp [P.imageTarget, P.freezeCtl, pkey]

theorem saveBytes_freezeCtl : saveBytes (pset s (P.freezeCtl slot) v) slot = saveBytes s slot := by
  have hflags : P.imageFlags slot ≠ P.freezeCtl slot := by simp [P.imageFlags, P.freezeCtl, pkey]
  rw [saveBytes, pget_freezeCtl_ne hflags]
  rfl

theorem cxlRangeState_ne_freezeCtl {i : Nat} (hi : i < 16) (hslot : slot < 32) : P.cxlRangeState i ≠ P.freezeCtl slot := by
  simp only [P.cxlRangeState, P.freezeCtl, pkey]
  omega

theorem imageSpanOk_freezeCtl (hslot : slot < 32) (ga m : Nat) : imageSpanOk (pset s (P.freezeCtl slot) v) ga m = imageSpanOk s ga m := by
  have hrange (a : Nat) : rangeAt (pset s (P.freezeCtl slot) v) a = rangeAt s a := rfl
  unfold imageSpanOk
  rw [hrange, hrange]
  cases hat : rangeAt s ga with
  | none => rfl
  | some i =>
    have hi : i < 16 := List.mem_range.1 (List.mem_of_find?_eq_some hat)
    simp only [pget_freezeCtl_ne (cxlRangeState_ne_freezeCtl hi hslot)]
    rfl

end

/-! ### A freeze (02 R77) -/

/-- The state beside its parameters and its shells. -/
def outsideShells (s : State) : State := { s with regs := [], shells := [] }

theorem outsideShells_pset (s : State) (k v : Nat) : outsideShells (pset s k v) = outsideShells s := rfl
theorem outsideShells_freezeEnter (s : State) (n : Nat) : outsideShells (freezeEnter s n) = outsideShells s := rfl

theorem eq_of_outsideShells {s t : State} (h : outsideShells t = outsideShells s) : t = { s with regs := t.regs, shells := t.shells } :=
  (congrArg (fun u => { u with regs := t.regs, shells := t.shells }) h :)

section
variable {s : State} {slot : Nat} (h : pget s (P.rigStatus slot) ≠ 1) (hmode : pget s P.compositionMode ≠ 1)
include h hmode

theorem freezeStart_of_idle (hst : (shellOf s slot).st = .idle) (hmigs : (shellOf s slot).migs = []) :
    freezeStart s slot = freezeEnter (pset (pset s (P.freezeCtl slot) 1) (P.freezeResult slot) 0) slot := by
  rw [freezeStart, freezeCtl_of_used h hmode (by simp [hst])]
  simp only [shellOf_of_pset, hst, hmigs]
  rfl

theorem freezeStart_of_running (hst : (shellOf s slot).st = .running) (hlatch : (shellOf s slot).freezeLatch = false) (hjob : (shellOf s slot).job ≠ none) :
    freezeStart s slot = shellPut (pset (pset s (P.freezeCtl slot) 1) (P.freezeResult slot) 0) slot
      { shellOf s slot with freezeLatch := true, freezeAt := some (maxCatch s slot + 1) } := by
  rw [freezeStart, freezeCtl_of_used h hmode (by simp [hst])]
  simp only [shellOf_of_pset, hst, hlatch]
  rw [if_neg (by decide), if_pos trivial, if_neg (by decide), if_neg hjob]
  rfl

theorem freezeSave_of_frozen (hslot : slot < 32) (hst : (shellOf s slot).st = .frozen) (hsaving : (shellOf s slot).saving = false) :
    freezeSave s slot = if imageSpanOk s (pget s (P.imageTarget slot)) (saveBytes s slot) then
        windowsHold (shellPut (pset s (P.freezeCtl slot) 2) slot { shellOf s slot with saving := true }) slot (List.range (shellOf s slot).rig.seats.length)
      else pset (pset s (P.freezeCtl slot) 2) (P.freezeResult slot) 0x011E := by
  rw [freezeSave, freezeCtl_of_used h hmode (by simp [hst])]
  simp only [shellOf_of_pset, pget_freezeCtl_ne imageTarget_ne_freezeCtl, saveBytes_freezeCtl, imageSpanOk_freezeCtl hslot]
  rw [if_neg (by simp [hst, hsaving])]
  cases imageSpanOk s (pget s (P.imageTarget slot)) (saveBytes s slot) with
  | false => rfl
  | true => rfl

theorem freezeThaw_of_frozen (hst : (shellOf s slot).st = .frozen) (hsaving : (shellOf s slot).saving = false) :
    freezeThaw s slot = shellSelect (thawed (pset (pset s (P.freezeCtl slot) 3) (P.freezeResult slot) 0) slot) slot := by
  rw [freezeThaw, freezeCtl_of_used h hmode (by simp [hst])]
  exact if_pos ⟨hst, by simp [hsaving]⟩

theorem freezeThaw_of_saved (hst : (shellOf s slot).st = .saved) (hrestoring : (shellOf s slot).restoring = false) (hloading : (shellOf s slot).loading = false) :
    freezeThaw s slot = if inHostWindow (pget s (P.imageTarget slot)) then
        emit (shellPut (pset s (P.freezeCtl slot) 3) slot { shellOf s slot with loading := true })
          (.hostRead (hostAddr (pget s (P.imageTarget slot))) (saveBytes (pset s (P.freezeCtl slot) 3) slot))
      else restoreBegin (pset s (P.freezeCtl slot) 3) slot [] := by
  rw [freezeThaw, freezeCtl_of_used h hmode (by simp [hst])]
  simp only [shellOf_of_pset, pget_freezeCtl_ne imageTarget_ne_freezeCtl]
  rw [if_neg (by simp [hst]), if_pos (by simp [hst, hrestoring, hloading])]

theorem freezeLoad_of_idle (hslot : slot < 32) (hst : (shellOf s slot).st = .idle) (hjob : (shellOf s slot).job = none) (hpre : (shellOf s slot).preempted = [])
    (hloading : (shellOf s slot).loading = false) (hqueued : launchQueued s slot = false) (hspan : imageSpanOk s (pget s (P.imageTarget slot)) 64 = true) :
    ∃ l, freezeLoad s slot = { shellPut (pset s (P.freezeCtl slot) 4) slot { shellOf s slot with loading := true } with sent := l } := by
  have hq : launchQueued (pset s (P.freezeCtl slot) 4) slot = false := hqueued
  rw [freezeLoad, freezeCtl_of_used h hmode (by simp [hst])]
  simp only [shellOf_of_pset, pget_freezeCtl_ne imageTarget_ne_freezeCtl, imageSpanOk_freezeCtl hslot, hq, hspan]
  rw [if_neg (by simp [hst, hjob, hpre, hloading]), if_neg (by decide)]
  cases inHostWindow (pget s (P.imageTarget slot)) with
  | false => exact ⟨_, rfl⟩
  | true => exact ⟨_, rfl⟩

end

/-! ### A thawed shell goes on (02 Table Shells-2) -/

section
variable (s : State)

theorem shells_seatGo (i : Nat) : (seatGo s i).shells = s.shells := by
  unfold seatGo
  dsimp only
  split
  · rfl
  · rfl

theorem besideRemote_catchGo (slot n : Nat) : besideRemote n (catchGo s slot) = besideRemote n s := by
  unfold catchGo
  dsimp only
  refine (foldl_keeps (besideRemote n) (fun t x => ?_) _ _).trans ?_
  · split
    · exact besideRemote_remoteSend ..
    · rfl
  · exact foldl_keeps (besideRemote n) (f := seatGo) (fun t i => congrArg (fun l => { tget (fun _ => ({} : Shell)) l n with remote := [] }) (shells_seatGo t i)) _ s

theorem st_catchGo (slot n : Nat) : (shellOf (catchGo s slot) n).st = (shellOf s n).st := (congrArg Shell.st (besideRemote_catchGo s slot n) :)

theorem st_thawed (n : Nat) : (shellOf (thawed s n) n).st = if (shellOf s n).job.isSome ∨ (shellOf s n).preempted ≠ [] then .running else .idle := by
  rw [thawed, st_catchGo, shellOf_shellPut_self]

end

/-! ### What stands at IMAGE_TARGET (02 R78, R80) -/

theorem imageCode_cases (s : State) (n h : Nat) (ok : Bool) : imageCode s n h ok = 0 ∨ imageCode s n h ok = 0x011A ∨ imageCode s n h ok = 0x011B := by
  unfold imageCode
  split
  · exact .inr (.inl rfl)
  · split
    · exact .inr (.inr rfl)
    · exact .inl rfl

section
variable {s : State} {n : Nat} {host : Bytes}

theorem restoreBegin_of_refused (hcode : imageCode s n (targetHeader s n host) (targetImage s n host).2 ≠ 0) :
    restoreBegin s n host = pset s (P.freezeResult n) (imageCode s n (targetHeader s n host) (targetImage s n host).2) :=
  if_pos hcode

theorem restoreBegin_of_fits (hcode : imageCode s n (targetHeader s n host) (targetImage s n host).2 = 0) :
    restoreBegin s n host = windowsHold (shellPut (imagePut s (saveKey n) (targetImage s n host).1) n
      { shellOf s n with restoring := true, sealOk := (targetImage s n host).2 }) n (List.range (shellOf s n).rig.seats.length) :=
  if_neg (not_not.2 hcode)

end

section
variable {s : State} {n : Slot} (hd se ch re : List Byte) (hloading : (shellOf s n.val).loading = true)
include hloading

/-- The state in which the image at IMAGE_TARGET has been read. -/
def imageRead (s : State) (n : Nat) : State := shellPut s n { shellOf s n with loading := false }

theorem exec_imageHeaderReadDone_of_saved (hst : (shellOf s n.val).st = .saved) :
    exec (.imageHeaderReadDone n hd se ch re) s = .next (restoreBegin (imageRead s n.val) n.val (hd ++ se ++ ch ++ re)) := by
  change execImageHeaderReadDone n hd se ch re s = _
  rw [execImageHeaderReadDone, if_neg (by simp [hloading])]
  exact if_pos hst

theorem exec_imageHeaderReadDone_of_busy (hsaved : (shellOf s n.val).st ≠ .saved) (hbusy : (shellOf s n.val).st ≠ .idle ∨ (shellOf s n.val).job ≠ none) :
    exec (.imageHeaderReadDone n hd se ch re) s = .next (pset (imageRead s n.val) (P.freezeResult n.val) 0x0102) := by
  change execImageHeaderReadDone n hd se ch re s = _
  rw [execImageHeaderReadDone, if_neg (by simp [hloading])]
  refine (if_neg hsaved).trans (if_pos ?_)
  simpa [Option.isSome_iff_ne_none] using hbusy

omit hloading in
/-- Asking the host for the rest of an image changes no shell. -/
theorem shellOf_imageAsked (c : Prop) [Decidable c] (x : Sent) : shellOf (if c then emit (imageRead s n.val) x else imageRead s n.val) n.val =
    { shellOf s n.val with loading := false } := by
  split
  · exact shellOf_shellPut_self _ _ _
  · exact shellOf_shellPut_self _ _ _

variable (hst : (shellOf s n.val).st = .idle) (hjob : (shellOf s n.val).job = none)
include hst hjob

theorem exec_imageHeaderReadDone_of_idle :
    exec (.imageHeaderReadDone n hd se ch re) s =
      let host := hd ++ se ++ ch ++ re
      let h := targetHeader s n.val host
      if !imageSpanOk s (pget s (P.imageTarget n.val)) (bitsOf h 255 192) then .next (pset (imageRead s n.val) (P.freezeResult n.val) 0x011E)
      else
        let s1 := if inHostWindow (pget s (P.imageTarget n.val)) then
          emit (imageRead s n.val) (.hostRead (hostAddr (pget s (P.imageTarget n.val)) + 64) (bitsOf h 255 192 - 64)) else imageRead s n.val
        let c := imageCode s n.val h (targetImage s n.val host).2
        if c ≠ 0 then .next (pset s1 (P.freezeResult n.val) c)
        else .next (pset (windowsImage (shellPut (imagePut s1 (saveKey n.val) (targetImage s n.val host).1) n.val
          { shellOf s1 n.val with st := .saved, sealOk := (targetImage s n.val host).2 }) n.val (saveKey n.val)) (P.freezeResult n.val) 0) := by
  change execImageHeaderReadDone n hd se ch re s = _
  rw [execImageHeaderReadDone, if_neg (by simp [hloading])]
  refine (if_neg (by simp [hst])).trans (if_neg (by simp [hst, hjob]))

end

/-! ### FREEZE_SAVE_DONE (02 R77) -/

section
variable {s : State} {n : Slot}

theorem exec_freezeSaveDone (hst : (shellOf s n.val).st = .frozen) (hsaving : (shellOf s n.val).saving = true) :
    ∃ u, exec (.freezeSaveDone n) s = .next (pset (windowsImage u n.val (saveKey n.val)) (P.freezeResult n.val) 0) ∧ (shellOf u n.val).st = .saved ∧
      (shellOf u n.val).saving = false ∧ imageOf u (saveKey n.val) = saveImage s n.val := by
  refine ⟨_, if_pos ⟨hst, hsaving⟩, ?_, ?_, ?_⟩
  · rw [shellOf_shellPut_self]
  · rw [shellOf_shellPut_self]
  · rw [imageOf_of_shellPut, imageOf_imagePut_self]

theorem exec_freezeRestoreDone (hst : (shellOf s n.val).st = .saved) (hrestoring : (shellOf s n.val).restoring = true) :
    ∃ u, exec (.freezeRestoreDone n) s = .next (shellSelect (pset (thawed (let v := windowsLocal u n.val; if bitOf (imageOf s (saveKey n.val)).header 417 then pset v (P.debugSeen n.val) 1 else v) n.val)
        (P.freezeResult n.val) 0) n.val) ∧
      (shellOf u n.val).restoring = false ∧ imageOf u (saveKey n.val) = {} := by
  refine ⟨_, if_pos ⟨hst, hrestoring⟩, ?_, ?_⟩
  · rw [shellOf_shellPut_self]
  · rw [imageOf_of_shellPut, imageOf_imagePut_self]

/-- Every FREEZE_CTL write meets the same checks first. -/
theorem exec_freezeCtl {t : State} (hup : fullUp s = true) (h : ∀ v f, freezeCtl s n.val v f = t) :
    exec (.freezeCtlFreeze n) s = .next t ∧ exec (.freezeCtlSave n) s = .next t ∧ exec (.freezeCtlThaw n) s = .next t ∧ exec (.freezeCtlLoadImage n) s = .next t := by
  rw [exec_freezeCtlFreeze_of_up hup, exec_freezeCtlSave_of_up hup, exec_freezeCtlThaw_of_up hup, exec_freezeCtlLoadImage_of_up hup, freezeStart, freezeSave,
    freezeThaw, freezeLoad, h, h, h, h]
  exact ⟨rfl, rfl, rfl, rfl⟩

theorem exec_freezeCtl_of_checking (hchecking : pget s (P.rigStatus n.val) = 1) :
    exec (.freezeCtlFreeze n) s = .next s ∧ exec (.freezeCtlSave n) s = .next s ∧ exec (.freezeCtlThaw n) s = .next s ∧ exec (.freezeCtlLoadImage n) s = .next s := by
  cases hup : fullUp s with
  | true => exact exec_freezeCtl hup fun v f => freezeCtl_of_checking hchecking
  | false =>
    have hdown : ¬ fullUp s = true := by simp [hup]
    exact ⟨if_neg hdown, if_neg hdown, if_neg hdown, if_neg hdown⟩

end

/-- Settles O15: each FREEZE_CTL by the checks that all of them meet and by its own state, an end of a save or a restore by its command's state, and what stands
at IMAGE_TARGET by its code. -/
theorem freeze : Obligations.Freeze := by
  refine ⟨fun s n hchecking => exec_freezeCtl_of_checking hchecking, fun s n hup hst hmode => exec_freezeCtl hup fun v f => freezeCtl_of_s1 hst hmode,
    fun s n hup hst hmode => ⟨fun hfree => exec_freezeCtl hup fun v f => freezeCtl_of_free hst hmode hfree, fun hidle hmigs => ?_, fun hrun hlatch hjob => ?_,
      fun hfrozen hsaving => ⟨fun hspan => ?_, fun hspan => ?_, ?_⟩,
      fun hsaved hrestoring hloading => ⟨fun hwin => ?_, fun hwin => ?_⟩, fun hidle hjob hpre hloading hqueued hspan => ?_⟩,
    st_thawed, fun s n hst hsaving => exec_freezeSaveDone hst hsaving, fun s n hst hrestoring => exec_freezeRestoreDone hst hrestoring, imageCode_cases,
    fun s n host hd se ch re hhost hloading => ⟨fun hidle hjob => ⟨fun hspan => ?_, fun hspan => ⟨fun hcode => ?_, fun hcode => ?_⟩⟩, fun hsaved hbusy => ?_, fun hsaved => ?_⟩,
    fun s n host => ⟨fun hcode => ?_, fun hcode => ?_⟩⟩
  · have hkeys : P.freezeCtl n.val ≠ P.freezeResult n.val := by simp [P.freezeCtl, P.freezeResult, pkey]
    refine ⟨_, (exec_freezeCtlFreeze_of_up hup).trans (congrArg _ (freezeStart_of_idle hst hmode hidle hmigs)), ?_, pget_pset_self _ _ _, ?_,
      eq_of_outsideShells ((outsideShells_freezeEnter _ _).trans ((outsideShells_pset _ _ _).trans (outsideShells_pset _ _ _)))⟩
    · rw [freezeEnter, shellOf_shellPut_self]
    · exact (pget_pset_ne _ _ _ _ hkeys).trans (pget_pset_self _ _ _)
  · refine ⟨_, (exec_freezeCtlFreeze_of_up hup).trans (congrArg _ (freezeStart_of_running hst hmode hrun hlatch hjob)), ?_⟩
    rw [shellOf_shellPut_self]
    exact ⟨hrun, rfl, rfl, pget_pset_self _ _ _⟩
  · have hsave := freezeSave_of_frozen hst hmode n.isLt hfrozen hsaving
    rw [if_pos hspan] at hsave
    refine ⟨_, (exec_freezeCtlSave_of_up hup).trans (congrArg _ hsave), ?_⟩
    rw [windowsHold, shellOf_shellPut_self, shellOf_shellPut_self]
    exact ⟨rfl, rfl, hfrozen⟩
  · have hsave := freezeSave_of_frozen hst hmode n.isLt hfrozen hsaving
    rw [if_neg (by simp [hspan])] at hsave
    exact ⟨_, (exec_freezeCtlSave_of_up hup).trans (congrArg _ hsave), pget_pset_self _ _ _, hfrozen⟩
  · rw [exec_freezeCtlThaw_of_up hup, freezeThaw_of_frozen hst hmode hfrozen hsaving]
  · have hthaw := freezeThaw_of_saved hst hmode hsaved hrestoring hloading
    rw [if_pos hwin] at hthaw
    refine ⟨_, (exec_freezeCtlThaw_of_up hup).trans (congrArg _ hthaw), ?_⟩
    rw [shellOf_of_emit, shellOf_shellPut_self]
    exact ⟨rfl, hsaved, rfl⟩
  · have hthaw := freezeThaw_of_saved hst hmode hsaved hrestoring hloading
    rw [if_neg (by simp [hwin])] at hthaw
    rw [exec_freezeCtlThaw_of_up hup, hthaw]
  · obtain ⟨l, hl⟩ := freezeLoad_of_idle hst hmode n.isLt hidle hjob hpre hloading hqueued hspan
    refine ⟨_, (exec_freezeCtlLoadImage_of_up hup).trans (congrArg _ hl), ?_⟩
    change (shellOf (shellPut _ n.val _) n.val).loading = true ∧ (shellOf (shellPut _ n.val _) n.val).st = .idle
    rw [shellOf_shellPut_self]
    exact ⟨rfl, hidle⟩
  · subst hhost
    refine ⟨_, (exec_imageHeaderReadDone_of_idle hd se ch re hloading hidle hjob).trans (if_pos (by rw [hspan]; rfl)), pget_pset_self _ _ _, ?_⟩
    rw [shellOf_of_pset, imageRead, shellOf_shellPut_self]
    exact hidle
  · subst hhost
    have hexec := (exec_imageHeaderReadDone_of_idle hd se ch re hloading hidle hjob).trans ((if_neg (by rw [hspan]; decide)).trans (if_pos hcode))
    refine ⟨_, hexec, pget_pset_self _ _ _, ?_⟩
    rw [shellOf_of_pset, shellOf_imageAsked]
    exact hidle
  · subst hhost
    have hexec := (exec_imageHeaderReadDone_of_idle hd se ch re hloading hidle hjob).trans ((if_neg (by rw [hspan]; decide)).trans (if_neg (not_not.2 hcode)))
    refine ⟨_, hexec, ?_, ?_⟩
    · rw [shellOf_shellPut_self]
    · rw [imageOf_of_shellPut, imageOf_imagePut_self]
  · exact exec_imageHeaderReadDone_of_busy hd se ch re hloading hsaved hbusy
  · exact (exec_imageHeaderReadDone_of_saved hd se ch re hloading hsaved).trans (by rw [hhost]; rfl)
  · rw [restoreBegin_of_refused hcode]
    exact ⟨pget_pset_self _ _ _, rfl⟩
  · rw [restoreBegin_of_fits hcode, windowsHold, shellOf_shellPut_self, shellOf_shellPut_self]
    exact ⟨rfl, rfl⟩

end Sys2Proof
end

section
/-! O19: array ops start at the head of the queue (04 R120, R121, R129; an op reads its operands at its start and its additions are one
block, logs 90 and 91). -/
namespace Sys2Proof
open Sys2Proof.Machine

/-! ### A descriptor that passes its checks goes in flight -/

/-- The op in flight that a descriptor becomes when nothing is wrong with it. -/
def startedFlight (a a1 : Arr) (o : ArrOp) : Flight :=
  let f : Flight := { op := o, origin := a.origin, wantsConv := dUsesUnit o.desc }
  if dOp o.desc = 3 then f else flightGuard a1 f .ok

section
variable {s : State} {i : Nat} {o : ArrOp} {rest : List ArrOp} {op : Nat}
  (hqueue : (seatOf s i).arr.queue = o :: rest)
  (hfree : (seatOf s i).arr.flight.any (fun f => f.status != 0 || opWaits o.desc f.op.desc) = false)
  (hok : opFormatOk s i (seatLevel1 s i) o.desc = true) (hop : dOp o.desc = op)
include hqueue hfree hok hop

/-- The start of an op that passes its checks: its additions, and it is in flight; an op that uses the conversion unit alone asks for it. -/
theorem opStart_of_ok (a1 : Arr) (hacc : opAccumulate s i (seatOf s i).arr o.desc = a1) :
    opStart op i .ok s =
      let s1 := arrPut s i { a1 with queue := rest, flight := (seatOf s i).arr.flight ++ [startedFlight (seatOf s i).arr a1 o] }
      if dOp o.desc = 1 ∨ dOp o.desc = 9 then s1 else convNext s1 i := by
  unfold opStart
  dsimp only
  rw [hqueue]
  dsimp only
  rw [if_neg (startable_of_row (.inl hop)), if_neg (ne_true_of_eq_false hfree), if_neg (by decide), if_neg (by rw [hok]; decide),
    if_neg (fun h => absurd h.1 (by decide)), if_neg (fun h : _ ∧ _ => absurd h.1 (by decide)),
    if_neg (fun h : _ ∧ _ => absurd h.1 (by decide)), hacc]
  rfl

end

/-- The result of the guard check concerns an op that adds; another is in flight as it is. -/
theorem flightGuard_of_no_add (a : Arr) {f : Flight} (c : OpCheck) (h : opAdds f.op.desc = false) : flightGuard a f c = f := by
  unfold flightGuard
  exact if_pos (by rw [h]; rfl)

/-- A conversion and a requantising that pass their checks clear nothing (04 Table Matrix-2). -/
theorem dClear_of_format {s : State} {i : Nat} {l : Bool} {d : Nat} (hok : opFormatOk s i l d = true) (hd : dOp d = 2 ∨ dOp d = 4) : dClear d = false := by
  simp only [opFormatOk, Bool.and_eq_true] at hok
  obtain ⟨⟨⟨⟨⟨-, hfields⟩, -⟩, -⟩, -⟩, -⟩ := hok
  rcases hd with hd | hd <;> simp only [opFieldsOk, hd, Bool.and_eq_true, Bool.not_eq_true'] at hfields <;> tauto

section
variable (s : State) (i : Nat) (a : Arr) {d : Nat}

/-! ### What each op does at its start -/

theorem opAccumulate_origin (h : dOp d = 5) : opAccumulate s i a d = { a with origin := bitsOf d 121 58 } := by simp [opAccumulate, h]

theorem opAccumulate_loadt (h : dOp d = 8) :
    opAccumulate s i a d = { a with banks := tset (fun _ => {}) a.banks (dTile d) (bankLoad s i (dOffB d) (dK d)) } := by simp [opAccumulate, h]

theorem opAccumulate_mma (h : dOp d = 1) : opAccumulate s i a d = mmaRun s i (if dClear d then tileClear a d else a) d := by simp [opAccumulate, h]

theorem opAccumulate_cmp (h : dOp d = 9) : opAccumulate s i a d = cmpRun s i (if dClear d then tileClear a d else a) d := by simp [opAccumulate, h]

/-- A LOADW clears as it loads, on the conversion unit (04 R126). -/
theorem opAccumulate_loadw (h : dOp d = 3) : opAccumulate s i a d = a := by simp [opAccumulate, h]

theorem opAccumulate_unit (h : dOp d = 2 ∨ dOp d = 4) (hclear : dClear d = false) : opAccumulate s i a d = a := by
  rcases h with h | h <;> simp [opAccumulate, h, hclear]

end

section
variable (a a1 : Arr) {o : ArrOp}

theorem startedFlight_idle (h : dOp o.desc = 5 ∨ dOp o.desc = 8) : startedFlight a a1 o = { op := o, origin := a.origin } := by
  rcases h with h | h <;> simp [startedFlight, flightGuard, opAdds, dUsesUnit, dConverts, h]

theorem startedFlight_adds (h : dOp o.desc = 1 ∨ dOp o.desc = 9) :
    startedFlight a a1 o = flightGuard a1 { op := o, origin := a.origin, wantsConv := dConvert o.desc } .ok := by
  rcases h with h | h <;> simp [startedFlight, dUsesUnit, dConverts, h]

theorem startedFlight_unit (h : dOp o.desc = 2 ∨ dOp o.desc = 4 ∨ dOp o.desc = 3) :
    startedFlight a a1 o = { op := o, origin := a.origin, wantsConv := true } := by
  rcases h with h | h | h <;> simp [startedFlight, flightGuard, opAdds, dUsesUnit, dConverts, h]

end

/-- Settles O19: `opStart_of_ok` with what each op does at its start (log 90: it reads its operands there; log 91: its additions are one
block). -/
theorem arrayOpsStart : Obligations.ArrayOpsStart := by
  intro s i o rest hqueue hfree hok
  refine ⟨fun h => ?_, fun h => ?_, fun h => ?_, fun h => ?_, fun h => ?_, fun h => ?_, fun h => ?_⟩ <;> refine congrArg Host.Outcome.next ?_
  · rw [opStart_of_ok hqueue hfree hok h _ (opAccumulate_origin s i.val _ h), startedFlight_idle _ _ (.inl h)]
    exact if_neg (by omega)
  · rw [opStart_of_ok hqueue hfree hok h _ (opAccumulate_loadt s i.val _ h), startedFlight_idle _ _ (.inr h)]
    exact if_neg (by omega)
  · rw [opStart_of_ok hqueue hfree hok h _ (opAccumulate_mma s i.val _ h), startedFlight_adds _ _ (.inl h)]
    exact if_pos (.inl h)
  · rw [opStart_of_ok hqueue hfree hok h _ (opAccumulate_cmp s i.val _ h), startedFlight_adds _ _ (.inr h)]
    exact if_pos (.inr h)
  · rw [opStart_of_ok hqueue hfree hok h _ (opAccumulate_unit s i.val _ (.inl h) (dClear_of_format hok (.inl h))), startedFlight_unit _ _ (.inl h)]
    exact if_neg (by omega)
  · rw [opStart_of_ok hqueue hfree hok h _ (opAccumulate_unit s i.val _ (.inr h) (dClear_of_format hok (.inr h))), startedFlight_unit _ _ (.inr (.inl h))]
    exact if_neg (by omega)
  · rw [opStart_of_ok hqueue hfree hok h _ (opAccumulate_loadw s i.val _ h), startedFlight_unit _ _ (.inr (.inr h))]
    exact if_neg (by omega)

end Sys2Proof
end

section
/-! O2: every command completes. The forms that commands are built from answer a next state in every case, and so does each command. -/
namespace Sys2Proof
open Sys2Proof.Machine

/-- The answers of a command that completes. -/
inductive Completes : Ans → Prop
  | next {s : State} : Completes (.next s)

section
variable {s : State}

protected theorem Completes.ite {p : Prop} [Decidable p] {a b : Ans} (ha : Completes a) (hb : Completes b) : Completes (if p then a else b) := by
  split
  · exact ha
  · exact hb

protected theorem Completes.causeStart {cold cause} : Completes (causeStart s cold cause) := .ite .next .next

protected theorem Completes.coreStep {i n f} : Completes (coreStep i n s f) := by
  refine .ite .next ?_
  split
  · exact .next
  · exact .next

protected theorem Completes.coreStepM {i n f} : Completes (coreStepM i n s f) := .ite .coreStep (.ite .next .next)

protected theorem Completes.vzStep {i n l f} : Completes (vzStep i n l s f) := .coreStepM
protected theorem Completes.vzJobStep {i n l f} : Completes (vzJobStep i n l s f) := .coreStep

protected theorem Completes.xferGo {k i t f} : Completes (xferGo k i t s f) := by
  unfold Machine.xferGo
  split
  · exact .next
  · dsimp only
    split
    · exact .next
    · exact .ite .next (.ite (.ite .next .next) (.ite .next .next))

protected theorem Completes.withAts {c a v n go} (h : Completes go) : Completes (withAts s c a v n go) := by
  unfold Machine.withAts
  split
  · exact .next
  · exact h

protected theorem Completes.withHead {c op f} : Completes (withHead s c op f) := by
  unfold Machine.withHead
  dsimp only
  split
  · exact .next
  · exact .ite .next .next

protected theorem Completes.ctxCmd {fn w op go} : Completes (ctxCmd s fn w op go) := by
  refine .ite .next (.ite .next (.ite .next ?_))
  dsimp only
  split
  · exact .next
  · exact .next
  · exact .next
  · exact .ite .next .next

protected theorem Completes.frontRead {ask c v n r refuse go} : Completes (frontRead s ask c v n r refuse go) := by
  unfold Machine.frontRead
  split
  · exact .next
  · exact .next
  · exact .next

protected theorem Completes.entryFetch {c k r} : Completes (entryFetch s c k r) := .frontRead

protected theorem Completes.ctxBind {fn k v w} : Completes (ctxBind s fn k v w) := by
  refine .ite .next (.ite .next (.withAts ?_))
  split
  · exact .next
  · refine .ite .next ?_
    split
    · exact .next
    · exact .next
    · exact .next

protected theorem Completes.admIn {h f} : Completes (admIn s h f) := .ite .next .next

protected theorem Completes.leaseMsg {h m f} : Completes (leaseMsg h m s f) := .admIn

/-! ### Machine/Queue.lean -/

protected theorem Completes.execCmdNop {ctx} : Completes (execCmdNop ctx s) := by
  unfold execCmdNop
  exact .withHead

protected theorem Completes.execCmdCall {ctx} : Completes (execCmdCall ctx s) := by
  unfold execCmdCall
  exact .withHead

protected theorem Completes.execCmdAccount {ctx} : Completes (execCmdAccount ctx s) := by
  unfold execCmdAccount
  exact .withHead

protected theorem Completes.execCmdLaunch {ctx} : Completes (execCmdLaunch ctx s) := by
  unfold execCmdLaunch
  dsimp only
  split
  · refine .ite (.withAts ?_) .next
    split
    · exact .next
    · exact .next
  · exact .next

protected theorem Completes.execFenceWaitPoll {ctx} : Completes (execFenceWaitPoll ctx s) := by
  unfold execFenceWaitPoll
  dsimp only
  split
  · exact .next
  · refine .ite .next (.withAts ?_)
    split
    · exact .next
    · exact .ite .next .next

/-! ### Machine/Sched.lean -/

protected theorem Completes.execCommandStart {ctx} : Completes (execCommandStart ctx s) := by
  unfold execCommandStart
  dsimp only
  split
  · exact .next
  · refine .ite .next (.ite ?_ (.ite .withHead (.ite .withHead .next)))
    split
    · exact .next
    · split
      · exact .next
      · exact .next

protected theorem Completes.execPreemptQuantumExpiry {slot} : Completes (execPreemptQuantumExpiry slot s) := by
  unfold execPreemptQuantumExpiry
  split
  · dsimp only
    split
    · exact .next
    · exact .ite .next .next
  · dsimp only
    split
    · exact .next
    · exact .ite .next .next

protected theorem Completes.execPreemptSaveDone {slot} : Completes (execPreemptSaveDone slot s) := by
  unfold execPreemptSaveDone
  dsimp only
  split
  · exact .next
  · exact .ite .next .next

protected theorem Completes.execPreemptRestoreDone {slot} : Completes (execPreemptRestoreDone slot s) := by
  unfold execPreemptRestoreDone
  dsimp only
  split
  · exact .next
  · exact .ite .next .next

protected theorem Completes.execCmdTimeoutExpiry {ctx onShell} : Completes (execCmdTimeoutExpiry ctx onShell s) := by
  refine .ite .next ?_
  split
  · dsimp only
    split
    · exact .next
    · exact .ite .next .next
  · split
    · exact .next
    · exact .ite .next .next

protected theorem Completes.execReleaseHoldExpiry {slot} : Completes (execReleaseHoldExpiry slot s) := by
  unfold execReleaseHoldExpiry
  dsimp only
  split
  · exact .next
  · exact .ite .next .next

/-! ### Machine/Sprint.lean -/

protected theorem Completes.execEgressReadDone {slot} : Completes (execEgressReadDone slot s) := by
  refine .ite ?_ .next
  split
  · exact .next
  · split
    · dsimp only
      split
      · exact .next
      · exact .ite .next .next
    · dsimp only
      split
      · exact .next
      · exact .ite .next .next

protected theorem Completes.execSprintGateHoldExpiry {slot} : Completes (execSprintGateHoldExpiry slot s) := by
  unfold execSprintGateHoldExpiry
  dsimp only
  split
  · exact .next
  · exact .ite .next .next

protected theorem Completes.execSprintAbortEnd {slot} : Completes (execSprintAbortEnd slot s) := by
  refine .ite ?_ .next
  split
  · exact .next
  · exact .next

protected theorem Completes.execCmdSprintBind {ctx} : Completes (execCmdSprintBind ctx s) := by
  unfold execCmdSprintBind
  exact .withHead

protected theorem Completes.execCmdSprintUnbind {ctx} : Completes (execCmdSprintUnbind ctx s) := by
  unfold execCmdSprintUnbind
  exact .withHead

/-! ### Machine/HostObj.lean -/

protected theorem Completes.execDestroyEnd {ctx} : Completes (execDestroyEnd ctx s) := by
  refine .ite ?_ .next
  split
  · split
    · exact .next
    · exact .next
  · split
    · exact .next
    · exact .next

protected theorem Completes.execCrHeadWrite {fn w} : Completes (execCrHeadWrite fn w s) := by
  refine .ite .next (.ite .next (.ite ?_ .next))
  split
  · exact .next

protected theorem Completes.execDmwrCompletion {id r} : Completes (execDmwrCompletion id r s) := by
  unfold execDmwrCompletion
  split
  · exact .next
  · split
    · exact .next
    · exact .next
    · exact .next
    · exact .ite .next .next

protected theorem Completes.execDmwrRetryTimer {id} : Completes (execDmwrRetryTimer id s) := by
  unfold execDmwrRetryTimer
  split
  · exact .next
  · exact .ite .next .next

protected theorem Completes.execDmwrTimeout {id} : Completes (execDmwrTimeout id s) := by
  unfold execDmwrTimeout
  split
  · exact .next
  · exact .next

/-! ### Machine/RangeCmds.lean -/

protected theorem Completes.execRtMirrorFetchDone {ctx index r} : Completes (execRtMirrorFetchDone ctx index r s) := by
  refine .ite .next ?_
  dsimp only
  split
  · exact .next
  · exact .next
  · exact .ite .next (.ite .next .next)

protected theorem Completes.execRegisterWrite {fn space offset size v} : Completes (execRegisterWrite fn space offset size v s) := by
  refine .ite .next (.ite .next (.ite .next (.ite .next (.ite .next (.ite .next (.ite .ctxCmd (.ite .next ?_)))))))
  split
  · exact .next
  · exact .ite .next (.ite .next (.ite .next (.ite .next .next)))

/-! ### Machine/RigCmds.lean -/

protected theorem Completes.execSeatCatchDrained {seat} : Completes (execSeatCatchDrained seat s) := by
  refine .ite ?_ .next
  split
  · exact .next
  · exact .next

protected theorem Completes.execSeatCopyDone {slot} : Completes (execSeatCopyDone slot s) := by
  unfold execSeatCopyDone
  dsimp only
  split
  · exact .ite .next .next
  · exact .next

protected theorem Completes.execCatchDeadlineExpiry {slot} : Completes (execCatchDeadlineExpiry slot s) := by
  unfold execCatchDeadlineExpiry
  split
  · exact .ite .next .next
  · exact .next

protected theorem Completes.execMigrationGranuleCopied {slot lch} : Completes (execMigrationGranuleCopied slot lch s) := by
  unfold execMigrationGranuleCopied
  dsimp only
  split
  · exact .next
  · exact .ite .next .next

protected theorem Completes.execSeatScrubDone {seat} : Completes (execSeatScrubDone seat s) := by
  refine .ite ?_ ?_
  · split
    · exact .next
    · exact .next
  · split
    · exact .ite .next .next
    · exact .next

/-! ### Machine/Safety.lean -/

protected theorem Completes.execMonitorEvent {m} : Completes (execMonitorEvent m s) := by
  refine .ite .next ?_
  split
  · exact .next
  · exact .next

/-! ### Machine/QueueReads.lean -/

protected theorem Completes.execCtxDescReadDone {fn r word} : Completes (execCtxDescReadDone fn r word s) := by
  unfold execCtxDescReadDone
  split
  · exact .next
  · refine .ite .next (.ite .next ?_)
    split
    · exact .ite .next .ctxBind
    · exact .next

protected theorem Completes.execQueueFetchDone {ctx buffer r} : Completes (execQueueFetchDone ctx buffer r s) := by
  refine .ite .next (.ite ?_ (.ite .next ?_))
  · split
    · exact .next
    · exact .ite (.withAts .entryFetch) .next
  · split
    · exact .next
    · exact .next
    · exact .next

protected theorem Completes.execSlotSeqRetry {ctx r} : Completes (execSlotSeqRetry ctx r s) := by
  refine .ite ?_ .next
  split
  · exact .next
  · exact .next
  · exact .next

protected theorem Completes.execLaunchBlockReadDone {ctx block pins} : Completes (execLaunchBlockReadDone ctx block pins s) := by
  unfold execLaunchBlockReadDone
  dsimp only
  split
  · exact .next
  · refine .ite .next (.withAts ?_)
    split
    · exact .next
    · refine .ite .next (.withAts ?_)
      split
      · exact .next
      · exact .next
      · exact .next
    · exact .next

protected theorem Completes.execWaitReadDone {ctx r} : Completes (execWaitReadDone ctx r s) := by
  unfold execWaitReadDone
  dsimp only
  split
  · exact .next
  · refine .ite .next (.withAts ?_)
    split
    · exact .next
    · refine .ite .next ?_
      split
      · exact .next
      · exact .next
      · exact .next

/-! ### Machine/ArrayCmds.lean -/

protected theorem Completes.execArrOpRetire {seat} : Completes (execArrOpRetire seat s) := by
  unfold execArrOpRetire
  dsimp only
  split
  · exact .next
  · exact .ite .next .next

protected theorem Completes.execMmaPause {seat check} : Completes (execMmaPause seat check s) := by
  unfold execMmaPause
  split
  · dsimp only
    split
    · exact .next
    · exact .next
  · dsimp only
    split
    · exact .next
    · exact .next

/-! ### Machine/Tender.lean -/

protected theorem Completes.execCoreLoadResponse {seat o} : Completes (execCoreLoadResponse seat o s) := by
  unfold execCoreLoadResponse
  dsimp only
  split
  · exact .next
  · exact .ite (.ite .next (.ite .next .next)) .next
  · exact .ite .next (.ite .next .next)
  · exact .next
  · exact .next

protected theorem Completes.execStoreAck {seat status} : Completes (execStoreAck seat status s) := by
  unfold execStoreAck
  dsimp only
  split
  · exact .next
  · exact .ite .next (.ite .next .next)

/-! ### Machine/Xvzseat.lean -/

protected theorem Completes.execArrIssueUnblock {seat} : Completes (execArrIssueUnblock seat s) := by
  unfold execArrIssueUnblock
  dsimp only
  split
  · exact .ite .next .next
  · exact .next

protected theorem Completes.execArrWaitDone {seat} : Completes (execArrWaitDone seat s) := by
  unfold execArrWaitDone
  dsimp only
  split
  · exact .next
  · exact .next

protected theorem Completes.execVzFenceComplete {seat} : Completes (execVzFenceComplete seat s) := by
  unfold execVzFenceComplete
  dsimp only
  split
  · exact .ite .next .next
  · exact .next

protected theorem Completes.execXferSubmitUnblock {seat} : Completes (execXferSubmitUnblock seat s) := by
  unfold execXferSubmitUnblock
  dsimp only
  split
  · exact .next
  · exact .next

protected theorem Completes.execSeatEndDrained {seat} : Completes (execSeatEndDrained seat s) := by
  unfold execSeatEndDrained
  dsimp only
  split
  · refine .ite .next ?_
    split
    · exact .next
    · exact .next
  · exact .next

/-! ### Machine/Xfer.lean -/

protected theorem Completes.execFenceCasCompletion {seat ticket r} : Completes (execFenceCasCompletion seat ticket r s) := by
  unfold execFenceCasCompletion
  dsimp only
  split
  · refine .ite .next ?_
    split
    · exact .next
    · exact .next
    · exact .next
    · exact .next
  · exact .next

protected theorem Completes.execPrefillDone {slot lseat r} : Completes (execPrefillDone slot lseat r s) := by
  unfold execPrefillDone
  dsimp only
  split
  · exact .next
  · refine .ite .next ?_
    split
    · exact .next
    · exact .ite .next .next
    · split
      · exact .next
      · exact .next
      · exact .next
      · exact .ite .next (.ite .next .next)

/-! ### Machine/Net.lean -/

protected theorem Completes.execReqPacketArrival {src slot req ga o} : Completes (execReqPacketArrival src slot req ga o s) := by
  refine .ite .next ?_
  split
  · exact .ite .next .next
  · exact .next

protected theorem Completes.execRspPacketArrival {late} : Completes (execRspPacketArrival late s) := by
  refine .ite (.ite .next .next) ?_
  split
  · exact .next
  · split
    · exact .next
    · split
      · dsimp only
        split
        · exact .ite .next .next
        · exact .next
      · dsimp only
        split
        · exact .ite .next (.ite .next .next)
        · exact .next

protected theorem Completes.execMgtPacketArrival {die mask op} : Completes (execMgtPacketArrival die mask op s) := by
  unfold execMgtPacketArrival
  split
  · exact .ite .next .next
  · exact .ite .next .next

protected theorem Completes.execRedNodeArrival {k node} : Completes (execRedNodeArrival k node s) := by
  unfold execRedNodeArrival
  split
  · exact .next
  · split
    · refine .ite .next ?_
      split
      · split
        · exact .next
        · exact .next
      · exact .ite .next (.ite .next .next)
    · exact .next

protected theorem Completes.execCombineHoldExpiry {k} : Completes (execCombineHoldExpiry k s) := by
  unfold execCombineHoldExpiry
  split
  · exact .next
  · exact .ite .next .next

protected theorem Completes.execRedPacketArrival {k st} : Completes (execRedPacketArrival k st s) := by
  unfold execRedPacketArrival
  split
  · exact .next
  · refine .ite .next (.ite .next ?_)
    split
    · exact .next
    · exact .next
    · split
      · exact .next
    · exact .next
    · exact .next

protected theorem Completes.execNetRequestTimeout {seat what} : Completes (execNetRequestTimeout seat what s) := by
  unfold execNetRequestTimeout
  split
  · exact .next
  · dsimp only
    split
    · exact .ite (.ite .next .next) .next
    · exact .next
  · dsimp only
    split
    · refine .ite .next (.ite (.ite .next .next) ?_)
      split
      · exact .ite .next .next
      · exact .next
    · exact .next
  · exact .next

protected theorem Completes.execHostRequestTimeout {seat ticket} : Completes (execHostRequestTimeout seat ticket s) := by
  unfold execHostRequestTimeout
  split
  · exact .next
  · dsimp only
    split
    · exact .ite .next .next
    · exact .next

/-! ### Machine/Start.lean -/

protected theorem Completes.execMinimalSafeFunction {identityOk slotId gen width} : Completes (execMinimalSafeFunction identityOk slotId gen width s) := by
  refine .ite .next ?_
  split
  · exact .next
  · split
    · exact .next
    · exact .next

protected theorem Completes.execStage1End {failed badLink} : Completes (execStage1End failed badLink s) := by
  refine .ite .next ?_
  split
  · dsimp only
    split
    · exact .next
    · exact .next
  · dsimp only
    split
    · exact .next
    · exact .next

/-! ### Machine/Recovery.lean -/

protected theorem Completes.execDumpAccessTimeout {n} : Completes (execDumpAccessTimeout n s) := by
  unfold execDumpAccessTimeout
  split
  · exact .next
  · exact .ite .next .next

protected theorem Completes.execDumpEnd : Completes (execDumpEnd s) := by
  unfold execDumpEnd
  split
  · exact .next
  · exact .next

/-! ### Machine/Mem.lean -/

protected theorem Completes.execPatrolScrubRead {unit block check} : Completes (execPatrolScrubRead unit block check s) := by
  refine .ite .next ?_
  split
  · exact .next
  · exact .next
  · exact .next
  · exact .next
  · exact .ite .next .next
  · exact .next

protected theorem Completes.execCxlCheckDone : Completes (execCxlCheckDone s) := by
  unfold execCxlCheckDone
  split
  · exact .ite .next (.ite .next (.ite .next .next))
  · exact .next

protected theorem Completes.execCxlDecoderCommitDone {range ok} : Completes (execCxlDecoderCommitDone range ok s) := by
  unfold execCxlDecoderCommitDone
  split
  · exact .ite .next (.ite .next (.ite .next .next))
  · exact .next

protected theorem Completes.execCxlPortEnumerated {port link} : Completes (execCxlPortEnumerated port link s) := by
  refine .ite .next ?_
  split
  · exact .next
  · exact .next

protected theorem Completes.execCxlMemResponse {port dev r who} : Completes (execCxlMemResponse port dev r who s) := by
  refine .ite .next (.ite ?_ .next)
  split
  · split
    · exact .next
    · exact .next
  · split
    · exact .next
    · exact .next

protected theorem Completes.execCapacityChange {input} : Completes (execCapacityChange input s) := by
  refine .ite .next ?_
  split
  · exact .next
  · exact .next

/-! ### Machine/Keys.lean -/

protected theorem Completes.execContextSwapInDone {ctx entries} : Completes (execContextSwapInDone ctx entries s) := by
  refine .ite .next (.ite .next ?_)
  dsimp only
  exact .ite .next .next

protected theorem Completes.execCmdSeqSlot {ctx} : Completes (execCmdSeqSlot ctx s) := by
  unfold execCmdSeqSlot
  exact .withHead

protected theorem Completes.execSeqSlotRecordReadDone {ctx seq r} : Completes (execSeqSlotRecordReadDone ctx seq r s) := by
  unfold execSeqSlotRecordReadDone
  split
  · dsimp only
    split
    · exact .next
    · exact .ite .next .next
  · dsimp only
    split
    · exact .next
    · exact .ite .next .next
  · dsimp only
    split
    · exact .next
    · exact .ite .next (.ite .next .next)

protected theorem Completes.execCmdWkeyLoad {ctx} : Completes (execCmdWkeyLoad ctx s) := by
  unfold execCmdWkeyLoad
  exact .withHead

protected theorem Completes.execWkeyBlobReadDone {ctx seq r} : Completes (execWkeyBlobReadDone ctx seq r s) := by
  unfold execWkeyBlobReadDone
  split
  · dsimp only
    split
    · exact .next
    · exact .next
  · dsimp only
    split
    · exact .next
    · exact .next
  · dsimp only
    split
    · exact .next
    · split
      · exact .next
      · exact .next

protected theorem Completes.execCmdWkeyClear {ctx} : Completes (execCmdWkeyClear ctx s) := by
  unfold execCmdWkeyClear
  exact .withHead

/-! ### Machine/Mctp.lean -/

protected theorem Completes.execMctpTxAcceptTimeout : Completes (execMctpTxAcceptTimeout s) := by
  unfold execMctpTxAcceptTimeout
  split
  · exact .ite .next .next
  · exact .next

/-! ### Machine/Security.lean -/

protected theorem Completes.execFwVerifyDone : Completes (execFwVerifyDone s) := by
  refine .ite .next ?_
  split
  · exact .next
  · exact .ite .next .next

protected theorem Completes.execDbgDataRead {session slot} : Completes (execDbgDataRead session slot s) := by
  unfold execDbgDataRead
  split
  · exact .ite (.ite .next .next) .next

protected theorem Completes.execWakeFold {slot} : Completes (execWakeFold slot s) := by
  unfold execWakeFold
  split
  · exact .next
  · exact .next

/-! ### Machine/Links.lean -/

protected theorem Completes.execGhRequestTimeout {seat what} : Completes (execGhRequestTimeout seat what s) := by
  unfold execGhRequestTimeout
  split
  · dsimp only
    split
    · exact .ite .next .next
    · exact .next
  · dsimp only
    split
    · exact .ite .next .next
    · exact .next
  · dsimp only
    split
    · refine .ite .next (.ite .next ?_)
      split
      · exact .ite .next .next
      · exact .next
    · exact .next
  · split
    · exact .next
    · exact .next

/-! ### Machine/Ademen.lean -/

protected theorem Completes.execLeaseExpiryTimer {id} : Completes (execLeaseExpiryTimer id s) := by
  unfold execLeaseExpiryTimer
  split
  · exact .next
  · exact .next

protected theorem Completes.execLeaseRenewTimer {lender id} : Completes (execLeaseRenewTimer lender id s) := by
  unfold execLeaseRenewTimer
  split
  · exact .next
  · exact .next

protected theorem Completes.execLeaseLossTimer {lender id} : Completes (execLeaseLossTimer lender id s) := by
  unfold execLeaseLossTimer
  split
  · exact .next
  · exact .next

protected theorem Completes.execGv4SeatAction {port src lease j a} : Completes (execGv4SeatAction port src lease j a s) := by
  refine .ite .next ?_
  split
  · split
    · exact .next
    · exact .next
  · exact .next

protected theorem Completes.execGv4ActionReport {port src lease j r} : Completes (execGv4ActionReport port src lease j r s) := by
  unfold execGv4ActionReport
  split
  · exact .next
  · dsimp only
    split
    · exact .next
    · exact .next

protected theorem Completes.execLeaseFaultReport {port src lease mech kind tbDetect from_} : Completes (execLeaseFaultReport port src lease mech kind tbDetect from_ s) := by
  unfold execLeaseFaultReport
  split
  · exact .next
  · exact .next

/-! ### Machine/Channels.lean -/

protected theorem Completes.execCmdGhengoOpen {ctx} : Completes (execCmdGhengoOpen ctx s) := by
  unfold execCmdGhengoOpen
  exact .withHead

protected theorem Completes.execChMatchTimeout {chan waiting} : Completes (execChMatchTimeout chan waiting s) := by
  unfold execChMatchTimeout
  split
  · exact .next
  · split
    · exact .next
    · exact .next

protected theorem Completes.execCmdGhengoClose {ctx} : Completes (execCmdGhengoClose ctx s) := by
  unfold execCmdGhengoClose
  exact .withHead

/-! ### Machine/Boathouse.lean -/

protected theorem Completes.execBhMoveGranuleCopied {key acked} : Completes (execBhMoveGranuleCopied key acked s) := by
  unfold execBhMoveGranuleCopied
  split
  · exact .next
  · split
    · exact .next
    · exact .ite .next (.ite .next .next)

protected theorem Completes.execBhMemberExpiry {key} : Completes (execBhMemberExpiry key s) := by
  unfold execBhMemberExpiry
  split
  · exact .next
  · exact .next

protected theorem Completes.execCmdBhLease {ctx} : Completes (execCmdBhLease ctx s) := by
  unfold execCmdBhLease
  exact .withHead

protected theorem Completes.execCmdBhRelease {ctx} : Completes (execCmdBhRelease ctx s) := by
  unfold execCmdBhRelease
  exact .withHead

protected theorem Completes.execBhHomeRenewTimer {key} : Completes (execBhHomeRenewTimer key s) := by
  unfold execBhHomeRenewTimer
  split
  · exact .next
  · exact .ite .next (.ite .next .next)

protected theorem Completes.execBhKeyRenewalTimeout {key} : Completes (execBhKeyRenewalTimeout key s) := by
  unfold execBhKeyRenewalTimeout
  split
  · exact .next
  · exact .next

protected theorem Completes.execBhResolveTimeout {key} : Completes (execBhResolveTimeout key s) := by
  unfold execBhResolveTimeout
  split
  · exact .ite .next .next
  · exact .next

protected theorem Completes.execAdmRetryTimer {txn} : Completes (execAdmRetryTimer txn s) := by
  unfold execAdmRetryTimer
  split
  · exact .next
  · exact .ite .next (.ite .next (.ite .next .next))

/-! ### Machine/GhPackets.lean -/

protected theorem Completes.execGhPacketReceive {port sender bind offset op check excess} : Completes (execGhPacketReceive port sender bind offset op check excess s) := by
  unfold execGhPacketReceive
  split
  · refine .ite .next ?_
    split
    · exact .next
    · split
      · exact .next
      · split
        · dsimp only
          split
          · exact .next
          · exact .next
        · split
          · exact .next
          · exact .next
      · split
        · exact .next
        · refine .ite .next ?_
          split
          · exact .next
          · exact .next

end

/-- Every command completes: none ends in a fault or a refusal. -/
theorem completes_exec (c : Instr) (s : State) : Completes (exec c s) := by
  cases c
  all_goals dsimp only [exec]
  case inputGoodRise | modPwrgoodRise | inputGoodFall | perstAssert | resetEntryDrainEnd | coxWatchdogExpiry | stage2End
      | stage3End | fullFunction | stageLimitExpiry | seatSelftestDone | bridgeDrainDone | closedBridgePacket | rigCommit
      | rigCancel | rigCheckDone | freezeCtlFreeze | freezeCtlSave | freezeCtlThaw | freezeCtlLoadImage | freezeSaveDone
      | freezeRestoreDone | channelScrubDone | meterTick | pegWaitWake | tenderWatchdogExpiry | pegWriteArrival | waitLend
      | channelTracking | channelMaintRetire | channelMaintRetrain | channelTrainingDone | cxlCommit | cxlRangeScrubDone
      | cxlRescan | cxlPortDown | devloadWindow | scaleRiseHoldExpiry | pacingSlot | rtUpdateInstall | rtUpdateRevoke
      | entryDrainDone | fltResolveResume | fltResolveAbort | faultWindowExpiry | faultTimeoutExpiry | atsTranslationCompletion
      | atsInvalidationRequest | sliceZeroDone | functionLevelReset | vfEnableClear | intStatusWrite | completionMessageCoalesce
      | headWbMerge | preemptCtlPreempt | preemptCtlLift | ghPortEnableSet | ghPortEnableClear | ghTrainingDone
      | ghTrainingTimeout | helloTimeout | ghPortMaintRetrain | ghFlitError | ghFecLockLoss | ghCreditStall | admLeaseCmdRequest
      | admLeaseCmdReturn | admLentRevoke | channelAbortEnd | budgetGrantWrite | budgetLeaseExpiry | alertAssert | alertDeassert
      | alertHoldExpiry | alertRiseStep | energyTick | shellResetWrite | shellResetDrainDone | shellRetrainDone
      | shellResetComplete | healthPoll | bridgeCloseTimeout | islandResetAnswerTimeout | dumpCtlTake | dumpClear
      | lockstepMismatch | fwUpdateTimeout | fwRaiseFloor | credInstall | credRevoke | evidenceReq | evidenceSigned
      | debugCtlOpen | debugCtlHalt | debugCtlResume | debugCtlClose | dbgDataWrite | sealTimer | sealSigned | vfEnableSet
      | cxlEvent | gddr7RefreshDoubling | i3cDynamicAddress => exact .ite .next .next
  case perstRelease | fwDigestReport | linkRefclkLoss | seatCopyFault | guardCheckMerged | channelRead | channelWrite
      | cxlPrsntRemoval | trRespHeadWrite | fltRingHeadWrite | ucHeadWrite | mbxDoorbell | helloReceive | ghTagFlitReceive
      | ghFlitHeaderReceive => exact .ite .next (.ite .next .next)
  case hotReset | deviceResetWarm | deviceResetCold | pcieRefclkLoss => exact .ite .causeStart .next
  case catch_ | seatEnd => exact .vzJobStep
  case imageHeaderReadDone => exact .ite .next (.ite .next (.ite .next (.ite .next (.ite .next .next))))
  case opMma | opConv | opLoadw | opReq | opOrigin | opCmpLoadt | opCmp | conversionUnitStart | cxlMemTimeout | regulationWindow
      | papOpen | papAuth | papClose | papRead | papWrite | papDescribe | papKeepalive | challengeTimeout | sessionIdleTimeout
      | segmentTimeout | transportLoss | authLockoutExpiry | mctpAssemblyTimeout | setEndpointId | getEndpointId
      | getEndpointUuid | getMctpVersionSupport | getMessageTypeSupport | getVendorMsgSupport | mctpUnsupportedCmd | mbxAck
      | peerGoneTimer | getPdrRepositoryInfo | getPdr | getSensorReading | getStateSensorReadings | pldmUnsupportedCmd
      | queryDeviceIdentifiers | getFirmwareParameters | requestUpdate | passComponentTable | updateComponent | firmwareDataPush
      | activateFirmware | getStatus | cancelUpdateComponent | cancelUpdate | railDischargeDone | cxlPrsntLowToHigh => exact .next
  case arrIssue | arrResult | arrWait | arrFence | vzFence | sigUpd | sigChk | pegSet | pegTest | pegWait | pegWaitany | pegRset
      | xferSubmit | xferPoll | winSet => exact .vzStep
  case coreLoad | coreStore | coreAmo | coreLr | coreSc | coreFence | fenceI | csrAccess | coreCompute | ecall | ebreak => exact .coreStepM
  case linkFlitError | ghRecoveryTimer | powerControlStep => exact .ite .next (.ite .next (.ite .next .next))
  case xferCopy | xferFill | xferKvGather | xferRedArm | xferRedSend | xferFenceAdv => exact .xferGo
  case ctxCmdCreate | ctxCmdDestroy | ctxCmdFenceBind | ctxCmdFenceUnbind => exact .ctxCmd
  case hqTailWrite | mctpPacketReceive => exact .ite .next (.ite .next (.ite .next (.ite .next .next)))
  case sprintWindowWrite => exact .ite (.ite .next .next) (.ite .next .next)
  case leaseRequest | leaseRevoke | admResponse | chOpen | chClose | bhAlloc | bhFree | bhRenew | bhMove | bhQuery => exact .admIn
  case leaseRenew | leaseReturn | epochQuery => exact .leaseMsg
  case thermalThrottleStep => exact .ite .next (.ite (.ite .next .next) (.ite .next .next))
  case cmdNop => exact .execCmdNop
  case cmdCall => exact .execCmdCall
  case cmdAccount => exact .execCmdAccount
  case cmdLaunch => exact .execCmdLaunch
  case fenceWaitPoll => exact .execFenceWaitPoll
  case commandStart => exact .execCommandStart
  case preemptQuantumExpiry => exact .execPreemptQuantumExpiry
  case preemptSaveDone => exact .execPreemptSaveDone
  case preemptRestoreDone => exact .execPreemptRestoreDone
  case cmdTimeoutExpiry => exact .execCmdTimeoutExpiry
  case releaseHoldExpiry => exact .execReleaseHoldExpiry
  case egressReadDone => exact .execEgressReadDone
  case sprintGateHoldExpiry => exact .execSprintGateHoldExpiry
  case sprintAbortEnd => exact .execSprintAbortEnd
  case cmdSprintBind => exact .execCmdSprintBind
  case cmdSprintUnbind => exact .execCmdSprintUnbind
  case destroyEnd => exact .execDestroyEnd
  case crHeadWrite => exact .execCrHeadWrite
  case dmwrCompletion => exact .execDmwrCompletion
  case dmwrRetryTimer => exact .execDmwrRetryTimer
  case dmwrTimeout => exact .execDmwrTimeout
  case rtMirrorFetchDone => exact .execRtMirrorFetchDone
  case registerWrite => exact .execRegisterWrite
  case seatCatchDrained => exact .execSeatCatchDrained
  case seatCopyDone => exact .execSeatCopyDone
  case catchDeadlineExpiry => exact .execCatchDeadlineExpiry
  case migrationGranuleCopied => exact .execMigrationGranuleCopied
  case seatScrubDone => exact .execSeatScrubDone
  case monitorEvent => exact .execMonitorEvent
  case ctxDescReadDone => exact .execCtxDescReadDone
  case queueFetchDone => exact .execQueueFetchDone
  case slotSeqRetry => exact .execSlotSeqRetry
  case launchBlockReadDone => exact .execLaunchBlockReadDone
  case waitReadDone => exact .execWaitReadDone
  case arrOpRetire => exact .execArrOpRetire
  case mmaPause => exact .execMmaPause
  case coreLoadResponse => exact .execCoreLoadResponse
  case storeAck => exact .execStoreAck
  case arrIssueUnblock => exact .execArrIssueUnblock
  case arrWaitDone => exact .execArrWaitDone
  case vzFenceComplete => exact .execVzFenceComplete
  case xferSubmitUnblock => exact .execXferSubmitUnblock
  case seatEndDrained => exact .execSeatEndDrained
  case fenceCasCompletion => exact .execFenceCasCompletion
  case prefillDone => exact .execPrefillDone
  case reqPacketArrival => exact .execReqPacketArrival
  case rspPacketArrival => exact .execRspPacketArrival
  case mgtPacketArrival => exact .execMgtPacketArrival
  case redNodeArrival => exact .execRedNodeArrival
  case combineHoldExpiry => exact .execCombineHoldExpiry
  case redPacketArrival => exact .execRedPacketArrival
  case netRequestTimeout => exact .execNetRequestTimeout
  case hostRequestTimeout => exact .execHostRequestTimeout
  case minimalSafeFunction => exact .execMinimalSafeFunction
  case stage1End => exact .execStage1End
  case dumpAccessTimeout => exact .execDumpAccessTimeout
  case dumpEnd => exact .execDumpEnd
  case patrolScrubRead => exact .execPatrolScrubRead
  case cxlCheckDone => exact .execCxlCheckDone
  case cxlDecoderCommitDone => exact .execCxlDecoderCommitDone
  case cxlPortEnumerated => exact .execCxlPortEnumerated
  case cxlMemResponse => exact .execCxlMemResponse
  case capacityChange => exact .execCapacityChange
  case contextSwapInDone => exact .execContextSwapInDone
  case cmdSeqSlot => exact .execCmdSeqSlot
  case seqSlotRecordReadDone => exact .execSeqSlotRecordReadDone
  case cmdWkeyLoad => exact .execCmdWkeyLoad
  case wkeyBlobReadDone => exact .execWkeyBlobReadDone
  case cmdWkeyClear => exact .execCmdWkeyClear
  case mctpTxAcceptTimeout => exact .execMctpTxAcceptTimeout
  case fwVerifyDone => exact .execFwVerifyDone
  case dbgDataRead => exact .execDbgDataRead
  case wakeFold => exact .execWakeFold
  case ghRequestTimeout => exact .execGhRequestTimeout
  case leaseExpiryTimer => exact .execLeaseExpiryTimer
  case leaseRenewTimer => exact .execLeaseRenewTimer
  case leaseLossTimer => exact .execLeaseLossTimer
  case gv4SeatAction => exact .execGv4SeatAction
  case gv4ActionReport => exact .execGv4ActionReport
  case leaseFaultReport => exact .execLeaseFaultReport
  case cmdGhengoOpen => exact .execCmdGhengoOpen
  case chMatchTimeout => exact .execChMatchTimeout
  case cmdGhengoClose => exact .execCmdGhengoClose
  case bhMoveGranuleCopied => exact .execBhMoveGranuleCopied
  case bhMemberExpiry => exact .execBhMemberExpiry
  case cmdBhLease => exact .execCmdBhLease
  case cmdBhRelease => exact .execCmdBhRelease
  case bhHomeRenewTimer => exact .execBhHomeRenewTimer
  case bhKeyRenewalTimeout => exact .execBhKeyRenewalTimeout
  case bhResolveTimeout => exact .execBhResolveTimeout
  case admRetryTimer => exact .execAdmRetryTimer
  case ghPacketReceive => exact .execGhPacketReceive

theorem Completes.exists_next {a : Ans} (h : Completes a) : ∃ t, a = .next t := by
  cases h
  exact ⟨_, rfl⟩

/-- A step with a command at the front of the queue runs it (O1). -/
theorem step_of_pending {s : State} {c : Instr} {rest : List Instr} (h : s.pending = c :: rest) : step s = exec c { s with pending := rest } := by
  unfold step
  rw [h]

/-- A step without a command lets the device run on by itself. -/
theorem step_of_idle {s : State} (h : s.pending = []) : step s = .next (idle s) := by
  unfold step
  rw [h]

/-- Settles O2: the idle block by its two cases (log 2), and every command by the forms it is built from. -/
theorem idleTick : Obligations.IdleTick :=
  ⟨fun _ hempty hgood => (step_of_idle hempty).trans (congrArg Host.Outcome.next (if_pos hgood)),
    fun _ hempty hgood => (step_of_idle hempty).trans (congrArg Host.Outcome.next (if_neg (ne_true_of_eq_false hgood))),
    fun c s => (completes_exec c s).exists_next,
    fun c rest s hfront => by
      rw [step_of_pending hfront]
      exact (completes_exec c _).exists_next⟩

end Sys2Proof
end

section
/-! What the power levels and the allocations change (15 R502, R506, R511). -/
namespace Sys2Proof
open Sys2Proof.Machine

/-! ### The error log -/

theorem raiseCause_errLog (s : State) (fn c : Nat) : (raiseCause s fn c).errLog = s.errLog := (congrArg State.errLog (outsideCauses_raiseCause s fn c) :)

/-- The record that is filed for an error (14 R434, 16 R541). -/
def filedError (s : State) (e : ErrRec) : ErrRec := { e with seq := s.errSeq, tbDetect := if e.tbDetect = 0 then s.tb else e.tbDetect }

theorem errLog_fileError (s : State) (e : ErrRec) : (fileError s false e).errLog = keepNewest 4096 (s.errLog ++ [filedError s e]) := by
  unfold fileError
  dsimp only
  rw [if_neg Bool.false_ne_true]
  split
  · split
    · rw [islandPut_errLog, filedError]
    · rw [filedError]
  · rw [raiseCause_errLog, fnStPut_errLog]
    split
    · rw [islandPut_errLog, filedError]
    · rw [filedError]

theorem getLast_keepNewest {α : Type} {n : Nat} (hn : 0 < n) (l : List α) (x : α) : (keepNewest n (l ++ [x])).getLast? = some x := by
  unfold keepNewest
  rw [List.drop_append_of_le_length (by simp; omega), List.getLast?_append]
  rfl

/-- A filed error is the newest record of the module's log. -/
theorem last_fileError (s : State) (e : ErrRec) : (fileError s false e).errLog.getLast? = some (filedError s e) := by
  rw [errLog_fileError, getLast_keepNewest (by decide)]

/-! ### Levels -/

/-- The state without what a change of level touches. -/
def outsideLevels (s : State) : State := { s with regs := [], seats := [], lent := [] }

/-- The state without the levels of the leases and the seats. -/
def outsideSeatLevels (s : State) : State := { s with seats := [], lent := [] }

theorem outsideSeatLevels_seatsLevel (s : State) (seats : List Nat) (l : Nat) : outsideSeatLevels (seatsLevel s seats l) = outsideSeatLevels s :=
  foldl_keeps outsideSeatLevels (fun s i => by
    dsimp only
    split
    · rfl
    · rfl) seats s

theorem outsideSeatLevels_lentLevel (s : State) (id l : Nat) : outsideSeatLevels (lentLevel s id l) = outsideSeatLevels s :=
  (outsideSeatLevels_seatsLevel _ _ _).trans rfl

@[simp] theorem pget_lentLevel (s : State) (id l k : Nat) : pget (lentLevel s id l) k = pget s k :=
  (congrArg (pget · k) (outsideSeatLevels_lentLevel s id l) :)

@[simp] theorem shellOf_lentLevel (s : State) (id l k : Nat) : shellOf (lentLevel s id l) k = shellOf s k :=
  (congrArg (shellOf · k) (outsideSeatLevels_lentLevel s id l) :)

theorem outsideLevels_lentLevel (s : State) (id l : Nat) : outsideLevels (lentLevel s id l) = outsideLevels s :=
  (congrArg outsideLevels (outsideSeatLevels_lentLevel s id l) :)

theorem pget_shellLevel (s : State) (slot l k : Nat) : pget (shellLevel s slot l) k = if k = P.powerLevel slot then l else pget s k :=
  (congrArg (pget · k) (outsideSeatLevels_seatsLevel (pset s (P.powerLevel slot) l) _ l) :).trans (pget_pset _ _ _ _)

theorem outsideLevels_shellLevel (s : State) (slot l : Nat) : outsideLevels (shellLevel s slot l) = outsideLevels s :=
  (congrArg outsideLevels (outsideSeatLevels_seatsLevel (pset s (P.powerLevel slot) l) _ l) :).trans rfl

theorem powerLevel_injective : Function.Injective P.powerLevel := by
  intro a b h
  simp only [P.powerLevel, pkey] at h
  omega

/-- Putting every seat at its level again leaves every parameter. -/
@[simp] theorem pget_relevel (s : State) (k : Nat) : pget (relevel s) k = pget s k := by
  refine (foldl_keeps (pget · k) (fun _ _ => pget_lentLevel _ _ _ _) _ _).trans (foldl_keeps (pget · k) (fun s i => ?_) _ _)
  rw [pget_shellLevel]
  split
  · next h => rw [h]
  · rfl

theorem outsideLevels_relevel (s : State) : outsideLevels (relevel s) = outsideLevels s :=
  (foldl_keeps outsideLevels (fun _ _ => outsideLevels_lentLevel _ _ _) _ _).trans
    (foldl_keeps outsideLevels (fun _ _ => outsideLevels_shellLevel _ _ _) _ _)

theorem outsideLevels_powerForcePl7 (s : State) : outsideLevels (powerForcePl7 s) = outsideLevels s :=
  (foldl_keeps outsideLevels (fun _ _ => outsideLevels_lentLevel _ _ _) _ _).trans
    (foldl_keeps outsideLevels (fun _ _ => outsideLevels_shellLevel _ _ _) _ _)

theorem mem_liveSlots {s : State} {n : Nat} : n ∈ liveSlots s ↔ n < 32 ∧ (shellOf s n).st ≠ .free := by
  simp [liveSlots]

theorem nodup_liveSlots (s : State) : (liveSlots s).Nodup := List.nodup_range.filter _

/-- PL7 leaves every parameter but the levels of shells in use. -/
theorem pget_powerForcePl7_of_ne {s : State} {k : Nat} (hk : ∀ n < 32, k ≠ P.powerLevel n) : pget (powerForcePl7 s) k = pget s k := by
  refine (foldl_keeps (pget · k) (fun _ _ => pget_lentLevel _ _ _ _) _ _).trans ?_
  refine List.foldlRecOn (motive := fun t => pget t k = pget s k) (liveSlots s) _ rfl fun t ht n hn => ?_
  rw [pget_shellLevel, if_neg (hk n (mem_liveSlots.1 hn).1), ht]

theorem level_powerForcePl7 {s : State} {n : Nat} (hn : n ∈ liveSlots s) : pget (powerForcePl7 s) (P.powerLevel n) = 7 :=
  (foldl_keeps (pget · (P.powerLevel n)) (fun _ _ => pget_lentLevel _ _ _ _) _ _).trans
    (foldl_at_mem (view := fun s j => pget s (P.powerLevel j)) (inv := fun _ => True)
      (fun s i hi => by rw [pget_shellLevel, if_neg (powerLevel_injective.ne hi)])
      (fun _ _ _ => trivial) (fun s _ => by rw [pget_shellLevel, if_pos rfl]) hn trivial)

/-! ### Allocations -/

/-- The state without what an allocation touches: levels, and what filing an error touches. -/
def outsideAllocations (s : State) : State :=
  { s with regs := [], seats := [], lent := [], fnRegs := [], sent := [], errSeq := 0, errLog := [], islands := [], fns := [] }

theorem outsideAllocations_shellLevel (s : State) (slot l : Nat) : outsideAllocations (shellLevel s slot l) = outsideAllocations s :=
  (congrArg outsideAllocations (outsideLevels_shellLevel s slot l) :)

theorem outsideAllocations_lentLevel (s : State) (id l : Nat) : outsideAllocations (lentLevel s id l) = outsideAllocations s :=
  (congrArg outsideAllocations (outsideLevels_lentLevel s id l) :)

theorem outsideAllocations_fileError (s : State) (e : ErrRec) : outsideAllocations (fileError s false e) = outsideAllocations s :=
  (congrArg outsideAllocations (outsideErrors_fileError s e) :)

theorem outsideAllocations_pset (s : State) (k v : Nat) : outsideAllocations (pset s k v) = outsideAllocations s := rfl

theorem outsideAllocations_allocPut (unmet scaled : Bool) (slot w : Nat) (s : State) :
    outsideAllocations (allocPut unmet scaled slot w s) = outsideAllocations s := by
  unfold allocPut
  split
  · split
    · exact outsideAllocations_lentLevel _ _ _
    · rfl
  · dsimp only
    split
    · rw [outsideAllocations_fileError]
      split
      · rw [outsideAllocations_shellLevel, outsideAllocations_pset, outsideAllocations_pset]
      · rfl
    · split
      · rw [outsideAllocations_shellLevel, outsideAllocations_pset, outsideAllocations_pset]
      · rfl

theorem outsideAllocations_powerAllocate (s : State) : outsideAllocations (powerAllocate s) = outsideAllocations s := by
  unfold powerAllocate
  dsimp only
  rw [outsideAllocations_pset]
  exact foldl_keeps outsideAllocations (fun t (p : Nat × Nat) => outsideAllocations_allocPut (allocations s).2 (scaledBelow s p.1) p.1 p.2 t) _ s

/-- The parameters that are no shell's own (15 Table Power-8). -/
def NotOfShell (k : Nat) : Prop := k < pkey 0x2100 0 ∨ pkey 0x2120 0 ≤ k

theorem NotOfShell.ne {k n j : Nat} (hk : NotOfShell k) (hn : n < 32) (hj : j < 256) : k ≠ pkey (0x2100 + n) j := by
  simp only [NotOfShell, pkey] at *
  omega

theorem NotOfShell.ne_powerLevel {k n : Nat} (hk : NotOfShell k) (hn : n < 32) : k ≠ P.powerLevel n := hk.ne hn (by decide)
theorem NotOfShell.ne_allocW {k n : Nat} (hk : NotOfShell k) (hn : n < 32) : k ≠ P.allocW n := hk.ne hn (by decide)
theorem NotOfShell.ne_powerScaled {k n : Nat} (hk : NotOfShell k) (hn : n < 32) : k ≠ P.powerScaled n := hk.ne hn (by decide)

theorem pget_allocPut_of_notOfShell {k : Nat} (hk : NotOfShell k) (unmet scaled : Bool) (slot w : Nat) (s : State) :
    pget (allocPut unmet scaled slot w s) k = pget s k := by
  unfold allocPut
  split
  · split
    · exact pget_lentLevel _ _ _ _
    · rfl
  · next hslot =>
    have hlevel : ∀ t : State, pget (shellLevel t slot 7) k = pget t k := fun t => by
      rw [pget_shellLevel, if_neg (hk.ne_powerLevel (by omega))]
    have hput : ∀ a b, pget (pset (pset s (P.allocW slot) a) (P.powerScaled slot) b) k = pget s k := fun a b => by
      rw [pget_pset_ne _ _ _ _ (hk.ne_powerScaled (by omega)), pget_pset_ne _ _ _ _ (hk.ne_allocW (by omega))]
    dsimp only
    split
    · rw [pget_fileError]
      split
      · rw [hlevel, hput]
      · exact hput _ _
    · split
      · rw [hlevel, hput]
      · exact hput _ _

/-- The allocation leaves every parameter that is no shell's own, but BUDGET_UNMET. -/
theorem pget_powerAllocate {s : State} {k : Nat} (hk : NotOfShell k) (hne : k ≠ P.alertStatus) : pget (powerAllocate s) k = pget s k :=
  (pget_pset_ne _ _ _ _ hne).trans
    (foldl_keeps (pget · k) (fun t (p : Nat × Nat) => pget_allocPut_of_notOfShell hk _ (scaledBelow s p.1) p.1 p.2 t) _ s)

@[simp] theorem power_powerAllocate (s : State) : (powerAllocate s).power = s.power := (congrArg State.power (outsideAllocations_powerAllocate s) :)
@[simp] theorem octGet_powerAllocate (s : State) (k : Nat) : octGet (powerAllocate s) k = octGet s k :=
  (congrArg (octGet · k) (outsideAllocations_powerAllocate s) :)

end Sys2Proof
end

section
/-! O54: the sharing of power and of energy (15 R507, R509, R519). -/
namespace Sys2Proof
open Sys2Proof.Machine

/-! ### The level that follows (15 R509) -/

section
variable {s : State} {p w c cap : Nat}

/-- The first level below which a seat's measured power fits its allocation. -/
theorem levelNext_of_over (h : 100 * w < p) :
    levelNext s p w c cap = ((List.range 8).find? (fun l => decide (l > c) && decide (p * plPower s l ≤ 100 * w * plPower s c))).getD 7 := by
  unfold levelNext
  rw [if_pos h, List.head?_filter]

/-- Where a level is found it lies below the present one and fits, and none between fits; where none is, the answer is PL7. -/
theorem levelNext_spec (h : 100 * w < p) :
    (c < levelNext s p w c cap ∨ levelNext s p w c cap = 7) ∧ levelNext s p w c cap ≤ 7 ∧
      (∀ l, c < l → l < levelNext s p w c cap → ¬ p * plPower s l ≤ 100 * w * plPower s c) ∧
      (levelNext s p w c cap < 7 → p * plPower s (levelNext s p w c cap) ≤ 100 * w * plPower s c) := by
  rw [levelNext_of_over h]
  cases hfind : (List.range 8).find? (fun l => decide (l > c) && decide (p * plPower s l ≤ 100 * w * plPower s c)) with
  | none =>
    refine ⟨.inr rfl, le_rfl, fun l hcl hl hfits => ?_, fun hlt => absurd hlt (lt_irrefl 7)⟩
    have hl7 : l < 7 := hl
    have hnone := List.find?_eq_none.1 hfind l (List.mem_range.2 (by omega))
    simp [hcl, hfits] at hnone
  | some n =>
    obtain ⟨hn, i, hi, rfl, hbefore⟩ := List.find?_eq_some_iff_getElem.1 hfind
    simp only [List.length_range, List.getElem_range, gt_iff_lt, Bool.and_eq_true, decide_eq_true_eq] at hi hn hbefore
    simp only [Option.getD_some, List.getElem_range]
    refine ⟨.inl hn.1, by omega, fun l hcl hl hfits => ?_, fun _ => hn.2⟩
    simpa [hcl, hfits] using hbefore l hl

theorem levelNext_of_within (h : p ≤ 100 * w) :
    levelNext s p w c cap = if cap < c ∧ p * plPower s (c - 1) * 100 ≤ 95 * (100 * w) * plPower s c then c - 1 else c := by
  unfold levelNext
  rw [if_neg (by omega), ← mul_assoc 95 100 w]

end

/-! ### The sharing of power (15 R507) -/

/-- A sharing of `a` among the shells of `l`: each between its base and its cap, and no more in all than there is. -/
structure Shared (a : Nat) (l : List PowerShare) (q : List (PowerShare × Nat)) : Prop where
  perm : (q.map (·.1)).Perm l
  bounds : ∀ p ∈ q, p.1.base ≤ p.2 ∧ p.2 ≤ p.1.cap
  sum : (q.map (·.2)).sum ≤ a

/-- What of a round falls to one shell: its weight's part of the rest, on top of what it has. -/
def roundPart (r w : Nat) (p : PowerShare × Nat) : Nat := (p.2 * w + r * p.1.weight) / w

theorem sum_roundPart_le (r : Nat) {w : Nat} (hw : 0 < w) (q : List (PowerShare × Nat)) (hweights : (q.map (fun p => p.1.weight)).sum ≤ w) :
    (q.map (roundPart r w)).sum ≤ (q.map (·.2)).sum + r := by
  have hpart : (q.map (fun p => roundPart r w p * w)).sum ≤ (q.map (fun p => p.2 * w + r * p.1.weight)).sum :=
    List.sum_le_sum fun p _ => Nat.div_mul_le_self _ _
  have hsum : (q.map (fun p => p.2 * w + r * p.1.weight)).sum = (q.map (·.2)).sum * w + r * (q.map (fun p => p.1.weight)).sum := by
    rw [List.sum_map_add, List.sum_map_mul_right, List.sum_map_mul_left]
  rw [List.sum_map_mul_right, hsum] at hpart
  refine Nat.le_of_mul_le_mul_right (hpart.trans ?_) hw
  rw [add_mul]
  exact Nat.add_le_add_left (Nat.mul_le_mul_left r hweights) _

section
variable {a : Nat} {l : List PowerShare} {closed opened : List (PowerShare × Nat)} (hshared : Shared a l (closed ++ opened))
  {r w : Nat} (hr : r = a - ((closed ++ opened).map (·.2)).sum) (hw : w = (opened.map (fun p => p.1.weight)).sum) (hpos : 0 < w)
include hshared hr hw hpos

/-- A round that closes nobody divides the rest by weight. -/
theorem Shared.round (hopen : ∀ p ∈ opened, p.2 * w + r * p.1.weight < p.1.cap * w) :
    Shared a l (closed ++ opened.map (fun p => (p.1, roundPart r w p))) := by
  refine ⟨?_, fun p hp => ?_, ?_⟩
  · simpa [List.map_map, Function.comp_def] using hshared.perm
  · rcases List.mem_append.1 hp with hp | hp
    · exact hshared.bounds p (List.mem_append_left _ hp)
    · obtain ⟨x, hx, rfl⟩ := List.mem_map.1 hp
      refine ⟨(hshared.bounds x (List.mem_append_right _ hx)).1.trans ?_, (Nat.div_lt_of_lt_mul ((hopen x hx).trans_eq (mul_comm _ _))).le⟩
      exact (Nat.le_div_iff_mul_le hpos).2 (Nat.le_add_right _ _)
  · have hround := sum_roundPart_le r hpos opened hw.ge
    have hsum := hshared.sum
    simp only [List.map_append, List.sum_append, List.map_map, Function.comp_def] at hsum hr ⊢
    change (closed.map (·.2)).sum + (opened.map (roundPart r w)).sum ≤ a
    omega

/-- A round in which shells reach their cap closes them with it. -/
theorem Shared.close :
    Shared a l ((closed ++ (opened.filter (fun p => decide (p.2 * w + r * p.1.weight ≥ p.1.cap * w))).map (fun p => (p.1, p.1.cap)))
      ++ opened.filter (fun p => !decide (p.2 * w + r * p.1.weight ≥ p.1.cap * w))) := by
  have hperm := List.filter_append_perm (fun p : PowerShare × Nat => decide (p.2 * w + r * p.1.weight ≥ p.1.cap * w)) opened
  refine ⟨?_, fun p hp => ?_, ?_⟩
  · refine List.Perm.trans ?_ hshared.perm
    simp only [List.map_append, List.map_map, Function.comp_def, List.append_assoc]
    rw [← List.map_append]
    exact (hperm.map _).append_left _
  · rw [List.append_assoc, List.mem_append, List.mem_append] at hp
    rcases hp with hp | hp | hp
    · exact hshared.bounds p (List.mem_append_left _ hp)
    · obtain ⟨x, hx, rfl⟩ := List.mem_map.1 hp
      obtain ⟨hbase, hcap⟩ := hshared.bounds x (List.mem_append_right _ (List.mem_of_mem_filter hx))
      exact ⟨hbase.trans hcap, le_rfl⟩
    · exact hshared.bounds p (List.mem_append_right _ (List.mem_of_mem_filter hp))
  · have hweights : ((opened.filter (fun p => decide (p.2 * w + r * p.1.weight ≥ p.1.cap * w))).map (fun p => p.1.weight)).sum ≤ w := by
      rw [hw]
      exact (List.filter_sublist.map _).sum_le_sum (fun _ _ => Nat.zero_le _)
    have hcaps : ((opened.filter (fun p => decide (p.2 * w + r * p.1.weight ≥ p.1.cap * w))).map (fun p => p.1.cap)).sum ≤
        ((opened.filter (fun p => decide (p.2 * w + r * p.1.weight ≥ p.1.cap * w))).map (roundPart r w)).sum :=
      List.sum_le_sum fun p hp => (Nat.le_div_iff_mul_le hpos).2 (of_decide_eq_true (List.mem_filter.1 hp).2)
    have hround := sum_roundPart_le r hpos _ hweights
    have hsplit := (hperm.map (·.2)).sum_eq
    have hsum := hshared.sum
    simp only [List.map_append, List.sum_append, List.map_map, Function.comp_def] at hsplit hsum hr ⊢
    omega

end

/-- Every round keeps a sharing, whatever fuel is left. -/
theorem shareLoop_shared {a : Nat} {l : List PowerShare} (n : Nat) {closed opened : List (PowerShare × Nat)}
    (hshared : Shared a l (closed ++ opened)) (hweight : ∀ p ∈ opened, 0 < p.1.weight) :
    ∃ q, Shared a l q ∧ shareLoop n a closed opened = q.map (fun p => (p.1.slot, p.2 / 100)) := by
  induction n generalizing closed opened with
  | zero => exact ⟨_, hshared, rfl⟩
  | succ n ih =>
    unfold shareLoop
    dsimp only
    split
    · exact ⟨_, hshared, rfl⟩
    · next hgoes =>
      have hpos : 0 < (opened.map (fun p => p.1.weight)).sum := by
        obtain ⟨x, hx⟩ := List.exists_mem_of_ne_nil _ (not_or.1 hgoes).2
        exact (hweight x hx).trans_le (List.single_le_sum (fun _ _ => Nat.zero_le _) _ (List.mem_map_of_mem hx))
      split
      · next hnobody =>
        refine ⟨_, hshared.round rfl rfl hpos fun p hp => ?_, ?_⟩
        · simpa using List.all_eq_true.1 hnobody p hp
        · simp only [List.map_append, List.map_map, Function.comp_def, roundPart, Nat.div_div_eq_div_mul]
      · exact ih (hshared.close rfl rfl hpos) fun p hp => hweight p (List.mem_of_mem_filter hp)

/-- The sharing of power: every shell has its share once, between its base and its cap, and the shares fit. -/
theorem shareLoop_spec {a : Nat} {l : List PowerShare} (hl : ∀ p ∈ l, p.base ≤ p.cap ∧ 0 < p.weight) (hfits : (l.map (·.base)).sum ≤ a)
    (hslots : (l.map (·.slot)).Nodup) (n : Nat) :
    let r := shareLoop n a [] (l.map (fun p => (p, p.base)))
    (r.map (·.1)).Perm (l.map (·.slot)) ∧ (∀ x ∈ r, ∀ p ∈ l, p.slot = x.1 → p.base / 100 ≤ x.2 ∧ x.2 ≤ p.cap / 100) ∧ (r.map (·.2)).sum * 100 ≤ a := by
  have hstart : Shared a l ([] ++ l.map (fun p => (p, p.base))) := by
    refine ⟨?_, fun p hp => ?_, ?_⟩
    · simp [List.map_map, Function.comp_def]
    · obtain ⟨x, hx, rfl⟩ := List.mem_map.1 hp
      exact ⟨le_rfl, (hl x hx).1⟩
    · simpa [List.map_map, Function.comp_def] using hfits
  have hweight : ∀ p ∈ l.map (fun p => (p, p.base)), 0 < p.1.weight := fun p hp => by
    obtain ⟨x, hx, rfl⟩ := List.mem_map.1 hp
    exact (hl x hx).2
  obtain ⟨q, hq, heq⟩ := shareLoop_shared n hstart hweight
  dsimp only
  rw [heq]
  refine ⟨?_, fun x hx p hp hslot => ?_, ?_⟩
  · simpa [List.map_map, Function.comp_def] using hq.perm.map (·.slot)
  · obtain ⟨y, hy, rfl⟩ := List.mem_map.1 hx
    obtain rfl : p = y.1 := List.inj_on_of_nodup_map hslots hp (hq.perm.subset (List.mem_map_of_mem hy)) hslot
    exact ⟨Nat.div_le_div_right (hq.bounds y hy).1, Nat.div_le_div_right (hq.bounds y hy).2⟩
  · refine le_trans ?_ hq.sum
    rw [List.map_map, ← List.sum_map_mul_right]
    exact List.sum_le_sum fun p _ => Nat.div_mul_le_self _ _

/-! ### The sharing of energy (15 R519) -/

theorem length_energyParts (e total : Nat) (ws : List Nat) (acc : Nat) : (energyParts e total acc ws).length = ws.length := by
  induction ws generalizing acc with
  | nil => rfl
  | cons w ws ih => simp [energyParts, ih]

/-- The parts up to a weight add up to what falls to that weight. -/
theorem sum_energyParts (e total : Nat) (ws : List Nat) (acc : Nat) :
    (energyParts e total acc ws).sum + e * acc / total = e * (acc + ws.sum) / total := by
  induction ws generalizing acc with
  | nil => simp [energyParts]
  | cons w ws ih =>
    have hle : e * acc / total ≤ e * (acc + w) / total := Nat.div_le_div_right (Nat.mul_le_mul_left e (Nat.le_add_right _ _))
    have hrest := ih (acc + w)
    simp only [energyParts, List.sum_cons, ← add_assoc] at hrest ⊢
    omega

theorem energySplit_spec {e : Nat} {l : List (Nat × Nat)} (h : (l.map (·.2)).sum ≠ 0) :
    ((energySplit e l).map (·.2)).sum = e ∧ (energySplit e l).map (·.1) = l.map (·.1) := by
  unfold energySplit
  dsimp only
  rw [if_neg h]
  have hlength := length_energyParts e (l.map (·.2)).sum (l.map (·.2)) 0
  refine ⟨?_, List.map_fst_zip (by simp [hlength])⟩
  rw [List.map_snd_zip (by simp [hlength])]
  have hsum := sum_energyParts e (l.map (·.2)).sum (l.map (·.2)) 0
  rw [zero_add, mul_zero, Nat.zero_div, add_zero, Nat.mul_div_cancel _ (Nat.pos_of_ne_zero h)] at hsum
  exact hsum

end Sys2Proof
end

section
/-! O54: budget grants, the control step, alerts, thermal steps and energy (15 R504 to R521; a thermal step saturates at seven, log 18, and a
release is counted from the die's last step, log 82). -/
namespace Sys2Proof
open Sys2Proof.Machine

/-! ### Grants (15 R504, R505) -/

section
variable {s : State}

/-- The codes of a grant in the order of Table Power-7. -/
theorem grantCode_spec (s : State) (v : Nat) :
    let last := leNat (octGet s P.budgetGrant)
    let bad := grantWatts v < 1000 ∨ (1 ≤ grantLease v ∧ grantLease v ≤ 99) ∨ 60000 < grantLease v
    (bad → grantCode s v = 0x0603) ∧ (¬ bad → pget s P.powerLimitW < grantWatts v → grantCode s v = 0x0602) ∧
    (¬ bad → grantWatts v ≤ pget s P.powerLimitW →
      (pget s P.budgetState = 0 → grantCode s v = 0) ∧
      (pget s P.budgetState ≠ 0 → (serialCmp (grantSeq last) (grantSeq v) = .older → grantCode s v = 0x0605) ∧
        (serialCmp (grantSeq last) (grantSeq v) = .outside → grantCode s v = 0x0606) ∧ (serialCmp (grantSeq last) (grantSeq v) = .newer → grantCode s v = 0) ∧
        (serialCmp (grantSeq last) (grantSeq v) = .equal → grantCode s v = if v = last then 0 else 0x0604))) := by
  refine ⟨fun hbad => if_pos hbad, fun hbad hlimit => (if_neg hbad).trans (if_pos hlimit), fun hbad hlimit => ?_⟩
  have hcode := (if_neg hbad : grantCode s v = _).trans (if_neg (not_lt.2 hlimit))
  refine ⟨fun hfirst => hcode.trans (if_pos hfirst), fun hlater => ?_⟩
  replace hcode := hcode.trans (if_neg hlater)
  refine ⟨fun h => ?_, fun h => ?_, fun h => ?_, fun h => ?_⟩
  all_goals exact hcode.trans (by rw [h])

theorem notOfShell_of_lt {k : Nat} (h : k < pkey 0x2100 0) : NotOfShell k := .inl h
theorem notOfShell_of_ge {k : Nat} (h : pkey 0x2120 0 ≤ k) : NotOfShell k := .inr h

/-- A new budget in force leaves every parameter that is no shell's own, but itself and BUDGET_UNMET. -/
theorem pget_budgetSet {w k : Nat} (hk : NotOfShell k) (halert : k ≠ P.alertStatus) (hne : k ≠ P.budgetEffectiveW) : pget (budgetSet s w) k = pget s k :=
  (pget_powerAllocate hk halert).trans (pget_pset_ne _ _ _ _ hne)

theorem budgetEffectiveW_budgetSet (s : State) (w : Nat) : pget (budgetSet s w) P.budgetEffectiveW = w :=
  (pget_powerAllocate (.inl (by decide)) (by decide)).trans (pget_pset_self _ _ _)

@[simp] theorem octGet_budgetSet (s : State) (w k : Nat) : octGet (budgetSet s w) k = octGet s k := octGet_powerAllocate _ _

theorem exec_budgetGrantWrite_of_refused {g : BitVec 128} (hup : dictUp s = true) (h : grantCode s g.toNat ≠ 0) :
    exec (.budgetGrantWrite g) s = .next (pset s P.budgetResult (grantCode s g.toNat)) := by
  refine (if_pos hup).trans (congrArg Host.Outcome.next ?_)
  unfold budgetGrantWrite
  dsimp only
  rw [if_pos h]

/-- The state that a grant that passes leaves before the budget is set. -/
def grantTaken (s : State) (v : Nat) : State :=
  { octPut (pset (pset s P.budgetResult 0) P.budgetState 1) P.budgetGrant (leBytes 16 v) with power := { s.power with tbGrant := s.tb } }

theorem exec_budgetGrantWrite_of_good {g : BitVec 128} (hup : dictUp s = true) (h : grantCode s g.toNat = 0) :
    exec (.budgetGrantWrite g) s = .next (budgetSet (grantTaken s g.toNat) (grantWatts g.toNat)) := by
  refine (if_pos hup).trans (congrArg Host.Outcome.next ?_)
  unfold budgetGrantWrite
  dsimp only
  rw [if_neg (not_not_intro h), h]
  rfl

theorem pget_grantTaken (v k : Nat) : pget (grantTaken s v) k = pget (pset (pset s P.budgetResult 0) P.budgetState 1) k := rfl

theorem octGet_grantTaken (v k : Nat) : octGet (grantTaken s v) k = octGet (octPut s P.budgetGrant (leBytes 16 v)) k := rfl

/-- A grant that passes is in force with its watts. -/
theorem budgetSet_grantTaken (s : State) (v : Nat) :
    let t := budgetSet (grantTaken s v) (grantWatts v)
    pget t P.budgetState = 1 ∧ pget t P.budgetResult = 0 ∧ pget t P.budgetEffectiveW = grantWatts v ∧ octGet t P.budgetGrant = leBytes 16 v ∧ t.power.tbGrant = s.tb := by
  refine ⟨?_, ?_, budgetEffectiveW_budgetSet _ _, ?_, congrArg PowerSt.tbGrant (power_powerAllocate _)⟩
  · rw [pget_budgetSet (.inl (by decide)) (by decide) (by decide), pget_grantTaken, pget_pset_self]
  · rw [pget_budgetSet (.inl (by decide)) (by decide) (by decide), pget_grantTaken, pget_pset_ne _ _ _ _ (by decide), pget_pset_self]
  · rw [octGet_budgetSet, octGet_grantTaken, octGet_octPut_self]

@[simp] theorem octGet_fileError (s : State) (e : ErrRec) (k : Nat) : octGet (fileError s false e) k = octGet s k :=
  (congrArg (octGet · k) (outsideErrors_fileError s e) :)

theorem power_fileError (s : State) (e : ErrRec) : (fileError s false e).power = s.power := (congrArg State.power (outsideErrors_fileError s e) :)

/-- A lease that has run out puts the fallback budget in force and files a record (15 Table Power-4). -/
theorem budgetLeaseExpiry_due (s : State) (w : Nat) :
    let t := fileError (budgetSet (pset s P.budgetState 2) w) false { kind := 0x12, scope := 0 }
    pget t P.budgetState = 2 ∧ pget t P.budgetEffectiveW = w ∧ octGet t P.budgetGrant = octGet s P.budgetGrant ∧ ∃ e, t.errLog.getLast? = some e ∧ e.kind = 0x12 := by
  refine ⟨?_, ?_, ?_, _, last_fileError _ _, rfl⟩
  · rw [pget_fileError, pget_budgetSet (.inl (by decide)) (by decide) (by decide), pget_pset_self]
  · rw [pget_fileError, budgetEffectiveW_budgetSet]
  · rw [octGet_fileError, octGet_budgetSet]
    rfl

/-! ### The control step (15 R506, R509) -/

/-- The state of a control step once the measurements are taken over and the allocations follow. -/
def powerMeasured (s : State) (mv w pl : Nat) : State :=
  let s1 := pset (pset s P.inputMv mv) P.inputPowerW w
  let s2 := if w > pget s P.budgetEffectiveW then pinc s1 P.budgetOverruns else s1
  powerAllocate (pset s2 P.platformReserveW (max 400 (cdiv pl 10 * 10)))

section
variable (s) (mv w pl : Nat)

theorem pget_powerMeasured {k : Nat} (hk : NotOfShell k) (halert : k ≠ P.alertStatus) (hreserve : k ≠ P.platformReserveW) :
    pget (powerMeasured s mv w pl) k =
      pget (if w > pget s P.budgetEffectiveW then pinc (pset (pset s P.inputMv mv) P.inputPowerW w) P.budgetOverruns else pset (pset s P.inputMv mv) P.inputPowerW w) k :=
  (pget_powerAllocate hk halert).trans (pget_pset_ne _ _ _ _ hreserve)

theorem inputMv_powerMeasured : pget (powerMeasured s mv w pl) P.inputMv = mv := by
  rw [pget_powerMeasured s mv w pl (.inr (by decide)) (by decide) (by decide)]
  have hset : pget (pset (pset s P.inputMv mv) P.inputPowerW w) P.inputMv = mv := (pget_pset_ne _ _ _ _ (by decide)).trans (pget_pset_self _ _ _)
  split
  · exact (pget_pinc_ne _ _ _ (by decide)).trans hset
  · exact hset

theorem inputPowerW_powerMeasured : pget (powerMeasured s mv w pl) P.inputPowerW = w := by
  rw [pget_powerMeasured s mv w pl (.inr (by decide)) (by decide) (by decide)]
  split
  · exact (pget_pinc_ne _ _ _ (by decide)).trans (pget_pset_self _ _ _)
  · exact pget_pset_self _ _ _

theorem budgetOverruns_powerMeasured : pget (powerMeasured s mv w pl) P.budgetOverruns =
    if pget s P.budgetEffectiveW < w then satInc32 (pget s P.budgetOverruns) else pget s P.budgetOverruns := by
  rw [pget_powerMeasured s mv w pl (.inr (by decide)) (by decide) (by decide)]
  have hset : pget (pset (pset s P.inputMv mv) P.inputPowerW w) P.budgetOverruns = pget s P.budgetOverruns :=
    (pget_pset_ne _ _ _ _ (by decide)).trans (pget_pset_ne _ _ _ _ (by decide))
  split
  · rw [pget_pinc_self, hset]
  · exact hset

theorem platformReserveW_powerMeasured : pget (powerMeasured s mv w pl) P.platformReserveW = max 400 (cdiv pl 10 * 10) :=
  (pget_powerAllocate (.inl (by decide)) (by decide)).trans (pget_pset_self _ _ _)

theorem power_powerMeasured : (powerMeasured s mv w pl).power = s.power := by
  refine (power_powerAllocate _).trans ?_
  rw [pset_power]
  split
  · rfl
  · rfl

end

theorem exec_powerControlStep_of_alert {mv w pl : Nat} {d : List (Nat × Nat)} (hup : coxRuns s = true) (hphase : s.power.phase ≠ .none) :
    exec (.powerControlStep mv w pl d) s = .next (powerMeasured s mv w pl) :=
  (if_neg (by rw [hup]; decide)).trans (if_pos ((congrArg PowerSt.phase (power_powerMeasured s mv w pl)).trans_ne hphase))

theorem exec_powerControlStep_of_none {mv w pl : Nat} {d : List (Nat × Nat)} (hup : coxRuns s = true) (hphase : s.power.phase = .none) :
    exec (.powerControlStep mv w pl d) s = .next (if bitOf (pget (powerMeasured s mv w pl) P.alertStatus) 4 then powerForcePl7 (powerMeasured s mv w pl)
      else d.foldl (fun a x => levelDecide a x.1 x.2) (relevel (powerMeasured s mv w pl))) := by
  refine ((if_neg (by rw [hup]; decide)).trans (if_neg (not_not_intro ((congrArg PowerSt.phase (power_powerMeasured s mv w pl)).trans hphase)))).trans ?_
  exact (apply_ite Host.Outcome.next _ _ _).symm

theorem powerLevel_levelDecide {slot : Nat} (hslot : slot < 32) (hused : (shellOf s slot).st ≠ .free) (p : Nat) :
    pget (levelDecide s slot p) (P.powerLevel slot) =
      max (pget s (P.plCap slot)) (levelNext s p (pget s (P.allocW slot)) (pget s (P.powerLevel slot)) (pget s (P.plCap slot))) := by
  unfold levelDecide
  rw [if_pos hslot, if_neg hused, pget_shellLevel, if_pos rfl]

end

/-- The four figures of 15 R509 in the form of the statement. -/
theorem levelNext_within {s : State} {p w c cap : Nat} (h : p ≤ 100 * w) :
    (cap < c ∧ p * plPower s (c - 1) * 100 ≤ 95 * (100 * w) * plPower s c → levelNext s p w c cap = c - 1) ∧
    (¬ (cap < c ∧ p * plPower s (c - 1) * 100 ≤ 95 * (100 * w) * plPower s c) → levelNext s p w c cap = c) := by
  rw [levelNext_of_within h]
  exact ⟨fun hup => if_pos hup, fun hup => if_neg hup⟩

/-! ### Alerts (15 R513 to R515) -/

section
variable {s : State}

theorem alertStatus_ne_powerLevel (n : Nat) : P.alertStatus ≠ P.powerLevel n := by
  simp only [P.alertStatus, P.powerLevel, pkey]
  omega

theorem alertCounter_ge (i : Nat) : pkey 0x8002 0 < alertCounter i := by
  unfold alertCounter
  split
  all_goals decide

theorem alertCounter_ne_alertStatus (i : Nat) : alertCounter i ≠ P.alertStatus := by
  have h := alertCounter_ge i
  simp only [P.alertStatus, pkey] at *
  omega

theorem alertCounter_ne_powerLevel (i : Nat) {n : Nat} (hn : n < 32) : alertCounter i ≠ P.powerLevel n := by
  have h := alertCounter_ge i
  simp only [P.powerLevel, pkey] at *
  omega

/-- The state of an alert before its levels are forced. -/
def alertStarted (s : State) : State :=
  { s with power := { s.power with
      phase := .asserted
      targets := if s.power.phase = .none then (liveSlots s).map (fun i => (i, pget s (P.powerLevel i))) else s.power.targets
      tbAlert := if pget s P.alertStatus % 16 = 0 then s.tb else s.power.tbAlert } }

/-- The state once the alert's source is set and counted. -/
def alertCounted (s : State) (i : Nat) : State :=
  pinc (pset (powerForcePl7 (alertStarted s)) P.alertStatus (setBitOf (pget (powerForcePl7 (alertStarted s)) P.alertStatus) i true)) (alertCounter i)

theorem exec_alertAssert_of_new {i : Fin 4} (hgood : s.pins.inputGood = true) (hnew : bitOf (pget s P.alertStatus) i.val = false) :
    exec (.alertAssert i) s = .next (alertOut (fileError (alertCounted s i.val) false { kind := 0x10, scope := 0, detail0 := i.val })) :=
  if_neg (by rw [hgood, hnew]; decide)

theorem pget_alertStarted (k : Nat) : pget (alertStarted s) k = pget s k := rfl
theorem liveSlots_alertStarted : liveSlots (alertStarted s) = liveSlots s := rfl
@[simp] theorem pget_alertOut (s : State) (k : Nat) : pget (alertOut s) k = pget s k := rfl
@[simp] theorem errLog_alertOut (s : State) : (alertOut s).errLog = s.errLog := rfl
@[simp] theorem power_alertOut (s : State) : (alertOut s).power = s.power := rfl

theorem power_alertCounted (s : State) (i : Nat) : (alertCounted s i).power = (alertStarted s).power :=
  (congrArg State.power (outsideLevels_powerForcePl7 (alertStarted s)) :)

theorem alertStatus_alertCounted (s : State) (i : Nat) : pget (alertCounted s i) P.alertStatus = setBitOf (pget s P.alertStatus) i true := by
  unfold alertCounted
  rw [pget_pinc_ne _ _ _ (alertCounter_ne_alertStatus i).symm, pget_pset_self, pget_powerForcePl7_of_ne fun n _ => alertStatus_ne_powerLevel n, pget_alertStarted]

theorem alertCounter_alertCounted (s : State) (i : Nat) : pget (alertCounted s i) (alertCounter i) = satInc32 (pget s (alertCounter i)) := by
  unfold alertCounted
  rw [pget_pinc_self, pget_pset_ne _ _ _ _ (alertCounter_ne_alertStatus i)]
  rw [pget_powerForcePl7_of_ne fun n hn => alertCounter_ne_powerLevel i hn, pget_alertStarted]

theorem powerLevel_alertCounted {n : Nat} (i : Nat) (hn : n ∈ liveSlots s) : pget (alertCounted s i) (P.powerLevel n) = 7 := by
  unfold alertCounted
  rw [pget_pinc_ne _ _ _ (alertCounter_ne_powerLevel i (mem_liveSlots.1 hn).1).symm, pget_pset_ne _ _ _ _ (alertStatus_ne_powerLevel n).symm]
  exact level_powerForcePl7 hn

/-- Once an alert source is cleared, the pins and the pause of a start follow. -/
def alertCleared (s : State) (i : Nat) : State := alertOut (pset s P.alertStatus (setBitOf (pget s P.alertStatus) i false))

theorem alertStatus_alertCleared (s : State) (i : Nat) : pget (alertCleared s i) P.alertStatus = setBitOf (pget s P.alertStatus) i false := by
  unfold alertCleared
  rw [pget_alertOut, pget_pset_self]

/-- The state with the time of an alert taken from a stage's limit. -/
def stagePaused (s : State) (t : Nat) : State := { s with start := { s.start with pausedNs := t } }

/-- The state with the alert's hold begun. -/
def holdBegun (s : State) (t : Nat) : State := { s with power := { s.power with phase := .holding, tbHold := t } }

/-- Clearing the last source begins the hold; clearing another begins nothing (15 R515). -/
theorem exec_alertDeassert_of_set {i : Fin 4} (hset : bitOf (pget s P.alertStatus) i.val = true) :
    let n := s.start.pausedNs + (s.tb - max s.power.tbAlert s.start.tbStage)
    (setBitOf (pget s P.alertStatus) i.val false % 16 = 0 → s.power.phase = .asserted →
        exec (.alertDeassert i) s = .next (holdBegun (stagePaused (alertCleared s i.val) n) s.tb)) ∧
      (setBitOf (pget s P.alertStatus) i.val false % 16 = 0 → s.power.phase ≠ .asserted → exec (.alertDeassert i) s = .next (stagePaused (alertCleared s i.val) n)) ∧
      (setBitOf (pget s P.alertStatus) i.val false % 16 ≠ 0 → exec (.alertDeassert i) s = .next (alertCleared s i.val)) := by
  have hrow : exec (.alertDeassert i) s = _ := if_neg (by rw [hset]; decide)
  have hstatus := alertStatus_alertCleared s i.val
  unfold alertCleared at hstatus
  refine ⟨fun hclear hphase => ?_, fun hclear hphase => ?_, fun hclear => ?_⟩
  · refine hrow.trans (congrArg Host.Outcome.next ?_)
    dsimp only
    rw [hstatus, if_pos hclear]
    exact if_pos ⟨hclear, hphase⟩
  · refine hrow.trans (congrArg Host.Outcome.next ?_)
    dsimp only
    rw [hstatus, if_pos hclear]
    exact if_neg fun h => hphase h.2
  · refine hrow.trans (congrArg Host.Outcome.next ?_)
    dsimp only
    rw [hstatus, if_neg hclear, if_neg fun h => hclear h.1]
    rfl

/-- One shell's level in a step of the rise (15 R515). -/
def riseShell (s : State) (n : Nat) : State :=
  shellLevel s n (if pget s (P.powerLevel n) > tget (fun _ => 0) s.power.targets n then pget s (P.powerLevel n) - 1 else pget s (P.powerLevel n))

/-- The levels after a step of the rise. -/
def risen (s : State) : State :=
  (lentIds ((liveSlots s).foldl riseShell s)).foldl (fun t i => lentLevel t i ((((t.lent.find? (fun l => l.id == i)).map (·.level)).getD 0) - 1))
    ((liveSlots s).foldl riseShell s)

theorem power_riseShell (s : State) (n : Nat) : (riseShell s n).power = s.power := (congrArg State.power (outsideLevels_shellLevel s n _) :)

theorem power_lentLevel (s : State) (i l : Nat) : (lentLevel s i l).power = s.power := (congrArg State.power (outsideLevels_lentLevel s i l) :)

theorem power_risen (s : State) : (risen s).power = s.power :=
  (foldl_keeps State.power (fun _ _ => power_lentLevel _ _ _) _ _).trans (foldl_keeps State.power power_riseShell _ _)

theorem powerLevel_risen {n : Nat} (hn : n ∈ liveSlots s) : pget (risen s) (P.powerLevel n) =
    if tget (fun _ => 0) s.power.targets n < pget s (P.powerLevel n) then pget s (P.powerLevel n) - 1 else pget s (P.powerLevel n) := by
  refine (foldl_keeps (pget · (P.powerLevel n)) (fun _ _ => pget_lentLevel _ _ _ _) _ _).trans ?_
  refine foldl_at_once (view := fun s j => pget s (P.powerLevel j)) (inv := fun t => t.power = s.power)
    (g := fun v => if tget (fun _ => 0) s.power.targets n < v then v - 1 else v) (fun t i hi => ?_) (fun t i ht => (power_riseShell t i).trans ht)
    (fun t ht => ?_) (nodup_liveSlots s) hn rfl
  · exact (pget_shellLevel _ _ _ _).trans (if_neg (powerLevel_injective.ne hi))
  · refine (pget_shellLevel _ _ _ _).trans ((if_pos rfl).trans ?_)
    rw [ht]

theorem exec_alertRiseStep_of_due (hphase : s.power.phase = .rising) (hdue : tbPast s.tb s.power.tbHold 100000 = true) :
    ∃ p, exec .alertRiseStep s = .next { risen s with power := p } ∧ (p.phase = .rising ∨ p.phase = .none) := by
  have hrow : exec .alertRiseStep s = .next _ := if_neg (by rw [hphase, hdue]; decide)
  by_cases hend : ((liveSlots (risen s)).all (fun i => decide (pget (risen s) (P.powerLevel i) ≤ tget (fun _ => 0) (risen s).power.targets i)) = true ∧
      (risen s).lent.all (fun l => l.level == 0 || l.kind != 1) = true)
  · exact ⟨_, hrow.trans (congrArg Host.Outcome.next (if_pos hend)), .inr rfl⟩
  · exact ⟨_, hrow.trans (congrArg Host.Outcome.next (if_neg hend)), .inl ((congrArg PowerSt.phase (power_risen s)).trans hphase)⟩

end

/-! ### Thermal steps (15 R516) -/

section
variable (s : State) (d : Nat)

/-- The state with a die's thermal steps set and every seat at the level that follows. -/
def thermalStepped (s : State) (d k : Nat) : State :=
  relevel { s with power := { s.power with steps := tset (fun _ => 0) s.power.steps d k, tbSteps := tset (fun _ => 0) s.power.tbSteps d s.tb } }

theorem steps_thermalStepped (k : Nat) : tget (fun _ => 0) (thermalStepped s d k).power.steps d = k := by
  have hpower : (thermalStepped s d k).power.steps = tset (fun _ => 0) s.power.steps d k :=
    (congrArg (fun t : State => t.power.steps) (outsideLevels_relevel _) :)
  rw [hpower, tget_tset_self]

theorem pget_thermalStepped (k j : Nat) : pget (thermalStepped s d k) j = pget s j := pget_relevel _ _

/-- The records of a throttle, for each shell of a list (15 R516). -/
def throttleRecorded (d : Nat) (l : List Nat) (s : State) : State :=
  l.foldl (fun s i => fileError s false { kind := 0x13, scope := 2, shell := i, fn := pget s (P.ownerFunction i), detail0 := d }) s

theorem outsideErrors_throttleRecorded (l : List Nat) : outsideErrors (throttleRecorded d l s) = outsideErrors s :=
  foldl_keeps outsideErrors (fun _ _ => outsideErrors_fileError _ _) l s

theorem pget_throttleRecorded (l : List Nat) (k : Nat) : pget (throttleRecorded d l s) k = pget s k :=
  (congrArg (pget · k) (outsideErrors_throttleRecorded s d l) :)

theorem power_throttleRecorded (l : List Nat) : (throttleRecorded d l s).power = s.power := (congrArg State.power (outsideErrors_throttleRecorded s d l) :)

end

section
variable {s : State} {d : Fin 25} {temp : BitVec 16}

theorem exec_thermalThrottleStep_of_hot (hup : coxRuns s = true) (hhot : (pget s P.thermalThrottleC : Int) ≤ temp.toInt)
    (hsteps : tget (fun _ => 0) s.power.steps d.val < 7) (hdue : thermalDue s d.val 1000000 = true) :
    ∃ l, exec (.thermalThrottleStep d temp) s = .next (throttleRecorded d.val l
      (pinc (thermalStepped (pset s (P.dieTempC d.val) temp.toNat) d.val (tget (fun _ => 0) s.power.steps d.val + 1)) P.thermalThrottles)) := by
  have hgoes : ¬(tget (fun _ => 0) s.power.steps d.val ≥ 7 ∨ (!thermalDue s d.val 1000000) = true) := not_or.2 ⟨by omega, by rw [hdue]; decide⟩
  exact ⟨_, (if_neg (by rw [hup]; decide)).trans ((if_pos hhot).trans (if_neg hgoes))⟩

theorem exec_thermalThrottleStep_of_hot_idle (hup : coxRuns s = true) (hhot : (pget s P.thermalThrottleC : Int) ≤ temp.toInt)
    (hidle : 7 ≤ tget (fun _ => 0) s.power.steps d.val ∨ thermalDue s d.val 1000000 = false) :
    exec (.thermalThrottleStep d temp) s = .next (pset s (P.dieTempC d.val) temp.toNat) :=
  (if_neg (by rw [hup]; decide)).trans ((if_pos hhot).trans (if_pos (hidle.imp id (fun h => by rw [h]; rfl))))

theorem exec_thermalThrottleStep_of_cool (hup : coxRuns s = true) (hcool : temp.toInt ≤ (pget s P.thermalThrottleC : Int) - 3)
    (hsteps : 0 < tget (fun _ => 0) s.power.steps d.val) (hdue : thermalDue s d.val 10000000 = true) :
    exec (.thermalThrottleStep d temp) s =
      .next (thermalStepped (pset s (P.dieTempC d.val) temp.toNat) d.val (tget (fun _ => 0) s.power.steps d.val - 1)) :=
  (if_neg (by rw [hup]; decide)).trans ((if_neg (by omega)).trans (if_pos ⟨hcool, hsteps, hdue⟩))

theorem exec_thermalThrottleStep_of_cool_idle (hup : coxRuns s = true) (hcool : temp.toInt < (pget s P.thermalThrottleC : Int))
    (hidle : (pget s P.thermalThrottleC : Int) - 3 < temp.toInt ∨ tget (fun _ => 0) s.power.steps d.val = 0 ∨ thermalDue s d.val 10000000 = false) :
    exec (.thermalThrottleStep d temp) s = .next (pset s (P.dieTempC d.val) temp.toNat) := by
  refine (if_neg (by rw [hup]; decide)).trans ((if_neg (by omega)).trans (if_neg fun ⟨hlow, hsteps, hdue⟩ => ?_))
  rcases hidle with h | h | h
  · omega
  · omega
  · exact Bool.false_ne_true (h.symm.trans hdue)

end

/-- What a throttle leaves: the step, its count and the temperature. -/
theorem thermal_throttled (s : State) (d : Fin 25) (k n : Nat) (l : List Nat) :
    let t := throttleRecorded d.val l (pinc (thermalStepped (pset s (P.dieTempC d.val) k) d.val n) P.thermalThrottles)
    tget (fun _ => 0) t.power.steps d.val = n ∧ pget t P.thermalThrottles = satInc32 (pget s P.thermalThrottles) ∧ pget t (P.dieTempC d.val) = k := by
  have hne : P.thermalThrottles ≠ P.dieTempC d.val := by
    simp only [P.thermalThrottles, P.dieTempC, pkey]
    omega
  refine ⟨?_, ?_, ?_⟩
  · rw [power_throttleRecorded, pinc_power, steps_thermalStepped]
  · rw [pget_throttleRecorded, pget_pinc_self, pget_thermalStepped, pget_pset_ne _ _ _ _ hne]
  · rw [pget_throttleRecorded, pget_pinc_ne _ _ _ hne.symm, pget_thermalStepped, pget_pset_self]

/-- A release lowers the steps and is not counted. -/
theorem thermal_released (s : State) (d : Fin 25) (k n : Nat) :
    let t := thermalStepped (pset s (P.dieTempC d.val) k) d.val n
    tget (fun _ => 0) t.power.steps d.val = n ∧ pget t P.thermalThrottles = pget s P.thermalThrottles := by
  refine ⟨steps_thermalStepped _ _ _, ?_⟩
  rw [pget_thermalStepped]
  refine pget_pset_ne _ _ _ _ ?_
  simp only [P.thermalThrottles, P.dieTempC, pkey]
  omega

/-! ### The meters (15 R519 to R521) -/

section
variable {s : State}

theorem shellEnergyMj_injective : Function.Injective P.shellEnergyMj := by
  intro a b h
  simp only [P.shellEnergyMj, pkey] at h
  omega

/-- The energy of a shell and its meter as the dictionary shows it. -/
def energyOf (s : State) (n : Nat) : Nat × Nat := ((shellOf s n).energyUj, pget s (P.shellEnergyMj n))

theorem energyOf_shellEnergy_self (s : State) (n uj : Nat) :
    energyOf (shellEnergy s n uj) n = ((energyOf s n).1 + uj, ((energyOf s n).1 + uj) / 1000 % 2 ^ 64) := by
  unfold energyOf shellEnergy
  dsimp only
  rw [shellOf_of_pset, shellOf_shellPut_self, pget_pset_self]

theorem energyOf_shellEnergy_ne (s : State) {n j : Nat} (uj : Nat) (h : j ≠ n) : energyOf (shellEnergy s n uj) j = energyOf s j := by
  unfold energyOf shellEnergy
  dsimp only
  rw [shellOf_of_pset, shellOf_shellPut_ne _ _ _ _ h, pget_pset_ne _ _ _ _ (shellEnergyMj_injective.ne h), pget_of_shellPut]

/-- The state with each shell in use charged its part of the energy. -/
def energyCharged (s : State) (mine : Nat → Nat) : State := ((liveSlots s).map (fun i => (i, mine i))).foldl (fun s p => shellEnergy s p.1 p.2) s

theorem power_energyCharged (s : State) (mine : Nat → Nat) : (energyCharged s mine).power = s.power :=
  foldl_keeps State.power (f := fun s (p : Nat × Nat) => shellEnergy s p.1 p.2) (fun _ _ => rfl) _ _

theorem energyOf_energyCharged_of_free {n : Nat} (mine : Nat → Nat) (h : n ∉ liveSlots s) : energyOf (energyCharged s mine) n = energyOf s n := by
  unfold energyCharged
  rw [List.foldl_map]
  exact foldl_at_not_mem (view := energyOf) (fun s i hi => energyOf_shellEnergy_ne s (mine i) hi) h s

theorem energyOf_energyCharged {n : Nat} (mine : Nat → Nat) (h : n ∈ liveSlots s) :
    energyOf (energyCharged s mine) n = ((energyOf s n).1 + mine n, ((energyOf s n).1 + mine n) / 1000 % 2 ^ 64) := by
  unfold energyCharged
  rw [List.foldl_map]
  exact foldl_at_once (view := energyOf) (inv := fun _ => True) (g := fun v => (v.1 + mine n, (v.1 + mine n) / 1000 % 2 ^ 64))
    (fun s i hi => energyOf_shellEnergy_ne s (mine i) hi) (fun _ _ _ => trivial) (fun s _ => energyOf_shellEnergy_self s n (mine n)) (nodup_liveSlots s) h trivial

/-- The state with the module's and the platform's energy. -/
def energyMetered (s : State) (m pl : Nat) : State :=
  pset (pset { s with power := { s.power with moduleUj := m, platformUj := pl } } P.moduleEnergyMj (m / 1000 % 2 ^ 64)) P.platformEnergyMj (pl / 1000 % 2 ^ 64)

theorem energyOf_energyMetered {n : Nat} (m pl : Nat) (hn : n < 32) : energyOf (energyMetered s m pl) n = energyOf s n := by
  have hplatform : P.shellEnergyMj n ≠ P.platformEnergyMj := by
    simp only [P.shellEnergyMj, P.platformEnergyMj, pkey]
    omega
  have hmodule : P.shellEnergyMj n ≠ P.moduleEnergyMj := by
    simp only [P.shellEnergyMj, P.moduleEnergyMj, pkey]
    omega
  exact congrArg (Prod.mk _) ((pget_pset_ne _ _ _ _ hplatform).trans (pget_pset_ne _ _ _ _ hmodule))

theorem moduleEnergyMj_energyMetered (m pl : Nat) : pget (energyMetered s m pl) P.moduleEnergyMj = m / 1000 % 2 ^ 64 :=
  (pget_pset_ne _ _ _ _ (by decide)).trans (pget_pset_self _ _ _)

theorem platformEnergyMj_energyMetered (m pl : Nat) : pget (energyMetered s m pl) P.platformEnergyMj = pl / 1000 % 2 ^ 64 := pget_pset_self _ _ _

/-- A tick of the meters charges each shell its part and the module all of it; the rest is the platform's. -/
theorem exec_energyTick (a b : List Nat) (x : List (SeatId × Nat)) (y : List (ChanId × Nat)) (z : List (GhPortId × Nat)) (o : Nat)
    (hgood : s.pins.inputGood = true) : ∃ (mine : Nat → Nat) (rest : Nat),
      exec (.energyTick a x b y z o) s = .next (energyMetered (energyCharged s mine) ((energyCharged s mine).power.moduleUj + (a.sum + b.sum + o))
        ((energyCharged s mine).power.platformUj + rest)) :=
  ⟨_, _, if_neg (by rw [hgood]; decide)⟩

end

/-- An alert that begins: its source, its count, its record, every shell at PL7 and the levels to return to. -/
theorem alertAssert_spec {s : State} (i : Fin 4) :
    let t := alertOut (fileError (alertCounted s i.val) false { kind := 0x10, scope := 0, detail0 := i.val })
    t.power.phase = .asserted ∧ pget t P.alertStatus = setBitOf (pget s P.alertStatus) i.val true ∧
      pget t (alertCounter i.val) = satInc32 (pget s (alertCounter i.val)) ∧ (∀ n, n < 32 → (shellOf s n).st ≠ .free → pget t (P.powerLevel n) = 7) ∧
      (∃ e, t.errLog.getLast? = some e ∧ e.kind = 0x10 ∧ e.detail0 = i.val) ∧
      (s.power.phase = .none → t.power.targets = (liveSlots s).map (fun n => (n, pget s (P.powerLevel n)))) ∧ (s.power.phase ≠ .none → t.power.targets = s.power.targets) := by
  have hpower : (alertOut (fileError (alertCounted s i.val) false { kind := 0x10, scope := 0, detail0 := i.val })).power = (alertStarted s).power :=
    (power_fileError _ _).trans (power_alertCounted s i.val)
  refine ⟨congrArg PowerSt.phase hpower, ?_, ?_, fun n hn hused => ?_, ⟨filedError (alertCounted s i.val) { kind := 0x10, scope := 0, detail0 := i.val }, ?_, rfl, rfl⟩, fun hphase => ?_, fun hphase => ?_⟩
  · rw [pget_alertOut, pget_fileError, alertStatus_alertCounted]
  · rw [pget_alertOut, pget_fileError, alertCounter_alertCounted]
  · rw [pget_alertOut, pget_fileError, powerLevel_alertCounted _ (mem_liveSlots.2 ⟨hn, hused⟩)]
  · rw [errLog_alertOut, last_fileError]
  · exact (congrArg PowerSt.targets hpower).trans (if_pos hphase)
  · exact (congrArg PowerSt.targets hpower).trans (if_neg hphase)

/-- Clearing an alert source. -/
theorem alertDeassert_spec {s : State} {i : Fin 4} (hset : bitOf (pget s P.alertStatus) i.val = true) :
    ∃ t, exec (.alertDeassert i) s = .next t ∧ pget t P.alertStatus = setBitOf (pget s P.alertStatus) i.val false ∧ t.power.targets = s.power.targets ∧
      (setBitOf (pget s P.alertStatus) i.val false % 16 = 0 → s.power.phase = .asserted → t.power.phase = .holding ∧ t.power.tbHold = s.tb) ∧
      (setBitOf (pget s P.alertStatus) i.val false % 16 ≠ 0 → t.power.phase = s.power.phase) := by
  obtain ⟨hhold, hpause, hrest⟩ := exec_alertDeassert_of_set hset
  by_cases hclear : setBitOf (pget s P.alertStatus) i.val false % 16 = 0
  · by_cases hphase : s.power.phase = .asserted
    · exact ⟨_, hhold hclear hphase, alertStatus_alertCleared s i.val, rfl, fun _ _ => ⟨rfl, rfl⟩, fun h => absurd hclear h⟩
    · exact ⟨_, hpause hclear hphase, alertStatus_alertCleared s i.val, rfl, fun _ h => absurd h hphase, fun h => absurd hclear h⟩
  · exact ⟨_, hrest hclear, alertStatus_alertCleared s i.val, rfl, fun h => absurd h hclear, fun _ => rfl⟩

/-- A tick of the meters: the module's and the platform's energy, and each shell's. -/
theorem energyTick_spec {s : State} (a b : List Nat) (x : List (SeatId × Nat)) (y : List (ChanId × Nat)) (z : List (GhPortId × Nat)) (o : Nat)
    (hgood : s.pins.inputGood = true) :
    ∃ t, exec (.energyTick a x b y z o) s = .next t ∧ t.power.moduleUj = s.power.moduleUj + (a.sum + b.sum + o) ∧ pget t P.moduleEnergyMj = t.power.moduleUj / 1000 % 2 ^ 64 ∧
      pget t P.platformEnergyMj = t.power.platformUj / 1000 % 2 ^ 64 ∧ s.power.platformUj ≤ t.power.platformUj ∧ (∀ n, (shellOf s n).st = .free → (shellOf t n).energyUj = (shellOf s n).energyUj) ∧
      ∀ n, n < 32 → (shellOf s n).st ≠ .free → (shellOf s n).energyUj ≤ (shellOf t n).energyUj ∧ pget t (P.shellEnergyMj n) = (shellOf t n).energyUj / 1000 % 2 ^ 64 := by
  obtain ⟨mine, rest, hexec⟩ := exec_energyTick (s := s) a b x y z o hgood
  rw [power_energyCharged] at hexec
  refine ⟨_, hexec, rfl, moduleEnergyMj_energyMetered _ _, platformEnergyMj_energyMetered _ _, Nat.le_add_right _ _, fun n hfree => ?_, fun n hn hused => ?_⟩
  · exact congrArg Prod.fst (energyOf_energyCharged_of_free mine fun h => (mem_liveSlots.1 h).2 hfree)
  · have hcharged := (energyOf_energyMetered (s.power.moduleUj + (a.sum + b.sum + o)) (s.power.platformUj + rest) hn).trans (energyOf_energyCharged mine (mem_liveSlots.2 ⟨hn, hused⟩))
    exact ⟨(Nat.le_add_right _ _).trans_eq (congrArg Prod.fst hcharged).symm,
      (congrArg Prod.snd hcharged).trans (congrArg (· / 1000 % 2 ^ 64) (congrArg Prod.fst hcharged)).symm⟩

/-- Settles O54: grants by `grantCode_spec`, the control step by what it takes over, the sharing by `shareLoop_spec`, alerts by their
phases, thermal steps by their table (saturating at seven, log 18; released from the last step, log 82), and energy by `energySplit_spec`. -/
theorem power : Obligations.Power := by
  refine ⟨fun s g hup => ?_, fun s => ⟨fun hstate hlease hdue => ?_, fun hnot => ?_⟩, fun s mv w pl d => ⟨fun hdown => ?_, fun hup hphase => ?_, fun hup hphase => ?_⟩,
    fun s p w c cap _ => ⟨fun h => (levelNext_spec h).1, fun h => (levelNext_spec h).2, levelNext_within⟩, fun s slot p hslot hused => powerLevel_levelDecide hslot hused p,
    fun a l hl hfits hslots => shareLoop_spec hl hfits hslots _, fun s i => ⟨fun hidle => ?_, fun hclear => ?_, fun hgood hnew => ?_, alertDeassert_spec, fun hphase hdue => ?_, fun hnot => ?_, fun hnot => ?_, fun hphase hdue => ?_⟩,
    fun s d temp => ⟨fun hdown => ?_, fun hup => ⟨fun hhot hsteps hdue => ?_, exec_thermalThrottleStep_of_hot_idle hup, exec_thermalThrottleStep_of_cool_idle hup, fun hcool hsteps hdue => ?_⟩⟩,
    fun e l hsum => energySplit_spec hsum, fun s a b x y z o => ⟨fun hbad => if_pos (by rw [hbad]; rfl), energyTick_spec a b x y z o⟩⟩
  · obtain ⟨hbad, hlimit, hgood⟩ := grantCode_spec s g.toNat
    exact ⟨hbad, hlimit, hgood, exec_budgetGrantWrite_of_refused hup, fun h => ⟨_, exec_budgetGrantWrite_of_good hup h, budgetSet_grantTaken s g.toNat⟩⟩
  · exact ⟨_, if_pos ⟨hstate, hlease, hdue⟩, budgetLeaseExpiry_due s _⟩
  · refine if_neg fun ⟨hstate, hlease, hdue⟩ => ?_
    rcases hnot with h | h | h
    · exact h hstate
    · exact hlease h
    · exact Bool.false_ne_true (h.symm.trans hdue)
  · exact if_pos (by rw [hdown]; rfl)
  · exact ⟨_, exec_powerControlStep_of_alert hup hphase, inputMv_powerMeasured s mv w pl, inputPowerW_powerMeasured s mv w pl, platformReserveW_powerMeasured s mv w pl,
      budgetOverruns_powerMeasured s mv w pl, power_powerMeasured s mv w pl⟩
  · exact ⟨_, exec_powerControlStep_of_none hup hphase, inputMv_powerMeasured s mv w pl, inputPowerW_powerMeasured s mv w pl, platformReserveW_powerMeasured s mv w pl⟩
  · exact if_pos (hidle.imp (fun h => by rw [h]; rfl) id)
  · exact if_pos (by rw [hclear]; rfl)
  · exact ⟨_, exec_alertAssert_of_new hgood hnew, alertAssert_spec i⟩
  · exact if_pos ⟨hphase, hdue⟩
  · exact if_neg fun ⟨hphase, hdue⟩ => hnot.elim (· hphase) (fun h => Bool.false_ne_true (h.symm.trans hdue))
  · exact if_pos (hnot.imp id (fun h => by rw [h]; rfl))
  · obtain ⟨p, hexec, hp⟩ := exec_alertRiseStep_of_due hphase hdue
    exact ⟨_, hexec, hp, fun n hn hused => powerLevel_risen (mem_liveSlots.2 ⟨hn, hused⟩)⟩
  · exact if_pos (by rw [hdown]; rfl)
  · obtain ⟨l, hexec⟩ := exec_thermalThrottleStep_of_hot hup hhot hsteps hdue
    exact ⟨_, hexec, thermal_throttled s d temp.toNat _ l⟩
  · exact ⟨_, exec_thermalThrottleStep_of_cool hup hcool hsteps hdue, thermal_released s d temp.toNat _⟩

end Sys2Proof
end

section
/-! What the messages of Ghengo change, and which are taken up (14 R475, R478, R479). -/
namespace Sys2Proof
open Sys2Proof.Machine

/-! ### What a message leaves -/

/-- The state but for what requests, responses and the ports they leave by write. -/
def outsideMessages (s : State) : State := { s with sent := [], ghPorts := [], ghWaiting := [], ghTxn := 0, ghMsgs := [], ghKept := [] }

section
variable (s : State) (p dst epoch code key arg : Nat) (q h : AdmHead) (m : AdmMsg) (r busy : Bool) (body : List Nat)

theorem outsidePorts_admOut : outsidePorts (admOut s p h m r body) = outsidePorts s := by
  unfold admOut
  split
  · rfl
  · exact outsidePorts_ghOut _ _

theorem outsideMessages_admOut : outsideMessages (admOut s p h m r body) = outsideMessages s :=
  (congrArg outsideMessages (outsidePorts_admOut s p h m r body) :)

@[simp] theorem ghMsgs_admOut : (admOut s p h m r body).ghMsgs = s.ghMsgs := (congrArg State.ghMsgs (outsidePorts_admOut s p h m r body) :)
@[simp] theorem ghKept_admOut : (admOut s p h m r body).ghKept = s.ghKept := (congrArg State.ghKept (outsidePorts_admOut s p h m r body) :)

theorem outsideMessages_admSend : outsideMessages (admSend s dst m epoch key arg body) = outsideMessages s := (outsideMessages_admOut _ _ _ _ _ _).trans rfl

theorem outsideMessages_admOnce : outsideMessages (admOnce s dst m epoch key arg body) = outsideMessages s := (outsideMessages_admOut _ _ _ _ _ _).trans rfl

theorem outsideMessages_admAnswer : outsideMessages (admAnswer s q m busy epoch code arg body) = outsideMessages s := (outsideMessages_admOut _ _ _ _ _ _).trans rfl

theorem outsideMessages_bhFreeSend : outsideMessages (bhFreeSend s dst epoch key) = outsideMessages s :=
  (congrArg outsideMessages (outsideMessages_admSend s dst epoch key 0 .bhFree []) :)

/-- The request that `admSend` sends. -/
def sentRequest (s : State) (dst : Nat) (m : AdmMsg) (epoch key arg : Nat) (body : List Nat) : GhMsg :=
  { head := { src := ownModule s, dst := dst, txn := s.ghTxn, epoch := epoch, key := key, arg := arg }, msg := m, body := body, tb := s.tb, tbLast := s.tb }

@[simp] theorem ghMsgs_admSend : (admSend s dst m epoch key arg body).ghMsgs = s.ghMsgs ++ [sentRequest s dst m epoch key arg body] :=
  (ghMsgs_admOut _ _ _ _ _ _).trans rfl

/-- A request that is sent waits for its answer. -/
theorem exists_admSend : ∃ x ∈ (admSend s dst m epoch key arg body).ghMsgs, x.msg = m ∧ x.head.dst = dst ∧ x.head.epoch = epoch ∧ x.head.key = key ∧ x.head.arg = arg := by
  refine ⟨sentRequest s dst m epoch key arg body, ?_, rfl, rfl, rfl, rfl, rfl⟩
  rw [ghMsgs_admSend]
  exact List.mem_append_right _ (List.mem_singleton_self _)

/-- BH_FREE waits for its answer, marked as sent once. -/
theorem exists_bhFreeSend : ∃ x ∈ (bhFreeSend s dst epoch key).ghMsgs, x.msg = .bhFree ∧ x.head.dst = dst ∧ x.head.epoch = epoch ∧ x.head.key = key := by
  obtain ⟨x, hx, hmsg, hdst, hepoch, hkey, -⟩ := exists_admSend s dst epoch key 0 .bhFree []
  refine ⟨_, List.mem_map_of_mem hx, ?_⟩
  split
  · exact ⟨hmsg, hdst, hepoch, hkey⟩
  · exact ⟨hmsg, hdst, hepoch, hkey⟩

end

/-! ### Which messages are taken up (14 R475, R479) -/

/-- Whether a received message comes from the peer of a port that is UP, or from the module itself. -/
def admTaken (s : State) (h : GhHead) : Bool :=
  if h.port.val = 16 then s.start.islandsUp && h.src.toNat == ownModule s else (portOf s h.port.val).st == 3 && (portOf s h.port.val).peer == h.src.toNat

/-- The head of a received message as the module keeps it. -/
def admHeadOf (s : State) (h : GhHead) : AdmHead :=
  { src := h.src.toNat, dst := ownModule s, txn := h.txn.toNat, epoch := h.epoch.toNat, key := h.key.toNat, arg := h.arg.toNat }

section
variable {s : State} {h : GhHead} {f : AdmHead → State → State}

theorem admIn_of_denied (hdenied : admTaken s h = false) : admIn s h f = .next (if s.start.islandsUp then pinc s P.ghRxDenied else s) :=
  if_neg (ne_true_of_eq_false hdenied)

theorem admIn_of_taken (htaken : admTaken s h = true) : admIn s h f = .next (f (admHeadOf s h) s) := if_pos htaken

theorem admOnceOnly_of_new {q : AdmHead} {m : AdmMsg} {g : State → State} (hnew : keptFor s q.src q.txn = none) : admOnceOnly s q m g = g s := by
  unfold admOnceOnly
  rw [hnew]

/-- A new request that is taken up is performed. -/
theorem admIn_of_new {m : AdmMsg} {g : AdmHead → State → State} (htaken : admTaken s h = true) (hnew : keptFor s h.src.toNat h.txn.toNat = none) :
    admIn s h (fun q s => admOnceOnly s q m (g q)) = .next (g (admHeadOf s h) s) :=
  (admIn_of_taken htaken).trans (congrArg Host.Outcome.next (admOnceOnly_of_new hnew))

end

end Sys2Proof
end

section
/-! O53: the Boathouse, keys at their members and at their home (14 R489 to R495; a release waits for no drain, log 96; an answer for another
epoch, log 62; the fields of BH_ALLOC and BH_MOVE, log 27). -/
namespace Sys2Proof
open Sys2Proof.Machine

/-! ### Lists found by key -/

section
variable {α : Type} {f : α → Nat} {k : Nat}

/-- Where an entry of a key is found, putting another in its place lets that one be found. -/
theorem find_map_put {a : α} (ha : f a = k) {l : List α} {b : α} (h : l.find? (fun x => f x == k) = some b) :
    (l.map (fun x => if f x = k then a else x)).find? (fun x => f x == k) = some a := by
  induction l with
  | nil => cases h
  | cons x l ih =>
    by_cases hx : f x = k
    · simp [hx, ha]
    · rw [List.find?_cons_of_neg (by simpa using hx)] at h
      simp [hx, ih h]

theorem find_filter_self (l : List α) : (l.filter (fun x => f x != k)).find? (fun x => f x == k) = none := by
  rw [List.find?_filter, List.find?_eq_none]
  simp

theorem find_filter_ne (l : List α) {j : Nat} (h : j ≠ k) : (l.filter (fun x => f x != k)).find? (fun x => f x == j) = l.find? (fun x => f x == j) := by
  rw [List.find?_filter]
  congr 1
  funext x
  by_cases hx : f x = j
  · simp [hx, h]
  · simp [hx]

end

/-! ### A member's keys (14 R490, Table Ghengo-17) -/

section
variable {s : State} {key : Nat}

theorem bhHeld_cellWrite (s : State) (a : Nat) (c : Option Nat) (b : Bytes) : (cellWrite s a c b).bhHeld = s.bhHeld := by
  cases c with
  | none => rfl
  | some c => exact (congrArg State.bhHeld (outsideChans_cellWrite s a c b) :)

theorem bhHeld_unitsZero (us : List Nat) (s : State) : (us.foldl unitZero s).bhHeld = s.bhHeld :=
  foldl_keeps State.bhHeld (fun s a => bhHeld_cellWrite s a _ _) us s

theorem heldKey_congr {t : State} (h : t.bhHeld = s.bhHeld) (key : Nat) : heldKey t key = heldKey s key := by
  unfold heldKey
  rw [h]

/-- A key that is taken is held, and the others as before. -/
theorem heldKey_taken {t : State} {k : BhHeld} (h : t.bhHeld = s.bhHeld ++ [k]) (hnew : heldKey s key = none) (hkey : k.key = key) :
    heldKey t key = some k ∧ ∀ x, x ≠ key → heldKey t x = heldKey s x := by
  subst hkey
  unfold heldKey at *
  rw [h]
  refine ⟨?_, fun x hx => ?_⟩
  · rw [List.find?_append, hnew]
    simp
  · rw [List.find?_append]
    simp [Ne.symm hx]

/-- The state without a key, before its units are scrubbed. -/
def heldGone (s : State) (key : Nat) : State := { s with bhHeld := s.bhHeld.filter (fun x => x.key != key) }

theorem heldDrop_of_held {k : BhHeld} (h : heldKey s key = some k) : heldDrop s key = k.units.foldl (fun s a => memZero s a 0x200000) (heldGone s key) := by
  unfold heldDrop
  rw [h]
  rfl

/-- A key that leaves a member: it is held no more, and its units alone read zero. -/
theorem heldDrop_spec {k : BhHeld} (h : heldKey s key = some k) :
    heldKey (heldDrop s key) key = none ∧ (∀ x, x ≠ key → heldKey (heldDrop s key) x = heldKey s x) ∧
      (∀ u ∈ k.units, ∀ a, u ≤ a → a < u + 0x200000 → memGet (heldDrop s key) a = 0) ∧
      (∀ a, (∀ u ∈ k.units, a < u ∨ u + 0x200000 ≤ a) → memGet (heldDrop s key) a = memGet s a) := by
  rw [heldDrop_of_held h]
  have hheld : (k.units.foldl (fun s a => memZero s a 0x200000) (heldGone s key)).bhHeld = (heldGone s key).bhHeld :=
    foldl_keeps State.bhHeld (f := fun s a => memZero s a 0x200000) (fun _ _ => rfl) _ _
  refine ⟨(heldKey_congr hheld key).trans (find_filter_self _), fun x hx => (heldKey_congr hheld x).trans (find_filter_ne _ hx), fun u hu a hlo hhi => ?_, fun a ha => ?_⟩
  · exact foldl_reaches _ (P := fun t => memGet t a = 0) (f := fun s a => memZero s a 0x200000) (fun t _ ht => memGet_memZero_of_zero t ht) (fun t => memGet_memZero_self t hlo hhi) hu
  · refine List.foldlRecOn (motive := fun t => memGet t a = memGet s a) k.units _ rfl fun t ht u hu => ?_
    rw [memGet_memZero, if_neg (by rcases ha u hu with h | h <;> omega), ht]

/-! ### The messages at a member -/

variable {h : GhHead} (htaken : admTaken s h = true) (hnew : keptFor s h.src.toNat h.txn.toNat = none)
include htaken hnew

/-- BH_ALLOC of a key that is not held, by its checks and by what it holds then. -/
theorem exec_bhAlloc (hkey : heldKey s h.key.toNat = none) :
    let q := admHeadOf s h
    let n := bitsOf q.arg 9 0
    ((n = 0 ∨ 512 < n) → exec (.bhAlloc h) s = .next (admAnswer s q .bhAlloc false 0 0x0501 0 [])) ∧
    (1 ≤ n → n ≤ 512 →
      (bhServes s = false → exec (.bhAlloc h) s = .next (admAnswer s q .bhAlloc false 0 0x0511 0 [])) ∧
      (bhServes s = true → (bhFree s).length < n → exec (.bhAlloc h) s = .next (admAnswer s q .bhAlloc false 0 0x050E 0 [])) ∧
      (bhServes s = true → n ≤ (bhFree s).length → ∃ t k, exec (.bhAlloc h) s = .next (admAnswer t q .bhAlloc false q.epoch 0 0 []) ∧ heldKey t q.key = some k ∧ k.epoch = q.epoch ∧ k.home = q.src ∧
        k.st = 1 ∧ k.units = (bhFree s).take n ∧ k.tbRenew = s.tb ∧ k.bind = bitsOf q.arg 33 16 ∧ (∀ x, x ≠ q.key → heldKey t x = heldKey s x))) := by
  have hkey' : ¬(heldKey s (admHeadOf s h).key).isSome = true := by
    rw [show heldKey s (admHeadOf s h).key = none from hkey]
    exact Bool.false_ne_true
  have hrow : execBhAlloc h s = .next _ := (admIn_of_new htaken hnew).trans (congrArg Host.Outcome.next (if_neg hkey'))
  refine ⟨fun hn => hrow.trans (congrArg _ (if_pos hn)), fun hlo hhi => ?_⟩
  have hrow := hrow.trans (congrArg Host.Outcome.next (if_neg (by omega)))
  refine ⟨fun hserves => hrow.trans (congrArg _ (if_pos (by rw [hserves]; rfl))), fun hserves hfree => ?_, fun hserves hfree => ?_⟩
  · exact hrow.trans (congrArg _ ((if_neg (by rw [hserves]; exact Bool.false_ne_true)).trans (if_pos hfree)))
  · have hrow := hrow.trans (congrArg Host.Outcome.next ((if_neg (by rw [hserves]; exact Bool.false_ne_true)).trans (if_neg (not_lt.2 hfree))))
    exact ⟨_, _, hrow, (heldKey_taken (bhHeld_unitsZero _ _) hkey rfl).1, rfl, rfl, rfl, rfl, rfl, rfl, (heldKey_taken (bhHeld_unitsZero _ _) hkey rfl).2⟩

theorem exec_bhAlloc_of_held {k : BhHeld} (hkey : heldKey s h.key.toNat = some k) : exec (.bhAlloc h) s = .next (pinc s P.admProtocolErrors) :=
  show execBhAlloc h s = _ from (admIn_of_new htaken hnew).trans (congrArg _ (if_pos (Option.isSome_iff_exists.2 ⟨k, hkey⟩)))

/-- The messages that name no key held. -/
theorem exec_of_no_key (hkey : heldKey s h.key.toNat = none) :
    exec (.bhFree h) s = .next (admAnswer s (admHeadOf s h) .bhFree false (admHeadOf s h).epoch 0 0 []) ∧
      exec (.bhRenew h) s = .next (admAnswer s (admHeadOf s h) .bhRenew false 0 0x0506 0 []) ∧
      exec (.bhQuery h) s = .next (admAnswer s (admHeadOf s h) .bhQuery false 0 0x0506 0 []) ∧
      exec (.bhMove h) s = .next (admAnswer s (admHeadOf s h) .bhMove false 0 0x0506 0 []) := by
  have hkey' : heldKey s (admHeadOf s h).key = none := hkey
  refine ⟨show execBhFree h s = _ from (admIn_of_new htaken hnew).trans ?_, show execBhRenew h s = _ from (admIn_of_new htaken hnew).trans ?_, show execBhQuery h s = _ from (admIn_of_new htaken hnew).trans ?_, show execBhMove h s = _ from (admIn_of_new htaken hnew).trans ?_⟩
  · dsimp only
    rw [hkey']
    rfl
  · unfold bhCheck
    rw [hkey']
  · unfold bhCheck
    rw [hkey']
  · rw [hkey']

/-- The messages that name a key held at another epoch. -/
theorem exec_of_other_epoch {k : BhHeld} (hkey : heldKey s h.key.toNat = some k) (hepoch : k.epoch ≠ h.epoch.toNat) :
    exec (.bhFree h) s = .next (admAnswer s (admHeadOf s h) .bhFree false (admHeadOf s h).epoch 0 0 []) ∧
      exec (.bhRenew h) s = .next (admAnswer s (admHeadOf s h) .bhRenew false k.epoch 0x0506 0 []) ∧
      exec (.bhQuery h) s = .next (admAnswer s (admHeadOf s h) .bhQuery false k.epoch 0x0506 0 []) ∧
      exec (.bhMove h) s = .next (admAnswer s (admHeadOf s h) .bhMove false k.epoch 0x0506 0 []) := by
  have hkey' : heldKey s (admHeadOf s h).key = some k := hkey
  have hepoch' : k.epoch ≠ (admHeadOf s h).epoch := hepoch
  refine ⟨show execBhFree h s = _ from (admIn_of_new htaken hnew).trans ?_, show execBhRenew h s = _ from (admIn_of_new htaken hnew).trans ?_, show execBhQuery h s = _ from (admIn_of_new htaken hnew).trans ?_, show execBhMove h s = _ from (admIn_of_new htaken hnew).trans ?_⟩
  · dsimp only
    rw [hkey']
    dsimp only
    rw [if_neg (by simpa using hepoch')]
  · unfold bhCheck
    rw [hkey']
    dsimp only
    rw [if_neg hepoch']
  · unfold bhCheck
    rw [hkey']
    dsimp only
    rw [if_neg hepoch']
  · rw [hkey']
    dsimp only
    rw [if_pos hepoch']

/-- The messages that name a key held at its epoch. -/
theorem exec_of_epoch {k : BhHeld} (hkey : heldKey s h.key.toNat = some k) (hepoch : k.epoch = h.epoch.toNat) :
    exec (.bhFree h) s = .next (admAnswer (heldDrop s (admHeadOf s h).key) (admHeadOf s h) .bhFree false (admHeadOf s h).epoch 0 0 []) ∧
      exec (.bhRenew h) s = .next (admAnswer (heldPut s { k with tbRenew := s.tb }) (admHeadOf s h) .bhRenew false k.epoch 0 0 []) ∧
      exec (.bhQuery h) s = .next (admAnswer (heldPut s { k with tbRenew := s.tb }) (admHeadOf s h) .bhQuery false k.epoch 0 0 []) ∧
      (k.st ≠ 1 → exec (.bhMove h) s = .next (pinc s P.admProtocolErrors)) ∧
      (k.st = 1 → exec (.bhMove h) s = .next (admAnswer (heldPut s { k with
          st := 2, target := bitsOf (admHeadOf s h).arg 47 32, epoch2 := bitsOf (admHeadOf s h).arg 31 0, copied := 0, moveHead := some (admHeadOf s h) })
        (admHeadOf s h) .bhMove true k.epoch 0 0 [])) := by
  have hkey' : heldKey s (admHeadOf s h).key = some k := hkey
  have hepoch' : k.epoch = (admHeadOf s h).epoch := hepoch
  refine ⟨show execBhFree h s = _ from (admIn_of_new htaken hnew).trans ?_, show execBhRenew h s = _ from (admIn_of_new htaken hnew).trans ?_,
    show execBhQuery h s = _ from (admIn_of_new htaken hnew).trans ?_, fun hst => show execBhMove h s = _ from (admIn_of_new htaken hnew).trans ?_,
    fun hst => show execBhMove h s = _ from (admIn_of_new htaken hnew).trans ?_⟩
  · dsimp only
    rw [hkey']
    dsimp only
    rw [if_pos (by simpa using hepoch')]
  · unfold bhCheck
    rw [hkey']
    dsimp only
    rw [if_pos hepoch']
  · unfold bhCheck
    rw [hkey']
    dsimp only
    rw [if_pos hepoch']
  · rw [hkey']
    dsimp only
    rw [if_neg (not_not_intro hepoch'), if_pos hst]
  · rw [hkey']
    dsimp only
    rw [if_neg (not_not_intro hepoch'), if_neg (not_not_intro hst)]

end

/-! ### Timers and copies at a member -/

section
variable {s : State} {key : U64}

theorem exec_bhMoveGranuleCopied_of_unknown (h : heldKey s key.toNat = none) (b : Bool) : exec (.bhMoveGranuleCopied key b) s = .next s := by
  change execBhMoveGranuleCopied key b s = _
  unfold execBhMoveGranuleCopied
  rw [h]

theorem exec_bhMemberExpiry_of_unknown (h : heldKey s key.toNat = none) : exec (.bhMemberExpiry key) s = .next s := by
  change execBhMemberExpiry key s = _
  unfold execBhMemberExpiry
  rw [h]

theorem exec_bhMemberExpiry_of_held {k : BhHeld} (h : heldKey s key.toNat = some k) : exec (.bhMemberExpiry key) s =
    .next (if tbPast s.tb k.tbRenew (pget s P.admLeaseMs * 1000000) then pinc (heldDrop s k.key) P.bhExpired else s) := by
  change execBhMemberExpiry key s = _
  unfold execBhMemberExpiry
  rw [h]

theorem exec_bhMoveGranuleCopied_of_still {k : BhHeld} (h : heldKey s key.toNat = some k) (hstill : k.st ≠ 2 ∨ k.moveHead = none) (b : Bool) :
    exec (.bhMoveGranuleCopied key b) s = .next s := by
  have hnone : (if k.st = 2 then k.moveHead else none) = none := by
    rcases hstill with hst | hhead
    · exact if_neg hst
    · rw [hhead, ite_self]
  change execBhMoveGranuleCopied key b s = _
  unfold execBhMoveGranuleCopied
  rw [h]
  dsimp only
  rw [hnone]

/-- A copy that goes on: what the next granule's copy answers. -/
theorem exec_bhMoveGranuleCopied_of_moving {k : BhHeld} {q : AdmHead} (h : heldKey s key.toNat = some k) (hst : k.st = 2) (hhead : k.moveHead = some q) (b : Bool) :
    exec (.bhMoveGranuleCopied key b) s =
      if !b then .next (admAnswer (heldPut s { k with st := 1, moveHead := none }) q .bhMove false k.epoch 0x050F 0 [])
      else
        let out := emit s (.ghengo (portToward s k.target) 5 [k.key, k.epoch2, k.copied * 65536, leNat (cellRead s (granuleAt k k.copied) 65536)])
        if k.copied + 1 < k.units.length * 32 then .next (heldPut out { k with copied := k.copied + 1 })
        else .next (admAnswer (heldPut out { k with copied := k.copied + 1, st := 3, moveHead := none }) q .bhMove false k.epoch 0 0 []) := by
  have hsome : (if k.st = 2 then k.moveHead else none) = some q := (if_pos hst).trans hhead
  change execBhMoveGranuleCopied key b s = _
  unfold execBhMoveGranuleCopied
  rw [h]
  dsimp only
  rw [hsome]

end

/-! ### The keys of a home (14 R489, Table Ghengo-16) -/

section
variable {s t : State} {key : Nat}

theorem homeKey_congr (h : t.bhHomes = s.bhHomes) (key : Nat) : homeKey t key = homeKey s key := by
  unfold homeKey
  rw [h]

theorem key_of_homeKey {h : BhHome} (hfound : homeKey s key = some h) : h.key = key := by
  simpa using List.find?_some hfound

theorem homeKey_homePut {h h0 : BhHome} (hfound : homeKey s h.key = some h0) : homeKey (homePut s h) h.key = some h := find_map_put rfl hfound

theorem homeKey_admSend (s : State) (dst : Nat) (m : AdmMsg) (epoch k arg : Nat) (body : List Nat) (key : Nat) :
    homeKey (admSend s dst m epoch k arg body) key = homeKey s key :=
  (congrArg (homeKey · key) (outsideMessages_admSend s dst epoch k arg m body) :)

theorem homeKey_bhFreeSend (s : State) (dst epoch k key : Nat) : homeKey (bhFreeSend s dst epoch k) key = homeKey s key :=
  (congrArg (homeKey · key) (outsideMessages_bhFreeSend s dst epoch k) :)

theorem homeKey_bhResume (s : State) (k key : Nat) : homeKey (bhResume s k) key = homeKey s key := rfl

theorem homeKey_homeLive {h h0 : BhHome} (hfound : homeKey s h.key = some h0) : homeKey (homeLive s h) h.key = some { h with st := 2, cmdSeq := none } :=
  homeKey_homePut (h := { h with st := 2, cmdSeq := none }) hfound

/-- A request to allocate a key: the key as it is recorded then. -/
theorem homeKey_bhAllocSend {h h0 : BhHome} (hfound : homeKey s h.key = some h0) (m epoch : Nat) :
    ∃ l, homeKey (bhAllocSend s h m epoch) h.key = some { h with seen := l } :=
  ⟨_, (homeKey_admSend _ _ _ _ _ _ _ _).trans (homeKey_homePut (h := { h with seen := _ }) hfound)⟩

theorem bhHomes_bhDrop (s : State) (key : Nat) : (bhDrop s key).bhHomes = s.bhHomes.filter (fun x => x.key != key) := by
  unfold bhDrop
  split
  · next h =>
    refine (List.filter_eq_self.2 fun x hx => ?_).symm
    simpa using List.find?_eq_none.1 h x hx
  · dsimp only
    split
    · rfl
    · rfl

theorem ghMsgs_bhDrop (s : State) (key : Nat) : (bhDrop s key).ghMsgs = s.ghMsgs := by
  unfold bhDrop
  split
  · rfl
  · dsimp only
    split
    · rfl
    · rfl

theorem homeKey_bhDrop_self (s : State) (key : Nat) : homeKey (bhDrop s key) key = none := by
  unfold homeKey
  rw [bhHomes_bhDrop]
  exact find_filter_self _

theorem homeKey_bhDrop_ne (s : State) {key x : Nat} (h : x ≠ key) : homeKey (bhDrop s key) x = homeKey s x := by
  unfold homeKey
  rw [bhHomes_bhDrop]
  exact find_filter_ne _ h

end

/-! ### BH_LEASE and BH_RELEASE (14 R491, Table Ghengo-16) -/

/-- In a chain of checks the code 0 says that the first of them passes, and the rest. -/
theorem passed_of_code {p : Prop} [Decidable p] {a b : Nat} (ha : a ≠ 0) (h : (if p then a else b) = 0) : ¬p ∧ b = 0 := by
  split at h
  · exact absurd h ha
  · next hp => exact ⟨hp, h⟩

section
variable {u : State} {cid : Nat} {q : QCmd} (hcode : bhLeaseCode u cid q = 0)
include hcode

/-- A create that passes its checks names a key that the home does not know; a move one that it does. -/
theorem known_of_bhLeaseCode : (q.pl 414 413 = 1 → homeKey u (q.pl 511 448) = none) ∧ (q.pl 414 413 = 2 → ∃ k, homeKey u (q.pl 511 448) = some k) := by
  obtain ⟨-, hcode⟩ := passed_of_code (by decide) hcode
  obtain ⟨-, hcode⟩ := passed_of_code (by decide) hcode
  obtain ⟨-, hcode⟩ := passed_of_code (by decide) hcode
  obtain ⟨hcreate, hcode⟩ := passed_of_code (by decide) hcode
  obtain ⟨hmove, -⟩ := passed_of_code (by decide) hcode
  refine ⟨fun hop => ?_, fun hop => ?_⟩
  · have hnew := fun hany => hcreate ⟨hop, .inr hany⟩
    simpa [homeKey] using hnew
  · obtain ⟨k, hk⟩ := Option.ne_none_iff_exists'.1 fun hnone => hmove ⟨hop, hnone⟩
    have hkey := List.find?_some hk
    rw [Bool.and_eq_true] at hkey
    exact Option.isSome_iff_exists.1 (List.find?_isSome.2 ⟨k, List.mem_of_find?_eq_some hk, hkey.1⟩)

end

section
variable (u : State) (cid : Nat) (q : QCmd)

/-- The state in which a BH_LEASE that passes is carried out. -/
def leaseBegun : State := epochNext (privBegin u cid q)

theorem homeKey_leaseBegun (key : Nat) : homeKey (leaseBegun u cid q) key = homeKey u key := rfl

theorem shardEpoch_leaseBegun : (leaseBegun u cid q).shardEpoch = (u.shardEpoch + 1) % 2 ^ 32 := rfl

/-- The key that a create records. -/
def createdKey (t : Nat) : BhHome :=
  { key := q.pl 511 448, ctx := cid, aperture := q.pl 431 425, window := q.pl 424 415, units := q.pl 412 400
    epoch := (leaseBegun u cid q).shardEpoch, tbAnswered := t, tbState := t, cmdSeq := some q.seq }

/-- The state with a created key recorded. -/
def keyCreated (t : Nat) : State :=
  { leaseBegun u cid q with
    bhHomes := (leaseBegun u cid q).bhHomes ++ [createdKey u cid q t]
    bhApertures := tins (tdel (leaseBegun u cid q).bhApertures (q.pl 431 425)) (q.pl 431 425) cid }

end

section
variable {s : State} {ctx : U16} {q : QCmd} {rest : List QCmd} (hcmds : (ctxOf s ctx.toNat).cmds = q :: rest)
  (hready : headReady (ctxOf s ctx.toNat) q = true) (hup : frontUp s = true)
include hcmds hready hup

/-- A BH_LEASE at the head ends with its code, or is carried out. -/
theorem exec_cmdBhLease_of_refused (hop : q.opcode = 0x18) (hcode : bhLeaseCode (takeHead s ctx.toNat q).1 ctx.toNat (takeHead s ctx.toNat q).2 ≠ 0) :
    exec (.cmdBhLease ctx) s = .next (stampHead (privEnd (takeHead s ctx.toNat q).1 ctx.toNat (takeHead s ctx.toNat q).2
      (bhLeaseCode (takeHead s ctx.toNat q).1 ctx.toNat (takeHead s ctx.toNat q).2)) ctx.toNat) := by
  change execCmdBhLease ctx s = _
  unfold execCmdBhLease
  dsimp only
  rw [withHead_of_ready _ hcmds hop hready hup, if_pos hcode]

variable (hcode : bhLeaseCode (takeHead s ctx.toNat q).1 ctx.toNat (takeHead s ctx.toNat q).2 = 0) (hmember : (takeHead s ctx.toNat q).2.pl 447 432 ≠ 0xFFFF)
include hcode hmember

theorem exec_cmdBhLease_of_create (hop : q.opcode = 0x18) (hcreate : (takeHead s ctx.toNat q).2.pl 414 413 = 1) :
    let u := (takeHead s ctx.toNat q).1
    let h := (takeHead s ctx.toNat q).2
    exec (.cmdBhLease ctx) s = .next (stampHead (bhAllocSend (keyCreated u ctx.toNat h u.tb) { createdKey u ctx.toNat h u.tb with member := h.pl 447 432 } (h.pl 447 432)
      (leaseBegun u ctx.toNat h).shardEpoch) ctx.toNat) := by
  change execCmdBhLease ctx s = _
  unfold execCmdBhLease
  dsimp only
  rw [withHead_of_ready _ hcmds hop hready hup, if_neg (not_not_intro hcode), if_neg hmember, if_pos hcreate]
  rfl

theorem exec_cmdBhLease_of_move (hop : q.opcode = 0x18) (hmove : (takeHead s ctx.toNat q).2.pl 414 413 = 2) {k : BhHome}
    (hknown : homeKey (takeHead s ctx.toNat q).1 ((takeHead s ctx.toNat q).2.pl 511 448) = some k) :
    let u := (takeHead s ctx.toNat q).1
    let h := (takeHead s ctx.toNat q).2
    exec (.cmdBhLease ctx) s = .next (stampHead (bhPrepare (leaseBegun u ctx.toNat h)
      { k with epoch2 := (leaseBegun u ctx.toNat h).shardEpoch, cmdSeq := some h.seq, tbState := u.tb } [h.pl 447 432] 0x050E) ctx.toNat) := by
  have hfound : homeKey (epochNext (privBegin (takeHead s ctx.toNat q).1 ctx.toNat (takeHead s ctx.toNat q).2)) ((takeHead s ctx.toNat q).2.pl 511 448) = some k := (homeKey_leaseBegun _ _ _ _).trans hknown
  have hop2 : ¬(takeHead s ctx.toNat q).2.pl 414 413 = 1 := by omega
  change execCmdBhLease ctx s = _
  unfold execCmdBhLease
  dsimp only
  rw [withHead_of_ready _ hcmds hop hready hup, if_neg (not_not_intro hcode), if_neg hmember, if_neg hop2, hfound]
  rfl

end

end Sys2Proof
end

section
/-! O53: the home's commands, the answers it gets and its timers (14 R491 to R495, Table Ghengo-16). -/
namespace Sys2Proof
open Sys2Proof.Machine

/-! ### What a BH_LEASE that passes leaves -/

section
variable {u : State} {cid : Nat} {q : QCmd}

theorem shardEpoch_bhAllocSend (s : State) (h : BhHome) (m e : Nat) : (bhAllocSend s h m e).shardEpoch = s.shardEpoch :=
  (congrArg State.shardEpoch (outsideMessages_admSend (homePut s { h with seen := _ }) m e h.key (allocArg h) .bhAlloc []) :)

theorem bhApertures_bhAllocSend (s : State) (h : BhHome) (m e : Nat) : (bhAllocSend s h m e).bhApertures = s.bhApertures :=
  (congrArg State.bhApertures (outsideMessages_admSend (homePut s { h with seen := _ }) m e h.key (allocArg h) .bhAlloc []) :)

theorem exists_bhAllocSend (s : State) (h : BhHome) (m e : Nat) :
    ∃ x ∈ (bhAllocSend s h m e).ghMsgs, x.msg = .bhAlloc ∧ x.head.dst = m ∧ x.head.epoch = e ∧ x.head.key = h.key ∧ x.head.arg = allocArg h :=
  exists_admSend _ _ _ _ _ _ _

/-- A created key is found once it is recorded. -/
theorem homeKey_keyCreated (hnew : homeKey u (q.pl 511 448) = none) (t : Nat) : homeKey (keyCreated u cid q t) (q.pl 511 448) = some (createdKey u cid q t) := by
  have hleft : (leaseBegun u cid q).bhHomes.find? (fun h => h.key == q.pl 511 448) = none := (homeKey_leaseBegun u cid q _).trans hnew
  unfold homeKey
  change ((leaseBegun u cid q).bhHomes ++ [createdKey u cid q t]).find? _ = _
  rw [List.find?_append, hleft]
  simp [createdKey]

/-- A create: the key is recorded at the next epoch, its aperture is the context's, and the member is asked to allocate. -/
theorem bhLease_created (hnew : homeKey u (q.pl 511 448) = none) (t m : Nat) :
    let v := bhAllocSend (keyCreated u cid q t) { createdKey u cid q t with member := m } m (leaseBegun u cid q).shardEpoch
    ∃ k x, homeKey v (q.pl 511 448) = some k ∧ k.st = 1 ∧ k.ctx = cid ∧ k.member = m ∧ k.epoch = (u.shardEpoch + 1) % 2 ^ 32 ∧
      k.aperture = q.pl 431 425 ∧ k.window = q.pl 424 415 ∧ k.units = q.pl 412 400 ∧ v.shardEpoch = (u.shardEpoch + 1) % 2 ^ 32 ∧
      tfind v.bhApertures (q.pl 431 425) = some cid ∧
      x ∈ v.ghMsgs ∧ x.msg = .bhAlloc ∧ x.head.dst = m ∧ x.head.epoch = (u.shardEpoch + 1) % 2 ^ 32 ∧ x.head.key = q.pl 511 448 ∧ x.head.arg = allocArg k := by
  obtain ⟨l, hl⟩ := homeKey_bhAllocSend (h := { createdKey u cid q t with member := m }) (homeKey_keyCreated hnew t) m (leaseBegun u cid q).shardEpoch
  obtain ⟨x, hx, hmsg, hdst, hepoch, hkey, harg⟩ :=
    exists_bhAllocSend (keyCreated u cid q t) { createdKey u cid q t with member := m } m (leaseBegun u cid q).shardEpoch
  refine ⟨_, x, hl, rfl, rfl, rfl, rfl, rfl, rfl, rfl, shardEpoch_bhAllocSend _ _ _ _, ?_, hx, hmsg, hdst, hepoch, hkey, harg⟩
  rw [bhApertures_bhAllocSend]
  exact tfind_tins_self _ _ _ (tfind_tdel_self _ _)

/-- A move: the target is asked to allocate at the next epoch, and the owner and its epoch stay. -/
theorem bhLease_moved {k0 : BhHome} (hknown : homeKey u (q.pl 511 448) = some k0) (t m : Nat) :
    let v := bhPrepare (leaseBegun u cid q) { k0 with epoch2 := (leaseBegun u cid q).shardEpoch, cmdSeq := some q.seq, tbState := t } [m] 0x050E
    ∃ k x, homeKey v (q.pl 511 448) = some k ∧ k.st = 3 ∧ k.target = m ∧ k.epoch2 = (u.shardEpoch + 1) % 2 ^ 32 ∧ v.shardEpoch = (u.shardEpoch + 1) % 2 ^ 32 ∧
      (∀ k1, homeKey u (q.pl 511 448) = some k1 → k.member = k1.member ∧ k.epoch = k1.epoch) ∧
      x ∈ v.ghMsgs ∧ x.msg = .bhAlloc ∧ x.head.dst = m ∧ x.head.epoch = (u.shardEpoch + 1) % 2 ^ 32 ∧ x.head.key = q.pl 511 448 := by
  have hkey0 := key_of_homeKey hknown
  obtain ⟨l, hl⟩ := homeKey_bhAllocSend (s := leaseBegun u cid q) (h0 := k0)
    (h := { k0 with st := 3, epoch2 := (leaseBegun u cid q).shardEpoch, cmdSeq := some q.seq, tbState := t, target := m, others := [] })
    ((homeKey_leaseBegun u cid q _).trans (hkey0.symm ▸ hknown)) m (leaseBegun u cid q).shardEpoch
  obtain ⟨x, hx, hmsg, hdst, hepoch, hkey, -⟩ := exists_bhAllocSend (leaseBegun u cid q)
    { k0 with st := 3, epoch2 := (leaseBegun u cid q).shardEpoch, cmdSeq := some q.seq, tbState := t, target := m, others := [] } m (leaseBegun u cid q).shardEpoch
  refine ⟨_, x, (congrArg (homeKey _) hkey0.symm).trans hl, rfl, rfl, rfl, shardEpoch_bhAllocSend _ _ _ _, fun k1 hk1 => ?_, hx, hmsg, hdst, hepoch, hkey.trans hkey0⟩
  obtain rfl := Option.some.inj (hknown.symm.trans hk1)
  exact ⟨rfl, rfl⟩

end

/-! ### BH_RELEASE -/

/-- A head of another opcode stays. -/
theorem withHead_of_other {s : State} {cid op : Nat} (f : State → QCmd → State) {q : QCmd} {rest : List QCmd} (hcmds : (ctxOf s cid).cmds = q :: rest)
    (h : q.opcode ≠ op) : withHead s cid op f = .next s := by
  unfold withHead
  dsimp only
  rw [hcmds]
  exact if_neg fun hgo => h hgo.1

section
variable {s : State} {ctx : U16}

theorem exec_cmdBh_of_idle (hidle : frontUp s = false ∨ (ctxOf s ctx.toNat).cmds = []) :
    exec (.cmdBhLease ctx) s = .next s ∧ exec (.cmdBhRelease ctx) s = .next s := by
  constructor
  · change execCmdBhLease ctx s = _
    unfold execCmdBhLease
    exact withHead_of_idle _ hidle
  · change execCmdBhRelease ctx s = _
    unfold execCmdBhRelease
    exact withHead_of_idle _ hidle

variable {q : QCmd} {rest : List QCmd} (hcmds : (ctxOf s ctx.toNat).cmds = q :: rest)
include hcmds

theorem exec_cmdBhLease_of_other (hop : q.opcode ≠ 0x18) : exec (.cmdBhLease ctx) s = .next s := by
  change execCmdBhLease ctx s = _
  unfold execCmdBhLease
  exact withHead_of_other _ hcmds hop

theorem exec_cmdBhRelease_of_other (hop : q.opcode ≠ 0x19) : exec (.cmdBhRelease ctx) s = .next s := by
  change execCmdBhRelease ctx s = _
  unfold execCmdBhRelease
  exact withHead_of_other _ hcmds hop

end

section
variable {s : State} {ctx : U16} {q : QCmd} {rest : List QCmd} (hcmds : (ctxOf s ctx.toNat).cmds = q :: rest)
  (hready : headReady (ctxOf s ctx.toNat) q = true) (hup : frontUp s = true) (hop : q.opcode = 0x19)
include hcmds hready hup hop

theorem exec_cmdBhRelease_of_format (hbad : (takeHead s ctx.toNat q).2.pl 447 320 ≠ 0 ∨ (takeHead s ctx.toNat q).2.pl 319 256 % 8 ≠ 0) :
    exec (.cmdBhRelease ctx) s = .next (stampHead (privEnd (takeHead s ctx.toNat q).1 ctx.toNat (takeHead s ctx.toNat q).2 0x0501) ctx.toNat) := by
  change execCmdBhRelease ctx s = _
  unfold execCmdBhRelease
  dsimp only
  rw [withHead_of_ready _ hcmds hop hready hup, if_pos hbad]

variable (hgood : ¬((takeHead s ctx.toNat q).2.pl 447 320 ≠ 0 ∨ (takeHead s ctx.toNat q).2.pl 319 256 % 8 ≠ 0))
include hgood

theorem exec_cmdBhRelease_of_unknown
    (hnone : (takeHead s ctx.toNat q).1.bhHomes.find? (fun k => k.key == (takeHead s ctx.toNat q).2.pl 511 448 && k.ctx == ctx.toNat) = none) :
    exec (.cmdBhRelease ctx) s = .next (stampHead (privEnd (takeHead s ctx.toNat q).1 ctx.toNat (takeHead s ctx.toNat q).2 0x050D) ctx.toNat) := by
  change execCmdBhRelease ctx s = _
  unfold execCmdBhRelease
  dsimp only
  rw [withHead_of_ready _ hcmds hop hready hup, if_neg hgood, hnone]

variable {k : BhHome} (hknown : (takeHead s ctx.toNat q).1.bhHomes.find? (fun k => k.key == (takeHead s ctx.toNat q).2.pl 511 448 && k.ctx == ctx.toNat) = some k)
include hknown

theorem exec_cmdBhRelease_of_busy (hbusy : k.st = 1 ∨ k.st = 3 ∨ k.st = 4) :
    exec (.cmdBhRelease ctx) s = .next (stampHead (privEnd (takeHead s ctx.toNat q).1 ctx.toNat (takeHead s ctx.toNat q).2 0x050A) ctx.toNat) := by
  change execCmdBhRelease ctx s = _
  unfold execCmdBhRelease
  dsimp only
  rw [withHead_of_ready _ hcmds hop hready hup, if_neg hgood, hknown]
  dsimp only
  rw [if_pos hbusy]

theorem exec_cmdBhRelease_of_free (hfree : ¬(k.st = 1 ∨ k.st = 3 ∨ k.st = 4)) :
    exec (.cmdBhRelease ctx) s = .next (stampHead (privEnd (bhResume (bhDrop (bhFreeSend (takeHead s ctx.toNat q).1 k.member k.epoch k.key) k.key) k.key) ctx.toNat
      (takeHead s ctx.toNat q).2 0) ctx.toNat) := by
  change execCmdBhRelease ctx s = _
  unfold execCmdBhRelease
  dsimp only
  rw [withHead_of_ready _ hcmds hop hready hup, if_neg hgood, hknown]
  dsimp only
  rw [if_neg hfree]

end

/-- A release: the key is gone, and its member is asked to free it. -/
theorem bhRelease_released (u : State) (k : BhHome) :
    let t := bhResume (bhDrop (bhFreeSend u k.member k.epoch k.key) k.key) k.key
    homeKey t k.key = none ∧ (∀ x, x ≠ k.key → homeKey t x = homeKey u x) ∧
      ∃ y ∈ t.ghMsgs, y.msg = .bhFree ∧ y.head.dst = k.member ∧ y.head.epoch = k.epoch ∧ y.head.key = k.key := by
  refine ⟨homeKey_bhDrop_self _ _, fun x hx => (homeKey_bhDrop_ne _ hx).trans (homeKey_bhFreeSend _ _ _ _ _), ?_⟩
  have hmsgs : (bhResume (bhDrop (bhFreeSend u k.member k.epoch k.key) k.key) k.key).ghMsgs = (bhFreeSend u k.member k.epoch k.key).ghMsgs := ghMsgs_bhDrop _ _
  rw [hmsgs]
  exact exists_bhFreeSend _ _ _ _

/-! ### The answers at the home -/

section
variable {s : State} {m : GhMsg} {h : BhHome} (hknown : homeKey s m.head.key = some h)
include hknown

theorem homeKey_own : homeKey s h.key = some h := (key_of_homeKey hknown).symm ▸ hknown

/-- An answered allocation makes the key LIVE. -/
theorem bhAllocEnd_of_create (hst : h.st = 1) (hepoch : m.head.epoch = h.epoch) (hdst : m.head.dst = h.member) :
    bhAllocEnd s m 0 = bhCmdEnd (homePut s { h with st := 2, tbAnswered := m.tb, tbState := s.tb, cmdSeq := none }) h 0 := by
  unfold bhAllocEnd
  rw [hknown]
  dsimp only
  rw [if_pos ⟨hst, hepoch, hdst⟩, if_pos rfl]

/-- An allocation that a move's target answers begins the copy. -/
theorem bhAllocEnd_of_move (hst : h.st = 3) (hepoch : m.head.epoch = h.epoch2) (hdst : m.head.dst = h.target) :
    bhAllocEnd s m 0 = admSend (homePut s { h with st := 4, tbState := s.tb }) h.member .bhMove h.epoch h.key (h.target * 2 ^ 32 + h.epoch2) [] := by
  unfold bhAllocEnd
  rw [hknown]
  dsimp only
  rw [if_neg (fun hcreate => by omega), if_pos ⟨hst, hepoch, hdst⟩, if_pos rfl]

theorem bhMoveEnd_of_other (hother : h.st ≠ 4 ∨ m.head.epoch ≠ h.epoch) (c : Nat) : bhMoveEnd s m c = s := by
  unfold bhMoveEnd
  rw [hknown]
  exact if_pos hother

variable (hst : h.st = 4) (hepoch : m.head.epoch = h.epoch)
include hst hepoch

/-- The commit point of a move. -/
theorem bhMoveEnd_of_moved : bhMoveEnd s m 0 =
    bhCmdEnd (bhFreeSend (homeLive s { h with member := h.target, epoch := h.epoch2, tbAnswered := s.tb, tbState := s.tb }) h.member h.epoch h.key) h 0 := by
  unfold bhMoveEnd
  rw [hknown]
  dsimp only
  rw [if_neg (not_or.2 ⟨not_not_intro hst, not_not_intro hepoch⟩), if_pos rfl]

theorem bhMoveEnd_of_failed : bhMoveEnd s m 0x050F = bhCmdEnd (bhFreeSend (homeLive s h) h.target h.epoch2 h.key) h 0x050F := by
  unfold bhMoveEnd
  rw [hknown]
  dsimp only
  rw [if_neg (not_or.2 ⟨not_not_intro hst, not_not_intro hepoch⟩), if_neg (by decide), if_neg (by decide)]

theorem bhMoveEnd_of_unreachable : bhMoveEnd s m 0x0503 =
    bhCmdEnd (bhLose (bhFreeSend (homePut s { h with cmdSeq := none }) h.target h.epoch2 h.key) h.key false) h 0x0510 := by
  unfold bhMoveEnd
  rw [hknown]
  dsimp only
  rw [if_neg (not_or.2 ⟨not_not_intro hst, not_not_intro hepoch⟩), if_neg (by decide), if_pos rfl]

end

/-! ### Stray answers and timers -/

section
variable {s : State}

theorem bhStray_of_unknown {m : GhMsg} {c e : Nat} (h : homeKey s m.head.key = none) (he : e ≠ 0) (hc : c = 0 ∨ c = 0x0506) :
    bhStray s m c e = bhFreeSend s m.head.dst e m.head.key := by
  unfold bhStray
  rw [h]
  exact if_pos ⟨hc, he, rfl⟩

theorem bhStray_of_epoch {m : GhMsg} {c e : Nat} {h : BhHome} (hknown : homeKey s m.head.key = some h) (he : e = h.epoch) : bhStray s m c e = s := by
  unfold bhStray
  rw [hknown]
  refine if_neg fun hstray => ?_
  simp [he] at hstray

theorem bhStray_of_live {m : GhMsg} {c e : Nat} {h : BhHome} (hknown : homeKey s m.head.key = some h) (hst : h.st = 2) (he : e ≠ h.epoch) (he0 : e ≠ 0)
    (hc : c = 0 ∨ c = 0x0506) : bhStray s m c e = bhFreeSend s m.head.dst e m.head.key := by
  unfold bhStray
  rw [hknown]
  exact if_pos ⟨hc, he0, by simp [hst, he]⟩

variable {key : U64}

/-- The timers of a key that the home does not know. -/
theorem exec_bhTimers_of_unknown (h : homeKey s key.toNat = none) :
    exec (.bhHomeRenewTimer key) s = .next s ∧ exec (.bhKeyRenewalTimeout key) s = .next s ∧ exec (.bhResolveTimeout key) s = .next s := by
  refine ⟨show execBhHomeRenewTimer key s = _ from ?_, show execBhKeyRenewalTimeout key s = _ from ?_, show execBhResolveTimeout key s = _ from ?_⟩
  · unfold execBhHomeRenewTimer
    rw [h]
  · unfold execBhKeyRenewalTimeout
    rw [h]
  · unfold execBhResolveTimeout
    rw [h]

variable {h : BhHome} (hknown : homeKey s key.toNat = some h)
include hknown

theorem exec_bhHomeRenewTimer_of_known : exec (.bhHomeRenewTimer key) s =
    if h.st = 2 then .next (admSend s h.member .bhRenew h.epoch h.key 0 [])
    else if h.st = 3 ∨ h.st = 4 then .next (admSend (admSend s h.member .bhRenew h.epoch h.key 0 []) h.target .bhRenew h.epoch2 h.key 0 [])
    else .next s := by
  change execBhHomeRenewTimer key s = _
  unfold execBhHomeRenewTimer
  rw [hknown]

theorem exec_bhKeyRenewalTimeout_of_known : exec (.bhKeyRenewalTimeout key) s =
    .next (if h.st = 2 ∧ tbPast s.tb h.tbAnswered (pget s P.admLeaseMs * 750000) then bhResolve s h.key else s) := by
  change execBhKeyRenewalTimeout key s = _
  unfold execBhKeyRenewalTimeout
  rw [hknown]

theorem exec_bhResolveTimeout_of_known : exec (.bhResolveTimeout key) s =
    if h.st = 5 ∧ tbPast s.tb h.tbState (pget s P.admLeaseMs * 1000000) then .next (bhLose (h.stale.foldl (fun s x => bhFreeSend s x.1 x.2 h.key) s) h.key true)
    else .next s := by
  change execBhResolveTimeout key s = _
  unfold execBhResolveTimeout
  rw [hknown]

end

/-- Settles O53: the messages at a member by the key they name and its epoch, copies and expiry by the key's state, the home's commands by
`bhLeaseCode` and the key's state, and its answers and timers by the rows of Table Ghengo-16 (log 96: a release waits for no drain; log 62:
0x0506 for another epoch; log 27: the fields of BH_ALLOC). -/
theorem boathouse : Obligations.Boathouse := by
  refine ⟨fun s h => ⟨fun hdenied i hi => ?_, fun htaken hnew => ⟨fun k hkey => exec_bhAlloc_of_held htaken hnew hkey, fun hkey => (exec_bhAlloc htaken hnew hkey).1,
      fun hkey => (exec_bhAlloc htaken hnew hkey).2, fun hkey => ?_, fun k hkey => ⟨fun hepoch => ?_, exec_of_epoch htaken hnew hkey⟩⟩⟩,
    fun s key k hkey => heldDrop_spec hkey, fun s key => ⟨fun hkey => ⟨exec_bhMoveGranuleCopied_of_unknown hkey, exec_bhMemberExpiry_of_unknown hkey⟩,
      fun k hkey => ⟨fun hearly => ?_, fun hdue => ?_, exec_bhMoveGranuleCopied_of_still hkey, fun q hst hhead => ⟨exec_bhMoveGranuleCopied_of_moving hkey hst hhead false,
        fun hmore => ?_, fun hlast => ?_⟩⟩⟩,
    fun s ctx hidle => exec_cmdBh_of_idle hidle, fun s ctx q rest hcmds hready hup => ⟨fun hop => ?_, fun hop => ?_, fun hop => ⟨?_, ?_, ?_⟩, fun hop => ⟨?_, ?_⟩⟩,
    fun s m h hknown => ⟨fun hst hepoch hdst => ?_, fun hst hepoch hdst => ?_, fun hst hepoch => ⟨?_, ?_, ?_⟩, bhMoveEnd_of_other hknown⟩,
    fun s m c e => ⟨bhStray_of_unknown, fun h hknown => bhStray_of_epoch hknown, fun h hknown => bhStray_of_live hknown⟩,
    fun s key => ⟨exec_bhTimers_of_unknown, fun h hknown => ⟨fun hst => ?_, fun hst => ?_, fun hst => ?_, fun hst hdue => ?_, fun hnot => ?_, fun hst hdue => ?_, fun hnot => ?_⟩⟩⟩
  · simp only [List.mem_cons, List.not_mem_nil, or_false] at hi
    rcases hi with rfl | rfl | rfl | rfl | rfl
    · exact show execBhAlloc h s = _ from admIn_of_denied hdenied
    · exact show execBhFree h s = _ from admIn_of_denied hdenied
    · exact show execBhRenew h s = _ from admIn_of_denied hdenied
    · exact show execBhMove h s = _ from admIn_of_denied hdenied
    · exact show execBhQuery h s = _ from admIn_of_denied hdenied
  · obtain ⟨hfree, hrenew, hquery, hmove⟩ := exec_of_no_key htaken hnew hkey
    exact ⟨hfree, hrenew, hquery, hmove⟩
  · obtain ⟨hfree, hrenew, hquery, hmove⟩ := exec_of_other_epoch htaken hnew hkey hepoch
    exact ⟨hfree, hrenew, hquery, hmove⟩
  · rw [exec_bhMemberExpiry_of_held hkey, if_neg (ne_true_of_eq_false hearly)]
  · rw [exec_bhMemberExpiry_of_held hkey, if_pos hdue]
  · exact (exec_bhMoveGranuleCopied_of_moving hkey hst hhead true).trans (if_pos hmore)
  · exact (exec_bhMoveGranuleCopied_of_moving hkey hst hhead true).trans (if_neg (not_lt.2 hlast))
  · exact exec_cmdBhLease_of_other hcmds hop
  · exact exec_cmdBhRelease_of_other hcmds hop
  · exact exec_cmdBhLease_of_refused hcmds hready hup hop
  · exact fun hcode hmember hcreate => by
      obtain ⟨k, x, hspec⟩ := bhLease_created ((known_of_bhLeaseCode hcode).1 hcreate) _ _
      exact ⟨_, k, x, exec_cmdBhLease_of_create hcmds hready hup hcode hmember hop hcreate, hspec⟩
  · exact fun hcode hmember hmove => by
      obtain ⟨k0, hk0⟩ := (known_of_bhLeaseCode hcode).2 hmove
      obtain ⟨k, x, hspec⟩ := bhLease_moved hk0 _ _
      exact ⟨_, k, x, exec_cmdBhLease_of_move hcmds hready hup hcode hmember hop hmove hk0, hspec⟩
  · exact exec_cmdBhRelease_of_format hcmds hready hup hop
  · intro hzero hpad
    have hgood := not_or.2 ⟨not_not_intro hzero, not_not_intro hpad⟩
    refine ⟨exec_cmdBhRelease_of_unknown hcmds hready hup hop hgood, fun k hk => ⟨exec_cmdBhRelease_of_busy hcmds hready hup hop hgood hk, fun h1 h3 h4 => ?_⟩⟩
    have hkey : k.key = _ := of_decide_eq_true (Bool.and_eq_true _ _ ▸ List.find?_some hk).1
    obtain ⟨hgone, hothers, hfree⟩ := bhRelease_released (takeHead s ctx.toNat q).1 k
    exact ⟨_, exec_cmdBhRelease_of_free hcmds hready hup hop hgood hk (by omega), (congrArg (homeKey _) hkey.symm).trans hgone,
      fun x hx => hothers x (hx.trans_eq hkey.symm), hfree⟩
  · have hown := homeKey_own hknown
    exact ⟨_, _, bhAllocEnd_of_create hknown hst hepoch hdst, homeKey_homePut (h := { h with st := 2, tbAnswered := m.tb, tbState := s.tb, cmdSeq := none }) hown,
      rfl, rfl, rfl, rfl⟩
  · have hown := homeKey_own hknown
    rw [bhAllocEnd_of_move hknown hst hepoch hdst]
    obtain ⟨x, hx, hmsg, hxdst, hxepoch, -, harg⟩ := exists_admSend (homePut s { h with st := 4, tbState := s.tb }) h.member h.epoch h.key (h.target * 2 ^ 32 + h.epoch2) .bhMove []
    exact ⟨_, x, (homeKey_admSend _ _ _ _ _ _ _ _).trans (homeKey_homePut (h := { h with st := 4, tbState := s.tb }) hown), rfl, rfl, rfl, hx, hmsg, hxdst, hxepoch, harg⟩
  · have hown := homeKey_own hknown
    obtain ⟨x, hx, hmsg, hxdst, hxepoch, -⟩ :=
      exists_bhFreeSend (homeLive s { h with member := h.target, epoch := h.epoch2, tbAnswered := s.tb, tbState := s.tb }) h.member h.epoch h.key
    exact ⟨_, _, bhMoveEnd_of_moved hknown hst hepoch, (homeKey_bhFreeSend _ _ _ _ _).trans (homeKey_homeLive
      (h := { h with member := h.target, epoch := h.epoch2, tbAnswered := s.tb, tbState := s.tb }) hown), rfl, rfl, rfl, x, hx, hmsg, hxdst, hxepoch⟩
  · have hown := homeKey_own hknown
    obtain ⟨x, hx, hmsg, hxdst, hxepoch, -⟩ := exists_bhFreeSend (homeLive s h) h.target h.epoch2 h.key
    exact ⟨_, _, bhMoveEnd_of_failed hknown hst hepoch, (homeKey_bhFreeSend _ _ _ _ _).trans (homeKey_homeLive hown), rfl, rfl, rfl, x, hx, hmsg, hxdst, hxepoch⟩
  · have hown := homeKey_own hknown
    obtain ⟨x, hx, hmsg, hxdst, hxepoch, -⟩ := exists_bhFreeSend (homePut s { h with cmdSeq := none }) h.target h.epoch2 h.key
    exact ⟨_, bhMoveEnd_of_unreachable hknown hst hepoch, x, hx, hmsg, hxdst, hxepoch⟩
  · rw [exec_bhHomeRenewTimer_of_known hknown, if_pos hst]
  · rw [exec_bhHomeRenewTimer_of_known hknown, if_neg (by omega), if_pos hst]
  · rw [exec_bhHomeRenewTimer_of_known hknown, if_neg (by omega), if_neg (by omega)]
  · rw [exec_bhKeyRenewalTimeout_of_known hknown, if_pos ⟨hst, hdue⟩]
  · rw [exec_bhKeyRenewalTimeout_of_known hknown, if_neg fun ⟨hst, hdue⟩ => hnot.elim (· hst) (ne_true_of_eq_false · hdue)]
  · rw [exec_bhResolveTimeout_of_known hknown, if_pos ⟨hst, hdue⟩]
  · rw [exec_bhResolveTimeout_of_known hknown, if_neg fun ⟨hst, hdue⟩ => hnot.elim (· hst) (ne_true_of_eq_false · hdue)]

end Sys2Proof
end

section
/-! O52: Ghengo channels (14 R486 to R488). The statement has CH_CLOSE go out for every OPEN channel of the closing context. KEY of a message
names the channels as 256 times the one here plus the peer's (log 27), so that a channel whose record holds a peer's number of more than 8 bits
names another channel here, by whose shell the message then looks for its port. -/
namespace Sys2Proof
open Sys2Proof.Machine

/-- GHENGO_CLOSE of channel 0, at the head of a context's queue. -/
def closeHead : QCmd := { seq := 0, opcode := 0x17, phase := .validated }

/-- Channel 0 is OPEN with channel 256 of module 5, which port 0 of its shell faces; shell 1 has no ports. -/
def widePeerChan : State :=
  { shells := [(0, { rig := { ports := [0] } })]
    ctxs := [(0, { st := .live, cmds := [closeHead] })]
    gchans := [(0, { st := .opened, peer := 5, peerChan := 256 }), (1, { shell := 1 })]
    ghPorts := [(0, { st := 3, peer := 5 })] }

theorem st_portOf_widePeerChan {p : Nat} (h : p ≠ 0) : (portOf widePeerChan p).st = 0 := by
  have hnone : tfind widePeerChan.ghPorts p = none := by simp [widePeerChan, tfind, h.symm]
  simp only [portOf, tget, hnone]
  rfl

/-- What leaves with a command, where it completes. -/
def sentWith (a : Ans) : List Sent := match a with | .next t => t.sent | _ => []

theorem sent_stampHead (s : State) (cid : Nat) : (stampHead s cid).sent = s.sent := by
  unfold stampHead
  dsimp only
  split
  · rfl
  · rfl

/-- The port of CH_CLOSE is looked for at shell 1, so nothing leaves. -/
theorem sentWith_close_widePeerChan : sentWith (exec (.cmdGhengoClose 0) widePeerChan) = [] := by decide

/-- Refutes O52: `widePeerChan` fits the statement's clause of GHENGO_CLOSE, yet no CH_CLOSE leaves. -/
theorem not_channels : ¬ Obligations.Channels := by
  rintro ⟨-, hcmds, -⟩
  obtain ⟨-, -, -, hclose⟩ := hcmds widePeerChan 0 closeHead [] rfl (by decide) (by decide)
  obtain ⟨-, hformat⟩ := hclose rfl
  obtain ⟨-, hopen⟩ := hformat (by decide) (by decide)
  obtain ⟨t, hexec, -, -, -, -, -, hsent⟩ := hopen (.inl (by decide)) (by decide)
  have hcredit : ∀ p, (portOf (takeHead widePeerChan 0 closeHead).1 p).st = 3 → 2 ≤ (portOf (takeHead widePeerChan 0 closeHead).1 p).credit.getD 5 0 := by
    intro p hp
    by_cases h0 : p = 0
    · rw [h0]
      decide
    · exact absurd ((st_portOf_widePeerChan h0).symm.trans hp) (by decide)
  obtain ⟨p, a, hleaves, -⟩ := hsent (by decide) rfl hcredit (by decide)
  have hnothing := sentWith_close_widePeerChan
  rw [hexec] at hnothing
  have hempty : t.sent = [] := (sent_stampHead t _).symm.trans hnothing
  rw [hempty] at hleaves
  simp at hleaves

end Sys2Proof
end


section
/-! O50: Ghengo ports (14 R462 to R473). The statement has a response that no advance of MD awaits change nothing, or be counted as late; the model
first looks among the writes that a member forwards while it copies a key (14 R493). -/
namespace Sys2Proof
open Sys2Proof.Machine

/-- A forwarded write stands unanswered at port 0; its sender asks for no answer. -/
def forwardedWrite : State := { bhFwd := [{ tag := 0, port := 0, back := .none }] }

/-- Refutes O50: the acknowledgement of `forwardedWrite` takes it off the list of forwarded writes, where the statement has the state stay as it is. -/
theorem not_ghengoPorts : ¬ Obligations.GhengoPorts := by
  rintro ⟨-, -, -, -, -, -, -, -, -, -, hresponse, -⟩
  obtain ⟨hnone, -⟩ := hresponse forwardedWrite 0 0 0
  have hstays : (ghResponse forwardedWrite 0 0 0).bhFwd = forwardedWrite.bhFwd := congrArg State.bhFwd (hnone (by decide))
  exact absurd hstays (by decide)

end Sys2Proof
end


section
/-! Sessions, endpoints and answers of the management block (13 R443 to R455): what each of their writes leaves. -/
namespace Sys2Proof
open Sys2Proof.Machine

/-! ### Sessions -/

theorem sessions_sessionFree (s : State) (n : Nat) : (sessionFree s n).sessions = tdel s.sessions n := rfl

/-- A state without what the freeing of a session writes: the sessions, the identifiers that are free, and their count among the parameters. -/
def outsideSessions (s : State) : State := { s with sessions := [], freeSessions := [], regs := [] }

theorem outsideSessions_sessionFree (s : State) (n : Nat) : outsideSessions (sessionFree s n) = outsideSessions s := rfl

theorem pget_sessionFree_of_ne (s : State) (n : Nat) {k : Nat} (h : k ≠ P.sessionsOpen) : pget (sessionFree s n) k = pget s k :=
  pget_pset_ne _ _ _ _ h

theorem outsideSessions_sessionsFree (s : State) (f : Session → Bool) : outsideSessions (sessionsFree s f) = outsideSessions s :=
  foldl_keeps outsideSessions outsideSessions_sessionFree _ s

theorem sessions_foldl_sessionFree (l : List Nat) (s : State) : (l.foldl sessionFree s).sessions = s.sessions.filter (fun e => !l.contains e.1) := by
  induction l generalizing s with
  | nil => simp
  | cons n l ih =>
    rw [List.foldl_cons, ih, sessions_sessionFree, tdel, List.filter_filter]
    refine List.filter_congr fun e _ => ?_
    rw [List.contains_cons, Bool.not_or, Bool.and_comm]
    rfl

/-- The sessions that stay are those under whose number none that is freed stands. -/
theorem mem_sessions_sessionsFree (s : State) (f : Session → Bool) (e : Nat × Session) :
    e ∈ (sessionsFree s f).sessions ↔ e ∈ s.sessions ∧ ∀ k ∈ s.sessions, k.1 = e.1 → f k.2 = false := by
  rw [sessionsFree, sessions_foldl_sessionFree, List.mem_filter]
  refine and_congr_right fun _ => ?_
  simp only [Bool.not_eq_true', List.contains_eq_mem, decide_eq_false_iff_not, List.mem_map, List.mem_filter, not_exists, not_and, and_imp]
  exact ⟨fun h k hk hn => Bool.eq_false_iff.mpr fun hf => h k hk hf hn, fun h k hk hf hn => Bool.eq_false_iff.mp (h k hk hn) hf⟩

@[simp] theorem tfind_tins_tdel_self {α : Type} (t : Tbl α) (k : Nat) (v : α) : tfind (tins (tdel t k) k v) k = some v :=
  tfind_tins_self _ k v (tfind_tdel_self t k)

theorem tfind_tins_tdel_ne {α : Type} (t : Tbl α) (k : Nat) (v : α) {j : Nat} (h : j ≠ k) : tfind (tins (tdel t k) k v) j = tfind t j :=
  (tfind_tins_ne _ k j v h).trans (tfind_tdel_ne t k j h)

@[simp] theorem sessOf_sessPut_self (s : State) (k : Nat) (x : Session) : sessOf (sessPut s k x) k = x := by
  simp [sessOf, sessPut]

theorem sessOf_sessPut_ne (s : State) {k j : Nat} (x : Session) (h : j ≠ k) : sessOf (sessPut s k x) j = sessOf s j := by
  simp only [sessOf, sessPut, tfind_tins_tdel_ne _ k x h]

theorem sessOf_congr {s t : State} (h : t.sessions = s.sessions) (k : Nat) : sessOf t k = sessOf s k := by
  simp only [sessOf, h]

/-! ### Endpoints -/

@[simp] theorem endpointOf_endpointPut_self (s : State) (b e : Nat) (x : Endpoint) : endpointOf (endpointPut s b e x) b e = x :=
  tget_tset_self _ _ _ _

/-! ### Answers -/

/-- The control messages come before the binding has an endpoint ID; PLDM comes after. -/
def mctpLets (s : State) (b type : Nat) : Prop := type = 0 ∨ (tfind s.eids b).isSome = true

/-- An endpoint's request in the time of the management block: taken by the budget, it is answered in the state that its command leaves. -/
theorem mctpAnswer_of_lets {s t : State} {b e tag type cmd : Nat} {f : State → State × PldmCode × List Nat} {x : PldmCode} {v : List Nat}
    (hup : mctpUp s = true) (hlets : mctpLets s b type) (hf : f (mctpTake s b e tag).1 = (t, x, v)) :
    mctpAnswer s b e tag type cmd f =
      if (mctpTake s b e tag).2 then mctpOffered t (.pldm b e tag type cmd x v) else (mctpTake s b e tag).1 := by
  have hopen : ¬ ((!mctpUp s) = true ∨ (type ≠ 0 ∧ (tfind s.eids b).isNone = true)) := by
    rintro (hdown | ⟨htype, hnone⟩)
    · rw [hup] at hdown
      exact absurd hdown (by decide)
    · rcases hlets with h | h
      · exact htype h
      · rw [← Option.not_isSome, h] at hnone
        exact absurd hnone (by decide)
  unfold mctpAnswer
  rw [if_neg hopen]
  generalize mctpTake s b e tag = taken at hf ⊢
  obtain ⟨s1, ok⟩ := taken
  cases ok with
  | false => rfl
  | true =>
    dsimp only at hf ⊢
    rw [hf]
    rfl

/-- PLDM of a binding without an endpoint ID is not answered. -/
theorem mctpAnswer_of_noEid {s : State} {b e tag type cmd : Nat} {f : State → State × PldmCode × List Nat} (htype : type ≠ 0)
    (hnone : (tfind s.eids b).isNone = true) : mctpAnswer s b e tag type cmd f = s :=
  if_pos (.inr ⟨htype, hnone⟩)

end Sys2Proof
end


section
/-! O48: MCTP packets, control commands and monitoring (13 R437, R445, R455, 15 R523). -/
namespace Sys2Proof
open Sys2Proof.Machine

/-! ### Packets and messages -/

theorem mctpPacketReceive_of_ignored {s : State} {b : Fin 2} {e : Fin 256} {tag : Fin 8} {som eom ic : Bool} {seq : Fin 4} {p : List Byte}
    (h : mctpUp s = false ∨ 64 < p.length) : exec (.mctpPacketReceive b e tag som eom ic seq p) s = .next s :=
  if_pos (h.imp (fun h => by rw [h]; rfl) id)

/-- The message that a packet adds to. -/
def joined (a : Assembly) (som : Bool) (p : List Byte) : List Byte := if som then p else a.data ++ p

/-- A packet begins a message or continues the one under assembly. -/
def joins (a : Assembly) (som : Bool) (tag : Fin 8) (seq : Fin 4) : Prop := som = true ∨ (a.busy = true ∧ a.tag = tag.val ∧ a.nextSeq = seq.val)

/-- The endpoint's assembly is replaced. -/
def asmPut (s : State) (b : Fin 2) (e : Fin 256) (x : Assembly) : State := endpointPut s b.val e.val { endpointOf s b.val e.val with asm := x }

theorem breaksOff_iff_not_joins (a : Assembly) (som : Bool) (tag : Fin 8) (seq : Fin 4) :
    (!som) = true ∧ ((!a.busy) = true ∨ a.tag ≠ tag.val ∨ a.nextSeq ≠ seq.val) ↔ ¬ joins a som tag seq := by
  unfold joins
  cases som <;> cases a.busy <;> simp only [Bool.not_true, Bool.not_false, Bool.false_eq_true, not_true_eq_false, not_false_eq_true, true_and,
    false_and, false_or, true_or, not_and_or, ne_eq]

section
variable {s : State} {b : Fin 2} {e : Fin 256} {tag : Fin 8} {som eom ic : Bool} {seq : Fin 4} {p : List Byte}

/-- A packet of a length that fits, in the time of the management block. -/
theorem not_ignored (hup : mctpUp s = true) (hp : p.length ≤ 64) : ¬ ((!mctpUp s) = true ∨ p.length > 64) := by
  rw [hup]
  rintro (h | h)
  · exact absurd h (by decide)
  · omega

theorem mctpPacketReceive_of_broken (hup : mctpUp s = true) (hp : p.length ≤ 64) (h : ¬ joins (endpointOf s b.val e.val).asm som tag seq) :
    exec (.mctpPacketReceive b e tag som eom ic seq p) s = .next (asmPut s b e {}) :=
  (if_neg (not_ignored hup hp)).trans (if_pos ((breaksOff_iff_not_joins _ _ _ _).mpr h))

theorem mctpPacketReceive_of_refused (hup : mctpUp s = true) (hp : p.length ≤ 64) (hj : joins (endpointOf s b.val e.val).asm som tag seq)
    (h : ic = true ∨ 1024 < (joined (endpointOf s b.val e.val).asm som p).length) :
    exec (.mctpPacketReceive b e tag som eom ic seq p) s = .next (asmPut s b e {}) :=
  (if_neg (not_ignored hup hp)).trans ((if_neg fun hb => (breaksOff_iff_not_joins _ _ _ _).mp hb hj).trans (if_pos h))

/-- What the last packet of a message leaves. -/
def messageEnd (s : State) (b : Fin 2) (e : Fin 256) (tag : Fin 8) (d : List Byte) : State :=
  if mctpTypeOk s b.val d then mctpArrive (asmPut s b e {}) b e tag d else asmPut s b e {}

theorem mctpPacketReceive_of_joined (hup : mctpUp s = true) (hp : p.length ≤ 64) (hj : joins (endpointOf s b.val e.val).asm som tag seq)
    (hic : ic = false) (hd : (joined (endpointOf s b.val e.val).asm som p).length ≤ 1024) :
    exec (.mctpPacketReceive b e tag som eom ic seq p) s =
      if eom then .next (messageEnd s b e tag (joined (endpointOf s b.val e.val).asm som p))
      else .next (asmPut s b e { busy := true, tag := tag.val, nextSeq := (seq.val + 1) % 4, data := joined (endpointOf s b.val e.val).asm som p
                                 tb := if som then s.tb else (endpointOf s b.val e.val).asm.tb }) := by
  have hkept : ¬ (ic = true ∨ (joined (endpointOf s b.val e.val).asm som p).length > 1024) := by
    rw [hic]
    rintro (h | h)
    · exact absurd h (by decide)
    · omega
  exact (if_neg (not_ignored hup hp)).trans ((if_neg fun hb => (breaksOff_iff_not_joins _ _ _ _).mp hb hj).trans (if_neg hkept))

end

/-! ### Arrival of a message -/

section
variable {s : State} {b : Fin 2} {e : Fin 256} {tag : Fin 8} {d : List Byte} {x : Byte}

theorem mctpTypeOk_of_head (h : d.head? = some x) :
    mctpTypeOk s b.val d = (x.toNat == 0 || ((x.toNat == 1 || x.toNat == 0x7E) && (tfind s.eids b.val).isSome)) := by
  cases d with
  | nil => exact absurd h (by simp)
  | cons y t =>
    obtain rfl : y = x := by simpa using h
    rfl

theorem mctpArrive_of_other (h : d.head? ≠ some 0x7E) : mctpArrive s b e tag d = { s with mctpIn := s.mctpIn ++ [(b.val, e.val, tag.val, d)] } :=
  if_pos h

theorem mctpArrive_of_request (h : d.head? = some 0x7E) :
    mctpArrive s b e tag d = if (papBefore s b.val e.val d).contains d then s
      else { s with mctpIn := s.mctpIn ++ [(b.val, e.val, tag.val, d)], papQueue := s.papQueue ++ [(.mctp b e tag, !(papBefore s b.val e.val d).isEmpty)] } :=
  if_neg (fun hn => hn h)

/-- A message that ends changes the endpoint, the messages that wait and their order alone. -/
theorem messageEnd_eq (s : State) (b : Fin 2) (e : Fin 256) (tag : Fin 8) (d : List Byte) :
    messageEnd s b e tag d = { s with endpoints := (messageEnd s b e tag d).endpoints, mctpIn := (messageEnd s b e tag d).mctpIn, papQueue := (messageEnd s b e tag d).papQueue } ∧
      (messageEnd s b e tag d).endpoints = (asmPut s b e {}).endpoints := by
  unfold messageEnd
  split
  · by_cases h : d.head? = some 0x7E
    · rw [mctpArrive_of_request h]
      split <;> exact ⟨rfl, rfl⟩
    · rw [mctpArrive_of_other h]
      exact ⟨rfl, rfl⟩
  · exact ⟨rfl, rfl⟩

theorem messageEnd_of_other (h : d.head? = some x) (hx : x.toNat = 0 ∨ (x.toNat = 1 ∧ (tfind s.eids b.val).isSome = true)) :
    messageEnd s b e tag d = { asmPut s b e {} with mctpIn := s.mctpIn ++ [(b.val, e.val, tag.val, d)] } := by
  have hok : mctpTypeOk s b.val d = true := by
    rw [mctpTypeOk_of_head h]
    rcases hx with h0 | ⟨h1, heid⟩
    · rw [h0]
      rfl
    · rw [h1, heid]
      rfl
  have hother : d.head? ≠ some 0x7E := by
    rw [h]
    rintro ⟨⟩
    rcases hx with h0 | ⟨h1, -⟩
    · exact absurd h0 (by decide)
    · exact absurd h1 (by decide)
  exact (if_pos hok).trans (mctpArrive_of_other hother)

theorem messageEnd_of_request (h : d.head? = some 0x7E) (heid : (tfind s.eids b.val).isSome = true) :
    messageEnd s b e tag d = if (papBefore s b.val e.val d).contains d then asmPut s b e {}
      else { asmPut s b e {} with mctpIn := s.mctpIn ++ [(b.val, e.val, tag.val, d)]
                                  papQueue := s.papQueue ++ [(.mctp b e tag, !(papBefore s b.val e.val d).isEmpty)] } := by
  have hok : mctpTypeOk s b.val d = true := by
    rw [mctpTypeOk_of_head h, heid]
    rfl
  exact (if_pos hok).trans (mctpArrive_of_request h)

theorem messageEnd_of_unsupported (h : ∀ x, d.head? = some x → x.toNat ≠ 0 ∧ ((tfind s.eids b.val).isSome = false ∨ (x.toNat ≠ 1 ∧ x.toNat ≠ 0x7E))) :
    messageEnd s b e tag d = asmPut s b e {} := by
  refine if_neg ?_
  cases hd : d.head? with
  | none =>
    obtain rfl := List.head?_eq_none_iff.mp hd
    simp [mctpTypeOk]
  | some x =>
    obtain ⟨h0, hrest⟩ := h x hd
    rw [mctpTypeOk_of_head hd]
    rcases hrest with hn | ⟨h1, h7⟩
    · simp [h0, hn]
    · simp [h0, h1, h7]

end

/-! ### Timeouts -/

theorem mctpAssemblyTimeout_of_due {s : State} {b : Fin 2} {e : Fin 256} (hbusy : (endpointOf s b.val e.val).asm.busy = true)
    (hdue : tbPast s.tb (endpointOf s b.val e.val).asm.tb 100000000 = true) : exec (.mctpAssemblyTimeout b e) s = .next (asmPut s b e {}) :=
  congrArg _ (if_pos ⟨hbusy, hdue⟩)

theorem mctpAssemblyTimeout_of_early {s : State} {b : Fin 2} {e : Fin 256}
    (h : (endpointOf s b.val e.val).asm.busy = false ∨ tbPast s.tb (endpointOf s b.val e.val).asm.tb 100000000 = false) :
    exec (.mctpAssemblyTimeout b e) s = .next s := by
  refine congrArg _ (if_neg ?_)
  rintro ⟨hbusy, hdue⟩
  rcases h with h | h
  · exact absurd (h.symm.trans hbusy) (by decide)
  · exact absurd (h.symm.trans hdue) (by decide)

theorem mctpTxAcceptTimeout_of_offer {s : State} {t i : Nat} (h : s.mctpOffer = some (t, i)) :
    exec .mctpTxAcceptTimeout s = if mctpUp s ∧ tbPast s.tb t 10000000 then
      .next (pinc (freeNext { s with mctpOffer := none, sent := mctpCut s i }) P.mctpTxDropped) else .next s := by
  change execMctpTxAcceptTimeout s = _
  unfold execMctpTxAcceptTimeout
  rw [h]

theorem mctpTxAcceptTimeout_of_early {s : State}
    (h : s.mctpOffer = none ∨ mctpUp s = false ∨ ∀ t i, s.mctpOffer = some (t, i) → tbPast s.tb t 10000000 = false) :
    exec .mctpTxAcceptTimeout s = .next s := by
  cases hoffer : s.mctpOffer with
  | none =>
    change execMctpTxAcceptTimeout s = _
    unfold execMctpTxAcceptTimeout
    rw [hoffer]
  | some x =>
    obtain ⟨t, i⟩ := x
    rw [mctpTxAcceptTimeout_of_offer hoffer]
    refine if_neg ?_
    rintro ⟨hup, hdue⟩
    rcases h with h | h | h
    · exact absurd (h.symm.trans hoffer) (by simp)
    · exact absurd (h.symm.trans hup) (by decide)
    · exact absurd ((h t i hoffer).symm.trans hdue) (by decide)

/-- The cut of a message leaves what was sent before it; of an MCTP message whole packets stay, or nothing. -/
theorem mctpCut_spec (s : State) (i : Nat) {m : Sent} (h : s.sent[i]? = some m) (hcut : (mctpCut s i)[i]? ≠ some m) :
    (∀ j, j < i → (mctpCut s i)[j]? = s.sent[j]?) ∧
      ∀ b e t x, m = .mctp b e t x → mctpCut s i = s.sent.eraseIdx i ∨ ∃ k, 0 < k ∧ mctpCut s i = s.sent.set i (.mctp b e t (x.take (64 * k))) := by
  have herase : ∀ j, j < i → (s.sent.eraseIdx i)[j]? = s.sent[j]? := fun j hj => List.getElem?_eraseIdx_of_lt hj
  cases m with
  | mctp b e t d =>
    have hmctp : mctpCut s i = if (Config.freeWord s.freeCtr).toNat % max 1 ((d.length + 63) / 64) = 0 then s.sent.eraseIdx i
        else s.sent.set i (.mctp b e t (d.take (64 * ((Config.freeWord s.freeCtr).toNat % max 1 ((d.length + 63) / 64))))) := by
      unfold mctpCut
      rw [h]
    rw [hmctp]
    split
    next => exact ⟨herase, fun _ _ _ _ _ => .inl rfl⟩
    next hk =>
      refine ⟨fun j hj => List.getElem?_set_ne (Nat.ne_of_gt hj), ?_⟩
      rintro b' e' t' x ⟨⟩
      exact .inr ⟨_, Nat.pos_of_ne_zero hk, rfl⟩
  | pldm b e t ty c x v =>
    have hpldm : mctpCut s i = s.sent.eraseIdx i := by
      unfold mctpCut
      rw [h]
    rw [hpldm]
    exact ⟨herase, fun _ _ _ _ hm => nomatch hm⟩
  | _ =>
    have hsame : mctpCut s i = s.sent := by
      unfold mctpCut
      rw [h]
    exact absurd (hsame ▸ h) hcut

/-! ### The budget, and the loss of a transport -/

theorem mctpTake_of_room {s : State} {b e tag : Nat} (h : (mctpWindow (mctpConsume s b e tag)).mctpCount < 200) :
    mctpTake s b e tag = ({ mctpWindow (mctpConsume s b e tag) with mctpCount := (mctpWindow (mctpConsume s b e tag)).mctpCount + 1 }, true) :=
  if_neg (Nat.not_le.mpr h)

theorem mctpTake_of_spent {s : State} {b e tag : Nat} (h : 200 ≤ (mctpWindow (mctpConsume s b e tag)).mctpCount) :
    mctpTake s b e tag = (pinc (mctpWindow (mctpConsume s b e tag)) P.mctpRxDropped, false) :=
  if_pos h

theorem mctpConsume_of_empty {s : State} {b e tag : Nat} (h : s.mctpIn = []) : mctpConsume s b e tag = s := by
  unfold mctpConsume
  rw [h]
  rfl

theorem mctpWindow_of_empty_open {s : State} {b e tag : Nat} (h : s.mctpIn = []) (hopen : s.tb < s.tbMctp + 100000000) :
    mctpWindow (mctpConsume s b e tag) = s := by
  rw [mctpConsume_of_empty h]
  exact if_neg (fun hpast => absurd (of_decide_eq_true hpast) (by omega))

theorem mctpWindow_of_empty_past {s : State} {b e tag : Nat} (h : s.mctpIn = []) (hpast : tbPast s.tb s.tbMctp 100000000 = true) :
    mctpWindow (mctpConsume s b e tag) = { s with tbMctp := s.tb, mctpCount := 0 } := by
  rw [mctpConsume_of_empty h]
  exact if_pos hpast

/-- A session that came over the lost binding does not stay; one under whose number no such session stands does. -/
theorem transportLoss_sessions (s : State) (b : Fin 2) :
    (∀ k ∈ (sessionsFree s (sessionOn b.val)).sessions, ∀ e, k.2.src ≠ .endpoint b.val e) ∧
      ∀ k ∈ s.sessions, (∀ k' ∈ s.sessions, k'.1 = k.1 → sessionOn b.val k'.2 = false) → k ∈ (sessionsFree s (sessionOn b.val)).sessions := by
  refine ⟨fun k hk e hsrc => ?_, fun k hk hothers => (mem_sessions_sessionsFree s _ k).mpr ⟨hk, hothers⟩⟩
  obtain ⟨hmem, hfree⟩ := (mem_sessions_sessionsFree s _ k).mp hk
  have hoff : sessionOn b.val k.2 = false := hfree k hmem rfl
  rw [sessionOn, hsrc] at hoff
  simp at hoff

/-! ### Control commands -/

/-- An answer to a request that changes nothing but the budget. -/
def mctpAnswered (s : State) (b : Fin 2) (e : Fin 256) (tag : Fin 8) (ty c : Nat) (x : PldmCode) (v : List Nat) : State :=
  if (mctpTake s b.val e.val tag.val).2 then mctpOffered (mctpTake s b.val e.val tag.val).1 (.pldm b.val e.val tag.val ty c x v)
  else (mctpTake s b.val e.val tag.val).1

section
variable {s : State} {b : Fin 2} {e : Fin 256} {tag : Fin 8} (hup : mctpUp s = true)
include hup

theorem getEndpointId_eq : exec (.getEndpointId b e tag) s =
    .next (mctpAnswered s b e tag 0 2 .success [(tfind (mctpTake s b.val e.val tag.val).1.eids b.val).getD 0]) :=
  congrArg _ (mctpAnswer_of_lets hup (.inl rfl) rfl)

theorem getEndpointUuid_eq : exec (.getEndpointUuid b e tag) s = .next (mctpAnswered s b e tag 0 3 .success [Config.deviceUuid]) :=
  congrArg _ (mctpAnswer_of_lets hup (.inl rfl) rfl)

theorem getMctpVersionSupport_eq : exec (.getMctpVersionSupport b e tag) s = .next (mctpAnswered s b e tag 0 4 .success [1, 3]) :=
  congrArg _ (mctpAnswer_of_lets hup (.inl rfl) rfl)

theorem getMessageTypeSupport_eq : exec (.getMessageTypeSupport b e tag) s = .next (mctpAnswered s b e tag 0 5 .success [0, 1, 0x7E]) :=
  congrArg _ (mctpAnswer_of_lets hup (.inl rfl) rfl)

theorem getVendorMsgSupport_eq : exec (.getVendorMsgSupport b e tag) s = .next (mctpAnswered s b e tag 0 6 .success [Config.pciVendorId]) :=
  congrArg _ (mctpAnswer_of_lets hup (.inl rfl) rfl)

theorem mctpUnsupportedCmd_eq (cmd : Fin 256) : exec (.mctpUnsupportedCmd b e tag cmd) s = .next (mctpAnswered s b e tag 0 cmd.val .unsupported []) :=
  congrArg _ (mctpAnswer_of_lets hup (.inl rfl) rfl)

end

/-- A new ID of a binding ends its sessions. -/
def eidCleared (s : State) (b eid : Nat) : State := if tfind s.eids b = some eid then s else sessionsFree s (sessionOn b)

/-- What SET_ENDPOINT_ID leaves of a valid ID. -/
def eidSet (s : State) (b eid : Nat) : State := { eidCleared s b eid with eids := tins (tdel (eidCleared s b eid).eids b) b eid }

theorem outsideSessions_eidCleared (s : State) (b eid : Nat) : outsideSessions (eidCleared s b eid) = outsideSessions s := by
  unfold eidCleared
  split
  · rfl
  · exact outsideSessions_sessionsFree s _

theorem eidSet_sent (s : State) (b eid : Nat) : (eidSet s b eid).sent = s.sent := by
  have h := congrArg State.sent (outsideSessions_eidCleared s b eid)
  exact h

theorem eidSet_tb (s : State) (b eid : Nat) : (eidSet s b eid).tb = s.tb := by
  have h := congrArg State.tb (outsideSessions_eidCleared s b eid)
  exact h

theorem eidSet_mctpCount (s : State) (b eid : Nat) : (eidSet s b eid).mctpCount = s.mctpCount := by
  have h := congrArg State.mctpCount (outsideSessions_eidCleared s b eid)
  exact h

theorem eidSet_offered_sent (s : State) (b eid : Nat) (x : Sent) : (mctpOffered (eidSet s b eid) x).sent = s.sent ++ [x] := by
  rw [← eidSet_sent s b eid]
  rfl

theorem eidSet_offered_mctpOffer (s : State) (b eid : Nat) (x : Sent) :
    (mctpOffered (eidSet s b eid) x).mctpOffer = some (s.tb, s.sent.length) := by
  rw [← eidSet_sent s b eid, ← eidSet_tb s b eid]
  rfl

theorem tfind_eidSet_self (s : State) (b eid : Nat) : tfind (eidSet s b eid).eids b = some eid :=
  tfind_tins_tdel_self _ b eid

theorem tfind_eidSet_ne (s : State) (b eid : Nat) {b' : Nat} (h : b' ≠ b) : tfind (eidSet s b eid).eids b' = tfind s.eids b' := by
  have heids := congrArg State.eids (outsideSessions_eidCleared s b eid)
  exact (tfind_tins_tdel_ne _ b eid h).trans (congrArg (tfind · b') heids)

theorem setEndpointId_of_invalid {s : State} {b : Fin 2} {e n : Fin 256} {tag : Fin 8} (hup : mctpUp s = true) (h : n.val = 0 ∨ n.val = 255) :
    exec (.setEndpointId b e tag n) s = .next (if (mctpTake s b.val e.val tag.val).2 then
      mctpOffered (mctpTake s b.val e.val tag.val).1 (.pldm b.val e.val tag.val 0 1 .invalidData []) else (mctpTake s b.val e.val tag.val).1) :=
  congrArg _ (mctpAnswer_of_lets hup (.inl rfl) (if_pos h))

/-- The answer to a valid ID, whatever the state of the budget. -/
theorem eidSet_offered (u : State) (b eid : Nat) (x : Sent) : tfind (mctpOffered (eidSet u b eid) x).eids b = some eid ∧
    (mctpOffered (eidSet u b eid) x).sent = u.sent ++ [x] ∧ (mctpOffered (eidSet u b eid) x).mctpOffer = some (u.tb, u.sent.length) ∧
    (∀ b', b' ≠ b → tfind (mctpOffered (eidSet u b eid) x).eids b' = tfind u.eids b') ∧ (mctpOffered (eidSet u b eid) x).mctpCount = u.mctpCount :=
  ⟨tfind_eidSet_self u b eid, eidSet_offered_sent u b eid x, eidSet_offered_mctpOffer u b eid x, fun _ hb => tfind_eidSet_ne u b eid hb, eidSet_mctpCount u b eid⟩

theorem setEndpointId_of_valid {s : State} {b : Fin 2} {e n : Fin 256} {tag : Fin 8} (hup : mctpUp s = true) (h0 : n.val ≠ 0) (h255 : n.val ≠ 255)
    (hok : (mctpTake s b.val e.val tag.val).2 = true) : exec (.setEndpointId b e tag n) s =
      .next (mctpOffered (eidSet (mctpTake s b.val e.val tag.val).1 b.val n.val) (.pldm b.val e.val tag.val 0 1 .success [n.val])) :=
  congrArg _ ((mctpAnswer_of_lets hup (.inl rfl) (if_neg (by simp [h0, h255]))).trans (if_pos hok))

/-! ### The sensors -/

section
variable {s : State} {b : Fin 2} {e : Fin 256} {tag : Fin 8}

theorem getPdrRepositoryInfo_eq (hup : mctpUp s = true) (heid : (tfind s.eids b.val).isSome = true) :
    exec (.getPdrRepositoryInfo b e tag) s = .next (mctpAnswered s b e tag 2 1 .success [29]) :=
  congrArg _ (mctpAnswer_of_lets hup (.inr heid) rfl)

theorem pldmUnsupportedCmd_eq (hup : mctpUp s = true) (heid : (tfind s.eids b.val).isSome = true) (t5 : Bool) (cmd : Fin 256) :
    exec (.pldmUnsupportedCmd b e tag t5 cmd) s = .next (mctpAnswered s b e tag (if t5 then 5 else 2) cmd.val .unsupported []) :=
  congrArg _ (mctpAnswer_of_lets hup (.inr heid) rfl)

theorem getPdr_of_sensor (hup : mctpUp s = true) (heid : (tfind s.eids b.val).isSome = true) {h : BitVec 32} (h1 : 1 ≤ h.toNat) (h29 : h.toNat ≤ 29)
    {v : List Nat} (hv : [h.toNat, if h.toNat = 29 then 1 else 0] = v) : exec (.getPdr b e tag h) s = .next (mctpAnswered s b e tag 2 2 .success v) := by
  subst hv
  exact congrArg _ (mctpAnswer_of_lets hup (.inr heid) (if_pos ⟨h1, h29⟩))

theorem getPdr_of_none (hup : mctpUp s = true) (heid : (tfind s.eids b.val).isSome = true) {h : BitVec 32} (hn : h.toNat = 0 ∨ 29 < h.toNat) :
    exec (.getPdr b e tag h) s = .next (mctpAnswered s b e tag 2 2 .invalidData []) :=
  congrArg _ (mctpAnswer_of_lets hup (.inr heid) (if_neg (by omega)))

theorem getSensorReading_of_sensor (hup : mctpUp s = true) (heid : (tfind s.eids b.val).isSome = true) {n : BitVec 16} (h1 : 1 ≤ n.toNat) (h28 : n.toNat ≤ 28)
    {v : Nat} (hv : sensorValue (mctpTake s b.val e.val tag.val).1 n.toNat = v) :
    exec (.getSensorReading b e tag n) s = .next (mctpAnswered s b e tag 2 3 .success [v]) := by
  subst hv
  exact congrArg _ (mctpAnswer_of_lets hup (.inr heid) (if_pos ⟨h1, h28⟩))

theorem getSensorReading_of_none (hup : mctpUp s = true) (heid : (tfind s.eids b.val).isSome = true) {n : BitVec 16} (hn : n.toNat = 0 ∨ 28 < n.toNat) :
    exec (.getSensorReading b e tag n) s = .next (mctpAnswered s b e tag 2 3 .invalidData []) :=
  congrArg _ (mctpAnswer_of_lets hup (.inr heid) (if_neg (by omega)))

theorem getStateSensorReadings_of_alerts (hup : mctpUp s = true) (heid : (tfind s.eids b.val).isSome = true) {n : BitVec 16} (h : n.toNat = 29) :
    exec (.getStateSensorReadings b e tag n) s =
      .next (mctpAnswered s b e tag 2 4 .success [pget (mctpTake s b.val e.val tag.val).1 P.alertStatus]) :=
  congrArg _ (mctpAnswer_of_lets hup (.inr heid) (if_pos h))

theorem getStateSensorReadings_of_none (hup : mctpUp s = true) (heid : (tfind s.eids b.val).isSome = true) {n : BitVec 16} (h : n.toNat ≠ 29) :
    exec (.getStateSensorReadings b e tag n) s = .next (mctpAnswered s b e tag 2 4 .invalidData []) :=
  congrArg _ (mctpAnswer_of_lets hup (.inr heid) (if_neg h))

theorem sensorValue_of_one {n : Nat} (h : n = 1) : sensorValue s n = pget s P.inputMv := if_pos h

theorem sensorValue_of_two {n : Nat} (h : n = 2) : sensorValue s n = pget s P.inputPowerW := by
  rw [h]
  rfl

theorem sensorValue_of_three {n : Nat} (h : n = 3) : sensorValue s n = pget s P.moduleEnergyMj / 1000 % 2 ^ 32 := by
  rw [h]
  rfl

theorem sensorValue_of_die {n : Nat} (h : 4 ≤ n) : sensorValue s n = pget s (P.dieTempC (n - 4)) := by
  unfold sensorValue
  rw [if_neg (by omega), if_neg (by omega), if_neg (by omega)]

end

/-! ### The obligation -/

theorem packets_of_mctp (s : State) (b : Fin 2) (e : Fin 256) (tag : Fin 8) (d : List Byte) :
    (endpointOf (messageEnd s b e tag d) b.val e.val).asm = {} ∧
      messageEnd s b e tag d = { s with endpoints := (messageEnd s b e tag d).endpoints, mctpIn := (messageEnd s b e tag d).mctpIn, papQueue := (messageEnd s b e tag d).papQueue } ∧
      ((∃ x, d.head? = some x ∧ (x.toNat = 0 ∨ (x.toNat = 1 ∧ (tfind s.eids b.val).isSome = true))) →
        (messageEnd s b e tag d).mctpIn = s.mctpIn ++ [(b.val, e.val, tag.val, d)] ∧ (messageEnd s b e tag d).papQueue = s.papQueue) ∧
      (d.head? = some 0x7E → (tfind s.eids b.val).isSome = true →
        ((papBefore s b.val e.val d).contains d = true → (messageEnd s b e tag d).mctpIn = s.mctpIn ∧ (messageEnd s b e tag d).papQueue = s.papQueue) ∧
        ((papBefore s b.val e.val d).contains d = false → (messageEnd s b e tag d).mctpIn = s.mctpIn ++ [(b.val, e.val, tag.val, d)] ∧
          (messageEnd s b e tag d).papQueue = s.papQueue ++ [(.mctp b e tag, !(papBefore s b.val e.val d).isEmpty)])) ∧
      ((∃ x, d.head? = some x ∧ x.toNat ≠ 0) → (tfind s.eids b.val).isSome = false → (messageEnd s b e tag d).mctpIn = s.mctpIn) ∧
      ((∀ x, d.head? = some x → x.toNat ≠ 0 ∧ x.toNat ≠ 1 ∧ x.toNat ≠ 0x7E) → (messageEnd s b e tag d).mctpIn = s.mctpIn) := by
  obtain ⟨heq, hendpoints⟩ := messageEnd_eq s b e tag d
  refine ⟨?_, heq, ?_, ?_, ?_, ?_⟩
  · have hasm := endpointOf_endpointPut_self s b.val e.val { endpointOf s b.val e.val with asm := {} }
    unfold endpointOf at hasm ⊢
    rw [hendpoints]
    exact congrArg Endpoint.asm hasm
  · rintro ⟨x, hx, hother⟩
    rw [messageEnd_of_other hx hother]
    exact ⟨rfl, rfl⟩
  · intro hhead heid
    rw [messageEnd_of_request hhead heid]
    exact ⟨fun h => by rw [if_pos h]; exact ⟨rfl, rfl⟩, fun h => by rw [if_neg (ne_true_of_eq_false h)]; exact ⟨rfl, rfl⟩⟩
  · rintro ⟨x, hx, h0⟩ heid
    rw [messageEnd_of_unsupported fun y hy => ⟨by rw [hx] at hy; cases hy; exact h0, .inl heid⟩]
    rfl
  · intro h
    rw [messageEnd_of_unsupported fun y hy => ⟨(h y hy).1, .inr (h y hy).2⟩]
    rfl

/-- Settles O48, by the outcomes of a packet, and by the one way in which every request is answered. -/
theorem mctpMessages : Obligations.MctpMessages := by
  refine ⟨?_, ?_, ?_, ?_, ?_⟩
  · intro s b e tag som eom ic seq p ep a put d joins_
    refine ⟨mctpPacketReceive_of_ignored, fun hup hp => ⟨mctpPacketReceive_of_broken hup hp, mctpPacketReceive_of_refused hup hp, fun hj hic hd => ⟨fun heom => ?_, fun heom => ?_⟩⟩,
      mctpAssemblyTimeout_of_due, mctpAssemblyTimeout_of_early, fun t i hoffer hup hdue => ?_, mctpTxAcceptTimeout_of_early, fun i m h hcut => mctpCut_spec s i h hcut⟩
    · exact (mctpPacketReceive_of_joined hup hp hj hic hd).trans (if_neg (ne_true_of_eq_false heom))
    · obtain ⟨hasm, heq, hother, hrequest, hnoEid, hunlisted⟩ := packets_of_mctp s b e tag d
      exact ⟨messageEnd s b e tag d, (mctpPacketReceive_of_joined hup hp hj hic hd).trans (if_pos heom), hasm, heq, hother, hrequest, hnoEid, hunlisted⟩
    · exact (mctpTxAcceptTimeout_of_offer hoffer).trans (if_pos ⟨hup, hdue⟩)
  · intro s b e newEid tag cmd hup
    exact ⟨fun h0 h255 hok => ⟨_, setEndpointId_of_valid hup h0 h255 hok, eidSet_offered _ _ _ _⟩,
      setEndpointId_of_invalid hup, getEndpointId_eq hup, getEndpointUuid_eq hup, getMctpVersionSupport_eq hup, getMessageTypeSupport_eq hup, getVendorMsgSupport_eq hup,
      mctpUnsupportedCmd_eq hup cmd⟩
  · intro s b e tag h n t5 cmd hup
    have htype : (if t5 then 5 else 2) ≠ 0 := by
      cases t5 <;> decide
    refine ⟨fun hnone => ⟨congrArg _ (mctpAnswer_of_noEid (by decide) hnone), congrArg _ (mctpAnswer_of_noEid (by decide) hnone), congrArg _ (mctpAnswer_of_noEid (by decide) hnone),
      congrArg _ (mctpAnswer_of_noEid (by decide) hnone), congrArg _ (mctpAnswer_of_noEid htype hnone)⟩, fun heid => ?_⟩
    exact ⟨getPdrRepositoryInfo_eq hup heid, getPdr_of_none hup heid,
      fun h1 h28 => getPdr_of_sensor hup heid h1 (by omega) (by rw [if_neg (by omega)]), fun h29 => getPdr_of_sensor hup heid (by omega) (by omega) (by rw [if_pos h29, h29]),
      fun h1 => getSensorReading_of_sensor hup heid (by omega) (by omega) (sensorValue_of_one h1),
      fun h2 => getSensorReading_of_sensor hup heid (by omega) (by omega) (sensorValue_of_two h2),
      fun h3 => getSensorReading_of_sensor hup heid (by omega) (by omega) (sensorValue_of_three h3),
      fun h4 h28 => getSensorReading_of_sensor hup heid (by omega) h28 (sensorValue_of_die h4),
      getSensorReading_of_none hup heid, getStateSensorReadings_of_alerts hup heid, getStateSensorReadings_of_none hup heid, pldmUnsupportedCmd_eq hup heid t5 cmd⟩
  · intro s b e tag
    exact ⟨mctpTake_of_room, mctpTake_of_spent, mctpWindow_of_empty_open, mctpWindow_of_empty_past⟩
  · intro s b
    obtain ⟨hgone, hstay⟩ := transportLoss_sessions s b
    have houtside := outsideSessions_sessionsFree s (sessionOn b.val)
    have hsent := congrArg State.sent houtside
    have heids := congrArg State.eids houtside
    exact ⟨_, rfl, hgone, hstay, hsent, heids⟩

end Sys2Proof
end


section
/-! O55: firmware updates, the rollback floor and credentials (18 R578 to R582, Tables Sec-3 and Sec-4). -/
namespace Sys2Proof
open Sys2Proof.Machine

/-! ### The state of an update -/

@[simp] theorem fwState_fwGo (s : State) (n : Nat) : fwState (fwGo s n) = n := pget_pset_self _ _ _

/-- Leaving an update erases the slot of one that is not verified. -/
theorem fwLeave_of_partial {s : State} (n : Nat) (h : fwState s = 3 ∨ fwState s = 4) : fwLeave s n = fwGo { fwSlotPut s {} with fw := {} } n := by
  unfold fwLeave
  rw [if_pos h]

theorem fwLeave_of_whole {s : State} (n : Nat) (h : ¬ (fwState s = 3 ∨ fwState s = 4)) : fwLeave s n = fwGo { s with fw := {} } n := by
  unfold fwLeave
  rw [if_neg h]

/-- The slot that does not run is written, the other one stays. -/
theorem slots_fwSlotPut (s : State) (x : FwSlot) :
    if s.start.fwB then (fwSlotPut s x).flash.fwA = x ∧ (fwSlotPut s x).flash.fwB = s.flash.fwB
    else (fwSlotPut s x).flash.fwB = x ∧ (fwSlotPut s x).flash.fwA = s.flash.fwA := by
  unfold fwSlotPut
  cases s.start.fwB <;> exact ⟨rfl, rfl⟩

theorem fwLeave_spec (s : State) (n : Nat) : fwState (fwLeave s n) = n ∧
    ((fwState s = 3 ∨ fwState s = 4) → (if s.start.fwB then (fwLeave s n).flash.fwA = {} ∧ (fwLeave s n).flash.fwB = s.flash.fwB
      else (fwLeave s n).flash.fwB = {} ∧ (fwLeave s n).flash.fwA = s.flash.fwA)) ∧
    (fwState s ≠ 3 → fwState s ≠ 4 → (fwLeave s n).flash = s.flash) := by
  refine ⟨fwState_fwGo _ n, fun h => ?_, fun h3 h4 => ?_⟩
  · rw [fwLeave_of_partial n h]
    exact slots_fwSlotPut s {}
  · rw [fwLeave_of_whole n (by simp [h3, h4])]
    rfl

/-- An update whose timer starts again. -/
def fwTimed (s : State) : State := { s with fw := { s.fw with tbLast := s.tb } }

/-! ### The commands of Table Sec-3 -/

section
variable {s : State} {b : Fin 2} {e : Fin 256} {tag : Fin 8}

/-- The answer to an update command that the budget lets in, in the state that the command leaves. -/
def fwGiven (s : State) (b : Fin 2) (e : Fin 256) (tag : Fin 8) (c : Nat) (t : State) (x : PldmCode) (v : List Nat) : State :=
  if (mctpTake s b.val e.val tag.val).2 then mctpOffered t (.pldm b.val e.val tag.val 5 c x v) else (mctpTake s b.val e.val tag.val).1

section
variable {u : State} (hup : mctpUp s = true) (heid : (tfind s.eids b.val).isSome = true) (hu : (mctpTake s b.val e.val tag.val).1 = u)
include hup heid hu

theorem fwQuery_eq {c : Nat} {f : State → State × PldmCode × List Nat} {t : State} {x : PldmCode} {v : List Nat} (hf : f u = (t, x, v)) :
    mctpAnswer s b.val e.val tag.val 5 c f = fwGiven s b e tag c t x v :=
  mctpAnswer_of_lets hup (.inr heid) (by rw [hu]; exact hf)

/-- In a state in which the table lists it a command is answered as it says. -/
theorem fwCommand_of_listed {c : Nat} {states : List Nat} {f : State → State × PldmCode × List Nat} {t : State} {x : PldmCode} {v : List Nat}
    (hlisted : fwState u ∈ states) (hf : f u = (t, x, v)) : fwCommand s b.val e.val tag.val c states f = fwGiven s b e tag c t x v :=
  fwQuery_eq hup heid hu ((if_pos (List.contains_iff_mem.mpr hlisted)).trans hf)

/-- In any other it is refused in IDLE, and elsewhere restarts the update's timer. -/
theorem fwCommand_of_other {c : Nat} {states : List Nat} {f : State → State × PldmCode × List Nat} :
    (fwState u = 0 → ¬ 0 ∈ states → fwCommand s b.val e.val tag.val c states f = fwGiven s b e tag c u .notInUpdateMode []) ∧
    (fwState u ≠ 0 → ¬ fwState u ∈ states → fwCommand s b.val e.val tag.val c states f = fwGiven s b e tag c (fwTimed u) .unstated []) := by
  refine ⟨fun h0 hn => fwQuery_eq hup heid hu ?_, fun h0 hn => fwQuery_eq hup heid hu ?_⟩
  · exact (if_neg (by rw [h0, List.contains_iff_mem]; exact hn)).trans (if_pos h0)
  · exact (if_neg (by rw [List.contains_iff_mem]; exact hn)).trans (if_neg h0)

theorem getStatus_of_idle (h : fwState u = 0) :
    exec (.getStatus b e tag) s = .next (fwGiven s b e tag 0x1B u .success [0, u.fw.image.length, pget u P.fwResult]) := by
  refine congrArg _ (fwQuery_eq hup heid hu ?_)
  dsimp only
  rw [if_pos h, h]

theorem getStatus_of_update (h : fwState u ≠ 0) :
    exec (.getStatus b e tag) s = .next (fwGiven s b e tag 0x1B (fwTimed u) .success [fwState u, u.fw.image.length, pget u P.fwResult]) := by
  refine congrArg _ (fwQuery_eq hup heid hu ?_)
  dsimp only
  rw [if_neg h]
  rfl

/-- The data of a push is the next of the image, and does not exceed it. -/
def pushNext (u : State) (off : U32) (data : List Byte) : Prop :=
  data.length ≤ 1014 ∧ off.toNat = u.fw.image.length ∧ off.toNat + data.length ≤ u.fw.size

/-- What a push leaves that ends its image: the image is in its slot, and verification begins. -/
def pushEnd (u : State) (data : List Byte) : State :=
  fwGo (fwSlotPut { u with fw := { u.fw with image := u.fw.image ++ data } }
    { valid := (Config.fwCheck (u.fw.image ++ data)).isSome, svn := ((Config.fwCheck (u.fw.image ++ data)).getD 0).toNat, image := u.fw.image ++ data }) 4

theorem firmwareDataPush_of_last {off : U32} {data : List Byte} (h3 : fwState u = 3) (hnext : pushNext u off data)
    (hend : (u.fw.image ++ data).length = u.fw.size) : exec (.firmwareDataPush b e tag off data) s = .next (fwGiven s b e tag 0xF0 (pushEnd u data) .success []) :=
  congrArg _ (fwCommand_of_listed hup heid hu (by rw [h3]; decide) ((if_pos hnext).trans (if_pos hend)))

theorem firmwareDataPush_of_next {off : U32} {data : List Byte} (h3 : fwState u = 3) (hnext : pushNext u off data)
    (hend : (u.fw.image ++ data).length ≠ u.fw.size) : exec (.firmwareDataPush b e tag off data) s =
      .next (fwGiven s b e tag 0xF0 (fwGo { u with fw := { u.fw with image := u.fw.image ++ data } } 3) .success []) :=
  congrArg _ (fwCommand_of_listed hup heid hu (by rw [h3]; decide) ((if_pos hnext).trans (if_neg hend)))

theorem firmwareDataPush_of_again {off : U32} {data : List Byte} (h3 : fwState u = 3) (hnext : ¬ pushNext u off data)
    (hagain : data.length ≤ 1014 ∧ off.toNat + data.length ≤ u.fw.image.length ∧ slice u.fw.image off.toNat data.length = data) :
    exec (.firmwareDataPush b e tag off data) s = .next (fwGiven s b e tag 0xF0 (fwGo u 3) .success []) :=
  congrArg _ (fwCommand_of_listed hup heid hu (by rw [h3]; decide) ((if_neg hnext).trans (if_pos hagain)))

theorem firmwareDataPush_of_bad {off : U32} {data : List Byte} (h3 : fwState u = 3) (hnext : ¬ pushNext u off data)
    (hagain : ¬ (data.length ≤ 1014 ∧ off.toNat + data.length ≤ u.fw.image.length ∧ slice u.fw.image off.toNat data.length = data)) :
    exec (.firmwareDataPush b e tag off data) s = .next (fwGiven s b e tag 0xF0 (fwGo u 3) .invalidData []) :=
  congrArg _ (fwCommand_of_listed hup heid hu (by rw [h3]; decide) ((if_neg hnext).trans (if_neg hagain)))

theorem passComponentTable_of_one {cs : List U16} (h : fwState u = 1) (hcs : cs = [1]) :
    exec (.passComponentTable b e tag cs) s = .next (fwGiven s b e tag 0x13 (fwGo u 2) .success []) :=
  congrArg _ (fwCommand_of_listed hup heid hu (by rw [h]; decide) (if_pos hcs))

theorem passComponentTable_of_other {cs : List U16} (h : fwState u = 1) (hcs : cs ≠ [1]) :
    exec (.passComponentTable b e tag cs) s = .next (fwGiven s b e tag 0x13 (fwGo u 1) .invalidData []) :=
  congrArg _ (fwCommand_of_listed hup heid hu (by rw [h]; decide) (if_neg hcs))

theorem updateComponent_of_fit {sz : U32} (h : fwState u = 2) (hsz : sz.toNat ≤ 2 ^ 24) :
    exec (.updateComponent b e tag sz) s = .next (fwGiven s b e tag 0x14 (fwGo (fwSlotPut { u with fw := { size := sz.toNat } } {}) 3) .success []) :=
  congrArg _ (fwCommand_of_listed hup heid hu (by rw [h]; decide) (if_pos (by omega)))

theorem updateComponent_of_large {sz : U32} (h : fwState u = 2) (hsz : 2 ^ 24 < sz.toNat) :
    exec (.updateComponent b e tag sz) s = .next (fwGiven s b e tag 0x14 (fwGo u 2) .invalidData []) :=
  congrArg _ (fwCommand_of_listed hup heid hu (by rw [h]; decide) (if_neg (by omega)))

end

/-- The image that a push ends lies in the slot that does not run. -/
theorem pushEnd_spec (u : State) (data : List Byte) : fwState (pushEnd u data) = 4 ∧ (pushEnd u data).fw.image = u.fw.image ++ data ∧
    (if u.start.fwB then (pushEnd u data).flash.fwA.image = u.fw.image ++ data ∧ (pushEnd u data).flash.fwB = u.flash.fwB
      else (pushEnd u data).flash.fwB.image = u.fw.image ++ data ∧ (pushEnd u data).flash.fwA = u.flash.fwA) := by
  refine ⟨fwState_fwGo _ 4, rfl, ?_⟩
  unfold pushEnd fwSlotPut fwGo
  cases u.start.fwB <;> exact ⟨rfl, rfl⟩

end

/-! ### Verification, the timeout and the rollback floor -/

section
variable {s : State}

/-- What a verification leaves that does not pass. -/
def fwFailed (s : State) (code : Nat) : State :=
  pset (pset (fwSlotPut { s with fw := { s.fw with size := 0, image := [] } } {}) P.fwState 2) P.fwResult code

theorem fwFailed_spec (s : State) (code : Nat) : fwState (fwFailed s code) = 2 ∧ pget (fwFailed s code) P.fwResult = code ∧
    (if s.start.fwB then (fwFailed s code).flash.fwA = {} else (fwFailed s code).flash.fwB = {}) := by
  refine ⟨?_, pget_pset_self _ _ _, ?_⟩
  · unfold fwFailed fwState
    rw [pget_pset_ne _ _ _ _ (by decide), pget_pset_self]
  · unfold fwFailed fwSlotPut
    cases s.start.fwB <;> rfl

theorem fwVerifyDone_of_unsigned (h4 : fwState s = 4) (hcheck : Config.fwCheck s.fw.image = none) :
    exec .fwVerifyDone s = .next (fwFailed s 0x070D) := by
  refine (if_neg (not_not.mpr h4)).trans ?_
  dsimp only
  rw [hcheck]
  rfl

theorem fwVerifyDone_of_signed (h4 : fwState s = 4) {v : BitVec 32} (hcheck : Config.fwCheck s.fw.image = some v) :
    exec .fwVerifyDone s = if v.toNat < pget s P.rollbackFloor then .next (fwFailed s 0x070E) else .next (pset (pset s P.fwState 5) P.fwResult 0) := by
  refine (if_neg (not_not.mpr h4)).trans ?_
  dsimp only
  rw [hcheck]
  rfl

theorem fwUpdateTimeout_of_due (h0 : fwState s ≠ 0) (hdue : tbPast s.tb s.fw.tbLast 120000000000 = true) :
    exec .fwUpdateTimeout s = .next (fwLeave s 0) :=
  if_pos ⟨h0, hdue⟩

theorem fwUpdateTimeout_of_early (h : fwState s = 0 ∨ tbPast s.tb s.fw.tbLast 120000000000 = false) : exec .fwUpdateTimeout s = .next s := by
  refine if_neg ?_
  rintro ⟨h0, hdue⟩
  rcases h with h | h
  · exact h0 h
  · exact absurd (h.symm.trans hdue) (by decide)

theorem floorWrite_of_range {v : Nat} (hlo : pget s P.rollbackFloor ≤ v) (hhi : v ≤ pget s P.runningSvn) :
    floorWrite s v = (counterPut s P.rollbackFloor v, 0) :=
  if_neg (by omega)

theorem floorWrite_of_outside {v : Nat} (h : v < pget s P.rollbackFloor ∨ pget s P.runningSvn < v) : floorWrite s v = (s, 0x070F) :=
  if_pos h

theorem fwRaiseFloor_eq (hup : dictUp s = true) {v : U32} {x : State × Nat} (h : floorWrite s v.toNat = x) : exec (.fwRaiseFloor v) s = .next x.1 :=
  (if_pos hup).trans (by rw [h])

/-! ### Credentials -/

theorem credInstall_eq (hup : dictUp s = true) {vf : Bool} {r : List Byte} {x : State × Nat} (hop : field r 6 1 ≠ 2) (h : credWrite s vf r = x) :
    exec (.credInstall vf r) s = .next x.1 :=
  (if_pos ⟨hup, hop⟩).trans (by rw [h])

theorem credRevoke_eq (hup : dictUp s = true) {vf : Bool} {r : List Byte} {x : State × Nat} (hop : field r 6 1 = 2) (h : credWrite s vf r = x) :
    exec (.credRevoke vf r) s = .next x.1 :=
  (if_pos ⟨hup, hop⟩).trans (by rw [h])

/-- Either command of a record does what its decision says. -/
theorem credRuns (hup : dictUp s = true) {vf : Bool} {r : List Byte} {x : State × Nat} (h : credWrite s vf r = x) :
    (field r 6 1 = 2 → exec (.credRevoke vf r) s = .next x.1) ∧ (field r 6 1 ≠ 2 → exec (.credInstall vf r) s = .next x.1) :=
  ⟨fun hop => credRevoke_eq hup hop h, fun hop => credInstall_eq hup hop h⟩

/-- A refused record: its code, counted. -/
def credRefused (s : State) (c : Nat) : State × Nat := (pset (pinc s P.credFailures) P.credResult c, c)

theorem credRefused_spec (s : State) (c : Nat) : pget (credRefused s c).1 P.credResult = c ∧
    pget (credRefused s c).1 P.credFailures = satInc32 (pget s P.credFailures) ∧ (credRefused s c).1.flash = s.flash := by
  refine ⟨pget_pset_self _ _ _, ?_, rfl⟩
  unfold credRefused
  rw [pget_pset_ne _ _ _ _ (by decide), pget_pinc_self]

/-- Whether a sequence number follows the last one of a record that passed. -/
def credFresh (s : State) (seq : Nat) : Bool := match s.flash.credSeq with | some a => serialCmp a seq == .newer | none => true

/-- The check of it. -/
def credStale (s : State) (seq : Nat) : Bool := match s.flash.credSeq with | some a => decide (serialCmp a seq ≠ .newer) | none => false

theorem credStale_eq (s : State) (seq : Nat) : credStale s seq = !credFresh s seq := by
  unfold credStale credFresh
  cases s.flash.credSeq with
  | none => rfl
  | some a =>
    dsimp only
    cases serialCmp a seq <;> rfl

end

/-! ### The checks of a credential record, in their order -/

theorem passes_of_true {x : Bool} (h : x = true) : ¬ (!x) = true := by
  rw [h]
  decide

section
variable {s : State} {vf : Bool} {r : List Byte}

theorem credWrite_of_noBudget (h : flashSpend s = none) : credWrite s vf r = (s, 0x0910) :=
  if_pos (by rw [h]; rfl)

/-- The record's key under the device's own. -/
def credKey (r : List Byte) : Option Bytes :=
  Config.aesUnwrap (Config.kmac256 (Config.decap (slice r 0x50 1568)) (slice r 0x10 64) 32 (ascii "VZS2-CRED")) (slice r 0x670 40)

/-- What a record that passes leaves in its slot. -/
def credPut (s1 : State) (r : List Byte) (c : Cred) : State :=
  pset { s1 with flash := { s1.flash with creds := tset (fun _ => {}) s1.flash.creds (field r 4 1) c, credSeq := some (field r 8 4) } } P.credResult 0

variable {s1 : State} (hs : flashSpend s = some s1)
include hs

theorem budget_left : ¬ (flashSpend s).isNone = true := by
  rw [hs]
  exact Bool.false_ne_true

theorem credWrite_of_malformed (hform : credOk r = false) : credWrite s vf r = credRefused s 0x0701 :=
  (if_neg (budget_left hs)).trans (if_pos (by rw [hform]; rfl))

variable (hform : credOk r = true)
include hform

theorem credWrite_of_vf (hvf : vf = true) : credWrite s vf r = credRefused s 0x0707 :=
  (if_neg (budget_left hs)).trans ((if_neg (passes_of_true hform)).trans (if_pos hvf))

variable (hvf : vf = false)
include hvf

theorem credWrite_of_unsigned (hsig : Config.sigOk (slice (idRecord s) 0xE0 48) (r.take 0x6C0) (slice r 0x6C0 0x3F60) = false) :
    credWrite s vf r = credRefused s 0x0708 :=
  (if_neg (budget_left hs)).trans ((if_neg (passes_of_true hform)).trans ((if_neg (ne_true_of_eq_false hvf)).trans (if_pos (by rw [hsig]; rfl))))

variable (hsig : Config.sigOk (slice (idRecord s) 0xE0 48) (r.take 0x6C0) (slice r 0x6C0 0x3F60) = true)
include hsig

theorem credWrite_of_otherDevice (hid : slice r 0x10 64 ≠ identityDigest s) : credWrite s vf r = credRefused s 0x0709 :=
  (if_neg (budget_left hs)).trans ((if_neg (passes_of_true hform)).trans ((if_neg (ne_true_of_eq_false hvf)).trans
    ((if_neg (passes_of_true hsig)).trans (if_pos hid))))

variable (hid : slice r 0x10 64 = identityDigest s)
include hid

theorem credWrite_of_stale (hfresh : credFresh s (field r 8 4) = false) : credWrite s vf r = credRefused s 0x070A :=
  have hstale : credStale s (field r 8 4) = true := by rw [credStale_eq, hfresh]; rfl
  (if_neg (budget_left hs)).trans ((if_neg (passes_of_true hform)).trans ((if_neg (ne_true_of_eq_false hvf)).trans
    ((if_neg (passes_of_true hsig)).trans ((if_neg (not_not.mpr hid)).trans (if_pos hstale)))))

/-- A record that passes every check revokes its slot, or installs its key there if it unwraps. -/
theorem credWrite_of_passed (hfresh : credFresh s (field r 8 4) = true) : credWrite s vf r =
    if field r 6 1 = 2 then (credPut s1 r {}, 0)
    else match credKey r with
      | none => credRefused (freeNext s) (1 + (Config.freeWord s.freeCtr).toNat % 0xFFFF)
      | some key => (credPut s1 r { used := true, who := field r 5 1, seq := field r 8 4, key := key }, 0) := by
  have hstale : ¬ credStale s (field r 8 4) = true := by rw [credStale_eq, hfresh]; decide
  refine (if_neg (budget_left hs)).trans ((if_neg (passes_of_true hform)).trans ((if_neg (ne_true_of_eq_false hvf)).trans
    ((if_neg (passes_of_true hsig)).trans ((if_neg (not_not.mpr hid)).trans ((if_neg hstale).trans ?_)))))
  rw [hs]
  rfl

end

/-- The slot of a record that passes holds what it brings, its sequence number is the last, and every other slot is as it was. -/
theorem credPut_spec (s1 : State) (r : List Byte) (c : Cred) : tget (fun _ => ({} : Cred)) (credPut s1 r c).flash.creds (field r 4 1) = c ∧
    (credPut s1 r c).flash.credSeq = some (field r 8 4) ∧ pget (credPut s1 r c) P.credResult = 0 ∧
    ∀ n, n ≠ field r 4 1 → tget (fun _ => ({} : Cred)) (credPut s1 r c).flash.creds n = tget (fun _ => ({} : Cred)) s1.flash.creds n :=
  ⟨tget_tset_self _ _ _ _, rfl, pget_pset_self _ _ _, fun _ hn => tget_tset_ne _ _ _ _ _ hn⟩

/-! ### The obligation -/

/-- What a record that passes every check does. -/
theorem credWrite_outcome {s s1 : State} {vf : Bool} {r : List Byte} (hup : dictUp s = true) (hpassed : credWrite s vf r =
    if field r 6 1 = 2 then (credPut s1 r {}, 0)
    else match credKey r with
      | none => credRefused (freeNext s) (1 + (Config.freeWord s.freeCtr).toNat % 0xFFFF)
      | some key => (credPut s1 r { used := true, who := field r 5 1, seq := field r 8 4, key := key }, 0)) :
    (field r 6 1 = 2 → ∃ t, exec (.credRevoke vf r) s = .next t ∧ tget (fun _ => ({} : Cred)) t.flash.creds (field r 4 1) = {} ∧
      t.flash.credSeq = some (field r 8 4) ∧ pget t P.credResult = 0) ∧
    (field r 6 1 = 1 → ∀ k, credKey r = some k → ∃ t, exec (.credInstall vf r) s = .next t ∧
      tget (fun _ => ({} : Cred)) t.flash.creds (field r 4 1) = { used := true, who := field r 5 1, seq := field r 8 4, key := k } ∧
      t.flash.credSeq = some (field r 8 4) ∧ pget t P.credResult = 0 ∧
      (∀ n, n ≠ field r 4 1 → tget (fun _ => ({} : Cred)) t.flash.creds n = tget (fun _ => ({} : Cred)) s1.flash.creds n)) ∧
    (field r 6 1 = 1 → credKey r = none → ∃ t c, exec (.credInstall vf r) s = .next t ∧ c ≠ 0 ∧ pget t P.credResult = c ∧
      pget t P.credFailures = satInc32 (pget s P.credFailures) ∧ t.flash = s.flash) := by
  refine ⟨fun hop => ?_, fun hop k hkey => ?_, fun hop hkey => ?_⟩
  · obtain ⟨hslot, hseq, hresult, -⟩ := credPut_spec s1 r {}
    exact ⟨_, credRevoke_eq hup hop (hpassed.trans (if_pos hop)), hslot, hseq, hresult⟩
  · rw [if_neg (by omega), hkey] at hpassed
    obtain ⟨hslot, hseq, hresult, hothers⟩ := credPut_spec s1 r { used := true, who := field r 5 1, seq := field r 8 4, key := k }
    exact ⟨_, credInstall_eq hup (by omega) hpassed, hslot, hseq, hresult, hothers⟩
  · rw [if_neg (by omega), hkey] at hpassed
    obtain ⟨hresult, hcount, hflash⟩ := credRefused_spec (freeNext s) (1 + (Config.freeWord s.freeCtr).toNat % 0xFFFF)
    exact ⟨_, _, credInstall_eq hup (by omega) hpassed, by omega, hresult, hcount, hflash⟩

/-- Settles O55, by the rows of Table Sec-3 and by the checks of a credential record in their order. -/
theorem firmware : Obligations.Firmware := by
  refine ⟨?_, ?_, ?_, ?_, ?_⟩
  · intro s b e tag cs sz off data hup heid
    refine ⟨congrArg _ (fwQuery_eq hup heid rfl rfl), congrArg _ (fwQuery_eq hup heid rfl rfl), getStatus_of_idle hup heid rfl, getStatus_of_update hup heid rfl,
      fun h => congrArg _ (fwCommand_of_listed hup heid rfl (by rw [h]; decide) rfl),
      fun h => ⟨passComponentTable_of_one hup heid rfl h, passComponentTable_of_other hup heid rfl h⟩,
      fun h => ⟨updateComponent_of_fit hup heid rfl h, updateComponent_of_large hup heid rfl h⟩, fun h3 hlen => ⟨fun hoff hsize => ?_, fun hoff hsize => ?_, fun hle hne hslice => ?_, fun hoff hbad => ?_⟩,
      fun h => congrArg _ (fwCommand_of_listed hup heid rfl (by rw [h]; decide) rfl), fun h => congrArg _ (fwCommand_of_listed hup heid rfl ?_ rfl),
      fun h => congrArg _ (fwCommand_of_listed hup heid rfl ?_ rfl), ?_, ?_, ?_, ?_, ?_, ?_, ?_⟩
    · exact firmwareDataPush_of_next hup heid rfl h3 ⟨hlen, hoff, by omega⟩ (by rw [List.length_append]; omega)
    · obtain ⟨hstate, himage, hslots⟩ := pushEnd_spec (mctpTake s b.val e.val tag.val).1 data
      exact ⟨_, firmwareDataPush_of_last hup heid rfl h3 ⟨hlen, hoff, by omega⟩ (by rw [List.length_append]; omega), hstate, himage, hslots⟩
    · have hpos := List.length_pos_of_ne_nil hne
      exact firmwareDataPush_of_again hup heid rfl h3 (fun hnext => by have := hnext.2.1; omega) ⟨hlen, hle, hslice⟩
    · refine firmwareDataPush_of_bad hup heid rfl h3 (fun hnext => hoff hnext.2.1) ?_
      rintro ⟨-, hle, hslice⟩
      rcases hbad with h | h
      · omega
      · exact h hslice
    · rcases h with h | h | h <;> rw [h] <;> decide
    · simp only [List.mem_cons, List.not_mem_nil, or_false]
      omega
    all_goals
      obtain ⟨hidle, hother⟩ := fwCommand_of_other hup heid rfl
      exact ⟨fun h0 hn => congrArg _ (hidle h0 hn), fun h0 hn => congrArg _ (hother h0 hn)⟩
  · intro s n
    obtain ⟨hstate, hpartial, hwhole⟩ := fwLeave_spec s n
    exact ⟨fwState_fwGo s n, rfl, hstate, hpartial, hwhole⟩
  · intro s
    refine ⟨fun h => if_pos h, fun h4 => ⟨fun hcheck => ?_, fun v hcheck => ⟨fun hlow => ?_, fun hhigh => ?_⟩⟩, fwUpdateTimeout_of_due, fwUpdateTimeout_of_early⟩
    · exact ⟨_, fwVerifyDone_of_unsigned h4 hcheck, fwFailed_spec s 0x070D⟩
    · exact ⟨_, (fwVerifyDone_of_signed h4 hcheck).trans (if_pos hlow), fwFailed_spec s 0x070E⟩
    · exact (fwVerifyDone_of_signed h4 hcheck).trans (if_neg (Nat.not_lt.mpr hhigh))
  · intro s v hup
    refine ⟨fun hlo hhi => ?_, fun h => ?_⟩
    · have hfloor := floorWrite_of_range hlo hhi
      exact ⟨fwRaiseFloor_eq hup hfloor, hfloor⟩
    · have hfloor := floorWrite_of_outside h
      exact ⟨fwRaiseFloor_eq hup hfloor, hfloor⟩
  · intro s vf r hup
    refine ⟨fun hop => if_neg (fun h => h.2 hop), fun hop => if_neg (fun h => hop h.2), fun hs => credRuns hup (credWrite_of_noBudget hs), fun s1 hs => ?_⟩
    exact ⟨fun hform => credRuns hup (credWrite_of_malformed hs hform), fun hform hvf => credRuns hup (credWrite_of_vf hs hform hvf),
      fun hform hvf hsig => credRuns hup (credWrite_of_unsigned hs hform hvf hsig),
      fun hform hvf hsig hid => credRuns hup (credWrite_of_otherDevice hs hform hvf hsig hid),
      fun hform hvf hsig hid hfresh => credRuns hup (credWrite_of_stale hs hform hvf hsig hid hfresh),
      fun hform hvf hsig hid hfresh => credWrite_outcome hup (credWrite_of_passed hs hform hvf hsig hid hfresh)⟩

end Sys2Proof
end


section
/-! O56, its first half: evidence and operator debug (18 R584, R585, R590 to R592, Table Sec-8). -/
namespace Sys2Proof
open Sys2Proof.Machine

/-! ### Evidence -/

section
variable {s : State} {k : Nat} {b : List Byte}

/-- A session's scope reaches every slot that a request names. -/
def evidenceReach (s : State) (k : Nat) (b : List Byte) : Prop := ∀ i, i < 32 → bitOf (field b 32 4) i = true → sessScope s (sessOf s k) i = true

/-- The session has evidence or waits for it, or sixteen sessions do. -/
def evidenceHeld (s : State) (k : Nat) : Prop :=
  (sessOf s k).signing = true ∨ (sessOf s k).evidence ≠ [] ∨ 16 ≤ s.sessions.countP (fun e => e.2.signing || e.2.evidence != [])

theorem outOfReach_iff (s : State) (k : Nat) (b : List Byte) :
    (List.range 32).any (fun i => bitOf (field b 32 4) i && !sessScope s (sessOf s k) i) = true ↔ ¬ evidenceReach s k b := by
  unfold evidenceReach
  simp only [List.any_eq_true, List.mem_range, Bool.and_eq_true, Bool.not_eq_true', not_forall, Bool.not_eq_true, exists_prop]

theorem evidenceWrite_of_unreached (hlen : b.length = 40) (h : ¬ evidenceReach s k b) : evidenceWrite s k b = (s, 0x0909) :=
  (if_neg (not_not.mpr hlen)).trans (if_pos ((outOfReach_iff s k b).mpr h))

theorem evidenceWrite_of_reserved (hlen : b.length = 40) (hreach : evidenceReach s k b) (h : field b 36 4 ≠ 0) : evidenceWrite s k b = (s, 0x090C) :=
  (if_neg (not_not.mpr hlen)).trans ((if_neg fun hr => (outOfReach_iff s k b).mp hr hreach).trans (if_pos h))

theorem evidenceWrite_of_held (hlen : b.length = 40) (hreach : evidenceReach s k b) (h0 : field b 36 4 = 0) (h : evidenceHeld s k) :
    evidenceWrite s k b = (s, 0x070B) :=
  (if_neg (not_not.mpr hlen)).trans ((if_neg fun hr => (outOfReach_iff s k b).mp hr hreach).trans ((if_neg (not_not.mpr h0)).trans (if_pos h)))

/-- A session that begins to sign what a request asks for. -/
def evidenceBegun (s : State) (k : Nat) (b : List Byte) : State :=
  sessPut s k { sessOf s k with signing := true, evNonce := b.take 32, evMask := field b 32 4, evResult := 0x070B }

theorem evidenceWrite_of_free (hlen : b.length = 40) (hreach : evidenceReach s k b) (h0 : field b 36 4 = 0) (h : ¬ evidenceHeld s k) :
    evidenceWrite s k b = (evidenceBegun s k b, 0) :=
  (if_neg (not_not.mpr hlen)).trans ((if_neg fun hr => (outOfReach_iff s k b).mp hr hreach).trans ((if_neg (not_not.mpr h0)).trans (if_neg h)))

theorem evidenceReq_of_closed {r : SessionRef} (h : ¬ ((sessOf s (sessKey r)).st ≠ .closed ∧ (sessOf s (sessKey r)).st ≠ .challenged)) :
    exec (.evidenceReq r b) s = .next s :=
  if_neg fun hopen => h hopen.2

theorem evidenceReq_of_open {r : SessionRef} (hup : dictUp s = true) (h : (sessOf s (sessKey r)).st ≠ .closed ∧ (sessOf s (sessKey r)).st ≠ .challenged)
    {x : State × Nat} (hx : evidenceWrite s (sessKey r) b = x) : exec (.evidenceReq r b) s = .next x.1 :=
  (if_pos ⟨hup, h⟩).trans (by rw [hx])

/-- A session that holds the signed evidence. -/
def evidenceHolding (s : State) (x : Session) : Session :=
  { x with signing := false, evResult := 0, evidence := evidenceBody s x ++ padTo 16224 (Config.sign 0 (evidenceBody s x)) }

theorem evidenceSigned_of_signing {r : SessionRef} (h : (sessOf s (sessKey r)).signing = true) : exec (.evidenceSigned r) s =
    .next (pinc (sessPut s (sessKey r) (evidenceHolding s (sessOf s (sessKey r)))) P.evidenceSigned) :=
  if_pos h

end

/-! ### The seats of a debug session -/

/-- The seats in one mode are put into another. -/
def seatTurn (m : SeatMode) (f : State → Seat → Seat) (s : State) (i : Nat) : State :=
  if (seatOf s i).mode = m then seatPut s i (f s (seatOf s i)) else s

section
variable {m : SeatMode} {f : State → Seat → Seat}

theorem seatTurn_eq (s : State) (i : Nat) : seatTurn m f s i = { s with seats := (seatTurn m f s i).seats } := by
  unfold seatTurn
  split <;> rfl

theorem seatTurn_foldl_eq (l : List Nat) (s : State) : l.foldl (seatTurn m f) s = { s with seats := (l.foldl (seatTurn m f) s).seats } := by
  induction l generalizing s with
  | nil => rfl
  | cons i l ih =>
    rw [List.foldl_cons]
    refine (ih _).trans ?_
    rw [seatTurn_eq s i]

theorem seatOf_seatTurn_self (s : State) (i : Nat) :
    seatOf (seatTurn m f s i) i = if (seatOf s i).mode = m then f s (seatOf s i) else seatOf s i := by
  unfold seatTurn
  split
  · exact seatOf_seatPut_self _ _ _
  · rfl

theorem seatOf_seatTurn_ne (s : State) {i j : Nat} (h : j ≠ i) : seatOf (seatTurn m f s i) j = seatOf s j := by
  unfold seatTurn
  split
  · exact seatOf_seatPut_ne _ _ _ _ h
  · rfl

/-- Of a list of seats exactly those in the mode turn, each once; what a seat turns to depends on the time alone. -/
theorem seatOf_seatTurn_foldl (hmode : ∀ s x, (f s x).mode ≠ m) (htime : ∀ s t : State, t.tb = s.tb → f t = f s) (l : List Nat) (s : State) (j : Nat) :
    seatOf (l.foldl (seatTurn m f) s) j = if j ∈ l ∧ (seatOf s j).mode = m then f s (seatOf s j) else seatOf s j := by
  induction l generalizing s with
  | nil => simp
  | cons i l ih =>
    have hf : f (seatTurn m f s i) = f s := htime _ _ (by rw [seatTurn_eq])
    rw [List.foldl_cons, ih, hf]
    by_cases hj : j = i
    · subst hj
      rw [seatOf_seatTurn_self]
      by_cases hm : (seatOf s j).mode = m
      · simp [hm, hmode]
      · simp [hm]
    · simp [seatOf_seatTurn_ne s hj, hj]

end

/-- A seat that halts, and one that goes on. -/
def halted (s : State) (t : Seat) : Seat := { t with mode := .halted, core := coreHalt s t.core }
def resumed (s : State) (t : Seat) : Seat := { t with mode := .run, core := coreResume s t.core }

theorem seatsHalt_eq_foldl (s : State) (n : Nat) : seatsHalt s n = (shellOf s n).rig.seats.foldl (seatTurn .run halted) s := rfl

theorem seatsResume_eq_foldl (s : State) (n : Nat) : seatsResume s n = (shellOf s n).rig.seats.foldl (seatTurn .halted resumed) s := rfl

theorem halted_time (s t : State) (h : t.tb = s.tb) : halted t = halted s := by
  unfold halted coreHalt
  rw [h]

theorem resumed_time (s t : State) (h : t.tb = s.tb) : resumed t = resumed s := by
  unfold resumed coreResume
  rw [h]

theorem seatOf_seatsHalt (s : State) (n i : Nat) : seatOf (seatsHalt s n) i =
    if i ∈ (shellOf s n).rig.seats ∧ (seatOf s i).mode = .run then halted s (seatOf s i) else seatOf s i := by
  rw [seatsHalt_eq_foldl]
  exact seatOf_seatTurn_foldl (fun _ _ => by simp [halted]) halted_time _ s i

theorem seatOf_seatsResume (s : State) (n i : Nat) : seatOf (seatsResume s n) i =
    if i ∈ (shellOf s n).rig.seats ∧ (seatOf s i).mode = .halted then resumed s (seatOf s i) else seatOf s i := by
  rw [seatsResume_eq_foldl]
  exact seatOf_seatTurn_foldl (fun _ _ => by simp [resumed]) resumed_time _ s i

theorem seatsHalt_eq (s : State) (n : Nat) : seatsHalt s n = { s with seats := (seatsHalt s n).seats } := by
  rw [seatsHalt_eq_foldl]
  exact seatTurn_foldl_eq _ s

theorem seatsResume_eq (s : State) (n : Nat) : seatsResume s n = { s with seats := (seatsResume s n).seats } := by
  rw [seatsResume_eq_foldl]
  exact seatTurn_foldl_eq _ s

/-! ### Debug sessions -/

section
variable {s : State} {n : Nat}

/-- The writes of DEBUG_CTL that Table Sec-8 lists in the session's state. -/
def debugListed (s : State) (n v : Nat) : Prop :=
  (v = 1 ∧ pget s (P.debugState n) = 0) ∨ (v = 2 ∧ pget s (P.debugState n) = 1) ∨ (v = 3 ∧ pget s (P.debugState n) = 2) ∨
    (v = 4 ∧ (pget s (P.debugState n) = 1 ∨ pget s (P.debugState n) = 2))

theorem debugCtl_eq (hup : dictUp s = true) {i : Instr} {v : Nat} {x : State × Nat} (h : debugWrite s n v = x)
    (hi : exec i s = if dictUp s then .next (debugWrite s n v).1 else .next s) : exec i s = .next x.1 := by
  rw [hi, if_pos hup, h]

theorem debugWrite_of_unlisted {v : Nat} (h : (shellOf s n).st = .free ∨ ¬ debugListed s n v) : debugWrite s n v = (s, 0x070C) := by
  by_cases hfree : (shellOf s n).st = .free
  · exact if_pos hfree
  · have hrows := h.resolve_left hfree
    unfold debugListed at hrows
    simp only [not_or] at hrows
    obtain ⟨h1, h2, h3, h4⟩ := hrows
    exact (if_neg hfree).trans ((if_neg h1).trans ((if_neg h2).trans ((if_neg h3).trans (if_neg h4))))

variable (hfree : (shellOf s n).st ≠ .free)
include hfree

/-- A session that opens: the keys of the shell are erased. -/
def debugOpened (s : State) (n : Nat) : State :=
  wkeysErase (pset (pset (shellPut s n { shellOf s n with debugOpen := true }) (P.debugSeen n) 1) (P.debugState n) 1) n

theorem debugWrite_open (h : pget s (P.debugState n) = 0) :
    debugWrite s n 1 = (pinc (wakeAppend (debugOpened s n) n (debugWake (debugOpened s n) n)) P.debugOpens, 0) :=
  (if_neg hfree).trans (if_pos ⟨rfl, h⟩)

theorem debugWrite_halt (h : pget s (P.debugState n) = 1) : debugWrite s n 2 = (pset (seatsHalt s n) (P.debugState n) 2, 0) :=
  (if_neg hfree).trans ((if_neg (by omega)).trans (if_pos ⟨rfl, h⟩))

theorem debugWrite_resume (h : pget s (P.debugState n) = 2) : debugWrite s n 3 = (pset (seatsResume s n) (P.debugState n) 1, 0) :=
  (if_neg hfree).trans ((if_neg (by omega)).trans ((if_neg (by omega)).trans (if_pos ⟨rfl, h⟩)))

/-- A session that closes, before its seats go on, and before its record. -/
def debugCleared (s : State) (n : Nat) : State := pset (shellPut s n { shellOf s n with debugOpen := false }) (P.debugState n) 0
def debugClosed (s : State) (n : Nat) : State := seatsResume (debugCleared s n) n

theorem debugWrite_close (h : pget s (P.debugState n) = 1 ∨ pget s (P.debugState n) = 2) :
    debugWrite s n 4 = (wakeAppend (debugClosed s n) n (debugWake (debugClosed s n) n), 0) :=
  (if_neg hfree).trans ((if_neg (by omega)).trans ((if_neg (by omega)).trans ((if_neg (by omega)).trans (if_pos ⟨rfl, h⟩))))

end

/-- A record joins the others of its chain that wait. -/
theorem pending_wakeAppend_self (s : State) (n : Nat) (r : WakeRec) : (wakeOf (wakeAppend s n r) n).pending = (wakeOf s n).pending ++ [r] :=
  congrArg WakeSt.pending (wakeOf_wakePut_self s n _)

@[simp] theorem pget_wakeAppend (s : State) (n : Nat) (r : WakeRec) (k : Nat) : pget (wakeAppend s n r) k = pget s k := rfl

theorem pget_debugOpened (s : State) (n k : Nat) : pget (debugOpened s n) k = pget (pset (pset s (P.debugSeen n) 1) (P.debugState n) 1) k := rfl

theorem wakeOf_debugOpened (s : State) (n m : Nat) : wakeOf (debugOpened s n) m = wakeOf s m := rfl

theorem debugOpen_debugOpened (s : State) (n : Nat) : (shellOf (debugOpened s n) n).debugOpen = true :=
  congrArg Shell.debugOpen (shellOf_shellPut_self s n { shellOf s n with debugOpen := true })

theorem debugSeen_ne_debugState (n : Nat) : P.debugSeen n ≠ P.debugState n := by
  simp only [P.debugSeen, P.debugState, pkey]
  omega

theorem debugState_ne_debugOpens {n : Nat} (hn : n < 32) : P.debugState n ≠ P.debugOpens := by
  simp only [P.debugState, P.debugOpens, pkey]
  omega

theorem debugSeen_ne_debugOpens {n : Nat} (hn : n < 32) : P.debugSeen n ≠ P.debugOpens := by
  simp only [P.debugSeen, P.debugOpens, pkey]
  omega

theorem debugOpened_tb (s : State) (n : Nat) : (debugOpened s n).tb = s.tb := rfl

theorem debugOpened_seats (s : State) (n : Nat) : (debugOpened s n).seats = s.seats := rfl

theorem debugOpened_ctxs (s : State) (n : Nat) : (debugOpened s n).ctxs = (wkeysErase s n).ctxs := rfl

theorem debugWake_kind (s : State) (n : Nat) : (debugWake s n).kind = 5 := rfl

theorem debugWake_tb (s : State) (n : Nat) : (debugWake s n).tb = s.tb := rfl

/-- A record that is added and counted leaves the rest of the state. -/
theorem counted_wakeAppend (s : State) (n k : Nat) (r : WakeRec) : (pinc (wakeAppend s n r) k).seats = s.seats ∧ (pinc (wakeAppend s n r) k).ctxs = s.ctxs ∧
    (pinc (wakeAppend s n r) k).shells = s.shells ∧ (wakeOf (pinc (wakeAppend s n r) k) n).pending = (wakeOf s n).pending ++ [r] :=
  ⟨rfl, rfl, rfl, pending_wakeAppend_self s n r⟩

/-- What an opened session leaves: its record waits. -/
theorem debugWrite_open_spec {s : State} {n : Nat} (hn : n < 32) (hfree : (shellOf s n).st ≠ .free) (h : pget s (P.debugState n) = 0) :
    ∃ t, debugWrite s n 1 = (t, 0) ∧ pget t (P.debugState n) = 1 ∧ pget t (P.debugSeen n) = 1 ∧ pget t P.debugOpens = satInc32 (pget s P.debugOpens) ∧
      (shellOf t n).debugOpen = true ∧ (∃ w, (wakeOf t n).pending = (wakeOf s n).pending ++ [w] ∧ w.kind = 5 ∧ w.tb = s.tb) ∧ t.seats = s.seats ∧
      t.ctxs = (wkeysErase s n).ctxs := by
  obtain ⟨hseats, hctxs, hshells, hpending⟩ := counted_wakeAppend (debugOpened s n) n P.debugOpens (debugWake (debugOpened s n) n)
  refine ⟨_, debugWrite_open hfree h, ?_, ?_, ?_, ?_, ⟨_, hpending.trans (by rw [wakeOf_debugOpened]), debugWake_kind _ n, (debugWake_tb _ n).trans (debugOpened_tb s n)⟩,
    hseats.trans (debugOpened_seats s n), hctxs.trans (debugOpened_ctxs s n)⟩
  · rw [pget_pinc_ne _ _ _ (debugState_ne_debugOpens hn), pget_wakeAppend, pget_debugOpened, pget_pset_self]
  · rw [pget_pinc_ne _ _ _ (debugSeen_ne_debugOpens hn), pget_wakeAppend, pget_debugOpened, pget_pset_ne _ _ _ _ (debugSeen_ne_debugState n), pget_pset_self]
  · rw [pget_pinc_self, pget_wakeAppend, pget_debugOpened, pget_pset_ne _ _ _ _ (debugState_ne_debugOpens hn).symm,
      pget_pset_ne _ _ _ _ (debugSeen_ne_debugOpens hn).symm]
  · unfold shellOf
    rw [hshells]
    exact debugOpen_debugOpened s n

theorem seatsHalt_shells (s : State) (n : Nat) : (seatsHalt s n).shells = s.shells := by rw [seatsHalt_eq]

theorem seatsResume_shells (s : State) (n : Nat) : (seatsResume s n).shells = s.shells := by rw [seatsResume_eq]

theorem seatsResume_wake (s : State) (n : Nat) : (seatsResume s n).wake = s.wake := by rw [seatsResume_eq]

theorem seatsResume_regs (s : State) (n : Nat) : (seatsResume s n).regs = s.regs := by rw [seatsResume_eq]

theorem debugWrite_halt_spec {s : State} {n : Nat} (hfree : (shellOf s n).st ≠ .free) (h : pget s (P.debugState n) = 1) :
    ∃ t, debugWrite s n 2 = (t, 0) ∧ pget t (P.debugState n) = 2 ∧ t.shells = s.shells ∧
      ∀ i, seatOf t i = if i ∈ (shellOf s n).rig.seats ∧ (seatOf s i).mode = .run then halted s (seatOf s i) else seatOf s i :=
  ⟨_, debugWrite_halt hfree h, pget_pset_self _ _ _, seatsHalt_shells s n, fun i => seatOf_seatsHalt s n i⟩

theorem debugWrite_resume_spec {s : State} {n : Nat} (hfree : (shellOf s n).st ≠ .free) (h : pget s (P.debugState n) = 2) :
    ∃ t, debugWrite s n 3 = (t, 0) ∧ pget t (P.debugState n) = 1 ∧ t.shells = s.shells ∧
      ∀ i, seatOf t i = if i ∈ (shellOf s n).rig.seats ∧ (seatOf s i).mode = .halted then resumed s (seatOf s i) else seatOf s i :=
  ⟨_, debugWrite_resume hfree h, pget_pset_self _ _ _, seatsResume_shells s n, fun i => seatOf_seatsResume s n i⟩

/-- What a closed session leaves: its seats go on and its record waits; DEBUG_SEEN stays. -/
theorem debugWrite_close_spec {s : State} {n : Nat} (hfree : (shellOf s n).st ≠ .free) (h : pget s (P.debugState n) = 1 ∨ pget s (P.debugState n) = 2) :
    ∃ t, debugWrite s n 4 = (t, 0) ∧ pget t (P.debugState n) = 0 ∧ pget t (P.debugSeen n) = pget s (P.debugSeen n) ∧ (shellOf t n).debugOpen = false ∧
      (∃ w, (wakeOf t n).pending = (wakeOf s n).pending ++ [w] ∧ w.kind = 5) ∧
      ∀ i, seatOf t i = if i ∈ (shellOf s n).rig.seats ∧ (seatOf s i).mode = .halted then resumed s (seatOf s i) else seatOf s i := by
  have hregs : ∀ k, pget (debugClosed s n) k = pget (pset s (P.debugState n) 0) k := fun k => by
    unfold debugClosed pget
    rw [seatsResume_regs]
    rfl
  have hpending : (wakeOf (debugClosed s n) n).pending = (wakeOf s n).pending := by
    unfold debugClosed wakeOf
    rw [seatsResume_wake]
    rfl
  have hshell : (shellOf (debugClosed s n) n).debugOpen = false := by
    unfold debugClosed shellOf
    rw [seatsResume_shells]
    exact congrArg Shell.debugOpen (shellOf_shellPut_self s n { shellOf s n with debugOpen := false })
  have hcleared : (shellOf (debugCleared s n) n).rig.seats = (shellOf s n).rig.seats :=
    congrArg (fun x => x.rig.seats) (shellOf_shellPut_self s n { shellOf s n with debugOpen := false })
  refine ⟨_, debugWrite_close hfree h, ?_, ?_, hshell, ⟨debugWake (debugClosed s n) n, ?_, debugWake_kind _ n⟩, fun i => ?_⟩
  · rw [pget_wakeAppend, hregs, pget_pset_self]
  · rw [pget_wakeAppend, hregs, pget_pset_ne _ _ _ _ (debugSeen_ne_debugState n)]
  · rw [pending_wakeAppend_self, hpending]
  · have hclosed := seatOf_seatsResume (debugCleared s n) n i
    rw [hcleared, resumed_time s (debugCleared s n) rfl] at hclosed
    exact hclosed

/-! ### The keys of a shell -/

/-- What the erasure of a shell's keys leaves in one slot. -/
def wkeyErased (slot : Nat) (w : Nat × WkeySlot) : Option (Nat × WkeySlot) :=
  if w.2.shell ≠ slot ∨ w.2.key = [] then some w else if w.2.st = .loading then some (w.1, { st := .loading, blob := w.2.blob }) else none

/-- What it leaves of a context. -/
def ctxErased (slot : Nat) (c : Ctx) : Ctx := { c with wkeys := c.wkeys.filterMap (wkeyErased slot) }

theorem wkeysErase_ctxs (s : State) (slot : Nat) : (wkeysErase s slot).ctxs = s.ctxs.map (fun e => (e.1, ctxErased slot e.2)) := rfl

theorem wkeys_wkeysErase (s : State) (slot cid : Nat) : (ctxOf (wkeysErase s slot) cid).wkeys = (ctxOf s cid).wkeys.filterMap (wkeyErased slot) := by
  unfold ctxOf tget
  rw [wkeysErase_ctxs, tfind_map_by_key (fun _ c => ctxErased slot c)]
  cases tfind s.ctxs cid <;> rfl

/-- The entry found first in a table stays the first when others go or change under their own keys. -/
theorem tfind_filterMap_of_kept {α : Type} {f : Nat × α → Option (Nat × α)} (hkey : ∀ e x, f e = some x → x.1 = e.1) {t : Tbl α} {k : Nat} {v : α}
    (h : tfind t k = some v) (hkept : f (k, v) = some (k, v)) : tfind (t.filterMap f) k = some v := by
  induction t with
  | nil => exact absurd h (by simp [tfind])
  | cons e t ih =>
    obtain ⟨j, w⟩ := e
    by_cases hj : j = k
    · subst hj
      obtain rfl : w = v := by simpa [tfind] using h
      rw [List.filterMap_cons, hkept]
      simp [tfind]
    · have hrest := ih (by simpa [tfind, hj] using h)
      rw [List.filterMap_cons]
      cases hf : f (j, w) with
      | none => exact hrest
      | some x =>
        have hx : x.1 ≠ k := by rw [hkey _ _ hf]; exact hj
        obtain ⟨i, y⟩ := x
        simpa [tfind, hx] using hrest

theorem tfind_filterMap_of_none {α : Type} {f : Nat × α → Option (Nat × α)} (hkey : ∀ e x, f e = some x → x.1 = e.1) {t : Tbl α} {k : Nat}
    (h : tfind t k = none) : tfind (t.filterMap f) k = none := by
  induction t with
  | nil => rfl
  | cons e t ih =>
    obtain ⟨j, w⟩ := e
    have hj : j ≠ k := fun hj => by simp [tfind, hj] at h
    have hrest := ih (by simpa [tfind, hj] using h)
    rw [List.filterMap_cons]
    cases hf : f (j, w) with
    | none => exact hrest
    | some x =>
      have hx : x.1 ≠ k := by rw [hkey _ _ hf]; exact hj
      obtain ⟨i, y⟩ := x
      simpa [tfind, hx] using hrest

theorem key_wkeyErased {slot : Nat} {e x : Nat × WkeySlot} (h : wkeyErased slot e = some x) : x.1 = e.1 := by
  unfold wkeyErased at h
  split at h
  · obtain rfl := Option.some.inj h
    rfl
  · split at h
    · obtain rfl := Option.some.inj h
      rfl
    · exact absurd h (by simp)

/-- A key that names another shell stays. -/
theorem tget_wkeysErase_of_other (s : State) {slot cid n : Nat} (h : (tget (fun _ => ({} : WkeySlot)) (ctxOf s cid).wkeys n).shell ≠ slot) :
    tget (fun _ => ({} : WkeySlot)) (ctxOf (wkeysErase s slot) cid).wkeys n = tget (fun _ => ({} : WkeySlot)) (ctxOf s cid).wkeys n := by
  rw [wkeys_wkeysErase]
  unfold tget at h ⊢
  cases hf : tfind (ctxOf s cid).wkeys n with
  | none => rw [tfind_filterMap_of_none (fun _ _ => key_wkeyErased) hf]
  | some v =>
    rw [hf] at h
    rw [tfind_filterMap_of_kept (fun _ _ => key_wkeyErased) hf (if_pos (.inl h))]

/-- None that names the shell keeps its key. -/
theorem key_of_mem_wkeysErase {s : State} {slot cid : Nat} {e : Nat × WkeySlot} (he : e ∈ (ctxOf (wkeysErase s slot) cid).wkeys) (hslot : e.2.shell = slot) :
    e.2.key = [] := by
  rw [wkeys_wkeysErase, List.mem_filterMap] at he
  obtain ⟨w, -, hw⟩ := he
  unfold wkeyErased at hw
  split at hw
  next hkept =>
    obtain rfl := Option.some.inj hw
    exact hkept.resolve_left (not_not.mpr hslot)
  next =>
    split at hw
    · obtain rfl := Option.some.inj hw
      rfl
    · exact absurd hw (by simp)

end Sys2Proof
end


section
/-! O56, its middle: the operator's reads and writes of DBG_DATA (18 R591, 13 R450). -/
namespace Sys2Proof
open Sys2Proof.Machine

section
variable {s : State} {n : Nat}

/-- What DBG_ADDR names. -/
def dbgNamed (s : State) (n : Nat) : DbgTarget := dbgTarget s n (pget s (P.dbgAddr n))

theorem dbgRead_of_closed (h : pget s (P.debugState n) = 0) : dbgRead s n = ([], 0x070C) := if_pos h

theorem dbgWrite_of_closed (h : pget s (P.debugState n) = 0) (d : List Byte) : dbgWrite s n d = (s, 0x070C) := if_pos h

variable (hst : pget s (P.debugState n) ≠ 0)
include hst

theorem dbgRead_of_none (ht : dbgNamed s n = .none) : dbgRead s n = ([], 0x0701) := by
  refine (if_neg hst).trans ?_
  rw [show dbgTarget s n (pget s (P.dbgAddr n)) = .none from ht]

theorem dbgWrite_of_none (ht : dbgNamed s n = .none) (d : List Byte) : dbgWrite s n d = (s, 0x0701) := by
  refine (if_neg hst).trans ?_
  rw [show dbgTarget s n (pget s (P.dbgAddr n)) = .none from ht]

theorem dbgRead_of_own {l off room st : Nat} {b : Bytes} (ht : dbgNamed s n = .scratch l off room) (hl : l < (shellOf s n).rig.seats.length)
    (hread : lseatRead s n (shellOf s n).windows l off (min 4096 room) = some (st, b)) :
    dbgRead s n = dbgAnswer (if st = stOk then some b else none) := by
  refine (if_neg hst).trans ?_
  rw [show dbgTarget s n (pget s (P.dbgAddr n)) = .scratch l off room from ht]
  refine (if_neg (Nat.not_le.mpr hl)).trans ?_
  rw [hread]

theorem dbgRead_of_leased {l off room : Nat} (ht : dbgNamed s n = .scratch l off room) (hl : (shellOf s n).rig.seats.length ≤ l) :
    dbgRead s n = ((List.range (min 4096 room)).map (fun i => Config.freeByte (s.freeCtr * 4096 + i)), 0) := by
  refine (if_neg hst).trans ?_
  rw [show dbgTarget s n (pget s (P.dbgAddr n)) = .scratch l off room from ht]
  exact if_pos hl

theorem dbgRead_of_chan {a room st : Nat} {b : Bytes} {o : Outside} (ht : dbgNamed s n = .chan a room)
    (hread : placeRead s (placeChannel s 2352 (some n) a (min 4096 room)) (min 4096 room) {} = (st, b, o)) :
    dbgRead s n = dbgAnswer (if st = stOk ∧ placeAnswers s 2352 (placeChannel s 2352 (some n) a (min 4096 room)) then some b else none) := by
  refine (if_neg hst).trans ?_
  rw [show dbgTarget s n (pget s (P.dbgAddr n)) = .chan a room from ht]
  dsimp only
  rw [hread]

theorem dbgWrite_of_scratch {l off room : Nat} {d : List Byte} (ht : dbgNamed s n = .scratch l off room) (hd : d.length ≤ room) :
    dbgWrite s n d = (lseatWrite s n none .debug l off d, 0) := by
  refine (if_neg hst).trans ?_
  rw [show dbgTarget s n (pget s (P.dbgAddr n)) = .scratch l off room from ht]
  exact if_pos hd

theorem dbgWrite_of_chan {a room : Nat} {d : List Byte} (ht : dbgNamed s n = .chan a room) (hd : d.length ≤ room) :
    dbgWrite s n d = (countRefused (placeWrite s (placeChannel s 2352 (some n) a d.length) d {}).1 (placeWrite s (placeChannel s 2352 (some n) a d.length) d {}).2, 0) := by
  refine (if_neg hst).trans ?_
  rw [show dbgTarget s n (pget s (P.dbgAddr n)) = .chan a room from ht]
  exact if_pos hd

end

theorem dbgMeet_of_scratch {s : State} {n l off room : Nat} (ht : dbgNamed s n = .scratch l off room) : dbgMeet s n = s := by
  unfold dbgMeet
  rw [show dbgTarget s n (pget s (P.dbgAddr n)) = .scratch l off room from ht]

theorem dbgMeet_of_none {s : State} {n : Nat} (ht : dbgNamed s n = .none) : dbgMeet s n = s := by
  unfold dbgMeet
  rw [show dbgTarget s n (pget s (P.dbgAddr n)) = .none from ht]

theorem dbgMeet_of_chan {s : State} {n a room : Nat} (ht : dbgNamed s n = .chan a room) :
    dbgMeet s n = chanMeet s (placeChannel s 2352 (some n) a (min 4096 room)) (min 4096 room) {} := by
  unfold dbgMeet
  rw [show dbgTarget s n (pget s (P.dbgAddr n)) = .chan a room from ht]

/-! ### The commands -/

section
variable {s : State} {ss : U16} {slot : Slot}

/-- An operator's session that is open. -/
def operates (x : Session) : Prop := (x.st = .opened ∨ x.st = .writing ∨ x.st = .reading) ∧ x.who = .operator

/-- The session with the snapshot of a value that was read. -/
def snapped (s : State) (x : Session) (slot : Nat) (b : Bytes) : Session :=
  { x with st := if b.length > 992 then .reading else .opened, rKey := P.dbgData slot, snap := b, tbLast := s.tb, wBytes := [] }

theorem dbgDataRead_of_other (h : ¬ (operates (sessOf s ss.toNat) ∧ pget s (P.debugState slot.val) ≠ 0)) : exec (.dbgDataRead ss slot) s = .next s :=
  if_neg fun hall => h ⟨⟨hall.2.1, hall.2.2.1⟩, hall.2.2.2⟩

variable (hup : dictUp s = true) (hmine : operates (sessOf s ss.toNat)) (hst : pget s (P.debugState slot.val) ≠ 0)
include hup hmine hst

theorem dbgDataRead_of_refused {b : Bytes} {code : Nat} (hread : dbgRead s slot.val = (b, code)) (hcode : code ≠ 0) :
    exec (.dbgDataRead ss slot) s = .next (dbgMeet s slot.val) := by
  change execDbgDataRead ss slot s = _
  unfold execDbgDataRead
  rw [hread]
  exact (if_pos ⟨hup, hmine.1, hmine.2, hst⟩).trans (if_neg hcode)

/-- A read that is answered leaves its bytes with the session, and what it met. -/
theorem dbgDataRead_of_answered {b : Bytes} (hread : dbgRead s slot.val = (b, 0)) : ∃ t, exec (.dbgDataRead ss slot) s = .next t ∧
    t = { freeNext (dbgMeet s slot.val) with sessions := t.sessions } ∧ (sessOf t ss.toNat).snap = b ∧ (sessOf t ss.toNat).rKey = P.dbgData slot.val := by
  have hself := sessOf_sessPut_self (freeNext (dbgMeet s slot.val)) ss.toNat (snapped s (sessOf s ss.toNat) slot.val b)
  refine ⟨sessPut (freeNext (dbgMeet s slot.val)) ss.toNat (snapped s (sessOf s ss.toNat) slot.val b), ?_, rfl, congrArg Session.snap hself, congrArg Session.rKey hself⟩
  change execDbgDataRead ss slot s = _
  unfold execDbgDataRead
  rw [hread]
  exact (if_pos ⟨hup, hmine.1, hmine.2, hst⟩).trans (if_pos rfl)

end

theorem dbgDataWrite_of_length {s : State} {slot : Slot} {d : List Byte} (h : d = [] ∨ 4096 < d.length) : exec (.dbgDataWrite slot d) s = .next s := by
  refine if_neg ?_
  rintro ⟨-, h1, h2⟩
  rcases h with rfl | h
  · simp at h1
  · omega

theorem dbgDataWrite_eq {s : State} {slot : Slot} {d : List Byte} {x : State × Nat} (hup : dictUp s = true) (h1 : 1 ≤ d.length) (h2 : d.length ≤ 4096)
    (h : dbgWrite s slot.val d = x) : exec (.dbgDataWrite slot d) s = .next x.1 :=
  (if_pos ⟨hup, h1, h2⟩).trans (by rw [h])

/-- A write while the session is CLOSED, or to no target, does nothing. -/
theorem dbgDataWrite_of_refused {s : State} {slot : Slot} {d : List Byte} (h : (dbgWrite s slot.val d).1 = s) : exec (.dbgDataWrite slot d) s = .next s := by
  change execDbgDataWrite slot d s = _
  unfold execDbgDataWrite
  rw [h, ite_self]

end Sys2Proof
end


section
/-! O56, its end: the Wake's folds, exports and seals (18 R593 to R599). -/
namespace Sys2Proof
open Sys2Proof.Machine

/-! ### The record that folds next -/

/-- Where a record stands in the order of the folds. -/
theorem wakeBefore_iff (a b : WakeRec) :
    wakeBefore a b = true ↔ a.tb < b.tb ∨ (a.tb = b.tb ∧ (a.kind < b.kind ∨ (a.kind = b.kind ∧ a.seq < b.seq))) := by
  simp [wakeBefore]

theorem wakeBefore_irrefl (a : WakeRec) : wakeBefore a a = false := by
  rw [Bool.eq_false_iff, Ne, wakeBefore_iff]
  omega

/-- What folds before the earlier of two folds before the later. -/
theorem wakeBefore_trans {a b c : WakeRec} (hab : wakeBefore a b = true) (hbc : wakeBefore b c = true) : wakeBefore a c = true := by
  rw [wakeBefore_iff] at *
  omega

theorem not_wakeBefore_trans {a b c : WakeRec} (hab : wakeBefore a b = false) (hbc : wakeBefore b c = false) : wakeBefore a c = false := by
  rw [Bool.eq_false_iff, Ne, wakeBefore_iff] at *
  omega

theorem wakeFirst_eq_none {l : List WakeRec} (h : wakeFirst l = none) : l = [] := by
  cases l with
  | nil => rfl
  | cons r t =>
    simp only [wakeFirst] at h
    split at h
    · exact absurd h (by simp)
    · split at h <;> exact absurd h (by simp)

/-- It is one of those that wait, and none of them folds before it. -/
theorem wakeFirst_spec {l : List WakeRec} {r : WakeRec} (h : wakeFirst l = some r) : r ∈ l ∧ ∀ x ∈ l, wakeBefore x r = false := by
  induction l generalizing r with
  | nil => exact absurd h (by simp [wakeFirst])
  | cons y t ih =>
    simp only [wakeFirst] at h
    cases ht : wakeFirst t with
    | none =>
      rw [ht] at h
      obtain rfl := Option.some.inj h
      rw [wakeFirst_eq_none ht]
      exact ⟨List.mem_singleton_self y, fun x hx => by rw [List.mem_singleton.mp hx]; exact wakeBefore_irrefl y⟩
    | some z =>
      rw [ht] at h
      obtain ⟨hmem, hleast⟩ := ih ht
      dsimp only at h
      split at h
      next hzy =>
        obtain rfl := Option.some.inj h
        refine ⟨List.mem_cons_of_mem y hmem, fun x hx => ?_⟩
        rcases List.mem_cons.mp hx with rfl | hx
        · refine Bool.eq_false_iff.mpr fun hxz => ?_
          exact absurd (wakeBefore_trans hxz hzy) (ne_true_of_eq_false (wakeBefore_irrefl x))
        · exact hleast x hx
      next hzy =>
        obtain rfl := Option.some.inj h
        refine ⟨List.mem_cons_self, fun x hx => ?_⟩
        rcases List.mem_cons.mp hx with rfl | hx
        · exact wakeBefore_irrefl x
        · exact not_wakeBefore_trans (hleast x hx) (Bool.eq_false_iff.mpr hzy)

/-! ### Chains -/

theorem chainOf_congr {s t : State} (hchains : t.retained = s.retained) (hstart : t.start = s.start) (hflash : t.flash = s.flash) (n : Nat) :
    chainOf t n = chainOf s n := by
  unfold chainOf identityDigest idRecord
  rw [hchains, hstart, hflash]

theorem wakeFoldOne_of_some {s : State} {n : Nat} {r : WakeRec} (h : wakeFirst (wakeOf s n).pending = some r) :
    wakeFoldOne s n = { wakePut s n { wakeOf s n with pending := (wakeOf s n).pending.erase r } with
      retained := { s.retained with chains := tins (tdel s.retained.chains n) n (chainFold (chainOf s n) r.word) } } := by
  unfold wakeFoldOne
  dsimp only
  rw [h]
  rfl

theorem chainOf_wakeFoldOne_self {s : State} {n : Nat} {r : WakeRec} (h : wakeFirst (wakeOf s n).pending = some r) :
    chainOf (wakeFoldOne s n) n = chainFold (chainOf s n) r.word := by
  rw [wakeFoldOne_of_some h]
  exact congrArg (Option.getD · _) (tfind_tins_tdel_self s.retained.chains n (chainFold (chainOf s n) r.word))

theorem chainOf_wakeFoldOne_ne {s : State} {n m : Nat} {r : WakeRec} (h : wakeFirst (wakeOf s n).pending = some r) (hm : m ≠ n) :
    chainOf (wakeFoldOne s n) m = chainOf s m := by
  rw [wakeFoldOne_of_some h]
  exact congrArg (Option.getD · _) (tfind_tins_tdel_ne s.retained.chains n (chainFold (chainOf s n) r.word) hm)

theorem wakeOf_wakeFoldOne_self {s : State} {n : Nat} {r : WakeRec} (h : wakeFirst (wakeOf s n).pending = some r) :
    wakeOf (wakeFoldOne s n) n = { wakeOf s n with pending := (wakeOf s n).pending.erase r } := by
  rw [wakeFoldOne_of_some h]
  exact wakeOf_wakePut_self s n _

theorem wakeOf_wakeFoldOne_ne {s : State} {n m : Nat} {r : WakeRec} (h : wakeFirst (wakeOf s n).pending = some r) (hm : m ≠ n) :
    wakeOf (wakeFoldOne s n) m = wakeOf s m := by
  rw [wakeFoldOne_of_some h]
  exact wakeOf_wakePut_ne s n m _ hm

/-! ### Exports -/

section
variable {s t : State} {base log2 head tail bytes : Nat} {d : Bytes}

theorem ringExport_of_full (h : pget s base = 0 ∨ 2 ^ pget s log2 ≤ serialDist (pget s head) (pget s tail)) :
    ringExport s base log2 head tail bytes d = none :=
  if_pos (h.imp id .inl)

theorem ringExport_of_room (hbase : pget s base ≠ 0) (hroom : serialDist (pget s head) (pget s tail) < 2 ^ pget s log2) (hentry : s.start.entry = false)
    (hstop : s.start.releasesStopped = false) (hhost : hostWriteFails s 0 (pget s base + bytes * (pget s tail % 2 ^ pget s log2)) = none) :
    ringExport s base log2 head tail bytes d = some (pset (emit s (.hostWrite (pget s base + bytes * (pget s tail % 2 ^ pget s log2)) d)) tail ((pget s tail + 1) % 2 ^ 32)) := by
  refine if_neg ?_
  rw [hentry, hstop, hhost]
  simp only [hbase, Nat.not_le.mpr hroom, Bool.false_eq_true, Option.isSome_none, or_self, not_false_eq_true]

/-- A state without what the sending of a record to its ring writes: what was sent, and the parameters. -/
def outsideExports (s : State) : State := { s with sent := [], regs := [] }

theorem outsideExports_ringExport (h : ringExport s base log2 head tail bytes d = some t) : outsideExports t = outsideExports s := by
  unfold ringExport at h
  dsimp only at h
  split at h
  · exact absurd h (by simp)
  · obtain rfl := Option.some.inj h
    rfl

theorem pget_ringExport (h : ringExport s base log2 head tail bytes d = some t) {k : Nat} (hk : k ≠ tail) : pget t k = pget s k := by
  unfold ringExport at h
  dsimp only at h
  split at h
  · exact absurd h (by simp)
  · obtain rfl := Option.some.inj h
    exact pget_pset_ne _ _ _ _ hk

end

theorem outsideExports_wakeExport (s : State) (n : Nat) (sealing : Bool) (d : Bytes) : outsideExports (wakeExport s n sealing d) = outsideExports s := by
  unfold wakeExport
  dsimp only
  split
  all_goals
    rcases h : ringExport s _ _ _ _ _ _ with _ | t
    · rfl
    · exact outsideExports_ringExport h

/-- The parameters that the sending of a record to its ring writes: the tail of the ring, or the count of what was not sent. -/
theorem pget_wakeExport (s : State) (n : Nat) (sealing : Bool) (d : Bytes) {k : Nat} (hseal : k ≠ P.sealRingTail) (hwake : k ≠ P.wakeRingTail)
    (hcount : k ≠ P.wakeUnexported n) : pget (wakeExport s n sealing d) k = pget s k := by
  unfold wakeExport
  dsimp only
  split
  · rcases h : ringExport s _ _ _ _ _ _ with _ | t
    · exact pget_pinc_ne _ _ _ hcount
    · exact pget_ringExport h hseal
  · rcases h : ringExport s _ _ _ _ _ _ with _ | t
    · exact pget_pinc_ne _ _ _ hcount
    · exact pget_ringExport h hwake

theorem wakeExport_of_noRecordRing {s : State} (h : pget s P.wakeRingBase = 0) (n : Nat) (d : Bytes) :
    wakeExport s n false d = pinc s (P.wakeUnexported n) := by
  have hnone : ringExport s P.wakeRingBase P.wakeRingLog2 P.wakeRingHead P.wakeRingTail 256 d = none := ringExport_of_full (.inl h)
  exact congrArg (Option.getD · _) hnone

theorem wakeExport_of_noSealRing {s : State} (h : pget s P.sealRingBase = 0) (n : Nat) (d : Bytes) :
    wakeExport s n true d = pinc s (P.wakeUnexported n) := by
  have hnone : ringExport s P.sealRingBase P.sealRingLog2 P.sealRingHead P.sealRingTail 17408 (padTo 17408 d) = none := ringExport_of_full (.inl h)
  exact congrArg (Option.getD · _) hnone

/-! ### Seals -/

section
variable {s : State} {n : Nat} {timer : Bool}

/-- The seal of a slot that is triggered. -/
def sealBegun (s : State) (n : Nat) : WakeSt :=
  { wakeOf s n with sealing := true, sealAt := chainOf s n, sealCount := pget s (P.wakeUnexported n), tbSeal := s.tb }

theorem sealTrigger_of_due (h : sealDue s n timer = true) : sealTrigger s n timer = wakePut s n (sealBegun s n) := if_pos h

theorem sealTrigger_of_early (h : sealDue s n timer = false) : sealTrigger s n timer = s := if_neg (ne_true_of_eq_false h)

theorem sealTrigger_eq (s : State) (n : Nat) (timer : Bool) : sealTrigger s n timer = { s with wake := (sealTrigger s n timer).wake } := by
  unfold sealTrigger
  split <;> rfl

/-- A trigger leaves the records that wait, and what the last seal found. -/
theorem wakeOf_sealTrigger_self (s : State) (n : Nat) (timer : Bool) : (wakeOf (sealTrigger s n timer) n).pending = (wakeOf s n).pending ∧
    (wakeOf (sealTrigger s n timer) n).sealPrev = (wakeOf s n).sealPrev ∧ (wakeOf (sealTrigger s n timer) n).seenCount = (wakeOf s n).seenCount := by
  cases h : sealDue s n timer with
  | true =>
    rw [sealTrigger_of_due h, wakeOf_wakePut_self]
    exact ⟨rfl, rfl, rfl⟩
  | false =>
    rw [sealTrigger_of_early h]
    exact ⟨rfl, rfl, rfl⟩

theorem wakeOf_sealTrigger_ne (s : State) (timer : Bool) {m : Nat} (hm : m ≠ n) : wakeOf (sealTrigger s n timer) m = wakeOf s m := by
  cases h : sealDue s n timer with
  | true =>
    rw [sealTrigger_of_due h, wakeOf_wakePut_ne _ _ _ _ hm]
  | false =>
    rw [sealTrigger_of_early h]

/-- The seal of a slot in use is due by the count of its records or, at the timer, by the time. -/
theorem sealDue_of_used (hused : (shellOf s n).st ≠ .free) : sealDue s n timer =
    (!(wakeOf s n).sealing && (decide ((chainOf s n).lastIndex - (wakeOf s n).sealPrev ≥ 65536) || (timer && tbPast s.tb (wakeOf s n).tbSeal 1000000000))) := by
  unfold sealDue
  dsimp only
  rw [if_neg hused]

theorem sealDue_of_free (hfree : (shellOf s n).st = .free) :
    sealDue s n timer = (!(wakeOf s n).sealing && ((wakeOf s n).pending == [] && decide ((chainOf s n).lastIndex - (wakeOf s n).sealPrev > 0))) := by
  unfold sealDue
  dsimp only
  rw [if_pos hfree]

theorem exists_sealStore (s : State) (n : Nat) (c : WakeChain) (tb : Nat) (b : Bytes) : ∃ f, sealStore s n c tb b = { s with flash := f } := by
  unfold sealStore
  dsimp only
  split_ifs
  · cases h : flashSpend s with
    | none => exact ⟨s.flash, rfl⟩
    | some t =>
      obtain ⟨f, rfl⟩ := eq_of_flashSpend h
      exact ⟨_, rfl⟩
  · exact ⟨s.flash, rfl⟩

end

theorem sealTimer_of_open {s : State} {slot : Slot} (h : s.start.msf = true) : exec (.sealTimer slot) s = .next (sealTrigger s slot.val true) := if_pos h

/-- The signed seal leaves its slot's marks at the trigger's. -/
def sealMarked (w : WakeSt) : WakeSt := { w with sealing := false, sealPrev := w.sealAt.lastIndex, seenCount := w.sealCount }

/-- What a seal that is signed leaves before the next is triggered. -/
def sealKept (s : State) (n : Nat) : State :=
  let b := sealBody s n ++ padTo 17088 (Config.sign 1 (sealBody s n))
  wakePut (pinc (sealStore (wakeExport s n true b) n (wakeOf s n).sealAt (wakeOf s n).tbSeal b) P.sealsSigned) n (sealMarked (wakeOf s n))

theorem sealSigned_of_sealing {s : State} {slot : Slot} (h : (wakeOf s slot.val).sealing = true) :
    exec (.sealSigned slot) s = .next (sealTrigger (sealKept s slot.val) slot.val false) :=
  if_pos h

theorem wakeUnexported_ne_sealsSigned {n : Nat} (hn : n < 32) : P.wakeUnexported n ≠ P.sealsSigned := by
  simp only [P.wakeUnexported, P.sealsSigned, pkey]
  omega

theorem pget_sealStore (s : State) (n : Nat) (c : WakeChain) (tb : Nat) (b : Bytes) (k : Nat) : pget (sealStore s n c tb b) k = pget s k := by
  obtain ⟨f, hf⟩ := exists_sealStore s n c tb b
  rw [hf]
  rfl

theorem pget_sealTrigger (s : State) (n : Nat) (timer : Bool) (k : Nat) : pget (sealTrigger s n timer) k = pget s k := by
  rw [sealTrigger_eq]
  rfl

theorem pget_sealKept_signed (s : State) {n : Nat} (hn : n < 32) : pget (sealKept s n) P.sealsSigned = satInc32 (pget s P.sealsSigned) := by
  unfold sealKept
  dsimp only
  rw [pget_of_wakePut, pget_pinc_self, pget_sealStore, pget_wakeExport s n true _ (by decide) (by decide) (wakeUnexported_ne_sealsSigned hn).symm]

theorem pget_sealKept_unexported {s : State} {n : Nat} (hn : n < 32) (h : pget s P.sealRingBase = 0) :
    pget (sealKept s n) (P.wakeUnexported n) = satInc32 (pget s (P.wakeUnexported n)) := by
  unfold sealKept
  dsimp only
  rw [pget_of_wakePut, pget_pinc_ne _ _ _ (wakeUnexported_ne_sealsSigned hn), pget_sealStore, wakeExport_of_noSealRing h, pget_pinc_self]

theorem sent_sealKept {s : State} {n : Nat} (h : pget s P.sealRingBase = 0) : (sealKept s n).sent = s.sent := by
  unfold sealKept
  dsimp only
  obtain ⟨f, hf⟩ := exists_sealStore (wakeExport s n true (sealBody s n ++ padTo 17088 (Config.sign 1 (sealBody s n)))) n (wakeOf s n).sealAt (wakeOf s n).tbSeal
    (sealBody s n ++ padTo 17088 (Config.sign 1 (sealBody s n)))
  rw [hf, wakeExport_of_noSealRing h]
  rfl

theorem wakeOf_sealKept (s : State) (n : Nat) : wakeOf (sealKept s n) n = sealMarked (wakeOf s n) := wakeOf_wakePut_self _ n _

/-! ### A fold -/

/-- The bytes of a record that is folded under the next index of its chain. -/
def foldedBytes (s : State) (n : Nat) (r : WakeRec) : Bytes := leBytes 256 (r.word + ((chainOf s n).lastIndex + 1) * 2 ^ 1952)

/-- What a fold leaves. -/
def folded (s : State) (n : Nat) (r : WakeRec) : State := sealTrigger (wakeExport (wakeFoldOne s n) n false (foldedBytes s n r)) n false

theorem wakeFold_of_none {s : State} {slot : Slot} (h : wakeFirst (wakeOf s slot.val).pending = none) : exec (.wakeFold slot) s = .next s := by
  change execWakeFold slot s = _
  unfold execWakeFold
  rw [h]

theorem wakeFold_of_some {s : State} {slot : Slot} {r : WakeRec} (h : wakeFirst (wakeOf s slot.val).pending = some r) :
    exec (.wakeFold slot) s = .next (folded s slot.val r) := by
  change execWakeFold slot s = _
  unfold execWakeFold
  rw [h]
  rfl

section
variable {s : State} {n : Nat} {r : WakeRec}

theorem chainOf_folded (s : State) (n : Nat) (r : WakeRec) (m : Nat) : chainOf (folded s n r) m = chainOf (wakeFoldOne s n) m := by
  have hexport := outsideExports_wakeExport (wakeFoldOne s n) n false (foldedBytes s n r)
  have hretained := congrArg State.retained hexport
  have hstart := congrArg State.start hexport
  have hflash := congrArg State.flash hexport
  unfold folded
  rw [sealTrigger_eq]
  exact chainOf_congr hretained hstart hflash m

theorem wakeOf_exported (s : State) (n : Nat) (d : Bytes) (m : Nat) : wakeOf (wakeExport s n false d) m = wakeOf s m := by
  have hwake := congrArg State.wake (outsideExports_wakeExport s n false d)
  exact congrArg (fun t => tget _ t m) hwake

theorem pending_folded (h : wakeFirst (wakeOf s n).pending = some r) : (wakeOf (folded s n r) n).pending = (wakeOf s n).pending.erase r := by
  unfold folded
  rw [(wakeOf_sealTrigger_self _ n false).1, wakeOf_exported, wakeOf_wakeFoldOne_self h]

theorem wakeOf_folded_ne (h : wakeFirst (wakeOf s n).pending = some r) {m : Nat} (hm : m ≠ n) : wakeOf (folded s n r) m = wakeOf s m := by
  unfold folded
  rw [wakeOf_sealTrigger_ne _ false hm, wakeOf_exported, wakeOf_wakeFoldOne_ne h hm]

/-- Without a ring the record is counted. -/
theorem folded_of_noRing (h : wakeFirst (wakeOf s n).pending = some r) (hbase : pget s P.wakeRingBase = 0) :
    (folded s n r).sent = s.sent ∧ pget (folded s n r) (P.wakeUnexported n) = satInc32 (pget s (P.wakeUnexported n)) := by
  have hregs : ∀ k, pget (wakeFoldOne s n) k = pget s k := fun k => by rw [wakeFoldOne_of_some h]; rfl
  have hexport : wakeExport (wakeFoldOne s n) n false (foldedBytes s n r) = pinc (wakeFoldOne s n) (P.wakeUnexported n) :=
    wakeExport_of_noRecordRing ((hregs _).trans hbase) n _
  unfold folded
  rw [hexport]
  refine ⟨?_, ?_⟩
  · rw [sealTrigger_eq, wakeFoldOne_of_some h]
    rfl
  · rw [pget_sealTrigger, pget_pinc_self, hregs]

end

/-! ### The obligation -/

/-- The debug commands of a slot, by the value of DEBUG_CTL that they write. -/
theorem debugCtl_refused {s : State} {n v : Nat} {i : Instr} (hup : dictUp s = true) (hi : exec i s = if dictUp s then .next (debugWrite s n v).1 else .next s)
    (h : (shellOf s n).st = .free ∨ ¬ debugListed s n v) : exec i s = .next s ∧ debugWrite s n v = (s, 0x070C) :=
  ⟨debugCtl_eq hup (debugWrite_of_unlisted h) hi, debugWrite_of_unlisted h⟩

theorem debugCtl_done {s : State} {n v : Nat} {i : Instr} {p : State → Prop} (hup : dictUp s = true)
    (hi : exec i s = if dictUp s then .next (debugWrite s n v).1 else .next s) (h : ∃ t, debugWrite s n v = (t, 0) ∧ p t) : ∃ t, exec i s = .next t ∧ p t := by
  obtain ⟨t, hwrite, hp⟩ := h
  exact ⟨t, debugCtl_eq hup hwrite hi, hp⟩

/-- Settles O56, by the checks of evidence, the rows of Table Sec-8, and the steps of a fold and of a seal. -/
theorem evidenceDebugWake : Obligations.EvidenceDebugWake := by
  refine ⟨?_, ?_, ?_, ?_, ?_, ?_, ?_, ?_⟩
  · intro s r b hup
    refine ⟨evidenceReq_of_closed, fun hopen hlen => ⟨fun h => ?_, fun hreach h => ?_, fun hreach h0 h => ?_, fun hreach h0 h => ?_⟩⟩
    · have hwrite := evidenceWrite_of_unreached hlen h
      exact ⟨hwrite, evidenceReq_of_open hup hopen hwrite⟩
    · have hwrite := evidenceWrite_of_reserved hlen hreach h
      exact ⟨hwrite, evidenceReq_of_open hup hopen hwrite⟩
    · have hwrite := evidenceWrite_of_held hlen hreach h0 h
      exact ⟨hwrite, evidenceReq_of_open hup hopen hwrite⟩
    · have hwrite := evidenceWrite_of_free hlen hreach h0 h
      exact ⟨_, evidenceReq_of_open hup hopen hwrite, hwrite, sessOf_sessPut_self _ _ _, fun j hj => sessOf_sessPut_ne _ _ hj, rfl⟩
  · intro s r
    refine ⟨fun h => if_neg (ne_true_of_eq_false h), fun h => ⟨_, evidenceSigned_of_signing h, ?_, ?_, rfl⟩⟩
    · exact sessOf_sessPut_self s _ _
    · exact pget_pinc_self (sessPut s _ _) _
  · intro s slot hup
    refine ⟨fun h => debugCtl_refused hup rfl (h.imp_right ?_), fun h => debugCtl_refused hup rfl (h.imp_right ?_), fun h => debugCtl_refused hup rfl (h.imp_right ?_),
      fun h => debugCtl_refused hup rfl (h.imp_right ?_), fun hfree => ⟨fun h => debugCtl_done hup rfl (debugWrite_open_spec slot.isLt hfree h),
        fun h => debugCtl_done hup rfl (debugWrite_halt_spec hfree h), fun h => debugCtl_done hup rfl (debugWrite_resume_spec hfree h),
        fun h => debugCtl_done hup rfl (debugWrite_close_spec hfree h)⟩⟩
    all_goals
      intro hst
      unfold debugListed
      omega
  · exact fun s slot n cid => ⟨fun w hw hslot => (tget_wkeysErase_of_other s (hw ▸ hslot)).trans hw, fun e he => key_of_mem_wkeysErase he, rfl⟩
  · intro s ss slot d hup
    refine ⟨fun hst => ?_, fun hother => dbgDataRead_of_other fun h => hother h.1, fun hst ht => ?_, fun hst hmine l off room ht => ⟨fun b hl hread => ?_, fun st b hl hread hbad => ?_, fun hl => ?_⟩,
      fun hst hmine a room ht => ⟨fun b o hread hanswers => ?_, fun st b o hread hbad => ?_⟩, fun hst h1 h2 => ⟨fun l off room ht hd => ?_, fun a room ht hd => ?_⟩, dbgDataWrite_of_length⟩
    · have hwrite := dbgWrite_of_closed hst d
      exact ⟨dbgDataRead_of_other fun h => h.2 hst, dbgDataWrite_of_refused (congrArg Prod.fst hwrite), dbgRead_of_closed hst, hwrite⟩
    · have hread := dbgRead_of_none hst ht
      refine ⟨hread, dbgWrite_of_none hst ht d, ?_⟩
      by_cases hmine : operates (sessOf s ss.toNat)
      · exact (dbgDataRead_of_refused hup hmine hst hread (by decide)).trans (by rw [dbgMeet_of_none ht])
      · exact dbgDataRead_of_other fun h => hmine h.1
    · have hbytes : dbgRead s slot.val = (b, 0) := (dbgRead_of_own hst ht hl hread).trans (by rw [if_pos rfl]; rfl)
      obtain ⟨t, hexec, heq, hsnap, hkey⟩ := dbgDataRead_of_answered hup hmine hst hbytes
      rw [dbgMeet_of_scratch ht] at heq
      exact ⟨t, hexec, heq, hsnap, hkey⟩
    · have hcode : dbgRead s slot.val = ([], 0x0701) := (dbgRead_of_own hst ht hl hread).trans (by rw [if_neg hbad]; rfl)
      exact ⟨hcode, (dbgDataRead_of_refused hup hmine hst hcode (by decide)).trans (by rw [dbgMeet_of_scratch ht])⟩
    · obtain ⟨t, hexec, -, hsnap, -⟩ := dbgDataRead_of_answered hup hmine hst (dbgRead_of_leased hst ht hl)
      exact ⟨t, hexec, by rw [hsnap, List.length_map, List.length_range]⟩
    · have hbytes : dbgRead s slot.val = (b, 0) := (dbgRead_of_chan hst ht hread).trans (by rw [if_pos ⟨rfl, hanswers⟩]; rfl)
      obtain ⟨t, hexec, heq, hsnap, hkey⟩ := dbgDataRead_of_answered hup hmine hst hbytes
      rw [dbgMeet_of_chan ht] at heq
      exact ⟨t, hexec, heq, hsnap, hkey⟩
    · have hcode : dbgRead s slot.val = ([], 0x0701) := (dbgRead_of_chan hst ht hread).trans (by rw [if_neg fun h => hbad h.1]; rfl)
      exact (dbgDataRead_of_refused hup hmine hst hcode (by decide)).trans (by rw [dbgMeet_of_chan ht])
    · exact dbgDataWrite_eq hup h1 h2 (dbgWrite_of_scratch hst ht hd)
    · exact dbgDataWrite_eq hup h1 h2 (dbgWrite_of_chan hst ht hd)
  · intro s slot
    refine ⟨wakeFold_of_none, fun r h => ?_⟩
    obtain ⟨hmem, hleast⟩ := wakeFirst_spec h
    have hchain : chainOf (folded s slot.val r) slot.val = chainFold (chainOf s slot.val) r.word := (chainOf_folded s _ r _).trans (chainOf_wakeFoldOne_self h)
    exact ⟨hmem, hleast, _, wakeFold_of_some h, pending_folded h, congrArg WakeChain.lastIndex hchain, congrArg WakeChain.head hchain,
      fun m hm => ⟨(chainOf_folded s _ r m).trans (chainOf_wakeFoldOne_ne h hm), wakeOf_folded_ne h hm⟩, folded_of_noRing h⟩
  · exact fun s base log2 head tail bytes d => ⟨ringExport_of_full, ringExport_of_room⟩
  · intro s slot
    refine ⟨fun h => if_neg (ne_true_of_eq_false h), fun hmsf hused => ⟨fun hearly => ?_, fun hsealing hdue => ?_⟩, fun hmsf hfree hsealing hpending hrecords => ?_,
      fun h => if_neg (ne_true_of_eq_false h), fun hsealing => ?_⟩
    · have hnot : sealDue s slot.val true = false := by
        rw [sealDue_of_used hused]
        rcases hearly with hsealing | ⟨hcount, htime⟩
        · rw [hsealing]
          rfl
        · rw [htime, decide_eq_false (by omega)]
          exact Bool.and_false _
      exact (sealTimer_of_open hmsf).trans (by rw [sealTrigger_of_early hnot])
    · have hseal : sealDue s slot.val true = true := by
        rw [sealDue_of_used hused, hsealing]
        rcases hdue with hcount | htime
        · rw [decide_eq_true hcount]
          rfl
        · rw [htime]
          exact Bool.or_true _
      exact ⟨wakePut s slot.val (sealBegun s slot.val), (sealTimer_of_open hmsf).trans (by rw [sealTrigger_of_due hseal]), wakeOf_wakePut_self s _ _, rfl⟩
    · have hseal : sealDue s slot.val true = true := by
        rw [sealDue_of_free hfree, hsealing, hpending, decide_eq_true (Nat.sub_pos_of_lt hrecords)]
        rfl
      have hself := wakeOf_wakePut_self s slot.val (sealBegun s slot.val)
      exact ⟨_, (sealTimer_of_open hmsf).trans (by rw [sealTrigger_of_due hseal]), congrArg WakeSt.sealing hself, congrArg WakeSt.sealAt hself⟩
    · obtain ⟨-, hprev, hseen⟩ := wakeOf_sealTrigger_self (sealKept s slot.val) slot.val false
      rw [wakeOf_sealKept] at hprev hseen
      refine ⟨_, sealSigned_of_sealing hsealing, hprev, hseen, (pget_sealTrigger _ _ _ _).trans (pget_sealKept_signed s slot.isLt), fun hbase => ⟨?_, ?_⟩⟩
      · rw [sealTrigger_eq]
        exact sent_sealKept hbase
      · exact (pget_sealTrigger _ _ _ _).trans (pget_sealKept_unexported slot.isLt hbase)

end Sys2Proof
end

section
/-! The ports by which messages leave, and what is kept of their answers (14 R469, R478, R479). -/
namespace Sys2Proof
open Sys2Proof.Machine

/-! ### The port of a message -/

/-- A port that is UP with a module. -/
def UpWith (s : State) (p dst : Nat) : Prop := p < 16 ∧ (portOf s p).st = 3 ∧ (portOf s p).peer = dst

/-- Every port that is UP has credit for a message of two units. -/
def HasCredit (s : State) : Prop := ∀ p, (portOf s p).st = 3 → 2 ≤ (portOf s p).credit.getD 5 0

section
variable {s : State} {p dst agent : Nat} {ports : List Nat}

theorem upWith_of_agentPort (h : agentPort s agent dst ports = some p) : UpWith s p dst := by
  have hmem := List.mem_of_getElem? h
  simp only [List.mem_filter, List.mem_range, Bool.and_eq_true, beq_iff_eq] at hmem
  exact ⟨hmem.1, hmem.2.1.2, hmem.2.2⟩

theorem agentPort_eq_none_iff : agentPort s agent dst ports = none ↔ ∀ p, UpWith s p dst → p ∉ ports := by
  have hnone : ∀ l : List Nat, l[agent % l.length]? = none ↔ l = [] := fun l => by
    cases l with
    | nil => simp
    | cons x l => simpa using Nat.le_of_lt_succ (Nat.mod_lt agent l.length.succ_pos)
  refine (hnone _).trans ?_
  simp only [List.filter_eq_nil_iff, List.mem_range, Bool.and_eq_true, beq_iff_eq, List.contains_iff_mem]
  exact ⟨fun h p ⟨hp, hst, hpeer⟩ hmem => h p hp ⟨⟨hmem, hst⟩, hpeer⟩, fun h p hp ⟨⟨hmem, hst⟩, hpeer⟩ => h p ⟨hp, hst, hpeer⟩ hmem⟩

theorem reaches_iff : reaches s dst = true ↔ dst = ownModule s ∨ ∃ p, UpWith s p dst := by
  simp only [reaches, upPorts, Bool.or_eq_true, beq_iff_eq, bne_iff_ne, ne_eq, List.filter_eq_nil_iff, List.mem_range, Bool.and_eq_true, UpWith]
  refine or_congr Iff.rfl ?_
  push Not
  exact ⟨fun ⟨p, hp, hst⟩ => ⟨p, hp, hst⟩, fun ⟨p, hp, hst⟩ => ⟨p, hp, hst⟩⟩

/-- The port toward a module: 16 for the module itself, one that is UP with it, or 17. -/
theorem portToward_cases (s : State) (dst : Nat) :
    (reaches s dst = true ∧ (portToward s dst = 16 ∨ UpWith s (portToward s dst) dst)) ∨ (reaches s dst = false ∧ portToward s dst = 17) := by
  unfold portToward
  split
  next hown => exact .inl ⟨reaches_iff.2 (.inl hown), .inl rfl⟩
  next hown =>
    split
    next p hp =>
      have hup := upWith_of_agentPort hp
      exact .inl ⟨reaches_iff.2 (.inr ⟨p, hup⟩), .inr hup⟩
    next =>
      cases hany : agentPort s 0xFFFF dst (List.range 16) with
      | some p =>
        have hup := upWith_of_agentPort hany
        exact .inl ⟨reaches_iff.2 (.inr ⟨p, hup⟩), .inr hup⟩
      | none =>
        refine .inr ⟨Bool.eq_false_iff.2 fun hreach => ?_, rfl⟩
        obtain hself | ⟨p, hup⟩ := reaches_iff.1 hreach
        · exact hown hself
        · exact agentPort_eq_none_iff.1 hany p hup (List.mem_range.2 hup.1)

theorem portToward_of_reaches (h : reaches s dst = true) : portToward s dst = 16 ∨ UpWith s (portToward s dst) dst := by
  obtain ⟨-, hp⟩ | ⟨hno, -⟩ := portToward_cases s dst
  · exact hp
  · exact absurd h (ne_true_of_eq_false hno)

theorem portToward_of_not_reaches (h : reaches s dst = false) : portToward s dst = 17 := by
  obtain ⟨hyes, -⟩ | ⟨-, hp⟩ := portToward_cases s dst
  · exact absurd hyes (ne_true_of_eq_false h)
  · exact hp

theorem portToward_ne_none (h : reaches s dst = true) : portToward s dst ≠ 17 := by
  obtain heq | ⟨hlt, -⟩ := portToward_of_reaches h
  · omega
  · omega

theorem admPort_of_portToward {m : AdmMsg} {k : Nat} (hopen : m ≠ .chOpen) (hclose : m ≠ .chClose) : admPort s dst m k = portToward s dst :=
  if_neg (by tauto)

/-- The port of a message, unless it is 17, is 16 or a port that is UP. -/
theorem admPort_up {m : AdmMsg} {k : Nat} (h : admPort s dst m k ≠ 17) : admPort s dst m k = 16 ∨ UpWith s (admPort s dst m k) dst := by
  unfold admPort at *
  split at h
  next hch =>
    rw [if_pos hch]
    cases hport : agentPort s 0xFFFF dst (shellOf s (gchanOf s (k / 256 % 256)).shell).rig.ports with
    | some p => exact .inr (upWith_of_agentPort hport)
    | none => exact absurd (by rw [hport]; rfl) h
  next hch =>
    rw [if_neg hch]
    obtain ⟨-, hp⟩ | ⟨-, hp⟩ := portToward_cases s dst
    · exact hp
    · exact absurd hp h

end

/-! ### A message leaves -/

section
variable {s : State} {p dst : Nat} {h : AdmHead} {m : AdmMsg} {r : Bool} {body : List Nat}

/-- A packet of at most two units leaves at once by a port that is UP and has credit, when no packet waits. -/
theorem sent_ghOut_of_free {w : GhWait} (hup : UpWith s w.port dst) (hafter : w.after = []) (hwaiting : s.ghWaiting = [])
    (hcredit : w.units ≤ (portOf s w.port).credit.getD w.gv 0) : (ghOut s w).sent = s.sent ++ [w.out] := by
  obtain ⟨hp, hst, -⟩ := hup
  have hgoes : ghGoes s w = true := by
    have hback : ghHeldBack s w = false := by
      unfold ghHeldBack
      rw [hafter]
      exact List.any_eq_false.2 fun _ _ => by simp
    simp only [ghGoes, hback, hwaiting, List.any_nil, Bool.not_false, Bool.and_false, Bool.true_and, hcredit, decide_true]
  unfold ghOut
  dsimp only
  rw [if_neg (by omega), if_pos hgoes]
  rfl

theorem sent_admOut_of_up (hp : p = 16 ∨ UpWith s p dst) (hwaiting : s.ghWaiting = []) (hcredit : HasCredit s) :
    (admOut s p h m r body).sent = s.sent ++ [.adm p h m r body] := by
  unfold admOut
  split
  next => rfl
  next hne =>
    have hup := hp.resolve_left hne
    refine sent_ghOut_of_free hup rfl hwaiting (le_trans ?_ (hcredit p hup.2.1))
    dsimp only
    split
    · exact one_le_two
    · exact Nat.le_refl _

theorem admOut_none : admOut s 17 h m r body = s := rfl

end

/-! ### The answer that is kept (14 R479) -/

section
variable (s : State) (q : AdmHead) (m : AdmMsg) (busy : Bool) (e c a : Nat) (b : List Nat)

/-- The entry that an answer leaves in the store of answers. -/
def keptAnswer (s : State) (q : AdmHead) (m : AdmMsg) (busy : Bool) (e c a : Nat) (b : List Nat) : GhKept :=
  { head := { q with epoch := e, code := c, arg := if busy then 1 else a }, msg := m, busy := busy, body := b, tb := s.tb }

theorem admAnswer_eq : admAnswer s q m busy e c a b = admOut (keep s (keptAnswer s q m busy e c a b)) (portToward s q.src)
    { src := ownModule s, dst := q.src, txn := q.txn, epoch := e, code := c, key := q.key, arg := if busy then 1 else a } m true b := rfl

theorem mem_keepNewest_last {α : Type} (n : Nat) (l : List α) (x : α) : ∃ l', keepNewest (n + 1) (l ++ [x]) = l' ++ [x] ∧ ∀ y ∈ l', y ∈ l := by
  refine ⟨l.drop ((l ++ [x]).length - (n + 1)), ?_, fun y hy => List.mem_of_mem_drop hy⟩
  refine List.drop_append_of_le_length ?_
  simp

/-- A kept answer is the one that its request finds. -/
theorem keptFor_keep (k : GhKept) : keptFor (keep s k) k.head.src k.head.txn = some k := by
  obtain ⟨l, hl, hmem⟩ := mem_keepNewest_last 255 (s.ghKept.filter (fun x => x.head.src == k.head.src && x.head.txn != k.head.txn)) k
  unfold keptFor keep
  dsimp only
  rw [hl, List.find?_append, List.find?_append, List.find?_eq_none.2 (fun x hx => ?_), List.find?_eq_none.2 (fun x hx => ?_)]
  · simp
  · have := (List.mem_filter.1 (hmem x hx)).2
    simp_all
  · have := (List.mem_filter.1 hx).2
    simp_all

theorem keptFor_admAnswer : keptFor (admAnswer s q m busy e c a b) q.src q.txn = some (keptAnswer s q m busy e c a b) := by
  have hkept : (admAnswer s q m busy e c a b).ghKept = (keep s (keptAnswer s q m busy e c a b)).ghKept := ghKept_admOut _ _ _ _ _ _
  unfold keptFor
  rw [hkept]
  exact keptFor_keep s (keptAnswer s q m busy e c a b)

/-- What is written of a state whose rest is that of another. -/
theorem eq_of_outsidePorts {s t : State} (h : outsidePorts t = outsidePorts s) : t = { s with ghPorts := t.ghPorts, ghWaiting := t.ghWaiting, sent := t.sent } :=
  (congrArg (fun u : State => { u with ghPorts := t.ghPorts, ghWaiting := t.ghWaiting, sent := t.sent }) h :)

theorem admAnswer_rest : outsidePorts (admAnswer s q m busy e c a b) = outsidePorts (keep s (keptAnswer s q m busy e c a b)) := outsidePorts_admOut _ _ _ _ _ _

theorem eq_of_admAnswer {t : State} (ht : admAnswer s q m busy e c a b = t) :
    t = { s with ghKept := t.ghKept, ghPorts := t.ghPorts, ghWaiting := t.ghWaiting, sent := t.sent } := by
  have hrest : outsidePorts t = outsidePorts (keep s (keptAnswer s q m busy e c a b)) := ht ▸ admAnswer_rest s q m busy e c a b
  have hkept : t.ghKept = (keep s (keptAnswer s q m busy e c a b)).ghKept := (congrArg State.ghKept hrest :)
  rw [hkept]
  exact eq_of_outsidePorts hrest

variable {s q m busy e c a b}

theorem sent_admAnswer (hreach : reaches s q.src = true) (hwaiting : s.ghWaiting = []) (hcredit : HasCredit s) :
    (admAnswer s q m busy e c a b).sent = s.sent ++ [.adm (portToward s q.src)
      { src := ownModule s, dst := q.src, txn := q.txn, epoch := e, code := c, key := q.key, arg := if busy then 1 else a } m true b] :=
  sent_admOut_of_up (s := keep s (keptAnswer s q m busy e c a b)) (portToward_of_reaches hreach) hwaiting hcredit

theorem sent_admAnswer_of_not_reaches (hreach : reaches s q.src = false) : (admAnswer s q m busy e c a b).sent = s.sent := by
  rw [admAnswer_eq, portToward_of_not_reaches hreach, admOut_none]
  rfl

end

/-! ### A request that is sent -/

section
variable (s : State) (dst e k a : Nat) (m : AdmMsg) (b : List Nat)

/-- The state in which `admSend` has noted the request. -/
def requestNoted (s : State) (x : GhMsg) : State := { s with ghTxn := (s.ghTxn + 1) % 2 ^ 32, ghMsgs := s.ghMsgs ++ [x] }

theorem outsidePorts_admSend : outsidePorts (admSend s dst m e k a b) = outsidePorts (requestNoted s (sentRequest s dst m e k a b)) :=
  outsidePorts_admOut _ _ _ _ _ _

theorem eq_of_admSend {t : State} (ht : admSend s dst m e k a b = t) :
    t = { s with ghTxn := (s.ghTxn + 1) % 2 ^ 32, ghMsgs := s.ghMsgs ++ [sentRequest s dst m e k a b], ghPorts := t.ghPorts, ghWaiting := t.ghWaiting, sent := t.sent } :=
  eq_of_outsidePorts (s := requestNoted s (sentRequest s dst m e k a b)) (ht ▸ outsidePorts_admSend s dst e k a m b)

variable {s dst e k a m b}

theorem sent_admSend (hport : admPort s dst m k ≠ 17) (hwaiting : s.ghWaiting = []) (hcredit : HasCredit s) :
    (admSend s dst m e k a b).sent = s.sent ++ [.adm (admPort s dst m k) (sentRequest s dst m e k a b).head m false b] :=
  sent_admOut_of_up (s := requestNoted s (sentRequest s dst m e k a b)) (admPort_up hport) hwaiting hcredit

theorem sent_admSend_of_none (hport : admPort s dst m k = 17) : (admSend s dst m e k a b).sent = s.sent := by
  change (admOut (requestNoted s (sentRequest s dst m e k a b)) (admPort s dst m k) _ _ _ _).sent = _
  rw [hport, admOut_none]
  rfl

end

end Sys2Proof
end

section
/-! Ademen's leases: lender, borrower and the seat actions of leased seats (14 R475 to R485, R496, 17 R563). -/
namespace Sys2Proof
open Sys2Proof.Machine

/-! ### Leases but for their levels -/

/-- The granted leases but for the levels of their seats. -/
def unlevelled (s : State) : List LeaseOut := s.lent.map (fun l => { l with level := 0 })

theorem lent_seatsLevel (s : State) (seats : List Nat) (l : Nat) : (seatsLevel s seats l).lent = s.lent :=
  foldl_keeps State.lent (fun s i => by
    dsimp only
    split
    · rfl
    · rfl) seats s

theorem unlevelled_lentLevel (s : State) (id l : Nat) : unlevelled (lentLevel s id l) = unlevelled s := by
  unfold unlevelled lentLevel
  dsimp only
  rw [lent_seatsLevel, List.map_map]
  refine List.map_congr_left fun x _ => ?_
  simp only [Function.comp]
  split
  · rfl
  · rfl

theorem unlevelled_fileError (s : State) (e : ErrRec) : unlevelled (fileError s false e) = unlevelled s :=
  (congrArg unlevelled (outsideErrors_fileError s e) :)

theorem unlevelled_shellLevel (s : State) (slot l : Nat) : unlevelled (shellLevel s slot l) = unlevelled s :=
  congrArg (List.map _) (lent_seatsLevel _ _ _)

theorem unlevelled_pset (s : State) (k v : Nat) : unlevelled (pset s k v) = unlevelled s := rfl

theorem unlevelled_allocPut (unmet scaled : Bool) (slot w : Nat) (s : State) : unlevelled (allocPut unmet scaled slot w s) = unlevelled s := by
  have hlevel : ∀ t : State, unlevelled (if unmet then shellLevel t slot 7 else t) = unlevelled t := fun t => by
    split
    · exact unlevelled_shellLevel _ _ _
    · rfl
  unfold allocPut
  split
  · split
    · exact unlevelled_lentLevel _ _ _
    · rfl
  · dsimp only
    split
    · rw [unlevelled_fileError, hlevel, unlevelled_pset, unlevelled_pset]
    · rw [hlevel, unlevelled_pset, unlevelled_pset]

theorem unlevelled_powerAllocate (s : State) : unlevelled (powerAllocate s) = unlevelled s :=
  foldl_keeps unlevelled (fun t (p : Nat × Nat) => unlevelled_allocPut (allocations s).2 (scaledBelow s p.1) p.1 p.2 t) _ s

/-- A lease stands in one of two states exactly with the same fields but its level, when their leases differ in levels only. -/
theorem exists_lent_of_unlevelled {s t : State} (h : unlevelled t = unlevelled s) {l : LeaseOut} (hl : l ∈ s.lent) :
    ∃ x ∈ t.lent, { x with level := 0 } = { l with level := 0 } := by
  have hmem : ({ l with level := 0 } : LeaseOut) ∈ unlevelled t := h ▸ List.mem_map_of_mem hl
  exact List.mem_map.1 hmem

/-! ### The end of a lease at its lender (14 R480, Table Ghengo-11) -/

section
variable (s : State)

theorem contains_foldl_sAdd (l acc : List Nat) {r : Nat} (hr : r ∈ l) : (l.foldl sAdd acc).contains r = true :=
  List.contains_iff_mem.2 (mem_foldl_sAdd.2 (.inr hr))

/-- The state but for seats, their bridges and what waits to be scrubbed. -/
def outsideScrubs (s : State) : State := { s with seats := [], islands := [], scrubSeats := [], scrubChans := [] }

theorem outsideScrubs_seatsToScrub (l : List Nat) : outsideScrubs (seatsToScrub s l) = outsideScrubs s :=
  foldl_keeps outsideScrubs (f := fun s i => islandPut s i { islandOf s i with bridge := .draining, tbDrain := s.tb }) (fun _ _ => rfl) l s

theorem outsideScrubs_foldl_seatHalt (l : List Nat) : outsideScrubs (l.foldl seatHalt s) = outsideScrubs s :=
  foldl_keeps outsideScrubs (f := seatHalt) (fun _ _ => rfl) l s

/-- The lease is struck out, and its record waits for the scrub. -/
def leaseStruck (s : State) (id cause : Nat) (q : Option AdmHead) (l : LeaseOut) : State :=
  { epochNext s with lent := s.lent.filter (fun x => x.id != id), lentEnding := s.lentEnding ++ [({ l with returned := q }, cause)] }

/-- The resources of a lease that ends go to be scrubbed. -/
def leaseScrubbing (s : State) (l : LeaseOut) : State :=
  if l.kind = 1 then seatsToScrub (l.res.foldl seatHalt s) l.res else chansToScrub s l.res

theorem outsideScrubs_leaseScrubbing (l : LeaseOut) : outsideScrubs (leaseScrubbing s l) = outsideScrubs s := by
  unfold leaseScrubbing
  split
  · exact (outsideScrubs_seatsToScrub _ _).trans (outsideScrubs_foldl_seatHalt _ _)
  · rfl

variable {s} {id cause : Nat} {q : Option AdmHead} {l : LeaseOut}

theorem contains_leaseScrubbing {r : Nat} (hr : r ∈ l.res) :
    (l.kind = 1 → (leaseScrubbing s l).scrubSeats.contains r = true) ∧ (l.kind ≠ 1 → (leaseScrubbing s l).scrubChans.contains r = true) := by
  refine ⟨fun hkind => ?_, fun hkind => ?_⟩
  · rw [leaseScrubbing, if_pos hkind]
    exact contains_foldl_sAdd _ _ hr
  · rw [leaseScrubbing, if_neg hkind]
    exact contains_foldl_sAdd _ _ hr

theorem leaseEnd_of_lent (hl : s.lent.find? (fun x => x.id == id) = some l) :
    leaseEnd s id cause q = powerAllocate (leaseScrubbing (leaseStruck s id cause q l) l) := by
  unfold leaseEnd
  rw [hl]
  rfl

/-- A lease that ends leaves its resources to the scrub, at a new epoch. -/
theorem leaseEnd_spec (hl : s.lent.find? (fun x => x.id == id) = some l) :
    (leaseEnd s id cause q).shardEpoch = (s.shardEpoch + 1) % 2 ^ 32 ∧ (∀ x ∈ (leaseEnd s id cause q).lent, x.id ≠ id) ∧
    ({ l with returned := q }, cause) ∈ (leaseEnd s id cause q).lentEnding ∧
    (l.kind = 1 → ∀ r ∈ l.res, (leaseEnd s id cause q).scrubSeats.contains r = true) ∧
    (l.kind ≠ 1 → ∀ r ∈ l.res, (leaseEnd s id cause q).scrubChans.contains r = true) := by
  rw [leaseEnd_of_lent hl]
  generalize hu : leaseScrubbing (leaseStruck s id cause q l) l = u
  have hscrub : outsideScrubs u = outsideScrubs (leaseStruck s id cause q l) := hu ▸ outsideScrubs_leaseScrubbing _ _
  have halloc := outsideAllocations_powerAllocate u
  have hepoch : (powerAllocate u).shardEpoch = u.shardEpoch := (congrArg State.shardEpoch halloc :)
  have hending : (powerAllocate u).lentEnding = u.lentEnding := (congrArg State.lentEnding halloc :)
  have hseats : (powerAllocate u).scrubSeats = u.scrubSeats := (congrArg State.scrubSeats halloc :)
  have hchans : (powerAllocate u).scrubChans = u.scrubChans := (congrArg State.scrubChans halloc :)
  have hepoch' : u.shardEpoch = _ := (congrArg State.shardEpoch hscrub :)
  have hending' : u.lentEnding = _ := (congrArg State.lentEnding hscrub :)
  have hlent : u.lent = _ := (congrArg State.lent hscrub :)
  refine ⟨hepoch.trans hepoch', fun x hx => ?_, ?_, fun hkind r hr => ?_, fun hkind r hr => ?_⟩
  · obtain ⟨y, hy, heq⟩ := exists_lent_of_unlevelled (unlevelled_powerAllocate u).symm hx
    have hid : y.id = x.id := (congrArg LeaseOut.id heq :)
    rw [hlent] at hy
    rw [← hid]
    exact bne_iff_ne.1 (List.mem_filter.1 hy).2
  · rw [hending, hending']
    exact List.mem_append_right _ (List.mem_singleton_self _)
  · rw [hseats, ← hu]
    exact (contains_leaseScrubbing hr).1 hkind
  · rw [hchans, ← hu]
    exact (contains_leaseScrubbing hr).2 hkind

end

/-! ### What a message that is taken up does at the lender (14 R480, Table Ghengo-11) -/

section
variable {s : State} {h : GhHead}

theorem reaches_of_admTaken (htaken : admTaken s h = true) : reaches s h.src.toNat = true := by
  unfold admTaken at htaken
  split at htaken
  next =>
    simp only [Bool.and_eq_true, beq_iff_eq] at htaken
    exact reaches_iff.2 (.inl htaken.2)
  next hne =>
    simp only [Bool.and_eq_true, beq_iff_eq] at htaken
    exact reaches_iff.2 (.inr ⟨h.port.val, by omega, htaken⟩)

theorem reaches_congr {t : State} (hports : t.ghPorts = s.ghPorts) (hown : ownModule t = ownModule s) (dst : Nat) : reaches t dst = reaches s dst := by
  unfold reaches upPorts portOf
  rw [hports, hown]

theorem leaseMsg_of_denied {m : AdmMsg} {f : AdmHead → LeaseOut → State → State} (hdenied : admTaken s h = false) :
    leaseMsg h m s f = .next (if s.start.islandsUp then pinc s P.ghRxDenied else s) := admIn_of_denied hdenied

theorem exec_leases_of_denied (hdenied : admTaken s h = false) (r : BitVec 256) (m : AdmMsg) (c : U16) :
    ∀ i ∈ [Instr.leaseRequest h r, .leaseRenew h, .leaseReturn h, .leaseRevoke h, .epochQuery h, .admResponse h m c r],
      exec i s = .next (if s.start.islandsUp then pinc s P.ghRxDenied else s) := by
  simp only [List.forall_mem_cons]
  exact ⟨(admIn_of_denied hdenied : execLeaseRequest h r s = _), (leaseMsg_of_denied hdenied : execLeaseRenew h s = _),
    (leaseMsg_of_denied hdenied : execLeaseReturn h s = _), (admIn_of_denied hdenied : execLeaseRevoke h s = _),
    (leaseMsg_of_denied hdenied : execEpochQuery h s = _), (admIn_of_denied hdenied : execAdmResponse h m c r s = _), fun _ hi => nomatch hi⟩

/-- The stored response to a repeated request. -/
def answeredAgain (s : State) (q : AdmHead) (m : AdmMsg) (k : GhKept) : State :=
  admOut s (portToward s q.src) { src := ownModule s, dst := q.src, txn := q.txn, epoch := k.head.epoch, code := k.head.code, key := q.key, arg := k.head.arg } m true k.body

theorem admOnceOnly_of_kept {q : AdmHead} {m : AdmMsg} {g : State → State} {k : GhKept} (hk : keptFor s q.src q.txn = some k) :
    admOnceOnly s q m g = answeredAgain s q m k := by
  unfold admOnceOnly
  rw [hk]
  rfl

/-- A repeated request has its stored response again. -/
theorem admIn_of_kept {m : AdmMsg} {g : AdmHead → State → State} {k : GhKept} (htaken : admTaken s h = true) (hk : keptFor s h.src.toNat h.txn.toNat = some k) :
    admIn s h (fun q s => admOnceOnly s q m (g q)) = .next (answeredAgain s (admHeadOf s h) m k) :=
  (admIn_of_taken htaken).trans (congrArg Host.Outcome.next (admOnceOnly_of_kept hk))

section
variable (htaken : admTaken s h = true) (hnew : keptFor s h.src.toNat h.txn.toNat = none)
include htaken hnew

theorem exec_leaseRequest_of_new (r : BitVec 256) : exec (.leaseRequest h r) s = .next (if lendCode s h.src.toNat r.toNat = 0 then leaseGrant s (admHeadOf s h) r.toNat
    else admAnswer s (admHeadOf s h) .leaseRequest false s.shardEpoch (lendCode s h.src.toNat r.toNat) 0 []) :=
  (admIn_of_new htaken hnew : execLeaseRequest h r s = _)

/-- What a message for a granted lease does. -/
def lentMsg (s : State) (q : AdmHead) (m : AdmMsg) (f : AdmHead → LeaseOut → State → State) : State :=
  match lentNamed s q with
  | some l => f q l s
  | none => admAnswer s q m false s.shardEpoch 0x0506 0 []

theorem leaseMsg_of_new {m : AdmMsg} {f : AdmHead → LeaseOut → State → State} : leaseMsg h m s f = .next (lentMsg s (admHeadOf s h) m f) :=
  (admIn_of_new htaken hnew).trans rfl

theorem leaseMsg_of_unknown {m : AdmMsg} {f : AdmHead → LeaseOut → State → State} (hnone : lentNamed s (admHeadOf s h) = none) :
    leaseMsg h m s f = .next (admAnswer s (admHeadOf s h) m false s.shardEpoch 0x0506 0 []) := by
  rw [leaseMsg_of_new htaken hnew, lentMsg, hnone]

theorem leaseMsg_of_lent {m : AdmMsg} {f : AdmHead → LeaseOut → State → State} {l : LeaseOut} (hl : lentNamed s (admHeadOf s h) = some l) :
    leaseMsg h m s f = .next (f (admHeadOf s h) l s) := by
  rw [leaseMsg_of_new htaken hnew, lentMsg, hl]

end

end

/-! ### A grant (14 R476, R480) -/

section
variable (s : State) (q : AdmHead) (r : Nat)

/-- The lease that a request is granted. -/
def grantedLease (s : State) (q : AdmHead) (r : Nat) : LeaseOut :=
  { id := s.nextLease, borrower := q.src, epoch := (epochNext s).shardEpoch, kind := leaseKind r, ports := farEnds s q.src (leasePorts r)
    res := lendable s (leaseKind r) (leaseCount r), termMs := leaseTerm s r, tbGrant := s.tb, tbRenew := s.tb }

/-- The state with the lease granted, before its seats take their level. -/
def leaseGranted (s : State) (q : AdmHead) (r : Nat) : State :=
  { epochNext s with nextLease := (s.nextLease + 1) % 2 ^ 32, lent := s.lent ++ [grantedLease s q r] }

/-- The state with the lease granted and its seats at their level. -/
def leaseLevelled (s : State) (q : AdmHead) (r : Nat) : State :=
  lentLevel (powerAllocate (leaseGranted s q r)) s.nextLease
    ((((powerAllocate (leaseGranted s q r)).lent.find? (fun x => x.id == s.nextLease)).map (·.level)).getD (grantedLease s q r).level)

theorem leaseGrant_eq : leaseGrant s q r = admAnswer (leaseLevelled s q r) q .leaseRequest false (epochNext s).shardEpoch 0 0
    [r + s.nextLease * 2 ^ 208 + (epochNext s).shardEpoch * 2 ^ 176] := rfl

theorem outsideAllocations_leaseLevelled : outsideAllocations (leaseLevelled s q r) = outsideAllocations (leaseGranted s q r) :=
  (outsideAllocations_lentLevel _ _ _).trans (outsideAllocations_powerAllocate _)

theorem unlevelled_leaseLevelled : unlevelled (leaseLevelled s q r) = unlevelled (leaseGranted s q r) :=
  (unlevelled_lentLevel _ _ _).trans (unlevelled_powerAllocate _)

theorem ownModule_leaseLevelled : ownModule (leaseLevelled s q r) = ownModule s :=
  (pget_lentLevel _ _ _ _).trans (pget_powerAllocate (by unfold NotOfShell; decide) (by decide))

/-- A field of the answer's state that no message touches. -/
theorem leaseGrant_rest : outsideMessages (leaseGrant s q r) = outsideMessages (leaseLevelled s q r) := outsideMessages_admAnswer _ _ _ _ _ _ _ _

/-- The fields that neither a level nor a message touches. -/
theorem fields_of_outsideAllocations {s t : State} (h : outsideAllocations t = outsideAllocations s) :
    t.shardEpoch = s.shardEpoch ∧ t.nextLease = s.nextLease ∧ t.ghPorts = s.ghPorts ∧ t.ghWaiting = s.ghWaiting :=
  ⟨(congrArg State.shardEpoch h :), (congrArg State.nextLease h :), (congrArg State.ghPorts h :), (congrArg State.ghWaiting h :)⟩

theorem fields_of_outsideMessages {s t : State} (h : outsideMessages t = outsideMessages s) :
    t.shardEpoch = s.shardEpoch ∧ t.nextLease = s.nextLease ∧ t.lent = s.lent :=
  ⟨(congrArg State.shardEpoch h :), (congrArg State.nextLease h :), (congrArg State.lent h :)⟩

theorem leaseGrant_spec : (leaseGrant s q r).shardEpoch = (epochNext s).shardEpoch ∧ (leaseGrant s q r).nextLease = (leaseGranted s q r).nextLease ∧
    ∃ l ∈ (leaseGrant s q r).lent, { l with level := 0 } = { grantedLease s q r with level := 0 } := by
  obtain ⟨hepoch, hnext, hlent⟩ := fields_of_outsideMessages (leaseGrant_rest s q r)
  obtain ⟨hepoch', hnext', -, -⟩ := fields_of_outsideAllocations (outsideAllocations_leaseLevelled s q r)
  refine ⟨hepoch.trans hepoch', hnext.trans hnext', ?_⟩
  rw [hlent]
  exact exists_lent_of_unlevelled (unlevelled_leaseLevelled s q r) (List.mem_append_right _ (List.mem_singleton_self _))

variable {s q r}

/-- The grant goes back as soon as a port with credit is UP. -/
theorem sent_leaseGrant (hreach : reaches s q.src = true) (hwaiting : s.ghWaiting = []) (hcredit : HasCredit s) :
    ∃ p a, (leaseGrant s q r).sent.getLast? = some (.adm p a .leaseRequest true [r + s.nextLease * 2 ^ 208 + (epochNext s).shardEpoch * 2 ^ 176]) ∧
      a.code = 0 ∧ a.txn = q.txn := by
  obtain ⟨-, -, hports, hwait⟩ := fields_of_outsideAllocations (outsideAllocations_leaseLevelled s q r)
  have hreach' := (reaches_congr (t := leaseLevelled s q r) hports (ownModule_leaseLevelled s q r) q.src).trans hreach
  have hcredit' : HasCredit (leaseLevelled s q r) := fun p => by
    unfold portOf
    rw [hports]
    exact hcredit p
  rw [leaseGrant_eq, sent_admAnswer hreach' (hwait.trans hwaiting) hcredit', List.getLast?_concat]
  exact ⟨_, _, rfl, rfl, rfl⟩

end

end Sys2Proof
end

section
/-! Ademen's leases: commands, timers, and the packets of leased seats (14 R475 to R485, R496, 17 R563). -/
namespace Sys2Proof
open Sys2Proof.Machine

/-! ### What the borrower takes up (14 Table Ghengo-9, R479) -/

section
variable {s : State} {h : GhHead} (htaken : admTaken s h = true)
include htaken

/-- The lease that a LEASE_REVOKE names, while it is HELD or RIGGED. -/
def revokedLease (s : State) (h : GhHead) : Option LeaseIn :=
  s.borrowed.find? (fun l => leaseLender l.record == h.src.toNat && leaseId l.record == h.key.toNat % 2 ^ 32 && leaseEpoch l.record == h.epoch.toNat && (l.st == 2 || l.st == 3))

theorem exec_leaseRevoke_of_held {l : LeaseIn} (hl : revokedLease s h = some l) : exec (.leaseRevoke h) s = .next (leaseLose s l.record) := by
  refine (admIn_of_taken htaken : execLeaseRevoke h s = _).trans ?_
  unfold revokedLease at hl
  simp only [admHeadOf, hl]

theorem exec_leaseRevoke_of_none (hl : revokedLease s h = none) : exec (.leaseRevoke h) s = .next (pinc s P.admProtocolErrors) := by
  refine (admIn_of_taken htaken : execLeaseRevoke h s = _).trans ?_
  unfold revokedLease at hl
  simp only [admHeadOf, hl]

/-- The request that a response answers. -/
def answeredMsg (s : State) (h : GhHead) (m : AdmMsg) : Option GhMsg :=
  s.ghMsgs.find? (fun x => x.head.txn == h.txn.toNat && x.head.dst == h.src.toNat && x.msg == m)

variable {m : AdmMsg} (c : U16) (r : BitVec 256)

theorem exec_admResponse_of_none (hx : answeredMsg s h m = none) : exec (.admResponse h m c r) s = .next (pinc s P.admProtocolErrors) := by
  refine (admIn_of_taken htaken : execAdmResponse h m c r s = _).trans ?_
  unfold answeredMsg at hx
  simp only [admHeadOf, hx]

theorem exec_admResponse_of_some {x : GhMsg} (hx : answeredMsg s h m = some x) : exec (.admResponse h m c r) s = .next (
    if bitOf h.arg.toNat 0 then { s with ghMsgs := s.ghMsgs.map (fun y => if y.head.txn = h.txn.toNat then { y with sends := 0, tbLast := s.tb } else y) }
    else admOutcome { s with ghMsgs := s.ghMsgs.filter (fun y => y.head.txn != h.txn.toNat) } x c.toNat h.epoch.toNat h.arg.toNat r.toNat) := by
  refine (admIn_of_taken htaken : execAdmResponse h m c r s = _).trans ?_
  unfold answeredMsg at hx
  simp only [admHeadOf, hx]
  rfl

end

/-! ### Commands and timers of leases (14 Table Ghengo-9, Table Ghengo-11) -/

section
variable {s : State}

theorem exec_admLentRevoke_of_none {id : U32} (hl : s.lent.find? (fun x => x.id == id.toNat) = none) : exec (.admLentRevoke id) s = .next s := by
  change execAdmLentRevoke id s = _
  rw [execAdmLentRevoke, lentRevoke, hl]
  split
  · rfl
  · rfl

theorem exec_admLentRevoke_of_lent {id : U32} {l : LeaseOut} (hl : s.lent.find? (fun x => x.id == id.toNat) = some l) (hup : fullUp s = true) :
    exec (.admLentRevoke id) s = .next (leaseEnd (admOnce s l.borrower .leaseRevoke l.epoch id.toNat 0 []) id.toNat 3 none) := by
  change execAdmLentRevoke id s = _
  rw [execAdmLentRevoke, if_pos hup, lentRevoke, hl]

theorem exec_leaseExpiryTimer_of_none {id : U32} (hl : s.lent.find? (fun x => x.id == id.toNat) = none) : exec (.leaseExpiryTimer id) s = .next s := by
  change execLeaseExpiryTimer id s = _
  rw [execLeaseExpiryTimer, hl]

theorem exec_leaseExpiryTimer_of_lent {id : U32} {l : LeaseOut} (hl : s.lent.find? (fun x => x.id == id.toNat) = some l) :
    exec (.leaseExpiryTimer id) s = .next (if tbPast s.tb l.tbRenew (l.termMs * 1000000) then leaseEnd s l.id 2 none else s) := by
  change execLeaseExpiryTimer id s = _
  rw [execLeaseExpiryTimer, hl]

/-- The fields of ADM_LEASE_CMD with a command, a lender and an identifier. -/
theorem leaseCmd_fields {cmd lender id : Nat} (hcmd : cmd < 256) (hlender : lender < 2 ^ 16) (hid : id < 2 ^ 32) {v : Nat} (hv : v = id * 2 ^ 32 + lender * 2 ^ 16 + cmd) :
    v % 256 = cmd ∧ bitsOf v 15 8 = 0 ∧ bitsOf v 31 16 = lender ∧ bitsOf v 63 32 = id := by
  simp only [bitsOf, Nat.shiftRight_eq_div_pow]
  norm_num at *
  omega

theorem exec_admLeaseCmdRequest_of_full (hup : fullUp s = true) (m : U16) {v r : Nat} (hv : v = pack [(16, m.toNat), (0, 1)])
    (hr : r = leNat (octGet s P.admLeaseReq) - bitsOf (leNat (octGet s P.admLeaseReq)) 95 88 * 2 ^ 88) :
    exec (.admLeaseCmdRequest m) s = .next (if leaseRequestCode s v r ≠ 0 then pset s P.admLeaseResult (leaseRequestCode s v r)
      else admSend s (leaseLender r) .leaseRequest 0 0 0 [r]) := by
  change execAdmLeaseCmdRequest m s = _
  have hcmd : pack [(16, m.toNat), (0, 1)] % 256 = 1 :=
    (leaseCmd_fields (by decide) m.isLt (id := 0) (by decide) (by simp only [pack, List.foldl]; omega)).1
  rw [execAdmLeaseCmdRequest, if_pos hup, leaseCmd, if_pos hcmd]
  dsimp only
  rw [← hr, ← hv]

/-- The HELD lease that a return names. -/
def heldLease (s : State) (m : U16) (id : U32) : Option LeaseIn :=
  s.borrowed.find? (fun l => leaseId l.record == id.toNat && leaseLender l.record == m.toNat && l.st == 2)

theorem leaseCmd_return_fields (m : U16) (id : U32) {v : Nat} (hv : v = pack [(32, id.toNat), (16, m.toNat), (0, 2)]) :
    v % 256 = 2 ∧ bitsOf v 15 8 = 0 ∧ bitsOf v 31 16 = m.toNat ∧ bitsOf v 63 32 = id.toNat :=
  leaseCmd_fields (by decide) m.isLt id.isLt (by simp only [hv, pack, List.foldl]; omega)

theorem exec_admLeaseCmdReturn_of_none (hup : fullUp s = true) {m : U16} {id : U32} (hl : heldLease s m id = none) :
    exec (.admLeaseCmdReturn m id) s = .next (pset s P.admLeaseResult 0x050A) := by
  change execAdmLeaseCmdReturn m id s = _
  obtain ⟨hcmd, harg, hlender, hid⟩ := leaseCmd_return_fields m id rfl
  unfold heldLease at hl
  rw [execAdmLeaseCmdReturn, if_pos hup, leaseCmd, if_neg (by omega), if_pos hcmd, if_neg (by simp [harg]), hlender, hid, hl]

theorem exec_admLeaseCmdReturn_of_held (hup : fullUp s = true) {m : U16} {id : U32} {l : LeaseIn} (hl : heldLease s m id = some l) :
    exec (.admLeaseCmdReturn m id) s = .next (admSend { s with borrowed := s.borrowed.map (fun x => if x.record = l.record then { x with st := 4 } else x) }
      (leaseLender l.record) .leaseReturn (leaseEpoch l.record) (leaseId l.record) 0 []) := by
  change execAdmLeaseCmdReturn m id s = _
  obtain ⟨hcmd, harg, hlender, hid⟩ := leaseCmd_return_fields m id rfl
  unfold heldLease at hl
  rw [execAdmLeaseCmdReturn, if_pos hup, leaseCmd, if_neg (by omega), if_pos hcmd, if_neg (by simp [harg]), hlender, hid, hl]

/-- The HELD or RIGGED lease that a borrower's timer concerns. -/
def borrowedLease (s : State) (m : U16) (id : U32) : Option LeaseIn :=
  s.borrowed.find? (fun l => leaseLender l.record == m.toNat && leaseId l.record == id.toNat && (l.st == 2 || l.st == 3))

theorem exec_leaseTimers_of_none {m : U16} {id : U32} (hl : borrowedLease s m id = none) :
    exec (.leaseRenewTimer m id) s = .next s ∧ exec (.leaseLossTimer m id) s = .next s := by
  change execLeaseRenewTimer m id s = _ ∧ execLeaseLossTimer m id s = _
  unfold borrowedLease at hl
  rw [execLeaseRenewTimer, execLeaseLossTimer, hl]
  exact ⟨rfl, rfl⟩

theorem exec_leaseTimers_of_some {m : U16} {id : U32} {l : LeaseIn} (hl : borrowedLease s m id = some l) :
    exec (.leaseRenewTimer m id) s = .next (admSend s m.toNat .leaseRenew (leaseEpoch l.record) id.toNat 0 []) ∧
    exec (.leaseLossTimer m id) s = .next (if tbPast s.tb l.tbAnswered (leaseTerm s l.record * 750000) then leaseLose s l.record else s) := by
  change execLeaseRenewTimer m id s = _ ∧ execLeaseLossTimer m id s = _
  unfold borrowedLease at hl
  rw [execLeaseRenewTimer, execLeaseLossTimer, hl]
  exact ⟨rfl, rfl⟩

end

/-! ### A request that is not answered (14 R479) -/

section
variable {s : State} {n : U32}

theorem exec_admRetryTimer_of_none (hm : s.ghMsgs.find? (fun m => m.head.txn == n.toNat) = none) : exec (.admRetryTimer n) s = .next s := by
  change execAdmRetryTimer n s = _
  rw [execAdmRetryTimer, hm]

variable {m : GhMsg} (hm : s.ghMsgs.find? (fun m => m.head.txn == n.toNat) = some m)
include hm

theorem exec_admRetryTimer_of_early (hearly : tbPast s.tb m.tbLast (pget s P.admRetryUs * 1000) = false) : exec (.admRetryTimer n) s = .next s := by
  change execAdmRetryTimer n s = _
  rw [execAdmRetryTimer, hm]
  dsimp only
  rw [hearly]
  rfl

/-- The state in which the request counts one send more. -/
def requestResent (s : State) (m : GhMsg) : State :=
  { s with ghMsgs := s.ghMsgs.map (fun x => if x.head.txn = m.head.txn then { x with sends := m.sends + 1, tbLast := s.tb } else x) }

variable (hlate : tbPast s.tb m.tbLast (pget s P.admRetryUs * 1000) = true) (honce : m.once = false)
include hlate honce

theorem exec_admRetryTimer_of_late : exec (.admRetryTimer n) s = .next (
    if m.sends < 4 then admOut (requestResent s m) (admPort s m.head.dst m.msg m.head.key) m.head m.msg false m.body
    else admOutcome { s with ghMsgs := s.ghMsgs.filter (fun x => x.head.txn != m.head.txn) } m 0x0503 0 0 0) := by
  change execAdmRetryTimer n s = _
  rw [execAdmRetryTimer, hm]
  dsimp only
  rw [hlate, honce, if_neg (by decide), if_neg (by decide)]
  split
  · rfl
  · rfl

end

/-- A request that is sent again leaves everything but its own entry and the ports. -/
theorem eq_of_requestResent {s t : State} {m : GhMsg} {p : Nat} (ht : admOut (requestResent s m) p m.head m.msg false m.body = t) :
    t = { s with ghMsgs := s.ghMsgs.map (fun x => if x.head.txn = m.head.txn then { x with sends := m.sends + 1, tbLast := s.tb } else x), ghPorts := t.ghPorts, ghWaiting := t.ghWaiting, sent := t.sent } :=
  eq_of_outsidePorts (s := requestResent s m) (ht ▸ outsidePorts_admOut _ _ _ _ _ _)

theorem sent_requestResent {s : State} {m : GhMsg} (hport : admPort s m.head.dst m.msg m.head.key ≠ 17) (hwaiting : s.ghWaiting = []) (hcredit : HasCredit s) :
    (admOut (requestResent s m) (admPort s m.head.dst m.msg m.head.key) m.head m.msg false m.body).sent =
      s.sent ++ [.adm (admPort s m.head.dst m.msg m.head.key) m.head m.msg false m.body] :=
  sent_admOut_of_up (s := requestResent s m) (admPort_up hport) hwaiting hcredit

/-! ### Seat actions and reports of leased seats (14 R475, R483, R484, 17 R563) -/

section
variable {s : State}

theorem exec_gv4SeatAction_of_down (hdown : s.start.islandsUp = false) (p : GhPortId) (src : U16) (lease : U32) (j : U16) (a : SeatAction) :
    exec (.gv4SeatAction p src lease j a) s = .next s := by
  change execGv4SeatAction p src lease j a s = _
  rw [execGv4SeatAction, hdown]
  rfl

/-- The seat of the lender that stands at a place of a lease. -/
def leasedAt (l : LeaseOut) (j : Nat) : Option Nat := if l.kind = 1 then l.res[j]? else none

theorem exec_gv4SeatAction_of_lent (hup : s.start.islandsUp = true) {p : GhPortId} {src : U16} {lease : U32} {l : LeaseOut}
    (hl : lentVia s p.val src.toNat lease.toNat = some l) (j : U16) (a : SeatAction) :
    (∀ i, leasedAt l j.toNat = some i → exec (.gv4SeatAction p src lease j a) s = .next (seatAct s l j.toNat i a)) ∧
    (leasedAt l j.toNat = none → exec (.gv4SeatAction p src lease j a) s = .next (emit (pinc s P.ghRxDenied) (.module src.toNat 9 [lease.toNat, j.toNat, 4]))) := by
  change (∀ i, _ → execGv4SeatAction p src lease j a s = _) ∧ (_ → execGv4SeatAction p src lease j a s = _)
  unfold leasedAt
  rw [execGv4SeatAction, hup, hl]
  dsimp only
  refine ⟨fun i hi => ?_, fun hnone => ?_⟩
  · rw [hi]
    rfl
  · rw [hnone]
    rfl

theorem exec_gv4SeatAction_of_none (hup : s.start.islandsUp = true) {p : GhPortId} {src : U16} {lease : U32}
    (hl : lentVia s p.val src.toNat lease.toNat = none) (j : U16) (a : SeatAction) :
    exec (.gv4SeatAction p src lease j a) s = .next (emit (pinc s P.ghRxDenied) (.module src.toNat 9 [lease.toNat, j.toNat, 4])) := by
  change execGv4SeatAction p src lease j a s = _
  rw [execGv4SeatAction, hup, hl]
  rfl

theorem seatOf_reportSend (s : State) (l : LeaseOut) (j : Nat) (r : SeatReport) (i : Nat) : seatOf (reportSend s l j r) i = seatOf s i :=
  (congrArg (fun t => seatOf t i) (outsidePorts_ghSeatSend s _ _ _ _) :)

section
variable (s : State) (l : LeaseOut) (j i : Nat)

theorem seatOf_seatAct_scrub : seatOf (seatAct s l j i .scrub) i = seatFresh s (seatOf s i) :=
  (seatOf_reportSend _ _ _ _ _).trans (seatOf_seatPut_self _ _ _)

theorem mode_seatAct_stop : (seatOf (seatAct s l j i .stop) i).mode = .stopped :=
  (congrArg Seat.mode ((seatOf_reportSend (seatHalt s i) l j .done i).trans (seatOf_seatPut_self s i _)) :)

theorem mode_seatAct_save : (seatOf (seatAct s l j i .save) i).mode = .idle :=
  (congrArg Seat.mode ((seatOf_reportSend (seatPut (freeNext s) i { seatOf s i with mode := .idle }) l j _ i).trans (seatOf_seatPut_self (freeNext s) i _)) :)

theorem seatBegin_starts (s : State) (i l n e a : Nat) : (seatOf (seatBegin s i l n e a) i).mode = .run ∧ (seatOf (seatBegin s i l n e a) i).core.pc = e := by
  unfold seatBegin
  rw [seatOf_seatPut_self]
  exact ⟨rfl, rfl⟩

end

/-! ### Packets of a lender -/

section
variable {p lender id : Nat}

theorem leaseSlot_of_stranger (hfrom : ¬ ((portOf s p).st = 3 ∧ (portOf s p).peer = lender)) : leaseSlot s p lender id = none :=
  if_pos (by tauto)

/-- A lease found for a packet is one of the sender's, over one of its ports. -/
theorem of_leaseSlot {slot rec_ : Nat} (h : leaseSlot s p lender id = some (slot, rec_)) :
    ((portOf s p).st = 3 ∧ (portOf s p).peer = lender) ∧ bitOf (bitsOf rec_ 143 128) p = true := by
  unfold leaseSlot at h
  split at h
  next => cases h
  next hfrom =>
    obtain ⟨l, hfind, hslot⟩ := Option.bind_eq_some_iff.1 h
    obtain ⟨sl, -, heq⟩ := Option.map_eq_some_iff.1 hslot
    have hrec : l.record = rec_ := (Prod.mk.inj heq).2
    have hp := List.find?_some hfind
    simp only [Bool.and_eq_true, List.contains_iff_mem, recPorts, List.mem_filter] at hp
    exact ⟨by tauto, hrec ▸ hp.2.2⟩

end

section
variable {p : GhPortId} {src : U16} {lease : U32}

theorem exec_lenderPackets_of_none (h : leaseSlot s p.val src.toNat lease.toNat = none) (j : U16) (r : SeatReport) (mech : Fin 16) (kind : U8) (tbd : U64) (f : Option U64) :
    exec (.gv4ActionReport p src lease j r) s = .next (if s.start.islandsUp then pinc s P.ghRxDenied else s) ∧
    exec (.leaseFaultReport p src lease mech kind tbd f) s = .next (if s.start.islandsUp then pinc s P.ghRxDenied else s) := by
  change execGv4ActionReport p src lease j r s = _ ∧ execLeaseFaultReport p src lease mech kind tbd f s = _
  rw [execGv4ActionReport, execLeaseFaultReport, h]
  exact ⟨rfl, rfl⟩

variable {slot rec_ : Nat} (h : leaseSlot s p.val src.toNat lease.toNat = some (slot, rec_))
include h

theorem exec_gv4ActionReport_of_seat {j : U16} {r : SeatReport} {k : Nat} (hk : (leasedSeats (shellOf s slot)).idxOf? (rec_, j.toNat) = some k) :
    exec (.gv4ActionReport p src lease j r) s = .next (reportTake s slot (rec_, j.toNat) ((shellOf s slot).rig.seats.length + k) r) := by
  change execGv4ActionReport p src lease j r s = _
  rw [execGv4ActionReport, h]
  dsimp only
  rw [hk]

theorem exec_leaseFaultReport_of_fixed {mech : Fin 16} {i : Nat} (hi : mechInterval mech.val = some i) (kind : U8) (tbd : U64) (f : Option U64) :
    exec (.leaseFaultReport p src lease mech kind tbd f) s =
      .next (safetyEvent s slot mech.val kind.toNat (some (tbd.toNat - i - 10000)) { tbDetect := tbd.toNat }) := by
  change execLeaseFaultReport p src lease mech kind tbd f s = _
  rw [execLeaseFaultReport, h]
  dsimp only
  rw [hi]
  rfl

theorem exec_leaseFaultReport_of_reported {mech : Fin 16} (hi : mechInterval mech.val = none) (kind : U8) (tbd : U64) (f : Option U64) :
    exec (.leaseFaultReport p src lease mech kind tbd f) s =
      .next (safetyEvent s slot mech.val kind.toNat (f.map (fun x => x.toNat - 10000)) { tbDetect := tbd.toNat }) := by
  change execLeaseFaultReport p src lease mech kind tbd f s = _
  rw [execLeaseFaultReport, h]
  dsimp only
  rw [hi, Option.map_map]
  rfl

end

end

end Sys2Proof
end

section
/-! Ademen's leases hold as O51 states them (14 R475 to R485, R496, 17 R563). -/
namespace Sys2Proof
open Sys2Proof.Machine

/-! ### The parts of O51 -/

section
variable {s : State} {h : GhHead}

/-- A repeated request at the lender has its stored response again. -/
theorem exec_leases_of_kept (htaken : admTaken s h = true) (r : BitVec 256) {k : GhKept} (hk : keptFor s h.src.toNat h.txn.toNat = some k) :
    exec (.leaseRequest h r) s = .next (answeredAgain s (admHeadOf s h) .leaseRequest k) ∧ exec (.leaseRenew h) s = .next (answeredAgain s (admHeadOf s h) .leaseRenew k) ∧
    exec (.leaseReturn h) s = .next (answeredAgain s (admHeadOf s h) .leaseReturn k) ∧ exec (.epochQuery h) s = .next (answeredAgain s (admHeadOf s h) .epochQuery k) := by
  change execLeaseRequest h r s = _ ∧ execLeaseRenew h s = _ ∧ execLeaseReturn h s = _ ∧ execEpochQuery h s = _
  unfold execLeaseRenew execLeaseReturn execEpochQuery leaseMsg
  exact ⟨admIn_of_kept htaken hk, admIn_of_kept htaken hk, admIn_of_kept htaken hk, admIn_of_kept htaken hk⟩

/-- A message for no lease of its sender is refused. -/
theorem exec_leaseMessages_of_unknown (htaken : admTaken s h = true) (hnew : keptFor s h.src.toNat h.txn.toNat = none) (hnone : lentNamed s (admHeadOf s h) = none) :
    exec (.leaseRenew h) s = .next (admAnswer s (admHeadOf s h) .leaseRenew false s.shardEpoch 0x0506 0 []) ∧
    exec (.epochQuery h) s = .next (admAnswer s (admHeadOf s h) .epochQuery false s.shardEpoch 0x0506 0 []) ∧
    exec (.leaseReturn h) s = .next (admAnswer s (admHeadOf s h) .leaseReturn false s.shardEpoch 0x0506 0 []) :=
  ⟨(leaseMsg_of_unknown htaken hnew hnone : execLeaseRenew h s = _), (leaseMsg_of_unknown htaken hnew hnone : execEpochQuery h s = _),
    (leaseMsg_of_unknown htaken hnew hnone : execLeaseReturn h s = _)⟩

theorem exec_leaseMessages_of_lent (htaken : admTaken s h = true) (hnew : keptFor s h.src.toNat h.txn.toNat = none) {l : LeaseOut} (hl : lentNamed s (admHeadOf s h) = some l) :
    exec (.epochQuery h) s = .next (admAnswer s (admHeadOf s h) .epochQuery false l.epoch 0 0 []) ∧
    exec (.leaseRenew h) s = .next (admAnswer { s with lent := s.lent.map (fun x => if x.id = l.id then { x with tbRenew := s.tb } else x) }
      (admHeadOf s h) .leaseRenew false l.epoch 0 0 []) ∧
    exec (.leaseReturn h) s = .next (lentSettle (leaseEnd (admHold s (admHeadOf s h) .leaseReturn []) l.id 1 (some (admHeadOf s h)))) :=
  ⟨(leaseMsg_of_lent htaken hnew hl : execEpochQuery h s = _), (leaseMsg_of_lent htaken hnew hl : execLeaseRenew h s = _),
    (leaseMsg_of_lent htaken hnew hl : execLeaseReturn h s = _)⟩

/-- A granted request: the lease stands, and the grant goes back. -/
theorem exec_leaseRequest_grants (htaken : admTaken s h = true) (hnew : keptFor s h.src.toNat h.txn.toNat = none) (r : BitVec 256) (hcode : lendCode s h.src.toNat r.toNat = 0) :
    ∃ t, exec (.leaseRequest h r) s = .next t ∧ t.shardEpoch = (s.shardEpoch + 1) % 2 ^ 32 ∧ t.nextLease = (s.nextLease + 1) % 2 ^ 32 ∧
      (∃ l ∈ t.lent, l.id = s.nextLease ∧ l.borrower = h.src.toNat ∧ l.epoch = t.shardEpoch ∧ l.kind = leaseKind r.toNat ∧
        l.res = lendable s (leaseKind r.toNat) (leaseCount r.toNat) ∧ l.ports = farEnds s h.src.toNat (leasePorts r.toNat) ∧ l.tbGrant = s.tb ∧ l.tbRenew = s.tb) ∧
      (s.ghWaiting = [] → HasCredit s → ∃ p a, t.sent.getLast? = some (.adm p a .leaseRequest true [r.toNat + s.nextLease * 2 ^ 208 + t.shardEpoch * 2 ^ 176]) ∧
        a.code = 0 ∧ a.txn = h.txn.toNat) := by
  have hexec := exec_leaseRequest_of_new htaken hnew r
  rw [if_pos hcode] at hexec
  obtain ⟨hepoch, hnext, l, hl, heq⟩ := leaseGrant_spec s (admHeadOf s h) r.toNat
  refine ⟨_, hexec, hepoch, hnext, ⟨l, hl, ?_⟩, fun hwaiting hcredit => ?_⟩
  · rw [hepoch]
    exact ⟨(congrArg LeaseOut.id heq :), (congrArg LeaseOut.borrower heq :), (congrArg LeaseOut.epoch heq :), (congrArg LeaseOut.kind heq :),
      (congrArg LeaseOut.res heq :), (congrArg LeaseOut.ports heq :), (congrArg LeaseOut.tbGrant heq :), (congrArg LeaseOut.tbRenew heq :)⟩
  · rw [hepoch]
    exact sent_leaseGrant (q := admHeadOf s h) (reaches_of_admTaken htaken) hwaiting hcredit

/-- The lease commands and the revocation act at full function alone. -/
theorem exec_leaseCommands_of_down (hdown : fullUp s = false) (m : U16) (id : U32) :
    exec (.admLentRevoke id) s = .next s ∧ exec (.admLeaseCmdRequest m) s = .next s ∧ exec (.admLeaseCmdReturn m id) s = .next s :=
  ⟨if_neg (ne_true_of_eq_false hdown), if_neg (ne_true_of_eq_false hdown), if_neg (ne_true_of_eq_false hdown)⟩

/-- What an answer leaves, when it leaves, and what is kept of it. -/
theorem admAnswer_spec (s : State) (q : AdmHead) (m : AdmMsg) (e c a : Nat) (b : List Nat) {t : State} (ht : admAnswer s q m false e c a b = t) :
    t = { s with ghKept := t.ghKept, ghPorts := t.ghPorts, ghWaiting := t.ghWaiting, sent := t.sent } ∧
    (reaches s q.src = true → s.ghWaiting = [] → HasCredit s →
      t.sent = s.sent ++ [.adm (portToward s q.src) { src := ownModule s, dst := q.src, txn := q.txn, epoch := e, code := c, key := q.key, arg := a } m true b]) ∧
    (reaches s q.src = false → t.sent = s.sent) ∧
    ∃ k, keptFor t q.src q.txn = some k ∧ k.head.code = c ∧ k.head.epoch = e ∧ k.head.arg = a ∧ k.body = b ∧ k.busy = false :=
  ⟨eq_of_admAnswer s q m false e c a b ht, fun hreach hwaiting hcredit => ht ▸ sent_admAnswer hreach hwaiting hcredit,
    fun hreach => ht ▸ sent_admAnswer_of_not_reaches hreach, _, ht ▸ keptFor_admAnswer s q m false e c a b, rfl, rfl, rfl, rfl, rfl⟩

/-- What a request leaves, and when it leaves. -/
theorem admSend_spec (s : State) (dst e k a : Nat) (m : AdmMsg) (b : List Nat) {t : State} (ht : admSend s dst m e k a b = t) :
    t = { s with ghTxn := (s.ghTxn + 1) % 2 ^ 32, ghMsgs := s.ghMsgs ++ [sentRequest s dst m e k a b], ghPorts := t.ghPorts, ghWaiting := t.ghWaiting, sent := t.sent } ∧
    (admPort s dst m k ≠ 17 → s.ghWaiting = [] → HasCredit s → t.sent = s.sent ++ [.adm (admPort s dst m k) (sentRequest s dst m e k a b).head m false b]) ∧
    (admPort s dst m k = 17 → t.sent = s.sent) ∧ (m ≠ .chOpen → m ≠ .chClose → admPort s dst m k = portToward s dst) ∧ (reaches s dst = true → portToward s dst ≠ 17) :=
  ⟨eq_of_admSend s dst e k a m b ht, fun hport hwaiting hcredit => ht ▸ sent_admSend hport hwaiting hcredit,
    fun hport => ht ▸ sent_admSend_of_none hport, admPort_of_portToward, portToward_ne_none⟩

/-- A request unanswered for ADM_RETRY_US is sent again, and after four times given up. -/
theorem exec_admRetryTimer_spec {n : U32} {m : GhMsg} (hm : s.ghMsgs.find? (fun m => m.head.txn == n.toNat) = some m) :
    (tbPast s.tb m.tbLast (pget s P.admRetryUs * 1000) = false → exec (.admRetryTimer n) s = .next s) ∧
    (tbPast s.tb m.tbLast (pget s P.admRetryUs * 1000) = true → m.once = false → m.sends < 4 → ∃ t, exec (.admRetryTimer n) s = .next t ∧
      t = { s with ghMsgs := s.ghMsgs.map (fun x => if x.head.txn = m.head.txn then { x with sends := m.sends + 1, tbLast := s.tb } else x), ghPorts := t.ghPorts, ghWaiting := t.ghWaiting, sent := t.sent } ∧
      (admPort s m.head.dst m.msg m.head.key ≠ 17 → s.ghWaiting = [] → HasCredit s → t.sent = s.sent ++ [.adm (admPort s m.head.dst m.msg m.head.key) m.head m.msg false m.body])) ∧
    (tbPast s.tb m.tbLast (pget s P.admRetryUs * 1000) = true → m.once = false → 4 ≤ m.sends →
      exec (.admRetryTimer n) s = .next (admOutcome { s with ghMsgs := s.ghMsgs.filter (fun x => x.head.txn != m.head.txn) } m 0x0503 0 0 0)) := by
  refine ⟨exec_admRetryTimer_of_early hm, fun hlate honce hsends => ?_, fun hlate honce hsends => ?_⟩
  · have hexec := exec_admRetryTimer_of_late hm hlate honce
    rw [if_pos hsends] at hexec
    exact ⟨_, hexec, eq_of_requestResent rfl, sent_requestResent⟩
  · have hexec := exec_admRetryTimer_of_late hm hlate honce
    rwa [if_neg (by omega)] at hexec

/-- What each seat action of a lease does to its seat. -/
theorem seatAct_spec (s : State) (l : LeaseOut) (j i : Nat) :
    seatAct s l j i .scrub = reportSend (seatScrub s i) l j .done ∧ seatOf (seatAct s l j i .scrub) i = seatFresh s (seatOf s i) ∧
    (seatOf (seatAct s l j i .stop) i).mode = .stopped ∧ (seatOf (seatAct s l j i .save) i).mode = .idle ∧
    (∀ sl n k e g, (seatOf (seatAct s l j i (.start sl n k e g)) i).mode = .run ∧ (seatOf (seatAct s l j i (.start sl n k e g)) i).core.pc = e.toNat) :=
  ⟨rfl, seatOf_seatAct_scrub s l j i, mode_seatAct_stop s l j i, mode_seatAct_save s l j i, fun _ _ _ _ _ => seatBegin_starts _ i _ _ _ _⟩

end

/-- Settles O51, part by part: the messages at a lender, what an answer and a request leave, the end of a lease, the commands and timers of
lender and borrower, and the packets of leased seats. -/
theorem leases : Obligations.Leases := by
  refine ⟨fun s h r m c => ⟨fun hdenied => exec_leases_of_denied hdenied r m c, fun htaken k hk => exec_leases_of_kept htaken r hk, fun htaken hnew => ⟨?_, ?_, ?_, ?_⟩,
      fun htaken => ⟨?_, ?_, ?_, ?_⟩⟩,
    fun s q m e c a b => admAnswer_spec s q m e c a b rfl, fun s id cause q l hl => leaseEnd_spec hl,
    fun s m id hdown => exec_leaseCommands_of_down hdown m id,
    fun s id => ⟨fun hl => ⟨exec_admLentRevoke_of_none hl, exec_leaseExpiryTimer_of_none hl⟩,
      fun l hl => ⟨exec_admLentRevoke_of_lent hl, fun hpast => ?_, fun hpast => ?_⟩⟩,
    fun s m id hup => ⟨fun code hcode => ⟨fun hne => ?_, fun hzero => ?_⟩, exec_admLeaseCmdReturn_of_none hup, fun l hl => exec_admLeaseCmdReturn_of_held hup hl⟩,
    fun s m id => ⟨fun hl => exec_leaseTimers_of_none hl, fun l hl => ⟨(exec_leaseTimers_of_some hl).1, fun hpast => ?_, fun hpast => ?_⟩⟩,
    fun s dst e k a m b => admSend_spec s dst e k a m b rfl,
    fun s n => ⟨exec_admRetryTimer_of_none, fun m hm => exec_admRetryTimer_spec hm⟩,
    fun s p src lease j a => ⟨fun hdown => exec_gv4SeatAction_of_down hdown p src lease j a, fun hup hl => exec_gv4SeatAction_of_none hup hl j a,
      fun hup l hl => ⟨fun hno => (exec_gv4SeatAction_of_lent hup hl j a).2 ?_, fun i hkind hi => ⟨(exec_gv4SeatAction_of_lent hup hl j a).1 i ?_, seatAct_spec s l j.toNat i⟩⟩⟩,
    fun s p src lease j r mech kind tbd f => ⟨leaseSlot_of_stranger, fun hnone => exec_lenderPackets_of_none hnone j r mech kind tbd f,
      fun slot rec_ hslot => ⟨(of_leaseSlot hslot).1, (of_leaseSlot hslot).2, fun k hk => exec_gv4ActionReport_of_seat hslot hk,
        fun i hi => exec_leaseFaultReport_of_fixed hslot hi kind tbd f, fun hi => exec_leaseFaultReport_of_reported hslot hi kind tbd f⟩⟩⟩
  · intro code hcode hne
    have hexec := exec_leaseRequest_of_new htaken hnew r
    rw [if_neg (by rw [← hcode] at hne; exact hne)] at hexec
    rw [← hcode]
    exact hexec
  · exact exec_leaseRequest_grants htaken hnew r
  · exact exec_leaseMessages_of_unknown htaken hnew
  · exact fun l hl => exec_leaseMessages_of_lent htaken hnew hl
  · exact fun l hl => exec_leaseRevoke_of_held htaken hl
  · exact exec_leaseRevoke_of_none htaken
  · exact exec_admResponse_of_none htaken c r
  · intro x hx
    refine ⟨fun hbit => (exec_admResponse_of_some htaken c r hx).trans ?_, fun hbit => (exec_admResponse_of_some htaken c r hx).trans ?_⟩
    · rw [if_pos hbit]
    · rw [if_neg (ne_true_of_eq_false hbit)]
  · rw [exec_leaseExpiryTimer_of_lent hl, if_pos hpast]
  · rw [exec_leaseExpiryTimer_of_lent hl, if_neg (ne_true_of_eq_false hpast)]
  · refine (exec_admLeaseCmdRequest_of_full hup m rfl rfl).trans ?_
    rw [if_pos (by rw [hcode]; exact hne), hcode]
  · refine (exec_admLeaseCmdRequest_of_full hup m rfl rfl).trans ?_
    rw [if_neg (by rw [hcode, hzero]; decide)]
  · rw [(exec_leaseTimers_of_some hl).2, if_pos hpast]
  · rw [(exec_leaseTimers_of_some hl).2, if_neg (ne_true_of_eq_false hpast)]
  · unfold leasedAt
    obtain hkind | hres := hno
    · exact if_neg hkind
    · rw [hres, ite_self]
  · rw [leasedAt, if_pos hkind, hi]

end Sys2Proof
end

section
/-! A mailbox after a lockstep stop (13 R434, 17 R560), which refutes O49. -/
namespace Sys2Proof
open Sys2Proof.Machine

/-- An OPEN that waits in function 0's mailbox of a device that has reached minimal safe function and whose releases a lockstep mismatch has stopped. -/
def stoppedMailbox : State :=
  { start := { msf := true, entry := false, releasesStopped := true }, mbxs := [(0, { busy := true, reqLen := 24, req := [(22, 1)] })] }

/-- The stopped Cox decides no request: the OPEN stays where it stands (16 R530, 17 R560). -/
theorem exec_papOpen_stoppedMailbox : exec (.papOpen (.mailbox 0)) stoppedMailbox = .next stoppedMailbox := by
  change execPapOpen (.mailbox 0) stoppedMailbox = _
  rfl

/-- Refutes O49: the statement has every request in a busy mailbox decided from minimal safe function on, but after a lockstep stop the Cox is
halted and the model (as 16 R530 asks) leaves the request where it stands. -/
theorem not_accessPortConversation : ¬ Obligations.AccessPortConversation := by
  intro h
  obtain ⟨-, -, hmailbox, -⟩ := h
  obtain ⟨hruns, -⟩ := hmailbox stoppedMailbox 0 0 false rfl
  obtain ⟨hopen, -⟩ := hruns rfl rfl rfl
  have heq := Host.Outcome.next.inj ((exec_papOpen_stoppedMailbox.symm.trans (hopen (by decide))))
  have hbusy := congrArg (fun t : State => (tget (fun _ => ({} : Mbx)) t.mbxs 0).busy) heq
  revert hbusy
  decide +kernel

end Sys2Proof
end

section
/-! Monitor events, a lockstep mismatch, and patrol scrub of the module's SRAM (17 R557 to R561). -/
namespace Sys2Proof
open Sys2Proof.Machine

/-! ### Monitor events (17 R559, R560, Table Safety-3) -/

section
variable {s : State}

theorem exec_monitorEvent_of_shells (hpower : s.pins.inputGood = true) {m : Monitor} (hm : m ≠ .md) :
    exec (.monitorEvent m) s = .next ((monitorLent s m).foldl (fun t x => lentFault t x.1 x.2 9 0x06 none { island := monitorIsland m })
      (safetyEvents (pinc s P.monitorEvents) (monitorShells s m) 9 0x06 { island := monitorIsland m })) := by
  change execMonitorEvent m s = _
  unfold execMonitorEvent
  rw [hpower]
  cases m with
  | md => exact absurd rfl hm
  | seatClock i => rfl
  | dieClock d => rfl
  | dieRail d => rfl
  | blockClock i => rfl
  | gddrRail k => rfl
  | ringClock k => rfl
  | ringRail => rfl

theorem start_powerForcePl7 (t : State) : (powerForcePl7 t).start = t.start := (congrArg State.start (outsideLevels_powerForcePl7 t) :)

/-- A lockstep stop stops every release. -/
theorem releasesStopped_lockstepStop (t : State) : (lockstepStop t).start.releasesStopped = true :=
  (congrArg StartSt.releasesStopped (start_powerForcePl7 _)).trans rfl

theorem exec_lockstep (hpower : s.pins.inputGood = true) :
    exec (.monitorEvent .md) s = .next (lockstepStop (pinc s P.monitorEvents)) ∧ exec .lockstepMismatch s = .next (lockstepStop s) := by
  change execMonitorEvent .md s = _ ∧ execLockstepMismatch s = _
  unfold execMonitorEvent execLockstepMismatch
  rw [hpower]
  exact ⟨rfl, rfl⟩

theorem mem_monitorShells_ringRail (n : Nat) : n ∈ monitorShells s .ringRail ↔ n < 32 ∧ (shellOf s n).st ≠ .free := mem_liveSlots

theorem mem_monitorShells_seatClock (n : Nat) (i : SeatId) :
    n ∈ monitorShells s (.seatClock i) ↔ n < 32 ∧ (shellOf s n).st ≠ .free ∧ i.val ∈ (shellOf s n).rig.seats := by
  simp only [monitorShells, List.mem_filter, List.mem_range, List.contains_iff_mem, bne_iff_ne, ne_eq]
  exact and_assoc

end

/-! ### Patrol scrub (17 R557, R568) -/

section
variable {s : State} (hup : s.start.islandsUp = true) {b : U64} {k : ChanCheck}
include hup

/-- A word of SRAM without an error changes nothing. -/
theorem exec_patrolScrubRead_of_sound (hk : k.error = .none) {u : PatrolUnit} (hu : ∀ c, u ≠ .chan c) : exec (.patrolScrubRead u b k) s = .next s := by
  change execPatrolScrubRead u b k s = _
  unfold execPatrolScrubRead
  rw [hup, hk]
  cases u with
  | chan c => exact absurd rfl (hu c)
  | seat i => rfl
  | icache i => rfl
  | dcache i => rfl
  | slice d l => exact ite_self _
  | md n => rfl

/-- A word under SECDED with one wrong bit is corrected and counted. -/
theorem exec_patrolScrubRead_of_single (hk : k.error = .single) {u : PatrolUnit} (hu : ∀ c, u ≠ .chan c) (hlines : ∀ i, u ≠ .icache i ∧ u ≠ .dcache i)
    (hword : ∀ d l, u = .slice d l → b.toNat < 0x80000) : exec (.patrolScrubRead u b k) s = .next (pinc s P.sramCorrected) := by
  change execPatrolScrubRead u b k s = _
  unfold execPatrolScrubRead
  rw [hup, hk]
  cases u with
  | chan c => exact absurd rfl (hu c)
  | seat i => rfl
  | icache i => exact absurd rfl (hlines i).1
  | dcache i => exact absurd rfl (hlines i).2
  | slice d l => exact if_pos (hword d l rfl)
  | md n => rfl

theorem exec_patrolScrubRead_seat (hk : k.error = .double) (i : SeatId) : exec (.patrolScrubRead (.seat i) b k) s = .next (patrolSeat s i.val) := by
  change execPatrolScrubRead (.seat i) b k s = _
  unfold execPatrolScrubRead
  rw [hup, hk]
  rfl

theorem exec_patrolScrubRead_icache (hk : k.error ≠ .none) (i : SeatId) :
    exec (.patrolScrubRead (.icache i) b k) s = .next (patrolLine s i.val true b.toNat false) := by
  change execPatrolScrubRead (.icache i) b k s = _
  unfold execPatrolScrubRead
  rw [hup]
  exact congrArg Host.Outcome.next (if_neg hk)

theorem exec_patrolScrubRead_dcache (hk : k.error ≠ .none) (i : SeatId) :
    exec (.patrolScrubRead (.dcache i) b k) s = .next (patrolLine s i.val false b.toNat (k.error == .double)) := by
  change execPatrolScrubRead (.dcache i) b k s = _
  unfold execPatrolScrubRead
  rw [hup]
  exact congrArg Host.Outcome.next (if_neg hk)

theorem exec_patrolScrubRead_slice (hk : k.error = .double) (hword : b.toNat < 0x80000) (d : Fin 16) (l : Fin 48) :
    exec (.patrolScrubRead (.slice d l) b k) s = .next (patrolSlice s (d.val * 48 + l.val) b.toNat) := by
  change execPatrolScrubRead (.slice d l) b k s = _
  unfold execPatrolScrubRead
  rw [hup, hk]
  exact if_pos hword

end

/-! ### A word of a seat -/

section
variable {s : State} {i : Nat}

/-- A word of a held seat is a safety event of its shell. -/
theorem patrolSeat_of_held {n : Nat} (hn : seatShell s i = some n) :
    patrolSeat s i = safetyEvent (pinc s P.sramUncorrectable) n 5 0x02 none { island := i } := by
  rw [patrolSeat, if_pos (.inl (by rw [hn]; rfl)), seatSafety, hn]
  rfl

/-- The state but for what counting an error and filing its record write. -/
def outsideFiling (s : State) : State := { s with fnRegs := [], sent := [], errSeq := 0, errLog := [], islands := [], fns := [], regs := [] }

theorem outsideFiling_sramFreeRecord (s : State) (island at_ : Nat) : outsideFiling (sramFreeRecord s island at_) = outsideFiling s :=
  (congrArg (fun t : State => { t with regs := [] }) (outsideErrors_fileError (mechCount s 5) _) :).trans rfl

theorem uncorrectable_sramFreeRecord (s : State) (island at_ : Nat) :
    pget (sramFreeRecord s island at_) P.sramUncorrectable = satInc32 (pget s P.sramUncorrectable) :=
  (pget_fileError _ _ _).trans (pget_pinc_self _ _)

/-- A record without a code leaves every island. -/
theorem islandOf_fileError_of_noCode (s : State) {e : ErrRec} (hcode : e.code = 0) (i : Nat) : islandOf (fileError s false e) i = islandOf s i := by
  unfold fileError
  dsimp only
  have hisland : ¬ (e.island < 2353 ∧ e.code ≠ 0) := fun h => h.2 hcode
  rw [if_neg Bool.false_ne_true, if_neg hisland]
  split
  · rfl
  · exact (congrArg (fun t => islandOf t i) (outsideCauses_raiseCause _ _ _) :)

/-- A seat that no shell holds is retired, with a record. -/
theorem seatRetire_of_free (hfree : seatShell s i = none) :
    seatRetire s i = fileError (copyRetired s i) false { kind := 0x0D, scope := 0, island := i, detail0 := seatIdent i } := by
  unfold seatRetire
  dsimp only
  rw [hfree]
  rfl

theorem patrolSeat_of_free (hshell : seatShell s i = none) (hlent : lentOf s i = none) (hhere : seatUnavailable s i = false) :
    patrolSeat s i = seatRetire (sramFreeRecord s i (seatIdent i)) i := by
  rw [patrolSeat, if_neg (by simp [hshell, hlent]), if_neg (ne_true_of_eq_false hhere)]

/-- A word of a seat that nobody holds retires the seat, and changes no shell, no seat and no memory. -/
theorem patrolSeat_retires (hshell : seatShell s i = none) (hlent : lentOf s i = none) (hhere : seatUnavailable s i = false) :
    i ∈ (patrolSeat s i).retiredSeats ∧ (islandOf (patrolSeat s i) i).st = .retired ∧ (patrolSeat s i).shells = s.shells ∧ (patrolSeat s i).seats = s.seats ∧
      (patrolSeat s i).mem = s.mem ∧ pget (patrolSeat s i) P.sramUncorrectable = satInc32 (pget s P.sramUncorrectable) := by
  rw [patrolSeat_of_free hshell hlent hhere]
  generalize hw : sramFreeRecord s i (seatIdent i) = w
  have hrest : outsideFiling w = outsideFiling s := hw ▸ outsideFiling_sramFreeRecord _ _ _
  have hfree : seatShell w i = none := (congrArg (seatShell · i) hrest :).trans hshell
  rw [seatRetire_of_free hfree]
  obtain ⟨hcopy, hst, -⟩ := copyRetired_spec w i
  have hfile : outsideErrors (fileError (copyRetired w i) false { kind := 0x0D, scope := 0, island := i, detail0 := seatIdent i }) = outsideErrors (copyRetired w i) :=
    outsideErrors_fileError _ _
  refine ⟨?_, ?_, ?_, ?_, ?_, ?_⟩
  · have hretired : (fileError (copyRetired w i) false { kind := 0x0D, scope := 0, island := i, detail0 := seatIdent i }).retiredSeats = sAdd w.retiredSeats i :=
      (congrArg State.retiredSeats hfile :)
    rw [hretired]
    exact mem_sAdd.2 (.inr rfl)
  · rw [islandOf_fileError_of_noCode _ rfl, hst]
  · exact (congrArg State.shells hfile :).trans ((congrArg State.shells hcopy :).trans (congrArg State.shells hrest :))
  · exact (congrArg State.seats hfile :).trans ((congrArg State.seats hcopy :).trans (congrArg State.seats hrest :))
  · exact (congrArg State.mem hfile :).trans ((congrArg State.mem hcopy :).trans (congrArg State.mem hrest :))
  · rw [pget_fileError, ← uncorrectable_sramFreeRecord s i (seatIdent i), hw]
    exact (congrArg (pget · P.sramUncorrectable) hcopy :)

end

/-! ### A line of a cache -/

section
variable {s : State} {i ga : Nat} {l : DLine} (hga : l.ga = ga / 64 * 64)
include hga

theorem patrolLine_icache (hl : l ∈ (seatOf s i).core.icache) : patrolLine s i true ga false =
    pinc (corePut s i { (seatOf s i).core with icache := (seatOf s i).core.icache.filter (fun x => !(x.ga == l.ga)) }) P.sramCorrected := by
  unfold patrolLine
  dsimp only
  rw [← hga, if_pos rfl]
  exact if_pos (List.any_eq_true.2 ⟨l, hl, beq_self_eq_true l.ga⟩)

theorem patrolLine_dcache (hl : (seatOf s i).core.dcache.find? (fun x => x.ga == l.ga) = some l) (hclean : l.dirty = false) (bad : Bool) :
    patrolLine s i false ga bad =
      pinc (corePut s i { (seatOf s i).core with dcache := (seatOf s i).core.dcache.filter (fun x => !(x.ga == l.ga)) }) P.sramCorrected := by
  unfold patrolLine
  dsimp only
  rw [← hga, hl]
  dsimp only
  rw [hclean]
  rfl

omit hga in
/-- A line that is filtered out is gone from its cache. -/
theorem ga_ne_of_mem_filter {c : List DLine} {x : DLine} (hx : x ∈ c.filter (fun x => !(x.ga == l.ga))) : x.ga ≠ l.ga := by
  simpa using (List.mem_filter.1 hx).2

end

/-- The core of a seat after its write and a count. -/
theorem core_pinc_corePut (s : State) (i : Nat) (c : Core) (k : Nat) : (seatOf (pinc (corePut s i c) k) i).core = c := by
  rw [seatOf_of_pinc, corePut, seatOf_seatPut_self]

/-! ### A word of a die slice -/

section
variable {s : State} {k w : Nat}

/-- A word of a slice that nothing holds retires the slice. -/
theorem patrolSlice_of_free (hfree : sliceOwner s k = none) : sliceOwner (patrolSlice s k w) k = some 34 ∧
    pget (patrolSlice s k w) P.sramUncorrectable = satInc32 (pget s P.sramUncorrectable) ∧ (patrolSlice s k w).mem = s.mem := by
  have heq : patrolSlice s k w = { sramFreeRecord s (2304 + k / 48) (sliceBase k + 8 * w) with slices := tins (tdel s.slices k) k 34 } := by
    rw [patrolSlice, hfree]
  rw [heq]
  exact ⟨tfind_tins_tdel_self _ _ _, uncorrectable_sramFreeRecord _ _ _, (congrArg State.mem (outsideFiling_sramFreeRecord _ _ _) :)⟩

/-- A word of a held slice is noted as one that cannot be corrected. -/
theorem patrolSlice_of_held {o : Nat} (ho : sliceOwner s k = some o) (hheld : o < 33) :
    patrolSlice s k w = { pinc s P.sramUncorrectable with sliceBad := sAdd s.sliceBad (sliceBase k + 8 * w) } := by
  unfold patrolSlice
  split
  next h =>
    cases ho.symm.trans h
    omega
  next h => cases ho.symm.trans h
  next h =>
    cases ho.symm.trans h
    omega
  next => rfl

/-- A read that meets a bad word of a slice is answered POISONED. -/
theorem placeRead_of_sliceBad {t : State} {word : Nat} (hbad : word ∈ t.sliceBad) {a n : Nat} (hlo : a < word + 8) (hhi : word < a + n) (x : Outside) :
    (placeRead t (.cell a none none) n x).1 = stPoisoned := by
  have hmeets : sliceMeetsBad t a n = true := List.any_eq_true.2 ⟨word, hbad, by simp [hlo, hhi]⟩
  change (if sliceMeetsBad t a n then (stPoisoned, [], x) else (stOk, cellRead t a n, x)).1 = stPoisoned
  rw [if_pos hmeets]

end

/-- Settles O11, part by part: monitor events and the lockstep stop, the shells that a monitor reaches, and the words that patrol scrub reads. -/
theorem safetyEvents : Obligations.SafetyEvents := by
  refine ⟨fun s m hpower hm => exec_monitorEvent_of_shells hpower hm,
    fun s hpower => ⟨⟨_, (exec_lockstep hpower).1, releasesStopped_lockstepStop _⟩, ⟨_, (exec_lockstep hpower).2, releasesStopped_lockstepStop _⟩⟩,
    fun s n => mem_monitorShells_ringRail n, fun s n i => mem_monitorShells_seatClock n i, fun s => rfl,
    fun s u b k hup hu => ⟨fun hk => exec_patrolScrubRead_of_sound hup hk hu, fun hk hlines hword => exec_patrolScrubRead_of_single hup hk hu hlines hword⟩,
    fun s i b k n hup hk hn => (exec_patrolScrubRead_seat hup hk i).trans (congrArg Host.Outcome.next (patrolSeat_of_held hn)),
    fun s i b k hup hk hshell hlent hhere => ⟨_, exec_patrolScrubRead_seat hup hk i, patrolSeat_retires hshell hlent hhere⟩,
    fun s i b k l hup hk hga => ⟨fun hl => ⟨_, exec_patrolScrubRead_icache hup hk i, ?_⟩, fun hl hclean => ⟨_, exec_patrolScrubRead_dcache hup hk i, ?_⟩⟩,
    fun s d l w k hup hk hword => ⟨fun hfree => ⟨_, exec_patrolScrubRead_slice hup hk hword d l, patrolSlice_of_free hfree⟩,
      fun o ho hheld => ⟨_, exec_patrolScrubRead_slice hup hk hword d l, ?_⟩⟩⟩
  · rw [patrolLine_icache hga hl]
    refine ⟨fun x hx => ?_, pget_pinc_self _ _, rfl⟩
    rw [core_pinc_corePut] at hx
    exact ga_ne_of_mem_filter hx
  · rw [patrolLine_dcache hga hl hclean]
    refine ⟨fun x hx => ?_, pget_pinc_self _ _, rfl⟩
    rw [core_pinc_corePut] at hx
    exact ga_ne_of_mem_filter hx
  · rw [patrolSlice_of_held ho hheld]
    exact ⟨rfl, pget_pinc_self _ _, fun a n x hlo hhi => placeRead_of_sliceBad (mem_sAdd.2 (.inr rfl)) hlo hhi x⟩

end Sys2Proof
end

section
/-! Stopping jobs leaves the pins and the state of the start (16 R526, R528). Nothing that ends a job, loses a context or drains a window writes them.
The lemma of an operation `f` is `Rooted.f`, so that the proof of an operation reads as the chain of those it is made of. The lemmas stand in the
order of the model's files. -/
namespace Sys2Proof
open Sys2Proof.Machine

/-! ### Pins and start as given, and the forms that an operation is built from -/

/-- A state with given pins and a given state of its start. -/
structure Rooted (ρ : Pins × StartSt) (s : State) : Prop where
  pins : s.pins = ρ.1
  start : s.start = ρ.2

/-- The answers of an operation that may answer no state, and whose state has given pins and a given start. -/
inductive OptionRooted (ρ : Pins × StartSt) : Option State → Prop
  | protected none : OptionRooted ρ none
  | protected some {s : State} (h : Rooted ρ s) : OptionRooted ρ (some s)

protected theorem OptionRooted.of_some {o : Option State} (h : OptionRooted ρ o) (e : o = some s) : Rooted ρ s := by
  rw [e] at h
  cases h
  assumption

protected theorem OptionRooted.ite {c : Prop} [Decidable c] {a b : Option State} (ha : OptionRooted ρ a) (hb : OptionRooted ρ b) :
    OptionRooted ρ (if c then a else b) := by
  split
  · exact ha
  · exact hb

/-- Any update that takes the pins and the start as they stand. -/
protected theorem Rooted.update {power : PowerSt} (h : Rooted ρ s) :
    Rooted ρ {
      pending, tb, sent, regs, staged, octs, stagedOcts, pins := s.pins, start := s.start, retained, flash, islands, mem, shells,
      seats, scrubSeats, scrubChans, retiredSeats, images, chans, cxlPorts, cxlRanges, cxlRun, cxlScrub, hostGen,
      hostWidth, ringDerate, tbCapacity, scaleHold, pace, slices, sliceBad, seqSlots, atc, rangeCaches, red, redAcks,
      upstream, refused, late, tbHold, linkRate, fns, fnRegs, numVfs, ctxs, nextCtxId, freeIds, swapping, ucRecs,
      dmwr, advWaits, advFar, bhFwd, sprints, nextId, errSeq, errLog, sessions, endpoints, nextSession, freeSessions,
      mbxs, eids, mctpIn, papQueue, mctpOffer, mctpCount, tbMctp, wake, ghPorts, ghTxn, ghTag, ghWaiting, ghMsgs,
      ghKept, ghLate, shardEpoch, nextLease, borrowed, lent, lendLog, lentEnding, gchans, bhHomes, bhHeld,
      bhApertures, bhChannels, bhRanges, power, fw, freeCtr } :=
  ⟨h.pins, h.start⟩

/-- The state of a pair, when the pair is known in its parts. -/
protected theorem Rooted.of_fst {β : Type} {p : State × β} {t : State} {b : β} (h : Rooted ρ p.1) (e : p = (t, b)) : Rooted ρ t := by
  rw [e] at h
  exact h

protected theorem Rooted.pair {β : Type} {s : State} {b : β} (h : Rooted ρ s) : Rooted ρ (s, b).1 := h

protected theorem Rooted.ite {c : Prop} [Decidable c] {s t : State} (hs : Rooted ρ s) (ht : Rooted ρ t) : Rooted ρ (if c then s else t) := by
  split
  · exact hs
  · exact ht

protected theorem Rooted.ite_fst {β : Type} {c : Prop} [Decidable c] {p q : State × β} (hp : Rooted ρ p.1) (hq : Rooted ρ q.1) :
    Rooted ρ (if c then p else q).1 := by
  split
  · exact hp
  · exact hq

protected theorem Rooted.foldl {α : Type} {l : List α} {f : State → α → State} {s : State} (h : Rooted ρ s)
    (hf : ∀ s x, Rooted ρ s → Rooted ρ (f s x)) : Rooted ρ (l.foldl f s) := List.foldlRecOn l f h fun s hs x _ => hf s x hs

protected theorem Rooted.foldl_fst {α β : Type} {l : List α} {f : State × β → α → State × β} {p : State × β}
    (h : Rooted ρ p.1) (hf : ∀ p x, Rooted ρ p.1 → Rooted ρ (f p x).1) : Rooted ρ (l.foldl f p).1 :=
  List.foldlRecOn (motive := fun p => Rooted ρ p.1) l f h fun p hp x _ => hf p x hp

/-! ### The operations of a job's end -/

protected theorem Rooted.pset (h : Rooted ρ s) : Rooted ρ (pset s k v) := h.update

protected theorem Rooted.pinc (h : Rooted ρ s) : Rooted ρ (pinc s k) := h.pset

protected theorem Rooted.ctxPut (h : Rooted ρ s) : Rooted ρ (ctxPut s k v) := h.update

protected theorem Rooted.shellPut (h : Rooted ρ s) : Rooted ρ (shellPut s k v) := h.update

protected theorem Rooted.seatPut (h : Rooted ρ s) : Rooted ρ (seatPut s k v) := h.update

protected theorem Rooted.chanPut (h : Rooted ρ s) : Rooted ρ (chanPut s k v) := h.update

protected theorem Rooted.islandPut (h : Rooted ρ s) : Rooted ρ (islandPut s k v) := h.update

protected theorem Rooted.fnStPut (h : Rooted ρ s) : Rooted ρ (fnStPut s k v) := h.update

protected theorem Rooted.sprintPut (h : Rooted ρ s) : Rooted ρ (sprintPut s k v) := h.update

protected theorem Rooted.wakePut (h : Rooted ρ s) : Rooted ρ (wakePut s k v) := h.update

protected theorem Rooted.imagePut (h : Rooted ρ s) : Rooted ρ (imagePut s k v) := h.update

protected theorem Rooted.portPut (h : Rooted ρ s) : Rooted ρ (portPut s k v) := h.update

protected theorem Rooted.sliceHeal (h : Rooted ρ s) : Rooted ρ (sliceHeal s a n) := h.update

protected theorem Rooted.fnPut (h : Rooted ρ s) : Rooted ρ (fnPut s fn off v) := h.update

protected theorem Rooted.emit (h : Rooted ρ s) : Rooted ρ (emit s x) := h.update

protected theorem Rooted.ghOut (h : Rooted ρ s) : Rooted ρ (ghOut s w) := .ite h (.ite h.portPut.emit h.update)

protected theorem Rooted.freeNext (h : Rooted ρ s) : Rooted ρ (freeNext s) := h.update

protected theorem Rooted.memWrite (h : Rooted ρ s) : Rooted ρ (memWrite s a b) := h.update

protected theorem Rooted.remotePut (h : Rooted ρ s) : Rooted ρ (remotePut s slot x v) := h.shellPut

protected theorem Rooted.ghSeatSend (h : Rooted ρ s) : Rooted ρ (ghSeatSend s dst ports bulk x) := by
  unfold ghSeatSend
  split
  · exact h.ghOut
  · exact h

protected theorem Rooted.remoteSend (h : Rooted ρ s) : Rooted ρ (remoteSend s slot x a v) := h.remotePut.ghSeatSend

protected theorem Rooted.scratchWrite (h : Rooted ρ s) : Rooted ρ (scratchWrite s seat off b) := by
  unfold scratchWrite
  dsimp only
  split
  · exact h.memWrite
  · exact .ite h.memWrite.seatPut h.memWrite

protected theorem Rooted.pegPut (h : Rooted ρ s) : Rooted ρ (pegPut s seat p v) := h.seatPut

protected theorem Rooted.egressTrigger (h : Rooted ρ s) : Rooted ρ (egressTrigger s slot lseat seat peg) :=
  h.foldl fun _ _ h => .ite h.pinc (.ite h.pegPut.pinc h.sprintPut)

protected theorem Rooted.pegWrite (h : Rooted ρ s) : Rooted ρ (pegWrite s seat p v) := by
  unfold pegWrite
  dsimp only
  refine .ite ?_ h.pegPut
  split
  · exact h.pegPut.egressTrigger
  · exact h.pegPut

protected theorem Rooted.chanTouch (h : Rooted ρ s) : Rooted ρ (chanTouch s c off n) :=
  h.foldl fun _ _ h => .ite h (.ite h.chanPut h.freeNext.chanPut)

protected theorem Rooted.cellWrite (h : Rooted ρ s) : Rooted ρ (cellWrite s a chan b) := by
  unfold cellWrite
  dsimp only
  split
  · exact h.memWrite.sliceHeal
  · exact h.memWrite.chanTouch.chanPut.pset

protected theorem Rooted.engineWrite (h : Rooted ρ s) : Rooted ρ (engineWrite s ga b) := by
  unfold engineWrite
  refine .ite h.emit ?_
  -- the route by a name, so that no check of a case computes it
  obtain ⟨route, hroute⟩ := exists_eq' (a' := reach s 2352)
  rw [hroute]
  split
  · exact h
  · split
    · exact h.islandPut
    · exact .ite h.cellWrite h.update

protected theorem Rooted.areaWrite (h : Rooted ρ s) : Rooted ρ (areaWrite s slot k p b) := h.foldl fun _ _ h => h.cellWrite

protected theorem Rooted.imageChange (h : Rooted ρ s) : Rooted ρ (imageChange s key im off new) := by
  unfold imageChange
  dsimp only
  split
  · exact .ite h.imagePut.pinc.areaWrite h.imagePut.pinc
  · exact h.imagePut.pinc.engineWrite.engineWrite

protected theorem Rooted.imageWrite (h : Rooted ρ s) : Rooted ρ (imageWrite s key l off b) := h.imageChange

protected theorem Rooted.imagePegWrite (h : Rooted ρ s) : Rooted ρ (imagePegWrite s key l p v) := h.imageChange

protected theorem Rooted.countDenied (h : Rooted ρ s) : Rooted ρ (countDenied s seat) := h.seatPut

protected theorem Rooted.farSend (h : Rooted ρ s) : Rooted ρ (farSend s port dst gv kind id0 off agent op data) :=
  h.update.ghOut

protected theorem Rooted.countClosed (h : Rooted ρ s) : Rooted ρ (countClosed s n) := h.islandPut

protected theorem Rooted.hostPost (h : Rooted ρ s) : Rooted ρ (hostPost s a b) := .ite h.freeNext.emit h.freeNext.emit

protected theorem Rooted.placeWrite (h : Rooted ρ s) : Rooted ρ (placeWrite s p b o).1 := by
  unfold placeWrite
  split
  · dsimp only
    split
    · exact h.cellWrite.cellWrite
    · exact h.cellWrite
  · exact .ite_fst (.pair h.scratchWrite) (.pair h.countDenied)
  · exact .pair h.pegWrite
  · exact .pair h.pinc
  · exact h
  · exact .pair (.ite h.imagePegWrite h.imageWrite)
  · exact .pair (.ite h.farSend h.farSend)
  · exact .pair h.hostPost
  · exact h
  · exact h
  · exact .pair h.countClosed

protected theorem Rooted.askAtomic (h : Rooted ρ s) : Rooted ρ (askAtomic s p w op v) := by
  unfold askAtomic
  split
  · exact h.farSend
  · exact h.emit
  · exact h

protected theorem Rooted.askRead (h : Rooted ρ s) : Rooted ρ (askRead s p n) := by
  unfold askRead
  split
  · exact h.farSend
  · exact h.emit
  · exact h

protected theorem Rooted.placeAtomic (h : Rooted ρ s) : Rooted ρ (placeAtomic s p w op v o).1 := by
  unfold placeAtomic
  dsimp only
  split
  · refine .ite_fst ?_ h
    refine .pair ?_
    split
    · exact h.cellWrite.cellWrite
    · exact h.cellWrite
  · exact .ite_fst (.pair h.scratchWrite) (.pair h.countDenied)
  · exact .ite_fst h (.pair h.imageWrite)
  · exact h
  · exact h
  · exact h
  · exact h
  · exact .ite_fst h h
  · exact h
  · exact h
  · exact h

protected theorem Rooted.farRespond (h : Rooted ρ s) : Rooted ρ (farRespond s port kind id0 agent tag st b) := h.ghOut

protected theorem Rooted.countRefused (h : Rooted ρ s) : Rooted ρ (countRefused s st) := .ite h.update h

protected theorem Rooted.keptRaise (h : Rooted ρ s) : Rooted ρ (keptRaise s cid i v) := by
  unfold keptRaise
  dsimp only
  split
  · exact h
  · exact .ite h.ctxPut h

protected theorem Rooted.waitsDue (h : Rooted ρ s) : Rooted ρ (waitsDue s ga) := .ite h.update h

protected theorem Rooted.advanced (h : Rooted ρ s) : Rooted ρ (advanced s cid i v) := by
  unfold advanced
  split
  · exact h
  · exact h.keptRaise.waitsDue

protected theorem Rooted.netAnswer (h : Rooted ρ s) : Rooted ρ (netAnswer s back st b) := by
  unfold netAnswer
  split
  · exact h.countRefused
  · exact h.emit
  · exact h.seatPut
  · exact h.farRespond
  · exact h.advanced

protected theorem Rooted.netReply (h : Rooted ρ s) : Rooted ρ (netReply s whole back st b) := by
  unfold netReply
  refine .ite h.netAnswer ?_
  split
  · exact h.countRefused
  · exact h
  · exact h
  · exact h.pinc.netAnswer

protected theorem Rooted.pegRelease (h : Rooted ρ s) : Rooted ρ (pegRelease s seat) :=
  h.foldl fun _ _ h => .ite h h.seatPut.pegWrite.netReply

protected theorem Rooted.reqApplied (h : Rooted ρ s) : Rooted ρ (reqApplied s seat src) := h.seatPut.pegRelease

protected theorem Rooted.writeAt (h : Rooted ρ s) : Rooted ρ (writeAt s kind p b o).1 := by
  unfold writeAt
  split
  · exact .pair h.scratchWrite
  · exact h.placeWrite

protected theorem Rooted.netLand (h : Rooted ρ s) : OptionRooted ρ (netLand s w k o) := by
  unfold netLand
  dsimp only
  split
  · exact .ite (.some h.shellPut) .none
  · exact .ite (.ite (.some h.seatPut) .none) (.some h.pegWrite.netReply)
  · exact .some h.placeWrite.netReply
  · exact .some h.askRead.netReply
  · split
    · exact .some (.ite h.writeAt.netReply h.writeAt.netReply.reqApplied)
    · exact .some h.writeAt.netReply
  · exact .some h.askAtomic.placeAtomic.netReply

protected theorem Rooted.netSend (h : Rooted ρ s) : Rooted ρ (netSend first s k o) := by
  unfold netSend
  extract_lets _ wait _
  have hwait : Rooted ρ wait := h.update
  refine .ite hwait ?_
  split
  · next heq => exact h.netLand.of_some heq
  · exact .ite hwait.pinc hwait

protected theorem Rooted.netSettle (h : Rooted ρ s) : Rooted ρ (netSettle s) := .foldl h.update (fun _ _ h => h.netSend)

protected theorem Rooted.fenceMax (h : Rooted ρ s) : Rooted ρ (fenceMax s p cid i v).1 := by
  unfold fenceMax
  split
  · refine .ite_fst h ?_
    split
    · exact .ite_fst (.pair h.netSend) h
    · exact h
  · exact .pair h.update.askAtomic
  · dsimp only
    exact h.pset.placeAtomic
  · dsimp only
    exact h.placeAtomic

protected theorem Rooted.heldDeliver (h : Rooted ρ s) : Rooted ρ (heldDeliver s slot) := h.shellPut.update.netSettle

protected theorem Rooted.holdEnds (h : Rooted ρ s) : Rooted ρ (holdEnds s slot) := .ite h h.update

protected theorem Rooted.windowsLocal (h : Rooted ρ s) : Rooted ρ (windowsLocal s slot) := h.holdEnds.shellPut.heldDeliver

protected theorem Rooted.seatHalt (h : Rooted ρ s) : Rooted ρ (seatHalt s seat) := h.seatPut

protected theorem Rooted.haltSeats (h : Rooted ρ s) : Rooted ρ (haltSeats s slot) :=
  .foldl (h.foldl (fun _ _ h => h.seatHalt)) (fun _ _ h => .ite h h.remoteSend)

protected theorem Rooted.wakeAppend (h : Rooted ρ s) : Rooted ρ (wakeAppend s slot r) := h.wakePut

protected theorem Rooted.msixSend (h : Rooted ρ s) : Rooted ρ (msixSend s fn vec) := .ite h (.ite h.fnPut h.emit)

protected theorem Rooted.raiseCause (h : Rooted ρ s) : Rooted ρ (raiseCause s fn c) := .ite h (.ite h.fnPut h.fnPut.msixSend)

protected theorem Rooted.ucStore (h : Rooted ρ s) : Rooted ρ (ucStore s fn r) := .raiseCause (.ite h.pinc h.fnPut.update)

protected theorem Rooted.writeRecord (h : Rooted ρ s) : Rooted ρ (writeRecord s cid n r).1 := by
  unfold writeRecord
  dsimp only
  refine .ite_fst h ?_
  refine .ite_fst (.pair (.ite h.pinc h)) ?_
  split
  · exact .pair h.ucStore.ctxPut
  · refine .ite_fst (.pair h.ctxPut.emit.update.raiseCause) ?_
    exact .pair h.ctxPut.emit.raiseCause

protected theorem Rooted.fenceHostWrite (h : Rooted ρ s) : Rooted ρ (fenceHostWrite s cid i b ga v own) := by
  unfold fenceHostWrite
  extract_lets _ _ _ _ s2
  have h2 : Rooted ρ s2 := h.ctxPut.emit.waitsDue
  exact .ite h.ctxPut.emit.update (.ite h2.keptRaise h2)

protected theorem Rooted.advanceBinding (h : Rooted ρ s) : Rooted ρ (advanceBinding s cid i v).1 := by
  unfold advanceBinding
  dsimp only
  split
  · exact h
  · refine .ite_fst h ?_
    split
    · exact .pair h.ucStore
    · exact .pair h.update.emit
    · refine .ite_fst ?_ ?_
      · split
        · exact .pair h.ucStore
        · exact .pair h.fenceHostWrite
      · split
        · next heq =>
            have h1 := h.fenceMax.of_fst heq
            exact .ite_fst (.pair h1.advanced) h1
        · next heq => exact .pair (h.fenceMax.of_fst heq)

protected theorem Rooted.poisonBindings (h : Rooted ρ s) : Rooted ρ (poisonBindings s cid) := by
  unfold poisonBindings
  refine h.foldl fun _ _ h => ?_
  split
  · exact h
  · exact .ite h.pinc.advanceBinding h

protected theorem Rooted.retireAdvance (h : Rooted ρ s) : Rooted ρ (retireAdvance s cid advEn i v status).1 :=
  .ite_fst h.advanceBinding h

protected theorem Rooted.retireRing (h : Rooted ρ s) : Rooted ρ (retireRing s cid n r record advEn i v).1 := by
  unfold retireRing
  dsimp only
  exact .ctxPut (.retireAdvance (.ite_fst h.writeRecord h))

protected theorem Rooted.callSettle (h : Rooted ρ s) : Rooted ρ (callSettle s cid seq).1 := by
  unfold callSettle
  dsimp only
  split
  · exact h
  · exact .ite_fst h.ctxPut.retireRing h

protected theorem Rooted.retireEntry (h : Rooted ρ s) : Rooted ρ (retireEntry s cid e r advEn i v).1 := by
  unfold retireEntry
  dsimp only
  split
  · exact .pair h.retireAdvance
  · refine .pair ?_
    refine .callSettle ?_
    refine .foldl_fst (.pair h.retireAdvance.ctxPut) fun _ _ h => ?_
    exact .pair h.retireAdvance

protected theorem Rooted.retireAny (h : Rooted ρ s) : Rooted ρ (retireAny s cid entry n r record advEn i v).1 := by
  unfold retireAny
  split
  · exact h.retireRing
  · exact h.retireEntry

protected theorem Rooted.okLeaves (h : Rooted ρ s) : Rooted ρ (okLeaves s slot) := h.shellPut

protected theorem Rooted.sprintAnswer (h : Rooted ρ s) : Rooted ρ (sprintAnswer s n seq status body recBytes claim) := by
  unfold sprintAnswer
  extract_lets _ _ _ _ s1 s2
  have h1 : Rooted ρ s1 := by
    unfold s1
    split
    · exact h.sprintPut.pinc
    · exact h.sprintPut.emit.emit
  have h2 : Rooted ρ s2 := .ite h1.okLeaves h1
  exact .ite h (.ite h2.wakeAppend h2)

protected theorem Rooted.sprintAnswerZero (h : Rooted ρ s) : Rooted ρ (sprintAnswerZero s n seq status) := h.sprintAnswer

protected theorem Rooted.sprintAnswerAll (h : Rooted ρ s) : Rooted ρ (sprintAnswerAll s n status) :=
  .sprintPut (h.foldl (fun _ _ h => h.sprintAnswerZero))

protected theorem Rooted.sprintJobEnded (h : Rooted ρ s) : Rooted ρ (sprintJobEnded s slot cid) :=
  h.foldl fun _ _ h => h.sprintAnswerAll.sprintPut

protected theorem Rooted.jobRetire (h : Rooted ρ s) : Rooted ρ (jobRetire s slot j).1 := by
  unfold jobRetire
  dsimp only
  exact .ctxPut (.ite h.wakeAppend.retireAny.okLeaves h.wakeAppend.retireAny)

protected theorem Rooted.leasesJoin (h : Rooted ρ s) : Rooted ρ (leasesJoin s slot) := .ite h.shellPut h

protected theorem Rooted.freezeEnter (h : Rooted ρ s) : Rooted ρ (freezeEnter s slot) := h.shellPut

protected theorem Rooted.jobLeave (h : Rooted ρ s) : Rooted ρ (jobLeave s slot) :=
  .ite h.leasesJoin (.ite h.leasesJoin.freezeEnter (.ite h.leasesJoin.shellPut h.leasesJoin))

protected theorem Rooted.jobHalt (h : Rooted ρ s) : Rooted ρ (jobHalt s slot) := by
  unfold jobHalt
  dsimp only
  split
  · exact h
  · exact h.haltSeats.sprintJobEnded.shellPut.jobLeave

protected theorem Rooted.lossRetire (h : Rooted ρ s) : Rooted ρ (lossRetire s slot j cause silent) :=
  .ite h.ctxPut.wakeAppend h.jobRetire

protected theorem Rooted.preemptedEnd (h : Rooted ρ s) : Rooted ρ (preemptedEnd s slot j) := by
  unfold preemptedEnd
  extract_lets s1
  have h1 : Rooted ρ s1 := h.sprintJobEnded.imagePut
  exact .ite h1.shellPut.windowsLocal h1.shellPut

protected theorem Rooted.lossOnShell (h : Rooted ρ s) : Rooted ρ (lossOnShell cid cause silent s slot) := by
  unfold lossOnShell
  extract_lets _ s1 _ s2
  have h1 : Rooted ρ s1 := by
    unfold s1
    split
    · exact .ite h.jobHalt.lossRetire h
    · exact h
  have h2 : Rooted ρ s2 := .foldl h1 (fun _ _ h => h.preemptedEnd.lossRetire)
  exact .ite h2.jobLeave h2

protected theorem Rooted.faultFlush (h : Rooted ρ s) : Rooted ρ (faultFlush s fn k) := by
  induction k generalizing s with
  | zero => exact h
  | succ k ih =>
    unfold faultFlush
    extract_lets _
    split
    · exact h
    · exact .ite (ih (.raiseCause (.pinc (.emit (.ite h.fnStPut h.fnStPut.ctxPut))))) h

protected theorem Rooted.faultDeliver (h : Rooted ρ s) : Rooted ρ (faultDeliver s cid seq lost tbOpen recs) :=
  h.fnStPut.faultFlush

protected theorem Rooted.faultLose (h : Rooted ρ s) : Rooted ρ (faultLose s cid) := .ite h.ctxPut h.ctxPut.faultDeliver

protected theorem Rooted.faultDiscard (h : Rooted ρ s) : Rooted ρ (faultDiscard s cid) := h.ctxPut.fnStPut

protected theorem Rooted.flushLost (h : Rooted ρ s) : Rooted ρ (flushLost s cid n).1 := by
  induction n generalizing s with
  | zero => exact h
  | succ n ih =>
    unfold flushLost
    extract_lets _
    split
    · exact h
    · refine .ite_fst (.pair (ih ?_)) h
      split
      · exact h.ctxPut.writeRecord.advanceBinding
      · exact h.ctxPut.writeRecord

protected theorem Rooted.ctxLoss (h : Rooted ρ s) : Rooted ρ (ctxLoss s cid cause silent) := by
  unfold ctxLoss
  extract_lets _ _ s1 s2 _ _ _ _ _ _ _ _ s3 _ s4' s4 s5
  have h1 : Rooted ρ s1 := .ite h.ctxPut.faultDiscard h.ctxPut.faultLose
  have h2 : Rooted ρ s2 := h1.foldl fun _ _ h => h.lossOnShell
  have h3 : Rooted ρ s3 := h2.ctxPut
  have h4' : Rooted ρ s4' := h3.foldl fun _ _ h => h.retireRing
  have h4 : Rooted ρ s4 := .ite h3.ctxPut (.flushLost (h4'.foldl fun _ _ h => h.callSettle))
  have h5 : Rooted ρ s5 := h4.poisonBindings
  exact .ite (.ite h5 h5.raiseCause) h

protected theorem Rooted.jobDeliver (h : Rooted ρ s) : Rooted ρ (jobDeliver s slot j) := .ite h.jobRetire h.jobRetire.ctxLoss

protected theorem Rooted.jobStop (h : Rooted ρ s) : Rooted ρ (jobStop s slot st det) := by
  unfold jobStop
  split
  · exact h
  · exact h.jobHalt.jobDeliver

protected theorem Rooted.preemptedAbort (h : Rooted ρ s) : Rooted ρ (preemptedAbort s slot) := by
  unfold preemptedAbort
  extract_lets _ _ s0
  have h0 : Rooted ρ s0 := h.foldl (fun _ _ h => h.preemptedEnd)
  exact .foldl (.ite h0.jobLeave h0) (fun _ _ h => h.jobDeliver)

end Sys2Proof
end

section
/-! The causes of a start, and its reset entry (16 R526, R528, R536, R550). -/
namespace Sys2Proof
open Sys2Proof.Machine

/-! ### Reset entry -/

section
variable (s : State) (cold : Bool) (cause : Nat)

/-- The budget falls back within the power limit (16 R550). -/
theorem budget_startReport : pget (startReport s cold cause) P.budgetEffectiveW =
    min (pget (startReport s cold cause) P.fallbackBudgetW) (pget (startReport s cold cause) P.powerLimitW) := by
  rw [pget_startReport, pget_startReport _ _ _ P.fallbackBudgetW, pget_startReport _ _ _ P.powerLimitW]
  rfl

/-- A start's report leaves the time base and the pins, and times its stage. -/
theorem rest_startReport : (startReport s cold cause).tb = s.tb ∧ (startReport s cold cause).pins = s.pins ∧
    (startReport s cold cause).start = { s.start with cold := cold, tbStage := s.tb, pausedNs := 0 } := by
  simp only [startReport, pset_tb, pset_pins, pset_start, and_self]

/-- Reset entry reports the start at stage 0, with the budget fallen back, and leaves MOD_PWRGOOD and PERST#. -/
theorem resetEntry_spec {t : State} (ht : resetEntry s cold cause = t) :
    pget t P.startStage = 0 ∧ pget t P.startCause = cause ∧ pget t P.startKind = (if cold then 0 else 1) ∧ pget t P.startFault = 0 ∧ t.start.entry = true ∧
      t.start.cold = cold ∧ t.start.tbStage = t.tb ∧ pget t P.budgetEffectiveW = min (pget t P.fallbackBudgetW) (pget t P.powerLimitW) ∧ t.pins.cxlPerst = 0xFF ∧
      t.pins.modPwrgood = s.pins.modPwrgood ∧ t.pins.perst = s.pins.perst := by
  unfold resetEntry at ht
  extract_lets _ _ s1 s2 _ _ s4 at ht
  have h1 : Rooted (s.pins, s1.start) s1 := ⟨rfl, rfl⟩
  have h2 : Rooted (s.pins, s1.start) s2 := h1.foldl fun _ _ h => h.jobStop.preemptedAbort
  clear_value s2
  have hpins : s4.pins = { s.pins with cxlPerst := 0xFF } := congrArg (fun p : Pins => { p with cxlPerst := 0xFF }) h2.pins
  have hentry : s4.start.entry = true := congrArg StartSt.entry h2.start
  clear_value s4
  obtain ⟨htb, hpins', hstart⟩ := rest_startReport s4 cold cause
  subst ht
  rw [htb, hpins', hstart, hpins]
  exact ⟨startStage_startReport .., startCause_startReport .., startKind_startReport .., startFault_startReport .., hentry, rfl, rfl, budget_startReport .., rfl, rfl, rfl⟩

end

/-! ### The end of reset entry -/

/-- The device as reset entry's end clears it: the host port is down. -/
def entryCleared (u : State) : State := { volatileReset u with pins := { (volatileReset u).pins with hostPortUp := false } }

theorem exec_resetEntryDrainEnd {s : State} (hentry : s.start.entry = true) :
    ∃ u, exec .resetEntryDrainEnd s = .next (startReport (entryCleared u) (pget s P.startKind = 0) (pget s P.startCause)) := by
  change ∃ u, execResetEntryDrainEnd s = _
  unfold execResetEntryDrainEnd
  rw [if_pos hentry]
  extract_lets _ s1
  exact ⟨s1, by rfl⟩

/-- What a start's report leaves of what reset entry clears. -/
theorem cleared_startReport (s : State) (cold : Bool) (cause : Nat) : (startReport s cold cause).mem = s.mem ∧ (startReport s cold cause).seats = s.seats ∧
    (startReport s cold cause).shells = s.shells ∧ (startReport s cold cause).ctxs = s.ctxs ∧ (startReport s cold cause).sessions = s.sessions ∧
    (startReport s cold cause).lent = s.lent ∧ (startReport s cold cause).borrowed = s.borrowed := by
  simp only [startReport, pset_mem, pset_seats, pset_shells, pset_ctxs, pset_sessions, pset_lent, pset_borrowed, and_self]

/-- What the end of reset entry leaves: a cleared device at stage 0, whose kind and cause stand. -/
theorem startReport_entryCleared (u : State) (kind cause : Nat) {t : State} (ht : startReport (entryCleared u) (kind = 0) cause = t) :
    t.start.entry = false ∧ t.start.msf = false ∧ t.pins.hostPortUp = false ∧ pget t P.startStage = 0 ∧ pget t P.startCause = cause ∧
      pget t P.startKind = (if kind = 0 then 0 else 1) ∧ t.mem = [] ∧ t.seats = [] ∧ t.shells = [] ∧ t.ctxs = [] ∧ t.sessions = [] ∧ t.lent = [] ∧ t.borrowed = [] := by
  obtain ⟨-, hpins, hstart⟩ := rest_startReport (entryCleared u) (kind = 0) cause
  obtain ⟨hmem, hseats, hshells, hctxs, hsessions, hlent, hborrowed⟩ := cleared_startReport (entryCleared u) (kind = 0) cause
  subst ht
  rw [hpins, hstart, hmem, hseats, hshells, hctxs, hsessions, hlent, hborrowed]
  refine ⟨rfl, rfl, rfl, startStage_startReport .., startCause_startReport .., ?_, rfl, rfl, rfl, rfl, rfl, rfl, rfl⟩
  rw [startKind_startReport]
  simp only [decide_eq_true_eq]

/-! ### The causes -/

section
variable {s : State}

theorem exec_perstRelease (hperst : s.pins.perst = true) {u : State} (hu : u = { s with pins := { s.pins with perst := false, perstWarm := false } }) :
    (s.pins.inputGood = true → s.pins.perstWarm = true → exec .perstRelease s = .next (resetEntry u false 1)) ∧
    ((s.pins.inputGood = false ∨ s.pins.perstWarm = false) → exec .perstRelease s = .next { u with start := { u.start with tbStage := s.tb, pausedNs := 0 } }) := by
  subst hu
  change (_ → _ → execPerstRelease s = _) ∧ (_ → execPerstRelease s = _)
  unfold execPerstRelease
  rw [if_neg (by simp [hperst])]
  exact ⟨fun hgood hwarm => if_pos ⟨hgood, hwarm⟩, fun hno => if_neg (by simp only [not_and_or, Bool.not_eq_true]; exact hno)⟩

/-- A cause in a powered device begins reset entry. -/
theorem causeStart_of_powered (hgood : s.pins.inputGood = true) (hpwr : s.pins.modPwrgood = true) (hperst : s.pins.perst = false) (cold : Bool) (cause : Nat) :
    causeStart s cold cause = .next (resetEntry s cold cause) := if_pos ⟨hgood, hpwr, by simp [hperst]⟩

variable (hgood : s.pins.inputGood = true) (hpwr : s.pins.modPwrgood = true) (hperst : s.pins.perst = false)
include hgood hpwr hperst

theorem exec_linkCauses (hport : s.pins.hostPortUp = true) :
    exec .hotReset s = .next (resetEntry { s with pins := { s.pins with hostPortUp := false } } false 2) ∧
    exec .pcieRefclkLoss s = .next (resetEntry { s with pins := { s.pins with hostPortUp := false } } false 2) :=
  ⟨(if_pos hport).trans (causeStart_of_powered (s := { s with pins := { s.pins with hostPortUp := false } }) hgood hpwr hperst false 2),
    (if_pos hport).trans (causeStart_of_powered (s := { s with pins := { s.pins with hostPortUp := false } }) hgood hpwr hperst false 2)⟩

theorem exec_deviceResets (hruns : coxRuns s = true) (hsig : s.start.sigFault = false) :
    exec .deviceResetWarm s = .next (resetEntry (pset s P.deviceReset 1) false 3) ∧ exec .deviceResetCold s = .next (resetEntry (pset s P.deviceReset 2) true 4) :=
  ⟨(if_pos ⟨hruns, by simp [hsig]⟩).trans (causeStart_of_powered (s := pset s P.deviceReset 1) hgood hpwr hperst false 3),
    (if_pos ⟨hruns, by simp [hsig]⟩).trans (causeStart_of_powered (s := pset s P.deviceReset 2) hgood hpwr hperst true 4)⟩

theorem exec_coxWatchdogExpiry : ∃ u, exec .coxWatchdogExpiry s = .next (resetEntry u false 5) :=
  ⟨_, if_pos ⟨hgood, hpwr, by simp [hperst]⟩⟩

end

/-- Settles O4: the causes of Table Start-1, reset entry, whose stop of the jobs leaves pins and start, and its end. -/
theorem startCauses : Obligations.StartCauses := by
  refine ⟨fun s hperst => exec_perstRelease hperst rfl,
    fun s hgood hpwr hperst => ⟨exec_linkCauses hgood hpwr hperst, exec_deviceResets hgood hpwr hperst, exec_coxWatchdogExpiry hgood hpwr hperst⟩,
    fun s cold cause => resetEntry_spec s cold cause rfl, fun s hentry => ?_⟩
  obtain ⟨u, hexec⟩ := exec_resetEntryDrainEnd hentry
  exact ⟨_, hexec, startReport_entryCleared u _ _ rfl⟩

end Sys2Proof
end
